-- ==== Sys2Proof/Word.lean ====
section
/-! DEFINITION. The words of the GD-88: bytes, 32-bit registers and 64-bit words (R7, R11). -/

namespace Sys2Proof

/-- One byte of memory, of a ring or of a message. -/
abbrev Byte := BitVec 8

/-- A 32-bit register or an FP32 bit pattern. -/
abbrev Word := BitVec 32

/-- A 64-bit register, reference or operation word. -/
abbrev DWord := BitVec 64

end Sys2Proof
end

