-- ==== Sys2Proof/Syntax.lean ====
section
/-! DEFINITION. The commands the part takes from outside and the events it undergoes: one constructor of `Instr` per
row of the table of operations and events, with the data each one carries. -/

namespace Sys2Proof

/-- Table 9-3: a fabric message. The fields not listed in the table (CRC, flit framing) are the link's own. -/
structure Msg where
  dstPkg : BitVec 6
  srcPkg : BitVec 6
  srcNode : BitVec 8
  op : BitVec 4
  cls : BitVec 2
  d : Bool
  t : Bool
  tenant : BitVec 10
  tag : BitVec 10
  len : BitVec 2
  status : BitVec 8
  count : BitVec 6
  addr : BitVec 48
  payload : List Byte
deriving DecidableEq, Repr

/-- Where a register access enters: BAR0 of the physical function, BAR2 of a function (R23), or a device address as
firmware and the fabric use it (R17). -/
inductive Aperture where
  | bar0 (off : BitVec 26)
  | bar2 (fn : BitVec 10) (off : BitVec 16)
  | device (addr : BitVec 48)
deriving DecidableEq, Repr

/-- A read: a REQ READ message, or a host read of a BAR of `n` bytes. -/
inductive ReadReq where
  | msg (m : Msg)
  | host (ap : Aperture) (n : Nat)
deriving DecidableEq, Repr

/-- Table 19-2 without the sequence number, which the writer gives. -/
structure FlogBody where
  tick : DWord
  code : BitVec 16
  severity : Byte
  die : Byte
  node : BitVec 16
  tenant : BitVec 16
  detail0 : Word
  detail1 : DWord
deriving DecidableEq, Repr

/-- A span frame as received (R234 to R238, Table 10-1): the logical lanes whose codeword was corrected and those whose
codeword could not be, the control word, and the messages that end in it. -/
structure RxFrame where
  corrected : BitVec 8
  uncorrected : BitVec 8
  seq : BitVec 16
  ack : BitVec 16
  nack : Bool
  pool : BitVec 3
  freed : BitVec 16
  remapReq : Bool
  remapLane : BitVec 3
  narrowReq : Bool
  msgs : List Msg
deriving DecidableEq, Repr

/-- What training of a span port found (R240, R241). -/
structure PortTraining where
  peer : Bool
  peerPkg : BitVec 6
  peerPort : BitVec 5
  rxBad : BitVec 9
  txBad : BitVec 9
deriving DecidableEq, Repr

/-- A slip: the tenant whose ring it lay in and its 64 bytes as firmware took them (R287). -/
structure Slip where
  tenant : BitVec 10
  bytes : List Byte
deriving DecidableEq, Repr

/-- A scrubbed memory: a stack or a bed (R197). -/
inductive ScrubMem where
  | stack (n : Fin 12)
  | bed (core : Fin 64)
deriving DecidableEq, Repr

/-- A unit that scrubs at its own pace: a channel of a stack or a bank of a bed (R197). -/
inductive ScrubUnit where
  | channel (n : Fin 12) (c : Fin 16)
  | bank (core : Fin 64) (b : Fin 128)
deriving DecidableEq, Repr

/-- Who writes LSE_REVOKE (R324). -/
inductive RevokeWriter where
  | host | active | standby
deriving DecidableEq, Repr

/-- How a ramp ends (R333). -/
inductive RampCause where
  | ok | short | low | notGood
deriving DecidableEq, Repr

/-- The thermal flags of Table 15-2 that have a dwell. -/
inductive ThFlag where
  | dramHot | logicHot | rising
deriving DecidableEq, Repr

/-- R349, Table 15-4: what firmware recorded: powers in 0.1 W, temperatures in 0.1 °C. -/
structure RthMeasure where
  p1 : BitVec 16
  p2 : BitVec 16
  td1 : BitVec 16
  tl1 : BitVec 16
  tc1 : BitVec 16
  td2 : BitVec 16
  tl2 : BitVec 16
  tc2 : BitVec 16
deriving DecidableEq, Repr

/-- R438: a thermistor conversion in units of 0.5 °C, clamped to a byte. -/
inductive Thermistor where
  | temp (halfDegrees : Byte)
  | openCircuit
  | shorted
deriving DecidableEq, Repr

/-- R395: what link training found. -/
structure LinkFindings where
  retired : List (Fin 12 × Fin 4 × BitVec 5)
  hbmNoTrain : List (Fin 12 × Fin 16)
  isolated : BitVec 8
  ports : List PortTraining
deriving DecidableEq, Repr

/-- R398, R399: what the memory test found: failing channels and banks with the pass that found them, and how many
times VIN_ALERT_N interrupted one pass. -/
structure MemFindings where
  channels : List (Fin 12 × Fin 16 × Fin 5)
  banks : List (Fin 64 × Fin 128 × Fin 5)
  restarts : List (Fin 5 × BitVec 4)
deriving DecidableEq, Repr

/-- R400: what the self-test found. -/
structure SelfFindings where
  checkerChannels : List (Fin 12 × Fin 16)
  checkerCores : List (Fin 64)
  arrayCores : List (Fin 64)
  chainCores : List (Fin 64)
deriving DecidableEq, Repr

/-- R401, R402: the facts of a firmware image that its checks use. -/
structure ImageFacts where
  readable : Bool
  headerOk : Bool
  keyIndex : BitVec 2
  keyHashOk : Bool
  signatureOk : Bool
  bodyOk : Bool
  secver : Word
  length : Word
  build : DWord
deriving DecidableEq, Repr

/-- A unit with event counters (R417). -/
inductive CtrUnit where
  | core (k : Fin 64)
  | channel (n : Fin 12) (c : Fin 16)
  | port (p : Fin 24)
  | engine (e : Fin 32)
deriving DecidableEq, Repr

/-- Table 19-5: a trace record without its tick. -/
structure TraceBody where
  kind : BitVec 16
  unit : Byte
  cls : BitVec 4
  tenant : BitVec 16
  a : DWord
  b : DWord
deriving DecidableEq, Repr

/-- The commands of the part: one constructor per row of the table of operations and events. -/
inductive Instr where
  /-- REGISTER_WRITE (R11): A write to a register that has no row of its own is applied by size and alignment rules, per register, in ascending address order. -/
  | registerWrite (ap : Aperture) (data : List Byte)
  /-- READ (R215): A REQ READ message of up to 256 bytes arrives at its target and is answered with one RSP. -/
  | read (r : ReadReq)
  /-- ATOMIC_ADD (R215): A REQ ATOMIC_ADD message adds 64 bits at its target and returns the old value in one RSP. -/
  | atomicAdd (m : Msg)
  /-- WRITE (R215): A posted WRB WRITE message arrives at its destination and is applied without a response. -/
  | write (m : Msg)
  /-- WRITE_NP (R215): A non-posted WRB WRITE_NP message is applied at its destination and acknowledged with one RSP. -/
  | writeNp (m : Msg)
  /-- FABRIC_FENCE (R139): A WRB FENCE message returns its ACK only after every earlier write of its flow has been accepted by the bed port. -/
  | fabricFence (m : Msg)
  /-- DATA (R215): An RSP DATA message carrying read data arrives at the requester, which always sinks it. -/
  | dataRsp (m : Msg)
  /-- ACK (R215): An RSP ACK message completes a non-posted write, fence or atomic at the requester. -/
  | ackRsp (m : Msg)
  /-- ERROR (R215): An RSP ERROR message delivers an error status such as ADDRESS, POISONED, NODE_LOST or SEGMENT to the requester. -/
  | errorRsp (m : Msg)
  /-- EVENT (R365): A CTL EVENT message reaches the interrupt controller and makes an idle source pending, or is lost and counted. -/
  | event (source : BitVec 11)
  /-- LEASE_REVOKE (R324): A CTL LEASE_REVOKE message makes a node drop the revoked leases by kind and acknowledge. -/
  | leaseRevoke (node : BitVec 8) (owner : BitVec 12)
  /-- QUIESCE (R411): A CTL QUIESCE message stops or releases a sequencer or transfer engine for one tenant or for all. -/
  | quiesce (node : BitVec 8) (addr : BitVec 48) (tenant : BitVec 10)
  /-- CREDIT (R227): A CTL CREDIT message returns credits on a guest link. -/
  | credit (guest : Fin 2) (cls : BitVec 2) (count : BitVec 16)
  /-- CAP (R230): A CTL CAP message delivers a capability structure, after which the gateway negotiates or declares the link incompatible. -/
  | cap (guest : Fin 2) (bytes : List Byte)
  /-- FAULT_LOG_ENTRY (R412): A fault-log entry arrives at a log writer, which numbers it and stores it in slot seq mod 8192. -/
  | faultLogEntry (e : FlogBody)
  /-- VOYLA_CRC_ERROR (R213): A receiver detects a CRC error on a Voyla sub-channel and requests a replay of the kept handshakes. -/
  | voylaCrcError (die : Fin 12) (port : Fin 4) (sub : BitVec 5) (sixteenth : Bool)
  /-- FABRIC_TIMEOUT (R221): A requester's 10 ms wait for an RSP expires and the issuing operation completes with a fabric-timeout error. -/
  | fabricTimeout (node : BitVec 8) (tag : BitVec 10)
  /-- ROUTE_DETOUR (R225): Firmware reprograms the route tables with detours around a lost tower within 1 ms. -/
  | routeDetour
  /-- GUEST_TRAINING_TIMEOUT (R227): A guest UCIe link finds no partner within 100 ms and reports no device present. -/
  | guestTrainingTimeout (guest : Fin 2)
  /-- GUEST_ENABLE (R229): Setting VOY_GCTL.enable in the negotiated state enables guest traffic bound to the tenant. -/
  | guestEnable (guest : Fin 2) (tenant : BitVec 10)
  /-- RESET_LINK (R231): Writing VOY_GCTL.reset_link retrains the guest link from step 1 of discovery. -/
  | resetLink (guest : Fin 2)
  /-- GUEST_LINK_DOWN (R231): The guest link goes down after enabling and traffic to the guest is answered NODE_LOST or discarded. -/
  | guestLinkDown (guest : Fin 2)
  /-- SPAN_FRAME (R237): A span frame is received, corrected, checked in sequence, acknowledged or nacked, and its messages and control word taken. -/
  | spanFrame (port : Fin 24) (f : RxFrame)
  /-- LANE_LOSS (R242): A receive lane loses lock or delivers eight uncorrectable codewords and is lost. -/
  | laneLoss (port : Fin 24) (lane : Fin 9)
  /-- HOLD_TIMEOUT (R244): A spare-lane sequence that has not ended by t0 + 2 µs narrows the port, or a hold that does not end takes the port down. -/
  | holdTimeout (port : Fin 24)
  /-- SPAN_NO_PEER (R241): A port whose lanes find no partner within 100 ms stays down with cause NO_PEER. -/
  | spanNoPeer (port : Fin 24)
  /-- SPAN_ROUTE_REMOVAL (R245): Firmware removes a down port from every package route entry within 1 ms. -/
  | spanRouteRemoval (port : Fin 24)
  /-- RETRAIN (R245): Writing SPN_CTL.retrain takes the port down if it is up and retrains it from training. -/
  | retrain (port : Fin 24)
  /-- SPN_CTL_ENABLE (R250): Clearing SPN_CTL.enable holds the port down with cause DISABLED, and setting it releases the port. -/
  | spnCtlEnable (port : Fin 24) (value : Word)
  /-- UNDERVOLTAGE_STOP (R40): The die voltage falls below 0.50 V and the tower's handshake sources stop admitting data. -/
  | undervoltageStop (tower : Fin 8)
  /-- UNDERVOLTAGE_RESUME (R40): The die voltage recovers above 0.53 V and the tower's sources resume where they stopped. -/
  | undervoltageResume (tower : Fin 8)
  /-- UNDERVOLTAGE_TOWER_LOSS (R40): The voltage stays below 0.50 V for 1 ms and the tower is lost. -/
  | undervoltageTowerLoss (tower : Fin 8)
  /-- TIMEBASE_TICK (R374): The timebase count increments by one every 5 ns tick. -/
  | timebaseTick
  /-- TIMEBASE_FIRST_LOCK (R374): After 1 ms of steady TIMEREF edges the timebase locks for the first time since VAUX rose. -/
  | timebaseFirstLock
  /-- TIMEREF_LOSS (R375): No TIMEREF edge arrives for 200 ns and the timebase enters holdover. -/
  | timerefLoss
  /-- TIMEREF_RELOCK (R375): TIMEREF edges are stable for 1 ms and the timebase relocks without stepping the count. -/
  | timerefRelock
  /-- SYNC_LOAD (R377): A SYNC rising edge while armed and locked loads TB_PRESET two TIMEREF periods later. -/
  | syncLoad
  /-- ARM (R377): Setting TB_CTL.arm makes the next SYNC edge load the preset. -/
  | arm
  /-- DISARM (R379): Writing TB_CTL.disarm clears arm. -/
  | disarm
  /-- BANK_REFRESH (R48): Each bed bank starts a refresh every 390 ticks at its offset and is busy for 88 ns. -/
  | bankRefresh (core : Fin 64) (bank : Fin 128)
  /-- REFRESH_COMPLETE (R49): A refresh ends and an access or compute activation that waited for the bank proceeds. -/
  | refreshComplete (core : Fin 64) (bank : Fin 128)
  /-- STEPMON_MEASUREMENT (R50): A core completes 4096 handshakes without a wait and the step-rate monitor measures their ticks. -/
  | stepmonMeasurement (core : Fin 64) (ticks : BitVec 16)
  /-- STEPMON_WINDOW_END (R50): A step-rate window ends and rate takes the lowest rate measured in it. -/
  | stepmonWindowEnd (tower : Fin 8)
  /-- MATMUL (R263): A MATMUL operation is checked and issued to the array or a quadrant. -/
  | matmul (list : Nat) (early : Option (List Byte))
  /-- SHADOW_LOAD (R61): A quadrant's shadow weight set completes its 128-step load. -/
  | shadowLoad (core : Fin 64) (quad : Fin 4)
  /-- SWAP (R61): A quadrant swaps its shadow and active weight sets in one step. -/
  | swap (core : Fin 64) (quad : Fin 4)
  /-- ROW_BROADCAST (R63): The whole-mode array loads a 64 KiB row set in one broadcast step once the bed data has arrived. -/
  | rowBroadcast (core : Fin 64)
  /-- VCHAIN (R75): A VCHAIN operation is checked and issued to the vector chain. -/
  | vchain (list : Nat) (early : Option (List Byte))
  /-- VCHAIN_BEAT (R75): A beat enters the vector chain and passes all eight stages. -/
  | vchainBeat (core : Fin 64)
  /-- QS_WINDOW_END (R111): A quantise-stage counter's window ends after 2^win_log2 elements and its counts restart. -/
  | qsWindowEnd (core : Fin 64) (counter : Fin 9)
  /-- CORE_QSCTL_WRITE (R113): A write to CORE_QSCTLn takes effect between beats and restarts the window. -/
  | coreQsctlWrite (core : Fin 64) (counter : Fin 9) (value : Word)
  /-- CORE_QSCTL_CLEAR (R113): A write with CORE_QSCTLn.clear also zeroes CORE_QSTOTn. -/
  | coreQsctlClear (core : Fin 64) (counter : Fin 9) (value : Word)
  /-- EXC_CLEAR (R115): Writing 1 to CORE_QSSTAT.exc_clear zeroes exceeded. -/
  | excClear (core : Fin 64) (value : Word)
  /-- PARTIAL (R133): A single 64-bit write to word 0 of a command slot issues a PARTIAL bank command, which is checked and set BUSY or refused. -/
  | partialCmd (core : Fin 64) (bank : Fin 128) (slot : Fin 2) (word0 : DWord)
  /-- BANK_COMMAND_START (R148): A waiting bank command starts once the quota or mode allows it. -/
  | bankCommandStart (core : Fin 64) (bank : Fin 128) (slot : Fin 2)
  /-- COMPUTE_ACTIVATION (R149): A held compute activation is granted in round-robin order when the timing rules allow. -/
  | computeActivation (core : Fin 64)
  /-- BANK_COMMAND_DONE (R136): A bank command completes, writing its payload and then the DONE header, and counts in BED_DONECNT. -/
  | bankCommandDone (core : Fin 64) (bank : Fin 128) (slot : Fin 2)
  /-- BANK_PAUSE (R150): After a lowered quota, the most recently started banks pause at their next row boundary. -/
  | bankPause (core : Fin 64)
  /-- BANK_RESUME (R150): A paused bank resumes, earliest-started first, once fewer than n banks run. -/
  | bankResume (core : Fin 64)
  /-- BANK_ORDINARY_ACCESS (R151): A computing bank serves an ordinary access at its next row boundary and resumes. -/
  | bankOrdinaryAccess (core : Fin 64) (bank : Fin 128)
  /-- BED_FENCE (R139): A non-posted write to the bed fence word or BED_FENCE returns once the source's earlier window writes are accepted. -/
  | bedFence (core : Fin 64) (m : Msg)
  /-- BED_CTL_CANCEL (R143): Writing BED_CTL.cancel ends every BUSY command of the bed in FAULT CANCELLED. -/
  | bedCtlCancel (core : Fin 64) (value : Word)
  /-- BED_CTL_CLEAR (R144): Writing BED_CTL.clear empties every result slot and zeroes command slots and query buffers, cancelling first. -/
  | bedCtlClear (core : Fin 64) (value : Word)
  /-- BED_MODE_WRITE (R147): A write to BED_MODE.mode starts a change between ORDINARY, QUOTA and TIMING. -/
  | bedModeWrite (core : Fin 64) (value : Word)
  /-- BED_MODE_CHANGE_COMPLETE (R147): A pending mode change finishes, waking or powering down the bank units and clearing pending. -/
  | bedModeChangeComplete (core : Fin 64)
  /-- BED_LIMIT_WRITE (R150): A write to BED_QUOTA, BED_TIMING0 or BED_TIMING1 takes effect at each bank's next row boundary. -/
  | bedLimitWrite (core : Fin 64) (which : Fin 3) (value : Word)
  /-- ATTEND (R169): An ATTEND operation sieves its batch entries and computes flash attention over the cache. -/
  | attend (list : Nat) (early : Option (List Byte))
  /-- KV_APPEND (R160): A KV_APPEND operation quantises key and value vectors into an append buffer. -/
  | kvAppend (list : Nat) (early : Option (List Byte))
  /-- KV_SCATTER (R161): A KV_SCATTER operation checks positions and writes quantised pieces into their block slots. -/
  | kvScatter (list : Nat) (early : Option (List Byte))
  /-- BANK_ATTEND (R175): A BANK_ATTEND operation drives the bank units of each map member and writes partial sets. -/
  | bankAttend (list : Nat) (early : Option (List Byte))
  /-- BANK_PARTIAL_FOLD (R177): A member sequencer reads a DONE result slot and folds the bank partial into the member's partial set. -/
  | bankPartialFold (core : Fin 64) (bank : Fin 128) (slot : Fin 2)
  /-- MERGE (R179): A MERGE operation folds partial sets in address order and writes one set or a finalised output. -/
  | merge (list : Nat) (early : Option (List Byte))
  /-- COPY (R267): A COPY operation moves bytes through the data mover, locally or to another package. -/
  | copy (list : Nat) (early : Option (List Byte))
  /-- GATHER (R267): A GATHER operation reads its index vector, checks every row and copies the indexed rows. -/
  | gather (list : Nat) (early : Option (List Byte))
  /-- DIGEST (R268): A DIGEST operation feeds a byte range to the 64-bit digest. -/
  | digestOp (list : Nat) (early : Option (List Byte))
  /-- SAMPLE (R269): A SAMPLE operation draws one index per row from its weights with the Philox generator. -/
  | sample (list : Nat) (early : Option (List Byte))
  /-- BANK_FENCE (R270): A BANK_FENCE operation fences the list's earlier writes to each named bed window. -/
  | bankFence (list : Nat) (early : Option (List Byte))
  /-- FENCE (R260): A FENCE operation holds the list until every earlier operation has completed. -/
  | fence (list : Nat) (early : Option (List Byte))
  /-- SIGNAL (R270): A SIGNAL operation adds a value to a semaphore with one ATOMIC_ADD after earlier operations complete. -/
  | signal (list : Nat) (early : Option (List Byte))
  /-- WAIT (R270): A WAIT operation reads its semaphore at issue and completes when the value reaches its target. -/
  | wait (list : Nat) (early : Option (List Byte))
  /-- WAIT_POLL (R270): A pending WAIT reads its semaphore again every 64 ticks. -/
  | waitPoll (list : Nat)
  /-- WAIT_TIMEOUT (R271): A WAIT's timeout runs out and it fails with WAIT_TIMEOUT. -/
  | waitTimeout (list : Nat)
  /-- LAUNCH_AT (R272): A LAUNCH_AT operation holds issue until the timebase reaches its count, or completes late at once. -/
  | launchAt (list : Nat) (early : Option (List Byte))
  /-- LAUNCH_AT_RELEASE (R272): The timebase reaches a LAUNCH_AT count and the sequencer issues the next operation within 4 ticks. -/
  | launchAtRelease (list : Nat)
  /-- END (R273): An END operation waits for earlier operations and completes the list. -/
  | endOp (list : Nat) (early : Option (List Byte))
  /-- OPERATION_COMPLETE (R259): An operation's writes are all accepted, its record is written and its counters stop. -/
  | operationComplete (list : Nat) (offset : Nat)
  /-- PREEMPTION_REQUEST (R277): Firmware requests preemption of a list, which stops issuing and withdraws unstarted operations. -/
  | preemptionRequest (list : Nat)
  /-- TILE_BOUNDARY_STOP (R276): A started resumable operation stops at its next tile boundary and drains its pipelines. -/
  | tileBoundaryStop (list : Nat) (offset : Nat)
  /-- RESUME_RECORD_WRITE (R278): The part writes store images, counter state, operation entries and finally the valid resume header. -/
  | resumeRecordWrite (list : Nat)
  /-- LIST_RESUME (R279): A preempted list restores its images and continues each stopped operation from its next tile. -/
  | listResume (list : Nat)
  /-- STACK_CHANNEL_FAILURE_REPORT (R200): A stack reports the failure of a channel, which is declared failing. -/
  | stackChannelFailureReport (stack : Fin 12) (channel : Fin 16)
  /-- CHANNEL_PHY_TIMEOUT (R200): A channel PHY loses training and does not regain it within 1 ms, and the channel is declared failing. -/
  | channelPhyTimeout (stack : Fin 12) (channel : Fin 16)
  /-- SCRUB_READ (R197): A scrubber reads its next sector in an idle cycle at its pacing and acts by outcome. -/
  | scrubRead (unit : ScrubUnit)
  /-- SCRUB_LAP_END (R199): The last channel or bank finishes a scrub lap, the lap length is loaded and the next lap begins. -/
  | scrubLapEnd (unit : ScrubMem)
  /-- SCRUB_LATE (R199): A scrub lap's running time passes limit_h, setting late, raising the event and logging once. -/
  | scrubLate (unit : ScrubMem)
  /-- STACK_TEMP_READ (R204): A controller reads its stack's temperature every 1 ms and sets the throttle fraction and hot flag. -/
  | stackTempRead (stack : Fin 12) (temp : Byte) (critical : Bool)
  /-- STACK_HOT_CLEAR (R205): MEM_STAT.hot clears after the temperature has stayed below 83 °C for 10 ms. -/
  | stackHotClear (stack : Fin 12)
  /-- HELLO (R299): A HELLO slip negotiates the protocol version and opens a session. -/
  | hello (slip : Slip)
  /-- SEG_ALLOC (R300): A SEG_ALLOC slip installs zeroed memory in an empty segment slot. -/
  | segAlloc (slip : Slip)
  /-- SEG_FREE (R319): A SEG_FREE slip removes a segment or attached entry, queueing owned memory for zeroing. -/
  | segFree (slip : Slip)
  /-- SEG_SHARE (R318): A SEG_SHARE slip makes a private segment shared and issues a key for a grantee. -/
  | segShare (slip : Slip)
  /-- SEG_ATTACH (R318): A SEG_ATTACH slip installs an attached entry of a shared segment in the grantee's slot. -/
  | segAttach (slip : Slip)
  /-- SUBMIT (R302): A SUBMIT slip passes a work list to admission by energy. -/
  | submit (slip : Slip)
  /-- CANCEL (R303): A CANCEL slip stops a live SUBMIT or TRANSFER by the stopping rules. -/
  | cancel (slip : Slip)
  /-- TRANSFER (R304): A TRANSFER slip checks its extent and places jobs of granules on transfer engines. -/
  | transfer (slip : Slip) (engines : List (Fin 32))
  /-- POLICY (R305): A POLICY slip sets a policy item and reports the value in force. -/
  | policy (slip : Slip)
  /-- FLOORPLAN (R306): A FLOORPLAN slip copies one stable generation of the record to host memory. -/
  | floorplan (slip : Slip) (hostOk : Bool)
  /-- COUNTERS_READ (R417): A COUNTERS read slip latches a unit's counters and copies them to host memory. -/
  | countersRead (slip : Slip) (hostOk : Bool)
  /-- COUNTERS_SELECT (R417): A COUNTERS select slip sets the event of one counter. -/
  | countersSelect (slip : Slip)
  /-- TRACE_START (R421): A TRACE start installs the trace segment, zeroes pointers and drop count and enables classes. -/
  | traceStart (slip : Slip)
  /-- TRACE_STOP (R421): A TRACE stop disables the trace classes. -/
  | traceStop (slip : Slip)
  /-- TRACE_FLUSH (R421): A TRACE flush writes a flush record and completes when earlier records are in memory. -/
  | traceFlush (slip : Slip)
  /-- TIMESYNC_READ (R298): A TIMESYNC read slip returns timebase counts and holdover state. -/
  | timesyncRead (slip : Slip)
  /-- TIMESYNC_ARM (R377): A TIMESYNC arm slip writes TB_PRESET and sets TB_CTL.arm. -/
  | timesyncArm (slip : Slip)
  /-- WAITGRAPH (R308): A WAITGRAPH slip builds the wait-for graph and writes it to host memory. -/
  | waitgraph (slip : Slip) (hostOk : Bool)
  /-- TENANT_RESET (R325): A TENANT_RESET slip runs the tenant reset sequence for a target tenant. -/
  | tenantReset (slip : Slip)
  /-- RESERVED_SLIP_OPCODE (R296): A slip with a reserved opcode completes with MALFORMED and changes nothing. -/
  | reservedSlipOpcode (slip : Slip)
  /-- DOORBELL (R286): A write to MB_SQ_TAIL hands slips to firmware, or is ignored and reported when it moves tail wrongly. -/
  | doorbell (tenant : BitVec 10) (tail : Word)
  /-- CQ_HEAD_WRITE (R286): A write to MB_CQ_HEAD releases completion slots, or is ignored and reported when invalid. -/
  | cqHeadWrite (tenant : BitVec 10) (head : Word)
  /-- HELD_NOTICE_WRITE (R309): Held and merged notices are written in order of first occurrence as completion space frees. -/
  | heldNoticeWrite (tenant : BitVec 10)
  /-- VECTOR_0 (R289): Firmware sends a function's vector 0 message, shared by the writes made before it. -/
  | vector0 (tenant : BitVec 10)
  /-- FATAL_VECTOR (R288): Hardware sends the physical function's fatal vector after a bit of MB_FATAL rises. -/
  | fatalVector
  /-- HEARTBEAT_RELOAD (R282): The active complex reloads its hardware heartbeat. -/
  | heartbeatReload
  /-- HEARTBEAT_TIMEOUT (R282): The heartbeat is not reloaded for 10 ms, so primary_silent sets and the standby complex starts. -/
  | heartbeatTimeout
  /-- FAILOVER (R283): The standby complex republishes the record, finishes journaled slips and serves every mailbox. -/
  | failover
  /-- STANDBY_HEARTBEAT_TIMEOUT (R282): The standby complex fails to reload its heartbeat for 10 ms and firmware_dead sets. -/
  | standbyHeartbeatTimeout
  /-- FUNCTION_LEVEL_RESET (R310): A PCIe function-level reset resets a virtual function's tenant, or only the physical function's mailbox. -/
  | functionLevelReset (tenant : BitVec 10)
  /-- NUMVFS_CHANGE (R312): Reducing NumVFs or clearing VF Enable resets every tenant that stops existing. -/
  | numvfsChange (numVfs : BitVec 16) (vfEnable : Bool)
  /-- LIST_ADMISSION (R355): Firmware admits a waiting list that fits the power budget, checks its header and charges its power. -/
  | listAdmission
  /-- POWER_PREEMPTION (R357): Firmware preempts a resumable list for a waiting list or an overcommitted tower. -/
  | powerPreemption
  /-- IDLE_POWER_MEASUREMENT (R354): Firmware remeasures a tower's idle power after 10 ms without a list. -/
  | idlePowerMeasurement (tower : Fin 8) (mean : BitVec 16)
  /-- BANK_LIMIT_UPDATE (R358): Firmware rewrites a bed's bank-unit limits from the tower's headroom, at most once per 1 ms. -/
  | bankLimitUpdate (core : Fin 64)
  /-- STACK_IDLE_PAUSE (R359): While a scrub lap is over half its limit, firmware pauses admission each second and preempts resumable lists. -/
  | stackIdlePause
  /-- SEGMENT_REMOVAL (R317): A segment entry removal completes once every access checked under it is accepted or has failed. -/
  | segmentRemoval (tenant : BitVec 10) (slot : Fin 16)
  /-- ZEROING (R320): Firmware zeroes released memory after its removal completes and no bank command names it. -/
  | zeroing
  /-- TRANSFER_GRANULE (R322): A transfer engine serves one granule of a queued job on its round-robin turn. -/
  | transferGranule (engine : Fin 32) (hostBytes : List Byte) (pcieOk : Bool)
  /-- LSE_REVOKE_WRITE (R324): A write of an owner id to LSE_REVOKE revokes every held lease of that owner. -/
  | lseRevokeWrite (owner : BitVec 12) (writer : RevokeWriter)
  /-- REVOCATION_COMPLETE (R324): Every node has acknowledged the revocation and LSE_STAT.busy clears. -/
  | revocationComplete
  /-- REVOCATION_ACK_TIMEOUT (R410): A node that has not acknowledged a revocation within 10 ms is treated as lost. -/
  | revocationAckTimeout (node : BitVec 8)
  /-- RESET_N_RELEASE (R330): RESET_N rises, the straps latch, the I/O dies soft-start and the part enters GREEN. -/
  | resetNRelease (straps : BitVec 12) (ioUp : BitVec 4)
  /-- RESET_N_ASSERT (R330): RESET_N falls and every tower and I/O die domain is turned off at once. -/
  | resetNAssert
  /-- PERST_N (R392): A PERST_N assertion or hot reset resets only the primary PCIe port. -/
  | perstN (port : Fin 4) (low : Bool)
  /-- VAUX_RISE (R374): VAUX rises and the timebase, fault log and VAUX registers start from reset. -/
  | vauxRise
  /-- VAUX_LOSS (R431): VAUX falls below 1.62 V and every domain turns off with pins in their unpowered state. -/
  | vauxLoss
  /-- ON_REQUEST (R331): Setting VREG_CTL.on requests a domain on, starting a ramp, or is refused in LATCHED or DEAD. -/
  | onRequest (domain : Fin 12) (value : Word)
  /-- OFF_REQUEST (R331): Clearing VREG_CTL.on requests a domain off, or is refused for a tower after FIRED. -/
  | offRequest (domain : Fin 12) (value : Word)
  /-- VREG_CTL_CLEAR (R331): Writing VREG_CTL.clear moves a LATCHED domain to OFF. -/
  | vregCtlClear (domain : Fin 12) (value : Word)
  /-- RAMP_COMPLETE (R333): A ramp passes its checks and the domain reaches ON. -/
  | rampComplete (domain : Fin 12)
  /-- RAMP_FAILURE (R333): A ramp fails with SHORT, LOW or NOT_GOOD and the domain goes to LATCHED or DEAD. -/
  | rampFailure (domain : Fin 12) (cause : RampCause)
  /-- FUSE_LOAD (R333): A tower's logic leaves reset and finishes its fuse load 2 ms after ON. -/
  | fuseLoad (tower : Fin 8)
  /-- DISCHARGE_COMPLETE (R331): A discharging output falls below 0.1 V and the domain enters OFF or its cause's state. -/
  | dischargeComplete (domain : Fin 12)
  /-- PHASE_DROP (R335): A regulator phase is found open or sense-faulty and is dropped. -/
  | phaseDrop (domain : Fin 12) (phase : Fin 16) (sense : Bool) (currents : List (BitVec 16))
  /-- VIN_ALERT (R339): VIN_ALERT_N falls and every tower envelope drops to 0.65 V while admission stops. -/
  | vinAlert
  /-- ENVELOPE_RETURN (R339): After VIN_ALERT_N has been high 1 ms, tower envelopes return one tower every 100 µs. -/
  | envelopeReturn
  /-- BROWNOUT (R340): VIN stays below 1.55 V for 20 µs and the part asserts FAULT_N and turns every domain off. -/
  | brownout (vin : BitVec 16)
  /-- SENSOR_CONVERSION (R342): Each thermal sensor converts every 10 µs and its reading and rise are updated. -/
  | sensorConversion (tower : Fin 8) (raw : List (BitVec 16))
  /-- SENSOR_FAILURE (R343): A sensor converts out of range or not for 100 µs and is left out of throttling. -/
  | sensorFailure (tower : Fin 8) (sensor : Fin 32)
  /-- THROTTLE_UPDATE (R344): Every 10 µs the part computes the thermal reduction and writes p_hw. -/
  | throttleUpdate (tower : Fin 8)
  /-- THERMAL_FLAG_CLEAR (R345): A thermal status flag clears after its clear condition has held for 10 ms. -/
  | thermalFlagClear (tower : Fin 8) (flag : ThFlag)
  /-- RTH_ESTIMATION (R349): Firmware estimates a tower's thermal resistances by a power step at the policy interval. -/
  | rthEstimation (tower : Fin 8) (m : RthMeasure)
  /-- THERMISTOR_CONVERSION (R438): Each coolant thermistor input is converted every 10 ms and its validity and Tc updated. -/
  | thermistorConversion (in0 : Thermistor) (in1 : Thermistor)
  /-- GOVERNOR_EVALUATION (R351): Every 1 µs the governor compares wanted voltage, envelope and power and moves the set-point. -/
  | governorEvaluation (tower : Fin 8) (millivolts : BitVec 16) (current : BitVec 16)
  /-- FLOOR_PLAN_UPDATE (R31): Firmware publishes a new floor-plan generation within 1 ms of a loss. -/
  | floorPlanUpdate
  /-- IC_PEND_SET (R366): A write to IC_PEND_SETn makes named idle sources pending. -/
  | icPendSet (n : Fin 64) (value : Word)
  /-- IC_PEND_CLR (R366): A write to IC_PEND_CLRn makes named pending sources idle and withdraws their offers. -/
  | icPendClr (n : Fin 64) (value : Word)
  /-- IC_MASK_SET (R366): A write to IC_MASK_SETn masks named sources and withdraws their offers. -/
  | icMaskSet (n : Fin 64) (value : Word)
  /-- IC_MASK_CLR (R366): A write to IC_MASK_CLRn unmasks named sources. -/
  | icMaskClr (n : Fin 64) (value : Word)
  /-- IC_TGT_EN_SET (R369): A write to IC_TGT_EN_SET enables targets. -/
  | icTgtEnSet (value : Word)
  /-- IC_TGT_EN_CLR (R369): A write to IC_TGT_EN_CLR disables targets. -/
  | icTgtEnClr (value : Word)
  /-- IC_ACK (R371): A read of IC_ACKt claims the source offered to target t. -/
  | icAck (target : Fin 8)
  /-- IC_EOI (R371): A write to IC_EOIt makes a source active on t idle, or is logged as an access error. -/
  | icEoi (target : Fin 8) (value : Word)
  /-- ASYNC_LATCH_SEND (R367): A source's asynchronous latch sends its EVENT once its path is free. -/
  | asyncLatchSend (source : BitVec 11)
  /-- FUSES (R393): The FUSES command reads the defect map and loads bin, options, fused cores and keys. -/
  | fuses
  /-- POWER (R394): The POWER command raises the I/O dies to 0.80 V and soft-starts the named towers in turn. -/
  | power (ioUp : BitVec 4) (ramps : List RampCause)
  /-- LINKS (R395): The LINKS command trains and qualifies every link, or retrains only down span ports on repeat. -/
  | links (f : LinkFindings)
  /-- MEMTEST (R398): The MEMTEST command tests memory, maps out channels, retires banks and zeroes every sector. -/
  | memtest (f : MemFindings)
  /-- SELFTEST (R400): The SELFTEST command runs checker, array and vector-chain tests and disables failing cores. -/
  | selftest (f : SelfFindings)
  /-- FIRMWARE (R401): The FIRMWARE command loads and authenticates an image and starts both control complexes. -/
  | firmware (first : ImageFacts) (second : ImageFacts)
  /-- FW_START_TIMEOUT (R391): Firmware does not reach BISQUE within 5 s and the step ends with FW_START. -/
  | fwStartTimeout
  /-- PUBLISH (R403): The PUBLISH command loads route tables, applies the bin and publishes the floor plan to reach FIRED. -/
  | publish (route : List Byte)
  /-- TOWER_OFF (R405): The TOWER_OFF command ends a tower's work and turns it off to OFF as a host-requested loss. -/
  | towerOff
  /-- RESERVED_BOOT_COMMAND (R390): A reserved boot-window command code ends with BAD_ARG. -/
  | reservedBootCommand (code : Byte)
  /-- BOOT_STEP_COMPLETE (R390): A boot step ends, writing its result code and detail and clearing busy. -/
  | bootStepComplete
  /-- FLOG_CTL_CLEAR (R414): Writing FLOG_CTL.clear zeroes every slot of that log copy. -/
  | flogCtlClear (x : Fin 2)
  /-- I3C_INDEX_WRITE (R416): An I3C private write selects a fault-log slot or the status block. -/
  | i3cIndexWrite (x : Fin 2) (index : BitVec 16)
  /-- I3C_READ (R416): An I3C private read returns the selected slot or the 32-byte status block. -/
  | i3cRead (x : Fin 2)
  /-- CTR_SEL_WRITE (R417): A write of CTR_SELn selects an event and zeroes the count. -/
  | ctrSelWrite (unit : CtrUnit) (n : Fin 16) (value : Word)
  /-- TRACE_RECORD (R421): A tower writes a trace record of an enabled class, or drops and counts it when the ring is full. -/
  | traceRecord (tower : Fin 8) (r : TraceBody)
  /-- TENANT_WATCHDOG (R423): A tenant makes no progress for 1 s, the watchdog fires and firmware walks the wait-for graph. -/
  | tenantWatchdog (tenant : BitVec 10)
  /-- WATCHDOG_WAIT_END (R424): After ten watchdog periods without progress, every WAIT of the tenant with timeout 0 ends with WAIT_TIMEOUT. -/
  | watchdogWaitEnd (tenant : BitVec 10)
  /-- CORE_SAMPLE (R426): Writing CS_CTL.go makes firmware stop, quiesce and capture a core sample to host memory. -/
  | coreSample
  /-- CORE_SAMPLE_COMPLETE (R426): The capture finishes and CS_STAT reports done and size, or failed. -/
  | coreSampleComplete (ok : Bool) (size : BitVec 29)
  /-- INDICATOR_TEST_PULSE (R440): Once per second an indicator with short pulses gets a 20 µs test pulse that checks for an open lamp. -/
  | indicatorTestPulse (lamp : Fin 4) (lampOpen : Bool)
  /-- BYPASS (R437): The JTAG BYPASS instruction, and every unsupported instruction, acts as bypass. -/
  | bypass (tdi : Bool)
  /-- IDCODE (R437): The JTAG IDCODE instruction returns 0x1088_0A47. -/
  | idcode
  /-- SAMPLE_PRELOAD (R437): The JTAG SAMPLE/PRELOAD instruction samples the boundary-scan chain without changing the part. -/
  | samplePreload
  /-- CONTROL_SRAM_UNCORRECTABLE (R408): An uncorrectable error in control-complex SRAM sets MB_FATAL.sram_ue and writes fault-log entry 0x0082. -/
  | controlSramUncorrectable (standby : Bool) (offset : BitVec 32)
  /-- PCIE_COMPLETION_TIMEOUT (R304): A PCIe access to host memory ends in a completion timeout, stopping the transfer with HOST_FAULT. -/
  | pcieCompletionTimeout (engine : Fin 32)
  /-- VIN_ALERT_RELEASE (R339): VIN_ALERT_N returns high, clearing VIN_STAT.alert and starting the 1 ms wait before the envelopes return. -/
  | vinAlertRelease
  /-- SPARE_LANE_LOCK (R243): The receiver locks and aligns the lane brought in as spare, then clears remap_req and sends nack so replay resumes traffic. -/
  | spareLaneLock (port : Fin 24)
  /-- SPAN_PORT_TRAINED (R240): A span port that is retraining outside bring-up finishes training and qualification and comes up with its lane map. -/
  | spanPortTrained (port : Fin 24) (f : PortTraining)
  /-- GUEST_LINK_UP (R227): The guest UCIe link finishes training at its negotiated width and rate, and the gateway sends its CAP message. -/
  | guestLinkUp (guest : Fin 2) (rate : BitVec 3) (x64 : Bool)
deriving DecidableEq, Repr

end Sys2Proof
end

