-- ==== Sys2Proof/WellFormed.lean ====
section
/-! DEFINITION. Which commands are well formed: the sizes and codes that a command's data has whatever its values are. The
machine takes an ill-formed command too, and then does what the shape it finds makes of it. -/

namespace Sys2Proof

/-- R287: a slip is 64 bytes. -/
def Slip.wf (x : Slip) : Bool := x.bytes.length = 64

/-- R214: bytes of payload that a len field names. -/
def payloadOf (len : BitVec 2) : Nat := if len = 0 then 0 else 32 * 2 ^ len.toNat

/-- Table 9-3, Table 9-4: a message of a class and operation, with a payload of the size it names: none for a READ and a
FENCE; status is zero but in an RSP; count is 0x3F but for a payload of 64 bytes. -/
def Msg.wf (m : Msg) (cls op : Nat) : Bool :=
  decide (m.cls.toNat = cls) && decide (m.op.toNat = op) &&
  decide (m.payload.length = if (cls = 2 && op = 0) || (cls = 1 && op = 2) then 0 else payloadOf m.len) &&
  (decide (cls = 0) || decide (m.status = 0)) && (decide (m.len = 1) || decide (m.count = 0x3F))

/-- R251: an earlier copy of an operation is whole units of 32 bytes, at most 15. -/
def earlyWf (early : Option (List Byte)) : Bool :=
  match early with
  | none => true
  | some bs => decide (bs.length % 32 = 0) && decide (0 < bs.length) && decide (bs.length ≤ 480)

/-- A command is well formed. -/
def Instr.wf : Instr → Bool
  | .registerWrite _ data => decide (0 < data.length)
  | .read (.msg m) => m.wf 2 0
  | .read (.host _ n) => decide (0 < n)
  | .atomicAdd m => m.wf 2 1
  | .write m => m.wf 1 0
  | .writeNp m => m.wf 1 1
  | .fabricFence m => m.wf 1 2
  | .bedFence _ m => m.wf 1 2
  | .dataRsp m => m.wf 0 0
  | .ackRsp m => m.wf 0 1
  | .errorRsp m => m.wf 0 2
  | .cap _ bytes => decide (bytes.length = 32)
  | .matmul _ e | .vchain _ e | .attend _ e | .kvAppend _ e | .kvScatter _ e | .bankAttend _ e | .merge _ e | .copy _ e
  | .gather _ e | .digestOp _ e | .sample _ e | .bankFence _ e | .fence _ e | .signal _ e | .wait _ e | .launchAt _ e
  | .endOp _ e => earlyWf e
  | .hello x | .segAlloc x | .segFree x | .segShare x | .segAttach x | .submit x | .cancel x | .policy x | .countersSelect x
  | .traceStart x | .traceStop x | .traceFlush x | .timesyncRead x | .timesyncArm x | .tenantReset x
  | .reservedSlipOpcode x => x.wf
  | .floorplan x _ | .countersRead x _ | .waitgraph x _ => x.wf
  | .transfer x engines => x.wf && decide (engines.length ≤ 8) && decide engines.Nodup
  | .transferGranule _ hostBytes _ => decide (hostBytes.length ≤ 4096)
  | .sensorConversion _ raw => decide (raw.length = 32)
  | .power _ ramps => decide (ramps.length = 8)
  | .publish route => decide (route.length = 0) || decide (route.length = 0x104)
  | _ => true

end Sys2Proof
end

