-- ==== Sys2Proof/Machine/Bits.lean ====
section
/-! DEFINITION. Bit fields, little-endian bytes (R7) and sparse maps in one canonical form. -/

namespace Sys2Proof.Machine

/-! ### Sparse maps

A map is a list of key and value pairs, keys strictly rising, and no entry equal to what an unlisted key reads as
(the default `d`). Memory, the register region and every table of units are held this way. -/

/-- The value at key `k`; an unlisted key reads as `d k`. -/
def look {α : Type} (d : Nat → α) : List (Nat × α) → Nat → α
  | [], k => d k
  | (k', v) :: m, k => if k = k' then v else look d m k

/-- Insert `v` at `k`, whatever the default is, keeping the keys rising. -/
def insertKey {α : Type} (k : Nat) (v : α) : List (Nat × α) → List (Nat × α)
  | [] => [(k, v)]
  | (k', v') :: m =>
    if k < k' then (k, v) :: (k', v') :: m
    else if k = k' then (k, v) :: m
    else (k', v') :: insertKey k v m

/-- Remove every entry of `k`. -/
def removeKey {α : Type} (k : Nat) : List (Nat × α) → List (Nat × α)
  | [] => []
  | (k', v') :: m => if k = k' then removeKey k m else (k', v') :: removeKey k m

/-- Write `v` at `k`: the entry disappears when `v` is what an unlisted key reads as. -/
def put {α : Type} [DecidableEq α] (d : Nat → α) (m : List (Nat × α)) (k : Nat) (v : α) : List (Nat × α) :=
  if v = d k then removeKey k m else insertKey k v m

/-- The canonical form: keys strictly rising, no entry equal to the default. -/
def mapWf {α : Type} [DecidableEq α] (d : Nat → α) : List (Nat × α) → Bool
  | [] => true
  | [(k, v)] => !decide (v = d k)
  | (k, v) :: (k', v') :: m => !decide (v = d k) && decide (k < k') && mapWf d ((k', v') :: m)

/-- What an unlisted byte of memory reads as (R202: every populated sector holds zero). Log entry 5. -/
def zeroByte (_ : Nat) : Byte := 0

/-- Read one byte of a byte map. -/
def rdB (m : List (Nat × Byte)) (a : Nat) : Byte := look zeroByte m a

/-- Write one byte of a byte map. -/
def wrB (m : List (Nat × Byte)) (a : Nat) (b : Byte) : List (Nat × Byte) := put zeroByte m a b

/-- Read `n` bytes from `a` upward. -/
def rdBytes (m : List (Nat × Byte)) (a n : Nat) : List Byte := (List.range n).map fun i => rdB m (a + i)

/-- Write bytes from `a` upward. -/
def wrBytes (m : List (Nat × Byte)) (a : Nat) : List Byte → List (Nat × Byte)
  | [] => m
  | b :: bs => wrBytes (wrB m a b) (a + 1) bs

/-- Make the `n` bytes from `a` read as zero. -/
def zeroRange (m : List (Nat × Byte)) (a n : Nat) : List (Nat × Byte) :=
  m.filter fun c => !(decide (a ≤ c.1) && decide (c.1 < a + n))

/-- The listed bytes of a range, with addresses counted from the range's start. -/
def sliceRange (m : List (Nat × Byte)) (a n : Nat) : List (Nat × Byte) :=
  (m.filter fun c => decide (a ≤ c.1) && decide (c.1 < a + n)).map fun c => (c.1 - a, c.2)

/-! ### Little-endian numbers -/

/-- R7: the number whose little-endian bytes are given. -/
def leNat : List Byte → Nat
  | [] => 0
  | b :: bs => b.toNat + 256 * leNat bs

/-- R7: the `n` little-endian bytes of a number. -/
def leBytes : Nat → Nat → List Byte
  | 0, _ => []
  | n + 1, v => BitVec.ofNat 8 v :: leBytes n (v / 256)

/-- The `n`-byte little-endian number at offset `o` of a byte list; bytes beyond its end read as zero. -/
def fieldAt (bs : List Byte) (o n : Nat) : Nat := leNat ((bs.drop o).take n)

/-- Read the `n`-byte little-endian number at `a` of a byte map. -/
def rdLe (m : List (Nat × Byte)) (a n : Nat) : Nat := leNat (rdBytes m a n)

/-- Write the `n`-byte little-endian number `v` at `a`. -/
def wrLe (m : List (Nat × Byte)) (a n v : Nat) : List (Nat × Byte) := wrBytes m a (leBytes n v)

/-- All bytes are zero. -/
def allZero (bs : List Byte) : Bool := bs.all fun b => b == 0

/-! ### Bit fields -/

/-- Field of `w` bits from bit `lo`. -/
def getF (v : DWord) (lo w : Nat) : Nat := v.toNat / 2 ^ lo % 2 ^ w

/-- Replace the field of `w` bits from bit `lo` by `x` modulo its width. -/
def putF (v : DWord) (lo w x : Nat) : DWord :=
  BitVec.ofNat 64 (v.toNat - getF v lo w * 2 ^ lo + x % 2 ^ w * 2 ^ lo)

/-- Field of a plain number. -/
def nf (v lo w : Nat) : Nat := v / 2 ^ lo % 2 ^ w

/-- Bit `i` of a plain number. -/
def nbit (v i : Nat) : Bool := v / 2 ^ i % 2 = 1

/-- Count up and stop at `top`. -/
def satAdd (top v n : Nat) : Nat := min top (v + n)

/-- Number of bits set among the low `n` bits. -/
def popCount (n v : Nat) : Nat := ((List.range n).filter fun i => nbit v i).length

/-- Division rounded up. -/
def ceilDiv (a b : Nat) : Nat := (a + b - 1) / b

/-- Two's-complement value of the low `w` bits. -/
def toSigned (w v : Nat) : Int := if v % 2 ^ w < 2 ^ (w - 1) then (v % 2 ^ w : Nat) else (v % 2 ^ w : Nat) - (2 ^ w : Nat)

/-- Low `w` bits of an integer. -/
def ofSigned (w : Nat) (v : Int) : Nat := (v % (2 ^ w : Nat)).toNat

/-- Value of a flag as a number. -/
def b2n (b : Bool) : Nat := if b then 1 else 0

/-- Signed field of a plain number. -/
def pos (x : Int) : Int := if 0 < x then x else 0

/-- Replace the element at place `i` of a list. -/
def setAt {α : Type} : List α → Nat → α → List α
  | [], _, _ => []
  | _ :: xs, 0, y => y :: xs
  | x :: xs, n + 1, y => x :: setAt xs n y

/-- Split a list into pieces of `n` (the last may be shorter); `fuel` bounds the number of pieces. -/
def chunks {α : Type} (n : Nat) : Nat → List α → List (List α)
  | 0, _ => []
  | _, [] => []
  | fuel + 1, x :: xs => (x :: xs).take n :: chunks n fuel ((x :: xs).drop n)

end Sys2Proof.Machine
end

