-- ==== Sys2Proof/Machine/Codes.lean ====
section
/-! DEFINITION. The digest of R385. -/

namespace Sys2Proof.Machine

/-! ### Digest (R385): CRC-64 of ECMA-182, most significant bit first, not reflected -/

def crc64Poly : Nat := 0x42F0E1EBA9EA3693
def crc64Init : Nat := 0xFFFFFFFFFFFFFFFF

/-- One bit. -/
def crc64Bit (c : Nat) (b : Bool) : Nat :=
  let sh := c * 2 % 2 ^ 64
  if nbit c 63 = b then sh else Nat.xor sh crc64Poly

/-- One byte, most significant bit first. -/
def crc64Byte (c : Nat) (x : Byte) : Nat := (List.range 8).foldl (fun c i => crc64Bit c (nbit x.toNat (7 - i))) c

/-- The running digest after more bytes. -/
def crc64Feed (c : Nat) (bs : List Byte) : Nat := bs.foldl crc64Byte c

/-- The digest reported for a running value. -/
def crc64Final (c : Nat) : Nat := Nat.xor c 0xFFFFFFFFFFFFFFFF

end Sys2Proof.Machine
end

