-- ==== Sys2Proof/Machine/Float.lean ====
section
/-! DEFINITION. The number formats of Table 5-1 and their exact arithmetic: one rounding, to nearest with ties away
from zero, and saturation instead of infinity (R56, R81, R93 to R98). Every result is computed exactly as a fraction
and rounded at the end. -/

namespace Sys2Proof.Machine

/-- What a floating-point pattern stands for: a NaN, an infinity, or a signed fraction. -/
inductive Val where
  | nan
  | inf (neg : Bool)
  | fin (neg : Bool) (num den : Nat)
deriving DecidableEq, Repr

/-- A floating-point format of Table 5-1. -/
structure Fmt where
  ebits : Nat
  mbits : Nat
  bias : Nat
  /-- Encoding of the largest finite magnitude. -/
  maxMag : Nat
  /-- Encoding of infinity; E4M3 has none, and any larger magnitude than `maxMag` is NaN there. -/
  infMag : Option Nat
  /-- The NaN the part produces. -/
  nanBits : Nat
deriving DecidableEq, Repr

def fp32 : Fmt := ⟨8, 23, 127, 0x7F7FFFFF, some 0x7F800000, 0x7FC00000⟩
def bf16 : Fmt := ⟨8, 7, 127, 0x7F7F, some 0x7F80, 0x7FC0⟩
def fp16 : Fmt := ⟨5, 10, 15, 0x7BFF, some 0x7C00, 0x7E00⟩
def e5m2 : Fmt := ⟨5, 2, 15, 0x7B, some 0x7C, 0x7E⟩
def e4m3 : Fmt := ⟨4, 3, 7, 0x7E, none, 0x7F⟩

/-- Position of the sign bit. -/
def Fmt.signBit (f : Fmt) : Nat := f.ebits + f.mbits

/-- Magnitude part of a pattern. -/
def Fmt.mag (f : Fmt) (bits : Nat) : Nat := bits % 2 ^ f.signBit

/-- Sign of a pattern. -/
def Fmt.neg (f : Fmt) (bits : Nat) : Bool := nbit bits f.signBit

/-- R95, R96: the value of a pattern; every NaN encoding is accepted. -/
def decodeF (f : Fmt) (bits : Nat) : Val :=
  let m := f.mag bits
  let s := f.neg bits
  if f.infMag = some m then .inf s
  else if f.maxMag < m then .nan
  else
    let e := m / 2 ^ f.mbits
    let frac := m % 2 ^ f.mbits
    -- subnormal: frac * 2^(1 - bias - mbits); normal: (2^mbits + frac) * 2^(e - bias - mbits)
    let sig := if e = 0 then frac else 2 ^ f.mbits + frac
    let ex := if e = 0 then 1 else e
    let low := f.bias + f.mbits
    if low ≤ ex then .fin s (sig * 2 ^ (ex - low)) 1 else .fin s sig (2 ^ (low - ex))

/-- Largest integer e with 2^e at most num / den (num and den positive). -/
def floorLog2Q (num den : Nat) : Int :=
  let e : Int := (Nat.log2 num : Int) - (Nat.log2 den : Int)
  let ok := if 0 ≤ e then decide (den * 2 ^ e.toNat ≤ num) else decide (den ≤ num * 2 ^ (-e).toNat)
  if ok then e else e - 1

/-- Nearest integer of num / den, ties up (the magnitude, so ties away from zero). -/
def roundQ (num den : Nat) : Nat := (2 * num + den) / (2 * den)

/-- R97: the magnitude encoding of num / den rounded to the format's precision with the exponent range unbounded
above; larger than `maxMag` when the rounded value exceeds the largest finite magnitude. -/
def roundMag (f : Fmt) (num den : Nat) : Nat :=
  if num = 0 then 0
  else
    let e := max (floorLog2Q num den) (1 - (f.bias : Int))
    let u := e - (f.mbits : Int)
    let q := if 0 ≤ u then roundQ num (den * 2 ^ u.toNat) else roundQ (num * 2 ^ (-u).toNat) den
    ((e + (f.bias : Int) - 1).toNat) * 2 ^ f.mbits + q

/-- Attach a sign. -/
def Fmt.withSign (f : Fmt) (neg : Bool) (mag : Nat) : Nat := if neg then 2 ^ f.signBit + mag else mag

/-- A narrowed value and whether it saturated (R97, R98). -/
structure Narrowed where
  bits : Nat
  sat : Bool
deriving DecidableEq, Repr

/-- R97, R98: narrow a value to a floating-point format. -/
def encodeF (f : Fmt) : Val → Narrowed
  | .nan => ⟨f.nanBits, false⟩
  | .inf s => ⟨f.withSign s f.maxMag, true⟩
  | .fin s num den =>
    let m := roundMag f num den
    if f.maxMag < m then ⟨f.withSign s f.maxMag, true⟩ else ⟨f.withSign s m, false⟩

/-- The integer of a signed fraction's numerator. -/
def sgn (neg : Bool) (n : Nat) : Int := if neg then -(n : Int) else n

/-- R97, R98: narrow to an integer from lo to hi; a NaN becomes `z` and counts one saturation. -/
def encodeI (lo hi z : Int) : Val → Int × Bool
  | .nan => (z, true)
  | .inf s => (if s then lo else hi, true)
  | .fin s num den =>
    let r := sgn s (roundQ num den)
    if r < lo then (lo, true) else if hi < r then (hi, true) else (r, false)

/-- An exact integer as a value; zero is +0. -/
def Val.ofInt (i : Int) : Val := .fin (decide (i < 0)) i.natAbs 1

/-- Exact value with an integer numerator. -/
def Val.ofFrac (i : Int) (den : Nat) : Val := .fin (decide (i < 0)) i.natAbs den

def Val.isNan : Val → Bool
  | .nan => true
  | _ => false

def Val.negate : Val → Val
  | .nan => .nan
  | .inf s => .inf (!s)
  | .fin s n d => .fin (!s) n d

def Val.abs : Val → Val
  | .nan => .nan
  | .inf _ => .inf false
  | .fin _ n d => .fin false n d

/-- R56: the exact sum; an exact zero is +0 unless both addends are −0. -/
def Val.add : Val → Val → Val
  | .nan, _ => .nan
  | _, .nan => .nan
  | .inf s, .inf t => if s = t then .inf s else .nan
  | .inf s, .fin .. => .inf s
  | .fin .., .inf t => .inf t
  | .fin s n d, .fin t m e =>
    let i := sgn s n * e + sgn t m * d
    if i = 0 then .fin (s && t && n = 0 && m = 0) 0 1 else Val.ofFrac i (d * e)

def Val.sub (x y : Val) : Val := x.add y.negate

/-- R56: the exact product; zero times infinity has no defined value. -/
def Val.mul : Val → Val → Val
  | .nan, _ => .nan
  | _, .nan => .nan
  | .inf s, .inf t => .inf (xor s t)
  | .inf s, .fin t m _ => if m = 0 then .nan else .inf (xor s t)
  | .fin s n _, .inf t => if n = 0 then .nan else .inf (xor s t)
  | .fin s n d, .fin t m e => .fin (xor s t) (n * m) (d * e)

/-- The exact quotient; 0 / 0 and ∞ / ∞ have no defined value, and x / 0 is infinite. -/
def Val.div : Val → Val → Val
  | .nan, _ => .nan
  | _, .nan => .nan
  | .inf _, .inf _ => .nan
  | .inf s, .fin t _ _ => .inf (xor s t)
  | .fin s _ _, .inf t => .fin (xor s t) 0 1
  | .fin s n d, .fin t m e =>
    if m = 0 then (if n = 0 then .nan else .inf (xor s t)) else .fin (xor s t) (n * e) (d * m)

/-- x < y, for values that are not NaN; −0 equals +0. -/
def Val.lt : Val → Val → Bool
  | .nan, _ => false
  | _, .nan => false
  | .inf s, .inf t => s && !t
  | .inf s, .fin .. => s
  | .fin .., .inf t => !t
  | .fin s n d, .fin t m e => decide (sgn s n * e < sgn t m * d)

/-- x = y, for values that are not NaN. -/
def Val.eq : Val → Val → Bool
  | .nan, _ => false
  | _, .nan => false
  | .inf s, .inf t => s = t
  | .inf _, .fin .. => false
  | .fin .., .inf _ => false
  | .fin s n d, .fin t m e => decide (sgn s n * e = sgn t m * d)

def Val.le (x y : Val) : Bool := x.lt y || x.eq y

/-- Value is zero of either sign. -/
def Val.isZero : Val → Bool
  | .fin _ n _ => n = 0
  | _ => false

/-! ### FP32 operations -/

/-- Result of one FP32 operation: its bits, whether it saturated, and whether it made a NaN from non-NaN inputs. -/
structure FRes where
  bits : Word
  sat : Bool
  made : Bool
deriving DecidableEq, Repr

/-- Value of an FP32 pattern. -/
def v32 (x : Word) : Val := decodeF fp32 x.toNat

def canonNan : Word := 0x7FC00000
def fOne : Word := 0x3F800000
def fMax : Word := 0x7F7FFFFF
def fNegMax : Word := 0xFF7FFFFF
/-- −65,504 in FP32, the start of a running maximum (R126). -/
def mStart : Word := 0xC77FE000

/-- R56, R81: deliver an exact value as FP32, rounded once. `anyNan` tells whether an operand was NaN. -/
def finish32 (anyNan : Bool) (v : Val) : FRes :=
  match v with
  | .nan => ⟨canonNan, false, !anyNan⟩
  | v => let r := encodeF fp32 v; ⟨BitVec.ofNat 32 r.bits, r.sat, false⟩

def isNan32 (x : Word) : Bool := (v32 x).isNan
def isZero32 (x : Word) : Bool := (v32 x).isZero

def fadd (x y : Word) : FRes := finish32 (isNan32 x || isNan32 y) ((v32 x).add (v32 y))
def fsub (x y : Word) : FRes := finish32 (isNan32 x || isNan32 y) ((v32 x).sub (v32 y))
def fmul (x y : Word) : FRes := finish32 (isNan32 x || isNan32 y) ((v32 x).mul (v32 y))
def fdiv (x y : Word) : FRes := finish32 (isNan32 x || isNan32 y) ((v32 x).div (v32 y))
/-- R79 ARITH 0x4: x × a + b, rounded once. -/
def ffma (x a b : Word) : FRes :=
  finish32 (isNan32 x || isNan32 a || isNan32 b) (((v32 x).mul (v32 a)).add (v32 b))

/-- R81, R96: deliver a chosen operand: a NaN becomes the canonical one, an infinity saturates. -/
def deliver (x : Word) : FRes := finish32 true (v32 x)

/-- R81: min and max are NaN whenever an operand is. Equal operands give x (log entry 6). -/
def fmin (x a : Word) : FRes :=
  if isNan32 x || isNan32 a then ⟨canonNan, false, false⟩ else deliver (if (v32 a).lt (v32 x) then a else x)

def fmax (x a : Word) : FRes :=
  if isNan32 x || isNan32 a then ⟨canonNan, false, false⟩ else deliver (if (v32 x).lt (v32 a) then a else x)

def fabs (x : Word) : Word := if isNan32 x then canonNan else BitVec.ofNat 32 (x.toNat % 2 ^ 31)

/-- R73: an integer enters as FP32, rounded to nearest with ties away from zero. -/
def ofInt32 (i : Int) : Word := (finish32 false (Val.ofInt i)).bits

/-! ### Element formats of operations (R257) -/

/-- Bits of one element. -/
def fmtBits : Nat → Nat
  | 0 => 4
  | 1 => 8
  | 2 => 8
  | 3 => 8
  | 4 => 16
  | 5 => 16
  | _ => 32

/-- R446: bytes of a row of `n` elements, rounded up for INT4. -/
def rowBytes (fmt n : Nat) : Nat := ceilDiv (n * fmtBits fmt) 8

/-- R73: an element of a stream as FP32. INT4 and INT8 enter as integers, int32 is rounded, the floating-point formats
are exact. -/
def elemTo32 (fmt raw : Nat) : Word :=
  match fmt with
  | 0 => ofInt32 (toSigned 4 raw)
  | 1 => ofInt32 (toSigned 8 raw)
  | 2 => (finish32 true (decodeF e4m3 raw)).bits
  | 3 => if (decodeF e5m2 raw) = .inf (e5m2.neg raw) then (if e5m2.neg raw then 0xFF800000 else 0x7F800000)
         else (finish32 true (decodeF e5m2 raw)).bits
  | 4 => BitVec.ofNat 32 (raw % 2 ^ 16 * 2 ^ 16)
  | 5 => if (decodeF fp16 raw) = .inf (fp16.neg raw) then (if fp16.neg raw then 0xFF800000 else 0x7F800000)
         else (finish32 true (decodeF fp16 raw)).bits
  | 6 => BitVec.ofNat 32 raw
  | _ => ofInt32 (toSigned 32 raw)

/-- R74, R97, R98: narrow an FP32 lane to a destination format; the raw element and whether it saturated. -/
def elemFrom32 (fmt : Nat) (x : Word) : Nat × Bool :=
  match fmt with
  | 0 => let r := encodeI (-8) 7 0 (v32 x); (ofSigned 4 r.1, r.2)
  | 1 => let r := encodeI (-128) 127 0 (v32 x); (ofSigned 8 r.1, r.2)
  | 2 => let r := encodeF e4m3 (v32 x); (r.bits, r.sat)
  | 3 => let r := encodeF e5m2 (v32 x); (r.bits, r.sat)
  | 4 => let r := encodeF bf16 (v32 x); (r.bits, r.sat)
  | 5 => let r := encodeF fp16 (v32 x); (r.bits, r.sat)
  | 6 => if isNan32 x then (canonNan.toNat, false) else let r := encodeF fp32 (v32 x); (r.bits, r.sat)
  | _ => let r := encodeI (-(2 ^ 31)) (2 ^ 31 - 1) 0 (v32 x); (ofSigned 32 r.1, r.2)

/-- Saturate an exact integer at the int32 limits (R55). -/
def sat32 (i : Int) : Int × Bool :=
  if i < -(2 ^ 31) then (-(2 ^ 31), true) else if 2 ^ 31 - 1 < i then (2 ^ 31 - 1, true) else (i, false)

/-! ### Quantise and dequantise (R106 to R108) -/

/-- R106: the zero point that a source value gives: rounded once, saturated to −128 to 127; a NaN gives 0. -/
def zeroPointOf (x : Word) : Int := (encodeI (-128) 127 0 (v32 x)).1

/-- A scale that R107 treats as lost: ±0, infinite or NaN. -/
def badScale (a : Word) : Bool :=
  match v32 a with
  | .fin _ n _ => n = 0
  | _ => true

/-- R106, R107: quantise x with scale a and zero point z. Code format: 0 INT4, 1 INT8, 2 E4M3, 3 E5M2. The code stays
in FP32 (R88). -/
def quantise (cfmt : Nat) (x a : Word) (z : Int) : Word × Bool :=
  match cfmt with
  | 0 =>
    if badScale a then (0, true)
    else let r := encodeI (-8) 7 0 ((v32 x).div (v32 a)); (ofInt32 r.1, r.2)
  | 1 =>
    if badScale a then (ofInt32 z, true)
    else let r := encodeI (-128) 127 z (((v32 x).div (v32 a)).add (Val.ofInt z)); (ofInt32 r.1, r.2)
  | 2 =>
    if badScale a then (0, true)
    else let r := encodeF e4m3 ((v32 x).div (v32 a)); (elemTo32 2 r.bits, r.sat)
  | _ =>
    if badScale a then (0, true)
    else let r := encodeF e5m2 ((v32 x).div (v32 a)); (elemTo32 3 r.bits, r.sat)

/-- R108: dequantise: (x − z) × a, rounded once to FP32. -/
def dequantise (x a : Word) (z : Int) : FRes :=
  let d := if z = 0 then v32 x else (v32 x).sub (Val.ofInt z)
  finish32 (isNan32 x || isNan32 a) (d.mul (v32 a))

/-- Multiply by a power of two, exactly (then rounded once by the caller). -/
def Val.scale2 (v : Val) (e : Int) : Val :=
  match v with
  | .fin s n d => if 0 ≤ e then .fin s (n * 2 ^ e.toNat) d else .fin s n (d * 2 ^ (-e).toNat)
  | v => v

end Sys2Proof.Machine
end

