-- ==== Sys2Proof/Config.lean ====
section
/-! DEFINITION. The free values of the model: what the manual leaves open. No definition here has a body,
so no proof can see a value of it. -/

namespace Sys2Proof

/-- The values the manual leaves to firmware, to the fuse maker or to nobody: the n-th of them, `w` bits wide.
`State.freeCtr` is the counter it is applied to. Log entry 2. -/
opaque Config.freeBits (w : Nat) : Nat → BitVec w

/-- R82: the published transcendental tables (function of Table 4-4, FP32 argument). They are delivered with the
Ibandud compiler and are not in the manual. `Machine/Trans.lean` keeps the error bounds and special values of
Table 4-5 whatever this constant is. Log entry 3. -/
opaque Config.transTable (func : Nat) : BitVec 32 → BitVec 32

/-- R195, R267: bytes of a destination whose content the manual leaves undefined, by counter and position.
Log entry 4. -/
opaque Config.undefinedByte : Nat → Nat → BitVec 8

end Sys2Proof
end

