-- ==== Sys2Proof/Machine/State.lean ====
section
/-! DEFINITION. The state of the part as plain data: every register, store, buffer, queue and mode the manual gives it,
and the queue of waiting commands. Registers of the device address map stand in one map (`regs`, by device offset in the
register region, see `Machine/Regs.lean`), whose unlisted entries hold the reset value of the register's table. -/

namespace Sys2Proof.Machine

/-- A sparse map in the canonical form of `Machine/Bits.lean`. -/
abbrev SMap (α : Type) := List (Nat × α)

/-- Bytes by address, the canonical form of `Machine/Bits.lean`; an unlisted byte reads as zero. -/
abbrev Memory := List Host.Cell

/-- The canonical form of a memory holds. -/
abbrev Memory.wf (m : Memory) : Bool := mapWf zeroByte m

/-! ### Factory facts (R1, R393, R402) -/

inductive Bin where
  | gd8840 | gd8830 | gd8820
deriving DecidableEq, Repr

inductive Assembly where
  | s8x2 | s8x4 | s12x4
deriving DecidableEq, Repr

/-- What the fuses hold. They never change; the model gives one value for every run (log entry 10). -/
structure Fuses where
  bin : Bin := .gd8840
  assembly : Assembly := .s12x4
  /-- 0 without a guest, otherwise cc of the ordering code. -/
  guestConfig : Nat := 1
  /-- Cores fused off, a mask of 64 bits. -/
  fusedCores : Nat := 0
  /-- Banks retired at the factory: masks of 128 bits by core. -/
  retiredBanks : SMap Nat := []
  /-- Whether each copy of the defect map checks (R393). -/
  mapOk0 : Bool := true
  mapOk1 : Bool := true
  /-- Keys revoked, a mask of 4 bits, and the minimum security version (R402). -/
  revoked : Nat := 0
  minSecver : Nat := 0
deriving DecidableEq, Repr

/-! ### Fault log, interrupt controller -/

/-- Table 19-2: an entry as its writer stored it. -/
structure FlogEntry where
  seq : Nat
  body : FlogBody
deriving DecidableEq, Repr

/-- One copy of the fault log (R412 to R414): the last sequence number and the slots ever written. -/
structure Flog where
  seq : Nat := 0
  slots : SMap FlogEntry := []
  writerOk : Bool := true
  peerOk : Bool := true
  ue : Bool := false
  /-- Slot that the next I3C private read returns (R416). -/
  i3cIndex : Nat := 0
deriving DecidableEq, Repr

/-- R365: a source is idle, pending, or active on one target. -/
inductive SrcMode where
  | idle
  | pending
  | active (target : Nat)
deriving DecidableEq, Repr

/-- One interrupt source: its mode, its registers, and its asynchronous latch with the edges lost behind it (R367). -/
structure Src where
  mode : SrcMode := .idle
  masked : Bool := true
  prio : Nat := 0xFF
  targets : Nat := 0x0F
  latched : Bool := false
  latchLost : Nat := 0
deriving DecidableEq, Repr

/-- A source active on a target, with the group it was claimed at (R372). -/
structure Claimed where
  source : Nat
  group : Nat
deriving DecidableEq, Repr

/-- The interrupt controller (R362 to R373). -/
structure IC where
  srcs : SMap Src := []
  /-- Source offered to each target that holds an offer. -/
  offers : SMap Nat := []
  /-- Active sources of each target, the most recently claimed first. -/
  running : SMap (List Claimed) := []
  split : Nat := 4
  lost : Nat := 0
  tgtEn : Nat := 0x0F
  lastClaim : Nat := 7
deriving DecidableEq, Repr

/-! ### Timebase (R374 to R380) -/

structure Timebase where
  count : Nat := 0
  locked : Bool := false
  holdover : Bool := false
  holdoverSeen : Bool := false
  syncRefused : Bool := false
  loaded : Bool := false
  loads : Nat := 0
  lastLoad : Nat := 0
  preset : Nat := 0
  armed : Bool := false
deriving DecidableEq, Repr

/-! ### Power (R328 to R341) -/

/-- Table 14-2. -/
inductive DomState where
  | off | ramp | on | discharge | latched | dead
deriving DecidableEq, Repr

/-- A regulator domain beside its registers: its state, where a discharge ends, a remembered on request, and when its
state began. -/
structure Domain where
  state : DomState := .off
  /-- State after the discharge (R331). -/
  after : DomState := .off
  remembered : Bool := false
  since : Nat := 0
  /-- Tower: fuse load done (R333). -/
  fuseLoaded : Bool := false
  /-- Tower: lost in service (R337, R332). -/
  lost : Bool := false
  /-- Tower brought up again after FIRED, unused until the next bring-up (R332, R405). -/
  unused : Bool := false
  /-- Undervoltage monitor holds the tower since this instant (R40). -/
  uvSince : Option Nat := none
deriving DecidableEq, Repr

/-! ### Heat and governor (R342 to R353) -/

/-- A sensor: its last four conversions and its readings of the last 200 µs, newest first (R342), the instant of its
last conversion, and how many updates in a row its rise has been at the hardpan limit (R346). -/
structure Sensor where
  conv : List Int := []
  readings : List Int := []
  lastConv : Nat := 0
  failed : Bool := false
  steep : Nat := 0
deriving DecidableEq, Repr

/-- A flag with dwell (Table 15-2): set since, and clear condition held since. -/
structure DwellFlag where
  set : Bool := false
  since : Nat := 0
  clearSince : Option Nat := none
deriving DecidableEq, Repr

/-- What hardware and firmware keep of a tower beside its registers. -/
structure Thermal where
  sensors : SMap Sensor := []
  dramHot : DwellFlag := {}
  logicHot : DwellFlag := {}
  rising : DwellFlag := {}
  /-- R343: p_hw held at half of p_max until the next bring-up. -/
  halved : Bool := false
  lastRise : Nat := 0
  clampedNow : Bool := false
  /-- R339: envelope held at 0.65 V. -/
  vinLow : Bool := false
  /-- R349: accepted estimates, newest first, of R_D and R_L in units of 10^-6 °C/W. -/
  estD : List Nat := []
  estL : List Nat := []
  lastRth : Nat := 0
  /-- R354: idle power in 0.1 W, and since when the tower has run no list. -/
  idlePower : Nat := 0
  noListSince : Nat := 0
  /-- R357: since when p_hw has been short of the committed power. -/
  shortSince : Option Nat := none
  /-- R50: lowest rate measured in the running window. -/
  windowMin : Option Nat := none
  windowStart : Nat := 0
deriving DecidableEq, Repr

/-! ### Stacks, scrubbers, stored checks (R185 to R208) -/

/-- A bad sector outcome that counts toward a failing channel (R200): sector, instant, and whether it was ADDRESS. -/
structure BadSector where
  sector : Nat
  at_ : Nat
  address : Bool
deriving DecidableEq, Repr

structure Channel where
  recent : List BadSector := []
  /-- Next sector of the running lap, and whether this channel has finished it (R199). -/
  scrubPos : Nat := 0
  scrubDone : Bool := false
  lastScrub : Nat := 0
deriving DecidableEq, Repr

structure ScrubLap where
  start : Nat := 0
  lateLogged : Bool := false
deriving DecidableEq, Repr

structure Stack where
  hotSince : Nat := 0
  coolSince : Option Nat := none
  lap : ScrubLap := {}
  channels : SMap Channel := []
deriving DecidableEq, Repr

/-! ### Beds and bank units (R116 to R153) -/

/-- Where a bank command stands (R148 to R150). -/
inductive CmdState where
  | waiting | running | paused
deriving DecidableEq, Repr

/-- A BUSY bank command: its slot number 2b + s, sequence number, state, the start order of its bank, its command words and
the query records copied at issue (R128), the rows opened so far, whether it waits behind a mode change (R147), whether its
bank was computing when it came to its turn (R138), who issued it, and what its pass over the rows gave: the payload, a bad
row, saturations. -/
structure BankCmd where
  slot : Nat
  seq : Nat
  state : CmdState := .waiting
  order : Nat := 0
  words : List Byte := []
  query : List Byte := []
  rows : Nat := 0
  pending : Bool := false
  follows : Bool := false
  owner : Option (Nat × Nat) := none
  tenant : Nat := 0xFFFF
  payload : List Byte := []
  bad : Bool := false
  sats : Nat := 0
deriving DecidableEq, Repr

structure Bed where
  /-- BUSY commands in issue order. -/
  busy : List BankCmd := []
  startOrder : Nat := 0
  /-- Mode in force while a change is pending (R147). -/
  oldMode : Option Nat := none
  /-- Bank last granted an activation, and the instants of recent ones (R149). -/
  rrBank : Nat := 127
  acts : List Nat := []
  /-- Banks being refreshed, with the instant their refresh began (R48, R49). -/
  refreshing : SMap Nat := []
  lastLimit : Nat := 0
  lap : ScrubLap := {}
  banks : SMap Channel := []
deriving DecidableEq, Repr

/-! BANK_ATTEND's work, laid out at issue (R175, R176). -/

/-- One PARTIAL command to issue: bank, first row, blocks, full slots of the last block, first position. -/
structure BankOrder where
  bank : Nat
  row : Nat
  blocks : Nat
  last : Nat
  p0 : Nat
deriving DecidableEq, Repr

/-- A member's share of a set: its core, the offset of its partial set in the output, its commands in order. -/
structure MemberPlan where
  core : Nat
  setOff : Nat
  orders : List BankOrder
deriving DecidableEq, Repr

/-- The sets of one (entry, KV head, map): the entry's index, references to its query records and output, the offset of the
KV head's records, the command fields that all share, and the members. -/
structure SetPlan where
  entry : Nat
  queries : Nat
  queryOff : Nat
  output : Nat
  d : Nat
  widths : Nat
  pstride : Nat
  members : List MemberPlan
deriving DecidableEq, Repr

/-- A member at work on the set under way (R177): the commands not yet issued, those issued and not yet folded (index, slot
number, seq), how many are folded, the running fold, and the token slots counted. -/
structure MemberRun where
  todo : List Nat
  held : List (Nat × Nat × Nat) := []
  folded : Nat := 0
  fold : List Byte := []
  count : Nat := 0
deriving DecidableEq, Repr

/-! ### Arrays and chains (R51 to R92) -/

/-- A weight set of a quadrant or of the whole array: the tile it holds and its bytes and scales. -/
structure WSet where
  list : Nat
  op : Nat
  tile : Nat
  weights : Memory
  scales : Memory
deriving DecidableEq, Repr

/-- A job of the vector chain: an operation's pass over a stream, with its progress. -/
structure ChainJob where
  list : Nat
  op : Nat
  /-- For a fused MATMUL: the first row and column and the shape of the block of results that enters (R264). -/
  row0 : Nat
  col0 : Nat
  rows : Nat
  cols : Nat
  fused : Bool
  /-- Next row, next beat in the row, and the running reduction of the row. -/
  row : Nat := 0
  beat : Nat := 0
  red : List Nat := []
deriving DecidableEq, Repr

/-- A core's array and chain. -/
structure CoreUnit where
  /-- MATMULs issued and not finished on the array, in the order in which they reached it (R60, R258). -/
  arrayQ : List (Nat × Nat) := []
  shadow : SMap WSet := []
  active : SMap WSet := []
  whole : Option WSet := none
  chainQ : List ChainJob := []
  /-- Quadrant whose fused tile the chain took last (R90). -/
  lastQuad : Nat := 3
  tenant : Option Nat := none
deriving DecidableEq, Repr

/-! ### Work lists (R251 to R280) -/

/-- What a list waits for or does with an operation in flight. -/
inductive OpStage where
  | queued
  | started
  | stopped
  | finished
deriving DecidableEq, Repr

/-- An operation in flight (R258, R275). -/
structure Op where
  offset : Nat
  bytes : List Byte
  stage : OpStage := .queued
  status : Nat := 0xFF
  detail : Nat := 0
  steps : Nat := 0
  auxSteps : Nat := 0
  resumeSteps : Nat := 0
  resumes : Nat := 0
  preempted : Bool := false
  preemptedTicks : Nat := 0
  stoppedAt : Nat := 0
  late : Bool := false
  start : Nat := 0
  issuedAt : Nat := 0
  lastPoll : Nat := 0
  digest : Nat := 0
  /-- Next tile, and progress inside it: rows, beats or entries, as the operation's own chapter counts them. -/
  tile : Nat := 0
  sub : Nat := 0
  ctrStart : List Nat := []
  ctrBase : List Nat := []
  fold : List Byte := []
  /-- BANK_ATTEND: all sets, and the members of the one under way. -/
  plan : List SetPlan := []
  members : List MemberRun := []
  /-- Blocks read at issue: chain binding and chain descriptor (R264, R77); RNG seed (R383); context map. -/
  aux : List Byte := []
  order : Nat := 0
deriving DecidableEq, Repr

/-- Where a list stands. -/
inductive ListState where
  | waiting
  | running
  | stopping
  | preempted
  | resuming
deriving DecidableEq, Repr

/-- A work list from SUBMIT to completion (R302). -/
structure WorkList where
  id : Nat
  tenant : Nat
  tag : Nat
  quiet : Bool
  priority : Nat
  ref : Nat
  submitted : Nat
  state : ListState := .waiting
  home : Nat := 0
  units : Nat := 0
  resume : Nat := 0
  records : Nat := 0
  annot : Nat := 0
  /-- Annotated or charged power per tower in 0.1 W, and energy and mean power on the home tower (R354). -/
  power : List Nat := []
  energy : Nat := 0
  meanPower : Nat := 0
  admitted : Nat := 0
  everAdmitted : Bool := false
  /-- Order of admission (R356, R357): larger is later. -/
  admitOrder : Nat := 0
  admittedAt : Nat := 0
  waitingSince : Nat := 0
  next : Nat := 1
  ops : List Op := []
  /-- Earliest failed operation: offset and status (R262). -/
  failed : Option (Nat × Nat) := none
  /-- Stopped by CANCEL (status 0x0B) or by a tenant reset (0x0C). -/
  stopStatus : Option Nat := none
  cancelTags : List (Nat × Bool) := []
  endIssued : Bool := false
deriving DecidableEq, Repr

/-! ### Mailboxes (R284 to R312) -/

/-- A notice not yet written (R309). -/
structure Notice where
  kind : Nat
  tag : Nat
  count : Nat
  subject : Nat
  tick : Nat
  detail : List Byte
deriving DecidableEq, Repr

/-- A slip accepted and not yet completed (R295). -/
structure LiveSlip where
  opcode : Nat
  tag : Nat
  quiet : Bool
  /-- SEG_ALLOC that waits for zeroing: its bytes (R320). -/
  bytes : List Byte := []
deriving DecidableEq, Repr

structure Vector where
  owed : Bool := false
  pending : Bool := false
  masked : Bool := false
  addr : Nat := 0
  data : Nat := 0
  lastSent : Option Nat := none
deriving DecidableEq, Repr

structure Mailbox where
  sq : Memory := []
  cq : Memory := []
  sqTail : Nat := 0
  sqHead : Nat := 0
  cqHead : Nat := 0
  cqTail : Nat := 0
  session : Bool := false
  /-- driver_id of the HELLO that opened the session (Table 12-10). -/
  driver : Nat := 0
  version : Nat := 0
  resetting : Bool := false
  badDoorbell : Bool := false
  irq : Bool := false
  live : List LiveSlip := []
  held : List Notice := []
  vec0 : Vector := {}
  vec1 : Vector := {}
deriving DecidableEq, Repr

/-! ### Segments, leases, transfers (R313 to R327) -/

/-- Kinds of segment entry (Table 13-1). -/
inductive SegKind where
  | priv | shared | attached
deriving DecidableEq, Repr

structure Seg where
  base : Nat
  size : Nat
  kind : SegKind
  bed : Bool
  rights : Nat
  core : Nat
  owner : Nat
  lease : Nat
deriving DecidableEq, Repr

structure ShareKey where
  key : Nat
  owner : Nat
  slot : Nat
  grantee : Nat
  rights : Nat
deriving DecidableEq, Repr

structure Lease where
  held : Bool := false
  owner : Nat := 0
  epoch : Nat := 0
deriving DecidableEq, Repr

/-- Memory released and not yet zeroed (R320). -/
structure ZeroRange where
  base : Nat
  size : Nat
  removalDone : Bool
deriving DecidableEq, Repr

/-- A job of a transfer engine: a run of whole granules of one TRANSFER (R321). -/
structure Job where
  entry : Nat
  tenant : Nat
  tag : Nat
  firstGranule : Nat
  granules : Nat
  done : Nat := 0
deriving DecidableEq, Repr

structure Engine where
  jobs : List Job := []
  lastTenant : Nat := 0
deriving DecidableEq, Repr

/-- A live TRANSFER (R304). -/
structure Xfer where
  tenant : Nat
  tag : Nat
  quiet : Bool
  host : Nat
  slot : Nat
  off : Nat
  bytes : Nat
  toHost : Bool
  status : Nat := 0
  lowest : Option Nat := none
  cancelTags : List (Nat × Bool) := []
deriving DecidableEq, Repr

/-- A revocation in progress (R324): its owner and the nodes that have not acknowledged. -/
structure Revocation where
  owner : Nat
  waiting : List Nat
  since : Nat
  count : Nat
  reset : Bool
deriving DecidableEq, Repr

/-- A reset of a tenant under way (R325): the TENANT_RESET slips that wait for it, whether steps 1 to 3 have been taken,
and whether the tenant stops existing (R312). -/
structure ResetJob where
  tenant : Nat
  tags : List Nat := []
  begun : Bool := false
  vanish : Bool := false
deriving DecidableEq, Repr

/-! ### Fabric and span links -/

/-- A request waiting for its RSP (R218, R221). -/
structure Req where
  node : Nat
  tag : Nat
  since : Nat
  addr : Nat
  tenant : Nat
  timedOut : Bool := false
  /-- Work list and operation that issued it. -/
  op : Option (Nat × Nat) := none
deriving DecidableEq, Repr

/-- A span frame as sent and kept for replay (R237). -/
structure TxFrame where
  seq : Nat
  msgs : List Msg
deriving DecidableEq, Repr

/-- A span port beside its registers (R233 to R245): the frames kept for replay, sequence numbers, messages queued for
transmission, units of 16 bytes sent, freed by the peer and freed here by pool, the holds of both directions, the lane
change asked for, and the lanes lost. -/
structure Span where
  unacked : List TxFrame := []
  txSeq : Nat := 0
  rxNext : Nat := 0
  nackSent : Bool := false
  replaysInRow : Nat := 0
  queue : List Msg := []
  sent : SMap Nat := []
  freedBy : SMap Nat := []
  freed : SMap Nat := []
  pool : Nat := 0
  /-- Grants to other classes that each class has waited through (R220). -/
  waits : SMap Nat := []
  rxHold : Option Nat := none
  txHold : Option Nat := none
  remapReq : Option Nat := none
  narrowReq : Bool := false
  lostRx : List Nat := []
  lostTx : List Nat := []
  trainingSince : Option Nat := none
deriving DecidableEq, Repr

/-- A guest gateway beside its registers (R227 to R231). -/
structure Guest where
  trainingSince : Option Nat := none
  capSent : Bool := false
  peer : List Byte := []
  /-- Messages of each class that the guest can still take (R230). -/
  credits : SMap Nat := []
  /-- Messages waiting for credit, and non-posted messages that the guest has not answered. -/
  queue : List Msg := []
  asked : List Msg := []
  /-- The link has gone down after enabling since the last bring-up (R231). -/
  lost : Bool := false
deriving DecidableEq, Repr

/-! ### Boot (R387 to R406) -/

/-- A boot step that has ended its work and not yet reported: result code, detail and the state it leads to. -/
structure BootRun where
  cmd : Nat
  since : Nat
  code : Nat
  detail : Nat
  /-- The step has done its work; only the report is missing. FIRMWARE waits for BISQUE (FW_START_TIMEOUT). -/
  ready : Bool
deriving DecidableEq, Repr

/-! ### Outputs -/

/-- What the part sends out of itself: responses, messages, span frames, bytes to host memory, vectors, sideband data.
The list is the model's own record of its pins and ports; nothing reads it back. -/
inductive Output where
  | rsp (m : Msg)
  | msg (m : Msg)
  | frame (port : Nat) (seq : Nat) (ack : Nat) (nack : Bool) (pool : Nat) (freed : Nat) (remap : Option Nat)
      (narrow : Bool) (msgs : List Msg)
  | guestMsg (guest : Nat) (m : Msg)
  | capSent (guest : Nat) (bytes : List Byte)
  | guestCredit (guest : Nat) (cls : Nat) (count : Nat)
  | hostRead (data : List Byte)
  | hostWrite (fn : Nat) (addr : Nat) (data : List Byte) (poisoned : Bool)
  | vector (fn : Nat) (vec : Nat)
  | i3c (data : List Byte)
  | jtag (bits : Nat)
  | replay (die port sub : Nat)
  | icAck (target : Nat) (value : Nat)
  | coreSample (addr size build generation tick : Nat)
deriving DecidableEq, Repr

/-- Everything the manual gives the part, and the queue of waiting commands. -/
structure State where
  pending : List Instr := []
  fuses : Fuses := {}
  out : List Output := []
  /-- The model's own counter of free values (log entry 2). -/
  freeCtr : Nat := 0
  /-- Ticks of 5 ns since VAUX rose, which measure every interval (R376). -/
  now : Nat := 0
  tb : Timebase := {}
  vaux : Bool := true
  resetN : Bool := false
  brownedOut : Bool := false
  x0Lost : Bool := false
  perstLow : Nat := 0
  straps : Nat := 0
  /-- Registers by offset in the register region (R21). -/
  regs : SMap DWord := []
  /-- Boot-window registers by BAR0 offset (R406). -/
  boot : SMap DWord := []
  bootRun : Option BootRun := none
  mem : Memory := []
  /-- Stored check symbols by sector (device address / 64), listed only where they are not clean (R189, R192). -/
  checks : SMap Word := []
  /-- Accumulator (2 MiB) then staging store (4 MiB) of every core, by core × 0x60_0000 + offset (R58). -/
  stores : Memory := []
  /-- The floor-plan record in SRAM on X0 (R26). -/
  fplan : Memory := []
  /-- What a loss has changed and the record does not show yet (R31). -/
  fpDirty : Bool := false
  coreState : SMap Nat := []
  towerState : SMap Nat := []
  bankRetired : SMap Nat := []
  chanMapped : SMap Nat := []
  chanPoisoned : SMap Nat := []
  guestPresent : Nat := 0
  published : Bool := false
  cores : SMap CoreUnit := []
  beds : SMap Bed := []
  hbm : SMap Stack := []
  domains : SMap Domain := []
  thermal : SMap Thermal := []
  vinAlert : Bool := false
  vinHighSince : Nat := 0
  vinReturned : Nat := 8
  /-- p_io and Tc that the last computation of the caps used (R350), in W and 0.5 °C. -/
  capIo : Nat := 0
  capTc : Nat := 0x5A
  ports : SMap Span := []
  guests : SMap Guest := []
  reqs : List Req := []
  quiesced : List (Nat × Option Nat) := []
  /-- Span ports that have gone down in service since the last bring-up (R31), a mask. -/
  spanLost : Nat := 0
  /-- Retired sub-channels (R213). -/
  retiredSubs : List Nat := []
  ic : IC := {}
  flog0 : Flog := {}
  flog1 : Flog := {}
  fatal : Nat := 0
  mbox : SMap Mailbox := []
  numVfs : Nat := 0
  vfEnable : Bool := false
  /-- R312: a change of NumVFs and VF Enable that waits for its resets. -/
  vfPending : Option (Nat × Bool) := none
  resets : List ResetJob := []
  alive : Bool := false
  standby : Bool := false
  hbActive : Option Nat := none
  hbStandby : Option Nat := none
  fwBuild : Nat := 0
  /-- Failovers since power-on (Table 12-3). -/
  failovers : Nat := 0
  /-- R432: MB_FATAL.firmware_dead has been set since the last warm reset. -/
  fwDead : Bool := false
  segs : SMap Seg := []
  removing : List (Nat × Seg) := []
  keys : List ShareKey := []
  /-- Share keys issued while the part has been powered (R301). -/
  usedKeys : List Nat := []
  leases : SMap Lease := []
  revocation : Option Revocation := none
  engines : SMap Engine := []
  xfers : List Xfer := []
  zeroing : List ZeroRange := []
  lists : List WorkList := []
  nextList : Nat := 1
  issueOrder : Nat := 0
  tagCtr : Nat := 0
  /-- Policy items in force: V_CEILING and BANK_MODE by tower, the package items, V_FLOOR by tenant and tower, and
  how often each was clamped (R305, R360); a package cap of 0 stands for the default one of the bin. -/
  vCeiling : SMap Nat := []
  bankMode : SMap Nat := []
  pkgCap : Nat := 0
  rthInterval : Nat := 600
  preemptWait : Nat := 2000
  stackIdle : Nat := 10
  vFloor : SMap Nat := []
  clamps : SMap Nat := []
  /-- R359: admission paused until this instant, and when the last pause began. -/
  pauseUntil : Nat := 0
  lastPause : Option Nat := none
  /-- Per tenant: instant of the last progress, and watchdog periods in a row without any (R423, R424). -/
  progress : SMap Nat := []
  watchdogs : SMap Nat := []
  /-- Trace, per tower: a drop has happened since the last loss record, and the tick of the first and last drop. -/
  traceDrops : SMap (List Nat) := []
  lossRecords : Nat := 0
  sampling : Bool := false
  lampCheck : SMap Nat := []
deriving DecidableEq, Repr

/-- The part right after VAUX has risen, with RESET_N low (R330, R374, R9): every register at its Reset column, every
map empty, no command waiting. -/
def State.reset : State := {}

/-- Reasons a run can stop with a fault. The manual gives every command of the table an effect, so there is none. -/
inductive Fault where
deriving DecidableEq, Repr

/-- Reasons a command is turned away. -/
inductive Refusal where
  /-- The command has no meaning in this model yet. Raised by `exec` alone; safe, because the run stops. -/
  | notModelled (mnemonic : String)
deriving DecidableEq, Repr

end Sys2Proof.Machine
end

