-- ==== Sys2Proof/Machine/Regs.lean ====
section
/-! DEFINITION. The registers of the device address map: where each stands in the register region, its reset value, and
which of its bits a write stores or clears (R8 to R11, R21, and the register tables of every chapter). -/

namespace Sys2Proof.Machine

/-! ### Factory facts -/

/-- Table 0-1: V_max of the bin in mV. -/
def Bin.vmax : Bin → Nat
  | .gd8840 => 850
  | .gd8830 => 800
  | .gd8820 => 750

/-- Default package cap in W. -/
def Bin.cap : Bin → Nat
  | .gd8840 => 2000
  | .gd8830 => 1600
  | .gd8820 => 1200

/-- Minimum core count. -/
def Bin.minCores : Bin → Nat
  | .gd8840 => 62
  | .gd8830 => 60
  | .gd8820 => 56

/-- Code of the bin in the floor-plan record (Table 1-6). -/
def Bin.code : Bin → Nat
  | .gd8840 => 0x40
  | .gd8830 => 0x30
  | .gd8820 => 0x20

def Assembly.code : Assembly → Nat
  | .s8x2 => 0
  | .s8x4 => 1
  | .s12x4 => 2

/-- R15: I/O dies present. -/
def Assembly.ioDies : Assembly → Nat
  | .s8x2 => 2
  | _ => 4

/-- R14: stacks present. -/
def Assembly.nStacks : Assembly → Nat
  | .s12x4 => 12
  | _ => 8

/-- Dies by number: 0 to 7 towers, 8 to 11 I/O dies X0 to X3. -/
def diePresent (f : Fuses) (d : Nat) : Bool := d < 8 + f.assembly.ioDies

/-- R16: span ports present. -/
def portPresent (f : Fuses) (p : Nat) : Bool := p < 6 * f.assembly.ioDies

def stackPresent (f : Fuses) (n : Nat) : Bool := n < f.assembly.nStacks

/-! ### Register names -/

/-- The registers of the register region. d is a die (0 to 11), t a tower, k a core, n a stack, p a port. -/
inductive Reg where
  | stepmon (t : Nat)
  | mxstat (k : Nat) | mxsatcnt (k : Nat) | vcstat (k : Nat) | vcsatcnt (k : Nat)
  | qsctl (k n : Nat) | qswin (k n : Nat) | qselem (k n : Nat) | qstot (k n : Nat) | qsstat (k : Nat)
  | bedMode (k : Nat) | bedQuota (k : Nat) | bedTiming0 (k : Nat) | bedTiming1 (k : Nat) | bedStatus (k : Nat)
  | bedCtl (k : Nat) | bedFence (k : Nat) | bedDonecnt (k : Nat) | bedBusymap (k i : Nat) | bedSatcnt (k : Nat)
  | bedScrubCtl (k : Nat) | bedScrubLap (k : Nat) | bedScrubCur (k : Nat) | bedCe (k : Nat) | bedUe (k : Nat)
  | bedLastue (k : Nat)
  | memStat (n : Nat) | memScrubCtl (n : Nat) | memScrubLap (n : Nat) | memScrubCur (n : Nat) | memInject (n : Nat)
  | memChstat (n c : Nat) | memChce (n c : Nat) | memChue (n c : Nat) | memChpoison (n c : Nat)
  | fabStat (d : Nat) | fabReplay (d : Nat) | fabDiscard (d : Nat) | fabRt (d n : Nat) | spnPrt (d n : Nat)
  | voyGctl (g : Nat) | voyGstat (g : Nat) | voyLocal (g i : Nat) | voyPeer (g i : Nat)
  | spnCtl (p : Nat) | spnStat (p : Nat) | spnRxmap (p : Nat) | spnTxmap (p : Nat) | spnLanest (p : Nat)
  | spnCecnt (p : Nat) | spnUecnt (p : Nat) | spnReplay (p : Nat) | spnLaneloss (p : Nat) | spnDiscard (p : Nat)
  | vregCtl (d : Nat) | vregStat (d : Nat) | vregMeas (d : Nat) | vregPhasest (d : Nat) | twrUvcnt (t : Nat)
  | vinStat | vinAlertcnt
  | thstat (t : Nat) | thcoef (t : Nat) | env (t : Nat) | vgov (t : Nat) | vstat (t : Nat) | clampcnt (t : Nat)
  | tsens (t n : Nat)
  | pkgCoolant | pkgPower | pkgHardpan
  | icCfg | icLost | icTgtSet | icTgtClr | icPendSet (n : Nat) | icPendClr (n : Nat) | icMaskSet (n : Nat)
  | icMaskClr (n : Nat) | icActive (n : Nat) | icPrio (s : Nat) | icAck (t : Nat) | icEoi (t : Nat) | icRun (t : Nat)
  | tbCount | tbPreset | tbCtl | tbStat | tbLastload | rngSeed (t : Nat) | detNondet (t : Nat)
  | lseRevoke | lseStat | lease (n : Nat) | segWord (i w : Nat)
  | teStat (e : Nat) | teGranules (e : Nat)
  | flogSeq (x : Nat) | flogStat (x : Nat) | flogCtl (x : Nat)
  | csCtl | csStat | csAddr | csLen
  | trcWr (t : Nat) | trcRd (t : Nat) | trcDrop (t : Nat) | trcClass (t : Nat)
  | ctrSel (u n : Nat) | ctrVal (u n : Nat)
  | indCtl (n : Nat) | indStat (n : Nat)
deriving DecidableEq, Repr

/-- Table 1-3: offset of a die's block in the register region. -/
def blk (d : Nat) : Nat := d * 0x400000

/-- R71: offset of a core's block. -/
def coreBlk (k : Nat) : Nat := blk (k / 8) + 0x100000 + k % 8 * 0x10000

/-- R250: offset of a span port's block. -/
def portBlk (p : Nat) : Nat := blk (8 + p / 6) + 0x100000 + p % 6 * 0x1000

/-- Units with counters are numbered: core k; 64 + 16 n + c; 256 + p; 280 + e (R417). -/
def unitChan (n c : Nat) : Nat := 64 + 16 * n + c
def unitPort (p : Nat) : Nat := 256 + p
def unitEngine (e : Nat) : Nat := 280 + e

/-- Offset of a unit's counter selections; `unitVals` those of its counts (R428). -/
def unitSels (u : Nat) : Nat :=
  if u < 64 then coreBlk u + 0x2000
  else if u < 256 then blk ((u - 64) / 16) + 0x301000 + (u - 64) % 16 * 0x80
  else if u < 280 then portBlk (u - 256) + 0x100
  else blk ((u - 280) / 4) + 0x180040 + (u - 280) % 4 * 0x100

def unitVals (u : Nat) : Nat :=
  if u < 64 then coreBlk u + 0x2080
  else if u < 256 then blk ((u - 64) / 16) + 0x301000 + (u - 64) % 16 * 0x80 + 0x40
  else if u < 280 then portBlk (u - 256) + 0x140
  else blk ((u - 280) / 4) + 0x180080 + (u - 280) % 4 * 0x100

/-- Counters of a unit (R417). -/
def unitCtrs (u : Nat) : Nat := if u < 64 then 16 else 8

/-- Offset of the guest gateway of guest g: X0 or X3. -/
def guestDie (g : Nat) : Nat := if g = 0 then 8 else 11

/-- Offset of a register in the register region. -/
def Reg.off : Reg → Nat
  | .stepmon t => blk t + 0x400
  | .mxstat k => coreBlk k + 0x100
  | .mxsatcnt k => coreBlk k + 0x104
  | .vcstat k => coreBlk k + 0x200
  | .vcsatcnt k => coreBlk k + 0x204
  | .qsctl k n => coreBlk k + 0x300 + n * 16
  | .qswin k n => coreBlk k + 0x304 + n * 16
  | .qselem k n => coreBlk k + 0x308 + n * 16
  | .qstot k n => coreBlk k + 0x30C + n * 16
  | .qsstat k => coreBlk k + 0x390
  | .bedMode k => coreBlk k + 0x1000
  | .bedQuota k => coreBlk k + 0x1004
  | .bedTiming0 k => coreBlk k + 0x1008
  | .bedTiming1 k => coreBlk k + 0x100C
  | .bedStatus k => coreBlk k + 0x1010
  | .bedCtl k => coreBlk k + 0x1014
  | .bedFence k => coreBlk k + 0x1018
  | .bedDonecnt k => coreBlk k + 0x101C
  | .bedBusymap k i => coreBlk k + 0x1020 + 4 * i
  | .bedSatcnt k => coreBlk k + 0x1030
  | .bedScrubCtl k => coreBlk k + 0x1040
  | .bedScrubLap k => coreBlk k + 0x1044
  | .bedScrubCur k => coreBlk k + 0x1048
  | .bedCe k => coreBlk k + 0x104C
  | .bedUe k => coreBlk k + 0x1050
  | .bedLastue k => coreBlk k + 0x1054
  | .memStat n => blk n + 0x300000
  | .memScrubCtl n => blk n + 0x300010
  | .memScrubLap n => blk n + 0x300014
  | .memScrubCur n => blk n + 0x300018
  | .memInject n => blk n + 0x300020
  | .memChstat n c => blk n + 0x300100 + c * 16
  | .memChce n c => blk n + 0x300104 + c * 16
  | .memChue n c => blk n + 0x300108 + c * 16
  | .memChpoison n c => blk n + 0x30010C + c * 16
  | .fabStat d => blk d + 0x200000
  | .fabReplay d => blk d + 0x200004
  | .fabDiscard d => blk d + 0x200008
  | .fabRt d n => blk d + 0x201000 + n * 4
  | .spnPrt d n => blk d + 0x202000 + n * 4
  | .voyGctl g => blk (guestDie g) + 0x240000
  | .voyGstat g => blk (guestDie g) + 0x240004
  | .voyLocal g i => blk (guestDie g) + 0x240040 + 4 * i
  | .voyPeer g i => blk (guestDie g) + 0x240060 + 4 * i
  | .spnCtl p => portBlk p
  | .spnStat p => portBlk p + 0x004
  | .spnRxmap p => portBlk p + 0x008
  | .spnTxmap p => portBlk p + 0x00C
  | .spnLanest p => portBlk p + 0x010
  | .spnCecnt p => portBlk p + 0x020
  | .spnUecnt p => portBlk p + 0x024
  | .spnReplay p => portBlk p + 0x028
  | .spnLaneloss p => portBlk p + 0x02C
  | .spnDiscard p => portBlk p + 0x030
  | .vregCtl d => blk d + 0x800
  | .vregStat d => blk d + 0x804
  | .vregMeas d => blk d + 0x808
  | .vregPhasest d => blk d + 0x80C
  | .twrUvcnt t => blk t + 0x810
  | .vinStat => blk 8 + 0x900
  | .vinAlertcnt => blk 8 + 0x904
  | .thstat t => blk t + 0xA00
  | .thcoef t => blk t + 0xA04
  | .env t => blk t + 0xA08
  | .vgov t => blk t + 0xA0C
  | .vstat t => blk t + 0xA10
  | .clampcnt t => blk t + 0xA14
  | .tsens t n => blk t + 0xB00 + 4 * n
  | .pkgCoolant => blk 8 + 0xA00
  | .pkgPower => blk 8 + 0xA04
  | .pkgHardpan => blk 8 + 0xA08
  | .icCfg => blk 8 + 0x140000
  | .icLost => blk 8 + 0x140004
  | .icTgtSet => blk 8 + 0x140008
  | .icTgtClr => blk 8 + 0x14000C
  | .icPendSet n => blk 8 + 0x141000 + 4 * n
  | .icPendClr n => blk 8 + 0x141100 + 4 * n
  | .icMaskSet n => blk 8 + 0x141200 + 4 * n
  | .icMaskClr n => blk 8 + 0x141300 + 4 * n
  | .icActive n => blk 8 + 0x141400 + 4 * n
  | .icPrio n => blk 8 + 0x142000 + 4 * n
  | .icAck t => blk 8 + 0x144000 + 16 * t
  | .icEoi t => blk 8 + 0x144004 + 16 * t
  | .icRun t => blk 8 + 0x144008 + 16 * t
  | .tbCount => blk 8 + 0x160000
  | .tbPreset => blk 8 + 0x160008
  | .tbCtl => blk 8 + 0x160010
  | .tbStat => blk 8 + 0x160014
  | .tbLastload => blk 8 + 0x160018
  | .rngSeed t => blk 8 + 0x161000 + 8 * t
  | .detNondet t => blk 8 + 0x163000 + 4 * t
  | .lseRevoke => blk 8 + 0x260000
  | .lseStat => blk 8 + 0x260004
  | .lease n => blk 8 + 0x340000 + 8 * n
  | .segWord i w => blk 8 + 0x280000 + 32 * i + 4 * w
  | .teStat e => blk (e / 4) + 0x180000 + e % 4 * 0x100
  | .teGranules e => blk (e / 4) + 0x180004 + e % 4 * 0x100
  | .flogSeq x => blk (8 + x) + 0x1A0000
  | .flogStat x => blk (8 + x) + 0x1A0004
  | .flogCtl x => blk (8 + x) + 0x1A0008
  | .csCtl => blk 8 + 0x1A0100
  | .csStat => blk 8 + 0x1A0104
  | .csAddr => blk 8 + 0x1A0108
  | .csLen => blk 8 + 0x1A0110
  | .trcWr t => blk t + 0xC00
  | .trcRd t => blk t + 0xC04
  | .trcDrop t => blk t + 0xC08
  | .trcClass t => blk t + 0xC10
  | .ctrSel u n => unitSels u + 4 * n
  | .ctrVal u n => unitVals u + 8 * n
  | .indCtl n => blk 8 + 0xD00 + 8 * n
  | .indStat n => blk 8 + 0xD04 + 8 * n

/-- R11: registers whose table states 64 bits. -/
def Reg.wide : Reg → Bool
  | .memInject _ | .tbCount | .tbPreset | .tbLastload | .rngSeed _ | .lease _ | .csAddr | .trcClass _ | .ctrVal _ _ => true
  | _ => false

def Reg.bytes (r : Reg) : Nat := if r.wide then 8 else 4

/-! ### Which register an offset names -/

/-- Registers of a core's block by offset (R71, R92, R115, R153, R208, R428). -/
def coreRegAt (k o : Nat) : Option Reg :=
  if o = 0x100 then some (.mxstat k) else if o = 0x104 then some (.mxsatcnt k)
  else if o = 0x200 then some (.vcstat k) else if o = 0x204 then some (.vcsatcnt k)
  else if o = 0x390 then some (.qsstat k)
  else if 0x300 ≤ o && o < 0x390 then
    let n := (o - 0x300) / 16
    match (o - 0x300) % 16 with
    | 0 => some (.qsctl k n)
    | 4 => some (.qswin k n)
    | 8 => some (.qselem k n)
    | 12 => some (.qstot k n)
    | _ => none
  else if o = 0x1000 then some (.bedMode k) else if o = 0x1004 then some (.bedQuota k)
  else if o = 0x1008 then some (.bedTiming0 k) else if o = 0x100C then some (.bedTiming1 k)
  else if o = 0x1010 then some (.bedStatus k) else if o = 0x1014 then some (.bedCtl k)
  else if o = 0x1018 then some (.bedFence k) else if o = 0x101C then some (.bedDonecnt k)
  else if 0x1020 ≤ o && o < 0x1030 && o % 4 = 0 then some (.bedBusymap k ((o - 0x1020) / 4))
  else if o = 0x1030 then some (.bedSatcnt k)
  else if o = 0x1040 then some (.bedScrubCtl k) else if o = 0x1044 then some (.bedScrubLap k)
  else if o = 0x1048 then some (.bedScrubCur k) else if o = 0x104C then some (.bedCe k)
  else if o = 0x1050 then some (.bedUe k) else if o = 0x1054 then some (.bedLastue k)
  else if 0x2000 ≤ o && o < 0x2040 && o % 4 = 0 then some (.ctrSel k ((o - 0x2000) / 4))
  else if 0x2080 ≤ o && o < 0x2100 && o % 8 = 0 then some (.ctrVal k ((o - 0x2080) / 8))
  else none

/-- Registers of a span port's block. -/
def portRegAt (p o : Nat) : Option Reg :=
  match o with
  | 0x000 => some (.spnCtl p)
  | 0x004 => some (.spnStat p)
  | 0x008 => some (.spnRxmap p)
  | 0x00C => some (.spnTxmap p)
  | 0x010 => some (.spnLanest p)
  | 0x020 => some (.spnCecnt p)
  | 0x024 => some (.spnUecnt p)
  | 0x028 => some (.spnReplay p)
  | 0x02C => some (.spnLaneloss p)
  | 0x030 => some (.spnDiscard p)
  | o => if 0x100 ≤ o && o < 0x120 && o % 4 = 0 then some (.ctrSel (unitPort p) ((o - 0x100) / 4))
    else if 0x140 ≤ o && o < 0x180 && o % 8 = 0 then some (.ctrVal (unitPort p) ((o - 0x140) / 8))
    else none

/-- Registers of a stack's controllers. -/
def memRegAt (n o : Nat) : Option Reg :=
  match o with
  | 0x000 => some (.memStat n)
  | 0x010 => some (.memScrubCtl n)
  | 0x014 => some (.memScrubLap n)
  | 0x018 => some (.memScrubCur n)
  | 0x020 => some (.memInject n)
  | o =>
    if 0x100 ≤ o && o < 0x200 then
      let c := (o - 0x100) / 16
      match o % 16 with
      | 0 => some (.memChstat n c)
      | 4 => some (.memChce n c)
      | 8 => some (.memChue n c)
      | 12 => some (.memChpoison n c)
      | _ => none
    else if 0x1000 ≤ o && o < 0x1800 then
      let c := (o - 0x1000) / 0x80
      let q := o % 0x80
      if q < 0x20 && q % 4 = 0 then some (.ctrSel (unitChan n c) (q / 4))
      else if 0x40 ≤ q && q % 8 = 0 then some (.ctrVal (unitChan n c) ((q - 0x40) / 8))
      else none
    else none

/-- Registers of a crossbar. -/
def fabRegAt (d o : Nat) : Option Reg :=
  match o with
  | 0x0 => some (.fabStat d)
  | 0x4 => some (.fabReplay d)
  | 0x8 => some (.fabDiscard d)
  | o => if 0x1000 ≤ o && o < 0x1200 && o % 4 = 0 then some (.fabRt d ((o - 0x1000) / 4))
    else if 0x2000 ≤ o && o < 0x2100 && o % 4 = 0 then some (.spnPrt d ((o - 0x2000) / 4))
    else none

/-- Registers of the interrupt controller (Table 16-2). -/
def icRegAt (o : Nat) : Option Reg :=
  if o % 4 ≠ 0 then none
  else if o = 0 then some .icCfg else if o = 4 then some .icLost
  else if o = 8 then some .icTgtSet else if o = 12 then some .icTgtClr
  else if 0x1000 ≤ o && o < 0x1100 then some (.icPendSet ((o - 0x1000) / 4))
  else if 0x1100 ≤ o && o < 0x1200 then some (.icPendClr ((o - 0x1100) / 4))
  else if 0x1200 ≤ o && o < 0x1300 then some (.icMaskSet ((o - 0x1200) / 4))
  else if 0x1300 ≤ o && o < 0x1400 then some (.icMaskClr ((o - 0x1300) / 4))
  else if 0x1400 ≤ o && o < 0x1500 then some (.icActive ((o - 0x1400) / 4))
  else if 0x2000 ≤ o && o < 0x4000 then some (.icPrio ((o - 0x2000) / 4))
  else if 0x4000 ≤ o && o < 0x4080 then
    match o % 16 with
    | 0 => some (.icAck ((o - 0x4000) / 16))
    | 4 => some (.icEoi ((o - 0x4000) / 16))
    | 8 => some (.icRun ((o - 0x4000) / 16))
    | _ => none
  else none

/-- Registers of the timebase (R386). -/
def tbRegAt (o : Nat) : Option Reg :=
  if o = 0 then some .tbCount else if o = 8 then some .tbPreset else if o = 0x10 then some .tbCtl
  else if o = 0x14 then some .tbStat else if o = 0x18 then some .tbLastload
  else if 0x1000 ≤ o && o < 0x3000 && o % 8 = 0 then some (.rngSeed ((o - 0x1000) / 8))
  else if 0x3000 ≤ o && o < 0x4000 && o % 4 = 0 then some (.detNondet ((o - 0x3000) / 4))
  else none

/-- Registers of X0's block alone. -/
def x0RegAt (o : Nat) : Option Reg :=
  if o = 0x900 then some .vinStat else if o = 0x904 then some .vinAlertcnt
  else if o = 0xA00 then some .pkgCoolant else if o = 0xA04 then some .pkgPower else if o = 0xA08 then some .pkgHardpan
  else if 0xD00 ≤ o && o < 0xD20 then
    (if o % 8 = 0 then some (.indCtl ((o - 0xD00) / 8)) else if o % 8 = 4 then some (.indStat ((o - 0xD00) / 8)) else none)
  else if 0x140000 ≤ o && o < 0x150000 then icRegAt (o - 0x140000)
  else if 0x160000 ≤ o && o < 0x170000 then tbRegAt (o - 0x160000)
  else if o = 0x1A0100 then some .csCtl else if o = 0x1A0104 then some .csStat
  else if o = 0x1A0108 then some .csAddr else if o = 0x1A0110 then some .csLen
  else if o = 0x260000 then some .lseRevoke else if o = 0x260004 then some .lseStat
  else if 0x280000 ≤ o && o < 0x300000 && o % 4 = 0 then some (.segWord ((o - 0x280000) / 32) (o % 32 / 4))
  else if 0x340000 ≤ o && o < 0x340000 + 8 * 19456 && o % 8 = 0 then some (.lease ((o - 0x340000) / 8))
  else none

/-- Registers that towers and I/O dies share. -/
def dieRegAt (d o : Nat) : Option Reg :=
  if o = 0x800 then some (.vregCtl d) else if o = 0x804 then some (.vregStat d)
  else if o = 0x808 then some (.vregMeas d) else if o = 0x80C then some (.vregPhasest d)
  else if 0x200000 ≤ o && o < 0x203000 then fabRegAt d (o - 0x200000)
  else if 0x300000 ≤ o && o < 0x302000 then memRegAt d (o - 0x300000)
  else none

/-- Registers of a tower's block. -/
def towerRegAt (t o : Nat) : Option Reg :=
  if o = 0x400 then some (.stepmon t) else if o = 0x810 then some (.twrUvcnt t)
  else if o = 0xA00 then some (.thstat t) else if o = 0xA04 then some (.thcoef t) else if o = 0xA08 then some (.env t)
  else if o = 0xA0C then some (.vgov t) else if o = 0xA10 then some (.vstat t) else if o = 0xA14 then some (.clampcnt t)
  else if 0xB00 ≤ o && o < 0xB80 && o % 4 = 0 then some (.tsens t ((o - 0xB00) / 4))
  else if o = 0xC00 then some (.trcWr t) else if o = 0xC04 then some (.trcRd t) else if o = 0xC08 then some (.trcDrop t)
  else if o = 0xC10 then some (.trcClass t)
  else if 0x100000 ≤ o && o < 0x180000 then coreRegAt (8 * t + (o - 0x100000) / 0x10000) ((o - 0x100000) % 0x10000)
  else if 0x180000 ≤ o && o < 0x180400 then
    let e := 4 * t + (o - 0x180000) / 0x100
    let q := o % 0x100
    if q = 0 then some (.teStat e) else if q = 4 then some (.teGranules e)
    else if 0x40 ≤ q && q < 0x60 && q % 4 = 0 then some (.ctrSel (unitEngine e) ((q - 0x40) / 4))
    else if 0x80 ≤ q && q < 0xC0 && q % 8 = 0 then some (.ctrVal (unitEngine e) ((q - 0x80) / 8))
    else none
  else dieRegAt t o

/-- Registers of an I/O die's block. -/
def ioRegAt (x o : Nat) : Option Reg :=
  if 0x100000 ≤ o && o < 0x106000 then portRegAt (6 * x + (o - 0x100000) / 0x1000) ((o - 0x100000) % 0x1000)
  else if x < 2 && o = 0x1A0000 then some (.flogSeq x)
  else if x < 2 && o = 0x1A0004 then some (.flogStat x)
  else if x < 2 && o = 0x1A0008 then some (.flogCtl x)
  else if (x = 0 || x = 3) && 0x240000 ≤ o && o < 0x240080 then
    let g := if x = 0 then 0 else 1
    let q := o - 0x240000
    if q = 0 then some (.voyGctl g) else if q = 4 then some (.voyGstat g)
    else if 0x40 ≤ q && q < 0x60 && q % 4 = 0 then some (.voyLocal g ((q - 0x40) / 4))
    else if 0x60 ≤ q && q % 4 = 0 then some (.voyPeer g ((q - 0x60) / 4))
    else none
  else match dieRegAt (8 + x) o with
    | some r => some r
    | none => if x = 0 then x0RegAt o else none

/-- R21: the register at an offset of the register region, none where no chapter assigns one. -/
def regAt (o : Nat) : Option Reg :=
  let d := o / 0x400000
  if d < 8 then towerRegAt d (o % 0x400000)
  else if d < 12 then ioRegAt (d - 8) (o % 0x400000)
  else none

/-! ### Routes (R222) -/

/-- Table 9-1: the die of a node; guests and hubs on their I/O dies. -/
def nodeDie (n : Nat) : Option Nat :=
  if n < 0x40 then some (n / 8)
  else if n < 0x48 then some (n - 0x40)
  else if n < 0x50 then some (n - 0x48)
  else if n < 0x70 then some ((n - 0x50) / 4)
  else if n < 0x74 then some (8 + (n - 0x70))
  else if n < 0x78 then some (8 + (n - 0x74))
  else if n = 0x78 then some 8
  else if n = 0x79 then some 11
  else none

/-- Mesh column plus one (0 west end to 5 east end) and row of a die (Table 9-1). -/
def dieCol (d : Nat) : Nat := if d < 8 then d % 4 + 1 else if d < 10 then 0 else 5
def dieRow (d : Nat) : Nat := if d < 8 then d / 4 else (d - 8) % 2

/-- Ports of FAB_RTn. -/
def portLocal : Nat := 0
def portEast : Nat := 1
def portWest : Nat := 2
def portNorth : Nat := 3
def portSouth : Nat := 4
def portUnreachable : Nat := 7

/-- R222: the dimension-order route from die d to node n: along the row first, then between rows. -/
def dimOrder (d n : Nat) : Nat :=
  match nodeDie n with
  | none => portUnreachable
  | some e =>
    if dieCol d < dieCol e then portEast
    else if dieCol e < dieCol d then portWest
    else if dieRow d < dieRow e then portSouth
    else if dieRow e < dieRow d then portNorth
    else portLocal

/-! ### Reset values -/

/-- Table 19-4: default selections. -/
def ctrDefault (u n : Nat) : Nat :=
  if u < 64 then
    ([0x0001, 0x0002, 0x0003, 0x0004, 0x0010, 0x0012, 0x0020, 0x0021, 0x0022, 0x0023, 0x0030, 0x0031, 0x0032, 0x0040,
      0x0050, 0x0060] : List Nat).getD n 0
  else if u < 256 then 0x1001 + n
  else if u < 280 then 0x2001 + n
  else 0x3001 + n

/-- The Reset column of every register's table. -/
def Reg.resetVal (f : Fuses) : Reg → Nat
  | .stepmon _ => 2
  | .qsctl _ _ => 0x80000000 + 0x14000000 + 0x100
  | .bedQuota _ => 0x20
  | .bedTiming0 _ => 0x14
  | .bedTiming1 _ => 0x03E8 * 0x10000 + 0xC8
  | .bedStatus _ => 0x80000000
  | .bedScrubCtl _ | .memScrubCtl _ => 0x80000000 + 0x28 * 0x10000 + 0x30
  | .memStat _ => 0xFF0000
  | .fabRt d n => dimOrder d n
  | .spnCtl _ => 0x20000000 + 5
  | .spnRxmap _ | .spnTxmap _ => 0xFFFFFFFF
  | .vregCtl _ => 0x2EE
  | .vregStat d => if d < 8 then f.bin.vmax else 800
  | .thcoef _ => 0x0050 * 0x10000 + 0xC8
  | .env _ => f.bin.cap * 10 / 8 * 0x10000 + f.bin.cap * 10 / 8
  | .vgov _ => f.bin.vmax * 1024 + 0x2EE
  | .vstat _ => f.bin.vmax
  | .pkgCoolant => 0x5A0000
  | .indCtl n => (if n = 0 then 2 else 0) * 0x20000000 + 2 * 0x8000000
  | .ctrSel u n => ctrDefault u n
  | _ => 0

/-- What an unlisted register offset holds. -/
def regReset (f : Fuses) (o : Nat) : DWord :=
  match regAt o with
  | some r => BitVec.ofNat 64 (r.resetVal f)
  | none => 0

/-! ### Reading and writing registers -/

/-- Value a register's own storage holds. -/
def State.reg (s : State) (r : Reg) : DWord := look (regReset s.fuses) s.regs r.off

/-- Set a register's storage. -/
def State.setReg (s : State) (r : Reg) (v : DWord) : State := { s with regs := put (regReset s.fuses) s.regs r.off v }

/-- A field of a register as a number. -/
def State.regF (s : State) (r : Reg) (lo w : Nat) : Nat := getF (s.reg r) lo w

/-- Set a field of a register. -/
def State.setF (s : State) (r : Reg) (lo w x : Nat) : State := s.setReg r (putF (s.reg r) lo w x)

/-- Set one bit of a register. -/
def State.setBit (s : State) (r : Reg) (b : Nat) : State := s.setF r b 1 1

/-- Clear one bit of a register. -/
def State.clrBit (s : State) (r : Reg) (b : Nat) : State := s.setF r b 1 0

/-- A bit of a register. -/
def State.regBit (s : State) (r : Reg) (b : Nat) : Bool := s.regF r b 1 = 1

/-- Count a field up, stopping at its largest value. -/
def State.countF (s : State) (r : Reg) (lo w n : Nat) : State := s.setF r lo w (satAdd (2 ^ w - 1) (s.regF r lo w) n)

/-- Bits a write stores (RW). -/
def Reg.rwMask : Reg → Nat
  | .stepmon _ => 3
  | .qsctl _ _ => 0x9FFFFFFF
  | .bedMode _ => 3
  | .bedQuota _ => 0xFF
  | .bedTiming0 _ => 0x1F
  | .bedTiming1 _ => 0xFFFF03FF
  | .bedCtl _ => 3
  | .bedScrubCtl _ | .memScrubCtl _ => 0x80FFFFFF
  | .memInject _ => 0xFF00000003FFFFFF
  | .fabRt _ _ => 0x87
  | .spnPrt _ _ => 0xC0FFFFFF
  | .voyGctl _ => 0x800003FF
  | .spnCtl _ => 0x6000000F
  | .vregCtl _ => 0x800003FF
  | .thcoef _ => 0xFFFFFFFF
  | .env _ => 0xFFFF0000
  | .vgov _ => 0x3FFFFFFF
  | .icCfg => 7
  | .icPrio _ => 0xFFFF
  | .tbPreset | .rngSeed _ | .csAddr => 0xFFFFFFFFFFFFFFFF
  | .csLen => 0xFFFFFFFF
  | .trcRd _ => 0x1FFFFF
  | .trcClass _ => 0x3FF
  | .ctrSel _ _ => 0xFFFF
  | .indCtl _ => 0xF80001FF
  | _ => 0

/-- Bits that a written 1 clears (W1C). -/
def Reg.w1cMask : Reg → Nat
  | .stepmon _ => 0x8000
  | .mxstat _ => 3
  | .vcstat _ => 0x01FF00FF
  | .qsstat _ => 0x1FF
  | .bedStatus _ => 0x60000000
  | .bedScrubCur _ | .memScrubCur _ => 0x80000000
  | .memStat _ => 3
  | .fabStat _ => 1
  | .voyGstat _ => 1
  | .spnStat _ => 1
  | .vregStat _ => 0x1000000
  | .vinStat => 0x40000000
  | .thstat _ => 0x0C000000
  | .tbStat => 0x38000000
  | .lseStat => 0x60000000
  | .flogStat _ => 0x20000000
  | .csStat => 0x60000000
  | .indStat _ => 0x40000000
  | _ => 0

/-- R10: the fields of a register that have reserved encodings: position, width, and which values are legal. -/
def Reg.legal (f : Fuses) : Reg → List (Nat × Nat × (Nat → Bool))
  | .qsctl _ _ => [(24, 5, fun v => 10 ≤ v && v ≤ 30)]
  | .bedMode _ => [(0, 2, fun v => v ≠ 3)]
  | .bedQuota _ => [(0, 8, fun v => 1 ≤ v && v ≤ 128)]
  | .bedTiming0 _ => [(0, 5, fun v => v ≠ 0)]
  | .bedTiming1 _ => [(16, 16, fun v => v ≠ 0), (0, 10, fun v => 10 ≤ v && v ≤ 1000)]
  | .bedScrubCtl _ | .memScrubCtl _ => [(16, 8, fun v => v ≠ 0), (0, 16, fun v => v ≠ 0)]
  | .memInject _ => [(60, 3, fun v => v < 6)]
  | .fabRt _ _ => [(0, 3, fun v => v < 5 || v = 7)]
  | .spnCtl _ => [(0, 4, fun v => 3 ≤ v && v ≤ 12)]
  | .vregCtl d => [(0, 10, fun v => if d < 8 then 550 ≤ v && v ≤ f.bin.vmax else v = 750 || v = 800)]
  | .vgov _ => [(20, 10, fun v => v = 0 || 600 ≤ v), (10, 10, fun v => 600 ≤ v && v ≤ f.bin.vmax),
      (0, 10, fun v => 600 ≤ v && v ≤ f.bin.vmax)]
  | .indCtl _ => [(29, 2, fun v => v ≠ 3), (0, 9, fun v => v ≤ 256)]
  | _ => []

/-- R8, R10: the value a register holds after a write of `w`: RW bits stored (a field with a reserved encoding keeps its
value), W1C bits cleared, all others kept. -/
def Reg.written (f : Fuses) (r : Reg) (old w : DWord) : DWord :=
  let stored := (old &&& ~~~(BitVec.ofNat 64 r.rwMask)) ||| (w &&& BitVec.ofNat 64 r.rwMask)
  let cleared := stored &&& ~~~(w &&& BitVec.ofNat 64 r.w1cMask)
  (r.legal f).foldl (fun v x => if x.2.2 (getF w x.1 x.2.1) then v else putF v x.1 x.2.1 (getF old x.1 x.2.1)) cleared

/-- A plain write of a register, with no effect beyond its own bits. -/
def State.plainWrite (s : State) (r : Reg) (w : DWord) : State := s.setReg r (r.written s.fuses (s.reg r) w)

/-! ### Boot-window registers (Table 18-6) -/

namespace BW
def id : Nat := 0x00
def state : Nat := 0x04
def cmd : Nat := 0x08
def status : Nat := 0x0C
def arg0 : Nat := 0x10
def arg1 : Nat := 0x18
def detail : Nat := 0x20
def result : Nat := 0x24
def straps : Nat := 0x28
def elapsed : Nat := 0x2C
def kbChan (n : Nat) : Nat := 0x100 + 4 * n
def kbBank (k i : Nat) : Nat := 0x200 + 16 * k + 4 * i
end BW

/-- Reset values of the boot window: family 0x88, no assembly, state GREEN, step 1. -/
def bootReset (o : Nat) : DWord :=
  if o = BW.id then 0x008800FF else if o = BW.state then 0x11000000 else 0

def State.bw (s : State) (o : Nat) : DWord := look bootReset s.boot o
def State.setBw (s : State) (o : Nat) (v : DWord) : State := { s with boot := put bootReset s.boot o v }
def State.bwF (s : State) (o lo w : Nat) : Nat := getF (s.bw o) lo w
def State.setBwF (s : State) (o lo w x : Nat) : State := s.setBw o (putF (s.bw o) lo w x)

/-- Boot states of BW_STATE. -/
def stGreen : Nat := 1
def stBisque : Nat := 2
def stFired : Nat := 3
def stFailed : Nat := 4
def stHardpan : Nat := 15

def State.bootState (s : State) : Nat := s.bwF BW.state 28 4
def State.bootStep (s : State) : Nat := s.bwF BW.state 24 4
def State.fired (s : State) : Bool := s.bootState = stFired

/-! ### Unit tables -/

def State.coreUnit (s : State) (k : Nat) : CoreUnit := look (fun _ => {}) s.cores k
def State.setCoreUnit (s : State) (k : Nat) (c : CoreUnit) : State := { s with cores := put (fun _ => {}) s.cores k c }
def State.bed (s : State) (k : Nat) : Bed := look (fun _ => {}) s.beds k
def State.setBed (s : State) (k : Nat) (b : Bed) : State := { s with beds := put (fun _ => {}) s.beds k b }
def State.stack (s : State) (n : Nat) : Stack := look (fun _ => {}) s.hbm n
def State.setStack (s : State) (n : Nat) (x : Stack) : State := { s with hbm := put (fun _ => {}) s.hbm n x }
def Stack.channel (x : Stack) (c : Nat) : Channel := look (fun _ => {}) x.channels c
def Stack.setChannel (x : Stack) (c : Nat) (v : Channel) : Stack :=
  { x with channels := put (fun _ => {}) x.channels c v }
def Bed.bank (x : Bed) (b : Nat) : Channel := look (fun _ => {}) x.banks b
def Bed.setBank (x : Bed) (b : Nat) (v : Channel) : Bed := { x with banks := put (fun _ => {}) x.banks b v }
def State.dom (s : State) (d : Nat) : Domain := look (fun _ => {}) s.domains d
def State.setDom (s : State) (d : Nat) (x : Domain) : State := { s with domains := put (fun _ => {}) s.domains d x }
def State.therm (s : State) (t : Nat) : Thermal := look (fun _ => {}) s.thermal t
def State.setTherm (s : State) (t : Nat) (x : Thermal) : State := { s with thermal := put (fun _ => {}) s.thermal t x }
def State.span (s : State) (p : Nat) : Span := look (fun _ => {}) s.ports p
def State.setSpan (s : State) (p : Nat) (x : Span) : State := { s with ports := put (fun _ => {}) s.ports p x }
def State.guest (s : State) (g : Nat) : Guest := look (fun _ => {}) s.guests g
def State.setGuest (s : State) (g : Nat) (x : Guest) : State := { s with guests := put (fun _ => {}) s.guests g x }
def State.mb (s : State) (t : Nat) : Mailbox := look (fun _ => {}) s.mbox t
def State.setMb (s : State) (t : Nat) (x : Mailbox) : State := { s with mbox := put (fun _ => {}) s.mbox t x }
def State.engine (s : State) (e : Nat) : Engine := look (fun _ => {}) s.engines e
def State.setEngine (s : State) (e : Nat) (x : Engine) : State := { s with engines := put (fun _ => {}) s.engines e x }
def State.leaseAt (s : State) (n : Nat) : Lease := look (fun _ => {}) s.leases n
def State.setLease (s : State) (n : Nat) (x : Lease) : State := { s with leases := put (fun _ => {}) s.leases n x }

/-- A number from a map whose unlisted entries are zero. -/
def num (m : SMap Nat) (k : Nat) : Nat := look (fun _ => 0) m k
def setNum (m : SMap Nat) (k v : Nat) : SMap Nat := put (fun _ => 0) m k v

/-- The segment in slot s of tenant t. -/
def State.seg? (s : State) (t slot : Nat) : Option Seg := (s.segs.find? fun e => e.1 = t * 16 + slot).map (·.2)

/-- The list with an id. -/
def State.list? (s : State) (id : Nat) : Option WorkList := s.lists.find? fun l => l.id = id

/-- Replace a list by itself changed. -/
def State.setList (s : State) (l : WorkList) : State := { s with lists := s.lists.map fun x => if x.id = l.id then l else x }

/-- The operation of a list at an offset. -/
def WorkList.op? (l : WorkList) (off : Nat) : Option Op := l.ops.find? fun o => o.offset = off

def WorkList.setOp (l : WorkList) (o : Op) : WorkList :=
  { l with ops := l.ops.map fun x => if x.offset = o.offset then o else x }

def State.op? (s : State) (id off : Nat) : Option Op :=
  match s.list? id with
  | some l => l.op? off
  | none => none

def State.setOp (s : State) (id : Nat) (o : Op) : State :=
  match s.list? id with
  | some l => s.setList (l.setOp o)
  | none => s

/-- Record an output. -/
def State.emit (s : State) (o : Output) : State := { s with out := o :: s.out }

/-- The next free value as a number of `w` bits (log entry 2). -/
def State.freeNat (s : State) (w : Nat) : Nat := (Config.freeBits w s.freeCtr).toNat

def State.bumpFree (s : State) : State := { s with freeCtr := s.freeCtr + 1 }

end Sys2Proof.Machine
end

