-- ==== Sys2Proof/Machine/Events.lean ====
section
/-! DEFINITION. Fault log, interrupt controller and fatal vector: the shared operations by which every other part of the
model reports (R288, R362 to R373, R412 to R416), and the commands that act on them alone. -/

namespace Sys2Proof.Machine

/-! ### Fault log (R412 to R414) -/

/-- The sequence number after `n`: modulo 2^32, skipping 0 (R413). -/
def nextSeq (n : Nat) : Nat := if (n + 1) % 2 ^ 32 = 0 then 1 else (n + 1) % 2 ^ 32

/-- R412, R413: a writer numbers an entry and stores it in slot seq mod 8192. A writer that is gone stores nothing. -/
def Flog.append (f : Flog) (e : FlogBody) : Flog :=
  if f.writerOk then
    let q := nextSeq f.seq
    { f with seq := q, slots := insertKey (q % 8192) ⟨q, e⟩ f.slots }
  else f

/-- R412: an entry reaches the writers of both X0 and X1. -/
def State.logEntry (s : State) (e : FlogBody) : State :=
  { s with flog0 := s.flog0.append e, flog1 := s.flog1.append e }

/-- Table 19-2: the die field: towers 0x00 to 0x07, I/O dies 0x10 to 0x13. -/
def dieField (d : Nat) : Nat := if d < 8 then d else 0x10 + (d - 8)

/-- No tenant, and a source outside the fabric (Table 19-2). -/
def noTenant : Nat := 0xFFFF
def noNode : Nat := 0xFFFF

/-- Write a fault-log entry stamped with the timebase count. -/
def State.log (s : State) (code sev die node tenant d0 d1 : Nat) : State :=
  s.logEntry ⟨BitVec.ofNat 64 s.tb.count, BitVec.ofNat 16 code, BitVec.ofNat 8 sev, BitVec.ofNat 8 (dieField die),
    BitVec.ofNat 16 node, BitVec.ofNat 16 tenant, BitVec.ofNat 32 d0, BitVec.ofNat 64 d1⟩

/-- R11, R18, R23, R131, R136, R285, R286, R371: an access error of a kind. -/
def State.accessError (s : State) (kind node tenant addr : Nat) : State :=
  s.log 0x0001 0 ((nodeDie node).getD 8) node tenant kind addr

/-- R414: writing FLOG_CTL.clear zeroes every slot of one copy; seq goes on counting. -/
def Flog.cleared (f : Flog) : Flog := { f with slots := [] }

/-- FAULT_LOG_ENTRY: a source's entry arrives at both writers. -/
def execFaultLogEntry (e : FlogBody) (s : State) : Host.Outcome State Fault Refusal := .next (s.logEntry e)

/-- FLOG_CTL_CLEAR (R414). -/
def flogClear (x : Nat) (s : State) : State :=
  if x = 0 then { s with flog0 := s.flog0.cleared } else { s with flog1 := s.flog1.cleared }

def execFlogCtlClear (x : Fin 2) (s : State) : Host.Outcome State Fault Refusal := .next (flogClear x.val s)

/-- Table 19-2: the 32 bytes of an entry. -/
def FlogEntry.toBytes (e : FlogEntry) : List Byte :=
  leBytes 8 e.body.tick.toNat ++ leBytes 4 e.seq ++ leBytes 2 e.body.code.toNat ++ leBytes 1 e.body.severity.toNat ++
  leBytes 1 e.body.die.toNat ++ leBytes 2 e.body.node.toNat ++ leBytes 2 e.body.tenant.toNat ++
  leBytes 4 e.body.detail0.toNat ++ leBytes 8 e.body.detail1.toNat

/-- The 32 bytes of a slot; a slot never written holds zero. -/
def Flog.slotBytes (f : Flog) (i : Nat) : List Byte :=
  match f.slots.find? fun x => x.1 = i with
  | some x => x.2.toBytes
  | none => List.replicate 32 0

/-- FLOG_STAT of a copy. -/
def Flog.stat (f : Flog) : Nat := b2n f.writerOk * 2 ^ 31 + b2n f.peerOk * 2 ^ 30 + b2n f.ue * 2 ^ 29

/-- R416: the 32-byte status block. -/
def State.statusBlock (s : State) (f : Flog) : List Byte :=
  leBytes 4 f.seq ++ leBytes 4 f.stat ++ leBytes 4 (s.reg .pkgHardpan).toNat ++ leBytes 4 s.fatal ++
  leBytes 4 (s.bw BW.state).toNat ++ List.replicate 4 0 ++ leBytes 8 s.tb.count

/-- I3C_INDEX_WRITE (R416, R435): a private write selects a slot or the status block. -/
def execI3cIndexWrite (x : Fin 2) (index : BitVec 16) (s : State) : Host.Outcome State Fault Refusal :=
  .next (if x.val = 0 then { s with flog0 := { s.flog0 with i3cIndex := index.toNat } }
    else { s with flog1 := { s.flog1 with i3cIndex := index.toNat } })

/-- I3C_READ (R416): the next private read returns the selected slot, or the status block for index 0xFFFF. An index
from 8192 to 0xFFFE selects nothing the manual names; it reads as zero (log entry 11). -/
def execI3cRead (x : Fin 2) (s : State) : Host.Outcome State Fault Refusal :=
  let f := if x.val = 0 then s.flog0 else s.flog1
  let data := if f.i3cIndex = 0xFFFF then s.statusBlock f
    else if f.i3cIndex < 8192 then f.slotBytes f.i3cIndex else List.replicate 32 0
  .next (s.emit (.i3c data))

/-! ### Interrupt controller (R362 to R373) -/

def srcDefault (_ : Nat) : Src := {}

def IC.src (c : IC) (n : Nat) : Src := look srcDefault c.srcs n
def IC.setSrc (c : IC) (n : Nat) (v : Src) : IC := { c with srcs := put srcDefault c.srcs n v }
def IC.stack (c : IC) (t : Nat) : List Claimed := look (fun _ => []) c.running t
def IC.setStack (c : IC) (t : Nat) (l : List Claimed) : IC := { c with running := put (fun _ => []) c.running t l }

/-- The source offered to a target. -/
def IC.offer? (c : IC) (t : Nat) : Option Nat := (c.offers.find? fun x => x.1 = t).map (·.2)

/-- R368: the group of a source: the high-order bits of its priority. -/
def IC.group (c : IC) (n : Nat) : Nat := (c.src n).prio / 2 ^ c.split

/-- R368: order of urgency: group, then sub-priority, then the lower source number. -/
def IC.urgency (c : IC) (n : Nat) : Nat := (c.src n).prio * 2048 + n

/-- R369: target t can accept source n. -/
def IC.canAccept (c : IC) (t n : Nat) : Bool :=
  nbit c.tgtEn t && nbit (c.src n).targets t && decide ((c.stack t).length < 8) &&
    (match c.stack t with
     | [] => true
     | a :: _ => decide (c.group n < a.group))

/-- Insert by a key, keeping the list in rising order of the key. -/
def insertBy {α : Type} (key : α → Nat) (x : α) : List α → List α
  | [] => [x]
  | y :: ys => if key x ≤ key y then x :: y :: ys else y :: insertBy key x ys

/-- Sort by a key, stable for equal keys in the given order of insertion from the right. -/
def sortBy {α : Type} (key : α → Nat) (l : List α) : List α := l.foldr (insertBy key) []

/-- Pending, unmasked sources in order of urgency (R370). -/
def IC.candidates (c : IC) : List Nat :=
  sortBy c.urgency ((c.srcs.map (·.1)).filter fun n => decide ((c.src n).mode = .pending) && !(c.src n).masked)

/-- R370: one source is offered: it keeps its target while that target can accept it and holds no more urgent offer;
otherwise the first target that can, round robin after the target that last claimed. -/
def IC.place (c : IC) (offers : SMap Nat) (n : Nat) : SMap Nat :=
  let free (t : Nat) : Bool := c.canAccept t n && !(offers.any fun x => x.1 = t)
  match (c.offers.find? fun x => x.2 = n).map (·.1) with
  | some t =>
    if free t then insertKey t n offers
    else
      match ((List.range 8).map fun i => (c.lastClaim + 1 + i) % 8).find? free with
      | some u => insertKey u n offers
      | none => offers
  | none =>
    match ((List.range 8).map fun i => (c.lastClaim + 1 + i) % 8).find? free with
    | some u => insertKey u n offers
    | none => offers

/-- R370: re-evaluate every offer. -/
def IC.reoffer (c : IC) : IC := { c with offers := c.candidates.foldl c.place [] }

/-- IC_LOST counts lost events and stops at its largest value. -/
def IC.addLost (c : IC) (n : Nat) : IC := { c with lost := satAdd 0xFFFFFFFF c.lost n }

/-- R365: an event of a source: idle becomes pending; otherwise the event is lost and counted. -/
def IC.event (c : IC) (n : Nat) : IC :=
  let x := c.src n
  if x.mode = .idle then (c.setSrc n { x with mode := .pending }).reoffer
  else c.addLost 1

/-- R371: a read of IC_ACKt. The value read: valid and the source number. -/
def IC.ack (c : IC) (t : Nat) : IC × Nat :=
  match c.offer? t with
  | none => (c, 0)
  | some n =>
    let c1 := (c.setSrc n { c.src n with mode := .active t }).setStack t (⟨n, c.group n⟩ :: c.stack t)
    ({ c1 with offers := removeKey t c1.offers, lastClaim := t }.reoffer, 2 ^ 31 + n)

/-- R371: a write of IC_EOIt; the flag tells whether it named a source active on t. -/
def IC.eoi (c : IC) (t n : Nat) : IC × Bool :=
  if (c.src n).mode = .active t then
    (((c.setSrc n { c.src n with mode := .idle }).setStack t ((c.stack t).filter fun a => a.source ≠ n)).reoffer, true)
  else (c, false)

/-- Apply a change to the 32 sources of a register n whose bits are set in w. -/
def IC.each (c : IC) (n w : Nat) (f : Src → Src) : IC :=
  ((List.range 32).foldl (fun c i => if nbit w i then c.setSrc (32 * n + i) (f (c.src (32 * n + i))) else c) c).reoffer

def Src.pend (x : Src) : Src := if x.mode = .idle then { x with mode := .pending } else x
def Src.unpend (x : Src) : Src := if x.mode = .pending then { x with mode := .idle } else x

/-- R364: the switch to the standby complex, in one step. -/
def IC.failover (c : IC) : IC :=
  let srcs := c.srcs.map fun x =>
    match x.2.mode with
    | .active t => if t < 4 then (x.1, { x.2 with mode := .pending }) else x
    | _ => x
  { c with srcs := srcs, tgtEn := c.tgtEn / 16 * 16 % 256 ||| 0xF0,
           running := c.running.filter fun x => 4 ≤ x.1, offers := c.offers.filter fun x => 4 ≤ x.1 }.reoffer

/-- Table 16-1: sources marked as reserved never fire. -/
def srcExists (n : Nat) : Bool :=
  if n < 0x200 then n % 8 < 5
  else if n < 0x280 then (n - 0x200) % 16 < 7
  else if n < 0x2E0 then (n - 0x280) % 8 < 3
  else if n < 0x300 then false
  else if n < 0x360 then n % 4 = 0
  else if n < 0x380 then true
  else if n < 0x3C0 then (n - 0x380) % 16 < 3 || (n < 0x390 && (n - 0x380) % 16 < 5)
  else if n < 0x400 then false
  else n < 0x800

/-- The die that a source's events come from. -/
def srcDie (n : Nat) : Nat :=
  if n < 0x200 then n / 64
  else if n < 0x280 then (n - 0x200) / 16
  else if n < 0x300 then (n - 0x280) / 8
  else if n < 0x360 then 8 + (n - 0x300) / 24
  else if n < 0x380 then (n - 0x360) / 4
  else if n < 0x3C0 then 8 + (n - 0x380) / 16
  else 8

/-- The quiescable node a source belongs to, if any: a sequencer for work-list events, an engine for job events. -/
def srcNode (n : Nat) : Option Nat :=
  if 0x200 ≤ n && n < 0x280 && (n - 0x200) % 16 = 5 then some (0x40 + (n - 0x200) / 16)
  else if 0x360 ≤ n && n < 0x380 then some (0x50 + (n - 0x360))
  else none

/-- R367: the path of a source is not free: its tower is held by the undervoltage monitor, or its node is stopped. -/
def State.srcHeld (s : State) (n : Nat) : Bool :=
  (s.dom (srcDie n)).uvSince.isSome ||
    (match srcNode n with
     | some v => s.sampling || s.quiesced.any fun q => q.1 = v
     | none => false)

/-- Deliver an event to the controller (R365). Nothing arrives while X0 is off. -/
def State.icEvent (s : State) (n : Nat) : State := if s.x0Lost then s else { s with ic := s.ic.event n }

/-- R362, R367: an edge at a source. A domain that is off sends nothing; a held one keeps one edge in its latch. -/
def State.raise (s : State) (n : Nat) : State :=
  if !srcExists n then s
  else if (s.dom (srcDie n)).state ≠ .on && srcDie n < 8 then s
  else if s.srcHeld n then
    let x := s.ic.src n
    if x.latched then { s with ic := s.ic.setSrc n { x with latchLost := x.latchLost + 1 } }
    else { s with ic := s.ic.setSrc n { x with latched := true } }
  else s.icEvent n

/-- R367: the latch of a source sends its EVENT; the edges lost behind it are counted then. -/
def asyncLatch (n : Nat) (s : State) : State :=
  let x := s.ic.src n
  if x.latched && !s.srcHeld n then
    { s with ic := (s.ic.setSrc n { x with latched := false, latchLost := 0 }).addLost x.latchLost }.icEvent n
  else s

/-! Sources by name (Table 16-1). -/
def srcCore (k o : Nat) : Nat := 8 * k + o
def srcTower (t o : Nat) : Nat := 0x200 + 16 * t + o
def srcStack (n o : Nat) : Nat := 0x280 + 8 * n + o
def srcPort (p : Nat) : Nat := 0x300 + 4 * p
def srcEngine (e : Nat) : Nat := 0x360 + e
def srcIo (x o : Nat) : Nat := 0x380 + 16 * x + o
def srcMailbox (t : Nat) : Nat := 0x400 + t

/-- EVENT (R365): a CTL EVENT message reaches the controller. A reserved source never fires. -/
def execEvent (source : BitVec 11) (s : State) : Host.Outcome State Fault Refusal :=
  .next (if srcExists source.toNat then s.icEvent source.toNat else s)

def execIcPendSet (n : Fin 64) (value : Word) (s : State) : Host.Outcome State Fault Refusal :=
  .next { s with ic := s.ic.each n.val value.toNat Src.pend }

def execIcPendClr (n : Fin 64) (value : Word) (s : State) : Host.Outcome State Fault Refusal :=
  .next { s with ic := s.ic.each n.val value.toNat Src.unpend }

def execIcMaskSet (n : Fin 64) (value : Word) (s : State) : Host.Outcome State Fault Refusal :=
  .next { s with ic := s.ic.each n.val value.toNat fun x => { x with masked := true } }

def execIcMaskClr (n : Fin 64) (value : Word) (s : State) : Host.Outcome State Fault Refusal :=
  .next { s with ic := s.ic.each n.val value.toNat fun x => { x with masked := false } }

/-- IC_TGT_EN_SET: writing 1 enables a target. -/
def IC.enable (c : IC) (w : Nat) : IC := { c with tgtEn := Nat.lor c.tgtEn (w % 256) }.reoffer

/-- IC_TGT_EN_CLR: writing 1 disables a target. -/
def IC.disable (c : IC) (w : Nat) : IC :=
  { c with tgtEn := c.tgtEn - Nat.land c.tgtEn (w % 256) }.reoffer

def execIcTgtEnSet (value : Word) (s : State) : Host.Outcome State Fault Refusal :=
  .next { s with ic := s.ic.enable value.toNat }

def execIcTgtEnClr (value : Word) (s : State) : Host.Outcome State Fault Refusal :=
  .next { s with ic := s.ic.disable value.toNat }

/-- IC_ACK (R371). -/
def icAckStep (t : Nat) (s : State) : State :=
  let r := s.ic.ack t
  { s with ic := r.1 }.emit (.icAck t r.2)

def execIcAck (target : Fin 8) (s : State) : Host.Outcome State Fault Refusal := .next (icAckStep target.val s)

/-- IC_EOI (R371): a write that names no source active on t is ignored and logged. -/
def icEoiStep (t n : Nat) (s : State) : State :=
  let r := s.ic.eoi t n
  if r.2 then { s with ic := r.1 } else s.accessError 2 0x70 noTenant (0x3F0000000000 + (Reg.icEoi t).off)

def execIcEoi (target : Fin 8) (value : Word) (s : State) : Host.Outcome State Fault Refusal :=
  .next (icEoiStep target.val (value.toNat % 2048) s)

def execAsyncLatchSend (source : BitVec 11) (s : State) : Host.Outcome State Fault Refusal :=
  .next (asyncLatch source.toNat s)

/-! ### Message-signalled vectors (R288, R289) -/

/-- A rise or write that a vector must report: owed while unmasked, pending while masked. -/
def Vector.request (v : Vector) : Vector := if v.masked then { v with pending := true } else { v with owed := true }

/-- At most one message in any 1 µs: 200 ticks. -/
def Vector.due (v : Vector) (now : Nat) : Bool :=
  v.owed && !v.masked && (match v.lastSent with
    | some t => decide (t + 200 ≤ now)
    | none => true)

def Vector.sent (v : Vector) (now : Nat) : Vector := { v with owed := false, lastSent := some now }

/-- Table 12-1: unmasking sends the one message of a pending bit. -/
def Vector.setMask (v : Vector) (m : Bool) : Vector :=
  if m then { v with masked := true, pending := v.pending || v.owed, owed := false }
  else { v with masked := false, owed := v.owed || v.pending, pending := false }

/-- R288: a bit of MB_FATAL rises; hardware asks for the fatal vector. -/
def State.setFatal (s : State) (b : Nat) : State :=
  if nbit s.fatal b then s
  else { s with fatal := s.fatal + 2 ^ b }.setMb 0 { s.mb 0 with vec1 := (s.mb 0).vec1.request }

def fatHardpan : Nat := 0
def fatPrimary : Nat := 1
def fatFirmware : Nat := 2
def fatTower : Nat := 3
def fatSram : Nat := 4

/-- FATAL_VECTOR (R288): hardware sends vector 1 of the physical function when a rise is owed. -/
def execFatalVector (s : State) : Host.Outcome State Fault Refusal :=
  let m := s.mb 0
  .next (if m.vec1.due s.now then (s.setMb 0 { m with vec1 := m.vec1.sent s.now }).emit (.vector 0 1) else s)

/-- VECTOR_0 (R289): firmware sends vector 0 of a function when a write is owed. -/
def execVector0 (tenant : BitVec 10) (s : State) : Host.Outcome State Fault Refusal :=
  let m := s.mb tenant.toNat
  .next (if m.vec0.due s.now then
    (s.setMb tenant.toNat { m with vec0 := m.vec0.sent s.now }).emit (.vector tenant.toNat 0) else s)

/-- R289: a completion or notice that asks for vector 0, while MB_CTL.irq is set. -/
def Mailbox.askVector (m : Mailbox) : Mailbox := if m.irq then { m with vec0 := m.vec0.request } else m

/-- R408: an uncorrectable error in control-complex SRAM. -/
def execControlSramUncorrectable (standby : Bool) (offset : BitVec 32) (s : State) :
    Host.Outcome State Fault Refusal :=
  .next ((s.setFatal fatSram).log 0x0082 4 (if standby then 9 else 8) (if standby then 0x71 else 0x70) noTenant
    (b2n standby) offset.toNat)

end Sys2Proof.Machine
end

