-- ==== Sys2Proof/Machine/Timebase.lean ====
section
/-! DEFINITION. The timebase (R374 to R380): its count, lock, holdover and SYNC load. -/

namespace Sys2Proof.Machine

/-- The timebase is there: VAUX is up and X0 has not been lost (R338). -/
def State.tbRuns (s : State) : Bool := s.vaux && !s.x0Lost

/-- R374: the count increments by one, and one tick of every interval passes (R376). -/
def tbTick (s : State) : State :=
  if s.tbRuns then { s with now := s.now + 1, tb := { s.tb with count := (s.tb.count + 1) % 2 ^ 64 } } else s

/-- TIMEBASE_FIRST_LOCK (R374): the first lock after VAUX rose, without a step of the count. -/
def execTimebaseFirstLock (s : State) : Host.Outcome State Fault Refusal :=
  .next (if s.tbRuns && !s.tb.locked && !s.tb.holdover then { s with tb := { s.tb with locked := true } } else s)

/-- TIMEREF_LOSS (R375): a locked timebase enters holdover, raises its event and logs. Before the first lock nothing is
set (R374). -/
def execTimerefLoss (s : State) : Host.Outcome State Fault Refusal :=
  .next (if s.tbRuns && s.tb.locked then
    (({ s with tb := { s.tb with locked := false, holdover := true, holdoverSeen := true } }.log 0x0070 1 8 0x70
      noTenant 0 0).raise (srcIo 0 4)) else s)

/-- TIMEREF_RELOCK (R375): holdover ends and the count does not step. -/
def execTimerefRelock (s : State) : Host.Outcome State Fault Refusal :=
  .next (if s.tbRuns && s.tb.holdover then { s with tb := { s.tb with locked := true, holdover := false } } else s)

/-- R377: the load: the count that the load tick would have had goes to TB_LASTLOAD, the preset becomes the count, arm
clears. The two TIMEREF periods, 16 ticks, pass within this step (log entry 12). -/
def syncLoad (s : State) : State :=
  let before := (s.tb.count + 16) % 2 ^ 64
  ({ s with now := s.now + 16,
            tb := { s.tb with count := s.tb.preset, lastLoad := before, armed := false, loaded := true,
                              loads := satAdd 0xFFFF s.tb.loads 1 } }).log 0x0071 0 8 0x70 noTenant 0 before

/-- SYNC_LOAD (R377, R379): a SYNC edge is ignored while arm is clear; not locked, it only sets sync_refused. -/
def execSyncLoad (s : State) : Host.Outcome State Fault Refusal :=
  .next (if !s.tbRuns || !s.tb.armed then s
    else if !s.tb.locked then { s with tb := { s.tb with syncRefused := true } }
    else syncLoad s)

/-- ARM (R377): the next SYNC edge loads the preset. -/
def execArm (s : State) : Host.Outcome State Fault Refusal := .next { s with tb := { s.tb with armed := true } }

/-- DISARM (R379). -/
def execDisarm (s : State) : Host.Outcome State Fault Refusal := .next { s with tb := { s.tb with armed := false } }

/-- TB_STAT (Table 17-7). -/
def Timebase.stat (t : Timebase) : Nat :=
  b2n t.locked * 2 ^ 31 + b2n t.holdover * 2 ^ 30 + b2n t.holdoverSeen * 2 ^ 29 + b2n t.syncRefused * 2 ^ 28 +
  b2n t.loaded * 2 ^ 27 + t.loads

/-- A write of TB_STAT clears the W1C bits. -/
def Timebase.clearStat (t : Timebase) (w : Nat) : Timebase :=
  { t with holdoverSeen := t.holdoverSeen && !nbit w 29, syncRefused := t.syncRefused && !nbit w 28,
           loaded := t.loaded && !nbit w 27 }

end Sys2Proof.Machine
end

