-- ==== Sys2Proof/Machine/Mailbox.lean ====
section
/-! DEFINITION. Mailboxes (R281 to R297, R309): rings, pointers, phase bits, completions, notices, and how firmware takes
a slip. -/

namespace Sys2Proof

open Machine

/-! ### Fields of a slip (Tables 12-6 and 12-10) -/

/-- The tag of a slip. -/
def Slip.tag (x : Slip) : Nat := fieldAt x.bytes 4 4
def Slip.opcode (x : Slip) : Nat := fieldAt x.bytes 0 1
def Slip.quiet (x : Slip) : Bool := nbit (fieldAt x.bytes 1 1) 0
def Slip.t (x : Slip) : Nat := x.tenant.toNat
/-- A field of a slip. -/
def Slip.f (x : Slip) (o n : Nat) : Nat := fieldAt x.bytes o n

/-- Table 12-6, R290: header reserved bits and every body byte outside the named ranges (offset, length) are zero. -/
def Slip.clean (x : Slip) (named : List (Nat × Nat)) : Bool :=
  decide (fieldAt x.bytes 1 1 < 2) && fieldAt x.bytes 2 2 = 0 &&
    ((List.range 56).all fun i =>
      (named.any fun r => decide (r.1 ≤ i + 8) && decide (i + 8 < r.1 + r.2)) || fieldAt x.bytes (i + 8) 1 = 0)

end Sys2Proof

namespace Sys2Proof.Machine

/-- A difference of free-running counts modulo 2^32. -/
def sub32 (a b : Nat) : Nat := (a + 2 ^ 32 - b % 2 ^ 32) % 2 ^ 32

/-- R291: completions written and not released. -/
def Mailbox.u (m : Mailbox) : Nat := sub32 m.cqTail m.cqHead

/-- R291: slips accepted and not completed. -/
def Mailbox.a (m : Mailbox) : Nat := m.live.length

/-- R291: room to take a slip. -/
def Mailbox.canTake (m : Mailbox) : Bool := m.u + m.a ≤ 28

/-- Doorbelled slips not yet taken. -/
def Mailbox.waiting (m : Mailbox) : Nat := sub32 m.sqTail m.sqHead

/-- R292: the phase bit of completion n. -/
def phaseBit (n : Nat) : Nat := 1 - n / 32 % 2

/-- R290, R292: write completion slip n = MB_CQ_TAIL: body, then header with the phase bit. -/
def Mailbox.writeSlip (m : Mailbox) (kind status tag : Nat) (body : List Byte) : Mailbox :=
  let n := m.cqTail
  let bytes := leBytes 1 kind ++ leBytes 1 status ++ leBytes 1 (phaseBit n) ++ [0] ++ leBytes 4 tag ++
    (body ++ List.replicate 56 0).take 56
  { m with cq := wrBytes m.cq (n % 32 * 64) bytes, cqTail := (n + 1) % 2 ^ 32 }

/-- R309: the body of a notice. -/
def Notice.body (n : Notice) : List Byte :=
  leBytes 4 n.count ++ leBytes 4 n.subject ++ leBytes 8 n.tick ++ n.detail

/-- R291, R309: a notice is written while U + A is below 32 and nothing is held; otherwise it is held, merged with a held
one of the same kind and tag. -/
def Mailbox.post (m : Mailbox) (n : Notice) : Mailbox :=
  if m.held.isEmpty && m.u + m.a < 32 then (m.writeSlip n.kind 0 n.tag n.body).askVector
  else if m.held.any fun h => h.kind = n.kind && h.tag = n.tag then
    { m with held := m.held.map fun h =>
        if h.kind = n.kind && h.tag = n.tag then { h with count := satAdd 0xFFFFFFFF h.count n.count } else h }
  else { m with held := m.held ++ [n] }

/-- R309: one held notice is written as space frees. -/
def Mailbox.flushHeld (m : Mailbox) : Mailbox :=
  match m.held with
  | [] => m
  | n :: rest =>
    if m.u + m.a < 32 then ({ m with held := rest }.writeSlip n.kind 0 n.tag n.body).askVector else m

def noticeListEvent : Nat := 0x40
def noticeDataLoss : Nat := 0x41
def noticeFloorPlan : Nat := 0x42
def noticeFailover : Nat := 0x43
def noticePolicyClamp : Nat := 0x44

/-- R309: firmware reports an event to a tenant that has a session and is not being reset (log entry 13). -/
def State.notify (s : State) (t kind tag subject : Nat) (detail : List Byte) : State :=
  let m := s.mb t
  if s.alive && m.session && !m.resetting then
    s.setMb t (m.post ⟨kind, tag, 1, subject, s.tb.count, detail⟩)
  else s

/-- R311, R23: functions that exist: the physical function and the enabled virtual functions. -/
def State.fnExists (s : State) (t : Nat) : Bool := t = 0 || (s.vfEnable && decide (t ≤ s.numVfs))

/-- Tenants with a session (for notices to every mailbox). -/
def State.sessions (s : State) : List Nat := (s.mbox.filter fun x => x.2.session).map (·.1)

/-- A notice to every mailbox with a session. -/
def State.notifyAll (s : State) (kind tag subject : Nat) (detail : List Byte) : State :=
  s.sessions.foldl (fun s t => s.notify t kind tag subject detail) s

/-! ### Slip status codes (Table 12-9) -/
def stOk : Nat := 0
def stMalformed : Nat := 1
def stNoSession : Nat := 2
def stVersion : Nat := 3
def stDenied : Nat := 4
def stNoSpace : Nat := 5
def stBadSlot : Nat := 6
def stBusy : Nat := 7
def stNotFound : Nat := 8
def stListFailed : Nat := 9
def stCancelled : Nat := 0xA
def stUncorrectable : Nat := 0xB
def stTowerLost : Nat := 0xC
def stTenantReset : Nat := 0xD
def stHostFault : Nat := 0xE

/-- R423: a tenant makes progress; its watchdog starts again. -/
def State.progressed (s : State) (t : Nat) : State :=
  { s with progress := setNum s.progress t s.now, watchdogs := setNum s.watchdogs t 0 }

/-- Remove the first live slip that satisfies a test. -/
def dropFirst {α : Type} (p : α → Bool) : List α → List α
  | [] => []
  | x :: xs => if p x then xs else x :: dropFirst p xs

/-- R290 to R292: complete a live slip: its header and body are written, its reservation is released and vector 0 asked
for unless it was quiet. A slip that a reset has ended receives nothing (R310). -/
def State.complete (s : State) (t opcode tag status : Nat) (body : List Byte) : State :=
  let m := s.mb t
  match m.live.find? fun l => l.opcode = opcode && l.tag = tag with
  | none => s
  | some l =>
    let m1 := { m with live := dropFirst (fun l => l.opcode = opcode && l.tag = tag) m.live }
    let m2 := m1.writeSlip opcode status tag body
    (s.setMb t (if l.quiet then m2 else m2.askVector)).progressed t

/-! ### Taking a slip (R287, R291, R294, R296) -/

/-- R294: firmware still carries out an earlier slip of this mailbox whose effect must be in place first: a SEG_ALLOC
that waits for zeroing (R320), or a SEG_FREE that waits for its removal (R317). -/
def Mailbox.blocked (m : Mailbox) : Bool :=
  m.live.any fun l => (decide (l.opcode = 0x02) || decide (l.opcode = 0x03)) && !l.bytes.isEmpty

/-- R287, R291: firmware can take a slip of this mailbox now. -/
def State.canTakeSlip (s : State) (t : Nat) : Bool :=
  let m := s.mb t
  s.alive && !s.sampling && s.fnExists t && !m.resetting && decide (0 < m.waiting) && m.canTake && !m.blocked

/-- Firmware takes the slip at MB_SQ_HEAD: the head advances and the slip is live. -/
def State.take (s : State) (x : Slip) : State :=
  let m := s.mb x.t
  s.setMb x.t { m with sqHead := (m.sqHead + 1) % 2 ^ 32,
                       live := m.live ++ [{ opcode := x.opcode, tag := x.tag, quiet := x.quiet }] }

/-- End at once the slip just taken, the newest live one, with a status and a body. -/
def State.answer (s : State) (x : Slip) (status : Nat) (body : List Byte) : State :=
  let m := s.mb x.t
  let m1 := { m with live := m.live.dropLast }.writeSlip x.opcode status x.tag body
  (s.setMb x.t (if x.quiet then m1 else m1.askVector)).progressed x.t

/-- R296, R297: how firmware takes a slip of the row's opcode. A slip that cannot be taken now, is not 64 bytes or bears
another opcode leaves the state as it is; NO_SESSION comes before PF-only DENIED, and that before MALFORMED. `act` runs
on the state with the slip taken. -/
def State.withSlip (s : State) (x : Slip) (isOp : Nat → Bool) (pfOnly : Bool) (named : List (Nat × Nat))
    (act : State → State) : State :=
  if !(s.canTakeSlip x.t && x.bytes.length = 64 && isOp x.opcode) then s
  else
    let s1 := s.take x
    if x.opcode ≠ 1 && !(s.mb x.t).session then s1.answer x stNoSession []
    else if pfOnly && x.t ≠ 0 then s1.answer x stDenied []
    else if !x.clean named then s1.answer x stMalformed []
    else act s1

/-- R296: opcodes of Table 12-8. -/
def slipOpcodeKnown (o : Nat) : Bool := 1 ≤ o && o ≤ 0x0F

/-- RESERVED_SLIP_OPCODE (R296): completes with MALFORMED and changes nothing. -/
def execReservedSlipOpcode (slip : Slip) (s : State) : Host.Outcome State Fault Refusal :=
  .next (s.withSlip slip (fun o => !slipOpcodeKnown o) false [] fun s1 => s1.answer slip stMalformed [])

/-! ### Pointer writes (R286) -/

/-- R286: an ignored pointer write sets bad_doorbell and is logged with kind 4. -/
def State.badPointer (s : State) (t off : Nat) : State :=
  (s.setMb t { s.mb t with badDoorbell := true }).accessError 4 0x70 t off

/-- DOORBELL (R286, R362): a valid write hands slips to firmware and raises the mailbox source. -/
def doorbell (t tail : Nat) (s : State) : State :=
  let m := s.mb t
  let d := sub32 tail m.sqHead
  if decide (sub32 m.sqTail m.sqHead ≤ d) && decide (d ≤ 32) then
    (s.setMb t { m with sqTail := tail }).icEvent (srcMailbox t)
  else s.badPointer t 0x1000

def execDoorbell (tenant : BitVec 10) (tail : Word) (s : State) : Host.Outcome State Fault Refusal :=
  .next (if s.fnExists tenant.toNat then doorbell tenant.toNat tail.toNat s else s)

/-- CQ_HEAD_WRITE (R286): releases completion slots; backward or past the tail it is ignored and reported. -/
def cqHeadWrite (t head : Nat) (s : State) : State :=
  let m := s.mb t
  if sub32 head m.cqHead ≤ sub32 m.cqTail m.cqHead then s.setMb t { m with cqHead := head }
  else s.badPointer t 0x1008

def execCqHeadWrite (tenant : BitVec 10) (head : Word) (s : State) : Host.Outcome State Fault Refusal :=
  .next (if s.fnExists tenant.toNat then cqHeadWrite tenant.toNat head.toNat s else s)

/-- HELD_NOTICE_WRITE (R309): firmware writes the oldest held notice when there is space. -/
def execHeldNoticeWrite (tenant : BitVec 10) (s : State) : Host.Outcome State Fault Refusal :=
  .next (if s.alive then s.setMb tenant.toNat (s.mb tenant.toNat).flushHeld else s)

/-- MB_STAT.alive: a control complex serves the mailboxes; it stays set through a failover until firmware is dead (R282). -/
def State.served (s : State) : Bool := s.alive || (s.hbActive.isNone && s.hbStandby.isSome && !s.fwDead)

/-- Table 12-3: MB_STAT. -/
def State.mbStat (s : State) (t : Nat) : Nat :=
  let m := s.mb t
  b2n s.served * 2 ^ 31 + b2n m.session * 2 ^ 30 + b2n (s.served && s.standby) * 2 ^ 29 + b2n m.resetting * 2 ^ 28 +
  b2n (!m.held.isEmpty) * 2 ^ 27 + b2n (decide (0 < m.waiting) && !m.canTake) * 2 ^ 26 + b2n m.badDoorbell * 2 ^ 25 +
  s.failovers * 2 ^ 16 + (if m.session then m.version else 0)

end Sys2Proof.Machine
end

