-- ==== Sys2Proof/Machine/Sector.lean ====
section
/-! DEFINITION. The sector code (R189 to R192): a shortened Reed-Solomon code over GF(2^8) that carries the sector's
location, its decoder and the five read outcomes of Table 8-1. -/

namespace Sys2Proof.Machine

/-! ### The field GF(2^8) of R189 -/

/-- Multiply by α in the field of x^8 + x^4 + x^3 + x^2 + 1. -/
def gfDouble (a : Nat) : Nat := if a < 128 then 2 * a else Nat.xor (2 * a) 0x11D

/-- Product of a with the low `n` bits of b, most significant first. -/
def gfMulAux (a b : Nat) : Nat → Nat → Nat
  | 0, acc => acc
  | n + 1, acc => gfMulAux a b n (if nbit b n then Nat.xor (gfDouble acc) a else gfDouble acc)

/-- Field product. -/
def gfMul (a b : Nat) : Nat := gfMulAux a b 8 0

/-- α^n. -/
def gfExp : Nat → Nat
  | 0 => 1
  | n + 1 => gfDouble (gfExp n)

/-- a^n. -/
def gfPow (a : Nat) : Nat → Nat
  | 0 => 1
  | n + 1 => gfMul a (gfPow a n)

/-- Inverse of a nonzero element: a^254. -/
def gfInv (a : Nat) : Nat :=
  let a2 := gfMul a a
  let a4 := gfMul a2 a2
  let a8 := gfMul a4 a4
  let a16 := gfMul a8 a8
  let a32 := gfMul a16 a16
  let a64 := gfMul a32 a32
  let a128 := gfMul a64 a64
  gfMul a128 (gfMul a64 (gfMul a32 (gfMul a16 (gfMul a8 (gfMul a4 a2)))))

/-! ### Address fold (R190) -/

/-- One bit of the CRC-16 of R190. -/
def crc16Bit (crc : Nat) (b : Bool) : Nat :=
  let top := nbit crc 15
  let sh := crc * 2 % 65536
  if top = b then sh else Nat.xor sh 0x1021

/-- R190: the CRC-16 of a 40-bit location, from bit 39 down to bit 0. -/
def fold16 (loc : Nat) : Nat := (List.range 40).foldl (fun c i => crc16Bit c (nbit loc (39 - i))) 0xFFFF

/-- The virtual symbols of a location: v0 then v1. -/
def virtualSyms (loc : Nat) : List Nat := [fold16 loc / 256, fold16 loc % 256]

/-! ### Encoding (R189) -/

/-- Coefficients g3, g2, g1, g0 of (x − α^0)(x − α^1)(x − α^2)(x − α^3), whose leading coefficient is 1. -/
def rsGen : List Nat :=
  let mulRoot (p : List Nat) (r : Nat) : List Nat :=
    -- p lists coefficients from the highest down; multiply by (x + r)
    List.zipWith Nat.xor (p ++ [0]) (0 :: p.map fun c => gfMul c r)
  (([1, 2, 4, 8].foldl mulRoot [1])).drop 1

/-- One step of the division of R189: shift the remainder and add the next message symbol times the generator. -/
def rsStep (rem : List Nat) (m : Nat) : List Nat :=
  match rem with
  | r :: rs =>
    let f := Nat.xor r m
    List.zipWith Nat.xor (rs ++ [0]) (rsGen.map fun g => gfMul f g)
  | [] => []

/-- R189: the four check symbols c0 to c3 of virtual symbols and data. -/
def rsChecks (virt data : List Nat) : List Nat := (virt ++ data).foldl rsStep [0, 0, 0, 0]

/-- R189: check symbols as the 32 metadata bits, c0 in bits [7:0]. -/
def packChecks (cs : List Nat) : Nat := leNat (cs.map fun c => BitVec.ofNat 8 c)

/-- The four check symbols of 32 metadata bits. -/
def unpackChecks (v : Nat) : List Nat := [v % 256, v / 256 % 256, v / 65536 % 256, v / 16777216 % 256]

def natsOf (bs : List Byte) : List Nat := bs.map BitVec.toNat

/-- R189: the clean check symbols of a sector at a location. -/
def cleanChecks (loc : Nat) (data : List Byte) : Word :=
  BitVec.ofNat 32 (packChecks (rsChecks (virtualSyms loc) (natsOf data)))

/-- R192: the check symbols of a poison marker at a location; its data bytes are zero. -/
def poisonChecks (loc : Nat) : Word :=
  BitVec.ofNat 32 (packChecks (rsChecks ((virtualSyms loc).map fun v => Nat.xor v 0xFF) (List.replicate 64 0)))

/-! ### Decoding (R191) -/

/-- Outcome of a sector read, Table 8-1. -/
inductive SectorOutcome where
  | clean | corrected | poison | address | uncorrectable
deriving DecidableEq, Repr

/-- Outcome number of fault-log entries 0x0030 and 0x0031. -/
def SectorOutcome.code : SectorOutcome → Nat
  | .clean => 0
  | .corrected => 1
  | .poison => 2
  | .address => 3
  | .uncorrectable => 4

/-- An outcome that delivers no data (R191, R195). -/
def SectorOutcome.isBad : SectorOutcome → Bool
  | .poison | .address | .uncorrectable => true
  | _ => false

/-- The value at x of the polynomial whose coefficients are listed from the highest down. -/
def gfEval (x : Nat) (cs : List Nat) : Nat := cs.foldl (fun acc c => Nat.xor (gfMul acc x) c) 0

/-- The four syndromes of 70 symbols. -/
def rsSyndromes (syms : List Nat) : List Nat := [gfEval 1 syms, gfEval 2 syms, gfEval 4 syms, gfEval 8 syms]

/-- A located error: symbol index 0 to 69 and the value added to it. -/
structure SymError where
  idx : Nat
  val : Nat
deriving DecidableEq, Repr

/-- Errors found from the syndromes: none when no pattern of one or two symbols explains them. -/
def rsLocate (s0 s1 s2 s3 : Nat) : Option (List SymError) :=
  let det := Nat.xor (gfMul s0 s2) (gfMul s1 s1)
  if det = 0 then
    -- one error of value s0 at X with s1 = s0 X, s2 = s0 X², s3 = s0 X³
    if s0 = 0 then none
    else
      let x := gfMul s1 (gfInv s0)
      match (List.range 70).find? fun i => gfExp (69 - i) = x with
      | none => none
      | some i => if gfMul s2 x = s3 then some [⟨i, s0⟩] else none
  else
    -- locator z² + l1 z + l2 with S2 = l1 S1 + l2 S0 and S3 = l1 S2 + l2 S1
    let di := gfInv det
    let l1 := gfMul di (Nat.xor (gfMul s0 s3) (gfMul s1 s2))
    let l2 := gfMul di (Nat.xor (gfMul s1 s3) (gfMul s2 s2))
    let roots := (List.range 70).filter fun i =>
      let z := gfExp (69 - i)
      Nat.xor (gfMul (Nat.xor z l1) z) l2 = 0
    match roots with
    | [i, j] =>
      let xi := gfExp (69 - i)
      let xj := gfExp (69 - j)
      let ej := gfMul (Nat.xor s1 (gfMul s0 xi)) (gfInv (Nat.xor xi xj))
      let ei := Nat.xor s0 ej
      if ei = 0 || ej = 0 then none else some [⟨i, ei⟩, ⟨j, ej⟩]
    | _ => none

/-- A decoded sector: the outcome and the data delivered. -/
structure Decoded where
  outcome : SectorOutcome
  data : List Byte
deriving DecidableEq, Repr

/-- Apply located errors to the data bytes (data byte i is symbol i + 2). -/
def applyErrors (data : List Byte) (es : List SymError) : List Byte :=
  es.foldl (fun d e => if e.idx < 2 || 66 ≤ e.idx then d
    else d.mapIdx fun i b => if i + 2 = e.idx then b ^^^ BitVec.ofNat 8 e.val else b) data

/-- R191, Table 8-1: decode a sector read at a location. -/
def decodeSector (loc : Nat) (data : List Byte) (chk : Word) : Decoded :=
  match rsSyndromes (virtualSyms loc ++ natsOf data ++ unpackChecks chk.toNat) with
  | [s0, s1, s2, s3] =>
    if s0 = 0 && s1 = 0 && s2 = 0 && s3 = 0 then ⟨.clean, data⟩
    else
      match rsLocate s0 s1 s2 s3 with
      | none => ⟨.uncorrectable, data⟩
      | some es =>
        if es.all fun e => 2 ≤ e.idx then ⟨.corrected, applyErrors data es⟩
        else if es.all (fun e => decide (e.idx < 2) && decide (e.val = 0xFF)) && es.length = 2 then ⟨.poison, data⟩
        else ⟨.address, data⟩
  | _ => ⟨.uncorrectable, data⟩

end Sys2Proof.Machine
end

