-- ==== Sys2Proof/Machine/Memory.lean ====
section
/-! DEFINITION. Device memory: address decoding (R17 to R20, R117, R118), the interleave (R187), sector reads and writes
with their outcomes (R189 to R196), injected errors (R208), failing channels (R200, R201) and access to lost dies
(R19, R225, R337). -/

namespace Sys2Proof.Machine

def gib : Nat := 2 ^ 30

/-! ### What is there -/

/-- R19: the core is enabled. -/
def State.coreEnabled (s : State) (k : Nat) : Bool := k < 64 && num s.coreState k = 0

/-- The bank is retired. -/
def State.retired (s : State) (k b : Nat) : Bool := nbit (num s.bankRetired k) b

/-- The channel is mapped out. -/
def State.mapped (s : State) (n c : Nat) : Bool := nbit (num s.chanMapped n) c

/-- R200, R201: the channel has been poisoned in service. -/
def State.poisoned (s : State) (n c : Nat) : Bool := s.regF (.memChstat n c) 30 2 = 1

/-- R225, R337, R338: the die has been lost in service. -/
def State.dieLost (s : State) (d : Nat) : Bool := (s.dom d).lost

/-- R187: the channel list: channels 0 to 15, and for each the present stacks in ascending order, less the mapped-out
ones. -/
def State.chanList (s : State) : List (Nat × Nat) :=
  (List.range 16).flatMap fun c =>
    ((List.range 12).filter fun n => stackPresent s.fuses n && !s.mapped n c).map fun n => (n, c)

/-- R20: the external top. -/
def State.extTop (s : State) : Nat := s.chanList.length * 3 * gib

/-- The position of a channel in the channel list. -/
def State.chanIndex (s : State) (n c : Nat) : Nat := s.chanList.findIdx fun x => x = (n, c)

/-- Where a byte address leads (R17). -/
inductive Loc where
  | refused
  /-- On a die that has been lost (R19, R337). -/
  | lost (die : Nat)
  | ext (n c sector : Nat)
  | bed (k b sector : Nat)
  | window (k off : Nat)
  | reg (off : Nat)
deriving DecidableEq, Repr

/-- R187: the channel and channel-local sector of an external address. -/
def State.extLoc (s : State) (a : Nat) : Loc :=
  let l := s.chanList
  if a < s.extTop then
    let g := a / 4096
    match l[g % l.length]? with
    | some (n, c) => if s.dieLost n then .lost n else .ext n c (g / l.length * 64 + a % 4096 / 64)
    | none => .refused
  else .refused

/-- R117: bank of a bed offset. -/
def bedBank (o : Nat) : Nat := o / 512 % 128

/-- R117: bank-local byte address of a bed offset. -/
def bedLocal (o : Nat) : Nat := o / 65536 * 512 + o % 512

/-- Bed offset of a bank-local byte address, the inverse of R117. -/
def bedOffset (b a : Nat) : Nat := a / 512 * 65536 + b * 512 + a % 512

/-- R17 to R19, R117, R118: decode one device byte address. -/
def State.locate (s : State) (a : Nat) : Loc :=
  let region := a / 2 ^ 40 % 256
  let low := a % 2 ^ 40
  if region = 0 then s.extLoc low
  else if region = 0x10 then
    let k := low / 2 ^ 32
    let o := low % 2 ^ 32
    if 64 ≤ k then .refused
    else if num s.coreState k = 3 then .lost (k / 8)
    else if !s.coreEnabled k || 0xC0000000 ≤ o || s.retired k (bedBank o) then .refused
    else .bed k (bedBank o) (bedLocal o / 64)
  else if region = 0x20 then
    let k := low / 2 ^ 32
    if 64 ≤ k then .refused
    else if num s.coreState k = 3 then .lost (k / 8)
    else if !s.coreEnabled k then .refused
    else .window k (low % 2 ^ 32)
  else if region = 0x3F then (if low < 0x3000000 then .reg low else .refused)
  else .refused

/-- R190: the 40-bit location of a sector. -/
def locCode : Loc → Nat
  | .ext n c i => n * 2 ^ 36 + c * 2 ^ 32 + i
  | .bed k b i => 0xF * 2 ^ 36 + k * 2 ^ 26 + b * 2 ^ 19 + i
  | _ => 0

/-- Device address of a channel-local sector (the inverse of R187). -/
def State.extAddr (s : State) (n c sector : Nat) : Nat :=
  (sector / 64 * s.chanList.length + s.chanIndex n c) * 4096 + sector % 64 * 64

def bedBase (k : Nat) : Nat := 0x100000000000 + k * 0x100000000

/-- Device address of a bank-local sector. -/
def bedAddr (k b sector : Nat) : Nat := bedBase k + bedOffset b (sector * 64)

/-! ### Event counters (R417, R419) -/

/-- Count `n` events of a code at a unit: every counter that selects it advances, modulo 2^48. -/
def State.ctr (s : State) (u code n : Nat) : State :=
  (List.range (unitCtrs u)).foldl (fun s i =>
    if s.regF (.ctrSel u i) 0 16 = code then s.setReg (.ctrVal u i) (BitVec.ofNat 64 ((s.regF (.ctrVal u i) 0 48 + n) % 2 ^ 48))
    else s) s

/-! ### Failing channels (R200, R201) -/

/-- The owned external segments, with their tenants. -/
def State.ownedSegs (s : State) : List (Nat × Seg) :=
  (s.segs.filter fun e => e.2.kind ≠ .attached).map fun e => (e.1 / 16, e.2)

/-- Address of the first granule of a segment that lies on the channel of list position i. -/
def State.firstOn (s : State) (g : Seg) (i : Nat) : Option Nat :=
  let nc := s.chanList.length
  if nc = 0 then none
  else
    let g0 := g.base / 4096
    let g1 := g0 + (i + nc - g0 % nc) % nc
    if !g.bed && g1 * 4096 < g.base + g.size then some (g1 * 4096) else none

/-- R201: firmware reports the loss to every tenant that owns a segment with a granule of the channel. -/
def State.reportChannel (s : State) (n c : Nat) : State :=
  let i := s.chanIndex n c
  ((List.range 1024).filter fun t => s.segs.any fun e => e.1 / 16 = t && e.2.kind ≠ .attached).foldl (fun s t =>
    match (s.ownedSegs.filter fun e => e.1 = t).filterMap fun e => s.firstOn e.2 i with
    | [] => s
    | a :: as => s.notify t noticeDataLoss 0 (n * 16 + c) (leBytes 8 (as.foldl min a))) s

/-- R201: a controller declares its channel failing. -/
def State.channelFail (s : State) (n c trigger : Nat) : State :=
  if s.regF (.memChstat n c) 30 2 ≠ 0 then s
  else
    let s1 := (s.setF (.memChstat n c) 30 2 1).setBit (.memStat n) 1
    let s2 := (s1.raise (srcStack n 1)).log 0x0032 3 n (if n < 8 then 0x48 + n else 0x74 + (n - 8)) noTenant trigger
      (n * 16 + c)
    { s2 with chanPoisoned := setNum s2.chanPoisoned n (Nat.lor (num s2.chanPoisoned n) (2 ^ c)),
              fpDirty := true }.reportChannel n c

/-- R200: count a bad outcome toward a failing channel: two ADDRESS at different sectors within 1 s (200,000,000
ticks), or sixteen ADDRESS or UNCORRECTABLE. -/
def State.countBad (s : State) (n c sector : Nat) (address : Bool) : State :=
  let x := (s.stack n).channel c
  let fresh := (x.recent.filter fun e => decide (s.now < e.at_ + 200000000) && !(e.sector = sector && e.address = address))
  let recent := ⟨sector, s.now, address⟩ :: fresh
  let s1 := s.setStack n ((s.stack n).setChannel c { x with recent := recent })
  let sectors (l : List BadSector) : Nat := (l.map (·.sector)).dedup.length
  if 2 ≤ sectors (recent.filter fun e => e.address) then s1.channelFail n c 1
  else if 16 ≤ sectors recent then s1.channelFail n c 2
  else s1

/-! ### Sector reads (R191, R194, R195) -/

/-- Node of a sector's controller or bed port. -/
def locNode : Loc → Nat
  | .ext n _ _ => if n < 8 then 0x48 + n else 0x74 + (n - 8)
  | .bed k _ _ => k
  | .window k _ => k
  | _ => 0x70

/-- The unit whose counters see a memory access. -/
def State.countOutcome (s : State) (l : Loc) (o : SectorOutcome) : State :=
  match l, o with
  | .ext n c _, .corrected => (s.countF (.memChce n c) 0 32 1).ctr (unitChan n c) 0x1005 1
  | .ext n c _, .poison => (s.countF (.memChpoison n c) 0 32 1).setBit (.memStat n) 0
  | .ext n c i, .address => ((s.countF (.memChue n c) 16 16 1).setF (.memChstat n c) 0 26 i).setBit (.memStat n) 0
  | .ext n c i, .uncorrectable => ((s.countF (.memChue n c) 0 16 1).setF (.memChstat n c) 0 26 i).setBit (.memStat n) 0
  | .bed k _ _, .corrected => s.countF (.bedCe k) 0 32 1
  | .bed k _ _, .poison => s.countF (.bedUe k) 24 8 1
  | .bed k b i, .address => (s.countF (.bedUe k) 12 12 1).setReg (.bedLastue k) (BitVec.ofNat 64 (b * 2 ^ 19 + i))
  | .bed k b i, .uncorrectable => (s.countF (.bedUe k) 0 12 1).setReg (.bedLastue k) (BitVec.ofNat 64 (b * 2 ^ 19 + i))
  | _, _ => s

/-- After counting: ADDRESS and UNCORRECTABLE count toward a failing channel. -/
def State.countToward (s : State) (l : Loc) (o : SectorOutcome) : State :=
  match l, o with
  | .ext n c i, .address => s.countBad n c i true
  | .ext n c i, .uncorrectable => s.countBad n c i false
  | _, _ => s

/-- The decoded sector at a sector-aligned address, as the controller sees it: every read of a poisoned channel is POISON
(R201). -/
def State.decodeAt (s : State) (l : Loc) (a : Nat) : Decoded :=
  let data := rdBytes s.mem a 64
  let bad := match l with
    | .ext n c _ => s.poisoned n c
    | _ => false
  if bad then ⟨.poison, List.replicate 64 0⟩
  else match s.checks.find? fun x => x.1 = a / 64 with
    | none => ⟨.clean, data⟩
    | some x => decodeSector (locCode l) data x.2

/-- R198, Table 12-12: a bad sector that the scrubber finds is reported to the tenants that own it (log entry 34). -/
def State.dataLoss (s : State) (a : Nat) : State :=
  (s.ownedSegs.filter fun e => decide (e.2.base ≤ a) && decide (a < e.2.base + e.2.size)).foldl (fun s e =>
    s.notify e.1 noticeDataLoss 0 0xFFFFFFFF (leBytes 8 (a / 4096 * 4096))) s

/-- Read one sector (R191, R195): the outcome is counted, a bad one is logged with its location and tenant. -/
def State.readSector (s : State) (a tenant : Nat) : State × Decoded :=
  let l := s.locate a
  let d := s.decodeAt l a
  let s1 := s.countOutcome l d.outcome
  if d.outcome.isBad then
    ((s1.log 0x0030 3 ((nodeDie (locNode l)).getD 8) (locNode l) tenant d.outcome.code (locCode l)).countToward l
      d.outcome, d)
  else (s1, d)

/-! ### Sector writes (R193, R201, R208) -/

/-- Store check symbols of a sector: listed only when they are not those of the data stored. -/
def State.setChecks (s : State) (l : Loc) (a : Nat) (chk : Word) : State :=
  { s with checks := if chk = cleanChecks (locCode l) (rdBytes s.mem a 64) then removeKey (a / 64) s.checks
                     else insertKey (a / 64) chk s.checks }

/-- R192: store a poison marker. -/
def State.storePoison (s : State) (l : Loc) (a : Nat) : State :=
  let s1 := { s with mem := zeroRange s.mem a 64 }
  s1.setChecks l a (poisonChecks (locCode l))

/-- Store 64 bytes with given check symbols. -/
def State.storeRaw (s : State) (l : Loc) (a : Nat) (data : List Byte) (chk : Word) : State :=
  { s with mem := wrBytes s.mem a data }.setChecks l a chk

/-- Invert the listed bytes of a sector. -/
def invertAt (data : List Byte) (is_ : List Nat) : List Byte := data.mapIdx fun i b => if is_.contains i then ~~~b else b

/-- A full-sector write stores a clean codeword (R193), unless MEM_INJECT is armed for this sector (R208). -/
def State.storeClean (s : State) (l : Loc) (a : Nat) (data : List Byte) : State :=
  let plain := { s with mem := wrBytes s.mem a data, checks := removeKey (a / 64) s.checks }
  match l with
  | .ext n c i =>
    if s.poisoned n c then s.countF (.memChpoison n c) 0 32 1
    else if s.regBit (.memInject n) 63 && s.regF (.memInject n) 56 4 = c && s.regF (.memInject n) 0 26 = i then
      let clean := cleanChecks (locCode l) data
      let s1 := s.clrBit (.memInject n) 63
      match s.regF (.memInject n) 60 3 with
      | 1 => s1.storeRaw l a (invertAt data [0]) clean
      | 2 => s1.storeRaw l a (invertAt data [0, 63]) clean
      | 3 => s1.storeRaw l a (invertAt data [0, 31, 63]) clean
      | 4 => s1.storeRaw l a data (cleanChecks (locCode (.ext n c (Nat.xor i 1))) data)
      | 5 => s1.storePoison l a
      | _ => plain.clrBit (.memInject n) 63
    else (plain.ctr (unitChan n c) 0x1002 1)
  | .bed .. => plain
  | _ => s

/-- R193: a write of less than a sector reads, merges and writes back; over a bad sector it stores a poison marker and
logs. `o` is the first byte's place in the sector. -/
def State.mergeSector (s : State) (l : Loc) (a o : Nat) (bs : List Byte) (tenant : Nat) : State :=
  let disc := match l with
    | .ext n c _ => s.poisoned n c
    | _ => false
  if disc then (match l with
    | .ext n c _ => s.countF (.memChpoison n c) 0 32 1
    | _ => s)
  else
    let d := s.decodeAt l a
    let s1 := s.countOutcome l d.outcome
    if d.outcome.isBad then
      ((s1.storePoison l a).log 0x0031 3 ((nodeDie (locNode l)).getD 8) (locNode l) tenant d.outcome.code
        (locCode l)).countToward l d.outcome
    else
      { s1 with mem := wrBytes s1.mem a (d.data.take o ++ bs ++ d.data.drop (o + bs.length)),
                checks := removeKey (a / 64) s1.checks }

/-! ### Accesses of any length -/

/-- How an access ends. -/
inductive Acc where
  | ok
  /-- R18: some byte is not populated. -/
  | refused
  /-- R19, R225, R337: the target is on a lost die. -/
  | lost
  /-- R195: some sector read as bad. -/
  | bad
deriving DecidableEq, Repr

/-- The places of the sectors that a range of `n` bytes touches. -/
def sectorsOf (a n : Nat) : List Nat :=
  if n = 0 then [] else (List.range ((a + n - 1) / 64 - a / 64 + 1)).map fun i => (a / 64 + i) * 64

/-- R18, R19: what decoding says of a whole range: refused if any byte is, else lost if any byte is. Only external
memory and beds hold bytes. -/
def State.rangeAcc (s : State) (a n : Nat) : Acc :=
  let ls := (sectorsOf a n).map s.locate
  if 2 ^ 48 < a + n || (ls.any fun l => match l with
      | .ext .. | .bed .. | .lost _ => false
      | _ => true) then .refused
  else if ls.any fun l => match l with
      | .lost _ => true
      | _ => false then .lost
  else .ok

/-- A read of a range: the state, how it ended, and the bytes of it (zero where a sector was bad). -/
structure MemRead where
  s : State
  acc : Acc
  data : List Byte
deriving DecidableEq, Repr

/-- Read every sector of a range in ascending order. -/
def State.readRaw (s : State) (a n tenant : Nat) : MemRead :=
  let r := (sectorsOf a n).foldl (fun (x : State × Bool × List Byte) q =>
    let y := x.1.readSector q tenant
    (y.1, x.2.1 || y.2.outcome.isBad, x.2.2 ++ (if y.2.outcome.isBad then List.replicate 64 0 else y.2.data)))
    (s, false, [])
  ⟨r.1, if r.2.1 then .bad else .ok, (r.2.2.drop (a % 64)).take n⟩

/-- Read `n` bytes at a device address on behalf of a tenant; a refused read is logged with kind 1 (R18). -/
def State.readMem (s : State) (a n tenant node : Nat) : MemRead :=
  match s.rangeAcc a n with
  | .ok => s.readRaw a n tenant
  | .refused => ⟨s.accessError 1 node tenant a, .refused, []⟩
  | r => ⟨s, r, []⟩

/-- Write bytes over whole and partial sectors in ascending order. `fuel` is the number of sectors. -/
def State.writeRaw (s : State) (a tenant : Nat) (bs : List Byte) : Nat → State
  | 0 => s
  | fuel + 1 =>
    match bs with
    | [] => s
    | _ =>
      let o := a % 64
      let q := a - o
      let piece := bs.take (64 - o)
      let l := s.locate q
      let s1 := if piece.length = 64 then s.storeClean l q piece else s.mergeSector l q o piece tenant
      s1.writeRaw (a + piece.length) tenant (bs.drop (64 - o)) fuel

/-! ### Lost dies on the route (R225) -/

/-- The mesh neighbour of a die through a port (R210). -/
def neighbour (f : Fuses) (d port : Nat) : Option Nat :=
  let at_ (c r : Nat) : Option Nat :=
    let e := if c = 0 then 8 + r else if c = 5 then 10 + r else r * 4 + (c - 1)
    if diePresent f e then some e else none
  let c := dieCol d
  let r := dieRow d
  if port = portEast then (if c < 5 then at_ (c + 1) r else none)
  else if port = portWest then (if 0 < c then at_ (c - 1) r else none)
  else if port = portNorth then (if r = 1 then at_ c 0 else none)
  else if port = portSouth then (if r = 0 then at_ c 1 else none)
  else none

/-- R222: follow the route tables from a die toward a node: the die that answers or discards (the last one before a lost
die or an unreachable entry), and whether the node's die is reached. -/
def State.route (s : State) (node : Nat) : Nat → Nat → Nat × Bool
  | 0, d => (d, false)
  | fuel + 1, d =>
    if nodeDie node = some d then (d, !s.dieLost d)
    else
      match neighbour s.fuses d (s.regF (.fabRt d node) 0 3) with
      | none => (d, false)
      | some e => if s.dieLost e then (d, false) else s.route node fuel e

/-- R225: a posted write that meets a lost die is discarded, counted at the crossbar before it and logged. -/
def State.discard (s : State) (reason from_ target tenant addr : Nat) : State :=
  let d := (s.route target 12 from_).1
  let s1 := ((s.countF (.fabDiscard d) 0 32 1).setBit (.fabStat d) 0).log 0x0042 2 d
    (if d < 8 then 0x40 + d else 0x70 + (d - 8)) tenant reason addr
  if d < 8 then s1.raise (srcTower d 4) else s1

/-- Write bytes at a device address on behalf of a tenant: refused whole if any byte is not populated (R18), discarded
when the target is lost (R19, R225). -/
def State.writeMem (s : State) (a tenant node : Nat) (bs : List Byte) : State × Acc :=
  match s.rangeAcc a bs.length with
  | .ok => (s.writeRaw a tenant bs (bs.length / 64 + 2), .ok)
  | .refused => (s.accessError 1 node tenant a, .refused)
  | r => (s.discard 1 ((nodeDie node).getD 8) (locNode (.ext (match s.locate a with
      | .lost d => d
      | _ => 0) 0 0)) tenant a, r)

end Sys2Proof.Machine
end

