-- ==== Sys2Proof/Machine/Links.lean ====
section
/-! DEFINITION. Messages (R214, R215), package routes (R247) and the transmit side of a span port: credits, the frame
window and frames (R235 to R239). -/

namespace Sys2Proof

/-- A posted write. -/
def Msg.posted (m : Msg) : Bool := m.cls = 1 && m.op = 0

/-- R215: a message that receives exactly one RSP. -/
def Msg.nonPosted (m : Msg) : Bool := (m.cls = 1 && m.op ≠ 0) || m.cls = 2

def Msg.isRsp (m : Msg) : Bool := m.cls = 0

/-- Bytes of the len field (Table 9-3). -/
def lenBytes (n : Nat) : Nat := if n = 0 then 0 else 32 * 2 ^ n

/-- Units of 16 bytes of a message: its header and its payload (a READ has none). -/
def Msg.units (m : Msg) : Nat := 1 + (if m.cls = 2 && m.op = 0 then 0 else lenBytes m.len.toNat / 16)

/-- Table 10-3: the credit pool of a message. -/
def Msg.pool (m : Msg) : Nat := 2 * m.cls.toNat + (if m.d then 1 else 0)

/-- The RSP to a message, from a node of package `own`. -/
def Msg.reply (m : Msg) (own node op status len : Nat) (payload : List (BitVec 8)) : Msg :=
  ⟨m.srcPkg, BitVec.ofNat 6 own, BitVec.ofNat 8 node, BitVec.ofNat 4 op, 0, false, false, m.tenant, m.tag,
    BitVec.ofNat 2 len, BitVec.ofNat 8 status, if len = 1 then m.count else 0x3F, m.srcNode.setWidth 48, payload⟩

end Sys2Proof

namespace Sys2Proof.Machine

/-- R246: the package's own number. -/
def State.pkgId (s : State) : Nat := nf s.straps 0 6

/-! ### Package routes (R247) -/

/-- The port that the crossbar of a die chooses for a message to another package; none where the entry is not valid or
its mask is empty. -/
def State.spanPortFor (s : State) (die : Nat) (m : Msg) : Option Nat :=
  let r : Reg := .spnPrt die m.dstPkg.toNat
  let ports := (List.range 24).filter fun p => s.regBit r p
  if s.regBit r 31 && !ports.isEmpty then ports[(m.srcPkg.toNat + m.srcNode.toNat) % ports.length]? else none

/-! ### Transmitting (R235 to R239) -/

/-- SPN_STAT.state: 2 up, 3 holding. -/
def State.spanState (s : State) (p : Nat) : Nat := s.regF (.spnStat p) 29 3
def State.spanWorks (s : State) (p : Nat) : Bool := s.spanState p = 2 || s.spanState p = 3

/-- Table 10-3: pool sizes in units of 16 bytes. -/
def poolSize (q : Nat) : Nat := if q < 4 then 12288 else if q < 6 then 1024 else 512

/-- R238: credit left in a pool. -/
def Span.credit (x : Span) (q : Nat) : Nat := poolSize q - (num x.sent q + 65536 - num x.freedBy q) % 65536

/-- The first message queued for a pool. -/
def Span.head? (x : Span) (q : Nat) : Option Msg := x.queue.find? fun m => m.pool = q

/-- R238, R239: pools whose first message has credit. -/
def Span.eligible (x : Span) : List Nat :=
  (List.range 8).filter fun q => match x.head? q with
    | some m => decide (m.units ≤ x.credit q)
    | none => false

/-- R220, R239: the pool granted next: a class that has waited through 32 grants first, else RSP, WRB, REQ, CTL. -/
def Span.choose (x : Span) : Option Nat :=
  match x.eligible.filter fun q => 32 ≤ num x.waits (q / 2) with
  | q :: _ => some q
  | [] => x.eligible.head?

/-- Remove the first queued message of a pool. -/
def dropPool (q : Nat) : List Msg → List Msg
  | [] => []
  | m :: ms => if m.pool = q then ms else m :: dropPool q ms

/-- Grant one pool: its message leaves the queue and uses its credit. -/
def Span.grantPool (x : Span) (q : Nat) (m : Msg) : Span :=
  { x with queue := dropPool q x.queue, sent := setNum x.sent q ((num x.sent q + m.units) % 65536),
           waits := (List.range 4).foldl (fun w c =>
             if c = q / 2 then setNum w c 0
             else if x.eligible.any fun e => e / 2 = c then setNum w c (num w c + 1) else w) x.waits }

/-- Messages that a frame takes: a message may start while room is left (R236). -/
def Span.takeMsgs (x : Span) : Nat → Nat → Span × List Msg
  | 0, _ => (x, [])
  | fuel + 1, room =>
    if room = 0 then (x, [])
    else
      match x.choose with
      | none => (x, [])
      | some q =>
        match x.head? q with
        | none => (x, [])
        | some m =>
          let r := (x.grantPool q m).takeMsgs fuel (room - 16 * m.units)
          (r.1, m :: r.2)

/-- Bytes of message stream in a frame: 640 for each active lane (R235). -/
def State.frameRoom (s : State) (p : Nat) : Nat := if s.regBit (.spnStat p) 14 then 2560 else 5120

/-- The frame output: control word and messages (Table 10-1). -/
def Span.output (x : Span) (p seq : Nat) (nack : Bool) (msgs : List Msg) : Output :=
  .frame p seq ((x.rxNext + 65535) % 65536) nack x.pool (num x.freed x.pool) x.remapReq x.narrowReq msgs

/-- Send a new frame with these messages, kept until an ack covers it. -/
def State.sendFrame (s : State) (p : Nat) (nack : Bool) (msgs : List Msg) : State :=
  let x := s.span p
  ((s.setSpan p { x with unacked := x.unacked ++ [⟨x.txSeq, msgs⟩], txSeq := (x.txSeq + 1) % 65536,
                         pool := (x.pool + 1) % 8 }).emit (x.output p x.txSeq nack msgs)).ctr (unitPort p) 0x2001 1

/-- A frame can start: the port is up for transmission and fewer than 64 frames wait for an ack (R237, R243). -/
def State.canSend (s : State) (p : Nat) : Bool :=
  s.spanWorks p && (s.span p).txHold.isNone && decide ((s.span p).unacked.length < 64)

/-- Send queued messages while credit and the window allow. -/
def State.pump (s : State) (p : Nat) : Nat → State
  | 0 => s
  | fuel + 1 =>
    if s.canSend p then
      let r := (s.span p).takeMsgs 400 (s.frameRoom p)
      if r.2.isEmpty then s else ((s.setSpan p r.1).sendFrame p false r.2).pump p fuel
    else s

/-- Send a frame for its control word alone. -/
def State.sendControl (s : State) (p : Nat) (nack : Bool) : State := if s.canSend p then s.sendFrame p nack [] else s

/-- R247, R249: a message for another package leaves through its port, with d set on a dateline port. The flag is false
where no route or no working port takes it. -/
def State.sendOut (s : State) (die : Nat) (m : Msg) : State × Bool :=
  match s.spanPortFor die m with
  | none => (s, false)
  | some p =>
    if s.spanWorks p then
      let x := s.span p
      ((s.setSpan p { x with queue := x.queue ++ [{ m with d := m.d || s.regBit (.spnCtl p) 30 }] }).pump p 64, true)
    else (s, false)

end Sys2Proof.Machine
end

