-- ==== Sys2Proof/Machine/Segments.lean ====
section
/-! DEFINITION. References (R253), segment checks (R315), and how an operation reads and writes its operands. -/

namespace Sys2Proof.Machine

/-- Rights of Table 13-1. -/
def rRead : Nat := 1
def rWrite : Nat := 2
def rBank : Nat := 4

/-- An operation's operand as rows: `rows` pieces of `len` bytes, `pitch` apart. A plain range is one row. -/
structure Rows where
  rows : Nat
  pitch : Nat
  len : Nat
deriving DecidableEq, Repr

/-- A plain range of n bytes. -/
def plain (n : Nat) : Rows := ⟨1, 0, n⟩

/-- Bytes from the first to the last one of all rows. -/
def Rows.span (r : Rows) : Nat := (r.rows - 1) * r.pitch + r.len

/-- Offset of row i. -/
def Rows.at (r : Rows) (i : Nat) : Nat := i * r.pitch

/-! ### References (Table 11-2) -/

def refSpace (r : Nat) : Nat := r / 2 ^ 61 % 8
def refSegNo (r : Nat) : Nat := r / 2 ^ 52 % 16
def refOff (r : Nat) : Nat := r % 2 ^ 48

/-- How a message to another package carries a reference of its tenant: the segment above a 44-bit offset (log
entry 26). -/
def remoteAddr (ref : Nat) : Nat := refSegNo ref * 2 ^ 44 + refOff ref % 2 ^ 44

/-- The reference that such an address stands for. -/
def refOfRemote (a : Nat) : Nat := 2 ^ 61 + a / 2 ^ 44 % 16 * 2 ^ 52 + a % 2 ^ 44

/-- R253: no reserved bit is set, the space is not reserved, and the segment field is zero outside segments. -/
def refOk (r : Nat) : Bool :=
  refSpace r < 4 && nf r 56 5 = 0 && nf r 48 4 = 0 && (refSpace r = 1 || refSegNo r = 0) && (refSpace r ≠ 0 || r = 0)

/-- Where an operand lies: a device address (with its segment), or an offset in a store of the core. -/
inductive Place where
  | dev (a : Nat) (g : Seg)
  | acc (o : Nat)
  | stage (o : Nat)
deriving DecidableEq, Repr

def accSize : Nat := 2 * 2 ^ 20
def stageSize : Nat := 4 * 2 ^ 20

/-- Device address of a place's byte o. -/
def Place.plus : Place → Nat → Place
  | .dev a g, o => .dev (a + o) g
  | .acc a, o => .acc (a + o)
  | .stage a, o => .stage (a + o)

/-- R315: no byte of `len` bytes from a bed address lies in a retired bank of the core. -/
def State.bankClear (s : State) (k a len : Nat) : Bool :=
  num s.bankRetired k = 0 || len = 0 ||
    (decide (len < 65536) && (List.range ((a % 512 + len + 511) / 512)).all fun i => !s.retired k (bedBank (a + 512 * i)))

/-- R315: the segment check of rows at an offset of a segment. `weights` is the exception of R118. -/
def State.segAllows (s : State) (g : Seg) (off : Nat) (r : Rows) (right : Nat) (weights : Bool) : Bool :=
  decide (off + r.span ≤ g.size) && Nat.land g.rights right = right &&
    (!g.bed || weights || num s.bankRetired g.core = 0 ||
      ((List.range r.rows).all fun i => s.bankClear g.core (g.base + off + r.at i) r.len))

/-- The place of a reference of tenant t, with its extent checked: none fails with SEGMENT (R254, R315). -/
def State.resolve (s : State) (t ref : Nat) (r : Rows) (right : Nat) (weights : Bool := false) : Option Place :=
  match refSpace ref with
  | 1 =>
    match s.seg? t (refSegNo ref) with
    | some g => if s.segAllows g (refOff ref) r right weights then some (.dev (g.base + refOff ref) g) else none
    | none => none
  | 2 => if refOff ref + r.span ≤ accSize then some (.acc (refOff ref)) else none
  | 3 => if refOff ref + r.span ≤ stageSize then some (.stage (refOff ref)) else none
  | _ => none

/-- The segment a reference names is a bed segment of core k. -/
def State.refOwnBed (s : State) (t k ref : Nat) : Bool :=
  refSpace ref = 1 && (match s.seg? t (refSegNo ref) with
    | some g => g.bed && g.core = k
    | none => false)

/-- R254 against R261: a place rule that needs the segment table holds also where no entry exists, for then the extent
check fails with SEGMENT. -/
def State.refSegMissing (s : State) (t ref : Nat) : Bool := refSpace ref = 1 && (s.seg? t (refSegNo ref)).isNone

/-! ### Stores (R58) -/

def storeBase (k : Nat) : Nat := k * 0x600000
def stageBase (k : Nat) : Nat := k * 0x600000 + 0x200000

/-! ### Operand accesses -/

/-- Read n bytes of an operand of core k on behalf of a tenant. -/
def State.opRead (s : State) (k t : Nat) (p : Place) (n : Nat) : MemRead :=
  match p with
  | .dev a g =>
    let r := s.readMem a n t k
    if g.bed && g.core = k then { r with s := r.s.ctr k 0x20 (ceilDiv n 64) } else { r with s := r.s.ctr k 0x22 (ceilDiv n 64) }
  | .acc o => ⟨s, .ok, rdBytes s.stores (storeBase k + o) n⟩
  | .stage o => ⟨s, .ok, rdBytes s.stores (stageBase k + o) n⟩

/-- R118: read weights: bytes of retired banks of the own bed are zero, without an error. Sectors of other banks are read
as usual. -/
def State.weightRead (s : State) (k t : Nat) (p : Place) (n : Nat) : MemRead :=
  match p with
  | .dev a _ =>
    if num s.bankRetired k = 0 then s.opRead k t p n
    else
      let r := (sectorsOf a n).foldl (fun (x : MemRead) q =>
        if x.s.retired k (bedBank (q - bedBase k)) then { x with data := x.data ++ List.replicate 64 0 }
        else
          let y := x.s.readMem q 64 t k
          ⟨y.s, if x.acc = .ok then y.acc else x.acc, x.data ++ (y.data ++ List.replicate 64 0).take 64⟩) ⟨s, .ok, []⟩
      { r with data := (r.data.drop (a % 64)).take n }
  | _ => s.opRead k t p n

/-- Write bytes to an operand of core k. -/
def State.opWrite (s : State) (k t : Nat) (p : Place) (bs : List Byte) : State × Acc :=
  match p with
  | .dev a g =>
    let r := s.writeMem a t k bs
    (r.1.ctr k (if g.bed && g.core = k then 0x21 else 0x22) (ceilDiv bs.length 64), r.2)
  | .acc o => ({ s with stores := wrBytes s.stores (storeBase k + o) bs }, .ok)
  | .stage o => ({ s with stores := wrBytes s.stores (stageBase k + o) bs }, .ok)

/-! ### Operation status codes (Table 11-13) -/
def osOk : Nat := 0
def osMalformed : Nat := 1
def osSegment : Nat := 2
def osUncorrectable : Nat := 3
def osTowerLost : Nat := 4
def osNodeLost : Nat := 5
def osFabricTimeout : Nat := 6
def osBankFault : Nat := 7
def osMergeInput : Nat := 8
def osWaitTimeout : Nat := 9
def osDeadlock : Nat := 0xA
def osCancelled : Nat := 0xB
def osTenantReset : Nat := 0xC
def osRunning : Nat := 0xFF

/-- R18, R19, R195: the status an access gives its operation. -/
def Acc.status : Acc → Nat
  | .ok => osOk
  | .refused => osSegment
  | .lost => osNodeLost
  | .bad => osUncorrectable

/-- The worse of two accesses: the first that is not ok. -/
def Acc.first (a b : Acc) : Acc := if a = .ok then b else a

/-- R195: the destinations of an operation that read bad data hold undefined values: fill n bytes of a place with free
ones (log entry 4). A place that cannot be written stays. -/
def State.fillUndefined (s : State) (k t : Nat) (p : Place) (r : Rows) : State :=
  ((List.range r.rows).foldl (fun s i =>
    (s.opWrite k t (p.plus (r.at i)) ((List.range r.len).map fun j => Config.undefinedByte s.freeCtr (i * r.len + j))).1)
    s).bumpFree

end Sys2Proof.Machine
end

