-- ==== Sys2Proof/Machine/Lists.lean ====
section
/-! DEFINITION. Work lists (R251 to R280): issue and its checks, completion and records, the synchronisation operations,
failure, preemption and resume. -/

namespace Sys2Proof.Machine

/-! ### Operation words (Tables 11-3 and 11-4) -/

/-- A field of an operation's bytes. -/
def Op.f (o : Op) (off n : Nat) : Nat := fieldAt o.bytes off n

def Op.opcode (o : Op) : Nat := o.f 0 1
def Op.core (o : Op) : Nat := o.f 3 1
def Op.recordIx (o : Op) : Nat := o.f 4 2
def Op.flag (o : Op) (bit : Nat) : Bool := nbit (o.f 2 1) bit
def Op.nondet (o : Op) : Bool := o.flag 0
def Op.resumable (o : Op) : Bool := o.flag 1
def Op.fenceBefore (o : Op) : Bool := o.flag 2
def Op.wantsRecord (o : Op) : Bool := o.flag 3
def Op.notifies (o : Op) : Bool := o.flag 4

/-- Table 11-4: the length of each opcode in units; 0 marks a reserved opcode. -/
def opUnits (c : Nat) : Nat :=
  match c with
  | 0x01 => 3
  | 0x02 => 4
  | 0x03 | 0x04 | 0x05 | 0x06 | 0x07 | 0x08 | 0x09 | 0x14 => 2
  | 0x0A | 0x10 | 0x11 | 0x12 | 0x13 | 0x15 | 0x1F => 1
  | _ => 0

/-- Table 11-4: opcodes whose core field names a core of the home tower. -/
def opHasCore (c : Nat) : Bool := (1 ≤ c && c ≤ 9) || c = 0x13 || c = 0x14

/-- Bytes that the operations' tables mark reserved or do not list (R255), as offset and length. -/
def opReserved (c : Nat) : List (Nat × Nat) :=
  match c with
  | 0x01 => [(0x47, 1), (0x50, 16)]
  | 0x02 => [(0x22, 2), (0x2C, 20), (0x79, 3)]
  | 0x03 => [(0x38, 8)]
  | 0x04 => [(0x2C, 20)]
  | 0x05 => [(0x26, 2), (0x28, 24)]
  | 0x06 => [(0x10, 32), (0x35, 11)]
  | 0x07 => [(0x1F, 1), (0x24, 4), (0x28, 24)]
  | 0x08 => [(0x22, 30)]
  | 0x09 => [(0x30, 16)]
  | 0x0A => [(0x10, 16)]
  | 0x10 | 0x1F => [(0x08, 24)]
  | 0x11 => [(0x1A, 6)]
  | 0x12 => [(0x1C, 4)]
  | 0x13 => [(0x18, 8)]
  | 0x14 => [(0x24, 4), (0x30, 16)]
  | 0x15 => [(0x10, 16)]
  | _ => []

/-- Offset of the first nonzero byte of the reserved ranges. -/
def firstReserved (bs : List Byte) (l : List (Nat × Nat)) : Option Nat :=
  (l.flatMap fun r => (List.range r.2).map fun i => r.1 + i).find? fun i => fieldAt bs i 1 ≠ 0

/-- R261, first two checks: opcode and units, then reserved bits of word 0 and reserved bytes. The offset of the failing
field (log entry 18). -/
def wordCheck (bs : List Byte) : Option Nat :=
  let c := fieldAt bs 0 1
  let w := fieldAt bs 0 8
  if opUnits c = 0 then some 0
  else if nf w 8 4 ≠ opUnits c then some 1
  else if nf w 12 4 ≠ 0 then some 1
  else if nf w 21 3 ≠ 0 then some 2
  else if nf w 48 16 ≠ 0 then some 6
  else firstReserved bs (opReserved c)

/-- A failure at issue: status and detail. -/
abbrev OpErr := Option (Nat × Nat)

def malformed (d : Nat) : OpErr := some (osMalformed, d)
def segErr (d : Nat) : OpErr := some (osSegment, d)

/-- The first of two failures. -/
def orErr (a b : OpErr) : OpErr :=
  match a with
  | some x => some x
  | none => b

/-- A failure where a condition does not hold. -/
def need (c : Bool) (e : OpErr) : OpErr := if c then none else e

/-- R261: the core field. -/
def State.coreCheck (s : State) (l : WorkList) (o : Op) : OpErr :=
  if opHasCore o.opcode then need (o.core / 8 = l.home && s.coreEnabled o.core) (malformed 3)
  else need (o.core = 0xFF) (malformed 3)

/-- R275, R278: the record's place and the image slot of the core are extents that R254 checks. -/
def State.listExtents (s : State) (l : WorkList) (o : Op) : OpErr :=
  orErr (if !o.wantsRecord then none
    else if l.records = 0 then malformed 4
    else if refOff l.records % 64 ≠ 0 then malformed 4
    else need (s.resolve l.tenant (l.records + o.recordIx * 0x180) (plain 0x180) rWrite).isSome (segErr 4))
  (if opHasCore o.opcode then
    need (s.resolve l.tenant (l.resume + 0x10000 + o.core % 8 * 0x600000) (plain 0x600000) (rRead + rWrite)).isSome (segErr 3)
   else none)

/-! ### Running lists -/

/-- A sequencer or engine is stopped for a tenant (R411), or all of them for a core sample (R426). -/
def State.nodeStopped (s : State) (node tenant : Nat) : Bool :=
  s.sampling || s.quiesced.any fun q => q.1 = node && (match q.2 with
    | none => true
    | some t => t = tenant)

/-- The tower can work: not lost and not held by its undervoltage monitor (R40). -/
def State.towerRuns (s : State) (t : Nat) : Bool := !s.dieLost t && (s.dom t).uvSince.isNone

/-- Operations issued and not complete (R258). -/
def WorkList.inFlight (l : WorkList) : Nat := l.ops.length

/-- R258: an operation behind which issue pauses: FENCE, WAIT, LAUNCH_AT, and END. -/
def Op.pauses (o : Op) : Bool :=
  o.opcode = 0x10 || o.opcode = 0x12 || o.opcode = 0x15 || o.opcode = 0x1F

/-- R258, R262, R411: the sequencer may issue the next operation of the list. -/
def State.canIssue (s : State) (l : WorkList) : Bool :=
  decide (l.state = .running) && l.failed.isNone && l.stopStatus.isNone && !l.endIssued && decide (l.inFlight < 32) &&
    !(l.ops.any Op.pauses) && s.towerRuns l.home && !s.nodeStopped (0x40 + l.home) l.tenant

/-- Device address of a list's unit. -/
def State.listAddr (s : State) (l : WorkList) (units : Nat) : Option Nat :=
  match s.seg? l.tenant (refSegNo l.ref) with
  | some g => some (g.base + refOff l.ref + 32 * units)
  | none => none

/-- R251: the bytes of the next operation: an earlier copy, or what memory holds now. -/
def State.fetchOp (s : State) (l : WorkList) (early : Option (List Byte)) : MemRead :=
  match early with
  | some bs => ⟨s, .ok, bs⟩
  | none =>
    match s.listAddr l l.next with
    | none => ⟨s, .refused, []⟩
    | some a =>
      let r := s.readMem a 32 l.tenant (0x40 + l.home)
      let n := opUnits (fieldAt r.data 0 1)
      if n ≤ 1 || l.units < l.next + n then r
      else
        let q := r.s.readMem (a + 32) (32 * (n - 1)) l.tenant (0x40 + l.home)
        ⟨q.s, r.acc.first q.acc, r.data ++ q.data⟩

/-- The 16 counters of a core. -/
def State.counters (s : State) (k : Nat) : List Nat := (List.range 16).map fun i => s.regF (.ctrVal k i) 0 48

/-- Mark an operation started: the tick, and its counters latched (R275). -/
def State.startOp (s : State) (id off : Nat) : State :=
  match s.op? id off with
  | some o =>
    if o.stage = .queued then
      let cs := if opHasCore o.opcode then s.counters o.core else []
      s.setOp id { o with stage := .started, start := if o.resumes = 0 then s.tb.count else o.start,
                          ctrStart := if o.resumes = 0 then cs else o.ctrStart,
                          ctrBase := if o.resumes = 0 then cs else o.ctrBase }
    else s
  | none => s

/-- R262: the earliest failed operation in list order. -/
def WorkList.fail (l : WorkList) (off status : Nat) : WorkList :=
  match l.failed with
  | some (o, st) => if off < o then { l with failed := some (off, status) } else { l with failed := some (o, st) }
  | none => { l with failed := some (off, status) }

/-- An operation ends its work with a status; a failure stops the list's issue (R262). -/
def State.finishOp (s : State) (id off status detail : Nat) : State :=
  match s.list? id with
  | none => s
  | some l =>
    match l.op? off with
    | none => s
    | some o =>
      if o.stage = .finished then s
      else
        let l1 := l.setOp { o with stage := .finished, status := status, detail := detail }
        s.setList (if status = osOk || l.stopStatus.isSome then l1 else l1.fail off status)

/-- Add steps to an operation (R35, R275). -/
def State.addSteps (s : State) (id off steps aux : Nat) : State :=
  match s.op? id off with
  | some o => s.setOp id { o with steps := o.steps + steps, auxSteps := o.auxSteps + aux }
  | none => s

/-- Address of the record of an operation. -/
def State.recordPlace (s : State) (l : WorkList) (o : Op) : Option Place :=
  s.resolve l.tenant (l.records + o.recordIx * 0x180) (plain 0x180) rWrite

/-- Write bytes of a record, if its place still exists. -/
def State.writeRecord (s : State) (l : WorkList) (o : Op) (bs : List Byte) : State :=
  match s.recordPlace l o with
  | some p => (s.opWrite o.core l.tenant p bs).1
  | none => s

/-- R255, R258, R261, R275: issue an operation: its checks in order, status RUNNING into its record, then `run` places it
in its unit. `rules` gives the opcode's own field rules and extents. -/
def State.issueOp (s : State) (id : Nat) (early : Option (List Byte)) (opc : Nat)
    (rules : State → WorkList → Op → OpErr) (run : State → WorkList → Op → State) : State :=
  match s.list? id with
  | none => s
  | some l =>
    if !s.canIssue l then s
    else
      let r := s.fetchOp l early
      let code := fieldAt r.data 0 1
      if r.acc = .ok && !(code = opc || opUnits code = 0) then s
      else
        let o : Op := { offset := l.next, bytes := r.data, issuedAt := s.now, lastPoll := s.now, order := s.issueOrder }
        if r.acc = .ok && o.fenceBefore && !l.ops.isEmpty then s
        else
          let n := max 1 (opUnits code)
          let past := l.units < l.next + n
          let err : OpErr :=
            if r.acc ≠ .ok then some (r.acc.status, 0)
            else if past then malformed 0
            else match wordCheck r.data with
              | some d => malformed d
              | none => orErr (r.s.coreCheck l o) (orErr (rules r.s l o) (r.s.listExtents l o))
          let l1 := { l with next := l.next + n, ops := l.ops ++ [o], endIssued := code = 0x1F }
          let s1 := { r.s with issueOrder := s.issueOrder + 1 }.setList l1
          match err with
          | some e => s1.finishOp id o.offset e.1 e.2
          | none =>
            let s2 := if o.wantsRecord then s1.writeRecord l1 o [0xFF] else s1
            let s3 := if opHasCore code then s2.ctr o.core 0x50 1 else s2
            run s3 l1 o

/-! ### Completion (R259, R262, R273, R275) -/

/-- Table 11-12: the record of an operation, 384 bytes. -/
def State.recordBytes (s : State) (o : Op) : List Byte :=
  let ev := List.zipWith (fun c b => (c + 2 ^ 48 - b) % 2 ^ 48) (s.counters o.core) o.ctrBase
  let ends := List.zipWith (fun a e => (a + e) % 2 ^ 48) o.ctrStart ev
  let ctrs (l : List Nat) : List Byte := ((l.flatMap fun v => leBytes 8 v) ++ List.replicate 128 0).take 128
  leBytes 1 o.status ++ leBytes 1 o.opcode ++
  leBytes 1 (b2n o.nondet + 2 * b2n o.preempted + 4 * b2n o.late) ++ leBytes 1 (min 255 o.resumes) ++
  leBytes 4 o.detail ++ leBytes 4 o.offset ++ leBytes 1 o.core ++ List.replicate 3 0 ++
  leBytes 8 o.steps ++ leBytes 8 o.auxSteps ++ leBytes 8 o.resumeSteps ++ leBytes 8 o.start ++ leBytes 8 s.tb.count ++
  leBytes 8 o.preemptedTicks ++ leBytes 8 o.digest ++ List.replicate 56 0 ++ ctrs o.ctrStart ++ ctrs ends

/-- R302: the SUBMIT completion body. -/
def submitBody (s : State) (l : WorkList) (status off : Nat) : List Byte :=
  leBytes 1 status ++ List.replicate 3 0 ++ leBytes 4 off ++ leBytes 8 l.admitted ++ leBytes 8 s.tb.count

/-- Lists that run on a tower as their home. -/
def State.listsOn (s : State) (t : Nat) : List WorkList :=
  s.lists.filter fun l => l.home = t && (decide (l.state = .running) || decide (l.state = .stopping) || decide (l.state = .resuming))

/-- R354: a list is heavy when its mean power on its home tower is at least half of that tower's p_max. -/
def State.heavy (s : State) (l : WorkList) : Bool := s.regF (.env l.home) 16 16 ≤ 2 * l.meanPower

/-- Key of a tenant's V_FLOOR on a tower. -/
def floorKey (tenant t : Nat) : Nat := tenant * 8 + t

/-- V_CEILING in force on a tower (Table 15-5). -/
def State.ceilingItem (s : State) (t : Nat) : Nat :=
  if num s.vCeiling t = 0 then s.fuses.bin.vmax else num s.vCeiling t

/-- R353: firmware writes the voltage request, the floor and the ceiling of a tower. -/
def State.govern (s : State) (t : Nat) : State :=
  if !s.alive then s
  else
    let ls := s.listsOn t
    let request := if ls.any fun l => s.heavy l then s.fuses.bin.vmax else 750
    let floor := (ls.map fun l => num s.vFloor (floorKey l.tenant t)).foldl max 0
    ((s.setF (.vgov t) 0 10 request).setF (.vgov t) 20 10 floor).setF (.vgov t) 10 10 (s.ceilingItem t)

/-- R302, R303: the list leaves, its SUBMIT completes and then the CANCELs that named it. -/
def State.completeList (s : State) (l : WorkList) : State :=
  let rest := { s with lists := s.lists.filter fun x => x.id ≠ l.id }
  let th := rest.therm l.home
  let s1 := (if (rest.listsOn l.home).isEmpty then rest.setTherm l.home { th with noListSince := s.now } else rest).govern l.home
  match l.stopStatus with
  | some st =>
    if st = osTenantReset then s1
    else
      let s2 := s1.complete l.tenant 0x06 l.tag stCancelled (submitBody s1 l osCancelled 0)
      l.cancelTags.foldl (fun s c => s.complete l.tenant 0x07 c.1 stOk (leBytes 1 0)) s2
  | none =>
    let s2 := match l.failed with
      | some (off, st) => s1.complete l.tenant 0x06 l.tag stListFailed (submitBody s1 l st off)
      | none => s1.complete l.tenant 0x06 l.tag stOk (submitBody s1 l osOk 0)
    l.cancelTags.foldl (fun s c => s.complete l.tenant 0x07 c.1 stOk (leBytes 1 1)) s2

/-- R262, R273: an operation waiting for earlier ones that can never act now (SIGNAL or END after a failure). -/
def Op.inert (o : Op) : Bool := (o.opcode = 0x11 || o.opcode = 0x1F) && o.stage ≠ .finished

/-- R276, R262: an operation that a stopping list drops once it has failed or been stopped: withdrawn or stopped. -/
def Op.dropped (o : Op) : Bool := o.stage = .queued || o.stage = .stopped

/-- A list with nothing in flight that has ended: by END, failure, or a stop. -/
def WorkList.over (l : WorkList) (ended : Bool) : Bool :=
  l.ops.isEmpty && (ended || l.failed.isSome || l.stopStatus.isSome)

/-- R262: drop operations that a failure or a stop has made inert, then complete the list if it is over. -/
def State.settleList (s : State) (id : Nat) (ended : Bool) : State :=
  match s.list? id with
  | none => s
  | some l =>
    if decide (l.state = .waiting) || decide (l.state = .preempted) then s
    else
      let l1 := if l.failed.isSome || l.stopStatus.isSome then
          { l with ops := l.ops.filter fun o => !o.inert && !(decide (l.state = .stopping) && o.dropped) } else l
      if l1.over ended then (s.setList l1).completeList l1
      else s.setList l1

/-- R270: add to a semaphore of this package: the status of the access. -/
def State.atomicMem (s : State) (a tenant node v : Nat) : State × Acc × Nat :=
  let r := s.readMem a 8 tenant node
  if r.acc = .ok then
    let w := r.s.writeMem a tenant node (leBytes 8 ((leNat r.data + v) % 2 ^ 64))
    (w.1, w.2, leNat r.data)
  else (r.s, r.acc, 0)

/-- The work-list event of an operation (R255, R270): the tower's source, and a LIST_EVENT notice. -/
def State.listEvent (s : State) (l : WorkList) (off : Nat) : State :=
  (s.raise (srcTower l.home 5)).notify l.tenant noticeListEvent l.tag off []

/-- A new request of a node, with its tag (R218). -/
def State.request (s : State) (node addr tenant : Nat) (op : Option (Nat × Nat)) : State × Nat :=
  let tag := s.tagCtr % 1024
  ({ s with tagCtr := s.tagCtr + 1, reqs := s.reqs ++ [⟨node, tag, s.now, addr, tenant, false, op⟩] }, tag)

/-- Table 9-3: a 64-byte payload whose valid bytes start at addr[5:0]. -/
def pad64 (addr : Nat) (bs : List Byte) : List Byte := (List.replicate (addr % 64) 0 ++ bs ++ List.replicate 64 0).take 64

/-- A message of this part. -/
def State.mkMsg (s : State) (dst : Nat) (node cls op tenant tag len addr : Nat) (payload : List Byte) : Msg :=
  ⟨BitVec.ofNat 6 dst, BitVec.ofNat 6 (nf s.straps 0 6), BitVec.ofNat 8 node, BitVec.ofNat 4 op, BitVec.ofNat 2 cls,
    false, false, BitVec.ofNat 10 tenant, BitVec.ofNat 10 tag, BitVec.ofNat 2 len, 0,
    BitVec.ofNat 6 (if len = 1 then payload.length - 1 else 0x3F), BitVec.ofNat 48 addr,
    if len = 1 then pad64 addr payload else payload⟩

/-- R270: fire a SIGNAL whose earlier operations have all completed: one ATOMIC_ADD; a remote one waits for its ACK. -/
def State.fireSignal (s : State) (l : WorkList) (o : Op) : State :=
  let s := s.startOp l.id o.offset
  if nbit (o.f 0x18 1) 0 && o.f 0x19 1 ≠ s.pkgId then
    let q := s.request (0x40 + l.home) (refOff (o.f 8 8)) l.tenant (some (l.id, o.offset))
    let r := q.1.sendOut l.home (s.mkMsg (o.f 0x19 1) (0x40 + l.home) 2 1 l.tenant q.2 1 (remoteAddr (o.f 8 8)) (leBytes 8 (o.f 0x10 8)))
    if r.2 then r.1
    else { r.1 with reqs := s.reqs }.finishOp l.id o.offset osNodeLost 0
  else
    match s.resolve l.tenant (o.f 8 8) (plain 8) (rRead + rWrite) with
    | some (.dev a _) =>
      let r := s.atomicMem a l.tenant (0x40 + l.home) (o.f 0x10 8)
      let s1 := r.1.finishOp l.id o.offset r.2.1.status 0
      if r.2.1 = .ok && nbit (o.f 0x18 1) 1 then s1.listEvent l o.offset else s1
    | _ => s.finishOp l.id o.offset osSegment 8

/-- R260: the first operation in flight is the earliest; a FENCE, END or SIGNAL acts when nothing is before it. -/
def State.advance (s : State) (id : Nat) : State :=
  match s.list? id with
  | none => s
  | some l =>
    match l.ops with
    | [] => s
    | o :: _ =>
      if o.stage ≠ .queued || l.state ≠ .running then s
      else if o.opcode = 0x10 then (s.startOp id o.offset).finishOp id o.offset osOk 0
      else if l.failed.isSome || l.stopStatus.isSome then s
      else if o.opcode = 0x11 then s.fireSignal l o
      else if o.opcode = 0x1F then
        (s.startOp id o.offset).finishOp id o.offset (if l.next = l.units then osOk else osMalformed) 0
      else s

/-- OPERATION_COMPLETE (R259, R262, R275, R382): an operation whose work has ended writes its record, counts NONDET, raises
its event, and leaves; what waited for it goes on; the list completes with its last operation. Ops are complete only in
a list that runs or stops. -/
def operationComplete (id off : Nat) (s : State) : State :=
  match s.list? id with
  | none => s
  | some l =>
    match l.op? off with
    | none => s
    | some o =>
      if o.stage ≠ .finished || decide (l.state = .preempted) then s
      else
        let quietStop := l.stopStatus.isSome
        let s1 := if o.wantsRecord && !quietStop then s.writeRecord l o (s.recordBytes o) else s
        let s2 := if o.nondet then s1.countF (.detNondet l.tenant) 0 32 1 else s1
        let s3 := if o.notifies && !quietStop then s2.listEvent l o.offset else s2
        let l1 := { l with ops := l.ops.filter fun x => x.offset ≠ off }
        -- R273: the last unit has been reached without END
        let l2 := if l1.next ≥ l1.units && !l1.endIssued && l1.failed.isNone && l1.ops.isEmpty then l1.fail l1.units osMalformed
          else l1
        (((s3.setList l2).progressed l.tenant).advance id).settleList id (o.opcode = 0x1F)

/-! ### Synchronisation operations (Table 11-11) -/

/-- A semaphore's field rules: an 8-byte-aligned segment reference. -/
def semRules (s : State) (l : WorkList) (ref : Nat) (remote : Bool) : OpErr :=
  orErr (need (refOk ref && refSpace ref = 1 && refOff ref % 8 = 0) (malformed 8))
    (if remote then none
     else need (s.resolve l.tenant ref (plain 8) (rRead + rWrite)).isSome (segErr 8))

/-- FENCE (R260): completes when every earlier operation has. -/
def execFence (list : Nat) (early : Option (List Byte)) (s : State) : Host.Outcome State Fault Refusal :=
  .next (s.issueOp list early 0x10 (fun _ _ _ => none) fun s l _ => s.advance l.id)

/-- SIGNAL (R270). -/
def execSignal (list : Nat) (early : Option (List Byte)) (s : State) : Host.Outcome State Fault Refusal :=
  .next (s.issueOp list early 0x11
    (fun s l o => orErr (need (o.f 0x18 1 < 4) (malformed 0x18))
      (orErr (need (if nbit (o.f 0x18 1) 0 then o.f 0x19 1 < 64 else o.f 0x19 1 = 0) (malformed 0x19))
        (semRules s l (o.f 8 8) (nbit (o.f 0x18 1) 0))))
    fun s l _ => s.advance l.id)

/-- One read of a WAIT's semaphore (R270). -/
def State.pollWait (s : State) (l : WorkList) (o : Op) : State :=
  match s.resolve l.tenant (o.f 8 8) (plain 8) (rRead + rWrite) with
  | some (.dev a _) =>
    let r := s.readMem a 8 l.tenant (0x40 + l.home)
    let s1 := r.s.setOp l.id { o with stage := .started, lastPoll := s.now }
    if r.acc ≠ .ok then s1.finishOp l.id o.offset r.acc.status 0
    else if o.f 0x10 8 ≤ leNat r.data then s1.finishOp l.id o.offset osOk 0
    else s1
  | _ => s.finishOp l.id o.offset osSegment 8

/-- WAIT (R270): reads its semaphore at issue. -/
def execWait (list : Nat) (early : Option (List Byte)) (s : State) : Host.Outcome State Fault Refusal :=
  .next (s.issueOp list early 0x12 (fun s l o => semRules s l (o.f 8 8) false)
    fun s l o => (s.startOp l.id o.offset).pollWait l { o with stage := .started, start := s.tb.count })

/-- The operation of a list with an opcode that has started and not finished. -/
def State.startedOp (s : State) (id opc : Nat) : Option (WorkList × Op) :=
  match s.list? id with
  | none => none
  | some l => (l.ops.find? fun o => o.opcode = opc && o.stage = .started).map fun o => (l, o)

/-- WAIT_POLL (R270): a pending WAIT reads its semaphore again every 64 ticks. -/
def execWaitPoll (list : Nat) (s : State) : Host.Outcome State Fault Refusal :=
  .next (match s.startedOp list 0x12 with
    | some (l, o) => if o.lastPoll + 64 ≤ s.now && s.towerRuns l.home then s.pollWait l o else s
    | none => s)

/-- WAIT_TIMEOUT (R271): the timeout, counted in elapsed ticks, has run out. -/
def execWaitTimeout (list : Nat) (s : State) : Host.Outcome State Fault Refusal :=
  .next (match s.startedOp list 0x12 with
    | some (l, o) =>
      if o.f 0x18 4 ≠ 0 && o.issuedAt + o.f 0x18 4 ≤ s.now then s.finishOp l.id o.offset osWaitTimeout 0 else s
    | none => s)

/-- LAUNCH_AT (R272): a count already passed completes at once and sets late; one just reached completes without it (log
entry 19). -/
def execLaunchAt (list : Nat) (early : Option (List Byte)) (s : State) : Host.Outcome State Fault Refusal :=
  .next (s.issueOp list early 0x15 (fun _ _ _ => none)
    fun s l o =>
      let s1 := s.startOp l.id o.offset
      if o.f 8 8 < s.tb.count then
        (match s1.op? l.id o.offset with
         | some q => (s1.setOp l.id { q with late := true }).finishOp l.id o.offset osOk 0
         | none => s1)
      else if o.f 8 8 = s.tb.count then s1.finishOp l.id o.offset osOk 0
      else s1)

/-- LAUNCH_AT_RELEASE (R272, R380): the timebase has reached the count. -/
def execLaunchAtRelease (list : Nat) (s : State) : Host.Outcome State Fault Refusal :=
  .next (match s.startedOp list 0x15 with
    | some (l, o) => if o.f 8 8 ≤ s.tb.count then s.finishOp l.id o.offset osOk 0 else s
    | none => s)

/-- END (R273). -/
def execEndOp (list : Nat) (early : Option (List Byte)) (s : State) : Host.Outcome State Fault Refusal :=
  .next (s.issueOp list early 0x1F (fun _ _ _ => none) fun s l _ => s.advance l.id)

/-- BANK_FENCE (R270, R139): every named core is enabled and the tenant holds bank-compute rights on a segment of its
bed; a lost core answers NODE_LOST. Writes to bed windows are accepted as they are made (log entry 20), so the fences
return at once. -/
def execBankFence (list : Nat) (early : Option (List Byte)) (s : State) : Host.Outcome State Fault Refusal :=
  .next (s.issueOp list early 0x0A
    (fun s l o =>
      let named := (List.range 64).filter fun k => nbit (o.f 8 8) k
      orErr (need (named.all fun k => num s.coreState k = 0 || num s.coreState k = 3) (malformed 8))
        (need (named.all fun k => num s.coreState k = 3 || (List.range 16).any fun i =>
          match s.seg? l.tenant i with
          | some g => g.bed && g.core = k && Nat.land g.rights rBank = rBank
          | none => false) (segErr 8)))
    fun s l o =>
      let s1 := s.startOp l.id o.offset
      let lost := (List.range 64).any fun k => nbit (o.f 8 8) k && num s.coreState k = 3
      s1.finishOp l.id o.offset (if lost then osNodeLost else osOk) 0)

/-! ### Preemption and resume (R276 to R279) -/

/-- R277: a list can be preempted: it runs, nothing in it has failed and no stop is under way. -/
def WorkList.preemptible (l : WorkList) : Bool :=
  decide (l.state = .running) && l.failed.isNone && l.stopStatus.isNone

/-- R277: operations that are re-evaluated on resume: FENCE, SIGNAL, WAIT, LAUNCH_AT and END not yet finished. -/
def Op.withdrawn (o : Op) : Op :=
  if o.stage ≠ .finished && (o.opcode = 0x10 || o.opcode = 0x11 || o.opcode = 0x12 || o.opcode = 0x15 || o.opcode = 0x1F)
  then { o with stage := .queued } else o

/-- Take the jobs of a list's queued operations out of the core queues. -/
def State.dropQueued (s : State) (l : WorkList) : State :=
  let isQ (q : Nat) : Bool := l.ops.any fun o => o.offset = q && o.stage = .queued
  { s with cores := s.cores.map fun x =>
      (x.1, { x.2 with arrayQ := x.2.arrayQ.filter fun e => !(e.1 = l.id && isQ e.2),
                       chainQ := x.2.chainQ.filter fun j => !(j.list = l.id && isQ j.op) }) }

/-- R276, R277 steps 1 and 2: the list issues nothing more; operations not started are withdrawn. -/
def State.preempt (s : State) (id : Nat) : State :=
  match s.list? id with
  | none => s
  | some l => if l.preemptible then (s.dropQueued l).setList { l with state := .stopping, ops := l.ops.map Op.withdrawn } else s

/-- PREEMPTION_REQUEST. -/
def execPreemptionRequest (list : Nat) (s : State) : Host.Outcome State Fault Refusal := .next (s.preempt list)

/-- Take an operation's jobs and weight sets out of the core units. -/
def State.dropOp (s : State) (id off : Nat) : State :=
  { s with cores := s.cores.map fun (x : Nat × CoreUnit) =>
      (x.1, { x.2 with arrayQ := x.2.arrayQ.filter fun e => !(e = (id, off)),
                       shadow := x.2.shadow.filter fun w => !(w.2.list = id && w.2.op = off),
                       active := x.2.active.filter fun w => !(w.2.list = id && w.2.op = off),
                       chainQ := x.2.chainQ.filter fun j => !(j.list = id && j.op = off) }) }

/-- An operation is between tiles (R66, R178, Table 11-4): its chain jobs are at a row end, a fused MATMUL has none, and no
bank command of it is unfinished. -/
def State.atBoundary (s : State) (id off : Nat) : Bool :=
  (s.cores.all fun c => c.2.chainQ.all fun j => !(j.list = id && j.op = off) || (!j.fused && j.beat = 0)) &&
  (match s.op? id off with
   | some o => o.members.all fun m => m.held.isEmpty
   | none => true)

/-- TILE_BOUNDARY_STOP (R276): a started resumable operation of a stopping list stops at its tile boundary. Its unit holds
nothing of it between steps, so its pipelines are drained. -/
def tileBoundaryStop (id off : Nat) (s : State) : State :=
  match s.list? id with
  | none => s
  | some l =>
    match l.op? off with
    | none => s
    | some o =>
      if decide (l.state = .stopping) && o.stage = .started && o.resumable && s.atBoundary id off then
        let s1 := s.setOp id { o with stage := .stopped, stoppedAt := s.now, preempted := true }
        (s1.dropOp id off).settleList id false
      else s

/-- Table 11-15: an operation entry of 512 bytes. -/
def State.opEntry (s : State) (o : Op) : List Byte :=
  let ev := if o.stage = .stopped then List.zipWith (fun c b => (c + 2 ^ 48 - b) % 2 ^ 48) (s.counters o.core) o.ctrBase else []
  let ctrs (l : List Nat) : List Byte := ((l.flatMap fun v => leBytes 8 v) ++ List.replicate 128 0).take 128
  leBytes 4 o.offset ++ leBytes 1 o.opcode ++ leBytes 1 (if o.stage = .stopped then 1 else 0) ++ List.replicate 2 0 ++
  leBytes 8 o.tile ++ leBytes 8 o.sub ++ leBytes 8 o.steps ++ leBytes 8 o.digest ++ leBytes 8 (s.tb.count - o.start) ++
  leBytes 8 o.auxSteps ++ leBytes 8 o.resumeSteps ++ ctrs o.ctrStart ++ ctrs ev ++
  (o.fold ++ List.replicate 64 0).take 64 ++ List.replicate 128 0

/-- Table 11-15: the counter state of a core, 256 bytes. -/
def State.qsImage (s : State) (k : Nat) : List Byte :=
  ((List.range 9).flatMap fun n =>
    leBytes 4 (s.reg (.qsctl k n)).toNat ++ leBytes 4 (s.reg (.qswin k n)).toNat ++ leBytes 4 (s.reg (.qselem k n)).toNat ++
    leBytes 4 (s.reg (.qstot k n)).toNat) ++ leBytes 4 (s.reg (.qsstat k)).toNat ++ List.replicate 108 0

/-- Restore the counter state of a core. -/
def State.setQsImage (s : State) (k : Nat) (bs : List Byte) : State :=
  ((List.range 9).foldl (fun s n =>
    (((s.setReg (.qsctl k n) (BitVec.ofNat 64 (fieldAt bs (16 * n) 4))).setReg (.qswin k n)
      (BitVec.ofNat 64 (fieldAt bs (16 * n + 4) 4))).setReg (.qselem k n) (BitVec.ofNat 64 (fieldAt bs (16 * n + 8) 4))).setReg
      (.qstot k n) (BitVec.ofNat 64 (fieldAt bs (16 * n + 12) 4))) s).setReg (.qsstat k) (BitVec.ofNat 64 (fieldAt bs 0x90 4))

/-- The tower-local cores with a stopped operation of a list. -/
def WorkList.imageCores (l : WorkList) : List Nat :=
  (List.range 8).filter fun c => l.ops.any fun o => o.stage = .stopped && o.core = l.home * 8 + c

/-- Write bytes at an offset of the resume area. -/
def State.writeResume (s : State) (l : WorkList) (off : Nat) (bs : List Byte) : State :=
  match s.resolve l.tenant (l.resume + off) (plain bs.length) (rRead + rWrite) with
  | some p => (s.opWrite (0x40 + l.home) l.tenant p bs).1
  | none => s

/-- Write the listed bytes of an image from `base` upward. -/
def imageInto (base : Nat) (img m : Memory) : Memory := img.foldl (fun m b => wrB m (base + b.1) b.2) m

/-- Bytes of a store image (R58): the accumulator and the staging store of a core. -/
def imageBytes : Nat := 0x600000

/-- Act on a place in device memory, and on no other. -/
def State.onDev (s : State) (p : Option Place) (f : Nat → State) : State :=
  match p with
  | some (.dev a _) => f a
  | _ => s

/-- R278: write the store image of core c of the list's tower into the resume area, with clean codewords. -/
def State.saveImage (s : State) (l : WorkList) (c : Nat) : State :=
  s.onDev (s.resolve l.tenant (l.resume + 0x10000 + c * imageBytes) (plain imageBytes) (rRead + rWrite)) fun a =>
    { s with
      mem := imageInto a (sliceRange s.stores (storeBase (l.home * 8 + c)) imageBytes) (zeroRange s.mem a imageBytes),
      checks := s.checks.filter fun x => !(decide (a / 64 ≤ x.1) && decide (x.1 < (a + imageBytes) / 64)) }

/-- R279: restore it. -/
def State.loadImage (s : State) (l : WorkList) (c : Nat) : State :=
  s.onDev (s.resolve l.tenant (l.resume + 0x10000 + c * imageBytes) (plain imageBytes) (rRead + rWrite)) fun a =>
    { s with
      stores := imageInto (storeBase (l.home * 8 + c)) (sliceRange s.mem a imageBytes)
        (zeroRange s.stores (storeBase (l.home * 8 + c)) imageBytes) }

/-- Every operation of a stopping list has stopped, is withdrawn, or has completed. -/
def WorkList.stopped (l : WorkList) : Bool := l.ops.all fun o => o.stage = .stopped || o.stage = .queued

/-- RESUME_RECORD_WRITE (R278): images and counter state, then entries, then the header with valid last. -/
def resumeRecordWrite (id : Nat) (s : State) : State :=
  match s.list? id with
  | none => s
  | some l =>
    if decide (l.state = .stopping) && l.stopped && l.failed.isNone && l.stopStatus.isNone then
      let cs := l.imageCores
      let s1 := cs.foldl (fun s c => (s.saveImage l c).writeResume l (0x4040 + c * 0x100) (s.qsImage (l.home * 8 + c))) s
      let s2 := (List.zip (List.range 32) l.ops).foldl (fun s e => s.writeResume l (0x40 + e.1 * 0x200) (s.opEntry e.2)) s1
      let mask := (cs.map fun c => 2 ^ c).sum
      let header := leBytes 4 0x4D534552 ++ [1] ++ leBytes 1 l.ops.length ++ leBytes 1 mask ++ [0] ++ leBytes 4 l.next ++
        List.replicate 4 0 ++ leBytes 8 s.tb.count ++ List.replicate 40 0
      let s3 := ((s2.writeResume l 0 header).setList { l with state := .preempted, waitingSince := s.now }).govern l.home
      if (s3.listsOn l.home).isEmpty then s3.setTherm l.home { s3.therm l.home with noListSince := s.now } else s3
    else s

def execResumeRecordWrite (list : Nat) (s : State) : Host.Outcome State Fault Refusal := .next (resumeRecordWrite list s)

/-- R278: take the progress of entry i back into its operation. The steps that refill its pipelines are a free value (R279
gives them no number; log entry 39). -/
def Op.restored (o : Op) (s : State) (i : Nat) (bs : List Byte) : Op :=
  if o.stage = .stopped then
    let ev := (List.range 16).map fun i => fieldAt bs (0xC0 + 8 * i) 8
    { o with stage := .queued, resumes := o.resumes + 1, tile := fieldAt bs 8 8, sub := fieldAt bs 0x10 8,
             steps := fieldAt bs 0x18 8, digest := fieldAt bs 0x20 8, auxSteps := fieldAt bs 0x30 8,
             resumeSteps := fieldAt bs 0x38 8 + (Config.freeBits 13 (s.freeCtr + i)).toNat, fold := (bs.drop 0x140).take 64,
             preemptedTicks := o.preemptedTicks + (s.now - o.stoppedAt),
             ctrStart := (List.range 16).map fun i => fieldAt bs (0x40 + 8 * i) 8,
             ctrBase := List.zipWith (fun c e => (c + 2 ^ 48 - e) % 2 ^ 48) (s.counters o.core) ev }
  else o

/-- Read n bytes at an offset of the resume area. -/
def State.readResume (s : State) (l : WorkList) (off n : Nat) : List Byte :=
  match s.resolve l.tenant (l.resume + off) (plain n) rRead with
  | some p => (s.opRead (0x40 + l.home) l.tenant p n).data
  | none => []

/-- R279: restore every image and counter state, and each stopped operation's progress; a lost core fails the list. The
list runs again; what it held issued goes back to its units in list order (`requeue`). -/
def resumeList (id : Nat) (requeue : State → WorkList → Op → State) (s : State) : State :=
  match s.list? id with
  | none => s
  | some l =>
    if l.state ≠ .resuming then s
    else if l.imageCores.any (fun c => !s.coreEnabled (l.home * 8 + c)) || s.dieLost l.home then
      (s.setList ({ l with ops := [] }.fail ((l.ops.map fun (o : Op) => o.offset).foldl min l.next) osTowerLost)).settleList id false
    else
      let s1 := l.imageCores.foldl (fun s c =>
        (s.loadImage l c).setQsImage (l.home * 8 + c) (s.readResume l (0x4040 + c * 0x100) 256)) s
      let ops := (List.zip (List.range l.ops.length) l.ops).map fun e => e.2.restored s e.1 (s.readResume l (0x40 + e.1 * 0x200) 512)
      let l1 := { l with state := .running, ops := ops }
      let s2 := ops.foldl (fun s o => requeue s l1 o) { s1.setList l1 with freeCtr := s1.freeCtr + ops.length }
      (s2.advance id).settleList id false

end Sys2Proof.Machine
end

