-- ==== Sys2Proof/Machine/QStage.lean ====
section
/-! DEFINITION. Quantise-stage saturation counters (R111 to R115) and the status registers of array and chain (R71, R92). -/

namespace Sys2Proof.Machine

/-! ### Windows (R111, R112) -/

/-- A counter while a beat is counted: window count, elements, total, and how often its threshold was passed. -/
structure QCount where
  win : Nat
  elems : Nat
  tot : Nat
  crossed : Nat
deriving DecidableEq, Repr

/-- Start a window where one has ended. -/
def QCount.fresh (q : QCount) (len : Nat) : QCount := if len ≤ q.elems then { q with win := 0, elems := 0 } else q

/-- R111, R112: one element with its saturations. -/
def QCount.element (q : QCount) (len threshold : Nat) (enabled : Bool) (sats : Nat) : QCount :=
  let p := q.fresh len
  let crossed := enabled && decide (p.win ≤ threshold) && decide (threshold < p.win + sats)
  { win := p.win + sats, elems := p.elems + 1, tot := satAdd 0xFFFFFFFF p.tot sats, crossed := p.crossed + b2n crossed }

/-- Window length of a counter. -/
def State.qsLen (s : State) (k n : Nat) : Nat := 2 ^ s.regF (.qsctl k n) 24 5

/-- R111, R112: count a run of elements of counter n of core k, each with its saturations, in order. -/
def State.qsCount (s : State) (k n : Nat) (elems : List Nat) : State :=
  if elems.isEmpty then s
  else
    let q0 : QCount := ⟨(s.reg (.qswin k n)).toNat, (s.reg (.qselem k n)).toNat, (s.reg (.qstot k n)).toNat, 0⟩
    let q := elems.foldl (fun q e => q.element (s.qsLen k n) (s.regF (.qsctl k n) 0 24) (s.regBit (.qsctl k n) 31) e) q0
    let s1 := ((s.setReg (.qswin k n) (BitVec.ofNat 64 q.win)).setReg (.qselem k n) (BitVec.ofNat 64 q.elems)).setReg (.qstot k n)
      (BitVec.ofNat 64 q.tot)
    let s2 := s1.ctr k 0x60 elems.sum
    (List.range q.crossed).foldl (fun s _ => ((s.setF (.qsstat k) n 1 1).countF (.qsstat k) 16 16 1).raise (srcCore k 2)) s2

/-- QS_WINDOW_END (R111): the window's last element has been counted; the next window starts from zero. -/
def qsWindowEnd (k n : Nat) (s : State) : State :=
  if s.qsLen k n ≤ (s.reg (.qselem k n)).toNat then (s.setReg (.qswin k n) 0).setReg (.qselem k n) 0 else s

def execQsWindowEnd (core : Fin 64) (counter : Fin 9) (s : State) : Host.Outcome State Fault Refusal :=
  .next (qsWindowEnd core.val counter.val s)

/-- R113: a write of CORE_QSCTLn restarts the window; with clear it also zeroes the total. -/
def State.qsctlWrite (s : State) (k n : Nat) (v : DWord) : State :=
  let s1 := ((s.plainWrite (.qsctl k n) v).setReg (.qswin k n) 0).setReg (.qselem k n) 0
  if nbit v.toNat 30 then s1.setReg (.qstot k n) 0 else s1

/-- CORE_QSCTL_WRITE (R113). -/
def execCoreQsctlWrite (core : Fin 64) (counter : Fin 9) (value : Word) (s : State) : Host.Outcome State Fault Refusal :=
  .next (if !s.dieLost (core.val / 8) then s.qsctlWrite core.val counter.val (value.setWidth 64) else s)

/-- CORE_QSCTL_CLEAR (R113): a write with clear set. -/
def execCoreQsctlClear (core : Fin 64) (counter : Fin 9) (value : Word) (s : State) : Host.Outcome State Fault Refusal :=
  .next (if !s.dieLost (core.val / 8) && nbit value.toNat 30 then s.qsctlWrite core.val counter.val (value.setWidth 64) else s)

/-- A write of CORE_QSSTAT (Table 5-9): exc_clear zeroes exceeded, over is W1C. -/
def State.qsstatWrite (s : State) (k : Nat) (v : DWord) : State :=
  let s1 := s.plainWrite (.qsstat k) v
  if nbit v.toNat 15 then s1.setF (.qsstat k) 16 16 0 else s1

/-- EXC_CLEAR. -/
def execExcClear (core : Fin 64) (value : Word) (s : State) : Host.Outcome State Fault Refusal :=
  .next (if !s.dieLost (core.val / 8) && nbit value.toNat 15 then s.qsstatWrite core.val (value.setWidth 64) else s)

/-- R114: firmware clears a core's counters and status. -/
def State.qsClear (s : State) (k : Nat) : State :=
  ((List.range 9).foldl (fun s n => (s.setReg (.qsctl k n) (regReset s.fuses (Reg.qsctl k n).off)).setReg (.qswin k n) 0
    |>.setReg (.qselem k n) 0 |>.setReg (.qstot k n) 0) s).setReg (.qsstat k) 0

/-! ### Array status (R71) -/

/-- Saturations of the array's accumulations: int32 and FP32. -/
structure MxSat where
  ints : Nat := 0
  fps : Nat := 0
deriving DecidableEq, Repr

/-- R55, R56, R71: count saturations; the first status bit set raises the array event. -/
def State.mxSat (s : State) (k : Nat) (m : MxSat) : State :=
  if m.ints = 0 && m.fps = 0 then s
  else
    let quiet := s.regF (.mxstat k) 0 2 = 0
    let s1 := s.countF (.mxsatcnt k) 0 32 (m.ints + m.fps)
    let s2 := if m.ints = 0 then s1 else s1.setBit (.mxstat k) 0
    let s3 := if m.fps = 0 then s2 else s2.setBit (.mxstat k) 1
    if quiet then s3.raise (srcCore k 0) else s3

/-! ### Chain status (R81, R92) -/

/-- What a pass through the chain reports: stages that saturated and stages that made a NaN (masks), FP32 saturations,
writer saturations, and the elements of each QDQ stage. -/
structure ChainFx where
  satMask : Nat := 0
  nanMask : Nat := 0
  sats : Nat := 0
  wrSats : Nat := 0
  qs : List (Nat × List Nat) := []
deriving DecidableEq, Repr

/-- One stage's FP32 results. -/
def ChainFx.stage (x : ChainFx) (n sats made : Nat) : ChainFx :=
  { x with satMask := if sats = 0 then x.satMask else Nat.lor x.satMask (2 ^ n),
           nanMask := if made = 0 then x.nanMask else Nat.lor x.nanMask (2 ^ n), sats := x.sats + sats }

/-- R92: record a pass in the chain's registers; the first bit set after all were clear raises the chain event. -/
def State.chainReport (s : State) (k : Nat) (x : ChainFx) : State :=
  let r := (s.reg (.vcstat k)).toNat
  let quiet := nf r 0 8 = 0 && nf r 16 8 = 0 && !nbit r 24
  let any := x.satMask ≠ 0 || x.nanMask ≠ 0 || 0 < x.wrSats
  let s1 := ((s.setF (.vcstat k) 0 8 (Nat.lor (nf r 0 8) x.satMask)).setF (.vcstat k) 16 8 (Nat.lor (nf r 16 8) x.nanMask)).countF
    (.vcsatcnt k) 0 32 (x.sats + x.wrSats)
  let s2 := if x.wrSats = 0 then s1 else s1.setBit (.vcstat k) 24
  let s3 := if quiet && any then s2.raise (srcCore k 1) else s2
  x.qs.foldl (fun s q => s.qsCount k q.1 q.2) s3

end Sys2Proof.Machine
end

