-- ==== Sys2Proof/Machine/Tiles.lean ====
section
/-! DEFINITION. The geometry of a MATMUL (R51, R52, R65, R66, R263; Tables 3-1, 3-5, 11-5), chain bindings (R264) and
element streams (R73, R94, R446). -/

namespace Sys2Proof.Machine

/-! ### MATMUL (Table 11-5) -/

def mmWeights (o : Op) : Nat := o.f 0x08 8
def mmScales (o : Op) : Nat := o.f 0x10 8
def mmActs (o : Op) : Nat := o.f 0x18 8
def mmAcc (o : Op) : Nat := o.f 0x20 8
def mmBinding (o : Op) : Nat := o.f 0x28 8
def mmZp (o : Op) : Nat := o.f 0x30 8
def mmM (o : Op) : Nat := o.f 0x38 4
def mmK (o : Op) : Nat := o.f 0x3C 4
def mmN (o : Op) : Nat := o.f 0x40 4
def mmQuadMode (o : Op) : Bool := nbit (o.f 0x44 1) 0
def mmQuad (o : Op) : Nat := nf (o.f 0x44 1) 1 2
/-- 0 W4A8, 1 W8A8, 2 FP8, 3 BF16. -/
def mmFmt (o : Op) : Nat := nf (o.f 0x44 1) 3 3
def mmOpt (o : Op) (b : Nat) : Bool := nbit (o.f 0x45 1) b
/-- Group size G (R57). -/
def mmGroup (o : Op) : Nat := if mmOpt o 2 then 128 else 32

/-- Table 3-1: tile depth and width. -/
def mmKd (o : Op) : Nat := if mmQuadMode o then 128 else 256
def mmNw (o : Op) : Nat :=
  let base := if mmQuadMode o then 128 else 256
  match mmFmt o with
  | 0 => 2 * base
  | 3 => base / 2
  | _ => base

/-- R101: bytes of a tile. -/
def mmTileBytes (o : Op) : Nat := if mmQuadMode o then 16384 else 65536

/-- R102: bytes of a W4 tile's scale block. -/
def mmScaleBytes (o : Op) : Nat := mmKd o / mmGroup o * mmNw o * 2

/-- Bytes of one activation. -/
def mmActSize (o : Op) : Nat := if mmFmt o = 3 then 2 else 1
def mmActRow (o : Op) : Nat := mmK o * mmActSize o
def mmActPitch (o : Op) : Nat := if o.f 0x48 4 = 0 then mmActRow o else o.f 0x48 4
def mmAccPitch (o : Op) : Nat := if o.f 0x4C 4 = 0 then mmN o * 4 else o.f 0x4C 4

def mmKt (o : Op) : Nat := ceilDiv (mmK o) (mmKd o)
def mmNt (o : Op) : Nat := ceilDiv (mmN o) (mmNw o)
/-- R66: rows of a chunk. -/
def mmCap (o : Op) : Nat := if mmFmt o = 3 then 1536 else 3072
def mmChunks (o : Op) : Nat := ceilDiv (mmM o) (mmCap o)
/-- T of Table 3-5. -/
def mmTiles (o : Op) : Nat := mmNt o * mmChunks o * mmKt o

/-- R263: tile i in the order of visits: N block outermost, then chunks, then K tiles. -/
structure Tile where
  n : Nat
  c : Nat
  k : Nat
  row0 : Nat
  rows : Nat
  col0 : Nat
  cols : Nat
  depth : Nat
deriving DecidableEq, Repr

def mmTile (o : Op) (i : Nat) : Tile :=
  let n := i / (mmChunks o * mmKt o)
  let c := i / mmKt o % mmChunks o
  let k := i % mmKt o
  { n := n, c := c, k := k, row0 := c * mmCap o, rows := min (mmCap o) (mmM o - c * mmCap o), col0 := n * mmNw o,
    cols := min (mmNw o) (mmN o - n * mmNw o), depth := min (mmKd o) (mmK o - k * mmKd o) }

/-- Weights of a tile, counted in tiles from the first (R263). -/
def Tile.weightIx (t : Tile) (o : Op) : Nat := t.n * mmKt o + t.k

/-- Tiles i to j−1 that stream over one weight set: consecutive chunks when the reduction has one K tile (R65). -/
def mmGroupEnd (o : Op) (i : Nat) : Nat := if mmKt o = 1 then (i / mmChunks o + 1) * mmChunks o else i + 1

/-- Steps in which a tile's rows enter: two a row in BF16 (R65). -/
def mmRowSteps (o : Op) (rows : Nat) : Nat := if mmFmt o = 3 then 2 * rows else rows

/-- R65, Table 3-5: the step at which the last result of the first j tiles is written: weight sets in order, with the rows
that stream over each. With one K tile a weight set serves all chunks of its N block. -/
def mmStepsTo (o : Op) (j : Nat) : Nat :=
  let sets : List Nat := if mmKt o = 1 then List.replicate (j / mmChunks o) (mmM o)
    else (List.range j).map fun i => (mmTile o i).rows
  let rows := sets.map (mmRowSteps o)
  if sets.isEmpty then 0
  else if mmQuadMode o then
    392 + (rows.dropLast.map fun m => max m 255 + 1).sum + rows.getLastD 0
  else (rows.map fun m => m + 256).sum + 264

/-- R65: steps of the whole operation. -/
def mmSteps (o : Op) : Nat := mmStepsTo o (mmTiles o)

/-- R60: byte range of the output in the accumulator store. -/
def mmAccRange (o : Op) : Nat × Nat := (refOff (mmAcc o), (mmM o - 1) * mmAccPitch o + mmN o * 4)

/-! ### Chain bindings (Table 11-6) -/

/-- A field of a binding in an operation's stored blocks, or in an operation's bytes. -/
structure Binding where
  bytes : List Byte
deriving DecidableEq, Repr

def Binding.f (b : Binding) (o n : Nat) : Nat := fieldAt b.bytes o n
def Binding.desc (b : Binding) : Nat := b.f 0 8
def Binding.vec0 (b : Binding) : Nat := b.f 8 8
def Binding.vec1 (b : Binding) : Nat := b.f 0x10 8
def Binding.rowstate (b : Binding) : Nat := b.f 0x18 8
def Binding.out (b : Binding) : Nat := b.f 0x20 8
def Binding.vec0Len (b : Binding) : Nat := if b.vec0 = 0 then 0 else b.f 0x28 4
def Binding.vec1Len (b : Binding) : Nat := if b.vec1 = 0 then 0 else b.f 0x2C 4
def Binding.rowBase (b : Binding) : Nat := b.f 0x30 4
def Binding.colBase (b : Binding) : Nat := b.f 0x34 4
def Binding.outFmt (b : Binding) : Nat := nf (b.f 0x38 1) 0 4
def Binding.vecSize (b : Binding) (i : Nat) : Nat := if nbit (b.f 0x38 1) (4 + i) then 4 else 2
/-- Bytes between output rows, for rows of n elements. -/
def Binding.outPitch (b : Binding) (n : Nat) : Nat := if b.f 0x3C 4 = 0 then rowBytes b.outFmt n else b.f 0x3C 4

/-- The binding and descriptor that an operation keeps (`Op.aux`). -/
def Op.binding (o : Op) : Binding := ⟨o.aux.take 64⟩
def Op.descBytes (o : Op) : List Byte := (o.aux.drop 64).take 64

/-! ### Elements (R73, R74, R94) -/

/-- Raw elements of packed bytes. -/
def unpackElems (fmt n : Nat) (bs : List Byte) : List Nat :=
  (List.range n).map fun i =>
    if fmt = 0 then fieldAt bs (i / 2) 1 / (if i % 2 = 0 then 1 else 16) % 16
    else fieldAt bs (i * (fmtBits fmt / 8)) (fmtBits fmt / 8)

/-- Packed bytes of raw elements; an odd last INT4 element leaves the high bits zero (R94). -/
def packElems (fmt : Nat) : List Nat → List Byte
  | [] => []
  | x :: xs =>
    if fmt = 0 then
      match xs with
      | [] => leBytes 1 (x % 16)
      | y :: ys => leBytes 1 (x % 16 + 16 * (y % 16)) ++ packElems fmt ys
    else leBytes (fmtBits fmt / 8) x ++ packElems fmt xs

/-- Byte offset of element c of a row. -/
def elemOff (fmt c : Nat) : Nat := c * fmtBits fmt / 8

/-- A run of elements as FP32. -/
structure ElemRead where
  s : State
  acc : Acc
  vals : List Word
deriving DecidableEq, Repr

/-- R73: read n elements from byte o of a place, converted on entry. -/
def State.readElems (s : State) (k t : Nat) (p : Place) (fmt n : Nat) : ElemRead :=
  let r := s.opRead k t p (rowBytes fmt n)
  ⟨r.s, r.acc, (unpackElems fmt n r.data).map (elemTo32 fmt)⟩

/-- R73: a place of a chain stream: the core's stores or own bed. -/
def State.chainPlaceOk (s : State) (t k ref : Nat) : Bool :=
  refOk ref && (refSpace ref = 2 || refSpace ref = 3 || (refSpace ref = 1 && (s.refOwnBed t k ref || s.refSegMissing t ref)))

end Sys2Proof.Machine
end

