-- ==== Sys2Proof/Machine/Trans.lean ====
section
/-! DEFINITION. The transcendental functions of the vector chain (R82, Table 4-5). The published tables are not in the
manual: `Config.transTable` stands for them, and the model takes its value wherever it meets the error bound of Table 4-5
against an approximation computed here to about 75 bits (log entry 3). Special values and limits are exact. -/

namespace Sys2Proof.Machine

/-! ### Fixed-point approximations, 80 fraction bits -/

def fxOne : Nat := 2 ^ 80
/-- ln 2 and log2 e. -/
def fxLn2 : Nat := 837963523372001241319908
def fxLog2e : Nat := 1744111284760651037637904

/-- Σ y^k / k! from the k-th term `t` on. -/
def expTerms (y : Nat) : Nat → Nat → Nat → Nat
  | 0, _, _ => 0
  | fuel + 1, k, t => t + expTerms y fuel (k + 1) (t * y / fxOne / (k + 1))

/-- 2^f for 0 ≤ f < 1 in fixed point. -/
def fxExp2 (f : Nat) : Nat := expTerms (f * fxLn2 / fxOne) 40 0 fxOne

/-- Σ z^(2k+1) / (2k+1) from the k-th term on, `t` = z^(2k+1). -/
def atanhTerms (z2 : Nat) : Nat → Nat → Nat → Nat
  | 0, _, _ => 0
  | fuel + 1, k, t => t / (2 * k + 1) + atanhTerms z2 fuel (k + 1) (t * z2 / fxOne)

/-- log2 of num / den, 1 ≤ num / den < 2, in fixed point. -/
def fxLog2 (num den : Nat) : Nat :=
  let z := (num - den) * fxOne / (num + den)
  2 * atanhTerms (z * z / fxOne) 40 0 z * fxLog2e / fxOne

/-- A fixed-point number times a power of two. -/
def fxVal (n : Nat) (e : Int) : Val := (Val.fin false n fxOne).scale2 e

/-- Floor of a signed fraction in fixed point. -/
def fxFloor (neg : Bool) (num den : Nat) : Int := (sgn neg num * (fxOne : Int)) / (den : Int)

/-- 2^t for t in fixed point. -/
def exp2Fx (t : Int) : Val := fxVal (fxExp2 ((t % (fxOne : Int)).toNat)) (t / (fxOne : Int))

/-- log2 of a positive fraction in fixed point. -/
def log2Fx (num den : Nat) : Int :=
  let e := floorLog2Q num den
  let m := if 0 ≤ e then fxLog2 num (den * 2 ^ e.toNat) else fxLog2 (num * 2 ^ (-e).toNat) den
  e * (fxOne : Int) + (m : Int)

/-- Largest integer whose square is at most n, by bits from `b` down. -/
def isqrtBits (n : Nat) : Nat → Nat → Nat
  | 0, r => r
  | b + 1, r => if (r + 2 ^ b) * (r + 2 ^ b) ≤ n then isqrtBits n b (r + 2 ^ b) else isqrtBits n b r

/-! ### Error bounds -/

/-- Two units in the last place of an FP32 value near a positive fraction. -/
def twoUlp (num den : Nat) : Val := (Val.fin false 2 1).scale2 (max (floorLog2Q num den) (-126) - 23)

/-- Bound on the distance from an approximation. -/
def twoUlpOf : Val → Val
  | .fin _ num den => if num = 0 then .fin false 2 (2 ^ 149) else twoUlp num den
  | _ => .fin false 0 1

/-- 2⁻²² absolute. -/
def abs22 : Val := .fin false 1 (2 ^ 22)

/-- A candidate is finite and within a bound of an approximation. -/
def within (c : Word) (a tol : Val) : Bool :=
  match v32 c with
  | .fin .. => ((v32 c).sub a).abs.le tol
  | _ => false

/-- The table's value where the bound allows it, else the approximation rounded once. -/
def accept (func : Nat) (x : Word) (a tol : Val) : FRes :=
  if within (Config.transTable func x) a tol then ⟨Config.transTable func x, false, false⟩
  else finish32 false a

/-! ### Functions -/

def fSat (neg : Bool) : FRes := ⟨if neg then fNegMax else fMax, true, false⟩
def fExact (x : Word) : FRes := ⟨x, false, false⟩
def fMade : FRes := ⟨canonNan, false, true⟩

def transExp2 (x : Word) : FRes :=
  match v32 x with
  | .nan => ⟨canonNan, false, false⟩
  | .inf s => if s then fExact 0 else fSat false
  | .fin s n d =>
    if n = 0 then fExact fOne
    else
      let t := fxFloor s n d
      if 128 * (fxOne : Int) ≤ t then fSat false
      else if t < -149 * (fxOne : Int) then fExact 0
      else accept 0 x (exp2Fx t) (twoUlpOf (exp2Fx t))

def transLog2 (x : Word) : FRes :=
  match v32 x with
  | .nan => ⟨canonNan, false, false⟩
  | .inf s => if s then fMade else fSat false
  | .fin s n d =>
    if n = 0 then fSat true
    else if s then fMade
    else
      let a := Val.ofFrac (log2Fx n d) fxOne
      let near := d ≤ 2 * n && n ≤ 2 * d
      accept 1 x a (if near && (twoUlpOf a).lt abs22 then abs22 else twoUlpOf a)

def transRecip (x : Word) : FRes :=
  match v32 x with
  | .nan => ⟨canonNan, false, false⟩
  | .inf s => fExact (if s then 0x80000000 else 0)
  | .fin s n d =>
    if n = 0 then fSat s
    else
      let a := Val.fin s d n
      let r := finish32 false a
      if r.sat then r else accept 2 x a (twoUlp d n)

def transRsqrt (x : Word) : FRes :=
  match v32 x with
  | .nan => ⟨canonNan, false, false⟩
  | .inf s => if s then fMade else fExact 0
  | .fin s n d =>
    if n = 0 then fSat false
    else if s then fMade
    else
      let a := Val.fin false (isqrtBits (d * 2 ^ 400 / n) 280 0) (2 ^ 200)
      accept 3 x a (twoUlpOf a)

/-- 1 / (1 + 2^t). -/
def logistic (t : Int) : Val := (Val.fin false 1 1).div ((Val.fin false 1 1).add (exp2Fx t))

def transSigmoid (x : Word) : FRes :=
  match v32 x with
  | .nan => ⟨canonNan, false, false⟩
  | .inf s => fExact (if s then 0 else fOne)
  | .fin s n d =>
    if s && 104 * d < n then fExact 0
    else if !s && 17 * d < n then fExact fOne
    else accept 4 x (logistic (fxFloor (!s) (n * fxLog2e) (d * fxOne))) abs22

def transTanh (x : Word) : FRes :=
  match v32 x with
  | .nan => ⟨canonNan, false, false⟩
  | .inf s => fExact (if s then 0xBF800000 else fOne)
  | .fin s n d =>
    if 91 * d < 10 * n then fExact (if s then 0xBF800000 else fOne)
    else if n = 0 then accept 5 x (.fin s 0 1) abs22
    else
      let q := exp2Fx (fxFloor true (2 * n * fxLog2e) (d * fxOne))
      let a := ((Val.fin false 1 1).sub q).div ((Val.fin false 1 1).add q)
      accept 5 x (if s then a.negate else a) abs22

/-- R79, kind 0x2: a TRANS stage's function. -/
def trans (func : Nat) (x : Word) : FRes :=
  match func with
  | 0 => transExp2 x
  | 1 => transLog2 x
  | 2 => transRecip x
  | 3 => transRsqrt x
  | 4 => transSigmoid x
  | _ => transTanh x

/-- R84: exp2 of a difference, as a TRANS stage evaluates it. -/
def exp2Diff (a b : Word) : Word := (transExp2 (fsub a b).bits).bits

end Sys2Proof.Machine
end

