-- ==== Sys2Proof/Machine/Chain.lean ====
section
/-! DEFINITION. The vector chain: descriptors and their checks (R77 to R80), stages (R81 to R89), beats and jobs (R72 to R76,
R90), VCHAIN and VCHAIN_BEAT. -/

namespace Sys2Proof.Machine

/-! ### Descriptors (R77 to R80) -/

/-- Table 4-2: a stage word. -/
structure Stage where
  word : Nat
deriving DecidableEq, Repr

def Stage.kind (x : Stage) : Nat := nf x.word 60 4
def Stage.func (x : Stage) : Nat := nf x.word 56 4
def Stage.srcA (x : Stage) : Nat := nf x.word 52 4
def Stage.srcB (x : Stage) : Nat := nf x.word 48 4
def Stage.flags (x : Stage) : Nat := nf x.word 44 4
def Stage.param (x : Stage) : Nat := nf x.word 32 12
def Stage.const (x : Stage) : Word := BitVec.ofNat 32 x.word
def Stage.carry (x : Stage) : Bool := nbit x.flags 0
def Stage.link (x : Stage) : Bool := nbit x.flags 1
def Stage.emits (x : Stage) : Bool := nbit x.flags 2
def Stage.isReduce (x : Stage) : Bool := x.kind = 3
def Stage.isDigest (x : Stage) : Bool := x.kind = 7
/-- QDQ: code format, and the immediate zero point. -/
def Stage.codeFmt (x : Stage) : Nat := nf x.param 0 4
def Stage.imm (x : Stage) : Nat := nf x.param 4 8

/-- The eight stages of a descriptor's 64 bytes. -/
def stagesOf (bs : List Byte) : List Stage := (List.range 8).map fun n => ⟨fieldAt bs (8 * n) 8⟩

/-- What the operation supplies to a descriptor (R80). -/
structure ChainSupply where
  hasB : Bool
  hasState : Bool
  vec0Len : Nat
  vec1Len : Nat
  /-- One past the largest row and column position. -/
  rowEnd : Nat
  colEnd : Nat
deriving DecidableEq, Repr

/-- R80: an operand source is allowed at a stage; `reds` counts the REDUCE stages before it. -/
def ChainSupply.srcOk (x : ChainSupply) (reds src : Nat) : Bool :=
  match src with
  | 0 | 1 | 8 => true
  | 2 => x.colEnd ≤ x.vec0Len
  | 3 => x.rowEnd ≤ x.vec0Len
  | 4 => x.colEnd ≤ x.vec1Len
  | 5 => x.rowEnd ≤ x.vec1Len
  | 6 => x.hasB
  | 7 => 0 < reds
  | _ => false

/-- Table 4-4, R80: one stage at position n, with the functions of the REDUCE stages before it. -/
def ChainSupply.stageOk (x : ChainSupply) (n : Nat) (reds : List Nat) (g : Stage) : Bool :=
  let bare := g.flags = 0 && g.param = 0
  x.srcOk reds.length g.srcA && x.srcOk reds.length g.srcB &&
  match g.kind with
  | 0 => g.word = 0
  | 1 => g.func ≤ 6 && bare
  | 2 => g.func ≤ 5 && bare && g.srcA = 0 && g.srcB = 0 && (n = 1 || n = 4 || n = 6)
  | 3 => g.func ≤ 2 && g.flags < 8 && g.param = 0 && (n = 2 || n = 5) &&
      (!g.link || (g.func = 0 && reds.contains 1)) && ((!g.carry && !g.emits) || x.hasState)
  | 4 => g.func ≤ 6 && bare
  | 5 => g.func ≤ 1 && g.flags = 0 && g.codeFmt ≤ 3 && (g.codeFmt = 1 || (g.srcB = 0 && g.imm = 0))
  | 6 => g.func ≤ 4 && bare
  | 7 => g.func = 0 && bare
  | _ => false

/-- R80: check the stages in order. -/
def ChainSupply.stagesOk (x : ChainSupply) : Nat → List Nat → List Stage → Bool
  | _, _, [] => true
  | n, reds, g :: gs => x.stageOk n reds g && x.stagesOk (n + 1) (if g.isReduce then reds ++ [g.func] else reds) gs

/-- R80: the descriptor may run. -/
def ChainSupply.ok (x : ChainSupply) (gs : List Stage) : Bool :=
  x.stagesOk 0 [] gs && decide ((gs.filter Stage.isDigest).length ≤ 1)

/-! ### Beats (R72) -/

/-- Part of one row in a beat: the row, its first column and its columns. -/
structure Seg1 where
  row : Nat
  col0 : Nat
  n : Nat
deriving DecidableEq, Repr

/-- Column counts for which several rows share a beat. -/
def sharesBeat (c : Nat) : Bool := c = 32 || c = 64 || c = 128 || c = 256

/-- R72: the segments of the beat that starts at a row and, within it, at beat j. -/
def beatSegs (rows cols row j : Nat) : List Seg1 :=
  if sharesBeat cols then (List.range (min (512 / cols) (rows - row))).map fun i => ⟨row + i, 0, cols⟩
  else [⟨row, 512 * j, min 512 (cols - 512 * j)⟩]

/-- Beats of a tensor (R72). -/
def beatCount (rows cols : Nat) : Nat := if sharesBeat cols then ceilDiv rows (512 / cols) else rows * ceilDiv cols 512

/-- Row and beat after a beat. -/
def nextBeat (cols row j : Nat) : Nat × Nat :=
  if sharesBeat cols then (row + 512 / cols, 0) else if 512 * (j + 1) < cols then (row, j + 1) else (row + 1, 0)

/-! ### One segment through the stages (R78 to R89) -/

/-- A lane: its value, its values of streams A and B, whether it is masked, and its column position. -/
structure Lane where
  x : Word
  inA : Word
  b : Word
  masked : Bool
  col : Nat
  vec0 : Word
  vec1 : Word
deriving DecidableEq, Repr

/-- A row's values outside the lanes: vector elements of the row, running results of the two reductions, where they and the
linked maximum started, the linked maximum before this beat, and the count (R83 to R86). -/
structure RowCtx where
  rowPos : Nat
  vec0 : Word
  vec1 : Word
  run0 : Word
  run1 : Word
  mIn : Word
  mPrev : Word
  count : Nat
deriving DecidableEq, Repr

/-- A segment on its way through the stages. -/
structure Pass where
  lanes : List Lane
  row : RowCtx
  reds : Nat := 0
  digest : Nat
  fx : ChainFx := {}
deriving DecidableEq, Repr

/-- Table 4-3: an operand of a lane. -/
def Pass.src (p : Pass) (g : Stage) (src : Nat) (l : Lane) : Word :=
  match src with
  | 0 => l.x
  | 1 => g.const
  | 2 => l.vec0
  | 3 => p.row.vec0
  | 4 => l.vec1
  | 5 => p.row.vec1
  | 6 => l.b
  | 7 => if p.reds ≤ 1 then p.row.run0 else p.row.run1
  | _ => l.inA

/-- 1.0 or 0.0. -/
def fBool (b : Bool) : FRes := fExact (if b then fOne else 0)

/-- ARITH (R79, R81). -/
def arith (func : Nat) (x a b : Word) : FRes :=
  match func with
  | 0 => fadd x a
  | 1 => fsub x a
  | 2 => fsub a x
  | 3 => fmul x a
  | 4 => ffma x a b
  | 5 => fmin x a
  | _ => fmax x a

/-- SELECT 0x0 to 0x4 (R79, R81). -/
def select (func : Nat) (x a b : Word) : FRes :=
  match func with
  | 0 => fBool ((v32 x).lt (v32 a))
  | 1 => fBool ((v32 x).le (v32 a))
  | 2 => fBool ((v32 x).eq (v32 a))
  | 3 => fBool (!(v32 x).eq (v32 a))
  | _ => deliver (if isZero32 x then b else a)

/-- R87: an element is masked by MASK_CAUSAL (0x5) or MASK_LEN (0x6). -/
def maskHit (func rowPos colPos : Nat) (a : Word) : Bool :=
  if func = 5 then decide (rowPos < colPos)
  else match v32 a with
    | .nan => true
    | .inf s => s
    | .fin s n d => decide (sgn s (roundQ n d) ≤ (colPos : Int))

/-- CONVERT (R79): the value rounded to a format, kept in FP32. -/
def convert (func : Nat) (x : Word) : FRes :=
  if isNan32 x then ⟨canonNan, false, false⟩
  else match func with
    | 0 => let r := elemFrom32 4 x; ⟨elemTo32 4 r.1, r.2, false⟩
    | 1 => let r := elemFrom32 5 x; ⟨elemTo32 5 r.1, r.2, false⟩
    | 2 => let r := elemFrom32 2 x; ⟨elemTo32 2 r.1, r.2, false⟩
    | 3 => let r := elemFrom32 3 x; ⟨elemTo32 3 r.1, r.2, false⟩
    | _ =>
      let r := encodeI (-(2 ^ 31)) (2 ^ 31 - 1) 0 (v32 x)
      if r.2 then ⟨if r.1 < 0 then 0xCF000000 else 0x4EFFFFFF, true, false⟩
      else if r.1 = 0 then ⟨if fp32.neg x.toNat then 0x80000000 else 0, false, false⟩
      else ⟨ofInt32 r.1, false, false⟩

/-- R106: the zero point of a QDQ stage. -/
def Pass.zero (p : Pass) (g : Stage) (l : Lane) : Int :=
  if g.codeFmt ≠ 1 then 0
  else if g.srcB = 0 then toSigned 8 g.imm
  else zeroPointOf (p.src g g.srcB l)

/-- Replace every lane's value by a result, recording saturations and made NaNs of stage n. -/
def Pass.mapRes (p : Pass) (n : Nat) (f : Lane → FRes) : Pass :=
  let rs := p.lanes.map f
  { p with lanes := List.zipWith (fun (l : Lane) (r : FRes) => { l with x := r.bits }) p.lanes rs,
           fx := p.fx.stage n (rs.filter FRes.sat).length (rs.filter FRes.made).length }

/-! Reductions (R83, R84). A sum of lanes with its saturations and made NaNs. -/

structure Sum where
  vals : List (Option Word)
  sats : Nat := 0
  made : Nat := 0
deriving DecidableEq, Repr

/-- R83: one level of the pairwise tree; a masked or inactive lane takes no part. -/
def pairUp : List (Option Word) → Sum
  | some x :: some y :: rest =>
    let f := fadd x y
    let r := pairUp rest
    ⟨some f.bits :: r.vals, r.sats + b2n f.sat, r.made + b2n f.made⟩
  | some x :: none :: rest => let r := pairUp rest; { r with vals := some x :: r.vals }
  | none :: y :: rest => let r := pairUp rest; { r with vals := y :: r.vals }
  | [x] => ⟨[x], 0, 0⟩
  | [] => ⟨[], 0, 0⟩

/-- R83: the tree over the lanes. -/
def treeSum : Nat → Sum → Sum
  | 0, x => x
  | fuel + 1, x =>
    match x.vals with
    | _ :: _ :: _ => let r := pairUp x.vals; treeSum fuel { r with sats := x.sats + r.sats, made := x.made + r.made }
    | _ => x

/-- The values that a reduction takes, in lane order. -/
def Pass.unmasked (p : Pass) : List (Option Word) := p.lanes.map fun l => if l.masked then none else some l.x

/-- The running result of the reduction in a slot. -/
def RowCtx.run (r : RowCtx) (slot : Nat) : Word := if slot = 0 then r.run0 else r.run1
def RowCtx.setRun (r : RowCtx) (slot : Nat) (x : Word) : RowCtx := if slot = 0 then { r with run0 := x } else { r with run1 := x }

/-- A sum stage: rescale when the linked maximum has risen (R84), then add the segment's total (R83). -/
def Pass.sumStage (p : Pass) (n slot : Nat) (link : Bool) : Pass :=
  let t := treeSum 10 ⟨p.unmasked, 0, 0⟩
  let total := (t.vals.headD none).getD 0
  let risen := link && (v32 p.row.mPrev).lt (v32 p.row.run0)
  let d := fsub p.row.mPrev p.row.run0
  let e := transExp2 d.bits
  let m := if risen then fmul (p.row.run slot) e.bits else fExact (p.row.run slot)
  let r := fadd m.bits total
  let extra := if risen then b2n d.sat + b2n e.sat + b2n m.sat else 0
  let mades := if risen then b2n d.made + b2n e.made + b2n m.made else 0
  { p with row := p.row.setRun slot r.bits, fx := p.fx.stage n (t.sats + extra + b2n r.sat) (t.made + mades + b2n r.made) }

/-- A max or max-of-|x| stage. -/
def Pass.maxStage (p : Pass) (n slot : Nat) (abs : Bool) : Pass :=
  let r := p.unmasked.foldl (fun (a : Word × Nat) v =>
    match v with
    | some x => let f := fmax a.1 (if abs then fabs x else x); (f.bits, a.2 + b2n f.sat)
    | none => a) (p.row.run slot, 0)
  { p with row := { p.row.setRun slot r.1 with mPrev := if slot = 0 then p.row.run0 else p.row.mPrev }, fx := p.fx.stage n r.2 0 }

/-- REDUCE (R83 to R86): lanes unchanged; the first REDUCE stage counts its unmasked elements. -/
def Pass.reduce (p : Pass) (n : Nat) (g : Stage) : Pass :=
  let slot := p.reds
  let p1 := if slot = 0 then { p with row := { p.row with count := (p.row.count + (p.lanes.filter fun l => !l.masked).length) % 2 ^ 32 } }
    else p
  let p2 := match g.func with
    | 0 => p1.sumStage n slot g.link
    | 1 => p1.maxStage n slot false
    | _ => p1.maxStage n slot true
  { p2 with reds := slot + 1 }

/-- A QDQ quantise stage: its elements go to the stage's counter (R99, R111). -/
def Pass.quantiseStage (p : Pass) (n : Nat) (g : Stage) : Pass :=
  let rs := p.lanes.map fun l => (quantise g.codeFmt l.x (p.src g g.srcA l) (p.zero g l), isNan32 l.x || isNan32 (p.src g g.srcA l))
  let made := (rs.filter fun r => isNan32 r.1.1 && !r.2).length
  { p with lanes := List.zipWith (fun (l : Lane) r => { l with x := r.1.1 }) p.lanes rs,
           fx := { p.fx.stage n 0 made with qs := p.fx.qs ++ [(n, rs.map fun r => b2n r.1.2)] } }

/-- One stage (R79). -/
def Pass.stage (p : Pass) (n : Nat) (g : Stage) : Pass :=
  match g.kind with
  | 1 => p.mapRes n fun l => arith g.func l.x (p.src g g.srcA l) (p.src g g.srcB l)
  | 2 => p.mapRes n fun l => if g.func = 0 && l.masked then fExact 0 else trans g.func l.x
  | 3 => p.reduce n g
  | 4 =>
    if g.func < 5 then p.mapRes n fun l => select g.func l.x (p.src g g.srcA l) (p.src g g.srcB l)
    else
      let hit (l : Lane) : Bool := maskHit g.func p.row.rowPos l.col (p.src g g.srcA l)
      let q := p.mapRes n fun l => if hit l then deliver g.const else fExact l.x
      { q with lanes := List.zipWith (fun (l l0 : Lane) => { l with masked := l.masked || hit l0 }) q.lanes p.lanes }
  | 5 =>
    if g.func = 0 then p.quantiseStage n g
    else p.mapRes n fun l => dequantise l.x (p.src g g.srcA l) (p.zero g l)
  | 6 => p.mapRes n fun l => convert g.func l.x
  | 7 => { p with digest := crc64Feed p.digest (p.lanes.flatMap fun l => leBytes 4 l.x.toNat) }
  | _ => p

/-- All eight stages. -/
def Pass.stages (p : Pass) (gs : List Stage) : Pass := (gs.zipIdx).foldl (fun p g => p.stage g.2 g.1) p

/-- Start of a running result without CARRY (R83). -/
def reduceIdentity (func : Nat) : Word := if func = 1 then fNegMax else 0

/-- The REDUCE stages of a descriptor, in order. -/
def reduces (gs : List Stage) : List Stage := gs.filter Stage.isReduce

/-- R86: running results and count at the first beat of a row, from its row-state entry. -/
def startRow (gs : List Stage) (entry : List Byte) (rowPos : Nat) (vec0 vec1 : Word) : RowCtx :=
  let start (slot : Nat) : Word :=
    match (reduces gs)[slot]? with
    | some g => if g.carry then BitVec.ofNat 32 (fieldAt entry (4 * slot) 4) else reduceIdentity g.func
    | none => 0
  let count := match reduces gs with
    | g :: _ => if g.carry then fieldAt entry 12 4 else 0
    | [] => 0
  { rowPos := rowPos, vec0 := vec0, vec1 := vec1, run0 := start 0, run1 := start 1, mIn := start 0, mPrev := start 0, count := count }

/-- R86: the entry after a row's last beat, none when no stage emits. -/
def endRow (gs : List Stage) (r : RowCtx) (entry : List Byte) : Option (List Byte) :=
  let rs := reduces gs
  if rs.any Stage.emits then
    let slot (i : Nat) (x : Word) : List Byte :=
      if (rs[i]?.map Stage.emits).getD false then leBytes 4 x.toNat else (entry.drop (4 * i)).take 4
    let c := if rs.any Stage.link then exp2Diff r.mIn r.run0 else fOne
    some (slot 0 r.run0 ++ slot 1 r.run1 ++ leBytes 4 c.toNat ++ leBytes 4 r.count)
  else none

/-! ### Jobs on a core's chain (R72 to R76, R90) -/

/-- Where a job reads and writes: places, formats and pitches. -/
structure JobIo where
  binding : Binding
  stages : List Stage
  a : Place
  aFmt : Nat
  aPitch : Nat
  b : Option Place
  bFmt : Nat
  bPitch : Nat
  out : Place
  outPitch : Nat
  rowBase : Nat
  colBase : Nat
  /-- First row of the job in the operation's rows, for row-state entries (R85). -/
  row0 : Nat
  state : Option Nat
deriving DecidableEq, Repr

/-- Stream fields of a VCHAIN (Table 11-7). -/
def vcPitch (o : Op) (off fmtOff : Nat) : Nat :=
  if o.f off 4 = 0 then rowBytes (o.f fmtOff 1) (o.f 0x1C 4) else o.f off 4
def vcRows (o : Op) : Nat := o.f 0x18 4
def vcCols (o : Op) : Nat := o.f 0x1C 4

/-- The row-state table's offset in the accumulator store. -/
def Binding.stateOff (b : Binding) : Option Nat := if b.rowstate = 0 then none else some (refOff b.rowstate)

/-- Places of a VCHAIN; none when a segment has been taken away meanwhile. -/
def State.vchainIo (s : State) (l : WorkList) (o : Op) : Option JobIo :=
  let bd := o.binding
  match s.resolve l.tenant (o.f 8 8) (plain 0) rRead, s.resolve l.tenant bd.out (plain 0) rWrite with
  | some a, some out =>
    some { binding := bd, stages := stagesOf o.descBytes, a := a, aFmt := o.f 0x20 1, aPitch := vcPitch o 0x24 0x20,
           b := if o.f 0x10 8 = 0 then none else s.resolve l.tenant (o.f 0x10 8) (plain 0) rRead, bFmt := o.f 0x21 1,
           bPitch := vcPitch o 0x28 0x21, out := out, outPitch := bd.outPitch (vcCols o), rowBase := bd.rowBase,
           colBase := bd.colBase, row0 := 0, state := bd.stateOff }
  | _, _ => none

/-- Places of a fused MATMUL's tile (R90): stream A is the accumulator; int32 for W8A8, else FP32. -/
def State.fusedIo (s : State) (l : WorkList) (o : Op) (j : ChainJob) : Option JobIo :=
  let bd := o.binding
  match s.resolve l.tenant bd.out (plain 0) rWrite with
  | some out =>
    let pitch := bd.outPitch (mmN o)
    some { binding := bd, stages := stagesOf o.descBytes,
           a := .acc (refOff (mmAcc o) + j.row0 * mmAccPitch o + j.col0 * 4), aFmt := if mmFmt o = 1 then 7 else 6,
           aPitch := mmAccPitch o, b := none, bFmt := 0, bPitch := 0,
           out := out.plus (j.row0 * pitch + elemOff bd.outFmt j.col0), outPitch := pitch, rowBase := bd.rowBase + j.row0,
           colBase := bd.colBase + j.col0, row0 := j.row0, state := bd.stateOff }
  | none => none

/-- An element of a vector (Table 4-3), as FP32; the read's outcome with it. -/
def State.vecElems (s : State) (k t ref size lo n : Nat) : ElemRead :=
  match s.resolve t ref (plain ((lo + n) * size)) rRead with
  | some p => s.readElems k t (p.plus (lo * size)) (if size = 4 then 6 else 5) n
  | none => ⟨s, .refused, []⟩

/-- A stage of the descriptor names a source. -/
def namesSrc (gs : List Stage) (src : Nat) : Bool := gs.any fun g => g.kind ≠ 0 && (g.srcA = src || g.srcB = src)

/-- Elements of a vector where a stage names them, else nothing is read. -/
def State.vecIf (s : State) (k t : Nat) (io : JobIo) (src ref size lo n : Nat) : ElemRead :=
  if namesSrc io.stages src then s.vecElems k t ref size lo n else ⟨s, .ok, []⟩

/-- What one segment reads: streams and vectors. -/
structure SegIn where
  s : State
  acc : Acc
  a : List Word
  b : List Word
  col0 : List Word
  col1 : List Word
  row0 : List Word
  row1 : List Word
deriving DecidableEq, Repr

def State.segRead (s : State) (k t : Nat) (io : JobIo) (g : Seg1) : SegIn :=
  let bd := io.binding
  let ra := s.readElems k t (io.a.plus (g.row * io.aPitch + elemOff io.aFmt g.col0)) io.aFmt g.n
  let rb := match io.b with
    | some p => ra.s.readElems k t (p.plus (g.row * io.bPitch + elemOff io.bFmt g.col0)) io.bFmt g.n
    | none => ⟨ra.s, .ok, []⟩
  let c0 := rb.s.vecIf k t io 2 bd.vec0 (bd.vecSize 0) (io.colBase + g.col0) g.n
  let r0 := c0.s.vecIf k t io 3 bd.vec0 (bd.vecSize 0) (io.rowBase + g.row) 1
  let c1 := r0.s.vecIf k t io 4 bd.vec1 (bd.vecSize 1) (io.colBase + g.col0) g.n
  let r1 := c1.s.vecIf k t io 5 bd.vec1 (bd.vecSize 1) (io.rowBase + g.row) 1
  ⟨r1.s, ra.acc.first (rb.acc.first (c0.acc.first (r0.acc.first (c1.acc.first r1.acc)))), ra.vals, rb.vals, c0.vals, c1.vals,
    r0.vals, r1.vals⟩

/-- The lanes of a segment. -/
def SegIn.lanes (x : SegIn) (io : JobIo) (g : Seg1) : List Lane :=
  (List.range g.n).map fun i =>
    { x := x.a.getD i 0, inA := x.a.getD i 0, b := x.b.getD i 0, masked := false, col := io.colBase + g.col0 + i,
      vec0 := x.col0.getD i 0, vec1 := x.col1.getD i 0 }

/-- Row state kept between the beats of a row, as the job holds it. -/
def RowCtx.save (r : RowCtx) : List Nat := [r.run0.toNat, r.run1.toNat, r.mIn.toNat, r.count]
def RowCtx.load (r : RowCtx) (l : List Nat) : RowCtx :=
  let w (i : Nat) : Word := BitVec.ofNat 32 (l.getD i 0)
  { r with run0 := w 0, run1 := w 1, mIn := w 2, mPrev := w 0, count := l.getD 3 0 }

/-- Row-state entry of row i of the operation (R85). -/
def State.rowState (s : State) (k : Nat) (io : JobIo) (i : Nat) : List Byte :=
  match io.state with
  | some o => rdBytes s.stores (storeBase k + o + 16 * i) 16
  | none => List.replicate 16 0

/-- A beat in progress: the state, how it has gone, the digest, and the row carried over. -/
structure BeatRun where
  s : State
  acc : Acc := .ok
  digest : Nat
  red : List Nat
  fx : ChainFx := {}
deriving DecidableEq, Repr

/-- Join the reports of two segments of a beat. -/
def ChainFx.merge (x y : ChainFx) : ChainFx :=
  ⟨Nat.lor x.satMask y.satMask, Nat.lor x.nanMask y.nanMask, x.sats + y.sats, x.wrSats + y.wrSats, x.qs ++ y.qs⟩

/-- One segment: read, stages, row state, write (R74, R78, R85). -/
def BeatRun.segment (x : BeatRun) (k t cols : Nat) (io : JobIo) (g : Seg1) : BeatRun :=
  let r := x.s.segRead k t io g
  if x.acc ≠ .ok || r.acc ≠ .ok then { x with s := r.s, acc := x.acc.first r.acc }
  else
    let entry := r.s.rowState k io (io.row0 + g.row)
    let ctx := startRow io.stages entry (io.rowBase + g.row) (r.row0.headD 0) (r.row1.headD 0)
    let ctx1 := if g.col0 = 0 then ctx else ctx.load x.red
    let p := Pass.stages { lanes := r.lanes io g, row := ctx1, digest := x.digest } io.stages
    let outs := p.lanes.map fun l => elemFrom32 io.binding.outFmt l.x
    let w := r.s.opWrite k t (io.out.plus (g.row * io.outPitch + elemOff io.binding.outFmt g.col0))
      (packElems io.binding.outFmt (outs.map (·.1)))
    let s1 := match io.state, (if g.col0 + g.n = cols then endRow io.stages p.row entry else none) with
      | some o, some bs => { w.1 with stores := wrBytes w.1.stores (storeBase k + o + 16 * (io.row0 + g.row)) bs }
      | _, _ => w.1
    { s := s1, acc := w.2, digest := p.digest, red := p.row.save,
      fx := x.fx.merge { p.fx with wrSats := (outs.filter (·.2)).length } }

/-! ### Choosing and running the next beat -/

/-- An operation on this core that wants the chain: a VCHAIN in the queue, or a fused MATMUL on the array. -/
structure Wants where
  list : Nat
  op : Op
deriving DecidableEq, Repr

def Op.fused (o : Op) : Bool := o.opcode = 1 && mmBinding o ≠ 0

/-- Operations that wait for or hold the chain, in issue order (R90). -/
def State.chainWants (s : State) (k : Nat) : List Wants :=
  let c := s.coreUnit k
  let fused := (c.arrayQ ++ (c.chainQ.filter fun j => j.fused).map fun j => (j.list, j.op)).dedup.filterMap fun e =>
    match s.op? e.1 e.2 with
    | some o => if o.fused then some (⟨e.1, o⟩ : Wants) else none
    | none => none
  let plain := (c.chainQ.filter fun j => !j.fused).filterMap fun j =>
    (s.op? j.list j.op).map fun o => (⟨j.list, o⟩ : Wants)
  sortBy (fun w => w.op.order) (fused ++ plain)

/-- Quadrant of a fused MATMUL; a whole-mode one counts as quadrant 0. -/
def Op.quad (o : Op) : Nat := if mmQuadMode o then mmQuad o else 0

/-- R90: fused operations that hold the chain together: the first one and those behind it that name the same descriptor,
one for each quadrant. -/
def holders : List Wants → List Wants
  | [] => []
  | w :: ws =>
    if !w.op.fused || !mmQuadMode w.op then [w]
    else w :: (ws.takeWhile fun v => v.op.fused && mmQuadMode v.op && v.op.binding.desc = w.op.binding.desc).filter fun v =>
      v.op.quad ≠ w.op.quad

/-- R90: the holder whose turn it is: quadrant order, after the one served last. -/
def nextHolder (last : Nat) (ws : List Wants) : Option Wants :=
  ((List.range 4).filterMap fun i => ws.find? fun w => w.op.quad = (last + 1 + i) % 4).head?

/-- The job whose beat enters next: one that has begun, else that of the holder whose turn it is, if it is there. -/
def State.nextJobOf (s : State) (k : Nat) : Option ChainJob :=
  let c := s.coreUnit k
  match c.chainQ.find? fun j => j.row ≠ 0 || j.beat ≠ 0 with
  | some j => some j
  | none =>
    match nextHolder c.lastQuad (holders (s.chainWants k)) with
    | some w => c.chainQ.find? fun j => j.list = w.list && j.op = w.op.offset
    | none => none

def ChainJob.same (a b : ChainJob) : Bool :=
  a.list = b.list && a.op = b.op && a.row0 = b.row0 && a.col0 = b.col0 && a.fused = b.fused

/-- Replace or remove a job of the chain's queue. -/
def CoreUnit.setJob (c : CoreUnit) (j : ChainJob) (new : Option ChainJob) : CoreUnit :=
  { c with chainQ := c.chainQ.flatMap fun x => if x.same j then new.toList else [x] }

/-- R195: an operation fails on the core: its jobs leave the units. -/
def State.failOp (s : State) (id off status : Nat) : State := (s.dropOp id off).finishOp id off status 0

/-- R195: the whole output of an operation that read bad data is undefined. -/
def State.spoil (s : State) (k t : Nat) (out : Option Place) (r : Rows) (a : Acc) : State :=
  match a, out with
  | .bad, some p => s.fillUndefined k t p r
  | _, _ => s

/-- Steps of the primary unit up to now (R275). -/
def State.setSteps (s : State) (id off n : Nat) : State :=
  match s.op? id off with
  | some o => s.setOp id { o with steps := n }
  | none => s

/-- A fused MATMUL ends with its last tile's last beat. -/
def State.endFused (s : State) (id off : Nat) : State :=
  match s.op? id off with
  | some o =>
    let waits := s.cores.any fun c => (c.2.chainQ.any fun j => j.list = id && j.op = off) ||
      (c.2.arrayQ.any fun e => e = (id, off))
    if o.opcode = 1 && mmTiles o ≤ o.tile && !waits then s.finishOp id off osOk 0 else s
  | none => s

/-- The digest an operation reports when it ends. -/
def State.sealDigest (s : State) (id off : Nat) : State :=
  match s.op? id off with
  | some o => if (stagesOf o.descBytes).any Stage.isDigest then s.setOp id { o with digest := crc64Final o.digest } else s
  | none => s

/-- After a beat: progress of the job, and what ends with its last beat (R75, R90). -/
def State.afterBeat (s : State) (k : Nat) (j : ChainJob) (red : List Nat) : State :=
  let nx := nextBeat j.cols j.row j.beat
  let c := s.coreUnit k
  if nx.1 < j.rows then
    let s1 := s.setCoreUnit k (c.setJob j (some { j with row := nx.1, beat := nx.2, red := red }))
    if j.fused then s1
    else match s1.op? j.list j.op with
      | some o => s1.setOp j.list { o with tile := nx.1, steps := beatCount nx.1 j.cols + 95 }
      | none => s1
  else
    let s1 := s.setCoreUnit k (c.setJob j none)
    if j.fused then
      let done := (s1.addSteps j.list j.op 0 (beatCount j.rows j.cols + 95)).setCoreUnit k
        { (s1.coreUnit k) with lastQuad := ((s1.op? j.list j.op).map Op.quad).getD 3 }
      let last := match done.op? j.list j.op with
        | some o => decide (mmTiles o ≤ o.tile) && !((done.coreUnit k).chainQ.any fun x => x.list = j.list && x.op = j.op)
        | none => false
      (if last then done.sealDigest j.list j.op else done).endFused j.list j.op
    else
      ((s1.sealDigest j.list j.op).setSteps j.list j.op (beatCount j.rows j.cols + 95)).finishOp j.list j.op osOk 0

/-- VCHAIN_BEAT (R72 to R75, R90): the next beat enters core k's chain and passes all eight stages. -/
def vchainBeat (k : Nat) (s : State) : State :=
  if !s.towerRuns (k / 8) then s
  else
    match s.nextJobOf k with
    | none => s
    | some j =>
      match s.list? j.list, s.op? j.list j.op with
      | some l, some o0 =>
        let s0 := s.startOp j.list j.op
        match (if j.fused then s0.fusedIo l o0 j else s0.vchainIo l o0) with
        | none => s0.failOp j.list j.op osSegment
        | some io =>
          let r := (beatSegs j.rows j.cols j.row j.beat).foldl
            (fun (x : BeatRun) (g : Seg1) => x.segment k l.tenant j.cols io g) (⟨s0, .ok, o0.digest, j.red, {}⟩ : BeatRun)
          if r.acc ≠ .ok then
            (r.s.spoil k l.tenant (some io.out) ⟨j.rows, io.outPitch, rowBytes io.binding.outFmt j.cols⟩ r.acc).failOp j.list j.op
              r.acc.status
          else
            let s1 := (r.s.chainReport k r.fx).ctr k 0x10 1
            let s2 := match s1.op? j.list j.op with
              | some o => s1.setOp j.list { o with digest := r.digest }
              | none => s1
            s2.afterBeat k j r.red
      | _, _ => s.setCoreUnit k ((s.coreUnit k).setJob j none)

/-! ### Checks of bindings (R80, R261, R264, R446) -/

/-- Plain field rules of a binding; `at_` gives the detail of a field. -/
def State.bindingRules (s : State) (t k : Nat) (b : Binding) (cols : Nat) (at_ : Nat → Nat) : OpErr :=
  let bad (o : Nat) : OpErr := malformed (at_ o)
  orErr (need (refOk b.desc && refSpace b.desc = 1 && refOff b.desc % 64 = 0) (bad 0))
  (orErr (need (refOk b.vec0) (bad 8))
  (orErr (need (refOk b.vec1) (bad 0x10))
  (orErr (need (refOk b.rowstate && (b.rowstate = 0 || (refSpace b.rowstate = 2 && refOff b.rowstate % 16 = 0))) (bad 0x18))
  (orErr (need (b.out ≠ 0 && s.chainPlaceOk t k b.out) (bad 0x20))
  (orErr (need (b.f 0x38 1 < 64 && b.outFmt ≤ 7) (bad 0x38))
  (orErr (need (b.f 0x39 3 = 0) (bad 0x39))
    (need (b.f 0x3C 4 = 0 || rowBytes b.outFmt cols ≤ b.f 0x3C 4) (bad 0x3C))))))))

/-- R80: the descriptor's own rules, where its bytes can be read. -/
def State.descRules (s : State) (t k : Nat) (b : Binding) (rows cols : Nat) (hasB : Bool) (detail : Nat) : OpErr :=
  match s.resolve t b.desc (plain 64) rRead with
  | some p =>
    let r := s.opRead k t p 64
    if r.acc ≠ .ok then some (r.acc.status, detail)
    else need (ChainSupply.ok ⟨hasB, b.rowstate ≠ 0, b.vec0Len, b.vec1Len, b.rowBase + rows, b.colBase + cols⟩ (stagesOf r.data))
      (malformed detail)
  | none => none

/-- Extents of a binding's operands (R254). -/
def State.bindingExtents (s : State) (t : Nat) (b : Binding) (rows cols : Nat) (at_ : Nat → Nat) : OpErr :=
  let ok (ref : Nat) (r : Rows) (right o : Nat) : OpErr := if ref = 0 then none else need (s.resolve t ref r right).isSome (segErr (at_ o))
  orErr (ok b.desc (plain 64) rRead 0) (orErr (ok b.vec0 (plain (b.vec0Len * b.vecSize 0)) rRead 8)
    (orErr (ok b.vec1 (plain (b.vec1Len * b.vecSize 1)) rRead 0x10) (orErr (ok b.rowstate (plain (16 * rows)) rRead 0x18)
      (ok b.out ⟨rows, b.outPitch cols, rowBytes b.outFmt cols⟩ rWrite 0x20))))

/-- The descriptor of a binding, read at issue and kept with the operation (R76, R80). -/
def State.keepDesc (s : State) (l : WorkList) (o : Op) (binding : List Byte) : State × Op :=
  match s.resolve l.tenant (fieldAt binding 0 8) (plain 64) rRead with
  | some p =>
    let r := s.opRead o.core l.tenant p 64
    let o1 := { o with aux := binding ++ r.data,
                       digest := if (stagesOf r.data).any Stage.isDigest then crc64Init else 0 }
    (r.s.setOp l.id o1, o1)
  | none => (s, o)

/-! ### VCHAIN (Table 11-7) -/

/-- The binding that a VCHAIN carries. -/
def vcBinding (o : Op) : Binding := ⟨(o.bytes.drop 0x40).take 64⟩

/-- Field rules and extents of VCHAIN (R73, R255, R261, R446). -/
def vchainRules (s : State) (l : WorkList) (o : Op) : OpErr :=
  let k := o.core
  let b := vcBinding o
  let rows := vcRows o
  let cols := vcCols o
  let place (off : Nat) : Bool := s.chainPlaceOk l.tenant k (o.f off 8)
  let ext (ref pitchOff fmtOff off : Nat) : OpErr :=
    need (s.resolve l.tenant ref ⟨rows, vcPitch o pitchOff fmtOff, rowBytes (o.f fmtOff 1) cols⟩ rRead).isSome (segErr off)
  orErr (need (o.f 8 8 ≠ 0 && place 8) (malformed 8))
  (orErr (need (o.f 0x10 8 = 0 || place 0x10) (malformed 0x10))
  (orErr (need (1 ≤ rows && rows ≤ 16777216) (malformed 0x18))
  (orErr (need (1 ≤ cols && cols ≤ 1572864) (malformed 0x1C))
  (orErr (need (o.f 0x20 1 ≤ 7) (malformed 0x20))
  (orErr (need (o.f 0x21 1 ≤ 7 && (o.f 0x10 8 ≠ 0 || o.f 0x21 1 = 0)) (malformed 0x21))
  (orErr (need (o.f 0x10 8 ≠ 0 || o.f 0x28 4 = 0) (malformed 0x28))
  (orErr (s.bindingRules l.tenant k b cols (fun x => 0x40 + x))
  (orErr (s.descRules l.tenant k b rows cols (o.f 0x10 8 ≠ 0) 0x40)
  (orErr (ext (o.f 8 8) 0x24 0x20 8)
  (orErr (if o.f 0x10 8 = 0 then none else ext (o.f 0x10 8) 0x28 0x21 0x10)
    (s.bindingExtents l.tenant b rows cols (fun x => 0x40 + x))))))))))))

/-- Put a VCHAIN into its chain's queue; a resumed one goes on at the row it had reached (R279). -/
def State.queueVchain (s : State) (l : WorkList) (o : Op) : State :=
  let c := s.coreUnit o.core
  s.setCoreUnit o.core { c with chainQ := c.chainQ ++ [{ list := l.id, op := o.offset, row0 := 0, col0 := 0, rows := vcRows o,
                                                         cols := vcCols o, fused := false, row := o.tile }] }

/-- VCHAIN (R75, R80). -/
def execVchain (list : Nat) (early : Option (List Byte)) (s : State) : Host.Outcome State Fault Refusal :=
  .next (s.issueOp list early 0x02 vchainRules fun s l o =>
    let r := s.keepDesc l o (vcBinding o).bytes
    r.1.queueVchain l r.2)

end Sys2Proof.Machine
end

