-- ==== Sys2Proof/Machine/Array.lean ====
section
/-! DEFINITION. The matrix array (R51 to R71): MATMUL's rules, the weight loads and swaps that drive it, its accumulation,
and the tiles it hands to the chain. -/

namespace Sys2Proof.Machine

/-! ### MATMUL's own rules (R59, R101 to R103, R255, R263, R446) -/

/-- R59: a place of stationary weights and scales. -/
def State.mmPlaceOk (s : State) (t : Nat) (o : Op) (ref : Nat) : Bool :=
  refOk ref && ((mmQuadMode o && refSpace ref = 3) || (refSpace ref = 1 && (s.refOwnBed t o.core ref || s.refSegMissing t ref)))

/-- The fields of Table 11-5 in order. -/
def mmFields (s : State) (l : WorkList) (o : Op) : OpErr :=
  let intAct := mmFmt o ≤ 1
  let mode := o.f 0x44 1
  orErr (need (mmWeights o ≠ 0 && s.mmPlaceOk l.tenant o (mmWeights o) && refOff (mmWeights o) % mmTileBytes o = 0) (malformed 8))
  (orErr (need (if mmFmt o = 0 then mmScales o ≠ 0 && s.mmPlaceOk l.tenant o (mmScales o) && refOff (mmScales o) % 64 = 0
      else mmScales o = 0) (malformed 0x10))
  (orErr (need (refOk (mmActs o) && refSpace (mmActs o) = 3) (malformed 0x18))
  (orErr (need (refOk (mmAcc o) && refSpace (mmAcc o) = 2) (malformed 0x20))
  (orErr (need (mmBinding o = 0 || (refOk (mmBinding o) && refSpace (mmBinding o) = 1 && refOff (mmBinding o) % 64 = 0))
      (malformed 0x28))
  (orErr (need (refOk (mmZp o) && (intAct || mmZp o = 0)) (malformed 0x30))
  (orErr (need (1 ≤ mmM o && mmM o ≤ 16777216) (malformed 0x38))
  (orErr (need (1 ≤ mmK o && mmK o ≤ 65536) (malformed 0x3C))
  (orErr (need (1 ≤ mmN o && mmN o ≤ 65536) (malformed 0x40))
  (orErr (need (mmFmt o < 4 && nf mode 6 2 = 0 && (mmQuadMode o || mmQuad o = 0)) (malformed 0x44))
  (orErr (need (o.f 0x45 1 < 16 && (mmFmt o = 2 || (!mmOpt o 0 && !mmOpt o 1)) && (mmFmt o = 0 || !mmOpt o 2)) (malformed 0x45))
  (orErr (need (intAct || o.f 0x46 1 = 0) (malformed 0x46))
    (need (mmN o * 4 ≤ mmAccPitch o) (malformed 0x4C)))))))))))))

/-- The 64 bytes of the binding that a fused MATMUL refers to. -/
def State.mmBindingRead (s : State) (l : WorkList) (o : Op) : MemRead :=
  match s.resolve l.tenant (mmBinding o) (plain 64) rRead with
  | some p => s.opRead o.core l.tenant p 64
  | none => ⟨s, .refused, []⟩

/-- R80, R90, R264: what the binding holds; its failures carry the binding field's offset. -/
def mmFusion (s : State) (l : WorkList) (o : Op) : OpErr :=
  if mmBinding o = 0 then none
  else
    let r := s.mmBindingRead l o
    if r.acc ≠ .ok then some (r.acc.status, 0x28)
    else
      let b : Binding := ⟨r.data⟩
      orErr (s.bindingRules l.tenant o.core b (mmN o) fun _ => 0x28)
      (orErr (s.descRules l.tenant o.core b (mmM o) (mmN o) false 0x28)
        (s.bindingExtents l.tenant b (mmM o) (mmN o) fun _ => 0x28))

/-- R254: extents of the operands. -/
def mmExtents (s : State) (l : WorkList) (o : Op) : OpErr :=
  let sets := mmNt o * mmKt o
  let ok (ref : Nat) (r : Rows) (right at_ : Nat) (w : Bool) : OpErr :=
    if ref = 0 then none else need (s.resolve l.tenant ref r right w).isSome (segErr at_)
  orErr (ok (mmWeights o) (plain (sets * mmTileBytes o)) rRead 8 true)
  (orErr (ok (mmScales o) (plain (sets * mmScaleBytes o)) rRead 0x10 true)
  (orErr (ok (mmActs o) ⟨mmM o, mmActPitch o, mmActRow o⟩ rRead 0x18 false)
  (orErr (ok (mmAcc o) ⟨mmM o, mmAccPitch o, mmN o * 4⟩ rWrite 0x20 false)
  (orErr (ok (mmBinding o) (plain 64) rRead 0x28 false)
    (ok (mmZp o) (plain (mmM o)) rRead 0x30 false)))))

/-- MATMUL's own checks. -/
def matmulRules (s : State) (l : WorkList) (o : Op) : OpErr :=
  orErr (mmFields s l o) (orErr (mmExtents s l o) (mmFusion s l o))

/-- Put a MATMUL into the queue of its core's array (R258). -/
def State.queueMatmul (s : State) (l : WorkList) (o : Op) : State :=
  let c := s.coreUnit o.core
  s.setCoreUnit o.core { c with arrayQ := c.arrayQ ++ [(l.id, o.offset)] }

/-- MATMUL (R263): checked and issued to the array or a quadrant; a fused one takes its binding and descriptor along. -/
def execMatmul (list : Nat) (early : Option (List Byte)) (s : State) : Host.Outcome State Fault Refusal :=
  .next (s.issueOp list early 0x01 matmulRules fun s l o =>
    if mmBinding o = 0 then s.queueMatmul l o
    else
      let b := s.mmBindingRead l o
      let r := b.s.keepDesc l o b.data
      r.1.queueMatmul l r.2)

/-! ### Which operation a quadrant or the array runs (R60, R68, R258) -/

/-- Two byte ranges, start and length, overlap. -/
def rangesMeet (a b : Nat × Nat) : Bool := decide (a.1 < b.1 + b.2) && decide (b.1 < a.1 + a.2)

/-- R60, R68: an earlier MATMUL on the core holds a later one back. -/
def mmHolds (earlier later : Op) : Bool :=
  !mmQuadMode earlier || !mmQuadMode later || mmQuad earlier = mmQuad later || rangesMeet (mmAccRange earlier) (mmAccRange later)

/-- The first operation of a queue that wanted(o) and no earlier one holds back. -/
def firstFree (wanted : Op → Bool) : List Op → List (Nat × Op) → Option (Nat × Op)
  | _, [] => none
  | before, (id, o) :: rest =>
    if wanted o && !(before.any fun e => mmHolds e o) then some (id, o) else firstFree wanted (before ++ [o]) rest

/-- The MATMUL that a quadrant (or the whole array) works on now. -/
def State.mmNow (s : State) (k : Nat) (quad : Option Nat) : Option (Nat × Op) :=
  let q := (s.coreUnit k).arrayQ.filterMap fun e => (s.op? e.1 e.2).map fun o => (e.1, o)
  firstFree (fun o => match quad with
    | some q => o.opcode = 1 && mmQuadMode o && mmQuad o = q
    | none => o.opcode = 1 && !mmQuadMode o) [] q

/-! ### Loading weights (R57, R61, R63, R118) -/

/-- A byte list as a byte map from zero. -/
def toMap (bs : List Byte) : Memory := (bs.zipIdx.filter fun x => x.1 ≠ 0).map fun x => (x.2, x.1)

/-- Read tile i's weights and scales of an operation. -/
structure WRead where
  s : State
  acc : Acc
  set : WSet
deriving DecidableEq, Repr

/-- The weight set of tile i: 64 KiB or 16 KiB of weights, and in W4A8 its scale block. None when a segment has gone. -/
def State.readSet (s : State) (l : WorkList) (o : Op) (i : Nat) : Option WRead :=
  let w := (mmTile o i).weightIx o
  let get (s : State) (ref size : Nat) : Option MemRead :=
    (s.resolve l.tenant ref (plain (w * size + size)) rRead true).map fun p =>
      s.weightRead o.core l.tenant (p.plus (w * size)) size
  match get s (mmWeights o) (mmTileBytes o) with
  | none => none
  | some r =>
    if mmFmt o = 0 then
      match get r.s (mmScales o) (mmScaleBytes o) with
      | none => none
      | some q => some ⟨q.s, r.acc.first q.acc, ⟨l.id, o.offset, i, toMap r.data, toMap q.data⟩⟩
    else some ⟨r.s, r.acc, ⟨l.id, o.offset, i, toMap r.data, []⟩⟩

/-- R195: a MATMUL that read bad data fails, its output undefined. -/
def State.mmFail (s : State) (l : WorkList) (o : Op) (a : Acc) : State :=
  let p := s.resolve l.tenant (mmAcc o) (plain 0) rWrite
  (s.spoil o.core l.tenant p ⟨mmM o, mmAccPitch o, mmN o * 4⟩ a).failOp l.id o.offset a.status

/-- SHADOW_LOAD (R61, R62): the quadrant's shadow set takes the weights and scales of its operation's next tile. -/
def shadowLoad (k q : Nat) (s : State) : State :=
  if !s.towerRuns (k / 8) || ((s.coreUnit k).shadow.any fun x => x.1 = q) then s
  else
    match s.mmNow k (some q) with
    | none => s
    | some (id, o) =>
      match s.list? id with
      | none => s
      | some l =>
        let s1 := s.startOp id o.offset
        match s1.readSet l o o.tile with
        | none => s1.mmFail l o .refused
        | some r =>
          if r.acc ≠ .ok then r.s.mmFail l o r.acc
          else r.s.setCoreUnit k { r.s.coreUnit k with shadow := insertKey q r.set (r.s.coreUnit k).shadow }

def execShadowLoad (core : Fin 64) (quad : Fin 4) (s : State) : Host.Outcome State Fault Refusal :=
  .next (shadowLoad core.val quad.val s)

/-! ### Accumulation (R54 to R57) -/

/-- A result with its saturations. -/
structure Summed where
  bits : Word
  sat : MxSat := {}
deriving DecidableEq, Repr

/-- FP8 and BF16: products added in row order to the running sum (R54, R56). -/
def fpColumn (start : Word) (as ws : List Word) : Summed :=
  (List.zip as ws).foldl (fun (x : Summed) e =>
    let p := fmul e.1 e.2
    let r := fadd x.bits p.bits
    ⟨r.bits, { x.sat with fps := x.sat.fps + b2n p.sat + b2n r.sat }⟩) ⟨start, {}⟩

/-- Exact dot product. -/
def dot (as ws : List Int) : Int := (List.zipWith (fun a w => a * w) as ws).foldl (fun x y => x + y) 0

/-- R57: a group's or a tile's int32 sum with the zero-point correction. -/
def corrected (as ws : List Int) (z : Int) : Int × Bool := sat32 (dot as ws - z * ws.foldl (fun x y => x + y) 0)

/-- W8A8: the corrected sum joins the int32 running sum (R55). -/
def w8Column (start : Word) (as ws : List Int) (z : Int) : Summed :=
  let c := corrected as ws z
  let r := sat32 (start.toInt + c.1)
  ⟨BitVec.ofInt 32 r.1, { ints := b2n c.2 + b2n r.2 }⟩

/-- W4A8: one scale tap for each group that K reaches (R57). -/
def w4Column (start : Word) (group : Nat) (as ws : List Int) (z : Int) (scale : Nat → Word) : Summed :=
  (List.range (ceilDiv as.length group)).foldl (fun (x : Summed) g =>
    let c := corrected ((as.drop (g * group)).take group) ((ws.drop (g * group)).take group) z
    let p := fmul (ofInt32 c.1) (scale g)
    let r := fadd x.bits p.bits
    ⟨r.bits, { ints := x.sat.ints + b2n c.2, fps := x.sat.fps + b2n p.sat + b2n r.sat }⟩) ⟨start, {}⟩

/-- R101: weight (k, n) of a tile, as its raw bits. -/
def WSet.raw (w : WSet) (o : Op) (k n : Nat) : Nat :=
  match mmFmt o with
  | 0 => let b := (rdB w.weights (k * (mmNw o / 2) + n / 2)).toNat; if n % 2 = 0 then b % 16 else b / 16
  | 3 => rdLe w.weights (k * (2 * mmNw o) + 2 * n) 2
  | _ => (rdB w.weights (k * mmNw o + n)).toNat

/-- R102: the scale of group g and column n, FP16, as FP32. -/
def WSet.scale (w : WSet) (o : Op) (g n : Nat) : Word := elemTo32 5 (rdLe w.scales ((g * mmNw o + n) * 2) 2)

/-- Element formats of activations and weights (R257): E5M2 where the option says so. -/
def mmActFmt (o : Op) : Nat := if mmFmt o = 3 then 4 else if mmFmt o = 2 then (if mmOpt o 1 then 3 else 2) else 1
def mmWFmt (o : Op) : Nat := if mmFmt o = 3 then 4 else if mmFmt o = 2 then (if mmOpt o 0 then 3 else 2) else 1

/-- One column of a tile for one row: `acts` are the raw activations of the tile's depth. -/
def mmColumn (o : Op) (w : WSet) (acts : List Nat) (z : Int) (start : Word) (n : Nat) : Summed :=
  let ws := (List.range acts.length).map fun k => w.raw o k n
  match mmFmt o with
  | 0 => w4Column start (mmGroup o) (acts.map (toSigned 8)) (ws.map (toSigned 4)) z fun g => w.scale o g n
  | 1 => w8Column start (acts.map (toSigned 8)) (ws.map (toSigned 8)) z
  | _ => fpColumn start (acts.map (elemTo32 (mmActFmt o))) (ws.map (elemTo32 (mmWFmt o)))

/-- R57, R104: the zero point of row r: per row, or immediate. -/
def State.mmZero (s : State) (l : WorkList) (o : Op) (r : Nat) : MemRead :=
  if mmZp o = 0 then ⟨s, .ok, (o.bytes.drop 0x46).take 1⟩
  else match s.resolve l.tenant (mmZp o) (plain (r + 1)) rRead with
    | some p => s.opRead o.core l.tenant (p.plus r) 1
    | none => ⟨s, .refused, []⟩

/-- A tile in progress. -/
structure TileRun where
  s : State
  acc : Acc := .ok
  sat : MxSat := {}
deriving DecidableEq, Repr

/-- One row of a tile streams through the array: its results go to the accumulator range (R54, R60). -/
def TileRun.row (x : TileRun) (l : WorkList) (o : Op) (w : WSet) (t : Tile) (r : Nat) : TileRun :=
  if x.acc ≠ .ok then x
  else
    let row := t.row0 + r
    let z := x.s.mmZero l o row
    let size := mmActSize o
    let raw := rdBytes z.s.stores (stageBase o.core + refOff (mmActs o) + row * mmActPitch o + t.k * mmKd o * size) (t.depth * size)
    let acts := (List.range t.depth).map fun k => fieldAt raw (k * size) size
    let outAt := storeBase o.core + refOff (mmAcc o) + row * mmAccPitch o + t.col0 * 4
    let fresh := t.k = 0 && !mmOpt o 3
    let res := (List.range t.cols).map fun n =>
      mmColumn o w acts (toSigned 8 (leNat z.data)) (if fresh then 0 else BitVec.ofNat 32 (rdLe z.s.stores (outAt + 4 * n) 4)) n
    if z.acc ≠ .ok then { x with s := z.s, acc := z.acc }
    else
      { s := { z.s with stores := wrBytes z.s.stores outAt (res.flatMap fun r => leBytes 4 r.bits.toNat) },
        sat := ⟨x.sat.ints + (res.map fun r => r.sat.ints).sum, x.sat.fps + (res.map fun r => r.sat.fps).sum⟩ }

/-- All rows of one tile. -/
def State.runTile (s : State) (l : WorkList) (o : Op) (w : WSet) (t : Tile) : TileRun :=
  let r := (List.range t.rows).foldl (fun (x : TileRun) i => x.row l o w t i) ⟨s, .ok, {}⟩
  let s1 := (r.s.mxSat o.core r.sat).ctr o.core 0x02 (t.rows * t.cols * t.depth)
  { r with s := s1 }

/-! ### The chain behind the array (R90) -/

/-- Byte ranges of a block of accumulator rows. -/
def accRows (o : Op) (row0 rows col0 cols : Nat) : List (Nat × Nat) :=
  (List.range rows).map fun i => (refOff (mmAcc o) + (row0 + i) * mmAccPitch o + col0 * 4, cols * 4)

/-- R90: a tile's results would overwrite entries that the chain has not read yet. -/
def State.unread (s : State) (o : Op) (t : Tile) : Bool :=
  let mine := accRows o t.row0 t.rows t.col0 t.cols
  (s.coreUnit o.core).chainQ.any fun j => j.fused && (match s.op? j.list j.op with
    | some p => (accRows p (j.row0 + j.row) (j.rows - j.row) j.col0 j.cols).any fun a => mine.any fun b => rangesMeet a b
    | none => false)

/-- R90: the finished output block of a tile enters the chain's queue. -/
def State.handOver (s : State) (l : WorkList) (o : Op) (t : Tile) : State :=
  if mmBinding o ≠ 0 && t.k + 1 = mmKt o then
    let c := s.coreUnit o.core
    s.setCoreUnit o.core { c with chainQ := c.chainQ ++ [{ list := l.id, op := o.offset, row0 := t.row0, col0 := t.col0,
                                                           rows := t.rows, cols := t.cols, fused := true }] }
  else s

/-- The tiles i to j − 1 over one weight set, handed to the chain block by block. -/
def State.runTiles (s : State) (l : WorkList) (o : Op) (w : WSet) (i j : Nat) : TileRun :=
  (List.range (j - i)).foldl (fun (x : TileRun) n =>
    if x.acc ≠ .ok then x
    else
      let t := mmTile o (i + n)
      let r := x.s.runTile l o w t
      if r.acc = .ok then { r with s := r.s.handOver l o t } else r) ⟨s, .ok, {}⟩

/-- After the tiles up to j: progress and steps; after the last one the operation leaves the array, and it ends there unless
the chain still works for it. -/
def State.afterTiles (s : State) (l : WorkList) (o : Op) (j : Nat) : State :=
  let s1 := (match s.op? l.id o.offset with
    | some p => s.setOp l.id { p with tile := j, steps := mmStepsTo o j }
    | none => s).ctr o.core 0x01 (mmStepsTo o j - mmStepsTo o o.tile)
  let s2 := s1.ctr o.core 0x03 1
  if j < mmTiles o then s2
  else
    let c := s2.coreUnit o.core
    let s3 := s2.setCoreUnit o.core { c with arrayQ := c.arrayQ.filter fun e => e ≠ (l.id, o.offset) }
    if mmBinding o = 0 then s3.finishOp l.id o.offset osOk 0 else s3.endFused l.id o.offset

/-- Stream the tiles of a weight set that has just become active. -/
def State.streamSet (s : State) (l : WorkList) (o : Op) (w : WSet) : State :=
  let j := mmGroupEnd o w.tile
  let r := s.runTiles l o w w.tile j
  if r.acc ≠ .ok then r.s.mmFail l o r.acc else r.s.afterTiles l o j

/-- The tiles of the next weight set may be written now. -/
def State.clearAhead (s : State) (o : Op) (i : Nat) : Bool :=
  (List.range (mmGroupEnd o i - i)).all fun n => !s.unread o (mmTile o (i + n))

/-- SWAP (R61, R62): the loaded shadow set becomes active and the rows of its tiles stream through the quadrant. -/
def swap (k q : Nat) (s : State) : State :=
  let c := s.coreUnit k
  match c.shadow.find? fun x => x.1 = q with
  | none => s
  | some (_, w) =>
    match s.list? w.list, s.op? w.list w.op with
    | some l, some o =>
      if !s.towerRuns (k / 8) || !s.clearAhead o w.tile then s
      else
        (s.setCoreUnit k { c with shadow := removeKey q c.shadow, active := insertKey q w c.active }).streamSet l o w
    | _, _ => s.setCoreUnit k { c with shadow := removeKey q c.shadow }

def execSwap (core : Fin 64) (quad : Fin 4) (s : State) : Host.Outcome State Fault Refusal := .next (swap core.val quad.val s)

/-- ROW_BROADCAST (R63): one row set from the bed into all cells, then the tile's rows. -/
def rowBroadcast (k : Nat) (s : State) : State :=
  match s.mmNow k none with
  | none => s
  | some (id, o) =>
    match s.list? id with
    | none => s
    | some l =>
      if !s.towerRuns (k / 8) || !s.clearAhead o o.tile then s
      else
        let s1 := s.startOp id o.offset
        match s1.readSet l o o.tile with
        | none => s1.mmFail l o .refused
        | some r =>
          if r.acc ≠ .ok then r.s.mmFail l o r.acc
          else (r.s.setCoreUnit k { r.s.coreUnit k with whole := some r.set }).streamSet l o r.set

def execRowBroadcast (core : Fin 64) (s : State) : Host.Outcome State Fault Refusal := .next (rowBroadcast core.val s)

end Sys2Proof.Machine
end

