-- ==== Sys2Proof/Machine/BankMath.lean ====
section
/-! DEFINITION. What a bank unit computes (R121 to R127) and the fold of partials (R179), which BANK_ATTEND and MERGE
share. -/

namespace Sys2Proof.Machine

/-! ### The exponential (R125) -/

/-- Bisect for the least m with m + 1/2 > 2^(24 − i/256), that is (2m + 1)^256 > 2^(6400 − i). -/
def expSearch (i : Nat) : Nat → Nat → Nat → Nat
  | 0, lo, _ => lo
  | fuel + 1, lo, hi =>
    if hi ≤ lo then lo
    else
      let m := (lo + hi) / 2
      if 2 ^ (6400 - i) < (2 * m + 1) ^ 256 then expSearch i fuel lo m else expSearch i fuel (m + 1) hi

/-- 2^(24 − i/256) rounded to the nearest integer, for i from 0 to 256. -/
def expMant (i : Nat) : Nat := expSearch i 26 (2 ^ 23) (2 ^ 24)

/-- T[i]: 2^(−i/256) rounded once to FP32. -/
def expTable (i : Nat) : Word := BitVec.ofNat 32 (125 * 2 ^ 23 + expMant i)

/-- E(y) for y ≤ 0. -/
def bankExp (y : Word) : Word :=
  match v32 y with
  | .nan => canonNan
  | .inf _ => 0
  | .fin _ n d =>
    if 32 * d ≤ n then 0
    else
      let whole := n / d
      let scaled := 256 * (n % d)
      let i := scaled / d
      let r := Val.fin false (scaled % d) d
      let diff := fsub (expTable (i + 1)) (expTable i)
      let prod := finish32 false (r.mul (v32 diff.bits))
      let sum := fadd (expTable i) prod.bits
      (finish32 false ((v32 sum.bits).scale2 (-(whole : Int)))).bits

/-! ### Scores and running partials (R122 to R126) -/

/-- The partial of one query: running maximum, sum and weighted values, with the saturations met. -/
structure Part where
  m : Word
  l : Word
  o : List Word
  sats : Nat := 0
  made : Nat := 0
deriving DecidableEq, Repr

/-- R126: where every query starts. -/
def Part.start (d : Nat) : Part := ⟨mStart, 0, List.replicate d 0, 0, 0⟩

/-- Table 6-2: a query. -/
structure Query where
  codes : List Int
  sigma : List Word
  limit : Nat
deriving DecidableEq, Repr

def queryOf (d : Nat) (bs : List Byte) : Query :=
  { codes := (List.range d).map fun c => toSigned 8 (fieldAt bs c 1),
    sigma := (List.range (d / 32)).map fun g => BitVec.ofNat 32 (fieldAt bs (0x100 + 4 * g) 4),
    limit := fieldAt bs 0x120 4 }

/-- A key or value vector of a token: codes and group scales (R109, R121). -/
structure KvVec where
  codes : List Int
  scales : List Word
deriving DecidableEq, Repr

/-- R124: the score of a token, held in FP32, with saturations. -/
def score (q : Query) (k : KvVec) : Word × Nat :=
  let r := (List.range q.sigma.length).foldl (fun (x : Word × Nat) g =>
    let d := (List.zipWith (fun a b => a * b) ((q.codes.drop (32 * g)).take 32) ((k.codes.drop (32 * g)).take 32)).foldl
      (fun x y => x + y) (0 : Int)
    let s := fmul (q.sigma.getD g 0) (k.scales.getD g 0)
    let t := fmul (ofInt32 d) s.bits
    let a := fadd x.1 t.bits
    (a.bits, x.2 + b2n s.sat + b2n t.sat + b2n a.sat)) (0, 0)
  let h := encodeF fp16 (v32 r.1)
  (elemTo32 5 h.bits, r.2 + b2n h.sat)

/-- Apply an FP32 operation to every element, counting saturations and made NaNs. -/
def mapSat (f : Word → FRes) (l : List Word) : List Word × Nat × Nat :=
  let rs := l.map f
  (rs.map FRes.bits, (rs.filter FRes.sat).length, (rs.filter FRes.made).length)

/-- R126: one unmasked token with score x and values v. -/
def Part.token (p : Part) (x : Word) (v : List Word) : Part :=
  let p1 :=
    if (v32 p.m).lt (v32 x) then
      let d := fsub p.m x
      let a := bankExp d.bits
      let l := fmul p.l a
      let o := mapSat (fun y => fmul y a) p.o
      { m := x, l := l.bits, o := o.1, sats := p.sats + b2n d.sat + b2n l.sat + o.2.1, made := p.made }
    else p
  let d := fsub x p1.m
  let e := bankExp d.bits
  let l := fadd p1.l e
  let prods := mapSat (fun y => fmul e y) v
  let sums := (List.zipWith fadd p1.o prods.1)
  { m := p1.m, l := l.bits, o := sums.map FRes.bits,
    sats := p1.sats + b2n d.sat + b2n l.sat + prods.2.1 + (sums.filter FRes.sat).length, made := p1.made }

/-- The channel values of a value vector: code × group scale, exact. -/
def KvVec.values (v : KvVec) : List Word :=
  v.codes.mapIdx fun c x => (fmul (ofInt32 x) (v.scales.getD (c / 32) 0)).bits

/-! ### Blocks (R121) -/

/-- Code width in bits from a flag. -/
def codeBits (int8 : Bool) : Nat := if int8 then 8 else 4

/-- Bytes of a group that are read: codes and scales of 64 slots. -/
def groupBytes (d w : Nat) : Nat := 64 * (d * w / 8 + d / 16)
/-- Rows of a group. -/
def groupRows (d w : Nat) : Nat := ceilDiv (groupBytes d w) 2048

/-- The vector of slot t in a group's bytes. -/
def slotVec (d w t : Nat) (bs : List Byte) : KvVec :=
  let fmt := if w = 4 then 0 else 1
  { codes := (unpackElems fmt d ((bs.drop (t * (d * w / 8))).take (d * w / 8))).map (toSigned w),
    scales := (List.range (d / 32)).map fun g => elemTo32 5 (fieldAt bs (64 * d * w / 8 + (t * (d / 32) + g) * 2) 2) }

/-- A block as read: key group and value group bytes, its first position and its full slots. -/
structure Block where
  keys : List Byte
  vals : List Byte
  pos : Nat
  full : Nat
deriving DecidableEq, Repr

/-- R122, R126: one query over one block, slots in ascending order. -/
def Part.block (p : Part) (d wk wv : Nat) (q : Query) (b : Block) : Part :=
  (List.range b.full).foldl (fun (p : Part) t =>
    if b.pos + t ≤ q.limit then
      let x := score q (slotVec d wk t b.keys)
      { p with sats := p.sats + x.2 }.token x.1 (slotVec d wv t b.vals).values
    else p) p

/-! ### Payloads (Table 6-7) -/

/-- Payload bytes, from offset 0x008 of a slot, of partials; `room` is the room between the pairs and the values: in a result
slot the values stand at 0x048. -/
def payloadWith (room : Nat) (ps : List Part) : List Byte :=
  let ml := ps.flatMap fun p => leBytes 4 p.m.toNat ++ leBytes 4 p.l.toNat
  ml ++ List.replicate (room - 8 * ps.length) 0 ++ ps.flatMap fun p => p.o.flatMap fun x => leBytes 4 x.toNat

/-- The partials in a payload whose values stand at `room`. -/
def partsWith (room gq d : Nat) (bs : List Byte) : List Part :=
  (List.range gq).map fun j =>
    { m := BitVec.ofNat 32 (fieldAt bs (8 * j) 4), l := BitVec.ofNat 32 (fieldAt bs (8 * j + 4) 4),
      o := (List.range d).map fun c => BitVec.ofNat 32 (fieldAt bs (room + 4 * (j * d + c)) 4) }

/-- A result slot (Table 6-7). -/
def payloadOf (ps : List Part) : List Byte := payloadWith 64 ps
def partsOf (gq d : Nat) (bs : List Byte) : List Part := partsWith 64 gq d bs

/-- R175: bytes of a partial set. Its values follow the gq pairs at once, as S leaves room for (log entry 47). -/
def setSize (gq d : Nat) : Nat := ceilDiv (8 + 8 * gq + 4 * gq * d) 64 * 64
def setPayload (gq d : Nat) (ps : List Part) : List Byte :=
  let bs := payloadWith (8 * gq) ps
  bs ++ List.replicate (setSize gq d - 8 - bs.length) 0
/-- The partials in a set's payload, which stands 8 bytes into the set. -/
def setParts (gq d : Nat) (bs : List Byte) : List Part := partsWith (8 * gq) gq d bs

/-! ### The fold (R179) -/

/-- Scale by a factor and add another scaled value. -/
def axby (a b : Word) (x y : Word) : FRes × Nat × Nat :=
  let p := fmul x a
  let q := fmul y b
  let r := fadd p.bits q.bits
  (r, b2n p.sat + b2n q.sat + b2n r.sat, b2n p.made + b2n q.made + b2n r.made)

/-- Fold input p into the running partial. -/
def Part.fold (r p : Part) : Part :=
  if isZero32 p.l then r
  else if isZero32 r.l then { r with m := p.m, l := p.l, o := p.o }
  else
    let x := fmax r.m p.m
    let da := fsub r.m x.bits
    let db := fsub p.m x.bits
    let a := bankExp da.bits
    let b := bankExp db.bits
    let l := axby a b r.l p.l
    let os := List.zipWith (axby a b) r.o p.o
    { m := x.bits, l := l.1.bits, o := os.map fun e => e.1.bits,
      sats := r.sats + b2n x.sat + b2n da.sat + b2n db.sat + l.2.1 + (os.map fun e => e.2.1).sum,
      made := r.made + b2n da.made + b2n db.made + l.2.2 + (os.map fun e => e.2.2).sum }

/-- Fold payloads of gq queries, query by query. -/
def foldParts (rs ps : List Part) : List Part := List.zipWith Part.fold rs ps

end Sys2Proof.Machine
end

