-- ==== Sys2Proof/Machine/Span.lean ====
section
/-! DEFINITION. Span ports (R233 to R250): lanes, repair, narrowing, going down, retraining; and how a response reaches the
request that waits for it (R218, R221). -/

namespace Sys2Proof.Machine

/-! ### Responses (R215, R218, R221, R267, R270) -/

/-- Status that an RSP status code gives the operation that asked (Table 9-5). -/
def rspToOp (st : Nat) : Nat :=
  if st = 0 then osOk else if st = 1 || st = 4 then osSegment else if st = 2 then osUncorrectable else osNodeLost

/-- A request ends with an RSP status: its response space is free, and its operation goes on or fails. A SIGNAL raises its
event after the ACK (R270); an operation with several requests ends with its last one or its first failure. -/
def State.endRequest (s : State) (r : Req) (st : Nat) : State :=
  let s1 := { s with reqs := s.reqs.filter fun (x : Req) => !(x.node = r.node && x.tag = r.tag) }
  match r.op with
  | none => s1
  | some (id, off) =>
    match s1.list? id, s1.op? id off with
    | some l, some o =>
      if o.stage = .finished then s1
      else if st ≠ 0 then s1.finishOp id off (rspToOp st) 0
      else if s1.reqs.any fun x => x.op = some (id, off) && !x.timedOut then s1
      else
        let s2 := s1.finishOp id off osOk 0
        if o.opcode = 0x11 && nbit (o.f 0x18 1) 1 then s2.listEvent l off else s2
    | _, _ => s1

/-- The request of this package that an RSP answers. -/
def State.reqOf (s : State) (m : Msg) : Option Req :=
  s.reqs.find? fun r => r.node = m.addr.toNat % 256 && r.tag = m.tag.toNat

/-- R221: a late RSP is discarded, counted in FAB_DISCARD and logged; its space is free again. -/
def State.lateRsp (s : State) (r : Req) : State :=
  let die := (nodeDie r.node).getD 8
  let s1 := { s with reqs := s.reqs.filter fun (x : Req) => !(x.node = r.node && x.tag = r.tag) }
  let s2 := ((s1.countF (.fabDiscard die) 0 32 1).setBit (.fabStat die) 0).log 0x0042 2 die r.node r.tenant 3 r.addr
  if die < 8 then s2.raise (srcTower die 4) else s2

/-- An RSP arrives at its requester in this package, which always sinks it. -/
def State.deliverRsp (s : State) (m : Msg) : State :=
  match s.reqOf m with
  | none => s.emit (.rsp m)
  | some r => if r.timedOut then s.lateRsp r else s.endRequest r m.status.toNat

/-- Send an RSP toward its requester, in this package or another one. -/
def State.respond (s : State) (die : Nat) (m : Msg) : State :=
  if m.dstPkg.toNat = s.pkgId then s.deliverRsp m else (s.sendOut die m).1

/-- R225: answer a non-posted message with NODE_LOST. -/
def State.answerLost (s : State) (die node : Nat) (m : Msg) : State :=
  s.respond die (m.reply s.pkgId node 2 3 0 [])

/-! ### Lane states (R240, Table 10-4) -/

/-- A logical lane of a lane map; 15 means unused. -/
def mapLane (map i : Nat) : Nat := map / 16 ^ i % 16

/-- The map with logical lane i carried by physical lane p. -/
def mapSet (map i p : Nat) : Nat := map - mapLane map i * 16 ^ i + p * 16 ^ i

/-- A lane map from its lanes in logical order. -/
def mapOf (lanes : List Nat) : Nat := ((List.range 8).map fun i => lanes.getD i 15 * 16 ^ i).sum

def noMap : Nat := 0xFFFFFFFF

/-- The logical lane that a physical lane carries. -/
def logicalOf (map p : Nat) : Option Nat := (List.range 8).find? fun i => mapLane map i = p

/-- Physical lanes not lost. -/
def workingLanes (lost : List Nat) : List Nat := (List.range 9).filter fun p => !lost.contains p

/-- R240: the lane map of one direction after training; none means fewer than four lanes. -/
def trainedMap (lost : List Nat) : Option Nat :=
  let w := workingLanes lost
  if w.length = 9 then some (mapOf (List.range 8))
  else if w.length = 8 then some (mapOf ((List.range 8).map fun i => if lost.contains i then 8 else i))
  else if 4 ≤ w.length then some (mapOf (w.take 4))
  else none

/-- A direction runs with four lanes. -/
def mapNarrow (map : Nat) : Bool := mapLane map 4 = 15
def mapSpare (map : Nat) : Bool := !mapNarrow map && (logicalOf map 8).isSome

/-- Table 10-4: the state of a physical lane in one direction. -/
def laneState (map : Nat) (lost : List Nat) (p : Nat) : Nat :=
  if lost.contains p then 4 else if (logicalOf map p).isSome then 2 else 3

/-- Write the port's lane registers from its maps and lost lanes: SPN_LANEST takes the larger code of the two directions
(log entry 27), the spare and narrow bits of SPN_STAT follow the maps. -/
def State.showLanes (s : State) (p rx tx : Nat) : State :=
  let x := s.span p
  let lanes := ((List.range 9).map fun i => max (laneState rx x.lostRx i) (laneState tx x.lostTx i) * 8 ^ i).sum
  let s1 := ((s.setReg (.spnRxmap p) (BitVec.ofNat 64 rx)).setReg (.spnTxmap p) (BitVec.ofNat 64 tx)).setReg (.spnLanest p)
    (BitVec.ofNat 64 lanes)
  (((s1.setF (.spnStat p) 17 1 (b2n (mapSpare rx))).setF (.spnStat p) 16 1 (b2n (mapSpare tx))).setF (.spnStat p) 15 1
    (b2n (mapNarrow rx))).setF (.spnStat p) 14 1 (b2n (mapNarrow tx))

/-- Down causes of SPN_STAT. -/
def dcNoPeer : Nat := 1
def dcDupId : Nat := 2
def dcLanes : Nat := 3
def dcHold : Nat := 4
def dcReplay : Nat := 5
def dcPeerLost : Nat := 6
def dcDisabled : Nat := 7

/-- A port that carries nothing: every lane in state `lane`, maps unused. -/
def State.blankPort (s : State) (p state lane : Nat) : State :=
  let lanes := ((List.range 9).map fun i => lane * 8 ^ i).sum
  ((((s.setReg (.spnRxmap p) (BitVec.ofNat 64 noMap)).setReg (.spnTxmap p) (BitVec.ofNat 64 noMap)).setReg (.spnLanest p)
    (BitVec.ofNat 64 lanes)).setF (.spnStat p) 14 4 0).setF (.spnStat p) 29 3 state

/-! ### Going down (R245) -/

/-- Messages queued for a port or held in its replay buffer, oldest first. -/
def Span.all (x : Span) : List Msg := (x.unacked.flatMap fun f => f.msgs) ++ x.queue

/-- R245: one entry 0x0050 for each tenant whose messages were discarded, with their number; one without a tenant when
nothing was (log entry 28). -/
def State.logDown (s : State) (p cause : Nat) (gone : List Msg) : State :=
  let die := 8 + p / 6
  let d0 := p + cause * 256
  match (gone.map fun m => m.tenant.toNat).dedup with
  | [] => s.log 0x0050 2 die (0x70 + p / 6) noTenant d0 0
  | ts => ts.foldl (fun s t =>
      s.log 0x0050 2 die (0x70 + p / 6) t d0 (gone.filter fun m => m.tenant.toNat = t).length) s

/-- R245: the port goes down. -/
def State.portDown (s : State) (p cause : Nat) : State :=
  let x := s.span p
  let gone := x.all.filter fun m => m.posted || m.isRsp
  let ask := x.all.filter fun m => m.nonPosted
  let s1 := ((s.setSpan p {}).blankPort p 4 0).setF (.spnStat p) 11 3 cause
  let s2 := s1.countF (.spnDiscard p) 0 32 gone.length
  let s3 := if gone.isEmpty then s2 else s2.setBit (.spnStat p) 0
  let s4 := (s3.logDown p cause gone).raise (srcPort p)
  let s5 := ask.foldl (fun s m => s.answerLost (8 + p / 6) (0x70 + p / 6) m) s4
  { s5 with fpDirty := true, spanLost := Nat.lor s5.spanLost (2 ^ p) }

/-! ### Losing lanes (R242 to R244) -/

/-- SPN_STAT.state shows a hold of either direction. -/
def State.showHold (s : State) (p : Nat) : State :=
  let x := s.span p
  s.setF (.spnStat p) 29 3 (if x.rxHold.isSome || x.txHold.isSome then 3 else 2)

/-- R244: the receive direction takes its lowest four working lanes, or the port goes down. -/
def State.narrowRx (s : State) (p : Nat) : State :=
  let x := s.span p
  let w := workingLanes x.lostRx
  if w.length < 4 then s.portDown p dcLanes
  else
    let s1 := s.setSpan p { x with remapReq := none, narrowReq := true, rxHold := some s.now }
    ({ (s1.showLanes p (mapOf (w.take 4)) (s1.reg (.spnTxmap p)).toNat).showHold p with fpDirty := true }).sendControl p false

/-- R242 to R244: a receive lane is lost. A standby lane only leaves the repairs that are left. -/
def laneLoss (p lane : Nat) (s : State) : State :=
  let x := s.span p
  let map := (s.reg (.spnRxmap p)).toNat
  if !s.spanWorks p || x.lostRx.contains lane then s
  else
    let s1 := ((s.countF (.spnLaneloss p) 0 32 1).setBit (.spnStat p) 0).setSpan p { x with lostRx := x.lostRx ++ [lane] }
    match logicalOf map lane with
    | none => if (workingLanes (x.lostRx ++ [lane])).length < 4 then s1.portDown p dcLanes
      else s1.showLanes p map (s1.reg (.spnTxmap p)).toNat
    | some i =>
      let w := workingLanes (x.lostRx ++ [lane])
      if w.length < 4 then s1.portDown p dcLanes
      else if mapNarrow map then
        -- R244: repaired by the next working lane, with the same hold
        match w.find? fun q => (logicalOf map q).isNone with
        | none => s1.narrowRx p
        | some q =>
          let s2 := s1.setSpan p { s1.span p with remapReq := some i, rxHold := some s.now }
          ((s2.showLanes p (mapSet map i q) (s2.reg (.spnTxmap p)).toNat).showHold p).sendControl p false
      else if x.lostRx.isEmpty && x.remapReq.isNone then
        -- R243: the spare is asked for; it is brought in when it locks
        let s2 := s1.setSpan p { s1.span p with remapReq := some i, rxHold := some s.now }
        ((s2.showLanes p map (s2.reg (.spnTxmap p)).toNat).showHold p).sendControl p false
      else s1.narrowRx p

def execLaneLoss (port : Fin 24) (lane : Fin 9) (s : State) : Host.Outcome State Fault Refusal :=
  .next (laneLoss port.val lane.val s)

/-- SPARE_LANE_LOCK (R243 step 3, R244): the receiver locks the lane brought in; remap_req or narrow_req clears, nack is
sent and traffic resumes. -/
def spareLaneLock (p : Nat) (s : State) : State :=
  let x := s.span p
  if !s.spanWorks p || x.rxHold.isNone then s
  else
    let map := (s.reg (.spnRxmap p)).toNat
    let map1 := match x.remapReq with
      | some i => if mapNarrow map then map else mapSet map i 8
      | none => map
    let s1 := s.setSpan p { x with remapReq := none, narrowReq := false, rxHold := none, nackSent := true }
    ({ (s1.showLanes p map1 (s1.reg (.spnTxmap p)).toNat).showHold p with fpDirty := true }.sendControl p true).pump p 64

def execSpareLaneLock (port : Fin 24) (s : State) : Host.Outcome State Fault Refusal := .next (spareLaneLock port.val s)

/-- A hold has lasted 2 µs, 400 ticks. -/
def holdOver (now : Nat) (h : Option Nat) : Bool :=
  match h with
  | some t => decide (t + 400 ≤ now)
  | none => false

/-- HOLD_TIMEOUT (R244, R245): a spare sequence that has not ended narrows the port; a narrowing that has not ended takes
it down. -/
def holdTimeout (p : Nat) (s : State) : State :=
  let x := s.span p
  if !s.spanWorks p then s
  else if holdOver s.now x.rxHold then
    (if x.narrowReq || mapNarrow (s.reg (.spnRxmap p)).toNat then s.portDown p dcHold else s.narrowRx p)
  else if holdOver s.now x.txHold && s.regBit (.spnStat p) 14 then s.portDown p dcHold
  else s

def execHoldTimeout (port : Fin 24) (s : State) : Host.Outcome State Fault Refusal := .next (holdTimeout port.val s)

/-! ### Training and retraining (R240, R241, R245, R250) -/

/-- R241: a port in training whose lanes find no partner within 100 ms (20,000,000 ticks). -/
def spanNoPeer (p : Nat) (s : State) : State :=
  match (s.span p).trainingSince with
  | some t =>
    if s.spanState p = 1 && decide (t + 20000000 ≤ s.now) then
      ((s.setSpan p {}).blankPort p 4 0).setF (.spnStat p) 11 3 dcNoPeer
    else s
  | none => s

def execSpanNoPeer (port : Fin 24) (s : State) : Host.Outcome State Fault Refusal := .next (spanNoPeer port.val s)

/-- The lanes that a mask names. -/
def lanesOf (mask : Nat) : List Nat := (List.range 9).filter fun i => nbit mask i

/-- R240, R241: a port ends training with what it found. -/
def State.portTrained (s : State) (p : Nat) (f : PortTraining) : State :=
  if !f.peer then ((s.setSpan p {}).blankPort p 4 0).setF (.spnStat p) 11 3 dcNoPeer
  else
    let s1 := (s.setF (.spnStat p) 23 6 f.peerPkg.toNat).setF (.spnStat p) 18 5 f.peerPort.toNat
    if f.peerPkg.toNat = s.pkgId then ((s1.setSpan p {}).blankPort p 4 0).setF (.spnStat p) 11 3 dcDupId
    else
      let rx := lanesOf f.rxBad.toNat
      let tx := lanesOf f.txBad.toNat
      match trainedMap rx, trainedMap tx with
      | some a, some b =>
        ((s1.setSpan p { lostRx := rx, lostTx := tx }).showLanes p a b).setF (.spnStat p) 29 3 2
      | _, _ => ((s1.setSpan p {}).blankPort p 4 0).setF (.spnStat p) 11 3 dcLanes

/-- SPAN_PORT_TRAINED (R240): a port that retrains outside bring-up comes up with its lane map. -/
def execSpanPortTrained (port : Fin 24) (f : PortTraining) (s : State) : Host.Outcome State Fault Refusal :=
  .next (if s.spanState port.val = 1 then s.portTrained port.val f else s)

/-- R245: a retrain takes a working port down first. The manual gives that going down no cause code: a free value (log
entry 2). A port held down by enable stays so. -/
def State.retrain (s : State) (p : Nat) : State :=
  let s1 := if s.spanWorks p then (s.portDown p (s.freeNat 3)).bumpFree else s
  if portPresent s.fuses p && s1.regBit (.spnCtl p) 29 then
    (s1.setSpan p { trainingSince := some s.now }).blankPort p 1 1
  else s1

/-- RETRAIN: a write of SPN_CTL with retrain set. -/
def execRetrain (port : Fin 24) (s : State) : Host.Outcome State Fault Refusal :=
  .next (if portPresent s.fuses port.val then s.retrain port.val else s)

/-- SPN_CTL_ENABLE (R250): the register takes the value; with enable clear the port is held down with cause DISABLED, and
with it set the port is released and returns by a retrain (R245). -/
def spnCtlWrite (p v : Nat) (s : State) : State :=
  let was := s.regBit (.spnCtl p) 29
  let s1 := s.plainWrite (.spnCtl p) (BitVec.ofNat 64 v)
  let s2 := if was && !s1.regBit (.spnCtl p) 29 then
      (if s1.spanWorks p then s1.portDown p dcDisabled
       else ((s1.setSpan p {}).blankPort p 4 0).setF (.spnStat p) 11 3 dcDisabled)
    else s1
  if nbit v 31 then s2.retrain p else s2

def execSpnCtlEnable (port : Fin 24) (value : Word) (s : State) : Host.Outcome State Fault Refusal :=
  .next (if portPresent s.fuses port.val then spnCtlWrite port.val value.toNat s else s)

/-- SPAN_ROUTE_REMOVAL (R245, R248): firmware removes a down port from every package route entry of every crossbar. -/
def spanRouteRemoval (p : Nat) (s : State) : State :=
  if s.alive && s.spanState p = 4 then
    (List.range (8 + s.fuses.assembly.ioDies)).foldl (fun s d =>
      (List.range 64).foldl (fun s n => if s.regBit (.spnPrt d n) p then s.clrBit (.spnPrt d n) p else s) s) s
  else s

def execSpanRouteRemoval (port : Fin 24) (s : State) : Host.Outcome State Fault Refusal :=
  .next (spanRouteRemoval port.val s)

/-! ### Receiving (R237, R238, R243, R244) -/

/-- Sequence numbers from one to another, modulo 2^16. -/
def seqDist (a b : Nat) : Nat := (b + 65536 - a) % 65536

/-- R237: an ack covers every frame up to its number. -/
def Span.acked (x : Span) (ack : Nat) : Span :=
  let rest := x.unacked.filter fun f => decide (0 < seqDist ack f.seq) && decide (seqDist ack f.seq ≤ 64)
  { x with unacked := rest, replaysInRow := if rest.length < x.unacked.length then 0 else x.replaysInRow }

/-- R237: the sender resends every frame it still keeps, in order; the sixteenth replay in a row takes the port down. -/
def State.replayFrames (s : State) (p : Nat) : State :=
  let x := s.span p
  let s1 := ((s.countF (.spnReplay p) 0 32 1).setBit (.spnStat p) 0).ctr (unitPort p) 0x2003 1
  if 16 ≤ x.replaysInRow + 1 then s1.portDown p dcReplay
  else
    let s2 := s1.setSpan p { x with replaysInRow := x.replaysInRow + 1 }
    x.unacked.foldl (fun s f => s.emit (x.output p f.seq false f.msgs)) s2

/-- The transmit direction obeys a lane request of its receiver (R243 step 2, R244): the logical lane moves to the standby
lane, or both ends narrow; frames stop until the request ends. -/
def State.txRequest (s : State) (p : Nat) (f : RxFrame) : State :=
  let x := s.span p
  let map := (s.reg (.spnTxmap p)).toNat
  let rx := (s.reg (.spnRxmap p)).toNat
  if f.narrowReq && !(mapNarrow map && x.txHold.isSome) then
    let lost := (x.lostTx ++ [mapLane map f.remapLane.toNat]).dedup
    let w := workingLanes lost
    if w.length < 4 then s.portDown p dcLanes
    else { ((s.setSpan p { x with lostTx := lost, txHold := some s.now }).showLanes p rx (mapOf (w.take 4))).showHold p with
      fpDirty := true }
  else if f.remapReq && x.txHold.isNone then
    let i := f.remapLane.toNat
    let lost := (x.lostTx ++ [mapLane map i]).dedup
    match (workingLanes lost).find? fun q => (logicalOf map q).isNone with
    | none => s
    | some q => { ((s.setSpan p { x with lostTx := lost, txHold := some s.now }).showLanes p rx (mapSet map i q)).showHold p with
        fpDirty := true }
  else if !f.narrowReq && !f.remapReq && x.txHold.isSome then (s.setSpan p { x with txHold := none }).showHold p
  else s

/-- R237, R238: what a frame does at the port, apart from its messages: it is counted, checked, and its control word taken.
The flag tells whether its messages are accepted. -/
def State.takeFrame (s : State) (p : Nat) (f : RxFrame) : State × Bool :=
  let s1 := ((s.countF (.spnCecnt p) 0 32 (popCount 8 f.corrected.toNat)).ctr (unitPort p) 0x2004
    (popCount 8 f.corrected.toNat)).ctr (unitPort p) 0x2002 1
  let s2 := s1.countF (.spnUecnt p) 0 32 (popCount 8 f.uncorrected.toNat)
  let x := s2.span p
  if f.uncorrected ≠ 0 || f.seq.toNat ≠ x.rxNext then
    (if x.nackSent then s2 else (s2.setSpan p { x with nackSent := true }).sendControl p true, false)
  else
    let units := (f.msgs.map Msg.units).sum
    let freed := f.msgs.foldl (fun m g => setNum m g.pool ((num m g.pool + g.units) % 65536)) x.freed
    let x1 := { x with rxNext := (x.rxNext + 1) % 65536, nackSent := false, freed := freed,
                       freedBy := setNum x.freedBy f.pool.toNat f.freed.toNat }
    let s3 := (s2.setSpan p (x1.acked f.ack.toNat)).txRequest p f
    let s4 := if f.nack && s3.spanWorks p then s3.replayFrames p else s3
    let s5 := if units = 0 || !s4.spanWorks p then s4 else s4.sendControl p false
    (if s5.spanWorks p then s5.pump p 64 else s5, true)

end Sys2Proof.Machine
end

