-- ==== Sys2Proof/Machine/Beds.lean ====
section
/-! DEFINITION. Bank units: their window (R130 to R137), commands from issue to completion (R132 to R146), power modes
(R147 to R152) and refresh (R48, R49). -/

namespace Sys2Proof.Machine

/-! ### The bank-unit window (Table 6-4) -/

def windowBase (k : Nat) : Nat := 0x200000000000 + k * 0x100000000

/-- Window offsets of query buffers, command slots and result slots; a slot number is 2b + s. -/
def queryOff (q : Nat) : Nat := q * 0x1000
def commandOff (slot : Nat) : Nat := 0x400000 + slot * 0x40
def resultOff (slot : Nat) : Nat := 0x800000 + slot * 0x2000
def statusOff : Nat := 0xC00000
def fenceOff : Nat := 0xC00008

/-- Where a byte offset of a window leads. -/
inductive WinPlace where
  | query
  | command (slot byte : Nat)
  | result (slot : Nat)
  | status
  | fence
  | none
deriving DecidableEq, Repr

/-- R130: decode a window offset; the slots of a retired bank are unpopulated. -/
def State.winPlace (s : State) (k o : Nat) : WinPlace :=
  if o < 0x10000 then .query
  else if 0x400000 ≤ o && o < 0x404000 then
    let n := (o - 0x400000) / 0x40
    if s.retired k (n / 2) then .none else .command n ((o - 0x400000) % 0x40)
  else if 0x800000 ≤ o && o < 0xA00000 then
    let n := (o - 0x800000) / 0x2000
    if s.retired k (n / 2) then .none else .result n
  else if statusOff ≤ o && o < fenceOff then .status
  else if fenceOff ≤ o && o < fenceOff + 8 then .fence
  else .none

/-! ### Status (R138, R141, Table 6-12) -/

/-- Banks that are computing. -/
def Bed.computing (b : Bed) : List Nat :=
  ((b.busy.filter fun c => c.state ≠ .waiting || c.follows).map fun c => c.slot / 2).dedup

/-- BED_STATUS as read. -/
def State.bedStatusNow (s : State) (k : Nat) : DWord :=
  let b := s.bed k
  let stored := (s.reg (.bedStatus k)).toNat
  BitVec.ofNat 64 (b2n b.busy.isEmpty * 2 ^ 31 + nf stored 29 2 * 2 ^ 29 + b.computing.length * 2 ^ 16 + b.busy.length)

/-- BED_BUSYMAPi as read. -/
def State.busymapNow (s : State) (k i : Nat) : DWord :=
  BitVec.ofNat 64 (((((s.bed k).busy.map fun c => c.slot / 2).dedup.filter fun b => b / 32 = i).map fun b => 2 ^ (b % 32)).sum)

/-- R141: the bed status word. -/
def State.bedWord (s : State) (k : Nat) : List Byte :=
  leBytes 4 (s.bedStatusNow k).toNat ++ leBytes 4 (s.reg (.bedDonecnt k)).toNat

/-- Bytes of a window, as stored. -/
def State.winBytes (s : State) (k o n : Nat) : List Byte := rdBytes s.mem (windowBase k + o) n
def State.setWin (s : State) (k o : Nat) (bs : List Byte) : State := { s with mem := wrBytes s.mem (windowBase k + o) bs }

/-- R137: a read of a window range, current contents at once; none where a byte is unpopulated (kind 1) or lies in the
fence word (kind 3): the kind of the access error. -/
def State.winRead (s : State) (k o n : Nat) : Except Nat (List Byte) :=
  let ps := (List.range n).map fun i => s.winPlace k (o + i)
  if ps.contains .none then .error 1
  else if ps.contains .fence then .error 3
  else .ok ((List.range n).map fun i =>
    if s.winPlace k (o + i) = .status then (s.bedWord k).getD (o + i - statusOff) 0 else rdB s.mem (windowBase k + o + i))

/-! ### Completion (R136, R141, R142) -/

/-- Header of a result slot: seq, state, count. -/
def headerBytes (seq st count : Nat) : List Byte := leBytes 4 seq ++ leBytes 1 st ++ leBytes 3 count

def slotEmpty : Nat := 0
def slotBusy : Nat := 1
def slotDone : Nat := 2
def slotFault : Nat := 3

def faultNotCompute : Nat := 1
def faultBadCommand : Nat := 2
def faultCancelled : Nat := 3
def faultUncorrectable : Nat := 4

/-- Fields of a command (Table 6-5). -/
def cmdF (ws : List Byte) (o n : Nat) : Nat := fieldAt ws o n
def cmdD (ws : List Byte) : Nat := cmdF ws 8 2
def cmdBlocks (ws : List Byte) : Nat := cmdF ws 0xA 2
def cmdGq (ws : List Byte) : Nat := cmdF ws 7 1
def cmdWk (ws : List Byte) : Nat := codeBits (nbit (cmdF ws 5 1) 0)
def cmdWv (ws : List Byte) : Nat := codeBits (nbit (cmdF ws 5 1) 1)
def cmdNotify (ws : List Byte) : Bool := nbit (cmdF ws 5 1) 2
/-- R129: rows of a command. -/
def cmdRows (ws : List Byte) : Nat := cmdBlocks ws * (groupRows (cmdD ws) (cmdWk ws) + groupRows (cmdD ws) (cmdWv ws))
/-- Full token slots of a command. -/
def cmdTokens (ws : List Byte) : Nat := 64 * (cmdBlocks ws - 1) + cmdF ws 0xE 1

/-- R141, R142: count a finished command and raise the completion event where it is asked for. -/
def State.bedFinish (s : State) (k : Nat) (fault notify ready : Bool) : State :=
  let s1 := s.setReg (.bedDonecnt k) (BitVec.ofNat 64 (((s.reg (.bedDonecnt k)).toNat + 1) % 2 ^ 32))
  let s2 := if fault then s1.setBit (.bedStatus k) 30 else s1
  if (ready && s2.regBit (.bedCtl k) 0) || (fault && s2.regBit (.bedCtl k) 1) || notify then s2.raise (srcCore k 3) else s2

/-- Take a command out of the BUSY ones, write its header and finish it. -/
def State.bankEnd (s : State) (k : Nat) (c : BankCmd) (st count : Nat) : State :=
  let b := s.bed k
  let rest := b.busy.filter fun x => x.slot ≠ c.slot
  ((s.setBed k { b with busy := rest }).setWin k (resultOff c.slot) (headerBytes c.seq st count)).bedFinish k (st = slotFault)
    (cmdNotify c.words) rest.isEmpty

/-! ### Modes (R147) -/

/-- Mode that the bed works in now; the register's mode field is the one last written. -/
def State.bedModeNow (s : State) (k : Nat) : Nat := (s.bed k).oldMode.getD (s.regF (.bedMode k) 0 2)

/-! ### Issue (R132, R133) -/

/-- R133: the checks of a command other than the mode check. -/
def cmdOk (ws : List Byte) : Bool :=
  let f := cmdF ws
  f 4 1 = 1 && f 5 1 < 8 && f 6 1 < 16 && (1 ≤ cmdGq ws && cmdGq ws ≤ 8) &&
  (cmdD ws % 32 = 0 && 32 ≤ cmdD ws && cmdD ws ≤ 256) && (1 ≤ cmdBlocks ws && cmdBlocks ws ≤ 4096) &&
  f 0xC 2 < 12288 && (1 ≤ f 0xE 1 && f 0xE 1 ≤ 64) && f 0xF 1 = 0 && (0 < f 0x14 4 && f 0x14 4 % 64 = 0) &&
  ((List.range 40).all fun i => f (0x18 + i) 1 = 0) &&
  cmdGq ws * cmdD ws ≤ 1280 && f 0xC 2 + cmdRows ws ≤ 12288 &&
  decide (f 0x10 4 + (cmdBlocks ws - 1) * f 0x14 4 + 63 ≤ 2 ^ 32 - 1)

/-- R132 to R136: an issue arrives at a command slot of core k. The answer is false for a refused one. -/
def State.issueBank (s : State) (k slot : Nat) (w0 : List Byte) (owner : Option (Nat × Nat)) (tenant node : Nat) : State :=
  let b := s.bed k
  if b.busy.any fun c => c.slot = slot then
    (s.setBit (.bedStatus k) 29).accessError 5 node tenant (windowBase k + commandOff slot)
  else
    let s1 := (s.setWin k (commandOff slot) w0).ctr k 0x30 1
    let ws := s1.winBytes k (commandOff slot) 64
    let fault : Option Nat := if s.regF (.bedMode k) 0 2 = 0 then some faultNotCompute
      else if !cmdOk ws then some faultBadCommand else none
    match fault with
    | some c =>
      (s1.setWin k (resultOff slot) (headerBytes (cmdF ws 0 4) slotFault c)).bedFinish k true (cmdNotify ws) false
    | none =>
      let q := s1.winBytes k (queryOff (cmdF ws 6 1)) (cmdGq ws * 0x200)
      (s1.setWin k (resultOff slot) (headerBytes (cmdF ws 0 4) slotBusy 0)).setBed k
        { b with busy := b.busy ++ [{ slot := slot, seq := cmdF ws 0 4, words := ws, query := q, pending := b.oldMode.isSome,
                                      owner := owner, tenant := tenant }] }

/-- PARTIAL (R133): a single 64-bit write to word 0 of a command slot. -/
def partialCmd (k b slot : Nat) (w0 : DWord) (s : State) : State :=
  if s.dieLost (k / 8) then s.discard 1 8 k noTenant (windowBase k + commandOff (2 * b + slot))
  else if !s.coreEnabled k || s.retired k b then s.accessError 1 0x70 noTenant (windowBase k + commandOff (2 * b + slot))
  else s.issueBank k (2 * b + slot) (leBytes 8 w0.toNat) none noTenant 0x70

def execPartialCmd (core : Fin 64) (bank : Fin 128) (slot : Fin 2) (word0 : DWord) (s : State) :
    Host.Outcome State Fault Refusal := .next (partialCmd core.val bank.val slot.val word0 s)

/-! ### Running a command (R122, R145, R146, R148) -/

/-- A read of a row in progress, with one more sector read; the flag tells of a bad sector. -/
def rowJoin (x : State × Bool × List Byte) (r : State × Decoded) : State × Bool × List Byte :=
  (r.1, x.2.1 || r.2.outcome.isBad, x.2.2 ++ r.2.data)

/-- The same for sector i of the bank's space. -/
def rowSector (k b tenant : Nat) (x : State × Bool × List Byte) (i : Nat) : State × Bool × List Byte :=
  rowJoin x (x.1.readSector (bedAddr k b i) tenant)

/-- Read n bytes of a bank from the start of a row. -/
def State.readRow (s : State) (k b row n tenant : Nat) : State × Bool × List Byte :=
  ((List.range (n / 64)).map (row * 32 + ·)).foldl (rowSector k b tenant) (s, false, [])

/-- Blocks of a command as they are read. -/
structure BlocksRead where
  s : State
  bad : Bool := false
  blocks : List Block := []
deriving DecidableEq, Repr

/-- R122: block i of a command. -/
def BlocksRead.next (x : BlocksRead) (k b tenant : Nat) (ws : List Byte) (i : Nat) : BlocksRead :=
  let d := cmdD ws
  let nk := groupRows d (cmdWk ws)
  let row := cmdF ws 0xC 2 + i * (nk + groupRows d (cmdWv ws))
  let r := x.s.readRow k b row (groupBytes d (cmdWk ws)) tenant
  let v := r.1.readRow k b (row + nk) (groupBytes d (cmdWv ws)) tenant
  { s := v.1, bad := x.bad || r.2.1 || v.2.1,
    blocks := x.blocks ++ [⟨r.2.2, v.2.2, cmdF ws 0x10 4 + i * cmdF ws 0x14 4,
      if i + 1 = cmdBlocks ws then cmdF ws 0xE 1 else 64⟩] }

/-- R122 to R127: the partials of a command over its blocks. -/
def cmdParts (c : BankCmd) (bs : List Block) : List Part :=
  (List.range (cmdGq c.words)).map fun j =>
    let q := queryOf (cmdD c.words) (c.query.drop (j * 0x200))
    bs.foldl (fun p b => p.block (cmdD c.words) (cmdWk c.words) (cmdWv c.words) q b) (Part.start (cmdD c.words))

/-- Replace a BUSY command. -/
def Bed.setCmd (b : Bed) (c : BankCmd) : Bed := { b with busy := b.busy.map fun x => if x.slot = c.slot then c else x }

/-- Start a command: its bank takes the given place in the order of starting, and its rows are read. -/
def State.startBank (s : State) (k : Nat) (c : BankCmd) (order : Nat) : State :=
  let r := (List.range (cmdBlocks c.words)).foldl (fun (x : BlocksRead) i => x.next k (c.slot / 2) c.tenant c.words i) ⟨s, false, []⟩
  let ps := if r.bad then [] else cmdParts c r.blocks
  r.s.setBed k ((r.s.bed k).setCmd { c with state := .running, order := order, payload := payloadOf ps, bad := r.bad,
                                            sats := (ps.map Part.sats).sum })

/-- The first BUSY command of a bank. -/
def Bed.headOf (b : Bed) (bank : Nat) : Option BankCmd := b.busy.find? fun c => c.slot / 2 = bank

/-- Commands whose banks wait to start, in issue order (R148). -/
def Bed.waiting (b : Bed) : List BankCmd :=
  b.busy.filter fun c => c.state = .waiting && !c.pending && !c.follows &&
    (match b.headOf (c.slot / 2) with
     | some h => h.slot = c.slot
     | none => false)

def Bed.runningCount (b : Bed) : Nat := (b.busy.filter fun c => c.state = .running).length
def Bed.anyPaused (b : Bed) : Bool := b.busy.any fun c => c.state = .paused

/-- R147 to R149: a waiting command may start. -/
def State.mayStart (s : State) (k : Nat) (c : BankCmd) : Bool :=
  let b := s.bed k
  let m := s.bedModeNow k
  s.towerRuns (k / 8) && c.state = .waiting && !c.pending && m ≠ 0 &&
  (match b.headOf (c.slot / 2) with
   | some h => h.slot = c.slot
   | none => false) &&
  (c.follows || m = 2 ||
    (b.runningCount < s.regF (.bedQuota k) 0 8 && !b.anyPaused &&
      (match b.waiting with
       | h :: _ => h.slot = c.slot
       | [] => false)))

/-- BANK_COMMAND_START (R148). -/
def bankCommandStart (k slot : Nat) (s : State) : State :=
  let b := s.bed k
  match b.busy.find? fun c => c.slot = slot with
  | some c =>
    if s.mayStart k c then (s.setBed k { b with startOrder := b.startOrder + 1 }).startBank k c b.startOrder else s
  | none => s

def execBankCommandStart (core : Fin 64) (bank : Fin 128) (slot : Fin 2) (s : State) : Host.Outcome State Fault Refusal :=
  .next (bankCommandStart core.val (2 * bank.val + slot.val) s)

/-- R138, R148: after a command the next one of its bank starts without waiting, unless a mode change holds it. -/
def State.followOn (s : State) (k bank order : Nat) : State :=
  match (s.bed k).headOf bank with
  | some c => if c.pending || !s.towerRuns (k / 8) then s.setBed k ((s.bed k).setCmd { c with follows := true })
    else s.startBank k c order
  | none => s

/-- R136, R146: a command ends: DONE with its payload, or FAULT where a row was bad. -/
def State.bankDone (s : State) (k : Nat) (c : BankCmd) : State :=
  let s1 := (s.ctr k 0x31 (cmdRows c.words)).countF (.bedSatcnt k) 0 32 c.sats
  let s2 := if c.bad then s1.bankEnd k c slotFault faultUncorrectable
    else ({ s1 with mem := zeroRange s1.mem (windowBase k + resultOff c.slot + 8) 0x1FF8 }.setWin k (resultOff c.slot + 8)
      c.payload).bankEnd k c slotDone (cmdTokens c.words)
  s2.followOn k (c.slot / 2) c.order

/-- BANK_COMMAND_DONE (R136): a running command has streamed its rows; in TIMING mode every row has had its activation. -/
def bankCommandDone (k slot : Nat) (s : State) : State :=
  match (s.bed k).busy.find? fun c => c.slot = slot with
  | some c =>
    if c.state = .running && s.towerRuns (k / 8) && (s.bedModeNow k ≠ 2 || cmdRows c.words ≤ c.rows) then s.bankDone k c else s
  | none => s

/-- R149: banks that hold an activation back, in round-robin order after the bank last granted; a bank being refreshed
waits (R49). -/
def Bed.held (b : Bed) : List BankCmd :=
  let want := b.busy.filter fun c => c.state = .running && c.rows < cmdRows c.words && !(b.refreshing.any fun r => r.1 = c.slot / 2)
  sortBy (fun c => (c.slot / 2 + 127 - b.rrBank) % 128) want

/-- R149: the timing rules allow one more activation now. -/
def State.timingAllows (s : State) (k : Nat) : Bool :=
  let acts := (s.bed k).acts
  let inTick := (acts.filter fun a => a = s.now).length
  let inWin := (acts.filter fun a => s.now < a + s.regF (.bedTiming1 k) 0 10).length
  inTick < s.regF (.bedTiming0 k) 0 5 && inWin < s.regF (.bedTiming1 k) 16 16

/-- COMPUTE_ACTIVATION (R149). -/
def computeActivation (k : Nat) (s : State) : State :=
  let b := s.bed k
  match b.held with
  | c :: _ =>
    if s.bedModeNow k = 2 && s.timingAllows k && s.towerRuns (k / 8) then
      s.setBed k { b.setCmd { c with rows := c.rows + 1 } with rrBank := c.slot / 2,
                                                               acts := s.now :: b.acts.filter fun a => s.now < a + 1000 }
    else s
  | [] => s

def execComputeActivation (core : Fin 64) (s : State) : Host.Outcome State Fault Refusal := .next (computeActivation core.val s)

/-- BANK_PAUSE (R150): with more banks running than the quota, the one that started last pauses. -/
def bankPause (k : Nat) (s : State) : State :=
  let b := s.bed k
  if s.bedModeNow k = 1 && s.regF (.bedQuota k) 0 8 < b.runningCount then
    match (sortBy (fun c => c.order) (b.busy.filter fun c => c.state = .running)).getLast? with
    | some c => s.setBed k (b.setCmd { c with state := .paused })
    | none => s
  else s

def execBankPause (core : Fin 64) (s : State) : Host.Outcome State Fault Refusal := .next (bankPause core.val s)

/-- BANK_RESUME (R148, R150): the paused bank that started first resumes. -/
def bankResume (k : Nat) (s : State) : State :=
  let b := s.bed k
  if b.runningCount < s.regF (.bedQuota k) 0 8 then
    match sortBy (fun c => c.order) (b.busy.filter fun c => c.state = .paused) with
    | c :: _ => s.setBed k (b.setCmd { c with state := .running })
    | [] => s
  else s

def execBankResume (core : Fin 64) (s : State) : Host.Outcome State Fault Refusal := .next (bankResume core.val s)

/-- BANK_ORDINARY_ACCESS (R151): a computing bank serves an ordinary access between two rows. Neither changes the other's
result, and the access itself is its own command, so nothing else changes. -/
def execBankOrdinaryAccess (_core : Fin 64) (_bank : Fin 128) (s : State) : Host.Outcome State Fault Refusal := .next s

/-! ### Control (R139, R143, R144, R147, R150) -/

/-- R143: every BUSY command ends in FAULT CANCELLED. -/
def State.bedCancel (s : State) (k : Nat) : State :=
  (s.bed k).busy.foldl (fun s c => s.bankEnd k c slotFault faultCancelled) s

/-- R144: cancel, then every slot EMPTY and every command slot and query buffer zero. -/
def State.bedClear (s : State) (k : Nat) : State :=
  let s1 := s.bedCancel k
  { s1 with mem := zeroRange s1.mem (windowBase k) 0x100000000 }

/-- A write of BED_CTL (Table 6-13). -/
def State.bedCtlWrite (s : State) (k : Nat) (v : DWord) : State :=
  let s1 := s.plainWrite (.bedCtl k) v
  let s2 := if nbit v.toNat 31 then s1.bedCancel k else s1
  if nbit v.toNat 30 then s2.bedClear k else s2

def execBedCtlCancel (core : Fin 64) (value : Word) (s : State) : Host.Outcome State Fault Refusal :=
  .next (if !s.dieLost (core.val / 8) && nbit value.toNat 31 then s.bedCtlWrite core.val (value.setWidth 64) else s)

def execBedCtlClear (core : Fin 64) (value : Word) (s : State) : Host.Outcome State Fault Refusal :=
  .next (if !s.dieLost (core.val / 8) && nbit value.toNat 30 then s.bedCtlWrite core.val (value.setWidth 64) else s)

/-- A write of BED_MODE (R147). A write during a pending change starts from the mode in force; one that turns to ORDINARY
before the units have woken lets earlier commands run in the mode they were issued for (log entry 41). -/
def State.bedModeWrite (s : State) (k : Nat) (v : DWord) : State :=
  let was := s.regF (.bedMode k) 0 2
  let s1 := s.plainWrite (.bedMode k) v
  let new := s1.regF (.bedMode k) 0 2
  if new = was then s1
  else
    let b := s.bed k
    let now := b.oldMode.getD was
    let b1 := if new = 0 then { b with oldMode := some (if now = 0 then was else now),
                                       busy := b.busy.map fun c => { c with pending := false } }
      else { b with oldMode := some now }
    (s1.setBed k b1).setBit (.bedMode k) 8

def execBedModeWrite (core : Fin 64) (value : Word) (s : State) : Host.Outcome State Fault Refusal :=
  .next (if !s.dieLost (core.val / 8) then s.bedModeWrite core.val (value.setWidth 64) else s)

/-- BED_MODE_CHANGE_COMPLETE (R147): the units have woken, or the commands issued before the change have finished. -/
def bedModeChangeComplete (k : Nat) (s : State) : State :=
  let b := s.bed k
  match b.oldMode with
  | some m =>
    if m = 0 || b.busy.all fun c => c.pending then
      (s.setBed k { b with oldMode := none, busy := b.busy.map fun c => { c with pending := false } }).clrBit (.bedMode k) 8
    else s
  | none => s

def execBedModeChangeComplete (core : Fin 64) (s : State) : Host.Outcome State Fault Refusal :=
  .next (bedModeChangeComplete core.val s)

/-- BED_LIMIT_WRITE (R150): BED_QUOTA, BED_TIMING0 or BED_TIMING1. -/
def execBedLimitWrite (core : Fin 64) (which : Fin 3) (value : Word) (s : State) : Host.Outcome State Fault Refusal :=
  let r : Reg := if which.val = 0 then .bedQuota core.val else if which.val = 1 then .bedTiming0 core.val else .bedTiming1 core.val
  .next (if !s.dieLost (core.val / 8) then s.plainWrite r (value.setWidth 64) else s)

/-- An RSP of a node of this package to a message. -/
def State.answerMsg (s : State) (m : Msg) (node op status len : Nat) (payload : List Byte) : State :=
  s.respond ((nodeDie node).getD 8) (m.reply s.pkgId node op status len payload)

/-- Status codes of an RSP (Table 9-4). -/
def rspOk : Nat := 0
def rspAddress : Nat := 1
def rspPoisoned : Nat := 2
def rspNodeLost : Nat := 3
def rspSegment : Nat := 4

/-- BED_FENCE (R139): writes are accepted as they arrive (log entry 20), so the response returns at once; a lost die
answers NODE_LOST, a core that is not enabled an address error (R18, R19). -/
def bedFence (k : Nat) (m : Msg) (s : State) : State :=
  if s.dieLost (k / 8) || num s.coreState k = 3 then s.answerMsg m k 2 rspNodeLost 0 []
  else if !s.coreEnabled k then
    (s.accessError 1 m.srcNode.toNat m.tenant.toNat (windowBase k + fenceOff)).answerMsg m k 2 rspAddress 0 []
  else s.answerMsg m k 1 rspOk 0 []

def execBedFence (core : Fin 64) (m : Msg) (s : State) : Host.Outcome State Fault Refusal := .next (bedFence core.val m s)

/-! ### Refresh (R48, R49) -/

/-- Ticks between refreshes of a bank, and ticks that one takes (88 ns, started ticks). -/
def refreshTicks : Nat := 390
def refreshBusy : Nat := 18

/-- BANK_REFRESH (R48): bank b starts its refresh b/128 into the interval (log entry 42). -/
def bankRefresh (k b : Nat) (s : State) : State :=
  let x := s.bed k
  if (s.dom (k / 8)).state = .on && s.now % refreshTicks = refreshTicks * b / 128 && !(x.refreshing.any fun r => r.1 = b) then
    s.setBed k { x with refreshing := insertKey b s.now x.refreshing }
  else s

def execBankRefresh (core : Fin 64) (bank : Fin 128) (s : State) : Host.Outcome State Fault Refusal :=
  .next (bankRefresh core.val bank.val s)

/-- REFRESH_COMPLETE (R49). -/
def refreshComplete (k b : Nat) (s : State) : State :=
  let x := s.bed k
  match x.refreshing.find? fun r => r.1 = b with
  | some (_, at_) => if at_ + refreshBusy ≤ s.now then s.setBed k { x with refreshing := removeKey b x.refreshing } else s
  | none => s

def execRefreshComplete (core : Fin 64) (bank : Fin 128) (s : State) : Host.Outcome State Fault Refusal :=
  .next (refreshComplete core.val bank.val s)

end Sys2Proof.Machine
end

