-- ==== Sys2Proof/Machine/Cache.lean ====
section
/-! DEFINITION. The key/value cache (R154 to R164): context maps, KV_APPEND and KV_SCATTER, and how operations that hold
the chain wait for it (R90). -/

namespace Sys2Proof.Machine

/-! ### Waiting for the chain (R90, R258) -/

/-- Nothing on a core waits for or holds the chain. -/
def State.chainFree (s : State) (k : Nat) : Bool := (s.chainWants k).isEmpty

/-- An operation with an internal chain configuration runs at once on a free chain, else it waits for its turn. -/
def State.runOnChain (s : State) (l : WorkList) (o : Op) (run : State → WorkList → Op → State) : State :=
  if s.chainFree o.core then run s l o
  else
    let c := s.coreUnit o.core
    s.setCoreUnit o.core { c with chainQ := c.chainQ ++ [{ list := l.id, op := o.offset, row0 := 0, col0 := 0, rows := 1,
                                                           cols := 1, fused := false }] }

/-- Report FP32 saturations and made NaNs of an internal configuration, in bit 0 (R81), writer saturations, and beats. -/
def State.internalReport (s : State) (k sats made wr beats : Nat) : State :=
  (s.chainReport k { satMask := if sats = 0 then 0 else 1, nanMask := if made = 0 then 0 else 1, sats := sats,
                     wrSats := wr }).ctr k 0x10 beats

/-- An operation ends with its steps. -/
def State.endWith (s : State) (l : WorkList) (o : Op) (steps aux status detail : Nat) : State :=
  (s.addSteps l.id o.offset steps aux).finishOp l.id o.offset status detail

/-! ### Context maps (R155 to R159) -/

structure CtxMap where
  bytes : List Byte
deriving DecidableEq, Repr

def CtxMap.f (m : CtxMap) (o n : Nat) : Nat := fieldAt m.bytes o n
def CtxMap.d (m : CtxMap) : Nat := m.f 0 2
def CtxMap.widths (m : CtxMap) : Nat := m.f 2 1
def CtxMap.wk (m : CtxMap) : Nat := codeBits (nbit m.widths 0)
def CtxMap.wv (m : CtxMap) : Nat := codeBits (nbit m.widths 1)
def CtxMap.g (m : CtxMap) : Nat := m.f 3 1
def CtxMap.layers (m : CtxMap) : Nat := m.f 4 2
def CtxMap.heads (m : CtxMap) : Nat := m.f 6 1
def CtxMap.baseRow (m : CtxMap) : Nat := m.f 8 2
def CtxMap.blocks (m : CtxMap) : Nat := m.f 0xC 4
def CtxMap.posBase (m : CtxMap) : Nat := m.f 0x10 4
/-- Banks of the set, ascending. -/
def CtxMap.banks (m : CtxMap) : List Nat := (List.range 128).filter fun b => nbit (m.f 0x20 16) b
def CtxMap.nb (m : CtxMap) : Nat := m.banks.length
/-- Member words. -/
def CtxMap.member (m : CtxMap) (i : Nat) : Nat := m.f (0x40 + 4 * i) 4
def CtxMap.core (m : CtxMap) (i : Nat) : Nat := nf (m.member i) 0 8
def CtxMap.segOf (m : CtxMap) (i : Nat) : Nat := nf (m.member i) 8 4
def CtxMap.cores (m : CtxMap) : List Nat := (List.range m.g).map m.core
def CtxMap.nk (m : CtxMap) : Nat := groupRows m.d m.wk
def CtxMap.nv (m : CtxMap) : Nat := groupRows m.d m.wv
/-- R156: rows of a block and the period of the walk. -/
def CtxMap.nBlk (m : CtxMap) : Nat := m.nk + m.nv
def CtxMap.p (m : CtxMap) : Nat := m.g * m.nb
/-- R157: rows used in every bank. -/
def CtxMap.rows (m : CtxMap) : Nat := ceilDiv (m.layers * m.heads * m.blocks) m.p * m.nBlk

/-- R156: member, bank and first row of block i of stream st. -/
structure BlockAt where
  member : Nat
  bank : Nat
  row : Nat
deriving DecidableEq, Repr

def CtxMap.blockAt (m : CtxMap) (st i : Nat) : BlockAt :=
  let u := st * m.blocks + i
  let j := u % m.p
  ⟨j % m.g, m.banks.getD (j / m.g) 0, m.baseRow + u / m.p * m.nBlk⟩

/-- R157: the conditions on a map, other than lost members. -/
def State.mapOk (s : State) (m : CtxMap) : Bool :=
  m.d % 32 = 0 && 32 ≤ m.d && m.d ≤ 256 && m.widths < 4 && 1 ≤ m.g && m.g ≤ 64 && 1 ≤ m.layers && m.layers ≤ 1024 &&
  1 ≤ m.heads && m.heads ≤ 64 && m.f 7 1 = 0 && m.baseRow < 12288 && m.f 0xA 2 = 0 && 1 ≤ m.blocks && m.blocks ≤ 65536 &&
  m.posBase % 64 = 0 && m.f 0x14 12 = 0 && m.f 0x30 16 = 0 &&
  ((List.range m.g).all fun i => m.member i < 4096 && s.coreEnabled (m.core i)) &&
  decide m.cores.Nodup && 0 < m.nb && (m.cores.all fun k => m.banks.all fun b => !s.retired k b) &&
  m.baseRow + m.rows ≤ 12288 && m.posBase + 64 * m.blocks ≤ 2 ^ 32

/-- R159: some member core is lost. -/
def State.mapLost (s : State) (m : CtxMap) : Bool := m.cores.any fun k => num s.coreState k = 3

/-- R158: every member segment is a bed segment of its core that covers the map's rows with the rights needed. -/
def State.mapSegs (s : State) (t : Nat) (m : CtxMap) (right : Nat) : Bool :=
  (List.range m.g).all fun i =>
    match s.seg? t (m.segOf i) with
    | some g =>
      g.bed && g.core = m.core i && Nat.land g.rights right = right &&
      decide (g.base ≤ bedBase g.core + m.baseRow * 0x40000) &&
      decide (bedBase g.core + (m.baseRow + m.rows) * 0x40000 ≤ g.base + g.size)
    | none => false

/-- A map as read by an operation. -/
structure MapRead where
  s : State
  err : OpErr
  map : CtxMap
deriving DecidableEq, Repr

/-- R155, R157 to R159: read a map on core k and check it; failures carry `detail`. R158's segments are checked for the
right given; KV_APPEND, which reaches no member's bed, gives none (0). -/
def State.readMap (s : State) (k t ref right detail : Nat) : MapRead :=
  let none' : CtxMap := ⟨[]⟩
  if !(refOk ref && refSpace ref = 1 && refOff ref % 64 = 0) then ⟨s, malformed detail, none'⟩
  else
    match s.resolve t ref (plain 64) rRead with
    | none => ⟨s, segErr detail, none'⟩
    | some p =>
      let h := s.opRead k t p 64
      if h.acc ≠ .ok then ⟨h.s, some (h.acc.status, detail), none'⟩
      else
        let g := fieldAt h.data 3 1
        if g = 0 || 64 < g then ⟨h.s, malformed detail, none'⟩
        else
          match s.resolve t ref (plain (64 + 4 * g)) rRead with
          | none => ⟨h.s, segErr detail, none'⟩
          | some p =>
            let r := h.s.opRead k t (p.plus 64) (4 * g)
            let m : CtxMap := ⟨h.data ++ r.data⟩
            let err : OpErr :=
              if r.acc ≠ .ok then some (r.acc.status, detail)
              else if s.mapLost m then some (osTowerLost, 0)
              else if !s.mapOk m then malformed detail
              else if right ≠ 0 && !s.mapSegs t m right then segErr detail
              else none
            ⟨r.s, err, m⟩

/-! ### KV_APPEND (R109, R110, R160) -/

/-- The largest |x| of a group; an infinity is the largest of all. -/
def amaxOf (xs : List Word) : Val :=
  xs.foldl (fun (a : Val) x => if a.lt (v32 x).abs then (v32 x).abs else a) (.fin false 0 1)

/-- A quantised group: codes, scale bits and the saturations of each element (R110). -/
structure KvGroup where
  codes : List Int
  scale : Nat
  sats : List Nat
deriving DecidableEq, Repr

/-- R110: quantise 32 channels to codes of w bits. -/
def quantGroup (w : Nat) (xs : List Word) : KvGroup :=
  let q := if w = 4 then 7 else 127
  let zeros := xs.map fun _ => (0 : Int)
  if xs.any isNan32 then ⟨zeros, 0x7E00, xs.map fun _ => 1⟩
  else
    let s := encodeF fp16 ((amaxOf xs).div (.fin false q 1))
    if s.bits = 0 then ⟨zeros, 0, xs.map fun _ => 0⟩
    else
      let r := xs.map fun x => encodeI (-q - 1) q 0 ((v32 x).div (decodeF fp16 s.bits))
      ⟨r.map (·.1), s.bits, r.mapIdx fun i e => b2n e.2 + (if i = 0 then b2n s.sat else 0)⟩

/-- A quantised vector: its bytes and the saturations of its elements in order. -/
structure KvQuant where
  bytes : List Byte
  sats : List Nat
deriving DecidableEq, Repr

/-- R109: a vector of D channels. -/
def quantVec (w : Nat) (xs : List Word) : KvQuant :=
  let gs := (chunks 32 (xs.length + 1) xs).map (quantGroup w)
  let codes := gs.flatMap fun g => g.codes
  ⟨packElems (if w = 4 then 0 else 1) (codes.map (ofSigned w)) ++ gs.flatMap fun g => leBytes 2 g.scale, gs.flatMap fun g => g.sats⟩

/-- Table 7-2: bytes of a quantised vector. -/
def vecBytes (d w : Nat) : Nat := d * w / 8 + d / 16

def kaTokens (o : Op) : Nat := o.f 0x28 4

/-- R160: place of a key or value tensor. -/
def storeRef (ref : Nat) : Bool := refOk ref && (refSpace ref = 2 || refSpace ref = 3)

/-- KV_APPEND's own rules and extents. -/
def kvAppendRules (s : State) (l : WorkList) (o : Op) : OpErr :=
  let t := l.tenant
  let r := s.readMap o.core t (o.f 8 8) 0 8
  orErr r.err
  (orErr (need (storeRef (o.f 0x10 8)) (malformed 0x10))
  (orErr (need (storeRef (o.f 0x18 8)) (malformed 0x18))
  (orErr (need (refOk (o.f 0x20 8) && (refSpace (o.f 0x20 8) = 3 || (refSpace (o.f 0x20 8) = 1 &&
      (s.refOwnBed t o.core (o.f 0x20 8) || s.refSegMissing t (o.f 0x20 8))))) (malformed 0x20))
  (orErr (need (1 ≤ kaTokens o && kaTokens o ≤ 65536) (malformed 0x28))
    (let n := kaTokens o * r.map.heads
     let ok (ref size right d : Nat) : OpErr := need (s.resolve t ref (plain size) right).isSome (segErr d)
     orErr (ok (o.f 0x10 8) (n * r.map.d * 4) rRead 0x10)
     (orErr (ok (o.f 0x18 8) (n * r.map.d * 4) rRead 0x18)
       (ok (o.f 0x20 8) (n * (vecBytes r.map.d r.map.wk + vecBytes r.map.d r.map.wv)) rWrite 0x20)))))))

/-- Words of a byte list. -/
def wordsOf (bs : List Byte) (n : Nat) : List Word := (List.range n).map fun i => BitVec.ofNat 32 (fieldAt bs (4 * i) 4)

/-- R160: every vector in append-buffer order; codes counted by counter 8 in that order. -/
def State.runKvAppend (s : State) (l : WorkList) (o : Op) : State :=
  let s0 := s.startOp l.id o.offset
  let r := s0.readMap o.core l.tenant (o.f 8 8) 0 8
  match r.err with
  | some e => r.s.finishOp l.id o.offset e.1 e.2
  | none =>
    let m := r.map
    let n := kaTokens o * m.heads
    match r.s.resolve l.tenant (o.f 0x10 8) (plain 0) rRead, r.s.resolve l.tenant (o.f 0x18 8) (plain 0) rRead,
        r.s.resolve l.tenant (o.f 0x20 8) (plain 0) rWrite with
    | some pk, some pv, some out =>
      let ks := r.s.opRead o.core l.tenant pk (n * m.d * 4)
      let vs := ks.s.opRead o.core l.tenant pv (n * m.d * 4)
      let qs := (List.range n).flatMap fun i =>
        [quantVec m.wk (wordsOf (ks.data.drop (i * m.d * 4)) m.d), quantVec m.wv (wordsOf (vs.data.drop (i * m.d * 4)) m.d)]
      let s1 := vs.s.qsCount o.core 8 (qs.flatMap fun q => q.sats)
      let w := s1.opWrite o.core l.tenant out (qs.flatMap fun q => q.bytes)
      let beats := beatCount (2 * n) m.d
      (w.1.ctr o.core 0x10 beats).endWith l o (beats + 95) 0 w.2.status 0
    | _, _, _ => r.s.finishOp l.id o.offset osSegment 0x20

/-- KV_APPEND (R160). -/
def execKvAppend (list : Nat) (early : Option (List Byte)) (s : State) : Host.Outcome State Fault Refusal :=
  .next (s.issueOp list early 0x04 kvAppendRules fun s l o => s.runOnChain l o State.runKvAppend)

/-! ### KV_SCATTER (R161 to R163) -/

def ksTokens (o : Op) : Nat := o.f 0x20 4
def ksLayer (o : Op) : Nat := o.f 0x24 2

def kvScatterRules (s : State) (l : WorkList) (o : Op) : OpErr :=
  let t := l.tenant
  let r := s.readMap o.core t (o.f 8 8) rWrite 8
  let late : OpErr := match r.err with
    | some (st, d) => if st = osSegment then some (st, d) else none
    | none => none
  orErr (if late.isSome then none else r.err)
  (orErr (need (o.f 0x10 8 ≠ 0 && refOk (o.f 0x10 8)) (malformed 0x10))
  (orErr (need (o.f 0x18 8 ≠ 0 && refOk (o.f 0x18 8)) (malformed 0x18))
  (orErr (need (1 ≤ ksTokens o && ksTokens o ≤ 65536) (malformed 0x20))
  (orErr (need (late.isSome || ksLayer o < r.map.layers) (malformed 0x24))
  (orErr late
    (let n := ksTokens o * r.map.heads
     orErr (need (s.resolve t (o.f 0x10 8) (plain (n * (vecBytes r.map.d r.map.wk + vecBytes r.map.d r.map.wv))) rRead).isSome
       (segErr 0x10))
       (need (s.resolve t (o.f 0x18 8) (plain (4 * ksTokens o)) rRead).isSome (segErr 0x18))))))))

/-- R117: the pieces of n bank-local bytes from a: bed offset and length, cut at 512-byte pieces. -/
def bankPieces (b : Nat) : Nat → Nat → Nat → List (Nat × Nat)
  | 0, _, _ => []
  | fuel + 1, a, n =>
    if n = 0 then []
    else
      let len := min n (512 - a % 512)
      (bedOffset b a, len) :: bankPieces b fuel (a + len) (n - len)

/-- R116: write bank-local bytes through the member's bed port. -/
def State.bankWrite (s : State) (from_ tenant k b a : Nat) (bs : List Byte) : State × Acc :=
  let r := (bankPieces b 8 a bs.length).foldl (fun (x : State × Acc × List Byte) p =>
    let w := x.1.writeMem (bedBase k + p.1) tenant from_ (x.2.2.take p.2)
    (w.1.ctr from_ (if k = from_ then 0x21 else 0x22) 1, x.2.1.first w.2, x.2.2.drop p.2)) (s, .ok, bs)
  (r.1, r.2.1)

/-- R161: the four pieces of one (token, head): bank-local offset in the block and bytes. -/
def kvPieces (m : CtxMap) (row slot : Nat) (vec : List Byte) : List (Nat × List Byte) :=
  let ck := m.d * m.wk / 8
  let cv := m.d * m.wv / 8
  let sc := m.d / 16
  let kAt := row * 2048
  let vAt := (row + m.nk) * 2048
  let v := vec.drop (ck + sc)
  [(kAt + slot * ck, vec.take ck), (kAt + 64 * ck + slot * sc, (vec.drop ck).take sc),
   (vAt + slot * cv, v.take cv), (vAt + 64 * cv + slot * sc, (v.drop cv).take sc)]

/-- What a scatter has done so far. -/
structure ScatterRun where
  s : State
  acc : Acc := .ok
  steps : Nat := 0
deriving DecidableEq, Repr

/-- R154, R161: one token and head. -/
def ScatterRun.slot (x : ScatterRun) (l : WorkList) (o : Op) (m : CtxMap) (pos head : Nat) (vec : List Byte) : ScatterRun :=
  let i := (pos - m.posBase) / 64
  let at_ := m.blockAt (ksLayer o * m.heads + head) i
  (kvPieces m at_.row ((pos - m.posBase) % 64) vec).foldl (fun (x : ScatterRun) p =>
    let w := x.s.bankWrite o.core l.tenant (m.core at_.member) at_.bank p.1 p.2
    ⟨w.1, x.acc.first w.2, x.steps + ceilDiv p.2.length 64⟩) x

/-- R161: check every position, then write. -/
def State.runKvScatter (s : State) (l : WorkList) (o : Op) : State :=
  let s0 := s.startOp l.id o.offset
  let r := s0.readMap o.core l.tenant (o.f 8 8) rWrite 8
  match r.err, r.s.resolve l.tenant (o.f 0x10 8) (plain 0) rRead, r.s.resolve l.tenant (o.f 0x18 8) (plain 0) rRead with
  | none, some buf, some pp =>
    let m := r.map
    let size := vecBytes m.d m.wk + vecBytes m.d m.wv
    let ps := r.s.opRead o.core l.tenant pp (4 * ksTokens o)
    let bs := ps.s.opRead o.core l.tenant buf (ksTokens o * m.heads * size)
    let pos := (List.range (ksTokens o)).map fun i => fieldAt ps.data (4 * i) 4
    if ps.acc ≠ .ok then ps.s.finishOp l.id o.offset ps.acc.status 0
    else if pos.any fun p => p < m.posBase || m.posBase + 64 * m.blocks ≤ p then ps.s.finishOp l.id o.offset osMalformed 0x18
    else if bs.acc ≠ .ok then bs.s.finishOp l.id o.offset bs.acc.status 0
    else
      let x := (List.range (ksTokens o * m.heads)).foldl (fun (x : ScatterRun) i =>
        x.slot l o m (pos.getD (i / m.heads) 0) (i % m.heads) ((bs.data.drop (i * size)).take size)) ⟨bs.s, .ok, 0⟩
      (x.s.ctr o.core 0x40 x.steps).endWith l o x.steps 0 (if x.acc = .lost then osTowerLost else x.acc.status) 0
  | some e, _, _ => r.s.finishOp l.id o.offset e.1 e.2
  | _, _, _ => r.s.finishOp l.id o.offset osSegment 0x10

/-- KV_SCATTER (R161, R163). -/
def execKvScatter (list : Nat) (early : Option (List Byte)) (s : State) : Host.Outcome State Fault Refusal :=
  .next (s.issueOp list early 0x05 kvScatterRules State.runKvScatter)

end Sys2Proof.Machine
end

