-- ==== Sys2Proof/Machine/BankAttend.lean ====
section
/-! DEFINITION. Batch entries and the sieve (R165 to R168), BANK_ATTEND (R175 to R178, R183) and MERGE (R179, R180). -/

namespace Sys2Proof.Machine

/-! ### Batch entries (Table 7-3) -/

structure Entry where
  bytes : List Byte
deriving DecidableEq, Repr

def Entry.f (e : Entry) (o n : Nat) : Nat := fieldAt e.bytes o n
def Entry.n (e : Entry) : Nat := e.f 0 4
def Entry.qPos (e : Entry) : Nat := e.f 4 4
def Entry.qRows (e : Entry) : Nat := e.f 8 4
def Entry.hasPrefix (e : Entry) : Bool := nbit (e.f 0xC 4) 0
def Entry.prefixRef (e : Entry) : Nat := e.f 0x10 8
def Entry.mapRef (e : Entry) : Nat := e.f 0x18 8
def Entry.queries (e : Entry) : Nat := e.f 0x20 8
def Entry.output (e : Entry) : Nat := e.f 0x28 8

/-- Fields of Table 11-8. -/
def baEntries (o : Op) : Nat := o.f 0x30 2
def baLayer (o : Op) : Nat := o.f 0x32 2
def baGq (o : Op) : Nat := o.f 0x34 1

/-- R167: the class of a length. -/
def sieveClass (n : Nat) : Nat :=
  if n ≤ 4096 then 0 else if n ≤ 16384 then 1 else if n ≤ 65536 then 2 else if n ≤ 262144 then 3 else if n ≤ 524288 then 4
  else if n ≤ 1048576 then 5 else if n ≤ 2097152 then 6 else 7

/-- R167: steps of the sieve. -/
def sieveSteps (entries : Nat) : Nat := 64 + 2 * entries

/-- R168: dispatch order: longest class first, table order within. -/
def dispatchOrder {α : Type} (n : α → Nat) (es : List α) : List α :=
  (List.range 8).reverse.flatMap fun c => es.filter fun e => sieveClass (n e) = c

/-- An entry with the maps it names, the prefix map first if there is one. -/
structure EntryMaps where
  index : Nat
  entry : Entry
  pre : Option CtxMap
  own : CtxMap
deriving DecidableEq, Repr

/-- Maps of an entry with how many tokens it reads of each and the number of the first set (R166, R175, R176). -/
def EntryMaps.parts (e : EntryMaps) : List (CtxMap × Nat × Nat) :=
  let len := e.own.posBase
  match e.pre with
  | some p => [(p, min e.entry.n len, 0), (e.own, e.entry.n - len, p.g)]
  | none => [(e.own, e.entry.n, 0)]

/-- Gt: sets of one KV head. -/
def EntryMaps.gt (e : EntryMaps) : Nat := e.own.g + ((e.pre.map CtxMap.g).getD 0)

/-- R166: the conditions on an entry and its maps, besides the maps' own. -/
def EntryMaps.ok (e : EntryMaps) (layer : Nat) : Bool :=
  let len := e.own.posBase
  (match e.pre with
   | some p => p.posBase = 0 && len ≤ 64 * p.blocks && p.d = e.own.d && p.widths = e.own.widths && p.heads = e.own.heads &&
       layer < p.layers
   | none => len = 0) &&
  e.entry.n ≤ len + 64 * e.own.blocks && layer < e.own.layers

/-- A batch as read. -/
structure BatchRead where
  s : State
  err : OpErr
  entries : List EntryMaps
deriving DecidableEq, Repr

/-- One entry: its own fields (`fields`), its maps, and the conditions between them. -/
def BatchRead.entry (x : BatchRead) (k t right layer : Nat) (fields : Entry → Bool) (i : Nat) (bs : List Byte) : BatchRead :=
  if x.err.isSome then x
  else
    let e : Entry := ⟨bs⟩
    if !fields e || e.f 0x30 16 ≠ 0 || e.f 0xC 4 ≥ 2 || (e.hasPrefix != decide (e.prefixRef ≠ 0)) || 4194304 < e.n then
      { x with err := malformed 8 }
    else
      let p := if e.hasPrefix then x.s.readMap k t e.prefixRef right 8 else ⟨x.s, none, ⟨[]⟩⟩
      let m := p.s.readMap k t e.mapRef right 8
      let r : EntryMaps := ⟨i, e, if e.hasPrefix then some p.map else none, m.map⟩
      { s := m.s, err := orErr p.err (orErr m.err (need (r.ok layer) (malformed 8))), entries := x.entries ++ [r] }

/-- R165 to R167: the batch table of an operation; any breach fails the whole operation. -/
def State.readBatch (s : State) (t : Nat) (o : Op) (right : Nat) (fields : Entry → Bool) : BatchRead :=
  let ref := o.f 8 8
  if !(refOk ref && refSpace ref = 1 && refOff ref % 64 = 0) then ⟨s, malformed 8, []⟩
  else if !(1 ≤ baEntries o && baEntries o ≤ 1024) then ⟨s, malformed 0x30, []⟩
  else if !(1 ≤ baGq o && baGq o ≤ 8) then ⟨s, malformed 0x34, []⟩
  else
    match s.resolve t ref (plain (64 * baEntries o)) rRead with
    | none => ⟨s, segErr 8, []⟩
    | some p =>
      let r := s.opRead o.core t p (64 * baEntries o)
      if r.acc ≠ .ok then ⟨r.s, some (r.acc.status, 8), []⟩
      else (List.range (baEntries o)).foldl (fun (x : BatchRead) i =>
        x.entry o.core t right (baLayer o) fields i ((r.data.drop (64 * i)).take 64)) ⟨r.s, none, []⟩

/-! ### BANK_ATTEND: the plan (R175, R176) -/

/-- R176: the commands of one bank of a member: stream st, n_m tokens. -/
def bankOrders (m : CtxMap) (member st nm beta : Nat) : List BankOrder :=
  let j := member + m.g * beta
  let i0 := ((j : Int) - (st * m.blocks : Nat)) % (m.p : Int) |>.toNat
  let nb := ceilDiv nm 64
  if nb ≤ i0 then []
  else
    let count := ceilDiv (nb - i0) m.p
    let row0 := m.baseRow + (st * m.blocks + i0) / m.p * m.nBlk
    let step := 126 / m.nBlk
    let holdsLast := (nb - 1 - i0) % m.p = 0
    (List.range (ceilDiv count step)).map fun c =>
      let n := min step (count - c * step)
      { bank := m.banks.getD beta 0, row := row0 + c * step * m.nBlk, blocks := n,
        last := if holdsLast && c * step + n = count then nm - 64 * (nb - 1) else 64,
        p0 := m.posBase + 64 * (i0 + c * step * m.p) }

/-- The sets of one entry, KV head and map. -/
def setPlan (e : EntryMaps) (layer gq h : Nat) (part : CtxMap × Nat × Nat) : SetPlan :=
  let m := part.1
  let size := setSize gq m.d
  { entry := e.index, queries := e.entry.queries, queryOff := h * gq * 0x200, output := e.entry.output, d := m.d,
    widths := m.widths, pstride := 64 * m.p,
    members := (List.range m.g).map fun i =>
      { core := m.core i, setOff := (h * e.gt + part.2.2 + i) * size,
        orders := (List.range m.nb).flatMap fun b => bankOrders m i (layer * m.heads + h) part.2.1 b } }

/-- All sets of an operation, in dispatch order (R168). -/
def planOf (o : Op) (es : List EntryMaps) : List SetPlan :=
  (dispatchOrder (fun e : EntryMaps => e.entry.n) es).flatMap fun e =>
    (List.range e.own.heads).flatMap fun h => e.parts.map fun p => setPlan e (baLayer o) (baGq o) h p

/-- An entry's extents: query records and output (R175). -/
def State.baExtents (s : State) (t gq : Nat) (e : EntryMaps) : OpErr :=
  orErr (need (refOk e.entry.queries && e.entry.queries ≠ 0 && refOk e.entry.output && e.entry.output ≠ 0) (malformed 8))
    (need ((s.resolve t e.entry.queries (plain (e.own.heads * gq * 0x200)) rRead).isSome &&
      (s.resolve t e.entry.output (plain (e.own.heads * e.gt * setSize gq e.own.d)) rWrite).isSome) (segErr 8))

/-- BANK_ATTEND's fields of an entry. -/
def baFields (e : Entry) : Bool := e.qPos = 0 && e.qRows = 0

def bankAttendRules (s : State) (l : WorkList) (o : Op) : OpErr :=
  let r := s.readBatch l.tenant o rBank baFields
  orErr r.err
    ((r.entries.map fun e => s.baExtents l.tenant (baGq o) e).foldl orErr none)

/-! ### BANK_ATTEND: issue and fold (R177, R178, R183) -/

/-- Table 6-5: the words of a command. -/
def orderWords (p : SetPlan) (gq seq qbuf : Nat) (x : BankOrder) : List Byte :=
  leBytes 4 seq ++ [1] ++ leBytes 1 p.widths ++ leBytes 1 qbuf ++ leBytes 1 gq ++ leBytes 2 p.d ++ leBytes 2 x.blocks ++
  leBytes 2 x.row ++ leBytes 1 x.last ++ [0] ++ leBytes 4 x.p0 ++ leBytes 4 p.pstride ++ List.replicate 40 0

/-- The operations of running BANK_ATTENDs that have work on a core, in the order in which they were received. -/
def State.bankOps (s : State) (k : Nat) : List (WorkList × Op) :=
  sortBy (fun e => e.2.order) (s.lists.flatMap fun l =>
    (l.ops.filter fun o => o.opcode = 6 && o.stage = .started &&
      ((o.plan.drop o.tile).any fun p => p.members.any fun m => m.core = k)).map fun o => (l, o))

/-- Slots of a core's bed that some operation has not read yet (R183). -/
def State.heldSlots (s : State) (k : Nat) : List Nat :=
  (s.bankOps k).flatMap fun e =>
    match e.2.plan[e.2.tile]? with
    | some p => (List.zip p.members e.2.members).flatMap fun m => if m.1.core = k then m.2.held.map fun h => h.2.1 else []
    | none => []

/-- R177: a set's header and payload in the output. -/
def State.writeSet (s : State) (l : WorkList) (o : Op) (p : SetPlan) (m : MemberPlan) (payload : Option (List Byte))
    (st count : Nat) : State × Acc :=
  match s.resolve l.tenant p.output (plain (m.setOff + setSize (baGq o) p.d)) rWrite with
  | none => (s, .refused)
  | some q =>
    let a : State × Acc := match payload with
      | some bs => s.opWrite o.core l.tenant (q.plus (m.setOff + 8)) bs
      | none => (s, .ok)
    let b := a.1.opWrite o.core l.tenant (q.plus m.setOff) (headerBytes p.entry st count)
    (b.1, a.2.first b.2)

/-- Leave an operation's bank commands to finish unread. -/
def State.disown (s : State) (id off : Nat) : State :=
  { s with beds := s.beds.map fun (x : Nat × Bed) =>
      (x.1, { x.2 with busy := x.2.busy.map fun c => if c.owner = some (id, off) then { c with owner := none } else c }) }

/-- R177: fail a BANK_ATTEND: on the bed of the failed command its other commands are cancelled when no other operation has
commands BUSY there; the rest finish and are discarded. -/
def State.failBank (s : State) (l : WorkList) (o : Op) (k : Option Nat) (status detail : Nat) : State :=
  let s1 := match k with
    | some k => if (s.bed k).busy.all fun c => c.owner = some (l.id, o.offset) then s.bedCancel k else s
    | none => s
  (s1.disown l.id o.offset).finishOp l.id o.offset status detail

/-- R175: the count and payload of a member whose commands are all folded. -/
def State.closeMember (s : State) (l : WorkList) (o : Op) (p : SetPlan) (m : MemberPlan) (r : MemberRun) : State × Acc :=
  s.writeSet l o p m (some (setPayload (baGq o) p.d (partsOf (baGq o) p.d r.fold))) slotDone r.count

/-- Start set i: members without commands get their empty sets at once. -/
def State.openSet (s : State) (l : WorkList) (o : Op) (p : SetPlan) : State × Op × Acc :=
  let empty := payloadOf ((List.range (baGq o)).map fun _ => Part.start p.d)
  let runs : List MemberRun := p.members.map fun m => { todo := List.range m.orders.length, fold := empty }
  let r := (List.zip p.members runs).foldl (fun (x : State × Acc) m =>
    if m.2.todo.isEmpty then let w := x.1.closeMember l o p m.1 m.2; (w.1, x.2.first w.2) else x) (s, .ok)
  (r.1, { o with members := runs }, r.2)

/-- A set is finished when every member has folded all its commands. -/
def Op.setFinished (o : Op) (p : SetPlan) : Bool :=
  (List.zip p.members o.members).all fun m => m.2.folded = m.1.orders.length

/-- R178: go on to the first set with commands; the operation ends after its last set. -/
def State.nextSet (s : State) (l : WorkList) (o : Op) : Nat → State
  | 0 => s
  | fuel + 1 =>
    match o.plan[o.tile]? with
    | none => (s.setOp l.id o).finishOp l.id o.offset osOk 0
    | some p =>
      let r := s.openSet l o p
      if r.2.2 ≠ .ok then (r.1.setOp l.id o).failBank l o none r.2.2.status 0
      else if r.2.1.setFinished p then r.1.nextSet l { r.2.1 with tile := o.tile + 1 } fuel
      else r.1.setOp l.id r.2.1

/-- A free command slot of a bank. -/
def State.freeSlot (s : State) (k bank : Nat) : Option Nat :=
  [2 * bank, 2 * bank + 1].find? fun n => !((s.bed k).busy.any fun c => c.slot = n) && !(s.heldSlots k).contains n

/-- R176, R177: copy the query records and issue one command; its seq and query buffer are the sequencer's own choice (free
values, log entry 44). -/
def State.issueOrder' (s : State) (l : WorkList) (o : Op) (p : SetPlan) (k slot : Nat) (x : BankOrder) : State × Acc × Nat :=
  match s.resolve l.tenant p.queries (plain (p.queryOff + baGq o * 0x200)) rRead with
  | none => (s, .refused, 0)
  | some q =>
    let r := s.opRead k l.tenant (q.plus p.queryOff) (baGq o * 0x200)
    if r.acc ≠ .ok then (r.s, r.acc, 0)
    else
      let seq := r.s.freeNat 32
      let buf := r.s.bumpFree.freeNat 4
      let ws := orderWords p (baGq o) seq buf x
      let s1 := (r.s.bumpFree.bumpFree.setWin k (queryOff buf) r.data).setWin k (commandOff slot + 8) (ws.drop 8)
      ((s1.issueBank k slot (ws.take 8) (some (l.id, o.offset)) l.tenant (0x40 + k / 8)).addSteps l.id o.offset
        (32 * cmdRows ws + 64) 0, .ok, seq)

/-- R182: issue what fits of one member's commands, in order; `todo` lists what is left. -/
def State.pumpMember (s : State) (id off i : Nat) (todo : List Nat) : State :=
  todo.foldl (fun s n =>
    match s.list? id, s.op? id off with
    | some l, some o =>
      match o.plan[o.tile]?, o.members[i]? with
      | some p, some r =>
        match p.members[i]? with
        | some m =>
          match m.orders[n]? with
          | some x =>
            match s.freeSlot m.core x.bank with
            | some slot =>
              if o.stage ≠ .started then s
              else
                let q := s.issueOrder' l o p m.core slot x
                if q.2.1 ≠ .ok then q.1.failBank l o none q.2.1.status 0
                else
                  match q.1.op? id off with
                  | some o1 =>
                    let r1 : MemberRun := { r with todo := r.todo.filter fun y => y ≠ n, held := r.held ++ [(n, slot, q.2.2)] }
                    q.1.setOp id { o1 with members := setAt o1.members i r1 }
                  | none => q.1
            | none => s
          | none => s
        | none => s
      | _, _ => s
    | _, _ => s) s

/-- R183: the operation that a member core serves first. -/
def State.servedFirst (s : State) (k id off : Nat) : Bool :=
  match (s.bankOps k).filter fun e => e.2.order ≤ ((s.op? id off).map Op.order).getD 0 with
  | (l, o) :: _ => l.id = id && o.offset = off
  | [] => true

/-- R159, R177, R178: let a BANK_ATTEND issue commands. A preempted one issues none. -/
def State.pumpOp (s : State) (id off : Nat) : State :=
  match s.list? id, s.op? id off with
  | some l, some o =>
    if o.stage ≠ .started || o.opcode ≠ 6 || !(decide (l.state = .running) || (decide (l.state = .stopping) && !o.resumable)) then s
    else if o.plan.any fun p => p.members.any fun m => num s.coreState m.core = 3 then
      s.failBank l o none osTowerLost 0
    else
      match o.plan[o.tile]? with
      | none => s
      | some p =>
        ((List.zip p.members o.members).zipIdx).foldl (fun s e =>
          if s.servedFirst e.1.1.core id off then s.pumpMember id off e.2 e.1.2.todo else s) s
  | _, _ => s

/-- Let every BANK_ATTEND go on, in the order in which they were received. -/
def State.pumpBanks (s : State) : State :=
  (sortBy (fun e => e.2.2) (s.lists.flatMap fun l =>
    (l.ops.filter fun o => o.opcode = 6 && o.stage = .started).map fun o => (l.id, o.offset, o.order))).foldl
    (fun s e => s.pumpOp e.1 e.2.1) s

/-- R175: every header of the operation's sets is BUSY before any work. -/
def State.busyHeaders (s : State) (l : WorkList) (o : Op) : State × Acc :=
  (o.plan.flatMap fun p => p.members.map fun m => (p, m)).foldl (fun (x : State × Acc) e =>
    let w := x.1.writeSet l o e.1 e.2 none slotBusy 0
    (w.1, x.2.first w.2)) (s, .ok)

/-- BANK_ATTEND (R175): sieve, plan, BUSY headers, then the commands. -/
def execBankAttend (list : Nat) (early : Option (List Byte)) (s : State) : Host.Outcome State Fault Refusal :=
  .next (s.issueOp list early 0x06 bankAttendRules fun s l o =>
    let r := (s.startOp l.id o.offset).readBatch l.tenant o rBank baFields
    match r.s.op? l.id o.offset with
    | none => r.s
    | some o1 =>
      let o2 := { o1 with plan := planOf o r.entries, steps := sieveSteps (baEntries o) }
      let b := (r.s.setOp l.id o2).busyHeaders l o2
      if b.2 ≠ .ok then b.1.failBank l o2 none b.2.status 0
      else (b.1.nextSet l o2 (o2.plan.length + 1)).pumpBanks)

/-- The BANK_ATTEND that reads a slot next: list, operation, member number. -/
def State.foldOwner (s : State) (k slot : Nat) : Option (WorkList × Op × Nat × Nat) :=
  ((s.bankOps k).flatMap fun e =>
    match e.2.plan[e.2.tile]? with
    | some p => ((List.zip p.members e.2.members).zipIdx).filterMap fun m =>
        if m.1.1.core = k then
          (m.1.2.held.find? fun h => h.1 = m.1.2.folded && h.2.1 = slot).map fun h => (e.1, e.2, m.2, h.2.2)
        else none
    | none => []).head?

/-- R177: fold one DONE payload into the member's running fold; the last one closes its set. -/
def State.foldDone (s : State) (l : WorkList) (o : Op) (i k slot count : Nat) : State :=
  match o.plan[o.tile]?, o.members[i]? with
  | some p, some r =>
    match p.members[i]? with
    | none => s
    | some m =>
      let gq := baGq o
      let ps := foldParts (partsOf gq p.d r.fold) (partsOf gq p.d (s.winBytes k (resultOff slot + 8) 0x1FF8))
      let r1 := { r with held := r.held.filter fun h => h.2.1 ≠ slot, folded := r.folded + 1, fold := payloadOf ps,
                         count := r.count + count }
      let o1 := { o with members := setAt o.members i r1, auxSteps := o.auxSteps + gq }
      let s1 := (s.setOp l.id o1).internalReport k (ps.map Part.sats).sum (ps.map Part.made).sum 0 gq
      let w := if r1.folded = m.orders.length then s1.closeMember l o1 p m r1 else (s1, .ok)
      if w.2 ≠ .ok then w.1.failBank l o1 none w.2.status 0
      else if o1.setFinished p then (w.1.nextSet l { o1 with tile := o1.tile + 1 } (o1.plan.length + 1)).pumpBanks
      else w.1.pumpBanks
  | _, _ => s

/-- BANK_PARTIAL_FOLD (R177): the member's sequencer reads the slot with the expected seq: DONE is folded, FAULT fails the
operation for its tenant alone. -/
def bankPartialFold (k slot : Nat) (s : State) : State :=
  match s.foldOwner k slot with
  | none => s
  | some (l, o, i, seq) =>
    let h := s.winBytes k (resultOff slot) 8
    if !s.towerRuns (k / 8) || fieldAt h 0 4 ≠ seq then s
    else if fieldAt h 4 1 = slotDone then s.foldDone l o i k slot (fieldAt h 5 3)
    else if fieldAt h 4 1 = slotFault then
      let code := fieldAt h 5 3
      let s1 := match o.plan[o.tile]? with
        | some p => match p.members[i]? with
          | some m => (s.writeSet l o p m none slotFault code).1
          | none => s
        | none => s
      (if code = faultUncorrectable then s1.failBank l o (some k) osUncorrectable 0
       else s1.failBank l o (some k) osBankFault code).pumpBanks
    else s

/-- BANK_COMMAND_DONE: sequencers that waited for the slot go on. -/
def execBankCommandDone (core : Fin 64) (bank : Fin 128) (slot : Fin 2) (s : State) : Host.Outcome State Fault Refusal :=
  .next (bankCommandDone core.val (2 * bank.val + slot.val) s).pumpBanks

/-- OPERATION_COMPLETE, and what waited behind the operation on member cores goes on (R183). -/
def execOperationComplete (list offset : Nat) (s : State) : Host.Outcome State Fault Refusal :=
  .next (operationComplete list offset s).pumpBanks

/-- TILE_BOUNDARY_STOP. The fold state of a BANK_ATTEND entry has no layout in the manual: its bytes are free values (log
entry 44). -/
def execTileBoundaryStop (list offset : Nat) (s : State) : Host.Outcome State Fault Refusal :=
  let s1 := tileBoundaryStop list offset s
  .next (match s1.op? list offset with
    | some o =>
      if o.opcode = 6 && o.stage = .stopped then
        (s1.setOp list { o with fold := (List.range 64).map fun i => Config.undefinedByte s1.freeCtr i }).bumpFree.pumpBanks
      else s1
    | none => s1)

def execBankPartialFold (core : Fin 64) (bank : Fin 128) (slot : Fin 2) (s : State) : Host.Outcome State Fault Refusal :=
  .next (bankPartialFold core.val (2 * bank.val + slot.val) s)

/-! ### MERGE (R179, R180, Table 11-9) -/

def mgN (o : Op) : Nat := o.f 0x18 2
def mgGq (o : Op) : Nat := o.f 0x1A 1
def mgFinal (o : Op) : Bool := nbit (o.f 0x1B 1) 0
def mgD (o : Op) : Nat := o.f 0x1C 2
def mgFmt (o : Op) : Nat := o.f 0x1E 1
def mgStride (o : Op) : Nat := o.f 0x20 4

def mergeRules (s : State) (l : WorkList) (o : Op) : OpErr :=
  let size := setSize (mgGq o) (mgD o)
  let out := if mgFinal o then rowBytes (mgFmt o) (mgGq o * mgD o) else size
  orErr (need (o.f 8 8 ≠ 0 && refOk (o.f 8 8)) (malformed 8))
  (orErr (need (o.f 0x10 8 ≠ 0 && refOk (o.f 0x10 8)) (malformed 0x10))
  (orErr (need (1 ≤ mgN o && mgN o ≤ 4096) (malformed 0x18))
  (orErr (need (1 ≤ mgGq o && mgGq o ≤ 8) (malformed 0x1A))
  (orErr (need (o.f 0x1B 1 < 2) (malformed 0x1B))
  (orErr (need (mgD o % 32 = 0 && 32 ≤ mgD o && mgD o ≤ 256 && mgGq o * mgD o ≤ 1280) (malformed 0x1C))
  (orErr (need (if mgFinal o then mgFmt o ≤ 7 else mgFmt o = 0) (malformed 0x1E))
  (orErr (need (mgStride o % 64 = 0 && size ≤ mgStride o) (malformed 0x20))
  (orErr (need (o.f 0x24 4 = 0) (malformed 0x24))
  (orErr (need (s.resolve l.tenant (o.f 8 8) ⟨mgN o, mgStride o, size⟩ rRead).isSome (segErr 8))
    (need (s.resolve l.tenant (o.f 0x10 8) (plain out) rWrite).isSome (segErr 0x10)))))))))))

/-- Inputs of a MERGE read so far. -/
structure SetsRead where
  s : State
  acc : Acc := .ok
  sets : List (List Byte) := []
deriving DecidableEq, Repr

/-- R180: a finalised query: o / l, or +0 for l = 0. -/
def Part.finalise (p : Part) : List FRes := p.o.map fun x => if isZero32 p.l then fExact 0 else fdiv x p.l

/-- R179, R180. -/
def State.runMerge (s : State) (l : WorkList) (o : Op) : State :=
  let gq := mgGq o
  let d := mgD o
  let size := setSize gq d
  let steps := mgN o * gq + (if mgFinal o then gq else 0) + 96
  let s0 := s.startOp l.id o.offset
  match s0.resolve l.tenant (o.f 8 8) (plain 0) rRead, s0.resolve l.tenant (o.f 0x10 8) (plain 0) rWrite with
  | some src, some out =>
    let r := (List.range (mgN o)).foldl (fun (x : SetsRead) i =>
      let q := x.s.opRead o.core l.tenant (src.plus (i * mgStride o)) size
      { s := q.s, acc := x.acc.first q.acc, sets := x.sets ++ [q.data] }) ⟨s0, .ok, []⟩
    let outBytes := if mgFinal o then rowBytes (mgFmt o) (gq * d) else size
    if r.acc ≠ .ok then (r.s.spoil o.core l.tenant (some out) (plain outBytes) r.acc).endWith l o steps 0 r.acc.status 0
    else
      match r.sets.findIdx? fun b => fieldAt b 4 1 ≠ slotDone with
      | some i => r.s.endWith l o steps 0 osMergeInput i
      | none =>
        let ps := r.sets.foldl (fun acc b => foldParts acc (setParts gq d (b.drop 8))) ((List.range gq).map fun _ => Part.start d)
        let count := min 0xFFFFFF ((r.sets.map fun b => fieldAt b 5 3).sum)
        let beats := mgN o * gq + (if mgFinal o then gq else 0)
        if mgFinal o then
          let fs := ps.flatMap Part.finalise
          let es := fs.map fun f => elemFrom32 (mgFmt o) f.bits
          let s1 := r.s.internalReport o.core ((ps.map Part.sats).sum + (fs.filter FRes.sat).length)
            ((ps.map Part.made).sum + (fs.filter FRes.made).length) (es.filter (·.2)).length beats
          let w := s1.opWrite o.core l.tenant out (packElems (mgFmt o) (es.map (·.1)))
          w.1.endWith l o steps 0 w.2.status 0
        else
          let s1 := r.s.internalReport o.core (ps.map Part.sats).sum (ps.map Part.made).sum 0 beats
          let a := s1.opWrite o.core l.tenant (out.plus 8) (setPayload gq d ps)
          let b := a.1.opWrite o.core l.tenant out (headerBytes (fieldAt (r.sets.headD []) 0 4) slotDone count)
          b.1.endWith l o steps 0 (a.2.first b.2).status 0
  | _, _ => s0.finishOp l.id o.offset osSegment 8

/-- MERGE (R179). -/
def execMerge (list : Nat) (early : Option (List Byte)) (s : State) : Host.Outcome State Fault Refusal :=
  .next (s.issueOp list early 0x07 mergeRules fun s l o => s.runOnChain l o State.runMerge)

end Sys2Proof.Machine
end

