-- ==== Sys2Proof/Machine/Attend.lean ====
section
/-! DEFINITION. ATTEND (R169 to R174): flash attention over the cache on array and chain. The results of every query tile are
those of the visits in ascending position; the work areas' own contents are left undefined. -/

namespace Sys2Proof.Machine

/-! ### Fields and checks (Table 11-8, R165, R170, R171, R265) -/

def atDesc (o : Op) : Nat := o.f 0x10 8
def atScratch (o : Op) : Nat := o.f 0x18 8
def atAcc (o : Op) : Nat := o.f 0x20 8
def atStage (o : Op) : Nat := o.f 0x28 8
def atEk (o : Op) : Int := toSigned 8 (o.f 0x35 1)
def atEv (o : Op) : Int := toSigned 8 (o.f 0x36 1)
def atFmt (o : Op) : Nat := o.f 0x37 1

/-- Bytes of the accumulator work, of the staging work and of the scratch area. -/
def atAccBytes : Nat := 1056768
def atStageBytes : Nat := 524288
def atScratchBytes : Nat := 262144

/-- R165: ATTEND's fields of an entry; an empty context has no last row to hold (log entry 53). -/
def atFields (e : Entry) : Bool := 1 ≤ e.qRows && (e.n = 0 || e.qPos + e.qRows ≤ e.n)

/-- R171: REDUCE max with CARRY and EMIT, then REDUCE sum with CARRY, LINK and EMIT. -/
def softmaxOk (gs : List Stage) : Bool :=
  match reduces gs with
  | [a, b] => a.func = 1 && a.carry && a.emits && b.func = 0 && b.carry && b.link && b.emits
  | _ => false

/-- R80: what ATTEND supplies: a row-state table, no stream B, no vectors. -/
def atSupply : ChainSupply := ⟨false, true, 0, 0, 1, 1⟩

/-- The softmax descriptor's own rules and extent. -/
def State.atDescRules (s : State) (l : WorkList) (o : Op) : OpErr :=
  if !(refOk (atDesc o) && refSpace (atDesc o) = 1 && refOff (atDesc o) % 64 = 0) then malformed 0x10
  else
    match s.resolve l.tenant (atDesc o) (plain 64) rRead with
    | none => segErr 0x10
    | some p =>
      let r := s.opRead o.core l.tenant p 64
      if r.acc ≠ .ok then some (r.acc.status, 0x10)
      else need (atSupply.ok (stagesOf r.data) && softmaxOk (stagesOf r.data)) (malformed 0x10)

/-- R170, R265: the scratch area that classes 2 to 7 need. -/
def State.atScratchRules (s : State) (l : WorkList) (o : Op) (es : List EntryMaps) : OpErr :=
  if es.any fun e => 2 ≤ sieveClass e.entry.n then
    let ref := atScratch o
    orErr (need (refOk ref && refSpace ref = 1 && refOff ref % 65536 = 0 && (s.refOwnBed l.tenant o.core ref || s.refSegMissing l.tenant ref)
        && num s.bankRetired o.core = 0) (malformed 0x18))
      (need (s.resolve l.tenant ref (plain atScratchBytes) (rRead + rWrite)).isSome (segErr 0x18))
  else need (refOk (atScratch o)) (malformed 0x18)

/-- Extents of an entry's queries and output. -/
def State.atExtents (s : State) (l : WorkList) (o : Op) (e : EntryMaps) : OpErr :=
  let n := e.entry.qRows * e.own.heads * baGq o * e.own.d
  orErr (need (refOk e.entry.queries && refSpace e.entry.queries = 3 && refOk e.entry.output && e.entry.output ≠ 0) (malformed 8))
    (need ((s.resolve l.tenant e.entry.queries (plain n) rRead).isSome &&
      (s.resolve l.tenant e.entry.output (plain (rowBytes (atFmt o) n)) rWrite).isSome) (segErr 8))

def attendRules (s : State) (l : WorkList) (o : Op) : OpErr :=
  let r := s.readBatch l.tenant o rRead atFields
  let work (ref space : Nat) : Bool := refOk ref && refSpace ref = space && refOff ref % 4096 = 0
  orErr r.err
  (orErr (s.atDescRules l o)
  (orErr (need (work (atAcc o) 2) (malformed 0x20))
  (orErr (need (work (atStage o) 3) (malformed 0x28))
  (orErr (need (-32 ≤ atEk o && atEk o ≤ 31) (malformed 0x35))
  (orErr (need (-32 ≤ atEv o && atEv o ≤ 31) (malformed 0x36))
  (orErr (need (atFmt o ≤ 7) (malformed 0x37))
  (orErr (s.atScratchRules l o r.entries)
  (orErr (need (s.resolve l.tenant (atAcc o) (plain atAccBytes) (rRead + rWrite)).isSome (segErr 0x20))
  (orErr (need (s.resolve l.tenant (atStage o) (plain atStageBytes) (rRead + rWrite)).isSome (segErr 0x28))
    ((r.entries.map fun e => s.atExtents l o e).foldl orErr none))))))))))

/-! ### Attend tiles (R170) -/

/-- Read bank-local bytes through a bed port. -/
def State.bankRead (s : State) (from_ tenant k b a n : Nat) : MemRead :=
  (bankPieces b 8 a n).foldl (fun (x : MemRead) p =>
    let r := x.s.readMem (bedBase k + p.1) p.2 tenant from_
    ⟨r.s.ctr from_ (if k = from_ then 0x20 else 0x22) 1, x.acc.first r.acc, x.data ++ r.data⟩) ⟨s, .ok, []⟩

/-- A quantity that reading builds up: the state, the outcome, rows of FP32 values, and saturations. -/
structure TileRead where
  s : State
  acc : Acc := .ok
  rows : List (List Word) := []
  sats : Nat := 0
deriving DecidableEq, Repr

/-- R170: an element as E4M3, held in FP32: code × scale rounded once, times 2^e, rounded to E4M3. -/
def attendElem (e : Int) (code : Int) (scale : Word) : Word × Nat :=
  let x := fmul (ofInt32 code) scale
  let r := encodeF e4m3 ((v32 x.bits).scale2 e)
  (elemTo32 2 r.bits, b2n r.sat + b2n x.sat)

/-- The key or value vector at a position of an entry's KV head (R154, R166, R169), as attend elements. -/
def TileRead.token (x : TileRead) (l : WorkList) (o : Op) (e : EntryMaps) (h : Nat) (key : Bool) (pos : Nat) : TileRead :=
  let m := match e.pre with
    | some p => if pos < e.own.posBase then p else e.own
    | none => e.own
  let at_ := m.blockAt (baLayer o * m.heads + h) ((pos - m.posBase) / 64)
  let t := (pos - m.posBase) % 64
  let w := if key then m.wk else m.wv
  let base := (at_.row + if key then 0 else m.nk) * 2048
  let c := x.s.bankRead o.core l.tenant (m.core at_.member) at_.bank (base + t * (m.d * w / 8)) (m.d * w / 8)
  let g := c.s.bankRead o.core l.tenant (m.core at_.member) at_.bank (base + 64 * (m.d * w / 8) + t * (m.d / 16)) (m.d / 16)
  let codes := (unpackElems (if w = 4 then 0 else 1) m.d c.data).map (toSigned w)
  let els := codes.mapIdx fun i v => attendElem (if key then atEk o else atEv o) v (elemTo32 5 (fieldAt g.data (i / 32 * 2) 2))
  ⟨g.s, x.acc.first (c.acc.first g.acc), x.rows ++ [els.map (·.1)], x.sats + (els.map (·.2)).sum⟩

/-- Rows of a tile of `span` positions from p0; those beyond the context hold zero. -/
def State.kvTile (s : State) (l : WorkList) (o : Op) (e : EntryMaps) (h span p0 : Nat) (key : Bool) : TileRead :=
  (List.range span).foldl (fun (x : TileRead) i =>
    if p0 + i < e.entry.n then x.token l o e h key (p0 + i)
    else { x with rows := x.rows ++ [List.replicate e.own.d 0] }) ⟨s, .ok, [], 0⟩

/-! ### Query tiles (R168, R169, R174) -/

/-- A query tile with its row-state entries and its output accumulator. -/
structure QTile where
  e : EntryMaps
  h : Nat
  g : Nat
  row0 : Nat
  rows : Nat
  entries : List (List Byte)
  acc : List (List Word)
deriving DecidableEq, Repr

/-- Rows of a query tile and keys of a key tile of an entry's class. -/
def atSpan (e : EntryMaps) : Nat := if sieveClass e.entry.n < 2 then 128 else 256

/-- R83, R171: row state before the first key tile: the reductions' own starts (log entry 50). -/
def atStartEntry : List Byte := leBytes 4 fNegMax.toNat ++ List.replicate 12 0

/-- R168, R169: the query tiles of an entry: KV heads, then row tiles, then query heads (log entry 51). -/
def queryTiles (gq : Nat) (e : EntryMaps) : List QTile :=
  if e.entry.n = 0 then []
  else
    (List.range e.own.heads).flatMap fun h => (List.range (ceilDiv e.entry.qRows (atSpan e))).flatMap fun r =>
      (List.range gq).map fun g =>
        let n := min (atSpan e) (e.entry.qRows - r * atSpan e)
        ⟨e, h, g, r * atSpan e, n, List.replicate n atStartEntry, List.replicate n (List.replicate e.own.d 0)⟩

/-- Key tiles that a query tile visits. -/
def QTile.visits (q : QTile) : Nat := (q.e.entry.qPos + q.row0 + q.rows - 1) / atSpan q.e + 1

/-- An ATTEND in progress. -/
structure AtRun where
  s : State
  acc : Acc := .ok
  sat : Nat := 0
  fx : ChainFx := {}
  digest : Nat := 0
  sats0 : Nat := 0
  made0 : Nat := 0
  pairs : List Nat := []
deriving DecidableEq, Repr

/-- Dot product in row order, in one product or in two of 128 channels (R54, R172). -/
def atDot (split : Bool) (a b : List Word) : Summed :=
  if split then
    let x := fpColumn 0 (a.take 128) (b.take 128)
    let y := fpColumn 0 (a.drop 128) (b.drop 128)
    let r := fadd x.bits y.bits
    ⟨r.bits, ⟨0, x.sat.fps + y.sat.fps + b2n r.sat⟩⟩
  else fpColumn 0 a b

/-- One row of a visited pair: scores, softmax, P·V and the accumulator (R171). -/
structure RowOut where
  entry : List Byte
  acc : List Word
  sat : Nat
  fx : ChainFx
  digest : Nat
deriving DecidableEq, Repr

def atRow (gs : List Stage) (split first : Bool) (rowPos p0 : Nat) (digest : Nat) (query : List Word) (ks vs : List (List Word))
    (entry : List Byte) (acc : List Word) : RowOut :=
  let scores := ks.map fun k => atDot split query k
  let lanes : List Lane := scores.mapIdx fun i x => ⟨x.bits, x.bits, 0, false, p0 + i, 0, 0⟩
  let p := Pass.stages { lanes := lanes, row := startRow gs entry rowPos 0 0, digest := digest } gs
  let outs := p.lanes.map fun l => elemFrom32 2 l.x
  let probs := outs.map fun x => elemTo32 2 x.1
  let entry1 := (endRow gs p.row entry).getD entry
  let c := BitVec.ofNat 32 (fieldAt entry1 8 4)
  let pv := (List.range acc.length).map fun i => fpColumn 0 probs (vs.map fun v => v.getD i 0)
  let new := if first then pv.map fun x => (fExact x.bits, 0)
    else List.zipWith (fun a x => let m := fmul a c; (fadd m.bits x.bits, b2n m.sat)) acc pv
  { entry := entry1, acc := new.map fun x => x.1.bits,
    sat := (scores.map fun x => x.sat.fps).sum + (pv.map fun x => x.sat.fps).sum + (new.map fun x => x.2 + b2n x.1.sat).sum,
    fx := { p.fx with wrSats := (outs.filter (·.2)).length }, digest := p.digest }

/-- The query row of a tile: E4M3 codes from the staging store. -/
def State.queryRow (s : State) (o : Op) (q : QTile) (r : Nat) : List Word :=
  let d := q.e.own.d
  let off := (((q.row0 + r) * q.e.own.heads + q.h) * baGq o + q.g) * d
  (rdBytes s.stores (stageBase o.core + refOff q.e.entry.queries + off) d).map fun b => elemTo32 2 b.toNat

/-- R171: one visited pair of a query tile and a built key tile. -/
def AtRun.visit (x : AtRun) (o : Op) (gs : List Stage) (j : Nat) (ks vs : List (List Word)) (q : QTile) : AtRun × QTile :=
  let span := atSpan q.e
  let split := span = 128 && 128 < q.e.own.d
  (List.range q.rows).foldl (fun (y : AtRun × QTile) r =>
    let w := atRow gs split (j = 0) (q.e.entry.qPos + q.row0 + r) (j * span) y.1.digest (y.1.s.queryRow o q r) ks vs
      (q.entries.getD r []) (q.acc.getD r [])
    ({ y.1 with sat := y.1.sat + w.sat, fx := y.1.fx.merge w.fx, digest := w.digest },
     { y.2 with entries := setAt y.2.entries r w.entry, acc := setAt y.2.acc r w.acc }))
    ({ x with pairs := x.pairs ++ [q.rows] }, q)

/-- Key tile j of a group of query tiles: each key and value tile is built once for those that share it (R174). -/
def AtRun.step (x : AtRun) (l : WorkList) (o : Op) (gs : List Stage) (j : Nat) (qs : List QTile) : AtRun × List QTile :=
  let heads := ((qs.filter fun q => j < q.visits).map fun q => (q.e.index, q.h)).dedup
  heads.foldl (fun (y : AtRun × List QTile) k =>
    match y.2.find? fun q => q.e.index = k.1 && q.h = k.2 with
    | none => y
    | some q0 =>
      let span := atSpan q0.e
      let kt := y.1.s.kvTile l o q0.e q0.h span (j * span) true
      let vt := kt.s.kvTile l o q0.e q0.h span (j * span) false
      let y1 : AtRun := { y.1 with s := vt.s, acc := y.1.acc.first (kt.acc.first vt.acc),
                                   fx := { y.1.fx with wrSats := y.1.fx.wrSats + kt.sats + vt.sats } }
      y.2.foldl (fun (z : AtRun × List QTile) q =>
        if q.e.index = k.1 && q.h = k.2 && j < q.visits then
          let v := z.1.visit o gs j kt.rows vt.rows q
          (v.1, z.2 ++ [v.2])
        else (z.1, z.2 ++ [q])) (y1, [])) (x, qs)

/-- R173: an output element: acc / l, times 2^(−ev), narrowed. -/
def atOutput (o : Op) (l x : Word) : FRes × FRes × (Nat × Bool) :=
  if isZero32 l then (fExact 0, fExact 0, (0, false))
  else
    let a := fdiv x l
    let b := finish32 (isNan32 a.bits) ((v32 a.bits).scale2 (-(atEv o)))
    (a, b, elemFrom32 (atFmt o) b.bits)

/-- Write the rows of a finished query tile. -/
def AtRun.write (x : AtRun) (l : WorkList) (o : Op) (q : QTile) : AtRun :=
  (List.range q.rows).foldl (fun (x : AtRun) r =>
    let d := q.e.own.d
    let es := (q.acc.getD r []).map fun v => atOutput o (BitVec.ofNat 32 (fieldAt (q.entries.getD r []) 4 4)) v
    let off := elemOff (atFmt o) ((((q.row0 + r) * q.e.own.heads + q.h) * baGq o + q.g) * d)
    match x.s.resolve l.tenant q.e.entry.output (plain 0) rWrite with
    | none => { x with acc := x.acc.first .refused }
    | some p =>
      let w := x.s.opWrite o.core l.tenant (p.plus off) (packElems (atFmt o) (es.map fun e => e.2.2.1))
      { x with s := w.1, acc := x.acc.first w.2, fx := { x.fx with wrSats := x.fx.wrSats + (es.filter fun e => e.2.2.2).length },
               sats0 := x.sats0 + (es.map fun e => b2n e.1.sat + b2n e.2.1.sat).sum,
               made0 := x.made0 + (es.map fun e => b2n e.1.made).sum }) x

/-- A group of query tiles from its first key tile to its output. -/
def AtRun.group (x : AtRun) (l : WorkList) (o : Op) (gs : List Stage) (qs : List QTile) : AtRun :=
  if x.acc ≠ .ok then x
  else
    let r := (List.range ((qs.map QTile.visits).foldl max 0)).foldl (fun (y : AtRun × List QTile) j => y.1.step l o gs j y.2) (x, qs)
    if r.1.acc ≠ .ok then r.1 else r.2.foldl (fun (y : AtRun) q => y.write l o q) r.1

/-- R166: an empty context gives +0 rows. -/
def AtRun.empty (x : AtRun) (l : WorkList) (o : Op) (e : EntryMaps) : AtRun :=
  if e.entry.n ≠ 0 then x
  else match x.s.resolve l.tenant e.entry.output (plain 0) rWrite with
    | none => { x with acc := x.acc.first .refused }
    | some p =>
      let n := rowBytes (atFmt o) (e.entry.qRows * e.own.heads * baGq o * e.own.d)
      let w := x.s.opWrite o.core l.tenant p (List.replicate n 0)
      { x with s := w.1, acc := x.acc.first w.2 }

/-- R168, R174: groups of query tiles: pairs of one KV head in the whole-mode classes, four in the quadrant classes. -/
def queryGroups (gq : Nat) (es : List EntryMaps) : List (List QTile) :=
  let ordered := dispatchOrder (fun e : EntryMaps => e.entry.n) es
  let whole := ordered.filter fun e => 2 ≤ sieveClass e.entry.n
  let quad := (ordered.filter fun e => sieveClass e.entry.n < 2).flatMap (queryTiles gq)
  (whole.flatMap fun e => (List.range e.own.heads).flatMap fun h =>
    let ts := (queryTiles gq e).filter fun q => q.h = h
    chunks 2 ts.length ts) ++ chunks 4 quad.length quad

/-- R167, R174: steps of the operation; the manual gives no count for the quadrant classes (log entry 52). -/
def State.atSteps (s : State) (o : Op) (es : List EntryMaps) (pairs : List Nat) : Nat :=
  if es.any fun e => e.entry.n ≠ 0 && sieveClass e.entry.n < 2 then s.freeNat 48
  else sieveSteps (baEntries o) + (pairs.map fun m => 2 * (m + 256)).sum + (if pairs.isEmpty then 0 else 520)

/-- The work areas hold undefined values afterwards (log entry 52). -/
def State.atWork (s : State) (l : WorkList) (o : Op) (es : List EntryMaps) : State :=
  let fill (s : State) (ref n : Nat) : State :=
    match s.resolve l.tenant ref (plain n) rWrite with
    | some p => s.fillUndefined o.core l.tenant p (plain n)
    | none => s
  let s1 := fill (fill s (atAcc o) atAccBytes) (atStage o) atStageBytes
  if es.any fun e => 2 ≤ sieveClass e.entry.n then fill s1 (atScratch o) atScratchBytes else s1

/-- R195: the outputs of an ATTEND that read bad data. -/
def State.atSpoil (s : State) (l : WorkList) (o : Op) (es : List EntryMaps) (a : Acc) : State :=
  es.foldl (fun s e => s.spoil o.core l.tenant (s.resolve l.tenant e.entry.output (plain 0) rWrite)
    (plain (rowBytes (atFmt o) (e.entry.qRows * e.own.heads * baGq o * e.own.d))) a) s

/-- R169 to R174. -/
def State.runAttend (s : State) (l : WorkList) (o : Op) : State :=
  let s0 := s.startOp l.id o.offset
  let r := s0.readBatch l.tenant o rRead atFields
  match r.err, r.s.resolve l.tenant (atDesc o) (plain 64) rRead with
  | none, some p =>
    let d := r.s.opRead o.core l.tenant p 64
    let gs := stagesOf d.data
    let dig := gs.any Stage.isDigest
    let x0 : AtRun := { s := d.s, digest := if dig then crc64Init else 0 }
    let x1 := r.entries.foldl (fun (x : AtRun) e => x.empty l o e) x0
    let x := (queryGroups (baGq o) r.entries).foldl (fun (x : AtRun) g => x.group l o gs g) x1
    let s1 := ((x.s.mxSat o.core ⟨0, x.sat⟩).chainReport o.core x.fx).internalReport o.core x.sats0 x.made0 0 (x.s.bumpFree.freeNat 32)
    let steps := s1.atSteps o r.entries x.pairs
    let s2 := ((s1.ctr o.core 0x01 steps).ctr o.core 0x02 (s1.bumpFree.bumpFree.freeNat 48)).ctr o.core 0x03 (2 * x.pairs.length)
    let s3 := s2.bumpFree.bumpFree.bumpFree
    let s4 := s3.atWork l o r.entries
    if x.acc ≠ .ok then
      (s4.atSpoil l o r.entries x.acc).endWith l o steps (s3.freeNat 48) (if x.acc = .lost then osTowerLost else x.acc.status) 0
    else
      let s5 := match s4.op? l.id o.offset with
        | some q => s4.setOp l.id { q with digest := if dig then crc64Final x.digest else 0 }
        | none => s4
      s5.bumpFree.endWith l o steps (s3.freeNat 48) osOk 0
  | some e, _ => r.s.finishOp l.id o.offset e.1 e.2
  | _, none => r.s.finishOp l.id o.offset osSegment 0x10

/-- R68, R174: ATTEND needs array and chain: it runs when nothing before it holds either. It waits in both queues. -/
def State.attendNow (s : State) (l : WorkList) (o : Op) : State :=
  let c := s.coreUnit o.core
  if s.chainFree o.core && c.arrayQ.isEmpty then s.runAttend l o
  else
    s.setCoreUnit o.core { c with
      arrayQ := c.arrayQ ++ [(l.id, o.offset)],
      chainQ := c.chainQ ++ [{ list := l.id, op := o.offset, row0 := 0, col0 := 0, rows := 1, cols := 1, fused := false }] }

/-- ATTEND (R169). -/
def execAttend (list : Nat) (early : Option (List Byte)) (s : State) : Host.Outcome State Fault Refusal :=
  .next (s.issueOp list early 0x03 attendRules State.attendNow)

end Sys2Proof.Machine
end

