-- ==== Sys2Proof/Machine/Transfers.lean ====
section
/-! DEFINITION. Segment entries, leases, revocation, zeroing and transfer engines (R313 to R327, R304, R410, R411). -/

namespace Sys2Proof.Machine

/-! ### Segment entries (Table 13-1) -/

def State.setSeg (s : State) (t slot : Nat) (g : Seg) : State := { s with segs := insertKey (t * 16 + slot) g s.segs }
def State.clearSeg (s : State) (t slot : Nat) : State := { s with segs := removeKey (t * 16 + slot) s.segs }

def SegKind.code : SegKind → Nat
  | .priv => 0
  | .shared => 1
  | .attached => 2

/-- The 32 bytes of an entry. -/
def Seg.toBytes (g : Seg) : List Byte :=
  leBytes 8 g.base ++ leBytes 8 g.size ++ leBytes 1 (1 + 2 * g.kind.code + 8 * b2n g.bed) ++ leBytes 1 g.rights ++
  leBytes 1 g.core ++ [0] ++ leBytes 2 g.owner ++ List.replicate 2 0 ++ leBytes 4 g.lease ++ List.replicate 4 0

/-! ### Leases (R323) -/

def segLease (owner slot : Nat) : Nat := owner * 16 + slot
def jobLease (e q : Nat) : Nat := 16384 + e * 64 + q
def mboxLease (t : Nat) : Nat := 18432 + t

/-- Table 13-4: grant a lease: held, with the epoch incremented. -/
def State.grant (s : State) (n owner : Nat) : State :=
  s.setLease n { held := true, owner := owner, epoch := ((s.leaseAt n).epoch + 1) % 2 ^ 32 }

/-- The holder is done: the lease is no longer held. -/
def State.release (s : State) (n : Nat) : State := s.setLease n { s.leaseAt n with held := false }

/-- R324: a revoked lease clears held and increments its epoch. -/
def State.revokeLease (s : State) (n : Nat) : State :=
  let l := s.leaseAt n
  s.setLease n { l with held := false, epoch := (l.epoch + 1) % 2 ^ 32 }

/-- Table 13-4: the 64 bits of a lease. -/
def Lease.bits (l : Lease) : Nat := b2n l.held * 2 ^ 63 + l.owner * 2 ^ 44 + l.epoch

/-! ### Removal and zeroing (R317 to R320) -/

/-- R320: memory that leaves its owner is queued for zeroing; `done` says that its removal has completed. -/
def State.queueZero (s : State) (g : Seg) (done : Bool) : State :=
  { s with zeroing := s.zeroing ++ [⟨g.base, g.size, done⟩] }

/-- R319, R324: remove a shared segment: the owner's entry and every attached entry of its lease, with its keys. The
owner's memory is queued for zeroing. -/
def State.removeShared (s : State) (owner slot : Nat) (g : Seg) (done : Bool) : State :=
  ({ s with segs := s.segs.filter fun (e : Nat × Seg) => !(e.1 = owner * 16 + slot) && !(e.2.kind = SegKind.attached && e.2.lease = g.lease),
            keys := s.keys.filter fun k => !(k.owner = owner && k.slot = slot) }.revokeLease g.lease).queueZero g done

/-- Removals that wait (R317): a SEG_FREE in progress. -/
def State.removalWaits (s : State) (t slot : Nat) : Option Seg :=
  (s.removing.find? fun e => e.1 = t * 16 + slot).map (·.2)

/-- SEGMENT_REMOVAL (R317): every access that passed its check under the entry has been accepted or has failed, for each
takes place whole in its own step (log entry 22); the removal completes, and the SEG_FREE with it. -/
def segmentRemoval (t slot : Nat) (s : State) : State :=
  match s.removalWaits t slot with
  | none => s
  | some g =>
    let s1 := { s with removing := s.removing.filter fun e => e.1 ≠ t * 16 + slot,
                       zeroing := s.zeroing.map fun (z : ZeroRange) =>
                         if g.kind ≠ SegKind.attached && z.base = g.base && z.size = g.size then { z with removalDone := true } else z }
    match (s1.mb t).live.find? fun l => l.opcode = 0x03 && fieldAt l.bytes 0x10 1 = slot && !l.bytes.isEmpty with
    | some l => s1.complete t 0x03 l.tag stOk []
    | none => s1

def execSegmentRemoval (tenant : BitVec 10) (slot : Fin 16) (s : State) : Host.Outcome State Fault Refusal :=
  .next (segmentRemoval tenant.toNat slot.val s)

/-- Two ranges share a byte. -/
def overlaps (a n b m : Nat) : Bool := decide (a < b + m) && decide (b < a + n)

/-- Bed addresses whose rows a BUSY command names: its bank's rows from first_row on (R320). The command words hold
first_row and the block shape; the whole bank is taken (log entry 23). -/
def State.bankBusyIn (s : State) (base size : Nat) : Bool :=
  s.beds.any fun x => x.2.busy.any fun _ => overlaps base size (bedBase x.1) 0x100000000

/-- R320: zeroing writes whole sectors: bytes read as zero and codewords are clean. Sectors of poisoned channels discard
the writes; their bytes read as POISON and are cleared here too, where nothing can see them. -/
def State.zeroMem (s : State) (base size : Nat) : State :=
  { s with mem := zeroRange s.mem base size,
           checks := s.checks.filter fun x => !(decide (base / 64 ≤ x.1) && decide (x.1 < (base + size) / 64)) }

/-! ### Allocation (R300, R314) -/

/-- Ranges that no new segment may take: owned segments, and memory still to be zeroed when `z` holds. -/
def State.takenRanges (s : State) (z : Bool) : List (Nat × Nat) :=
  (s.ownedSegs.map fun e => (e.2.base, e.2.size)) ++ (s.removing.map fun e => (e.2.base, e.2.size)) ++
    (if z then s.zeroing.map fun r => (r.base, r.size) else [])

/-- The range is free and lies below `top`. -/
def rangeFree (taken : List (Nat × Nat)) (top a n : Nat) : Bool :=
  decide (a + n ≤ top) && taken.all fun r => !overlaps a n r.1 r.2

/-- A legal place: firmware's own choice where it is legal (a free value, log entry 2), else the lowest one. -/
def pickPlace (taken : List (Nat × Nat)) (bottom top align n choice : Nat) : Option Nat :=
  let up (a : Nat) : Nat := bottom + (a - bottom + align - 1) / align * align
  let c := bottom + choice / align * align
  if rangeFree taken top c n then some c
  else
    match (bottom :: taken.map fun r => up (r.1 + r.2)).filter fun a => decide (bottom ≤ a) && rangeFree taken top a n with
    | [] => none
    | x :: xs => some (xs.foldl min x)

/-- R314: end of the external memory that segments may use: the trace buffers lie above (R420). -/
def State.segTop (s : State) : Nat := s.extTop - 512 * 2 ^ 20

/-- R201: poisoned granules of an external range. -/
def State.poisonedGranules (s : State) (base size : Nat) : Nat :=
  let l := s.chanList
  if l.isEmpty then 0
  else
    ((List.range l.length).map fun i =>
      match l[i]? with
      | some (n, c) =>
        if s.poisoned n c || s.dieLost n then
          -- granules g in [base/4096, (base+size)/4096) with g mod Nc = i
          let upTo (g : Nat) : Nat := (g + l.length - 1 - i) / l.length
          upTo ((base + size) / 4096) - upTo (base / 4096)
        else 0
      | none => 0).sum

/-- Where a SEG_ALLOC goes: an external or bed range; `z` keeps out memory still to be zeroed. -/
def State.allocPlace (s : State) (b : List Byte) (z : Bool) : Option Nat :=
  let size := fieldAt b 8 8
  if fieldAt b 0x11 1 = 0 then pickPlace (s.takenRanges z) 0 s.segTop 4096 size (s.freeNat 40)
  else
    let k := fieldAt b 0x12 1
    let want := fieldAt b 0x14 4
    if want = 0xFFFFFFFF then
      pickPlace (s.takenRanges z) (bedBase k) (bedBase k + 0xC0000000) 0x40000 size (s.freeNat 32)
    else if rangeFree (s.takenRanges z) (bedBase k + 0xC0000000) (bedBase k + want) size then some (bedBase k + want)
    else none

/-- Install the segment of a SEG_ALLOC (R300). -/
def State.installAlloc (s : State) (t : Nat) (b : List Byte) (base : Nat) : State :=
  let bed := fieldAt b 0x11 1 = 1
  s.bumpFree.setSeg t (fieldAt b 0x10 1)
    ⟨base, fieldAt b 8 8, .priv, bed, fieldAt b 0x13 1, if bed then fieldAt b 0x12 1 else 0, t, 0xFFFFFFFF⟩

/-- The body of its completion (Table 12-11). -/
def State.allocBody (s : State) (b : List Byte) (base : Nat) : List Byte :=
  leBytes 8 base ++ leBytes 8 (fieldAt b 8 8) ++
    leBytes 4 (if fieldAt b 0x11 1 = 1 then 0 else s.poisonedGranules base (fieldAt b 8 8)) ++ leBytes 1 (fieldAt b 0x13 1)

/-- R320: a SEG_ALLOC that waited for zeroing takes its place when it is free. -/
def State.retryAllocs (s : State) : State :=
  s.mbox.foldl (fun s x =>
    match (s.mb x.1).live.find? fun l => l.opcode = 0x02 && !l.bytes.isEmpty with
    | some l =>
      (match s.allocPlace l.bytes true with
       | some base => (s.installAlloc x.1 l.bytes base).complete x.1 0x02 l.tag stOk (s.allocBody l.bytes base)
       | none => s)
    | none => s) s

/-- ZEROING (R320): firmware zeroes the first released range whose removal has completed and that no BUSY bank command
names. -/
def zeroingStep (s : State) : State :=
  match s.zeroing.find? fun z => z.removalDone && !s.bankBusyIn z.base z.size with
  | none => s
  | some z => ({ s with zeroing := s.zeroing.filter fun y => y ≠ z }.zeroMem z.base z.size).retryAllocs

def execZeroing (s : State) : Host.Outcome State Fault Refusal := .next (if s.alive then zeroingStep s else s)

/-! ### Transfers (R304, R321, R322) -/

/-- First byte of the destination: granules are 4 KiB blocks of the destination (R321). -/
def State.xferDst (s : State) (x : Xfer) : Nat :=
  if x.toHost then x.host
  else match s.seg? x.tenant x.slot with
    | some g => g.base + x.off
    | none => x.off

/-- Byte offset of granule i in the transfer, and its length. `dst` is the destination's first byte. -/
def granuleRange (dst bytes i : Nat) : Nat × Nat :=
  let lo := if i = 0 then 0 else (dst / 4096 + i) * 4096 - dst
  let hi := min bytes ((dst / 4096 + i + 1) * 4096 - dst)
  (lo, hi - lo)

def granuleCount (dst bytes : Nat) : Nat := (dst + bytes - 1) / 4096 - dst / 4096 + 1

/-- The earlier of two recorded offsets. -/
def minOpt (a : Option Nat) (b : Nat) : Option Nat :=
  match a with
  | some x => some (min x b)
  | none => some b

def State.xfer? (s : State) (t tag : Nat) : Option Xfer := s.xfers.find? fun x => x.tenant = t && x.tag = tag
def State.setXfer (s : State) (x : Xfer) : State :=
  { s with xfers := s.xfers.map fun y => if y.tenant = x.tenant && y.tag = x.tag then x else y }

/-- Jobs of a transfer still on engines. -/
def State.jobsOf (s : State) (t tag : Nat) : List Job :=
  s.engines.flatMap fun e => e.2.jobs.filter fun j => j.tenant = t && j.tag = tag

/-- R304: a transfer with no job left completes: TRANSFER's slip, then the CANCELs that named it. -/
def State.settleXfer (s : State) (t tag : Nat) : State :=
  match s.xfer? t tag with
  | none => s
  | some x =>
    if !(s.jobsOf t tag).isEmpty then s
    else
      let s1 := { s with xfers := s.xfers.filter fun y => !(y.tenant = t && y.tag = tag) }
      let s2 := s1.complete t 0x08 tag x.status (leBytes 8 (x.lowest.getD 0xFFFFFFFFFFFFFFFF))
      x.cancelTags.foldl (fun s c => s.complete t 0x07 c.1 stOk (leBytes 1 (if x.status = stCancelled then 0 else 1))) s2

/-- Remove a job from an engine; its lease is released or revoked. -/
def State.dropJob (s : State) (e : Nat) (j : Job) (revoked : Bool) : State :=
  let s1 := s.setEngine e { s.engine e with jobs := (s.engine e).jobs.filter fun k => k.entry ≠ j.entry }
  if revoked then s1.revokeLease (jobLease e j.entry) else s1.release (jobLease e j.entry)

/-- R322: stop a transfer with a status: every granule without a write issued is dropped. Each granule is written whole
in its own step, so none is under way. -/
def State.stopXfer (s : State) (t tag status : Nat) (revoked : Bool) : State :=
  match s.xfer? t tag with
  | none => s
  | some x =>
    let dst := s.xferDst x
    let left := (s.jobsOf t tag).filter fun j => j.done < j.granules
    let low := left.foldl (fun a j => minOpt a (granuleRange dst x.bytes (j.firstGranule + j.done)).1) x.lowest
    let s1 := s.setXfer { x with status := if status = 0 then x.status else status, lowest := low }
    let s2 := s1.engines.foldl (fun s e =>
      (e.2.jobs.filter fun j => j.tenant = t && j.tag = tag).foldl (fun s j => s.dropJob e.1 j revoked) s) s1
    s2.settleXfer t tag

/-- R321: the job an engine serves next: round robin over its tenants, starting after the tenant served last, skipping
tenants for which it is stopped (R411). -/
def State.nextJob (s : State) (e : Nat) : Option Job :=
  let x := s.engine e
  let ready := x.jobs.filter fun j => !s.nodeStopped (0x50 + e) j.tenant
  let key (j : Job) : Nat := (j.tenant + 1024 - (x.lastTenant + 1) % 1024) % 1024
  match ready with
  | [] => none
  | j :: js => some (js.foldl (fun a b => if key b < key a then b else a) j)

/-- Advance a job by its granule, and end it after the last one: the engine's event, its lease released (R321). -/
def State.jobStep (s : State) (e : Nat) (j : Job) (t tag : Nat) : State :=
  let s1 := s.countF (.teGranules e) 0 32 1
  let s2 := s1.ctr (unitEngine e) 0x3001 1
  if j.done + 1 < j.granules then
    s2.setEngine e { s2.engine e with jobs := (s2.engine e).jobs.map fun k => if k.entry = j.entry then { j with done := j.done + 1 } else k,
                                      lastTenant := j.tenant }
  else
    let s3 := s2.dropJob e j false
    ((s3.setEngine e { s3.engine e with lastTenant := j.tenant }).raise (srcEngine e)).settleXfer t tag

/-- TRANSFER_GRANULE (R304, R315, R321, R322): an engine serves one granule. `hostBytes` are the bytes read from host
memory, `pcieOk` tells whether the PCIe access succeeded. -/
def transferGranule (e : Nat) (hostBytes : List Byte) (pcieOk : Bool) (s : State) : State :=
  match s.nextJob e with
  | none => s
  | some j =>
    match s.xfer? j.tenant j.tag with
    | none => s
    | some x =>
      let r := granuleRange (s.xferDst x) x.bytes (j.firstGranule + j.done)
      let right := if x.toHost then rRead else rWrite
      let fail (s : State) (st : Nat) : State :=
        (match s.xfer? j.tenant j.tag with
         | some y => s.setXfer { y with lowest := minOpt y.lowest r.1 }
         | none => s).stopXfer j.tenant j.tag st false
      let ok := match s.seg? x.tenant x.slot with
        | some g => s.segAllows g (x.off + r.1) (plain r.2) right false
        | none => false
      if !ok then fail s stDenied
      else if !pcieOk then fail s stHostFault
      else
        match s.seg? x.tenant x.slot with
        | none => s
        | some g =>
          let a := g.base + x.off + r.1
          if x.toHost then
            let m := s.readMem a r.2 x.tenant (0x50 + e)
            match m.acc with
            | .ok =>
              ((m.s.emit (.hostWrite x.tenant (x.host + r.1) m.data false)).ctr (unitEngine e) 0x3003 (ceilDiv r.2 64)).jobStep
                e j x.tenant x.tag
            | .bad =>
              let s1 := m.s.emit (.hostWrite x.tenant (x.host + r.1) m.data true)
              let s2 := s1.setXfer { x with status := stUncorrectable, lowest := minOpt x.lowest r.1 }
              (s2.ctr (unitEngine e) 0x3008 1).jobStep e j x.tenant x.tag
            | .lost => fail m.s stTowerLost
            | .refused => fail m.s stDenied
          else
            let w := s.writeMem a x.tenant (0x50 + e) ((hostBytes ++ List.replicate r.2 0).take r.2)
            match w.2 with
            | .ok => (w.1.ctr (unitEngine e) 0x3002 (ceilDiv r.2 64)).jobStep e j x.tenant x.tag
            | .lost => fail w.1 stTowerLost
            | _ => fail w.1 stDenied

def execTransferGranule (engine : Fin 32) (hostBytes : List Byte) (pcieOk : Bool) (s : State) :
    Host.Outcome State Fault Refusal := .next (transferGranule engine.val hostBytes pcieOk s)

/-- PCIE_COMPLETION_TIMEOUT (R304): the engine's granule ends with HOST_FAULT and stops its transfer; the PCIe error source
of X0 rises (log entry 24). -/
def execPcieCompletionTimeout (engine : Fin 32) (s : State) : Host.Outcome State Fault Refusal :=
  .next (match s.nextJob engine.val with
    | none => s
    | some _ => (transferGranule engine.val [] false s).raise (srcIo 0 2))

/-! ### Revocation (R324, R410) -/

/-- Owner ids that Table 13-3 names. -/
def ownerKnown (o : Nat) : Bool := o < 0x400 || (0x800 ≤ o && o < 0x808)

/-- Every checker of segments: sequencers, transfer engines and hubs (R316). -/
def checkers (f : Fuses) : List Nat :=
  (List.range 8).map (0x40 + ·) ++ (List.range 32).map (0x50 + ·) ++ (List.range f.assembly.ioDies).map (0x70 + ·)

/-- Held leases of an owner, by index: the owner recorded, or for a mailbox the processor. -/
def State.heldBy (s : State) (o : Nat) : List Nat :=
  (s.leases.filter fun x => x.2.held && x.2.owner = o).map (·.1)

/-- The nodes that hold leases of an owner. -/
def State.revokeNodes (s : State) (o : Nat) : List Nat :=
  let hs := s.heldBy o
  let seg := if hs.any fun n => n < 16384 then checkers s.fuses else []
  let job := (hs.filter fun n => decide (16384 ≤ n) && decide (n < 18432)).map fun n => 0x50 + (n - 16384) / 64
  let mb := if hs.any fun n => 18432 ≤ n then [0x70, 0x71] else []
  (seg ++ job ++ mb).dedup.filter fun v => match nodeDie v with
    | some d => !s.dieLost d
    | none => false

/-- R324: the processor a mailbox passes to: the lowest-numbered one of the complex other than the revoked owner. -/
def takeOver (standby : Bool) (o : Nat) : Nat :=
  let base := if standby then 0x804 else 0x800
  if o = base then base + 1 else base

/-- R324: the effect of revoking every lease of an owner, apart from the acknowledgements. `reset` tells a revocation of a
tenant reset. -/
def State.revokeAll (s : State) (o : Nat) (standby reset : Bool) : State :=
  let hs := s.heldBy o
  hs.foldl (fun s n =>
    if n < 16384 then
      match s.seg? (n / 16) (n % 16) with
      | some g => s.removeShared (n / 16) (n % 16) g false
      | none => s.revokeLease n
    else if n < 18432 then
      match (s.engine ((n - 16384) / 64)).jobs.find? fun j => j.entry = (n - 16384) % 64 with
      | some j =>
        if reset then s.dropJob ((n - 16384) / 64) j true
        else s.stopXfer j.tenant j.tag stCancelled true
      | none => s.revokeLease n
    else
      let s1 := s.revokeLease n
      s1.setLease n { s1.leaseAt n with held := true, owner := takeOver standby o }) s

/-- LSE_REVOKE_WRITE (R324): ignored with refused set while busy or for a reserved owner id. -/
def lseRevokeWrite (o : Nat) (standby : Bool) (s : State) : State :=
  if s.revocation.isSome || !ownerKnown o then s.setBit .lseStat 29
  else
    let nodes := s.revokeNodes o
    let n := (s.heldBy o).length
    let s1 := (s.revokeAll o standby false).setReg .lseStat (BitVec.ofNat 64 (2 ^ 31 + getF (s.reg .lseStat) 29 2 * 2 ^ 29 + o))
    let s2 := nodes.foldl (fun s v => s.emit (.msg (s.mkMsg (nf s.straps 0 6) 0x70 3 1 0 0 0 v []))) s1
    { s2 with revocation := some ⟨o, nodes, s.now, n, false⟩ }

def execLseRevokeWrite (owner : BitVec 12) (writer : RevokeWriter) (s : State) : Host.Outcome State Fault Refusal :=
  .next (lseRevokeWrite owner.toNat (writer = .standby) s)

/-- LEASE_REVOKE (R324): a node acts on the revocation and acknowledges. -/
def execLeaseRevoke (node : BitVec 8) (owner : BitVec 12) (s : State) : Host.Outcome State Fault Refusal :=
  .next (match s.revocation with
    | some r =>
      if r.owner = owner.toNat then { s with revocation := some { r with waiting := r.waiting.filter fun v => v ≠ node.toNat } } else s
    | none => s)

/-- REVOCATION_COMPLETE (R324): every node has acknowledged: busy clears, done sets, the revocation is logged, and what it
removed may be zeroed. -/
def execRevocationComplete (s : State) : Host.Outcome State Fault Refusal :=
  .next (match s.revocation with
    | some r =>
      if r.waiting.isEmpty then
        (({ s with revocation := none, zeroing := s.zeroing.map fun (z : ZeroRange) => { z with removalDone := true } }.clrBit .lseStat 31).setBit
          .lseStat 30).log 0x0081 0 8 0x70 noTenant r.owner r.count
      else s
    | none => s)

/-- REVOCATION_ACK_TIMEOUT (R410): a node that has not acknowledged within 10 ms (2,000,000 ticks) is treated as lost: its
leases are cleared and the part logs it; the revocation no longer waits for it. -/
def execRevocationAckTimeout (node : BitVec 8) (s : State) : Host.Outcome State Fault Refusal :=
  .next (match s.revocation with
    | some r =>
      if r.waiting.contains node.toNat && decide (r.since + 2000000 ≤ s.now) then
        let mine := (s.leases.filter fun x => x.2.held && decide (16384 ≤ x.1) && decide (x.1 < 18432) &&
          0x50 + (x.1 - 16384) / 64 = node.toNat).map (·.1)
        let s1 := mine.foldl (fun s n => s.revokeLease n) s
        let s2 := { s1 with revocation := some { r with waiting := r.waiting.filter fun v => v ≠ node.toNat } }
        let s3 := s2.log 0x0043 2 8 0x70 noTenant (mine.headD 0) r.owner
        (List.range 12).foldl (fun s d => s.setF (.fabRt d node.toNat) 0 3 portUnreachable) s3
      else s
    | none => s)

/-- QUIESCE (R411): stops or releases a sequencer or engine, for every tenant or for one. -/
def quiesceNode (node addr tenant : Nat) (s : State) : State :=
  let who : Option Nat := if nbit addr 2 then none else some tenant
  if !((0x40 ≤ node && node < 0x48) || (0x50 ≤ node && node < 0x70)) then s
  else if addr % 4 = 1 then
    if s.quiesced.contains (node, who) then s else { s with quiesced := s.quiesced ++ [(node, who)] }
  else if addr % 4 = 2 then
    { s with quiesced := s.quiesced.filter fun q => !(q.1 = node && (who = none || q.2 = who)) }
  else s

def execQuiesce (node : BitVec 8) (addr : BitVec 48) (tenant : BitVec 10) (s : State) :
    Host.Outcome State Fault Refusal := .next (quiesceNode node.toNat addr.toNat tenant.toNat s)

/-- TE_STAT (Table 13-8). -/
def State.teStat (s : State) (e : Nat) : Nat :=
  let x := s.engine e
  b2n (x.jobs.any fun j => 0 < j.done && j.done < j.granules) * 2 ^ 31 + x.jobs.length * 2 ^ 24 +
    (match s.nextJob e with
     | some j => j.tenant
     | none => 0)

end Sys2Proof.Machine
end

