-- ==== Sys2Proof/Machine/Loss.lean ====
section
/-! DEFINITION. Loss of a tower or of an I/O die (R337, R338, R405), and the caps that firmware recomputes after it
(R349, R350). -/

namespace Sys2Proof.Machine

/-! ### Caps (R349, R350) -/

/-- R28, R350: a live tower. -/
def State.towerLive (s : State) (t : Nat) : Bool := num s.towerState t ≠ 3

def liveTowers (s : State) : List Nat := (List.range 8).filter fun t => s.towerLive t

/-- R349: the largest of the last three accepted estimates, in 10^-6 °C/W. -/
def estimate (start : Nat) : List Nat → Nat
  | [] => start
  | l => (l.take 3).foldl max 0

def Thermal.rD (h : Thermal) : Nat := estimate 200000 h.estD
def Thermal.rL (h : Thermal) : Nat := estimate 250000 h.estL

/-- A limit in °C over a resistance, in µW; tc is in units of 0.5 °C. A resistance of zero does not bound (log
entry 25). -/
def capPart (limit tc r : Nat) : Nat :=
  if r = 0 then (if tc < 2 * limit then 65535 * 100000 else 0) else (2 * limit - tc) * 500000000000 / r

/-- R350: cap_t in µW. -/
def capOf (h : Thermal) (tc : Nat) : Nat := min (capPart 90 tc h.rD) (capPart 100 tc h.rL)

/-- R350: p_max in units of 0.1 W, rounded down (log entry 25). -/
def pMaxOf (cap sum head : Nat) : Nat :=
  min 65535 (if sum = 0 then 0 else if sum ≤ head * 1000000 then cap / 100000 else cap * head * 10 / sum)

/-- PKG_CAP in force in W (Table 15-5). -/
def State.capW (s : State) : Nat := if s.pkgCap = 0 then s.fuses.bin.cap else s.pkgCap

/-- R350: firmware recomputes the allocations. -/
def State.recomputeCaps (s : State) : State :=
  if !s.alive then s
  else
    let tc := s.regF .pkgCoolant 16 8
    let io := s.regF .pkgPower 0 16
    let caps := (liveTowers s).map fun t => (t, capOf (s.therm t) tc)
    let sum := (caps.map fun c => c.2).sum
    let s1 := { s with capIo := io, capTc := tc }
    caps.foldl (fun s c => s.setF (.env c.1) 16 16 (pMaxOf c.2 sum (s.capW - io))) s1

/-! ### Envelope (R336, R339, R351) -/

/-- v_env: the lowest of V_max, the phase ceiling, and 0.65 V under VIN_ALERT_N. -/
def State.vEnv (s : State) (t : Nat) : Nat :=
  let c := min s.fuses.bin.vmax (s.regF (.vregStat t) 0 16)
  if (s.therm t).vinLow then min c 650 else c

def State.refreshEnv (s : State) (t : Nat) : State := s.setF (.vstat t) 0 16 (s.vEnv t)

/-! ### What a loss takes with it -/

/-- R225, Table 9-10: every neighbour of a die marks it lost. Ports east, west, north, south are bits 31 to 28. -/
def State.markLost (s : State) (die : Nat) : State :=
  (List.range 12).foldl (fun s d =>
    (List.range 4).foldl (fun s i =>
      if neighbour s.fuses d (i + 1) = some die then s.setBit (.fabStat d) (31 - i) else s) s) s

/-- R337: the channels of a stack become unreachable: published as poisoned, and reported to tenants. -/
def State.stackLost (s : State) (n : Nat) : State :=
  if stackPresent s.fuses n then
    let left := (List.range 16).filter fun c => !s.mapped n c
    let s1 := { s with chanPoisoned := setNum s.chanPoisoned n ((left.map fun c => 2 ^ c).sum), fpDirty := true }
    left.foldl (fun s c => s.reportChannel n c) s1
  else s

/-- R28, R30: the enabled cores of a tower become lost. -/
def State.coresLost (s : State) (t : Nat) : State :=
  { s with coreState := (List.range 8).foldl (fun m i =>
      if num m (8 * t + i) = 0 then setNum m (8 * t + i) 3 else m) s.coreState,
           towerState := setNum s.towerState t 3, fpDirty := true }

/-- The contents of the tower's beds, windows and stores are gone (R40, R58, R337). -/
def State.bedsGone (s : State) (t : Nat) : State :=
  let bedGone (m : Memory) : Memory := zeroRange (zeroRange m (bedBase (8 * t)) (8 * 2 ^ 32))
    (0x200000000000 + 8 * t * 2 ^ 32) (8 * 2 ^ 32)
  let lo := bedBase (8 * t) / 64
  { s with mem := bedGone s.mem, stores := zeroRange s.stores (storeBase (8 * t)) (8 * 0x600000),
           checks := s.checks.filter fun (x : Nat × Word) => !(decide (lo ≤ x.1) && decide (x.1 < lo + 8 * 2 ^ 26)),
           cores := s.cores.filter fun (x : Nat × CoreUnit) => !decide (x.1 / 8 = t),
           beds := s.beds.filter fun (x : Nat × Bed) => !decide (x.1 / 8 = t) }

/-- Operations that the loss of tower t fails: those of lists at home there, and those that work on
its beds (R159). -/
def State.opsOnTower (s : State) (t : Nat) : List (Nat × Nat) :=
  s.lists.flatMap fun l =>
    (l.ops.filter fun o => l.home = t || o.plan.any fun p => p.members.any fun m => m.core / 8 = t).map fun o => (l.id, o.offset)

/-- R337, R279: a running list of a lost tower with nothing left in flight fails at once. -/
def State.failIdleLists (s : State) (t : Nat) : State :=
  (s.listsOn t).foldl (fun s l =>
    match s.list? l.id with
    | none => s
    | some m =>
      let m1 := if m.failed.isNone && m.stopStatus.isNone && m.ops.isEmpty then m.fail m.next osTowerLost else m
      (s.setList m1).settleList l.id false) s

/-- Transfers with jobs on the engines of a tower end with TOWER_LOST. -/
def State.enginesLost (s : State) (t : Nat) : State :=
  let gone := (s.engines.filter fun x => x.1 / 4 = t).flatMap fun x => x.2.jobs.map fun (j : Job) => (j.tenant, j.tag)
  gone.dedup.foldl (fun s g => s.stopXfer g.1 g.2 stTowerLost false) s

/-- R337, R405: a tower is lost in service; `cause` is that of entry 0x0022 and `after` the state that its discharge
leads to. -/
def State.towerLoss (s : State) (t cause : Nat) (after : DomState) : State :=
  if s.dieLost t then s
  else
    let ops := s.opsOnTower t
    let d := s.dom t
    let gone : Domain := { d with state := if d.state = .off then .off else .discharge, after := after, lost := true,
                                  uvSince := none, fuseLoaded := false, remembered := false, since := s.now }
    let s1 := (s.setDom t gone).setF (.vstat t) 16 16 0
    let s2 := (s1.log 0x0022 3 t (0x40 + t) noTenant cause 0).setFatal fatTower
    let s3 := ops.foldl (fun s o => s.finishOp o.1 o.2 osTowerLost 0) s2
    let s4 := (((s3.bedsGone t).coresLost t).enginesLost t).markLost t
    ((s4.stackLost t).failIdleLists t).recomputeCaps

/-! ### Everything off (R330, R338, R340, R346) -/

/-- Turn one domain off; its discharge leads to `after`. A latched domain stays latched unless it is to be dead. -/
def Domain.turnOff (d : Domain) (after : DomState) (now : Nat) : Domain :=
  let e := { d with remembered := false, fuseLoaded := false, uvSince := none }
  match d.state with
  | .on | .ramp => { e with state := .discharge, after := after, since := now }
  | .discharge => if after = .dead then { e with after := .dead } else e
  | .off | .latched => if after = .dead then { e with state := .dead } else e
  | .dead => e

/-- Turn every domain off and stop firmware. Nothing of it is in flight any more. -/
def State.allOff (s : State) (after : DomState) : State :=
  let s1 := (List.range 12).foldl (fun s d =>
    let x := (s.dom d).turnOff after s.now
    let y := (s.setDom d x).clrBit (.vregCtl d) 31
    if d < 8 then y.setF (.vstat d) 16 16 0 else y) s
  let s2 := (List.range 8).foldl State.bedsGone s1
  { s2 with alive := false, standby := false, hbActive := none, hbStandby := none, lists := [], xfers := [],
            engines := [], reqs := [], ports := [], guests := [], revocation := none, removing := [], quiesced := [] }

/-- R338: an I/O die is turned off: its span ports and stack go, and with X1 the mirror log's writer and the standby
complex. -/
def State.ioDieGone (s : State) (x : Nat) (after : DomState) : State :=
  let s1 := ((List.range 6).map fun i => 6 * x + i).foldl (fun s p =>
    if s.spanWorks p then s.portDown p dcPeerLost
    else if portPresent s.fuses p then (s.setSpan p {}).blankPort p 4 0 else s) s
  let d := s1.dom (8 + x)
  let s2 := s1.setDom (8 + x) { d with state := .discharge, after := after, lost := true, since := s1.now }
  let s3 := (s2.markLost (8 + x)).stackLost (8 + x)
  let s4 := if x = 0 then { s3 with flog0 := { s3.flog0 with writerOk := false }, flog1 := { s3.flog1 with peerOk := false } }
    else if x = 1 then { s3 with flog1 := { s3.flog1 with writerOk := false }, flog0 := { s3.flog0 with peerOk := false } }
    else s3
  if x = 0 then { s4.allOff .off with x0Lost := true } else s4

/-- R338: an I/O die is lost with its fourth dropped phase: entry 0x0023. The writer of a die that is gone stores nothing
more. -/
def State.ioDieLoss (s : State) (x phases : Nat) : State :=
  if s.dieLost (8 + x) then s
  else (s.ioDieGone x .dead).log 0x0023 4 (8 + x) (0x70 + x) noTenant phases 0

end Sys2Proof.Machine
end

