-- ==== Sys2Proof/Machine/Power.lean ====
section
/-! DEFINITION. Power delivery (R328 to R341), reset pins (R330, R430 to R434), undervoltage (R40, R41) and the step-rate
monitor (R37, R50). -/

namespace Sys2Proof.Machine

/-- The part is in hardpan (R346). -/
def State.inHardpan (s : State) : Bool := s.regBit .pkgHardpan 31

/-- R430: the part runs: VAUX present, RESET_N high, no hardpan. -/
def State.running (s : State) : Bool := s.vaux && s.resetN && !s.inHardpan

/-- R432: FAULT_N is low. -/
def State.faultLow (s : State) : Bool :=
  !s.resetN || s.bootState = stFailed || s.brownedOut || s.x0Lost || s.fwDead || s.inHardpan

/-- R433: THERMTRIP_N is low only in hardpan. -/
def State.thermtripLow (s : State) : Bool := s.inHardpan

/-- The regulator source of a domain; it lies outside the domain's own logic, which may be off. -/
def srcRegulator (d : Nat) : Nat := if d < 8 then srcTower d 1 else srcIo (d - 8) 0

/-- The node of a domain's crossbar in the fault log. -/
def domNode (d : Nat) : Nat := if d < 8 then 0x40 + d else 0x70 + (d - 8)

/-! ### Domain states (R331 to R333) -/

def DomState.code : DomState → Nat
  | .off => 0
  | .ramp => 1
  | .on => 2
  | .discharge => 3
  | .latched => 4
  | .dead => 5

/-- R331: a ramp starts. -/
def State.startRamp (s : State) (d : Nat) : State :=
  s.setDom d { s.dom d with state := .ramp, remembered := false, since := s.now }

/-- R331: an on request, a change of on from 0 to 1; in LATCHED and DEAD the write is refused and logged. -/
def State.onReq (s : State) (d : Nat) : State :=
  let x := s.dom d
  match x.state with
  | .latched | .dead =>
    (s.setBit (.vregStat d) 24).log 0x0026 0 d (domNode d) noTenant x.state.code (s.regF (.vregStat d) 25 2)
  | .off => (s.setBit (.vregCtl d) 31).startRamp d
  | .discharge => (s.setBit (.vregCtl d) 31).setDom d { x with remembered := true }
  | .ramp | .on => s.setBit (.vregCtl d) 31

/-- R330, R331: turn a domain off as by an off request, its discharge leading to OFF. -/
def State.domOff (s : State) (d : Nat) : State :=
  let x := s.dom d
  let s1 := s.clrBit (.vregCtl d) 31
  match x.state with
  | .on =>
    if d < 8 then ((s1.bedsGone d).setDom d (x.turnOff .off s.now)).setF (.vstat d) 16 16 0
    else s1.ioDieGone (d - 8) .off
  | _ => s1.setDom d (x.turnOff .off s.now)

/-- R331, R332: an off request, a change of on from 1 to 0; refused and logged for a tower that is ON after FIRED. -/
def State.offReq (s : State) (d : Nat) : State :=
  if d < 8 && decide ((s.dom d).state = .on) && s.fired then
    (s.setBit (.vregStat d) 24).log 0x0025 0 d (domNode d) noTenant d 0
  else s.domOff d

/-- VREG_CTL.clear: a LATCHED domain goes to OFF. -/
def State.vregClear (s : State) (d : Nat) : State :=
  let x := s.dom d
  if x.state = .latched then s.setDom d { x with state := .off } else s

/-- Domains present (R15). -/
def State.domPresent (s : State) (d : Nat) : Bool := diePresent s.fuses d

/-- R8, R10, R331: a write of VREG_CTL: target where legal, then the request that the change of on makes, then clear. -/
def State.vregWrite (s : State) (d v : Nat) : State :=
  let legal := (Reg.legal s.fuses (.vregCtl d)).all fun x => x.2.2 (nf v x.1 x.2.1)
  let s1 := if legal then s.setF (.vregCtl d) 0 10 (nf v 0 10) else s
  let on := s.regBit (.vregCtl d) 31
  let s2 := if nbit v 31 && !on then s1.onReq d else if !nbit v 31 && on then s1.offReq d else s1
  if nbit v 30 then s2.vregClear d else s2

/-- ON_REQUEST (R331): a write of VREG_CTL with on set. -/
def execOnRequest (domain : Fin 12) (value : Word) (s : State) : Host.Outcome State Fault Refusal :=
  .next (if s.running && s.domPresent domain.val && nbit value.toNat 31 then s.vregWrite domain.val value.toNat else s)

/-- OFF_REQUEST (R331, R332): a write of VREG_CTL with on clear. -/
def execOffRequest (domain : Fin 12) (value : Word) (s : State) : Host.Outcome State Fault Refusal :=
  .next (if s.running && s.domPresent domain.val && !nbit value.toNat 31 then s.vregWrite domain.val value.toNat else s)

/-- VREG_CTL_CLEAR (R331): a write of VREG_CTL with clear set. -/
def execVregCtlClear (domain : Fin 12) (value : Word) (s : State) : Host.Outcome State Fault Refusal :=
  .next (if s.running && s.domPresent domain.val && nbit value.toNat 30 then s.vregWrite domain.val value.toNat else s)

/-- R333, R351: a domain reaches ON; a tower's set-point starts at its ramp target. After FIRED a tower stays unused until
the next bring-up (R332). -/
def State.rampDone (s : State) (d : Nat) : State :=
  let x := s.dom d
  let s1 := s.setDom d { x with state := .on, since := s.now, unused := x.unused || (d < 8 && s.fired) }
  if d < 8 then (s1.setF (.vstat d) 16 16 (s.regF (.vregCtl d) 0 10)).refreshEnv d else s1

/-- RAMP_COMPLETE (R333). -/
def execRampComplete (domain : Fin 12) (s : State) : Host.Outcome State Fault Refusal :=
  .next (if (s.dom domain.val).state = .ramp then s.rampDone domain.val else s)

def RampCause.code : RampCause → Nat
  | .ok => 0
  | .short => 1
  | .low => 2
  | .notGood => 3

/-- R333: a ramp fails: LATCHED, or DEAD on the third failure; on is cleared (R331). -/
def State.rampFail (s : State) (d code : Nat) : State :=
  let x := s.dom d
  let fails := satAdd 3 (s.regF (.vregStat d) 25 2) 1
  let s1 := (s.setF (.vregStat d) 27 2 code).setF (.vregStat d) 25 2 fails
  let s2 := (s1.setDom d { x with state := if 3 ≤ fails then .dead else .latched, remembered := false, since := s.now }).clrBit
    (.vregCtl d) 31
  (s2.log 0x0020 2 d (domNode d) noTenant code fails).icEvent (srcRegulator d)

/-- RAMP_FAILURE (R333). The cause `ok` is no failure. -/
def execRampFailure (domain : Fin 12) (cause : RampCause) (s : State) : Host.Outcome State Fault Refusal :=
  .next (if (s.dom domain.val).state = .ramp && cause ≠ .ok then s.rampFail domain.val (RampCause.code cause) else s)

/-- FUSE_LOAD (R333): 2 ms (400,000 ticks) after ON. -/
def execFuseLoad (tower : Fin 8) (s : State) : Host.Outcome State Fault Refusal :=
  .next (let x := s.dom tower.val
    if decide (x.state = .on) && !x.fuseLoaded && decide (x.since + 400000 ≤ s.now) then s.setDom tower.val { x with fuseLoaded := true }
    else s)

/-- R331: the output falls below 0.1 V: OFF, or the state set by the cause; a remembered on request ramps. -/
def dischargeComplete (d : Nat) (s : State) : State :=
  let x := s.dom d
  if x.state ≠ .discharge then s
  else
    match x.after with
    | .dead => (s.setDom d { x with state := .dead, remembered := false }).clrBit (.vregCtl d) 31
    | .latched => (s.setDom d { x with state := .latched, remembered := false }).clrBit (.vregCtl d) 31
    | _ => let s1 := s.setDom d { x with state := .off, remembered := false }
      if x.remembered then s1.startRamp d else s1

def execDischargeComplete (domain : Fin 12) (s : State) : Host.Outcome State Fault Refusal :=
  .next (dischargeComplete domain.val s)

/-! ### Phases (R335, R336, R338) -/

/-- Dropped phases of a domain. -/
def State.phasesLost (s : State) (d : Nat) : Nat :=
  ((List.range 16).filter fun p => s.regF (.vregPhasest d) (2 * p) 2 ≠ 0).length

/-- Table 14-5: tower_state for a number of dropped phases. -/
def phaseTowerState (n : Nat) : Nat := if n = 0 then 0 else if n ≤ 2 then 1 else if n ≤ 4 then 2 else 3

/-- R336: lower the set-point by 10 mV while the measured current (0.1 A, one value for each set-point tried) exceeds the
capacity or the set-point the limit, never below 600 mV. -/
def fitCeiling (cap limit sp : Nat) : List Nat → Nat
  | [] => sp
  | c :: cs => if (cap < c || limit < sp) && 610 ≤ sp then fitCeiling cap limit (sp - 10) cs else sp

/-- R336: the new set-point: by the measured currents first, then down to the limit for n ≥ 3. -/
def newSetpoint (n sp : Nat) (currents : List Nat) : Nat :=
  let limit := if 3 ≤ n then 700 else 900
  let fit := fitCeiling (225 * (16 - n)) limit sp currents
  if 3 ≤ n then min fit (max 600 700) else fit

/-- PHASE_DROP (R335, R336, R337, R338): `currents` are the measurements at the set-points that the governor tries, in
0.1 A. -/
def phaseDrop (d phase : Nat) (sense : Bool) (currents : List Nat) (s : State) : State :=
  if (s.dom d).state ≠ .on || (8 ≤ d && 8 ≤ phase) || s.regF (.vregPhasest d) (2 * phase) 2 ≠ 0 then s
  else
    let s1 := s.setF (.vregPhasest d) (2 * phase) 2 (if sense then 2 else 1)
    let n := s1.phasesLost d
    let s2 := { s1.setF (.vregStat d) 20 4 n with fpDirty := true }
    let d0 := phase + (if sense then 2 ^ 31 else 0)
    if d < 8 then
      let sp := newSetpoint n (s.regF (.vstat d) 16 16) currents
      let ceiling := if 5 ≤ n then s.regF (.vregStat d) 0 16 else min (s.regF (.vregStat d) 0 16) sp
      let s3 := (s2.setF (.vregStat d) 0 16 ceiling).icEvent (srcRegulator d)
      let s4 := s3.log 0x0021 1 d (domNode d) noTenant d0 ceiling
      if 5 ≤ n then s4.towerLoss d 1 .dead
      else
        let s5 := (s4.setF (.vstat d) 16 16 (min (s.regF (.vstat d) 16 16) sp)).refreshEnv d
        if s5.towerLive d then { s5 with towerState := setNum s5.towerState d (phaseTowerState n) } else s5
    else
      let s3 := (s2.icEvent (srcRegulator d)).log 0x0021 1 d (domNode d) noTenant d0 (s.regF (.vregStat d) 0 16)
      if 4 ≤ n then s3.ioDieLoss (d - 8) n else s3

def execPhaseDrop (domain : Fin 12) (phase : Fin 16) (sense : Bool) (currents : List (BitVec 16)) (s : State) :
    Host.Outcome State Fault Refusal := .next (phaseDrop domain.val phase.val sense (currents.map BitVec.toNat) s)

/-! ### Undervoltage (R40, R41) -/

/-- UNDERVOLTAGE_STOP: the tower's sources stop; the event waits in its latch (R367). -/
def undervoltageStop (t : Nat) (s : State) : State :=
  let x := s.dom t
  if x.state = .on && x.uvSince.isNone then
    ((s.setDom t { x with uvSince := some s.now }).countF (.twrUvcnt t) 0 32 1).raise (srcTower t 2)
  else s

def execUndervoltageStop (tower : Fin 8) (s : State) : Host.Outcome State Fault Refusal :=
  .next (undervoltageStop tower.val s)

/-- R41: the entry of a stop, with its duration in ticks. -/
def State.logStop (s : State) (t since : Nat) : State := s.log 0x0011 1 t (0x40 + t) noTenant (s.now - since) 0

/-- UNDERVOLTAGE_RESUME. -/
def undervoltageResume (t : Nat) (s : State) : State :=
  let x := s.dom t
  match x.uvSince with
  | some since => (s.setDom t { x with uvSince := none }).logStop t since
  | none => s

def execUndervoltageResume (tower : Fin 8) (s : State) : Host.Outcome State Fault Refusal :=
  .next (undervoltageResume tower.val s)

/-- UNDERVOLTAGE_TOWER_LOSS: below 0.50 V for 1 ms, 200,000 ticks. -/
def undervoltageTowerLoss (t : Nat) (s : State) : State :=
  match (s.dom t).uvSince with
  | some since => if since + 200000 ≤ s.now then (s.logStop t since).towerLoss t 2 .dead else s
  | none => s

def execUndervoltageTowerLoss (tower : Fin 8) (s : State) : Host.Outcome State Fault Refusal :=
  .next (undervoltageTowerLoss tower.val s)

/-! ### VIN (R339, R340) -/

/-- VIN_ALERT (R339): every tower's envelope falls to 0.65 V. -/
def vinAlert (s : State) : State :=
  if !s.running || s.vinAlert then s
  else
    let s1 := (((s.setBit .vinStat 31).setBit .vinStat 30).countF .vinAlertcnt 0 32 1).raise (srcIo 0 3)
    (List.range 8).foldl (fun s t => (s.setTherm t { s.therm t with vinLow := true }).refreshEnv t)
      { s1 with vinAlert := true, vinReturned := 0 }

def execVinAlert (s : State) : Host.Outcome State Fault Refusal := .next (vinAlert s)

/-- VIN_ALERT_RELEASE (R339). -/
def execVinAlertRelease (s : State) : Host.Outcome State Fault Refusal :=
  .next (if s.vinAlert then { s.clrBit .vinStat 31 with vinAlert := false, vinHighSince := s.now, vinReturned := 0 } else s)

/-- ENVELOPE_RETURN (R339): after 1 ms high (200,000 ticks) the towers return one every 100 µs (20,000 ticks), in
ascending order. -/
def envelopeReturn (s : State) : State :=
  let t := s.vinReturned
  if !s.vinAlert && decide (t < 8) && decide (s.vinHighSince + 200000 + 20000 * t ≤ s.now) then
    { (s.setTherm t { s.therm t with vinLow := false }).refreshEnv t with vinReturned := t + 1 }
  else s

def execEnvelopeReturn (s : State) : Host.Outcome State Fault Refusal := .next (envelopeReturn s)

/-- BROWNOUT (R340): logged, FAULT_N asserted, every domain off, until RESET_N is cycled. -/
def brownout (vin : Nat) (s : State) : State :=
  if !s.running || s.brownedOut then s
  else { ((s.setF .vinStat 0 16 vin).log 0x0024 4 8 0x70 noTenant vin 0).allOff .off with brownedOut := true }

def execBrownout (vin : BitVec 16) (s : State) : Host.Outcome State Fault Refusal := .next (brownout vin.toNat s)

/-! ### Reset pins and VAUX (R330, R374, R386, R387, R389, R392, R431) -/

/-- R9, R341, R361: registers that keep their contents across warm reset, and what they keep. Counts "since power-on" keep
theirs (log entry 30). The number of dropped phases and the 0.70 V limit follow the phases, which stay dropped (log
entry 29). -/
def State.warmRegs (s : State) : State :=
  let keep (r : Reg) (z : State) : State := z.setReg r (s.reg r)
  let z0 : State := { State.reset with fuses := s.fuses }
  let z1 := (List.range 12).foldl (fun z d =>
    let z1 := (keep (.vregPhasest d) z).setF (.vregStat d) 25 2 (s.regF (.vregStat d) 25 2)
    let n := s.phasesLost d
    let z2 := z1.setF (.vregStat d) 20 4 n
    if d < 8 && 3 ≤ n then (z2.setF (.vregStat d) 0 16 (min 700 s.fuses.bin.vmax)).setF (.vstat d) 0 16 (min 700 s.fuses.bin.vmax)
    else z2) z0
  let z2 := (List.range 8).foldl (fun z t => keep (.twrUvcnt t) z) z1
  keep .vinAlertcnt (keep .pkgHardpan z2)

/-- A domain after warm reset: LATCHED returns to OFF, DEAD stays, anything else is off or discharging (R330, R341). -/
def Domain.warm (d : Domain) (now : Nat) : Domain :=
  match d.state with
  | .dead => { state := .dead }
  | .on | .ramp => { state := .discharge, since := now }
  | .discharge => { state := .discharge, after := if d.after = .dead then .dead else .off, since := d.since }
  | .off | .latched => {}

/-- The part after a warm reset has begun: everything at reset but what VAUX keeps: timebase, fault logs, MB_FATAL, the
registers above, straps, and the failover count (R309's "since power-on", log entry 30). -/
def State.warm (s : State) : State :=
  { s.warmRegs with
    pending := s.pending, out := s.out, freeCtr := s.freeCtr, now := s.now, vaux := s.vaux,
    tb := { s.tb with preset := 0, armed := false }, flog0 := s.flog0, flog1 := s.flog1, fatal := s.fatal,
    domains := (s.domains.map fun (x : Nat × Domain) => (x.1, x.2.warm s.now)).filter fun (x : Nat × Domain) => x.2 ≠ {},
    failovers := s.failovers, usedKeys := s.usedKeys,
    x0Lost := decide ((s.dom 8).state = .dead) || (decide ((s.dom 8).state = .discharge) && decide ((s.dom 8).after = .dead)),
    perstLow := s.perstLow, straps := s.straps }

/-- RESET_N_ASSERT (R330): every domain is turned off at once. Hardpan ignores the pin (R347). -/
def resetAssert (s : State) : State := if s.running then { s.warm with resetN := false } else s

def execResetNAssert (s : State) : Host.Outcome State Fault Refusal := .next (resetAssert s)

/-- R389: an I/O die whose soft start at 0.75 V succeeded is ON; another one is still ramping, and RAMP_COMPLETE or
RAMP_FAILURE ends it. A DEAD die stays. -/
def State.startIo (s : State) (x : Nat) (up : Bool) : State :=
  let d := s.dom (8 + x)
  if !diePresent s.fuses (8 + x) || decide (d.state = .dead) then s
  else
    let s1 := (s.setBit (.vregCtl (8 + x)) 31).setF (.vregCtl (8 + x)) 0 10 750
    s1.setDom (8 + x) { state := if up then .on else .ramp, since := s.now }

/-- RESET_N_RELEASE (R330, R387, R389): the straps latch, the I/O dies soft-start and the part enters GREEN. -/
def resetRelease (straps ioUp : Nat) (s : State) : State :=
  if s.vaux && !s.resetN && !s.inHardpan then
    let s1 := { s.warm with resetN := true, straps := straps }.setBw BW.straps (BitVec.ofNat 64 straps)
    (List.range 4).foldl (fun s x => s.startIo x (nbit ioUp x)) s1
  else s

def execResetNRelease (straps : BitVec 12) (ioUp : BitVec 4) (s : State) : Host.Outcome State Fault Refusal :=
  .next (resetRelease straps.toNat ioUp.toNat s)

/-- PERST_N (R392): a PCIe port is reset alone; the model keeps the pin's level and nothing of the link (see Scope). -/
def execPerstN (port : Fin 4) (low : Bool) (s : State) : Host.Outcome State Fault Refusal :=
  .next (if s.running then
    { s with perstLow := if low then Nat.lor s.perstLow (2 ^ port.val) else s.perstLow - Nat.land s.perstLow (2 ^ port.val) }
    else s)

/-- The part without VAUX, or right after it rises: reset values everywhere (R374, R386, R413). -/
def State.cold (s : State) (vaux : Bool) : State :=
  { State.reset with fuses := s.fuses, pending := s.pending, out := s.out, freeCtr := s.freeCtr, vaux := vaux }

/-- VAUX_LOSS (R431): everything is lost. -/
def execVauxLoss (s : State) : Host.Outcome State Fault Refusal := .next (if s.vaux then s.cold false else s)

/-- VAUX_RISE (R374). -/
def execVauxRise (s : State) : Host.Outcome State Fault Refusal := .next (if s.vaux then s else s.cold true)

/-! ### Step-rate monitor (R37, R50) -/

/-- Table 2-1: minimum step rate in M steps/s at a set-point; below 0.60 V there is none. -/
def minRate (mv : Nat) : Nat :=
  if mv < 600 then 0 else if mv < 650 then 550 else if mv < 700 then 700 else if mv < 750 then 850
  else if mv < 800 then 1000 else if mv < 850 then 1130 else 1250

/-- The rate of 4096 handshakes in a number of ticks of 5 ns, in M steps/s, rounded down (log entry 25). -/
def rateOf (ticks : Nat) : Nat := if ticks = 0 then 65535 else min 65535 (819200 / ticks)

/-- STEPMON_MEASUREMENT (R50). -/
def stepmonMeasure (k ticks : Nat) (s : State) : State :=
  let t := k / 8
  if (s.dom t).state ≠ .on || (s.dom t).uvSince.isSome then s
  else
    let h := s.therm t
    let r := rateOf ticks
    let sp := s.regF (.vstat t) 16 16
    let s1 := s.setTherm t { h with windowMin := some (match h.windowMin with
      | some m => min m r
      | none => r) }
    if 819200 < minRate sp * ticks then
      ((s1.setBit (.stepmon t) 15).raise (srcTower t 0)).log 0x0010 2 t (0x40 + t) noTenant r sp
    else s1

def execStepmonMeasurement (core : Fin 64) (ticks : BitVec 16) (s : State) : Host.Outcome State Fault Refusal :=
  .next (stepmonMeasure core.val ticks.toNat s)

/-- Table 2-4: window length in ticks. -/
def windowTicks (w : Nat) : Nat := 200 * 10 ^ w

/-- STEPMON_WINDOW_END (R50). -/
def stepmonWindowEnd (t : Nat) (s : State) : State :=
  let h := s.therm t
  if h.windowStart + windowTicks (s.regF (.stepmon t) 0 2) ≤ s.now then
    (s.setF (.stepmon t) 16 16 (h.windowMin.getD 0)).setTherm t { h with windowMin := none, windowStart := s.now }
  else s

def execStepmonWindowEnd (tower : Fin 8) (s : State) : Host.Outcome State Fault Refusal :=
  .next (stepmonWindowEnd tower.val s)

end Sys2Proof.Machine
end

