-- ==== Sys2Proof/Machine/Heat.lean ====
section
/-! DEFINITION. Sensors, throttling, flags, hardpan, coolant, thermal resistance and the governor (R342 to R353, R438), and
what the part measures by itself at every tick. -/

namespace Sys2Proof.Machine

/-! ### Hardpan (R346, R347, R392) -/

/-- R346: the cause is latched, logged and reported, and every domain goes off to DEAD; a running boot step ends with
HARDPAN. -/
def State.enterHardpan (s : State) (cause source value : Nat) : State :=
  if s.inHardpan then s
  else
    let v := 2 ^ 31 + cause * 2 ^ 28 + source * 2 ^ 16 + value % 65536
    let s1 := ((s.setReg .pkgHardpan (BitVec.ofNat 64 v)).log 0x0061 4 8 0x70 noTenant v 0).setFatal fatHardpan
    let s2 := (s1.allOff .dead).setBwF BW.state 28 4 stHardpan
    if s2.bootRun.isSome then
      ({ s2 with bootRun := none }.setBwF BW.status 31 1 0).setBwF BW.status 0 8 0x11
    else s2

/-! ### Sensors (R342, R343) -/

def Thermal.sensor (h : Thermal) (n : Nat) : Sensor := look (fun _ => {}) h.sensors n
def Thermal.setSensor (h : Thermal) (n : Nat) (x : Sensor) : Thermal := { h with sensors := put (fun _ => {}) h.sensors n x }

/-- Mean of the last four conversions in 1/128 °C, rounded down (log entry 25); fewer while fewer have been made. -/
def meanOf (l : List Int) : Int := if l.isEmpty then 0 else l.sum / (l.length : Int)

/-- A conversion from −40 °C to 150 °C, in 1/128 °C. -/
def rawOk (v : Int) : Bool := decide (-5120 ≤ v) && decide (v ≤ 19200)

def Sensor.reading (x : Sensor) : Int := x.readings.headD 0

/-- The rise in units of 0.01 °C/ms: the change over twenty updates, 200 µs, and zero until they exist (log entry 25). -/
def Sensor.rise (x : Sensor) : Int :=
  match x.readings[20]? with
  | some old => (x.reading - old) * 500 / 128
  | none => 0

/-- A sensor after a conversion in range: its reading is the mean of the last four. -/
def Sensor.convert (x : Sensor) (v : Int) (now : Nat) : Sensor :=
  let conv := (v :: x.conv).take 4
  let y : Sensor := { conv := conv, readings := (meanOf conv :: x.readings).take 21, lastConv := now }
  { y with steep := if decide (1000 ≤ y.rise) then x.steep + 1 else 0 }

/-- Sensors of a tower that count: converted and not failed, of the logic (0 to 15) or the DRAM layers (16 to 31). -/
def Thermal.good (h : Thermal) (dram : Bool) : List Sensor :=
  ((List.range 16).map fun i => h.sensor (if dram then 16 + i else i)).filter fun x => !x.failed && !x.readings.isEmpty

def maxInt : List Int → Option Int
  | [] => none
  | x :: xs => some (xs.foldl max x)

/-- T_D, T_L in 1/128 °C and G_D in 0.01 °C/ms. -/
def Thermal.tD (h : Thermal) : Option Int := maxInt ((h.good true).map Sensor.reading)
def Thermal.tL (h : Thermal) : Option Int := maxInt ((h.good false).map Sensor.reading)
def Thermal.gD (h : Thermal) : Option Int := maxInt ((h.good true).map Sensor.rise)

/-- R343: the envelope is halved: every sensor of one DRAM layer has failed, or more than eight logic sensors have. -/
def Thermal.mustHalve (h : Thermal) : Bool :=
  ((List.range 8).all fun i => (h.sensor (16 + i)).failed) || ((List.range 8).all fun i => (h.sensor (24 + i)).failed) ||
    decide (8 < ((List.range 16).filter fun i => (h.sensor i).failed).length)

/-- R343: a sensor fails: reported once, with its last raw conversion. A later conversion in range ends the failure (log
entry 32). -/
def State.sensorFail (s : State) (t n : Nat) (raw : Nat) : State :=
  let h := s.therm t
  let x := h.sensor n
  if x.failed then s
  else
    let h1 := h.setSensor n { x with failed := true, steep := 0 }
    let s1 := s.setTherm t { h1 with halved := h1.halved || h1.mustHalve }
    (((s1.setReg (.tsens t n) (BitVec.ofNat 64 0x80000000)).setBit (.thstat t) 26).raise (srcTower t 3)).log 0x0060 1 t
      (0x40 + t) noTenant n raw

/-- Clamp to an unsigned byte of whole °C. -/
def wholeC (v : Option Int) : Nat :=
  match v with
  | some x => (max 0 (min 255 (x / 128))).toNat
  | none => 0

/-- Table 15-2: a dwell flag after an update: `on` is its setting condition, `off` its clearing one. The flag of the pair
tells that it has just been set. -/
def DwellFlag.update (f : DwellFlag) (on off : Bool) (now : Nat) : DwellFlag × Bool :=
  if f.set then
    ({ f with clearSince := if off then (match f.clearSince with
        | some t => some t
        | none => some now) else none }, false)
  else if on then ({ set := true, since := now, clearSince := none }, true)
  else (f, false)

/-- At least a value. -/
def geOpt (v : Option Int) (n : Int) : Bool :=
  match v with
  | some x => decide (n ≤ x)
  | none => false

/-- R345: the flags after an update of the readings; each setting raises the thermal event once. -/
def State.updateFlags (s : State) (t : Nat) : State :=
  let h := s.therm t
  let a := h.dramHot.update (geOpt h.tD (90 * 128)) (!geOpt h.tD (88 * 128)) s.now
  let b := h.logicHot.update (geOpt h.tL (100 * 128)) (!geOpt h.tL (98 * 128)) s.now
  let c := h.rising.update (geOpt h.gD 200) (!geOpt h.gD 100) s.now
  let s1 := s.setTherm t { h with dramHot := a.1, logicHot := b.1, rising := c.1 }
  let s2 := ((s1.setF (.thstat t) 31 1 (b2n a.1.set)).setF (.thstat t) 30 1 (b2n b.1.set)).setF (.thstat t) 29 1 (b2n c.1.set)
  let s3 := (s2.setF (.thstat t) 8 8 (wholeC h.tD)).setF (.thstat t) 0 8 (wholeC h.tL)
  [a.2, b.2, c.2].foldl (fun s set => if set then s.raise (srcTower t 3) else s) s3

/-- R346: a condition of hardpan at a tower's sensors: cause, source and value. -/
def State.hardpanAt (s : State) (t : Nat) : Option (Nat × Nat × Nat) :=
  let h := s.therm t
  let good (n : Nat) : Bool := !(h.sensor n).failed && !(h.sensor n).readings.isEmpty
  match (List.range 32).find? fun n => good n && decide ((if n < 16 then 105 * 128 else 100 * 128) ≤ (h.sensor n).reading) with
  | some n => some (if n < 16 then 1 else 2, t * 32 + n, ((h.sensor n).reading / 64).toNat)
  | none =>
    match (List.range 32).find? fun n => good n && decide (500 ≤ (h.sensor n).steep) with
    | some n => some (4, t * 32 + n, ((h.sensor n).rise / 10).toNat)
    | none => none

/-- One sensor's conversion. -/
def State.convertSensor (s : State) (t n : Nat) (raw : Nat) : State :=
  let v := toSigned 16 raw
  if rawOk v then
    let x := ((s.therm t).sensor n).convert v s.now
    (s.setTherm t ((s.therm t).setSensor n x)).setReg (.tsens t n)
      (BitVec.ofNat 64 (ofSigned 16 x.reading * 65536 + ofSigned 16 x.rise))
  else s.sensorFail t n raw

/-- SENSOR_CONVERSION (R342, R343, R345, R346): the 32 sensors of a tower that is ON convert. -/
def sensorConversion (t : Nat) (raw : List Nat) (s : State) : State :=
  if (s.dom t).state ≠ .on || !s.running then s
  else
    let s1 := (List.zip (List.range 32) raw).foldl (fun s x => s.convertSensor t x.1 x.2) s
    let s2 := s1.updateFlags t
    match s2.hardpanAt t with
    | some (c, src, v) => s2.enterHardpan c src v
    | none => s2

def execSensorConversion (tower : Fin 8) (raw : List (BitVec 16)) (s : State) : Host.Outcome State Fault Refusal :=
  .next (sensorConversion tower.val (raw.map BitVec.toNat) s)

/-- SENSOR_FAILURE (R343): no conversion for 100 µs (20,000 ticks) while the tower is ON. -/
def sensorFailure (t n : Nat) (s : State) : State :=
  let x := (s.therm t).sensor n
  if (s.dom t).state = .on && decide (max x.lastConv (s.dom t).since + 20000 ≤ s.now) then
    s.sensorFail t n (ofSigned 16 (x.conv.headD 0))
  else s

def execSensorFailure (tower : Fin 8) (sensor : Fin 32) (s : State) : Host.Outcome State Fault Refusal :=
  .next (sensorFailure tower.val sensor.val s)

/-! ### Throttle (R344) -/

/-- R344: the reduction in units of 0.1 W / 12,800; temperatures in 1/128 °C, the rise in 0.01 °C/ms. -/
def reduction (k1 k2 : Nat) (tD tL gD : Option Int) : Nat :=
  let above (v : Option Int) (lim : Int) : Int := match v with
    | some x => pos (x - lim)
    | none => 0
  k1 * 100 * (max (above tD (90 * 128)) (above tL (100 * 128))).toNat + k2 * 128 * (above gD 200).toNat

/-- R354: committed power of a tower in 0.1 W: its idle power and the charge of every admitted list. -/
def State.committed (s : State) (t : Nat) : Nat :=
  (s.therm t).idlePower + ((s.lists.filter fun l => decide (l.state = .running) || decide (l.state = .stopping) ||
    decide (l.state = .resuming)).map fun l => l.power.getD t 0).sum

/-- THROTTLE_UPDATE (R343, R344, R357): p_hw follows p_max and the readings; the instant since when it is short of the
committed power by more than 25% is kept. -/
def throttleUpdate (t : Nat) (s : State) : State :=
  if (s.dom t).state ≠ .on then s
  else
    let h := s.therm t
    let dp := reduction (s.regF (.thcoef t) 16 16) (s.regF (.thcoef t) 0 16) h.tD h.tL h.gD
    let pm := s.regF (.env t) 16 16
    let p := (pm * 12800 - dp) / 12800
    let hw := if h.halved then min p (pm / 2) else p
    let s1 := (s.setF (.env t) 0 16 hw).setF (.thstat t) 28 1 (b2n (decide (0 < dp)))
    let short := 4 * hw < 3 * s.committed t
    s1.setTherm t { h with shortSince := if short then (match h.shortSince with
        | some x => some x
        | none => some s.now) else none }

def execThrottleUpdate (tower : Fin 8) (s : State) : Host.Outcome State Fault Refusal :=
  .next (throttleUpdate tower.val s)

/-- A dwell flag clears: its clear condition has held, and the flag has been set, for 10 ms (2,000,000 ticks). -/
def DwellFlag.canClear (f : DwellFlag) (now : Nat) : Bool :=
  f.set && decide (f.since + 2000000 ≤ now) && (match f.clearSince with
    | some t => decide (t + 2000000 ≤ now)
    | none => false)

/-- THERMAL_FLAG_CLEAR (R345). -/
def thermalFlagClear (t : Nat) (flag : ThFlag) (s : State) : State :=
  let h := s.therm t
  match flag with
  | .dramHot => if h.dramHot.canClear s.now then (s.setTherm t { h with dramHot := {} }).clrBit (.thstat t) 31 else s
  | .logicHot => if h.logicHot.canClear s.now then (s.setTherm t { h with logicHot := {} }).clrBit (.thstat t) 30 else s
  | .rising => if h.rising.canClear s.now then (s.setTherm t { h with rising := {} }).clrBit (.thstat t) 29 else s

def execThermalFlagClear (tower : Fin 8) (flag : ThFlag) (s : State) : Host.Outcome State Fault Refusal :=
  .next (thermalFlagClear tower.val flag s)

/-! ### Coolant and thermal resistance (R348, R349, R438) -/

/-- R438: the byte an input reads as. -/
def thermByte : Thermistor → Nat
  | .temp b => b.toNat
  | .openCircuit => 0
  | .shorted => 0xFF

/-- R348, R438: valid from 5 °C to 95 °C. -/
def thermValid : Thermistor → Bool
  | .temp b => decide (10 ≤ b.toNat) && decide (b.toNat ≤ 190)
  | _ => false

/-- The coolant temperature in units of 0.5 °C. -/
def coolant (a b : Thermistor) : Nat :=
  match thermValid a, thermValid b with
  | true, true => max (thermByte a) (thermByte b)
  | true, false => thermByte a
  | false, true => thermByte b
  | false, false => 0x5A

/-- R350: Tc or p_io has moved far enough from the values that the last computation used. -/
def State.capsStale (s : State) : Bool :=
  let tc := s.regF .pkgCoolant 16 8
  let io := s.regF .pkgPower 0 16
  decide (2 ≤ (tc - s.capTc) + (s.capTc - tc)) || decide (10 ≤ (io - s.capIo) + (s.capIo - io))

/-- Firmware recomputes the caps when they are stale, once it serves. -/
def State.refreshCaps (s : State) : State := if s.fired && s.capsStale then s.recomputeCaps else s

/-- THERMISTOR_CONVERSION (R348, R438). -/
def thermistorConversion (a b : Thermistor) (s : State) : State :=
  if !s.vaux then s
  else
    (s.setReg .pkgCoolant (BitVec.ofNat 64 (b2n (thermValid b) * 2 ^ 31 + b2n (thermValid a) * 2 ^ 30 + coolant a b * 65536 +
      thermByte b * 256 + thermByte a))).refreshCaps

def execThermistorConversion (in0 in1 : Thermistor) (s : State) : Host.Outcome State Fault Refusal :=
  .next (thermistorConversion in0 in1 s)

/-- A thermal resistance in 10^-6 °C/W from rises and powers in tenths, rounded down (log entry 25). -/
def rthOf (rise1 rise2 : Int) (dp : Nat) : Nat := ((rise1 - rise2) * 1000000 / (dp : Int)).toNat

/-- RTH_ESTIMATION (R349, R350): the whole procedure of Table 15-4, which restores p_max at its end: it runs at the policy
interval while the mean power is at least 60 W, and keeps an estimate where the step was at least 7%. -/
def rthEstimation (t : Nat) (m : RthMeasure) (s : State) : State :=
  let h := s.therm t
  if !s.alive || !s.fired || !s.towerLive t || m.p1.toNat < 600 ||
    decide (s.now < h.lastRth + s.rthInterval * 200000000) then s
  else
    let s1 := s.setTherm t { h with lastRth := s.now }
    if m.p2.toNat < m.p1.toNat && decide (7 * m.p1.toNat ≤ 100 * (m.p1.toNat - m.p2.toNat)) then
      let dp := m.p1.toNat - m.p2.toNat
      let up (a b : BitVec 16) : Int := toSigned 16 a.toNat - toSigned 16 b.toNat
      let d := rthOf (up m.td1 m.tc1) (up m.td2 m.tc2) dp
      let l := rthOf (up m.tl1 m.tc1) (up m.tl2 m.tc2) dp
      (s1.setTherm t { h with lastRth := s.now, estD := (d :: h.estD).take 3, estL := (l :: h.estL).take 3 }).recomputeCaps
    else s1

def execRthEstimation (tower : Fin 8) (m : RthMeasure) (s : State) : Host.Outcome State Fault Refusal :=
  .next (rthEstimation tower.val m s)

/-! ### Governor (R351, R352) -/

/-- R351: the wanted voltage. -/
def State.wanted (s : State) (t : Nat) : Nat :=
  min (max (s.regF (.vgov t) 0 10) (s.regF (.vgov t) 20 10)) (s.regF (.vgov t) 10 10)

/-- What one evaluation decides: the new set-point, and whether it rose. Power is in 0.1 mW, p_hw in 0.1 W. -/
def governorMove (sp target power hw : Nat) (canRise : Bool) : Nat × Bool :=
  if sp < 600 then (min 600 (sp + 100), true)
  else if target < sp then (max 600 (max target (sp - 100)), false)
  else if hw * 1000 < power then (max 600 (sp - 10), false)
  else if sp < target && decide (100 * power ≤ 97 * hw * 1000) && canRise then (min target (sp + 10), true)
  else (sp, false)

/-- R305, R352: a clamped floor is reported to every tenant whose floor on the tower lies above the set-point. -/
def State.reportClamp (s : State) (t sp : Nat) : State :=
  (((s.listsOn t).map fun l => l.tenant).dedup.filter fun n => decide (sp < num s.vFloor (floorKey n t))).foldl (fun s n =>
    { s with clamps := setNum s.clamps (n * 8 + 2) (num s.clamps (n * 8 + 2) + 1) }.notify n noticePolicyClamp 0 2
      (leBytes 4 (num s.vFloor (floorKey n t)) ++ leBytes 4 sp)) s

/-- R352: a floor is clamped: the set-point is below it and the governor cannot rise. -/
def State.floorClamp (s : State) (t power : Nat) : State :=
  let h := s.therm t
  let sp := s.regF (.vstat t) 16 16
  let floor := s.regF (.vgov t) 20 10
  let hw := s.regF (.env t) 0 16
  if floor = 0 || floor ≤ sp then s.setTherm t { h with clampedNow := false }
  else if !h.clampedNow && (decide (min (s.wanted t) (s.vEnv t) ≤ sp) || decide (97 * hw * 1000 < 100 * power)) then
    ((((s.setTherm t { h with clampedNow := true }).countF (.clampcnt t) 0 32 1).setBit (.thstat t) 27).raise (srcTower t 3)).reportClamp
      t sp
  else s

/-- GOVERNOR_EVALUATION (R351, R352): the measurements reach VREG_MEAS, and the set-point moves. -/
def governorEvaluation (t mv cur : Nat) (s : State) : State :=
  if (s.dom t).state ≠ .on || !s.running then s
  else
    let s1 := (s.setF (.vregMeas t) 0 16 mv).setF (.vregMeas t) 16 16 cur
    let h := s.therm t
    let power := mv * cur
    let r := governorMove (s.regF (.vstat t) 16 16) (min (s.wanted t) (s.vEnv t)) power (s.regF (.env t) 0 16)
      (decide (h.lastRise + 2000 ≤ s.now) || h.lastRise = 0)
    let s2 := (s1.setF (.vstat t) 16 16 r.1).refreshEnv t
    let s3 := if r.2 then s2.setTherm t { h with lastRise := s.now } else s2
    s3.floorClamp t power

def execGovernorEvaluation (tower : Fin 8) (millivolts current : BitVec 16) (s : State) :
    Host.Outcome State Fault Refusal := .next (governorEvaluation tower.val millivolts.toNat current.toNat s)

/-! ### What the part measures by itself (R341, R361) -/

/-- Measurements that no command carries are free values (log entry 33): the I/O dies' voltage and current every 1 µs, and
the package's power and VIN every 1 ms. -/
def State.measure (s : State) : State :=
  if !s.running then s
  else
    let s1 := if s.now % 200 = 0 then
        ((List.range 4).filter fun x => decide ((s.dom (8 + x)).state = .on)).foldl (fun s x =>
          (s.setReg (.vregMeas (8 + x)) (BitVec.ofNat 64 (s.freeNat 32))).bumpFree) s
      else s
    if s.now % 200000 = 0 then
      let s2 := (s1.setReg .pkgPower (BitVec.ofNat 64 (s1.freeNat 32))).bumpFree
      ((s2.setF .vinStat 0 16 (s2.freeNat 16)).bumpFree).refreshCaps
    else s1

end Sys2Proof.Machine
end

