-- ==== Sys2Proof/Machine/FloorPlan.lean ====
section
/-! DEFINITION. The floor-plan record (R26 to R34) and its publication. -/

namespace Sys2Proof.Machine

/-- Table 1-8: the state byte of a span port. A port that has gone down in service stays shown down until the next
bring-up (R31). -/
def State.spanByte (s : State) (p : Nat) : Nat :=
  if !portPresent s.fuses p then 0
  else if !s.spanWorks p || nbit s.spanLost p then 0xC0
  else
    let st := s.regF (.spnStat p) 14 4
    let rx := (s.reg (.spnRxmap p)).toNat
    let tx := (s.reg (.spnTxmap p)).toNat
    let lane : Option Nat := if mapSpare rx then logicalOf rx 8 else if mapSpare tx then logicalOf tx 8 else none
    0x80 + b2n (nbit st 0 || nbit st 1) * 0x20 + (match lane with
      | some i => 0x10 + i % 8
      | none => 0)

/-- A mask of the numbers below n that satisfy a test. -/
def maskOf (n : Nat) (f : Nat → Bool) : Nat := (((List.range n).filter f).map fun i => 2 ^ i).sum

/-- R34: total usable bed capacity. -/
def State.bedBytes (s : State) : Nat :=
  (((List.range 64).filter s.coreEnabled).map fun k => 3 * gib - 24 * 2 ^ 20 * popCount 128 (num s.bankRetired k)).sum

/-- Dropped phases of a domain as a mask. -/
def State.phaseMask (s : State) (d : Nat) : Nat := maskOf 16 fun p => s.regF (.vregPhasest d) (2 * p) 2 ≠ 0

/-- Table 1-6: the record with a generation and an instant. -/
def State.fpRecord (s : State) (gen at_ : Nat) : List Byte :=
  let f := s.fuses
  leBytes 4 0x4E4C5046 ++ leBytes 2 1 ++ leBytes 2 0x500 ++ leBytes 4 gen ++ leBytes 4 0 ++ leBytes 8 at_ ++
  leBytes 1 f.bin.code ++ leBytes 1 f.assembly.code ++ leBytes 1 f.guestConfig ++ leBytes 1 s.pkgId ++
  leBytes 2 f.bin.vmax ++ leBytes 2 f.bin.cap ++ leBytes 8 (maskOf 64 s.coreEnabled) ++ leBytes 8 s.extTop ++
  leBytes 1 (maskOf 4 fun x => x < f.assembly.ioDies) ++ leBytes 1 s.guestPresent ++ leBytes 2 (maskOf 12 (stackPresent f)) ++
  leBytes 4 0 ++ leBytes 8 s.bedBytes ++ ((List.range 64).flatMap fun k => leBytes 1 (num s.coreState k)) ++
  ((List.range 8).flatMap fun t => leBytes 1 (num s.towerState t)) ++
  ((List.range 8).flatMap fun t => leBytes 2 (s.phaseMask t)) ++
  ((List.range 4).flatMap fun x => leBytes 1 (s.phaseMask (8 + x))) ++ leBytes 4 0 ++
  ((List.range 12).flatMap fun n => leBytes 2 (num s.chanMapped n)) ++
  ((List.range 12).flatMap fun n => leBytes 2 (num s.chanPoisoned n)) ++
  ((List.range 24).flatMap fun p => leBytes 1 (s.spanByte p)) ++ leBytes 8 0 ++ leBytes 8 0 ++ leBytes 8 0 ++
  ((List.range 64).flatMap fun k => leBytes 16 (if s.coreEnabled k then num s.bankRetired k else 2 ^ 128 - 1))

/-- The generation that the window shows. -/
def State.fpGen (s : State) : Nat := rdLe s.fplan 8 4

/-- R32: the next even generation, skipping 0. -/
def nextGen (g : Nat) : Nat := if (g + 2) % 2 ^ 32 = 0 then 2 else (g + 2) % 2 ^ 32

/-- R32: write a new generation, and tell every mailbox with a session (Table 12-12). The three parts of the write are one
step here, so no reader meets an odd generation (log entry 37). -/
def State.publishRecord (s : State) : State :=
  let g := nextGen s.fpGen
  let bytes := s.fpRecord g s.tb.count
  let s1 := { s with fplan := wrBytes [] 0 bytes, fpDirty := false, published := true }
  s1.notifyAll noticeFloorPlan 0 g []

/-- FLOOR_PLAN_UPDATE (R31): firmware completes a new generation after a loss. -/
def execFloorPlanUpdate (s : State) : Host.Outcome State Fault Refusal :=
  .next (if s.alive && s.published && s.fpDirty then s.publishRecord else s)

end Sys2Proof.Machine
end

