-- ==== Sys2Proof/Machine/Guest.lean ====
section
/-! DEFINITION. Guest dies (R227 to R232): training, capability exchange, negotiation, credits and loss of the link. -/

namespace Sys2Proof.Machine

/-! ### Sites and registers -/

/-- R2, R3: a guest die can stand on the site of gateway g. -/
def State.guestSite (s : State) (g : Nat) : Bool :=
  s.fuses.guestConfig ≠ 0 && diePresent s.fuses (guestDie g) && !s.dieLost (guestDie g)

/-- VOY_GSTAT.state. -/
def State.guestState (s : State) (g : Nat) : Nat := s.regF (.voyGstat g) 28 4
def State.setGuestState (s : State) (g v : Nat) : State := s.setF (.voyGstat g) 28 4 v

def gsNone : Nat := 0
def gsTraining : Nat := 1
def gsNegotiated : Nat := 2
def gsEnabled : Nat := 3
def gsIncompatible : Nat := 4
def gsDown : Nat := 5

/-- R228: guest traffic flows. -/
def State.guestUp (s : State) (g : Nat) : Bool := s.guestState g = gsEnabled

/-- The gateway of a guest node. -/
def guestOf (node : Nat) : Option Nat := if node = 0x78 then some 0 else if node = 0x79 then some 1 else none

def guestNode (g : Nat) : Nat := 0x78 + g

/-! ### Training and capability exchange (Tables 9-8 and 9-9) -/

/-- Table 9-8 step 1: the link trains. Everything of an earlier session of the link is gone. -/
def State.guestTrain (s : State) (g : Nat) : State :=
  if diePresent s.fuses (guestDie g) && !s.dieLost (guestDie g) then
    let s1 := s.setReg (.voyGstat g) (BitVec.ofNat 64 (gsTraining * 2 ^ 28 + s.regF (.voyGstat g) 0 14))
    let s2 := (s1.clrBit (.voyGctl g) 31).setGuest g { trainingSince := some s.now, lost := (s.guest g).lost }
    (List.range 8).foldl (fun s i => (s.setReg (.voyLocal g i) 0).setReg (.voyPeer g i) 0) s2
  else s

/-- GUEST_TRAINING_TIMEOUT (Table 9-8): no partner within 100 ms, 20,000,000 ticks. -/
def guestTrainingTimeout (g : Nat) (s : State) : State :=
  match (s.guest g).trainingSince with
  | some t =>
    if s.guestState g = gsTraining && !(s.guest g).capSent && decide (t + 20000000 ≤ s.now) then
      (s.setGuestState g gsNone).setGuest g { s.guest g with trainingSince := none }
    else s
  | none => s

def execGuestTrainingTimeout (guest : Fin 2) (s : State) : Host.Outcome State Fault Refusal :=
  .next (guestTrainingTimeout guest.val s)

/-- Table 9-9: the part's own structure. What the manual gives no value for is free: initial credits, max_payload and tags
(log entry 60). -/
def State.ownCap (s : State) : List Byte :=
  leBytes 2 0x5659 ++ [0x21, 0x00, 0x3F, 0x03, 0x0F, 0x0F] ++ leBytes 8 (s.freeNat 64) ++
  leBytes 2 (64 * 2 ^ ((Config.freeBits 2 (s.freeCtr + 1)).toNat % 3)) ++
  leBytes 2 ((Config.freeBits 10 (s.freeCtr + 2)).toNat + 1) ++ leBytes 4 0 ++ leBytes 4 0 ++ leBytes 4 0

/-- Show a structure in eight registers. -/
def State.showCap (s : State) (r : Nat → Reg) (bs : List Byte) : State :=
  (List.range 8).foldl (fun s i => s.setReg (r i) (BitVec.ofNat 64 (fieldAt bs (4 * i) 4))) s

/-- GUEST_LINK_UP (Table 9-8 steps 1 and 2): width and rate are set and the gateway sends its structure. -/
def guestLinkUp (g rate : Nat) (x64 : Bool) (s : State) : State :=
  if s.guestSite g && s.guestState g = gsTraining && !(s.guest g).capSent then
    let cap := s.ownCap
    let s1 := { (s.setF (.voyGstat g) 25 3 rate).setF (.voyGstat g) 24 1 (b2n x64) with freeCtr := s.freeCtr + 3 }
    ((s1.setGuest g { s.guest g with capSent := true }).showCap (Reg.voyLocal g) cap).emit (.capSent g cap)
  else s

def execGuestLinkUp (guest : Fin 2) (rate : BitVec 3) (x64 : Bool) (s : State) : Host.Outcome State Fault Refusal :=
  .next (guestLinkUp guest.val rate.toNat x64 s)

/-- Fields of a structure. -/
def capIssues (c : List Byte) (cls : Nat) : Bool := nbit (fieldAt c 6 1) cls
def capAccepts (c : List Byte) (cls : Nat) : Bool := nbit (fieldAt c 7 1) cls
def capCredits (c : List Byte) (cls : Nat) : Nat := fieldAt c (8 + 2 * cls) 2

/-- R230: the peer is compatible. -/
def capCompatible (c : List Byte) : Bool :=
  decide (fieldAt c 2 1 / 16 = 2) && capAccepts c 0 && capAccepts c 3 &&
  (!(capIssues c 2 || capIssues c 1) || (List.range 4).all fun q => !capAccepts c q || decide (1 ≤ capCredits c q)) &&
  (!capAccepts c 2 || capIssues c 0)

/-- Code of a payload size in VOY_GSTAT. -/
def payloadCode (n : Nat) : Nat := if n = 64 then 1 else if n = 128 then 2 else if n = 256 then 3 else 0

/-- CAP (R230): the peer's structure arrives; the gateway negotiates. -/
def capArrives (g : Nat) (bytes : List Byte) (s : State) : State :=
  let x := s.guest g
  if s.guestState g = gsTraining && x.capSent then
    let c := (bytes ++ List.replicate 32 0).take 32
    let s1 := (s.setGuest g { x with peer := c, trainingSince := none,
                                     credits := (List.range 4).foldl (fun m q => setNum m q (capCredits c q)) [] }).showCap
      (Reg.voyPeer g) c
    if capCompatible c then
      let own := (List.range 8).flatMap fun i => leBytes 4 (s.reg (.voyLocal g i)).toNat
      (((s1.setF (.voyGstat g) 20 4 (fieldAt c 7 1)).setF (.voyGstat g) 16 4 (fieldAt c 6 1)).setF (.voyGstat g) 14 2
        (payloadCode (min (fieldAt own 0x10 2) (fieldAt c 0x10 2)))).setGuestState g gsNegotiated
    else s1.setGuestState g gsIncompatible
  else s

def execCap (guest : Fin 2) (bytes : List Byte) (s : State) : Host.Outcome State Fault Refusal :=
  .next (capArrives guest.val bytes s)

/-! ### Enabling (Table 9-8 steps 4 and 5, Table 9-13) -/

/-- Firmware reports an enabled guest with the next generation, unless it has been lost since the last bring-up (R231). -/
def State.reportGuest (s : State) (g : Nat) : State :=
  if (s.guest g).lost || nbit s.guestPresent g then s
  else { s with guestPresent := s.guestPresent + 2 ^ g, fpDirty := true }

/-- The tenant and enable bits of a write of VOY_GCTL. Enable is ignored unless the link is negotiated or enabled; taking it
away returns the link to negotiated. -/
def State.gctlFields (s : State) (g v : Nat) : State :=
  let s1 := s.setF (.voyGctl g) 0 10 v
  if s.guestState g = gsNegotiated || s.guestState g = gsEnabled then
    let s2 := s1.setF (.voyGctl g) 31 1 (v / 2 ^ 31)
    if nbit v 31 then (s2.setGuestState g gsEnabled).reportGuest g else s2.setGuestState g gsNegotiated
  else s1

/-- GUEST_ENABLE (R229, Table 9-8): firmware writes the tenant and sets enable. -/
def execGuestEnable (guest : Fin 2) (tenant : BitVec 10) (s : State) : Host.Outcome State Fault Refusal :=
  .next (s.gctlFields guest.val (2 ^ 31 + tenant.toNat))

/-! ### Messages to the guest (R230, R231) -/

/-- Remove the first message of a class. -/
def dropClass (c : Nat) : List Msg → List Msg
  | [] => []
  | m :: ms => if m.cls.toNat = c then ms else m :: dropClass c ms

/-- Send the first waiting message of a class while credit of the class is left. -/
def State.guestPump (s : State) (g c : Nat) : Nat → State
  | 0 => s
  | fuel + 1 =>
    let x := s.guest g
    match x.queue.find? fun m => m.cls.toNat = c with
    | none => s
    | some m =>
      if num x.credits c = 0 then s
      else
        let y : Guest := { x with queue := dropClass c x.queue, credits := setNum x.credits c (num x.credits c - 1),
                                  asked := if m.nonPosted then x.asked ++ [m] else x.asked }
        ((s.setGuest g y).emit (.guestMsg g m)).guestPump g c fuel

/-- R231: a message to a guest whose link is not enabled. -/
def State.guestDrop (s : State) (g : Nat) (m : Msg) : State :=
  let die := guestDie g
  if m.nonPosted then s.answerLost die (0x70 + (die - 8)) m
  else if m.posted then
    ((s.countF (.fabDiscard die) 0 32 1).setBit (.fabStat die) 0).log 0x0042 2 die (0x70 + (die - 8)) m.tenant.toNat 2
      m.addr.toNat
  else s

/-- A message reaches the gateway toward its guest. -/
def State.toGuest (s : State) (g : Nat) (m : Msg) : State :=
  if s.guestUp g then
    (s.setGuest g { s.guest g with queue := (s.guest g).queue ++ [m] }).guestPump g m.cls.toNat
      ((s.guest g).queue.length + 1)
  else s.guestDrop g m

/-- The guest answers a message: it waits for it no longer. -/
def State.guestAnswered (s : State) (g : Nat) (m : Msg) : State :=
  s.setGuest g { s.guest g with asked := (s.guest g).asked.filter fun (q : Msg) => !(q.srcNode.toNat = m.addr.toNat % 256 && q.tag = m.tag) }

/-- CREDIT (R227, R230): the guest returns credits of a class. -/
def creditReturn (g c n : Nat) (s : State) : State :=
  let x := s.guest g
  if s.guestState g = gsNegotiated || s.guestUp g then
    (s.setGuest g { x with credits := setNum x.credits c (num x.credits c + n) }).guestPump g c x.queue.length
  else s

def execCredit (guest : Fin 2) (cls : BitVec 2) (count : BitVec 16) (s : State) : Host.Outcome State Fault Refusal :=
  .next (creditReturn guest.val cls.toNat count.toNat s)

/-! ### Loss and retraining (R231) -/

/-- The link of an enabled guest goes down. -/
def State.guestLost (s : State) (g : Nat) : State :=
  let x := s.guest g
  let s1 := (s.setGuest g { lost := true }).clrBit (.voyGctl g) 31
  let s2 := ((s1.setBit (.voyGstat g) 0).setGuestState g gsDown).raise (srcIo (guestDie g - 8) 1)
  let s3 := (x.asked ++ x.queue).foldl (fun s m => s.guestDrop g m) s2
  if nbit s3.guestPresent g then { s3 with guestPresent := s3.guestPresent - 2 ^ g, fpDirty := true } else s3

/-- GUEST_LINK_DOWN (R231). -/
def guestLinkDown (g : Nat) (s : State) : State := if s.guestUp g then s.guestLost g else s

def execGuestLinkDown (guest : Fin 2) (s : State) : Host.Outcome State Fault Refusal := .next (guestLinkDown guest.val s)

/-- RESET_LINK (R231): the link retrains from step 1; an enabled link goes down first. -/
def resetLink (g : Nat) (s : State) : State := (if s.guestUp g then s.guestLost g else s).guestTrain g

def execResetLink (guest : Fin 2) (s : State) : Host.Outcome State Fault Refusal := .next (resetLink guest.val s)

/-- A write of VOY_GCTL (Table 9-13). -/
def gctlWrite (g v : Nat) (s : State) : State :=
  let s1 := s.gctlFields g v
  if nbit v 30 then resetLink g s1 else s1

end Sys2Proof.Machine
end

