-- ==== Sys2Proof/Machine/Scrub.lean ====
section
/-! DEFINITION. The stacks and scrubbers by themselves (R197 to R201, R204, R205): failing channels, scrub reads and laps,
stack temperature. -/

namespace Sys2Proof.Machine

/-! ### Stacks -/

/-- The stack is present and its die is on; die numbers and stack numbers agree (R185). -/
def State.stackOn (s : State) (n : Nat) : Bool := stackPresent s.fuses n && (s.dom n).state = .on && !s.dieLost n

/-- STACK_CHANNEL_FAILURE_REPORT (R200). -/
def execStackChannelFailureReport (stack : Fin 12) (channel : Fin 16) (s : State) : Host.Outcome State Fault Refusal :=
  .next (if s.stackOn stack.val then s.channelFail stack.val channel.val 3 else s)

/-- CHANNEL_PHY_TIMEOUT (R200). -/
def execChannelPhyTimeout (stack : Fin 12) (channel : Fin 16) (s : State) : Host.Outcome State Fault Refusal :=
  .next (if s.stackOn stack.val then s.channelFail stack.val channel.val 4 else s)

/-! ### Scrubbing (R197 to R199) -/

/-- Sectors of a channel and of a bank. -/
def channelSectors : Nat := 50331648
def bankSectors : Nat := 393216

/-- The memory test is over, so every sector holds a codeword (R202); scrubbers run from then on (log entry 57). -/
def State.memTested (s : State) : Bool := s.fired || (5 ≤ s.bootStep && decide (s.bootState ≠ stFailed))

/-- A channel or bank that is not skipped as a whole. -/
def State.scrubs (s : State) : ScrubUnit → Bool
  | .channel n c => s.stackOn n.val && !s.mapped n.val c.val && !s.poisoned n.val c.val
  | .bank k b => s.coreEnabled k.val && s.towerRuns (k.val / 8) && !s.retired k.val b.val

/-- Its control register. -/
def scrubCtl : ScrubUnit → Reg
  | .channel n _ => .memScrubCtl n.val
  | .bank k _ => .bedScrubCtl k.val

/-- Its place in the lap. -/
def State.scrubbed (s : State) : ScrubUnit → Channel
  | .channel n c => (s.stack n.val).channel c.val
  | .bank k b => (s.bed k.val).bank b.val

def State.setScrubbed (s : State) (u : ScrubUnit) (x : Channel) : State :=
  match u with
  | .channel n c => s.setStack n.val ((s.stack n.val).setChannel c.val x)
  | .bank k b => s.setBed k.val ((s.bed k.val).setBank b.val x)

/-- Number of sectors of a unit, and the device address of one. -/
def scrubSize : ScrubUnit → Nat
  | .channel _ _ => channelSectors
  | .bank _ _ => bankSectors

def State.scrubAddr (s : State) (u : ScrubUnit) (i : Nat) : Nat :=
  match u with
  | .channel n c => s.extAddr n.val c.val i
  | .bank k b => bedAddr k.val b.val i

/-- R197: a sector that a BUSY command of the bank reads. -/
def State.busySector (s : State) : ScrubUnit → Nat → Bool
  | .channel _ _, _ => false
  | .bank k b, i => (s.bed k.val).busy.any fun c => c.slot / 2 = b.val &&
      decide (cmdF c.words 0xC 2 ≤ i / 32) && decide (i / 32 < cmdF c.words 0xC 2 + cmdRows c.words)

/-- R198: the sector is owned by some tenant. -/
def State.owned (s : State) (a : Nat) : Bool := s.ownedSegs.any fun e => decide (e.2.base ≤ a) && decide (a < e.2.base + e.2.size)

/-- R198: read one sector and act by its outcome. A bad sector that nobody owns is reported to the management function. -/
def State.scrubSector (s : State) (a : Nat) : State :=
  let l := s.locate a
  let d := s.decodeAt l a
  match d.outcome with
  | .clean => s
  | .poison => s.countOutcome l .poison
  | .corrected => (s.countOutcome l .corrected).storeRaw l a d.data (cleanChecks (locCode l) d.data)
  | .address | .uncorrectable =>
    let s1 := (s.readSector a noTenant).1.storePoison l a
    if s.owned a then s1.dataLoss a else s1.notify 0 noticeDataLoss 0 0xFFFFFFFF (leBytes 8 (a / 4096 * 4096))

/-- SCRUB_READ (R197): the next sector of a channel or bank, at its pacing of gap × 50 ns (10 ticks). -/
def scrubRead (u : ScrubUnit) (s : State) : State :=
  let x := s.scrubbed u
  if !(s.memTested && s.scrubs u && s.regBit (scrubCtl u) 31 && !x.scrubDone) then s
  else if s.now < x.lastScrub + 10 * s.regF (scrubCtl u) 16 8 then s
  else
    let s1 := s.setScrubbed u { x with scrubPos := x.scrubPos + 1, lastScrub := s.now,
                                       scrubDone := decide (scrubSize u ≤ x.scrubPos + 1) }
    if s.busySector u x.scrubPos then s1
    else
      let s2 := match u with
        | .channel n c => s1.ctr (unitChan n.val c.val) 0x1004 1
        | .bank _ _ => s1
      s2.scrubSector (s.scrubAddr u x.scrubPos)

def execScrubRead (unit : ScrubUnit) (s : State) : Host.Outcome State Fault Refusal := .next (scrubRead unit s)

/-- The units of a scrubbed memory that take part in its lap. -/
def State.lapUnits (s : State) (m : ScrubMem) : List ScrubUnit :=
  (match m with
   | .stack n => (List.finRange 16).map fun c => ScrubUnit.channel n c
   | .bed k => (List.finRange 128).map fun b => ScrubUnit.bank k b).filter s.scrubs

def State.lap (s : State) : ScrubMem → ScrubLap
  | .stack n => (s.stack n.val).lap
  | .bed k => (s.bed k.val).lap

def State.setLap (s : State) (m : ScrubMem) (x : ScrubLap) : State :=
  match m with
  | .stack n => s.setStack n.val { s.stack n.val with lap := x }
  | .bed k => s.setBed k.val { s.bed k.val with lap := x }

/-- Seconds of 200,000,000 ticks. -/
def secondsSince (now t : Nat) : Nat := (now - t) / 200000000

/-- SCRUB_LAP_END (R199): the last channel or bank has finished; the next lap begins at once. -/
def scrubLapEnd (m : ScrubMem) (s : State) : State :=
  let us := s.lapUnits m
  if us.isEmpty || us.any fun u => !(s.scrubbed u).scrubDone then s
  else
    let secs := secondsSince s.now (s.lap m).start
    let r : Reg := match m with
      | .stack n => .memScrubLap n.val
      | .bed k => .bedScrubLap k.val
    let s1 := us.foldl (fun (s : State) u => s.setScrubbed u { s.scrubbed u with scrubPos := 0, scrubDone := false }) s
    (s1.setReg r (BitVec.ofNat 64 (secs % 2 ^ 32))).setLap m { start := s.now }

def execScrubLapEnd (unit : ScrubMem) (s : State) : Host.Outcome State Fault Refusal := .next (scrubLapEnd unit s)

/-- SCRUB_LATE (R199): once per lap. -/
def scrubLate (m : ScrubMem) (s : State) : State :=
  let x := s.lap m
  let secs := secondsSince s.now x.start
  let cur : Reg := match m with
    | .stack n => .memScrubCur n.val
    | .bed k => .bedScrubCur k.val
  let ctl : Reg := match m with
    | .stack n => .memScrubCtl n.val
    | .bed k => .bedScrubCtl k.val
  if !s.memTested || (s.lapUnits m).isEmpty || x.lateLogged || s.now ≤ x.start + s.regF ctl 0 16 * 3600 * 200000000 then s
  else
    let s1 := (s.setBit cur 31).setLap m { x with lateLogged := true }
    match m with
    | .stack n => (s1.raise (srcStack n.val 2)).log 0x0033 0 n.val (if n.val < 8 then 0x48 + n.val else 0x74 + (n.val - 8)) noTenant
        secs n.val
    | .bed k => (s1.raise (srcCore k.val 4)).log 0x0033 0 (k.val / 8) k.val noTenant secs (0x100 + k.val)

def execScrubLate (unit : ScrubMem) (s : State) : Host.Outcome State Fault Refusal := .next (scrubLate unit s)

/-- MEM_SCRUB_CUR or BED_SCRUB_CUR as read: late and the running time of the lap. -/
def State.scrubCurNow (s : State) (m : ScrubMem) : DWord :=
  let cur : Reg := match m with
    | .stack n => .memScrubCur n.val
    | .bed k => .bedScrubCur k.val
  BitVec.ofNat 64 (s.regF cur 31 1 * 2 ^ 31 + (if s.memTested then secondsSince s.now (s.lap m).start % 2 ^ 31 else 0))

/-! ### Stack temperature (R204, R205) -/

/-- R204: allow, with f = (allow + 1) / 256, rounded down (log entry 25). -/
def allowOf (temp : Nat) : Nat := max 64 ((2560 - 128 * (temp - 85)) / 10) - 1

/-- STACK_TEMP_READ (R204, R205): temperature, throttle fraction and hot flag; a critical report is hardpan (R346). -/
def stackTempRead (n temp : Nat) (critical : Bool) (s : State) : State :=
  if !s.stackOn n then s
  else
    let x := s.stack n
    let hot := s.regBit (.memStat n) 2
    let s1 := (s.setF (.memStat n) 24 8 temp).setF (.memStat n) 16 8 (allowOf temp)
    let s2 := if !hot && decide (85 ≤ temp) then
        ((s1.setBit (.memStat n) 2).setStack n { x with hotSince := s.now, coolSince := none }).raise (srcStack n 0)
      else s1.setStack n { x with coolSince := if temp < 83 then (match x.coolSince with
          | some t => some t
          | none => some s.now) else none }
    if critical then (s2.setBit (.memStat n) 3).enterHardpan 3 n (2 * temp) else s2

def execStackTempRead (stack : Fin 12) (temp : Byte) (critical : Bool) (s : State) : Host.Outcome State Fault Refusal :=
  .next (stackTempRead stack.val temp.toNat critical s)

/-- STACK_HOT_CLEAR (R205): below 83 °C for 10 ms (2,000,000 ticks), and set for at least as long. -/
def stackHotClear (n : Nat) (s : State) : State :=
  let x := s.stack n
  let cool := match x.coolSince with
    | some t => decide (t + 2000000 ≤ s.now)
    | none => false
  if s.regBit (.memStat n) 2 && cool && decide (x.hotSince + 2000000 ≤ s.now) then s.clrBit (.memStat n) 2 else s

def execStackHotClear (stack : Fin 12) (s : State) : Host.Outcome State Fault Refusal := .next (stackHotClear stack.val s)

end Sys2Proof.Machine
end

