-- ==== Sys2Proof/Machine/Boot.lean ====
section
/-! DEFINITION. Bring-up (R387 to R406): the boot window's command protocol and its steps. A step does its work when it
starts and reports it when it ends (log entry 62). -/

namespace Sys2Proof.Machine

/-! ### Result codes (Table 18-3) -/

def rcOk : Nat := 0
def rcOrder : Nat := 1
def rcBadArg : Nat := 2
def rcTestRefused : Nat := 3
def rcFuse : Nat := 4
def rcRamp : Nat := 5
def rcNoTower : Nat := 6
def rcIodie : Nat := 7
def rcPeer : Nat := 8
def rcNoMemory : Nat := 9
def rcVinAlert : Nat := 0xA
def rcImage : Nat := 0xB
def rcAuth : Nat := 0xC
def rcFlashB : Nat := 0xD
def rcFwStart : Nat := 0xE
def rcBelowBin : Nat := 0xF
def rcRoute : Nat := 0x10
def rcHardpan : Nat := 0x11
def rcNoCore : Nat := 0x12

/-- R391: fatal codes, and codes after which the part advances. -/
def rcFatal (c : Nat) : Bool := [rcTestRefused, rcFuse, rcIodie, rcNoMemory, rcHardpan, rcNoCore].contains c
def rcDone (c : Nat) : Bool := [rcOk, rcRamp, rcPeer, rcFlashB, rcBelowBin].contains c

/-! ### The command protocol (R388 to R391) -/

/-- The primary port's I/O die (Table 18-1). -/
def State.primaryDie (s : State) : Nat := if nbit s.straps 7 then 9 else 8

/-- R389, R392: BAR0 answers; not while PERST_N holds the primary port in reset (log entry 113). -/
def State.bar0Up (s : State) : Bool :=
  s.running && decide ((s.dom 8).state = .on) && decide ((s.dom s.primaryDie).state = .on) &&
    !nbit s.perstLow (s.primaryDie - 8)

def cmdFuses : Nat := 0x02
def cmdPower : Nat := 0x03
def cmdLinks : Nat := 0x04
def cmdMemtest : Nat := 0x05
def cmdSelftest : Nat := 0x06
def cmdFirmware : Nat := 0x07
def cmdPublish : Nat := 0x08
def cmdTowerOff : Nat := 0x10

/-- Table 18-2: the command is allowed. -/
def State.bootAllows (s : State) (c : Nat) : Bool :=
  let green := s.bootState = stGreen
  let n := s.bootStep
  if c = cmdFuses then green && n = 1
  else if c = cmdPower then (green && decide (2 ≤ n) && decide (n ≤ 4)) || s.fired
  else if c = cmdLinks then green && decide (3 ≤ n) && decide (n ≤ 4)
  else if c = cmdMemtest then green && n = 4
  else if c = cmdSelftest then green && n = 5
  else if c = cmdFirmware then green && n = 6
  else if c = cmdPublish then s.bootState = stBisque
  else if c = cmdTowerOff then s.fired
  else false

def State.arg0 (s : State) : Nat := (s.bw BW.arg0).toNat
def State.arg1 (s : State) : Nat := (s.bw BW.arg1).toNat

/-- Table 18-2: the arguments have no reserved bit set. -/
def State.bootArgsOk (s : State) (c : Nat) : Bool :=
  if c = cmdPower then decide (s.arg0 < 256)
  else if c = cmdMemtest then decide (s.arg0 < 2)
  else if c = cmdTowerOff then decide (s.arg0 < 8)
  else true

/-- R391: what a step's end makes of the state and of the last step completed. -/
def State.bootAdvance (s : State) (cmd code : Nat) : State :=
  if rcFatal code then s.setBwF BW.state 28 4 stFailed
  else if !rcDone code then s
  else if s.fired then s
  else if cmd = cmdFirmware then (s.setBwF BW.state 28 4 stBisque).setBwF BW.state 24 4 7
  else if cmd = cmdPublish then (s.setBwF BW.state 28 4 stFired).setBwF BW.state 24 4 8
  else s.setBwF BW.state 24 4 (max s.bootStep cmd)

/-- R390: the step ends: code and detail, the duration in ms, then busy clears. -/
def State.bootEnd (s : State) (cmd code detail since : Nat) : State :=
  let s1 := (s.setBwF BW.status 0 8 code).setBwF BW.detail 0 32 detail
  ({ s1.setBwF BW.elapsed 0 32 ((s.now - since) / 200000) with bootRun := none }.setBwF BW.status 31 1 0).bootAdvance cmd code

/-- What a step's work gives: the state, the code and the detail. -/
structure BootWork where
  s : State
  code : Nat
  detail : Nat := 0
  ready : Bool := true
deriving DecidableEq, Repr

/-- R388, R390: a command is written: refused while a step runs; ended at once by TEST, out of order, or with a reserved
argument; otherwise the step starts. -/
def State.bootCommand (s : State) (cmd : Nat) (work : State → BootWork) : State :=
  if !s.bar0Up then s
  else if s.bootRun.isSome then s.setBwF BW.status 30 1 1
  else
    let s1 := s.setBwF BW.status 8 8 cmd
    if nbit s.straps 11 then s1.bootEnd cmd rcTestRefused 0 s.now
    else if !s.bootAllows cmd then s1.bootEnd cmd rcOrder ((s.bw BW.state).toNat / 2 ^ 24) s.now
    else if !s.bootArgsOk cmd then s1.bootEnd cmd rcBadArg 0 s.now
    else
      let w := work (s1.setBwF BW.status 31 1 1)
      { w.s with bootRun := some ⟨cmd, s.now, w.code, w.detail, w.ready⟩ }

/-- RESERVED_BOOT_COMMAND (Table 18-2): a code of no row ends with BAD_ARG. -/
def execReservedBootCommand (code : Byte) (s : State) : Host.Outcome State Fault Refusal :=
  .next (let c := code.toNat
    if [cmdFuses, cmdPower, cmdLinks, cmdMemtest, cmdSelftest, cmdFirmware, cmdPublish, cmdTowerOff].contains c || !s.bar0Up then s
    else if s.bootRun.isSome then s.setBwF BW.status 30 1 1
    else (s.setBwF BW.status 8 8 c).bootEnd c (if nbit s.straps 11 then rcTestRefused else rcBadArg) 0 s.now)

/-! ### FUSES (R393) -/

/-- The tables that the defect map fills. -/
def fusesWork (s : State) : BootWork :=
  let f := s.fuses
  if !f.mapOk0 && !f.mapOk1 then { s := s, code := rcFuse }
  else
    let cores := (List.range 64).foldl (fun m k => if nbit f.fusedCores k then setNum m k 1 else m) ([] : SMap Nat)
    let s1 := { s with coreState := cores, bankRetired := f.retiredBanks }
    { s := (s1.setBwF BW.id 8 8 f.bin.code).setBwF BW.id 0 8 f.assembly.code, code := rcOk }

def execFuses (s : State) : Host.Outcome State Fault Refusal := .next (s.bootCommand cmdFuses fusesWork)

/-! ### POWER (R394, R405) -/

/-- I/O dies that are present. -/
def State.ioDies (s : State) : List Nat := (List.range 4).filter fun x => diePresent s.fuses (8 + x)

/-- R394: raise the I/O dies to 0.80 V; `up` tells which reach it. The first that does not. -/
def State.raiseIo (s : State) (up : Nat) : State × Option Nat :=
  let bad := s.ioDies.find? fun x =>
    (s.dom (8 + x)).state ≠ .on || (s.regF (.vregCtl (8 + x)) 0 10 ≠ 800 && !nbit up x)
  ((s.ioDies.filter fun x => (s.dom (8 + x)).state = .on).foldl (fun s x => s.setF (.vregCtl (8 + x)) 0 10 800) s, bad)

/-- One named tower soft-starts to 0.75 V, with its fuse load; `c` tells how its ramp ends. -/
def State.rampTower (s : State) (t : Nat) (c : RampCause) : State :=
  let s1 := (s.setF (.vregCtl t) 0 10 750).setBit (.vregCtl t) 31
  let s2 := s1.startRamp t
  if c = .ok then (let s3 := s2.rampDone t
    s3.setDom t { s3.dom t with fuseLoaded := true })
  else s2.rampFail t (RampCause.code c)

/-- A tower that a soft start takes from OFF or from its discharge to OFF. -/
def State.canRamp (s : State) (t : Nat) : Bool :=
  (s.dom t).state = .off || (decide ((s.dom t).state = .discharge) && decide ((s.dom t).after = .off))

/-- Towers of a mask in a state. -/
def State.towersIn (s : State) (ts : List Nat) (d : DomState) : Nat :=
  ((ts.filter fun t => (s.dom t).state = d).map fun t => 2 ^ t).sum

/-- After the fail of POWER only the regulators and the log hold what the step `s1` did. -/
def State.keepRegulators (s s1 : State) : State :=
  { s with regs := (List.range 4).foldl (fun g x =>
                     put (regReset s.fuses) g (Reg.vregCtl (8 + x)).off (s.reg (.vregCtl (8 + x)))) s1.regs,
           domains := s1.domains, flog0 := s1.flog0, flog1 := s1.flog1, ic := s1.ic }

/-- How POWER ends once the towers of `named` had their soft starts (R394): `s` before the step, `s1` after. -/
def State.powerEnd (s s1 : State) (named : List Nat) : BootWork :=
  let detail := s1.towersIn named .latched + 256 * s1.towersIn named .dead
  if (List.range 8).all fun t => (s1.dom t).state ≠ .on then { s := s.keepRegulators s1, code := rcNoTower, detail := detail }
  else if named.all fun t => (s1.dom t).state = .on then { s := s1, code := rcOk }
  else { s := s1, code := rcRamp, detail := detail }

/-- The work of POWER (R394). -/
def powerWork (ioUp : Nat) (ramps : List RampCause) (s : State) : BootWork :=
  let named := (List.range 8).filter fun t => s.arg0 = 0 || nbit s.arg0 t
  let io := if s.fired then (s, none) else s.raiseIo ioUp
  match io.2 with
  | some x => { s := io.1, code := rcIodie, detail := x }
  | none =>
    let ts := named.filter s.canRamp
    s.powerEnd ((List.zip (List.range ts.length) ts).foldl (fun z e => z.rampTower e.2 (ramps.getD e.1 .ok)) io.1) named

/-- POWER (R394): `ioUp` are the I/O dies that reach 0.80 V, `ramps` how the soft starts end, in ascending order of tower. -/
def execPower (ioUp : BitVec 4) (ramps : List RampCause) (s : State) : Host.Outcome State Fault Refusal :=
  .next (s.bootCommand cmdPower (powerWork ioUp.toNat ramps))

/-! ### Retiring at bring-up (R200, R202, R394, R395) -/

/-- A channel is mapped out. -/
def State.mapOut (s : State) (n c : Nat) : State :=
  if stackPresent s.fuses n then
    { s with chanMapped := setNum s.chanMapped n (Nat.lor (num s.chanMapped n) (2 ^ c)) }.setF (.memChstat n c) 30 2 2
  else s

/-- A core is disabled at bring-up. -/
def State.disableCore (s : State) (k : Nat) : State :=
  if num s.coreState k = 0 then { s with coreState := setNum s.coreState k 2 } else s

/-- A bank is retired. -/
def State.retireBank (s : State) (k b : Nat) : State :=
  { s with bankRetired := setNum s.bankRetired k (Nat.lor (num s.bankRetired k) (2 ^ b)) }

/-- R394: a tower that is turned off for the session. -/
def State.retireTower (s : State) (t : Nat) : State :=
  let s1 := (List.range 8).foldl (fun s i => s.disableCore (8 * t + i)) s
  let s2 := (List.range 16).foldl (fun s c => s.mapOut t c) { s1 with towerState := setNum s1.towerState t 3 }
  s2.domOff t

/-- BW_RESULT (Table 18-13), from the tables as they stand. -/
def State.bwResult (s : State) : Nat :=
  let banks := ((List.range 64).map fun k => popCount 128 (num s.bankRetired k) - popCount 128 (num s.fuses.retiredBanks k)).sum
  let chans := ((List.range 12).map fun n => popCount 16 (num s.chanMapped n)).sum
  let cores := ((List.range 64).filter fun k => num s.coreState k = 2).length
  banks % 65536 * 65536 + chans % 256 * 256 + cores

def State.noChannel (s : State) : Bool := s.chanList.isEmpty
def State.noCore (s : State) : Bool := (List.range 64).all fun k => !s.coreEnabled k

/-! ### LINKS (R395, R396) -/

/-- R213: a sub-channel of a crossbar's input port (0 east, 1 west, 2 north, 3 south) is retired: counted, marked and
logged. Its key is die, port, number. -/
def subKey (d port sub : Nat) : Nat := d * 128 + port * 32 + sub

def State.retireSub (s : State) (d port sub : Nat) : State :=
  if s.retiredSubs.contains (subKey d port sub) then s
  else
    (({ s with retiredSubs := s.retiredSubs ++ [subKey d port sub] }.countF (.fabStat d) 8 8 1).setBit (.fabStat d) 0).log
      0x0040 1 d (domNode d) noTenant (2 ^ (3 - port) + 256 * sub) 0

/-- R395: everything of the first LINKS but the span ports: `f.isolated` are towers left with no channel to the mesh. -/
def State.linkUnits (s : State) (f : LinkFindings) : State :=
  let s1 := f.retired.foldl (fun s x => s.retireSub x.1.val x.2.1.val x.2.2.toNat) s
  let s2 := f.hbmNoTrain.foldl (fun s x => s.mapOut x.1.val x.2.val) s1
  let s3 := ((List.range 8).filter fun t => nbit f.isolated.toNat t).foldl (fun s t =>
    (s.log 0x0022 3 t (0x40 + t) noTenant 4 0).retireTower t) s2
  (List.range 2).foldl (fun s g => s.guestTrain g) s3

/-- What training found of a port; a port the list does not reach has no peer. -/
def portFound (f : LinkFindings) (p : Nat) : PortTraining := f.ports.getD p ⟨false, 0, 0, 0, 0⟩

def downCause (s : State) (p : Nat) : Nat := s.regF (.spnStat p) 11 3

/-- Ports that a LINKS trains: all enabled ones at first, then those down with NO_PEER or DUP_ID. -/
def State.portsToTrain (s : State) (again : Bool) : List Nat :=
  (List.range 24).filter fun p => portPresent s.fuses p && s.regBit (.spnCtl p) 29 &&
    (!again || (s.spanState p = 4 && (downCause s p = dcNoPeer || downCause s p = dcDupId)))

def linksWork (f : LinkFindings) (s : State) : BootWork :=
  let again := decide (4 ≤ s.bootStep)
  let s1 := if again then s else s.linkUnits f
  let s2 := (s1.portsToTrain again).foldl (fun s p => s.portTrained p (portFound f p)) s1
  let down := ((List.range 24).filter fun p => portPresent s2.fuses p && s2.spanState p = 4 &&
    (downCause s2 p = dcNoPeer || downCause s2 p = dcDupId)).map fun p => 2 ^ p
  { s := s2, code := if down.isEmpty then rcOk else rcPeer, detail := down.sum }

def execLinks (f : LinkFindings) (s : State) : Host.Outcome State Fault Refusal := .next (s.bootCommand cmdLinks (linksWork f))

/-! ### MEMTEST (R397 to R399) -/

/-- Known-bad channels and banks (R397). -/
def State.knownBad (s : State) : State :=
  let s1 := (List.range 12).foldl (fun s n => (List.range 16).foldl (fun s c =>
    if nbit (s.bw (BW.kbChan n)).toNat c then s.mapOut n c else s) s) s
  (List.range 64).foldl (fun s k => (List.range 4).foldl (fun s i => (List.range 32).foldl (fun s j =>
    if nbit (s.bw (BW.kbBank k i)).toNat j then s.retireBank k (32 * i + j) else s) s) s) s1

/-- R398, Table 18-4: passes numbered 0 to 4 that a mode runs; external memory takes part in passes 0, 3 and 4. -/
def passRuns (quick : Bool) (p : Nat) : Bool := !(quick && p = 3)
def passExternal (p : Nat) : Bool := p = 0 || p = 3 || p = 4

def State.applyFindings (s : State) (quick : Bool) (f : MemFindings) : State :=
  let s1 := (f.channels.filter fun x => passRuns quick x.2.2.val && passExternal x.2.2.val).foldl (fun s x =>
    s.mapOut x.1.val x.2.1.val) s
  let s2 := (f.banks.filter fun x => passRuns quick x.2.2.val).foldl (fun s x => s.retireBank x.1.val x.2.1.val) s1
  (List.range 64).foldl (fun s k => if 16 < popCount 128 (num s.bankRetired k) then s.disableCore k else s) s2

/-- R199, R202: every sector holds zero with a clean codeword, and the scrubbers' first laps begin (log entry 57). -/
def State.zeroAll (s : State) : State :=
  let s1 := { s with mem := [], checks := [] }
  let s2 := (List.range 12).foldl (fun s n => s.setStack n { s.stack n with lap := { start := s.now } }) s1
  (List.range 64).foldl (fun s k => s.setBed k { s.bed k with lap := { start := s.now } }) s2

/-- R400, R398: a part without channels or cores. -/
def State.lastCode (s : State) (memFirst : Bool) : Nat :=
  if memFirst then (if s.noChannel then rcNoMemory else if s.noCore then rcNoCore else rcOk)
  else (if s.noCore then rcNoCore else if s.noChannel then rcNoMemory else rcOk)

def memtestWork (f : MemFindings) (s : State) : BootWork :=
  let quick := nbit s.arg0 0
  match f.restarts.find? fun r => passRuns quick r.1.val && decide (3 ≤ r.2.toNat) with
  | some r => { s := s, code := rcVinAlert, detail := r.1.val + 1 }
  | none =>
    let s1 := ((List.range 8).filter fun t => (s.dom t).state ≠ .on || num s.towerState t = 3).foldl (fun s t => s.retireTower t) s
    let s2 := (s1.knownBad.applyFindings quick f).zeroAll
    { s := s2, code := s2.lastCode true }

def execMemtest (f : MemFindings) (s : State) : Host.Outcome State Fault Refusal :=
  .next (s.bootCommand cmdMemtest (memtestWork f))

/-! ### SELFTEST (R400, R206, R207, R70) -/

def selftestWork (f : SelfFindings) (s : State) : BootWork :=
  let s1 := f.checkerChannels.foldl (fun s x => s.mapOut x.1.val x.2.val) s
  let s2 := (f.checkerCores ++ f.arrayCores ++ f.chainCores).foldl (fun s k => s.disableCore k.val) s1
  { s := s2, code := s2.lastCode false }

def execSelftest (f : SelfFindings) (s : State) : Host.Outcome State Fault Refusal :=
  .next (s.bootCommand cmdSelftest (selftestWork f))

/-! ### FIRMWARE (R401, R402) -/

/-- R402: the first check that an image fails; 0 when it authenticates. The host's length is that of header and body. -/
def imageReason (f : Fuses) (hostLen : Option Nat) (i : ImageFacts) : Nat :=
  let n := i.length.toNat
  if !i.headerOk || n % 4096 ≠ 0 || n < 4096 || 0x600000 < n || (match hostLen with
      | some l => l ≠ 512 + n
      | none => false) then 4
  else if !i.keyHashOk || nbit f.revoked i.keyIndex.toNat then 1
  else if !i.signatureOk then 2
  else if !i.bodyOk then 3
  else if i.secver.toNat < f.minSecver then 5
  else 0

/-- A started image: the complexes run; BISQUE is still to come. -/
def State.startImage (s : State) (i : ImageFacts) (code detail : Nat) : BootWork :=
  { s := { s with fwBuild := i.build.toNat }, code := code, detail := detail, ready := false }

def firmwareWork (a b : ImageFacts) (s : State) : BootWork :=
  if nbit s.straps 6 then
    if !a.readable then { s := s, code := rcImage, detail := 2 }
    else
      let r := imageReason s.fuses (some s.arg1) a
      if r = 0 then s.startImage a rcOk 0 else { s := s, code := rcAuth, detail := r }
  else
    let ra := imageReason s.fuses none a
    let rb := imageReason s.fuses none b
    if a.readable && ra = 0 then s.startImage a rcOk 0
    else if b.readable && rb = 0 then
      -- an unreadable copy A has no reason code: a free value (log entry 63)
      (if a.readable then s.startImage b rcFlashB ra else (s.bumpFree.startImage b rcFlashB (s.freeNat 32)))
    else if b.readable then { s := s, code := rcAuth, detail := rb }
    else if a.readable then { s := s, code := rcAuth, detail := ra }
    else { s := s, code := rcImage, detail := 1 }

/-- FIRMWARE: `first` is the host's image or copy A, `second` copy B. -/
def execFirmware (first second : ImageFacts) (s : State) : Host.Outcome State Fault Refusal :=
  .next (s.bootCommand cmdFirmware (firmwareWork first second))

/-- R323: a function's mailbox lease: some processor of the active complex serves it (a free value). -/
def State.grantMailbox (s : State) (t base : Nat) : State := (s.grant (mboxLease t) (base + s.freeNat 2)).bumpFree

/-- Functions that exist. -/
def State.functions (s : State) : List Nat := 0 :: (if s.vfEnable then (List.range s.numVfs).map (· + 1) else [])

/-- R401, R402, R282: firmware runs. -/
def State.firmwareUp (s : State) : State :=
  s.functions.foldl (fun s t => s.grantMailbox t 0x800) { s with alive := true, hbActive := some s.now, fwDead := false }

/-- FW_START_TIMEOUT (Table 18-3): BISQUE not reached within 5 s (1,000,000,000 ticks). -/
def fwStartTimeout (s : State) : State :=
  match s.bootRun with
  | some r =>
    if r.cmd = cmdFirmware && !r.ready && decide (r.since + 1000000000 ≤ s.now) then
      { s with fwBuild := 0 }.bootEnd r.cmd rcFwStart 0 r.since
    else s
  | none => s

def execFwStartTimeout (s : State) : Host.Outcome State Fault Refusal := .next (fwStartTimeout s)

/-! ### PUBLISH (R403, R404) -/

/-- Ports absent in the assembly option, and reserved bits 29 to 24. -/
def State.absentPorts (s : State) : Nat := 2 ^ 24 - 2 ^ (6 * s.fuses.assembly.ioDies)

/-- R403: offset of the first bad field of a route description. -/
def State.routeBad (s : State) (d : List Byte) : Option Nat :=
  let bad (n : Nat) : Bool :=
    let v := fieldAt d (4 * n) 4
    nf v 24 6 ≠ 0 || Nat.land (nf v 0 24) s.absentPorts ≠ 0 || (n = s.pkgId && nbit v 31)
  let line := fieldAt d 0x100 4
  match (List.range 64).find? bad with
  | some n => some (4 * n)
  | none => if nf line 24 8 ≠ 0 || Nat.land line s.absentPorts ≠ 0 then some 0x100 else none

/-- R403: firmware writes the tables to every crossbar, without the ports that are down, and the dateline bits. -/
def State.writeRoutes (s : State) (d : List Byte) : State :=
  let up := maskOf 24 fun p => s.spanWorks p
  let s1 := (List.range (8 + s.fuses.assembly.ioDies)).foldl (fun s x => (List.range 64).foldl (fun s n =>
    let v := fieldAt d (4 * n) 4
    s.setReg (.spnPrt x n) (BitVec.ofNat 64 (nf v 30 2 * 2 ^ 30 + Nat.land (nf v 0 24) up))) s) s
  let line := fieldAt d 0x100 4
  ((List.range 24).filter fun p => portPresent s.fuses p).foldl (fun s p => s.setF (.spnCtl p) 30 1 (line / 2 ^ p)) s1

/-- R404: firmware applies the bin: the policy items at their defaults, the starting R_D and R_L, p_max, idle power. Beds of
enabled cores take the default bank mode QUOTA (log entry 59). -/
def State.applyBin (s : State) : State :=
  let s1 := { s with pkgCap := 0, vCeiling := [], spanLost := 0 }
  let s2 := (liveTowers s1).foldl (fun s t =>
    (s.setTherm t { s.therm t with estD := [], estL := [], lastRth := s.now, idlePower := s.freeNat 16,
                                   noListSince := s.now }).bumpFree.govern t) s1
  ((List.range 64).filter s2.coreEnabled).foldl (fun s k =>
    s.bedModeWrite k (BitVec.ofNat 64 (max 1 (num s.bankMode (k / 8))))) s2.recomputeCaps

/-- Enabled cores. -/
def State.enabledCores (s : State) : Nat := ((List.range 64).filter s.coreEnabled).length

def publishWork (route : List Byte) (s : State) : BootWork :=
  let d := if s.arg0 = 0 then List.replicate 0x104 0 else (route ++ List.replicate 0x104 0).take 0x104
  if !s.alive then { s := s, code := rcOk, ready := false }
  else
    match s.routeBad d with
    | some o => { s := s, code := rcRoute, detail := o }
    | none =>
      let s1 := ((s.writeRoutes d).applyBin).publishRecord
      if s1.enabledCores < s1.fuses.bin.minCores then { s := s1, code := rcBelowBin, detail := s1.enabledCores }
      else { s := s1, code := rcOk }

/-- PUBLISH: `route` is what host memory holds at BW_ARG0. -/
def execPublish (route : List Byte) (s : State) : Host.Outcome State Fault Refusal :=
  .next (s.bootCommand cmdPublish (publishWork route))

/-! ### TOWER_OFF (R405) -/

def towerOffWork (s : State) : BootWork :=
  { s := if (s.dom s.arg0).state = .on then s.towerLoss s.arg0 3 .off else s, code := rcOk }

def execTowerOff (s : State) : Host.Outcome State Fault Refusal := .next (s.bootCommand cmdTowerOff towerOffWork)

/-! ### The end of a step (R390) -/

/-- BOOT_STEP_COMPLETE: the running step reports. FIRMWARE ends with BISQUE, within 5 s. -/
def bootStepComplete (s : State) : State :=
  match s.bootRun with
  | none => s
  | some r =>
    if r.ready then s.bootEnd r.cmd r.code r.detail r.since
    else if r.cmd = cmdFirmware && decide (s.now < r.since + 1000000000) then
      s.firmwareUp.bootEnd r.cmd r.code r.detail r.since
    else s

def execBootStepComplete (s : State) : Host.Outcome State Fault Refusal := .next (bootStepComplete s)

/-! ### Boot-window registers as the host reads and writes them (R406) -/

/-- BW_ELAPSED as read: the running step's time so far. -/
def State.elapsedNow (s : State) : Nat :=
  match s.bootRun with
  | some r => (s.now - r.since) / 200000
  | none => (s.bw BW.elapsed).toNat

/-- The 32 bits that a boot-window offset reads as. -/
def State.bootRead (s : State) (o : Nat) : Nat :=
  if o = BW.result then s.bwResult
  else if o = BW.elapsed then s.elapsedNow
  else if o = BW.cmd then 0
  else if o = BW.arg0 + 4 || o = BW.arg1 + 4 then (s.bw (o - 4)).toNat / 2 ^ 32
  else (s.bw o).toNat % 2 ^ 32

/-- R397: known-bad registers accept writes in GREEN before step 5 begins. -/
def State.kbOpen (s : State) : Bool :=
  s.bootState = stGreen && decide (s.bootStep < 5) && (match s.bootRun with
    | some r => r.cmd ≠ cmdMemtest
    | none => true)

/-- Offsets of the known-bad registers. -/
def isKb (o : Nat) : Bool := (0x100 ≤ o && o < 0x130) || (0x200 ≤ o && o < 0x600)

/-- A command code written without the outside facts that its row carries: FUSES, TOWER_OFF and the reserved codes. -/
def State.bootCmdWrite (s : State) (c : Nat) : State :=
  if c = cmdFuses then s.bootCommand cmdFuses fusesWork
  else if c = cmdTowerOff then s.bootCommand cmdTowerOff towerOffWork
  else if [cmdPower, cmdLinks, cmdMemtest, cmdSelftest, cmdFirmware, cmdPublish].contains c then s
  else if s.bootRun.isSome then s.setBwF BW.status 30 1 1
  else (s.setBwF BW.status 8 8 c).bootEnd c (if nbit s.straps 11 then rcTestRefused else rcBadArg) 0 s.now

/-- A 32-bit write of a boot-window register. -/
def State.bootWrite (s : State) (o v : Nat) : State :=
  if o = BW.cmd then s.bootCmdWrite (v % 256)
  else if o = BW.status then (if nbit v 30 then s.setBwF BW.status 30 1 0 else s)
  else if o = BW.arg0 || o = BW.arg1 then s.setBwF o 0 32 v
  else if o = BW.arg0 + 4 || o = BW.arg1 + 4 then s.setBwF (o - 4) 32 32 v
  else if isKb o then
    (if s.kbOpen then s.setBw o (BitVec.ofNat 64 (if o < 0x200 then v % 65536 else v % 2 ^ 32))
     else s.accessError 3 0x70 noTenant o)
  else s

end Sys2Proof.Machine
end

