-- ==== Sys2Proof/Machine/Slips.lean ====
section
/-! DEFINITION. Slips that open a session, manage segments, and start or stop work (R298 to R306, R318, R319). -/

namespace Sys2Proof.Machine

/-! ### HELLO (R299) -/

/-- The firmware's protocol version, 3.2 (R4). -/
def fwVersion : Nat := 0x0302

def helloBody (s : State) (t version : Nat) : List Byte :=
  leBytes 2 version ++ leBytes 2 t ++ leBytes 1 29 ++ leBytes 1 16 ++ leBytes 2 0 ++ leBytes 8 s.fwBuild

def helloAct (x : Slip) (s : State) : State :=
  let lo := x.f 8 2
  let hi := x.f 0xA 2
  let m := s.mb x.t
  let v := if m.session then m.version else fwVersion
  if hi < lo then s.answer x stMalformed []
  else if lo ≤ v && v ≤ hi then
    let s1 := if m.session then s
      else { s with clamps := s.clamps.filter fun c => c.1 / 8 ≠ x.t }.setMb x.t
        { m with session := true, version := v, driver := x.f 0xC 4 }
    s1.answer x stOk (helloBody s x.t v)
  else s.answer x stVersion []

/-- HELLO (R299). -/
def execHello (slip : Slip) (s : State) : Host.Outcome State Fault Refusal :=
  .next (s.withSlip slip (fun o => o = 0x01) false [(8, 2), (0xA, 2), (0xC, 4)] (helloAct slip))

/-! ### Segments (R300, R301, R318 to R320) -/

/-- Field rules of SEG_ALLOC (Table 12-10). -/
def segAllocOk (x : Slip) : Bool :=
  let size := x.f 8 8
  let bed := x.f 0x11 1
  let rights := x.f 0x13 1
  decide (x.f 0x10 1 < 16) && decide (bed < 2) && decide (rights < 8) &&
    (if bed = 1 then
      decide (size ≠ 0) && size % 0x40000 = 0 && decide (x.f 0x12 1 < 64) &&
        (x.f 0x14 4 = 0xFFFFFFFF || x.f 0x14 4 % 0x40000 = 0)
     else decide (size ≠ 0) && size % 4096 = 0 && x.f 0x12 1 = 0 && x.f 0x14 4 = 0 && decide (rights < 4))

/-- Remember the bytes of a live slip that waits. -/
def State.waitSlip (s : State) (x : Slip) : State :=
  let m := s.mb x.t
  s.setMb x.t { m with live := m.live.map fun (l : LiveSlip) =>
    if l.opcode = x.opcode && l.tag = x.tag then { l with bytes := x.bytes } else l }

def segAllocAct (x : Slip) (s : State) : State :=
  if !segAllocOk x then s.answer x stMalformed []
  else if (s.seg? x.t (x.f 0x10 1)).isSome then s.answer x stBadSlot []
  else if x.f 0x11 1 = 1 && !s.coreEnabled (x.f 0x12 1) then s.answer x stNoSpace []
  else
    match s.allocPlace x.bytes true with
    | some base => (s.installAlloc x.t x.bytes base).answer x stOk (s.allocBody x.bytes base)
    | none =>
      match s.allocPlace x.bytes false with
      | some _ => s.waitSlip x
      | none => s.answer x stNoSpace []

/-- SEG_ALLOC (R300, R320). -/
def execSegAlloc (slip : Slip) (s : State) : Host.Outcome State Fault Refusal :=
  .next (s.withSlip slip (fun o => o = 0x02) false [(8, 8), (0x10, 1), (0x11, 1), (0x12, 1), (0x13, 1), (0x14, 4)]
    (segAllocAct slip))

/-- R300: the tenant has a list that is admitted and not complete. -/
def State.hasAdmitted (s : State) (t : Nat) : Bool := s.lists.any fun l => l.tenant = t && l.everAdmitted

/-- Tenants that hold an attached entry of a lease. -/
def State.grantees (s : State) (lease : Nat) : List Nat :=
  ((s.segs.filter fun (e : Nat × Seg) => decide (e.2.kind = SegKind.attached) && e.2.lease = lease).map fun e => e.1 / 16).dedup

def segFreeAct (x : Slip) (s : State) : State :=
  let slot := x.f 0x10 1
  if 16 ≤ slot then s.answer x stMalformed []
  else
    match s.seg? x.t slot with
    | none => s.answer x stBadSlot []
    | some g =>
      if s.hasAdmitted x.t || (decide (g.kind = .shared) && (s.grantees g.lease).any s.hasAdmitted) then s.answer x stBusy []
      else
        let s1 := match g.kind with
          | .priv => (s.clearSeg x.t slot).queueZero g false
          | .shared => s.removeShared x.t slot g false
          | .attached => s.clearSeg x.t slot
        { s1 with removing := s1.removing ++ [(x.t * 16 + slot, g)] }.waitSlip x

/-- SEG_FREE (R300, R317, R319): the entry is gone at once; the slip completes with the removal. -/
def execSegFree (slip : Slip) (s : State) : Host.Outcome State Fault Refusal :=
  .next (s.withSlip slip (fun o => o = 0x03) false [(0x10, 1)] (segFreeAct slip))

/-- R301: a key that has not been issued, from firmware's choice upward (a free value, log entry 2). -/
def State.newKey (s : State) : Nat :=
  let c := s.freeNat 32
  (((List.range (s.usedKeys.length + 1)).map fun i => (c + i) % 2 ^ 32).find? fun k => !s.usedKeys.contains k).getD c

def segShareAct (x : Slip) (s : State) : State :=
  let slot := x.f 0x10 1
  let rights := x.f 0x13 1
  let who := x.f 0x14 2
  if 16 ≤ slot || 8 ≤ rights || 1024 ≤ who then s.answer x stMalformed []
  else
    match s.seg? x.t slot with
    | none => s.answer x stBadSlot []
    | some g =>
      if g.kind = .attached then s.answer x stDenied []
      else if Nat.land rights g.rights ≠ rights then s.answer x stMalformed []
      else
        let lease := segLease x.t slot
        let s1 := if g.kind = .priv then (s.setSeg x.t slot { g with kind := .shared, lease := lease }).grant lease x.t else s
        let k := s.newKey
        let s2 := { s1 with keys := s1.keys ++ [(⟨k, x.t, slot, who, rights⟩ : ShareKey)], usedKeys := k :: s1.usedKeys }.bumpFree
        s2.answer x stOk (leBytes 4 k)

/-- SEG_SHARE (R301, R318). -/
def execSegShare (slip : Slip) (s : State) : Host.Outcome State Fault Refusal :=
  .next (s.withSlip slip (fun o => o = 0x04) false [(0x10, 1), (0x13, 1), (0x14, 2)] (segShareAct slip))

def segAttachAct (x : Slip) (s : State) : State :=
  let slot := x.f 0x10 1
  if 16 ≤ slot || 1024 ≤ x.f 0xC 2 then s.answer x stMalformed []
  else if (s.seg? x.t slot).isSome then s.answer x stBadSlot []
  else
    match s.keys.find? fun k => k.key = x.f 8 4 && k.owner = x.f 0xC 2 && k.grantee = x.t with
    | none => s.answer x stNotFound []
    | some k =>
      match s.seg? k.owner k.slot with
      | none => s.answer x stNotFound []
      | some g =>
        let s1 := { s with keys := s.keys.filter fun y => y ≠ k }.setSeg x.t slot { g with kind := .attached, rights := k.rights }
        s1.answer x stOk (leBytes 8 g.base ++ leBytes 8 g.size ++
          leBytes 4 (if g.bed then 0 else s.poisonedGranules g.base g.size) ++ leBytes 1 k.rights)

/-- SEG_ATTACH (R301, R318). -/
def execSegAttach (slip : Slip) (s : State) : Host.Outcome State Fault Refusal :=
  .next (s.withSlip slip (fun o => o = 0x05) false [(8, 4), (0xC, 2), (0x10, 1)] (segAttachAct slip))

/-! ### SUBMIT and CANCEL (R295, R302, R303) -/

/-- R295: another live SUBMIT or TRANSFER of the tenant bears the tag; the slip itself is live already. -/
def State.tagTaken (s : State) (x : Slip) : Bool :=
  1 < ((s.mb x.t).live.filter fun l => (decide (l.opcode = 0x06) || decide (l.opcode = 0x08)) && l.tag = x.tag).length

/-- R295: end a slip whose tag is in use. -/
def State.refuseTag (s : State) (x : Slip) : State := s.answer x stMalformed []

def submitAct (x : Slip) (s : State) : State :=
  let ref := x.f 8 8
  if s.tagTaken x then s.refuseTag x
  else if !(refOk ref && refSpace ref = 1 && refOff ref % 32 = 0) || 8 ≤ x.f 0x10 1 then s.answer x stMalformed []
  else
    let l : WorkList := { id := s.nextList, tenant := x.t, tag := x.tag, quiet := x.quiet, priority := x.f 0x10 1, ref := ref,
                          submitted := s.now, waitingSince := s.now }
    { s with lists := s.lists ++ [l], nextList := s.nextList + 1 }

/-- SUBMIT (R302): the list waits for admission. -/
def execSubmit (slip : Slip) (s : State) : Host.Outcome State Fault Refusal :=
  .next (s.withSlip slip (fun o => o = 0x06) false [(8, 8), (0x10, 1)] (submitAct slip))

/-- R276, R303: stop a list for good with a status. A list that is not running ends at once; a running one issues nothing
more, drops what has not started, and ends when the rest has stopped or finished. -/
def State.stopList (s : State) (l : WorkList) (st : Nat) : State :=
  match l.state with
  | .waiting | .preempted | .resuming => s.completeList { l with stopStatus := some st, ops := [] }
  | .running | .stopping =>
    ((s.dropQueued l).setList { l with stopStatus := some st, state := .stopping, ops := l.ops.map Op.withdrawn }).settleList l.id false

def cancelAct (x : Slip) (s : State) : State :=
  let tag := x.f 8 4
  match s.lists.find? fun l => l.tenant = x.t && l.tag = tag with
  | some l => (s.setList { l with cancelTags := l.cancelTags ++ [(x.tag, x.quiet)] }).stopList
      { l with cancelTags := l.cancelTags ++ [(x.tag, x.quiet)] } osCancelled
  | none =>
    match s.xfer? x.t tag with
    | some y => (s.setXfer { y with cancelTags := y.cancelTags ++ [(x.tag, x.quiet)] }).stopXfer x.t tag stCancelled false
    | none => s.answer x stNotFound []

/-- CANCEL (R303). -/
def execCancel (slip : Slip) (s : State) : Host.Outcome State Fault Refusal :=
  .next (s.withSlip slip (fun o => o = 0x07) false [(8, 4)] (cancelAct slip))

/-! ### TRANSFER (R304, R321) -/

/-- The lowest free queue entry of an engine. -/
def State.freeEntry (s : State) (e : Nat) : Option Nat :=
  (List.range 64).find? fun q => !((s.engine e).jobs.any fun j => j.entry = q)

/-- An engine on a live tower. -/
def State.engineLive (s : State) (e : Nat) : Bool := e < 32 && s.towerLive (e / 4) && !s.dieLost (e / 4)

/-- The engines firmware uses: the named ones that can take a job, at most eight, else the lowest that can. -/
def State.chosenEngines (s : State) (named : List Nat) : List Nat :=
  let can (e : Nat) : Bool := s.engineLive e && (s.freeEntry e).isSome
  match (named.dedup.filter can).take 8 with
  | [] => ((List.range 32).filter can).take 1
  | l => l

/-- Place one job on an engine, with its lease. -/
def State.placeJob (s : State) (t tag e first count : Nat) : State :=
  match s.freeEntry e with
  | some q =>
    (s.setEngine e { s.engine e with jobs := (s.engine e).jobs ++ [⟨q, t, tag, first, count, 0⟩] }).grant (jobLease e q) t
  | none => s

/-- R321: split the granules into runs of whole granules, one run for each engine. -/
def State.placeJobs (s : State) (t tag total : Nat) (es : List Nat) : State :=
  let per := ceilDiv total (max 1 es.length)
  (es.zipIdx).foldl (fun s e =>
    let first := e.2 * per
    if first < total then s.placeJob t tag e.1 first (min per (total - first)) else s) s

def transferOk (x : Slip) : Bool :=
  decide (1 ≤ x.f 0x18 8) && decide (x.f 0x18 8 ≤ 2 ^ 40) && decide (x.f 0x20 1 < 2) && refOk (x.f 0x10 8) &&
    refSpace (x.f 0x10 8) = 1

/-- The transfer of a slip. -/
def xferOf (x : Slip) : Xfer :=
  { tenant := x.t, tag := x.tag, quiet := x.quiet, host := x.f 8 8, slot := refSegNo (x.f 0x10 8), off := refOff (x.f 0x10 8),
    bytes := x.f 0x18 8, toHost := x.f 0x20 1 = 1 }

def transferAct (x : Slip) (named : List Nat) (s : State) : State :=
  if s.tagTaken x then s.refuseTag x
  else if !transferOk x then s.answer x stMalformed []
  else
    let y := xferOf x
    match s.resolve x.t (x.f 0x10 8) (plain y.bytes) (if y.toHost then rRead else rWrite) with
    | none => s.answer x stMalformed []
    | some _ =>
      let es := s.chosenEngines named
      if es.isEmpty then s.answer x stTowerLost (leBytes 8 0)
      else
        let s1 := { s with xfers := s.xfers ++ [y] }
        s1.placeJobs x.t x.tag (granuleCount (s1.xferDst y) y.bytes) es

/-- TRANSFER (R304, R321): `engines` are those firmware chooses. While live engines exist and every queue entry of theirs is
taken, firmware has not taken the slip yet. -/
def execTransfer (slip : Slip) (engines : List (Fin 32)) (s : State) : Host.Outcome State Fault Refusal :=
  .next (if (List.range 32).any s.engineLive && ((s.chosenEngines (engines.map Fin.val)).isEmpty) then s
    else s.withSlip slip (fun o => o = 0x08) false [(8, 8), (0x10, 8), (0x18, 8), (0x20, 1)]
      (transferAct slip (engines.map Fin.val)))

/-! ### FLOORPLAN and TIMESYNC (R306, R377) -/

def floorplanAct (x : Slip) (hostOk : Bool) (s : State) : State :=
  if !s.published then s.answer x stNotFound []
  else if !hostOk then s.answer x stHostFault []
  else
    (s.emit (.hostWrite x.t (x.f 8 8) (rdBytes s.fplan 0 0x500) false)).answer x stOk
      (leBytes 4 s.fpGen ++ leBytes 4 0 ++ leBytes 8 (rdLe s.fplan 0x10 8))

/-- FLOORPLAN (R306). -/
def execFloorplan (slip : Slip) (hostOk : Bool) (s : State) : Host.Outcome State Fault Refusal :=
  .next (s.withSlip slip (fun o => o = 0x0A) false [(8, 8)] (floorplanAct slip hostOk))

/-- Body of a TIMESYNC completion (R298): both counts are this step's, and whether the timebase is in holdover (R44). -/
def timesyncBody (s : State) : List Byte :=
  leBytes 8 s.tb.count ++ leBytes 8 s.tb.count ++ leBytes 1 (b2n s.tb.holdover)

/-- A TIMESYNC slip: 0 reads; 1 also loads the preset and arms, for the physical function only (R377). -/
def timesyncAct (x : Slip) (s : State) : State :=
  match x.f 8 1 with
  | 0 => s.answer x stOk (timesyncBody s)
  | 1 =>
    if x.t ≠ 0 then s.answer x stDenied []
    else { s with tb := { s.tb with preset := x.f 0x10 8, armed := true } }.answer x stOk (timesyncBody s)
  | _ => s.answer x stMalformed []

/-- TIMESYNC_READ (R298): a TIMESYNC slip whose action is not arm. -/
def execTimesyncRead (slip : Slip) (s : State) : Host.Outcome State Fault Refusal :=
  .next (if slip.f 8 1 = 1 then s else s.withSlip slip (fun o => o = 0x0D) false [(8, 1), (0x10, 8)] (timesyncAct slip))

/-- TIMESYNC_ARM (R377). -/
def execTimesyncArm (slip : Slip) (s : State) : Host.Outcome State Fault Refusal :=
  .next (if slip.f 8 1 = 1 then s.withSlip slip (fun o => o = 0x0D) true [(8, 1), (0x10, 8)] (timesyncAct slip) else s)

end Sys2Proof.Machine
end

