-- ==== Sys2Proof/Machine/Tenants.lean ====
section
/-! DEFINITION. Heartbeats and failover (R282, R283, R364), tenant resets (R310, R325, R326) and the number of virtual
functions (R311, R312). -/

namespace Sys2Proof.Machine

/-! ### Heartbeats and failover -/

/-- HEARTBEAT_RELOAD (R282): the serving complex reloads its heartbeat. -/
def heartbeatReload (s : State) : State :=
  if !s.alive then s
  else if s.standby then { s with hbStandby := some s.now } else { s with hbActive := some s.now }

def execHeartbeatReload (s : State) : Host.Outcome State Fault Refusal := .next (heartbeatReload s)

/-- A heartbeat has not been reloaded for 10 ms, 2,000,000 ticks. -/
def silent (now : Nat) (h : Option Nat) : Bool :=
  match h with
  | some t => decide (t + 2000000 ≤ now)
  | none => false

/-- HEARTBEAT_TIMEOUT (R282, R364): the active complex is silent: the fatal vector, the controller's switch, and the start
of the standby complex. -/
def heartbeatTimeout (s : State) : State :=
  if silent s.now s.hbActive then
    let s1 := (s.setFatal fatPrimary).log 0x0080 4 8 0x70 noTenant 1 0
    { s1 with ic := s1.ic.failover, alive := false, hbActive := none, hbStandby := some s.now }
  else s

def execHeartbeatTimeout (s : State) : Host.Outcome State Fault Refusal := .next (heartbeatTimeout s)

/-- FAILOVER (R282, R283, R33): the standby complex, on X1, serves every mailbox. -/
def failover (s : State) : State :=
  if s.alive || s.fwDead || s.hbStandby.isNone || (s.dom 9).state ≠ .on then s
  else
    let s1 := { s with alive := true, standby := true, hbStandby := some s.now, failovers := satAdd 0xFF s.failovers 1 }
    let s2 := (List.range 4).foldl (fun s i => s.revokeAll (0x800 + i) true false) s1
    let s3 := if s2.published then s2.publishRecord else s2
    s3.notifyAll noticeFailover 0 s3.failovers []

def execFailover (s : State) : Host.Outcome State Fault Refusal := .next (failover s)

/-- STANDBY_HEARTBEAT_TIMEOUT (R282): no complex is left. -/
def standbyHeartbeatTimeout (s : State) : State :=
  if silent s.now s.hbStandby then
    { (s.setFatal fatFirmware).log 0x0080 4 9 0x71 noTenant 2 0 with alive := false, fwDead := true, hbStandby := none }
  else s

def execStandbyHeartbeatTimeout (s : State) : Host.Outcome State Fault Refusal := .next (standbyHeartbeatTimeout s)

/-! ### Tenant reset (Table 13-5) -/

/-- R310: the mailbox page as a reset leaves it; bad_doorbell and the MSI-X table are not among what R310 names. -/
def Mailbox.zeroed (m : Mailbox) : Mailbox :=
  { badDoorbell := m.badDoorbell, vec0 := m.vec0, vec1 := m.vec1 }

/-- Lists of a tenant. -/
def State.listsOf (s : State) (t : Nat) : List WorkList := s.lists.filter fun l => l.tenant = t

/-- Step 2: every lease of the tenant is revoked, and LSE_STAT and the log show it. Its accesses have ended (log entry 22),
so what left it may be zeroed. -/
def State.revokeTenant (s : State) (t : Nat) : State :=
  let n := (s.heldBy t).length
  let old := s.zeroing.length
  let s1 := s.revokeAll t s.standby true
  let fresh := (s1.zeroing.drop old).map fun (z : ZeroRange) => { z with removalDone := true }
  let s2 := { s1 with zeroing := s1.zeroing.take old ++ fresh, xfers := s1.xfers.filter fun (x : Xfer) => x.tenant ≠ t }
  let s3 := if s2.revocation.isNone then (s2.setF .lseStat 0 12 t).setBit .lseStat 30 else s2
  s3.log 0x0081 0 8 0x70 noTenant t n

/-- Steps 1 to 3. -/
def State.beginReset (s : State) (t : Nat) : State :=
  let s1 := s.setMb t { s.mb t with resetting := true }
  ((s1.listsOf t).foldl (fun s l => match s.list? l.id with
    | some m => s.stopList m osTenantReset
    | none => s) (s1.revokeTenant t))

/-- Steps 4 and 6: the tenant's remaining entries go, its own memory to be zeroed. -/
def State.dropEntries (s : State) (t : Nat) : State :=
  (List.range 16).foldl (fun s i =>
    match s.seg? t i with
    | none => s
    | some g => if g.kind = .attached then s.clearSeg t i else (s.clearSeg t i).queueZero g true) s

/-- Step 5: a core that the tenant used: bed commands cancelled and slots cleared, stores zero, quantise counters clear,
counter selections at their defaults. -/
def State.clearCore (s : State) (k : Nat) : State :=
  let s1 := { s with stores := zeroRange s.stores (storeBase k) 0x600000 }
  ((s1.bedClear k).qsClear k).setCoreUnit k { s1.coreUnit k with tenant := none }

def State.dropSelections (s : State) (k : Nat) : State :=
  (List.range 16).foldl (fun s i => s.setReg (.ctrSel k i) (BitVec.ofNat 64 (ctrDefault k i))) s

/-- Steps 4 to 7, once every list has stopped. -/
def State.endReset (s : State) (t : Nat) : State :=
  let s1 := s.setMb t { s.mb t with live := [] }
  let s2 := ((s1.removing.filter fun e => e.1 / 16 = t).map (·.1)).foldl (fun s e => segmentRemoval t (e % 16) s) s1
  let s3 := s2.dropEntries t
  let s4 := ((s3.cores.filter fun x => x.2.tenant = some t).map (·.1)).foldl (fun s k => (s.clearCore k).dropSelections k) s3
  let s5 : State := { s4 with keys := s4.keys.filter fun (k : ShareKey) => k.owner ≠ t,
                              vFloor := s4.vFloor.filter fun (x : Nat × Nat) => x.1 / 8 ≠ t,
                              clamps := s4.clamps.filter fun (x : Nat × Nat) => x.1 / 8 ≠ t,
                              progress := setNum s4.progress t 0, watchdogs := setNum s4.watchdogs t 0 }
  (List.range 8).foldl (fun s w => s.govern w) ((s5.setReg (.detNondet t) 0).setMb t (s5.mb t).zeroed)

/-- R310: the TENANT_RESETs that waited complete, in the ring of the physical function. -/
def State.answerResets (s : State) (j : ResetJob) : State :=
  j.tags.foldl (fun s tag => s.complete 0 0x0F tag stOk (leBytes 8 s.tb.count)) s

/-- Carry a reset as far as it goes now. -/
def State.settleReset (s : State) (j : ResetJob) : State :=
  let s1 := if j.begun then s else s.beginReset j.tenant
  if (s1.listsOf j.tenant).isEmpty then
    let s2 := s1.endReset j.tenant
    let s3 := if j.vanish then (s2.setMb j.tenant {}).release (mboxLease j.tenant) else s2
    { s3 with resets := s3.resets.filter fun (x : ResetJob) => x.tenant ≠ j.tenant }.answerResets j
  else { s1 with resets := s1.resets.map fun (x : ResetJob) => if x.tenant = j.tenant then { x with begun := true } else x }

/-- R312: a change of NumVFs completes when the resets that it waits for have. New functions get a processor (R323). -/
def State.settleVfs (s : State) : State :=
  match s.vfPending with
  | none => s
  | some (n, e) =>
    if s.resets.any fun j => j.vanish then s
    else
      let was := if s.vfEnable then s.numVfs else 0
      let s1 := { s with numVfs := n, vfEnable := e, vfPending := none }
      if s1.alive && e then
        ((List.range n).filter fun i => was ≤ i).foldl (fun s i => s.grantMailbox (i + 1) (if s.standby then 0x804 else 0x800)) s1
      else s1

/-- Firmware carries every reset on. -/
def State.settleResets (s : State) : State :=
  if s.alive then (s.resets.foldl (fun s j => s.settleReset j) s).settleVfs else s

/-- R326: start a reset, or join the one that runs. -/
def State.askReset (s : State) (t : Nat) (tag : Option Nat) (vanish : Bool) : State :=
  if s.resets.any fun j => j.tenant = t then
    { s with resets := s.resets.map fun (j : ResetJob) =>
        if j.tenant = t then { j with tags := j.tags ++ tag.toList, vanish := j.vanish || vanish } else j }.settleResets
  else
    let j : ResetJob := { tenant := t, tags := tag.toList, vanish := vanish }
    { s with resets := s.resets ++ [j] }.settleResets

def tenantResetAct (x : Slip) (s : State) : State :=
  let t := x.f 8 2
  if t = 0 || 1024 ≤ t || !s.fnExists t then s.answer x stMalformed [] else s.askReset t (some x.tag) false

/-- TENANT_RESET (R310, R325): for the physical function only. A target that does not exist is out of range (log
entry 66). -/
def execTenantReset (slip : Slip) (s : State) : Host.Outcome State Fault Refusal :=
  .next (s.withSlip slip (fun o => o = 0x0F) true [(8, 2)] (tenantResetAct slip))

/-- FUNCTION_LEVEL_RESET (R310): of a virtual function it resets the tenant; of the physical function its own page and
session alone. -/
def functionLevelReset (t : Nat) (s : State) : State :=
  if !s.fnExists t then s
  else if t = 0 then
    let s1 := { s with clamps := s.clamps.filter fun (x : Nat × Nat) => x.1 / 8 ≠ 0,
                       vFloor := s.vFloor.filter fun (x : Nat × Nat) => x.1 / 8 ≠ 0 }.setMb 0 (s.mb 0).zeroed
    (List.range 8).foldl (fun s w => s.govern w) s1
  else if s.bootStep < 7 then s.setMb t (s.mb t).zeroed
  else s.askReset t none false

def execFunctionLevelReset (tenant : BitVec 10) (s : State) : Host.Outcome State Fault Refusal :=
  .next (functionLevelReset tenant.toNat s)

/-- NUMVFS_CHANGE (R311, R312): tenants that stop existing are reset first. Before firmware runs there is nothing of them. -/
def numvfsChange (n : Nat) (e : Bool) (s : State) : State :=
  if 1023 < n || !s.bar0Up then s
  else
    let was := if s.vfEnable then s.numVfs else 0
    let now := if e then n else 0
    let s1 := { s with vfPending := some (n, e) }
    if s.bootStep < 7 then
      { s1 with mbox := s1.mbox.filter fun (m : Nat × Mailbox) => decide (m.1 ≤ now) }.settleVfs
    else
      let gone := ((List.range was).map (· + 1)).filter fun t => now < t
      let jobs := gone.filter fun t => !(s1.resets.any fun j => j.tenant = t)
      { s1 with resets := (s1.resets.map fun (j : ResetJob) => if gone.contains j.tenant then { j with vanish := true } else j) ++
          jobs.map fun t => ({ tenant := t, vanish := true } : ResetJob) }.settleResets

def execNumvfsChange (numVfs : BitVec 16) (vfEnable : Bool) (s : State) : Host.Outcome State Fault Refusal :=
  .next (numvfsChange numVfs.toNat vfEnable s)

/-- TIMEBASE_TICK (R374): the count increments by one, and one tick of every interval passes (R376); firmware carries on
the resets that wait for lists to stop. -/
def execTimebaseTick (s : State) : Host.Outcome State Fault Refusal :=
  .next (if s.tbRuns then ((tbTick s).measure).settleResets else s)

end Sys2Proof.Machine
end

