-- ==== Sys2Proof/Machine/Sched.lean ====
section
/-! DEFINITION. Energy-aware scheduling (R252, R280, R354 to R360): admission, preemption for power, bank limits, idle time
for scrubbing, and the POLICY slip. -/

namespace Sys2Proof.Machine

/-! ### The header of a list (R252, R280) -/

/-- What firmware reads of a list before it admits it. Powers are in 0.1 W, energy in µJ. -/
structure Header where
  home : Nat := 0
  units : Nat := 0
  resume : Nat := 0
  records : Nat := 0
  annot : Nat := 0
  annotated : Bool := false
  power : List Nat := []
  energy : Nat := 0
deriving DecidableEq, Repr

/-- Read n bytes of a tenant's segment without counting: the status where it fails, and the bytes. -/
def State.peek (s : State) (t ref n : Nat) : Nat × List Byte :=
  match s.resolve t ref (plain n) rRead with
  | some (.dev a _) =>
    let r := s.readMem a n t 0x70
    (r.acc.status, r.data)
  | _ => (osSegment, [])

/-- R252, R253, Table 11-1: the fields of a header carry no reserved value. -/
def headerOk (h : List Byte) : Bool :=
  let f := fieldAt h
  f 0 2 = 0x4C57 && f 2 1 = 1 && f 3 1 < 8 && (2 ≤ f 4 4 && f 4 4 ≤ 1048576) &&
    (f 8 8 ≠ 0 && refOk (f 8 8) && refSpace (f 8 8) = 1 && refOff (f 8 8) % 4096 = 0) &&
    (f 0x10 8 = 0 || (refOk (f 0x10 8) && refSpace (f 0x10 8) = 1)) &&
    (f 0x18 8 = 0 || (refOk (f 0x18 8) && refSpace (f 0x18 8) = 1 && refOff (f 0x18 8) % 64 = 0))

/-- R252: the home tower can take work. -/
def State.homeOk (s : State) (t : Nat) : Bool :=
  s.towerLive t && (List.range 8).any fun i => s.coreEnabled (8 * t + i)

/-- R252, R280: the header of a waiting list, or the status it fails with (log entry 69: an unreadable annotation block
fails the list). -/
def State.readHeader (s : State) (l : WorkList) : Except Nat Header :=
  let r := s.peek l.tenant l.ref 32
  let f := fieldAt r.2
  if r.1 ≠ 0 then .error r.1
  else if !headerOk r.2 || !s.homeOk (f 3 1) then .error osMalformed
  else if (s.resolve l.tenant l.ref (plain (32 * f 4 4)) rRead).isNone then .error osSegment
  else
    let h : Header := { home := f 3 1, units := f 4 4, resume := f 8 8, records := f 0x10 8, annot := f 0x18 8 }
    if h.annot = 0 then
      .ok { h with power := (List.range 8).map fun t => if t = h.home then s.regF (.env t) 16 16 else 0 }
    else
      let a := s.peek l.tenant h.annot 64
      if a.1 ≠ 0 then .error a.1
      else if !allZero (a.2.drop 0x38) then .error osMalformed
      else .ok { h with annotated := true, power := (List.range 8).map fun t => fieldAt a.2 (0x20 + 2 * t) 2,
                        energy := fieldAt a.2 (4 * h.home) 4 }

/-- The header that a list was admitted with. -/
def WorkList.header (l : WorkList) : Header :=
  { home := l.home, units := l.units, resume := l.resume, records := l.records, annot := l.annot, annotated := l.annot ≠ 0,
    power := l.power, energy := l.energy }

/-- The header of a list that waits for admission: read afresh, or for a preempted list the one it has. -/
def State.headerOf (s : State) (l : WorkList) : Except Nat Header :=
  if l.state = .preempted then .ok l.header else s.readHeader l

/-! ### Cores (R58, R114, R144) -/

/-- Cores that the operations of a list name: walk its units (log entry 70). -/
def coresIn (m : Memory) (a : Nat) : Nat → Nat → List Nat
  | 0, _ => []
  | fuel + 1, left =>
    if left = 0 then []
    else
      let c := rdLe m a 1
      let n := opUnits c
      if n = 0 then []
      else (if opHasCore c then [rdLe m (a + 3) 1] else []) ++ coresIn m (a + 32 * n) fuel (left - n)

/-- Cores of a list with a header. -/
def State.listCores (s : State) (l : WorkList) (h : Header) : List Nat :=
  match s.resolve l.tenant l.ref (plain 32) rRead with
  | some (.dev a _) => (coresIn s.mem (a + 32) h.units (h.units - 1)).dedup.filter s.coreEnabled
  | _ => []

/-- A core holds work of another tenant that has a list on its tower. -/
def State.coreTaken (s : State) (t k : Nat) : Bool :=
  match (s.coreUnit k).tenant with
  | some u => u ≠ t && (s.listsOn (k / 8)).any fun l => l.tenant = u
  | none => false

/-- Firmware places work of a tenant on a core: cleared first when another tenant had it. -/
def State.placeOn (s : State) (t k : Nat) : State :=
  let s1 := match (s.coreUnit k).tenant with
    | some u => if u = t then s else s.clearCore k
    | none => s
  s1.setCoreUnit k { s1.coreUnit k with tenant := some t }

/-! ### Fitting (R354, R355) -/

/-- Power that lists other than those leaving hold on a tower. -/
def State.committedLess (s : State) (t : Nat) (gone : List Nat) : Nat :=
  (s.therm t).idlePower + ((s.lists.filter fun l => (decide (l.state = .running) || decide (l.state = .stopping) ||
    decide (l.state = .resuming)) && !gone.contains l.id).map fun l => l.power.getD t 0).sum

/-- R355, R280: a list fits beside what is committed, apart from the lists `gone`, with power kept for others. A list
without annotations is held to R280 and to the package's sum (log entry 68). -/
def State.fits (s : State) (h : Header) (gone : List Nat) (extra : List Nat) : Bool :=
  let each := (List.range 8).all fun t => h.power.getD t 0 = 0 ||
    decide (s.committedLess t gone + extra.getD t 0 + h.power.getD t 0 ≤ s.regF (.env t) 0 16)
  let alone := !((s.listsOn h.home).any fun l => !gone.contains l.id)
  let total := ((List.range 8).map fun t => s.committedLess t gone + extra.getD t 0 + h.power.getD t 0).sum
  (if h.annotated then each else alone) && decide (total + 10 * s.regF .pkgPower 0 16 ≤ 10 * s.capW)

/-- R356: power that lists which have waited 100 ms (20,000,000 ticks) keep a later one out of. -/
def State.keptFrom (s : State) (l : WorkList) : List Nat :=
  let old := s.lists.filter fun (w : WorkList) => (decide (w.state = .waiting) || decide (w.state = .preempted)) &&
    decide (w.waitingSince + 20000000 ≤ s.now) && decide (w.submitted < l.submitted || (w.submitted = l.submitted && w.id < l.id)) &&
    decide (l.priority ≤ w.priority) && (match s.headerOf w with
      | .ok h => !s.fits h [] []
      | .error _ => false)
  (List.range 8).map fun t => (old.map fun w => match s.headerOf w with
    | .ok h => h.power.getD t 0
    | .error _ => 0).sum

/-! ### Preference (R356) -/

/-- Predicted run time in ticks: energy over power, rounded down (log entry 25). -/
def runTicks (energy power : Nat) : Nat := if power = 0 then 0 else energy * 2000 / power

def State.heavyHeader (s : State) (h : Header) : Bool := s.regF (.env h.home) 16 16 ≤ 2 * h.power.getD h.home 0

/-- The home tower's most recently admitted running list. -/
def State.latestOn (s : State) (t : Nat) : Option WorkList :=
  match s.listsOn t with
  | [] => none
  | l :: ls => some (ls.foldl (fun a b => if a.admitOrder < b.admitOrder then b else a) l)

/-- Distance of two instants. -/
def distance (a b : Int) : Nat := (a - b).natAbs

/-- The order of preference as a list of numbers: smaller is better. -/
def State.prefKey (s : State) (l : WorkList) (h : Header) : List Nat :=
  match s.latestOn h.home with
  | none => [7 - l.priority, 0, 0, l.submitted, l.id]
  | some c =>
    let pair := s.heavyHeader h ≠ s.heavy c && l.tenant ≠ c.tenant
    let left : Int := (runTicks c.energy (c.power.getD c.home 0) : Int) - ((s.now - c.admittedAt : Nat) : Int)
    [7 - l.priority, b2n (!pair), distance (runTicks h.energy (h.power.getD h.home 0)) left, l.submitted, l.id]

/-- Lexicographic order. -/
def lexLt : List Nat → List Nat → Bool
  | x :: xs, y :: ys => decide (x < y) || (x = y && lexLt xs ys)
  | _, _ => false

/-! ### Admission (R355, R356) -/

/-- Lists that wait for admission. -/
def State.waitingLists (s : State) : List WorkList :=
  s.lists.filter fun l => (decide (l.state = .waiting) || decide (l.state = .preempted)) && !(s.mb l.tenant).resetting

/-- Lists that can be admitted now, with their headers. -/
def State.admissible (s : State) : List (WorkList × Header) :=
  s.waitingLists.filterMap fun l =>
    match s.headerOf l with
    | .ok h =>
      if s.fits h [] (s.keptFrom l) && !((s.listCores l h).any fun k => s.coreTaken l.tenant k) then some (l, h) else none
    | .error _ => none

/-- The best of them. -/
def State.bestList (s : State) : Option (WorkList × Header) :=
  match s.admissible with
  | [] => none
  | x :: xs => some (xs.foldl (fun a b => if lexLt (s.prefKey b.1 b.2) (s.prefKey a.1 a.2) then b else a) x)

/-- The order number of the next admission. -/
def State.nextOrder (s : State) : Nat := (s.lists.map fun l => l.admitOrder).foldl max 0 + 1

/-- R423: a list that holds a place: admitted and neither complete nor preempted. -/
def WorkList.placed (l : WorkList) : Bool :=
  decide (l.state = .running) || decide (l.state = .stopping) || decide (l.state = .resuming)

/-- R423: firmware watches a tenant from its first admitted list on. Time with all of its lists waiting or preempted does
not count: the last progress moves by the time since the last of them was preempted. -/
def State.watch (s : State) (t : Nat) : State :=
  let mine := s.lists.filter fun l => decide (l.tenant = t) && l.everAdmitted
  if mine.any WorkList.placed then s
  else
    match mine.map fun l => l.waitingSince with
    | [] => { s with progress := setNum s.progress t s.now, watchdogs := setNum s.watchdogs t 0 }
    | w :: ws =>
      let p := num s.progress t
      { s with progress := setNum s.progress t (p + (s.now - max p (ws.foldl max w))) }

/-- Admit a list: a new one runs, a preempted one resumes. -/
def State.admitList (s : State) (l : WorkList) (h : Header) : State :=
  let s1 := ((s.listCores l h).foldl (fun s k => s.placeOn l.tenant k) s).watch l.tenant
  let m : WorkList := { l with
    state := if l.state = .preempted then .resuming else .running, home := h.home, units := h.units, resume := h.resume,
    records := h.records, annot := h.annot, power := h.power, energy := h.energy, meanPower := h.power.getD h.home 0,
    admitted := if l.everAdmitted then l.admitted else s.tb.count, everAdmitted := true, admitOrder := s.nextOrder,
    admittedAt := s.now }
  (s1.setList m).govern h.home

/-- R252, R302: a list whose header fails completes without issuing anything; its operation offset is that of the header. -/
def State.failHeader (s : State) (l : WorkList) (st : Nat) : State :=
  let m : WorkList := { l with admitted := s.tb.count, everAdmitted := true, failed := some (0, st) }
  (s.setList m).completeList m

/-- A waiting list whose header fails. -/
def State.badHeader (s : State) : Option (WorkList × Nat) :=
  s.waitingLists.findSome? fun l => match s.headerOf l with
    | .error st => some (l, st)
    | .ok _ => none

/-- R339, R359: firmware admits lists now. -/
def State.admits (s : State) : Bool :=
  s.alive && s.fired && !s.vinAlert && !s.sampling && decide (s.pauseUntil ≤ s.now)

/-- LIST_ADMISSION (R252, R302, R354 to R356): one list. -/
def listAdmission (s : State) : State :=
  if !s.admits then s
  else
    match s.badHeader with
    | some (l, st) => s.failHeader l st
    | none =>
      match s.bestList with
      | some (l, h) => s.admitList l h
      | none => s

def execListAdmission (s : State) : Host.Outcome State Fault Refusal := .next (listAdmission s)

/-! ### Preemption for power (R357, R359) -/

/-- R276, R357: a list that preemption stops at tile boundaries: every operation in flight that has a core is RESUMABLE
(log entry 71). -/
def WorkList.resumable (l : WorkList) : Bool :=
  l.preemptible && l.ops.all fun o => !opHasCore o.opcode || o.resumable

/-- Lowest priority first, the latest admitted first within a priority. -/
def victimOrder (ls : List WorkList) : List WorkList := sortBy (fun l => l.priority * 2 ^ 40 + (2 ^ 40 - l.admitOrder)) ls

/-- The victims a waiting list needs, from candidates in order; none where even all of them leave no room. -/
def State.victims (s : State) (h : Header) (gone : List Nat) : List WorkList → Option (List Nat)
  | [] => if s.fits h gone [] then some gone else none
  | v :: vs => if s.fits h gone [] then some gone else s.victims h (gone ++ [v.id]) vs

/-- Towers that lack room for a list. -/
def State.lacking (s : State) (h : Header) (gone : List Nat) : List Nat :=
  (List.range 8).filter fun t => (h.power.getD t 0 ≠ 0 || t = h.home) &&
    decide (s.regF (.env t) 0 16 < s.committedLess t gone + h.power.getD t 0)

/-- First case: a list that has waited PREEMPT_WAIT. Lists already stopping leave of their own. -/
def State.preemptForList (s : State) : State :=
  match s.waitingLists.find? fun l => decide (l.waitingSince + s.preemptWait * 200 ≤ s.now) && (match s.headerOf l with
      | .ok h => !s.fits h [] []
      | .error _ => false) with
  | none => s
  | some l =>
    match s.headerOf l with
    | .error _ => s
    | .ok h =>
      let leaving := (s.lists.filter fun x => x.state = .stopping).map fun x => x.id
      let towers := s.lacking h leaving
      let cands := victimOrder (s.lists.filter fun x => x.resumable && decide (x.priority < l.priority) &&
        towers.any fun t => x.home = t || x.power.getD t 0 ≠ 0)
      match s.victims h leaving cands with
      | some ids => ids.foldl (fun s i => s.preempt i) s
      | none => s

/-- Second case: p_hw more than 25% below the committed power for 10 ms (2,000,000 ticks). -/
def State.preemptForTower (s : State) (t : Nat) : State :=
  match (s.therm t).shortSince with
  | none => s
  | some x =>
    if s.now < x + 2000000 then s
    else
      match victimOrder (s.lists.filter fun l => l.home = t && l.resumable) with
      | [] => s
      | l :: _ => (s.preempt l.id).setTherm t { s.therm t with shortSince := some s.now }

/-- POWER_PREEMPTION (R357). -/
def powerPreemption (s : State) : State :=
  if s.alive && s.fired then (List.range 8).foldl (fun s t => s.preemptForTower t) s.preemptForList else s

def execPowerPreemption (s : State) : Host.Outcome State Fault Refusal := .next (powerPreemption s)

/-- Every scrubbed memory. -/
def scrubMems : List ScrubMem := ((List.finRange 12).map ScrubMem.stack) ++ ((List.finRange 64).map ScrubMem.bed)

def scrubLimit (s : State) : ScrubMem → Nat
  | .stack n => s.regF (.memScrubCtl n.val) 0 16
  | .bed k => s.regF (.bedScrubCtl k.val) 0 16

def lastLap (s : State) : ScrubMem → Nat
  | .stack n => (s.reg (.memScrubLap n.val)).toNat
  | .bed k => (s.reg (.bedScrubLap k.val)).toNat

/-- R359: a lap has run for more than half of its limit; once pauses have begun they go on while some last lap exceeded its
limit. -/
def State.scrubBehind (s : State) : Bool :=
  scrubMems.any fun m => !(s.lapUnits m).isEmpty &&
    (decide (scrubLimit s m * 3600 * 100000000 < s.now - (s.lap m).start) ||
      (s.lastPause.isSome && decide (scrubLimit s m * 3600 < lastLap s m)))

/-- STACK_IDLE_PAUSE (R359): once in every second (200,000,000 ticks), for STACK_IDLE × 0.1% of it. -/
def stackIdlePause (s : State) : State :=
  let due := match s.lastPause with
    | some t => decide (t + 200000000 ≤ s.now)
    | none => true
  if !(s.alive && s.fired && s.memTested) || !due then s
  else if !s.scrubBehind then { s with lastPause := none }
  else
    ((s.lists.filter WorkList.resumable).map fun l => l.id).foldl (fun s i => s.preempt i)
      { s with lastPause := some s.now, pauseUntil := s.now + s.stackIdle * 200000 }

def execStackIdlePause (s : State) : Host.Outcome State Fault Refusal := .next (stackIdlePause s)

/-! ### Idle power and bank limits (R354, R358) -/

/-- IDLE_POWER_MEASUREMENT (R354): the tower has run no list for 10 ms (2,000,000 ticks); `mean` is in 0.1 W. -/
def execIdlePowerMeasurement (tower : Fin 8) (mean : BitVec 16) (s : State) : Host.Outcome State Fault Refusal :=
  .next (let h := s.therm tower.val
    if s.alive && s.fired && s.towerLive tower.val && (s.listsOn tower.val).isEmpty && decide (h.noListSince + 2000000 ≤ s.now)
    then s.setTherm tower.val { h with idlePower := mean.toNat } else s)

/-- R358: n_t; `h` and the term of a bank are in units of 0.1 W and 0.001 W. -/
def bankLimit (hw committed beds : Nat) : Nat :=
  if hw ≤ committed || beds = 0 then 32 else min 128 (32 + (hw - committed) * 100 / (147 * beds))

/-- Beds of a tower in compute mode. -/
def State.computeBeds (s : State) (t : Nat) : Nat :=
  ((List.range 8).filter fun i => s.coreEnabled (8 * t + i) && s.regF (.bedMode (8 * t + i)) 0 2 ≠ 0).length

/-- BANK_LIMIT_UPDATE (R358): at most once per 1 ms, 200,000 ticks. -/
def bankLimitUpdate (k : Nat) (s : State) : State :=
  let b := s.bed k
  let mode := s.regF (.bedMode k) 0 2
  if !(s.alive && s.coreEnabled k) || mode = 0 || (b.lastLimit ≠ 0 && s.now < b.lastLimit + 200000) then s
  else
    let n := bankLimit (s.regF (.env (k / 8)) 0 16) (s.committed (k / 8)) (s.computeBeds (k / 8))
    let s1 := s.setBed k { b with lastLimit := s.now }
    if mode = 1 then s1.plainWrite (.bedQuota k) (BitVec.ofNat 64 n)
    else (s1.plainWrite (.bedTiming0 k) 20).plainWrite (.bedTiming1 k) (BitVec.ofNat 64 (n * 125 / 4 * 65536 + 200))

def execBankLimitUpdate (core : Fin 64) (s : State) : Host.Outcome State Fault Refusal := .next (bankLimitUpdate core.val s)

/-! ### POLICY (R305, R360) -/

/-- Table 15-5: the value is in the item's range; none for an item that does not exist. -/
def policyRange (f : Fuses) (item v : Nat) : Option Bool :=
  match item with
  | 1 => some (600 ≤ v && v ≤ f.bin.vmax)
  | 2 => some (v = 0 || (600 ≤ v && v ≤ f.bin.vmax))
  | 3 => some (300 ≤ v && v ≤ f.bin.cap)
  | 4 => some (v = 1 || v = 2)
  | 5 => some (60 ≤ v && v ≤ 86400)
  | 6 => some (100 ≤ v && v ≤ 1000000)
  | 7 => some (1 ≤ v && v ≤ 100)
  | _ => none

/-- Towers of a mask; 0 names every one. -/
def maskTowers (m : Nat) : List Nat := (List.range 8).filter fun t => m = 0 || nbit m t

/-- Put an item in force. -/
def State.setPolicy (s : State) (tenant item v : Nat) (ts : List Nat) : State :=
  match item with
  | 1 => ts.foldl (fun s t => { s with vCeiling := setNum s.vCeiling t v }.govern t) s
  | 2 => ts.foldl (fun s t => { s with vFloor := setNum s.vFloor (floorKey tenant t) v }.govern t) s
  | 3 => { s with pkgCap := v }.recomputeCaps
  | 4 => ts.foldl (fun s t => ((List.range 8).filter fun i => s.coreEnabled (8 * t + i)).foldl (fun s i =>
      s.bedModeWrite (8 * t + i) (BitVec.ofNat 64 v)) { s with bankMode := setNum s.bankMode t v }) s
  | 5 => { s with rthInterval := v }
  | 6 => { s with preemptWait := v }
  | _ => { s with stackIdle := v }

/-- R305: the value in force: a floor above the envelope of a named tower is clamped to it. -/
def State.inForce (s : State) (item v : Nat) (ts : List Nat) : Nat :=
  if item = 2 then ts.foldl (fun a t => min a (s.vEnv t)) v else v

def clampKey (tenant item : Nat) : Nat := tenant * 8 + item

def policyAct (x : Slip) (s : State) : State :=
  let item := x.f 8 2
  let v := x.f 0xC 4
  match policyRange s.fuses item v with
  | none => s.answer x stMalformed []
  | some ok =>
    if item ≠ 2 && x.t ≠ 0 then s.answer x stDenied []
    else if !ok then s.answer x stMalformed []
    else
      let ts := maskTowers (x.f 0xA 1)
      let s1 := s.setPolicy x.t item v ts
      let got := s1.inForce item v ts
      let before := num s1.clamps (clampKey x.t item)
      let s2 := if got < v then
          (let z := { s1 with clamps := setNum s1.clamps (clampKey x.t item) (before + 1) }
           if before = 0 then z else z.notify x.t noticePolicyClamp 0 item (leBytes 4 v ++ leBytes 4 got))
        else s1
      s2.answer x stOk (leBytes 4 got ++ leBytes 4 (num s2.clamps (clampKey x.t item)))

/-- POLICY (R305, R360). -/
def execPolicy (slip : Slip) (s : State) : Host.Outcome State Fault Refusal :=
  .next (s.withSlip slip (fun o => o = 0x09) false [(8, 2), (0xA, 1), (0xC, 4)] (policyAct slip))

end Sys2Proof.Machine
end

