-- ==== Sys2Proof/Machine/Observe.lean ====
section
/-! DEFINITION. Observation: event counters (R417, R418), trace (R420 to R422), hangs and the wait graph (R423 to R425,
R308), core samples (R426), indicators (R440) and the JTAG port (R437). -/

namespace Sys2Proof.Machine

/-! ### Event counters -/

/-- The number of a COUNTERS unit (Table 12-10); none for a unit that does not exist. -/
def counterUnit (f : Fuses) (kind unit : Nat) : Option Nat :=
  match kind with
  | 0 => if unit < 64 then some unit else none
  | 1 => if stackPresent f (unit / 16) then some (unitChan (unit / 16) (unit % 16)) else none
  | 2 => if portPresent f unit then some (unitPort unit) else none
  | 3 => if unit < 32 then some (unitEngine unit) else none
  | _ => none

/-- The die of a unit. -/
def unitDie (u : Nat) : Nat :=
  if u < 64 then u / 8 else if u < 256 then (u - 64) / 16 else if u < 280 then 8 + (u - 256) / 6 else (u - 280) / 4

/-- An operation has started on a core and not finished; `t` restricts it to a tenant. -/
def State.coreRuns (s : State) (k : Nat) (t : Option Nat) : Bool :=
  s.lists.any fun l => decide (l.home = k / 8) && (match t with
      | some t => decide (l.tenant = t)
      | none => true) && l.ops.any fun o =>
    decide (o.stage = .started) && opHasCore o.opcode && decide (o.core = k)

/-- R307: who may read a unit's counters. -/
def State.mayCount (s : State) (t u : Nat) : Bool :=
  decide (t = 0) || (if u < 64 then s.coreRuns u (some t)
    else decide (280 ≤ u) && !(s.engine (u - 280)).jobs.isEmpty && (s.engine (u - 280)).jobs.all fun j => j.tenant = t)

/-- R417: the 128 bytes of a COUNTERS read. -/
def State.counterBytes (s : State) (u : Nat) : List Byte :=
  (List.range 16).flatMap fun n => leBytes 8 (if n < unitCtrs u then s.regF (.ctrVal u n) 0 48 else 0)

/-- Fields of a COUNTERS slip. -/
def countersFields : List (Nat × Nat) := [(8, 1), (9, 1), (0xA, 2), (0xC, 1), (0x10, 4), (0x18, 8)]

def countersReadAct (x : Slip) (hostOk : Bool) (s : State) : State :=
  match (if x.f 8 1 = 0 then counterUnit s.fuses (x.f 9 1) (x.f 0xA 2) else none) with
  | none => s.answer x stMalformed []
  | some u =>
    if !s.mayCount x.t u then s.answer x stDenied []
    else if s.dieLost (unitDie u) then s.answer x stTowerLost []
    else if !hostOk then s.answer x stHostFault []
    else (s.emit (.hostWrite x.t (x.f 0x18 8) (s.counterBytes u) false)).answer x stOk (leBytes 8 s.tb.count)

/-- COUNTERS_READ (R298, R307, R417): a COUNTERS slip whose action is not select. -/
def execCountersRead (slip : Slip) (hostOk : Bool) (s : State) : Host.Outcome State Fault Refusal :=
  .next (if slip.f 8 1 = 1 then s
    else s.withSlip slip (fun o => o = 0x0B) false countersFields (countersReadAct slip hostOk))

/-- R417: a selection and its count from zero. -/
def State.selectCounter (s : State) (u n event : Nat) : State :=
  (s.setF (.ctrSel u n) 0 16 event).setReg (.ctrVal u n) 0

/-- R419: the kind of a unit's events. -/
def unitKind (u : Nat) : Nat := if u < 64 then 0 else if u < 256 then 1 else if u < 280 then 2 else 3

/-- R417: firmware can apply a selection to a unit now. -/
def State.mayApply (s : State) (u : Nat) : Bool :=
  if u < 64 then !s.coreRuns u none else if u < 280 then true else (s.engine (u - 280)).jobs.isEmpty

def countersSelectAct (x : Slip) (u : Nat) (s : State) : State :=
  if !(decide (x.f 0xC 1 < unitCtrs u) && decide (x.f 0x10 4 / 4096 = unitKind u)) then s.answer x stMalformed []
  else if s.dieLost (unitDie u) then s.answer x stTowerLost []
  else (s.selectCounter u (x.f 0xC 1) (x.f 0x10 4)).answer x stOk (leBytes 8 s.tb.count)

/-- A COUNTERS select slip that waits for its unit. -/
def State.selectWaits (s : State) (x : Slip) : Bool :=
  decide (x.t = 0) && (match counterUnit s.fuses (x.f 9 1) (x.f 0xA 2) with
    | some u => !s.mayApply u
    | none => false)

/-- COUNTERS_SELECT (R417): applied and completed once no operation runs on the core, or the engine has no job. -/
def execCountersSelect (slip : Slip) (s : State) : Host.Outcome State Fault Refusal :=
  .next (if slip.f 8 1 ≠ 1 || s.selectWaits slip then s
    else s.withSlip slip (fun o => o = 0x0B) true countersFields fun s =>
      match counterUnit s.fuses (slip.f 9 1) (slip.f 0xA 2) with
      | none => s.answer slip stMalformed []
      | some u => countersSelectAct slip u s)

/-- The number of a unit of CTR_SEL_WRITE. -/
def ctrUnitNo : CtrUnit → Nat
  | .core k => k.val
  | .channel n c => unitChan n.val c.val
  | .port p => unitPort p.val
  | .engine e => unitEngine e.val

/-- A unit whose registers answer. -/
def State.unitAnswers (s : State) (u : Nat) : Bool :=
  (if u < 64 || 280 ≤ u then true
    else if u < 256 then stackPresent s.fuses ((u - 64) / 16)
    else portPresent s.fuses (u - 256)) && !s.dieLost (unitDie u)

/-- CTR_SEL_WRITE (R417): effective at once. -/
def execCtrSelWrite (unit : CtrUnit) (n : Fin 16) (value : Word) (s : State) : Host.Outcome State Fault Refusal :=
  .next (if decide (n.val < unitCtrs (ctrUnitNo unit)) && s.unitAnswers (ctrUnitNo unit)
    then s.selectCounter (ctrUnitNo unit) n.val (value.toNat % 65536) else s)

/-! ### Trace -/

/-- R420: records of a trace ring, and the first byte of the buffer of tower t. -/
def traceRecords : Nat := 2097152

def State.traceBase (s : State) (t : Nat) : Nat := s.segTop + t * 0x4000000

/-- The bytes of a trace record (Table 19-5). -/
def traceBytes (tick kind unit cls tenant a b : Nat) : List Byte :=
  leBytes 8 tick ++ leBytes 2 kind ++ leBytes 1 unit ++ leBytes 1 cls ++ leBytes 2 tenant ++ leBytes 2 0 ++ leBytes 8 a ++
    leBytes 8 b

/-- The drops of a tower since its last loss record: first tick, last tick, number. -/
def State.drops (s : State) (t : Nat) : List Nat := look (fun _ => []) s.traceDrops t

def State.setDrops (s : State) (t : Nat) (l : List Nat) : State :=
  { s with traceDrops := put (fun _ => ([] : List Nat)) s.traceDrops t l }

/-- A record has room in the ring. -/
def State.traceRoom (s : State) (t : Nat) : Bool :=
  decide ((s.regF (.trcWr t) 0 21 + 1) % traceRecords ≠ s.regF (.trcRd t) 0 21)

/-- R421, R422: a record is written at TRC_WR, and TRC_WR advances. -/
def State.traceStore (s : State) (t : Nat) (bs : List Byte) : State :=
  let wr := s.regF (.trcWr t) 0 21
  (s.writeMem (s.traceBase t + 32 * wr) 0xFFFF (0x40 + t) bs).1.setF (.trcWr t) 0 21 ((wr + 1) % traceRecords)

/-- R421: a record is dropped and counted. -/
def State.traceDrop (s : State) (t : Nat) : State :=
  let d := match s.drops t with
    | [a, _, n] => [a, s.tb.count, n + 1]
    | _ => [s.tb.count, s.tb.count, 1]
  (s.countF (.trcDrop t) 0 32 1).setDrops t d

/-- R421: the loss record that goes first once space has returned. -/
def State.traceLoss (s : State) (t : Nat) : State :=
  match s.drops t with
  | [a, z, n] =>
    let s1 := (s.traceStore t (traceBytes z 0xFF00 0xFF 0xFF noTenant n a)).setDrops t []
    { s1 with lossRecords := s1.lossRecords + 1 }
  | _ => s

/-- R421: a tower writes a record, or drops it. -/
def State.traceWrite (s : State) (t : Nat) (bs : List Byte) : State :=
  if !s.traceRoom t then s.traceDrop t
  else
    let s1 := s.traceLoss t
    if s1.traceRoom t then s1.traceStore t bs else s1.traceDrop t

/-- TRACE_RECORD (R421): an event of an enabled class at a tower that is ON. -/
def traceRecord (t : Nat) (r : TraceBody) (s : State) : State :=
  if (s.dom t).state = .on && s.regBit (.trcClass t) r.cls.toNat
  then s.traceWrite t (traceBytes s.tb.count r.kind.toNat r.unit.toNat r.cls.toNat r.tenant.toNat r.a.toNat r.b.toNat)
  else s

def execTraceRecord (tower : Fin 8) (r : TraceBody) (s : State) : Host.Outcome State Fault Refusal :=
  .next (traceRecord tower.val r s)

/-- Fields of a TRACE slip. -/
def traceFields : List (Nat × Nat) := [(8, 1), (9, 1), (0x10, 8)]

/-- The towers of a TRACE slip that have a buffer: named and ON. -/
def State.traceTowers (s : State) (x : Slip) : List Nat :=
  (List.range 8).filter fun t => nbit (x.f 9 1) t && decide ((s.dom t).state = .on)

/-- R420: the segment over every buffer. -/
def State.traceSeg (s : State) : Seg := ⟨s.segTop, 0x20000000, .priv, false, rRead, 0, 0, 0xFFFFFFFF⟩

def traceStartAct (x : Slip) (s : State) : State :=
  let other := match s.seg? 0 15 with
    | some g => decide (g ≠ s.traceSeg)
    | none => false
  if 1024 ≤ x.f 0x10 8 then s.answer x stMalformed []
  else if other then s.answer x stBadSlot []
  else
    let s1 := { (s.traceTowers x).foldl (fun s t =>
      ((((s.setReg (.trcWr t) 0).setReg (.trcRd t) 0).setReg (.trcDrop t) 0).setReg (.trcClass t)
        (BitVec.ofNat 64 (x.f 0x10 8))).setDrops t []) (s.setSeg 0 15 s.traceSeg) with lossRecords := 0 }
    s1.answer x stOk (leBytes 8 s1.lossRecords)

/-- TRACE_START (R420, R421). -/
def execTraceStart (slip : Slip) (s : State) : Host.Outcome State Fault Refusal :=
  .next (if slip.f 8 1 ≠ 1 then s else s.withSlip slip (fun o => o = 0x0C) true traceFields (traceStartAct slip))

def traceStopAct (x : Slip) (s : State) : State :=
  if x.f 8 1 ≠ 0 || 1024 ≤ x.f 0x10 8 then s.answer x stMalformed []
  else
    let s1 := (s.traceTowers x).foldl (fun s t => s.setReg (.trcClass t) 0) s
    s1.answer x stOk (leBytes 8 s1.lossRecords)

/-- TRACE_STOP (R421): a TRACE slip whose action is neither start nor flush. -/
def execTraceStop (slip : Slip) (s : State) : Host.Outcome State Fault Refusal :=
  .next (if slip.f 8 1 = 1 || slip.f 8 1 = 2 then s
    else s.withSlip slip (fun o => o = 0x0C) true traceFields (traceStopAct slip))

/-- A flush record of a tower. Its a and b have no stated content: free values. -/
def State.traceFlush (s : State) (t : Nat) : State :=
  s.bumpFree.traceWrite t (traceBytes s.tb.count 0xFF01 0xFF 0xFF noTenant (s.freeNat 64) (s.freeNat 64))

def traceFlushAct (x : Slip) (s : State) : State :=
  if 1024 ≤ x.f 0x10 8 then s.answer x stMalformed []
  else
    let s1 := (s.traceTowers x).foldl (fun s t => s.traceFlush t) s
    s1.answer x stOk (leBytes 8 s1.lossRecords)

/-- TRACE_FLUSH (R421): memory accepts records as they are written, so the slip completes at once. -/
def execTraceFlush (slip : Slip) (s : State) : Host.Outcome State Fault Refusal :=
  .next (if slip.f 8 1 ≠ 2 then s else s.withSlip slip (fun o => o = 0x0C) true traceFields (traceFlushAct slip))

/-! ### The wait graph (R271, R423 to R425) -/

/-- Device address of a semaphore that an operation of a tenant names. -/
def State.semAddr (s : State) (t ref : Nat) : Option Nat :=
  match s.resolve t ref (plain 8) (rRead + rWrite) with
  | some (.dev a _) => some a
  | _ => none

/-- The WAIT that a list stands at. -/
def WorkList.waitsAt (l : WorkList) : Option Op := l.ops.find? fun o => o.opcode = 0x12 && o.stage = .started

/-- Semaphore references of the local SIGNALs in units not yet issued. -/
def signalsIn (m : Memory) (a : Nat) : Nat → Nat → List Nat
  | 0, _ => []
  | fuel + 1, left =>
    let c := rdLe m a 1
    let n := opUnits c
    if left = 0 || n = 0 then []
    else (if c = 0x11 && rdLe m (a + 0x18) 1 % 2 = 0 then [rdLe m (a + 8) 8] else []) ++
      signalsIn m (a + 32 * n) fuel (left - n)

/-- Addresses of the semaphores that a list will still signal. -/
def State.signals (s : State) (l : WorkList) : List Nat :=
  let units := if l.everAdmitted then l.units else (match s.headerOf l with
    | .ok h => h.units
    | .error _ => 0)
  let coming := if l.failed.isSome || l.stopStatus.isSome then [] else (match s.listAddr l l.next with
    | some a => signalsIn s.mem a units (units - l.next)
    | none => [])
  let issued := (l.ops.filter fun o => decide (o.opcode = 0x11) && decide (o.stage ≠ .finished) && !nbit (o.f 0x18 1) 0).map
    fun o => o.f 8 8
  (issued ++ coming).filterMap fun r => s.semAddr l.tenant r

/-- A node (Table 19-8). -/
structure WaitNode where
  kind : Nat
  tenant : Nat
  id : Nat
  a : Nat
  b : Nat
  c : Nat
deriving DecidableEq, Repr

/-- The graph: nodes, edges as from, to and reason, and the lists with the index of their List node. -/
structure WaitGraph where
  nodes : List WaitNode := []
  edges : List (Nat × Nat × Nat) := []
  lists : List (WorkList × Nat) := []
deriving DecidableEq, Repr

/-- The operation a list is blocked at: the one that holds issue, else the earliest in flight, else the next one. -/
def WorkList.blockedAt (l : WorkList) : Nat :=
  match l.ops.find? fun o => o.pauses && decide (o.stage ≠ .finished) with
  | some o => o.offset
  | none => (l.ops.head?.map fun o => o.offset).getD l.next

/-- The Admission node of a list that waits. -/
def State.admissionNode (s : State) (l : WorkList) : WaitNode :=
  match s.headerOf l with
  | .ok h => ⟨6, l.tenant, l.tag, ((s.lacking h []).map fun t => 2 ^ t).sum, h.power.sum, l.waitingSince⟩
  | .error _ => ⟨6, l.tenant, l.tag, 0, 0, l.waitingSince⟩

/-- Index of the semaphore node of an address. -/
def WaitGraph.sem (g : WaitGraph) (a : Nat) : Option Nat :=
  (List.range g.nodes.length).find? fun i => match g.nodes[i]? with
    | some n => decide (n.kind = 3) && decide (n.a = a)
    | none => false

/-- A node at the end. -/
def WaitGraph.node (g : WaitGraph) (n : WaitNode) : WaitGraph := { g with nodes := g.nodes ++ [n] }

def WaitGraph.edge (g : WaitGraph) (a b reason : Nat) : WaitGraph := { g with edges := g.edges ++ [(a, b, reason)] }

/-- Nodes and first edges of one list. -/
def WaitGraph.addList (s : State) (g : WaitGraph) (l : WorkList) : WaitGraph :=
  let i := g.nodes.length
  let g1 := { g.node ⟨1, l.tenant, l.tag, l.blockedAt, l.admitted, l.home⟩ with lists := g.lists ++ [(l, i)] }
  if !l.placed then (g1.node (s.admissionNode l)).edge i (i + 1) 6
  else
    match l.waitsAt with
    | none => g1
    | some o =>
      let g2 := (g1.node ⟨2, l.tenant, l.tag, o.offset, o.f 8 8, o.f 0x10 8⟩).edge i (i + 1) 1
      match s.semAddr l.tenant (o.f 8 8) with
      | none => g2
      | some a =>
        match g2.sem a with
        | some j => g2.edge (i + 1) j 2
        | none => (g2.node ⟨3, l.tenant, 0, a, rdLe s.mem a 8, 0⟩).edge (i + 1) (i + 2) 2

/-- Edges of reason 3 from every semaphore node, and all edges in order of reason (log entry 74). -/
def WaitGraph.close (s : State) (g : WaitGraph) : WaitGraph :=
  let sems := (List.range g.nodes.length).filterMap fun i => match g.nodes[i]? with
    | some n => if n.kind = 3 then some (i, n.a) else none
    | none => none
  let more := sems.flatMap fun x => (g.lists.filter fun l => (s.signals l.1).contains x.2).map fun l => (x.1, l.2, 3)
  let all := g.edges ++ more
  { g with edges := [1, 2, 3, 6].flatMap fun r => all.filter fun e => e.2.2 = r }

/-- R425: the wait-for graph over the lists of one tenant, or of all. -/
def State.waitGraph (s : State) (t : Option Nat) : WaitGraph :=
  let ls := sortBy (fun (l : WorkList) => l.id) (s.lists.filter fun l => match t with
    | some t => decide (l.tenant = t)
    | none => true)
  (ls.foldl (fun (g : WaitGraph) l => g.addList s l) {}).close s

/-- A path of edges back to `goal` from node `x`, through nodes not on the path. -/
def WaitGraph.path (g : WaitGraph) (goal : Nat) : Nat → List Nat → Nat → Option (List Nat)
  | 0, _, _ => none
  | fuel + 1, seen, x =>
    if (g.edges.any fun e => decide (e.1 = x) && decide (e.2.1 = goal)) then some [x]
    else
      ((g.edges.filter fun e => decide (e.1 = x) && !(x :: seen).contains e.2.1).findSome? fun e =>
        g.path goal fuel (x :: seen) e.2.1).map fun p => x :: p

/-- The first cycle, from its lowest node. -/
def WaitGraph.cycle (g : WaitGraph) : Option (List Nat) :=
  (List.range g.nodes.length).findSome? fun i => g.path i g.nodes.length [] i

/-- R271: the youngest WAIT of a cycle, the one issued last: its list and operation. -/
def WaitGraph.youngest (g : WaitGraph) (c : List Nat) : Option (WorkList × Op) :=
  (g.lists.filter fun l => c.contains l.2).foldl (fun best l => match l.1.waitsAt, best with
    | some o, none => some (l.1, o)
    | some o, some b => if b.2.order < o.order then some (l.1, o) else best
    | none, _ => best) none

/-- The graph once a WAIT has ended. -/
def WaitGraph.cut (g : WaitGraph) (l : WorkList) : WaitGraph :=
  match g.lists.find? fun x => x.1.id = l.id with
  | some x => { g with edges := g.edges.filter fun e => !(decide (e.1 = x.2) && decide (e.2.2 = 1)) }
  | none => g

/-- The cycles of a walk, each with the WAIT that ends it. -/
def WaitGraph.cycles (g : WaitGraph) : Nat → List (List Nat × WorkList × Op)
  | 0 => []
  | fuel + 1 =>
    match g.cycle with
    | none => []
    | some c =>
      match g.youngest c with
      | none => []
      | some (l, o) => (c, l, o) :: (g.cut l).cycles fuel

def WaitGraph.found (g : WaitGraph) : List (List Nat × WorkList × Op) := g.cycles g.lists.length

/-- R271, R423: end the youngest WAIT of every cycle found, with entry 0x0090. -/
def State.breakCycles (s : State) (cs : List (List Nat × WorkList × Op)) : State :=
  cs.foldl (fun s c => (s.finishOp c.2.1.id c.2.2.offset osDeadlock 0).log 0x0090 2 c.2.1.home (0x40 + c.2.1.home) c.2.1.tenant
    c.2.1.tag c.2.2.offset) s

/-- Table 19-8 and 19-9: a node and an edge as bytes. -/
def WaitNode.bytes (n : WaitNode) (inCycle : Bool) : List Byte :=
  leBytes 1 n.kind ++ leBytes 1 (b2n inCycle) ++ leBytes 2 n.tenant ++ leBytes 4 n.id ++ leBytes 8 n.a ++ leBytes 8 n.b ++
    leBytes 8 n.c

def edgeBytes (e : Nat × Nat × Nat) : List Byte := leBytes 2 e.1 ++ leBytes 2 e.2.1 ++ leBytes 4 e.2.2

/-- R425: a cycle record. -/
def cycleBytes (c : List Nat) : List Byte :=
  let bs := leBytes 2 c.length ++ leBytes 2 0 ++ c.flatMap fun i => leBytes 2 i
  bs ++ List.replicate ((4 - bs.length % 4) % 4) 0

/-- R425: the graph in host memory. -/
def WaitGraph.bytes (g : WaitGraph) (cs : List (List Nat)) (tick size : Nat) : List Byte :=
  let tail := ((List.range g.nodes.length).flatMap fun i => match g.nodes[i]? with
      | some n => n.bytes (cs.any fun c => c.contains i)
      | none => []) ++ g.edges.flatMap edgeBytes ++ cs.flatMap cycleBytes
  leBytes 4 0x47524657 ++ leBytes 2 1 ++ leBytes 2 g.nodes.length ++ leBytes 2 g.edges.length ++ leBytes 1 cs.length ++
    leBytes 1 (b2n (size < 32 + tail.length)) ++ leBytes 4 0 ++ leBytes 8 tick ++ leBytes 8 0 ++ tail

def waitgraphAct (x : Slip) (hostOk : Bool) (s : State) : State :=
  let size := x.f 0x10 4
  if size < 4096 then s.answer x stMalformed []
  else
    let g := s.waitGraph (if x.t = 0 then none else some x.t)
    let cs := g.found
    let bs := (g.bytes (cs.map fun c => c.1) s.tb.count size).take size
    let s1 := s.breakCycles cs
    if !hostOk then s1.answer x stHostFault []
    else (s1.emit (.hostWrite x.t (x.f 8 8) bs false)).answer x stOk
      (leBytes 4 bs.length ++ leBytes 2 g.nodes.length ++ leBytes 2 g.edges.length ++ leBytes 1 cs.length)

/-- WAITGRAPH (R308, R425). -/
def execWaitgraph (slip : Slip) (hostOk : Bool) (s : State) : Host.Outcome State Fault Refusal :=
  .next (s.withSlip slip (fun o => o = 0x0E) false [(8, 8), (0x10, 4)] (waitgraphAct slip hostOk))

/-- The oldest admitted list of a tenant. -/
def State.oldestOf (s : State) (t : Nat) : Option WorkList :=
  match s.lists.filter fun l => decide (l.tenant = t) && l.placed with
  | [] => none
  | l :: ls => some (ls.foldl (fun a b => if b.admitOrder < a.admitOrder then b else a) l)

/-- TENANT_WATCHDOG (R423): 1 s (200,000,000 ticks) without progress. -/
def tenantWatchdog (t : Nat) (s : State) : State :=
  match s.oldestOf t with
  | none => s
  | some l =>
    if !s.alive || s.now < num s.progress t + 200000000 then s
    else
      let s1 := ({ s with progress := setNum s.progress t s.now,
                          watchdogs := setNum s.watchdogs t (num s.watchdogs t + 1) } : State).raise (srcTower l.home 6)
      s1.breakCycles (s1.waitGraph none).found

def execTenantWatchdog (tenant : BitVec 10) (s : State) : Host.Outcome State Fault Refusal :=
  .next (tenantWatchdog tenant.toNat s)

/-- WATCHDOG_WAIT_END (R424): after ten periods in a row. -/
def watchdogWaitEnd (t : Nat) (s : State) : State :=
  if !s.alive || num s.watchdogs t < 10 then s
  else
    let waits := (s.lists.filter fun l => l.tenant = t).flatMap fun l =>
      (l.ops.filter fun o => decide (o.opcode = 0x12) && decide (o.stage = .started) && decide (o.f 0x18 4 = 0)).map
        fun o => (l, o)
    waits.foldl (fun s w => (s.finishOp w.1.id w.2.offset osWaitTimeout 0).log 0x0091 2 w.1.home (0x40 + w.1.home) t
      w.1.tag w.2.offset) { s with watchdogs := setNum s.watchdogs t 0 }

def execWatchdogWaitEnd (tenant : BitVec 10) (s : State) : Host.Outcome State Fault Refusal :=
  .next (watchdogWaitEnd tenant.toNat s)

/-! ### Core samples (R426) -/

/-- CORE_SAMPLE (R426): CS_CTL.go. Firmware stops taking slips and admitting lists, and stops every sequencer and engine. A
request while one runs, or with no complex to answer, does nothing. -/
def coreSample (s : State) : State :=
  if !s.served || s.regBit .csStat 31 then s
  else if s.regF .csLen 0 32 < 0x1000000 then s.setBit .csStat 29
  else { s.setBit .csStat 31 with sampling := true }

def execCoreSample (s : State) : Host.Outcome State Fault Refusal := .next (coreSample s)

/-- CORE_SAMPLE_COMPLETE (R426, R427): `ok` tells whether every host write was accepted. -/
def coreSampleComplete (ok : Bool) (size : Nat) (s : State) : State :=
  if !(s.regBit .csStat 31 && s.served) then s
  else
    let s1 := { s.clrBit .csStat 31 with sampling := false }
    if !ok then s1.setBit .csStat 29
    else ((s1.setBit .csStat 30).setF .csStat 0 29 size).emit
      (.coreSample (s.reg .csAddr).toNat size s.fwBuild s.fpGen s.tb.count)

def execCoreSampleComplete (ok : Bool) (size : BitVec 29) (s : State) : Host.Outcome State Fault Refusal :=
  .next (coreSampleComplete ok size.toNat s)

/-! ### Indicators (R439, R440) -/

/-- What a driver does: nothing, pulses too short to check, or on-times of 20 µs or more at a spacing in ticks. -/
inductive Lamp where
  | off
  | short
  | long (spacing : Nat)
deriving DecidableEq, Repr

/-- Table 20-3a: the period in ticks. -/
def lampPeriod (code : Nat) : Nat :=
  match code with
  | 0 => 800000
  | 1 => 400000
  | 2 => 200000
  | _ => 100000

/-- R439: each driver follows fault_mode in FAILED and hardpan, its own settings while the part runs, and is off otherwise. -/
def State.lamp (s : State) (n : Nat) : Lamp :=
  let period := lampPeriod (s.regF (.indCtl n) 27 2)
  if s.inHardpan || (s.running && decide (s.bootState = stFailed)) then
    match s.regF (.indCtl n) 29 2 with
    | 1 => .long 4000
    | 2 => .long 200000000
    | _ => .off
  else if !s.running || !s.regBit (.indCtl n) 31 then .off
  else if period * s.regF (.indCtl n) 0 9 < 4000 * 256 then .short
  else .long period

/-- IND_STAT as read: test_pulse tells whether test pulses are inserted. -/
def State.indStatNow (s : State) (n : Nat) : DWord := putF (s.reg (.indStat n)) 29 1 (b2n (decide (s.lamp n = .short)))

/-- R440: a check is due: in the test pulse of this second (200,000,000 counts), 20 µs (4000 counts) after its start and
once; or once for each on-time of a driver whose on-times suffice. lampCheck holds one more than the second last checked, or
than the instant. -/
def State.lampDue (s : State) (n : Nat) : Bool :=
  match s.lamp n with
  | .off => false
  | .short => decide (4000 ≤ s.tb.count % 200000000) && decide (num s.lampCheck n ≠ s.tb.count / 200000000 + 1)
  | .long gap => decide (num s.lampCheck n + gap ≤ s.now + 1)

/-- INDICATOR_TEST_PULSE (R440): `lampOpen` tells whether the current stayed below 8 mA for the 20 µs. -/
def indicatorCheck (n : Nat) (lampOpen : Bool) (s : State) : State :=
  if !s.lampDue n then s
  else
    let mark := if s.lamp n = .short then s.tb.count / 200000000 + 1 else s.now + 1
    let s1 := { s with lampCheck := setNum s.lampCheck n mark }
    if lampOpen then ((s1.setBit (.indStat n) 31).setBit (.indStat n) 30).countF (.indStat n) 0 16 1
    else s1.clrBit (.indStat n) 31

def execIndicatorTestPulse (lamp : Fin 4) (lampOpen : Bool) (s : State) : Host.Outcome State Fault Refusal :=
  .next (indicatorCheck lamp.val lampOpen s)

/-- A write of IND_CTL: a driver that starts to need test pulses has its first one at the next second. -/
def State.indCtlWrite (s : State) (n : Nat) (v : DWord) : State :=
  let s1 := s.plainWrite (.indCtl n) v
  if s1.lamp n = .short && s.lamp n ≠ .short && s.tb.count % 200000000 ≠ 0
  then { s1 with lampCheck := setNum s1.lampCheck n (s.tb.count / 200000000 + 1) } else s1

/-! ### JTAG (R437) -/

/-- The test port answers: it is ignored in reset and in hardpan (Table 20-2). -/
def State.jtagUp (s : State) : Bool := s.running

/-- BYPASS, and every instruction that is not supported: TDO follows TDI. -/
def execBypass (tdi : Bool) (s : State) : Host.Outcome State Fault Refusal :=
  .next (if s.jtagUp then s.emit (.jtag (b2n tdi)) else s)

/-- IDCODE. -/
def execIdcode (s : State) : Host.Outcome State Fault Refusal :=
  .next (if s.jtagUp then s.emit (.jtag 0x10880A47) else s)

/-- SAMPLE/PRELOAD: what the chain shows of the pins is a free value; the part does not change. -/
def execSamplePreload (s : State) : Host.Outcome State Fault Refusal :=
  .next (if s.jtagUp then (s.emit (.jtag (s.freeNat 64))).bumpFree else s)

end Sys2Proof.Machine
end

