-- ==== Sys2Proof/Machine/Access.lean ====
section
/-! DEFINITION. Register accesses (R8 to R11, R21 to R23): what every register reads as, what a write of it does, and the
pages that a host reaches: the boot window, the log and floor-plan windows, the register aperture, and mailbox pages. -/

namespace Sys2Proof.Machine

/-! ### What a register reads as -/

/-- A flag of every source of an interrupt register n as its bit. -/
def IC.bits (c : IC) (n : Nat) (f : Src → Bool) : Nat := ((List.range 32).map fun i => b2n (f (c.src (32 * n + i))) * 2 ^ i).sum

/-- IC_RUN of a target. -/
def IC.runWord (c : IC) (t : Nat) : Nat :=
  match c.stack t with
  | [] => 0xFF
  | x :: xs => (xs.length + 1) * 256 + x.group

/-- Table 3-7: what the array holds and does. -/
def State.mxstatNow (s : State) (k : Nat) : DWord :=
  let c := s.coreUnit k
  let works (w : WSet) : Bool := c.arrayQ.contains (w.list, w.op)
  let ready := ((List.range 4).map fun q => b2n (c.shadow.any fun w => w.1 = q) * 2 ^ q).sum
  let busy := ((List.range 4).map fun q => b2n (c.active.any fun w => w.1 = q && works w.2) * 2 ^ q).sum
  let whole := match c.whole with
    | some w => works w
    | none => false
  putF (putF (putF (s.reg (.mxstat k)) 20 4 ready) 16 4 busy) 15 1 (b2n whole)

/-- Table 4-8: busy is set while a job of the chain is under way. -/
def State.vcstatNow (s : State) (k : Nat) : DWord :=
  let busy := (s.coreUnit k).chainQ.any fun j => decide (0 < j.row) || decide (0 < j.beat)
  putF (s.reg (.vcstat k)) 31 1 (b2n busy)

/-- Table 14-7: VREG_STAT with the domain's state and its dropped phases. -/
def State.vregStatNow (s : State) (d : Nat) : DWord :=
  putF (putF (s.reg (.vregStat d)) 29 3 (s.dom d).state.code) 20 4 (min 15 (s.phasesLost d))

/-- Table 13-1: a word of the segment entry at index i of the table. -/
def State.segWordNow (s : State) (i w : Nat) : DWord :=
  match s.seg? (i / 16) (i % 16) with
  | some g => BitVec.ofNat 64 (fieldAt g.toBytes (4 * w) 4)
  | none => 0

/-- Table 13-4. -/
def State.leaseNow (s : State) (n : Nat) : DWord :=
  let l := s.leaseAt n
  BitVec.ofNat 64 (b2n l.held * 2 ^ 63 + l.owner % 4096 * 2 ^ 44 + l.epoch % 2 ^ 32)

/-- One copy of the fault log. -/
def State.flog (s : State) (x : Nat) : Flog := if x = 0 then s.flog0 else s.flog1

/-- The value a register reads as. A read of IC_ACK also claims: `wordRead`. -/
def State.regNow (s : State) (r : Reg) : DWord :=
  match r with
  | .mxstat k => s.mxstatNow k
  | .vcstat k => s.vcstatNow k
  | .bedMode k => putF (s.reg r) 8 1 (b2n (s.bed k).oldMode.isSome)
  | .bedStatus k => s.bedStatusNow k
  | .bedBusymap k i => s.busymapNow k i
  | .bedScrubCur k => if h : k < 64 then s.scrubCurNow (.bed ⟨k, h⟩) else 0
  | .memScrubCur n => if h : n < 12 then s.scrubCurNow (.stack ⟨n, h⟩) else 0
  | .vregStat d => s.vregStatNow d
  | .icCfg => BitVec.ofNat 64 s.ic.split
  | .icLost => BitVec.ofNat 64 s.ic.lost
  | .icTgtSet | .icTgtClr => BitVec.ofNat 64 s.ic.tgtEn
  | .icPendSet n | .icPendClr n => BitVec.ofNat 64 (s.ic.bits n fun x => x.mode = .pending)
  | .icMaskSet n | .icMaskClr n => BitVec.ofNat 64 (s.ic.bits n fun x => x.masked)
  | .icActive n => BitVec.ofNat 64 (s.ic.bits n fun x => match x.mode with
      | .active _ => true
      | _ => false)
  | .icPrio n => BitVec.ofNat 64 ((s.ic.src n).targets * 256 + (s.ic.src n).prio)
  | .icRun t => BitVec.ofNat 64 (s.ic.runWord t)
  | .icAck _ | .icEoi _ => 0
  | .tbCount => BitVec.ofNat 64 s.tb.count
  | .tbPreset => BitVec.ofNat 64 s.tb.preset
  | .tbCtl => BitVec.ofNat 64 (b2n s.tb.armed * 2 ^ 31)
  | .tbStat => BitVec.ofNat 64 s.tb.stat
  | .tbLastload => BitVec.ofNat 64 s.tb.lastLoad
  | .lease n => s.leaseNow n
  | .segWord i w => s.segWordNow i w
  | .teStat e => BitVec.ofNat 64 (s.teStat e)
  | .flogSeq x => BitVec.ofNat 64 (s.flog x).seq
  | .flogStat x => BitVec.ofNat 64 (s.flog x).stat
  | .indStat n => s.indStatNow n
  | _ => s.reg r

/-- R21: the register that answers at an offset: none in the block of an absent die. -/
def State.regHere (s : State) (o : Nat) : Option Reg := if diePresent s.fuses (o / 0x400000) then regAt o else none

/-- The register that holds the 4 bytes at a word-aligned offset, and where in it they lie. -/
def State.regCover (s : State) (o : Nat) : Option (Reg × Nat) :=
  match s.regHere o with
  | some r => some (r, 0)
  | none =>
    if o < 4 then none
    else
      match s.regHere (o - 4) with
      | some r => if r.wide then some (r, 4) else none
      | none => none

/-- One aligned word as read; IC_ACK claims the offered source (R371). -/
def State.wordRead (s : State) (o : Nat) : State × List Byte :=
  match s.regCover o with
  | some (.icAck t, _) => (icAckStep t s, leBytes 4 (s.ic.ack t).2)
  | some (r, p) => (s, leBytes 4 ((s.regNow r).toNat / 2 ^ (8 * p)))
  | none => (s, leBytes 4 0)

/-- The words from an offset upward. -/
def State.wordsRead (s : State) (o : Nat) : Nat → State × List Byte
  | 0 => (s, [])
  | fuel + 1 =>
    let r := s.wordRead o
    let q := r.1.wordsRead (o + 4) fuel
    (q.1, r.2 ++ q.2)

/-- R11: an access naturally aligned to its own size. -/
def aligned (o n : Nat) : Bool := decide (0 < n) && decide (o % n = 0)

/-- R11: a read of the register region: one that is not naturally aligned returns zeros and is logged with kind 2. -/
def State.regsRead (s : State) (o n node tenant addr : Nat) : State × List Byte :=
  if !aligned o n then (s.accessError 2 node tenant addr, List.replicate n 0)
  else
    let r := s.wordsRead (o / 4 * 4) ((n + 3) / 4)
    (r.1, (r.2.drop (o % 4)).take n)

/-! ### What a write does -/

/-- The interrupt controller's side of a write. -/
def IC.written (c : IC) (r : Reg) (w : Nat) : IC :=
  match r with
  | .icCfg => { c with split := w % 8 }.reoffer
  | .icTgtSet => c.enable w
  | .icTgtClr => c.disable w
  | .icPendSet n => c.each n w Src.pend
  | .icPendClr n => c.each n w Src.unpend
  | .icMaskSet n => c.each n w fun x => { x with masked := true }
  | .icMaskClr n => c.each n w fun x => { x with masked := false }
  | .icPrio n => (c.setSrc n { c.src n with prio := w % 256, targets := w / 256 % 256 }).reoffer
  | _ => c

/-- TB_CTL (Table 17-6): arm, then disarm. -/
def Timebase.control (t : Timebase) (w : Nat) : Timebase := { t with armed := (t.armed || nbit w 31) && !nbit w 30 }

/-- A write of FLOG_STAT: ue is W1C. -/
def State.flogStatWrite (s : State) (x w : Nat) : State :=
  if !nbit w 29 then s
  else if x = 0 then { s with flog0 := { s.flog0 with ue := false } } else { s with flog1 := { s.flog1 with ue := false } }

/-- The effect of a write of a register: its own bits, and what its chapter says the write does. `standby` tells that the
standby complex writes it. -/
def State.regWrite (s : State) (r : Reg) (v : DWord) (standby : Bool) : State :=
  match r with
  | .qsctl k n => s.qsctlWrite k n v
  | .qsstat k => s.qsstatWrite k v
  | .bedMode k => s.bedModeWrite k v
  | .bedCtl k => s.bedCtlWrite k v
  | .voyGctl g => gctlWrite g v.toNat s
  | .spnCtl p => spnCtlWrite p v.toNat s
  | .vregCtl d => s.vregWrite d v.toNat
  | .icCfg | .icTgtSet | .icTgtClr | .icPendSet _ | .icPendClr _ | .icMaskSet _ | .icMaskClr _ | .icPrio _ =>
    { s with ic := s.ic.written r v.toNat }
  | .icEoi t => icEoiStep t (v.toNat % 2048) s
  | .tbPreset => { s with tb := { s.tb with preset := v.toNat } }
  | .tbCtl => { s with tb := s.tb.control v.toNat }
  | .tbStat => { s with tb := s.tb.clearStat v.toNat }
  | .lseRevoke => lseRevokeWrite (v.toNat % 4096) standby s
  | .flogStat x => s.flogStatWrite x v.toNat
  | .flogCtl x => if nbit v.toNat 31 then flogClear x s else s
  | .csCtl => if nbit v.toNat 31 then coreSample s else s
  | .ctrSel u n => s.selectCounter u n (v.toNat % 65536)
  | .indCtl n => s.indCtlWrite n v
  | _ => s.plainWrite r v

/-- R11: apply an aligned write to each register it covers, in ascending order; a part of a register is refused with kind 2,
and bytes that fall on no register are ignored (R21). `fuel` counts words. -/
def State.wordsWrite (s : State) (o : Nat) (bs : List Byte) (node tenant addr : Nat) (standby : Bool) : Nat → State
  | 0 => s
  | fuel + 1 =>
    if bs.length < 4 then s
    else
      match s.regCover o with
      | some (r, p) =>
        if p = 0 && r.bytes ≤ bs.length then
          (s.regWrite r (BitVec.ofNat 64 (fieldAt bs 0 r.bytes)) standby).wordsWrite (o + r.bytes) (bs.drop r.bytes) node tenant
            (addr + r.bytes) standby fuel
        else (s.accessError 2 node tenant addr).wordsWrite (o + 4) (bs.drop 4) node tenant (addr + 4) standby fuel
      | none => s.wordsWrite (o + 4) (bs.drop 4) node tenant (addr + 4) standby fuel

/-- R11: a write of the register region. -/
def State.regsWrite (s : State) (o : Nat) (bs : List Byte) (node tenant addr : Nat) (standby : Bool) : State :=
  if !aligned o bs.length then s.accessError 2 node tenant addr
  else if bs.length < 4 then (if (s.regCover (o / 4 * 4)).isSome then s.accessError 2 node tenant addr else s)
  else s.wordsWrite o bs node tenant addr standby (bs.length / 4 + 1)

/-! ### Reaching a block -/

/-- The node at which a block of the register region answers. -/
def blockNode (o : Nat) : Nat := if o / 0x400000 < 8 then 0x40 + o / 0x400000 else 0x70 + (o / 0x400000 - 8)

/-- The regulator registers of a die stand outside the die's own logic, so they answer while it is off or lost. -/
def regulatorReg (o : Nat) : Bool := 0x800 ≤ o % 0x400000 && o % 0x400000 < 0x814

/-- R225: a block that a die cannot reach: its own die is lost, or the route meets a lost die. -/
def State.cutOff (s : State) (die o : Nat) : Bool :=
  diePresent s.fuses (o / 0x400000) && !regulatorReg o && !(s.route (blockNode o) 12 die).2

/-- R228: the gateway whose guest window holds an offset of the register region. -/
def windowGuest (o : Nat) : Option Nat :=
  if 0x380000 ≤ o % 0x400000 then (if o / 0x400000 = 8 then some 0 else if o / 0x400000 = 11 then some 1 else none) else none

/-- R225: a message to a lost node is discarded at a crossbar. -/
def State.discardAt (s : State) (die reason tenant addr : Nat) : State :=
  let s1 := ((s.countF (.fabDiscard die) 0 32 1).setBit (.fabStat die) 0).log 0x0042 2 die (domNode die) tenant reason addr
  if die < 8 then s1.raise (srcTower die 4) else s1

/-- First byte of the register region. -/
def regBase : Nat := 0x3F0000000000
def regSize : Nat := 0x3000000

/-! ### The boot window (R388, R406) -/

/-- A read of the boot window. -/
def State.bootBytes (s : State) (o n : Nat) : List Byte :=
  (((List.range ((n + 3) / 4)).flatMap fun i => leBytes 4 (s.bootRead (o / 4 * 4 + 4 * i))).drop (o % 4)).take n

def isWideBoot (o : Nat) : Bool := o = BW.arg0 || o = BW.arg1

/-- An aligned write of the boot window, register by register. -/
def State.bootWords (s : State) (o : Nat) (bs : List Byte) : Nat → State
  | 0 => s
  | fuel + 1 =>
    if bs.length < 4 then s
    else if isWideBoot o && 8 ≤ bs.length then
      ((s.bootWrite o (fieldAt bs 0 4)).bootWrite (o + 4) (fieldAt bs 4 4)).bootWords (o + 8) (bs.drop 8) fuel
    else
      (if isWideBoot (o / 8 * 8) then s.accessError 2 0x70 noTenant o else s.bootWrite o (fieldAt bs 0 4)).bootWords
        (o + 4) (bs.drop 4) fuel

/-- Offsets of the boot window that hold a register (R406). -/
def isBootReg (o : Nat) : Bool := o < 0x30 || isKb o

def State.bootWriteBytes (s : State) (o : Nat) (bs : List Byte) : State :=
  if !aligned o bs.length then s.accessError 2 0x70 noTenant o
  else if bs.length < 4 then (if isBootReg (o / 4 * 4) then s.accessError 2 0x70 noTenant o else s)
  else s.bootWords o bs (bs.length / 4 + 1)

/-! ### BAR0 (R23, Table 1-4) -/

/-- The hub through which the host reaches the fabric. -/
def State.hostNode (s : State) : Nat := 0x70 + (s.primaryDie - 8)

/-- A message of the host toward a guest's window. -/
def State.guestAsk (s : State) (g cls op o : Nat) (bs : List Byte) (n : Nat) : State :=
  let len := if n ≤ 64 then 1 else if n ≤ 128 then 2 else 3
  let q := if cls = 2 then s.request s.hostNode (regBase + o) 0 none else (s, 0)
  let m : Msg := q.1.mkMsg s.pkgId s.hostNode cls op 0 q.2 len (regBase + o) bs
  q.1.toGuest g { m with count := BitVec.ofNat 6 (if n ≤ 64 then n - 1 else 0x3F) }

/-- A host read of the register aperture. Registers of a lost die answer the host with bytes that the manual does not
state: a free value. -/
def State.apertureRead (s : State) (o n : Nat) : State :=
  match windowGuest o with
  | some g => if s.guestUp g then s.guestAsk g 2 0 o [] n else s.emit (.hostRead (List.replicate n 0))
  | none =>
    if s.cutOff s.primaryDie o then (s.emit (.hostRead (leBytes n (s.freeNat (8 * n))))).bumpFree
    else
      let r := s.regsRead o n s.hostNode noTenant (regBase + o)
      r.1.emit (.hostRead r.2)

def State.apertureWrite (s : State) (o : Nat) (bs : List Byte) : State :=
  match windowGuest o with
  | some g => if s.guestUp g then s.guestAsk g 1 0 o bs bs.length else s
  | none =>
    if s.cutOff s.primaryDie o then s.discardAt (s.route (blockNode o) 12 s.primaryDie).1 1 noTenant (regBase + o)
    else s.regsWrite o bs s.hostNode noTenant (regBase + o) false

/-- R412: the fault-log window: 8192 entries of 32 bytes. -/
def State.flogBytes (s : State) (o n : Nat) : List Byte :=
  (((List.range (n / 32 + 2)).flatMap fun i => s.flog0.slotBytes ((o / 32 + i) % 8192)).drop (o % 32)).take n

/-- A host read of BAR0. -/
def State.bar0Read (s : State) (o n : Nat) : State :=
  if !s.bar0Up then s
  else if 0x1000000 ≤ o then s.apertureRead (o - 0x1000000) n
  else if !aligned o n then (s.accessError 2 s.hostNode noTenant o).emit (.hostRead (List.replicate n 0))
  else if o < 0x10000 then s.emit (.hostRead (s.bootBytes o n))
  else if o < 0x50000 then s.emit (.hostRead (s.flogBytes (o - 0x10000) n))
  else if o < 0x51000 then s.emit (.hostRead (rdBytes s.fplan (o - 0x50000) n))
  else s.emit (.hostRead (List.replicate n 0))

/-- A host write of BAR0: the log and floor-plan windows are read only (R23). -/
def State.bar0Write (s : State) (o : Nat) (bs : List Byte) : State :=
  if !s.bar0Up then s
  else if 0x1000000 ≤ o then s.apertureWrite (o - 0x1000000) bs
  else if o < 0x10000 then s.bootWriteBytes o bs
  else if o < 0x51000 then s.accessError 3 s.hostNode noTenant o
  else s

/-! ### Mailbox pages (R284, Table 12-1) -/

/-- One aligned word of the registers of a mailbox page. -/
def State.pageWord (s : State) (t o : Nat) : Nat :=
  let m := s.mb t
  let entry (v : Vector) (i : Nat) : Nat :=
    if i = 0 then v.addr % 2 ^ 32 else if i = 4 then v.addr / 2 ^ 32 else if i = 8 then v.data else b2n v.masked
  if o = 0x1000 then m.sqTail else if o = 0x1004 then m.sqHead
  else if o = 0x1008 then m.cqHead else if o = 0x100C then m.cqTail
  else if o = 0x1010 then s.mbStat t else if o = 0x1014 then b2n m.irq
  else if o = 0x1018 then (if t = 0 then s.fatal else 0)
  else if 0x2000 ≤ o && o < 0x2010 then entry m.vec0 (o - 0x2000)
  else if 0x2010 ≤ o && o < 0x2020 && t = 0 then entry m.vec1 (o - 0x2010)
  else if o = 0x3000 then b2n m.vec0.pending + (if t = 0 then 2 * b2n m.vec1.pending else 0)
  else 0

/-- A read of a mailbox page. -/
def State.pageBytes (s : State) (t o n : Nat) : List Byte :=
  if o < 0x800 then rdBytes (s.mb t).sq o n
  else if o < 0x1000 then rdBytes (s.mb t).cq (o - 0x800) n
  else (((List.range ((n + 3) / 4)).flatMap fun i => leBytes 4 (s.pageWord t (o / 4 * 4 + 4 * i))).drop (o % 4)).take n

/-- A word of a vector's entry. -/
def Vector.write (v : Vector) (i w : Nat) : Vector :=
  if i = 0 then { v with addr := v.addr / 2 ^ 32 * 2 ^ 32 + w }
  else if i = 4 then { v with addr := w * 2 ^ 32 + v.addr % 2 ^ 32 }
  else if i = 8 then { v with data := w }
  else v.setMask (nbit w 0)

/-- A write of one register word of a page; reads-only words and unlisted offsets ignore it. -/
def State.pageWrite (s : State) (t o w : Nat) : State :=
  let m := s.mb t
  if o = 0x1000 then doorbell t w s
  else if o = 0x1008 then cqHeadWrite t w s
  else if o = 0x1010 then s.setMb t { m with badDoorbell := m.badDoorbell && !nbit w 25 }
  else if o = 0x1014 then s.setMb t { m with irq := nbit w 0 }
  else if o = 0x1018 then (if t = 0 then { s with fatal := s.fatal - Nat.land s.fatal (w % 32) } else s)
  else if 0x2000 ≤ o && o < 0x2010 then s.setMb t { m with vec0 := m.vec0.write (o - 0x2000) w }
  else if 0x2010 ≤ o && o < 0x2020 && t = 0 then s.setMb t { m with vec1 := m.vec1.write (o - 0x2010) w }
  else s

def State.pageWords (s : State) (t o : Nat) (bs : List Byte) : Nat → State
  | 0 => s
  | fuel + 1 => if bs.length < 4 then s else (s.pageWrite t o (fieldAt bs 0 4)).pageWords t (o + 4) (bs.drop 4) fuel

/-- Offsets of a page that hold a register. -/
def isPageReg (o : Nat) : Bool := (0x1000 ≤ o && o < 0x101C) || (0x2000 ≤ o && o < 0x2020) || (0x3000 ≤ o && o < 0x3008)

/-- BAR2 answers for functions that exist. -/
def State.bar2Up (s : State) (t : Nat) : Bool := s.bar0Up && s.fnExists t

/-- A host read of BAR2. -/
def State.bar2Read (s : State) (t o n : Nat) : State :=
  if !s.bar2Up t then s
  else if !aligned o n then (s.accessError 2 s.hostNode t o).emit (.hostRead (List.replicate n 0))
  else s.emit (.hostRead (s.pageBytes t o n))

/-- A host write of BAR2: the submission ring takes any size (R285), the completion ring none. -/
def State.bar2Write (s : State) (t o : Nat) (bs : List Byte) : State :=
  if !s.bar2Up t then s
  else if o + bs.length ≤ 0x800 then s.setMb t { s.mb t with sq := wrBytes (s.mb t).sq o bs }
  else if o < 0x1000 then s.accessError 4 s.hostNode t o
  else if !aligned o bs.length then s.accessError 2 s.hostNode t o
  else if bs.length < 4 then (if isPageReg (o / 4 * 4) then s.accessError 2 s.hostNode t o else s)
  else s.pageWords t o bs (bs.length / 4 + 1)

end Sys2Proof.Machine
end

