-- ==== Sys2Proof/Machine/Fabric.lean ====
section
/-! DEFINITION. Messages at their destinations (R209 to R232): reads, writes, atomics, fences and responses; guests and span
links as their sources; CRC replay, timeouts and detours; and the host's register accesses. -/

namespace Sys2Proof

/-! ### Sizes and data of messages (Table 9-3) -/

/-- Bytes that a message names: of its payload for 64 bytes and fewer those from addr[5:0], count + 1 of them. -/
def Msg.bytes (m : Msg) : Nat := if m.len = 1 then m.count.toNat + 1 else lenBytes m.len.toNat

/-- The valid bytes of its payload. -/
def Msg.data (m : Msg) : List Byte :=
  if m.len = 1 then (m.payload.drop (m.addr.toNat % 64)).take m.bytes else m.payload.take m.bytes

/-- Bytes of memory that a message reads or writes. -/
def Msg.reach (m : Msg) : Nat := if m.cls = 2 then (if m.op = 1 then 8 else m.bytes) else if m.op = 2 then 0 else m.data.length

/-- Rights that a message needs in a segment. -/
def Msg.needs (m : Msg) : Nat := if m.cls = 2 then (if m.op = 1 then Machine.rRead + Machine.rWrite else Machine.rRead) else Machine.rWrite

end Sys2Proof

namespace Sys2Proof.Machine

/-! ### Targets -/

/-- What an access at a device address gave: the state, the RSP status of Table 9-5, and the data. -/
structure Served where
  s : State
  status : Nat
  data : List Byte
deriving DecidableEq, Repr

/-- The node that serves a device address; none where nothing is populated. -/
def State.targetNode (s : State) (a : Nat) : Option Nat :=
  if a / 2 ^ 40 = 0x3F then
    (if a - regBase < regSize then some (if diePresent s.fuses ((a - regBase) / 0x400000) then blockNode (a - regBase) else 0x70)
     else none)
  else if a / 2 ^ 40 = 0x20 then
    (let k := a / 2 ^ 32 % 256
     if k < 64 && (s.coreEnabled k || num s.coreState k = 3) then some k else none)
  else
    match s.locate a with
    | .refused => none
    | .lost d => some (domNode d)
    | l => some (locNode l)

/-- R225: a die cannot reach the target of an address. The regulators answer without their die. -/
def State.unreached (s : State) (die a : Nat) : Bool :=
  match s.targetNode a with
  | some v => !(a / 2 ^ 40 = 0x3F && regulatorReg (a - regBase)) && !(s.route v 12 die).2
  | none => false

/-- RSP status of a memory access. -/
def Acc.rsp : Acc → Nat
  | .ok => rspOk
  | .refused => rspAddress
  | .lost => rspNodeLost
  | .bad => rspPoisoned

/-- The bytes at a device address (R17). -/
def State.serveRead (s : State) (a n node tenant : Nat) : Served :=
  if a / 2 ^ 40 = 0x3F then
    if a - regBase < regSize then
      let r := s.regsRead (a - regBase) n node tenant a
      ⟨r.1, rspOk, r.2⟩
    else ⟨s.accessError 1 node tenant a, rspAddress, []⟩
  else if a / 2 ^ 40 = 0x20 then
    if (s.targetNode a).isNone then ⟨s.accessError 1 node tenant a, rspAddress, []⟩
    else
      match s.winRead (a / 2 ^ 32 % 256) (a % 2 ^ 32) n with
      | .ok bs => ⟨s, rspOk, bs⟩
      | .error kind => ⟨s.accessError kind node tenant a, rspAddress, []⟩
  else
    let r := s.readMem a n tenant node
    ⟨r.s, r.acc.rsp, r.data⟩

/-- R131: what a write of a window range breaks: kind 1 an unpopulated byte, kind 3 a result slot or the status word, or the
fence word by a posted write, kind 2 word 0 of a command slot other than as one aligned 64-bit write. -/
def State.winFault (s : State) (k o n : Nat) (posted : Bool) : Option Nat :=
  let ps := (List.range n).map fun i => s.winPlace k (o + i)
  let word0 := ps.any fun p => match p with
    | .command _ b => decide (b < 8)
    | _ => false
  if ps.contains .none then some 1
  else if ps.any fun p => match p with
    | .result _ => true
    | .status => true
    | .fence => posted
    | _ => false then some 3
  else if word0 && !(o % 8 = 0 && n = 8) then some 2
  else none

/-- R130 to R132: an accepted write of a window range; word 0 of a command slot issues. -/
def State.winStore (s : State) (k o : Nat) (bs : List Byte) (node tenant : Nat) : State :=
  match s.winPlace k o with
  | .command slot 0 => s.issueBank k slot bs none tenant node
  | .fence => s
  | _ => s.setWin k o bs

/-- A write at a device address. -/
def State.serveWrite (s : State) (a : Nat) (bs : List Byte) (node tenant : Nat) (posted : Bool) : Served :=
  if bs.isEmpty then ⟨s, rspOk, []⟩
  else if a / 2 ^ 40 = 0x3F then
    if a - regBase < regSize then ⟨s.regsWrite (a - regBase) bs node tenant a (node = 0x71), rspOk, []⟩
    else ⟨s.accessError 1 node tenant a, rspAddress, []⟩
  else if a / 2 ^ 40 = 0x20 then
    if (s.targetNode a).isNone then ⟨s.accessError 1 node tenant a, rspAddress, []⟩
    else
      match s.winFault (a / 2 ^ 32 % 256) (a % 2 ^ 32) bs.length posted with
      | some kind => ⟨s.accessError kind node tenant a, rspAddress, []⟩
      | none => ⟨s.winStore (a / 2 ^ 32 % 256) (a % 2 ^ 32) bs node tenant, rspOk, []⟩
  else
    let r := s.writeMem a tenant node bs
    ⟨r.1, r.2.rsp, []⟩

/-- R215: a 64-bit add at a device address; the data is the old value. -/
def State.serveAdd (s : State) (a v node tenant : Nat) : Served :=
  let r := s.serveRead a 8 node tenant
  if r.status ≠ rspOk then r
  else
    let w := r.s.serveWrite a (leBytes 8 ((leNat r.data + v) % 2 ^ 64)) node tenant false
    { w with data := r.data }

/-! ### Answers -/

/-- An RSP goes to its requester: a guest, a node of this package, or another package. -/
def State.sendRsp (s : State) (die : Nat) (m : Msg) : State :=
  match (if m.dstPkg.toNat = s.pkgId then guestOf (m.addr.toNat % 256) else none) with
  | some g => s.toGuest g m
  | none => s.respond die m

/-- Answer a message from a node of this package. -/
def State.reply (s : State) (die node : Nat) (m : Msg) (op status len : Nat) (payload : List Byte) : State :=
  s.sendRsp die (m.reply s.pkgId node op status len payload)

/-- R225: the end of a message whose target is lost: NODE_LOST from the crossbar, or a discard there. -/
def State.lostMsg (s : State) (die : Nat) (m : Msg) : State :=
  if m.nonPosted then s.reply die (domNode die) m 2 rspNodeLost 0 []
  else if m.posted then s.discardAt die 1 m.tenant.toNat m.addr.toNat
  else s

/-! ### Delivery -/

/-- The address a message acts on: its own, or for a message of another package the place of the reference it carries,
checked against its tenant's table (R267, R316; log entry 26). -/
def State.msgAddr (s : State) (m : Msg) : Option Nat :=
  if m.srcPkg.toNat = s.pkgId then some m.addr.toNat
  else
    match s.resolve m.tenant.toNat (refOfRemote m.addr.toNat) (plain m.reach) m.needs with
    | some (.dev a _) => some a
    | _ => none

/-- A REQ or WRB message at its target: the answer of a non-posted one. -/
def State.perform (s : State) (die a : Nat) (m : Msg) : State :=
  let node := m.srcNode.toNat
  let t := m.tenant.toNat
  let own := (s.targetNode a).getD 0x70
  let fail (r : Served) : State := if m.nonPosted then r.s.reply die own m 2 r.status 0 [] else r.s
  if m.cls = 2 then
    if m.op = 0 then
      let r := s.serveRead a m.bytes node t
      if r.status = rspOk
      then r.s.reply die own m 0 rspOk m.len.toNat (if m.len = 1 then pad64 a r.data else r.data)
      else fail r
    else if m.op = 1 then
      let r := s.serveAdd a (leNat (m.data.take 8)) node t
      if r.status = rspOk
      then r.s.sendRsp die { m.reply s.pkgId own 1 rspOk 1 (pad64 a r.data) with count := 7 }
      else fail r
    else s
  else if m.op = 0 || m.op = 1 then
    let r := s.serveWrite a m.data node t m.posted
    if r.status ≠ rspOk then fail r
    else if m.nonPosted then r.s.reply die own m 1 rspOk 0 [] else r.s
  else if m.op = 2 then
    if (s.targetNode a).isSome then s.reply die own m 1 rspOk 0 []
    else fail ⟨s.accessError 1 node t a, rspAddress, []⟩
  else s

/-- R222, R225: a REQ or WRB message of this package's address space, from the die where it enters. -/
def State.serve (s : State) (die : Nat) (m : Msg) : State :=
  match s.msgAddr m with
  | none => if m.nonPosted then s.reply die (domNode die) m 2 rspSegment 0 [] else s
  | some a =>
    match (if a / 2 ^ 40 = 0x3F && a - regBase < regSize then windowGuest (a - regBase) else none) with
    | some g =>
      if s.guestUp g then s.toGuest g m
      else if m.cls = 2 then s.reply die (guestNode g) m 0 rspOk m.len.toNat (List.replicate (lenBytes m.len.toNat) 0)
      else if m.nonPosted then s.reply die (guestNode g) m 1 rspOk 0 [] else s
    | none =>
      if s.unreached die a then s.lostMsg (s.route ((s.targetNode a).getD 0x70) 12 die).1 m
      else s.perform die a m

/-- An RSP for a node of this package. -/
def State.sink (s : State) (m : Msg) : State :=
  match guestOf (m.addr.toNat % 256) with
  | some g => s.toGuest g m
  | none => s.deliverRsp m

/-- A message at the crossbar of the die where it enters the package or where its source stands: for another package (R247),
an RSP (R218), or a request. CTL messages have commands of their own. -/
def State.arrive (s : State) (die : Nat) (m : Msg) : State :=
  if m.dstPkg.toNat ≠ s.pkgId then
    let r := s.sendOut die m
    if r.2 then r.1 else r.1.lostMsg die m
  else if m.isRsp then s.sink m
  else if m.cls = 3 then s
  else s.serve die m

/-! ### Guests (R227 to R231) -/

/-- R229: some segment of the bound tenant allows a guest's request. -/
def State.guestMay (s : State) (t : Nat) (m : Msg) : Bool :=
  (List.range 16).any fun i => match s.seg? t i with
    | some g => decide (g.base ≤ m.addr.toNat) && s.segAllows g (m.addr.toNat - g.base) (plain (max 1 m.reach)) m.needs false
    | none => false

/-- A message from a guest: the gateway takes it, returns its credit, writes the bound tenant into it and checks a request
for this package against that tenant's table. -/
def State.guestSends (s : State) (g : Nat) (m : Msg) : State :=
  if !s.guestUp g then s
  else
    let s1 := s.emit (.guestCredit g m.cls.toNat 1)
    let t := s.regF (.voyGctl g) 0 10
    let x : Msg := { m with tenant := BitVec.ofNat 10 t }
    if m.isRsp then (s1.guestAnswered g m).arrive (guestDie g) m
    else if m.dstPkg.toNat ≠ s.pkgId || s.guestMay t m then s1.arrive (guestDie g) x
    else
      let s2 := s1.countF (.voyGstat g) 1 13 1
      if m.nonPosted then s2.reply (guestDie g) (guestNode g) x 2 rspSegment 0 [] else s2

/-- A message as a command: from a guest, from a node of this package, or from another package at the hub of X0. -/
def State.enter (s : State) (m : Msg) : State :=
  if !s.running then s
  else if m.srcPkg.toNat ≠ s.pkgId then (if s.dieLost 8 then s else s.arrive 8 m)
  else
    match guestOf m.srcNode.toNat with
    | some g => s.guestSends g m
    | none =>
      match nodeDie m.srcNode.toNat with
      | some d => if s.dieLost d then s else s.arrive d m
      | none => s

/-! ### The rows of messages and register accesses -/

/-- A host access to registers by device address: as a request of the host's hub, without a tenant. -/
def State.deviceRead (s : State) (a n : Nat) : State :=
  if !s.running then s
  else if s.unreached s.primaryDie a then (s.emit (.hostRead (leBytes n (s.freeNat (8 * n))))).bumpFree
  else
    let r := s.serveRead a n s.hostNode noTenant
    if r.status = rspOk then r.s.emit (.hostRead r.data) else r.s

def State.deviceWrite (s : State) (a : Nat) (bs : List Byte) : State :=
  if !s.running then s
  else if s.unreached s.primaryDie a then
    s.discardAt (s.route ((s.targetNode a).getD 0x70) 12 s.primaryDie).1 1 noTenant a
  else (s.serveWrite a bs s.hostNode noTenant true).s

/-- A register read through an aperture. -/
def State.apRead (s : State) (ap : Aperture) (n : Nat) : State :=
  match ap with
  | .bar0 o => s.bar0Read o.toNat n
  | .bar2 t o => s.bar2Read t.toNat o.toNat n
  | .device a => s.deviceRead a.toNat n

/-- A register write through an aperture. -/
def State.apWrite (s : State) (ap : Aperture) (bs : List Byte) : State :=
  match ap with
  | .bar0 o => s.bar0Write o.toNat bs
  | .bar2 t o => s.bar2Write t.toNat o.toNat bs
  | .device a => s.deviceWrite a.toNat bs

/-- REGISTER_WRITE (R8 to R11, R21 to R23). -/
def execRegisterWrite (ap : Aperture) (data : List Byte) (s : State) : Host.Outcome State Fault Refusal :=
  .next (s.apWrite ap data)

/-- READ (R215): a REQ READ message, or a host read of a page. -/
def execRead (r : ReadReq) (s : State) : Host.Outcome State Fault Refusal :=
  .next (match r with
    | .msg m => if m.cls = 2 && m.op = 0 then s.enter m else s
    | .host ap n => s.apRead ap n)

/-- ATOMIC_ADD (R215). -/
def execAtomicAdd (m : Msg) (s : State) : Host.Outcome State Fault Refusal :=
  .next (if m.cls = 2 && m.op = 1 then s.enter m else s)

/-- WRITE (R215): posted. -/
def execWrite (m : Msg) (s : State) : Host.Outcome State Fault Refusal :=
  .next (if m.cls = 1 && m.op = 0 then s.enter m else s)

/-- WRITE_NP (R215). -/
def execWriteNp (m : Msg) (s : State) : Host.Outcome State Fault Refusal :=
  .next (if m.cls = 1 && m.op = 1 then s.enter m else s)

/-- FENCE (R139, R216): writes are accepted as they arrive, so the ACK returns at once. -/
def execFabricFence (m : Msg) (s : State) : Host.Outcome State Fault Refusal :=
  .next (if m.cls = 1 && m.op = 2 then s.enter m else s)

/-- DATA (R215, R218). -/
def execDataRsp (m : Msg) (s : State) : Host.Outcome State Fault Refusal :=
  .next (if m.cls = 0 && m.op = 0 then s.enter m else s)

/-- ACK. -/
def execAckRsp (m : Msg) (s : State) : Host.Outcome State Fault Refusal :=
  .next (if m.cls = 0 && m.op = 1 then s.enter m else s)

/-- ERROR. -/
def execErrorRsp (m : Msg) (s : State) : Host.Outcome State Fault Refusal :=
  .next (if m.cls = 0 && m.op = 2 then s.enter m else s)

/-! ### Span frames (R237, R247) -/

/-- A message that ends in a frame of port p: delivered, or sent on with the turn class of the package route. -/
def State.spanMsg (s : State) (p : Nat) (m : Msg) : State :=
  let die := 8 + p / 6
  if m.dstPkg.toNat = s.pkgId then s.arrive die m
  else s.arrive die { m with t := s.regBit (.spnPrt die m.dstPkg.toNat) 30 }

/-- SPAN_FRAME. -/
def spanFrame (p : Nat) (f : RxFrame) (s : State) : State :=
  if !s.spanWorks p then s
  else
    let r := s.takeFrame p f
    if r.2 then f.msgs.foldl (fun s m => s.spanMsg p m) r.1 else r.1

def execSpanFrame (port : Fin 24) (f : RxFrame) (s : State) : Host.Outcome State Fault Refusal :=
  .next (spanFrame port.val f s)

/-! ### CRC errors (R213) -/

/-- R211: sub-channels of a native channel: end links have 8, all others 32. -/
def linkWidth (d e : Nat) : Nat := if 8 ≤ d && 8 ≤ e then 8 else 32

/-- VOYLA_CRC_ERROR: `sixteenth` tells that this replay is the sixteenth in a row, which retires the sub-channel. -/
def crcError (d port sub : Nat) (sixteenth : Bool) (s : State) : State :=
  match neighbour s.fuses d (port + 1) with
  | none => s
  | some e =>
    if !s.running || s.dieLost d || s.dieLost e || linkWidth d e ≤ sub || s.retiredSubs.contains (subKey d port sub) then s
    else
      let s1 := ((s.countF (.fabReplay d) 0 32 1).setBit (.fabStat d) 0).emit (.replay d port sub)
      if !sixteenth then s1
      else if d < 8 then (s1.retireSub d port sub).raise (srcTower d 4) else s1.retireSub d port sub

def execVoylaCrcError (die : Fin 12) (port : Fin 4) (sub : BitVec 5) (sixteenth : Bool) (s : State) :
    Host.Outcome State Fault Refusal := .next (crcError die.val port.val sub.toNat sixteenth s)

/-! ### Timeouts (R221) -/

/-- FABRIC_TIMEOUT: 10 ms (2,000,000 ticks) without an RSP. The response space stays reserved. -/
def fabricTimeout (node tag : Nat) (s : State) : State :=
  match s.reqs.find? fun r => r.node = node && r.tag = tag with
  | none => s
  | some r =>
    if r.timedOut || s.now < r.since + 2000000 then s
    else
      let die := (nodeDie node).getD 8
      let s1 := ({ s with reqs := s.reqs.map fun (x : Req) => if x.node = node && x.tag = tag then { x with timedOut := true } else x } :
        State).log 0x0041 2 die node r.tenant tag r.addr
      let s2 := if die < 8 then s1.raise (srcTower die 4) else s1
      match r.op with
      | some (id, off) => s2.finishOp id off osFabricTimeout 0
      | none => s2

def execFabricTimeout (node : BitVec 8) (tag : BitVec 10) (s : State) : Host.Outcome State Fault Refusal :=
  .next (fabricTimeout node.toNat tag.toNat s)

/-! ### Detours (R223, R225) -/

/-- The dimension-order path from a die to a node meets no lost die. -/
def State.straight (s : State) (n : Nat) : Nat → Nat → Bool
  | 0, _ => false
  | fuel + 1, d =>
    if s.dieLost d then false
    else if nodeDie n = some d then true
    else
      match neighbour s.fuses d (dimOrder d n) with
      | some e => s.straight n fuel e
      | none => false

/-- The other row: north from row 1, south from row 0. -/
def crossPort (d : Nat) : Nat := if dieRow d = 1 then portNorth else portSouth

/-- The first port of a path from a die to a node around lost dies: dimension order; else the other row and dimension order
there; else a step along the row toward the node. -/
def State.detour (s : State) (n : Nat) : Nat → Nat → Option Nat
  | 0, _ => none
  | fuel + 1, d =>
    if s.straight n 12 d then some (dimOrder d n)
    else
      let across := match neighbour s.fuses d (crossPort d) with
        | some e => s.straight n 12 e
        | none => false
      if across then some (crossPort d)
      else
        match neighbour s.fuses d (dimOrder d n) with
        | some e =>
          if (dimOrder d n = portEast || dimOrder d n = portWest) && !s.dieLost e && (s.detour n fuel e).isSome
          then some (dimOrder d n) else none
        | none => none

/-- The ports of the whole path. -/
def State.detourPath (s : State) (n : Nat) : Nat → Nat → List Nat
  | 0, _ => []
  | fuel + 1, d =>
    if nodeDie n = some d then []
    else
      match s.detour n 12 d with
      | some p => p :: (match neighbour s.fuses d p with
          | some e => s.detourPath n fuel e
          | none => [])
      | none => []

/-- R223: a turn follows a hop through a port: t must be 1 after north. -/
def turnsAfter (q : Nat) : List Nat → Bool
  | a :: b :: rest => (a = q && b ≠ q) || turnsAfter q (b :: rest)
  | _ => false

/-- The route entry that firmware writes. -/
def State.detourEntry (s : State) (d n : Nat) : Nat :=
  match s.detour n 12 d with
  | some p => p + (if turnsAfter portNorth (s.detourPath n 12 d) then 128 else 0)
  | none => portUnreachable

/-- ROUTE_DETOUR (R225): firmware writes every live crossbar's entries for the nodes of present dies. -/
def routeDetour (s : State) : State :=
  if !s.alive then s
  else
    let nodes := (List.range 0x7A).filter fun n => match nodeDie n with
      | some e => diePresent s.fuses e
      | none => false
    ((List.range 12).filter fun d => diePresent s.fuses d && !s.dieLost d).foldl (fun s d =>
      nodes.foldl (fun s n => s.setReg (.fabRt d n) (BitVec.ofNat 64 (s.detourEntry d n))) s) s

def execRouteDetour (s : State) : Host.Outcome State Fault Refusal := .next (routeDetour s)

end Sys2Proof.Machine
end

