-- ==== Sys2Proof/Machine/Mover.lean ====
section
/-! DEFINITION. The data mover and SAMPLE (R267 to R269, R274, R383 to R385), the resume of a preempted list (R279), and the
beats of the vector chain. -/

namespace Sys2Proof.Machine

/-! ### Ranges and overlaps (R274) -/

/-- A reference's place at an offset from it, with rights and extent checked (R254, R315). -/
def State.resolveOff (s : State) (t ref off n right : Nat) : Option Place :=
  match refSpace ref with
  | 1 =>
    match s.seg? t (refSegNo ref) with
    | some g => if s.segAllows g (refOff ref + off) (plain n) right false then some (.dev (g.base + refOff ref + off) g) else none
    | none => none
  | 2 => if refOff ref + off + n ≤ accSize then some (.acc (refOff ref + off)) else none
  | 3 => if refOff ref + off + n ≤ stageSize then some (.stage (refOff ref + off)) else none
  | _ => none

/-- Where a reference starts, before its extent is checked: the space (a store, or device memory) and the address. -/
def State.startOf (s : State) (t ref : Nat) : Nat × Nat :=
  match refSpace ref with
  | 1 => (1, match s.seg? t (refSegNo ref) with
    | some g => g.base + refOff ref
    | none => refOff ref)
  | x => (x, refOff ref)

/-- Two ranges, each of one space, share a byte. -/
def meets (a : Nat × Nat) (n : Nat) (b : Nat × Nat) (m : Nat) : Bool := a.1 = b.1 && overlaps a.2 n b.2 m

/-- R195, R274: bytes that a condition makes open, counted from the free counter (log entries 4 and 54). -/
def openBytes (ctr base : Nat) (isOpen : Nat → Bool) (bs : List Byte) : List Byte :=
  bs.mapIdx fun i b => if isOpen i then Config.undefinedByte ctr (base + i) else b

/-! ### COPY (Table 11-10) -/

def cpBytes (o : Op) : Nat := o.f 0x18 8
def cpPkg (o : Op) : Nat := o.f 0x20 1
def cpRemote (o : Op) : Bool := nbit (o.f 0x21 1) 0

/-- A COPY whose destination shares bytes with its source. -/
def State.copyMeets (s : State) (l : WorkList) (o : Op) : Bool :=
  !cpRemote o && meets (s.startOf l.tenant (o.f 8 8)) (cpBytes o) (s.startOf l.tenant (o.f 0x10 8)) (cpBytes o)

/-- Field rules and extents of COPY (R254, R267, R274). A remote destination is a segment reference and is checked where it
arrives. The field of a missing NONDET is the flags. -/
def copyRules (s : State) (l : WorkList) (o : Op) : OpErr :=
  orErr (need (o.f 8 8 ≠ 0 && refOk (o.f 8 8)) (malformed 8))
  (orErr (need (o.f 0x10 8 ≠ 0 && refOk (o.f 0x10 8) && (!cpRemote o || refSpace (o.f 0x10 8) = 1)) (malformed 0x10))
  (orErr (need (1 ≤ cpBytes o && cpBytes o ≤ 2 ^ 40) (malformed 0x18))
  (orErr (need (if cpRemote o then cpPkg o < 64 else cpPkg o = 0) (malformed 0x20))
  (orErr (need (o.f 0x21 1 < 2) (malformed 0x21))
  (orErr (need (o.nondet || !s.copyMeets l o) (malformed 2))
  (orErr (need (s.resolve l.tenant (o.f 8 8) (plain (cpBytes o)) rRead).isSome (segErr 8))
    (need (cpRemote o || (s.resolve l.tenant (o.f 0x10 8) (plain (cpBytes o)) rWrite).isSome) (segErr 0x10))))))))

/-- Pieces of a range that lie in one 64-byte sector each: offset and length. -/
def sectorPieces (a n : Nat) : List (Nat × Nat) :=
  (sectorsOf a n).map fun q =>
    let lo := max q a
    (lo - a, min (q + 64) (a + n) - lo)

/-- R267: send the data to another package, one WRITE_NP for each sector (log entry 55); the COPY ends with its last ACK
(R259). -/
def State.copyAway (s : State) (l : WorkList) (o : Op) (data : List Byte) : State :=
  let dst := remoteAddr (o.f 0x10 8)
  let r := (sectorPieces dst data.length).foldl (fun (x : State × Bool) p =>
    if !x.2 then x
    else
      let q := x.1.request o.core (dst + p.1) l.tenant (some (l.id, o.offset))
      let m := q.1.sendOut (o.core / 8) (s.mkMsg (cpPkg o) o.core 1 1 l.tenant q.2 1 (dst + p.1) ((data.drop p.1).take p.2))
      if m.2 then (m.1, true) else ({ m.1 with reqs := x.1.reqs }, false)) (s, true)
  if r.2 then r.1 else r.1.finishOp l.id o.offset osNodeLost 0

/-- R267: a destination named as remote in this package itself: the pieces that pass the check are written, with undefined
contents where another piece fails. -/
def State.copyHere (s : State) (l : WorkList) (o : Op) (data : List Byte) : State :=
  let dst := o.f 0x10 8
  let a := (s.startOf l.tenant dst).2
  match s.resolve l.tenant dst (plain data.length) rWrite with
  | some p =>
    let w := s.opWrite o.core l.tenant p data
    w.1.finishOp l.id o.offset w.2.status 0
  | none =>
    let s1 := (sectorPieces a data.length).foldl (fun (s : State) p =>
      match s.resolveOff l.tenant dst p.1 p.2 rWrite with
      | some q => s.fillUndefined o.core l.tenant q (plain p.2)
      | none => s) s
    s1.finishOp l.id o.offset osSegment 0

/-- R267: move the bytes, 64 in a step. -/
def State.runCopy (s : State) (l : WorkList) (o : Op) : State :=
  let n := cpBytes o
  let steps := ceilDiv n 64
  let s0 := s.startOp l.id o.offset
  match s0.resolve l.tenant (o.f 8 8) (plain n) rRead with
  | none => s0.finishOp l.id o.offset osSegment 8
  | some src =>
    let r := s0.opRead o.core l.tenant src n
    let s1 := (r.s.addSteps l.id o.offset steps 0).ctr o.core 0x40 steps
    let local_ := s1.resolve l.tenant (o.f 0x10 8) (plain n) rWrite
    if r.acc ≠ .ok then (s1.spoil o.core l.tenant (if cpRemote o then none else local_) (plain n) r.acc).finishOp l.id o.offset
      r.acc.status 0
    else if cpRemote o then
      (if cpPkg o = s.pkgId then s1.copyHere l o r.data else s1.copyAway l o r.data)
    else
      match local_ with
      | none => s1.finishOp l.id o.offset osSegment 0x10
      | some dst =>
        let a := s1.startOf l.tenant (o.f 8 8)
        let b := s1.startOf l.tenant (o.f 0x10 8)
        let bytes := if s1.copyMeets l o then openBytes s1.freeCtr 0 (fun i => meets (a.1, a.2 + i) 1 b n) r.data else r.data
        let w := s1.bumpFree.opWrite o.core l.tenant dst bytes
        w.1.finishOp l.id o.offset w.2.status 0

/-- COPY (R267). -/
def execCopy (list : Nat) (early : Option (List Byte)) (s : State) : Host.Outcome State Fault Refusal :=
  .next (s.issueOp list early 0x08 copyRules State.runCopy)

/-! ### GATHER (Table 11-10) -/

def gaCount (o : Op) : Nat := o.f 0x20 4
def gaBytes (o : Op) : Nat := o.f 0x24 4
def gaSrcPitch (o : Op) : Nat := o.f 0x28 4
def gaDstPitch (o : Op) : Nat := if o.f 0x2C 4 = 0 then gaBytes o else o.f 0x2C 4
def gaDst (o : Op) : Rows := ⟨gaCount o, gaDstPitch o, gaBytes o⟩

/-- The bytes of a range lie in a destination row of a GATHER. -/
def State.inDst (s : State) (l : WorkList) (o : Op) (a : Nat × Nat) (n : Nat) : Bool :=
  let d := s.startOf l.tenant (o.f 0x10 8)
  (List.range (gaCount o)).any fun i => meets a n (d.1, d.2 + i * gaDstPitch o) (gaBytes o)

/-- Field rules and the extents that do not depend on data (R254, R267, R274, R446). -/
def gatherRules (s : State) (l : WorkList) (o : Op) : OpErr :=
  orErr (need (o.f 8 8 ≠ 0 && refOk (o.f 8 8)) (malformed 8))
  (orErr (need (o.f 0x10 8 ≠ 0 && refOk (o.f 0x10 8)) (malformed 0x10))
  (orErr (need (o.f 0x18 8 ≠ 0 && refOk (o.f 0x18 8)) (malformed 0x18))
  (orErr (need (1 ≤ gaCount o && gaCount o ≤ 16777216) (malformed 0x20))
  (orErr (need (1 ≤ gaBytes o && gaBytes o ≤ 65536) (malformed 0x24))
  (orErr (need (gaBytes o ≤ gaDstPitch o) (malformed 0x2C))
  (orErr (need (o.nondet || !s.inDst l o (s.startOf l.tenant (o.f 0x18 8)) (4 * gaCount o)) (malformed 2))
  (orErr (need (s.resolve l.tenant (o.f 0x18 8) (plain (4 * gaCount o)) rRead).isSome (segErr 0x18))
    (need (s.resolve l.tenant (o.f 0x10 8) (gaDst o) rWrite).isSome (segErr 0x10)))))))))

/-- Rows read by a GATHER so far. -/
structure RowsRead where
  s : State
  acc : Acc := .ok
  rows : List (List Byte) := []
deriving DecidableEq, Repr

/-- R267: the index vector, then every row's extent, then the rows. -/
def State.runGather (s : State) (l : WorkList) (o : Op) : State :=
  let t := l.tenant
  let n := gaBytes o
  let steps := gaCount o * ceilDiv n 64
  let s0 := s.startOp l.id o.offset
  match s0.resolve t (o.f 0x18 8) (plain (4 * gaCount o)) rRead, s0.resolve t (o.f 0x10 8) (gaDst o) rWrite with
  | some ix, some dst =>
    let v := s0.opRead o.core t ix (4 * gaCount o)
    let idx := (List.range (gaCount o)).map fun i => fieldAt v.data (4 * i) 4
    let a := s0.startOf t (o.f 8 8)
    let at_ (i : Nat) : Nat × Nat := (a.1, a.2 + i * gaSrcPitch o)
    let src := idx.map fun i => s0.resolveOff t (o.f 8 8) (i * gaSrcPitch o) n rRead
    if v.acc ≠ .ok then (v.s.spoil o.core t (some dst) (gaDst o) v.acc).finishOp l.id o.offset v.acc.status 0
    else if !o.nondet && idx.any fun i => s0.inDst l o (at_ i) n then v.s.finishOp l.id o.offset osMalformed 2
    else if src.any Option.isNone then v.s.finishOp l.id o.offset osSegment 8
    else
      let r := (src.filterMap id).foldl (fun (x : RowsRead) p =>
        let q := x.s.opRead o.core t p n
        { s := q.s, acc := x.acc.first q.acc, rows := x.rows ++ [q.data] }) ⟨v.s, .ok, []⟩
      let s1 := (r.s.addSteps l.id o.offset steps 0).ctr o.core 0x40 steps
      if r.acc ≠ .ok then (s1.spoil o.core t (some dst) (gaDst o) r.acc).finishOp l.id o.offset r.acc.status 0
      else
        let w := ((List.zip idx r.rows).zipIdx).foldl (fun (x : State × Acc) e =>
          let bytes := if o.nondet then openBytes s1.freeCtr (e.2 * n) (fun j => s1.inDst l o ((at_ e.1.1).1, (at_ e.1.1).2 + j) 1) e.1.2
            else e.1.2
          let w := x.1.opWrite o.core t (dst.plus (e.2 * gaDstPitch o)) bytes
          (w.1, x.2.first w.2)) (s1.bumpFree, Acc.ok)
        w.1.finishOp l.id o.offset w.2.status 0
  | _, _ => s0.finishOp l.id o.offset osSegment 0x10

/-- GATHER (R267). -/
def execGather (list : Nat) (early : Option (List Byte)) (s : State) : Host.Outcome State Fault Refusal :=
  .next (s.issueOp list early 0x09 gatherRules State.runGather)

/-! ### DIGEST (R268, R385) -/

def digestRules (s : State) (l : WorkList) (o : Op) : OpErr :=
  orErr (need (o.f 8 8 ≠ 0 && refOk (o.f 8 8)) (malformed 8))
  (orErr (need (1 ≤ o.f 0x10 8 && o.f 0x10 8 ≤ 2 ^ 40) (malformed 0x10))
    (need (s.resolve l.tenant (o.f 8 8) (plain (o.f 0x10 8)) rRead).isSome (segErr 8)))

def State.runDigest (s : State) (l : WorkList) (o : Op) : State :=
  let n := o.f 0x10 8
  let s0 := s.startOp l.id o.offset
  match s0.resolve l.tenant (o.f 8 8) (plain n) rRead with
  | none => s0.finishOp l.id o.offset osSegment 8
  | some p =>
    let r := s0.opRead o.core l.tenant p n
    let s1 := (r.s.addSteps l.id o.offset (ceilDiv n 64) 0).ctr o.core 0x40 (ceilDiv n 64)
    if r.acc ≠ .ok then s1.finishOp l.id o.offset r.acc.status 0
    else
      let s2 := match s1.op? l.id o.offset with
        | some q => s1.setOp l.id { q with digest := crc64Final (crc64Feed crc64Init r.data) }
        | none => s1
      s2.finishOp l.id o.offset osOk 0

/-- DIGEST (R268). -/
def execDigestOp (list : Nat) (early : Option (List Byte)) (s : State) : Host.Outcome State Fault Refusal :=
  .next (s.issueOp list early 0x13 digestRules State.runDigest)

/-! ### Random numbers (R383) -/

/-- The four counter words of the generator. -/
structure Philox where
  c0 : Nat
  c1 : Nat
  c2 : Nat
  c3 : Nat
deriving DecidableEq, Repr

/-- One round under a key. -/
def Philox.round (p : Philox) (k0 k1 : Nat) : Philox :=
  let a := 0xD2511F53 * p.c0
  let b := 0xCD9E8D57 * p.c2
  ⟨Nat.xor (Nat.xor (b / 2 ^ 32) p.c1) k0, b % 2 ^ 32, Nat.xor (Nat.xor (a / 2 ^ 32) p.c3) k1, a % 2 ^ 32⟩

/-- Ten rounds; the key advances after each. -/
def Philox.rounds (p : Philox) (k0 k1 : Nat) : Nat → Philox
  | 0 => p
  | n + 1 => (p.round k0 k1).rounds ((k0 + 0x9E3779B9) % 2 ^ 32) ((k1 + 0xBB67AE85) % 2 ^ 32) n

/-- The first output word for a seed, a stream and a counter value. -/
def philoxWord (seed stream n : Nat) : Nat :=
  (Philox.rounds ⟨n % 2 ^ 32, n / 2 ^ 32 % 2 ^ 32, stream, 0⟩ (seed % 2 ^ 32) (seed / 2 ^ 32) 10).c0

/-- u = c0[31:8] × 2^−24, exact in FP32. -/
def philoxU (seed stream n : Nat) : Word := (finish32 false (.fin false (philoxWord seed stream n / 256) (2 ^ 24))).bits

/-! ### SAMPLE (R269) -/

def saRows (o : Op) : Nat := o.f 0x18 4
def saCols (o : Op) : Nat := o.f 0x1C 4

/-- SAMPLE passes the chain, so its streams lie where R73 lets streams lie (log entry 56). -/
def sampleRules (s : State) (l : WorkList) (o : Op) : OpErr :=
  let t := l.tenant
  orErr (need (o.f 8 8 ≠ 0 && s.chainPlaceOk t o.core (o.f 8 8)) (malformed 8))
  (orErr (need (o.f 0x10 8 ≠ 0 && s.chainPlaceOk t o.core (o.f 0x10 8)) (malformed 0x10))
  (orErr (need (1 ≤ saRows o && saRows o ≤ 65536) (malformed 0x18))
  (orErr (need (1 ≤ saCols o && saCols o ≤ 1048576) (malformed 0x1C))
  (orErr (need (o.f 0x24 4 = 0) (malformed 0x24))
  (orErr (need (s.resolve t (o.f 8 8) (plain (4 * saRows o * saCols o)) rRead).isSome (segErr 8))
    (need (s.resolve t (o.f 0x10 8) (plain (4 * saRows o)) rWrite).isSome (segErr 0x10)))))))

/-- The weight of a column: 0.0 where negative or NaN. -/
def sampleWeight (x : Word) : Word := if isNan32 x || (v32 x).lt (.fin false 0 1) then 0 else x

/-- Running sums, with saturations, newest last. -/
def sampleSums (ws : List Word) : List Word × Nat :=
  let r := ws.foldl (fun (x : Word × List Word × Nat) w =>
    let y := fadd x.1 w
    (y.bits, y.bits :: x.2.1, x.2.2 + b2n y.sat)) ((0 : Word), ([] : List Word), 0)
  (r.2.1.reverse, r.2.2)

/-- R269: the choice of a row with number u: the smallest c with s_c > u × total; and saturations. -/
def samplePick (ws : List Word) (u : Word) : Nat × Nat :=
  let r := sampleSums (ws.map sampleWeight)
  let total := r.1.getLastD 0
  let t := fmul u total
  (if isZero32 total then 0xFFFFFFFF
   else match r.1.findIdx? fun x => (v32 t.bits).lt (v32 x) with
     | some c => c
     | none => 0xFFFFFFFF, r.2 + b2n t.sat)

/-- R269, with the seed read at issue (R383) and kept in the operation. -/
def State.runSample (s : State) (l : WorkList) (o : Op) : State :=
  let rows := saRows o
  let cols := saCols o
  let seed := fieldAt o.aux 0 8
  let steps := rows * 2 * ceilDiv cols 512 + 96
  let s0 := s.startOp l.id o.offset
  match s0.resolve l.tenant (o.f 8 8) (plain 0) rRead, s0.resolve l.tenant (o.f 0x10 8) (plain 0) rWrite with
  | some src, some dst =>
    let r := s0.opRead o.core l.tenant src (4 * rows * cols)
    if r.acc ≠ .ok then (r.s.spoil o.core l.tenant (some dst) (plain (4 * rows)) r.acc).endWith l o steps 0 r.acc.status 0
    else
      let picks := (List.range rows).map fun i =>
        samplePick (wordsOf (r.data.drop (4 * i * cols)) cols) (philoxU seed (o.f 0x20 4) ((o.f 0x28 8 + i) % 2 ^ 64))
      let s1 := r.s.internalReport o.core (picks.map (·.2)).sum 0 0 (rows * 2 * ceilDiv cols 512)
      let w := s1.opWrite o.core l.tenant dst (picks.flatMap fun p => leBytes 4 p.1)
      w.1.endWith l o steps 0 w.2.status 0
  | _, _ => s0.finishOp l.id o.offset osSegment 8

/-- SAMPLE (R269). -/
def execSample (list : Nat) (early : Option (List Byte)) (s : State) : Host.Outcome State Fault Refusal :=
  .next (s.issueOp list early 0x14 sampleRules fun s l o =>
    let o1 := { o with aux := leBytes 8 (s.reg (.rngSeed l.tenant)).toNat }
    (s.setOp l.id o1).runOnChain l o1 State.runSample)

/-! ### Turns of the chain (R90) -/

/-- Opcodes that hold the chain with an internal configuration. -/
def internalOp (c : Nat) : Bool := c = 0x03 || c = 0x04 || c = 0x07 || c = 0x14

/-- Run an operation with an internal configuration at its turn. -/
def State.runInternal (s : State) (l : WorkList) (o : Op) : State :=
  match o.opcode with
  | 0x03 => s.runAttend l o
  | 0x04 => s.runKvAppend l o
  | 0x07 => s.runMerge l o
  | _ => s.runSample l o

/-- R68: an ATTEND may use the array: nothing before it in the array's queue. -/
def State.arrayTurn (s : State) (l : WorkList) (o : Op) : Bool :=
  o.opcode ≠ 0x03 || (match (s.coreUnit o.core).arrayQ with
    | e :: _ => e = (l.id, o.offset)
    | [] => true)

/-- The next turn of core k's chain: a beat of a stream, or a whole operation with an internal configuration. -/
def chainTurn (k : Nat) (s : State) : State :=
  match s.nextJobOf k with
  | none => s
  | some j =>
    match s.list? j.list, s.op? j.list j.op with
    | some l, some o =>
      if internalOp o.opcode then
        (if s.towerRuns (k / 8) && s.arrayTurn l o then (s.dropOp l.id o.offset).runInternal l o else s)
      else vchainBeat k s
    | _, _ => vchainBeat k s

/-- VCHAIN_BEAT (R72 to R75, R90). -/
def execVchainBeat (core : Fin 64) (s : State) : Host.Outcome State Fault Refusal := .next (chainTurn core.val s)

/-! ### Resume (R279) -/

/-- R279: put an operation that had been issued back into its unit. -/
def State.requeue (s : State) (l : WorkList) (o : Op) : State :=
  if o.stage ≠ .queued then s
  else
    match o.opcode with
    | 0x01 => s.queueMatmul l o
    | 0x02 => s.queueVchain l o
    | 0x03 => s.attendNow l o
    | 0x04 => s.runOnChain l o State.runKvAppend
    | 0x06 => (s.startOp l.id o.offset).pumpBanks
    | 0x07 => s.runOnChain l o State.runMerge
    | 0x14 => s.runOnChain l o State.runSample
    | _ => s

/-- LIST_RESUME (R279). -/
def execListResume (list : Nat) (s : State) : Host.Outcome State Fault Refusal := .next (resumeList list State.requeue s)

end Sys2Proof.Machine
end

