-- ==== Sys2Proof/Machine/Dispatch.lean ====
section
/-! DEFINITION. The meaning of every command, one arm per constructor. -/

namespace Sys2Proof.Machine

/-- The effect of a command on everything but the queue of waiting commands. -/
def exec (i : Instr) (s : State) : Host.Outcome State Fault Refusal :=
  match i with
  | .registerWrite ap data => Sys2Proof.Machine.execRegisterWrite ap data s
  | .read r => Sys2Proof.Machine.execRead r s
  | .atomicAdd m => Sys2Proof.Machine.execAtomicAdd m s
  | .write m => Sys2Proof.Machine.execWrite m s
  | .writeNp m => Sys2Proof.Machine.execWriteNp m s
  | .fabricFence m => Sys2Proof.Machine.execFabricFence m s
  | .dataRsp m => Sys2Proof.Machine.execDataRsp m s
  | .ackRsp m => Sys2Proof.Machine.execAckRsp m s
  | .errorRsp m => Sys2Proof.Machine.execErrorRsp m s
  | .event source => Sys2Proof.Machine.execEvent source s
  | .leaseRevoke node owner => Sys2Proof.Machine.execLeaseRevoke node owner s
  | .quiesce node addr tenant => Sys2Proof.Machine.execQuiesce node addr tenant s
  | .credit guest cls count => Sys2Proof.Machine.execCredit guest cls count s
  | .cap guest bytes => Sys2Proof.Machine.execCap guest bytes s
  | .faultLogEntry e => Sys2Proof.Machine.execFaultLogEntry e s
  | .voylaCrcError die port sub sixteenth => Sys2Proof.Machine.execVoylaCrcError die port sub sixteenth s
  | .fabricTimeout node tag => Sys2Proof.Machine.execFabricTimeout node tag s
  | .routeDetour => Sys2Proof.Machine.execRouteDetour s
  | .guestTrainingTimeout guest => Sys2Proof.Machine.execGuestTrainingTimeout guest s
  | .guestEnable guest tenant => Sys2Proof.Machine.execGuestEnable guest tenant s
  | .resetLink guest => Sys2Proof.Machine.execResetLink guest s
  | .guestLinkDown guest => Sys2Proof.Machine.execGuestLinkDown guest s
  | .spanFrame port f => Sys2Proof.Machine.execSpanFrame port f s
  | .laneLoss port lane => Sys2Proof.Machine.execLaneLoss port lane s
  | .holdTimeout port => Sys2Proof.Machine.execHoldTimeout port s
  | .spanNoPeer port => Sys2Proof.Machine.execSpanNoPeer port s
  | .spanRouteRemoval port => Sys2Proof.Machine.execSpanRouteRemoval port s
  | .retrain port => Sys2Proof.Machine.execRetrain port s
  | .spnCtlEnable port value => Sys2Proof.Machine.execSpnCtlEnable port value s
  | .undervoltageStop tower => Sys2Proof.Machine.execUndervoltageStop tower s
  | .undervoltageResume tower => Sys2Proof.Machine.execUndervoltageResume tower s
  | .undervoltageTowerLoss tower => Sys2Proof.Machine.execUndervoltageTowerLoss tower s
  | .timebaseTick => Sys2Proof.Machine.execTimebaseTick s
  | .timebaseFirstLock => Sys2Proof.Machine.execTimebaseFirstLock s
  | .timerefLoss => Sys2Proof.Machine.execTimerefLoss s
  | .timerefRelock => Sys2Proof.Machine.execTimerefRelock s
  | .syncLoad => Sys2Proof.Machine.execSyncLoad s
  | .arm => Sys2Proof.Machine.execArm s
  | .disarm => Sys2Proof.Machine.execDisarm s
  | .bankRefresh core bank => Sys2Proof.Machine.execBankRefresh core bank s
  | .refreshComplete core bank => Sys2Proof.Machine.execRefreshComplete core bank s
  | .stepmonMeasurement core ticks => Sys2Proof.Machine.execStepmonMeasurement core ticks s
  | .stepmonWindowEnd tower => Sys2Proof.Machine.execStepmonWindowEnd tower s
  | .matmul list early => Sys2Proof.Machine.execMatmul list early s
  | .shadowLoad core quad => Sys2Proof.Machine.execShadowLoad core quad s
  | .swap core quad => Sys2Proof.Machine.execSwap core quad s
  | .rowBroadcast core => Sys2Proof.Machine.execRowBroadcast core s
  | .vchain list early => Sys2Proof.Machine.execVchain list early s
  | .vchainBeat core => Sys2Proof.Machine.execVchainBeat core s
  | .qsWindowEnd core counter => Sys2Proof.Machine.execQsWindowEnd core counter s
  | .coreQsctlWrite core counter value => Sys2Proof.Machine.execCoreQsctlWrite core counter value s
  | .coreQsctlClear core counter value => Sys2Proof.Machine.execCoreQsctlClear core counter value s
  | .excClear core value => Sys2Proof.Machine.execExcClear core value s
  | .partialCmd core bank slot word0 => Sys2Proof.Machine.execPartialCmd core bank slot word0 s
  | .bankCommandStart core bank slot => Sys2Proof.Machine.execBankCommandStart core bank slot s
  | .computeActivation core => Sys2Proof.Machine.execComputeActivation core s
  | .bankCommandDone core bank slot => Sys2Proof.Machine.execBankCommandDone core bank slot s
  | .bankPause core => Sys2Proof.Machine.execBankPause core s
  | .bankResume core => Sys2Proof.Machine.execBankResume core s
  | .bankOrdinaryAccess core bank => Sys2Proof.Machine.execBankOrdinaryAccess core bank s
  | .bedFence core m => Sys2Proof.Machine.execBedFence core m s
  | .bedCtlCancel core value => Sys2Proof.Machine.execBedCtlCancel core value s
  | .bedCtlClear core value => Sys2Proof.Machine.execBedCtlClear core value s
  | .bedModeWrite core value => Sys2Proof.Machine.execBedModeWrite core value s
  | .bedModeChangeComplete core => Sys2Proof.Machine.execBedModeChangeComplete core s
  | .bedLimitWrite core which value => Sys2Proof.Machine.execBedLimitWrite core which value s
  | .attend list early => Sys2Proof.Machine.execAttend list early s
  | .kvAppend list early => Sys2Proof.Machine.execKvAppend list early s
  | .kvScatter list early => Sys2Proof.Machine.execKvScatter list early s
  | .bankAttend list early => Sys2Proof.Machine.execBankAttend list early s
  | .bankPartialFold core bank slot => Sys2Proof.Machine.execBankPartialFold core bank slot s
  | .merge list early => Sys2Proof.Machine.execMerge list early s
  | .copy list early => Sys2Proof.Machine.execCopy list early s
  | .gather list early => Sys2Proof.Machine.execGather list early s
  | .digestOp list early => Sys2Proof.Machine.execDigestOp list early s
  | .sample list early => Sys2Proof.Machine.execSample list early s
  | .bankFence list early => Sys2Proof.Machine.execBankFence list early s
  | .fence list early => Sys2Proof.Machine.execFence list early s
  | .signal list early => Sys2Proof.Machine.execSignal list early s
  | .wait list early => Sys2Proof.Machine.execWait list early s
  | .waitPoll list => Sys2Proof.Machine.execWaitPoll list s
  | .waitTimeout list => Sys2Proof.Machine.execWaitTimeout list s
  | .launchAt list early => Sys2Proof.Machine.execLaunchAt list early s
  | .launchAtRelease list => Sys2Proof.Machine.execLaunchAtRelease list s
  | .endOp list early => Sys2Proof.Machine.execEndOp list early s
  | .operationComplete list offset => Sys2Proof.Machine.execOperationComplete list offset s
  | .preemptionRequest list => Sys2Proof.Machine.execPreemptionRequest list s
  | .tileBoundaryStop list offset => Sys2Proof.Machine.execTileBoundaryStop list offset s
  | .resumeRecordWrite list => Sys2Proof.Machine.execResumeRecordWrite list s
  | .listResume list => Sys2Proof.Machine.execListResume list s
  | .stackChannelFailureReport stack channel => Sys2Proof.Machine.execStackChannelFailureReport stack channel s
  | .channelPhyTimeout stack channel => Sys2Proof.Machine.execChannelPhyTimeout stack channel s
  | .scrubRead unit => Sys2Proof.Machine.execScrubRead unit s
  | .scrubLapEnd unit => Sys2Proof.Machine.execScrubLapEnd unit s
  | .scrubLate unit => Sys2Proof.Machine.execScrubLate unit s
  | .stackTempRead stack temp critical => Sys2Proof.Machine.execStackTempRead stack temp critical s
  | .stackHotClear stack => Sys2Proof.Machine.execStackHotClear stack s
  | .hello slip => Sys2Proof.Machine.execHello slip s
  | .segAlloc slip => Sys2Proof.Machine.execSegAlloc slip s
  | .segFree slip => Sys2Proof.Machine.execSegFree slip s
  | .segShare slip => Sys2Proof.Machine.execSegShare slip s
  | .segAttach slip => Sys2Proof.Machine.execSegAttach slip s
  | .submit slip => Sys2Proof.Machine.execSubmit slip s
  | .cancel slip => Sys2Proof.Machine.execCancel slip s
  | .transfer slip engines => Sys2Proof.Machine.execTransfer slip engines s
  | .policy slip => Sys2Proof.Machine.execPolicy slip s
  | .floorplan slip hostOk => Sys2Proof.Machine.execFloorplan slip hostOk s
  | .countersRead slip hostOk => Sys2Proof.Machine.execCountersRead slip hostOk s
  | .countersSelect slip => Sys2Proof.Machine.execCountersSelect slip s
  | .traceStart slip => Sys2Proof.Machine.execTraceStart slip s
  | .traceStop slip => Sys2Proof.Machine.execTraceStop slip s
  | .traceFlush slip => Sys2Proof.Machine.execTraceFlush slip s
  | .timesyncRead slip => Sys2Proof.Machine.execTimesyncRead slip s
  | .timesyncArm slip => Sys2Proof.Machine.execTimesyncArm slip s
  | .waitgraph slip hostOk => Sys2Proof.Machine.execWaitgraph slip hostOk s
  | .tenantReset slip => Sys2Proof.Machine.execTenantReset slip s
  | .reservedSlipOpcode slip => Sys2Proof.Machine.execReservedSlipOpcode slip s
  | .doorbell tenant tail => Sys2Proof.Machine.execDoorbell tenant tail s
  | .cqHeadWrite tenant head => Sys2Proof.Machine.execCqHeadWrite tenant head s
  | .heldNoticeWrite tenant => Sys2Proof.Machine.execHeldNoticeWrite tenant s
  | .vector0 tenant => Sys2Proof.Machine.execVector0 tenant s
  | .fatalVector => Sys2Proof.Machine.execFatalVector s
  | .heartbeatReload => Sys2Proof.Machine.execHeartbeatReload s
  | .heartbeatTimeout => Sys2Proof.Machine.execHeartbeatTimeout s
  | .failover => Sys2Proof.Machine.execFailover s
  | .standbyHeartbeatTimeout => Sys2Proof.Machine.execStandbyHeartbeatTimeout s
  | .functionLevelReset tenant => Sys2Proof.Machine.execFunctionLevelReset tenant s
  | .numvfsChange numVfs vfEnable => Sys2Proof.Machine.execNumvfsChange numVfs vfEnable s
  | .listAdmission => Sys2Proof.Machine.execListAdmission s
  | .powerPreemption => Sys2Proof.Machine.execPowerPreemption s
  | .idlePowerMeasurement tower mean => Sys2Proof.Machine.execIdlePowerMeasurement tower mean s
  | .bankLimitUpdate core => Sys2Proof.Machine.execBankLimitUpdate core s
  | .stackIdlePause => Sys2Proof.Machine.execStackIdlePause s
  | .segmentRemoval tenant slot => Sys2Proof.Machine.execSegmentRemoval tenant slot s
  | .zeroing => Sys2Proof.Machine.execZeroing s
  | .transferGranule engine hostBytes pcieOk => Sys2Proof.Machine.execTransferGranule engine hostBytes pcieOk s
  | .lseRevokeWrite owner writer => Sys2Proof.Machine.execLseRevokeWrite owner writer s
  | .revocationComplete => Sys2Proof.Machine.execRevocationComplete s
  | .revocationAckTimeout node => Sys2Proof.Machine.execRevocationAckTimeout node s
  | .resetNRelease straps ioUp => Sys2Proof.Machine.execResetNRelease straps ioUp s
  | .resetNAssert => Sys2Proof.Machine.execResetNAssert s
  | .perstN port low => Sys2Proof.Machine.execPerstN port low s
  | .vauxRise => Sys2Proof.Machine.execVauxRise s
  | .vauxLoss => Sys2Proof.Machine.execVauxLoss s
  | .onRequest domain value => Sys2Proof.Machine.execOnRequest domain value s
  | .offRequest domain value => Sys2Proof.Machine.execOffRequest domain value s
  | .vregCtlClear domain value => Sys2Proof.Machine.execVregCtlClear domain value s
  | .rampComplete domain => Sys2Proof.Machine.execRampComplete domain s
  | .rampFailure domain cause => Sys2Proof.Machine.execRampFailure domain cause s
  | .fuseLoad tower => Sys2Proof.Machine.execFuseLoad tower s
  | .dischargeComplete domain => Sys2Proof.Machine.execDischargeComplete domain s
  | .phaseDrop domain phase sense currents => Sys2Proof.Machine.execPhaseDrop domain phase sense currents s
  | .vinAlert => Sys2Proof.Machine.execVinAlert s
  | .envelopeReturn => Sys2Proof.Machine.execEnvelopeReturn s
  | .brownout vin => Sys2Proof.Machine.execBrownout vin s
  | .sensorConversion tower raw => Sys2Proof.Machine.execSensorConversion tower raw s
  | .sensorFailure tower sensor => Sys2Proof.Machine.execSensorFailure tower sensor s
  | .throttleUpdate tower => Sys2Proof.Machine.execThrottleUpdate tower s
  | .thermalFlagClear tower flag => Sys2Proof.Machine.execThermalFlagClear tower flag s
  | .rthEstimation tower m => Sys2Proof.Machine.execRthEstimation tower m s
  | .thermistorConversion in0 in1 => Sys2Proof.Machine.execThermistorConversion in0 in1 s
  | .governorEvaluation tower millivolts current => Sys2Proof.Machine.execGovernorEvaluation tower millivolts current s
  | .floorPlanUpdate => Sys2Proof.Machine.execFloorPlanUpdate s
  | .icPendSet n value => Sys2Proof.Machine.execIcPendSet n value s
  | .icPendClr n value => Sys2Proof.Machine.execIcPendClr n value s
  | .icMaskSet n value => Sys2Proof.Machine.execIcMaskSet n value s
  | .icMaskClr n value => Sys2Proof.Machine.execIcMaskClr n value s
  | .icTgtEnSet value => Sys2Proof.Machine.execIcTgtEnSet value s
  | .icTgtEnClr value => Sys2Proof.Machine.execIcTgtEnClr value s
  | .icAck target => Sys2Proof.Machine.execIcAck target s
  | .icEoi target value => Sys2Proof.Machine.execIcEoi target value s
  | .asyncLatchSend source => Sys2Proof.Machine.execAsyncLatchSend source s
  | .fuses => Sys2Proof.Machine.execFuses s
  | .power ioUp ramps => Sys2Proof.Machine.execPower ioUp ramps s
  | .links f => Sys2Proof.Machine.execLinks f s
  | .memtest f => Sys2Proof.Machine.execMemtest f s
  | .selftest f => Sys2Proof.Machine.execSelftest f s
  | .firmware first second => Sys2Proof.Machine.execFirmware first second s
  | .fwStartTimeout => Sys2Proof.Machine.execFwStartTimeout s
  | .publish route => Sys2Proof.Machine.execPublish route s
  | .towerOff => Sys2Proof.Machine.execTowerOff s
  | .reservedBootCommand code => Sys2Proof.Machine.execReservedBootCommand code s
  | .bootStepComplete => Sys2Proof.Machine.execBootStepComplete s
  | .flogCtlClear x => Sys2Proof.Machine.execFlogCtlClear x s
  | .i3cIndexWrite x index => Sys2Proof.Machine.execI3cIndexWrite x index s
  | .i3cRead x => Sys2Proof.Machine.execI3cRead x s
  | .ctrSelWrite unit n value => Sys2Proof.Machine.execCtrSelWrite unit n value s
  | .traceRecord tower r => Sys2Proof.Machine.execTraceRecord tower r s
  | .tenantWatchdog tenant => Sys2Proof.Machine.execTenantWatchdog tenant s
  | .watchdogWaitEnd tenant => Sys2Proof.Machine.execWatchdogWaitEnd tenant s
  | .coreSample => Sys2Proof.Machine.execCoreSample s
  | .coreSampleComplete ok size => Sys2Proof.Machine.execCoreSampleComplete ok size s
  | .indicatorTestPulse lamp lampOpen => Sys2Proof.Machine.execIndicatorTestPulse lamp lampOpen s
  | .bypass tdi => Sys2Proof.Machine.execBypass tdi s
  | .idcode => Sys2Proof.Machine.execIdcode s
  | .samplePreload => Sys2Proof.Machine.execSamplePreload s
  | .controlSramUncorrectable standby offset => Sys2Proof.Machine.execControlSramUncorrectable standby offset s
  | .pcieCompletionTimeout engine => Sys2Proof.Machine.execPcieCompletionTimeout engine s
  | .vinAlertRelease => Sys2Proof.Machine.execVinAlertRelease s
  | .spareLaneLock port => Sys2Proof.Machine.execSpareLaneLock port s
  | .spanPortTrained port f => Sys2Proof.Machine.execSpanPortTrained port f s
  | .guestLinkUp guest rate x64 => Sys2Proof.Machine.execGuestLinkUp guest rate x64 s

end Sys2Proof.Machine
end

