-- ==== Sys2Proof/Safety.lean ====
section
/-! DEFINITION. What claims say of runs: answering a state, the canonical form of every map of the state, and the parts of a
state that no command but a reset changes. -/

namespace Sys2Proof.Machine

/-- A command runs: it answers a next state. -/
def Answers (o : Host.Outcome State Fault Refusal) (t : State) : Prop := o = .next t

/-- Every byte map of the state is in canonical form: equal contents are equal data. -/
def State.memWf (s : State) : Bool :=
  Memory.wf s.mem && Memory.wf s.stores && Memory.wf s.fplan

/-- The register map and the boot window are in canonical form. -/
def State.regsWf (s : State) : Bool := mapWf (regReset s.fuses) s.regs && mapWf bootReset s.boot

/-- What the part was made as, and what it has in the queue, are the same in two states. -/
def SameMake (s t : State) : Prop := t.fuses = s.fuses ∧ t.pending = s.pending

/-- A run of k steps never stops. -/
def RunsOn (s : State) : Nat → Prop
  | 0 => True
  | k + 1 => ∃ t, step s = .next t ∧ RunsOn t k

/-! ### Parts of the state -/

/-- The parts of the state, one for each field but the fuses and the register map. -/
inductive Piece where
  | pending | out | freeCtr | now | tb | vaux | resetN | brownedOut | x0Lost | perstLow | straps | boot | bootRun |
  mem | checks | stores | fplan | fpDirty | coreState | towerState | bankRetired | chanMapped | chanPoisoned |
  guestPresent | published | cores | beds | hbm | domains | thermal | vinAlert | vinHighSince | vinReturned | capIo |
  capTc | ports | guests | reqs | quiesced | spanLost | retiredSubs | ic | flog0 | flog1 | fatal | mbox | numVfs |
  vfEnable | vfPending | resets | alive | standby | hbActive | hbStandby | fwBuild | failovers | fwDead | segs |
  removing | keys | usedKeys | leases | revocation | engines | xfers | zeroing | lists | nextList | issueOrder |
  tagCtr | vCeiling | bankMode | pkgCap | rthInterval | preemptWait | stackIdle | vFloor | clamps | pauseUntil |
  lastPause | progress | watchdogs | traceDrops | lossRecords | sampling | lampCheck
deriving DecidableEq, Repr

/-- One part holds the same in two states. -/
def State.samePart (s t : State) : Piece → Prop
  | .pending => t.pending = s.pending
  | .out => t.out = s.out
  | .freeCtr => t.freeCtr = s.freeCtr
  | .now => t.now = s.now
  | .tb => t.tb = s.tb
  | .vaux => t.vaux = s.vaux
  | .resetN => t.resetN = s.resetN
  | .brownedOut => t.brownedOut = s.brownedOut
  | .x0Lost => t.x0Lost = s.x0Lost
  | .perstLow => t.perstLow = s.perstLow
  | .straps => t.straps = s.straps
  | .boot => t.boot = s.boot
  | .bootRun => t.bootRun = s.bootRun
  | .mem => t.mem = s.mem
  | .checks => t.checks = s.checks
  | .stores => t.stores = s.stores
  | .fplan => t.fplan = s.fplan
  | .fpDirty => t.fpDirty = s.fpDirty
  | .coreState => t.coreState = s.coreState
  | .towerState => t.towerState = s.towerState
  | .bankRetired => t.bankRetired = s.bankRetired
  | .chanMapped => t.chanMapped = s.chanMapped
  | .chanPoisoned => t.chanPoisoned = s.chanPoisoned
  | .guestPresent => t.guestPresent = s.guestPresent
  | .published => t.published = s.published
  | .cores => t.cores = s.cores
  | .beds => t.beds = s.beds
  | .hbm => t.hbm = s.hbm
  | .domains => t.domains = s.domains
  | .thermal => t.thermal = s.thermal
  | .vinAlert => t.vinAlert = s.vinAlert
  | .vinHighSince => t.vinHighSince = s.vinHighSince
  | .vinReturned => t.vinReturned = s.vinReturned
  | .capIo => t.capIo = s.capIo
  | .capTc => t.capTc = s.capTc
  | .ports => t.ports = s.ports
  | .guests => t.guests = s.guests
  | .reqs => t.reqs = s.reqs
  | .quiesced => t.quiesced = s.quiesced
  | .spanLost => t.spanLost = s.spanLost
  | .retiredSubs => t.retiredSubs = s.retiredSubs
  | .ic => t.ic = s.ic
  | .flog0 => t.flog0 = s.flog0
  | .flog1 => t.flog1 = s.flog1
  | .fatal => t.fatal = s.fatal
  | .mbox => t.mbox = s.mbox
  | .numVfs => t.numVfs = s.numVfs
  | .vfEnable => t.vfEnable = s.vfEnable
  | .vfPending => t.vfPending = s.vfPending
  | .resets => t.resets = s.resets
  | .alive => t.alive = s.alive
  | .standby => t.standby = s.standby
  | .hbActive => t.hbActive = s.hbActive
  | .hbStandby => t.hbStandby = s.hbStandby
  | .fwBuild => t.fwBuild = s.fwBuild
  | .failovers => t.failovers = s.failovers
  | .fwDead => t.fwDead = s.fwDead
  | .segs => t.segs = s.segs
  | .removing => t.removing = s.removing
  | .keys => t.keys = s.keys
  | .usedKeys => t.usedKeys = s.usedKeys
  | .leases => t.leases = s.leases
  | .revocation => t.revocation = s.revocation
  | .engines => t.engines = s.engines
  | .xfers => t.xfers = s.xfers
  | .zeroing => t.zeroing = s.zeroing
  | .lists => t.lists = s.lists
  | .nextList => t.nextList = s.nextList
  | .issueOrder => t.issueOrder = s.issueOrder
  | .tagCtr => t.tagCtr = s.tagCtr
  | .vCeiling => t.vCeiling = s.vCeiling
  | .bankMode => t.bankMode = s.bankMode
  | .pkgCap => t.pkgCap = s.pkgCap
  | .rthInterval => t.rthInterval = s.rthInterval
  | .preemptWait => t.preemptWait = s.preemptWait
  | .stackIdle => t.stackIdle = s.stackIdle
  | .vFloor => t.vFloor = s.vFloor
  | .clamps => t.clamps = s.clamps
  | .pauseUntil => t.pauseUntil = s.pauseUntil
  | .lastPause => t.lastPause = s.lastPause
  | .progress => t.progress = s.progress
  | .watchdogs => t.watchdogs = s.watchdogs
  | .traceDrops => t.traceDrops = s.traceDrops
  | .lossRecords => t.lossRecords = s.lossRecords
  | .sampling => t.sampling = s.sampling
  | .lampCheck => t.lampCheck = s.lampCheck

/-- The kinds of registers: one for each name of a register, whatever its unit and number. -/
inductive RegKind where
  | stepmon | mxstat | mxsatcnt | vcstat | vcsatcnt | qsctl | qswin | qselem | qstot | qsstat | bedMode | bedQuota |
  bedTiming0 | bedTiming1 | bedStatus | bedCtl | bedFence | bedDonecnt | bedBusymap | bedSatcnt | bedScrubCtl |
  bedScrubLap | bedScrubCur | bedCe | bedUe | bedLastue | memStat | memScrubCtl | memScrubLap | memScrubCur |
  memInject | memChstat | memChce | memChue | memChpoison | fabStat | fabReplay | fabDiscard | fabRt | spnPrt |
  voyGctl | voyGstat | voyLocal | voyPeer | spnCtl | spnStat | spnRxmap | spnTxmap | spnLanest | spnCecnt | spnUecnt |
  spnReplay | spnLaneloss | spnDiscard | vregCtl | vregStat | vregMeas | vregPhasest | twrUvcnt | vinStat |
  vinAlertcnt | thstat | thcoef | env | vgov | vstat | clampcnt | tsens | pkgCoolant | pkgPower | pkgHardpan | icCfg |
  icLost | icTgtSet | icTgtClr | icPendSet | icPendClr | icMaskSet | icMaskClr | icActive | icPrio | icAck | icEoi |
  icRun | tbCount | tbPreset | tbCtl | tbStat | tbLastload | rngSeed | detNondet | lseRevoke | lseStat | lease |
  segWord | teStat | teGranules | flogSeq | flogStat | flogCtl | csCtl | csStat | csAddr | csLen | trcWr | trcRd |
  trcDrop | trcClass | ctrSel | ctrVal | indCtl | indStat
deriving DecidableEq, Repr

def RegKind.all : List RegKind := [.stepmon, .mxstat, .mxsatcnt, .vcstat, .vcsatcnt, .qsctl, .qswin, .qselem, .qstot,
    .qsstat, .bedMode, .bedQuota, .bedTiming0, .bedTiming1, .bedStatus, .bedCtl, .bedFence, .bedDonecnt, .bedBusymap,
    .bedSatcnt, .bedScrubCtl, .bedScrubLap, .bedScrubCur, .bedCe, .bedUe, .bedLastue, .memStat, .memScrubCtl,
    .memScrubLap, .memScrubCur, .memInject, .memChstat, .memChce, .memChue, .memChpoison, .fabStat, .fabReplay,
    .fabDiscard, .fabRt, .spnPrt, .voyGctl, .voyGstat, .voyLocal, .voyPeer, .spnCtl, .spnStat, .spnRxmap, .spnTxmap,
    .spnLanest, .spnCecnt, .spnUecnt, .spnReplay, .spnLaneloss, .spnDiscard, .vregCtl, .vregStat, .vregMeas,
    .vregPhasest, .twrUvcnt, .vinStat, .vinAlertcnt, .thstat, .thcoef, .env, .vgov, .vstat, .clampcnt, .tsens,
    .pkgCoolant, .pkgPower, .pkgHardpan, .icCfg, .icLost, .icTgtSet, .icTgtClr, .icPendSet, .icPendClr, .icMaskSet,
    .icMaskClr, .icActive, .icPrio, .icAck, .icEoi, .icRun, .tbCount, .tbPreset, .tbCtl, .tbStat, .tbLastload,
    .rngSeed, .detNondet, .lseRevoke, .lseStat, .lease, .segWord, .teStat, .teGranules, .flogSeq, .flogStat, .flogCtl,
    .csCtl, .csStat, .csAddr, .csLen, .trcWr, .trcRd, .trcDrop, .trcClass, .ctrSel, .ctrVal, .indCtl, .indStat]

def Reg.kind : Reg → RegKind
  | .stepmon _ => .stepmon
  | .mxstat _ => .mxstat
  | .mxsatcnt _ => .mxsatcnt
  | .vcstat _ => .vcstat
  | .vcsatcnt _ => .vcsatcnt
  | .qsctl _ _ => .qsctl
  | .qswin _ _ => .qswin
  | .qselem _ _ => .qselem
  | .qstot _ _ => .qstot
  | .qsstat _ => .qsstat
  | .bedMode _ => .bedMode
  | .bedQuota _ => .bedQuota
  | .bedTiming0 _ => .bedTiming0
  | .bedTiming1 _ => .bedTiming1
  | .bedStatus _ => .bedStatus
  | .bedCtl _ => .bedCtl
  | .bedFence _ => .bedFence
  | .bedDonecnt _ => .bedDonecnt
  | .bedBusymap _ _ => .bedBusymap
  | .bedSatcnt _ => .bedSatcnt
  | .bedScrubCtl _ => .bedScrubCtl
  | .bedScrubLap _ => .bedScrubLap
  | .bedScrubCur _ => .bedScrubCur
  | .bedCe _ => .bedCe
  | .bedUe _ => .bedUe
  | .bedLastue _ => .bedLastue
  | .memStat _ => .memStat
  | .memScrubCtl _ => .memScrubCtl
  | .memScrubLap _ => .memScrubLap
  | .memScrubCur _ => .memScrubCur
  | .memInject _ => .memInject
  | .memChstat _ _ => .memChstat
  | .memChce _ _ => .memChce
  | .memChue _ _ => .memChue
  | .memChpoison _ _ => .memChpoison
  | .fabStat _ => .fabStat
  | .fabReplay _ => .fabReplay
  | .fabDiscard _ => .fabDiscard
  | .fabRt _ _ => .fabRt
  | .spnPrt _ _ => .spnPrt
  | .voyGctl _ => .voyGctl
  | .voyGstat _ => .voyGstat
  | .voyLocal _ _ => .voyLocal
  | .voyPeer _ _ => .voyPeer
  | .spnCtl _ => .spnCtl
  | .spnStat _ => .spnStat
  | .spnRxmap _ => .spnRxmap
  | .spnTxmap _ => .spnTxmap
  | .spnLanest _ => .spnLanest
  | .spnCecnt _ => .spnCecnt
  | .spnUecnt _ => .spnUecnt
  | .spnReplay _ => .spnReplay
  | .spnLaneloss _ => .spnLaneloss
  | .spnDiscard _ => .spnDiscard
  | .vregCtl _ => .vregCtl
  | .vregStat _ => .vregStat
  | .vregMeas _ => .vregMeas
  | .vregPhasest _ => .vregPhasest
  | .twrUvcnt _ => .twrUvcnt
  | .vinStat => .vinStat
  | .vinAlertcnt => .vinAlertcnt
  | .thstat _ => .thstat
  | .thcoef _ => .thcoef
  | .env _ => .env
  | .vgov _ => .vgov
  | .vstat _ => .vstat
  | .clampcnt _ => .clampcnt
  | .tsens _ _ => .tsens
  | .pkgCoolant => .pkgCoolant
  | .pkgPower => .pkgPower
  | .pkgHardpan => .pkgHardpan
  | .icCfg => .icCfg
  | .icLost => .icLost
  | .icTgtSet => .icTgtSet
  | .icTgtClr => .icTgtClr
  | .icPendSet _ => .icPendSet
  | .icPendClr _ => .icPendClr
  | .icMaskSet _ => .icMaskSet
  | .icMaskClr _ => .icMaskClr
  | .icActive _ => .icActive
  | .icPrio _ => .icPrio
  | .icAck _ => .icAck
  | .icEoi _ => .icEoi
  | .icRun _ => .icRun
  | .tbCount => .tbCount
  | .tbPreset => .tbPreset
  | .tbCtl => .tbCtl
  | .tbStat => .tbStat
  | .tbLastload => .tbLastload
  | .rngSeed _ => .rngSeed
  | .detNondet _ => .detNondet
  | .lseRevoke => .lseRevoke
  | .lseStat => .lseStat
  | .lease _ => .lease
  | .segWord _ _ => .segWord
  | .teStat _ => .teStat
  | .teGranules _ => .teGranules
  | .flogSeq _ => .flogSeq
  | .flogStat _ => .flogStat
  | .flogCtl _ => .flogCtl
  | .csCtl => .csCtl
  | .csStat => .csStat
  | .csAddr => .csAddr
  | .csLen => .csLen
  | .trcWr _ => .trcWr
  | .trcRd _ => .trcRd
  | .trcDrop _ => .trcDrop
  | .trcClass _ => .trcClass
  | .ctrSel _ _ => .ctrSel
  | .ctrVal _ _ => .ctrVal
  | .indCtl _ => .indCtl
  | .indStat _ => .indStat

/-- From `s` to `t` nothing changed but the listed parts (the fuses never do), and of the register map nothing but the registers of the listed
kinds: the value at every offset that no such register has is what it was. -/
structure Only (ps : List Piece) (ks : List RegKind) (s t : State) : Prop where
  make : t.fuses = s.fuses
  part : ∀ p, p ∉ ps → s.samePart t p
  reg : ∀ o, (∀ r : Reg, r.kind ∈ ks → r.off ≠ o) → look (regReset t.fuses) t.regs o = look (regReset s.fuses) s.regs o

end Sys2Proof.Machine
end

