-- ==== Sys2Proof/Certificates/Slice0/Obligations.lean ====
section
/-! DEFINITION. The statements about the part, in the order of the specification's chapters. Names under Claims spell out
once what several statements say. -/

namespace Sys2Proof.Claims

open Sys2Proof Sys2Proof.Machine

/-- The entry in a slot of a copy of the fault log. -/
def slot (f : Flog) (i : Nat) : Option FlogEntry := (f.slots.find? fun y => y.1 = i).map (·.2)

/-- R412, R413: from `f` to `g` a writer took an entry: it has the next number, modulo 2^32 skipping 0, and stands in slot
number mod 8192; every other slot and flag stays. A writer that is gone takes none. -/
def logged (f g : Flog) (e : FlogBody) : Prop :=
  if f.writerOk then
    let q := if (f.seq + 1) % 2 ^ 32 = 0 then 1 else (f.seq + 1) % 2 ^ 32
    g.seq = q ∧ slot g (q % 8192) = some ⟨q, e⟩ ∧ (∀ i, i ≠ q % 8192 → slot g i = slot f i) ∧
      g.writerOk = f.writerOk ∧ g.peerOk = f.peerOk ∧ g.ue = f.ue ∧ g.i3cIndex = f.i3cIndex
  else g = f

/-- Register n of the interrupt controller names source m in a written word. -/
def named (n : Nat) (value : Word) (m : Nat) : Bool := decide (m / 32 = n) && nbit value.toNat (m % 32)

/-- From `s` to `t` both fault logs took an entry. -/
def logs (s t : State) (e : FlogBody) : Prop := logged s.flog0 t.flog0 e ∧ logged s.flog1 t.flog1 e

/-- Table 19-2: an entry stamped with the timebase count of `s`; die is 0 to 7 for a tower, 0x10 to 0x13 for an I/O die. -/
def entry (s : State) (code sev die node tenant d0 d1 : Nat) : FlogBody :=
  ⟨BitVec.ofNat 64 s.tb.count, BitVec.ofNat 16 code, BitVec.ofNat 8 sev, BitVec.ofNat 8 die, BitVec.ofNat 16 node,
    BitVec.ofNat 16 tenant, BitVec.ofNat 32 d0, BitVec.ofNat 64 d1⟩

/-- R362, R365: an edge at source n makes it pending, if the source is idle and its event can reach the controller. -/
def raises (s t : State) (n : Nat) : Prop :=
  s.x0Lost = false → s.srcHeld n = false → (srcDie n < 8 → (s.dom (srcDie n)).state = .on) → (s.ic.src n).mode = .idle →
    (t.ic.src n).mode = .pending

/-- R290, R292: the 64 bytes of the completion that a mailbox writes at its tail. -/
def completion (m : Mailbox) (opcode tag status : Nat) (body : List Byte) : List Byte :=
  leBytes 1 opcode ++ leBytes 1 status ++ leBytes 1 (1 - m.cqTail / 32 % 2) ++ leBytes 1 0 ++ leBytes 4 tag ++
    (body ++ List.replicate 56 0).take 56

/-- R287, R290 to R292: firmware took slip `x` at the head of its mailbox and completed it. `m` is the mailbox as the slip
leaves it apart from its rings; every other mailbox stays. -/
def answered (m : Mailbox) (s t : State) (x : Slip) (status : Nat) (body : List Byte) : Prop :=
  t.mb x.t = { m with sqHead := (m.sqHead + 1) % 2 ^ 32, cqTail := (m.cqTail + 1) % 2 ^ 32, cq := (t.mb x.t).cq,
                      vec0 := if m.irq && !x.quiet then m.vec0.request else m.vec0 } ∧
  rdBytes (t.mb x.t).cq (m.cqTail % 32 * 64) 64 = completion m x.opcode x.tag status body ∧
  (∀ a, a < m.cqTail % 32 * 64 ∨ m.cqTail % 32 * 64 + 64 ≤ a → rdB (t.mb x.t).cq a = rdB m.cq a) ∧
  ∀ u, u ≠ x.t → t.mb u = s.mb u

/-- R287, R291, R297: firmware can take the slip, which is whole and bears an opcode. -/
def taken (s : State) (x : Slip) (op : Nat) : Bool :=
  s.canTakeSlip x.t && decide (x.bytes.length = 64) && decide (x.opcode = op)

/-- R290, R296: the slip is taken, a session exists, and every byte outside the named fields is zero. -/
def accepted (s : State) (x : Slip) (op : Nat) (fields : List (Nat × Nat)) : Bool :=
  taken s x op && (s.mb x.t).session && x.clean fields

/-- Tables 12-8 and 12-10: the slip of a command, its opcode, whether it is for the physical function only, and its
body's fields. A command whose slip firmware cannot begin now, or whose action is another command's, has none. -/
def slipRow (s : State) : Instr → Option (Slip × Nat × Bool × List (Nat × Nat))
  | .hello x => some (x, 0x01, false, [(0x08, 2), (0x0A, 2), (0x0C, 4)])
  | .segAlloc x => some (x, 0x02, false, [(0x08, 8), (0x10, 1), (0x11, 1), (0x12, 1), (0x13, 1), (0x14, 4)])
  | .segFree x => some (x, 0x03, false, [(0x10, 1)])
  | .segShare x => some (x, 0x04, false, [(0x10, 1), (0x13, 1), (0x14, 2)])
  | .segAttach x => some (x, 0x05, false, [(0x08, 4), (0x0C, 2), (0x10, 1)])
  | .submit x => some (x, 0x06, false, [(0x08, 8), (0x10, 1)])
  | .cancel x => some (x, 0x07, false, [(0x08, 4)])
  | .transfer x engines =>
    if (List.range 32).any s.engineLive && (s.chosenEngines (engines.map Fin.val)).isEmpty then none
    else some (x, 0x08, false, [(0x08, 8), (0x10, 8), (0x18, 8), (0x20, 1)])
  | .policy x => some (x, 0x09, false, [(0x08, 2), (0x0A, 1), (0x0C, 4)])
  | .floorplan x _ => some (x, 0x0A, false, [(0x08, 8)])
  | .countersRead x _ =>
    if x.f 8 1 = 1 then none else some (x, 0x0B, false, [(0x08, 1), (0x09, 1), (0x0A, 2), (0x0C, 1), (0x10, 4), (0x18, 8)])
  | .countersSelect x =>
    if x.f 8 1 ≠ 1 || s.selectWaits x then none
    else some (x, 0x0B, true, [(0x08, 1), (0x09, 1), (0x0A, 2), (0x0C, 1), (0x10, 4), (0x18, 8)])
  | .traceStart x => if x.f 8 1 = 1 then some (x, 0x0C, true, [(0x08, 1), (0x09, 1), (0x10, 8)]) else none
  | .traceStop x =>
    if x.f 8 1 = 1 || x.f 8 1 = 2 then none else some (x, 0x0C, true, [(0x08, 1), (0x09, 1), (0x10, 8)])
  | .traceFlush x => if x.f 8 1 = 2 then some (x, 0x0C, true, [(0x08, 1), (0x09, 1), (0x10, 8)]) else none
  | .timesyncRead x => if x.f 8 1 = 1 then none else some (x, 0x0D, false, [(0x08, 1), (0x10, 8)])
  | .timesyncArm x => if x.f 8 1 = 1 then some (x, 0x0D, true, [(0x08, 1), (0x10, 8)]) else none
  | .waitgraph x _ => some (x, 0x0E, false, [(0x08, 8), (0x10, 4)])
  | .tenantReset x => some (x, 0x0F, true, [(0x08, 2)])
  | _ => none

/-- Table 18-2: the code of a boot command. -/
def bootRow : Instr → Option Nat
  | .fuses => some 2
  | .power _ _ => some 3
  | .links _ => some 4
  | .memtest _ => some 5
  | .selftest _ => some 6
  | .firmware _ _ => some 7
  | .publish _ => some 8
  | .towerOff => some 0x10
  | .reservedBootCommand code => if [2, 3, 4, 5, 6, 7, 8, 0x10].contains code.toNat then none else some code.toNat
  | _ => none

/-- R388 to R390: a written command starts its step: BAR0 answers, no step runs, TEST is clear, the command is allowed and
no reserved argument bit is set. -/
def bootStarts (s : State) (cmd : Nat) : Bool :=
  s.bar0Up && s.bootRun.isNone && !nbit s.straps 11 && s.bootAllows cmd && s.bootArgsOk cmd

/-- The step of a command has been started with this result, which its end reports. -/
def stepIs (s t : State) (cmd code detail : Nat) : Prop := t.bootRun = some ⟨cmd, s.now, code, detail, true⟩

/-- A message of this package, for this package, from a node that is no guest and whose die works. -/
def inside (s : State) (m : Msg) : Bool :=
  s.running && decide (m.srcPkg.toNat = s.pkgId) && decide (m.dstPkg.toNat = s.pkgId) && (guestOf m.srcNode.toNat).isNone &&
    (match nodeDie m.srcNode.toNat with
      | some d => !s.dieLost d
      | none => false)

/-- Such a message for external memory or bed memory that the crossbar of its source reaches. -/
def toMemory (s : State) (m : Msg) : Bool :=
  inside s m && !s.unreached ((nodeDie m.srcNode.toNat).getD 0) m.addr.toNat &&
    decide (m.addr.toNat / 2 ^ 40 ≠ 0x3F) && decide (m.addr.toNat / 2 ^ 40 ≠ 0x20)

/-- The range is populated memory whose sectors hold clean codewords, on no poisoned channel. -/
def sound (s : State) (a n : Nat) : Bool :=
  decide (s.rangeAcc a n = .ok) && (sectorsOf a n).all fun q => s.checks.all (fun c => decide (c.1 ≠ q / 64)) &&
    !(match s.locate q with
      | .ext n c _ => s.poisoned n c
      | _ => false)

/-- No error is injected into the next write (R208). -/
def quiet (s : State) : Bool := (List.range 12).all fun n => !s.regBit (.memInject n) 63

/-- From `s` to `t` the bytes from `a` upward are `bs`, and every other byte of memory is what it was. -/
def stored (s t : State) (a : Nat) (bs : List Byte) : Prop :=
  ∀ b, rdB t.mem b = if a ≤ b ∧ b < a + bs.length then bs.getD (b - a) 0 else rdB s.mem b

/-- No request of the message's source waits under its tag. -/
def unasked (s : State) (m : Msg) : Bool := s.reqs.all fun r => !(r.node = m.srcNode.toNat && r.tag = m.tag.toNat)

/-- The node that answers for an address. -/
def target (s : State) (a : Nat) : Nat := (s.targetNode a).getD 0x70

/-- The three responses: their command, by the operation that the message bears. -/
def rspRow (m : Msg) : Option Instr :=
  if m.cls ≠ 0 then none else if m.op = 0 then some (.dataRsp m) else if m.op = 1 then some (.ackRsp m)
  else if m.op = 2 then some (.errorRsp m) else none

/-- Registers whose writes have no effect beyond their own bits. -/
def simple : Reg → Bool
  | .stepmon _ | .bedQuota _ | .bedTiming0 _ | .bedTiming1 _ | .bedScrubCtl _ | .memScrubCtl _ | .memInject _ | .fabRt _ _
  | .spnPrt _ _ | .thcoef _ | .env _ | .vgov _ | .rngSeed _ | .csAddr | .csLen | .trcRd _ | .trcClass _ | .memStat _
  | .fabStat _ | .thstat _ | .mxstat _ | .vcstat _ => true
  | _ => false

/-- The 64 bytes of a command slot once its word 0 is written. -/
def slotWords (s : State) (k slot : Nat) (w0 : DWord) : List Byte :=
  leBytes 8 w0.toNat ++ rdBytes s.mem (windowBase k + commandOff slot + 8) 56

/-- The header that a result slot of core k holds. -/
def header (s : State) (k slot : Nat) : List Byte := rdBytes s.mem (windowBase k + resultOff slot) 8

/-- No BANK_ATTEND is under way. -/
def noBankAttend (s : State) : Prop := ∀ l, l ∈ s.lists → ∀ o, o ∈ l.ops → ¬ (o.opcode = 6 ∧ o.stage = .started)

/-- The operation that a list issues next, as it stands before its checks. -/
def newOp (s : State) (l : WorkList) (bs : List Byte) : Op :=
  { offset := l.next, bytes := bs, issuedAt := s.now, lastPoll := s.now, order := s.issueOrder }

/-- R258, R261: list `id` can issue, its next operation `o` bears the opcode, reads cleanly and passes every check. -/
def passes (s : State) (id : Nat) (early : Option (List Byte)) (opc : Nat) (rules : State → WorkList → Op → OpErr)
    (l : WorkList) (o : Op) : Prop :=
  s.list? id = some l ∧ s.canIssue l = true ∧ l.op? l.next = none ∧ (s.fetchOp l early).acc = .ok ∧ (s.fetchOp l early).s = s ∧
    o = newOp s l (s.fetchOp l early).data ∧ o.opcode = opc ∧ (o.fenceBefore = false ∨ l.ops = []) ∧
    l.next + opUnits opc ≤ l.units ∧ wordCheck o.bytes = none ∧ s.coreCheck l o = none ∧ rules s l o = none ∧
    s.listExtents l o = none

/-- An opcode without field rules of its own. -/
def noRules : State → WorkList → Op → OpErr := fun _ _ _ => none

/-- R270: the field rules of SIGNAL. -/
def signalRules : State → WorkList → Op → OpErr := fun s l o =>
  orErr (need (o.f 0x18 1 < 4) (malformed 0x18))
    (orErr (need (if nbit (o.f 0x18 1) 0 then o.f 0x19 1 < 64 else o.f 0x19 1 = 0) (malformed 0x19))
      (semRules s l (o.f 8 8) (nbit (o.f 0x18 1) 0)))

/-- The operation rows: list, an earlier copy of the bytes, and opcode (Table 11-4). -/
def opRow : Instr → Option (Nat × Option (List Byte) × Nat)
  | .matmul l e => some (l, e, 0x01)
  | .vchain l e => some (l, e, 0x02)
  | .attend l e => some (l, e, 0x03)
  | .kvAppend l e => some (l, e, 0x04)
  | .kvScatter l e => some (l, e, 0x05)
  | .bankAttend l e => some (l, e, 0x06)
  | .merge l e => some (l, e, 0x07)
  | .copy l e => some (l, e, 0x08)
  | .gather l e => some (l, e, 0x09)
  | .bankFence l e => some (l, e, 0x0A)
  | .fence l e => some (l, e, 0x10)
  | .signal l e => some (l, e, 0x11)
  | .wait l e => some (l, e, 0x12)
  | .digestOp l e => some (l, e, 0x13)
  | .sample l e => some (l, e, 0x14)
  | .launchAt l e => some (l, e, 0x15)
  | .endOp l e => some (l, e, 0x1F)
  | _ => none

/-- R270, R139: the field rules of BANK_FENCE. -/
def bankFenceRules : State → WorkList → Op → OpErr := fun s l o =>
  let cs := (List.range 64).filter fun k => nbit (o.f 8 8) k
  orErr (need (cs.all fun k => num s.coreState k = 0 || num s.coreState k = 3) (malformed 8))
    (need (cs.all fun k => num s.coreState k = 3 || (List.range 16).any fun i =>
      match s.seg? l.tenant i with
      | some g => g.bed && g.core = k && Nat.land g.rights rBank = rBank
      | none => false) (segErr 8))

/-- R258: the list once it has issued `o`. -/
def listWith (l : WorkList) (o : Op) : WorkList :=
  { l with next := l.next + opUnits o.opcode, ops := l.ops ++ [o], endIssued := o.opcode = 0x1F }

/-- R258, R275: the state in which operation `o` of list `l` has been issued and its unit takes it over: status RUNNING
stands in its record, if it has one. -/
def issued (s : State) (l : WorkList) (o : Op) : State :=
  let s1 := { s with issueOrder := s.issueOrder + 1 }.setList (listWith l o)
  let s2 := if o.wantsRecord then s1.writeRecord (listWith l o) o [0xFF] else s1
  if opHasCore o.opcode then s2.ctr o.core 0x50 1 else s2

/-- Operation `off` of list `id` stands at this stage with this status. -/
def opAt (t : State) (id off : Nat) (stage : OpStage) (status : Nat) : Prop :=
  (t.op? id off).map (fun o => (o.stage, o.status)) = some (stage, status)

/-- The bytes at a place of core k. -/
def bytesAt (s : State) (k : Nat) : Place → Nat → List Byte
  | .dev a _, n => rdBytes s.mem a n
  | .acc o, n => rdBytes s.stores (storeBase k + o) n
  | .stage o, n => rdBytes s.stores (stageBase k + o) n

/-- A place whose n bytes can be read and written. -/
def usable (s : State) (p : Place) (n : Nat) : Bool :=
  match p with
  | .dev a _ => sound s a n
  | _ => true

/-- No byte but those of the rows at a place of core k changes, in memory or in a store. -/
def onlyAt (s t : State) (k : Nat) (p : Place) (r : Rows) : Prop :=
  let off (a b : Nat) : Prop := ∀ i, i < r.rows → b < a + r.at i ∨ a + r.at i + r.len ≤ b
  match p with
  | .dev a _ => t.stores = s.stores ∧ ∀ b, off a b → rdB t.mem b = rdB s.mem b
  | .acc o => t.mem = s.mem ∧ ∀ b, off (storeBase k + o) b → rdB t.stores b = rdB s.stores b
  | .stage o => t.mem = s.mem ∧ ∀ b, off (stageBase k + o) b → rdB t.stores b = rdB s.stores b

/-- No byte of memory or of a store changes. -/
def noBytes (s t : State) : Prop := t.mem = s.mem ∧ t.stores = s.stores

/-- What issuing an operation and running it may touch. -/
def listParts : List Piece := [.mem, .checks, .stores, .fpDirty, .chanPoisoned, .hbm, .ic, .flog0, .flog1, .mbox, .lists, .issueOrder]
def listRegs : List RegKind := [.bedCe, .bedUe, .bedLastue, .memStat, .memInject, .memChstat, .memChce, .memChue, .memChpoison,
  .fabStat, .fabDiscard, .ctrVal]
/-- The status registers of array, chain and quantise counters. -/
def unitRegs : List RegKind := [.mxstat, .mxsatcnt, .vcstat, .vcsatcnt, .qswin, .qselem, .qstot, .qsstat]
/-- What a message to another package may touch. -/
def sendParts : List Piece := [.out, .ports, .reqs, .tagCtr]

/-- R302: the body of a SUBMIT completion. -/
def submitted (s : State) (l : WorkList) (status off : Nat) : List Byte :=
  leBytes 1 status ++ List.replicate 3 0 ++ leBytes 4 off ++ leBytes 8 l.admitted ++ leBytes 8 s.tb.count

/-- R302: the SUBMIT of a list that no CANCEL names completes with a slip status, a status and an operation offset; the list
is gone. -/
def reported (s t : State) (l : WorkList) (slipStatus status off : Nat) : Prop :=
  t.list? l.id = none ∧ ∀ x, (s.mb l.tenant).live.find? (fun y => y.opcode = 0x06 && y.tag = l.tag) = some x → l.cancelTags = [] →
    (t.mb l.tenant).cqTail = ((s.mb l.tenant).cqTail + 1) % 2 ^ 32 ∧
    rdBytes (t.mb l.tenant).cq ((s.mb l.tenant).cqTail % 32 * 64) 64 =
      completion (s.mb l.tenant) 0x06 l.tag slipStatus (submitted s l status off)

/-- The whole resume area of a list (R278). -/
def resumeArea : Rows := plain (0x10000 + 8 * imageBytes)

/-- R54 to R57: rows of the tiles that one weight set serves, one column each: what the accumulator range holds afterwards. -/
def streamed (s t : State) (l : WorkList) (o : Op) (w : WSet) : Prop :=
  t.mem = s.mem ∧
  (∀ n r c, w.tile ≤ n → n < mmGroupEnd o w.tile → r < (mmTile o n).rows → c < (mmTile o n).cols →
    let x := mmTile o n
    let row := x.row0 + r
    let acts := (List.range x.depth).map fun k => rdLe s.stores
      (stageBase o.core + refOff (mmActs o) + row * mmActPitch o + (x.k * mmKd o + k) * mmActSize o) (mmActSize o)
    let out := storeBase o.core + refOff (mmAcc o) + row * mmAccPitch o + (x.col0 + c) * 4
    let start := if x.k = 0 && !mmOpt o 3 then 0 else BitVec.ofNat 32 (rdLe s.stores out 4)
    rdLe t.stores out 4 = (mmColumn o w acts (toSigned 8 (leNat (s.mmZero l o row).data)) start c).bits.toNat) ∧
  ∀ b, (∀ row, row < mmM o → b < storeBase o.core + refOff (mmAcc o) + row * mmAccPitch o ∨
      storeBase o.core + refOff (mmAcc o) + row * mmAccPitch o + mmN o * 4 ≤ b) → rdB t.stores b = rdB s.stores b

/-- What the checks at issue have established of a MATMUL's operands, and its zero points can be read. -/
def mmSound (s : State) (l : WorkList) (o : Op) : Prop :=
  1 ≤ mmM o ∧ 1 ≤ mmK o ∧ 1 ≤ mmN o ∧ mmFmt o < 4 ∧ mmN o * 4 ≤ mmAccPitch o ∧ refSpace (mmZp o) ≠ 2 ∧
  refOff (mmAcc o) + (mmM o - 1) * mmAccPitch o + mmN o * 4 ≤ accSize ∧
  refOff (mmActs o) + (mmM o - 1) * mmActPitch o + mmActRow o ≤ stageSize ∧ o.tile < mmTiles o ∧ o.stage ≠ .finished ∧
  ∀ row, row < mmM o → (s.mmZero l o row).acc = .ok ∧ (s.mmZero l o row).s.mem = s.mem

/-- A MATMUL's progress after the tiles of a weight set: it ends with its last tile unless the chain works for it, and its
finished blocks enter the chain's queue. -/
def tilesDone (s t : State) (l : WorkList) (o : Op) (w : WSet) : Prop :=
  let j := mmGroupEnd o w.tile
  (t.op? l.id o.offset).map (fun q => (q.tile, q.steps)) = some (j, mmStepsTo o j) ∧
  (mmBinding o = 0 → (t.coreUnit o.core).chainQ = (s.coreUnit o.core).chainQ ∧
    (mmTiles o ≤ j → opAt t l.id o.offset .finished osOk)) ∧
  (mmTiles o ≤ j → (l.id, o.offset) ∉ (t.coreUnit o.core).arrayQ) ∧
  (mmBinding o ≠ 0 → (t.coreUnit o.core).chainQ = (s.coreUnit o.core).chainQ ++
    (((List.range (j - w.tile)).map fun n => mmTile o (w.tile + n)).filter fun x => x.k + 1 = mmKt o).map fun x =>
      { list := l.id, op := o.offset, row0 := x.row0, col0 := x.col0, rows := x.rows, cols := x.cols, fused := true })

/-- R73 to R75: the beat of a job: its segments, read, passed through the stages and written in order. -/
def beatOf (s : State) (k : Nat) (l : WorkList) (o : Op) (j : ChainJob) (io : JobIo) : BeatRun :=
  (beatSegs j.rows j.cols j.row j.beat).foldl (fun (x : BeatRun) (g : Seg1) => x.segment k l.tenant j.cols io g)
    ⟨s.startOp j.list j.op, .ok, o.digest, j.red, {}⟩

/-- R161: the device addresses of the bytes of one token and head of stream st, in the order in which they are written. -/
def cacheBytes (m : CtxMap) (st pos : Nat) (vec : List Byte) : List (Nat × Byte) :=
  let x := m.blockAt st ((pos - m.posBase) / 64)
  (kvPieces m x.row ((pos - m.posBase) % 64) vec).flatMap fun p =>
    p.2.mapIdx fun i b => (bedBase (m.core x.member) + bedOffset x.bank (p.1 + i), b)

/-- R168 to R173: the run of an ATTEND over its query tiles, with the outputs written. -/
def attended (s : State) (l : WorkList) (o : Op) (p : Place) : AtRun :=
  let r := s.readBatch l.tenant o rRead atFields
  let d := r.s.opRead o.core l.tenant p 64
  let x : AtRun := { s := d.s, digest := if (stagesOf d.data).any Stage.isDigest then crc64Init else 0 }
  (queryGroups (baGq o) r.entries).foldl (fun (x : AtRun) g => x.group l o (stagesOf d.data) g)
    (r.entries.foldl (fun (x : AtRun) e => x.empty l o e) x)

end Sys2Proof.Claims

open Sys2Proof Sys2Proof.Machine

/-! ### The queue, reset, and what every command keeps -/

/-- A step carries out the command that has waited longest, on the state with the rest of the queue. With no command
waiting a step changes nothing (the model's choice, log entry 16). -/
def Obligations.StepRunsTheFrontCommand : Prop :=
  (∀ (c : Instr) (rest : List Instr) (s : State), s.pending = c :: rest → step s = exec c { s with pending := rest }) ∧
  (∀ s : State, s.pending = [] → step s = .next s)

/-- Every command answers a next state on every state: no command of the table ends a run. -/
def Obligations.EveryCommandAnswers : Prop := ∀ (c : Instr) (s : State), ∃ t, exec c s = .next t

/-- The byte maps, the register map and the boot window stay in canonical form through every step, from every state. -/
def Obligations.EveryStepKeepsTheCanonicalForm : Prop :=
  ∀ s t : State, s.memWf = true ∧ s.regsWf = true → step s = .next t → t.memWf = true ∧ t.regsWf = true

/-- The state at reset is in canonical form. -/
def Obligations.ResetIsCanonical : Prop := State.reset.memWf = true ∧ State.reset.regsWf = true

/-- A step takes exactly the front command off the queue, adds none, and never alters what the fuses hold. -/
def Obligations.EveryStepTakesOneCommand : Prop :=
  ∀ s t : State, step s = .next t → t.pending = s.pending.drop 1 ∧ t.fuses = s.fuses

/-! ### Fault log (R412 to R416) -/

/-- FAULT_LOG_ENTRY: an entry reaches both writers. Each numbers it with the sequence number after its last, modulo 2^32
skipping 0, and stores it in slot seq mod 8192, over the older entry there; the other slots stay. A writer that is gone
stores nothing. FLOG_CTL_CLEAR empties every slot of one copy, and the numbers go on. I3C_INDEX_WRITE selects what the
next private read of a log returns, and I3C_READ returns it: the 32 bytes of a slot for an index below 8192, zero for a
slot never written, and the status block for 0xFFFF. -/
def Obligations.FaultLogTakesAndShowsEntries : Prop :=
  ((∀ (e : FlogBody) (s : State), ∃ t, exec (.faultLogEntry e) s = .next t ∧ Only [.flog0, .flog1] [] s t ∧
     Claims.logged s.flog0 t.flog0 e ∧ Claims.logged s.flog1 t.flog1 e) ∧
   (∀ (x : Fin 2) (s : State), ∃ t, exec (.flogCtlClear x) s = .next t ∧ Only [.flog0, .flog1] [] s t ∧
     t.flog0 = (if x.val = 0 then { s.flog0 with slots := [] } else s.flog0) ∧
     t.flog1 = (if x.val = 1 then { s.flog1 with slots := [] } else s.flog1))) ∧
  ((∀ (x : Fin 2) (index : BitVec 16) (s : State), ∃ t, exec (.i3cIndexWrite x index) s = .next t ∧
     Only [.flog0, .flog1] [] s t ∧
     t.flog0 = (if x.val = 0 then { s.flog0 with i3cIndex := index.toNat } else s.flog0) ∧
     t.flog1 = (if x.val = 1 then { s.flog1 with i3cIndex := index.toNat } else s.flog1)) ∧
   (∀ (x : Fin 2) (s : State), ∃ t, exec (.i3cRead x) s = .next t ∧ Only [.out] [] s t ∧
     ∃ bytes, t.out = .i3c bytes :: s.out ∧
       let f := if x.val = 0 then s.flog0 else s.flog1
       (f.i3cIndex < 8192 → bytes = match f.slots.find? fun y => y.1 = f.i3cIndex with
         | some y => leBytes 8 y.2.body.tick.toNat ++ leBytes 4 y.2.seq ++ leBytes 2 y.2.body.code.toNat ++
             leBytes 1 y.2.body.severity.toNat ++ leBytes 1 y.2.body.die.toNat ++ leBytes 2 y.2.body.node.toNat ++
             leBytes 2 y.2.body.tenant.toNat ++ leBytes 4 y.2.body.detail0.toNat ++ leBytes 8 y.2.body.detail1.toNat
         | none => List.replicate 32 0) ∧
       (f.i3cIndex = 0xFFFF → bytes = leBytes 4 f.seq ++
         leBytes 4 (b2n f.writerOk * 2 ^ 31 + b2n f.peerOk * 2 ^ 30 + b2n f.ue * 2 ^ 29) ++
         leBytes 4 (s.reg .pkgHardpan).toNat ++ leBytes 4 s.fatal ++ leBytes 4 (s.bw BW.state).toNat ++
         List.replicate 4 0 ++ leBytes 8 s.tb.count)))

/-! ### Interrupt controller (R362 to R373) -/

/-- EVENT: an event of an idle source makes it pending, masked or not, and no masked source is offered then; an event of a
pending or active source is lost and counted, up to 0xFFFF_FFFF. No other source changes. ASYNC_LATCH_SEND: once its path
is free, the latch of a source sends the one event it kept, and the edges that came behind it are counted as lost. -/
def Obligations.EventsMakeIdleSourcesPending : Prop :=
  (∀ (src : BitVec 11) (s : State), srcExists src.toNat = true → s.x0Lost = false →
     ∃ t, exec (.event src) s = .next t ∧ Only [.ic] [] s t ∧
       (∀ m, m ≠ src.toNat → t.ic.src m = s.ic.src m) ∧
       if (s.ic.src src.toNat).mode = .idle then
         t.ic.src src.toNat = { s.ic.src src.toNat with mode := .pending } ∧ t.ic.lost = s.ic.lost ∧
           ∀ u n, t.ic.offer? u = some n → (t.ic.src n).masked = false
       else t.ic.src src.toNat = s.ic.src src.toNat ∧ t.ic.lost = min 0xFFFFFFFF (s.ic.lost + 1)) ∧
  (∀ (src : BitVec 11) (s : State), (s.ic.src src.toNat).latched = true → s.srcHeld src.toNat = false → s.x0Lost = false →
     (s.ic.src src.toNat).mode = .idle →
     ∃ t, exec (.asyncLatchSend src) s = .next t ∧ Only [.ic] [] s t ∧
       t.ic.src src.toNat = { s.ic.src src.toNat with mode := .pending, latched := false, latchLost := 0 } ∧
       (∀ m, m ≠ src.toNat → t.ic.src m = s.ic.src m) ∧
       t.ic.lost = min 0xFFFFFFFF (s.ic.lost + (s.ic.src src.toNat).latchLost))

/-- IC_PEND_SET, IC_PEND_CLR, IC_MASK_SET and IC_MASK_CLR act on the 32 sources of their register whose bits are 1 and on
no other source: an idle source becomes pending, a pending one idle, a mask bit is set or cleared. IC_TGT_EN_SET and
IC_TGT_EN_CLR enable and disable the targets whose bits are 1 and no other. -/
def Obligations.ControllerRegistersActBitByBit : Prop :=
  (∀ (n : Fin 64) (value : Word) (s : State),
     (∃ t, exec (.icPendSet n value) s = .next t ∧ Only [.ic] [] s t ∧ ∀ m, t.ic.src m =
       if Claims.named n.val value m && decide ((s.ic.src m).mode = .idle) then { s.ic.src m with mode := .pending }
       else s.ic.src m) ∧
     (∃ t, exec (.icPendClr n value) s = .next t ∧ Only [.ic] [] s t ∧ ∀ m, t.ic.src m =
       if Claims.named n.val value m && decide ((s.ic.src m).mode = .pending) then { s.ic.src m with mode := .idle }
       else s.ic.src m) ∧
     (∃ t, exec (.icMaskSet n value) s = .next t ∧ Only [.ic] [] s t ∧ ∀ m, t.ic.src m =
       if Claims.named n.val value m then { s.ic.src m with masked := true } else s.ic.src m) ∧
     (∃ t, exec (.icMaskClr n value) s = .next t ∧ Only [.ic] [] s t ∧ ∀ m, t.ic.src m =
       if Claims.named n.val value m then { s.ic.src m with masked := false } else s.ic.src m)) ∧
  (∀ (value : Word) (s : State),
     (∃ t, exec (.icTgtEnSet value) s = .next t ∧ Only [.ic] [] s t ∧ (∀ m, t.ic.src m = s.ic.src m) ∧
       ∀ b, nbit t.ic.tgtEn b = (nbit s.ic.tgtEn b || (decide (b < 8) && nbit value.toNat b))) ∧
     (∃ t, exec (.icTgtEnClr value) s = .next t ∧ Only [.ic] [] s t ∧ (∀ m, t.ic.src m = s.ic.src m) ∧
       ∀ b, nbit t.ic.tgtEn b = (nbit s.ic.tgtEn b && !(decide (b < 8) && nbit value.toNat b))))

/-- IC_ACK claims the source offered to its target, which becomes active there, and reads its number with valid set; with
no offer it reads zero and changes nothing. IC_EOI makes a source active on its target idle; any other number is ignored
and logged as an access error. Neither brings back a lost event. -/
def Obligations.ClaimAndEndOfInterrupt : Prop :=
  (∀ (target : Fin 8) (s : State), ∃ t, exec (.icAck target) s = .next t ∧ Only [.ic, .out] [] s t ∧
    t.ic.lost = s.ic.lost ∧
    match s.ic.offer? target.val with
    | some n => t.ic.src n = { s.ic.src n with mode := .active target.val } ∧ (∀ m, m ≠ n → t.ic.src m = s.ic.src m) ∧
        t.ic.stack target.val = ⟨n, (s.ic.src n).prio / 2 ^ s.ic.split⟩ :: s.ic.stack target.val ∧
        t.out = .icAck target.val (2 ^ 31 + n) :: s.out
    | none => t.ic = s.ic ∧ t.out = .icAck target.val 0 :: s.out) ∧
  (∀ (target : Fin 8) (value : Word) (s : State), ∃ t, exec (.icEoi target value) s = .next t ∧
    Only [.ic, .flog0, .flog1] [] s t ∧ t.ic.lost = s.ic.lost ∧
    let n := value.toNat % 2048
    if (s.ic.src n).mode = .active target.val then
      t.ic.src n = { s.ic.src n with mode := .idle } ∧ (∀ m, m ≠ n → t.ic.src m = s.ic.src m) ∧
        t.ic.stack target.val = (s.ic.stack target.val).filter (fun a => a.source ≠ n) ∧ t.flog0 = s.flog0 ∧ t.flog1 = s.flog1
    else t.ic = s.ic ∧ t = s.accessError 2 0x70 noTenant (0x3F0000000000 + (Reg.icEoi target.val).off))

/-- FATAL_VECTOR and VECTOR_0 send the one message that is owed, at the earliest 1 µs after the last, and nothing else
changes; CONTROL_SRAM_UNCORRECTABLE sets bit 4 of MB_FATAL and logs the report. Model's readings and choices: log entry
15. -/
def Obligations.VectorsAreSentWhenOwed : Prop :=
  (∀ s : State, (s.mb 0).vec1.due s.now = true → ∃ t, exec .fatalVector s = .next t ∧ Only [.mbox, .out] [] s t ∧
    t.out = .vector 0 1 :: s.out ∧ t.mb 0 = { s.mb 0 with vec1 := { (s.mb 0).vec1 with owed := false, lastSent := some s.now } } ∧
    ∀ n, n ≠ 0 → t.mb n = s.mb n) ∧
  (∀ (tenant : BitVec 10) (s : State), (s.mb tenant.toNat).vec0.due s.now = true →
    ∃ t, exec (.vector0 tenant) s = .next t ∧ Only [.mbox, .out] [] s t ∧ t.out = .vector tenant.toNat 0 :: s.out ∧
      t.mb tenant.toNat =
        { s.mb tenant.toNat with vec0 := { (s.mb tenant.toNat).vec0 with owed := false, lastSent := some s.now } } ∧
      ∀ n, n ≠ tenant.toNat → t.mb n = s.mb n) ∧
  (∀ (standby : Bool) (offset : BitVec 32) (s : State), ∃ t, exec (.controlSramUncorrectable standby offset) s = .next t ∧
    Only [.fatal, .mbox, .flog0, .flog1] [] s t ∧ (∀ b, nbit t.fatal b = (nbit s.fatal b || b = 4)) ∧
    (nbit s.fatal 4 = false → (t.mb 0).vec1 = (s.mb 0).vec1.request) ∧
    Claims.logged s.flog0 t.flog0 ⟨BitVec.ofNat 64 s.tb.count, 0x0082, 4, if standby then 0x11 else 0x10,
      if standby then 0x71 else 0x70, 0xFFFF, if standby then 1 else 0, BitVec.ofNat 64 offset.toNat⟩)

/-! ### Timebase (R374 to R380) -/

/-- TIMEBASE_TICK counts up by one, modulo 2^64, while the timebase runs; TIMEBASE_FIRST_LOCK, TIMEREF_LOSS and
TIMEREF_RELOCK set and clear locked and holdover without a step of the count. ARM and DISARM set and clear arm. A SYNC
edge while arm is clear is ignored; while arm is set in holdover or before the first lock it loads nothing, leaves arm set
and sets sync_refused; otherwise the preset becomes the count. Model's readings and choices: log entry 12. -/
def Obligations.TimebaseCountsLocksAndLoads : Prop :=
  (∀ s : State, s.tbRuns = true →
     (∃ t, exec .timebaseTick s = .next t ∧ t.tb = { s.tb with count := (s.tb.count + 1) % 2 ^ 64 } ∧ t.now = s.now + 1) ∧
     (s.tb.locked = false → s.tb.holdover = false →
       ∃ t, exec .timebaseFirstLock s = .next t ∧ Only [.tb] [] s t ∧ t.tb = { s.tb with locked := true }) ∧
     (s.tb.locked = true → ∃ t, exec .timerefLoss s = .next t ∧ Only [.tb, .ic, .flog0, .flog1] [] s t ∧
       t.tb = { s.tb with locked := false, holdover := true, holdoverSeen := true } ∧
       Claims.logged s.flog0 t.flog0 ⟨BitVec.ofNat 64 s.tb.count, 0x0070, 1, 0x10, 0x70, 0xFFFF, 0, 0⟩ ∧
       (s.srcHeld 0x384 = false → s.x0Lost = false → (s.ic.src 0x384).mode = .idle → (t.ic.src 0x384).mode = .pending)) ∧
     (s.tb.holdover = true →
       ∃ t, exec .timerefRelock s = .next t ∧ Only [.tb] [] s t ∧ t.tb = { s.tb with locked := true, holdover := false })) ∧
  (∀ s : State,
     (∃ t, exec .arm s = .next t ∧ Only [.tb] [] s t ∧ t.tb = { s.tb with armed := true }) ∧
     (∃ t, exec .disarm s = .next t ∧ Only [.tb] [] s t ∧ t.tb = { s.tb with armed := false }) ∧
     (s.tb.armed = false → exec .syncLoad s = .next s) ∧
     (s.tbRuns = true → s.tb.armed = true → s.tb.locked = false →
       ∃ t, exec .syncLoad s = .next t ∧ Only [.tb] [] s t ∧ t.tb = { s.tb with syncRefused := true }) ∧
     (s.tbRuns = true → s.tb.armed = true → s.tb.locked = true →
       ∃ t, exec .syncLoad s = .next t ∧ Only [.tb, .now, .flog0, .flog1] [] s t ∧
         t.tb.count = s.tb.preset ∧ t.tb.armed = false ∧ t.tb.loaded = true ∧ t.tb.locked = true ∧
         t.tb.preset = s.tb.preset ∧ t.tb.loads = min 0xFFFF (s.tb.loads + 1) ∧
         t.tb.lastLoad = (s.tb.count + 16) % 2 ^ 64))

/-! ### Mailboxes and slips (R281 to R309) -/

/-- Every slip command: firmware takes only a whole slip of a mailbox that it can serve, with U + A at most 28 (until then
the command does nothing). It answers NO_SESSION before a session, DENIED to a virtual function whose slip is for the
physical function only, and MALFORMED to a nonzero reserved byte, and such a slip changes nothing else.
RESERVED_SLIP_OPCODE completes with MALFORMED once a session exists. Model's readings and choices: log entries 15 and 38.
-/
def Obligations.SlipsAreCheckedBeforeTheyAct : Prop :=
  (∀ (c : Instr) (s : State) (x : Slip) (op : Nat) (pf : Bool) (fields : List (Nat × Nat)),
    Claims.slipRow s c = some (x, op, pf, fields) →
    (s.canTakeSlip x.t = true → s.alive = true ∧ (s.mb x.t).u + (s.mb x.t).a ≤ 28 ∧ (s.mb x.t).sqHead ≠ (s.mb x.t).sqTail) ∧
    (Claims.taken s x op = false → exec c s = .next s) ∧
    (Claims.taken s x op = true → op ≠ 1 → (s.mb x.t).session = false →
      ∃ t, exec c s = .next t ∧ Only [.mbox, .progress, .watchdogs] [] s t ∧ Claims.answered (s.mb x.t) s t x 2 []) ∧
    (Claims.taken s x op = true → (s.mb x.t).session = true → pf = true → x.t ≠ 0 →
      ∃ t, exec c s = .next t ∧ Only [.mbox, .progress, .watchdogs] [] s t ∧ Claims.answered (s.mb x.t) s t x 4 []) ∧
    (Claims.taken s x op = true → op = 1 ∨ (s.mb x.t).session = true → (pf = true → x.t = 0) → x.clean fields = false →
      ∃ t, exec c s = .next t ∧ Only [.mbox, .progress, .watchdogs] [] s t ∧ Claims.answered (s.mb x.t) s t x 1 [])) ∧
  (∀ (x : Slip) (s : State), Claims.taken s x x.opcode = true → x.opcode = 0 ∨ 15 < x.opcode →
    ∃ t, exec (.reservedSlipOpcode x) s = .next t ∧ Only [.mbox, .progress, .watchdogs] [] s t ∧
      Claims.answered (s.mb x.t) s t x (if (s.mb x.t).session then 1 else 2) [])

/-- DOORBELL and CQ_HEAD_WRITE move their pointers forward only, the tail at most 32 past the head, the head at most to
the completion tail; a write outside that is ignored, sets bad_doorbell and is logged with kind 4. HELD_NOTICE_WRITE
writes the oldest held notice while U + A is below 32. -/
def Obligations.MailboxPointersMoveForward : Prop :=
  (∀ (tenant : BitVec 10) (tail : Word) (s : State), s.fnExists tenant.toNat = true →
    let m := s.mb tenant.toNat
    ∃ t, exec (.doorbell tenant tail) s = .next t ∧ Only [.ic, .flog0, .flog1, .mbox] [] s t ∧
      (∀ u, u ≠ tenant.toNat → t.mb u = s.mb u) ∧
      if sub32 m.sqTail m.sqHead ≤ sub32 tail.toNat m.sqHead ∧ sub32 tail.toNat m.sqHead ≤ 32 then
        t.mb tenant.toNat = { m with sqTail := tail.toNat } ∧ t.flog0 = s.flog0 ∧ t.flog1 = s.flog1 ∧
          (s.x0Lost = false → (s.ic.src (0x400 + tenant.toNat)).mode = .idle →
            (t.ic.src (0x400 + tenant.toNat)).mode = .pending)
      else t.mb tenant.toNat = { m with badDoorbell := true } ∧ t.ic = s.ic ∧
        Claims.logs s t (Claims.entry s 1 0 0x10 0x70 tenant.toNat 4 0x1000)) ∧
  (∀ (tenant : BitVec 10) (head : Word) (s : State), s.fnExists tenant.toNat = true →
    let m := s.mb tenant.toNat
    ∃ t, exec (.cqHeadWrite tenant head) s = .next t ∧ Only [.flog0, .flog1, .mbox] [] s t ∧
      (∀ u, u ≠ tenant.toNat → t.mb u = s.mb u) ∧
      if sub32 head.toNat m.cqHead ≤ sub32 m.cqTail m.cqHead then
        t.mb tenant.toNat = { m with cqHead := head.toNat } ∧ t.flog0 = s.flog0 ∧ t.flog1 = s.flog1
      else t.mb tenant.toNat = { m with badDoorbell := true } ∧
        Claims.logs s t (Claims.entry s 1 0 0x10 0x70 tenant.toNat 4 0x1008)) ∧
  (∀ (tenant : BitVec 10) (n : Notice) (rest : List Notice) (s : State), s.alive = true →
    (s.mb tenant.toNat).held = n :: rest →
    let m := s.mb tenant.toNat
    ∃ t, exec (.heldNoticeWrite tenant) s = .next t ∧ Only [.mbox] [] s t ∧ (∀ u, u ≠ tenant.toNat → t.mb u = s.mb u) ∧
      if m.u + m.a < 32 then
        t.mb tenant.toNat = { m with held := rest, cqTail := (m.cqTail + 1) % 2 ^ 32, cq := (t.mb tenant.toNat).cq,
                                     vec0 := if m.irq then m.vec0.request else m.vec0 } ∧
          rdBytes (t.mb tenant.toNat).cq (m.cqTail % 32 * 64) 64 = Claims.completion m n.kind n.tag 0
            (leBytes 4 n.count ++ leBytes 4 n.subject ++ leBytes 8 n.tick ++ n.detail)
      else t.mb tenant.toNat = m)

/-- HELLO: 3.2 is chosen when the host's range includes it and opens the session; an open session keeps its version; a
range without it completes with VERSION, one whose end lies below its start with MALFORMED. -/
def Obligations.HelloChoosesTheVersion : Prop :=
  ∀ (x : Slip) (s : State), Claims.taken s x 1 = true → x.clean [(0x08, 2), (0x0A, 2), (0x0C, 4)] = true →
    let m := s.mb x.t
    let v := if m.session then m.version else 0x0302
    ∃ t, exec (.hello x) s = .next t ∧ Only [.mbox, .clamps, .progress, .watchdogs] [] s t ∧
      if x.f 0xA 2 < x.f 8 2 then Claims.answered m s t x 1 [] ∧ t.clamps = s.clamps
      else if x.f 8 2 ≤ v ∧ v ≤ x.f 0xA 2 then
        Claims.answered { m with session := true, version := v, driver := if m.session then m.driver else x.f 0xC 4 } s t x 0
          (leBytes 2 v ++ leBytes 2 x.t ++ leBytes 1 29 ++ leBytes 1 16 ++ leBytes 2 0 ++ leBytes 8 s.fwBuild) ∧
        (m.session = true → t.clamps = s.clamps)
      else Claims.answered m s t x 3 [] ∧ t.clamps = s.clamps

/-- SEG_ALLOC fills a free slot with a private segment that shares no byte with another tenant's segment or with memory
still to be zeroed, and completes with its place and size; an occupied slot completes with BAD_SLOT, a size for which
there is no memory with NO_SPACE. Model's readings and choices: log entry 96. -/
def Obligations.SegAllocInstallsAFreshSegment : Prop :=
  ∀ (x : Slip) (s : State),
    Claims.accepted s x 2 [(0x08, 8), (0x10, 1), (0x11, 1), (0x12, 1), (0x13, 1), (0x14, 4)] = true →
    segAllocOk x = true →
    ∃ t, exec (.segAlloc x) s = .next t ∧ Only [.freeCtr, .mbox, .segs, .progress, .watchdogs] [] s t ∧
      let size := x.f 8 8
      let slot := x.f 0x10 1
      let bed := decide (x.f 0x11 1 = 1)
      if (s.seg? x.t slot).isSome then Claims.answered (s.mb x.t) s t x 6 [] ∧ t.segs = s.segs
      else if (bed && !s.coreEnabled (x.f 0x12 1)) = true then Claims.answered (s.mb x.t) s t x 5 [] ∧ t.segs = s.segs
      else
        (∀ base, s.allocPlace x.bytes true = some base →
          t.seg? x.t slot = some ⟨base, size, .priv, bed, x.f 0x13 1, if bed then x.f 0x12 1 else 0, x.t, 0xFFFFFFFF⟩ ∧
          (∀ u i, u * 16 + i ≠ x.t * 16 + slot → t.seg? u i = s.seg? u i) ∧
          (∀ e, e ∈ s.segs → e.2.kind ≠ .attached → base + size ≤ e.2.base ∨ e.2.base + e.2.size ≤ base) ∧
          (∀ z, z ∈ s.zeroing → base + size ≤ z.base ∨ z.base + z.size ≤ base) ∧
          Claims.answered (s.mb x.t) s t x 0 (leBytes 8 base ++ leBytes 8 size ++
            leBytes 4 (if bed then 0 else s.poisonedGranules base size) ++ leBytes 1 (x.f 0x13 1))) ∧
        (s.allocPlace x.bytes false = none → s.allocPlace x.bytes true = none →
          Claims.answered (s.mb x.t) s t x 5 [] ∧ t.segs = s.segs)

/-- SEG_SHARE issues a key that was never issued before, for rights the owner has; SEG_ATTACH gives the grantee named in a
key an entry of the owner's range with the rights shared, uses the key up, and completes with NOT_FOUND for any other
tenant or key; an attached segment cannot be shared. Model's readings and choices: log entry 97. -/
def Obligations.SharedSegmentsNeedTheirKey : Prop :=
  (∀ (x : Slip) (s : State) (g : Seg), Claims.accepted s x 4 [(0x10, 1), (0x13, 1), (0x14, 2)] = true →
    x.f 0x10 1 < 16 → x.f 0x13 1 < 8 → x.f 0x14 2 < 1024 → s.seg? x.t (x.f 0x10 1) = some g → s.usedKeys.length < 2 ^ 32 →
    ∃ t, exec (.segShare x) s = .next t ∧ Only [.freeCtr, .mbox, .segs, .keys, .usedKeys, .leases, .progress, .watchdogs] [] s t ∧
      if g.kind = .attached then Claims.answered (s.mb x.t) s t x 4 [] ∧ t.segs = s.segs ∧ t.keys = s.keys
      else if Nat.land (x.f 0x13 1) g.rights ≠ x.f 0x13 1 then
        Claims.answered (s.mb x.t) s t x 1 [] ∧ t.segs = s.segs ∧ t.keys = s.keys
      else ∃ k, k ∉ s.usedKeys ∧ k < 2 ^ 32 ∧ t.usedKeys = k :: s.usedKeys ∧
        t.keys = s.keys ++ [⟨k, x.t, x.f 0x10 1, x.f 0x14 2, x.f 0x13 1⟩] ∧
        Claims.answered (s.mb x.t) s t x 0 (leBytes 4 k) ∧
        t.seg? x.t (x.f 0x10 1) =
          some (if g.kind = .priv then { g with kind := .shared, lease := x.t * 16 + x.f 0x10 1 } else g) ∧
        ∀ u i, u * 16 + i ≠ x.t * 16 + x.f 0x10 1 → t.seg? u i = s.seg? u i) ∧
  (∀ (x : Slip) (s : State), Claims.accepted s x 5 [(0x08, 4), (0x0C, 2), (0x10, 1)] = true → x.f 0x10 1 < 16 →
    x.f 0xC 2 < 1024 → s.seg? x.t (x.f 0x10 1) = none →
    ∃ t, exec (.segAttach x) s = .next t ∧ Only [.mbox, .segs, .keys, .progress, .watchdogs] [] s t ∧
      ((∀ k, k ∈ s.keys → k.key = x.f 8 4 → k.owner = x.f 0xC 2 → k.grantee ≠ x.t) →
        Claims.answered (s.mb x.t) s t x 8 [] ∧ t.segs = s.segs ∧ t.keys = s.keys) ∧
      (∀ k g, s.keys.find? (fun y => y.key = x.f 8 4 && y.owner = x.f 0xC 2 && y.grantee = x.t) = some k →
        s.seg? k.owner k.slot = some g →
        t.seg? x.t (x.f 0x10 1) = some { g with kind := .attached, rights := k.rights } ∧
        (∀ u i, u * 16 + i ≠ x.t * 16 + x.f 0x10 1 → t.seg? u i = s.seg? u i) ∧
        t.keys = s.keys.filter (fun y => y ≠ k) ∧
        Claims.answered (s.mb x.t) s t x 0 (leBytes 8 g.base ++ leBytes 8 g.size ++
          leBytes 4 (if g.bed then 0 else s.poisonedGranules g.base g.size) ++ leBytes 1 k.rights)))

/-- SEG_FREE empties its slot at once and queues owned memory for zeroing; a removal of a shared segment takes every
attached entry of its lease and its keys with it. It completes when SEGMENT_REMOVAL ends the removal. An empty slot
completes with BAD_SLOT, a tenant with an admitted list with BUSY. ZEROING: the range that is next reads as zero
everywhere and leaves the queue; memory outside it stays, and while no SEG_ALLOC waits nothing else changes. Model's
readings and choices: log entries 15, 22 and 23. -/
def Obligations.FreedSegmentsAreRemovedAndZeroed : Prop :=
  ((∀ (x : Slip) (s : State) (g : Seg), Claims.accepted s x 3 [(0x10, 1)] = true → x.f 0x10 1 < 16 →
     s.seg? x.t (x.f 0x10 1) = some g → s.lists = [] →
     ∃ t, exec (.segFree x) s = .next t ∧ Only [.mbox, .segs, .removing, .keys, .leases, .zeroing, .progress, .watchdogs] [] s t ∧
       t.seg? x.t (x.f 0x10 1) = none ∧ t.removing = s.removing ++ [(x.t * 16 + x.f 0x10 1, g)] ∧
       (t.mb x.t).cqTail = (s.mb x.t).cqTail ∧
       t.zeroing = (if g.kind = .attached then s.zeroing else s.zeroing ++ [⟨g.base, g.size, false⟩]) ∧
       (g.kind ≠ .shared → ∀ u i, u * 16 + i ≠ x.t * 16 + x.f 0x10 1 → t.seg? u i = s.seg? u i) ∧
       (g.kind = .shared → (∀ e, e ∈ t.segs → ¬ (e.2.kind = .attached ∧ e.2.lease = g.lease)) ∧
         ∀ k, k ∈ t.keys → ¬ (k.owner = x.t ∧ k.slot = x.f 0x10 1))) ∧
   (∀ (x : Slip) (s : State), Claims.accepted s x 3 [(0x10, 1)] = true → x.f 0x10 1 < 16 →
     (s.seg? x.t (x.f 0x10 1) = none → ∃ t, exec (.segFree x) s = .next t ∧ Only [.mbox, .progress, .watchdogs] [] s t ∧
       Claims.answered (s.mb x.t) s t x 6 []) ∧
     ((s.seg? x.t (x.f 0x10 1)).isSome = true → s.hasAdmitted x.t = true → ∃ t, exec (.segFree x) s = .next t ∧
       Only [.mbox, .progress, .watchdogs] [] s t ∧ Claims.answered (s.mb x.t) s t x 7 [])) ∧
   (∀ (tenant : BitVec 10) (slot : Fin 16) (g : Seg) (s : State), s.removalWaits tenant.toNat slot.val = some g →
     ∃ t, exec (.segmentRemoval tenant slot) s = .next t ∧ Only [.mbox, .removing, .zeroing, .progress, .watchdogs] [] s t ∧
       t.removing = s.removing.filter (fun e => e.1 ≠ tenant.toNat * 16 + slot.val) ∧
       (g.kind ≠ .attached → ∀ z, z ∈ t.zeroing → z.base = g.base → z.size = g.size → z.removalDone = true) ∧
       ∀ l, (s.mb tenant.toNat).live = [l] → l.opcode = 3 → fieldAt l.bytes 0x10 1 = slot.val → l.bytes ≠ [] →
         (t.mb tenant.toNat).live = [] ∧ (t.mb tenant.toNat).cqTail = ((s.mb tenant.toNat).cqTail + 1) % 2 ^ 32 ∧
         rdBytes (t.mb tenant.toNat).cq ((s.mb tenant.toNat).cqTail % 32 * 64) 64 =
           Claims.completion (s.mb tenant.toNat) 3 l.tag 0 [])) ∧
  (∀ (s : State) (z : ZeroRange), s.alive = true →
     s.zeroing.find? (fun z => z.removalDone && !s.bankBusyIn z.base z.size) = some z →
     ∃ t, exec .zeroing s = .next t ∧ Only [.freeCtr, .mem, .checks, .mbox, .segs, .zeroing, .progress, .watchdogs] [] s t ∧
       t.zeroing = s.zeroing.filter (fun y => y ≠ z) ∧
       (∀ a, rdB t.mem a = if z.base ≤ a ∧ a < z.base + z.size then 0 else rdB s.mem a) ∧
       ((∀ m, m ∈ s.mbox → ∀ l, l ∈ m.2.live → l.opcode = 2 → l.bytes = []) →
         t.segs = s.segs ∧ t.mbox = s.mbox ∧ t.freeCtr = s.freeCtr))

/-- SUBMIT: the list waits for admission under its tag and its slip stays live; a tag that a live SUBMIT or TRANSFER bears
completes with MALFORMED, as does a reference outside a segment. CANCEL of a list that still waits ends it: its SUBMIT
completes with CANCELLED and then the CANCEL with OK; a tag that is not live completes with NOT_FOUND. -/
def Obligations.SubmitQueuesAndCancelStops : Prop :=
  (∀ (x : Slip) (s : State), Claims.accepted s x 6 [(0x08, 8), (0x10, 1)] = true →
    ∃ t, exec (.submit x) s = .next t ∧ Only [.mbox, .lists, .nextList, .progress, .watchdogs] [] s t ∧
      if (∃ l, l ∈ (s.mb x.t).live ∧ (l.opcode = 6 ∨ l.opcode = 8) ∧ l.tag = x.tag) ∨ refOk (x.f 8 8) = false ∨
          refSpace (x.f 8 8) ≠ 1 ∨ refOff (x.f 8 8) % 32 ≠ 0 ∨ 8 ≤ x.f 0x10 1 then
        Claims.answered (s.mb x.t) s t x 1 [] ∧ t.lists = s.lists ∧ t.nextList = s.nextList
      else
        t.lists = s.lists ++ [{ id := s.nextList, tenant := x.t, tag := x.tag, quiet := x.quiet, priority := x.f 0x10 1,
                                ref := x.f 8 8, submitted := s.now, waitingSince := s.now }] ∧
        t.nextList = s.nextList + 1 ∧ (t.mb x.t).cqTail = (s.mb x.t).cqTail ∧
        (t.mb x.t).live = (s.mb x.t).live ++ [{ opcode := 6, tag := x.tag, quiet := x.quiet }]) ∧
  (∀ (x : Slip) (s : State), Claims.accepted s x 7 [(0x08, 4)] = true →
    (∀ l, l ∈ s.lists → ¬ (l.tenant = x.t ∧ l.tag = x.f 8 4)) → (∀ y, y ∈ s.xfers → ¬ (y.tenant = x.t ∧ y.tag = x.f 8 4)) →
    ∃ t, exec (.cancel x) s = .next t ∧ Only [.mbox, .progress, .watchdogs] [] s t ∧
      Claims.answered (s.mb x.t) s t x 8 []) ∧
  (∀ (x : Slip) (l : WorkList) (s : State), Claims.accepted s x 7 [(0x08, 4)] = true →
    s.lists.find? (fun y => y.tenant = x.t && y.tag = x.f 8 4) = some l → l.state = .waiting → l.cancelTags = [] →
    (s.mb x.t).live = [{ opcode := 6, tag := l.tag, quiet := l.quiet }] →
    let m := s.mb x.t
    ∃ t, exec (.cancel x) s = .next t ∧
      Only [.cores, .thermal, .mbox, .leases, .engines, .xfers, .lists, .progress, .watchdogs] [.vgov] s t ∧
      t.lists = s.lists.filter (fun y => y.id ≠ l.id) ∧ (t.mb x.t).live = [] ∧
      (t.mb x.t).cqTail = ((m.cqTail + 1) % 2 ^ 32 + 1) % 2 ^ 32 ∧
      rdBytes (t.mb x.t).cq (m.cqTail % 32 * 64) 64 = Claims.completion m 6 l.tag 0xA
        (leBytes 1 0xB ++ List.replicate 3 0 ++ leBytes 4 0 ++ leBytes 8 l.admitted ++ leBytes 8 s.tb.count) ∧
      rdBytes (t.mb x.t).cq ((m.cqTail + 1) % 2 ^ 32 % 32 * 64) 64 =
        Claims.completion { m with cqTail := (m.cqTail + 1) % 2 ^ 32 } 7 x.tag 0 (leBytes 1 0))

/-- TRANSFER: every granule of the range is in the run of one job on a live engine, each job under a lease of the tenant,
and no engine's earlier job changes; the slip stays live. A reference outside the tenant's segment completes with
MALFORMED. -/
def Obligations.TransferJobsCoverEveryGranule : Prop :=
  ∀ (x : Slip) (engines : List (Fin 32)) (s : State),
    Claims.slipRow s (.transfer x engines) ≠ none → Claims.accepted s x 8 [(0x08, 8), (0x10, 8), (0x18, 8), (0x20, 1)] = true →
    (∀ l, l ∈ (s.mb x.t).live → (l.opcode = 6 ∨ l.opcode = 8) → l.tag ≠ x.tag) →
    ∃ t, exec (.transfer x engines) s = .next t ∧ Only [.mbox, .leases, .engines, .xfers, .progress, .watchdogs] [] s t ∧
      (transferOk x = false → Claims.answered (s.mb x.t) s t x 1 [] ∧ t.xfers = s.xfers ∧ t.engines = s.engines) ∧
      (transferOk x = true →
        s.resolve x.t (x.f 0x10 8) (plain (x.f 0x18 8)) (if x.f 0x20 1 = 1 then rRead else rWrite) = none →
        Claims.answered (s.mb x.t) s t x 1 [] ∧ t.xfers = s.xfers ∧ t.engines = s.engines) ∧
      (transferOk x = true →
        (s.resolve x.t (x.f 0x10 8) (plain (x.f 0x18 8)) (if x.f 0x20 1 = 1 then rRead else rWrite)).isSome = true →
        (s.chosenEngines (engines.map Fin.val)) ≠ [] →
        t.xfers = s.xfers ++ [xferOf x] ∧ (t.mb x.t).cqTail = (s.mb x.t).cqTail ∧
        (∀ e j, j ∈ (s.engine e).jobs → j ∈ (t.engine e).jobs) ∧
        (∀ i, i < granuleCount (s.xferDst (xferOf x)) (x.f 0x18 8) → ∃ e j, j ∈ (t.engine e).jobs ∧ s.engineLive e = true ∧
          j.tenant = x.t ∧ j.tag = x.tag ∧ j.firstGranule ≤ i ∧ i < j.firstGranule + j.granules ∧
          (t.leaseAt (jobLease e j.entry)).held = true ∧ (t.leaseAt (jobLease e j.entry)).owner = x.t))

/-- POLICY: an item that does not exist or a value outside its range completes with MALFORMED, an item of the physical
function from a virtual one with DENIED; otherwise the value is in force. A floor above the envelope of a named tower is
reported as that envelope and counted as a clamp. FLOORPLAN copies the record to host memory once one is published.
TIMESYNC_READ answers with the count; TIMESYNC_ARM loads the preset and arms, for the physical function. Model's readings
and choices: log entry 73. -/
def Obligations.PolicyFloorplanAndTimesyncAnswer : Prop :=
  (∀ (x : Slip) (s : State), Claims.accepted s x 9 [(0x08, 2), (0x0A, 1), (0x0C, 4)] = true →
     let item := x.f 8 2
     let v := x.f 0xC 4
     ∃ t, exec (.policy x) s = .next t ∧
       Only [.beds, .capIo, .capTc, .mbox, .vCeiling, .bankMode, .pkgCap, .rthInterval, .preemptWait, .stackIdle, .vFloor,
         .clamps, .progress, .watchdogs] [.bedMode, .env, .vgov] s t ∧
       match policyRange s.fuses item v with
       | none => Claims.answered (s.mb x.t) s t x 1 [] ∧ Only [.mbox, .progress, .watchdogs] [] s t
       | some ok =>
         if item ≠ 2 ∧ x.t ≠ 0 then Claims.answered (s.mb x.t) s t x 4 [] ∧ Only [.mbox, .progress, .watchdogs] [] s t
         else if ok = false then Claims.answered (s.mb x.t) s t x 1 [] ∧ Only [.mbox, .progress, .watchdogs] [] s t
         else
           (item = 3 → t.pkgCap = v) ∧ (item = 5 → t.rthInterval = v) ∧ (item = 6 → t.preemptWait = v) ∧
           (item = 7 → t.stackIdle = v) ∧
           (item = 1 → ∀ w, w < 8 → num t.vCeiling w = if x.f 0xA 1 = 0 ∨ nbit (x.f 0xA 1) w = true then v else num s.vCeiling w) ∧
           (item = 2 → ∀ w, w < 8 → (x.f 0xA 1 = 0 ∨ nbit (x.f 0xA 1) w = true) → num t.vFloor (x.t * 8 + w) = v) ∧
           (item = 4 → ∀ w, w < 8 → num t.bankMode w = if x.f 0xA 1 = 0 ∨ nbit (x.f 0xA 1) w = true then v else num s.bankMode w) ∧
           let got := if item = 2 then
               ((List.range 8).filter fun w => x.f 0xA 1 = 0 || nbit (x.f 0xA 1) w).foldl (fun a w => min a (s.vEnv w)) v else v
           num t.clamps (x.t * 8 + item) = num s.clamps (x.t * 8 + item) + (if got < v then 1 else 0) ∧
           (got = v ∨ num s.clamps (x.t * 8 + item) = 0 →
             Claims.answered (s.mb x.t) s t x 0 (leBytes 4 got ++ leBytes 4 (num t.clamps (x.t * 8 + item))))) ∧
  ((∀ (x : Slip) (hostOk : Bool) (s : State), Claims.accepted s x 0xA [(0x08, 8)] = true →
     ∃ t, exec (.floorplan x hostOk) s = .next t ∧ Only [.out, .mbox, .progress, .watchdogs] [] s t ∧
       if s.published = false then Claims.answered (s.mb x.t) s t x 8 [] ∧ t.out = s.out
       else if hostOk = false then Claims.answered (s.mb x.t) s t x 0xE [] ∧ t.out = s.out
       else t.out = .hostWrite x.t (x.f 8 8) (rdBytes s.fplan 0 0x500) false :: s.out ∧
         Claims.answered (s.mb x.t) s t x 0 (leBytes 4 s.fpGen ++ leBytes 4 0 ++ leBytes 8 (rdLe s.fplan 0x10 8))) ∧
   (∀ (x : Slip) (s : State), Claims.accepted s x 0xD [(0x08, 1), (0x10, 8)] = true →
     let body := leBytes 8 s.tb.count ++ leBytes 8 s.tb.count ++ leBytes 1 (b2n s.tb.holdover)
     (x.f 8 1 ≠ 1 → ∃ t, exec (.timesyncRead x) s = .next t ∧ Only [.mbox, .progress, .watchdogs] [] s t ∧
       if x.f 8 1 = 0 then Claims.answered (s.mb x.t) s t x 0 body else Claims.answered (s.mb x.t) s t x 1 []) ∧
     (x.f 8 1 = 1 → x.t = 0 → ∃ t, exec (.timesyncArm x) s = .next t ∧ Only [.tb, .mbox, .progress, .watchdogs] [] s t ∧
       t.tb = { s.tb with preset := x.f 0x10 8, armed := true } ∧ Claims.answered (s.mb x.t) s t x 0 body)))

/-! ### Counters, trace and the wait graph (R307, R308, R417 to R425) -/

/-- COUNTERS_READ writes the 16 latched counts of a unit to host memory; a unit that does not exist is MALFORMED, one the
tenant may not see DENIED. COUNTERS_SELECT and CTR_SEL_WRITE select the event that a counter counts, and count it from
zero. Model's readings and choices: log entries 35 and 75. -/
def Obligations.CountersAreReadAndSelected : Prop :=
  (∀ (x : Slip) (hostOk : Bool) (s : State),
    Claims.accepted s x 0xB [(0x08, 1), (0x09, 1), (0x0A, 2), (0x0C, 1), (0x10, 4), (0x18, 8)] = true → x.f 8 1 = 0 →
    ∃ t, exec (.countersRead x hostOk) s = .next t ∧ Only [.out, .mbox, .progress, .watchdogs] [] s t ∧
      match counterUnit s.fuses (x.f 9 1) (x.f 0xA 2) with
      | none => Claims.answered (s.mb x.t) s t x 1 [] ∧ t.out = s.out
      | some u =>
        if s.mayCount x.t u = false then Claims.answered (s.mb x.t) s t x 4 [] ∧ t.out = s.out
        else if s.dieLost (unitDie u) = true then Claims.answered (s.mb x.t) s t x 0xC [] ∧ t.out = s.out
        else if hostOk = false then Claims.answered (s.mb x.t) s t x 0xE [] ∧ t.out = s.out
        else Claims.answered (s.mb x.t) s t x 0 (leBytes 8 s.tb.count) ∧ ∃ bytes, bytes.length = 128 ∧
          (∀ n, n < 16 → fieldAt bytes (8 * n) 8 = if n < unitCtrs u then s.regF (.ctrVal u n) 0 48 else 0) ∧
          t.out = .hostWrite x.t (x.f 0x18 8) bytes false :: s.out) ∧
  (∀ (x : Slip) (u : Nat) (s : State),
    Claims.accepted s x 0xB [(0x08, 1), (0x09, 1), (0x0A, 2), (0x0C, 1), (0x10, 4), (0x18, 8)] = true → x.f 8 1 = 1 →
    x.t = 0 → counterUnit s.fuses (x.f 9 1) (x.f 0xA 2) = some u → s.mayApply u = true → s.dieLost (unitDie u) = false →
    x.f 0xC 1 < unitCtrs u → x.f 0x10 4 / 4096 = unitKind u →
    ∃ t, exec (.countersSelect x) s = .next t ∧ Only [.mbox, .progress, .watchdogs] [.ctrSel, .ctrVal] s t ∧
      t.regF (.ctrSel u (x.f 0xC 1)) 0 16 = x.f 0x10 4 ∧ t.reg (.ctrVal u (x.f 0xC 1)) = 0 ∧
      Claims.answered (s.mb x.t) s t x 0 (leBytes 8 s.tb.count)) ∧
  (∀ (unit : CtrUnit) (n : Fin 16) (value : Word) (s : State), n.val < unitCtrs (ctrUnitNo unit) →
    s.unitAnswers (ctrUnitNo unit) = true →
    ∃ t, exec (.ctrSelWrite unit n value) s = .next t ∧ Only [] [.ctrSel, .ctrVal] s t ∧
      t.regF (.ctrSel (ctrUnitNo unit) n.val) 0 16 = value.toNat % 65536 ∧ t.reg (.ctrVal (ctrUnitNo unit) n.val) = 0)

/-- TRACE_START makes the trace segment, empties the rings of the named towers that are ON and enables the classes;
TRACE_STOP disables them; TRACE_RECORD of an event whose class is not enabled writes nothing; one for which the ring has
no room is dropped and counted. Model's readings and choices: log entries 15 and 76. -/
def Obligations.TraceStartsStopsAndDrops : Prop :=
  (∀ (x : Slip) (s : State), Claims.accepted s x 0xC [(0x08, 1), (0x09, 1), (0x10, 8)] = true → x.t = 0 → x.f 0x10 8 < 1024 →
    let ring := fun w => nbit (x.f 9 1) w = true ∧ (s.dom w).state = .on
    (x.f 8 1 = 1 → s.seg? 0 15 = none → ∃ t, exec (.traceStart x) s = .next t ∧
      Only [.mbox, .segs, .progress, .watchdogs, .traceDrops, .lossRecords] [.trcWr, .trcRd, .trcDrop, .trcClass] s t ∧
      t.seg? 0 15 = some s.traceSeg ∧ t.lossRecords = 0 ∧ Claims.answered (s.mb 0) s t x 0 (leBytes 8 0) ∧
      ∀ w, w < 8 → (ring w → t.reg (.trcWr w) = 0 ∧ t.reg (.trcRd w) = 0 ∧ t.reg (.trcDrop w) = 0 ∧
          t.reg (.trcClass w) = BitVec.ofNat 64 (x.f 0x10 8)) ∧
        (¬ ring w → t.reg (.trcWr w) = s.reg (.trcWr w) ∧ t.reg (.trcRd w) = s.reg (.trcRd w) ∧
          t.reg (.trcDrop w) = s.reg (.trcDrop w) ∧ t.reg (.trcClass w) = s.reg (.trcClass w))) ∧
    (x.f 8 1 = 0 → ∃ t, exec (.traceStop x) s = .next t ∧ Only [.mbox, .progress, .watchdogs] [.trcClass] s t ∧
      Claims.answered (s.mb 0) s t x 0 (leBytes 8 s.lossRecords) ∧
      ∀ w, w < 8 → (ring w → t.reg (.trcClass w) = 0) ∧ (¬ ring w → t.reg (.trcClass w) = s.reg (.trcClass w))) ∧
    (x.f 8 1 = 2 → (∀ w, w < 8 → ¬ ring w) → ∃ t, exec (.traceFlush x) s = .next t ∧
      Only [.mbox, .progress, .watchdogs] [] s t ∧ Claims.answered (s.mb 0) s t x 0 (leBytes 8 s.lossRecords)) ∧
    (x.f 8 1 = 2 → ∃ t, exec (.traceFlush x) s = .next t ∧ ∀ w, w < 8 → ring w → s.drops w = [] →
      t.regF (.trcWr w) 0 21 = if (s.regF (.trcWr w) 0 21 + 1) % 2097152 = s.regF (.trcRd w) 0 21 then
        s.regF (.trcWr w) 0 21 else (s.regF (.trcWr w) 0 21 + 1) % 2097152)) ∧
  (∀ (tower : Fin 8) (r : TraceBody) (s : State),
    ((s.dom tower.val).state ≠ .on ∨ s.regBit (.trcClass tower.val) r.cls.toNat = false →
      exec (.traceRecord tower r) s = .next s) ∧
    ((s.dom tower.val).state = .on → s.regBit (.trcClass tower.val) r.cls.toNat = true →
      (s.regF (.trcWr tower.val) 0 21 + 1) % 2097152 = s.regF (.trcRd tower.val) 0 21 → s.drops tower.val = [] →
      ∃ t, exec (.traceRecord tower r) s = .next t ∧ Only [.traceDrops] [.trcDrop] s t ∧
        t.drops tower.val = [s.tb.count, s.tb.count, 1] ∧
        t.regF (.trcDrop tower.val) 0 32 = min 0xFFFFFFFF (s.regF (.trcDrop tower.val) 0 32 + 1)) ∧
    ((s.dom tower.val).state = .on → s.regBit (.trcClass tower.val) r.cls.toNat = true →
      (s.regF (.trcWr tower.val) 0 21 + 1) % 2097152 ≠ s.regF (.trcRd tower.val) 0 21 → s.drops tower.val = [] →
      ∃ t, exec (.traceRecord tower r) s = .next t ∧
        t.regF (.trcWr tower.val) 0 21 = (s.regF (.trcWr tower.val) 0 21 + 1) % 2097152 ∧
        t.drops tower.val = [] ∧ ∀ w, w ≠ tower.val → t.reg (.trcWr w) = s.reg (.trcWr w)))

/-- WAITGRAPH writes as much of the graph as fits in the buffer, reports the full counts, and ends the youngest WAIT of a
cycle with DEADLOCK; a buffer below 4 KiB is MALFORMED. Model's readings and choices: log entry 74. -/
def Obligations.WaitgraphReportsAndBreaksCycles : Prop :=
  ∀ (x : Slip) (hostOk : Bool) (s : State), Claims.accepted s x 0xE [(0x08, 8), (0x10, 4)] = true →
    ∃ t, exec (.waitgraph x hostOk) s = .next t ∧
      Only [.out, .flog0, .flog1, .mbox, .lists, .progress, .watchdogs] [] s t ∧
      let size := x.f 0x10 4
      let g := s.waitGraph (if x.t = 0 then none else some x.t)
      if size < 4096 then Claims.answered (s.mb x.t) s t x 1 [] ∧ t.out = s.out ∧ t.lists = s.lists
      else
        (hostOk = false → Claims.answered (s.mb x.t) s t x 0xE [] ∧ t.out = s.out) ∧
        (hostOk = true → ∃ bytes, t.out = .hostWrite x.t (x.f 8 8) bytes false :: s.out ∧ bytes.length ≤ size ∧
          fieldAt bytes 0 4 = 0x47524657 ∧ fieldAt bytes 6 2 = g.nodes.length % 2 ^ 16 ∧
          fieldAt bytes 8 2 = g.edges.length % 2 ^ 16 ∧
          Claims.answered (s.mb x.t) s t x 0 (leBytes 4 bytes.length ++ leBytes 2 g.nodes.length ++
            leBytes 2 g.edges.length ++ leBytes 1 g.found.length)) ∧
        (g.found = [] → t.lists = s.lists ∧ t.flog0 = s.flog0) ∧
        (∀ c l o, g.found = [(c, l, o)] → (s.op? l.id o.offset).map (·.stage) = some .started →
          (t.op? l.id o.offset).map (fun y => (y.stage, y.status)) = some (.finished, 0xA) ∧
          Claims.logs s t (Claims.entry s 0x90 2 (dieField l.home) (0x40 + l.home) l.tenant l.tag o.offset))

/-! ### Bring-up (R387 to R406) -/

/-- Every boot command: while a step runs it is refused and only the refused bit sets. Otherwise TEST ends it with
TEST_REFUSED and FAILED, a command out of order with ORDER and the state, an unknown code or a reserved argument with
BAD_ARG; a command that passes starts its step. Model's readings and choices: log entries 58 and 62. -/
def Obligations.BootCommandsFollowTheProtocol : Prop :=
  ∀ (c : Instr) (cmd : Nat) (s : State), Claims.bootRow c = some cmd → s.bar0Up = true →
    (s.bootRun ≠ none → ∃ t, exec c s = .next t ∧ Only [.boot] [] s t ∧ t.bwF BW.status 30 1 = 1 ∧
      t.bwF BW.status 0 8 = s.bwF BW.status 0 8 ∧ t.bwF BW.status 31 1 = s.bwF BW.status 31 1 ∧
      ∀ o, o ≠ BW.status → t.bw o = s.bw o) ∧
    (s.bootRun = none → Claims.bootStarts s cmd = false → ∃ t, exec c s = .next t ∧ Only [.boot, .bootRun] [] s t ∧
      t.bootRun = none ∧ t.bwF BW.status 8 8 = cmd % 256 ∧ t.bwF BW.status 31 1 = 0 ∧
      (nbit s.straps 11 = true → t.bwF BW.status 0 8 = 3 ∧ t.bootState = 4) ∧
      (nbit s.straps 11 = false → t.bwF BW.state 28 4 = s.bwF BW.state 28 4 ∧ t.bootStep = s.bootStep ∧
        if cmd ∈ [2, 3, 4, 5, 6, 7, 8, 0x10] ∧ s.bootAllows cmd = false then
          t.bwF BW.status 0 8 = 1 ∧ t.bwF BW.detail 0 32 = (s.bw BW.state).toNat / 2 ^ 24 % 2 ^ 32
        else t.bwF BW.status 0 8 = 2)) ∧
    (Claims.bootStarts s cmd = true → cmd ∈ [2, 3, 4, 5, 6, 7, 8, 0x10] ∧ ∃ t, exec c s = .next t ∧
      t.bootRun.map (fun r => (r.cmd, r.since)) = some (cmd, s.now))

/-- BOOT_STEP_COMPLETE: the running step ends with its result code, its detail and its duration in milliseconds, busy
clears, and the part advances: a fatal code leads to FAILED, FIRMWARE to BISQUE, PUBLISH to FIRED. FW_START_TIMEOUT ends a
FIRMWARE that has not reached BISQUE in 5 s with code 0x0E. Model's readings and choices: log entries 15 and 62. -/
def Obligations.BootStepsReportAndAdvance : Prop :=
  (∀ (s : State) (r : BootRun), s.bootRun = some r → r.ready = true ∨ (r.cmd = 7 ∧ s.now < r.since + 1000000000) →
    ∃ t, exec .bootStepComplete s = .next t ∧ Only [.freeCtr, .boot, .bootRun, .alive, .hbActive, .fwDead, .leases] [] s t ∧
      t.bootRun = none ∧ t.bwF BW.status 0 8 = r.code % 256 ∧ t.bwF BW.status 31 1 = 0 ∧
      t.bwF BW.detail 0 32 = r.detail % 2 ^ 32 ∧ t.bwF BW.elapsed 0 32 = (s.now - r.since) / 200000 % 2 ^ 32 ∧
      (r.ready = false → t.alive = true ∧ t.hbActive = some s.now) ∧
      if r.code ∈ [3, 4, 7, 9, 0x11, 0x12] then t.bootState = 4 ∧ t.bootStep = s.bootStep
      else if r.code ∈ [0, 5, 8, 0xD, 0xF] ∧ s.fired = false then
        t.bootState = (if r.cmd = 7 then 2 else if r.cmd = 8 then 3 else s.bootState) ∧
        t.bootStep = (if r.cmd = 7 then 7 else if r.cmd = 8 then 8 else max s.bootStep r.cmd % 16)
      else t.bootState = s.bootState ∧ t.bootStep = s.bootStep) ∧
  (∀ (s : State) (r : BootRun), s.bootRun = some r → r.cmd = 7 → r.ready = false → r.since + 1000000000 ≤ s.now →
    ∃ t, exec .fwStartTimeout s = .next t ∧ Only [.boot, .bootRun, .fwBuild] [] s t ∧ t.bootRun = none ∧
      t.bwF BW.status 0 8 = 0xE ∧ t.bwF BW.status 31 1 = 0 ∧ t.bootState = s.bootState ∧ t.alive = s.alive)

/-- FUSES fills the tables of fused-off cores and retired banks from the defect map. POWER brings every named tower to ON
with its fuse load when every I/O die and every ramp succeeds. MEMTEST leaves every byte zero and maps out what it found
to fail. SELFTEST maps out and disables what failed. Each result code says what was left. Model's readings and choices:
log entry 62. -/
def Obligations.EarlyBootStepsDoTheirWork : Prop :=
  (∀ s : State, Claims.bootStarts s 2 = true → ∃ t, exec .fuses s = .next t ∧
    Only [.boot, .bootRun, .coreState, .bankRetired] [] s t ∧
    if s.fuses.mapOk0 || s.fuses.mapOk1 then Claims.stepIs s t 2 0 0 ∧ t.bankRetired = s.fuses.retiredBanks ∧
      ∀ k, k < 64 → num t.coreState k = if nbit s.fuses.fusedCores k then 1 else 0
    else Claims.stepIs s t 2 4 0 ∧ t.coreState = s.coreState ∧ t.bankRetired = s.bankRetired) ∧
  (∀ (ioUp : BitVec 4) (s : State), Claims.bootStarts s 3 = true → s.fired = false →
    (∀ x, x < 4 → diePresent s.fuses (8 + x) = true →
      (s.dom (8 + x)).state = .on ∧ (s.regF (.vregCtl (8 + x)) 0 10 = 800 ∨ nbit ioUp.toNat x = true)) →
    (∀ w, w < 8 → s.arg0 = 0 ∨ nbit s.arg0 w = true → s.canRamp w = true ∨ (s.dom w).state = .on) →
    ∃ t, exec (.power ioUp []) s = .next t ∧
      Only [.boot, .bootRun, .domains, .ic, .flog0, .flog1] [.vregCtl, .vregStat, .vstat] s t ∧ Claims.stepIs s t 3 0 0 ∧
      ∀ w, w < 8 → if s.arg0 = 0 ∨ nbit s.arg0 w = true then
          (t.dom w).state = .on ∧ (s.canRamp w = true → (t.dom w).fuseLoaded = true ∧ t.regF (.vregCtl w) 0 10 = 750)
        else t.dom w = s.dom w) ∧
  (∀ (f : MemFindings) (s : State), Claims.bootStarts s 5 = true → (∀ r, r ∈ f.restarts → r.2.toNat < 3) →
    ∃ t r, exec (.memtest f) s = .next t ∧ t.mem = [] ∧ t.checks = [] ∧ t.bootRun = some r ∧
      r.code = (if t.chanList = [] then 9 else if t.enabledCores = 0 then 0x12 else 0) ∧
      (∀ n c p, (n, c, p) ∈ f.channels → stackPresent s.fuses n.val = true → p.val = 0 ∨ p.val = 4 →
        t.mapped n.val c.val = true) ∧
      ∀ k b p, (k, b, p) ∈ f.banks → p.val ≠ 3 → t.retired k.val b.val = true) ∧
  (∀ (f : SelfFindings) (s : State), Claims.bootStarts s 6 = true → ∃ t r, exec (.selftest f) s = .next t ∧
    Only [.boot, .bootRun, .coreState, .chanMapped] [.memChstat] s t ∧ t.bootRun = some r ∧
    r.code = (if t.enabledCores = 0 then 0x12 else if t.chanList = [] then 9 else 0) ∧
    (∀ n c, (n, c) ∈ f.checkerChannels → stackPresent s.fuses n.val = true → t.mapped n.val c.val = true) ∧
    ∀ k, k ∈ f.checkerCores ∨ k ∈ f.arrayCores ∨ k ∈ f.chainCores → t.coreEnabled k.val = false)

/-- LINKS ends with PEER and the ports that are down for want of a peer, or with OK. FIRMWARE starts an image that passes
the checks of R402 and refuses another with its reason. PUBLISH writes the routes and publishes the record, or refuses a
route with the offset of its first bad field. TOWER_OFF turns a tower off. Model's readings and choices: log entries 62
and 63. -/
def Obligations.LateBootStepsDoTheirWork : Prop :=
  (∀ (f : LinkFindings) (s : State), Claims.bootStarts s 4 = true → ∃ t r, exec (.links f) s = .next t ∧ t.bootRun = some r ∧
    let down := fun p => p < 24 ∧ portPresent t.fuses p = true ∧ t.spanState p = 4 ∧
      (t.regF (.spnStat p) 11 3 = dcNoPeer ∨ t.regF (.spnStat p) 11 3 = dcDupId)
    (r.code = 0 ↔ ¬ ∃ p, down p) ∧ (r.code = 8 ↔ ∃ p, down p) ∧ ∀ p, nbit r.detail p = true ↔ down p) ∧
  (∀ (image b : ImageFacts) (s : State), Claims.bootStarts s 7 = true → nbit s.straps 6 = true →
    ∃ t, exec (.firmware image b) s = .next t ∧ Only [.freeCtr, .boot, .bootRun, .fwBuild] [] s t ∧
      let n := image.length.toNat
      if image.readable = false then Claims.stepIs s t 7 0xB 2 ∧ t.fwBuild = s.fwBuild
      else if image.headerOk = false ∨ n % 4096 ≠ 0 ∨ n < 4096 ∨ 0x600000 < n ∨ s.arg1 ≠ 512 + n then
        Claims.stepIs s t 7 0xC 4 ∧ t.fwBuild = s.fwBuild
      else if image.keyHashOk = false ∨ nbit s.fuses.revoked image.keyIndex.toNat = true then
        Claims.stepIs s t 7 0xC 1 ∧ t.fwBuild = s.fwBuild
      else if image.signatureOk = false then Claims.stepIs s t 7 0xC 2 ∧ t.fwBuild = s.fwBuild
      else if image.bodyOk = false then Claims.stepIs s t 7 0xC 3 ∧ t.fwBuild = s.fwBuild
      else if image.secver.toNat < s.fuses.minSecver then Claims.stepIs s t 7 0xC 5 ∧ t.fwBuild = s.fwBuild
      else t.bootRun = some ⟨7, s.now, 0, 0, false⟩ ∧ t.fwBuild = image.build.toNat) ∧
  (∀ (route : List Byte) (s : State), Claims.bootStarts s 8 = true → s.alive = true →
    ∃ t, exec (.publish route) s = .next t ∧
      Only [.freeCtr, .boot, .bootRun, .fplan, .fpDirty, .published, .beds, .thermal, .capIo, .capTc, .spanLost, .mbox,
        .vCeiling, .pkgCap] [.bedMode, .spnPrt, .spnCtl, .env, .vgov] s t ∧
      let d := if s.arg0 = 0 then List.replicate 0x104 0 else (route ++ List.replicate 0x104 0).take 0x104
      match s.routeBad d with
      | some o => Claims.stepIs s t 8 0x10 o ∧ t.published = s.published ∧ t.fplan = s.fplan
      | none => t.published = true ∧ t.fpDirty = false ∧ t.pkgCap = 0 ∧
        (if t.enabledCores < s.fuses.bin.minCores then Claims.stepIs s t 8 0xF t.enabledCores else Claims.stepIs s t 8 0 0)) ∧
  (∀ s : State, Claims.bootStarts s 0x10 = true → s.dieLost s.arg0 = false → ∃ t, exec .towerOff s = .next t ∧
    Claims.stepIs s t 0x10 0 0 ∧ ((s.dom s.arg0).state = .on → (t.dom s.arg0).state = .discharge ∧ (t.dom s.arg0).after = .off ∧
      (t.dom s.arg0).lost = true ∧ (∀ d, d ≠ s.arg0 → t.dom d = s.dom d) ∧
      (∀ b, nbit t.fatal b = true → nbit s.fatal b = true ∨ b = fatTower)))

/-! ### Power delivery and reset (R330 to R341, R430 to R434) -/

/-- ON_REQUEST, OFF_REQUEST and VREG_CTL_CLEAR: a change of on makes a request. An on request ramps an OFF domain, is
remembered in a discharge, and is refused and logged in LATCHED and DEAD; an off request discharges a domain that ramps or
is ON, and is refused and logged for a tower that is ON after FIRED; clear takes LATCHED to OFF. RAMP_COMPLETE,
RAMP_FAILURE, FUSE_LOAD and DISCHARGE_COMPLETE: a ramp ends ON or LATCHED, DEAD at its third failure, with on cleared and
entry 0x0020; a tower's fuses load 2 ms after ON; a discharge ends in the state its cause set, and a remembered on request
then ramps. Model's readings and choices: log entry 15. -/
def Obligations.DomainsRampAndDischarge : Prop :=
  (∀ (domain : Fin 12) (value : Word) (s : State), s.running = true → s.domPresent domain.val = true →
     let d := domain.val
     let x := s.dom d
     (nbit value.toNat 31 = true → nbit value.toNat 30 = false → s.regBit (.vregCtl d) 31 = false →
       ∃ t, exec (.onRequest domain value) s = .next t ∧ Only [.domains, .flog0, .flog1] [.vregCtl, .vregStat] s t ∧
         (∀ e, e ≠ d → t.dom e = s.dom e) ∧
         match x.state with
         | .off => t.dom d = { x with state := .ramp, remembered := false, since := s.now } ∧ t.regBit (.vregCtl d) 31 = true
         | .discharge => t.dom d = { x with remembered := true } ∧ t.regBit (.vregCtl d) 31 = true
         | .latched | .dead => t.dom d = x ∧ t.regBit (.vregCtl d) 31 = false ∧ t.regBit (.vregStat d) 24 = true ∧
             Claims.logs s t (Claims.entry s 0x26 0 (dieField d) (if d < 8 then 0x40 + d else 0x70 + (d - 8)) 0xFFFF
               x.state.code (s.regF (.vregStat d) 25 2))
         | .ramp | .on => t.dom d = x ∧ t.regBit (.vregCtl d) 31 = true) ∧
     (nbit value.toNat 31 = false → nbit value.toNat 30 = false → s.regBit (.vregCtl d) 31 = true → d < 8 →
       ∃ t, exec (.offRequest domain value) s = .next t ∧ (∀ e, e ≠ d → t.dom e = s.dom e) ∧
         if x.state = .on ∧ s.fired = true then
           t.dom d = x ∧ t.regBit (.vregCtl d) 31 = true ∧ t.regBit (.vregStat d) 24 = true ∧
             Claims.logs s t (Claims.entry s 0x25 0 d (0x40 + d) 0xFFFF d 0)
         else t.regBit (.vregCtl d) 31 = false ∧ t.flog0 = s.flog0 ∧ t.flog1 = s.flog1 ∧
           ((x.state = .on ∨ x.state = .ramp) → (t.dom d).state = .discharge ∧ (t.dom d).after = .off ∧ (t.dom d).since = s.now) ∧
           (x.state = .discharge → (t.dom d).state = .discharge ∧ (t.dom d).remembered = false)) ∧
     (nbit value.toNat 30 = true → nbit value.toNat 31 = s.regBit (.vregCtl d) 31 →
       ∃ t, exec (.vregCtlClear domain value) s = .next t ∧ Only [.domains] [.vregCtl] s t ∧
         (∀ e, e ≠ d → t.dom e = s.dom e) ∧ t.regBit (.vregCtl d) 31 = s.regBit (.vregCtl d) 31 ∧
         t.dom d = if x.state = .latched then { x with state := .off } else x)) ∧
  ((∀ (domain : Fin 12) (s : State), (s.dom domain.val).state = .ramp → ∃ t, exec (.rampComplete domain) s = .next t ∧
     Only [.domains] [.vstat] s t ∧ (∀ e, e ≠ domain.val → t.dom e = s.dom e) ∧ (t.dom domain.val).state = .on ∧
     (t.dom domain.val).since = s.now ∧
     (domain.val < 8 → t.regF (.vstat domain.val) 16 16 = s.regF (.vregCtl domain.val) 0 10)) ∧
   (∀ (domain : Fin 12) (cause : RampCause) (s : State), (s.dom domain.val).state = .ramp → cause ≠ .ok →
     let d := domain.val
     let fails := min 3 (s.regF (.vregStat d) 25 2 + 1)
     ∃ t, exec (.rampFailure domain cause) s = .next t ∧ Only [.domains, .ic, .flog0, .flog1] [.vregCtl, .vregStat] s t ∧
       (∀ e, e ≠ d → t.dom e = s.dom e) ∧ (t.dom d).state = (if fails = 3 then .dead else .latched) ∧
       t.regF (.vregStat d) 25 2 = fails ∧ t.regF (.vregStat d) 27 2 = RampCause.code cause ∧
       t.regBit (.vregCtl d) 31 = false ∧ Claims.logs s t (Claims.entry s 0x20 2 (dieField d)
         (if d < 8 then 0x40 + d else 0x70 + (d - 8)) 0xFFFF (RampCause.code cause) fails)) ∧
   (∀ (tower : Fin 8) (s : State), (s.dom tower.val).state = .on → (s.dom tower.val).since + 400000 ≤ s.now →
     ∃ t, exec (.fuseLoad tower) s = .next t ∧ Only [.domains] [] s t ∧ (∀ e, e ≠ tower.val → t.dom e = s.dom e) ∧
       t.dom tower.val = { s.dom tower.val with fuseLoaded := true }) ∧
   (∀ (domain : Fin 12) (s : State), (s.dom domain.val).state = .discharge →
     let x := s.dom domain.val
     ∃ t, exec (.dischargeComplete domain) s = .next t ∧ Only [.domains] [.vregCtl] s t ∧
       (∀ e, e ≠ domain.val → t.dom e = s.dom e) ∧
       (x.after = .dead ∨ x.after = .latched → (t.dom domain.val).state = x.after ∧ t.regBit (.vregCtl domain.val) 31 = false) ∧
       (x.after = .off → (t.dom domain.val).state = if x.remembered then .ramp else .off)))

/-- PHASE_DROP counts the phase and lowers a tower's ceiling, to at most 0.70 V from the third one; the fifth loses the
tower, the fourth an I/O die, which discharges to DEAD. UNDERVOLTAGE_STOP and UNDERVOLTAGE_RESUME stop the tower's sources
and log the stop when it ends; after 1 ms UNDERVOLTAGE_TOWER_LOSS loses the tower. Model's readings and choices: log entry
15. -/
def Obligations.PhaseDropsAndUndervoltage : Prop :=
  (∀ (tower : Fin 8) (phase : Fin 16) (sense : Bool) (currents : List (BitVec 16)) (s : State),
    (s.dom tower.val).state = .on → s.dieLost tower.val = false → s.regF (.vregPhasest tower.val) (2 * phase.val) 2 = 0 →
    let w := tower.val
    let n := s.phasesLost w + 1
    ∃ t, exec (.phaseDrop ⟨w, Nat.lt_of_lt_of_le tower.isLt (by decide)⟩ phase sense currents) s = .next t ∧
      t.regF (.vregPhasest w) (2 * phase.val) 2 = (if sense then 2 else 1) ∧ t.regF (.vregStat w) 20 4 = n % 16 ∧
      t.fpDirty = true ∧ t.regF (.vregStat w) 0 16 ≤ s.regF (.vregStat w) 0 16 ∧
      (n < 5 → (t.dom w) = s.dom w ∧ t.regF (.vstat w) 16 16 ≤ s.regF (.vstat w) 16 16 ∧
        (3 ≤ n → t.regF (.vregStat w) 0 16 ≤ 700) ∧
        (s.towerLive w = true → num t.towerState w = if n ≤ 2 then 1 else 2) ∧
        (∀ e, e ≠ w → t.dom e = s.dom e) ∧ Claims.logs s t (Claims.entry s 0x21 1 w (0x40 + w) 0xFFFF
          (phase.val + (if sense then 2 ^ 31 else 0)) (t.regF (.vregStat w) 0 16))) ∧
      (5 ≤ n → (t.dom w).state = .discharge ∧ (t.dom w).after = .dead ∧ (t.dom w).lost = true ∧ t.towerLive w = false ∧
        t.regF (.vstat w) 16 16 = 0)) ∧
  (∀ (x : Fin 4) (phase : Fin 16) (sense : Bool) (currents : List (BitVec 16)) (s : State),
    let d := 8 + x.val
    let c := Instr.phaseDrop ⟨8 + x.val, Nat.add_lt_add_left x.isLt 8⟩ phase sense currents
    (8 ≤ phase.val → exec c s = .next s) ∧
    ((s.dom d).state = .on → s.dieLost d = false → phase.val < 8 → s.regF (.vregPhasest d) (2 * phase.val) 2 = 0 →
      ∃ t, exec c s = .next t ∧ t.regF (.vregPhasest d) (2 * phase.val) 2 = (if sense then 2 else 1) ∧
        t.regF (.vregStat d) 20 4 = (s.phasesLost d + 1) % 16 ∧
        (s.phasesLost d < 3 → (∀ e, t.dom e = s.dom e) ∧ Claims.logs s t (Claims.entry s 0x21 1 (0x10 + x.val) (0x70 + x.val)
          0xFFFF (phase.val + (if sense then 2 ^ 31 else 0)) (s.regF (.vregStat d) 0 16))) ∧
        (3 ≤ s.phasesLost d → (t.dom d).state = .discharge ∧ (t.dom d).after = .dead ∧ (t.dom d).lost = true))) ∧
  (∀ (tower : Fin 8) (s : State), let w := tower.val
    let x := s.dom w
    (x.state = .on → x.uvSince = none → ∃ t, exec (.undervoltageStop tower) s = .next t ∧
      Only [.domains, .ic] [.twrUvcnt] s t ∧ t.dom w = { x with uvSince := some s.now } ∧ (∀ e, e ≠ w → t.dom e = s.dom e) ∧
      t.regF (.twrUvcnt w) 0 32 = min 0xFFFFFFFF (s.regF (.twrUvcnt w) 0 32 + 1)) ∧
    (∀ since, x.uvSince = some since → ∃ t, exec (.undervoltageResume tower) s = .next t ∧
      Only [.domains, .flog0, .flog1] [] s t ∧ t.dom w = { x with uvSince := none } ∧ (∀ e, e ≠ w → t.dom e = s.dom e) ∧
      Claims.logs s t (Claims.entry s 0x11 1 w (0x40 + w) 0xFFFF (s.now - since) 0)) ∧
    (∀ since, x.uvSince = some since → x.state = .on → x.lost = false → since + 200000 ≤ s.now →
      ∃ t, exec (.undervoltageTowerLoss tower) s = .next t ∧
        Only [.mem, .checks, .stores, .fpDirty, .coreState, .towerState, .chanPoisoned, .cores, .beds, .domains, .thermal,
          .capIo, .capTc, .flog0, .flog1, .fatal, .mbox, .leases, .engines, .xfers, .lists, .progress, .watchdogs]
          [.fabStat, .env, .vgov, .vstat] s t ∧
        (t.dom w).state = .discharge ∧ (t.dom w).after = .dead ∧ (t.dom w).lost = true ∧ (t.dom w).uvSince = none ∧
        t.towerLive w = false ∧ ∀ e, e ≠ w → t.dom e = s.dom e))

/-- VIN_ALERT holds every tower's envelope at 0.65 V until ENVELOPE_RETURN frees them one by one, 1 ms after
VIN_ALERT_RELEASE and every 100 µs. BROWNOUT logs itself and turns every domain off. Model's readings and choices: log
entry 15. -/
def Obligations.VinAlertAndBrownout : Prop :=
  ∀ s : State,
    (s.running = true → s.vinAlert = false → ∃ t, exec .vinAlert s = .next t ∧
      Only [.thermal, .vinAlert, .vinReturned, .ic] [.vinStat, .vinAlertcnt, .vstat] s t ∧ t.vinAlert = true ∧ t.vinReturned = 0 ∧
      t.regBit .vinStat 31 = true ∧ t.regBit .vinStat 30 = true ∧
      t.regF .vinAlertcnt 0 32 = min 0xFFFFFFFF (s.regF .vinAlertcnt 0 32 + 1) ∧
      ∀ w, w < 8 → (t.therm w).vinLow = true ∧ t.regF (.vstat w) 0 16 ≤ 650) ∧
    (s.vinAlert = true → ∃ t, exec .vinAlertRelease s = .next t ∧ Only [.vinAlert, .vinHighSince, .vinReturned] [.vinStat] s t ∧
      t.vinAlert = false ∧ t.vinHighSince = s.now ∧ t.vinReturned = 0 ∧ t.regBit .vinStat 31 = false) ∧
    (s.vinAlert = false → s.vinReturned < 8 → s.vinHighSince + 200000 + 20000 * s.vinReturned ≤ s.now →
      ∃ t, exec .envelopeReturn s = .next t ∧ Only [.thermal, .vinReturned] [.vstat] s t ∧
        t.vinReturned = s.vinReturned + 1 ∧ (t.therm s.vinReturned).vinLow = false ∧
        (∀ w, w ≠ s.vinReturned → t.therm w = s.therm w) ∧ t.regF (.vstat s.vinReturned) 0 16 =
          min s.fuses.bin.vmax (s.regF (.vregStat s.vinReturned) 0 16)) ∧
    (∀ vin : BitVec 16, s.running = true → s.brownedOut = false → ∃ t, exec (.brownout vin) s = .next t ∧
      Only [.brownedOut, .mem, .checks, .stores, .cores, .beds, .domains, .ports, .guests, .reqs, .quiesced, .flog0, .flog1,
        .alive, .standby, .hbActive, .hbStandby, .removing, .revocation, .engines, .xfers, .lists] [.vregCtl, .vinStat, .vstat] s t ∧
      t.brownedOut = true ∧ t.alive = false ∧ t.lists = [] ∧ t.regF .vinStat 0 16 = vin.toNat ∧
      (∀ d, d < 12 → (t.dom d).state ≠ .on ∧ (t.dom d).state ≠ .ramp ∧ t.regBit (.vregCtl d) 31 = false) ∧
      Claims.logs s t (Claims.entry s 0x24 4 0x10 0x70 0xFFFF vin.toNat 0))

/-- RESET_N_ASSERT turns every domain off and leaves the timebase, the fault logs, MB_FATAL and the registers of R9;
RELEASE latches the straps, starts the I/O dies and enters GREEN. PERST_N moves one port's reset alone. VAUX_LOSS and
VAUX_RISE leave the part as at power-on: count 0, no log entry, every register and byte at its reset value. -/
def Obligations.ResetKeepsWhatVauxKeeps : Prop :=
  ∀ s : State,
    (s.running = true → ∃ t, exec .resetNAssert s = .next t ∧ t.resetN = false ∧ t.vaux = true ∧ t.tb.count = s.tb.count ∧
      t.tb.locked = s.tb.locked ∧ t.now = s.now ∧ t.flog0 = s.flog0 ∧ t.flog1 = s.flog1 ∧ t.fatal = s.fatal ∧ t.straps = s.straps ∧
      t.reg .pkgHardpan = s.reg .pkgHardpan ∧ t.reg .vinAlertcnt = s.reg .vinAlertcnt ∧ t.mem = [] ∧ t.mbox = [] ∧ t.lists = [] ∧
      t.segs = [] ∧ t.alive = false ∧ t.bootRun = none ∧ t.fuses = s.fuses ∧ t.pending = s.pending ∧
      (∀ w, w < 8 → t.reg (.twrUvcnt w) = s.reg (.twrUvcnt w)) ∧
      (∀ d, d < 12 → t.reg (.vregPhasest d) = s.reg (.vregPhasest d)) ∧
      ∀ d x, (d, x) ∈ t.domains → x.state ≠ .on ∧ x.state ≠ .ramp ∧ x.state ≠ .latched) ∧
    (∀ (straps : BitVec 12) (ioUp : BitVec 4), s.vaux = true → s.resetN = false → s.inHardpan = false →
      ∃ t, exec (.resetNRelease straps ioUp) s = .next t ∧ t.resetN = true ∧ t.bootState = 1 ∧ t.bootStep = 1 ∧
        t.bw BW.straps = straps.setWidth 64 ∧ t.tb.count = s.tb.count ∧ t.flog0 = s.flog0 ∧ t.fatal = s.fatal ∧
        ∀ x, x < 4 → diePresent s.fuses (8 + x) = true → (t.dom (8 + x)).state ≠ .dead →
          (t.dom (8 + x)).state = (if nbit ioUp.toNat x then .on else .ramp) ∧ t.regBit (.vregCtl (8 + x)) 31 = true) ∧
    (∀ (port : Fin 4) (low : Bool), s.running = true → ∃ t, exec (.perstN port low) s = .next t ∧
      Only [.perstLow] [] s t ∧ ∀ b, nbit t.perstLow b = if b = port.val then low else nbit s.perstLow b) ∧
    ((s.vaux = true → ∃ t, exec .vauxLoss s = .next t ∧ t.vaux = false ∧ t.tb.count = 0 ∧ t.flog0.seq = 0 ∧
      t.flog0.slots = [] ∧ t.flog1.slots = [] ∧ t.regs = [] ∧ t.mem = [] ∧ t.fatal = 0 ∧ t.domains = [] ∧ t.mbox = [] ∧
      t.fuses = s.fuses ∧ t.pending = s.pending) ∧
     (s.vaux = false → ∃ t, exec .vauxRise s = .next t ∧ t.vaux = true ∧ t.tb.count = 0 ∧ t.tb.locked = false ∧
      t.flog0.seq = 0 ∧ t.flog0.slots = [] ∧ t.flog1.slots = [] ∧ t.regs = [] ∧ t.mem = [] ∧ t.fatal = 0 ∧ t.domains = [] ∧
      t.fuses = s.fuses ∧ t.pending = s.pending))

/-- STEPMON_MEASUREMENT keeps the lowest rate of the window; a rate below the minimum of Table 2-1 at the tower's set-
point sets slow, raises the event and logs the rate. STEPMON_WINDOW_END publishes the lowest rate and begins a new window.
Model's readings and choices: log entry 15. -/
def Obligations.StepRateIsMonitored : Prop :=
  (∀ (core : Fin 64) (ticks : BitVec 16) (s : State), (s.dom (core.val / 8)).state = .on →
    (s.dom (core.val / 8)).uvSince = none →
    let w := core.val / 8
    let rate := if ticks.toNat = 0 then 65535 else min 65535 (819200 / ticks.toNat)
    ∃ t, exec (.stepmonMeasurement core ticks) s = .next t ∧ Only [.thermal, .ic, .flog0, .flog1] [.stepmon] s t ∧
      (t.therm w).windowMin = some (match (s.therm w).windowMin with
        | some m => min m rate
        | none => rate) ∧
      (∀ v, v ≠ w → t.therm v = s.therm v ∧ t.reg (.stepmon v) = s.reg (.stepmon v)) ∧
      if 819200 < minRate (s.regF (.vstat w) 16 16) * ticks.toNat then
        t.regBit (.stepmon w) 15 = true ∧ Claims.raises s t (0x200 + 16 * w) ∧
          Claims.logs s t (Claims.entry s 0x10 2 w (0x40 + w) 0xFFFF rate (s.regF (.vstat w) 16 16))
      else t.reg (.stepmon w) = s.reg (.stepmon w) ∧ t.ic = s.ic ∧ t.flog0 = s.flog0 ∧ t.flog1 = s.flog1) ∧
  (∀ (tower : Fin 8) (m : Nat) (s : State), (s.therm tower.val).windowMin = some m →
    (s.therm tower.val).windowStart + windowTicks (s.regF (.stepmon tower.val) 0 2) ≤ s.now →
    ∃ t, exec (.stepmonWindowEnd tower) s = .next t ∧ Only [.thermal] [.stepmon] s t ∧
      t.regF (.stepmon tower.val) 16 16 = m % 2 ^ 16 ∧ t.regF (.stepmon tower.val) 0 2 = s.regF (.stepmon tower.val) 0 2 ∧
      (t.therm tower.val).windowMin = none ∧ (t.therm tower.val).windowStart = s.now)

/-! ### Heat and the governor (R342 to R352, R438) -/

/-- SENSOR_CONVERSION: a conversion in range makes the reading the mean of the last four; one out of range fails the
sensor. A reading of 105 °C in the logic or 100 °C in the DRAM puts the part into hardpan, with every domain off to DEAD.
SENSOR_FAILURE fails a sensor that has not converted for 100 µs, with entry 0x0060. Model's readings and choices: log
entries 15, 25 and 32. -/
def Obligations.SensorsConvertFailAndTrip : Prop :=
  (∀ (tower : Fin 8) (raw : List (BitVec 16)) (s : State), (s.dom tower.val).state = .on → s.running = true →
    raw.length = 32 → (∀ n, n < 32 → rawOk (toSigned 16 ((raw.map BitVec.toNat).getD n 0)) = true) →
    let v := fun n => toSigned 16 ((raw.map BitVec.toNat).getD n 0)
    let conv := fun n => (v n :: ((s.therm tower.val).sensor n).conv).take 4
    ∃ t, exec (.sensorConversion tower raw) s = .next t ∧
      (∀ n, n < 32 → ((t.therm tower.val).sensor n).conv = conv n ∧
        ((t.therm tower.val).sensor n).reading = (conv n).sum / ((conv n).length : Int) ∧
        ((t.therm tower.val).sensor n).failed = false ∧ ((t.therm tower.val).sensor n).lastConv = s.now) ∧
      (∀ w, w ≠ tower.val → t.therm w = s.therm w) ∧
      ((∃ n, n < 32 ∧ (if n < 16 then 105 * 128 else 100 * 128) ≤ (conv n).sum / ((conv n).length : Int)) →
        t.inHardpan = true ∧ t.bootState = 15 ∧ t.alive = false ∧ t.lists = [] ∧
        (∀ b, nbit t.fatal b = (nbit s.fatal b || b = fatHardpan)) ∧
        ∀ d, d < 12 → (t.dom d).state = .dead ∨ ((t.dom d).state = .discharge ∧ (t.dom d).after = .dead))) ∧
  (∀ (tower : Fin 8) (sensor : Fin 32) (s : State), let x := (s.therm tower.val).sensor sensor.val
    (s.dom tower.val).state = .on → x.lastConv + 20000 ≤ s.now → (s.dom tower.val).since + 20000 ≤ s.now → x.failed = false →
    ∃ t, exec (.sensorFailure tower sensor) s = .next t ∧ Only [.thermal, .ic, .flog0, .flog1] [.thstat, .tsens] s t ∧
      ((t.therm tower.val).sensor sensor.val).failed = true ∧ t.reg (.tsens tower.val sensor.val) = 0x80000000 ∧
      t.regBit (.thstat tower.val) 26 = true ∧ (∀ n, n ≠ sensor.val → (t.therm tower.val).sensor n = (s.therm tower.val).sensor n) ∧
      Claims.raises s t (0x200 + 16 * tower.val + 3) ∧ Claims.logs s t
        (Claims.entry s 0x60 1 tower.val (0x40 + tower.val) 0xFFFF sensor.val (ofSigned 16 (x.conv.headD 0))))

/-- THROTTLE_UPDATE sets p_hw to p_max less the reduction of R344, at most half of p_max once the envelope is halved.
THERMAL_FLAG_CLEAR clears a flag whose clear condition has held for 10 ms. THERMISTOR_CONVERSION publishes both inputs,
their validity and Tc, the larger valid one or 45 °C. RTH_ESTIMATION keeps an estimate of a power step of at least 7%.
Model's readings and choices: log entries 15 and 25. -/
def Obligations.ThrottleFlagsCoolantAndResistance : Prop :=
  (∀ (tower : Fin 8) (s : State), (s.dom tower.val).state = .on →
    let w := tower.val
    let h := s.therm w
    let dp := reduction (s.regF (.thcoef w) 16 16) (s.regF (.thcoef w) 0 16) h.tD h.tL h.gD
    let pm := s.regF (.env w) 16 16
    ∃ t, exec (.throttleUpdate tower) s = .next t ∧ Only [.thermal] [.env, .thstat] s t ∧
      t.regF (.env w) 0 16 = (if h.halved then min ((pm * 12800 - dp) / 12800) (pm / 2) else (pm * 12800 - dp) / 12800) ∧
      t.regF (.env w) 16 16 = pm ∧ (t.regBit (.thstat w) 28 = true ↔ 0 < dp) ∧
      (∀ v, v ≠ w → t.reg (.env v) = s.reg (.env v) ∧ t.therm v = s.therm v)) ∧
  (∀ (tower : Fin 8) (s : State), let w := tower.val
    ((s.therm w).dramHot.canClear s.now = true → ∃ t, exec (.thermalFlagClear tower .dramHot) s = .next t ∧
      Only [.thermal] [.thstat] s t ∧ t.therm w = { s.therm w with dramHot := {} } ∧
      ∀ b, b < 64 → t.regBit (.thstat w) b = (decide (b ≠ 31) && s.regBit (.thstat w) b)) ∧
    ((s.therm w).logicHot.canClear s.now = true → ∃ t, exec (.thermalFlagClear tower .logicHot) s = .next t ∧
      Only [.thermal] [.thstat] s t ∧ t.therm w = { s.therm w with logicHot := {} } ∧
      ∀ b, b < 64 → t.regBit (.thstat w) b = (decide (b ≠ 30) && s.regBit (.thstat w) b)) ∧
    ((s.therm w).rising.canClear s.now = true → ∃ t, exec (.thermalFlagClear tower .rising) s = .next t ∧
      Only [.thermal] [.thstat] s t ∧ t.therm w = { s.therm w with rising := {} } ∧
      ∀ b, b < 64 → t.regBit (.thstat w) b = (decide (b ≠ 29) && s.regBit (.thstat w) b))) ∧
  (∀ (a b : Thermistor) (s : State), s.vaux = true → ∃ t, exec (.thermistorConversion a b) s = .next t ∧
    Only [.capIo, .capTc] [.env, .pkgCoolant] s t ∧ t.regF .pkgCoolant 0 8 = thermByte a ∧ t.regF .pkgCoolant 8 8 = thermByte b ∧
    t.regBit .pkgCoolant 30 = thermValid a ∧ t.regBit .pkgCoolant 31 = thermValid b ∧
    t.regF .pkgCoolant 16 8 = (if thermValid a = false ∧ thermValid b = false then 90
      else max (if thermValid a then thermByte a else 0) (if thermValid b then thermByte b else 0))) ∧
  (∀ (tower : Fin 8) (m : RthMeasure) (s : State), s.alive = true → s.fired = true → s.towerLive tower.val = true →
    600 ≤ m.p1.toNat → (s.therm tower.val).lastRth + s.rthInterval * 200000000 ≤ s.now →
    let h := s.therm tower.val
    ∃ t, exec (.rthEstimation tower m) s = .next t ∧ Only [.thermal, .capIo, .capTc] [.env] s t ∧
      (t.therm tower.val).lastRth = s.now ∧ (∀ v, v ≠ tower.val → t.therm v = s.therm v) ∧
      if m.p2.toNat < m.p1.toNat ∧ 7 * m.p1.toNat ≤ 100 * (m.p1.toNat - m.p2.toNat) then
        ∃ d l, (t.therm tower.val).estD = (d :: h.estD).take 3 ∧ (t.therm tower.val).estL = (l :: h.estL).take 3
      else (t.therm tower.val).estD = h.estD ∧ (t.therm tower.val).estL = h.estL ∧ t.regs = s.regs)

/-- GOVERNOR_EVALUATION publishes the measurements and moves the set-point: down toward the target by at most 100 mV, down
by 10 mV while the power exceeds p_hw, up by 10 mV at most every 10 µs while the power is within 97% of it; never below
0.60 V. Model's readings and choices: log entries 15 and 25. -/
def Obligations.GovernorMovesTheSetPoint : Prop :=
  ∀ (tower : Fin 8) (mv cur : BitVec 16) (s : State), (s.dom tower.val).state = .on → s.running = true →
    let w := tower.val
    let sp := s.regF (.vstat w) 16 16
    let target := min (s.wanted w) (s.vEnv w)
    let hw := s.regF (.env w) 0 16
    let power := mv.toNat * cur.toNat
    600 ≤ sp →
    ∃ t, exec (.governorEvaluation tower mv cur) s = .next t ∧ t.regF (.vregMeas w) 0 16 = mv.toNat ∧
      t.regF (.vregMeas w) 16 16 = cur.toNat ∧ (∀ d, t.dom d = s.dom d) ∧
      (target < sp → t.regF (.vstat w) 16 16 = max 600 (max target (sp - 100))) ∧
      (sp ≤ target → hw * 1000 < power → t.regF (.vstat w) 16 16 = max 600 (sp - 10)) ∧
      (sp < target → 100 * power ≤ 97 * hw * 1000 → (s.therm w).lastRise + 2000 ≤ s.now →
        t.regF (.vstat w) 16 16 = min target (sp + 10) ∧ (t.therm w).lastRise = s.now) ∧
      (sp = target → power ≤ hw * 1000 → t.regF (.vstat w) 16 16 = sp) ∧
      ∀ v, v ≠ w → t.reg (.vstat v) = s.reg (.vstat v)

/-! ### Quantise counters (R111 to R115) and the floor-plan record (R26 to R34) -/

/-- QS_WINDOW_END zeroes the window's count and elements and keeps the total; a write of CORE_QSCTLn restarts its window,
and with clear zeroes its total too; EXC_CLEAR zeroes exceeded. FLOOR_PLAN_UPDATE publishes the next even generation with
the states of cores, channels and banks as they are. Model's readings and choices: log entry 37. -/
def Obligations.QuantiseCountersAndTheRecord : Prop :=
  (∀ (core : Fin 64) (n : Fin 9) (s : State), 2 ^ s.regF (.qsctl core.val n.val) 24 5 ≤ (s.reg (.qselem core.val n.val)).toNat →
    ∃ t, exec (.qsWindowEnd core n) s = .next t ∧ Only [] [.qswin, .qselem] s t ∧ t.reg (.qswin core.val n.val) = 0 ∧
      t.reg (.qselem core.val n.val) = 0 ∧ ∀ m, m < 9 → m ≠ n.val →
        t.reg (.qswin core.val m) = s.reg (.qswin core.val m) ∧ t.reg (.qselem core.val m) = s.reg (.qselem core.val m)) ∧
  (∀ (core : Fin 64) (n : Fin 9) (value : Word) (s : State), s.dieLost (core.val / 8) = false →
    (∃ t, exec (.coreQsctlWrite core n value) s = .next t ∧ Only [] [.qsctl, .qswin, .qselem, .qstot] s t ∧
      t.reg (.qswin core.val n.val) = 0 ∧ t.reg (.qselem core.val n.val) = 0 ∧
      t.reg (.qstot core.val n.val) = if nbit value.toNat 30 then 0 else s.reg (.qstot core.val n.val)) ∧
    (nbit value.toNat 30 = true → ∃ t, exec (.coreQsctlClear core n value) s = .next t ∧
      Only [] [.qsctl, .qswin, .qselem, .qstot] s t ∧ t.reg (.qswin core.val n.val) = 0 ∧
      t.reg (.qselem core.val n.val) = 0 ∧ t.reg (.qstot core.val n.val) = 0) ∧
    (nbit value.toNat 15 = true → ∃ t, exec (.excClear core value) s = .next t ∧ Only [] [.qsstat] s t ∧
      t.regF (.qsstat core.val) 16 16 = 0 ∧
      ∀ b, b < 9 → t.regBit (.qsstat core.val) b = (s.regBit (.qsstat core.val) b && !nbit value.toNat b))) ∧
  (∀ s : State, s.alive = true → s.published = true → s.fpDirty = true → ∃ t, exec .floorPlanUpdate s = .next t ∧
    Only [.fplan, .fpDirty, .published, .mbox] [] s t ∧ t.fpDirty = false ∧ rdLe t.fplan 0 4 = 0x4E4C5046 ∧
    t.fpGen = (if (s.fpGen + 2) % 2 ^ 32 = 0 then 2 else (s.fpGen + 2) % 2 ^ 32) ∧ rdLe t.fplan 0x10 8 = s.tb.count % 2 ^ 64 ∧
    (∀ k, k < 64 → rdLe t.fplan (0x40 + k) 1 = num s.coreState k % 256) ∧
    (∀ w, w < 8 → rdLe t.fplan (0x80 + w) 1 = num s.towerState w % 256) ∧
    (∀ n, n < 12 → rdLe t.fplan (0xA0 + 2 * n) 2 = num s.chanMapped n % 2 ^ 16 ∧
      rdLe t.fplan (0xB8 + 2 * n) 2 = num s.chanPoisoned n % 2 ^ 16) ∧
    ∀ k, k < 64 → rdLe t.fplan (0x100 + 16 * k) 16 =
      if s.coreEnabled k then num s.bankRetired k % 2 ^ 128 else 2 ^ 128 - 1)

/-! ### Issue and synchronisation operations (R251 to R262, R270 to R273) -/

/-- Every operation row issues only the next operation of a list that can issue, of its own opcode, and with FENCE_BEFORE
only when nothing is in flight; else it changes nothing. An operation that ends past the list, whose words fail a check,
or whose core field is wrong completes with MALFORMED and the failing field's offset, and stops the list's issue. Model's
readings and choices: log entries 15 and 18. -/
def Obligations.OperationsAreCheckedAtIssue : Prop :=
  ∀ (c : Instr) (id : Nat) (early : Option (List Byte)) (opc : Nat) (s : State), Claims.opRow c = some (id, early, opc) →
    (s.list? id = none → exec c s = .next s) ∧
    ∀ l, s.list? id = some l →
      (s.canIssue l = false → exec c s = .next s) ∧
      (s.canIssue l = true → (s.fetchOp l early).acc = .ok → (s.fetchOp l early).s = s →
        let bs := (s.fetchOp l early).data
        let o := Claims.newOp s l bs
        let n := max 1 (opUnits o.opcode)
        let bad := fun d => ∃ t, exec c s = .next t ∧ Only [.lists, .issueOrder] [] s t ∧
          t.list? id = some { l with next := l.next + n, ops := l.ops ++ [{ o with stage := .finished, status := osMalformed, detail := d }],
                                     endIssued := o.opcode = 0x1F, failed := some (l.next, osMalformed) } ∧
          ∀ j, j ≠ id → t.list? j = s.list? j
        (o.opcode ≠ opc → opUnits o.opcode ≠ 0 → exec c s = .next s) ∧
        (o.opcode = opc ∨ opUnits o.opcode = 0 →
          (o.fenceBefore = true → l.ops ≠ [] → exec c s = .next s) ∧
          (o.fenceBefore = false ∨ l.ops = [] → l.op? l.next = none →
            (l.units < l.next + n → bad 0) ∧
            (l.next + n ≤ l.units → ∀ d, wordCheck bs = some d → bad d) ∧
            (l.next + n ≤ l.units → wordCheck bs = none → s.coreCheck l o ≠ none → bad 3))))

/-- FENCE, SIGNAL and END act once nothing is before them in the list: FENCE completes, SIGNAL adds its value to its
semaphore in one step, modulo 2^64, or sends it to its package, and END completes with MALFORMED unless it is the last
unit. LAUNCH_AT completes when its count is reached, late if it had passed; BANK_FENCE completes at once, with NODE_LOST
if a core it names is lost. While other operations are in flight, the first three stay queued. Status RUNNING stands in a
record from issue on. WAIT reads its semaphore at issue, and WAIT_POLL again every 64 ticks: it completes when the value
is at least its own, compared unsigned. WAIT_TIMEOUT fails it with status 9 once its ticks have run out. LAUNCH_AT_RELEASE
completes a LAUNCH_AT whose count is reached. Model's readings and choices: log entries 15, 19 and 20. -/
def Obligations.SynchronisationOperationsRun : Prop :=
  (∀ (id : Nat) (early : Option (List Byte)) (l : WorkList) (o : Op) (s : State),
     let u := Claims.issued s l o
     (∀ opc rules a g, Claims.passes s id early opc rules l o → o.wantsRecord = true →
       s.recordPlace (Claims.listWith l o) o = some (.dev a g) → Claims.sound s a 1 = true → Claims.quiet s = true → rdB u.mem a = 0xFF) ∧
     (Claims.passes s id early 0x10 Claims.noRules l o → ∃ t, exec (.fence id early) s = .next t ∧
       Only (Claims.listParts ++ Claims.sendParts) Claims.listRegs s t ∧
       (l.ops = [] → Claims.noBytes u t ∧ Claims.opAt t id l.next .finished osOk) ∧
       (l.ops ≠ [] → Claims.opAt t id l.next .queued osRunning)) ∧
     (Claims.passes s id early 0x11 Claims.signalRules l o → ∃ t, exec (.signal id early) s = .next t ∧
       Only (Claims.listParts ++ Claims.sendParts) Claims.listRegs s t ∧
       (l.ops ≠ [] → Claims.opAt t id l.next .queued osRunning) ∧
       (l.ops = [] → nbit (o.f 0x18 1) 0 = false ∨ o.f 0x19 1 = s.pkgId →
         (∀ a g, u.resolve l.tenant (o.f 8 8) (plain 8) (rRead + rWrite) = some (.dev a g) → Claims.sound u a 8 = true →
           Claims.quiet u = true → Claims.stored u t a (leBytes 8 ((leNat (rdBytes u.mem a 8) + o.f 0x10 8) % 2 ^ 64)) ∧
           Claims.opAt t id l.next .finished osOk)) ∧
       (l.ops = [] → nbit (o.f 0x18 1) 0 = true → o.f 0x19 1 ≠ s.pkgId → Claims.noBytes u t ∧
         (Claims.opAt t id l.next .finished osNodeLost ∨
           (Claims.opAt t id l.next .started osRunning ∧ t.reqs.length = s.reqs.length + 1)))) ∧
     (Claims.passes s id early 0x1F Claims.noRules l o → ∃ t, exec (.endOp id early) s = .next t ∧
       Only (Claims.listParts ++ Claims.sendParts) Claims.listRegs s t ∧
       (l.ops = [] → Claims.noBytes u t ∧ Claims.opAt t id l.next .finished (if l.next + 1 = l.units then osOk else osMalformed)) ∧
       (l.ops ≠ [] → Claims.opAt t id l.next .queued osRunning)) ∧
     (Claims.passes s id early 0x15 Claims.noRules l o → ∃ t, exec (.launchAt id early) s = .next t ∧
       Only Claims.listParts Claims.listRegs s t ∧ Claims.noBytes u t ∧
       (t.op? id l.next).map (fun q => (q.stage, q.status, q.late)) =
         some (if o.f 8 8 ≤ s.tb.count then (.finished, osOk, decide (o.f 8 8 < s.tb.count)) else (.started, osRunning, false))) ∧
     (Claims.passes s id early 0x0A Claims.bankFenceRules l o → ∃ t, exec (.bankFence id early) s = .next t ∧
       Only Claims.listParts Claims.listRegs s t ∧ Claims.noBytes u t ∧ Claims.opAt t id l.next .finished
         (if (List.range 64).any (fun k => nbit (o.f 8 8) k && num s.coreState k = 3) then osNodeLost else osOk))) ∧
  ((∀ (id : Nat) (early : Option (List Byte)) (l : WorkList) (o : Op) (a : Nat) (g : Seg) (s : State),
     let u := Claims.issued s l o
     Claims.passes s id early 0x12 (fun s l o => semRules s l (o.f 8 8) false) l o →
     u.resolve l.tenant (o.f 8 8) (plain 8) (rRead + rWrite) = some (.dev a g) → Claims.sound u a 8 = true →
     ∃ t, exec (.wait id early) s = .next t ∧ Only Claims.listParts Claims.listRegs s t ∧ Claims.noBytes u t ∧
       if o.f 0x10 8 ≤ leNat (rdBytes u.mem a 8) then Claims.opAt t id l.next .finished osOk
       else Claims.opAt t id l.next .started osRunning ∧ (t.op? id l.next).map (·.lastPoll) = some s.now) ∧
   (∀ (id : Nat) (l : WorkList) (o : Op) (s : State), s.startedOp id 0x12 = some (l, o) → s.list? id = some l →
     l.op? o.offset = some o →
     (o.lastPoll + 64 ≤ s.now → s.towerRuns l.home = true → ∀ a g,
       s.resolve l.tenant (o.f 8 8) (plain 8) (rRead + rWrite) = some (.dev a g) → Claims.sound s a 8 = true →
       ∃ t, exec (.waitPoll id) s = .next t ∧
         Only [.fpDirty, .chanPoisoned, .hbm, .ic, .flog0, .flog1, .mbox, .lists] Claims.listRegs s t ∧
         if o.f 0x10 8 ≤ leNat (rdBytes s.mem a 8) then Claims.opAt t id o.offset .finished osOk
         else t.op? id o.offset = some { o with lastPoll := s.now }) ∧
     (s.now < o.lastPoll + 64 → exec (.waitPoll id) s = .next s) ∧
     (o.f 0x18 4 ≠ 0 → o.issuedAt + o.f 0x18 4 ≤ s.now → ∃ t, exec (.waitTimeout id) s = .next t ∧ Only [.lists] [] s t ∧
       Claims.opAt t id o.offset .finished osWaitTimeout ∧
       (l.failed = none → l.stopStatus = none → (t.list? id).map (·.failed) = some (some (o.offset, osWaitTimeout)))) ∧
     (o.f 0x18 4 = 0 ∨ s.now < o.issuedAt + o.f 0x18 4 → exec (.waitTimeout id) s = .next s)) ∧
   (∀ (id : Nat) (l : WorkList) (o : Op) (s : State), s.startedOp id 0x15 = some (l, o) → s.list? id = some l →
     l.op? o.offset = some o →
     (o.f 8 8 ≤ s.tb.count → ∃ t, exec (.launchAtRelease id) s = .next t ∧ Only [.lists] [] s t ∧
       Claims.opAt t id o.offset .finished osOk ∧ (t.op? id o.offset).map (·.late) = some o.late) ∧
     (s.tb.count < o.f 8 8 → exec (.launchAtRelease id) s = .next s)))

/-- OPERATION_COMPLETE: an operation whose work has ended writes its record, counts NONDET, and leaves the list; a list
whose END has completed, or which has failed with nothing in flight, completes its SUBMIT. Model's readings and choices:
log entry 15. -/
def Obligations.OperationsCompleteInTheirList : Prop :=
  ∀ (id off : Nat) (l : WorkList) (o : Op) (s : State), Claims.noBankAttend s → s.list? id = some l → l.op? off = some o →
    (o.stage ≠ .finished ∨ l.state = .preempted → exec (.operationComplete id off) s = .next s) ∧
    (o.stage = .finished → l.state ≠ .preempted → ∃ t, exec (.operationComplete id off) s = .next t ∧
      Only [.out, .freeCtr, .mem, .checks, .stores, .fpDirty, .chanPoisoned, .beds, .hbm, .thermal, .ports, .reqs, .ic, .flog0,
        .flog1, .mbox, .lists, .tagCtr, .progress, .watchdogs] (Claims.listRegs ++ [.bedStatus, .bedDonecnt, .vgov, .detNondet]) s t ∧
      t.op? id off = none ∧ num t.progress l.tenant = s.now ∧ num t.watchdogs l.tenant = 0 ∧
      (l.tenant ≤ 64 → l.home < 8 → t.regF (.detNondet l.tenant) 0 32 =
        if o.nondet then min 0xFFFFFFFF (s.regF (.detNondet l.tenant) 0 32 + 1) else s.regF (.detNondet l.tenant) 0 32) ∧
      ((∀ q, q ∈ l.ops → q.offset = off) →
        (o.wantsRecord = true → l.stopStatus = none → ∀ a g, s.recordPlace l o = some (.dev a g) →
          Claims.sound s a 0x180 = true → Claims.quiet s = true → Claims.stored s t a (s.recordBytes o)) ∧
        (o.wantsRecord = false ∨ l.stopStatus ≠ none → Claims.noBytes s t) ∧
        (l.state ≠ .waiting → l.stopStatus = none → o.notifies = false →
          (o.wantsRecord = true → ∃ a g, s.recordPlace l o = some (.dev a g) ∧ Claims.sound s a 0x180 = true ∧ Claims.quiet s = true) →
          (l.failed = none → o.opcode = 0x1F → l.endIssued = true → Claims.reported s t l stOk osOk 0) ∧
          (∀ at_ st, l.failed = some (at_, st) → Claims.reported s t l stListFailed st at_) ∧
          (l.failed = none → l.units ≤ l.next → l.endIssued = false → o.opcode ≠ 0x1F →
            Claims.reported s t l stListFailed osMalformed l.units) ∧
          (l.failed = none → l.next < l.units → o.opcode ≠ 0x1F → t.list? id = some { l with ops := [] }))))

/-- PREEMPTION_REQUEST stops the issue of a running list and withdraws what has not started. TILE_BOUNDARY_STOP stops a
started resumable operation between tiles and takes it out of its units. RESUME_RECORD_WRITE saves store images, entries
and the header, and the list is preempted. LIST_RESUME restores the images and each stopped operation's progress and puts
it back into its unit, or fails the list with TOWER_LOST if a core it needs is lost. Model's readings and choices: log
entries 15, 39 and 71. -/
def Obligations.ListsStopAndResume : Prop :=
  ∀ (id : Nat) (l : WorkList) (s : State), s.list? id = some l →
    (l.preemptible = false → exec (.preemptionRequest id) s = .next s) ∧
    (l.preemptible = true → ∃ t, exec (.preemptionRequest id) s = .next t ∧ Only [.cores, .lists] [] s t ∧
      t.list? id = some { l with state := .stopping, ops := l.ops.map fun o =>
        if o.stage ≠ .finished && [0x10, 0x11, 0x12, 0x15, 0x1F].contains o.opcode then { o with stage := .queued } else o } ∧
      ∀ k, t.coreUnit k = { s.coreUnit k with
        arrayQ := (s.coreUnit k).arrayQ.filter fun e => !(e.1 = id && l.ops.any fun o => o.offset = e.2 && o.stage = .queued),
        chainQ := (s.coreUnit k).chainQ.filter fun j => !(j.list = id && l.ops.any fun o => o.offset = j.op && o.stage = .queued) }) ∧
    (∀ off o, l.op? off = some o →
      (l.state ≠ .stopping ∨ o.stage ≠ .started ∨ o.resumable = false ∨ s.atBoundary id off = false → o.stage ≠ .stopped →
        exec (.tileBoundaryStop id off) s = .next s) ∧
      (l.state = .stopping → o.stage = .started → o.resumable = true → s.atBoundary id off = true →
        ∃ t, exec (.tileBoundaryStop id off) s = .next t ∧
          Only [.freeCtr, .mem, .fpDirty, .chanPoisoned, .cores, .beds, .hbm, .thermal, .ic, .flog0, .flog1, .mbox, .lists,
            .progress, .watchdogs] (Claims.listRegs ++ [.bedStatus, .bedDonecnt, .vgov]) s t ∧
          (l.failed = none → l.stopStatus = none → (t.op? id off).map (fun q => { q with fold := [] }) =
            some { o with stage := .stopped, stoppedAt := s.now, preempted := true, fold := [] }) ∧
          (l.failed ≠ none ∨ l.stopStatus ≠ none → t.op? id off = none) ∧
          ∀ k, (∀ j, j ∈ (t.coreUnit k).chainQ ↔ j ∈ (s.coreUnit k).chainQ ∧ ¬ (j.list = id ∧ j.op = off)) ∧
            (∀ e, e ∈ (t.coreUnit k).arrayQ ↔ e ∈ (s.coreUnit k).arrayQ ∧ e ≠ (id, off)))) ∧
    (∀ a g, l.state = .stopping → l.stopped = true → l.failed = none → l.stopStatus = none → l.ops.length ≤ 32 →
      s.resolve l.tenant l.resume Claims.resumeArea (rRead + rWrite) = some (.dev a g) → a + 0x10000 + 8 * imageBytes ≤ 2 ^ 48 →
      a % 64 = 0 → Claims.sound s a 0x4840 = true → Claims.quiet s = true →
      ∃ t, exec (.resumeRecordWrite id) s = .next t ∧
        Only [.mem, .checks, .stores, .fpDirty, .chanPoisoned, .hbm, .thermal, .ic, .flog0, .flog1, .mbox, .lists]
          (Claims.listRegs ++ [.vgov]) s t ∧
        t.list? id = some { l with state := .preempted, waitingSince := s.now } ∧
        rdBytes t.mem a 64 = leBytes 4 0x4D534552 ++ [1] ++ leBytes 1 l.ops.length ++
          leBytes 1 ((l.imageCores.map fun c => 2 ^ c).sum) ++ [0] ++ leBytes 4 l.next ++ List.replicate 4 0 ++
          leBytes 8 s.tb.count ++ List.replicate 40 0 ∧
        (∀ i o, l.ops[i]? = some o → o.core < 64 → l.home < 8 → rdBytes t.mem (a + 0x40 + i * 0x200) 512 = s.opEntry o) ∧
        ∀ c, c ∈ l.imageCores → rdBytes t.mem (a + 0x10000 + c * imageBytes) imageBytes =
          rdBytes s.stores (storeBase (l.home * 8 + c)) imageBytes) ∧
    (l.state ≠ .stopping ∨ l.stopped = false → exec (.resumeRecordWrite id) s = .next s) ∧
    (l.state ≠ .resuming → exec (.listResume id) s = .next s) ∧
    (l.state = .resuming → s.dieLost l.home = true ∨ (∃ c, c ∈ l.imageCores ∧ s.coreEnabled (l.home * 8 + c) = false) →
      l.failed = none → l.stopStatus = none → ∃ t, exec (.listResume id) s = .next t ∧
        Claims.reported s t l stListFailed osTowerLost ((l.ops.map Op.offset).foldl min l.next)) ∧
    (∀ a g, l.state = .resuming → s.dieLost l.home = false → (∀ c, c ∈ l.imageCores → s.coreEnabled (l.home * 8 + c) = true) →
      l.failed = none → l.stopStatus = none → l.ops.length ≤ 32 → (∀ o, o ∈ l.ops → o.opcode = 1 ∨ o.opcode = 2) →
      s.resolve l.tenant l.resume Claims.resumeArea (rRead + rWrite) = some (.dev a g) → a + 0x10000 + 8 * imageBytes ≤ 2 ^ 48 →
      a % 64 = 0 → Claims.sound s a 0x4840 = true →
      ∃ t l2, exec (.listResume id) s = .next t ∧ t.list? id = some l2 ∧ l2.state = .running ∧ l2.next = l.next ∧
        l2.ops.length = l.ops.length ∧ t.mem = s.mem ∧
        (∀ c, c ∈ l.imageCores → rdBytes t.stores (storeBase (l.home * 8 + c)) imageBytes =
          rdBytes s.mem (a + 0x10000 + c * imageBytes) imageBytes) ∧
        ∀ i o, l.ops[i]? = some o → o.stage = .stopped → ∃ q, l2.ops[i]? = some q ∧
          let e := rdBytes s.mem (a + 0x40 + i * 0x200) 512
          q.stage = .queued ∧ q.resumes = o.resumes + 1 ∧ q.offset = o.offset ∧ q.bytes = o.bytes ∧ q.tile = fieldAt e 8 8 ∧
            q.sub = fieldAt e 0x10 8 ∧ q.steps = fieldAt e 0x18 8 ∧ q.digest = fieldAt e 0x20 8 ∧
            (o.opcode = 1 → (id, o.offset) ∈ (t.coreUnit o.core).arrayQ) ∧
            (o.opcode = 2 → ∃ j, j ∈ (t.coreUnit o.core).chainQ ∧ j.list = id ∧ j.op = o.offset ∧ j.row = q.tile))

/-! ### Array and chain (R51 to R92, R263, R264) -/

/-- MATMUL and VCHAIN enter the queues of their core's array and chain with their binding and descriptor. SHADOW_LOAD
takes the weights of a quadrant's next tile, SWAP makes them active and streams the rows of their tiles, ROW_BROADCAST
does both for the whole array. VCHAIN_BEAT passes one beat through the chain: its output is written, and the job ends with
its last beat. Model's readings and choices: log entries 15 and 40. -/
def Obligations.ArrayAndChainWork : Prop :=
  (∀ (id : Nat) (early : Option (List Byte)) (l : WorkList) (o : Op) (s : State),
    let u := Claims.issued s l o
    let c := s.coreUnit o.core
    (Claims.passes s id early 0x01 matmulRules l o → ∃ t, exec (.matmul id early) s = .next t ∧
      Only (Claims.listParts ++ [.cores]) Claims.listRegs s t ∧ Claims.noBytes u t ∧ Claims.opAt t id l.next .queued osRunning ∧
      (t.coreUnit o.core).arrayQ = c.arrayQ ++ [(id, l.next)] ∧
      ∀ pb pd, mmBinding o ≠ 0 → u.resolve l.tenant (mmBinding o) (plain 64) rRead = some pb → Claims.usable u pb 64 = true →
        u.resolve l.tenant (fieldAt (Claims.bytesAt u o.core pb 64) 0 8) (plain 64) rRead = some pd → Claims.usable u pd 64 = true →
        (t.op? id l.next).map (·.aux) = some (Claims.bytesAt u o.core pb 64 ++ Claims.bytesAt u o.core pd 64)) ∧
    (Claims.passes s id early 0x02 vchainRules l o → ∃ t, exec (.vchain id early) s = .next t ∧
      Only (Claims.listParts ++ [.cores]) Claims.listRegs s t ∧ Claims.noBytes u t ∧ Claims.opAt t id l.next .queued osRunning ∧
      (t.coreUnit o.core).chainQ = c.chainQ ++
        [{ list := id, op := l.next, row0 := 0, col0 := 0, rows := vcRows o, cols := vcCols o, fused := false }] ∧
      ∀ pd, u.resolve l.tenant (vcBinding o).desc (plain 64) rRead = some pd → Claims.usable u pd 64 = true →
        (t.op? id l.next).map (·.aux) = some ((vcBinding o).bytes ++ Claims.bytesAt u o.core pd 64))) ∧
  (∀ (core : Fin 64) (quad : Fin 4) (s : State),
    let k := core.val
    let q := quad.val
    let c := s.coreUnit k
    (s.towerRuns (k / 8) = false ∨ c.shadow.any (fun x => x.1 = q) = true ∨ s.mmNow k (some q) = none →
      exec (.shadowLoad core quad) s = .next s) ∧
    (∀ id o l r, s.towerRuns (k / 8) = true → c.shadow.any (fun x => x.1 = q) = false → s.mmNow k (some q) = some (id, o) →
      s.list? id = some l → (s.startOp id o.offset).readSet l o o.tile = some r → r.acc = .ok →
      ∃ t, exec (.shadowLoad core quad) s = .next t ∧
        Only (Claims.listParts ++ [.freeCtr, .cores]) Claims.listRegs s t ∧ Claims.noBytes s t ∧
        t.coreUnit k = { c with shadow := insertKey q r.set c.shadow } ∧
        (o.stage = .queued → Claims.opAt t id o.offset .started o.status) ∧
        ∀ p, let ix := (mmTile o o.tile).weightIx o
          let n := mmTileBytes o
          s.resolve l.tenant (mmWeights o) (plain (ix * n + n)) rRead true = some p → num s.bankRetired o.core = 0 →
          Claims.usable s (p.plus (ix * n)) n = true →
          rdBytes r.set.weights 0 n = Claims.bytesAt s o.core (p.plus (ix * n)) n) ∧
    (∀ w l o, c.shadow.find? (fun x => x.1 = q) = some (q, w) → s.list? w.list = some l → s.op? w.list w.op = some o →
      (s.towerRuns (k / 8) = false ∨ s.clearAhead o w.tile = false → exec (.swap core quad) s = .next s) ∧
      (s.towerRuns (k / 8) = true → s.clearAhead o w.tile = true → o.core = k → w.tile = o.tile → Claims.mmSound s l o →
        ∃ t, exec (.swap core quad) s = .next t ∧
          Only (Claims.listParts ++ [.freeCtr, .cores]) (Claims.listRegs ++ [.mxstat, .mxsatcnt]) s t ∧
          (t.coreUnit k).shadow = removeKey q c.shadow ∧ (t.coreUnit k).active = insertKey q w c.active ∧
          Claims.streamed s t l o w ∧ Claims.tilesDone s t l o w)) ∧
    (c.shadow.find? (fun x => x.1 = q) = none → exec (.swap core quad) s = .next s)) ∧
  (∀ (core : Fin 64) (id : Nat) (l : WorkList) (o : Op) (s : State),
    let k := core.val
    s.mmNow k none = some (id, o) → s.list? id = some l →
    (s.towerRuns (k / 8) = false ∨ s.clearAhead o o.tile = false → exec (.rowBroadcast core) s = .next s) ∧
    (∀ r, s.towerRuns (k / 8) = true → s.clearAhead o o.tile = true → o.core = k → Claims.mmSound s l o →
      (s.startOp id o.offset).readSet l o o.tile = some r → r.acc = .ok → ∃ t, exec (.rowBroadcast core) s = .next t ∧
        Only (Claims.listParts ++ [.freeCtr, .cores]) (Claims.listRegs ++ [.mxstat, .mxsatcnt]) s t ∧
        (t.coreUnit k).whole = some r.set ∧ Claims.streamed s t l o r.set ∧ Claims.tilesDone s t l o r.set)) ∧
  (∀ (core : Fin 64) (s : State),
    let k := core.val
    (s.towerRuns (k / 8) = false ∨ s.nextJobOf k = none → exec (.vchainBeat core) s = .next s) ∧
    ∀ j l o, s.towerRuns (k / 8) = true → s.nextJobOf k = some j → s.list? j.list = some l → s.op? j.list j.op = some o →
      o.stage ≠ .finished →
      let s0 := s.startOp j.list j.op
      let io := if j.fused then s0.fusedIo l o j else s0.vchainIo l o
      let frame := Only (Claims.listParts ++ [.freeCtr, .cores]) (Claims.listRegs ++ Claims.unitRegs) s
      (internalOp o.opcode = true → s.arrayTurn l o = true →
        exec (.vchainBeat core) s = .next ((s.dropOp l.id o.offset).runInternal l o)) ∧
      (internalOp o.opcode = false → io = none → ∃ t, exec (.vchainBeat core) s = .next t ∧ frame t ∧ Claims.noBytes s t ∧
        Claims.opAt t j.list j.op .finished osSegment) ∧
      (∀ x, internalOp o.opcode = false → io = some x → (Claims.beatOf s k l o j x).acc ≠ .ok →
        ∃ t, exec (.vchainBeat core) s = .next t ∧ frame t ∧
          Claims.opAt t j.list j.op .finished (Claims.beatOf s k l o j x).acc.status) ∧
      (∀ x, internalOp o.opcode = false → io = some x → (Claims.beatOf s k l o j x).acc = .ok →
        let r := Claims.beatOf s k l o j x
        let nx := nextBeat j.cols j.row j.beat
        ∃ t, exec (.vchainBeat core) s = .next t ∧ frame t ∧ Claims.noBytes r.s t ∧
          (nx.1 < j.rows → { j with row := nx.1, beat := nx.2, red := r.red } ∈ (t.coreUnit k).chainQ) ∧
          (j.rows ≤ nx.1 → (∀ y, y ∈ (t.coreUnit k).chainQ → y.same j = false) ∧
            (j.fused = false → Claims.opAt t j.list j.op .finished osOk))))

/-! ### The data mover and SAMPLE (R267 to R269, R383, R385) -/

/-- COPY and GATHER store the bytes they read and nothing else; DIGEST reports the CRC of its range; SAMPLE writes one
index for each row, chosen with the row's random number. SAMPLE waits while the chain is in use. Bytes of an overlapping
move are undefined, and a COPY to another package waits for its answers. Model's readings and choices: log entries 45, 54
and 55. -/
def Obligations.TheDataMoverMoves : Prop :=
  ∀ (id : Nat) (early : Option (List Byte)) (l : WorkList) (o : Op) (s : State),
    let u := Claims.issued s l o
    let k := o.core
    let t0 := l.tenant
    let parts := Claims.listParts ++ [.freeCtr]
    (Claims.passes s id early 0x08 copyRules l o → ∃ t, exec (.copy id early) s = .next t ∧
      Only (parts ++ Claims.sendParts) Claims.listRegs s t ∧
      (cpRemote o = false → ∀ src dst, u.resolve t0 (o.f 8 8) (plain (cpBytes o)) rRead = some src →
        u.resolve t0 (o.f 0x10 8) (plain (cpBytes o)) rWrite = some dst → Claims.usable u src (cpBytes o) = true →
        Claims.usable u dst (cpBytes o) = true → Claims.quiet u = true →
        Claims.opAt t id l.next .finished osOk ∧ Claims.onlyAt u t k dst (plain (cpBytes o)) ∧
        (s.copyMeets l o = false → Claims.bytesAt t k dst (cpBytes o) = Claims.bytesAt u k src (cpBytes o))) ∧
      (cpRemote o = true → cpPkg o ≠ s.pkgId → ∀ src, u.resolve t0 (o.f 8 8) (plain (cpBytes o)) rRead = some src →
        Claims.usable u src (cpBytes o) = true → Claims.noBytes u t ∧
          (Claims.opAt t id l.next .finished osNodeLost ∨ Claims.opAt t id l.next .started osRunning))) ∧
    (Claims.passes s id early 0x09 gatherRules l o → ∃ t, exec (.gather id early) s = .next t ∧
      Only parts Claims.listRegs s t ∧
      ∀ ix dst, u.resolve t0 (o.f 0x18 8) (plain (4 * gaCount o)) rRead = some ix →
        u.resolve t0 (o.f 0x10 8) (gaDst o) rWrite = some dst → Claims.usable u ix (4 * gaCount o) = true →
        Claims.usable u dst (gaDst o).span = true → Claims.quiet u = true →
        let row := fun i => fieldAt (Claims.bytesAt u k ix (4 * gaCount o)) (4 * i) 4
        let at_ := u.startOf t0 (o.f 8 8)
        let src := fun i => u.resolveOff t0 (o.f 8 8) (row i * gaSrcPitch o) (gaBytes o) rRead
        (o.nondet = false → (∃ i, i < gaCount o ∧ u.inDst l o (at_.1, at_.2 + row i * gaSrcPitch o) (gaBytes o) = true) →
          Claims.noBytes u t ∧ Claims.opAt t id l.next .finished osMalformed) ∧
        ((∀ i, i < gaCount o → u.inDst l o (at_.1, at_.2 + row i * gaSrcPitch o) (gaBytes o) = false) →
          ((∃ i, i < gaCount o ∧ src i = none) → Claims.noBytes u t ∧ Claims.opAt t id l.next .finished osSegment) ∧
          ((∀ i, i < gaCount o → ∃ p, src i = some p ∧ Claims.usable u p (gaBytes o) = true) →
            Claims.opAt t id l.next .finished osOk ∧ Claims.onlyAt u t k dst (gaDst o) ∧
            ∀ i p, i < gaCount o → src i = some p →
              Claims.bytesAt t k (dst.plus (i * gaDstPitch o)) (gaBytes o) = Claims.bytesAt u k p (gaBytes o)))) ∧
    (Claims.passes s id early 0x13 digestRules l o → ∃ t, exec (.digestOp id early) s = .next t ∧
      Only Claims.listParts Claims.listRegs s t ∧ Claims.noBytes u t ∧
      ∀ p, u.resolve t0 (o.f 8 8) (plain (o.f 0x10 8)) rRead = some p → Claims.usable u p (o.f 0x10 8) = true →
        (t.op? id l.next).map (fun q => (q.stage, q.status, q.digest)) =
          some (.finished, osOk, crc64Final (crc64Feed crc64Init (Claims.bytesAt u k p (o.f 0x10 8))))) ∧
    (Claims.passes s id early 0x14 sampleRules l o → ∃ t, exec (.sample id early) s = .next t ∧
      Only (parts ++ [.cores]) (Claims.listRegs ++ Claims.unitRegs) s t ∧
      (u.chainFree k = false → Claims.noBytes u t ∧ Claims.opAt t id l.next .queued osRunning ∧
        (t.coreUnit k).chainQ = (s.coreUnit k).chainQ ++
          [{ list := id, op := l.next, row0 := 0, col0 := 0, rows := 1, cols := 1, fused := false }]) ∧
      (u.chainFree k = true → ∀ src dst, u.resolve t0 (o.f 8 8) (plain (4 * saRows o * saCols o)) rRead = some src →
        u.resolve t0 (o.f 0x10 8) (plain (4 * saRows o)) rWrite = some dst →
        Claims.usable u src (4 * saRows o * saCols o) = true → Claims.usable u dst (4 * saRows o) = true → Claims.quiet u = true →
        Claims.opAt t id l.next .finished osOk ∧ Claims.onlyAt u t k dst (plain (4 * saRows o)) ∧
        ∀ i, i < saRows o → fieldAt (Claims.bytesAt t k dst (4 * saRows o)) (4 * i) 4 =
          (samplePick (wordsOf ((Claims.bytesAt u k src (4 * saRows o * saCols o)).drop (4 * i * saCols o)) (saCols o))
            (philoxU (u.reg (.rngSeed t0)).toNat (o.f 0x20 4) ((o.f 0x28 8 + i) % 2 ^ 64))).1))

/-! ### Attention and the key/value cache (R154 to R183) -/

/-- KV_APPEND writes every quantised vector of its tensors in append-buffer order; KV_SCATTER writes the four pieces of
each token and head at their places in the cache; MERGE folds its input sets and writes the merged or finalised result,
and fails with MERGE_INPUT at the first set that is not DONE. KV_APPEND and MERGE wait while the chain is in use. Model's
readings and choices: log entries 45 and 47. -/
def Obligations.TheCacheIsWrittenAndMerged : Prop :=
  ∀ (id : Nat) (early : Option (List Byte)) (l : WorkList) (o : Op) (s : State),
    let u := Claims.issued s l o
    let v := u.startOp id l.next
    let k := o.core
    let t0 := l.tenant
    let waits := fun (t : State) => Claims.noBytes u t ∧ Claims.opAt t id l.next .queued osRunning ∧
      (t.coreUnit k).chainQ = (s.coreUnit k).chainQ ++
        [{ list := id, op := l.next, row0 := 0, col0 := 0, rows := 1, cols := 1, fused := false }]
    (Claims.passes s id early 0x04 kvAppendRules l o → ∃ t, exec (.kvAppend id early) s = .next t ∧
      Only (Claims.listParts ++ [.cores]) (Claims.listRegs ++ Claims.unitRegs) s t ∧
      (u.chainFree k = false → waits t) ∧
      (u.chainFree k = true →
        let r := v.readMap k t0 (o.f 8 8) 0 8
        let m := r.map
        let n := kaTokens o * m.heads
        let size := n * (vecBytes m.d m.wk + vecBytes m.d m.wv)
        r.err = none → ∀ pk pv out, v.resolve t0 (o.f 0x10 8) (plain (n * m.d * 4)) rRead = some pk →
          v.resolve t0 (o.f 0x18 8) (plain (n * m.d * 4)) rRead = some pv → v.resolve t0 (o.f 0x20 8) (plain size) rWrite = some out →
          Claims.usable r.s pk (n * m.d * 4) = true → Claims.usable r.s pv (n * m.d * 4) = true →
          Claims.usable r.s out size = true → Claims.quiet r.s = true →
          Claims.opAt t id l.next .finished osOk ∧ Claims.onlyAt u t k out (plain size) ∧
          Claims.bytesAt t k out size = (List.range n).flatMap fun i =>
            (quantVec m.wk (wordsOf ((Claims.bytesAt u k pk (n * m.d * 4)).drop (i * m.d * 4)) m.d)).bytes ++
            (quantVec m.wv (wordsOf ((Claims.bytesAt u k pv (n * m.d * 4)).drop (i * m.d * 4)) m.d)).bytes)) ∧
    (Claims.passes s id early 0x05 kvScatterRules l o → ∃ t, exec (.kvScatter id early) s = .next t ∧
      Only Claims.listParts Claims.listRegs s t ∧
      (let r := v.readMap k t0 (o.f 8 8) rWrite 8
       let m := r.map
       let size := vecBytes m.d m.wk + vecBytes m.d m.wv
       let n := ksTokens o * m.heads
       r.err = none → ∀ buf pp, v.resolve t0 (o.f 0x10 8) (plain (n * size)) rRead = some buf →
         v.resolve t0 (o.f 0x18 8) (plain (4 * ksTokens o)) rRead = some pp → Claims.usable r.s buf (n * size) = true →
         Claims.usable r.s pp (4 * ksTokens o) = true →
         let pos := fun i => fieldAt (Claims.bytesAt u k pp (4 * ksTokens o)) (4 * i) 4
         let all := (List.range n).flatMap fun i => Claims.cacheBytes m (ksLayer o * m.heads + i % m.heads) (pos (i / m.heads))
           (((Claims.bytesAt u k buf (n * size)).drop (i * size)).take size)
         ((∃ i, i < ksTokens o ∧ (pos i < m.posBase ∨ m.posBase + 64 * m.blocks ≤ pos i)) →
           Claims.noBytes u t ∧ Claims.opAt t id l.next .finished osMalformed) ∧
         ((∀ i, i < ksTokens o → m.posBase ≤ pos i ∧ pos i < m.posBase + 64 * m.blocks) →
           (∀ x, x ∈ all → Claims.sound r.s x.1 1 = true) → Claims.opAt t id l.next .finished osOk ∧ t.stores = u.stores ∧
             ∀ a, rdB t.mem a = ((all.reverse.find? fun x => x.1 = a).map (·.2)).getD (rdB u.mem a)))) ∧
    (Claims.passes s id early 0x07 mergeRules l o → ∃ t, exec (.merge id early) s = .next t ∧
      Only (Claims.listParts ++ [.freeCtr, .cores]) (Claims.listRegs ++ Claims.unitRegs) s t ∧
      (u.chainFree k = false → waits t) ∧
      (u.chainFree k = true →
        let size := setSize (mgGq o) (mgD o)
        let out := if mgFinal o then rowBytes (mgFmt o) (mgGq o * mgD o) else size
        ∀ src dst, v.resolve t0 (o.f 8 8) ⟨mgN o, mgStride o, size⟩ rRead = some src →
          v.resolve t0 (o.f 0x10 8) (plain out) rWrite = some dst → (∀ i, i < mgN o → Claims.usable u (src.plus (i * mgStride o)) size = true) →
          Claims.usable u dst out = true → Claims.quiet u = true →
          let sets := (List.range (mgN o)).map fun i => Claims.bytesAt u k (src.plus (i * mgStride o)) size
          let ps := sets.foldl (fun acc b => foldParts acc (setParts (mgGq o) (mgD o) (b.drop 8)))
            ((List.range (mgGq o)).map fun _ => Part.start (mgD o))
          (∀ i, sets.findIdx? (fun b => fieldAt b 4 1 ≠ slotDone) = some i → Claims.noBytes u t ∧
            (t.op? id l.next).map (fun q => (q.stage, q.status, q.detail)) = some (.finished, osMergeInput, i)) ∧
          ((∀ b, b ∈ sets → fieldAt b 4 1 = slotDone) → Claims.opAt t id l.next .finished osOk ∧
            Claims.onlyAt u t k dst (plain out) ∧ Claims.bytesAt t k dst out =
              if mgFinal o then packElems (mgFmt o) ((ps.flatMap Part.finalise).map fun f => (elemFrom32 (mgFmt o) f.bits).1)
              else headerBytes (fieldAt (sets.headD []) 0 4) slotDone (min 0xFFFFFF (sets.map fun b => fieldAt b 5 3).sum) ++
                setPayload (mgGq o) (mgD o) ps)))

/-- ATTEND waits for array and chain; an entry of an empty context gives +0 rows. BANK_ATTEND plans one set for each KV
head and map of its entries, in dispatch order, and runs if a bank has a command of it, else completes. BANK_PARTIAL_FOLD
folds the payload of a DONE slot with the expected number into its member's running fold, and fails the operation of a
FAULT slot. Model's readings and choices: log entries 15, 44 and 45. -/
def Obligations.AttentionRunsOnItsUnits : Prop :=
  (∀ (id : Nat) (early : Option (List Byte)) (l : WorkList) (o : Op) (s : State),
    let u := Claims.issued s l o
    let v := u.startOp id l.next
    let k := o.core
    let t0 := l.tenant
    let c := s.coreUnit k
    (Claims.passes s id early 0x03 attendRules l o → ∃ t, exec (.attend id early) s = .next t ∧
      Only (Claims.listParts ++ [.freeCtr, .cores]) (Claims.listRegs ++ Claims.unitRegs) s t ∧
      (u.chainFree k = false ∨ c.arrayQ ≠ [] → Claims.noBytes u t ∧ Claims.opAt t id l.next .queued osRunning ∧
        (t.coreUnit k).arrayQ = c.arrayQ ++ [(id, l.next)] ∧ (t.coreUnit k).chainQ = c.chainQ ++
          [{ list := id, op := l.next, row0 := 0, col0 := 0, rows := 1, cols := 1, fused := false }]) ∧
      (u.chainFree k = true → c.arrayQ = [] → (v.readBatch t0 o rRead atFields).err = none →
        ∀ p, v.resolve t0 (atDesc o) (plain 64) rRead = some p →
        let x := Claims.attended v l o p
        let es := (v.readBatch t0 o rRead atFields).entries
        (x.acc ≠ .ok → Claims.opAt t id l.next .finished (if x.acc = .lost then osTowerLost else x.acc.status)) ∧
        (x.acc = .ok → Claims.opAt t id l.next .finished osOk ∧
          ((∀ e, e ∈ es → sieveClass e.entry.n < 2) → t.mem = x.s.mem) ∧
          ∀ b, (∀ q, v.resolve t0 (atAcc o) (plain atAccBytes) (rRead + rWrite) = some (.acc q) →
              b < storeBase k + q ∨ storeBase k + q + atAccBytes ≤ b) →
            (∀ q, v.resolve t0 (atStage o) (plain atStageBytes) (rRead + rWrite) = some (.stage q) →
              b < stageBase k + q ∨ stageBase k + q + atStageBytes ≤ b) → rdB t.stores b = rdB x.s.stores b) ∧
        ((∀ e, e ∈ es → e.entry.n = 0) → x.acc = .ok → Claims.quiet v = true →
          ∀ e a g n, e ∈ es → n = rowBytes (atFmt o) (e.entry.qRows * e.own.heads * baGq o * e.own.d) →
          v.resolve t0 e.entry.output (plain 0) rWrite = some (.dev a g) → Claims.sound v a n = true →
          rdBytes t.mem a n = List.replicate n 0))) ∧
    (Claims.passes s id early 0x06 bankAttendRules l o → Claims.noBankAttend s → ∃ t, exec (.bankAttend id early) s = .next t ∧
      Only (Claims.listParts ++ [.freeCtr, .beds]) (Claims.listRegs ++ [.bedStatus, .bedDonecnt]) s t ∧
      (let r := v.readBatch t0 o rBank baFields
       let plan := planOf o r.entries
       r.err = none → Claims.quiet r.s = true →
       (∀ e, e ∈ r.entries → ∃ q p, v.resolve t0 e.entry.queries (plain (e.own.heads * baGq o * 0x200)) rRead = some q ∧
         Claims.usable r.s q (e.own.heads * baGq o * 0x200) = true ∧
         v.resolve t0 e.entry.output (plain (e.own.heads * e.gt * setSize (baGq o) e.own.d)) rWrite = some p ∧
         Claims.usable r.s p (e.own.heads * e.gt * setSize (baGq o) e.own.d) = true) →
       ((∃ p m, p ∈ plan ∧ m ∈ p.members ∧ m.orders ≠ []) →
         (t.op? id l.next).map (fun q => (q.stage, q.status, q.plan)) = some (.started, osRunning, plan)) ∧
       ((∀ p m, p ∈ plan → m ∈ p.members → m.orders = []) →
         (t.op? id l.next).map (fun q => (q.stage, q.status, q.plan)) = some (.finished, osOk, plan))))) ∧
  (∀ (core : Fin 64) (bank : Fin 128) (slot : Fin 2) (s : State),
    let k := core.val
    let n := 2 * bank.val + slot.val
    let h := Claims.header s k n
    (s.foldOwner k n = none → exec (.bankPartialFold core bank slot) s = .next s) ∧
    ∀ l o i seq, s.foldOwner k n = some (l, o, i, seq) → s.list? l.id = some l → l.op? o.offset = some o →
      let go := fun (t : State) => exec (.bankPartialFold core bank slot) s = .next t ∧
        Only (Claims.listParts ++ [.freeCtr, .beds]) (Claims.listRegs ++ Claims.unitRegs ++ [.bedStatus, .bedDonecnt]) s t
      (s.towerRuns (k / 8) = false ∨ fieldAt h 0 4 ≠ seq ∨ (fieldAt h 4 1 ≠ slotDone ∧ fieldAt h 4 1 ≠ slotFault) →
        exec (.bankPartialFold core bank slot) s = .next s) ∧
      (s.towerRuns (k / 8) = true → fieldAt h 0 4 = seq → fieldAt h 4 1 = slotFault → ∃ t, go t ∧
        (t.op? l.id o.offset).map (fun q => (q.stage, q.status, q.detail)) =
          some (if fieldAt h 5 3 = faultUncorrectable then (.finished, osUncorrectable, 0)
            else (.finished, osBankFault, fieldAt h 5 3))) ∧
      (∀ p r m, s.towerRuns (k / 8) = true → fieldAt h 0 4 = seq → fieldAt h 4 1 = slotDone → o.plan[o.tile]? = some p →
        o.members[i]? = some r → p.members[i]? = some m → r.folded + 1 < m.orders.length → ∃ t, go t ∧
          ((t.op? l.id o.offset).bind (fun q => q.members[i]?)).map (fun y => (y.folded, y.count, y.fold)) =
            some (r.folded + 1, r.count + fieldAt h 5 3, payloadOf (foldParts (partsOf (baGq o) p.d r.fold)
              (partsOf (baGq o) p.d (rdBytes s.mem (windowBase k + resultOff n + 8) 0x1FF8)))) ∧
          (t.op? l.id o.offset).map (·.auxSteps) = some (o.auxSteps + baGq o)))

/-! ### Bank units (R48, R49, R116 to R153, R358) -/

/-- PARTIAL: a write of word 0 to a BUSY slot is refused; in ORDINARY mode the slot shows FAULT NOT_COMPUTE, for a command
that fails a check FAULT BAD_COMMAND, and both are counted as finished; any other command is BUSY with its words and query
records copied. A bank that is not populated is logged as an access error. Model's readings and choices: log entry 46. -/
def Obligations.BankCommandsAreChecked : Prop :=
  ∀ (core : Fin 64) (bank : Fin 128) (slot : Fin 2) (w0 : DWord) (s : State),
    let k := core.val
    let n := 2 * bank.val + slot.val
    let ws := Claims.slotWords s k n w0
    let b := s.bed k
    s.dieLost (k / 8) = false →
    (s.coreEnabled k = false ∨ s.retired k bank.val = true → exec (.partialCmd core bank slot w0) s =
      .next (s.accessError 1 0x70 noTenant (windowBase k + commandOff n))) ∧
    (s.coreEnabled k = true → s.retired k bank.val = false → (∃ c, c ∈ b.busy ∧ c.slot = n) →
      ∃ t, exec (.partialCmd core bank slot w0) s = .next t ∧ Only [.flog0, .flog1] [.bedStatus] s t ∧
        t.regBit (.bedStatus k) 29 = true ∧
        Claims.logs s t (Claims.entry s 1 0 0x10 0x70 0xFFFF 5 (windowBase k + commandOff n))) ∧
    (s.coreEnabled k = true → s.retired k bank.val = false → (∀ c, c ∈ b.busy → c.slot ≠ n) →
      ∃ t, exec (.partialCmd core bank slot w0) s = .next t ∧ Only [.mem, .beds, .ic] [.bedStatus, .bedDonecnt, .ctrVal] s t ∧
        if s.regF (.bedMode k) 0 2 = 0 then t.beds = s.beds ∧ Claims.header t k n = headerBytes (fieldAt ws 0 4) 3 1 ∧
          t.reg (.bedDonecnt k) = BitVec.ofNat 64 (((s.reg (.bedDonecnt k)).toNat + 1) % 2 ^ 32) ∧
          t.regBit (.bedStatus k) 30 = true
        else if cmdOk ws = false then t.beds = s.beds ∧ Claims.header t k n = headerBytes (fieldAt ws 0 4) 3 2 ∧
          t.reg (.bedDonecnt k) = BitVec.ofNat 64 (((s.reg (.bedDonecnt k)).toNat + 1) % 2 ^ 32) ∧
          t.regBit (.bedStatus k) 30 = true
        else Claims.header t k n = headerBytes (fieldAt ws 0 4) 1 0 ∧ t.reg (.bedDonecnt k) = s.reg (.bedDonecnt k) ∧
          (∀ j, j ≠ k → t.bed j = s.bed j) ∧
          let q := rdBytes s.mem (windowBase k + queryOff (fieldAt ws 6 1)) (fieldAt ws 7 1 * 0x200)
          let c : BankCmd := { slot := n, seq := fieldAt ws 0 4, words := ws, query := q, pending := b.oldMode.isSome }
          t.bed k = { b with busy := b.busy ++ [c] })

/-- BANK_COMMAND_START starts a command that may start, next in order, and in QUOTA mode none while n banks run.
COMPUTE_ACTIVATION grants one row to the bank whose turn it is. BANK_COMMAND_DONE writes the payload and then the DONE
header, or FAULT UNCORRECTABLE, and counts the command. BANK_PAUSE pauses the bank that started last, BANK_RESUME resumes
the one that started first. BANK_ORDINARY_ACCESS changes nothing. Model's readings and choices: log entries 15 and 43. -/
def Obligations.BankCommandsRunToTheirEnd : Prop :=
  (∀ (core : Fin 64) (bank : Fin 128) (slot : Fin 2) (c : BankCmd) (s : State),
    let k := core.val
    let n := 2 * bank.val + slot.val
    (s.bed k).busy.find? (fun c => c.slot = n) = some c →
    (s.mayStart k c = true → ∃ t, exec (.bankCommandStart core bank slot) s = .next t ∧
      Only [.fpDirty, .chanPoisoned, .beds, .hbm, .ic, .flog0, .flog1, .mbox] [.bedCe, .bedUe, .bedLastue, .memStat, .memChstat,
        .memChce, .memChue, .memChpoison, .ctrVal] s t ∧
      (t.bed k).startOrder = (s.bed k).startOrder + 1 ∧ (t.bed k).busy.map (·.slot) = (s.bed k).busy.map (·.slot) ∧
      ((t.bed k).busy.find? (fun c => c.slot = n)).map (fun y => (y.state, y.order, y.seq, y.words)) =
        some (.running, (s.bed k).startOrder, c.seq, c.words) ∧ ∀ j, j ≠ k → t.bed j = s.bed j) ∧
    (c.state ≠ .waiting ∨ c.pending = true ∨ s.bedModeNow k = 0 ∨ s.towerRuns (k / 8) = false ∨
      (s.bedModeNow k = 1 ∧ c.follows = false ∧ s.regF (.bedQuota k) 0 8 ≤ (s.bed k).runningCount) →
      exec (.bankCommandStart core bank slot) s = .next s)) ∧
  (∀ (core : Fin 64) (s : State),
    let k := core.val
    let b := s.bed k
    (∀ c rest, b.held = c :: rest → s.bedModeNow k = 2 → s.timingAllows k = true → s.towerRuns (k / 8) = true →
      ∃ t, exec (.computeActivation core) s = .next t ∧ Only [.beds] [] s t ∧ (t.bed k).rrBank = c.slot / 2 ∧
        (t.bed k).busy = b.busy.map (fun x => if x.slot = c.slot then { c with rows := c.rows + 1 } else x) ∧
        (t.bed k).acts = s.now :: b.acts.filter (fun a => s.now < a + 1000) ∧ ∀ j, j ≠ k → t.bed j = s.bed j) ∧
    (b.held = [] ∨ s.bedModeNow k ≠ 2 ∨ s.timingAllows k = false → exec (.computeActivation core) s = .next s)) ∧
  (∀ (core : Fin 64) (bank : Fin 128) (slot : Fin 2) (c : BankCmd) (s : State),
    let k := core.val
    let n := 2 * bank.val + slot.val
    Claims.noBankAttend s → (s.bed k).busy.find? (fun c => c.slot = n) = some c → c.state = .running →
    s.towerRuns (k / 8) = true → (s.bedModeNow k ≠ 2 ∨ cmdRows c.words ≤ c.rows) → c.payload.length ≤ 0x1FF8 →
    ∃ t, exec (.bankCommandDone core bank slot) s = .next t ∧
      Only [.freeCtr, .mem, .fpDirty, .chanPoisoned, .beds, .hbm, .ic, .flog0, .flog1, .mbox, .lists] [.bedStatus, .bedDonecnt,
        .bedSatcnt, .bedCe, .bedUe, .bedLastue, .memStat, .memChstat, .memChce, .memChue, .memChpoison, .ctrVal] s t ∧
      t.lists = s.lists ∧ t.reg (.bedDonecnt k) = BitVec.ofNat 64 (((s.reg (.bedDonecnt k)).toNat + 1) % 2 ^ 32) ∧
      t.regF (.bedSatcnt k) 0 32 = min 0xFFFFFFFF (s.regF (.bedSatcnt k) 0 32 + c.sats) ∧
      (c.bad = true → Claims.header t k n = headerBytes c.seq 3 4 ∧ t.regBit (.bedStatus k) 30 = true) ∧
      (c.bad = false → Claims.header t k n = headerBytes c.seq 2 (cmdTokens c.words) ∧
        rdBytes t.mem (windowBase k + resultOff n + 8) c.payload.length = c.payload) ∧
      ((∀ x, x ∈ (s.bed k).busy → x.slot ≠ n → x.slot / 2 ≠ bank.val) →
        (t.bed k).busy = (s.bed k).busy.filter (fun x => x.slot ≠ n))) ∧
  (∀ (core : Fin 64) (c : BankCmd) (s : State),
    let k := core.val
    let b := s.bed k
    (s.bedModeNow k = 1 → s.regF (.bedQuota k) 0 8 < b.runningCount → c ∈ b.busy → c.state = .running →
      (∀ x, x ∈ b.busy → x.state = .running → x = c ∨ x.order < c.order) →
      ∃ t, exec (.bankPause core) s = .next t ∧ Only [.beds] [] s t ∧ t.bed k = b.setCmd { c with state := .paused } ∧
        ∀ j, j ≠ k → t.bed j = s.bed j) ∧
    (s.bedModeNow k ≠ 1 ∨ b.runningCount ≤ s.regF (.bedQuota k) 0 8 → exec (.bankPause core) s = .next s) ∧
    (b.runningCount < s.regF (.bedQuota k) 0 8 → c ∈ b.busy → c.state = .paused →
      (∀ x, x ∈ b.busy → x.state = .paused → x = c ∨ c.order < x.order) →
      ∃ t, exec (.bankResume core) s = .next t ∧ Only [.beds] [] s t ∧ t.bed k = b.setCmd { c with state := .running } ∧
        ∀ j, j ≠ k → t.bed j = s.bed j) ∧
    (s.regF (.bedQuota k) 0 8 ≤ b.runningCount → exec (.bankResume core) s = .next s)) ∧
  (∀ (core : Fin 64) (bank : Fin 128) (s : State), ∃ t, exec (.bankOrdinaryAccess core bank) s = .next t ∧ t = s)

/-- BED_CTL_CANCEL ends every BUSY command in FAULT CANCELLED; BED_CTL_CLEAR also zeroes the whole window. BED_MODE_WRITE
starts a change that BED_MODE_CHANGE_COMPLETE ends. BED_LIMIT_WRITE keeps reserved values out of the limits, and
BANK_LIMIT_UPDATE writes the limit of the headroom. BED_FENCE is answered with one ACK. BANK_REFRESH makes its bank busy
for 18 ticks at its own offset, and REFRESH_COMPLETE frees it (the rounding to ticks is the model's, log entry 42). -/
def Obligations.BedsAreControlledAndRefreshed : Prop :=
  (∀ (core : Fin 64) (value : Word) (s : State),
    let k := core.val
    let b := s.bed k
    s.dieLost (k / 8) = false → (∀ c, c ∈ b.busy → c.slot < 256) → (b.busy.map (·.slot)).Nodup →
    (nbit value.toNat 31 = true → nbit value.toNat 30 = false → ∃ t, exec (.bedCtlCancel core value) s = .next t ∧
      Only [.mem, .beds, .ic] [.bedStatus, .bedCtl, .bedDonecnt] s t ∧ (t.bed k).busy = [] ∧
      (∀ c, c ∈ b.busy → Claims.header t k c.slot = headerBytes c.seq 3 3) ∧
      (b.busy ≠ [] → t.reg (.bedDonecnt k) = BitVec.ofNat 64 (((s.reg (.bedDonecnt k)).toNat + b.busy.length) % 2 ^ 32) ∧
        t.regBit (.bedStatus k) 30 = true)) ∧
    (nbit value.toNat 30 = true → ∃ t, exec (.bedCtlClear core value) s = .next t ∧
      Only [.mem, .beds, .ic] [.bedStatus, .bedCtl, .bedDonecnt] s t ∧ (t.bed k).busy = [] ∧
      (∀ j, j ≠ k → t.bed j = s.bed j) ∧
      ∀ a, rdB t.mem a = if windowBase k ≤ a ∧ a < windowBase k + 2 ^ 32 then 0 else rdB s.mem a)) ∧
  (∀ (core : Fin 64) (value : Word) (s : State),
    let k := core.val
    let was := s.regF (.bedMode k) 0 2
    let new := value.toNat % 4
    s.dieLost (k / 8) = false → ∃ t, exec (.bedModeWrite core value) s = .next t ∧ Only [.beds] [.bedMode] s t ∧
      (∀ j, j ≠ k → t.bed j = s.bed j) ∧
      if new = was ∨ new = 3 then t.reg (.bedMode k) = s.reg (.bedMode k) ∧ t.beds = s.beds
      else t.regF (.bedMode k) 0 2 = new ∧ t.regBit (.bedMode k) 8 = true ∧
        ((s.bed k).oldMode = none → (t.bed k).oldMode = some was) ∧
        (new ≠ 0 → (t.bed k).busy = (s.bed k).busy)) ∧
  (∀ (core : Fin 64) (m : Nat) (s : State),
    let k := core.val
    let b := s.bed k
    b.oldMode = some m →
    (m = 0 ∨ (∀ c, c ∈ b.busy → c.pending = true) → ∃ t, exec (.bedModeChangeComplete core) s = .next t ∧
      Only [.beds] [.bedMode] s t ∧ t.bed k = { b with oldMode := none, busy := b.busy.map fun c => { c with pending := false } } ∧
      t.regBit (.bedMode k) 8 = false ∧ t.regF (.bedMode k) 0 2 = s.regF (.bedMode k) 0 2) ∧
    (m ≠ 0 → (∃ c, c ∈ b.busy ∧ c.pending = false) → exec (.bedModeChangeComplete core) s = .next s)) ∧
  (∀ (core : Fin 64) (which : Fin 3) (value : Word) (s : State),
    let k := core.val
    let v := value.toNat
    s.dieLost (k / 8) = false → ∃ t, exec (.bedLimitWrite core which value) s = .next t ∧
      Only [] [.bedQuota, .bedTiming0, .bedTiming1] s t ∧
      t.regF (.bedQuota k) 0 8 = (if which.val = 0 ∧ 1 ≤ v % 256 ∧ v % 256 ≤ 128 then v % 256 else s.regF (.bedQuota k) 0 8) ∧
      t.regF (.bedTiming0 k) 0 5 = (if which.val = 1 ∧ v % 32 ≠ 0 then v % 32 else s.regF (.bedTiming0 k) 0 5) ∧
      t.regF (.bedTiming1 k) 16 16 = (if which.val = 2 ∧ v / 65536 ≠ 0 then v / 65536 else s.regF (.bedTiming1 k) 16 16) ∧
      t.regF (.bedTiming1 k) 0 10 = (if which.val = 2 ∧ 10 ≤ v % 1024 ∧ v % 1024 ≤ 1000 then v % 1024
        else s.regF (.bedTiming1 k) 0 10)) ∧
  (∀ (core : Fin 64) (s : State),
    let k := core.val
    let b := s.bed k
    let n := bankLimit (s.regF (.env (k / 8)) 0 16) (s.committed (k / 8)) (s.computeBeds (k / 8))
    s.alive = true → s.coreEnabled k = true → b.lastLimit = 0 ∨ b.lastLimit + 200000 ≤ s.now →
    (s.regF (.bedMode k) 0 2 = 1 → ∃ t, exec (.bankLimitUpdate core) s = .next t ∧
      Only [.beds] [.bedQuota, .bedTiming0, .bedTiming1] s t ∧ t.bed k = { b with lastLimit := s.now } ∧ 32 ≤ n ∧ n ≤ 128 ∧
      t.regF (.bedQuota k) 0 8 = n) ∧
    (s.regF (.bedMode k) 0 2 = 2 → ∃ t, exec (.bankLimitUpdate core) s = .next t ∧
      Only [.beds] [.bedQuota, .bedTiming0, .bedTiming1] s t ∧ t.bed k = { b with lastLimit := s.now } ∧
      t.regF (.bedTiming0 k) 0 5 = 20 ∧ t.regF (.bedTiming1 k) 0 10 = 200 ∧ t.regF (.bedTiming1 k) 16 16 = n * 125 / 4)) ∧
  (∀ (core : Fin 64) (m : Msg) (s : State), s.dieLost (core.val / 8) = false → s.coreEnabled core.val = true →
    m.srcPkg.toNat = s.pkgId → Claims.unasked s m = true → ∃ t, exec (.bedFence core m) s = .next t ∧ Only [.out] [] s t ∧
      t.out = .rsp (m.reply s.pkgId core.val 1 0 0 []) :: s.out) ∧
  (∀ (core : Fin 64) (bank : Fin 128) (s : State),
    let x := s.bed core.val
    ((s.dom (core.val / 8)).state = .on → s.now % 390 = 390 * bank.val / 128 → (∀ r, r ∈ x.refreshing → r.1 ≠ bank.val) →
      ∃ t, exec (.bankRefresh core bank) s = .next t ∧ Only [.beds] [] s t ∧
        (t.bed core.val).refreshing.find? (fun r => r.1 = bank.val) = some (bank.val, s.now) ∧
        t.bed core.val = { x with refreshing := (t.bed core.val).refreshing } ∧ ∀ j, j ≠ core.val → t.bed j = s.bed j) ∧
    (s.now % 390 ≠ 390 * bank.val / 128 → exec (.bankRefresh core bank) s = .next s) ∧
    (∀ since, x.refreshing.find? (fun r => r.1 = bank.val) = some (bank.val, since) →
      if since + 18 ≤ s.now then ∃ t, exec (.refreshComplete core bank) s = .next t ∧ Only [.beds] [] s t ∧
        (∀ r, r ∈ (t.bed core.val).refreshing ↔ r ∈ x.refreshing ∧ r.1 ≠ bank.val) ∧
        t.bed core.val = { x with refreshing := (t.bed core.val).refreshing }
      else exec (.refreshComplete core bank) s = .next s))

/-! ### Stacks and scrubbing (R197 to R205) -/

/-- A channel that its stack or its PHY reports as failing is poisoned, once, with an event and a log entry. SCRUB_READ
moves on by one sector at its pace: a corrected sector is stored clean, a bad one becomes POISON. SCRUB_LAP_END publishes
the lap's seconds and starts the next; SCRUB_LATE reports a late lap once. STACK_TEMP_READ publishes the temperature and
the fraction of R204 and sets the hot flag at 85 °C; a critical report puts the part into hardpan. STACK_HOT_CLEAR clears
the flag once cool. Model's readings and choices: log entries 15 and 57. -/
def Obligations.StacksAreWatchedAndScrubbed : Prop :=
  (∀ (stack : Fin 12) (channel : Fin 16) (s : State),
    let n := stack.val
    let c := channel.val
    let fails := fun (cmd : Instr) (trigger : Nat) => ∃ t, exec cmd s = .next t ∧
      Only [.fpDirty, .chanPoisoned, .ic, .flog0, .flog1, .mbox] [.memStat, .memChstat] s t ∧
      t.regF (.memChstat n c) 30 2 = 1 ∧ t.regBit (.memStat n) 1 = true ∧ t.fpDirty = true ∧
      (∀ b, nbit (num t.chanPoisoned n) b = (nbit (num s.chanPoisoned n) b || b = c)) ∧ Claims.raises s t (0x280 + 8 * n + 1) ∧
      Claims.logs s t (Claims.entry s 0x32 3 (if n < 8 then n else n + 8) (if n < 8 then 0x48 + n else 0x74 + (n - 8)) 0xFFFF trigger
        (n * 16 + c))
    (s.stackOn n = true → s.regF (.memChstat n c) 30 2 = 0 →
      fails (.stackChannelFailureReport stack channel) 3 ∧ fails (.channelPhyTimeout stack channel) 4) ∧
    (s.stackOn n = false ∨ s.regF (.memChstat n c) 30 2 ≠ 0 →
      exec (.stackChannelFailureReport stack channel) s = .next s ∧ exec (.channelPhyTimeout stack channel) s = .next s)) ∧
  (∀ (unit : ScrubUnit) (s : State),
    let x := s.scrubbed unit
    let a := s.scrubAddr unit x.scrubPos
    let d := s.decodeAt (s.locate a) a
    let go := s.memTested = true ∧ s.scrubs unit = true ∧ s.regBit (scrubCtl unit) 31 = true ∧ x.scrubDone = false ∧
      x.lastScrub + 10 * s.regF (scrubCtl unit) 16 8 ≤ s.now
    (¬ go → exec (.scrubRead unit) s = .next s) ∧
    (go → ∃ t, exec (.scrubRead unit) s = .next t ∧
      Only [.mem, .checks, .fpDirty, .chanPoisoned, .beds, .hbm, .ic, .flog0, .flog1, .mbox] [.bedCe, .bedUe, .bedLastue, .memStat,
        .memChstat, .memChce, .memChue, .memChpoison, .ctrVal] s t ∧
      (t.scrubbed unit).scrubPos = x.scrubPos + 1 ∧ (t.scrubbed unit).lastScrub = s.now ∧
      (t.scrubbed unit).scrubDone = decide (scrubSize unit ≤ x.scrubPos + 1) ∧
      (s.busySector unit x.scrubPos = true ∨ d.outcome = .clean ∨ d.outcome = .poison → t.mem = s.mem ∧ t.checks = s.checks) ∧
      (s.busySector unit x.scrubPos = false → d.outcome = .corrected → rdBytes t.mem a 64 = d.data ∧
        (∀ y, y ∈ t.checks → y.1 ≠ a / 64) ∧ ∀ b, b < a ∨ a + 64 ≤ b → rdB t.mem b = rdB s.mem b) ∧
      (s.busySector unit x.scrubPos = false → d.outcome = .uncorrectable ∨ d.outcome = .address →
        rdBytes t.mem a 64 = List.replicate 64 0 ∧ (∀ b, b < a ∨ a + 64 ≤ b → rdB t.mem b = rdB s.mem b) ∧
        (poisonChecks (locCode (s.locate a)) ≠ cleanChecks (locCode (s.locate a)) (List.replicate 64 0) →
          (t.checks.find? fun y => y.1 = a / 64) = some (a / 64, poisonChecks (locCode (s.locate a))))))) ∧
  (∀ (m : ScrubMem) (s : State),
    let lapReg := match m with
      | .stack n => Reg.memScrubLap n.val
      | .bed k => Reg.bedScrubLap k.val
    let curReg := match m with
      | .stack n => Reg.memScrubCur n.val
      | .bed k => Reg.bedScrubCur k.val
    let secs := (s.now - (s.lap m).start) / 200000000
    let ended := s.lapUnits m ≠ [] ∧ ∀ u, u ∈ s.lapUnits m → (s.scrubbed u).scrubDone = true
    let late := s.memTested = true ∧ s.lapUnits m ≠ [] ∧ (s.lap m).lateLogged = false ∧
      (s.lap m).start + scrubLimit s m * 3600 * 200000000 < s.now
    (¬ ended → exec (.scrubLapEnd m) s = .next s) ∧
    (ended → ∃ t, exec (.scrubLapEnd m) s = .next t ∧ Only [.beds, .hbm] [.bedScrubLap, .memScrubLap] s t ∧
      t.reg lapReg = BitVec.ofNat 64 (secs % 2 ^ 32) ∧ t.lap m = { start := s.now } ∧
      ∀ u, u ∈ s.lapUnits m → (t.scrubbed u).scrubPos = 0 ∧ (t.scrubbed u).scrubDone = false) ∧
    (¬ late → exec (.scrubLate m) s = .next s) ∧
    (late → ∃ t, exec (.scrubLate m) s = .next t ∧ Only [.beds, .hbm, .ic, .flog0, .flog1] [.bedScrubCur, .memScrubCur] s t ∧
      t.regBit curReg 31 = true ∧ t.lap m = { s.lap m with lateLogged := true } ∧
      match m with
      | .stack n => Claims.raises s t (0x280 + 8 * n.val + 2) ∧ Claims.logs s t (Claims.entry s 0x33 0
          (if n.val < 8 then n.val else n.val + 8) (if n.val < 8 then 0x48 + n.val else 0x74 + (n.val - 8)) 0xFFFF secs n.val)
      | .bed k => Claims.raises s t (8 * k.val + 4) ∧
          Claims.logs s t (Claims.entry s 0x33 0 (k.val / 8) k.val 0xFFFF secs (0x100 + k.val)))) ∧
  (∀ (stack : Fin 12) (temp : Byte) (critical : Bool) (s : State),
    let n := stack.val
    let v := temp.toNat
    (s.stackOn n = false → exec (.stackTempRead stack temp critical) s = .next s) ∧
    (s.stackOn n = true → critical = false → ∃ t, exec (.stackTempRead stack temp critical) s = .next t ∧
      Only [.hbm, .ic] [.memStat] s t ∧ t.regF (.memStat n) 24 8 = v ∧
      t.regF (.memStat n) 16 8 = max 64 ((2560 - 128 * (v - 85)) / 10) - 1 ∧
      t.regBit (.memStat n) 2 = (s.regBit (.memStat n) 2 || decide (85 ≤ v)) ∧
      (s.regBit (.memStat n) 2 = false → 85 ≤ v → (t.stack n).hotSince = s.now ∧ Claims.raises s t (0x280 + 8 * n)) ∧
      ((s.stack n).coolSince = none → v < 83 → (t.stack n).coolSince = some s.now) ∧ (83 ≤ v → (t.stack n).coolSince = none)) ∧
    (s.stackOn n = true → critical = true → s.running = true → ∃ t, exec (.stackTempRead stack temp critical) s = .next t ∧
      t.inHardpan = true ∧ t.bootState = 15 ∧ t.alive = false ∧ t.lists = [] ∧
      t.reg .pkgHardpan = BitVec.ofNat 64 (2 ^ 31 + 3 * 2 ^ 28 + n * 2 ^ 16 + 2 * v) ∧
      (∀ b, nbit t.fatal b = (nbit s.fatal b || b = fatHardpan)) ∧
      ∀ d, d < 12 → (t.dom d).state = .dead ∨ ((t.dom d).state = .discharge ∧ (t.dom d).after = .dead)) ∧
    (∀ since, s.regBit (.memStat n) 2 = true → (s.stack n).coolSince = some since → since + 2000000 ≤ s.now →
      (s.stack n).hotSince + 2000000 ≤ s.now → ∃ t, exec (.stackHotClear stack) s = .next t ∧ Only [] [.memStat] s t ∧
        ∀ b, b < 64 → t.regBit (.memStat n) b = (decide (b ≠ 2) && s.regBit (.memStat n) b)) ∧
    (s.regBit (.memStat n) 2 = false ∨ (s.stack n).coolSince = none ∨ s.now < (s.stack n).hotSince + 2000000 →
      exec (.stackHotClear stack) s = .next s))

/-! ### Span ports (R233 to R250) -/

/-- LANE_LOSS counts the lane. A port of eight lanes with its spare asks for the spare and holds; one that has lost a lane
before, or whose spare is still being brought in, narrows to its lowest four working lanes; a narrowed port takes its next
working lane; fewer than four working lanes take it down with cause 3. A lane that carries nothing leaves the map as it
is. SPARE_LANE_LOCK ends a receive hold with the spare in the lost lane's place and asks for a replay. HOLD_TIMEOUT after
2 µs narrows a port that waited for its spare and takes a narrowing port down with cause 4. SPAN_NO_PEER after 100 ms
takes a port in training down with cause 1. SPAN_PORT_TRAINED reports the peer and brings the port up on the lanes that
passed, or leaves it down with cause 1, 2 (its own PKG_ID) or 3 (fewer than four lanes). Model's readings and choices: log
entry 15. -/
def Obligations.SpanPortsHoldNarrowAndTrain : Prop :=
  (∀ (port : Fin 24) (lane : Fin 9) (s : State), s.spanWorks port.val = true → lane.val ∉ (s.span port.val).lostRx →
     let p := port.val
     let x := s.span p
     let map := (s.reg (.spnRxmap p)).toNat
     let w := workingLanes (x.lostRx ++ [lane.val])
     ∃ t, exec (.laneLoss port lane) s = .next t ∧
       Only [.out, .fpDirty, .ports, .reqs, .spanLost, .ic, .flog0, .flog1, .mbox, .lists]
         [.fabStat, .fabDiscard, .spnStat, .spnRxmap, .spnTxmap, .spnLanest, .spnLaneloss, .spnDiscard, .ctrVal] s t ∧
       t.regF (.spnLaneloss p) 0 32 = min 0xFFFFFFFF (s.regF (.spnLaneloss p) 0 32 + 1) ∧
       (w.length < 4 → t.spanState p = 4 ∧ t.regF (.spnStat p) 11 3 = 3 ∧ t.span p = {} ∧ t.fpDirty = true ∧
         nbit t.spanLost p = true) ∧
       (4 ≤ w.length → (t.span p).lostRx = x.lostRx ++ [lane.val] ∧ t.spanWorks p = true ∧
         (logicalOf map lane.val = none → t.reg (.spnRxmap p) = s.reg (.spnRxmap p) ∧
           t.span p = { x with lostRx := x.lostRx ++ [lane.val] }) ∧
         (∀ i, logicalOf map lane.val = some i →
           (t.span p).rxHold = some s.now ∧ t.spanState p = 3 ∧
           (mapNarrow map = false → x.lostRx = [] → x.remapReq = none →
             (t.span p).remapReq = some i ∧ t.reg (.spnRxmap p) = s.reg (.spnRxmap p)) ∧
           (mapNarrow map = false → x.lostRx ≠ [] ∨ x.remapReq ≠ none → (t.span p).remapReq = none ∧
             (t.span p).narrowReq = true ∧ t.reg (.spnRxmap p) = BitVec.ofNat 64 (mapOf (w.take 4)) ∧ t.fpDirty = true) ∧
           (mapNarrow map = true → ∀ q, (w.find? fun q => (logicalOf map q).isNone) = some q →
             (t.span p).remapReq = some i ∧ t.reg (.spnRxmap p) = BitVec.ofNat 64 (mapSet map i q))))) ∧
  ((∀ (port : Fin 24) (s : State), s.spanWorks port.val = true → (s.span port.val).rxHold.isSome = true →
     let p := port.val
     let map := (s.reg (.spnRxmap p)).toNat
     ∃ t, exec (.spareLaneLock port) s = .next t ∧
       Only [.out, .fpDirty, .ports] [.spnStat, .spnRxmap, .spnTxmap, .spnLanest, .ctrVal] s t ∧
       (t.span p).rxHold = none ∧ (t.span p).remapReq = none ∧ (t.span p).narrowReq = false ∧ (t.span p).nackSent = true ∧
       t.spanState p = (if (s.span p).txHold.isSome then 3 else 2) ∧ t.fpDirty = true ∧
       (∀ i, (s.span p).remapReq = some i → mapNarrow map = false →
         t.reg (.spnRxmap p) = BitVec.ofNat 64 (mapSet map i 8)) ∧
       ((s.span p).remapReq = none ∨ mapNarrow map = true → t.reg (.spnRxmap p) = s.reg (.spnRxmap p)) ∧
       ∀ q, q ≠ p → t.span q = s.span q) ∧
   (∀ (port : Fin 24) (h : Nat) (s : State), s.spanWorks port.val = true → (s.span port.val).rxHold = some h →
     h + 400 ≤ s.now →
     let p := port.val
     let w := workingLanes (s.span p).lostRx
     let narrow := (s.span p).narrowReq || mapNarrow (s.reg (.spnRxmap p)).toNat
     ∃ t, exec (.holdTimeout port) s = .next t ∧
       Only [.out, .fpDirty, .ports, .reqs, .spanLost, .ic, .flog0, .flog1, .mbox, .lists]
         [.fabStat, .fabDiscard, .spnStat, .spnRxmap, .spnTxmap, .spnLanest, .spnDiscard, .ctrVal] s t ∧
       (narrow = true → t.spanState p = 4 ∧ t.regF (.spnStat p) 11 3 = 4 ∧ t.span p = {}) ∧
       (narrow = false → 4 ≤ w.length → t.spanState p = 3 ∧ (t.span p).narrowReq = true ∧ (t.span p).remapReq = none ∧
         (t.span p).rxHold = some s.now ∧ t.reg (.spnRxmap p) = BitVec.ofNat 64 (mapOf (w.take 4)))) ∧
   (∀ (port : Fin 24) (since : Nat) (s : State), (s.span port.val).trainingSince = some since → s.spanState port.val = 1 →
     since + 20000000 ≤ s.now →
     ∃ t, exec (.spanNoPeer port) s = .next t ∧ Only [.ports] [.spnStat, .spnRxmap, .spnTxmap, .spnLanest] s t ∧
       t.spanState port.val = 4 ∧ t.regF (.spnStat port.val) 11 3 = 1 ∧ t.span port.val = {} ∧
       t.reg (.spnRxmap port.val) = 0xFFFFFFFF ∧ ∀ q, q ≠ port.val → t.span q = s.span q) ∧
   (∀ (port : Fin 24) (f : PortTraining) (s : State), s.spanState port.val = 1 →
     let p := port.val
     let rx := lanesOf f.rxBad.toNat
     let tx := lanesOf f.txBad.toNat
     ∃ t, exec (.spanPortTrained port f) s = .next t ∧ Only [.ports] [.spnStat, .spnRxmap, .spnTxmap, .spnLanest] s t ∧
       (∀ q, q ≠ p → t.span q = s.span q) ∧
       if f.peer = false then t.spanState p = 4 ∧ t.regF (.spnStat p) 11 3 = 1
       else t.regF (.spnStat p) 23 6 = f.peerPkg.toNat ∧ t.regF (.spnStat p) 18 5 = f.peerPort.toNat ∧
         if f.peerPkg.toNat = s.pkgId then t.spanState p = 4 ∧ t.regF (.spnStat p) 11 3 = 2
         else if 5 < rx.length ∨ 5 < tx.length then t.spanState p = 4 ∧ t.regF (.spnStat p) 11 3 = 3
         else t.spanState p = 2 ∧ t.span p = { lostRx := rx, lostTx := tx } ∧
           (rx = [] → t.reg (.spnRxmap p) = 0x76543210) ∧ (tx = [] → t.reg (.spnTxmap p) = 0x76543210) ∧
           (rx = [8] → t.reg (.spnRxmap p) = 0x76543210) ∧
           (∀ i, i < 8 → rx = [i] → t.reg (.spnRxmap p) = BitVec.ofNat 64 (mapSet 0x76543210 i 8)) ∧
           (2 ≤ rx.length → t.reg (.spnRxmap p) = BitVec.ofNat 64 (mapOf ((workingLanes rx).take 4)))))

/-- RETRAIN takes a working port down first and starts training, unless enable holds the port down. SPN_CTL_ENABLE:
clearing enable takes the port down with cause 7, and setting it with retrain starts training. SPAN_ROUTE_REMOVAL takes a
down port out of every package route entry and changes no other bit of them. Model's readings and choices: log entry 98.
-/
def Obligations.SpanPortsRetrainAndLeaveRoutes : Prop :=
  (∀ (port : Fin 24) (s : State), portPresent s.fuses port.val = true →
    let p := port.val
    ∃ t, exec (.retrain port) s = .next t ∧
      Only [.out, .freeCtr, .fpDirty, .ports, .reqs, .spanLost, .ic, .flog0, .flog1, .mbox, .lists]
        [.fabStat, .fabDiscard, .spnStat, .spnRxmap, .spnTxmap, .spnLanest, .spnDiscard, .ctrVal] s t ∧
      (s.regBit (.spnCtl p) 29 = true → t.spanState p = 1 ∧ t.span p = { trainingSince := some s.now } ∧
        t.reg (.spnRxmap p) = 0xFFFFFFFF ∧ t.reg (.spnTxmap p) = 0xFFFFFFFF) ∧
      (s.regBit (.spnCtl p) 29 = false → s.spanWorks p = true → t.spanState p = 4 ∧ t.span p = {}) ∧
      (s.spanWorks p = true → nbit t.spanLost p = true ∧ t.fpDirty = true) ∧
      (s.spanWorks p = false → Only [.ports] [.spnStat, .spnRxmap, .spnTxmap, .spnLanest] s t)) ∧
  (∀ (port : Fin 24) (value : Word) (s : State), portPresent s.fuses port.val = true →
    let p := port.val
    ∃ t, exec (.spnCtlEnable port value) s = .next t ∧
      Only [.out, .freeCtr, .fpDirty, .ports, .reqs, .spanLost, .ic, .flog0, .flog1, .mbox, .lists]
        [.fabStat, .fabDiscard, .spnCtl, .spnStat, .spnRxmap, .spnTxmap, .spnLanest, .spnDiscard, .ctrVal] s t ∧
      t.regBit (.spnCtl p) 29 = nbit value.toNat 29 ∧ t.regBit (.spnCtl p) 30 = nbit value.toNat 30 ∧
      t.regF (.spnCtl p) 0 4 = (if 3 ≤ value.toNat % 16 ∧ value.toNat % 16 ≤ 12 then value.toNat % 16
        else s.regF (.spnCtl p) 0 4) ∧
      (s.regBit (.spnCtl p) 29 = true → nbit value.toNat 29 = false →
        t.spanState p = 4 ∧ t.regF (.spnStat p) 11 3 = 7 ∧ t.span p = {}) ∧
      (nbit value.toNat 29 = true → nbit value.toNat 31 = true → t.spanState p = 1 ∧
        t.span p = { trainingSince := some s.now }) ∧
      (nbit value.toNat 29 = true → nbit value.toNat 31 = false → Only [] [.spnCtl] s t)) ∧
  (∀ (port : Fin 24) (s : State), s.alive = true → s.spanState port.val = 4 →
    ∃ t, exec (.spanRouteRemoval port) s = .next t ∧ Only [] [.spnPrt] s t ∧
      ∀ d n, d < 8 + s.fuses.assembly.ioDies → n < 64 → ∀ b, b < 64 →
        t.regBit (.spnPrt d n) b = (decide (b ≠ port.val) && s.regBit (.spnPrt d n) b))

/-! ### Messages (R209 to R225, R237) and register accesses (R8 to R11) -/

/-- A message to memory of its own package: READ answers with the bytes and changes nothing else, WRITE and WRITE_NP store
them, ATOMIC_ADD adds 64 bits and answers with the old value, and WRITE_NP and FABRIC_FENCE are answered with one ACK; a
posted WRITE has no answer. DATA, ACK and ERROR end the request that they answer: its response space is free; an operation
that waits for its last answer is done, and an error status ends it. A response that comes after FABRIC_TIMEOUT is
discarded, counted and logged. FABRIC_TIMEOUT after 10 ms ends the operation with status 6, logs the tenant and keeps the
response space. Model's readings and choices: log entries 81 and 82. -/
def Obligations.MessagesAreAnswered : Prop :=
  (∀ (m : Msg) (s : State), Claims.toMemory s m = true → Claims.unasked s m = true → Claims.quiet s = true →
     let a := m.addr.toNat
     let own := Claims.target s a
     (m.cls = 2 → m.op = 0 → Claims.sound s a m.bytes = true →
       ∃ t, exec (.read (.msg m)) s = .next t ∧ Only [.out] [] s t ∧
         t.out = .rsp (m.reply s.pkgId own 0 0 m.len.toNat
           (if m.len = 1 then pad64 a (rdBytes s.mem a m.bytes) else rdBytes s.mem a m.bytes)) :: s.out) ∧
     (m.cls = 2 → m.op = 1 → Claims.sound s a 8 = true →
       ∃ t, exec (.atomicAdd m) s = .next t ∧ Only [.out, .mem, .checks] [.ctrVal] s t ∧
         Claims.stored s t a (leBytes 8 ((rdLe s.mem a 8 + leNat (m.data.take 8)) % 2 ^ 64)) ∧
         t.out = .rsp { m.reply s.pkgId own 1 0 1 (pad64 a (rdBytes s.mem a 8)) with count := 7 } :: s.out) ∧
     (m.cls = 1 → m.op = 0 → Claims.sound s a m.data.length = true →
       ∃ t, exec (.write m) s = .next t ∧ Only [.mem, .checks] [.ctrVal] s t ∧ Claims.stored s t a m.data) ∧
     (m.cls = 1 → m.op = 1 → Claims.sound s a m.data.length = true →
       ∃ t, exec (.writeNp m) s = .next t ∧ Only [.out, .mem, .checks] [.ctrVal] s t ∧ Claims.stored s t a m.data ∧
         t.out = .rsp (m.reply s.pkgId own 1 0 0 []) :: s.out) ∧
     (m.cls = 1 → m.op = 2 → (s.targetNode a).isSome = true →
       ∃ t, exec (.fabricFence m) s = .next t ∧ Only [.out] [] s t ∧
         t.out = .rsp (m.reply s.pkgId own 1 0 0 []) :: s.out)) ∧
  ((∀ (m : Msg) (c : Instr) (r : Req) (s : State), Claims.inside s m = true → Claims.rspRow m = some c →
     guestOf (m.addr.toNat % 256) = none → s.reqOf m = some r →
     ∃ t, exec c s = .next t ∧
       t.reqs = s.reqs.filter (fun x => !(x.node = r.node && x.tag = r.tag)) ∧
       if r.timedOut then
         let die := (nodeDie r.node).getD 8
         Only [.reqs, .ic, .flog0, .flog1] [.fabStat, .fabDiscard] s t ∧
         t.regF (.fabDiscard die) 0 32 = min 0xFFFFFFFF (s.regF (.fabDiscard die) 0 32 + 1) ∧
         Claims.logs s t (Claims.entry s 0x42 2 (dieField die) r.node r.tenant 3 r.addr)
       else match r.op with
         | none => Only [.reqs] [] s t
         | some (id, off) => Only [.reqs, .lists, .ic, .mbox] [] s t ∧
           ∀ o, s.op? id off = some o → o.stage ≠ .finished →
             (m.status ≠ 0 → (t.op? id off).map (fun y => (y.stage, y.status)) = some (.finished, rspToOp m.status.toNat)) ∧
             (m.status = 0 → (∀ x, x ∈ s.reqs → x.op = some (id, off) → x.timedOut = false →
                 x.node = r.node ∧ x.tag = r.tag) →
               (t.op? id off).map (fun y => (y.stage, y.status)) = some (.finished, 0))) ∧
   (∀ (node : BitVec 8) (tag : BitVec 10) (r : Req) (s : State),
     s.reqs.find? (fun r => r.node = node.toNat && r.tag = tag.toNat) = some r → r.timedOut = false →
     r.since + 2000000 ≤ s.now →
     let die := (nodeDie node.toNat).getD 8
     ∃ t, exec (.fabricTimeout node tag) s = .next t ∧ Only [.reqs, .ic, .flog0, .flog1, .lists] [] s t ∧
       t.reqs = s.reqs.map (fun x => if x.node = node.toNat && x.tag = tag.toNat then { x with timedOut := true } else x) ∧
       Claims.logs s t (Claims.entry s 0x41 2 (dieField die) node.toNat r.tenant tag.toNat r.addr) ∧
       (r.op = none → t.lists = s.lists) ∧
       ∀ id off o, r.op = some (id, off) → s.op? id off = some o → o.stage ≠ .finished →
         (t.op? id off).map (fun y => (y.stage, y.status)) = some (.finished, 6)))

/-- SPAN_FRAME counts corrected and uncorrectable codewords. A frame with an uncorrectable codeword or out of sequence is
discarded and answered with one nack; one in sequence moves the expected number on, frees the frames its ack covers, and
its messages arrive in order. The sixteenth replay in a row takes the port down with cause 5. Model's readings and
choices: log entry 99. -/
def Obligations.SpanFramesArriveInSequence : Prop :=
  ∀ (port : Fin 24) (f : RxFrame) (s : State), s.spanWorks port.val = true →
    let p := port.val
    let x := s.span p
    let good := f.uncorrected = 0 ∧ f.seq.toNat = x.rxNext
    (¬ good → ∃ t, exec (.spanFrame port f) s = .next t ∧ Only [.out, .ports] [.spnCecnt, .spnUecnt, .ctrVal] s t ∧
      t.regF (.spnCecnt p) 0 32 = min 0xFFFFFFFF (s.regF (.spnCecnt p) 0 32 + popCount 8 f.corrected.toNat) ∧
      t.regF (.spnUecnt p) 0 32 = min 0xFFFFFFFF (s.regF (.spnUecnt p) 0 32 + popCount 8 f.uncorrected.toNat) ∧
      (t.span p).rxNext = x.rxNext ∧ (t.span p).nackSent = true ∧ (x.nackSent = true → t.ports = s.ports ∧ t.out = s.out) ∧
      ∀ q, q ≠ p → t.span q = s.span q) ∧
    (good → exec (.spanFrame port f) s = .next (f.msgs.foldl (fun u m => u.spanMsg p m) (s.takeFrame p f).1)) ∧
    (good → f.msgs = [] → f.remapReq = false → f.narrowReq = false → f.nack = false →
      ∃ t, exec (.spanFrame port f) s = .next t ∧ Only [.out, .ports] [.spnStat, .spnCecnt, .spnUecnt, .ctrVal] s t ∧
        (t.span p).rxNext = (x.rxNext + 1) % 65536 ∧ (t.span p).nackSent = false ∧ (t.span p).txHold = none ∧
        num (t.span p).freedBy f.pool.toNat = f.freed.toNat ∧
        (x.queue = [] → (t.span p).unacked = x.unacked.filter (fun g =>
          decide (0 < seqDist f.ack.toNat g.seq) && decide (seqDist f.ack.toNat g.seq ≤ 64)) ∧ t.out = s.out) ∧
        ∀ q, q ≠ p → t.span q = s.span q) ∧
    (good → f.msgs = [] → f.remapReq = false → f.narrowReq = false → f.nack = true → x.unacked = [] → x.replaysInRow = 15 →
      ∃ t, exec (.spanFrame port f) s = .next t ∧ t.spanState p = 4 ∧ t.regF (.spnStat p) 11 3 = 5 ∧ t.span p = {} ∧
        t.regF (.spnReplay p) 0 32 = min 0xFFFFFFFF (s.regF (.spnReplay p) 0 32 + 1))

/-- VOYLA_CRC_ERROR counts a replay and asks for it, and the sixteenth in a row retires the sub-channel with entry 0x0040.
ROUTE_DETOUR makes every live crossbar's entries lead around lost dies: where no die is lost they are dimension order.
QUIESCE stops a sequencer or engine for one tenant or all, and releases it. Model's readings and choices: log entries 87
and 88. -/
def Obligations.ReplaysDetoursAndQuiesce : Prop :=
  (∀ (die : Fin 12) (port : Fin 4) (sub : BitVec 5) (last : Bool) (e : Nat) (s : State),
    neighbour s.fuses die.val (port.val + 1) = some e → s.running = true → s.dieLost die.val = false → s.dieLost e = false →
    sub.toNat < linkWidth die.val e → subKey die.val port.val sub.toNat ∉ s.retiredSubs →
    let d := die.val
    ∃ t, exec (.voylaCrcError die port sub last) s = .next t ∧
      Only [.out, .retiredSubs, .ic, .flog0, .flog1] [.fabStat, .fabReplay] s t ∧
      t.regF (.fabReplay d) 0 32 = min 0xFFFFFFFF (s.regF (.fabReplay d) 0 32 + 1) ∧ t.regBit (.fabStat d) 0 = true ∧
      t.out = .replay d port.val sub.toNat :: s.out ∧
      if last then t.retiredSubs = s.retiredSubs ++ [subKey d port.val sub.toNat] ∧
        t.regF (.fabStat d) 8 8 = min 255 (s.regF (.fabStat d) 8 8 + 1) ∧ Claims.logs s t (Claims.entry s 0x40 1
          (dieField d) (if d < 8 then 0x40 + d else 0x70 + (d - 8)) 0xFFFF (2 ^ (3 - port.val) + 256 * sub.toNat) 0)
      else t.retiredSubs = s.retiredSubs ∧ t.flog0 = s.flog0 ∧ t.flog1 = s.flog1 ∧ t.ic = s.ic) ∧
  (∀ s : State, s.alive = true → ∃ t, exec .routeDetour s = .next t ∧ Only [] [.fabRt] s t ∧
    ∀ d n, d < 12 → n < 0x7A →
      if diePresent s.fuses d && !s.dieLost d && (match nodeDie n with
          | some e => diePresent s.fuses e
          | none => false) then
        ((∀ e, e < 12 → s.dieLost e = false) → t.regF (.fabRt d n) 0 3 = dimOrder d n) ∧
        (s.dieLost ((nodeDie n).getD 0) = true → t.regF (.fabRt d n) 0 3 = 7) ∧
        ∀ e, neighbour s.fuses d (t.regF (.fabRt d n) 0 3) = some e → s.dieLost e = false
      else t.reg (.fabRt d n) = s.reg (.fabRt d n)) ∧
  (∀ (node : BitVec 8) (addr : BitVec 48) (tenant : BitVec 10) (s : State),
    (0x40 ≤ node.toNat ∧ node.toNat < 0x48) ∨ (0x50 ≤ node.toNat ∧ node.toNat < 0x70) →
    let who := if nbit addr.toNat 2 then none else some tenant.toNat
    ∃ t, exec (.quiesce node addr tenant) s = .next t ∧ Only [.quiesced] [] s t ∧
      (addr.toNat % 4 = 1 → ∀ q, q ∈ t.quiesced ↔ q ∈ s.quiesced ∨ q = (node.toNat, who)) ∧
      (addr.toNat % 4 = 2 → ∀ q, q ∈ t.quiesced ↔ q ∈ s.quiesced ∧ ¬ (q.1 = node.toNat ∧ (who = none ∨ q.2 = who))) ∧
      (addr.toNat % 4 ≠ 1 → addr.toNat % 4 ≠ 2 → t.quiesced = s.quiesced))

/-- REGISTER_WRITE through BAR0: an aligned write of a whole register stores its RW bits, keeps a field whose new value is
reserved, clears the W1C bits written as 1, and keeps all others; one that is not naturally aligned changes nothing and is
logged with kind 2. Through BAR2 the submission ring takes any bytes. READ returns the bytes of the floor-plan record and
of the rings. Model's readings and choices: log entry 86. -/
def Obligations.HostAccessesReachRegisters : Prop :=
  (∀ (r : Reg) (off : BitVec 26) (data : List Byte) (s : State), s.bar0Up = true → Claims.simple r = true →
    s.regHere r.off = some r → off.toNat = 0x1000000 + r.off → s.cutOff s.primaryDie r.off = false →
    (data.length = r.bytes → ∃ t, exec (.registerWrite (.bar0 off) data) s = .next t ∧ Only [] [r.kind] s t ∧
      t.reg r = r.written s.fuses (s.reg r) (BitVec.ofNat 64 (leNat data)) ∧
      (∀ b, b < 64 → nbit r.rwMask b = false → t.regBit r b =
        (s.regBit r b && !(nbit r.w1cMask b && nbit (leNat data) b))) ∧
      ∀ b, b < 64 → nbit r.rwMask b = true → r.legal s.fuses = [] → t.regBit r b = nbit (leNat data) b) ∧
    (0 < data.length → data.length < 4 →
      exec (.registerWrite (.bar0 off) data) s = .next (s.accessError 2 s.hostNode noTenant (regBase + r.off)))) ∧
  (∀ (fn : BitVec 10) (off : BitVec 16) (data : List Byte) (s : State), s.bar2Up fn.toNat = true →
    off.toNat + data.length ≤ 0x800 → ∃ t, exec (.registerWrite (.bar2 fn off) data) s = .next t ∧ Only [.mbox] [] s t ∧
      (∀ b, rdB (t.mb fn.toNat).sq b = if off.toNat ≤ b ∧ b < off.toNat + data.length then data.getD (b - off.toNat) 0
        else rdB (s.mb fn.toNat).sq b) ∧
      t.mb fn.toNat = { s.mb fn.toNat with sq := (t.mb fn.toNat).sq } ∧ ∀ u, u ≠ fn.toNat → t.mb u = s.mb u) ∧
  (∀ (off : BitVec 26) (n : Nat) (s : State), s.bar0Up = true → 0x50000 ≤ off.toNat → off.toNat < 0x51000 →
    if 0 < n ∧ off.toNat % n = 0 then ∃ t, exec (.read (.host (.bar0 off) n)) s = .next t ∧ Only [.out] [] s t ∧
      t.out = .hostRead (rdBytes s.fplan (off.toNat - 0x50000) n) :: s.out
    else ∃ t, exec (.read (.host (.bar0 off) n)) s = .next t ∧ Only [.out, .flog0, .flog1] [] s t ∧
      t.out = .hostRead (List.replicate n 0) :: s.out) ∧
  (∀ (fn : BitVec 10) (off : BitVec 16) (n : Nat) (s : State), s.bar2Up fn.toNat = true → 0 < n → off.toNat % n = 0 →
    off.toNat < 0x1000 → ∃ t, exec (.read (.host (.bar2 fn off) n)) s = .next t ∧ Only [.out] [] s t ∧
      t.out = .hostRead (if off.toNat < 0x800 then rdBytes (s.mb fn.toNat).sq off.toNat n
        else rdBytes (s.mb fn.toNat).cq (off.toNat - 0x800) n) :: s.out)

/-! ### Guest dies (R227 to R231) -/

/-- GUEST_LINK_UP records rate and width and sends the part's structure; GUEST_TRAINING_TIMEOUT after 100 ms without a
partner reports no device; CAP keeps the peer's structure and its credits and negotiates, or finds the link incompatible.
GUEST_ENABLE binds the tenant and enables a negotiated link; CREDIT lets waiting messages go. GUEST_LINK_DOWN takes an
enabled link down, and RESET_LINK retrains it. Model's readings and choices: log entries 15, 60 and 61. -/
def Obligations.GuestLinksNegotiateAndFail : Prop :=
  (∀ (guest : Fin 2) (rate : BitVec 3) (x64 : Bool) (s : State), let g := guest.val
    s.guestSite g = true → s.guestState g = gsTraining → (s.guest g).capSent = false →
    ∃ t cap, exec (.guestLinkUp guest rate x64) s = .next t ∧ Only [.out, .freeCtr, .guests] [.voyGstat, .voyLocal] s t ∧
      t.regF (.voyGstat g) 25 3 = rate.toNat ∧ t.regBit (.voyGstat g) 24 = x64 ∧ t.guestState g = gsTraining ∧
      (t.guest g).capSent = true ∧ t.out = .capSent g cap :: s.out ∧ cap.length = 32 ∧ fieldAt cap 0 2 = 0x5659 ∧
      ∀ i, i < 8 → t.reg (.voyLocal g i) = BitVec.ofNat 64 (fieldAt cap (4 * i) 4)) ∧
  (∀ (guest : Fin 2) (since : Nat) (s : State), let g := guest.val
    (s.guest g).trainingSince = some since → s.guestState g = gsTraining → (s.guest g).capSent = false →
    since + 20000000 ≤ s.now →
    ∃ t, exec (.guestTrainingTimeout guest) s = .next t ∧ Only [.guests] [.voyGstat] s t ∧ t.guestState g = gsNone ∧
      (t.guest g).trainingSince = none ∧ ∀ h, h ≠ g → t.guest h = s.guest h) ∧
  (∀ (guest : Fin 2) (c : List Byte) (s : State), let g := guest.val
    s.guestState g = gsTraining → (s.guest g).capSent = true → c.length = 32 →
    ∃ t, exec (.cap guest c) s = .next t ∧ Only [.guests] [.voyGstat, .voyPeer] s t ∧
      (t.guest g).peer = c ∧ (t.guest g).trainingSince = none ∧
      (∀ q, q < 4 → num (t.guest g).credits q = fieldAt c (8 + 2 * q) 2) ∧
      (∀ i, i < 8 → t.reg (.voyPeer g i) = BitVec.ofNat 64 (fieldAt c (4 * i) 4)) ∧
      (∀ h, h ≠ g → t.guest h = s.guest h) ∧
      if capCompatible c then t.guestState g = gsNegotiated ∧ t.regF (.voyGstat g) 20 4 = fieldAt c 7 1 % 16 ∧
        t.regF (.voyGstat g) 16 4 = fieldAt c 6 1 % 16
      else t.guestState g = gsIncompatible) ∧
  (∀ (guest : Fin 2) (tenant : BitVec 10) (s : State), let g := guest.val
    ∃ t, exec (.guestEnable guest tenant) s = .next t ∧ Only [.fpDirty, .guestPresent] [.voyGctl, .voyGstat] s t ∧
      t.regF (.voyGctl g) 0 10 = tenant.toNat ∧
      if s.guestState g = gsNegotiated ∨ s.guestState g = gsEnabled then
        t.guestState g = gsEnabled ∧ t.regBit (.voyGctl g) 31 = true ∧
          ((s.guest g).lost = false → nbit t.guestPresent g = true)
      else t.guestState g = s.guestState g ∧ t.regBit (.voyGctl g) 31 = s.regBit (.voyGctl g) 31 ∧
        t.guestPresent = s.guestPresent) ∧
  (∀ (guest : Fin 2) (cls : BitVec 2) (count : BitVec 16) (s : State), let g := guest.val
    let x := s.guest g
    s.guestState g = gsNegotiated ∨ s.guestState g = gsEnabled →
    ∃ t, exec (.credit guest cls count) s = .next t ∧ Only [.out, .guests] [] s t ∧ (∀ h, h ≠ g → t.guest h = s.guest h) ∧
      ((∀ m, m ∈ x.queue → m.cls ≠ cls) → t.out = s.out ∧ (t.guest g).queue = x.queue ∧
        num (t.guest g).credits cls.toNat = num x.credits cls.toNat + count.toNat) ∧
      (∀ m, x.queue = [m] → m.cls = cls → 0 < count.toNat → t.out = .guestMsg g m :: s.out ∧ (t.guest g).queue = [] ∧
        num (t.guest g).credits cls.toNat + 1 = num x.credits cls.toNat + count.toNat ∧
        (t.guest g).asked = if m.nonPosted then x.asked ++ [m] else x.asked)) ∧
  (∀ (guest : Fin 2) (s : State), let g := guest.val
    s.guestState g = gsEnabled → ∃ t, exec (.guestLinkDown guest) s = .next t ∧
      Only [.out, .fpDirty, .guestPresent, .ports, .guests, .reqs, .ic, .flog0, .flog1, .mbox, .lists]
        [.fabStat, .fabDiscard, .voyGctl, .voyGstat, .ctrVal] s t ∧
      t.guestState g = gsDown ∧ t.regBit (.voyGctl g) 31 = false ∧ t.regBit (.voyGstat g) 0 = true ∧
      t.guest g = { lost := true } ∧ (nbit s.guestPresent g = true → nbit t.guestPresent g = false ∧ t.fpDirty = true) ∧
      ((s.guest g).asked = [] → (s.guest g).queue = [] → t.out = s.out ∧ t.flog0 = s.flog0)) ∧
  (∀ (guest : Fin 2) (s : State), let g := guest.val
    diePresent s.fuses (guestDie g) = true → s.dieLost (guestDie g) = false →
    ∃ t, exec (.resetLink guest) s = .next t ∧
      Only [.out, .fpDirty, .guestPresent, .ports, .guests, .reqs, .ic, .flog0, .flog1, .mbox, .lists]
        [.fabStat, .fabDiscard, .voyGctl, .voyGstat, .voyLocal, .voyPeer, .ctrVal] s t ∧
      t.guestState g = gsTraining ∧ t.regBit (.voyGctl g) 31 = false ∧
      t.guest g = { trainingSince := some s.now, lost := decide (s.guestState g = gsEnabled) || (s.guest g).lost } ∧
      ∀ i, i < 8 → t.reg (.voyLocal g i) = 0 ∧ t.reg (.voyPeer g i) = 0)

/-! ### Heartbeats, failover, tenant resets and watchdogs (R282, R283, R310 to R312, R325, R423, R424) -/

/-- HEARTBEAT_RELOAD reloads the serving complex's heartbeat. After 10 ms without one HEARTBEAT_TIMEOUT reports the active
complex lost and hands the interrupt targets over; FAILOVER makes the standby complex serve, with the mailboxes of the
lost complex's processors; STANDBY_HEARTBEAT_TIMEOUT leaves none. Model's readings and choices: log entry 15. -/
def Obligations.HeartbeatsAndFailover : Prop :=
  ∀ s : State,
    (s.alive = false → exec .heartbeatReload s = .next s) ∧
    (s.alive = true → ∃ t, exec .heartbeatReload s = .next t ∧ Only [.hbActive, .hbStandby] [] s t ∧
      t.hbStandby = (if s.standby then some s.now else s.hbStandby) ∧
      t.hbActive = (if s.standby then s.hbActive else some s.now)) ∧
    (∀ t0, s.hbActive = some t0 → t0 + 2000000 ≤ s.now → ∃ t, exec .heartbeatTimeout s = .next t ∧
      Only [.ic, .flog0, .flog1, .fatal, .mbox, .alive, .hbActive, .hbStandby] [] s t ∧ t.alive = false ∧ t.hbActive = none ∧
      t.hbStandby = some s.now ∧ (∀ b, nbit t.fatal b = (nbit s.fatal b || b = fatPrimary)) ∧
      Claims.logs s t (Claims.entry s 0x80 4 0x10 0x70 0xFFFF 1 0) ∧
      (∀ b, b < 8 → nbit t.ic.tgtEn b = decide (4 ≤ b)) ∧
      ∀ n a, (s.ic.src n).mode = .active a → (t.ic.src n).mode = (if a < 4 then .pending else .active a)) ∧
    (s.hbActive = none → exec .heartbeatTimeout s = .next s) ∧
    (∀ t0, s.hbActive = some t0 → s.now < t0 + 2000000 → exec .heartbeatTimeout s = .next s) ∧
    (s.alive = true ∨ s.fwDead = true ∨ s.hbStandby = none ∨ (s.dom 9).state ≠ .on → exec .failover s = .next s) ∧
    (s.alive = false → s.fwDead = false → s.hbStandby ≠ none → (s.dom 9).state = .on → ∃ t, exec .failover s = .next t ∧
      Only [.fplan, .fpDirty, .published, .mbox, .alive, .standby, .hbStandby, .failovers, .segs, .keys, .leases, .engines, .xfers,
        .zeroing, .progress, .watchdogs] [] s t ∧
      t.alive = true ∧ t.standby = true ∧ t.hbStandby = some s.now ∧ t.failovers = min 0xFF (s.failovers + 1) ∧
      ((∀ y, y ∈ s.leases → y.2.held = true → y.1 < 18432 → y.2.owner < 0x800) → ∀ n, 18432 ≤ n → (s.leaseAt n).held = true → 0x800 ≤ (s.leaseAt n).owner → (s.leaseAt n).owner < 0x804 →
        (t.leaseAt n).held = true ∧ (t.leaseAt n).owner = 0x804)) ∧
    (∀ t0, s.hbStandby = some t0 → t0 + 2000000 ≤ s.now → ∃ t, exec .standbyHeartbeatTimeout s = .next t ∧
      Only [.flog0, .flog1, .fatal, .mbox, .alive, .hbStandby, .fwDead] [] s t ∧ t.alive = false ∧ t.fwDead = true ∧
      t.hbStandby = none ∧ (∀ b, nbit t.fatal b = (nbit s.fatal b || b = fatFirmware)) ∧
      Claims.logs s t (Claims.entry s 0x80 4 0x11 0x71 0xFFFF 2 0)) ∧
    (s.hbStandby = none → exec .standbyHeartbeatTimeout s = .next s)

/-- FUNCTION_LEVEL_RESET of a virtual function, and TENANT_RESET, empty the tenant's page, end its session and remove its
segments; of the physical function it empties page 0 alone. NUMVFS_CHANGE resets the tenants that stop existing and then
takes effect. TENANT_WATCHDOG counts a second without progress, raises its event and ends the youngest WAIT of every cycle
with DEADLOCK; WATCHDOG_WAIT_END ends every WAIT without a timeout after ten such seconds. Model's readings and choices:
log entries 15, 65, 66 and 80. -/
def Obligations.TenantsAreResetAndWatched : Prop :=
  let frame := Only [.freeCtr, .mem, .stores, .cores, .beds, .thermal, .ic, .flog0, .flog1, .mbox, .numVfs, .vfEnable, .vfPending,
    .resets, .segs, .removing, .keys, .leases, .engines, .xfers, .zeroing, .lists, .vFloor, .clamps, .progress, .watchdogs] [.qsctl,
    .qswin, .qselem, .qstot, .qsstat, .bedStatus, .bedDonecnt, .vgov, .detNondet, .lseStat, .ctrSel]
  let emptied := fun (m n : Mailbox) => n = { badDoorbell := m.badDoorbell, vec0 := n.vec0, vec1 := n.vec1 }
  let gone := fun (t : State) (u : Nat) => t.listsOf u = [] ∧ (∀ i, i < 16 → t.seg? u i = none) ∧ ∀ j, j ∈ t.resets → j.tenant ≠ u
  (∀ (tenant : BitVec 10) (s : State),
    let u := tenant.toNat
    (s.fnExists u = false → exec (.functionLevelReset tenant) s = .next s) ∧
    (u = 0 → ∃ t, exec (.functionLevelReset tenant) s = .next t ∧ frame s t ∧ emptied (s.mb 0) (t.mb 0) ∧
      (∀ v, v ≠ 0 → t.mb v = s.mb v) ∧ t.segs = s.segs ∧ t.lists = s.lists) ∧
    (u ≠ 0 → s.fnExists u = true → s.bootStep < 7 → ∃ t, exec (.functionLevelReset tenant) s = .next t ∧ frame s t ∧
      emptied (s.mb u) (t.mb u) ∧ ∀ v, v ≠ u → t.mb v = s.mb v) ∧
    (u ≠ 0 → s.fnExists u = true → 7 ≤ s.bootStep → s.alive = true → s.resets = [] → s.vfPending = none → s.listsOf u = [] →
      ∃ t, exec (.functionLevelReset tenant) s = .next t ∧ frame s t ∧ emptied (s.mb u) (t.mb u) ∧ gone t u)) ∧
  (∀ (x : Slip) (s : State),
    let u := x.f 8 2
    Claims.accepted s x 0x0F [(8, 2)] = true → x.t = 0 → 1 ≤ u → u < 1024 → s.fnExists u = true → s.resets = [] →
    s.vfPending = none → s.listsOf u = [] → s.heldBy u = [] → s.removing = [] → ∃ t, exec (.tenantReset x) s = .next t ∧ frame s t ∧
      emptied (s.mb u) (t.mb u) ∧ gone t u ∧ (t.mb 0).cqTail = ((s.mb 0).cqTail + 1) % 2 ^ 32 ∧
      rdBytes (t.mb 0).cq ((s.mb 0).cqTail % 32 * 64) 64 = Claims.completion (s.mb 0) 0x0F x.tag stOk (leBytes 8 s.tb.count)) ∧
  (∀ (numVfs : BitVec 16) (vfEnable : Bool) (s : State),
    let n := numVfs.toNat
    let was := if s.vfEnable then s.numVfs else 0
    let now := if vfEnable then n else 0
    (1023 < n ∨ s.bar0Up = false → exec (.numvfsChange numVfs vfEnable) s = .next s) ∧
    (n ≤ 1023 → s.bar0Up = true → s.resets = [] → s.bootStep < 7 ∨ (s.alive = true ∧ ∀ l, l ∈ s.lists → l.tenant ≤ now ∨ was < l.tenant) →
      ∃ t, exec (.numvfsChange numVfs vfEnable) s = .next t ∧ frame s t ∧ t.numVfs = n ∧ t.vfEnable = vfEnable ∧
        t.vfPending = none ∧ t.resets = [] ∧ ∀ u, now < u → u ≤ was → t.mb u = {})) ∧
  (∀ (tenant : BitVec 10) (s : State),
    let u := tenant.toNat
    (s.oldestOf u = none ∨ s.alive = false ∨ s.now < num s.progress u + 200000000 → exec (.tenantWatchdog tenant) s = .next s) ∧
    (∀ l, s.oldestOf u = some l → s.alive = true → num s.progress u + 200000000 ≤ s.now →
      ∃ t, exec (.tenantWatchdog tenant) s = .next t ∧ Only [.ic, .flog0, .flog1, .lists, .progress, .watchdogs] [] s t ∧
        num t.progress u = s.now ∧ num t.watchdogs u = num s.watchdogs u + 1 ∧ (l.home < 8 → Claims.raises s t (0x200 + 16 * l.home + 6)) ∧
        ((s.waitGraph none).found = [] → t.lists = s.lists) ∧
        ∀ c, c ∈ (s.waitGraph none).found → s.list? c.2.1.id = some c.2.1 → c.2.1.op? c.2.2.offset = some c.2.2 →
          Claims.opAt t c.2.1.id c.2.2.offset .finished osDeadlock) ∧
    (s.alive = false ∨ num s.watchdogs u < 10 → exec (.watchdogWaitEnd tenant) s = .next s) ∧
    (s.alive = true → 10 ≤ num s.watchdogs u → ∃ t, exec (.watchdogWaitEnd tenant) s = .next t ∧
      Only [.flog0, .flog1, .lists, .watchdogs] [] s t ∧ num t.watchdogs u = 0 ∧
      ∀ l o, l ∈ s.lists → l.tenant = u → s.list? l.id = some l → o ∈ l.ops → l.op? o.offset = some o → o.opcode = 0x12 →
        o.stage = .started → o.f 0x18 4 = 0 → Claims.opAt t l.id o.offset .finished osWaitTimeout))

/-! ### Scheduling (R354 to R360) -/

/-- LIST_ADMISSION admits the preferred list that fits, and completes one whose header fails; POWER_PREEMPTION stops the
victims that make room, or the first victim of a tower short of power for 10 ms; IDLE_POWER_MEASUREMENT keeps the mean of
an idle tower; STACK_IDLE_PAUSE stops every resumable list for its share of a second while a scrub lap runs behind.
Model's readings and choices: log entries 15, 68, 70, 71 and 72. -/
def Obligations.ListsAreScheduled : Prop :=
  ∀ s : State, (s.lists.map (·.id)).Nodup →
    let stops := fun (t : State) (ids : List Nat) => ∀ l, l ∈ s.lists →
      if l.id ∈ ids ∧ l.preemptible = true then (t.list? l.id).map (·.state) = some .stopping else t.list? l.id = some l
    let quietTower := fun w => (s.therm w).shortSince = none ∨ ∃ x, (s.therm w).shortSince = some x ∧ s.now < x + 2000000
    (s.admits = false ∨ (s.badHeader = none ∧ s.bestList = none) → exec .listAdmission s = .next s) ∧
    (∀ l st, s.admits = true → s.badHeader = some (l, st) → l.stopStatus = none → ∃ t, exec .listAdmission s = .next t ∧
      Only [.mem, .stores, .cores, .beds, .thermal, .ic, .mbox, .lists, .progress, .watchdogs] [.qsctl, .qswin, .qselem, .qstot,
        .qsstat, .bedStatus, .bedDonecnt, .vgov] s t ∧
      Claims.reported s t { l with admitted := s.tb.count } stListFailed st 0) ∧
    (∀ l h, s.admits = true → s.badHeader = none → s.bestList = some (l, h) → s.fits h [] (s.keptFrom l) = true ∧
      ∃ t, exec .listAdmission s = .next t ∧
        Only [.mem, .stores, .cores, .beds, .thermal, .ic, .mbox, .lists, .progress, .watchdogs] [.qsctl, .qswin, .qselem, .qstot,
          .qsstat, .bedStatus, .bedDonecnt, .vgov] s t ∧
        (t.list? l.id).map (fun m => (m.state, m.home, m.units, m.resume, m.records, m.admittedAt, m.ops)) =
          some (if l.state = .preempted then .resuming else .running, h.home, h.units, h.resume, h.records, s.now, l.ops) ∧
        (∀ k, k ∈ s.listCores l h → (t.coreUnit k).tenant = some l.tenant) ∧ ∀ j, j ≠ l.id → t.list? j = s.list? j) ∧
    (s.alive = false ∨ s.fired = false → exec .powerPreemption s = .next s) ∧
    (∀ w l rest, s.alive = true → s.fired = true → s.waitingLists = [] → w < 8 → (∀ v, v < 8 → v ≠ w → quietTower v) →
      (∃ x, (s.therm w).shortSince = some x ∧ x + 2000000 ≤ s.now) →
      victimOrder (s.lists.filter fun l => l.home = w && l.resumable) = l :: rest → ∃ t, exec .powerPreemption s = .next t ∧
        Only [.cores, .thermal, .lists] [] s t ∧ stops t [l.id] ∧ (t.therm w).shortSince = some s.now) ∧
    (∀ l h ids, s.alive = true → s.fired = true → (∀ v, v < 8 → quietTower v) →
      s.waitingLists.find? (fun l => decide (l.waitingSince + s.preemptWait * 200 ≤ s.now) && (match s.headerOf l with
        | .ok h => !s.fits h [] []
        | .error _ => false)) = some l → s.headerOf l = .ok h →
      (let leaving := (s.lists.filter fun x => x.state = .stopping).map fun x => x.id
       s.victims h leaving (victimOrder (s.lists.filter fun x => x.resumable && decide (x.priority < l.priority) &&
        (s.lacking h leaving).any fun t => x.home = t || x.power.getD t 0 ≠ 0)) = some ids) →
      ∃ t, exec .powerPreemption s = .next t ∧ Only [.cores, .thermal, .lists] [] s t ∧ stops t ids) ∧
    (∀ (tower : Fin 8) (mean : BitVec 16),
      let h := s.therm tower.val
      let idle := s.alive = true ∧ s.fired = true ∧ s.towerLive tower.val = true ∧ s.listsOn tower.val = [] ∧
        h.noListSince + 2000000 ≤ s.now
      (idle → ∃ t, exec (.idlePowerMeasurement tower mean) s = .next t ∧ Only [.thermal] [] s t ∧
        t.therm tower.val = { h with idlePower := mean.toNat } ∧ ∀ v, v ≠ tower.val → t.therm v = s.therm v) ∧
      (¬ idle → exec (.idlePowerMeasurement tower mean) s = .next s)) ∧
    (let due := s.alive = true ∧ s.fired = true ∧ s.memTested = true ∧ ∀ x, s.lastPause = some x → x + 200000000 ≤ s.now
     (¬ due → exec .stackIdlePause s = .next s) ∧
     (due → s.scrubBehind = false → exec .stackIdlePause s = .next { s with lastPause := none }) ∧
     (due → s.scrubBehind = true → ∃ t, exec .stackIdlePause s = .next t ∧ Only [.cores, .lists, .pauseUntil, .lastPause] [] s t ∧
       t.lastPause = some s.now ∧ t.pauseUntil = s.now + s.stackIdle * 200000 ∧
       stops t ((s.lists.filter WorkList.resumable).map (·.id))))

/-! ### Transfer engines and leases (R304, R321 to R324, R410) -/

/-- TRANSFER_GRANULE moves one granule of the transfer whose turn it is between host and device memory and counts it; a
granule without the right, or whose host access fails, ends its transfer with DENIED or HOST_FAULT, as
PCIE_COMPLETION_TIMEOUT does. LSE_REVOKE_WRITE starts the revocation of an owner's leases, a mailbox passing to another
processor; LEASE_REVOKE acknowledges it, REVOCATION_COMPLETE ends it, and REVOCATION_ACK_TIMEOUT treats a silent node as
lost. Model's readings and choices: log entries 15 and 24. -/
def Obligations.EnginesAndLeasesWork : Prop :=
  let parts : List Piece := [.out, .mem, .checks, .fpDirty, .chanPoisoned, .hbm, .ic, .flog0, .flog1, .mbox, .leases, .engines, .xfers,
    .progress, .watchdogs]
  let regs : List RegKind := [.bedCe, .bedUe, .bedLastue, .memStat, .memInject, .memChstat, .memChce, .memChue, .memChpoison, .fabStat,
    .fabDiscard, .teGranules, .ctrVal]
  (∀ (engine : Fin 32) (host : List Byte) (ok : Bool) (s : State),
    let e := engine.val
    (s.nextJob e = none → exec (.transferGranule engine host ok) s = .next s ∧ exec (.pcieCompletionTimeout engine) s = .next s) ∧
    ∀ j x, s.nextJob e = some j → s.xfer? j.tenant j.tag = some x →
      let r := granuleRange (s.xferDst x) x.bytes (j.firstGranule + j.done)
      let fails := fun (cmd : Instr) (status : Nat) => ∃ t, exec cmd s = .next t ∧ Only parts regs s t ∧ Claims.noBytes s t ∧
        t.reg (.teGranules e) = s.reg (.teGranules e) ∧
        (mapWf (fun _ => ({} : Engine)) s.engines = true → t.xfer? j.tenant j.tag = none ∧
          ∀ y, (s.mb j.tenant).live.find? (fun y => y.opcode = 0x08 && y.tag = j.tag) = some y → x.cancelTags = [] →
            (rdBytes (t.mb j.tenant).cq ((s.mb j.tenant).cqTail % 32 * 64) 2) = leBytes 1 0x08 ++ leBytes 1 status) ∧
        (cmd = .pcieCompletionTimeout engine → Claims.raises s t (0x380 + 2))
      ((∀ g, s.seg? x.tenant x.slot = some g →
          s.segAllows g (x.off + r.1) (plain r.2) (if x.toHost then rRead else rWrite) false = false) →
        fails (.transferGranule engine host ok) stDenied) ∧
      (∀ g, s.seg? x.tenant x.slot = some g → s.segAllows g (x.off + r.1) (plain r.2) (if x.toHost then rRead else rWrite) false = true →
        fails (.pcieCompletionTimeout engine) stHostFault ∧
        (ok = false → fails (.transferGranule engine host ok) stHostFault) ∧
        (ok = true → Claims.sound s (g.base + x.off + r.1) r.2 = true → Claims.quiet s = true →
          ∃ t, exec (.transferGranule engine host ok) s = .next t ∧ Only parts regs s t ∧
            t.regF (.teGranules e) 0 32 = min 0xFFFFFFFF (s.regF (.teGranules e) 0 32 + 1) ∧
            (t.engine e).lastTenant = j.tenant ∧
            (x.toHost = true → t.mem = s.mem ∧ t.out =
              .hostWrite x.tenant (x.host + r.1) (rdBytes s.mem (g.base + x.off + r.1) r.2) false :: s.out) ∧
            (x.toHost = false → t.out = s.out ∧
              Claims.stored s t (g.base + x.off + r.1) ((host ++ List.replicate r.2 0).take r.2)) ∧
            (j.done + 1 < j.granules → t.xfers = s.xfers ∧
              (t.engine e).jobs = (s.engine e).jobs.map fun k => if k.entry = j.entry then { j with done := j.done + 1 } else k) ∧
            (j.granules ≤ j.done + 1 → (t.engine e).jobs = (s.engine e).jobs.filter (fun k => k.entry ≠ j.entry) ∧
              (t.leaseAt (jobLease e j.entry)).held = false ∧ Claims.raises s t (0x360 + e) ∧
              (t.jobsOf j.tenant j.tag = [] → t.xfer? j.tenant j.tag = none))))) ∧
  (∀ (owner : BitVec 12) (writer : RevokeWriter) (s : State),
    let o := owner.toNat
    let nodes := s.revokeNodes o
    (s.revocation.isSome = true ∨ ownerKnown o = false → ∃ t, exec (.lseRevokeWrite owner writer) s = .next t ∧ Only [] [.lseStat] s t ∧
      ∀ b, b < 64 → t.regBit .lseStat b = (decide (b = 29) || s.regBit .lseStat b)) ∧
    (s.revocation = none → ownerKnown o = true → ∃ t, exec (.lseRevokeWrite owner writer) s = .next t ∧
      Only [.out, .mbox, .segs, .keys, .leases, .revocation, .engines, .xfers, .zeroing, .progress, .watchdogs] [.lseStat] s t ∧
      t.revocation = some ⟨o, nodes, s.now, (s.heldBy o).length, false⟩ ∧ t.regF .lseStat 0 12 = o ∧
      t.regBit .lseStat 31 = true ∧ t.regBit .lseStat 30 = s.regBit .lseStat 30 ∧ t.regBit .lseStat 29 = s.regBit .lseStat 29 ∧
      (∀ n g, (s.leaseAt n).held = true → (s.leaseAt n).owner = o → n < 16384 → s.seg? (n / 16) (n % 16) = some g →
        t.seg? (n / 16) (n % 16) = none) ∧
      ((∀ y, y ∈ s.leases → y.2.held = true → y.2.owner = o → 18432 ≤ y.1) → ∀ n, 18432 ≤ n → (s.leaseAt n).held = true →
        (s.leaseAt n).owner = o → (t.leaseAt n).held = true ∧
          (t.leaseAt n).owner = takeOver (decide (writer = .standby)) o ∧ (t.leaseAt n).owner ≠ o))) ∧
  (∀ (node : BitVec 8) (owner : BitVec 12) (s : State),
    let v := node.toNat
    (s.revocation = none → exec (.leaseRevoke node owner) s = .next s ∧ exec .revocationComplete s = .next s ∧
      exec (.revocationAckTimeout node) s = .next s) ∧
    ∀ r, s.revocation = some r →
      (r.owner ≠ owner.toNat → exec (.leaseRevoke node owner) s = .next s) ∧
      (r.owner = owner.toNat → ∃ t, exec (.leaseRevoke node owner) s = .next t ∧ Only [.revocation] [] s t ∧
        t.revocation = some { r with waiting := r.waiting.filter fun w => w ≠ v }) ∧
      (r.waiting ≠ [] → exec .revocationComplete s = .next s) ∧
      (r.waiting = [] → ∃ t, exec .revocationComplete s = .next t ∧ Only [.flog0, .flog1, .revocation, .zeroing] [.lseStat] s t ∧
        t.revocation = none ∧ t.regBit .lseStat 31 = false ∧ t.regBit .lseStat 30 = true ∧
        t.zeroing = s.zeroing.map (fun z => { z with removalDone := true }) ∧
        Claims.logs s t (Claims.entry s 0x81 0 0x10 0x70 0xFFFF r.owner r.count)) ∧
      (v ∉ r.waiting ∨ s.now < r.since + 2000000 → exec (.revocationAckTimeout node) s = .next s) ∧
      (v ∈ r.waiting → r.since + 2000000 ≤ s.now → ∃ t, exec (.revocationAckTimeout node) s = .next t ∧
        Only [.flog0, .flog1, .leases, .revocation] [.fabRt] s t ∧
        t.revocation = some { r with waiting := r.waiting.filter fun w => w ≠ v } ∧
        (∀ n, 16384 ≤ n → n < 18432 → 0x50 + (n - 16384) / 64 = v → (t.leaseAt n).held = false) ∧
        (v < 128 → ∀ d, d < 12 → t.regF (.fabRt d v) 0 3 = portUnreachable)))

/-! ### Core samples, indicators and the test port (R426, R427, R437, R440) -/

/-- CORE_SAMPLE starts a sample of at least 16 MiB, which stops the part's sequencers, and CORE_SAMPLE_COMPLETE ends it,
done or failed. INDICATOR_TEST_PULSE keeps the result of a check that is due. BYPASS gives TDI back, IDCODE the part's
code, and SAMPLE_PRELOAD what the chain holds; outside running the test port does nothing. Model's readings and choices:
log entries 15, 77, 78 and 79. -/
def Obligations.SamplesIndicatorsAndTestPort : Prop :=
  ∀ s : State,
    (s.served = false ∨ s.regBit .csStat 31 = true → exec .coreSample s = .next s) ∧
    (s.served = true → s.regBit .csStat 31 = false → ∃ t, exec .coreSample s = .next t ∧ Only [.sampling] [.csStat] s t ∧
      (if s.regF .csLen 0 32 < 0x1000000 then t.regBit .csStat 29 = true ∧ t.regBit .csStat 31 = false ∧ t.sampling = s.sampling
       else t.regBit .csStat 31 = true ∧ t.sampling = true)) ∧
    (∀ (ok : Bool) (size : BitVec 29),
      (s.served = false ∨ s.regBit .csStat 31 = false → exec (.coreSampleComplete ok size) s = .next s) ∧
      (s.served = true → s.regBit .csStat 31 = true → ∃ t, exec (.coreSampleComplete ok size) s = .next t ∧
        Only [.out, .sampling] [.csStat] s t ∧ t.sampling = false ∧ t.regBit .csStat 31 = false ∧
        if ok then t.regBit .csStat 30 = true ∧ t.regF .csStat 0 29 = size.toNat ∧
          t.out = .coreSample (s.reg .csAddr).toNat size.toNat s.fwBuild s.fpGen s.tb.count :: s.out
        else t.regBit .csStat 29 = true ∧ t.out = s.out)) ∧
    (∀ (lamp : Fin 4) (lampOpen : Bool),
      (s.lampDue lamp.val = false → exec (.indicatorTestPulse lamp lampOpen) s = .next s) ∧
      (s.lampDue lamp.val = true → ∃ t, exec (.indicatorTestPulse lamp lampOpen) s = .next t ∧ Only [.lampCheck] [.indStat] s t ∧
        t.regBit (.indStat lamp.val) 31 = lampOpen ∧ t.regBit (.indStat lamp.val) 30 = (lampOpen || s.regBit (.indStat lamp.val) 30) ∧
        t.regF (.indStat lamp.val) 0 16 = (if lampOpen then min 0xFFFF (s.regF (.indStat lamp.val) 0 16 + 1)
          else s.regF (.indStat lamp.val) 0 16) ∧
        t.lampDue lamp.val = false)) ∧
    (s.running = false → exec .idcode s = .next s ∧ exec .samplePreload s = .next s ∧ ∀ tdi, exec (.bypass tdi) s = .next s) ∧
    (s.running = true →
      (∃ t, exec .idcode s = .next t ∧ Only [.out] [] s t ∧ t.out = .jtag 0x10880A47 :: s.out) ∧
      (∃ t v, exec .samplePreload s = .next t ∧ Only [.out, .freeCtr] [] s t ∧ t.out = .jtag v :: s.out) ∧
      ∀ tdi, ∃ t, exec (.bypass tdi) s = .next t ∧ Only [.out] [] s t ∧ t.out = .jtag (b2n tdi) :: s.out)
end

