-- ==== Sys2Proof/Laws/Bits.lean ====
section
/-! SUPPORT. Bits and fields of numbers: what setting, clearing and replacing them gives. -/

namespace Sys2Proof.Machine

theorem nbit_testBit (v i : Nat) : nbit v i = v.testBit i := by
  unfold nbit
  rw [Nat.testBit_eq_decide_div_mod_eq]

@[simp] theorem nbit_zero_left (i : Nat) : nbit 0 i = false := by simp [nbit]

theorem nbit_lor (a b i : Nat) : nbit (Nat.lor a b) i = (nbit a i || nbit b i) := by
  rw [nbit_testBit, nbit_testBit, nbit_testBit]
  exact Nat.testBit_or a b i

theorem nbit_land (a b i : Nat) : nbit (Nat.land a b) i = (nbit a i && nbit b i) := by
  rw [nbit_testBit, nbit_testBit, nbit_testBit]
  exact Nat.testBit_and a b i

theorem nbit_two_pow (b i : Nat) : nbit (2 ^ b) i = decide (i = b) := by
  rw [nbit_testBit, Nat.testBit_two_pow]
  exact decide_eq_decide.2 eq_comm

theorem nbit_mod (v k i : Nat) : nbit (v % 2 ^ k) i = (decide (i < k) && nbit v i) := by
  rw [nbit_testBit, nbit_testBit, Nat.testBit_mod_two_pow]

theorem nbit_zero (v : Nat) : nbit v 0 = decide (v % 2 = 1) := by simp [nbit]

theorem nbit_succ (v i : Nat) : nbit v (i + 1) = nbit (v / 2) i := by
  unfold nbit
  rw [Nat.pow_succ', Nat.div_div_eq_div_mul]

/-- Numbers without a common bit add without a carry. -/
theorem nbit_add (a b i : Nat) (h : ∀ j, (nbit a j && nbit b j) = false) : nbit (a + b) i = (nbit a i || nbit b i) := by
  induction i generalizing a b with
  | zero =>
    have h0 := h 0
    simp only [nbit_zero] at h0 ⊢
    rcases Nat.mod_two_eq_zero_or_one a with ha | ha <;> rcases Nat.mod_two_eq_zero_or_one b with hb | hb <;>
      simp_all [Nat.add_mod]
  | succ i ih =>
    have h0 := h 0
    simp only [nbit_zero] at h0
    have e : (a + b) / 2 = a / 2 + b / 2 := by
      rcases Nat.mod_two_eq_zero_or_one a with ha | ha
      · omega
      · rcases Nat.mod_two_eq_zero_or_one b with hb | hb
        · omega
        · simp [ha, hb] at h0
    rw [nbit_succ, nbit_succ, nbit_succ, e]
    exact ih _ _ fun j => by rw [← nbit_succ, ← nbit_succ]; exact h (j + 1)

/-- Taking away bits that are set clears them and no other. -/
theorem nbit_sub (a b i : Nat) (hl : b ≤ a) (h : ∀ j, nbit b j = true → nbit a j = true) :
    nbit (a - b) i = (nbit a i && !nbit b i) := by
  induction i generalizing a b with
  | zero =>
    have h0 := h 0
    simp only [nbit_zero, decide_eq_true_eq] at h0 ⊢
    rcases Nat.mod_two_eq_zero_or_one a with ha | ha <;> rcases Nat.mod_two_eq_zero_or_one b with hb | hb
    · have : (a - b) % 2 = 0 := by omega
      simp [ha, this]
    · omega
    · have : (a - b) % 2 = 1 := by omega
      simp [ha, hb, this]
    · have : (a - b) % 2 = 0 := by omega
      simp [hb, this]
  | succ i ih =>
    have h0 := h 0
    simp only [nbit_zero, decide_eq_true_eq] at h0
    have e : (a - b) / 2 = a / 2 - b / 2 := by omega
    rw [nbit_succ, nbit_succ, nbit_succ, e]
    exact ih _ _ (by omega) fun j => by rw [← nbit_succ, ← nbit_succ]; exact h (j + 1)

/-- Setting a bit that is clear. -/
theorem nbit_add_two_pow (v b i : Nat) (h : nbit v b = false) : nbit (v + 2 ^ b) i = (nbit v i || decide (i = b)) := by
  rw [nbit_add, nbit_two_pow]
  intro j
  rw [nbit_two_pow]
  by_cases e : j = b
  · subst e; simp [h]
  · simp [e]

/-- Clearing the bits of a mask. -/
theorem nbit_clear (a w i : Nat) : nbit (a - Nat.land a w) i = (nbit a i && !nbit w i) := by
  rw [nbit_sub a (Nat.land a w) i Nat.and_le_left (fun j hj => by rw [nbit_land] at hj; exact (Bool.and_eq_true_iff.1 hj).1), nbit_land]
  cases nbit a i <;> simp

/-! ### Fields of registers -/

/-- The parts of a number around a field. -/
theorem field_split (v lo w : Nat) :
    v = v % 2 ^ lo + v / 2 ^ lo % 2 ^ w * 2 ^ lo + v / 2 ^ (lo + w) * 2 ^ (lo + w) := by
  have h1 := Nat.mod_add_div v (2 ^ lo)
  have h2 := Nat.mod_add_div (v / 2 ^ lo) (2 ^ w)
  have e : v / 2 ^ lo / 2 ^ w = v / 2 ^ (lo + w) := by rw [Nat.div_div_eq_div_mul, Nat.pow_add]
  rw [e] at h2
  calc v = v % 2 ^ lo + 2 ^ lo * (v / 2 ^ lo) := h1.symm
    _ = v % 2 ^ lo + 2 ^ lo * (v / 2 ^ lo % 2 ^ w + 2 ^ w * (v / 2 ^ (lo + w))) := by rw [h2]
    _ = _ := by rw [Nat.pow_add]; ring

/-- The number after a field is replaced. -/
theorem putF_toNat (v : DWord) (lo w x : Nat) (h : lo + w ≤ 64) :
    (putF v lo w x).toNat = v.toNat % 2 ^ lo + x % 2 ^ w * 2 ^ lo + v.toNat / 2 ^ (lo + w) * 2 ^ (lo + w) := by
  have hs := field_split v.toNat lo w
  have hx : x % 2 ^ w + 1 ≤ 2 ^ w := Nat.mod_lt _ (Nat.two_pow_pos w)
  have hl : v.toNat % 2 ^ lo + 1 ≤ 2 ^ lo := Nat.mod_lt _ (Nat.two_pow_pos lo)
  have hc : v.toNat / 2 ^ (lo + w) + 1 ≤ 2 ^ (64 - (lo + w)) := by
    apply Nat.div_lt_of_lt_mul
    rw [← Nat.pow_add, Nat.add_sub_cancel' h]
    exact v.isLt
  have hb : v.toNat % 2 ^ lo + x % 2 ^ w * 2 ^ lo + v.toNat / 2 ^ (lo + w) * 2 ^ (lo + w) < 2 ^ 64 := by
    calc v.toNat % 2 ^ lo + x % 2 ^ w * 2 ^ lo + v.toNat / 2 ^ (lo + w) * 2 ^ (lo + w)
        < 2 ^ lo + x % 2 ^ w * 2 ^ lo + v.toNat / 2 ^ (lo + w) * 2 ^ (lo + w) := by omega
      _ = (x % 2 ^ w + 1) * 2 ^ lo + v.toNat / 2 ^ (lo + w) * 2 ^ (lo + w) := by ring
      _ ≤ 2 ^ w * 2 ^ lo + v.toNat / 2 ^ (lo + w) * 2 ^ (lo + w) := Nat.add_le_add_right (Nat.mul_le_mul_right _ hx) _
      _ = (v.toNat / 2 ^ (lo + w) + 1) * 2 ^ (lo + w) := by rw [Nat.pow_add 2 lo w]; ring
      _ ≤ 2 ^ (64 - (lo + w)) * 2 ^ (lo + w) := Nat.mul_le_mul_right _ hc
      _ = 2 ^ 64 := by rw [← Nat.pow_add, Nat.sub_add_cancel h]
  unfold putF getF
  rw [BitVec.toNat_ofNat, Nat.mod_eq_of_lt]
  · omega
  · omega

/-- A field that was written reads as what was written. -/
theorem getF_putF_same (v : DWord) (lo w x : Nat) (h : lo + w ≤ 64) : getF (putF v lo w x) lo w = x % 2 ^ w := by
  unfold getF
  rw [putF_toNat v lo w x h]
  have e : v.toNat % 2 ^ lo + x % 2 ^ w * 2 ^ lo + v.toNat / 2 ^ (lo + w) * 2 ^ (lo + w) =
      v.toNat % 2 ^ lo + 2 ^ lo * (x % 2 ^ w + 2 ^ w * (v.toNat / 2 ^ (lo + w))) := by rw [Nat.pow_add]; ring
  rw [e, Nat.add_mul_div_left _ _ (Nat.two_pow_pos lo), Nat.div_eq_of_lt (Nat.mod_lt _ (Nat.two_pow_pos lo)), Nat.zero_add,
    Nat.add_mul_mod_self_left, Nat.mod_mod]

/-- A field apart from the one that was written reads as before. -/
theorem getF_putF_apart (v : DWord) (lo w x lo' w' : Nat) (h : lo + w ≤ 64) (ha : lo' + w' ≤ lo ∨ lo + w ≤ lo') :
    getF (putF v lo w x) lo' w' = getF v lo' w' := by
  have hs := field_split v.toNat lo w
  have hp := putF_toNat v lo w x h
  unfold getF
  rcases ha with ha | ha
  · have m : ∀ n : Nat, n / 2 ^ lo' % 2 ^ w' = n % 2 ^ lo / 2 ^ lo' % 2 ^ w' := by
      intro n
      rw [← Nat.mod_mul_right_div_self, ← Nat.mod_mul_right_div_self, ← Nat.pow_add]
      congr 1
      exact (Nat.mod_mod_of_dvd n (Nat.pow_dvd_pow 2 ha)).symm
    have k : (putF v lo w x).toNat % 2 ^ lo = v.toNat % 2 ^ lo := by
      rw [hp]
      have e : v.toNat % 2 ^ lo + x % 2 ^ w * 2 ^ lo + v.toNat / 2 ^ (lo + w) * 2 ^ (lo + w) =
          v.toNat % 2 ^ lo + 2 ^ lo * (x % 2 ^ w + 2 ^ w * (v.toNat / 2 ^ (lo + w))) := by rw [Nat.pow_add]; ring
      rw [e, Nat.add_mul_mod_self_left, Nat.mod_mod]
    rw [m, k, ← m]
  · obtain ⟨d, rfl⟩ := Nat.exists_eq_add_of_le ha
    have k : (putF v lo w x).toNat / 2 ^ (lo + w) = v.toNat / 2 ^ (lo + w) := by
      rw [hp]
      have hx : x % 2 ^ w + 1 ≤ 2 ^ w := Nat.mod_lt _ (Nat.two_pow_pos w)
      have hl : v.toNat % 2 ^ lo < 2 ^ lo := Nat.mod_lt _ (Nat.two_pow_pos lo)
      have lt : v.toNat % 2 ^ lo + x % 2 ^ w * 2 ^ lo < 2 ^ (lo + w) := by
        calc v.toNat % 2 ^ lo + x % 2 ^ w * 2 ^ lo < 2 ^ lo + x % 2 ^ w * 2 ^ lo := by omega
          _ = (x % 2 ^ w + 1) * 2 ^ lo := by ring
          _ ≤ 2 ^ w * 2 ^ lo := Nat.mul_le_mul_right _ hx
          _ = 2 ^ (lo + w) := by rw [Nat.pow_add, Nat.mul_comm]
      rw [Nat.add_mul_div_right _ _ (Nat.two_pow_pos _), Nat.div_eq_of_lt lt, Nat.zero_add]
    rw [Nat.pow_add, ← Nat.div_div_eq_div_mul, ← Nat.div_div_eq_div_mul, k]

end Sys2Proof.Machine
end

