-- ==== Sys2Proof/Laws/Maps.lean ====
section
/-! SUPPORT. Sparse maps: what a lookup sees after a write, and that every operation keeps the canonical form. -/

namespace Sys2Proof.Machine

/-! ### Lookup after a write -/

theorem look_insertKey {α : Type} (d : Nat → α) (k : Nat) (v : α) (m : List (Nat × α)) (j : Nat) :
    look d (insertKey k v m) j = if j = k then v else look d m j := by
  induction m with
  | nil => simp [insertKey, look]
  | cons c m ih =>
    obtain ⟨k', v'⟩ := c
    unfold insertKey
    split
    · simp [look]
    · split
      · subst_vars
        simp only [look]
        split <;> simp_all
      · simp only [look, ih]
        split <;> split <;> simp_all

theorem look_removeKey {α : Type} (d : Nat → α) (k : Nat) (m : List (Nat × α)) (j : Nat) :
    look d (removeKey k m) j = if j = k then d k else look d m j := by
  induction m with
  | nil =>
    simp only [removeKey, look]
    split <;> simp_all
  | cons c m ih =>
    obtain ⟨k', v'⟩ := c
    unfold removeKey
    split
    · rw [ih]
      simp only [look]
      split <;> simp_all
    · simp only [look, ih]
      split <;> split <;> simp_all

/-- Reading a map after writing one key. -/
theorem look_put {α : Type} [DecidableEq α] (d : Nat → α) (m : List (Nat × α)) (k : Nat) (v : α) (j : Nat) :
    look d (put d m k v) j = if j = k then v else look d m j := by
  unfold put
  split
  · rw [look_removeKey]
    split <;> simp_all
  · exact look_insertKey d k v m j

theorem look_put_same {α : Type} [DecidableEq α] (d : Nat → α) (m : List (Nat × α)) (k : Nat) (v : α) :
    look d (put d m k v) k = v := by simp [look_put]

theorem look_put_ne {α : Type} [DecidableEq α] (d : Nat → α) (m : List (Nat × α)) (k : Nat) (v : α) (j : Nat)
    (h : j ≠ k) : look d (put d m k v) j = look d m j := by simp [look_put, h]

/-! ### The canonical form -/

/-- Every key of a map is above `b`. -/
def keysAbove {α : Type} (b : Nat) (m : List (Nat × α)) : Prop := ∀ c ∈ m, b < c.1

theorem mapWf_cons {α : Type} [DecidableEq α] (d : Nat → α) (k : Nat) (v : α) (m : List (Nat × α)) :
    mapWf d ((k, v) :: m) = true ↔ v ≠ d k ∧ keysAbove k m ∧ mapWf d m = true := by
  induction m generalizing k v with
  | nil => simp [mapWf, keysAbove]
  | cons c m ih =>
    obtain ⟨k', v'⟩ := c
    simp only [mapWf, Bool.and_eq_true, Bool.not_eq_true', decide_eq_false_iff_not, decide_eq_true_eq]
    constructor
    · rintro ⟨⟨h1, h2⟩, h3⟩
      refine ⟨h1, ?_, h3⟩
      intro c hc
      rcases List.mem_cons.1 hc with rfl | hc
      · exact h2
      · exact Nat.lt_trans h2 (((ih k' v').1 h3).2.1 c hc)
    · rintro ⟨h1, h2, h3⟩
      exact ⟨⟨h1, h2 (k', v') (List.mem_cons_self ..)⟩, h3⟩

theorem keysAbove_mono {α : Type} {a b : Nat} {m : List (Nat × α)} (h : a ≤ b) (hb : keysAbove b m) : keysAbove a m :=
  fun c hc => Nat.lt_of_le_of_lt h (hb c hc)

theorem keysAbove_removeKey {α : Type} (b k : Nat) (m : List (Nat × α)) (h : keysAbove b m) :
    keysAbove b (removeKey k m) := by
  induction m with
  | nil => exact h
  | cons c m ih =>
    obtain ⟨k', v'⟩ := c
    have hm : keysAbove b m := fun c hc => h c (List.mem_cons_of_mem _ hc)
    unfold removeKey
    split
    · exact ih hm
    · intro c hc
      rcases List.mem_cons.1 hc with rfl | hc
      · exact h _ (List.mem_cons_self ..)
      · exact ih hm c hc

theorem keysAbove_insertKey {α : Type} (b k : Nat) (v : α) (m : List (Nat × α)) (h : keysAbove b m) (hk : b < k) :
    keysAbove b (insertKey k v m) := by
  induction m with
  | nil =>
    intro c hc
    simp only [insertKey, List.mem_singleton] at hc
    subst hc
    exact hk
  | cons c m ih =>
    obtain ⟨k', v'⟩ := c
    have hm : keysAbove b m := fun c hc => h c (List.mem_cons_of_mem _ hc)
    unfold insertKey
    split
    · intro c hc
      rcases List.mem_cons.1 hc with rfl | hc
      · exact hk
      · exact h c hc
    · split
      · intro c hc
        rcases List.mem_cons.1 hc with rfl | hc
        · exact hk
        · exact hm c hc
      · intro c hc
        rcases List.mem_cons.1 hc with rfl | hc
        · exact h _ (List.mem_cons_self ..)
        · exact ih hm c hc

theorem mapWf_removeKey {α : Type} [DecidableEq α] (d : Nat → α) (k : Nat) (m : List (Nat × α)) (h : mapWf d m = true) :
    mapWf d (removeKey k m) = true := by
  induction m with
  | nil => exact h
  | cons c m ih =>
    obtain ⟨k', v'⟩ := c
    obtain ⟨h1, h2, h3⟩ := (mapWf_cons d k' v' m).1 h
    unfold removeKey
    split
    · exact ih h3
    · exact (mapWf_cons d k' v' _).2 ⟨h1, keysAbove_removeKey k' k m h2, ih h3⟩

theorem mapWf_insertKey {α : Type} [DecidableEq α] (d : Nat → α) (k : Nat) (v : α) (m : List (Nat × α)) (hv : v ≠ d k)
    (h : mapWf d m = true) : mapWf d (insertKey k v m) = true := by
  induction m with
  | nil => exact (mapWf_cons d k v []).2 ⟨hv, (fun c hc => absurd hc (List.not_mem_nil)), rfl⟩
  | cons c m ih =>
    obtain ⟨k', v'⟩ := c
    obtain ⟨h1, h2, h3⟩ := (mapWf_cons d k' v' m).1 h
    unfold insertKey
    split
    · rename_i hk
      refine (mapWf_cons d k v _).2 ⟨hv, ?_, h⟩
      intro c hc
      rcases List.mem_cons.1 hc with rfl | hc
      · exact hk
      · exact Nat.lt_trans hk (h2 c hc)
    · split
      · subst_vars
        exact (mapWf_cons d _ v m).2 ⟨hv, h2, h3⟩
      · exact (mapWf_cons d k' v' _).2 ⟨h1, keysAbove_insertKey k' k v m h2 (by omega), ih h3⟩

/-- Writing one key keeps the canonical form. -/
theorem mapWf_put {α : Type} [DecidableEq α] (d : Nat → α) (m : List (Nat × α)) (k : Nat) (v : α) (h : mapWf d m = true) :
    mapWf d (put d m k v) = true := by
  unfold put
  split
  · exact mapWf_removeKey d k m h
  · exact mapWf_insertKey d k v m ‹_› h

/-- Dropping entries keeps the canonical form. -/
theorem mapWf_filter {α : Type} [DecidableEq α] (d : Nat → α) (p : Nat × α → Bool) (m : List (Nat × α))
    (h : mapWf d m = true) : mapWf d (m.filter p) = true := by
  induction m with
  | nil => exact h
  | cons c m ih =>
    obtain ⟨k, v⟩ := c
    obtain ⟨h1, h2, h3⟩ := (mapWf_cons d k v m).1 h
    rw [List.filter_cons]
    split
    · exact (mapWf_cons d k v _).2 ⟨h1, fun c hc => h2 c (List.mem_filter.1 hc).1, ih h3⟩
    · exact ih h3

/-! ### Byte memories -/

/-- Read after write, one byte. -/
theorem rdB_wrB (m : List (Nat × Byte)) (a : Nat) (b : Byte) (j : Nat) :
    rdB (wrB m a b) j = if j = a then b else rdB m j := look_put zeroByte m a b j

theorem wrB_wf (m : List (Nat × Byte)) (a : Nat) (b : Byte) (h : mapWf zeroByte m = true) :
    mapWf zeroByte (wrB m a b) = true := mapWf_put zeroByte m a b h

theorem wrBytes_wf (bs : List Byte) (m : List (Nat × Byte)) (a : Nat) (h : mapWf zeroByte m = true) :
    mapWf zeroByte (wrBytes m a bs) = true := by
  induction bs generalizing m a with
  | nil => exact h
  | cons b bs ih => exact ih _ _ (wrB_wf m a b h)

theorem zeroRange_wf (m : List (Nat × Byte)) (a n : Nat) (h : mapWf zeroByte m = true) :
    mapWf zeroByte (zeroRange m a n) = true := mapWf_filter _ _ _ h

/-- Bytes outside those written read as before. -/
theorem rdB_wrBytes_outside (bs : List Byte) (m : List (Nat × Byte)) (a j : Nat) (h : j < a ∨ a + bs.length ≤ j) :
    rdB (wrBytes m a bs) j = rdB m j := by
  induction bs generalizing m a with
  | nil => rfl
  | cons b bs ih =>
    simp only [List.length_cons] at h
    rw [wrBytes, ih _ _ (by omega), rdB_wrB, if_neg (by omega)]

/-- A byte that was written reads as written. -/
theorem rdB_wrBytes_inside (bs : List Byte) (m : List (Nat × Byte)) (a i : Nat) (h : i < bs.length) :
    rdB (wrBytes m a bs) (a + i) = bs[i] := by
  induction bs generalizing m a i with
  | nil => exact absurd h (Nat.not_lt_zero _)
  | cons b bs ih =>
    cases i with
    | zero => rw [wrBytes, rdB_wrBytes_outside _ _ _ _ (Or.inl (by omega)), rdB_wrB]; simp
    | succ i =>
      rw [wrBytes, show a + (i + 1) = a + 1 + i by omega]
      exact ih _ _ _ (by simpa using h)

theorem rdB_zeroRange (m : List (Nat × Byte)) (a n j : Nat) :
    rdB (zeroRange m a n) j = if a ≤ j ∧ j < a + n then 0 else rdB m j := by
  induction m with
  | nil => simp [zeroRange, rdB, look, zeroByte]
  | cons c m ih =>
    obtain ⟨k, v⟩ := c
    simp only [zeroRange, rdB, List.filter_cons] at ih ⊢
    split
    · rename_i hk
      simp only [look, ih]
      split
      · subst_vars
        split
        · simp_all
        · rfl
      · rfl
    · rename_i hk
      rw [ih]
      simp only [look]
      split
      · rfl
      · split
        · subst_vars
          simp_all
        · rfl

end Sys2Proof.Machine
end

