-- ==== Sys2Proof/Laws/Keeps.lean ====
section
/-! SUPPORT. The relation that every operation of the part keeps: the factory facts and the queue stay, and the canonical
forms of the byte memories, the register map and the boot window stay. One lemma for each way a state is built. -/

namespace Sys2Proof.Machine

/-- From `s0` to `s`: same make and queue, canonical forms kept. -/
structure Keeps (s0 s : State) : Prop where
  fuses : s.fuses = s0.fuses
  pending : s.pending = s0.pending
  mem : s0.memWf = true → s.memWf = true
  regs : s0.regsWf = true → s.regsWf = true

theorem Keeps.refl (s : State) : Keeps s s := ⟨rfl, rfl, id, id⟩

theorem Keeps.trans {a b c : State} (h : Keeps a b) (k : Keeps b c) : Keeps a c :=
  ⟨k.fuses.trans h.fuses, k.pending.trans h.pending, fun w => k.mem (h.mem w), fun w => k.regs (h.regs w)⟩

/-- A state that differs in none of the parts that the relation speaks of. -/
theorem Keeps.same {s0 u t : State} (h : Keeps s0 u) (hf : t.fuses = u.fuses) (hp : t.pending = u.pending)
    (hm : t.mem = u.mem) (hs : t.stores = u.stores) (hl : t.fplan = u.fplan) (hr : t.regs = u.regs)
    (hb : t.boot = u.boot) : Keeps s0 t where
  fuses := hf.trans h.fuses
  pending := hp.trans h.pending
  mem w := by simpa [State.memWf, hm, hs, hl] using h.mem w
  regs w := by simpa [State.regsWf, hf, hr, hb] using h.regs w

/-- A state whose memories are rewritten by operations that keep the canonical form. -/
theorem Keeps.write {s0 u t : State} (h : Keeps s0 u) (hf : t.fuses = u.fuses) (hp : t.pending = u.pending)
    (hr : t.regs = u.regs) (hb : t.boot = u.boot) (hm : Memory.wf u.mem = true → Memory.wf t.mem = true)
    (hs : Memory.wf u.stores = true → Memory.wf t.stores = true) (hl : Memory.wf u.fplan = true → Memory.wf t.fplan = true) :
    Keeps s0 t where
  fuses := hf.trans h.fuses
  pending := hp.trans h.pending
  mem w := by
    have k := h.mem w
    simp only [State.memWf, Bool.and_eq_true] at k ⊢
    exact ⟨⟨hm k.1.1, hs k.1.2⟩, hl k.2⟩
  regs w := by simpa [State.regsWf, hf, hr, hb] using h.regs w

/-- A state whose register map is rewritten. -/
theorem Keeps.wreg {s0 u t : State} (h : Keeps s0 u) (hf : t.fuses = u.fuses) (hp : t.pending = u.pending)
    (hm : t.mem = u.mem) (hs : t.stores = u.stores) (hl : t.fplan = u.fplan)
    (hr : u.regsWf = true → t.regsWf = true) : Keeps s0 t where
  fuses := hf.trans h.fuses
  pending := hp.trans h.pending
  mem w := by simpa [State.memWf, hm, hs, hl] using h.mem w
  regs w := hr (h.regs w)

/-- A state written as a record over another, with other fields than those the relation speaks of. -/
theorem Keeps.other {s0 u : State}
    {out' : List Output} {freeCtr' : Nat} {now' : Nat} {tb' : Timebase} {vaux' : Bool} {resetN' : Bool}
    {brownedOut' : Bool} {x0Lost' : Bool} {perstLow' : Nat} {straps' : Nat} {bootRun' : Option BootRun} {checks'
    : SMap Word} {fpDirty' : Bool} {coreState' : SMap Nat} {towerState' : SMap Nat} {bankRetired' : SMap Nat}
    {chanMapped' : SMap Nat} {chanPoisoned' : SMap Nat} {guestPresent' : Nat} {published' : Bool} {cores' : SMap
    CoreUnit} {beds' : SMap Bed} {hbm' : SMap Stack} {domains' : SMap Domain} {thermal' : SMap Thermal}
    {vinAlert' : Bool} {vinHighSince' : Nat} {vinReturned' : Nat} {capIo' : Nat} {capTc' : Nat} {ports' : SMap
    Span} {guests' : SMap Guest} {reqs' : List Req} {quiesced' : List (Nat × Option Nat)} {spanLost' : Nat}
    {retiredSubs' : List Nat} {ic' : IC} {flog0' : Flog} {flog1' : Flog} {fatal' : Nat} {mbox' : SMap Mailbox}
    {numVfs' : Nat} {vfEnable' : Bool} {vfPending' : Option (Nat × Bool)} {resets' : List ResetJob} {alive' :
    Bool} {standby' : Bool} {hbActive' : Option Nat} {hbStandby' : Option Nat} {fwBuild' : Nat} {failovers' :
    Nat} {fwDead' : Bool} {segs' : SMap Seg} {removing' : List (Nat × Seg)} {keys' : List ShareKey} {usedKeys' :
    List Nat} {leases' : SMap Lease} {revocation' : Option Revocation} {engines' : SMap Engine} {xfers' : List
    Xfer} {zeroing' : List ZeroRange} {lists' : List WorkList} {nextList' : Nat} {issueOrder' : Nat} {tagCtr' :
    Nat} {vCeiling' : SMap Nat} {bankMode' : SMap Nat} {pkgCap' : Nat} {rthInterval' : Nat} {preemptWait' : Nat}
    {stackIdle' : Nat} {vFloor' : SMap Nat} {clamps' : SMap Nat} {pauseUntil' : Nat} {lastPause' : Option Nat}
    {progress' : SMap Nat} {watchdogs' : SMap Nat} {traceDrops' : SMap (List Nat)} {lossRecords' : Nat}
    {sampling' : Bool} {lampCheck' : SMap Nat}
    (h : Keeps s0 u) :
    Keeps s0 { u with
      out := out', freeCtr := freeCtr', now := now', tb := tb', vaux := vaux', resetN := resetN', brownedOut
      := brownedOut', x0Lost := x0Lost', perstLow := perstLow', straps := straps', bootRun := bootRun',
      checks := checks', fpDirty := fpDirty', coreState := coreState', towerState := towerState',
      bankRetired := bankRetired', chanMapped := chanMapped', chanPoisoned := chanPoisoned', guestPresent :=
      guestPresent', published := published', cores := cores', beds := beds', hbm := hbm', domains :=
      domains', thermal := thermal', vinAlert := vinAlert', vinHighSince := vinHighSince', vinReturned :=
      vinReturned', capIo := capIo', capTc := capTc', ports := ports', guests := guests', reqs := reqs',
      quiesced := quiesced', spanLost := spanLost', retiredSubs := retiredSubs', ic := ic', flog0 := flog0',
      flog1 := flog1', fatal := fatal', mbox := mbox', numVfs := numVfs', vfEnable := vfEnable', vfPending
      := vfPending', resets := resets', alive := alive', standby := standby', hbActive := hbActive',
      hbStandby := hbStandby', fwBuild := fwBuild', failovers := failovers', fwDead := fwDead', segs :=
      segs', removing := removing', keys := keys', usedKeys := usedKeys', leases := leases', revocation :=
      revocation', engines := engines', xfers := xfers', zeroing := zeroing', lists := lists', nextList :=
      nextList', issueOrder := issueOrder', tagCtr := tagCtr', vCeiling := vCeiling', bankMode := bankMode',
      pkgCap := pkgCap', rthInterval := rthInterval', preemptWait := preemptWait', stackIdle := stackIdle',
      vFloor := vFloor', clamps := clamps', pauseUntil := pauseUntil', lastPause := lastPause', progress :=
      progress', watchdogs := watchdogs', traceDrops := traceDrops', lossRecords := lossRecords', sampling
      := sampling', lampCheck := lampCheck' } := h.same rfl rfl rfl rfl rfl rfl rfl

/-- A record over another state that rewrites byte memories by operations that keep the canonical form. -/
theorem Keeps.memory {s0 u : State}
    {out' : List Output} {freeCtr' : Nat} {now' : Nat} {tb' : Timebase} {vaux' : Bool} {resetN' : Bool}
    {brownedOut' : Bool} {x0Lost' : Bool} {perstLow' : Nat} {straps' : Nat} {bootRun' : Option BootRun} {mem' :
    Memory} {checks' : SMap Word} {stores' : Memory} {fplan' : Memory} {fpDirty' : Bool} {coreState' : SMap Nat}
    {towerState' : SMap Nat} {bankRetired' : SMap Nat} {chanMapped' : SMap Nat} {chanPoisoned' : SMap Nat}
    {guestPresent' : Nat} {published' : Bool} {cores' : SMap CoreUnit} {beds' : SMap Bed} {hbm' : SMap Stack}
    {domains' : SMap Domain} {thermal' : SMap Thermal} {vinAlert' : Bool} {vinHighSince' : Nat} {vinReturned' :
    Nat} {capIo' : Nat} {capTc' : Nat} {ports' : SMap Span} {guests' : SMap Guest} {reqs' : List Req} {quiesced'
    : List (Nat × Option Nat)} {spanLost' : Nat} {retiredSubs' : List Nat} {ic' : IC} {flog0' : Flog} {flog1' :
    Flog} {fatal' : Nat} {mbox' : SMap Mailbox} {numVfs' : Nat} {vfEnable' : Bool} {vfPending' : Option (Nat ×
    Bool)} {resets' : List ResetJob} {alive' : Bool} {standby' : Bool} {hbActive' : Option Nat} {hbStandby' :
    Option Nat} {fwBuild' : Nat} {failovers' : Nat} {fwDead' : Bool} {segs' : SMap Seg} {removing' : List (Nat ×
    Seg)} {keys' : List ShareKey} {usedKeys' : List Nat} {leases' : SMap Lease} {revocation' : Option
    Revocation} {engines' : SMap Engine} {xfers' : List Xfer} {zeroing' : List ZeroRange} {lists' : List
    WorkList} {nextList' : Nat} {issueOrder' : Nat} {tagCtr' : Nat} {vCeiling' : SMap Nat} {bankMode' : SMap
    Nat} {pkgCap' : Nat} {rthInterval' : Nat} {preemptWait' : Nat} {stackIdle' : Nat} {vFloor' : SMap Nat}
    {clamps' : SMap Nat} {pauseUntil' : Nat} {lastPause' : Option Nat} {progress' : SMap Nat} {watchdogs' : SMap
    Nat} {traceDrops' : SMap (List Nat)} {lossRecords' : Nat} {sampling' : Bool} {lampCheck' : SMap Nat}
    (h : Keeps s0 u) (hm : Memory.wf u.mem = true → Memory.wf mem' = true)
    (hs : Memory.wf u.stores = true → Memory.wf stores' = true)
    (hl : Memory.wf u.fplan = true → Memory.wf fplan' = true) :
    Keeps s0 { u with
      out := out', freeCtr := freeCtr', now := now', tb := tb', vaux := vaux', resetN := resetN', brownedOut
      := brownedOut', x0Lost := x0Lost', perstLow := perstLow', straps := straps', bootRun := bootRun', mem
      := mem', checks := checks', stores := stores', fplan := fplan', fpDirty := fpDirty', coreState :=
      coreState', towerState := towerState', bankRetired := bankRetired', chanMapped := chanMapped',
      chanPoisoned := chanPoisoned', guestPresent := guestPresent', published := published', cores :=
      cores', beds := beds', hbm := hbm', domains := domains', thermal := thermal', vinAlert := vinAlert',
      vinHighSince := vinHighSince', vinReturned := vinReturned', capIo := capIo', capTc := capTc', ports :=
      ports', guests := guests', reqs := reqs', quiesced := quiesced', spanLost := spanLost', retiredSubs :=
      retiredSubs', ic := ic', flog0 := flog0', flog1 := flog1', fatal := fatal', mbox := mbox', numVfs :=
      numVfs', vfEnable := vfEnable', vfPending := vfPending', resets := resets', alive := alive', standby
      := standby', hbActive := hbActive', hbStandby := hbStandby', fwBuild := fwBuild', failovers :=
      failovers', fwDead := fwDead', segs := segs', removing := removing', keys := keys', usedKeys :=
      usedKeys', leases := leases', revocation := revocation', engines := engines', xfers := xfers', zeroing
      := zeroing', lists := lists', nextList := nextList', issueOrder := issueOrder', tagCtr := tagCtr',
      vCeiling := vCeiling', bankMode := bankMode', pkgCap := pkgCap', rthInterval := rthInterval',
      preemptWait := preemptWait', stackIdle := stackIdle', vFloor := vFloor', clamps := clamps', pauseUntil
      := pauseUntil', lastPause := lastPause', progress := progress', watchdogs := watchdogs', traceDrops :=
      traceDrops', lossRecords := lossRecords', sampling := sampling', lampCheck := lampCheck' } := h.write rfl rfl rfl rfl hm hs hl

theorem keeps_State_setReg {s0 s : State} (r : Reg) (v : DWord) (h : Keeps s0 s) : Keeps s0 (s.setReg r v) := by
  refine h.wreg rfl rfl rfl rfl rfl fun w => ?_
  simp only [State.regsWf, State.setReg, Bool.and_eq_true] at w ⊢
  exact ⟨mapWf_put _ _ _ _ w.1, w.2⟩

theorem keeps_State_setBw {s0 s : State} (o : Nat) (v : DWord) (h : Keeps s0 s) : Keeps s0 (s.setBw o v) := by
  refine h.wreg rfl rfl rfl rfl rfl fun w => ?_
  simp only [State.regsWf, State.setBw, Bool.and_eq_true] at w ⊢
  exact ⟨w.1, mapWf_put _ _ _ _ w.2⟩

/-! ### Folds -/

theorem Keeps.fold {s0 : State} {α : Type} (f : State → α → State) (l : List α) (init : State) (h : Keeps s0 init)
    (hf : ∀ s a, Keeps s0 s → Keeps s0 (f s a)) : Keeps s0 (l.foldl f init) := by
  induction l generalizing init with
  | nil => exact h
  | cons a l ih => exact ih _ (hf _ _ h)

/-- A fold over a larger accumulator that holds a state. -/
theorem Keeps.foldOn {s0 : State} {α β : Type} (π : β → State) (f : β → α → β) (l : List α) (init : β)
    (h : Keeps s0 (π init)) (hf : ∀ x a, Keeps s0 (π x) → Keeps s0 (π (f x a))) : Keeps s0 (π (l.foldl f init)) := by
  induction l generalizing init with
  | nil => exact h
  | cons a l ih => exact ih _ (hf _ _ h)

/-- A read's state, as a name of its own: folds over reads go through it, so that the kernel compares the read itself and
does not evaluate it. -/
def readState (m : MemRead) : State := m.s

theorem Keeps.foldRead {s0 : State} {α : Type} (f : MemRead → α → MemRead) (l : List α) (init : MemRead)
    (h : Keeps s0 (readState init)) (hf : ∀ x a, Keeps s0 (readState x) → Keeps s0 (readState (f x a))) :
    Keeps s0 (l.foldl f init).s := Keeps.foldOn readState f l init h hf

/-- The first of a pair, likewise. -/
def firstState {β : Type} (x : State × β) : State := x.1

theorem Keeps.first {s0 : State} {β : Type} (x : State × β) (h : Keeps s0 x.1) : Keeps s0 (firstState x) := h

theorem Keeps.ofFirst {s0 : State} {β : Type} (x : State × β) (h : Keeps s0 (firstState x)) : Keeps s0 x.1 := h

theorem Keeps.foldPair {s0 : State} {α β : Type} (f : State × β → α → State × β) (l : List α) (init : State × β)
    (h : Keeps s0 (firstState init)) (hf : ∀ x a, Keeps s0 (firstState x) → Keeps s0 (firstState (f x a))) :
    Keeps s0 (l.foldl f init).1 := Keeps.foldOn firstState f l init h hf

theorem Keeps.foldFst {s0 : State} {α β : Type} (f : State × β → α → State × β) (l : List α) (init : State × β)
    (h : Keeps s0 init.1) (hf : ∀ x a, Keeps s0 x.1 → Keeps s0 (f x a).1) : Keeps s0 (l.foldl f init).1 :=
  Keeps.foldOn Prod.fst f l init h hf

end Sys2Proof.Machine
end

