-- ==== Sys2Proof/Laws/Only.lean ====
section
/-! SUPPORT. What an operation leaves alone: the relation Only holds before and after every way of building a state. One
lemma for each set of fields that a record of the model rewrites. -/

namespace Sys2Proof.Machine

theorem Only.refl {Ps : List Piece} {Ks : List RegKind} (s : State) : Only Ps Ks s s :=
  ⟨rfl, fun p _ => by cases p <;> rfl, fun _ _ => rfl⟩

theorem Only.trans {Ps : List Piece} {Ks : List RegKind} {a b c : State} (h : Only Ps Ks a b) (k : Only Ps Ks b c) :
    Only Ps Ks a c where
  make := k.make.trans h.make
  part p hp := by
    have x := h.part p hp
    have y := k.part p hp
    cases p <;> exact y.trans x
  reg o ho := (k.reg o ho).trans (h.reg o ho)

/-- What a longer list allows is more. -/
theorem Only.mono {Ps qs : List Piece} {Ks ls : List RegKind} {s t : State} (h : Only Ps Ks s t) (hp : Ps ⊆ qs)
    (hk : Ks ⊆ ls) : Only qs ls s t where
  make := h.make
  part p n := h.part p fun m => n (hp m)
  reg o n := h.reg o fun r m => n r (hk m)

theorem only_State_setReg {Ps : List Piece} {Ks : List RegKind} {s0 : State} (s : State) (r : Reg) (v : DWord)
    (hr : r.kind ∈ Ks) (hK : Only Ps Ks s0 s) : Only Ps Ks s0 (s.setReg r v) where
  make := hK.make
  part p hp := by cases p <;> exact hK.part _ hp
  reg o ho := by
    rw [← hK.reg o ho]
    exact look_put_ne _ _ _ _ _ fun e => ho r hr e.symm

theorem only_State_setBw {Ps : List Piece} {Ks : List RegKind} {s0 : State} (s : State) (o : Nat) (v : DWord)
    (hK : Only Ps Ks s0 s) (hp : [.boot] ⊆ Ps) : Only Ps Ks s0 (s.setBw o v) where
  make := hK.make
  part p n := by
    cases p <;> first | exact hK.part _ n | exact absurd (hp (List.mem_singleton.mpr rfl)) n
  reg := hK.reg

theorem RegKind.mem_all (k : RegKind) : k ∈ RegKind.all := by cases k <;> exact List.elem_iff.mp rfl

/-! ### Records -/

theorem Only.upd_bankMode {Ps : List Piece} {Ks : List RegKind} {s0 u : State} {bankMode'} (h : Only Ps Ks s0 u) (h0 :
    Piece.bankMode ∈ Ps) :
    Only Ps Ks s0 { u with bankMode := bankMode' } :=
  ⟨h.make, fun p hp => by cases p <;> first | exact h.part _ hp | contradiction, h.reg⟩

theorem Only.upd_bankRetired {Ps : List Piece} {Ks : List RegKind} {s0 u : State} {bankRetired'} (h : Only Ps Ks s0 u)
    (h0 : Piece.bankRetired ∈ Ps) :
    Only Ps Ks s0 { u with bankRetired := bankRetired' } :=
  ⟨h.make, fun p hp => by cases p <;> first | exact h.part _ hp | contradiction, h.reg⟩

theorem Only.upd_beds {Ps : List Piece} {Ks : List RegKind} {s0 u : State} {beds'} (h : Only Ps Ks s0 u) (h0 :
    Piece.beds ∈ Ps) :
    Only Ps Ks s0 { u with beds := beds' } :=
  ⟨h.make, fun p hp => by cases p <;> first | exact h.part _ hp | contradiction, h.reg⟩

theorem Only.upd_boot {Ps : List Piece} {Ks : List RegKind} {s0 u : State} {boot'} (h : Only Ps Ks s0 u) (h0 :
    Piece.boot ∈ Ps) :
    Only Ps Ks s0 { u with boot := boot' } :=
  ⟨h.make, fun p hp => by cases p <;> first | exact h.part _ hp | contradiction, h.reg⟩

theorem Only.upd_bootRun {Ps : List Piece} {Ks : List RegKind} {s0 u : State} {bootRun'} (h : Only Ps Ks s0 u) (h0 :
    Piece.bootRun ∈ Ps) :
    Only Ps Ks s0 { u with bootRun := bootRun' } :=
  ⟨h.make, fun p hp => by cases p <;> first | exact h.part _ hp | contradiction, h.reg⟩

theorem Only.upd_brownedOut {Ps : List Piece} {Ks : List RegKind} {s0 u : State} {brownedOut'} (h : Only Ps Ks s0 u)
    (h0 : Piece.brownedOut ∈ Ps) :
    Only Ps Ks s0 { u with brownedOut := brownedOut' } :=
  ⟨h.make, fun p hp => by cases p <;> first | exact h.part _ hp | contradiction, h.reg⟩

theorem Only.upd_chanMapped {Ps : List Piece} {Ks : List RegKind} {s0 u : State} {chanMapped'} (h : Only Ps Ks s0 u)
    (h0 : Piece.chanMapped ∈ Ps) :
    Only Ps Ks s0 { u with chanMapped := chanMapped' } :=
  ⟨h.make, fun p hp => by cases p <;> first | exact h.part _ hp | contradiction, h.reg⟩

theorem Only.upd_checks {Ps : List Piece} {Ks : List RegKind} {s0 u : State} {checks'} (h : Only Ps Ks s0 u) (h0 :
    Piece.checks ∈ Ps) :
    Only Ps Ks s0 { u with checks := checks' } :=
  ⟨h.make, fun p hp => by cases p <;> first | exact h.part _ hp | contradiction, h.reg⟩

theorem Only.upd_clamps {Ps : List Piece} {Ks : List RegKind} {s0 u : State} {clamps'} (h : Only Ps Ks s0 u) (h0 :
    Piece.clamps ∈ Ps) :
    Only Ps Ks s0 { u with clamps := clamps' } :=
  ⟨h.make, fun p hp => by cases p <;> first | exact h.part _ hp | contradiction, h.reg⟩

theorem Only.upd_coreState {Ps : List Piece} {Ks : List RegKind} {s0 u : State} {coreState'} (h : Only Ps Ks s0 u) (h0
    : Piece.coreState ∈ Ps) :
    Only Ps Ks s0 { u with coreState := coreState' } :=
  ⟨h.make, fun p hp => by cases p <;> first | exact h.part _ hp | contradiction, h.reg⟩

theorem Only.upd_cores {Ps : List Piece} {Ks : List RegKind} {s0 u : State} {cores'} (h : Only Ps Ks s0 u) (h0 :
    Piece.cores ∈ Ps) :
    Only Ps Ks s0 { u with cores := cores' } :=
  ⟨h.make, fun p hp => by cases p <;> first | exact h.part _ hp | contradiction, h.reg⟩

theorem Only.upd_domains {Ps : List Piece} {Ks : List RegKind} {s0 u : State} {domains'} (h : Only Ps Ks s0 u) (h0 :
    Piece.domains ∈ Ps) :
    Only Ps Ks s0 { u with domains := domains' } :=
  ⟨h.make, fun p hp => by cases p <;> first | exact h.part _ hp | contradiction, h.reg⟩

theorem Only.upd_engines {Ps : List Piece} {Ks : List RegKind} {s0 u : State} {engines'} (h : Only Ps Ks s0 u) (h0 :
    Piece.engines ∈ Ps) :
    Only Ps Ks s0 { u with engines := engines' } :=
  ⟨h.make, fun p hp => by cases p <;> first | exact h.part _ hp | contradiction, h.reg⟩

theorem Only.upd_fatal {Ps : List Piece} {Ks : List RegKind} {s0 u : State} {fatal'} (h : Only Ps Ks s0 u) (h0 :
    Piece.fatal ∈ Ps) :
    Only Ps Ks s0 { u with fatal := fatal' } :=
  ⟨h.make, fun p hp => by cases p <;> first | exact h.part _ hp | contradiction, h.reg⟩

theorem Only.upd_flog0 {Ps : List Piece} {Ks : List RegKind} {s0 u : State} {flog0'} (h : Only Ps Ks s0 u) (h0 :
    Piece.flog0 ∈ Ps) :
    Only Ps Ks s0 { u with flog0 := flog0' } :=
  ⟨h.make, fun p hp => by cases p <;> first | exact h.part _ hp | contradiction, h.reg⟩

theorem Only.upd_flog1 {Ps : List Piece} {Ks : List RegKind} {s0 u : State} {flog1'} (h : Only Ps Ks s0 u) (h0 :
    Piece.flog1 ∈ Ps) :
    Only Ps Ks s0 { u with flog1 := flog1' } :=
  ⟨h.make, fun p hp => by cases p <;> first | exact h.part _ hp | contradiction, h.reg⟩

theorem Only.upd_fpDirty {Ps : List Piece} {Ks : List RegKind} {s0 u : State} {fpDirty'} (h : Only Ps Ks s0 u) (h0 :
    Piece.fpDirty ∈ Ps) :
    Only Ps Ks s0 { u with fpDirty := fpDirty' } :=
  ⟨h.make, fun p hp => by cases p <;> first | exact h.part _ hp | contradiction, h.reg⟩

theorem Only.upd_freeCtr {Ps : List Piece} {Ks : List RegKind} {s0 u : State} {freeCtr'} (h : Only Ps Ks s0 u) (h0 :
    Piece.freeCtr ∈ Ps) :
    Only Ps Ks s0 { u with freeCtr := freeCtr' } :=
  ⟨h.make, fun p hp => by cases p <;> first | exact h.part _ hp | contradiction, h.reg⟩

theorem Only.upd_fwBuild {Ps : List Piece} {Ks : List RegKind} {s0 u : State} {fwBuild'} (h : Only Ps Ks s0 u) (h0 :
    Piece.fwBuild ∈ Ps) :
    Only Ps Ks s0 { u with fwBuild := fwBuild' } :=
  ⟨h.make, fun p hp => by cases p <;> first | exact h.part _ hp | contradiction, h.reg⟩

theorem Only.upd_guests {Ps : List Piece} {Ks : List RegKind} {s0 u : State} {guests'} (h : Only Ps Ks s0 u) (h0 :
    Piece.guests ∈ Ps) :
    Only Ps Ks s0 { u with guests := guests' } :=
  ⟨h.make, fun p hp => by cases p <;> first | exact h.part _ hp | contradiction, h.reg⟩

theorem Only.upd_hbActive {Ps : List Piece} {Ks : List RegKind} {s0 u : State} {hbActive'} (h : Only Ps Ks s0 u) (h0 :
    Piece.hbActive ∈ Ps) :
    Only Ps Ks s0 { u with hbActive := hbActive' } :=
  ⟨h.make, fun p hp => by cases p <;> first | exact h.part _ hp | contradiction, h.reg⟩

theorem Only.upd_hbStandby {Ps : List Piece} {Ks : List RegKind} {s0 u : State} {hbStandby'} (h : Only Ps Ks s0 u) (h0
    : Piece.hbStandby ∈ Ps) :
    Only Ps Ks s0 { u with hbStandby := hbStandby' } :=
  ⟨h.make, fun p hp => by cases p <;> first | exact h.part _ hp | contradiction, h.reg⟩

theorem Only.upd_hbm {Ps : List Piece} {Ks : List RegKind} {s0 u : State} {hbm'} (h : Only Ps Ks s0 u) (h0 : Piece.hbm
    ∈ Ps) :
    Only Ps Ks s0 { u with hbm := hbm' } :=
  ⟨h.make, fun p hp => by cases p <;> first | exact h.part _ hp | contradiction, h.reg⟩

theorem Only.upd_ic {Ps : List Piece} {Ks : List RegKind} {s0 u : State} {ic'} (h : Only Ps Ks s0 u) (h0 : Piece.ic ∈
    Ps) :
    Only Ps Ks s0 { u with ic := ic' } :=
  ⟨h.make, fun p hp => by cases p <;> first | exact h.part _ hp | contradiction, h.reg⟩

theorem Only.upd_issueOrder {Ps : List Piece} {Ks : List RegKind} {s0 u : State} {issueOrder'} (h : Only Ps Ks s0 u)
    (h0 : Piece.issueOrder ∈ Ps) :
    Only Ps Ks s0 { u with issueOrder := issueOrder' } :=
  ⟨h.make, fun p hp => by cases p <;> first | exact h.part _ hp | contradiction, h.reg⟩

theorem Only.upd_keys {Ps : List Piece} {Ks : List RegKind} {s0 u : State} {keys'} (h : Only Ps Ks s0 u) (h0 :
    Piece.keys ∈ Ps) :
    Only Ps Ks s0 { u with keys := keys' } :=
  ⟨h.make, fun p hp => by cases p <;> first | exact h.part _ hp | contradiction, h.reg⟩

theorem Only.upd_lampCheck {Ps : List Piece} {Ks : List RegKind} {s0 u : State} {lampCheck'} (h : Only Ps Ks s0 u) (h0
    : Piece.lampCheck ∈ Ps) :
    Only Ps Ks s0 { u with lampCheck := lampCheck' } :=
  ⟨h.make, fun p hp => by cases p <;> first | exact h.part _ hp | contradiction, h.reg⟩

theorem Only.upd_lastPause {Ps : List Piece} {Ks : List RegKind} {s0 u : State} {lastPause'} (h : Only Ps Ks s0 u) (h0
    : Piece.lastPause ∈ Ps) :
    Only Ps Ks s0 { u with lastPause := lastPause' } :=
  ⟨h.make, fun p hp => by cases p <;> first | exact h.part _ hp | contradiction, h.reg⟩

theorem Only.upd_leases {Ps : List Piece} {Ks : List RegKind} {s0 u : State} {leases'} (h : Only Ps Ks s0 u) (h0 :
    Piece.leases ∈ Ps) :
    Only Ps Ks s0 { u with leases := leases' } :=
  ⟨h.make, fun p hp => by cases p <;> first | exact h.part _ hp | contradiction, h.reg⟩

theorem Only.upd_lists {Ps : List Piece} {Ks : List RegKind} {s0 u : State} {lists'} (h : Only Ps Ks s0 u) (h0 :
    Piece.lists ∈ Ps) :
    Only Ps Ks s0 { u with lists := lists' } :=
  ⟨h.make, fun p hp => by cases p <;> first | exact h.part _ hp | contradiction, h.reg⟩

theorem Only.upd_lossRecords {Ps : List Piece} {Ks : List RegKind} {s0 u : State} {lossRecords'} (h : Only Ps Ks s0 u)
    (h0 : Piece.lossRecords ∈ Ps) :
    Only Ps Ks s0 { u with lossRecords := lossRecords' } :=
  ⟨h.make, fun p hp => by cases p <;> first | exact h.part _ hp | contradiction, h.reg⟩

theorem Only.upd_mbox {Ps : List Piece} {Ks : List RegKind} {s0 u : State} {mbox'} (h : Only Ps Ks s0 u) (h0 :
    Piece.mbox ∈ Ps) :
    Only Ps Ks s0 { u with mbox := mbox' } :=
  ⟨h.make, fun p hp => by cases p <;> first | exact h.part _ hp | contradiction, h.reg⟩

theorem Only.upd_mem {Ps : List Piece} {Ks : List RegKind} {s0 u : State} {mem'} (h : Only Ps Ks s0 u) (h0 : Piece.mem
    ∈ Ps) :
    Only Ps Ks s0 { u with mem := mem' } :=
  ⟨h.make, fun p hp => by cases p <;> first | exact h.part _ hp | contradiction, h.reg⟩

theorem Only.upd_out {Ps : List Piece} {Ks : List RegKind} {s0 u : State} {out'} (h : Only Ps Ks s0 u) (h0 : Piece.out
    ∈ Ps) :
    Only Ps Ks s0 { u with out := out' } :=
  ⟨h.make, fun p hp => by cases p <;> first | exact h.part _ hp | contradiction, h.reg⟩

theorem Only.upd_perstLow {Ps : List Piece} {Ks : List RegKind} {s0 u : State} {perstLow'} (h : Only Ps Ks s0 u) (h0 :
    Piece.perstLow ∈ Ps) :
    Only Ps Ks s0 { u with perstLow := perstLow' } :=
  ⟨h.make, fun p hp => by cases p <;> first | exact h.part _ hp | contradiction, h.reg⟩

theorem Only.upd_pkgCap {Ps : List Piece} {Ks : List RegKind} {s0 u : State} {pkgCap'} (h : Only Ps Ks s0 u) (h0 :
    Piece.pkgCap ∈ Ps) :
    Only Ps Ks s0 { u with pkgCap := pkgCap' } :=
  ⟨h.make, fun p hp => by cases p <;> first | exact h.part _ hp | contradiction, h.reg⟩

theorem Only.upd_ports {Ps : List Piece} {Ks : List RegKind} {s0 u : State} {ports'} (h : Only Ps Ks s0 u) (h0 :
    Piece.ports ∈ Ps) :
    Only Ps Ks s0 { u with ports := ports' } :=
  ⟨h.make, fun p hp => by cases p <;> first | exact h.part _ hp | contradiction, h.reg⟩

theorem Only.upd_preemptWait {Ps : List Piece} {Ks : List RegKind} {s0 u : State} {preemptWait'} (h : Only Ps Ks s0 u)
    (h0 : Piece.preemptWait ∈ Ps) :
    Only Ps Ks s0 { u with preemptWait := preemptWait' } :=
  ⟨h.make, fun p hp => by cases p <;> first | exact h.part _ hp | contradiction, h.reg⟩

theorem Only.upd_progress {Ps : List Piece} {Ks : List RegKind} {s0 u : State} {progress'} (h : Only Ps Ks s0 u) (h0 :
    Piece.progress ∈ Ps) :
    Only Ps Ks s0 { u with progress := progress' } :=
  ⟨h.make, fun p hp => by cases p <;> first | exact h.part _ hp | contradiction, h.reg⟩

theorem Only.upd_quiesced {Ps : List Piece} {Ks : List RegKind} {s0 u : State} {quiesced'} (h : Only Ps Ks s0 u) (h0 :
    Piece.quiesced ∈ Ps) :
    Only Ps Ks s0 { u with quiesced := quiesced' } :=
  ⟨h.make, fun p hp => by cases p <;> first | exact h.part _ hp | contradiction, h.reg⟩

theorem Only.upd_removing {Ps : List Piece} {Ks : List RegKind} {s0 u : State} {removing'} (h : Only Ps Ks s0 u) (h0 :
    Piece.removing ∈ Ps) :
    Only Ps Ks s0 { u with removing := removing' } :=
  ⟨h.make, fun p hp => by cases p <;> first | exact h.part _ hp | contradiction, h.reg⟩

theorem Only.upd_reqs {Ps : List Piece} {Ks : List RegKind} {s0 u : State} {reqs'} (h : Only Ps Ks s0 u) (h0 :
    Piece.reqs ∈ Ps) :
    Only Ps Ks s0 { u with reqs := reqs' } :=
  ⟨h.make, fun p hp => by cases p <;> first | exact h.part _ hp | contradiction, h.reg⟩

theorem Only.upd_resetN {Ps : List Piece} {Ks : List RegKind} {s0 u : State} {resetN'} (h : Only Ps Ks s0 u) (h0 :
    Piece.resetN ∈ Ps) :
    Only Ps Ks s0 { u with resetN := resetN' } :=
  ⟨h.make, fun p hp => by cases p <;> first | exact h.part _ hp | contradiction, h.reg⟩

theorem Only.upd_resets {Ps : List Piece} {Ks : List RegKind} {s0 u : State} {resets'} (h : Only Ps Ks s0 u) (h0 :
    Piece.resets ∈ Ps) :
    Only Ps Ks s0 { u with resets := resets' } :=
  ⟨h.make, fun p hp => by cases p <;> first | exact h.part _ hp | contradiction, h.reg⟩

theorem Only.upd_retiredSubs {Ps : List Piece} {Ks : List RegKind} {s0 u : State} {retiredSubs'} (h : Only Ps Ks s0 u)
    (h0 : Piece.retiredSubs ∈ Ps) :
    Only Ps Ks s0 { u with retiredSubs := retiredSubs' } :=
  ⟨h.make, fun p hp => by cases p <;> first | exact h.part _ hp | contradiction, h.reg⟩

theorem Only.upd_revocation {Ps : List Piece} {Ks : List RegKind} {s0 u : State} {revocation'} (h : Only Ps Ks s0 u)
    (h0 : Piece.revocation ∈ Ps) :
    Only Ps Ks s0 { u with revocation := revocation' } :=
  ⟨h.make, fun p hp => by cases p <;> first | exact h.part _ hp | contradiction, h.reg⟩

theorem Only.upd_rthInterval {Ps : List Piece} {Ks : List RegKind} {s0 u : State} {rthInterval'} (h : Only Ps Ks s0 u)
    (h0 : Piece.rthInterval ∈ Ps) :
    Only Ps Ks s0 { u with rthInterval := rthInterval' } :=
  ⟨h.make, fun p hp => by cases p <;> first | exact h.part _ hp | contradiction, h.reg⟩

theorem Only.upd_sampling {Ps : List Piece} {Ks : List RegKind} {s0 u : State} {sampling'} (h : Only Ps Ks s0 u) (h0 :
    Piece.sampling ∈ Ps) :
    Only Ps Ks s0 { u with sampling := sampling' } :=
  ⟨h.make, fun p hp => by cases p <;> first | exact h.part _ hp | contradiction, h.reg⟩

theorem Only.upd_segs {Ps : List Piece} {Ks : List RegKind} {s0 u : State} {segs'} (h : Only Ps Ks s0 u) (h0 :
    Piece.segs ∈ Ps) :
    Only Ps Ks s0 { u with segs := segs' } :=
  ⟨h.make, fun p hp => by cases p <;> first | exact h.part _ hp | contradiction, h.reg⟩

theorem Only.upd_stackIdle {Ps : List Piece} {Ks : List RegKind} {s0 u : State} {stackIdle'} (h : Only Ps Ks s0 u) (h0
    : Piece.stackIdle ∈ Ps) :
    Only Ps Ks s0 { u with stackIdle := stackIdle' } :=
  ⟨h.make, fun p hp => by cases p <;> first | exact h.part _ hp | contradiction, h.reg⟩

theorem Only.upd_stores {Ps : List Piece} {Ks : List RegKind} {s0 u : State} {stores'} (h : Only Ps Ks s0 u) (h0 :
    Piece.stores ∈ Ps) :
    Only Ps Ks s0 { u with stores := stores' } :=
  ⟨h.make, fun p hp => by cases p <;> first | exact h.part _ hp | contradiction, h.reg⟩

theorem Only.upd_tb {Ps : List Piece} {Ks : List RegKind} {s0 u : State} {tb'} (h : Only Ps Ks s0 u) (h0 : Piece.tb ∈
    Ps) :
    Only Ps Ks s0 { u with tb := tb' } :=
  ⟨h.make, fun p hp => by cases p <;> first | exact h.part _ hp | contradiction, h.reg⟩

theorem Only.upd_thermal {Ps : List Piece} {Ks : List RegKind} {s0 u : State} {thermal'} (h : Only Ps Ks s0 u) (h0 :
    Piece.thermal ∈ Ps) :
    Only Ps Ks s0 { u with thermal := thermal' } :=
  ⟨h.make, fun p hp => by cases p <;> first | exact h.part _ hp | contradiction, h.reg⟩

theorem Only.upd_towerState {Ps : List Piece} {Ks : List RegKind} {s0 u : State} {towerState'} (h : Only Ps Ks s0 u)
    (h0 : Piece.towerState ∈ Ps) :
    Only Ps Ks s0 { u with towerState := towerState' } :=
  ⟨h.make, fun p hp => by cases p <;> first | exact h.part _ hp | contradiction, h.reg⟩

theorem Only.upd_traceDrops {Ps : List Piece} {Ks : List RegKind} {s0 u : State} {traceDrops'} (h : Only Ps Ks s0 u)
    (h0 : Piece.traceDrops ∈ Ps) :
    Only Ps Ks s0 { u with traceDrops := traceDrops' } :=
  ⟨h.make, fun p hp => by cases p <;> first | exact h.part _ hp | contradiction, h.reg⟩

theorem Only.upd_vCeiling {Ps : List Piece} {Ks : List RegKind} {s0 u : State} {vCeiling'} (h : Only Ps Ks s0 u) (h0 :
    Piece.vCeiling ∈ Ps) :
    Only Ps Ks s0 { u with vCeiling := vCeiling' } :=
  ⟨h.make, fun p hp => by cases p <;> first | exact h.part _ hp | contradiction, h.reg⟩

theorem Only.upd_vFloor {Ps : List Piece} {Ks : List RegKind} {s0 u : State} {vFloor'} (h : Only Ps Ks s0 u) (h0 :
    Piece.vFloor ∈ Ps) :
    Only Ps Ks s0 { u with vFloor := vFloor' } :=
  ⟨h.make, fun p hp => by cases p <;> first | exact h.part _ hp | contradiction, h.reg⟩

theorem Only.upd_vfPending {Ps : List Piece} {Ks : List RegKind} {s0 u : State} {vfPending'} (h : Only Ps Ks s0 u) (h0
    : Piece.vfPending ∈ Ps) :
    Only Ps Ks s0 { u with vfPending := vfPending' } :=
  ⟨h.make, fun p hp => by cases p <;> first | exact h.part _ hp | contradiction, h.reg⟩

theorem Only.upd_vinReturned {Ps : List Piece} {Ks : List RegKind} {s0 u : State} {vinReturned'} (h : Only Ps Ks s0 u)
    (h0 : Piece.vinReturned ∈ Ps) :
    Only Ps Ks s0 { u with vinReturned := vinReturned' } :=
  ⟨h.make, fun p hp => by cases p <;> first | exact h.part _ hp | contradiction, h.reg⟩

theorem Only.upd_watchdogs {Ps : List Piece} {Ks : List RegKind} {s0 u : State} {watchdogs'} (h : Only Ps Ks s0 u) (h0
    : Piece.watchdogs ∈ Ps) :
    Only Ps Ks s0 { u with watchdogs := watchdogs' } :=
  ⟨h.make, fun p hp => by cases p <;> first | exact h.part _ hp | contradiction, h.reg⟩

theorem Only.upd_x0Lost {Ps : List Piece} {Ks : List RegKind} {s0 u : State} {x0Lost'} (h : Only Ps Ks s0 u) (h0 :
    Piece.x0Lost ∈ Ps) :
    Only Ps Ks s0 { u with x0Lost := x0Lost' } :=
  ⟨h.make, fun p hp => by cases p <;> first | exact h.part _ hp | contradiction, h.reg⟩

theorem Only.upd_xfers {Ps : List Piece} {Ks : List RegKind} {s0 u : State} {xfers'} (h : Only Ps Ks s0 u) (h0 :
    Piece.xfers ∈ Ps) :
    Only Ps Ks s0 { u with xfers := xfers' } :=
  ⟨h.make, fun p hp => by cases p <;> first | exact h.part _ hp | contradiction, h.reg⟩

theorem Only.upd_zeroing {Ps : List Piece} {Ks : List RegKind} {s0 u : State} {zeroing'} (h : Only Ps Ks s0 u) (h0 :
    Piece.zeroing ∈ Ps) :
    Only Ps Ks s0 { u with zeroing := zeroing' } :=
  ⟨h.make, fun p hp => by cases p <;> first | exact h.part _ hp | contradiction, h.reg⟩

theorem Only.upd_capIo_capTc {Ps : List Piece} {Ks : List RegKind} {s0 u : State} {capIo'} {capTc'} (h : Only Ps Ks s0
    u) (h0 : Piece.capIo ∈ Ps) (h1 : Piece.capTc ∈ Ps) :
    Only Ps Ks s0 { u with capIo := capIo', capTc := capTc' } :=
  ⟨h.make, fun p hp => by cases p <;> first | exact h.part _ hp | contradiction, h.reg⟩

theorem Only.upd_chanPoisoned_fpDirty {Ps : List Piece} {Ks : List RegKind} {s0 u : State} {chanPoisoned'} {fpDirty'}
    (h : Only Ps Ks s0 u) (h0 : Piece.chanPoisoned ∈ Ps) (h1 : Piece.fpDirty ∈ Ps) :
    Only Ps Ks s0 { u with chanPoisoned := chanPoisoned', fpDirty := fpDirty' } :=
  ⟨h.make, fun p hp => by cases p <;> first | exact h.part _ hp | contradiction, h.reg⟩

theorem Only.upd_clamps_vFloor {Ps : List Piece} {Ks : List RegKind} {s0 u : State} {clamps'} {vFloor'} (h : Only Ps
    Ks s0 u) (h0 : Piece.clamps ∈ Ps) (h1 : Piece.vFloor ∈ Ps) :
    Only Ps Ks s0 { u with clamps := clamps', vFloor := vFloor' } :=
  ⟨h.make, fun p hp => by cases p <;> first | exact h.part _ hp | contradiction, h.reg⟩

theorem Only.upd_coreState_bankRetired {Ps : List Piece} {Ks : List RegKind} {s0 u : State} {coreState'}
    {bankRetired'} (h : Only Ps Ks s0 u) (h0 : Piece.coreState ∈ Ps) (h1 : Piece.bankRetired ∈ Ps) :
    Only Ps Ks s0 { u with coreState := coreState', bankRetired := bankRetired' } :=
  ⟨h.make, fun p hp => by cases p <;> first | exact h.part _ hp | contradiction, h.reg⟩

theorem Only.upd_flog0_flog1 {Ps : List Piece} {Ks : List RegKind} {s0 u : State} {flog0'} {flog1'} (h : Only Ps Ks s0
    u) (h0 : Piece.flog0 ∈ Ps) (h1 : Piece.flog1 ∈ Ps) :
    Only Ps Ks s0 { u with flog0 := flog0', flog1 := flog1' } :=
  ⟨h.make, fun p hp => by cases p <;> first | exact h.part _ hp | contradiction, h.reg⟩

theorem Only.upd_flog1_flog0 {Ps : List Piece} {Ks : List RegKind} {s0 u : State} {flog1'} {flog0'} (h : Only Ps Ks s0
    u) (h0 : Piece.flog1 ∈ Ps) (h1 : Piece.flog0 ∈ Ps) :
    Only Ps Ks s0 { u with flog1 := flog1', flog0 := flog0' } :=
  ⟨h.make, fun p hp => by cases p <;> first | exact h.part _ hp | contradiction, h.reg⟩

theorem Only.upd_fpDirty_spanLost {Ps : List Piece} {Ks : List RegKind} {s0 u : State} {fpDirty'} {spanLost'} (h :
    Only Ps Ks s0 u) (h0 : Piece.fpDirty ∈ Ps) (h1 : Piece.spanLost ∈ Ps) :
    Only Ps Ks s0 { u with fpDirty := fpDirty', spanLost := spanLost' } :=
  ⟨h.make, fun p hp => by cases p <;> first | exact h.part _ hp | contradiction, h.reg⟩

theorem Only.upd_guestPresent_fpDirty {Ps : List Piece} {Ks : List RegKind} {s0 u : State} {guestPresent'} {fpDirty'}
    (h : Only Ps Ks s0 u) (h0 : Piece.guestPresent ∈ Ps) (h1 : Piece.fpDirty ∈ Ps) :
    Only Ps Ks s0 { u with guestPresent := guestPresent', fpDirty := fpDirty' } :=
  ⟨h.make, fun p hp => by cases p <;> first | exact h.part _ hp | contradiction, h.reg⟩

theorem Only.upd_keys_usedKeys {Ps : List Piece} {Ks : List RegKind} {s0 u : State} {keys'} {usedKeys'} (h : Only Ps
    Ks s0 u) (h0 : Piece.keys ∈ Ps) (h1 : Piece.usedKeys ∈ Ps) :
    Only Ps Ks s0 { u with keys := keys', usedKeys := usedKeys' } :=
  ⟨h.make, fun p hp => by cases p <;> first | exact h.part _ hp | contradiction, h.reg⟩

theorem Only.upd_lastPause_pauseUntil {Ps : List Piece} {Ks : List RegKind} {s0 u : State} {lastPause'} {pauseUntil'}
    (h : Only Ps Ks s0 u) (h0 : Piece.lastPause ∈ Ps) (h1 : Piece.pauseUntil ∈ Ps) :
    Only Ps Ks s0 { u with lastPause := lastPause', pauseUntil := pauseUntil' } :=
  ⟨h.make, fun p hp => by cases p <;> first | exact h.part _ hp | contradiction, h.reg⟩

theorem Only.upd_lists_nextList {Ps : List Piece} {Ks : List RegKind} {s0 u : State} {lists'} {nextList'} (h : Only Ps
    Ks s0 u) (h0 : Piece.lists ∈ Ps) (h1 : Piece.nextList ∈ Ps) :
    Only Ps Ks s0 { u with lists := lists', nextList := nextList' } :=
  ⟨h.make, fun p hp => by cases p <;> first | exact h.part _ hp | contradiction, h.reg⟩

theorem Only.upd_mbox_vfPending {Ps : List Piece} {Ks : List RegKind} {s0 u : State} {mbox'} {vfPending'} (h : Only Ps
    Ks s0 u) (h0 : Piece.mbox ∈ Ps) (h1 : Piece.vfPending ∈ Ps) :
    Only Ps Ks s0 { u with mbox := mbox', vfPending := vfPending' } :=
  ⟨h.make, fun p hp => by cases p <;> first | exact h.part _ hp | contradiction, h.reg⟩

theorem Only.upd_mem_checks {Ps : List Piece} {Ks : List RegKind} {s0 u : State} {mem'} {checks'} (h : Only Ps Ks s0
    u) (h0 : Piece.mem ∈ Ps) (h1 : Piece.checks ∈ Ps) :
    Only Ps Ks s0 { u with mem := mem', checks := checks' } :=
  ⟨h.make, fun p hp => by cases p <;> first | exact h.part _ hp | contradiction, h.reg⟩

theorem Only.upd_now_tb {Ps : List Piece} {Ks : List RegKind} {s0 u : State} {now'} {tb'} (h : Only Ps Ks s0 u) (h0 :
    Piece.now ∈ Ps) (h1 : Piece.tb ∈ Ps) :
    Only Ps Ks s0 { u with now := now', tb := tb' } :=
  ⟨h.make, fun p hp => by cases p <;> first | exact h.part _ hp | contradiction, h.reg⟩

theorem Only.upd_progress_watchdogs {Ps : List Piece} {Ks : List RegKind} {s0 u : State} {progress'} {watchdogs'} (h :
    Only Ps Ks s0 u) (h0 : Piece.progress ∈ Ps) (h1 : Piece.watchdogs ∈ Ps) :
    Only Ps Ks s0 { u with progress := progress', watchdogs := watchdogs' } :=
  ⟨h.make, fun p hp => by cases p <;> first | exact h.part _ hp | contradiction, h.reg⟩

theorem Only.upd_removing_zeroing {Ps : List Piece} {Ks : List RegKind} {s0 u : State} {removing'} {zeroing'} (h :
    Only Ps Ks s0 u) (h0 : Piece.removing ∈ Ps) (h1 : Piece.zeroing ∈ Ps) :
    Only Ps Ks s0 { u with removing := removing', zeroing := zeroing' } :=
  ⟨h.make, fun p hp => by cases p <;> first | exact h.part _ hp | contradiction, h.reg⟩

theorem Only.upd_resetN_straps {Ps : List Piece} {Ks : List RegKind} {s0 u : State} {resetN'} {straps'} (h : Only Ps
    Ks s0 u) (h0 : Piece.resetN ∈ Ps) (h1 : Piece.straps ∈ Ps) :
    Only Ps Ks s0 { u with resetN := resetN', straps := straps' } :=
  ⟨h.make, fun p hp => by cases p <;> first | exact h.part _ hp | contradiction, h.reg⟩

theorem Only.upd_revocation_zeroing {Ps : List Piece} {Ks : List RegKind} {s0 u : State} {revocation'} {zeroing'} (h :
    Only Ps Ks s0 u) (h0 : Piece.revocation ∈ Ps) (h1 : Piece.zeroing ∈ Ps) :
    Only Ps Ks s0 { u with revocation := revocation', zeroing := zeroing' } :=
  ⟨h.make, fun p hp => by cases p <;> first | exact h.part _ hp | contradiction, h.reg⟩

theorem Only.upd_segs_keys {Ps : List Piece} {Ks : List RegKind} {s0 u : State} {segs'} {keys'} (h : Only Ps Ks s0 u)
    (h0 : Piece.segs ∈ Ps) (h1 : Piece.keys ∈ Ps) :
    Only Ps Ks s0 { u with segs := segs', keys := keys' } :=
  ⟨h.make, fun p hp => by cases p <;> first | exact h.part _ hp | contradiction, h.reg⟩

theorem Only.upd_tagCtr_reqs {Ps : List Piece} {Ks : List RegKind} {s0 u : State} {tagCtr'} {reqs'} (h : Only Ps Ks s0
    u) (h0 : Piece.tagCtr ∈ Ps) (h1 : Piece.reqs ∈ Ps) :
    Only Ps Ks s0 { u with tagCtr := tagCtr', reqs := reqs' } :=
  ⟨h.make, fun p hp => by cases p <;> first | exact h.part _ hp | contradiction, h.reg⟩

theorem Only.upd_vfPending_resets {Ps : List Piece} {Ks : List RegKind} {s0 u : State} {vfPending'} {resets'} (h :
    Only Ps Ks s0 u) (h0 : Piece.vfPending ∈ Ps) (h1 : Piece.resets ∈ Ps) :
    Only Ps Ks s0 { u with vfPending := vfPending', resets := resets' } :=
  ⟨h.make, fun p hp => by cases p <;> first | exact h.part _ hp | contradiction, h.reg⟩

theorem Only.upd_vinAlert_vinReturned {Ps : List Piece} {Ks : List RegKind} {s0 u : State} {vinAlert'} {vinReturned'}
    (h : Only Ps Ks s0 u) (h0 : Piece.vinAlert ∈ Ps) (h1 : Piece.vinReturned ∈ Ps) :
    Only Ps Ks s0 { u with vinAlert := vinAlert', vinReturned := vinReturned' } :=
  ⟨h.make, fun p hp => by cases p <;> first | exact h.part _ hp | contradiction, h.reg⟩

theorem Only.upd_zeroing_xfers {Ps : List Piece} {Ks : List RegKind} {s0 u : State} {zeroing'} {xfers'} (h : Only Ps
    Ks s0 u) (h0 : Piece.zeroing ∈ Ps) (h1 : Piece.xfers ∈ Ps) :
    Only Ps Ks s0 { u with zeroing := zeroing', xfers := xfers' } :=
  ⟨h.make, fun p hp => by cases p <;> first | exact h.part _ hp | contradiction, h.reg⟩

theorem Only.upd_alive_fwDead_hbStandby {Ps : List Piece} {Ks : List RegKind} {s0 u : State} {alive'} {fwDead'}
    {hbStandby'} (h : Only Ps Ks s0 u) (h0 : Piece.alive ∈ Ps) (h1 : Piece.fwDead ∈ Ps) (h2 : Piece.hbStandby ∈ Ps) :
    Only Ps Ks s0 { u with alive := alive', fwDead := fwDead', hbStandby := hbStandby' } :=
  ⟨h.make, fun p hp => by cases p <;> first | exact h.part _ hp | contradiction, h.reg⟩

theorem Only.upd_alive_hbActive_fwDead {Ps : List Piece} {Ks : List RegKind} {s0 u : State} {alive'} {hbActive'}
    {fwDead'} (h : Only Ps Ks s0 u) (h0 : Piece.alive ∈ Ps) (h1 : Piece.hbActive ∈ Ps) (h2 : Piece.fwDead ∈ Ps) :
    Only Ps Ks s0 { u with alive := alive', hbActive := hbActive', fwDead := fwDead' } :=
  ⟨h.make, fun p hp => by cases p <;> first | exact h.part _ hp | contradiction, h.reg⟩

theorem Only.upd_coreState_towerState_fpDirty {Ps : List Piece} {Ks : List RegKind} {s0 u : State} {coreState'}
    {towerState'} {fpDirty'} (h : Only Ps Ks s0 u) (h0 : Piece.coreState ∈ Ps) (h1 : Piece.towerState ∈ Ps) (h2 :
    Piece.fpDirty ∈ Ps) :
    Only Ps Ks s0 { u with coreState := coreState', towerState := towerState', fpDirty := fpDirty' } :=
  ⟨h.make, fun p hp => by cases p <;> first | exact h.part _ hp | contradiction, h.reg⟩

theorem Only.upd_fplan_fpDirty_published {Ps : List Piece} {Ks : List RegKind} {s0 u : State} {fplan'} {fpDirty'}
    {published'} (h : Only Ps Ks s0 u) (h0 : Piece.fplan ∈ Ps) (h1 : Piece.fpDirty ∈ Ps) (h2 : Piece.published ∈ Ps) :
    Only Ps Ks s0 { u with fplan := fplan', fpDirty := fpDirty', published := published' } :=
  ⟨h.make, fun p hp => by cases p <;> first | exact h.part _ hp | contradiction, h.reg⟩

theorem Only.upd_numVfs_vfEnable_vfPending {Ps : List Piece} {Ks : List RegKind} {s0 u : State} {numVfs'} {vfEnable'}
    {vfPending'} (h : Only Ps Ks s0 u) (h0 : Piece.numVfs ∈ Ps) (h1 : Piece.vfEnable ∈ Ps) (h2 : Piece.vfPending ∈ Ps)
    :
    Only Ps Ks s0 { u with numVfs := numVfs', vfEnable := vfEnable', vfPending := vfPending' } :=
  ⟨h.make, fun p hp => by cases p <;> first | exact h.part _ hp | contradiction, h.reg⟩

theorem Only.upd_pkgCap_vCeiling_spanLost {Ps : List Piece} {Ks : List RegKind} {s0 u : State} {pkgCap'} {vCeiling'}
    {spanLost'} (h : Only Ps Ks s0 u) (h0 : Piece.pkgCap ∈ Ps) (h1 : Piece.vCeiling ∈ Ps) (h2 : Piece.spanLost ∈ Ps) :
    Only Ps Ks s0 { u with pkgCap := pkgCap', vCeiling := vCeiling', spanLost := spanLost' } :=
  ⟨h.make, fun p hp => by cases p <;> first | exact h.part _ hp | contradiction, h.reg⟩

theorem Only.upd_vinAlert_vinHighSince_vinReturned {Ps : List Piece} {Ks : List RegKind} {s0 u : State} {vinAlert'}
    {vinHighSince'} {vinReturned'} (h : Only Ps Ks s0 u) (h0 : Piece.vinAlert ∈ Ps) (h1 : Piece.vinHighSince ∈ Ps) (h2
    : Piece.vinReturned ∈ Ps) :
    Only Ps Ks s0 { u with
      vinAlert := vinAlert', vinHighSince := vinHighSince', vinReturned := vinReturned' } :=
  ⟨h.make, fun p hp => by cases p <;> first | exact h.part _ hp | contradiction, h.reg⟩

theorem Only.upd_alive_standby_hbStandby_failovers {Ps : List Piece} {Ks : List RegKind} {s0 u : State} {alive'}
    {standby'} {hbStandby'} {failovers'} (h : Only Ps Ks s0 u) (h0 : Piece.alive ∈ Ps) (h1 : Piece.standby ∈ Ps) (h2 :
    Piece.hbStandby ∈ Ps) (h3 : Piece.failovers ∈ Ps) :
    Only Ps Ks s0 { u with
      alive := alive', standby := standby', hbStandby := hbStandby', failovers := failovers' } :=
  ⟨h.make, fun p hp => by cases p <;> first | exact h.part _ hp | contradiction, h.reg⟩

theorem Only.upd_ic_alive_hbActive_hbStandby {Ps : List Piece} {Ks : List RegKind} {s0 u : State} {ic'} {alive'}
    {hbActive'} {hbStandby'} (h : Only Ps Ks s0 u) (h0 : Piece.ic ∈ Ps) (h1 : Piece.alive ∈ Ps) (h2 : Piece.hbActive ∈
    Ps) (h3 : Piece.hbStandby ∈ Ps) :
    Only Ps Ks s0 { u with ic := ic', alive := alive', hbActive := hbActive', hbStandby := hbStandby' } :=
  ⟨h.make, fun p hp => by cases p <;> first | exact h.part _ hp | contradiction, h.reg⟩

theorem Only.upd_keys_vFloor_clamps_progress_watchdogs {Ps : List Piece} {Ks : List RegKind} {s0 u : State} {keys'}
    {vFloor'} {clamps'} {progress'} {watchdogs'} (h : Only Ps Ks s0 u) (h0 : Piece.keys ∈ Ps) (h1 : Piece.vFloor ∈ Ps)
    (h2 : Piece.clamps ∈ Ps) (h3 : Piece.progress ∈ Ps) (h4 : Piece.watchdogs ∈ Ps) :
    Only Ps Ks s0 { u with
      keys := keys', vFloor := vFloor', clamps := clamps', progress := progress', watchdogs := watchdogs' } :=
  ⟨h.make, fun p hp => by cases p <;> first | exact h.part _ hp | contradiction, h.reg⟩

theorem Only.upd_mem_stores_checks_cores_beds {Ps : List Piece} {Ks : List RegKind} {s0 u : State} {mem'} {stores'}
    {checks'} {cores'} {beds'} (h : Only Ps Ks s0 u) (h0 : Piece.mem ∈ Ps) (h1 : Piece.stores ∈ Ps) (h2 : Piece.checks
    ∈ Ps) (h3 : Piece.cores ∈ Ps) (h4 : Piece.beds ∈ Ps) :
    Only Ps Ks s0 { u with
      mem := mem', stores := stores', checks := checks', cores := cores', beds := beds' } :=
  ⟨h.make, fun p hp => by cases p <;> first | exact h.part _ hp | contradiction, h.reg⟩

theorem Only.upd_alive_standby_hbActive_hbStandby_lists_xfers_engines_reqs_ports_guests_revocation_removing_quiesced
    {Ps : List Piece} {Ks : List RegKind} {s0 u : State} {alive'} {standby'} {hbActive'} {hbStandby'} {lists'}
    {xfers'} {engines'} {reqs'} {ports'} {guests'} {revocation'} {removing'} {quiesced'} (h : Only Ps Ks s0 u) (h0 :
    Piece.alive ∈ Ps) (h1 : Piece.standby ∈ Ps) (h2 : Piece.hbActive ∈ Ps) (h3 : Piece.hbStandby ∈ Ps) (h4 :
    Piece.lists ∈ Ps) (h5 : Piece.xfers ∈ Ps) (h6 : Piece.engines ∈ Ps) (h7 : Piece.reqs ∈ Ps) (h8 : Piece.ports ∈ Ps)
    (h9 : Piece.guests ∈ Ps) (h10 : Piece.revocation ∈ Ps) (h11 : Piece.removing ∈ Ps) (h12 : Piece.quiesced ∈ Ps) :
    Only Ps Ks s0 { u with
      alive := alive', standby := standby', hbActive := hbActive', hbStandby := hbStandby', lists := lists',
      xfers := xfers', engines := engines', reqs := reqs', ports := ports', guests := guests',
      revocation := revocation', removing := removing', quiesced := quiesced' } :=
  ⟨h.make, fun p hp => by cases p <;> first | exact h.part _ hp | contradiction, h.reg⟩

theorem Only.upd_pending_out_freeCtr_now_vaux_tb_flog0_flog1_fatal_domains_failovers_usedKeys_x0Lost_perstLow_straps
    {Ps : List Piece} {Ks : List RegKind} {s0 u : State} {pending'} {out'} {freeCtr'} {now'} {vaux'} {tb'} {flog0'}
    {flog1'} {fatal'} {domains'} {failovers'} {usedKeys'} {x0Lost'} {perstLow'} {straps'} (h : Only Ps Ks s0 u) (h0 :
    Piece.pending ∈ Ps) (h1 : Piece.out ∈ Ps) (h2 : Piece.freeCtr ∈ Ps) (h3 : Piece.now ∈ Ps) (h4 : Piece.vaux ∈ Ps)
    (h5 : Piece.tb ∈ Ps) (h6 : Piece.flog0 ∈ Ps) (h7 : Piece.flog1 ∈ Ps) (h8 : Piece.fatal ∈ Ps) (h9 : Piece.domains ∈
    Ps) (h10 : Piece.failovers ∈ Ps) (h11 : Piece.usedKeys ∈ Ps) (h12 : Piece.x0Lost ∈ Ps) (h13 : Piece.perstLow ∈ Ps)
    (h14 : Piece.straps ∈ Ps) :
    Only Ps Ks s0 { u with
      pending := pending', out := out', freeCtr := freeCtr', now := now', vaux := vaux', tb := tb',
      flog0 := flog0', flog1 := flog1', fatal := fatal', domains := domains', failovers := failovers',
      usedKeys := usedKeys', x0Lost := x0Lost', perstLow := perstLow', straps := straps' } :=
  ⟨h.make, fun p hp => by cases p <;> first | exact h.part _ hp | contradiction, h.reg⟩

/-! ### Folds -/

theorem Only.fold {Ps : List Piece} {Ks : List RegKind} {s0 : State} {α : Type} (f : State → α → State) (l : List α) (init : State) (h : Only Ps Ks s0 init)
    (hf : ∀ s a, Only Ps Ks s0 s → Only Ps Ks s0 (f s a)) : Only Ps Ks s0 (l.foldl f init) := by
  induction l generalizing init with
  | nil => exact h
  | cons a l ih => exact ih _ (hf _ _ h)

/-- A fold over a larger accumulator that holds a state. -/
theorem Only.foldOn {Ps : List Piece} {Ks : List RegKind} {s0 : State} {α β : Type} (π : β → State) (f : β → α → β) (l : List α) (init : β)
    (h : Only Ps Ks s0 (π init)) (hf : ∀ x a, Only Ps Ks s0 (π x) → Only Ps Ks s0 (π (f x a))) : Only Ps Ks s0 (π (l.foldl f init)) := by
  induction l generalizing init with
  | nil => exact h
  | cons a l ih => exact ih _ (hf _ _ h)

theorem Only.foldRead {Ps : List Piece} {Ks : List RegKind} {s0 : State} {α : Type} (f : MemRead → α → MemRead) (l : List α) (init : MemRead)
    (h : Only Ps Ks s0 (readState init)) (hf : ∀ x a, Only Ps Ks s0 (readState x) → Only Ps Ks s0 (readState (f x a))) :
    Only Ps Ks s0 (l.foldl f init).s := Only.foldOn readState f l init h hf

theorem Only.first {Ps : List Piece} {Ks : List RegKind} {s0 : State} {β : Type} (x : State × β) (h : Only Ps Ks s0 x.1) : Only Ps Ks s0 (firstState x) := h

theorem Only.ofFirst {Ps : List Piece} {Ks : List RegKind} {s0 : State} {β : Type} (x : State × β) (h : Only Ps Ks s0 (firstState x)) : Only Ps Ks s0 x.1 := h

theorem Only.foldPair {Ps : List Piece} {Ks : List RegKind} {s0 : State} {α β : Type} (f : State × β → α → State × β) (l : List α) (init : State × β)
    (h : Only Ps Ks s0 (firstState init)) (hf : ∀ x a, Only Ps Ks s0 (firstState x) → Only Ps Ks s0 (firstState (f x a))) :
    Only Ps Ks s0 (l.foldl f init).1 := Only.foldOn firstState f l init h hf

theorem Only.foldFst {Ps : List Piece} {Ks : List RegKind} {s0 : State} {α β : Type} (f : State × β → α → State × β) (l : List α) (init : State × β)
    (h : Only Ps Ks s0 init.1) (hf : ∀ x a, Only Ps Ks s0 x.1 → Only Ps Ks s0 (f x a).1) : Only Ps Ks s0 (l.foldl f init).1 :=
  Only.foldOn Prod.fst f l init h hf

end Sys2Proof.Machine
end

