-- ==== Sys2Proof/Laws/OnlyUnits.lean ====
section
/-! SUPPORT. What each operation over registers, events, the timebase, mailboxes, memory, links and segments may
change, and what each command of those files may change when it answers its next state. -/

namespace Sys2Proof.Machine

set_option Elab.async false

/-! ### Machine/Regs.lean -/

theorem only_State_setF {Ps : List Piece} {Ks : List RegKind} {s0 : State} (s : State) (r : Reg) (lo : Nat) (w : Nat)
    (x : Nat) (hK : Only Ps Ks s0 s) (hr : r.kind ∈ Ks) : Only Ps Ks s0 (State.setF s r lo w x) := by
  unfold State.setF
  repeat' first | with_reducible assumption | with_reducible apply only_State_setReg

theorem only_State_setBit {Ps : List Piece} {Ks : List RegKind} {s0 : State} (s : State) (r : Reg) (b : Nat) (hK :
    Only Ps Ks s0 s) (hr : r.kind ∈ Ks) : Only Ps Ks s0 (State.setBit s r b) := by
  unfold State.setBit
  repeat' first | with_reducible assumption | with_reducible apply only_State_setF

theorem only_State_clrBit {Ps : List Piece} {Ks : List RegKind} {s0 : State} (s : State) (r : Reg) (b : Nat) (hK :
    Only Ps Ks s0 s) (hr : r.kind ∈ Ks) : Only Ps Ks s0 (State.clrBit s r b) := by
  unfold State.clrBit
  repeat' first | with_reducible assumption | with_reducible apply only_State_setF

theorem only_State_countF {Ps : List Piece} {Ks : List RegKind} {s0 : State} (s : State) (r : Reg) (lo : Nat) (w :
    Nat) (n : Nat) (hK : Only Ps Ks s0 s) (hr : r.kind ∈ Ks) : Only Ps Ks s0 (State.countF s r lo w n) := by
  unfold State.countF
  repeat' first | with_reducible assumption | with_reducible apply only_State_setF

theorem only_State_plainWrite {Ps : List Piece} {Ks : List RegKind} {s0 : State} (s : State) (r : Reg) (w : DWord) (hK
    : Only Ps Ks s0 s) (hr : r.kind ∈ Ks) : Only Ps Ks s0 (State.plainWrite s r w) := by
  unfold State.plainWrite
  repeat' first | with_reducible assumption | with_reducible apply only_State_setReg

theorem only_State_setBwF {Ps : List Piece} {Ks : List RegKind} {s0 : State} (s : State) (o : Nat) (lo : Nat) (w :
    Nat) (x : Nat) (hK : Only Ps Ks s0 s) (hp : [.boot] ⊆ Ps) : Only Ps Ks s0 (State.setBwF s o lo w x) := by
  unfold State.setBwF
  repeat' first | with_reducible assumption | with_reducible apply only_State_setBw

theorem only_State_setCoreUnit {Ps : List Piece} {Ks : List RegKind} {s0 : State} (s : State) (k : Nat) (c : CoreUnit)
    (hK : Only Ps Ks s0 s) (hp : [.cores] ⊆ Ps) : Only Ps Ks s0 (State.setCoreUnit s k c) := by
  unfold State.setCoreUnit
  repeat' first | with_reducible assumption | exact hp (by decide +kernel) | with_reducible apply Only.upd_cores

theorem only_State_setBed {Ps : List Piece} {Ks : List RegKind} {s0 : State} (s : State) (k : Nat) (b : Bed) (hK :
    Only Ps Ks s0 s) (hp : [.beds] ⊆ Ps) : Only Ps Ks s0 (State.setBed s k b) := by
  unfold State.setBed
  repeat' first | with_reducible assumption | exact hp (by decide +kernel) | with_reducible apply Only.upd_beds

theorem only_State_setStack {Ps : List Piece} {Ks : List RegKind} {s0 : State} (s : State) (n : Nat) (x : Stack) (hK :
    Only Ps Ks s0 s) (hp : [.hbm] ⊆ Ps) : Only Ps Ks s0 (State.setStack s n x) := by
  unfold State.setStack
  repeat' first | with_reducible assumption | exact hp (by decide +kernel) | with_reducible apply Only.upd_hbm

theorem only_State_setDom {Ps : List Piece} {Ks : List RegKind} {s0 : State} (s : State) (d : Nat) (x : Domain) (hK :
    Only Ps Ks s0 s) (hp : [.domains] ⊆ Ps) : Only Ps Ks s0 (State.setDom s d x) := by
  unfold State.setDom
  repeat' first | with_reducible assumption | exact hp (by decide +kernel) | with_reducible apply Only.upd_domains

theorem only_State_setTherm {Ps : List Piece} {Ks : List RegKind} {s0 : State} (s : State) (t : Nat) (x : Thermal) (hK
    : Only Ps Ks s0 s) (hp : [.thermal] ⊆ Ps) : Only Ps Ks s0 (State.setTherm s t x) := by
  unfold State.setTherm
  repeat' first | with_reducible assumption | exact hp (by decide +kernel) | with_reducible apply Only.upd_thermal

theorem only_State_setSpan {Ps : List Piece} {Ks : List RegKind} {s0 : State} (s : State) (p : Nat) (x : Span) (hK :
    Only Ps Ks s0 s) (hp : [.ports] ⊆ Ps) : Only Ps Ks s0 (State.setSpan s p x) := by
  unfold State.setSpan
  repeat' first | with_reducible assumption | exact hp (by decide +kernel) | with_reducible apply Only.upd_ports

theorem only_State_setGuest {Ps : List Piece} {Ks : List RegKind} {s0 : State} (s : State) (g : Nat) (x : Guest) (hK :
    Only Ps Ks s0 s) (hp : [.guests] ⊆ Ps) : Only Ps Ks s0 (State.setGuest s g x) := by
  unfold State.setGuest
  repeat' first | with_reducible assumption | exact hp (by decide +kernel) | with_reducible apply Only.upd_guests

theorem only_State_setMb {Ps : List Piece} {Ks : List RegKind} {s0 : State} (s : State) (t : Nat) (x : Mailbox) (hK :
    Only Ps Ks s0 s) (hp : [.mbox] ⊆ Ps) : Only Ps Ks s0 (State.setMb s t x) := by
  unfold State.setMb
  repeat' first | with_reducible assumption | exact hp (by decide +kernel) | with_reducible apply Only.upd_mbox

theorem only_State_setEngine {Ps : List Piece} {Ks : List RegKind} {s0 : State} (s : State) (e : Nat) (x : Engine) (hK
    : Only Ps Ks s0 s) (hp : [.engines] ⊆ Ps) : Only Ps Ks s0 (State.setEngine s e x) := by
  unfold State.setEngine
  repeat' first | with_reducible assumption | exact hp (by decide +kernel) | with_reducible apply Only.upd_engines

theorem only_State_setLease {Ps : List Piece} {Ks : List RegKind} {s0 : State} (s : State) (n : Nat) (x : Lease) (hK :
    Only Ps Ks s0 s) (hp : [.leases] ⊆ Ps) : Only Ps Ks s0 (State.setLease s n x) := by
  unfold State.setLease
  repeat' first | with_reducible assumption | exact hp (by decide +kernel) | with_reducible apply Only.upd_leases

theorem only_State_setList {Ps : List Piece} {Ks : List RegKind} {s0 : State} (s : State) (l : WorkList) (hK : Only Ps
    Ks s0 s) (hp : [.lists] ⊆ Ps) : Only Ps Ks s0 (State.setList s l) := by
  unfold State.setList
  repeat' first | with_reducible assumption | exact hp (by decide +kernel) | with_reducible apply Only.upd_lists

theorem only_State_setOp {Ps : List Piece} {Ks : List RegKind} {s0 : State} (s : State) (id : Nat) (o : Op) (hK : Only
    Ps Ks s0 s) (hp : [.lists] ⊆ Ps) : Only Ps Ks s0 (State.setOp s id o) := by
  unfold State.setOp
  repeat' first | with_reducible assumption | with_reducible apply only_State_setList | split

theorem only_State_emit {Ps : List Piece} {Ks : List RegKind} {s0 : State} (s : State) (o : Output) (hK : Only Ps Ks
    s0 s) (hp : [.out] ⊆ Ps) : Only Ps Ks s0 (State.emit s o) := by
  unfold State.emit
  repeat' first | with_reducible assumption | exact hp (by decide +kernel) | with_reducible apply Only.upd_out

theorem only_State_bumpFree {Ps : List Piece} {Ks : List RegKind} {s0 : State} (s : State) (hK : Only Ps Ks s0 s) (hp
    : [.freeCtr] ⊆ Ps) : Only Ps Ks s0 (State.bumpFree s) := by
  unfold State.bumpFree
  repeat' first | with_reducible assumption | exact hp (by decide +kernel) | with_reducible apply Only.upd_freeCtr

/-! ### Machine/Events.lean -/

theorem only_State_logEntry {Ps : List Piece} {Ks : List RegKind} {s0 : State} (s : State) (e : FlogBody) (hK : Only
    Ps Ks s0 s) (hp : [.flog0, .flog1] ⊆ Ps) : Only Ps Ks s0 (State.logEntry s e) := by
  unfold State.logEntry
  repeat' first | with_reducible assumption | exact hp (by decide +kernel) | with_reducible apply Only.upd_flog0_flog1

theorem only_State_log {Ps : List Piece} {Ks : List RegKind} {s0 : State} (s : State) (code : Nat) (sev : Nat) (die :
    Nat) (node : Nat) (tenant : Nat) (d0 : Nat) (d1 : Nat) (hK : Only Ps Ks s0 s) (hp : [.flog0, .flog1] ⊆ Ps) : Only
    Ps Ks s0 (State.log s code sev die node tenant d0 d1) := by
  unfold State.log
  repeat' first | with_reducible assumption | with_reducible apply only_State_logEntry

theorem only_State_accessError {Ps : List Piece} {Ks : List RegKind} {s0 : State} (s : State) (kind : Nat) (node :
    Nat) (tenant : Nat) (addr : Nat) (hK : Only Ps Ks s0 s) (hp : [.flog0, .flog1] ⊆ Ps) : Only Ps Ks s0
    (State.accessError s kind node tenant addr) := by
  unfold State.accessError
  repeat' first | with_reducible assumption | with_reducible apply only_State_log

theorem only_execFaultLogEntry (e : FlogBody) (s : State) : ∃ t, execFaultLogEntry e s = .next t ∧ Only [.flog0,
    .flog1] [] s t := by
  refine ⟨_, rfl, ?_⟩
  repeat' first | with_reducible exact Only.refl _ | decide +kernel | with_reducible apply only_State_logEntry

theorem only_flogClear {Ps : List Piece} {Ks : List RegKind} {s0 : State} (x : Nat) (s : State) (hK : Only Ps Ks s0 s)
    (hp : [.flog0, .flog1] ⊆ Ps) : Only Ps Ks s0 (flogClear x s) := by
  unfold flogClear
  repeat' first
    | with_reducible assumption | exact hp (by decide +kernel) | split | with_reducible apply Only.upd_flog0
    | with_reducible apply Only.upd_flog1

theorem only_execFlogCtlClear (x : Fin 2) (s : State) : ∃ t, execFlogCtlClear x s = .next t ∧ Only [.flog0, .flog1] []
    s t := by
  refine ⟨_, rfl, ?_⟩
  repeat' first | with_reducible exact Only.refl _ | decide +kernel | with_reducible apply only_flogClear

theorem only_execI3cIndexWrite (x : Fin 2) (index : BitVec 16) (s : State) : ∃ t, execI3cIndexWrite x index s = .next
    t ∧ Only [.flog0, .flog1] [] s t := by
  refine ⟨_, rfl, ?_⟩
  repeat' first
    | with_reducible exact Only.refl _ | decide +kernel | dsimp only | split | with_reducible apply Only.upd_flog0
    | with_reducible apply Only.upd_flog1

theorem only_execI3cRead (x : Fin 2) (s : State) : ∃ t, execI3cRead x s = .next t ∧ Only [.out] [] s t := by
  refine ⟨_, rfl, ?_⟩
  repeat' first | with_reducible exact Only.refl _ | decide +kernel | with_reducible apply only_State_emit

theorem only_State_icEvent {Ps : List Piece} {Ks : List RegKind} {s0 : State} (s : State) (n : Nat) (hK : Only Ps Ks
    s0 s) (hp : [.ic] ⊆ Ps) : Only Ps Ks s0 (State.icEvent s n) := by
  unfold State.icEvent
  repeat' first | with_reducible assumption | exact hp (by decide +kernel) | split | with_reducible apply Only.upd_ic

theorem only_State_raise {Ps : List Piece} {Ks : List RegKind} {s0 : State} (s : State) (n : Nat) (hK : Only Ps Ks s0
    s) (hp : [.ic] ⊆ Ps) : Only Ps Ks s0 (State.raise s n) := by
  unfold State.raise
  repeat' first
    | with_reducible assumption | exact hp (by decide +kernel) | with_reducible apply only_State_icEvent | dsimp only
    | split | with_reducible apply Only.upd_ic

theorem only_asyncLatch {Ps : List Piece} {Ks : List RegKind} {s0 : State} (n : Nat) (s : State) (hK : Only Ps Ks s0
    s) (hp : [.ic] ⊆ Ps) : Only Ps Ks s0 (asyncLatch n s) := by
  unfold asyncLatch
  repeat' first
    | with_reducible assumption | exact hp (by decide +kernel) | with_reducible apply only_State_icEvent | dsimp only
    | split | with_reducible apply Only.upd_ic

theorem only_execEvent (source : BitVec 11) (s : State) : ∃ t, execEvent source s = .next t ∧ Only [.ic] [] s t := by
  refine ⟨_, rfl, ?_⟩
  repeat' first | with_reducible exact Only.refl _ | decide +kernel | with_reducible apply only_State_icEvent | split

theorem only_execIcPendSet (n : Fin 64) (value : Word) (s : State) : ∃ t, execIcPendSet n value s = .next t ∧ Only
    [.ic] [] s t := by
  refine ⟨_, rfl, ?_⟩
  repeat' first | with_reducible exact Only.refl _ | decide +kernel | with_reducible apply Only.upd_ic

theorem only_execIcPendClr (n : Fin 64) (value : Word) (s : State) : ∃ t, execIcPendClr n value s = .next t ∧ Only
    [.ic] [] s t := by
  refine ⟨_, rfl, ?_⟩
  repeat' first | with_reducible exact Only.refl _ | decide +kernel | with_reducible apply Only.upd_ic

theorem only_execIcMaskSet (n : Fin 64) (value : Word) (s : State) : ∃ t, execIcMaskSet n value s = .next t ∧ Only
    [.ic] [] s t := by
  refine ⟨_, rfl, ?_⟩
  repeat' first | with_reducible exact Only.refl _ | decide +kernel | with_reducible apply Only.upd_ic

theorem only_execIcMaskClr (n : Fin 64) (value : Word) (s : State) : ∃ t, execIcMaskClr n value s = .next t ∧ Only
    [.ic] [] s t := by
  refine ⟨_, rfl, ?_⟩
  repeat' first | with_reducible exact Only.refl _ | decide +kernel | with_reducible apply Only.upd_ic

theorem only_execIcTgtEnSet (value : Word) (s : State) : ∃ t, execIcTgtEnSet value s = .next t ∧ Only [.ic] [] s t :=
    by
  refine ⟨_, rfl, ?_⟩
  repeat' first | with_reducible exact Only.refl _ | decide +kernel | with_reducible apply Only.upd_ic

theorem only_execIcTgtEnClr (value : Word) (s : State) : ∃ t, execIcTgtEnClr value s = .next t ∧ Only [.ic] [] s t :=
    by
  refine ⟨_, rfl, ?_⟩
  repeat' first | with_reducible exact Only.refl _ | decide +kernel | with_reducible apply Only.upd_ic

theorem only_icAckStep {Ps : List Piece} {Ks : List RegKind} {s0 : State} (t : Nat) (s : State) (hK : Only Ps Ks s0 s)
    (hp : [.out, .ic] ⊆ Ps) : Only Ps Ks s0 (icAckStep t s) := by
  unfold icAckStep
  repeat' first
    | with_reducible assumption | exact List.Subset.trans (by decide +kernel) hp | exact hp (by decide +kernel)
    | with_reducible apply only_State_emit | with_reducible apply Only.upd_ic

theorem only_execIcAck (target : Fin 8) (s : State) : ∃ t, execIcAck target s = .next t ∧ Only [.out, .ic] [] s t :=
    by
  refine ⟨_, rfl, ?_⟩
  repeat' first | with_reducible exact Only.refl _ | decide +kernel | with_reducible apply only_icAckStep

theorem only_icEoiStep {Ps : List Piece} {Ks : List RegKind} {s0 : State} (t : Nat) (n : Nat) (s : State) (hK : Only
    Ps Ks s0 s) (hp : [.ic, .flog0, .flog1] ⊆ Ps) : Only Ps Ks s0 (icEoiStep t n s) := by
  unfold icEoiStep
  repeat' first
    | with_reducible assumption | exact List.Subset.trans (by decide +kernel) hp | exact hp (by decide +kernel)
    | with_reducible apply only_State_accessError | dsimp only | split | with_reducible apply Only.upd_ic

theorem only_execIcEoi (target : Fin 8) (value : Word) (s : State) : ∃ t, execIcEoi target value s = .next t ∧ Only
    [.ic, .flog0, .flog1] [] s t := by
  refine ⟨_, rfl, ?_⟩
  repeat' first | with_reducible exact Only.refl _ | decide +kernel | with_reducible apply only_icEoiStep

theorem only_execAsyncLatchSend (source : BitVec 11) (s : State) : ∃ t, execAsyncLatchSend source s = .next t ∧ Only
    [.ic] [] s t := by
  refine ⟨_, rfl, ?_⟩
  repeat' first | with_reducible exact Only.refl _ | decide +kernel | with_reducible apply only_asyncLatch

theorem only_State_setFatal {Ps : List Piece} {Ks : List RegKind} {s0 : State} (s : State) (b : Nat) (hK : Only Ps Ks
    s0 s) (hp : [.fatal, .mbox] ⊆ Ps) : Only Ps Ks s0 (State.setFatal s b) := by
  unfold State.setFatal
  repeat' first
    | with_reducible assumption | exact List.Subset.trans (by decide +kernel) hp | exact hp (by decide +kernel)
    | with_reducible apply only_State_setMb | dsimp only | split | with_reducible apply Only.upd_fatal

theorem only_execFatalVector (s : State) : ∃ t, execFatalVector s = .next t ∧ Only [.out, .mbox] [] s t := by
  refine ⟨_, rfl, ?_⟩
  repeat' first
    | with_reducible exact Only.refl _ | decide +kernel | with_reducible apply only_State_emit
    | with_reducible apply only_State_setMb | split

theorem only_execVector0 (tenant : BitVec 10) (s : State) : ∃ t, execVector0 tenant s = .next t ∧ Only [.out, .mbox]
    [] s t := by
  refine ⟨_, rfl, ?_⟩
  repeat' first
    | with_reducible exact Only.refl _ | decide +kernel | with_reducible apply only_State_emit
    | with_reducible apply only_State_setMb | split

theorem only_execControlSramUncorrectable (standby : Bool) (offset : BitVec 32) (s : State) : ∃ t,
    execControlSramUncorrectable standby offset s = .next t ∧ Only [.flog0, .flog1, .fatal, .mbox] [] s t := by
  refine ⟨_, rfl, ?_⟩
  repeat' first
    | with_reducible exact Only.refl _ | decide +kernel | with_reducible apply only_State_log
    | with_reducible apply only_State_setFatal

/-! ### Machine/Timebase.lean -/

theorem only_tbTick {Ps : List Piece} {Ks : List RegKind} {s0 : State} (s : State) (hK : Only Ps Ks s0 s) (hp : [.now,
    .tb] ⊆ Ps) : Only Ps Ks s0 (tbTick s) := by
  unfold tbTick
  repeat' first
    | with_reducible assumption | exact hp (by decide +kernel) | dsimp only | split
    | with_reducible apply Only.upd_now_tb

theorem only_execTimebaseFirstLock (s : State) : ∃ t, execTimebaseFirstLock s = .next t ∧ Only [.tb] [] s t := by
  refine ⟨_, rfl, ?_⟩
  repeat' first
    | with_reducible exact Only.refl _ | decide +kernel | dsimp only | split | with_reducible apply Only.upd_tb

theorem only_execTimerefLoss (s : State) : ∃ t, execTimerefLoss s = .next t ∧ Only [.tb, .ic, .flog0, .flog1] [] s t
    := by
  refine ⟨_, rfl, ?_⟩
  repeat' first
    | with_reducible exact Only.refl _ | decide +kernel | with_reducible apply only_State_log
    | with_reducible apply only_State_raise | dsimp only | split | with_reducible apply Only.upd_tb

theorem only_execTimerefRelock (s : State) : ∃ t, execTimerefRelock s = .next t ∧ Only [.tb] [] s t := by
  refine ⟨_, rfl, ?_⟩
  repeat' first
    | with_reducible exact Only.refl _ | decide +kernel | dsimp only | split | with_reducible apply Only.upd_tb

theorem only_syncLoad {Ps : List Piece} {Ks : List RegKind} {s0 : State} (s : State) (hK : Only Ps Ks s0 s) (hp :
    [.now, .tb, .flog0, .flog1] ⊆ Ps) : Only Ps Ks s0 (syncLoad s) := by
  unfold syncLoad
  repeat' first
    | with_reducible assumption | exact List.Subset.trans (by decide +kernel) hp | exact hp (by decide +kernel)
    | with_reducible apply only_State_log | dsimp only | with_reducible apply Only.upd_now_tb

theorem only_execSyncLoad (s : State) : ∃ t, execSyncLoad s = .next t ∧ Only [.now, .tb, .flog0, .flog1] [] s t := by
  refine ⟨_, rfl, ?_⟩
  repeat' first
    | with_reducible exact Only.refl _ | decide +kernel | with_reducible apply only_syncLoad | dsimp only | split
    | with_reducible apply Only.upd_tb

theorem only_execArm (s : State) : ∃ t, execArm s = .next t ∧ Only [.tb] [] s t := by
  refine ⟨_, rfl, ?_⟩
  repeat' first | with_reducible exact Only.refl _ | decide +kernel | dsimp only | with_reducible apply Only.upd_tb

theorem only_execDisarm (s : State) : ∃ t, execDisarm s = .next t ∧ Only [.tb] [] s t := by
  refine ⟨_, rfl, ?_⟩
  repeat' first | with_reducible exact Only.refl _ | decide +kernel | dsimp only | with_reducible apply Only.upd_tb

/-! ### Machine/Mailbox.lean -/

theorem only_State_notify {Ps : List Piece} {Ks : List RegKind} {s0 : State} (s : State) (t : Nat) (kind : Nat) (tag :
    Nat) (subject : Nat) (detail : List Byte) (hK : Only Ps Ks s0 s) (hp : [.mbox] ⊆ Ps) : Only Ps Ks s0 (State.notify
    s t kind tag subject detail) := by
  unfold State.notify
  repeat' first | with_reducible assumption | with_reducible apply only_State_setMb | dsimp only | split

theorem only_State_notifyAll {Ps : List Piece} {Ks : List RegKind} {s0 : State} (s : State) (kind : Nat) (tag : Nat)
    (subject : Nat) (detail : List Byte) (hK : Only Ps Ks s0 s) (hp : [.mbox] ⊆ Ps) : Only Ps Ks s0 (State.notifyAll s
    kind tag subject detail) := by
  unfold State.notifyAll
  repeat' first
    | with_reducible assumption | with_reducible apply only_State_notify | with_reducible apply Only.fold
    | intro _ _ _

theorem only_State_progressed {Ps : List Piece} {Ks : List RegKind} {s0 : State} (s : State) (t : Nat) (hK : Only Ps
    Ks s0 s) (hp : [.progress, .watchdogs] ⊆ Ps) : Only Ps Ks s0 (State.progressed s t) := by
  unfold State.progressed
  repeat' first
    | with_reducible assumption | exact hp (by decide +kernel) | with_reducible apply Only.upd_progress_watchdogs

theorem only_State_complete {Ps : List Piece} {Ks : List RegKind} {s0 : State} (s : State) (t : Nat) (opcode : Nat)
    (tag : Nat) (status : Nat) (body : List Byte) (hK : Only Ps Ks s0 s) (hp : [.mbox, .progress, .watchdogs] ⊆ Ps) :
    Only Ps Ks s0 (State.complete s t opcode tag status body) := by
  unfold State.complete
  repeat' first
    | with_reducible assumption | exact List.Subset.trans (by decide +kernel) hp
    | with_reducible apply only_State_progressed | with_reducible apply only_State_setMb | dsimp only | split

theorem only_State_take {Ps : List Piece} {Ks : List RegKind} {s0 : State} (s : State) (x : Slip) (hK : Only Ps Ks s0
    s) (hp : [.mbox] ⊆ Ps) : Only Ps Ks s0 (State.take s x) := by
  unfold State.take
  repeat' first | with_reducible assumption | with_reducible apply only_State_setMb

theorem only_State_answer {Ps : List Piece} {Ks : List RegKind} {s0 : State} (s : State) (x : Slip) (status : Nat)
    (body : List Byte) (hK : Only Ps Ks s0 s) (hp : [.mbox, .progress, .watchdogs] ⊆ Ps) : Only Ps Ks s0 (State.answer
    s x status body) := by
  unfold State.answer
  repeat' first
    | with_reducible assumption | exact List.Subset.trans (by decide +kernel) hp
    | with_reducible apply only_State_progressed | with_reducible apply only_State_setMb

theorem only_State_withSlip {Ps : List Piece} {Ks : List RegKind} {s0 : State} (s : State) (x : Slip) (isOp : Nat →
    Bool) (pfOnly : Bool) (named : List (Nat × Nat)) (act : State → State) (hK : Only Ps Ks s0 s) (hact : ∀ s, Only Ps
    Ks s0 s → Only Ps Ks s0 (act s)) (hp : [.mbox, .progress, .watchdogs] ⊆ Ps) : Only Ps Ks s0 (State.withSlip s x
    isOp pfOnly named act) := by
  unfold State.withSlip
  repeat' first
    | with_reducible assumption | exact List.Subset.trans (by decide +kernel) hp
    | with_reducible apply only_State_answer | with_reducible apply only_State_take | with_reducible apply hact
    | dsimp only | split

theorem only_execReservedSlipOpcode (slip : Slip) (s : State) : ∃ t, execReservedSlipOpcode slip s = .next t ∧ Only
    [.mbox, .progress, .watchdogs] [] s t := by
  refine ⟨_, rfl, ?_⟩
  repeat' first
    | with_reducible assumption | with_reducible exact Only.refl _ | decide +kernel
    | with_reducible apply only_State_answer | with_reducible apply only_State_withSlip | intro _ _

theorem only_State_badPointer {Ps : List Piece} {Ks : List RegKind} {s0 : State} (s : State) (t : Nat) (off : Nat) (hK
    : Only Ps Ks s0 s) (hp : [.flog0, .flog1, .mbox] ⊆ Ps) : Only Ps Ks s0 (State.badPointer s t off) := by
  unfold State.badPointer
  repeat' first
    | with_reducible assumption | exact List.Subset.trans (by decide +kernel) hp
    | with_reducible apply only_State_accessError | with_reducible apply only_State_setMb

theorem only_doorbell {Ps : List Piece} {Ks : List RegKind} {s0 : State} (t : Nat) (tail : Nat) (s : State) (hK : Only
    Ps Ks s0 s) (hp : [.ic, .flog0, .flog1, .mbox] ⊆ Ps) : Only Ps Ks s0 (doorbell t tail s) := by
  unfold doorbell
  repeat' first
    | with_reducible assumption | exact List.Subset.trans (by decide +kernel) hp
    | with_reducible apply only_State_badPointer | with_reducible apply only_State_icEvent
    | with_reducible apply only_State_setMb | dsimp only | split

theorem only_execDoorbell (tenant : BitVec 10) (tail : Word) (s : State) : ∃ t, execDoorbell tenant tail s = .next t ∧
    Only [.ic, .flog0, .flog1, .mbox] [] s t := by
  refine ⟨_, rfl, ?_⟩
  repeat' first | with_reducible exact Only.refl _ | decide +kernel | with_reducible apply only_doorbell | split

theorem only_cqHeadWrite {Ps : List Piece} {Ks : List RegKind} {s0 : State} (t : Nat) (head : Nat) (s : State) (hK :
    Only Ps Ks s0 s) (hp : [.flog0, .flog1, .mbox] ⊆ Ps) : Only Ps Ks s0 (cqHeadWrite t head s) := by
  unfold cqHeadWrite
  repeat' first
    | with_reducible assumption | exact List.Subset.trans (by decide +kernel) hp
    | with_reducible apply only_State_badPointer | with_reducible apply only_State_setMb | dsimp only | split

theorem only_execCqHeadWrite (tenant : BitVec 10) (head : Word) (s : State) : ∃ t, execCqHeadWrite tenant head s =
    .next t ∧ Only [.flog0, .flog1, .mbox] [] s t := by
  refine ⟨_, rfl, ?_⟩
  repeat' first | with_reducible exact Only.refl _ | decide +kernel | with_reducible apply only_cqHeadWrite | split

theorem only_execHeldNoticeWrite (tenant : BitVec 10) (s : State) : ∃ t, execHeldNoticeWrite tenant s = .next t ∧ Only
    [.mbox] [] s t := by
  refine ⟨_, rfl, ?_⟩
  repeat' first | with_reducible exact Only.refl _ | decide +kernel | with_reducible apply only_State_setMb | split

/-! ### Machine/Memory.lean -/

theorem only_State_ctr {Ps : List Piece} {Ks : List RegKind} {s0 : State} (s : State) (u : Nat) (code : Nat) (n : Nat)
    (hK : Only Ps Ks s0 s) (hk : [.ctrVal] ⊆ Ks) : Only Ps Ks s0 (State.ctr s u code n) := by
  unfold State.ctr
  repeat' first
    | with_reducible assumption | exact hk (List.elem_iff.mp rfl) | with_reducible apply only_State_setReg
    | with_reducible apply Only.fold | intro _ _ _ | split

theorem only_State_reportChannel {Ps : List Piece} {Ks : List RegKind} {s0 : State} (s : State) (n : Nat) (c : Nat)
    (hK : Only Ps Ks s0 s) (hp : [.mbox] ⊆ Ps) : Only Ps Ks s0 (State.reportChannel s n c) := by
  unfold State.reportChannel
  repeat' first
    | with_reducible assumption | with_reducible apply only_State_notify | with_reducible apply Only.fold
    | intro _ _ _ | split

theorem only_State_channelFail {Ps : List Piece} {Ks : List RegKind} {s0 : State} (s : State) (n : Nat) (c : Nat)
    (trigger : Nat) (hK : Only Ps Ks s0 s) (hp : [.fpDirty, .chanPoisoned, .ic, .flog0, .flog1, .mbox] ⊆ Ps) (hk :
    [.memStat, .memChstat] ⊆ Ks) : Only Ps Ks s0 (State.channelFail s n c trigger) := by
  unfold State.channelFail
  repeat' first
    | with_reducible assumption | exact List.Subset.trans (by decide +kernel) hp | exact hp (by decide +kernel)
    | exact hk (List.elem_iff.mp rfl) | with_reducible apply only_State_log | with_reducible apply only_State_raise
    | with_reducible apply only_State_reportChannel | with_reducible apply only_State_setBit
    | with_reducible apply only_State_setF | dsimp only | split | with_reducible apply Only.upd_chanPoisoned_fpDirty

theorem only_State_countBad {Ps : List Piece} {Ks : List RegKind} {s0 : State} (s : State) (n : Nat) (c : Nat) (sector
    : Nat) (address : Bool) (hK : Only Ps Ks s0 s) (hp : [.fpDirty, .chanPoisoned, .hbm, .ic, .flog0, .flog1, .mbox] ⊆
    Ps) (hk : [.memStat, .memChstat] ⊆ Ks) : Only Ps Ks s0 (State.countBad s n c sector address) := by
  unfold State.countBad
  repeat' first
    | with_reducible assumption | exact List.Subset.trans (by decide +kernel) hp
    | with_reducible apply only_State_channelFail | with_reducible apply only_State_setStack | dsimp only | split

theorem only_State_countOutcome {Ps : List Piece} {Ks : List RegKind} {s0 : State} (s : State) (l : Loc) (o :
    SectorOutcome) (hK : Only Ps Ks s0 s) (hk : [.bedCe, .bedUe, .bedLastue, .memStat, .memChstat, .memChce, .memChue,
    .memChpoison, .ctrVal] ⊆ Ks) : Only Ps Ks s0 (State.countOutcome s l o) := by
  unfold State.countOutcome
  repeat' first
    | with_reducible assumption | exact List.Subset.trans (by decide +kernel) hk | exact hk (List.elem_iff.mp rfl)
    | with_reducible apply only_State_countF | with_reducible apply only_State_ctr
    | with_reducible apply only_State_setBit | with_reducible apply only_State_setF
    | with_reducible apply only_State_setReg | split

theorem only_State_countToward {Ps : List Piece} {Ks : List RegKind} {s0 : State} (s : State) (l : Loc) (o :
    SectorOutcome) (hK : Only Ps Ks s0 s) (hp : [.fpDirty, .chanPoisoned, .hbm, .ic, .flog0, .flog1, .mbox] ⊆ Ps) (hk
    : [.memStat, .memChstat] ⊆ Ks) : Only Ps Ks s0 (State.countToward s l o) := by
  unfold State.countToward
  repeat' first | with_reducible assumption | with_reducible apply only_State_countBad | split

theorem only_State_dataLoss {Ps : List Piece} {Ks : List RegKind} {s0 : State} (s : State) (a : Nat) (hK : Only Ps Ks
    s0 s) (hp : [.mbox] ⊆ Ps) : Only Ps Ks s0 (State.dataLoss s a) := by
  unfold State.dataLoss
  repeat' first
    | with_reducible assumption | with_reducible apply only_State_notify | with_reducible apply Only.fold
    | intro _ _ _

theorem only_State_readSector {Ps : List Piece} {Ks : List RegKind} {s0 : State} (s : State) (a : Nat) (tenant : Nat)
    (hK : Only Ps Ks s0 s) (hp : [.fpDirty, .chanPoisoned, .hbm, .ic, .flog0, .flog1, .mbox] ⊆ Ps) (hk : [.bedCe,
    .bedUe, .bedLastue, .memStat, .memChstat, .memChce, .memChue, .memChpoison, .ctrVal] ⊆ Ks) : Only Ps Ks s0
    (State.readSector s a tenant).1 := by
  unfold State.readSector
  repeat' first
    | with_reducible assumption | exact List.Subset.trans (by decide +kernel) hp
    | exact List.Subset.trans (by decide +kernel) hk | with_reducible apply only_State_countOutcome
    | with_reducible apply only_State_countToward | with_reducible apply only_State_log | dsimp only | split

theorem only_State_setChecks {Ps : List Piece} {Ks : List RegKind} {s0 : State} (s : State) (l : Loc) (a : Nat) (chk :
    Word) (hK : Only Ps Ks s0 s) (hp : [.checks] ⊆ Ps) : Only Ps Ks s0 (State.setChecks s l a chk) := by
  unfold State.setChecks
  repeat' first
    | with_reducible assumption | exact hp (by decide +kernel) | split | with_reducible apply Only.upd_checks

theorem only_State_storePoison {Ps : List Piece} {Ks : List RegKind} {s0 : State} (s : State) (l : Loc) (a : Nat) (hK
    : Only Ps Ks s0 s) (hp : [.mem, .checks] ⊆ Ps) : Only Ps Ks s0 (State.storePoison s l a) := by
  unfold State.storePoison
  repeat' first
    | with_reducible assumption | exact List.Subset.trans (by decide +kernel) hp | exact hp (by decide +kernel)
    | with_reducible apply only_State_setChecks | with_reducible apply Only.upd_mem

theorem only_State_storeRaw {Ps : List Piece} {Ks : List RegKind} {s0 : State} (s : State) (l : Loc) (a : Nat) (data :
    List Byte) (chk : Word) (hK : Only Ps Ks s0 s) (hp : [.mem, .checks] ⊆ Ps) : Only Ps Ks s0 (State.storeRaw s l a
    data chk) := by
  unfold State.storeRaw
  repeat' first
    | with_reducible assumption | exact List.Subset.trans (by decide +kernel) hp | exact hp (by decide +kernel)
    | with_reducible apply only_State_setChecks | with_reducible apply Only.upd_mem

theorem only_State_storeClean {Ps : List Piece} {Ks : List RegKind} {s0 : State} (s : State) (l : Loc) (a : Nat) (data
    : List Byte) (hK : Only Ps Ks s0 s) (hp : [.mem, .checks] ⊆ Ps) (hk : [.memInject, .memChpoison, .ctrVal] ⊆ Ks) :
    Only Ps Ks s0 (State.storeClean s l a data) := by
  unfold State.storeClean
  repeat' first
    | with_reducible assumption | exact hp (by decide +kernel) | exact List.Subset.trans (by decide +kernel) hk
    | exact hk (List.elem_iff.mp rfl) | with_reducible apply only_State_clrBit
    | with_reducible apply only_State_countF | with_reducible apply only_State_ctr
    | with_reducible apply only_State_storePoison | with_reducible apply only_State_storeRaw | dsimp only | split
    | with_reducible apply Only.upd_mem_checks

theorem only_State_mergeSector {Ps : List Piece} {Ks : List RegKind} {s0 : State} (s : State) (l : Loc) (a : Nat) (o :
    Nat) (bs : List Byte) (tenant : Nat) (hK : Only Ps Ks s0 s) (hp : [.mem, .checks, .fpDirty, .chanPoisoned, .hbm,
    .ic, .flog0, .flog1, .mbox] ⊆ Ps) (hk : [.bedCe, .bedUe, .bedLastue, .memStat, .memChstat, .memChce, .memChue,
    .memChpoison, .ctrVal] ⊆ Ks) : Only Ps Ks s0 (State.mergeSector s l a o bs tenant) := by
  unfold State.mergeSector
  repeat' first
    | with_reducible assumption | exact List.Subset.trans (by decide +kernel) hp | exact hp (by decide +kernel)
    | exact List.Subset.trans (by decide +kernel) hk | exact hk (List.elem_iff.mp rfl)
    | with_reducible apply only_State_countF | with_reducible apply only_State_countOutcome
    | with_reducible apply only_State_countToward | with_reducible apply only_State_log
    | with_reducible apply only_State_storePoison | dsimp only | split | with_reducible apply Only.upd_mem_checks

theorem only_State_readRaw {Ps : List Piece} {Ks : List RegKind} {s0 : State} (s : State) (a : Nat) (n : Nat) (tenant
    : Nat) (hK : Only Ps Ks s0 s) (hp : [.fpDirty, .chanPoisoned, .hbm, .ic, .flog0, .flog1, .mbox] ⊆ Ps) (hk :
    [.bedCe, .bedUe, .bedLastue, .memStat, .memChstat, .memChce, .memChue, .memChpoison, .ctrVal] ⊆ Ks) : Only Ps Ks
    s0 (State.readRaw s a n tenant).s := by
  unfold State.readRaw
  repeat' first
    | with_reducible assumption | with_reducible apply only_State_readSector | with_reducible apply Only.foldFst
    | intro _ _ _

theorem only_State_readMem {Ps : List Piece} {Ks : List RegKind} {s0 : State} (s : State) (a : Nat) (n : Nat) (tenant
    : Nat) (node : Nat) (hK : Only Ps Ks s0 s) (hp : [.fpDirty, .chanPoisoned, .hbm, .ic, .flog0, .flog1, .mbox] ⊆ Ps)
    (hk : [.bedCe, .bedUe, .bedLastue, .memStat, .memChstat, .memChce, .memChue, .memChpoison, .ctrVal] ⊆ Ks) : Only
    Ps Ks s0 (State.readMem s a n tenant node).s := by
  unfold State.readMem
  repeat' first
    | with_reducible assumption | exact List.Subset.trans (by decide +kernel) hp
    | with_reducible apply only_State_accessError | with_reducible apply only_State_readRaw | split

theorem only_State_writeRaw {Ps : List Piece} {Ks : List RegKind} {s0 : State} (s : State) (a : Nat) (tenant : Nat)
    (bs : List Byte) (fuel : Nat) (hK : Only Ps Ks s0 s) (hp : [.mem, .checks, .fpDirty, .chanPoisoned, .hbm, .ic,
    .flog0, .flog1, .mbox] ⊆ Ps) (hk : [.bedCe, .bedUe, .bedLastue, .memStat, .memInject, .memChstat, .memChce,
    .memChue, .memChpoison, .ctrVal] ⊆ Ks) : Only Ps Ks s0 (State.writeRaw s a tenant bs fuel) := by
  induction fuel generalizing s a tenant bs with
  | zero => exact hK
  | succ n ih =>
    unfold State.writeRaw
    repeat' first
      | with_reducible apply ih | with_reducible assumption | exact List.Subset.trans (by decide +kernel) hp
      | exact List.Subset.trans (by decide +kernel) hk | with_reducible apply only_State_mergeSector
      | with_reducible apply only_State_storeClean | dsimp only | split

theorem only_State_discard {Ps : List Piece} {Ks : List RegKind} {s0 : State} (s : State) (reason : Nat) (from_ : Nat)
    (target : Nat) (tenant : Nat) (addr : Nat) (hK : Only Ps Ks s0 s) (hp : [.ic, .flog0, .flog1] ⊆ Ps) (hk :
    [.fabStat, .fabDiscard] ⊆ Ks) : Only Ps Ks s0 (State.discard s reason from_ target tenant addr) := by
  unfold State.discard
  repeat' first
    | with_reducible assumption | exact List.Subset.trans (by decide +kernel) hp | exact hk (List.elem_iff.mp rfl)
    | with_reducible apply only_State_countF | with_reducible apply only_State_log
    | with_reducible apply only_State_raise | with_reducible apply only_State_setBit | dsimp only | split

theorem only_State_writeMem {Ps : List Piece} {Ks : List RegKind} {s0 : State} (s : State) (a : Nat) (tenant : Nat)
    (node : Nat) (bs : List Byte) (hK : Only Ps Ks s0 s) (hp : [.mem, .checks, .fpDirty, .chanPoisoned, .hbm, .ic,
    .flog0, .flog1, .mbox] ⊆ Ps) (hk : [.bedCe, .bedUe, .bedLastue, .memStat, .memInject, .memChstat, .memChce,
    .memChue, .memChpoison, .fabStat, .fabDiscard, .ctrVal] ⊆ Ks) : Only Ps Ks s0 (State.writeMem s a tenant node
    bs).1 := by
  unfold State.writeMem
  repeat' first
    | with_reducible assumption | exact List.Subset.trans (by decide +kernel) hp
    | exact List.Subset.trans (by decide +kernel) hk | with_reducible apply only_State_accessError
    | with_reducible apply only_State_discard | with_reducible apply only_State_writeRaw | split

/-! ### Machine/Links.lean -/

theorem only_State_sendFrame {Ps : List Piece} {Ks : List RegKind} {s0 : State} (s : State) (p : Nat) (nack : Bool)
    (msgs : List Msg) (hK : Only Ps Ks s0 s) (hp : [.out, .ports] ⊆ Ps) (hk : [.ctrVal] ⊆ Ks) : Only Ps Ks s0
    (State.sendFrame s p nack msgs) := by
  unfold State.sendFrame
  repeat' first
    | with_reducible assumption | exact List.Subset.trans (by decide +kernel) hp | with_reducible apply only_State_ctr
    | with_reducible apply only_State_emit | with_reducible apply only_State_setSpan

theorem only_State_pump {Ps : List Piece} {Ks : List RegKind} {s0 : State} (s : State) (p : Nat) (fuel : Nat) (hK :
    Only Ps Ks s0 s) (hp : [.out, .ports] ⊆ Ps) (hk : [.ctrVal] ⊆ Ks) : Only Ps Ks s0 (State.pump s p fuel) := by
  induction fuel generalizing s p with
  | zero => exact hK
  | succ n ih =>
    unfold State.pump
    repeat' first
      | with_reducible apply ih | with_reducible assumption | exact List.Subset.trans (by decide +kernel) hp
      | with_reducible apply only_State_sendFrame | with_reducible apply only_State_setSpan | dsimp only | split

theorem only_State_sendControl {Ps : List Piece} {Ks : List RegKind} {s0 : State} (s : State) (p : Nat) (nack : Bool)
    (hK : Only Ps Ks s0 s) (hp : [.out, .ports] ⊆ Ps) (hk : [.ctrVal] ⊆ Ks) : Only Ps Ks s0 (State.sendControl s p
    nack) := by
  unfold State.sendControl
  repeat' first | with_reducible assumption | with_reducible apply only_State_sendFrame | split

theorem only_State_sendOut {Ps : List Piece} {Ks : List RegKind} {s0 : State} (s : State) (die : Nat) (m : Msg) (hK :
    Only Ps Ks s0 s) (hp : [.out, .ports] ⊆ Ps) (hk : [.ctrVal] ⊆ Ks) : Only Ps Ks s0 (State.sendOut s die m).1 := by
  unfold State.sendOut
  repeat' first
    | with_reducible assumption | exact List.Subset.trans (by decide +kernel) hp
    | with_reducible apply only_State_pump | with_reducible apply only_State_setSpan | dsimp only | split

/-! ### Machine/Segments.lean -/

theorem only_State_opRead {Ps : List Piece} {Ks : List RegKind} {s0 : State} (s : State) (k : Nat) (t : Nat) (p :
    Place) (n : Nat) (hK : Only Ps Ks s0 s) (hp : [.fpDirty, .chanPoisoned, .hbm, .ic, .flog0, .flog1, .mbox] ⊆ Ps)
    (hk : [.bedCe, .bedUe, .bedLastue, .memStat, .memChstat, .memChce, .memChue, .memChpoison, .ctrVal] ⊆ Ks) : Only
    Ps Ks s0 (State.opRead s k t p n).s := by
  unfold State.opRead
  repeat' first
    | with_reducible assumption | exact List.Subset.trans (by decide +kernel) hk | with_reducible apply only_State_ctr
    | with_reducible apply only_State_readMem | dsimp only | split

theorem only_State_weightRead {Ps : List Piece} {Ks : List RegKind} {s0 : State} (s : State) (k t : Nat) (p : Place)
    (n : Nat) (hK : Only Ps Ks s0 s) (hp : [.fpDirty, .chanPoisoned, .hbm, .ic, .flog0, .flog1, .mbox] ⊆ Ps) (hk :
    [.bedCe, .bedUe, .bedLastue, .memStat, .memChstat, .memChce, .memChue, .memChpoison, .ctrVal] ⊆ Ks) : Only Ps Ks
    s0 (s.weightRead k t p n).s := by
  unfold State.weightRead
  split
  · split
    · exact only_State_opRead _ _ _ _ _ hK hp hk
    · generalize hr : List.foldl _ _ _ = r
      have h1 : Only Ps Ks s0 r.s := by
        rw [← hr]
        refine Only.foldRead _ _ _ hK fun x a hx => ?_
        split
        · exact hx
        · exact only_State_readMem _ _ _ _ _ hx
            (List.Subset.trans (by decide +kernel) hp) (List.Subset.trans (by decide +kernel) hk)
      exact h1
  · exact only_State_opRead _ _ _ _ _ hK hp hk

theorem only_State_opWrite {Ps : List Piece} {Ks : List RegKind} {s0 : State} (s : State) (k : Nat) (t : Nat) (p :
    Place) (bs : List Byte) (hK : Only Ps Ks s0 s) (hp : [.mem, .checks, .stores, .fpDirty, .chanPoisoned, .hbm, .ic,
    .flog0, .flog1, .mbox] ⊆ Ps) (hk : [.bedCe, .bedUe, .bedLastue, .memStat, .memInject, .memChstat, .memChce,
    .memChue, .memChpoison, .fabStat, .fabDiscard, .ctrVal] ⊆ Ks) : Only Ps Ks s0 (State.opWrite s k t p bs).1 := by
  unfold State.opWrite
  repeat' first
    | with_reducible assumption | exact List.Subset.trans (by decide +kernel) hp | exact hp (by decide +kernel)
    | exact List.Subset.trans (by decide +kernel) hk | with_reducible apply only_State_ctr
    | with_reducible apply only_State_writeMem | dsimp only | split | with_reducible apply Only.upd_stores

theorem only_State_fillUndefined {Ps : List Piece} {Ks : List RegKind} {s0 : State} (s : State) (k : Nat) (t : Nat) (p
    : Place) (r : Rows) (hK : Only Ps Ks s0 s) (hp : [.freeCtr, .mem, .checks, .stores, .fpDirty, .chanPoisoned, .hbm,
    .ic, .flog0, .flog1, .mbox] ⊆ Ps) (hk : [.bedCe, .bedUe, .bedLastue, .memStat, .memInject, .memChstat, .memChce,
    .memChue, .memChpoison, .fabStat, .fabDiscard, .ctrVal] ⊆ Ks) : Only Ps Ks s0 (State.fillUndefined s k t p r) :=
    by
  unfold State.fillUndefined
  repeat' first
    | with_reducible assumption | exact List.Subset.trans (by decide +kernel) hp
    | with_reducible apply only_State_bumpFree | with_reducible apply only_State_opWrite
    | with_reducible apply Only.fold | intro _ _ _

end Sys2Proof.Machine
end

