-- ==== Sys2Proof/Laws/Events.lean ====
section
/-! SUPPORT. The fault log and the interrupt controller: what reading a slot or a source gives after each operation. -/

namespace Sys2Proof.Machine

/-! ### Entries by key -/

theorem find_insertKey_same {α : Type} (k : Nat) (v : α) (m : List (Nat × α)) :
    (insertKey k v m).find? (fun y => decide (y.1 = k)) = some (k, v) := by
  induction m with
  | nil => simp [insertKey]
  | cons x m ih =>
    obtain ⟨a, b⟩ := x
    unfold insertKey
    split
    · simp
    · split
      · simp
      · rename_i h1 h2
        simp [show ¬ a = k from fun h => h2 h.symm, ih]

theorem find_insertKey_ne {α : Type} (k : Nat) (v : α) (m : List (Nat × α)) (j : Nat) (h : j ≠ k) :
    (insertKey k v m).find? (fun y => decide (y.1 = j)) = m.find? (fun y => decide (y.1 = j)) := by
  induction m with
  | nil => simp [insertKey, Ne.symm h]
  | cons x m ih =>
    obtain ⟨a, b⟩ := x
    unfold insertKey
    split
    · simp [Ne.symm h]
    · split
      · rename_i h2
        subst h2
        simp [Ne.symm h]
      · simp only [List.find?_cons, ih]

/-! ### Sources -/

@[simp] theorem IC.src_setSrc (c : IC) (n : Nat) (v : Src) (m : Nat) :
    (c.setSrc n v).src m = if m = n then v else c.src m := look_put srcDefault c.srcs n v m

@[simp] theorem IC.src_reoffer (c : IC) (m : Nat) : c.reoffer.src m = c.src m := rfl
@[simp] theorem IC.lost_reoffer (c : IC) : c.reoffer.lost = c.lost := rfl
@[simp] theorem IC.tgtEn_reoffer (c : IC) : c.reoffer.tgtEn = c.tgtEn := rfl
@[simp] theorem IC.stack_reoffer (c : IC) (t : Nat) : c.reoffer.stack t = c.stack t := rfl
@[simp] theorem IC.lost_setSrc (c : IC) (n : Nat) (v : Src) : (c.setSrc n v).lost = c.lost := rfl
@[simp] theorem IC.tgtEn_setSrc (c : IC) (n : Nat) (v : Src) : (c.setSrc n v).tgtEn = c.tgtEn := rfl
@[simp] theorem IC.stack_setSrc (c : IC) (n : Nat) (v : Src) (t : Nat) : (c.setSrc n v).stack t = c.stack t := rfl
@[simp] theorem IC.src_setStack (c : IC) (t : Nat) (l : List Claimed) (m : Nat) : (c.setStack t l).src m = c.src m := rfl
@[simp] theorem IC.lost_setStack (c : IC) (t : Nat) (l : List Claimed) : (c.setStack t l).lost = c.lost := rfl
@[simp] theorem IC.stack_setStack (c : IC) (t : Nat) (l : List Claimed) (u : Nat) :
    (c.setStack t l).stack u = if u = t then l else c.stack u := look_put (fun _ => []) c.running t l u

@[simp] theorem IC.src_addLost (c : IC) (n m : Nat) : (c.addLost n).src m = c.src m := rfl
@[simp] theorem IC.lost_addLost (c : IC) (n : Nat) : (c.addLost n).lost = min 0xFFFFFFFF (c.lost + n) := rfl

/-- A change of named sources reaches exactly those (R371's registers). -/
theorem IC.src_fold (n w : Nat) (f : Src → Src) (k : Nat) (c : IC) (m : Nat) :
    ((List.range k).foldl (fun c i => if nbit w i then c.setSrc (32 * n + i) (f (c.src (32 * n + i))) else c) c).src m =
      if 32 * n ≤ m ∧ m < 32 * n + k ∧ nbit w (m - 32 * n) = true then f (c.src m) else c.src m := by
  induction k generalizing c with
  | zero =>
    rw [if_neg (fun h => absurd h.2.1 (by omega))]
    rfl
  | succ k ih =>
    rw [List.range_succ, List.foldl_append, List.foldl_cons, List.foldl_nil]
    by_cases hb : nbit w k = true
    · rw [if_pos hb, IC.src_setSrc]
      by_cases hm : m = 32 * n + k
      · subst hm
        rw [if_pos rfl, ih]
        simp [hb]
      · rw [if_neg hm, ih]
        congr 1
        apply propext
        constructor
        · rintro ⟨a, b, d⟩; exact ⟨a, by omega, d⟩
        · rintro ⟨a, b, d⟩; exact ⟨a, by omega, d⟩
    · rw [if_neg hb, ih]
      congr 1
      apply propext
      constructor
      · rintro ⟨a, b, d⟩; exact ⟨a, by omega, d⟩
      · rintro ⟨a, b, d⟩
        refine ⟨a, ?_, d⟩
        by_contra hc
        have : m - 32 * n = k := by omega
        exact hb (this ▸ d)

theorem IC.src_each (c : IC) (n w : Nat) (f : Src → Src) (m : Nat) :
    (c.each n w f).src m = if m / 32 = n ∧ nbit w (m % 32) = true then f (c.src m) else c.src m := by
  unfold IC.each
  rw [IC.src_reoffer, IC.src_fold]
  have e : (32 * n ≤ m ∧ m < 32 * n + 32 ∧ nbit w (m - 32 * n) = true) ↔ (m / 32 = n ∧ nbit w (m % 32) = true) := by
    constructor
    · rintro ⟨a, b, d⟩
      have h1 : m / 32 = n := by omega
      have h2 : m - 32 * n = m % 32 := by omega
      exact ⟨h1, h2 ▸ d⟩
    · rintro ⟨a, d⟩
      have h2 : m - 32 * n = m % 32 := by omega
      exact ⟨by omega, by omega, h2 ▸ d⟩
  simp only [e]

/-- R371: a claim. -/
theorem IC.ack_some (c : IC) (t n : Nat) (h : c.offer? t = some n) :
    (c.ack t).2 = 2 ^ 31 + n ∧ (c.ack t).1.lost = c.lost ∧
      (c.ack t).1.stack t = ⟨n, c.group n⟩ :: c.stack t ∧
      ∀ m, (c.ack t).1.src m = if m = n then { c.src n with mode := .active t } else c.src m := by
  have a : c.ack t = (let c1 := (c.setSrc n { c.src n with mode := .active t }).setStack t (⟨n, c.group n⟩ :: c.stack t)
      ({ c1 with offers := removeKey t c1.offers, lastClaim := t }.reoffer, 2 ^ 31 + n)) := by
    unfold IC.ack
    rw [h]
  rw [a]
  refine ⟨rfl, rfl, ?_, fun m => ?_⟩
  · exact look_put_same (fun _ => []) c.running t (⟨n, c.group n⟩ :: c.stack t)
  · exact look_put srcDefault c.srcs n { c.src n with mode := .active t } m

theorem IC.ack_none (c : IC) (t : Nat) (h : c.offer? t = none) : c.ack t = (c, 0) := by
  unfold IC.ack
  rw [h]

/-- R371: the end of an interrupt that is active on the target. -/
theorem IC.eoi_active (c : IC) (t n : Nat) (h : (c.src n).mode = .active t) :
    (c.eoi t n).2 = true ∧ (c.eoi t n).1.lost = c.lost ∧
      (c.eoi t n).1.stack t = (c.stack t).filter (fun a => a.source ≠ n) ∧
      ∀ m, (c.eoi t n).1.src m = if m = n then { c.src n with mode := .idle } else c.src m := by
  have a : c.eoi t n = (((c.setSrc n { c.src n with mode := .idle }).setStack t
      ((c.stack t).filter fun a => a.source ≠ n)).reoffer, true) := by
    unfold IC.eoi
    rw [if_pos h]
  rw [a]
  refine ⟨rfl, rfl, ?_, fun m => ?_⟩
  · exact look_put_same (fun _ => []) c.running t ((c.stack t).filter fun a => a.source ≠ n)
  · exact look_put srcDefault c.srcs n { c.src n with mode := .idle } m

/-! ### Offers -/

theorem mem_insertKey {α : Type} (k : Nat) (v : α) (m : List (Nat × α)) (x : Nat × α) (h : x ∈ insertKey k v m) :
    x = (k, v) ∨ x ∈ m := by
  induction m with
  | nil => simpa [insertKey] using h
  | cons y m ih =>
    obtain ⟨a, b⟩ := y
    unfold insertKey at h
    split at h
    · simpa using h
    · split at h
      · rcases List.mem_cons.1 h with h | h
        · exact .inl h
        · exact .inr (List.mem_cons_of_mem _ h)
      · rcases List.mem_cons.1 h with h | h
        · exact .inr (h ▸ List.mem_cons_self ..)
        · exact (ih h).imp id (List.mem_cons_of_mem _)

theorem mem_insertBy {α : Type} (key : α → Nat) (x : α) (l : List α) (y : α) (h : y ∈ insertBy key x l) : y = x ∨ y ∈ l := by
  induction l with
  | nil => simpa [insertBy] using h
  | cons a l ih =>
    unfold insertBy at h
    split at h
    · simpa using h
    · rcases List.mem_cons.1 h with h | h
      · exact .inr (h ▸ List.mem_cons_self ..)
      · exact (ih h).imp id (List.mem_cons_of_mem _)

theorem mem_sortBy {α : Type} (key : α → Nat) (l : List α) (y : α) (h : y ∈ sortBy key l) : y ∈ l := by
  induction l with
  | nil => exact h
  | cons a l ih =>
    rcases mem_insertBy key a (sortBy key l) y h with h | h
    · exact h ▸ List.mem_cons_self ..
    · exact List.mem_cons_of_mem _ (ih h)

/-- Placing a source adds an offer of that source only. -/
theorem IC.mem_place (c : IC) (o : SMap Nat) (n : Nat) (x : Nat × Nat) (h : x ∈ c.place o n) : x.2 = n ∨ x ∈ o := by
  unfold IC.place at h
  have k : ∀ t, x ∈ insertKey t n o → x.2 = n ∨ x ∈ o := fun t h => (mem_insertKey t n o x h).imp (fun e => by rw [e]) id
  dsimp only at h
  split at h
  · split at h
    · exact k _ h
    · split at h
      · exact k _ h
      · exact .inr h
  · split at h
    · exact k _ h
    · exact .inr h

theorem IC.mem_reoffer (c : IC) (x : Nat × Nat) (h : x ∈ c.reoffer.offers) : x.2 ∈ c.candidates := by
  have go : ∀ (l : List Nat) (o : SMap Nat), (∀ y ∈ o, y.2 ∈ c.candidates) → (∀ n ∈ l, n ∈ c.candidates) →
      ∀ y ∈ l.foldl c.place o, y.2 ∈ c.candidates := by
    intro l
    induction l with
    | nil => exact fun o ho _ => ho
    | cons n l ih =>
      intro o ho hl
      refine ih _ (fun y hy => ?_) fun m hm => hl m (List.mem_cons_of_mem _ hm)
      rcases c.mem_place o n y hy with e | e
      · exact e ▸ hl n (List.mem_cons_self ..)
      · exact ho y e
  exact go _ [] (fun _ h => absurd h List.not_mem_nil) (fun _ h => h) x h

/-- R365, R370: what is offered is pending and unmasked. -/
theorem IC.offered (c : IC) (x : Nat × Nat) (h : x ∈ c.reoffer.offers) :
    (c.src x.2).mode = .pending ∧ (c.src x.2).masked = false := by
  have k := (List.mem_filter.1 (mem_sortBy _ _ _ (c.mem_reoffer x h))).2
  simpa using k

end Sys2Proof.Machine
end

