-- ==== Sys2Proof/Laws/KeepsUnits.lean ====
section
/-! SUPPORT. Every operation over registers, events, the timebase, mailboxes, memory, links and segments keeps the
relation of Keeps; every command of those files answers a next state that keeps it. -/

namespace Sys2Proof.Machine

/-! ### Machine/Regs.lean -/

theorem keeps_State_setF {s0 : State} (s : State) (r : Reg) (lo : Nat) (w : Nat) (x : Nat) (hK : Keeps s0 s) : Keeps
    s0 (State.setF s r lo w x) := by
  unfold State.setF
  repeat' first | with_reducible assumption | with_reducible apply keeps_State_setReg

theorem keeps_State_setBit {s0 : State} (s : State) (r : Reg) (b : Nat) (hK : Keeps s0 s) : Keeps s0 (State.setBit s r
    b) := by
  unfold State.setBit
  repeat' first | with_reducible assumption | with_reducible apply keeps_State_setF

theorem keeps_State_clrBit {s0 : State} (s : State) (r : Reg) (b : Nat) (hK : Keeps s0 s) : Keeps s0 (State.clrBit s r
    b) := by
  unfold State.clrBit
  repeat' first | with_reducible assumption | with_reducible apply keeps_State_setF

theorem keeps_State_countF {s0 : State} (s : State) (r : Reg) (lo : Nat) (w : Nat) (n : Nat) (hK : Keeps s0 s) : Keeps
    s0 (State.countF s r lo w n) := by
  unfold State.countF
  repeat' first | with_reducible assumption | with_reducible apply keeps_State_setF

theorem keeps_State_plainWrite {s0 : State} (s : State) (r : Reg) (w : DWord) (hK : Keeps s0 s) : Keeps s0
    (State.plainWrite s r w) := by
  unfold State.plainWrite
  repeat' first | with_reducible assumption | with_reducible apply keeps_State_setReg

theorem keeps_State_setBwF {s0 : State} (s : State) (o : Nat) (lo : Nat) (w : Nat) (x : Nat) (hK : Keeps s0 s) : Keeps
    s0 (State.setBwF s o lo w x) := by
  unfold State.setBwF
  repeat' first | with_reducible assumption | with_reducible apply keeps_State_setBw

theorem keeps_State_setCoreUnit {s0 : State} (s : State) (k : Nat) (c : CoreUnit) (hK : Keeps s0 s) : Keeps s0
    (State.setCoreUnit s k c) := by
  unfold State.setCoreUnit
  repeat' first | with_reducible assumption | with_reducible apply Keeps.other

theorem keeps_State_setBed {s0 : State} (s : State) (k : Nat) (b : Bed) (hK : Keeps s0 s) : Keeps s0 (State.setBed s k
    b) := by
  unfold State.setBed
  repeat' first | with_reducible assumption | with_reducible apply Keeps.other

theorem keeps_State_setStack {s0 : State} (s : State) (n : Nat) (x : Stack) (hK : Keeps s0 s) : Keeps s0
    (State.setStack s n x) := by
  unfold State.setStack
  repeat' first | with_reducible assumption | with_reducible apply Keeps.other

theorem keeps_State_setDom {s0 : State} (s : State) (d : Nat) (x : Domain) (hK : Keeps s0 s) : Keeps s0 (State.setDom
    s d x) := by
  unfold State.setDom
  repeat' first | with_reducible assumption | with_reducible apply Keeps.other

theorem keeps_State_setTherm {s0 : State} (s : State) (t : Nat) (x : Thermal) (hK : Keeps s0 s) : Keeps s0
    (State.setTherm s t x) := by
  unfold State.setTherm
  repeat' first | with_reducible assumption | with_reducible apply Keeps.other

theorem keeps_State_setSpan {s0 : State} (s : State) (p : Nat) (x : Span) (hK : Keeps s0 s) : Keeps s0 (State.setSpan
    s p x) := by
  unfold State.setSpan
  repeat' first | with_reducible assumption | with_reducible apply Keeps.other

theorem keeps_State_setGuest {s0 : State} (s : State) (g : Nat) (x : Guest) (hK : Keeps s0 s) : Keeps s0
    (State.setGuest s g x) := by
  unfold State.setGuest
  repeat' first | with_reducible assumption | with_reducible apply Keeps.other

theorem keeps_State_setMb {s0 : State} (s : State) (t : Nat) (x : Mailbox) (hK : Keeps s0 s) : Keeps s0 (State.setMb s
    t x) := by
  unfold State.setMb
  repeat' first | with_reducible assumption | with_reducible apply Keeps.other

theorem keeps_State_setEngine {s0 : State} (s : State) (e : Nat) (x : Engine) (hK : Keeps s0 s) : Keeps s0
    (State.setEngine s e x) := by
  unfold State.setEngine
  repeat' first | with_reducible assumption | with_reducible apply Keeps.other

theorem keeps_State_setLease {s0 : State} (s : State) (n : Nat) (x : Lease) (hK : Keeps s0 s) : Keeps s0
    (State.setLease s n x) := by
  unfold State.setLease
  repeat' first | with_reducible assumption | with_reducible apply Keeps.other

theorem keeps_State_setList {s0 : State} (s : State) (l : WorkList) (hK : Keeps s0 s) : Keeps s0 (State.setList s l)
    := by
  unfold State.setList
  repeat' first | with_reducible assumption | with_reducible apply Keeps.other

theorem keeps_State_setOp {s0 : State} (s : State) (id : Nat) (o : Op) (hK : Keeps s0 s) : Keeps s0 (State.setOp s id
    o) := by
  unfold State.setOp
  repeat' first | with_reducible assumption | with_reducible apply keeps_State_setList | split

theorem keeps_State_emit {s0 : State} (s : State) (o : Output) (hK : Keeps s0 s) : Keeps s0 (State.emit s o) := by
  unfold State.emit
  repeat' first | with_reducible assumption | with_reducible apply Keeps.other

theorem keeps_State_bumpFree {s0 : State} (s : State) (hK : Keeps s0 s) : Keeps s0 (State.bumpFree s) := by
  unfold State.bumpFree
  repeat' first | with_reducible assumption | with_reducible apply Keeps.other

/-! ### Machine/Events.lean -/

theorem keeps_State_logEntry {s0 : State} (s : State) (e : FlogBody) (hK : Keeps s0 s) : Keeps s0 (State.logEntry s e)
    := by
  unfold State.logEntry
  repeat' first | with_reducible assumption | with_reducible apply Keeps.other

theorem keeps_State_log {s0 : State} (s : State) (code : Nat) (sev : Nat) (die : Nat) (node : Nat) (tenant : Nat) (d0
    : Nat) (d1 : Nat) (hK : Keeps s0 s) : Keeps s0 (State.log s code sev die node tenant d0 d1) := by
  unfold State.log
  repeat' first | with_reducible assumption | with_reducible apply keeps_State_logEntry

theorem keeps_State_accessError {s0 : State} (s : State) (kind : Nat) (node : Nat) (tenant : Nat) (addr : Nat) (hK :
    Keeps s0 s) : Keeps s0 (State.accessError s kind node tenant addr) := by
  unfold State.accessError
  repeat' first | with_reducible assumption | with_reducible apply keeps_State_log

theorem keeps_execFaultLogEntry (e : FlogBody) (s : State) : ∃ t, execFaultLogEntry e s = .next t ∧ Keeps s t := by
  refine ⟨_, rfl, ?_⟩
  repeat' first | with_reducible exact Keeps.refl _ | with_reducible apply keeps_State_logEntry

theorem keeps_flogClear {s0 : State} (x : Nat) (s : State) (hK : Keeps s0 s) : Keeps s0 (flogClear x s) := by
  unfold flogClear
  repeat' first | with_reducible assumption | split | with_reducible apply Keeps.other

theorem keeps_execFlogCtlClear (x : Fin 2) (s : State) : ∃ t, execFlogCtlClear x s = .next t ∧ Keeps s t := by
  refine ⟨_, rfl, ?_⟩
  repeat' first | with_reducible exact Keeps.refl _ | with_reducible apply keeps_flogClear

theorem keeps_execI3cIndexWrite (x : Fin 2) (index : BitVec 16) (s : State) : ∃ t, execI3cIndexWrite x index s = .next
    t ∧ Keeps s t := by
  refine ⟨_, rfl, ?_⟩
  repeat' first | with_reducible exact Keeps.refl _ | dsimp only | split | with_reducible apply Keeps.other

theorem keeps_execI3cRead (x : Fin 2) (s : State) : ∃ t, execI3cRead x s = .next t ∧ Keeps s t := by
  refine ⟨_, rfl, ?_⟩
  repeat' first | with_reducible exact Keeps.refl _ | with_reducible apply keeps_State_emit

theorem keeps_State_icEvent {s0 : State} (s : State) (n : Nat) (hK : Keeps s0 s) : Keeps s0 (State.icEvent s n) := by
  unfold State.icEvent
  repeat' first | with_reducible assumption | split | with_reducible apply Keeps.other

theorem keeps_State_raise {s0 : State} (s : State) (n : Nat) (hK : Keeps s0 s) : Keeps s0 (State.raise s n) := by
  unfold State.raise
  repeat' first
    | with_reducible assumption | with_reducible apply keeps_State_icEvent | dsimp only | split
    | with_reducible apply Keeps.other

theorem keeps_asyncLatch {s0 : State} (n : Nat) (s : State) (hK : Keeps s0 s) : Keeps s0 (asyncLatch n s) := by
  unfold asyncLatch
  repeat' first
    | with_reducible assumption | with_reducible apply keeps_State_icEvent | dsimp only | split
    | with_reducible apply Keeps.other

theorem keeps_execEvent (source : BitVec 11) (s : State) : ∃ t, execEvent source s = .next t ∧ Keeps s t := by
  refine ⟨_, rfl, ?_⟩
  repeat' first | with_reducible exact Keeps.refl _ | with_reducible apply keeps_State_icEvent | split

theorem keeps_execIcPendSet (n : Fin 64) (value : Word) (s : State) : ∃ t, execIcPendSet n value s = .next t ∧ Keeps s
    t := by
  refine ⟨_, rfl, ?_⟩
  repeat' first | with_reducible exact Keeps.refl _ | with_reducible apply Keeps.other

theorem keeps_execIcPendClr (n : Fin 64) (value : Word) (s : State) : ∃ t, execIcPendClr n value s = .next t ∧ Keeps s
    t := by
  refine ⟨_, rfl, ?_⟩
  repeat' first | with_reducible exact Keeps.refl _ | with_reducible apply Keeps.other

theorem keeps_execIcMaskSet (n : Fin 64) (value : Word) (s : State) : ∃ t, execIcMaskSet n value s = .next t ∧ Keeps s
    t := by
  refine ⟨_, rfl, ?_⟩
  repeat' first | with_reducible exact Keeps.refl _ | with_reducible apply Keeps.other

theorem keeps_execIcMaskClr (n : Fin 64) (value : Word) (s : State) : ∃ t, execIcMaskClr n value s = .next t ∧ Keeps s
    t := by
  refine ⟨_, rfl, ?_⟩
  repeat' first | with_reducible exact Keeps.refl _ | with_reducible apply Keeps.other

theorem keeps_execIcTgtEnSet (value : Word) (s : State) : ∃ t, execIcTgtEnSet value s = .next t ∧ Keeps s t := by
  refine ⟨_, rfl, ?_⟩
  repeat' first | with_reducible exact Keeps.refl _ | with_reducible apply Keeps.other

theorem keeps_execIcTgtEnClr (value : Word) (s : State) : ∃ t, execIcTgtEnClr value s = .next t ∧ Keeps s t := by
  refine ⟨_, rfl, ?_⟩
  repeat' first | with_reducible exact Keeps.refl _ | with_reducible apply Keeps.other

theorem keeps_icAckStep {s0 : State} (t : Nat) (s : State) (hK : Keeps s0 s) : Keeps s0 (icAckStep t s) := by
  unfold icAckStep
  repeat' first | with_reducible assumption | with_reducible apply keeps_State_emit | with_reducible apply Keeps.other

theorem keeps_execIcAck (target : Fin 8) (s : State) : ∃ t, execIcAck target s = .next t ∧ Keeps s t := by
  refine ⟨_, rfl, ?_⟩
  repeat' first | with_reducible exact Keeps.refl _ | with_reducible apply keeps_icAckStep

theorem keeps_icEoiStep {s0 : State} (t : Nat) (n : Nat) (s : State) (hK : Keeps s0 s) : Keeps s0 (icEoiStep t n s) :=
    by
  unfold icEoiStep
  repeat' first
    | with_reducible assumption | with_reducible apply keeps_State_accessError | dsimp only | split
    | with_reducible apply Keeps.other

theorem keeps_execIcEoi (target : Fin 8) (value : Word) (s : State) : ∃ t, execIcEoi target value s = .next t ∧ Keeps
    s t := by
  refine ⟨_, rfl, ?_⟩
  repeat' first | with_reducible exact Keeps.refl _ | with_reducible apply keeps_icEoiStep

theorem keeps_execAsyncLatchSend (source : BitVec 11) (s : State) : ∃ t, execAsyncLatchSend source s = .next t ∧ Keeps
    s t := by
  refine ⟨_, rfl, ?_⟩
  repeat' first | with_reducible exact Keeps.refl _ | with_reducible apply keeps_asyncLatch

theorem keeps_State_setFatal {s0 : State} (s : State) (b : Nat) (hK : Keeps s0 s) : Keeps s0 (State.setFatal s b) :=
    by
  unfold State.setFatal
  repeat' first
    | with_reducible assumption | with_reducible apply keeps_State_setMb | dsimp only | split
    | with_reducible apply Keeps.other

theorem keeps_execFatalVector (s : State) : ∃ t, execFatalVector s = .next t ∧ Keeps s t := by
  refine ⟨_, rfl, ?_⟩
  repeat' first
    | with_reducible exact Keeps.refl _ | with_reducible apply keeps_State_setMb
    | with_reducible apply keeps_State_emit | split

theorem keeps_execVector0 (tenant : BitVec 10) (s : State) : ∃ t, execVector0 tenant s = .next t ∧ Keeps s t := by
  refine ⟨_, rfl, ?_⟩
  repeat' first
    | with_reducible exact Keeps.refl _ | with_reducible apply keeps_State_setMb
    | with_reducible apply keeps_State_emit | split

theorem keeps_execControlSramUncorrectable (standby : Bool) (offset : BitVec 32) (s : State) : ∃ t,
    execControlSramUncorrectable standby offset s = .next t ∧ Keeps s t := by
  refine ⟨_, rfl, ?_⟩
  repeat' first
    | with_reducible exact Keeps.refl _ | with_reducible apply keeps_State_log
    | with_reducible apply keeps_State_setFatal

/-! ### Machine/Timebase.lean -/

theorem keeps_tbTick {s0 : State} (s : State) (hK : Keeps s0 s) : Keeps s0 (tbTick s) := by
  unfold tbTick
  repeat' first | with_reducible assumption | dsimp only | split | with_reducible apply Keeps.other

theorem keeps_execTimebaseFirstLock (s : State) : ∃ t, execTimebaseFirstLock s = .next t ∧ Keeps s t := by
  refine ⟨_, rfl, ?_⟩
  repeat' first | with_reducible exact Keeps.refl _ | dsimp only | split | with_reducible apply Keeps.other

theorem keeps_execTimerefLoss (s : State) : ∃ t, execTimerefLoss s = .next t ∧ Keeps s t := by
  refine ⟨_, rfl, ?_⟩
  repeat' first
    | with_reducible exact Keeps.refl _ | with_reducible apply keeps_State_log
    | with_reducible apply keeps_State_raise | dsimp only | split | with_reducible apply Keeps.other

theorem keeps_execTimerefRelock (s : State) : ∃ t, execTimerefRelock s = .next t ∧ Keeps s t := by
  refine ⟨_, rfl, ?_⟩
  repeat' first | with_reducible exact Keeps.refl _ | dsimp only | split | with_reducible apply Keeps.other

theorem keeps_syncLoad {s0 : State} (s : State) (hK : Keeps s0 s) : Keeps s0 (syncLoad s) := by
  unfold syncLoad
  repeat' first
    | with_reducible assumption | with_reducible apply keeps_State_log | dsimp only | with_reducible apply Keeps.other

theorem keeps_execSyncLoad (s : State) : ∃ t, execSyncLoad s = .next t ∧ Keeps s t := by
  refine ⟨_, rfl, ?_⟩
  repeat' first
    | with_reducible exact Keeps.refl _ | with_reducible apply keeps_syncLoad | dsimp only | split
    | with_reducible apply Keeps.other

theorem keeps_execArm (s : State) : ∃ t, execArm s = .next t ∧ Keeps s t := by
  refine ⟨_, rfl, ?_⟩
  repeat' first | with_reducible exact Keeps.refl _ | dsimp only | with_reducible apply Keeps.other

theorem keeps_execDisarm (s : State) : ∃ t, execDisarm s = .next t ∧ Keeps s t := by
  refine ⟨_, rfl, ?_⟩
  repeat' first | with_reducible exact Keeps.refl _ | dsimp only | with_reducible apply Keeps.other

/-! ### Machine/Mailbox.lean -/

theorem keeps_State_notify {s0 : State} (s : State) (t : Nat) (kind : Nat) (tag : Nat) (subject : Nat) (detail : List
    Byte) (hK : Keeps s0 s) : Keeps s0 (State.notify s t kind tag subject detail) := by
  unfold State.notify
  repeat' first | with_reducible assumption | with_reducible apply keeps_State_setMb | dsimp only | split

theorem keeps_State_notifyAll {s0 : State} (s : State) (kind : Nat) (tag : Nat) (subject : Nat) (detail : List Byte)
    (hK : Keeps s0 s) : Keeps s0 (State.notifyAll s kind tag subject detail) := by
  unfold State.notifyAll
  repeat' first
    | with_reducible assumption | with_reducible apply keeps_State_notify | with_reducible apply Keeps.fold
    | intro _ _ _

theorem keeps_State_progressed {s0 : State} (s : State) (t : Nat) (hK : Keeps s0 s) : Keeps s0 (State.progressed s t)
    := by
  unfold State.progressed
  repeat' first | with_reducible assumption | with_reducible apply Keeps.other

theorem keeps_State_complete {s0 : State} (s : State) (t : Nat) (opcode : Nat) (tag : Nat) (status : Nat) (body : List
    Byte) (hK : Keeps s0 s) : Keeps s0 (State.complete s t opcode tag status body) := by
  unfold State.complete
  repeat' first
    | with_reducible assumption | with_reducible apply keeps_State_setMb | with_reducible apply keeps_State_progressed
    | dsimp only | split

theorem keeps_State_take {s0 : State} (s : State) (x : Slip) (hK : Keeps s0 s) : Keeps s0 (State.take s x) := by
  unfold State.take
  repeat' first | with_reducible assumption | with_reducible apply keeps_State_setMb

theorem keeps_State_answer {s0 : State} (s : State) (x : Slip) (status : Nat) (body : List Byte) (hK : Keeps s0 s) :
    Keeps s0 (State.answer s x status body) := by
  unfold State.answer
  repeat' first
    | with_reducible assumption | with_reducible apply keeps_State_setMb | with_reducible apply keeps_State_progressed

theorem keeps_State_withSlip {s0 : State} (s : State) (x : Slip) (isOp : Nat → Bool) (pfOnly : Bool) (named : List
    (Nat × Nat)) (act : State → State) (hK : Keeps s0 s) (hact : ∀ s, Keeps s0 s → Keeps s0 (act s)) : Keeps s0
    (State.withSlip s x isOp pfOnly named act) := by
  unfold State.withSlip
  repeat' first
    | with_reducible assumption | with_reducible apply keeps_State_take | with_reducible apply keeps_State_answer
    | with_reducible apply hact | dsimp only | split

theorem keeps_execReservedSlipOpcode (slip : Slip) (s : State) : ∃ t, execReservedSlipOpcode slip s = .next t ∧ Keeps
    s t := by
  refine ⟨_, rfl, ?_⟩
  repeat' first
    | with_reducible assumption | with_reducible exact Keeps.refl _ | with_reducible apply keeps_State_answer
    | with_reducible apply keeps_State_withSlip | intro _ _

theorem keeps_State_badPointer {s0 : State} (s : State) (t : Nat) (off : Nat) (hK : Keeps s0 s) : Keeps s0
    (State.badPointer s t off) := by
  unfold State.badPointer
  repeat' first
    | with_reducible assumption | with_reducible apply keeps_State_setMb
    | with_reducible apply keeps_State_accessError

theorem keeps_doorbell {s0 : State} (t : Nat) (tail : Nat) (s : State) (hK : Keeps s0 s) : Keeps s0 (doorbell t tail
    s) := by
  unfold doorbell
  repeat' first
    | with_reducible assumption | with_reducible apply keeps_State_setMb | with_reducible apply keeps_State_icEvent
    | with_reducible apply keeps_State_badPointer | dsimp only | split

theorem keeps_execDoorbell (tenant : BitVec 10) (tail : Word) (s : State) : ∃ t, execDoorbell tenant tail s = .next t
    ∧ Keeps s t := by
  refine ⟨_, rfl, ?_⟩
  repeat' first | with_reducible exact Keeps.refl _ | with_reducible apply keeps_doorbell | split

theorem keeps_cqHeadWrite {s0 : State} (t : Nat) (head : Nat) (s : State) (hK : Keeps s0 s) : Keeps s0 (cqHeadWrite t
    head s) := by
  unfold cqHeadWrite
  repeat' first
    | with_reducible assumption | with_reducible apply keeps_State_setMb | with_reducible apply keeps_State_badPointer
    | dsimp only | split

theorem keeps_execCqHeadWrite (tenant : BitVec 10) (head : Word) (s : State) : ∃ t, execCqHeadWrite tenant head s =
    .next t ∧ Keeps s t := by
  refine ⟨_, rfl, ?_⟩
  repeat' first | with_reducible exact Keeps.refl _ | with_reducible apply keeps_cqHeadWrite | split

theorem keeps_execHeldNoticeWrite (tenant : BitVec 10) (s : State) : ∃ t, execHeldNoticeWrite tenant s = .next t ∧
    Keeps s t := by
  refine ⟨_, rfl, ?_⟩
  repeat' first | with_reducible exact Keeps.refl _ | with_reducible apply keeps_State_setMb | split

/-! ### Machine/Memory.lean -/

theorem keeps_State_ctr {s0 : State} (s : State) (u : Nat) (code : Nat) (n : Nat) (hK : Keeps s0 s) : Keeps s0
    (State.ctr s u code n) := by
  unfold State.ctr
  repeat' first
    | with_reducible assumption | with_reducible apply keeps_State_setReg | with_reducible apply Keeps.fold
    | intro _ _ _ | split

theorem keeps_State_reportChannel {s0 : State} (s : State) (n : Nat) (c : Nat) (hK : Keeps s0 s) : Keeps s0
    (State.reportChannel s n c) := by
  unfold State.reportChannel
  repeat' first
    | with_reducible assumption | with_reducible apply keeps_State_notify | with_reducible apply Keeps.fold
    | intro _ _ _ | split

theorem keeps_State_channelFail {s0 : State} (s : State) (n : Nat) (c : Nat) (trigger : Nat) (hK : Keeps s0 s) : Keeps
    s0 (State.channelFail s n c trigger) := by
  unfold State.channelFail
  repeat' first
    | with_reducible assumption | with_reducible apply keeps_State_setF | with_reducible apply keeps_State_setBit
    | with_reducible apply keeps_State_log | with_reducible apply keeps_State_raise
    | with_reducible apply keeps_State_reportChannel | dsimp only | split | with_reducible apply Keeps.other

theorem keeps_State_countBad {s0 : State} (s : State) (n : Nat) (c : Nat) (sector : Nat) (address : Bool) (hK : Keeps
    s0 s) : Keeps s0 (State.countBad s n c sector address) := by
  unfold State.countBad
  repeat' first
    | with_reducible assumption | with_reducible apply keeps_State_setStack
    | with_reducible apply keeps_State_channelFail | dsimp only | split

theorem keeps_State_countOutcome {s0 : State} (s : State) (l : Loc) (o : SectorOutcome) (hK : Keeps s0 s) : Keeps s0
    (State.countOutcome s l o) := by
  unfold State.countOutcome
  repeat' first
    | with_reducible assumption | with_reducible apply keeps_State_setReg | with_reducible apply keeps_State_setF
    | with_reducible apply keeps_State_setBit | with_reducible apply keeps_State_countF
    | with_reducible apply keeps_State_ctr | split

theorem keeps_State_countToward {s0 : State} (s : State) (l : Loc) (o : SectorOutcome) (hK : Keeps s0 s) : Keeps s0
    (State.countToward s l o) := by
  unfold State.countToward
  repeat' first | with_reducible assumption | with_reducible apply keeps_State_countBad | split

theorem keeps_State_dataLoss {s0 : State} (s : State) (a : Nat) (hK : Keeps s0 s) : Keeps s0 (State.dataLoss s a) :=
    by
  unfold State.dataLoss
  repeat' first
    | with_reducible assumption | with_reducible apply keeps_State_notify | with_reducible apply Keeps.fold
    | intro _ _ _

theorem keeps_State_readSector {s0 : State} (s : State) (a : Nat) (tenant : Nat) (hK : Keeps s0 s) : Keeps s0
    (State.readSector s a tenant).1 := by
  unfold State.readSector
  repeat' first
    | with_reducible assumption | with_reducible apply keeps_State_log | with_reducible apply keeps_State_countOutcome
    | with_reducible apply keeps_State_countToward | dsimp only | split

theorem keeps_State_setChecks {s0 : State} (s : State) (l : Loc) (a : Nat) (chk : Word) (hK : Keeps s0 s) : Keeps s0
    (State.setChecks s l a chk) := by
  unfold State.setChecks
  repeat' first | with_reducible assumption | split | with_reducible apply Keeps.other

theorem keeps_State_storePoison {s0 : State} (s : State) (l : Loc) (a : Nat) (hK : Keeps s0 s) : Keeps s0
    (State.storePoison s l a) := by
  unfold State.storePoison
  repeat' first
    | with_reducible assumption | with_reducible apply keeps_State_setChecks | with_reducible apply Keeps.memory
    | exact id | exact zeroRange_wf _ _ _

theorem keeps_State_storeRaw {s0 : State} (s : State) (l : Loc) (a : Nat) (data : List Byte) (chk : Word) (hK : Keeps
    s0 s) : Keeps s0 (State.storeRaw s l a data chk) := by
  unfold State.storeRaw
  repeat' first
    | with_reducible assumption | with_reducible apply keeps_State_setChecks | with_reducible apply Keeps.memory
    | exact id | exact wrBytes_wf _ _ _

theorem keeps_State_storeClean {s0 : State} (s : State) (l : Loc) (a : Nat) (data : List Byte) (hK : Keeps s0 s) :
    Keeps s0 (State.storeClean s l a data) := by
  unfold State.storeClean
  repeat' first
    | with_reducible assumption | with_reducible apply keeps_State_clrBit | with_reducible apply keeps_State_countF
    | with_reducible apply keeps_State_ctr | with_reducible apply keeps_State_storePoison
    | with_reducible apply keeps_State_storeRaw | dsimp only | split | with_reducible apply Keeps.memory | exact id
    | exact wrBytes_wf _ _ _

theorem keeps_State_mergeSector {s0 : State} (s : State) (l : Loc) (a : Nat) (o : Nat) (bs : List Byte) (tenant : Nat)
    (hK : Keeps s0 s) : Keeps s0 (State.mergeSector s l a o bs tenant) := by
  unfold State.mergeSector
  repeat' first
    | with_reducible assumption | with_reducible apply keeps_State_countF | with_reducible apply keeps_State_log
    | with_reducible apply keeps_State_countOutcome | with_reducible apply keeps_State_countToward
    | with_reducible apply keeps_State_storePoison | dsimp only | split | with_reducible apply Keeps.memory | exact id
    | exact wrBytes_wf _ _ _

theorem keeps_State_readRaw {s0 : State} (s : State) (a : Nat) (n : Nat) (tenant : Nat) (hK : Keeps s0 s) : Keeps s0
    (State.readRaw s a n tenant).s := by
  unfold State.readRaw
  repeat' first
    | with_reducible assumption | with_reducible apply keeps_State_readSector | with_reducible apply Keeps.foldFst
    | intro _ _ _

theorem keeps_State_readMem {s0 : State} (s : State) (a : Nat) (n : Nat) (tenant : Nat) (node : Nat) (hK : Keeps s0 s)
    : Keeps s0 (State.readMem s a n tenant node).s := by
  unfold State.readMem
  repeat' first
    | with_reducible assumption | with_reducible apply keeps_State_accessError
    | with_reducible apply keeps_State_readRaw | split

theorem keeps_State_writeRaw {s0 : State} (s : State) (a tenant : Nat) (bs : List Byte) (fuel : Nat) (h : Keeps s0 s) :
    Keeps s0 (s.writeRaw a tenant bs fuel) := by
  induction fuel generalizing s a bs with
  | zero => exact h
  | succ n ih =>
    unfold State.writeRaw
    split
    · exact h
    · dsimp only
      apply ih
      split
      · exact keeps_State_storeClean _ _ _ _ h
      · exact keeps_State_mergeSector _ _ _ _ _ _ h

theorem keeps_State_discard {s0 : State} (s : State) (reason : Nat) (from_ : Nat) (target : Nat) (tenant : Nat) (addr
    : Nat) (hK : Keeps s0 s) : Keeps s0 (State.discard s reason from_ target tenant addr) := by
  unfold State.discard
  repeat' first
    | with_reducible assumption | with_reducible apply keeps_State_setBit | with_reducible apply keeps_State_countF
    | with_reducible apply keeps_State_log | with_reducible apply keeps_State_raise | dsimp only | split

theorem keeps_State_writeMem {s0 : State} (s : State) (a : Nat) (tenant : Nat) (node : Nat) (bs : List Byte) (hK :
    Keeps s0 s) : Keeps s0 (State.writeMem s a tenant node bs).1 := by
  unfold State.writeMem
  repeat' first
    | with_reducible assumption | with_reducible apply keeps_State_accessError
    | with_reducible apply keeps_State_writeRaw | with_reducible apply keeps_State_discard | split

/-! ### Machine/Links.lean -/

theorem keeps_State_sendFrame {s0 : State} (s : State) (p : Nat) (nack : Bool) (msgs : List Msg) (hK : Keeps s0 s) :
    Keeps s0 (State.sendFrame s p nack msgs) := by
  unfold State.sendFrame
  repeat' first
    | with_reducible assumption | with_reducible apply keeps_State_setSpan | with_reducible apply keeps_State_emit
    | with_reducible apply keeps_State_ctr

theorem keeps_State_pump {s0 : State} (s : State) (p : Nat) (fuel : Nat) (h : Keeps s0 s) : Keeps s0 (s.pump p fuel) := by
  induction fuel generalizing s with
  | zero => exact h
  | succ n ih =>
    unfold State.pump
    split
    · dsimp only
      split
      · exact h
      · exact ih _ (keeps_State_sendFrame _ _ _ _ (keeps_State_setSpan _ _ _ h))
    · exact h

theorem keeps_State_sendControl {s0 : State} (s : State) (p : Nat) (nack : Bool) (hK : Keeps s0 s) : Keeps s0
    (State.sendControl s p nack) := by
  unfold State.sendControl
  repeat' first | with_reducible assumption | with_reducible apply keeps_State_sendFrame | split

theorem keeps_State_sendOut {s0 : State} (s : State) (die : Nat) (m : Msg) (hK : Keeps s0 s) : Keeps s0 (State.sendOut
    s die m).1 := by
  unfold State.sendOut
  repeat' first
    | with_reducible assumption | with_reducible apply keeps_State_setSpan | with_reducible apply keeps_State_pump
    | dsimp only | split

/-! ### Machine/Segments.lean -/

theorem keeps_State_opRead {s0 : State} (s : State) (k : Nat) (t : Nat) (p : Place) (n : Nat) (hK : Keeps s0 s) :
    Keeps s0 (State.opRead s k t p n).s := by
  unfold State.opRead
  repeat' first
    | with_reducible assumption | with_reducible apply keeps_State_ctr | with_reducible apply keeps_State_readMem
    | dsimp only | split

theorem keeps_State_weightRead {s0 : State} (s : State) (k t : Nat) (p : Place) (n : Nat) (h : Keeps s0 s) :
    Keeps s0 (s.weightRead k t p n).s := by
  unfold State.weightRead
  split
  · split
    · exact keeps_State_opRead _ _ _ _ _ h
    · generalize hr : List.foldl _ _ _ = r
      have h1 : Keeps s0 r.s := by
        rw [← hr]
        refine Keeps.foldRead _ _ _ h fun x a hx => ?_
        split
        · exact hx
        · exact keeps_State_readMem _ _ _ _ _ hx
      exact h1
  · exact keeps_State_opRead _ _ _ _ _ h

theorem keeps_State_opWrite {s0 : State} (s : State) (k : Nat) (t : Nat) (p : Place) (bs : List Byte) (hK : Keeps s0
    s) : Keeps s0 (State.opWrite s k t p bs).1 := by
  unfold State.opWrite
  repeat' first
    | with_reducible assumption | with_reducible apply keeps_State_ctr | with_reducible apply keeps_State_writeMem
    | dsimp only | split | with_reducible apply Keeps.memory | exact id | exact wrBytes_wf _ _ _

theorem keeps_State_fillUndefined {s0 : State} (s : State) (k : Nat) (t : Nat) (p : Place) (r : Rows) (hK : Keeps s0
    s) : Keeps s0 (State.fillUndefined s k t p r) := by
  unfold State.fillUndefined
  repeat' first
    | with_reducible assumption | with_reducible apply keeps_State_bumpFree | with_reducible apply keeps_State_opWrite
    | with_reducible apply Keeps.fold | intro _ _ _

end Sys2Proof.Machine
end

