-- ==== Sys2Proof/Laws/KeepsLists.lean ====
section
/-! SUPPORT. The same for work lists, spans, transfers, loss, power, heat, the floor plan, slips and the staging
queue. -/

namespace Sys2Proof.Machine

/-! ### Machine/Lists.lean -/

theorem keeps_State_fetchOp {s0 : State} (s : State) (l : WorkList) (early : Option (List Byte)) (hK : Keeps s0 s) :
    Keeps s0 (State.fetchOp s l early).s := by
  unfold State.fetchOp
  repeat' first | with_reducible assumption | with_reducible apply keeps_State_readMem | dsimp only | split

theorem keeps_State_startOp {s0 : State} (s : State) (id : Nat) (off : Nat) (hK : Keeps s0 s) : Keeps s0
    (State.startOp s id off) := by
  unfold State.startOp
  repeat' first | with_reducible assumption | with_reducible apply keeps_State_setOp | dsimp only | split

theorem keeps_State_finishOp {s0 : State} (s : State) (id : Nat) (off : Nat) (status : Nat) (detail : Nat) (hK : Keeps
    s0 s) : Keeps s0 (State.finishOp s id off status detail) := by
  unfold State.finishOp
  repeat' first | with_reducible assumption | with_reducible apply keeps_State_setList | dsimp only | split

theorem keeps_State_addSteps {s0 : State} (s : State) (id : Nat) (off : Nat) (steps : Nat) (aux : Nat) (hK : Keeps s0
    s) : Keeps s0 (State.addSteps s id off steps aux) := by
  unfold State.addSteps
  repeat' first | with_reducible assumption | with_reducible apply keeps_State_setOp | split

theorem keeps_State_writeRecord {s0 : State} (s : State) (l : WorkList) (o : Op) (bs : List Byte) (hK : Keeps s0 s) :
    Keeps s0 (State.writeRecord s l o bs) := by
  unfold State.writeRecord
  repeat' first | with_reducible assumption | with_reducible apply keeps_State_opWrite | split

theorem keeps_State_issueOp {s0 : State} (s : State) (id : Nat) (early : Option (List Byte)) (opc : Nat) (rules :
    State → WorkList → Op → OpErr) (run : State → WorkList → Op → State) (hK : Keeps s0 s) (hrun : ∀ s a0 a1, Keeps s0
    s → Keeps s0 (run s a0 a1)) : Keeps s0 (State.issueOp s id early opc rules run) := by
  unfold State.issueOp
  repeat' first
    | with_reducible assumption | with_reducible apply keeps_State_setList | with_reducible apply keeps_State_ctr
    | with_reducible apply keeps_State_fetchOp | with_reducible apply keeps_State_finishOp
    | with_reducible apply keeps_State_writeRecord | with_reducible apply hrun | dsimp only | split
    | with_reducible apply Keeps.other

theorem keeps_State_govern {s0 : State} (s : State) (t : Nat) (hK : Keeps s0 s) : Keeps s0 (State.govern s t) := by
  unfold State.govern
  repeat' first | with_reducible assumption | with_reducible apply keeps_State_setF | dsimp only | split

theorem keeps_State_completeList {s0 : State} (s : State) (l : WorkList) (hK : Keeps s0 s) : Keeps s0
    (State.completeList s l) := by
  unfold State.completeList
  repeat' first
    | with_reducible assumption | with_reducible apply keeps_State_setTherm
    | with_reducible apply keeps_State_complete | with_reducible apply keeps_State_govern
    | with_reducible apply Keeps.fold | intro _ _ _ | dsimp only | split | with_reducible apply Keeps.other

theorem keeps_State_settleList {s0 : State} (s : State) (id : Nat) (ended : Bool) (hK : Keeps s0 s) : Keeps s0
    (State.settleList s id ended) := by
  unfold State.settleList
  repeat' first
    | with_reducible assumption | with_reducible apply keeps_State_setList
    | with_reducible apply keeps_State_completeList | dsimp only | split

theorem keeps_State_atomicMem {s0 : State} (s : State) (a : Nat) (tenant : Nat) (node : Nat) (v : Nat) (hK : Keeps s0
    s) : Keeps s0 (State.atomicMem s a tenant node v).1 := by
  unfold State.atomicMem
  repeat' first
    | with_reducible assumption | with_reducible apply keeps_State_readMem | with_reducible apply keeps_State_writeMem
    | dsimp only | split

theorem keeps_State_listEvent {s0 : State} (s : State) (l : WorkList) (off : Nat) (hK : Keeps s0 s) : Keeps s0
    (State.listEvent s l off) := by
  unfold State.listEvent
  repeat' first
    | with_reducible assumption | with_reducible apply keeps_State_raise | with_reducible apply keeps_State_notify

theorem keeps_State_request {s0 : State} (s : State) (node : Nat) (addr : Nat) (tenant : Nat) (op : Option (Nat ×
    Nat)) (hK : Keeps s0 s) : Keeps s0 (State.request s node addr tenant op).1 := by
  unfold State.request
  repeat' first | with_reducible assumption | dsimp only | with_reducible apply Keeps.other

theorem keeps_State_fireSignal {s0 : State} (s : State) (l : WorkList) (o : Op) (hK : Keeps s0 s) : Keeps s0
    (State.fireSignal s l o) := by
  unfold State.fireSignal
  repeat' first
    | with_reducible assumption | with_reducible apply keeps_State_sendOut | with_reducible apply keeps_State_startOp
    | with_reducible apply keeps_State_finishOp | with_reducible apply keeps_State_atomicMem
    | with_reducible apply keeps_State_listEvent | with_reducible apply keeps_State_request | dsimp only | split
    | with_reducible apply Keeps.other

theorem keeps_State_advance {s0 : State} (s : State) (id : Nat) (hK : Keeps s0 s) : Keeps s0 (State.advance s id) :=
    by
  unfold State.advance
  repeat' first
    | with_reducible assumption | with_reducible apply keeps_State_startOp | with_reducible apply keeps_State_finishOp
    | with_reducible apply keeps_State_fireSignal | split

theorem keeps_operationComplete {s0 : State} (id : Nat) (off : Nat) (s : State) (hK : Keeps s0 s) : Keeps s0
    (operationComplete id off s) := by
  unfold operationComplete
  repeat' first
    | with_reducible assumption | with_reducible apply keeps_State_countF | with_reducible apply keeps_State_setList
    | with_reducible apply keeps_State_progressed | with_reducible apply keeps_State_writeRecord
    | with_reducible apply keeps_State_settleList | with_reducible apply keeps_State_listEvent
    | with_reducible apply keeps_State_advance | dsimp only | split

theorem keeps_execFence (list : Nat) (early : Option (List Byte)) (s : State) : ∃ t, execFence list early s = .next t
    ∧ Keeps s t := by
  refine ⟨_, rfl, ?_⟩
  repeat' first
    | with_reducible assumption | with_reducible exact Keeps.refl _ | with_reducible apply keeps_State_issueOp
    | with_reducible apply keeps_State_advance | intro _ _ _ _

theorem keeps_execSignal (list : Nat) (early : Option (List Byte)) (s : State) : ∃ t, execSignal list early s = .next
    t ∧ Keeps s t := by
  refine ⟨_, rfl, ?_⟩
  repeat' first
    | with_reducible assumption | with_reducible exact Keeps.refl _ | with_reducible apply keeps_State_issueOp
    | with_reducible apply keeps_State_advance | intro _ _ _ _

theorem keeps_State_pollWait {s0 : State} (s : State) (l : WorkList) (o : Op) (hK : Keeps s0 s) : Keeps s0
    (State.pollWait s l o) := by
  unfold State.pollWait
  repeat' first
    | with_reducible assumption | with_reducible apply keeps_State_setOp | with_reducible apply keeps_State_readMem
    | with_reducible apply keeps_State_finishOp | dsimp only | split

theorem keeps_execWait (list : Nat) (early : Option (List Byte)) (s : State) : ∃ t, execWait list early s = .next t ∧
    Keeps s t := by
  refine ⟨_, rfl, ?_⟩
  repeat' first
    | with_reducible assumption | with_reducible exact Keeps.refl _ | with_reducible apply keeps_State_startOp
    | with_reducible apply keeps_State_issueOp | with_reducible apply keeps_State_pollWait | intro _ _ _ _

theorem keeps_execWaitPoll (list : Nat) (s : State) : ∃ t, execWaitPoll list s = .next t ∧ Keeps s t := by
  refine ⟨_, rfl, ?_⟩
  repeat' first | with_reducible exact Keeps.refl _ | with_reducible apply keeps_State_pollWait | split

theorem keeps_execWaitTimeout (list : Nat) (s : State) : ∃ t, execWaitTimeout list s = .next t ∧ Keeps s t := by
  refine ⟨_, rfl, ?_⟩
  repeat' first | with_reducible exact Keeps.refl _ | with_reducible apply keeps_State_finishOp | split

theorem keeps_execLaunchAt (list : Nat) (early : Option (List Byte)) (s : State) : ∃ t, execLaunchAt list early s =
    .next t ∧ Keeps s t := by
  refine ⟨_, rfl, ?_⟩
  repeat' first
    | with_reducible assumption | with_reducible exact Keeps.refl _ | with_reducible apply keeps_State_setOp
    | with_reducible apply keeps_State_startOp | with_reducible apply keeps_State_finishOp
    | with_reducible apply keeps_State_issueOp | intro _ _ _ _ | dsimp only | split

theorem keeps_execLaunchAtRelease (list : Nat) (s : State) : ∃ t, execLaunchAtRelease list s = .next t ∧ Keeps s t :=
    by
  refine ⟨_, rfl, ?_⟩
  repeat' first | with_reducible exact Keeps.refl _ | with_reducible apply keeps_State_finishOp | split

theorem keeps_execEndOp (list : Nat) (early : Option (List Byte)) (s : State) : ∃ t, execEndOp list early s = .next t
    ∧ Keeps s t := by
  refine ⟨_, rfl, ?_⟩
  repeat' first
    | with_reducible assumption | with_reducible exact Keeps.refl _ | with_reducible apply keeps_State_issueOp
    | with_reducible apply keeps_State_advance | intro _ _ _ _

theorem keeps_execBankFence (list : Nat) (early : Option (List Byte)) (s : State) : ∃ t, execBankFence list early s =
    .next t ∧ Keeps s t := by
  refine ⟨_, rfl, ?_⟩
  repeat' first
    | with_reducible assumption | with_reducible exact Keeps.refl _ | with_reducible apply keeps_State_startOp
    | with_reducible apply keeps_State_finishOp | with_reducible apply keeps_State_issueOp | intro _ _ _ _

theorem keeps_State_dropQueued {s0 : State} (s : State) (l : WorkList) (hK : Keeps s0 s) : Keeps s0 (State.dropQueued
    s l) := by
  unfold State.dropQueued
  repeat' first | with_reducible assumption | dsimp only | with_reducible apply Keeps.other

theorem keeps_State_preempt {s0 : State} (s : State) (id : Nat) (hK : Keeps s0 s) : Keeps s0 (State.preempt s id) :=
    by
  unfold State.preempt
  repeat' first
    | with_reducible assumption | with_reducible apply keeps_State_setList
    | with_reducible apply keeps_State_dropQueued | split

theorem keeps_execPreemptionRequest (list : Nat) (s : State) : ∃ t, execPreemptionRequest list s = .next t ∧ Keeps s t
    := by
  refine ⟨_, rfl, ?_⟩
  repeat' first | with_reducible exact Keeps.refl _ | with_reducible apply keeps_State_preempt

theorem keeps_State_dropOp {s0 : State} (s : State) (id : Nat) (off : Nat) (hK : Keeps s0 s) : Keeps s0 (State.dropOp
    s id off) := by
  unfold State.dropOp
  repeat' first | with_reducible assumption | dsimp only | with_reducible apply Keeps.other

theorem keeps_tileBoundaryStop {s0 : State} (id : Nat) (off : Nat) (s : State) (hK : Keeps s0 s) : Keeps s0
    (tileBoundaryStop id off s) := by
  unfold tileBoundaryStop
  repeat' first
    | with_reducible assumption | with_reducible apply keeps_State_setOp | with_reducible apply keeps_State_settleList
    | with_reducible apply keeps_State_dropOp | dsimp only | split

theorem keeps_State_setQsImage {s0 : State} (s : State) (k : Nat) (bs : List Byte) (hK : Keeps s0 s) : Keeps s0
    (State.setQsImage s k bs) := by
  unfold State.setQsImage
  repeat' first
    | with_reducible assumption | with_reducible apply keeps_State_setReg | with_reducible apply Keeps.fold
    | intro _ _ _

theorem keeps_State_writeResume {s0 : State} (s : State) (l : WorkList) (off : Nat) (bs : List Byte) (hK : Keeps s0 s)
    : Keeps s0 (State.writeResume s l off bs) := by
  unfold State.writeResume
  repeat' first | with_reducible assumption | with_reducible apply keeps_State_opWrite | split

theorem keeps_State_onDev {s0 : State} (s : State) (p : Option Place) (f : Nat → State) (h : Keeps s0 s)
    (hf : ∀ a, Keeps s0 (f a)) : Keeps s0 (s.onDev p f) := by
  unfold State.onDev
  split
  · exact hf _
  · exact h

theorem imageInto_wf (base : Nat) (img m : Memory) (h : Memory.wf m = true) : Memory.wf (imageInto base img m) = true := by
  unfold imageInto
  induction img generalizing m with
  | nil => exact h
  | cons b img ih => exact ih _ (wrB_wf _ _ _ h)

theorem keeps_State_saveImage {s0 : State} (s : State) (l : WorkList) (c : Nat) (h : Keeps s0 s) :
    Keeps s0 (s.saveImage l c) :=
  keeps_State_onDev _ _ _ h fun _ => Keeps.memory h (fun w => imageInto_wf _ _ _ (zeroRange_wf _ _ _ w)) id id

theorem keeps_State_loadImage {s0 : State} (s : State) (l : WorkList) (c : Nat) (h : Keeps s0 s) :
    Keeps s0 (s.loadImage l c) :=
  keeps_State_onDev _ _ _ h fun _ => Keeps.memory h id (fun w => imageInto_wf _ _ _ (zeroRange_wf _ _ _ w)) id

theorem keeps_resumeRecordWrite {s0 : State} (id : Nat) (s : State) (hK : Keeps s0 s) : Keeps s0 (resumeRecordWrite id
    s) := by
  unfold resumeRecordWrite
  repeat' first
    | with_reducible assumption | with_reducible apply keeps_State_setTherm | with_reducible apply keeps_State_setList
    | with_reducible apply keeps_State_govern | with_reducible apply keeps_State_writeResume
    | with_reducible apply keeps_State_saveImage | with_reducible apply Keeps.fold | intro _ _ _ | dsimp only | split

theorem keeps_execResumeRecordWrite (list : Nat) (s : State) : ∃ t, execResumeRecordWrite list s = .next t ∧ Keeps s t
    := by
  refine ⟨_, rfl, ?_⟩
  repeat' first | with_reducible exact Keeps.refl _ | with_reducible apply keeps_resumeRecordWrite

theorem keeps_resumeList {s0 : State} (id : Nat) (requeue : State → WorkList → Op → State) (s : State) (hrequeue : ∀ s
    a0 a1, Keeps s0 s → Keeps s0 (requeue s a0 a1)) (hK : Keeps s0 s) : Keeps s0 (resumeList id requeue s) := by
  unfold resumeList
  repeat' first
    | with_reducible assumption | with_reducible apply keeps_State_setList
    | with_reducible apply keeps_State_settleList | with_reducible apply keeps_State_advance
    | with_reducible apply keeps_State_setQsImage | with_reducible apply keeps_State_loadImage
    | with_reducible apply hrequeue | with_reducible apply Keeps.fold | intro _ _ _ | dsimp only | split
    | with_reducible apply Keeps.other

/-! ### Machine/Span.lean -/

theorem keeps_State_endRequest {s0 : State} (s : State) (r : Req) (st : Nat) (hK : Keeps s0 s) : Keeps s0
    (State.endRequest s r st) := by
  unfold State.endRequest
  repeat' first
    | with_reducible assumption | with_reducible apply keeps_State_finishOp
    | with_reducible apply keeps_State_listEvent | dsimp only | split | with_reducible apply Keeps.other

theorem keeps_State_lateRsp {s0 : State} (s : State) (r : Req) (hK : Keeps s0 s) : Keeps s0 (State.lateRsp s r) := by
  unfold State.lateRsp
  repeat' first
    | with_reducible assumption | with_reducible apply keeps_State_setBit | with_reducible apply keeps_State_countF
    | with_reducible apply keeps_State_log | with_reducible apply keeps_State_raise | dsimp only | split
    | with_reducible apply Keeps.other

theorem keeps_State_deliverRsp {s0 : State} (s : State) (m : Msg) (hK : Keeps s0 s) : Keeps s0 (State.deliverRsp s m)
    := by
  unfold State.deliverRsp
  repeat' first
    | with_reducible assumption | with_reducible apply keeps_State_emit | with_reducible apply keeps_State_endRequest
    | with_reducible apply keeps_State_lateRsp | split

theorem keeps_State_respond {s0 : State} (s : State) (die : Nat) (m : Msg) (hK : Keeps s0 s) : Keeps s0 (State.respond
    s die m) := by
  unfold State.respond
  repeat' first
    | with_reducible assumption | with_reducible apply keeps_State_sendOut
    | with_reducible apply keeps_State_deliverRsp | split

theorem keeps_State_answerLost {s0 : State} (s : State) (die : Nat) (node : Nat) (m : Msg) (hK : Keeps s0 s) : Keeps
    s0 (State.answerLost s die node m) := by
  unfold State.answerLost
  repeat' first | with_reducible assumption | with_reducible apply keeps_State_respond

theorem keeps_State_showLanes {s0 : State} (s : State) (p : Nat) (rx : Nat) (tx : Nat) (hK : Keeps s0 s) : Keeps s0
    (State.showLanes s p rx tx) := by
  unfold State.showLanes
  repeat' first
    | with_reducible assumption | with_reducible apply keeps_State_setReg | with_reducible apply keeps_State_setF

theorem keeps_State_blankPort {s0 : State} (s : State) (p : Nat) (state : Nat) (lane : Nat) (hK : Keeps s0 s) : Keeps
    s0 (State.blankPort s p state lane) := by
  unfold State.blankPort
  repeat' first
    | with_reducible assumption | with_reducible apply keeps_State_setReg | with_reducible apply keeps_State_setF

theorem keeps_State_logDown {s0 : State} (s : State) (p : Nat) (cause : Nat) (gone : List Msg) (hK : Keeps s0 s) :
    Keeps s0 (State.logDown s p cause gone) := by
  unfold State.logDown
  repeat' first
    | with_reducible assumption | with_reducible apply keeps_State_log | with_reducible apply Keeps.fold | intro _ _ _
    | dsimp only | split

theorem keeps_State_portDown {s0 : State} (s : State) (p : Nat) (cause : Nat) (hK : Keeps s0 s) : Keeps s0
    (State.portDown s p cause) := by
  unfold State.portDown
  repeat' first
    | with_reducible assumption | with_reducible apply keeps_State_setF | with_reducible apply keeps_State_setBit
    | with_reducible apply keeps_State_countF | with_reducible apply keeps_State_setSpan
    | with_reducible apply keeps_State_raise | with_reducible apply keeps_State_answerLost
    | with_reducible apply keeps_State_blankPort | with_reducible apply keeps_State_logDown
    | with_reducible apply Keeps.fold | intro _ _ _ | dsimp only | split | with_reducible apply Keeps.other

theorem keeps_State_showHold {s0 : State} (s : State) (p : Nat) (hK : Keeps s0 s) : Keeps s0 (State.showHold s p) :=
    by
  unfold State.showHold
  repeat' first | with_reducible assumption | with_reducible apply keeps_State_setF

theorem keeps_State_narrowRx {s0 : State} (s : State) (p : Nat) (hK : Keeps s0 s) : Keeps s0 (State.narrowRx s p) :=
    by
  unfold State.narrowRx
  repeat' first
    | with_reducible assumption | with_reducible apply keeps_State_setSpan
    | with_reducible apply keeps_State_sendControl | with_reducible apply keeps_State_showLanes
    | with_reducible apply keeps_State_portDown | with_reducible apply keeps_State_showHold | dsimp only | split
    | with_reducible apply Keeps.other

theorem keeps_laneLoss {s0 : State} (p : Nat) (lane : Nat) (s : State) (hK : Keeps s0 s) : Keeps s0 (laneLoss p lane
    s) := by
  unfold laneLoss
  repeat' first
    | with_reducible assumption | with_reducible apply keeps_State_setBit | with_reducible apply keeps_State_countF
    | with_reducible apply keeps_State_setSpan | with_reducible apply keeps_State_sendControl
    | with_reducible apply keeps_State_showLanes | with_reducible apply keeps_State_portDown
    | with_reducible apply keeps_State_showHold | with_reducible apply keeps_State_narrowRx | dsimp only | split

theorem keeps_execLaneLoss (port : Fin 24) (lane : Fin 9) (s : State) : ∃ t, execLaneLoss port lane s = .next t ∧
    Keeps s t := by
  refine ⟨_, rfl, ?_⟩
  repeat' first | with_reducible exact Keeps.refl _ | with_reducible apply keeps_laneLoss

theorem keeps_spareLaneLock {s0 : State} (p : Nat) (s : State) (hK : Keeps s0 s) : Keeps s0 (spareLaneLock p s) := by
  unfold spareLaneLock
  repeat' first
    | with_reducible assumption | with_reducible apply keeps_State_setSpan | with_reducible apply keeps_State_pump
    | with_reducible apply keeps_State_sendControl | with_reducible apply keeps_State_showLanes
    | with_reducible apply keeps_State_showHold | dsimp only | split | with_reducible apply Keeps.other

theorem keeps_execSpareLaneLock (port : Fin 24) (s : State) : ∃ t, execSpareLaneLock port s = .next t ∧ Keeps s t :=
    by
  refine ⟨_, rfl, ?_⟩
  repeat' first | with_reducible exact Keeps.refl _ | with_reducible apply keeps_spareLaneLock

theorem keeps_holdTimeout {s0 : State} (p : Nat) (s : State) (hK : Keeps s0 s) : Keeps s0 (holdTimeout p s) := by
  unfold holdTimeout
  repeat' first
    | with_reducible assumption | with_reducible apply keeps_State_portDown
    | with_reducible apply keeps_State_narrowRx | dsimp only | split

theorem keeps_execHoldTimeout (port : Fin 24) (s : State) : ∃ t, execHoldTimeout port s = .next t ∧ Keeps s t := by
  refine ⟨_, rfl, ?_⟩
  repeat' first | with_reducible exact Keeps.refl _ | with_reducible apply keeps_holdTimeout

theorem keeps_spanNoPeer {s0 : State} (p : Nat) (s : State) (hK : Keeps s0 s) : Keeps s0 (spanNoPeer p s) := by
  unfold spanNoPeer
  repeat' first
    | with_reducible assumption | with_reducible apply keeps_State_setF | with_reducible apply keeps_State_setSpan
    | with_reducible apply keeps_State_blankPort | split

theorem keeps_execSpanNoPeer (port : Fin 24) (s : State) : ∃ t, execSpanNoPeer port s = .next t ∧ Keeps s t := by
  refine ⟨_, rfl, ?_⟩
  repeat' first | with_reducible exact Keeps.refl _ | with_reducible apply keeps_spanNoPeer

theorem keeps_State_portTrained {s0 : State} (s : State) (p : Nat) (f : PortTraining) (hK : Keeps s0 s) : Keeps s0
    (State.portTrained s p f) := by
  unfold State.portTrained
  repeat' first
    | with_reducible assumption | with_reducible apply keeps_State_setF | with_reducible apply keeps_State_setSpan
    | with_reducible apply keeps_State_showLanes | with_reducible apply keeps_State_blankPort | dsimp only | split

theorem keeps_execSpanPortTrained (port : Fin 24) (f : PortTraining) (s : State) : ∃ t, execSpanPortTrained port f s =
    .next t ∧ Keeps s t := by
  refine ⟨_, rfl, ?_⟩
  repeat' first | with_reducible exact Keeps.refl _ | with_reducible apply keeps_State_portTrained | split

theorem keeps_State_retrain {s0 : State} (s : State) (p : Nat) (hK : Keeps s0 s) : Keeps s0 (State.retrain s p) := by
  unfold State.retrain
  repeat' first
    | with_reducible assumption | with_reducible apply keeps_State_setSpan | with_reducible apply keeps_State_bumpFree
    | with_reducible apply keeps_State_blankPort | with_reducible apply keeps_State_portDown | dsimp only | split

theorem keeps_execRetrain (port : Fin 24) (s : State) : ∃ t, execRetrain port s = .next t ∧ Keeps s t := by
  refine ⟨_, rfl, ?_⟩
  repeat' first | with_reducible exact Keeps.refl _ | with_reducible apply keeps_State_retrain | split

theorem keeps_spnCtlWrite {s0 : State} (p : Nat) (v : Nat) (s : State) (hK : Keeps s0 s) : Keeps s0 (spnCtlWrite p v
    s) := by
  unfold spnCtlWrite
  repeat' first
    | with_reducible assumption | with_reducible apply keeps_State_setF | with_reducible apply keeps_State_plainWrite
    | with_reducible apply keeps_State_setSpan | with_reducible apply keeps_State_blankPort
    | with_reducible apply keeps_State_portDown | with_reducible apply keeps_State_retrain | dsimp only | split

theorem keeps_execSpnCtlEnable (port : Fin 24) (value : Word) (s : State) : ∃ t, execSpnCtlEnable port value s = .next
    t ∧ Keeps s t := by
  refine ⟨_, rfl, ?_⟩
  repeat' first | with_reducible exact Keeps.refl _ | with_reducible apply keeps_spnCtlWrite | split

theorem keeps_spanRouteRemoval {s0 : State} (p : Nat) (s : State) (hK : Keeps s0 s) : Keeps s0 (spanRouteRemoval p s)
    := by
  unfold spanRouteRemoval
  repeat' first
    | with_reducible assumption | with_reducible apply keeps_State_clrBit | with_reducible apply Keeps.fold
    | intro _ _ _ | split

theorem keeps_execSpanRouteRemoval (port : Fin 24) (s : State) : ∃ t, execSpanRouteRemoval port s = .next t ∧ Keeps s
    t := by
  refine ⟨_, rfl, ?_⟩
  repeat' first | with_reducible exact Keeps.refl _ | with_reducible apply keeps_spanRouteRemoval

theorem keeps_State_replayFrames {s0 : State} (s : State) (p : Nat) (hK : Keeps s0 s) : Keeps s0 (State.replayFrames s
    p) := by
  unfold State.replayFrames
  repeat' first
    | with_reducible assumption | with_reducible apply keeps_State_setBit | with_reducible apply keeps_State_countF
    | with_reducible apply keeps_State_setSpan | with_reducible apply keeps_State_emit
    | with_reducible apply keeps_State_ctr | with_reducible apply keeps_State_portDown
    | with_reducible apply Keeps.fold | intro _ _ _ | dsimp only | split

theorem keeps_State_txRequest {s0 : State} (s : State) (p : Nat) (f : RxFrame) (hK : Keeps s0 s) : Keeps s0
    (State.txRequest s p f) := by
  unfold State.txRequest
  repeat' first
    | with_reducible assumption | with_reducible apply keeps_State_setSpan
    | with_reducible apply keeps_State_showLanes | with_reducible apply keeps_State_portDown
    | with_reducible apply keeps_State_showHold | dsimp only | split | with_reducible apply Keeps.other

theorem keeps_State_takeFrame {s0 : State} (s : State) (p : Nat) (f : RxFrame) (hK : Keeps s0 s) : Keeps s0
    (State.takeFrame s p f).1 := by
  unfold State.takeFrame
  repeat' first
    | with_reducible assumption | with_reducible apply keeps_State_countF | with_reducible apply keeps_State_setSpan
    | with_reducible apply keeps_State_ctr | with_reducible apply keeps_State_pump
    | with_reducible apply keeps_State_sendControl | with_reducible apply keeps_State_replayFrames
    | with_reducible apply keeps_State_txRequest | dsimp only | split

/-! ### Machine/Transfers.lean -/

theorem keeps_State_setSeg {s0 : State} (s : State) (t : Nat) (slot : Nat) (g : Seg) (hK : Keeps s0 s) : Keeps s0
    (State.setSeg s t slot g) := by
  unfold State.setSeg
  repeat' first | with_reducible assumption | with_reducible apply Keeps.other

theorem keeps_State_clearSeg {s0 : State} (s : State) (t : Nat) (slot : Nat) (hK : Keeps s0 s) : Keeps s0
    (State.clearSeg s t slot) := by
  unfold State.clearSeg
  repeat' first | with_reducible assumption | with_reducible apply Keeps.other

theorem keeps_State_grant {s0 : State} (s : State) (n : Nat) (owner : Nat) (hK : Keeps s0 s) : Keeps s0 (State.grant s
    n owner) := by
  unfold State.grant
  repeat' first | with_reducible assumption | with_reducible apply keeps_State_setLease

theorem keeps_State_release {s0 : State} (s : State) (n : Nat) (hK : Keeps s0 s) : Keeps s0 (State.release s n) := by
  unfold State.release
  repeat' first | with_reducible assumption | with_reducible apply keeps_State_setLease

theorem keeps_State_revokeLease {s0 : State} (s : State) (n : Nat) (hK : Keeps s0 s) : Keeps s0 (State.revokeLease s
    n) := by
  unfold State.revokeLease
  repeat' first | with_reducible assumption | with_reducible apply keeps_State_setLease

theorem keeps_State_queueZero {s0 : State} (s : State) (g : Seg) (done : Bool) (hK : Keeps s0 s) : Keeps s0
    (State.queueZero s g done) := by
  unfold State.queueZero
  repeat' first | with_reducible assumption | with_reducible apply Keeps.other

theorem keeps_State_removeShared {s0 : State} (s : State) (owner : Nat) (slot : Nat) (g : Seg) (done : Bool) (hK :
    Keeps s0 s) : Keeps s0 (State.removeShared s owner slot g done) := by
  unfold State.removeShared
  repeat' first
    | with_reducible assumption | with_reducible apply keeps_State_revokeLease
    | with_reducible apply keeps_State_queueZero | with_reducible apply Keeps.other

theorem keeps_segmentRemoval {s0 : State} (t : Nat) (slot : Nat) (s : State) (hK : Keeps s0 s) : Keeps s0
    (segmentRemoval t slot s) := by
  unfold segmentRemoval
  repeat' first
    | with_reducible assumption | with_reducible apply keeps_State_complete | dsimp only | split
    | with_reducible apply Keeps.other

theorem keeps_execSegmentRemoval (tenant : BitVec 10) (slot : Fin 16) (s : State) : ∃ t, execSegmentRemoval tenant
    slot s = .next t ∧ Keeps s t := by
  refine ⟨_, rfl, ?_⟩
  repeat' first | with_reducible exact Keeps.refl _ | with_reducible apply keeps_segmentRemoval

theorem keeps_State_zeroMem {s0 : State} (s : State) (base : Nat) (size : Nat) (hK : Keeps s0 s) : Keeps s0
    (State.zeroMem s base size) := by
  unfold State.zeroMem
  repeat' first | with_reducible assumption | with_reducible apply Keeps.memory | exact id | exact zeroRange_wf _ _ _

theorem keeps_State_installAlloc {s0 : State} (s : State) (t : Nat) (b : List Byte) (base : Nat) (hK : Keeps s0 s) :
    Keeps s0 (State.installAlloc s t b base) := by
  unfold State.installAlloc
  repeat' first
    | with_reducible assumption | with_reducible apply keeps_State_bumpFree | with_reducible apply keeps_State_setSeg

theorem keeps_State_retryAllocs {s0 : State} (s : State) (hK : Keeps s0 s) : Keeps s0 (State.retryAllocs s) := by
  unfold State.retryAllocs
  repeat' first
    | with_reducible assumption | with_reducible apply keeps_State_installAlloc
    | with_reducible apply keeps_State_complete | with_reducible apply Keeps.fold | intro _ _ _ | split

theorem keeps_zeroingStep {s0 : State} (s : State) (hK : Keeps s0 s) : Keeps s0 (zeroingStep s) := by
  unfold zeroingStep
  repeat' first
    | with_reducible assumption | with_reducible apply keeps_State_zeroMem
    | with_reducible apply keeps_State_retryAllocs | split | with_reducible apply Keeps.other

theorem keeps_execZeroing (s : State) : ∃ t, execZeroing s = .next t ∧ Keeps s t := by
  refine ⟨_, rfl, ?_⟩
  repeat' first | with_reducible exact Keeps.refl _ | with_reducible apply keeps_zeroingStep | split

theorem keeps_State_setXfer {s0 : State} (s : State) (x : Xfer) (hK : Keeps s0 s) : Keeps s0 (State.setXfer s x) := by
  unfold State.setXfer
  repeat' first | with_reducible assumption | with_reducible apply Keeps.other

theorem keeps_State_settleXfer {s0 : State} (s : State) (t : Nat) (tag : Nat) (hK : Keeps s0 s) : Keeps s0
    (State.settleXfer s t tag) := by
  unfold State.settleXfer
  repeat' first
    | with_reducible assumption | with_reducible apply keeps_State_complete | with_reducible apply Keeps.fold
    | intro _ _ _ | dsimp only | split | with_reducible apply Keeps.other

theorem keeps_State_dropJob {s0 : State} (s : State) (e : Nat) (j : Job) (revoked : Bool) (hK : Keeps s0 s) : Keeps s0
    (State.dropJob s e j revoked) := by
  unfold State.dropJob
  repeat' first
    | with_reducible assumption | with_reducible apply keeps_State_setEngine
    | with_reducible apply keeps_State_release | with_reducible apply keeps_State_revokeLease | dsimp only | split

theorem keeps_State_stopXfer {s0 : State} (s : State) (t : Nat) (tag : Nat) (status : Nat) (revoked : Bool) (hK :
    Keeps s0 s) : Keeps s0 (State.stopXfer s t tag status revoked) := by
  unfold State.stopXfer
  repeat' first
    | with_reducible assumption | with_reducible apply keeps_State_setXfer
    | with_reducible apply keeps_State_settleXfer | with_reducible apply keeps_State_dropJob
    | with_reducible apply Keeps.fold | intro _ _ _ | dsimp only | split

theorem keeps_State_jobStep {s0 : State} (s : State) (e : Nat) (j : Job) (t : Nat) (tag : Nat) (hK : Keeps s0 s) :
    Keeps s0 (State.jobStep s e j t tag) := by
  unfold State.jobStep
  repeat' first
    | with_reducible assumption | with_reducible apply keeps_State_countF | with_reducible apply keeps_State_setEngine
    | with_reducible apply keeps_State_raise | with_reducible apply keeps_State_ctr
    | with_reducible apply keeps_State_settleXfer | with_reducible apply keeps_State_dropJob | dsimp only | split

theorem keeps_transferGranule {s0 : State} (e : Nat) (hostBytes : List Byte) (pcieOk : Bool) (s : State) (hK : Keeps
    s0 s) : Keeps s0 (transferGranule e hostBytes pcieOk s) := by
  unfold transferGranule
  repeat' first
    | with_reducible assumption | with_reducible apply keeps_State_emit | with_reducible apply keeps_State_ctr
    | with_reducible apply keeps_State_readMem | with_reducible apply keeps_State_writeMem
    | with_reducible apply keeps_State_setXfer | with_reducible apply keeps_State_stopXfer
    | with_reducible apply keeps_State_jobStep | dsimp only | split

theorem keeps_execTransferGranule (engine : Fin 32) (hostBytes : List Byte) (pcieOk : Bool) (s : State) : ∃ t,
    execTransferGranule engine hostBytes pcieOk s = .next t ∧ Keeps s t := by
  refine ⟨_, rfl, ?_⟩
  repeat' first | with_reducible exact Keeps.refl _ | with_reducible apply keeps_transferGranule

theorem keeps_execPcieCompletionTimeout (engine : Fin 32) (s : State) : ∃ t, execPcieCompletionTimeout engine s =
    .next t ∧ Keeps s t := by
  refine ⟨_, rfl, ?_⟩
  repeat' first
    | with_reducible exact Keeps.refl _ | with_reducible apply keeps_State_raise
    | with_reducible apply keeps_transferGranule | split

theorem keeps_State_revokeAll {s0 : State} (s : State) (o : Nat) (standby : Bool) (reset : Bool) (hK : Keeps s0 s) :
    Keeps s0 (State.revokeAll s o standby reset) := by
  unfold State.revokeAll
  repeat' first
    | with_reducible assumption | with_reducible apply keeps_State_setLease
    | with_reducible apply keeps_State_revokeLease | with_reducible apply keeps_State_removeShared
    | with_reducible apply keeps_State_dropJob | with_reducible apply keeps_State_stopXfer
    | with_reducible apply Keeps.fold | intro _ _ _ | dsimp only | split

theorem keeps_lseRevokeWrite {s0 : State} (o : Nat) (standby : Bool) (s : State) (hK : Keeps s0 s) : Keeps s0
    (lseRevokeWrite o standby s) := by
  unfold lseRevokeWrite
  repeat' first
    | with_reducible assumption | with_reducible apply keeps_State_setReg | with_reducible apply keeps_State_setBit
    | with_reducible apply keeps_State_emit | with_reducible apply keeps_State_revokeAll
    | with_reducible apply Keeps.fold | intro _ _ _ | dsimp only | split | with_reducible apply Keeps.other

theorem keeps_execLseRevokeWrite (owner : BitVec 12) (writer : RevokeWriter) (s : State) : ∃ t, execLseRevokeWrite
    owner writer s = .next t ∧ Keeps s t := by
  refine ⟨_, rfl, ?_⟩
  repeat' first | with_reducible exact Keeps.refl _ | with_reducible apply keeps_lseRevokeWrite

theorem keeps_execLeaseRevoke (node : BitVec 8) (owner : BitVec 12) (s : State) : ∃ t, execLeaseRevoke node owner s =
    .next t ∧ Keeps s t := by
  refine ⟨_, rfl, ?_⟩
  repeat' first | with_reducible exact Keeps.refl _ | split | with_reducible apply Keeps.other

theorem keeps_execRevocationComplete (s : State) : ∃ t, execRevocationComplete s = .next t ∧ Keeps s t := by
  refine ⟨_, rfl, ?_⟩
  repeat' first
    | with_reducible exact Keeps.refl _ | with_reducible apply keeps_State_setBit
    | with_reducible apply keeps_State_clrBit | with_reducible apply keeps_State_log | split
    | with_reducible apply Keeps.other

theorem keeps_execRevocationAckTimeout (node : BitVec 8) (s : State) : ∃ t, execRevocationAckTimeout node s = .next t
    ∧ Keeps s t := by
  refine ⟨_, rfl, ?_⟩
  repeat' first
    | with_reducible assumption | with_reducible exact Keeps.refl _ | with_reducible apply keeps_State_setF
    | with_reducible apply keeps_State_log | with_reducible apply keeps_State_revokeLease
    | with_reducible apply Keeps.fold | intro _ _ _ | dsimp only | split | with_reducible apply Keeps.other

theorem keeps_quiesceNode {s0 : State} (node : Nat) (addr : Nat) (tenant : Nat) (s : State) (hK : Keeps s0 s) : Keeps
    s0 (quiesceNode node addr tenant s) := by
  unfold quiesceNode
  repeat' first | with_reducible assumption | dsimp only | split | with_reducible apply Keeps.other

theorem keeps_execQuiesce (node : BitVec 8) (addr : BitVec 48) (tenant : BitVec 10) (s : State) : ∃ t, execQuiesce
    node addr tenant s = .next t ∧ Keeps s t := by
  refine ⟨_, rfl, ?_⟩
  repeat' first | with_reducible exact Keeps.refl _ | with_reducible apply keeps_quiesceNode

/-! ### Machine/Loss.lean -/

theorem keeps_State_recomputeCaps {s0 : State} (s : State) (hK : Keeps s0 s) : Keeps s0 (State.recomputeCaps s) := by
  unfold State.recomputeCaps
  repeat' first
    | with_reducible assumption | with_reducible apply keeps_State_setF | with_reducible apply Keeps.fold
    | intro _ _ _ | dsimp only | split | with_reducible apply Keeps.other

theorem keeps_State_refreshEnv {s0 : State} (s : State) (t : Nat) (hK : Keeps s0 s) : Keeps s0 (State.refreshEnv s t)
    := by
  unfold State.refreshEnv
  repeat' first | with_reducible assumption | with_reducible apply keeps_State_setF

theorem keeps_State_markLost {s0 : State} (s : State) (die : Nat) (hK : Keeps s0 s) : Keeps s0 (State.markLost s die)
    := by
  unfold State.markLost
  repeat' first
    | with_reducible assumption | with_reducible apply keeps_State_setBit | with_reducible apply Keeps.fold
    | intro _ _ _ | split

theorem keeps_State_stackLost {s0 : State} (s : State) (n : Nat) (hK : Keeps s0 s) : Keeps s0 (State.stackLost s n) :=
    by
  unfold State.stackLost
  repeat' first
    | with_reducible assumption | with_reducible apply keeps_State_reportChannel | with_reducible apply Keeps.fold
    | intro _ _ _ | dsimp only | split | with_reducible apply Keeps.other

theorem keeps_State_coresLost {s0 : State} (s : State) (t : Nat) (hK : Keeps s0 s) : Keeps s0 (State.coresLost s t) :=
    by
  unfold State.coresLost
  repeat' first | with_reducible assumption | with_reducible apply Keeps.other

theorem keeps_State_bedsGone {s0 : State} (s : State) (t : Nat) (h : Keeps s0 s) : Keeps s0 (s.bedsGone t) :=
  Keeps.memory h (fun w => zeroRange_wf _ _ _ (zeroRange_wf _ _ _ w)) (zeroRange_wf _ _ _) id

theorem keeps_State_failIdleLists {s0 : State} (s : State) (t : Nat) (hK : Keeps s0 s) : Keeps s0 (State.failIdleLists
    s t) := by
  unfold State.failIdleLists
  repeat' first
    | with_reducible assumption | with_reducible apply keeps_State_setList
    | with_reducible apply keeps_State_settleList | with_reducible apply Keeps.fold | intro _ _ _ | dsimp only | split

theorem keeps_State_enginesLost {s0 : State} (s : State) (t : Nat) (hK : Keeps s0 s) : Keeps s0 (State.enginesLost s
    t) := by
  unfold State.enginesLost
  repeat' first
    | with_reducible assumption | with_reducible apply keeps_State_stopXfer | with_reducible apply Keeps.fold
    | intro _ _ _

theorem keeps_State_towerLoss {s0 : State} (s : State) (t : Nat) (cause : Nat) (after : DomState) (hK : Keeps s0 s) :
    Keeps s0 (State.towerLoss s t cause after) := by
  unfold State.towerLoss
  repeat' first
    | with_reducible assumption | with_reducible apply keeps_State_setF | with_reducible apply keeps_State_setDom
    | with_reducible apply keeps_State_log | with_reducible apply keeps_State_setFatal
    | with_reducible apply keeps_State_finishOp | with_reducible apply keeps_State_recomputeCaps
    | with_reducible apply keeps_State_markLost | with_reducible apply keeps_State_stackLost
    | with_reducible apply keeps_State_coresLost | with_reducible apply keeps_State_bedsGone
    | with_reducible apply keeps_State_failIdleLists | with_reducible apply keeps_State_enginesLost
    | with_reducible apply Keeps.fold | intro _ _ _ | dsimp only | split

theorem keeps_State_allOff {s0 : State} (s : State) (after : DomState) (hK : Keeps s0 s) : Keeps s0 (State.allOff s
    after) := by
  unfold State.allOff
  repeat' first
    | with_reducible assumption | with_reducible apply keeps_State_setF | with_reducible apply keeps_State_clrBit
    | with_reducible apply keeps_State_setDom | with_reducible apply keeps_State_bedsGone
    | with_reducible apply Keeps.fold | intro _ _ _ | dsimp only | split | with_reducible apply Keeps.other

theorem keeps_State_ioDieGone {s0 : State} (s : State) (x : Nat) (after : DomState) (hK : Keeps s0 s) : Keeps s0
    (State.ioDieGone s x after) := by
  unfold State.ioDieGone
  repeat' first
    | with_reducible assumption | with_reducible apply keeps_State_setDom | with_reducible apply keeps_State_setSpan
    | with_reducible apply keeps_State_blankPort | with_reducible apply keeps_State_portDown
    | with_reducible apply keeps_State_markLost | with_reducible apply keeps_State_stackLost
    | with_reducible apply keeps_State_allOff | with_reducible apply Keeps.fold | intro _ _ _ | dsimp only | split
    | with_reducible apply Keeps.other

theorem keeps_State_ioDieLoss {s0 : State} (s : State) (x : Nat) (phases : Nat) (hK : Keeps s0 s) : Keeps s0
    (State.ioDieLoss s x phases) := by
  unfold State.ioDieLoss
  repeat' first
    | with_reducible assumption | with_reducible apply keeps_State_log | with_reducible apply keeps_State_ioDieGone
    | split

/-! ### Machine/Power.lean -/

theorem keeps_State_startRamp {s0 : State} (s : State) (d : Nat) (hK : Keeps s0 s) : Keeps s0 (State.startRamp s d) :=
    by
  unfold State.startRamp
  repeat' first | with_reducible assumption | with_reducible apply keeps_State_setDom

theorem keeps_State_onReq {s0 : State} (s : State) (d : Nat) (hK : Keeps s0 s) : Keeps s0 (State.onReq s d) := by
  unfold State.onReq
  repeat' first
    | with_reducible assumption | with_reducible apply keeps_State_setBit | with_reducible apply keeps_State_setDom
    | with_reducible apply keeps_State_log | with_reducible apply keeps_State_startRamp | dsimp only | split

theorem keeps_State_domOff {s0 : State} (s : State) (d : Nat) (hK : Keeps s0 s) : Keeps s0 (State.domOff s d) := by
  unfold State.domOff
  repeat' first
    | with_reducible assumption | with_reducible apply keeps_State_setF | with_reducible apply keeps_State_clrBit
    | with_reducible apply keeps_State_setDom | with_reducible apply keeps_State_bedsGone
    | with_reducible apply keeps_State_ioDieGone | dsimp only | split

theorem keeps_State_offReq {s0 : State} (s : State) (d : Nat) (hK : Keeps s0 s) : Keeps s0 (State.offReq s d) := by
  unfold State.offReq
  repeat' first
    | with_reducible assumption | with_reducible apply keeps_State_setBit | with_reducible apply keeps_State_log
    | with_reducible apply keeps_State_domOff | split

theorem keeps_State_vregClear {s0 : State} (s : State) (d : Nat) (hK : Keeps s0 s) : Keeps s0 (State.vregClear s d) :=
    by
  unfold State.vregClear
  repeat' first | with_reducible assumption | with_reducible apply keeps_State_setDom | dsimp only | split

theorem keeps_State_vregWrite {s0 : State} (s : State) (d : Nat) (v : Nat) (hK : Keeps s0 s) : Keeps s0
    (State.vregWrite s d v) := by
  unfold State.vregWrite
  repeat' first
    | with_reducible assumption | with_reducible apply keeps_State_setF | with_reducible apply keeps_State_onReq
    | with_reducible apply keeps_State_offReq | with_reducible apply keeps_State_vregClear | dsimp only | split

theorem keeps_execOnRequest (domain : Fin 12) (value : Word) (s : State) : ∃ t, execOnRequest domain value s = .next t
    ∧ Keeps s t := by
  refine ⟨_, rfl, ?_⟩
  repeat' first | with_reducible exact Keeps.refl _ | with_reducible apply keeps_State_vregWrite | split

theorem keeps_execOffRequest (domain : Fin 12) (value : Word) (s : State) : ∃ t, execOffRequest domain value s = .next
    t ∧ Keeps s t := by
  refine ⟨_, rfl, ?_⟩
  repeat' first | with_reducible exact Keeps.refl _ | with_reducible apply keeps_State_vregWrite | split

theorem keeps_execVregCtlClear (domain : Fin 12) (value : Word) (s : State) : ∃ t, execVregCtlClear domain value s =
    .next t ∧ Keeps s t := by
  refine ⟨_, rfl, ?_⟩
  repeat' first | with_reducible exact Keeps.refl _ | with_reducible apply keeps_State_vregWrite | split

theorem keeps_State_rampDone {s0 : State} (s : State) (d : Nat) (hK : Keeps s0 s) : Keeps s0 (State.rampDone s d) :=
    by
  unfold State.rampDone
  repeat' first
    | with_reducible assumption | with_reducible apply keeps_State_setF | with_reducible apply keeps_State_setDom
    | with_reducible apply keeps_State_refreshEnv | dsimp only | split

theorem keeps_execRampComplete (domain : Fin 12) (s : State) : ∃ t, execRampComplete domain s = .next t ∧ Keeps s t :=
    by
  refine ⟨_, rfl, ?_⟩
  repeat' first | with_reducible exact Keeps.refl _ | with_reducible apply keeps_State_rampDone | split

theorem keeps_State_rampFail {s0 : State} (s : State) (d : Nat) (code : Nat) (hK : Keeps s0 s) : Keeps s0
    (State.rampFail s d code) := by
  unfold State.rampFail
  repeat' first
    | with_reducible assumption | with_reducible apply keeps_State_setF | with_reducible apply keeps_State_clrBit
    | with_reducible apply keeps_State_setDom | with_reducible apply keeps_State_log
    | with_reducible apply keeps_State_icEvent

theorem keeps_execRampFailure (domain : Fin 12) (cause : RampCause) (s : State) : ∃ t, execRampFailure domain cause s
    = .next t ∧ Keeps s t := by
  refine ⟨_, rfl, ?_⟩
  repeat' first | with_reducible exact Keeps.refl _ | with_reducible apply keeps_State_rampFail | split

theorem keeps_execFuseLoad (tower : Fin 8) (s : State) : ∃ t, execFuseLoad tower s = .next t ∧ Keeps s t := by
  refine ⟨_, rfl, ?_⟩
  repeat' first | with_reducible exact Keeps.refl _ | with_reducible apply keeps_State_setDom | dsimp only | split

theorem keeps_dischargeComplete {s0 : State} (d : Nat) (s : State) (hK : Keeps s0 s) : Keeps s0 (dischargeComplete d
    s) := by
  unfold dischargeComplete
  repeat' first
    | with_reducible assumption | with_reducible apply keeps_State_clrBit | with_reducible apply keeps_State_setDom
    | with_reducible apply keeps_State_startRamp | dsimp only | split

theorem keeps_execDischargeComplete (domain : Fin 12) (s : State) : ∃ t, execDischargeComplete domain s = .next t ∧
    Keeps s t := by
  refine ⟨_, rfl, ?_⟩
  repeat' first | with_reducible exact Keeps.refl _ | with_reducible apply keeps_dischargeComplete

theorem keeps_phaseDrop {s0 : State} (d : Nat) (phase : Nat) (sense : Bool) (currents : List Nat) (s : State) (hK :
    Keeps s0 s) : Keeps s0 (phaseDrop d phase sense currents s) := by
  unfold phaseDrop
  repeat' first
    | with_reducible assumption | with_reducible apply keeps_State_setF | with_reducible apply keeps_State_log
    | with_reducible apply keeps_State_icEvent | with_reducible apply keeps_State_refreshEnv
    | with_reducible apply keeps_State_towerLoss | with_reducible apply keeps_State_ioDieLoss | dsimp only | split
    | with_reducible apply Keeps.other

theorem keeps_execPhaseDrop (domain : Fin 12) (phase : Fin 16) (sense : Bool) (currents : List (BitVec 16)) (s :
    State) : ∃ t, execPhaseDrop domain phase sense currents s = .next t ∧ Keeps s t := by
  refine ⟨_, rfl, ?_⟩
  repeat' first | with_reducible exact Keeps.refl _ | with_reducible apply keeps_phaseDrop

theorem keeps_undervoltageStop {s0 : State} (t : Nat) (s : State) (hK : Keeps s0 s) : Keeps s0 (undervoltageStop t s)
    := by
  unfold undervoltageStop
  repeat' first
    | with_reducible assumption | with_reducible apply keeps_State_countF | with_reducible apply keeps_State_setDom
    | with_reducible apply keeps_State_raise | dsimp only | split

theorem keeps_execUndervoltageStop (tower : Fin 8) (s : State) : ∃ t, execUndervoltageStop tower s = .next t ∧ Keeps s
    t := by
  refine ⟨_, rfl, ?_⟩
  repeat' first | with_reducible exact Keeps.refl _ | with_reducible apply keeps_undervoltageStop

theorem keeps_State_logStop {s0 : State} (s : State) (t : Nat) (since : Nat) (hK : Keeps s0 s) : Keeps s0
    (State.logStop s t since) := by
  unfold State.logStop
  repeat' first | with_reducible assumption | with_reducible apply keeps_State_log

theorem keeps_undervoltageResume {s0 : State} (t : Nat) (s : State) (hK : Keeps s0 s) : Keeps s0 (undervoltageResume t
    s) := by
  unfold undervoltageResume
  repeat' first
    | with_reducible assumption | with_reducible apply keeps_State_setDom | with_reducible apply keeps_State_logStop
    | dsimp only | split

theorem keeps_execUndervoltageResume (tower : Fin 8) (s : State) : ∃ t, execUndervoltageResume tower s = .next t ∧
    Keeps s t := by
  refine ⟨_, rfl, ?_⟩
  repeat' first | with_reducible exact Keeps.refl _ | with_reducible apply keeps_undervoltageResume

theorem keeps_undervoltageTowerLoss {s0 : State} (t : Nat) (s : State) (hK : Keeps s0 s) : Keeps s0
    (undervoltageTowerLoss t s) := by
  unfold undervoltageTowerLoss
  repeat' first
    | with_reducible assumption | with_reducible apply keeps_State_towerLoss
    | with_reducible apply keeps_State_logStop | split

theorem keeps_execUndervoltageTowerLoss (tower : Fin 8) (s : State) : ∃ t, execUndervoltageTowerLoss tower s = .next t
    ∧ Keeps s t := by
  refine ⟨_, rfl, ?_⟩
  repeat' first | with_reducible exact Keeps.refl _ | with_reducible apply keeps_undervoltageTowerLoss

theorem keeps_vinAlert {s0 : State} (s : State) (hK : Keeps s0 s) : Keeps s0 (vinAlert s) := by
  unfold vinAlert
  repeat' first
    | with_reducible assumption | with_reducible apply keeps_State_setBit | with_reducible apply keeps_State_countF
    | with_reducible apply keeps_State_setTherm | with_reducible apply keeps_State_raise
    | with_reducible apply keeps_State_refreshEnv | with_reducible apply Keeps.fold | intro _ _ _ | dsimp only | split
    | with_reducible apply Keeps.other

theorem keeps_execVinAlert (s : State) : ∃ t, execVinAlert s = .next t ∧ Keeps s t := by
  refine ⟨_, rfl, ?_⟩
  repeat' first | with_reducible exact Keeps.refl _ | with_reducible apply keeps_vinAlert

theorem keeps_execVinAlertRelease (s : State) : ∃ t, execVinAlertRelease s = .next t ∧ Keeps s t := by
  refine ⟨_, rfl, ?_⟩
  repeat' first
    | with_reducible exact Keeps.refl _ | with_reducible apply keeps_State_clrBit | dsimp only | split
    | with_reducible apply Keeps.other

theorem keeps_envelopeReturn {s0 : State} (s : State) (hK : Keeps s0 s) : Keeps s0 (envelopeReturn s) := by
  unfold envelopeReturn
  repeat' first
    | with_reducible assumption | with_reducible apply keeps_State_setTherm
    | with_reducible apply keeps_State_refreshEnv | dsimp only | split | with_reducible apply Keeps.other

theorem keeps_execEnvelopeReturn (s : State) : ∃ t, execEnvelopeReturn s = .next t ∧ Keeps s t := by
  refine ⟨_, rfl, ?_⟩
  repeat' first | with_reducible exact Keeps.refl _ | with_reducible apply keeps_envelopeReturn

theorem keeps_brownout {s0 : State} (vin : Nat) (s : State) (hK : Keeps s0 s) : Keeps s0 (brownout vin s) := by
  unfold brownout
  repeat' first
    | with_reducible assumption | with_reducible apply keeps_State_setF | with_reducible apply keeps_State_log
    | with_reducible apply keeps_State_allOff | dsimp only | split | with_reducible apply Keeps.other

theorem keeps_execBrownout (vin : BitVec 16) (s : State) : ∃ t, execBrownout vin s = .next t ∧ Keeps s t := by
  refine ⟨_, rfl, ?_⟩
  repeat' first | with_reducible exact Keeps.refl _ | with_reducible apply keeps_brownout

/-- The registers after a warm reset: those of a part just powered, but for the ones that VAUX keeps. -/
theorem keeps_State_warmRegs (s : State) : Keeps { State.reset with fuses := s.fuses } s.warmRegs := by
  unfold State.warmRegs
  dsimp only
  refine keeps_State_setReg _ _ (keeps_State_setReg _ _ ?_)
  refine Keeps.fold _ _ _ (Keeps.fold _ _ _ (Keeps.refl _) fun z d hz => ?_) fun z t hz => keeps_State_setReg _ _ hz
  split
  · exact keeps_State_setF _ _ _ _ _ (keeps_State_setF _ _ _ _ _ (keeps_State_setF _ _ _ _ _
      (keeps_State_setF _ _ _ _ _ (keeps_State_setReg _ _ hz))))
  · exact keeps_State_setF _ _ _ _ _ (keeps_State_setF _ _ _ _ _ (keeps_State_setReg _ _ hz))

theorem keeps_State_warm {s0 : State} (s : State) (h : Keeps s0 s) : Keeps s0 (s.warm) := by
  have hf : s.warmRegs.fuses = s.fuses := (keeps_State_warmRegs s).fuses
  have hm : s.warmRegs.memWf = true := (keeps_State_warmRegs s).mem rfl
  have hr : s.warmRegs.regsWf = true := (keeps_State_warmRegs s).regs rfl
  unfold State.warm
  generalize s.warmRegs = w at hf hm hr ⊢
  exact ⟨hf.trans h.fuses, h.pending, fun _ => hm, fun _ => hr⟩

theorem keeps_resetAssert {s0 : State} (s : State) (hK : Keeps s0 s) : Keeps s0 (resetAssert s) := by
  have hw := keeps_State_warm s hK
  unfold resetAssert
  generalize s.warm = w at hw ⊢
  split
  · exact hw.other
  · exact hK

theorem keeps_execResetNAssert (s : State) : ∃ t, execResetNAssert s = .next t ∧ Keeps s t := by
  refine ⟨_, rfl, ?_⟩
  repeat' first | with_reducible exact Keeps.refl _ | with_reducible apply keeps_resetAssert

theorem keeps_State_startIo {s0 : State} (s : State) (x : Nat) (up : Bool) (hK : Keeps s0 s) : Keeps s0 (State.startIo
    s x up) := by
  unfold State.startIo
  repeat' first
    | with_reducible assumption | with_reducible apply keeps_State_setF | with_reducible apply keeps_State_setBit
    | with_reducible apply keeps_State_setDom | dsimp only | split

theorem keeps_resetRelease {s0 : State} (straps : Nat) (ioUp : Nat) (s : State) (hK : Keeps s0 s) :
    Keeps s0 (resetRelease straps ioUp s) := by
  have hw := keeps_State_warm s hK
  unfold resetRelease
  generalize s.warm = w at hw ⊢
  split
  · exact Keeps.fold _ _ _ (keeps_State_setBw _ _ hw.other) fun s a h => keeps_State_startIo s a _ h
  · exact hK

theorem keeps_execResetNRelease (straps : BitVec 12) (ioUp : BitVec 4) (s : State) : ∃ t, execResetNRelease straps
    ioUp s = .next t ∧ Keeps s t := by
  refine ⟨_, rfl, ?_⟩
  repeat' first | with_reducible exact Keeps.refl _ | with_reducible apply keeps_resetRelease

theorem keeps_execPerstN (port : Fin 4) (low : Bool) (s : State) : ∃ t, execPerstN port low s = .next t ∧ Keeps s t :=
    by
  refine ⟨_, rfl, ?_⟩
  repeat' first | with_reducible exact Keeps.refl _ | split | with_reducible apply Keeps.other

theorem keeps_State_cold {s0 : State} (s : State) (vaux : Bool) (h : Keeps s0 s) : Keeps s0 (s.cold vaux) where
  fuses := h.fuses
  pending := h.pending
  mem _ := rfl
  regs _ := rfl

theorem keeps_execVauxLoss (s : State) : ∃ t, execVauxLoss s = .next t ∧ Keeps s t := by
  refine ⟨_, rfl, ?_⟩
  repeat' first | with_reducible exact Keeps.refl _ | with_reducible apply keeps_State_cold | split

theorem keeps_execVauxRise (s : State) : ∃ t, execVauxRise s = .next t ∧ Keeps s t := by
  refine ⟨_, rfl, ?_⟩
  repeat' first | with_reducible exact Keeps.refl _ | with_reducible apply keeps_State_cold | split

theorem keeps_stepmonMeasure {s0 : State} (k : Nat) (ticks : Nat) (s : State) (hK : Keeps s0 s) : Keeps s0
    (stepmonMeasure k ticks s) := by
  unfold stepmonMeasure
  repeat' first
    | with_reducible assumption | with_reducible apply keeps_State_setBit | with_reducible apply keeps_State_setTherm
    | with_reducible apply keeps_State_log | with_reducible apply keeps_State_raise | dsimp only | split

theorem keeps_execStepmonMeasurement (core : Fin 64) (ticks : BitVec 16) (s : State) : ∃ t, execStepmonMeasurement
    core ticks s = .next t ∧ Keeps s t := by
  refine ⟨_, rfl, ?_⟩
  repeat' first | with_reducible exact Keeps.refl _ | with_reducible apply keeps_stepmonMeasure

theorem keeps_stepmonWindowEnd {s0 : State} (t : Nat) (s : State) (hK : Keeps s0 s) : Keeps s0 (stepmonWindowEnd t s)
    := by
  unfold stepmonWindowEnd
  repeat' first
    | with_reducible assumption | with_reducible apply keeps_State_setF | with_reducible apply keeps_State_setTherm
    | dsimp only | split

theorem keeps_execStepmonWindowEnd (tower : Fin 8) (s : State) : ∃ t, execStepmonWindowEnd tower s = .next t ∧ Keeps s
    t := by
  refine ⟨_, rfl, ?_⟩
  repeat' first | with_reducible exact Keeps.refl _ | with_reducible apply keeps_stepmonWindowEnd

/-! ### Machine/Heat.lean -/

theorem keeps_State_enterHardpan {s0 : State} (s : State) (cause : Nat) (source : Nat) (value : Nat) (hK : Keeps s0 s)
    : Keeps s0 (State.enterHardpan s cause source value) := by
  unfold State.enterHardpan
  repeat' first
    | with_reducible assumption | with_reducible apply keeps_State_setReg | with_reducible apply keeps_State_setBwF
    | with_reducible apply keeps_State_log | with_reducible apply keeps_State_setFatal
    | with_reducible apply keeps_State_allOff | dsimp only | split | with_reducible apply Keeps.other

theorem keeps_State_sensorFail {s0 : State} (s : State) (t : Nat) (n : Nat) (raw : Nat) (hK : Keeps s0 s) : Keeps s0
    (State.sensorFail s t n raw) := by
  unfold State.sensorFail
  repeat' first
    | with_reducible assumption | with_reducible apply keeps_State_setReg | with_reducible apply keeps_State_setBit
    | with_reducible apply keeps_State_setTherm | with_reducible apply keeps_State_log
    | with_reducible apply keeps_State_raise | dsimp only | split

theorem keeps_State_updateFlags {s0 : State} (s : State) (t : Nat) (hK : Keeps s0 s) : Keeps s0 (State.updateFlags s
    t) := by
  unfold State.updateFlags
  repeat' first
    | with_reducible assumption | with_reducible apply keeps_State_setF | with_reducible apply keeps_State_setTherm
    | with_reducible apply keeps_State_raise | with_reducible apply Keeps.fold | intro _ _ _ | split

theorem keeps_State_convertSensor {s0 : State} (s : State) (t : Nat) (n : Nat) (raw : Nat) (hK : Keeps s0 s) : Keeps
    s0 (State.convertSensor s t n raw) := by
  unfold State.convertSensor
  repeat' first
    | with_reducible assumption | with_reducible apply keeps_State_setReg | with_reducible apply keeps_State_setTherm
    | with_reducible apply keeps_State_sensorFail | dsimp only | split

theorem keeps_sensorConversion {s0 : State} (t : Nat) (raw : List Nat) (s : State) (hK : Keeps s0 s) : Keeps s0
    (sensorConversion t raw s) := by
  unfold sensorConversion
  repeat' first
    | with_reducible assumption | with_reducible apply keeps_State_enterHardpan
    | with_reducible apply keeps_State_updateFlags | with_reducible apply keeps_State_convertSensor
    | with_reducible apply Keeps.fold | intro _ _ _ | dsimp only | split

theorem keeps_execSensorConversion (tower : Fin 8) (raw : List (BitVec 16)) (s : State) : ∃ t, execSensorConversion
    tower raw s = .next t ∧ Keeps s t := by
  refine ⟨_, rfl, ?_⟩
  repeat' first | with_reducible exact Keeps.refl _ | with_reducible apply keeps_sensorConversion

theorem keeps_sensorFailure {s0 : State} (t : Nat) (n : Nat) (s : State) (hK : Keeps s0 s) : Keeps s0 (sensorFailure t
    n s) := by
  unfold sensorFailure
  repeat' first | with_reducible assumption | with_reducible apply keeps_State_sensorFail | dsimp only | split

theorem keeps_execSensorFailure (tower : Fin 8) (sensor : Fin 32) (s : State) : ∃ t, execSensorFailure tower sensor s
    = .next t ∧ Keeps s t := by
  refine ⟨_, rfl, ?_⟩
  repeat' first | with_reducible exact Keeps.refl _ | with_reducible apply keeps_sensorFailure

theorem keeps_throttleUpdate {s0 : State} (t : Nat) (s : State) (hK : Keeps s0 s) : Keeps s0 (throttleUpdate t s) :=
    by
  unfold throttleUpdate
  repeat' first
    | with_reducible assumption | with_reducible apply keeps_State_setF | with_reducible apply keeps_State_setTherm
    | dsimp only | split

theorem keeps_execThrottleUpdate (tower : Fin 8) (s : State) : ∃ t, execThrottleUpdate tower s = .next t ∧ Keeps s t
    := by
  refine ⟨_, rfl, ?_⟩
  repeat' first | with_reducible exact Keeps.refl _ | with_reducible apply keeps_throttleUpdate

theorem keeps_thermalFlagClear {s0 : State} (t : Nat) (flag : ThFlag) (s : State) (hK : Keeps s0 s) : Keeps s0
    (thermalFlagClear t flag s) := by
  unfold thermalFlagClear
  repeat' first
    | with_reducible assumption | with_reducible apply keeps_State_clrBit | with_reducible apply keeps_State_setTherm
    | dsimp only | split

theorem keeps_execThermalFlagClear (tower : Fin 8) (flag : ThFlag) (s : State) : ∃ t, execThermalFlagClear tower flag
    s = .next t ∧ Keeps s t := by
  refine ⟨_, rfl, ?_⟩
  repeat' first | with_reducible exact Keeps.refl _ | with_reducible apply keeps_thermalFlagClear

theorem keeps_State_refreshCaps {s0 : State} (s : State) (hK : Keeps s0 s) : Keeps s0 (State.refreshCaps s) := by
  unfold State.refreshCaps
  repeat' first | with_reducible assumption | with_reducible apply keeps_State_recomputeCaps | split

theorem keeps_thermistorConversion {s0 : State} (a : Thermistor) (b : Thermistor) (s : State) (hK : Keeps s0 s) :
    Keeps s0 (thermistorConversion a b s) := by
  unfold thermistorConversion
  repeat' first
    | with_reducible assumption | with_reducible apply keeps_State_setReg
    | with_reducible apply keeps_State_refreshCaps | split

theorem keeps_execThermistorConversion (in0 : Thermistor) (in1 : Thermistor) (s : State) : ∃ t,
    execThermistorConversion in0 in1 s = .next t ∧ Keeps s t := by
  refine ⟨_, rfl, ?_⟩
  repeat' first | with_reducible exact Keeps.refl _ | with_reducible apply keeps_thermistorConversion

theorem keeps_rthEstimation {s0 : State} (t : Nat) (m : RthMeasure) (s : State) (hK : Keeps s0 s) : Keeps s0
    (rthEstimation t m s) := by
  unfold rthEstimation
  repeat' first
    | with_reducible assumption | with_reducible apply keeps_State_setTherm
    | with_reducible apply keeps_State_recomputeCaps | dsimp only | split

theorem keeps_execRthEstimation (tower : Fin 8) (m : RthMeasure) (s : State) : ∃ t, execRthEstimation tower m s =
    .next t ∧ Keeps s t := by
  refine ⟨_, rfl, ?_⟩
  repeat' first | with_reducible exact Keeps.refl _ | with_reducible apply keeps_rthEstimation

theorem keeps_State_reportClamp {s0 : State} (s : State) (t : Nat) (sp : Nat) (hK : Keeps s0 s) : Keeps s0
    (State.reportClamp s t sp) := by
  unfold State.reportClamp
  repeat' first
    | with_reducible assumption | with_reducible apply keeps_State_notify | with_reducible apply Keeps.fold
    | intro _ _ _ | with_reducible apply Keeps.other

theorem keeps_State_floorClamp {s0 : State} (s : State) (t : Nat) (power : Nat) (hK : Keeps s0 s) : Keeps s0
    (State.floorClamp s t power) := by
  unfold State.floorClamp
  repeat' first
    | with_reducible assumption | with_reducible apply keeps_State_setBit | with_reducible apply keeps_State_countF
    | with_reducible apply keeps_State_setTherm | with_reducible apply keeps_State_raise
    | with_reducible apply keeps_State_reportClamp | dsimp only | split

theorem keeps_governorEvaluation {s0 : State} (t : Nat) (mv : Nat) (cur : Nat) (s : State) (hK : Keeps s0 s) : Keeps
    s0 (governorEvaluation t mv cur s) := by
  unfold governorEvaluation
  repeat' first
    | with_reducible assumption | with_reducible apply keeps_State_setF | with_reducible apply keeps_State_setTherm
    | with_reducible apply keeps_State_refreshEnv | with_reducible apply keeps_State_floorClamp | dsimp only | split

theorem keeps_execGovernorEvaluation (tower : Fin 8) (millivolts : BitVec 16) (current : BitVec 16) (s : State) : ∃ t,
    execGovernorEvaluation tower millivolts current s = .next t ∧ Keeps s t := by
  refine ⟨_, rfl, ?_⟩
  repeat' first | with_reducible exact Keeps.refl _ | with_reducible apply keeps_governorEvaluation

theorem keeps_State_measure {s0 : State} (s : State) (hK : Keeps s0 s) : Keeps s0 (State.measure s) := by
  unfold State.measure
  repeat' first
    | with_reducible assumption | with_reducible apply keeps_State_setReg | with_reducible apply keeps_State_setF
    | with_reducible apply keeps_State_bumpFree | with_reducible apply keeps_State_refreshCaps
    | with_reducible apply Keeps.fold | intro _ _ _ | dsimp only | split

/-! ### Machine/FloorPlan.lean -/

theorem keeps_State_publishRecord {s0 : State} (s : State) (h : Keeps s0 s) : Keeps s0 s.publishRecord :=
  keeps_State_notifyAll _ _ _ _ _ (Keeps.memory h id id fun _ => wrBytes_wf _ _ _ rfl)

theorem keeps_execFloorPlanUpdate (s : State) : ∃ t, execFloorPlanUpdate s = .next t ∧ Keeps s t := by
  refine ⟨_, rfl, ?_⟩
  repeat' first | with_reducible exact Keeps.refl _ | with_reducible apply keeps_State_publishRecord | split

/-! ### Machine/Slips.lean -/

theorem keeps_helloAct {s0 : State} (x : Slip) (s : State) (hK : Keeps s0 s) : Keeps s0 (helloAct x s) := by
  unfold helloAct
  repeat' first
    | with_reducible assumption | with_reducible apply keeps_State_setMb | with_reducible apply keeps_State_answer
    | dsimp only | split | with_reducible apply Keeps.other

theorem keeps_execHello (slip : Slip) (s : State) : ∃ t, execHello slip s = .next t ∧ Keeps s t := by
  refine ⟨_, rfl, ?_⟩
  repeat' first
    | with_reducible exact Keeps.refl _ | with_reducible apply keeps_State_withSlip
    | with_reducible apply keeps_helloAct

theorem keeps_State_waitSlip {s0 : State} (s : State) (x : Slip) (hK : Keeps s0 s) : Keeps s0 (State.waitSlip s x) :=
    by
  unfold State.waitSlip
  repeat' first | with_reducible assumption | with_reducible apply keeps_State_setMb

theorem keeps_segAllocAct {s0 : State} (x : Slip) (s : State) (hK : Keeps s0 s) : Keeps s0 (segAllocAct x s) := by
  unfold segAllocAct
  repeat' first
    | with_reducible assumption | with_reducible apply keeps_State_answer
    | with_reducible apply keeps_State_installAlloc | with_reducible apply keeps_State_waitSlip | split

theorem keeps_execSegAlloc (slip : Slip) (s : State) : ∃ t, execSegAlloc slip s = .next t ∧ Keeps s t := by
  refine ⟨_, rfl, ?_⟩
  repeat' first
    | with_reducible exact Keeps.refl _ | with_reducible apply keeps_State_withSlip
    | with_reducible apply keeps_segAllocAct

theorem keeps_segFreeAct {s0 : State} (x : Slip) (s : State) (hK : Keeps s0 s) : Keeps s0 (segFreeAct x s) := by
  unfold segFreeAct
  repeat' first
    | with_reducible assumption | with_reducible apply keeps_State_answer | with_reducible apply keeps_State_clearSeg
    | with_reducible apply keeps_State_queueZero | with_reducible apply keeps_State_removeShared
    | with_reducible apply keeps_State_waitSlip | dsimp only | split | with_reducible apply Keeps.other

theorem keeps_execSegFree (slip : Slip) (s : State) : ∃ t, execSegFree slip s = .next t ∧ Keeps s t := by
  refine ⟨_, rfl, ?_⟩
  repeat' first
    | with_reducible exact Keeps.refl _ | with_reducible apply keeps_State_withSlip
    | with_reducible apply keeps_segFreeAct

theorem keeps_segShareAct {s0 : State} (x : Slip) (s : State) (hK : Keeps s0 s) : Keeps s0 (segShareAct x s) := by
  unfold segShareAct
  repeat' first
    | with_reducible assumption | with_reducible apply keeps_State_bumpFree | with_reducible apply keeps_State_answer
    | with_reducible apply keeps_State_setSeg | with_reducible apply keeps_State_grant | dsimp only | split
    | with_reducible apply Keeps.other

theorem keeps_execSegShare (slip : Slip) (s : State) : ∃ t, execSegShare slip s = .next t ∧ Keeps s t := by
  refine ⟨_, rfl, ?_⟩
  repeat' first
    | with_reducible exact Keeps.refl _ | with_reducible apply keeps_State_withSlip
    | with_reducible apply keeps_segShareAct

theorem keeps_segAttachAct {s0 : State} (x : Slip) (s : State) (hK : Keeps s0 s) : Keeps s0 (segAttachAct x s) := by
  unfold segAttachAct
  repeat' first
    | with_reducible assumption | with_reducible apply keeps_State_answer | with_reducible apply keeps_State_setSeg
    | dsimp only | split | with_reducible apply Keeps.other

theorem keeps_execSegAttach (slip : Slip) (s : State) : ∃ t, execSegAttach slip s = .next t ∧ Keeps s t := by
  refine ⟨_, rfl, ?_⟩
  repeat' first
    | with_reducible exact Keeps.refl _ | with_reducible apply keeps_State_withSlip
    | with_reducible apply keeps_segAttachAct

theorem keeps_State_refuseTag {s0 : State} (s : State) (x : Slip) (hK : Keeps s0 s) : Keeps s0 (State.refuseTag s x)
    := by
  unfold State.refuseTag
  repeat' first | with_reducible assumption | with_reducible apply keeps_State_answer

theorem keeps_submitAct {s0 : State} (x : Slip) (s : State) (hK : Keeps s0 s) : Keeps s0 (submitAct x s) := by
  unfold submitAct
  repeat' first
    | with_reducible assumption | with_reducible apply keeps_State_answer | with_reducible apply keeps_State_refuseTag
    | dsimp only | split | with_reducible apply Keeps.other

theorem keeps_execSubmit (slip : Slip) (s : State) : ∃ t, execSubmit slip s = .next t ∧ Keeps s t := by
  refine ⟨_, rfl, ?_⟩
  repeat' first
    | with_reducible exact Keeps.refl _ | with_reducible apply keeps_State_withSlip
    | with_reducible apply keeps_submitAct

theorem keeps_State_stopList {s0 : State} (s : State) (l : WorkList) (st : Nat) (hK : Keeps s0 s) : Keeps s0
    (State.stopList s l st) := by
  unfold State.stopList
  repeat' first
    | with_reducible assumption | with_reducible apply keeps_State_setList
    | with_reducible apply keeps_State_completeList | with_reducible apply keeps_State_settleList
    | with_reducible apply keeps_State_dropQueued | split

theorem keeps_cancelAct {s0 : State} (x : Slip) (s : State) (hK : Keeps s0 s) : Keeps s0 (cancelAct x s) := by
  unfold cancelAct
  repeat' first
    | with_reducible assumption | with_reducible apply keeps_State_setList | with_reducible apply keeps_State_answer
    | with_reducible apply keeps_State_setXfer | with_reducible apply keeps_State_stopXfer
    | with_reducible apply keeps_State_stopList | dsimp only | split

theorem keeps_execCancel (slip : Slip) (s : State) : ∃ t, execCancel slip s = .next t ∧ Keeps s t := by
  refine ⟨_, rfl, ?_⟩
  repeat' first
    | with_reducible exact Keeps.refl _ | with_reducible apply keeps_State_withSlip
    | with_reducible apply keeps_cancelAct

theorem keeps_State_placeJob {s0 : State} (s : State) (t : Nat) (tag : Nat) (e : Nat) (first : Nat) (count : Nat) (hK
    : Keeps s0 s) : Keeps s0 (State.placeJob s t tag e first count) := by
  unfold State.placeJob
  repeat' first
    | with_reducible assumption | with_reducible apply keeps_State_setEngine | with_reducible apply keeps_State_grant
    | dsimp only | split

theorem keeps_State_placeJobs {s0 : State} (s : State) (t : Nat) (tag : Nat) (total : Nat) (es : List Nat) (hK : Keeps
    s0 s) : Keeps s0 (State.placeJobs s t tag total es) := by
  unfold State.placeJobs
  repeat' first
    | with_reducible assumption | with_reducible apply keeps_State_placeJob | with_reducible apply Keeps.fold
    | intro _ _ _ | dsimp only | split

theorem keeps_transferAct {s0 : State} (x : Slip) (named : List Nat) (s : State) (hK : Keeps s0 s) : Keeps s0
    (transferAct x named s) := by
  unfold transferAct
  repeat' first
    | with_reducible assumption | with_reducible apply keeps_State_answer | with_reducible apply keeps_State_refuseTag
    | with_reducible apply keeps_State_placeJobs | dsimp only | split | with_reducible apply Keeps.other

theorem keeps_execTransfer (slip : Slip) (engines : List (Fin 32)) (s : State) : ∃ t, execTransfer slip engines s =
    .next t ∧ Keeps s t := by
  refine ⟨_, rfl, ?_⟩
  repeat' first
    | with_reducible exact Keeps.refl _ | with_reducible apply keeps_State_withSlip
    | with_reducible apply keeps_transferAct | split

theorem keeps_floorplanAct {s0 : State} (x : Slip) (hostOk : Bool) (s : State) (hK : Keeps s0 s) : Keeps s0
    (floorplanAct x hostOk s) := by
  unfold floorplanAct
  repeat' first
    | with_reducible assumption | with_reducible apply keeps_State_emit | with_reducible apply keeps_State_answer
    | split

theorem keeps_execFloorplan (slip : Slip) (hostOk : Bool) (s : State) : ∃ t, execFloorplan slip hostOk s = .next t ∧
    Keeps s t := by
  refine ⟨_, rfl, ?_⟩
  repeat' first
    | with_reducible exact Keeps.refl _ | with_reducible apply keeps_State_withSlip
    | with_reducible apply keeps_floorplanAct

theorem keeps_timesyncAct {s0 : State} (x : Slip) (s : State) (hK : Keeps s0 s) : Keeps s0 (timesyncAct x s) := by
  unfold timesyncAct
  repeat' first
    | with_reducible assumption | with_reducible apply keeps_State_answer | dsimp only | split
    | with_reducible apply Keeps.other

theorem keeps_execTimesyncRead (slip : Slip) (s : State) : ∃ t, execTimesyncRead slip s = .next t ∧ Keeps s t := by
  refine ⟨_, rfl, ?_⟩
  repeat' first
    | with_reducible exact Keeps.refl _ | with_reducible apply keeps_State_withSlip
    | with_reducible apply keeps_timesyncAct | split

theorem keeps_execTimesyncArm (slip : Slip) (s : State) : ∃ t, execTimesyncArm slip s = .next t ∧ Keeps s t := by
  refine ⟨_, rfl, ?_⟩
  repeat' first
    | with_reducible exact Keeps.refl _ | with_reducible apply keeps_State_withSlip
    | with_reducible apply keeps_timesyncAct | split

/-! ### Machine/QStage.lean -/

theorem keeps_State_qsCount {s0 : State} (s : State) (k : Nat) (n : Nat) (elems : List Nat) (hK : Keeps s0 s) : Keeps
    s0 (State.qsCount s k n elems) := by
  unfold State.qsCount
  repeat' first
    | with_reducible assumption | with_reducible apply keeps_State_setReg | with_reducible apply keeps_State_setF
    | with_reducible apply keeps_State_countF | with_reducible apply keeps_State_raise
    | with_reducible apply keeps_State_ctr | with_reducible apply Keeps.fold | intro _ _ _ | dsimp only | split

theorem keeps_qsWindowEnd {s0 : State} (k : Nat) (n : Nat) (s : State) (hK : Keeps s0 s) : Keeps s0 (qsWindowEnd k n
    s) := by
  unfold qsWindowEnd
  repeat' first | with_reducible assumption | with_reducible apply keeps_State_setReg | split

theorem keeps_execQsWindowEnd (core : Fin 64) (counter : Fin 9) (s : State) : ∃ t, execQsWindowEnd core counter s =
    .next t ∧ Keeps s t := by
  refine ⟨_, rfl, ?_⟩
  repeat' first | with_reducible exact Keeps.refl _ | with_reducible apply keeps_qsWindowEnd

theorem keeps_State_qsctlWrite {s0 : State} (s : State) (k : Nat) (n : Nat) (v : DWord) (hK : Keeps s0 s) : Keeps s0
    (State.qsctlWrite s k n v) := by
  unfold State.qsctlWrite
  repeat' first
    | with_reducible assumption | with_reducible apply keeps_State_setReg
    | with_reducible apply keeps_State_plainWrite | dsimp only | split

theorem keeps_execCoreQsctlWrite (core : Fin 64) (counter : Fin 9) (value : Word) (s : State) : ∃ t,
    execCoreQsctlWrite core counter value s = .next t ∧ Keeps s t := by
  refine ⟨_, rfl, ?_⟩
  repeat' first | with_reducible exact Keeps.refl _ | with_reducible apply keeps_State_qsctlWrite | split

theorem keeps_execCoreQsctlClear (core : Fin 64) (counter : Fin 9) (value : Word) (s : State) : ∃ t,
    execCoreQsctlClear core counter value s = .next t ∧ Keeps s t := by
  refine ⟨_, rfl, ?_⟩
  repeat' first | with_reducible exact Keeps.refl _ | with_reducible apply keeps_State_qsctlWrite | split

theorem keeps_State_qsstatWrite {s0 : State} (s : State) (k : Nat) (v : DWord) (hK : Keeps s0 s) : Keeps s0
    (State.qsstatWrite s k v) := by
  unfold State.qsstatWrite
  repeat' first
    | with_reducible assumption | with_reducible apply keeps_State_setF | with_reducible apply keeps_State_plainWrite
    | dsimp only | split

theorem keeps_execExcClear (core : Fin 64) (value : Word) (s : State) : ∃ t, execExcClear core value s = .next t ∧
    Keeps s t := by
  refine ⟨_, rfl, ?_⟩
  repeat' first | with_reducible exact Keeps.refl _ | with_reducible apply keeps_State_qsstatWrite | split

theorem keeps_State_qsClear {s0 : State} (s : State) (k : Nat) (hK : Keeps s0 s) : Keeps s0 (State.qsClear s k) := by
  unfold State.qsClear
  repeat' first
    | with_reducible assumption | with_reducible apply keeps_State_setReg | with_reducible apply Keeps.fold
    | intro _ _ _

theorem keeps_State_mxSat {s0 : State} (s : State) (k : Nat) (m : MxSat) (hK : Keeps s0 s) : Keeps s0 (State.mxSat s k
    m) := by
  unfold State.mxSat
  repeat' first
    | with_reducible assumption | with_reducible apply keeps_State_setBit | with_reducible apply keeps_State_countF
    | with_reducible apply keeps_State_raise | dsimp only | split

theorem keeps_State_chainReport {s0 : State} (s : State) (k : Nat) (x : ChainFx) (hK : Keeps s0 s) : Keeps s0
    (State.chainReport s k x) := by
  unfold State.chainReport
  repeat' first
    | with_reducible assumption | with_reducible apply keeps_State_setF | with_reducible apply keeps_State_setBit
    | with_reducible apply keeps_State_countF | with_reducible apply keeps_State_raise
    | with_reducible apply keeps_State_qsCount | with_reducible apply Keeps.fold | intro _ _ _ | split

end Sys2Proof.Machine
end

