-- ==== Sys2Proof/Laws/KeepsArray.lean ====
section
/-! SUPPORT. The same for the array, the vector chains, the beds, the caches, attention and the mover. -/

namespace Sys2Proof.Machine

/-! ### Machine/Tiles.lean -/

theorem keeps_State_readElems {s0 : State} (s : State) (k : Nat) (t : Nat) (p : Place) (fmt : Nat) (n : Nat) (hK :
    Keeps s0 s) : Keeps s0 (State.readElems s k t p fmt n).s := by
  unfold State.readElems
  repeat' first | with_reducible assumption | with_reducible apply keeps_State_opRead

/-! ### Machine/Chain.lean -/

theorem keeps_State_vecElems {s0 : State} (s : State) (k : Nat) (t : Nat) (ref : Nat) (size : Nat) (lo : Nat) (n :
    Nat) (hK : Keeps s0 s) : Keeps s0 (State.vecElems s k t ref size lo n).s := by
  unfold State.vecElems
  repeat' first | with_reducible assumption | with_reducible apply keeps_State_readElems | split

theorem keeps_State_vecIf {s0 : State} (s : State) (k : Nat) (t : Nat) (io : JobIo) (src : Nat) (ref : Nat) (size :
    Nat) (lo : Nat) (n : Nat) (hK : Keeps s0 s) : Keeps s0 (State.vecIf s k t io src ref size lo n).s := by
  unfold State.vecIf
  repeat' first | with_reducible assumption | with_reducible apply keeps_State_vecElems | split

theorem keeps_State_segRead {s0 : State} (s : State) (k : Nat) (t : Nat) (io : JobIo) (g : Seg1) (hK : Keeps s0 s) :
    Keeps s0 (State.segRead s k t io g).s := by
  unfold State.segRead
  repeat' first
    | with_reducible assumption | with_reducible apply keeps_State_readElems | with_reducible apply keeps_State_vecIf
    | split

theorem keeps_BeatRun_segment {s0 : State} (x : BeatRun) (k : Nat) (t : Nat) (cols : Nat) (io : JobIo) (g : Seg1) (hx
    : Keeps s0 x.s) : Keeps s0 (BeatRun.segment x k t cols io g).s := by
  unfold BeatRun.segment
  repeat' first
    | with_reducible assumption | with_reducible apply keeps_State_opWrite | with_reducible apply keeps_State_segRead
    | dsimp only | split | with_reducible apply Keeps.memory | exact id | exact wrBytes_wf _ _ _

theorem keeps_State_failOp {s0 : State} (s : State) (id : Nat) (off : Nat) (status : Nat) (hK : Keeps s0 s) : Keeps s0
    (State.failOp s id off status) := by
  unfold State.failOp
  repeat' first
    | with_reducible assumption | with_reducible apply keeps_State_finishOp | with_reducible apply keeps_State_dropOp

theorem keeps_State_spoil {s0 : State} (s : State) (k : Nat) (t : Nat) (out : Option Place) (r : Rows) (a : Acc) (hK :
    Keeps s0 s) : Keeps s0 (State.spoil s k t out r a) := by
  unfold State.spoil
  repeat' first | with_reducible assumption | with_reducible apply keeps_State_fillUndefined | split

theorem keeps_State_setSteps {s0 : State} (s : State) (id : Nat) (off : Nat) (n : Nat) (hK : Keeps s0 s) : Keeps s0
    (State.setSteps s id off n) := by
  unfold State.setSteps
  repeat' first | with_reducible assumption | with_reducible apply keeps_State_setOp | split

theorem keeps_State_endFused {s0 : State} (s : State) (id : Nat) (off : Nat) (hK : Keeps s0 s) : Keeps s0
    (State.endFused s id off) := by
  unfold State.endFused
  repeat' first | with_reducible assumption | with_reducible apply keeps_State_finishOp | dsimp only | split

theorem keeps_State_sealDigest {s0 : State} (s : State) (id : Nat) (off : Nat) (hK : Keeps s0 s) : Keeps s0
    (State.sealDigest s id off) := by
  unfold State.sealDigest
  repeat' first | with_reducible assumption | with_reducible apply keeps_State_setOp | split

theorem keeps_State_afterBeat {s0 : State} (s : State) (k : Nat) (j : ChainJob) (red : List Nat) (hK : Keeps s0 s) :
    Keeps s0 (State.afterBeat s k j red) := by
  unfold State.afterBeat
  repeat' first
    | with_reducible assumption | with_reducible apply keeps_State_setCoreUnit
    | with_reducible apply keeps_State_setOp | with_reducible apply keeps_State_finishOp
    | with_reducible apply keeps_State_addSteps | with_reducible apply keeps_State_setSteps
    | with_reducible apply keeps_State_endFused | with_reducible apply keeps_State_sealDigest | dsimp only | split

theorem keeps_vchainBeat {s0 : State} (k : Nat) (s : State) (hK : Keeps s0 s) : Keeps s0 (vchainBeat k s) := by
  unfold vchainBeat
  repeat' first
    | with_reducible assumption | with_reducible apply keeps_State_setCoreUnit
    | with_reducible apply keeps_State_setOp | with_reducible apply keeps_State_ctr
    | with_reducible apply keeps_State_startOp | with_reducible apply keeps_State_chainReport
    | with_reducible apply keeps_BeatRun_segment | with_reducible apply keeps_State_failOp
    | with_reducible apply keeps_State_spoil | with_reducible apply keeps_State_afterBeat
    | with_reducible apply Keeps.foldOn BeatRun.s | intro _ _ _ | dsimp only | split

theorem keeps_State_keepDesc {s0 : State} (s : State) (l : WorkList) (o : Op) (binding : List Byte) (hK : Keeps s0 s)
    : Keeps s0 (State.keepDesc s l o binding).1 := by
  unfold State.keepDesc
  repeat' first
    | with_reducible assumption | with_reducible apply keeps_State_setOp | with_reducible apply keeps_State_opRead
    | dsimp only | split

theorem keeps_State_queueVchain {s0 : State} (s : State) (l : WorkList) (o : Op) (hK : Keeps s0 s) : Keeps s0
    (State.queueVchain s l o) := by
  unfold State.queueVchain
  repeat' first | with_reducible assumption | with_reducible apply keeps_State_setCoreUnit

theorem keeps_execVchain (list : Nat) (early : Option (List Byte)) (s : State) : ∃ t, execVchain list early s = .next
    t ∧ Keeps s t := by
  refine ⟨_, rfl, ?_⟩
  repeat' first
    | with_reducible assumption | with_reducible exact Keeps.refl _ | with_reducible apply keeps_State_issueOp
    | with_reducible apply keeps_State_keepDesc | with_reducible apply keeps_State_queueVchain | intro _ _ _ _

/-! ### Machine/Array.lean -/

theorem keeps_State_mmBindingRead {s0 : State} (s : State) (l : WorkList) (o : Op) (hK : Keeps s0 s) : Keeps s0
    (State.mmBindingRead s l o).s := by
  unfold State.mmBindingRead
  repeat' first | with_reducible assumption | with_reducible apply keeps_State_opRead | split

theorem keeps_State_queueMatmul {s0 : State} (s : State) (l : WorkList) (o : Op) (hK : Keeps s0 s) : Keeps s0
    (State.queueMatmul s l o) := by
  unfold State.queueMatmul
  repeat' first | with_reducible assumption | with_reducible apply keeps_State_setCoreUnit

theorem keeps_execMatmul (list : Nat) (early : Option (List Byte)) (s : State) : ∃ t, execMatmul list early s = .next
    t ∧ Keeps s t := by
  refine ⟨_, rfl, ?_⟩
  repeat' first
    | with_reducible assumption | with_reducible exact Keeps.refl _ | with_reducible apply keeps_State_issueOp
    | with_reducible apply keeps_State_keepDesc | with_reducible apply keeps_State_mmBindingRead
    | with_reducible apply keeps_State_queueMatmul | intro _ _ _ _ | dsimp only | split

theorem keeps_State_mmFail {s0 : State} (s : State) (l : WorkList) (o : Op) (a : Acc) (hK : Keeps s0 s) : Keeps s0
    (State.mmFail s l o a) := by
  unfold State.mmFail
  repeat' first
    | with_reducible assumption | with_reducible apply keeps_State_failOp | with_reducible apply keeps_State_spoil

theorem keeps_State_readSet {s0 : State} (s : State) (l : WorkList) (o : Op) (i : Nat) (h : Keeps s0 s) (r : WRead)
    (hr : s.readSet l o i = some r) : Keeps s0 r.s := by
  unfold State.readSet at hr
  dsimp only at hr
  split at hr
  · cases hr
  · rename_i a ha
    obtain ⟨p, -, rfl⟩ := Option.map_eq_some_iff.1 ha
    have h1 := fun q n => keeps_State_weightRead s o.core l.tenant q n h
    split at hr
    · split at hr
      · cases hr
      · rename_i b hb
        obtain ⟨p, -, rfl⟩ := Option.map_eq_some_iff.1 hb
        cases hr
        exact keeps_State_weightRead _ _ _ _ _ (h1 _ _)
    · cases hr
      exact h1 _ _

theorem keeps_shadowLoad {s0 : State} (k q : Nat) (s : State) (h : Keeps s0 s) : Keeps s0 (shadowLoad k q s) := by
  unfold shadowLoad
  split
  · exact h
  · split
    · exact h
    · split
      · exact h
      · dsimp only
        have h1 := fun id off => keeps_State_startOp s id off h
        split
        · exact keeps_State_mmFail _ _ _ _ (h1 _ _)
        · have h2 := keeps_State_readSet _ _ _ _ (h1 _ _) _ ‹_›
          split
          · exact keeps_State_mmFail _ _ _ _ h2
          · exact keeps_State_setCoreUnit _ _ _ h2

theorem keeps_execShadowLoad (core : Fin 64) (quad : Fin 4) (s : State) : ∃ t, execShadowLoad core quad s = .next t ∧
    Keeps s t := by
  refine ⟨_, rfl, ?_⟩
  repeat' first | with_reducible exact Keeps.refl _ | with_reducible apply keeps_shadowLoad

theorem keeps_State_mmZero {s0 : State} (s : State) (l : WorkList) (o : Op) (r : Nat) (hK : Keeps s0 s) : Keeps s0
    (State.mmZero s l o r).s := by
  unfold State.mmZero
  repeat' first | with_reducible assumption | with_reducible apply keeps_State_opRead | split

theorem keeps_TileRun_row {s0 : State} (x : TileRun) (l : WorkList) (o : Op) (w : WSet) (t : Tile) (r : Nat) (hx :
    Keeps s0 x.s) : Keeps s0 (TileRun.row x l o w t r).s := by
  unfold TileRun.row
  repeat' first
    | with_reducible assumption | with_reducible apply keeps_State_mmZero | dsimp only | split
    | with_reducible apply Keeps.memory | exact id | exact wrBytes_wf _ _ _

theorem keeps_State_runTile {s0 : State} (s : State) (l : WorkList) (o : Op) (w : WSet) (t : Tile) (hK : Keeps s0 s) :
    Keeps s0 (State.runTile s l o w t).s := by
  unfold State.runTile
  repeat' first
    | with_reducible assumption | with_reducible apply keeps_State_ctr | with_reducible apply keeps_State_mxSat
    | with_reducible apply keeps_TileRun_row | with_reducible apply Keeps.foldOn TileRun.s | intro _ _ _

theorem keeps_State_handOver {s0 : State} (s : State) (l : WorkList) (o : Op) (t : Tile) (hK : Keeps s0 s) : Keeps s0
    (State.handOver s l o t) := by
  unfold State.handOver
  repeat' first | with_reducible assumption | with_reducible apply keeps_State_setCoreUnit | dsimp only | split

theorem keeps_State_runTiles {s0 : State} (s : State) (l : WorkList) (o : Op) (w : WSet) (i : Nat) (j : Nat) (hK :
    Keeps s0 s) : Keeps s0 (State.runTiles s l o w i j).s := by
  unfold State.runTiles
  repeat' first
    | with_reducible assumption | with_reducible apply keeps_State_runTile | with_reducible apply keeps_State_handOver
    | with_reducible apply Keeps.foldOn TileRun.s | intro _ _ _ | dsimp only | split

theorem keeps_State_afterTiles {s0 : State} (s : State) (l : WorkList) (o : Op) (j : Nat) (hK : Keeps s0 s) : Keeps s0
    (State.afterTiles s l o j) := by
  unfold State.afterTiles
  repeat' first
    | with_reducible assumption | with_reducible apply keeps_State_setCoreUnit
    | with_reducible apply keeps_State_setOp | with_reducible apply keeps_State_ctr
    | with_reducible apply keeps_State_finishOp | with_reducible apply keeps_State_endFused | dsimp only | split

theorem keeps_State_streamSet {s0 : State} (s : State) (l : WorkList) (o : Op) (w : WSet) (hK : Keeps s0 s) : Keeps s0
    (State.streamSet s l o w) := by
  unfold State.streamSet
  repeat' first
    | with_reducible assumption | with_reducible apply keeps_State_mmFail | with_reducible apply keeps_State_runTiles
    | with_reducible apply keeps_State_afterTiles | dsimp only | split

theorem keeps_swap {s0 : State} (k : Nat) (q : Nat) (s : State) (hK : Keeps s0 s) : Keeps s0 (swap k q s) := by
  unfold swap
  repeat' first
    | with_reducible assumption | with_reducible apply keeps_State_setCoreUnit
    | with_reducible apply keeps_State_streamSet | dsimp only | split

theorem keeps_execSwap (core : Fin 64) (quad : Fin 4) (s : State) : ∃ t, execSwap core quad s = .next t ∧ Keeps s t :=
    by
  refine ⟨_, rfl, ?_⟩
  repeat' first | with_reducible exact Keeps.refl _ | with_reducible apply keeps_swap

theorem keeps_rowBroadcast {s0 : State} (k : Nat) (s : State) (h : Keeps s0 s) : Keeps s0 (rowBroadcast k s) := by
  unfold rowBroadcast
  split
  · exact h
  · split
    · exact h
    · split
      · exact h
      · dsimp only
        have h1 := fun id off => keeps_State_startOp s id off h
        split
        · exact keeps_State_mmFail _ _ _ _ (h1 _ _)
        · have h2 := keeps_State_readSet _ _ _ _ (h1 _ _) _ ‹_›
          split
          · exact keeps_State_mmFail _ _ _ _ h2
          · exact keeps_State_streamSet _ _ _ _ (keeps_State_setCoreUnit _ _ _ h2)

theorem keeps_execRowBroadcast (core : Fin 64) (s : State) : ∃ t, execRowBroadcast core s = .next t ∧ Keeps s t := by
  refine ⟨_, rfl, ?_⟩
  repeat' first | with_reducible exact Keeps.refl _ | with_reducible apply keeps_rowBroadcast

/-! ### Machine/Beds.lean -/

theorem keeps_State_setWin {s0 : State} (s : State) (k : Nat) (o : Nat) (bs : List Byte) (hK : Keeps s0 s) : Keeps s0
    (State.setWin s k o bs) := by
  unfold State.setWin
  repeat' first | with_reducible assumption | with_reducible apply Keeps.memory | exact id | exact wrBytes_wf _ _ _

theorem keeps_State_bedFinish {s0 : State} (s : State) (k : Nat) (fault : Bool) (notify : Bool) (ready : Bool) (hK :
    Keeps s0 s) : Keeps s0 (State.bedFinish s k fault notify ready) := by
  unfold State.bedFinish
  repeat' first
    | with_reducible assumption | with_reducible apply keeps_State_setReg | with_reducible apply keeps_State_setBit
    | with_reducible apply keeps_State_raise | dsimp only | split

theorem keeps_State_bankEnd {s0 : State} (s : State) (k : Nat) (c : BankCmd) (st : Nat) (count : Nat) (hK : Keeps s0
    s) : Keeps s0 (State.bankEnd s k c st count) := by
  unfold State.bankEnd
  repeat' first
    | with_reducible assumption | with_reducible apply keeps_State_setBed | with_reducible apply keeps_State_setWin
    | with_reducible apply keeps_State_bedFinish

theorem keeps_State_issueBank {s0 : State} (s : State) (k : Nat) (slot : Nat) (w0 : List Byte) (owner : Option (Nat ×
    Nat)) (tenant : Nat) (node : Nat) (hK : Keeps s0 s) : Keeps s0 (State.issueBank s k slot w0 owner tenant node) :=
    by
  unfold State.issueBank
  repeat' first
    | with_reducible assumption | with_reducible apply keeps_State_setBit | with_reducible apply keeps_State_setBed
    | with_reducible apply keeps_State_accessError | with_reducible apply keeps_State_ctr
    | with_reducible apply keeps_State_setWin | with_reducible apply keeps_State_bedFinish | dsimp only | split

theorem keeps_partialCmd {s0 : State} (k : Nat) (b : Nat) (slot : Nat) (w0 : DWord) (s : State) (hK : Keeps s0 s) :
    Keeps s0 (partialCmd k b slot w0 s) := by
  unfold partialCmd
  repeat' first
    | with_reducible assumption | with_reducible apply keeps_State_accessError
    | with_reducible apply keeps_State_discard | with_reducible apply keeps_State_issueBank | split

theorem keeps_execPartialCmd (core : Fin 64) (bank : Fin 128) (slot : Fin 2) (word0 : DWord) (s : State) : ∃ t,
    execPartialCmd core bank slot word0 s = .next t ∧ Keeps s t := by
  refine ⟨_, rfl, ?_⟩
  repeat' first | with_reducible exact Keeps.refl _ | with_reducible apply keeps_partialCmd

theorem keeps_rowJoin {s0 : State} (x : State × Bool × List Byte) (r : State × Decoded) (hx : Keeps s0 x.1) (hr :
    Keeps s0 r.1) : Keeps s0 (rowJoin x r).1 := by
  unfold rowJoin
  repeat' first | with_reducible assumption

theorem keeps_rowSector {s0 : State} (k b tenant : Nat) (x : State × Bool × List Byte) (i : Nat) (h : Keeps s0 x.1) :
    Keeps s0 (rowSector k b tenant x i).1 := by
  have join : ∀ r : State × Decoded, Keeps s0 r.1 → Keeps s0 (rowJoin x r).1 := fun _ k => k
  unfold rowSector
  exact join _ (keeps_State_readSector x.1 (bedAddr k b i) tenant h)

theorem keeps_State_readRow {s0 : State} (s : State) (k b row n tenant : Nat) (h : Keeps s0 s) :
    Keeps s0 (s.readRow k b row n tenant).1 := by
  have hf : ∀ x i, Keeps s0 (firstState x) → Keeps s0 (firstState (rowSector k b tenant x i)) :=
    fun x i hx => Keeps.first _ (keeps_rowSector k b tenant x i (Keeps.ofFirst x hx))
  unfold State.readRow
  exact Keeps.foldPair _ _ _ h hf

theorem keeps_BlocksRead_next {s0 : State} (x : BlocksRead) (k : Nat) (b : Nat) (tenant : Nat) (ws : List Byte) (i :
    Nat) (hx : Keeps s0 x.s) : Keeps s0 (BlocksRead.next x k b tenant ws i).s := by
  unfold BlocksRead.next
  repeat' first | with_reducible assumption | with_reducible apply keeps_State_readRow

theorem keeps_State_startBank {s0 : State} (s : State) (k : Nat) (c : BankCmd) (order : Nat) (hK : Keeps s0 s) : Keeps
    s0 (State.startBank s k c order) := by
  unfold State.startBank
  repeat' first
    | with_reducible assumption | with_reducible apply keeps_State_setBed | with_reducible apply keeps_BlocksRead_next
    | with_reducible apply Keeps.foldOn BlocksRead.s | intro _ _ _

theorem keeps_bankCommandStart {s0 : State} (k : Nat) (slot : Nat) (s : State) (hK : Keeps s0 s) : Keeps s0
    (bankCommandStart k slot s) := by
  unfold bankCommandStart
  repeat' first
    | with_reducible assumption | with_reducible apply keeps_State_setBed | with_reducible apply keeps_State_startBank
    | dsimp only | split

theorem keeps_execBankCommandStart (core : Fin 64) (bank : Fin 128) (slot : Fin 2) (s : State) : ∃ t,
    execBankCommandStart core bank slot s = .next t ∧ Keeps s t := by
  refine ⟨_, rfl, ?_⟩
  repeat' first | with_reducible exact Keeps.refl _ | with_reducible apply keeps_bankCommandStart

theorem keeps_State_followOn {s0 : State} (s : State) (k : Nat) (bank : Nat) (order : Nat) (hK : Keeps s0 s) : Keeps
    s0 (State.followOn s k bank order) := by
  unfold State.followOn
  repeat' first
    | with_reducible assumption | with_reducible apply keeps_State_setBed | with_reducible apply keeps_State_startBank
    | split

theorem keeps_State_bankDone {s0 : State} (s : State) (k : Nat) (c : BankCmd) (hK : Keeps s0 s) : Keeps s0
    (State.bankDone s k c) := by
  unfold State.bankDone
  repeat' first
    | with_reducible assumption | with_reducible apply keeps_State_countF | with_reducible apply keeps_State_ctr
    | with_reducible apply keeps_State_setWin | with_reducible apply keeps_State_bankEnd
    | with_reducible apply keeps_State_followOn | split | with_reducible apply Keeps.memory | exact id
    | exact zeroRange_wf _ _ _

theorem keeps_bankCommandDone {s0 : State} (k : Nat) (slot : Nat) (s : State) (hK : Keeps s0 s) : Keeps s0
    (bankCommandDone k slot s) := by
  unfold bankCommandDone
  repeat' first | with_reducible assumption | with_reducible apply keeps_State_bankDone | split

theorem keeps_computeActivation {s0 : State} (k : Nat) (s : State) (hK : Keeps s0 s) : Keeps s0 (computeActivation k
    s) := by
  unfold computeActivation
  repeat' first | with_reducible assumption | with_reducible apply keeps_State_setBed | dsimp only | split

theorem keeps_execComputeActivation (core : Fin 64) (s : State) : ∃ t, execComputeActivation core s = .next t ∧ Keeps
    s t := by
  refine ⟨_, rfl, ?_⟩
  repeat' first | with_reducible exact Keeps.refl _ | with_reducible apply keeps_computeActivation

theorem keeps_bankPause {s0 : State} (k : Nat) (s : State) (hK : Keeps s0 s) : Keeps s0 (bankPause k s) := by
  unfold bankPause
  repeat' first | with_reducible assumption | with_reducible apply keeps_State_setBed | dsimp only | split

theorem keeps_execBankPause (core : Fin 64) (s : State) : ∃ t, execBankPause core s = .next t ∧ Keeps s t := by
  refine ⟨_, rfl, ?_⟩
  repeat' first | with_reducible exact Keeps.refl _ | with_reducible apply keeps_bankPause

theorem keeps_bankResume {s0 : State} (k : Nat) (s : State) (hK : Keeps s0 s) : Keeps s0 (bankResume k s) := by
  unfold bankResume
  repeat' first | with_reducible assumption | with_reducible apply keeps_State_setBed | dsimp only | split

theorem keeps_execBankResume (core : Fin 64) (s : State) : ∃ t, execBankResume core s = .next t ∧ Keeps s t := by
  refine ⟨_, rfl, ?_⟩
  repeat' first | with_reducible exact Keeps.refl _ | with_reducible apply keeps_bankResume

theorem keeps_execBankOrdinaryAccess (_core : Fin 64) (_bank : Fin 128) (s : State) : ∃ t, execBankOrdinaryAccess
    _core _bank s = .next t ∧ Keeps s t := by
  refine ⟨_, rfl, ?_⟩
  repeat' first | with_reducible exact Keeps.refl _

theorem keeps_State_bedCancel {s0 : State} (s : State) (k : Nat) (hK : Keeps s0 s) : Keeps s0 (State.bedCancel s k) :=
    by
  unfold State.bedCancel
  repeat' first
    | with_reducible assumption | with_reducible apply keeps_State_bankEnd | with_reducible apply Keeps.fold
    | intro _ _ _

theorem keeps_State_bedClear {s0 : State} (s : State) (k : Nat) (hK : Keeps s0 s) : Keeps s0 (State.bedClear s k) :=
    by
  unfold State.bedClear
  repeat' first
    | with_reducible assumption | with_reducible apply keeps_State_bedCancel | dsimp only
    | with_reducible apply Keeps.memory | exact id | exact zeroRange_wf _ _ _

theorem keeps_State_bedCtlWrite {s0 : State} (s : State) (k : Nat) (v : DWord) (hK : Keeps s0 s) : Keeps s0
    (State.bedCtlWrite s k v) := by
  unfold State.bedCtlWrite
  repeat' first
    | with_reducible assumption | with_reducible apply keeps_State_plainWrite
    | with_reducible apply keeps_State_bedCancel | with_reducible apply keeps_State_bedClear | dsimp only | split

theorem keeps_execBedCtlCancel (core : Fin 64) (value : Word) (s : State) : ∃ t, execBedCtlCancel core value s = .next
    t ∧ Keeps s t := by
  refine ⟨_, rfl, ?_⟩
  repeat' first | with_reducible exact Keeps.refl _ | with_reducible apply keeps_State_bedCtlWrite | split

theorem keeps_execBedCtlClear (core : Fin 64) (value : Word) (s : State) : ∃ t, execBedCtlClear core value s = .next t
    ∧ Keeps s t := by
  refine ⟨_, rfl, ?_⟩
  repeat' first | with_reducible exact Keeps.refl _ | with_reducible apply keeps_State_bedCtlWrite | split

theorem keeps_State_bedModeWrite {s0 : State} (s : State) (k : Nat) (v : DWord) (hK : Keeps s0 s) : Keeps s0
    (State.bedModeWrite s k v) := by
  unfold State.bedModeWrite
  repeat' first
    | with_reducible assumption | with_reducible apply keeps_State_setBit
    | with_reducible apply keeps_State_plainWrite | with_reducible apply keeps_State_setBed | dsimp only | split

theorem keeps_execBedModeWrite (core : Fin 64) (value : Word) (s : State) : ∃ t, execBedModeWrite core value s = .next
    t ∧ Keeps s t := by
  refine ⟨_, rfl, ?_⟩
  repeat' first | with_reducible exact Keeps.refl _ | with_reducible apply keeps_State_bedModeWrite | split

theorem keeps_bedModeChangeComplete {s0 : State} (k : Nat) (s : State) (hK : Keeps s0 s) : Keeps s0
    (bedModeChangeComplete k s) := by
  unfold bedModeChangeComplete
  repeat' first
    | with_reducible assumption | with_reducible apply keeps_State_clrBit | with_reducible apply keeps_State_setBed
    | dsimp only | split

theorem keeps_execBedModeChangeComplete (core : Fin 64) (s : State) : ∃ t, execBedModeChangeComplete core s = .next t
    ∧ Keeps s t := by
  refine ⟨_, rfl, ?_⟩
  repeat' first | with_reducible exact Keeps.refl _ | with_reducible apply keeps_bedModeChangeComplete

theorem keeps_execBedLimitWrite (core : Fin 64) (which : Fin 3) (value : Word) (s : State) : ∃ t, execBedLimitWrite
    core which value s = .next t ∧ Keeps s t := by
  refine ⟨_, rfl, ?_⟩
  repeat' first | with_reducible exact Keeps.refl _ | with_reducible apply keeps_State_plainWrite | split

theorem keeps_State_answerMsg {s0 : State} (s : State) (m : Msg) (node : Nat) (op : Nat) (status : Nat) (len : Nat)
    (payload : List Byte) (hK : Keeps s0 s) : Keeps s0 (State.answerMsg s m node op status len payload) := by
  unfold State.answerMsg
  repeat' first | with_reducible assumption | with_reducible apply keeps_State_respond

theorem keeps_bedFence {s0 : State} (k : Nat) (m : Msg) (s : State) (hK : Keeps s0 s) : Keeps s0 (bedFence k m s) :=
    by
  unfold bedFence
  repeat' first
    | with_reducible assumption | with_reducible apply keeps_State_accessError
    | with_reducible apply keeps_State_answerMsg | split

theorem keeps_execBedFence (core : Fin 64) (m : Msg) (s : State) : ∃ t, execBedFence core m s = .next t ∧ Keeps s t :=
    by
  refine ⟨_, rfl, ?_⟩
  repeat' first | with_reducible exact Keeps.refl _ | with_reducible apply keeps_bedFence

theorem keeps_bankRefresh {s0 : State} (k : Nat) (b : Nat) (s : State) (hK : Keeps s0 s) : Keeps s0 (bankRefresh k b
    s) := by
  unfold bankRefresh
  repeat' first | with_reducible assumption | with_reducible apply keeps_State_setBed | dsimp only | split

theorem keeps_execBankRefresh (core : Fin 64) (bank : Fin 128) (s : State) : ∃ t, execBankRefresh core bank s = .next
    t ∧ Keeps s t := by
  refine ⟨_, rfl, ?_⟩
  repeat' first | with_reducible exact Keeps.refl _ | with_reducible apply keeps_bankRefresh

theorem keeps_refreshComplete {s0 : State} (k : Nat) (b : Nat) (s : State) (hK : Keeps s0 s) : Keeps s0
    (refreshComplete k b s) := by
  unfold refreshComplete
  repeat' first | with_reducible assumption | with_reducible apply keeps_State_setBed | dsimp only | split

theorem keeps_execRefreshComplete (core : Fin 64) (bank : Fin 128) (s : State) : ∃ t, execRefreshComplete core bank s
    = .next t ∧ Keeps s t := by
  refine ⟨_, rfl, ?_⟩
  repeat' first | with_reducible exact Keeps.refl _ | with_reducible apply keeps_refreshComplete

/-! ### Machine/Cache.lean -/

theorem keeps_State_runOnChain {s0 : State} (s : State) (l : WorkList) (o : Op) (run : State → WorkList → Op → State)
    (hK : Keeps s0 s) (hrun : ∀ s a0 a1, Keeps s0 s → Keeps s0 (run s a0 a1)) : Keeps s0 (State.runOnChain s l o run)
    := by
  unfold State.runOnChain
  repeat' first
    | with_reducible assumption | with_reducible apply keeps_State_setCoreUnit | with_reducible apply hrun
    | dsimp only | split

theorem keeps_State_internalReport {s0 : State} (s : State) (k : Nat) (sats : Nat) (made : Nat) (wr : Nat) (beats :
    Nat) (hK : Keeps s0 s) : Keeps s0 (State.internalReport s k sats made wr beats) := by
  unfold State.internalReport
  repeat' first
    | with_reducible assumption | with_reducible apply keeps_State_ctr | with_reducible apply keeps_State_chainReport

theorem keeps_State_endWith {s0 : State} (s : State) (l : WorkList) (o : Op) (steps : Nat) (aux : Nat) (status : Nat)
    (detail : Nat) (hK : Keeps s0 s) : Keeps s0 (State.endWith s l o steps aux status detail) := by
  unfold State.endWith
  repeat' first
    | with_reducible assumption | with_reducible apply keeps_State_finishOp
    | with_reducible apply keeps_State_addSteps

theorem keeps_State_readMap {s0 : State} (s : State) (k : Nat) (t : Nat) (ref : Nat) (right : Nat) (detail : Nat) (hK
    : Keeps s0 s) : Keeps s0 (State.readMap s k t ref right detail).s := by
  unfold State.readMap
  repeat' first | with_reducible assumption | with_reducible apply keeps_State_opRead | dsimp only | split

theorem keeps_State_runKvAppend {s0 : State} (s : State) (l : WorkList) (o : Op) (hK : Keeps s0 s) : Keeps s0
    (State.runKvAppend s l o) := by
  unfold State.runKvAppend
  repeat' first
    | with_reducible assumption | with_reducible apply keeps_State_ctr | with_reducible apply keeps_State_opRead
    | with_reducible apply keeps_State_opWrite | with_reducible apply keeps_State_startOp
    | with_reducible apply keeps_State_finishOp | with_reducible apply keeps_State_qsCount
    | with_reducible apply keeps_State_endWith | with_reducible apply keeps_State_readMap | dsimp only | split

theorem keeps_execKvAppend (list : Nat) (early : Option (List Byte)) (s : State) : ∃ t, execKvAppend list early s =
    .next t ∧ Keeps s t := by
  refine ⟨_, rfl, ?_⟩
  repeat' first
    | with_reducible assumption | with_reducible exact Keeps.refl _ | with_reducible apply keeps_State_issueOp
    | with_reducible apply keeps_State_runOnChain | with_reducible apply keeps_State_runKvAppend | intro _ _ _ _

theorem keeps_State_bankWrite {s0 : State} (s : State) (from_ : Nat) (tenant : Nat) (k : Nat) (b : Nat) (a : Nat) (bs
    : List Byte) (hK : Keeps s0 s) : Keeps s0 (State.bankWrite s from_ tenant k b a bs).1 := by
  unfold State.bankWrite
  repeat' first
    | with_reducible assumption | with_reducible apply keeps_State_ctr | with_reducible apply keeps_State_writeMem
    | with_reducible apply Keeps.foldFst | intro _ _ _

theorem keeps_ScatterRun_slot {s0 : State} (x : ScatterRun) (l : WorkList) (o : Op) (m : CtxMap) (pos : Nat) (head :
    Nat) (vec : List Byte) (hx : Keeps s0 x.s) : Keeps s0 (ScatterRun.slot x l o m pos head vec).s := by
  unfold ScatterRun.slot
  repeat' first
    | with_reducible assumption | with_reducible apply keeps_State_bankWrite
    | with_reducible apply Keeps.foldOn ScatterRun.s | intro _ _ _

theorem keeps_State_runKvScatter {s0 : State} (s : State) (l : WorkList) (o : Op) (hK : Keeps s0 s) : Keeps s0
    (State.runKvScatter s l o) := by
  unfold State.runKvScatter
  repeat' first
    | with_reducible assumption | with_reducible apply keeps_State_ctr | with_reducible apply keeps_State_opRead
    | with_reducible apply keeps_State_startOp | with_reducible apply keeps_State_finishOp
    | with_reducible apply keeps_State_endWith | with_reducible apply keeps_State_readMap
    | with_reducible apply keeps_ScatterRun_slot | with_reducible apply Keeps.foldOn ScatterRun.s | intro _ _ _
    | dsimp only | split

theorem keeps_execKvScatter (list : Nat) (early : Option (List Byte)) (s : State) : ∃ t, execKvScatter list early s =
    .next t ∧ Keeps s t := by
  refine ⟨_, rfl, ?_⟩
  repeat' first
    | with_reducible exact Keeps.refl _ | with_reducible apply keeps_State_issueOp
    | with_reducible apply keeps_State_runKvScatter

/-! ### Machine/BankAttend.lean -/

theorem keeps_BatchRead_entry {s0 : State} (x : BatchRead) (k : Nat) (t : Nat) (right : Nat) (layer : Nat) (fields :
    Entry → Bool) (i : Nat) (bs : List Byte) (hx : Keeps s0 x.s) : Keeps s0 (BatchRead.entry x k t right layer fields
    i bs).s := by
  unfold BatchRead.entry
  repeat' first | with_reducible assumption | with_reducible apply keeps_State_readMap | dsimp only | split

theorem keeps_State_readBatch {s0 : State} (s : State) (t : Nat) (o : Op) (right : Nat) (fields : Entry → Bool) (hK :
    Keeps s0 s) : Keeps s0 (State.readBatch s t o right fields).s := by
  unfold State.readBatch
  repeat' first
    | with_reducible assumption | with_reducible apply keeps_State_opRead | with_reducible apply keeps_BatchRead_entry
    | with_reducible apply Keeps.foldOn BatchRead.s | intro _ _ _ | dsimp only | split

theorem keeps_State_writeSet {s0 : State} (s : State) (l : WorkList) (o : Op) (p : SetPlan) (m : MemberPlan) (payload
    : Option (List Byte)) (st : Nat) (count : Nat) (hK : Keeps s0 s) : Keeps s0 (State.writeSet s l o p m payload st
    count).1 := by
  unfold State.writeSet
  repeat' first | with_reducible assumption | with_reducible apply keeps_State_opWrite | dsimp only | split

theorem keeps_State_disown {s0 : State} (s : State) (id : Nat) (off : Nat) (hK : Keeps s0 s) : Keeps s0 (State.disown
    s id off) := by
  unfold State.disown
  repeat' first | with_reducible assumption | dsimp only | with_reducible apply Keeps.other

theorem keeps_State_failBank {s0 : State} (s : State) (l : WorkList) (o : Op) (k : Option Nat) (status : Nat) (detail
    : Nat) (hK : Keeps s0 s) : Keeps s0 (State.failBank s l o k status detail) := by
  unfold State.failBank
  repeat' first
    | with_reducible assumption | with_reducible apply keeps_State_finishOp
    | with_reducible apply keeps_State_bedCancel | with_reducible apply keeps_State_disown | split

theorem keeps_State_closeMember {s0 : State} (s : State) (l : WorkList) (o : Op) (p : SetPlan) (m : MemberPlan) (r :
    MemberRun) (hK : Keeps s0 s) : Keeps s0 (State.closeMember s l o p m r).1 := by
  unfold State.closeMember
  repeat' first | with_reducible assumption | with_reducible apply keeps_State_writeSet

theorem keeps_State_openSet {s0 : State} (s : State) (l : WorkList) (o : Op) (p : SetPlan) (hK : Keeps s0 s) : Keeps
    s0 (State.openSet s l o p).1 := by
  unfold State.openSet
  repeat' first
    | with_reducible assumption | with_reducible apply keeps_State_closeMember | with_reducible apply Keeps.foldFst
    | intro _ _ _ | dsimp only | split

theorem keeps_State_nextSet {s0 : State} (s : State) (l : WorkList) (o : Op) (fuel : Nat) (h : Keeps s0 s) :
    Keeps s0 (s.nextSet l o fuel) := by
  induction fuel generalizing s o with
  | zero => exact h
  | succ n ih =>
    unfold State.nextSet
    split
    · exact keeps_State_finishOp _ _ _ _ _ (keeps_State_setOp _ _ _ h)
    · dsimp only
      split
      · exact keeps_State_failBank _ _ _ _ _ _ (keeps_State_setOp _ _ _ (keeps_State_openSet _ _ _ _ h))
      · split
        · exact ih _ _ (keeps_State_openSet _ _ _ _ h)
        · exact keeps_State_setOp _ _ _ (keeps_State_openSet _ _ _ _ h)

theorem keeps_State_issueOrderp {s0 : State} (s : State) (l : WorkList) (o : Op) (p : SetPlan) (k : Nat) (slot : Nat)
    (x : BankOrder) (hK : Keeps s0 s) : Keeps s0 (State.issueOrder' s l o p k slot x).1 := by
  unfold State.issueOrder'
  repeat' first
    | with_reducible assumption | with_reducible apply keeps_State_bumpFree | with_reducible apply keeps_State_opRead
    | with_reducible apply keeps_State_addSteps | with_reducible apply keeps_State_setWin
    | with_reducible apply keeps_State_issueBank | dsimp only | split

theorem keeps_State_pumpMember {s0 : State} (s : State) (id : Nat) (off : Nat) (i : Nat) (todo : List Nat) (hK : Keeps
    s0 s) : Keeps s0 (State.pumpMember s id off i todo) := by
  unfold State.pumpMember
  repeat' first
    | with_reducible assumption | with_reducible apply keeps_State_setOp | with_reducible apply keeps_State_failBank
    | with_reducible apply keeps_State_issueOrderp | with_reducible apply Keeps.fold | intro _ _ _ | dsimp only
    | split

theorem keeps_State_pumpOp {s0 : State} (s : State) (id : Nat) (off : Nat) (hK : Keeps s0 s) : Keeps s0 (State.pumpOp
    s id off) := by
  unfold State.pumpOp
  repeat' first
    | with_reducible assumption | with_reducible apply keeps_State_failBank
    | with_reducible apply keeps_State_pumpMember | with_reducible apply Keeps.fold | intro _ _ _ | split

theorem keeps_State_pumpBanks {s0 : State} (s : State) (hK : Keeps s0 s) : Keeps s0 (State.pumpBanks s) := by
  unfold State.pumpBanks
  repeat' first
    | with_reducible assumption | with_reducible apply keeps_State_pumpOp | with_reducible apply Keeps.fold
    | intro _ _ _

theorem keeps_State_busyHeaders {s0 : State} (s : State) (l : WorkList) (o : Op) (hK : Keeps s0 s) : Keeps s0
    (State.busyHeaders s l o).1 := by
  unfold State.busyHeaders
  repeat' first
    | with_reducible assumption | with_reducible apply keeps_State_writeSet | with_reducible apply Keeps.foldFst
    | intro _ _ _

theorem keeps_execBankAttend (list : Nat) (early : Option (List Byte)) (s : State) : ∃ t, execBankAttend list early s
    = .next t ∧ Keeps s t := by
  refine ⟨_, rfl, ?_⟩
  repeat' first
    | with_reducible assumption | with_reducible exact Keeps.refl _ | with_reducible apply keeps_State_setOp
    | with_reducible apply keeps_State_startOp | with_reducible apply keeps_State_issueOp
    | with_reducible apply keeps_State_readBatch | with_reducible apply keeps_State_failBank
    | with_reducible apply keeps_State_nextSet | with_reducible apply keeps_State_pumpBanks
    | with_reducible apply keeps_State_busyHeaders | intro _ _ _ _ | dsimp only | split

theorem keeps_State_foldDone {s0 : State} (s : State) (l : WorkList) (o : Op) (i : Nat) (k : Nat) (slot : Nat) (count
    : Nat) (hK : Keeps s0 s) : Keeps s0 (State.foldDone s l o i k slot count) := by
  unfold State.foldDone
  repeat' first
    | with_reducible assumption | with_reducible apply keeps_State_setOp
    | with_reducible apply keeps_State_internalReport | with_reducible apply keeps_State_failBank
    | with_reducible apply keeps_State_closeMember | with_reducible apply keeps_State_nextSet
    | with_reducible apply keeps_State_pumpBanks | dsimp only | split

theorem keeps_bankPartialFold {s0 : State} (k : Nat) (slot : Nat) (s : State) (hK : Keeps s0 s) : Keeps s0
    (bankPartialFold k slot s) := by
  unfold bankPartialFold
  repeat' first
    | with_reducible assumption | with_reducible apply keeps_State_writeSet
    | with_reducible apply keeps_State_failBank | with_reducible apply keeps_State_pumpBanks
    | with_reducible apply keeps_State_foldDone | dsimp only | split

theorem keeps_execBankCommandDone (core : Fin 64) (bank : Fin 128) (slot : Fin 2) (s : State) : ∃ t,
    execBankCommandDone core bank slot s = .next t ∧ Keeps s t := by
  refine ⟨_, rfl, ?_⟩
  repeat' first
    | with_reducible exact Keeps.refl _ | with_reducible apply keeps_bankCommandDone
    | with_reducible apply keeps_State_pumpBanks

theorem keeps_execOperationComplete (list : Nat) (offset : Nat) (s : State) : ∃ t, execOperationComplete list offset s
    = .next t ∧ Keeps s t := by
  refine ⟨_, rfl, ?_⟩
  repeat' first
    | with_reducible exact Keeps.refl _ | with_reducible apply keeps_operationComplete
    | with_reducible apply keeps_State_pumpBanks

theorem keeps_execTileBoundaryStop (list : Nat) (offset : Nat) (s : State) : ∃ t, execTileBoundaryStop list offset s =
    .next t ∧ Keeps s t := by
  refine ⟨_, rfl, ?_⟩
  repeat' first
    | with_reducible exact Keeps.refl _ | with_reducible apply keeps_State_setOp
    | with_reducible apply keeps_State_bumpFree | with_reducible apply keeps_tileBoundaryStop
    | with_reducible apply keeps_State_pumpBanks | split

theorem keeps_execBankPartialFold (core : Fin 64) (bank : Fin 128) (slot : Fin 2) (s : State) : ∃ t,
    execBankPartialFold core bank slot s = .next t ∧ Keeps s t := by
  refine ⟨_, rfl, ?_⟩
  repeat' first | with_reducible exact Keeps.refl _ | with_reducible apply keeps_bankPartialFold

theorem keeps_State_runMerge {s0 : State} (s : State) (l : WorkList) (o : Op) (hK : Keeps s0 s) : Keeps s0
    (State.runMerge s l o) := by
  unfold State.runMerge
  repeat' first
    | with_reducible assumption | with_reducible apply keeps_State_opRead | with_reducible apply keeps_State_opWrite
    | with_reducible apply keeps_State_startOp | with_reducible apply keeps_State_finishOp
    | with_reducible apply keeps_State_spoil | with_reducible apply keeps_State_internalReport
    | with_reducible apply keeps_State_endWith | with_reducible apply Keeps.foldOn SetsRead.s | intro _ _ _
    | dsimp only | split

theorem keeps_execMerge (list : Nat) (early : Option (List Byte)) (s : State) : ∃ t, execMerge list early s = .next t
    ∧ Keeps s t := by
  refine ⟨_, rfl, ?_⟩
  repeat' first
    | with_reducible assumption | with_reducible exact Keeps.refl _ | with_reducible apply keeps_State_issueOp
    | with_reducible apply keeps_State_runOnChain | with_reducible apply keeps_State_runMerge | intro _ _ _ _

/-! ### Machine/Attend.lean -/

theorem keeps_State_bankRead {s0 : State} (s : State) (from_ : Nat) (tenant : Nat) (k : Nat) (b : Nat) (a : Nat) (n :
    Nat) (hK : Keeps s0 s) : Keeps s0 (State.bankRead s from_ tenant k b a n).s := by
  unfold State.bankRead
  repeat' first
    | with_reducible assumption | with_reducible apply keeps_State_ctr | with_reducible apply keeps_State_readMem
    | with_reducible apply Keeps.foldOn MemRead.s | intro _ _ _

theorem keeps_TileRead_token {s0 : State} (x : TileRead) (l : WorkList) (o : Op) (e : EntryMaps) (h : Nat) (key :
    Bool) (pos : Nat) (hx : Keeps s0 x.s) : Keeps s0 (TileRead.token x l o e h key pos).s := by
  unfold TileRead.token
  repeat' first | with_reducible assumption | with_reducible apply keeps_State_bankRead

theorem keeps_State_kvTile {s0 : State} (s : State) (l : WorkList) (o : Op) (e : EntryMaps) (h : Nat) (span : Nat) (p0
    : Nat) (key : Bool) (hK : Keeps s0 s) : Keeps s0 (State.kvTile s l o e h span p0 key).s := by
  unfold State.kvTile
  repeat' first
    | with_reducible assumption | with_reducible apply keeps_TileRead_token
    | with_reducible apply Keeps.foldOn TileRead.s | intro _ _ _ | split

theorem keeps_AtRun_visit {s0 : State} (x : AtRun) (o : Op) (gs : List Stage) (j : Nat) (ks : List (List Word)) (vs :
    List (List Word)) (q : QTile) (hx : Keeps s0 x.s) : Keeps s0 (AtRun.visit x o gs j ks vs q).1.s := by
  unfold AtRun.visit
  repeat' first
    | with_reducible assumption | with_reducible apply Keeps.foldOn (fun y : AtRun × QTile => y.1.s) | intro _ _ _

theorem keeps_AtRun_step {s0 : State} (x : AtRun) (l : WorkList) (o : Op) (gs : List Stage) (j : Nat) (qs : List
    QTile) (hx : Keeps s0 x.s) : Keeps s0 (AtRun.step x l o gs j qs).1.s := by
  unfold AtRun.step
  repeat' first
    | with_reducible assumption | with_reducible apply keeps_State_kvTile | with_reducible apply keeps_AtRun_visit
    | with_reducible apply Keeps.foldOn (fun y : AtRun × List QTile => y.1.s) | intro _ _ _ | dsimp only | split

theorem keeps_AtRun_write {s0 : State} (x : AtRun) (l : WorkList) (o : Op) (q : QTile) (hx : Keeps s0 x.s) : Keeps s0
    (AtRun.write x l o q).s := by
  unfold AtRun.write
  repeat' first
    | with_reducible assumption | with_reducible apply keeps_State_opWrite | with_reducible apply Keeps.foldOn AtRun.s
    | intro _ _ _ | dsimp only | split

theorem keeps_AtRun_group {s0 : State} (x : AtRun) (l : WorkList) (o : Op) (gs : List Stage) (qs : List QTile)
    (h : Keeps s0 x.s) : Keeps s0 (x.group l o gs qs).s := by
  unfold AtRun.group
  split
  · exact h
  · dsimp only
    have h1 : ∀ is : List Nat,
        Keeps s0 (is.foldl (fun (y : AtRun × List QTile) j => y.1.step l o gs j y.2) (x, qs)).1.s := fun is =>
      Keeps.foldOn (fun y : AtRun × List QTile => y.1.s) _ _ _ h fun y j hy => keeps_AtRun_step _ _ _ _ _ _ hy
    split
    · exact h1 _
    · exact Keeps.foldOn AtRun.s _ _ _ (h1 _) fun y q hy => keeps_AtRun_write _ _ _ _ hy

theorem keeps_AtRun_empty {s0 : State} (x : AtRun) (l : WorkList) (o : Op) (e : EntryMaps) (hx : Keeps s0 x.s) : Keeps
    s0 (AtRun.empty x l o e).s := by
  unfold AtRun.empty
  repeat' first | with_reducible assumption | with_reducible apply keeps_State_opWrite | dsimp only | split

theorem keeps_State_atWork {s0 : State} (s : State) (l : WorkList) (o : Op) (es : List EntryMaps) (hK : Keeps s0 s) :
    Keeps s0 (State.atWork s l o es) := by
  unfold State.atWork
  repeat' first | with_reducible assumption | with_reducible apply keeps_State_fillUndefined | dsimp only | split

theorem keeps_State_atSpoil {s0 : State} (s : State) (l : WorkList) (o : Op) (es : List EntryMaps) (a : Acc) (hK :
    Keeps s0 s) : Keeps s0 (State.atSpoil s l o es a) := by
  unfold State.atSpoil
  repeat' first
    | with_reducible assumption | with_reducible apply keeps_State_spoil | with_reducible apply Keeps.fold
    | intro _ _ _

theorem keeps_State_runAttend {s0 : State} (s : State) (l : WorkList) (o : Op) (hK : Keeps s0 s) : Keeps s0
    (State.runAttend s l o) := by
  unfold State.runAttend
  repeat' first
    | with_reducible assumption | with_reducible apply keeps_State_setOp | with_reducible apply keeps_State_bumpFree
    | with_reducible apply keeps_State_ctr | with_reducible apply keeps_State_opRead
    | with_reducible apply keeps_State_startOp | with_reducible apply keeps_State_finishOp
    | with_reducible apply keeps_State_mxSat | with_reducible apply keeps_State_chainReport
    | with_reducible apply keeps_State_internalReport | with_reducible apply keeps_State_endWith
    | with_reducible apply keeps_State_readBatch | with_reducible apply keeps_AtRun_group
    | with_reducible apply keeps_AtRun_empty | with_reducible apply keeps_State_atWork
    | with_reducible apply keeps_State_atSpoil | with_reducible apply Keeps.foldOn AtRun.s | intro _ _ _ | dsimp only
    | split

theorem keeps_State_attendNow {s0 : State} (s : State) (l : WorkList) (o : Op) (hK : Keeps s0 s) : Keeps s0
    (State.attendNow s l o) := by
  unfold State.attendNow
  repeat' first
    | with_reducible assumption | with_reducible apply keeps_State_setCoreUnit
    | with_reducible apply keeps_State_runAttend | dsimp only | split

theorem keeps_execAttend (list : Nat) (early : Option (List Byte)) (s : State) : ∃ t, execAttend list early s = .next
    t ∧ Keeps s t := by
  refine ⟨_, rfl, ?_⟩
  repeat' first
    | with_reducible exact Keeps.refl _ | with_reducible apply keeps_State_issueOp
    | with_reducible apply keeps_State_attendNow

/-! ### Machine/Mover.lean -/

theorem keeps_State_copyAway {s0 : State} (s : State) (l : WorkList) (o : Op) (data : List Byte) (hK : Keeps s0 s) :
    Keeps s0 (State.copyAway s l o data) := by
  unfold State.copyAway
  repeat' first
    | with_reducible assumption | with_reducible apply keeps_State_sendOut | with_reducible apply keeps_State_finishOp
    | with_reducible apply keeps_State_request | with_reducible apply Keeps.foldFst | intro _ _ _ | dsimp only | split
    | with_reducible apply Keeps.other

theorem keeps_State_copyHere {s0 : State} (s : State) (l : WorkList) (o : Op) (data : List Byte) (hK : Keeps s0 s) :
    Keeps s0 (State.copyHere s l o data) := by
  unfold State.copyHere
  repeat' first
    | with_reducible assumption | with_reducible apply keeps_State_opWrite
    | with_reducible apply keeps_State_fillUndefined | with_reducible apply keeps_State_finishOp
    | with_reducible apply Keeps.fold | intro _ _ _ | dsimp only | split

theorem keeps_State_runCopy {s0 : State} (s : State) (l : WorkList) (o : Op) (hK : Keeps s0 s) : Keeps s0
    (State.runCopy s l o) := by
  unfold State.runCopy
  repeat' first
    | with_reducible assumption | with_reducible apply keeps_State_bumpFree | with_reducible apply keeps_State_ctr
    | with_reducible apply keeps_State_opRead | with_reducible apply keeps_State_opWrite
    | with_reducible apply keeps_State_startOp | with_reducible apply keeps_State_finishOp
    | with_reducible apply keeps_State_addSteps | with_reducible apply keeps_State_spoil
    | with_reducible apply keeps_State_copyAway | with_reducible apply keeps_State_copyHere | dsimp only | split

theorem keeps_execCopy (list : Nat) (early : Option (List Byte)) (s : State) : ∃ t, execCopy list early s = .next t ∧
    Keeps s t := by
  refine ⟨_, rfl, ?_⟩
  repeat' first
    | with_reducible exact Keeps.refl _ | with_reducible apply keeps_State_issueOp
    | with_reducible apply keeps_State_runCopy

theorem keeps_State_runGather {s0 : State} (s : State) (l : WorkList) (o : Op) (hK : Keeps s0 s) : Keeps s0
    (State.runGather s l o) := by
  unfold State.runGather
  repeat' first
    | with_reducible assumption | with_reducible apply keeps_State_bumpFree | with_reducible apply keeps_State_ctr
    | with_reducible apply keeps_State_opRead | with_reducible apply keeps_State_opWrite
    | with_reducible apply keeps_State_startOp | with_reducible apply keeps_State_finishOp
    | with_reducible apply keeps_State_addSteps | with_reducible apply keeps_State_spoil
    | with_reducible apply Keeps.foldFst | with_reducible apply Keeps.foldOn RowsRead.s | intro _ _ _ | dsimp only
    | split

theorem keeps_execGather (list : Nat) (early : Option (List Byte)) (s : State) : ∃ t, execGather list early s = .next
    t ∧ Keeps s t := by
  refine ⟨_, rfl, ?_⟩
  repeat' first
    | with_reducible exact Keeps.refl _ | with_reducible apply keeps_State_issueOp
    | with_reducible apply keeps_State_runGather

theorem keeps_State_runDigest {s0 : State} (s : State) (l : WorkList) (o : Op) (hK : Keeps s0 s) : Keeps s0
    (State.runDigest s l o) := by
  unfold State.runDigest
  repeat' first
    | with_reducible assumption | with_reducible apply keeps_State_setOp | with_reducible apply keeps_State_ctr
    | with_reducible apply keeps_State_opRead | with_reducible apply keeps_State_startOp
    | with_reducible apply keeps_State_finishOp | with_reducible apply keeps_State_addSteps | dsimp only | split

theorem keeps_execDigestOp (list : Nat) (early : Option (List Byte)) (s : State) : ∃ t, execDigestOp list early s =
    .next t ∧ Keeps s t := by
  refine ⟨_, rfl, ?_⟩
  repeat' first
    | with_reducible exact Keeps.refl _ | with_reducible apply keeps_State_issueOp
    | with_reducible apply keeps_State_runDigest

theorem keeps_State_runSample {s0 : State} (s : State) (l : WorkList) (o : Op) (hK : Keeps s0 s) : Keeps s0
    (State.runSample s l o) := by
  unfold State.runSample
  repeat' first
    | with_reducible assumption | with_reducible apply keeps_State_opRead | with_reducible apply keeps_State_opWrite
    | with_reducible apply keeps_State_startOp | with_reducible apply keeps_State_finishOp
    | with_reducible apply keeps_State_spoil | with_reducible apply keeps_State_internalReport
    | with_reducible apply keeps_State_endWith | dsimp only | split

theorem keeps_execSample (list : Nat) (early : Option (List Byte)) (s : State) : ∃ t, execSample list early s = .next
    t ∧ Keeps s t := by
  refine ⟨_, rfl, ?_⟩
  repeat' first
    | with_reducible assumption | with_reducible exact Keeps.refl _ | with_reducible apply keeps_State_setOp
    | with_reducible apply keeps_State_issueOp | with_reducible apply keeps_State_runOnChain
    | with_reducible apply keeps_State_runSample | intro _ _ _ _

theorem keeps_State_runInternal {s0 : State} (s : State) (l : WorkList) (o : Op) (hK : Keeps s0 s) : Keeps s0
    (State.runInternal s l o) := by
  unfold State.runInternal
  repeat' first
    | with_reducible assumption | with_reducible apply keeps_State_runKvAppend
    | with_reducible apply keeps_State_runMerge | with_reducible apply keeps_State_runAttend
    | with_reducible apply keeps_State_runSample | split

theorem keeps_chainTurn {s0 : State} (k : Nat) (s : State) (hK : Keeps s0 s) : Keeps s0 (chainTurn k s) := by
  unfold chainTurn
  repeat' first
    | with_reducible assumption | with_reducible apply keeps_State_dropOp | with_reducible apply keeps_vchainBeat
    | with_reducible apply keeps_State_runInternal | split

theorem keeps_execVchainBeat (core : Fin 64) (s : State) : ∃ t, execVchainBeat core s = .next t ∧ Keeps s t := by
  refine ⟨_, rfl, ?_⟩
  repeat' first | with_reducible exact Keeps.refl _ | with_reducible apply keeps_chainTurn

theorem keeps_State_requeue {s0 : State} (s : State) (l : WorkList) (o : Op) (hK : Keeps s0 s) : Keeps s0
    (State.requeue s l o) := by
  unfold State.requeue
  repeat' first
    | with_reducible assumption | with_reducible apply keeps_State_startOp
    | with_reducible apply keeps_State_queueVchain | with_reducible apply keeps_State_queueMatmul
    | with_reducible apply keeps_State_runOnChain | with_reducible apply keeps_State_runKvAppend
    | with_reducible apply keeps_State_pumpBanks | with_reducible apply keeps_State_runMerge
    | with_reducible apply keeps_State_attendNow | with_reducible apply keeps_State_runSample | split

theorem keeps_execListResume (list : Nat) (s : State) : ∃ t, execListResume list s = .next t ∧ Keeps s t := by
  refine ⟨_, rfl, ?_⟩
  repeat' first
    | with_reducible exact Keeps.refl _ | with_reducible apply keeps_resumeList
    | with_reducible apply keeps_State_requeue

end Sys2Proof.Machine
end

