-- ==== Sys2Proof/Laws/KeepsDevice.lean ====
section
/-! SUPPORT. The same for the scrubbers, guests, boot, tenants, scheduling, observation, accesses and the fabric. -/

namespace Sys2Proof.Machine

/-! ### Machine/Scrub.lean -/

theorem keeps_execStackChannelFailureReport (stack : Fin 12) (channel : Fin 16) (s : State) : ∃ t,
    execStackChannelFailureReport stack channel s = .next t ∧ Keeps s t := by
  refine ⟨_, rfl, ?_⟩
  repeat' first | with_reducible exact Keeps.refl _ | with_reducible apply keeps_State_channelFail | split

theorem keeps_execChannelPhyTimeout (stack : Fin 12) (channel : Fin 16) (s : State) : ∃ t, execChannelPhyTimeout stack
    channel s = .next t ∧ Keeps s t := by
  refine ⟨_, rfl, ?_⟩
  repeat' first | with_reducible exact Keeps.refl _ | with_reducible apply keeps_State_channelFail | split

theorem keeps_State_setScrubbed {s0 : State} (s : State) (u : ScrubUnit) (x : Channel) (hK : Keeps s0 s) : Keeps s0
    (State.setScrubbed s u x) := by
  unfold State.setScrubbed
  repeat' first
    | with_reducible assumption | with_reducible apply keeps_State_setBed | with_reducible apply keeps_State_setStack
    | split

theorem keeps_State_scrubSector {s0 : State} (s : State) (a : Nat) (hK : Keeps s0 s) : Keeps s0 (State.scrubSector s
    a) := by
  unfold State.scrubSector
  repeat' first
    | with_reducible assumption | with_reducible apply keeps_State_notify
    | with_reducible apply keeps_State_countOutcome | with_reducible apply keeps_State_dataLoss
    | with_reducible apply keeps_State_readSector | with_reducible apply keeps_State_storePoison
    | with_reducible apply keeps_State_storeRaw | dsimp only | split

theorem keeps_scrubRead {s0 : State} (u : ScrubUnit) (s : State) (hK : Keeps s0 s) : Keeps s0 (scrubRead u s) := by
  unfold scrubRead
  repeat' first
    | with_reducible assumption | with_reducible apply keeps_State_ctr | with_reducible apply keeps_State_setScrubbed
    | with_reducible apply keeps_State_scrubSector | dsimp only | split

theorem keeps_execScrubRead (unit : ScrubUnit) (s : State) : ∃ t, execScrubRead unit s = .next t ∧ Keeps s t := by
  refine ⟨_, rfl, ?_⟩
  repeat' first | with_reducible exact Keeps.refl _ | with_reducible apply keeps_scrubRead

theorem keeps_State_setLap {s0 : State} (s : State) (m : ScrubMem) (x : ScrubLap) (hK : Keeps s0 s) : Keeps s0
    (State.setLap s m x) := by
  unfold State.setLap
  repeat' first
    | with_reducible assumption | with_reducible apply keeps_State_setBed | with_reducible apply keeps_State_setStack
    | dsimp only | split

theorem keeps_scrubLapEnd {s0 : State} (m : ScrubMem) (s : State) (hK : Keeps s0 s) : Keeps s0 (scrubLapEnd m s) := by
  unfold scrubLapEnd
  repeat' first
    | with_reducible assumption | with_reducible apply keeps_State_setReg
    | with_reducible apply keeps_State_setScrubbed | with_reducible apply keeps_State_setLap
    | with_reducible apply Keeps.fold | intro _ _ _ | dsimp only | split

theorem keeps_execScrubLapEnd (unit : ScrubMem) (s : State) : ∃ t, execScrubLapEnd unit s = .next t ∧ Keeps s t := by
  refine ⟨_, rfl, ?_⟩
  repeat' first | with_reducible exact Keeps.refl _ | with_reducible apply keeps_scrubLapEnd

theorem keeps_scrubLate {s0 : State} (m : ScrubMem) (s : State) (hK : Keeps s0 s) : Keeps s0 (scrubLate m s) := by
  unfold scrubLate
  repeat' first
    | with_reducible assumption | with_reducible apply keeps_State_setBit | with_reducible apply keeps_State_log
    | with_reducible apply keeps_State_raise | with_reducible apply keeps_State_setLap | dsimp only | split

theorem keeps_execScrubLate (unit : ScrubMem) (s : State) : ∃ t, execScrubLate unit s = .next t ∧ Keeps s t := by
  refine ⟨_, rfl, ?_⟩
  repeat' first | with_reducible exact Keeps.refl _ | with_reducible apply keeps_scrubLate

theorem keeps_stackTempRead {s0 : State} (n : Nat) (temp : Nat) (critical : Bool) (s : State) (hK : Keeps s0 s) :
    Keeps s0 (stackTempRead n temp critical s) := by
  unfold stackTempRead
  repeat' first
    | with_reducible assumption | with_reducible apply keeps_State_setF | with_reducible apply keeps_State_setBit
    | with_reducible apply keeps_State_setStack | with_reducible apply keeps_State_raise
    | with_reducible apply keeps_State_enterHardpan | dsimp only | split

theorem keeps_execStackTempRead (stack : Fin 12) (temp : Byte) (critical : Bool) (s : State) : ∃ t, execStackTempRead
    stack temp critical s = .next t ∧ Keeps s t := by
  refine ⟨_, rfl, ?_⟩
  repeat' first | with_reducible exact Keeps.refl _ | with_reducible apply keeps_stackTempRead

theorem keeps_stackHotClear {s0 : State} (n : Nat) (s : State) (hK : Keeps s0 s) : Keeps s0 (stackHotClear n s) := by
  unfold stackHotClear
  repeat' first | with_reducible assumption | with_reducible apply keeps_State_clrBit | dsimp only | split

theorem keeps_execStackHotClear (stack : Fin 12) (s : State) : ∃ t, execStackHotClear stack s = .next t ∧ Keeps s t :=
    by
  refine ⟨_, rfl, ?_⟩
  repeat' first | with_reducible exact Keeps.refl _ | with_reducible apply keeps_stackHotClear

/-! ### Machine/Guest.lean -/

theorem keeps_State_setGuestState {s0 : State} (s : State) (g : Nat) (v : Nat) (hK : Keeps s0 s) : Keeps s0
    (State.setGuestState s g v) := by
  unfold State.setGuestState
  repeat' first | with_reducible assumption | with_reducible apply keeps_State_setF

theorem keeps_State_guestTrain {s0 : State} (s : State) (g : Nat) (hK : Keeps s0 s) : Keeps s0 (State.guestTrain s g)
    := by
  unfold State.guestTrain
  repeat' first
    | with_reducible assumption | with_reducible apply keeps_State_setReg | with_reducible apply keeps_State_clrBit
    | with_reducible apply keeps_State_setGuest | with_reducible apply Keeps.fold | intro _ _ _ | dsimp only | split

theorem keeps_guestTrainingTimeout {s0 : State} (g : Nat) (s : State) (hK : Keeps s0 s) : Keeps s0
    (guestTrainingTimeout g s) := by
  unfold guestTrainingTimeout
  repeat' first
    | with_reducible assumption | with_reducible apply keeps_State_setGuest
    | with_reducible apply keeps_State_setGuestState | dsimp only | split

theorem keeps_execGuestTrainingTimeout (guest : Fin 2) (s : State) : ∃ t, execGuestTrainingTimeout guest s = .next t ∧
    Keeps s t := by
  refine ⟨_, rfl, ?_⟩
  repeat' first | with_reducible exact Keeps.refl _ | with_reducible apply keeps_guestTrainingTimeout

theorem keeps_State_showCap {s0 : State} (s : State) (r : Nat → Reg) (bs : List Byte) (hK : Keeps s0 s) : Keeps s0
    (State.showCap s r bs) := by
  unfold State.showCap
  repeat' first
    | with_reducible assumption | with_reducible apply keeps_State_setReg | with_reducible apply Keeps.fold
    | intro _ _ _

theorem keeps_guestLinkUp {s0 : State} (g : Nat) (rate : Nat) (x64 : Bool) (s : State) (hK : Keeps s0 s) : Keeps s0
    (guestLinkUp g rate x64 s) := by
  unfold guestLinkUp
  repeat' first
    | with_reducible assumption | with_reducible apply keeps_State_setF | with_reducible apply keeps_State_setGuest
    | with_reducible apply keeps_State_emit | with_reducible apply keeps_State_showCap | dsimp only | split
    | with_reducible apply Keeps.other

theorem keeps_execGuestLinkUp (guest : Fin 2) (rate : BitVec 3) (x64 : Bool) (s : State) : ∃ t, execGuestLinkUp guest
    rate x64 s = .next t ∧ Keeps s t := by
  refine ⟨_, rfl, ?_⟩
  repeat' first | with_reducible exact Keeps.refl _ | with_reducible apply keeps_guestLinkUp

theorem keeps_capArrives {s0 : State} (g : Nat) (bytes : List Byte) (s : State) (hK : Keeps s0 s) : Keeps s0
    (capArrives g bytes s) := by
  unfold capArrives
  repeat' first
    | with_reducible assumption | with_reducible apply keeps_State_setF | with_reducible apply keeps_State_setGuest
    | with_reducible apply keeps_State_setGuestState | with_reducible apply keeps_State_showCap | dsimp only | split

theorem keeps_execCap (guest : Fin 2) (bytes : List Byte) (s : State) : ∃ t, execCap guest bytes s = .next t ∧ Keeps s
    t := by
  refine ⟨_, rfl, ?_⟩
  repeat' first | with_reducible exact Keeps.refl _ | with_reducible apply keeps_capArrives

theorem keeps_State_reportGuest {s0 : State} (s : State) (g : Nat) (hK : Keeps s0 s) : Keeps s0 (State.reportGuest s
    g) := by
  unfold State.reportGuest
  repeat' first | with_reducible assumption | split | with_reducible apply Keeps.other

theorem keeps_State_gctlFields {s0 : State} (s : State) (g : Nat) (v : Nat) (hK : Keeps s0 s) : Keeps s0
    (State.gctlFields s g v) := by
  unfold State.gctlFields
  repeat' first
    | with_reducible assumption | with_reducible apply keeps_State_setF
    | with_reducible apply keeps_State_setGuestState | with_reducible apply keeps_State_reportGuest | dsimp only
    | split

theorem keeps_execGuestEnable (guest : Fin 2) (tenant : BitVec 10) (s : State) : ∃ t, execGuestEnable guest tenant s =
    .next t ∧ Keeps s t := by
  refine ⟨_, rfl, ?_⟩
  repeat' first | with_reducible exact Keeps.refl _ | with_reducible apply keeps_State_gctlFields

theorem keeps_State_guestPump {s0 : State} (s : State) (g c fuel : Nat) (h : Keeps s0 s) :
    Keeps s0 (s.guestPump g c fuel) := by
  induction fuel generalizing s with
  | zero => exact h
  | succ n ih =>
    unfold State.guestPump
    dsimp only
    split
    · exact h
    · split
      · exact h
      · exact ih _ (keeps_State_emit _ _ (keeps_State_setGuest _ _ _ h))

theorem keeps_State_guestDrop {s0 : State} (s : State) (g : Nat) (m : Msg) (hK : Keeps s0 s) : Keeps s0
    (State.guestDrop s g m) := by
  unfold State.guestDrop
  repeat' first
    | with_reducible assumption | with_reducible apply keeps_State_setBit | with_reducible apply keeps_State_countF
    | with_reducible apply keeps_State_log | with_reducible apply keeps_State_answerLost | dsimp only | split

theorem keeps_State_toGuest {s0 : State} (s : State) (g : Nat) (m : Msg) (hK : Keeps s0 s) : Keeps s0 (State.toGuest s
    g m) := by
  unfold State.toGuest
  repeat' first
    | with_reducible assumption | with_reducible apply keeps_State_setGuest
    | with_reducible apply keeps_State_guestPump | with_reducible apply keeps_State_guestDrop | dsimp only | split

theorem keeps_State_guestAnswered {s0 : State} (s : State) (g : Nat) (m : Msg) (hK : Keeps s0 s) : Keeps s0
    (State.guestAnswered s g m) := by
  unfold State.guestAnswered
  repeat' first | with_reducible assumption | with_reducible apply keeps_State_setGuest

theorem keeps_creditReturn {s0 : State} (g : Nat) (c : Nat) (n : Nat) (s : State) (hK : Keeps s0 s) : Keeps s0
    (creditReturn g c n s) := by
  unfold creditReturn
  repeat' first
    | with_reducible assumption | with_reducible apply keeps_State_setGuest
    | with_reducible apply keeps_State_guestPump | dsimp only | split

theorem keeps_execCredit (guest : Fin 2) (cls : BitVec 2) (count : BitVec 16) (s : State) : ∃ t, execCredit guest cls
    count s = .next t ∧ Keeps s t := by
  refine ⟨_, rfl, ?_⟩
  repeat' first | with_reducible exact Keeps.refl _ | with_reducible apply keeps_creditReturn

theorem keeps_State_guestLost {s0 : State} (s : State) (g : Nat) (hK : Keeps s0 s) : Keeps s0 (State.guestLost s g) :=
    by
  unfold State.guestLost
  repeat' first
    | with_reducible assumption | with_reducible apply keeps_State_setBit | with_reducible apply keeps_State_clrBit
    | with_reducible apply keeps_State_setGuest | with_reducible apply keeps_State_raise
    | with_reducible apply keeps_State_setGuestState | with_reducible apply keeps_State_guestDrop
    | with_reducible apply Keeps.fold | intro _ _ _ | dsimp only | split | with_reducible apply Keeps.other

theorem keeps_guestLinkDown {s0 : State} (g : Nat) (s : State) (hK : Keeps s0 s) : Keeps s0 (guestLinkDown g s) := by
  unfold guestLinkDown
  repeat' first | with_reducible assumption | with_reducible apply keeps_State_guestLost | split

theorem keeps_execGuestLinkDown (guest : Fin 2) (s : State) : ∃ t, execGuestLinkDown guest s = .next t ∧ Keeps s t :=
    by
  refine ⟨_, rfl, ?_⟩
  repeat' first | with_reducible exact Keeps.refl _ | with_reducible apply keeps_guestLinkDown

theorem keeps_resetLink {s0 : State} (g : Nat) (s : State) (hK : Keeps s0 s) : Keeps s0 (resetLink g s) := by
  unfold resetLink
  repeat' first
    | with_reducible assumption | with_reducible apply keeps_State_guestTrain
    | with_reducible apply keeps_State_guestLost | split

theorem keeps_execResetLink (guest : Fin 2) (s : State) : ∃ t, execResetLink guest s = .next t ∧ Keeps s t := by
  refine ⟨_, rfl, ?_⟩
  repeat' first | with_reducible exact Keeps.refl _ | with_reducible apply keeps_resetLink

theorem keeps_gctlWrite {s0 : State} (g : Nat) (v : Nat) (s : State) (hK : Keeps s0 s) : Keeps s0 (gctlWrite g v s) :=
    by
  unfold gctlWrite
  repeat' first
    | with_reducible assumption | with_reducible apply keeps_State_gctlFields | with_reducible apply keeps_resetLink
    | dsimp only | split

/-! ### Machine/Boot.lean -/

theorem keeps_State_bootAdvance {s0 : State} (s : State) (cmd : Nat) (code : Nat) (hK : Keeps s0 s) : Keeps s0
    (State.bootAdvance s cmd code) := by
  unfold State.bootAdvance
  repeat' first | with_reducible assumption | with_reducible apply keeps_State_setBwF | split

theorem keeps_State_bootEnd {s0 : State} (s : State) (cmd : Nat) (code : Nat) (detail : Nat) (since : Nat) (hK : Keeps
    s0 s) : Keeps s0 (State.bootEnd s cmd code detail since) := by
  unfold State.bootEnd
  repeat' first
    | with_reducible assumption | with_reducible apply keeps_State_setBwF
    | with_reducible apply keeps_State_bootAdvance | dsimp only | with_reducible apply Keeps.other

theorem keeps_State_bootCommand {s0 : State} (s : State) (cmd : Nat) (work : State → BootWork) (hK : Keeps s0 s)
    (hwork : ∀ s, Keeps s0 s → Keeps s0 (work s).s) : Keeps s0 (State.bootCommand s cmd work) := by
  unfold State.bootCommand
  repeat' first
    | with_reducible assumption | with_reducible apply keeps_State_setBwF | with_reducible apply keeps_State_bootEnd
    | with_reducible apply hwork | dsimp only | split | with_reducible apply Keeps.other

theorem keeps_execReservedBootCommand (code : Byte) (s : State) : ∃ t, execReservedBootCommand code s = .next t ∧
    Keeps s t := by
  refine ⟨_, rfl, ?_⟩
  repeat' first
    | with_reducible exact Keeps.refl _ | with_reducible apply keeps_State_setBwF
    | with_reducible apply keeps_State_bootEnd | dsimp only | split

theorem keeps_fusesWork {s0 : State} (s : State) (hK : Keeps s0 s) : Keeps s0 (fusesWork s).s := by
  unfold fusesWork
  repeat' first
    | with_reducible assumption | with_reducible apply keeps_State_setBwF | dsimp only | split
    | with_reducible apply Keeps.other

theorem keeps_execFuses (s : State) : ∃ t, execFuses s = .next t ∧ Keeps s t := by
  refine ⟨_, rfl, ?_⟩
  repeat' first
    | with_reducible exact Keeps.refl _ | with_reducible apply keeps_State_bootCommand
    | with_reducible apply keeps_fusesWork

theorem keeps_State_raiseIo {s0 : State} (s : State) (up : Nat) (hK : Keeps s0 s) : Keeps s0 (State.raiseIo s up).1 :=
    by
  unfold State.raiseIo
  repeat' first
    | with_reducible assumption | with_reducible apply keeps_State_setF | with_reducible apply Keeps.fold
    | intro _ _ _

theorem keeps_State_rampTower {s0 : State} (s : State) (t : Nat) (c : RampCause) (hK : Keeps s0 s) : Keeps s0
    (State.rampTower s t c) := by
  unfold State.rampTower
  repeat' first
    | with_reducible assumption | with_reducible apply keeps_State_setF | with_reducible apply keeps_State_setBit
    | with_reducible apply keeps_State_setDom | with_reducible apply keeps_State_startRamp
    | with_reducible apply keeps_State_rampDone | with_reducible apply keeps_State_rampFail | dsimp only | split

theorem keeps_State_keepRegulators {s0 : State} (s s1 : State) (hK : Keeps s0 s) (hs1 : Keeps s0 s1) :
    Keeps s0 (s.keepRegulators s1) where
  fuses := hK.fuses
  pending := hK.pending
  mem w := hK.mem w
  regs w := by
    have a := hK.regs w
    have b := hs1.regs w
    have e : s1.fuses = s.fuses := hs1.fuses.trans hK.fuses.symm
    simp only [State.regsWf, State.keepRegulators, Bool.and_eq_true, e] at a b ⊢
    refine ⟨?_, a.2⟩
    have : ∀ (l : List Nat) (g : SMap DWord), mapWf (regReset s.fuses) g = true →
        mapWf (regReset s.fuses) (l.foldl (fun g x =>
          put (regReset s.fuses) g (Reg.vregCtl (8 + x)).off (s.reg (.vregCtl (8 + x)))) g) = true := by
      intro l
      induction l with
      | nil => exact fun _ h => h
      | cons x l ih => exact fun g h => ih _ (mapWf_put _ _ _ _ h)
    exact this _ _ b.1

theorem keeps_State_powerEnd {s0 : State} (s s1 : State) (named : List Nat) (hK : Keeps s0 s) (hs1 : Keeps s0 s1) :
    Keeps s0 (s.powerEnd s1 named).s := by
  have ite : ∀ (c : Prop) [Decidable c] (a b : BootWork), Keeps s0 a.s → Keeps s0 b.s → Keeps s0 (if c then a else b).s := by
    intro c _ a b ha hb
    split
    · exact ha
    · exact hb
  unfold State.powerEnd
  exact ite _ _ _ (keeps_State_keepRegulators _ _ hK hs1) (ite _ _ _ hs1 hs1)

theorem keeps_powerWork {s0 : State} (ioUp : Nat) (ramps : List RampCause) (s : State) (hK : Keeps s0 s) :
    Keeps s0 (powerWork ioUp ramps s).s := by
  have hio : Keeps s0 (if s.fired then (s, none) else s.raiseIo ioUp : State × Option Nat).1 := by
    split
    · exact hK
    · exact keeps_State_raiseIo _ _ hK
  unfold powerWork
  dsimp only
  generalize (if s.fired then (s, none) else s.raiseIo ioUp : State × Option Nat) = io at hio ⊢
  split
  · exact hio
  · exact keeps_State_powerEnd _ _ _ hK (Keeps.fold _ _ _ hio fun z e h => keeps_State_rampTower z e.2 _ h)

theorem keeps_execPower (ioUp : BitVec 4) (ramps : List RampCause) (s : State) : ∃ t, execPower ioUp ramps s = .next t
    ∧ Keeps s t := by
  refine ⟨_, rfl, ?_⟩
  repeat' first
    | with_reducible exact Keeps.refl _ | with_reducible apply keeps_State_bootCommand
    | with_reducible apply keeps_powerWork

theorem keeps_State_mapOut {s0 : State} (s : State) (n : Nat) (c : Nat) (hK : Keeps s0 s) : Keeps s0 (State.mapOut s n
    c) := by
  unfold State.mapOut
  repeat' first
    | with_reducible assumption | with_reducible apply keeps_State_setF | split | with_reducible apply Keeps.other

theorem keeps_State_disableCore {s0 : State} (s : State) (k : Nat) (hK : Keeps s0 s) : Keeps s0 (State.disableCore s
    k) := by
  unfold State.disableCore
  repeat' first | with_reducible assumption | split | with_reducible apply Keeps.other

theorem keeps_State_retireBank {s0 : State} (s : State) (k : Nat) (b : Nat) (hK : Keeps s0 s) : Keeps s0
    (State.retireBank s k b) := by
  unfold State.retireBank
  repeat' first | with_reducible assumption | with_reducible apply Keeps.other

theorem keeps_State_retireTower {s0 : State} (s : State) (t : Nat) (hK : Keeps s0 s) : Keeps s0 (State.retireTower s
    t) := by
  unfold State.retireTower
  repeat' first
    | with_reducible assumption | with_reducible apply keeps_State_domOff | with_reducible apply keeps_State_mapOut
    | with_reducible apply keeps_State_disableCore | with_reducible apply Keeps.fold | intro _ _ _
    | with_reducible apply Keeps.other

theorem keeps_State_retireSub {s0 : State} (s : State) (d : Nat) (port : Nat) (sub : Nat) (hK : Keeps s0 s) : Keeps s0
    (State.retireSub s d port sub) := by
  unfold State.retireSub
  repeat' first
    | with_reducible assumption | with_reducible apply keeps_State_setBit | with_reducible apply keeps_State_countF
    | with_reducible apply keeps_State_log | split | with_reducible apply Keeps.other

theorem keeps_State_linkUnits {s0 : State} (s : State) (f : LinkFindings) (hK : Keeps s0 s) : Keeps s0
    (State.linkUnits s f) := by
  unfold State.linkUnits
  repeat' first
    | with_reducible assumption | with_reducible apply keeps_State_log | with_reducible apply keeps_State_guestTrain
    | with_reducible apply keeps_State_mapOut | with_reducible apply keeps_State_retireTower
    | with_reducible apply keeps_State_retireSub | with_reducible apply Keeps.fold | intro _ _ _

theorem keeps_linksWork {s0 : State} (f : LinkFindings) (s : State) (hK : Keeps s0 s) : Keeps s0 (linksWork f s).s :=
    by
  unfold linksWork
  repeat' first
    | with_reducible assumption | with_reducible apply keeps_State_portTrained
    | with_reducible apply keeps_State_linkUnits | with_reducible apply Keeps.fold | intro _ _ _ | split

theorem keeps_execLinks (f : LinkFindings) (s : State) : ∃ t, execLinks f s = .next t ∧ Keeps s t := by
  refine ⟨_, rfl, ?_⟩
  repeat' first
    | with_reducible exact Keeps.refl _ | with_reducible apply keeps_State_bootCommand
    | with_reducible apply keeps_linksWork

theorem keeps_State_knownBad {s0 : State} (s : State) (hK : Keeps s0 s) : Keeps s0 (State.knownBad s) := by
  unfold State.knownBad
  repeat' first
    | with_reducible assumption | with_reducible apply keeps_State_mapOut
    | with_reducible apply keeps_State_retireBank | with_reducible apply Keeps.fold | intro _ _ _ | split

theorem keeps_State_applyFindings {s0 : State} (s : State) (quick : Bool) (f : MemFindings) (hK : Keeps s0 s) : Keeps
    s0 (State.applyFindings s quick f) := by
  unfold State.applyFindings
  repeat' first
    | with_reducible assumption | with_reducible apply keeps_State_mapOut
    | with_reducible apply keeps_State_disableCore | with_reducible apply keeps_State_retireBank
    | with_reducible apply Keeps.fold | intro _ _ _ | split

theorem keeps_State_zeroAll {s0 : State} (s : State) (hK : Keeps s0 s) : Keeps s0 (State.zeroAll s) := by
  unfold State.zeroAll
  refine Keeps.fold _ _ _ (Keeps.fold _ _ _ (hK.memory (fun _ => rfl) id id) ?_) ?_
  · exact fun s a h => keeps_State_setStack _ _ _ h
  · exact fun s a h => keeps_State_setBed _ _ _ h

theorem keeps_memtestWork {s0 : State} (f : MemFindings) (s : State) (hK : Keeps s0 s) : Keeps s0 (memtestWork f s).s
    := by
  unfold memtestWork
  repeat' first
    | with_reducible assumption | with_reducible apply keeps_State_retireTower
    | with_reducible apply keeps_State_knownBad | with_reducible apply keeps_State_applyFindings
    | with_reducible apply keeps_State_zeroAll | with_reducible apply Keeps.fold | dsimp only | split

theorem keeps_execMemtest (f : MemFindings) (s : State) : ∃ t, execMemtest f s = .next t ∧ Keeps s t := by
  refine ⟨_, rfl, ?_⟩
  repeat' first
    | with_reducible exact Keeps.refl _ | with_reducible apply keeps_State_bootCommand
    | with_reducible apply keeps_memtestWork

theorem keeps_selftestWork {s0 : State} (f : SelfFindings) (s : State) (hK : Keeps s0 s) : Keeps s0 (selftestWork f
    s).s := by
  unfold selftestWork
  repeat' first
    | with_reducible assumption | with_reducible apply keeps_State_mapOut
    | with_reducible apply keeps_State_disableCore | with_reducible apply Keeps.fold | intro _ _ _

theorem keeps_execSelftest (f : SelfFindings) (s : State) : ∃ t, execSelftest f s = .next t ∧ Keeps s t := by
  refine ⟨_, rfl, ?_⟩
  repeat' first
    | with_reducible exact Keeps.refl _ | with_reducible apply keeps_State_bootCommand
    | with_reducible apply keeps_selftestWork

theorem keeps_State_startImage {s0 : State} (s : State) (i : ImageFacts) (code : Nat) (detail : Nat) (hK : Keeps s0 s)
    : Keeps s0 (State.startImage s i code detail).s := by
  unfold State.startImage
  repeat' first | with_reducible assumption | dsimp only | with_reducible apply Keeps.other

theorem keeps_firmwareWork {s0 : State} (a : ImageFacts) (b : ImageFacts) (s : State) (hK : Keeps s0 s) : Keeps s0
    (firmwareWork a b s).s := by
  unfold firmwareWork
  repeat' first
    | with_reducible assumption | with_reducible apply keeps_State_bumpFree
    | with_reducible apply keeps_State_startImage | dsimp only | split

theorem keeps_execFirmware (first : ImageFacts) (second : ImageFacts) (s : State) : ∃ t, execFirmware first second s =
    .next t ∧ Keeps s t := by
  refine ⟨_, rfl, ?_⟩
  repeat' first
    | with_reducible exact Keeps.refl _ | with_reducible apply keeps_State_bootCommand
    | with_reducible apply keeps_firmwareWork

theorem keeps_State_grantMailbox {s0 : State} (s : State) (t : Nat) (base : Nat) (hK : Keeps s0 s) : Keeps s0
    (State.grantMailbox s t base) := by
  unfold State.grantMailbox
  repeat' first
    | with_reducible assumption | with_reducible apply keeps_State_bumpFree | with_reducible apply keeps_State_grant

theorem keeps_State_firmwareUp {s0 : State} (s : State) (hK : Keeps s0 s) : Keeps s0 (State.firmwareUp s) := by
  unfold State.firmwareUp
  repeat' first
    | with_reducible assumption | with_reducible apply keeps_State_grantMailbox | with_reducible apply Keeps.fold
    | intro _ _ _ | with_reducible apply Keeps.other

theorem keeps_fwStartTimeout {s0 : State} (s : State) (hK : Keeps s0 s) : Keeps s0 (fwStartTimeout s) := by
  unfold fwStartTimeout
  repeat' first
    | with_reducible assumption | with_reducible apply keeps_State_bootEnd | split | with_reducible apply Keeps.other

theorem keeps_execFwStartTimeout (s : State) : ∃ t, execFwStartTimeout s = .next t ∧ Keeps s t := by
  refine ⟨_, rfl, ?_⟩
  repeat' first | with_reducible exact Keeps.refl _ | with_reducible apply keeps_fwStartTimeout

theorem keeps_State_writeRoutes {s0 : State} (s : State) (d : List Byte) (hK : Keeps s0 s) : Keeps s0
    (State.writeRoutes s d) := by
  unfold State.writeRoutes
  repeat' first
    | with_reducible assumption | with_reducible apply keeps_State_setReg | with_reducible apply keeps_State_setF
    | with_reducible apply Keeps.fold | intro _ _ _

theorem keeps_State_applyBin {s0 : State} (s : State) (hK : Keeps s0 s) : Keeps s0 (State.applyBin s) := by
  unfold State.applyBin
  repeat' first
    | with_reducible assumption | with_reducible apply keeps_State_setTherm
    | with_reducible apply keeps_State_bumpFree | with_reducible apply keeps_State_govern
    | with_reducible apply keeps_State_recomputeCaps | with_reducible apply keeps_State_bedModeWrite
    | with_reducible apply Keeps.fold | intro _ _ _ | with_reducible apply Keeps.other

theorem keeps_publishWork {s0 : State} (route : List Byte) (s : State) (hK : Keeps s0 s) : Keeps s0 (publishWork route
    s).s := by
  unfold publishWork
  repeat' first
    | with_reducible assumption | with_reducible apply keeps_State_publishRecord
    | with_reducible apply keeps_State_writeRoutes | with_reducible apply keeps_State_applyBin | dsimp only | split

theorem keeps_execPublish (route : List Byte) (s : State) : ∃ t, execPublish route s = .next t ∧ Keeps s t := by
  refine ⟨_, rfl, ?_⟩
  repeat' first
    | with_reducible exact Keeps.refl _ | with_reducible apply keeps_State_bootCommand
    | with_reducible apply keeps_publishWork

theorem keeps_towerOffWork {s0 : State} (s : State) (hK : Keeps s0 s) : Keeps s0 (towerOffWork s).s := by
  unfold towerOffWork
  repeat' first | with_reducible assumption | with_reducible apply keeps_State_towerLoss | dsimp only | split

theorem keeps_execTowerOff (s : State) : ∃ t, execTowerOff s = .next t ∧ Keeps s t := by
  refine ⟨_, rfl, ?_⟩
  repeat' first
    | with_reducible exact Keeps.refl _ | with_reducible apply keeps_State_bootCommand
    | with_reducible apply keeps_towerOffWork

theorem keeps_bootStepComplete {s0 : State} (s : State) (hK : Keeps s0 s) : Keeps s0 (bootStepComplete s) := by
  unfold bootStepComplete
  repeat' first
    | with_reducible assumption | with_reducible apply keeps_State_bootEnd
    | with_reducible apply keeps_State_firmwareUp | split

theorem keeps_execBootStepComplete (s : State) : ∃ t, execBootStepComplete s = .next t ∧ Keeps s t := by
  refine ⟨_, rfl, ?_⟩
  repeat' first | with_reducible exact Keeps.refl _ | with_reducible apply keeps_bootStepComplete

theorem keeps_State_bootCmdWrite {s0 : State} (s : State) (c : Nat) (hK : Keeps s0 s) : Keeps s0 (State.bootCmdWrite s
    c) := by
  unfold State.bootCmdWrite
  repeat' first
    | with_reducible assumption | with_reducible apply keeps_State_setBwF | with_reducible apply keeps_State_bootEnd
    | with_reducible apply keeps_State_bootCommand | with_reducible apply keeps_fusesWork
    | with_reducible apply keeps_towerOffWork | split

theorem keeps_State_bootWrite {s0 : State} (s : State) (o : Nat) (v : Nat) (hK : Keeps s0 s) : Keeps s0
    (State.bootWrite s o v) := by
  unfold State.bootWrite
  repeat' first
    | with_reducible assumption | with_reducible apply keeps_State_setBw | with_reducible apply keeps_State_setBwF
    | with_reducible apply keeps_State_accessError | with_reducible apply keeps_State_bootCmdWrite | split

/-! ### Machine/Tenants.lean -/

theorem keeps_heartbeatReload {s0 : State} (s : State) (hK : Keeps s0 s) : Keeps s0 (heartbeatReload s) := by
  unfold heartbeatReload
  repeat' first | with_reducible assumption | split | with_reducible apply Keeps.other

theorem keeps_execHeartbeatReload (s : State) : ∃ t, execHeartbeatReload s = .next t ∧ Keeps s t := by
  refine ⟨_, rfl, ?_⟩
  repeat' first | with_reducible exact Keeps.refl _ | with_reducible apply keeps_heartbeatReload

theorem keeps_heartbeatTimeout {s0 : State} (s : State) (hK : Keeps s0 s) : Keeps s0 (heartbeatTimeout s) := by
  unfold heartbeatTimeout
  repeat' first
    | with_reducible assumption | with_reducible apply keeps_State_log | with_reducible apply keeps_State_setFatal
    | dsimp only | split | with_reducible apply Keeps.other

theorem keeps_execHeartbeatTimeout (s : State) : ∃ t, execHeartbeatTimeout s = .next t ∧ Keeps s t := by
  refine ⟨_, rfl, ?_⟩
  repeat' first | with_reducible exact Keeps.refl _ | with_reducible apply keeps_heartbeatTimeout

theorem keeps_failover {s0 : State} (s : State) (hK : Keeps s0 s) : Keeps s0 (failover s) := by
  unfold failover
  repeat' first
    | with_reducible assumption | with_reducible apply keeps_State_notifyAll
    | with_reducible apply keeps_State_revokeAll | with_reducible apply keeps_State_publishRecord
    | with_reducible apply Keeps.fold | intro _ _ _ | dsimp only | split | with_reducible apply Keeps.other

theorem keeps_execFailover (s : State) : ∃ t, execFailover s = .next t ∧ Keeps s t := by
  refine ⟨_, rfl, ?_⟩
  repeat' first | with_reducible exact Keeps.refl _ | with_reducible apply keeps_failover

theorem keeps_standbyHeartbeatTimeout {s0 : State} (s : State) (hK : Keeps s0 s) : Keeps s0 (standbyHeartbeatTimeout
    s) := by
  unfold standbyHeartbeatTimeout
  repeat' first
    | with_reducible assumption | with_reducible apply keeps_State_log | with_reducible apply keeps_State_setFatal
    | dsimp only | split | with_reducible apply Keeps.other

theorem keeps_execStandbyHeartbeatTimeout (s : State) : ∃ t, execStandbyHeartbeatTimeout s = .next t ∧ Keeps s t := by
  refine ⟨_, rfl, ?_⟩
  repeat' first | with_reducible exact Keeps.refl _ | with_reducible apply keeps_standbyHeartbeatTimeout

theorem keeps_State_revokeTenant {s0 : State} (s : State) (t : Nat) (hK : Keeps s0 s) : Keeps s0 (State.revokeTenant s
    t) := by
  unfold State.revokeTenant
  repeat' first
    | with_reducible assumption | with_reducible apply keeps_State_setF | with_reducible apply keeps_State_setBit
    | with_reducible apply keeps_State_log | with_reducible apply keeps_State_revokeAll | dsimp only | split
    | with_reducible apply Keeps.other

theorem keeps_State_beginReset {s0 : State} (s : State) (t : Nat) (hK : Keeps s0 s) : Keeps s0 (State.beginReset s t)
    := by
  unfold State.beginReset
  repeat' first
    | with_reducible assumption | with_reducible apply keeps_State_setMb | with_reducible apply keeps_State_stopList
    | with_reducible apply keeps_State_revokeTenant | with_reducible apply Keeps.fold | intro _ _ _ | split

theorem keeps_State_dropEntries {s0 : State} (s : State) (t : Nat) (hK : Keeps s0 s) : Keeps s0 (State.dropEntries s
    t) := by
  unfold State.dropEntries
  repeat' first
    | with_reducible assumption | with_reducible apply keeps_State_clearSeg
    | with_reducible apply keeps_State_queueZero | with_reducible apply Keeps.fold | intro _ _ _ | split

theorem keeps_State_clearCore {s0 : State} (s : State) (k : Nat) (hK : Keeps s0 s) : Keeps s0 (State.clearCore s k) :=
    by
  unfold State.clearCore
  repeat' first
    | with_reducible assumption | with_reducible apply keeps_State_setCoreUnit
    | with_reducible apply keeps_State_qsClear | with_reducible apply keeps_State_bedClear
    | with_reducible apply Keeps.memory | exact id | exact zeroRange_wf _ _ _

theorem keeps_State_dropSelections {s0 : State} (s : State) (k : Nat) (hK : Keeps s0 s) : Keeps s0
    (State.dropSelections s k) := by
  unfold State.dropSelections
  repeat' first
    | with_reducible assumption | with_reducible apply keeps_State_setReg | with_reducible apply Keeps.fold
    | intro _ _ _

theorem keeps_State_endReset {s0 : State} (s : State) (t : Nat) (hK : Keeps s0 s) : Keeps s0 (State.endReset s t) :=
    by
  unfold State.endReset
  repeat' first
    | with_reducible assumption | with_reducible apply keeps_State_setReg | with_reducible apply keeps_State_setMb
    | with_reducible apply keeps_State_govern | with_reducible apply keeps_segmentRemoval
    | with_reducible apply keeps_State_dropEntries | with_reducible apply keeps_State_clearCore
    | with_reducible apply keeps_State_dropSelections | with_reducible apply Keeps.fold | intro _ _ _ | dsimp only
    | with_reducible apply Keeps.other

theorem keeps_State_answerResets {s0 : State} (s : State) (j : ResetJob) (hK : Keeps s0 s) : Keeps s0
    (State.answerResets s j) := by
  unfold State.answerResets
  repeat' first
    | with_reducible assumption | with_reducible apply keeps_State_complete | with_reducible apply Keeps.fold
    | intro _ _ _

theorem keeps_State_settleReset {s0 : State} (s : State) (j : ResetJob) (hK : Keeps s0 s) : Keeps s0
    (State.settleReset s j) := by
  unfold State.settleReset
  repeat' first
    | with_reducible assumption | with_reducible apply keeps_State_setMb | with_reducible apply keeps_State_release
    | with_reducible apply keeps_State_beginReset | with_reducible apply keeps_State_endReset
    | with_reducible apply keeps_State_answerResets | dsimp only | split | with_reducible apply Keeps.other

theorem keeps_State_settleVfs {s0 : State} (s : State) (hK : Keeps s0 s) : Keeps s0 (State.settleVfs s) := by
  unfold State.settleVfs
  repeat' first
    | with_reducible assumption | with_reducible apply keeps_State_grantMailbox | with_reducible apply Keeps.fold
    | intro _ _ _ | dsimp only | split | with_reducible apply Keeps.other

theorem keeps_State_settleResets {s0 : State} (s : State) (hK : Keeps s0 s) : Keeps s0 (State.settleResets s) := by
  unfold State.settleResets
  repeat' first
    | with_reducible assumption | with_reducible apply keeps_State_settleReset
    | with_reducible apply keeps_State_settleVfs | with_reducible apply Keeps.fold | split

theorem keeps_State_askReset {s0 : State} (s : State) (t : Nat) (tag : Option Nat) (vanish : Bool) (hK : Keeps s0 s) :
    Keeps s0 (State.askReset s t tag vanish) := by
  unfold State.askReset
  repeat' first
    | with_reducible assumption | with_reducible apply keeps_State_settleResets | dsimp only | split
    | with_reducible apply Keeps.other

theorem keeps_tenantResetAct {s0 : State} (x : Slip) (s : State) (hK : Keeps s0 s) : Keeps s0 (tenantResetAct x s) :=
    by
  unfold tenantResetAct
  repeat' first
    | with_reducible assumption | with_reducible apply keeps_State_answer | with_reducible apply keeps_State_askReset
    | dsimp only | split

theorem keeps_execTenantReset (slip : Slip) (s : State) : ∃ t, execTenantReset slip s = .next t ∧ Keeps s t := by
  refine ⟨_, rfl, ?_⟩
  repeat' first
    | with_reducible exact Keeps.refl _ | with_reducible apply keeps_State_withSlip
    | with_reducible apply keeps_tenantResetAct

theorem keeps_functionLevelReset {s0 : State} (t : Nat) (s : State) (hK : Keeps s0 s) : Keeps s0 (functionLevelReset t
    s) := by
  unfold functionLevelReset
  repeat' first
    | with_reducible assumption | with_reducible apply keeps_State_setMb | with_reducible apply keeps_State_govern
    | with_reducible apply keeps_State_askReset | with_reducible apply Keeps.fold | dsimp only | split
    | with_reducible apply Keeps.other

theorem keeps_execFunctionLevelReset (tenant : BitVec 10) (s : State) : ∃ t, execFunctionLevelReset tenant s = .next t
    ∧ Keeps s t := by
  refine ⟨_, rfl, ?_⟩
  repeat' first | with_reducible exact Keeps.refl _ | with_reducible apply keeps_functionLevelReset

theorem keeps_numvfsChange {s0 : State} (n : Nat) (e : Bool) (s : State) (hK : Keeps s0 s) : Keeps s0 (numvfsChange n
    e s) := by
  unfold numvfsChange
  repeat' first
    | with_reducible assumption | with_reducible apply keeps_State_settleVfs
    | with_reducible apply keeps_State_settleResets | dsimp only | split | with_reducible apply Keeps.other

theorem keeps_execNumvfsChange (numVfs : BitVec 16) (vfEnable : Bool) (s : State) : ∃ t, execNumvfsChange numVfs
    vfEnable s = .next t ∧ Keeps s t := by
  refine ⟨_, rfl, ?_⟩
  repeat' first | with_reducible exact Keeps.refl _ | with_reducible apply keeps_numvfsChange

theorem keeps_execTimebaseTick (s : State) : ∃ t, execTimebaseTick s = .next t ∧ Keeps s t := by
  refine ⟨_, rfl, ?_⟩
  repeat' first
    | with_reducible exact Keeps.refl _ | with_reducible apply keeps_tbTick | with_reducible apply keeps_State_measure
    | with_reducible apply keeps_State_settleResets | split

/-! ### Machine/Sched.lean -/

theorem keeps_State_placeOn {s0 : State} (s : State) (t : Nat) (k : Nat) (hK : Keeps s0 s) : Keeps s0 (State.placeOn s
    t k) := by
  unfold State.placeOn
  repeat' first
    | with_reducible assumption | with_reducible apply keeps_State_setCoreUnit
    | with_reducible apply keeps_State_clearCore | split

theorem keeps_State_watch {s0 : State} (s : State) (t : Nat) (hK : Keeps s0 s) : Keeps s0 (State.watch s t) := by
  unfold State.watch
  repeat' first | with_reducible assumption | dsimp only | split | with_reducible apply Keeps.other

theorem keeps_State_admit {s0 : State} (s : State) (l : WorkList) (h : Header) (hK : Keeps s0 s) : Keeps s0
    (State.admitList s l h) := by
  unfold State.admitList
  repeat' first
    | with_reducible assumption | with_reducible apply keeps_State_setList | with_reducible apply keeps_State_govern
    | with_reducible apply keeps_State_placeOn | with_reducible apply keeps_State_watch
    | with_reducible apply Keeps.fold | intro _ _ _

theorem keeps_State_failHeader {s0 : State} (s : State) (l : WorkList) (st : Nat) (hK : Keeps s0 s) : Keeps s0
    (State.failHeader s l st) := by
  unfold State.failHeader
  repeat' first
    | with_reducible assumption | with_reducible apply keeps_State_setList
    | with_reducible apply keeps_State_completeList

theorem keeps_listAdmission {s0 : State} (s : State) (hK : Keeps s0 s) : Keeps s0 (listAdmission s) := by
  unfold listAdmission
  repeat' first
    | with_reducible assumption | with_reducible apply keeps_State_admit | with_reducible apply keeps_State_failHeader
    | split

theorem keeps_execListAdmission (s : State) : ∃ t, execListAdmission s = .next t ∧ Keeps s t := by
  refine ⟨_, rfl, ?_⟩
  repeat' first | with_reducible exact Keeps.refl _ | with_reducible apply keeps_listAdmission

theorem keeps_State_preemptForList {s0 : State} (s : State) (hK : Keeps s0 s) : Keeps s0 (State.preemptForList s) :=
    by
  unfold State.preemptForList
  repeat' first
    | with_reducible assumption | with_reducible apply keeps_State_preempt | with_reducible apply Keeps.fold
    | dsimp only | split

theorem keeps_State_preemptForTower {s0 : State} (s : State) (t : Nat) (hK : Keeps s0 s) : Keeps s0
    (State.preemptForTower s t) := by
  unfold State.preemptForTower
  repeat' first
    | with_reducible assumption | with_reducible apply keeps_State_setTherm | with_reducible apply keeps_State_preempt
    | dsimp only | split

theorem keeps_powerPreemption {s0 : State} (s : State) (hK : Keeps s0 s) : Keeps s0 (powerPreemption s) := by
  unfold powerPreemption
  repeat' first
    | with_reducible assumption | with_reducible apply keeps_State_preemptForList
    | with_reducible apply keeps_State_preemptForTower | with_reducible apply Keeps.fold | split

theorem keeps_execPowerPreemption (s : State) : ∃ t, execPowerPreemption s = .next t ∧ Keeps s t := by
  refine ⟨_, rfl, ?_⟩
  repeat' first | with_reducible exact Keeps.refl _ | with_reducible apply keeps_powerPreemption

theorem keeps_stackIdlePause {s0 : State} (s : State) (hK : Keeps s0 s) : Keeps s0 (stackIdlePause s) := by
  unfold stackIdlePause
  repeat' first
    | with_reducible assumption | with_reducible apply keeps_State_preempt | with_reducible apply Keeps.fold
    | dsimp only | split | with_reducible apply Keeps.other

theorem keeps_execStackIdlePause (s : State) : ∃ t, execStackIdlePause s = .next t ∧ Keeps s t := by
  refine ⟨_, rfl, ?_⟩
  repeat' first | with_reducible exact Keeps.refl _ | with_reducible apply keeps_stackIdlePause

theorem keeps_execIdlePowerMeasurement (tower : Fin 8) (mean : BitVec 16) (s : State) : ∃ t, execIdlePowerMeasurement
    tower mean s = .next t ∧ Keeps s t := by
  refine ⟨_, rfl, ?_⟩
  repeat' first | with_reducible exact Keeps.refl _ | with_reducible apply keeps_State_setTherm | dsimp only | split

theorem keeps_bankLimitUpdate {s0 : State} (k : Nat) (s : State) (hK : Keeps s0 s) : Keeps s0 (bankLimitUpdate k s) :=
    by
  unfold bankLimitUpdate
  repeat' first
    | with_reducible assumption | with_reducible apply keeps_State_plainWrite
    | with_reducible apply keeps_State_setBed | dsimp only | split

theorem keeps_execBankLimitUpdate (core : Fin 64) (s : State) : ∃ t, execBankLimitUpdate core s = .next t ∧ Keeps s t
    := by
  refine ⟨_, rfl, ?_⟩
  repeat' first | with_reducible exact Keeps.refl _ | with_reducible apply keeps_bankLimitUpdate

theorem keeps_State_setPolicy {s0 : State} (s : State) (tenant : Nat) (item : Nat) (v : Nat) (ts : List Nat) (hK :
    Keeps s0 s) : Keeps s0 (State.setPolicy s tenant item v ts) := by
  unfold State.setPolicy
  repeat' first
    | with_reducible assumption | with_reducible apply keeps_State_govern
    | with_reducible apply keeps_State_recomputeCaps | with_reducible apply keeps_State_bedModeWrite
    | with_reducible apply Keeps.fold | intro _ _ _ | split | with_reducible apply Keeps.other

theorem keeps_policyAct {s0 : State} (x : Slip) (s : State) (hK : Keeps s0 s) : Keeps s0 (policyAct x s) := by
  unfold policyAct
  repeat' first
    | with_reducible assumption | with_reducible apply keeps_State_notify | with_reducible apply keeps_State_answer
    | with_reducible apply keeps_State_setPolicy | dsimp only | split | with_reducible apply Keeps.other

theorem keeps_execPolicy (slip : Slip) (s : State) : ∃ t, execPolicy slip s = .next t ∧ Keeps s t := by
  refine ⟨_, rfl, ?_⟩
  repeat' first
    | with_reducible exact Keeps.refl _ | with_reducible apply keeps_State_withSlip
    | with_reducible apply keeps_policyAct

/-! ### Machine/Observe.lean -/

theorem keeps_countersReadAct {s0 : State} (x : Slip) (hostOk : Bool) (s : State) (hK : Keeps s0 s) : Keeps s0
    (countersReadAct x hostOk s) := by
  unfold countersReadAct
  repeat' first
    | with_reducible assumption | with_reducible apply keeps_State_emit | with_reducible apply keeps_State_answer
    | split

theorem keeps_execCountersRead (slip : Slip) (hostOk : Bool) (s : State) : ∃ t, execCountersRead slip hostOk s = .next
    t ∧ Keeps s t := by
  refine ⟨_, rfl, ?_⟩
  repeat' first
    | with_reducible exact Keeps.refl _ | with_reducible apply keeps_State_withSlip
    | with_reducible apply keeps_countersReadAct | split

theorem keeps_State_selectCounter {s0 : State} (s : State) (u : Nat) (n : Nat) (event : Nat) (hK : Keeps s0 s) : Keeps
    s0 (State.selectCounter s u n event) := by
  unfold State.selectCounter
  repeat' first
    | with_reducible assumption | with_reducible apply keeps_State_setReg | with_reducible apply keeps_State_setF

theorem keeps_countersSelectAct {s0 : State} (x : Slip) (u : Nat) (s : State) (hK : Keeps s0 s) : Keeps s0
    (countersSelectAct x u s) := by
  unfold countersSelectAct
  repeat' first
    | with_reducible assumption | with_reducible apply keeps_State_answer
    | with_reducible apply keeps_State_selectCounter | split

theorem keeps_execCountersSelect (slip : Slip) (s : State) : ∃ t, execCountersSelect slip s = .next t ∧ Keeps s t :=
    by
  refine ⟨_, rfl, ?_⟩
  repeat' first
    | with_reducible assumption | with_reducible exact Keeps.refl _ | with_reducible apply keeps_State_answer
    | with_reducible apply keeps_State_withSlip | with_reducible apply keeps_countersSelectAct | intro _ _ | split

theorem keeps_execCtrSelWrite (unit : CtrUnit) (n : Fin 16) (value : Word) (s : State) : ∃ t, execCtrSelWrite unit n
    value s = .next t ∧ Keeps s t := by
  refine ⟨_, rfl, ?_⟩
  repeat' first | with_reducible exact Keeps.refl _ | with_reducible apply keeps_State_selectCounter | split

theorem keeps_State_setDrops {s0 : State} (s : State) (t : Nat) (l : List Nat) (hK : Keeps s0 s) : Keeps s0
    (State.setDrops s t l) := by
  unfold State.setDrops
  repeat' first | with_reducible assumption | with_reducible apply Keeps.other

theorem keeps_State_traceStore {s0 : State} (s : State) (t : Nat) (bs : List Byte) (hK : Keeps s0 s) : Keeps s0
    (State.traceStore s t bs) := by
  unfold State.traceStore
  repeat' first
    | with_reducible assumption | with_reducible apply keeps_State_setF | with_reducible apply keeps_State_writeMem

theorem keeps_State_traceDrop {s0 : State} (s : State) (t : Nat) (hK : Keeps s0 s) : Keeps s0 (State.traceDrop s t) :=
    by
  unfold State.traceDrop
  repeat' first
    | with_reducible assumption | with_reducible apply keeps_State_countF | with_reducible apply keeps_State_setDrops

theorem keeps_State_traceLoss {s0 : State} (s : State) (t : Nat) (hK : Keeps s0 s) : Keeps s0 (State.traceLoss s t) :=
    by
  unfold State.traceLoss
  repeat' first
    | with_reducible assumption | with_reducible apply keeps_State_setDrops
    | with_reducible apply keeps_State_traceStore | dsimp only | split | with_reducible apply Keeps.other

theorem keeps_State_traceWrite {s0 : State} (s : State) (t : Nat) (bs : List Byte) (hK : Keeps s0 s) : Keeps s0
    (State.traceWrite s t bs) := by
  unfold State.traceWrite
  repeat' first
    | with_reducible assumption | with_reducible apply keeps_State_traceStore
    | with_reducible apply keeps_State_traceDrop | with_reducible apply keeps_State_traceLoss | dsimp only | split

theorem keeps_traceRecord {s0 : State} (t : Nat) (r : TraceBody) (s : State) (hK : Keeps s0 s) : Keeps s0 (traceRecord
    t r s) := by
  unfold traceRecord
  repeat' first | with_reducible assumption | with_reducible apply keeps_State_traceWrite | split

theorem keeps_execTraceRecord (tower : Fin 8) (r : TraceBody) (s : State) : ∃ t, execTraceRecord tower r s = .next t ∧
    Keeps s t := by
  refine ⟨_, rfl, ?_⟩
  repeat' first | with_reducible exact Keeps.refl _ | with_reducible apply keeps_traceRecord

theorem keeps_traceStartAct {s0 : State} (x : Slip) (s : State) (hK : Keeps s0 s) : Keeps s0 (traceStartAct x s) := by
  unfold traceStartAct
  repeat' first
    | with_reducible assumption | with_reducible apply keeps_State_setReg | with_reducible apply keeps_State_answer
    | with_reducible apply keeps_State_setSeg | with_reducible apply keeps_State_setDrops
    | with_reducible apply Keeps.fold | intro _ _ _ | dsimp only | split | with_reducible apply Keeps.other

theorem keeps_execTraceStart (slip : Slip) (s : State) : ∃ t, execTraceStart slip s = .next t ∧ Keeps s t := by
  refine ⟨_, rfl, ?_⟩
  repeat' first
    | with_reducible exact Keeps.refl _ | with_reducible apply keeps_State_withSlip
    | with_reducible apply keeps_traceStartAct | split

theorem keeps_traceStopAct {s0 : State} (x : Slip) (s : State) (hK : Keeps s0 s) : Keeps s0 (traceStopAct x s) := by
  unfold traceStopAct
  repeat' first
    | with_reducible assumption | with_reducible apply keeps_State_setReg | with_reducible apply keeps_State_answer
    | with_reducible apply Keeps.fold | intro _ _ _ | dsimp only | split

theorem keeps_execTraceStop (slip : Slip) (s : State) : ∃ t, execTraceStop slip s = .next t ∧ Keeps s t := by
  refine ⟨_, rfl, ?_⟩
  repeat' first
    | with_reducible exact Keeps.refl _ | with_reducible apply keeps_State_withSlip
    | with_reducible apply keeps_traceStopAct | split

theorem keeps_State_traceFlush {s0 : State} (s : State) (t : Nat) (hK : Keeps s0 s) : Keeps s0 (State.traceFlush s t)
    := by
  unfold State.traceFlush
  repeat' first
    | with_reducible assumption | with_reducible apply keeps_State_bumpFree
    | with_reducible apply keeps_State_traceWrite

theorem keeps_traceFlushAct {s0 : State} (x : Slip) (s : State) (hK : Keeps s0 s) : Keeps s0 (traceFlushAct x s) := by
  unfold traceFlushAct
  repeat' first
    | with_reducible assumption | with_reducible apply keeps_State_answer
    | with_reducible apply keeps_State_traceFlush | with_reducible apply Keeps.fold | dsimp only | split

theorem keeps_execTraceFlush (slip : Slip) (s : State) : ∃ t, execTraceFlush slip s = .next t ∧ Keeps s t := by
  refine ⟨_, rfl, ?_⟩
  repeat' first
    | with_reducible exact Keeps.refl _ | with_reducible apply keeps_State_withSlip
    | with_reducible apply keeps_traceFlushAct | split

theorem keeps_State_breakCycles {s0 : State} (s : State) (cs : List (List Nat × WorkList × Op)) (hK : Keeps s0 s) :
    Keeps s0 (State.breakCycles s cs) := by
  unfold State.breakCycles
  repeat' first
    | with_reducible assumption | with_reducible apply keeps_State_log | with_reducible apply keeps_State_finishOp
    | with_reducible apply Keeps.fold | intro _ _ _

theorem keeps_waitgraphAct {s0 : State} (x : Slip) (hostOk : Bool) (s : State) (hK : Keeps s0 s) : Keeps s0
    (waitgraphAct x hostOk s) := by
  unfold waitgraphAct
  repeat' first
    | with_reducible assumption | with_reducible apply keeps_State_emit | with_reducible apply keeps_State_answer
    | with_reducible apply keeps_State_breakCycles | dsimp only | split

theorem keeps_execWaitgraph (slip : Slip) (hostOk : Bool) (s : State) : ∃ t, execWaitgraph slip hostOk s = .next t ∧
    Keeps s t := by
  refine ⟨_, rfl, ?_⟩
  repeat' first
    | with_reducible exact Keeps.refl _ | with_reducible apply keeps_State_withSlip
    | with_reducible apply keeps_waitgraphAct

theorem keeps_tenantWatchdog {s0 : State} (t : Nat) (s : State) (hK : Keeps s0 s) : Keeps s0 (tenantWatchdog t s) :=
    by
  unfold tenantWatchdog
  repeat' first
    | with_reducible assumption | with_reducible apply keeps_State_raise
    | with_reducible apply keeps_State_breakCycles | dsimp only | split | with_reducible apply Keeps.other

theorem keeps_execTenantWatchdog (tenant : BitVec 10) (s : State) : ∃ t, execTenantWatchdog tenant s = .next t ∧ Keeps
    s t := by
  refine ⟨_, rfl, ?_⟩
  repeat' first | with_reducible exact Keeps.refl _ | with_reducible apply keeps_tenantWatchdog

theorem keeps_watchdogWaitEnd {s0 : State} (t : Nat) (s : State) (hK : Keeps s0 s) : Keeps s0 (watchdogWaitEnd t s) :=
    by
  unfold watchdogWaitEnd
  repeat' first
    | with_reducible assumption | with_reducible apply keeps_State_log | with_reducible apply keeps_State_finishOp
    | with_reducible apply Keeps.fold | intro _ _ _ | dsimp only | split | with_reducible apply Keeps.other

theorem keeps_execWatchdogWaitEnd (tenant : BitVec 10) (s : State) : ∃ t, execWatchdogWaitEnd tenant s = .next t ∧
    Keeps s t := by
  refine ⟨_, rfl, ?_⟩
  repeat' first | with_reducible exact Keeps.refl _ | with_reducible apply keeps_watchdogWaitEnd

theorem keeps_coreSample {s0 : State} (s : State) (hK : Keeps s0 s) : Keeps s0 (coreSample s) := by
  unfold coreSample
  repeat' first
    | with_reducible assumption | with_reducible apply keeps_State_setBit | dsimp only | split
    | with_reducible apply Keeps.other

theorem keeps_execCoreSample (s : State) : ∃ t, execCoreSample s = .next t ∧ Keeps s t := by
  refine ⟨_, rfl, ?_⟩
  repeat' first | with_reducible exact Keeps.refl _ | with_reducible apply keeps_coreSample

theorem keeps_coreSampleComplete {s0 : State} (ok : Bool) (size : Nat) (s : State) (hK : Keeps s0 s) : Keeps s0
    (coreSampleComplete ok size s) := by
  unfold coreSampleComplete
  repeat' first
    | with_reducible assumption | with_reducible apply keeps_State_setF | with_reducible apply keeps_State_setBit
    | with_reducible apply keeps_State_clrBit | with_reducible apply keeps_State_emit | dsimp only | split
    | with_reducible apply Keeps.other

theorem keeps_execCoreSampleComplete (ok : Bool) (size : BitVec 29) (s : State) : ∃ t, execCoreSampleComplete ok size
    s = .next t ∧ Keeps s t := by
  refine ⟨_, rfl, ?_⟩
  repeat' first | with_reducible exact Keeps.refl _ | with_reducible apply keeps_coreSampleComplete

theorem keeps_indicatorCheck {s0 : State} (n : Nat) (lampOpen : Bool) (s : State) (hK : Keeps s0 s) : Keeps s0
    (indicatorCheck n lampOpen s) := by
  unfold indicatorCheck
  repeat' first
    | with_reducible assumption | with_reducible apply keeps_State_setBit | with_reducible apply keeps_State_clrBit
    | with_reducible apply keeps_State_countF | dsimp only | split | with_reducible apply Keeps.other

theorem keeps_execIndicatorTestPulse (lamp : Fin 4) (lampOpen : Bool) (s : State) : ∃ t, execIndicatorTestPulse lamp
    lampOpen s = .next t ∧ Keeps s t := by
  refine ⟨_, rfl, ?_⟩
  repeat' first | with_reducible exact Keeps.refl _ | with_reducible apply keeps_indicatorCheck

theorem keeps_State_indCtlWrite {s0 : State} (s : State) (n : Nat) (v : DWord) (hK : Keeps s0 s) : Keeps s0
    (State.indCtlWrite s n v) := by
  unfold State.indCtlWrite
  repeat' first
    | with_reducible assumption | with_reducible apply keeps_State_plainWrite | dsimp only | split
    | with_reducible apply Keeps.other

theorem keeps_execBypass (tdi : Bool) (s : State) : ∃ t, execBypass tdi s = .next t ∧ Keeps s t := by
  refine ⟨_, rfl, ?_⟩
  repeat' first | with_reducible exact Keeps.refl _ | with_reducible apply keeps_State_emit | split

theorem keeps_execIdcode (s : State) : ∃ t, execIdcode s = .next t ∧ Keeps s t := by
  refine ⟨_, rfl, ?_⟩
  repeat' first | with_reducible exact Keeps.refl _ | with_reducible apply keeps_State_emit | split

theorem keeps_execSamplePreload (s : State) : ∃ t, execSamplePreload s = .next t ∧ Keeps s t := by
  refine ⟨_, rfl, ?_⟩
  repeat' first
    | with_reducible exact Keeps.refl _ | with_reducible apply keeps_State_emit
    | with_reducible apply keeps_State_bumpFree | split

/-! ### Machine/Access.lean -/

theorem keeps_State_wordRead {s0 : State} (s : State) (o : Nat) (hK : Keeps s0 s) : Keeps s0 (State.wordRead s o).1 :=
    by
  unfold State.wordRead
  repeat' first | with_reducible assumption | with_reducible apply keeps_icAckStep | split

theorem keeps_State_wordsRead {s0 : State} (s : State) (o fuel : Nat) (h : Keeps s0 s) :
    Keeps s0 (s.wordsRead o fuel).1 := by
  induction fuel generalizing s o with
  | zero => exact h
  | succ n ih => exact ih _ _ (keeps_State_wordRead _ _ h)

theorem keeps_State_regsRead {s0 : State} (s : State) (o : Nat) (n : Nat) (node : Nat) (tenant : Nat) (addr : Nat) (hK
    : Keeps s0 s) : Keeps s0 (State.regsRead s o n node tenant addr).1 := by
  unfold State.regsRead
  repeat' first
    | with_reducible assumption | with_reducible apply keeps_State_accessError
    | with_reducible apply keeps_State_wordsRead | dsimp only | split

theorem keeps_State_flogStatWrite {s0 : State} (s : State) (x : Nat) (w : Nat) (hK : Keeps s0 s) : Keeps s0
    (State.flogStatWrite s x w) := by
  unfold State.flogStatWrite
  repeat' first | with_reducible assumption | dsimp only | split | with_reducible apply Keeps.other

theorem keeps_State_regWrite {s0 : State} (s : State) (r : Reg) (v : DWord) (standby : Bool) (hK : Keeps s0 s) : Keeps
    s0 (State.regWrite s r v standby) := by
  unfold State.regWrite
  repeat' first
    | with_reducible assumption | with_reducible apply keeps_State_plainWrite | with_reducible apply keeps_flogClear
    | with_reducible apply keeps_icEoiStep | with_reducible apply keeps_spnCtlWrite
    | with_reducible apply keeps_lseRevokeWrite | with_reducible apply keeps_State_vregWrite
    | with_reducible apply keeps_State_qsctlWrite | with_reducible apply keeps_State_qsstatWrite
    | with_reducible apply keeps_State_bedCtlWrite | with_reducible apply keeps_State_bedModeWrite
    | with_reducible apply keeps_gctlWrite | with_reducible apply keeps_State_selectCounter
    | with_reducible apply keeps_coreSample | with_reducible apply keeps_State_indCtlWrite
    | with_reducible apply keeps_State_flogStatWrite | dsimp only | split | with_reducible apply Keeps.other

theorem keeps_State_wordsWrite {s0 : State} (s : State) (o : Nat) (bs : List Byte) (node tenant addr : Nat)
    (standby : Bool) (fuel : Nat) (h : Keeps s0 s) : Keeps s0 (s.wordsWrite o bs node tenant addr standby fuel) := by
  induction fuel generalizing s o bs addr with
  | zero => exact h
  | succ n ih =>
    unfold State.wordsWrite
    split
    · exact h
    · split
      · split
        · exact ih _ _ _ _ (keeps_State_regWrite _ _ _ _ h)
        · exact ih _ _ _ _ (keeps_State_accessError _ _ _ _ _ h)
      · exact ih _ _ _ _ h

theorem keeps_State_regsWrite {s0 : State} (s : State) (o : Nat) (bs : List Byte) (node : Nat) (tenant : Nat) (addr :
    Nat) (standby : Bool) (hK : Keeps s0 s) : Keeps s0 (State.regsWrite s o bs node tenant addr standby) := by
  unfold State.regsWrite
  repeat' first
    | with_reducible assumption | with_reducible apply keeps_State_accessError
    | with_reducible apply keeps_State_wordsWrite | split

theorem keeps_State_discardAt {s0 : State} (s : State) (die : Nat) (reason : Nat) (tenant : Nat) (addr : Nat) (hK :
    Keeps s0 s) : Keeps s0 (State.discardAt s die reason tenant addr) := by
  unfold State.discardAt
  repeat' first
    | with_reducible assumption | with_reducible apply keeps_State_setBit | with_reducible apply keeps_State_countF
    | with_reducible apply keeps_State_log | with_reducible apply keeps_State_raise | dsimp only | split

theorem keeps_State_bootWords {s0 : State} (s : State) (o : Nat) (bs : List Byte) (fuel : Nat) (h : Keeps s0 s) :
    Keeps s0 (s.bootWords o bs fuel) := by
  induction fuel generalizing s o bs with
  | zero => exact h
  | succ n ih =>
    unfold State.bootWords
    split
    · exact h
    · split
      · exact ih _ _ _ (keeps_State_bootWrite _ _ _ (keeps_State_bootWrite _ _ _ h))
      · apply ih
        split
        · exact keeps_State_accessError _ _ _ _ _ h
        · exact keeps_State_bootWrite _ _ _ h

theorem keeps_State_bootWriteBytes {s0 : State} (s : State) (o : Nat) (bs : List Byte) (hK : Keeps s0 s) : Keeps s0
    (State.bootWriteBytes s o bs) := by
  unfold State.bootWriteBytes
  repeat' first
    | with_reducible assumption | with_reducible apply keeps_State_accessError
    | with_reducible apply keeps_State_bootWords | split

theorem keeps_State_guestAsk {s0 : State} (s : State) (g : Nat) (cls : Nat) (op : Nat) (o : Nat) (bs : List Byte) (n :
    Nat) (hK : Keeps s0 s) : Keeps s0 (State.guestAsk s g cls op o bs n) := by
  unfold State.guestAsk
  repeat' first
    | with_reducible assumption | with_reducible apply keeps_State_request | with_reducible apply keeps_State_toGuest
    | split

theorem keeps_State_apertureRead {s0 : State} (s : State) (o : Nat) (n : Nat) (hK : Keeps s0 s) : Keeps s0
    (State.apertureRead s o n) := by
  unfold State.apertureRead
  repeat' first
    | with_reducible assumption | with_reducible apply keeps_State_emit | with_reducible apply keeps_State_bumpFree
    | with_reducible apply keeps_State_regsRead | with_reducible apply keeps_State_guestAsk | dsimp only | split

theorem keeps_State_apertureWrite {s0 : State} (s : State) (o : Nat) (bs : List Byte) (hK : Keeps s0 s) : Keeps s0
    (State.apertureWrite s o bs) := by
  unfold State.apertureWrite
  repeat' first
    | with_reducible assumption | with_reducible apply keeps_State_regsWrite
    | with_reducible apply keeps_State_discardAt | with_reducible apply keeps_State_guestAsk | split

theorem keeps_State_bar0Read {s0 : State} (s : State) (o : Nat) (n : Nat) (hK : Keeps s0 s) : Keeps s0 (State.bar0Read
    s o n) := by
  unfold State.bar0Read
  repeat' first
    | with_reducible assumption | with_reducible apply keeps_State_emit | with_reducible apply keeps_State_accessError
    | with_reducible apply keeps_State_apertureRead | split

theorem keeps_State_bar0Write {s0 : State} (s : State) (o : Nat) (bs : List Byte) (hK : Keeps s0 s) : Keeps s0
    (State.bar0Write s o bs) := by
  unfold State.bar0Write
  repeat' first
    | with_reducible assumption | with_reducible apply keeps_State_accessError
    | with_reducible apply keeps_State_bootWriteBytes | with_reducible apply keeps_State_apertureWrite | split

theorem keeps_State_pageWrite {s0 : State} (s : State) (t : Nat) (o : Nat) (w : Nat) (hK : Keeps s0 s) : Keeps s0
    (State.pageWrite s t o w) := by
  unfold State.pageWrite
  repeat' first
    | with_reducible assumption | with_reducible apply keeps_State_setMb | with_reducible apply keeps_doorbell
    | with_reducible apply keeps_cqHeadWrite | dsimp only | split | with_reducible apply Keeps.other

theorem keeps_State_pageWords {s0 : State} (s : State) (t o : Nat) (bs : List Byte) (fuel : Nat) (h : Keeps s0 s) :
    Keeps s0 (s.pageWords t o bs fuel) := by
  induction fuel generalizing s o bs with
  | zero => exact h
  | succ n ih =>
    unfold State.pageWords
    split
    · exact h
    · exact ih _ _ _ (keeps_State_pageWrite _ _ _ _ h)

theorem keeps_State_bar2Read {s0 : State} (s : State) (t : Nat) (o : Nat) (n : Nat) (hK : Keeps s0 s) : Keeps s0
    (State.bar2Read s t o n) := by
  unfold State.bar2Read
  repeat' first
    | with_reducible assumption | with_reducible apply keeps_State_emit | with_reducible apply keeps_State_accessError
    | split

theorem keeps_State_bar2Write {s0 : State} (s : State) (t : Nat) (o : Nat) (bs : List Byte) (hK : Keeps s0 s) : Keeps
    s0 (State.bar2Write s t o bs) := by
  unfold State.bar2Write
  repeat' first
    | with_reducible assumption | with_reducible apply keeps_State_setMb
    | with_reducible apply keeps_State_accessError | with_reducible apply keeps_State_pageWords | dsimp only | split

/-! ### Machine/Fabric.lean -/

theorem keeps_State_serveRead {s0 : State} (s : State) (a : Nat) (n : Nat) (node : Nat) (tenant : Nat) (hK : Keeps s0
    s) : Keeps s0 (State.serveRead s a n node tenant).s := by
  unfold State.serveRead
  repeat' first
    | with_reducible assumption | with_reducible apply keeps_State_accessError
    | with_reducible apply keeps_State_readMem | with_reducible apply keeps_State_regsRead | dsimp only | split

theorem keeps_State_winStore {s0 : State} (s : State) (k : Nat) (o : Nat) (bs : List Byte) (node : Nat) (tenant : Nat)
    (hK : Keeps s0 s) : Keeps s0 (State.winStore s k o bs node tenant) := by
  unfold State.winStore
  repeat' first
    | with_reducible assumption | with_reducible apply keeps_State_setWin | with_reducible apply keeps_State_issueBank
    | split

theorem keeps_State_serveWrite {s0 : State} (s : State) (a : Nat) (bs : List Byte) (node : Nat) (tenant : Nat) (posted
    : Bool) (hK : Keeps s0 s) : Keeps s0 (State.serveWrite s a bs node tenant posted).s := by
  unfold State.serveWrite
  repeat' first
    | with_reducible assumption | with_reducible apply keeps_State_accessError
    | with_reducible apply keeps_State_writeMem | with_reducible apply keeps_State_regsWrite
    | with_reducible apply keeps_State_winStore | dsimp only | split

theorem keeps_State_serveAdd {s0 : State} (s : State) (a : Nat) (v : Nat) (node : Nat) (tenant : Nat) (hK : Keeps s0
    s) : Keeps s0 (State.serveAdd s a v node tenant).s := by
  unfold State.serveAdd
  repeat' first
    | with_reducible assumption | with_reducible apply keeps_State_serveRead
    | with_reducible apply keeps_State_serveWrite | dsimp only | split

theorem keeps_State_sendRsp {s0 : State} (s : State) (die : Nat) (m : Msg) (hK : Keeps s0 s) : Keeps s0 (State.sendRsp
    s die m) := by
  unfold State.sendRsp
  repeat' first
    | with_reducible assumption | with_reducible apply keeps_State_respond | with_reducible apply keeps_State_toGuest
    | split

theorem keeps_State_reply {s0 : State} (s : State) (die : Nat) (node : Nat) (m : Msg) (op : Nat) (status : Nat) (len :
    Nat) (payload : List Byte) (hK : Keeps s0 s) : Keeps s0 (State.reply s die node m op status len payload) := by
  unfold State.reply
  repeat' first | with_reducible assumption | with_reducible apply keeps_State_sendRsp

theorem keeps_State_lostMsg {s0 : State} (s : State) (die : Nat) (m : Msg) (hK : Keeps s0 s) : Keeps s0 (State.lostMsg
    s die m) := by
  unfold State.lostMsg
  repeat' first
    | with_reducible assumption | with_reducible apply keeps_State_discardAt | with_reducible apply keeps_State_reply
    | split

theorem keeps_State_perform {s0 : State} (s : State) (die : Nat) (a : Nat) (m : Msg) (hK : Keeps s0 s) : Keeps s0
    (State.perform s die a m) := by
  unfold State.perform
  repeat' first
    | with_reducible assumption | with_reducible apply keeps_State_accessError
    | with_reducible apply keeps_State_serveRead | with_reducible apply keeps_State_serveWrite
    | with_reducible apply keeps_State_serveAdd | with_reducible apply keeps_State_sendRsp
    | with_reducible apply keeps_State_reply | dsimp only | split

theorem keeps_State_serve {s0 : State} (s : State) (die : Nat) (m : Msg) (hK : Keeps s0 s) : Keeps s0 (State.serve s
    die m) := by
  unfold State.serve
  repeat' first
    | with_reducible assumption | with_reducible apply keeps_State_toGuest | with_reducible apply keeps_State_reply
    | with_reducible apply keeps_State_lostMsg | with_reducible apply keeps_State_perform | split

theorem keeps_State_sink {s0 : State} (s : State) (m : Msg) (hK : Keeps s0 s) : Keeps s0 (State.sink s m) := by
  unfold State.sink
  repeat' first
    | with_reducible assumption | with_reducible apply keeps_State_deliverRsp
    | with_reducible apply keeps_State_toGuest | split

theorem keeps_State_arrive {s0 : State} (s : State) (die : Nat) (m : Msg) (hK : Keeps s0 s) : Keeps s0 (State.arrive s
    die m) := by
  unfold State.arrive
  repeat' first
    | with_reducible assumption | with_reducible apply keeps_State_sendOut | with_reducible apply keeps_State_lostMsg
    | with_reducible apply keeps_State_serve | with_reducible apply keeps_State_sink | dsimp only | split

theorem keeps_State_guestSends {s0 : State} (s : State) (g : Nat) (m : Msg) (hK : Keeps s0 s) : Keeps s0
    (State.guestSends s g m) := by
  unfold State.guestSends
  repeat' first
    | with_reducible assumption | with_reducible apply keeps_State_countF | with_reducible apply keeps_State_emit
    | with_reducible apply keeps_State_guestAnswered | with_reducible apply keeps_State_reply
    | with_reducible apply keeps_State_arrive | dsimp only | split

theorem keeps_State_enter {s0 : State} (s : State) (m : Msg) (hK : Keeps s0 s) : Keeps s0 (State.enter s m) := by
  unfold State.enter
  repeat' first
    | with_reducible assumption | with_reducible apply keeps_State_arrive
    | with_reducible apply keeps_State_guestSends | split

theorem keeps_State_deviceRead {s0 : State} (s : State) (a : Nat) (n : Nat) (hK : Keeps s0 s) : Keeps s0
    (State.deviceRead s a n) := by
  unfold State.deviceRead
  repeat' first
    | with_reducible assumption | with_reducible apply keeps_State_emit | with_reducible apply keeps_State_bumpFree
    | with_reducible apply keeps_State_serveRead | dsimp only | split

theorem keeps_State_deviceWrite {s0 : State} (s : State) (a : Nat) (bs : List Byte) (hK : Keeps s0 s) : Keeps s0
    (State.deviceWrite s a bs) := by
  unfold State.deviceWrite
  repeat' first
    | with_reducible assumption | with_reducible apply keeps_State_discardAt
    | with_reducible apply keeps_State_serveWrite | split

theorem keeps_State_apRead {s0 : State} (s : State) (ap : Aperture) (n : Nat) (hK : Keeps s0 s) : Keeps s0
    (State.apRead s ap n) := by
  unfold State.apRead
  repeat' first
    | with_reducible assumption | with_reducible apply keeps_State_bar0Read
    | with_reducible apply keeps_State_bar2Read | with_reducible apply keeps_State_deviceRead | split

theorem keeps_State_apWrite {s0 : State} (s : State) (ap : Aperture) (bs : List Byte) (hK : Keeps s0 s) : Keeps s0
    (State.apWrite s ap bs) := by
  unfold State.apWrite
  repeat' first
    | with_reducible assumption | with_reducible apply keeps_State_bar0Write
    | with_reducible apply keeps_State_bar2Write | with_reducible apply keeps_State_deviceWrite | split

theorem keeps_execRegisterWrite (ap : Aperture) (data : List Byte) (s : State) : ∃ t, execRegisterWrite ap data s =
    .next t ∧ Keeps s t := by
  refine ⟨_, rfl, ?_⟩
  repeat' first | with_reducible exact Keeps.refl _ | with_reducible apply keeps_State_apWrite

theorem keeps_execRead (r : ReadReq) (s : State) : ∃ t, execRead r s = .next t ∧ Keeps s t := by
  refine ⟨_, rfl, ?_⟩
  repeat' first
    | with_reducible exact Keeps.refl _ | with_reducible apply keeps_State_enter
    | with_reducible apply keeps_State_apRead | split

theorem keeps_execAtomicAdd (m : Msg) (s : State) : ∃ t, execAtomicAdd m s = .next t ∧ Keeps s t := by
  refine ⟨_, rfl, ?_⟩
  repeat' first | with_reducible exact Keeps.refl _ | with_reducible apply keeps_State_enter | split

theorem keeps_execWrite (m : Msg) (s : State) : ∃ t, execWrite m s = .next t ∧ Keeps s t := by
  refine ⟨_, rfl, ?_⟩
  repeat' first | with_reducible exact Keeps.refl _ | with_reducible apply keeps_State_enter | split

theorem keeps_execWriteNp (m : Msg) (s : State) : ∃ t, execWriteNp m s = .next t ∧ Keeps s t := by
  refine ⟨_, rfl, ?_⟩
  repeat' first | with_reducible exact Keeps.refl _ | with_reducible apply keeps_State_enter | split

theorem keeps_execFabricFence (m : Msg) (s : State) : ∃ t, execFabricFence m s = .next t ∧ Keeps s t := by
  refine ⟨_, rfl, ?_⟩
  repeat' first | with_reducible exact Keeps.refl _ | with_reducible apply keeps_State_enter | split

theorem keeps_execDataRsp (m : Msg) (s : State) : ∃ t, execDataRsp m s = .next t ∧ Keeps s t := by
  refine ⟨_, rfl, ?_⟩
  repeat' first | with_reducible exact Keeps.refl _ | with_reducible apply keeps_State_enter | split

theorem keeps_execAckRsp (m : Msg) (s : State) : ∃ t, execAckRsp m s = .next t ∧ Keeps s t := by
  refine ⟨_, rfl, ?_⟩
  repeat' first | with_reducible exact Keeps.refl _ | with_reducible apply keeps_State_enter | split

theorem keeps_execErrorRsp (m : Msg) (s : State) : ∃ t, execErrorRsp m s = .next t ∧ Keeps s t := by
  refine ⟨_, rfl, ?_⟩
  repeat' first | with_reducible exact Keeps.refl _ | with_reducible apply keeps_State_enter | split

theorem keeps_State_spanMsg {s0 : State} (s : State) (p : Nat) (m : Msg) (hK : Keeps s0 s) : Keeps s0 (State.spanMsg s
    p m) := by
  unfold State.spanMsg
  repeat' first | with_reducible assumption | with_reducible apply keeps_State_arrive | dsimp only | split

theorem keeps_spanFrame {s0 : State} (p : Nat) (f : RxFrame) (s : State) (hK : Keeps s0 s) : Keeps s0 (spanFrame p f
    s) := by
  unfold spanFrame
  repeat' first
    | with_reducible assumption | with_reducible apply keeps_State_takeFrame
    | with_reducible apply keeps_State_spanMsg | with_reducible apply Keeps.fold | intro _ _ _ | dsimp only | split

theorem keeps_execSpanFrame (port : Fin 24) (f : RxFrame) (s : State) : ∃ t, execSpanFrame port f s = .next t ∧ Keeps
    s t := by
  refine ⟨_, rfl, ?_⟩
  repeat' first | with_reducible exact Keeps.refl _ | with_reducible apply keeps_spanFrame

theorem keeps_crcError {s0 : State} (d : Nat) (port : Nat) (sub : Nat) (sixteenth : Bool) (s : State) (hK : Keeps s0
    s) : Keeps s0 (crcError d port sub sixteenth s) := by
  unfold crcError
  repeat' first
    | with_reducible assumption | with_reducible apply keeps_State_setBit | with_reducible apply keeps_State_countF
    | with_reducible apply keeps_State_emit | with_reducible apply keeps_State_raise
    | with_reducible apply keeps_State_retireSub | dsimp only | split

theorem keeps_execVoylaCrcError (die : Fin 12) (port : Fin 4) (sub : BitVec 5) (sixteenth : Bool) (s : State) : ∃ t,
    execVoylaCrcError die port sub sixteenth s = .next t ∧ Keeps s t := by
  refine ⟨_, rfl, ?_⟩
  repeat' first | with_reducible exact Keeps.refl _ | with_reducible apply keeps_crcError

theorem keeps_fabricTimeout {s0 : State} (node : Nat) (tag : Nat) (s : State) (hK : Keeps s0 s) : Keeps s0
    (fabricTimeout node tag s) := by
  unfold fabricTimeout
  repeat' first
    | with_reducible assumption | with_reducible apply keeps_State_log | with_reducible apply keeps_State_raise
    | with_reducible apply keeps_State_finishOp | dsimp only | split | with_reducible apply Keeps.other

theorem keeps_execFabricTimeout (node : BitVec 8) (tag : BitVec 10) (s : State) : ∃ t, execFabricTimeout node tag s =
    .next t ∧ Keeps s t := by
  refine ⟨_, rfl, ?_⟩
  repeat' first | with_reducible exact Keeps.refl _ | with_reducible apply keeps_fabricTimeout

theorem keeps_routeDetour {s0 : State} (s : State) (hK : Keeps s0 s) : Keeps s0 (routeDetour s) := by
  unfold routeDetour
  repeat' first
    | with_reducible assumption | with_reducible apply keeps_State_setReg | with_reducible apply Keeps.fold
    | intro _ _ _ | dsimp only | split

theorem keeps_execRouteDetour (s : State) : ∃ t, execRouteDetour s = .next t ∧ Keeps s t := by
  refine ⟨_, rfl, ?_⟩
  repeat' first | with_reducible exact Keeps.refl _ | with_reducible apply keeps_routeDetour

end Sys2Proof.Machine
end

