-- ==== Sys2Proof/Laws/OnlyLists.lean ====
section
/-! SUPPORT. The same for work lists, spans, transfers, loss, power, heat, the floor plan, slips and the staging
queue. -/

namespace Sys2Proof.Machine

set_option Elab.async false

/-! ### Machine/Lists.lean -/

theorem only_State_fetchOp {Ps : List Piece} {Ks : List RegKind} {s0 : State} (s : State) (l : WorkList) (early :
    Option (List Byte)) (hK : Only Ps Ks s0 s) (hp : [.fpDirty, .chanPoisoned, .hbm, .ic, .flog0, .flog1, .mbox] ⊆ Ps)
    (hk : [.bedCe, .bedUe, .bedLastue, .memStat, .memChstat, .memChce, .memChue, .memChpoison, .ctrVal] ⊆ Ks) : Only
    Ps Ks s0 (State.fetchOp s l early).s := by
  unfold State.fetchOp
  repeat' first | with_reducible assumption | with_reducible apply only_State_readMem | dsimp only | split

theorem only_State_startOp {Ps : List Piece} {Ks : List RegKind} {s0 : State} (s : State) (id : Nat) (off : Nat) (hK :
    Only Ps Ks s0 s) (hp : [.lists] ⊆ Ps) : Only Ps Ks s0 (State.startOp s id off) := by
  unfold State.startOp
  repeat' first | with_reducible assumption | with_reducible apply only_State_setOp | dsimp only | split

theorem only_State_finishOp {Ps : List Piece} {Ks : List RegKind} {s0 : State} (s : State) (id : Nat) (off : Nat)
    (status : Nat) (detail : Nat) (hK : Only Ps Ks s0 s) (hp : [.lists] ⊆ Ps) : Only Ps Ks s0 (State.finishOp s id off
    status detail) := by
  unfold State.finishOp
  repeat' first | with_reducible assumption | with_reducible apply only_State_setList | dsimp only | split

theorem only_State_addSteps {Ps : List Piece} {Ks : List RegKind} {s0 : State} (s : State) (id : Nat) (off : Nat)
    (steps : Nat) (aux : Nat) (hK : Only Ps Ks s0 s) (hp : [.lists] ⊆ Ps) : Only Ps Ks s0 (State.addSteps s id off
    steps aux) := by
  unfold State.addSteps
  repeat' first | with_reducible assumption | with_reducible apply only_State_setOp | split

theorem only_State_writeRecord {Ps : List Piece} {Ks : List RegKind} {s0 : State} (s : State) (l : WorkList) (o : Op)
    (bs : List Byte) (hK : Only Ps Ks s0 s) (hp : [.mem, .checks, .stores, .fpDirty, .chanPoisoned, .hbm, .ic, .flog0,
    .flog1, .mbox] ⊆ Ps) (hk : [.bedCe, .bedUe, .bedLastue, .memStat, .memInject, .memChstat, .memChce, .memChue,
    .memChpoison, .fabStat, .fabDiscard, .ctrVal] ⊆ Ks) : Only Ps Ks s0 (State.writeRecord s l o bs) := by
  unfold State.writeRecord
  repeat' first | with_reducible assumption | with_reducible apply only_State_opWrite | split

theorem only_State_issueOp {Ps : List Piece} {Ks : List RegKind} {s0 : State} (s : State) (id : Nat) (early : Option
    (List Byte)) (opc : Nat) (rules : State → WorkList → Op → OpErr) (run : State → WorkList → Op → State) (hK : Only
    Ps Ks s0 s) (hrun : ∀ s a0 a1, Only Ps Ks s0 s → Only Ps Ks s0 (run s a0 a1)) (hp : [.mem, .checks, .stores,
    .fpDirty, .chanPoisoned, .hbm, .ic, .flog0, .flog1, .mbox, .lists, .issueOrder] ⊆ Ps) (hk : [.bedCe, .bedUe,
    .bedLastue, .memStat, .memInject, .memChstat, .memChce, .memChue, .memChpoison, .fabStat, .fabDiscard, .ctrVal] ⊆
    Ks) : Only Ps Ks s0 (State.issueOp s id early opc rules run) := by
  unfold State.issueOp
  repeat' first
    | with_reducible assumption | exact List.Subset.trans (by decide +kernel) hp | exact hp (by decide +kernel)
    | exact List.Subset.trans (by decide +kernel) hk | with_reducible apply only_State_ctr
    | with_reducible apply only_State_fetchOp | with_reducible apply only_State_finishOp
    | with_reducible apply only_State_setList | with_reducible apply only_State_writeRecord
    | with_reducible apply hrun | dsimp only | split | with_reducible apply Only.upd_issueOrder

theorem only_State_govern {Ps : List Piece} {Ks : List RegKind} {s0 : State} (s : State) (t : Nat) (hK : Only Ps Ks s0
    s) (hk : [.vgov] ⊆ Ks) : Only Ps Ks s0 (State.govern s t) := by
  unfold State.govern
  repeat' first
    | with_reducible assumption | exact hk (List.elem_iff.mp rfl) | with_reducible apply only_State_setF | dsimp only
    | split

theorem only_State_completeList {Ps : List Piece} {Ks : List RegKind} {s0 : State} (s : State) (l : WorkList) (hK :
    Only Ps Ks s0 s) (hp : [.thermal, .mbox, .lists, .progress, .watchdogs] ⊆ Ps) (hk : [.vgov] ⊆ Ks) : Only Ps Ks s0
    (State.completeList s l) := by
  unfold State.completeList
  repeat' first
    | with_reducible assumption | exact List.Subset.trans (by decide +kernel) hp | exact hp (by decide +kernel)
    | with_reducible apply only_State_complete | with_reducible apply only_State_govern
    | with_reducible apply only_State_setTherm | with_reducible apply Only.fold | intro _ _ _ | dsimp only | split
    | with_reducible apply Only.upd_lists

theorem only_State_settleList {Ps : List Piece} {Ks : List RegKind} {s0 : State} (s : State) (id : Nat) (ended : Bool)
    (hK : Only Ps Ks s0 s) (hp : [.thermal, .mbox, .lists, .progress, .watchdogs] ⊆ Ps) (hk : [.vgov] ⊆ Ks) : Only Ps
    Ks s0 (State.settleList s id ended) := by
  unfold State.settleList
  repeat' first
    | with_reducible assumption | exact List.Subset.trans (by decide +kernel) hp
    | with_reducible apply only_State_completeList | with_reducible apply only_State_setList | dsimp only | split

theorem only_State_atomicMem {Ps : List Piece} {Ks : List RegKind} {s0 : State} (s : State) (a : Nat) (tenant : Nat)
    (node : Nat) (v : Nat) (hK : Only Ps Ks s0 s) (hp : [.mem, .checks, .fpDirty, .chanPoisoned, .hbm, .ic, .flog0,
    .flog1, .mbox] ⊆ Ps) (hk : [.bedCe, .bedUe, .bedLastue, .memStat, .memInject, .memChstat, .memChce, .memChue,
    .memChpoison, .fabStat, .fabDiscard, .ctrVal] ⊆ Ks) : Only Ps Ks s0 (State.atomicMem s a tenant node v).1 := by
  unfold State.atomicMem
  repeat' first
    | with_reducible assumption | exact List.Subset.trans (by decide +kernel) hp
    | exact List.Subset.trans (by decide +kernel) hk | with_reducible apply only_State_readMem
    | with_reducible apply only_State_writeMem | dsimp only | split

theorem only_State_listEvent {Ps : List Piece} {Ks : List RegKind} {s0 : State} (s : State) (l : WorkList) (off : Nat)
    (hK : Only Ps Ks s0 s) (hp : [.ic, .mbox] ⊆ Ps) : Only Ps Ks s0 (State.listEvent s l off) := by
  unfold State.listEvent
  repeat' first
    | with_reducible assumption | exact List.Subset.trans (by decide +kernel) hp
    | with_reducible apply only_State_notify | with_reducible apply only_State_raise

theorem only_State_request {Ps : List Piece} {Ks : List RegKind} {s0 : State} (s : State) (node : Nat) (addr : Nat)
    (tenant : Nat) (op : Option (Nat × Nat)) (hK : Only Ps Ks s0 s) (hp : [.reqs, .tagCtr] ⊆ Ps) : Only Ps Ks s0
    (State.request s node addr tenant op).1 := by
  unfold State.request
  repeat' first
    | with_reducible assumption | exact hp (by decide +kernel) | dsimp only
    | with_reducible apply Only.upd_tagCtr_reqs

theorem only_State_fireSignal {Ps : List Piece} {Ks : List RegKind} {s0 : State} (s : State) (l : WorkList) (o : Op)
    (hK : Only Ps Ks s0 s) (hp : [.out, .mem, .checks, .fpDirty, .chanPoisoned, .hbm, .ports, .reqs, .ic, .flog0,
    .flog1, .mbox, .lists, .tagCtr] ⊆ Ps) (hk : [.bedCe, .bedUe, .bedLastue, .memStat, .memInject, .memChstat,
    .memChce, .memChue, .memChpoison, .fabStat, .fabDiscard, .ctrVal] ⊆ Ks) : Only Ps Ks s0 (State.fireSignal s l o)
    := by
  unfold State.fireSignal
  repeat' first
    | with_reducible assumption | exact List.Subset.trans (by decide +kernel) hp | exact hp (by decide +kernel)
    | exact List.Subset.trans (by decide +kernel) hk | with_reducible apply only_State_atomicMem
    | with_reducible apply only_State_finishOp | with_reducible apply only_State_listEvent
    | with_reducible apply only_State_request | with_reducible apply only_State_sendOut
    | with_reducible apply only_State_startOp | dsimp only | split | with_reducible apply Only.upd_reqs

theorem only_State_advance {Ps : List Piece} {Ks : List RegKind} {s0 : State} (s : State) (id : Nat) (hK : Only Ps Ks
    s0 s) (hp : [.out, .mem, .checks, .fpDirty, .chanPoisoned, .hbm, .ports, .reqs, .ic, .flog0, .flog1, .mbox,
    .lists, .tagCtr] ⊆ Ps) (hk : [.bedCe, .bedUe, .bedLastue, .memStat, .memInject, .memChstat, .memChce, .memChue,
    .memChpoison, .fabStat, .fabDiscard, .ctrVal] ⊆ Ks) : Only Ps Ks s0 (State.advance s id) := by
  unfold State.advance
  repeat' first
    | with_reducible assumption | exact List.Subset.trans (by decide +kernel) hp
    | with_reducible apply only_State_finishOp | with_reducible apply only_State_fireSignal
    | with_reducible apply only_State_startOp | split

theorem only_operationComplete {Ps : List Piece} {Ks : List RegKind} {s0 : State} (id : Nat) (off : Nat) (s : State)
    (hK : Only Ps Ks s0 s) (hp : [.out, .mem, .checks, .stores, .fpDirty, .chanPoisoned, .hbm, .thermal, .ports,
    .reqs, .ic, .flog0, .flog1, .mbox, .lists, .tagCtr, .progress, .watchdogs] ⊆ Ps) (hk : [.bedCe, .bedUe,
    .bedLastue, .memStat, .memInject, .memChstat, .memChce, .memChue, .memChpoison, .fabStat, .fabDiscard, .vgov,
    .detNondet, .ctrVal] ⊆ Ks) : Only Ps Ks s0 (operationComplete id off s) := by
  unfold operationComplete
  repeat' first
    | with_reducible assumption | exact List.Subset.trans (by decide +kernel) hp
    | exact List.Subset.trans (by decide +kernel) hk | exact hk (List.elem_iff.mp rfl)
    | with_reducible apply only_State_advance | with_reducible apply only_State_countF
    | with_reducible apply only_State_listEvent | with_reducible apply only_State_progressed
    | with_reducible apply only_State_setList | with_reducible apply only_State_settleList
    | with_reducible apply only_State_writeRecord | dsimp only | split

theorem only_execFence (list : Nat) (early : Option (List Byte)) (s : State) : ∃ t, execFence list early s = .next t ∧
    Only [.out, .mem, .checks, .stores, .fpDirty, .chanPoisoned, .hbm, .ports, .reqs, .ic, .flog0, .flog1, .mbox,
    .lists, .issueOrder, .tagCtr] [.bedCe, .bedUe, .bedLastue, .memStat, .memInject, .memChstat, .memChce, .memChue,
    .memChpoison, .fabStat, .fabDiscard, .ctrVal] s t := by
  refine ⟨_, rfl, ?_⟩
  repeat' first
    | with_reducible assumption | with_reducible exact Only.refl _ | decide +kernel
    | with_reducible apply only_State_advance | with_reducible apply only_State_issueOp | intro _ _ _ _

theorem only_execSignal (list : Nat) (early : Option (List Byte)) (s : State) : ∃ t, execSignal list early s = .next t
    ∧ Only [.out, .mem, .checks, .stores, .fpDirty, .chanPoisoned, .hbm, .ports, .reqs, .ic, .flog0, .flog1, .mbox,
    .lists, .issueOrder, .tagCtr] [.bedCe, .bedUe, .bedLastue, .memStat, .memInject, .memChstat, .memChce, .memChue,
    .memChpoison, .fabStat, .fabDiscard, .ctrVal] s t := by
  refine ⟨_, rfl, ?_⟩
  repeat' first
    | with_reducible assumption | with_reducible exact Only.refl _ | decide +kernel
    | with_reducible apply only_State_advance | with_reducible apply only_State_issueOp | intro _ _ _ _

theorem only_State_pollWait {Ps : List Piece} {Ks : List RegKind} {s0 : State} (s : State) (l : WorkList) (o : Op) (hK
    : Only Ps Ks s0 s) (hp : [.fpDirty, .chanPoisoned, .hbm, .ic, .flog0, .flog1, .mbox, .lists] ⊆ Ps) (hk : [.bedCe,
    .bedUe, .bedLastue, .memStat, .memChstat, .memChce, .memChue, .memChpoison, .ctrVal] ⊆ Ks) : Only Ps Ks s0
    (State.pollWait s l o) := by
  unfold State.pollWait
  repeat' first
    | with_reducible assumption | exact List.Subset.trans (by decide +kernel) hp
    | with_reducible apply only_State_finishOp | with_reducible apply only_State_readMem
    | with_reducible apply only_State_setOp | dsimp only | split

theorem only_execWait (list : Nat) (early : Option (List Byte)) (s : State) : ∃ t, execWait list early s = .next t ∧
    Only [.mem, .checks, .stores, .fpDirty, .chanPoisoned, .hbm, .ic, .flog0, .flog1, .mbox, .lists, .issueOrder]
    [.bedCe, .bedUe, .bedLastue, .memStat, .memInject, .memChstat, .memChce, .memChue, .memChpoison, .fabStat,
    .fabDiscard, .ctrVal] s t := by
  refine ⟨_, rfl, ?_⟩
  repeat' first
    | with_reducible assumption | with_reducible exact Only.refl _ | decide +kernel
    | with_reducible apply only_State_issueOp | with_reducible apply only_State_pollWait
    | with_reducible apply only_State_startOp | intro _ _ _ _

theorem only_execWaitPoll (list : Nat) (s : State) : ∃ t, execWaitPoll list s = .next t ∧ Only [.fpDirty,
    .chanPoisoned, .hbm, .ic, .flog0, .flog1, .mbox, .lists] [.bedCe, .bedUe, .bedLastue, .memStat, .memChstat,
    .memChce, .memChue, .memChpoison, .ctrVal] s t := by
  refine ⟨_, rfl, ?_⟩
  repeat' first | with_reducible exact Only.refl _ | decide +kernel | with_reducible apply only_State_pollWait | split

theorem only_execWaitTimeout (list : Nat) (s : State) : ∃ t, execWaitTimeout list s = .next t ∧ Only [.lists] [] s t
    := by
  refine ⟨_, rfl, ?_⟩
  repeat' first | with_reducible exact Only.refl _ | decide +kernel | with_reducible apply only_State_finishOp | split

theorem only_execLaunchAt (list : Nat) (early : Option (List Byte)) (s : State) : ∃ t, execLaunchAt list early s =
    .next t ∧ Only [.mem, .checks, .stores, .fpDirty, .chanPoisoned, .hbm, .ic, .flog0, .flog1, .mbox, .lists,
    .issueOrder] [.bedCe, .bedUe, .bedLastue, .memStat, .memInject, .memChstat, .memChce, .memChue, .memChpoison,
    .fabStat, .fabDiscard, .ctrVal] s t := by
  refine ⟨_, rfl, ?_⟩
  repeat' first
    | with_reducible assumption | with_reducible exact Only.refl _ | decide +kernel
    | with_reducible apply only_State_finishOp | with_reducible apply only_State_issueOp
    | with_reducible apply only_State_setOp | with_reducible apply only_State_startOp | intro _ _ _ _ | dsimp only
    | split

theorem only_execLaunchAtRelease (list : Nat) (s : State) : ∃ t, execLaunchAtRelease list s = .next t ∧ Only [.lists]
    [] s t := by
  refine ⟨_, rfl, ?_⟩
  repeat' first | with_reducible exact Only.refl _ | decide +kernel | with_reducible apply only_State_finishOp | split

theorem only_execEndOp (list : Nat) (early : Option (List Byte)) (s : State) : ∃ t, execEndOp list early s = .next t ∧
    Only [.out, .mem, .checks, .stores, .fpDirty, .chanPoisoned, .hbm, .ports, .reqs, .ic, .flog0, .flog1, .mbox,
    .lists, .issueOrder, .tagCtr] [.bedCe, .bedUe, .bedLastue, .memStat, .memInject, .memChstat, .memChce, .memChue,
    .memChpoison, .fabStat, .fabDiscard, .ctrVal] s t := by
  refine ⟨_, rfl, ?_⟩
  repeat' first
    | with_reducible assumption | with_reducible exact Only.refl _ | decide +kernel
    | with_reducible apply only_State_advance | with_reducible apply only_State_issueOp | intro _ _ _ _

theorem only_execBankFence (list : Nat) (early : Option (List Byte)) (s : State) : ∃ t, execBankFence list early s =
    .next t ∧ Only [.mem, .checks, .stores, .fpDirty, .chanPoisoned, .hbm, .ic, .flog0, .flog1, .mbox, .lists,
    .issueOrder] [.bedCe, .bedUe, .bedLastue, .memStat, .memInject, .memChstat, .memChce, .memChue, .memChpoison,
    .fabStat, .fabDiscard, .ctrVal] s t := by
  refine ⟨_, rfl, ?_⟩
  repeat' first
    | with_reducible assumption | with_reducible exact Only.refl _ | decide +kernel
    | with_reducible apply only_State_finishOp | with_reducible apply only_State_issueOp
    | with_reducible apply only_State_startOp | intro _ _ _ _

theorem only_State_dropQueued {Ps : List Piece} {Ks : List RegKind} {s0 : State} (s : State) (l : WorkList) (hK : Only
    Ps Ks s0 s) (hp : [.cores] ⊆ Ps) : Only Ps Ks s0 (State.dropQueued s l) := by
  unfold State.dropQueued
  repeat' first
    | with_reducible assumption | exact hp (by decide +kernel) | dsimp only | with_reducible apply Only.upd_cores

theorem only_State_preempt {Ps : List Piece} {Ks : List RegKind} {s0 : State} (s : State) (id : Nat) (hK : Only Ps Ks
    s0 s) (hp : [.cores, .lists] ⊆ Ps) : Only Ps Ks s0 (State.preempt s id) := by
  unfold State.preempt
  repeat' first
    | with_reducible assumption | exact List.Subset.trans (by decide +kernel) hp
    | with_reducible apply only_State_dropQueued | with_reducible apply only_State_setList | split

theorem only_execPreemptionRequest (list : Nat) (s : State) : ∃ t, execPreemptionRequest list s = .next t ∧ Only
    [.cores, .lists] [] s t := by
  refine ⟨_, rfl, ?_⟩
  repeat' first | with_reducible exact Only.refl _ | decide +kernel | with_reducible apply only_State_preempt

theorem only_State_dropOp {Ps : List Piece} {Ks : List RegKind} {s0 : State} (s : State) (id : Nat) (off : Nat) (hK :
    Only Ps Ks s0 s) (hp : [.cores] ⊆ Ps) : Only Ps Ks s0 (State.dropOp s id off) := by
  unfold State.dropOp
  repeat' first
    | with_reducible assumption | exact hp (by decide +kernel) | dsimp only | with_reducible apply Only.upd_cores

theorem only_tileBoundaryStop {Ps : List Piece} {Ks : List RegKind} {s0 : State} (id : Nat) (off : Nat) (s : State)
    (hK : Only Ps Ks s0 s) (hp : [.cores, .thermal, .mbox, .lists, .progress, .watchdogs] ⊆ Ps) (hk : [.vgov] ⊆ Ks) :
    Only Ps Ks s0 (tileBoundaryStop id off s) := by
  unfold tileBoundaryStop
  repeat' first
    | with_reducible assumption | exact List.Subset.trans (by decide +kernel) hp
    | with_reducible apply only_State_dropOp | with_reducible apply only_State_setOp
    | with_reducible apply only_State_settleList | dsimp only | split

theorem only_State_setQsImage {Ps : List Piece} {Ks : List RegKind} {s0 : State} (s : State) (k : Nat) (bs : List
    Byte) (hK : Only Ps Ks s0 s) (hk : [.qsctl, .qswin, .qselem, .qstot, .qsstat] ⊆ Ks) : Only Ps Ks s0
    (State.setQsImage s k bs) := by
  unfold State.setQsImage
  repeat' first
    | with_reducible assumption | exact hk (List.elem_iff.mp rfl) | with_reducible apply only_State_setReg
    | with_reducible apply Only.fold | intro _ _ _

theorem only_State_writeResume {Ps : List Piece} {Ks : List RegKind} {s0 : State} (s : State) (l : WorkList) (off :
    Nat) (bs : List Byte) (hK : Only Ps Ks s0 s) (hp : [.mem, .checks, .stores, .fpDirty, .chanPoisoned, .hbm, .ic,
    .flog0, .flog1, .mbox] ⊆ Ps) (hk : [.bedCe, .bedUe, .bedLastue, .memStat, .memInject, .memChstat, .memChce,
    .memChue, .memChpoison, .fabStat, .fabDiscard, .ctrVal] ⊆ Ks) : Only Ps Ks s0 (State.writeResume s l off bs) := by
  unfold State.writeResume
  repeat' first | with_reducible assumption | with_reducible apply only_State_opWrite | split

theorem only_State_onDev {Ps : List Piece} {Ks : List RegKind} {s0 : State} (s : State) (p : Option Place)
    (f : Nat → State) (hK : Only Ps Ks s0 s) (hf : ∀ a, Only Ps Ks s0 (f a)) : Only Ps Ks s0 (s.onDev p f) := by
  unfold State.onDev
  split
  · exact hf _
  · exact hK

theorem only_State_saveImage {Ps : List Piece} {Ks : List RegKind} {s0 : State} (s : State) (l : WorkList) (c : Nat)
    (hK : Only Ps Ks s0 s) (hp : [.mem, .checks] ⊆ Ps) : Only Ps Ks s0 (State.saveImage s l c) := by
  unfold State.saveImage
  repeat' first
    | with_reducible assumption | exact hp (by decide +kernel) | with_reducible apply only_State_onDev | intro _
    | with_reducible apply Only.upd_mem_checks

theorem only_State_loadImage {Ps : List Piece} {Ks : List RegKind} {s0 : State} (s : State) (l : WorkList) (c : Nat)
    (hK : Only Ps Ks s0 s) (hp : [.stores] ⊆ Ps) : Only Ps Ks s0 (State.loadImage s l c) := by
  unfold State.loadImage
  repeat' first
    | with_reducible assumption | exact hp (by decide +kernel) | with_reducible apply only_State_onDev | intro _
    | with_reducible apply Only.upd_stores

theorem only_resumeRecordWrite {Ps : List Piece} {Ks : List RegKind} {s0 : State} (id : Nat) (s : State) (hK : Only Ps
    Ks s0 s) (hp : [.mem, .checks, .stores, .fpDirty, .chanPoisoned, .hbm, .thermal, .ic, .flog0, .flog1, .mbox,
    .lists] ⊆ Ps) (hk : [.bedCe, .bedUe, .bedLastue, .memStat, .memInject, .memChstat, .memChce, .memChue,
    .memChpoison, .fabStat, .fabDiscard, .vgov, .ctrVal] ⊆ Ks) : Only Ps Ks s0 (resumeRecordWrite id s) := by
  unfold resumeRecordWrite
  repeat' first
    | with_reducible assumption | exact List.Subset.trans (by decide +kernel) hp
    | exact List.Subset.trans (by decide +kernel) hk | with_reducible apply only_State_govern
    | with_reducible apply only_State_saveImage | with_reducible apply only_State_setList
    | with_reducible apply only_State_setTherm | with_reducible apply only_State_writeResume
    | with_reducible apply Only.fold | intro _ _ _ | dsimp only | split

theorem only_execResumeRecordWrite (list : Nat) (s : State) : ∃ t, execResumeRecordWrite list s = .next t ∧ Only
    [.mem, .checks, .stores, .fpDirty, .chanPoisoned, .hbm, .thermal, .ic, .flog0, .flog1, .mbox, .lists] [.bedCe,
    .bedUe, .bedLastue, .memStat, .memInject, .memChstat, .memChce, .memChue, .memChpoison, .fabStat, .fabDiscard,
    .vgov, .ctrVal] s t := by
  refine ⟨_, rfl, ?_⟩
  repeat' first | with_reducible exact Only.refl _ | decide +kernel | with_reducible apply only_resumeRecordWrite

theorem only_resumeList {Ps : List Piece} {Ks : List RegKind} {s0 : State} (id : Nat) (requeue : State → WorkList → Op
    → State) (s : State) (hrequeue : ∀ s a0 a1, Only Ps Ks s0 s → Only Ps Ks s0 (requeue s a0 a1)) (hK : Only Ps Ks s0
    s) (hp : [.out, .freeCtr, .mem, .checks, .stores, .fpDirty, .chanPoisoned, .hbm, .thermal, .ports, .reqs, .ic,
    .flog0, .flog1, .mbox, .lists, .tagCtr, .progress, .watchdogs] ⊆ Ps) (hk : [.qsctl, .qswin, .qselem, .qstot,
    .qsstat, .bedCe, .bedUe, .bedLastue, .memStat, .memInject, .memChstat, .memChce, .memChue, .memChpoison, .fabStat,
    .fabDiscard, .vgov, .ctrVal] ⊆ Ks) : Only Ps Ks s0 (resumeList id requeue s) := by
  unfold resumeList
  repeat' first
    | with_reducible assumption | exact List.Subset.trans (by decide +kernel) hp | exact hp (by decide +kernel)
    | exact List.Subset.trans (by decide +kernel) hk | with_reducible apply only_State_advance
    | with_reducible apply only_State_loadImage | with_reducible apply only_State_setList
    | with_reducible apply only_State_setQsImage | with_reducible apply only_State_settleList
    | with_reducible apply hrequeue | with_reducible apply Only.fold | intro _ _ _ | dsimp only | split
    | with_reducible apply Only.upd_freeCtr

/-! ### Machine/Span.lean -/

theorem only_State_endRequest {Ps : List Piece} {Ks : List RegKind} {s0 : State} (s : State) (r : Req) (st : Nat) (hK
    : Only Ps Ks s0 s) (hp : [.reqs, .ic, .mbox, .lists] ⊆ Ps) : Only Ps Ks s0 (State.endRequest s r st) := by
  unfold State.endRequest
  repeat' first
    | with_reducible assumption | exact List.Subset.trans (by decide +kernel) hp | exact hp (by decide +kernel)
    | with_reducible apply only_State_finishOp | with_reducible apply only_State_listEvent | dsimp only | split
    | with_reducible apply Only.upd_reqs

theorem only_State_lateRsp {Ps : List Piece} {Ks : List RegKind} {s0 : State} (s : State) (r : Req) (hK : Only Ps Ks
    s0 s) (hp : [.reqs, .ic, .flog0, .flog1] ⊆ Ps) (hk : [.fabStat, .fabDiscard] ⊆ Ks) : Only Ps Ks s0 (State.lateRsp
    s r) := by
  unfold State.lateRsp
  repeat' first
    | with_reducible assumption | exact List.Subset.trans (by decide +kernel) hp | exact hp (by decide +kernel)
    | exact hk (List.elem_iff.mp rfl) | with_reducible apply only_State_countF | with_reducible apply only_State_log
    | with_reducible apply only_State_raise | with_reducible apply only_State_setBit | dsimp only | split
    | with_reducible apply Only.upd_reqs

theorem only_State_deliverRsp {Ps : List Piece} {Ks : List RegKind} {s0 : State} (s : State) (m : Msg) (hK : Only Ps
    Ks s0 s) (hp : [.out, .reqs, .ic, .flog0, .flog1, .mbox, .lists] ⊆ Ps) (hk : [.fabStat, .fabDiscard] ⊆ Ks) : Only
    Ps Ks s0 (State.deliverRsp s m) := by
  unfold State.deliverRsp
  repeat' first
    | with_reducible assumption | exact List.Subset.trans (by decide +kernel) hp
    | with_reducible apply only_State_emit | with_reducible apply only_State_endRequest
    | with_reducible apply only_State_lateRsp | split

theorem only_State_respond {Ps : List Piece} {Ks : List RegKind} {s0 : State} (s : State) (die : Nat) (m : Msg) (hK :
    Only Ps Ks s0 s) (hp : [.out, .ports, .reqs, .ic, .flog0, .flog1, .mbox, .lists] ⊆ Ps) (hk : [.fabStat,
    .fabDiscard, .ctrVal] ⊆ Ks) : Only Ps Ks s0 (State.respond s die m) := by
  unfold State.respond
  repeat' first
    | with_reducible assumption | exact List.Subset.trans (by decide +kernel) hp
    | exact List.Subset.trans (by decide +kernel) hk | with_reducible apply only_State_deliverRsp
    | with_reducible apply only_State_sendOut | split

theorem only_State_answerLost {Ps : List Piece} {Ks : List RegKind} {s0 : State} (s : State) (die : Nat) (node : Nat)
    (m : Msg) (hK : Only Ps Ks s0 s) (hp : [.out, .ports, .reqs, .ic, .flog0, .flog1, .mbox, .lists] ⊆ Ps) (hk :
    [.fabStat, .fabDiscard, .ctrVal] ⊆ Ks) : Only Ps Ks s0 (State.answerLost s die node m) := by
  unfold State.answerLost
  repeat' first | with_reducible assumption | with_reducible apply only_State_respond

theorem only_State_showLanes {Ps : List Piece} {Ks : List RegKind} {s0 : State} (s : State) (p : Nat) (rx : Nat) (tx :
    Nat) (hK : Only Ps Ks s0 s) (hk : [.spnStat, .spnRxmap, .spnTxmap, .spnLanest] ⊆ Ks) : Only Ps Ks s0
    (State.showLanes s p rx tx) := by
  unfold State.showLanes
  repeat' first
    | with_reducible assumption | exact hk (List.elem_iff.mp rfl) | with_reducible apply only_State_setF
    | with_reducible apply only_State_setReg

theorem only_State_blankPort {Ps : List Piece} {Ks : List RegKind} {s0 : State} (s : State) (p : Nat) (state : Nat)
    (lane : Nat) (hK : Only Ps Ks s0 s) (hk : [.spnStat, .spnRxmap, .spnTxmap, .spnLanest] ⊆ Ks) : Only Ps Ks s0
    (State.blankPort s p state lane) := by
  unfold State.blankPort
  repeat' first
    | with_reducible assumption | exact hk (List.elem_iff.mp rfl) | with_reducible apply only_State_setF
    | with_reducible apply only_State_setReg

theorem only_State_logDown {Ps : List Piece} {Ks : List RegKind} {s0 : State} (s : State) (p : Nat) (cause : Nat)
    (gone : List Msg) (hK : Only Ps Ks s0 s) (hp : [.flog0, .flog1] ⊆ Ps) : Only Ps Ks s0 (State.logDown s p cause
    gone) := by
  unfold State.logDown
  repeat' first
    | with_reducible assumption | with_reducible apply only_State_log | with_reducible apply Only.fold | intro _ _ _
    | dsimp only | split

theorem only_State_portDown {Ps : List Piece} {Ks : List RegKind} {s0 : State} (s : State) (p : Nat) (cause : Nat) (hK
    : Only Ps Ks s0 s) (hp : [.out, .fpDirty, .ports, .reqs, .spanLost, .ic, .flog0, .flog1, .mbox, .lists] ⊆ Ps) (hk
    : [.fabStat, .fabDiscard, .spnStat, .spnRxmap, .spnTxmap, .spnLanest, .spnDiscard, .ctrVal] ⊆ Ks) : Only Ps Ks s0
    (State.portDown s p cause) := by
  unfold State.portDown
  repeat' first
    | with_reducible assumption | exact List.Subset.trans (by decide +kernel) hp | exact hp (by decide +kernel)
    | exact List.Subset.trans (by decide +kernel) hk | exact hk (List.elem_iff.mp rfl)
    | with_reducible apply only_State_answerLost | with_reducible apply only_State_blankPort
    | with_reducible apply only_State_countF | with_reducible apply only_State_logDown
    | with_reducible apply only_State_raise | with_reducible apply only_State_setBit
    | with_reducible apply only_State_setF | with_reducible apply only_State_setSpan | with_reducible apply Only.fold
    | intro _ _ _ | dsimp only | split | with_reducible apply Only.upd_fpDirty_spanLost

theorem only_State_showHold {Ps : List Piece} {Ks : List RegKind} {s0 : State} (s : State) (p : Nat) (hK : Only Ps Ks
    s0 s) (hk : [.spnStat] ⊆ Ks) : Only Ps Ks s0 (State.showHold s p) := by
  unfold State.showHold
  repeat' first | with_reducible assumption | exact hk (List.elem_iff.mp rfl) | with_reducible apply only_State_setF

theorem only_State_narrowRx {Ps : List Piece} {Ks : List RegKind} {s0 : State} (s : State) (p : Nat) (hK : Only Ps Ks
    s0 s) (hp : [.out, .fpDirty, .ports, .reqs, .spanLost, .ic, .flog0, .flog1, .mbox, .lists] ⊆ Ps) (hk : [.fabStat,
    .fabDiscard, .spnStat, .spnRxmap, .spnTxmap, .spnLanest, .spnDiscard, .ctrVal] ⊆ Ks) : Only Ps Ks s0
    (State.narrowRx s p) := by
  unfold State.narrowRx
  repeat' first
    | with_reducible assumption | exact List.Subset.trans (by decide +kernel) hp | exact hp (by decide +kernel)
    | exact List.Subset.trans (by decide +kernel) hk | with_reducible apply only_State_portDown
    | with_reducible apply only_State_sendControl | with_reducible apply only_State_setSpan
    | with_reducible apply only_State_showHold | with_reducible apply only_State_showLanes | dsimp only | split
    | with_reducible apply Only.upd_fpDirty

theorem only_laneLoss {Ps : List Piece} {Ks : List RegKind} {s0 : State} (p : Nat) (lane : Nat) (s : State) (hK : Only
    Ps Ks s0 s) (hp : [.out, .fpDirty, .ports, .reqs, .spanLost, .ic, .flog0, .flog1, .mbox, .lists] ⊆ Ps) (hk :
    [.fabStat, .fabDiscard, .spnStat, .spnRxmap, .spnTxmap, .spnLanest, .spnLaneloss, .spnDiscard, .ctrVal] ⊆ Ks) :
    Only Ps Ks s0 (laneLoss p lane s) := by
  unfold laneLoss
  repeat' first
    | with_reducible assumption | exact List.Subset.trans (by decide +kernel) hp
    | exact List.Subset.trans (by decide +kernel) hk | exact hk (List.elem_iff.mp rfl)
    | with_reducible apply only_State_countF | with_reducible apply only_State_narrowRx
    | with_reducible apply only_State_portDown | with_reducible apply only_State_sendControl
    | with_reducible apply only_State_setBit | with_reducible apply only_State_setSpan
    | with_reducible apply only_State_showHold | with_reducible apply only_State_showLanes | dsimp only | split

theorem only_execLaneLoss (port : Fin 24) (lane : Fin 9) (s : State) : ∃ t, execLaneLoss port lane s = .next t ∧ Only
    [.out, .fpDirty, .ports, .reqs, .spanLost, .ic, .flog0, .flog1, .mbox, .lists] [.fabStat, .fabDiscard, .spnStat,
    .spnRxmap, .spnTxmap, .spnLanest, .spnLaneloss, .spnDiscard, .ctrVal] s t := by
  refine ⟨_, rfl, ?_⟩
  repeat' first | with_reducible exact Only.refl _ | decide +kernel | with_reducible apply only_laneLoss

theorem only_spareLaneLock {Ps : List Piece} {Ks : List RegKind} {s0 : State} (p : Nat) (s : State) (hK : Only Ps Ks
    s0 s) (hp : [.out, .fpDirty, .ports] ⊆ Ps) (hk : [.spnStat, .spnRxmap, .spnTxmap, .spnLanest, .ctrVal] ⊆ Ks) :
    Only Ps Ks s0 (spareLaneLock p s) := by
  unfold spareLaneLock
  repeat' first
    | with_reducible assumption | exact List.Subset.trans (by decide +kernel) hp | exact hp (by decide +kernel)
    | exact List.Subset.trans (by decide +kernel) hk | with_reducible apply only_State_pump
    | with_reducible apply only_State_sendControl | with_reducible apply only_State_setSpan
    | with_reducible apply only_State_showHold | with_reducible apply only_State_showLanes | dsimp only | split
    | with_reducible apply Only.upd_fpDirty

theorem only_execSpareLaneLock (port : Fin 24) (s : State) : ∃ t, execSpareLaneLock port s = .next t ∧ Only [.out,
    .fpDirty, .ports] [.spnStat, .spnRxmap, .spnTxmap, .spnLanest, .ctrVal] s t := by
  refine ⟨_, rfl, ?_⟩
  repeat' first | with_reducible exact Only.refl _ | decide +kernel | with_reducible apply only_spareLaneLock

theorem only_holdTimeout {Ps : List Piece} {Ks : List RegKind} {s0 : State} (p : Nat) (s : State) (hK : Only Ps Ks s0
    s) (hp : [.out, .fpDirty, .ports, .reqs, .spanLost, .ic, .flog0, .flog1, .mbox, .lists] ⊆ Ps) (hk : [.fabStat,
    .fabDiscard, .spnStat, .spnRxmap, .spnTxmap, .spnLanest, .spnDiscard, .ctrVal] ⊆ Ks) : Only Ps Ks s0 (holdTimeout
    p s) := by
  unfold holdTimeout
  repeat' first
    | with_reducible assumption | with_reducible apply only_State_narrowRx | with_reducible apply only_State_portDown
    | dsimp only | split

theorem only_execHoldTimeout (port : Fin 24) (s : State) : ∃ t, execHoldTimeout port s = .next t ∧ Only [.out,
    .fpDirty, .ports, .reqs, .spanLost, .ic, .flog0, .flog1, .mbox, .lists] [.fabStat, .fabDiscard, .spnStat,
    .spnRxmap, .spnTxmap, .spnLanest, .spnDiscard, .ctrVal] s t := by
  refine ⟨_, rfl, ?_⟩
  repeat' first | with_reducible exact Only.refl _ | decide +kernel | with_reducible apply only_holdTimeout

theorem only_spanNoPeer {Ps : List Piece} {Ks : List RegKind} {s0 : State} (p : Nat) (s : State) (hK : Only Ps Ks s0
    s) (hp : [.ports] ⊆ Ps) (hk : [.spnStat, .spnRxmap, .spnTxmap, .spnLanest] ⊆ Ks) : Only Ps Ks s0 (spanNoPeer p s)
    := by
  unfold spanNoPeer
  repeat' first
    | with_reducible assumption | exact hk (List.elem_iff.mp rfl) | with_reducible apply only_State_blankPort
    | with_reducible apply only_State_setF | with_reducible apply only_State_setSpan | split

theorem only_execSpanNoPeer (port : Fin 24) (s : State) : ∃ t, execSpanNoPeer port s = .next t ∧ Only [.ports]
    [.spnStat, .spnRxmap, .spnTxmap, .spnLanest] s t := by
  refine ⟨_, rfl, ?_⟩
  repeat' first | with_reducible exact Only.refl _ | decide +kernel | with_reducible apply only_spanNoPeer

theorem only_State_portTrained {Ps : List Piece} {Ks : List RegKind} {s0 : State} (s : State) (p : Nat) (f :
    PortTraining) (hK : Only Ps Ks s0 s) (hp : [.ports] ⊆ Ps) (hk : [.spnStat, .spnRxmap, .spnTxmap, .spnLanest] ⊆ Ks)
    : Only Ps Ks s0 (State.portTrained s p f) := by
  unfold State.portTrained
  repeat' first
    | with_reducible assumption | exact hk (List.elem_iff.mp rfl) | with_reducible apply only_State_blankPort
    | with_reducible apply only_State_setF | with_reducible apply only_State_setSpan
    | with_reducible apply only_State_showLanes | dsimp only | split

theorem only_execSpanPortTrained (port : Fin 24) (f : PortTraining) (s : State) : ∃ t, execSpanPortTrained port f s =
    .next t ∧ Only [.ports] [.spnStat, .spnRxmap, .spnTxmap, .spnLanest] s t := by
  refine ⟨_, rfl, ?_⟩
  repeat' first
    | with_reducible exact Only.refl _ | decide +kernel | with_reducible apply only_State_portTrained | split

theorem only_State_retrain {Ps : List Piece} {Ks : List RegKind} {s0 : State} (s : State) (p : Nat) (hK : Only Ps Ks
    s0 s) (hp : [.out, .freeCtr, .fpDirty, .ports, .reqs, .spanLost, .ic, .flog0, .flog1, .mbox, .lists] ⊆ Ps) (hk :
    [.fabStat, .fabDiscard, .spnStat, .spnRxmap, .spnTxmap, .spnLanest, .spnDiscard, .ctrVal] ⊆ Ks) : Only Ps Ks s0
    (State.retrain s p) := by
  unfold State.retrain
  repeat' first
    | with_reducible assumption | exact List.Subset.trans (by decide +kernel) hp
    | exact List.Subset.trans (by decide +kernel) hk | with_reducible apply only_State_blankPort
    | with_reducible apply only_State_bumpFree | with_reducible apply only_State_portDown
    | with_reducible apply only_State_setSpan | dsimp only | split

theorem only_execRetrain (port : Fin 24) (s : State) : ∃ t, execRetrain port s = .next t ∧ Only [.out, .freeCtr,
    .fpDirty, .ports, .reqs, .spanLost, .ic, .flog0, .flog1, .mbox, .lists] [.fabStat, .fabDiscard, .spnStat,
    .spnRxmap, .spnTxmap, .spnLanest, .spnDiscard, .ctrVal] s t := by
  refine ⟨_, rfl, ?_⟩
  repeat' first | with_reducible exact Only.refl _ | decide +kernel | with_reducible apply only_State_retrain | split

theorem only_spnCtlWrite {Ps : List Piece} {Ks : List RegKind} {s0 : State} (p : Nat) (v : Nat) (s : State) (hK : Only
    Ps Ks s0 s) (hp : [.out, .freeCtr, .fpDirty, .ports, .reqs, .spanLost, .ic, .flog0, .flog1, .mbox, .lists] ⊆ Ps)
    (hk : [.fabStat, .fabDiscard, .spnCtl, .spnStat, .spnRxmap, .spnTxmap, .spnLanest, .spnDiscard, .ctrVal] ⊆ Ks) :
    Only Ps Ks s0 (spnCtlWrite p v s) := by
  unfold spnCtlWrite
  repeat' first
    | with_reducible assumption | exact List.Subset.trans (by decide +kernel) hp
    | exact List.Subset.trans (by decide +kernel) hk | exact hk (List.elem_iff.mp rfl)
    | with_reducible apply only_State_blankPort | with_reducible apply only_State_plainWrite
    | with_reducible apply only_State_portDown | with_reducible apply only_State_retrain
    | with_reducible apply only_State_setF | with_reducible apply only_State_setSpan | dsimp only | split

theorem only_execSpnCtlEnable (port : Fin 24) (value : Word) (s : State) : ∃ t, execSpnCtlEnable port value s = .next
    t ∧ Only [.out, .freeCtr, .fpDirty, .ports, .reqs, .spanLost, .ic, .flog0, .flog1, .mbox, .lists] [.fabStat,
    .fabDiscard, .spnCtl, .spnStat, .spnRxmap, .spnTxmap, .spnLanest, .spnDiscard, .ctrVal] s t := by
  refine ⟨_, rfl, ?_⟩
  repeat' first | with_reducible exact Only.refl _ | decide +kernel | with_reducible apply only_spnCtlWrite | split

theorem only_spanRouteRemoval {Ps : List Piece} {Ks : List RegKind} {s0 : State} (p : Nat) (s : State) (hK : Only Ps
    Ks s0 s) (hk : [.spnPrt] ⊆ Ks) : Only Ps Ks s0 (spanRouteRemoval p s) := by
  unfold spanRouteRemoval
  repeat' first
    | with_reducible assumption | exact hk (List.elem_iff.mp rfl) | with_reducible apply only_State_clrBit
    | with_reducible apply Only.fold | intro _ _ _ | split

theorem only_execSpanRouteRemoval (port : Fin 24) (s : State) : ∃ t, execSpanRouteRemoval port s = .next t ∧ Only []
    [.spnPrt] s t := by
  refine ⟨_, rfl, ?_⟩
  repeat' first | with_reducible exact Only.refl _ | decide +kernel | with_reducible apply only_spanRouteRemoval

theorem only_State_replayFrames {Ps : List Piece} {Ks : List RegKind} {s0 : State} (s : State) (p : Nat) (hK : Only Ps
    Ks s0 s) (hp : [.out, .fpDirty, .ports, .reqs, .spanLost, .ic, .flog0, .flog1, .mbox, .lists] ⊆ Ps) (hk :
    [.fabStat, .fabDiscard, .spnStat, .spnRxmap, .spnTxmap, .spnLanest, .spnReplay, .spnDiscard, .ctrVal] ⊆ Ks) : Only
    Ps Ks s0 (State.replayFrames s p) := by
  unfold State.replayFrames
  repeat' first
    | with_reducible assumption | exact List.Subset.trans (by decide +kernel) hp
    | exact List.Subset.trans (by decide +kernel) hk | exact hk (List.elem_iff.mp rfl)
    | with_reducible apply only_State_countF | with_reducible apply only_State_ctr
    | with_reducible apply only_State_emit | with_reducible apply only_State_portDown
    | with_reducible apply only_State_setBit | with_reducible apply only_State_setSpan
    | with_reducible apply Only.fold | intro _ _ _ | dsimp only | split

theorem only_State_txRequest {Ps : List Piece} {Ks : List RegKind} {s0 : State} (s : State) (p : Nat) (f : RxFrame)
    (hK : Only Ps Ks s0 s) (hp : [.out, .fpDirty, .ports, .reqs, .spanLost, .ic, .flog0, .flog1, .mbox, .lists] ⊆ Ps)
    (hk : [.fabStat, .fabDiscard, .spnStat, .spnRxmap, .spnTxmap, .spnLanest, .spnDiscard, .ctrVal] ⊆ Ks) : Only Ps Ks
    s0 (State.txRequest s p f) := by
  unfold State.txRequest
  repeat' first
    | with_reducible assumption | exact List.Subset.trans (by decide +kernel) hp | exact hp (by decide +kernel)
    | exact List.Subset.trans (by decide +kernel) hk | with_reducible apply only_State_portDown
    | with_reducible apply only_State_setSpan | with_reducible apply only_State_showHold
    | with_reducible apply only_State_showLanes | dsimp only | split | with_reducible apply Only.upd_fpDirty

theorem only_State_takeFrame {Ps : List Piece} {Ks : List RegKind} {s0 : State} (s : State) (p : Nat) (f : RxFrame)
    (hK : Only Ps Ks s0 s) (hp : [.out, .fpDirty, .ports, .reqs, .spanLost, .ic, .flog0, .flog1, .mbox, .lists] ⊆ Ps)
    (hk : [.fabStat, .fabDiscard, .spnStat, .spnRxmap, .spnTxmap, .spnLanest, .spnCecnt, .spnUecnt, .spnReplay,
    .spnDiscard, .ctrVal] ⊆ Ks) : Only Ps Ks s0 (State.takeFrame s p f).1 := by
  unfold State.takeFrame
  repeat' first
    | with_reducible assumption | exact List.Subset.trans (by decide +kernel) hp
    | exact List.Subset.trans (by decide +kernel) hk | exact hk (List.elem_iff.mp rfl)
    | with_reducible apply only_State_countF | with_reducible apply only_State_ctr
    | with_reducible apply only_State_pump | with_reducible apply only_State_replayFrames
    | with_reducible apply only_State_sendControl | with_reducible apply only_State_setSpan
    | with_reducible apply only_State_txRequest | dsimp only | split

/-! ### Machine/Transfers.lean -/

theorem only_State_setSeg {Ps : List Piece} {Ks : List RegKind} {s0 : State} (s : State) (t : Nat) (slot : Nat) (g :
    Seg) (hK : Only Ps Ks s0 s) (hp : [.segs] ⊆ Ps) : Only Ps Ks s0 (State.setSeg s t slot g) := by
  unfold State.setSeg
  repeat' first | with_reducible assumption | exact hp (by decide +kernel) | with_reducible apply Only.upd_segs

theorem only_State_clearSeg {Ps : List Piece} {Ks : List RegKind} {s0 : State} (s : State) (t : Nat) (slot : Nat) (hK
    : Only Ps Ks s0 s) (hp : [.segs] ⊆ Ps) : Only Ps Ks s0 (State.clearSeg s t slot) := by
  unfold State.clearSeg
  repeat' first | with_reducible assumption | exact hp (by decide +kernel) | with_reducible apply Only.upd_segs

theorem only_State_grant {Ps : List Piece} {Ks : List RegKind} {s0 : State} (s : State) (n : Nat) (owner : Nat) (hK :
    Only Ps Ks s0 s) (hp : [.leases] ⊆ Ps) : Only Ps Ks s0 (State.grant s n owner) := by
  unfold State.grant
  repeat' first | with_reducible assumption | with_reducible apply only_State_setLease

theorem only_State_release {Ps : List Piece} {Ks : List RegKind} {s0 : State} (s : State) (n : Nat) (hK : Only Ps Ks
    s0 s) (hp : [.leases] ⊆ Ps) : Only Ps Ks s0 (State.release s n) := by
  unfold State.release
  repeat' first | with_reducible assumption | with_reducible apply only_State_setLease

theorem only_State_revokeLease {Ps : List Piece} {Ks : List RegKind} {s0 : State} (s : State) (n : Nat) (hK : Only Ps
    Ks s0 s) (hp : [.leases] ⊆ Ps) : Only Ps Ks s0 (State.revokeLease s n) := by
  unfold State.revokeLease
  repeat' first | with_reducible assumption | with_reducible apply only_State_setLease

theorem only_State_queueZero {Ps : List Piece} {Ks : List RegKind} {s0 : State} (s : State) (g : Seg) (done : Bool)
    (hK : Only Ps Ks s0 s) (hp : [.zeroing] ⊆ Ps) : Only Ps Ks s0 (State.queueZero s g done) := by
  unfold State.queueZero
  repeat' first | with_reducible assumption | exact hp (by decide +kernel) | with_reducible apply Only.upd_zeroing

theorem only_State_removeShared {Ps : List Piece} {Ks : List RegKind} {s0 : State} (s : State) (owner : Nat) (slot :
    Nat) (g : Seg) (done : Bool) (hK : Only Ps Ks s0 s) (hp : [.segs, .keys, .leases, .zeroing] ⊆ Ps) : Only Ps Ks s0
    (State.removeShared s owner slot g done) := by
  unfold State.removeShared
  repeat' first
    | with_reducible assumption | exact List.Subset.trans (by decide +kernel) hp | exact hp (by decide +kernel)
    | with_reducible apply only_State_queueZero | with_reducible apply only_State_revokeLease
    | with_reducible apply Only.upd_segs_keys

theorem only_segmentRemoval {Ps : List Piece} {Ks : List RegKind} {s0 : State} (t : Nat) (slot : Nat) (s : State) (hK
    : Only Ps Ks s0 s) (hp : [.mbox, .removing, .zeroing, .progress, .watchdogs] ⊆ Ps) : Only Ps Ks s0 (segmentRemoval
    t slot s) := by
  unfold segmentRemoval
  repeat' first
    | with_reducible assumption | exact List.Subset.trans (by decide +kernel) hp | exact hp (by decide +kernel)
    | with_reducible apply only_State_complete | dsimp only | split | with_reducible apply Only.upd_removing_zeroing

theorem only_execSegmentRemoval (tenant : BitVec 10) (slot : Fin 16) (s : State) : ∃ t, execSegmentRemoval tenant slot
    s = .next t ∧ Only [.mbox, .removing, .zeroing, .progress, .watchdogs] [] s t := by
  refine ⟨_, rfl, ?_⟩
  repeat' first | with_reducible exact Only.refl _ | decide +kernel | with_reducible apply only_segmentRemoval

theorem only_State_zeroMem {Ps : List Piece} {Ks : List RegKind} {s0 : State} (s : State) (base : Nat) (size : Nat)
    (hK : Only Ps Ks s0 s) (hp : [.mem, .checks] ⊆ Ps) : Only Ps Ks s0 (State.zeroMem s base size) := by
  unfold State.zeroMem
  repeat' first | with_reducible assumption | exact hp (by decide +kernel) | with_reducible apply Only.upd_mem_checks

theorem only_State_installAlloc {Ps : List Piece} {Ks : List RegKind} {s0 : State} (s : State) (t : Nat) (b : List Byte) (base : Nat) (hK : Only Ps Ks s0 s) (hp : [.freeCtr, .segs] ⊆ Ps) :
    Only Ps Ks s0 (State.installAlloc s t b base) := by
  unfold State.installAlloc
  repeat' first
    | with_reducible assumption | exact List.Subset.trans (by decide +kernel) hp
    | with_reducible apply only_State_bumpFree | with_reducible apply only_State_setSeg

theorem only_State_retryAllocs {Ps : List Piece} {Ks : List RegKind} {s0 : State} (s : State) (hK : Only Ps Ks s0 s)
    (hp : [.freeCtr, .mbox, .segs, .progress, .watchdogs] ⊆ Ps) : Only Ps Ks s0 (State.retryAllocs s) := by
  unfold State.retryAllocs
  repeat' first
    | with_reducible assumption | exact List.Subset.trans (by decide +kernel) hp
    | with_reducible apply only_State_installAlloc | with_reducible apply only_State_complete
    | with_reducible apply Only.fold | intro _ _ _ | split

theorem only_zeroingStep {Ps : List Piece} {Ks : List RegKind} {s0 : State} (s : State) (hK : Only Ps Ks s0 s) (hp :
    [.freeCtr, .mem, .checks, .mbox, .segs, .zeroing, .progress, .watchdogs] ⊆ Ps) : Only Ps Ks s0 (zeroingStep s) :=
    by
  unfold zeroingStep
  repeat' first
    | with_reducible assumption | exact List.Subset.trans (by decide +kernel) hp | exact hp (by decide +kernel)
    | with_reducible apply only_State_retryAllocs | with_reducible apply only_State_zeroMem | split
    | with_reducible apply Only.upd_zeroing

theorem only_execZeroing (s : State) : ∃ t, execZeroing s = .next t ∧ Only [.freeCtr, .mem, .checks, .mbox, .segs,
    .zeroing, .progress, .watchdogs] [] s t := by
  refine ⟨_, rfl, ?_⟩
  repeat' first | with_reducible exact Only.refl _ | decide +kernel | with_reducible apply only_zeroingStep | split

theorem only_State_setXfer {Ps : List Piece} {Ks : List RegKind} {s0 : State} (s : State) (x : Xfer) (hK : Only Ps Ks
    s0 s) (hp : [.xfers] ⊆ Ps) : Only Ps Ks s0 (State.setXfer s x) := by
  unfold State.setXfer
  repeat' first | with_reducible assumption | exact hp (by decide +kernel) | with_reducible apply Only.upd_xfers

theorem only_State_settleXfer {Ps : List Piece} {Ks : List RegKind} {s0 : State} (s : State) (t : Nat) (tag : Nat) (hK
    : Only Ps Ks s0 s) (hp : [.mbox, .xfers, .progress, .watchdogs] ⊆ Ps) : Only Ps Ks s0 (State.settleXfer s t tag)
    := by
  unfold State.settleXfer
  repeat' first
    | with_reducible assumption | exact List.Subset.trans (by decide +kernel) hp | exact hp (by decide +kernel)
    | with_reducible apply only_State_complete | with_reducible apply Only.fold | intro _ _ _ | dsimp only | split
    | with_reducible apply Only.upd_xfers

theorem only_State_dropJob {Ps : List Piece} {Ks : List RegKind} {s0 : State} (s : State) (e : Nat) (j : Job) (revoked
    : Bool) (hK : Only Ps Ks s0 s) (hp : [.leases, .engines] ⊆ Ps) : Only Ps Ks s0 (State.dropJob s e j revoked) := by
  unfold State.dropJob
  repeat' first
    | with_reducible assumption | exact List.Subset.trans (by decide +kernel) hp
    | with_reducible apply only_State_release | with_reducible apply only_State_revokeLease
    | with_reducible apply only_State_setEngine | dsimp only | split

theorem only_State_stopXfer {Ps : List Piece} {Ks : List RegKind} {s0 : State} (s : State) (t : Nat) (tag : Nat)
    (status : Nat) (revoked : Bool) (hK : Only Ps Ks s0 s) (hp : [.mbox, .leases, .engines, .xfers, .progress,
    .watchdogs] ⊆ Ps) : Only Ps Ks s0 (State.stopXfer s t tag status revoked) := by
  unfold State.stopXfer
  repeat' first
    | with_reducible assumption | exact List.Subset.trans (by decide +kernel) hp
    | with_reducible apply only_State_dropJob | with_reducible apply only_State_setXfer
    | with_reducible apply only_State_settleXfer | with_reducible apply Only.fold | intro _ _ _ | dsimp only | split

theorem only_State_jobStep {Ps : List Piece} {Ks : List RegKind} {s0 : State} (s : State) (e : Nat) (j : Job) (t :
    Nat) (tag : Nat) (hK : Only Ps Ks s0 s) (hp : [.ic, .mbox, .leases, .engines, .xfers, .progress, .watchdogs] ⊆ Ps)
    (hk : [.teGranules, .ctrVal] ⊆ Ks) : Only Ps Ks s0 (State.jobStep s e j t tag) := by
  unfold State.jobStep
  repeat' first
    | with_reducible assumption | exact List.Subset.trans (by decide +kernel) hp
    | exact List.Subset.trans (by decide +kernel) hk | exact hk (List.elem_iff.mp rfl)
    | with_reducible apply only_State_countF | with_reducible apply only_State_ctr
    | with_reducible apply only_State_dropJob | with_reducible apply only_State_raise
    | with_reducible apply only_State_setEngine | with_reducible apply only_State_settleXfer | dsimp only | split

theorem only_transferGranule {Ps : List Piece} {Ks : List RegKind} {s0 : State} (e : Nat) (hostBytes : List Byte)
    (pcieOk : Bool) (s : State) (hK : Only Ps Ks s0 s) (hp : [.out, .mem, .checks, .fpDirty, .chanPoisoned, .hbm, .ic,
    .flog0, .flog1, .mbox, .leases, .engines, .xfers, .progress, .watchdogs] ⊆ Ps) (hk : [.bedCe, .bedUe, .bedLastue,
    .memStat, .memInject, .memChstat, .memChce, .memChue, .memChpoison, .fabStat, .fabDiscard, .teGranules, .ctrVal] ⊆
    Ks) : Only Ps Ks s0 (transferGranule e hostBytes pcieOk s) := by
  unfold transferGranule
  repeat' first
    | with_reducible assumption | exact List.Subset.trans (by decide +kernel) hp
    | exact List.Subset.trans (by decide +kernel) hk | with_reducible apply only_State_ctr
    | with_reducible apply only_State_emit | with_reducible apply only_State_jobStep
    | with_reducible apply only_State_readMem | with_reducible apply only_State_setXfer
    | with_reducible apply only_State_stopXfer | with_reducible apply only_State_writeMem | dsimp only | split

theorem only_execTransferGranule (engine : Fin 32) (hostBytes : List Byte) (pcieOk : Bool) (s : State) : ∃ t,
    execTransferGranule engine hostBytes pcieOk s = .next t ∧ Only [.out, .mem, .checks, .fpDirty, .chanPoisoned,
    .hbm, .ic, .flog0, .flog1, .mbox, .leases, .engines, .xfers, .progress, .watchdogs] [.bedCe, .bedUe, .bedLastue,
    .memStat, .memInject, .memChstat, .memChce, .memChue, .memChpoison, .fabStat, .fabDiscard, .teGranules, .ctrVal] s
    t := by
  refine ⟨_, rfl, ?_⟩
  repeat' first | with_reducible exact Only.refl _ | decide +kernel | with_reducible apply only_transferGranule

theorem only_execPcieCompletionTimeout (engine : Fin 32) (s : State) : ∃ t, execPcieCompletionTimeout engine s = .next
    t ∧ Only [.out, .mem, .checks, .fpDirty, .chanPoisoned, .hbm, .ic, .flog0, .flog1, .mbox, .leases, .engines,
    .xfers, .progress, .watchdogs] [.bedCe, .bedUe, .bedLastue, .memStat, .memInject, .memChstat, .memChce, .memChue,
    .memChpoison, .fabStat, .fabDiscard, .teGranules, .ctrVal] s t := by
  refine ⟨_, rfl, ?_⟩
  repeat' first
    | with_reducible exact Only.refl _ | decide +kernel | with_reducible apply only_State_raise
    | with_reducible apply only_transferGranule | split

theorem only_State_revokeAll {Ps : List Piece} {Ks : List RegKind} {s0 : State} (s : State) (o : Nat) (standby : Bool)
    (reset : Bool) (hK : Only Ps Ks s0 s) (hp : [.mbox, .segs, .keys, .leases, .engines, .xfers, .zeroing, .progress,
    .watchdogs] ⊆ Ps) : Only Ps Ks s0 (State.revokeAll s o standby reset) := by
  unfold State.revokeAll
  repeat' first
    | with_reducible assumption | exact List.Subset.trans (by decide +kernel) hp
    | with_reducible apply only_State_dropJob | with_reducible apply only_State_removeShared
    | with_reducible apply only_State_revokeLease | with_reducible apply only_State_setLease
    | with_reducible apply only_State_stopXfer | with_reducible apply Only.fold | intro _ _ _ | dsimp only | split

theorem only_lseRevokeWrite {Ps : List Piece} {Ks : List RegKind} {s0 : State} (o : Nat) (standby : Bool) (s : State)
    (hK : Only Ps Ks s0 s) (hp : [.out, .mbox, .segs, .keys, .leases, .revocation, .engines, .xfers, .zeroing,
    .progress, .watchdogs] ⊆ Ps) (hk : [.lseStat] ⊆ Ks) : Only Ps Ks s0 (lseRevokeWrite o standby s) := by
  unfold lseRevokeWrite
  repeat' first
    | with_reducible assumption | exact List.Subset.trans (by decide +kernel) hp | exact hp (by decide +kernel)
    | exact hk (List.elem_iff.mp rfl) | with_reducible apply only_State_emit
    | with_reducible apply only_State_revokeAll | with_reducible apply only_State_setBit
    | with_reducible apply only_State_setReg | with_reducible apply Only.fold | intro _ _ _ | dsimp only | split
    | with_reducible apply Only.upd_revocation

theorem only_execLseRevokeWrite (owner : BitVec 12) (writer : RevokeWriter) (s : State) : ∃ t, execLseRevokeWrite
    owner writer s = .next t ∧ Only [.out, .mbox, .segs, .keys, .leases, .revocation, .engines, .xfers, .zeroing,
    .progress, .watchdogs] [.lseStat] s t := by
  refine ⟨_, rfl, ?_⟩
  repeat' first | with_reducible exact Only.refl _ | decide +kernel | with_reducible apply only_lseRevokeWrite

theorem only_execLeaseRevoke (node : BitVec 8) (owner : BitVec 12) (s : State) : ∃ t, execLeaseRevoke node owner s =
    .next t ∧ Only [.revocation] [] s t := by
  refine ⟨_, rfl, ?_⟩
  repeat' first | with_reducible exact Only.refl _ | decide +kernel | split | with_reducible apply Only.upd_revocation

theorem only_execRevocationComplete (s : State) : ∃ t, execRevocationComplete s = .next t ∧ Only [.flog0, .flog1,
    .revocation, .zeroing] [.lseStat] s t := by
  refine ⟨_, rfl, ?_⟩
  repeat' first
    | with_reducible exact Only.refl _ | decide +kernel | with_reducible apply only_State_clrBit
    | with_reducible apply only_State_log | with_reducible apply only_State_setBit | split
    | with_reducible apply Only.upd_revocation_zeroing

theorem only_execRevocationAckTimeout (node : BitVec 8) (s : State) : ∃ t, execRevocationAckTimeout node s = .next t ∧
    Only [.flog0, .flog1, .leases, .revocation] [.fabRt] s t := by
  refine ⟨_, rfl, ?_⟩
  repeat' first
    | with_reducible assumption | with_reducible exact Only.refl _ | decide +kernel | exact List.elem_iff.mp rfl
    | with_reducible apply only_State_log | with_reducible apply only_State_revokeLease
    | with_reducible apply only_State_setF | with_reducible apply Only.fold | intro _ _ _ | dsimp only | split
    | with_reducible apply Only.upd_revocation

theorem only_quiesceNode {Ps : List Piece} {Ks : List RegKind} {s0 : State} (node : Nat) (addr : Nat) (tenant : Nat)
    (s : State) (hK : Only Ps Ks s0 s) (hp : [.quiesced] ⊆ Ps) : Only Ps Ks s0 (quiesceNode node addr tenant s) := by
  unfold quiesceNode
  repeat' first
    | with_reducible assumption | exact hp (by decide +kernel) | dsimp only | split
    | with_reducible apply Only.upd_quiesced

theorem only_execQuiesce (node : BitVec 8) (addr : BitVec 48) (tenant : BitVec 10) (s : State) : ∃ t, execQuiesce node
    addr tenant s = .next t ∧ Only [.quiesced] [] s t := by
  refine ⟨_, rfl, ?_⟩
  repeat' first | with_reducible exact Only.refl _ | decide +kernel | with_reducible apply only_quiesceNode

/-! ### Machine/Loss.lean -/

theorem only_State_recomputeCaps {Ps : List Piece} {Ks : List RegKind} {s0 : State} (s : State) (hK : Only Ps Ks s0 s)
    (hp : [.capIo, .capTc] ⊆ Ps) (hk : [.env] ⊆ Ks) : Only Ps Ks s0 (State.recomputeCaps s) := by
  unfold State.recomputeCaps
  repeat' first
    | with_reducible assumption | exact hp (by decide +kernel) | exact hk (List.elem_iff.mp rfl)
    | with_reducible apply only_State_setF | with_reducible apply Only.fold | intro _ _ _ | dsimp only | split
    | with_reducible apply Only.upd_capIo_capTc

theorem only_State_refreshEnv {Ps : List Piece} {Ks : List RegKind} {s0 : State} (s : State) (t : Nat) (hK : Only Ps
    Ks s0 s) (hk : [.vstat] ⊆ Ks) : Only Ps Ks s0 (State.refreshEnv s t) := by
  unfold State.refreshEnv
  repeat' first | with_reducible assumption | exact hk (List.elem_iff.mp rfl) | with_reducible apply only_State_setF

theorem only_State_markLost {Ps : List Piece} {Ks : List RegKind} {s0 : State} (s : State) (die : Nat) (hK : Only Ps
    Ks s0 s) (hk : [.fabStat] ⊆ Ks) : Only Ps Ks s0 (State.markLost s die) := by
  unfold State.markLost
  repeat' first
    | with_reducible assumption | exact hk (List.elem_iff.mp rfl) | with_reducible apply only_State_setBit
    | with_reducible apply Only.fold | intro _ _ _ | split

theorem only_State_stackLost {Ps : List Piece} {Ks : List RegKind} {s0 : State} (s : State) (n : Nat) (hK : Only Ps Ks
    s0 s) (hp : [.fpDirty, .chanPoisoned, .mbox] ⊆ Ps) : Only Ps Ks s0 (State.stackLost s n) := by
  unfold State.stackLost
  repeat' first
    | with_reducible assumption | exact List.Subset.trans (by decide +kernel) hp | exact hp (by decide +kernel)
    | with_reducible apply only_State_reportChannel | with_reducible apply Only.fold | intro _ _ _ | dsimp only
    | split | with_reducible apply Only.upd_chanPoisoned_fpDirty

theorem only_State_coresLost {Ps : List Piece} {Ks : List RegKind} {s0 : State} (s : State) (t : Nat) (hK : Only Ps Ks
    s0 s) (hp : [.fpDirty, .coreState, .towerState] ⊆ Ps) : Only Ps Ks s0 (State.coresLost s t) := by
  unfold State.coresLost
  repeat' first
    | with_reducible assumption | exact hp (by decide +kernel)
    | with_reducible apply Only.upd_coreState_towerState_fpDirty

theorem only_State_bedsGone {Ps : List Piece} {Ks : List RegKind} {s0 : State} (s : State) (t : Nat) (hK : Only Ps Ks
    s0 s) (hp : [.mem, .checks, .stores, .cores, .beds] ⊆ Ps) : Only Ps Ks s0 (State.bedsGone s t) := by
  unfold State.bedsGone
  repeat' first
    | with_reducible assumption | exact hp (by decide +kernel) | dsimp only
    | with_reducible apply Only.upd_mem_stores_checks_cores_beds

theorem only_State_failIdleLists {Ps : List Piece} {Ks : List RegKind} {s0 : State} (s : State) (t : Nat) (hK : Only
    Ps Ks s0 s) (hp : [.thermal, .mbox, .lists, .progress, .watchdogs] ⊆ Ps) (hk : [.vgov] ⊆ Ks) : Only Ps Ks s0
    (State.failIdleLists s t) := by
  unfold State.failIdleLists
  repeat' first
    | with_reducible assumption | exact List.Subset.trans (by decide +kernel) hp
    | with_reducible apply only_State_setList | with_reducible apply only_State_settleList
    | with_reducible apply Only.fold | intro _ _ _ | dsimp only | split

theorem only_State_enginesLost {Ps : List Piece} {Ks : List RegKind} {s0 : State} (s : State) (t : Nat) (hK : Only Ps
    Ks s0 s) (hp : [.mbox, .leases, .engines, .xfers, .progress, .watchdogs] ⊆ Ps) : Only Ps Ks s0 (State.enginesLost
    s t) := by
  unfold State.enginesLost
  repeat' first
    | with_reducible assumption | with_reducible apply only_State_stopXfer | with_reducible apply Only.fold
    | intro _ _ _

theorem only_State_towerLoss {Ps : List Piece} {Ks : List RegKind} {s0 : State} (s : State) (t : Nat) (cause : Nat)
    (after : DomState) (hK : Only Ps Ks s0 s) (hp : [.mem, .checks, .stores, .fpDirty, .coreState, .towerState,
    .chanPoisoned, .cores, .beds, .domains, .thermal, .capIo, .capTc, .flog0, .flog1, .fatal, .mbox, .leases,
    .engines, .xfers, .lists, .progress, .watchdogs] ⊆ Ps) (hk : [.fabStat, .env, .vgov, .vstat] ⊆ Ks) : Only Ps Ks s0
    (State.towerLoss s t cause after) := by
  unfold State.towerLoss
  repeat' first
    | with_reducible assumption | exact List.Subset.trans (by decide +kernel) hp
    | exact List.Subset.trans (by decide +kernel) hk | exact hk (List.elem_iff.mp rfl)
    | with_reducible apply only_State_bedsGone | with_reducible apply only_State_coresLost
    | with_reducible apply only_State_enginesLost | with_reducible apply only_State_failIdleLists
    | with_reducible apply only_State_finishOp | with_reducible apply only_State_log
    | with_reducible apply only_State_markLost | with_reducible apply only_State_recomputeCaps
    | with_reducible apply only_State_setDom | with_reducible apply only_State_setF
    | with_reducible apply only_State_setFatal | with_reducible apply only_State_stackLost
    | with_reducible apply Only.fold | intro _ _ _ | dsimp only | split

theorem only_State_allOff {Ps : List Piece} {Ks : List RegKind} {s0 : State} (s : State) (after : DomState) (hK : Only
    Ps Ks s0 s) (hp : [.mem, .checks, .stores, .cores, .beds, .domains, .ports, .guests, .reqs, .quiesced, .alive,
    .standby, .hbActive, .hbStandby, .removing, .revocation, .engines, .xfers, .lists] ⊆ Ps) (hk : [.vregCtl, .vstat]
    ⊆ Ks) : Only Ps Ks s0 (State.allOff s after) := by
  unfold State.allOff
  repeat' first
    | with_reducible assumption | exact List.Subset.trans (by decide +kernel) hp | exact hp (by decide +kernel)
    | exact hk (List.elem_iff.mp rfl) | with_reducible apply only_State_bedsGone
    | with_reducible apply only_State_clrBit | with_reducible apply only_State_setDom
    | with_reducible apply only_State_setF | with_reducible apply Only.fold | intro _ _ _ | dsimp only | split
    | with_reducible apply Only.upd_alive_standby_hbActive_hbStandby_lists_xfers_engines_reqs_ports_guests_revocation_removing_quiesced

theorem only_State_ioDieGone {Ps : List Piece} {Ks : List RegKind} {s0 : State} (s : State) (x : Nat) (after :
    DomState) (hK : Only Ps Ks s0 s) (hp : [.out, .x0Lost, .mem, .checks, .stores, .fpDirty, .chanPoisoned, .cores,
    .beds, .domains, .ports, .guests, .reqs, .quiesced, .spanLost, .ic, .flog0, .flog1, .mbox, .alive, .standby,
    .hbActive, .hbStandby, .removing, .revocation, .engines, .xfers, .lists] ⊆ Ps) (hk : [.fabStat, .fabDiscard,
    .spnStat, .spnRxmap, .spnTxmap, .spnLanest, .spnDiscard, .vregCtl, .vstat, .ctrVal] ⊆ Ks) : Only Ps Ks s0
    (State.ioDieGone s x after) := by
  unfold State.ioDieGone
  repeat' first
    | with_reducible assumption | exact List.Subset.trans (by decide +kernel) hp | exact hp (by decide +kernel)
    | exact List.Subset.trans (by decide +kernel) hk | with_reducible apply only_State_allOff
    | with_reducible apply only_State_blankPort | with_reducible apply only_State_markLost
    | with_reducible apply only_State_portDown | with_reducible apply only_State_setDom
    | with_reducible apply only_State_setSpan | with_reducible apply only_State_stackLost
    | with_reducible apply Only.fold | intro _ _ _ | dsimp only | split | with_reducible apply Only.upd_flog0_flog1
    | with_reducible apply Only.upd_x0Lost

theorem only_State_ioDieLoss {Ps : List Piece} {Ks : List RegKind} {s0 : State} (s : State) (x : Nat) (phases : Nat)
    (hK : Only Ps Ks s0 s) (hp : [.out, .x0Lost, .mem, .checks, .stores, .fpDirty, .chanPoisoned, .cores, .beds,
    .domains, .ports, .guests, .reqs, .quiesced, .spanLost, .ic, .flog0, .flog1, .mbox, .alive, .standby, .hbActive,
    .hbStandby, .removing, .revocation, .engines, .xfers, .lists] ⊆ Ps) (hk : [.fabStat, .fabDiscard, .spnStat,
    .spnRxmap, .spnTxmap, .spnLanest, .spnDiscard, .vregCtl, .vstat, .ctrVal] ⊆ Ks) : Only Ps Ks s0 (State.ioDieLoss s
    x phases) := by
  unfold State.ioDieLoss
  repeat' first
    | with_reducible assumption | exact List.Subset.trans (by decide +kernel) hp
    | with_reducible apply only_State_ioDieGone | with_reducible apply only_State_log | split

/-! ### Machine/Power.lean -/

theorem only_State_startRamp {Ps : List Piece} {Ks : List RegKind} {s0 : State} (s : State) (d : Nat) (hK : Only Ps Ks
    s0 s) (hp : [.domains] ⊆ Ps) : Only Ps Ks s0 (State.startRamp s d) := by
  unfold State.startRamp
  repeat' first | with_reducible assumption | with_reducible apply only_State_setDom

theorem only_State_onReq {Ps : List Piece} {Ks : List RegKind} {s0 : State} (s : State) (d : Nat) (hK : Only Ps Ks s0
    s) (hp : [.domains, .flog0, .flog1] ⊆ Ps) (hk : [.vregCtl, .vregStat] ⊆ Ks) : Only Ps Ks s0 (State.onReq s d) :=
    by
  unfold State.onReq
  repeat' first
    | with_reducible assumption | exact List.Subset.trans (by decide +kernel) hp | exact hk (List.elem_iff.mp rfl)
    | with_reducible apply only_State_log | with_reducible apply only_State_setBit
    | with_reducible apply only_State_setDom | with_reducible apply only_State_startRamp | dsimp only | split

theorem only_State_domOff {Ps : List Piece} {Ks : List RegKind} {s0 : State} (s : State) (d : Nat) (hK : Only Ps Ks s0
    s) (hp : [.out, .x0Lost, .mem, .checks, .stores, .fpDirty, .chanPoisoned, .cores, .beds, .domains, .ports,
    .guests, .reqs, .quiesced, .spanLost, .ic, .flog0, .flog1, .mbox, .alive, .standby, .hbActive, .hbStandby,
    .removing, .revocation, .engines, .xfers, .lists] ⊆ Ps) (hk : [.fabStat, .fabDiscard, .spnStat, .spnRxmap,
    .spnTxmap, .spnLanest, .spnDiscard, .vregCtl, .vstat, .ctrVal] ⊆ Ks) : Only Ps Ks s0 (State.domOff s d) := by
  unfold State.domOff
  repeat' first
    | with_reducible assumption | exact List.Subset.trans (by decide +kernel) hp | exact hk (List.elem_iff.mp rfl)
    | with_reducible apply only_State_bedsGone | with_reducible apply only_State_clrBit
    | with_reducible apply only_State_ioDieGone | with_reducible apply only_State_setDom
    | with_reducible apply only_State_setF | dsimp only | split

theorem only_State_offReq {Ps : List Piece} {Ks : List RegKind} {s0 : State} (s : State) (d : Nat) (hK : Only Ps Ks s0
    s) (hp : [.out, .x0Lost, .mem, .checks, .stores, .fpDirty, .chanPoisoned, .cores, .beds, .domains, .ports,
    .guests, .reqs, .quiesced, .spanLost, .ic, .flog0, .flog1, .mbox, .alive, .standby, .hbActive, .hbStandby,
    .removing, .revocation, .engines, .xfers, .lists] ⊆ Ps) (hk : [.fabStat, .fabDiscard, .spnStat, .spnRxmap,
    .spnTxmap, .spnLanest, .spnDiscard, .vregCtl, .vregStat, .vstat, .ctrVal] ⊆ Ks) : Only Ps Ks s0 (State.offReq s d)
    := by
  unfold State.offReq
  repeat' first
    | with_reducible assumption | exact List.Subset.trans (by decide +kernel) hp
    | exact List.Subset.trans (by decide +kernel) hk | exact hk (List.elem_iff.mp rfl)
    | with_reducible apply only_State_domOff | with_reducible apply only_State_log
    | with_reducible apply only_State_setBit | split

theorem only_State_vregClear {Ps : List Piece} {Ks : List RegKind} {s0 : State} (s : State) (d : Nat) (hK : Only Ps Ks
    s0 s) (hp : [.domains] ⊆ Ps) : Only Ps Ks s0 (State.vregClear s d) := by
  unfold State.vregClear
  repeat' first | with_reducible assumption | with_reducible apply only_State_setDom | dsimp only | split

theorem only_State_vregWrite {Ps : List Piece} {Ks : List RegKind} {s0 : State} (s : State) (d : Nat) (v : Nat) (hK :
    Only Ps Ks s0 s) (hp : [.out, .x0Lost, .mem, .checks, .stores, .fpDirty, .chanPoisoned, .cores, .beds, .domains,
    .ports, .guests, .reqs, .quiesced, .spanLost, .ic, .flog0, .flog1, .mbox, .alive, .standby, .hbActive, .hbStandby,
    .removing, .revocation, .engines, .xfers, .lists] ⊆ Ps) (hk : [.fabStat, .fabDiscard, .spnStat, .spnRxmap,
    .spnTxmap, .spnLanest, .spnDiscard, .vregCtl, .vregStat, .vstat, .ctrVal] ⊆ Ks) : Only Ps Ks s0 (State.vregWrite s
    d v) := by
  unfold State.vregWrite
  repeat' first
    | with_reducible assumption | exact List.Subset.trans (by decide +kernel) hp
    | exact List.Subset.trans (by decide +kernel) hk | exact hk (List.elem_iff.mp rfl)
    | with_reducible apply only_State_offReq | with_reducible apply only_State_onReq
    | with_reducible apply only_State_setF | with_reducible apply only_State_vregClear | dsimp only | split

theorem only_execOnRequest (domain : Fin 12) (value : Word) (s : State) : ∃ t, execOnRequest domain value s = .next t
    ∧ Only [.out, .x0Lost, .mem, .checks, .stores, .fpDirty, .chanPoisoned, .cores, .beds, .domains, .ports, .guests,
    .reqs, .quiesced, .spanLost, .ic, .flog0, .flog1, .mbox, .alive, .standby, .hbActive, .hbStandby, .removing,
    .revocation, .engines, .xfers, .lists] [.fabStat, .fabDiscard, .spnStat, .spnRxmap, .spnTxmap, .spnLanest,
    .spnDiscard, .vregCtl, .vregStat, .vstat, .ctrVal] s t := by
  refine ⟨_, rfl, ?_⟩
  repeat' first
    | with_reducible exact Only.refl _ | decide +kernel | with_reducible apply only_State_vregWrite | split

theorem only_execOffRequest (domain : Fin 12) (value : Word) (s : State) : ∃ t, execOffRequest domain value s = .next
    t ∧ Only [.out, .x0Lost, .mem, .checks, .stores, .fpDirty, .chanPoisoned, .cores, .beds, .domains, .ports,
    .guests, .reqs, .quiesced, .spanLost, .ic, .flog0, .flog1, .mbox, .alive, .standby, .hbActive, .hbStandby,
    .removing, .revocation, .engines, .xfers, .lists] [.fabStat, .fabDiscard, .spnStat, .spnRxmap, .spnTxmap,
    .spnLanest, .spnDiscard, .vregCtl, .vregStat, .vstat, .ctrVal] s t := by
  refine ⟨_, rfl, ?_⟩
  repeat' first
    | with_reducible exact Only.refl _ | decide +kernel | with_reducible apply only_State_vregWrite | split

theorem only_execVregCtlClear (domain : Fin 12) (value : Word) (s : State) : ∃ t, execVregCtlClear domain value s =
    .next t ∧ Only [.out, .x0Lost, .mem, .checks, .stores, .fpDirty, .chanPoisoned, .cores, .beds, .domains, .ports,
    .guests, .reqs, .quiesced, .spanLost, .ic, .flog0, .flog1, .mbox, .alive, .standby, .hbActive, .hbStandby,
    .removing, .revocation, .engines, .xfers, .lists] [.fabStat, .fabDiscard, .spnStat, .spnRxmap, .spnTxmap,
    .spnLanest, .spnDiscard, .vregCtl, .vregStat, .vstat, .ctrVal] s t := by
  refine ⟨_, rfl, ?_⟩
  repeat' first
    | with_reducible exact Only.refl _ | decide +kernel | with_reducible apply only_State_vregWrite | split

theorem only_State_rampDone {Ps : List Piece} {Ks : List RegKind} {s0 : State} (s : State) (d : Nat) (hK : Only Ps Ks
    s0 s) (hp : [.domains] ⊆ Ps) (hk : [.vstat] ⊆ Ks) : Only Ps Ks s0 (State.rampDone s d) := by
  unfold State.rampDone
  repeat' first
    | with_reducible assumption | exact hk (List.elem_iff.mp rfl) | with_reducible apply only_State_refreshEnv
    | with_reducible apply only_State_setDom | with_reducible apply only_State_setF | dsimp only | split

theorem only_execRampComplete (domain : Fin 12) (s : State) : ∃ t, execRampComplete domain s = .next t ∧ Only
    [.domains] [.vstat] s t := by
  refine ⟨_, rfl, ?_⟩
  repeat' first | with_reducible exact Only.refl _ | decide +kernel | with_reducible apply only_State_rampDone | split

theorem only_State_rampFail {Ps : List Piece} {Ks : List RegKind} {s0 : State} (s : State) (d : Nat) (code : Nat) (hK
    : Only Ps Ks s0 s) (hp : [.domains, .ic, .flog0, .flog1] ⊆ Ps) (hk : [.vregCtl, .vregStat] ⊆ Ks) : Only Ps Ks s0
    (State.rampFail s d code) := by
  unfold State.rampFail
  repeat' first
    | with_reducible assumption | exact List.Subset.trans (by decide +kernel) hp | exact hk (List.elem_iff.mp rfl)
    | with_reducible apply only_State_clrBit | with_reducible apply only_State_icEvent
    | with_reducible apply only_State_log | with_reducible apply only_State_setDom
    | with_reducible apply only_State_setF

theorem only_execRampFailure (domain : Fin 12) (cause : RampCause) (s : State) : ∃ t, execRampFailure domain cause s =
    .next t ∧ Only [.domains, .ic, .flog0, .flog1] [.vregCtl, .vregStat] s t := by
  refine ⟨_, rfl, ?_⟩
  repeat' first | with_reducible exact Only.refl _ | decide +kernel | with_reducible apply only_State_rampFail | split

theorem only_execFuseLoad (tower : Fin 8) (s : State) : ∃ t, execFuseLoad tower s = .next t ∧ Only [.domains] [] s t
    := by
  refine ⟨_, rfl, ?_⟩
  repeat' first
    | with_reducible exact Only.refl _ | decide +kernel | with_reducible apply only_State_setDom | dsimp only | split

theorem only_dischargeComplete {Ps : List Piece} {Ks : List RegKind} {s0 : State} (d : Nat) (s : State) (hK : Only Ps
    Ks s0 s) (hp : [.domains] ⊆ Ps) (hk : [.vregCtl] ⊆ Ks) : Only Ps Ks s0 (dischargeComplete d s) := by
  unfold dischargeComplete
  repeat' first
    | with_reducible assumption | exact hk (List.elem_iff.mp rfl) | with_reducible apply only_State_clrBit
    | with_reducible apply only_State_setDom | with_reducible apply only_State_startRamp | dsimp only | split

theorem only_execDischargeComplete (domain : Fin 12) (s : State) : ∃ t, execDischargeComplete domain s = .next t ∧
    Only [.domains] [.vregCtl] s t := by
  refine ⟨_, rfl, ?_⟩
  repeat' first | with_reducible exact Only.refl _ | decide +kernel | with_reducible apply only_dischargeComplete

theorem only_phaseDrop {Ps : List Piece} {Ks : List RegKind} {s0 : State} (d : Nat) (phase : Nat) (sense : Bool)
    (currents : List Nat) (s : State) (hK : Only Ps Ks s0 s) (hp : [.out, .x0Lost, .mem, .checks, .stores, .fpDirty,
    .coreState, .towerState, .chanPoisoned, .cores, .beds, .domains, .thermal, .capIo, .capTc, .ports, .guests, .reqs,
    .quiesced, .spanLost, .ic, .flog0, .flog1, .fatal, .mbox, .alive, .standby, .hbActive, .hbStandby, .removing,
    .leases, .revocation, .engines, .xfers, .lists, .progress, .watchdogs] ⊆ Ps) (hk : [.fabStat, .fabDiscard,
    .spnStat, .spnRxmap, .spnTxmap, .spnLanest, .spnDiscard, .vregCtl, .vregStat, .vregPhasest, .env, .vgov, .vstat,
    .ctrVal] ⊆ Ks) : Only Ps Ks s0 (phaseDrop d phase sense currents s) := by
  unfold phaseDrop
  repeat' first
    | with_reducible assumption | exact List.Subset.trans (by decide +kernel) hp | exact hp (by decide +kernel)
    | exact List.Subset.trans (by decide +kernel) hk | exact hk (List.elem_iff.mp rfl)
    | with_reducible apply only_State_icEvent | with_reducible apply only_State_ioDieLoss
    | with_reducible apply only_State_log | with_reducible apply only_State_refreshEnv
    | with_reducible apply only_State_setF | with_reducible apply only_State_towerLoss | dsimp only | split
    | with_reducible apply Only.upd_fpDirty | with_reducible apply Only.upd_towerState

theorem only_execPhaseDrop (domain : Fin 12) (phase : Fin 16) (sense : Bool) (currents : List (BitVec 16)) (s : State)
    : ∃ t, execPhaseDrop domain phase sense currents s = .next t ∧ Only [.out, .x0Lost, .mem, .checks, .stores,
    .fpDirty, .coreState, .towerState, .chanPoisoned, .cores, .beds, .domains, .thermal, .capIo, .capTc, .ports,
    .guests, .reqs, .quiesced, .spanLost, .ic, .flog0, .flog1, .fatal, .mbox, .alive, .standby, .hbActive, .hbStandby,
    .removing, .leases, .revocation, .engines, .xfers, .lists, .progress, .watchdogs] [.fabStat, .fabDiscard,
    .spnStat, .spnRxmap, .spnTxmap, .spnLanest, .spnDiscard, .vregCtl, .vregStat, .vregPhasest, .env, .vgov, .vstat,
    .ctrVal] s t := by
  refine ⟨_, rfl, ?_⟩
  repeat' first | with_reducible exact Only.refl _ | decide +kernel | with_reducible apply only_phaseDrop

theorem only_undervoltageStop {Ps : List Piece} {Ks : List RegKind} {s0 : State} (t : Nat) (s : State) (hK : Only Ps
    Ks s0 s) (hp : [.domains, .ic] ⊆ Ps) (hk : [.twrUvcnt] ⊆ Ks) : Only Ps Ks s0 (undervoltageStop t s) := by
  unfold undervoltageStop
  repeat' first
    | with_reducible assumption | exact List.Subset.trans (by decide +kernel) hp | exact hk (List.elem_iff.mp rfl)
    | with_reducible apply only_State_countF | with_reducible apply only_State_raise
    | with_reducible apply only_State_setDom | dsimp only | split

theorem only_execUndervoltageStop (tower : Fin 8) (s : State) : ∃ t, execUndervoltageStop tower s = .next t ∧ Only
    [.domains, .ic] [.twrUvcnt] s t := by
  refine ⟨_, rfl, ?_⟩
  repeat' first | with_reducible exact Only.refl _ | decide +kernel | with_reducible apply only_undervoltageStop

theorem only_State_logStop {Ps : List Piece} {Ks : List RegKind} {s0 : State} (s : State) (t : Nat) (since : Nat) (hK
    : Only Ps Ks s0 s) (hp : [.flog0, .flog1] ⊆ Ps) : Only Ps Ks s0 (State.logStop s t since) := by
  unfold State.logStop
  repeat' first | with_reducible assumption | with_reducible apply only_State_log

theorem only_undervoltageResume {Ps : List Piece} {Ks : List RegKind} {s0 : State} (t : Nat) (s : State) (hK : Only Ps
    Ks s0 s) (hp : [.domains, .flog0, .flog1] ⊆ Ps) : Only Ps Ks s0 (undervoltageResume t s) := by
  unfold undervoltageResume
  repeat' first
    | with_reducible assumption | exact List.Subset.trans (by decide +kernel) hp
    | with_reducible apply only_State_logStop | with_reducible apply only_State_setDom | dsimp only | split

theorem only_execUndervoltageResume (tower : Fin 8) (s : State) : ∃ t, execUndervoltageResume tower s = .next t ∧ Only
    [.domains, .flog0, .flog1] [] s t := by
  refine ⟨_, rfl, ?_⟩
  repeat' first | with_reducible exact Only.refl _ | decide +kernel | with_reducible apply only_undervoltageResume

theorem only_undervoltageTowerLoss {Ps : List Piece} {Ks : List RegKind} {s0 : State} (t : Nat) (s : State) (hK : Only
    Ps Ks s0 s) (hp : [.mem, .checks, .stores, .fpDirty, .coreState, .towerState, .chanPoisoned, .cores, .beds,
    .domains, .thermal, .capIo, .capTc, .flog0, .flog1, .fatal, .mbox, .leases, .engines, .xfers, .lists, .progress,
    .watchdogs] ⊆ Ps) (hk : [.fabStat, .env, .vgov, .vstat] ⊆ Ks) : Only Ps Ks s0 (undervoltageTowerLoss t s) := by
  unfold undervoltageTowerLoss
  repeat' first
    | with_reducible assumption | exact List.Subset.trans (by decide +kernel) hp
    | with_reducible apply only_State_logStop | with_reducible apply only_State_towerLoss | split

theorem only_execUndervoltageTowerLoss (tower : Fin 8) (s : State) : ∃ t, execUndervoltageTowerLoss tower s = .next t
    ∧ Only [.mem, .checks, .stores, .fpDirty, .coreState, .towerState, .chanPoisoned, .cores, .beds, .domains,
    .thermal, .capIo, .capTc, .flog0, .flog1, .fatal, .mbox, .leases, .engines, .xfers, .lists, .progress, .watchdogs]
    [.fabStat, .env, .vgov, .vstat] s t := by
  refine ⟨_, rfl, ?_⟩
  repeat' first | with_reducible exact Only.refl _ | decide +kernel | with_reducible apply only_undervoltageTowerLoss

theorem only_vinAlert {Ps : List Piece} {Ks : List RegKind} {s0 : State} (s : State) (hK : Only Ps Ks s0 s) (hp :
    [.thermal, .vinAlert, .vinReturned, .ic] ⊆ Ps) (hk : [.vinStat, .vinAlertcnt, .vstat] ⊆ Ks) : Only Ps Ks s0
    (vinAlert s) := by
  unfold vinAlert
  repeat' first
    | with_reducible assumption | exact List.Subset.trans (by decide +kernel) hp | exact hp (by decide +kernel)
    | exact List.Subset.trans (by decide +kernel) hk | exact hk (List.elem_iff.mp rfl)
    | with_reducible apply only_State_countF | with_reducible apply only_State_raise
    | with_reducible apply only_State_refreshEnv | with_reducible apply only_State_setBit
    | with_reducible apply only_State_setTherm | with_reducible apply Only.fold | intro _ _ _ | dsimp only | split
    | with_reducible apply Only.upd_vinAlert_vinReturned

theorem only_execVinAlert (s : State) : ∃ t, execVinAlert s = .next t ∧ Only [.thermal, .vinAlert, .vinReturned, .ic]
    [.vinStat, .vinAlertcnt, .vstat] s t := by
  refine ⟨_, rfl, ?_⟩
  repeat' first | with_reducible exact Only.refl _ | decide +kernel | with_reducible apply only_vinAlert

theorem only_execVinAlertRelease (s : State) : ∃ t, execVinAlertRelease s = .next t ∧ Only [.vinAlert, .vinHighSince,
    .vinReturned] [.vinStat] s t := by
  refine ⟨_, rfl, ?_⟩
  repeat' first
    | with_reducible exact Only.refl _ | decide +kernel | with_reducible apply only_State_clrBit | dsimp only | split
    | with_reducible apply Only.upd_vinAlert_vinHighSince_vinReturned

theorem only_envelopeReturn {Ps : List Piece} {Ks : List RegKind} {s0 : State} (s : State) (hK : Only Ps Ks s0 s) (hp
    : [.thermal, .vinReturned] ⊆ Ps) (hk : [.vstat] ⊆ Ks) : Only Ps Ks s0 (envelopeReturn s) := by
  unfold envelopeReturn
  repeat' first
    | with_reducible assumption | exact List.Subset.trans (by decide +kernel) hp | exact hp (by decide +kernel)
    | with_reducible apply only_State_refreshEnv | with_reducible apply only_State_setTherm | dsimp only | split
    | with_reducible apply Only.upd_vinReturned

theorem only_execEnvelopeReturn (s : State) : ∃ t, execEnvelopeReturn s = .next t ∧ Only [.thermal, .vinReturned]
    [.vstat] s t := by
  refine ⟨_, rfl, ?_⟩
  repeat' first | with_reducible exact Only.refl _ | decide +kernel | with_reducible apply only_envelopeReturn

theorem only_brownout {Ps : List Piece} {Ks : List RegKind} {s0 : State} (vin : Nat) (s : State) (hK : Only Ps Ks s0
    s) (hp : [.brownedOut, .mem, .checks, .stores, .cores, .beds, .domains, .ports, .guests, .reqs, .quiesced, .flog0,
    .flog1, .alive, .standby, .hbActive, .hbStandby, .removing, .revocation, .engines, .xfers, .lists] ⊆ Ps) (hk :
    [.vregCtl, .vinStat, .vstat] ⊆ Ks) : Only Ps Ks s0 (brownout vin s) := by
  unfold brownout
  repeat' first
    | with_reducible assumption | exact List.Subset.trans (by decide +kernel) hp | exact hp (by decide +kernel)
    | exact List.Subset.trans (by decide +kernel) hk | exact hk (List.elem_iff.mp rfl)
    | with_reducible apply only_State_allOff | with_reducible apply only_State_log
    | with_reducible apply only_State_setF | dsimp only | split | with_reducible apply Only.upd_brownedOut

theorem only_execBrownout (vin : BitVec 16) (s : State) : ∃ t, execBrownout vin s = .next t ∧ Only [.brownedOut, .mem,
    .checks, .stores, .cores, .beds, .domains, .ports, .guests, .reqs, .quiesced, .flog0, .flog1, .alive, .standby,
    .hbActive, .hbStandby, .removing, .revocation, .engines, .xfers, .lists] [.vregCtl, .vinStat, .vstat] s t := by
  refine ⟨_, rfl, ?_⟩
  repeat' first | with_reducible exact Only.refl _ | decide +kernel | with_reducible apply only_brownout

theorem only_State_startIo {Ps : List Piece} {Ks : List RegKind} {s0 : State} (s : State) (x : Nat) (up : Bool) (hK :
    Only Ps Ks s0 s) (hp : [.domains] ⊆ Ps) (hk : [.vregCtl] ⊆ Ks) : Only Ps Ks s0 (State.startIo s x up) := by
  unfold State.startIo
  repeat' first
    | with_reducible assumption | exact hk (List.elem_iff.mp rfl) | with_reducible apply only_State_setBit
    | with_reducible apply only_State_setDom | with_reducible apply only_State_setF | dsimp only | split

theorem only_execPerstN (port : Fin 4) (low : Bool) (s : State) : ∃ t, execPerstN port low s = .next t ∧ Only
    [.perstLow] [] s t := by
  refine ⟨_, rfl, ?_⟩
  repeat' first | with_reducible exact Only.refl _ | decide +kernel | split | with_reducible apply Only.upd_perstLow

theorem only_stepmonMeasure {Ps : List Piece} {Ks : List RegKind} {s0 : State} (k : Nat) (ticks : Nat) (s : State) (hK
    : Only Ps Ks s0 s) (hp : [.thermal, .ic, .flog0, .flog1] ⊆ Ps) (hk : [.stepmon] ⊆ Ks) : Only Ps Ks s0
    (stepmonMeasure k ticks s) := by
  unfold stepmonMeasure
  repeat' first
    | with_reducible assumption | exact List.Subset.trans (by decide +kernel) hp | exact hk (List.elem_iff.mp rfl)
    | with_reducible apply only_State_log | with_reducible apply only_State_raise
    | with_reducible apply only_State_setBit | with_reducible apply only_State_setTherm | dsimp only | split

theorem only_execStepmonMeasurement (core : Fin 64) (ticks : BitVec 16) (s : State) : ∃ t, execStepmonMeasurement core
    ticks s = .next t ∧ Only [.thermal, .ic, .flog0, .flog1] [.stepmon] s t := by
  refine ⟨_, rfl, ?_⟩
  repeat' first | with_reducible exact Only.refl _ | decide +kernel | with_reducible apply only_stepmonMeasure

theorem only_stepmonWindowEnd {Ps : List Piece} {Ks : List RegKind} {s0 : State} (t : Nat) (s : State) (hK : Only Ps
    Ks s0 s) (hp : [.thermal] ⊆ Ps) (hk : [.stepmon] ⊆ Ks) : Only Ps Ks s0 (stepmonWindowEnd t s) := by
  unfold stepmonWindowEnd
  repeat' first
    | with_reducible assumption | exact hk (List.elem_iff.mp rfl) | with_reducible apply only_State_setF
    | with_reducible apply only_State_setTherm | dsimp only | split

theorem only_execStepmonWindowEnd (tower : Fin 8) (s : State) : ∃ t, execStepmonWindowEnd tower s = .next t ∧ Only
    [.thermal] [.stepmon] s t := by
  refine ⟨_, rfl, ?_⟩
  repeat' first | with_reducible exact Only.refl _ | decide +kernel | with_reducible apply only_stepmonWindowEnd

/-! ### Machine/Heat.lean -/

theorem only_State_enterHardpan {Ps : List Piece} {Ks : List RegKind} {s0 : State} (s : State) (cause : Nat) (source :
    Nat) (value : Nat) (hK : Only Ps Ks s0 s) (hp : [.boot, .bootRun, .mem, .checks, .stores, .cores, .beds, .domains,
    .ports, .guests, .reqs, .quiesced, .flog0, .flog1, .fatal, .mbox, .alive, .standby, .hbActive, .hbStandby,
    .removing, .revocation, .engines, .xfers, .lists] ⊆ Ps) (hk : [.vregCtl, .vstat, .pkgHardpan] ⊆ Ks) : Only Ps Ks
    s0 (State.enterHardpan s cause source value) := by
  unfold State.enterHardpan
  repeat' first
    | with_reducible assumption | exact List.Subset.trans (by decide +kernel) hp | exact hp (by decide +kernel)
    | exact List.Subset.trans (by decide +kernel) hk | exact hk (List.elem_iff.mp rfl)
    | with_reducible apply only_State_allOff | with_reducible apply only_State_log
    | with_reducible apply only_State_setBwF | with_reducible apply only_State_setFatal
    | with_reducible apply only_State_setReg | dsimp only | split | with_reducible apply Only.upd_bootRun

theorem only_State_sensorFail {Ps : List Piece} {Ks : List RegKind} {s0 : State} (s : State) (t : Nat) (n : Nat) (raw
    : Nat) (hK : Only Ps Ks s0 s) (hp : [.thermal, .ic, .flog0, .flog1] ⊆ Ps) (hk : [.thstat, .tsens] ⊆ Ks) : Only Ps
    Ks s0 (State.sensorFail s t n raw) := by
  unfold State.sensorFail
  repeat' first
    | with_reducible assumption | exact List.Subset.trans (by decide +kernel) hp | exact hk (List.elem_iff.mp rfl)
    | with_reducible apply only_State_log | with_reducible apply only_State_raise
    | with_reducible apply only_State_setBit | with_reducible apply only_State_setReg
    | with_reducible apply only_State_setTherm | dsimp only | split

theorem only_State_updateFlags {Ps : List Piece} {Ks : List RegKind} {s0 : State} (s : State) (t : Nat) (hK : Only Ps
    Ks s0 s) (hp : [.thermal, .ic] ⊆ Ps) (hk : [.thstat] ⊆ Ks) : Only Ps Ks s0 (State.updateFlags s t) := by
  unfold State.updateFlags
  repeat' first
    | with_reducible assumption | exact List.Subset.trans (by decide +kernel) hp | exact hk (List.elem_iff.mp rfl)
    | with_reducible apply only_State_raise | with_reducible apply only_State_setF
    | with_reducible apply only_State_setTherm | with_reducible apply Only.fold | intro _ _ _ | split

theorem only_State_convertSensor {Ps : List Piece} {Ks : List RegKind} {s0 : State} (s : State) (t : Nat) (n : Nat)
    (raw : Nat) (hK : Only Ps Ks s0 s) (hp : [.thermal, .ic, .flog0, .flog1] ⊆ Ps) (hk : [.thstat, .tsens] ⊆ Ks) :
    Only Ps Ks s0 (State.convertSensor s t n raw) := by
  unfold State.convertSensor
  repeat' first
    | with_reducible assumption | exact List.Subset.trans (by decide +kernel) hp | exact hk (List.elem_iff.mp rfl)
    | with_reducible apply only_State_sensorFail | with_reducible apply only_State_setReg
    | with_reducible apply only_State_setTherm | dsimp only | split

theorem only_sensorConversion {Ps : List Piece} {Ks : List RegKind} {s0 : State} (t : Nat) (raw : List Nat) (s :
    State) (hK : Only Ps Ks s0 s) (hp : [.boot, .bootRun, .mem, .checks, .stores, .cores, .beds, .domains, .thermal,
    .ports, .guests, .reqs, .quiesced, .ic, .flog0, .flog1, .fatal, .mbox, .alive, .standby, .hbActive, .hbStandby,
    .removing, .revocation, .engines, .xfers, .lists] ⊆ Ps) (hk : [.vregCtl, .thstat, .vstat, .tsens, .pkgHardpan] ⊆
    Ks) : Only Ps Ks s0 (sensorConversion t raw s) := by
  unfold sensorConversion
  repeat' first
    | with_reducible assumption | exact List.Subset.trans (by decide +kernel) hp
    | exact List.Subset.trans (by decide +kernel) hk | with_reducible apply only_State_convertSensor
    | with_reducible apply only_State_enterHardpan | with_reducible apply only_State_updateFlags
    | with_reducible apply Only.fold | intro _ _ _ | dsimp only | split

theorem only_execSensorConversion (tower : Fin 8) (raw : List (BitVec 16)) (s : State) : ∃ t, execSensorConversion
    tower raw s = .next t ∧ Only [.boot, .bootRun, .mem, .checks, .stores, .cores, .beds, .domains, .thermal, .ports,
    .guests, .reqs, .quiesced, .ic, .flog0, .flog1, .fatal, .mbox, .alive, .standby, .hbActive, .hbStandby, .removing,
    .revocation, .engines, .xfers, .lists] [.vregCtl, .thstat, .vstat, .tsens, .pkgHardpan] s t := by
  refine ⟨_, rfl, ?_⟩
  repeat' first | with_reducible exact Only.refl _ | decide +kernel | with_reducible apply only_sensorConversion

theorem only_sensorFailure {Ps : List Piece} {Ks : List RegKind} {s0 : State} (t : Nat) (n : Nat) (s : State) (hK :
    Only Ps Ks s0 s) (hp : [.thermal, .ic, .flog0, .flog1] ⊆ Ps) (hk : [.thstat, .tsens] ⊆ Ks) : Only Ps Ks s0
    (sensorFailure t n s) := by
  unfold sensorFailure
  repeat' first | with_reducible assumption | with_reducible apply only_State_sensorFail | dsimp only | split

theorem only_execSensorFailure (tower : Fin 8) (sensor : Fin 32) (s : State) : ∃ t, execSensorFailure tower sensor s =
    .next t ∧ Only [.thermal, .ic, .flog0, .flog1] [.thstat, .tsens] s t := by
  refine ⟨_, rfl, ?_⟩
  repeat' first | with_reducible exact Only.refl _ | decide +kernel | with_reducible apply only_sensorFailure

theorem only_throttleUpdate {Ps : List Piece} {Ks : List RegKind} {s0 : State} (t : Nat) (s : State) (hK : Only Ps Ks
    s0 s) (hp : [.thermal] ⊆ Ps) (hk : [.thstat, .env] ⊆ Ks) : Only Ps Ks s0 (throttleUpdate t s) := by
  unfold throttleUpdate
  repeat' first
    | with_reducible assumption | exact hk (List.elem_iff.mp rfl) | with_reducible apply only_State_setF
    | with_reducible apply only_State_setTherm | dsimp only | split

theorem only_execThrottleUpdate (tower : Fin 8) (s : State) : ∃ t, execThrottleUpdate tower s = .next t ∧ Only
    [.thermal] [.thstat, .env] s t := by
  refine ⟨_, rfl, ?_⟩
  repeat' first | with_reducible exact Only.refl _ | decide +kernel | with_reducible apply only_throttleUpdate

theorem only_thermalFlagClear {Ps : List Piece} {Ks : List RegKind} {s0 : State} (t : Nat) (flag : ThFlag) (s : State)
    (hK : Only Ps Ks s0 s) (hp : [.thermal] ⊆ Ps) (hk : [.thstat] ⊆ Ks) : Only Ps Ks s0 (thermalFlagClear t flag s) :=
    by
  unfold thermalFlagClear
  repeat' first
    | with_reducible assumption | exact hk (List.elem_iff.mp rfl) | with_reducible apply only_State_clrBit
    | with_reducible apply only_State_setTherm | dsimp only | split

theorem only_execThermalFlagClear (tower : Fin 8) (flag : ThFlag) (s : State) : ∃ t, execThermalFlagClear tower flag s
    = .next t ∧ Only [.thermal] [.thstat] s t := by
  refine ⟨_, rfl, ?_⟩
  repeat' first | with_reducible exact Only.refl _ | decide +kernel | with_reducible apply only_thermalFlagClear

theorem only_State_refreshCaps {Ps : List Piece} {Ks : List RegKind} {s0 : State} (s : State) (hK : Only Ps Ks s0 s)
    (hp : [.capIo, .capTc] ⊆ Ps) (hk : [.env] ⊆ Ks) : Only Ps Ks s0 (State.refreshCaps s) := by
  unfold State.refreshCaps
  repeat' first | with_reducible assumption | with_reducible apply only_State_recomputeCaps | split

theorem only_thermistorConversion {Ps : List Piece} {Ks : List RegKind} {s0 : State} (a : Thermistor) (b : Thermistor)
    (s : State) (hK : Only Ps Ks s0 s) (hp : [.capIo, .capTc] ⊆ Ps) (hk : [.env, .pkgCoolant] ⊆ Ks) : Only Ps Ks s0
    (thermistorConversion a b s) := by
  unfold thermistorConversion
  repeat' first
    | with_reducible assumption | exact List.Subset.trans (by decide +kernel) hk | exact hk (List.elem_iff.mp rfl)
    | with_reducible apply only_State_refreshCaps | with_reducible apply only_State_setReg | split

theorem only_execThermistorConversion (in0 : Thermistor) (in1 : Thermistor) (s : State) : ∃ t,
    execThermistorConversion in0 in1 s = .next t ∧ Only [.capIo, .capTc] [.env, .pkgCoolant] s t := by
  refine ⟨_, rfl, ?_⟩
  repeat' first | with_reducible exact Only.refl _ | decide +kernel | with_reducible apply only_thermistorConversion

theorem only_rthEstimation {Ps : List Piece} {Ks : List RegKind} {s0 : State} (t : Nat) (m : RthMeasure) (s : State)
    (hK : Only Ps Ks s0 s) (hp : [.thermal, .capIo, .capTc] ⊆ Ps) (hk : [.env] ⊆ Ks) : Only Ps Ks s0 (rthEstimation t
    m s) := by
  unfold rthEstimation
  repeat' first
    | with_reducible assumption | exact List.Subset.trans (by decide +kernel) hp
    | with_reducible apply only_State_recomputeCaps | with_reducible apply only_State_setTherm | dsimp only | split

theorem only_execRthEstimation (tower : Fin 8) (m : RthMeasure) (s : State) : ∃ t, execRthEstimation tower m s = .next
    t ∧ Only [.thermal, .capIo, .capTc] [.env] s t := by
  refine ⟨_, rfl, ?_⟩
  repeat' first | with_reducible exact Only.refl _ | decide +kernel | with_reducible apply only_rthEstimation

theorem only_State_reportClamp {Ps : List Piece} {Ks : List RegKind} {s0 : State} (s : State) (t : Nat) (sp : Nat) (hK
    : Only Ps Ks s0 s) (hp : [.mbox, .clamps] ⊆ Ps) : Only Ps Ks s0 (State.reportClamp s t sp) := by
  unfold State.reportClamp
  repeat' first
    | with_reducible assumption | exact List.Subset.trans (by decide +kernel) hp | exact hp (by decide +kernel)
    | with_reducible apply only_State_notify | with_reducible apply Only.fold | intro _ _ _
    | with_reducible apply Only.upd_clamps

theorem only_State_floorClamp {Ps : List Piece} {Ks : List RegKind} {s0 : State} (s : State) (t : Nat) (power : Nat)
    (hK : Only Ps Ks s0 s) (hp : [.thermal, .ic, .mbox, .clamps] ⊆ Ps) (hk : [.thstat, .clampcnt] ⊆ Ks) : Only Ps Ks
    s0 (State.floorClamp s t power) := by
  unfold State.floorClamp
  repeat' first
    | with_reducible assumption | exact List.Subset.trans (by decide +kernel) hp | exact hk (List.elem_iff.mp rfl)
    | with_reducible apply only_State_countF | with_reducible apply only_State_raise
    | with_reducible apply only_State_reportClamp | with_reducible apply only_State_setBit
    | with_reducible apply only_State_setTherm | dsimp only | split

theorem only_governorEvaluation {Ps : List Piece} {Ks : List RegKind} {s0 : State} (t : Nat) (mv : Nat) (cur : Nat) (s
    : State) (hK : Only Ps Ks s0 s) (hp : [.thermal, .ic, .mbox, .clamps] ⊆ Ps) (hk : [.vregMeas, .thstat, .vstat,
    .clampcnt] ⊆ Ks) : Only Ps Ks s0 (governorEvaluation t mv cur s) := by
  unfold governorEvaluation
  repeat' first
    | with_reducible assumption | exact List.Subset.trans (by decide +kernel) hp
    | exact List.Subset.trans (by decide +kernel) hk | exact hk (List.elem_iff.mp rfl)
    | with_reducible apply only_State_floorClamp | with_reducible apply only_State_refreshEnv
    | with_reducible apply only_State_setF | with_reducible apply only_State_setTherm | dsimp only | split

theorem only_execGovernorEvaluation (tower : Fin 8) (millivolts : BitVec 16) (current : BitVec 16) (s : State) : ∃ t,
    execGovernorEvaluation tower millivolts current s = .next t ∧ Only [.thermal, .ic, .mbox, .clamps] [.vregMeas,
    .thstat, .vstat, .clampcnt] s t := by
  refine ⟨_, rfl, ?_⟩
  repeat' first | with_reducible exact Only.refl _ | decide +kernel | with_reducible apply only_governorEvaluation

theorem only_State_measure {Ps : List Piece} {Ks : List RegKind} {s0 : State} (s : State) (hK : Only Ps Ks s0 s) (hp :
    [.freeCtr, .capIo, .capTc] ⊆ Ps) (hk : [.vregMeas, .vinStat, .env, .pkgPower] ⊆ Ks) : Only Ps Ks s0 (State.measure
    s) := by
  unfold State.measure
  repeat' first
    | with_reducible assumption | exact List.Subset.trans (by decide +kernel) hp
    | exact List.Subset.trans (by decide +kernel) hk | exact hk (List.elem_iff.mp rfl)
    | with_reducible apply only_State_bumpFree | with_reducible apply only_State_refreshCaps
    | with_reducible apply only_State_setF | with_reducible apply only_State_setReg | with_reducible apply Only.fold
    | intro _ _ _ | dsimp only | split

/-! ### Machine/FloorPlan.lean -/

theorem only_State_publishRecord {Ps : List Piece} {Ks : List RegKind} {s0 : State} (s : State) (hK : Only Ps Ks s0 s)
    (hp : [.fplan, .fpDirty, .published, .mbox] ⊆ Ps) : Only Ps Ks s0 (State.publishRecord s) := by
  unfold State.publishRecord
  repeat' first
    | with_reducible assumption | exact List.Subset.trans (by decide +kernel) hp | exact hp (by decide +kernel)
    | with_reducible apply only_State_notifyAll | with_reducible apply Only.upd_fplan_fpDirty_published

theorem only_execFloorPlanUpdate (s : State) : ∃ t, execFloorPlanUpdate s = .next t ∧ Only [.fplan, .fpDirty,
    .published, .mbox] [] s t := by
  refine ⟨_, rfl, ?_⟩
  repeat' first
    | with_reducible exact Only.refl _ | decide +kernel | with_reducible apply only_State_publishRecord | split

/-! ### Machine/Slips.lean -/

theorem only_helloAct {Ps : List Piece} {Ks : List RegKind} {s0 : State} (x : Slip) (s : State) (hK : Only Ps Ks s0 s)
    (hp : [.mbox, .clamps, .progress, .watchdogs] ⊆ Ps) : Only Ps Ks s0 (helloAct x s) := by
  unfold helloAct
  repeat' first
    | with_reducible assumption | exact List.Subset.trans (by decide +kernel) hp | exact hp (by decide +kernel)
    | with_reducible apply only_State_answer | with_reducible apply only_State_setMb | dsimp only | split
    | with_reducible apply Only.upd_clamps

theorem only_execHello (slip : Slip) (s : State) : ∃ t, execHello slip s = .next t ∧ Only [.mbox, .clamps, .progress,
    .watchdogs] [] s t := by
  refine ⟨_, rfl, ?_⟩
  repeat' first
    | with_reducible assumption | with_reducible exact Only.refl _ | decide +kernel
    | with_reducible apply only_State_withSlip | with_reducible apply only_helloAct | intro _ _

theorem only_State_waitSlip {Ps : List Piece} {Ks : List RegKind} {s0 : State} (s : State) (x : Slip) (hK : Only Ps Ks
    s0 s) (hp : [.mbox] ⊆ Ps) : Only Ps Ks s0 (State.waitSlip s x) := by
  unfold State.waitSlip
  repeat' first | with_reducible assumption | with_reducible apply only_State_setMb

theorem only_segAllocAct {Ps : List Piece} {Ks : List RegKind} {s0 : State} (x : Slip) (s : State) (hK : Only Ps Ks s0
    s) (hp : [.freeCtr, .mbox, .segs, .progress, .watchdogs] ⊆ Ps) : Only Ps Ks s0 (segAllocAct x s) := by
  unfold segAllocAct
  repeat' first
    | with_reducible assumption | exact List.Subset.trans (by decide +kernel) hp
    | with_reducible apply only_State_answer | with_reducible apply only_State_installAlloc
    | with_reducible apply only_State_waitSlip | split

theorem only_execSegAlloc (slip : Slip) (s : State) : ∃ t, execSegAlloc slip s = .next t ∧ Only [.freeCtr, .mbox,
    .segs, .progress, .watchdogs] [] s t := by
  refine ⟨_, rfl, ?_⟩
  repeat' first
    | with_reducible assumption | with_reducible exact Only.refl _ | decide +kernel
    | with_reducible apply only_State_withSlip | with_reducible apply only_segAllocAct | intro _ _

theorem only_segFreeAct {Ps : List Piece} {Ks : List RegKind} {s0 : State} (x : Slip) (s : State) (hK : Only Ps Ks s0
    s) (hp : [.mbox, .segs, .removing, .keys, .leases, .zeroing, .progress, .watchdogs] ⊆ Ps) : Only Ps Ks s0
    (segFreeAct x s) := by
  unfold segFreeAct
  repeat' first
    | with_reducible assumption | exact List.Subset.trans (by decide +kernel) hp | exact hp (by decide +kernel)
    | with_reducible apply only_State_answer | with_reducible apply only_State_clearSeg
    | with_reducible apply only_State_queueZero | with_reducible apply only_State_removeShared
    | with_reducible apply only_State_waitSlip | dsimp only | split | with_reducible apply Only.upd_removing

theorem only_execSegFree (slip : Slip) (s : State) : ∃ t, execSegFree slip s = .next t ∧ Only [.mbox, .segs,
    .removing, .keys, .leases, .zeroing, .progress, .watchdogs] [] s t := by
  refine ⟨_, rfl, ?_⟩
  repeat' first
    | with_reducible assumption | with_reducible exact Only.refl _ | decide +kernel
    | with_reducible apply only_State_withSlip | with_reducible apply only_segFreeAct | intro _ _

theorem only_segShareAct {Ps : List Piece} {Ks : List RegKind} {s0 : State} (x : Slip) (s : State) (hK : Only Ps Ks s0
    s) (hp : [.freeCtr, .mbox, .segs, .keys, .usedKeys, .leases, .progress, .watchdogs] ⊆ Ps) : Only Ps Ks s0
    (segShareAct x s) := by
  unfold segShareAct
  repeat' first
    | with_reducible assumption | exact List.Subset.trans (by decide +kernel) hp | exact hp (by decide +kernel)
    | with_reducible apply only_State_answer | with_reducible apply only_State_bumpFree
    | with_reducible apply only_State_grant | with_reducible apply only_State_setSeg | dsimp only | split
    | with_reducible apply Only.upd_keys_usedKeys

theorem only_execSegShare (slip : Slip) (s : State) : ∃ t, execSegShare slip s = .next t ∧ Only [.freeCtr, .mbox,
    .segs, .keys, .usedKeys, .leases, .progress, .watchdogs] [] s t := by
  refine ⟨_, rfl, ?_⟩
  repeat' first
    | with_reducible assumption | with_reducible exact Only.refl _ | decide +kernel
    | with_reducible apply only_State_withSlip | with_reducible apply only_segShareAct | intro _ _

theorem only_segAttachAct {Ps : List Piece} {Ks : List RegKind} {s0 : State} (x : Slip) (s : State) (hK : Only Ps Ks
    s0 s) (hp : [.mbox, .segs, .keys, .progress, .watchdogs] ⊆ Ps) : Only Ps Ks s0 (segAttachAct x s) := by
  unfold segAttachAct
  repeat' first
    | with_reducible assumption | exact List.Subset.trans (by decide +kernel) hp | exact hp (by decide +kernel)
    | with_reducible apply only_State_answer | with_reducible apply only_State_setSeg | dsimp only | split
    | with_reducible apply Only.upd_keys

theorem only_execSegAttach (slip : Slip) (s : State) : ∃ t, execSegAttach slip s = .next t ∧ Only [.mbox, .segs,
    .keys, .progress, .watchdogs] [] s t := by
  refine ⟨_, rfl, ?_⟩
  repeat' first
    | with_reducible assumption | with_reducible exact Only.refl _ | decide +kernel
    | with_reducible apply only_State_withSlip | with_reducible apply only_segAttachAct | intro _ _

theorem only_State_refuseTag {Ps : List Piece} {Ks : List RegKind} {s0 : State} (s : State) (x : Slip) (hK : Only Ps
    Ks s0 s) (hp : [.mbox, .progress, .watchdogs] ⊆ Ps) : Only Ps Ks s0 (State.refuseTag s x) := by
  unfold State.refuseTag
  repeat' first | with_reducible assumption | with_reducible apply only_State_answer

theorem only_submitAct {Ps : List Piece} {Ks : List RegKind} {s0 : State} (x : Slip) (s : State) (hK : Only Ps Ks s0
    s) (hp : [.mbox, .lists, .nextList, .progress, .watchdogs] ⊆ Ps) : Only Ps Ks s0 (submitAct x s) := by
  unfold submitAct
  repeat' first
    | with_reducible assumption | exact List.Subset.trans (by decide +kernel) hp | exact hp (by decide +kernel)
    | with_reducible apply only_State_answer | with_reducible apply only_State_refuseTag | dsimp only | split
    | with_reducible apply Only.upd_lists_nextList

theorem only_execSubmit (slip : Slip) (s : State) : ∃ t, execSubmit slip s = .next t ∧ Only [.mbox, .lists, .nextList,
    .progress, .watchdogs] [] s t := by
  refine ⟨_, rfl, ?_⟩
  repeat' first
    | with_reducible assumption | with_reducible exact Only.refl _ | decide +kernel
    | with_reducible apply only_State_withSlip | with_reducible apply only_submitAct | intro _ _

theorem only_State_stopList {Ps : List Piece} {Ks : List RegKind} {s0 : State} (s : State) (l : WorkList) (st : Nat)
    (hK : Only Ps Ks s0 s) (hp : [.cores, .thermal, .mbox, .lists, .progress, .watchdogs] ⊆ Ps) (hk : [.vgov] ⊆ Ks) :
    Only Ps Ks s0 (State.stopList s l st) := by
  unfold State.stopList
  repeat' first
    | with_reducible assumption | exact List.Subset.trans (by decide +kernel) hp
    | with_reducible apply only_State_completeList | with_reducible apply only_State_dropQueued
    | with_reducible apply only_State_setList | with_reducible apply only_State_settleList | split

theorem only_cancelAct {Ps : List Piece} {Ks : List RegKind} {s0 : State} (x : Slip) (s : State) (hK : Only Ps Ks s0
    s) (hp : [.cores, .thermal, .mbox, .leases, .engines, .xfers, .lists, .progress, .watchdogs] ⊆ Ps) (hk : [.vgov] ⊆
    Ks) : Only Ps Ks s0 (cancelAct x s) := by
  unfold cancelAct
  repeat' first
    | with_reducible assumption | exact List.Subset.trans (by decide +kernel) hp
    | with_reducible apply only_State_answer | with_reducible apply only_State_setList
    | with_reducible apply only_State_setXfer | with_reducible apply only_State_stopList
    | with_reducible apply only_State_stopXfer | dsimp only | split

theorem only_execCancel (slip : Slip) (s : State) : ∃ t, execCancel slip s = .next t ∧ Only [.cores, .thermal, .mbox,
    .leases, .engines, .xfers, .lists, .progress, .watchdogs] [.vgov] s t := by
  refine ⟨_, rfl, ?_⟩
  repeat' first
    | with_reducible assumption | with_reducible exact Only.refl _ | decide +kernel
    | with_reducible apply only_State_withSlip | with_reducible apply only_cancelAct | intro _ _

theorem only_State_placeJob {Ps : List Piece} {Ks : List RegKind} {s0 : State} (s : State) (t : Nat) (tag : Nat) (e :
    Nat) (first : Nat) (count : Nat) (hK : Only Ps Ks s0 s) (hp : [.leases, .engines] ⊆ Ps) : Only Ps Ks s0
    (State.placeJob s t tag e first count) := by
  unfold State.placeJob
  repeat' first
    | with_reducible assumption | exact List.Subset.trans (by decide +kernel) hp
    | with_reducible apply only_State_grant | with_reducible apply only_State_setEngine | dsimp only | split

theorem only_State_placeJobs {Ps : List Piece} {Ks : List RegKind} {s0 : State} (s : State) (t : Nat) (tag : Nat)
    (total : Nat) (es : List Nat) (hK : Only Ps Ks s0 s) (hp : [.leases, .engines] ⊆ Ps) : Only Ps Ks s0
    (State.placeJobs s t tag total es) := by
  unfold State.placeJobs
  repeat' first
    | with_reducible assumption | with_reducible apply only_State_placeJob | with_reducible apply Only.fold
    | intro _ _ _ | dsimp only | split

theorem only_transferAct {Ps : List Piece} {Ks : List RegKind} {s0 : State} (x : Slip) (named : List Nat) (s : State)
    (hK : Only Ps Ks s0 s) (hp : [.mbox, .leases, .engines, .xfers, .progress, .watchdogs] ⊆ Ps) : Only Ps Ks s0
    (transferAct x named s) := by
  unfold transferAct
  repeat' first
    | with_reducible assumption | exact List.Subset.trans (by decide +kernel) hp | exact hp (by decide +kernel)
    | with_reducible apply only_State_answer | with_reducible apply only_State_placeJobs
    | with_reducible apply only_State_refuseTag | dsimp only | split | with_reducible apply Only.upd_xfers

theorem only_execTransfer (slip : Slip) (engines : List (Fin 32)) (s : State) : ∃ t, execTransfer slip engines s =
    .next t ∧ Only [.mbox, .leases, .engines, .xfers, .progress, .watchdogs] [] s t := by
  refine ⟨_, rfl, ?_⟩
  repeat' first
    | with_reducible assumption | with_reducible exact Only.refl _ | decide +kernel
    | with_reducible apply only_State_withSlip | with_reducible apply only_transferAct | intro _ _ | split

theorem only_floorplanAct {Ps : List Piece} {Ks : List RegKind} {s0 : State} (x : Slip) (hostOk : Bool) (s : State)
    (hK : Only Ps Ks s0 s) (hp : [.out, .mbox, .progress, .watchdogs] ⊆ Ps) : Only Ps Ks s0 (floorplanAct x hostOk s)
    := by
  unfold floorplanAct
  repeat' first
    | with_reducible assumption | exact List.Subset.trans (by decide +kernel) hp
    | with_reducible apply only_State_answer | with_reducible apply only_State_emit | split

theorem only_execFloorplan (slip : Slip) (hostOk : Bool) (s : State) : ∃ t, execFloorplan slip hostOk s = .next t ∧
    Only [.out, .mbox, .progress, .watchdogs] [] s t := by
  refine ⟨_, rfl, ?_⟩
  repeat' first
    | with_reducible assumption | with_reducible exact Only.refl _ | decide +kernel
    | with_reducible apply only_State_withSlip | with_reducible apply only_floorplanAct | intro _ _

theorem only_timesyncAct {Ps : List Piece} {Ks : List RegKind} {s0 : State} (x : Slip) (s : State) (hK : Only Ps Ks s0
    s) (hp : [.tb, .mbox, .progress, .watchdogs] ⊆ Ps) : Only Ps Ks s0 (timesyncAct x s) := by
  unfold timesyncAct
  repeat' first
    | with_reducible assumption | exact List.Subset.trans (by decide +kernel) hp | exact hp (by decide +kernel)
    | with_reducible apply only_State_answer | dsimp only | split | with_reducible apply Only.upd_tb

theorem only_execTimesyncRead (slip : Slip) (s : State) : ∃ t, execTimesyncRead slip s = .next t ∧ Only [.tb, .mbox,
    .progress, .watchdogs] [] s t := by
  refine ⟨_, rfl, ?_⟩
  repeat' first
    | with_reducible assumption | with_reducible exact Only.refl _ | decide +kernel
    | with_reducible apply only_State_withSlip | with_reducible apply only_timesyncAct | intro _ _ | split

theorem only_execTimesyncArm (slip : Slip) (s : State) : ∃ t, execTimesyncArm slip s = .next t ∧ Only [.tb, .mbox,
    .progress, .watchdogs] [] s t := by
  refine ⟨_, rfl, ?_⟩
  repeat' first
    | with_reducible assumption | with_reducible exact Only.refl _ | decide +kernel
    | with_reducible apply only_State_withSlip | with_reducible apply only_timesyncAct | intro _ _ | split

/-! ### Machine/QStage.lean -/

theorem only_State_qsCount {Ps : List Piece} {Ks : List RegKind} {s0 : State} (s : State) (k : Nat) (n : Nat) (elems :
    List Nat) (hK : Only Ps Ks s0 s) (hp : [.ic] ⊆ Ps) (hk : [.qswin, .qselem, .qstot, .qsstat, .ctrVal] ⊆ Ks) : Only
    Ps Ks s0 (State.qsCount s k n elems) := by
  unfold State.qsCount
  repeat' first
    | with_reducible assumption | exact List.Subset.trans (by decide +kernel) hk | exact hk (List.elem_iff.mp rfl)
    | with_reducible apply only_State_countF | with_reducible apply only_State_ctr
    | with_reducible apply only_State_raise | with_reducible apply only_State_setF
    | with_reducible apply only_State_setReg | with_reducible apply Only.fold | intro _ _ _ | dsimp only | split

theorem only_qsWindowEnd {Ps : List Piece} {Ks : List RegKind} {s0 : State} (k : Nat) (n : Nat) (s : State) (hK : Only
    Ps Ks s0 s) (hk : [.qswin, .qselem] ⊆ Ks) : Only Ps Ks s0 (qsWindowEnd k n s) := by
  unfold qsWindowEnd
  repeat' first
    | with_reducible assumption | exact hk (List.elem_iff.mp rfl) | with_reducible apply only_State_setReg | split

theorem only_execQsWindowEnd (core : Fin 64) (counter : Fin 9) (s : State) : ∃ t, execQsWindowEnd core counter s =
    .next t ∧ Only [] [.qswin, .qselem] s t := by
  refine ⟨_, rfl, ?_⟩
  repeat' first | with_reducible exact Only.refl _ | decide +kernel | with_reducible apply only_qsWindowEnd

theorem only_State_qsctlWrite {Ps : List Piece} {Ks : List RegKind} {s0 : State} (s : State) (k : Nat) (n : Nat) (v :
    DWord) (hK : Only Ps Ks s0 s) (hk : [.qsctl, .qswin, .qselem, .qstot] ⊆ Ks) : Only Ps Ks s0 (State.qsctlWrite s k
    n v) := by
  unfold State.qsctlWrite
  repeat' first
    | with_reducible assumption | exact hk (List.elem_iff.mp rfl) | with_reducible apply only_State_plainWrite
    | with_reducible apply only_State_setReg | dsimp only | split

theorem only_execCoreQsctlWrite (core : Fin 64) (counter : Fin 9) (value : Word) (s : State) : ∃ t, execCoreQsctlWrite
    core counter value s = .next t ∧ Only [] [.qsctl, .qswin, .qselem, .qstot] s t := by
  refine ⟨_, rfl, ?_⟩
  repeat' first
    | with_reducible exact Only.refl _ | decide +kernel | with_reducible apply only_State_qsctlWrite | split

theorem only_execCoreQsctlClear (core : Fin 64) (counter : Fin 9) (value : Word) (s : State) : ∃ t, execCoreQsctlClear
    core counter value s = .next t ∧ Only [] [.qsctl, .qswin, .qselem, .qstot] s t := by
  refine ⟨_, rfl, ?_⟩
  repeat' first
    | with_reducible exact Only.refl _ | decide +kernel | with_reducible apply only_State_qsctlWrite | split

theorem only_State_qsstatWrite {Ps : List Piece} {Ks : List RegKind} {s0 : State} (s : State) (k : Nat) (v : DWord)
    (hK : Only Ps Ks s0 s) (hk : [.qsstat] ⊆ Ks) : Only Ps Ks s0 (State.qsstatWrite s k v) := by
  unfold State.qsstatWrite
  repeat' first
    | with_reducible assumption | exact hk (List.elem_iff.mp rfl) | with_reducible apply only_State_plainWrite
    | with_reducible apply only_State_setF | dsimp only | split

theorem only_execExcClear (core : Fin 64) (value : Word) (s : State) : ∃ t, execExcClear core value s = .next t ∧ Only
    [] [.qsstat] s t := by
  refine ⟨_, rfl, ?_⟩
  repeat' first
    | with_reducible exact Only.refl _ | decide +kernel | with_reducible apply only_State_qsstatWrite | split

theorem only_State_qsClear {Ps : List Piece} {Ks : List RegKind} {s0 : State} (s : State) (k : Nat) (hK : Only Ps Ks
    s0 s) (hk : [.qsctl, .qswin, .qselem, .qstot, .qsstat] ⊆ Ks) : Only Ps Ks s0 (State.qsClear s k) := by
  unfold State.qsClear
  repeat' first
    | with_reducible assumption | exact hk (List.elem_iff.mp rfl) | with_reducible apply only_State_setReg
    | with_reducible apply Only.fold | intro _ _ _

theorem only_State_mxSat {Ps : List Piece} {Ks : List RegKind} {s0 : State} (s : State) (k : Nat) (m : MxSat) (hK :
    Only Ps Ks s0 s) (hp : [.ic] ⊆ Ps) (hk : [.mxstat, .mxsatcnt] ⊆ Ks) : Only Ps Ks s0 (State.mxSat s k m) := by
  unfold State.mxSat
  repeat' first
    | with_reducible assumption | exact hk (List.elem_iff.mp rfl) | with_reducible apply only_State_countF
    | with_reducible apply only_State_raise | with_reducible apply only_State_setBit | dsimp only | split

theorem only_State_chainReport {Ps : List Piece} {Ks : List RegKind} {s0 : State} (s : State) (k : Nat) (x : ChainFx)
    (hK : Only Ps Ks s0 s) (hp : [.ic] ⊆ Ps) (hk : [.vcstat, .vcsatcnt, .qswin, .qselem, .qstot, .qsstat, .ctrVal] ⊆
    Ks) : Only Ps Ks s0 (State.chainReport s k x) := by
  unfold State.chainReport
  repeat' first
    | with_reducible assumption | exact List.Subset.trans (by decide +kernel) hk | exact hk (List.elem_iff.mp rfl)
    | with_reducible apply only_State_countF | with_reducible apply only_State_qsCount
    | with_reducible apply only_State_raise | with_reducible apply only_State_setBit
    | with_reducible apply only_State_setF | with_reducible apply Only.fold | intro _ _ _ | split

end Sys2Proof.Machine
end

