-- ==== Sys2Proof/Laws/OnlyArray.lean ====
section
/-! SUPPORT. The same for the array, the vector chains, the beds, the caches, attention and the mover. -/

namespace Sys2Proof.Machine

set_option Elab.async false

/-! ### Machine/Tiles.lean -/

theorem only_State_readElems {Ps : List Piece} {Ks : List RegKind} {s0 : State} (s : State) (k : Nat) (t : Nat) (p :
    Place) (fmt : Nat) (n : Nat) (hK : Only Ps Ks s0 s) (hp : [.fpDirty, .chanPoisoned, .hbm, .ic, .flog0, .flog1,
    .mbox] ⊆ Ps) (hk : [.bedCe, .bedUe, .bedLastue, .memStat, .memChstat, .memChce, .memChue, .memChpoison, .ctrVal] ⊆
    Ks) : Only Ps Ks s0 (State.readElems s k t p fmt n).s := by
  unfold State.readElems
  repeat' first | with_reducible assumption | with_reducible apply only_State_opRead

/-! ### Machine/Chain.lean -/

theorem only_State_vecElems {Ps : List Piece} {Ks : List RegKind} {s0 : State} (s : State) (k : Nat) (t : Nat) (ref :
    Nat) (size : Nat) (lo : Nat) (n : Nat) (hK : Only Ps Ks s0 s) (hp : [.fpDirty, .chanPoisoned, .hbm, .ic, .flog0,
    .flog1, .mbox] ⊆ Ps) (hk : [.bedCe, .bedUe, .bedLastue, .memStat, .memChstat, .memChce, .memChue, .memChpoison,
    .ctrVal] ⊆ Ks) : Only Ps Ks s0 (State.vecElems s k t ref size lo n).s := by
  unfold State.vecElems
  repeat' first | with_reducible assumption | with_reducible apply only_State_readElems | split

theorem only_State_vecIf {Ps : List Piece} {Ks : List RegKind} {s0 : State} (s : State) (k : Nat) (t : Nat) (io :
    JobIo) (src : Nat) (ref : Nat) (size : Nat) (lo : Nat) (n : Nat) (hK : Only Ps Ks s0 s) (hp : [.fpDirty,
    .chanPoisoned, .hbm, .ic, .flog0, .flog1, .mbox] ⊆ Ps) (hk : [.bedCe, .bedUe, .bedLastue, .memStat, .memChstat,
    .memChce, .memChue, .memChpoison, .ctrVal] ⊆ Ks) : Only Ps Ks s0 (State.vecIf s k t io src ref size lo n).s := by
  unfold State.vecIf
  repeat' first | with_reducible assumption | with_reducible apply only_State_vecElems | split

theorem only_State_segRead {Ps : List Piece} {Ks : List RegKind} {s0 : State} (s : State) (k : Nat) (t : Nat) (io :
    JobIo) (g : Seg1) (hK : Only Ps Ks s0 s) (hp : [.fpDirty, .chanPoisoned, .hbm, .ic, .flog0, .flog1, .mbox] ⊆ Ps)
    (hk : [.bedCe, .bedUe, .bedLastue, .memStat, .memChstat, .memChce, .memChue, .memChpoison, .ctrVal] ⊆ Ks) : Only
    Ps Ks s0 (State.segRead s k t io g).s := by
  unfold State.segRead
  repeat' first
    | with_reducible assumption | with_reducible apply only_State_readElems | with_reducible apply only_State_vecIf
    | split

theorem only_BeatRun_segment {Ps : List Piece} {Ks : List RegKind} {s0 : State} (x : BeatRun) (k : Nat) (t : Nat)
    (cols : Nat) (io : JobIo) (g : Seg1) (hx : Only Ps Ks s0 x.s) (hp : [.mem, .checks, .stores, .fpDirty,
    .chanPoisoned, .hbm, .ic, .flog0, .flog1, .mbox] ⊆ Ps) (hk : [.bedCe, .bedUe, .bedLastue, .memStat, .memInject,
    .memChstat, .memChce, .memChue, .memChpoison, .fabStat, .fabDiscard, .ctrVal] ⊆ Ks) : Only Ps Ks s0
    (BeatRun.segment x k t cols io g).s := by
  unfold BeatRun.segment
  repeat' first
    | with_reducible assumption | exact List.Subset.trans (by decide +kernel) hp | exact hp (by decide +kernel)
    | exact List.Subset.trans (by decide +kernel) hk | with_reducible apply only_State_opWrite
    | with_reducible apply only_State_segRead | dsimp only | split | with_reducible apply Only.upd_stores

theorem only_State_failOp {Ps : List Piece} {Ks : List RegKind} {s0 : State} (s : State) (id : Nat) (off : Nat)
    (status : Nat) (hK : Only Ps Ks s0 s) (hp : [.cores, .lists] ⊆ Ps) : Only Ps Ks s0 (State.failOp s id off status)
    := by
  unfold State.failOp
  repeat' first
    | with_reducible assumption | exact List.Subset.trans (by decide +kernel) hp
    | with_reducible apply only_State_dropOp | with_reducible apply only_State_finishOp

theorem only_State_spoil {Ps : List Piece} {Ks : List RegKind} {s0 : State} (s : State) (k : Nat) (t : Nat) (out :
    Option Place) (r : Rows) (a : Acc) (hK : Only Ps Ks s0 s) (hp : [.freeCtr, .mem, .checks, .stores, .fpDirty,
    .chanPoisoned, .hbm, .ic, .flog0, .flog1, .mbox] ⊆ Ps) (hk : [.bedCe, .bedUe, .bedLastue, .memStat, .memInject,
    .memChstat, .memChce, .memChue, .memChpoison, .fabStat, .fabDiscard, .ctrVal] ⊆ Ks) : Only Ps Ks s0 (State.spoil s
    k t out r a) := by
  unfold State.spoil
  repeat' first | with_reducible assumption | with_reducible apply only_State_fillUndefined | split

theorem only_State_setSteps {Ps : List Piece} {Ks : List RegKind} {s0 : State} (s : State) (id : Nat) (off : Nat) (n :
    Nat) (hK : Only Ps Ks s0 s) (hp : [.lists] ⊆ Ps) : Only Ps Ks s0 (State.setSteps s id off n) := by
  unfold State.setSteps
  repeat' first | with_reducible assumption | with_reducible apply only_State_setOp | split

theorem only_State_endFused {Ps : List Piece} {Ks : List RegKind} {s0 : State} (s : State) (id : Nat) (off : Nat) (hK
    : Only Ps Ks s0 s) (hp : [.lists] ⊆ Ps) : Only Ps Ks s0 (State.endFused s id off) := by
  unfold State.endFused
  repeat' first | with_reducible assumption | with_reducible apply only_State_finishOp | dsimp only | split

theorem only_State_sealDigest {Ps : List Piece} {Ks : List RegKind} {s0 : State} (s : State) (id : Nat) (off : Nat)
    (hK : Only Ps Ks s0 s) (hp : [.lists] ⊆ Ps) : Only Ps Ks s0 (State.sealDigest s id off) := by
  unfold State.sealDigest
  repeat' first | with_reducible assumption | with_reducible apply only_State_setOp | split

theorem only_State_afterBeat {Ps : List Piece} {Ks : List RegKind} {s0 : State} (s : State) (k : Nat) (j : ChainJob)
    (red : List Nat) (hK : Only Ps Ks s0 s) (hp : [.cores, .lists] ⊆ Ps) : Only Ps Ks s0 (State.afterBeat s k j red)
    := by
  unfold State.afterBeat
  repeat' first
    | with_reducible assumption | exact List.Subset.trans (by decide +kernel) hp
    | with_reducible apply only_State_addSteps | with_reducible apply only_State_endFused
    | with_reducible apply only_State_finishOp | with_reducible apply only_State_sealDigest
    | with_reducible apply only_State_setCoreUnit | with_reducible apply only_State_setOp
    | with_reducible apply only_State_setSteps | dsimp only | split

theorem only_vchainBeat {Ps : List Piece} {Ks : List RegKind} {s0 : State} (k : Nat) (s : State) (hK : Only Ps Ks s0
    s) (hp : [.freeCtr, .mem, .checks, .stores, .fpDirty, .chanPoisoned, .cores, .hbm, .ic, .flog0, .flog1, .mbox,
    .lists] ⊆ Ps) (hk : [.vcstat, .vcsatcnt, .qswin, .qselem, .qstot, .qsstat, .bedCe, .bedUe, .bedLastue, .memStat,
    .memInject, .memChstat, .memChce, .memChue, .memChpoison, .fabStat, .fabDiscard, .ctrVal] ⊆ Ks) : Only Ps Ks s0
    (vchainBeat k s) := by
  unfold vchainBeat
  repeat' first
    | with_reducible assumption | exact List.Subset.trans (by decide +kernel) hp
    | exact List.Subset.trans (by decide +kernel) hk | with_reducible apply only_BeatRun_segment
    | with_reducible apply only_State_afterBeat | with_reducible apply only_State_chainReport
    | with_reducible apply only_State_ctr | with_reducible apply only_State_failOp
    | with_reducible apply only_State_setCoreUnit | with_reducible apply only_State_setOp
    | with_reducible apply only_State_spoil | with_reducible apply only_State_startOp
    | with_reducible apply Only.foldOn BeatRun.s | intro _ _ _ | dsimp only | split

theorem only_State_keepDesc {Ps : List Piece} {Ks : List RegKind} {s0 : State} (s : State) (l : WorkList) (o : Op)
    (binding : List Byte) (hK : Only Ps Ks s0 s) (hp : [.fpDirty, .chanPoisoned, .hbm, .ic, .flog0, .flog1, .mbox,
    .lists] ⊆ Ps) (hk : [.bedCe, .bedUe, .bedLastue, .memStat, .memChstat, .memChce, .memChue, .memChpoison, .ctrVal]
    ⊆ Ks) : Only Ps Ks s0 (State.keepDesc s l o binding).1 := by
  unfold State.keepDesc
  repeat' first
    | with_reducible assumption | exact List.Subset.trans (by decide +kernel) hp
    | with_reducible apply only_State_opRead | with_reducible apply only_State_setOp | dsimp only | split

theorem only_State_queueVchain {Ps : List Piece} {Ks : List RegKind} {s0 : State} (s : State) (l : WorkList) (o : Op)
    (hK : Only Ps Ks s0 s) (hp : [.cores] ⊆ Ps) : Only Ps Ks s0 (State.queueVchain s l o) := by
  unfold State.queueVchain
  repeat' first | with_reducible assumption | with_reducible apply only_State_setCoreUnit

theorem only_execVchain (list : Nat) (early : Option (List Byte)) (s : State) : ∃ t, execVchain list early s = .next t
    ∧ Only [.mem, .checks, .stores, .fpDirty, .chanPoisoned, .cores, .hbm, .ic, .flog0, .flog1, .mbox, .lists,
    .issueOrder] [.bedCe, .bedUe, .bedLastue, .memStat, .memInject, .memChstat, .memChce, .memChue, .memChpoison,
    .fabStat, .fabDiscard, .ctrVal] s t := by
  refine ⟨_, rfl, ?_⟩
  repeat' first
    | with_reducible assumption | with_reducible exact Only.refl _ | decide +kernel
    | with_reducible apply only_State_issueOp | with_reducible apply only_State_keepDesc
    | with_reducible apply only_State_queueVchain | intro _ _ _ _

/-! ### Machine/Array.lean -/

theorem only_State_mmBindingRead {Ps : List Piece} {Ks : List RegKind} {s0 : State} (s : State) (l : WorkList) (o :
    Op) (hK : Only Ps Ks s0 s) (hp : [.fpDirty, .chanPoisoned, .hbm, .ic, .flog0, .flog1, .mbox] ⊆ Ps) (hk : [.bedCe,
    .bedUe, .bedLastue, .memStat, .memChstat, .memChce, .memChue, .memChpoison, .ctrVal] ⊆ Ks) : Only Ps Ks s0
    (State.mmBindingRead s l o).s := by
  unfold State.mmBindingRead
  repeat' first | with_reducible assumption | with_reducible apply only_State_opRead | split

theorem only_State_queueMatmul {Ps : List Piece} {Ks : List RegKind} {s0 : State} (s : State) (l : WorkList) (o : Op)
    (hK : Only Ps Ks s0 s) (hp : [.cores] ⊆ Ps) : Only Ps Ks s0 (State.queueMatmul s l o) := by
  unfold State.queueMatmul
  repeat' first | with_reducible assumption | with_reducible apply only_State_setCoreUnit

theorem only_execMatmul (list : Nat) (early : Option (List Byte)) (s : State) : ∃ t, execMatmul list early s = .next t
    ∧ Only [.mem, .checks, .stores, .fpDirty, .chanPoisoned, .cores, .hbm, .ic, .flog0, .flog1, .mbox, .lists,
    .issueOrder] [.bedCe, .bedUe, .bedLastue, .memStat, .memInject, .memChstat, .memChce, .memChue, .memChpoison,
    .fabStat, .fabDiscard, .ctrVal] s t := by
  refine ⟨_, rfl, ?_⟩
  repeat' first
    | with_reducible assumption | with_reducible exact Only.refl _ | decide +kernel
    | with_reducible apply only_State_issueOp | with_reducible apply only_State_keepDesc
    | with_reducible apply only_State_mmBindingRead | with_reducible apply only_State_queueMatmul | intro _ _ _ _
    | dsimp only | split

theorem only_State_mmFail {Ps : List Piece} {Ks : List RegKind} {s0 : State} (s : State) (l : WorkList) (o : Op) (a :
    Acc) (hK : Only Ps Ks s0 s) (hp : [.freeCtr, .mem, .checks, .stores, .fpDirty, .chanPoisoned, .cores, .hbm, .ic,
    .flog0, .flog1, .mbox, .lists] ⊆ Ps) (hk : [.bedCe, .bedUe, .bedLastue, .memStat, .memInject, .memChstat,
    .memChce, .memChue, .memChpoison, .fabStat, .fabDiscard, .ctrVal] ⊆ Ks) : Only Ps Ks s0 (State.mmFail s l o a) :=
    by
  unfold State.mmFail
  repeat' first
    | with_reducible assumption | exact List.Subset.trans (by decide +kernel) hp
    | with_reducible apply only_State_failOp | with_reducible apply only_State_spoil

theorem only_State_readSet {Ps : List Piece} {Ks : List RegKind} {s0 : State} (s : State) (l : WorkList) (o : Op) (i :
    Nat) (hK : Only Ps Ks s0 s) (r : WRead) (hr : s.readSet l o i = some r) (hp : [.fpDirty, .chanPoisoned, .hbm, .ic,
    .flog0, .flog1, .mbox] ⊆ Ps) (hk : [.bedCe, .bedUe, .bedLastue, .memStat, .memChstat, .memChce, .memChue,
    .memChpoison, .ctrVal] ⊆ Ks) : Only Ps Ks s0 r.s := by
  unfold State.readSet at hr
  dsimp only at hr
  split at hr
  · cases hr
  · rename_i a ha
    obtain ⟨p, -, rfl⟩ := Option.map_eq_some_iff.1 ha
    have h1 := fun q n => only_State_weightRead s o.core l.tenant q n hK hp hk
    split at hr
    · split at hr
      · cases hr
      · rename_i b hb
        obtain ⟨p, -, rfl⟩ := Option.map_eq_some_iff.1 hb
        cases hr
        exact only_State_weightRead _ _ _ _ _ (h1 _ _) hp hk
    · cases hr
      exact h1 _ _

theorem only_shadowLoad {Ps : List Piece} {Ks : List RegKind} {s0 : State} (k q : Nat) (s : State) (hK : Only Ps Ks s0
    s) (hp : [.freeCtr, .mem, .checks, .stores, .fpDirty, .chanPoisoned, .cores, .hbm, .ic, .flog0, .flog1, .mbox,
    .lists] ⊆ Ps) (hk : [.bedCe, .bedUe, .bedLastue, .memStat, .memInject, .memChstat, .memChce, .memChue,
    .memChpoison, .fabStat, .fabDiscard, .ctrVal] ⊆ Ks) : Only Ps Ks s0 (shadowLoad k q s) := by
  unfold shadowLoad
  repeat' first
    | with_reducible assumption | exact hp | exact List.Subset.trans (by decide +kernel) hp | exact hk
    | exact List.Subset.trans (by decide +kernel) hk | with_reducible apply only_State_mmFail
    | with_reducible apply only_State_startOp | with_reducible apply only_State_setCoreUnit
    | with_reducible apply only_State_streamSet | dsimp only
    | (with_reducible refine only_State_readSet _ _ _ _ ?_ _ (by assumption) ?_ ?_) | split

theorem only_execShadowLoad (core : Fin 64) (quad : Fin 4) (s : State) : ∃ t, execShadowLoad core quad s = .next t ∧
    Only [.freeCtr, .mem, .checks, .stores, .fpDirty, .chanPoisoned, .cores, .hbm, .ic, .flog0, .flog1, .mbox, .lists]
    [.bedCe, .bedUe, .bedLastue, .memStat, .memInject, .memChstat, .memChce, .memChue, .memChpoison, .fabStat,
    .fabDiscard, .ctrVal] s t := by
  refine ⟨_, rfl, ?_⟩
  repeat' first | with_reducible exact Only.refl _ | decide +kernel | with_reducible apply only_shadowLoad

theorem only_State_mmZero {Ps : List Piece} {Ks : List RegKind} {s0 : State} (s : State) (l : WorkList) (o : Op) (r :
    Nat) (hK : Only Ps Ks s0 s) (hp : [.fpDirty, .chanPoisoned, .hbm, .ic, .flog0, .flog1, .mbox] ⊆ Ps) (hk : [.bedCe,
    .bedUe, .bedLastue, .memStat, .memChstat, .memChce, .memChue, .memChpoison, .ctrVal] ⊆ Ks) : Only Ps Ks s0
    (State.mmZero s l o r).s := by
  unfold State.mmZero
  repeat' first | with_reducible assumption | with_reducible apply only_State_opRead | split

theorem only_TileRun_row {Ps : List Piece} {Ks : List RegKind} {s0 : State} (x : TileRun) (l : WorkList) (o : Op) (w :
    WSet) (t : Tile) (r : Nat) (hx : Only Ps Ks s0 x.s) (hp : [.stores, .fpDirty, .chanPoisoned, .hbm, .ic, .flog0,
    .flog1, .mbox] ⊆ Ps) (hk : [.bedCe, .bedUe, .bedLastue, .memStat, .memChstat, .memChce, .memChue, .memChpoison,
    .ctrVal] ⊆ Ks) : Only Ps Ks s0 (TileRun.row x l o w t r).s := by
  unfold TileRun.row
  repeat' first
    | with_reducible assumption | exact List.Subset.trans (by decide +kernel) hp | exact hp (by decide +kernel)
    | with_reducible apply only_State_mmZero | dsimp only | split | with_reducible apply Only.upd_stores

theorem only_State_runTile {Ps : List Piece} {Ks : List RegKind} {s0 : State} (s : State) (l : WorkList) (o : Op) (w :
    WSet) (t : Tile) (hK : Only Ps Ks s0 s) (hp : [.stores, .fpDirty, .chanPoisoned, .hbm, .ic, .flog0, .flog1, .mbox]
    ⊆ Ps) (hk : [.mxstat, .mxsatcnt, .bedCe, .bedUe, .bedLastue, .memStat, .memChstat, .memChce, .memChue,
    .memChpoison, .ctrVal] ⊆ Ks) : Only Ps Ks s0 (State.runTile s l o w t).s := by
  unfold State.runTile
  repeat' first
    | with_reducible assumption | exact List.Subset.trans (by decide +kernel) hp
    | exact List.Subset.trans (by decide +kernel) hk | with_reducible apply only_State_ctr
    | with_reducible apply only_State_mxSat | with_reducible apply only_TileRun_row
    | with_reducible apply Only.foldOn TileRun.s | intro _ _ _

theorem only_State_handOver {Ps : List Piece} {Ks : List RegKind} {s0 : State} (s : State) (l : WorkList) (o : Op) (t
    : Tile) (hK : Only Ps Ks s0 s) (hp : [.cores] ⊆ Ps) : Only Ps Ks s0 (State.handOver s l o t) := by
  unfold State.handOver
  repeat' first | with_reducible assumption | with_reducible apply only_State_setCoreUnit | dsimp only | split

theorem only_State_runTiles {Ps : List Piece} {Ks : List RegKind} {s0 : State} (s : State) (l : WorkList) (o : Op) (w
    : WSet) (i : Nat) (j : Nat) (hK : Only Ps Ks s0 s) (hp : [.stores, .fpDirty, .chanPoisoned, .cores, .hbm, .ic,
    .flog0, .flog1, .mbox] ⊆ Ps) (hk : [.mxstat, .mxsatcnt, .bedCe, .bedUe, .bedLastue, .memStat, .memChstat,
    .memChce, .memChue, .memChpoison, .ctrVal] ⊆ Ks) : Only Ps Ks s0 (State.runTiles s l o w i j).s := by
  unfold State.runTiles
  repeat' first
    | with_reducible assumption | exact List.Subset.trans (by decide +kernel) hp
    | with_reducible apply only_State_handOver | with_reducible apply only_State_runTile
    | with_reducible apply Only.foldOn TileRun.s | intro _ _ _ | dsimp only | split

theorem only_State_afterTiles {Ps : List Piece} {Ks : List RegKind} {s0 : State} (s : State) (l : WorkList) (o : Op)
    (j : Nat) (hK : Only Ps Ks s0 s) (hp : [.cores, .lists] ⊆ Ps) (hk : [.ctrVal] ⊆ Ks) : Only Ps Ks s0
    (State.afterTiles s l o j) := by
  unfold State.afterTiles
  repeat' first
    | with_reducible assumption | exact List.Subset.trans (by decide +kernel) hp | with_reducible apply only_State_ctr
    | with_reducible apply only_State_endFused | with_reducible apply only_State_finishOp
    | with_reducible apply only_State_setCoreUnit | with_reducible apply only_State_setOp | dsimp only | split

theorem only_State_streamSet {Ps : List Piece} {Ks : List RegKind} {s0 : State} (s : State) (l : WorkList) (o : Op) (w
    : WSet) (hK : Only Ps Ks s0 s) (hp : [.freeCtr, .mem, .checks, .stores, .fpDirty, .chanPoisoned, .cores, .hbm,
    .ic, .flog0, .flog1, .mbox, .lists] ⊆ Ps) (hk : [.mxstat, .mxsatcnt, .bedCe, .bedUe, .bedLastue, .memStat,
    .memInject, .memChstat, .memChce, .memChue, .memChpoison, .fabStat, .fabDiscard, .ctrVal] ⊆ Ks) : Only Ps Ks s0
    (State.streamSet s l o w) := by
  unfold State.streamSet
  repeat' first
    | with_reducible assumption | exact List.Subset.trans (by decide +kernel) hp
    | exact List.Subset.trans (by decide +kernel) hk | with_reducible apply only_State_afterTiles
    | with_reducible apply only_State_mmFail | with_reducible apply only_State_runTiles | dsimp only | split

theorem only_swap {Ps : List Piece} {Ks : List RegKind} {s0 : State} (k : Nat) (q : Nat) (s : State) (hK : Only Ps Ks
    s0 s) (hp : [.freeCtr, .mem, .checks, .stores, .fpDirty, .chanPoisoned, .cores, .hbm, .ic, .flog0, .flog1, .mbox,
    .lists] ⊆ Ps) (hk : [.mxstat, .mxsatcnt, .bedCe, .bedUe, .bedLastue, .memStat, .memInject, .memChstat, .memChce,
    .memChue, .memChpoison, .fabStat, .fabDiscard, .ctrVal] ⊆ Ks) : Only Ps Ks s0 (swap k q s) := by
  unfold swap
  repeat' first
    | with_reducible assumption | exact List.Subset.trans (by decide +kernel) hp
    | with_reducible apply only_State_setCoreUnit | with_reducible apply only_State_streamSet | dsimp only | split

theorem only_execSwap (core : Fin 64) (quad : Fin 4) (s : State) : ∃ t, execSwap core quad s = .next t ∧ Only
    [.freeCtr, .mem, .checks, .stores, .fpDirty, .chanPoisoned, .cores, .hbm, .ic, .flog0, .flog1, .mbox, .lists]
    [.mxstat, .mxsatcnt, .bedCe, .bedUe, .bedLastue, .memStat, .memInject, .memChstat, .memChce, .memChue,
    .memChpoison, .fabStat, .fabDiscard, .ctrVal] s t := by
  refine ⟨_, rfl, ?_⟩
  repeat' first | with_reducible exact Only.refl _ | decide +kernel | with_reducible apply only_swap

theorem only_rowBroadcast {Ps : List Piece} {Ks : List RegKind} {s0 : State} (k : Nat) (s : State) (hK : Only Ps Ks s0
    s) (hp : [.freeCtr, .mem, .checks, .stores, .fpDirty, .chanPoisoned, .cores, .hbm, .ic, .flog0, .flog1, .mbox,
    .lists] ⊆ Ps) (hk : [.mxstat, .mxsatcnt, .bedCe, .bedUe, .bedLastue, .memStat, .memInject, .memChstat, .memChce,
    .memChue, .memChpoison, .fabStat, .fabDiscard, .ctrVal] ⊆ Ks) : Only Ps Ks s0 (rowBroadcast k s) := by
  unfold rowBroadcast
  repeat' first
    | with_reducible assumption | exact hp | exact List.Subset.trans (by decide +kernel) hp | exact hk
    | exact List.Subset.trans (by decide +kernel) hk | with_reducible apply only_State_mmFail
    | with_reducible apply only_State_startOp | with_reducible apply only_State_setCoreUnit
    | with_reducible apply only_State_streamSet | dsimp only
    | (with_reducible refine only_State_readSet _ _ _ _ ?_ _ (by assumption) ?_ ?_) | split

theorem only_execRowBroadcast (core : Fin 64) (s : State) : ∃ t, execRowBroadcast core s = .next t ∧ Only [.freeCtr,
    .mem, .checks, .stores, .fpDirty, .chanPoisoned, .cores, .hbm, .ic, .flog0, .flog1, .mbox, .lists] [.mxstat,
    .mxsatcnt, .bedCe, .bedUe, .bedLastue, .memStat, .memInject, .memChstat, .memChce, .memChue, .memChpoison,
    .fabStat, .fabDiscard, .ctrVal] s t := by
  refine ⟨_, rfl, ?_⟩
  repeat' first | with_reducible exact Only.refl _ | decide +kernel | with_reducible apply only_rowBroadcast

/-! ### Machine/Beds.lean -/

theorem only_State_setWin {Ps : List Piece} {Ks : List RegKind} {s0 : State} (s : State) (k : Nat) (o : Nat) (bs :
    List Byte) (hK : Only Ps Ks s0 s) (hp : [.mem] ⊆ Ps) : Only Ps Ks s0 (State.setWin s k o bs) := by
  unfold State.setWin
  repeat' first | with_reducible assumption | exact hp (by decide +kernel) | with_reducible apply Only.upd_mem

theorem only_State_bedFinish {Ps : List Piece} {Ks : List RegKind} {s0 : State} (s : State) (k : Nat) (fault : Bool)
    (notify : Bool) (ready : Bool) (hK : Only Ps Ks s0 s) (hp : [.ic] ⊆ Ps) (hk : [.bedStatus, .bedDonecnt] ⊆ Ks) :
    Only Ps Ks s0 (State.bedFinish s k fault notify ready) := by
  unfold State.bedFinish
  repeat' first
    | with_reducible assumption | exact hk (List.elem_iff.mp rfl) | with_reducible apply only_State_raise
    | with_reducible apply only_State_setBit | with_reducible apply only_State_setReg | dsimp only | split

theorem only_State_bankEnd {Ps : List Piece} {Ks : List RegKind} {s0 : State} (s : State) (k : Nat) (c : BankCmd) (st
    : Nat) (count : Nat) (hK : Only Ps Ks s0 s) (hp : [.mem, .beds, .ic] ⊆ Ps) (hk : [.bedStatus, .bedDonecnt] ⊆ Ks) :
    Only Ps Ks s0 (State.bankEnd s k c st count) := by
  unfold State.bankEnd
  repeat' first
    | with_reducible assumption | exact List.Subset.trans (by decide +kernel) hp
    | with_reducible apply only_State_bedFinish | with_reducible apply only_State_setBed
    | with_reducible apply only_State_setWin

theorem only_State_issueBank {Ps : List Piece} {Ks : List RegKind} {s0 : State} (s : State) (k : Nat) (slot : Nat) (w0
    : List Byte) (owner : Option (Nat × Nat)) (tenant : Nat) (node : Nat) (hK : Only Ps Ks s0 s) (hp : [.mem, .beds,
    .ic, .flog0, .flog1] ⊆ Ps) (hk : [.bedStatus, .bedDonecnt, .ctrVal] ⊆ Ks) : Only Ps Ks s0 (State.issueBank s k
    slot w0 owner tenant node) := by
  unfold State.issueBank
  repeat' first
    | with_reducible assumption | exact List.Subset.trans (by decide +kernel) hp
    | exact List.Subset.trans (by decide +kernel) hk | exact hk (List.elem_iff.mp rfl)
    | with_reducible apply only_State_accessError | with_reducible apply only_State_bedFinish
    | with_reducible apply only_State_ctr | with_reducible apply only_State_setBed
    | with_reducible apply only_State_setBit | with_reducible apply only_State_setWin | dsimp only | split

theorem only_partialCmd {Ps : List Piece} {Ks : List RegKind} {s0 : State} (k : Nat) (b : Nat) (slot : Nat) (w0 :
    DWord) (s : State) (hK : Only Ps Ks s0 s) (hp : [.mem, .beds, .ic, .flog0, .flog1] ⊆ Ps) (hk : [.bedStatus,
    .bedDonecnt, .fabStat, .fabDiscard, .ctrVal] ⊆ Ks) : Only Ps Ks s0 (partialCmd k b slot w0 s) := by
  unfold partialCmd
  repeat' first
    | with_reducible assumption | exact List.Subset.trans (by decide +kernel) hp
    | exact List.Subset.trans (by decide +kernel) hk | with_reducible apply only_State_accessError
    | with_reducible apply only_State_discard | with_reducible apply only_State_issueBank | split

theorem only_execPartialCmd (core : Fin 64) (bank : Fin 128) (slot : Fin 2) (word0 : DWord) (s : State) : ∃ t,
    execPartialCmd core bank slot word0 s = .next t ∧ Only [.mem, .beds, .ic, .flog0, .flog1] [.bedStatus,
    .bedDonecnt, .fabStat, .fabDiscard, .ctrVal] s t := by
  refine ⟨_, rfl, ?_⟩
  repeat' first | with_reducible exact Only.refl _ | decide +kernel | with_reducible apply only_partialCmd

theorem only_rowJoin {Ps : List Piece} {Ks : List RegKind} {s0 : State} (x : State × Bool × List Byte) (r : State ×
    Decoded) (hx : Only Ps Ks s0 x.1) (hr : Only Ps Ks s0 r.1) : Only Ps Ks s0 (rowJoin x r).1 := by
  unfold rowJoin
  repeat' first | with_reducible assumption

theorem only_rowSector {Ps : List Piece} {Ks : List RegKind} {s0 : State} (k : Nat) (b : Nat) (tenant : Nat) (x :
    State × Bool × List Byte) (i : Nat) (hx : Only Ps Ks s0 x.1) (hp : [.fpDirty, .chanPoisoned, .hbm, .ic, .flog0,
    .flog1, .mbox] ⊆ Ps) (hk : [.bedCe, .bedUe, .bedLastue, .memStat, .memChstat, .memChce, .memChue, .memChpoison,
    .ctrVal] ⊆ Ks) : Only Ps Ks s0 (rowSector k b tenant x i).1 := by
  unfold rowSector
  repeat' first
    | with_reducible assumption | with_reducible apply only_State_readSector | with_reducible apply only_rowJoin

theorem only_State_readRow {Ps : List Piece} {Ks : List RegKind} {s0 : State} (s : State) (k b row n tenant : Nat) (hK
    : Only Ps Ks s0 s) (hp : [.fpDirty, .chanPoisoned, .hbm, .ic, .flog0, .flog1, .mbox] ⊆ Ps) (hk : [.bedCe, .bedUe,
    .bedLastue, .memStat, .memChstat, .memChce, .memChue, .memChpoison, .ctrVal] ⊆ Ks) : Only Ps Ks s0 (s.readRow k b
    row n tenant).1 := by
  have hf : ∀ x i, Only Ps Ks s0 (firstState x) → Only Ps Ks s0 (firstState (rowSector k b tenant x i)) :=
    fun x i hx => Only.first _ (only_rowSector k b tenant x i (Only.ofFirst x hx) hp hk)
  unfold State.readRow
  exact Only.foldPair _ _ _ hK hf

theorem only_BlocksRead_next {Ps : List Piece} {Ks : List RegKind} {s0 : State} (x : BlocksRead) (k : Nat) (b : Nat)
    (tenant : Nat) (ws : List Byte) (i : Nat) (hx : Only Ps Ks s0 x.s) (hp : [.fpDirty, .chanPoisoned, .hbm, .ic,
    .flog0, .flog1, .mbox] ⊆ Ps) (hk : [.bedCe, .bedUe, .bedLastue, .memStat, .memChstat, .memChce, .memChue,
    .memChpoison, .ctrVal] ⊆ Ks) : Only Ps Ks s0 (BlocksRead.next x k b tenant ws i).s := by
  unfold BlocksRead.next
  repeat' first | with_reducible assumption | with_reducible apply only_State_readRow

theorem only_State_startBank {Ps : List Piece} {Ks : List RegKind} {s0 : State} (s : State) (k : Nat) (c : BankCmd)
    (order : Nat) (hK : Only Ps Ks s0 s) (hp : [.fpDirty, .chanPoisoned, .beds, .hbm, .ic, .flog0, .flog1, .mbox] ⊆
    Ps) (hk : [.bedCe, .bedUe, .bedLastue, .memStat, .memChstat, .memChce, .memChue, .memChpoison, .ctrVal] ⊆ Ks) :
    Only Ps Ks s0 (State.startBank s k c order) := by
  unfold State.startBank
  repeat' first
    | with_reducible assumption | exact List.Subset.trans (by decide +kernel) hp
    | with_reducible apply only_BlocksRead_next | with_reducible apply only_State_setBed
    | with_reducible apply Only.foldOn BlocksRead.s | intro _ _ _

theorem only_bankCommandStart {Ps : List Piece} {Ks : List RegKind} {s0 : State} (k : Nat) (slot : Nat) (s : State)
    (hK : Only Ps Ks s0 s) (hp : [.fpDirty, .chanPoisoned, .beds, .hbm, .ic, .flog0, .flog1, .mbox] ⊆ Ps) (hk :
    [.bedCe, .bedUe, .bedLastue, .memStat, .memChstat, .memChce, .memChue, .memChpoison, .ctrVal] ⊆ Ks) : Only Ps Ks
    s0 (bankCommandStart k slot s) := by
  unfold bankCommandStart
  repeat' first
    | with_reducible assumption | exact List.Subset.trans (by decide +kernel) hp
    | with_reducible apply only_State_setBed | with_reducible apply only_State_startBank | dsimp only | split

theorem only_execBankCommandStart (core : Fin 64) (bank : Fin 128) (slot : Fin 2) (s : State) : ∃ t,
    execBankCommandStart core bank slot s = .next t ∧ Only [.fpDirty, .chanPoisoned, .beds, .hbm, .ic, .flog0, .flog1,
    .mbox] [.bedCe, .bedUe, .bedLastue, .memStat, .memChstat, .memChce, .memChue, .memChpoison, .ctrVal] s t := by
  refine ⟨_, rfl, ?_⟩
  repeat' first | with_reducible exact Only.refl _ | decide +kernel | with_reducible apply only_bankCommandStart

theorem only_State_followOn {Ps : List Piece} {Ks : List RegKind} {s0 : State} (s : State) (k : Nat) (bank : Nat)
    (order : Nat) (hK : Only Ps Ks s0 s) (hp : [.fpDirty, .chanPoisoned, .beds, .hbm, .ic, .flog0, .flog1, .mbox] ⊆
    Ps) (hk : [.bedCe, .bedUe, .bedLastue, .memStat, .memChstat, .memChce, .memChue, .memChpoison, .ctrVal] ⊆ Ks) :
    Only Ps Ks s0 (State.followOn s k bank order) := by
  unfold State.followOn
  repeat' first
    | with_reducible assumption | exact List.Subset.trans (by decide +kernel) hp
    | with_reducible apply only_State_setBed | with_reducible apply only_State_startBank | split

theorem only_State_bankDone {Ps : List Piece} {Ks : List RegKind} {s0 : State} (s : State) (k : Nat) (c : BankCmd) (hK
    : Only Ps Ks s0 s) (hp : [.mem, .fpDirty, .chanPoisoned, .beds, .hbm, .ic, .flog0, .flog1, .mbox] ⊆ Ps) (hk :
    [.bedStatus, .bedDonecnt, .bedSatcnt, .bedCe, .bedUe, .bedLastue, .memStat, .memChstat, .memChce, .memChue,
    .memChpoison, .ctrVal] ⊆ Ks) : Only Ps Ks s0 (State.bankDone s k c) := by
  unfold State.bankDone
  repeat' first
    | with_reducible assumption | exact List.Subset.trans (by decide +kernel) hp | exact hp (by decide +kernel)
    | exact List.Subset.trans (by decide +kernel) hk | exact hk (List.elem_iff.mp rfl)
    | with_reducible apply only_State_bankEnd | with_reducible apply only_State_countF
    | with_reducible apply only_State_ctr | with_reducible apply only_State_followOn
    | with_reducible apply only_State_setWin | split | with_reducible apply Only.upd_mem

theorem only_bankCommandDone {Ps : List Piece} {Ks : List RegKind} {s0 : State} (k : Nat) (slot : Nat) (s : State) (hK
    : Only Ps Ks s0 s) (hp : [.mem, .fpDirty, .chanPoisoned, .beds, .hbm, .ic, .flog0, .flog1, .mbox] ⊆ Ps) (hk :
    [.bedStatus, .bedDonecnt, .bedSatcnt, .bedCe, .bedUe, .bedLastue, .memStat, .memChstat, .memChce, .memChue,
    .memChpoison, .ctrVal] ⊆ Ks) : Only Ps Ks s0 (bankCommandDone k slot s) := by
  unfold bankCommandDone
  repeat' first | with_reducible assumption | with_reducible apply only_State_bankDone | split

theorem only_computeActivation {Ps : List Piece} {Ks : List RegKind} {s0 : State} (k : Nat) (s : State) (hK : Only Ps
    Ks s0 s) (hp : [.beds] ⊆ Ps) : Only Ps Ks s0 (computeActivation k s) := by
  unfold computeActivation
  repeat' first | with_reducible assumption | with_reducible apply only_State_setBed | dsimp only | split

theorem only_execComputeActivation (core : Fin 64) (s : State) : ∃ t, execComputeActivation core s = .next t ∧ Only
    [.beds] [] s t := by
  refine ⟨_, rfl, ?_⟩
  repeat' first | with_reducible exact Only.refl _ | decide +kernel | with_reducible apply only_computeActivation

theorem only_bankPause {Ps : List Piece} {Ks : List RegKind} {s0 : State} (k : Nat) (s : State) (hK : Only Ps Ks s0 s)
    (hp : [.beds] ⊆ Ps) : Only Ps Ks s0 (bankPause k s) := by
  unfold bankPause
  repeat' first | with_reducible assumption | with_reducible apply only_State_setBed | dsimp only | split

theorem only_execBankPause (core : Fin 64) (s : State) : ∃ t, execBankPause core s = .next t ∧ Only [.beds] [] s t :=
    by
  refine ⟨_, rfl, ?_⟩
  repeat' first | with_reducible exact Only.refl _ | decide +kernel | with_reducible apply only_bankPause

theorem only_bankResume {Ps : List Piece} {Ks : List RegKind} {s0 : State} (k : Nat) (s : State) (hK : Only Ps Ks s0
    s) (hp : [.beds] ⊆ Ps) : Only Ps Ks s0 (bankResume k s) := by
  unfold bankResume
  repeat' first | with_reducible assumption | with_reducible apply only_State_setBed | dsimp only | split

theorem only_execBankResume (core : Fin 64) (s : State) : ∃ t, execBankResume core s = .next t ∧ Only [.beds] [] s t
    := by
  refine ⟨_, rfl, ?_⟩
  repeat' first | with_reducible exact Only.refl _ | decide +kernel | with_reducible apply only_bankResume

theorem only_execBankOrdinaryAccess (_core : Fin 64) (_bank : Fin 128) (s : State) : ∃ t, execBankOrdinaryAccess _core
    _bank s = .next t ∧ Only [] [] s t := by
  refine ⟨_, rfl, ?_⟩
  repeat' first | with_reducible exact Only.refl _

theorem only_State_bedCancel {Ps : List Piece} {Ks : List RegKind} {s0 : State} (s : State) (k : Nat) (hK : Only Ps Ks
    s0 s) (hp : [.mem, .beds, .ic] ⊆ Ps) (hk : [.bedStatus, .bedDonecnt] ⊆ Ks) : Only Ps Ks s0 (State.bedCancel s k)
    := by
  unfold State.bedCancel
  repeat' first
    | with_reducible assumption | with_reducible apply only_State_bankEnd | with_reducible apply Only.fold
    | intro _ _ _

theorem only_State_bedClear {Ps : List Piece} {Ks : List RegKind} {s0 : State} (s : State) (k : Nat) (hK : Only Ps Ks
    s0 s) (hp : [.mem, .beds, .ic] ⊆ Ps) (hk : [.bedStatus, .bedDonecnt] ⊆ Ks) : Only Ps Ks s0 (State.bedClear s k) :=
    by
  unfold State.bedClear
  repeat' first
    | with_reducible assumption | exact hp (by decide +kernel) | with_reducible apply only_State_bedCancel
    | dsimp only | with_reducible apply Only.upd_mem

theorem only_State_bedCtlWrite {Ps : List Piece} {Ks : List RegKind} {s0 : State} (s : State) (k : Nat) (v : DWord)
    (hK : Only Ps Ks s0 s) (hp : [.mem, .beds, .ic] ⊆ Ps) (hk : [.bedStatus, .bedCtl, .bedDonecnt] ⊆ Ks) : Only Ps Ks
    s0 (State.bedCtlWrite s k v) := by
  unfold State.bedCtlWrite
  repeat' first
    | with_reducible assumption | exact List.Subset.trans (by decide +kernel) hk | exact hk (List.elem_iff.mp rfl)
    | with_reducible apply only_State_bedCancel | with_reducible apply only_State_bedClear
    | with_reducible apply only_State_plainWrite | dsimp only | split

theorem only_execBedCtlCancel (core : Fin 64) (value : Word) (s : State) : ∃ t, execBedCtlCancel core value s = .next
    t ∧ Only [.mem, .beds, .ic] [.bedStatus, .bedCtl, .bedDonecnt] s t := by
  refine ⟨_, rfl, ?_⟩
  repeat' first
    | with_reducible exact Only.refl _ | decide +kernel | with_reducible apply only_State_bedCtlWrite | split

theorem only_execBedCtlClear (core : Fin 64) (value : Word) (s : State) : ∃ t, execBedCtlClear core value s = .next t
    ∧ Only [.mem, .beds, .ic] [.bedStatus, .bedCtl, .bedDonecnt] s t := by
  refine ⟨_, rfl, ?_⟩
  repeat' first
    | with_reducible exact Only.refl _ | decide +kernel | with_reducible apply only_State_bedCtlWrite | split

theorem only_State_bedModeWrite {Ps : List Piece} {Ks : List RegKind} {s0 : State} (s : State) (k : Nat) (v : DWord)
    (hK : Only Ps Ks s0 s) (hp : [.beds] ⊆ Ps) (hk : [.bedMode] ⊆ Ks) : Only Ps Ks s0 (State.bedModeWrite s k v) := by
  unfold State.bedModeWrite
  repeat' first
    | with_reducible assumption | exact hk (List.elem_iff.mp rfl) | with_reducible apply only_State_plainWrite
    | with_reducible apply only_State_setBed | with_reducible apply only_State_setBit | dsimp only | split

theorem only_execBedModeWrite (core : Fin 64) (value : Word) (s : State) : ∃ t, execBedModeWrite core value s = .next
    t ∧ Only [.beds] [.bedMode] s t := by
  refine ⟨_, rfl, ?_⟩
  repeat' first
    | with_reducible exact Only.refl _ | decide +kernel | with_reducible apply only_State_bedModeWrite | split

theorem only_bedModeChangeComplete {Ps : List Piece} {Ks : List RegKind} {s0 : State} (k : Nat) (s : State) (hK : Only
    Ps Ks s0 s) (hp : [.beds] ⊆ Ps) (hk : [.bedMode] ⊆ Ks) : Only Ps Ks s0 (bedModeChangeComplete k s) := by
  unfold bedModeChangeComplete
  repeat' first
    | with_reducible assumption | exact hk (List.elem_iff.mp rfl) | with_reducible apply only_State_clrBit
    | with_reducible apply only_State_setBed | dsimp only | split

theorem only_execBedModeChangeComplete (core : Fin 64) (s : State) : ∃ t, execBedModeChangeComplete core s = .next t ∧
    Only [.beds] [.bedMode] s t := by
  refine ⟨_, rfl, ?_⟩
  repeat' first | with_reducible exact Only.refl _ | decide +kernel | with_reducible apply only_bedModeChangeComplete

theorem only_execBedLimitWrite (core : Fin 64) (which : Fin 3) (value : Word) (s : State) :
    ∃ t, execBedLimitWrite core which value s = .next t ∧ Only [] [.bedQuota, .bedTiming0, .bedTiming1] s t := by
  have h : ∀ (c d : Prop) [Decidable c] [Decidable d], (if c then Reg.bedQuota core.val else if d then
      .bedTiming0 core.val else .bedTiming1 core.val).kind ∈ [RegKind.bedQuota, .bedTiming0, .bedTiming1] := by
    intro c d _ _
    split
    · exact List.elem_iff.mp rfl
    · split <;> exact List.elem_iff.mp rfl
  refine ⟨_, rfl, ?_⟩
  split
  · exact only_State_plainWrite _ _ _ (Only.refl _) (h _ _)
  · exact Only.refl _

theorem only_State_answerMsg {Ps : List Piece} {Ks : List RegKind} {s0 : State} (s : State) (m : Msg) (node : Nat) (op
    : Nat) (status : Nat) (len : Nat) (payload : List Byte) (hK : Only Ps Ks s0 s) (hp : [.out, .ports, .reqs, .ic,
    .flog0, .flog1, .mbox, .lists] ⊆ Ps) (hk : [.fabStat, .fabDiscard, .ctrVal] ⊆ Ks) : Only Ps Ks s0 (State.answerMsg
    s m node op status len payload) := by
  unfold State.answerMsg
  repeat' first | with_reducible assumption | with_reducible apply only_State_respond

theorem only_bedFence {Ps : List Piece} {Ks : List RegKind} {s0 : State} (k : Nat) (m : Msg) (s : State) (hK : Only Ps
    Ks s0 s) (hp : [.out, .ports, .reqs, .ic, .flog0, .flog1, .mbox, .lists] ⊆ Ps) (hk : [.fabStat, .fabDiscard,
    .ctrVal] ⊆ Ks) : Only Ps Ks s0 (bedFence k m s) := by
  unfold bedFence
  repeat' first
    | with_reducible assumption | exact List.Subset.trans (by decide +kernel) hp
    | with_reducible apply only_State_accessError | with_reducible apply only_State_answerMsg | split

theorem only_execBedFence (core : Fin 64) (m : Msg) (s : State) : ∃ t, execBedFence core m s = .next t ∧ Only [.out,
    .ports, .reqs, .ic, .flog0, .flog1, .mbox, .lists] [.fabStat, .fabDiscard, .ctrVal] s t := by
  refine ⟨_, rfl, ?_⟩
  repeat' first | with_reducible exact Only.refl _ | decide +kernel | with_reducible apply only_bedFence

theorem only_bankRefresh {Ps : List Piece} {Ks : List RegKind} {s0 : State} (k : Nat) (b : Nat) (s : State) (hK : Only
    Ps Ks s0 s) (hp : [.beds] ⊆ Ps) : Only Ps Ks s0 (bankRefresh k b s) := by
  unfold bankRefresh
  repeat' first | with_reducible assumption | with_reducible apply only_State_setBed | dsimp only | split

theorem only_execBankRefresh (core : Fin 64) (bank : Fin 128) (s : State) : ∃ t, execBankRefresh core bank s = .next t
    ∧ Only [.beds] [] s t := by
  refine ⟨_, rfl, ?_⟩
  repeat' first | with_reducible exact Only.refl _ | decide +kernel | with_reducible apply only_bankRefresh

theorem only_refreshComplete {Ps : List Piece} {Ks : List RegKind} {s0 : State} (k : Nat) (b : Nat) (s : State) (hK :
    Only Ps Ks s0 s) (hp : [.beds] ⊆ Ps) : Only Ps Ks s0 (refreshComplete k b s) := by
  unfold refreshComplete
  repeat' first | with_reducible assumption | with_reducible apply only_State_setBed | dsimp only | split

theorem only_execRefreshComplete (core : Fin 64) (bank : Fin 128) (s : State) : ∃ t, execRefreshComplete core bank s =
    .next t ∧ Only [.beds] [] s t := by
  refine ⟨_, rfl, ?_⟩
  repeat' first | with_reducible exact Only.refl _ | decide +kernel | with_reducible apply only_refreshComplete

/-! ### Machine/Cache.lean -/

theorem only_State_runOnChain {Ps : List Piece} {Ks : List RegKind} {s0 : State} (s : State) (l : WorkList) (o : Op)
    (run : State → WorkList → Op → State) (hK : Only Ps Ks s0 s) (hrun : ∀ s a0 a1, Only Ps Ks s0 s → Only Ps Ks s0
    (run s a0 a1)) (hp : [.cores] ⊆ Ps) : Only Ps Ks s0 (State.runOnChain s l o run) := by
  unfold State.runOnChain
  repeat' first
    | with_reducible assumption | with_reducible apply only_State_setCoreUnit | with_reducible apply hrun | dsimp only
    | split

theorem only_State_internalReport {Ps : List Piece} {Ks : List RegKind} {s0 : State} (s : State) (k : Nat) (sats :
    Nat) (made : Nat) (wr : Nat) (beats : Nat) (hK : Only Ps Ks s0 s) (hp : [.ic] ⊆ Ps) (hk : [.vcstat, .vcsatcnt,
    .qswin, .qselem, .qstot, .qsstat, .ctrVal] ⊆ Ks) : Only Ps Ks s0 (State.internalReport s k sats made wr beats) :=
    by
  unfold State.internalReport
  repeat' first
    | with_reducible assumption | exact List.Subset.trans (by decide +kernel) hk
    | with_reducible apply only_State_chainReport | with_reducible apply only_State_ctr

theorem only_State_endWith {Ps : List Piece} {Ks : List RegKind} {s0 : State} (s : State) (l : WorkList) (o : Op)
    (steps : Nat) (aux : Nat) (status : Nat) (detail : Nat) (hK : Only Ps Ks s0 s) (hp : [.lists] ⊆ Ps) : Only Ps Ks
    s0 (State.endWith s l o steps aux status detail) := by
  unfold State.endWith
  repeat' first
    | with_reducible assumption | with_reducible apply only_State_addSteps | with_reducible apply only_State_finishOp

theorem only_State_readMap {Ps : List Piece} {Ks : List RegKind} {s0 : State} (s : State) (k : Nat) (t : Nat) (ref :
    Nat) (right : Nat) (detail : Nat) (hK : Only Ps Ks s0 s) (hp : [.fpDirty, .chanPoisoned, .hbm, .ic, .flog0,
    .flog1, .mbox] ⊆ Ps) (hk : [.bedCe, .bedUe, .bedLastue, .memStat, .memChstat, .memChce, .memChue, .memChpoison,
    .ctrVal] ⊆ Ks) : Only Ps Ks s0 (State.readMap s k t ref right detail).s := by
  unfold State.readMap
  repeat' first | with_reducible assumption | with_reducible apply only_State_opRead | dsimp only | split

theorem only_State_runKvAppend {Ps : List Piece} {Ks : List RegKind} {s0 : State} (s : State) (l : WorkList) (o : Op)
    (hK : Only Ps Ks s0 s) (hp : [.mem, .checks, .stores, .fpDirty, .chanPoisoned, .hbm, .ic, .flog0, .flog1, .mbox,
    .lists] ⊆ Ps) (hk : [.qswin, .qselem, .qstot, .qsstat, .bedCe, .bedUe, .bedLastue, .memStat, .memInject,
    .memChstat, .memChce, .memChue, .memChpoison, .fabStat, .fabDiscard, .ctrVal] ⊆ Ks) : Only Ps Ks s0
    (State.runKvAppend s l o) := by
  unfold State.runKvAppend
  repeat' first
    | with_reducible assumption | exact List.Subset.trans (by decide +kernel) hp
    | exact List.Subset.trans (by decide +kernel) hk | with_reducible apply only_State_ctr
    | with_reducible apply only_State_endWith | with_reducible apply only_State_finishOp
    | with_reducible apply only_State_opRead | with_reducible apply only_State_opWrite
    | with_reducible apply only_State_qsCount | with_reducible apply only_State_readMap
    | with_reducible apply only_State_startOp | dsimp only | split

theorem only_execKvAppend (list : Nat) (early : Option (List Byte)) (s : State) : ∃ t, execKvAppend list early s =
    .next t ∧ Only [.mem, .checks, .stores, .fpDirty, .chanPoisoned, .cores, .hbm, .ic, .flog0, .flog1, .mbox, .lists,
    .issueOrder] [.qswin, .qselem, .qstot, .qsstat, .bedCe, .bedUe, .bedLastue, .memStat, .memInject, .memChstat,
    .memChce, .memChue, .memChpoison, .fabStat, .fabDiscard, .ctrVal] s t := by
  refine ⟨_, rfl, ?_⟩
  repeat' first
    | with_reducible assumption | with_reducible exact Only.refl _ | decide +kernel
    | with_reducible apply only_State_issueOp | with_reducible apply only_State_runKvAppend
    | with_reducible apply only_State_runOnChain | intro _ _ _ _

theorem only_State_bankWrite {Ps : List Piece} {Ks : List RegKind} {s0 : State} (s : State) (from_ : Nat) (tenant :
    Nat) (k : Nat) (b : Nat) (a : Nat) (bs : List Byte) (hK : Only Ps Ks s0 s) (hp : [.mem, .checks, .fpDirty,
    .chanPoisoned, .hbm, .ic, .flog0, .flog1, .mbox] ⊆ Ps) (hk : [.bedCe, .bedUe, .bedLastue, .memStat, .memInject,
    .memChstat, .memChce, .memChue, .memChpoison, .fabStat, .fabDiscard, .ctrVal] ⊆ Ks) : Only Ps Ks s0
    (State.bankWrite s from_ tenant k b a bs).1 := by
  unfold State.bankWrite
  repeat' first
    | with_reducible assumption | exact List.Subset.trans (by decide +kernel) hk | with_reducible apply only_State_ctr
    | with_reducible apply only_State_writeMem | with_reducible apply Only.foldFst | intro _ _ _

theorem only_ScatterRun_slot {Ps : List Piece} {Ks : List RegKind} {s0 : State} (x : ScatterRun) (l : WorkList) (o :
    Op) (m : CtxMap) (pos : Nat) (head : Nat) (vec : List Byte) (hx : Only Ps Ks s0 x.s) (hp : [.mem, .checks,
    .fpDirty, .chanPoisoned, .hbm, .ic, .flog0, .flog1, .mbox] ⊆ Ps) (hk : [.bedCe, .bedUe, .bedLastue, .memStat,
    .memInject, .memChstat, .memChce, .memChue, .memChpoison, .fabStat, .fabDiscard, .ctrVal] ⊆ Ks) : Only Ps Ks s0
    (ScatterRun.slot x l o m pos head vec).s := by
  unfold ScatterRun.slot
  repeat' first
    | with_reducible assumption | with_reducible apply only_State_bankWrite
    | with_reducible apply Only.foldOn ScatterRun.s | intro _ _ _

theorem only_State_runKvScatter {Ps : List Piece} {Ks : List RegKind} {s0 : State} (s : State) (l : WorkList) (o : Op)
    (hK : Only Ps Ks s0 s) (hp : [.mem, .checks, .fpDirty, .chanPoisoned, .hbm, .ic, .flog0, .flog1, .mbox, .lists] ⊆
    Ps) (hk : [.bedCe, .bedUe, .bedLastue, .memStat, .memInject, .memChstat, .memChce, .memChue, .memChpoison,
    .fabStat, .fabDiscard, .ctrVal] ⊆ Ks) : Only Ps Ks s0 (State.runKvScatter s l o) := by
  unfold State.runKvScatter
  repeat' first
    | with_reducible assumption | exact List.Subset.trans (by decide +kernel) hp
    | exact List.Subset.trans (by decide +kernel) hk | with_reducible apply only_ScatterRun_slot
    | with_reducible apply only_State_ctr | with_reducible apply only_State_endWith
    | with_reducible apply only_State_finishOp | with_reducible apply only_State_opRead
    | with_reducible apply only_State_readMap | with_reducible apply only_State_startOp
    | with_reducible apply Only.foldOn ScatterRun.s | intro _ _ _ | dsimp only | split

theorem only_execKvScatter (list : Nat) (early : Option (List Byte)) (s : State) : ∃ t, execKvScatter list early s =
    .next t ∧ Only [.mem, .checks, .stores, .fpDirty, .chanPoisoned, .hbm, .ic, .flog0, .flog1, .mbox, .lists,
    .issueOrder] [.bedCe, .bedUe, .bedLastue, .memStat, .memInject, .memChstat, .memChce, .memChue, .memChpoison,
    .fabStat, .fabDiscard, .ctrVal] s t := by
  refine ⟨_, rfl, ?_⟩
  repeat' first
    | with_reducible assumption | with_reducible exact Only.refl _ | decide +kernel
    | with_reducible apply only_State_issueOp | with_reducible apply only_State_runKvScatter | intro _ _ _ _

/-! ### Machine/BankAttend.lean -/

theorem only_BatchRead_entry {Ps : List Piece} {Ks : List RegKind} {s0 : State} (x : BatchRead) (k : Nat) (t : Nat)
    (right : Nat) (layer : Nat) (fields : Entry → Bool) (i : Nat) (bs : List Byte) (hx : Only Ps Ks s0 x.s) (hp :
    [.fpDirty, .chanPoisoned, .hbm, .ic, .flog0, .flog1, .mbox] ⊆ Ps) (hk : [.bedCe, .bedUe, .bedLastue, .memStat,
    .memChstat, .memChce, .memChue, .memChpoison, .ctrVal] ⊆ Ks) : Only Ps Ks s0 (BatchRead.entry x k t right layer
    fields i bs).s := by
  unfold BatchRead.entry
  repeat' first | with_reducible assumption | with_reducible apply only_State_readMap | dsimp only | split

theorem only_State_readBatch {Ps : List Piece} {Ks : List RegKind} {s0 : State} (s : State) (t : Nat) (o : Op) (right
    : Nat) (fields : Entry → Bool) (hK : Only Ps Ks s0 s) (hp : [.fpDirty, .chanPoisoned, .hbm, .ic, .flog0, .flog1,
    .mbox] ⊆ Ps) (hk : [.bedCe, .bedUe, .bedLastue, .memStat, .memChstat, .memChce, .memChue, .memChpoison, .ctrVal] ⊆
    Ks) : Only Ps Ks s0 (State.readBatch s t o right fields).s := by
  unfold State.readBatch
  repeat' first
    | with_reducible assumption | with_reducible apply only_BatchRead_entry | with_reducible apply only_State_opRead
    | with_reducible apply Only.foldOn BatchRead.s | intro _ _ _ | dsimp only | split

theorem only_State_writeSet {Ps : List Piece} {Ks : List RegKind} {s0 : State} (s : State) (l : WorkList) (o : Op) (p
    : SetPlan) (m : MemberPlan) (payload : Option (List Byte)) (st : Nat) (count : Nat) (hK : Only Ps Ks s0 s) (hp :
    [.mem, .checks, .stores, .fpDirty, .chanPoisoned, .hbm, .ic, .flog0, .flog1, .mbox] ⊆ Ps) (hk : [.bedCe, .bedUe,
    .bedLastue, .memStat, .memInject, .memChstat, .memChce, .memChue, .memChpoison, .fabStat, .fabDiscard, .ctrVal] ⊆
    Ks) : Only Ps Ks s0 (State.writeSet s l o p m payload st count).1 := by
  unfold State.writeSet
  repeat' first | with_reducible assumption | with_reducible apply only_State_opWrite | dsimp only | split

theorem only_State_disown {Ps : List Piece} {Ks : List RegKind} {s0 : State} (s : State) (id : Nat) (off : Nat) (hK :
    Only Ps Ks s0 s) (hp : [.beds] ⊆ Ps) : Only Ps Ks s0 (State.disown s id off) := by
  unfold State.disown
  repeat' first
    | with_reducible assumption | exact hp (by decide +kernel) | dsimp only | with_reducible apply Only.upd_beds

theorem only_State_failBank {Ps : List Piece} {Ks : List RegKind} {s0 : State} (s : State) (l : WorkList) (o : Op) (k
    : Option Nat) (status : Nat) (detail : Nat) (hK : Only Ps Ks s0 s) (hp : [.mem, .beds, .ic, .lists] ⊆ Ps) (hk :
    [.bedStatus, .bedDonecnt] ⊆ Ks) : Only Ps Ks s0 (State.failBank s l o k status detail) := by
  unfold State.failBank
  repeat' first
    | with_reducible assumption | exact List.Subset.trans (by decide +kernel) hp
    | with_reducible apply only_State_bedCancel | with_reducible apply only_State_disown
    | with_reducible apply only_State_finishOp | split

theorem only_State_closeMember {Ps : List Piece} {Ks : List RegKind} {s0 : State} (s : State) (l : WorkList) (o : Op)
    (p : SetPlan) (m : MemberPlan) (r : MemberRun) (hK : Only Ps Ks s0 s) (hp : [.mem, .checks, .stores, .fpDirty,
    .chanPoisoned, .hbm, .ic, .flog0, .flog1, .mbox] ⊆ Ps) (hk : [.bedCe, .bedUe, .bedLastue, .memStat, .memInject,
    .memChstat, .memChce, .memChue, .memChpoison, .fabStat, .fabDiscard, .ctrVal] ⊆ Ks) : Only Ps Ks s0
    (State.closeMember s l o p m r).1 := by
  unfold State.closeMember
  repeat' first | with_reducible assumption | with_reducible apply only_State_writeSet

theorem only_State_openSet {Ps : List Piece} {Ks : List RegKind} {s0 : State} (s : State) (l : WorkList) (o : Op) (p :
    SetPlan) (hK : Only Ps Ks s0 s) (hp : [.mem, .checks, .stores, .fpDirty, .chanPoisoned, .hbm, .ic, .flog0, .flog1,
    .mbox] ⊆ Ps) (hk : [.bedCe, .bedUe, .bedLastue, .memStat, .memInject, .memChstat, .memChce, .memChue,
    .memChpoison, .fabStat, .fabDiscard, .ctrVal] ⊆ Ks) : Only Ps Ks s0 (State.openSet s l o p).1 := by
  unfold State.openSet
  repeat' first
    | with_reducible assumption | with_reducible apply only_State_closeMember | with_reducible apply Only.foldFst
    | intro _ _ _ | dsimp only | split

theorem only_State_nextSet {Ps : List Piece} {Ks : List RegKind} {s0 : State} (s : State) (l : WorkList) (o : Op)
    (fuel : Nat) (hK : Only Ps Ks s0 s) (hp : [.mem, .checks, .stores, .fpDirty, .chanPoisoned, .beds, .hbm, .ic,
    .flog0, .flog1, .mbox, .lists] ⊆ Ps) (hk : [.bedStatus, .bedDonecnt, .bedCe, .bedUe, .bedLastue, .memStat,
    .memInject, .memChstat, .memChce, .memChue, .memChpoison, .fabStat, .fabDiscard, .ctrVal] ⊆ Ks) : Only Ps Ks s0
    (State.nextSet s l o fuel) := by
  induction fuel generalizing s l o with
  | zero => exact hK
  | succ n ih =>
    unfold State.nextSet
    repeat' first
      | with_reducible apply ih | with_reducible assumption | exact List.Subset.trans (by decide +kernel) hp
      | exact List.Subset.trans (by decide +kernel) hk | with_reducible apply only_State_failBank
      | with_reducible apply only_State_finishOp | with_reducible apply only_State_openSet
      | with_reducible apply only_State_setOp | dsimp only | split

theorem only_State_issueOrderp {Ps : List Piece} {Ks : List RegKind} {s0 : State} (s : State) (l : WorkList) (o : Op)
    (p : SetPlan) (k : Nat) (slot : Nat) (x : BankOrder) (hK : Only Ps Ks s0 s) (hp : [.freeCtr, .mem, .fpDirty,
    .chanPoisoned, .beds, .hbm, .ic, .flog0, .flog1, .mbox, .lists] ⊆ Ps) (hk : [.bedStatus, .bedDonecnt, .bedCe,
    .bedUe, .bedLastue, .memStat, .memChstat, .memChce, .memChue, .memChpoison, .ctrVal] ⊆ Ks) : Only Ps Ks s0
    (State.issueOrder' s l o p k slot x).1 := by
  unfold State.issueOrder'
  repeat' first
    | with_reducible assumption | exact List.Subset.trans (by decide +kernel) hp
    | exact List.Subset.trans (by decide +kernel) hk | with_reducible apply only_State_addSteps
    | with_reducible apply only_State_bumpFree | with_reducible apply only_State_issueBank
    | with_reducible apply only_State_opRead | with_reducible apply only_State_setWin | dsimp only | split

theorem only_State_pumpMember {Ps : List Piece} {Ks : List RegKind} {s0 : State} (s : State) (id : Nat) (off : Nat) (i
    : Nat) (todo : List Nat) (hK : Only Ps Ks s0 s) (hp : [.freeCtr, .mem, .fpDirty, .chanPoisoned, .beds, .hbm, .ic,
    .flog0, .flog1, .mbox, .lists] ⊆ Ps) (hk : [.bedStatus, .bedDonecnt, .bedCe, .bedUe, .bedLastue, .memStat,
    .memChstat, .memChce, .memChue, .memChpoison, .ctrVal] ⊆ Ks) : Only Ps Ks s0 (State.pumpMember s id off i todo) :=
    by
  unfold State.pumpMember
  repeat' first
    | with_reducible assumption | exact List.Subset.trans (by decide +kernel) hp
    | exact List.Subset.trans (by decide +kernel) hk | with_reducible apply only_State_failBank
    | with_reducible apply only_State_issueOrderp | with_reducible apply only_State_setOp
    | with_reducible apply Only.fold | intro _ _ _ | dsimp only | split

theorem only_State_pumpOp {Ps : List Piece} {Ks : List RegKind} {s0 : State} (s : State) (id : Nat) (off : Nat) (hK :
    Only Ps Ks s0 s) (hp : [.freeCtr, .mem, .fpDirty, .chanPoisoned, .beds, .hbm, .ic, .flog0, .flog1, .mbox, .lists]
    ⊆ Ps) (hk : [.bedStatus, .bedDonecnt, .bedCe, .bedUe, .bedLastue, .memStat, .memChstat, .memChce, .memChue,
    .memChpoison, .ctrVal] ⊆ Ks) : Only Ps Ks s0 (State.pumpOp s id off) := by
  unfold State.pumpOp
  repeat' first
    | with_reducible assumption | exact List.Subset.trans (by decide +kernel) hp
    | exact List.Subset.trans (by decide +kernel) hk | with_reducible apply only_State_failBank
    | with_reducible apply only_State_pumpMember | with_reducible apply Only.fold | intro _ _ _ | split

theorem only_State_pumpBanks {Ps : List Piece} {Ks : List RegKind} {s0 : State} (s : State) (hK : Only Ps Ks s0 s) (hp
    : [.freeCtr, .mem, .fpDirty, .chanPoisoned, .beds, .hbm, .ic, .flog0, .flog1, .mbox, .lists] ⊆ Ps) (hk :
    [.bedStatus, .bedDonecnt, .bedCe, .bedUe, .bedLastue, .memStat, .memChstat, .memChce, .memChue, .memChpoison,
    .ctrVal] ⊆ Ks) : Only Ps Ks s0 (State.pumpBanks s) := by
  unfold State.pumpBanks
  repeat' first
    | with_reducible assumption | with_reducible apply only_State_pumpOp | with_reducible apply Only.fold
    | intro _ _ _

theorem only_State_busyHeaders {Ps : List Piece} {Ks : List RegKind} {s0 : State} (s : State) (l : WorkList) (o : Op)
    (hK : Only Ps Ks s0 s) (hp : [.mem, .checks, .stores, .fpDirty, .chanPoisoned, .hbm, .ic, .flog0, .flog1, .mbox] ⊆
    Ps) (hk : [.bedCe, .bedUe, .bedLastue, .memStat, .memInject, .memChstat, .memChce, .memChue, .memChpoison,
    .fabStat, .fabDiscard, .ctrVal] ⊆ Ks) : Only Ps Ks s0 (State.busyHeaders s l o).1 := by
  unfold State.busyHeaders
  repeat' first
    | with_reducible assumption | with_reducible apply only_State_writeSet | with_reducible apply Only.foldFst
    | intro _ _ _

theorem only_execBankAttend (list : Nat) (early : Option (List Byte)) (s : State) : ∃ t, execBankAttend list early s =
    .next t ∧ Only [.freeCtr, .mem, .checks, .stores, .fpDirty, .chanPoisoned, .beds, .hbm, .ic, .flog0, .flog1,
    .mbox, .lists, .issueOrder] [.bedStatus, .bedDonecnt, .bedCe, .bedUe, .bedLastue, .memStat, .memInject,
    .memChstat, .memChce, .memChue, .memChpoison, .fabStat, .fabDiscard, .ctrVal] s t := by
  refine ⟨_, rfl, ?_⟩
  repeat' first
    | with_reducible assumption | with_reducible exact Only.refl _ | decide +kernel
    | with_reducible apply only_State_busyHeaders | with_reducible apply only_State_failBank
    | with_reducible apply only_State_issueOp | with_reducible apply only_State_nextSet
    | with_reducible apply only_State_pumpBanks | with_reducible apply only_State_readBatch
    | with_reducible apply only_State_setOp | with_reducible apply only_State_startOp | intro _ _ _ _ | dsimp only
    | split

theorem only_State_foldDone {Ps : List Piece} {Ks : List RegKind} {s0 : State} (s : State) (l : WorkList) (o : Op) (i
    : Nat) (k : Nat) (slot : Nat) (count : Nat) (hK : Only Ps Ks s0 s) (hp : [.freeCtr, .mem, .checks, .stores,
    .fpDirty, .chanPoisoned, .beds, .hbm, .ic, .flog0, .flog1, .mbox, .lists] ⊆ Ps) (hk : [.vcstat, .vcsatcnt, .qswin,
    .qselem, .qstot, .qsstat, .bedStatus, .bedDonecnt, .bedCe, .bedUe, .bedLastue, .memStat, .memInject, .memChstat,
    .memChce, .memChue, .memChpoison, .fabStat, .fabDiscard, .ctrVal] ⊆ Ks) : Only Ps Ks s0 (State.foldDone s l o i k
    slot count) := by
  unfold State.foldDone
  repeat' first
    | with_reducible assumption | exact List.Subset.trans (by decide +kernel) hp
    | exact List.Subset.trans (by decide +kernel) hk | with_reducible apply only_State_closeMember
    | with_reducible apply only_State_failBank | with_reducible apply only_State_internalReport
    | with_reducible apply only_State_nextSet | with_reducible apply only_State_pumpBanks
    | with_reducible apply only_State_setOp | dsimp only | split

theorem only_bankPartialFold {Ps : List Piece} {Ks : List RegKind} {s0 : State} (k : Nat) (slot : Nat) (s : State) (hK
    : Only Ps Ks s0 s) (hp : [.freeCtr, .mem, .checks, .stores, .fpDirty, .chanPoisoned, .beds, .hbm, .ic, .flog0,
    .flog1, .mbox, .lists] ⊆ Ps) (hk : [.vcstat, .vcsatcnt, .qswin, .qselem, .qstot, .qsstat, .bedStatus, .bedDonecnt,
    .bedCe, .bedUe, .bedLastue, .memStat, .memInject, .memChstat, .memChce, .memChue, .memChpoison, .fabStat,
    .fabDiscard, .ctrVal] ⊆ Ks) : Only Ps Ks s0 (bankPartialFold k slot s) := by
  unfold bankPartialFold
  repeat' first
    | with_reducible assumption | exact List.Subset.trans (by decide +kernel) hp
    | exact List.Subset.trans (by decide +kernel) hk | with_reducible apply only_State_failBank
    | with_reducible apply only_State_foldDone | with_reducible apply only_State_pumpBanks
    | with_reducible apply only_State_writeSet | dsimp only | split

theorem only_execBankCommandDone (core : Fin 64) (bank : Fin 128) (slot : Fin 2) (s : State) : ∃ t,
    execBankCommandDone core bank slot s = .next t ∧ Only [.freeCtr, .mem, .fpDirty, .chanPoisoned, .beds, .hbm, .ic,
    .flog0, .flog1, .mbox, .lists] [.bedStatus, .bedDonecnt, .bedSatcnt, .bedCe, .bedUe, .bedLastue, .memStat,
    .memChstat, .memChce, .memChue, .memChpoison, .ctrVal] s t := by
  refine ⟨_, rfl, ?_⟩
  repeat' first
    | with_reducible exact Only.refl _ | decide +kernel | with_reducible apply only_State_pumpBanks
    | with_reducible apply only_bankCommandDone

theorem only_execOperationComplete (list : Nat) (offset : Nat) (s : State) : ∃ t, execOperationComplete list offset s
    = .next t ∧ Only [.out, .freeCtr, .mem, .checks, .stores, .fpDirty, .chanPoisoned, .beds, .hbm, .thermal, .ports,
    .reqs, .ic, .flog0, .flog1, .mbox, .lists, .tagCtr, .progress, .watchdogs] [.bedStatus, .bedDonecnt, .bedCe,
    .bedUe, .bedLastue, .memStat, .memInject, .memChstat, .memChce, .memChue, .memChpoison, .fabStat, .fabDiscard,
    .vgov, .detNondet, .ctrVal] s t := by
  refine ⟨_, rfl, ?_⟩
  repeat' first
    | with_reducible exact Only.refl _ | decide +kernel | with_reducible apply only_State_pumpBanks
    | with_reducible apply only_operationComplete

theorem only_execTileBoundaryStop (list : Nat) (offset : Nat) (s : State) : ∃ t, execTileBoundaryStop list offset s =
    .next t ∧ Only [.freeCtr, .mem, .fpDirty, .chanPoisoned, .cores, .beds, .hbm, .thermal, .ic, .flog0, .flog1,
    .mbox, .lists, .progress, .watchdogs] [.bedStatus, .bedDonecnt, .bedCe, .bedUe, .bedLastue, .memStat, .memChstat,
    .memChce, .memChue, .memChpoison, .vgov, .ctrVal] s t := by
  refine ⟨_, rfl, ?_⟩
  repeat' first
    | with_reducible exact Only.refl _ | decide +kernel | with_reducible apply only_State_bumpFree
    | with_reducible apply only_State_pumpBanks | with_reducible apply only_State_setOp
    | with_reducible apply only_tileBoundaryStop | split

theorem only_execBankPartialFold (core : Fin 64) (bank : Fin 128) (slot : Fin 2) (s : State) : ∃ t,
    execBankPartialFold core bank slot s = .next t ∧ Only [.freeCtr, .mem, .checks, .stores, .fpDirty, .chanPoisoned,
    .beds, .hbm, .ic, .flog0, .flog1, .mbox, .lists] [.vcstat, .vcsatcnt, .qswin, .qselem, .qstot, .qsstat,
    .bedStatus, .bedDonecnt, .bedCe, .bedUe, .bedLastue, .memStat, .memInject, .memChstat, .memChce, .memChue,
    .memChpoison, .fabStat, .fabDiscard, .ctrVal] s t := by
  refine ⟨_, rfl, ?_⟩
  repeat' first | with_reducible exact Only.refl _ | decide +kernel | with_reducible apply only_bankPartialFold

theorem only_State_runMerge {Ps : List Piece} {Ks : List RegKind} {s0 : State} (s : State) (l : WorkList) (o : Op) (hK
    : Only Ps Ks s0 s) (hp : [.freeCtr, .mem, .checks, .stores, .fpDirty, .chanPoisoned, .hbm, .ic, .flog0, .flog1,
    .mbox, .lists] ⊆ Ps) (hk : [.vcstat, .vcsatcnt, .qswin, .qselem, .qstot, .qsstat, .bedCe, .bedUe, .bedLastue,
    .memStat, .memInject, .memChstat, .memChce, .memChue, .memChpoison, .fabStat, .fabDiscard, .ctrVal] ⊆ Ks) : Only
    Ps Ks s0 (State.runMerge s l o) := by
  unfold State.runMerge
  repeat' first
    | with_reducible assumption | exact List.Subset.trans (by decide +kernel) hp
    | exact List.Subset.trans (by decide +kernel) hk | with_reducible apply only_State_endWith
    | with_reducible apply only_State_finishOp | with_reducible apply only_State_internalReport
    | with_reducible apply only_State_opRead | with_reducible apply only_State_opWrite
    | with_reducible apply only_State_spoil | with_reducible apply only_State_startOp
    | with_reducible apply Only.foldOn SetsRead.s | intro _ _ _ | dsimp only | split

theorem only_execMerge (list : Nat) (early : Option (List Byte)) (s : State) : ∃ t, execMerge list early s = .next t ∧
    Only [.freeCtr, .mem, .checks, .stores, .fpDirty, .chanPoisoned, .cores, .hbm, .ic, .flog0, .flog1, .mbox, .lists,
    .issueOrder] [.vcstat, .vcsatcnt, .qswin, .qselem, .qstot, .qsstat, .bedCe, .bedUe, .bedLastue, .memStat,
    .memInject, .memChstat, .memChce, .memChue, .memChpoison, .fabStat, .fabDiscard, .ctrVal] s t := by
  refine ⟨_, rfl, ?_⟩
  repeat' first
    | with_reducible assumption | with_reducible exact Only.refl _ | decide +kernel
    | with_reducible apply only_State_issueOp | with_reducible apply only_State_runMerge
    | with_reducible apply only_State_runOnChain | intro _ _ _ _

/-! ### Machine/Attend.lean -/

theorem only_State_bankRead {Ps : List Piece} {Ks : List RegKind} {s0 : State} (s : State) (from_ : Nat) (tenant :
    Nat) (k : Nat) (b : Nat) (a : Nat) (n : Nat) (hK : Only Ps Ks s0 s) (hp : [.fpDirty, .chanPoisoned, .hbm, .ic,
    .flog0, .flog1, .mbox] ⊆ Ps) (hk : [.bedCe, .bedUe, .bedLastue, .memStat, .memChstat, .memChce, .memChue,
    .memChpoison, .ctrVal] ⊆ Ks) : Only Ps Ks s0 (State.bankRead s from_ tenant k b a n).s := by
  unfold State.bankRead
  repeat' first
    | with_reducible assumption | exact List.Subset.trans (by decide +kernel) hk | with_reducible apply only_State_ctr
    | with_reducible apply only_State_readMem | with_reducible apply Only.foldOn MemRead.s | intro _ _ _

theorem only_TileRead_token {Ps : List Piece} {Ks : List RegKind} {s0 : State} (x : TileRead) (l : WorkList) (o : Op)
    (e : EntryMaps) (h : Nat) (key : Bool) (pos : Nat) (hx : Only Ps Ks s0 x.s) (hp : [.fpDirty, .chanPoisoned, .hbm,
    .ic, .flog0, .flog1, .mbox] ⊆ Ps) (hk : [.bedCe, .bedUe, .bedLastue, .memStat, .memChstat, .memChce, .memChue,
    .memChpoison, .ctrVal] ⊆ Ks) : Only Ps Ks s0 (TileRead.token x l o e h key pos).s := by
  unfold TileRead.token
  repeat' first | with_reducible assumption | with_reducible apply only_State_bankRead

theorem only_State_kvTile {Ps : List Piece} {Ks : List RegKind} {s0 : State} (s : State) (l : WorkList) (o : Op) (e :
    EntryMaps) (h : Nat) (span : Nat) (p0 : Nat) (key : Bool) (hK : Only Ps Ks s0 s) (hp : [.fpDirty, .chanPoisoned,
    .hbm, .ic, .flog0, .flog1, .mbox] ⊆ Ps) (hk : [.bedCe, .bedUe, .bedLastue, .memStat, .memChstat, .memChce,
    .memChue, .memChpoison, .ctrVal] ⊆ Ks) : Only Ps Ks s0 (State.kvTile s l o e h span p0 key).s := by
  unfold State.kvTile
  repeat' first
    | with_reducible assumption | with_reducible apply only_TileRead_token
    | with_reducible apply Only.foldOn TileRead.s | intro _ _ _ | split

theorem only_AtRun_visit {Ps : List Piece} {Ks : List RegKind} {s0 : State} (x : AtRun) (o : Op) (gs : List Stage) (j
    : Nat) (ks : List (List Word)) (vs : List (List Word)) (q : QTile) (hx : Only Ps Ks s0 x.s) : Only Ps Ks s0
    (AtRun.visit x o gs j ks vs q).1.s := by
  unfold AtRun.visit
  repeat' first
    | with_reducible assumption | with_reducible apply Only.foldOn (fun y : AtRun × QTile => y.1.s) | intro _ _ _

theorem only_AtRun_step {Ps : List Piece} {Ks : List RegKind} {s0 : State} (x : AtRun) (l : WorkList) (o : Op) (gs :
    List Stage) (j : Nat) (qs : List QTile) (hx : Only Ps Ks s0 x.s) (hp : [.fpDirty, .chanPoisoned, .hbm, .ic,
    .flog0, .flog1, .mbox] ⊆ Ps) (hk : [.bedCe, .bedUe, .bedLastue, .memStat, .memChstat, .memChce, .memChue,
    .memChpoison, .ctrVal] ⊆ Ks) : Only Ps Ks s0 (AtRun.step x l o gs j qs).1.s := by
  unfold AtRun.step
  repeat' first
    | with_reducible assumption | with_reducible apply only_AtRun_visit | with_reducible apply only_State_kvTile
    | with_reducible apply Only.foldOn (fun y : AtRun × List QTile => y.1.s) | intro _ _ _ | dsimp only | split

theorem only_AtRun_write {Ps : List Piece} {Ks : List RegKind} {s0 : State} (x : AtRun) (l : WorkList) (o : Op) (q :
    QTile) (hx : Only Ps Ks s0 x.s) (hp : [.mem, .checks, .stores, .fpDirty, .chanPoisoned, .hbm, .ic, .flog0, .flog1,
    .mbox] ⊆ Ps) (hk : [.bedCe, .bedUe, .bedLastue, .memStat, .memInject, .memChstat, .memChce, .memChue,
    .memChpoison, .fabStat, .fabDiscard, .ctrVal] ⊆ Ks) : Only Ps Ks s0 (AtRun.write x l o q).s := by
  unfold AtRun.write
  repeat' first
    | with_reducible assumption | with_reducible apply only_State_opWrite | with_reducible apply Only.foldOn AtRun.s
    | intro _ _ _ | dsimp only | split

theorem only_AtRun_group {Ps : List Piece} {Ks : List RegKind} {s0 : State} (x : AtRun) (l : WorkList) (o : Op) (gs :
    List Stage) (qs : List QTile) (hx : Only Ps Ks s0 x.s) (hp : [.mem, .checks, .stores, .fpDirty, .chanPoisoned,
    .hbm, .ic, .flog0, .flog1, .mbox] ⊆ Ps) (hk : [.bedCe, .bedUe, .bedLastue, .memStat, .memInject, .memChstat,
    .memChce, .memChue, .memChpoison, .fabStat, .fabDiscard, .ctrVal] ⊆ Ks) : Only Ps Ks s0 (AtRun.group x l o gs
    qs).s := by
  unfold AtRun.group
  repeat' first
    | with_reducible assumption | exact List.Subset.trans (by decide +kernel) hp
    | exact List.Subset.trans (by decide +kernel) hk | with_reducible apply only_AtRun_step
    | with_reducible apply only_AtRun_write | with_reducible apply Only.foldOn AtRun.s
    | with_reducible apply Only.foldOn (fun y : AtRun × List QTile => y.1.s) | intro _ _ _ | dsimp only | split

theorem only_AtRun_empty {Ps : List Piece} {Ks : List RegKind} {s0 : State} (x : AtRun) (l : WorkList) (o : Op) (e :
    EntryMaps) (hx : Only Ps Ks s0 x.s) (hp : [.mem, .checks, .stores, .fpDirty, .chanPoisoned, .hbm, .ic, .flog0,
    .flog1, .mbox] ⊆ Ps) (hk : [.bedCe, .bedUe, .bedLastue, .memStat, .memInject, .memChstat, .memChce, .memChue,
    .memChpoison, .fabStat, .fabDiscard, .ctrVal] ⊆ Ks) : Only Ps Ks s0 (AtRun.empty x l o e).s := by
  unfold AtRun.empty
  repeat' first | with_reducible assumption | with_reducible apply only_State_opWrite | dsimp only | split

theorem only_State_atWork {Ps : List Piece} {Ks : List RegKind} {s0 : State} (s : State) (l : WorkList) (o : Op) (es :
    List EntryMaps) (hK : Only Ps Ks s0 s) (hp : [.freeCtr, .mem, .checks, .stores, .fpDirty, .chanPoisoned, .hbm,
    .ic, .flog0, .flog1, .mbox] ⊆ Ps) (hk : [.bedCe, .bedUe, .bedLastue, .memStat, .memInject, .memChstat, .memChce,
    .memChue, .memChpoison, .fabStat, .fabDiscard, .ctrVal] ⊆ Ks) : Only Ps Ks s0 (State.atWork s l o es) := by
  unfold State.atWork
  repeat' first | with_reducible assumption | with_reducible apply only_State_fillUndefined | dsimp only | split

theorem only_State_atSpoil {Ps : List Piece} {Ks : List RegKind} {s0 : State} (s : State) (l : WorkList) (o : Op) (es
    : List EntryMaps) (a : Acc) (hK : Only Ps Ks s0 s) (hp : [.freeCtr, .mem, .checks, .stores, .fpDirty,
    .chanPoisoned, .hbm, .ic, .flog0, .flog1, .mbox] ⊆ Ps) (hk : [.bedCe, .bedUe, .bedLastue, .memStat, .memInject,
    .memChstat, .memChce, .memChue, .memChpoison, .fabStat, .fabDiscard, .ctrVal] ⊆ Ks) : Only Ps Ks s0 (State.atSpoil
    s l o es a) := by
  unfold State.atSpoil
  repeat' first
    | with_reducible assumption | with_reducible apply only_State_spoil | with_reducible apply Only.fold | intro _ _ _

theorem only_State_runAttend {Ps : List Piece} {Ks : List RegKind} {s0 : State} (s : State) (l : WorkList) (o : Op)
    (hK : Only Ps Ks s0 s) (hp : [.freeCtr, .mem, .checks, .stores, .fpDirty, .chanPoisoned, .hbm, .ic, .flog0,
    .flog1, .mbox, .lists] ⊆ Ps) (hk : [.mxstat, .mxsatcnt, .vcstat, .vcsatcnt, .qswin, .qselem, .qstot, .qsstat,
    .bedCe, .bedUe, .bedLastue, .memStat, .memInject, .memChstat, .memChce, .memChue, .memChpoison, .fabStat,
    .fabDiscard, .ctrVal] ⊆ Ks) : Only Ps Ks s0 (State.runAttend s l o) := by
  unfold State.runAttend
  repeat' first
    | with_reducible assumption | exact List.Subset.trans (by decide +kernel) hp
    | exact List.Subset.trans (by decide +kernel) hk | with_reducible apply only_AtRun_empty
    | with_reducible apply only_AtRun_group | with_reducible apply only_State_atSpoil
    | with_reducible apply only_State_atWork | with_reducible apply only_State_bumpFree
    | with_reducible apply only_State_chainReport | with_reducible apply only_State_ctr
    | with_reducible apply only_State_endWith | with_reducible apply only_State_finishOp
    | with_reducible apply only_State_internalReport | with_reducible apply only_State_mxSat
    | with_reducible apply only_State_opRead | with_reducible apply only_State_readBatch
    | with_reducible apply only_State_setOp | with_reducible apply only_State_startOp
    | with_reducible apply Only.foldOn AtRun.s | intro _ _ _ | dsimp only | split

theorem only_State_attendNow {Ps : List Piece} {Ks : List RegKind} {s0 : State} (s : State) (l : WorkList) (o : Op)
    (hK : Only Ps Ks s0 s) (hp : [.freeCtr, .mem, .checks, .stores, .fpDirty, .chanPoisoned, .cores, .hbm, .ic,
    .flog0, .flog1, .mbox, .lists] ⊆ Ps) (hk : [.mxstat, .mxsatcnt, .vcstat, .vcsatcnt, .qswin, .qselem, .qstot,
    .qsstat, .bedCe, .bedUe, .bedLastue, .memStat, .memInject, .memChstat, .memChce, .memChue, .memChpoison, .fabStat,
    .fabDiscard, .ctrVal] ⊆ Ks) : Only Ps Ks s0 (State.attendNow s l o) := by
  unfold State.attendNow
  repeat' first
    | with_reducible assumption | exact List.Subset.trans (by decide +kernel) hp
    | with_reducible apply only_State_runAttend | with_reducible apply only_State_setCoreUnit | dsimp only | split

theorem only_execAttend (list : Nat) (early : Option (List Byte)) (s : State) : ∃ t, execAttend list early s = .next t
    ∧ Only [.freeCtr, .mem, .checks, .stores, .fpDirty, .chanPoisoned, .cores, .hbm, .ic, .flog0, .flog1, .mbox,
    .lists, .issueOrder] [.mxstat, .mxsatcnt, .vcstat, .vcsatcnt, .qswin, .qselem, .qstot, .qsstat, .bedCe, .bedUe,
    .bedLastue, .memStat, .memInject, .memChstat, .memChce, .memChue, .memChpoison, .fabStat, .fabDiscard, .ctrVal] s
    t := by
  refine ⟨_, rfl, ?_⟩
  repeat' first
    | with_reducible assumption | with_reducible exact Only.refl _ | decide +kernel
    | with_reducible apply only_State_attendNow | with_reducible apply only_State_issueOp | intro _ _ _ _

/-! ### Machine/Mover.lean -/

theorem only_State_copyAway {Ps : List Piece} {Ks : List RegKind} {s0 : State} (s : State) (l : WorkList) (o : Op)
    (data : List Byte) (hK : Only Ps Ks s0 s) (hp : [.out, .ports, .reqs, .lists, .tagCtr] ⊆ Ps) (hk : [.ctrVal] ⊆ Ks)
    : Only Ps Ks s0 (State.copyAway s l o data) := by
  unfold State.copyAway
  repeat' first
    | with_reducible assumption | exact List.Subset.trans (by decide +kernel) hp | exact hp (by decide +kernel)
    | with_reducible apply only_State_finishOp | with_reducible apply only_State_request
    | with_reducible apply only_State_sendOut | with_reducible apply Only.foldFst | intro _ _ _ | dsimp only | split
    | with_reducible apply Only.upd_reqs

theorem only_State_copyHere {Ps : List Piece} {Ks : List RegKind} {s0 : State} (s : State) (l : WorkList) (o : Op)
    (data : List Byte) (hK : Only Ps Ks s0 s) (hp : [.freeCtr, .mem, .checks, .stores, .fpDirty, .chanPoisoned, .hbm,
    .ic, .flog0, .flog1, .mbox, .lists] ⊆ Ps) (hk : [.bedCe, .bedUe, .bedLastue, .memStat, .memInject, .memChstat,
    .memChce, .memChue, .memChpoison, .fabStat, .fabDiscard, .ctrVal] ⊆ Ks) : Only Ps Ks s0 (State.copyHere s l o
    data) := by
  unfold State.copyHere
  repeat' first
    | with_reducible assumption | exact List.Subset.trans (by decide +kernel) hp
    | with_reducible apply only_State_fillUndefined | with_reducible apply only_State_finishOp
    | with_reducible apply only_State_opWrite | with_reducible apply Only.fold | intro _ _ _ | dsimp only | split

theorem only_State_runCopy {Ps : List Piece} {Ks : List RegKind} {s0 : State} (s : State) (l : WorkList) (o : Op) (hK
    : Only Ps Ks s0 s) (hp : [.out, .freeCtr, .mem, .checks, .stores, .fpDirty, .chanPoisoned, .hbm, .ports, .reqs,
    .ic, .flog0, .flog1, .mbox, .lists, .tagCtr] ⊆ Ps) (hk : [.bedCe, .bedUe, .bedLastue, .memStat, .memInject,
    .memChstat, .memChce, .memChue, .memChpoison, .fabStat, .fabDiscard, .ctrVal] ⊆ Ks) : Only Ps Ks s0 (State.runCopy
    s l o) := by
  unfold State.runCopy
  repeat' first
    | with_reducible assumption | exact List.Subset.trans (by decide +kernel) hp
    | exact List.Subset.trans (by decide +kernel) hk | with_reducible apply only_State_addSteps
    | with_reducible apply only_State_bumpFree | with_reducible apply only_State_copyAway
    | with_reducible apply only_State_copyHere | with_reducible apply only_State_ctr
    | with_reducible apply only_State_finishOp | with_reducible apply only_State_opRead
    | with_reducible apply only_State_opWrite | with_reducible apply only_State_spoil
    | with_reducible apply only_State_startOp | dsimp only | split

theorem only_execCopy (list : Nat) (early : Option (List Byte)) (s : State) : ∃ t, execCopy list early s = .next t ∧
    Only [.out, .freeCtr, .mem, .checks, .stores, .fpDirty, .chanPoisoned, .hbm, .ports, .reqs, .ic, .flog0, .flog1,
    .mbox, .lists, .issueOrder, .tagCtr] [.bedCe, .bedUe, .bedLastue, .memStat, .memInject, .memChstat, .memChce,
    .memChue, .memChpoison, .fabStat, .fabDiscard, .ctrVal] s t := by
  refine ⟨_, rfl, ?_⟩
  repeat' first
    | with_reducible assumption | with_reducible exact Only.refl _ | decide +kernel
    | with_reducible apply only_State_issueOp | with_reducible apply only_State_runCopy | intro _ _ _ _

theorem only_State_runGather {Ps : List Piece} {Ks : List RegKind} {s0 : State} (s : State) (l : WorkList) (o : Op)
    (hK : Only Ps Ks s0 s) (hp : [.freeCtr, .mem, .checks, .stores, .fpDirty, .chanPoisoned, .hbm, .ic, .flog0,
    .flog1, .mbox, .lists] ⊆ Ps) (hk : [.bedCe, .bedUe, .bedLastue, .memStat, .memInject, .memChstat, .memChce,
    .memChue, .memChpoison, .fabStat, .fabDiscard, .ctrVal] ⊆ Ks) : Only Ps Ks s0 (State.runGather s l o) := by
  unfold State.runGather
  repeat' first
    | with_reducible assumption | exact List.Subset.trans (by decide +kernel) hp
    | exact List.Subset.trans (by decide +kernel) hk | with_reducible apply only_State_addSteps
    | with_reducible apply only_State_bumpFree | with_reducible apply only_State_ctr
    | with_reducible apply only_State_finishOp | with_reducible apply only_State_opRead
    | with_reducible apply only_State_opWrite | with_reducible apply only_State_spoil
    | with_reducible apply only_State_startOp | with_reducible apply Only.foldFst
    | with_reducible apply Only.foldOn RowsRead.s | intro _ _ _ | dsimp only | split

theorem only_execGather (list : Nat) (early : Option (List Byte)) (s : State) : ∃ t, execGather list early s = .next t
    ∧ Only [.freeCtr, .mem, .checks, .stores, .fpDirty, .chanPoisoned, .hbm, .ic, .flog0, .flog1, .mbox, .lists,
    .issueOrder] [.bedCe, .bedUe, .bedLastue, .memStat, .memInject, .memChstat, .memChce, .memChue, .memChpoison,
    .fabStat, .fabDiscard, .ctrVal] s t := by
  refine ⟨_, rfl, ?_⟩
  repeat' first
    | with_reducible assumption | with_reducible exact Only.refl _ | decide +kernel
    | with_reducible apply only_State_issueOp | with_reducible apply only_State_runGather | intro _ _ _ _

theorem only_State_runDigest {Ps : List Piece} {Ks : List RegKind} {s0 : State} (s : State) (l : WorkList) (o : Op)
    (hK : Only Ps Ks s0 s) (hp : [.fpDirty, .chanPoisoned, .hbm, .ic, .flog0, .flog1, .mbox, .lists] ⊆ Ps) (hk :
    [.bedCe, .bedUe, .bedLastue, .memStat, .memChstat, .memChce, .memChue, .memChpoison, .ctrVal] ⊆ Ks) : Only Ps Ks
    s0 (State.runDigest s l o) := by
  unfold State.runDigest
  repeat' first
    | with_reducible assumption | exact List.Subset.trans (by decide +kernel) hp
    | exact List.Subset.trans (by decide +kernel) hk | with_reducible apply only_State_addSteps
    | with_reducible apply only_State_ctr | with_reducible apply only_State_finishOp
    | with_reducible apply only_State_opRead | with_reducible apply only_State_setOp
    | with_reducible apply only_State_startOp | dsimp only | split

theorem only_execDigestOp (list : Nat) (early : Option (List Byte)) (s : State) : ∃ t, execDigestOp list early s =
    .next t ∧ Only [.mem, .checks, .stores, .fpDirty, .chanPoisoned, .hbm, .ic, .flog0, .flog1, .mbox, .lists,
    .issueOrder] [.bedCe, .bedUe, .bedLastue, .memStat, .memInject, .memChstat, .memChce, .memChue, .memChpoison,
    .fabStat, .fabDiscard, .ctrVal] s t := by
  refine ⟨_, rfl, ?_⟩
  repeat' first
    | with_reducible assumption | with_reducible exact Only.refl _ | decide +kernel
    | with_reducible apply only_State_issueOp | with_reducible apply only_State_runDigest | intro _ _ _ _

theorem only_State_runSample {Ps : List Piece} {Ks : List RegKind} {s0 : State} (s : State) (l : WorkList) (o : Op)
    (hK : Only Ps Ks s0 s) (hp : [.freeCtr, .mem, .checks, .stores, .fpDirty, .chanPoisoned, .hbm, .ic, .flog0,
    .flog1, .mbox, .lists] ⊆ Ps) (hk : [.vcstat, .vcsatcnt, .qswin, .qselem, .qstot, .qsstat, .bedCe, .bedUe,
    .bedLastue, .memStat, .memInject, .memChstat, .memChce, .memChue, .memChpoison, .fabStat, .fabDiscard, .ctrVal] ⊆
    Ks) : Only Ps Ks s0 (State.runSample s l o) := by
  unfold State.runSample
  repeat' first
    | with_reducible assumption | exact List.Subset.trans (by decide +kernel) hp
    | exact List.Subset.trans (by decide +kernel) hk | with_reducible apply only_State_endWith
    | with_reducible apply only_State_finishOp | with_reducible apply only_State_internalReport
    | with_reducible apply only_State_opRead | with_reducible apply only_State_opWrite
    | with_reducible apply only_State_spoil | with_reducible apply only_State_startOp | dsimp only | split

theorem only_execSample (list : Nat) (early : Option (List Byte)) (s : State) : ∃ t, execSample list early s = .next t
    ∧ Only [.freeCtr, .mem, .checks, .stores, .fpDirty, .chanPoisoned, .cores, .hbm, .ic, .flog0, .flog1, .mbox,
    .lists, .issueOrder] [.vcstat, .vcsatcnt, .qswin, .qselem, .qstot, .qsstat, .bedCe, .bedUe, .bedLastue, .memStat,
    .memInject, .memChstat, .memChce, .memChue, .memChpoison, .fabStat, .fabDiscard, .ctrVal] s t := by
  refine ⟨_, rfl, ?_⟩
  repeat' first
    | with_reducible assumption | with_reducible exact Only.refl _ | decide +kernel
    | with_reducible apply only_State_issueOp | with_reducible apply only_State_runOnChain
    | with_reducible apply only_State_runSample | with_reducible apply only_State_setOp | intro _ _ _ _

theorem only_State_runInternal {Ps : List Piece} {Ks : List RegKind} {s0 : State} (s : State) (l : WorkList) (o : Op)
    (hK : Only Ps Ks s0 s) (hp : [.freeCtr, .mem, .checks, .stores, .fpDirty, .chanPoisoned, .hbm, .ic, .flog0,
    .flog1, .mbox, .lists] ⊆ Ps) (hk : [.mxstat, .mxsatcnt, .vcstat, .vcsatcnt, .qswin, .qselem, .qstot, .qsstat,
    .bedCe, .bedUe, .bedLastue, .memStat, .memInject, .memChstat, .memChce, .memChue, .memChpoison, .fabStat,
    .fabDiscard, .ctrVal] ⊆ Ks) : Only Ps Ks s0 (State.runInternal s l o) := by
  unfold State.runInternal
  repeat' first
    | with_reducible assumption | exact List.Subset.trans (by decide +kernel) hp
    | exact List.Subset.trans (by decide +kernel) hk | with_reducible apply only_State_runAttend
    | with_reducible apply only_State_runKvAppend | with_reducible apply only_State_runMerge
    | with_reducible apply only_State_runSample | split

theorem only_chainTurn {Ps : List Piece} {Ks : List RegKind} {s0 : State} (k : Nat) (s : State) (hK : Only Ps Ks s0 s)
    (hp : [.freeCtr, .mem, .checks, .stores, .fpDirty, .chanPoisoned, .cores, .hbm, .ic, .flog0, .flog1, .mbox,
    .lists] ⊆ Ps) (hk : [.mxstat, .mxsatcnt, .vcstat, .vcsatcnt, .qswin, .qselem, .qstot, .qsstat, .bedCe, .bedUe,
    .bedLastue, .memStat, .memInject, .memChstat, .memChce, .memChue, .memChpoison, .fabStat, .fabDiscard, .ctrVal] ⊆
    Ks) : Only Ps Ks s0 (chainTurn k s) := by
  unfold chainTurn
  repeat' first
    | with_reducible assumption | exact List.Subset.trans (by decide +kernel) hp
    | exact List.Subset.trans (by decide +kernel) hk | with_reducible apply only_State_dropOp
    | with_reducible apply only_State_runInternal | with_reducible apply only_vchainBeat | split

theorem only_execVchainBeat (core : Fin 64) (s : State) : ∃ t, execVchainBeat core s = .next t ∧ Only [.freeCtr, .mem,
    .checks, .stores, .fpDirty, .chanPoisoned, .cores, .hbm, .ic, .flog0, .flog1, .mbox, .lists] [.mxstat, .mxsatcnt,
    .vcstat, .vcsatcnt, .qswin, .qselem, .qstot, .qsstat, .bedCe, .bedUe, .bedLastue, .memStat, .memInject,
    .memChstat, .memChce, .memChue, .memChpoison, .fabStat, .fabDiscard, .ctrVal] s t := by
  refine ⟨_, rfl, ?_⟩
  repeat' first | with_reducible exact Only.refl _ | decide +kernel | with_reducible apply only_chainTurn

theorem only_State_requeue {Ps : List Piece} {Ks : List RegKind} {s0 : State} (s : State) (l : WorkList) (o : Op) (hK
    : Only Ps Ks s0 s) (hp : [.freeCtr, .mem, .checks, .stores, .fpDirty, .chanPoisoned, .cores, .beds, .hbm, .ic,
    .flog0, .flog1, .mbox, .lists] ⊆ Ps) (hk : [.mxstat, .mxsatcnt, .vcstat, .vcsatcnt, .qswin, .qselem, .qstot,
    .qsstat, .bedStatus, .bedDonecnt, .bedCe, .bedUe, .bedLastue, .memStat, .memInject, .memChstat, .memChce,
    .memChue, .memChpoison, .fabStat, .fabDiscard, .ctrVal] ⊆ Ks) : Only Ps Ks s0 (State.requeue s l o) := by
  unfold State.requeue
  repeat' first
    | with_reducible assumption | exact List.Subset.trans (by decide +kernel) hp
    | exact List.Subset.trans (by decide +kernel) hk | with_reducible apply only_State_attendNow
    | with_reducible apply only_State_pumpBanks | with_reducible apply only_State_queueMatmul
    | with_reducible apply only_State_queueVchain | with_reducible apply only_State_runKvAppend
    | with_reducible apply only_State_runMerge | with_reducible apply only_State_runOnChain
    | with_reducible apply only_State_runSample | with_reducible apply only_State_startOp | intro _ _ _ _ | split

theorem only_execListResume (list : Nat) (s : State) : ∃ t, execListResume list s = .next t ∧ Only [.out, .freeCtr,
    .mem, .checks, .stores, .fpDirty, .chanPoisoned, .cores, .beds, .hbm, .thermal, .ports, .reqs, .ic, .flog0,
    .flog1, .mbox, .lists, .tagCtr, .progress, .watchdogs] [.mxstat, .mxsatcnt, .vcstat, .vcsatcnt, .qsctl, .qswin,
    .qselem, .qstot, .qsstat, .bedStatus, .bedDonecnt, .bedCe, .bedUe, .bedLastue, .memStat, .memInject, .memChstat,
    .memChce, .memChue, .memChpoison, .fabStat, .fabDiscard, .vgov, .ctrVal] s t := by
  refine ⟨_, rfl, ?_⟩
  repeat' first
    | with_reducible assumption | with_reducible exact Only.refl _ | decide +kernel
    | with_reducible apply only_State_requeue | with_reducible apply only_resumeList | intro _ _ _ _

end Sys2Proof.Machine
end

