-- ==== Sys2Proof/Laws/OnlyDevice.lean ====
section
/-! SUPPORT. The same for the scrubbers, guests, boot, tenants, scheduling, observation, accesses and the fabric. -/

namespace Sys2Proof.Machine

set_option Elab.async false

/-! ### Machine/Scrub.lean -/

theorem only_execStackChannelFailureReport (stack : Fin 12) (channel : Fin 16) (s : State) : ∃ t,
    execStackChannelFailureReport stack channel s = .next t ∧ Only [.fpDirty, .chanPoisoned, .ic, .flog0, .flog1,
    .mbox] [.memStat, .memChstat] s t := by
  refine ⟨_, rfl, ?_⟩
  repeat' first
    | with_reducible exact Only.refl _ | decide +kernel | with_reducible apply only_State_channelFail | split

theorem only_execChannelPhyTimeout (stack : Fin 12) (channel : Fin 16) (s : State) : ∃ t, execChannelPhyTimeout stack
    channel s = .next t ∧ Only [.fpDirty, .chanPoisoned, .ic, .flog0, .flog1, .mbox] [.memStat, .memChstat] s t := by
  refine ⟨_, rfl, ?_⟩
  repeat' first
    | with_reducible exact Only.refl _ | decide +kernel | with_reducible apply only_State_channelFail | split

theorem only_State_setScrubbed {Ps : List Piece} {Ks : List RegKind} {s0 : State} (s : State) (u : ScrubUnit) (x :
    Channel) (hK : Only Ps Ks s0 s) (hp : [.beds, .hbm] ⊆ Ps) : Only Ps Ks s0 (State.setScrubbed s u x) := by
  unfold State.setScrubbed
  repeat' first
    | with_reducible assumption | exact List.Subset.trans (by decide +kernel) hp
    | with_reducible apply only_State_setBed | with_reducible apply only_State_setStack | split

theorem only_State_scrubSector {Ps : List Piece} {Ks : List RegKind} {s0 : State} (s : State) (a : Nat) (hK : Only Ps
    Ks s0 s) (hp : [.mem, .checks, .fpDirty, .chanPoisoned, .hbm, .ic, .flog0, .flog1, .mbox] ⊆ Ps) (hk : [.bedCe,
    .bedUe, .bedLastue, .memStat, .memChstat, .memChce, .memChue, .memChpoison, .ctrVal] ⊆ Ks) : Only Ps Ks s0
    (State.scrubSector s a) := by
  unfold State.scrubSector
  repeat' first
    | with_reducible assumption | exact List.Subset.trans (by decide +kernel) hp
    | with_reducible apply only_State_countOutcome | with_reducible apply only_State_dataLoss
    | with_reducible apply only_State_notify | with_reducible apply only_State_readSector
    | with_reducible apply only_State_storePoison | with_reducible apply only_State_storeRaw | dsimp only | split

theorem only_scrubRead {Ps : List Piece} {Ks : List RegKind} {s0 : State} (u : ScrubUnit) (s : State) (hK : Only Ps Ks
    s0 s) (hp : [.mem, .checks, .fpDirty, .chanPoisoned, .beds, .hbm, .ic, .flog0, .flog1, .mbox] ⊆ Ps) (hk : [.bedCe,
    .bedUe, .bedLastue, .memStat, .memChstat, .memChce, .memChue, .memChpoison, .ctrVal] ⊆ Ks) : Only Ps Ks s0
    (scrubRead u s) := by
  unfold scrubRead
  repeat' first
    | with_reducible assumption | exact List.Subset.trans (by decide +kernel) hp
    | exact List.Subset.trans (by decide +kernel) hk | with_reducible apply only_State_ctr
    | with_reducible apply only_State_scrubSector | with_reducible apply only_State_setScrubbed | dsimp only | split

theorem only_execScrubRead (unit : ScrubUnit) (s : State) : ∃ t, execScrubRead unit s = .next t ∧ Only [.mem, .checks,
    .fpDirty, .chanPoisoned, .beds, .hbm, .ic, .flog0, .flog1, .mbox] [.bedCe, .bedUe, .bedLastue, .memStat,
    .memChstat, .memChce, .memChue, .memChpoison, .ctrVal] s t := by
  refine ⟨_, rfl, ?_⟩
  repeat' first | with_reducible exact Only.refl _ | decide +kernel | with_reducible apply only_scrubRead

theorem only_State_setLap {Ps : List Piece} {Ks : List RegKind} {s0 : State} (s : State) (m : ScrubMem) (x : ScrubLap)
    (hK : Only Ps Ks s0 s) (hp : [.beds, .hbm] ⊆ Ps) : Only Ps Ks s0 (State.setLap s m x) := by
  unfold State.setLap
  repeat' first
    | with_reducible assumption | exact List.Subset.trans (by decide +kernel) hp
    | with_reducible apply only_State_setBed | with_reducible apply only_State_setStack | dsimp only | split

theorem only_scrubLapEnd {Ps : List Piece} {Ks : List RegKind} {s0 : State} (m : ScrubMem) (s : State) (hK : Only Ps
    Ks s0 s) (hp : [.beds, .hbm] ⊆ Ps) (hk : [.bedScrubLap, .memScrubLap] ⊆ Ks) : Only Ps Ks s0 (scrubLapEnd m s) :=
    by
  unfold scrubLapEnd
  cases m
  repeat' first
    | with_reducible assumption | exact hk (List.elem_iff.mp rfl) | exact hp
    | exact List.Subset.trans (by decide +kernel) hp | exact hp (by decide +kernel) | exact hk
    | exact List.Subset.trans (by decide +kernel) hk | exact hk (List.elem_iff.mp rfl)
    | with_reducible apply only_State_setLap | with_reducible apply only_State_setReg
    | with_reducible apply only_State_setScrubbed | with_reducible apply Only.fold | with_reducible apply Only.foldFst
    | intro _ _ _ _ | intro _ _ _ | intro _ _ | intro _ | dsimp only | split

theorem only_execScrubLapEnd (unit : ScrubMem) (s : State) : ∃ t, execScrubLapEnd unit s = .next t ∧ Only [.beds,
    .hbm] [.bedScrubLap, .memScrubLap] s t := by
  refine ⟨_, rfl, ?_⟩
  repeat' first | with_reducible exact Only.refl _ | decide +kernel | with_reducible apply only_scrubLapEnd

theorem only_scrubLate {Ps : List Piece} {Ks : List RegKind} {s0 : State} (m : ScrubMem) (s : State) (hK : Only Ps Ks
    s0 s) (hp : [.beds, .hbm, .ic, .flog0, .flog1] ⊆ Ps) (hk : [.bedScrubCur, .memScrubCur] ⊆ Ks) : Only Ps Ks s0
    (scrubLate m s) := by
  unfold scrubLate
  cases m
  repeat' first
    | with_reducible assumption | exact hk (List.elem_iff.mp rfl) | exact hp
    | exact List.Subset.trans (by decide +kernel) hp | exact hp (by decide +kernel) | exact hk
    | exact List.Subset.trans (by decide +kernel) hk | exact hk (List.elem_iff.mp rfl)
    | with_reducible apply only_State_log | with_reducible apply only_State_raise
    | with_reducible apply only_State_setBit | with_reducible apply only_State_setLap | dsimp only | split

theorem only_execScrubLate (unit : ScrubMem) (s : State) : ∃ t, execScrubLate unit s = .next t ∧ Only [.beds, .hbm,
    .ic, .flog0, .flog1] [.bedScrubCur, .memScrubCur] s t := by
  refine ⟨_, rfl, ?_⟩
  repeat' first | with_reducible exact Only.refl _ | decide +kernel | with_reducible apply only_scrubLate

theorem only_stackTempRead {Ps : List Piece} {Ks : List RegKind} {s0 : State} (n : Nat) (temp : Nat) (critical : Bool)
    (s : State) (hK : Only Ps Ks s0 s) (hp : [.boot, .bootRun, .mem, .checks, .stores, .cores, .beds, .hbm, .domains,
    .ports, .guests, .reqs, .quiesced, .ic, .flog0, .flog1, .fatal, .mbox, .alive, .standby, .hbActive, .hbStandby,
    .removing, .revocation, .engines, .xfers, .lists] ⊆ Ps) (hk : [.memStat, .vregCtl, .vstat, .pkgHardpan] ⊆ Ks) :
    Only Ps Ks s0 (stackTempRead n temp critical s) := by
  unfold stackTempRead
  repeat' first
    | with_reducible assumption | exact List.Subset.trans (by decide +kernel) hp
    | exact List.Subset.trans (by decide +kernel) hk | exact hk (List.elem_iff.mp rfl)
    | with_reducible apply only_State_enterHardpan | with_reducible apply only_State_raise
    | with_reducible apply only_State_setBit | with_reducible apply only_State_setF
    | with_reducible apply only_State_setStack | dsimp only | split

theorem only_execStackTempRead (stack : Fin 12) (temp : Byte) (critical : Bool) (s : State) : ∃ t, execStackTempRead
    stack temp critical s = .next t ∧ Only [.boot, .bootRun, .mem, .checks, .stores, .cores, .beds, .hbm, .domains,
    .ports, .guests, .reqs, .quiesced, .ic, .flog0, .flog1, .fatal, .mbox, .alive, .standby, .hbActive, .hbStandby,
    .removing, .revocation, .engines, .xfers, .lists] [.memStat, .vregCtl, .vstat, .pkgHardpan] s t := by
  refine ⟨_, rfl, ?_⟩
  repeat' first | with_reducible exact Only.refl _ | decide +kernel | with_reducible apply only_stackTempRead

theorem only_stackHotClear {Ps : List Piece} {Ks : List RegKind} {s0 : State} (n : Nat) (s : State) (hK : Only Ps Ks
    s0 s) (hk : [.memStat] ⊆ Ks) : Only Ps Ks s0 (stackHotClear n s) := by
  unfold stackHotClear
  repeat' first
    | with_reducible assumption | exact hk (List.elem_iff.mp rfl) | with_reducible apply only_State_clrBit
    | dsimp only | split

theorem only_execStackHotClear (stack : Fin 12) (s : State) : ∃ t, execStackHotClear stack s = .next t ∧ Only []
    [.memStat] s t := by
  refine ⟨_, rfl, ?_⟩
  repeat' first | with_reducible exact Only.refl _ | decide +kernel | with_reducible apply only_stackHotClear

/-! ### Machine/Guest.lean -/

theorem only_State_setGuestState {Ps : List Piece} {Ks : List RegKind} {s0 : State} (s : State) (g : Nat) (v : Nat)
    (hK : Only Ps Ks s0 s) (hk : [.voyGstat] ⊆ Ks) : Only Ps Ks s0 (State.setGuestState s g v) := by
  unfold State.setGuestState
  repeat' first | with_reducible assumption | exact hk (List.elem_iff.mp rfl) | with_reducible apply only_State_setF

theorem only_State_guestTrain {Ps : List Piece} {Ks : List RegKind} {s0 : State} (s : State) (g : Nat) (hK : Only Ps
    Ks s0 s) (hp : [.guests] ⊆ Ps) (hk : [.voyGctl, .voyGstat, .voyLocal, .voyPeer] ⊆ Ks) : Only Ps Ks s0
    (State.guestTrain s g) := by
  unfold State.guestTrain
  repeat' first
    | with_reducible assumption | exact hk (List.elem_iff.mp rfl) | with_reducible apply only_State_clrBit
    | with_reducible apply only_State_setGuest | with_reducible apply only_State_setReg
    | with_reducible apply Only.fold | intro _ _ _ | dsimp only | split

theorem only_guestTrainingTimeout {Ps : List Piece} {Ks : List RegKind} {s0 : State} (g : Nat) (s : State) (hK : Only
    Ps Ks s0 s) (hp : [.guests] ⊆ Ps) (hk : [.voyGstat] ⊆ Ks) : Only Ps Ks s0 (guestTrainingTimeout g s) := by
  unfold guestTrainingTimeout
  repeat' first
    | with_reducible assumption | with_reducible apply only_State_setGuest
    | with_reducible apply only_State_setGuestState | dsimp only | split

theorem only_execGuestTrainingTimeout (guest : Fin 2) (s : State) : ∃ t, execGuestTrainingTimeout guest s = .next t ∧
    Only [.guests] [.voyGstat] s t := by
  refine ⟨_, rfl, ?_⟩
  repeat' first | with_reducible exact Only.refl _ | decide +kernel | with_reducible apply only_guestTrainingTimeout

theorem only_State_showCap {Ps : List Piece} {Ks : List RegKind} {s0 : State} (s : State) (r : Nat → Reg) (bs : List
    Byte) (hK : Only Ps Ks s0 s) (hr : ∀ i, (r i).kind ∈ Ks) : Only Ps Ks s0 (State.showCap s r bs) := by
  unfold State.showCap
  repeat' first
    | with_reducible assumption | with_reducible apply only_State_setReg | exact hr _ | with_reducible apply Only.fold
    | intro _ _ _

theorem only_guestLinkUp {Ps : List Piece} {Ks : List RegKind} {s0 : State} (g : Nat) (rate : Nat) (x64 : Bool) (s :
    State) (hK : Only Ps Ks s0 s) (hp : [.out, .freeCtr, .guests] ⊆ Ps) (hk : [.voyGstat, .voyLocal] ⊆ Ks) : Only Ps
    Ks s0 (guestLinkUp g rate x64 s) := by
  unfold guestLinkUp
  repeat' first
    | with_reducible assumption | exact List.Subset.trans (by decide +kernel) hp | exact hp (by decide +kernel)
    | exact hk (List.elem_iff.mp rfl) | with_reducible apply only_State_emit | with_reducible apply only_State_setF
    | with_reducible apply only_State_setGuest | with_reducible apply only_State_showCap | intro _ | dsimp only
    | split | with_reducible apply Only.upd_freeCtr

theorem only_execGuestLinkUp (guest : Fin 2) (rate : BitVec 3) (x64 : Bool) (s : State) : ∃ t, execGuestLinkUp guest
    rate x64 s = .next t ∧ Only [.out, .freeCtr, .guests] [.voyGstat, .voyLocal] s t := by
  refine ⟨_, rfl, ?_⟩
  repeat' first | with_reducible exact Only.refl _ | decide +kernel | with_reducible apply only_guestLinkUp

theorem only_capArrives {Ps : List Piece} {Ks : List RegKind} {s0 : State} (g : Nat) (bytes : List Byte) (s : State)
    (hK : Only Ps Ks s0 s) (hp : [.guests] ⊆ Ps) (hk : [.voyGstat, .voyPeer] ⊆ Ks) : Only Ps Ks s0 (capArrives g bytes
    s) := by
  unfold capArrives
  repeat' first
    | with_reducible assumption | exact List.Subset.trans (by decide +kernel) hk | exact hk (List.elem_iff.mp rfl)
    | with_reducible apply only_State_setF | with_reducible apply only_State_setGuest
    | with_reducible apply only_State_setGuestState | with_reducible apply only_State_showCap | intro _ | dsimp only
    | split

theorem only_execCap (guest : Fin 2) (bytes : List Byte) (s : State) : ∃ t, execCap guest bytes s = .next t ∧ Only
    [.guests] [.voyGstat, .voyPeer] s t := by
  refine ⟨_, rfl, ?_⟩
  repeat' first | with_reducible exact Only.refl _ | decide +kernel | with_reducible apply only_capArrives

theorem only_State_reportGuest {Ps : List Piece} {Ks : List RegKind} {s0 : State} (s : State) (g : Nat) (hK : Only Ps
    Ks s0 s) (hp : [.fpDirty, .guestPresent] ⊆ Ps) : Only Ps Ks s0 (State.reportGuest s g) := by
  unfold State.reportGuest
  repeat' first
    | with_reducible assumption | exact hp (by decide +kernel) | split
    | with_reducible apply Only.upd_guestPresent_fpDirty

theorem only_State_gctlFields {Ps : List Piece} {Ks : List RegKind} {s0 : State} (s : State) (g : Nat) (v : Nat) (hK :
    Only Ps Ks s0 s) (hp : [.fpDirty, .guestPresent] ⊆ Ps) (hk : [.voyGctl, .voyGstat] ⊆ Ks) : Only Ps Ks s0
    (State.gctlFields s g v) := by
  unfold State.gctlFields
  repeat' first
    | with_reducible assumption | exact List.Subset.trans (by decide +kernel) hk | exact hk (List.elem_iff.mp rfl)
    | with_reducible apply only_State_reportGuest | with_reducible apply only_State_setF
    | with_reducible apply only_State_setGuestState | dsimp only | split

theorem only_execGuestEnable (guest : Fin 2) (tenant : BitVec 10) (s : State) : ∃ t, execGuestEnable guest tenant s =
    .next t ∧ Only [.fpDirty, .guestPresent] [.voyGctl, .voyGstat] s t := by
  refine ⟨_, rfl, ?_⟩
  repeat' first | with_reducible exact Only.refl _ | decide +kernel | with_reducible apply only_State_gctlFields

theorem only_State_guestPump {Ps : List Piece} {Ks : List RegKind} {s0 : State} (s : State) (g : Nat) (c : Nat) (fuel
    : Nat) (hK : Only Ps Ks s0 s) (hp : [.out, .guests] ⊆ Ps) : Only Ps Ks s0 (State.guestPump s g c fuel) := by
  induction fuel generalizing s g c with
  | zero => exact hK
  | succ n ih =>
    unfold State.guestPump
    repeat' first
      | with_reducible apply ih | with_reducible assumption | exact List.Subset.trans (by decide +kernel) hp
      | with_reducible apply only_State_emit | with_reducible apply only_State_setGuest | dsimp only | split

theorem only_State_guestDrop {Ps : List Piece} {Ks : List RegKind} {s0 : State} (s : State) (g : Nat) (m : Msg) (hK :
    Only Ps Ks s0 s) (hp : [.out, .ports, .reqs, .ic, .flog0, .flog1, .mbox, .lists] ⊆ Ps) (hk : [.fabStat,
    .fabDiscard, .ctrVal] ⊆ Ks) : Only Ps Ks s0 (State.guestDrop s g m) := by
  unfold State.guestDrop
  repeat' first
    | with_reducible assumption | exact List.Subset.trans (by decide +kernel) hp | exact hk (List.elem_iff.mp rfl)
    | with_reducible apply only_State_answerLost | with_reducible apply only_State_countF
    | with_reducible apply only_State_log | with_reducible apply only_State_setBit | dsimp only | split

theorem only_State_toGuest {Ps : List Piece} {Ks : List RegKind} {s0 : State} (s : State) (g : Nat) (m : Msg) (hK :
    Only Ps Ks s0 s) (hp : [.out, .ports, .guests, .reqs, .ic, .flog0, .flog1, .mbox, .lists] ⊆ Ps) (hk : [.fabStat,
    .fabDiscard, .ctrVal] ⊆ Ks) : Only Ps Ks s0 (State.toGuest s g m) := by
  unfold State.toGuest
  repeat' first
    | with_reducible assumption | exact List.Subset.trans (by decide +kernel) hp
    | with_reducible apply only_State_guestDrop | with_reducible apply only_State_guestPump
    | with_reducible apply only_State_setGuest | dsimp only | split

theorem only_State_guestAnswered {Ps : List Piece} {Ks : List RegKind} {s0 : State} (s : State) (g : Nat) (m : Msg)
    (hK : Only Ps Ks s0 s) (hp : [.guests] ⊆ Ps) : Only Ps Ks s0 (State.guestAnswered s g m) := by
  unfold State.guestAnswered
  repeat' first | with_reducible assumption | with_reducible apply only_State_setGuest

theorem only_creditReturn {Ps : List Piece} {Ks : List RegKind} {s0 : State} (g : Nat) (c : Nat) (n : Nat) (s : State)
    (hK : Only Ps Ks s0 s) (hp : [.out, .guests] ⊆ Ps) : Only Ps Ks s0 (creditReturn g c n s) := by
  unfold creditReturn
  repeat' first
    | with_reducible assumption | exact List.Subset.trans (by decide +kernel) hp
    | with_reducible apply only_State_guestPump | with_reducible apply only_State_setGuest | dsimp only | split

theorem only_execCredit (guest : Fin 2) (cls : BitVec 2) (count : BitVec 16) (s : State) : ∃ t, execCredit guest cls
    count s = .next t ∧ Only [.out, .guests] [] s t := by
  refine ⟨_, rfl, ?_⟩
  repeat' first | with_reducible exact Only.refl _ | decide +kernel | with_reducible apply only_creditReturn

theorem only_State_guestLost {Ps : List Piece} {Ks : List RegKind} {s0 : State} (s : State) (g : Nat) (hK : Only Ps Ks
    s0 s) (hp : [.out, .fpDirty, .guestPresent, .ports, .guests, .reqs, .ic, .flog0, .flog1, .mbox, .lists] ⊆ Ps) (hk
    : [.fabStat, .fabDiscard, .voyGctl, .voyGstat, .ctrVal] ⊆ Ks) : Only Ps Ks s0 (State.guestLost s g) := by
  unfold State.guestLost
  repeat' first
    | with_reducible assumption | exact List.Subset.trans (by decide +kernel) hp | exact hp (by decide +kernel)
    | exact List.Subset.trans (by decide +kernel) hk | exact hk (List.elem_iff.mp rfl)
    | with_reducible apply only_State_clrBit | with_reducible apply only_State_guestDrop
    | with_reducible apply only_State_raise | with_reducible apply only_State_setBit
    | with_reducible apply only_State_setGuest | with_reducible apply only_State_setGuestState
    | with_reducible apply Only.fold | intro _ _ _ | dsimp only | split
    | with_reducible apply Only.upd_guestPresent_fpDirty

theorem only_guestLinkDown {Ps : List Piece} {Ks : List RegKind} {s0 : State} (g : Nat) (s : State) (hK : Only Ps Ks
    s0 s) (hp : [.out, .fpDirty, .guestPresent, .ports, .guests, .reqs, .ic, .flog0, .flog1, .mbox, .lists] ⊆ Ps) (hk
    : [.fabStat, .fabDiscard, .voyGctl, .voyGstat, .ctrVal] ⊆ Ks) : Only Ps Ks s0 (guestLinkDown g s) := by
  unfold guestLinkDown
  repeat' first | with_reducible assumption | with_reducible apply only_State_guestLost | split

theorem only_execGuestLinkDown (guest : Fin 2) (s : State) : ∃ t, execGuestLinkDown guest s = .next t ∧ Only [.out,
    .fpDirty, .guestPresent, .ports, .guests, .reqs, .ic, .flog0, .flog1, .mbox, .lists] [.fabStat, .fabDiscard,
    .voyGctl, .voyGstat, .ctrVal] s t := by
  refine ⟨_, rfl, ?_⟩
  repeat' first | with_reducible exact Only.refl _ | decide +kernel | with_reducible apply only_guestLinkDown

theorem only_resetLink {Ps : List Piece} {Ks : List RegKind} {s0 : State} (g : Nat) (s : State) (hK : Only Ps Ks s0 s)
    (hp : [.out, .fpDirty, .guestPresent, .ports, .guests, .reqs, .ic, .flog0, .flog1, .mbox, .lists] ⊆ Ps) (hk :
    [.fabStat, .fabDiscard, .voyGctl, .voyGstat, .voyLocal, .voyPeer, .ctrVal] ⊆ Ks) : Only Ps Ks s0 (resetLink g s)
    := by
  unfold resetLink
  repeat' first
    | with_reducible assumption | exact List.Subset.trans (by decide +kernel) hp
    | exact List.Subset.trans (by decide +kernel) hk | with_reducible apply only_State_guestLost
    | with_reducible apply only_State_guestTrain | split

theorem only_execResetLink (guest : Fin 2) (s : State) : ∃ t, execResetLink guest s = .next t ∧ Only [.out, .fpDirty,
    .guestPresent, .ports, .guests, .reqs, .ic, .flog0, .flog1, .mbox, .lists] [.fabStat, .fabDiscard, .voyGctl,
    .voyGstat, .voyLocal, .voyPeer, .ctrVal] s t := by
  refine ⟨_, rfl, ?_⟩
  repeat' first | with_reducible exact Only.refl _ | decide +kernel | with_reducible apply only_resetLink

theorem only_gctlWrite {Ps : List Piece} {Ks : List RegKind} {s0 : State} (g : Nat) (v : Nat) (s : State) (hK : Only
    Ps Ks s0 s) (hp : [.out, .fpDirty, .guestPresent, .ports, .guests, .reqs, .ic, .flog0, .flog1, .mbox, .lists] ⊆
    Ps) (hk : [.fabStat, .fabDiscard, .voyGctl, .voyGstat, .voyLocal, .voyPeer, .ctrVal] ⊆ Ks) : Only Ps Ks s0
    (gctlWrite g v s) := by
  unfold gctlWrite
  repeat' first
    | with_reducible assumption | exact List.Subset.trans (by decide +kernel) hp
    | exact List.Subset.trans (by decide +kernel) hk | with_reducible apply only_State_gctlFields
    | with_reducible apply only_resetLink | dsimp only | split

/-! ### Machine/Boot.lean -/

theorem only_State_bootAdvance {Ps : List Piece} {Ks : List RegKind} {s0 : State} (s : State) (cmd : Nat) (code : Nat)
    (hK : Only Ps Ks s0 s) (hp : [.boot] ⊆ Ps) : Only Ps Ks s0 (State.bootAdvance s cmd code) := by
  unfold State.bootAdvance
  repeat' first | with_reducible assumption | with_reducible apply only_State_setBwF | split

theorem only_State_bootEnd {Ps : List Piece} {Ks : List RegKind} {s0 : State} (s : State) (cmd : Nat) (code : Nat)
    (detail : Nat) (since : Nat) (hK : Only Ps Ks s0 s) (hp : [.boot, .bootRun] ⊆ Ps) : Only Ps Ks s0 (State.bootEnd s
    cmd code detail since) := by
  unfold State.bootEnd
  repeat' first
    | with_reducible assumption | exact List.Subset.trans (by decide +kernel) hp | exact hp (by decide +kernel)
    | with_reducible apply only_State_bootAdvance | with_reducible apply only_State_setBwF | dsimp only
    | with_reducible apply Only.upd_bootRun

theorem only_State_bootCommand {Ps : List Piece} {Ks : List RegKind} {s0 : State} (s : State) (cmd : Nat) (work :
    State → BootWork) (hK : Only Ps Ks s0 s) (hwork : ∀ s, Only Ps Ks s0 s → Only Ps Ks s0 (work s).s) (hp : [.boot,
    .bootRun] ⊆ Ps) : Only Ps Ks s0 (State.bootCommand s cmd work) := by
  unfold State.bootCommand
  repeat' first
    | with_reducible assumption | exact List.Subset.trans (by decide +kernel) hp | exact hp (by decide +kernel)
    | with_reducible apply only_State_bootEnd | with_reducible apply only_State_setBwF | with_reducible apply hwork
    | dsimp only | split | with_reducible apply Only.upd_bootRun

theorem only_execReservedBootCommand (code : Byte) (s : State) : ∃ t, execReservedBootCommand code s = .next t ∧ Only
    [.boot, .bootRun] [] s t := by
  refine ⟨_, rfl, ?_⟩
  repeat' first
    | with_reducible exact Only.refl _ | decide +kernel | with_reducible apply only_State_bootEnd
    | with_reducible apply only_State_setBwF | dsimp only | split

theorem only_fusesWork {Ps : List Piece} {Ks : List RegKind} {s0 : State} (s : State) (hK : Only Ps Ks s0 s) (hp :
    [.boot, .coreState, .bankRetired] ⊆ Ps) : Only Ps Ks s0 (fusesWork s).s := by
  unfold fusesWork
  repeat' first
    | with_reducible assumption | exact List.Subset.trans (by decide +kernel) hp | exact hp (by decide +kernel)
    | with_reducible apply only_State_setBwF | dsimp only | split
    | with_reducible apply Only.upd_coreState_bankRetired

theorem only_execFuses (s : State) : ∃ t, execFuses s = .next t ∧ Only [.boot, .bootRun, .coreState, .bankRetired] []
    s t := by
  refine ⟨_, rfl, ?_⟩
  repeat' first
    | with_reducible assumption | with_reducible exact Only.refl _ | decide +kernel
    | with_reducible apply only_State_bootCommand | with_reducible apply only_fusesWork | intro _ _

theorem only_State_raiseIo {Ps : List Piece} {Ks : List RegKind} {s0 : State} (s : State) (up : Nat) (hK : Only Ps Ks
    s0 s) (hk : [.vregCtl] ⊆ Ks) : Only Ps Ks s0 (State.raiseIo s up).1 := by
  unfold State.raiseIo
  repeat' first
    | with_reducible assumption | exact hk (List.elem_iff.mp rfl) | with_reducible apply only_State_setF
    | with_reducible apply Only.fold | intro _ _ _

theorem only_State_rampTower {Ps : List Piece} {Ks : List RegKind} {s0 : State} (s : State) (t : Nat) (c : RampCause)
    (hK : Only Ps Ks s0 s) (hp : [.domains, .ic, .flog0, .flog1] ⊆ Ps) (hk : [.vregCtl, .vregStat, .vstat] ⊆ Ks) :
    Only Ps Ks s0 (State.rampTower s t c) := by
  unfold State.rampTower
  repeat' first
    | with_reducible assumption | exact List.Subset.trans (by decide +kernel) hp
    | exact List.Subset.trans (by decide +kernel) hk | exact hk (List.elem_iff.mp rfl)
    | with_reducible apply only_State_rampDone | with_reducible apply only_State_rampFail
    | with_reducible apply only_State_setBit | with_reducible apply only_State_setDom
    | with_reducible apply only_State_setF | with_reducible apply only_State_startRamp | dsimp only | split

theorem only_State_keepRegulators {Ps : List Piece} {Ks : List RegKind} {s0 : State} (s s1 : State)
    (hK : Only Ps Ks s0 s) (hs1 : Only Ps Ks s0 s1)
    (hp : [.domains, .ic, .flog0, .flog1] ⊆ Ps) (hk : [.vregCtl] ⊆ Ks) :
    Only Ps Ks s0 (s.keepRegulators s1) where
  make := hK.make
  part p n := by
    cases p <;> first | exact hK.part _ n | exact absurd (hp (by decide +kernel)) n
  reg o ho := by
    have e : s1.fuses = s.fuses := hs1.make.trans hK.make.symm
    have ne : ∀ x, (Reg.vregCtl (8 + x)).off ≠ o := fun x => ho _ (hk (List.elem_iff.mp rfl))
    have go : ∀ (l : List Nat) (g : SMap DWord), look (regReset s.fuses) (l.foldl (fun g x =>
        put (regReset s.fuses) g (Reg.vregCtl (8 + x)).off (s.reg (.vregCtl (8 + x)))) g) o = look (regReset s.fuses) g o := by
      intro l
      induction l with
      | nil => exact fun _ => rfl
      | cons x l ih => exact fun g => (ih _).trans (look_put_ne _ _ _ _ _ fun c => ne x c.symm)
    have h1 := hs1.reg o ho
    rw [e] at h1
    exact (go _ _).trans h1

theorem only_State_powerEnd {Ps : List Piece} {Ks : List RegKind} {s0 : State} (s : State) (s1 : State) (named : List
    Nat) (hK : Only Ps Ks s0 s) (hs1 : Only Ps Ks s0 s1) (hp : [.domains, .ic, .flog0, .flog1] ⊆ Ps) (hk : [.vregCtl]
    ⊆ Ks) : Only Ps Ks s0 (State.powerEnd s s1 named).s := by
  unfold State.powerEnd
  repeat' first | with_reducible assumption | with_reducible apply only_State_keepRegulators | dsimp only | split

theorem only_powerWork {Ps : List Piece} {Ks : List RegKind} {s0 : State} (ioUp : Nat) (ramps : List RampCause) (s :
    State) (hK : Only Ps Ks s0 s) (hp : [.domains, .ic, .flog0, .flog1] ⊆ Ps) (hk : [.vregCtl, .vregStat, .vstat] ⊆
    Ks) : Only Ps Ks s0 (powerWork ioUp ramps s).s := by
  unfold powerWork
  repeat' first
    | with_reducible assumption | exact List.Subset.trans (by decide +kernel) hk
    | with_reducible apply only_State_powerEnd | with_reducible apply only_State_raiseIo
    | with_reducible apply only_State_rampTower | with_reducible apply Only.fold | intro _ _ _ | dsimp only | split

theorem only_execPower (ioUp : BitVec 4) (ramps : List RampCause) (s : State) : ∃ t, execPower ioUp ramps s = .next t
    ∧ Only [.boot, .bootRun, .domains, .ic, .flog0, .flog1] [.vregCtl, .vregStat, .vstat] s t := by
  refine ⟨_, rfl, ?_⟩
  repeat' first
    | with_reducible assumption | with_reducible exact Only.refl _ | decide +kernel
    | with_reducible apply only_State_bootCommand | with_reducible apply only_powerWork | intro _ _

theorem only_State_mapOut {Ps : List Piece} {Ks : List RegKind} {s0 : State} (s : State) (n : Nat) (c : Nat) (hK :
    Only Ps Ks s0 s) (hp : [.chanMapped] ⊆ Ps) (hk : [.memChstat] ⊆ Ks) : Only Ps Ks s0 (State.mapOut s n c) := by
  unfold State.mapOut
  repeat' first
    | with_reducible assumption | exact hp (by decide +kernel) | exact hk (List.elem_iff.mp rfl)
    | with_reducible apply only_State_setF | split | with_reducible apply Only.upd_chanMapped

theorem only_State_disableCore {Ps : List Piece} {Ks : List RegKind} {s0 : State} (s : State) (k : Nat) (hK : Only Ps
    Ks s0 s) (hp : [.coreState] ⊆ Ps) : Only Ps Ks s0 (State.disableCore s k) := by
  unfold State.disableCore
  repeat' first
    | with_reducible assumption | exact hp (by decide +kernel) | split | with_reducible apply Only.upd_coreState

theorem only_State_retireBank {Ps : List Piece} {Ks : List RegKind} {s0 : State} (s : State) (k : Nat) (b : Nat) (hK :
    Only Ps Ks s0 s) (hp : [.bankRetired] ⊆ Ps) : Only Ps Ks s0 (State.retireBank s k b) := by
  unfold State.retireBank
  repeat' first | with_reducible assumption | exact hp (by decide +kernel) | with_reducible apply Only.upd_bankRetired

theorem only_State_retireTower {Ps : List Piece} {Ks : List RegKind} {s0 : State} (s : State) (t : Nat) (hK : Only Ps
    Ks s0 s) (hp : [.out, .x0Lost, .mem, .checks, .stores, .fpDirty, .coreState, .towerState, .chanMapped,
    .chanPoisoned, .cores, .beds, .domains, .ports, .guests, .reqs, .quiesced, .spanLost, .ic, .flog0, .flog1, .mbox,
    .alive, .standby, .hbActive, .hbStandby, .removing, .revocation, .engines, .xfers, .lists] ⊆ Ps) (hk :
    [.memChstat, .fabStat, .fabDiscard, .spnStat, .spnRxmap, .spnTxmap, .spnLanest, .spnDiscard, .vregCtl, .vstat,
    .ctrVal] ⊆ Ks) : Only Ps Ks s0 (State.retireTower s t) := by
  unfold State.retireTower
  repeat' first
    | with_reducible assumption | exact List.Subset.trans (by decide +kernel) hp | exact hp (by decide +kernel)
    | exact List.Subset.trans (by decide +kernel) hk | with_reducible apply only_State_disableCore
    | with_reducible apply only_State_domOff | with_reducible apply only_State_mapOut | with_reducible apply Only.fold
    | intro _ _ _ | with_reducible apply Only.upd_towerState

theorem only_State_retireSub {Ps : List Piece} {Ks : List RegKind} {s0 : State} (s : State) (d : Nat) (port : Nat)
    (sub : Nat) (hK : Only Ps Ks s0 s) (hp : [.retiredSubs, .flog0, .flog1] ⊆ Ps) (hk : [.fabStat] ⊆ Ks) : Only Ps Ks
    s0 (State.retireSub s d port sub) := by
  unfold State.retireSub
  repeat' first
    | with_reducible assumption | exact List.Subset.trans (by decide +kernel) hp | exact hp (by decide +kernel)
    | exact hk (List.elem_iff.mp rfl) | with_reducible apply only_State_countF | with_reducible apply only_State_log
    | with_reducible apply only_State_setBit | split | with_reducible apply Only.upd_retiredSubs

theorem only_State_linkUnits {Ps : List Piece} {Ks : List RegKind} {s0 : State} (s : State) (f : LinkFindings) (hK :
    Only Ps Ks s0 s) (hp : [.out, .x0Lost, .mem, .checks, .stores, .fpDirty, .coreState, .towerState, .chanMapped,
    .chanPoisoned, .cores, .beds, .domains, .ports, .guests, .reqs, .quiesced, .spanLost, .retiredSubs, .ic, .flog0,
    .flog1, .mbox, .alive, .standby, .hbActive, .hbStandby, .removing, .revocation, .engines, .xfers, .lists] ⊆ Ps)
    (hk : [.memChstat, .fabStat, .fabDiscard, .voyGctl, .voyGstat, .voyLocal, .voyPeer, .spnStat, .spnRxmap,
    .spnTxmap, .spnLanest, .spnDiscard, .vregCtl, .vstat, .ctrVal] ⊆ Ks) : Only Ps Ks s0 (State.linkUnits s f) := by
  unfold State.linkUnits
  repeat' first
    | with_reducible assumption | exact List.Subset.trans (by decide +kernel) hp
    | exact List.Subset.trans (by decide +kernel) hk | with_reducible apply only_State_guestTrain
    | with_reducible apply only_State_log | with_reducible apply only_State_mapOut
    | with_reducible apply only_State_retireSub | with_reducible apply only_State_retireTower
    | with_reducible apply Only.fold | intro _ _ _

theorem only_linksWork {Ps : List Piece} {Ks : List RegKind} {s0 : State} (f : LinkFindings) (s : State) (hK : Only Ps
    Ks s0 s) (hp : [.out, .x0Lost, .mem, .checks, .stores, .fpDirty, .coreState, .towerState, .chanMapped,
    .chanPoisoned, .cores, .beds, .domains, .ports, .guests, .reqs, .quiesced, .spanLost, .retiredSubs, .ic, .flog0,
    .flog1, .mbox, .alive, .standby, .hbActive, .hbStandby, .removing, .revocation, .engines, .xfers, .lists] ⊆ Ps)
    (hk : [.memChstat, .fabStat, .fabDiscard, .voyGctl, .voyGstat, .voyLocal, .voyPeer, .spnStat, .spnRxmap,
    .spnTxmap, .spnLanest, .spnDiscard, .vregCtl, .vstat, .ctrVal] ⊆ Ks) : Only Ps Ks s0 (linksWork f s).s := by
  unfold linksWork
  repeat' first
    | with_reducible assumption | exact List.Subset.trans (by decide +kernel) hp
    | exact List.Subset.trans (by decide +kernel) hk | with_reducible apply only_State_linkUnits
    | with_reducible apply only_State_portTrained | with_reducible apply Only.fold | intro _ _ _ | split

theorem only_execLinks (f : LinkFindings) (s : State) : ∃ t, execLinks f s = .next t ∧ Only [.out, .x0Lost, .boot,
    .bootRun, .mem, .checks, .stores, .fpDirty, .coreState, .towerState, .chanMapped, .chanPoisoned, .cores, .beds,
    .domains, .ports, .guests, .reqs, .quiesced, .spanLost, .retiredSubs, .ic, .flog0, .flog1, .mbox, .alive,
    .standby, .hbActive, .hbStandby, .removing, .revocation, .engines, .xfers, .lists] [.memChstat, .fabStat,
    .fabDiscard, .voyGctl, .voyGstat, .voyLocal, .voyPeer, .spnStat, .spnRxmap, .spnTxmap, .spnLanest, .spnDiscard,
    .vregCtl, .vstat, .ctrVal] s t := by
  refine ⟨_, rfl, ?_⟩
  repeat' first
    | with_reducible assumption | with_reducible exact Only.refl _ | decide +kernel
    | with_reducible apply only_State_bootCommand | with_reducible apply only_linksWork | intro _ _

theorem only_State_knownBad {Ps : List Piece} {Ks : List RegKind} {s0 : State} (s : State) (hK : Only Ps Ks s0 s) (hp
    : [.bankRetired, .chanMapped] ⊆ Ps) (hk : [.memChstat] ⊆ Ks) : Only Ps Ks s0 (State.knownBad s) := by
  unfold State.knownBad
  repeat' first
    | with_reducible assumption | exact List.Subset.trans (by decide +kernel) hp
    | with_reducible apply only_State_mapOut | with_reducible apply only_State_retireBank
    | with_reducible apply Only.fold | intro _ _ _ | split

theorem only_State_applyFindings {Ps : List Piece} {Ks : List RegKind} {s0 : State} (s : State) (quick : Bool) (f :
    MemFindings) (hK : Only Ps Ks s0 s) (hp : [.coreState, .bankRetired, .chanMapped] ⊆ Ps) (hk : [.memChstat] ⊆ Ks) :
    Only Ps Ks s0 (State.applyFindings s quick f) := by
  unfold State.applyFindings
  repeat' first
    | with_reducible assumption | exact List.Subset.trans (by decide +kernel) hp
    | with_reducible apply only_State_disableCore | with_reducible apply only_State_mapOut
    | with_reducible apply only_State_retireBank | with_reducible apply Only.fold | intro _ _ _ | split

theorem only_State_zeroAll {Ps : List Piece} {Ks : List RegKind} {s0 : State} (s : State) (hK : Only Ps Ks s0 s) (hp :
    [.mem, .checks, .beds, .hbm] ⊆ Ps) : Only Ps Ks s0 (State.zeroAll s) := by
  unfold State.zeroAll
  repeat' first
    | with_reducible assumption | exact List.Subset.trans (by decide +kernel) hp | exact hp (by decide +kernel)
    | with_reducible apply only_State_setBed | with_reducible apply only_State_setStack
    | with_reducible apply Only.fold | intro _ _ _ | with_reducible apply Only.upd_mem_checks

theorem only_memtestWork {Ps : List Piece} {Ks : List RegKind} {s0 : State} (f : MemFindings) (s : State) (hK : Only
    Ps Ks s0 s) (hp : [.out, .x0Lost, .mem, .checks, .stores, .fpDirty, .coreState, .towerState, .bankRetired,
    .chanMapped, .chanPoisoned, .cores, .beds, .hbm, .domains, .ports, .guests, .reqs, .quiesced, .spanLost, .ic,
    .flog0, .flog1, .mbox, .alive, .standby, .hbActive, .hbStandby, .removing, .revocation, .engines, .xfers, .lists]
    ⊆ Ps) (hk : [.memChstat, .fabStat, .fabDiscard, .spnStat, .spnRxmap, .spnTxmap, .spnLanest, .spnDiscard, .vregCtl,
    .vstat, .ctrVal] ⊆ Ks) : Only Ps Ks s0 (memtestWork f s).s := by
  unfold memtestWork
  repeat' first
    | with_reducible assumption | exact List.Subset.trans (by decide +kernel) hp
    | exact List.Subset.trans (by decide +kernel) hk | with_reducible apply only_State_applyFindings
    | with_reducible apply only_State_knownBad | with_reducible apply only_State_retireTower
    | with_reducible apply only_State_zeroAll | with_reducible apply Only.fold | intro _ _ _ | dsimp only | split

theorem only_execMemtest (f : MemFindings) (s : State) : ∃ t, execMemtest f s = .next t ∧ Only [.out, .x0Lost, .boot,
    .bootRun, .mem, .checks, .stores, .fpDirty, .coreState, .towerState, .bankRetired, .chanMapped, .chanPoisoned,
    .cores, .beds, .hbm, .domains, .ports, .guests, .reqs, .quiesced, .spanLost, .ic, .flog0, .flog1, .mbox, .alive,
    .standby, .hbActive, .hbStandby, .removing, .revocation, .engines, .xfers, .lists] [.memChstat, .fabStat,
    .fabDiscard, .spnStat, .spnRxmap, .spnTxmap, .spnLanest, .spnDiscard, .vregCtl, .vstat, .ctrVal] s t := by
  refine ⟨_, rfl, ?_⟩
  repeat' first
    | with_reducible assumption | with_reducible exact Only.refl _ | decide +kernel
    | with_reducible apply only_State_bootCommand | with_reducible apply only_memtestWork | intro _ _

theorem only_selftestWork {Ps : List Piece} {Ks : List RegKind} {s0 : State} (f : SelfFindings) (s : State) (hK : Only
    Ps Ks s0 s) (hp : [.coreState, .chanMapped] ⊆ Ps) (hk : [.memChstat] ⊆ Ks) : Only Ps Ks s0 (selftestWork f s).s :=
    by
  unfold selftestWork
  repeat' first
    | with_reducible assumption | exact List.Subset.trans (by decide +kernel) hp
    | with_reducible apply only_State_disableCore | with_reducible apply only_State_mapOut
    | with_reducible apply Only.fold | intro _ _ _

theorem only_execSelftest (f : SelfFindings) (s : State) : ∃ t, execSelftest f s = .next t ∧ Only [.boot, .bootRun,
    .coreState, .chanMapped] [.memChstat] s t := by
  refine ⟨_, rfl, ?_⟩
  repeat' first
    | with_reducible assumption | with_reducible exact Only.refl _ | decide +kernel
    | with_reducible apply only_State_bootCommand | with_reducible apply only_selftestWork | intro _ _

theorem only_State_startImage {Ps : List Piece} {Ks : List RegKind} {s0 : State} (s : State) (i : ImageFacts) (code :
    Nat) (detail : Nat) (hK : Only Ps Ks s0 s) (hp : [.fwBuild] ⊆ Ps) : Only Ps Ks s0 (State.startImage s i code
    detail).s := by
  unfold State.startImage
  repeat' first
    | with_reducible assumption | exact hp (by decide +kernel) | dsimp only | with_reducible apply Only.upd_fwBuild

theorem only_firmwareWork {Ps : List Piece} {Ks : List RegKind} {s0 : State} (a : ImageFacts) (b : ImageFacts) (s :
    State) (hK : Only Ps Ks s0 s) (hp : [.freeCtr, .fwBuild] ⊆ Ps) : Only Ps Ks s0 (firmwareWork a b s).s := by
  unfold firmwareWork
  repeat' first
    | with_reducible assumption | exact List.Subset.trans (by decide +kernel) hp
    | with_reducible apply only_State_bumpFree | with_reducible apply only_State_startImage | dsimp only | split

theorem only_execFirmware (first : ImageFacts) (second : ImageFacts) (s : State) : ∃ t, execFirmware first second s =
    .next t ∧ Only [.freeCtr, .boot, .bootRun, .fwBuild] [] s t := by
  refine ⟨_, rfl, ?_⟩
  repeat' first
    | with_reducible assumption | with_reducible exact Only.refl _ | decide +kernel
    | with_reducible apply only_State_bootCommand | with_reducible apply only_firmwareWork | intro _ _

theorem only_State_grantMailbox {Ps : List Piece} {Ks : List RegKind} {s0 : State} (s : State) (t : Nat) (base : Nat)
    (hK : Only Ps Ks s0 s) (hp : [.freeCtr, .leases] ⊆ Ps) : Only Ps Ks s0 (State.grantMailbox s t base) := by
  unfold State.grantMailbox
  repeat' first
    | with_reducible assumption | exact List.Subset.trans (by decide +kernel) hp
    | with_reducible apply only_State_bumpFree | with_reducible apply only_State_grant

theorem only_State_firmwareUp {Ps : List Piece} {Ks : List RegKind} {s0 : State} (s : State) (hK : Only Ps Ks s0 s)
    (hp : [.freeCtr, .alive, .hbActive, .fwDead, .leases] ⊆ Ps) : Only Ps Ks s0 (State.firmwareUp s) := by
  unfold State.firmwareUp
  repeat' first
    | with_reducible assumption | exact List.Subset.trans (by decide +kernel) hp | exact hp (by decide +kernel)
    | with_reducible apply only_State_grantMailbox | with_reducible apply Only.fold | intro _ _ _
    | with_reducible apply Only.upd_alive_hbActive_fwDead

theorem only_fwStartTimeout {Ps : List Piece} {Ks : List RegKind} {s0 : State} (s : State) (hK : Only Ps Ks s0 s) (hp
    : [.boot, .bootRun, .fwBuild] ⊆ Ps) : Only Ps Ks s0 (fwStartTimeout s) := by
  unfold fwStartTimeout
  repeat' first
    | with_reducible assumption | exact List.Subset.trans (by decide +kernel) hp | exact hp (by decide +kernel)
    | with_reducible apply only_State_bootEnd | split | with_reducible apply Only.upd_fwBuild

theorem only_execFwStartTimeout (s : State) : ∃ t, execFwStartTimeout s = .next t ∧ Only [.boot, .bootRun, .fwBuild]
    [] s t := by
  refine ⟨_, rfl, ?_⟩
  repeat' first | with_reducible exact Only.refl _ | decide +kernel | with_reducible apply only_fwStartTimeout

theorem only_State_writeRoutes {Ps : List Piece} {Ks : List RegKind} {s0 : State} (s : State) (d : List Byte) (hK :
    Only Ps Ks s0 s) (hk : [.spnPrt, .spnCtl] ⊆ Ks) : Only Ps Ks s0 (State.writeRoutes s d) := by
  unfold State.writeRoutes
  repeat' first
    | with_reducible assumption | exact hk (List.elem_iff.mp rfl) | with_reducible apply only_State_setF
    | with_reducible apply only_State_setReg | with_reducible apply Only.fold | intro _ _ _

theorem only_State_applyBin {Ps : List Piece} {Ks : List RegKind} {s0 : State} (s : State) (hK : Only Ps Ks s0 s) (hp
    : [.freeCtr, .beds, .thermal, .capIo, .capTc, .spanLost, .vCeiling, .pkgCap] ⊆ Ps) (hk : [.bedMode, .env, .vgov] ⊆
    Ks) : Only Ps Ks s0 (State.applyBin s) := by
  unfold State.applyBin
  repeat' first
    | with_reducible assumption | exact List.Subset.trans (by decide +kernel) hp | exact hp (by decide +kernel)
    | exact List.Subset.trans (by decide +kernel) hk | with_reducible apply only_State_bedModeWrite
    | with_reducible apply only_State_bumpFree | with_reducible apply only_State_govern
    | with_reducible apply only_State_recomputeCaps | with_reducible apply only_State_setTherm
    | with_reducible apply Only.fold | intro _ _ _ | with_reducible apply Only.upd_pkgCap_vCeiling_spanLost

theorem only_publishWork {Ps : List Piece} {Ks : List RegKind} {s0 : State} (route : List Byte) (s : State) (hK : Only
    Ps Ks s0 s) (hp : [.freeCtr, .fplan, .fpDirty, .published, .beds, .thermal, .capIo, .capTc, .spanLost, .mbox,
    .vCeiling, .pkgCap] ⊆ Ps) (hk : [.bedMode, .spnPrt, .spnCtl, .env, .vgov] ⊆ Ks) : Only Ps Ks s0 (publishWork route
    s).s := by
  unfold publishWork
  repeat' first
    | with_reducible assumption | exact List.Subset.trans (by decide +kernel) hp
    | exact List.Subset.trans (by decide +kernel) hk | with_reducible apply only_State_applyBin
    | with_reducible apply only_State_publishRecord | with_reducible apply only_State_writeRoutes | dsimp only | split

theorem only_execPublish (route : List Byte) (s : State) : ∃ t, execPublish route s = .next t ∧ Only [.freeCtr, .boot,
    .bootRun, .fplan, .fpDirty, .published, .beds, .thermal, .capIo, .capTc, .spanLost, .mbox, .vCeiling, .pkgCap]
    [.bedMode, .spnPrt, .spnCtl, .env, .vgov] s t := by
  refine ⟨_, rfl, ?_⟩
  repeat' first
    | with_reducible assumption | with_reducible exact Only.refl _ | decide +kernel
    | with_reducible apply only_State_bootCommand | with_reducible apply only_publishWork | intro _ _

theorem only_towerOffWork {Ps : List Piece} {Ks : List RegKind} {s0 : State} (s : State) (hK : Only Ps Ks s0 s) (hp :
    [.mem, .checks, .stores, .fpDirty, .coreState, .towerState, .chanPoisoned, .cores, .beds, .domains, .thermal,
    .capIo, .capTc, .flog0, .flog1, .fatal, .mbox, .leases, .engines, .xfers, .lists, .progress, .watchdogs] ⊆ Ps) (hk
    : [.fabStat, .env, .vgov, .vstat] ⊆ Ks) : Only Ps Ks s0 (towerOffWork s).s := by
  unfold towerOffWork
  repeat' first | with_reducible assumption | with_reducible apply only_State_towerLoss | dsimp only | split

theorem only_execTowerOff (s : State) : ∃ t, execTowerOff s = .next t ∧ Only [.boot, .bootRun, .mem, .checks, .stores,
    .fpDirty, .coreState, .towerState, .chanPoisoned, .cores, .beds, .domains, .thermal, .capIo, .capTc, .flog0,
    .flog1, .fatal, .mbox, .leases, .engines, .xfers, .lists, .progress, .watchdogs] [.fabStat, .env, .vgov, .vstat] s
    t := by
  refine ⟨_, rfl, ?_⟩
  repeat' first
    | with_reducible assumption | with_reducible exact Only.refl _ | decide +kernel
    | with_reducible apply only_State_bootCommand | with_reducible apply only_towerOffWork | intro _ _

theorem only_bootStepComplete {Ps : List Piece} {Ks : List RegKind} {s0 : State} (s : State) (hK : Only Ps Ks s0 s)
    (hp : [.freeCtr, .boot, .bootRun, .alive, .hbActive, .fwDead, .leases] ⊆ Ps) : Only Ps Ks s0 (bootStepComplete s)
    := by
  unfold bootStepComplete
  repeat' first
    | with_reducible assumption | exact List.Subset.trans (by decide +kernel) hp
    | with_reducible apply only_State_bootEnd | with_reducible apply only_State_firmwareUp | split

theorem only_execBootStepComplete (s : State) : ∃ t, execBootStepComplete s = .next t ∧ Only [.freeCtr, .boot,
    .bootRun, .alive, .hbActive, .fwDead, .leases] [] s t := by
  refine ⟨_, rfl, ?_⟩
  repeat' first | with_reducible exact Only.refl _ | decide +kernel | with_reducible apply only_bootStepComplete

theorem only_State_bootCmdWrite {Ps : List Piece} {Ks : List RegKind} {s0 : State} (s : State) (c : Nat) (hK : Only Ps
    Ks s0 s) (hp : [.boot, .bootRun, .mem, .checks, .stores, .fpDirty, .coreState, .towerState, .bankRetired,
    .chanPoisoned, .cores, .beds, .domains, .thermal, .capIo, .capTc, .flog0, .flog1, .fatal, .mbox, .leases,
    .engines, .xfers, .lists, .progress, .watchdogs] ⊆ Ps) (hk : [.fabStat, .env, .vgov, .vstat] ⊆ Ks) : Only Ps Ks s0
    (State.bootCmdWrite s c) := by
  unfold State.bootCmdWrite
  repeat' first
    | with_reducible assumption | exact List.Subset.trans (by decide +kernel) hp
    | with_reducible apply only_State_bootCommand | with_reducible apply only_State_bootEnd
    | with_reducible apply only_State_setBwF | with_reducible apply only_fusesWork
    | with_reducible apply only_towerOffWork | intro _ _ | split

theorem only_State_bootWrite {Ps : List Piece} {Ks : List RegKind} {s0 : State} (s : State) (o : Nat) (v : Nat) (hK :
    Only Ps Ks s0 s) (hp : [.boot, .bootRun, .mem, .checks, .stores, .fpDirty, .coreState, .towerState, .bankRetired,
    .chanPoisoned, .cores, .beds, .domains, .thermal, .capIo, .capTc, .flog0, .flog1, .fatal, .mbox, .leases,
    .engines, .xfers, .lists, .progress, .watchdogs] ⊆ Ps) (hk : [.fabStat, .env, .vgov, .vstat] ⊆ Ks) : Only Ps Ks s0
    (State.bootWrite s o v) := by
  unfold State.bootWrite
  repeat' first
    | with_reducible assumption | exact List.Subset.trans (by decide +kernel) hp
    | with_reducible apply only_State_accessError | with_reducible apply only_State_bootCmdWrite
    | with_reducible apply only_State_setBw | with_reducible apply only_State_setBwF | split

/-! ### Machine/Tenants.lean -/

theorem only_heartbeatReload {Ps : List Piece} {Ks : List RegKind} {s0 : State} (s : State) (hK : Only Ps Ks s0 s) (hp
    : [.hbActive, .hbStandby] ⊆ Ps) : Only Ps Ks s0 (heartbeatReload s) := by
  unfold heartbeatReload
  repeat' first
    | with_reducible assumption | exact hp (by decide +kernel) | split | with_reducible apply Only.upd_hbActive
    | with_reducible apply Only.upd_hbStandby

theorem only_execHeartbeatReload (s : State) : ∃ t, execHeartbeatReload s = .next t ∧ Only [.hbActive, .hbStandby] []
    s t := by
  refine ⟨_, rfl, ?_⟩
  repeat' first | with_reducible exact Only.refl _ | decide +kernel | with_reducible apply only_heartbeatReload

theorem only_heartbeatTimeout {Ps : List Piece} {Ks : List RegKind} {s0 : State} (s : State) (hK : Only Ps Ks s0 s)
    (hp : [.ic, .flog0, .flog1, .fatal, .mbox, .alive, .hbActive, .hbStandby] ⊆ Ps) : Only Ps Ks s0 (heartbeatTimeout
    s) := by
  unfold heartbeatTimeout
  repeat' first
    | with_reducible assumption | exact List.Subset.trans (by decide +kernel) hp | exact hp (by decide +kernel)
    | with_reducible apply only_State_log | with_reducible apply only_State_setFatal | dsimp only | split
    | with_reducible apply Only.upd_ic_alive_hbActive_hbStandby

theorem only_execHeartbeatTimeout (s : State) : ∃ t, execHeartbeatTimeout s = .next t ∧ Only [.ic, .flog0, .flog1,
    .fatal, .mbox, .alive, .hbActive, .hbStandby] [] s t := by
  refine ⟨_, rfl, ?_⟩
  repeat' first | with_reducible exact Only.refl _ | decide +kernel | with_reducible apply only_heartbeatTimeout

theorem only_failover {Ps : List Piece} {Ks : List RegKind} {s0 : State} (s : State) (hK : Only Ps Ks s0 s) (hp :
    [.fplan, .fpDirty, .published, .mbox, .alive, .standby, .hbStandby, .failovers, .segs, .keys, .leases, .engines,
    .xfers, .zeroing, .progress, .watchdogs] ⊆ Ps) : Only Ps Ks s0 (failover s) := by
  unfold failover
  repeat' first
    | with_reducible assumption | exact List.Subset.trans (by decide +kernel) hp | exact hp (by decide +kernel)
    | with_reducible apply only_State_notifyAll | with_reducible apply only_State_publishRecord
    | with_reducible apply only_State_revokeAll | with_reducible apply Only.fold | intro _ _ _ | dsimp only | split
    | with_reducible apply Only.upd_alive_standby_hbStandby_failovers

theorem only_execFailover (s : State) : ∃ t, execFailover s = .next t ∧ Only [.fplan, .fpDirty, .published, .mbox,
    .alive, .standby, .hbStandby, .failovers, .segs, .keys, .leases, .engines, .xfers, .zeroing, .progress,
    .watchdogs] [] s t := by
  refine ⟨_, rfl, ?_⟩
  repeat' first | with_reducible exact Only.refl _ | decide +kernel | with_reducible apply only_failover

theorem only_standbyHeartbeatTimeout {Ps : List Piece} {Ks : List RegKind} {s0 : State} (s : State) (hK : Only Ps Ks
    s0 s) (hp : [.flog0, .flog1, .fatal, .mbox, .alive, .hbStandby, .fwDead] ⊆ Ps) : Only Ps Ks s0
    (standbyHeartbeatTimeout s) := by
  unfold standbyHeartbeatTimeout
  repeat' first
    | with_reducible assumption | exact List.Subset.trans (by decide +kernel) hp | exact hp (by decide +kernel)
    | with_reducible apply only_State_log | with_reducible apply only_State_setFatal | dsimp only | split
    | with_reducible apply Only.upd_alive_fwDead_hbStandby

theorem only_execStandbyHeartbeatTimeout (s : State) : ∃ t, execStandbyHeartbeatTimeout s = .next t ∧ Only [.flog0,
    .flog1, .fatal, .mbox, .alive, .hbStandby, .fwDead] [] s t := by
  refine ⟨_, rfl, ?_⟩
  repeat' first
    | with_reducible exact Only.refl _ | decide +kernel | with_reducible apply only_standbyHeartbeatTimeout

theorem only_State_revokeTenant {Ps : List Piece} {Ks : List RegKind} {s0 : State} (s : State) (t : Nat) (hK : Only Ps
    Ks s0 s) (hp : [.flog0, .flog1, .mbox, .segs, .keys, .leases, .engines, .xfers, .zeroing, .progress, .watchdogs] ⊆
    Ps) (hk : [.lseStat] ⊆ Ks) : Only Ps Ks s0 (State.revokeTenant s t) := by
  unfold State.revokeTenant
  repeat' first
    | with_reducible assumption | exact List.Subset.trans (by decide +kernel) hp | exact hp (by decide +kernel)
    | exact hk (List.elem_iff.mp rfl) | with_reducible apply only_State_log
    | with_reducible apply only_State_revokeAll | with_reducible apply only_State_setBit
    | with_reducible apply only_State_setF | dsimp only | split | with_reducible apply Only.upd_zeroing_xfers

theorem only_State_beginReset {Ps : List Piece} {Ks : List RegKind} {s0 : State} (s : State) (t : Nat) (hK : Only Ps
    Ks s0 s) (hp : [.cores, .thermal, .flog0, .flog1, .mbox, .segs, .keys, .leases, .engines, .xfers, .zeroing,
    .lists, .progress, .watchdogs] ⊆ Ps) (hk : [.vgov, .lseStat] ⊆ Ks) : Only Ps Ks s0 (State.beginReset s t) := by
  unfold State.beginReset
  repeat' first
    | with_reducible assumption | exact List.Subset.trans (by decide +kernel) hp
    | exact List.Subset.trans (by decide +kernel) hk | with_reducible apply only_State_revokeTenant
    | with_reducible apply only_State_setMb | with_reducible apply only_State_stopList
    | with_reducible apply Only.fold | intro _ _ _ | split

theorem only_State_dropEntries {Ps : List Piece} {Ks : List RegKind} {s0 : State} (s : State) (t : Nat) (hK : Only Ps
    Ks s0 s) (hp : [.segs, .zeroing] ⊆ Ps) : Only Ps Ks s0 (State.dropEntries s t) := by
  unfold State.dropEntries
  repeat' first
    | with_reducible assumption | exact List.Subset.trans (by decide +kernel) hp
    | with_reducible apply only_State_clearSeg | with_reducible apply only_State_queueZero
    | with_reducible apply Only.fold | intro _ _ _ | split

theorem only_State_clearCore {Ps : List Piece} {Ks : List RegKind} {s0 : State} (s : State) (k : Nat) (hK : Only Ps Ks
    s0 s) (hp : [.mem, .stores, .cores, .beds, .ic] ⊆ Ps) (hk : [.qsctl, .qswin, .qselem, .qstot, .qsstat, .bedStatus,
    .bedDonecnt] ⊆ Ks) : Only Ps Ks s0 (State.clearCore s k) := by
  unfold State.clearCore
  repeat' first
    | with_reducible assumption | exact List.Subset.trans (by decide +kernel) hp | exact hp (by decide +kernel)
    | exact List.Subset.trans (by decide +kernel) hk | with_reducible apply only_State_bedClear
    | with_reducible apply only_State_qsClear | with_reducible apply only_State_setCoreUnit
    | with_reducible apply Only.upd_stores

theorem only_State_dropSelections {Ps : List Piece} {Ks : List RegKind} {s0 : State} (s : State) (k : Nat) (hK : Only
    Ps Ks s0 s) (hk : [.ctrSel] ⊆ Ks) : Only Ps Ks s0 (State.dropSelections s k) := by
  unfold State.dropSelections
  repeat' first
    | with_reducible assumption | exact hk (List.elem_iff.mp rfl) | with_reducible apply only_State_setReg
    | with_reducible apply Only.fold | intro _ _ _

theorem only_State_endReset {Ps : List Piece} {Ks : List RegKind} {s0 : State} (s : State) (t : Nat) (hK : Only Ps Ks
    s0 s) (hp : [.mem, .stores, .cores, .beds, .ic, .mbox, .segs, .removing, .keys, .zeroing, .vFloor, .clamps,
    .progress, .watchdogs] ⊆ Ps) (hk : [.qsctl, .qswin, .qselem, .qstot, .qsstat, .bedStatus, .bedDonecnt, .vgov,
    .detNondet, .ctrSel] ⊆ Ks) : Only Ps Ks s0 (State.endReset s t) := by
  unfold State.endReset
  repeat' first
    | with_reducible assumption | exact List.Subset.trans (by decide +kernel) hp | exact hp (by decide +kernel)
    | exact List.Subset.trans (by decide +kernel) hk | exact hk (List.elem_iff.mp rfl)
    | with_reducible apply only_State_clearCore | with_reducible apply only_State_dropEntries
    | with_reducible apply only_State_dropSelections | with_reducible apply only_State_govern
    | with_reducible apply only_State_setMb | with_reducible apply only_State_setReg
    | with_reducible apply only_segmentRemoval | with_reducible apply Only.fold | intro _ _ _ | dsimp only
    | with_reducible apply Only.upd_keys_vFloor_clamps_progress_watchdogs

theorem only_State_answerResets {Ps : List Piece} {Ks : List RegKind} {s0 : State} (s : State) (j : ResetJob) (hK :
    Only Ps Ks s0 s) (hp : [.mbox, .progress, .watchdogs] ⊆ Ps) : Only Ps Ks s0 (State.answerResets s j) := by
  unfold State.answerResets
  repeat' first
    | with_reducible assumption | with_reducible apply only_State_complete | with_reducible apply Only.fold
    | intro _ _ _

theorem only_State_settleReset {Ps : List Piece} {Ks : List RegKind} {s0 : State} (s : State) (j : ResetJob) (hK :
    Only Ps Ks s0 s) (hp : [.mem, .stores, .cores, .beds, .thermal, .ic, .flog0, .flog1, .mbox, .resets, .segs,
    .removing, .keys, .leases, .engines, .xfers, .zeroing, .lists, .vFloor, .clamps, .progress, .watchdogs] ⊆ Ps) (hk
    : [.qsctl, .qswin, .qselem, .qstot, .qsstat, .bedStatus, .bedDonecnt, .vgov, .detNondet, .lseStat, .ctrSel] ⊆ Ks)
    : Only Ps Ks s0 (State.settleReset s j) := by
  unfold State.settleReset
  repeat' first
    | with_reducible assumption | exact List.Subset.trans (by decide +kernel) hp | exact hp (by decide +kernel)
    | exact List.Subset.trans (by decide +kernel) hk | with_reducible apply only_State_answerResets
    | with_reducible apply only_State_beginReset | with_reducible apply only_State_endReset
    | with_reducible apply only_State_release | with_reducible apply only_State_setMb | dsimp only | split
    | with_reducible apply Only.upd_resets

theorem only_State_settleVfs {Ps : List Piece} {Ks : List RegKind} {s0 : State} (s : State) (hK : Only Ps Ks s0 s) (hp
    : [.freeCtr, .numVfs, .vfEnable, .vfPending, .leases] ⊆ Ps) : Only Ps Ks s0 (State.settleVfs s) := by
  unfold State.settleVfs
  repeat' first
    | with_reducible assumption | exact List.Subset.trans (by decide +kernel) hp | exact hp (by decide +kernel)
    | with_reducible apply only_State_grantMailbox | with_reducible apply Only.fold | intro _ _ _ | dsimp only | split
    | with_reducible apply Only.upd_numVfs_vfEnable_vfPending

theorem only_State_settleResets {Ps : List Piece} {Ks : List RegKind} {s0 : State} (s : State) (hK : Only Ps Ks s0 s)
    (hp : [.freeCtr, .mem, .stores, .cores, .beds, .thermal, .ic, .flog0, .flog1, .mbox, .numVfs, .vfEnable,
    .vfPending, .resets, .segs, .removing, .keys, .leases, .engines, .xfers, .zeroing, .lists, .vFloor, .clamps,
    .progress, .watchdogs] ⊆ Ps) (hk : [.qsctl, .qswin, .qselem, .qstot, .qsstat, .bedStatus, .bedDonecnt, .vgov,
    .detNondet, .lseStat, .ctrSel] ⊆ Ks) : Only Ps Ks s0 (State.settleResets s) := by
  unfold State.settleResets
  repeat' first
    | with_reducible assumption | exact List.Subset.trans (by decide +kernel) hp
    | with_reducible apply only_State_settleReset | with_reducible apply only_State_settleVfs
    | with_reducible apply Only.fold | intro _ _ _ | split

theorem only_State_askReset {Ps : List Piece} {Ks : List RegKind} {s0 : State} (s : State) (t : Nat) (tag : Option
    Nat) (vanish : Bool) (hK : Only Ps Ks s0 s) (hp : [.freeCtr, .mem, .stores, .cores, .beds, .thermal, .ic, .flog0,
    .flog1, .mbox, .numVfs, .vfEnable, .vfPending, .resets, .segs, .removing, .keys, .leases, .engines, .xfers,
    .zeroing, .lists, .vFloor, .clamps, .progress, .watchdogs] ⊆ Ps) (hk : [.qsctl, .qswin, .qselem, .qstot, .qsstat,
    .bedStatus, .bedDonecnt, .vgov, .detNondet, .lseStat, .ctrSel] ⊆ Ks) : Only Ps Ks s0 (State.askReset s t tag
    vanish) := by
  unfold State.askReset
  repeat' first
    | with_reducible assumption | exact hp (by decide +kernel) | with_reducible apply only_State_settleResets
    | dsimp only | split | with_reducible apply Only.upd_resets

theorem only_tenantResetAct {Ps : List Piece} {Ks : List RegKind} {s0 : State} (x : Slip) (s : State) (hK : Only Ps Ks
    s0 s) (hp : [.freeCtr, .mem, .stores, .cores, .beds, .thermal, .ic, .flog0, .flog1, .mbox, .numVfs, .vfEnable,
    .vfPending, .resets, .segs, .removing, .keys, .leases, .engines, .xfers, .zeroing, .lists, .vFloor, .clamps,
    .progress, .watchdogs] ⊆ Ps) (hk : [.qsctl, .qswin, .qselem, .qstot, .qsstat, .bedStatus, .bedDonecnt, .vgov,
    .detNondet, .lseStat, .ctrSel] ⊆ Ks) : Only Ps Ks s0 (tenantResetAct x s) := by
  unfold tenantResetAct
  repeat' first
    | with_reducible assumption | exact List.Subset.trans (by decide +kernel) hp
    | with_reducible apply only_State_answer | with_reducible apply only_State_askReset | dsimp only | split

theorem only_execTenantReset (slip : Slip) (s : State) : ∃ t, execTenantReset slip s = .next t ∧ Only [.freeCtr, .mem,
    .stores, .cores, .beds, .thermal, .ic, .flog0, .flog1, .mbox, .numVfs, .vfEnable, .vfPending, .resets, .segs,
    .removing, .keys, .leases, .engines, .xfers, .zeroing, .lists, .vFloor, .clamps, .progress, .watchdogs] [.qsctl,
    .qswin, .qselem, .qstot, .qsstat, .bedStatus, .bedDonecnt, .vgov, .detNondet, .lseStat, .ctrSel] s t := by
  refine ⟨_, rfl, ?_⟩
  repeat' first
    | with_reducible assumption | with_reducible exact Only.refl _ | decide +kernel
    | with_reducible apply only_State_withSlip | with_reducible apply only_tenantResetAct | intro _ _

theorem only_functionLevelReset {Ps : List Piece} {Ks : List RegKind} {s0 : State} (t : Nat) (s : State) (hK : Only Ps
    Ks s0 s) (hp : [.freeCtr, .mem, .stores, .cores, .beds, .thermal, .ic, .flog0, .flog1, .mbox, .numVfs, .vfEnable,
    .vfPending, .resets, .segs, .removing, .keys, .leases, .engines, .xfers, .zeroing, .lists, .vFloor, .clamps,
    .progress, .watchdogs] ⊆ Ps) (hk : [.qsctl, .qswin, .qselem, .qstot, .qsstat, .bedStatus, .bedDonecnt, .vgov,
    .detNondet, .lseStat, .ctrSel] ⊆ Ks) : Only Ps Ks s0 (functionLevelReset t s) := by
  unfold functionLevelReset
  repeat' first
    | with_reducible assumption | exact List.Subset.trans (by decide +kernel) hp | exact hp (by decide +kernel)
    | exact List.Subset.trans (by decide +kernel) hk | with_reducible apply only_State_askReset
    | with_reducible apply only_State_govern | with_reducible apply only_State_setMb | with_reducible apply Only.fold
    | intro _ _ _ | dsimp only | split | with_reducible apply Only.upd_clamps_vFloor

theorem only_execFunctionLevelReset (tenant : BitVec 10) (s : State) : ∃ t, execFunctionLevelReset tenant s = .next t
    ∧ Only [.freeCtr, .mem, .stores, .cores, .beds, .thermal, .ic, .flog0, .flog1, .mbox, .numVfs, .vfEnable,
    .vfPending, .resets, .segs, .removing, .keys, .leases, .engines, .xfers, .zeroing, .lists, .vFloor, .clamps,
    .progress, .watchdogs] [.qsctl, .qswin, .qselem, .qstot, .qsstat, .bedStatus, .bedDonecnt, .vgov, .detNondet,
    .lseStat, .ctrSel] s t := by
  refine ⟨_, rfl, ?_⟩
  repeat' first | with_reducible exact Only.refl _ | decide +kernel | with_reducible apply only_functionLevelReset

theorem only_numvfsChange {Ps : List Piece} {Ks : List RegKind} {s0 : State} (n : Nat) (e : Bool) (s : State) (hK :
    Only Ps Ks s0 s) (hp : [.freeCtr, .mem, .stores, .cores, .beds, .thermal, .ic, .flog0, .flog1, .mbox, .numVfs,
    .vfEnable, .vfPending, .resets, .segs, .removing, .keys, .leases, .engines, .xfers, .zeroing, .lists, .vFloor,
    .clamps, .progress, .watchdogs] ⊆ Ps) (hk : [.qsctl, .qswin, .qselem, .qstot, .qsstat, .bedStatus, .bedDonecnt,
    .vgov, .detNondet, .lseStat, .ctrSel] ⊆ Ks) : Only Ps Ks s0 (numvfsChange n e s) := by
  unfold numvfsChange
  repeat' first
    | with_reducible assumption | exact List.Subset.trans (by decide +kernel) hp | exact hp (by decide +kernel)
    | with_reducible apply only_State_settleResets | with_reducible apply only_State_settleVfs | dsimp only | split
    | with_reducible apply Only.upd_mbox_vfPending | with_reducible apply Only.upd_vfPending_resets

theorem only_execNumvfsChange (numVfs : BitVec 16) (vfEnable : Bool) (s : State) : ∃ t, execNumvfsChange numVfs
    vfEnable s = .next t ∧ Only [.freeCtr, .mem, .stores, .cores, .beds, .thermal, .ic, .flog0, .flog1, .mbox,
    .numVfs, .vfEnable, .vfPending, .resets, .segs, .removing, .keys, .leases, .engines, .xfers, .zeroing, .lists,
    .vFloor, .clamps, .progress, .watchdogs] [.qsctl, .qswin, .qselem, .qstot, .qsstat, .bedStatus, .bedDonecnt,
    .vgov, .detNondet, .lseStat, .ctrSel] s t := by
  refine ⟨_, rfl, ?_⟩
  repeat' first | with_reducible exact Only.refl _ | decide +kernel | with_reducible apply only_numvfsChange

theorem only_execTimebaseTick (s : State) : ∃ t, execTimebaseTick s = .next t ∧ Only [.freeCtr, .now, .tb, .mem,
    .stores, .cores, .beds, .thermal, .capIo, .capTc, .ic, .flog0, .flog1, .mbox, .numVfs, .vfEnable, .vfPending,
    .resets, .segs, .removing, .keys, .leases, .engines, .xfers, .zeroing, .lists, .vFloor, .clamps, .progress,
    .watchdogs] [.qsctl, .qswin, .qselem, .qstot, .qsstat, .bedStatus, .bedDonecnt, .vregMeas, .vinStat, .env, .vgov,
    .pkgPower, .detNondet, .lseStat, .ctrSel] s t := by
  refine ⟨_, rfl, ?_⟩
  repeat' first
    | with_reducible exact Only.refl _ | decide +kernel | with_reducible apply only_State_measure
    | with_reducible apply only_State_settleResets | with_reducible apply only_tbTick | split

/-! ### Machine/Sched.lean -/

theorem only_State_placeOn {Ps : List Piece} {Ks : List RegKind} {s0 : State} (s : State) (t : Nat) (k : Nat) (hK :
    Only Ps Ks s0 s) (hp : [.mem, .stores, .cores, .beds, .ic] ⊆ Ps) (hk : [.qsctl, .qswin, .qselem, .qstot, .qsstat,
    .bedStatus, .bedDonecnt] ⊆ Ks) : Only Ps Ks s0 (State.placeOn s t k) := by
  unfold State.placeOn
  repeat' first
    | with_reducible assumption | exact List.Subset.trans (by decide +kernel) hp
    | with_reducible apply only_State_clearCore | with_reducible apply only_State_setCoreUnit | split

theorem only_State_watch {Ps : List Piece} {Ks : List RegKind} {s0 : State} (s : State) (t : Nat) (hK : Only Ps Ks s0
    s) (hp : [.progress, .watchdogs] ⊆ Ps) : Only Ps Ks s0 (State.watch s t) := by
  unfold State.watch
  repeat' first
    | with_reducible assumption | exact hp (by decide +kernel) | dsimp only | split
    | with_reducible apply Only.upd_progress_watchdogs

theorem only_State_admit {Ps : List Piece} {Ks : List RegKind} {s0 : State} (s : State) (l : WorkList) (h : Header)
    (hK : Only Ps Ks s0 s) (hp : [.mem, .stores, .cores, .beds, .ic, .lists, .progress, .watchdogs] ⊆ Ps) (hk :
    [.qsctl, .qswin, .qselem, .qstot, .qsstat, .bedStatus, .bedDonecnt, .vgov] ⊆ Ks) : Only Ps Ks s0 (State.admitList s l
    h) := by
  unfold State.admitList
  repeat' first
    | with_reducible assumption | exact List.Subset.trans (by decide +kernel) hp
    | exact List.Subset.trans (by decide +kernel) hk | with_reducible apply only_State_govern
    | with_reducible apply only_State_placeOn | with_reducible apply only_State_setList
    | with_reducible apply only_State_watch | with_reducible apply Only.fold | intro _ _ _

theorem only_State_failHeader {Ps : List Piece} {Ks : List RegKind} {s0 : State} (s : State) (l : WorkList) (st : Nat)
    (hK : Only Ps Ks s0 s) (hp : [.thermal, .mbox, .lists, .progress, .watchdogs] ⊆ Ps) (hk : [.vgov] ⊆ Ks) : Only Ps
    Ks s0 (State.failHeader s l st) := by
  unfold State.failHeader
  repeat' first
    | with_reducible assumption | exact List.Subset.trans (by decide +kernel) hp
    | with_reducible apply only_State_completeList | with_reducible apply only_State_setList

theorem only_listAdmission {Ps : List Piece} {Ks : List RegKind} {s0 : State} (s : State) (hK : Only Ps Ks s0 s) (hp :
    [.mem, .stores, .cores, .beds, .thermal, .ic, .mbox, .lists, .progress, .watchdogs] ⊆ Ps) (hk : [.qsctl, .qswin,
    .qselem, .qstot, .qsstat, .bedStatus, .bedDonecnt, .vgov] ⊆ Ks) : Only Ps Ks s0 (listAdmission s) := by
  unfold listAdmission
  repeat' first
    | with_reducible assumption | exact List.Subset.trans (by decide +kernel) hp
    | exact List.Subset.trans (by decide +kernel) hk | with_reducible apply only_State_admit
    | with_reducible apply only_State_failHeader | split

theorem only_execListAdmission (s : State) : ∃ t, execListAdmission s = .next t ∧ Only [.mem, .stores, .cores, .beds,
    .thermal, .ic, .mbox, .lists, .progress, .watchdogs] [.qsctl, .qswin, .qselem, .qstot, .qsstat, .bedStatus,
    .bedDonecnt, .vgov] s t := by
  refine ⟨_, rfl, ?_⟩
  repeat' first | with_reducible exact Only.refl _ | decide +kernel | with_reducible apply only_listAdmission

theorem only_State_preemptForList {Ps : List Piece} {Ks : List RegKind} {s0 : State} (s : State) (hK : Only Ps Ks s0
    s) (hp : [.cores, .lists] ⊆ Ps) : Only Ps Ks s0 (State.preemptForList s) := by
  unfold State.preemptForList
  repeat' first
    | with_reducible assumption | with_reducible apply only_State_preempt | with_reducible apply Only.fold
    | intro _ _ _ | dsimp only | split

theorem only_State_preemptForTower {Ps : List Piece} {Ks : List RegKind} {s0 : State} (s : State) (t : Nat) (hK : Only
    Ps Ks s0 s) (hp : [.cores, .thermal, .lists] ⊆ Ps) : Only Ps Ks s0 (State.preemptForTower s t) := by
  unfold State.preemptForTower
  repeat' first
    | with_reducible assumption | exact List.Subset.trans (by decide +kernel) hp
    | with_reducible apply only_State_preempt | with_reducible apply only_State_setTherm | dsimp only | split

theorem only_powerPreemption {Ps : List Piece} {Ks : List RegKind} {s0 : State} (s : State) (hK : Only Ps Ks s0 s) (hp
    : [.cores, .thermal, .lists] ⊆ Ps) : Only Ps Ks s0 (powerPreemption s) := by
  unfold powerPreemption
  repeat' first
    | with_reducible assumption | exact List.Subset.trans (by decide +kernel) hp
    | with_reducible apply only_State_preemptForList | with_reducible apply only_State_preemptForTower
    | with_reducible apply Only.fold | intro _ _ _ | split

theorem only_execPowerPreemption (s : State) : ∃ t, execPowerPreemption s = .next t ∧ Only [.cores, .thermal, .lists]
    [] s t := by
  refine ⟨_, rfl, ?_⟩
  repeat' first | with_reducible exact Only.refl _ | decide +kernel | with_reducible apply only_powerPreemption

theorem only_stackIdlePause {Ps : List Piece} {Ks : List RegKind} {s0 : State} (s : State) (hK : Only Ps Ks s0 s) (hp
    : [.cores, .lists, .pauseUntil, .lastPause] ⊆ Ps) : Only Ps Ks s0 (stackIdlePause s) := by
  unfold stackIdlePause
  repeat' first
    | with_reducible assumption | exact List.Subset.trans (by decide +kernel) hp | exact hp (by decide +kernel)
    | with_reducible apply only_State_preempt | with_reducible apply Only.fold | intro _ _ _ | dsimp only | split
    | with_reducible apply Only.upd_lastPause_pauseUntil

theorem only_execStackIdlePause (s : State) : ∃ t, execStackIdlePause s = .next t ∧ Only [.cores, .lists, .pauseUntil,
    .lastPause] [] s t := by
  refine ⟨_, rfl, ?_⟩
  repeat' first | with_reducible exact Only.refl _ | decide +kernel | with_reducible apply only_stackIdlePause

theorem only_execIdlePowerMeasurement (tower : Fin 8) (mean : BitVec 16) (s : State) : ∃ t, execIdlePowerMeasurement
    tower mean s = .next t ∧ Only [.thermal] [] s t := by
  refine ⟨_, rfl, ?_⟩
  repeat' first
    | with_reducible exact Only.refl _ | decide +kernel | with_reducible apply only_State_setTherm | dsimp only
    | split

theorem only_bankLimitUpdate {Ps : List Piece} {Ks : List RegKind} {s0 : State} (k : Nat) (s : State) (hK : Only Ps Ks
    s0 s) (hp : [.beds] ⊆ Ps) (hk : [.bedQuota, .bedTiming0, .bedTiming1] ⊆ Ks) : Only Ps Ks s0 (bankLimitUpdate k s)
    := by
  unfold bankLimitUpdate
  repeat' first
    | with_reducible assumption | exact hk (List.elem_iff.mp rfl) | with_reducible apply only_State_plainWrite
    | with_reducible apply only_State_setBed | dsimp only | split

theorem only_execBankLimitUpdate (core : Fin 64) (s : State) : ∃ t, execBankLimitUpdate core s = .next t ∧ Only
    [.beds] [.bedQuota, .bedTiming0, .bedTiming1] s t := by
  refine ⟨_, rfl, ?_⟩
  repeat' first | with_reducible exact Only.refl _ | decide +kernel | with_reducible apply only_bankLimitUpdate

theorem only_State_setPolicy {Ps : List Piece} {Ks : List RegKind} {s0 : State} (s : State) (tenant : Nat) (item :
    Nat) (v : Nat) (ts : List Nat) (hK : Only Ps Ks s0 s) (hp : [.beds, .capIo, .capTc, .vCeiling, .bankMode, .pkgCap,
    .rthInterval, .preemptWait, .stackIdle, .vFloor] ⊆ Ps) (hk : [.bedMode, .env, .vgov] ⊆ Ks) : Only Ps Ks s0
    (State.setPolicy s tenant item v ts) := by
  unfold State.setPolicy
  repeat' first
    | with_reducible assumption | exact List.Subset.trans (by decide +kernel) hp | exact hp (by decide +kernel)
    | exact List.Subset.trans (by decide +kernel) hk | with_reducible apply only_State_bedModeWrite
    | with_reducible apply only_State_govern | with_reducible apply only_State_recomputeCaps
    | with_reducible apply Only.fold | intro _ _ _ | split | with_reducible apply Only.upd_bankMode
    | with_reducible apply Only.upd_pkgCap | with_reducible apply Only.upd_preemptWait
    | with_reducible apply Only.upd_rthInterval | with_reducible apply Only.upd_stackIdle
    | with_reducible apply Only.upd_vCeiling | with_reducible apply Only.upd_vFloor

theorem only_policyAct {Ps : List Piece} {Ks : List RegKind} {s0 : State} (x : Slip) (s : State) (hK : Only Ps Ks s0
    s) (hp : [.beds, .capIo, .capTc, .mbox, .vCeiling, .bankMode, .pkgCap, .rthInterval, .preemptWait, .stackIdle,
    .vFloor, .clamps, .progress, .watchdogs] ⊆ Ps) (hk : [.bedMode, .env, .vgov] ⊆ Ks) : Only Ps Ks s0 (policyAct x s)
    := by
  unfold policyAct
  repeat' first
    | with_reducible assumption | exact List.Subset.trans (by decide +kernel) hp | exact hp (by decide +kernel)
    | with_reducible apply only_State_answer | with_reducible apply only_State_notify
    | with_reducible apply only_State_setPolicy | dsimp only | split | with_reducible apply Only.upd_clamps

theorem only_execPolicy (slip : Slip) (s : State) : ∃ t, execPolicy slip s = .next t ∧ Only [.beds, .capIo, .capTc,
    .mbox, .vCeiling, .bankMode, .pkgCap, .rthInterval, .preemptWait, .stackIdle, .vFloor, .clamps, .progress,
    .watchdogs] [.bedMode, .env, .vgov] s t := by
  refine ⟨_, rfl, ?_⟩
  repeat' first
    | with_reducible assumption | with_reducible exact Only.refl _ | decide +kernel
    | with_reducible apply only_State_withSlip | with_reducible apply only_policyAct | intro _ _

/-! ### Machine/Observe.lean -/

theorem only_countersReadAct {Ps : List Piece} {Ks : List RegKind} {s0 : State} (x : Slip) (hostOk : Bool) (s : State)
    (hK : Only Ps Ks s0 s) (hp : [.out, .mbox, .progress, .watchdogs] ⊆ Ps) : Only Ps Ks s0 (countersReadAct x hostOk
    s) := by
  unfold countersReadAct
  repeat' first
    | with_reducible assumption | exact List.Subset.trans (by decide +kernel) hp
    | with_reducible apply only_State_answer | with_reducible apply only_State_emit | split

theorem only_execCountersRead (slip : Slip) (hostOk : Bool) (s : State) : ∃ t, execCountersRead slip hostOk s = .next
    t ∧ Only [.out, .mbox, .progress, .watchdogs] [] s t := by
  refine ⟨_, rfl, ?_⟩
  repeat' first
    | with_reducible assumption | with_reducible exact Only.refl _ | decide +kernel
    | with_reducible apply only_State_withSlip | with_reducible apply only_countersReadAct | intro _ _ | split

theorem only_State_selectCounter {Ps : List Piece} {Ks : List RegKind} {s0 : State} (s : State) (u : Nat) (n : Nat)
    (event : Nat) (hK : Only Ps Ks s0 s) (hk : [.ctrSel, .ctrVal] ⊆ Ks) : Only Ps Ks s0 (State.selectCounter s u n
    event) := by
  unfold State.selectCounter
  repeat' first
    | with_reducible assumption | exact hk (List.elem_iff.mp rfl) | with_reducible apply only_State_setF
    | with_reducible apply only_State_setReg

theorem only_countersSelectAct {Ps : List Piece} {Ks : List RegKind} {s0 : State} (x : Slip) (u : Nat) (s : State) (hK
    : Only Ps Ks s0 s) (hp : [.mbox, .progress, .watchdogs] ⊆ Ps) (hk : [.ctrSel, .ctrVal] ⊆ Ks) : Only Ps Ks s0
    (countersSelectAct x u s) := by
  unfold countersSelectAct
  repeat' first
    | with_reducible assumption | with_reducible apply only_State_answer
    | with_reducible apply only_State_selectCounter | split

theorem only_execCountersSelect (slip : Slip) (s : State) : ∃ t, execCountersSelect slip s = .next t ∧ Only [.mbox,
    .progress, .watchdogs] [.ctrSel, .ctrVal] s t := by
  refine ⟨_, rfl, ?_⟩
  repeat' first
    | with_reducible assumption | with_reducible exact Only.refl _ | decide +kernel
    | with_reducible apply only_State_answer | with_reducible apply only_State_withSlip
    | with_reducible apply only_countersSelectAct | intro _ _ | split

theorem only_execCtrSelWrite (unit : CtrUnit) (n : Fin 16) (value : Word) (s : State) : ∃ t, execCtrSelWrite unit n
    value s = .next t ∧ Only [] [.ctrSel, .ctrVal] s t := by
  refine ⟨_, rfl, ?_⟩
  repeat' first
    | with_reducible exact Only.refl _ | decide +kernel | with_reducible apply only_State_selectCounter | split

theorem only_State_setDrops {Ps : List Piece} {Ks : List RegKind} {s0 : State} (s : State) (t : Nat) (l : List Nat)
    (hK : Only Ps Ks s0 s) (hp : [.traceDrops] ⊆ Ps) : Only Ps Ks s0 (State.setDrops s t l) := by
  unfold State.setDrops
  repeat' first | with_reducible assumption | exact hp (by decide +kernel) | with_reducible apply Only.upd_traceDrops

theorem only_State_traceStore {Ps : List Piece} {Ks : List RegKind} {s0 : State} (s : State) (t : Nat) (bs : List
    Byte) (hK : Only Ps Ks s0 s) (hp : [.mem, .checks, .fpDirty, .chanPoisoned, .hbm, .ic, .flog0, .flog1, .mbox] ⊆
    Ps) (hk : [.bedCe, .bedUe, .bedLastue, .memStat, .memInject, .memChstat, .memChce, .memChue, .memChpoison,
    .fabStat, .fabDiscard, .trcWr, .ctrVal] ⊆ Ks) : Only Ps Ks s0 (State.traceStore s t bs) := by
  unfold State.traceStore
  repeat' first
    | with_reducible assumption | exact List.Subset.trans (by decide +kernel) hk | exact hk (List.elem_iff.mp rfl)
    | with_reducible apply only_State_setF | with_reducible apply only_State_writeMem

theorem only_State_traceDrop {Ps : List Piece} {Ks : List RegKind} {s0 : State} (s : State) (t : Nat) (hK : Only Ps Ks
    s0 s) (hp : [.traceDrops] ⊆ Ps) (hk : [.trcDrop] ⊆ Ks) : Only Ps Ks s0 (State.traceDrop s t) := by
  unfold State.traceDrop
  repeat' first
    | with_reducible assumption | exact hk (List.elem_iff.mp rfl) | with_reducible apply only_State_countF
    | with_reducible apply only_State_setDrops

theorem only_State_traceLoss {Ps : List Piece} {Ks : List RegKind} {s0 : State} (s : State) (t : Nat) (hK : Only Ps Ks
    s0 s) (hp : [.mem, .checks, .fpDirty, .chanPoisoned, .hbm, .ic, .flog0, .flog1, .mbox, .traceDrops, .lossRecords]
    ⊆ Ps) (hk : [.bedCe, .bedUe, .bedLastue, .memStat, .memInject, .memChstat, .memChce, .memChue, .memChpoison,
    .fabStat, .fabDiscard, .trcWr, .ctrVal] ⊆ Ks) : Only Ps Ks s0 (State.traceLoss s t) := by
  unfold State.traceLoss
  repeat' first
    | with_reducible assumption | exact List.Subset.trans (by decide +kernel) hp | exact hp (by decide +kernel)
    | with_reducible apply only_State_setDrops | with_reducible apply only_State_traceStore | dsimp only | split
    | with_reducible apply Only.upd_lossRecords

theorem only_State_traceWrite {Ps : List Piece} {Ks : List RegKind} {s0 : State} (s : State) (t : Nat) (bs : List
    Byte) (hK : Only Ps Ks s0 s) (hp : [.mem, .checks, .fpDirty, .chanPoisoned, .hbm, .ic, .flog0, .flog1, .mbox,
    .traceDrops, .lossRecords] ⊆ Ps) (hk : [.bedCe, .bedUe, .bedLastue, .memStat, .memInject, .memChstat, .memChce,
    .memChue, .memChpoison, .fabStat, .fabDiscard, .trcWr, .trcDrop, .ctrVal] ⊆ Ks) : Only Ps Ks s0 (State.traceWrite
    s t bs) := by
  unfold State.traceWrite
  repeat' first
    | with_reducible assumption | exact List.Subset.trans (by decide +kernel) hp
    | exact List.Subset.trans (by decide +kernel) hk | with_reducible apply only_State_traceDrop
    | with_reducible apply only_State_traceLoss | with_reducible apply only_State_traceStore | dsimp only | split

theorem only_traceRecord {Ps : List Piece} {Ks : List RegKind} {s0 : State} (t : Nat) (r : TraceBody) (s : State) (hK
    : Only Ps Ks s0 s) (hp : [.mem, .checks, .fpDirty, .chanPoisoned, .hbm, .ic, .flog0, .flog1, .mbox, .traceDrops,
    .lossRecords] ⊆ Ps) (hk : [.bedCe, .bedUe, .bedLastue, .memStat, .memInject, .memChstat, .memChce, .memChue,
    .memChpoison, .fabStat, .fabDiscard, .trcWr, .trcDrop, .ctrVal] ⊆ Ks) : Only Ps Ks s0 (traceRecord t r s) := by
  unfold traceRecord
  repeat' first | with_reducible assumption | with_reducible apply only_State_traceWrite | split

theorem only_execTraceRecord (tower : Fin 8) (r : TraceBody) (s : State) : ∃ t, execTraceRecord tower r s = .next t ∧
    Only [.mem, .checks, .fpDirty, .chanPoisoned, .hbm, .ic, .flog0, .flog1, .mbox, .traceDrops, .lossRecords]
    [.bedCe, .bedUe, .bedLastue, .memStat, .memInject, .memChstat, .memChce, .memChue, .memChpoison, .fabStat,
    .fabDiscard, .trcWr, .trcDrop, .ctrVal] s t := by
  refine ⟨_, rfl, ?_⟩
  repeat' first | with_reducible exact Only.refl _ | decide +kernel | with_reducible apply only_traceRecord

theorem only_traceStartAct {Ps : List Piece} {Ks : List RegKind} {s0 : State} (x : Slip) (s : State) (hK : Only Ps Ks
    s0 s) (hp : [.mbox, .segs, .progress, .watchdogs, .traceDrops, .lossRecords] ⊆ Ps) (hk : [.trcWr, .trcRd,
    .trcDrop, .trcClass] ⊆ Ks) : Only Ps Ks s0 (traceStartAct x s) := by
  unfold traceStartAct
  repeat' first
    | with_reducible assumption | exact List.Subset.trans (by decide +kernel) hp | exact hp (by decide +kernel)
    | exact hk (List.elem_iff.mp rfl) | with_reducible apply only_State_answer
    | with_reducible apply only_State_setDrops | with_reducible apply only_State_setReg
    | with_reducible apply only_State_setSeg | with_reducible apply Only.fold | intro _ _ _ | dsimp only | split
    | with_reducible apply Only.upd_lossRecords

theorem only_execTraceStart (slip : Slip) (s : State) : ∃ t, execTraceStart slip s = .next t ∧ Only [.mbox, .segs,
    .progress, .watchdogs, .traceDrops, .lossRecords] [.trcWr, .trcRd, .trcDrop, .trcClass] s t := by
  refine ⟨_, rfl, ?_⟩
  repeat' first
    | with_reducible assumption | with_reducible exact Only.refl _ | decide +kernel
    | with_reducible apply only_State_withSlip | with_reducible apply only_traceStartAct | intro _ _ | split

theorem only_traceStopAct {Ps : List Piece} {Ks : List RegKind} {s0 : State} (x : Slip) (s : State) (hK : Only Ps Ks
    s0 s) (hp : [.mbox, .progress, .watchdogs] ⊆ Ps) (hk : [.trcClass] ⊆ Ks) : Only Ps Ks s0 (traceStopAct x s) := by
  unfold traceStopAct
  repeat' first
    | with_reducible assumption | exact hk (List.elem_iff.mp rfl) | with_reducible apply only_State_answer
    | with_reducible apply only_State_setReg | with_reducible apply Only.fold | intro _ _ _ | dsimp only | split

theorem only_execTraceStop (slip : Slip) (s : State) : ∃ t, execTraceStop slip s = .next t ∧ Only [.mbox, .progress,
    .watchdogs] [.trcClass] s t := by
  refine ⟨_, rfl, ?_⟩
  repeat' first
    | with_reducible assumption | with_reducible exact Only.refl _ | decide +kernel
    | with_reducible apply only_State_withSlip | with_reducible apply only_traceStopAct | intro _ _ | split

theorem only_State_traceFlush {Ps : List Piece} {Ks : List RegKind} {s0 : State} (s : State) (t : Nat) (hK : Only Ps
    Ks s0 s) (hp : [.freeCtr, .mem, .checks, .fpDirty, .chanPoisoned, .hbm, .ic, .flog0, .flog1, .mbox, .traceDrops,
    .lossRecords] ⊆ Ps) (hk : [.bedCe, .bedUe, .bedLastue, .memStat, .memInject, .memChstat, .memChce, .memChue,
    .memChpoison, .fabStat, .fabDiscard, .trcWr, .trcDrop, .ctrVal] ⊆ Ks) : Only Ps Ks s0 (State.traceFlush s t) := by
  unfold State.traceFlush
  repeat' first
    | with_reducible assumption | exact List.Subset.trans (by decide +kernel) hp
    | with_reducible apply only_State_bumpFree | with_reducible apply only_State_traceWrite

theorem only_traceFlushAct {Ps : List Piece} {Ks : List RegKind} {s0 : State} (x : Slip) (s : State) (hK : Only Ps Ks
    s0 s) (hp : [.freeCtr, .mem, .checks, .fpDirty, .chanPoisoned, .hbm, .ic, .flog0, .flog1, .mbox, .progress,
    .watchdogs, .traceDrops, .lossRecords] ⊆ Ps) (hk : [.bedCe, .bedUe, .bedLastue, .memStat, .memInject, .memChstat,
    .memChce, .memChue, .memChpoison, .fabStat, .fabDiscard, .trcWr, .trcDrop, .ctrVal] ⊆ Ks) : Only Ps Ks s0
    (traceFlushAct x s) := by
  unfold traceFlushAct
  repeat' first
    | with_reducible assumption | exact List.Subset.trans (by decide +kernel) hp
    | with_reducible apply only_State_answer | with_reducible apply only_State_traceFlush
    | with_reducible apply Only.fold | intro _ _ _ | dsimp only | split

theorem only_execTraceFlush (slip : Slip) (s : State) : ∃ t, execTraceFlush slip s = .next t ∧ Only [.freeCtr, .mem,
    .checks, .fpDirty, .chanPoisoned, .hbm, .ic, .flog0, .flog1, .mbox, .progress, .watchdogs, .traceDrops,
    .lossRecords] [.bedCe, .bedUe, .bedLastue, .memStat, .memInject, .memChstat, .memChce, .memChue, .memChpoison,
    .fabStat, .fabDiscard, .trcWr, .trcDrop, .ctrVal] s t := by
  refine ⟨_, rfl, ?_⟩
  repeat' first
    | with_reducible assumption | with_reducible exact Only.refl _ | decide +kernel
    | with_reducible apply only_State_withSlip | with_reducible apply only_traceFlushAct | intro _ _ | split

theorem only_State_breakCycles {Ps : List Piece} {Ks : List RegKind} {s0 : State} (s : State) (cs : List (List Nat ×
    WorkList × Op)) (hK : Only Ps Ks s0 s) (hp : [.flog0, .flog1, .lists] ⊆ Ps) : Only Ps Ks s0 (State.breakCycles s
    cs) := by
  unfold State.breakCycles
  repeat' first
    | with_reducible assumption | exact List.Subset.trans (by decide +kernel) hp
    | with_reducible apply only_State_finishOp | with_reducible apply only_State_log | with_reducible apply Only.fold
    | intro _ _ _

theorem only_waitgraphAct {Ps : List Piece} {Ks : List RegKind} {s0 : State} (x : Slip) (hostOk : Bool) (s : State)
    (hK : Only Ps Ks s0 s) (hp : [.out, .flog0, .flog1, .mbox, .lists, .progress, .watchdogs] ⊆ Ps) : Only Ps Ks s0
    (waitgraphAct x hostOk s) := by
  unfold waitgraphAct
  repeat' first
    | with_reducible assumption | exact List.Subset.trans (by decide +kernel) hp
    | with_reducible apply only_State_answer | with_reducible apply only_State_breakCycles
    | with_reducible apply only_State_emit | dsimp only | split

theorem only_execWaitgraph (slip : Slip) (hostOk : Bool) (s : State) : ∃ t, execWaitgraph slip hostOk s = .next t ∧
    Only [.out, .flog0, .flog1, .mbox, .lists, .progress, .watchdogs] [] s t := by
  refine ⟨_, rfl, ?_⟩
  repeat' first
    | with_reducible assumption | with_reducible exact Only.refl _ | decide +kernel
    | with_reducible apply only_State_withSlip | with_reducible apply only_waitgraphAct | intro _ _

theorem only_tenantWatchdog {Ps : List Piece} {Ks : List RegKind} {s0 : State} (t : Nat) (s : State) (hK : Only Ps Ks
    s0 s) (hp : [.ic, .flog0, .flog1, .lists, .progress, .watchdogs] ⊆ Ps) : Only Ps Ks s0 (tenantWatchdog t s) := by
  unfold tenantWatchdog
  repeat' first
    | with_reducible assumption | exact List.Subset.trans (by decide +kernel) hp | exact hp (by decide +kernel)
    | with_reducible apply only_State_breakCycles | with_reducible apply only_State_raise | dsimp only | split
    | with_reducible apply Only.upd_progress_watchdogs

theorem only_execTenantWatchdog (tenant : BitVec 10) (s : State) : ∃ t, execTenantWatchdog tenant s = .next t ∧ Only
    [.ic, .flog0, .flog1, .lists, .progress, .watchdogs] [] s t := by
  refine ⟨_, rfl, ?_⟩
  repeat' first | with_reducible exact Only.refl _ | decide +kernel | with_reducible apply only_tenantWatchdog

theorem only_watchdogWaitEnd {Ps : List Piece} {Ks : List RegKind} {s0 : State} (t : Nat) (s : State) (hK : Only Ps Ks
    s0 s) (hp : [.flog0, .flog1, .lists, .watchdogs] ⊆ Ps) : Only Ps Ks s0 (watchdogWaitEnd t s) := by
  unfold watchdogWaitEnd
  repeat' first
    | with_reducible assumption | exact List.Subset.trans (by decide +kernel) hp | exact hp (by decide +kernel)
    | with_reducible apply only_State_finishOp | with_reducible apply only_State_log | with_reducible apply Only.fold
    | intro _ _ _ | dsimp only | split | with_reducible apply Only.upd_watchdogs

theorem only_execWatchdogWaitEnd (tenant : BitVec 10) (s : State) : ∃ t, execWatchdogWaitEnd tenant s = .next t ∧ Only
    [.flog0, .flog1, .lists, .watchdogs] [] s t := by
  refine ⟨_, rfl, ?_⟩
  repeat' first | with_reducible exact Only.refl _ | decide +kernel | with_reducible apply only_watchdogWaitEnd

theorem only_coreSample {Ps : List Piece} {Ks : List RegKind} {s0 : State} (s : State) (hK : Only Ps Ks s0 s) (hp :
    [.sampling] ⊆ Ps) (hk : [.csStat] ⊆ Ks) : Only Ps Ks s0 (coreSample s) := by
  unfold coreSample
  repeat' first
    | with_reducible assumption | exact hp (by decide +kernel) | exact hk (List.elem_iff.mp rfl)
    | with_reducible apply only_State_setBit | dsimp only | split | with_reducible apply Only.upd_sampling

theorem only_execCoreSample (s : State) : ∃ t, execCoreSample s = .next t ∧ Only [.sampling] [.csStat] s t := by
  refine ⟨_, rfl, ?_⟩
  repeat' first | with_reducible exact Only.refl _ | decide +kernel | with_reducible apply only_coreSample

theorem only_coreSampleComplete {Ps : List Piece} {Ks : List RegKind} {s0 : State} (ok : Bool) (size : Nat) (s :
    State) (hK : Only Ps Ks s0 s) (hp : [.out, .sampling] ⊆ Ps) (hk : [.csStat] ⊆ Ks) : Only Ps Ks s0
    (coreSampleComplete ok size s) := by
  unfold coreSampleComplete
  repeat' first
    | with_reducible assumption | exact List.Subset.trans (by decide +kernel) hp | exact hp (by decide +kernel)
    | exact hk (List.elem_iff.mp rfl) | with_reducible apply only_State_clrBit | with_reducible apply only_State_emit
    | with_reducible apply only_State_setBit | with_reducible apply only_State_setF | dsimp only | split
    | with_reducible apply Only.upd_sampling

theorem only_execCoreSampleComplete (ok : Bool) (size : BitVec 29) (s : State) : ∃ t, execCoreSampleComplete ok size s
    = .next t ∧ Only [.out, .sampling] [.csStat] s t := by
  refine ⟨_, rfl, ?_⟩
  repeat' first | with_reducible exact Only.refl _ | decide +kernel | with_reducible apply only_coreSampleComplete

theorem only_indicatorCheck {Ps : List Piece} {Ks : List RegKind} {s0 : State} (n : Nat) (lampOpen : Bool) (s : State)
    (hK : Only Ps Ks s0 s) (hp : [.lampCheck] ⊆ Ps) (hk : [.indStat] ⊆ Ks) : Only Ps Ks s0 (indicatorCheck n lampOpen
    s) := by
  unfold indicatorCheck
  repeat' first
    | with_reducible assumption | exact hp (by decide +kernel) | exact hk (List.elem_iff.mp rfl)
    | with_reducible apply only_State_clrBit | with_reducible apply only_State_countF
    | with_reducible apply only_State_setBit | dsimp only | split | with_reducible apply Only.upd_lampCheck

theorem only_execIndicatorTestPulse (lamp : Fin 4) (lampOpen : Bool) (s : State) : ∃ t, execIndicatorTestPulse lamp
    lampOpen s = .next t ∧ Only [.lampCheck] [.indStat] s t := by
  refine ⟨_, rfl, ?_⟩
  repeat' first | with_reducible exact Only.refl _ | decide +kernel | with_reducible apply only_indicatorCheck

theorem only_State_indCtlWrite {Ps : List Piece} {Ks : List RegKind} {s0 : State} (s : State) (n : Nat) (v : DWord)
    (hK : Only Ps Ks s0 s) (hp : [.lampCheck] ⊆ Ps) (hk : [.indCtl] ⊆ Ks) : Only Ps Ks s0 (State.indCtlWrite s n v) :=
    by
  unfold State.indCtlWrite
  repeat' first
    | with_reducible assumption | exact hp (by decide +kernel) | exact hk (List.elem_iff.mp rfl)
    | with_reducible apply only_State_plainWrite | dsimp only | split | with_reducible apply Only.upd_lampCheck

theorem only_execBypass (tdi : Bool) (s : State) : ∃ t, execBypass tdi s = .next t ∧ Only [.out] [] s t := by
  refine ⟨_, rfl, ?_⟩
  repeat' first | with_reducible exact Only.refl _ | decide +kernel | with_reducible apply only_State_emit | split

theorem only_execIdcode (s : State) : ∃ t, execIdcode s = .next t ∧ Only [.out] [] s t := by
  refine ⟨_, rfl, ?_⟩
  repeat' first | with_reducible exact Only.refl _ | decide +kernel | with_reducible apply only_State_emit | split

theorem only_execSamplePreload (s : State) : ∃ t, execSamplePreload s = .next t ∧ Only [.out, .freeCtr] [] s t := by
  refine ⟨_, rfl, ?_⟩
  repeat' first
    | with_reducible exact Only.refl _ | decide +kernel | with_reducible apply only_State_bumpFree
    | with_reducible apply only_State_emit | split

/-! ### Machine/Access.lean -/

theorem only_State_wordRead {Ps : List Piece} {Ks : List RegKind} {s0 : State} (s : State) (o : Nat) (hK : Only Ps Ks
    s0 s) (hp : [.out, .ic] ⊆ Ps) : Only Ps Ks s0 (State.wordRead s o).1 := by
  unfold State.wordRead
  repeat' first | with_reducible assumption | with_reducible apply only_icAckStep | split

theorem only_State_wordsRead {Ps : List Piece} {Ks : List RegKind} {s0 : State} (s : State) (o : Nat) (fuel : Nat) (hK
    : Only Ps Ks s0 s) (hp : [.out, .ic] ⊆ Ps) : Only Ps Ks s0 (State.wordsRead s o fuel).1 := by
  induction fuel generalizing s o with
  | zero => exact hK
  | succ n ih =>
    unfold State.wordsRead
    repeat' first | with_reducible apply ih | with_reducible assumption | with_reducible apply only_State_wordRead

theorem only_State_regsRead {Ps : List Piece} {Ks : List RegKind} {s0 : State} (s : State) (o : Nat) (n : Nat) (node :
    Nat) (tenant : Nat) (addr : Nat) (hK : Only Ps Ks s0 s) (hp : [.out, .ic, .flog0, .flog1] ⊆ Ps) : Only Ps Ks s0
    (State.regsRead s o n node tenant addr).1 := by
  unfold State.regsRead
  repeat' first
    | with_reducible assumption | exact List.Subset.trans (by decide +kernel) hp
    | with_reducible apply only_State_accessError | with_reducible apply only_State_wordsRead | dsimp only | split

theorem only_State_flogStatWrite {Ps : List Piece} {Ks : List RegKind} {s0 : State} (s : State) (x : Nat) (w : Nat)
    (hK : Only Ps Ks s0 s) (hp : [.flog0, .flog1] ⊆ Ps) : Only Ps Ks s0 (State.flogStatWrite s x w) := by
  unfold State.flogStatWrite
  repeat' first
    | with_reducible assumption | exact hp (by decide +kernel) | dsimp only | split
    | with_reducible apply Only.upd_flog0 | with_reducible apply Only.upd_flog1

theorem only_State_regWrite {Ps : List Piece} {Ks : List RegKind} {s0 : State} (s : State) (r : Reg) (v : DWord)
    (standby : Bool) (hK : Only Ps Ks s0 s) (hr : r.kind ∈ Ks) (hp : [.out, .freeCtr, .tb, .x0Lost, .mem, .checks,
    .stores, .fpDirty, .chanPoisoned, .guestPresent, .cores, .beds, .domains, .ports, .guests, .reqs, .quiesced,
    .spanLost, .ic, .flog0, .flog1, .mbox, .alive, .standby, .hbActive, .hbStandby, .segs, .removing, .keys, .leases,
    .revocation, .engines, .xfers, .zeroing, .lists, .progress, .watchdogs, .sampling, .lampCheck] ⊆ Ps) (hk :
    RegKind.all ⊆ Ks) : Only Ps Ks s0 (State.regWrite s r v standby) := by
  unfold State.regWrite
  repeat' first
    | with_reducible assumption | exact List.Subset.trans (by decide +kernel) hp | exact hp (by decide +kernel)
    | exact List.Subset.trans (by decide +kernel) hk | with_reducible apply only_State_bedCtlWrite
    | with_reducible apply only_State_bedModeWrite | with_reducible apply only_State_flogStatWrite
    | with_reducible apply only_State_indCtlWrite | with_reducible apply only_State_plainWrite
    | with_reducible apply only_State_qsctlWrite | with_reducible apply only_State_qsstatWrite
    | with_reducible apply only_State_selectCounter | with_reducible apply only_State_vregWrite
    | with_reducible apply only_coreSample | with_reducible apply only_flogClear | with_reducible apply only_gctlWrite
    | with_reducible apply only_icEoiStep | with_reducible apply only_lseRevokeWrite
    | with_reducible apply only_spnCtlWrite | dsimp only | split | with_reducible apply Only.upd_ic
    | with_reducible apply Only.upd_tb

theorem only_State_wordsWrite {Ps : List Piece} {Ks : List RegKind} {s0 : State} (s : State) (o : Nat) (bs : List
    Byte) (node : Nat) (tenant : Nat) (addr : Nat) (standby : Bool) (fuel : Nat) (hK : Only Ps Ks s0 s) (hp : [.out,
    .freeCtr, .tb, .x0Lost, .mem, .checks, .stores, .fpDirty, .chanPoisoned, .guestPresent, .cores, .beds, .domains,
    .ports, .guests, .reqs, .quiesced, .spanLost, .ic, .flog0, .flog1, .mbox, .alive, .standby, .hbActive, .hbStandby,
    .segs, .removing, .keys, .leases, .revocation, .engines, .xfers, .zeroing, .lists, .progress, .watchdogs,
    .sampling, .lampCheck] ⊆ Ps) (hk : RegKind.all ⊆ Ks) : Only Ps Ks s0 (State.wordsWrite s o bs node tenant addr
    standby fuel) := by
  induction fuel generalizing s o bs node tenant addr standby with
  | zero => exact hK
  | succ n ih =>
    unfold State.wordsWrite
    repeat' first
      | with_reducible apply ih | with_reducible assumption | exact List.Subset.trans (by decide +kernel) hp
      | exact hk (RegKind.mem_all _) | with_reducible apply only_State_accessError
      | with_reducible apply only_State_regWrite | split

theorem only_State_regsWrite {Ps : List Piece} {Ks : List RegKind} {s0 : State} (s : State) (o : Nat) (bs : List Byte)
    (node : Nat) (tenant : Nat) (addr : Nat) (standby : Bool) (hK : Only Ps Ks s0 s) (hp : [.out, .freeCtr, .tb,
    .x0Lost, .mem, .checks, .stores, .fpDirty, .chanPoisoned, .guestPresent, .cores, .beds, .domains, .ports, .guests,
    .reqs, .quiesced, .spanLost, .ic, .flog0, .flog1, .mbox, .alive, .standby, .hbActive, .hbStandby, .segs,
    .removing, .keys, .leases, .revocation, .engines, .xfers, .zeroing, .lists, .progress, .watchdogs, .sampling,
    .lampCheck] ⊆ Ps) (hk : RegKind.all ⊆ Ks) : Only Ps Ks s0 (State.regsWrite s o bs node tenant addr standby) := by
  unfold State.regsWrite
  repeat' first
    | with_reducible assumption | exact List.Subset.trans (by decide +kernel) hp
    | with_reducible apply only_State_accessError | with_reducible apply only_State_wordsWrite | split

theorem only_State_discardAt {Ps : List Piece} {Ks : List RegKind} {s0 : State} (s : State) (die : Nat) (reason : Nat)
    (tenant : Nat) (addr : Nat) (hK : Only Ps Ks s0 s) (hp : [.ic, .flog0, .flog1] ⊆ Ps) (hk : [.fabStat, .fabDiscard]
    ⊆ Ks) : Only Ps Ks s0 (State.discardAt s die reason tenant addr) := by
  unfold State.discardAt
  repeat' first
    | with_reducible assumption | exact List.Subset.trans (by decide +kernel) hp | exact hk (List.elem_iff.mp rfl)
    | with_reducible apply only_State_countF | with_reducible apply only_State_log
    | with_reducible apply only_State_raise | with_reducible apply only_State_setBit | dsimp only | split

theorem only_State_bootWords {Ps : List Piece} {Ks : List RegKind} {s0 : State} (s : State) (o : Nat) (bs : List Byte)
    (fuel : Nat) (hK : Only Ps Ks s0 s) (hp : [.boot, .bootRun, .mem, .checks, .stores, .fpDirty, .coreState,
    .towerState, .bankRetired, .chanPoisoned, .cores, .beds, .domains, .thermal, .capIo, .capTc, .flog0, .flog1,
    .fatal, .mbox, .leases, .engines, .xfers, .lists, .progress, .watchdogs] ⊆ Ps) (hk : [.fabStat, .env, .vgov,
    .vstat] ⊆ Ks) : Only Ps Ks s0 (State.bootWords s o bs fuel) := by
  induction fuel generalizing s o bs with
  | zero => exact hK
  | succ n ih =>
    unfold State.bootWords
    repeat' first
      | with_reducible apply ih | with_reducible assumption | exact List.Subset.trans (by decide +kernel) hp
      | with_reducible apply only_State_accessError | with_reducible apply only_State_bootWrite | split

theorem only_State_bootWriteBytes {Ps : List Piece} {Ks : List RegKind} {s0 : State} (s : State) (o : Nat) (bs : List
    Byte) (hK : Only Ps Ks s0 s) (hp : [.boot, .bootRun, .mem, .checks, .stores, .fpDirty, .coreState, .towerState,
    .bankRetired, .chanPoisoned, .cores, .beds, .domains, .thermal, .capIo, .capTc, .flog0, .flog1, .fatal, .mbox,
    .leases, .engines, .xfers, .lists, .progress, .watchdogs] ⊆ Ps) (hk : [.fabStat, .env, .vgov, .vstat] ⊆ Ks) : Only
    Ps Ks s0 (State.bootWriteBytes s o bs) := by
  unfold State.bootWriteBytes
  repeat' first
    | with_reducible assumption | exact List.Subset.trans (by decide +kernel) hp
    | with_reducible apply only_State_accessError | with_reducible apply only_State_bootWords | split

theorem only_State_guestAsk {Ps : List Piece} {Ks : List RegKind} {s0 : State} (s : State) (g : Nat) (cls : Nat) (op :
    Nat) (o : Nat) (bs : List Byte) (n : Nat) (hK : Only Ps Ks s0 s) (hp : [.out, .ports, .guests, .reqs, .ic, .flog0,
    .flog1, .mbox, .lists, .tagCtr] ⊆ Ps) (hk : [.fabStat, .fabDiscard, .ctrVal] ⊆ Ks) : Only Ps Ks s0 (State.guestAsk
    s g cls op o bs n) := by
  unfold State.guestAsk
  repeat' first
    | with_reducible assumption | exact List.Subset.trans (by decide +kernel) hp
    | with_reducible apply only_State_request | with_reducible apply only_State_toGuest | split

theorem only_State_apertureRead {Ps : List Piece} {Ks : List RegKind} {s0 : State} (s : State) (o : Nat) (n : Nat) (hK
    : Only Ps Ks s0 s) (hp : [.out, .freeCtr, .ports, .guests, .reqs, .ic, .flog0, .flog1, .mbox, .lists, .tagCtr] ⊆
    Ps) (hk : [.fabStat, .fabDiscard, .ctrVal] ⊆ Ks) : Only Ps Ks s0 (State.apertureRead s o n) := by
  unfold State.apertureRead
  repeat' first
    | with_reducible assumption | exact List.Subset.trans (by decide +kernel) hp
    | with_reducible apply only_State_bumpFree | with_reducible apply only_State_emit
    | with_reducible apply only_State_guestAsk | with_reducible apply only_State_regsRead | dsimp only | split

theorem only_State_apertureWrite {Ps : List Piece} {Ks : List RegKind} {s0 : State} (s : State) (o : Nat) (bs : List
    Byte) (hK : Only Ps Ks s0 s) (hp : [.out, .freeCtr, .tb, .x0Lost, .mem, .checks, .stores, .fpDirty, .chanPoisoned,
    .guestPresent, .cores, .beds, .domains, .ports, .guests, .reqs, .quiesced, .spanLost, .ic, .flog0, .flog1, .mbox,
    .alive, .standby, .hbActive, .hbStandby, .segs, .removing, .keys, .leases, .revocation, .engines, .xfers,
    .zeroing, .lists, .tagCtr, .progress, .watchdogs, .sampling, .lampCheck] ⊆ Ps) (hk : RegKind.all ⊆ Ks) : Only Ps
    Ks s0 (State.apertureWrite s o bs) := by
  unfold State.apertureWrite
  repeat' first
    | with_reducible assumption | exact List.Subset.trans (by decide +kernel) hp
    | exact List.Subset.trans (by decide +kernel) hk | with_reducible apply only_State_discardAt
    | with_reducible apply only_State_guestAsk | with_reducible apply only_State_regsWrite | split

theorem only_State_bar0Read {Ps : List Piece} {Ks : List RegKind} {s0 : State} (s : State) (o : Nat) (n : Nat) (hK :
    Only Ps Ks s0 s) (hp : [.out, .freeCtr, .ports, .guests, .reqs, .ic, .flog0, .flog1, .mbox, .lists, .tagCtr] ⊆ Ps)
    (hk : [.fabStat, .fabDiscard, .ctrVal] ⊆ Ks) : Only Ps Ks s0 (State.bar0Read s o n) := by
  unfold State.bar0Read
  repeat' first
    | with_reducible assumption | exact List.Subset.trans (by decide +kernel) hp
    | with_reducible apply only_State_accessError | with_reducible apply only_State_apertureRead
    | with_reducible apply only_State_emit | split

theorem only_State_bar0Write {Ps : List Piece} {Ks : List RegKind} {s0 : State} (s : State) (o : Nat) (bs : List Byte)
    (hK : Only Ps Ks s0 s) (hp : [.out, .freeCtr, .tb, .x0Lost, .boot, .bootRun, .mem, .checks, .stores, .fpDirty,
    .coreState, .towerState, .bankRetired, .chanPoisoned, .guestPresent, .cores, .beds, .domains, .thermal, .capIo,
    .capTc, .ports, .guests, .reqs, .quiesced, .spanLost, .ic, .flog0, .flog1, .fatal, .mbox, .alive, .standby,
    .hbActive, .hbStandby, .segs, .removing, .keys, .leases, .revocation, .engines, .xfers, .zeroing, .lists, .tagCtr,
    .progress, .watchdogs, .sampling, .lampCheck] ⊆ Ps) (hk : RegKind.all ⊆ Ks) : Only Ps Ks s0 (State.bar0Write s o
    bs) := by
  unfold State.bar0Write
  repeat' first
    | with_reducible assumption | exact List.Subset.trans (by decide +kernel) hp
    | exact List.Subset.trans (by decide +kernel) hk | with_reducible apply only_State_accessError
    | with_reducible apply only_State_apertureWrite | with_reducible apply only_State_bootWriteBytes | split

theorem only_State_pageWrite {Ps : List Piece} {Ks : List RegKind} {s0 : State} (s : State) (t : Nat) (o : Nat) (w :
    Nat) (hK : Only Ps Ks s0 s) (hp : [.ic, .flog0, .flog1, .fatal, .mbox] ⊆ Ps) : Only Ps Ks s0 (State.pageWrite s t
    o w) := by
  unfold State.pageWrite
  repeat' first
    | with_reducible assumption | exact List.Subset.trans (by decide +kernel) hp | exact hp (by decide +kernel)
    | with_reducible apply only_State_setMb | with_reducible apply only_cqHeadWrite
    | with_reducible apply only_doorbell | dsimp only | split | with_reducible apply Only.upd_fatal

theorem only_State_pageWords {Ps : List Piece} {Ks : List RegKind} {s0 : State} (s : State) (t : Nat) (o : Nat) (bs :
    List Byte) (fuel : Nat) (hK : Only Ps Ks s0 s) (hp : [.ic, .flog0, .flog1, .fatal, .mbox] ⊆ Ps) : Only Ps Ks s0
    (State.pageWords s t o bs fuel) := by
  induction fuel generalizing s t o bs with
  | zero => exact hK
  | succ n ih =>
    unfold State.pageWords
    repeat' first
      | with_reducible apply ih | with_reducible assumption | with_reducible apply only_State_pageWrite | split

theorem only_State_bar2Read {Ps : List Piece} {Ks : List RegKind} {s0 : State} (s : State) (t : Nat) (o : Nat) (n :
    Nat) (hK : Only Ps Ks s0 s) (hp : [.out, .flog0, .flog1] ⊆ Ps) : Only Ps Ks s0 (State.bar2Read s t o n) := by
  unfold State.bar2Read
  repeat' first
    | with_reducible assumption | exact List.Subset.trans (by decide +kernel) hp
    | with_reducible apply only_State_accessError | with_reducible apply only_State_emit | split

theorem only_State_bar2Write {Ps : List Piece} {Ks : List RegKind} {s0 : State} (s : State) (t : Nat) (o : Nat) (bs :
    List Byte) (hK : Only Ps Ks s0 s) (hp : [.ic, .flog0, .flog1, .fatal, .mbox] ⊆ Ps) : Only Ps Ks s0
    (State.bar2Write s t o bs) := by
  unfold State.bar2Write
  repeat' first
    | with_reducible assumption | exact List.Subset.trans (by decide +kernel) hp
    | with_reducible apply only_State_accessError | with_reducible apply only_State_pageWords
    | with_reducible apply only_State_setMb | dsimp only | split

/-! ### Machine/Fabric.lean -/

theorem only_State_serveRead {Ps : List Piece} {Ks : List RegKind} {s0 : State} (s : State) (a : Nat) (n : Nat) (node
    : Nat) (tenant : Nat) (hK : Only Ps Ks s0 s) (hp : [.out, .fpDirty, .chanPoisoned, .hbm, .ic, .flog0, .flog1,
    .mbox] ⊆ Ps) (hk : [.bedCe, .bedUe, .bedLastue, .memStat, .memChstat, .memChce, .memChue, .memChpoison, .ctrVal] ⊆
    Ks) : Only Ps Ks s0 (State.serveRead s a n node tenant).s := by
  unfold State.serveRead
  repeat' first
    | with_reducible assumption | exact List.Subset.trans (by decide +kernel) hp
    | with_reducible apply only_State_accessError | with_reducible apply only_State_readMem
    | with_reducible apply only_State_regsRead | dsimp only | split

theorem only_State_winStore {Ps : List Piece} {Ks : List RegKind} {s0 : State} (s : State) (k : Nat) (o : Nat) (bs :
    List Byte) (node : Nat) (tenant : Nat) (hK : Only Ps Ks s0 s) (hp : [.mem, .beds, .ic, .flog0, .flog1] ⊆ Ps) (hk :
    [.bedStatus, .bedDonecnt, .ctrVal] ⊆ Ks) : Only Ps Ks s0 (State.winStore s k o bs node tenant) := by
  unfold State.winStore
  repeat' first
    | with_reducible assumption | exact List.Subset.trans (by decide +kernel) hp
    | with_reducible apply only_State_issueBank | with_reducible apply only_State_setWin | split

theorem only_State_serveWrite {Ps : List Piece} {Ks : List RegKind} {s0 : State} (s : State) (a : Nat) (bs : List
    Byte) (node : Nat) (tenant : Nat) (posted : Bool) (hK : Only Ps Ks s0 s) (hp : [.out, .freeCtr, .tb, .x0Lost,
    .mem, .checks, .stores, .fpDirty, .chanPoisoned, .guestPresent, .cores, .beds, .hbm, .domains, .ports, .guests,
    .reqs, .quiesced, .spanLost, .ic, .flog0, .flog1, .mbox, .alive, .standby, .hbActive, .hbStandby, .segs,
    .removing, .keys, .leases, .revocation, .engines, .xfers, .zeroing, .lists, .progress, .watchdogs, .sampling,
    .lampCheck] ⊆ Ps) (hk : RegKind.all ⊆ Ks) : Only Ps Ks s0 (State.serveWrite s a bs node tenant posted).s := by
  unfold State.serveWrite
  repeat' first
    | with_reducible assumption | exact List.Subset.trans (by decide +kernel) hp
    | exact List.Subset.trans (by decide +kernel) hk | with_reducible apply only_State_accessError
    | with_reducible apply only_State_regsWrite | with_reducible apply only_State_winStore
    | with_reducible apply only_State_writeMem | dsimp only | split

theorem only_State_serveAdd {Ps : List Piece} {Ks : List RegKind} {s0 : State} (s : State) (a : Nat) (v : Nat) (node :
    Nat) (tenant : Nat) (hK : Only Ps Ks s0 s) (hp : [.out, .freeCtr, .tb, .x0Lost, .mem, .checks, .stores, .fpDirty,
    .chanPoisoned, .guestPresent, .cores, .beds, .hbm, .domains, .ports, .guests, .reqs, .quiesced, .spanLost, .ic,
    .flog0, .flog1, .mbox, .alive, .standby, .hbActive, .hbStandby, .segs, .removing, .keys, .leases, .revocation,
    .engines, .xfers, .zeroing, .lists, .progress, .watchdogs, .sampling, .lampCheck] ⊆ Ps) (hk : RegKind.all ⊆ Ks) :
    Only Ps Ks s0 (State.serveAdd s a v node tenant).s := by
  unfold State.serveAdd
  repeat' first
    | with_reducible assumption | exact List.Subset.trans (by decide +kernel) hp
    | exact List.Subset.trans (by decide +kernel) hk | with_reducible apply only_State_serveRead
    | with_reducible apply only_State_serveWrite | dsimp only | split

theorem only_State_sendRsp {Ps : List Piece} {Ks : List RegKind} {s0 : State} (s : State) (die : Nat) (m : Msg) (hK :
    Only Ps Ks s0 s) (hp : [.out, .ports, .guests, .reqs, .ic, .flog0, .flog1, .mbox, .lists] ⊆ Ps) (hk : [.fabStat,
    .fabDiscard, .ctrVal] ⊆ Ks) : Only Ps Ks s0 (State.sendRsp s die m) := by
  unfold State.sendRsp
  repeat' first
    | with_reducible assumption | exact List.Subset.trans (by decide +kernel) hp
    | with_reducible apply only_State_respond | with_reducible apply only_State_toGuest | split

theorem only_State_reply {Ps : List Piece} {Ks : List RegKind} {s0 : State} (s : State) (die : Nat) (node : Nat) (m :
    Msg) (op : Nat) (status : Nat) (len : Nat) (payload : List Byte) (hK : Only Ps Ks s0 s) (hp : [.out, .ports,
    .guests, .reqs, .ic, .flog0, .flog1, .mbox, .lists] ⊆ Ps) (hk : [.fabStat, .fabDiscard, .ctrVal] ⊆ Ks) : Only Ps
    Ks s0 (State.reply s die node m op status len payload) := by
  unfold State.reply
  repeat' first | with_reducible assumption | with_reducible apply only_State_sendRsp

theorem only_State_lostMsg {Ps : List Piece} {Ks : List RegKind} {s0 : State} (s : State) (die : Nat) (m : Msg) (hK :
    Only Ps Ks s0 s) (hp : [.out, .ports, .guests, .reqs, .ic, .flog0, .flog1, .mbox, .lists] ⊆ Ps) (hk : [.fabStat,
    .fabDiscard, .ctrVal] ⊆ Ks) : Only Ps Ks s0 (State.lostMsg s die m) := by
  unfold State.lostMsg
  repeat' first
    | with_reducible assumption | exact List.Subset.trans (by decide +kernel) hp
    | exact List.Subset.trans (by decide +kernel) hk | with_reducible apply only_State_discardAt
    | with_reducible apply only_State_reply | split

theorem only_State_perform {Ps : List Piece} {Ks : List RegKind} {s0 : State} (s : State) (die : Nat) (a : Nat) (m :
    Msg) (hK : Only Ps Ks s0 s) (hp : [.out, .freeCtr, .tb, .x0Lost, .mem, .checks, .stores, .fpDirty, .chanPoisoned,
    .guestPresent, .cores, .beds, .hbm, .domains, .ports, .guests, .reqs, .quiesced, .spanLost, .ic, .flog0, .flog1,
    .mbox, .alive, .standby, .hbActive, .hbStandby, .segs, .removing, .keys, .leases, .revocation, .engines, .xfers,
    .zeroing, .lists, .progress, .watchdogs, .sampling, .lampCheck] ⊆ Ps) (hk : RegKind.all ⊆ Ks) : Only Ps Ks s0
    (State.perform s die a m) := by
  unfold State.perform
  repeat' first
    | with_reducible assumption | exact List.Subset.trans (by decide +kernel) hp
    | exact List.Subset.trans (by decide +kernel) hk | with_reducible apply only_State_accessError
    | with_reducible apply only_State_reply | with_reducible apply only_State_sendRsp
    | with_reducible apply only_State_serveAdd | with_reducible apply only_State_serveRead
    | with_reducible apply only_State_serveWrite | dsimp only | split

theorem only_State_serve {Ps : List Piece} {Ks : List RegKind} {s0 : State} (s : State) (die : Nat) (m : Msg) (hK :
    Only Ps Ks s0 s) (hp : [.out, .freeCtr, .tb, .x0Lost, .mem, .checks, .stores, .fpDirty, .chanPoisoned,
    .guestPresent, .cores, .beds, .hbm, .domains, .ports, .guests, .reqs, .quiesced, .spanLost, .ic, .flog0, .flog1,
    .mbox, .alive, .standby, .hbActive, .hbStandby, .segs, .removing, .keys, .leases, .revocation, .engines, .xfers,
    .zeroing, .lists, .progress, .watchdogs, .sampling, .lampCheck] ⊆ Ps) (hk : RegKind.all ⊆ Ks) : Only Ps Ks s0
    (State.serve s die m) := by
  unfold State.serve
  repeat' first
    | with_reducible assumption | exact List.Subset.trans (by decide +kernel) hp
    | exact List.Subset.trans (by decide +kernel) hk | with_reducible apply only_State_lostMsg
    | with_reducible apply only_State_perform | with_reducible apply only_State_reply
    | with_reducible apply only_State_toGuest | split

theorem only_State_sink {Ps : List Piece} {Ks : List RegKind} {s0 : State} (s : State) (m : Msg) (hK : Only Ps Ks s0
    s) (hp : [.out, .ports, .guests, .reqs, .ic, .flog0, .flog1, .mbox, .lists] ⊆ Ps) (hk : [.fabStat, .fabDiscard,
    .ctrVal] ⊆ Ks) : Only Ps Ks s0 (State.sink s m) := by
  unfold State.sink
  repeat' first
    | with_reducible assumption | exact List.Subset.trans (by decide +kernel) hp
    | exact List.Subset.trans (by decide +kernel) hk | with_reducible apply only_State_deliverRsp
    | with_reducible apply only_State_toGuest | split

theorem only_State_arrive {Ps : List Piece} {Ks : List RegKind} {s0 : State} (s : State) (die : Nat) (m : Msg) (hK :
    Only Ps Ks s0 s) (hp : [.out, .freeCtr, .tb, .x0Lost, .mem, .checks, .stores, .fpDirty, .chanPoisoned,
    .guestPresent, .cores, .beds, .hbm, .domains, .ports, .guests, .reqs, .quiesced, .spanLost, .ic, .flog0, .flog1,
    .mbox, .alive, .standby, .hbActive, .hbStandby, .segs, .removing, .keys, .leases, .revocation, .engines, .xfers,
    .zeroing, .lists, .progress, .watchdogs, .sampling, .lampCheck] ⊆ Ps) (hk : RegKind.all ⊆ Ks) : Only Ps Ks s0
    (State.arrive s die m) := by
  unfold State.arrive
  repeat' first
    | with_reducible assumption | exact List.Subset.trans (by decide +kernel) hp
    | exact List.Subset.trans (by decide +kernel) hk | with_reducible apply only_State_lostMsg
    | with_reducible apply only_State_sendOut | with_reducible apply only_State_serve
    | with_reducible apply only_State_sink | dsimp only | split

theorem only_State_guestSends {Ps : List Piece} {Ks : List RegKind} {s0 : State} (s : State) (g : Nat) (m : Msg) (hK :
    Only Ps Ks s0 s) (hp : [.out, .freeCtr, .tb, .x0Lost, .mem, .checks, .stores, .fpDirty, .chanPoisoned,
    .guestPresent, .cores, .beds, .hbm, .domains, .ports, .guests, .reqs, .quiesced, .spanLost, .ic, .flog0, .flog1,
    .mbox, .alive, .standby, .hbActive, .hbStandby, .segs, .removing, .keys, .leases, .revocation, .engines, .xfers,
    .zeroing, .lists, .progress, .watchdogs, .sampling, .lampCheck] ⊆ Ps) (hk : RegKind.all ⊆ Ks) : Only Ps Ks s0
    (State.guestSends s g m) := by
  unfold State.guestSends
  repeat' first
    | with_reducible assumption | exact List.Subset.trans (by decide +kernel) hp | exact hk (RegKind.mem_all _)
    | exact List.Subset.trans (by decide +kernel) hk | with_reducible apply only_State_arrive
    | with_reducible apply only_State_countF | with_reducible apply only_State_emit
    | with_reducible apply only_State_guestAnswered | with_reducible apply only_State_reply | dsimp only | split

theorem only_State_enter {Ps : List Piece} {Ks : List RegKind} {s0 : State} (s : State) (m : Msg) (hK : Only Ps Ks s0
    s) (hp : [.out, .freeCtr, .tb, .x0Lost, .mem, .checks, .stores, .fpDirty, .chanPoisoned, .guestPresent, .cores,
    .beds, .hbm, .domains, .ports, .guests, .reqs, .quiesced, .spanLost, .ic, .flog0, .flog1, .mbox, .alive, .standby,
    .hbActive, .hbStandby, .segs, .removing, .keys, .leases, .revocation, .engines, .xfers, .zeroing, .lists,
    .progress, .watchdogs, .sampling, .lampCheck] ⊆ Ps) (hk : RegKind.all ⊆ Ks) : Only Ps Ks s0 (State.enter s m) :=
    by
  unfold State.enter
  repeat' first
    | with_reducible assumption | with_reducible apply only_State_arrive | with_reducible apply only_State_guestSends
    | split

theorem only_State_deviceRead {Ps : List Piece} {Ks : List RegKind} {s0 : State} (s : State) (a : Nat) (n : Nat) (hK :
    Only Ps Ks s0 s) (hp : [.out, .freeCtr, .fpDirty, .chanPoisoned, .hbm, .ic, .flog0, .flog1, .mbox] ⊆ Ps) (hk :
    [.bedCe, .bedUe, .bedLastue, .memStat, .memChstat, .memChce, .memChue, .memChpoison, .ctrVal] ⊆ Ks) : Only Ps Ks
    s0 (State.deviceRead s a n) := by
  unfold State.deviceRead
  repeat' first
    | with_reducible assumption | exact List.Subset.trans (by decide +kernel) hp
    | with_reducible apply only_State_bumpFree | with_reducible apply only_State_emit
    | with_reducible apply only_State_serveRead | dsimp only | split

theorem only_State_deviceWrite {Ps : List Piece} {Ks : List RegKind} {s0 : State} (s : State) (a : Nat) (bs : List
    Byte) (hK : Only Ps Ks s0 s) (hp : [.out, .freeCtr, .tb, .x0Lost, .mem, .checks, .stores, .fpDirty, .chanPoisoned,
    .guestPresent, .cores, .beds, .hbm, .domains, .ports, .guests, .reqs, .quiesced, .spanLost, .ic, .flog0, .flog1,
    .mbox, .alive, .standby, .hbActive, .hbStandby, .segs, .removing, .keys, .leases, .revocation, .engines, .xfers,
    .zeroing, .lists, .progress, .watchdogs, .sampling, .lampCheck] ⊆ Ps) (hk : RegKind.all ⊆ Ks) : Only Ps Ks s0
    (State.deviceWrite s a bs) := by
  unfold State.deviceWrite
  repeat' first
    | with_reducible assumption | exact List.Subset.trans (by decide +kernel) hp
    | exact List.Subset.trans (by decide +kernel) hk | with_reducible apply only_State_discardAt
    | with_reducible apply only_State_serveWrite | split

theorem only_State_apRead {Ps : List Piece} {Ks : List RegKind} {s0 : State} (s : State) (ap : Aperture) (n : Nat) (hK
    : Only Ps Ks s0 s) (hp : [.out, .freeCtr, .fpDirty, .chanPoisoned, .hbm, .ports, .guests, .reqs, .ic, .flog0,
    .flog1, .mbox, .lists, .tagCtr] ⊆ Ps) (hk : [.bedCe, .bedUe, .bedLastue, .memStat, .memChstat, .memChce, .memChue,
    .memChpoison, .fabStat, .fabDiscard, .ctrVal] ⊆ Ks) : Only Ps Ks s0 (State.apRead s ap n) := by
  unfold State.apRead
  repeat' first
    | with_reducible assumption | exact List.Subset.trans (by decide +kernel) hp
    | exact List.Subset.trans (by decide +kernel) hk | with_reducible apply only_State_bar0Read
    | with_reducible apply only_State_bar2Read | with_reducible apply only_State_deviceRead | split

theorem only_State_apWrite {Ps : List Piece} {Ks : List RegKind} {s0 : State} (s : State) (ap : Aperture) (bs : List
    Byte) (hK : Only Ps Ks s0 s) (hp : [.out, .freeCtr, .tb, .x0Lost, .boot, .bootRun, .mem, .checks, .stores,
    .fpDirty, .coreState, .towerState, .bankRetired, .chanPoisoned, .guestPresent, .cores, .beds, .hbm, .domains,
    .thermal, .capIo, .capTc, .ports, .guests, .reqs, .quiesced, .spanLost, .ic, .flog0, .flog1, .fatal, .mbox,
    .alive, .standby, .hbActive, .hbStandby, .segs, .removing, .keys, .leases, .revocation, .engines, .xfers,
    .zeroing, .lists, .tagCtr, .progress, .watchdogs, .sampling, .lampCheck] ⊆ Ps) (hk : RegKind.all ⊆ Ks) : Only Ps
    Ks s0 (State.apWrite s ap bs) := by
  unfold State.apWrite
  repeat' first
    | with_reducible assumption | exact List.Subset.trans (by decide +kernel) hp
    | with_reducible apply only_State_bar0Write | with_reducible apply only_State_bar2Write
    | with_reducible apply only_State_deviceWrite | split

theorem only_execRegisterWrite (ap : Aperture) (data : List Byte) (s : State) : ∃ t, execRegisterWrite ap data s =
    .next t ∧ Only [.out, .freeCtr, .tb, .x0Lost, .boot, .bootRun, .mem, .checks, .stores, .fpDirty, .coreState,
    .towerState, .bankRetired, .chanPoisoned, .guestPresent, .cores, .beds, .hbm, .domains, .thermal, .capIo, .capTc,
    .ports, .guests, .reqs, .quiesced, .spanLost, .ic, .flog0, .flog1, .fatal, .mbox, .alive, .standby, .hbActive,
    .hbStandby, .segs, .removing, .keys, .leases, .revocation, .engines, .xfers, .zeroing, .lists, .tagCtr, .progress,
    .watchdogs, .sampling, .lampCheck] RegKind.all s t := by
  refine ⟨_, rfl, ?_⟩
  repeat' first | with_reducible exact Only.refl _ | decide +kernel | with_reducible apply only_State_apWrite

theorem only_execRead (r : ReadReq) (s : State) : ∃ t, execRead r s = .next t ∧ Only [.out, .freeCtr, .tb, .x0Lost,
    .mem, .checks, .stores, .fpDirty, .chanPoisoned, .guestPresent, .cores, .beds, .hbm, .domains, .ports, .guests,
    .reqs, .quiesced, .spanLost, .ic, .flog0, .flog1, .mbox, .alive, .standby, .hbActive, .hbStandby, .segs,
    .removing, .keys, .leases, .revocation, .engines, .xfers, .zeroing, .lists, .tagCtr, .progress, .watchdogs,
    .sampling, .lampCheck] RegKind.all s t := by
  refine ⟨_, rfl, ?_⟩
  repeat' first
    | with_reducible exact Only.refl _ | decide +kernel | with_reducible apply only_State_apRead
    | with_reducible apply only_State_enter | dsimp only | split

theorem only_execAtomicAdd (m : Msg) (s : State) : ∃ t, execAtomicAdd m s = .next t ∧ Only [.out, .freeCtr, .tb,
    .x0Lost, .mem, .checks, .stores, .fpDirty, .chanPoisoned, .guestPresent, .cores, .beds, .hbm, .domains, .ports,
    .guests, .reqs, .quiesced, .spanLost, .ic, .flog0, .flog1, .mbox, .alive, .standby, .hbActive, .hbStandby, .segs,
    .removing, .keys, .leases, .revocation, .engines, .xfers, .zeroing, .lists, .progress, .watchdogs, .sampling,
    .lampCheck] RegKind.all s t := by
  refine ⟨_, rfl, ?_⟩
  repeat' first
    | with_reducible exact Only.refl _ | decide +kernel | with_reducible apply only_State_enter | dsimp only | split

theorem only_execWrite (m : Msg) (s : State) : ∃ t, execWrite m s = .next t ∧ Only [.out, .freeCtr, .tb, .x0Lost,
    .mem, .checks, .stores, .fpDirty, .chanPoisoned, .guestPresent, .cores, .beds, .hbm, .domains, .ports, .guests,
    .reqs, .quiesced, .spanLost, .ic, .flog0, .flog1, .mbox, .alive, .standby, .hbActive, .hbStandby, .segs,
    .removing, .keys, .leases, .revocation, .engines, .xfers, .zeroing, .lists, .progress, .watchdogs, .sampling,
    .lampCheck] RegKind.all s t := by
  refine ⟨_, rfl, ?_⟩
  repeat' first
    | with_reducible exact Only.refl _ | decide +kernel | with_reducible apply only_State_enter | dsimp only | split

theorem only_execWriteNp (m : Msg) (s : State) : ∃ t, execWriteNp m s = .next t ∧ Only [.out, .freeCtr, .tb, .x0Lost,
    .mem, .checks, .stores, .fpDirty, .chanPoisoned, .guestPresent, .cores, .beds, .hbm, .domains, .ports, .guests,
    .reqs, .quiesced, .spanLost, .ic, .flog0, .flog1, .mbox, .alive, .standby, .hbActive, .hbStandby, .segs,
    .removing, .keys, .leases, .revocation, .engines, .xfers, .zeroing, .lists, .progress, .watchdogs, .sampling,
    .lampCheck] RegKind.all s t := by
  refine ⟨_, rfl, ?_⟩
  repeat' first
    | with_reducible exact Only.refl _ | decide +kernel | with_reducible apply only_State_enter | dsimp only | split

theorem only_execFabricFence (m : Msg) (s : State) : ∃ t, execFabricFence m s = .next t ∧ Only [.out, .freeCtr, .tb,
    .x0Lost, .mem, .checks, .stores, .fpDirty, .chanPoisoned, .guestPresent, .cores, .beds, .hbm, .domains, .ports,
    .guests, .reqs, .quiesced, .spanLost, .ic, .flog0, .flog1, .mbox, .alive, .standby, .hbActive, .hbStandby, .segs,
    .removing, .keys, .leases, .revocation, .engines, .xfers, .zeroing, .lists, .progress, .watchdogs, .sampling,
    .lampCheck] RegKind.all s t := by
  refine ⟨_, rfl, ?_⟩
  repeat' first
    | with_reducible exact Only.refl _ | decide +kernel | with_reducible apply only_State_enter | dsimp only | split

theorem only_execDataRsp (m : Msg) (s : State) : ∃ t, execDataRsp m s = .next t ∧ Only [.out, .freeCtr, .tb, .x0Lost,
    .mem, .checks, .stores, .fpDirty, .chanPoisoned, .guestPresent, .cores, .beds, .hbm, .domains, .ports, .guests,
    .reqs, .quiesced, .spanLost, .ic, .flog0, .flog1, .mbox, .alive, .standby, .hbActive, .hbStandby, .segs,
    .removing, .keys, .leases, .revocation, .engines, .xfers, .zeroing, .lists, .progress, .watchdogs, .sampling,
    .lampCheck] RegKind.all s t := by
  refine ⟨_, rfl, ?_⟩
  repeat' first
    | with_reducible exact Only.refl _ | decide +kernel | with_reducible apply only_State_enter | dsimp only | split

theorem only_execAckRsp (m : Msg) (s : State) : ∃ t, execAckRsp m s = .next t ∧ Only [.out, .freeCtr, .tb, .x0Lost,
    .mem, .checks, .stores, .fpDirty, .chanPoisoned, .guestPresent, .cores, .beds, .hbm, .domains, .ports, .guests,
    .reqs, .quiesced, .spanLost, .ic, .flog0, .flog1, .mbox, .alive, .standby, .hbActive, .hbStandby, .segs,
    .removing, .keys, .leases, .revocation, .engines, .xfers, .zeroing, .lists, .progress, .watchdogs, .sampling,
    .lampCheck] RegKind.all s t := by
  refine ⟨_, rfl, ?_⟩
  repeat' first
    | with_reducible exact Only.refl _ | decide +kernel | with_reducible apply only_State_enter | dsimp only | split

theorem only_execErrorRsp (m : Msg) (s : State) : ∃ t, execErrorRsp m s = .next t ∧ Only [.out, .freeCtr, .tb,
    .x0Lost, .mem, .checks, .stores, .fpDirty, .chanPoisoned, .guestPresent, .cores, .beds, .hbm, .domains, .ports,
    .guests, .reqs, .quiesced, .spanLost, .ic, .flog0, .flog1, .mbox, .alive, .standby, .hbActive, .hbStandby, .segs,
    .removing, .keys, .leases, .revocation, .engines, .xfers, .zeroing, .lists, .progress, .watchdogs, .sampling,
    .lampCheck] RegKind.all s t := by
  refine ⟨_, rfl, ?_⟩
  repeat' first
    | with_reducible exact Only.refl _ | decide +kernel | with_reducible apply only_State_enter | dsimp only | split

theorem only_State_spanMsg {Ps : List Piece} {Ks : List RegKind} {s0 : State} (s : State) (p : Nat) (m : Msg) (hK :
    Only Ps Ks s0 s) (hp : [.out, .freeCtr, .tb, .x0Lost, .mem, .checks, .stores, .fpDirty, .chanPoisoned,
    .guestPresent, .cores, .beds, .hbm, .domains, .ports, .guests, .reqs, .quiesced, .spanLost, .ic, .flog0, .flog1,
    .mbox, .alive, .standby, .hbActive, .hbStandby, .segs, .removing, .keys, .leases, .revocation, .engines, .xfers,
    .zeroing, .lists, .progress, .watchdogs, .sampling, .lampCheck] ⊆ Ps) (hk : RegKind.all ⊆ Ks) : Only Ps Ks s0
    (State.spanMsg s p m) := by
  unfold State.spanMsg
  repeat' first | with_reducible assumption | with_reducible apply only_State_arrive | dsimp only | split

theorem only_spanFrame {Ps : List Piece} {Ks : List RegKind} {s0 : State} (p : Nat) (f : RxFrame) (s : State) (hK :
    Only Ps Ks s0 s) (hp : [.out, .freeCtr, .tb, .x0Lost, .mem, .checks, .stores, .fpDirty, .chanPoisoned,
    .guestPresent, .cores, .beds, .hbm, .domains, .ports, .guests, .reqs, .quiesced, .spanLost, .ic, .flog0, .flog1,
    .mbox, .alive, .standby, .hbActive, .hbStandby, .segs, .removing, .keys, .leases, .revocation, .engines, .xfers,
    .zeroing, .lists, .progress, .watchdogs, .sampling, .lampCheck] ⊆ Ps) (hk : RegKind.all ⊆ Ks) : Only Ps Ks s0
    (spanFrame p f s) := by
  unfold spanFrame
  repeat' first
    | with_reducible assumption | exact List.Subset.trans (by decide +kernel) hp
    | exact List.Subset.trans (by decide +kernel) hk | with_reducible apply only_State_spanMsg
    | with_reducible apply only_State_takeFrame | with_reducible apply Only.fold | intro _ _ _ | dsimp only | split

theorem only_execSpanFrame (port : Fin 24) (f : RxFrame) (s : State) : ∃ t, execSpanFrame port f s = .next t ∧ Only
    [.out, .freeCtr, .tb, .x0Lost, .mem, .checks, .stores, .fpDirty, .chanPoisoned, .guestPresent, .cores, .beds,
    .hbm, .domains, .ports, .guests, .reqs, .quiesced, .spanLost, .ic, .flog0, .flog1, .mbox, .alive, .standby,
    .hbActive, .hbStandby, .segs, .removing, .keys, .leases, .revocation, .engines, .xfers, .zeroing, .lists,
    .progress, .watchdogs, .sampling, .lampCheck] RegKind.all s t := by
  refine ⟨_, rfl, ?_⟩
  repeat' first | with_reducible exact Only.refl _ | decide +kernel | with_reducible apply only_spanFrame

theorem only_crcError {Ps : List Piece} {Ks : List RegKind} {s0 : State} (d : Nat) (port : Nat) (sub : Nat) (sixteenth
    : Bool) (s : State) (hK : Only Ps Ks s0 s) (hp : [.out, .retiredSubs, .ic, .flog0, .flog1] ⊆ Ps) (hk : [.fabStat,
    .fabReplay] ⊆ Ks) : Only Ps Ks s0 (crcError d port sub sixteenth s) := by
  unfold crcError
  repeat' first
    | with_reducible assumption | exact List.Subset.trans (by decide +kernel) hp
    | exact List.Subset.trans (by decide +kernel) hk | exact hk (List.elem_iff.mp rfl)
    | with_reducible apply only_State_countF | with_reducible apply only_State_emit
    | with_reducible apply only_State_raise | with_reducible apply only_State_retireSub
    | with_reducible apply only_State_setBit | dsimp only | split

theorem only_execVoylaCrcError (die : Fin 12) (port : Fin 4) (sub : BitVec 5) (sixteenth : Bool) (s : State) : ∃ t,
    execVoylaCrcError die port sub sixteenth s = .next t ∧ Only [.out, .retiredSubs, .ic, .flog0, .flog1] [.fabStat,
    .fabReplay] s t := by
  refine ⟨_, rfl, ?_⟩
  repeat' first | with_reducible exact Only.refl _ | decide +kernel | with_reducible apply only_crcError

theorem only_fabricTimeout {Ps : List Piece} {Ks : List RegKind} {s0 : State} (node : Nat) (tag : Nat) (s : State) (hK
    : Only Ps Ks s0 s) (hp : [.reqs, .ic, .flog0, .flog1, .lists] ⊆ Ps) : Only Ps Ks s0 (fabricTimeout node tag s) :=
    by
  unfold fabricTimeout
  repeat' first
    | with_reducible assumption | exact List.Subset.trans (by decide +kernel) hp | exact hp (by decide +kernel)
    | with_reducible apply only_State_finishOp | with_reducible apply only_State_log
    | with_reducible apply only_State_raise | dsimp only | split | with_reducible apply Only.upd_reqs

theorem only_execFabricTimeout (node : BitVec 8) (tag : BitVec 10) (s : State) : ∃ t, execFabricTimeout node tag s =
    .next t ∧ Only [.reqs, .ic, .flog0, .flog1, .lists] [] s t := by
  refine ⟨_, rfl, ?_⟩
  repeat' first | with_reducible exact Only.refl _ | decide +kernel | with_reducible apply only_fabricTimeout

theorem only_routeDetour {Ps : List Piece} {Ks : List RegKind} {s0 : State} (s : State) (hK : Only Ps Ks s0 s) (hk :
    [.fabRt] ⊆ Ks) : Only Ps Ks s0 (routeDetour s) := by
  unfold routeDetour
  repeat' first
    | with_reducible assumption | exact hk (List.elem_iff.mp rfl) | with_reducible apply only_State_setReg
    | with_reducible apply Only.fold | intro _ _ _ | dsimp only | split

theorem only_execRouteDetour (s : State) : ∃ t, execRouteDetour s = .next t ∧ Only [] [.fabRt] s t := by
  refine ⟨_, rfl, ?_⟩
  repeat' first | with_reducible exact Only.refl _ | decide +kernel | with_reducible apply only_routeDetour

end Sys2Proof.Machine
end

