-- ==== Sys2Proof/Laws/State.lean ====
section
/-! SUPPORT. Reading the state after each of its updates: one lemma for each field and update, and for each table of units
what an entry reads after an entry is set. -/

namespace Sys2Proof.Machine

/-! ### Registers and tables of units -/

theorem State.reg_setReg (s : State) (r q : Reg) (v : DWord) :
    (s.setReg r v).reg q = if q.off = r.off then v else s.reg q := look_put (regReset s.fuses) s.regs r.off v q.off

@[simp] theorem State.reg_setReg_same (s : State) (r : Reg) (v : DWord) : (s.setReg r v).reg r = v := by
  rw [State.reg_setReg, if_pos rfl]

theorem State.reg_setReg_ne (s : State) (r q : Reg) (v : DWord) (h : q.off ≠ r.off) : (s.setReg r v).reg q = s.reg q := by
  rw [State.reg_setReg, if_neg h]

theorem State.regF_setF_same (s : State) (r : Reg) (lo w x : Nat) (h : lo + w ≤ 64) :
    (s.setF r lo w x).regF r lo w = x % 2 ^ w := by
  unfold State.setF State.regF
  rw [State.reg_setReg_same, getF_putF_same _ _ _ _ h]

theorem State.regF_setF_apart (s : State) (r : Reg) (lo w x lo' w' : Nat) (h : lo + w ≤ 64)
    (ha : lo' + w' ≤ lo ∨ lo + w ≤ lo') : (s.setF r lo w x).regF r lo' w' = s.regF r lo' w' := by
  unfold State.setF State.regF
  rw [State.reg_setReg_same, getF_putF_apart _ _ _ _ _ _ h ha]

theorem State.reg_setF_ne (s : State) (r q : Reg) (lo w x : Nat) (h : q.off ≠ r.off) :
    (s.setF r lo w x).reg q = s.reg q := State.reg_setReg_ne _ _ _ _ h

theorem State.regF_setF_ne (s : State) (r q : Reg) (lo w x lo' w' : Nat) (h : q.off ≠ r.off) :
    (s.setF r lo w x).regF q lo' w' = s.regF q lo' w' := by
  unfold State.regF
  rw [State.reg_setF_ne _ _ _ _ _ _ h]

theorem State.bw_setBw (s : State) (o p : Nat) (v : DWord) : (s.setBw o v).bw p = if p = o then v else s.bw p :=
  look_put bootReset s.boot o v p

@[simp] theorem State.coreUnit_setCoreUnit (s : State) (i : Nat) (x : CoreUnit) (j : Nat) :
    (s.setCoreUnit i x).coreUnit j = if j = i then x else s.coreUnit j := look_put _ _ _ _ _

@[simp] theorem State.bed_setBed (s : State) (i : Nat) (x : Bed) (j : Nat) :
    (s.setBed i x).bed j = if j = i then x else s.bed j := look_put _ _ _ _ _

@[simp] theorem State.stack_setStack (s : State) (i : Nat) (x : Stack) (j : Nat) :
    (s.setStack i x).stack j = if j = i then x else s.stack j := look_put _ _ _ _ _

@[simp] theorem State.dom_setDom (s : State) (i : Nat) (x : Domain) (j : Nat) :
    (s.setDom i x).dom j = if j = i then x else s.dom j := look_put _ _ _ _ _

@[simp] theorem State.therm_setTherm (s : State) (i : Nat) (x : Thermal) (j : Nat) :
    (s.setTherm i x).therm j = if j = i then x else s.therm j := look_put _ _ _ _ _

@[simp] theorem State.span_setSpan (s : State) (i : Nat) (x : Span) (j : Nat) :
    (s.setSpan i x).span j = if j = i then x else s.span j := look_put _ _ _ _ _

@[simp] theorem State.guest_setGuest (s : State) (i : Nat) (x : Guest) (j : Nat) :
    (s.setGuest i x).guest j = if j = i then x else s.guest j := look_put _ _ _ _ _

@[simp] theorem State.mb_setMb (s : State) (i : Nat) (x : Mailbox) (j : Nat) :
    (s.setMb i x).mb j = if j = i then x else s.mb j := look_put _ _ _ _ _

@[simp] theorem State.engine_setEngine (s : State) (i : Nat) (x : Engine) (j : Nat) :
    (s.setEngine i x).engine j = if j = i then x else s.engine j := look_put _ _ _ _ _

@[simp] theorem State.leaseAt_setLease (s : State) (i : Nat) (x : Lease) (j : Nat) :
    (s.setLease i x).leaseAt j = if j = i then x else s.leaseAt j := look_put _ _ _ _ _

@[simp] theorem num_setNum (m : SMap Nat) (k v j : Nat) : num (setNum m k v) j = if j = k then v else num m j :=
  look_put _ _ _ _ _

/-! ### setReg -/

@[simp] theorem State.pending_setReg (s : State) (r : Reg) (v : DWord) : (s.setReg r v).pending = s.pending := rfl
@[simp] theorem State.fuses_setReg (s : State) (r : Reg) (v : DWord) : (s.setReg r v).fuses = s.fuses := rfl
@[simp] theorem State.out_setReg (s : State) (r : Reg) (v : DWord) : (s.setReg r v).out = s.out := rfl
@[simp] theorem State.freeCtr_setReg (s : State) (r : Reg) (v : DWord) : (s.setReg r v).freeCtr = s.freeCtr := rfl
@[simp] theorem State.now_setReg (s : State) (r : Reg) (v : DWord) : (s.setReg r v).now = s.now := rfl
@[simp] theorem State.tb_setReg (s : State) (r : Reg) (v : DWord) : (s.setReg r v).tb = s.tb := rfl
@[simp] theorem State.vaux_setReg (s : State) (r : Reg) (v : DWord) : (s.setReg r v).vaux = s.vaux := rfl
@[simp] theorem State.resetN_setReg (s : State) (r : Reg) (v : DWord) : (s.setReg r v).resetN = s.resetN := rfl
@[simp] theorem State.brownedOut_setReg (s : State) (r : Reg) (v : DWord) : (s.setReg r v).brownedOut = s.brownedOut := rfl
@[simp] theorem State.x0Lost_setReg (s : State) (r : Reg) (v : DWord) : (s.setReg r v).x0Lost = s.x0Lost := rfl
@[simp] theorem State.perstLow_setReg (s : State) (r : Reg) (v : DWord) : (s.setReg r v).perstLow = s.perstLow := rfl
@[simp] theorem State.straps_setReg (s : State) (r : Reg) (v : DWord) : (s.setReg r v).straps = s.straps := rfl
@[simp] theorem State.boot_setReg (s : State) (r : Reg) (v : DWord) : (s.setReg r v).boot = s.boot := rfl
@[simp] theorem State.bootRun_setReg (s : State) (r : Reg) (v : DWord) : (s.setReg r v).bootRun = s.bootRun := rfl
@[simp] theorem State.mem_setReg (s : State) (r : Reg) (v : DWord) : (s.setReg r v).mem = s.mem := rfl
@[simp] theorem State.checks_setReg (s : State) (r : Reg) (v : DWord) : (s.setReg r v).checks = s.checks := rfl
@[simp] theorem State.stores_setReg (s : State) (r : Reg) (v : DWord) : (s.setReg r v).stores = s.stores := rfl
@[simp] theorem State.fplan_setReg (s : State) (r : Reg) (v : DWord) : (s.setReg r v).fplan = s.fplan := rfl
@[simp] theorem State.fpDirty_setReg (s : State) (r : Reg) (v : DWord) : (s.setReg r v).fpDirty = s.fpDirty := rfl
@[simp] theorem State.coreState_setReg (s : State) (r : Reg) (v : DWord) : (s.setReg r v).coreState = s.coreState := rfl
@[simp] theorem State.towerState_setReg (s : State) (r : Reg) (v : DWord) : (s.setReg r v).towerState = s.towerState := rfl
@[simp] theorem State.bankRetired_setReg (s : State) (r : Reg) (v : DWord) : (s.setReg r v).bankRetired = s.bankRetired := rfl
@[simp] theorem State.chanMapped_setReg (s : State) (r : Reg) (v : DWord) : (s.setReg r v).chanMapped = s.chanMapped := rfl
@[simp] theorem State.chanPoisoned_setReg (s : State) (r : Reg) (v : DWord) : (s.setReg r v).chanPoisoned = s.chanPoisoned := rfl
@[simp] theorem State.guestPresent_setReg (s : State) (r : Reg) (v : DWord) : (s.setReg r v).guestPresent = s.guestPresent := rfl
@[simp] theorem State.published_setReg (s : State) (r : Reg) (v : DWord) : (s.setReg r v).published = s.published := rfl
@[simp] theorem State.cores_setReg (s : State) (r : Reg) (v : DWord) : (s.setReg r v).cores = s.cores := rfl
@[simp] theorem State.beds_setReg (s : State) (r : Reg) (v : DWord) : (s.setReg r v).beds = s.beds := rfl
@[simp] theorem State.hbm_setReg (s : State) (r : Reg) (v : DWord) : (s.setReg r v).hbm = s.hbm := rfl
@[simp] theorem State.domains_setReg (s : State) (r : Reg) (v : DWord) : (s.setReg r v).domains = s.domains := rfl
@[simp] theorem State.thermal_setReg (s : State) (r : Reg) (v : DWord) : (s.setReg r v).thermal = s.thermal := rfl
@[simp] theorem State.vinAlert_setReg (s : State) (r : Reg) (v : DWord) : (s.setReg r v).vinAlert = s.vinAlert := rfl
@[simp] theorem State.vinHighSince_setReg (s : State) (r : Reg) (v : DWord) : (s.setReg r v).vinHighSince = s.vinHighSince := rfl
@[simp] theorem State.vinReturned_setReg (s : State) (r : Reg) (v : DWord) : (s.setReg r v).vinReturned = s.vinReturned := rfl
@[simp] theorem State.capIo_setReg (s : State) (r : Reg) (v : DWord) : (s.setReg r v).capIo = s.capIo := rfl
@[simp] theorem State.capTc_setReg (s : State) (r : Reg) (v : DWord) : (s.setReg r v).capTc = s.capTc := rfl
@[simp] theorem State.ports_setReg (s : State) (r : Reg) (v : DWord) : (s.setReg r v).ports = s.ports := rfl
@[simp] theorem State.guests_setReg (s : State) (r : Reg) (v : DWord) : (s.setReg r v).guests = s.guests := rfl
@[simp] theorem State.reqs_setReg (s : State) (r : Reg) (v : DWord) : (s.setReg r v).reqs = s.reqs := rfl
@[simp] theorem State.quiesced_setReg (s : State) (r : Reg) (v : DWord) : (s.setReg r v).quiesced = s.quiesced := rfl
@[simp] theorem State.spanLost_setReg (s : State) (r : Reg) (v : DWord) : (s.setReg r v).spanLost = s.spanLost := rfl
@[simp] theorem State.retiredSubs_setReg (s : State) (r : Reg) (v : DWord) : (s.setReg r v).retiredSubs = s.retiredSubs := rfl
@[simp] theorem State.ic_setReg (s : State) (r : Reg) (v : DWord) : (s.setReg r v).ic = s.ic := rfl
@[simp] theorem State.flog0_setReg (s : State) (r : Reg) (v : DWord) : (s.setReg r v).flog0 = s.flog0 := rfl
@[simp] theorem State.flog1_setReg (s : State) (r : Reg) (v : DWord) : (s.setReg r v).flog1 = s.flog1 := rfl
@[simp] theorem State.fatal_setReg (s : State) (r : Reg) (v : DWord) : (s.setReg r v).fatal = s.fatal := rfl
@[simp] theorem State.mbox_setReg (s : State) (r : Reg) (v : DWord) : (s.setReg r v).mbox = s.mbox := rfl
@[simp] theorem State.numVfs_setReg (s : State) (r : Reg) (v : DWord) : (s.setReg r v).numVfs = s.numVfs := rfl
@[simp] theorem State.vfEnable_setReg (s : State) (r : Reg) (v : DWord) : (s.setReg r v).vfEnable = s.vfEnable := rfl
@[simp] theorem State.vfPending_setReg (s : State) (r : Reg) (v : DWord) : (s.setReg r v).vfPending = s.vfPending := rfl
@[simp] theorem State.resets_setReg (s : State) (r : Reg) (v : DWord) : (s.setReg r v).resets = s.resets := rfl
@[simp] theorem State.alive_setReg (s : State) (r : Reg) (v : DWord) : (s.setReg r v).alive = s.alive := rfl
@[simp] theorem State.standby_setReg (s : State) (r : Reg) (v : DWord) : (s.setReg r v).standby = s.standby := rfl
@[simp] theorem State.hbActive_setReg (s : State) (r : Reg) (v : DWord) : (s.setReg r v).hbActive = s.hbActive := rfl
@[simp] theorem State.hbStandby_setReg (s : State) (r : Reg) (v : DWord) : (s.setReg r v).hbStandby = s.hbStandby := rfl
@[simp] theorem State.fwBuild_setReg (s : State) (r : Reg) (v : DWord) : (s.setReg r v).fwBuild = s.fwBuild := rfl
@[simp] theorem State.failovers_setReg (s : State) (r : Reg) (v : DWord) : (s.setReg r v).failovers = s.failovers := rfl
@[simp] theorem State.fwDead_setReg (s : State) (r : Reg) (v : DWord) : (s.setReg r v).fwDead = s.fwDead := rfl
@[simp] theorem State.segs_setReg (s : State) (r : Reg) (v : DWord) : (s.setReg r v).segs = s.segs := rfl
@[simp] theorem State.removing_setReg (s : State) (r : Reg) (v : DWord) : (s.setReg r v).removing = s.removing := rfl
@[simp] theorem State.keys_setReg (s : State) (r : Reg) (v : DWord) : (s.setReg r v).keys = s.keys := rfl
@[simp] theorem State.usedKeys_setReg (s : State) (r : Reg) (v : DWord) : (s.setReg r v).usedKeys = s.usedKeys := rfl
@[simp] theorem State.leases_setReg (s : State) (r : Reg) (v : DWord) : (s.setReg r v).leases = s.leases := rfl
@[simp] theorem State.revocation_setReg (s : State) (r : Reg) (v : DWord) : (s.setReg r v).revocation = s.revocation := rfl
@[simp] theorem State.engines_setReg (s : State) (r : Reg) (v : DWord) : (s.setReg r v).engines = s.engines := rfl
@[simp] theorem State.xfers_setReg (s : State) (r : Reg) (v : DWord) : (s.setReg r v).xfers = s.xfers := rfl
@[simp] theorem State.zeroing_setReg (s : State) (r : Reg) (v : DWord) : (s.setReg r v).zeroing = s.zeroing := rfl
@[simp] theorem State.lists_setReg (s : State) (r : Reg) (v : DWord) : (s.setReg r v).lists = s.lists := rfl
@[simp] theorem State.nextList_setReg (s : State) (r : Reg) (v : DWord) : (s.setReg r v).nextList = s.nextList := rfl
@[simp] theorem State.issueOrder_setReg (s : State) (r : Reg) (v : DWord) : (s.setReg r v).issueOrder = s.issueOrder := rfl
@[simp] theorem State.tagCtr_setReg (s : State) (r : Reg) (v : DWord) : (s.setReg r v).tagCtr = s.tagCtr := rfl
@[simp] theorem State.vCeiling_setReg (s : State) (r : Reg) (v : DWord) : (s.setReg r v).vCeiling = s.vCeiling := rfl
@[simp] theorem State.bankMode_setReg (s : State) (r : Reg) (v : DWord) : (s.setReg r v).bankMode = s.bankMode := rfl
@[simp] theorem State.pkgCap_setReg (s : State) (r : Reg) (v : DWord) : (s.setReg r v).pkgCap = s.pkgCap := rfl
@[simp] theorem State.rthInterval_setReg (s : State) (r : Reg) (v : DWord) : (s.setReg r v).rthInterval = s.rthInterval := rfl
@[simp] theorem State.preemptWait_setReg (s : State) (r : Reg) (v : DWord) : (s.setReg r v).preemptWait = s.preemptWait := rfl
@[simp] theorem State.stackIdle_setReg (s : State) (r : Reg) (v : DWord) : (s.setReg r v).stackIdle = s.stackIdle := rfl
@[simp] theorem State.vFloor_setReg (s : State) (r : Reg) (v : DWord) : (s.setReg r v).vFloor = s.vFloor := rfl
@[simp] theorem State.clamps_setReg (s : State) (r : Reg) (v : DWord) : (s.setReg r v).clamps = s.clamps := rfl
@[simp] theorem State.pauseUntil_setReg (s : State) (r : Reg) (v : DWord) : (s.setReg r v).pauseUntil = s.pauseUntil := rfl
@[simp] theorem State.lastPause_setReg (s : State) (r : Reg) (v : DWord) : (s.setReg r v).lastPause = s.lastPause := rfl
@[simp] theorem State.progress_setReg (s : State) (r : Reg) (v : DWord) : (s.setReg r v).progress = s.progress := rfl
@[simp] theorem State.watchdogs_setReg (s : State) (r : Reg) (v : DWord) : (s.setReg r v).watchdogs = s.watchdogs := rfl
@[simp] theorem State.traceDrops_setReg (s : State) (r : Reg) (v : DWord) : (s.setReg r v).traceDrops = s.traceDrops := rfl
@[simp] theorem State.lossRecords_setReg (s : State) (r : Reg) (v : DWord) : (s.setReg r v).lossRecords = s.lossRecords := rfl
@[simp] theorem State.sampling_setReg (s : State) (r : Reg) (v : DWord) : (s.setReg r v).sampling = s.sampling := rfl
@[simp] theorem State.lampCheck_setReg (s : State) (r : Reg) (v : DWord) : (s.setReg r v).lampCheck = s.lampCheck := rfl

/-! ### setBw -/

@[simp] theorem State.pending_setBw (s : State) (o : Nat) (v : DWord) : (s.setBw o v).pending = s.pending := rfl
@[simp] theorem State.fuses_setBw (s : State) (o : Nat) (v : DWord) : (s.setBw o v).fuses = s.fuses := rfl
@[simp] theorem State.out_setBw (s : State) (o : Nat) (v : DWord) : (s.setBw o v).out = s.out := rfl
@[simp] theorem State.freeCtr_setBw (s : State) (o : Nat) (v : DWord) : (s.setBw o v).freeCtr = s.freeCtr := rfl
@[simp] theorem State.now_setBw (s : State) (o : Nat) (v : DWord) : (s.setBw o v).now = s.now := rfl
@[simp] theorem State.tb_setBw (s : State) (o : Nat) (v : DWord) : (s.setBw o v).tb = s.tb := rfl
@[simp] theorem State.vaux_setBw (s : State) (o : Nat) (v : DWord) : (s.setBw o v).vaux = s.vaux := rfl
@[simp] theorem State.resetN_setBw (s : State) (o : Nat) (v : DWord) : (s.setBw o v).resetN = s.resetN := rfl
@[simp] theorem State.brownedOut_setBw (s : State) (o : Nat) (v : DWord) : (s.setBw o v).brownedOut = s.brownedOut := rfl
@[simp] theorem State.x0Lost_setBw (s : State) (o : Nat) (v : DWord) : (s.setBw o v).x0Lost = s.x0Lost := rfl
@[simp] theorem State.perstLow_setBw (s : State) (o : Nat) (v : DWord) : (s.setBw o v).perstLow = s.perstLow := rfl
@[simp] theorem State.straps_setBw (s : State) (o : Nat) (v : DWord) : (s.setBw o v).straps = s.straps := rfl
@[simp] theorem State.regs_setBw (s : State) (o : Nat) (v : DWord) : (s.setBw o v).regs = s.regs := rfl
@[simp] theorem State.bootRun_setBw (s : State) (o : Nat) (v : DWord) : (s.setBw o v).bootRun = s.bootRun := rfl
@[simp] theorem State.mem_setBw (s : State) (o : Nat) (v : DWord) : (s.setBw o v).mem = s.mem := rfl
@[simp] theorem State.checks_setBw (s : State) (o : Nat) (v : DWord) : (s.setBw o v).checks = s.checks := rfl
@[simp] theorem State.stores_setBw (s : State) (o : Nat) (v : DWord) : (s.setBw o v).stores = s.stores := rfl
@[simp] theorem State.fplan_setBw (s : State) (o : Nat) (v : DWord) : (s.setBw o v).fplan = s.fplan := rfl
@[simp] theorem State.fpDirty_setBw (s : State) (o : Nat) (v : DWord) : (s.setBw o v).fpDirty = s.fpDirty := rfl
@[simp] theorem State.coreState_setBw (s : State) (o : Nat) (v : DWord) : (s.setBw o v).coreState = s.coreState := rfl
@[simp] theorem State.towerState_setBw (s : State) (o : Nat) (v : DWord) : (s.setBw o v).towerState = s.towerState := rfl
@[simp] theorem State.bankRetired_setBw (s : State) (o : Nat) (v : DWord) : (s.setBw o v).bankRetired = s.bankRetired := rfl
@[simp] theorem State.chanMapped_setBw (s : State) (o : Nat) (v : DWord) : (s.setBw o v).chanMapped = s.chanMapped := rfl
@[simp] theorem State.chanPoisoned_setBw (s : State) (o : Nat) (v : DWord) : (s.setBw o v).chanPoisoned = s.chanPoisoned := rfl
@[simp] theorem State.guestPresent_setBw (s : State) (o : Nat) (v : DWord) : (s.setBw o v).guestPresent = s.guestPresent := rfl
@[simp] theorem State.published_setBw (s : State) (o : Nat) (v : DWord) : (s.setBw o v).published = s.published := rfl
@[simp] theorem State.cores_setBw (s : State) (o : Nat) (v : DWord) : (s.setBw o v).cores = s.cores := rfl
@[simp] theorem State.beds_setBw (s : State) (o : Nat) (v : DWord) : (s.setBw o v).beds = s.beds := rfl
@[simp] theorem State.hbm_setBw (s : State) (o : Nat) (v : DWord) : (s.setBw o v).hbm = s.hbm := rfl
@[simp] theorem State.domains_setBw (s : State) (o : Nat) (v : DWord) : (s.setBw o v).domains = s.domains := rfl
@[simp] theorem State.thermal_setBw (s : State) (o : Nat) (v : DWord) : (s.setBw o v).thermal = s.thermal := rfl
@[simp] theorem State.vinAlert_setBw (s : State) (o : Nat) (v : DWord) : (s.setBw o v).vinAlert = s.vinAlert := rfl
@[simp] theorem State.vinHighSince_setBw (s : State) (o : Nat) (v : DWord) : (s.setBw o v).vinHighSince = s.vinHighSince := rfl
@[simp] theorem State.vinReturned_setBw (s : State) (o : Nat) (v : DWord) : (s.setBw o v).vinReturned = s.vinReturned := rfl
@[simp] theorem State.capIo_setBw (s : State) (o : Nat) (v : DWord) : (s.setBw o v).capIo = s.capIo := rfl
@[simp] theorem State.capTc_setBw (s : State) (o : Nat) (v : DWord) : (s.setBw o v).capTc = s.capTc := rfl
@[simp] theorem State.ports_setBw (s : State) (o : Nat) (v : DWord) : (s.setBw o v).ports = s.ports := rfl
@[simp] theorem State.guests_setBw (s : State) (o : Nat) (v : DWord) : (s.setBw o v).guests = s.guests := rfl
@[simp] theorem State.reqs_setBw (s : State) (o : Nat) (v : DWord) : (s.setBw o v).reqs = s.reqs := rfl
@[simp] theorem State.quiesced_setBw (s : State) (o : Nat) (v : DWord) : (s.setBw o v).quiesced = s.quiesced := rfl
@[simp] theorem State.spanLost_setBw (s : State) (o : Nat) (v : DWord) : (s.setBw o v).spanLost = s.spanLost := rfl
@[simp] theorem State.retiredSubs_setBw (s : State) (o : Nat) (v : DWord) : (s.setBw o v).retiredSubs = s.retiredSubs := rfl
@[simp] theorem State.ic_setBw (s : State) (o : Nat) (v : DWord) : (s.setBw o v).ic = s.ic := rfl
@[simp] theorem State.flog0_setBw (s : State) (o : Nat) (v : DWord) : (s.setBw o v).flog0 = s.flog0 := rfl
@[simp] theorem State.flog1_setBw (s : State) (o : Nat) (v : DWord) : (s.setBw o v).flog1 = s.flog1 := rfl
@[simp] theorem State.fatal_setBw (s : State) (o : Nat) (v : DWord) : (s.setBw o v).fatal = s.fatal := rfl
@[simp] theorem State.mbox_setBw (s : State) (o : Nat) (v : DWord) : (s.setBw o v).mbox = s.mbox := rfl
@[simp] theorem State.numVfs_setBw (s : State) (o : Nat) (v : DWord) : (s.setBw o v).numVfs = s.numVfs := rfl
@[simp] theorem State.vfEnable_setBw (s : State) (o : Nat) (v : DWord) : (s.setBw o v).vfEnable = s.vfEnable := rfl
@[simp] theorem State.vfPending_setBw (s : State) (o : Nat) (v : DWord) : (s.setBw o v).vfPending = s.vfPending := rfl
@[simp] theorem State.resets_setBw (s : State) (o : Nat) (v : DWord) : (s.setBw o v).resets = s.resets := rfl
@[simp] theorem State.alive_setBw (s : State) (o : Nat) (v : DWord) : (s.setBw o v).alive = s.alive := rfl
@[simp] theorem State.standby_setBw (s : State) (o : Nat) (v : DWord) : (s.setBw o v).standby = s.standby := rfl
@[simp] theorem State.hbActive_setBw (s : State) (o : Nat) (v : DWord) : (s.setBw o v).hbActive = s.hbActive := rfl
@[simp] theorem State.hbStandby_setBw (s : State) (o : Nat) (v : DWord) : (s.setBw o v).hbStandby = s.hbStandby := rfl
@[simp] theorem State.fwBuild_setBw (s : State) (o : Nat) (v : DWord) : (s.setBw o v).fwBuild = s.fwBuild := rfl
@[simp] theorem State.failovers_setBw (s : State) (o : Nat) (v : DWord) : (s.setBw o v).failovers = s.failovers := rfl
@[simp] theorem State.fwDead_setBw (s : State) (o : Nat) (v : DWord) : (s.setBw o v).fwDead = s.fwDead := rfl
@[simp] theorem State.segs_setBw (s : State) (o : Nat) (v : DWord) : (s.setBw o v).segs = s.segs := rfl
@[simp] theorem State.removing_setBw (s : State) (o : Nat) (v : DWord) : (s.setBw o v).removing = s.removing := rfl
@[simp] theorem State.keys_setBw (s : State) (o : Nat) (v : DWord) : (s.setBw o v).keys = s.keys := rfl
@[simp] theorem State.usedKeys_setBw (s : State) (o : Nat) (v : DWord) : (s.setBw o v).usedKeys = s.usedKeys := rfl
@[simp] theorem State.leases_setBw (s : State) (o : Nat) (v : DWord) : (s.setBw o v).leases = s.leases := rfl
@[simp] theorem State.revocation_setBw (s : State) (o : Nat) (v : DWord) : (s.setBw o v).revocation = s.revocation := rfl
@[simp] theorem State.engines_setBw (s : State) (o : Nat) (v : DWord) : (s.setBw o v).engines = s.engines := rfl
@[simp] theorem State.xfers_setBw (s : State) (o : Nat) (v : DWord) : (s.setBw o v).xfers = s.xfers := rfl
@[simp] theorem State.zeroing_setBw (s : State) (o : Nat) (v : DWord) : (s.setBw o v).zeroing = s.zeroing := rfl
@[simp] theorem State.lists_setBw (s : State) (o : Nat) (v : DWord) : (s.setBw o v).lists = s.lists := rfl
@[simp] theorem State.nextList_setBw (s : State) (o : Nat) (v : DWord) : (s.setBw o v).nextList = s.nextList := rfl
@[simp] theorem State.issueOrder_setBw (s : State) (o : Nat) (v : DWord) : (s.setBw o v).issueOrder = s.issueOrder := rfl
@[simp] theorem State.tagCtr_setBw (s : State) (o : Nat) (v : DWord) : (s.setBw o v).tagCtr = s.tagCtr := rfl
@[simp] theorem State.vCeiling_setBw (s : State) (o : Nat) (v : DWord) : (s.setBw o v).vCeiling = s.vCeiling := rfl
@[simp] theorem State.bankMode_setBw (s : State) (o : Nat) (v : DWord) : (s.setBw o v).bankMode = s.bankMode := rfl
@[simp] theorem State.pkgCap_setBw (s : State) (o : Nat) (v : DWord) : (s.setBw o v).pkgCap = s.pkgCap := rfl
@[simp] theorem State.rthInterval_setBw (s : State) (o : Nat) (v : DWord) : (s.setBw o v).rthInterval = s.rthInterval := rfl
@[simp] theorem State.preemptWait_setBw (s : State) (o : Nat) (v : DWord) : (s.setBw o v).preemptWait = s.preemptWait := rfl
@[simp] theorem State.stackIdle_setBw (s : State) (o : Nat) (v : DWord) : (s.setBw o v).stackIdle = s.stackIdle := rfl
@[simp] theorem State.vFloor_setBw (s : State) (o : Nat) (v : DWord) : (s.setBw o v).vFloor = s.vFloor := rfl
@[simp] theorem State.clamps_setBw (s : State) (o : Nat) (v : DWord) : (s.setBw o v).clamps = s.clamps := rfl
@[simp] theorem State.pauseUntil_setBw (s : State) (o : Nat) (v : DWord) : (s.setBw o v).pauseUntil = s.pauseUntil := rfl
@[simp] theorem State.lastPause_setBw (s : State) (o : Nat) (v : DWord) : (s.setBw o v).lastPause = s.lastPause := rfl
@[simp] theorem State.progress_setBw (s : State) (o : Nat) (v : DWord) : (s.setBw o v).progress = s.progress := rfl
@[simp] theorem State.watchdogs_setBw (s : State) (o : Nat) (v : DWord) : (s.setBw o v).watchdogs = s.watchdogs := rfl
@[simp] theorem State.traceDrops_setBw (s : State) (o : Nat) (v : DWord) : (s.setBw o v).traceDrops = s.traceDrops := rfl
@[simp] theorem State.lossRecords_setBw (s : State) (o : Nat) (v : DWord) : (s.setBw o v).lossRecords = s.lossRecords := rfl
@[simp] theorem State.sampling_setBw (s : State) (o : Nat) (v : DWord) : (s.setBw o v).sampling = s.sampling := rfl
@[simp] theorem State.lampCheck_setBw (s : State) (o : Nat) (v : DWord) : (s.setBw o v).lampCheck = s.lampCheck := rfl

/-! ### setCoreUnit -/

@[simp] theorem State.pending_setCoreUnit (s : State) (k : Nat) (c : CoreUnit) : (s.setCoreUnit k c).pending = s.pending := rfl
@[simp] theorem State.fuses_setCoreUnit (s : State) (k : Nat) (c : CoreUnit) : (s.setCoreUnit k c).fuses = s.fuses := rfl
@[simp] theorem State.out_setCoreUnit (s : State) (k : Nat) (c : CoreUnit) : (s.setCoreUnit k c).out = s.out := rfl
@[simp] theorem State.freeCtr_setCoreUnit (s : State) (k : Nat) (c : CoreUnit) : (s.setCoreUnit k c).freeCtr = s.freeCtr := rfl
@[simp] theorem State.now_setCoreUnit (s : State) (k : Nat) (c : CoreUnit) : (s.setCoreUnit k c).now = s.now := rfl
@[simp] theorem State.tb_setCoreUnit (s : State) (k : Nat) (c : CoreUnit) : (s.setCoreUnit k c).tb = s.tb := rfl
@[simp] theorem State.vaux_setCoreUnit (s : State) (k : Nat) (c : CoreUnit) : (s.setCoreUnit k c).vaux = s.vaux := rfl
@[simp] theorem State.resetN_setCoreUnit (s : State) (k : Nat) (c : CoreUnit) : (s.setCoreUnit k c).resetN = s.resetN := rfl
@[simp] theorem State.brownedOut_setCoreUnit (s : State) (k : Nat) (c : CoreUnit) : (s.setCoreUnit k c).brownedOut = s.brownedOut := rfl
@[simp] theorem State.x0Lost_setCoreUnit (s : State) (k : Nat) (c : CoreUnit) : (s.setCoreUnit k c).x0Lost = s.x0Lost := rfl
@[simp] theorem State.perstLow_setCoreUnit (s : State) (k : Nat) (c : CoreUnit) : (s.setCoreUnit k c).perstLow = s.perstLow := rfl
@[simp] theorem State.straps_setCoreUnit (s : State) (k : Nat) (c : CoreUnit) : (s.setCoreUnit k c).straps = s.straps := rfl
@[simp] theorem State.regs_setCoreUnit (s : State) (k : Nat) (c : CoreUnit) : (s.setCoreUnit k c).regs = s.regs := rfl
@[simp] theorem State.boot_setCoreUnit (s : State) (k : Nat) (c : CoreUnit) : (s.setCoreUnit k c).boot = s.boot := rfl
@[simp] theorem State.bootRun_setCoreUnit (s : State) (k : Nat) (c : CoreUnit) : (s.setCoreUnit k c).bootRun = s.bootRun := rfl
@[simp] theorem State.mem_setCoreUnit (s : State) (k : Nat) (c : CoreUnit) : (s.setCoreUnit k c).mem = s.mem := rfl
@[simp] theorem State.checks_setCoreUnit (s : State) (k : Nat) (c : CoreUnit) : (s.setCoreUnit k c).checks = s.checks := rfl
@[simp] theorem State.stores_setCoreUnit (s : State) (k : Nat) (c : CoreUnit) : (s.setCoreUnit k c).stores = s.stores := rfl
@[simp] theorem State.fplan_setCoreUnit (s : State) (k : Nat) (c : CoreUnit) : (s.setCoreUnit k c).fplan = s.fplan := rfl
@[simp] theorem State.fpDirty_setCoreUnit (s : State) (k : Nat) (c : CoreUnit) : (s.setCoreUnit k c).fpDirty = s.fpDirty := rfl
@[simp] theorem State.coreState_setCoreUnit (s : State) (k : Nat) (c : CoreUnit) : (s.setCoreUnit k c).coreState = s.coreState := rfl
@[simp] theorem State.towerState_setCoreUnit (s : State) (k : Nat) (c : CoreUnit) : (s.setCoreUnit k c).towerState = s.towerState := rfl
@[simp] theorem State.bankRetired_setCoreUnit (s : State) (k : Nat) (c : CoreUnit) : (s.setCoreUnit k c).bankRetired = s.bankRetired := rfl
@[simp] theorem State.chanMapped_setCoreUnit (s : State) (k : Nat) (c : CoreUnit) : (s.setCoreUnit k c).chanMapped = s.chanMapped := rfl
@[simp] theorem State.chanPoisoned_setCoreUnit (s : State) (k : Nat) (c : CoreUnit) : (s.setCoreUnit k c).chanPoisoned = s.chanPoisoned := rfl
@[simp] theorem State.guestPresent_setCoreUnit (s : State) (k : Nat) (c : CoreUnit) : (s.setCoreUnit k c).guestPresent = s.guestPresent := rfl
@[simp] theorem State.published_setCoreUnit (s : State) (k : Nat) (c : CoreUnit) : (s.setCoreUnit k c).published = s.published := rfl
@[simp] theorem State.beds_setCoreUnit (s : State) (k : Nat) (c : CoreUnit) : (s.setCoreUnit k c).beds = s.beds := rfl
@[simp] theorem State.hbm_setCoreUnit (s : State) (k : Nat) (c : CoreUnit) : (s.setCoreUnit k c).hbm = s.hbm := rfl
@[simp] theorem State.domains_setCoreUnit (s : State) (k : Nat) (c : CoreUnit) : (s.setCoreUnit k c).domains = s.domains := rfl
@[simp] theorem State.thermal_setCoreUnit (s : State) (k : Nat) (c : CoreUnit) : (s.setCoreUnit k c).thermal = s.thermal := rfl
@[simp] theorem State.vinAlert_setCoreUnit (s : State) (k : Nat) (c : CoreUnit) : (s.setCoreUnit k c).vinAlert = s.vinAlert := rfl
@[simp] theorem State.vinHighSince_setCoreUnit (s : State) (k : Nat) (c : CoreUnit) : (s.setCoreUnit k c).vinHighSince = s.vinHighSince := rfl
@[simp] theorem State.vinReturned_setCoreUnit (s : State) (k : Nat) (c : CoreUnit) : (s.setCoreUnit k c).vinReturned = s.vinReturned := rfl
@[simp] theorem State.capIo_setCoreUnit (s : State) (k : Nat) (c : CoreUnit) : (s.setCoreUnit k c).capIo = s.capIo := rfl
@[simp] theorem State.capTc_setCoreUnit (s : State) (k : Nat) (c : CoreUnit) : (s.setCoreUnit k c).capTc = s.capTc := rfl
@[simp] theorem State.ports_setCoreUnit (s : State) (k : Nat) (c : CoreUnit) : (s.setCoreUnit k c).ports = s.ports := rfl
@[simp] theorem State.guests_setCoreUnit (s : State) (k : Nat) (c : CoreUnit) : (s.setCoreUnit k c).guests = s.guests := rfl
@[simp] theorem State.reqs_setCoreUnit (s : State) (k : Nat) (c : CoreUnit) : (s.setCoreUnit k c).reqs = s.reqs := rfl
@[simp] theorem State.quiesced_setCoreUnit (s : State) (k : Nat) (c : CoreUnit) : (s.setCoreUnit k c).quiesced = s.quiesced := rfl
@[simp] theorem State.spanLost_setCoreUnit (s : State) (k : Nat) (c : CoreUnit) : (s.setCoreUnit k c).spanLost = s.spanLost := rfl
@[simp] theorem State.retiredSubs_setCoreUnit (s : State) (k : Nat) (c : CoreUnit) : (s.setCoreUnit k c).retiredSubs = s.retiredSubs := rfl
@[simp] theorem State.ic_setCoreUnit (s : State) (k : Nat) (c : CoreUnit) : (s.setCoreUnit k c).ic = s.ic := rfl
@[simp] theorem State.flog0_setCoreUnit (s : State) (k : Nat) (c : CoreUnit) : (s.setCoreUnit k c).flog0 = s.flog0 := rfl
@[simp] theorem State.flog1_setCoreUnit (s : State) (k : Nat) (c : CoreUnit) : (s.setCoreUnit k c).flog1 = s.flog1 := rfl
@[simp] theorem State.fatal_setCoreUnit (s : State) (k : Nat) (c : CoreUnit) : (s.setCoreUnit k c).fatal = s.fatal := rfl
@[simp] theorem State.mbox_setCoreUnit (s : State) (k : Nat) (c : CoreUnit) : (s.setCoreUnit k c).mbox = s.mbox := rfl
@[simp] theorem State.numVfs_setCoreUnit (s : State) (k : Nat) (c : CoreUnit) : (s.setCoreUnit k c).numVfs = s.numVfs := rfl
@[simp] theorem State.vfEnable_setCoreUnit (s : State) (k : Nat) (c : CoreUnit) : (s.setCoreUnit k c).vfEnable = s.vfEnable := rfl
@[simp] theorem State.vfPending_setCoreUnit (s : State) (k : Nat) (c : CoreUnit) : (s.setCoreUnit k c).vfPending = s.vfPending := rfl
@[simp] theorem State.resets_setCoreUnit (s : State) (k : Nat) (c : CoreUnit) : (s.setCoreUnit k c).resets = s.resets := rfl
@[simp] theorem State.alive_setCoreUnit (s : State) (k : Nat) (c : CoreUnit) : (s.setCoreUnit k c).alive = s.alive := rfl
@[simp] theorem State.standby_setCoreUnit (s : State) (k : Nat) (c : CoreUnit) : (s.setCoreUnit k c).standby = s.standby := rfl
@[simp] theorem State.hbActive_setCoreUnit (s : State) (k : Nat) (c : CoreUnit) : (s.setCoreUnit k c).hbActive = s.hbActive := rfl
@[simp] theorem State.hbStandby_setCoreUnit (s : State) (k : Nat) (c : CoreUnit) : (s.setCoreUnit k c).hbStandby = s.hbStandby := rfl
@[simp] theorem State.fwBuild_setCoreUnit (s : State) (k : Nat) (c : CoreUnit) : (s.setCoreUnit k c).fwBuild = s.fwBuild := rfl
@[simp] theorem State.failovers_setCoreUnit (s : State) (k : Nat) (c : CoreUnit) : (s.setCoreUnit k c).failovers = s.failovers := rfl
@[simp] theorem State.fwDead_setCoreUnit (s : State) (k : Nat) (c : CoreUnit) : (s.setCoreUnit k c).fwDead = s.fwDead := rfl
@[simp] theorem State.segs_setCoreUnit (s : State) (k : Nat) (c : CoreUnit) : (s.setCoreUnit k c).segs = s.segs := rfl
@[simp] theorem State.removing_setCoreUnit (s : State) (k : Nat) (c : CoreUnit) : (s.setCoreUnit k c).removing = s.removing := rfl
@[simp] theorem State.keys_setCoreUnit (s : State) (k : Nat) (c : CoreUnit) : (s.setCoreUnit k c).keys = s.keys := rfl
@[simp] theorem State.usedKeys_setCoreUnit (s : State) (k : Nat) (c : CoreUnit) : (s.setCoreUnit k c).usedKeys = s.usedKeys := rfl
@[simp] theorem State.leases_setCoreUnit (s : State) (k : Nat) (c : CoreUnit) : (s.setCoreUnit k c).leases = s.leases := rfl
@[simp] theorem State.revocation_setCoreUnit (s : State) (k : Nat) (c : CoreUnit) : (s.setCoreUnit k c).revocation = s.revocation := rfl
@[simp] theorem State.engines_setCoreUnit (s : State) (k : Nat) (c : CoreUnit) : (s.setCoreUnit k c).engines = s.engines := rfl
@[simp] theorem State.xfers_setCoreUnit (s : State) (k : Nat) (c : CoreUnit) : (s.setCoreUnit k c).xfers = s.xfers := rfl
@[simp] theorem State.zeroing_setCoreUnit (s : State) (k : Nat) (c : CoreUnit) : (s.setCoreUnit k c).zeroing = s.zeroing := rfl
@[simp] theorem State.lists_setCoreUnit (s : State) (k : Nat) (c : CoreUnit) : (s.setCoreUnit k c).lists = s.lists := rfl
@[simp] theorem State.nextList_setCoreUnit (s : State) (k : Nat) (c : CoreUnit) : (s.setCoreUnit k c).nextList = s.nextList := rfl
@[simp] theorem State.issueOrder_setCoreUnit (s : State) (k : Nat) (c : CoreUnit) : (s.setCoreUnit k c).issueOrder = s.issueOrder := rfl
@[simp] theorem State.tagCtr_setCoreUnit (s : State) (k : Nat) (c : CoreUnit) : (s.setCoreUnit k c).tagCtr = s.tagCtr := rfl
@[simp] theorem State.vCeiling_setCoreUnit (s : State) (k : Nat) (c : CoreUnit) : (s.setCoreUnit k c).vCeiling = s.vCeiling := rfl
@[simp] theorem State.bankMode_setCoreUnit (s : State) (k : Nat) (c : CoreUnit) : (s.setCoreUnit k c).bankMode = s.bankMode := rfl
@[simp] theorem State.pkgCap_setCoreUnit (s : State) (k : Nat) (c : CoreUnit) : (s.setCoreUnit k c).pkgCap = s.pkgCap := rfl
@[simp] theorem State.rthInterval_setCoreUnit (s : State) (k : Nat) (c : CoreUnit) : (s.setCoreUnit k c).rthInterval = s.rthInterval := rfl
@[simp] theorem State.preemptWait_setCoreUnit (s : State) (k : Nat) (c : CoreUnit) : (s.setCoreUnit k c).preemptWait = s.preemptWait := rfl
@[simp] theorem State.stackIdle_setCoreUnit (s : State) (k : Nat) (c : CoreUnit) : (s.setCoreUnit k c).stackIdle = s.stackIdle := rfl
@[simp] theorem State.vFloor_setCoreUnit (s : State) (k : Nat) (c : CoreUnit) : (s.setCoreUnit k c).vFloor = s.vFloor := rfl
@[simp] theorem State.clamps_setCoreUnit (s : State) (k : Nat) (c : CoreUnit) : (s.setCoreUnit k c).clamps = s.clamps := rfl
@[simp] theorem State.pauseUntil_setCoreUnit (s : State) (k : Nat) (c : CoreUnit) : (s.setCoreUnit k c).pauseUntil = s.pauseUntil := rfl
@[simp] theorem State.lastPause_setCoreUnit (s : State) (k : Nat) (c : CoreUnit) : (s.setCoreUnit k c).lastPause = s.lastPause := rfl
@[simp] theorem State.progress_setCoreUnit (s : State) (k : Nat) (c : CoreUnit) : (s.setCoreUnit k c).progress = s.progress := rfl
@[simp] theorem State.watchdogs_setCoreUnit (s : State) (k : Nat) (c : CoreUnit) : (s.setCoreUnit k c).watchdogs = s.watchdogs := rfl
@[simp] theorem State.traceDrops_setCoreUnit (s : State) (k : Nat) (c : CoreUnit) : (s.setCoreUnit k c).traceDrops = s.traceDrops := rfl
@[simp] theorem State.lossRecords_setCoreUnit (s : State) (k : Nat) (c : CoreUnit) : (s.setCoreUnit k c).lossRecords = s.lossRecords := rfl
@[simp] theorem State.sampling_setCoreUnit (s : State) (k : Nat) (c : CoreUnit) : (s.setCoreUnit k c).sampling = s.sampling := rfl
@[simp] theorem State.lampCheck_setCoreUnit (s : State) (k : Nat) (c : CoreUnit) : (s.setCoreUnit k c).lampCheck = s.lampCheck := rfl

/-! ### setBed -/

@[simp] theorem State.pending_setBed (s : State) (k : Nat) (b : Bed) : (s.setBed k b).pending = s.pending := rfl
@[simp] theorem State.fuses_setBed (s : State) (k : Nat) (b : Bed) : (s.setBed k b).fuses = s.fuses := rfl
@[simp] theorem State.out_setBed (s : State) (k : Nat) (b : Bed) : (s.setBed k b).out = s.out := rfl
@[simp] theorem State.freeCtr_setBed (s : State) (k : Nat) (b : Bed) : (s.setBed k b).freeCtr = s.freeCtr := rfl
@[simp] theorem State.now_setBed (s : State) (k : Nat) (b : Bed) : (s.setBed k b).now = s.now := rfl
@[simp] theorem State.tb_setBed (s : State) (k : Nat) (b : Bed) : (s.setBed k b).tb = s.tb := rfl
@[simp] theorem State.vaux_setBed (s : State) (k : Nat) (b : Bed) : (s.setBed k b).vaux = s.vaux := rfl
@[simp] theorem State.resetN_setBed (s : State) (k : Nat) (b : Bed) : (s.setBed k b).resetN = s.resetN := rfl
@[simp] theorem State.brownedOut_setBed (s : State) (k : Nat) (b : Bed) : (s.setBed k b).brownedOut = s.brownedOut := rfl
@[simp] theorem State.x0Lost_setBed (s : State) (k : Nat) (b : Bed) : (s.setBed k b).x0Lost = s.x0Lost := rfl
@[simp] theorem State.perstLow_setBed (s : State) (k : Nat) (b : Bed) : (s.setBed k b).perstLow = s.perstLow := rfl
@[simp] theorem State.straps_setBed (s : State) (k : Nat) (b : Bed) : (s.setBed k b).straps = s.straps := rfl
@[simp] theorem State.regs_setBed (s : State) (k : Nat) (b : Bed) : (s.setBed k b).regs = s.regs := rfl
@[simp] theorem State.boot_setBed (s : State) (k : Nat) (b : Bed) : (s.setBed k b).boot = s.boot := rfl
@[simp] theorem State.bootRun_setBed (s : State) (k : Nat) (b : Bed) : (s.setBed k b).bootRun = s.bootRun := rfl
@[simp] theorem State.mem_setBed (s : State) (k : Nat) (b : Bed) : (s.setBed k b).mem = s.mem := rfl
@[simp] theorem State.checks_setBed (s : State) (k : Nat) (b : Bed) : (s.setBed k b).checks = s.checks := rfl
@[simp] theorem State.stores_setBed (s : State) (k : Nat) (b : Bed) : (s.setBed k b).stores = s.stores := rfl
@[simp] theorem State.fplan_setBed (s : State) (k : Nat) (b : Bed) : (s.setBed k b).fplan = s.fplan := rfl
@[simp] theorem State.fpDirty_setBed (s : State) (k : Nat) (b : Bed) : (s.setBed k b).fpDirty = s.fpDirty := rfl
@[simp] theorem State.coreState_setBed (s : State) (k : Nat) (b : Bed) : (s.setBed k b).coreState = s.coreState := rfl
@[simp] theorem State.towerState_setBed (s : State) (k : Nat) (b : Bed) : (s.setBed k b).towerState = s.towerState := rfl
@[simp] theorem State.bankRetired_setBed (s : State) (k : Nat) (b : Bed) : (s.setBed k b).bankRetired = s.bankRetired := rfl
@[simp] theorem State.chanMapped_setBed (s : State) (k : Nat) (b : Bed) : (s.setBed k b).chanMapped = s.chanMapped := rfl
@[simp] theorem State.chanPoisoned_setBed (s : State) (k : Nat) (b : Bed) : (s.setBed k b).chanPoisoned = s.chanPoisoned := rfl
@[simp] theorem State.guestPresent_setBed (s : State) (k : Nat) (b : Bed) : (s.setBed k b).guestPresent = s.guestPresent := rfl
@[simp] theorem State.published_setBed (s : State) (k : Nat) (b : Bed) : (s.setBed k b).published = s.published := rfl
@[simp] theorem State.cores_setBed (s : State) (k : Nat) (b : Bed) : (s.setBed k b).cores = s.cores := rfl
@[simp] theorem State.hbm_setBed (s : State) (k : Nat) (b : Bed) : (s.setBed k b).hbm = s.hbm := rfl
@[simp] theorem State.domains_setBed (s : State) (k : Nat) (b : Bed) : (s.setBed k b).domains = s.domains := rfl
@[simp] theorem State.thermal_setBed (s : State) (k : Nat) (b : Bed) : (s.setBed k b).thermal = s.thermal := rfl
@[simp] theorem State.vinAlert_setBed (s : State) (k : Nat) (b : Bed) : (s.setBed k b).vinAlert = s.vinAlert := rfl
@[simp] theorem State.vinHighSince_setBed (s : State) (k : Nat) (b : Bed) : (s.setBed k b).vinHighSince = s.vinHighSince := rfl
@[simp] theorem State.vinReturned_setBed (s : State) (k : Nat) (b : Bed) : (s.setBed k b).vinReturned = s.vinReturned := rfl
@[simp] theorem State.capIo_setBed (s : State) (k : Nat) (b : Bed) : (s.setBed k b).capIo = s.capIo := rfl
@[simp] theorem State.capTc_setBed (s : State) (k : Nat) (b : Bed) : (s.setBed k b).capTc = s.capTc := rfl
@[simp] theorem State.ports_setBed (s : State) (k : Nat) (b : Bed) : (s.setBed k b).ports = s.ports := rfl
@[simp] theorem State.guests_setBed (s : State) (k : Nat) (b : Bed) : (s.setBed k b).guests = s.guests := rfl
@[simp] theorem State.reqs_setBed (s : State) (k : Nat) (b : Bed) : (s.setBed k b).reqs = s.reqs := rfl
@[simp] theorem State.quiesced_setBed (s : State) (k : Nat) (b : Bed) : (s.setBed k b).quiesced = s.quiesced := rfl
@[simp] theorem State.spanLost_setBed (s : State) (k : Nat) (b : Bed) : (s.setBed k b).spanLost = s.spanLost := rfl
@[simp] theorem State.retiredSubs_setBed (s : State) (k : Nat) (b : Bed) : (s.setBed k b).retiredSubs = s.retiredSubs := rfl
@[simp] theorem State.ic_setBed (s : State) (k : Nat) (b : Bed) : (s.setBed k b).ic = s.ic := rfl
@[simp] theorem State.flog0_setBed (s : State) (k : Nat) (b : Bed) : (s.setBed k b).flog0 = s.flog0 := rfl
@[simp] theorem State.flog1_setBed (s : State) (k : Nat) (b : Bed) : (s.setBed k b).flog1 = s.flog1 := rfl
@[simp] theorem State.fatal_setBed (s : State) (k : Nat) (b : Bed) : (s.setBed k b).fatal = s.fatal := rfl
@[simp] theorem State.mbox_setBed (s : State) (k : Nat) (b : Bed) : (s.setBed k b).mbox = s.mbox := rfl
@[simp] theorem State.numVfs_setBed (s : State) (k : Nat) (b : Bed) : (s.setBed k b).numVfs = s.numVfs := rfl
@[simp] theorem State.vfEnable_setBed (s : State) (k : Nat) (b : Bed) : (s.setBed k b).vfEnable = s.vfEnable := rfl
@[simp] theorem State.vfPending_setBed (s : State) (k : Nat) (b : Bed) : (s.setBed k b).vfPending = s.vfPending := rfl
@[simp] theorem State.resets_setBed (s : State) (k : Nat) (b : Bed) : (s.setBed k b).resets = s.resets := rfl
@[simp] theorem State.alive_setBed (s : State) (k : Nat) (b : Bed) : (s.setBed k b).alive = s.alive := rfl
@[simp] theorem State.standby_setBed (s : State) (k : Nat) (b : Bed) : (s.setBed k b).standby = s.standby := rfl
@[simp] theorem State.hbActive_setBed (s : State) (k : Nat) (b : Bed) : (s.setBed k b).hbActive = s.hbActive := rfl
@[simp] theorem State.hbStandby_setBed (s : State) (k : Nat) (b : Bed) : (s.setBed k b).hbStandby = s.hbStandby := rfl
@[simp] theorem State.fwBuild_setBed (s : State) (k : Nat) (b : Bed) : (s.setBed k b).fwBuild = s.fwBuild := rfl
@[simp] theorem State.failovers_setBed (s : State) (k : Nat) (b : Bed) : (s.setBed k b).failovers = s.failovers := rfl
@[simp] theorem State.fwDead_setBed (s : State) (k : Nat) (b : Bed) : (s.setBed k b).fwDead = s.fwDead := rfl
@[simp] theorem State.segs_setBed (s : State) (k : Nat) (b : Bed) : (s.setBed k b).segs = s.segs := rfl
@[simp] theorem State.removing_setBed (s : State) (k : Nat) (b : Bed) : (s.setBed k b).removing = s.removing := rfl
@[simp] theorem State.keys_setBed (s : State) (k : Nat) (b : Bed) : (s.setBed k b).keys = s.keys := rfl
@[simp] theorem State.usedKeys_setBed (s : State) (k : Nat) (b : Bed) : (s.setBed k b).usedKeys = s.usedKeys := rfl
@[simp] theorem State.leases_setBed (s : State) (k : Nat) (b : Bed) : (s.setBed k b).leases = s.leases := rfl
@[simp] theorem State.revocation_setBed (s : State) (k : Nat) (b : Bed) : (s.setBed k b).revocation = s.revocation := rfl
@[simp] theorem State.engines_setBed (s : State) (k : Nat) (b : Bed) : (s.setBed k b).engines = s.engines := rfl
@[simp] theorem State.xfers_setBed (s : State) (k : Nat) (b : Bed) : (s.setBed k b).xfers = s.xfers := rfl
@[simp] theorem State.zeroing_setBed (s : State) (k : Nat) (b : Bed) : (s.setBed k b).zeroing = s.zeroing := rfl
@[simp] theorem State.lists_setBed (s : State) (k : Nat) (b : Bed) : (s.setBed k b).lists = s.lists := rfl
@[simp] theorem State.nextList_setBed (s : State) (k : Nat) (b : Bed) : (s.setBed k b).nextList = s.nextList := rfl
@[simp] theorem State.issueOrder_setBed (s : State) (k : Nat) (b : Bed) : (s.setBed k b).issueOrder = s.issueOrder := rfl
@[simp] theorem State.tagCtr_setBed (s : State) (k : Nat) (b : Bed) : (s.setBed k b).tagCtr = s.tagCtr := rfl
@[simp] theorem State.vCeiling_setBed (s : State) (k : Nat) (b : Bed) : (s.setBed k b).vCeiling = s.vCeiling := rfl
@[simp] theorem State.bankMode_setBed (s : State) (k : Nat) (b : Bed) : (s.setBed k b).bankMode = s.bankMode := rfl
@[simp] theorem State.pkgCap_setBed (s : State) (k : Nat) (b : Bed) : (s.setBed k b).pkgCap = s.pkgCap := rfl
@[simp] theorem State.rthInterval_setBed (s : State) (k : Nat) (b : Bed) : (s.setBed k b).rthInterval = s.rthInterval := rfl
@[simp] theorem State.preemptWait_setBed (s : State) (k : Nat) (b : Bed) : (s.setBed k b).preemptWait = s.preemptWait := rfl
@[simp] theorem State.stackIdle_setBed (s : State) (k : Nat) (b : Bed) : (s.setBed k b).stackIdle = s.stackIdle := rfl
@[simp] theorem State.vFloor_setBed (s : State) (k : Nat) (b : Bed) : (s.setBed k b).vFloor = s.vFloor := rfl
@[simp] theorem State.clamps_setBed (s : State) (k : Nat) (b : Bed) : (s.setBed k b).clamps = s.clamps := rfl
@[simp] theorem State.pauseUntil_setBed (s : State) (k : Nat) (b : Bed) : (s.setBed k b).pauseUntil = s.pauseUntil := rfl
@[simp] theorem State.lastPause_setBed (s : State) (k : Nat) (b : Bed) : (s.setBed k b).lastPause = s.lastPause := rfl
@[simp] theorem State.progress_setBed (s : State) (k : Nat) (b : Bed) : (s.setBed k b).progress = s.progress := rfl
@[simp] theorem State.watchdogs_setBed (s : State) (k : Nat) (b : Bed) : (s.setBed k b).watchdogs = s.watchdogs := rfl
@[simp] theorem State.traceDrops_setBed (s : State) (k : Nat) (b : Bed) : (s.setBed k b).traceDrops = s.traceDrops := rfl
@[simp] theorem State.lossRecords_setBed (s : State) (k : Nat) (b : Bed) : (s.setBed k b).lossRecords = s.lossRecords := rfl
@[simp] theorem State.sampling_setBed (s : State) (k : Nat) (b : Bed) : (s.setBed k b).sampling = s.sampling := rfl
@[simp] theorem State.lampCheck_setBed (s : State) (k : Nat) (b : Bed) : (s.setBed k b).lampCheck = s.lampCheck := rfl

/-! ### setStack -/

@[simp] theorem State.pending_setStack (s : State) (n : Nat) (x : Stack) : (s.setStack n x).pending = s.pending := rfl
@[simp] theorem State.fuses_setStack (s : State) (n : Nat) (x : Stack) : (s.setStack n x).fuses = s.fuses := rfl
@[simp] theorem State.out_setStack (s : State) (n : Nat) (x : Stack) : (s.setStack n x).out = s.out := rfl
@[simp] theorem State.freeCtr_setStack (s : State) (n : Nat) (x : Stack) : (s.setStack n x).freeCtr = s.freeCtr := rfl
@[simp] theorem State.now_setStack (s : State) (n : Nat) (x : Stack) : (s.setStack n x).now = s.now := rfl
@[simp] theorem State.tb_setStack (s : State) (n : Nat) (x : Stack) : (s.setStack n x).tb = s.tb := rfl
@[simp] theorem State.vaux_setStack (s : State) (n : Nat) (x : Stack) : (s.setStack n x).vaux = s.vaux := rfl
@[simp] theorem State.resetN_setStack (s : State) (n : Nat) (x : Stack) : (s.setStack n x).resetN = s.resetN := rfl
@[simp] theorem State.brownedOut_setStack (s : State) (n : Nat) (x : Stack) : (s.setStack n x).brownedOut = s.brownedOut := rfl
@[simp] theorem State.x0Lost_setStack (s : State) (n : Nat) (x : Stack) : (s.setStack n x).x0Lost = s.x0Lost := rfl
@[simp] theorem State.perstLow_setStack (s : State) (n : Nat) (x : Stack) : (s.setStack n x).perstLow = s.perstLow := rfl
@[simp] theorem State.straps_setStack (s : State) (n : Nat) (x : Stack) : (s.setStack n x).straps = s.straps := rfl
@[simp] theorem State.regs_setStack (s : State) (n : Nat) (x : Stack) : (s.setStack n x).regs = s.regs := rfl
@[simp] theorem State.boot_setStack (s : State) (n : Nat) (x : Stack) : (s.setStack n x).boot = s.boot := rfl
@[simp] theorem State.bootRun_setStack (s : State) (n : Nat) (x : Stack) : (s.setStack n x).bootRun = s.bootRun := rfl
@[simp] theorem State.mem_setStack (s : State) (n : Nat) (x : Stack) : (s.setStack n x).mem = s.mem := rfl
@[simp] theorem State.checks_setStack (s : State) (n : Nat) (x : Stack) : (s.setStack n x).checks = s.checks := rfl
@[simp] theorem State.stores_setStack (s : State) (n : Nat) (x : Stack) : (s.setStack n x).stores = s.stores := rfl
@[simp] theorem State.fplan_setStack (s : State) (n : Nat) (x : Stack) : (s.setStack n x).fplan = s.fplan := rfl
@[simp] theorem State.fpDirty_setStack (s : State) (n : Nat) (x : Stack) : (s.setStack n x).fpDirty = s.fpDirty := rfl
@[simp] theorem State.coreState_setStack (s : State) (n : Nat) (x : Stack) : (s.setStack n x).coreState = s.coreState := rfl
@[simp] theorem State.towerState_setStack (s : State) (n : Nat) (x : Stack) : (s.setStack n x).towerState = s.towerState := rfl
@[simp] theorem State.bankRetired_setStack (s : State) (n : Nat) (x : Stack) : (s.setStack n x).bankRetired = s.bankRetired := rfl
@[simp] theorem State.chanMapped_setStack (s : State) (n : Nat) (x : Stack) : (s.setStack n x).chanMapped = s.chanMapped := rfl
@[simp] theorem State.chanPoisoned_setStack (s : State) (n : Nat) (x : Stack) : (s.setStack n x).chanPoisoned = s.chanPoisoned := rfl
@[simp] theorem State.guestPresent_setStack (s : State) (n : Nat) (x : Stack) : (s.setStack n x).guestPresent = s.guestPresent := rfl
@[simp] theorem State.published_setStack (s : State) (n : Nat) (x : Stack) : (s.setStack n x).published = s.published := rfl
@[simp] theorem State.cores_setStack (s : State) (n : Nat) (x : Stack) : (s.setStack n x).cores = s.cores := rfl
@[simp] theorem State.beds_setStack (s : State) (n : Nat) (x : Stack) : (s.setStack n x).beds = s.beds := rfl
@[simp] theorem State.domains_setStack (s : State) (n : Nat) (x : Stack) : (s.setStack n x).domains = s.domains := rfl
@[simp] theorem State.thermal_setStack (s : State) (n : Nat) (x : Stack) : (s.setStack n x).thermal = s.thermal := rfl
@[simp] theorem State.vinAlert_setStack (s : State) (n : Nat) (x : Stack) : (s.setStack n x).vinAlert = s.vinAlert := rfl
@[simp] theorem State.vinHighSince_setStack (s : State) (n : Nat) (x : Stack) : (s.setStack n x).vinHighSince = s.vinHighSince := rfl
@[simp] theorem State.vinReturned_setStack (s : State) (n : Nat) (x : Stack) : (s.setStack n x).vinReturned = s.vinReturned := rfl
@[simp] theorem State.capIo_setStack (s : State) (n : Nat) (x : Stack) : (s.setStack n x).capIo = s.capIo := rfl
@[simp] theorem State.capTc_setStack (s : State) (n : Nat) (x : Stack) : (s.setStack n x).capTc = s.capTc := rfl
@[simp] theorem State.ports_setStack (s : State) (n : Nat) (x : Stack) : (s.setStack n x).ports = s.ports := rfl
@[simp] theorem State.guests_setStack (s : State) (n : Nat) (x : Stack) : (s.setStack n x).guests = s.guests := rfl
@[simp] theorem State.reqs_setStack (s : State) (n : Nat) (x : Stack) : (s.setStack n x).reqs = s.reqs := rfl
@[simp] theorem State.quiesced_setStack (s : State) (n : Nat) (x : Stack) : (s.setStack n x).quiesced = s.quiesced := rfl
@[simp] theorem State.spanLost_setStack (s : State) (n : Nat) (x : Stack) : (s.setStack n x).spanLost = s.spanLost := rfl
@[simp] theorem State.retiredSubs_setStack (s : State) (n : Nat) (x : Stack) : (s.setStack n x).retiredSubs = s.retiredSubs := rfl
@[simp] theorem State.ic_setStack (s : State) (n : Nat) (x : Stack) : (s.setStack n x).ic = s.ic := rfl
@[simp] theorem State.flog0_setStack (s : State) (n : Nat) (x : Stack) : (s.setStack n x).flog0 = s.flog0 := rfl
@[simp] theorem State.flog1_setStack (s : State) (n : Nat) (x : Stack) : (s.setStack n x).flog1 = s.flog1 := rfl
@[simp] theorem State.fatal_setStack (s : State) (n : Nat) (x : Stack) : (s.setStack n x).fatal = s.fatal := rfl
@[simp] theorem State.mbox_setStack (s : State) (n : Nat) (x : Stack) : (s.setStack n x).mbox = s.mbox := rfl
@[simp] theorem State.numVfs_setStack (s : State) (n : Nat) (x : Stack) : (s.setStack n x).numVfs = s.numVfs := rfl
@[simp] theorem State.vfEnable_setStack (s : State) (n : Nat) (x : Stack) : (s.setStack n x).vfEnable = s.vfEnable := rfl
@[simp] theorem State.vfPending_setStack (s : State) (n : Nat) (x : Stack) : (s.setStack n x).vfPending = s.vfPending := rfl
@[simp] theorem State.resets_setStack (s : State) (n : Nat) (x : Stack) : (s.setStack n x).resets = s.resets := rfl
@[simp] theorem State.alive_setStack (s : State) (n : Nat) (x : Stack) : (s.setStack n x).alive = s.alive := rfl
@[simp] theorem State.standby_setStack (s : State) (n : Nat) (x : Stack) : (s.setStack n x).standby = s.standby := rfl
@[simp] theorem State.hbActive_setStack (s : State) (n : Nat) (x : Stack) : (s.setStack n x).hbActive = s.hbActive := rfl
@[simp] theorem State.hbStandby_setStack (s : State) (n : Nat) (x : Stack) : (s.setStack n x).hbStandby = s.hbStandby := rfl
@[simp] theorem State.fwBuild_setStack (s : State) (n : Nat) (x : Stack) : (s.setStack n x).fwBuild = s.fwBuild := rfl
@[simp] theorem State.failovers_setStack (s : State) (n : Nat) (x : Stack) : (s.setStack n x).failovers = s.failovers := rfl
@[simp] theorem State.fwDead_setStack (s : State) (n : Nat) (x : Stack) : (s.setStack n x).fwDead = s.fwDead := rfl
@[simp] theorem State.segs_setStack (s : State) (n : Nat) (x : Stack) : (s.setStack n x).segs = s.segs := rfl
@[simp] theorem State.removing_setStack (s : State) (n : Nat) (x : Stack) : (s.setStack n x).removing = s.removing := rfl
@[simp] theorem State.keys_setStack (s : State) (n : Nat) (x : Stack) : (s.setStack n x).keys = s.keys := rfl
@[simp] theorem State.usedKeys_setStack (s : State) (n : Nat) (x : Stack) : (s.setStack n x).usedKeys = s.usedKeys := rfl
@[simp] theorem State.leases_setStack (s : State) (n : Nat) (x : Stack) : (s.setStack n x).leases = s.leases := rfl
@[simp] theorem State.revocation_setStack (s : State) (n : Nat) (x : Stack) : (s.setStack n x).revocation = s.revocation := rfl
@[simp] theorem State.engines_setStack (s : State) (n : Nat) (x : Stack) : (s.setStack n x).engines = s.engines := rfl
@[simp] theorem State.xfers_setStack (s : State) (n : Nat) (x : Stack) : (s.setStack n x).xfers = s.xfers := rfl
@[simp] theorem State.zeroing_setStack (s : State) (n : Nat) (x : Stack) : (s.setStack n x).zeroing = s.zeroing := rfl
@[simp] theorem State.lists_setStack (s : State) (n : Nat) (x : Stack) : (s.setStack n x).lists = s.lists := rfl
@[simp] theorem State.nextList_setStack (s : State) (n : Nat) (x : Stack) : (s.setStack n x).nextList = s.nextList := rfl
@[simp] theorem State.issueOrder_setStack (s : State) (n : Nat) (x : Stack) : (s.setStack n x).issueOrder = s.issueOrder := rfl
@[simp] theorem State.tagCtr_setStack (s : State) (n : Nat) (x : Stack) : (s.setStack n x).tagCtr = s.tagCtr := rfl
@[simp] theorem State.vCeiling_setStack (s : State) (n : Nat) (x : Stack) : (s.setStack n x).vCeiling = s.vCeiling := rfl
@[simp] theorem State.bankMode_setStack (s : State) (n : Nat) (x : Stack) : (s.setStack n x).bankMode = s.bankMode := rfl
@[simp] theorem State.pkgCap_setStack (s : State) (n : Nat) (x : Stack) : (s.setStack n x).pkgCap = s.pkgCap := rfl
@[simp] theorem State.rthInterval_setStack (s : State) (n : Nat) (x : Stack) : (s.setStack n x).rthInterval = s.rthInterval := rfl
@[simp] theorem State.preemptWait_setStack (s : State) (n : Nat) (x : Stack) : (s.setStack n x).preemptWait = s.preemptWait := rfl
@[simp] theorem State.stackIdle_setStack (s : State) (n : Nat) (x : Stack) : (s.setStack n x).stackIdle = s.stackIdle := rfl
@[simp] theorem State.vFloor_setStack (s : State) (n : Nat) (x : Stack) : (s.setStack n x).vFloor = s.vFloor := rfl
@[simp] theorem State.clamps_setStack (s : State) (n : Nat) (x : Stack) : (s.setStack n x).clamps = s.clamps := rfl
@[simp] theorem State.pauseUntil_setStack (s : State) (n : Nat) (x : Stack) : (s.setStack n x).pauseUntil = s.pauseUntil := rfl
@[simp] theorem State.lastPause_setStack (s : State) (n : Nat) (x : Stack) : (s.setStack n x).lastPause = s.lastPause := rfl
@[simp] theorem State.progress_setStack (s : State) (n : Nat) (x : Stack) : (s.setStack n x).progress = s.progress := rfl
@[simp] theorem State.watchdogs_setStack (s : State) (n : Nat) (x : Stack) : (s.setStack n x).watchdogs = s.watchdogs := rfl
@[simp] theorem State.traceDrops_setStack (s : State) (n : Nat) (x : Stack) : (s.setStack n x).traceDrops = s.traceDrops := rfl
@[simp] theorem State.lossRecords_setStack (s : State) (n : Nat) (x : Stack) : (s.setStack n x).lossRecords = s.lossRecords := rfl
@[simp] theorem State.sampling_setStack (s : State) (n : Nat) (x : Stack) : (s.setStack n x).sampling = s.sampling := rfl
@[simp] theorem State.lampCheck_setStack (s : State) (n : Nat) (x : Stack) : (s.setStack n x).lampCheck = s.lampCheck := rfl

/-! ### setDom -/

@[simp] theorem State.pending_setDom (s : State) (d : Nat) (x : Domain) : (s.setDom d x).pending = s.pending := rfl
@[simp] theorem State.fuses_setDom (s : State) (d : Nat) (x : Domain) : (s.setDom d x).fuses = s.fuses := rfl
@[simp] theorem State.out_setDom (s : State) (d : Nat) (x : Domain) : (s.setDom d x).out = s.out := rfl
@[simp] theorem State.freeCtr_setDom (s : State) (d : Nat) (x : Domain) : (s.setDom d x).freeCtr = s.freeCtr := rfl
@[simp] theorem State.now_setDom (s : State) (d : Nat) (x : Domain) : (s.setDom d x).now = s.now := rfl
@[simp] theorem State.tb_setDom (s : State) (d : Nat) (x : Domain) : (s.setDom d x).tb = s.tb := rfl
@[simp] theorem State.vaux_setDom (s : State) (d : Nat) (x : Domain) : (s.setDom d x).vaux = s.vaux := rfl
@[simp] theorem State.resetN_setDom (s : State) (d : Nat) (x : Domain) : (s.setDom d x).resetN = s.resetN := rfl
@[simp] theorem State.brownedOut_setDom (s : State) (d : Nat) (x : Domain) : (s.setDom d x).brownedOut = s.brownedOut := rfl
@[simp] theorem State.x0Lost_setDom (s : State) (d : Nat) (x : Domain) : (s.setDom d x).x0Lost = s.x0Lost := rfl
@[simp] theorem State.perstLow_setDom (s : State) (d : Nat) (x : Domain) : (s.setDom d x).perstLow = s.perstLow := rfl
@[simp] theorem State.straps_setDom (s : State) (d : Nat) (x : Domain) : (s.setDom d x).straps = s.straps := rfl
@[simp] theorem State.regs_setDom (s : State) (d : Nat) (x : Domain) : (s.setDom d x).regs = s.regs := rfl
@[simp] theorem State.boot_setDom (s : State) (d : Nat) (x : Domain) : (s.setDom d x).boot = s.boot := rfl
@[simp] theorem State.bootRun_setDom (s : State) (d : Nat) (x : Domain) : (s.setDom d x).bootRun = s.bootRun := rfl
@[simp] theorem State.mem_setDom (s : State) (d : Nat) (x : Domain) : (s.setDom d x).mem = s.mem := rfl
@[simp] theorem State.checks_setDom (s : State) (d : Nat) (x : Domain) : (s.setDom d x).checks = s.checks := rfl
@[simp] theorem State.stores_setDom (s : State) (d : Nat) (x : Domain) : (s.setDom d x).stores = s.stores := rfl
@[simp] theorem State.fplan_setDom (s : State) (d : Nat) (x : Domain) : (s.setDom d x).fplan = s.fplan := rfl
@[simp] theorem State.fpDirty_setDom (s : State) (d : Nat) (x : Domain) : (s.setDom d x).fpDirty = s.fpDirty := rfl
@[simp] theorem State.coreState_setDom (s : State) (d : Nat) (x : Domain) : (s.setDom d x).coreState = s.coreState := rfl
@[simp] theorem State.towerState_setDom (s : State) (d : Nat) (x : Domain) : (s.setDom d x).towerState = s.towerState := rfl
@[simp] theorem State.bankRetired_setDom (s : State) (d : Nat) (x : Domain) : (s.setDom d x).bankRetired = s.bankRetired := rfl
@[simp] theorem State.chanMapped_setDom (s : State) (d : Nat) (x : Domain) : (s.setDom d x).chanMapped = s.chanMapped := rfl
@[simp] theorem State.chanPoisoned_setDom (s : State) (d : Nat) (x : Domain) : (s.setDom d x).chanPoisoned = s.chanPoisoned := rfl
@[simp] theorem State.guestPresent_setDom (s : State) (d : Nat) (x : Domain) : (s.setDom d x).guestPresent = s.guestPresent := rfl
@[simp] theorem State.published_setDom (s : State) (d : Nat) (x : Domain) : (s.setDom d x).published = s.published := rfl
@[simp] theorem State.cores_setDom (s : State) (d : Nat) (x : Domain) : (s.setDom d x).cores = s.cores := rfl
@[simp] theorem State.beds_setDom (s : State) (d : Nat) (x : Domain) : (s.setDom d x).beds = s.beds := rfl
@[simp] theorem State.hbm_setDom (s : State) (d : Nat) (x : Domain) : (s.setDom d x).hbm = s.hbm := rfl
@[simp] theorem State.thermal_setDom (s : State) (d : Nat) (x : Domain) : (s.setDom d x).thermal = s.thermal := rfl
@[simp] theorem State.vinAlert_setDom (s : State) (d : Nat) (x : Domain) : (s.setDom d x).vinAlert = s.vinAlert := rfl
@[simp] theorem State.vinHighSince_setDom (s : State) (d : Nat) (x : Domain) : (s.setDom d x).vinHighSince = s.vinHighSince := rfl
@[simp] theorem State.vinReturned_setDom (s : State) (d : Nat) (x : Domain) : (s.setDom d x).vinReturned = s.vinReturned := rfl
@[simp] theorem State.capIo_setDom (s : State) (d : Nat) (x : Domain) : (s.setDom d x).capIo = s.capIo := rfl
@[simp] theorem State.capTc_setDom (s : State) (d : Nat) (x : Domain) : (s.setDom d x).capTc = s.capTc := rfl
@[simp] theorem State.ports_setDom (s : State) (d : Nat) (x : Domain) : (s.setDom d x).ports = s.ports := rfl
@[simp] theorem State.guests_setDom (s : State) (d : Nat) (x : Domain) : (s.setDom d x).guests = s.guests := rfl
@[simp] theorem State.reqs_setDom (s : State) (d : Nat) (x : Domain) : (s.setDom d x).reqs = s.reqs := rfl
@[simp] theorem State.quiesced_setDom (s : State) (d : Nat) (x : Domain) : (s.setDom d x).quiesced = s.quiesced := rfl
@[simp] theorem State.spanLost_setDom (s : State) (d : Nat) (x : Domain) : (s.setDom d x).spanLost = s.spanLost := rfl
@[simp] theorem State.retiredSubs_setDom (s : State) (d : Nat) (x : Domain) : (s.setDom d x).retiredSubs = s.retiredSubs := rfl
@[simp] theorem State.ic_setDom (s : State) (d : Nat) (x : Domain) : (s.setDom d x).ic = s.ic := rfl
@[simp] theorem State.flog0_setDom (s : State) (d : Nat) (x : Domain) : (s.setDom d x).flog0 = s.flog0 := rfl
@[simp] theorem State.flog1_setDom (s : State) (d : Nat) (x : Domain) : (s.setDom d x).flog1 = s.flog1 := rfl
@[simp] theorem State.fatal_setDom (s : State) (d : Nat) (x : Domain) : (s.setDom d x).fatal = s.fatal := rfl
@[simp] theorem State.mbox_setDom (s : State) (d : Nat) (x : Domain) : (s.setDom d x).mbox = s.mbox := rfl
@[simp] theorem State.numVfs_setDom (s : State) (d : Nat) (x : Domain) : (s.setDom d x).numVfs = s.numVfs := rfl
@[simp] theorem State.vfEnable_setDom (s : State) (d : Nat) (x : Domain) : (s.setDom d x).vfEnable = s.vfEnable := rfl
@[simp] theorem State.vfPending_setDom (s : State) (d : Nat) (x : Domain) : (s.setDom d x).vfPending = s.vfPending := rfl
@[simp] theorem State.resets_setDom (s : State) (d : Nat) (x : Domain) : (s.setDom d x).resets = s.resets := rfl
@[simp] theorem State.alive_setDom (s : State) (d : Nat) (x : Domain) : (s.setDom d x).alive = s.alive := rfl
@[simp] theorem State.standby_setDom (s : State) (d : Nat) (x : Domain) : (s.setDom d x).standby = s.standby := rfl
@[simp] theorem State.hbActive_setDom (s : State) (d : Nat) (x : Domain) : (s.setDom d x).hbActive = s.hbActive := rfl
@[simp] theorem State.hbStandby_setDom (s : State) (d : Nat) (x : Domain) : (s.setDom d x).hbStandby = s.hbStandby := rfl
@[simp] theorem State.fwBuild_setDom (s : State) (d : Nat) (x : Domain) : (s.setDom d x).fwBuild = s.fwBuild := rfl
@[simp] theorem State.failovers_setDom (s : State) (d : Nat) (x : Domain) : (s.setDom d x).failovers = s.failovers := rfl
@[simp] theorem State.fwDead_setDom (s : State) (d : Nat) (x : Domain) : (s.setDom d x).fwDead = s.fwDead := rfl
@[simp] theorem State.segs_setDom (s : State) (d : Nat) (x : Domain) : (s.setDom d x).segs = s.segs := rfl
@[simp] theorem State.removing_setDom (s : State) (d : Nat) (x : Domain) : (s.setDom d x).removing = s.removing := rfl
@[simp] theorem State.keys_setDom (s : State) (d : Nat) (x : Domain) : (s.setDom d x).keys = s.keys := rfl
@[simp] theorem State.usedKeys_setDom (s : State) (d : Nat) (x : Domain) : (s.setDom d x).usedKeys = s.usedKeys := rfl
@[simp] theorem State.leases_setDom (s : State) (d : Nat) (x : Domain) : (s.setDom d x).leases = s.leases := rfl
@[simp] theorem State.revocation_setDom (s : State) (d : Nat) (x : Domain) : (s.setDom d x).revocation = s.revocation := rfl
@[simp] theorem State.engines_setDom (s : State) (d : Nat) (x : Domain) : (s.setDom d x).engines = s.engines := rfl
@[simp] theorem State.xfers_setDom (s : State) (d : Nat) (x : Domain) : (s.setDom d x).xfers = s.xfers := rfl
@[simp] theorem State.zeroing_setDom (s : State) (d : Nat) (x : Domain) : (s.setDom d x).zeroing = s.zeroing := rfl
@[simp] theorem State.lists_setDom (s : State) (d : Nat) (x : Domain) : (s.setDom d x).lists = s.lists := rfl
@[simp] theorem State.nextList_setDom (s : State) (d : Nat) (x : Domain) : (s.setDom d x).nextList = s.nextList := rfl
@[simp] theorem State.issueOrder_setDom (s : State) (d : Nat) (x : Domain) : (s.setDom d x).issueOrder = s.issueOrder := rfl
@[simp] theorem State.tagCtr_setDom (s : State) (d : Nat) (x : Domain) : (s.setDom d x).tagCtr = s.tagCtr := rfl
@[simp] theorem State.vCeiling_setDom (s : State) (d : Nat) (x : Domain) : (s.setDom d x).vCeiling = s.vCeiling := rfl
@[simp] theorem State.bankMode_setDom (s : State) (d : Nat) (x : Domain) : (s.setDom d x).bankMode = s.bankMode := rfl
@[simp] theorem State.pkgCap_setDom (s : State) (d : Nat) (x : Domain) : (s.setDom d x).pkgCap = s.pkgCap := rfl
@[simp] theorem State.rthInterval_setDom (s : State) (d : Nat) (x : Domain) : (s.setDom d x).rthInterval = s.rthInterval := rfl
@[simp] theorem State.preemptWait_setDom (s : State) (d : Nat) (x : Domain) : (s.setDom d x).preemptWait = s.preemptWait := rfl
@[simp] theorem State.stackIdle_setDom (s : State) (d : Nat) (x : Domain) : (s.setDom d x).stackIdle = s.stackIdle := rfl
@[simp] theorem State.vFloor_setDom (s : State) (d : Nat) (x : Domain) : (s.setDom d x).vFloor = s.vFloor := rfl
@[simp] theorem State.clamps_setDom (s : State) (d : Nat) (x : Domain) : (s.setDom d x).clamps = s.clamps := rfl
@[simp] theorem State.pauseUntil_setDom (s : State) (d : Nat) (x : Domain) : (s.setDom d x).pauseUntil = s.pauseUntil := rfl
@[simp] theorem State.lastPause_setDom (s : State) (d : Nat) (x : Domain) : (s.setDom d x).lastPause = s.lastPause := rfl
@[simp] theorem State.progress_setDom (s : State) (d : Nat) (x : Domain) : (s.setDom d x).progress = s.progress := rfl
@[simp] theorem State.watchdogs_setDom (s : State) (d : Nat) (x : Domain) : (s.setDom d x).watchdogs = s.watchdogs := rfl
@[simp] theorem State.traceDrops_setDom (s : State) (d : Nat) (x : Domain) : (s.setDom d x).traceDrops = s.traceDrops := rfl
@[simp] theorem State.lossRecords_setDom (s : State) (d : Nat) (x : Domain) : (s.setDom d x).lossRecords = s.lossRecords := rfl
@[simp] theorem State.sampling_setDom (s : State) (d : Nat) (x : Domain) : (s.setDom d x).sampling = s.sampling := rfl
@[simp] theorem State.lampCheck_setDom (s : State) (d : Nat) (x : Domain) : (s.setDom d x).lampCheck = s.lampCheck := rfl

/-! ### setTherm -/

@[simp] theorem State.pending_setTherm (s : State) (t : Nat) (x : Thermal) : (s.setTherm t x).pending = s.pending := rfl
@[simp] theorem State.fuses_setTherm (s : State) (t : Nat) (x : Thermal) : (s.setTherm t x).fuses = s.fuses := rfl
@[simp] theorem State.out_setTherm (s : State) (t : Nat) (x : Thermal) : (s.setTherm t x).out = s.out := rfl
@[simp] theorem State.freeCtr_setTherm (s : State) (t : Nat) (x : Thermal) : (s.setTherm t x).freeCtr = s.freeCtr := rfl
@[simp] theorem State.now_setTherm (s : State) (t : Nat) (x : Thermal) : (s.setTherm t x).now = s.now := rfl
@[simp] theorem State.tb_setTherm (s : State) (t : Nat) (x : Thermal) : (s.setTherm t x).tb = s.tb := rfl
@[simp] theorem State.vaux_setTherm (s : State) (t : Nat) (x : Thermal) : (s.setTherm t x).vaux = s.vaux := rfl
@[simp] theorem State.resetN_setTherm (s : State) (t : Nat) (x : Thermal) : (s.setTherm t x).resetN = s.resetN := rfl
@[simp] theorem State.brownedOut_setTherm (s : State) (t : Nat) (x : Thermal) : (s.setTherm t x).brownedOut = s.brownedOut := rfl
@[simp] theorem State.x0Lost_setTherm (s : State) (t : Nat) (x : Thermal) : (s.setTherm t x).x0Lost = s.x0Lost := rfl
@[simp] theorem State.perstLow_setTherm (s : State) (t : Nat) (x : Thermal) : (s.setTherm t x).perstLow = s.perstLow := rfl
@[simp] theorem State.straps_setTherm (s : State) (t : Nat) (x : Thermal) : (s.setTherm t x).straps = s.straps := rfl
@[simp] theorem State.regs_setTherm (s : State) (t : Nat) (x : Thermal) : (s.setTherm t x).regs = s.regs := rfl
@[simp] theorem State.boot_setTherm (s : State) (t : Nat) (x : Thermal) : (s.setTherm t x).boot = s.boot := rfl
@[simp] theorem State.bootRun_setTherm (s : State) (t : Nat) (x : Thermal) : (s.setTherm t x).bootRun = s.bootRun := rfl
@[simp] theorem State.mem_setTherm (s : State) (t : Nat) (x : Thermal) : (s.setTherm t x).mem = s.mem := rfl
@[simp] theorem State.checks_setTherm (s : State) (t : Nat) (x : Thermal) : (s.setTherm t x).checks = s.checks := rfl
@[simp] theorem State.stores_setTherm (s : State) (t : Nat) (x : Thermal) : (s.setTherm t x).stores = s.stores := rfl
@[simp] theorem State.fplan_setTherm (s : State) (t : Nat) (x : Thermal) : (s.setTherm t x).fplan = s.fplan := rfl
@[simp] theorem State.fpDirty_setTherm (s : State) (t : Nat) (x : Thermal) : (s.setTherm t x).fpDirty = s.fpDirty := rfl
@[simp] theorem State.coreState_setTherm (s : State) (t : Nat) (x : Thermal) : (s.setTherm t x).coreState = s.coreState := rfl
@[simp] theorem State.towerState_setTherm (s : State) (t : Nat) (x : Thermal) : (s.setTherm t x).towerState = s.towerState := rfl
@[simp] theorem State.bankRetired_setTherm (s : State) (t : Nat) (x : Thermal) : (s.setTherm t x).bankRetired = s.bankRetired := rfl
@[simp] theorem State.chanMapped_setTherm (s : State) (t : Nat) (x : Thermal) : (s.setTherm t x).chanMapped = s.chanMapped := rfl
@[simp] theorem State.chanPoisoned_setTherm (s : State) (t : Nat) (x : Thermal) : (s.setTherm t x).chanPoisoned = s.chanPoisoned := rfl
@[simp] theorem State.guestPresent_setTherm (s : State) (t : Nat) (x : Thermal) : (s.setTherm t x).guestPresent = s.guestPresent := rfl
@[simp] theorem State.published_setTherm (s : State) (t : Nat) (x : Thermal) : (s.setTherm t x).published = s.published := rfl
@[simp] theorem State.cores_setTherm (s : State) (t : Nat) (x : Thermal) : (s.setTherm t x).cores = s.cores := rfl
@[simp] theorem State.beds_setTherm (s : State) (t : Nat) (x : Thermal) : (s.setTherm t x).beds = s.beds := rfl
@[simp] theorem State.hbm_setTherm (s : State) (t : Nat) (x : Thermal) : (s.setTherm t x).hbm = s.hbm := rfl
@[simp] theorem State.domains_setTherm (s : State) (t : Nat) (x : Thermal) : (s.setTherm t x).domains = s.domains := rfl
@[simp] theorem State.vinAlert_setTherm (s : State) (t : Nat) (x : Thermal) : (s.setTherm t x).vinAlert = s.vinAlert := rfl
@[simp] theorem State.vinHighSince_setTherm (s : State) (t : Nat) (x : Thermal) : (s.setTherm t x).vinHighSince = s.vinHighSince := rfl
@[simp] theorem State.vinReturned_setTherm (s : State) (t : Nat) (x : Thermal) : (s.setTherm t x).vinReturned = s.vinReturned := rfl
@[simp] theorem State.capIo_setTherm (s : State) (t : Nat) (x : Thermal) : (s.setTherm t x).capIo = s.capIo := rfl
@[simp] theorem State.capTc_setTherm (s : State) (t : Nat) (x : Thermal) : (s.setTherm t x).capTc = s.capTc := rfl
@[simp] theorem State.ports_setTherm (s : State) (t : Nat) (x : Thermal) : (s.setTherm t x).ports = s.ports := rfl
@[simp] theorem State.guests_setTherm (s : State) (t : Nat) (x : Thermal) : (s.setTherm t x).guests = s.guests := rfl
@[simp] theorem State.reqs_setTherm (s : State) (t : Nat) (x : Thermal) : (s.setTherm t x).reqs = s.reqs := rfl
@[simp] theorem State.quiesced_setTherm (s : State) (t : Nat) (x : Thermal) : (s.setTherm t x).quiesced = s.quiesced := rfl
@[simp] theorem State.spanLost_setTherm (s : State) (t : Nat) (x : Thermal) : (s.setTherm t x).spanLost = s.spanLost := rfl
@[simp] theorem State.retiredSubs_setTherm (s : State) (t : Nat) (x : Thermal) : (s.setTherm t x).retiredSubs = s.retiredSubs := rfl
@[simp] theorem State.ic_setTherm (s : State) (t : Nat) (x : Thermal) : (s.setTherm t x).ic = s.ic := rfl
@[simp] theorem State.flog0_setTherm (s : State) (t : Nat) (x : Thermal) : (s.setTherm t x).flog0 = s.flog0 := rfl
@[simp] theorem State.flog1_setTherm (s : State) (t : Nat) (x : Thermal) : (s.setTherm t x).flog1 = s.flog1 := rfl
@[simp] theorem State.fatal_setTherm (s : State) (t : Nat) (x : Thermal) : (s.setTherm t x).fatal = s.fatal := rfl
@[simp] theorem State.mbox_setTherm (s : State) (t : Nat) (x : Thermal) : (s.setTherm t x).mbox = s.mbox := rfl
@[simp] theorem State.numVfs_setTherm (s : State) (t : Nat) (x : Thermal) : (s.setTherm t x).numVfs = s.numVfs := rfl
@[simp] theorem State.vfEnable_setTherm (s : State) (t : Nat) (x : Thermal) : (s.setTherm t x).vfEnable = s.vfEnable := rfl
@[simp] theorem State.vfPending_setTherm (s : State) (t : Nat) (x : Thermal) : (s.setTherm t x).vfPending = s.vfPending := rfl
@[simp] theorem State.resets_setTherm (s : State) (t : Nat) (x : Thermal) : (s.setTherm t x).resets = s.resets := rfl
@[simp] theorem State.alive_setTherm (s : State) (t : Nat) (x : Thermal) : (s.setTherm t x).alive = s.alive := rfl
@[simp] theorem State.standby_setTherm (s : State) (t : Nat) (x : Thermal) : (s.setTherm t x).standby = s.standby := rfl
@[simp] theorem State.hbActive_setTherm (s : State) (t : Nat) (x : Thermal) : (s.setTherm t x).hbActive = s.hbActive := rfl
@[simp] theorem State.hbStandby_setTherm (s : State) (t : Nat) (x : Thermal) : (s.setTherm t x).hbStandby = s.hbStandby := rfl
@[simp] theorem State.fwBuild_setTherm (s : State) (t : Nat) (x : Thermal) : (s.setTherm t x).fwBuild = s.fwBuild := rfl
@[simp] theorem State.failovers_setTherm (s : State) (t : Nat) (x : Thermal) : (s.setTherm t x).failovers = s.failovers := rfl
@[simp] theorem State.fwDead_setTherm (s : State) (t : Nat) (x : Thermal) : (s.setTherm t x).fwDead = s.fwDead := rfl
@[simp] theorem State.segs_setTherm (s : State) (t : Nat) (x : Thermal) : (s.setTherm t x).segs = s.segs := rfl
@[simp] theorem State.removing_setTherm (s : State) (t : Nat) (x : Thermal) : (s.setTherm t x).removing = s.removing := rfl
@[simp] theorem State.keys_setTherm (s : State) (t : Nat) (x : Thermal) : (s.setTherm t x).keys = s.keys := rfl
@[simp] theorem State.usedKeys_setTherm (s : State) (t : Nat) (x : Thermal) : (s.setTherm t x).usedKeys = s.usedKeys := rfl
@[simp] theorem State.leases_setTherm (s : State) (t : Nat) (x : Thermal) : (s.setTherm t x).leases = s.leases := rfl
@[simp] theorem State.revocation_setTherm (s : State) (t : Nat) (x : Thermal) : (s.setTherm t x).revocation = s.revocation := rfl
@[simp] theorem State.engines_setTherm (s : State) (t : Nat) (x : Thermal) : (s.setTherm t x).engines = s.engines := rfl
@[simp] theorem State.xfers_setTherm (s : State) (t : Nat) (x : Thermal) : (s.setTherm t x).xfers = s.xfers := rfl
@[simp] theorem State.zeroing_setTherm (s : State) (t : Nat) (x : Thermal) : (s.setTherm t x).zeroing = s.zeroing := rfl
@[simp] theorem State.lists_setTherm (s : State) (t : Nat) (x : Thermal) : (s.setTherm t x).lists = s.lists := rfl
@[simp] theorem State.nextList_setTherm (s : State) (t : Nat) (x : Thermal) : (s.setTherm t x).nextList = s.nextList := rfl
@[simp] theorem State.issueOrder_setTherm (s : State) (t : Nat) (x : Thermal) : (s.setTherm t x).issueOrder = s.issueOrder := rfl
@[simp] theorem State.tagCtr_setTherm (s : State) (t : Nat) (x : Thermal) : (s.setTherm t x).tagCtr = s.tagCtr := rfl
@[simp] theorem State.vCeiling_setTherm (s : State) (t : Nat) (x : Thermal) : (s.setTherm t x).vCeiling = s.vCeiling := rfl
@[simp] theorem State.bankMode_setTherm (s : State) (t : Nat) (x : Thermal) : (s.setTherm t x).bankMode = s.bankMode := rfl
@[simp] theorem State.pkgCap_setTherm (s : State) (t : Nat) (x : Thermal) : (s.setTherm t x).pkgCap = s.pkgCap := rfl
@[simp] theorem State.rthInterval_setTherm (s : State) (t : Nat) (x : Thermal) : (s.setTherm t x).rthInterval = s.rthInterval := rfl
@[simp] theorem State.preemptWait_setTherm (s : State) (t : Nat) (x : Thermal) : (s.setTherm t x).preemptWait = s.preemptWait := rfl
@[simp] theorem State.stackIdle_setTherm (s : State) (t : Nat) (x : Thermal) : (s.setTherm t x).stackIdle = s.stackIdle := rfl
@[simp] theorem State.vFloor_setTherm (s : State) (t : Nat) (x : Thermal) : (s.setTherm t x).vFloor = s.vFloor := rfl
@[simp] theorem State.clamps_setTherm (s : State) (t : Nat) (x : Thermal) : (s.setTherm t x).clamps = s.clamps := rfl
@[simp] theorem State.pauseUntil_setTherm (s : State) (t : Nat) (x : Thermal) : (s.setTherm t x).pauseUntil = s.pauseUntil := rfl
@[simp] theorem State.lastPause_setTherm (s : State) (t : Nat) (x : Thermal) : (s.setTherm t x).lastPause = s.lastPause := rfl
@[simp] theorem State.progress_setTherm (s : State) (t : Nat) (x : Thermal) : (s.setTherm t x).progress = s.progress := rfl
@[simp] theorem State.watchdogs_setTherm (s : State) (t : Nat) (x : Thermal) : (s.setTherm t x).watchdogs = s.watchdogs := rfl
@[simp] theorem State.traceDrops_setTherm (s : State) (t : Nat) (x : Thermal) : (s.setTherm t x).traceDrops = s.traceDrops := rfl
@[simp] theorem State.lossRecords_setTherm (s : State) (t : Nat) (x : Thermal) : (s.setTherm t x).lossRecords = s.lossRecords := rfl
@[simp] theorem State.sampling_setTherm (s : State) (t : Nat) (x : Thermal) : (s.setTherm t x).sampling = s.sampling := rfl
@[simp] theorem State.lampCheck_setTherm (s : State) (t : Nat) (x : Thermal) : (s.setTherm t x).lampCheck = s.lampCheck := rfl

/-! ### setSpan -/

@[simp] theorem State.pending_setSpan (s : State) (p : Nat) (x : Span) : (s.setSpan p x).pending = s.pending := rfl
@[simp] theorem State.fuses_setSpan (s : State) (p : Nat) (x : Span) : (s.setSpan p x).fuses = s.fuses := rfl
@[simp] theorem State.out_setSpan (s : State) (p : Nat) (x : Span) : (s.setSpan p x).out = s.out := rfl
@[simp] theorem State.freeCtr_setSpan (s : State) (p : Nat) (x : Span) : (s.setSpan p x).freeCtr = s.freeCtr := rfl
@[simp] theorem State.now_setSpan (s : State) (p : Nat) (x : Span) : (s.setSpan p x).now = s.now := rfl
@[simp] theorem State.tb_setSpan (s : State) (p : Nat) (x : Span) : (s.setSpan p x).tb = s.tb := rfl
@[simp] theorem State.vaux_setSpan (s : State) (p : Nat) (x : Span) : (s.setSpan p x).vaux = s.vaux := rfl
@[simp] theorem State.resetN_setSpan (s : State) (p : Nat) (x : Span) : (s.setSpan p x).resetN = s.resetN := rfl
@[simp] theorem State.brownedOut_setSpan (s : State) (p : Nat) (x : Span) : (s.setSpan p x).brownedOut = s.brownedOut := rfl
@[simp] theorem State.x0Lost_setSpan (s : State) (p : Nat) (x : Span) : (s.setSpan p x).x0Lost = s.x0Lost := rfl
@[simp] theorem State.perstLow_setSpan (s : State) (p : Nat) (x : Span) : (s.setSpan p x).perstLow = s.perstLow := rfl
@[simp] theorem State.straps_setSpan (s : State) (p : Nat) (x : Span) : (s.setSpan p x).straps = s.straps := rfl
@[simp] theorem State.regs_setSpan (s : State) (p : Nat) (x : Span) : (s.setSpan p x).regs = s.regs := rfl
@[simp] theorem State.boot_setSpan (s : State) (p : Nat) (x : Span) : (s.setSpan p x).boot = s.boot := rfl
@[simp] theorem State.bootRun_setSpan (s : State) (p : Nat) (x : Span) : (s.setSpan p x).bootRun = s.bootRun := rfl
@[simp] theorem State.mem_setSpan (s : State) (p : Nat) (x : Span) : (s.setSpan p x).mem = s.mem := rfl
@[simp] theorem State.checks_setSpan (s : State) (p : Nat) (x : Span) : (s.setSpan p x).checks = s.checks := rfl
@[simp] theorem State.stores_setSpan (s : State) (p : Nat) (x : Span) : (s.setSpan p x).stores = s.stores := rfl
@[simp] theorem State.fplan_setSpan (s : State) (p : Nat) (x : Span) : (s.setSpan p x).fplan = s.fplan := rfl
@[simp] theorem State.fpDirty_setSpan (s : State) (p : Nat) (x : Span) : (s.setSpan p x).fpDirty = s.fpDirty := rfl
@[simp] theorem State.coreState_setSpan (s : State) (p : Nat) (x : Span) : (s.setSpan p x).coreState = s.coreState := rfl
@[simp] theorem State.towerState_setSpan (s : State) (p : Nat) (x : Span) : (s.setSpan p x).towerState = s.towerState := rfl
@[simp] theorem State.bankRetired_setSpan (s : State) (p : Nat) (x : Span) : (s.setSpan p x).bankRetired = s.bankRetired := rfl
@[simp] theorem State.chanMapped_setSpan (s : State) (p : Nat) (x : Span) : (s.setSpan p x).chanMapped = s.chanMapped := rfl
@[simp] theorem State.chanPoisoned_setSpan (s : State) (p : Nat) (x : Span) : (s.setSpan p x).chanPoisoned = s.chanPoisoned := rfl
@[simp] theorem State.guestPresent_setSpan (s : State) (p : Nat) (x : Span) : (s.setSpan p x).guestPresent = s.guestPresent := rfl
@[simp] theorem State.published_setSpan (s : State) (p : Nat) (x : Span) : (s.setSpan p x).published = s.published := rfl
@[simp] theorem State.cores_setSpan (s : State) (p : Nat) (x : Span) : (s.setSpan p x).cores = s.cores := rfl
@[simp] theorem State.beds_setSpan (s : State) (p : Nat) (x : Span) : (s.setSpan p x).beds = s.beds := rfl
@[simp] theorem State.hbm_setSpan (s : State) (p : Nat) (x : Span) : (s.setSpan p x).hbm = s.hbm := rfl
@[simp] theorem State.domains_setSpan (s : State) (p : Nat) (x : Span) : (s.setSpan p x).domains = s.domains := rfl
@[simp] theorem State.thermal_setSpan (s : State) (p : Nat) (x : Span) : (s.setSpan p x).thermal = s.thermal := rfl
@[simp] theorem State.vinAlert_setSpan (s : State) (p : Nat) (x : Span) : (s.setSpan p x).vinAlert = s.vinAlert := rfl
@[simp] theorem State.vinHighSince_setSpan (s : State) (p : Nat) (x : Span) : (s.setSpan p x).vinHighSince = s.vinHighSince := rfl
@[simp] theorem State.vinReturned_setSpan (s : State) (p : Nat) (x : Span) : (s.setSpan p x).vinReturned = s.vinReturned := rfl
@[simp] theorem State.capIo_setSpan (s : State) (p : Nat) (x : Span) : (s.setSpan p x).capIo = s.capIo := rfl
@[simp] theorem State.capTc_setSpan (s : State) (p : Nat) (x : Span) : (s.setSpan p x).capTc = s.capTc := rfl
@[simp] theorem State.guests_setSpan (s : State) (p : Nat) (x : Span) : (s.setSpan p x).guests = s.guests := rfl
@[simp] theorem State.reqs_setSpan (s : State) (p : Nat) (x : Span) : (s.setSpan p x).reqs = s.reqs := rfl
@[simp] theorem State.quiesced_setSpan (s : State) (p : Nat) (x : Span) : (s.setSpan p x).quiesced = s.quiesced := rfl
@[simp] theorem State.spanLost_setSpan (s : State) (p : Nat) (x : Span) : (s.setSpan p x).spanLost = s.spanLost := rfl
@[simp] theorem State.retiredSubs_setSpan (s : State) (p : Nat) (x : Span) : (s.setSpan p x).retiredSubs = s.retiredSubs := rfl
@[simp] theorem State.ic_setSpan (s : State) (p : Nat) (x : Span) : (s.setSpan p x).ic = s.ic := rfl
@[simp] theorem State.flog0_setSpan (s : State) (p : Nat) (x : Span) : (s.setSpan p x).flog0 = s.flog0 := rfl
@[simp] theorem State.flog1_setSpan (s : State) (p : Nat) (x : Span) : (s.setSpan p x).flog1 = s.flog1 := rfl
@[simp] theorem State.fatal_setSpan (s : State) (p : Nat) (x : Span) : (s.setSpan p x).fatal = s.fatal := rfl
@[simp] theorem State.mbox_setSpan (s : State) (p : Nat) (x : Span) : (s.setSpan p x).mbox = s.mbox := rfl
@[simp] theorem State.numVfs_setSpan (s : State) (p : Nat) (x : Span) : (s.setSpan p x).numVfs = s.numVfs := rfl
@[simp] theorem State.vfEnable_setSpan (s : State) (p : Nat) (x : Span) : (s.setSpan p x).vfEnable = s.vfEnable := rfl
@[simp] theorem State.vfPending_setSpan (s : State) (p : Nat) (x : Span) : (s.setSpan p x).vfPending = s.vfPending := rfl
@[simp] theorem State.resets_setSpan (s : State) (p : Nat) (x : Span) : (s.setSpan p x).resets = s.resets := rfl
@[simp] theorem State.alive_setSpan (s : State) (p : Nat) (x : Span) : (s.setSpan p x).alive = s.alive := rfl
@[simp] theorem State.standby_setSpan (s : State) (p : Nat) (x : Span) : (s.setSpan p x).standby = s.standby := rfl
@[simp] theorem State.hbActive_setSpan (s : State) (p : Nat) (x : Span) : (s.setSpan p x).hbActive = s.hbActive := rfl
@[simp] theorem State.hbStandby_setSpan (s : State) (p : Nat) (x : Span) : (s.setSpan p x).hbStandby = s.hbStandby := rfl
@[simp] theorem State.fwBuild_setSpan (s : State) (p : Nat) (x : Span) : (s.setSpan p x).fwBuild = s.fwBuild := rfl
@[simp] theorem State.failovers_setSpan (s : State) (p : Nat) (x : Span) : (s.setSpan p x).failovers = s.failovers := rfl
@[simp] theorem State.fwDead_setSpan (s : State) (p : Nat) (x : Span) : (s.setSpan p x).fwDead = s.fwDead := rfl
@[simp] theorem State.segs_setSpan (s : State) (p : Nat) (x : Span) : (s.setSpan p x).segs = s.segs := rfl
@[simp] theorem State.removing_setSpan (s : State) (p : Nat) (x : Span) : (s.setSpan p x).removing = s.removing := rfl
@[simp] theorem State.keys_setSpan (s : State) (p : Nat) (x : Span) : (s.setSpan p x).keys = s.keys := rfl
@[simp] theorem State.usedKeys_setSpan (s : State) (p : Nat) (x : Span) : (s.setSpan p x).usedKeys = s.usedKeys := rfl
@[simp] theorem State.leases_setSpan (s : State) (p : Nat) (x : Span) : (s.setSpan p x).leases = s.leases := rfl
@[simp] theorem State.revocation_setSpan (s : State) (p : Nat) (x : Span) : (s.setSpan p x).revocation = s.revocation := rfl
@[simp] theorem State.engines_setSpan (s : State) (p : Nat) (x : Span) : (s.setSpan p x).engines = s.engines := rfl
@[simp] theorem State.xfers_setSpan (s : State) (p : Nat) (x : Span) : (s.setSpan p x).xfers = s.xfers := rfl
@[simp] theorem State.zeroing_setSpan (s : State) (p : Nat) (x : Span) : (s.setSpan p x).zeroing = s.zeroing := rfl
@[simp] theorem State.lists_setSpan (s : State) (p : Nat) (x : Span) : (s.setSpan p x).lists = s.lists := rfl
@[simp] theorem State.nextList_setSpan (s : State) (p : Nat) (x : Span) : (s.setSpan p x).nextList = s.nextList := rfl
@[simp] theorem State.issueOrder_setSpan (s : State) (p : Nat) (x : Span) : (s.setSpan p x).issueOrder = s.issueOrder := rfl
@[simp] theorem State.tagCtr_setSpan (s : State) (p : Nat) (x : Span) : (s.setSpan p x).tagCtr = s.tagCtr := rfl
@[simp] theorem State.vCeiling_setSpan (s : State) (p : Nat) (x : Span) : (s.setSpan p x).vCeiling = s.vCeiling := rfl
@[simp] theorem State.bankMode_setSpan (s : State) (p : Nat) (x : Span) : (s.setSpan p x).bankMode = s.bankMode := rfl
@[simp] theorem State.pkgCap_setSpan (s : State) (p : Nat) (x : Span) : (s.setSpan p x).pkgCap = s.pkgCap := rfl
@[simp] theorem State.rthInterval_setSpan (s : State) (p : Nat) (x : Span) : (s.setSpan p x).rthInterval = s.rthInterval := rfl
@[simp] theorem State.preemptWait_setSpan (s : State) (p : Nat) (x : Span) : (s.setSpan p x).preemptWait = s.preemptWait := rfl
@[simp] theorem State.stackIdle_setSpan (s : State) (p : Nat) (x : Span) : (s.setSpan p x).stackIdle = s.stackIdle := rfl
@[simp] theorem State.vFloor_setSpan (s : State) (p : Nat) (x : Span) : (s.setSpan p x).vFloor = s.vFloor := rfl
@[simp] theorem State.clamps_setSpan (s : State) (p : Nat) (x : Span) : (s.setSpan p x).clamps = s.clamps := rfl
@[simp] theorem State.pauseUntil_setSpan (s : State) (p : Nat) (x : Span) : (s.setSpan p x).pauseUntil = s.pauseUntil := rfl
@[simp] theorem State.lastPause_setSpan (s : State) (p : Nat) (x : Span) : (s.setSpan p x).lastPause = s.lastPause := rfl
@[simp] theorem State.progress_setSpan (s : State) (p : Nat) (x : Span) : (s.setSpan p x).progress = s.progress := rfl
@[simp] theorem State.watchdogs_setSpan (s : State) (p : Nat) (x : Span) : (s.setSpan p x).watchdogs = s.watchdogs := rfl
@[simp] theorem State.traceDrops_setSpan (s : State) (p : Nat) (x : Span) : (s.setSpan p x).traceDrops = s.traceDrops := rfl
@[simp] theorem State.lossRecords_setSpan (s : State) (p : Nat) (x : Span) : (s.setSpan p x).lossRecords = s.lossRecords := rfl
@[simp] theorem State.sampling_setSpan (s : State) (p : Nat) (x : Span) : (s.setSpan p x).sampling = s.sampling := rfl
@[simp] theorem State.lampCheck_setSpan (s : State) (p : Nat) (x : Span) : (s.setSpan p x).lampCheck = s.lampCheck := rfl

/-! ### setGuest -/

@[simp] theorem State.pending_setGuest (s : State) (g : Nat) (x : Guest) : (s.setGuest g x).pending = s.pending := rfl
@[simp] theorem State.fuses_setGuest (s : State) (g : Nat) (x : Guest) : (s.setGuest g x).fuses = s.fuses := rfl
@[simp] theorem State.out_setGuest (s : State) (g : Nat) (x : Guest) : (s.setGuest g x).out = s.out := rfl
@[simp] theorem State.freeCtr_setGuest (s : State) (g : Nat) (x : Guest) : (s.setGuest g x).freeCtr = s.freeCtr := rfl
@[simp] theorem State.now_setGuest (s : State) (g : Nat) (x : Guest) : (s.setGuest g x).now = s.now := rfl
@[simp] theorem State.tb_setGuest (s : State) (g : Nat) (x : Guest) : (s.setGuest g x).tb = s.tb := rfl
@[simp] theorem State.vaux_setGuest (s : State) (g : Nat) (x : Guest) : (s.setGuest g x).vaux = s.vaux := rfl
@[simp] theorem State.resetN_setGuest (s : State) (g : Nat) (x : Guest) : (s.setGuest g x).resetN = s.resetN := rfl
@[simp] theorem State.brownedOut_setGuest (s : State) (g : Nat) (x : Guest) : (s.setGuest g x).brownedOut = s.brownedOut := rfl
@[simp] theorem State.x0Lost_setGuest (s : State) (g : Nat) (x : Guest) : (s.setGuest g x).x0Lost = s.x0Lost := rfl
@[simp] theorem State.perstLow_setGuest (s : State) (g : Nat) (x : Guest) : (s.setGuest g x).perstLow = s.perstLow := rfl
@[simp] theorem State.straps_setGuest (s : State) (g : Nat) (x : Guest) : (s.setGuest g x).straps = s.straps := rfl
@[simp] theorem State.regs_setGuest (s : State) (g : Nat) (x : Guest) : (s.setGuest g x).regs = s.regs := rfl
@[simp] theorem State.boot_setGuest (s : State) (g : Nat) (x : Guest) : (s.setGuest g x).boot = s.boot := rfl
@[simp] theorem State.bootRun_setGuest (s : State) (g : Nat) (x : Guest) : (s.setGuest g x).bootRun = s.bootRun := rfl
@[simp] theorem State.mem_setGuest (s : State) (g : Nat) (x : Guest) : (s.setGuest g x).mem = s.mem := rfl
@[simp] theorem State.checks_setGuest (s : State) (g : Nat) (x : Guest) : (s.setGuest g x).checks = s.checks := rfl
@[simp] theorem State.stores_setGuest (s : State) (g : Nat) (x : Guest) : (s.setGuest g x).stores = s.stores := rfl
@[simp] theorem State.fplan_setGuest (s : State) (g : Nat) (x : Guest) : (s.setGuest g x).fplan = s.fplan := rfl
@[simp] theorem State.fpDirty_setGuest (s : State) (g : Nat) (x : Guest) : (s.setGuest g x).fpDirty = s.fpDirty := rfl
@[simp] theorem State.coreState_setGuest (s : State) (g : Nat) (x : Guest) : (s.setGuest g x).coreState = s.coreState := rfl
@[simp] theorem State.towerState_setGuest (s : State) (g : Nat) (x : Guest) : (s.setGuest g x).towerState = s.towerState := rfl
@[simp] theorem State.bankRetired_setGuest (s : State) (g : Nat) (x : Guest) : (s.setGuest g x).bankRetired = s.bankRetired := rfl
@[simp] theorem State.chanMapped_setGuest (s : State) (g : Nat) (x : Guest) : (s.setGuest g x).chanMapped = s.chanMapped := rfl
@[simp] theorem State.chanPoisoned_setGuest (s : State) (g : Nat) (x : Guest) : (s.setGuest g x).chanPoisoned = s.chanPoisoned := rfl
@[simp] theorem State.guestPresent_setGuest (s : State) (g : Nat) (x : Guest) : (s.setGuest g x).guestPresent = s.guestPresent := rfl
@[simp] theorem State.published_setGuest (s : State) (g : Nat) (x : Guest) : (s.setGuest g x).published = s.published := rfl
@[simp] theorem State.cores_setGuest (s : State) (g : Nat) (x : Guest) : (s.setGuest g x).cores = s.cores := rfl
@[simp] theorem State.beds_setGuest (s : State) (g : Nat) (x : Guest) : (s.setGuest g x).beds = s.beds := rfl
@[simp] theorem State.hbm_setGuest (s : State) (g : Nat) (x : Guest) : (s.setGuest g x).hbm = s.hbm := rfl
@[simp] theorem State.domains_setGuest (s : State) (g : Nat) (x : Guest) : (s.setGuest g x).domains = s.domains := rfl
@[simp] theorem State.thermal_setGuest (s : State) (g : Nat) (x : Guest) : (s.setGuest g x).thermal = s.thermal := rfl
@[simp] theorem State.vinAlert_setGuest (s : State) (g : Nat) (x : Guest) : (s.setGuest g x).vinAlert = s.vinAlert := rfl
@[simp] theorem State.vinHighSince_setGuest (s : State) (g : Nat) (x : Guest) : (s.setGuest g x).vinHighSince = s.vinHighSince := rfl
@[simp] theorem State.vinReturned_setGuest (s : State) (g : Nat) (x : Guest) : (s.setGuest g x).vinReturned = s.vinReturned := rfl
@[simp] theorem State.capIo_setGuest (s : State) (g : Nat) (x : Guest) : (s.setGuest g x).capIo = s.capIo := rfl
@[simp] theorem State.capTc_setGuest (s : State) (g : Nat) (x : Guest) : (s.setGuest g x).capTc = s.capTc := rfl
@[simp] theorem State.ports_setGuest (s : State) (g : Nat) (x : Guest) : (s.setGuest g x).ports = s.ports := rfl
@[simp] theorem State.reqs_setGuest (s : State) (g : Nat) (x : Guest) : (s.setGuest g x).reqs = s.reqs := rfl
@[simp] theorem State.quiesced_setGuest (s : State) (g : Nat) (x : Guest) : (s.setGuest g x).quiesced = s.quiesced := rfl
@[simp] theorem State.spanLost_setGuest (s : State) (g : Nat) (x : Guest) : (s.setGuest g x).spanLost = s.spanLost := rfl
@[simp] theorem State.retiredSubs_setGuest (s : State) (g : Nat) (x : Guest) : (s.setGuest g x).retiredSubs = s.retiredSubs := rfl
@[simp] theorem State.ic_setGuest (s : State) (g : Nat) (x : Guest) : (s.setGuest g x).ic = s.ic := rfl
@[simp] theorem State.flog0_setGuest (s : State) (g : Nat) (x : Guest) : (s.setGuest g x).flog0 = s.flog0 := rfl
@[simp] theorem State.flog1_setGuest (s : State) (g : Nat) (x : Guest) : (s.setGuest g x).flog1 = s.flog1 := rfl
@[simp] theorem State.fatal_setGuest (s : State) (g : Nat) (x : Guest) : (s.setGuest g x).fatal = s.fatal := rfl
@[simp] theorem State.mbox_setGuest (s : State) (g : Nat) (x : Guest) : (s.setGuest g x).mbox = s.mbox := rfl
@[simp] theorem State.numVfs_setGuest (s : State) (g : Nat) (x : Guest) : (s.setGuest g x).numVfs = s.numVfs := rfl
@[simp] theorem State.vfEnable_setGuest (s : State) (g : Nat) (x : Guest) : (s.setGuest g x).vfEnable = s.vfEnable := rfl
@[simp] theorem State.vfPending_setGuest (s : State) (g : Nat) (x : Guest) : (s.setGuest g x).vfPending = s.vfPending := rfl
@[simp] theorem State.resets_setGuest (s : State) (g : Nat) (x : Guest) : (s.setGuest g x).resets = s.resets := rfl
@[simp] theorem State.alive_setGuest (s : State) (g : Nat) (x : Guest) : (s.setGuest g x).alive = s.alive := rfl
@[simp] theorem State.standby_setGuest (s : State) (g : Nat) (x : Guest) : (s.setGuest g x).standby = s.standby := rfl
@[simp] theorem State.hbActive_setGuest (s : State) (g : Nat) (x : Guest) : (s.setGuest g x).hbActive = s.hbActive := rfl
@[simp] theorem State.hbStandby_setGuest (s : State) (g : Nat) (x : Guest) : (s.setGuest g x).hbStandby = s.hbStandby := rfl
@[simp] theorem State.fwBuild_setGuest (s : State) (g : Nat) (x : Guest) : (s.setGuest g x).fwBuild = s.fwBuild := rfl
@[simp] theorem State.failovers_setGuest (s : State) (g : Nat) (x : Guest) : (s.setGuest g x).failovers = s.failovers := rfl
@[simp] theorem State.fwDead_setGuest (s : State) (g : Nat) (x : Guest) : (s.setGuest g x).fwDead = s.fwDead := rfl
@[simp] theorem State.segs_setGuest (s : State) (g : Nat) (x : Guest) : (s.setGuest g x).segs = s.segs := rfl
@[simp] theorem State.removing_setGuest (s : State) (g : Nat) (x : Guest) : (s.setGuest g x).removing = s.removing := rfl
@[simp] theorem State.keys_setGuest (s : State) (g : Nat) (x : Guest) : (s.setGuest g x).keys = s.keys := rfl
@[simp] theorem State.usedKeys_setGuest (s : State) (g : Nat) (x : Guest) : (s.setGuest g x).usedKeys = s.usedKeys := rfl
@[simp] theorem State.leases_setGuest (s : State) (g : Nat) (x : Guest) : (s.setGuest g x).leases = s.leases := rfl
@[simp] theorem State.revocation_setGuest (s : State) (g : Nat) (x : Guest) : (s.setGuest g x).revocation = s.revocation := rfl
@[simp] theorem State.engines_setGuest (s : State) (g : Nat) (x : Guest) : (s.setGuest g x).engines = s.engines := rfl
@[simp] theorem State.xfers_setGuest (s : State) (g : Nat) (x : Guest) : (s.setGuest g x).xfers = s.xfers := rfl
@[simp] theorem State.zeroing_setGuest (s : State) (g : Nat) (x : Guest) : (s.setGuest g x).zeroing = s.zeroing := rfl
@[simp] theorem State.lists_setGuest (s : State) (g : Nat) (x : Guest) : (s.setGuest g x).lists = s.lists := rfl
@[simp] theorem State.nextList_setGuest (s : State) (g : Nat) (x : Guest) : (s.setGuest g x).nextList = s.nextList := rfl
@[simp] theorem State.issueOrder_setGuest (s : State) (g : Nat) (x : Guest) : (s.setGuest g x).issueOrder = s.issueOrder := rfl
@[simp] theorem State.tagCtr_setGuest (s : State) (g : Nat) (x : Guest) : (s.setGuest g x).tagCtr = s.tagCtr := rfl
@[simp] theorem State.vCeiling_setGuest (s : State) (g : Nat) (x : Guest) : (s.setGuest g x).vCeiling = s.vCeiling := rfl
@[simp] theorem State.bankMode_setGuest (s : State) (g : Nat) (x : Guest) : (s.setGuest g x).bankMode = s.bankMode := rfl
@[simp] theorem State.pkgCap_setGuest (s : State) (g : Nat) (x : Guest) : (s.setGuest g x).pkgCap = s.pkgCap := rfl
@[simp] theorem State.rthInterval_setGuest (s : State) (g : Nat) (x : Guest) : (s.setGuest g x).rthInterval = s.rthInterval := rfl
@[simp] theorem State.preemptWait_setGuest (s : State) (g : Nat) (x : Guest) : (s.setGuest g x).preemptWait = s.preemptWait := rfl
@[simp] theorem State.stackIdle_setGuest (s : State) (g : Nat) (x : Guest) : (s.setGuest g x).stackIdle = s.stackIdle := rfl
@[simp] theorem State.vFloor_setGuest (s : State) (g : Nat) (x : Guest) : (s.setGuest g x).vFloor = s.vFloor := rfl
@[simp] theorem State.clamps_setGuest (s : State) (g : Nat) (x : Guest) : (s.setGuest g x).clamps = s.clamps := rfl
@[simp] theorem State.pauseUntil_setGuest (s : State) (g : Nat) (x : Guest) : (s.setGuest g x).pauseUntil = s.pauseUntil := rfl
@[simp] theorem State.lastPause_setGuest (s : State) (g : Nat) (x : Guest) : (s.setGuest g x).lastPause = s.lastPause := rfl
@[simp] theorem State.progress_setGuest (s : State) (g : Nat) (x : Guest) : (s.setGuest g x).progress = s.progress := rfl
@[simp] theorem State.watchdogs_setGuest (s : State) (g : Nat) (x : Guest) : (s.setGuest g x).watchdogs = s.watchdogs := rfl
@[simp] theorem State.traceDrops_setGuest (s : State) (g : Nat) (x : Guest) : (s.setGuest g x).traceDrops = s.traceDrops := rfl
@[simp] theorem State.lossRecords_setGuest (s : State) (g : Nat) (x : Guest) : (s.setGuest g x).lossRecords = s.lossRecords := rfl
@[simp] theorem State.sampling_setGuest (s : State) (g : Nat) (x : Guest) : (s.setGuest g x).sampling = s.sampling := rfl
@[simp] theorem State.lampCheck_setGuest (s : State) (g : Nat) (x : Guest) : (s.setGuest g x).lampCheck = s.lampCheck := rfl

/-! ### setMb -/

@[simp] theorem State.pending_setMb (s : State) (t : Nat) (x : Mailbox) : (s.setMb t x).pending = s.pending := rfl
@[simp] theorem State.fuses_setMb (s : State) (t : Nat) (x : Mailbox) : (s.setMb t x).fuses = s.fuses := rfl
@[simp] theorem State.out_setMb (s : State) (t : Nat) (x : Mailbox) : (s.setMb t x).out = s.out := rfl
@[simp] theorem State.freeCtr_setMb (s : State) (t : Nat) (x : Mailbox) : (s.setMb t x).freeCtr = s.freeCtr := rfl
@[simp] theorem State.now_setMb (s : State) (t : Nat) (x : Mailbox) : (s.setMb t x).now = s.now := rfl
@[simp] theorem State.tb_setMb (s : State) (t : Nat) (x : Mailbox) : (s.setMb t x).tb = s.tb := rfl
@[simp] theorem State.vaux_setMb (s : State) (t : Nat) (x : Mailbox) : (s.setMb t x).vaux = s.vaux := rfl
@[simp] theorem State.resetN_setMb (s : State) (t : Nat) (x : Mailbox) : (s.setMb t x).resetN = s.resetN := rfl
@[simp] theorem State.brownedOut_setMb (s : State) (t : Nat) (x : Mailbox) : (s.setMb t x).brownedOut = s.brownedOut := rfl
@[simp] theorem State.x0Lost_setMb (s : State) (t : Nat) (x : Mailbox) : (s.setMb t x).x0Lost = s.x0Lost := rfl
@[simp] theorem State.perstLow_setMb (s : State) (t : Nat) (x : Mailbox) : (s.setMb t x).perstLow = s.perstLow := rfl
@[simp] theorem State.straps_setMb (s : State) (t : Nat) (x : Mailbox) : (s.setMb t x).straps = s.straps := rfl
@[simp] theorem State.regs_setMb (s : State) (t : Nat) (x : Mailbox) : (s.setMb t x).regs = s.regs := rfl
@[simp] theorem State.boot_setMb (s : State) (t : Nat) (x : Mailbox) : (s.setMb t x).boot = s.boot := rfl
@[simp] theorem State.bootRun_setMb (s : State) (t : Nat) (x : Mailbox) : (s.setMb t x).bootRun = s.bootRun := rfl
@[simp] theorem State.mem_setMb (s : State) (t : Nat) (x : Mailbox) : (s.setMb t x).mem = s.mem := rfl
@[simp] theorem State.checks_setMb (s : State) (t : Nat) (x : Mailbox) : (s.setMb t x).checks = s.checks := rfl
@[simp] theorem State.stores_setMb (s : State) (t : Nat) (x : Mailbox) : (s.setMb t x).stores = s.stores := rfl
@[simp] theorem State.fplan_setMb (s : State) (t : Nat) (x : Mailbox) : (s.setMb t x).fplan = s.fplan := rfl
@[simp] theorem State.fpDirty_setMb (s : State) (t : Nat) (x : Mailbox) : (s.setMb t x).fpDirty = s.fpDirty := rfl
@[simp] theorem State.coreState_setMb (s : State) (t : Nat) (x : Mailbox) : (s.setMb t x).coreState = s.coreState := rfl
@[simp] theorem State.towerState_setMb (s : State) (t : Nat) (x : Mailbox) : (s.setMb t x).towerState = s.towerState := rfl
@[simp] theorem State.bankRetired_setMb (s : State) (t : Nat) (x : Mailbox) : (s.setMb t x).bankRetired = s.bankRetired := rfl
@[simp] theorem State.chanMapped_setMb (s : State) (t : Nat) (x : Mailbox) : (s.setMb t x).chanMapped = s.chanMapped := rfl
@[simp] theorem State.chanPoisoned_setMb (s : State) (t : Nat) (x : Mailbox) : (s.setMb t x).chanPoisoned = s.chanPoisoned := rfl
@[simp] theorem State.guestPresent_setMb (s : State) (t : Nat) (x : Mailbox) : (s.setMb t x).guestPresent = s.guestPresent := rfl
@[simp] theorem State.published_setMb (s : State) (t : Nat) (x : Mailbox) : (s.setMb t x).published = s.published := rfl
@[simp] theorem State.cores_setMb (s : State) (t : Nat) (x : Mailbox) : (s.setMb t x).cores = s.cores := rfl
@[simp] theorem State.beds_setMb (s : State) (t : Nat) (x : Mailbox) : (s.setMb t x).beds = s.beds := rfl
@[simp] theorem State.hbm_setMb (s : State) (t : Nat) (x : Mailbox) : (s.setMb t x).hbm = s.hbm := rfl
@[simp] theorem State.domains_setMb (s : State) (t : Nat) (x : Mailbox) : (s.setMb t x).domains = s.domains := rfl
@[simp] theorem State.thermal_setMb (s : State) (t : Nat) (x : Mailbox) : (s.setMb t x).thermal = s.thermal := rfl
@[simp] theorem State.vinAlert_setMb (s : State) (t : Nat) (x : Mailbox) : (s.setMb t x).vinAlert = s.vinAlert := rfl
@[simp] theorem State.vinHighSince_setMb (s : State) (t : Nat) (x : Mailbox) : (s.setMb t x).vinHighSince = s.vinHighSince := rfl
@[simp] theorem State.vinReturned_setMb (s : State) (t : Nat) (x : Mailbox) : (s.setMb t x).vinReturned = s.vinReturned := rfl
@[simp] theorem State.capIo_setMb (s : State) (t : Nat) (x : Mailbox) : (s.setMb t x).capIo = s.capIo := rfl
@[simp] theorem State.capTc_setMb (s : State) (t : Nat) (x : Mailbox) : (s.setMb t x).capTc = s.capTc := rfl
@[simp] theorem State.ports_setMb (s : State) (t : Nat) (x : Mailbox) : (s.setMb t x).ports = s.ports := rfl
@[simp] theorem State.guests_setMb (s : State) (t : Nat) (x : Mailbox) : (s.setMb t x).guests = s.guests := rfl
@[simp] theorem State.reqs_setMb (s : State) (t : Nat) (x : Mailbox) : (s.setMb t x).reqs = s.reqs := rfl
@[simp] theorem State.quiesced_setMb (s : State) (t : Nat) (x : Mailbox) : (s.setMb t x).quiesced = s.quiesced := rfl
@[simp] theorem State.spanLost_setMb (s : State) (t : Nat) (x : Mailbox) : (s.setMb t x).spanLost = s.spanLost := rfl
@[simp] theorem State.retiredSubs_setMb (s : State) (t : Nat) (x : Mailbox) : (s.setMb t x).retiredSubs = s.retiredSubs := rfl
@[simp] theorem State.ic_setMb (s : State) (t : Nat) (x : Mailbox) : (s.setMb t x).ic = s.ic := rfl
@[simp] theorem State.flog0_setMb (s : State) (t : Nat) (x : Mailbox) : (s.setMb t x).flog0 = s.flog0 := rfl
@[simp] theorem State.flog1_setMb (s : State) (t : Nat) (x : Mailbox) : (s.setMb t x).flog1 = s.flog1 := rfl
@[simp] theorem State.fatal_setMb (s : State) (t : Nat) (x : Mailbox) : (s.setMb t x).fatal = s.fatal := rfl
@[simp] theorem State.numVfs_setMb (s : State) (t : Nat) (x : Mailbox) : (s.setMb t x).numVfs = s.numVfs := rfl
@[simp] theorem State.vfEnable_setMb (s : State) (t : Nat) (x : Mailbox) : (s.setMb t x).vfEnable = s.vfEnable := rfl
@[simp] theorem State.vfPending_setMb (s : State) (t : Nat) (x : Mailbox) : (s.setMb t x).vfPending = s.vfPending := rfl
@[simp] theorem State.resets_setMb (s : State) (t : Nat) (x : Mailbox) : (s.setMb t x).resets = s.resets := rfl
@[simp] theorem State.alive_setMb (s : State) (t : Nat) (x : Mailbox) : (s.setMb t x).alive = s.alive := rfl
@[simp] theorem State.standby_setMb (s : State) (t : Nat) (x : Mailbox) : (s.setMb t x).standby = s.standby := rfl
@[simp] theorem State.hbActive_setMb (s : State) (t : Nat) (x : Mailbox) : (s.setMb t x).hbActive = s.hbActive := rfl
@[simp] theorem State.hbStandby_setMb (s : State) (t : Nat) (x : Mailbox) : (s.setMb t x).hbStandby = s.hbStandby := rfl
@[simp] theorem State.fwBuild_setMb (s : State) (t : Nat) (x : Mailbox) : (s.setMb t x).fwBuild = s.fwBuild := rfl
@[simp] theorem State.failovers_setMb (s : State) (t : Nat) (x : Mailbox) : (s.setMb t x).failovers = s.failovers := rfl
@[simp] theorem State.fwDead_setMb (s : State) (t : Nat) (x : Mailbox) : (s.setMb t x).fwDead = s.fwDead := rfl
@[simp] theorem State.segs_setMb (s : State) (t : Nat) (x : Mailbox) : (s.setMb t x).segs = s.segs := rfl
@[simp] theorem State.removing_setMb (s : State) (t : Nat) (x : Mailbox) : (s.setMb t x).removing = s.removing := rfl
@[simp] theorem State.keys_setMb (s : State) (t : Nat) (x : Mailbox) : (s.setMb t x).keys = s.keys := rfl
@[simp] theorem State.usedKeys_setMb (s : State) (t : Nat) (x : Mailbox) : (s.setMb t x).usedKeys = s.usedKeys := rfl
@[simp] theorem State.leases_setMb (s : State) (t : Nat) (x : Mailbox) : (s.setMb t x).leases = s.leases := rfl
@[simp] theorem State.revocation_setMb (s : State) (t : Nat) (x : Mailbox) : (s.setMb t x).revocation = s.revocation := rfl
@[simp] theorem State.engines_setMb (s : State) (t : Nat) (x : Mailbox) : (s.setMb t x).engines = s.engines := rfl
@[simp] theorem State.xfers_setMb (s : State) (t : Nat) (x : Mailbox) : (s.setMb t x).xfers = s.xfers := rfl
@[simp] theorem State.zeroing_setMb (s : State) (t : Nat) (x : Mailbox) : (s.setMb t x).zeroing = s.zeroing := rfl
@[simp] theorem State.lists_setMb (s : State) (t : Nat) (x : Mailbox) : (s.setMb t x).lists = s.lists := rfl
@[simp] theorem State.nextList_setMb (s : State) (t : Nat) (x : Mailbox) : (s.setMb t x).nextList = s.nextList := rfl
@[simp] theorem State.issueOrder_setMb (s : State) (t : Nat) (x : Mailbox) : (s.setMb t x).issueOrder = s.issueOrder := rfl
@[simp] theorem State.tagCtr_setMb (s : State) (t : Nat) (x : Mailbox) : (s.setMb t x).tagCtr = s.tagCtr := rfl
@[simp] theorem State.vCeiling_setMb (s : State) (t : Nat) (x : Mailbox) : (s.setMb t x).vCeiling = s.vCeiling := rfl
@[simp] theorem State.bankMode_setMb (s : State) (t : Nat) (x : Mailbox) : (s.setMb t x).bankMode = s.bankMode := rfl
@[simp] theorem State.pkgCap_setMb (s : State) (t : Nat) (x : Mailbox) : (s.setMb t x).pkgCap = s.pkgCap := rfl
@[simp] theorem State.rthInterval_setMb (s : State) (t : Nat) (x : Mailbox) : (s.setMb t x).rthInterval = s.rthInterval := rfl
@[simp] theorem State.preemptWait_setMb (s : State) (t : Nat) (x : Mailbox) : (s.setMb t x).preemptWait = s.preemptWait := rfl
@[simp] theorem State.stackIdle_setMb (s : State) (t : Nat) (x : Mailbox) : (s.setMb t x).stackIdle = s.stackIdle := rfl
@[simp] theorem State.vFloor_setMb (s : State) (t : Nat) (x : Mailbox) : (s.setMb t x).vFloor = s.vFloor := rfl
@[simp] theorem State.clamps_setMb (s : State) (t : Nat) (x : Mailbox) : (s.setMb t x).clamps = s.clamps := rfl
@[simp] theorem State.pauseUntil_setMb (s : State) (t : Nat) (x : Mailbox) : (s.setMb t x).pauseUntil = s.pauseUntil := rfl
@[simp] theorem State.lastPause_setMb (s : State) (t : Nat) (x : Mailbox) : (s.setMb t x).lastPause = s.lastPause := rfl
@[simp] theorem State.progress_setMb (s : State) (t : Nat) (x : Mailbox) : (s.setMb t x).progress = s.progress := rfl
@[simp] theorem State.watchdogs_setMb (s : State) (t : Nat) (x : Mailbox) : (s.setMb t x).watchdogs = s.watchdogs := rfl
@[simp] theorem State.traceDrops_setMb (s : State) (t : Nat) (x : Mailbox) : (s.setMb t x).traceDrops = s.traceDrops := rfl
@[simp] theorem State.lossRecords_setMb (s : State) (t : Nat) (x : Mailbox) : (s.setMb t x).lossRecords = s.lossRecords := rfl
@[simp] theorem State.sampling_setMb (s : State) (t : Nat) (x : Mailbox) : (s.setMb t x).sampling = s.sampling := rfl
@[simp] theorem State.lampCheck_setMb (s : State) (t : Nat) (x : Mailbox) : (s.setMb t x).lampCheck = s.lampCheck := rfl

/-! ### setEngine -/

@[simp] theorem State.pending_setEngine (s : State) (e : Nat) (x : Engine) : (s.setEngine e x).pending = s.pending := rfl
@[simp] theorem State.fuses_setEngine (s : State) (e : Nat) (x : Engine) : (s.setEngine e x).fuses = s.fuses := rfl
@[simp] theorem State.out_setEngine (s : State) (e : Nat) (x : Engine) : (s.setEngine e x).out = s.out := rfl
@[simp] theorem State.freeCtr_setEngine (s : State) (e : Nat) (x : Engine) : (s.setEngine e x).freeCtr = s.freeCtr := rfl
@[simp] theorem State.now_setEngine (s : State) (e : Nat) (x : Engine) : (s.setEngine e x).now = s.now := rfl
@[simp] theorem State.tb_setEngine (s : State) (e : Nat) (x : Engine) : (s.setEngine e x).tb = s.tb := rfl
@[simp] theorem State.vaux_setEngine (s : State) (e : Nat) (x : Engine) : (s.setEngine e x).vaux = s.vaux := rfl
@[simp] theorem State.resetN_setEngine (s : State) (e : Nat) (x : Engine) : (s.setEngine e x).resetN = s.resetN := rfl
@[simp] theorem State.brownedOut_setEngine (s : State) (e : Nat) (x : Engine) : (s.setEngine e x).brownedOut = s.brownedOut := rfl
@[simp] theorem State.x0Lost_setEngine (s : State) (e : Nat) (x : Engine) : (s.setEngine e x).x0Lost = s.x0Lost := rfl
@[simp] theorem State.perstLow_setEngine (s : State) (e : Nat) (x : Engine) : (s.setEngine e x).perstLow = s.perstLow := rfl
@[simp] theorem State.straps_setEngine (s : State) (e : Nat) (x : Engine) : (s.setEngine e x).straps = s.straps := rfl
@[simp] theorem State.regs_setEngine (s : State) (e : Nat) (x : Engine) : (s.setEngine e x).regs = s.regs := rfl
@[simp] theorem State.boot_setEngine (s : State) (e : Nat) (x : Engine) : (s.setEngine e x).boot = s.boot := rfl
@[simp] theorem State.bootRun_setEngine (s : State) (e : Nat) (x : Engine) : (s.setEngine e x).bootRun = s.bootRun := rfl
@[simp] theorem State.mem_setEngine (s : State) (e : Nat) (x : Engine) : (s.setEngine e x).mem = s.mem := rfl
@[simp] theorem State.checks_setEngine (s : State) (e : Nat) (x : Engine) : (s.setEngine e x).checks = s.checks := rfl
@[simp] theorem State.stores_setEngine (s : State) (e : Nat) (x : Engine) : (s.setEngine e x).stores = s.stores := rfl
@[simp] theorem State.fplan_setEngine (s : State) (e : Nat) (x : Engine) : (s.setEngine e x).fplan = s.fplan := rfl
@[simp] theorem State.fpDirty_setEngine (s : State) (e : Nat) (x : Engine) : (s.setEngine e x).fpDirty = s.fpDirty := rfl
@[simp] theorem State.coreState_setEngine (s : State) (e : Nat) (x : Engine) : (s.setEngine e x).coreState = s.coreState := rfl
@[simp] theorem State.towerState_setEngine (s : State) (e : Nat) (x : Engine) : (s.setEngine e x).towerState = s.towerState := rfl
@[simp] theorem State.bankRetired_setEngine (s : State) (e : Nat) (x : Engine) : (s.setEngine e x).bankRetired = s.bankRetired := rfl
@[simp] theorem State.chanMapped_setEngine (s : State) (e : Nat) (x : Engine) : (s.setEngine e x).chanMapped = s.chanMapped := rfl
@[simp] theorem State.chanPoisoned_setEngine (s : State) (e : Nat) (x : Engine) : (s.setEngine e x).chanPoisoned = s.chanPoisoned := rfl
@[simp] theorem State.guestPresent_setEngine (s : State) (e : Nat) (x : Engine) : (s.setEngine e x).guestPresent = s.guestPresent := rfl
@[simp] theorem State.published_setEngine (s : State) (e : Nat) (x : Engine) : (s.setEngine e x).published = s.published := rfl
@[simp] theorem State.cores_setEngine (s : State) (e : Nat) (x : Engine) : (s.setEngine e x).cores = s.cores := rfl
@[simp] theorem State.beds_setEngine (s : State) (e : Nat) (x : Engine) : (s.setEngine e x).beds = s.beds := rfl
@[simp] theorem State.hbm_setEngine (s : State) (e : Nat) (x : Engine) : (s.setEngine e x).hbm = s.hbm := rfl
@[simp] theorem State.domains_setEngine (s : State) (e : Nat) (x : Engine) : (s.setEngine e x).domains = s.domains := rfl
@[simp] theorem State.thermal_setEngine (s : State) (e : Nat) (x : Engine) : (s.setEngine e x).thermal = s.thermal := rfl
@[simp] theorem State.vinAlert_setEngine (s : State) (e : Nat) (x : Engine) : (s.setEngine e x).vinAlert = s.vinAlert := rfl
@[simp] theorem State.vinHighSince_setEngine (s : State) (e : Nat) (x : Engine) : (s.setEngine e x).vinHighSince = s.vinHighSince := rfl
@[simp] theorem State.vinReturned_setEngine (s : State) (e : Nat) (x : Engine) : (s.setEngine e x).vinReturned = s.vinReturned := rfl
@[simp] theorem State.capIo_setEngine (s : State) (e : Nat) (x : Engine) : (s.setEngine e x).capIo = s.capIo := rfl
@[simp] theorem State.capTc_setEngine (s : State) (e : Nat) (x : Engine) : (s.setEngine e x).capTc = s.capTc := rfl
@[simp] theorem State.ports_setEngine (s : State) (e : Nat) (x : Engine) : (s.setEngine e x).ports = s.ports := rfl
@[simp] theorem State.guests_setEngine (s : State) (e : Nat) (x : Engine) : (s.setEngine e x).guests = s.guests := rfl
@[simp] theorem State.reqs_setEngine (s : State) (e : Nat) (x : Engine) : (s.setEngine e x).reqs = s.reqs := rfl
@[simp] theorem State.quiesced_setEngine (s : State) (e : Nat) (x : Engine) : (s.setEngine e x).quiesced = s.quiesced := rfl
@[simp] theorem State.spanLost_setEngine (s : State) (e : Nat) (x : Engine) : (s.setEngine e x).spanLost = s.spanLost := rfl
@[simp] theorem State.retiredSubs_setEngine (s : State) (e : Nat) (x : Engine) : (s.setEngine e x).retiredSubs = s.retiredSubs := rfl
@[simp] theorem State.ic_setEngine (s : State) (e : Nat) (x : Engine) : (s.setEngine e x).ic = s.ic := rfl
@[simp] theorem State.flog0_setEngine (s : State) (e : Nat) (x : Engine) : (s.setEngine e x).flog0 = s.flog0 := rfl
@[simp] theorem State.flog1_setEngine (s : State) (e : Nat) (x : Engine) : (s.setEngine e x).flog1 = s.flog1 := rfl
@[simp] theorem State.fatal_setEngine (s : State) (e : Nat) (x : Engine) : (s.setEngine e x).fatal = s.fatal := rfl
@[simp] theorem State.mbox_setEngine (s : State) (e : Nat) (x : Engine) : (s.setEngine e x).mbox = s.mbox := rfl
@[simp] theorem State.numVfs_setEngine (s : State) (e : Nat) (x : Engine) : (s.setEngine e x).numVfs = s.numVfs := rfl
@[simp] theorem State.vfEnable_setEngine (s : State) (e : Nat) (x : Engine) : (s.setEngine e x).vfEnable = s.vfEnable := rfl
@[simp] theorem State.vfPending_setEngine (s : State) (e : Nat) (x : Engine) : (s.setEngine e x).vfPending = s.vfPending := rfl
@[simp] theorem State.resets_setEngine (s : State) (e : Nat) (x : Engine) : (s.setEngine e x).resets = s.resets := rfl
@[simp] theorem State.alive_setEngine (s : State) (e : Nat) (x : Engine) : (s.setEngine e x).alive = s.alive := rfl
@[simp] theorem State.standby_setEngine (s : State) (e : Nat) (x : Engine) : (s.setEngine e x).standby = s.standby := rfl
@[simp] theorem State.hbActive_setEngine (s : State) (e : Nat) (x : Engine) : (s.setEngine e x).hbActive = s.hbActive := rfl
@[simp] theorem State.hbStandby_setEngine (s : State) (e : Nat) (x : Engine) : (s.setEngine e x).hbStandby = s.hbStandby := rfl
@[simp] theorem State.fwBuild_setEngine (s : State) (e : Nat) (x : Engine) : (s.setEngine e x).fwBuild = s.fwBuild := rfl
@[simp] theorem State.failovers_setEngine (s : State) (e : Nat) (x : Engine) : (s.setEngine e x).failovers = s.failovers := rfl
@[simp] theorem State.fwDead_setEngine (s : State) (e : Nat) (x : Engine) : (s.setEngine e x).fwDead = s.fwDead := rfl
@[simp] theorem State.segs_setEngine (s : State) (e : Nat) (x : Engine) : (s.setEngine e x).segs = s.segs := rfl
@[simp] theorem State.removing_setEngine (s : State) (e : Nat) (x : Engine) : (s.setEngine e x).removing = s.removing := rfl
@[simp] theorem State.keys_setEngine (s : State) (e : Nat) (x : Engine) : (s.setEngine e x).keys = s.keys := rfl
@[simp] theorem State.usedKeys_setEngine (s : State) (e : Nat) (x : Engine) : (s.setEngine e x).usedKeys = s.usedKeys := rfl
@[simp] theorem State.leases_setEngine (s : State) (e : Nat) (x : Engine) : (s.setEngine e x).leases = s.leases := rfl
@[simp] theorem State.revocation_setEngine (s : State) (e : Nat) (x : Engine) : (s.setEngine e x).revocation = s.revocation := rfl
@[simp] theorem State.xfers_setEngine (s : State) (e : Nat) (x : Engine) : (s.setEngine e x).xfers = s.xfers := rfl
@[simp] theorem State.zeroing_setEngine (s : State) (e : Nat) (x : Engine) : (s.setEngine e x).zeroing = s.zeroing := rfl
@[simp] theorem State.lists_setEngine (s : State) (e : Nat) (x : Engine) : (s.setEngine e x).lists = s.lists := rfl
@[simp] theorem State.nextList_setEngine (s : State) (e : Nat) (x : Engine) : (s.setEngine e x).nextList = s.nextList := rfl
@[simp] theorem State.issueOrder_setEngine (s : State) (e : Nat) (x : Engine) : (s.setEngine e x).issueOrder = s.issueOrder := rfl
@[simp] theorem State.tagCtr_setEngine (s : State) (e : Nat) (x : Engine) : (s.setEngine e x).tagCtr = s.tagCtr := rfl
@[simp] theorem State.vCeiling_setEngine (s : State) (e : Nat) (x : Engine) : (s.setEngine e x).vCeiling = s.vCeiling := rfl
@[simp] theorem State.bankMode_setEngine (s : State) (e : Nat) (x : Engine) : (s.setEngine e x).bankMode = s.bankMode := rfl
@[simp] theorem State.pkgCap_setEngine (s : State) (e : Nat) (x : Engine) : (s.setEngine e x).pkgCap = s.pkgCap := rfl
@[simp] theorem State.rthInterval_setEngine (s : State) (e : Nat) (x : Engine) : (s.setEngine e x).rthInterval = s.rthInterval := rfl
@[simp] theorem State.preemptWait_setEngine (s : State) (e : Nat) (x : Engine) : (s.setEngine e x).preemptWait = s.preemptWait := rfl
@[simp] theorem State.stackIdle_setEngine (s : State) (e : Nat) (x : Engine) : (s.setEngine e x).stackIdle = s.stackIdle := rfl
@[simp] theorem State.vFloor_setEngine (s : State) (e : Nat) (x : Engine) : (s.setEngine e x).vFloor = s.vFloor := rfl
@[simp] theorem State.clamps_setEngine (s : State) (e : Nat) (x : Engine) : (s.setEngine e x).clamps = s.clamps := rfl
@[simp] theorem State.pauseUntil_setEngine (s : State) (e : Nat) (x : Engine) : (s.setEngine e x).pauseUntil = s.pauseUntil := rfl
@[simp] theorem State.lastPause_setEngine (s : State) (e : Nat) (x : Engine) : (s.setEngine e x).lastPause = s.lastPause := rfl
@[simp] theorem State.progress_setEngine (s : State) (e : Nat) (x : Engine) : (s.setEngine e x).progress = s.progress := rfl
@[simp] theorem State.watchdogs_setEngine (s : State) (e : Nat) (x : Engine) : (s.setEngine e x).watchdogs = s.watchdogs := rfl
@[simp] theorem State.traceDrops_setEngine (s : State) (e : Nat) (x : Engine) : (s.setEngine e x).traceDrops = s.traceDrops := rfl
@[simp] theorem State.lossRecords_setEngine (s : State) (e : Nat) (x : Engine) : (s.setEngine e x).lossRecords = s.lossRecords := rfl
@[simp] theorem State.sampling_setEngine (s : State) (e : Nat) (x : Engine) : (s.setEngine e x).sampling = s.sampling := rfl
@[simp] theorem State.lampCheck_setEngine (s : State) (e : Nat) (x : Engine) : (s.setEngine e x).lampCheck = s.lampCheck := rfl

/-! ### setLease -/

@[simp] theorem State.pending_setLease (s : State) (n : Nat) (x : Lease) : (s.setLease n x).pending = s.pending := rfl
@[simp] theorem State.fuses_setLease (s : State) (n : Nat) (x : Lease) : (s.setLease n x).fuses = s.fuses := rfl
@[simp] theorem State.out_setLease (s : State) (n : Nat) (x : Lease) : (s.setLease n x).out = s.out := rfl
@[simp] theorem State.freeCtr_setLease (s : State) (n : Nat) (x : Lease) : (s.setLease n x).freeCtr = s.freeCtr := rfl
@[simp] theorem State.now_setLease (s : State) (n : Nat) (x : Lease) : (s.setLease n x).now = s.now := rfl
@[simp] theorem State.tb_setLease (s : State) (n : Nat) (x : Lease) : (s.setLease n x).tb = s.tb := rfl
@[simp] theorem State.vaux_setLease (s : State) (n : Nat) (x : Lease) : (s.setLease n x).vaux = s.vaux := rfl
@[simp] theorem State.resetN_setLease (s : State) (n : Nat) (x : Lease) : (s.setLease n x).resetN = s.resetN := rfl
@[simp] theorem State.brownedOut_setLease (s : State) (n : Nat) (x : Lease) : (s.setLease n x).brownedOut = s.brownedOut := rfl
@[simp] theorem State.x0Lost_setLease (s : State) (n : Nat) (x : Lease) : (s.setLease n x).x0Lost = s.x0Lost := rfl
@[simp] theorem State.perstLow_setLease (s : State) (n : Nat) (x : Lease) : (s.setLease n x).perstLow = s.perstLow := rfl
@[simp] theorem State.straps_setLease (s : State) (n : Nat) (x : Lease) : (s.setLease n x).straps = s.straps := rfl
@[simp] theorem State.regs_setLease (s : State) (n : Nat) (x : Lease) : (s.setLease n x).regs = s.regs := rfl
@[simp] theorem State.boot_setLease (s : State) (n : Nat) (x : Lease) : (s.setLease n x).boot = s.boot := rfl
@[simp] theorem State.bootRun_setLease (s : State) (n : Nat) (x : Lease) : (s.setLease n x).bootRun = s.bootRun := rfl
@[simp] theorem State.mem_setLease (s : State) (n : Nat) (x : Lease) : (s.setLease n x).mem = s.mem := rfl
@[simp] theorem State.checks_setLease (s : State) (n : Nat) (x : Lease) : (s.setLease n x).checks = s.checks := rfl
@[simp] theorem State.stores_setLease (s : State) (n : Nat) (x : Lease) : (s.setLease n x).stores = s.stores := rfl
@[simp] theorem State.fplan_setLease (s : State) (n : Nat) (x : Lease) : (s.setLease n x).fplan = s.fplan := rfl
@[simp] theorem State.fpDirty_setLease (s : State) (n : Nat) (x : Lease) : (s.setLease n x).fpDirty = s.fpDirty := rfl
@[simp] theorem State.coreState_setLease (s : State) (n : Nat) (x : Lease) : (s.setLease n x).coreState = s.coreState := rfl
@[simp] theorem State.towerState_setLease (s : State) (n : Nat) (x : Lease) : (s.setLease n x).towerState = s.towerState := rfl
@[simp] theorem State.bankRetired_setLease (s : State) (n : Nat) (x : Lease) : (s.setLease n x).bankRetired = s.bankRetired := rfl
@[simp] theorem State.chanMapped_setLease (s : State) (n : Nat) (x : Lease) : (s.setLease n x).chanMapped = s.chanMapped := rfl
@[simp] theorem State.chanPoisoned_setLease (s : State) (n : Nat) (x : Lease) : (s.setLease n x).chanPoisoned = s.chanPoisoned := rfl
@[simp] theorem State.guestPresent_setLease (s : State) (n : Nat) (x : Lease) : (s.setLease n x).guestPresent = s.guestPresent := rfl
@[simp] theorem State.published_setLease (s : State) (n : Nat) (x : Lease) : (s.setLease n x).published = s.published := rfl
@[simp] theorem State.cores_setLease (s : State) (n : Nat) (x : Lease) : (s.setLease n x).cores = s.cores := rfl
@[simp] theorem State.beds_setLease (s : State) (n : Nat) (x : Lease) : (s.setLease n x).beds = s.beds := rfl
@[simp] theorem State.hbm_setLease (s : State) (n : Nat) (x : Lease) : (s.setLease n x).hbm = s.hbm := rfl
@[simp] theorem State.domains_setLease (s : State) (n : Nat) (x : Lease) : (s.setLease n x).domains = s.domains := rfl
@[simp] theorem State.thermal_setLease (s : State) (n : Nat) (x : Lease) : (s.setLease n x).thermal = s.thermal := rfl
@[simp] theorem State.vinAlert_setLease (s : State) (n : Nat) (x : Lease) : (s.setLease n x).vinAlert = s.vinAlert := rfl
@[simp] theorem State.vinHighSince_setLease (s : State) (n : Nat) (x : Lease) : (s.setLease n x).vinHighSince = s.vinHighSince := rfl
@[simp] theorem State.vinReturned_setLease (s : State) (n : Nat) (x : Lease) : (s.setLease n x).vinReturned = s.vinReturned := rfl
@[simp] theorem State.capIo_setLease (s : State) (n : Nat) (x : Lease) : (s.setLease n x).capIo = s.capIo := rfl
@[simp] theorem State.capTc_setLease (s : State) (n : Nat) (x : Lease) : (s.setLease n x).capTc = s.capTc := rfl
@[simp] theorem State.ports_setLease (s : State) (n : Nat) (x : Lease) : (s.setLease n x).ports = s.ports := rfl
@[simp] theorem State.guests_setLease (s : State) (n : Nat) (x : Lease) : (s.setLease n x).guests = s.guests := rfl
@[simp] theorem State.reqs_setLease (s : State) (n : Nat) (x : Lease) : (s.setLease n x).reqs = s.reqs := rfl
@[simp] theorem State.quiesced_setLease (s : State) (n : Nat) (x : Lease) : (s.setLease n x).quiesced = s.quiesced := rfl
@[simp] theorem State.spanLost_setLease (s : State) (n : Nat) (x : Lease) : (s.setLease n x).spanLost = s.spanLost := rfl
@[simp] theorem State.retiredSubs_setLease (s : State) (n : Nat) (x : Lease) : (s.setLease n x).retiredSubs = s.retiredSubs := rfl
@[simp] theorem State.ic_setLease (s : State) (n : Nat) (x : Lease) : (s.setLease n x).ic = s.ic := rfl
@[simp] theorem State.flog0_setLease (s : State) (n : Nat) (x : Lease) : (s.setLease n x).flog0 = s.flog0 := rfl
@[simp] theorem State.flog1_setLease (s : State) (n : Nat) (x : Lease) : (s.setLease n x).flog1 = s.flog1 := rfl
@[simp] theorem State.fatal_setLease (s : State) (n : Nat) (x : Lease) : (s.setLease n x).fatal = s.fatal := rfl
@[simp] theorem State.mbox_setLease (s : State) (n : Nat) (x : Lease) : (s.setLease n x).mbox = s.mbox := rfl
@[simp] theorem State.numVfs_setLease (s : State) (n : Nat) (x : Lease) : (s.setLease n x).numVfs = s.numVfs := rfl
@[simp] theorem State.vfEnable_setLease (s : State) (n : Nat) (x : Lease) : (s.setLease n x).vfEnable = s.vfEnable := rfl
@[simp] theorem State.vfPending_setLease (s : State) (n : Nat) (x : Lease) : (s.setLease n x).vfPending = s.vfPending := rfl
@[simp] theorem State.resets_setLease (s : State) (n : Nat) (x : Lease) : (s.setLease n x).resets = s.resets := rfl
@[simp] theorem State.alive_setLease (s : State) (n : Nat) (x : Lease) : (s.setLease n x).alive = s.alive := rfl
@[simp] theorem State.standby_setLease (s : State) (n : Nat) (x : Lease) : (s.setLease n x).standby = s.standby := rfl
@[simp] theorem State.hbActive_setLease (s : State) (n : Nat) (x : Lease) : (s.setLease n x).hbActive = s.hbActive := rfl
@[simp] theorem State.hbStandby_setLease (s : State) (n : Nat) (x : Lease) : (s.setLease n x).hbStandby = s.hbStandby := rfl
@[simp] theorem State.fwBuild_setLease (s : State) (n : Nat) (x : Lease) : (s.setLease n x).fwBuild = s.fwBuild := rfl
@[simp] theorem State.failovers_setLease (s : State) (n : Nat) (x : Lease) : (s.setLease n x).failovers = s.failovers := rfl
@[simp] theorem State.fwDead_setLease (s : State) (n : Nat) (x : Lease) : (s.setLease n x).fwDead = s.fwDead := rfl
@[simp] theorem State.segs_setLease (s : State) (n : Nat) (x : Lease) : (s.setLease n x).segs = s.segs := rfl
@[simp] theorem State.removing_setLease (s : State) (n : Nat) (x : Lease) : (s.setLease n x).removing = s.removing := rfl
@[simp] theorem State.keys_setLease (s : State) (n : Nat) (x : Lease) : (s.setLease n x).keys = s.keys := rfl
@[simp] theorem State.usedKeys_setLease (s : State) (n : Nat) (x : Lease) : (s.setLease n x).usedKeys = s.usedKeys := rfl
@[simp] theorem State.revocation_setLease (s : State) (n : Nat) (x : Lease) : (s.setLease n x).revocation = s.revocation := rfl
@[simp] theorem State.engines_setLease (s : State) (n : Nat) (x : Lease) : (s.setLease n x).engines = s.engines := rfl
@[simp] theorem State.xfers_setLease (s : State) (n : Nat) (x : Lease) : (s.setLease n x).xfers = s.xfers := rfl
@[simp] theorem State.zeroing_setLease (s : State) (n : Nat) (x : Lease) : (s.setLease n x).zeroing = s.zeroing := rfl
@[simp] theorem State.lists_setLease (s : State) (n : Nat) (x : Lease) : (s.setLease n x).lists = s.lists := rfl
@[simp] theorem State.nextList_setLease (s : State) (n : Nat) (x : Lease) : (s.setLease n x).nextList = s.nextList := rfl
@[simp] theorem State.issueOrder_setLease (s : State) (n : Nat) (x : Lease) : (s.setLease n x).issueOrder = s.issueOrder := rfl
@[simp] theorem State.tagCtr_setLease (s : State) (n : Nat) (x : Lease) : (s.setLease n x).tagCtr = s.tagCtr := rfl
@[simp] theorem State.vCeiling_setLease (s : State) (n : Nat) (x : Lease) : (s.setLease n x).vCeiling = s.vCeiling := rfl
@[simp] theorem State.bankMode_setLease (s : State) (n : Nat) (x : Lease) : (s.setLease n x).bankMode = s.bankMode := rfl
@[simp] theorem State.pkgCap_setLease (s : State) (n : Nat) (x : Lease) : (s.setLease n x).pkgCap = s.pkgCap := rfl
@[simp] theorem State.rthInterval_setLease (s : State) (n : Nat) (x : Lease) : (s.setLease n x).rthInterval = s.rthInterval := rfl
@[simp] theorem State.preemptWait_setLease (s : State) (n : Nat) (x : Lease) : (s.setLease n x).preemptWait = s.preemptWait := rfl
@[simp] theorem State.stackIdle_setLease (s : State) (n : Nat) (x : Lease) : (s.setLease n x).stackIdle = s.stackIdle := rfl
@[simp] theorem State.vFloor_setLease (s : State) (n : Nat) (x : Lease) : (s.setLease n x).vFloor = s.vFloor := rfl
@[simp] theorem State.clamps_setLease (s : State) (n : Nat) (x : Lease) : (s.setLease n x).clamps = s.clamps := rfl
@[simp] theorem State.pauseUntil_setLease (s : State) (n : Nat) (x : Lease) : (s.setLease n x).pauseUntil = s.pauseUntil := rfl
@[simp] theorem State.lastPause_setLease (s : State) (n : Nat) (x : Lease) : (s.setLease n x).lastPause = s.lastPause := rfl
@[simp] theorem State.progress_setLease (s : State) (n : Nat) (x : Lease) : (s.setLease n x).progress = s.progress := rfl
@[simp] theorem State.watchdogs_setLease (s : State) (n : Nat) (x : Lease) : (s.setLease n x).watchdogs = s.watchdogs := rfl
@[simp] theorem State.traceDrops_setLease (s : State) (n : Nat) (x : Lease) : (s.setLease n x).traceDrops = s.traceDrops := rfl
@[simp] theorem State.lossRecords_setLease (s : State) (n : Nat) (x : Lease) : (s.setLease n x).lossRecords = s.lossRecords := rfl
@[simp] theorem State.sampling_setLease (s : State) (n : Nat) (x : Lease) : (s.setLease n x).sampling = s.sampling := rfl
@[simp] theorem State.lampCheck_setLease (s : State) (n : Nat) (x : Lease) : (s.setLease n x).lampCheck = s.lampCheck := rfl

/-! ### setList -/

@[simp] theorem State.pending_setList (s : State) (l : WorkList) : (s.setList l).pending = s.pending := rfl
@[simp] theorem State.fuses_setList (s : State) (l : WorkList) : (s.setList l).fuses = s.fuses := rfl
@[simp] theorem State.out_setList (s : State) (l : WorkList) : (s.setList l).out = s.out := rfl
@[simp] theorem State.freeCtr_setList (s : State) (l : WorkList) : (s.setList l).freeCtr = s.freeCtr := rfl
@[simp] theorem State.now_setList (s : State) (l : WorkList) : (s.setList l).now = s.now := rfl
@[simp] theorem State.tb_setList (s : State) (l : WorkList) : (s.setList l).tb = s.tb := rfl
@[simp] theorem State.vaux_setList (s : State) (l : WorkList) : (s.setList l).vaux = s.vaux := rfl
@[simp] theorem State.resetN_setList (s : State) (l : WorkList) : (s.setList l).resetN = s.resetN := rfl
@[simp] theorem State.brownedOut_setList (s : State) (l : WorkList) : (s.setList l).brownedOut = s.brownedOut := rfl
@[simp] theorem State.x0Lost_setList (s : State) (l : WorkList) : (s.setList l).x0Lost = s.x0Lost := rfl
@[simp] theorem State.perstLow_setList (s : State) (l : WorkList) : (s.setList l).perstLow = s.perstLow := rfl
@[simp] theorem State.straps_setList (s : State) (l : WorkList) : (s.setList l).straps = s.straps := rfl
@[simp] theorem State.regs_setList (s : State) (l : WorkList) : (s.setList l).regs = s.regs := rfl
@[simp] theorem State.boot_setList (s : State) (l : WorkList) : (s.setList l).boot = s.boot := rfl
@[simp] theorem State.bootRun_setList (s : State) (l : WorkList) : (s.setList l).bootRun = s.bootRun := rfl
@[simp] theorem State.mem_setList (s : State) (l : WorkList) : (s.setList l).mem = s.mem := rfl
@[simp] theorem State.checks_setList (s : State) (l : WorkList) : (s.setList l).checks = s.checks := rfl
@[simp] theorem State.stores_setList (s : State) (l : WorkList) : (s.setList l).stores = s.stores := rfl
@[simp] theorem State.fplan_setList (s : State) (l : WorkList) : (s.setList l).fplan = s.fplan := rfl
@[simp] theorem State.fpDirty_setList (s : State) (l : WorkList) : (s.setList l).fpDirty = s.fpDirty := rfl
@[simp] theorem State.coreState_setList (s : State) (l : WorkList) : (s.setList l).coreState = s.coreState := rfl
@[simp] theorem State.towerState_setList (s : State) (l : WorkList) : (s.setList l).towerState = s.towerState := rfl
@[simp] theorem State.bankRetired_setList (s : State) (l : WorkList) : (s.setList l).bankRetired = s.bankRetired := rfl
@[simp] theorem State.chanMapped_setList (s : State) (l : WorkList) : (s.setList l).chanMapped = s.chanMapped := rfl
@[simp] theorem State.chanPoisoned_setList (s : State) (l : WorkList) : (s.setList l).chanPoisoned = s.chanPoisoned := rfl
@[simp] theorem State.guestPresent_setList (s : State) (l : WorkList) : (s.setList l).guestPresent = s.guestPresent := rfl
@[simp] theorem State.published_setList (s : State) (l : WorkList) : (s.setList l).published = s.published := rfl
@[simp] theorem State.cores_setList (s : State) (l : WorkList) : (s.setList l).cores = s.cores := rfl
@[simp] theorem State.beds_setList (s : State) (l : WorkList) : (s.setList l).beds = s.beds := rfl
@[simp] theorem State.hbm_setList (s : State) (l : WorkList) : (s.setList l).hbm = s.hbm := rfl
@[simp] theorem State.domains_setList (s : State) (l : WorkList) : (s.setList l).domains = s.domains := rfl
@[simp] theorem State.thermal_setList (s : State) (l : WorkList) : (s.setList l).thermal = s.thermal := rfl
@[simp] theorem State.vinAlert_setList (s : State) (l : WorkList) : (s.setList l).vinAlert = s.vinAlert := rfl
@[simp] theorem State.vinHighSince_setList (s : State) (l : WorkList) : (s.setList l).vinHighSince = s.vinHighSince := rfl
@[simp] theorem State.vinReturned_setList (s : State) (l : WorkList) : (s.setList l).vinReturned = s.vinReturned := rfl
@[simp] theorem State.capIo_setList (s : State) (l : WorkList) : (s.setList l).capIo = s.capIo := rfl
@[simp] theorem State.capTc_setList (s : State) (l : WorkList) : (s.setList l).capTc = s.capTc := rfl
@[simp] theorem State.ports_setList (s : State) (l : WorkList) : (s.setList l).ports = s.ports := rfl
@[simp] theorem State.guests_setList (s : State) (l : WorkList) : (s.setList l).guests = s.guests := rfl
@[simp] theorem State.reqs_setList (s : State) (l : WorkList) : (s.setList l).reqs = s.reqs := rfl
@[simp] theorem State.quiesced_setList (s : State) (l : WorkList) : (s.setList l).quiesced = s.quiesced := rfl
@[simp] theorem State.spanLost_setList (s : State) (l : WorkList) : (s.setList l).spanLost = s.spanLost := rfl
@[simp] theorem State.retiredSubs_setList (s : State) (l : WorkList) : (s.setList l).retiredSubs = s.retiredSubs := rfl
@[simp] theorem State.ic_setList (s : State) (l : WorkList) : (s.setList l).ic = s.ic := rfl
@[simp] theorem State.flog0_setList (s : State) (l : WorkList) : (s.setList l).flog0 = s.flog0 := rfl
@[simp] theorem State.flog1_setList (s : State) (l : WorkList) : (s.setList l).flog1 = s.flog1 := rfl
@[simp] theorem State.fatal_setList (s : State) (l : WorkList) : (s.setList l).fatal = s.fatal := rfl
@[simp] theorem State.mbox_setList (s : State) (l : WorkList) : (s.setList l).mbox = s.mbox := rfl
@[simp] theorem State.numVfs_setList (s : State) (l : WorkList) : (s.setList l).numVfs = s.numVfs := rfl
@[simp] theorem State.vfEnable_setList (s : State) (l : WorkList) : (s.setList l).vfEnable = s.vfEnable := rfl
@[simp] theorem State.vfPending_setList (s : State) (l : WorkList) : (s.setList l).vfPending = s.vfPending := rfl
@[simp] theorem State.resets_setList (s : State) (l : WorkList) : (s.setList l).resets = s.resets := rfl
@[simp] theorem State.alive_setList (s : State) (l : WorkList) : (s.setList l).alive = s.alive := rfl
@[simp] theorem State.standby_setList (s : State) (l : WorkList) : (s.setList l).standby = s.standby := rfl
@[simp] theorem State.hbActive_setList (s : State) (l : WorkList) : (s.setList l).hbActive = s.hbActive := rfl
@[simp] theorem State.hbStandby_setList (s : State) (l : WorkList) : (s.setList l).hbStandby = s.hbStandby := rfl
@[simp] theorem State.fwBuild_setList (s : State) (l : WorkList) : (s.setList l).fwBuild = s.fwBuild := rfl
@[simp] theorem State.failovers_setList (s : State) (l : WorkList) : (s.setList l).failovers = s.failovers := rfl
@[simp] theorem State.fwDead_setList (s : State) (l : WorkList) : (s.setList l).fwDead = s.fwDead := rfl
@[simp] theorem State.segs_setList (s : State) (l : WorkList) : (s.setList l).segs = s.segs := rfl
@[simp] theorem State.removing_setList (s : State) (l : WorkList) : (s.setList l).removing = s.removing := rfl
@[simp] theorem State.keys_setList (s : State) (l : WorkList) : (s.setList l).keys = s.keys := rfl
@[simp] theorem State.usedKeys_setList (s : State) (l : WorkList) : (s.setList l).usedKeys = s.usedKeys := rfl
@[simp] theorem State.leases_setList (s : State) (l : WorkList) : (s.setList l).leases = s.leases := rfl
@[simp] theorem State.revocation_setList (s : State) (l : WorkList) : (s.setList l).revocation = s.revocation := rfl
@[simp] theorem State.engines_setList (s : State) (l : WorkList) : (s.setList l).engines = s.engines := rfl
@[simp] theorem State.xfers_setList (s : State) (l : WorkList) : (s.setList l).xfers = s.xfers := rfl
@[simp] theorem State.zeroing_setList (s : State) (l : WorkList) : (s.setList l).zeroing = s.zeroing := rfl
@[simp] theorem State.nextList_setList (s : State) (l : WorkList) : (s.setList l).nextList = s.nextList := rfl
@[simp] theorem State.issueOrder_setList (s : State) (l : WorkList) : (s.setList l).issueOrder = s.issueOrder := rfl
@[simp] theorem State.tagCtr_setList (s : State) (l : WorkList) : (s.setList l).tagCtr = s.tagCtr := rfl
@[simp] theorem State.vCeiling_setList (s : State) (l : WorkList) : (s.setList l).vCeiling = s.vCeiling := rfl
@[simp] theorem State.bankMode_setList (s : State) (l : WorkList) : (s.setList l).bankMode = s.bankMode := rfl
@[simp] theorem State.pkgCap_setList (s : State) (l : WorkList) : (s.setList l).pkgCap = s.pkgCap := rfl
@[simp] theorem State.rthInterval_setList (s : State) (l : WorkList) : (s.setList l).rthInterval = s.rthInterval := rfl
@[simp] theorem State.preemptWait_setList (s : State) (l : WorkList) : (s.setList l).preemptWait = s.preemptWait := rfl
@[simp] theorem State.stackIdle_setList (s : State) (l : WorkList) : (s.setList l).stackIdle = s.stackIdle := rfl
@[simp] theorem State.vFloor_setList (s : State) (l : WorkList) : (s.setList l).vFloor = s.vFloor := rfl
@[simp] theorem State.clamps_setList (s : State) (l : WorkList) : (s.setList l).clamps = s.clamps := rfl
@[simp] theorem State.pauseUntil_setList (s : State) (l : WorkList) : (s.setList l).pauseUntil = s.pauseUntil := rfl
@[simp] theorem State.lastPause_setList (s : State) (l : WorkList) : (s.setList l).lastPause = s.lastPause := rfl
@[simp] theorem State.progress_setList (s : State) (l : WorkList) : (s.setList l).progress = s.progress := rfl
@[simp] theorem State.watchdogs_setList (s : State) (l : WorkList) : (s.setList l).watchdogs = s.watchdogs := rfl
@[simp] theorem State.traceDrops_setList (s : State) (l : WorkList) : (s.setList l).traceDrops = s.traceDrops := rfl
@[simp] theorem State.lossRecords_setList (s : State) (l : WorkList) : (s.setList l).lossRecords = s.lossRecords := rfl
@[simp] theorem State.sampling_setList (s : State) (l : WorkList) : (s.setList l).sampling = s.sampling := rfl
@[simp] theorem State.lampCheck_setList (s : State) (l : WorkList) : (s.setList l).lampCheck = s.lampCheck := rfl

/-! ### emit -/

@[simp] theorem State.pending_emit (s : State) (o : Output) : (s.emit o).pending = s.pending := rfl
@[simp] theorem State.fuses_emit (s : State) (o : Output) : (s.emit o).fuses = s.fuses := rfl
@[simp] theorem State.freeCtr_emit (s : State) (o : Output) : (s.emit o).freeCtr = s.freeCtr := rfl
@[simp] theorem State.now_emit (s : State) (o : Output) : (s.emit o).now = s.now := rfl
@[simp] theorem State.tb_emit (s : State) (o : Output) : (s.emit o).tb = s.tb := rfl
@[simp] theorem State.vaux_emit (s : State) (o : Output) : (s.emit o).vaux = s.vaux := rfl
@[simp] theorem State.resetN_emit (s : State) (o : Output) : (s.emit o).resetN = s.resetN := rfl
@[simp] theorem State.brownedOut_emit (s : State) (o : Output) : (s.emit o).brownedOut = s.brownedOut := rfl
@[simp] theorem State.x0Lost_emit (s : State) (o : Output) : (s.emit o).x0Lost = s.x0Lost := rfl
@[simp] theorem State.perstLow_emit (s : State) (o : Output) : (s.emit o).perstLow = s.perstLow := rfl
@[simp] theorem State.straps_emit (s : State) (o : Output) : (s.emit o).straps = s.straps := rfl
@[simp] theorem State.regs_emit (s : State) (o : Output) : (s.emit o).regs = s.regs := rfl
@[simp] theorem State.boot_emit (s : State) (o : Output) : (s.emit o).boot = s.boot := rfl
@[simp] theorem State.bootRun_emit (s : State) (o : Output) : (s.emit o).bootRun = s.bootRun := rfl
@[simp] theorem State.mem_emit (s : State) (o : Output) : (s.emit o).mem = s.mem := rfl
@[simp] theorem State.checks_emit (s : State) (o : Output) : (s.emit o).checks = s.checks := rfl
@[simp] theorem State.stores_emit (s : State) (o : Output) : (s.emit o).stores = s.stores := rfl
@[simp] theorem State.fplan_emit (s : State) (o : Output) : (s.emit o).fplan = s.fplan := rfl
@[simp] theorem State.fpDirty_emit (s : State) (o : Output) : (s.emit o).fpDirty = s.fpDirty := rfl
@[simp] theorem State.coreState_emit (s : State) (o : Output) : (s.emit o).coreState = s.coreState := rfl
@[simp] theorem State.towerState_emit (s : State) (o : Output) : (s.emit o).towerState = s.towerState := rfl
@[simp] theorem State.bankRetired_emit (s : State) (o : Output) : (s.emit o).bankRetired = s.bankRetired := rfl
@[simp] theorem State.chanMapped_emit (s : State) (o : Output) : (s.emit o).chanMapped = s.chanMapped := rfl
@[simp] theorem State.chanPoisoned_emit (s : State) (o : Output) : (s.emit o).chanPoisoned = s.chanPoisoned := rfl
@[simp] theorem State.guestPresent_emit (s : State) (o : Output) : (s.emit o).guestPresent = s.guestPresent := rfl
@[simp] theorem State.published_emit (s : State) (o : Output) : (s.emit o).published = s.published := rfl
@[simp] theorem State.cores_emit (s : State) (o : Output) : (s.emit o).cores = s.cores := rfl
@[simp] theorem State.beds_emit (s : State) (o : Output) : (s.emit o).beds = s.beds := rfl
@[simp] theorem State.hbm_emit (s : State) (o : Output) : (s.emit o).hbm = s.hbm := rfl
@[simp] theorem State.domains_emit (s : State) (o : Output) : (s.emit o).domains = s.domains := rfl
@[simp] theorem State.thermal_emit (s : State) (o : Output) : (s.emit o).thermal = s.thermal := rfl
@[simp] theorem State.vinAlert_emit (s : State) (o : Output) : (s.emit o).vinAlert = s.vinAlert := rfl
@[simp] theorem State.vinHighSince_emit (s : State) (o : Output) : (s.emit o).vinHighSince = s.vinHighSince := rfl
@[simp] theorem State.vinReturned_emit (s : State) (o : Output) : (s.emit o).vinReturned = s.vinReturned := rfl
@[simp] theorem State.capIo_emit (s : State) (o : Output) : (s.emit o).capIo = s.capIo := rfl
@[simp] theorem State.capTc_emit (s : State) (o : Output) : (s.emit o).capTc = s.capTc := rfl
@[simp] theorem State.ports_emit (s : State) (o : Output) : (s.emit o).ports = s.ports := rfl
@[simp] theorem State.guests_emit (s : State) (o : Output) : (s.emit o).guests = s.guests := rfl
@[simp] theorem State.reqs_emit (s : State) (o : Output) : (s.emit o).reqs = s.reqs := rfl
@[simp] theorem State.quiesced_emit (s : State) (o : Output) : (s.emit o).quiesced = s.quiesced := rfl
@[simp] theorem State.spanLost_emit (s : State) (o : Output) : (s.emit o).spanLost = s.spanLost := rfl
@[simp] theorem State.retiredSubs_emit (s : State) (o : Output) : (s.emit o).retiredSubs = s.retiredSubs := rfl
@[simp] theorem State.ic_emit (s : State) (o : Output) : (s.emit o).ic = s.ic := rfl
@[simp] theorem State.flog0_emit (s : State) (o : Output) : (s.emit o).flog0 = s.flog0 := rfl
@[simp] theorem State.flog1_emit (s : State) (o : Output) : (s.emit o).flog1 = s.flog1 := rfl
@[simp] theorem State.fatal_emit (s : State) (o : Output) : (s.emit o).fatal = s.fatal := rfl
@[simp] theorem State.mbox_emit (s : State) (o : Output) : (s.emit o).mbox = s.mbox := rfl
@[simp] theorem State.numVfs_emit (s : State) (o : Output) : (s.emit o).numVfs = s.numVfs := rfl
@[simp] theorem State.vfEnable_emit (s : State) (o : Output) : (s.emit o).vfEnable = s.vfEnable := rfl
@[simp] theorem State.vfPending_emit (s : State) (o : Output) : (s.emit o).vfPending = s.vfPending := rfl
@[simp] theorem State.resets_emit (s : State) (o : Output) : (s.emit o).resets = s.resets := rfl
@[simp] theorem State.alive_emit (s : State) (o : Output) : (s.emit o).alive = s.alive := rfl
@[simp] theorem State.standby_emit (s : State) (o : Output) : (s.emit o).standby = s.standby := rfl
@[simp] theorem State.hbActive_emit (s : State) (o : Output) : (s.emit o).hbActive = s.hbActive := rfl
@[simp] theorem State.hbStandby_emit (s : State) (o : Output) : (s.emit o).hbStandby = s.hbStandby := rfl
@[simp] theorem State.fwBuild_emit (s : State) (o : Output) : (s.emit o).fwBuild = s.fwBuild := rfl
@[simp] theorem State.failovers_emit (s : State) (o : Output) : (s.emit o).failovers = s.failovers := rfl
@[simp] theorem State.fwDead_emit (s : State) (o : Output) : (s.emit o).fwDead = s.fwDead := rfl
@[simp] theorem State.segs_emit (s : State) (o : Output) : (s.emit o).segs = s.segs := rfl
@[simp] theorem State.removing_emit (s : State) (o : Output) : (s.emit o).removing = s.removing := rfl
@[simp] theorem State.keys_emit (s : State) (o : Output) : (s.emit o).keys = s.keys := rfl
@[simp] theorem State.usedKeys_emit (s : State) (o : Output) : (s.emit o).usedKeys = s.usedKeys := rfl
@[simp] theorem State.leases_emit (s : State) (o : Output) : (s.emit o).leases = s.leases := rfl
@[simp] theorem State.revocation_emit (s : State) (o : Output) : (s.emit o).revocation = s.revocation := rfl
@[simp] theorem State.engines_emit (s : State) (o : Output) : (s.emit o).engines = s.engines := rfl
@[simp] theorem State.xfers_emit (s : State) (o : Output) : (s.emit o).xfers = s.xfers := rfl
@[simp] theorem State.zeroing_emit (s : State) (o : Output) : (s.emit o).zeroing = s.zeroing := rfl
@[simp] theorem State.lists_emit (s : State) (o : Output) : (s.emit o).lists = s.lists := rfl
@[simp] theorem State.nextList_emit (s : State) (o : Output) : (s.emit o).nextList = s.nextList := rfl
@[simp] theorem State.issueOrder_emit (s : State) (o : Output) : (s.emit o).issueOrder = s.issueOrder := rfl
@[simp] theorem State.tagCtr_emit (s : State) (o : Output) : (s.emit o).tagCtr = s.tagCtr := rfl
@[simp] theorem State.vCeiling_emit (s : State) (o : Output) : (s.emit o).vCeiling = s.vCeiling := rfl
@[simp] theorem State.bankMode_emit (s : State) (o : Output) : (s.emit o).bankMode = s.bankMode := rfl
@[simp] theorem State.pkgCap_emit (s : State) (o : Output) : (s.emit o).pkgCap = s.pkgCap := rfl
@[simp] theorem State.rthInterval_emit (s : State) (o : Output) : (s.emit o).rthInterval = s.rthInterval := rfl
@[simp] theorem State.preemptWait_emit (s : State) (o : Output) : (s.emit o).preemptWait = s.preemptWait := rfl
@[simp] theorem State.stackIdle_emit (s : State) (o : Output) : (s.emit o).stackIdle = s.stackIdle := rfl
@[simp] theorem State.vFloor_emit (s : State) (o : Output) : (s.emit o).vFloor = s.vFloor := rfl
@[simp] theorem State.clamps_emit (s : State) (o : Output) : (s.emit o).clamps = s.clamps := rfl
@[simp] theorem State.pauseUntil_emit (s : State) (o : Output) : (s.emit o).pauseUntil = s.pauseUntil := rfl
@[simp] theorem State.lastPause_emit (s : State) (o : Output) : (s.emit o).lastPause = s.lastPause := rfl
@[simp] theorem State.progress_emit (s : State) (o : Output) : (s.emit o).progress = s.progress := rfl
@[simp] theorem State.watchdogs_emit (s : State) (o : Output) : (s.emit o).watchdogs = s.watchdogs := rfl
@[simp] theorem State.traceDrops_emit (s : State) (o : Output) : (s.emit o).traceDrops = s.traceDrops := rfl
@[simp] theorem State.lossRecords_emit (s : State) (o : Output) : (s.emit o).lossRecords = s.lossRecords := rfl
@[simp] theorem State.sampling_emit (s : State) (o : Output) : (s.emit o).sampling = s.sampling := rfl
@[simp] theorem State.lampCheck_emit (s : State) (o : Output) : (s.emit o).lampCheck = s.lampCheck := rfl

/-! ### bumpFree -/

@[simp] theorem State.pending_bumpFree (s : State) : s.bumpFree.pending = s.pending := rfl
@[simp] theorem State.fuses_bumpFree (s : State) : s.bumpFree.fuses = s.fuses := rfl
@[simp] theorem State.out_bumpFree (s : State) : s.bumpFree.out = s.out := rfl
@[simp] theorem State.now_bumpFree (s : State) : s.bumpFree.now = s.now := rfl
@[simp] theorem State.tb_bumpFree (s : State) : s.bumpFree.tb = s.tb := rfl
@[simp] theorem State.vaux_bumpFree (s : State) : s.bumpFree.vaux = s.vaux := rfl
@[simp] theorem State.resetN_bumpFree (s : State) : s.bumpFree.resetN = s.resetN := rfl
@[simp] theorem State.brownedOut_bumpFree (s : State) : s.bumpFree.brownedOut = s.brownedOut := rfl
@[simp] theorem State.x0Lost_bumpFree (s : State) : s.bumpFree.x0Lost = s.x0Lost := rfl
@[simp] theorem State.perstLow_bumpFree (s : State) : s.bumpFree.perstLow = s.perstLow := rfl
@[simp] theorem State.straps_bumpFree (s : State) : s.bumpFree.straps = s.straps := rfl
@[simp] theorem State.regs_bumpFree (s : State) : s.bumpFree.regs = s.regs := rfl
@[simp] theorem State.boot_bumpFree (s : State) : s.bumpFree.boot = s.boot := rfl
@[simp] theorem State.bootRun_bumpFree (s : State) : s.bumpFree.bootRun = s.bootRun := rfl
@[simp] theorem State.mem_bumpFree (s : State) : s.bumpFree.mem = s.mem := rfl
@[simp] theorem State.checks_bumpFree (s : State) : s.bumpFree.checks = s.checks := rfl
@[simp] theorem State.stores_bumpFree (s : State) : s.bumpFree.stores = s.stores := rfl
@[simp] theorem State.fplan_bumpFree (s : State) : s.bumpFree.fplan = s.fplan := rfl
@[simp] theorem State.fpDirty_bumpFree (s : State) : s.bumpFree.fpDirty = s.fpDirty := rfl
@[simp] theorem State.coreState_bumpFree (s : State) : s.bumpFree.coreState = s.coreState := rfl
@[simp] theorem State.towerState_bumpFree (s : State) : s.bumpFree.towerState = s.towerState := rfl
@[simp] theorem State.bankRetired_bumpFree (s : State) : s.bumpFree.bankRetired = s.bankRetired := rfl
@[simp] theorem State.chanMapped_bumpFree (s : State) : s.bumpFree.chanMapped = s.chanMapped := rfl
@[simp] theorem State.chanPoisoned_bumpFree (s : State) : s.bumpFree.chanPoisoned = s.chanPoisoned := rfl
@[simp] theorem State.guestPresent_bumpFree (s : State) : s.bumpFree.guestPresent = s.guestPresent := rfl
@[simp] theorem State.published_bumpFree (s : State) : s.bumpFree.published = s.published := rfl
@[simp] theorem State.cores_bumpFree (s : State) : s.bumpFree.cores = s.cores := rfl
@[simp] theorem State.beds_bumpFree (s : State) : s.bumpFree.beds = s.beds := rfl
@[simp] theorem State.hbm_bumpFree (s : State) : s.bumpFree.hbm = s.hbm := rfl
@[simp] theorem State.domains_bumpFree (s : State) : s.bumpFree.domains = s.domains := rfl
@[simp] theorem State.thermal_bumpFree (s : State) : s.bumpFree.thermal = s.thermal := rfl
@[simp] theorem State.vinAlert_bumpFree (s : State) : s.bumpFree.vinAlert = s.vinAlert := rfl
@[simp] theorem State.vinHighSince_bumpFree (s : State) : s.bumpFree.vinHighSince = s.vinHighSince := rfl
@[simp] theorem State.vinReturned_bumpFree (s : State) : s.bumpFree.vinReturned = s.vinReturned := rfl
@[simp] theorem State.capIo_bumpFree (s : State) : s.bumpFree.capIo = s.capIo := rfl
@[simp] theorem State.capTc_bumpFree (s : State) : s.bumpFree.capTc = s.capTc := rfl
@[simp] theorem State.ports_bumpFree (s : State) : s.bumpFree.ports = s.ports := rfl
@[simp] theorem State.guests_bumpFree (s : State) : s.bumpFree.guests = s.guests := rfl
@[simp] theorem State.reqs_bumpFree (s : State) : s.bumpFree.reqs = s.reqs := rfl
@[simp] theorem State.quiesced_bumpFree (s : State) : s.bumpFree.quiesced = s.quiesced := rfl
@[simp] theorem State.spanLost_bumpFree (s : State) : s.bumpFree.spanLost = s.spanLost := rfl
@[simp] theorem State.retiredSubs_bumpFree (s : State) : s.bumpFree.retiredSubs = s.retiredSubs := rfl
@[simp] theorem State.ic_bumpFree (s : State) : s.bumpFree.ic = s.ic := rfl
@[simp] theorem State.flog0_bumpFree (s : State) : s.bumpFree.flog0 = s.flog0 := rfl
@[simp] theorem State.flog1_bumpFree (s : State) : s.bumpFree.flog1 = s.flog1 := rfl
@[simp] theorem State.fatal_bumpFree (s : State) : s.bumpFree.fatal = s.fatal := rfl
@[simp] theorem State.mbox_bumpFree (s : State) : s.bumpFree.mbox = s.mbox := rfl
@[simp] theorem State.numVfs_bumpFree (s : State) : s.bumpFree.numVfs = s.numVfs := rfl
@[simp] theorem State.vfEnable_bumpFree (s : State) : s.bumpFree.vfEnable = s.vfEnable := rfl
@[simp] theorem State.vfPending_bumpFree (s : State) : s.bumpFree.vfPending = s.vfPending := rfl
@[simp] theorem State.resets_bumpFree (s : State) : s.bumpFree.resets = s.resets := rfl
@[simp] theorem State.alive_bumpFree (s : State) : s.bumpFree.alive = s.alive := rfl
@[simp] theorem State.standby_bumpFree (s : State) : s.bumpFree.standby = s.standby := rfl
@[simp] theorem State.hbActive_bumpFree (s : State) : s.bumpFree.hbActive = s.hbActive := rfl
@[simp] theorem State.hbStandby_bumpFree (s : State) : s.bumpFree.hbStandby = s.hbStandby := rfl
@[simp] theorem State.fwBuild_bumpFree (s : State) : s.bumpFree.fwBuild = s.fwBuild := rfl
@[simp] theorem State.failovers_bumpFree (s : State) : s.bumpFree.failovers = s.failovers := rfl
@[simp] theorem State.fwDead_bumpFree (s : State) : s.bumpFree.fwDead = s.fwDead := rfl
@[simp] theorem State.segs_bumpFree (s : State) : s.bumpFree.segs = s.segs := rfl
@[simp] theorem State.removing_bumpFree (s : State) : s.bumpFree.removing = s.removing := rfl
@[simp] theorem State.keys_bumpFree (s : State) : s.bumpFree.keys = s.keys := rfl
@[simp] theorem State.usedKeys_bumpFree (s : State) : s.bumpFree.usedKeys = s.usedKeys := rfl
@[simp] theorem State.leases_bumpFree (s : State) : s.bumpFree.leases = s.leases := rfl
@[simp] theorem State.revocation_bumpFree (s : State) : s.bumpFree.revocation = s.revocation := rfl
@[simp] theorem State.engines_bumpFree (s : State) : s.bumpFree.engines = s.engines := rfl
@[simp] theorem State.xfers_bumpFree (s : State) : s.bumpFree.xfers = s.xfers := rfl
@[simp] theorem State.zeroing_bumpFree (s : State) : s.bumpFree.zeroing = s.zeroing := rfl
@[simp] theorem State.lists_bumpFree (s : State) : s.bumpFree.lists = s.lists := rfl
@[simp] theorem State.nextList_bumpFree (s : State) : s.bumpFree.nextList = s.nextList := rfl
@[simp] theorem State.issueOrder_bumpFree (s : State) : s.bumpFree.issueOrder = s.issueOrder := rfl
@[simp] theorem State.tagCtr_bumpFree (s : State) : s.bumpFree.tagCtr = s.tagCtr := rfl
@[simp] theorem State.vCeiling_bumpFree (s : State) : s.bumpFree.vCeiling = s.vCeiling := rfl
@[simp] theorem State.bankMode_bumpFree (s : State) : s.bumpFree.bankMode = s.bankMode := rfl
@[simp] theorem State.pkgCap_bumpFree (s : State) : s.bumpFree.pkgCap = s.pkgCap := rfl
@[simp] theorem State.rthInterval_bumpFree (s : State) : s.bumpFree.rthInterval = s.rthInterval := rfl
@[simp] theorem State.preemptWait_bumpFree (s : State) : s.bumpFree.preemptWait = s.preemptWait := rfl
@[simp] theorem State.stackIdle_bumpFree (s : State) : s.bumpFree.stackIdle = s.stackIdle := rfl
@[simp] theorem State.vFloor_bumpFree (s : State) : s.bumpFree.vFloor = s.vFloor := rfl
@[simp] theorem State.clamps_bumpFree (s : State) : s.bumpFree.clamps = s.clamps := rfl
@[simp] theorem State.pauseUntil_bumpFree (s : State) : s.bumpFree.pauseUntil = s.pauseUntil := rfl
@[simp] theorem State.lastPause_bumpFree (s : State) : s.bumpFree.lastPause = s.lastPause := rfl
@[simp] theorem State.progress_bumpFree (s : State) : s.bumpFree.progress = s.progress := rfl
@[simp] theorem State.watchdogs_bumpFree (s : State) : s.bumpFree.watchdogs = s.watchdogs := rfl
@[simp] theorem State.traceDrops_bumpFree (s : State) : s.bumpFree.traceDrops = s.traceDrops := rfl
@[simp] theorem State.lossRecords_bumpFree (s : State) : s.bumpFree.lossRecords = s.lossRecords := rfl
@[simp] theorem State.sampling_bumpFree (s : State) : s.bumpFree.sampling = s.sampling := rfl
@[simp] theorem State.lampCheck_bumpFree (s : State) : s.bumpFree.lampCheck = s.lampCheck := rfl

/-! ### Readings that an update leaves -/

@[simp] theorem State.dom_setReg (s : State) (r : Reg) (v : DWord) : (s.setReg r v).dom = s.dom := rfl
@[simp] theorem State.mb_setReg (s : State) (r : Reg) (v : DWord) : (s.setReg r v).mb = s.mb := rfl
@[simp] theorem State.bed_setReg (s : State) (r : Reg) (v : DWord) : (s.setReg r v).bed = s.bed := rfl
@[simp] theorem State.coreUnit_setReg (s : State) (r : Reg) (v : DWord) : (s.setReg r v).coreUnit = s.coreUnit := rfl
@[simp] theorem State.stack_setReg (s : State) (r : Reg) (v : DWord) : (s.setReg r v).stack = s.stack := rfl
@[simp] theorem State.therm_setReg (s : State) (r : Reg) (v : DWord) : (s.setReg r v).therm = s.therm := rfl
@[simp] theorem State.span_setReg (s : State) (r : Reg) (v : DWord) : (s.setReg r v).span = s.span := rfl
@[simp] theorem State.guest_setReg (s : State) (r : Reg) (v : DWord) : (s.setReg r v).guest = s.guest := rfl
@[simp] theorem State.engine_setReg (s : State) (r : Reg) (v : DWord) : (s.setReg r v).engine = s.engine := rfl
@[simp] theorem State.leaseAt_setReg (s : State) (r : Reg) (v : DWord) : (s.setReg r v).leaseAt = s.leaseAt := rfl
@[simp] theorem State.bw_setReg (s : State) (r : Reg) (v : DWord) : (s.setReg r v).bw = s.bw := rfl
@[simp] theorem State.dom_setBw (s : State) (o : Nat) (v : DWord) : (s.setBw o v).dom = s.dom := rfl
@[simp] theorem State.mb_setBw (s : State) (o : Nat) (v : DWord) : (s.setBw o v).mb = s.mb := rfl
@[simp] theorem State.bed_setBw (s : State) (o : Nat) (v : DWord) : (s.setBw o v).bed = s.bed := rfl
@[simp] theorem State.coreUnit_setBw (s : State) (o : Nat) (v : DWord) : (s.setBw o v).coreUnit = s.coreUnit := rfl
@[simp] theorem State.stack_setBw (s : State) (o : Nat) (v : DWord) : (s.setBw o v).stack = s.stack := rfl
@[simp] theorem State.therm_setBw (s : State) (o : Nat) (v : DWord) : (s.setBw o v).therm = s.therm := rfl
@[simp] theorem State.span_setBw (s : State) (o : Nat) (v : DWord) : (s.setBw o v).span = s.span := rfl
@[simp] theorem State.guest_setBw (s : State) (o : Nat) (v : DWord) : (s.setBw o v).guest = s.guest := rfl
@[simp] theorem State.engine_setBw (s : State) (o : Nat) (v : DWord) : (s.setBw o v).engine = s.engine := rfl
@[simp] theorem State.leaseAt_setBw (s : State) (o : Nat) (v : DWord) : (s.setBw o v).leaseAt = s.leaseAt := rfl
@[simp] theorem State.reg_setBw (s : State) (o : Nat) (v : DWord) : (s.setBw o v).reg = s.reg := rfl
@[simp] theorem State.dom_setCoreUnit (s : State) (k : Nat) (c : CoreUnit) : (s.setCoreUnit k c).dom = s.dom := rfl
@[simp] theorem State.mb_setCoreUnit (s : State) (k : Nat) (c : CoreUnit) : (s.setCoreUnit k c).mb = s.mb := rfl
@[simp] theorem State.bed_setCoreUnit (s : State) (k : Nat) (c : CoreUnit) : (s.setCoreUnit k c).bed = s.bed := rfl
@[simp] theorem State.stack_setCoreUnit (s : State) (k : Nat) (c : CoreUnit) : (s.setCoreUnit k c).stack = s.stack := rfl
@[simp] theorem State.therm_setCoreUnit (s : State) (k : Nat) (c : CoreUnit) : (s.setCoreUnit k c).therm = s.therm := rfl
@[simp] theorem State.span_setCoreUnit (s : State) (k : Nat) (c : CoreUnit) : (s.setCoreUnit k c).span = s.span := rfl
@[simp] theorem State.guest_setCoreUnit (s : State) (k : Nat) (c : CoreUnit) : (s.setCoreUnit k c).guest = s.guest := rfl
@[simp] theorem State.engine_setCoreUnit (s : State) (k : Nat) (c : CoreUnit) : (s.setCoreUnit k c).engine = s.engine := rfl
@[simp] theorem State.leaseAt_setCoreUnit (s : State) (k : Nat) (c : CoreUnit) : (s.setCoreUnit k c).leaseAt = s.leaseAt := rfl
@[simp] theorem State.reg_setCoreUnit (s : State) (k : Nat) (c : CoreUnit) : (s.setCoreUnit k c).reg = s.reg := rfl
@[simp] theorem State.bw_setCoreUnit (s : State) (k : Nat) (c : CoreUnit) : (s.setCoreUnit k c).bw = s.bw := rfl
@[simp] theorem State.dom_setBed (s : State) (k : Nat) (b : Bed) : (s.setBed k b).dom = s.dom := rfl
@[simp] theorem State.mb_setBed (s : State) (k : Nat) (b : Bed) : (s.setBed k b).mb = s.mb := rfl
@[simp] theorem State.coreUnit_setBed (s : State) (k : Nat) (b : Bed) : (s.setBed k b).coreUnit = s.coreUnit := rfl
@[simp] theorem State.stack_setBed (s : State) (k : Nat) (b : Bed) : (s.setBed k b).stack = s.stack := rfl
@[simp] theorem State.therm_setBed (s : State) (k : Nat) (b : Bed) : (s.setBed k b).therm = s.therm := rfl
@[simp] theorem State.span_setBed (s : State) (k : Nat) (b : Bed) : (s.setBed k b).span = s.span := rfl
@[simp] theorem State.guest_setBed (s : State) (k : Nat) (b : Bed) : (s.setBed k b).guest = s.guest := rfl
@[simp] theorem State.engine_setBed (s : State) (k : Nat) (b : Bed) : (s.setBed k b).engine = s.engine := rfl
@[simp] theorem State.leaseAt_setBed (s : State) (k : Nat) (b : Bed) : (s.setBed k b).leaseAt = s.leaseAt := rfl
@[simp] theorem State.reg_setBed (s : State) (k : Nat) (b : Bed) : (s.setBed k b).reg = s.reg := rfl
@[simp] theorem State.bw_setBed (s : State) (k : Nat) (b : Bed) : (s.setBed k b).bw = s.bw := rfl
@[simp] theorem State.dom_setStack (s : State) (n : Nat) (x : Stack) : (s.setStack n x).dom = s.dom := rfl
@[simp] theorem State.mb_setStack (s : State) (n : Nat) (x : Stack) : (s.setStack n x).mb = s.mb := rfl
@[simp] theorem State.bed_setStack (s : State) (n : Nat) (x : Stack) : (s.setStack n x).bed = s.bed := rfl
@[simp] theorem State.coreUnit_setStack (s : State) (n : Nat) (x : Stack) : (s.setStack n x).coreUnit = s.coreUnit := rfl
@[simp] theorem State.therm_setStack (s : State) (n : Nat) (x : Stack) : (s.setStack n x).therm = s.therm := rfl
@[simp] theorem State.span_setStack (s : State) (n : Nat) (x : Stack) : (s.setStack n x).span = s.span := rfl
@[simp] theorem State.guest_setStack (s : State) (n : Nat) (x : Stack) : (s.setStack n x).guest = s.guest := rfl
@[simp] theorem State.engine_setStack (s : State) (n : Nat) (x : Stack) : (s.setStack n x).engine = s.engine := rfl
@[simp] theorem State.leaseAt_setStack (s : State) (n : Nat) (x : Stack) : (s.setStack n x).leaseAt = s.leaseAt := rfl
@[simp] theorem State.reg_setStack (s : State) (n : Nat) (x : Stack) : (s.setStack n x).reg = s.reg := rfl
@[simp] theorem State.bw_setStack (s : State) (n : Nat) (x : Stack) : (s.setStack n x).bw = s.bw := rfl
@[simp] theorem State.mb_setDom (s : State) (d : Nat) (x : Domain) : (s.setDom d x).mb = s.mb := rfl
@[simp] theorem State.bed_setDom (s : State) (d : Nat) (x : Domain) : (s.setDom d x).bed = s.bed := rfl
@[simp] theorem State.coreUnit_setDom (s : State) (d : Nat) (x : Domain) : (s.setDom d x).coreUnit = s.coreUnit := rfl
@[simp] theorem State.stack_setDom (s : State) (d : Nat) (x : Domain) : (s.setDom d x).stack = s.stack := rfl
@[simp] theorem State.therm_setDom (s : State) (d : Nat) (x : Domain) : (s.setDom d x).therm = s.therm := rfl
@[simp] theorem State.span_setDom (s : State) (d : Nat) (x : Domain) : (s.setDom d x).span = s.span := rfl
@[simp] theorem State.guest_setDom (s : State) (d : Nat) (x : Domain) : (s.setDom d x).guest = s.guest := rfl
@[simp] theorem State.engine_setDom (s : State) (d : Nat) (x : Domain) : (s.setDom d x).engine = s.engine := rfl
@[simp] theorem State.leaseAt_setDom (s : State) (d : Nat) (x : Domain) : (s.setDom d x).leaseAt = s.leaseAt := rfl
@[simp] theorem State.reg_setDom (s : State) (d : Nat) (x : Domain) : (s.setDom d x).reg = s.reg := rfl
@[simp] theorem State.bw_setDom (s : State) (d : Nat) (x : Domain) : (s.setDom d x).bw = s.bw := rfl
@[simp] theorem State.dom_setTherm (s : State) (t : Nat) (x : Thermal) : (s.setTherm t x).dom = s.dom := rfl
@[simp] theorem State.mb_setTherm (s : State) (t : Nat) (x : Thermal) : (s.setTherm t x).mb = s.mb := rfl
@[simp] theorem State.bed_setTherm (s : State) (t : Nat) (x : Thermal) : (s.setTherm t x).bed = s.bed := rfl
@[simp] theorem State.coreUnit_setTherm (s : State) (t : Nat) (x : Thermal) : (s.setTherm t x).coreUnit = s.coreUnit := rfl
@[simp] theorem State.stack_setTherm (s : State) (t : Nat) (x : Thermal) : (s.setTherm t x).stack = s.stack := rfl
@[simp] theorem State.span_setTherm (s : State) (t : Nat) (x : Thermal) : (s.setTherm t x).span = s.span := rfl
@[simp] theorem State.guest_setTherm (s : State) (t : Nat) (x : Thermal) : (s.setTherm t x).guest = s.guest := rfl
@[simp] theorem State.engine_setTherm (s : State) (t : Nat) (x : Thermal) : (s.setTherm t x).engine = s.engine := rfl
@[simp] theorem State.leaseAt_setTherm (s : State) (t : Nat) (x : Thermal) : (s.setTherm t x).leaseAt = s.leaseAt := rfl
@[simp] theorem State.reg_setTherm (s : State) (t : Nat) (x : Thermal) : (s.setTherm t x).reg = s.reg := rfl
@[simp] theorem State.bw_setTherm (s : State) (t : Nat) (x : Thermal) : (s.setTherm t x).bw = s.bw := rfl
@[simp] theorem State.dom_setSpan (s : State) (p : Nat) (x : Span) : (s.setSpan p x).dom = s.dom := rfl
@[simp] theorem State.mb_setSpan (s : State) (p : Nat) (x : Span) : (s.setSpan p x).mb = s.mb := rfl
@[simp] theorem State.bed_setSpan (s : State) (p : Nat) (x : Span) : (s.setSpan p x).bed = s.bed := rfl
@[simp] theorem State.coreUnit_setSpan (s : State) (p : Nat) (x : Span) : (s.setSpan p x).coreUnit = s.coreUnit := rfl
@[simp] theorem State.stack_setSpan (s : State) (p : Nat) (x : Span) : (s.setSpan p x).stack = s.stack := rfl
@[simp] theorem State.therm_setSpan (s : State) (p : Nat) (x : Span) : (s.setSpan p x).therm = s.therm := rfl
@[simp] theorem State.guest_setSpan (s : State) (p : Nat) (x : Span) : (s.setSpan p x).guest = s.guest := rfl
@[simp] theorem State.engine_setSpan (s : State) (p : Nat) (x : Span) : (s.setSpan p x).engine = s.engine := rfl
@[simp] theorem State.leaseAt_setSpan (s : State) (p : Nat) (x : Span) : (s.setSpan p x).leaseAt = s.leaseAt := rfl
@[simp] theorem State.reg_setSpan (s : State) (p : Nat) (x : Span) : (s.setSpan p x).reg = s.reg := rfl
@[simp] theorem State.bw_setSpan (s : State) (p : Nat) (x : Span) : (s.setSpan p x).bw = s.bw := rfl
@[simp] theorem State.dom_setGuest (s : State) (g : Nat) (x : Guest) : (s.setGuest g x).dom = s.dom := rfl
@[simp] theorem State.mb_setGuest (s : State) (g : Nat) (x : Guest) : (s.setGuest g x).mb = s.mb := rfl
@[simp] theorem State.bed_setGuest (s : State) (g : Nat) (x : Guest) : (s.setGuest g x).bed = s.bed := rfl
@[simp] theorem State.coreUnit_setGuest (s : State) (g : Nat) (x : Guest) : (s.setGuest g x).coreUnit = s.coreUnit := rfl
@[simp] theorem State.stack_setGuest (s : State) (g : Nat) (x : Guest) : (s.setGuest g x).stack = s.stack := rfl
@[simp] theorem State.therm_setGuest (s : State) (g : Nat) (x : Guest) : (s.setGuest g x).therm = s.therm := rfl
@[simp] theorem State.span_setGuest (s : State) (g : Nat) (x : Guest) : (s.setGuest g x).span = s.span := rfl
@[simp] theorem State.engine_setGuest (s : State) (g : Nat) (x : Guest) : (s.setGuest g x).engine = s.engine := rfl
@[simp] theorem State.leaseAt_setGuest (s : State) (g : Nat) (x : Guest) : (s.setGuest g x).leaseAt = s.leaseAt := rfl
@[simp] theorem State.reg_setGuest (s : State) (g : Nat) (x : Guest) : (s.setGuest g x).reg = s.reg := rfl
@[simp] theorem State.bw_setGuest (s : State) (g : Nat) (x : Guest) : (s.setGuest g x).bw = s.bw := rfl
@[simp] theorem State.dom_setMb (s : State) (t : Nat) (x : Mailbox) : (s.setMb t x).dom = s.dom := rfl
@[simp] theorem State.bed_setMb (s : State) (t : Nat) (x : Mailbox) : (s.setMb t x).bed = s.bed := rfl
@[simp] theorem State.coreUnit_setMb (s : State) (t : Nat) (x : Mailbox) : (s.setMb t x).coreUnit = s.coreUnit := rfl
@[simp] theorem State.stack_setMb (s : State) (t : Nat) (x : Mailbox) : (s.setMb t x).stack = s.stack := rfl
@[simp] theorem State.therm_setMb (s : State) (t : Nat) (x : Mailbox) : (s.setMb t x).therm = s.therm := rfl
@[simp] theorem State.span_setMb (s : State) (t : Nat) (x : Mailbox) : (s.setMb t x).span = s.span := rfl
@[simp] theorem State.guest_setMb (s : State) (t : Nat) (x : Mailbox) : (s.setMb t x).guest = s.guest := rfl
@[simp] theorem State.engine_setMb (s : State) (t : Nat) (x : Mailbox) : (s.setMb t x).engine = s.engine := rfl
@[simp] theorem State.leaseAt_setMb (s : State) (t : Nat) (x : Mailbox) : (s.setMb t x).leaseAt = s.leaseAt := rfl
@[simp] theorem State.reg_setMb (s : State) (t : Nat) (x : Mailbox) : (s.setMb t x).reg = s.reg := rfl
@[simp] theorem State.bw_setMb (s : State) (t : Nat) (x : Mailbox) : (s.setMb t x).bw = s.bw := rfl
@[simp] theorem State.dom_setEngine (s : State) (e : Nat) (x : Engine) : (s.setEngine e x).dom = s.dom := rfl
@[simp] theorem State.mb_setEngine (s : State) (e : Nat) (x : Engine) : (s.setEngine e x).mb = s.mb := rfl
@[simp] theorem State.bed_setEngine (s : State) (e : Nat) (x : Engine) : (s.setEngine e x).bed = s.bed := rfl
@[simp] theorem State.coreUnit_setEngine (s : State) (e : Nat) (x : Engine) : (s.setEngine e x).coreUnit = s.coreUnit := rfl
@[simp] theorem State.stack_setEngine (s : State) (e : Nat) (x : Engine) : (s.setEngine e x).stack = s.stack := rfl
@[simp] theorem State.therm_setEngine (s : State) (e : Nat) (x : Engine) : (s.setEngine e x).therm = s.therm := rfl
@[simp] theorem State.span_setEngine (s : State) (e : Nat) (x : Engine) : (s.setEngine e x).span = s.span := rfl
@[simp] theorem State.guest_setEngine (s : State) (e : Nat) (x : Engine) : (s.setEngine e x).guest = s.guest := rfl
@[simp] theorem State.leaseAt_setEngine (s : State) (e : Nat) (x : Engine) : (s.setEngine e x).leaseAt = s.leaseAt := rfl
@[simp] theorem State.reg_setEngine (s : State) (e : Nat) (x : Engine) : (s.setEngine e x).reg = s.reg := rfl
@[simp] theorem State.bw_setEngine (s : State) (e : Nat) (x : Engine) : (s.setEngine e x).bw = s.bw := rfl
@[simp] theorem State.dom_setLease (s : State) (n : Nat) (x : Lease) : (s.setLease n x).dom = s.dom := rfl
@[simp] theorem State.mb_setLease (s : State) (n : Nat) (x : Lease) : (s.setLease n x).mb = s.mb := rfl
@[simp] theorem State.bed_setLease (s : State) (n : Nat) (x : Lease) : (s.setLease n x).bed = s.bed := rfl
@[simp] theorem State.coreUnit_setLease (s : State) (n : Nat) (x : Lease) : (s.setLease n x).coreUnit = s.coreUnit := rfl
@[simp] theorem State.stack_setLease (s : State) (n : Nat) (x : Lease) : (s.setLease n x).stack = s.stack := rfl
@[simp] theorem State.therm_setLease (s : State) (n : Nat) (x : Lease) : (s.setLease n x).therm = s.therm := rfl
@[simp] theorem State.span_setLease (s : State) (n : Nat) (x : Lease) : (s.setLease n x).span = s.span := rfl
@[simp] theorem State.guest_setLease (s : State) (n : Nat) (x : Lease) : (s.setLease n x).guest = s.guest := rfl
@[simp] theorem State.engine_setLease (s : State) (n : Nat) (x : Lease) : (s.setLease n x).engine = s.engine := rfl
@[simp] theorem State.reg_setLease (s : State) (n : Nat) (x : Lease) : (s.setLease n x).reg = s.reg := rfl
@[simp] theorem State.bw_setLease (s : State) (n : Nat) (x : Lease) : (s.setLease n x).bw = s.bw := rfl
@[simp] theorem State.dom_setList (s : State) (l : WorkList) : (s.setList l).dom = s.dom := rfl
@[simp] theorem State.mb_setList (s : State) (l : WorkList) : (s.setList l).mb = s.mb := rfl
@[simp] theorem State.bed_setList (s : State) (l : WorkList) : (s.setList l).bed = s.bed := rfl
@[simp] theorem State.coreUnit_setList (s : State) (l : WorkList) : (s.setList l).coreUnit = s.coreUnit := rfl
@[simp] theorem State.stack_setList (s : State) (l : WorkList) : (s.setList l).stack = s.stack := rfl
@[simp] theorem State.therm_setList (s : State) (l : WorkList) : (s.setList l).therm = s.therm := rfl
@[simp] theorem State.span_setList (s : State) (l : WorkList) : (s.setList l).span = s.span := rfl
@[simp] theorem State.guest_setList (s : State) (l : WorkList) : (s.setList l).guest = s.guest := rfl
@[simp] theorem State.engine_setList (s : State) (l : WorkList) : (s.setList l).engine = s.engine := rfl
@[simp] theorem State.leaseAt_setList (s : State) (l : WorkList) : (s.setList l).leaseAt = s.leaseAt := rfl
@[simp] theorem State.reg_setList (s : State) (l : WorkList) : (s.setList l).reg = s.reg := rfl
@[simp] theorem State.bw_setList (s : State) (l : WorkList) : (s.setList l).bw = s.bw := rfl
@[simp] theorem State.dom_emit (s : State) (o : Output) : (s.emit o).dom = s.dom := rfl
@[simp] theorem State.mb_emit (s : State) (o : Output) : (s.emit o).mb = s.mb := rfl
@[simp] theorem State.bed_emit (s : State) (o : Output) : (s.emit o).bed = s.bed := rfl
@[simp] theorem State.coreUnit_emit (s : State) (o : Output) : (s.emit o).coreUnit = s.coreUnit := rfl
@[simp] theorem State.stack_emit (s : State) (o : Output) : (s.emit o).stack = s.stack := rfl
@[simp] theorem State.therm_emit (s : State) (o : Output) : (s.emit o).therm = s.therm := rfl
@[simp] theorem State.span_emit (s : State) (o : Output) : (s.emit o).span = s.span := rfl
@[simp] theorem State.guest_emit (s : State) (o : Output) : (s.emit o).guest = s.guest := rfl
@[simp] theorem State.engine_emit (s : State) (o : Output) : (s.emit o).engine = s.engine := rfl
@[simp] theorem State.leaseAt_emit (s : State) (o : Output) : (s.emit o).leaseAt = s.leaseAt := rfl
@[simp] theorem State.reg_emit (s : State) (o : Output) : (s.emit o).reg = s.reg := rfl
@[simp] theorem State.bw_emit (s : State) (o : Output) : (s.emit o).bw = s.bw := rfl
@[simp] theorem State.dom_bumpFree (s : State) : s.bumpFree.dom = s.dom := rfl
@[simp] theorem State.mb_bumpFree (s : State) : s.bumpFree.mb = s.mb := rfl
@[simp] theorem State.bed_bumpFree (s : State) : s.bumpFree.bed = s.bed := rfl
@[simp] theorem State.coreUnit_bumpFree (s : State) : s.bumpFree.coreUnit = s.coreUnit := rfl
@[simp] theorem State.stack_bumpFree (s : State) : s.bumpFree.stack = s.stack := rfl
@[simp] theorem State.therm_bumpFree (s : State) : s.bumpFree.therm = s.therm := rfl
@[simp] theorem State.span_bumpFree (s : State) : s.bumpFree.span = s.span := rfl
@[simp] theorem State.guest_bumpFree (s : State) : s.bumpFree.guest = s.guest := rfl
@[simp] theorem State.engine_bumpFree (s : State) : s.bumpFree.engine = s.engine := rfl
@[simp] theorem State.leaseAt_bumpFree (s : State) : s.bumpFree.leaseAt = s.leaseAt := rfl
@[simp] theorem State.reg_bumpFree (s : State) : s.bumpFree.reg = s.reg := rfl
@[simp] theorem State.bw_bumpFree (s : State) : s.bumpFree.bw = s.bw := rfl

end Sys2Proof.Machine
end

