-- ==== Sys2Proof/Tests/Slice0.lean ====
section
/-! SUPPORT. Tests of the model: for every obligation with premises a theorem that states and operands meet them, clause by
clause; an ill-formed term for each check of `Instr.wf`; and the spec's worked examples. -/

namespace Sys2Proof.Tests

set_option Elab.async false

open Sys2Proof Sys2Proof.Machine

/-! ### States and operands -/

/-- A part whose dies are all on, that has fired and whose firmware runs. -/
def up : State :=
  (({ State.reset with resetN := true, domains := (List.range 12).map fun d => (d, { state := .on }), alive := true,
                       hbActive := some 0 } : State).setBwF BW.state 28 4 3).setBwF BW.state 24 4 8

/-- A part in bring-up, GREEN after step `st`, with these arguments. -/
def green (st a0 a1 : Nat) : State :=
  ((({ up with alive := false }.setBwF BW.state 28 4 1).setBwF BW.state 24 4 st).setBwF BW.arg0 0 32 a0).setBwF BW.arg1 0 32 a1

/-- The state after a command that answers one. -/
def after (c : Instr) (s : State) : State :=
  match exec c s with
  | .next t => t
  | _ => s

/-- `n` bytes with these fields: offset, length, value. -/
def fieldsOf (n : Nat) (fs : List (Nat × Nat × Nat)) : List Byte :=
  rdBytes (fs.foldl (fun m f => wrBytes m f.1 (leBytes f.2.1 f.2.2)) []) 0 n

/-- `n` bytes that count up in steps of `k`. -/
def ramp (n k : Nat) : List Byte := (List.range n).map fun i => BitVec.ofNat 8 (i * k + 1)

/-- A slip of tenant `t`: opcode, tag and further fields. -/
def slip (t op tag : Nat) (fs : List (Nat × Nat × Nat)) : Slip :=
  ⟨BitVec.ofNat 10 t, fieldsOf 64 ((0, 1, op) :: (4, 4, tag) :: fs)⟩

/-- Tenant `t`'s mailbox in session with one slip waiting. -/
def sess (s : State) (t : Nat) : State :=
  { s with numVfs := 4, vfEnable := true }.setMb t { session := true, version := 0x302, sqTail := 1, irq := true }

/-- Tenants 0 and 1 in session. -/
def vm : State := sess (sess up 1) 0

/-- The same part long after its reset. -/
def late : State := { vm with now := 5000000000000, tb := { count := 3 } }

/-- Tenant 0 without a session, one slip waiting. -/
def noSession : State := up.setMb 0 { sqTail := 1 }

/-- Dies that are lost. -/
def lose (s : State) (ds : List Nat) : State :=
  { s with domains := (List.range 12).map fun d => (d, { state := if d ∈ ds then .dead else .on, lost := decide (d ∈ ds) }) }

/-- Segments of tenant 1 in external memory, and one in the bed of core 3. -/
def priv5 : Seg := ⟨0x400000, 0x200000, .priv, false, 3, 0, 1, 0xFFFFFFFF⟩
def shared5 : Seg := ⟨0x400000, 0x200000, .shared, false, 3, 0, 1, 0x15⟩
def attached5 : Seg := ⟨0x400000, 0x200000, .attached, false, 1, 0, 1, 0x15⟩
def seg5 : Seg := ⟨0x400000, 0x10000000, .priv, false, 7, 0, 1, 0xFFFFFFFF⟩
def bseg : Seg := ⟨bedBase 3, 0x1000000, .priv, true, 7, 3, 1, 0xFFFFFFFF⟩

/-- References into segments 5 and 6, the staging store and the accumulator (R253). -/
def ref5 (o : Nat) : Nat := 2 ^ 61 + 5 * 2 ^ 52 + o
def ref6 (o : Nat) : Nat := 2 ^ 61 + 6 * 2 ^ 52 + o
def ref3 (o : Nat) : Nat := 3 * 2 ^ 61 + o
def ref2 (o : Nat) : Nat := 2 * 2 ^ 61 + o

/-- The bytes of an operation: opcode, flags, core, record, further fields. -/
def opb (c flags core rec : Nat) (fs : List (Nat × Nat × Nat)) : List Byte :=
  fieldsOf (32 * opUnits c) ((0, 1, c) :: (1, 1, opUnits c) :: (2, 1, flags) :: (3, 1, core) :: (4, 2, rec) :: fs)

/-- A running work list of tenant 1, with these operations. -/
def wl : WorkList :=
  { id := 4, tenant := 1, tag := 77, quiet := false, priority := 3, ref := ref5 0, submitted := 0, state := .running, units := 20,
    resume := ref5 0x800000, records := ref5 0x100000, next := 1, admitted := 9, everAdmitted := true }
def wlOf (ops : List Op) : WorkList := { wl with ops := ops }

/-- Such a list beside one of another tenant. -/
def ls (l : WorkList) : State :=
  let s := (vm.setSeg 1 5 seg5).setSeg 1 6 bseg
  { s.setMb 1 { s.mb 1 with live := [⟨6, 77, false, []⟩] } with
    lists := [{ wl with id := 2, tenant := 2, tag := 3 }, l], now := 1000, tb := { count := 500 }, nextList := 9 }

/-- The operation that list `wl` issues next. -/
def nextOp (s : State) (bs : List Byte) : Op := Claims.newOp s wl bs
/-- One command waits. -/
def queued : State := { up with pending := [.arm] }

theorem witness_step_runs_the_front_command :
    (queued.pending = [Instr.arm]) ∧
    (up.pending = []) := by
  decide +kernel

theorem witness_every_step_keeps_the_canonical_form :
    (queued.memWf = true ∧ queued.regsWf = true) ∧ step queued = Host.Outcome.next (after Instr.arm up) :=
  ⟨by decide +kernel, rfl⟩

theorem witness_every_step_takes_one_command :
    step queued = Host.Outcome.next (after Instr.arm up) :=
  rfl

/-- A latched edge at an idle source. -/
def latched : State := { up with ic := { srcs := [(0x384, { latched := true, latchLost := 4 })] } }

theorem witness_events_make_idle_sources_pending :
    (srcExists 2047 = true ∧ up.x0Lost = false) ∧
    ((latched.ic.src 900).latched = true ∧ latched.srcHeld 900 = false ∧ latched.x0Lost = false ∧ (latched.ic.src
      900).mode = SrcMode.idle) := by
  decide +kernel

/-- Vectors that are owed and have never been sent. -/
def owing (t : Nat) : State := (sess up t).setMb t { vec0 := { owed := true }, vec1 := { owed := true } }

theorem witness_vectors_are_sent_when_owed :
    (((owing 0).mb 0).vec1.due (owing 0).now = true) ∧
    (((owing 3).mb 3).vec0.due (owing 3).now = true) := by
  decide +kernel

/-- A timebase at its last count. -/
def timed (locked holdover armed : Bool) : State :=
  { up with tb := { count := 2 ^ 64 - 1, locked := locked, holdover := holdover, armed := armed, preset := 77 }, now := 1000 }

theorem witness_timebase_counts_locks_and_loads :
    ((timed false false true).tbRuns = true ∧ (timed false false true).tb.locked = false ∧ (timed false false
      true).tb.holdover = false) ∧
    ((timed true false true).tbRuns = true ∧ (timed true false true).tb.armed = true ∧ (timed true false
      true).tb.locked = true) ∧
    ((timed true false false).tb.armed = false) ∧
    ((timed false true true).tbRuns = true ∧ (timed false true true).tb.armed = true ∧ (timed false true
      true).tb.locked = false) ∧
    ((timed false true true).tbRuns = true ∧ (timed false true true).tb.holdover = true) := by
  decide +kernel

/-- A SEG_FREE of segment 5 by tenant `t`, byte 11h zero or not; other slips of tenants 0 and 1. -/
def freeSlip (t x : Nat) : Slip := slip t 3 5 [(0x10, 1, 5), (0x11, 1, x)]
def resetSlip (t u : Nat) : Slip := slip t 0xF 7 [(8, 2, u)]
def noSlip : Slip := slip 0 0 9 [(1, 1, 1)]

theorem witness_slips_are_checked_before_they_act :
    (Claims.slipRow up (Instr.segFree (freeSlip 1 0)) = some (freeSlip 1 0, 3, false, [(16, 1)]) ∧ Claims.taken up
      (freeSlip 1 0) 3 = false) ∧
    (Claims.slipRow noSession (Instr.segFree (freeSlip 0 0)) = some (freeSlip 0 0, 3, false, [(16, 1)]) ∧
      noSession.canTakeSlip (freeSlip 0 0).t = true) ∧
    (Claims.slipRow noSession (Instr.segFree (freeSlip 0 0)) = some (freeSlip 0 0, 3, false, [(16, 1)]) ∧
      Claims.taken noSession (freeSlip 0 0) 3 = true ∧ 3 ≠ 1 ∧ (noSession.mb (freeSlip 0 0).t).session = false) ∧
    (Claims.slipRow vm (Instr.segFree (freeSlip 1 1)) = some (freeSlip 1 1, 3, false, [(16, 1)]) ∧ Claims.taken vm
      (freeSlip 1 1) 3 = true ∧ (3 = 1 ∨ (vm.mb (freeSlip 1 1).t).session = true) ∧ (false = true → (freeSlip 1 1).t
      = 0) ∧ (freeSlip 1 1).clean [(16, 1)] = false) ∧
    (Claims.slipRow vm (Instr.tenantReset (resetSlip 1 1)) = some (resetSlip 1 1, 15, true, [(8, 2)]) ∧ Claims.taken
      vm (resetSlip 1 1) 15 = true ∧ (vm.mb (resetSlip 1 1).t).session = true ∧ (resetSlip 1 1).t ≠ 0) ∧
    (Claims.taken noSession noSlip noSlip.opcode = true ∧ (noSlip.opcode = 0 ∨ 15 < noSlip.opcode)) := by
  and_intros <;> decide +kernel

/-- Tenant 2's mailbox with a completion read or two, and with two notices that it holds back. -/
def read2 : State := vm.setMb 2 { cqTail := 3, cqHead := 1 }
def note (n : Nat) : Notice := ⟨0x41, 3, 2, 9, 77, List.replicate n 1⟩
def held2 : State := vm.setMb 2 { held := [note 3, note 48], cqTail := 35, cqHead := 4, irq := true }

theorem witness_mailbox_pointers_move_forward :
    (read2.fnExists 2 = true) ∧
    (held2.alive = true ∧ (held2.mb 2).held = [note 3, note 48]) := by
  decide +kernel

def helloSlip : Slip := slip 1 1 5 [(8, 2, 0x300), (0xA, 2, 0x302), (0xC, 4, 99)]

theorem witness_hello_chooses_the_version :
    Claims.taken vm helloSlip 1 = true ∧ helloSlip.clean [(8, 2), (10, 2), (12, 4)] = true := by
  decide +kernel

def allocSlip : Slip := slip 1 2 5 [(8, 8, 0x200000), (0x10, 1, 3), (0x13, 1, 3)]

theorem witness_seg_alloc_installs_a_fresh_segment :
    Claims.accepted vm allocSlip 2 [(8, 8), (16, 1), (17, 1), (18, 1), (19, 1), (20, 4)] = true ∧ segAllocOk
      allocSlip = true := by
  decide +kernel

/-- Tenant 1 with a private segment 5, and with that segment shared to tenant 2 under key 9. -/
def owning : State := vm.setSeg 1 5 priv5
def sharing : State := { (sess vm 2).setSeg 1 5 shared5 with keys := [⟨9, 1, 5, 2, 1⟩], usedKeys := [9] }
def shareSlip : Slip := slip 1 4 5 [(0x10, 1, 5), (0x13, 1, 1), (0x14, 2, 2)]
def attachSlip (key : Nat) : Slip := slip 2 5 5 [(8, 4, key), (0xC, 2, 1), (0x10, 1, 7)]

theorem witness_shared_segments_need_their_key :
    (Claims.accepted owning shareSlip 4 [(16, 1), (19, 1), (20, 2)] = true ∧ shareSlip.f 16 1 < 16 ∧ shareSlip.f 19 1
      < 8 ∧ shareSlip.f 20 2 < 1024 ∧ owning.seg? shareSlip.t (shareSlip.f 16 1) = some priv5 ∧
      owning.usedKeys.length < 2 ^ 32) ∧
    (Claims.accepted sharing (attachSlip 9) 5 [(8, 4), (12, 2), (16, 1)] = true ∧ (attachSlip 9).f 16 1 < 16 ∧
      (attachSlip 9).f 12 2 < 1024 ∧ sharing.seg? (attachSlip 9).t ((attachSlip 9).f 16 1) = none) := by
  decide +kernel

/-- After a SEG_FREE of a shared segment every node is still to remove it; a list that was admitted; a range to be zeroed. -/
def removing : State := after (.segFree (freeSlip 1 0)) sharing
def holding : State := { owning with lists := [wl] }
def zeroes : ZeroRange := ⟨0x400000, 0x10000, true⟩
def zeroing : State := { vm with zeroing := [⟨0, 4096, false⟩, zeroes] }

theorem witness_freed_segments_are_removed_and_zeroed :
    (Claims.accepted owning (freeSlip 1 0) 3 [(16, 1)] = true ∧ (freeSlip 1 0).f 16 1 < 16 ∧ owning.seg? (freeSlip 1
      0).t ((freeSlip 1 0).f 16 1) = some priv5 ∧ owning.lists = []) ∧
    (Claims.accepted vm (freeSlip 1 0) 3 [(16, 1)] = true ∧ (freeSlip 1 0).f 16 1 < 16 ∧ vm.seg? (freeSlip 1 0).t
      ((freeSlip 1 0).f 16 1) = none) ∧
    (Claims.accepted holding (freeSlip 1 0) 3 [(16, 1)] = true ∧ (freeSlip 1 0).f 16 1 < 16 ∧ (holding.seg? (freeSlip
      1 0).t ((freeSlip 1 0).f 16 1)).isSome = true ∧ holding.hasAdmitted (freeSlip 1 0).t = true) ∧
    (removing.removalWaits 1 5 = some shared5) ∧
    (zeroing.alive = true ∧ (List.find? (fun z => z.removalDone && !zeroing.bankBusyIn z.base z.size) zeroing.zeroing
      = some zeroes)) := by
  decide +kernel

def submitSlip : Slip := slip 1 6 5 [(8, 8, ref5 32), (0x10, 1, 7)]
def cancelSlip : Slip := slip 1 7 5 [(8, 4, 77)]
/-- A list that was never admitted. -/
def waitingList : WorkList := { wl with state := .waiting, next := 1, units := 0, resume := 0, records := 0, admitted := 0,
                                        everAdmitted := false }

theorem witness_submit_queues_and_cancel_stops :
    (Claims.accepted vm submitSlip 6 [(8, 8), (16, 1)] = true) ∧
    (Claims.accepted vm cancelSlip 7 [(8, 4)] = true ∧ (∀ l ∈ vm.lists, ¬(l.tenant = cancelSlip.t ∧ l.tag =
      cancelSlip.f 8 4)) ∧ (∀ y ∈ vm.xfers, ¬(y.tenant = cancelSlip.t ∧ y.tag = cancelSlip.f 8 4))) ∧
    (Claims.accepted (ls waitingList) cancelSlip 7 [(8, 4)] = true ∧ (List.find? (fun y => decide (y.tenant =
      cancelSlip.t) && decide (y.tag = cancelSlip.f 8 4)) (ls waitingList).lists = some waitingList) ∧
      waitingList.state = ListState.waiting ∧ waitingList.cancelTags = [] ∧ ((ls waitingList).mb cancelSlip.t).live =
      [{ opcode := 6, tag := waitingList.tag, quiet := waitingList.quiet }]) := by
  decide +kernel

def transferSlip : Slip := slip 1 8 5 [(8, 8, 0x1234), (0x10, 8, ref5 0x800), (0x18, 8, 0x9000), (0x20, 1, 1)]

theorem witness_transfer_jobs_cover_every_granule :
    Claims.slipRow owning (Instr.transfer transferSlip [3, 5]) ≠ none ∧ Claims.accepted owning transferSlip 8 [(8,
      8), (16, 8), (24, 8), (32, 1)] = true ∧ (∀ l ∈ (owning.mb transferSlip.t).live, l.opcode = 6 ∨ l.opcode = 8 →
      l.tag ≠ transferSlip.tag) := by
  decide +kernel

def policySlip : Slip := slip 0 9 5 [(8, 2, 1), (0xA, 1, 5), (0xC, 4, 700)]
def floorplanSlip : Slip := slip 1 0xA 5 [(8, 8, 0x12345678)]
def timeSlip (t k : Nat) : Slip := slip t 0xD 5 [(8, 1, k), (0x10, 8, 0xABCDEF)]

theorem witness_policy_floorplan_and_timesync_answer :
    (Claims.accepted vm policySlip 9 [(8, 2), (10, 1), (12, 4)] = true) ∧
    (Claims.accepted vm floorplanSlip 10 [(8, 8)] = true) ∧
    (Claims.accepted vm (timeSlip 1 0) 13 [(8, 1), (16, 8)] = true ∧ (timeSlip 1 0).f 8 1 ≠ 1) ∧
    (Claims.accepted vm (timeSlip 0 1) 13 [(8, 1), (16, 8)] = true ∧ (timeSlip 0 1).f 8 1 = 1 ∧ (timeSlip 0 1).t = 0)
      := by
  decide +kernel

def countersSlip : Slip := slip 0 0xB 5 [(9, 1, 2), (0xA, 2, 23), (0x18, 8, 0x5000)]
def selectSlip : Slip := slip 0 0xB 5 [(8, 1, 1), (9, 1, 2), (0xA, 2, 23), (0xC, 1, 7), (0x10, 4, 0x2003)]

theorem witness_counters_are_read_and_selected :
    (Claims.accepted vm countersSlip 11 [(8, 1), (9, 1), (10, 2), (12, 1), (16, 4), (24, 8)] = true ∧ countersSlip.f
      8 1 = 0) ∧
    (Claims.accepted vm selectSlip 11 [(8, 1), (9, 1), (10, 2), (12, 1), (16, 4), (24, 8)] = true ∧ selectSlip.f 8 1
      = 1 ∧ selectSlip.t = 0 ∧ counterUnit vm.fuses (selectSlip.f 9 1) (selectSlip.f 10 2) = some 279 ∧ vm.mayApply
      279 = true ∧ vm.dieLost (unitDie 279) = false ∧ selectSlip.f 12 1 < unitCtrs 279 ∧ selectSlip.f 16 4 / 4096 =
      unitKind 279) ∧
    (7 < unitCtrs (ctrUnitNo (CtrUnit.port 23)) ∧ vm.unitAnswers (ctrUnitNo (CtrUnit.port 23)) = true) := by
  decide +kernel

/-- Trace of tower 1 with room, and with none; a flush of it once it has run, with room and with none. -/
def traceSlip (op mask cls : Nat) : Slip := slip 0 0xC 5 [(8, 1, op), (9, 1, mask), (0x10, 8, cls)]
def traced : State := ((vm.setF (.trcWr 1) 0 21 5).setF (.trcRd 1) 0 21 3).setF (.trcClass 1) 0 32 7
def fullRing : State := traced.setF (.trcRd 1) 0 21 6
def traceItem (c : Nat) : TraceBody := ⟨0x10, 3, BitVec.ofNat 4 c, 1, 5, 6⟩

theorem witness_trace_starts_stops_and_drops :
    (Claims.accepted traced (traceSlip 1 3 1023) 12 [(8, 1), (9, 1), (16, 8)] = true ∧ (traceSlip 1 3 1023).t = 0 ∧
      (traceSlip 1 3 1023).f 16 8 < 1024 ∧ (traceSlip 1 3 1023).f 8 1 = 1 ∧ traced.seg? 0 15 = none) ∧
    (Claims.accepted traced (traceSlip 0 3 0) 12 [(8, 1), (9, 1), (16, 8)] = true ∧ (traceSlip 0 3 0).t = 0 ∧
      (traceSlip 0 3 0).f 16 8 < 1024 ∧ (traceSlip 0 3 0).f 8 1 = 0) ∧
    (Claims.accepted vm (traceSlip 2 0 0) 12 [(8, 1), (9, 1), (16, 8)] = true ∧ (traceSlip 2 0 0).t = 0 ∧ (traceSlip
      2 0 0).f 16 8 < 1024 ∧ (traceSlip 2 0 0).f 8 1 = 2 ∧ (∀ w < 8, ¬(nbit ((traceSlip 2 0 0).f 9 1) w = true ∧
      (vm.dom w).state = DomState.on))) ∧
    ((traced.dom 1).state = DomState.on ∧ traced.regBit (Reg.trcClass 1) 2 = true ∧ (traced.regF (Reg.trcWr 1) 0 21 +
      1) % 2097152 ≠ traced.regF (Reg.trcRd 1) 0 21 ∧ traced.drops 1 = []) ∧
    (((traced.dom 1).state ≠ DomState.on ∨ traced.regBit (Reg.trcClass 1) 3 = false)) ∧
    ((fullRing.dom 1).state = DomState.on ∧ fullRing.regBit (Reg.trcClass 1) 2 = true ∧ (fullRing.regF (Reg.trcWr 1)
      0 21 + 1) % 2097152 = fullRing.regF (Reg.trcRd 1) 0 21 ∧ fullRing.drops 1 = []) := by
  decide +kernel

def waitgraphSlip : Slip := slip 1 0xE 5 [(8, 8, 0x9000), (0x10, 4, 4096)]

theorem witness_waitgraph_reports_and_breaks_cycles :
    Claims.accepted vm waitgraphSlip 14 [(8, 8), (16, 4)] = true := by
  decide +kernel

/-- What a step of bring-up found, and images of firmware. -/
def trained : PortTraining := ⟨true, 3, 1, 0, 0⟩
def links : LinkFindings := { retired := [(0, 1, 2)], hbmNoTrain := [(0, 1)], isolated := 0, ports := List.replicate 24 trained }
def memFound : MemFindings := { channels := [(0, 5, 0)], banks := [(5, 127, 0)], restarts := [(0, 2)] }
def selfFound : SelfFindings := { checkerChannels := [(0, 5)], checkerCores := [5], arrayCores := [1], chainCores := [63] }
def image : ImageFacts := ⟨true, true, 0, true, true, true, 5, 4096, 77⟩
/-- A bring-up with a step under way, with TEST set, before POWER, before FIRMWARE, and fired without a record. -/
def stepping (code : Nat) : State := { green 6 0 0 with bootRun := some ⟨7, 0, code, 0, true⟩, now := 1000000000 }
def silent : State := { green 6 0 0 with bootRun := some ⟨7, 0, 0, 0, false⟩, now := 1000000000 }
def recovering : State := { green 6 0 4608 with straps := 2 ^ 6 }
def leaving : State := up.setBwF BW.arg0 0 32 2
def testing : State := { green 1 0 0 with straps := 2 ^ 11 }
def cold : State := { green 2 0 0 with domains := (List.range 12).map fun d => (d, { state := if d < 8 then .off else .on }) }
def fired : State := { (green 7 0 0).setBwF BW.state 28 4 2 with alive := true }

theorem witness_boot_commands_follow_the_protocol :
    (Claims.bootRow Instr.towerOff = some 16 ∧ (green 3 2 0).bar0Up = true ∧ (green 3 2 0).bootRun = none ∧
      Claims.bootStarts (green 3 2 0) 16 = false) ∧
    (Claims.bootRow Instr.fuses = some 2 ∧ (green 1 1 0).bar0Up = true ∧ Claims.bootStarts (green 1 1 0) 2 = true) ∧
    (Claims.bootRow Instr.fuses = some 2 ∧ (stepping 0).bar0Up = true ∧ (stepping 0).bootRun ≠ none) := by
  decide +kernel

def stepped : BootRun := ⟨7, 0, 0, 0, true⟩
def unheard : BootRun := ⟨7, 0, 0, 0, false⟩

theorem witness_boot_steps_report_and_advance :
    ((stepping 0).bootRun = some stepped ∧ (stepped.ready = true ∨ stepped.cmd = 7 ∧ (stepping 0).now < stepped.since
      + 1000000000)) ∧
    (silent.bootRun = some unheard ∧ unheard.cmd = 7 ∧ unheard.ready = false ∧ unheard.since + 1000000000 ≤
      silent.now) := by
  decide +kernel

theorem witness_early_boot_steps_do_their_work :
    (Claims.bootStarts (green 1 0 0) 2 = true) ∧
    (Claims.bootStarts cold 3 = true ∧ cold.fired = false ∧ (∀ x < 4, diePresent cold.fuses (8 + x) = true →
      (cold.dom (8 + x)).state = DomState.on ∧ (cold.regF (Reg.vregCtl (8 + x)) 0 10 = 800 ∨ nbit 15 x = true)) ∧ (∀
      w < 8, cold.arg0 = 0 ∨ nbit cold.arg0 w = true → cold.canRamp w = true ∨ (cold.dom w).state = DomState.on)) ∧
    (Claims.bootStarts (green 4 0 0) 5 = true ∧ (∀ r ∈ memFound.restarts, r.2.toNat < 3)) ∧
    (Claims.bootStarts (green 5 0 0) 6 = true) := by
  decide +kernel

theorem witness_late_boot_steps_do_their_work :
    (Claims.bootStarts (green 3 0 0) 4 = true) ∧
    (Claims.bootStarts recovering 7 = true ∧ nbit recovering.straps 6 = true) ∧
    (Claims.bootStarts fired 8 = true ∧ fired.alive = true) ∧
    (Claims.bootStarts leaving 16 = true ∧ leaving.dieLost leaving.arg0 = false) := by
  decide +kernel

/-- Die `d` in a state, its regulator's enable bit set or not. -/
def dieIn (d : Nat) (x : DomState) (enable : Nat) (now : Nat) : State :=
  { (up.setDom d { state := x, after := .off, since := 3 }).setF (.vregCtl d) 31 1 enable with now := now }

theorem witness_domains_ramp_and_discharge :
    ((dieIn 8 DomState.latched 1 1000).running = true ∧ (dieIn 8 DomState.latched 1 1000).domPresent 8 = true ∧ nbit
      3221225472 30 = true ∧ nbit 3221225472 31 = (dieIn 8 DomState.latched 1 1000).regBit (Reg.vregCtl 8) 31) ∧
    ((dieIn 3 DomState.off 0 1000).running = true ∧ (dieIn 3 DomState.off 0 1000).domPresent 3 = true ∧ nbit
      2147483733 31 = true ∧ nbit 2147483733 30 = false ∧ (dieIn 3 DomState.off 0 1000).regBit (Reg.vregCtl 3) 31 =
      false) ∧
    ((dieIn 3 DomState.on 1 1000).running = true ∧ (dieIn 3 DomState.on 1 1000).domPresent 3 = true ∧ nbit 85 31 =
      false ∧ nbit 85 30 = false ∧ (dieIn 3 DomState.on 1 1000).regBit (Reg.vregCtl 3) 31 = true ∧ 3 < 8) ∧
    (((dieIn 3 DomState.ramp 1 1000).dom 3).state = DomState.ramp ∧ RampCause.short ≠ RampCause.ok) ∧
    (((dieIn 3 DomState.on 1 400003).dom 3).state = DomState.on ∧ ((dieIn 3 DomState.on 1 400003).dom 3).since +
      400000 ≤ (dieIn 3 DomState.on 1 400003).now) ∧
    (((dieIn 3 DomState.discharge 1 1000).dom 3).state = DomState.discharge) := by
  decide +kernel

/-- Die `d` after `k` of its phases have gone; a tower of a low supply; and a supply that alerts. -/
def phases (d k : Nat) : State := (List.range k).foldl (fun s n => s.setF (.vregPhasest d) (2 * (n + 1)) 2 1) (up.setF (.vregStat d) 20 4 k)
def under : State := { up with now := 200005 }.setDom 2 { state := .on, uvSince := some 5 }
def vin (alert : Bool) (back : Nat) : State := { up with vinAlert := alert, vinReturned := back, vinHighSince := 100, now := 200100 + 20000 * back }

theorem witness_phase_drops_and_undervoltage :
    (((phases 2 0).dom 2).state = DomState.on ∧ (phases 2 0).dieLost 2 = false ∧ (phases 2 0).regF (Reg.vregPhasest
      2) (2 * 0) 2 = 0) ∧
    (8 ≤ 15) ∧
    (((phases 11 3).dom (8 + 3)).state = DomState.on ∧ (phases 11 3).dieLost (8 + 3) = false ∧ 7 < 8 ∧ (phases 11
      3).regF (Reg.vregPhasest (8 + 3)) (2 * 7) 2 = 0) ∧
    ((up.dom 2).state = DomState.on ∧ (up.dom 2).uvSince = none) ∧
    ((under.dom 2).uvSince = some 5 ∧ (under.dom 2).state = DomState.on ∧ (under.dom 2).lost = false ∧ 5 + 200000 ≤
      under.now) := by
  decide +kernel

theorem witness_vin_alert_and_brownout :
    ((vin false 8).running = true ∧ (vin false 8).vinAlert = false) ∧
    ((vin true 0).vinAlert = true) ∧
    ((vin false 7).vinAlert = false ∧ (vin false 7).vinReturned < 8 ∧ (vin false 7).vinHighSince + 200000 + 20000 *
      (vin false 7).vinReturned ≤ (vin false 7).now) ∧
    ((vin false 8).running = true ∧ (vin false 8).brownedOut = false) := by
  decide +kernel

/-- Parts without VAUX, in reset with dies discharging, and with the package's thermal latch set. -/
def unpowered : State := { vm with vaux := false }
def heldInReset : State := { State.reset with domains := (List.range 12).map fun d => (d, { state := if d < 8 then .off else .discharge }) }

theorem witness_reset_keeps_what_vaux_keeps :
    (vm.running = true) ∧
    (vm.vaux = true) ∧
    (unpowered.vaux = false) ∧
    (heldInReset.vaux = true ∧ heldInReset.resetN = false ∧ heldInReset.inHardpan = false) := by
  decide +kernel

/-- Tower 3 measured; 32 conversions of which number 20 reads `x`; and thermal states of tower 2. -/
def rated : State := { up.setF (.vstat 3) 16 16 750 with now := 2000000000, tb := { count := 7 } }
def raws (x : Nat) : List (BitVec 16) := (List.range 32).map fun n => BitVec.ofNat 16 (if n = 20 then x else 50 * 128)
def measured : State := { rated with thermal := [(3, { windowMin := some 1100 })] }

theorem witness_step_rate_is_monitored :
    ((rated.dom (29 / 8)).state = DomState.on ∧ (rated.dom (29 / 8)).uvSince = none) ∧
    ((measured.therm 3).windowMin = some 1100 ∧ (measured.therm 3).windowStart + windowTicks (measured.regF
      (Reg.stepmon 3) 0 2) ≤ measured.now) := by
  decide +kernel

theorem witness_sensors_convert_fail_and_trip :
    ((rated.dom 2).state = DomState.on ∧ rated.running = true ∧ (raws 6000).length = 32 ∧ (∀ n < 32, rawOk (toSigned
      16 ((List.map BitVec.toNat (raws 6000)).getD n 0)) = true)) ∧
    ((rated.dom 2).state = DomState.on ∧ ((rated.therm 2).sensor 7).lastConv + 20000 ≤ rated.now ∧ (rated.dom
      2).since + 20000 ≤ rated.now ∧ ((rated.therm 2).sensor 7).failed = false) := by
  decide +kernel

def flagged : State := ({ rated with thermal := [(2, { dramHot := ⟨true, 5, some 0⟩, logicHot := ⟨true, 5, some 0⟩, rising := ⟨true, 5, some 0⟩ })] }).setReg (.thstat 2) 0xF0000001
def measure : RthMeasure := ⟨1000, 931, 900, 800, 400, 700, 600, 400⟩
def due : State := { rated with alive := true, now := 600 * 200000000 }

theorem witness_throttle_flags_coolant_and_resistance :
    ((rated.dom 2).state = DomState.on) ∧
    ((flagged.therm 2).dramHot.canClear flagged.now = true) ∧
    ((flagged.therm 2).logicHot.canClear flagged.now = true) ∧
    ((flagged.therm 2).rising.canClear flagged.now = true) ∧
    (rated.vaux = true) ∧
    (due.alive = true ∧ due.fired = true ∧ due.towerLive 2 = true ∧ 600 ≤ 1000 ∧ (due.therm 2).lastRth +
      due.rthInterval * 200000000 ≤ due.now) := by
  decide +kernel

/-- Tower 3 with a set-point, voltages and a power envelope. -/
def governed : State :=
  ((((rated.setF (.vstat 3) 16 16 750).setF (.vstat 3) 0 16 840).setF (.vregStat 3) 0 16 840).setF (.vgov 3) 0 16 800).setF (.env 3) 0 16 1000

theorem witness_governor_moves_the_set_point :
    (governed.dom 3).state = DomState.on ∧ governed.running = true ∧ 600 ≤ governed.regF (Reg.vstat 3) 16 16 := by
  decide +kernel

/-- A quantise window that is full, one that is not, and a published record behind the state. -/
def windowed (n : Nat) : State := ((rated.setF (.qsctl 5 8) 24 5 3).setReg (.qselem 5 8) (BitVec.ofNat 64 n)).setReg (.qswin 5 8) 3
def stale : State := { rated with published := true, fpDirty := true, coreState := [(4, 1), (5, 2)], fplan := wrBytes [] 4 [0xFE, 0xFF, 0xFF, 0xFF] }

theorem witness_quantise_counters_and_the_record :
    (2 ^ (windowed 8).regF (Reg.qsctl 5 8) 24 5 ≤ 8) ∧
    ((windowed 8).dieLost (5 / 8) = false ∧ nbit 1073741824 30 = true) ∧
    ((windowed 8).dieLost (5 / 8) = false ∧ nbit 32771 15 = true) ∧
    (stale.alive = true ∧ stale.published = true ∧ stale.fpDirty = true) := by
  decide +kernel

/-- The bytes of operations at issue: FENCE on core FFh (Table 11-4) with another core named, with a record, with fence. -/
def fenceB : List Byte := opb 0x10 0 0xFF 0 []
def fenceRecord : List Byte := opb 0x10 8 0xFF 5 []
def fenceCore : List Byte := opb 0x10 0 0xFE 0 []
def fenceFirst : List Byte := opb 0x10 4 0xFE 0 []
def unknownB : List Byte := fieldsOf 32 [(0, 1, 0x33)]
def copyB : List Byte := opb 8 0 3 0 [(8, 8, ref5 0x43), (0x10, 8, ref5 0x100), (0x18, 8, 70)]
/-- An operation under way, its list, and lists at their last units and stopping. -/
def started7 : Op := { offset := 7, bytes := opb 8 0 24 0 [], stage := .started }
def busyList : WorkList := wlOf [started7]
def lastUnit : WorkList := { wl with next := 19 }
def stoppingList : WorkList := { wl with state := .stopping }
/-- Memory of tenant 1's segment 5. -/
def filled (l : WorkList) : State := { ls l with mem := wrBytes [] 0x400040 (ramp 100 29) }

theorem witness_operations_are_checked_at_issue :
    (Claims.opRow (Instr.fence 4 (some fenceCore)) = some (4, some fenceCore, 16) ∧ vm.list? 4 = none) ∧
    (Claims.opRow (Instr.fence 4 (some fenceB)) = some (4, some fenceB, 16) ∧ (ls stoppingList).list? 4 = some
      stoppingList ∧ (ls stoppingList).canIssue stoppingList = false) ∧
    (Claims.opRow (Instr.copy 4 (some fenceB)) = some (4, some fenceB, 8) ∧ (ls wl).list? 4 = some wl ∧ (ls
      wl).canIssue wl = true ∧ ((ls wl).fetchOp wl (some fenceB)).acc = Acc.ok ∧ ((ls wl).fetchOp wl (some fenceB)).s
      = ls wl ∧ (Claims.newOp (ls wl) wl ((ls wl).fetchOp wl (some fenceB)).data).opcode ≠ 8 ∧ opUnits (Claims.newOp
      (ls wl) wl ((ls wl).fetchOp wl (some fenceB)).data).opcode ≠ 0) ∧
    (Claims.opRow (Instr.fence 4 (some fenceFirst)) = some (4, some fenceFirst, 16) ∧ (ls busyList).list? 4 = some
      busyList ∧ (ls busyList).canIssue busyList = true ∧ ((ls busyList).fetchOp busyList (some fenceFirst)).acc =
      Acc.ok ∧ ((ls busyList).fetchOp busyList (some fenceFirst)).s = ls busyList ∧ ((Claims.newOp (ls busyList)
      busyList ((ls busyList).fetchOp busyList (some fenceFirst)).data).opcode = 16 ∨ opUnits (Claims.newOp (ls
      busyList) busyList ((ls busyList).fetchOp busyList (some fenceFirst)).data).opcode = 0) ∧ (Claims.newOp (ls
      busyList) busyList ((ls busyList).fetchOp busyList (some fenceFirst)).data).fenceBefore = true ∧ busyList.ops ≠
      []) ∧
    (Claims.opRow (Instr.copy 4 (some copyB)) = some (4, some copyB, 8) ∧ (ls lastUnit).list? 4 = some lastUnit ∧ (ls
      lastUnit).canIssue lastUnit = true ∧ ((ls lastUnit).fetchOp lastUnit (some copyB)).acc = Acc.ok ∧ ((ls
      lastUnit).fetchOp lastUnit (some copyB)).s = ls lastUnit ∧ ((Claims.newOp (ls lastUnit) lastUnit ((ls
      lastUnit).fetchOp lastUnit (some copyB)).data).opcode = 8 ∨ opUnits (Claims.newOp (ls lastUnit) lastUnit ((ls
      lastUnit).fetchOp lastUnit (some copyB)).data).opcode = 0) ∧ ((Claims.newOp (ls lastUnit) lastUnit ((ls
      lastUnit).fetchOp lastUnit (some copyB)).data).fenceBefore = false ∨ lastUnit.ops = []) ∧ lastUnit.op?
      lastUnit.next = none ∧ lastUnit.units < lastUnit.next + max 1 (opUnits (Claims.newOp (ls lastUnit) lastUnit
      ((ls lastUnit).fetchOp lastUnit (some copyB)).data).opcode)) ∧
    (Claims.opRow (Instr.copy 4 (some unknownB)) = some (4, some unknownB, 8) ∧ (ls wl).list? 4 = some wl ∧ (ls
      wl).canIssue wl = true ∧ ((ls wl).fetchOp wl (some unknownB)).acc = Acc.ok ∧ ((ls wl).fetchOp wl (some
      unknownB)).s = ls wl ∧ ((Claims.newOp (ls wl) wl ((ls wl).fetchOp wl (some unknownB)).data).opcode = 8 ∨
      opUnits (Claims.newOp (ls wl) wl ((ls wl).fetchOp wl (some unknownB)).data).opcode = 0) ∧ ((Claims.newOp (ls
      wl) wl ((ls wl).fetchOp wl (some unknownB)).data).fenceBefore = false ∨ wl.ops = []) ∧ wl.op? wl.next = none ∧
      wl.next + max 1 (opUnits (Claims.newOp (ls wl) wl ((ls wl).fetchOp wl (some unknownB)).data).opcode) ≤ wl.units
      ∧ wordCheck ((ls wl).fetchOp wl (some unknownB)).data = some 0) ∧
    (Claims.opRow (Instr.fence 4 (some fenceCore)) = some (4, some fenceCore, 16) ∧ (ls wl).list? 4 = some wl ∧ (ls
      wl).canIssue wl = true ∧ ((ls wl).fetchOp wl (some fenceCore)).acc = Acc.ok ∧ ((ls wl).fetchOp wl (some
      fenceCore)).s = ls wl ∧ ((Claims.newOp (ls wl) wl ((ls wl).fetchOp wl (some fenceCore)).data).opcode = 16 ∨
      opUnits (Claims.newOp (ls wl) wl ((ls wl).fetchOp wl (some fenceCore)).data).opcode = 0) ∧ ((Claims.newOp (ls
      wl) wl ((ls wl).fetchOp wl (some fenceCore)).data).fenceBefore = false ∨ wl.ops = []) ∧ wl.op? wl.next = none ∧
      wl.next + max 1 (opUnits (Claims.newOp (ls wl) wl ((ls wl).fetchOp wl (some fenceCore)).data).opcode) ≤
      wl.units ∧ wordCheck ((ls wl).fetchOp wl (some fenceCore)).data = none ∧ (ls wl).coreCheck wl (Claims.newOp (ls
      wl) wl ((ls wl).fetchOp wl (some fenceCore)).data) ≠ none) := by
  and_intros <;> decide +kernel

/-- SIGNAL, WAIT, END, LAUNCH_AT and BANK_FENCE, and waits and launches under way. -/
def signalB : List Byte := opb 0x11 0 0xFF 5 [(8, 8, ref5 0x40), (0x10, 8, 2 ^ 64 - 3)]
def waitB (v : Nat) : List Byte := opb 0x12 0 0xFF 5 [(8, 8, ref5 0x40), (0x10, 8, v)]
def endB : List Byte := opb 0x1F 0 0xFF 5 []
def launchB : List Byte := opb 0x15 0 0xFF 5 [(8, 8, 500)]
def bankFenceB : List Byte := opb 0x0A 0 0xFF 5 [(8, 8, 8)]
def waitOp (polled timeout : Nat) : Op :=
  { offset := 3, bytes := opb 0x12 0 0xFF 5 [(8, 8, ref5 0x40), (0x10, 8, 8), (0x18, 4, timeout)], stage := .started,
    lastPoll := polled, issuedAt := 800 }
def launchOp (at_ : Nat) : Op := { offset := 3, bytes := opb 0x15 0 0xFF 5 [(8, 8, at_)], stage := .started }
def waits (o : Op) : State := filled (wlOf [o])

theorem witness_synchronisation_operations_run :
    (Claims.passes (ls wl) 4 (some fenceRecord) 16 Claims.noRules wl (nextOp (ls wl) fenceRecord) ∧ (nextOp (ls wl)
      fenceRecord).wantsRecord = true ∧ (ls wl).recordPlace (Claims.listWith wl (nextOp (ls wl) fenceRecord)) (nextOp
      (ls wl) fenceRecord) = some (Place.dev 5244800 seg5) ∧ Claims.sound (ls wl) 5244800 1 = true ∧ Claims.quiet (ls
      wl) = true) ∧
    (Claims.passes (ls wl) 4 (some fenceB) 16 Claims.noRules wl (nextOp (ls wl) fenceB)) ∧
    (Claims.passes (filled wl) 4 (some signalB) 17 Claims.signalRules wl (nextOp (filled wl) signalB)) ∧
    (Claims.passes (ls wl) 4 (some endB) 31 Claims.noRules wl (nextOp (ls wl) endB)) ∧
    (Claims.passes (ls wl) 4 (some launchB) 21 Claims.noRules wl (nextOp (ls wl) launchB)) ∧
    (Claims.passes (ls wl) 4 (some bankFenceB) 10 Claims.bankFenceRules wl (nextOp (ls wl) bankFenceB)) ∧
    ((Claims.passes (filled wl) 4 (some (waitB 7)) 18 (fun s l o => semRules s l (o.f 8 8) false) wl (nextOp (filled
      wl) (waitB 7))) ∧ (Claims.issued (filled wl) wl (nextOp (filled wl) (waitB 7))).resolve wl.tenant ((nextOp
      (filled wl) (waitB 7)).f 8 8) (plain 8) (rRead + rWrite) = some (Place.dev 4194368 seg5) ∧ Claims.sound
      (Claims.issued (filled wl) wl (nextOp (filled wl) (waitB 7))) 4194368 8 = true) ∧
    ((waits (waitOp 936 200)).startedOp 4 18 = some (wlOf [waitOp 936 200], waitOp 936 200) ∧ (waits (waitOp 936
      200)).list? 4 = some (wlOf [waitOp 936 200]) ∧ (wlOf [waitOp 936 200]).op? (waitOp 936 200).offset = some
      (waitOp 936 200) ∧ (waitOp 936 200).lastPoll + 64 ≤ (waits (waitOp 936 200)).now ∧ (waits (waitOp 936
      200)).towerRuns (wlOf [waitOp 936 200]).home = true ∧ (waits (waitOp 936 200)).resolve (wlOf [waitOp 936
      200]).tenant ((waitOp 936 200).f 8 8) (plain 8) (rRead + rWrite) = some (Place.dev 4194368 seg5) ∧ Claims.sound
      (waits (waitOp 936 200)) 4194368 8 = true) ∧
    ((waits (waitOp 936 200)).startedOp 4 18 = some (wlOf [waitOp 936 200], waitOp 936 200) ∧ (waits (waitOp 936
      200)).list? 4 = some (wlOf [waitOp 936 200]) ∧ (wlOf [waitOp 936 200]).op? (waitOp 936 200).offset = some
      (waitOp 936 200) ∧ (waitOp 936 200).f 24 4 ≠ 0 ∧ (waitOp 936 200).issuedAt + (waitOp 936 200).f 24 4 ≤ (waits
      (waitOp 936 200)).now) ∧
    ((waits (waitOp 937 201)).startedOp 4 18 = some (wlOf [waitOp 937 201], waitOp 937 201) ∧ (waits (waitOp 937
      201)).list? 4 = some (wlOf [waitOp 937 201]) ∧ (wlOf [waitOp 937 201]).op? (waitOp 937 201).offset = some
      (waitOp 937 201) ∧ (waits (waitOp 937 201)).now < (waitOp 937 201).lastPoll + 64) ∧
    ((waits (waitOp 937 201)).startedOp 4 18 = some (wlOf [waitOp 937 201], waitOp 937 201) ∧ (waits (waitOp 937
      201)).list? 4 = some (wlOf [waitOp 937 201]) ∧ (wlOf [waitOp 937 201]).op? (waitOp 937 201).offset = some
      (waitOp 937 201) ∧ ((waitOp 937 201).f 24 4 = 0 ∨ (waits (waitOp 937 201)).now < (waitOp 937 201).issuedAt +
      (waitOp 937 201).f 24 4)) ∧
    ((waits (launchOp 500)).startedOp 4 21 = some (wlOf [launchOp 500], launchOp 500) ∧ (waits (launchOp 500)).list?
      4 = some (wlOf [launchOp 500]) ∧ (wlOf [launchOp 500]).op? (launchOp 500).offset = some (launchOp 500) ∧
      (launchOp 500).f 8 8 ≤ (waits (launchOp 500)).tb.count) ∧
    ((waits (launchOp 501)).startedOp 4 21 = some (wlOf [launchOp 501], launchOp 501) ∧ (waits (launchOp 501)).list?
      4 = some (wlOf [launchOp 501]) ∧ (wlOf [launchOp 501]).op? (launchOp 501).offset = some (launchOp 501) ∧ (waits
      (launchOp 501)).tb.count < (launchOp 501).f 8 8) := by
  and_intros <;> decide +kernel

/-- A finished END, and one whose list is preempted. -/
def ended : Op := { offset := 19, bytes := opb 0x1F 0 0xFF 5 [], stage := .finished, status := 0, steps := 5 }
def endedList : WorkList := { wlOf [ended] with next := 20, endIssued := true }
def preemptedList : WorkList := { wlOf [ended] with state := .preempted }

theorem witness_operations_complete_in_their_list :
    (Claims.noBankAttend (ls endedList) ∧ (ls endedList).list? 4 = some endedList ∧ endedList.op? 19 = some ended ∧
      ended.stage = OpStage.finished ∧ endedList.state ≠ ListState.preempted) ∧
    (Claims.noBankAttend (ls preemptedList) ∧ (ls preemptedList).list? 4 = some preemptedList ∧ preemptedList.op? 19
      = some ended ∧ (ended.stage ≠ OpStage.finished ∨ preemptedList.state = ListState.preempted)) := by
  unfold Claims.noBankAttend; decide +kernel

/-- MATMUL and VCHAIN under way, and lists that run, stop and resume with them. -/
def matmulOp (st : OpStage) : Op := { offset := 3, bytes := opb 1 2 3 0 [], stage := st, tile := 2, sub := 1, steps := 3, digest := 9 }
def vchainOp (st : OpStage) : Op := { offset := 7, bytes := opb 2 2 4 0 [], stage := st, tile := 2, sub := 1, steps := 3, digest := 9 }
def twoOps (st : ListState) (a b : OpStage) : WorkList := { wlOf [matmulOp a, vchainOp b] with state := st }
def working (l : WorkList) : State :=
  { ls l with cores := [(3, { arrayQ := [(4, 3), (2, 3)], tenant := some 1 }),
                        (4, { chainQ := [{ list := 4, op := 7, row0 := 0, col0 := 0, rows := 4, cols := 4, fused := false }] })] }
def fixedList : WorkList := { wl with resume := 0 }
def emptyStopping : WorkList := { wl with state := .stopping }
def towerGone : State := lose (working (twoOps .resuming .stopped .stopped)) [0]

theorem witness_lists_stop_and_resume :
    ((ls fixedList).list? 4 = some fixedList ∧ fixedList.preemptible = true) ∧
    ((ls fixedList).list? 4 = some fixedList ∧ (fixedList.state ≠ ListState.stopping ∨ fixedList.stopped = false)) ∧
    ((ls fixedList).list? 4 = some fixedList ∧ fixedList.state ≠ ListState.resuming) ∧
    ((working (twoOps ListState.running OpStage.started OpStage.queued)).list? 4 = some (twoOps ListState.running
      OpStage.started OpStage.queued) ∧ (twoOps ListState.running OpStage.started OpStage.queued).op? 3 = some
      (matmulOp OpStage.started) ∧ ((twoOps ListState.running OpStage.started OpStage.queued).state ≠
      ListState.stopping ∨ (matmulOp OpStage.started).stage ≠ OpStage.started ∨ (matmulOp OpStage.started).resumable
      = false ∨ (working (twoOps ListState.running OpStage.started OpStage.queued)).atBoundary 4 3 = false) ∧
      (matmulOp OpStage.started).stage ≠ OpStage.stopped) ∧
    ((working (twoOps ListState.stopping OpStage.started OpStage.queued)).list? 4 = some (twoOps ListState.stopping
      OpStage.started OpStage.queued) ∧ (twoOps ListState.stopping OpStage.started OpStage.queued).op? 3 = some
      (matmulOp OpStage.started) ∧ (twoOps ListState.stopping OpStage.started OpStage.queued).state =
      ListState.stopping ∧ (matmulOp OpStage.started).stage = OpStage.started ∧ (matmulOp OpStage.started).resumable
      = true ∧ (working (twoOps ListState.stopping OpStage.started OpStage.queued)).atBoundary 4 3 = true) ∧
    ((ls emptyStopping).list? 4 = some emptyStopping ∧ emptyStopping.state = ListState.stopping ∧
      emptyStopping.stopped = true ∧ emptyStopping.failed = none ∧ emptyStopping.stopStatus = none ∧
      emptyStopping.ops.length ≤ 32 ∧ (ls emptyStopping).resolve emptyStopping.tenant emptyStopping.resume
      Claims.resumeArea (rRead + rWrite) = some (Place.dev 12582912 seg5) ∧ 12582912 + 65536 + 8 * imageBytes ≤ 2 ^
      48 ∧ 12582912 % 64 = 0 ∧ Claims.sound (ls emptyStopping) 12582912 18496 = true ∧ Claims.quiet (ls
      emptyStopping) = true) ∧
    (towerGone.list? 4 = some (twoOps ListState.resuming OpStage.stopped OpStage.stopped) ∧ (twoOps
      ListState.resuming OpStage.stopped OpStage.stopped).preemptible = false) ∧
    (towerGone.list? 4 = some (twoOps ListState.resuming OpStage.stopped OpStage.stopped) ∧ (twoOps
      ListState.resuming OpStage.stopped OpStage.stopped).state = ListState.resuming ∧ (towerGone.dieLost (twoOps
      ListState.resuming OpStage.stopped OpStage.stopped).home = true ∨ ∃ c ∈ (twoOps ListState.resuming
      OpStage.stopped OpStage.stopped).imageCores, towerGone.coreEnabled ((twoOps ListState.resuming OpStage.stopped
      OpStage.stopped).home * 8 + c) = false) ∧ (twoOps ListState.resuming OpStage.stopped OpStage.stopped).failed =
      none ∧ (twoOps ListState.resuming OpStage.stopped OpStage.stopped).stopStatus = none) ∧
    ((working (twoOps ListState.resuming OpStage.stopped OpStage.stopped)).list? 4 = some (twoOps ListState.resuming
      OpStage.stopped OpStage.stopped) ∧ (twoOps ListState.resuming OpStage.stopped OpStage.stopped).state =
      ListState.resuming ∧ (working (twoOps ListState.resuming OpStage.stopped OpStage.stopped)).dieLost (twoOps
      ListState.resuming OpStage.stopped OpStage.stopped).home = false ∧ (∀ c ∈ (twoOps ListState.resuming
      OpStage.stopped OpStage.stopped).imageCores, (working (twoOps ListState.resuming OpStage.stopped
      OpStage.stopped)).coreEnabled ((twoOps ListState.resuming OpStage.stopped OpStage.stopped).home * 8 + c) =
      true) ∧ (twoOps ListState.resuming OpStage.stopped OpStage.stopped).failed = none ∧ (twoOps ListState.resuming
      OpStage.stopped OpStage.stopped).stopStatus = none ∧ (twoOps ListState.resuming OpStage.stopped
      OpStage.stopped).ops.length ≤ 32 ∧ (∀ o ∈ (twoOps ListState.resuming OpStage.stopped OpStage.stopped).ops,
      o.opcode = 1 ∨ o.opcode = 2) ∧ (working (twoOps ListState.resuming OpStage.stopped OpStage.stopped)).resolve
      (twoOps ListState.resuming OpStage.stopped OpStage.stopped).tenant (twoOps ListState.resuming OpStage.stopped
      OpStage.stopped).resume Claims.resumeArea (rRead + rWrite) = some (Place.dev 12582912 seg5) ∧ 12582912 + 65536
      + 8 * imageBytes ≤ 2 ^ 48 ∧ 12582912 % 64 = 0 ∧ Claims.sound (working (twoOps ListState.resuming
      OpStage.stopped OpStage.stopped)) 12582912 18496 = true) := by
  decide +kernel

/-- MATMULs: 3 × 130 by 130 × 5 in quadrant 0, unbound and bound to a chain, and 2 × 300 by 300 × 3 on the whole array. -/
def matmulF (mode zp bind m k n : Nat) (acts : Nat) : List (Nat × Nat × Nat) :=
  [(8, 8, acts), (0x18, 8, ref3 0), (0x20, 8, ref2 0x100), (0x28, 8, bind), (0x38, 4, m), (0x3C, 4, k), (0x40, 4, n), (0x44, 1, mode),
   (0x46, 1, zp)]
def quadB : List Byte := opb 1 0 3 0 (matmulF 9 3 0 3 130 5 (ref3 0x10000))
def wholeB : List Byte := opb 1 0 3 0 (matmulF 8 0 0 2 300 3 (ref6 0))
def vchainB : List Byte := opb 2 0 3 0 [(8, 8, ref3 0), (0x18, 4, 3), (0x1C, 4, 5), (0x20, 1, 5), (0x40, 8, ref5 0x80), (0x60, 8, ref3 0x30000), (0x78, 1, 5)]
/-- A VCHAIN from the bed to the bed. -/
def bedChainB : List Byte := opb 2 0 3 0 [(8, 8, ref6 0), (0x18, 4, 3), (0x1C, 4, 5), (0x20, 1, 5), (0x40, 8, ref5 0x80), (0x60, 8, ref6 0x30000), (0x78, 1, 5)]
/-- A MATMUL with these bytes waits in the array of core 3. -/
def arrayed (bs : List Byte) : State :=
  { ls { wlOf [{ offset := 3, bytes := bs, status := 0xFF }] with next := 6 } with
    cores := [(3, { arrayQ := [(4, 3)], tenant := some 1 })], mem := wrBytes [] (bedBase 3) (ramp 60 29) }
def opOf (s : State) : Op := (s.op? 4 3).getD started7
def listOf (s : State) : WorkList := (s.list? 4).getD wl
def setOf (s : State) : WRead :=
  ((s.startOp 4 (opOf s).offset).readSet (listOf s) (opOf s) (opOf s).tile).getD ⟨s, .ok, ⟨0, 0, 0, [], []⟩⟩
theorem set_read {s : State} (h : ((s.startOp 4 (opOf s).offset).readSet (listOf s) (opOf s) (opOf s).tile).isSome = true) :
    (s.startOp 4 (opOf s).offset).readSet (listOf s) (opOf s) (opOf s).tile = some (setOf s) := by
  unfold setOf
  revert h
  cases (s.startOp 4 (opOf s).offset).readSet (listOf s) (opOf s) (opOf s).tile <;> simp
/-- A weight set loaded, ready to be swapped in. -/
def loaded : State :=
  { arrayed quadB with cores := [(3, { arrayQ := [(4, 3)], shadow := [(0, ⟨4, 3, 0, [(0, 5)], []⟩)], tenant := some 1 })] }
def shadowOf (s : State) : WSet := ((s.coreUnit 3).shadow.map (·.2)).headD ⟨0, 0, 0, [], []⟩
/-- A core whose chain works for another list. -/
def otherJob : ChainJob := { list := 9, op := 9, row0 := 0, col0 := 0, rows := 1, cols := 1, fused := false }
/-- VCHAINs in the chain of core 3: with a segment that is gone, and with an input that its bed has lost. -/
def chained : State := after (.vchain 4 (some vchainB)) (ls wl)
def cut : State := let t := after (.vchain 4 (some bedChainB)) (ls wl); { t with segs := t.segs.filter fun e => e.1 ≠ 22 }
def dead : State := { after (.vchain 4 (some bedChainB)) (ls wl) with coreState := [(3, 2)] }
def jobOf (s : State) : ChainJob := (s.nextJobOf 3).getD otherJob
def chainOp (s : State) : Op := (s.op? 4 1).getD started7
def ioOf (s : State) : Option JobIo := (s.startOp 4 1).vchainIo (listOf s) (chainOp s)
def ioIn (s : State) : JobIo := (ioOf s).getD ⟨⟨[]⟩, [], .acc 0, 0, 0, none, 0, 0, .acc 0, 0, 0, 0, 0, none⟩
def sampleB : List Byte := opb 0x14 0 3 0 [(8, 8, ref3 0), (0x10, 8, ref3 0x100), (0x18, 4, 2), (0x1C, 4, 3), (0x20, 4, 5), (0x28, 8, 2 ^ 64 - 1)]
/-- A SAMPLE whose turn in the chain has come. -/
def sampling : State :=
  { ls (wlOf [{ offset := 3, bytes := sampleB, status := 0xFF }]) with cores := [(3, { chainQ := [{ otherJob with list := 4, op := 3 }] })] }

theorem witness_array_and_chain_work :
    (Claims.passes (ls wl) 4 (some quadB) 1 matmulRules wl (nextOp (ls wl) quadB)) ∧
    (Claims.passes (ls wl) 4 (some vchainB) 2 vchainRules wl (nextOp (ls wl) vchainB)) ∧
    ((arrayed quadB).towerRuns (3 / 8) = true ∧ ((List.any ((arrayed quadB).coreUnit 3).shadow fun x => decide (x.1 =
      0)) = false) ∧ (arrayed quadB).mmNow 3 (some 0) = some (4, opOf (arrayed quadB)) ∧ (arrayed quadB).list? 4 =
      some (listOf (arrayed quadB)) ∧ ((arrayed quadB).startOp 4 (opOf (arrayed quadB)).offset).readSet (listOf
      (arrayed quadB)) (opOf (arrayed quadB)) (opOf (arrayed quadB)).tile = some (setOf (arrayed quadB)) ∧ (setOf
      (arrayed quadB)).acc = Acc.ok) ∧
    ((loaded.towerRuns (3 / 8) = false ∨ (List.any (loaded.coreUnit 3).shadow fun x => decide (x.1 = 0)) = true ∨
      loaded.mmNow 3 (some 0) = none)) ∧
    ((List.find? (fun x => decide (x.1 = 0)) (loaded.coreUnit 3).shadow = some (0, shadowOf loaded)) ∧ loaded.list?
      (shadowOf loaded).list = some (listOf loaded) ∧ loaded.op? (shadowOf loaded).list (shadowOf loaded).op = some
      (opOf loaded) ∧ loaded.towerRuns (3 / 8) = true ∧ loaded.clearAhead (opOf loaded) (shadowOf loaded).tile = true
      ∧ (opOf loaded).core = 3 ∧ (shadowOf loaded).tile = (opOf loaded).tile ∧ Claims.mmSound loaded (listOf loaded)
      (opOf loaded)) ∧
    ((List.find? (fun x => decide (x.1 = 0)) ((lose loaded [0]).coreUnit 3).shadow = some (0, shadowOf loaded)) ∧
      (lose loaded [0]).list? (shadowOf loaded).list = some (listOf loaded) ∧ (lose loaded [0]).op? (shadowOf
      loaded).list (shadowOf loaded).op = some (opOf loaded) ∧ ((lose loaded [0]).towerRuns (3 / 8) = false ∨ (lose
      loaded [0]).clearAhead (opOf loaded) (shadowOf loaded).tile = false)) ∧
    ((List.find? (fun x => decide (x.1 = 0)) ((arrayed quadB).coreUnit 3).shadow = none)) ∧
    ((arrayed wholeB).mmNow 3 none = some (4, opOf (arrayed wholeB)) ∧ (arrayed wholeB).list? 4 = some (listOf
      (arrayed wholeB)) ∧ (arrayed wholeB).towerRuns (3 / 8) = true ∧ (arrayed wholeB).clearAhead (opOf (arrayed
      wholeB)) (opOf (arrayed wholeB)).tile = true ∧ (opOf (arrayed wholeB)).core = 3 ∧ Claims.mmSound (arrayed
      wholeB) (listOf (arrayed wholeB)) (opOf (arrayed wholeB)) ∧ ((arrayed wholeB).startOp 4 (opOf (arrayed
      wholeB)).offset).readSet (listOf (arrayed wholeB)) (opOf (arrayed wholeB)) (opOf (arrayed wholeB)).tile = some
      (setOf (arrayed wholeB)) ∧ (setOf (arrayed wholeB)).acc = Acc.ok) ∧
    ((lose (arrayed wholeB) [0]).mmNow 3 none = some (4, opOf (arrayed wholeB)) ∧ (lose (arrayed wholeB) [0]).list? 4
      = some (listOf (arrayed wholeB)) ∧ ((lose (arrayed wholeB) [0]).towerRuns (3 / 8) = false ∨ (lose (arrayed
      wholeB) [0]).clearAhead (opOf (arrayed wholeB)) (opOf (arrayed wholeB)).tile = false)) ∧
    ((vm.towerRuns (3 / 8) = false ∨ vm.nextJobOf 3 = none)) ∧
    (sampling.towerRuns (3 / 8) = true ∧ sampling.nextJobOf 3 = some (jobOf sampling) ∧ sampling.list? (jobOf
      sampling).list = some (listOf sampling) ∧ sampling.op? (jobOf sampling).list (jobOf sampling).op = some (opOf
      sampling) ∧ (opOf sampling).stage ≠ OpStage.finished ∧ internalOp (opOf sampling).opcode = true ∧
      sampling.arrayTurn (listOf sampling) (opOf sampling) = true) ∧
    (cut.towerRuns (3 / 8) = true ∧ cut.nextJobOf 3 = some (jobOf cut) ∧ cut.list? (jobOf cut).list = some (listOf
      cut) ∧ cut.op? (jobOf cut).list (jobOf cut).op = some (chainOp cut) ∧ (chainOp cut).stage ≠ OpStage.finished ∧
      internalOp (chainOp cut).opcode = false ∧ (if (jobOf cut).fused = true then (cut.startOp (jobOf cut).list
      (jobOf cut).op).fusedIo (listOf cut) (chainOp cut) (jobOf cut) else (cut.startOp (jobOf cut).list (jobOf
      cut).op).vchainIo (listOf cut) (chainOp cut)) = none) ∧
    (dead.towerRuns (3 / 8) = true ∧ dead.nextJobOf 3 = some (jobOf dead) ∧ dead.list? (jobOf dead).list = some
      (listOf dead) ∧ dead.op? (jobOf dead).list (jobOf dead).op = some (chainOp dead) ∧ (chainOp dead).stage ≠
      OpStage.finished ∧ internalOp (chainOp dead).opcode = false ∧ (if (jobOf dead).fused = true then (dead.startOp
      (jobOf dead).list (jobOf dead).op).fusedIo (listOf dead) (chainOp dead) (jobOf dead) else (dead.startOp (jobOf
      dead).list (jobOf dead).op).vchainIo (listOf dead) (chainOp dead)) = some (ioIn dead) ∧ (Claims.beatOf dead 3
      (listOf dead) (chainOp dead) (jobOf dead) (ioIn dead)).acc ≠ Acc.ok) ∧
    (chained.towerRuns (3 / 8) = true ∧ chained.nextJobOf 3 = some (jobOf chained) ∧ chained.list? (jobOf
      chained).list = some (listOf chained) ∧ chained.op? (jobOf chained).list (jobOf chained).op = some (chainOp
      chained) ∧ (chainOp chained).stage ≠ OpStage.finished ∧ internalOp (chainOp chained).opcode = false ∧ (if
      (jobOf chained).fused = true then (chained.startOp (jobOf chained).list (jobOf chained).op).fusedIo (listOf
      chained) (chainOp chained) (jobOf chained) else (chained.startOp (jobOf chained).list (jobOf
      chained).op).vchainIo (listOf chained) (chainOp chained)) = some (ioIn chained) ∧ (Claims.beatOf chained 3
      (listOf chained) (chainOp chained) (jobOf chained) (ioIn chained)).acc = Acc.ok) :=
  ⟨by unfold Claims.passes; decide +kernel,
   by unfold Claims.passes; decide +kernel,
   ⟨by decide +kernel, by decide +kernel, by decide +kernel, by decide +kernel, set_read (by decide +kernel), by decide +kernel⟩,
   by decide +kernel,
   by unfold Claims.mmSound; decide +kernel,
   by decide +kernel,
   by decide +kernel,
   ⟨by decide +kernel, by decide +kernel, by decide +kernel, by decide +kernel, by decide +kernel,
     by unfold Claims.mmSound; decide +kernel, set_read (by decide +kernel), by decide +kernel⟩,
   by decide +kernel,
   by decide +kernel,
   by decide +kernel,
   by decide +kernel,
   by decide +kernel,
   by decide +kernel⟩

/-- GATHER, DIGEST and SAMPLE, and KV_APPEND, KV_SCATTER and MERGE. -/
def gatherB : List Byte := opb 9 0 3 0 [(8, 8, ref5 0), (0x10, 8, ref5 0x200), (0x18, 8, ref3 0x100), (0x20, 4, 3), (0x24, 4, 10), (0x28, 4, 13), (0x2C, 4, 16)]
def digestB : List Byte := opb 0x13 0 3 0 [(8, 8, ref5 0x43), (0x10, 8, 70)]

theorem witness_the_data_mover_moves :
    (Claims.passes (filled wl) 4 (some copyB) 8 copyRules wl (nextOp (filled wl) copyB)) ∧
    (Claims.passes (filled wl) 4 (some gatherB) 9 gatherRules wl (nextOp (filled wl) gatherB)) ∧
    (Claims.passes (filled wl) 4 (some digestB) 19 digestRules wl (nextOp (filled wl) digestB)) ∧
    (Claims.passes (filled wl) 4 (some sampleB) 20 sampleRules wl (nextOp (filled wl) sampleB)) := by
  unfold Claims.passes; decide +kernel

/-- A context map in memory, and operations on it. -/
def mapB : List Byte := fieldsOf 68 [(0, 2, 32), (2, 1, 3), (3, 1, 1), (4, 2, 2), (6, 1, 2), (0xC, 4, 2), (0x20, 8, 3), (0x40, 4, 3 + 6 * 256)]
def entryB (n : Nat) : List Byte := fieldsOf 64 [(0, 4, n), (8, 4, 1), (0x18, 8, ref5 0x1000), (0x20, 8, ref3 0), (0x28, 8, ref5 0x8000)]
def descB : List Byte := fieldsOf 64 [(16, 8, 0x3100500000000000), (40, 8, 0x3000700000000000)]
def mapped (n : Nat) : State :=
  { ls wl with mem := wrBytes (wrBytes (wrBytes [] 0x401000 mapB) 0x402000 (entryB n)) 0x407000 descB }
def appendB : List Byte := opb 4 0 3 0 [(8, 8, ref5 0x1000), (0x10, 8, ref3 0), (0x18, 8, ref3 0x200), (0x20, 8, ref3 0x1000), (0x28, 4, 1)]
def scatterB : List Byte := opb 5 0 3 0 [(8, 8, ref5 0x1000), (0x10, 8, ref3 0), (0x18, 8, ref5 0x2000), (0x20, 4, 2), (0x24, 2, 1)]
def mergeB : List Byte := opb 7 0 3 0 [(8, 8, ref5 0x3000), (0x10, 8, ref5 0x5000), (0x18, 2, 2), (0x1A, 1, 1), (0x1C, 2, 32), (0x20, 4, 1024)]

theorem witness_the_cache_is_written_and_merged :
    (Claims.passes (mapped 0) 4 (some appendB) 4 kvAppendRules wl (nextOp (mapped 0) appendB)) ∧
    (Claims.passes (mapped 0) 4 (some scatterB) 5 kvScatterRules wl (nextOp (mapped 0) scatterB)) ∧
    (Claims.passes (mapped 0) 4 (some mergeB) 7 mergeRules wl (nextOp (mapped 0) mergeB)) := by
  unfold Claims.passes; decide +kernel

/-- ATTEND over an empty context, BANK_ATTEND over 65 tokens, and a partial that bank 0 of core 3 has returned. -/
def attendB : List Byte := opb 3 0 3 0 [(8, 8, ref5 0x2000), (0x10, 8, ref5 0x7000), (0x20, 8, ref2 0), (0x28, 8, ref3 0x10000), (0x30, 2, 1), (0x32, 2, 1), (0x34, 1, 1), (0x37, 1, 5)]
def bankB : List Byte := opb 6 0 3 0 [(8, 8, ref5 0x2000), (0x30, 2, 1), (0x32, 2, 1), (0x34, 1, 1)]
def bankMap (n : Nat) : State := { mapped 0 with mem := wrBytes (wrBytes [] 0x401000 mapB) 0x402000 (fieldsOf 64 [(0, 4, n), (0x18, 8, ref5 0x1000), (0x20, 8, ref3 0), (0x28, 8, ref5 0x8000)]) }
def bankSet : SetPlan :=
  { entry := 0, queries := ref3 0, queryOff := 0, output := ref5 0x8000, d := 128, widths := 0, pstride := 64,
    members := [{ core := 3, setOff := 0, orders := [⟨0, 0, 1, 64, 0⟩, ⟨1, 0, 1, 64, 64⟩] }] }
def bankRun : MemberRun := { todo := [], held := [(0, 0, 7), (1, 2, 8)], fold := fieldsOf 0x220 [] }
def bankOp : Op :=
  { offset := 1, bytes := bankB, status := 0xFF, stage := .started, plan := [bankSet], members := [bankRun] }
def bankRuns : State := ls (wlOf [bankOp])
def bankDone : State := { bankRuns with mem := wrBytes [] (windowBase 3 + resultOff 0) [7, 0, 0, 0, 2] }
def bankFault : State := { bankRuns with mem := wrBytes [] (windowBase 3 + resultOff 0) [7, 0, 0, 0, 3, 4] }
def foldOf (s : State) : WorkList × Op × Nat × Nat := (s.foldOwner 3 0).getD (wl, started7, 0, 0)
def planIn (s : State) : SetPlan := ((foldOf s).2.1.plan[(foldOf s).2.1.tile]?).getD ⟨0, 0, 0, 0, 0, 0, 0, []⟩
def memberIn (s : State) : MemberPlan := ((planIn s).members[(foldOf s).2.2.1]?).getD ⟨0, 0, []⟩
def runIn (s : State) : MemberRun := ((foldOf s).2.1.members[(foldOf s).2.2.1]?).getD ⟨[], [], 0, [], 0⟩

theorem witness_attention_runs_on_its_units :
    (Claims.passes (mapped 0) 4 (some attendB) 3 attendRules wl (nextOp (mapped 0) attendB)) ∧
    (Claims.passes (bankMap 65) 4 (some bankB) 6 bankAttendRules wl (nextOp (bankMap 65) bankB) ∧ Claims.noBankAttend
      (bankMap 65)) ∧
    (vm.foldOwner 3 (2 * 5 + 0) = none) ∧
    (bankRuns.foldOwner 3 (2 * 0 + 0) = some ((foldOf bankRuns).1, (foldOf bankRuns).2.1, (foldOf bankRuns).2.2.1,
      (foldOf bankRuns).2.2.2) ∧ bankRuns.list? (foldOf bankRuns).1.id = some (foldOf bankRuns).1 ∧ (foldOf
      bankRuns).1.op? (foldOf bankRuns).2.1.offset = some (foldOf bankRuns).2.1 ∧ (bankRuns.towerRuns (3 / 8) = false
      ∨ fieldAt (Claims.header bankRuns 3 (2 * 0 + 0)) 0 4 ≠ (foldOf bankRuns).2.2.2 ∨ fieldAt (Claims.header
      bankRuns 3 (2 * 0 + 0)) 4 1 ≠ slotDone ∧ fieldAt (Claims.header bankRuns 3 (2 * 0 + 0)) 4 1 ≠ slotFault)) ∧
    (bankDone.foldOwner 3 (2 * 0 + 0) = some ((foldOf bankDone).1, (foldOf bankDone).2.1, (foldOf bankDone).2.2.1,
      (foldOf bankDone).2.2.2) ∧ bankDone.list? (foldOf bankDone).1.id = some (foldOf bankDone).1 ∧ (foldOf
      bankDone).1.op? (foldOf bankDone).2.1.offset = some (foldOf bankDone).2.1 ∧ bankDone.towerRuns (3 / 8) = true ∧
      fieldAt (Claims.header bankDone 3 (2 * 0 + 0)) 0 4 = (foldOf bankDone).2.2.2 ∧ fieldAt (Claims.header bankDone
      3 (2 * 0 + 0)) 4 1 = slotDone ∧ (foldOf bankDone).2.1.plan[(foldOf bankDone).2.1.tile]? = some (planIn
      bankDone) ∧ (foldOf bankDone).2.1.members[(foldOf bankDone).2.2.1]? = some (runIn bankDone) ∧ (planIn
      bankDone).members[(foldOf bankDone).2.2.1]? = some (memberIn bankDone) ∧ (runIn bankDone).folded + 1 <
      (memberIn bankDone).orders.length) ∧
    (bankFault.foldOwner 3 (2 * 0 + 0) = some ((foldOf bankFault).1, (foldOf bankFault).2.1, (foldOf
      bankFault).2.2.1, (foldOf bankFault).2.2.2) ∧ bankFault.list? (foldOf bankFault).1.id = some (foldOf
      bankFault).1 ∧ (foldOf bankFault).1.op? (foldOf bankFault).2.1.offset = some (foldOf bankFault).2.1 ∧
      bankFault.towerRuns (3 / 8) = true ∧ fieldAt (Claims.header bankFault 3 (2 * 0 + 0)) 0 4 = (foldOf
      bankFault).2.2.2 ∧ fieldAt (Claims.header bankFault 3 (2 * 0 + 0)) 4 1 = slotFault) :=
  ⟨by unfold Claims.passes; decide +kernel,
   by unfold Claims.passes Claims.noBankAttend; decide +kernel,
   by decide +kernel,
   by decide +kernel,
   by decide +kernel,
   by decide +kernel⟩

/-- A bed in a mode, with commands and a quota; a command in slot 11 or another. -/
def bedIn (mode : Nat) : State :=
  { vm.setF (.bedMode 3) 0 2 mode with now := 100000, mem := wrBytes [] (windowBase 3 + commandOff 11 + 8) (fieldsOf 56 [(0, 2, 32), (2, 2, 2), (4, 2, 5), (6, 1, 64), (12, 4, 64)]) }
def word0 : DWord := BitVec.ofNat 64 (77 + 2 ^ 32 + 2 ^ 40 * 3 + 2 ^ 56)
def cmd (slot : Nat) (st : CmdState) (order : Nat) : BankCmd :=
  { slot := slot, seq := 70 + slot, state := st, order := order, words := Claims.slotWords (bedIn 1) 3 11 word0, query := [], rows := 0 }
def bed (mode : Nat) (cs : List BankCmd) (quota : Nat) : State :=
  { (bedIn mode).setF (.bedQuota 3) 0 8 quota with beds := [(3, { busy := cs, startOrder := 9, rrBank := 5 })] }
def retired3 : State := { bedIn 1 with bankRetired := [(3, 32)] }
def finished : BankCmd := { cmd 11 .running 0 with payload := [1, 2, 3, 4], sats := 5, rows := 1000 }

theorem witness_bank_commands_are_checked :
    (retired3.dieLost (3 / 8) = false ∧ (retired3.coreEnabled 3 = false ∨ retired3.retired 3 5 = true)) ∧
    ((bedIn 1).dieLost (3 / 8) = false ∧ (bedIn 1).coreEnabled 3 = true ∧ (bedIn 1).retired 3 5 = false ∧ (∀ c ∈
      ((bedIn 1).bed 3).busy, c.slot ≠ 2 * 5 + 1)) ∧
    ((bed 1 [cmd 11 CmdState.waiting 0] 100).dieLost (3 / 8) = false ∧ (bed 1 [cmd 11 CmdState.waiting 0]
      100).coreEnabled 3 = true ∧ (bed 1 [cmd 11 CmdState.waiting 0] 100).retired 3 5 = false ∧ (∃ c ∈ ((bed 1 [cmd
      11 CmdState.waiting 0] 100).bed 3).busy, c.slot = 2 * 5 + 1)) := by
  decide +kernel

theorem witness_bank_commands_run_to_their_end :
    ((List.find? (fun c => decide (c.slot = 2 * 5 + 1)) ((bed 1 [cmd 11 CmdState.waiting 0] 100).bed 3).busy = some
      (cmd 11 CmdState.waiting 0)) ∧ (bed 1 [cmd 11 CmdState.waiting 0] 100).mayStart 3 (cmd 11 CmdState.waiting 0) =
      true) ∧
    ((List.find? (fun c => decide (c.slot = 2 * 5 + 1)) ((bed 0 [cmd 11 CmdState.waiting 0] 100).bed 3).busy = some
      (cmd 11 CmdState.waiting 0)) ∧ ((cmd 11 CmdState.waiting 0).state ≠ CmdState.waiting ∨ (cmd 11 CmdState.waiting
      0).pending = true ∨ (bed 0 [cmd 11 CmdState.waiting 0] 100).bedModeNow 3 = 0 ∨ (bed 0 [cmd 11 CmdState.waiting
      0] 100).towerRuns (3 / 8) = false ∨ (bed 0 [cmd 11 CmdState.waiting 0] 100).bedModeNow 3 = 1 ∧ (cmd 11
      CmdState.waiting 0).follows = false ∧ (bed 0 [cmd 11 CmdState.waiting 0] 100).regF (Reg.bedQuota 3) 0 8 ≤ ((bed
      0 [cmd 11 CmdState.waiting 0] 100).bed 3).runningCount)) ∧
    (((bed 2 [cmd 3 CmdState.running 0] 1).bed 3).held = [cmd 3 CmdState.running 0] ∧ (bed 2 [cmd 3 CmdState.running
      0] 1).bedModeNow 3 = 2 ∧ (bed 2 [cmd 3 CmdState.running 0] 1).timingAllows 3 = true ∧ (bed 2 [cmd 3
      CmdState.running 0] 1).towerRuns (3 / 8) = true) ∧
    ((((bed 1 [cmd 3 CmdState.running 0] 1).bed 3).held = [] ∨ (bed 1 [cmd 3 CmdState.running 0] 1).bedModeNow 3 ≠ 2
      ∨ (bed 1 [cmd 3 CmdState.running 0] 1).timingAllows 3 = false)) ∧
    (Claims.noBankAttend (bed 1 [finished] 100) ∧ (List.find? (fun c => decide (c.slot = 2 * 5 + 1)) ((bed 1
      [finished] 100).bed 3).busy = some finished) ∧ finished.state = CmdState.running ∧ (bed 1 [finished]
      100).towerRuns (3 / 8) = true ∧ ((bed 1 [finished] 100).bedModeNow 3 ≠ 2 ∨ cmdRows finished.words ≤
      finished.rows) ∧ finished.payload.length ≤ 8184) ∧
    ((bed 1 [cmd 3 CmdState.running 4, cmd 11 CmdState.running 5] 1).bedModeNow 3 = 1 ∧ (bed 1 [cmd 3
      CmdState.running 4, cmd 11 CmdState.running 5] 1).regF (Reg.bedQuota 3) 0 8 < ((bed 1 [cmd 3 CmdState.running
      4, cmd 11 CmdState.running 5] 1).bed 3).runningCount ∧ cmd 11 CmdState.running 5 ∈ ((bed 1 [cmd 3
      CmdState.running 4, cmd 11 CmdState.running 5] 1).bed 3).busy ∧ (cmd 11 CmdState.running 5).state =
      CmdState.running ∧ (∀ x ∈ ((bed 1 [cmd 3 CmdState.running 4, cmd 11 CmdState.running 5] 1).bed 3).busy, x.state
      = CmdState.running → x = cmd 11 CmdState.running 5 ∨ x.order < (cmd 11 CmdState.running 5).order)) ∧
    ((bed 1 [cmd 3 CmdState.running 4, cmd 11 CmdState.running 5] 1).regF (Reg.bedQuota 3) 0 8 ≤ ((bed 1 [cmd 3
      CmdState.running 4, cmd 11 CmdState.running 5] 1).bed 3).runningCount) ∧
    (((bed 1 [cmd 3 CmdState.running 4, cmd 14 CmdState.paused 2] 2).bedModeNow 3 ≠ 1 ∨ ((bed 1 [cmd 3
      CmdState.running 4, cmd 14 CmdState.paused 2] 2).bed 3).runningCount ≤ (bed 1 [cmd 3 CmdState.running 4, cmd 14
      CmdState.paused 2] 2).regF (Reg.bedQuota 3) 0 8)) ∧
    (((bed 1 [cmd 3 CmdState.running 4, cmd 14 CmdState.paused 2] 2).bed 3).runningCount < (bed 1 [cmd 3
      CmdState.running 4, cmd 14 CmdState.paused 2] 2).regF (Reg.bedQuota 3) 0 8 ∧ cmd 14 CmdState.paused 2 ∈ ((bed 1
      [cmd 3 CmdState.running 4, cmd 14 CmdState.paused 2] 2).bed 3).busy ∧ (cmd 14 CmdState.paused 2).state =
      CmdState.paused ∧ (∀ x ∈ ((bed 1 [cmd 3 CmdState.running 4, cmd 14 CmdState.paused 2] 2).bed 3).busy, x.state =
      CmdState.paused → x = cmd 14 CmdState.paused 2 ∨ (cmd 14 CmdState.paused 2).order < x.order)) := by
  unfold Claims.noBankAttend; decide +kernel

/-- A bed that changes its mode, with a command that waits for it or runs on. -/
def changing (cs : List BankCmd) : State := { bed 1 [] 1 with beds := [(3, { busy := cs, oldMode := some 2 })] }
def pendingCmd : BankCmd := { cmd 3 .waiting 4 with pending := true }
def refreshing (n : Nat) : State := { bedIn 1 with now := n, beds := [(3, { refreshing := [(5, 2745)] })] }
def fenceMsg : Msg := ⟨0, 0, 0x70, 2, 1, false, false, 0, 5, 0, 0, 0x3F, 0, []⟩
def refreshAt (n : Nat) : State := { bedIn 1 with now := n }

theorem witness_beds_are_controlled_and_refreshed :
    ((bed 1 [cmd 11 CmdState.running 5, cmd 14 CmdState.paused 3] 1).dieLost (3 / 8) = false ∧ (∀ c ∈ ((bed 1 [cmd 11
      CmdState.running 5, cmd 14 CmdState.paused 3] 1).bed 3).busy, c.slot < 256) ∧ ((List.map (fun x => x.slot)
      ((bed 1 [cmd 11 CmdState.running 5, cmd 14 CmdState.paused 3] 1).bed 3).busy).Nodup) ∧ nbit 2147483648 31 =
      true ∧ nbit 2147483648 30 = false) ∧
    ((bed 1 [cmd 11 CmdState.running 5, cmd 14 CmdState.paused 3] 1).dieLost (3 / 8) = false ∧ (∀ c ∈ ((bed 1 [cmd 11
      CmdState.running 5, cmd 14 CmdState.paused 3] 1).bed 3).busy, c.slot < 256) ∧ ((List.map (fun x => x.slot)
      ((bed 1 [cmd 11 CmdState.running 5, cmd 14 CmdState.paused 3] 1).bed 3).busy).Nodup) ∧ nbit 3221225472 30 =
      true) ∧
    (((changing [pendingCmd]).bed 3).oldMode = some 2 ∧ (2 = 0 ∨ ∀ c ∈ ((changing [pendingCmd]).bed 3).busy,
      c.pending = true)) ∧
    (((changing [cmd 5 CmdState.running 6]).bed 3).oldMode = some 2 ∧ 2 ≠ 0 ∧ (∃ c ∈ ((changing [cmd 5
      CmdState.running 6]).bed 3).busy, c.pending = false)) ∧
    ((bedIn 1).alive = true ∧ (bedIn 1).coreEnabled 3 = true ∧ (((bedIn 1).bed 3).lastLimit = 0 ∨ ((bedIn 1).bed
      3).lastLimit + 200000 ≤ (bedIn 1).now) ∧ (bedIn 1).regF (Reg.bedMode 3) 0 2 = 1) ∧
    ((bedIn 2).alive = true ∧ (bedIn 2).coreEnabled 3 = true ∧ (((bedIn 2).bed 3).lastLimit = 0 ∨ ((bedIn 2).bed
      3).lastLimit + 200000 ≤ (bedIn 2).now) ∧ (bedIn 2).regF (Reg.bedMode 3) 0 2 = 2) ∧
    ((bedIn 1).dieLost (3 / 8) = false ∧ (bedIn 1).coreEnabled 3 = true ∧ 0 = (bedIn 1).pkgId ∧ Claims.unasked (bedIn
      1) fenceMsg = true) ∧
    (((refreshAt 2745).dom (3 / 8)).state = DomState.on ∧ (refreshAt 2745).now % 390 = 390 * 5 / 128 ∧ (∀ r ∈
      ((refreshAt 2745).bed 3).refreshing, r.1 ≠ 5)) ∧
    ((refreshAt 2746).now % 390 ≠ 390 * 5 / 128) ∧
    ((List.find? (fun r => decide (r.1 = 5)) ((refreshing 2763).bed 3).refreshing = some (5, 2745)) ∧ 2745 + 18 ≤
      (refreshing 2763).now) ∧
    ((List.find? (fun r => decide (r.1 = 5)) ((refreshing 2762).bed 3).refreshing = some (5, 2745)) ∧ (¬2745 + 18 ≤
      (refreshing 2762).now)) := by
  decide +kernel

/-- Scrubbers that are enabled; a memory whose units are all scrubbed, and one a month behind; a warm stack. -/
def scrubs : State := (late.setF (.memScrubCtl 0) 31 1 1).setF (.bedScrubCtl 3) 31 1 1
def poisoned : State := late.setF (.memChstat 11 15) 30 2 1
def lapOver : State := { late with hbm := [(0, { channels := (List.range 16).map fun c => (c, { scrubPos := 7, scrubDone := true }) })] }
def behind : State := { late with now := 50000000000000 }
def hotStack : State := { late with hbm := [(0, { hotSince := 5, coolSince := some 10 })] }.setF (.memStat 0) 2 1 1

theorem witness_stacks_are_watched_and_scrubbed :
    (late.stackOn 11 = true ∧ late.regF (Reg.memChstat 11 15) 30 2 = 0) ∧
    ((poisoned.stackOn 11 = false ∨ poisoned.regF (Reg.memChstat 11 15) 30 2 ≠ 0)) ∧
    ((scrubs.memTested = true ∧ scrubs.scrubs (ScrubUnit.channel 0 0) = true ∧ scrubs.regBit (scrubCtl
      (ScrubUnit.channel 0 0)) 31 = true ∧ (scrubs.scrubbed (ScrubUnit.channel 0 0)).scrubDone = false ∧
      (scrubs.scrubbed (ScrubUnit.channel 0 0)).lastScrub + 10 * scrubs.regF (scrubCtl (ScrubUnit.channel 0 0)) 16 8
      ≤ scrubs.now)) ∧
    ((¬(vm.memTested = true ∧ vm.scrubs (ScrubUnit.bank 3 5) = true ∧ vm.regBit (scrubCtl (ScrubUnit.bank 3 5)) 31 =
      true ∧ (vm.scrubbed (ScrubUnit.bank 3 5)).scrubDone = false ∧ (vm.scrubbed (ScrubUnit.bank 3 5)).lastScrub + 10
      * vm.regF (scrubCtl (ScrubUnit.bank 3 5)) 16 8 ≤ vm.now))) ∧
    ((lapOver.lapUnits (ScrubMem.stack 0) ≠ [] ∧ ∀ u ∈ lapOver.lapUnits (ScrubMem.stack 0), (lapOver.scrubbed
      u).scrubDone = true)) ∧
    ((¬(lapOver.memTested = true ∧ lapOver.lapUnits (ScrubMem.stack 0) ≠ [] ∧ (lapOver.lap (ScrubMem.stack
      0)).lateLogged = false ∧ (lapOver.lap (ScrubMem.stack 0)).start + scrubLimit lapOver (ScrubMem.stack 0) * 3600
      * 200000000 < lapOver.now))) ∧
    ((¬(vm.lapUnits (ScrubMem.stack 0) ≠ [] ∧ ∀ u ∈ vm.lapUnits (ScrubMem.stack 0), (vm.scrubbed u).scrubDone =
      true))) ∧
    ((behind.memTested = true ∧ behind.lapUnits (ScrubMem.bed 3) ≠ [] ∧ (behind.lap (ScrubMem.bed 3)).lateLogged =
      false ∧ (behind.lap (ScrubMem.bed 3)).start + scrubLimit behind (ScrubMem.bed 3) * 3600 * 200000000 <
      behind.now)) ∧
    ((late.regBit (Reg.memStat 0) 2 = false ∨ (late.stack 0).coolSince = none ∨ late.now < (late.stack 0).hotSince +
      2000000)) ∧
    (late.stackOn 0 = true ∧ late.running = true) ∧
    (State.reset.stackOn 0 = false) ∧
    (hotStack.regBit (Reg.memStat 0) 2 = true ∧ (hotStack.stack 0).coolSince = some 10 ∧ 10 + 2000000 ≤ hotStack.now
      ∧ (hotStack.stack 0).hotSince + 2000000 ≤ hotStack.now) := by
  decide +kernel

/-- Port 23 in a state (1 training, 2 working, 4 down), enabled or not. -/
def portIn (st enable : Nat) (x : Span) : State :=
  (({ late with ports := [(23, x)] }.showLanes 23 0x76543210 0x76543210).setF (.spnStat 23) 29 3 st).setF (.spnCtl 23) 29 1 enable
def holdingLane : Span := { lostRx := [2], rxHold := some 5, remapReq := some 2 }
def trainingLane : Span := { trainingSince := some 5 }

theorem witness_span_ports_hold_narrow_and_train :
    ((portIn 2 1 { }).spanWorks 23 = true ∧ 8 ∉ ((portIn 2 1 { }).span 23).lostRx) ∧
    ((portIn 2 1 holdingLane).spanWorks 23 = true ∧ ((portIn 2 1 holdingLane).span 23).rxHold.isSome = true) ∧
    ((portIn 2 1 holdingLane).spanWorks 23 = true ∧ ((portIn 2 1 holdingLane).span 23).rxHold = some 5 ∧ 5 + 400 ≤
      (portIn 2 1 holdingLane).now) ∧
    (((portIn 1 1 trainingLane).span 23).trainingSince = some 5 ∧ (portIn 1 1 trainingLane).spanState 23 = 1 ∧ 5 +
      20000000 ≤ (portIn 1 1 trainingLane).now) := by
  decide +kernel

theorem witness_span_ports_retrain_and_leave_routes :
    (portPresent (portIn 2 1 { }).fuses 23 = true) ∧
    ((portIn 4 1 { }).alive = true ∧ (portIn 4 1 { }).spanState 23 = 4) := by
  decide +kernel

/-- Messages from node 40h of the package: class, operation, address, length, payload; and a response from node 50h. -/
def msg (cls op a len : Nat) (payload : List Byte) : Msg :=
  ⟨0, 0, 0x40, BitVec.ofNat 4 op, BitVec.ofNat 2 cls, true, false, 5, 17, BitVec.ofNat 2 len, 0, 0, BitVec.ofNat 48 a, payload⟩
def ack : Msg := msg 0 1 0x50 0 []
def request : Req := { node := 0x50, tag := 17, since := 3, addr := 0x123, tenant := 5 }
def requested : State := { late with reqs := [request] }

theorem witness_messages_are_answered :
    (Claims.toMemory late (msg 2 0 4160 2 []) = true ∧ Claims.unasked late (msg 2 0 4160 2 []) = true ∧ Claims.quiet
      late = true ∧ (msg 2 0 4160 2 []).cls = 2 ∧ (msg 2 0 4160 2 []).op = 0 ∧ Claims.sound late 4160 (msg 2 0 4160 2
      []).bytes = true) ∧
    (Claims.toMemory late (msg 2 1 4168 1 (ramp 32 1)) = true ∧ Claims.unasked late (msg 2 1 4168 1 (ramp 32 1)) =
      true ∧ Claims.quiet late = true ∧ (msg 2 1 4168 1 (ramp 32 1)).cls = 2 ∧ (msg 2 1 4168 1 (ramp 32 1)).op = 1 ∧
      Claims.sound late 4168 8 = true) ∧
    (Claims.toMemory late (msg 1 0 4168 1 (ramp 32 1)) = true ∧ Claims.unasked late (msg 1 0 4168 1 (ramp 32 1)) =
      true ∧ Claims.quiet late = true ∧ (msg 1 0 4168 1 (ramp 32 1)).cls = 1 ∧ (msg 1 0 4168 1 (ramp 32 1)).op = 0 ∧
      Claims.sound late 4168 (msg 1 0 4168 1 (ramp 32 1)).data.length = true) ∧
    (Claims.toMemory late (msg 1 1 4164 1 (ramp 32 1)) = true ∧ Claims.unasked late (msg 1 1 4164 1 (ramp 32 1)) =
      true ∧ Claims.quiet late = true ∧ (msg 1 1 4164 1 (ramp 32 1)).cls = 1 ∧ (msg 1 1 4164 1 (ramp 32 1)).op = 1 ∧
      Claims.sound late 4164 (msg 1 1 4164 1 (ramp 32 1)).data.length = true) ∧
    (Claims.toMemory late (msg 1 2 4160 0 []) = true ∧ Claims.unasked late (msg 1 2 4160 0 []) = true ∧ Claims.quiet
      late = true ∧ (msg 1 2 4160 0 []).cls = 1 ∧ (msg 1 2 4160 0 []).op = 2 ∧ (late.targetNode 4160).isSome = true)
      ∧
    (Claims.inside requested ack = true ∧ Claims.rspRow ack = some (Instr.ackRsp ack) ∧ guestOf (80 % 256) = none ∧
      requested.reqOf ack = some request) ∧
    ((List.find? (fun r => decide (r.node = 80) && decide (r.tag = 17)) requested.reqs = some request) ∧
      request.timedOut = false ∧ request.since + 2000000 ≤ requested.now) := by
  decide +kernel

/-- Frames 5 for port 23: a good one, one with an uncorrectable codeword, one with a nack, one with a message. -/
def frame (bad : Byte) (nack : Bool) (msgs : List Msg) : RxFrame := ⟨0, bad, 5, 3, nack, 2, 7, false, 0, false, msgs⟩
def expecting : Span := { rxNext := 5, replaysInRow := 15 }

theorem witness_span_frames_arrive_in_sequence :
    ((portIn 2 1 expecting).spanWorks 23 = true ∧ (¬((frame 129 false []).uncorrected = 0 ∧ 5 = ((portIn 2 1
      expecting).span 23).rxNext))) ∧
    ((portIn 2 1 expecting).spanWorks 23 = true ∧ ((frame 0 false []).uncorrected = 0 ∧ 5 = ((portIn 2 1
      expecting).span 23).rxNext) ∧ (frame 0 false []).msgs = [] ∧ (frame 0 false []).remapReq = false ∧ (frame 0
      false []).narrowReq = false ∧ (frame 0 false []).nack = false) ∧
    ((portIn 2 1 expecting).spanWorks 23 = true ∧ ((frame 0 true []).uncorrected = 0 ∧ 5 = ((portIn 2 1
      expecting).span 23).rxNext) ∧ (frame 0 true []).msgs = [] ∧ (frame 0 true []).remapReq = false ∧ (frame 0 true
      []).narrowReq = false ∧ (frame 0 true []).nack = true ∧ ((portIn 2 1 expecting).span 23).unacked = [] ∧
      ((portIn 2 1 expecting).span 23).replaysInRow = 15) := by
  decide +kernel

theorem witness_replays_detours_and_quiesce :
    (neighbour late.fuses 0 (0 + 1) = some 1 ∧ late.running = true ∧ late.dieLost 0 = false ∧ late.dieLost 1 = false
      ∧ 0 < linkWidth 0 1 ∧ subKey 0 0 0 ∉ late.retiredSubs) ∧
    (late.alive = true) ∧
    ((64 ≤ 71 ∧ 71 < 72 ∨ 80 ≤ 71 ∧ 71 < 112)) := by
  decide +kernel

/-- A register of 32 bits as a host finds it, and the functions' page. -/
def thcoef7 : BitVec 26 := BitVec.ofNat 26 (0x1000000 + (Reg.thcoef 7).off)

theorem witness_host_accesses_reach_registers :
    (late.bar0Up = true ∧ Claims.simple (Reg.thcoef 7) = true ∧ late.regHere (Reg.thcoef 7).off = some (Reg.thcoef 7)
      ∧ 46139908 = 16777216 + (Reg.thcoef 7).off ∧ late.cutOff late.primaryDie (Reg.thcoef 7).off = false ∧ [1, 2, 3,
      4].length = (Reg.thcoef 7).bytes) ∧
    (late.bar0Up = true ∧ Claims.simple (Reg.thcoef 7) = true ∧ late.regHere (Reg.thcoef 7).off = some (Reg.thcoef 7)
      ∧ 46139908 = 16777216 + (Reg.thcoef 7).off ∧ late.cutOff late.primaryDie (Reg.thcoef 7).off = false ∧ 0 <
      [1].length ∧ [1].length < 4) ∧
    (late.bar2Up 1 = true ∧ 2040 + (ramp 8 1).length ≤ 2048) ∧
    (late.bar0Up = true ∧ 327680 ≤ 331768 ∧ 331768 < 331776 ∧ (0 < 8 ∧ 331768 % 8 = 0)) ∧
    (late.bar0Up = true ∧ 327680 ≤ 327682 ∧ 327682 < 331776 ∧ (¬(0 < 4 ∧ 327682 % 4 = 0))) ∧
    (late.bar2Up 1 = true ∧ 0 < 8 ∧ 4088 % 8 = 0 ∧ 4088 < 4096) := by
  decide +kernel

/-- Gateway 1 in a state (1 training, 2 negotiated, 3 enabled); a structure that its partner sent. -/
def guestIn (st : Nat) (x : Guest) : State := { late.setF (.voyGstat 1) 28 4 st with guests := [(1, x)] }
def capBytes : List Byte := fieldsOf 32 [(0, 2, 0x5659), (2, 1, 0x20), (6, 1, 15), (7, 1, 15), (8, 2, 3), (10, 2, 4), (12, 2, 5), (14, 2, 6)]
def trainingGuest : Guest := { trainingSince := some 3 }
def askedGuest : Guest := { trainingSince := some 3, capSent := true }

theorem witness_guest_links_negotiate_and_fail :
    ((guestIn 1 trainingGuest).guestSite 1 = true ∧ (guestIn 1 trainingGuest).guestState 1 = gsTraining ∧ ((guestIn 1
      trainingGuest).guest 1).capSent = false) ∧
    (((guestIn 1 trainingGuest).guest 1).trainingSince = some 3 ∧ (guestIn 1 trainingGuest).guestState 1 = gsTraining
      ∧ ((guestIn 1 trainingGuest).guest 1).capSent = false ∧ 3 + 20000000 ≤ (guestIn 1 trainingGuest).now) ∧
    ((guestIn 1 askedGuest).guestState 1 = gsTraining ∧ ((guestIn 1 askedGuest).guest 1).capSent = true ∧
      capBytes.length = 32) ∧
    (((guestIn 3 askedGuest).guestState 1 = gsNegotiated ∨ (guestIn 3 askedGuest).guestState 1 = gsEnabled)) ∧
    ((guestIn 3 askedGuest).guestState 1 = gsEnabled) ∧
    (diePresent (guestIn 3 askedGuest).fuses (guestDie 1) = true ∧ (guestIn 3 askedGuest).dieLost (guestDie 1) =
      false) := by
  decide +kernel

/-- Both complexes beat, the active one is lost, the standby one serves, and neither beats. -/
def beats (alive standby : Bool) (a b : Option Nat) (now : Nat) : State := { late with alive := alive, standby := standby, hbActive := a, hbStandby := b, now := now }

theorem witness_heartbeats_and_failover :
    ((beats true false (some 5) (some 7) 3000000).alive = true) ∧
    (((beats true false (some 5) (some 7) 3000000).alive = true ∨ (beats true false (some 5) (some 7) 3000000).fwDead
      = true ∨ (beats true false (some 5) (some 7) 3000000).hbStandby = none ∨ ((beats true false (some 5) (some 7)
      3000000).dom 9).state ≠ DomState.on)) ∧
    ((beats true false (some 5) (some 7) 2000005).hbActive = some 5 ∧ 5 + 2000000 ≤ (beats true false (some 5) (some
      7) 2000005).now) ∧
    ((beats true false (some 5) (some 7) 2000004).hbActive = some 5 ∧ (beats true false (some 5) (some 7)
      2000004).now < 5 + 2000000) ∧
    ((beats false false none (some 7) 2000005).hbActive = none) ∧
    ((beats false false none (some 7) 2000005).alive = false ∧ (beats false false none (some 7) 2000005).fwDead =
      false ∧ (beats false false none (some 7) 2000005).hbStandby ≠ none ∧ ((beats false false none (some 7)
      2000005).dom 9).state = DomState.on) ∧
    ((beats false false none (some 7) 2000007).hbStandby = some 7 ∧ 7 + 2000000 ≤ (beats false false none (some 7)
      2000007).now) ∧
    ((beats false false none none 2000005).hbStandby = none) := by
  decide +kernel

/-- Tenants without lists and with a WAIT that has no timeout, watched for a second and for ten. -/
def early1 : State := vm.setBwF BW.state 24 4 6
def stuck (periods : Nat) : State := { waits (waitOp 7 0) with now := 5000000000, progress := [(1, 7)], watchdogs := [(1, periods)] }

theorem witness_tenants_are_reset_and_watched :
    (vm.fnExists 5 = false) ∧
    (1 ≠ 0 ∧ early1.fnExists 1 = true ∧ early1.bootStep < 7) ∧
    (1 ≠ 0 ∧ vm.fnExists 1 = true ∧ 7 ≤ vm.bootStep ∧ vm.alive = true ∧ vm.resets = [] ∧ vm.vfPending = none ∧
      vm.listsOf 1 = []) ∧
    (Claims.accepted vm (resetSlip 0 1) 15 [(8, 2)] = true ∧ (resetSlip 0 1).t = 0 ∧ 1 ≤ (resetSlip 0 1).f 8 2 ∧
      (resetSlip 0 1).f 8 2 < 1024 ∧ vm.fnExists ((resetSlip 0 1).f 8 2) = true ∧ vm.resets = [] ∧ vm.vfPending =
      none ∧ vm.listsOf ((resetSlip 0 1).f 8 2) = [] ∧ vm.heldBy ((resetSlip 0 1).f 8 2) = [] ∧ vm.removing = []) ∧
    ((1023 < 1024 ∨ vm.bar0Up = false)) ∧
    (1023 ≤ 1023 ∧ vm.bar0Up = true ∧ vm.resets = [] ∧ (vm.bootStep < 7 ∨ vm.alive = true ∧ ∀ l ∈ vm.lists, (l.tenant
      ≤ if true = true then 1023 else 0) ∨ (if vm.vfEnable = true then vm.numVfs else 0) < l.tenant)) ∧
    (((stuck 9).oldestOf 3 = none ∨ (stuck 9).alive = false ∨ (stuck 9).now < num (stuck 9).progress 3 + 200000000))
      ∧
    (((stuck 9).alive = false ∨ num (stuck 9).watchdogs 3 < 10)) ∧
    ((stuck 9).oldestOf 1 = some (wlOf [waitOp 7 0]) ∧ (stuck 9).alive = true ∧ num (stuck 9).progress 1 + 200000000
      ≤ (stuck 9).now) ∧
    ((stuck 10).alive = true ∧ 10 ≤ num (stuck 10).watchdogs 1) := by
  decide +kernel

/-- Waiting lists: their headers in memory, towers of 100 W with an envelope of 100 W. -/
def headerB (home : Nat) : List Byte :=
  fieldsOf 32 [(0, 2, 0x4C57), (2, 1, 1), (3, 1, home), (4, 4, 20), (8, 8, ref5 0x800000), (0x10, 8, ref5 0x100000)]
def powered (s : State) : State := (List.range 8).foldl (fun s t => s.setReg (.env t) (BitVec.ofNat 64 (100 * 65536 + 1000))) s
def sched (lists : List WorkList) (home : Nat) : State :=
  powered { ls wl with lists := lists, now := 5000000000000, mem := wrBytes [] 0x400000 (headerB home ++ opb 1 0 5 0 []) }
def headerIn (s : State) (l : WorkList) : Header :=
  match s.headerOf l with
  | .ok h => h
  | .error _ => l.header
def victim : WorkList := { wl with home := 2, id := 9, priority := 1 }
def urgent : WorkList := { waitingList with priority := 5 }
def shortOf (s : State) (w : Nat) : State := s.setTherm w { s.therm w with shortSince := some 5 }
def idleSched : State := sched [] 2
def lapped : State := { sched [victim] 2 with now := 50000000000000 }
def powerDown : State := { sched [] 2 with alive := false }
def greedy : WorkList := { victim with power := [0, 0, 950, 0, 0, 0, 0, 0] }
def urgentRun : State := sched [greedy, urgent] 2

theorem witness_lists_are_scheduled :
    (((List.map (fun x => x.id) (sched [wl] 2).lists).Nodup) ∧ ((sched [wl] 2).admits = false ∨ (sched [wl]
      2).badHeader = none ∧ (sched [wl] 2).bestList = none)) ∧
    (((List.map (fun x => x.id) (sched [wl] 2).lists).Nodup) ∧ ((sched [wl] 2).alive = true ∧ (sched [wl] 2).fired =
      true ∧ (sched [wl] 2).memTested = true ∧ ∀ (x : ℕ), (sched [wl] 2).lastPause = some x → x + 200000000 ≤ (sched
      [wl] 2).now) ∧ (sched [wl] 2).scrubBehind = false) ∧
    (((List.map (fun x => x.id) (sched [waitingList] 9).lists).Nodup) ∧ (sched [waitingList] 9).admits = true ∧
      (sched [waitingList] 9).badHeader = some (waitingList, osMalformed) ∧ waitingList.stopStatus = none) ∧
    (((List.map (fun x => x.id) (sched [waitingList] 2).lists).Nodup) ∧ (sched [waitingList] 2).admits = true ∧
      (sched [waitingList] 2).badHeader = none ∧ (sched [waitingList] 2).bestList = some (waitingList, headerIn
      (sched [waitingList] 2) waitingList)) ∧
    (((List.map (fun x => x.id) powerDown.lists).Nodup) ∧ (powerDown.alive = false ∨ powerDown.fired = false)) ∧
    (((List.map (fun x => x.id) powerDown.lists).Nodup) ∧ (¬(powerDown.alive = true ∧ powerDown.fired = true ∧
      powerDown.memTested = true ∧ ∀ (x : ℕ), powerDown.lastPause = some x → x + 200000000 ≤ powerDown.now))) ∧
    (((List.map (fun x => x.id) (shortOf (sched [victim] 2) 2).lists).Nodup) ∧ (shortOf (sched [victim] 2) 2).alive =
      true ∧ (shortOf (sched [victim] 2) 2).fired = true ∧ (shortOf (sched [victim] 2) 2).waitingLists = [] ∧ 2 < 8 ∧
      (∀ v < 8, v ≠ 2 → ((shortOf (sched [victim] 2) 2).therm v).shortSince = none ∨ ∃ x, ((shortOf (sched [victim]
      2) 2).therm v).shortSince = some x ∧ (shortOf (sched [victim] 2) 2).now < x + 2000000) ∧ (∃ x, ((shortOf (sched
      [victim] 2) 2).therm 2).shortSince = some x ∧ x + 2000000 ≤ (shortOf (sched [victim] 2) 2).now) ∧ (victimOrder
      (List.filter (fun l => decide (l.home = 2) && l.resumable) (shortOf (sched [victim] 2) 2).lists) = [victim])) ∧
    (((List.map (fun x => x.id) idleSched.lists).Nodup) ∧ (idleSched.alive = true ∧ idleSched.fired = true ∧
      idleSched.towerLive 0 = true ∧ idleSched.listsOn 0 = [] ∧ (idleSched.therm 0).noListSince + 2000000 ≤
      idleSched.now)) ∧
    (((List.map (fun x => x.id) powerDown.lists).Nodup) ∧ (¬(powerDown.alive = true ∧ powerDown.fired = true ∧
      powerDown.towerLive 0 = true ∧ powerDown.listsOn 0 = [] ∧ (powerDown.therm 0).noListSince + 2000000 ≤
      powerDown.now))) ∧
    (((List.map (fun x => x.id) lapped.lists).Nodup) ∧ (lapped.alive = true ∧ lapped.fired = true ∧ lapped.memTested
      = true ∧ ∀ (x : ℕ), lapped.lastPause = some x → x + 200000000 ≤ lapped.now) ∧ lapped.scrubBehind = true) ∧
    ((urgentRun.alive = true ∧ urgentRun.fired = true) ∧ (∀ v, v < 8 → (urgentRun.therm v).shortSince = none) ∧
      (urgentRun.waitingLists.find? (fun l => decide (l.waitingSince + urgentRun.preemptWait * 200 ≤ urgentRun.now)
      && (match urgentRun.headerOf l with | .ok h => !urgentRun.fits h [] [] | .error _ => false)) = some urgent) ∧
      urgentRun.headerOf urgent = .ok (headerIn urgentRun urgent) ∧ (urgentRun.victims (headerIn urgentRun urgent)
      ((urgentRun.lists.filter fun x => x.state = .stopping).map fun x => x.id) (victimOrder (urgentRun.lists.filter
      fun x => x.resumable && decide (x.priority < urgent.priority) && (urgentRun.lacking (headerIn urgentRun urgent)
      ((urgentRun.lists.filter fun x => x.state = .stopping).map fun x => x.id)).any fun t => x.home = t ||
      x.power.getD t 0 ≠ 0)) = some [9])) :=
  ⟨by decide +kernel,
   by decide +kernel,
   by decide +kernel,
   by decide +kernel,
   by decide +kernel,
   by decide +kernel,
   by decide +kernel,
   by decide +kernel,
   by decide +kernel,
   by decide +kernel,
   by decide +kernel⟩

/-- Transfer engine 31 with one granule of 40 bytes to do, to the host or from it. -/
def job : Job := { entry := 2, tenant := 1, tag := 50, firstGranule := 0, granules := 1 }
def xfer (toHost : Bool) : Xfer :=
  { tenant := 1, tag := 50, quiet := false, host := 0x9000, slot := 5, off := 0x1000, bytes := 40, toHost := toHost }
def moving (toHost : Bool) : State :=
  { late.setSeg 1 5 seg5 with engines := [(31, { jobs := [job] })], xfers := [xfer toHost],
                              leases := [(jobLease 31 2, { held := true, owner := 0x800 })] }
def denied : State := (moving true).setSeg 1 5 { seg5 with rights := 0 }
def revoking (nodes : List Nat) (now : Nat) : State := { late with revocation := some ⟨5, nodes, 0, 0, false⟩, now := now }
def answered : Revocation := ⟨5, [], 0, 0, false⟩
def awaited : Revocation := ⟨5, [0x50, 0x6F], 0, 0, false⟩

theorem witness_engines_and_leases_work :
    (late.nextJob 31 = none) ∧
    ((moving true).nextJob 31 = some job ∧ (moving true).xfer? job.tenant job.tag = some (xfer true) ∧ (moving
      true).seg? (xfer true).tenant (xfer true).slot = some seg5 ∧ (moving true).segAllows seg5 ((xfer true).off +
      (granuleRange ((moving true).xferDst (xfer true)) (xfer true).bytes (job.firstGranule + job.done)).1) (plain
      (granuleRange ((moving true).xferDst (xfer true)) (xfer true).bytes (job.firstGranule + job.done)).2) (if (xfer
      true).toHost = true then rRead else rWrite) false = true ∧ Claims.sound (moving true) (seg5.base + (xfer
      true).off + (granuleRange ((moving true).xferDst (xfer true)) (xfer true).bytes (job.firstGranule +
      job.done)).1) (granuleRange ((moving true).xferDst (xfer true)) (xfer true).bytes (job.firstGranule +
      job.done)).2 = true ∧ Claims.quiet (moving true) = true) ∧
    (((moving true).revocation.isSome = true ∨ ownerKnown 1024 = false)) ∧
    ((moving true).revocation = none ∧ ownerKnown 2048 = true) ∧
    (late.revocation = none) ∧
    ((revoking [] 5).revocation = some answered ∧ answered.owner ≠ 6) ∧
    ((revoking [] 5).revocation = some answered ∧ answered.waiting = []) ∧
    ((revoking [] 5).revocation = some answered ∧ (80 ∉ answered.waiting ∨ (revoking [] 5).now < answered.since +
      2000000)) ∧
    ((revoking [80, 111] 2000000).revocation = some awaited ∧ awaited.owner = 5) ∧
    ((revoking [80, 111] 2000000).revocation = some awaited ∧ awaited.waiting ≠ []) ∧
    ((revoking [80, 111] 2000000).revocation = some awaited ∧ 80 ∈ awaited.waiting ∧ awaited.since + 2000000 ≤
      (revoking [80, 111] 2000000).now) ∧
    (denied.nextJob 31 = some job ∧ denied.xfer? job.tenant job.tag = some (xfer true) ∧ (∀ g, denied.seg? (xfer
      true).tenant (xfer true).slot = some g → denied.segAllows g ((xfer true).off + (granuleRange (denied.xferDst
      (xfer true)) (xfer true).bytes (job.firstGranule + job.done)).1) (plain (granuleRange (denied.xferDst (xfer
      true)) (xfer true).bytes (job.firstGranule + job.done)).2) rRead false = false)) :=
  ⟨by decide +kernel,
   by decide +kernel,
   by decide +kernel,
   by decide +kernel,
   by decide +kernel,
   by decide +kernel,
   by decide +kernel,
   by decide +kernel,
   by decide +kernel,
   by decide +kernel,
   by decide +kernel,
   by decide +kernel⟩

/-- Core samples that could start or runs, lamps that are on at a low or a high brightness, and a part held in reset. -/
def sampled : State := { late with sampling := true }.setF .csStat 31 1 1
def lamp (brightness : DWord) : State := { late with tb := { count := 200004000 } }.setReg (.indCtl 3) brightness

theorem witness_samples_indicators_and_test_port :
    (late.served = true ∧ late.regBit Reg.csStat 31 = false) ∧
    (late.running = true) ∧
    ((sampled.served = false ∨ sampled.regBit Reg.csStat 31 = true)) ∧
    ((late.served = false ∨ late.regBit Reg.csStat 31 = false)) ∧
    (sampled.served = true ∧ sampled.regBit Reg.csStat 31 = true) ∧
    (late.lampDue 3 = false) ∧
    ((lamp 2147483649).lampDue 3 = true) ∧
    (State.reset.running = false) := by
  decide +kernel

/-! ### Ill-formed terms that the checks of `Instr.wf` refuse, beside well-formed ones -/

/-- A message of a class and operation with `n` bytes of payload. -/
def rawMsg (cls op len status count n : Nat) : Msg :=
  { dstPkg := 0, srcPkg := 0, srcNode := 0x40, op := BitVec.ofNat 4 op, cls := BitVec.ofNat 2 cls, d := false, t := false,
    tenant := 0, tag := 5, len := BitVec.ofNat 2 len, status := BitVec.ofNat 8 status, count := BitVec.ofNat 6 count, addr := 0,
    payload := List.replicate n 0 }

theorem test_wf_messages : ((Instr.write (rawMsg 1 0 1 0 3 64)).wf && (Instr.writeNp (rawMsg 1 1 3 0 0x3F 256)).wf &&
    (Instr.atomicAdd (rawMsg 2 1 0 0 0x3F 0)).wf && (Instr.dataRsp (rawMsg 0 0 2 0 0x3F 128)).wf &&
    (Instr.ackRsp (rawMsg 0 1 0 0 0x3F 0)).wf && (Instr.errorRsp (rawMsg 0 2 0 7 0x3F 0)).wf) = true := by decide +kernel
theorem test_ill_formed_write_class : (Instr.write (rawMsg 2 0 1 0 3 64)).wf = false := by decide
theorem test_ill_formed_write_status : (Instr.write (rawMsg 1 0 1 4 3 64)).wf = false := by decide
theorem test_ill_formed_write_np_op : (Instr.writeNp (rawMsg 1 0 1 0 3 64)).wf = false := by decide
theorem test_ill_formed_payload : (Instr.write (rawMsg 1 0 2 0 0x3F 64)).wf = false := by decide
theorem test_ill_formed_count : (Instr.write (rawMsg 1 0 2 0 3 128)).wf = false := by decide +kernel
theorem test_ill_formed_fence_payload : (Instr.fabricFence (rawMsg 1 2 1 0 3 64)).wf = false := by decide
theorem test_ill_formed_bed_fence : (Instr.bedFence 3 (rawMsg 1 1 0 0 0x3F 0)).wf = false := by decide
theorem test_ill_formed_read_message : (Instr.read (.msg (rawMsg 2 1 0 0 0x3F 0))).wf = false := by decide
theorem test_ill_formed_host_read : (Instr.read (.host (.bar0 0) 0)).wf = false := by decide
theorem test_ill_formed_atomic_add : (Instr.atomicAdd (rawMsg 2 0 0 0 0x3F 0)).wf = false := by decide
theorem test_ill_formed_data : (Instr.dataRsp (rawMsg 0 1 0 0 0x3F 0)).wf = false := by decide
theorem test_ill_formed_ack : (Instr.ackRsp (rawMsg 1 1 0 0 0x3F 0)).wf = false := by decide
theorem test_ill_formed_error : (Instr.errorRsp (rawMsg 0 0 0 7 0x3F 0)).wf = false := by decide
theorem test_ill_formed_register_write : (Instr.registerWrite (.bar0 0) []).wf = false := by decide
theorem test_ill_formed_cap : (Instr.cap 0 (List.replicate 31 0)).wf = false := by decide
theorem test_ill_formed_early_copy : (Instr.matmul 4 (some (List.replicate 33 0))).wf = false := by decide
theorem test_ill_formed_early_empty : (Instr.copy 4 (some [])).wf = false := by decide
theorem test_ill_formed_early_long : (Instr.fence 4 (some (List.replicate 512 0))).wf = false := by
  simp only [Instr.wf, earlyWf, List.length_replicate]; decide
theorem test_ill_formed_slip : (Instr.hello ⟨0, List.replicate 63 0⟩).wf = false := by decide
theorem test_ill_formed_floorplan : (Instr.floorplan ⟨0, []⟩ true).wf = false := by decide
theorem test_ill_formed_engines : (Instr.transfer ⟨0, List.replicate 64 0⟩ (List.replicate 2 31)).wf = false := by decide
theorem test_ill_formed_many_engines :
    (Instr.transfer ⟨0, List.replicate 64 0⟩ [0, 1, 2, 3, 4, 5, 6, 7, 8]).wf = false := by decide
theorem test_ill_formed_granule : (Instr.transferGranule 0 (List.replicate 4097 0) true).wf = false := by
  simp only [Instr.wf, List.length_replicate]; decide
theorem test_ill_formed_conversion : (Instr.sensorConversion 0 [0]).wf = false := by decide
theorem test_ill_formed_power : (Instr.power 0 [.ok]).wf = false := by decide
theorem test_ill_formed_route : (Instr.publish [0]).wf = false := by decide
theorem test_no_word_spells_a_command : decodeTableWord 32 0 = none := rfl

/-! ### Boundary values of reads that depend on the state alone -/

/-- The last slot of a fault log, and the index of the log's status. -/
theorem witness_fault_log_takes_and_shows_entries :
    (({ up with flog0 := { up.flog0 with i3cIndex := 8191 } } : State).flog0.i3cIndex < 8192 ∧
      ({ up with flog0 := { up.flog0 with i3cIndex := 0xFFFF } } : State).flog0.i3cIndex = 0xFFFF) := by
  decide +kernel

/-- An EVENT of source 0x383 on the idle controller, and the claim of it by its target. -/
def pendingSource : State := after (.event 0x383) (after (.icMaskClr 28 0xFFFFFFFF) up)

theorem witness_claim_and_end_of_interrupt :
    up.ic.offer? 0 = none ∧ pendingSource.ic.offer? 0 = some 0x383 ∧
      (pendingSource.ic.src 0x383).mode = .pending := by
  decide +kernel

/-! ### The spec's worked examples and other known answers -/

/-- The worked example of External Memory: 0x0012_3456_7000 with channel 9 of M3 mapped out, and with none. -/
def eightStacks : State := { State.reset with fuses := { assembly := .s8x4 } }
theorem test_external_address_mapped_out :
    ({ eightStacks with chanMapped := [(3, 0x200)] } : State).extLoc 0x1234567000 = .ext 0 1 0x92C840 := by decide +kernel
theorem test_external_address : eightStacks.extLoc 0x1234567000 = .ext 7 12 (149130 * 64) := by decide +kernel

/-- The worked example of Interrupts: two doorbells ring, target 2 and then target 3 claim, the second doorbell rings again. -/
def doorbells : State :=
  let c := ({ State.reset.ic with lastClaim := 1 }.setSrc 0x411 { masked := false, prio := 0x48, targets := 0x0F }).setSrc 0x412
    { masked := false, prio := 0x43, targets := 0x0F }
  after (.event 0x411) (after (.event 0x412) { up with ic := c })
theorem test_doorbell_claim : (after (.icAck 2) doorbells).out.head? = some (.icAck 2 0x80000412) := by decide +kernel
theorem test_doorbell_lost : (after (.event 0x411) (after (.icAck 3) (after (.icAck 2) doorbells))).ic.lost = 1 := by
  decide +kernel

/-- The worked example of Power Delivery: T2 at 0.85 V and 330 A loses phase 7, then phase 12 by its sense. -/
def phased : State := after (.phaseDrop 2 7 false [3300]) ((up.setF (.vstat 2) 16 16 850).setF (.vregStat 2) 0 16 900)
theorem test_phase_open : phased.reg (.vregPhasest 2) = 0x4000 ∧ phased.regF (.vstat 2) 16 16 = 850 := by decide +kernel
theorem test_phase_sense :
    (after (.phaseDrop 2 12 true [3300, 3200, 3120]) phased).reg (.vregPhasest 2) = 0x02004000 ∧
      (after (.phaseDrop 2 12 true [3300, 3200, 3120]) phased).regF (.vregStat 2) 0 16 = 830 := by decide +kernel

/-- R385: the generator's published check value, for the bytes of "123456789". -/
theorem test_digest :
    crc64Final (crc64Feed crc64Init [0x31, 0x32, 0x33, 0x34, 0x35, 0x36, 0x37, 0x38, 0x39]) = 0x62EC59E3F1A4F00A := by
  decide +kernel

/-- R383: Philox-4x32-10's published answer for a zero counter and key. -/
theorem test_philox : philoxWord 0 0 0 = 0x6627E8D5 := by decide +kernel

/-- R374: a tick adds one. -/
theorem test_timebase_tick : (after .timebaseTick { State.reset with tb := { count := 41 } }).tb.count = 42 := by decide +kernel

end Sys2Proof.Tests
end

section
/-! What writing a byte map, a fault log, an interrupt source and a mailbox ring gives back, and from these the rules of
the mailbox pointers (R286) and of held notices (R309). -/

namespace Sys2Proof.Machine

/-! ### Bytes -/

@[simp] theorem length_leBytes (n v : Nat) : (leBytes n v).length = n := by
  induction n generalizing v with
  | zero => rfl
  | succ n ih => simp only [leBytes, List.length_cons, ih]

theorem rdBytes_wrBytes_same (m : List (Nat × Byte)) (a : Nat) (bs : List Byte) :
    rdBytes (wrBytes m a bs) a bs.length = bs := by
  refine List.ext_getElem (by simp [rdBytes]) fun i _ hi => ?_
  simp only [rdBytes, List.getElem_map, List.getElem_range]
  exact rdB_wrBytes_inside bs m a i hi

/-! ### Fault log -/

/-- R412, R413: what `Flog.append` does is what a writer that takes an entry must do. -/
theorem Flog.logged_append (f : Flog) (e : FlogBody) : Claims.logged f (f.append e) e := by
  unfold Claims.logged Flog.append
  by_cases hw : f.writerOk = true
  · rw [if_pos hw, if_pos hw]
    refine ⟨rfl, ?_, fun i hi => ?_, rfl, rfl, rfl, rfl⟩
    · exact congrArg (Option.map Prod.snd) (find_insertKey_same _ _ f.slots)
    · exact congrArg (Option.map Prod.snd) (find_insertKey_ne _ _ f.slots i hi)
  · rw [if_neg hw, if_neg hw]

theorem State.logs_logEntry (s : State) (e : FlogBody) : Claims.logs s (s.logEntry e) e :=
  ⟨s.flog0.logged_append e, s.flog1.logged_append e⟩

/-! ### Interrupt events -/

theorem IC.src_event_idle (c : IC) (n : Nat) (h : (c.src n).mode = .idle) : ((c.event n).src n).mode = .pending := by
  simp [IC.event, h]

@[simp] theorem State.mb_icEvent (s : State) (n : Nat) : (s.icEvent n).mb = s.mb := by
  unfold State.icEvent; split <;> rfl

@[simp] theorem State.flog0_icEvent (s : State) (n : Nat) : (s.icEvent n).flog0 = s.flog0 := by
  unfold State.icEvent; split <;> rfl

@[simp] theorem State.flog1_icEvent (s : State) (n : Nat) : (s.icEvent n).flog1 = s.flog1 := by
  unfold State.icEvent; split <;> rfl

/-- R365: while X0 is on, an event of an idle source makes it pending. -/
theorem State.src_icEvent_idle (s : State) (n : Nat) (hx : s.x0Lost = false) (h : (s.ic.src n).mode = .idle) :
    ((s.icEvent n).ic.src n).mode = .pending := by
  rw [State.icEvent, if_neg (by simp [hx])]
  exact s.ic.src_event_idle n h

/-! ### Ignored pointer writes (R286) -/

theorem State.mb_badPointer (s : State) (t off u : Nat) :
    (s.badPointer t off).mb u = if u = t then { s.mb t with badDoorbell := true } else s.mb u :=
  s.mb_setMb t _ u

@[simp] theorem State.ic_badPointer (s : State) (t off : Nat) : (s.badPointer t off).ic = s.ic := rfl

theorem State.logs_badPointer (s : State) (t off : Nat) :
    Claims.logs s (s.badPointer t off) (Claims.entry s 1 0 0x10 0x70 t 4 off) :=
  State.logs_logEntry (s.setMb t { s.mb t with badDoorbell := true }) _

/-! ### Pointer writes (R286, R362) -/

/-- A tail between the present one and 32 past the head is taken. -/
theorem doorbell_taken (t tail : Nat) (s : State)
    (h : sub32 (s.mb t).sqTail (s.mb t).sqHead ≤ sub32 tail (s.mb t).sqHead ∧ sub32 tail (s.mb t).sqHead ≤ 32) :
    doorbell t tail s = (s.setMb t { s.mb t with sqTail := tail }).icEvent (srcMailbox t) := by
  rw [doorbell, if_pos (by simpa using h)]

theorem doorbell_ignored (t tail : Nat) (s : State)
    (h : ¬ (sub32 (s.mb t).sqTail (s.mb t).sqHead ≤ sub32 tail (s.mb t).sqHead ∧ sub32 tail (s.mb t).sqHead ≤ 32)) :
    doorbell t tail s = s.badPointer t 0x1000 := by
  rw [doorbell, if_neg (by simpa using h)]

/-- A head up to the completion tail is taken. -/
theorem cqHeadWrite_taken (t head : Nat) (s : State)
    (h : sub32 head (s.mb t).cqHead ≤ sub32 (s.mb t).cqTail (s.mb t).cqHead) :
    cqHeadWrite t head s = s.setMb t { s.mb t with cqHead := head } := if_pos h

theorem cqHeadWrite_ignored (t head : Nat) (s : State)
    (h : ¬ sub32 head (s.mb t).cqHead ≤ sub32 (s.mb t).cqTail (s.mb t).cqHead) :
    cqHeadWrite t head s = s.badPointer t 0x1008 := if_neg h

theorem doorbell_other (t tail u : Nat) (s : State) (hu : u ≠ t) : (doorbell t tail s).mb u = s.mb u := by
  unfold doorbell
  dsimp only
  split
  · rw [State.mb_icEvent, State.mb_setMb, if_neg hu]
  · rw [State.mb_badPointer, if_neg hu]

theorem cqHeadWrite_other (t head u : Nat) (s : State) (hu : u ≠ t) : (cqHeadWrite t head s).mb u = s.mb u := by
  unfold cqHeadWrite
  dsimp only
  split
  · rw [State.mb_setMb, if_neg hu]
  · rw [State.mb_badPointer, if_neg hu]

theorem exec_doorbell (tenant : BitVec 10) (tail : Word) (s : State) (h : s.fnExists tenant.toNat = true) :
    exec (.doorbell tenant tail) s = .next (doorbell tenant.toNat tail.toNat s) :=
  congrArg Host.Outcome.next (if_pos h)

theorem exec_cqHeadWrite (tenant : BitVec 10) (head : Word) (s : State) (h : s.fnExists tenant.toNat = true) :
    exec (.cqHeadWrite tenant head) s = .next (cqHeadWrite tenant.toNat head.toNat s) :=
  congrArg Host.Outcome.next (if_pos h)

/-! ### Held notices (R290 to R292, R309) -/

theorem exec_heldNoticeWrite (tenant : BitVec 10) (s : State) (h : s.alive = true) :
    exec (.heldNoticeWrite tenant) s = .next (s.setMb tenant.toNat (s.mb tenant.toNat).flushHeld) :=
  congrArg Host.Outcome.next (if_pos h)

theorem length_completion (m : Mailbox) (opcode tag status : Nat) (body : List Byte) :
    (Claims.completion m opcode tag status body).length = 64 := by
  simp [Claims.completion]

/-- R290, R292: a completion is written into the slot of the tail, and the tail moves on. -/
theorem Mailbox.writeSlip_eq (m : Mailbox) (kind status tag : Nat) (body : List Byte) :
    m.writeSlip kind status tag body =
      { m with cq := wrBytes m.cq (m.cqTail % 32 * 64) (Claims.completion m kind tag status body)
               cqTail := (m.cqTail + 1) % 2 ^ 32 } := rfl

theorem rdBytes_wrBytes_completion (c : Memory) (a : Nat) (m : Mailbox) (opcode tag status : Nat) (body : List Byte) :
    rdBytes (wrBytes c a (Claims.completion m opcode tag status body)) a 64 =
      Claims.completion m opcode tag status body := by
  have h := rdBytes_wrBytes_same c a (Claims.completion m opcode tag status body)
  rwa [length_completion] at h

theorem Mailbox.askVector_eq (m : Mailbox) :
    m.askVector = { m with vec0 := if m.irq then m.vec0.request else m.vec0 } := by
  unfold Mailbox.askVector; split <;> rfl

/-- R309: with room for it, the oldest held notice leaves the held ones and is written. -/
theorem Mailbox.flushHeld_room (m : Mailbox) (n : Notice) (rest : List Notice) (hh : m.held = n :: rest)
    (h : m.u + m.a < 32) :
    m.flushHeld =
      { m with held := rest
               cq := wrBytes m.cq (m.cqTail % 32 * 64) (Claims.completion m n.kind n.tag 0 n.body)
               cqTail := (m.cqTail + 1) % 2 ^ 32
               vec0 := if m.irq then m.vec0.request else m.vec0 } := by
  simp only [Mailbox.flushHeld, hh, if_pos h, Mailbox.askVector_eq, Mailbox.writeSlip_eq, Claims.completion]

theorem Mailbox.flushHeld_full (m : Mailbox) (h : ¬ m.u + m.a < 32) : m.flushHeld = m := by
  unfold Mailbox.flushHeld
  split
  · rfl
  · exact if_neg h

/-! ### The obligation -/

/-- Settles O13: each pointer write is either taken or ignored, and each held notice is written or waits. -/
theorem mailboxPointersMoveForward : Obligations.MailboxPointersMoveForward := by
  unfold Obligations.MailboxPointersMoveForward
  refine ⟨fun tenant tail s hf => ?doorbell, fun tenant head s hf => ?cqHead, fun tenant n rest s ha hh => ?notice⟩
  case doorbell =>
    refine ⟨_, exec_doorbell tenant tail s hf, only_doorbell _ _ s (Only.refl s) (List.Subset.refl _),
      fun u hu => doorbell_other _ _ u s hu, ?_⟩
    split
    case isTrue h =>
      rw [doorbell_taken _ _ _ h]
      exact ⟨by simp, by simp, by simp, fun hx hi => State.src_icEvent_idle _ (srcMailbox tenant.toNat) hx hi⟩
    case isFalse h =>
      rw [doorbell_ignored _ _ _ h]
      exact ⟨by rw [State.mb_badPointer, if_pos rfl], State.ic_badPointer .., s.logs_badPointer _ _⟩
  case cqHead =>
    refine ⟨_, exec_cqHeadWrite tenant head s hf, only_cqHeadWrite _ _ s (Only.refl s) (List.Subset.refl _),
      fun u hu => cqHeadWrite_other _ _ u s hu, ?_⟩
    split
    case isTrue h =>
      rw [cqHeadWrite_taken _ _ _ h]
      exact ⟨by simp, by simp, by simp⟩
    case isFalse h =>
      rw [cqHeadWrite_ignored _ _ _ h]
      exact ⟨by rw [State.mb_badPointer, if_pos rfl], s.logs_badPointer _ _⟩
  case notice =>
    refine ⟨_, exec_heldNoticeWrite tenant s ha, only_State_setMb s _ _ (Only.refl s) (List.Subset.refl _),
      fun u hu => by rw [State.mb_setMb, if_neg hu], ?_⟩
    rw [State.mb_setMb, if_pos rfl]
    split
    case isTrue h =>
      simp only [Mailbox.flushHeld_room _ n rest hh h, rdBytes_wrBytes_completion, Notice.body, and_self]
    case isFalse h => exact Mailbox.flushHeld_full _ h

end Sys2Proof.Machine
end

section
/-! What an event, the sending of a latched edge, a claim and an end of interrupt do to the sources, the offers and the
count of lost events (R365, R367, R371). -/

namespace Sys2Proof.Machine

/-! ### Events of the controller (R365, R370) -/

theorem IC.event_idle (c : IC) (n : Nat) (h : (c.src n).mode = .idle) :
    c.event n = (c.setSrc n { c.src n with mode := .pending }).reoffer := if_pos h

theorem IC.event_busy (c : IC) (n : Nat) (h : (c.src n).mode ≠ .idle) : c.event n = c.addLost 1 := if_neg h

theorem IC.src_event_ne (c : IC) (n m : Nat) (hm : m ≠ n) : (c.event n).src m = c.src m := by
  by_cases h : (c.src n).mode = .idle
  case pos => simp [c.event_idle n h, hm]
  case neg => simp [c.event_busy n h]

theorem IC.src_event_same (c : IC) (n : Nat) (h : (c.src n).mode = .idle) :
    (c.event n).src n = { c.src n with mode := .pending } := by
  simp [c.event_idle n h]

theorem IC.lost_event_idle (c : IC) (n : Nat) (h : (c.src n).mode = .idle) : (c.event n).lost = c.lost := by
  simp [c.event_idle n h]

theorem IC.offer?_mem (c : IC) (t n : Nat) (h : c.offer? t = some n) : ∃ x ∈ c.offers, x.2 = n := by
  obtain ⟨x, hx, rfl⟩ := Option.map_eq_some_iff.1 h
  exact ⟨x, List.mem_of_find?_eq_some hx, rfl⟩

/-- R365: a masked source is never offered. -/
theorem IC.masked_of_offer?_reoffer (c : IC) (t n : Nat) (h : c.reoffer.offer? t = some n) :
    (c.src n).masked = false := by
  obtain ⟨x, hx, rfl⟩ := c.reoffer.offer?_mem t n h
  exact (c.offered x hx).2

theorem IC.masked_of_offer?_event (c : IC) (n t m : Nat) (hi : (c.src n).mode = .idle)
    (h : (c.event n).offer? t = some m) : ((c.event n).src m).masked = false := by
  rw [c.event_idle n hi] at h ⊢
  exact IC.masked_of_offer?_reoffer (c.setSrc n _) t m h

theorem State.ic_icEvent (s : State) (n : Nat) (hx : s.x0Lost = false) : (s.icEvent n).ic = s.ic.event n := by
  rw [State.icEvent, if_neg (by simp [hx])]

theorem exec_event (src : BitVec 11) (s : State) (h : srcExists src.toNat = true) :
    exec (.event src) s = .next (s.icEvent src.toNat) :=
  congrArg Host.Outcome.next (if_pos h)

/-! ### Asynchronous latches (R367) -/

/-- The latch of source `n` lets its event go, and the edges lost behind it are counted. -/
def IC.unlatch (c : IC) (n : Nat) : IC :=
  (c.setSrc n { c.src n with latched := false, latchLost := 0 }).addLost (c.src n).latchLost

@[simp] theorem IC.src_unlatch_same (c : IC) (n : Nat) :
    (c.unlatch n).src n = { c.src n with latched := false, latchLost := 0 } := by
  simp [IC.unlatch]

theorem IC.src_unlatch_ne (c : IC) (n m : Nat) (hm : m ≠ n) : (c.unlatch n).src m = c.src m := by
  simp [IC.unlatch, hm]

@[simp] theorem IC.lost_unlatch (c : IC) (n : Nat) :
    (c.unlatch n).lost = min 0xFFFFFFFF (c.lost + (c.src n).latchLost) := rfl

/-- A set latch whose path is free empties, and its event reaches the controller. -/
theorem asyncLatch_sent (n : Nat) (s : State) (hl : (s.ic.src n).latched = true) (hf : s.srcHeld n = false) :
    asyncLatch n s = { s with ic := s.ic.unlatch n }.icEvent n := if_pos (by simp [hl, hf])

theorem ic_asyncLatch_sent (n : Nat) (s : State) (hl : (s.ic.src n).latched = true) (hf : s.srcHeld n = false)
    (hx : s.x0Lost = false) : (asyncLatch n s).ic = (s.ic.unlatch n).event n := by
  rw [asyncLatch_sent n s hl hf]
  exact State.ic_icEvent { s with ic := s.ic.unlatch n } n hx

theorem exec_asyncLatchSend (src : BitVec 11) (s : State) :
    exec (.asyncLatchSend src) s = .next (asyncLatch src.toNat s) := rfl

/-- Settles O7: an event is taken or lost by the state of its source; a latch that empties leaves its source idle for the
event it sends. -/
theorem eventsMakeIdleSourcesPending : Obligations.EventsMakeIdleSourcesPending := by
  unfold Obligations.EventsMakeIdleSourcesPending
  refine ⟨fun src s he hx => ?event, fun src s hl hf hx hi => ?latch⟩
  case event =>
    refine ⟨_, exec_event src s he, only_State_icEvent s _ (Only.refl s) (List.Subset.refl _), ?_⟩
    rw [s.ic_icEvent _ hx]
    refine ⟨s.ic.src_event_ne _, ?_⟩
    split
    case isTrue hi =>
      exact ⟨s.ic.src_event_same _ hi, s.ic.lost_event_idle _ hi, fun u n => s.ic.masked_of_offer?_event _ u n hi⟩
    case isFalse hb =>
      rw [s.ic.event_busy _ hb]
      exact ⟨s.ic.src_addLost 1 _, s.ic.lost_addLost 1⟩
  case latch =>
    have hi' : ((s.ic.unlatch src.toNat).src src.toNat).mode = .idle := by simpa using hi
    refine ⟨_, exec_asyncLatchSend src s, only_asyncLatch _ s (Only.refl s) (List.Subset.refl _), ?_⟩
    rw [ic_asyncLatch_sent _ s hl hf hx]
    refine ⟨?_, fun m hm => ?_, ?_⟩
    · rw [IC.src_event_same _ _ hi', IC.src_unlatch_same]
    · rw [IC.src_event_ne _ _ m hm, IC.src_unlatch_ne _ _ m hm]
    · rw [IC.lost_event_idle _ _ hi', IC.lost_unlatch]

/-! ### Claim and end of interrupt (R371) -/

theorem exec_icAck (target : Fin 8) (s : State) : exec (.icAck target) s = .next (icAckStep target.val s) := rfl

theorem exec_icEoi (target : Fin 8) (value : Word) (s : State) :
    exec (.icEoi target value) s = .next (icEoiStep target.val (value.toNat % 2048) s) := rfl

@[simp] theorem ic_icAckStep (t : Nat) (s : State) : (icAckStep t s).ic = (s.ic.ack t).1 := rfl

@[simp] theorem out_icAckStep (t : Nat) (s : State) : (icAckStep t s).out = .icAck t (s.ic.ack t).2 :: s.out := rfl

theorem IC.eoi_other (c : IC) (t n : Nat) (h : (c.src n).mode ≠ .active t) : c.eoi t n = (c, false) := if_neg h

theorem icEoiStep_active (t n : Nat) (s : State) (h : (s.ic.src n).mode = .active t) :
    icEoiStep t n s = { s with ic := (s.ic.eoi t n).1 } := if_pos (s.ic.eoi_active t n h).1

theorem icEoiStep_other (t n : Nat) (s : State) (h : (s.ic.src n).mode ≠ .active t) :
    icEoiStep t n s = s.accessError 2 0x70 noTenant (0x3F0000000000 + (Reg.icEoi t).off) :=
  if_neg (by simp [s.ic.eoi_other t n h])

/-- Settles O9: a claim by whether its target holds an offer, an end of interrupt by whether the source named is active
on its target. -/
theorem claimAndEndOfInterrupt : Obligations.ClaimAndEndOfInterrupt := by
  unfold Obligations.ClaimAndEndOfInterrupt
  refine ⟨fun target s => ?ack, fun target value s => ?eoi⟩
  case ack =>
    refine ⟨_, exec_icAck target s, only_icAckStep _ s (Only.refl s) (by decide), ?_⟩
    rw [ic_icAckStep, out_icAckStep]
    split
    case h_1 n hn =>
      obtain ⟨hvalue, hlost, hstack, hsrc⟩ := s.ic.ack_some target.val n hn
      exact ⟨hlost, by rw [hsrc, if_pos rfl], fun m hm => by rw [hsrc, if_neg hm], hstack, by rw [hvalue]⟩
    case h_2 hn =>
      rw [s.ic.ack_none target.val hn]
      exact ⟨rfl, rfl, rfl⟩
  case eoi =>
    refine ⟨_, exec_icEoi target value s, only_icEoiStep _ _ s (Only.refl s) (List.Subset.refl _), ?_⟩
    dsimp only
    split
    case isTrue h =>
      obtain ⟨-, hlost, hstack, hsrc⟩ := s.ic.eoi_active target.val _ h
      rw [icEoiStep_active _ _ s h]
      exact ⟨hlost, by rw [hsrc, if_pos rfl], fun m hm => by rw [hsrc, if_neg hm], hstack, rfl, rfl⟩
    case isFalse h =>
      rw [icEoiStep_other _ _ s h]
      exact ⟨rfl, rfl, rfl⟩

end Sys2Proof.Machine
end

section
/-! The queue and what every command keeps: from the fact that each command keeps the make, the queue and the canonical
forms, the rules of a step. -/

namespace Sys2Proof.Machine

/-- Every command answers a state, with the same make and queue and in canonical form if it was so before. -/
theorem exec_keeps : ∀ (c : Instr) (s : State), ∃ t, exec c s = .next t ∧ Keeps s t
  | .registerWrite _ _, s => keeps_execRegisterWrite _ _ s
  | .read _, s => keeps_execRead _ s
  | .atomicAdd _, s => keeps_execAtomicAdd _ s
  | .write _, s => keeps_execWrite _ s
  | .writeNp _, s => keeps_execWriteNp _ s
  | .fabricFence _, s => keeps_execFabricFence _ s
  | .dataRsp _, s => keeps_execDataRsp _ s
  | .ackRsp _, s => keeps_execAckRsp _ s
  | .errorRsp _, s => keeps_execErrorRsp _ s
  | .event _, s => keeps_execEvent _ s
  | .leaseRevoke _ _, s => keeps_execLeaseRevoke _ _ s
  | .quiesce _ _ _, s => keeps_execQuiesce _ _ _ s
  | .credit _ _ _, s => keeps_execCredit _ _ _ s
  | .cap _ _, s => keeps_execCap _ _ s
  | .faultLogEntry _, s => keeps_execFaultLogEntry _ s
  | .voylaCrcError _ _ _ _, s => keeps_execVoylaCrcError _ _ _ _ s
  | .fabricTimeout _ _, s => keeps_execFabricTimeout _ _ s
  | .routeDetour, s => keeps_execRouteDetour s
  | .guestTrainingTimeout _, s => keeps_execGuestTrainingTimeout _ s
  | .guestEnable _ _, s => keeps_execGuestEnable _ _ s
  | .resetLink _, s => keeps_execResetLink _ s
  | .guestLinkDown _, s => keeps_execGuestLinkDown _ s
  | .spanFrame _ _, s => keeps_execSpanFrame _ _ s
  | .laneLoss _ _, s => keeps_execLaneLoss _ _ s
  | .holdTimeout _, s => keeps_execHoldTimeout _ s
  | .spanNoPeer _, s => keeps_execSpanNoPeer _ s
  | .spanRouteRemoval _, s => keeps_execSpanRouteRemoval _ s
  | .retrain _, s => keeps_execRetrain _ s
  | .spnCtlEnable _ _, s => keeps_execSpnCtlEnable _ _ s
  | .undervoltageStop _, s => keeps_execUndervoltageStop _ s
  | .undervoltageResume _, s => keeps_execUndervoltageResume _ s
  | .undervoltageTowerLoss _, s => keeps_execUndervoltageTowerLoss _ s
  | .timebaseTick, s => keeps_execTimebaseTick s
  | .timebaseFirstLock, s => keeps_execTimebaseFirstLock s
  | .timerefLoss, s => keeps_execTimerefLoss s
  | .timerefRelock, s => keeps_execTimerefRelock s
  | .syncLoad, s => keeps_execSyncLoad s
  | .arm, s => keeps_execArm s
  | .disarm, s => keeps_execDisarm s
  | .bankRefresh _ _, s => keeps_execBankRefresh _ _ s
  | .refreshComplete _ _, s => keeps_execRefreshComplete _ _ s
  | .stepmonMeasurement _ _, s => keeps_execStepmonMeasurement _ _ s
  | .stepmonWindowEnd _, s => keeps_execStepmonWindowEnd _ s
  | .matmul _ _, s => keeps_execMatmul _ _ s
  | .shadowLoad _ _, s => keeps_execShadowLoad _ _ s
  | .swap _ _, s => keeps_execSwap _ _ s
  | .rowBroadcast _, s => keeps_execRowBroadcast _ s
  | .vchain _ _, s => keeps_execVchain _ _ s
  | .vchainBeat _, s => keeps_execVchainBeat _ s
  | .qsWindowEnd _ _, s => keeps_execQsWindowEnd _ _ s
  | .coreQsctlWrite _ _ _, s => keeps_execCoreQsctlWrite _ _ _ s
  | .coreQsctlClear _ _ _, s => keeps_execCoreQsctlClear _ _ _ s
  | .excClear _ _, s => keeps_execExcClear _ _ s
  | .partialCmd _ _ _ _, s => keeps_execPartialCmd _ _ _ _ s
  | .bankCommandStart _ _ _, s => keeps_execBankCommandStart _ _ _ s
  | .computeActivation _, s => keeps_execComputeActivation _ s
  | .bankCommandDone _ _ _, s => keeps_execBankCommandDone _ _ _ s
  | .bankPause _, s => keeps_execBankPause _ s
  | .bankResume _, s => keeps_execBankResume _ s
  | .bankOrdinaryAccess core bank, s => keeps_execBankOrdinaryAccess core bank s
  | .bedFence _ _, s => keeps_execBedFence _ _ s
  | .bedCtlCancel _ _, s => keeps_execBedCtlCancel _ _ s
  | .bedCtlClear _ _, s => keeps_execBedCtlClear _ _ s
  | .bedModeWrite _ _, s => keeps_execBedModeWrite _ _ s
  | .bedModeChangeComplete _, s => keeps_execBedModeChangeComplete _ s
  | .bedLimitWrite _ _ _, s => keeps_execBedLimitWrite _ _ _ s
  | .attend _ _, s => keeps_execAttend _ _ s
  | .kvAppend _ _, s => keeps_execKvAppend _ _ s
  | .kvScatter _ _, s => keeps_execKvScatter _ _ s
  | .bankAttend _ _, s => keeps_execBankAttend _ _ s
  | .bankPartialFold _ _ _, s => keeps_execBankPartialFold _ _ _ s
  | .merge _ _, s => keeps_execMerge _ _ s
  | .copy _ _, s => keeps_execCopy _ _ s
  | .gather _ _, s => keeps_execGather _ _ s
  | .digestOp _ _, s => keeps_execDigestOp _ _ s
  | .sample _ _, s => keeps_execSample _ _ s
  | .bankFence _ _, s => keeps_execBankFence _ _ s
  | .fence _ _, s => keeps_execFence _ _ s
  | .signal _ _, s => keeps_execSignal _ _ s
  | .wait _ _, s => keeps_execWait _ _ s
  | .waitPoll _, s => keeps_execWaitPoll _ s
  | .waitTimeout _, s => keeps_execWaitTimeout _ s
  | .launchAt _ _, s => keeps_execLaunchAt _ _ s
  | .launchAtRelease _, s => keeps_execLaunchAtRelease _ s
  | .endOp _ _, s => keeps_execEndOp _ _ s
  | .operationComplete _ _, s => keeps_execOperationComplete _ _ s
  | .preemptionRequest _, s => keeps_execPreemptionRequest _ s
  | .tileBoundaryStop _ _, s => keeps_execTileBoundaryStop _ _ s
  | .resumeRecordWrite _, s => keeps_execResumeRecordWrite _ s
  | .listResume _, s => keeps_execListResume _ s
  | .stackChannelFailureReport _ _, s => keeps_execStackChannelFailureReport _ _ s
  | .channelPhyTimeout _ _, s => keeps_execChannelPhyTimeout _ _ s
  | .scrubRead _, s => keeps_execScrubRead _ s
  | .scrubLapEnd _, s => keeps_execScrubLapEnd _ s
  | .scrubLate _, s => keeps_execScrubLate _ s
  | .stackTempRead _ _ _, s => keeps_execStackTempRead _ _ _ s
  | .stackHotClear _, s => keeps_execStackHotClear _ s
  | .hello _, s => keeps_execHello _ s
  | .segAlloc _, s => keeps_execSegAlloc _ s
  | .segFree _, s => keeps_execSegFree _ s
  | .segShare _, s => keeps_execSegShare _ s
  | .segAttach _, s => keeps_execSegAttach _ s
  | .submit _, s => keeps_execSubmit _ s
  | .cancel _, s => keeps_execCancel _ s
  | .transfer _ _, s => keeps_execTransfer _ _ s
  | .policy _, s => keeps_execPolicy _ s
  | .floorplan _ _, s => keeps_execFloorplan _ _ s
  | .countersRead _ _, s => keeps_execCountersRead _ _ s
  | .countersSelect _, s => keeps_execCountersSelect _ s
  | .traceStart _, s => keeps_execTraceStart _ s
  | .traceStop _, s => keeps_execTraceStop _ s
  | .traceFlush _, s => keeps_execTraceFlush _ s
  | .timesyncRead _, s => keeps_execTimesyncRead _ s
  | .timesyncArm _, s => keeps_execTimesyncArm _ s
  | .waitgraph _ _, s => keeps_execWaitgraph _ _ s
  | .tenantReset _, s => keeps_execTenantReset _ s
  | .reservedSlipOpcode _, s => keeps_execReservedSlipOpcode _ s
  | .doorbell _ _, s => keeps_execDoorbell _ _ s
  | .cqHeadWrite _ _, s => keeps_execCqHeadWrite _ _ s
  | .heldNoticeWrite _, s => keeps_execHeldNoticeWrite _ s
  | .vector0 _, s => keeps_execVector0 _ s
  | .fatalVector, s => keeps_execFatalVector s
  | .heartbeatReload, s => keeps_execHeartbeatReload s
  | .heartbeatTimeout, s => keeps_execHeartbeatTimeout s
  | .failover, s => keeps_execFailover s
  | .standbyHeartbeatTimeout, s => keeps_execStandbyHeartbeatTimeout s
  | .functionLevelReset _, s => keeps_execFunctionLevelReset _ s
  | .numvfsChange _ _, s => keeps_execNumvfsChange _ _ s
  | .listAdmission, s => keeps_execListAdmission s
  | .powerPreemption, s => keeps_execPowerPreemption s
  | .idlePowerMeasurement _ _, s => keeps_execIdlePowerMeasurement _ _ s
  | .bankLimitUpdate _, s => keeps_execBankLimitUpdate _ s
  | .stackIdlePause, s => keeps_execStackIdlePause s
  | .segmentRemoval _ _, s => keeps_execSegmentRemoval _ _ s
  | .zeroing, s => keeps_execZeroing s
  | .transferGranule _ _ _, s => keeps_execTransferGranule _ _ _ s
  | .lseRevokeWrite _ _, s => keeps_execLseRevokeWrite _ _ s
  | .revocationComplete, s => keeps_execRevocationComplete s
  | .revocationAckTimeout _, s => keeps_execRevocationAckTimeout _ s
  | .resetNRelease _ _, s => keeps_execResetNRelease _ _ s
  | .resetNAssert, s => keeps_execResetNAssert s
  | .perstN _ _, s => keeps_execPerstN _ _ s
  | .vauxRise, s => keeps_execVauxRise s
  | .vauxLoss, s => keeps_execVauxLoss s
  | .onRequest _ _, s => keeps_execOnRequest _ _ s
  | .offRequest _ _, s => keeps_execOffRequest _ _ s
  | .vregCtlClear _ _, s => keeps_execVregCtlClear _ _ s
  | .rampComplete _, s => keeps_execRampComplete _ s
  | .rampFailure _ _, s => keeps_execRampFailure _ _ s
  | .fuseLoad _, s => keeps_execFuseLoad _ s
  | .dischargeComplete _, s => keeps_execDischargeComplete _ s
  | .phaseDrop _ _ _ _, s => keeps_execPhaseDrop _ _ _ _ s
  | .vinAlert, s => keeps_execVinAlert s
  | .envelopeReturn, s => keeps_execEnvelopeReturn s
  | .brownout _, s => keeps_execBrownout _ s
  | .sensorConversion _ _, s => keeps_execSensorConversion _ _ s
  | .sensorFailure _ _, s => keeps_execSensorFailure _ _ s
  | .throttleUpdate _, s => keeps_execThrottleUpdate _ s
  | .thermalFlagClear _ _, s => keeps_execThermalFlagClear _ _ s
  | .rthEstimation _ _, s => keeps_execRthEstimation _ _ s
  | .thermistorConversion _ _, s => keeps_execThermistorConversion _ _ s
  | .governorEvaluation _ _ _, s => keeps_execGovernorEvaluation _ _ _ s
  | .floorPlanUpdate, s => keeps_execFloorPlanUpdate s
  | .icPendSet _ _, s => keeps_execIcPendSet _ _ s
  | .icPendClr _ _, s => keeps_execIcPendClr _ _ s
  | .icMaskSet _ _, s => keeps_execIcMaskSet _ _ s
  | .icMaskClr _ _, s => keeps_execIcMaskClr _ _ s
  | .icTgtEnSet _, s => keeps_execIcTgtEnSet _ s
  | .icTgtEnClr _, s => keeps_execIcTgtEnClr _ s
  | .icAck _, s => keeps_execIcAck _ s
  | .icEoi _ _, s => keeps_execIcEoi _ _ s
  | .asyncLatchSend _, s => keeps_execAsyncLatchSend _ s
  | .fuses, s => keeps_execFuses s
  | .power _ _, s => keeps_execPower _ _ s
  | .links _, s => keeps_execLinks _ s
  | .memtest _, s => keeps_execMemtest _ s
  | .selftest _, s => keeps_execSelftest _ s
  | .firmware _ _, s => keeps_execFirmware _ _ s
  | .fwStartTimeout, s => keeps_execFwStartTimeout s
  | .publish _, s => keeps_execPublish _ s
  | .towerOff, s => keeps_execTowerOff s
  | .reservedBootCommand _, s => keeps_execReservedBootCommand _ s
  | .bootStepComplete, s => keeps_execBootStepComplete s
  | .flogCtlClear _, s => keeps_execFlogCtlClear _ s
  | .i3cIndexWrite _ _, s => keeps_execI3cIndexWrite _ _ s
  | .i3cRead _, s => keeps_execI3cRead _ s
  | .ctrSelWrite _ _ _, s => keeps_execCtrSelWrite _ _ _ s
  | .traceRecord _ _, s => keeps_execTraceRecord _ _ s
  | .tenantWatchdog _, s => keeps_execTenantWatchdog _ s
  | .watchdogWaitEnd _, s => keeps_execWatchdogWaitEnd _ s
  | .coreSample, s => keeps_execCoreSample s
  | .coreSampleComplete _ _, s => keeps_execCoreSampleComplete _ _ s
  | .indicatorTestPulse _ _, s => keeps_execIndicatorTestPulse _ _ s
  | .bypass _, s => keeps_execBypass _ s
  | .idcode, s => keeps_execIdcode s
  | .samplePreload, s => keeps_execSamplePreload s
  | .controlSramUncorrectable _ _, s => keeps_execControlSramUncorrectable _ _ s
  | .pcieCompletionTimeout _, s => keeps_execPcieCompletionTimeout _ s
  | .vinAlertRelease, s => keeps_execVinAlertRelease s
  | .spareLaneLock _, s => keeps_execSpareLaneLock _ s
  | .spanPortTrained _ _, s => keeps_execSpanPortTrained _ _ s
  | .guestLinkUp _ _ _, s => keeps_execGuestLinkUp _ _ _ s

/-- A step idles on an empty queue; otherwise it carries out the front command on the state with the rest of the queue. -/
theorem step_cases {s t : State} (h : step s = .next t) :
    (s.pending = [] ∧ t = s) ∨ ∃ c rest, s.pending = c :: rest ∧ Keeps { s with pending := rest } t := by
  unfold step at h
  split at h
  next hp => exact .inl ⟨hp, (Host.Outcome.next.inj h).symm⟩
  next c rest hp =>
    obtain ⟨u, hu, hk⟩ := exec_keeps c { s with pending := rest }
    rw [hu] at h
    exact .inr ⟨c, rest, hp, Host.Outcome.next.inj h ▸ hk⟩

/-- Settles O3: idling keeps the canonical forms, and so does every command. -/
theorem everyStepKeepsTheCanonicalForm : Obligations.EveryStepKeepsTheCanonicalForm := by
  unfold Obligations.EveryStepKeepsTheCanonicalForm
  rintro s t ⟨hmem, hregs⟩ h
  obtain ⟨-, rfl⟩ | ⟨c, rest, -, hk⟩ := step_cases h
  · exact ⟨hmem, hregs⟩
  · exact ⟨hk.mem hmem, hk.regs hregs⟩

/-- Settles O5: idling leaves an empty queue empty, and a command leaves the rest of the queue and the fuses. -/
theorem everyStepTakesOneCommand : Obligations.EveryStepTakesOneCommand := by
  unfold Obligations.EveryStepTakesOneCommand
  intro s t h
  obtain ⟨hp, rfl⟩ | ⟨c, rest, hp, hk⟩ := step_cases h
  · rw [hp]
    exact ⟨rfl, rfl⟩
  · rw [hp]
    exact ⟨hk.pending, hk.fuses⟩

/-- Settles O1: both clauses are the two branches of the step. -/
theorem stepRunsTheFrontCommand : Obligations.StepRunsTheFrontCommand := by
  unfold Obligations.StepRunsTheFrontCommand
  refine ⟨fun c rest s hp => ?_, fun s hp => ?_⟩
  · rw [step, hp]
  · rw [step, hp]

/-- Settles O2: every command's frame comes with the state that it answers. -/
theorem everyCommandAnswers : Obligations.EveryCommandAnswers := by
  unfold Obligations.EveryCommandAnswers
  intro c s
  obtain ⟨t, ht, -⟩ := exec_keeps c s
  exact ⟨t, ht⟩

/-- Settles O4: every map of the state at reset is empty. -/
theorem resetIsCanonical : Obligations.ResetIsCanonical := by
  unfold Obligations.ResetIsCanonical
  exact ⟨rfl, rfl⟩

end Sys2Proof.Machine
end

section
/-! The fault log's commands (R412 to R416) and the set and clear registers of the interrupt controller (R371). -/

namespace Sys2Proof.Machine

/-- The frame of a command, for the state that it answers. -/
theorem Only.ofExec {Ps : List Piece} {Ks : List RegKind} {s t : State} {o : Host.Outcome State Fault Refusal}
    (h : ∃ u, o = .next u ∧ Only Ps Ks s u) (ht : o = .next t) : Only Ps Ks s t := by
  obtain ⟨u, hu, ho⟩ := h
  exact Host.Outcome.next.inj (hu.symm.trans ht) ▸ ho

/-! ### Fault log -/

theorem flogClear_eq (x : Nat) (hx : x < 2) (s : State) :
    flogClear x s = { s with flog0 := if x = 0 then s.flog0.cleared else s.flog0
                             flog1 := if x = 1 then s.flog1.cleared else s.flog1 } := by
  obtain rfl | rfl : x = 0 ∨ x = 1 := by omega
  · rfl
  · rfl

/-- The state after index `i` has been selected in copy `x` of the fault log. -/
def selectIndex (x i : Nat) (s : State) : State :=
  { s with flog0 := if x = 0 then { s.flog0 with i3cIndex := i } else s.flog0
           flog1 := if x = 1 then { s.flog1 with i3cIndex := i } else s.flog1 }

theorem exec_i3cIndexWrite (x : Fin 2) (index : BitVec 16) (s : State) :
    exec (.i3cIndexWrite x index) s = .next (selectIndex x.val index.toNat s) := by
  obtain h | h : x = 0 ∨ x = 1 := by omega
  · subst h; rfl
  · subst h; rfl

/-- The bytes that a read of copy `x` gives. -/
def i3cData (x : Nat) (s : State) : List Byte :=
  let f := if x = 0 then s.flog0 else s.flog1
  if f.i3cIndex = 0xFFFF then s.statusBlock f
  else if f.i3cIndex < 8192 then f.slotBytes f.i3cIndex else List.replicate 32 0

theorem exec_i3cRead (x : Fin 2) (s : State) : exec (.i3cRead x) s = .next (s.emit (.i3c (i3cData x.val s))) := rfl

/-- Settles O6: an entry is taken by each writer, and each selection is what the next read returns. -/
theorem faultLogTakesAndShowsEntries : Obligations.FaultLogTakesAndShowsEntries := by
  unfold Obligations.FaultLogTakesAndShowsEntries
  refine ⟨⟨fun e s => ?entry, fun x s => ?clear⟩, fun x index s => ?select, fun x s => ?read⟩
  case entry =>
    exact ⟨_, rfl, Only.ofExec (only_execFaultLogEntry e s) rfl, s.logs_logEntry e⟩
  case clear =>
    refine ⟨_, rfl, Only.ofExec (only_execFlogCtlClear x s) rfl, ?_⟩
    rw [flogClear_eq _ x.isLt]
    exact ⟨rfl, rfl⟩
  case select =>
    have h := exec_i3cIndexWrite x index s
    exact ⟨_, h, Only.ofExec (only_execI3cIndexWrite x index s) h, rfl, rfl⟩
  case read =>
    refine ⟨_, exec_i3cRead x s, Only.ofExec (only_execI3cRead x s) rfl, _, rfl, fun hslot => ?_, fun hblock => ?_⟩
    · rw [i3cData, if_neg (by omega), if_pos hslot]
      rfl
    · rw [i3cData, if_pos hblock]
      rfl

/-! ### Set and clear registers of the interrupt controller -/

theorem Claims_named_iff (n m : Nat) (value : Word) :
    Claims.named n value m = true ↔ m / 32 = n ∧ nbit value.toNat (m % 32) = true := by
  simp [Claims.named]

/-- A register's change reaches the named sources. -/
theorem IC.src_each_named (c : IC) (n : Nat) (value : Word) (f : Src → Src) (m : Nat) :
    (c.each n value.toNat f).src m = if Claims.named n value m then f (c.src m) else c.src m := by
  rw [IC.src_each]
  simp only [Claims_named_iff]

/-- A change that acts on a source only where `p` holds. -/
theorem IC.src_each_where (c : IC) (n : Nat) (value : Word) (p : Src → Prop) [DecidablePred p] (f : Src → Src) (m : Nat) :
    (c.each n value.toNat fun x => if p x then f x else x).src m =
      if Claims.named n value m && decide (p (c.src m)) then f (c.src m) else c.src m := by
  rw [IC.src_each_named]
  by_cases hn : Claims.named n value m = true
  · by_cases hp : p (c.src m)
    · simp [hn, hp]
    · simp [hn, hp]
  · simp [hn]

theorem nbit_low_byte (v b : Nat) : nbit (v % 256) b = (decide (b < 8) && nbit v b) := nbit_mod v 8 b

/-- Settles O8: what each register does to a source or target that its word names, and to one that it does not. -/
theorem controllerRegistersActBitByBit : Obligations.ControllerRegistersActBitByBit := by
  unfold Obligations.ControllerRegistersActBitByBit
  refine ⟨fun n value s => ⟨?pendSet, ?pendClr, ?maskSet, ?maskClr⟩, fun value s => ⟨?enable, ?disable⟩⟩
  case pendSet =>
    exact ⟨_, rfl, Only.ofExec (only_execIcPendSet n value s) rfl,
      s.ic.src_each_where n.val value (·.mode = .idle) fun x => { x with mode := .pending }⟩
  case pendClr =>
    exact ⟨_, rfl, Only.ofExec (only_execIcPendClr n value s) rfl,
      s.ic.src_each_where n.val value (·.mode = .pending) fun x => { x with mode := .idle }⟩
  case maskSet =>
    exact ⟨_, rfl, Only.ofExec (only_execIcMaskSet n value s) rfl,
      s.ic.src_each_named n.val value fun x => { x with masked := true }⟩
  case maskClr =>
    exact ⟨_, rfl, Only.ofExec (only_execIcMaskClr n value s) rfl,
      s.ic.src_each_named n.val value fun x => { x with masked := false }⟩
  case enable =>
    refine ⟨_, rfl, Only.ofExec (only_execIcTgtEnSet value s) rfl, fun _ => rfl, fun b => ?_⟩
    exact (nbit_lor s.ic.tgtEn _ b).trans (by rw [nbit_low_byte])
  case disable =>
    refine ⟨_, rfl, Only.ofExec (only_execIcTgtEnClr value s) rfl, fun _ => rfl, fun b => ?_⟩
    exact (nbit_clear s.ic.tgtEn _ b).trans (by rw [nbit_low_byte])

end Sys2Proof.Machine
end

section
/-! How firmware takes and answers a slip (R287, R290 to R297): one rule for a slip that is taken, one for each answer before
its action, and one for what an answer leaves in the mailbox. From them the checks of every slip command and HELLO. -/

namespace Sys2Proof.Machine

/-! ### Taking a slip -/

/-- The mailbox once firmware has taken the slip at its head. -/
def Mailbox.taking (m : Mailbox) (x : Slip) : Mailbox :=
  { m with sqHead := (m.sqHead + 1) % 2 ^ 32
           live := m.live ++ [{ opcode := x.opcode, tag := x.tag, quiet := x.quiet }] }

theorem State.mb_take (s : State) (x : Slip) (u : Nat) :
    (s.take x).mb u = if u = x.t then (s.mb x.t).taking x else s.mb u := s.mb_setMb x.t _ u

@[simp] theorem State.mb_take_same (s : State) (x : Slip) : (s.take x).mb x.t = (s.mb x.t).taking x := by
  rw [s.mb_take, if_pos rfl]

theorem State.mb_take_ne (s : State) (x : Slip) (u : Nat) (h : u ≠ x.t) : (s.take x).mb u = s.mb u := by
  rw [s.mb_take, if_neg h]

theorem sub32_self (a : Nat) : sub32 a a = 0 := by unfold sub32; omega

theorem sub32_lt (a b : Nat) : sub32 a b < 2 ^ 32 := Nat.mod_lt _ (by decide)

/-- R287, R291: a slip that can be taken finds firmware alive, room in the ring and a tail that is not the head. -/
theorem State.canTakeSlip_room (s : State) (t : Nat) (h : s.canTakeSlip t = true) :
    s.alive = true ∧ (s.mb t).u + (s.mb t).a ≤ 28 ∧ (s.mb t).sqHead ≠ (s.mb t).sqTail := by
  simp only [State.canTakeSlip, Mailbox.canTake, Bool.and_eq_true, decide_eq_true_eq] at h
  obtain ⟨⟨⟨⟨⟨⟨halive, -⟩, -⟩, -⟩, hwait⟩, hroom⟩, -⟩ := h
  refine ⟨halive, hroom, fun e => ?_⟩
  rw [Mailbox.waiting, e, sub32_self] at hwait
  exact Nat.lt_irrefl 0 hwait

section
variable {s : State} {x : Slip} {isOp : Nat → Bool} {pf : Bool} {named : List (Nat × Nat)} {act : State → State}

theorem State.withSlip_idle (h : (s.canTakeSlip x.t && decide (x.bytes.length = 64) && isOp x.opcode) = false) :
    s.withSlip x isOp pf named act = s := if_pos (by rw [h]; rfl)

/-- R296: the order in which a slip that is taken is checked. -/
theorem State.withSlip_taken (h : (s.canTakeSlip x.t && decide (x.bytes.length = 64) && isOp x.opcode) = true) :
    s.withSlip x isOp pf named act =
      if (decide (x.opcode ≠ 1) && !(s.mb x.t).session) = true then (s.take x).answer x stNoSession []
      else if (pf && decide (x.t ≠ 0)) = true then (s.take x).answer x stDenied []
      else if (!x.clean named) = true then (s.take x).answer x stMalformed []
      else act (s.take x) := if_neg (by rw [h]; decide)

end

/-- The row of a command: it hands the slip to the checks under its own opcode. -/
def isOpcode (op o : Nat) : Bool := decide (o = op)

theorem State.withSlip_untaken {s : State} {x : Slip} {op : Nat} {pf : Bool} {named : List (Nat × Nat)}
    {act : State → State} (h : Claims.taken s x op = false) : s.withSlip x (isOpcode op) pf named act = s :=
  State.withSlip_idle h

/-- R296: the checks of a slip that is taken under its own opcode. -/
theorem State.withSlip_checked {s : State} {x : Slip} {op : Nat} {pf : Bool} {named : List (Nat × Nat)}
    {act : State → State} (h : Claims.taken s x op = true) :
    s.withSlip x (isOpcode op) pf named act =
      if (decide (x.opcode ≠ 1) && !(s.mb x.t).session) = true then (s.take x).answer x stNoSession []
      else if (pf && decide (x.t ≠ 0)) = true then (s.take x).answer x stDenied []
      else if (!x.clean named) = true then (s.take x).answer x stMalformed []
      else act (s.take x) := State.withSlip_taken h

/-- R296: an accepted slip comes to its action. -/
theorem State.withSlip_accepted {s : State} {x : Slip} {op : Nat} {pf : Bool} {named : List (Nat × Nat)}
    {act : State → State} (h : Claims.accepted s x op named = true) (hpf : pf = true → x.t = 0) :
    s.withSlip x (isOpcode op) pf named act = act (s.take x) := by
  simp only [Claims.accepted, Bool.and_eq_true] at h
  obtain ⟨⟨htaken, hsession⟩, hclean⟩ := h
  rw [State.withSlip_checked htaken, hsession, hclean]
  cases pf with
  | false => simp
  | true => simp [hpf rfl]

/-! ### Answering a slip -/

theorem rdB_wrBytes_completion_outside (c : Memory) (a j : Nat) (m : Mailbox) (opcode tag status : Nat) (body : List Byte)
    (h : j < a ∨ a + 64 ≤ j) : rdB (wrBytes c a (Claims.completion m opcode tag status body)) j = rdB c j :=
  rdB_wrBytes_outside _ _ _ _ (by rwa [length_completion])

/-- The mailbox after a completion for a slip that took the place of the newest live one. -/
theorem State.mb_answer_same (u : State) (x : Slip) (m : Mailbox) (status : Nat) (body : List Byte)
    (h : u.mb x.t = m.taking x) :
    (u.answer x status body).mb x.t =
      { m with sqHead := (m.sqHead + 1) % 2 ^ 32
               cqTail := (m.cqTail + 1) % 2 ^ 32
               cq := wrBytes m.cq (m.cqTail % 32 * 64) (Claims.completion m x.opcode x.tag status body)
               vec0 := if m.irq && !x.quiet then m.vec0.request else m.vec0 } := by
  have hset : (u.answer x status body).mb x.t =
      (let m1 := { u.mb x.t with live := (u.mb x.t).live.dropLast }.writeSlip x.opcode status x.tag body
       if x.quiet then m1 else m1.askVector) := by
    show (State.setMb u x.t _).mb x.t = _
    rw [State.mb_setMb, if_pos rfl]
  rw [hset, h]
  simp only [Mailbox.taking, List.dropLast_concat, Mailbox.writeSlip_eq, Claims.completion, Mailbox.askVector_eq]
  cases x.quiet <;> simp

theorem State.mb_answer_ne (u : State) (x : Slip) (status : Nat) (body : List Byte) (v : Nat) (h : v ≠ x.t) :
    (u.answer x status body).mb v = u.mb v := by
  show (State.setMb u x.t _).mb v = _
  rw [State.mb_setMb, if_neg h]

/-- R287, R290 to R292: what an answer is, for an action that leaves the rings of its mailbox and every other mailbox. -/
theorem answered_answer {s u : State} {x : Slip} {m : Mailbox} (status : Nat) (body : List Byte)
    (h : u.mb x.t = m.taking x) (ho : ∀ v, v ≠ x.t → u.mb v = s.mb v) :
    Claims.answered m s (u.answer x status body) x status body := by
  have hm := u.mb_answer_same x m status body h
  have hcq : ((u.answer x status body).mb x.t).cq =
      wrBytes m.cq (m.cqTail % 32 * 64) (Claims.completion m x.opcode x.tag status body) := by rw [hm]
  refine ⟨by rw [hm], ?_, fun a ha => ?_, fun v hv => ?_⟩
  · rw [hcq, rdBytes_wrBytes_completion]
  · rw [hcq, rdB_wrBytes_completion_outside _ _ _ _ _ _ _ _ ha]
  · rw [u.mb_answer_ne x status body v hv, ho v hv]

theorem answered_take_answer (s : State) (x : Slip) (status : Nat) (body : List Byte) :
    Claims.answered (s.mb x.t) s ((s.take x).answer x status body) x status body :=
  answered_answer status body (s.mb_take_same x) (s.mb_take_ne x)

theorem only_take_answer (s : State) (x : Slip) (status : Nat) (body : List Byte) :
    Only [.mbox, .progress, .watchdogs] [] s ((s.take x).answer x status body) :=
  only_State_answer _ x status body (only_State_take s x (Only.refl s) (by decide)) (by decide)

/-! ### The checks of every slip command -/

theorem row_inj {α β γ δ : Type} {a a' : α} {b b' : β} {c c' : γ} {d d' : δ}
    (h : some (a, b, c, d) = some (a', b', c', d')) : a = a' ∧ b = b' ∧ c = c' ∧ d = d' := by
  simpa only [Option.some.injEq, Prod.mk.injEq] using h

/-- Every slip command hands its slip to the checks under the opcode, the function rule and the fields of its row. -/
theorem exec_slipRow (c : Instr) (s : State) (x : Slip) (op : Nat) (pf : Bool) (fields : List (Nat × Nat))
    (h : Claims.slipRow s c = some (x, op, pf, fields)) :
    ∃ act, exec c s = .next (s.withSlip x (isOpcode op) pf fields act) := by
  unfold Claims.slipRow at h
  split at h
  case h_1 | h_2 | h_3 | h_4 | h_5 | h_6 | h_7 | h_9 | h_10 | h_18 | h_19 =>
    obtain ⟨rfl, rfl, rfl, rfl⟩ := row_inj h
    exact ⟨_, rfl⟩
  case h_8 | h_11 | h_12 | h_14 | h_16 =>
    split at h
    next => contradiction
    next hc =>
      obtain ⟨rfl, rfl, rfl, rfl⟩ := row_inj h
      exact ⟨_, congrArg Host.Outcome.next (if_neg hc)⟩
  case h_13 | h_15 =>
    split at h
    next hc =>
      obtain ⟨rfl, rfl, rfl, rfl⟩ := row_inj h
      exact ⟨_, congrArg Host.Outcome.next (if_neg (not_not_intro hc))⟩
    next => contradiction
  case h_17 =>
    split at h
    next hc =>
      obtain ⟨rfl, rfl, rfl, rfl⟩ := row_inj h
      exact ⟨_, congrArg Host.Outcome.next (if_pos hc)⟩
    next => contradiction
  case h_20 => contradiction

theorem exec_reservedSlipOpcode (x : Slip) (s : State) : exec (.reservedSlipOpcode x) s =
    .next (s.withSlip x (fun o => !slipOpcodeKnown o) false [] fun u => u.answer x stMalformed []) := rfl

theorem slipOpcodeKnown_reserved (o : Nat) (h : o = 0 ∨ 15 < o) : slipOpcodeKnown o = false := by
  unfold slipOpcodeKnown
  simp only [Bool.and_eq_false_iff, decide_eq_false_iff_not]
  omega

/-- R296: a reserved opcode is malformed, whatever its fields hold. -/
theorem State.withSlip_reserved (s : State) (x : Slip) (htaken : Claims.taken s x x.opcode = true)
    (h : x.opcode = 0 ∨ 15 < x.opcode) :
    s.withSlip x (fun o => !slipOpcodeKnown o) false [] (fun u => u.answer x stMalformed []) =
      (s.take x).answer x (if (s.mb x.t).session then 1 else 2) [] := by
  have hne : x.opcode ≠ 1 := by omega
  have hcan : (s.canTakeSlip x.t && decide (x.bytes.length = 64) && !slipOpcodeKnown x.opcode) = true := by
    simpa [Claims.taken, slipOpcodeKnown_reserved _ h] using htaken
  rw [State.withSlip_taken hcan]
  cases hs : (s.mb x.t).session with
  | false => rw [if_pos (by simp [hne])]; rfl
  | true =>
    rw [if_neg (by simp), if_neg (by simp), ite_self]
    rfl

/-- Settles O12: the checks of a slip that is taken, in their order, each with the answer that it gives. -/
theorem slipsAreCheckedBeforeTheyAct : Obligations.SlipsAreCheckedBeforeTheyAct := by
  unfold Obligations.SlipsAreCheckedBeforeTheyAct
  refine ⟨fun c s x op pf fields hrow => ?_, fun x s htaken hop => ?_⟩
  · obtain ⟨act, hexec⟩ := exec_slipRow c s x op pf fields hrow
    have answers : ∀ status, s.withSlip x (isOpcode op) pf fields act = (s.take x).answer x status [] →
        ∃ t, exec c s = .next t ∧ Only [.mbox, .progress, .watchdogs] [] s t ∧
          Claims.answered (s.mb x.t) s t x status [] := fun status h =>
      ⟨_, hexec.trans (congrArg _ h), only_take_answer s x status [], answered_take_answer s x status []⟩
    have opcode_of : Claims.taken s x op = true → x.opcode = op := fun h =>
      of_decide_eq_true (Bool.and_eq_true_iff.1 h).2
    refine ⟨s.canTakeSlip_room x.t, fun hidle => ?idle, fun htaken hop hses => answers 2 ?session,
      fun htaken hses hpf ht => answers 4 ?denied, fun htaken hses hpf hclean => answers 1 ?malformed⟩
    case idle => rw [hexec, State.withSlip_untaken hidle]
    case session =>
      rw [State.withSlip_checked htaken, if_pos (by simp [opcode_of htaken, hop, hses])]
      rfl
    case denied =>
      rw [State.withSlip_checked htaken, if_neg (by simp [hses]), if_pos (by simp [hpf, ht])]
      rfl
    case malformed =>
      have h1 : ¬ (decide (x.opcode ≠ 1) && !(s.mb x.t).session) = true := by
        obtain rfl | hses := hses
        · simp [opcode_of htaken]
        · simp [hses]
      have h2 : ¬ (pf && decide (x.t ≠ 0)) = true := by
        intro h
        obtain ⟨hp, ht⟩ := Bool.and_eq_true_iff.1 h
        exact of_decide_eq_true ht (hpf hp)
      rw [State.withSlip_checked htaken, if_neg h1, if_neg h2, if_pos (by simp [hclean])]
      rfl
  · refine ⟨_, (exec_reservedSlipOpcode x s).trans (congrArg _ (s.withSlip_reserved x htaken hop)),
      only_take_answer s x _ [], answered_take_answer s x _ []⟩

/-! ### HELLO (R299) -/

theorem exec_hello (x : Slip) (s : State) : exec (.hello x) s =
    .next (s.withSlip x (isOpcode 1) false [(8, 2), (0xA, 2), (0xC, 4)] (helloAct x)) := rfl

/-- HELLO needs no session: a clean slip that is taken comes to its action. -/
theorem State.withSlip_hello {s : State} {x : Slip} {named : List (Nat × Nat)} {act : State → State}
    (htaken : Claims.taken s x 1 = true) (hclean : x.clean named = true) :
    s.withSlip x (isOpcode 1) false named act = act (s.take x) := by
  have hop : x.opcode = 1 := of_decide_eq_true (Bool.and_eq_true_iff.1 htaken).2
  rw [State.withSlip_checked htaken, if_neg (by simp [hop]), if_neg (by simp), if_neg (by simp [hclean])]

/-- The state in which HELLO has opened the session of a taken slip, if it was not open. -/
def helloOpened (x : Slip) (v : Nat) (s : State) : State :=
  if ((s.take x).mb x.t).session then s.take x
  else { s.take x with clamps := s.clamps.filter fun c => c.1 / 8 ≠ x.t }.setMb x.t
    { (s.take x).mb x.t with session := true, version := v, driver := x.f 0xC 4 }

theorem mb_helloOpened (x : Slip) (v : Nat) (s : State) (hv : (s.mb x.t).session = true → v = (s.mb x.t).version) :
    (helloOpened x v s).mb x.t = Mailbox.taking { s.mb x.t with
      session := true, version := v, driver := if (s.mb x.t).session then (s.mb x.t).driver else x.f 0xC 4 } x := by
  unfold helloOpened
  rw [s.mb_take_same]
  cases hs : (s.mb x.t).session with
  | true =>
    rw [if_pos (by exact hs), s.mb_take_same, hv hs]
    simp [Mailbox.taking, ← hs]
  | false =>
    rw [if_neg (by simp [Mailbox.taking, hs]), State.mb_setMb, if_pos rfl]
    rfl

theorem mb_helloOpened_ne (x : Slip) (v : Nat) (s : State) (u : Nat) (hu : u ≠ x.t) :
    (helloOpened x v s).mb u = s.mb u := by
  unfold helloOpened
  split
  · exact s.mb_take_ne x u hu
  · rw [State.mb_setMb, if_neg hu]
    exact s.mb_take_ne x u hu

/-- R299: the three outcomes of HELLO. -/
theorem helloAct_take (x : Slip) (s : State) :
    helloAct x (s.take x) =
      (let v := if (s.mb x.t).session then (s.mb x.t).version else 0x302
       if x.f 0xA 2 < x.f 8 2 then (s.take x).answer x stMalformed []
       else if x.f 8 2 ≤ v ∧ v ≤ x.f 0xA 2 then (helloOpened x v s).answer x stOk (helloBody (s.take x) x.t v)
       else (s.take x).answer x stVersion []) := by
  have hm : ((s.take x).mb x.t).session = (s.mb x.t).session ∧ ((s.take x).mb x.t).version = (s.mb x.t).version := by
    rw [s.mb_take_same]; exact ⟨rfl, rfl⟩
  simp only [helloAct, helloOpened, hm, Bool.and_eq_true, decide_eq_true_eq]
  rfl

theorem State.clamps_answer (u : State) (x : Slip) (status : Nat) (body : List Byte) :
    (u.answer x status body).clamps = u.clamps := rfl

theorem State.clamps_take_answer (s : State) (x : Slip) (status : Nat) (body : List Byte) :
    ((s.take x).answer x status body).clamps = s.clamps :=
  (only_take_answer s x status body).part .clamps (by decide)

theorem helloBody_take (x : Slip) (s : State) (v : Nat) : helloBody (s.take x) x.t v =
    leBytes 2 v ++ leBytes 2 x.t ++ leBytes 1 29 ++ leBytes 1 16 ++ leBytes 2 0 ++ leBytes 8 s.fwBuild := rfl

/-- Settles O14: HELLO answers by the order of its range's ends and by whether the version lies between them. -/
theorem helloChoosesTheVersion : Obligations.HelloChoosesTheVersion := by
  unfold Obligations.HelloChoosesTheVersion
  intro x s htaken hclean
  have hexec : exec (.hello x) s = .next (helloAct x (s.take x)) :=
    (exec_hello x s).trans (congrArg _ (State.withSlip_hello htaken hclean))
  refine ⟨_, hexec, Only.ofExec (only_execHello x s) hexec, ?_⟩
  rw [helloAct_take]
  dsimp only
  generalize hv : (if (s.mb x.t).session = true then (s.mb x.t).version else 0x302) = v
  split
  case isTrue h => exact ⟨answered_take_answer s x stMalformed [], s.clamps_take_answer x _ []⟩
  case isFalse h =>
    split
    case isTrue hin =>
      have hmb := mb_helloOpened x v s fun hs => by rw [← hv, if_pos hs]
      rw [helloBody_take]
      refine ⟨answered_answer stOk _ hmb (mb_helloOpened_ne x v s), fun hs => ?_⟩
      rw [State.clamps_answer, helloOpened, if_pos (by rw [s.mb_take_same]; exact hs)]
      rfl
    case isFalse hout => exact ⟨answered_take_answer s x stVersion [], s.clamps_take_answer x _ []⟩

end Sys2Proof.Machine
end

section
/-! What a report leaves behind: an entry in both fault logs, an edge at a source; and the timebase (R374 to R379). -/

namespace Sys2Proof.Machine

/-! ### Reports -/

/-- No register's value changes where no kind is listed. -/
theorem Only.reg_eq {Ps : List Piece} {s t : State} (h : Only Ps [] s t) (r : Reg) : t.reg r = s.reg r :=
  h.reg r.off fun _ hk => absurd hk List.not_mem_nil

theorem Only.regBit_eq {Ps : List Piece} {s t : State} (h : Only Ps [] s t) (r : Reg) (b : Nat) :
    t.regBit r b = s.regBit r b := by
  rw [State.regBit, State.regF, h.reg_eq r]; rfl

theorem Only.regF_eq {Ps : List Piece} {s t : State} (h : Only Ps [] s t) (r : Reg) (lo w : Nat) :
    t.regF r lo w = s.regF r lo w := by
  rw [State.regF, h.reg_eq r]; rfl

theorem State.raise_free (s : State) (n : Nat) (he : srcExists n = true)
    (hd : srcDie n < 8 → (s.dom (srcDie n)).state = .on) (hf : s.srcHeld n = false) : s.raise n = s.icEvent n := by
  have hon : ¬ (decide ((s.dom (srcDie n)).state ≠ .on) && decide (srcDie n < 8)) = true := by
    intro h
    obtain ⟨h1, h2⟩ := Bool.and_eq_true_iff.1 h
    exact of_decide_eq_true h1 (hd (of_decide_eq_true h2))
  rw [State.raise, if_neg (by simp [he]), if_neg hon, if_neg (by simp [hf])]

theorem only_raise (s : State) (n : Nat) : Only [.ic] [] s (s.raise n) :=
  only_State_raise s n (Only.refl s) (List.Subset.refl _)

theorem only_log (s : State) (code sev die node tenant d0 d1 : Nat) :
    Only [.flog0, .flog1] [] s (s.log code sev die node tenant d0 d1) :=
  only_State_log s code sev die node tenant d0 d1 (Only.refl s) (List.Subset.refl _)

/-- R362, R365: an edge at a source, in a state that is as before in all that decides where the edge goes. -/
theorem raises_after {Ps : List Piece} {Ks : List RegKind} {s u t : State} {n : Nat} (he : srcExists n = true)
    (h : Only Ps Ks s u) (hp : ∀ p, p ∈ [Piece.x0Lost, .domains, .sampling, .quiesced, .ic] → p ∉ Ps)
    (ht : t.ic = (u.raise n).ic) : Claims.raises s t n := by
  have hx : u.x0Lost = s.x0Lost := h.part .x0Lost (hp _ (by simp))
  have hdoms : u.domains = s.domains := h.part .domains (hp _ (by simp))
  have hsamp : u.sampling = s.sampling := h.part .sampling (hp _ (by simp))
  have hq : u.quiesced = s.quiesced := h.part .quiesced (hp _ (by simp))
  have hic : u.ic = s.ic := h.part .ic (hp _ (by simp))
  have hdom : ∀ d, u.dom d = s.dom d := fun d => by rw [State.dom, hdoms]; rfl
  have hheld : u.srcHeld n = s.srcHeld n := by simp only [State.srcHeld, hdom, hsamp, hq]
  intro hx0 hf hd hi
  rw [ht, State.raise_free u n he (fun hn => by rw [hdom]; exact hd hn) (by rw [hheld, hf])]
  exact u.src_icEvent_idle n (hx.trans hx0) (by rw [hic]; exact hi)

/-- R412: an entry written in a state whose logs and count are as before. -/
theorem logs_after {s u t : State} {code sev die node tenant d0 d1 : Nat} (htb : u.tb = s.tb) (h0 : u.flog0 = s.flog0)
    (h1 : u.flog1 = s.flog1) (ht0 : t.flog0 = (u.log code sev die node tenant d0 d1).flog0)
    (ht1 : t.flog1 = (u.log code sev die node tenant d0 d1).flog1) :
    Claims.logs s t (Claims.entry s code sev (dieField die) node tenant d0 d1) := by
  obtain ⟨k0, k1⟩ := u.logs_logEntry (Claims.entry s code sev (dieField die) node tenant d0 d1)
  have he : (u.log code sev die node tenant d0 d1) =
      u.logEntry (Claims.entry s code sev (dieField die) node tenant d0 d1) := by
    rw [State.log, htb]; rfl
  rw [h0] at k0
  rw [h1] at k1
  exact ⟨by rw [ht0, he]; exact k0, by rw [ht1, he]; exact k1⟩

/-! ### The timebase -/

/-- What a tick carries on beside the count leaves the timebase and the clock. -/
theorem tb_now_tick (s : State) (h : s.tbRuns = true) :
    (((tbTick s).measure).settleResets).tb = { s.tb with count := (s.tb.count + 1) % 2 ^ 64 } ∧
      (((tbTick s).measure).settleResets).now = s.now + 1 := by
  have hm := only_State_measure (tbTick s) (Only.refl _) (List.Subset.refl _) (List.Subset.refl _)
  have hr := only_State_settleResets (tbTick s).measure (Only.refl _) (List.Subset.refl _) (List.Subset.refl _)
  have ht : tbTick s = { s with now := s.now + 1, tb := { s.tb with count := (s.tb.count + 1) % 2 ^ 64 } } := if_pos h
  constructor
  · exact (hr.part .tb (by decide)).trans ((hm.part .tb (by decide)).trans (by rw [ht]))
  · exact (hr.part .now (by decide)).trans ((hm.part .now (by decide)).trans (by rw [ht]))

theorem exec_timebaseTick (s : State) (h : s.tbRuns = true) :
    exec .timebaseTick s = .next (((tbTick s).measure).settleResets) := congrArg Host.Outcome.next (if_pos h)

theorem exec_timebaseFirstLock (s : State) (h : s.tbRuns = true) (hl : s.tb.locked = false) (hh : s.tb.holdover = false) :
    exec .timebaseFirstLock s = .next { s with tb := { s.tb with locked := true } } :=
  congrArg Host.Outcome.next (if_pos (by simp [h, hl, hh]))

/-- R375: the state in which the timebase has lost its reference and the loss is logged. -/
def holdoverLogged (s : State) : State :=
  { s with tb := { s.tb with locked := false, holdover := true, holdoverSeen := true } }.log 0x0070 1 8 0x70 noTenant 0 0

theorem exec_timerefLoss (s : State) (h : s.tbRuns = true) (hl : s.tb.locked = true) :
    exec .timerefLoss s = .next ((holdoverLogged s).raise 0x384) :=
  congrArg Host.Outcome.next (if_pos (by simp [h, hl]))

theorem exec_timerefRelock (s : State) (h : s.tbRuns = true) (hh : s.tb.holdover = true) :
    exec .timerefRelock s = .next { s with tb := { s.tb with locked := true, holdover := false } } :=
  congrArg Host.Outcome.next (if_pos (by simp [h, hh]))

theorem exec_syncLoad_unarmed (s : State) (h : s.tb.armed = false) : exec .syncLoad s = .next s :=
  congrArg Host.Outcome.next (if_pos (by simp [h]))

theorem exec_syncLoad_unlocked (s : State) (h : s.tbRuns = true) (ha : s.tb.armed = true) (hl : s.tb.locked = false) :
    exec .syncLoad s = .next { s with tb := { s.tb with syncRefused := true } } :=
  congrArg Host.Outcome.next ((if_neg (by simp [h, ha])).trans (if_pos (by simp [hl])))

theorem exec_syncLoad_locked (s : State) (h : s.tbRuns = true) (ha : s.tb.armed = true) (hl : s.tb.locked = true) :
    exec .syncLoad s = .next (syncLoad s) :=
  congrArg Host.Outcome.next ((if_neg (by simp [h, ha])).trans (if_neg (by simp [hl])))

/-- Settles O11: each command of the timebase in the state in which it acts, and a SYNC edge by arm and lock. -/
theorem timebaseCountsLocksAndLoads : Obligations.TimebaseCountsLocksAndLoads := by
  unfold Obligations.TimebaseCountsLocksAndLoads
  refine ⟨fun s h => ⟨?tick, fun hl hh => ?lock, fun hl => ?loss, fun hh => ?relock⟩,
    fun s => ⟨?arm, ?disarm, exec_syncLoad_unarmed s, fun h ha hl => ?refused, fun h ha hl => ?load⟩⟩
  case tick => exact ⟨_, exec_timebaseTick s h, tb_now_tick s h⟩
  case lock =>
    have he := exec_timebaseFirstLock s h hl hh
    exact ⟨_, he, Only.ofExec (only_execTimebaseFirstLock s) he, rfl⟩
  case loss =>
    have he := exec_timerefLoss s h hl
    have hr := only_raise (holdoverLogged s) 0x384
    refine ⟨_, he, Only.ofExec (only_execTimerefLoss s) he, hr.part .tb (by decide), ?_, fun hf hx hi => ?_⟩
    · have hf0 : ((holdoverLogged s).raise 0x384).flog0 = (holdoverLogged s).flog0 := hr.part .flog0 (by decide)
      rw [hf0]
      exact s.flog0.logged_append _
    · have hk : Only [.tb, .flog0, .flog1] [] s (holdoverLogged s) :=
        only_State_log _ _ _ _ _ _ _ _ (Only.upd_tb (Only.refl s) (by decide)) (by decide)
      exact raises_after (n := 0x384) (by decide) hk (by decide) rfl hx hf (fun hd => absurd hd (by decide)) hi
  case relock =>
    have he := exec_timerefRelock s h hh
    exact ⟨_, he, Only.ofExec (only_execTimerefRelock s) he, rfl⟩
  case arm => exact ⟨_, rfl, Only.ofExec (only_execArm s) rfl, rfl⟩
  case disarm => exact ⟨_, rfl, Only.ofExec (only_execDisarm s) rfl, rfl⟩
  case refused =>
    have he := exec_syncLoad_unlocked s h ha hl
    exact ⟨_, he, Only.upd_tb (Only.refl s) (by decide), rfl⟩
  case load =>
    have he := exec_syncLoad_locked s h ha hl
    exact ⟨_, he, (Only.ofExec (only_execSyncLoad s) he).mono (by decide) (by decide), rfl, rfl, rfl, hl, rfl, rfl, rfl⟩

end Sys2Proof.Machine
end

section
/-! Reading registers bit by bit after a field or a bit of one was written, and what a fold over units leaves behind. -/

namespace Sys2Proof.Machine

/-! ### Bits of registers -/

theorem getF_putF_bit (v : DWord) (b c x : Nat) (hb : b < 64) (hc : c < 64) :
    getF (putF v c 1 x) b 1 = if b = c then x % 2 else getF v b 1 := by
  by_cases h : b = c
  · subst h
    rw [if_pos rfl]
    exact getF_putF_same v b 1 x (by omega)
  · rw [if_neg h, getF_putF_apart v c 1 x b 1 (by omega) (by omega)]

theorem State.reg_setF_same (s : State) (r : Reg) (lo w x : Nat) : (s.setF r lo w x).reg r = putF (s.reg r) lo w x :=
  s.reg_setReg_same r _

theorem State.regBit_setF_bit (s : State) (r : Reg) (c x b : Nat) (hb : b < 64) (hc : c < 64) :
    (s.setF r c 1 x).regBit r b = if b = c then decide (x % 2 = 1) else s.regBit r b := by
  simp only [State.regBit, State.regF, State.reg_setF_same, getF_putF_bit _ _ _ _ hb hc]
  split <;> rfl

/-- Setting a bit sets it and leaves every other. -/
theorem State.regBit_setBit (s : State) (r : Reg) (c b : Nat) (hb : b < 64) (hc : c < 64) :
    (s.setBit r c).regBit r b = (decide (b = c) || s.regBit r b) := by
  rw [State.setBit, s.regBit_setF_bit r c 1 b hb hc]
  by_cases h : b = c <;> simp [h]

/-- Clearing a bit clears it and leaves every other. -/
theorem State.regBit_clrBit (s : State) (r : Reg) (c b : Nat) (hb : b < 64) (hc : c < 64) :
    (s.clrBit r c).regBit r b = (decide (b ≠ c) && s.regBit r b) := by
  rw [State.clrBit, s.regBit_setF_bit r c 0 b hb hc]
  by_cases h : b = c <;> simp [h]

/-- A field apart from a bit that was written reads as before. -/
theorem State.regBit_setF_apart (s : State) (r : Reg) (lo w x b : Nat) (h : lo + w ≤ 64) (ha : b + 1 ≤ lo ∨ lo + w ≤ b) :
    (s.setF r lo w x).regBit r b = s.regBit r b := by
  rw [State.regBit, s.regF_setF_apart r lo w x b 1 h ha, State.regBit]

theorem State.regBit_setF_ne (s : State) (r q : Reg) (lo w x b : Nat) (h : q.off ≠ r.off) :
    (s.setF r lo w x).regBit q b = s.regBit q b := by
  rw [State.regBit, s.regF_setF_ne r q lo w x b 1 h, State.regBit]

theorem getF_lt (v : DWord) (lo w : Nat) : getF v lo w < 2 ^ w := Nat.mod_lt _ (Nat.two_pow_pos w)

theorem State.regF_lt (s : State) (r : Reg) (lo w : Nat) : s.regF r lo w < 2 ^ w := getF_lt _ _ _

/-- A count reads as it was counted up to, and stops at its largest value. -/
theorem State.regF_countF (s : State) (r : Reg) (lo w n : Nat) (h : lo + w ≤ 64) :
    (s.countF r lo w n).regF r lo w = min (2 ^ w - 1) (s.regF r lo w + n) := by
  rw [State.countF, s.regF_setF_same r lo w _ h, satAdd, Nat.mod_eq_of_lt]
  have := Nat.two_pow_pos w
  omega

/-- No bit of a register changes that is apart from every register of the listed kinds. -/
theorem Only.reg_apart {Ps : List Piece} {Ks : List RegKind} {s t : State} (h : Only Ps Ks s t) (q : Reg)
    (ha : ∀ r : Reg, r.kind ∈ Ks → r.off ≠ q.off) : t.reg q = s.reg q := h.reg q.off ha

/-! ### What a field's write leaves. These are rewritten by the lemmas of `setReg` and not by `rfl`: a check by `rfl` would
compute the register's offset. -/

@[simp] theorem State.dom_setF (s : State) (r : Reg) (lo w x : Nat) : (s.setF r lo w x).dom = s.dom := by
  rw [State.setF, State.dom_setReg]
@[simp] theorem State.therm_setF (s : State) (r : Reg) (lo w x : Nat) : (s.setF r lo w x).therm = s.therm := by
  rw [State.setF, State.therm_setReg]
@[simp] theorem State.mb_setF (s : State) (r : Reg) (lo w x : Nat) : (s.setF r lo w x).mb = s.mb := by
  rw [State.setF, State.mb_setReg]
@[simp] theorem State.bed_setF (s : State) (r : Reg) (lo w x : Nat) : (s.setF r lo w x).bed = s.bed := by
  rw [State.setF, State.bed_setReg]
@[simp] theorem State.coreUnit_setF (s : State) (r : Reg) (lo w x : Nat) : (s.setF r lo w x).coreUnit = s.coreUnit := by
  rw [State.setF, State.coreUnit_setReg]
@[simp] theorem State.stack_setF (s : State) (r : Reg) (lo w x : Nat) : (s.setF r lo w x).stack = s.stack := by
  rw [State.setF, State.stack_setReg]
@[simp] theorem State.span_setF (s : State) (r : Reg) (lo w x : Nat) : (s.setF r lo w x).span = s.span := by
  rw [State.setF, State.span_setReg]
@[simp] theorem State.guest_setF (s : State) (r : Reg) (lo w x : Nat) : (s.setF r lo w x).guest = s.guest := by
  rw [State.setF, State.guest_setReg]
@[simp] theorem State.engine_setF (s : State) (r : Reg) (lo w x : Nat) : (s.setF r lo w x).engine = s.engine := by
  rw [State.setF, State.engine_setReg]
@[simp] theorem State.leaseAt_setF (s : State) (r : Reg) (lo w x : Nat) : (s.setF r lo w x).leaseAt = s.leaseAt := by
  rw [State.setF, State.leaseAt_setReg]
@[simp] theorem State.now_setF (s : State) (r : Reg) (lo w x : Nat) : (s.setF r lo w x).now = s.now := by
  rw [State.setF, State.now_setReg]
@[simp] theorem State.fuses_setF (s : State) (r : Reg) (lo w x : Nat) : (s.setF r lo w x).fuses = s.fuses := by
  rw [State.setF, State.fuses_setReg]
@[simp] theorem State.tb_setF (s : State) (r : Reg) (lo w x : Nat) : (s.setF r lo w x).tb = s.tb := by
  rw [State.setF, State.tb_setReg]
@[simp] theorem State.flog0_setF (s : State) (r : Reg) (lo w x : Nat) : (s.setF r lo w x).flog0 = s.flog0 := by
  rw [State.setF, State.flog0_setReg]
@[simp] theorem State.flog1_setF (s : State) (r : Reg) (lo w x : Nat) : (s.setF r lo w x).flog1 = s.flog1 := by
  rw [State.setF, State.flog1_setReg]
@[simp] theorem State.ic_setF (s : State) (r : Reg) (lo w x : Nat) : (s.setF r lo w x).ic = s.ic := by
  rw [State.setF, State.ic_setReg]
@[simp] theorem State.domains_setF (s : State) (r : Reg) (lo w x : Nat) : (s.setF r lo w x).domains = s.domains := by
  rw [State.setF, State.domains_setReg]
@[simp] theorem State.thermal_setF (s : State) (r : Reg) (lo w x : Nat) : (s.setF r lo w x).thermal = s.thermal := by
  rw [State.setF, State.thermal_setReg]
@[simp] theorem State.lists_setF (s : State) (r : Reg) (lo w x : Nat) : (s.setF r lo w x).lists = s.lists := by
  rw [State.setF, State.lists_setReg]
@[simp] theorem State.cores_setF (s : State) (r : Reg) (lo w x : Nat) : (s.setF r lo w x).cores = s.cores := by
  rw [State.setF, State.cores_setReg]
@[simp] theorem State.vFloor_setF (s : State) (r : Reg) (lo w x : Nat) : (s.setF r lo w x).vFloor = s.vFloor := by
  rw [State.setF, State.vFloor_setReg]
@[simp] theorem State.vCeiling_setF (s : State) (r : Reg) (lo w x : Nat) : (s.setF r lo w x).vCeiling = s.vCeiling := by
  rw [State.setF, State.vCeiling_setReg]
@[simp] theorem State.capIo_setF (s : State) (r : Reg) (lo w x : Nat) : (s.setF r lo w x).capIo = s.capIo := by
  rw [State.setF, State.capIo_setReg]
@[simp] theorem State.capTc_setF (s : State) (r : Reg) (lo w x : Nat) : (s.setF r lo w x).capTc = s.capTc := by
  rw [State.setF, State.capTc_setReg]

/-! ### Offsets of registers (Table 1-6), and registers that are as before -/

theorem Reg.vstat_off (w : Nat) : (Reg.vstat w).off = blk w + 0xA10 := rfl
theorem Reg.vregCtl_off (d : Nat) : (Reg.vregCtl d).off = blk d + 0x800 := rfl
theorem Reg.vregStat_off (d : Nat) : (Reg.vregStat d).off = blk d + 0x804 := rfl
theorem Reg.stepmon_off (w : Nat) : (Reg.stepmon w).off = blk w + 0x400 := rfl
theorem Reg.vinStat_off : Reg.vinStat.off = blk 8 + 0x900 := rfl
theorem Reg.vinAlertcnt_off : Reg.vinAlertcnt.off = blk 8 + 0x904 := rfl

theorem Reg.vstat_off_ne {v w : Nat} (h : v ≠ w) : (Reg.vstat v).off ≠ (Reg.vstat w).off := by
  simp only [Reg.vstat_off, blk]; omega

theorem Reg.vregCtl_off_ne {d e : Nat} (h : d ≠ e) : (Reg.vregCtl d).off ≠ (Reg.vregCtl e).off := by
  simp only [Reg.vregCtl_off, blk]; omega

theorem Reg.stepmon_off_ne {v w : Nat} (h : v ≠ w) : (Reg.stepmon v).off ≠ (Reg.stepmon w).off := by
  simp only [Reg.stepmon_off, blk]; omega

theorem Reg.vregCtl_off_ne_vstat (d w : Nat) : (Reg.vregCtl d).off ≠ (Reg.vstat w).off := by
  simp only [Reg.vregCtl_off, Reg.vstat_off, blk]; omega

theorem Reg.vinStat_off_ne (v : Nat) : Reg.vinStat.off ≠ (Reg.vstat v).off := by
  simp only [Reg.vinStat_off, Reg.vstat_off, blk]; omega

theorem Reg.vinStat_off_ne_vregCtl (d : Nat) : Reg.vinStat.off ≠ (Reg.vregCtl d).off := by
  simp only [Reg.vinStat_off, Reg.vregCtl_off, blk]; omega

theorem Reg.vinAlertcnt_off_ne (v : Nat) : Reg.vinAlertcnt.off ≠ (Reg.vstat v).off := by
  simp only [Reg.vinAlertcnt_off, Reg.vstat_off, blk]; omega

theorem Reg.vinStat_off_ne_cnt : Reg.vinStat.off ≠ Reg.vinAlertcnt.off := by
  simp only [Reg.vinStat_off, Reg.vinAlertcnt_off, blk]; omega

theorem State.reg_congr {s t : State} (hr : t.regs = s.regs) (hf : t.fuses = s.fuses) : t.reg = s.reg := by
  funext q; rw [State.reg, hr, hf]; rfl

theorem State.regBit_congr {s t : State} {q : Reg} (h : t.reg q = s.reg q) (b : Nat) : t.regBit q b = s.regBit q b := by
  rw [State.regBit, State.regF, h]; rfl

theorem State.regF_congr {s t : State} {q : Reg} (h : t.reg q = s.reg q) (lo w : Nat) :
    t.regF q lo w = s.regF q lo w := by
  rw [State.regF, h]; rfl

/-- A bit of a state whose registers are those of a state in which the bit is known. -/
theorem State.regBit_of_regs {s t : State} {q : Reg} {b : Nat} {v : Bool} (h : s.regBit q b = v) (hr : t.regs = s.regs)
    (hf : t.fuses = s.fuses) : t.regBit q b = v :=
  (State.regBit_congr (congrFun (State.reg_congr hr hf) q) b).trans h

theorem State.regF_of_regs {s t : State} {q : Reg} {lo w v : Nat} (h : s.regF q lo w = v) (hr : t.regs = s.regs)
    (hf : t.fuses = s.fuses) : t.regF q lo w = v :=
  (State.regF_congr (congrFun (State.reg_congr hr hf) q) lo w).trans h

/-! ### Tables of units that are as before -/

theorem State.dom_congr {s t : State} (h : t.domains = s.domains) : t.dom = s.dom := by
  funext d; rw [State.dom, h]; rfl

theorem State.therm_congr {s t : State} (h : t.thermal = s.thermal) : t.therm = s.therm := by
  funext d; rw [State.therm, h]; rfl

theorem State.mb_congr {s t : State} (h : t.mbox = s.mbox) : t.mb = s.mb := by
  funext d; rw [State.mb, h]; rfl

theorem State.bed_congr {s t : State} (h : t.beds = s.beds) : t.bed = s.bed := by
  funext d; rw [State.bed, h]; rfl

theorem State.seg_congr {s t : State} (h : t.segs = s.segs) : t.seg? = s.seg? := by
  funext d i; rw [State.seg?, h]; rfl

theorem State.list_congr {s t : State} (h : t.lists = s.lists) : t.list? = s.list? := by
  funext d; rw [State.list?, h]; rfl

theorem State.op_congr {s t : State} (h : t.lists = s.lists) : t.op? = s.op? := by
  funext d o; rw [State.op?, State.op?, State.list_congr h]

theorem State.coreUnit_congr {s t : State} (h : t.cores = s.cores) : t.coreUnit = s.coreUnit := by
  funext d; rw [State.coreUnit, h]; rfl

theorem State.span_congr {s t : State} (h : t.ports = s.ports) : t.span = s.span := by
  funext d; rw [State.span, h]; rfl

theorem State.guest_congr {s t : State} (h : t.guests = s.guests) : t.guest = s.guest := by
  funext d; rw [State.guest, h]; rfl

theorem State.engine_congr {s t : State} (h : t.engines = s.engines) : t.engine = s.engine := by
  funext d; rw [State.engine, h]; rfl

theorem State.leaseAt_congr {s t : State} (h : t.leases = s.leases) : t.leaseAt = s.leaseAt := by
  funext d; rw [State.leaseAt, h]; rfl

theorem State.stack_congr {s t : State} (h : t.hbm = s.hbm) : t.stack = s.stack := by
  funext d; rw [State.stack, h]; rfl

/-! ### Folds over units -/

/-- A fact that holds at the start of a fold and that every step keeps holds at its end. -/
theorem foldl_keeps {σ α : Type} (P : σ → Prop) (f : σ → α → σ) (l : List α) (init : σ) (h : P init)
    (hf : ∀ x a, a ∈ l → P x → P (f x a)) : P (l.foldl f init) := by
  induction l generalizing init with
  | nil => exact h
  | cons a l ih => exact ih _ (hf _ _ (List.mem_cons_self ..) h) fun x b hb => hf x b (List.mem_cons_of_mem _ hb)

/-- A reading that no step of a fold changes. -/
theorem foldl_reading {σ α β : Type} (π : σ → β) (f : σ → α → σ) (l : List α) (init : σ)
    (hf : ∀ x a, a ∈ l → π (f x a) = π x) : π (l.foldl f init) = π init :=
  foldl_keeps (fun x => π x = π init) f l init rfl fun x a ha h => (hf x a ha).trans h

/-- A fold over distinct units, whose step for a unit establishes a fact of that unit which no other step destroys. -/
theorem foldl_establishes {σ α : Type} (Q : α → σ → Prop) (f : σ → α → σ) (l : List α) (init : σ)
    (hmake : ∀ x a, a ∈ l → Q a (f x a)) (hkeep : ∀ x a b, a ∈ l → b ∈ l → Q a x → Q a (f x b)) :
    ∀ a, a ∈ l → Q a (l.foldl f init) := by
  induction l generalizing init with
  | nil => exact fun _ h => absurd h List.not_mem_nil
  | cons c l ih =>
    intro a ha
    rw [List.foldl_cons]
    have tl : ∀ b, b ∈ l → b ∈ c :: l := fun b hb => List.mem_cons_of_mem _ hb
    by_cases hl : a ∈ l
    · exact ih _ (fun x b hb => hmake x b (tl b hb)) (fun x b d hb hd => hkeep x b d (tl b hb) (tl d hd)) a hl
    · have hac : a = c := (List.mem_cons.1 ha).resolve_right hl
      subst hac
      exact foldl_keeps (Q a) f l _ (hmake init a ha) fun x b hb h => hkeep x a b ha (tl b hb) h

end Sys2Proof.Machine
end

section
/-! The supply: envelopes under VIN_ALERT_N (R339), brownout (R340) and everything turned off (R330), and the step-rate
monitor (R50). -/

namespace Sys2Proof.Machine

/-! ### Envelopes -/

theorem State.reg_refreshEnv_ne (s : State) (w : Nat) (q : Reg) (h : q.off ≠ (Reg.vstat w).off) :
    (s.refreshEnv w).reg q = s.reg q := s.reg_setF_ne _ _ _ _ _ h

theorem State.regF_refreshEnv (s : State) (w : Nat) : (s.refreshEnv w).regF (.vstat w) 0 16 = s.vEnv w % 2 ^ 16 :=
  s.regF_setF_same _ 0 16 _ (by decide)

@[simp] theorem State.therm_refreshEnv (s : State) (w : Nat) : (s.refreshEnv w).therm = s.therm := by
  rw [State.refreshEnv, State.therm_setF]
@[simp] theorem State.dom_refreshEnv (s : State) (w : Nat) : (s.refreshEnv w).dom = s.dom := by
  rw [State.refreshEnv, State.dom_setF]

theorem State.vEnv_le_of_low (s : State) (w : Nat) (h : (s.therm w).vinLow = true) : s.vEnv w ≤ 650 := by
  simp only [State.vEnv, h, if_true]
  exact Nat.min_le_right _ _

theorem Bin.vmax_le (b : Bin) : b.vmax ≤ 850 := by cases b <;> decide

theorem State.vEnv_of_free (s : State) (w : Nat) (h : (s.therm w).vinLow = false) :
    s.vEnv w = min s.fuses.bin.vmax (s.regF (.vregStat w) 0 16) := by
  simp [State.vEnv, h]

/-! ### VIN_ALERT_N -/

/-- R339: a tower's envelope is held low. -/
def State.holdLow (s : State) (w : Nat) : State := (s.setTherm w { s.therm w with vinLow := true }).refreshEnv w

/-- The state in which the alert is latched, counted and reported. -/
def alertReported (s : State) : State :=
  { (((s.setBit .vinStat 31).setBit .vinStat 30).countF .vinAlertcnt 0 32 1).raise (srcIo 0 3) with
    vinAlert := true, vinReturned := 0 }

theorem vinAlert_eq (s : State) (hr : s.running = true) (ha : s.vinAlert = false) :
    vinAlert s = (List.range 8).foldl State.holdLow (alertReported s) := if_neg (by simp [hr, ha])

theorem holdLow_low (s : State) (w : Nat) :
    ((s.holdLow w).therm w).vinLow = true ∧ (s.holdLow w).regF (.vstat w) 0 16 ≤ 650 := by
  have hl : ((s.setTherm w { s.therm w with vinLow := true }).therm w).vinLow = true := by simp
  refine ⟨by simp [State.holdLow], ?_⟩
  rw [State.holdLow, State.regF_refreshEnv]
  exact (Nat.mod_le _ _).trans (State.vEnv_le_of_low _ w hl)

theorem holdLow_other (s : State) (v w : Nat) (h : v ≠ w) :
    (s.holdLow w).therm v = s.therm v ∧ (s.holdLow w).regF (.vstat v) 0 16 = s.regF (.vstat v) 0 16 := by
  refine ⟨by simp [State.holdLow, h], ?_⟩
  exact State.regF_congr (by rw [State.holdLow, State.reg_refreshEnv_ne _ _ _ (Reg.vstat_off_ne h), State.reg_setTherm]) 0 16

theorem holdLow_reg (s : State) (w : Nat) (q : Reg) (h : ∀ v, q.off ≠ (Reg.vstat v).off) :
    (s.holdLow w).reg q = s.reg q := by
  rw [State.holdLow, State.reg_refreshEnv_ne _ w q (h w), State.reg_setTherm]

/-- Every tower's envelope is low once the alert has been taken. -/
theorem low_of_vinAlert (s : State) (w : Nat) (hw : w < 8) :
    (((List.range 8).foldl State.holdLow s).therm w).vinLow = true ∧
      ((List.range 8).foldl State.holdLow s).regF (.vstat w) 0 16 ≤ 650 := by
  refine foldl_establishes (fun w (t : State) => (t.therm w).vinLow = true ∧ t.regF (.vstat w) 0 16 ≤ 650) State.holdLow _ s
    (fun t v _ => holdLow_low t v) (fun t v u _ _ hv => ?_) w (List.mem_range.2 hw)
  by_cases h : v = u
  · exact h ▸ holdLow_low t v
  · rw [(holdLow_other t v u h).1, (holdLow_other t v u h).2]
    exact hv

theorem reg_foldl_holdLow (s : State) (q : Reg) (h : ∀ v, q.off ≠ (Reg.vstat v).off) :
    ((List.range 8).foldl State.holdLow s).reg q = s.reg q :=
  foldl_reading (fun t : State => t.reg q) State.holdLow _ s fun t w _ => holdLow_reg t w q h

theorem only_holdLow (s : State) : Only [.thermal] [.vstat] s ((List.range 8).foldl State.holdLow s) :=
  Only.fold State.holdLow _ s (Only.refl s) fun _ _ h =>
    only_State_refreshEnv _ _ (only_State_setTherm _ _ _ h (List.Subset.refl _)) (List.Subset.refl _)

/-- R339: what the alert shows in its registers. -/
theorem alertReported_regs (s : State) :
    (alertReported s).regBit .vinStat 31 = true ∧ (alertReported s).regBit .vinStat 30 = true ∧
      (alertReported s).regF .vinAlertcnt 0 32 = min 0xFFFFFFFF (s.regF .vinAlertcnt 0 32 + 1) := by
  have hreg : ∀ q, (alertReported s).reg q = (((s.setBit .vinStat 31).setBit .vinStat 30).countF .vinAlertcnt 0 32 1).reg q :=
    (only_raise _ _).reg_eq
  have hstat : ∀ b, b < 64 → (alertReported s).regBit .vinStat b = ((s.setBit .vinStat 31).setBit .vinStat 30).regBit .vinStat b :=
    fun b _ => by
      rw [State.regBit, State.regF, hreg]
      exact State.regBit_setF_ne _ _ _ _ _ _ b Reg.vinStat_off_ne_cnt
  refine ⟨?_, ?_, ?_⟩
  · rw [hstat 31 (by decide), State.regBit_setBit _ _ _ _ (by decide) (by decide),
      State.regBit_setBit _ _ _ _ (by decide) (by decide)]
    rfl
  · rw [hstat 30 (by decide), State.regBit_setBit _ _ _ _ (by decide) (by decide)]
    rfl
  · rw [State.regF, hreg]
    refine (State.regF_countF _ .vinAlertcnt 0 32 1 (by decide)).trans ?_
    rw [State.setBit, State.regF_setF_ne _ _ _ _ _ _ _ _ Reg.vinStat_off_ne_cnt.symm, State.setBit,
      State.regF_setF_ne _ _ _ _ _ _ _ _ Reg.vinStat_off_ne_cnt.symm]
    rfl

theorem exec_vinAlert (s : State) : exec .vinAlert s = .next (vinAlert s) := rfl

theorem exec_vinAlertRelease (s : State) (h : s.vinAlert = true) : exec .vinAlertRelease s =
    .next { s.clrBit .vinStat 31 with vinAlert := false, vinHighSince := s.now, vinReturned := 0 } :=
  congrArg Host.Outcome.next (if_pos h)

/-- R339: the state in which tower `w` has its envelope back. -/
def State.freeLow (s : State) (w : Nat) : State := (s.setTherm w { s.therm w with vinLow := false }).refreshEnv w

theorem exec_envelopeReturn (s : State) (ha : s.vinAlert = false) (hn : s.vinReturned < 8)
    (hd : s.vinHighSince + 200000 + 20000 * s.vinReturned ≤ s.now) : exec .envelopeReturn s =
      .next { s.freeLow s.vinReturned with vinReturned := s.vinReturned + 1 } :=
  congrArg Host.Outcome.next (if_pos (by simp [ha, hn, hd]))

theorem freeLow_env (s : State) (w : Nat) :
    (s.freeLow w).regF (.vstat w) 0 16 = min s.fuses.bin.vmax (s.regF (.vregStat w) 0 16) := by
  have hl : ((s.setTherm w { s.therm w with vinLow := false }).therm w).vinLow = false := by simp
  have hv := s.fuses.bin.vmax_le
  rw [State.freeLow, State.regF_refreshEnv, State.vEnv_of_free _ w hl, Nat.mod_eq_of_lt]
  · rfl
  · exact Nat.lt_of_le_of_lt (Nat.min_le_left _ _) (Nat.lt_of_le_of_lt hv (by decide))

/-! ### Everything off -/

/-- One domain is turned off, with on cleared and no set-point. -/
def State.offStep (after : DomState) (s : State) (d : Nat) : State :=
  let y := (s.setDom d ((s.dom d).turnOff after s.now)).clrBit (.vregCtl d) 31
  if d < 8 then y.setF (.vstat d) 16 16 0 else y

theorem State.allOff_eq (s : State) (after : DomState) :
    s.allOff after = { (List.range 8).foldl State.bedsGone ((List.range 12).foldl (State.offStep after) s) with
      alive := false, standby := false, hbActive := none, hbStandby := none, lists := [], xfers := [], engines := [],
      reqs := [], ports := [], guests := [], revocation := none, removing := [], quiesced := [] } := rfl

theorem dom_offStep (after : DomState) (s : State) (d e : Nat) :
    (s.offStep after d).dom e = if e = d then (s.dom d).turnOff after s.now else s.dom e := by
  unfold State.offStep
  dsimp only
  split <;> simp [State.clrBit]

theorem now_offStep (after : DomState) (s : State) (d : Nat) : (s.offStep after d).now = s.now := by
  unfold State.offStep
  dsimp only
  split <;> simp [State.clrBit]

theorem dom_foldl_offStep (after : DomState) (s : State) (n : Nat) :
    ((List.range n).foldl (State.offStep after) s).now = s.now ∧
      ∀ d, ((List.range n).foldl (State.offStep after) s).dom d =
        if d < n then (s.dom d).turnOff after s.now else s.dom d := by
  induction n with
  | zero => exact ⟨rfl, fun d => (if_neg (by omega)).symm⟩
  | succ n ih =>
    obtain ⟨hnow, hdom⟩ := ih
    rw [List.range_succ, List.foldl_append, List.foldl_cons, List.foldl_nil]
    refine ⟨(now_offStep _ _ _).trans hnow, fun d => ?_⟩
    rw [dom_offStep, hnow, hdom, hdom]
    by_cases h : d = n
    · subst h
      simp
    · by_cases hl : d < n
      · simp [h, hl, Nat.lt_succ_of_lt hl]
      · have h2 : ¬ d < n + 1 := by omega
        simp [h, hl, h2]

theorem only_foldl_bedsGone (s : State) :
    Only [.mem, .checks, .stores, .cores, .beds] [] s ((List.range 8).foldl State.bedsGone s) :=
  Only.fold State.bedsGone _ s (Only.refl s) fun _ _ h => only_State_bedsGone _ _ h (List.Subset.refl _)

theorem reg_allOff (s : State) (after : DomState) (q : Reg) :
    (s.allOff after).reg q = ((List.range 12).foldl (State.offStep after) s).reg q := by
  have h := only_foldl_bedsGone ((List.range 12).foldl (State.offStep after) s)
  have ha := State.allOff_eq s after
  generalize (List.range 8).foldl State.bedsGone ((List.range 12).foldl (State.offStep after) s) = u at h ha
  rw [← h.reg_eq q, State.reg_congr (s := u) (by rw [ha]) (by rw [ha])]

/-- R330: every domain is turned off. -/
theorem dom_allOff (s : State) (after : DomState) (d : Nat) (hd : d < 12) :
    (s.allOff after).dom d = (s.dom d).turnOff after s.now := by
  have h : (s.allOff after).domains = ((List.range 12).foldl (State.offStep after) s).domains := by
    have h := (only_foldl_bedsGone ((List.range 12).foldl (State.offStep after) s)).part .domains (by decide)
    rw [State.allOff_eq]
    generalize (List.range 8).foldl State.bedsGone ((List.range 12).foldl (State.offStep after) s) = u at h
    exact h
  rw [State.dom_congr h, (dom_foldl_offStep after s 12).2, if_pos hd]

/-- What a step leaves in a register that is no status of a domain. -/
theorem reg_offStep (after : DomState) (s : State) (d : Nat) (q : Reg) (h : ∀ w, q.off ≠ (Reg.vstat w).off) :
    (s.offStep after d).reg q = (s.clrBit (.vregCtl d) 31).reg q := by
  have hd : ((s.setDom d ((s.dom d).turnOff after s.now)).clrBit (.vregCtl d) 31).reg q = (s.clrBit (.vregCtl d) 31).reg q := by
    simp only [State.clrBit, State.setF, State.reg_setReg, State.reg_setDom]
  unfold State.offStep
  dsimp only
  split
  · rw [State.reg_setF_ne _ _ _ _ _ _ (h d), hd]
  · exact hd

theorem regBit_vregCtl_offStep (after : DomState) (s : State) (d e : Nat) :
    (s.offStep after d).regBit (.vregCtl e) 31 = (decide (e ≠ d) && s.regBit (.vregCtl e) 31) := by
  rw [State.regBit_congr (reg_offStep after s d _ (Reg.vregCtl_off_ne_vstat e))]
  by_cases he : e = d
  · subst he
    rw [State.regBit_clrBit _ _ _ _ (by decide) (by decide)]
    simp
  · rw [State.clrBit, State.regBit_setF_ne _ _ _ _ _ _ _ (Reg.vregCtl_off_ne he)]
    simp [he]

theorem regBit_vregCtl_allOff (s : State) (after : DomState) (d : Nat) (hd : d < 12) :
    (s.allOff after).regBit (.vregCtl d) 31 = false := by
  rw [State.regBit_congr (reg_allOff s after _)]
  refine foldl_establishes (fun d (t : State) => t.regBit (.vregCtl d) 31 = false) (State.offStep after) _ s
    (fun t e _ => ?_) (fun t e f _ _ h => ?_) d (List.mem_range.2 hd)
  · rw [regBit_vregCtl_offStep]; simp
  · rw [regBit_vregCtl_offStep, h, Bool.and_false]

/-- A register that is no control and no status of a domain. -/
theorem reg_allOff_apart (s : State) (after : DomState) (q : Reg) (hc : ∀ d, q.off ≠ (Reg.vregCtl d).off)
    (hv : ∀ d, q.off ≠ (Reg.vstat d).off) : (s.allOff after).reg q = s.reg q := by
  rw [reg_allOff]
  refine foldl_reading (fun t : State => t.reg q) _ _ s fun t d _ => ?_
  exact (reg_offStep after t d q hv).trans (State.reg_setF_ne _ _ _ _ _ _ (hc d))

theorem Domain.turnOff_off (x : Domain) (now : Nat) :
    (x.turnOff .off now).state ≠ .on ∧ (x.turnOff .off now).state ≠ .ramp := by
  unfold Domain.turnOff
  cases x.state <;> simp

/-- R346: a domain that is turned off to DEAD is dead, or its discharge leads there. -/
theorem Domain.turnOff_dead (x : Domain) (now : Nat) :
    (x.turnOff .dead now).state = .dead ∨
      ((x.turnOff .dead now).state = .discharge ∧ (x.turnOff .dead now).after = .dead) := by
  unfold Domain.turnOff
  cases x.state <;> simp

/-! ### Brownout -/

/-- The state in which the input voltage is shown and logged. -/
def brownoutLogged (vin : Nat) (s : State) : State := (s.setF .vinStat 0 16 vin).log 0x0024 4 8 0x70 noTenant vin 0

theorem exec_brownout (vin : BitVec 16) (s : State) (hr : s.running = true) (hb : s.brownedOut = false) :
    ∃ t, exec (.brownout vin) s = .next t ∧ t.brownedOut = true ∧
      Only [.brownedOut] [] ((brownoutLogged vin.toNat s).allOff .off) t := by
  refine ⟨_, congrArg Host.Outcome.next (if_neg (by simp [hr, hb])), rfl, ?_⟩
  exact Only.upd_brownedOut (Only.refl _) (List.mem_singleton_self _)

theorem gone_allOff (s : State) (after : DomState) : (s.allOff after).alive = false ∧ (s.allOff after).lists = [] := by
  rw [State.allOff_eq]
  exact ⟨rfl, rfl⟩

/-- R340: what a brownout shows and logs before it turns everything off. -/
theorem brownoutLogged_shows (vin : BitVec 16) (s : State) :
    (brownoutLogged vin.toNat s).regF .vinStat 0 16 = vin.toNat ∧
      Claims.logged s.flog0 (brownoutLogged vin.toNat s).flog0 (Claims.entry s 0x24 4 0x10 0x70 0xFFFF vin.toNat 0) ∧
      Claims.logged s.flog1 (brownoutLogged vin.toNat s).flog1 (Claims.entry s 0x24 4 0x10 0x70 0xFFFF vin.toNat 0) := by
  refine ⟨?_, logs_after (State.tb_setF ..) (State.flog0_setF ..) (State.flog1_setF ..) rfl rfl⟩
  rw [brownoutLogged, State.regF_congr ((only_log (s.setF .vinStat 0 16 vin.toNat) _ _ _ _ _ _ _).reg_eq .vinStat),
    s.regF_setF_same .vinStat 0 16 vin.toNat (by decide), Nat.mod_eq_of_lt vin.isLt]

theorem flog_allOff (s : State) (after : DomState) :
    (s.allOff after).flog0 = s.flog0 ∧ (s.allOff after).flog1 = s.flog1 := by
  have h := only_State_allOff s after (Only.refl s) (List.Subset.refl _) (List.Subset.refl _)
  exact ⟨h.part .flog0 (by decide), h.part .flog1 (by decide)⟩

/-- R339: the release of the alert is shown and its time kept. -/
theorem vinAlertRelease_releases (s : State) (ha : s.vinAlert = true) :
    ∃ t, exec .vinAlertRelease s = .next t ∧ Only [.vinAlert, .vinHighSince, .vinReturned] [.vinStat] s t ∧
      t.vinAlert = false ∧ t.vinHighSince = s.now ∧ t.vinReturned = 0 ∧ t.regBit .vinStat 31 = false := by
  have he := exec_vinAlertRelease s ha
  have hbit : (s.clrBit .vinStat 31).regBit .vinStat 31 = false :=
    (s.regBit_clrBit .vinStat 31 31 (by decide) (by decide)).trans (by simp)
  generalize s.clrBit .vinStat 31 = u at he hbit
  refine ⟨_, he, Only.ofExec (only_execVinAlertRelease s) he, rfl, rfl, rfl, State.regBit_of_regs hbit rfl rfl⟩

/-- R340: a brownout is shown and logged, and every domain is off. -/
theorem brownout_turnsOff (s : State) (vin : BitVec 16) (hr : s.running = true) (hb : s.brownedOut = false) :
    ∃ t, exec (.brownout vin) s = .next t ∧
      Only [.brownedOut, .mem, .checks, .stores, .cores, .beds, .domains, .ports, .guests, .reqs, .quiesced, .flog0, .flog1,
        .alive, .standby, .hbActive, .hbStandby, .removing, .revocation, .engines, .xfers, .lists] [.vregCtl, .vinStat, .vstat] s t ∧
      t.brownedOut = true ∧ t.alive = false ∧ t.lists = [] ∧ t.regF .vinStat 0 16 = vin.toNat ∧
      (∀ d, d < 12 → (t.dom d).state ≠ .on ∧ (t.dom d).state ≠ .ramp ∧ t.regBit (.vregCtl d) 31 = false) ∧
      Claims.logs s t (Claims.entry s 0x24 4 0x10 0x70 0xFFFF vin.toNat 0) := by
  obtain ⟨hvin, hlog⟩ := brownoutLogged_shows vin s
  obtain ⟨t, he, hdone, hout⟩ := exec_brownout vin s hr hb
  have hreg := reg_allOff_apart (brownoutLogged vin.toNat s) .off .vinStat Reg.vinStat_off_ne_vregCtl Reg.vinStat_off_ne
  have hdom := dom_allOff (brownoutLogged vin.toNat s) .off
  have hctl := regBit_vregCtl_allOff (brownoutLogged vin.toNat s) .off
  obtain ⟨h0, h1⟩ := flog_allOff (brownoutLogged vin.toNat s) .off
  obtain ⟨halive, hlists⟩ := gone_allOff (brownoutLogged vin.toNat s) .off
  generalize (brownoutLogged vin.toNat s).allOff .off = u at hout hreg hdom hctl h0 h1 halive hlists
  generalize brownoutLogged vin.toNat s = b at hvin hlog hreg hdom h0 h1
  refine ⟨t, he, Only.ofExec (only_execBrownout vin s) he, hdone, (hout.part .alive (by decide)).trans halive,
    (hout.part .lists (by decide)).trans hlists, ?_, fun d hd => ?_, ?_⟩
  · exact (State.regF_congr ((hout.reg_eq _).trans hreg) 0 16).trans hvin
  · obtain ⟨hon, hramp⟩ := Domain.turnOff_off (b.dom d) b.now
    rw [← hdom d hd, ← State.dom_congr (hout.part .domains (by decide))] at hon hramp
    exact ⟨hon, hramp, (State.regBit_congr (hout.reg_eq _) 31).trans (hctl d hd)⟩
  · rw [← h0, ← h1] at hlog
    rw [Claims.logs, hout.part .flog0 (by decide), hout.part .flog1 (by decide)]
    exact hlog

/-- Settles O30: the alert holds every envelope low, a return frees the tower whose turn it is, and a brownout turns every
domain off. -/
theorem vinAlertAndBrownout : Obligations.VinAlertAndBrownout := by
  unfold Obligations.VinAlertAndBrownout
  refine fun s => ⟨fun hr ha => ?alert, fun ha => ?release, fun ha hn hd => ?back, fun vin hr hb => ?brownout⟩
  case alert =>
    have he : exec .vinAlert s = .next ((List.range 8).foldl State.holdLow (alertReported s)) :=
      (exec_vinAlert s).trans (congrArg Host.Outcome.next (vinAlert_eq s hr ha))
    have hend : (alertReported s).vinAlert = true ∧ (alertReported s).vinReturned = 0 := ⟨rfl, rfl⟩
    obtain ⟨h31, h30, hcnt⟩ := alertReported_regs s
    generalize alertReported s = u at he hend h31 h30 hcnt
    have hreg := reg_foldl_holdLow u
    refine ⟨_, he, Only.ofExec (only_execVinAlert s) he, ((only_holdLow u).part .vinAlert (by decide)).trans hend.1,
      ((only_holdLow u).part .vinReturned (by decide)).trans hend.2, ?_, ?_, ?_, low_of_vinAlert _⟩
    · exact (State.regBit_congr (hreg _ Reg.vinStat_off_ne) 31).trans h31
    · exact (State.regBit_congr (hreg _ Reg.vinStat_off_ne) 30).trans h30
    · exact (State.regF_congr (hreg _ Reg.vinAlertcnt_off_ne) 0 32).trans hcnt
  case release => exact vinAlertRelease_releases s ha
  case back =>
    have he := exec_envelopeReturn s ha hn hd
    have henv := freeLow_env s s.vinReturned
    have hself : ((s.freeLow s.vinReturned).therm s.vinReturned).vinLow = false := by simp [State.freeLow]
    have hother : ∀ w, w ≠ s.vinReturned → (s.freeLow s.vinReturned).therm w = s.therm w := fun w h => by
      simp [State.freeLow, h]
    generalize s.freeLow s.vinReturned = u at he henv hself hother
    exact ⟨_, he, Only.ofExec (only_execEnvelopeReturn s) he, rfl, hself, hother, henv⟩
  case brownout => exact brownout_turnsOff s vin hr hb

/-! ### Step-rate monitor -/

/-- The monitor's state once a measurement has been kept. -/
def stepmonKept (w rate : Nat) (s : State) : State :=
  s.setTherm w { s.therm w with windowMin := some (match (s.therm w).windowMin with
    | some m => min m rate
    | none => rate) }

/-- The monitor's state once a slow rate has been shown and its event raised. -/
def stepmonSlow (w rate : Nat) (s : State) : State :=
  ((stepmonKept w rate s).setBit (.stepmon w) 15).raise (srcTower w 0)

theorem exec_stepmonMeasurement (core : Fin 64) (ticks : BitVec 16) (s : State)
    (hon : (s.dom (core.val / 8)).state = .on) (huv : (s.dom (core.val / 8)).uvSince = none) :
    exec (.stepmonMeasurement core ticks) s = .next
      (let w := core.val / 8
       let rate := rateOf ticks.toNat
       if 819200 < minRate (s.regF (.vstat w) 16 16) * ticks.toNat then
         (stepmonSlow w rate s).log 0x0010 2 w (0x40 + w) noTenant rate (s.regF (.vstat w) 16 16)
       else stepmonKept w rate s) :=
  congrArg Host.Outcome.next (if_neg (by simp [hon, huv]))

theorem therm_stepmonKept (w rate v : Nat) (s : State) : (stepmonKept w rate s).therm v =
    if v = w then { s.therm w with windowMin := some (match (s.therm w).windowMin with
      | some m => min m rate
      | none => rate) } else s.therm v := State.therm_setTherm _ _ _ _

theorem srcExists_srcTower (w o : Nat) (hw : w < 8) (ho : o < 7) : srcExists (srcTower w o) = true := by
  have h1 : ¬ srcTower w o < 0x200 := by unfold srcTower; omega
  have h2 : srcTower w o < 0x280 := by unfold srcTower; omega
  have h3 : (srcTower w o - 0x200) % 16 < 7 := by unfold srcTower; omega
  rw [srcExists, if_neg h1, if_pos h2]
  exact decide_eq_true h3

/-- R50: a slow rate is shown, its event raised and the rate kept. -/
theorem stepmonSlow_shows (w rate : Nat) (s : State) (hw : w < 8) :
    (stepmonSlow w rate s).therm = (stepmonKept w rate s).therm ∧
      (∀ v, v ≠ w → (stepmonSlow w rate s).reg (.stepmon v) = s.reg (.stepmon v)) ∧
      (stepmonSlow w rate s).regBit (.stepmon w) 15 = true ∧ Claims.raises s (stepmonSlow w rate s) (srcTower w 0) ∧
      (stepmonSlow w rate s).tb = s.tb ∧ (stepmonSlow w rate s).flog0 = s.flog0 ∧ (stepmonSlow w rate s).flog1 = s.flog1 := by
  have hr := only_raise ((stepmonKept w rate s).setBit (.stepmon w) 15) (srcTower w 0)
  have hk : Only [.thermal] [.stepmon] s ((stepmonKept w rate s).setBit (.stepmon w) 15) :=
    only_State_setBit _ (.stepmon w) 15 (only_State_setTherm s w _ (Only.refl s) (List.Subset.refl _)) (List.mem_singleton.2 rfl)
  have hbit := State.regBit_setBit (stepmonKept w rate s) (.stepmon w) 15 15 (by decide) (by decide)
  have htherm : ((stepmonKept w rate s).setBit (.stepmon w) 15).therm = (stepmonKept w rate s).therm := State.therm_setF ..
  have hreg : ∀ v, v ≠ w → ((stepmonKept w rate s).setBit (.stepmon w) 15).reg (.stepmon v) = s.reg (.stepmon v) := fun v hv => by
    rw [State.setBit, State.reg_setF_ne _ _ _ _ _ _ (Reg.stepmon_off_ne hv), stepmonKept, State.reg_setTherm]
  have hraise := raises_after (srcExists_srcTower w 0 hw (by decide)) hk (by decide) rfl
  rw [stepmonSlow]
  generalize (stepmonKept w rate s).setBit (.stepmon w) 15 = u at hr hk hbit htherm hreg hraise
  refine ⟨(State.therm_congr (hr.part .thermal (by decide))).trans htherm, fun v hv => (hr.reg_eq _).trans (hreg v hv),
    (State.regBit_congr (hr.reg_eq _) 15).trans (hbit.trans (by simp)), hraise,
    (hr.part .tb (by decide)).trans (hk.part .tb (by decide)), (hr.part .flog0 (by decide)).trans (hk.part .flog0 (by decide)),
    (hr.part .flog1 (by decide)).trans (hk.part .flog1 (by decide))⟩

theorem exec_stepmonWindowEnd (tower : Fin 8) (m : Nat) (s : State) (hm : (s.therm tower.val).windowMin = some m)
    (hd : (s.therm tower.val).windowStart + windowTicks (s.regF (.stepmon tower.val) 0 2) ≤ s.now) :
    exec (.stepmonWindowEnd tower) s = .next ((s.setF (.stepmon tower.val) 16 16 m).setTherm tower.val
      { s.therm tower.val with windowMin := none, windowStart := s.now }) := by
  refine (congrArg Host.Outcome.next (if_pos hd)).trans ?_
  rw [hm]
  rfl

/-- Settles O32: a measurement is kept whatever it is, and reported where it is slow; a window's end publishes the
lowest. -/
theorem stepRateIsMonitored : Obligations.StepRateIsMonitored := by
  unfold Obligations.StepRateIsMonitored
  refine ⟨fun core ticks s hon huv => ?measure, fun tower m s hm hd => ?windowEnd⟩
  case measure =>
    have he := exec_stepmonMeasurement core ticks s hon huv
    have hw : core.val / 8 < 8 := by omega
    refine ⟨_, he, Only.ofExec (only_execStepmonMeasurement core ticks s) he, ?_⟩
    clear he hon huv
    generalize core.val / 8 = w at hw
    have hkept := fun v => therm_stepmonKept w (rateOf ticks.toNat) v s
    dsimp only
    split
    case isTrue hslow =>
      obtain ⟨htherm, hreg, hbit, hraise, htb, h0, h1⟩ := stepmonSlow_shows w (rateOf ticks.toNat) s hw
      have hlog := only_log (stepmonSlow w (rateOf ticks.toNat) s) 0x0010 2 w (0x40 + w) noTenant (rateOf ticks.toNat) (s.regF (.vstat w) 16 16)
      generalize stepmonSlow w (rateOf ticks.toNat) s = u at htherm hreg hbit hraise htb h0 h1 hlog
      rw [State.therm_congr (hlog.part .thermal (by decide)), htherm, hkept, if_pos rfl]
      refine ⟨rfl, fun v hv => ⟨by rw [hkept, if_neg hv], (hlog.reg_eq _).trans (hreg v hv)⟩,
        (State.regBit_congr (hlog.reg_eq _) 15).trans hbit, ?_, ?_⟩
      · rwa [Claims.raises, hlog.part .ic (by decide)]
      · have hl := logs_after (s := s) (u := u) (code := 0x10) (sev := 2) (die := w) (node := 0x40 + w) (tenant := noTenant)
          (d0 := rateOf ticks.toNat) (d1 := s.regF (.vstat w) 16 16) htb h0 h1 rfl rfl
        rwa [show dieField w = w from if_pos hw] at hl
    case isFalse hfast =>
      have hk : Only [.thermal] [] s (stepmonKept w (rateOf ticks.toNat) s) := only_State_setTherm s w _ (Only.refl s) (List.Subset.refl _)
      refine ⟨by rw [hkept, if_pos rfl]; rfl, fun v hv => ⟨by rw [hkept, if_neg hv], hk.reg_eq _⟩, hk.reg_eq _,
        hk.part .ic (by decide), hk.part .flog0 (by decide), hk.part .flog1 (by decide)⟩
  case windowEnd =>
    have he := exec_stepmonWindowEnd tower m s hm hd
    have hreg := State.reg_setTherm (s.setF (.stepmon tower.val) 16 16 m) tower.val
      { s.therm tower.val with windowMin := none, windowStart := s.now }
    have hmin := s.regF_setF_same (.stepmon tower.val) 16 16 m (by decide)
    have hsel := s.regF_setF_apart (.stepmon tower.val) 16 16 m 0 2 (by decide) (by decide)
    generalize s.setF (.stepmon tower.val) 16 16 m = u at he hreg hmin hsel
    refine ⟨_, he, Only.ofExec (only_execStepmonWindowEnd tower s) he, (State.regF_congr (congrFun hreg _) 16 16).trans hmin,
      (State.regF_congr (congrFun hreg _) 0 2).trans hsel, ?_, ?_⟩
    · simp
    · simp

end Sys2Proof.Machine
end

section
/-! Core samples (R426), indicator checks (R440) and the test port (R437). -/

namespace Sys2Proof.Machine

/-! ### Core samples -/

theorem exec_coreSample_idle (s : State) (h : s.served = false ∨ s.regBit .csStat 31 = true) :
    exec .coreSample s = .next s :=
  congrArg Host.Outcome.next (if_pos (by rcases h with h | h <;> simp [h]))

theorem exec_coreSample (s : State) (hs : s.served = true) (hr : s.regBit .csStat 31 = false) :
    ∃ t, exec .coreSample s = .next t ∧
      if s.regF .csLen 0 32 < 0x1000000 then t = s.setBit .csStat 29
      else t.sampling = true ∧ Only [.sampling] [] (s.setBit .csStat 31) t := by
  refine ⟨_, congrArg Host.Outcome.next (if_neg (by simp [hs, hr])), ?_⟩
  split
  case isTrue => rfl
  case isFalse => exact ⟨rfl, Only.upd_sampling (Only.refl _) (List.mem_singleton_self _)⟩

theorem coreSample_starts (s : State) (hs : s.served = true) (hr : s.regBit .csStat 31 = false) :
    ∃ t, exec .coreSample s = .next t ∧ Only [.sampling] [.csStat] s t ∧
      if s.regF .csLen 0 32 < 0x1000000 then t.regBit .csStat 29 = true ∧ t.regBit .csStat 31 = false ∧ t.sampling = s.sampling
      else t.regBit .csStat 31 = true ∧ t.sampling = true := by
  obtain ⟨t, he, ht⟩ := exec_coreSample s hs hr
  have hbit := fun c b hb hc => s.regBit_setBit .csStat c b hb hc
  refine ⟨t, he, Only.ofExec (only_execCoreSample s) he, ?_⟩
  split
  case isTrue h =>
    rw [if_pos h] at ht
    subst ht
    rw [hbit 29 29 (by decide) (by decide), hbit 29 31 (by decide) (by decide), hr]
    exact ⟨by simp, by simp, (only_State_setBit (Ps := []) (Ks := [.csStat]) s .csStat 29 (Only.refl s)
      (List.mem_singleton_self _)).part .sampling (by decide)⟩
  case isFalse h =>
    rw [if_neg h] at ht
    obtain ⟨hsam, ho⟩ := ht
    rw [State.regBit_congr (ho.reg_eq _) 31, hbit 31 31 (by decide) (by decide)]
    exact ⟨by simp, hsam⟩

theorem exec_coreSampleComplete_idle (ok : Bool) (size : BitVec 29) (s : State)
    (h : s.served = false ∨ s.regBit .csStat 31 = false) : exec (.coreSampleComplete ok size) s = .next s :=
  congrArg Host.Outcome.next (if_pos (by rcases h with h | h <;> simp [h]))

/-- R426: the state in which the sample no longer runs. -/
def State.sampleEnded (s : State) : State := { s.clrBit .csStat 31 with sampling := false }

theorem exec_coreSampleComplete (ok : Bool) (size : BitVec 29) (s : State) (hs : s.served = true)
    (hr : s.regBit .csStat 31 = true) : exec (.coreSampleComplete ok size) s = .next
      (if ok then ((s.sampleEnded.setBit .csStat 30).setF .csStat 0 29 size.toNat).emit
        (.coreSample (s.reg .csAddr).toNat size.toNat s.fwBuild s.fpGen s.tb.count)
       else s.sampleEnded.setBit .csStat 29) := by
  have h : ¬ (!(s.regBit .csStat 31 && s.served)) = true := by simp [hs, hr]
  refine congrArg Host.Outcome.next (?_ : coreSampleComplete ok size.toNat s = _)
  rw [coreSampleComplete, if_neg h]
  cases ok <;> simp only [State.sampleEnded, Bool.not_true, Bool.not_false, if_true, if_false, Bool.false_eq_true]

theorem sampleEnded_shows (s : State) : s.sampleEnded.sampling = false ∧ s.sampleEnded.out = s.out ∧
    s.sampleEnded.regBit .csStat 31 = false := by
  have h : Only [.sampling] [] (s.clrBit .csStat 31) s.sampleEnded :=
    Only.upd_sampling (Only.refl _) (List.mem_singleton_self _)
  have hc := only_State_clrBit (Ps := []) (Ks := [.csStat]) s .csStat 31 (Only.refl s) (List.mem_singleton_self _)
  refine ⟨rfl, (h.part .out (by decide)).trans (hc.part .out (by decide)), ?_⟩
  rw [State.regBit_congr (h.reg_eq _) 31, s.regBit_clrBit .csStat 31 31 (by decide) (by decide)]
  simp

theorem coreSampleComplete_ends (ok : Bool) (size : BitVec 29) (s : State) (hs : s.served = true)
    (hr : s.regBit .csStat 31 = true) : ∃ t, exec (.coreSampleComplete ok size) s = .next t ∧
      Only [.out, .sampling] [.csStat] s t ∧ t.sampling = false ∧ t.regBit .csStat 31 = false ∧
      if ok then t.regBit .csStat 30 = true ∧ t.regF .csStat 0 29 = size.toNat ∧
        t.out = .coreSample (s.reg .csAddr).toNat size.toNat s.fwBuild s.fpGen s.tb.count :: s.out
      else t.regBit .csStat 29 = true ∧ t.out = s.out := by
  have he := exec_coreSampleComplete ok size s hs hr
  refine ⟨_, he, Only.ofExec (only_execCoreSampleComplete ok size s) he, ?_⟩
  clear he
  obtain ⟨hsam, hout, hrun⟩ := sampleEnded_shows s
  generalize s.sampleEnded = u at hsam hout hrun
  have hf := fun (v : State) lo w x =>
    only_State_setF (Ps := []) (Ks := [.csStat]) v .csStat lo w x (Only.refl v) (List.mem_singleton_self _)
  have hbit := fun c b hb hc => u.regBit_setBit .csStat c b hb hc
  cases ok with
  | true =>
    have h1 := hf u 30 1 1
    have h2 := hf (u.setBit .csStat 30) 0 29 size.toNat
    have hsize := (u.setBit .csStat 30).regF_setF_same .csStat 0 29 size.toNat (by decide)
    have hkeep := fun b => (u.setBit .csStat 30).regBit_setF_apart .csStat 0 29 size.toNat b (by decide)
    simp only [if_true]
    rw [State.setBit] at *
    generalize (u.setF .csStat 30 1 1).setF .csStat 0 29 size.toNat = x at h2 hsize hkeep
    have he := only_State_emit (Ps := [.out]) (Ks := []) x (.coreSample (s.reg .csAddr).toNat size.toNat s.fwBuild s.fpGen s.tb.count)
      (Only.refl x) (List.Subset.refl _)
    refine ⟨(he.part .sampling (by decide)).trans ((h2.part .sampling (by decide)).trans
      ((h1.part .sampling (by decide)).trans hsam)), ?_, ?_, ?_, ?_⟩
    · rw [State.regBit_congr (he.reg_eq _) 31, hkeep 31 (by decide)]
      exact (hbit 30 31 (by decide) (by decide)).trans (by simp [hrun])
    · rw [State.regBit_congr (he.reg_eq _) 30, hkeep 30 (by decide)]
      exact (hbit 30 30 (by decide) (by decide)).trans (by simp)
    · rw [State.regF_congr (he.reg_eq _) 0 29, hsize, Nat.mod_eq_of_lt size.isLt]
    · have hx : x.out = s.out := (h2.part .out (by decide)).trans ((h1.part .out (by decide)).trans hout)
      exact congrArg _ hx
  | false =>
    have h1 := hf u 29 1 1
    simp only [Bool.false_eq_true, if_false]
    exact ⟨(h1.part .sampling (by decide)).trans hsam, (hbit 29 31 (by decide) (by decide)).trans (by simp [hrun]),
      (hbit 29 29 (by decide) (by decide)).trans (by simp), (h1.part .out (by decide)).trans hout⟩

/-! ### Indicators -/

theorem Reg.indCtl_off (n : Nat) : (Reg.indCtl n).off = blk 8 + 0xD00 + 8 * n := rfl
theorem Reg.indStat_off (n : Nat) : (Reg.indStat n).off = blk 8 + 0xD04 + 8 * n := rfl
theorem Reg.pkgHardpan_off : Reg.pkgHardpan.off = blk 8 + 0xA08 := rfl

theorem Reg.indCtl_off_ne_indStat (n m : Nat) : (Reg.indCtl n).off ≠ (Reg.indStat m).off := by
  simp only [Reg.indCtl_off, Reg.indStat_off, blk]; omega

theorem Reg.pkgHardpan_off_ne_indStat (m : Nat) : Reg.pkgHardpan.off ≠ (Reg.indStat m).off := by
  simp only [Reg.pkgHardpan_off, Reg.indStat_off, blk]; omega

theorem lampPeriod_pos (c : Nat) : 0 < lampPeriod c := by
  unfold lampPeriod
  split <;> decide

/-- What a driver does hangs on the settings and on what the part does. -/
theorem State.lamp_congr {s t : State} (n : Nat) (hc : t.reg (.indCtl n) = s.reg (.indCtl n))
    (hh : t.reg .pkgHardpan = s.reg .pkgHardpan) (hv : t.vaux = s.vaux) (hn : t.resetN = s.resetN) (hb : t.boot = s.boot) :
    t.lamp n = s.lamp n := by
  have hpan : t.inHardpan = s.inHardpan := State.regBit_congr hh 31
  have hrun : t.running = s.running := by rw [State.running, State.running, hv, hn, hpan]
  have hstate : t.bootState = s.bootState := by
    rw [State.bootState, State.bootState, State.bwF, State.bwF, State.bw, State.bw, hb]
  rw [State.lamp, State.lamp, hpan, hrun, hstate, State.regF_congr hc 27 2, State.regF_congr hc 29 2,
    State.regF_congr hc 0 9, State.regBit_congr hc 31]

theorem State.lamp_gap_pos (s : State) (n gap : Nat) (h : s.lamp n = .long gap) : 0 < gap := by
  unfold State.lamp at h
  have hp := lampPeriod_pos (s.regF (.indCtl n) 27 2)
  dsimp only at h
  split at h
  · split at h <;> simp_all <;> omega
  · split at h
    · exact absurd h (by simp)
    · split at h
      · exact absurd h (by simp)
      · rw [← Lamp.long.inj h]; exact hp

/-- The instant or second of a check that is made now. -/
def State.checkMark (s : State) (n : Nat) : Nat := if s.lamp n = .short then s.tb.count / 200000000 + 1 else s.now + 1

/-- R440: a check that was made is not due again. -/
theorem lampDue_of_checked {s t : State} (n : Nat) (hl : t.lamp n = s.lamp n) (ht : t.tb = s.tb) (hn : t.now = s.now)
    (hm : num t.lampCheck n = s.checkMark n) : t.lampDue n = false := by
  unfold State.lampDue
  rw [hl, ht, hn, hm, State.checkMark]
  cases h : s.lamp n with
  | off => rfl
  | short => simp
  | long gap =>
    have := s.lamp_gap_pos n gap h
    simp
    omega

theorem exec_indicatorTestPulse_idle (lamp : Fin 4) (lampOpen : Bool) (s : State) (h : s.lampDue lamp.val = false) :
    exec (.indicatorTestPulse lamp lampOpen) s = .next s :=
  congrArg Host.Outcome.next (if_pos (by simp [h]))

/-- R440: the state in which the check is kept. -/
def State.lampChecked (s : State) (n : Nat) : State := { s with lampCheck := setNum s.lampCheck n (s.checkMark n) }

theorem exec_indicatorTestPulse (lamp : Fin 4) (lampOpen : Bool) (s : State) (h : s.lampDue lamp.val = true) :
    exec (.indicatorTestPulse lamp lampOpen) s = .next
      (if lampOpen then (((s.lampChecked lamp.val).setBit (.indStat lamp.val) 31).setBit (.indStat lamp.val) 30).countF
        (.indStat lamp.val) 0 16 1
       else (s.lampChecked lamp.val).clrBit (.indStat lamp.val) 31) :=
  congrArg Host.Outcome.next (if_neg (by simp [h]))

/-- What a failed check shows: both flags set, and one more failure counted. -/
theorem State.regs_checkFailed (s : State) (r : Reg) :
    (((s.setBit r 31).setBit r 30).countF r 0 16 1).regBit r 31 = true ∧
      (((s.setBit r 31).setBit r 30).countF r 0 16 1).regBit r 30 = true ∧
      (((s.setBit r 31).setBit r 30).countF r 0 16 1).regF r 0 16 = min 0xFFFF (s.regF r 0 16 + 1) := by
  have hc := ((s.setBit r 31).setBit r 30).regF_countF r 0 16 1 (by decide)
  have hk := fun x b => ((s.setBit r 31).setBit r 30).regBit_setF_apart r 0 16 x b (by decide)
  have h1 := fun b hb => (s.setBit r 31).regBit_setBit r 30 b hb (by decide)
  have h0 := fun b hb => s.regBit_setBit r 31 b hb (by decide)
  have hf : ((s.setBit r 31).setBit r 30).regF r 0 16 = s.regF r 0 16 := by
    rw [State.setBit, State.regF_setF_apart _ _ 30 1 1 0 16 (by decide) (by decide), State.setBit,
      State.regF_setF_apart _ _ 31 1 1 0 16 (by decide) (by decide)]
  refine ⟨?_, ?_, hc.trans (by rw [hf]; rfl)⟩
  · rw [State.countF, hk _ 31 (by decide), h1 31 (by decide), h0 31 (by decide)]
    simp
  · rw [State.countF, hk _ 30 (by decide), h1 30 (by decide)]
    simp

/-- What a passed check shows: the flag of the last check cleared. -/
theorem State.regs_checkPassed (s : State) (r : Reg) : (s.clrBit r 31).regBit r 31 = false ∧
    (s.clrBit r 31).regBit r 30 = s.regBit r 30 ∧ (s.clrBit r 31).regF r 0 16 = s.regF r 0 16 := by
  refine ⟨?_, ?_, s.regF_setF_apart r 31 1 0 0 16 (by decide) (by decide)⟩
  · rw [s.regBit_clrBit r 31 31 (by decide) (by decide)]; simp
  · rw [s.regBit_clrBit r 31 30 (by decide) (by decide)]; simp

/-- A write of an indicator's status leaves what its driver does, and the checks made. -/
theorem lampDue_of_only {s u t : State} (n : Nat) (h : Only [.lampCheck] [] s u) (hm : num u.lampCheck n = s.checkMark n)
    (ht : Only [] [.indStat] u t) (hc : t.reg (.indCtl n) = u.reg (.indCtl n)) (hh : t.reg .pkgHardpan = u.reg .pkgHardpan) :
    t.lampDue n = false := by
  refine lampDue_of_checked (s := s) n ?_ ((ht.part .tb (by decide)).trans (h.part .tb (by decide)))
    ((ht.part .now (by decide)).trans (h.part .now (by decide))) ?_
  · exact State.lamp_congr n (hc.trans (h.reg_eq _)) (hh.trans (h.reg_eq _))
      ((ht.part .vaux (by decide)).trans (h.part .vaux (by decide)))
      ((ht.part .resetN (by decide)).trans (h.part .resetN (by decide)))
      ((ht.part .boot (by decide)).trans (h.part .boot (by decide)))
  · rw [ht.part .lampCheck (by decide)]; exact hm

theorem indicatorTestPulse_checks (lamp : Fin 4) (lampOpen : Bool) (s : State) (h : s.lampDue lamp.val = true) :
    ∃ t, exec (.indicatorTestPulse lamp lampOpen) s = .next t ∧ Only [.lampCheck] [.indStat] s t ∧
      t.regBit (.indStat lamp.val) 31 = lampOpen ∧ t.regBit (.indStat lamp.val) 30 = (lampOpen || s.regBit (.indStat lamp.val) 30) ∧
      t.regF (.indStat lamp.val) 0 16 = (if lampOpen then min 0xFFFF (s.regF (.indStat lamp.val) 0 16 + 1)
        else s.regF (.indStat lamp.val) 0 16) ∧ t.lampDue lamp.val = false := by
  have he := exec_indicatorTestPulse lamp lampOpen s h
  refine ⟨_, he, Only.ofExec (only_execIndicatorTestPulse lamp lampOpen s) he, ?_⟩
  clear he h
  generalize lamp.val = n
  have hu : Only [.lampCheck] [] s (s.lampChecked n) := Only.upd_lampCheck (Only.refl _) (List.mem_singleton_self _)
  have hm : num (s.lampChecked n).lampCheck n = s.checkMark n := by
    rw [State.lampChecked, num_setNum, if_pos rfl]
  generalize s.lampChecked n = u at hu hm
  rw [← State.regBit_congr (hu.reg_eq (.indStat n)) 30, ← State.regF_congr (hu.reg_eq (.indStat n)) 0 16]
  have hne := Reg.indCtl_off_ne_indStat n n
  have hne2 := Reg.pkgHardpan_off_ne_indStat n
  have hin : (Reg.indStat n).kind ∈ [RegKind.indStat] := List.mem_singleton_self _
  have hfail := u.regs_checkFailed (.indStat n)
  have hpass := u.regs_checkPassed (.indStat n)
  have hdue := fun t => lampDue_of_only (t := t) n hu hm
  generalize Reg.indStat n = r at hne hne2 hin hfail hpass
  have hf := fun (v : State) lo w x (hv : Only [] [.indStat] u v) => only_State_setF v r lo w x hv hin
  cases lampOpen with
  | true =>
    obtain ⟨h31, h30, hcnt⟩ := hfail
    refine ⟨h31, h30, hcnt, hdue _ (hf _ _ _ _ (hf _ _ _ _ (hf _ _ _ _ (Only.refl u)))) ?_ ?_⟩
    · exact (State.reg_setF_ne _ _ _ _ _ _ hne).trans ((State.reg_setF_ne _ _ _ _ _ _ hne).trans (State.reg_setF_ne _ _ _ _ _ _ hne))
    · exact (State.reg_setF_ne _ _ _ _ _ _ hne2).trans ((State.reg_setF_ne _ _ _ _ _ _ hne2).trans (State.reg_setF_ne _ _ _ _ _ _ hne2))
  | false =>
    obtain ⟨h31, h30, hcnt⟩ := hpass
    exact ⟨h31, h30, hcnt, hdue _ (hf _ _ _ _ (Only.refl u)) (State.reg_setF_ne _ _ _ _ _ _ hne)
      (State.reg_setF_ne _ _ _ _ _ _ hne2)⟩

/-! ### The test port -/

theorem exec_idcode (s : State) : exec .idcode s = .next (if s.running then s.emit (.jtag 0x10880A47) else s) := rfl
theorem exec_bypass (tdi : Bool) (s : State) : exec (.bypass tdi) s = .next (if s.running then s.emit (.jtag (b2n tdi)) else s) := rfl
theorem exec_samplePreload (s : State) :
    exec .samplePreload s = .next (if s.running then (s.emit (.jtag (s.freeNat 64))).bumpFree else s) := rfl

theorem only_emit (s : State) (o : Output) : Only [.out] [] s (s.emit o) :=
  only_State_emit s o (Only.refl s) (List.Subset.refl _)

/-- Settles O60: each command by the equation of what it does, and outside running the test port answers nothing. -/
theorem samplesIndicatorsAndTestPort : Obligations.SamplesIndicatorsAndTestPort := by
  unfold Obligations.SamplesIndicatorsAndTestPort
  refine fun s => ⟨exec_coreSample_idle s, coreSample_starts s,
    fun ok size => ⟨exec_coreSampleComplete_idle ok size s, coreSampleComplete_ends ok size s⟩,
    fun lamp lampOpen => ⟨exec_indicatorTestPulse_idle lamp lampOpen s, indicatorTestPulse_checks lamp lampOpen s⟩,
    fun hr => ?down, fun hr => ?up⟩
  case down =>
    rw [exec_idcode, exec_samplePreload, hr]
    exact ⟨rfl, rfl, fun tdi => by rw [exec_bypass, hr]; rfl⟩
  case up =>
    rw [exec_idcode, exec_samplePreload, hr]
    refine ⟨⟨_, rfl, only_emit s _, rfl⟩, ⟨_, s.freeNat 64, rfl, ?_, rfl⟩, fun tdi => ⟨_, by rw [exec_bypass, hr, if_pos rfl], ?_, rfl⟩⟩
    · exact only_State_bumpFree _ (only_State_emit s _ (Only.refl s) (by decide)) (by decide)
    · exact only_emit s _

end Sys2Proof.Machine
end

section
/-! Fields of byte lists, the quantise counters (R111 to R114) and the floor-plan record (R26 to R34). -/

namespace Sys2Proof.Machine

/-! ### Fields of byte lists -/

theorem leNat_leBytes (n v : Nat) : leNat (leBytes n v) = v % 256 ^ n := by
  induction n generalizing v with
  | zero => simp [leBytes, leNat, Nat.mod_one]
  | succ n ih =>
    have hb : (BitVec.ofNat 8 v).toNat = v % 256 := by simp
    rw [leBytes, leNat, ih, hb, Nat.pow_succ', Nat.mod_mul]

theorem fieldAt_append_right (a b : List Byte) (o n : Nat) (h : a.length ≤ o) :
    fieldAt (a ++ b) o n = fieldAt b (o - a.length) n := by
  rw [fieldAt, fieldAt, List.drop_append, List.drop_eq_nil_of_le h, List.nil_append]

theorem fieldAt_append_left (a b : List Byte) (o n : Nat) (h : o + n ≤ a.length) :
    fieldAt (a ++ b) o n = fieldAt a o n := by
  rw [fieldAt, fieldAt, List.drop_append_of_le_length (by omega),
    List.take_append_of_le_length (by rw [List.length_drop]; omega)]

theorem fieldAt_leBytes (n v : Nat) : fieldAt (leBytes n v) 0 n = v % 256 ^ n := by
  rw [fieldAt, List.drop_zero, List.take_of_length_le (by simp), leNat_leBytes]

/-- A field in the middle of a record: what stands before it fills its offset. -/
theorem fieldAt_middle (a c : List Byte) (o n v : Nat) (h : a.length = o) :
    fieldAt (a ++ (leBytes n v ++ c)) o n = v % 256 ^ n := by
  rw [fieldAt_append_right _ _ _ _ (by omega), h, Nat.sub_self, fieldAt_append_left _ _ _ _ (by simp), fieldAt_leBytes]

theorem length_flatMap_leBytes (m n : Nat) (f : Nat → Nat) :
    ((List.range m).flatMap fun i => leBytes n (f i)).length = n * m := by
  induction m with
  | zero => rfl
  | succ m ih =>
    rw [List.range_succ, List.flatMap_append, List.length_append, ih]
    simp [Nat.mul_succ]

/-- An entry of a table in a record. -/
theorem fieldAt_table (m n k : Nat) (f : Nat → Nat) (h : k < m) :
    fieldAt ((List.range m).flatMap fun i => leBytes n (f i)) (n * k) n = f k % 256 ^ n := by
  induction m with
  | zero => exact absurd h (Nat.not_lt_zero _)
  | succ m ih =>
    rw [List.range_succ, List.flatMap_append]
    by_cases hk : k < m
    · rw [fieldAt_append_left _ _ _ _ (by rw [length_flatMap_leBytes, ← Nat.mul_succ]; exact Nat.mul_le_mul_left n hk), ih hk]
    · have hkm : k = m := by omega
      rw [fieldAt_append_right _ _ _ _ (by rw [length_flatMap_leBytes, hkm]), length_flatMap_leBytes, hkm, Nat.sub_self,
        List.flatMap_singleton, fieldAt_leBytes]

/-- An entry of a table that stands in a record. -/
theorem fieldAt_table_middle (a c : List Byte) (o m n k : Nat) (f : Nat → Nat) (ha : a.length = o) (h : k < m) :
    fieldAt (a ++ (((List.range m).flatMap fun i => leBytes n (f i)) ++ c)) (o + n * k) n = f k % 256 ^ n := by
  have hlen : n * k + n ≤ n * m := by rw [← Nat.mul_succ]; exact Nat.mul_le_mul_left n h
  rw [fieldAt_append_right _ _ _ _ (by omega), ha, Nat.add_sub_cancel_left,
    fieldAt_append_left _ _ _ _ (by rw [length_flatMap_leBytes]; exact hlen), fieldAt_table m n k f h]

/-- A number read back from bytes that were just written. -/
theorem rdLe_wrBytes_field (m : List (Nat × Byte)) (bs : List Byte) (o n : Nat) (h : o + n ≤ bs.length) :
    rdLe (wrBytes m 0 bs) o n = fieldAt bs o n := by
  rw [rdLe, fieldAt]
  refine congrArg leNat (List.ext_getElem (by simp [rdBytes]; omega) fun i hi _ => ?_)
  have hin : i < n := by simpa [rdBytes] using hi
  have hb := rdB_wrBytes_inside bs m 0 (o + i) (by omega)
  rw [Nat.zero_add] at hb
  simp [rdBytes, hb]

/-! ### Quantise counters -/

theorem Reg.qswin_off (k n : Nat) : (Reg.qswin k n).off = coreBlk k + 0x304 + n * 16 := rfl
theorem Reg.qselem_off (k n : Nat) : (Reg.qselem k n).off = coreBlk k + 0x308 + n * 16 := rfl
theorem Reg.qstot_off (k n : Nat) : (Reg.qstot k n).off = coreBlk k + 0x30C + n * 16 := rfl
theorem Reg.qsctl_off (k n : Nat) : (Reg.qsctl k n).off = coreBlk k + 0x300 + n * 16 := rfl

theorem Reg.qswin_off_ne_qselem (k n m : Nat) : (Reg.qswin k n).off ≠ (Reg.qselem k m).off := by
  rw [Reg.qswin_off, Reg.qselem_off]; omega

theorem Reg.qswin_off_ne (k : Nat) {n m : Nat} (h : n ≠ m) : (Reg.qswin k n).off ≠ (Reg.qswin k m).off := by
  rw [Reg.qswin_off, Reg.qswin_off]; omega

theorem Reg.qselem_off_ne (k : Nat) {n m : Nat} (h : n ≠ m) : (Reg.qselem k n).off ≠ (Reg.qselem k m).off := by
  rw [Reg.qselem_off, Reg.qselem_off]; omega

theorem Reg.qswin_off_ne_qstot (k n m : Nat) : (Reg.qswin k n).off ≠ (Reg.qstot k m).off := by
  rw [Reg.qswin_off, Reg.qstot_off]; omega

theorem Reg.qselem_off_ne_qstot (k n m : Nat) : (Reg.qselem k n).off ≠ (Reg.qstot k m).off := by
  rw [Reg.qselem_off, Reg.qstot_off]; omega

theorem Reg.qstot_off_ne_qsctl (k n m : Nat) : (Reg.qstot k n).off ≠ (Reg.qsctl k m).off := by
  rw [Reg.qstot_off, Reg.qsctl_off]; omega

/-- R111: a counter's window starts from zero. -/
def State.windowRestarted (s : State) (k n : Nat) : State := (s.setReg (.qswin k n) 0).setReg (.qselem k n) 0

theorem reg_windowRestarted (s : State) (k n : Nat) :
    (s.windowRestarted k n).reg (.qswin k n) = 0 ∧ (s.windowRestarted k n).reg (.qselem k n) = 0 ∧
      (∀ m, m ≠ n → (s.windowRestarted k n).reg (.qswin k m) = s.reg (.qswin k m) ∧
        (s.windowRestarted k n).reg (.qselem k m) = s.reg (.qselem k m)) ∧
      ∀ m, (s.windowRestarted k n).reg (.qstot k m) = s.reg (.qstot k m) := by
  unfold State.windowRestarted
  refine ⟨?_, State.reg_setReg_same _ _ _, fun m h => ⟨?_, ?_⟩, fun m => ?_⟩
  · rw [State.reg_setReg_ne _ _ _ _ (Reg.qswin_off_ne_qselem k n n), State.reg_setReg_same]
  · rw [State.reg_setReg_ne _ _ _ _ (Reg.qswin_off_ne_qselem k m n), State.reg_setReg_ne _ _ _ _ (Reg.qswin_off_ne k h)]
  · rw [State.reg_setReg_ne _ _ _ _ (Reg.qselem_off_ne k h), State.reg_setReg_ne _ _ _ _ (Reg.qswin_off_ne_qselem k n m).symm]
  · rw [State.reg_setReg_ne _ _ _ _ (Reg.qselem_off_ne_qstot k n m).symm,
      State.reg_setReg_ne _ _ _ _ (Reg.qswin_off_ne_qstot k n m).symm]

theorem exec_qsWindowEnd (core : Fin 64) (n : Fin 9) (s : State)
    (h : 2 ^ s.regF (.qsctl core.val n.val) 24 5 ≤ (s.reg (.qselem core.val n.val)).toNat) :
    exec (.qsWindowEnd core n) s = .next (s.windowRestarted core.val n.val) :=
  congrArg Host.Outcome.next (if_pos h)

theorem exec_coreQsctlWrite (core : Fin 64) (n : Fin 9) (value : Word) (s : State) (h : s.dieLost (core.val / 8) = false) :
    exec (.coreQsctlWrite core n value) s = .next (s.qsctlWrite core.val n.val (value.setWidth 64)) :=
  congrArg Host.Outcome.next (if_pos (by simp [h]))

theorem exec_coreQsctlClear (core : Fin 64) (n : Fin 9) (value : Word) (s : State) (h : s.dieLost (core.val / 8) = false)
    (hc : nbit value.toNat 30 = true) :
    exec (.coreQsctlClear core n value) s = .next (s.qsctlWrite core.val n.val (value.setWidth 64)) :=
  congrArg Host.Outcome.next (if_pos (by simp [h, hc]))

theorem toNat_wide (value : Word) : (value.setWidth 64).toNat = value.toNat := by
  rw [BitVec.toNat_setWidth, Nat.mod_eq_of_lt (Nat.lt_of_lt_of_le value.isLt (by decide))]

/-- R113: a write of a counter's control restarts its window, and with clear zeroes its total. -/
theorem reg_qsctlWrite (s : State) (k n : Nat) (value : Word) :
    (s.qsctlWrite k n (value.setWidth 64)).reg (.qswin k n) = 0 ∧
      (s.qsctlWrite k n (value.setWidth 64)).reg (.qselem k n) = 0 ∧
      (s.qsctlWrite k n (value.setWidth 64)).reg (.qstot k n) =
        if nbit value.toNat 30 then 0 else s.reg (.qstot k n) := by
  obtain ⟨hwin, helem, -, htot⟩ := reg_windowRestarted (s.plainWrite (.qsctl k n) (value.setWidth 64)) k n
  have hctl : (s.plainWrite (.qsctl k n) (value.setWidth 64)).reg (.qstot k n) = s.reg (.qstot k n) :=
    State.reg_setReg_ne _ _ _ _ (Reg.qstot_off_ne_qsctl k n n)
  rw [State.qsctlWrite, toNat_wide]
  rw [← State.windowRestarted]
  generalize (s.plainWrite (.qsctl k n) (value.setWidth 64)).windowRestarted k n = u at hwin helem htot
  split
  · exact ⟨(State.reg_setReg_ne _ _ _ _ (Reg.qswin_off_ne_qstot k n n)).trans hwin,
      (State.reg_setReg_ne _ _ _ _ (Reg.qselem_off_ne_qstot k n n)).trans helem, State.reg_setReg_same _ _ _⟩
  · exact ⟨hwin, helem, (htot n).trans hctl⟩

/-! ### Status of the quantise stage -/

theorem State.regBit_eq_getLsbD (s : State) (r : Reg) (b : Nat) : s.regBit r b = (s.reg r).getLsbD b := by
  rw [State.regBit, State.regF, getF, BitVec.getLsbD, Nat.testBit_eq_decide_div_mod_eq]
  rfl

theorem nbit_eq_getLsbD {w : Nat} (v : BitVec w) (b : Nat) : nbit v.toNat b = v.getLsbD b := by
  rw [nbit_testBit, BitVec.getLsbD]

/-- A write of a status register of which nothing is stored: a written 1 clears its W1C bits. -/
theorem written_status (f : Fuses) (r : Reg) (old w : DWord) (b : Nat) (hb : b < 64) (hr : r.rwMask = 0) (hl : r.legal f = []) :
    (r.written f old w).getLsbD b = (old.getLsbD b && !(w.getLsbD b && (BitVec.ofNat 64 r.w1cMask).getLsbD b)) := by
  rw [Reg.written, hr, hl, List.foldl_nil, BitVec.and_zero, BitVec.or_zero, BitVec.not_zero, BitVec.and_allOnes]
  simp [hb]

theorem exec_excClear (core : Fin 64) (value : Word) (s : State) (h : s.dieLost (core.val / 8) = false)
    (hx : nbit value.toNat 15 = true) : exec (.excClear core value) s =
      .next ((s.plainWrite (.qsstat core.val) (value.setWidth 64)).setF (.qsstat core.val) 16 16 0) := by
  refine (congrArg Host.Outcome.next (if_pos (by simp [h, hx]))).trans ?_
  rw [State.qsstatWrite, toNat_wide, hx]
  rfl

theorem qsstat_over_mask (b : Nat) (h : b < 9) : (BitVec.ofNat 64 0x1FF).getLsbD b = true := by
  have : ∀ b, b < 9 → (BitVec.ofNat 64 0x1FF).getLsbD b = true := by decide
  exact this b h

theorem excClear_clears (core : Fin 64) (value : Word) (s : State) (h : s.dieLost (core.val / 8) = false)
    (hx : nbit value.toNat 15 = true) : ∃ t, exec (.excClear core value) s = .next t ∧ Only [] [.qsstat] s t ∧
      t.regF (.qsstat core.val) 16 16 = 0 ∧
      ∀ b, b < 9 → t.regBit (.qsstat core.val) b = (s.regBit (.qsstat core.val) b && !nbit value.toNat b) := by
  have he := exec_excClear core value s h hx
  refine ⟨_, he, Only.ofExec (only_execExcClear core value s) he, ?_, fun b hb => ?_⟩
  · exact State.regF_setF_same _ _ 16 16 0 (by decide)
  · rw [State.regBit_setF_apart _ _ 16 16 0 b (by decide) (by omega), State.regBit_eq_getLsbD, State.regBit_eq_getLsbD,
      State.plainWrite, State.reg_setReg_same, written_status _ _ _ _ b (by omega) rfl rfl]
    have hm : (BitVec.ofNat 64 (Reg.qsstat core.val).w1cMask).getLsbD b = true := qsstat_over_mask b hb
    rw [hm, Bool.and_true, nbit_eq_getLsbD, BitVec.getLsbD_setWidth]
    simp [show b < 64 by omega]

/-! ### The floor-plan record -/

/-- Table 1-6: the record's first 64 bytes. -/
def State.fpHead (s : State) (gen at_ : Nat) : List Byte :=
  leBytes 4 0x4E4C5046 ++ leBytes 2 1 ++ leBytes 2 0x500 ++ leBytes 4 gen ++ leBytes 4 0 ++ leBytes 8 at_ ++
  leBytes 1 s.fuses.bin.code ++ leBytes 1 s.fuses.assembly.code ++ leBytes 1 s.fuses.guestConfig ++ leBytes 1 s.pkgId ++
  leBytes 2 s.fuses.bin.vmax ++ leBytes 2 s.fuses.bin.cap ++ leBytes 8 (maskOf 64 s.coreEnabled) ++ leBytes 8 s.extTop ++
  leBytes 1 (maskOf 4 fun x => x < s.fuses.assembly.ioDies) ++ leBytes 1 s.guestPresent ++
  leBytes 2 (maskOf 12 (stackPresent s.fuses)) ++ leBytes 4 0 ++ leBytes 8 s.bedBytes

/-- Table 1-6: the bytes between the tower states and the mapped channels. -/
def State.fpPhases (s : State) : List Byte :=
  ((List.range 8).flatMap fun t => leBytes 2 (s.phaseMask t)) ++
  ((List.range 4).flatMap fun x => leBytes 1 (s.phaseMask (8 + x))) ++ leBytes 4 0

/-- Table 1-6: the bytes between the poisoned channels and the retired banks. -/
def State.fpPorts (s : State) : List Byte :=
  ((List.range 24).flatMap fun p => leBytes 1 (s.spanByte p)) ++ leBytes 8 0 ++ leBytes 8 0 ++ leBytes 8 0

/-- What the record shows of a core's banks. -/
def State.fpBanks (s : State) (k : Nat) : Nat := if s.coreEnabled k then num s.bankRetired k else 2 ^ 128 - 1

theorem fpRecord_eq (s : State) (gen at_ : Nat) : s.fpRecord gen at_ =
    s.fpHead gen at_ ++ (((List.range 64).flatMap fun k => leBytes 1 (num s.coreState k)) ++
      (((List.range 8).flatMap fun t => leBytes 1 (num s.towerState t)) ++ (s.fpPhases ++
        (((List.range 12).flatMap fun n => leBytes 2 (num s.chanMapped n)) ++
          (((List.range 12).flatMap fun n => leBytes 2 (num s.chanPoisoned n)) ++ (s.fpPorts ++
            ((List.range 64).flatMap fun k => leBytes 16 (s.fpBanks k)))))))) := by
  unfold State.fpRecord State.fpHead State.fpPhases State.fpPorts State.fpBanks
  generalize leBytes 4 0x4E4C5046 = magic
  simp only [List.append_assoc]

theorem length_fpHead (s : State) (gen at_ : Nat) : (s.fpHead gen at_).length = 0x40 := by
  simp [State.fpHead]

theorem length_fpPhases (s : State) : s.fpPhases.length = 0x18 := by
  simp only [State.fpPhases, List.length_append, length_flatMap_leBytes, length_leBytes]

theorem length_fpPorts (s : State) : s.fpPorts.length = 0x30 := by
  simp only [State.fpPorts, List.length_append, length_flatMap_leBytes, length_leBytes]

theorem length_fpRecord (s : State) (gen at_ : Nat) : (s.fpRecord gen at_).length = 0x500 := by
  have hh := length_fpHead s gen at_
  have hp := length_fpPhases s
  have hq := length_fpPorts s
  rw [fpRecord_eq]
  generalize s.fpHead gen at_ = head at hh
  generalize s.fpPhases = phases at hp
  generalize s.fpPorts = ports at hq
  simp only [List.length_append, length_flatMap_leBytes, hh, hp, hq]

/-- The fields of the record's head that tell one generation from another. -/
theorem fieldAt_fpHead (s : State) (gen at_ : Nat) : fieldAt (s.fpHead gen at_) 0 4 = 0x4E4C5046 ∧
    fieldAt (s.fpHead gen at_) 8 4 = gen % 2 ^ 32 ∧ fieldAt (s.fpHead gen at_) 0x10 8 = at_ % 2 ^ 64 := by
  simp only [State.fpHead, List.append_assoc]
  refine ⟨?_, ?_, ?_⟩
  · rw [fieldAt_append_left _ _ _ _ (by simp), fieldAt_leBytes]
    norm_num
  · rw [← List.append_assoc (leBytes 4 0x4E4C5046), ← List.append_assoc _ (leBytes 2 0x500)]
    exact fieldAt_middle _ _ 8 4 gen (by simp)
  · rw [← List.append_assoc (leBytes 4 0x4E4C5046), ← List.append_assoc _ (leBytes 2 0x500), ← List.append_assoc _ (leBytes 4 gen),
      ← List.append_assoc _ (leBytes 4 0)]
    exact fieldAt_middle _ _ 0x10 8 at_ (by simp)

/-- The tables of the record. -/
theorem fieldAt_fpRecord (s : State) (gen at_ : Nat) :
    (∀ o n, o + n ≤ 0x40 → fieldAt (s.fpRecord gen at_) o n = fieldAt (s.fpHead gen at_) o n) ∧
      (∀ k, k < 64 → fieldAt (s.fpRecord gen at_) (0x40 + k) 1 = num s.coreState k % 256) ∧
      (∀ w, w < 8 → fieldAt (s.fpRecord gen at_) (0x80 + w) 1 = num s.towerState w % 256) ∧
      (∀ n, n < 12 → fieldAt (s.fpRecord gen at_) (0xA0 + 2 * n) 2 = num s.chanMapped n % 2 ^ 16) ∧
      (∀ n, n < 12 → fieldAt (s.fpRecord gen at_) (0xB8 + 2 * n) 2 = num s.chanPoisoned n % 2 ^ 16) ∧
      ∀ k, k < 64 → fieldAt (s.fpRecord gen at_) (0x100 + 16 * k) 16 = s.fpBanks k % 2 ^ 128 := by
  rw [fpRecord_eq]
  have hh := length_fpHead s gen at_
  have hp := length_fpPhases s
  have hq := length_fpPorts s
  generalize s.fpHead gen at_ = head at hh
  generalize s.fpPhases = phases at hp
  generalize s.fpPorts = ports at hq
  have hl := length_flatMap_leBytes
  refine ⟨fun o n h => fieldAt_append_left _ _ _ _ (by omega), fun k h => ?_, fun w h => ?_, fun n h => ?_, fun n h => ?_,
    fun k h => ?_⟩
  · rw [show 0x40 + k = 0x40 + 1 * k by omega]
    exact fieldAt_table_middle head _ 0x40 64 1 k (num s.coreState) hh h
  · rw [← List.append_assoc]
    rw [show 0x80 + w = 0x80 + 1 * w by omega]
    exact fieldAt_table_middle _ _ 0x80 8 1 w (num s.towerState) (by rw [List.length_append, hl, hh]) h
  · rw [← List.append_assoc, ← List.append_assoc, ← List.append_assoc]
    exact fieldAt_table_middle _ _ 0xA0 12 2 n (num s.chanMapped)
      (by rw [List.length_append, List.length_append, List.length_append, hl, hl, hh, hp]) h
  · rw [← List.append_assoc, ← List.append_assoc, ← List.append_assoc, ← List.append_assoc]
    exact fieldAt_table_middle _ _ 0xB8 12 2 n (num s.chanPoisoned)
      (by rw [List.length_append, List.length_append, List.length_append, List.length_append, hl, hl, hl, hh, hp]) h
  · rw [← List.append_assoc, ← List.append_assoc, ← List.append_assoc, ← List.append_assoc, ← List.append_assoc,
      ← List.append_assoc, ← List.append_nil (List.flatMap (fun k => leBytes 16 (s.fpBanks k)) _)]
    refine fieldAt_table_middle _ [] 0x100 64 16 k s.fpBanks ?_ h
    rw [List.length_append, List.length_append, List.length_append, List.length_append, List.length_append,
      List.length_append, hl, hl, hl, hl, hh, hp, hq]

theorem nextGen_lt (g : Nat) : nextGen g < 2 ^ 32 := by
  unfold nextGen
  split <;> omega

/-- R32: what a reader finds once a generation has been published. -/
theorem publishRecord_shows (s : State) : s.publishRecord.fpDirty = false ∧
    s.publishRecord.fplan = wrBytes [] 0 (s.fpRecord (nextGen s.fpGen) s.tb.count) := by
  unfold State.publishRecord
  dsimp only
  generalize wrBytes [] 0 (s.fpRecord (nextGen s.fpGen) s.tb.count) = bytes
  have h := only_State_notifyAll (Ps := [.mbox]) (Ks := []) { s with fplan := bytes, fpDirty := false, published := true }
    noticeFloorPlan 0 (nextGen s.fpGen) [] (Only.refl _) (List.Subset.refl _)
  exact ⟨h.part .fpDirty (by decide), h.part .fplan (by decide)⟩

theorem floorPlanUpdate_publishes (s : State) (ha : s.alive = true) (hp : s.published = true) (hd : s.fpDirty = true) :
    ∃ t, exec .floorPlanUpdate s = .next t ∧
    Only [.fplan, .fpDirty, .published, .mbox] [] s t ∧ t.fpDirty = false ∧ rdLe t.fplan 0 4 = 0x4E4C5046 ∧
    t.fpGen = (if (s.fpGen + 2) % 2 ^ 32 = 0 then 2 else (s.fpGen + 2) % 2 ^ 32) ∧ rdLe t.fplan 0x10 8 = s.tb.count % 2 ^ 64 ∧
    (∀ k, k < 64 → rdLe t.fplan (0x40 + k) 1 = num s.coreState k % 256) ∧
    (∀ w, w < 8 → rdLe t.fplan (0x80 + w) 1 = num s.towerState w % 256) ∧
    (∀ n, n < 12 → rdLe t.fplan (0xA0 + 2 * n) 2 = num s.chanMapped n % 2 ^ 16 ∧
      rdLe t.fplan (0xB8 + 2 * n) 2 = num s.chanPoisoned n % 2 ^ 16) ∧
    ∀ k, k < 64 → rdLe t.fplan (0x100 + 16 * k) 16 =
      if s.coreEnabled k then num s.bankRetired k % 2 ^ 128 else 2 ^ 128 - 1 := by
  have he : exec .floorPlanUpdate s = .next s.publishRecord := congrArg Host.Outcome.next (if_pos (by simp [ha, hp, hd]))
  obtain ⟨hdirty, hplan⟩ := publishRecord_shows s
  have hread : ∀ o n, o + n ≤ 0x500 →
      rdLe s.publishRecord.fplan o n = fieldAt (s.fpRecord (nextGen s.fpGen) s.tb.count) o n := fun o n h => by
    rw [hplan, rdLe_wrBytes_field _ _ _ _ (by rw [length_fpRecord]; exact h)]
  obtain ⟨hhead, hcore, htower, hmap, hpoison, hbank⟩ := fieldAt_fpRecord s (nextGen s.fpGen) s.tb.count
  obtain ⟨hmagic, hgen, hat⟩ := fieldAt_fpHead s (nextGen s.fpGen) s.tb.count
  refine ⟨_, he, Only.ofExec (only_execFloorPlanUpdate s) he, hdirty, ?_, ?_, ?_, fun k h => ?_, fun w h => ?_,
    fun n h => ⟨?_, ?_⟩, fun k h => ?_⟩
  · rw [hread _ _ (by decide), hhead _ _ (by decide), hmagic]
  · rw [State.fpGen, hread _ _ (by decide), hhead _ _ (by decide), hgen, Nat.mod_eq_of_lt (nextGen_lt _), nextGen]
  · rw [hread _ _ (by decide), hhead _ _ (by decide), hat]
  · rw [hread _ _ (by omega), hcore k h]
  · rw [hread _ _ (by omega), htower w h]
  · rw [hread _ _ (by omega), hmap n h]
  · rw [hread _ _ (by omega), hpoison n h]
  · rw [hread _ _ (by omega), hbank k h, State.fpBanks]
    split
    · rfl
    · exact Nat.mod_eq_of_lt (by decide)

/-- Settles O36: the counters by what each write leaves in their registers, the record by its fields. -/
theorem quantiseCountersAndTheRecord : Obligations.QuantiseCountersAndTheRecord := by
  unfold Obligations.QuantiseCountersAndTheRecord
  refine ⟨fun core n s h => ?window, fun core n value s hl => ⟨?write, fun hc => ?clear, fun hx => ?exceeded⟩,
    floorPlanUpdate_publishes⟩
  case window =>
    have he := exec_qsWindowEnd core n s h
    obtain ⟨hwin, helem, hother, -⟩ := reg_windowRestarted s core.val n.val
    exact ⟨_, he, Only.ofExec (only_execQsWindowEnd core n s) he, hwin, helem, fun m _ hm => hother m hm⟩
  case write =>
    have he := exec_coreQsctlWrite core n value s hl
    exact ⟨_, he, Only.ofExec (only_execCoreQsctlWrite core n value s) he, reg_qsctlWrite s core.val n.val value⟩
  case clear =>
    have he := exec_coreQsctlClear core n value s hl hc
    obtain ⟨hwin, helem, htot⟩ := reg_qsctlWrite s core.val n.val value
    exact ⟨_, he, Only.ofExec (only_execCoreQsctlClear core n value s) he, hwin, helem, htot.trans (if_pos hc)⟩
  case exceeded => exact excClear_clears core value s hl hx

end Sys2Proof.Machine
end

section
/-! The governor (R351, R352). -/

namespace Sys2Proof.Machine

theorem Reg.vregMeas_off (w : Nat) : (Reg.vregMeas w).off = blk w + 0x808 := rfl
theorem Reg.thstat_off (w : Nat) : (Reg.thstat w).off = blk w + 0xA00 := rfl
theorem Reg.clampcnt_off (w : Nat) : (Reg.clampcnt w).off = blk w + 0xA14 := rfl

theorem Reg.vregMeas_off_ne_vstat (v w : Nat) : (Reg.vregMeas v).off ≠ (Reg.vstat w).off := by
  simp only [Reg.vregMeas_off, Reg.vstat_off, blk]; omega

theorem Reg.eq_clampcnt_of_kind {r : Reg} (h : r.kind = .clampcnt) : ∃ t, r = .clampcnt t := by
  cases r <;> cases h
  exact ⟨_, rfl⟩

theorem Reg.eq_thstat_of_kind {r : Reg} (h : r.kind = .thstat) : ∃ t, r = .thstat t := by
  cases r <;> cases h
  exact ⟨_, rfl⟩

/-- R352: what is kept of a clamp stands in no set-point and no measurement. -/
theorem clamp_regs_apart (r : Reg) (hr : r.kind ∈ [RegKind.clampcnt, .thstat]) (w : Nat) :
    r.off ≠ (Reg.vstat w).off ∧ r.off ≠ (Reg.vregMeas w).off := by
  rcases List.mem_cons.1 hr with h | h
  · obtain ⟨t, rfl⟩ := Reg.eq_clampcnt_of_kind h
    simp only [Reg.clampcnt_off, Reg.vstat_off, Reg.vregMeas_off, blk]; omega
  · obtain ⟨t, rfl⟩ := Reg.eq_thstat_of_kind (List.mem_singleton.1 h)
    simp only [Reg.thstat_off, Reg.vstat_off, Reg.vregMeas_off, blk]; omega

/-! ### Clamped floors -/

theorem only_floorClamp (s : State) (w power : Nat) :
    Only [.thermal, .ic, .clamps, .mbox] [.clampcnt, .thstat] s (s.floorClamp w power) :=
  only_State_floorClamp s w power (Only.refl s) (by decide) (by decide)

theorem lastRise_floorClamp (s : State) (w power : Nat) : ((s.floorClamp w power).therm w).lastRise = (s.therm w).lastRise := by
  unfold State.floorClamp
  dsimp only
  split
  · simp
  split
  · have hrep : ∀ (u : State) (t sp : Nat), (u.reportClamp t sp).therm = u.therm := fun u t sp =>
      State.therm_congr ((only_State_reportClamp (Ps := [.clamps, .mbox]) (Ks := []) u t sp (Only.refl u) (by decide)).part
        .thermal (by decide))
    have hraise : ∀ (u : State) (n : Nat), (u.raise n).therm = u.therm := fun u n =>
      State.therm_congr ((only_raise u n).part .thermal (by decide))
    rw [hrep, hraise, State.setBit, State.therm_setF, State.countF, State.therm_setF]
    simp
  · rfl

/-! ### Set-points -/

/-- R351: the state with the measurements, the set-point moved to `sp` and the envelope renewed. -/
def State.governed (s : State) (w mv cur sp : Nat) : State :=
  (((s.setF (.vregMeas w) 0 16 mv).setF (.vregMeas w) 16 16 cur).setF (.vstat w) 16 16 sp).refreshEnv w

theorem regs_governed (s : State) (w mv cur sp : Nat) :
    (s.governed w mv cur sp).regF (.vregMeas w) 0 16 = mv % 2 ^ 16 ∧
      (s.governed w mv cur sp).regF (.vregMeas w) 16 16 = cur % 2 ^ 16 ∧
      (s.governed w mv cur sp).regF (.vstat w) 16 16 = sp % 2 ^ 16 ∧
      ∀ v, v ≠ w → (s.governed w mv cur sp).reg (.vstat v) = s.reg (.vstat v) := by
  have hne := Reg.vregMeas_off_ne_vstat
  refine ⟨?_, ?_, ?_, fun v hv => ?_⟩
  · rw [State.governed, State.refreshEnv, State.regF_setF_ne _ _ _ _ _ _ _ _ (hne w w), State.regF_setF_ne _ _ _ _ _ _ _ _ (hne w w),
      State.regF_setF_apart _ _ 16 16 _ 0 16 (by decide) (by decide), State.regF_setF_same _ _ 0 16 _ (by decide)]
  · rw [State.governed, State.refreshEnv, State.regF_setF_ne _ _ _ _ _ _ _ _ (hne w w), State.regF_setF_ne _ _ _ _ _ _ _ _ (hne w w),
      State.regF_setF_same _ _ 16 16 _ (by decide)]
  · rw [State.governed, State.refreshEnv, State.regF_setF_apart _ _ 0 16 _ 16 16 (by decide) (by decide),
      State.regF_setF_same _ _ 16 16 _ (by decide)]
  · rw [State.governed, State.reg_refreshEnv_ne _ _ _ (Reg.vstat_off_ne hv), State.reg_setF_ne _ _ _ _ _ _ (Reg.vstat_off_ne hv),
      State.reg_setF_ne _ _ _ _ _ _ (hne w v).symm, State.reg_setF_ne _ _ _ _ _ _ (hne w v).symm]

theorem units_governed (s : State) (w mv cur sp : Nat) :
    (s.governed w mv cur sp).dom = s.dom ∧ (s.governed w mv cur sp).therm = s.therm := by
  simp [State.governed]

/-- What an evaluation of a tower decides. -/
def State.governorChoice (s : State) (w power : Nat) : Nat × Bool :=
  governorMove (s.regF (.vstat w) 16 16) (min (s.wanted w) (s.vEnv w)) power (s.regF (.env w) 0 16)
    (decide ((s.therm w).lastRise + 2000 ≤ s.now) || (s.therm w).lastRise = 0)

/-- The time of a rise is kept. -/
def State.riseKept (s : State) (w : Nat) (h : Thermal) (rose : Bool) (at_ : Nat) : State :=
  if rose then s.setTherm w { h with lastRise := at_ } else s

theorem exec_governorEvaluation (tower : Fin 8) (mv cur : BitVec 16) (s : State) (hon : (s.dom tower.val).state = .on)
    (hr : s.running = true) : exec (.governorEvaluation tower mv cur) s = .next
      (((s.governed tower.val mv.toNat cur.toNat (s.governorChoice tower.val (mv.toNat * cur.toNat)).1).riseKept tower.val
        (s.therm tower.val) (s.governorChoice tower.val (mv.toNat * cur.toNat)).2 s.now).floorClamp tower.val
          (mv.toNat * cur.toNat)) :=
  congrArg Host.Outcome.next (if_neg (by simp [hon, hr]))

theorem State.wanted_lt (s : State) (w : Nat) : s.wanted w < 1024 :=
  Nat.lt_of_le_of_lt (Nat.min_le_right _ _) (s.regF_lt (.vgov w) 10 10)

/-- R351: above the target the set-point falls. -/
theorem governorMove_lower (sp target power hw : Nat) (canRise : Bool) (h6 : 600 ≤ sp) (h : target < sp) :
    governorMove sp target power hw canRise = (max 600 (max target (sp - 100)), false) := by
  rw [governorMove, if_neg (by omega), if_pos h]

/-- R351: at or below the target it falls while the power is too high. -/
theorem governorMove_over (sp target power hw : Nat) (canRise : Bool) (h6 : 600 ≤ sp) (h : sp ≤ target)
    (hp : hw * 1000 < power) : governorMove sp target power hw canRise = (max 600 (sp - 10), false) := by
  rw [governorMove, if_neg (by omega), if_neg (by omega), if_pos hp]

/-- R351: below the target it rises while there is room and time. -/
theorem governorMove_rise (sp target power hw : Nat) (h6 : 600 ≤ sp) (h : sp < target) (hp : 100 * power ≤ 97 * hw * 1000) :
    governorMove sp target power hw true = (min target (sp + 10), true) := by
  rw [governorMove, if_neg (by omega), if_neg (by omega), if_neg (by omega), if_pos (by simp [h, hp])]

/-- R351: at the target it stays. -/
theorem governorMove_stay (sp power hw : Nat) (canRise : Bool) (h6 : 600 ≤ sp) (hp : power ≤ hw * 1000) :
    governorMove sp sp power hw canRise = (sp, false) := by
  rw [governorMove, if_neg (by omega), if_neg (by omega), if_neg (by omega), if_neg (by simp)]

/-- Settles O35: the measurements are published, and the set-point moves by the one rule that applies. -/
theorem governorMovesTheSetPoint : Obligations.GovernorMovesTheSetPoint := by
  unfold Obligations.GovernorMovesTheSetPoint
  intro tower mv cur s hon hr
  dsimp only
  intro hsp
  refine ⟨_, exec_governorEvaluation tower mv cur s hon hr, ?_⟩
  clear hon hr
  generalize tower.val = w at *
  obtain ⟨hmv, hcur, hset, hother⟩ := regs_governed s w mv.toNat cur.toNat (s.governorChoice w (mv.toNat * cur.toNat)).1
  obtain ⟨hdom, htherm⟩ := units_governed s w mv.toNat cur.toNat (s.governorChoice w (mv.toNat * cur.toNat)).1
  rw [Nat.mod_eq_of_lt mv.isLt] at hmv
  rw [Nat.mod_eq_of_lt cur.isLt] at hcur
  have hspt := s.regF_lt (.vstat w) 16 16
  have hwant := s.wanted_lt w
  have hchoice : s.governorChoice w (mv.toNat * cur.toNat) = governorMove (s.regF (.vstat w) 16 16) (min (s.wanted w) (s.vEnv w))
    (mv.toNat * cur.toNat) (s.regF (.env w) 0 16) (decide ((s.therm w).lastRise + 2000 ≤ s.now) || (s.therm w).lastRise = 0) := rfl
  generalize s.governorChoice w (mv.toNat * cur.toNat) = m at hmv hcur hset hother hdom htherm hchoice
  generalize s.governed w mv.toNat cur.toNat m.1 = g at hmv hcur hset hother hdom htherm
  have hrise : Only [.thermal] [] g (g.riseKept w (s.therm w) m.2 s.now) := by
    unfold State.riseKept
    split
    · exact only_State_setTherm g w _ (Only.refl g) (List.Subset.refl _)
    · exact Only.refl g
  have hlast : m.2 = true → ((g.riseKept w (s.therm w) m.2 s.now).therm w).lastRise = s.now := fun h => by
    rw [State.riseKept, if_pos h]; simp
  generalize g.riseKept w (s.therm w) m.2 s.now = u at hrise hlast
  have hclamp := only_floorClamp u w (mv.toNat * cur.toNat)
  have hkept := lastRise_floorClamp u w (mv.toNat * cur.toNat)
  generalize u.floorClamp w (mv.toNat * cur.toNat) = t at hclamp hkept
  have hstat : ∀ v, t.reg (.vstat v) = g.reg (.vstat v) := fun v =>
    (hclamp.reg_apart _ fun r hr => (clamp_regs_apart r hr v).1).trans (hrise.reg_eq _)
  have hmeas : t.reg (.vregMeas w) = g.reg (.vregMeas w) :=
    (hclamp.reg_apart _ fun r hr => (clamp_regs_apart r hr w).2).trans (hrise.reg_eq _)
  rw [State.regF_congr hmeas 0 16, State.regF_congr hmeas 16 16, State.regF_congr (hstat w) 16 16, hmv, hcur, hset, hchoice]
  refine ⟨rfl, rfl, fun d => ?dom, fun h => ?lower, fun h hp => ?tooHigh, fun h hp hl => ?rise, fun h hp => ?stay,
    fun v hv => (hstat v).trans (hother v hv)⟩
  case dom =>
    rw [State.dom_congr (hclamp.part .domains (by decide)), State.dom_congr (hrise.part .domains (by decide)), hdom]
  case lower =>
    rw [governorMove_lower _ _ _ _ _ hsp h]
    exact Nat.mod_eq_of_lt (by dsimp only; omega)
  case tooHigh =>
    rw [governorMove_over _ _ _ _ _ hsp h hp]
    exact Nat.mod_eq_of_lt (by dsimp only; omega)
  case rise =>
    have hm := hchoice
    rw [decide_eq_true hl, Bool.true_or, governorMove_rise _ _ _ _ hsp h hp] at hm
    rw [← hchoice, hm, hkept, hlast (by rw [hm])]
    exact ⟨Nat.mod_eq_of_lt (by dsimp only; omega), rfl⟩
  case stay =>
    rw [← h, governorMove_stay _ _ _ _ hsp hp]
    exact Nat.mod_eq_of_lt hspt

end Sys2Proof.Machine
end

section
/-! Power domains: requests, ramps and discharges (R331 to R333). -/

namespace Sys2Proof.Machine

theorem Reg.vregCtl_off_ne_vregStat (d e : Nat) : (Reg.vregCtl d).off ≠ (Reg.vregStat e).off := by
  simp only [Reg.vregCtl_off, Reg.vregStat_off, blk]; omega

/-- A tower's die is logged by its number. -/
theorem dieField_tower {d : Nat} (h : d < 8) : dieField d = d := if_pos h

theorem domNode_tower {d : Nat} (h : d < 8) : domNode d = 0x40 + d := if_pos h

/-! ### Requests -/

/-- R8, R10: the target of a write of VREG_CTL, kept where it is legal. -/
def State.targeted (s : State) (d v : Nat) : State :=
  if (Reg.legal s.fuses (.vregCtl d)).all fun x => x.2.2 (nf v x.1 x.2.1) then s.setF (.vregCtl d) 0 10 (nf v 0 10) else s

theorem targeted_keeps (s : State) (d v : Nat) : Only [] [.vregCtl] s (s.targeted d v) ∧
    (s.targeted d v).regBit (.vregCtl d) 31 = s.regBit (.vregCtl d) 31 ∧
    (s.targeted d v).regF (.vregStat d) 25 2 = s.regF (.vregStat d) 25 2 := by
  unfold State.targeted
  split
  · exact ⟨only_State_setF s _ 0 10 _ (Only.refl s) (List.mem_singleton_self _),
      State.regBit_setF_apart s _ 0 10 _ 31 (by decide) (by decide),
      State.regF_setF_ne s _ _ 0 10 _ 25 2 (Reg.vregCtl_off_ne_vregStat d d).symm⟩
  · exact ⟨Only.refl s, rfl, rfl⟩

theorem vregWrite_onReq (s : State) (d v : Nat) (hon : nbit v 31 = true) (hc : nbit v 30 = false)
    (hoff : s.regBit (.vregCtl d) 31 = false) : s.vregWrite d v = (s.targeted d v).onReq d := by
  unfold State.vregWrite
  simp only [hon, hc, hoff, Bool.not_false, Bool.and_self, if_true, Bool.false_eq_true, if_false]
  rfl

theorem vregWrite_offReq (s : State) (d v : Nat) (hoff : nbit v 31 = false) (hc : nbit v 30 = false)
    (hon : s.regBit (.vregCtl d) 31 = true) : s.vregWrite d v = (s.targeted d v).offReq d := by
  unfold State.vregWrite
  simp only [hon, hc, hoff, Bool.not_false, Bool.and_self, if_true, Bool.false_eq_true, if_false, Bool.false_and]
  rfl

theorem vregWrite_clear (s : State) (d v : Nat) (hc : nbit v 30 = true) (hsame : nbit v 31 = s.regBit (.vregCtl d) 31) :
    s.vregWrite d v = (s.targeted d v).vregClear d := by
  unfold State.vregWrite
  have h1 : (nbit v 31 && !s.regBit (.vregCtl d) 31) = false := by rw [hsame]; simp
  have h2 : (!nbit v 31 && s.regBit (.vregCtl d) 31) = false := by rw [hsame]; simp
  simp only [h1, h2, hc, if_true, Bool.false_eq_true, if_false]
  rfl

theorem exec_onRequest (domain : Fin 12) (value : Word) (s : State) (hr : s.running = true)
    (hp : s.domPresent domain.val = true) (hon : nbit value.toNat 31 = true) (hc : nbit value.toNat 30 = false)
    (hoff : s.regBit (.vregCtl domain.val) 31 = false) :
    exec (.onRequest domain value) s = .next ((s.targeted domain.val value.toNat).onReq domain.val) :=
  (congrArg Host.Outcome.next (if_pos (by simp [hr, hp, hon]))).trans
    (congrArg Host.Outcome.next (vregWrite_onReq s _ _ hon hc hoff))

theorem exec_offRequest (domain : Fin 12) (value : Word) (s : State) (hr : s.running = true)
    (hp : s.domPresent domain.val = true) (hoff : nbit value.toNat 31 = false) (hc : nbit value.toNat 30 = false)
    (hon : s.regBit (.vregCtl domain.val) 31 = true) :
    exec (.offRequest domain value) s = .next ((s.targeted domain.val value.toNat).offReq domain.val) :=
  (congrArg Host.Outcome.next (if_pos (by simp [hr, hp, hoff]))).trans
    (congrArg Host.Outcome.next (vregWrite_offReq s _ _ hoff hc hon))

theorem exec_vregCtlClear (domain : Fin 12) (value : Word) (s : State) (hr : s.running = true)
    (hp : s.domPresent domain.val = true) (hc : nbit value.toNat 30 = true)
    (hsame : nbit value.toNat 31 = s.regBit (.vregCtl domain.val) 31) :
    exec (.vregCtlClear domain value) s = .next ((s.targeted domain.val value.toNat).vregClear domain.val) :=
  (congrArg Host.Outcome.next (if_pos (by simp [hr, hp, hc]))).trans
    (congrArg Host.Outcome.next (vregWrite_clear s _ _ hc hsame))

theorem regBit_setBit_self (s : State) (r : Reg) (b : Nat) (hb : b < 64) : (s.setBit r b).regBit r b = true := by
  rw [s.regBit_setBit r b b hb hb]; simp

theorem regBit_clrBit_self (s : State) (r : Reg) (b : Nat) (hb : b < 64) : (s.clrBit r b).regBit r b = false := by
  rw [s.regBit_clrBit r b b hb hb]; simp

@[simp] theorem State.dom_setBit (s : State) (r : Reg) (b : Nat) : (s.setBit r b).dom = s.dom := by rw [State.setBit, State.dom_setF]
@[simp] theorem State.now_setBit (s : State) (r : Reg) (b : Nat) : (s.setBit r b).now = s.now := by rw [State.setBit, State.now_setF]
@[simp] theorem State.dom_clrBit (s : State) (r : Reg) (b : Nat) : (s.clrBit r b).dom = s.dom := by rw [State.clrBit, State.dom_setF]

theorem dom_startRamp (s : State) (d : Nat) : (s.startRamp d).dom d =
    { s.dom d with state := .ramp, remembered := false, since := s.now } := by
  simp [State.startRamp]

theorem reg_startRamp (s : State) (d : Nat) : (s.startRamp d).reg = s.reg := State.reg_setDom _ _ _

/-- R331: the state that keeps a refused request. -/
def State.refusedReq (s : State) (d code d0 d1 : Nat) : State :=
  (s.setBit (.vregStat d) 24).log code 0 d (domNode d) noTenant d0 d1

theorem refusedReq_shows (s : State) (d code d0 d1 : Nat) :
    (s.refusedReq d code d0 d1).dom = s.dom ∧ (s.refusedReq d code d0 d1).regBit (.vregStat d) 24 = true ∧
      (s.refusedReq d code d0 d1).regBit (.vregCtl d) 31 = s.regBit (.vregCtl d) 31 ∧
      Claims.logs s (s.refusedReq d code d0 d1) (Claims.entry s code 0 (dieField d) (domNode d) noTenant d0 d1) := by
  have hl := only_log (s.setBit (.vregStat d) 24) code 0 d (domNode d) noTenant d0 d1
  have hb := only_State_setBit (Ps := []) (Ks := [.vregStat]) s (.vregStat d) 24 (Only.refl s) (List.mem_singleton_self _)
  have hset := regBit_setBit_self s (.vregStat d) 24 (by decide)
  have hctl : (s.setBit (.vregStat d) 24).regBit (.vregCtl d) 31 = s.regBit (.vregCtl d) 31 :=
    State.regBit_setF_ne _ _ _ _ _ _ _ (Reg.vregCtl_off_ne_vregStat d d)
  have hlog := logs_after (s := s) (u := s.setBit (.vregStat d) 24) (code := code) (sev := 0) (die := d) (node := domNode d)
    (tenant := noTenant) (d0 := d0) (d1 := d1) (hb.part .tb (by decide)) (hb.part .flog0 (by decide)) (hb.part .flog1 (by decide)) rfl rfl
  unfold State.refusedReq
  generalize s.setBit (.vregStat d) 24 = u at hl hb hset hctl hlog
  exact ⟨(State.dom_congr (hl.part .domains (by decide))).trans (State.dom_congr (hb.part .domains (by decide))),
    (State.regBit_congr (hl.reg_eq _) 24).trans hset, (State.regBit_congr (hl.reg_eq _) 31).trans hctl, hlog⟩

/-- No other domain is touched by what sets one domain's entry. -/
theorem dom_startRamp_ne (s : State) (d e : Nat) (h : e ≠ d) : (s.startRamp d).dom e = s.dom e := by
  simp [State.startRamp, h]

theorem onReq_ne (s : State) (d e : Nat) (h : e ≠ d) : (s.onReq d).dom e = s.dom e := by
  unfold State.onReq
  dsimp only
  cases (s.dom d).state with
  | latched | dead => exact congrFun (refusedReq_shows s d _ _ _).1 e
  | off => rw [dom_startRamp_ne _ _ _ h, State.dom_setBit]
  | discharge => simp [h]
  | ramp | on => simp

/-- R331: what an on request does, by the state that the domain is in. -/
theorem onReq_shows (s : State) (d : Nat) (hoff : s.regBit (.vregCtl d) 31 = false) :
    match (s.dom d).state with
    | .off => (s.onReq d).dom d = { s.dom d with state := .ramp, remembered := false, since := s.now } ∧
        (s.onReq d).regBit (.vregCtl d) 31 = true
    | .discharge => (s.onReq d).dom d = { s.dom d with remembered := true } ∧ (s.onReq d).regBit (.vregCtl d) 31 = true
    | .latched | .dead => (s.onReq d).dom d = s.dom d ∧ (s.onReq d).regBit (.vregCtl d) 31 = false ∧
        (s.onReq d).regBit (.vregStat d) 24 = true ∧ Claims.logs s (s.onReq d)
          (Claims.entry s 0x26 0 (dieField d) (domNode d) noTenant (s.dom d).state.code (s.regF (.vregStat d) 25 2))
    | .ramp | .on => (s.onReq d).dom d = s.dom d ∧ (s.onReq d).regBit (.vregCtl d) 31 = true := by
  have hset := regBit_setBit_self s (.vregCtl d) 31 (by decide)
  unfold State.onReq
  dsimp only
  cases hx : (s.dom d).state with
  | latched | dead =>
    obtain ⟨hdom, h24, h31, hlog⟩ := refusedReq_shows s d 0x26 (s.dom d).state.code (s.regF (.vregStat d) 25 2)
    rw [hx] at hdom h24 h31 hlog
    exact ⟨congrFun hdom d, h31.trans hoff, h24, hlog⟩
  | off =>
    dsimp only
    refine ⟨by rw [dom_startRamp]; simp, (State.regBit_congr (congrFun (reg_startRamp _ d) _) 31).trans hset⟩
  | discharge =>
    dsimp only
    exact ⟨by simp, (State.regBit_congr (congrFun (State.reg_setDom _ _ _) _) 31).trans hset⟩
  | ramp | on => exact ⟨by simp, hset⟩

/-- R331: an off request of a domain that is not ON after FIRED. -/
theorem domOff_shows (s : State) (d : Nat) (hd : d < 8) :
    (s.domOff d).regBit (.vregCtl d) 31 = false ∧ (s.domOff d).flog0 = s.flog0 ∧ (s.domOff d).flog1 = s.flog1 ∧
      (s.domOff d).dom d = (s.dom d).turnOff .off s.now ∧ ∀ e, e ≠ d → (s.domOff d).dom e = s.dom e := by
  have hclr := regBit_clrBit_self s (.vregCtl d) 31 (by decide)
  have hc := only_State_clrBit (Ps := []) (Ks := [.vregCtl]) s (.vregCtl d) 31 (Only.refl s) (List.mem_singleton_self _)
  have key : ∀ u : State, Only [.mem, .checks, .stores, .cores, .beds] [] (s.clrBit (.vregCtl d) 31) u →
      let t := u.setDom d ((s.dom d).turnOff .off s.now)
      t.regBit (.vregCtl d) 31 = false ∧ t.flog0 = s.flog0 ∧ t.flog1 = s.flog1 ∧
        t.dom d = (s.dom d).turnOff .off s.now ∧ ∀ e, e ≠ d → t.dom e = s.dom e := fun u hu => by
    have hdom : u.dom = s.dom := (State.dom_congr (hu.part .domains (by decide))).trans (State.dom_clrBit _ _ _)
    have h31 := (State.regBit_congr (congrFun (State.reg_setDom u d ((s.dom d).turnOff .off s.now)) (.vregCtl d)) 31).trans
      ((State.regBit_congr (hu.reg_eq _) 31).trans hclr)
    refine ⟨h31, (hu.part .flog0 (by decide)).trans (hc.part .flog0 (by decide)),
      (hu.part .flog1 (by decide)).trans (hc.part .flog1 (by decide)), by simp, fun e he => ?_⟩
    rw [State.dom_setDom, if_neg he, hdom]
  unfold State.domOff
  dsimp only
  split
  case h_1 =>
    rw [if_pos hd]
    have hk := key _ (only_State_bedsGone _ d (Only.refl (s.clrBit (.vregCtl d) 31)) (List.Subset.refl _))
    generalize ((s.clrBit (.vregCtl d) 31).bedsGone d).setDom d ((s.dom d).turnOff .off s.now) = u at hk
    obtain ⟨h31, h0, h1, hself, hother⟩ := hk
    refine ⟨(State.regBit_setF_ne _ _ _ _ _ _ _ (Reg.vregCtl_off_ne_vstat d d)).trans h31, (State.flog0_setF ..).trans h0,
      (State.flog1_setF ..).trans h1, ?_, fun e he => ?_⟩
    · rw [State.dom_setF]; exact hself
    · rw [State.dom_setF]; exact hother e he
  case h_2 => exact key _ ((Only.refl _).mono (List.nil_subset _) (List.Subset.refl _))

/-- R331: the discharge of a domain that ramps or is on, and of one that discharges already. -/
theorem turnOff_discharges (x : Domain) (now : Nat) (h : x.state = .on ∨ x.state = .ramp) :
    (x.turnOff .off now).state = .discharge ∧ (x.turnOff .off now).after = .off ∧ (x.turnOff .off now).since = now := by
  unfold Domain.turnOff
  rcases h with h | h <;> simp [h]

theorem turnOff_discharge (x : Domain) (now : Nat) (h : x.state = .discharge) :
    (x.turnOff .off now).state = .discharge ∧ (x.turnOff .off now).remembered = false := by
  unfold Domain.turnOff
  simp [h]

theorem offReq_refused (s : State) (d : Nat) (hd : d < 8) (hon : (s.dom d).state = .on) (hf : s.fired = true) :
    s.offReq d = s.refusedReq d 0x25 d 0 := if_pos (by simp [hd, hon, hf])

theorem offReq_taken (s : State) (d : Nat) (h : ¬ ((s.dom d).state = .on ∧ s.fired = true)) : s.offReq d = s.domOff d :=
  if_neg (by simp only [Bool.and_eq_true, decide_eq_true_eq]; tauto)

theorem vregClear_shows (s : State) (d : Nat) : (s.vregClear d).reg = s.reg ∧
    (∀ e, e ≠ d → (s.vregClear d).dom e = s.dom e) ∧
    (s.vregClear d).dom d = if (s.dom d).state = .latched then { s.dom d with state := .off } else s.dom d := by
  unfold State.vregClear
  dsimp only
  split
  · exact ⟨State.reg_setDom _ _ _, fun e he => by simp [he], by simp⟩
  · exact ⟨rfl, fun _ _ => rfl, rfl⟩

/-! ### Ramps and discharges -/

theorem exec_rampComplete (domain : Fin 12) (s : State) (h : (s.dom domain.val).state = .ramp) :
    exec (.rampComplete domain) s = .next (s.rampDone domain.val) := congrArg Host.Outcome.next (if_pos h)

theorem rampDone_shows (s : State) (d : Nat) : (∀ e, e ≠ d → (s.rampDone d).dom e = s.dom e) ∧
    ((s.rampDone d).dom d).state = .on ∧ ((s.rampDone d).dom d).since = s.now ∧
    (d < 8 → (s.rampDone d).regF (.vstat d) 16 16 = s.regF (.vregCtl d) 0 10) := by
  unfold State.rampDone
  dsimp only
  split
  case isTrue hd =>
    refine ⟨fun e he => by simp [he], by simp, by simp, fun _ => ?_⟩
    have hlt := s.regF_lt (.vregCtl d) 0 10
    rw [State.refreshEnv, State.regF_setF_apart _ _ 0 16 _ 16 16 (by decide) (by decide),
      State.regF_setF_same _ _ 16 16 _ (by decide), Nat.mod_eq_of_lt (by omega)]
  case isFalse hd => exact ⟨fun e he => by simp [he], by simp, by simp, fun h => absurd h hd⟩

theorem exec_rampFailure (domain : Fin 12) (cause : RampCause) (s : State) (h : (s.dom domain.val).state = .ramp)
    (hc : cause ≠ .ok) : exec (.rampFailure domain cause) s = .next (s.rampFail domain.val (RampCause.code cause)) :=
  congrArg Host.Outcome.next (if_pos (by simp [h, hc]))

/-- R333: what a failed ramp leaves in its domain and its registers. -/
def State.rampFailed (s : State) (d code fails : Nat) : State :=
  (((s.setF (.vregStat d) 27 2 code).setF (.vregStat d) 25 2 fails).setDom d
    { s.dom d with state := if 3 ≤ fails then .dead else .latched, remembered := false, since := s.now }).clrBit (.vregCtl d) 31

theorem rampFail_eq (s : State) (d code : Nat) : s.rampFail d code =
    ((s.rampFailed d code (min 3 (s.regF (.vregStat d) 25 2 + 1))).log 0x0020 2 d (domNode d) noTenant code
      (min 3 (s.regF (.vregStat d) 25 2 + 1))).icEvent (srcRegulator d) := by
  unfold State.rampFail State.rampFailed
  simp [satAdd]

theorem rampFailed_shows (s : State) (d code fails : Nat) (hf : fails ≤ 3) (hc : code < 4) :
    Only [.domains] [.vregStat, .vregCtl] s (s.rampFailed d code fails) ∧
      (∀ e, e ≠ d → (s.rampFailed d code fails).dom e = s.dom e) ∧
      ((s.rampFailed d code fails).dom d).state = (if fails = 3 then .dead else .latched) ∧
      (s.rampFailed d code fails).regF (.vregStat d) 25 2 = fails ∧ (s.rampFailed d code fails).regF (.vregStat d) 27 2 = code ∧
      (s.rampFailed d code fails).regBit (.vregCtl d) 31 = false := by
  have hfails : (if 3 ≤ fails then DomState.dead else .latched) = if fails = 3 then .dead else .latched := by
    by_cases h : fails = 3
    · rw [if_pos (by omega), if_pos h]
    · rw [if_neg (by omega), if_neg h]
  have hctl := (Reg.vregCtl_off_ne_vregStat d d).symm
  have hreg := fun u x => congrFun (State.reg_setDom u d x) (.vregStat d)
  unfold State.rampFailed
  refine ⟨?_, fun e he => by simp [he], by simp [hfails], ?_, ?_, regBit_clrBit_self _ _ 31 (by decide)⟩
  · refine only_State_clrBit _ _ 31 (only_State_setDom _ d _ (only_State_setF _ _ 25 2 _ (only_State_setF s _ 27 2 _
      (Only.refl s) ?_) ?_) (List.Subset.refl _)) ?_
    · exact List.mem_cons_self ..
    · exact List.mem_cons_self ..
    · exact List.mem_cons_of_mem _ (List.mem_singleton_self _)
  · rw [State.clrBit, State.regF_setF_ne _ _ _ _ _ _ _ _ hctl, State.regF_congr (hreg _ _) 25 2,
      State.regF_setF_same _ _ 25 2 _ (by decide), Nat.mod_eq_of_lt (by omega)]
  · rw [State.clrBit, State.regF_setF_ne _ _ _ _ _ _ _ _ hctl, State.regF_congr (hreg _ _) 27 2,
      State.regF_setF_apart _ _ 25 2 _ 27 2 (by decide) (by decide), State.regF_setF_same _ _ 27 2 _ (by decide),
      Nat.mod_eq_of_lt (by omega)]

theorem rampCause_code_lt (c : RampCause) : RampCause.code c < 4 := by cases c <;> decide

theorem exec_fuseLoad (tower : Fin 8) (s : State) (hon : (s.dom tower.val).state = .on)
    (ht : (s.dom tower.val).since + 400000 ≤ s.now) : ∃ t, exec (.fuseLoad tower) s = .next t ∧
      (∀ e, e ≠ tower.val → t.dom e = s.dom e) ∧ t.dom tower.val = { s.dom tower.val with fuseLoaded := true } := by
  cases hl : (s.dom tower.val).fuseLoaded with
  | false => exact ⟨_, congrArg Host.Outcome.next (if_pos (by simp [hon, ht, hl])), fun e he => by simp [he], by simp⟩
  | true =>
    refine ⟨s, congrArg Host.Outcome.next (if_neg (by simp [hl])), fun _ _ => rfl, ?_⟩
    rw [← hl]

theorem dischargeComplete_shows (d : Nat) (s : State) (h : (s.dom d).state = .discharge) :
    (∀ e, e ≠ d → (dischargeComplete d s).dom e = s.dom e) ∧
      ((s.dom d).after = .dead ∨ (s.dom d).after = .latched →
        ((dischargeComplete d s).dom d).state = (s.dom d).after ∧ (dischargeComplete d s).regBit (.vregCtl d) 31 = false) ∧
      ((s.dom d).after = .off → ((dischargeComplete d s).dom d).state = if (s.dom d).remembered then .ramp else .off) := by
  have hclr := fun u => regBit_clrBit_self u (.vregCtl d) 31 (by decide)
  unfold dischargeComplete
  dsimp only
  rw [if_neg (by simp [h])]
  cases ha : (s.dom d).after with
  | dead => exact ⟨fun e he => by simp [he], fun _ => ⟨by simp, hclr _⟩, fun h => nomatch h⟩
  | latched => exact ⟨fun e he => by simp [he], fun _ => ⟨by simp, hclr _⟩, fun h => nomatch h⟩
  | off | ramp | on | discharge =>
    dsimp only
    refine ⟨fun e he => ?_, fun h => by simp at h, fun _ => ?_⟩
    · split <;> simp [State.startRamp, he]
    · split <;> simp [State.startRamp]

/-- Settles O28: each request and each end of a ramp or discharge, by the state that the domain is in. -/
theorem domainsRampAndDischarge : Obligations.DomainsRampAndDischarge := by
  unfold Obligations.DomainsRampAndDischarge
  refine ⟨fun domain value s hr hp => ⟨fun hon hc hoff => ?on, fun hoff hc hon hd => ?off, fun hc hsame => ?clear⟩,
    fun domain s hx => ?done, fun domain cause s hx hcause => ?fail, fun tower s hon ht => ?fuses, fun domain s hx => ?discharge⟩
  case on =>
    obtain ⟨hu, h31, hfails⟩ := targeted_keeps s domain.val value.toNat
    have he := exec_onRequest domain value s hr hp hon hc hoff
    have hdom := State.dom_congr (hu.part .domains (by decide))
    have hshow := onReq_shows (s.targeted domain.val value.toNat) domain.val (h31.trans hoff)
    have honly := only_State_onReq (s.targeted domain.val value.toNat) domain.val
      (Ps := [.domains, .flog0, .flog1]) (Ks := [.vregCtl, .vregStat]) (hu.mono (by decide) (by decide)) (by decide) (by decide)
    have hne := onReq_ne (s.targeted domain.val value.toNat) domain.val
    generalize s.targeted domain.val value.toNat = u at hu h31 hfails he hdom hshow honly hne
    refine ⟨_, he, honly, fun e h => (hne e h).trans (congrFun hdom e), ?_⟩
    rw [Claims.logs, hdom, hu.part .now (by decide), hfails, hu.part .flog0 (by decide), hu.part .flog1 (by decide), Claims.entry,
      hu.part .tb (by decide)] at hshow
    exact hshow
  case off =>
    obtain ⟨hu, h31, -⟩ := targeted_keeps s domain.val value.toNat
    have he := exec_offRequest domain value s hr hp hoff hc hon
    have hdom := State.dom_congr (hu.part .domains (by decide))
    have hfired : (s.targeted domain.val value.toNat).fired = s.fired := by
      rw [State.fired, State.bootState, State.bwF, State.bw, hu.part .boot (by decide)]; rfl
    generalize s.targeted domain.val value.toNat = u at hu h31 he hdom hfired
    by_cases hx : (s.dom domain.val).state = .on ∧ s.fired = true
    · rw [offReq_refused u _ hd (by rw [hdom]; exact hx.1) (hfired.trans hx.2)] at he
      obtain ⟨hdom', h24, hctl, hlog⟩ := refusedReq_shows u domain.val 0x25 domain.val 0
      generalize u.refusedReq domain.val 0x25 domain.val 0 = t at he hdom' h24 hctl hlog
      rw [Claims.logs, hu.part .flog0 (by decide), hu.part .flog1 (by decide), Claims.entry, hu.part .tb (by decide),
        dieField_tower hd, domNode_tower hd] at hlog
      refine ⟨t, he, fun e _ => congrFun (hdom'.trans hdom) e, ?_⟩
      rw [if_pos hx]
      exact ⟨congrFun (hdom'.trans hdom) _, hctl.trans (h31.trans hon), h24, hlog⟩
    · rw [offReq_taken u _ (by rw [hdom, hfired]; exact hx)] at he
      obtain ⟨hctl, h0, h1, hself, hne⟩ := domOff_shows u domain.val hd
      generalize u.domOff domain.val = t at he hctl h0 h1 hself hne
      rw [hdom] at hself hne
      refine ⟨t, he, hne, ?_⟩
      rw [if_neg hx, hself, hu.part .now (by decide)]
      exact ⟨hctl, h0.trans (hu.part .flog0 (by decide)), h1.trans (hu.part .flog1 (by decide)),
        turnOff_discharges _ _, turnOff_discharge _ _⟩
  case clear =>
    obtain ⟨hu, h31, -⟩ := targeted_keeps s domain.val value.toNat
    have he := exec_vregCtlClear domain value s hr hp hc hsame
    have hdom := State.dom_congr (hu.part .domains (by decide))
    obtain ⟨hreg, hne, hself⟩ := vregClear_shows (s.targeted domain.val value.toNat) domain.val
    have honly := only_State_vregClear (s.targeted domain.val value.toNat) domain.val (Ps := [.domains]) (Ks := [.vregCtl])
      (hu.mono (by decide) (by decide)) (by decide)
    generalize s.targeted domain.val value.toNat = u at hu h31 he hdom hreg hne hself honly
    rw [hdom] at hne hself
    exact ⟨_, he, honly, hne, (State.regBit_congr (congrFun hreg _) 31).trans h31, hself⟩
  case done =>
    have he := exec_rampComplete domain s hx
    exact ⟨_, he, Only.ofExec (only_execRampComplete domain s) he, rampDone_shows s domain.val⟩
  case fail =>
    have he := exec_rampFailure domain cause s hx hcause
    rw [rampFail_eq] at he
    have honly := Only.ofExec (only_execRampFailure domain cause s) he
    obtain ⟨hf, hne, hstate, hfails, hcode, hctl⟩ := rampFailed_shows s domain.val (RampCause.code cause)
      (min 3 (s.regF (.vregStat domain.val) 25 2 + 1)) (Nat.min_le_left _ _) (rampCause_code_lt cause)
    dsimp only
    generalize min 3 (s.regF (.vregStat domain.val) 25 2 + 1) = fails at he honly hf hne hstate hfails hcode hctl ⊢
    generalize s.rampFailed domain.val (RampCause.code cause) fails = u at he honly hf hne hstate hfails hcode hctl
    have hlog := logs_after (s := s) (u := u) (code := 0x20) (sev := 2) (die := domain.val) (node := domNode domain.val)
      (tenant := noTenant) (d0 := RampCause.code cause) (d1 := fails) (hf.part .tb (by decide)) (hf.part .flog0 (by decide))
      (hf.part .flog1 (by decide)) (State.flog0_icEvent _ (srcRegulator domain.val)) (State.flog1_icEvent _ _)
    have hk := only_State_icEvent (Ps := [.flog0, .flog1, .ic]) (Ks := []) _ (srcRegulator domain.val)
      ((only_State_log u 0x20 2 domain.val (domNode domain.val) noTenant (RampCause.code cause) fails (Only.refl u) (by decide)))
      (by decide)
    generalize State.icEvent _ _ = t at he honly hlog hk
    have hd := State.dom_congr (hk.part .domains (by decide))
    refine ⟨t, he, honly, fun e h => (congrFun hd e).trans (hne e h), ?_, (State.regF_congr (hk.reg_eq _) 25 2).trans hfails,
      (State.regF_congr (hk.reg_eq _) 27 2).trans hcode, (State.regBit_congr (hk.reg_eq _) 31).trans hctl, hlog⟩
    rw [hd]
    exact hstate
  case fuses =>
    obtain ⟨t, he, hne, hself⟩ := exec_fuseLoad tower s hon ht
    exact ⟨t, he, Only.ofExec (only_execFuseLoad tower s) he, hne, hself⟩
  case discharge =>
    exact ⟨_, rfl, Only.ofExec (only_execDischargeComplete domain s) rfl, dischargeComplete_shows domain.val s hx⟩

end Sys2Proof.Machine
end

section
/-! Reset pins and VAUX: what each reset keeps and clears (R9, R330, R374, R386, R389, R392, R431). -/

namespace Sys2Proof.Machine

theorem Reg.vregPhasest_off (d : Nat) : (Reg.vregPhasest d).off = blk d + 0x80C := rfl
theorem Reg.twrUvcnt_off (w : Nat) : (Reg.twrUvcnt w).off = blk w + 0x810 := rfl

theorem Reg.vregPhasest_off_ne {d e : Nat} (h : d ≠ e) : (Reg.vregPhasest d).off ≠ (Reg.vregPhasest e).off := by
  simp only [Reg.vregPhasest_off, blk]; omega

theorem Reg.twrUvcnt_off_ne {d e : Nat} (h : d ≠ e) : (Reg.twrUvcnt d).off ≠ (Reg.twrUvcnt e).off := by
  simp only [Reg.twrUvcnt_off, blk]; omega

theorem Reg.vregPhasest_off_apart (d e : Nat) : (Reg.vregPhasest d).off ≠ (Reg.vregStat e).off ∧
    (Reg.vregPhasest d).off ≠ (Reg.vstat e).off ∧ (Reg.vregPhasest d).off ≠ (Reg.twrUvcnt e).off ∧
    (Reg.vregPhasest d).off ≠ Reg.pkgHardpan.off ∧ (Reg.vregPhasest d).off ≠ Reg.vinAlertcnt.off := by
  simp only [Reg.vregPhasest_off, Reg.vregStat_off, Reg.vstat_off, Reg.twrUvcnt_off, Reg.pkgHardpan_off, Reg.vinAlertcnt_off, blk]
  omega

theorem Reg.twrUvcnt_off_apart (d : Nat) :
    (Reg.twrUvcnt d).off ≠ Reg.pkgHardpan.off ∧ (Reg.twrUvcnt d).off ≠ Reg.vinAlertcnt.off := by
  simp only [Reg.twrUvcnt_off, Reg.pkgHardpan_off, Reg.vinAlertcnt_off, blk]
  omega

theorem Reg.pkgHardpan_off_ne_cnt : Reg.pkgHardpan.off ≠ Reg.vinAlertcnt.off := by
  simp only [Reg.pkgHardpan_off, Reg.vinAlertcnt_off, blk]; omega

/-! ### The registers that a warm reset keeps -/

/-- R9: the phases of a domain are kept in a state, with what follows from them. -/
def State.keepPhases (s z : State) (d : Nat) : State :=
  let n := s.phasesLost d
  let z2 := ((z.setReg (.vregPhasest d) (s.reg (.vregPhasest d))).setF (.vregStat d) 25 2 (s.regF (.vregStat d) 25 2)).setF
    (.vregStat d) 20 4 n
  if d < 8 && 3 ≤ n then (z2.setF (.vregStat d) 0 16 (min 700 s.fuses.bin.vmax)).setF (.vstat d) 0 16 (min 700 s.fuses.bin.vmax)
  else z2

/-- R9: a register is kept in a state. -/
def State.keepReg (s : State) (r : Reg) (z : State) : State := z.setReg r (s.reg r)

theorem reg_keepReg_same (s : State) (r : Reg) (z : State) : (s.keepReg r z).reg r = s.reg r := State.reg_setReg_same _ _ _

theorem reg_keepReg_ne (s : State) (r q : Reg) (z : State) (h : q.off ≠ r.off) : (s.keepReg r z).reg q = z.reg q :=
  State.reg_setReg_ne _ _ _ _ h

/-- The part at reset, with the fuses of a part. -/
def State.blank (s : State) : State := { State.reset with fuses := s.fuses }

theorem warmRegs_eq (s : State) : s.warmRegs = s.keepReg .vinAlertcnt (s.keepReg .pkgHardpan
    ((List.range 8).foldl (fun z t => s.keepReg (.twrUvcnt t) z) ((List.range 12).foldl s.keepPhases s.blank))) := rfl

theorem reg_keepPhases (s z : State) (e : Nat) (q : Reg) (hs : q.off ≠ (Reg.vregStat e).off) (hv : q.off ≠ (Reg.vstat e).off) :
    (s.keepPhases z e).reg q = (z.setReg (.vregPhasest e) (s.reg (.vregPhasest e))).reg q := by
  unfold State.keepPhases
  dsimp only
  split
  · rw [State.reg_setF_ne _ _ _ _ _ _ hv, State.reg_setF_ne _ _ _ _ _ _ hs, State.reg_setF_ne _ _ _ _ _ _ hs,
      State.reg_setF_ne _ _ _ _ _ _ hs]
  · rw [State.reg_setF_ne _ _ _ _ _ _ hs, State.reg_setF_ne _ _ _ _ _ _ hs]

theorem reg_foldl_keepPhases (s z : State) (d : Nat) (hd : d < 12) :
    ((List.range 12).foldl s.keepPhases z).reg (.vregPhasest d) = s.reg (.vregPhasest d) := by
  have hstep : ∀ (x : State) e, (s.keepPhases x e).reg (.vregPhasest d) =
      (x.setReg (.vregPhasest e) (s.reg (.vregPhasest e))).reg (.vregPhasest d) := fun x e =>
    reg_keepPhases s x e _ (Reg.vregPhasest_off_apart d e).1 (Reg.vregPhasest_off_apart d e).2.1
  refine foldl_establishes (fun d (x : State) => x.reg (.vregPhasest d) = s.reg (.vregPhasest d)) s.keepPhases _ z
    (fun x a _ => ?_) (fun x a b _ _ h => ?_) d (List.mem_range.2 hd)
  · rw [reg_keepPhases s x a _ (Reg.vregPhasest_off_apart a a).1 (Reg.vregPhasest_off_apart a a).2.1, State.reg_setReg_same]
  · rw [reg_keepPhases s x b _ (Reg.vregPhasest_off_apart a b).1 (Reg.vregPhasest_off_apart a b).2.1]
    by_cases hab : a = b
    · rw [hab, State.reg_setReg_same]
    · rw [State.reg_setReg_ne _ _ _ _ (Reg.vregPhasest_off_ne hab)]; exact h

theorem reg_foldl_keepUv (s z : State) (w : Nat) (hw : w < 8) :
    ((List.range 8).foldl (fun z t => s.keepReg (.twrUvcnt t) z) z).reg (.twrUvcnt w) = s.reg (.twrUvcnt w) := by
  refine foldl_establishes (fun w (x : State) => x.reg (.twrUvcnt w) = s.reg (.twrUvcnt w)) _ _ z
    (fun x a _ => reg_keepReg_same s _ x) (fun x a b _ _ h => ?_) w (List.mem_range.2 hw)
  by_cases hab : a = b
  · rw [hab, reg_keepReg_same]
  · rw [reg_keepReg_ne _ _ _ _ (Reg.twrUvcnt_off_ne hab)]; exact h

/-- What the kept registers hold after a warm reset. -/
theorem reg_warmRegs (s : State) : s.warmRegs.reg .pkgHardpan = s.reg .pkgHardpan ∧
    s.warmRegs.reg .vinAlertcnt = s.reg .vinAlertcnt ∧ (∀ w, w < 8 → s.warmRegs.reg (.twrUvcnt w) = s.reg (.twrUvcnt w)) ∧
    ∀ d, d < 12 → s.warmRegs.reg (.vregPhasest d) = s.reg (.vregPhasest d) := by
  rw [warmRegs_eq]
  refine ⟨?_, reg_keepReg_same _ _ _, fun w hw => ?_, fun d hd => ?_⟩
  · rw [reg_keepReg_ne _ _ _ _ Reg.pkgHardpan_off_ne_cnt, reg_keepReg_same]
  · obtain ⟨hp, hv⟩ := Reg.twrUvcnt_off_apart w
    rw [reg_keepReg_ne _ _ _ _ hv, reg_keepReg_ne _ _ _ _ hp]
    exact reg_foldl_keepUv s _ w hw
  · have hne := Reg.vregPhasest_off_apart d
    have huv := fun z => foldl_reading (fun z : State => z.reg (.vregPhasest d)) (fun z t => s.keepReg (.twrUvcnt t) z)
      (List.range 8) z fun z w _ => reg_keepReg_ne s _ _ z (hne w).2.2.1
    rw [reg_keepReg_ne _ _ _ _ (hne 0).2.2.2.2, reg_keepReg_ne _ _ _ _ (hne 0).2.2.2.1, huv]
    exact reg_foldl_keepPhases s _ d hd

/-- The registers that a warm reset writes. -/
def warmKinds : List RegKind := [.vregPhasest, .vregStat, .vstat, .twrUvcnt, .pkgHardpan, .vinAlertcnt]

theorem only_keepPhases (s z0 z : State) (d : Nat) (h : Only [] warmKinds z0 z) : Only [] warmKinds z0 (s.keepPhases z d) := by
  have hstat : (Reg.vregStat d).kind ∈ warmKinds := List.elem_iff.mp rfl
  have hv : (Reg.vstat d).kind ∈ warmKinds := List.elem_iff.mp rfl
  have hp : (Reg.vregPhasest d).kind ∈ warmKinds := List.elem_iff.mp rfl
  have h2 := only_State_setF _ _ 20 4 (s.phasesLost d) (only_State_setF _ _ 25 2 (s.regF (.vregStat d) 25 2)
    (only_State_setReg z _ (s.reg (.vregPhasest d)) hp h) hstat) hstat
  unfold State.keepPhases
  dsimp only
  split
  · exact only_State_setF _ _ 0 16 _ (only_State_setF _ _ 0 16 _ h2 hstat) hv
  · exact h2

theorem only_keepReg (s z0 z : State) (r : Reg) (hr : r.kind ∈ warmKinds) (h : Only [] warmKinds z0 z) :
    Only [] warmKinds z0 (s.keepReg r z) := only_State_setReg z r _ hr h

/-- Everything else is as at reset. -/
theorem only_warmRegs (s : State) : Only [] warmKinds s.blank s.warmRegs := by
  rw [warmRegs_eq]
  refine only_keepReg _ _ _ _ (List.elem_iff.mp rfl) (only_keepReg _ _ _ _ (List.elem_iff.mp rfl)
    (Only.fold _ _ _ (Only.fold _ _ _ (Only.refl _) fun z d hz => ?_) fun z w hz => ?_))
  · exact only_keepPhases s _ z d hz
  · exact only_keepReg s _ z _ (List.elem_iff.mp rfl) hz

/-! ### The part after a warm reset -/

/-- R330, R341: no domain is up or latched. -/
theorem warm_state (x : Domain) (now : Nat) :
    (x.warm now).state ≠ .on ∧ (x.warm now).state ≠ .ramp ∧ (x.warm now).state ≠ .latched := by
  unfold Domain.warm
  cases x.state <;> simp

/-- What VAUX keeps of a part in one whose other logic is as after a reset. -/
def State.keptByVaux (s z : State) : State :=
  { z with
    pending := s.pending, out := s.out, freeCtr := s.freeCtr, now := s.now, vaux := s.vaux,
    tb := { s.tb with preset := 0, armed := false }, flog0 := s.flog0, flog1 := s.flog1, fatal := s.fatal,
    domains := (s.domains.map fun (x : Nat × Domain) => (x.1, x.2.warm s.now)).filter fun (x : Nat × Domain) => x.2 ≠ {},
    failovers := s.failovers, usedKeys := s.usedKeys,
    x0Lost := decide ((s.dom 8).state = .dead) || (decide ((s.dom 8).state = .discharge) && decide ((s.dom 8).after = .dead)),
    perstLow := s.perstLow, straps := s.straps }

theorem warm_eq (s : State) : s.warm = s.keptByVaux s.warmRegs := rfl

/-- What VAUX powers. -/
theorem keptByVaux_shows (s z : State) : (s.keptByVaux z).vaux = s.vaux ∧ (s.keptByVaux z).tb.count = s.tb.count ∧
    (s.keptByVaux z).tb.locked = s.tb.locked ∧ (s.keptByVaux z).now = s.now ∧ (s.keptByVaux z).flog0 = s.flog0 ∧
    (s.keptByVaux z).flog1 = s.flog1 ∧ (s.keptByVaux z).fatal = s.fatal ∧ (s.keptByVaux z).straps = s.straps ∧
    (s.keptByVaux z).pending = s.pending := ⟨rfl, rfl, rfl, rfl, rfl, rfl, rfl, rfl, rfl⟩

theorem reg_keptByVaux (s z : State) : (s.keptByVaux z).reg = z.reg := State.reg_congr rfl rfl

theorem reg_warm (s : State) : s.warm.reg = s.warmRegs.reg := (congrArg State.reg (warm_eq s)).trans (reg_keptByVaux s _)

theorem domains_keptByVaux (s z : State) (d : Nat) (x : Domain) (h : (d, x) ∈ (s.keptByVaux z).domains) :
    x.state ≠ .on ∧ x.state ≠ .ramp ∧ x.state ≠ .latched := by
  obtain ⟨e, -, he⟩ := List.mem_map.1 (List.mem_filter.1 h).1
  rw [← (Prod.mk.inj he).2]
  exact warm_state _ _

/-- What VAUX does not power is as in the state it is kept in. -/
theorem keptByVaux_rest (s z : State) : (s.keptByVaux z).fuses = z.fuses ∧ (s.keptByVaux z).mem = z.mem ∧
    (s.keptByVaux z).mbox = z.mbox ∧ (s.keptByVaux z).lists = z.lists ∧ (s.keptByVaux z).segs = z.segs ∧
    (s.keptByVaux z).alive = z.alive ∧ (s.keptByVaux z).bootRun = z.bootRun ∧ (s.keptByVaux z).boot = z.boot :=
  ⟨rfl, rfl, rfl, rfl, rfl, rfl, rfl, rfl⟩

/-- The part at reset has no memory, no mailbox, no list, no segment and no firmware. -/
theorem blank_shows (s : State) : s.blank.fuses = s.fuses ∧ s.blank.mem = [] ∧ s.blank.mbox = [] ∧ s.blank.lists = [] ∧
    s.blank.segs = [] ∧ s.blank.alive = false ∧ s.blank.bootRun = none ∧ s.blank.boot = [] :=
  ⟨rfl, rfl, rfl, rfl, rfl, rfl, rfl, rfl⟩

/-- What a warm reset leaves besides the registers. -/
theorem warm_shows (s : State) : s.warm.fuses = s.fuses ∧ s.warm.mem = [] ∧ s.warm.mbox = [] ∧ s.warm.lists = [] ∧ s.warm.segs = [] ∧
    s.warm.alive = false ∧ s.warm.bootRun = none ∧ s.warm.boot = [] := by
  have h := only_warmRegs s
  obtain ⟨hf, hm, hb, hl, hg, ha, hr, ho⟩ := keptByVaux_rest s s.warmRegs
  obtain ⟨kf, km, kb, kl, kg, ka, kr, ko⟩ := blank_shows s
  rw [warm_eq]
  exact ⟨hf.trans (h.make.trans kf), hm.trans ((h.part .mem (by decide)).trans km), hb.trans ((h.part .mbox (by decide)).trans kb),
    hl.trans ((h.part .lists (by decide)).trans kl), hg.trans ((h.part .segs (by decide)).trans kg),
    ha.trans ((h.part .alive (by decide)).trans ka), hr.trans ((h.part .bootRun (by decide)).trans kr),
    ho.trans ((h.part .boot (by decide)).trans ko)⟩

/-! ### Starting the I/O dies -/

theorem dom_startIo_ne (s : State) (x : Nat) (up : Bool) (e : Nat) (h : e ≠ 8 + x) : (s.startIo x up).dom e = s.dom e := by
  unfold State.startIo
  dsimp only
  split
  · rfl
  · rw [State.dom_setDom, if_neg h, State.dom_setF, State.dom_setBit]

theorem ctl_startIo_ne (s : State) (x : Nat) (up : Bool) (e : Nat) (h : e ≠ 8 + x) :
    (s.startIo x up).reg (.vregCtl e) = s.reg (.vregCtl e) := by
  unfold State.startIo
  dsimp only
  split
  · rfl
  · rw [State.reg_setDom, State.reg_setF_ne _ _ _ _ _ _ (Reg.vregCtl_off_ne h), State.setBit,
      State.reg_setF_ne _ _ _ _ _ _ (Reg.vregCtl_off_ne h)]

theorem startIo_starts (s : State) (x : Nat) (up : Bool) (hp : diePresent s.fuses (8 + x) = true)
    (hd : ((s.startIo x up).dom (8 + x)).state ≠ .dead) :
    ((s.startIo x up).dom (8 + x)).state = (if up then .on else .ramp) ∧ (s.startIo x up).regBit (.vregCtl (8 + x)) 31 = true := by
  unfold State.startIo at hd ⊢
  dsimp only at hd ⊢
  split at hd
  case isTrue h =>
    simp only [hp, Bool.not_true, Bool.false_or, decide_eq_true_eq] at h
    exact absurd h hd
  case isFalse h =>
    rw [if_neg h]
    refine ⟨by simp, ?_⟩
    rw [State.regBit_congr (congrFun (State.reg_setDom _ _ _) _) 31,
      State.regBit_setF_apart _ _ 0 10 750 31 (by decide) (by decide)]
    exact regBit_setBit_self _ _ 31 (by decide)

/-- Every I/O die that is present and not DEAD starts. -/
theorem foldl_startIo (s : State) (ioUp x : Nat) (hx : x < 4) (hp : diePresent s.fuses (8 + x) = true)
    (hd : (((List.range 4).foldl (fun s x => s.startIo x (nbit ioUp x)) s).dom (8 + x)).state ≠ .dead) :
    (((List.range 4).foldl (fun s x => s.startIo x (nbit ioUp x)) s).dom (8 + x)).state = (if nbit ioUp x then .on else .ramp) ∧
      ((List.range 4).foldl (fun s x => s.startIo x (nbit ioUp x)) s).regBit (.vregCtl (8 + x)) 31 = true := by
  have hfuses : ∀ (t : State) x, (t.startIo x (nbit ioUp x)).fuses = t.fuses := fun t x =>
    (only_State_startIo (Ps := [.domains]) (Ks := [.vregCtl]) t x (nbit ioUp x) (Only.refl t) (by decide) (by decide)).make
  refine foldl_establishes (fun x (t : State) => diePresent t.fuses (8 + x) = true → (t.dom (8 + x)).state ≠ .dead →
    (t.dom (8 + x)).state = (if nbit ioUp x then .on else .ramp) ∧ t.regBit (.vregCtl (8 + x)) 31 = true) _ _ s
    (fun t a _ hp hd => startIo_starts t a _ (by rw [← hfuses t a]; exact hp) hd) (fun t a b _ _ h hp hd => ?_) x
    (List.mem_range.2 hx) ?_ hd
  · by_cases hab : a = b
    · subst hab
      exact startIo_starts t a _ (by rw [← hfuses t a]; exact hp) hd
    · have hne : 8 + a ≠ 8 + b := by omega
      rw [dom_startIo_ne _ _ _ _ hne] at hd ⊢
      rw [State.regBit_congr (ctl_startIo_ne t b (nbit ioUp b) _ hne) 31]
      exact h (by rw [← hfuses t b]; exact hp) hd
  · rw [foldl_reading State.fuses _ _ s fun t x _ => hfuses t x]
    exact hp

/-! ### The commands -/

theorem exec_resetNAssert (s : State) (hr : s.running = true) :
    ∃ t, exec .resetNAssert s = .next t ∧ t.resetN = false ∧ Only [.resetN] [] s.warm t :=
  ⟨_, congrArg Host.Outcome.next (if_pos hr), rfl, Only.upd_resetN (Only.refl _) (List.mem_singleton_self _)⟩

/-- R387: the part before its I/O dies start. -/
def State.released (w : State) (straps : Nat) : State :=
  { w with resetN := true, straps := straps }.setBw BW.straps (BitVec.ofNat 64 straps)

theorem exec_resetNRelease (straps : BitVec 12) (ioUp : BitVec 4) (s : State) (hv : s.vaux = true) (hn : s.resetN = false)
    (hh : s.inHardpan = false) : exec (.resetNRelease straps ioUp) s =
      .next ((List.range 4).foldl (fun s x => s.startIo x (nbit ioUp.toNat x)) (s.warm.released straps.toNat)) :=
  congrArg Host.Outcome.next (if_pos (by simp [hv, hn, hh]))

theorem released_shows (w : State) (straps : BitVec 12) (hb : w.boot = []) :
    (w.released straps.toNat).resetN = true ∧ (w.released straps.toNat).bootState = 1 ∧ (w.released straps.toNat).bootStep = 1 ∧
      (w.released straps.toNat).bw BW.straps = straps.setWidth 64 ∧
      Only [.resetN, .straps, .boot] [] w (w.released straps.toNat) := by
  have hboot : (w.released straps.toNat).boot = put bootReset [] BW.straps (BitVec.ofNat 64 straps.toNat) :=
    congrArg (fun b => put bootReset b BW.straps (BitVec.ofNat 64 straps.toNat)) hb
  have hbw : ∀ o, (w.released straps.toNat).bw o = if o = BW.straps then BitVec.ofNat 64 straps.toNat else bootReset o := fun o => by
    rw [State.bw, hboot, look_put]; rfl
  have hstate : (w.released straps.toNat).bw BW.state = 0x11000000 := by rw [hbw, if_neg (by decide)]; rfl
  refine ⟨rfl, ?_, ?_, ?_, ?_⟩
  · rw [State.bootState, State.bwF, hstate]; decide
  · rw [State.bootStep, State.bwF, hstate]; decide
  · rw [hbw, if_pos rfl, BitVec.ofNat_toNat]
  · have hr : Only [.resetN, .straps, .boot] [] w { w with resetN := true, straps := straps.toNat } :=
      ⟨rfl, fun p hp => by cases p <;> first | rfl | exact absurd (by decide) hp, fun _ _ => rfl⟩
    exact only_State_setBw _ _ _ hr (by decide)

theorem exec_perstN (port : Fin 4) (low : Bool) (s : State) (hr : s.running = true) : ∃ t, exec (.perstN port low) s = .next t ∧
    t.perstLow = if low then Nat.lor s.perstLow (2 ^ port.val) else s.perstLow - Nat.land s.perstLow (2 ^ port.val) :=
  ⟨_, congrArg Host.Outcome.next (if_pos hr), rfl⟩

theorem nbit_perstLow (v p : Nat) (low : Bool) (b : Nat) :
    nbit (if low then Nat.lor v (2 ^ p) else v - Nat.land v (2 ^ p)) b = if b = p then low else nbit v b := by
  cases low with
  | true =>
    rw [if_pos rfl, nbit_lor, nbit_two_pow]
    by_cases h : b = p <;> simp [h]
  | false =>
    rw [if_neg Bool.false_ne_true, nbit_clear, nbit_two_pow]
    by_cases h : b = p <;> simp [h]

/-- Settles O31: a warm reset keeps the registers of R9 and what VAUX powers, a cold one nothing but the fuses. -/
theorem resetKeepsWhatVauxKeeps : Obligations.ResetKeepsWhatVauxKeeps := by
  unfold Obligations.ResetKeepsWhatVauxKeeps
  refine fun s => ⟨fun hr => ?assert, fun straps ioUp hv hn hh => ?release, fun port low hr => ?perst, fun hv => ?loss, fun hv => ?rise⟩
  case assert =>
    obtain ⟨t, he, hreset, hk⟩ := exec_resetNAssert s hr
    obtain ⟨hfuses, hmem, hmbox, hlists, hsegs, halive, hrun, -⟩ := warm_shows s
    have hdom := domains_keptByVaux s s.warmRegs
    obtain ⟨hpan, hcnt, huv, hphase⟩ := reg_warmRegs s
    have hreg := fun q => (hk.reg_eq q).trans (congrFun (reg_warm s) q)
    obtain ⟨hvaux, hcount, hlocked, hnow, h0, h1, hfatal, hstraps, hpend⟩ := keptByVaux_shows s s.warmRegs
    rw [← warm_eq] at hvaux hcount hlocked hnow h0 h1 hfatal hstraps hpend hdom
    have hvx : s.vaux = true := by
      simp only [State.running, Bool.and_eq_true] at hr
      exact hr.1.1
    have htb := hk.part .tb (by decide)
    refine ⟨t, he, hreset, (hk.part .vaux (by decide)).trans (hvaux.trans hvx), ?_, ?_, (hk.part .now (by decide)).trans hnow,
      (hk.part .flog0 (by decide)).trans h0, (hk.part .flog1 (by decide)).trans h1, (hk.part .fatal (by decide)).trans hfatal,
      (hk.part .straps (by decide)).trans hstraps, (hreg _).trans hpan, (hreg _).trans hcnt, (hk.part .mem (by decide)).trans hmem,
      (hk.part .mbox (by decide)).trans hmbox, (hk.part .lists (by decide)).trans hlists, (hk.part .segs (by decide)).trans hsegs,
      (hk.part .alive (by decide)).trans halive, (hk.part .bootRun (by decide)).trans hrun, hk.make.trans hfuses,
      (hk.part .pending (by decide)).trans hpend, fun v hv => (hreg _).trans (huv v hv), fun d hd => (hreg _).trans (hphase d hd),
      fun d x hx => hdom d x ?_⟩
    · rw [htb]; exact hcount
    · rw [htb]; exact hlocked
    · rw [← hk.part .domains (by decide)]; exact hx
  case release =>
    have he := exec_resetNRelease straps ioUp s hv hn hh
    obtain ⟨hfuses, -, -, -, -, -, -, hb⟩ := warm_shows s
    obtain ⟨-, hcount, -, -, h0, -, hfatal, -, -⟩ := keptByVaux_shows s s.warmRegs
    rw [← warm_eq] at hcount h0 hfatal
    generalize s.warm = w at he hfuses hb hcount h0 hfatal
    obtain ⟨hreset, hstate, hstep, hbw, hw⟩ := released_shows w straps hb
    generalize w.released straps.toNat = u at he hreset hstate hstep hbw hw
    have hio := foldl_startIo u ioUp.toNat
    have hk : Only [.domains] [.vregCtl] u ((List.range 4).foldl (fun s x => s.startIo x (nbit ioUp.toNat x)) u) :=
      Only.fold _ _ _ (Only.refl u) fun t x ht => only_State_startIo t x _ ht (by decide) (by decide)
    generalize (List.range 4).foldl (fun s x => s.startIo x (nbit ioUp.toNat x)) u = t at he hio hk
    have hboot : ∀ o, t.bw o = u.bw o := fun o => by rw [State.bw, hk.part .boot (by decide)]; rfl
    refine ⟨t, he, (hk.part .resetN (by decide)).trans hreset, ?_, ?_, (hboot _).trans hbw, ?_,
      (hk.part .flog0 (by decide)).trans ((hw.part .flog0 (by decide)).trans h0),
      (hk.part .fatal (by decide)).trans ((hw.part .fatal (by decide)).trans hfatal),
      fun x hx hp hd => hio x hx (by rw [hw.make, hfuses]; exact hp) hd⟩
    · rw [State.bootState, State.bwF, hboot]; exact hstate
    · rw [State.bootStep, State.bwF, hboot]; exact hstep
    · rw [hk.part .tb (by decide), hw.part .tb (by decide)]; exact hcount
  case perst =>
    obtain ⟨t, he, hp⟩ := exec_perstN port low s hr
    exact ⟨t, he, Only.ofExec (only_execPerstN port low s) he, fun b => by rw [hp]; exact nbit_perstLow _ _ _ _⟩
  case loss => exact ⟨s.cold false, congrArg Host.Outcome.next (if_pos hv), rfl, rfl, rfl, rfl, rfl, rfl, rfl, rfl, rfl, rfl, rfl, rfl⟩
  case rise =>
    exact ⟨s.cold true, congrArg Host.Outcome.next (if_neg (by simp [hv])), rfl, rfl, rfl, rfl, rfl, rfl, rfl, rfl, rfl, rfl, rfl, rfl⟩

end Sys2Proof.Machine
end

section
/-! Segments: allocation, sharing, removal and zeroing (R300, R301, R313 to R320). -/

namespace Sys2Proof.Machine

/-! ### Entries of the segment table -/

theorem find?_insertKey {α : Type} (k : Nat) (v : α) (m : List (Nat × α)) (j : Nat) :
    (insertKey k v m).find? (fun e => e.1 = j) = if j = k then some (k, v) else m.find? fun e => e.1 = j := by
  induction m with
  | nil =>
    by_cases h : j = k
    · simp [insertKey, h]
    · simp [insertKey, h, Ne.symm h]
  | cons c m ih =>
    obtain ⟨k', v'⟩ := c
    unfold insertKey
    by_cases h : j = k
    · subst h
      split
      · simp
      · split
        · simp
        · next h1 h2 => simp [ih, Ne.symm h2]
    · split
      · simp [Ne.symm h]
      · split
        · next h2 => simp [← h2, Ne.symm h]
        · simp [List.find?_cons, ih, h]

theorem find?_removeKey {α : Type} (k : Nat) (m : List (Nat × α)) (j : Nat) :
    (removeKey k m).find? (fun e => e.1 = j) = if j = k then none else m.find? fun e => e.1 = j := by
  induction m with
  | nil => simp [removeKey]
  | cons c m ih =>
    obtain ⟨k', v'⟩ := c
    unfold removeKey
    split
    · next h =>
      rw [ih, ← h]
      by_cases hj : j = k
      · simp [hj]
      · simp [hj, Ne.symm hj]
    · next h =>
      rw [List.find?_cons, List.find?_cons, ih]
      by_cases hj : j = k
      · simp [hj, Ne.symm h]
      · simp [hj]

theorem State.seg?_setSeg (s : State) (t slot : Nat) (g : Seg) (u i : Nat) :
    (s.setSeg t slot g).seg? u i = if u * 16 + i = t * 16 + slot then some g else s.seg? u i := by
  rw [State.seg?, State.setSeg, find?_insertKey]
  split <;> rfl

theorem State.seg?_setSeg_same (s : State) (t slot : Nat) (g : Seg) : (s.setSeg t slot g).seg? t slot = some g := by
  rw [State.seg?_setSeg, if_pos rfl]

theorem State.seg?_setSeg_ne (s : State) (t slot : Nat) (g : Seg) (u i : Nat) (h : u * 16 + i ≠ t * 16 + slot) :
    (s.setSeg t slot g).seg? u i = s.seg? u i := by
  rw [State.seg?_setSeg, if_neg h]

theorem State.seg?_clearSeg (s : State) (t slot : Nat) (u i : Nat) :
    (s.clearSeg t slot).seg? u i = if u * 16 + i = t * 16 + slot then none else s.seg? u i := by
  rw [State.seg?, State.clearSeg, find?_removeKey]
  split <;> rfl

/-! ### An action that ends its slip -/

/-- What an action changes besides its mailbox shows through the answer. -/
theorem only_answer (u : State) (x : Slip) (status : Nat) (body : List Byte) :
    Only [.mbox, .progress, .watchdogs] [] u (u.answer x status body) := only_State_answer u x status body (Only.refl u) (by decide)

theorem only_take (s : State) (x : Slip) : Only [.mbox] [] s (s.take x) := only_State_take s x (Only.refl s) (by decide)

theorem seg?_take_answer (s : State) (x : Slip) (status : Nat) (body : List Byte) :
    ((s.take x).answer x status body).segs = s.segs := (only_take_answer s x status body).part .segs (by decide)

/-- An answer after an action that leaves the mailboxes as the slip's taking left them. -/
theorem answered_after_take {s u : State} {x : Slip} (status : Nat) (body : List Byte) (h : u.mbox = (s.take x).mbox) :
    Claims.answered (s.mb x.t) s (u.answer x status body) x status body := by
  have hmb : u.mb = (s.take x).mb := State.mb_congr h
  exact answered_answer status body (by rw [hmb, s.mb_take_same]) fun v hv => by rw [hmb, s.mb_take_ne x v hv]

/-! ### Where a segment goes (R314) -/

theorem foldl_min_mem (x : Nat) (xs : List Nat) : xs.foldl min x ∈ x :: xs := by
  induction xs generalizing x with
  | nil => exact List.mem_singleton_self _
  | cons y ys ih =>
    rw [List.foldl_cons]
    rcases List.mem_cons.1 (ih (min x y)) with h | h
    · rw [h]
      rcases Nat.le_total x y with hxy | hxy
      · rw [Nat.min_eq_left hxy]; exact List.mem_cons_self ..
      · rw [Nat.min_eq_right hxy]; exact List.mem_cons_of_mem _ (List.mem_cons_self ..)
    · exact List.mem_cons_of_mem _ (List.mem_cons_of_mem _ h)

/-- A place that is picked is free. -/
theorem pickPlace_free {taken : List (Nat × Nat)} {bottom top align n choice a : Nat}
    (h : pickPlace taken bottom top align n choice = some a) : rangeFree taken top a n = true := by
  unfold pickPlace at h
  dsimp only at h
  split at h
  · next hc => rw [← Option.some.inj h]; exact hc
  · split at h
    · exact absurd h (by simp)
    · next x xs hl =>
      have hm := foldl_min_mem x xs
      rw [← hl, Option.some.inj h] at hm
      exact (Bool.and_eq_true_iff.1 (List.mem_filter.1 hm).2).2

theorem allocPlace_free {s : State} {b : List Byte} {z : Bool} {a : Nat} (h : s.allocPlace b z = some a) :
    ∃ top, rangeFree (s.takenRanges z) top a (fieldAt b 8 8) = true := by
  unfold State.allocPlace at h
  dsimp only at h
  split at h
  · exact ⟨_, pickPlace_free h⟩
  · split at h
    · exact ⟨_, pickPlace_free h⟩
    · split at h
      · next hf => rw [← Option.some.inj h]; exact ⟨_, hf⟩
      · exact absurd h (by simp)

theorem apart_of_rangeFree {taken : List (Nat × Nat)} {top a n : Nat} (h : rangeFree taken top a n = true) (r : Nat × Nat)
    (hr : r ∈ taken) : a + n ≤ r.1 ∨ r.1 + r.2 ≤ a := by
  have hall := List.all_eq_true.1 (Bool.and_eq_true_iff.1 h).2 r hr
  simp only [overlaps, Bool.not_eq_true', Bool.and_eq_false_iff, decide_eq_false_iff_not] at hall
  omega

/-- R300, R314: a new place shares no byte with an owned segment or with memory still to be zeroed. -/
theorem allocPlace_apart {s : State} {b : List Byte} {a : Nat} (h : s.allocPlace b true = some a) :
    (∀ e, e ∈ s.segs → e.2.kind ≠ .attached → a + fieldAt b 8 8 ≤ e.2.base ∨ e.2.base + e.2.size ≤ a) ∧
      ∀ z, z ∈ s.zeroing → a + fieldAt b 8 8 ≤ z.base ∨ z.base + z.size ≤ a := by
  obtain ⟨top, hf⟩ := allocPlace_free h
  refine ⟨fun e he hk => ?_, fun z hz => ?_⟩
  · refine apart_of_rangeFree hf (e.2.base, e.2.size) (List.mem_append_left _ (List.mem_append_left _ ?_))
    refine List.mem_map.2 ⟨(e.1 / 16, e.2), List.mem_map.2 ⟨e, List.mem_filter.2 ⟨he, ?_⟩, rfl⟩, rfl⟩
    exact decide_eq_true hk
  · refine apart_of_rangeFree hf (z.base, z.size) (List.mem_append_right _ ?_)
    exact List.mem_map.2 ⟨z, hz, rfl⟩

/-! ### SEG_ALLOC -/

theorem exec_segAlloc (x : Slip) (s : State)
    (h : Claims.accepted s x 2 [(0x08, 8), (0x10, 1), (0x11, 1), (0x12, 1), (0x13, 1), (0x14, 4)] = true) :
    exec (.segAlloc x) s = .next (segAllocAct x (s.take x)) :=
  congrArg Host.Outcome.next (State.withSlip_accepted h (fun h => nomatch h))

theorem allocPlace_take (s : State) (x : Slip) (b : List Byte) (z : Bool) : (s.take x).allocPlace b z = s.allocPlace b z := rfl
theorem seg?_take (s : State) (x : Slip) : (s.take x).seg? = s.seg? := rfl
theorem poisonedGranules_take (s : State) (x : Slip) (a n : Nat) : (s.take x).poisonedGranules a n = s.poisonedGranules a n := rfl

/-- The segment that a SEG_ALLOC asks for, at a place. -/
def allocatedSeg (x : Slip) (base : Nat) : Seg :=
  ⟨base, x.f 8 8, .priv, decide (x.f 0x11 1 = 1), x.f 0x13 1, if decide (x.f 0x11 1 = 1) then x.f 0x12 1 else 0, x.t, 0xFFFFFFFF⟩

theorem installAlloc_eq (s : State) (x : Slip) (base : Nat) :
    s.installAlloc x.t x.bytes base = s.bumpFree.setSeg x.t (x.f 0x10 1) (allocatedSeg x base) := by
  rw [State.installAlloc, allocatedSeg]
  simp only [decide_eq_true_eq]
  rfl

theorem allocBody_take (s : State) (x : Slip) (base : Nat) : (s.take x).allocBody x.bytes base =
    leBytes 8 base ++ leBytes 8 (x.f 8 8) ++
      leBytes 4 (if decide (x.f 0x11 1 = 1) then 0 else s.poisonedGranules base (x.f 8 8)) ++ leBytes 1 (x.f 0x13 1) := by
  rw [State.allocBody]
  simp only [decide_eq_true_eq]
  rfl

theorem segAllocAct_occupied (s : State) (x : Slip) (hok : segAllocOk x = true) (h : (s.seg? x.t (x.f 0x10 1)).isSome = true) :
    segAllocAct x (s.take x) = (s.take x).answer x stBadSlot [] := by
  rw [segAllocAct, if_neg (by simp [hok]), if_pos (by rw [seg?_take]; exact h)]

theorem segAllocAct_free (s : State) (x : Slip) (hok : segAllocOk x = true) (h : ¬ (s.seg? x.t (x.f 0x10 1)).isSome = true) :
    segAllocAct x (s.take x) =
      if (decide (x.f 0x11 1 = 1) && !s.coreEnabled (x.f 0x12 1)) = true then (s.take x).answer x stNoSpace []
      else match s.allocPlace x.bytes true with
        | some base => ((s.take x).bumpFree.setSeg x.t (x.f 0x10 1) (allocatedSeg x base)).answer x stOk ((s.take x).allocBody x.bytes base)
        | none => match s.allocPlace x.bytes false with
          | some _ => (s.take x).waitSlip x
          | none => (s.take x).answer x stNoSpace [] := by
  rw [segAllocAct, if_neg (by simp [hok]), if_neg (by rw [seg?_take]; exact h)]
  simp only [installAlloc_eq, allocPlace_take]
  rfl

/-- Settles O15: the slip's fate by the slot, the core and the place that was found. -/
theorem segAllocInstallsAFreshSegment : Obligations.SegAllocInstallsAFreshSegment := by
  unfold Obligations.SegAllocInstallsAFreshSegment
  intro x s hacc hok
  have he := exec_segAlloc x s hacc
  refine ⟨_, he, Only.ofExec (only_execSegAlloc x s) he, ?_⟩
  dsimp only
  have refused : ∀ status, Claims.answered (s.mb x.t) s ((s.take x).answer x status []) x status [] ∧
      ((s.take x).answer x status []).segs = s.segs := fun status =>
    ⟨answered_take_answer s x status [], seg?_take_answer s x status []⟩
  split
  case isTrue hslot => rw [segAllocAct_occupied s x hok hslot]; exact refused 6
  case isFalse hslot =>
    rw [segAllocAct_free s x hok hslot]
    split
    case isTrue hcore => exact refused 5
    case isFalse hcore =>
      cases hplace : s.allocPlace x.bytes true with
      | none =>
        refine ⟨fun base h => (nomatch h), fun hany _ => ?_⟩
        rw [hany]
        exact refused 5
      | some base =>
        refine ⟨fun b hb => ?_, fun _ h => nomatch h⟩
        obtain rfl := Option.some.inj hb
        have hsegs := (only_answer ((s.take x).bumpFree.setSeg x.t (x.f 0x10 1) (allocatedSeg x base)) x stOk
          ((s.take x).allocBody x.bytes base)).part .segs (by decide)
        have hseg := State.seg_congr hsegs
        obtain ⟨hown, hzero⟩ := allocPlace_apart hplace
        refine ⟨?_, fun u i hne => ?_, hown, hzero, ?_⟩
        · rw [hseg, State.seg?_setSeg_same, allocatedSeg]
        · rw [hseg, State.seg?_setSeg_ne _ _ _ _ _ _ hne]
          rfl
        · have ha := answered_after_take (s := s) (x := x) (u := (s.take x).bumpFree.setSeg x.t (x.f 0x10 1) (allocatedSeg x base)) stOk
            ((s.take x).allocBody x.bytes base) rfl
          rw [allocBody_take] at ha
          dsimp only
          rw [allocBody_take]
          exact ha

/-! ### Shared segments -/

theorem exec_segShare (x : Slip) (s : State) (h : Claims.accepted s x 4 [(0x10, 1), (0x13, 1), (0x14, 2)] = true) :
    exec (.segShare x) s = .next (segShareAct x (s.take x)) :=
  congrArg Host.Outcome.next (State.withSlip_accepted h (fun h => nomatch h))

theorem exec_segAttach (x : Slip) (s : State) (h : Claims.accepted s x 5 [(0x08, 4), (0x0C, 2), (0x10, 1)] = true) :
    exec (.segAttach x) s = .next (segAttachAct x (s.take x)) :=
  congrArg Host.Outcome.next (State.withSlip_accepted h (fun h => nomatch h))

/-- Among one more candidate than there are used keys, one is not used. -/
theorem exists_unused (used : List Nat) (c : Nat) (h : used.length < 2 ^ 32) :
    ∃ k, k ∈ (List.range (used.length + 1)).map (fun i => (c + i) % 2 ^ 32) ∧ k ∉ used := by
  by_contra hall
  simp only [not_exists, not_and, not_not] at hall
  have hnodup : ((List.range (used.length + 1)).map fun i => (c + i) % 2 ^ 32).Nodup := by
    refine List.Nodup.map_on (fun i hi j hj hij => ?_) List.nodup_range
    rw [List.mem_range] at hi hj
    have hm : (c + i) % 2 ^ 32 = (c + j) % 2 ^ 32 := hij
    omega
  have hle := (hnodup.subperm hall).length_le
  rw [List.length_map, List.length_range] at hle
  omega

/-- R301: a new key was never issued, and fits 32 bits. -/
theorem newKey_fresh (s : State) (h : s.usedKeys.length < 2 ^ 32) : s.newKey ∉ s.usedKeys ∧ s.newKey < 2 ^ 32 := by
  obtain ⟨k, hk, hn⟩ := exists_unused s.usedKeys (s.freeNat 32) h
  unfold State.newKey
  dsimp only
  have hsome : (((List.range (s.usedKeys.length + 1)).map fun i => (s.freeNat 32 + i) % 2 ^ 32).find?
      fun k => !s.usedKeys.contains k).isSome = true := by
    rw [List.find?_isSome]
    exact ⟨k, hk, by simpa using hn⟩
  obtain ⟨j, hj⟩ := Option.isSome_iff_exists.1 hsome
  rw [hj, Option.getD_some]
  obtain ⟨i, -, hi⟩ := List.mem_map.1 (List.mem_of_find?_eq_some hj)
  refine ⟨by simpa using List.find?_some hj, ?_⟩
  rw [← hi]
  exact Nat.mod_lt _ (Nat.two_pow_pos 32)

/-- R318: the owner's entry once it is shared, with its lease. -/
def State.shared (s : State) (x : Slip) (g : Seg) : State :=
  if g.kind = .priv then
    (s.setSeg x.t (x.f 0x10 1) { g with kind := .shared, lease := segLease x.t (x.f 0x10 1) }).grant (segLease x.t (x.f 0x10 1)) x.t
  else s

theorem shared_shows (s : State) (x : Slip) (g : Seg) (hg : s.seg? x.t (x.f 0x10 1) = some g) :
    Only [.segs, .leases] [] s (s.shared x g) ∧ (s.shared x g).seg? x.t (x.f 0x10 1) =
        some (if g.kind = .priv then { g with kind := .shared, lease := x.t * 16 + x.f 0x10 1 } else g) ∧
      ∀ u i, u * 16 + i ≠ x.t * 16 + x.f 0x10 1 → (s.shared x g).seg? u i = s.seg? u i := by
  unfold State.shared
  split
  case isTrue h =>
    refine ⟨?_, (State.seg?_setSeg_same ..), fun u i hne => State.seg?_setSeg_ne _ _ _ _ _ _ hne⟩
    exact only_State_grant _ _ _ (only_State_setSeg s _ _ _ (Only.refl s) (by decide)) (by decide)
  case isFalse h => exact ⟨(Only.refl s).mono (List.nil_subset _) (List.Subset.refl _), hg, fun _ _ _ => rfl⟩

/-- R301: the state in which a key has been issued. -/
def State.keyIssued (s : State) (x : Slip) (k : Nat) : State :=
  { s with keys := s.keys ++ [(⟨k, x.t, x.f 0x10 1, x.f 0x14 2, x.f 0x13 1⟩ : ShareKey)], usedKeys := k :: s.usedKeys }.bumpFree

theorem segShareAct_eq (x : Slip) (s : State) (g : Seg) (hs : x.f 0x10 1 < 16) (hr : x.f 0x13 1 < 8) (hw : x.f 0x14 2 < 1024)
    (hg : s.seg? x.t (x.f 0x10 1) = some g) : segShareAct x s =
      if g.kind = .attached then s.answer x stDenied []
      else if Nat.land (x.f 0x13 1) g.rights ≠ x.f 0x13 1 then s.answer x stMalformed []
      else ((s.shared x g).keyIssued x s.newKey).answer x stOk (leBytes 4 s.newKey) := by
  have hok : ¬ (decide (16 ≤ x.f 0x10 1) || decide (8 ≤ x.f 0x13 1) || decide (1024 ≤ x.f 0x14 2)) = true := by
    simp only [Bool.or_eq_true, decide_eq_true_eq]; omega
  rw [segShareAct, if_neg hok, hg]
  rfl

/-- R301, R318: a key that names the tenant, its owner's entry. -/
theorem segAttachAct_eq (x : Slip) (s : State) (hs : x.f 0x10 1 < 16) (hw : x.f 0xC 2 < 1024)
    (hg : s.seg? x.t (x.f 0x10 1) = none) : segAttachAct x s =
      match s.keys.find? fun k => k.key = x.f 8 4 && k.owner = x.f 0xC 2 && k.grantee = x.t with
      | none => s.answer x stNotFound []
      | some k =>
        match s.seg? k.owner k.slot with
        | none => s.answer x stNotFound []
        | some g => ({ s with keys := s.keys.filter fun y => y ≠ k }.setSeg x.t (x.f 0x10 1)
            { g with kind := .attached, rights := k.rights }).answer x stOk (leBytes 8 g.base ++ leBytes 8 g.size ++
              leBytes 4 (if g.bed then 0 else s.poisonedGranules g.base g.size) ++ leBytes 1 k.rights) := by
  have hok : ¬ (decide (16 ≤ x.f 0x10 1) || decide (1024 ≤ x.f 0xC 2)) = true := by
    simp only [Bool.or_eq_true, decide_eq_true_eq]; omega
  rw [segAttachAct, if_neg hok, hg, if_neg (by simp)] <;> rfl

/-- Settles O16: a share by the entry's kind and rights, an attachment by the key that is found. -/
theorem sharedSegmentsNeedTheirKey : Obligations.SharedSegmentsNeedTheirKey := by
  unfold Obligations.SharedSegmentsNeedTheirKey
  refine ⟨fun x s g hacc hs hr hw hg hused => ?share, fun x s hacc hs hw hg => ?attach⟩
  case share =>
    have he := exec_segShare x s hacc
    refine ⟨_, he, Only.ofExec (only_execSegShare x s) he, ?_⟩
    clear he
    rw [segShareAct_eq x _ g hs hr hw (by rw [seg?_take]; exact hg)]
    have refused : ∀ status, Claims.answered (s.mb x.t) s ((s.take x).answer x status []) x status [] ∧
        ((s.take x).answer x status []).segs = s.segs ∧ ((s.take x).answer x status []).keys = s.keys := fun status =>
      ⟨answered_take_answer s x status [], seg?_take_answer s x status [],
        (only_take_answer s x status []).part .keys (by decide)⟩
    split
    case isTrue hk => exact refused 4
    case isFalse hk =>
      split
      case isTrue hrights => exact refused 1
      case isFalse hrights =>
        obtain ⟨hfresh, hlt⟩ := newKey_fresh (s.take x) hused
        obtain ⟨hshare, hself, hother⟩ := shared_shows (s.take x) x g hg
        have hkeys := (only_take s x).part .keys (by decide)
        have hku := (only_take s x).part .usedKeys (by decide)
        generalize (s.take x).newKey = k at hfresh hlt ⊢
        have hmbox : ((s.take x).shared x g).mbox = (s.take x).mbox := hshare.part .mbox (by decide)
        have hk1 : ((s.take x).shared x g).keys = s.keys := (hshare.part .keys (by decide)).trans hkeys
        have hu1 : ((s.take x).shared x g).usedKeys = s.usedKeys := (hshare.part .usedKeys (by decide)).trans hku
        generalize (s.take x).shared x g = u at hself hother hmbox hk1 hu1 ⊢
        have ha := only_answer (u.keyIssued x k) x stOk (leBytes 4 k)
        have hseg := State.seg_congr (ha.part .segs (by decide))
        refine ⟨k, hfresh, hlt, (ha.part .usedKeys (by decide)).trans ?_, (ha.part .keys (by decide)).trans ?_,
          answered_after_take _ _ hmbox, ?_, fun a i hne => ?_⟩
        · exact congrArg _ hu1
        · exact congrArg (· ++ _) hk1
        · rw [hseg]; exact hself
        · rw [hseg]; exact hother a i hne
  case attach =>
    have he := exec_segAttach x s hacc
    refine ⟨_, he, Only.ofExec (only_execSegAttach x s) he, ?_⟩
    clear he
    rw [segAttachAct_eq x _ hs hw (by rw [seg?_take]; exact hg)]
    have hkeys : (s.take x).keys = s.keys := (only_take s x).part .keys (by decide)
    rw [hkeys, seg?_take]
    refine ⟨fun hnone => ?_, fun k g hk hkg => ?_⟩
    · have hfind : s.keys.find? (fun k => k.key = x.f 8 4 && k.owner = x.f 0xC 2 && k.grantee = x.t) = none := by
        refine List.find?_eq_none.2 fun k hk h => ?_
        simp only [Bool.and_eq_true, decide_eq_true_eq] at h
        exact hnone k hk h.1.1 h.1.2 h.2
      rw [hfind]
      exact ⟨answered_take_answer s x 8 [], seg?_take_answer s x 8 [], (only_take_answer s x 8 []).part .keys (by decide)⟩
    · rw [hk]
      dsimp only
      rw [hkg]
      dsimp only
      rw [poisonedGranules_take]
      generalize leBytes 8 g.base ++ leBytes 8 g.size ++ leBytes 4 (if g.bed then 0 else s.poisonedGranules g.base g.size) ++
        leBytes 1 k.rights = body
      have ha := only_answer ({ s.take x with keys := s.keys.filter fun y => y ≠ k }.setSeg x.t (x.f 0x10 1)
        { g with kind := .attached, rights := k.rights }) x stOk body
      have hseg := State.seg_congr (ha.part .segs (by decide))
      refine ⟨?_, fun u i hne => ?_, ha.part .keys (by decide), answered_after_take _ _ rfl⟩
      · rw [hseg, State.seg?_setSeg_same]
      · rw [hseg, State.seg?_setSeg_ne _ _ _ _ _ _ hne]
        rfl

end Sys2Proof.Machine
end

section
/-! Removal of segments and zeroing of released memory (R300, R317, R319, R320). -/

namespace Sys2Proof.Machine

/-! ### SEG_FREE -/

theorem exec_segFree (x : Slip) (s : State) (h : Claims.accepted s x 3 [(0x10, 1)] = true) :
    exec (.segFree x) s = .next (segFreeAct x (s.take x)) :=
  congrArg Host.Outcome.next (State.withSlip_accepted h (fun h => nomatch h))

/-- R317, R319: what the removal of an entry does at once. -/
def State.entryRemoved (s : State) (t slot : Nat) (g : Seg) : State :=
  match g.kind with
  | .priv => (s.clearSeg t slot).queueZero g false
  | .shared => s.removeShared t slot g false
  | .attached => s.clearSeg t slot

theorem segFreeAct_eq (x : Slip) (s : State) (hs : x.f 0x10 1 < 16) : segFreeAct x s =
    match s.seg? x.t (x.f 0x10 1) with
    | none => s.answer x stBadSlot []
    | some g =>
      if (s.hasAdmitted x.t || (decide (g.kind = .shared) && (s.grantees g.lease).any s.hasAdmitted)) = true then
        s.answer x stBusy []
      else { s.entryRemoved x.t (x.f 0x10 1) g with
        removing := (s.entryRemoved x.t (x.f 0x10 1) g).removing ++ [(x.t * 16 + x.f 0x10 1, g)] }.waitSlip x := by
  rw [segFreeAct, if_neg (by omega)]
  cases s.seg? x.t (x.f 0x10 1) with
  | none => rfl
  | some g =>
    dsimp only
    split
    · rfl
    · cases h : g.kind <;> simp only [State.entryRemoved, h]

theorem only_entryRemoved (s : State) (t slot : Nat) (g : Seg) :
    Only [.segs, .keys, .leases, .zeroing] [] s (s.entryRemoved t slot g) := by
  have hc : Only [.segs, .keys, .leases, .zeroing] [] s (s.clearSeg t slot) := only_State_clearSeg s t slot (Only.refl s) (by decide)
  unfold State.entryRemoved
  split
  · exact only_State_queueZero _ g false hc (by decide)
  · exact only_State_removeShared s t slot g false (Only.refl s) (by decide)
  · exact hc

theorem entryRemoved_zeroing (s : State) (t slot : Nat) (g : Seg) : (s.entryRemoved t slot g).zeroing =
    if g.kind = .attached then s.zeroing else s.zeroing ++ [⟨g.base, g.size, false⟩] := by
  unfold State.entryRemoved
  cases g.kind <;> rfl

theorem entryRemoved_self (s : State) (t slot : Nat) (g : Seg) : (s.entryRemoved t slot g).seg? t slot = none := by
  have hc : (s.clearSeg t slot).seg? t slot = none := by rw [State.seg?_clearSeg, if_pos rfl]
  unfold State.entryRemoved
  cases g.kind with
  | priv => exact hc
  | attached => exact hc
  | shared =>
    refine congrArg (Option.map _) (List.find?_eq_none.2 fun e he h => ?_)
    have hf := (List.mem_filter.1 he).2
    simp [of_decide_eq_true h] at hf

theorem entryRemoved_other (s : State) (t slot : Nat) (g : Seg) (hk : g.kind ≠ .shared) (u i : Nat)
    (h : u * 16 + i ≠ t * 16 + slot) : (s.entryRemoved t slot g).seg? u i = s.seg? u i := by
  have hc : (s.clearSeg t slot).seg? u i = s.seg? u i := by rw [State.seg?_clearSeg, if_neg h]
  unfold State.entryRemoved
  cases hg : g.kind with
  | priv => exact hc
  | attached => exact hc
  | shared => exact absurd hg hk

/-- R319: with a shared segment go the entries attached under its lease, and its keys. -/
theorem entryRemoved_shared (s : State) (t slot : Nat) (g : Seg) (hk : g.kind = .shared) :
    (∀ e, e ∈ (s.entryRemoved t slot g).segs → ¬ (e.2.kind = .attached ∧ e.2.lease = g.lease)) ∧
      ∀ k, k ∈ (s.entryRemoved t slot g).keys → ¬ (k.owner = t ∧ k.slot = slot) := by
  unfold State.entryRemoved
  rw [hk]
  refine ⟨fun e he h => ?_, fun k hk h => ?_⟩
  · have hf := (List.mem_filter.1 he).2
    simp [h.1, h.2] at hf
  · have hf := (List.mem_filter.1 hk).2
    simp [h.1, h.2] at hf

theorem hasAdmitted_of_idle (s : State) (h : s.lists = []) (t : Nat) : s.hasAdmitted t = false := by
  rw [State.hasAdmitted, h]; rfl

theorem cqTail_waitSlip (s : State) (x : Slip) (u : Nat) : ((s.waitSlip x).mb u).cqTail = (s.mb u).cqTail := by
  unfold State.waitSlip
  dsimp only
  rw [State.mb_setMb]
  split
  · next h => rw [h]
  · rfl

theorem segFree_removes (x : Slip) (s : State) (g : Seg) (hacc : Claims.accepted s x 3 [(0x10, 1)] = true)
    (hs : x.f 0x10 1 < 16) (hg : s.seg? x.t (x.f 0x10 1) = some g) (hl : s.lists = []) :
    ∃ t, exec (.segFree x) s = .next t ∧ Only [.mbox, .segs, .removing, .keys, .leases, .zeroing, .progress, .watchdogs] [] s t ∧
       t.seg? x.t (x.f 0x10 1) = none ∧ t.removing = s.removing ++ [(x.t * 16 + x.f 0x10 1, g)] ∧
       (t.mb x.t).cqTail = (s.mb x.t).cqTail ∧
       t.zeroing = (if g.kind = .attached then s.zeroing else s.zeroing ++ [⟨g.base, g.size, false⟩]) ∧
       (g.kind ≠ .shared → ∀ u i, u * 16 + i ≠ x.t * 16 + x.f 0x10 1 → t.seg? u i = s.seg? u i) ∧
       (g.kind = .shared → (∀ e, e ∈ t.segs → ¬ (e.2.kind = .attached ∧ e.2.lease = g.lease)) ∧
         ∀ k, k ∈ t.keys → ¬ (k.owner = x.t ∧ k.slot = x.f 0x10 1)) := by
  have he := exec_segFree x s hacc
  have htake := only_take s x
  have hidle := hasAdmitted_of_idle (s.take x) ((htake.part .lists (by decide)).trans hl)
  have htail : ((s.take x).mb x.t).cqTail = (s.mb x.t).cqTail := by rw [s.mb_take_same]; rfl
  rw [segFreeAct_eq x _ hs, seg?_take, hg] at he
  dsimp only at he
  rw [if_neg (by simp [hidle])] at he
  refine ⟨_, he, Only.ofExec (only_execSegFree x s) he, ?_⟩
  clear he
  have hself := entryRemoved_self (s.take x) x.t (x.f 0x10 1) g
  have hother := entryRemoved_other (s.take x) x.t (x.f 0x10 1) g
  have hshared := entryRemoved_shared (s.take x) x.t (x.f 0x10 1) g
  have hzero := entryRemoved_zeroing (s.take x) x.t (x.f 0x10 1) g
  have hr := only_entryRemoved (s.take x) x.t (x.f 0x10 1) g
  generalize (s.take x).entryRemoved x.t (x.f 0x10 1) g = u at hself hother hshared hzero hr
  have hw := only_State_waitSlip (Ps := [.mbox]) (Ks := []) { u with removing := u.removing ++ [(x.t * 16 + x.f 0x10 1, g)] } x
    (Only.refl _) (by decide)
  have hmb : u.mb = (s.take x).mb := State.mb_congr (hr.part .mbox (by decide))
  have hrem : u.removing = s.removing := (hr.part .removing (by decide)).trans (htake.part .removing (by decide))
  refine ⟨?_, (hw.part .removing (by decide)).trans (congrArg (· ++ _) hrem), ?_, ?_, fun hk a i hne => ?_, fun hk => ⟨fun e he => ?_, fun k hk' => ?_⟩⟩
  · rw [State.seg_congr (hw.part .segs (by decide))]; exact hself
  · rw [cqTail_waitSlip, ← htail, ← hmb]; rfl
  · rw [hw.part .zeroing (by decide)]
    exact hzero.trans (by rw [htake.part .zeroing (by decide)])
  · rw [State.seg_congr (hw.part .segs (by decide))]
    exact hother hk a i hne
  · rw [hw.part .segs (by decide)] at he
    exact (hshared hk).1 e he
  · rw [hw.part .keys (by decide)] at hk'
    exact (hshared hk).2 k hk'

theorem segFree_refused (x : Slip) (s : State) (hacc : Claims.accepted s x 3 [(0x10, 1)] = true) (hs : x.f 0x10 1 < 16) :
    (s.seg? x.t (x.f 0x10 1) = none → ∃ t, exec (.segFree x) s = .next t ∧ Only [.mbox, .progress, .watchdogs] [] s t ∧
       Claims.answered (s.mb x.t) s t x 6 []) ∧
     ((s.seg? x.t (x.f 0x10 1)).isSome = true → s.hasAdmitted x.t = true → ∃ t, exec (.segFree x) s = .next t ∧
       Only [.mbox, .progress, .watchdogs] [] s t ∧ Claims.answered (s.mb x.t) s t x 7 []) := by
  have he := exec_segFree x s hacc
  rw [segFreeAct_eq x _ hs, seg?_take] at he
  refine ⟨fun hnone => ?_, fun hsome hadm => ?_⟩
  · rw [hnone] at he
    exact ⟨_, he, only_take_answer s x 6 [], answered_take_answer s x 6 []⟩
  · obtain ⟨g, hg⟩ := Option.isSome_iff_exists.1 hsome
    have hadm' : (s.take x).hasAdmitted x.t = true := hadm
    rw [hg] at he
    dsimp only at he
    rw [if_pos (by simp [hadm'])] at he
    exact ⟨_, he, only_take_answer s x 7 [], answered_take_answer s x 7 []⟩

/-! ### SEGMENT_REMOVAL -/

/-- R317: the state in which a removal is complete. -/
def State.removalEnded (s : State) (t slot : Nat) (g : Seg) : State :=
  { s with removing := s.removing.filter fun e => e.1 ≠ t * 16 + slot,
           zeroing := s.zeroing.map fun (z : ZeroRange) =>
             if g.kind ≠ SegKind.attached && z.base = g.base && z.size = g.size then { z with removalDone := true } else z }

theorem segmentRemoval_eq (t slot : Nat) (s : State) (g : Seg) (h : s.removalWaits t slot = some g) : segmentRemoval t slot s =
    match ((s.removalEnded t slot g).mb t).live.find? fun l => l.opcode = 0x03 && fieldAt l.bytes 0x10 1 = slot && !l.bytes.isEmpty with
    | some l => (s.removalEnded t slot g).complete t 0x03 l.tag stOk []
    | none => s.removalEnded t slot g := by
  rw [segmentRemoval, h]
  rfl

theorem segmentRemoval_keeps (t slot : Nat) (s : State) (g : Seg) (h : s.removalWaits t slot = some g) :
    Only [.mbox, .progress, .watchdogs] [] (s.removalEnded t slot g) (segmentRemoval t slot s) := by
  rw [segmentRemoval_eq t slot s g h]
  split
  · exact only_State_complete _ _ _ _ _ _ (Only.refl _) (by decide)
  · exact (Only.refl _).mono (List.nil_subset _) (List.Subset.refl _)

/-- R320: the ranges of a removed segment are ready to be zeroed. -/
theorem removalEnded_done (s : State) (t slot : Nat) (g : Seg) (hk : g.kind ≠ .attached) (z : ZeroRange)
    (hz : z ∈ (s.removalEnded t slot g).zeroing) (hb : z.base = g.base) (hn : z.size = g.size) : z.removalDone = true := by
  obtain ⟨y, -, hy⟩ := List.mem_map.1 hz
  split at hy
  · rw [← hy]
  · next h =>
    subst hy
    simp [hk, hb, hn] at h

/-- R290 to R292: completing a live slip. -/
theorem mb_complete (s : State) (t op tag status : Nat) (body : List Byte) (l : LiveSlip)
    (hl : (s.mb t).live.find? (fun l => l.opcode = op && l.tag = tag) = some l) :
    ((s.complete t op tag status body).mb t).live = dropFirst (fun l => l.opcode = op && l.tag = tag) (s.mb t).live ∧
      ((s.complete t op tag status body).mb t).cqTail = ((s.mb t).cqTail + 1) % 2 ^ 32 ∧
      ((s.complete t op tag status body).mb t).cq =
        wrBytes (s.mb t).cq ((s.mb t).cqTail % 32 * 64) (Claims.completion (s.mb t) op tag status body) := by
  have hm : (s.complete t op tag status body).mb t =
      (let m2 := { s.mb t with live := dropFirst (fun l => l.opcode = op && l.tag = tag) (s.mb t).live }.writeSlip op status tag body
       if l.quiet then m2 else m2.askVector) := by
    unfold State.complete
    dsimp only
    rw [hl]
    show (State.setMb s t _).mb t = _
    rw [State.mb_setMb, if_pos rfl]
  rw [hm]
  cases l.quiet with
  | true => exact ⟨rfl, rfl, rfl⟩
  | false =>
    simp only [Mailbox.askVector_eq, Mailbox.writeSlip_eq]
    exact ⟨rfl, rfl, rfl⟩

/-! ### Zeroing -/

theorem exec_zeroing (s : State) (z : ZeroRange) (ha : s.alive = true)
    (hz : s.zeroing.find? (fun z => z.removalDone && !s.bankBusyIn z.base z.size) = some z) :
    exec .zeroing s = .next ({ s with zeroing := s.zeroing.filter fun y => y ≠ z }.zeroMem z.base z.size).retryAllocs := by
  refine (congrArg Host.Outcome.next (if_pos ha)).trans (congrArg Host.Outcome.next ?_)
  rw [zeroingStep, hz]

theorem look_mem_or {α : Type} (d : Nat → α) (m : List (Nat × α)) (k : Nat) : look d m k = d k ∨ (k, look d m k) ∈ m := by
  induction m with
  | nil => exact Or.inl rfl
  | cons c m ih =>
    obtain ⟨k', v'⟩ := c
    unfold look
    split
    · next h => exact Or.inr (h ▸ List.mem_cons_self ..)
    · exact ih.imp_right (List.mem_cons_of_mem _)

/-- R320: while no SEG_ALLOC waits, no place is looked for. -/
theorem retryAllocs_idle (s : State) (h : ∀ m, m ∈ s.mbox → ∀ l, l ∈ m.2.live → l.opcode = 2 → l.bytes = []) :
    s.retryAllocs = s := by
  have hnone : ∀ t, (s.mb t).live.find? (fun l => l.opcode = 0x02 && !l.bytes.isEmpty) = none := fun t => by
    refine List.find?_eq_none.2 fun l hl hp => ?_
    simp only [Bool.and_eq_true, decide_eq_true_eq] at hp
    rcases look_mem_or (fun _ => {}) s.mbox t with hd | hm
    · rw [State.mb, hd] at hl
      exact absurd hl List.not_mem_nil
    · rw [h _ hm l hl hp.1] at hp
      exact absurd hp.2 (by decide)
  unfold State.retryAllocs
  refine foldl_keeps (fun u => u = s) _ _ s rfl fun u x _ hu => ?_
  rw [hu, hnone]

/-- Settles O17: a free by the entry and its tenant's lists, the end of a removal, and the zeroing of one range. -/
theorem freedSegmentsAreRemovedAndZeroed : Obligations.FreedSegmentsAreRemovedAndZeroed := by
  unfold Obligations.FreedSegmentsAreRemovedAndZeroed
  refine ⟨⟨segFree_removes, segFree_refused, fun tenant slot g s hw => ?removal⟩, fun s z ha hz => ?zero⟩
  case removal =>
    have he : exec (.segmentRemoval tenant slot) s = .next (segmentRemoval tenant.toNat slot.val s) := rfl
    refine ⟨_, he, Only.ofExec (only_execSegmentRemoval tenant slot s) he, ?_⟩
    have hk := segmentRemoval_keeps tenant.toNat slot.val s g hw
    have hdone := removalEnded_done s tenant.toNat slot.val g
    refine ⟨hk.part .removing (by decide), fun hkind z hz hb hn => ?_, fun l hl hop hslot hne => ?_⟩
    · rw [hk.part .zeroing (by decide)] at hz
      exact hdone hkind z hz hb hn
    · have hlive : ((s.removalEnded tenant.toNat slot.val g).mb tenant.toNat).live = [l] := hl
      rw [segmentRemoval_eq _ _ s g hw, hlive, List.find?_cons_of_pos (by simp [hop, hslot, hne])]
      have hfind : ((s.removalEnded tenant.toNat slot.val g).mb tenant.toNat).live.find?
          (fun y => y.opcode = 3 && y.tag = l.tag) = some l := by
        rw [hlive, List.find?_cons_of_pos (by simp [hop])]
      obtain ⟨hdrop, htail, hcq⟩ := mb_complete _ _ 3 l.tag stOk [] l hfind
      refine ⟨?_, htail, ?_⟩
      · rw [hdrop, hlive]; simp [dropFirst, hop]
      · rw [hcq]; exact rdBytes_wrBytes_completion _ _ _ _ _ _ _
  case zero =>
    have he := exec_zeroing s z ha hz
    have honly := Only.ofExec (only_execZeroing s) he
    refine ⟨_, he, honly, ?_⟩
    have hk := only_State_retryAllocs (Ps := [.freeCtr, .mbox, .segs, .progress, .watchdogs]) (Ks := [])
      ({ s with zeroing := s.zeroing.filter fun y => y ≠ z }.zeroMem z.base z.size) (Only.refl _) (List.Subset.refl _)
    have hidle := retryAllocs_idle ({ s with zeroing := s.zeroing.filter fun y => y ≠ z }.zeroMem z.base z.size)
    refine ⟨hk.part .zeroing (by decide), fun a => ?_, fun h => ?_⟩
    · rw [hk.part .mem (by decide)]
      exact rdB_zeroRange s.mem z.base z.size a
    · rw [hidle h]
      exact ⟨rfl, rfl, rfl⟩

end Sys2Proof.Machine
end

section
/-! SUBMIT and CANCEL (R295, R302, R303). -/

namespace Sys2Proof.Machine

/-! ### SUBMIT -/

theorem exec_submit (x : Slip) (s : State) (h : Claims.accepted s x 6 [(0x08, 8), (0x10, 1)] = true) :
    exec (.submit x) s = .next (submitAct x (s.take x)) :=
  congrArg Host.Outcome.next (State.withSlip_accepted h (fun h => nomatch h))

theorem opcode_of_accepted {s : State} {x : Slip} {op : Nat} {fields : List (Nat × Nat)}
    (h : Claims.accepted s x op fields = true) : x.opcode = op := by
  simp only [Claims.accepted, Claims.taken, Bool.and_eq_true, decide_eq_true_eq] at h
  exact h.1.1.2

/-- R295: a tag is in use when another live SUBMIT or TRANSFER bears it. -/
theorem tagTaken_take (s : State) (x : Slip) (hx : x.opcode = 6 ∨ x.opcode = 8) : (s.take x).tagTaken x = true ↔
    ∃ l, l ∈ (s.mb x.t).live ∧ (l.opcode = 6 ∨ l.opcode = 8) ∧ l.tag = x.tag := by
  have hnew : (decide (x.opcode = 0x06) || decide (x.opcode = 0x08)) = true := by simpa using hx
  rw [State.tagTaken, s.mb_take_same, Mailbox.taking]
  dsimp only
  rw [List.filter_append, List.length_append, List.filter_cons_of_pos (by simp [hnew]), List.filter_nil]
  simp only [List.length_cons, List.length_nil, decide_eq_true_eq, Nat.zero_add, Nat.lt_add_left_iff_pos,
    List.length_pos_iff_exists_mem, List.mem_filter, Bool.and_eq_true, Bool.or_eq_true]

/-- The list of a SUBMIT. -/
def submitted (x : Slip) (s : State) : WorkList :=
  { id := s.nextList, tenant := x.t, tag := x.tag, quiet := x.quiet, priority := x.f 0x10 1, ref := x.f 8 8,
    submitted := s.now, waitingSince := s.now }

theorem submitAct_refused (x : Slip) (s : State) (h : s.tagTaken x = true ∨ refOk (x.f 8 8) = false ∨
    refSpace (x.f 8 8) ≠ 1 ∨ refOff (x.f 8 8) % 32 ≠ 0 ∨ 8 ≤ x.f 0x10 1) : submitAct x s = s.answer x stMalformed [] := by
  unfold submitAct
  dsimp only
  split
  · rfl
  · next ht =>
    refine if_pos ?_
    simp only [Bool.or_eq_true, Bool.not_eq_true', Bool.and_eq_false_iff, decide_eq_false_iff_not, decide_eq_true_eq]
    tauto

theorem submitAct_taken (x : Slip) (s : State) (ht : ¬ s.tagTaken x = true) (h : ¬ (refOk (x.f 8 8) = false ∨
    refSpace (x.f 8 8) ≠ 1 ∨ refOff (x.f 8 8) % 32 ≠ 0 ∨ 8 ≤ x.f 0x10 1)) :
    submitAct x s = { s with lists := s.lists ++ [submitted x s], nextList := s.nextList + 1 } := by
  unfold submitAct
  dsimp only
  rw [if_neg ht]
  refine if_neg ?_
  simp only [Bool.or_eq_true, Bool.not_eq_true', Bool.and_eq_false_iff, decide_eq_false_iff_not, decide_eq_true_eq]
  tauto

theorem submit_queues (x : Slip) (s : State) (hacc : Claims.accepted s x 6 [(0x08, 8), (0x10, 1)] = true) :
    ∃ t, exec (.submit x) s = .next t ∧ Only [.mbox, .lists, .nextList, .progress, .watchdogs] [] s t ∧
      if (∃ l, l ∈ (s.mb x.t).live ∧ (l.opcode = 6 ∨ l.opcode = 8) ∧ l.tag = x.tag) ∨ refOk (x.f 8 8) = false ∨
          refSpace (x.f 8 8) ≠ 1 ∨ refOff (x.f 8 8) % 32 ≠ 0 ∨ 8 ≤ x.f 0x10 1 then
        Claims.answered (s.mb x.t) s t x 1 [] ∧ t.lists = s.lists ∧ t.nextList = s.nextList
      else
        t.lists = s.lists ++ [{ id := s.nextList, tenant := x.t, tag := x.tag, quiet := x.quiet, priority := x.f 0x10 1,
                                ref := x.f 8 8, submitted := s.now, waitingSince := s.now }] ∧
        t.nextList = s.nextList + 1 ∧ (t.mb x.t).cqTail = (s.mb x.t).cqTail ∧
        (t.mb x.t).live = (s.mb x.t).live ++ [{ opcode := 6, tag := x.tag, quiet := x.quiet }] := by
  have hop := opcode_of_accepted hacc
  have htag := tagTaken_take s x (Or.inl hop)
  have he := exec_submit x s hacc
  refine ⟨_, he, Only.ofExec (only_execSubmit x s) he, ?_⟩
  clear he
  split
  case isTrue h =>
    rw [submitAct_refused x _ (h.imp_left htag.2)]
    have hk := only_take_answer s x 1 []
    exact ⟨answered_take_answer s x 1 [], hk.part .lists (by decide), hk.part .nextList (by decide)⟩
  case isFalse h =>
    rw [submitAct_taken x _ (fun ht => h (Or.inl (htag.1 ht))) (fun hr => h (Or.inr hr))]
    have hmb : ((s.take x).mb x.t).cqTail = (s.mb x.t).cqTail ∧
        ((s.take x).mb x.t).live = (s.mb x.t).live ++ [{ opcode := 6, tag := x.tag, quiet := x.quiet }] := by
      rw [s.mb_take_same, Mailbox.taking, hop]
      exact ⟨rfl, rfl⟩
    exact ⟨rfl, rfl, hmb.1, hmb.2⟩

/-! ### CANCEL -/

theorem exec_cancel (x : Slip) (s : State) (h : Claims.accepted s x 7 [(0x08, 4)] = true) :
    exec (.cancel x) s = .next (cancelAct x (s.take x)) :=
  congrArg Host.Outcome.next (State.withSlip_accepted h (fun h => nomatch h))

theorem cancelAct_notFound (x : Slip) (s : State) (hl : ∀ l, l ∈ s.lists → ¬ (l.tenant = x.t ∧ l.tag = x.f 8 4))
    (hy : ∀ y, y ∈ s.xfers → ¬ (y.tenant = x.t ∧ y.tag = x.f 8 4)) : cancelAct x s = s.answer x stNotFound [] := by
  have h1 : s.lists.find? (fun l => l.tenant = x.t && l.tag = x.f 8 4) = none :=
    List.find?_eq_none.2 fun l h hp => hl l h (by simpa using hp)
  have h2 : s.xfer? x.t (x.f 8 4) = none := List.find?_eq_none.2 fun y h hp => hy y h (by simpa using hp)
  rw [cancelAct, h1]
  dsimp only
  rw [h2]

/-- R303: a list that waits for its CANCEL. -/
def cancelledList (x : Slip) (l : WorkList) : WorkList :=
  { l with cancelTags := l.cancelTags ++ [(x.tag, x.quiet)], stopStatus := some osCancelled, ops := [] }

/-- R302: a list has left, and its tower is governed without it. -/
def State.listGone (s : State) (l : WorkList) : State :=
  let rest := { s with lists := s.lists.filter fun x => x.id ≠ l.id }
  let th := rest.therm l.home
  (if (rest.listsOn l.home).isEmpty then rest.setTherm l.home { th with noListSince := s.now } else rest).govern l.home

theorem only_listGone (s : State) (l : WorkList) : Only [.lists, .thermal] [.vgov] s (s.listGone l) := by
  have hl : Only [.lists, .thermal] [.vgov] s { s with lists := s.lists.filter fun x => x.id ≠ l.id } :=
    Only.upd_lists (Only.refl s) (by decide)
  unfold State.listGone
  dsimp only
  refine only_State_govern _ _ ?_ (by decide)
  split
  · exact only_State_setTherm _ _ _ hl (by decide)
  · exact hl

theorem lists_listGone (s : State) (l : WorkList) : (s.listGone l).lists = s.lists.filter fun x => x.id ≠ l.id := by
  unfold State.listGone
  dsimp only
  have hg := fun u : State => (only_State_govern (Ps := []) (Ks := [.vgov]) u l.home (Only.refl u) (by decide)).part .lists (by decide)
  refine (hg _).trans ?_
  split <;> rfl

theorem completeList_cancelled (s : State) (l : WorkList) (hs : l.stopStatus = some osCancelled) : s.completeList l =
    l.cancelTags.foldl (fun s c => s.complete l.tenant 0x07 c.1 stOk (leBytes 1 0))
      ((s.listGone l).complete l.tenant 0x06 l.tag stCancelled (submitBody (s.listGone l) l osCancelled 0)) := by
  rw [State.completeList, hs]
  dsimp only
  rw [if_neg (by decide)]
  rfl

theorem cancelAct_waiting (x : Slip) (s : State) (l : WorkList)
    (hl : s.lists.find? (fun y => y.tenant = x.t && y.tag = x.f 8 4) = some l) (hw : l.state = .waiting) :
    cancelAct x s = (s.setList { l with cancelTags := l.cancelTags ++ [(x.tag, x.quiet)] }).completeList (cancelledList x l) := by
  rw [cancelAct, hl]
  dsimp only
  rw [State.stopList]
  dsimp only
  rw [hw]
  rfl

/-- A list that is replaced and then leaves. -/
theorem filter_setList (ls : List WorkList) (l : WorkList) (k : WorkList) (hk : k.id = l.id) :
    (ls.map fun y => if y.id = k.id then k else y).filter (fun y => y.id ≠ l.id) = ls.filter fun y => y.id ≠ l.id := by
  induction ls with
  | nil => rfl
  | cons y ys ih =>
    rw [List.map_cons]
    by_cases h : y.id = l.id
    · rw [if_pos (h.trans hk.symm), List.filter_cons_of_neg (by simp [hk]), List.filter_cons_of_neg (by simp [h]), ih]
    · rw [if_neg (by rw [hk]; exact h), List.filter_cons_of_pos (by simp [h]), List.filter_cons_of_pos (by simp [h]), ih]

/-- A record that a later write of another ring slot leaves. -/
theorem rdBytes_wrBytes_apart (m : Memory) (a b n : Nat) (bs : List Byte) (h : b + n ≤ a ∨ a + bs.length ≤ b) :
    rdBytes (wrBytes m a bs) b n = rdBytes m b n := by
  refine List.map_congr_left fun i hi => ?_
  rw [List.mem_range] at hi
  exact rdB_wrBytes_outside bs m a (b + i) (by omega)

/-- R302, R303: what the end of a cancelled list that waited leaves in its mailbox. -/
theorem mb_cancelled (u : State) (t stag ctag : Nat) (sq cq : Bool) (body : List Byte)
    (hl : (u.mb t).live = [{ opcode := 6, tag := stag, quiet := sq }, { opcode := 7, tag := ctag, quiet := cq }]) :
    let m := u.mb t
    let v := (u.complete t 6 stag stCancelled body).complete t 7 ctag stOk (leBytes 1 0)
    (v.mb t).live = [] ∧ (v.mb t).cqTail = ((m.cqTail + 1) % 2 ^ 32 + 1) % 2 ^ 32 ∧
      rdBytes (v.mb t).cq (m.cqTail % 32 * 64) 64 = Claims.completion m 6 stag 0xA body ∧
      rdBytes (v.mb t).cq ((m.cqTail + 1) % 2 ^ 32 % 32 * 64) 64 =
        Claims.completion { m with cqTail := (m.cqTail + 1) % 2 ^ 32 } 7 ctag 0 (leBytes 1 0) := by
  dsimp only
  obtain ⟨hlive, htail, hcq⟩ := mb_complete u t 6 stag stCancelled body { opcode := 6, tag := stag, quiet := sq }
    (by rw [hl, List.find?_cons_of_pos (by simp)])
  have hlive1 : ((u.complete t 6 stag stCancelled body).mb t).live = [{ opcode := 7, tag := ctag, quiet := cq }] := by
    rw [hlive, hl]; simp [dropFirst]
  generalize u.complete t 6 stag stCancelled body = w at hlive1 htail hcq
  obtain ⟨hlive2, htail2, hcq2⟩ := mb_complete w t 7 ctag stOk (leBytes 1 0) { opcode := 7, tag := ctag, quiet := cq }
    (by rw [hlive1, List.find?_cons_of_pos (by simp)])
  generalize w.complete t 7 ctag stOk (leBytes 1 0) = v at hlive2 htail2 hcq2
  refine ⟨by rw [hlive2, hlive1]; simp [dropFirst], by rw [htail2, htail], ?_, ?_⟩
  · rw [hcq2, rdBytes_wrBytes_apart _ _ _ _ _ (by rw [length_completion, htail]; omega), hcq, rdBytes_wrBytes_completion]
    rfl
  · have hc : Claims.completion (w.mb t) 7 ctag stOk (leBytes 1 0) =
        Claims.completion { u.mb t with cqTail := (u.mb t).cqTail + 1 |>.mod (2 ^ 32) } 7 ctag 0 (leBytes 1 0) := by
      rw [Claims.completion, Claims.completion, htail]; rfl
    rw [hcq2, ← htail, rdBytes_wrBytes_completion, hc, htail]
    rfl

theorem cancel_ends (x : Slip) (l : WorkList) (s : State) (hacc : Claims.accepted s x 7 [(0x08, 4)] = true)
    (hl : s.lists.find? (fun y => y.tenant = x.t && y.tag = x.f 8 4) = some l) (hw : l.state = .waiting) (hc : l.cancelTags = [])
    (hlive : (s.mb x.t).live = [{ opcode := 6, tag := l.tag, quiet := l.quiet }]) :
    ∃ t, exec (.cancel x) s = .next t ∧
      Only [.cores, .thermal, .mbox, .leases, .engines, .xfers, .lists, .progress, .watchdogs] [.vgov] s t ∧
      t.lists = s.lists.filter (fun y => y.id ≠ l.id) ∧ (t.mb x.t).live = [] ∧
      (t.mb x.t).cqTail = (((s.mb x.t).cqTail + 1) % 2 ^ 32 + 1) % 2 ^ 32 ∧
      rdBytes (t.mb x.t).cq ((s.mb x.t).cqTail % 32 * 64) 64 = Claims.completion (s.mb x.t) 6 l.tag 0xA
        (leBytes 1 0xB ++ List.replicate 3 0 ++ leBytes 4 0 ++ leBytes 8 l.admitted ++ leBytes 8 s.tb.count) ∧
      rdBytes (t.mb x.t).cq (((s.mb x.t).cqTail + 1) % 2 ^ 32 % 32 * 64) 64 =
        Claims.completion { s.mb x.t with cqTail := ((s.mb x.t).cqTail + 1) % 2 ^ 32 } 7 x.tag 0 (leBytes 1 0) := by
  have he := exec_cancel x s hacc
  have hop := opcode_of_accepted hacc
  have hten : l.tenant = x.t := by
    have hp := List.find?_some hl
    simp only [Bool.and_eq_true, decide_eq_true_eq] at hp
    exact hp.1
  rw [cancelAct_waiting x (s.take x) l hl hw, completeList_cancelled _ _ rfl] at he
  refine ⟨_, he, Only.ofExec (only_execCancel x s) he, ?_⟩
  clear he
  have hlists : ((s.take x).setList { l with cancelTags := l.cancelTags ++ [(x.tag, x.quiet)] }).lists =
    s.lists.map fun y => if y.id = l.id then { l with cancelTags := l.cancelTags ++ [(x.tag, x.quiet)] } else y := rfl
  have hset := only_State_setList (Ps := [.lists]) (Ks := []) (s.take x) { l with cancelTags := l.cancelTags ++ [(x.tag, x.quiet)] }
    (Only.refl _) (by decide)
  generalize (s.take x).setList { l with cancelTags := l.cancelTags ++ [(x.tag, x.quiet)] } = b at hlists hset ⊢
  have hgone := only_listGone b (cancelledList x l)
  have hgl := lists_listGone b (cancelledList x l)
  generalize b.listGone (cancelledList x l) = u at hgone hgl ⊢
  have hmb : u.mb x.t = (s.mb x.t).taking x := by
    rw [State.mb_congr (hgone.part .mbox (by decide)), State.mb_congr (hset.part .mbox (by decide)), s.mb_take_same]
  have htb : u.tb = s.tb := (hgone.part .tb (by decide)).trans (hset.part .tb (by decide))
  have hul : (u.mb x.t).live = [{ opcode := 6, tag := l.tag, quiet := l.quiet }, { opcode := 7, tag := x.tag, quiet := x.quiet }] := by
    rw [hmb, Mailbox.taking, hlive, hop]; rfl
  have hbody : submitBody u (cancelledList x l) osCancelled 0 =
      leBytes 1 0xB ++ List.replicate 3 0 ++ leBytes 4 0 ++ leBytes 8 l.admitted ++ leBytes 8 s.tb.count := by
    rw [submitBody, htb]; rfl
  have hlist : u.lists = s.lists.filter fun y => y.id ≠ l.id := by
    rw [hgl, hlists]
    exact filter_setList s.lists l { l with cancelTags := l.cancelTags ++ [(x.tag, x.quiet)] } rfl
  rw [hbody, show (cancelledList x l).cancelTags = [(x.tag, x.quiet)] by rw [cancelledList, hc]; rfl,
    show (cancelledList x l).tenant = x.t from hten, List.foldl_cons, List.foldl_nil]
  obtain ⟨h1, h2, h3, h4⟩ := mb_cancelled u x.t l.tag x.tag l.quiet x.quiet
    (leBytes 1 0xB ++ List.replicate 3 0 ++ leBytes 4 0 ++ leBytes 8 l.admitted ++ leBytes 8 s.tb.count) hul
  have hk := only_State_complete (Ps := [.mbox, .progress, .watchdogs]) (Ks := []) _ x.t 7 x.tag stOk (leBytes 1 0)
    (only_State_complete u x.t 6 l.tag stCancelled (leBytes 1 0xB ++ List.replicate 3 0 ++ leBytes 4 0 ++ leBytes 8 l.admitted ++
      leBytes 8 s.tb.count) (Only.refl u) (by decide)) (by decide)
  rw [hmb] at h2 h3 h4
  exact ⟨(hk.part .lists (by decide)).trans hlist, h1, h2, h3, h4⟩

/-- Settles O18: a SUBMIT by its tag and reference, a CANCEL by the list that its tag names. -/
theorem submitQueuesAndCancelStops : Obligations.SubmitQueuesAndCancelStops := by
  unfold Obligations.SubmitQueuesAndCancelStops
  refine ⟨submit_queues, fun x s hacc hl hy => ?_, cancel_ends⟩
  have he := exec_cancel x s hacc
  rw [cancelAct_notFound x (s.take x) hl hy] at he
  exact ⟨_, he, only_take_answer s x 8 [], answered_take_answer s x 8 []⟩

end Sys2Proof.Machine
end

section
/-! TRANSFER (R304, R321): the jobs that cover its granules. -/

namespace Sys2Proof.Machine

/-! ### Placing a job -/

/-- The lease is held by a tenant. -/
def State.leasedTo (s : State) (n t : Nat) : Prop := (s.leaseAt n).held = true ∧ (s.leaseAt n).owner = t

/-- The job covers a run of granules for a tenant's transfer, and the tenant holds its lease. -/
def State.runs (s : State) (t tag e first count : Nat) : Prop :=
  ∃ j, j ∈ (s.engine e).jobs ∧ j.tenant = t ∧ j.tag = tag ∧ j.firstGranule = first ∧ j.granules = count ∧
    s.leasedTo (jobLease e j.entry) t

/-- What placing one more job for a tenant never takes away. -/
structure State.Extends (s u : State) (t : Nat) : Prop where
  jobs : ∀ e j, j ∈ (s.engine e).jobs → j ∈ (u.engine e).jobs
  held : ∀ n, s.leasedTo n t → u.leasedTo n t

theorem State.Extends.refl (s : State) (t : Nat) : s.Extends s t := ⟨fun _ _ h => h, fun _ h => h⟩

theorem State.Extends.trans {s u v : State} {t : Nat} (h : s.Extends u t) (k : u.Extends v t) : s.Extends v t :=
  ⟨fun e j hj => k.jobs e j (h.jobs e j hj), fun n hn => k.held n (h.held n hn)⟩

theorem State.Extends.runs {s u : State} {t tag e first count : Nat} (h : s.Extends u t) (hr : s.runs t tag e first count) :
    u.runs t tag e first count := by
  obtain ⟨j, hj, h1, h2, h3, h4, hl⟩ := hr
  exact ⟨j, h.jobs e j hj, h1, h2, h3, h4, h.held _ hl⟩

theorem State.leasedTo_grant (s : State) (n m t : Nat) : (s.grant n t).leasedTo m t ↔ m = n ∨ s.leasedTo m t := by
  unfold State.leasedTo
  rw [State.grant, State.leaseAt_setLease]
  split
  · next h => simp [h]
  · next h => simp [h]

theorem State.placeJob_eq {s : State} {e q : Nat} (t tag first count : Nat) (h : s.freeEntry e = some q) :
    s.placeJob t tag e first count =
      (s.setEngine e { s.engine e with jobs := (s.engine e).jobs ++ [⟨q, t, tag, first, count, 0⟩] }).grant (jobLease e q) t := by
  rw [State.placeJob, h]

theorem engine_placeJob {s : State} {e q : Nat} (t tag first count d : Nat) (h : s.freeEntry e = some q) :
    ((s.placeJob t tag e first count).engine d).jobs =
      if d = e then (s.engine e).jobs ++ [⟨q, t, tag, first, count, 0⟩] else (s.engine d).jobs := by
  rw [State.placeJob_eq t tag first count h,
    show ∀ (u : State) n, (u.grant n t).engine d = u.engine d from fun _ _ => rfl, State.engine_setEngine]
  split <;> rfl

theorem leasedTo_placeJob {s : State} {e q : Nat} (t tag first count n : Nat) (h : s.freeEntry e = some q) :
    (s.placeJob t tag e first count).leasedTo n t ↔ n = jobLease e q ∨ s.leasedTo n t := by
  rw [State.placeJob_eq t tag first count h, State.leasedTo_grant]
  exact Iff.rfl

theorem extends_placeJob (s : State) (t tag e first count : Nat) : s.Extends (s.placeJob t tag e first count) t := by
  cases h : s.freeEntry e with
  | none =>
    rw [State.placeJob, h]
    exact .refl s t
  | some q =>
    refine ⟨fun d j hj => ?_, fun n hn => (leasedTo_placeJob t tag first count n h).2 (.inr hn)⟩
    rw [engine_placeJob t tag first count d h]
    split
    · next hd => exact List.mem_append_left _ (hd ▸ hj)
    · exact hj

theorem runs_placeJob {s : State} {e : Nat} (t tag first count : Nat) (h : (s.freeEntry e).isSome = true) :
    (s.placeJob t tag e first count).runs t tag e first count := by
  obtain ⟨q, hq⟩ := Option.isSome_iff_exists.1 h
  refine ⟨⟨q, t, tag, first, count, 0⟩, ?_, rfl, rfl, rfl, rfl, (leasedTo_placeJob t tag first count _ hq).2 (.inl rfl)⟩
  rw [engine_placeJob t tag first count e hq, if_pos rfl]
  exact List.mem_append_right _ (List.mem_singleton_self _)

theorem State.freeEntry_congr {s u : State} {e : Nat} (h : (u.engine e).jobs = (s.engine e).jobs) :
    u.freeEntry e = s.freeEntry e := by
  rw [State.freeEntry, State.freeEntry, h]

/-- A job leaves the entries of every other engine. -/
theorem freeEntry_placeJob_ne (s : State) (t tag first count : Nat) {e d : Nat} (hd : d ≠ e) :
    (s.placeJob t tag e first count).freeEntry d = s.freeEntry d := by
  cases h : s.freeEntry e with
  | none => rw [State.placeJob, h]
  | some q => exact State.freeEntry_congr ((engine_placeJob t tag first count d h).trans (if_neg hd))

/-! ### One run of granules for each engine -/

/-- The run of the engine at place `a.2`. -/
def placeRun (t tag per total : Nat) (s : State) (a : Nat × Nat) : State :=
  if a.2 * per < total then s.placeJob t tag a.1 (a.2 * per) (min per (total - a.2 * per)) else s

theorem extends_placeRun (t tag per total : Nat) (s : State) (a : Nat × Nat) : s.Extends (placeRun t tag per total s a) t := by
  unfold placeRun
  split
  · exact extends_placeJob s t tag a.1 _ _
  · exact .refl s t

theorem freeEntry_placeRun_ne (t tag per total : Nat) (s : State) (a : Nat × Nat) {d : Nat} (hd : d ≠ a.1) :
    (placeRun t tag per total s a).freeEntry d = s.freeEntry d := by
  unfold placeRun
  split
  · exact freeEntry_placeJob_ne s t tag _ _ hd
  · rfl

theorem extends_foldl_placeRun (t tag per total : Nat) (l : List (Nat × Nat)) (s : State) :
    s.Extends (l.foldl (placeRun t tag per total) s) t := by
  induction l generalizing s with
  | nil => exact .refl s t
  | cons a l ih => exact (extends_placeRun t tag per total s a).trans (ih _)

theorem runs_foldl_placeRun (t tag per total : Nat) (l : List (Nat × Nat)) (s : State) (hn : (l.map Prod.fst).Nodup)
    (hf : ∀ a ∈ l, (s.freeEntry a.1).isSome = true) (a : Nat × Nat) (ha : a ∈ l) (hlt : a.2 * per < total) :
    (l.foldl (placeRun t tag per total) s).runs t tag a.1 (a.2 * per) (min per (total - a.2 * per)) := by
  induction l generalizing s with
  | nil => exact (List.not_mem_nil ha).elim
  | cons b l ih =>
    obtain ⟨hb, hn⟩ := List.nodup_cons.1 hn
    rcases List.mem_cons.1 ha with rfl | ha
    · refine (extends_foldl_placeRun t tag per total l _).runs ?_
      rw [placeRun, if_pos hlt]
      exact runs_placeJob t tag _ _ (hf a (List.mem_cons_self ..))
    · refine ih _ hn (fun c hc => ?_) ha
      rw [freeEntry_placeRun_ne t tag per total s b fun h => hb (h ▸ List.mem_map_of_mem hc)]
      exact hf c (List.mem_cons_of_mem _ hc)

theorem placeJobs_eq_foldl (s : State) (t tag total : Nat) (es : List Nat) :
    s.placeJobs t tag total es = es.zipIdx.foldl (placeRun t tag (ceilDiv total (max 1 es.length)) total) s := rfl

/-- With one run for each engine, every granule's place is within the list of engines. -/
theorem div_ceilDiv_lt {i total n : Nat} (hi : i < total) (hn : 0 < n) : i / ceilDiv total n < n := by
  have hpos : 0 < ceilDiv total n := Nat.div_pos (by omega) hn
  have h1 := Nat.div_add_mod (total + n - 1) n
  have h2 := Nat.mod_lt (total + n - 1) hn
  have hle : total ≤ n * ceilDiv total n := by
    rw [ceilDiv]
    omega
  exact (Nat.div_lt_iff_lt_mul hpos).2 (by omega)

/-- R321: every granule lies in the run of one of the engines. -/
theorem placeJobs_covers (s : State) (t tag total : Nat) (es : List Nat) (hn : es.Nodup)
    (hf : ∀ e ∈ es, (s.freeEntry e).isSome = true) (hne : es ≠ []) (i : Nat) (hi : i < total) :
    ∃ e ∈ es, ∃ first count, first ≤ i ∧ i < first + count ∧ (s.placeJobs t tag total es).runs t tag e first count := by
  rw [placeJobs_eq_foldl]
  have hlen : 0 < es.length := List.length_pos_iff.2 hne
  rw [Nat.max_eq_right hlen]
  have hk := div_ceilDiv_lt hi hlen
  generalize hper : ceilDiv total es.length = per at hk ⊢
  have h1 := Nat.div_add_mod i per
  have hpos : 0 < per := hper ▸ Nat.div_pos (by omega) hlen
  have h2 := Nat.mod_lt i hpos
  rw [Nat.mul_comm] at h1
  have hmem : (es[i / per], i / per) ∈ es.zipIdx := by
    rw [List.mk_mem_zipIdx_iff_getElem?]
    exact List.getElem?_eq_getElem hk
  refine ⟨es[i / per], List.getElem_mem hk, i / per * per, min per (total - i / per * per), by omega, by omega, ?_⟩
  refine runs_foldl_placeRun t tag per total _ s ?_ (fun a ha => hf a.1 ?_) _ hmem (by dsimp only; omega)
  · rwa [List.zipIdx_map_fst]
  · exact List.fst_mem_of_mem_zipIdx ha

/-! ### The engines that firmware chooses -/

theorem chosenEngines_live {s : State} {named : List Nat} {e : Nat} (h : e ∈ s.chosenEngines named) :
    s.engineLive e = true ∧ (s.freeEntry e).isSome = true := by
  rw [← Bool.and_eq_true]
  unfold State.chosenEngines at h
  dsimp only at h
  split at h
  · exact (List.mem_filter.1 (List.mem_of_mem_take h)).2
  · exact (List.mem_filter.1 (List.mem_of_mem_take h)).2

theorem chosenEngines_nodup (s : State) (named : List Nat) : (s.chosenEngines named).Nodup := by
  unfold State.chosenEngines
  dsimp only
  split
  · exact ((List.nodup_range.filter _).sublist (List.take_sublist ..))
  · exact ((List.nodup_dedup named).filter _).sublist (List.take_sublist ..)

/-! ### The command -/

theorem exec_transfer (x : Slip) (engines : List (Fin 32)) (s : State) (hrow : Claims.slipRow s (.transfer x engines) ≠ none)
    (hacc : Claims.accepted s x 8 [(0x08, 8), (0x10, 8), (0x18, 8), (0x20, 1)] = true) :
    exec (.transfer x engines) s = .next (transferAct x (engines.map Fin.val) (s.take x)) := by
  refine congrArg Host.Outcome.next ((if_neg fun h => hrow ?_).trans (State.withSlip_accepted hacc (fun h => nomatch h)))
  exact if_pos h

theorem transferAct_malformed (x : Slip) (named : List Nat) (s : State) (ht : s.tagTaken x = false)
    (h : transferOk x = false ∨
      s.resolve x.t (x.f 0x10 8) (plain (x.f 0x18 8)) (if x.f 0x20 1 = 1 then rRead else rWrite) = none) :
    transferAct x named s = s.answer x stMalformed [] := by
  rw [transferAct, if_neg (by rw [ht]; exact Bool.false_ne_true)]
  cases hok : transferOk x with
  | false => rfl
  | true =>
    have hr : s.resolve x.t (x.f 0x10 8) (plain (xferOf x).bytes) (if (xferOf x).toHost then rRead else rWrite) = none := by
      simpa only [xferOf, decide_eq_true_eq] using h.resolve_left (by rw [hok]; exact Bool.noConfusion)
    dsimp only
    rw [hr]
    rfl

theorem transferAct_placed (x : Slip) (named : List Nat) (s : State) (ht : s.tagTaken x = false) (hok : transferOk x = true)
    (hr : (s.resolve x.t (x.f 0x10 8) (plain (x.f 0x18 8)) (if x.f 0x20 1 = 1 then rRead else rWrite)).isSome = true)
    (hne : s.chosenEngines named ≠ []) :
    transferAct x named s = { s with xfers := s.xfers ++ [xferOf x] }.placeJobs x.t x.tag
      (granuleCount (s.xferDst (xferOf x)) (x.f 0x18 8)) (s.chosenEngines named) := by
  obtain ⟨a, ha⟩ := Option.isSome_iff_exists.1 hr
  have ha' : s.resolve x.t (x.f 0x10 8) (plain (xferOf x).bytes) (if (xferOf x).toHost then rRead else rWrite) = some a := by
    simpa only [xferOf, decide_eq_true_eq] using ha
  rw [transferAct, if_neg (by rw [ht]; exact Bool.false_ne_true), if_neg (by rw [hok]; exact Bool.false_ne_true)]
  dsimp only
  rw [ha']
  exact if_neg (by simp [hne])

theorem transfer_refused (x : Slip) (engines : List (Fin 32)) (s : State)
    (he : exec (.transfer x engines) s = .next ((s.take x).answer x stMalformed [])) {t : State}
    (ht : exec (.transfer x engines) s = .next t) :
    Claims.answered (s.mb x.t) s t x 1 [] ∧ t.xfers = s.xfers ∧ t.engines = s.engines := by
  obtain rfl := Host.Outcome.next.inj (he.symm.trans ht)
  have hk := only_take_answer s x stMalformed []
  exact ⟨answered_take_answer s x stMalformed [], hk.part .xfers (by decide), hk.part .engines (by decide)⟩

/-- What placing a transfer's jobs does. -/
theorem placed (x : Slip) (named : List Nat) (s : State) :
    let u := { s with xfers := s.xfers ++ [xferOf x] }
    let total := granuleCount (s.xferDst (xferOf x)) (x.f 0x18 8)
    let t := u.placeJobs x.t x.tag total (s.chosenEngines named)
    t.xfers = s.xfers ++ [xferOf x] ∧ t.mbox = s.mbox ∧ (∀ e j, j ∈ (s.engine e).jobs → j ∈ (t.engine e).jobs) ∧
      (s.chosenEngines named ≠ [] → ∀ i, i < total → ∃ e ∈ s.chosenEngines named, ∃ first count, first ≤ i ∧
        i < first + count ∧ t.runs x.t x.tag e first count) := by
  intro u total t
  have hk := only_State_placeJobs (Ps := [.leases, .engines]) (Ks := []) u x.t x.tag total (s.chosenEngines named)
    (Only.refl u) (by decide)
  refine ⟨hk.part .xfers (by decide), hk.part .mbox (by decide), ?_, fun hne i hi => ?_⟩
  · exact (extends_foldl_placeRun x.t x.tag _ total _ u).jobs
  · exact placeJobs_covers u x.t x.tag total _ (chosenEngines_nodup s named) (fun e h => (chosenEngines_live h).2) hne i hi

/-- Settles O19: the run of every granule is on one of the chosen engines, which are live, distinct and have room. -/
theorem transferJobsCoverEveryGranule : Obligations.TransferJobsCoverEveryGranule := by
  unfold Obligations.TransferJobsCoverEveryGranule
  intro x engines s hrow hacc htag
  have he := exec_transfer x engines s hrow hacc
  have ht : (s.take x).tagTaken x = false := by
    rw [← Bool.not_eq_true, tagTaken_take s x (.inr (opcode_of_accepted hacc))]
    rintro ⟨l, hl, hop, hx⟩
    exact htag l hl hop hx
  refine ⟨_, he, Only.ofExec (only_execTransfer x engines s) he, fun hok => ?_, fun hok hr => ?_, fun hok hr hne => ?_⟩
  · exact transfer_refused x engines s (he.trans (by rw [transferAct_malformed x _ _ ht (.inl hok)])) he
  · exact transfer_refused x engines s (he.trans (by rw [transferAct_malformed x _ (s.take x) ht (.inr hr)])) he
  rw [transferAct_placed x _ (s.take x) ht hok hr hne]
  clear he
  obtain ⟨hx, hmb, hext, hcov⟩ := placed x (engines.map Fin.val) (s.take x)
  refine ⟨hx, ?_, hext, fun i hi => ?_⟩
  · rw [State.mb_congr hmb, s.mb_take_same]
    rfl
  · obtain ⟨e, hme, first, count, hlo, hhi, j, hj, h1, h2, rfl, rfl, hheld, hown⟩ := hcov hne i hi
    exact ⟨e, j, hj, (chosenEngines_live (s := s) hme).1, h1, h2, hlo, hhi, hheld, hown⟩

end Sys2Proof.Machine
end

section
/-! POLICY, FLOORPLAN and TIMESYNC (R298, R305, R306, R360, R377). -/

namespace Sys2Proof.Machine

/-! ### Items kept for each tower -/

theorem mem_maskTowers (m w : Nat) : w ∈ maskTowers m ↔ w < 8 ∧ (m = 0 ∨ nbit m w = true) := by
  simp [maskTowers]

/-- A fold whose every step stores the same number under its unit's key. -/
theorem num_foldl_setNum (π : State → SMap Nat) (f : State → Nat → State) (key : Nat → Nat) (v : Nat)
    (hkey : ∀ a b, key a = key b → a = b) (hf : ∀ x a, π (f x a) = setNum (π x) (key a) v) (l : List Nat) (s : State) (w : Nat) :
    num (π (l.foldl f s)) (key w) = if w ∈ l then v else num (π s) (key w) := by
  induction l generalizing s with
  | nil => rfl
  | cons a l ih =>
    rw [List.foldl_cons, ih, hf, num_setNum]
    by_cases hl : w ∈ l
    · rw [if_pos hl, if_pos (List.mem_cons_of_mem _ hl)]
    · by_cases hw : w = a
      · rw [if_neg hl, hw, if_pos rfl, if_pos (List.mem_cons_self ..)]
      · rw [if_neg hl, if_neg fun h => hw (hkey _ _ h), if_neg (by simp [hl, hw])]

theorem only_govern (s : State) (w : Nat) : Only [] [.vgov] s (s.govern w) := only_State_govern s w (Only.refl s) (by decide)

theorem vCeiling_setPolicy (s : State) (tenant v : Nat) (ts : List Nat) (w : Nat) :
    num (s.setPolicy tenant 1 v ts).vCeiling w = if w ∈ ts then v else num s.vCeiling w :=
  num_foldl_setNum State.vCeiling _ id v (fun _ _ h => h)
    (fun x a => (only_govern { x with vCeiling := setNum x.vCeiling a v } a).part .vCeiling (by decide)) ts s w

theorem vFloor_setPolicy (s : State) (tenant v : Nat) (ts : List Nat) (w : Nat) :
    num (s.setPolicy tenant 2 v ts).vFloor (floorKey tenant w) =
      if w ∈ ts then v else num s.vFloor (floorKey tenant w) :=
  num_foldl_setNum State.vFloor _ (floorKey tenant) v (fun _ _ h => Nat.add_left_cancel h)
    (fun x a => (only_govern { x with vFloor := setNum x.vFloor (floorKey tenant a) v } a).part .vFloor (by decide)) ts s w

/-- A tower's banks take the mode. -/
def modeTower (v : Nat) (s : State) (a : Nat) : State :=
  ((List.range 8).filter fun i => s.coreEnabled (8 * a + i)).foldl
    (fun s i => s.bedModeWrite (8 * a + i) (BitVec.ofNat 64 v)) { s with bankMode := setNum s.bankMode a v }

theorem only_foldl_bedModeWrite (l : List Nat) (a : Nat) (v : DWord) (s : State) :
    Only [.beds] [.bedMode] s (l.foldl (fun s i => s.bedModeWrite (8 * a + i) v) s) :=
  foldl_keeps (Only [.beds] [.bedMode] s) _ l s (Only.refl s) fun y i _ h =>
    only_State_bedModeWrite y (8 * a + i) v h (by decide) (by decide)

theorem bankMode_modeTower (v : Nat) (s : State) (a : Nat) : (modeTower v s a).bankMode = setNum s.bankMode a v :=
  (only_foldl_bedModeWrite _ a _ _).part .bankMode (by decide)

theorem bankMode_setPolicy (s : State) (tenant v : Nat) (ts : List Nat) (w : Nat) :
    num (s.setPolicy tenant 4 v ts).bankMode w = if w ∈ ts then v else num s.bankMode w :=
  num_foldl_setNum State.bankMode (modeTower v) id v (fun _ _ h => h) (bankMode_modeTower v) ts s w

theorem pkgCap_setPolicy (s : State) (tenant v : Nat) (ts : List Nat) : (s.setPolicy tenant 3 v ts).pkgCap = v :=
  (only_State_recomputeCaps (Ps := [.capIo, .capTc]) (Ks := [.env]) { s with pkgCap := v } (Only.refl _) (by decide)
    (by decide)).part .pkgCap (by decide)

/-! ### The value in force -/

theorem State.vEnv_congr {s t : State} {w : Nat} (hf : t.fuses = s.fuses) (hr : t.reg (.vregStat w) = s.reg (.vregStat w))
    (hth : t.thermal = s.thermal) : t.vEnv w = s.vEnv w := by
  rw [State.vEnv, State.vEnv, hf, State.regF_congr hr 0 16, State.therm_congr hth]

theorem only_setPolicy_floor (s : State) (tenant v : Nat) (ts : List Nat) :
    Only [.vFloor] [.vgov] s (s.setPolicy tenant 2 v ts) :=
  foldl_keeps (Only [.vFloor] [.vgov] s) _ ts s (Only.refl s) fun x a _ h =>
    only_State_govern _ a (h.upd_vFloor (by decide)) (by decide)

theorem Reg.vgov_off (w : Nat) : (Reg.vgov w).off = blk w + 0xA0C := rfl

theorem Reg.eq_vgov_of_kind {r : Reg} (h : r.kind = .vgov) : ∃ w, r = .vgov w := by
  cases r <;> cases h; exact ⟨_, rfl⟩

theorem vEnv_setPolicy_floor (s : State) (tenant v : Nat) (ts : List Nat) (w : Nat) :
    (s.setPolicy tenant 2 v ts).vEnv w = s.vEnv w := by
  have h := only_setPolicy_floor s tenant v ts
  refine State.vEnv_congr h.make (h.reg_apart _ fun r hr => ?_) (h.part .thermal (by decide))
  obtain ⟨a, rfl⟩ := Reg.eq_vgov_of_kind (List.mem_singleton.1 hr)
  simp only [Reg.vgov_off, Reg.vregStat_off, blk]
  omega

/-- R305: a floor is clamped to the envelopes that stood before. -/
theorem inForce_setPolicy (s : State) (tenant item v : Nat) (ts : List Nat) :
    (s.setPolicy tenant item v ts).inForce item v ts = if item = 2 then ts.foldl (fun a w => min a (s.vEnv w)) v else v := by
  unfold State.inForce
  split
  · next h =>
    subst h
    simp only [vEnv_setPolicy_floor]
  · rfl

/-! ### The answer -/

/-- R305: a clamp is counted, and the first one noticed. -/
def countClamp (x : Slip) (got : Nat) (s : State) : State :=
  if got < x.f 0xC 4 then
    (let z := { s with clamps := setNum s.clamps (clampKey x.t (x.f 8 2)) (num s.clamps (clampKey x.t (x.f 8 2)) + 1) }
     if num s.clamps (clampKey x.t (x.f 8 2)) = 0 then z
     else z.notify x.t noticePolicyClamp 0 (x.f 8 2) (leBytes 4 (x.f 0xC 4) ++ leBytes 4 got))
  else s

theorem policyAct_accepted {x : Slip} {s : State} (hr : policyRange s.fuses (x.f 8 2) (x.f 0xC 4) = some true)
    (hd : ¬ (x.f 8 2 ≠ 2 ∧ x.t ≠ 0)) :
    let s1 := s.setPolicy x.t (x.f 8 2) (x.f 0xC 4) (maskTowers (x.f 0xA 1))
    let got := s1.inForce (x.f 8 2) (x.f 0xC 4) (maskTowers (x.f 0xA 1))
    policyAct x s = (countClamp x got s1).answer x stOk
      (leBytes 4 got ++ leBytes 4 (num (countClamp x got s1).clamps (clampKey x.t (x.f 8 2)))) := by
  intro s1 got
  unfold policyAct
  dsimp only
  rw [hr]
  dsimp only
  rw [if_neg (by simpa using hd), if_neg (by decide)]
  rfl

theorem policyAct_refused {x : Slip} {s : State} (status : Nat)
    (h : policyRange s.fuses (x.f 8 2) (x.f 0xC 4) = none ∧ status = stMalformed ∨
      ∃ ok, policyRange s.fuses (x.f 8 2) (x.f 0xC 4) = some ok ∧
        ((x.f 8 2 ≠ 2 ∧ x.t ≠ 0) ∧ status = stDenied ∨ ¬ (x.f 8 2 ≠ 2 ∧ x.t ≠ 0) ∧ ok = false ∧ status = stMalformed)) :
    policyAct x s = s.answer x status [] := by
  unfold policyAct
  dsimp only
  rcases h with ⟨hr, rfl⟩ | ⟨ok, hr, ⟨hd, rfl⟩ | ⟨hd, rfl, rfl⟩⟩
  · rw [hr]
  · rw [hr]
    exact if_pos (by simpa using hd)
  · rw [hr]
    exact (if_neg (by simpa using hd)).trans (if_pos (by decide))

theorem only_countClamp (x : Slip) (got : Nat) (s : State) : Only [.clamps, .mbox] [] s (countClamp x got s) := by
  have hz : ∀ c, Only [.clamps, .mbox] [] s { s with clamps := c } := fun c => (Only.refl s).upd_clamps (by decide)
  unfold countClamp
  split
  · dsimp only
    split
    · exact hz _
    · exact only_State_notify _ _ _ _ _ _ (hz _) (by decide)
  · exact Only.refl s

theorem clamps_countClamp (x : Slip) (got : Nat) (s : State) : num (countClamp x got s).clamps (clampKey x.t (x.f 8 2)) =
    num s.clamps (clampKey x.t (x.f 8 2)) + if got < x.f 0xC 4 then 1 else 0 := by
  have hz : ∀ u : State, (u.notify x.t noticePolicyClamp 0 (x.f 8 2) (leBytes 4 (x.f 0xC 4) ++ leBytes 4 got)).clamps = u.clamps :=
    fun u => (only_State_notify (Ps := [.mbox]) (Ks := []) u _ _ _ _ _ (Only.refl u) (by decide)).part .clamps (by decide)
  unfold countClamp
  split
  · dsimp only
    split
    · rw [num_setNum, if_pos rfl]
    · rw [hz, num_setNum, if_pos rfl]
  · rfl

theorem mbox_countClamp {x : Slip} {got : Nat} {s : State} (h : ¬ got < x.f 0xC 4 ∨ num s.clamps (clampKey x.t (x.f 8 2)) = 0) :
    (countClamp x got s).mbox = s.mbox := by
  unfold countClamp
  split
  · next hlt =>
    dsimp only
    rw [if_pos (h.resolve_left (not_not_intro hlt))]
  · rfl

/-! ### The commands -/

theorem exec_policy {x : Slip} {s : State} (h : Claims.accepted s x 9 [(0x08, 2), (0x0A, 1), (0x0C, 4)] = true) :
    exec (.policy x) s = .next (policyAct x (s.take x)) :=
  congrArg Host.Outcome.next (State.withSlip_accepted h (fun h => nomatch h))

theorem vEnv_take (s : State) (x : Slip) (w : Nat) : (s.take x).vEnv w = s.vEnv w :=
  State.vEnv_congr rfl (congrFun (State.reg_congr rfl rfl) _) rfl

/-- What each item's value does to the state. -/
theorem setPolicy_puts (s : State) (tenant item v m : Nat) :
    let t := s.setPolicy tenant item v (maskTowers m)
    (item = 3 → t.pkgCap = v) ∧ (item = 5 → t.rthInterval = v) ∧ (item = 6 → t.preemptWait = v) ∧
    (item = 7 → t.stackIdle = v) ∧
    (item = 1 → ∀ w, w < 8 → num t.vCeiling w = if m = 0 ∨ nbit m w = true then v else num s.vCeiling w) ∧
    (item = 2 → ∀ w, w < 8 → (m = 0 ∨ nbit m w = true) → num t.vFloor (tenant * 8 + w) = v) ∧
    (item = 4 → ∀ w, w < 8 → num t.bankMode w = if m = 0 ∨ nbit m w = true then v else num s.bankMode w) := by
  have hmem : ∀ w, w < 8 → (w ∈ maskTowers m ↔ m = 0 ∨ nbit m w = true) := fun w hw => by
    rw [mem_maskTowers]
    exact and_iff_right hw
  refine ⟨?_, ?_, ?_, ?_, ?_, ?_, ?_⟩ <;> rintro rfl
  · exact pkgCap_setPolicy s tenant v _
  · rfl
  · rfl
  · rfl
  · intro w hw
    rw [vCeiling_setPolicy]
    exact if_congr (hmem w hw) rfl rfl
  · intro w hw hm
    exact (vFloor_setPolicy s tenant v _ w).trans (if_pos ((hmem w hw).2 hm))
  · intro w hw
    rw [bankMode_setPolicy]
    exact if_congr (hmem w hw) rfl rfl

theorem only_setPolicy (s : State) (tenant item v : Nat) (ts : List Nat) :
    Only [.beds, .capIo, .capTc, .vCeiling, .bankMode, .pkgCap, .rthInterval, .preemptWait, .stackIdle, .vFloor]
      [.bedMode, .env, .vgov] s (s.setPolicy tenant item v ts) :=
  only_State_setPolicy s tenant item v ts (Only.refl s) (List.Subset.refl _) (List.Subset.refl _)

theorem policy_refused {x : Slip} {s : State} (hacc : Claims.accepted s x 9 [(0x08, 2), (0x0A, 1), (0x0C, 4)] = true)
    (status : Nat) (h : policyAct x (s.take x) = (s.take x).answer x status []) {t : State}
    (ht : exec (.policy x) s = .next t) :
    Claims.answered (s.mb x.t) s t x status [] ∧ Only [.mbox, .progress, .watchdogs] [] s t := by
  obtain rfl := Host.Outcome.next.inj (((exec_policy hacc).trans (congrArg _ h)).symm.trans ht)
  exact ⟨answered_take_answer s x status [], only_take_answer s x status []⟩

theorem policy_inForce {x : Slip} {s : State} (hacc : Claims.accepted s x 9 [(0x08, 2), (0x0A, 1), (0x0C, 4)] = true)
    (hr : policyRange s.fuses (x.f 8 2) (x.f 0xC 4) = some true) (hd : ¬ (x.f 8 2 ≠ 2 ∧ x.t ≠ 0)) {t : State}
    (ht : exec (.policy x) s = .next t) :
    let item := x.f 8 2
    let v := x.f 0xC 4
    (item = 3 → t.pkgCap = v) ∧ (item = 5 → t.rthInterval = v) ∧ (item = 6 → t.preemptWait = v) ∧
    (item = 7 → t.stackIdle = v) ∧
    (item = 1 → ∀ w, w < 8 → num t.vCeiling w = if x.f 0xA 1 = 0 ∨ nbit (x.f 0xA 1) w = true then v else num s.vCeiling w) ∧
    (item = 2 → ∀ w, w < 8 → (x.f 0xA 1 = 0 ∨ nbit (x.f 0xA 1) w = true) → num t.vFloor (x.t * 8 + w) = v) ∧
    (item = 4 → ∀ w, w < 8 → num t.bankMode w = if x.f 0xA 1 = 0 ∨ nbit (x.f 0xA 1) w = true then v else num s.bankMode w) ∧
    let got := if item = 2 then (maskTowers (x.f 0xA 1)).foldl (fun a w => min a (s.vEnv w)) v else v
    num t.clamps (x.t * 8 + item) = num s.clamps (x.t * 8 + item) + (if got < v then 1 else 0) ∧
    (got = v ∨ num s.clamps (x.t * 8 + item) = 0 →
      Claims.answered (s.mb x.t) s t x 0 (leBytes 4 got ++ leBytes 4 (num t.clamps (x.t * 8 + item)))) := by
  intro item v
  have he := Host.Outcome.next.inj ((exec_policy hacc).symm.trans ht)
  rw [policyAct_accepted (s := s.take x) hr hd, inForce_setPolicy] at he
  simp only [vEnv_take] at he
  obtain ⟨p3, p5, p6, p7, p1, p2, p4⟩ := setPolicy_puts (s.take x) x.t item v (x.f 0xA 1)
  have hset := only_setPolicy (s.take x) x.t item v (maskTowers (x.f 0xA 1))
  have hc : (s.take x).clamps = s.clamps := rfl
  generalize (if item = 2 then (maskTowers (x.f 0xA 1)).foldl (fun a w => min a (s.vEnv w)) v else v) = got at he ⊢
  generalize (s.take x).setPolicy x.t item v (maskTowers (x.f 0xA 1)) = u at he p3 p5 p6 p7 p1 p2 p4 hset
  have hcount := only_countClamp x got u
  have hnum := clamps_countClamp x got u
  have hans := only_State_answer (Ps := [.clamps, .mbox, .progress, .watchdogs]) (Ks := []) (countClamp x got u) x stOk
    (leBytes 4 got ++ leBytes 4 (num (countClamp x got u).clamps (clampKey x.t item)))
    (hcount.mono (by decide) (List.Subset.refl _)) (by decide)
  have hcl : t.clamps = (countClamp x got u).clamps := by rw [← he, State.clamps_answer]
  have huc : u.clamps = s.clamps := hset.part .clamps (by decide)
  rw [huc] at hnum
  rw [he] at hans
  have hbound : got = v ∨ num s.clamps (x.t * 8 + item) = 0 → Claims.answered (s.mb x.t) s t x 0
      (leBytes 4 got ++ leBytes 4 (num t.clamps (x.t * 8 + item))) := fun h => by
    rw [hcl, ← he]
    refine answered_after_take stOk _ ((mbox_countClamp ?_).trans (hset.part .mbox (by decide)))
    exact h.imp (fun h => Nat.not_lt.2 (Nat.le_of_eq h.symm)) fun h => by rw [huc]; exact h
  have hceil : t.vCeiling = u.vCeiling := hans.part .vCeiling (by decide)
  have hfloor : t.vFloor = u.vFloor := hans.part .vFloor (by decide)
  have hmode : t.bankMode = u.bankMode := hans.part .bankMode (by decide)
  rw [hceil, hfloor, hmode]
  exact ⟨(hans.part .pkgCap (by decide)).trans ∘ p3, (hans.part .rthInterval (by decide)).trans ∘ p5,
    (hans.part .preemptWait (by decide)).trans ∘ p6, (hans.part .stackIdle (by decide)).trans ∘ p7, p1, p2, p4,
    by rw [hcl]; exact hnum, hbound⟩

/-! ### FLOORPLAN and TIMESYNC -/

theorem exec_floorplan {x : Slip} (hostOk : Bool) {s : State} (h : Claims.accepted s x 0xA [(0x08, 8)] = true) :
    exec (.floorplan x hostOk) s = .next (floorplanAct x hostOk (s.take x)) :=
  congrArg Host.Outcome.next (State.withSlip_accepted h (fun h => nomatch h))

theorem floorplan_copies (x : Slip) (hostOk : Bool) (s : State) (hacc : Claims.accepted s x 0xA [(0x08, 8)] = true) :
    ∃ t, exec (.floorplan x hostOk) s = .next t ∧ Only [.out, .mbox, .progress, .watchdogs] [] s t ∧
      if s.published = false then Claims.answered (s.mb x.t) s t x 8 [] ∧ t.out = s.out
      else if hostOk = false then Claims.answered (s.mb x.t) s t x 0xE [] ∧ t.out = s.out
      else t.out = .hostWrite x.t (x.f 8 8) (rdBytes s.fplan 0 0x500) false :: s.out ∧
        Claims.answered (s.mb x.t) s t x 0 (leBytes 4 s.fpGen ++ leBytes 4 0 ++ leBytes 8 (rdLe s.fplan 0x10 8)) := by
  have he := exec_floorplan hostOk hacc
  refine ⟨_, he, Only.ofExec (only_execFloorplan x hostOk s) he, ?_⟩
  clear he
  have hpub : (s.take x).published = s.published := rfl
  unfold floorplanAct
  rw [hpub]
  cases s.published with
  | false => exact ⟨answered_take_answer s x stNotFound [], (only_take_answer s x stNotFound []).part .out (by decide)⟩
  | true =>
    cases hostOk with
    | false => exact ⟨answered_take_answer s x stHostFault [], (only_take_answer s x stHostFault []).part .out (by decide)⟩
    | true =>
      have hk := only_State_answer (Ps := [.mbox, .progress, .watchdogs]) (Ks := [])
        ((s.take x).emit (.hostWrite x.t (x.f 8 8) (rdBytes (s.take x).fplan 0 0x500) false)) x stOk
        (leBytes 4 (s.take x).fpGen ++ leBytes 4 0 ++ leBytes 8 (rdLe (s.take x).fplan 0x10 8)) (Only.refl _) (by decide)
      exact ⟨hk.part .out (by decide), answered_after_take stOk _ rfl⟩

theorem exec_timesyncRead {x : Slip} {s : State} (h : Claims.accepted s x 0xD [(0x08, 1), (0x10, 8)] = true)
    (h1 : x.f 8 1 ≠ 1) : exec (.timesyncRead x) s = .next (timesyncAct x (s.take x)) :=
  congrArg Host.Outcome.next ((if_neg h1).trans (State.withSlip_accepted h (fun h => nomatch h)))

theorem exec_timesyncArm {x : Slip} {s : State} (h : Claims.accepted s x 0xD [(0x08, 1), (0x10, 8)] = true)
    (h1 : x.f 8 1 = 1) (ht : x.t = 0) : exec (.timesyncArm x) s = .next (timesyncAct x (s.take x)) :=
  congrArg Host.Outcome.next ((if_pos h1).trans (State.withSlip_accepted h (fun _ => ht)))

theorem timesyncAct_read {x : Slip} (s : State) (h : x.f 8 1 = 0) : timesyncAct x s = s.answer x stOk (timesyncBody s) := by
  unfold timesyncAct
  rw [h]
  rfl

theorem timesyncAct_unknown {x : Slip} (s : State) (h0 : x.f 8 1 ≠ 0) (h1 : x.f 8 1 ≠ 1) :
    timesyncAct x s = s.answer x stMalformed [] := by
  unfold timesyncAct
  split
  · next h => exact absurd h h0
  · next h => exact absurd h h1
  · rfl

theorem timesyncAct_arm {x : Slip} (s : State) (h : x.f 8 1 = 1) (ht : x.t = 0) : timesyncAct x s =
    { s with tb := { s.tb with preset := x.f 0x10 8, armed := true } }.answer x stOk (timesyncBody s) := by
  unfold timesyncAct
  rw [h]
  exact if_neg (not_not_intro ht)

theorem timesync_reads (x : Slip) (s : State) (hacc : Claims.accepted s x 0xD [(0x08, 1), (0x10, 8)] = true)
    (h1 : x.f 8 1 ≠ 1) : ∃ t, exec (.timesyncRead x) s = .next t ∧ Only [.mbox, .progress, .watchdogs] [] s t ∧
      if x.f 8 1 = 0 then Claims.answered (s.mb x.t) s t x 0
        (leBytes 8 s.tb.count ++ leBytes 8 s.tb.count ++ leBytes 1 (b2n s.tb.holdover))
      else Claims.answered (s.mb x.t) s t x 1 [] := by
  have he := exec_timesyncRead hacc h1
  split
  · next h0 =>
    rw [timesyncAct_read _ h0] at he
    exact ⟨_, he, only_take_answer s x stOk _, answered_take_answer s x stOk _⟩
  · next h0 =>
    rw [timesyncAct_unknown _ h0 h1] at he
    exact ⟨_, he, only_take_answer s x stMalformed [], answered_take_answer s x stMalformed []⟩

theorem timesync_arms (x : Slip) (s : State) (hacc : Claims.accepted s x 0xD [(0x08, 1), (0x10, 8)] = true)
    (h1 : x.f 8 1 = 1) (ht : x.t = 0) : ∃ t, exec (.timesyncArm x) s = .next t ∧
      Only [.tb, .mbox, .progress, .watchdogs] [] s t ∧ t.tb = { s.tb with preset := x.f 0x10 8, armed := true } ∧
      Claims.answered (s.mb x.t) s t x 0
        (leBytes 8 s.tb.count ++ leBytes 8 s.tb.count ++ leBytes 1 (b2n s.tb.holdover)) := by
  have he := exec_timesyncArm hacc h1 ht
  rw [timesyncAct_arm _ h1 ht] at he
  refine ⟨_, he, Only.ofExec (only_execTimesyncArm x s) he, ?_, answered_after_take stOk _ rfl⟩
  exact (only_State_answer (Ps := [.mbox, .progress, .watchdogs]) (Ks := [])
    { s.take x with tb := { (s.take x).tb with preset := x.f 0x10 8, armed := true } } x stOk (timesyncBody (s.take x))
    (Only.refl _) (by decide)).part .tb (by decide)

/-- Settles O20: POLICY by the item's range, the function and the value; then the three reading commands. -/
theorem policyFloorplanAndTimesyncAnswer : Obligations.PolicyFloorplanAndTimesyncAnswer := by
  unfold Obligations.PolicyFloorplanAndTimesyncAnswer
  refine ⟨fun x s hacc => ?_, floorplan_copies, fun x s hacc => ⟨timesync_reads x s hacc, timesync_arms x s hacc⟩⟩
  have he := exec_policy hacc
  refine ⟨_, he, Only.ofExec (only_execPolicy x s) he, ?_⟩
  have hu : (s.take x).fuses = s.fuses := rfl
  cases hr : policyRange s.fuses (x.f 8 2) (x.f 0xC 4) with
  | none => exact policy_refused hacc 1 (policyAct_refused stMalformed (.inl ⟨hr, rfl⟩)) he
  | some ok =>
    dsimp only
    split
    · next hd => exact policy_refused hacc 4 (policyAct_refused stDenied (.inr ⟨ok, hr, .inl ⟨hd, rfl⟩⟩)) he
    · next hd =>
      split
      · next hok => exact policy_refused hacc 1 (policyAct_refused stMalformed (.inr ⟨ok, hr, .inr ⟨hd, hok, rfl⟩⟩)) he
      · next hok => exact policy_inForce hacc (hr.trans (congrArg some ((Bool.not_eq_false ok).mp hok))) hd he

end Sys2Proof.Machine
end

section
/-! Event counters (R307, R417). -/

namespace Sys2Proof.Machine

/-! ### Selecting a counter -/

theorem Reg.ctrSel_off (u n : Nat) : (Reg.ctrSel u n).off = unitSels u + 4 * n := rfl
theorem Reg.ctrVal_off (u n : Nat) : (Reg.ctrVal u n).off = unitVals u + 8 * n := rfl

theorem ctrSel_off_ne_ctrVal {u n : Nat} (h : n < unitCtrs u) : (Reg.ctrSel u n).off ≠ (Reg.ctrVal u n).off := by
  rw [Reg.ctrSel_off, Reg.ctrVal_off]
  unfold unitSels unitVals
  unfold unitCtrs at h
  split_ifs at h ⊢ <;> omega

theorem regF_selectCounter (s : State) {u n : Nat} (event : Nat) (h : n < unitCtrs u) :
    (s.selectCounter u n event).regF (.ctrSel u n) 0 16 = event % 2 ^ 16 := by
  rw [State.selectCounter, State.regF_congr (State.reg_setReg_ne _ _ _ _ (ctrSel_off_ne_ctrVal h)) 0 16]
  exact s.regF_setF_same _ 0 16 event (by decide)

theorem reg_selectCounter (s : State) (u n event : Nat) : (s.selectCounter u n event).reg (.ctrVal u n) = 0 :=
  State.reg_setReg_same _ _ _

/-- The event of a unit's kind fits the selection. -/
theorem event_lt {u event : Nat} (h : event / 4096 = unitKind u) : event < 2 ^ 16 := by
  have hk : unitKind u < 4 := by
    unfold unitKind
    split_ifs <;> decide
  omega

/-! ### COUNTERS_READ -/

theorem exec_countersRead {x : Slip} (hostOk : Bool) {s : State} (h : Claims.accepted s x 0xB countersFields = true)
    (h0 : x.f 8 1 = 0) : exec (.countersRead x hostOk) s = .next (countersReadAct x hostOk (s.take x)) :=
  congrArg Host.Outcome.next ((if_neg (by omega)).trans (State.withSlip_accepted h (fun h => nomatch h)))

theorem countersReadAct_eq {x : Slip} (hostOk : Bool) (s : State) (h0 : x.f 8 1 = 0) : countersReadAct x hostOk s =
    match counterUnit s.fuses (x.f 9 1) (x.f 0xA 2) with
    | none => s.answer x stMalformed []
    | some u =>
      if !s.mayCount x.t u then s.answer x stDenied []
      else if s.dieLost (unitDie u) then s.answer x stTowerLost []
      else if !hostOk then s.answer x stHostFault []
      else (s.emit (.hostWrite x.t (x.f 0x18 8) (s.counterBytes u) false)).answer x stOk (leBytes 8 s.tb.count) := by
  unfold countersReadAct
  rw [if_pos h0] <;> rfl

theorem fieldAt_counterBytes (s : State) (u n : Nat) (h : n < 16) :
    fieldAt (s.counterBytes u) (8 * n) 8 = if n < unitCtrs u then s.regF (.ctrVal u n) 0 48 else 0 := by
  rw [State.counterBytes, fieldAt_table 16 8 n _ h]
  refine Nat.mod_eq_of_lt ?_
  split
  · exact (s.regF_lt _ 0 48).trans (by decide)
  · decide

theorem counterBytes_congr {s t : State} (hr : t.regs = s.regs) (hf : t.fuses = s.fuses) (u : Nat) :
    t.counterBytes u = s.counterBytes u := by
  unfold State.counterBytes
  refine List.flatMap_congr fun n _ => ?_
  rw [State.regF_congr (congrFun (State.reg_congr hr hf) (.ctrVal u n)) 0 48]

theorem counters_read (x : Slip) (hostOk : Bool) (s : State) (hacc : Claims.accepted s x 0xB countersFields = true)
    (h0 : x.f 8 1 = 0) : ∃ t, exec (.countersRead x hostOk) s = .next t ∧ Only [.out, .mbox, .progress, .watchdogs] [] s t ∧
      match counterUnit s.fuses (x.f 9 1) (x.f 0xA 2) with
      | none => Claims.answered (s.mb x.t) s t x 1 [] ∧ t.out = s.out
      | some u =>
        if s.mayCount x.t u = false then Claims.answered (s.mb x.t) s t x 4 [] ∧ t.out = s.out
        else if s.dieLost (unitDie u) = true then Claims.answered (s.mb x.t) s t x 0xC [] ∧ t.out = s.out
        else if hostOk = false then Claims.answered (s.mb x.t) s t x 0xE [] ∧ t.out = s.out
        else Claims.answered (s.mb x.t) s t x 0 (leBytes 8 s.tb.count) ∧ ∃ bytes, bytes.length = 128 ∧
          (∀ n, n < 16 → fieldAt bytes (8 * n) 8 = if n < unitCtrs u then s.regF (.ctrVal u n) 0 48 else 0) ∧
          t.out = .hostWrite x.t (x.f 0x18 8) bytes false :: s.out := by
  have he := exec_countersRead hostOk hacc h0
  refine ⟨_, he, Only.ofExec (only_execCountersRead x hostOk s) he, ?_⟩
  clear he
  have refused : ∀ status, Claims.answered (s.mb x.t) s ((s.take x).answer x status []) x status [] ∧
      ((s.take x).answer x status []).out = s.out := fun status =>
    ⟨answered_take_answer s x status [], (only_take_answer s x status []).part .out (by decide)⟩
  rw [countersReadAct_eq hostOk (s.take x) h0]
  have hf : (s.take x).fuses = s.fuses := rfl
  rw [hf]
  cases counterUnit s.fuses (x.f 9 1) (x.f 0xA 2) with
  | none => exact refused 1
  | some u =>
    dsimp only
    have hmay : (s.take x).mayCount x.t u = s.mayCount x.t u := rfl
    have hlost : (s.take x).dieLost (unitDie u) = s.dieLost (unitDie u) := rfl
    rw [hmay, hlost]
    cases s.mayCount x.t u with
    | false => exact refused 4
    | true =>
      cases s.dieLost (unitDie u) with
      | true => exact refused 0xC
      | false =>
        cases hostOk with
        | false => exact refused 0xE
        | true =>
          have hk := only_State_answer (Ps := [.mbox, .progress, .watchdogs]) (Ks := [])
            ((s.take x).emit (.hostWrite x.t (x.f 0x18 8) ((s.take x).counterBytes u) false)) x stOk
            (leBytes 8 (s.take x).tb.count) (Only.refl _) (by decide)
          exact ⟨answered_after_take stOk _ rfl, s.counterBytes u, length_flatMap_leBytes 16 8 _, fieldAt_counterBytes s u,
            (hk.part .out (by decide)).trans (by rw [← counterBytes_congr rfl rfl u (t := s.take x)]; rfl)⟩

/-! ### COUNTERS_SELECT and CTR_SEL_WRITE -/

theorem selectWaits_of_mayApply {s : State} {x : Slip} {u : Nat} (hu : counterUnit s.fuses (x.f 9 1) (x.f 0xA 2) = some u)
    (h : s.mayApply u = true) : s.selectWaits x = false := by
  rw [State.selectWaits, hu]
  simp [h]

theorem countersSelectAct_selects {x : Slip} {u : Nat} {s : State} (hn : x.f 0xC 1 < unitCtrs u)
    (hk : x.f 0x10 4 / 4096 = unitKind u) (hl : s.dieLost (unitDie u) = false) : countersSelectAct x u s =
      (s.selectCounter u (x.f 0xC 1) (x.f 0x10 4)).answer x stOk (leBytes 8 s.tb.count) := by
  rw [countersSelectAct, if_neg (by simp [hn, hk]), if_neg (by rw [hl]; decide)]

theorem counters_select (x : Slip) (u : Nat) (s : State) (hacc : Claims.accepted s x 0xB countersFields = true)
    (h1 : x.f 8 1 = 1) (ht : x.t = 0) (hu : counterUnit s.fuses (x.f 9 1) (x.f 0xA 2) = some u) (hmay : s.mayApply u = true)
    (hl : s.dieLost (unitDie u) = false) (hn : x.f 0xC 1 < unitCtrs u) (hk : x.f 0x10 4 / 4096 = unitKind u) :
    ∃ t, exec (.countersSelect x) s = .next t ∧ Only [.mbox, .progress, .watchdogs] [.ctrSel, .ctrVal] s t ∧
      t.regF (.ctrSel u (x.f 0xC 1)) 0 16 = x.f 0x10 4 ∧ t.reg (.ctrVal u (x.f 0xC 1)) = 0 ∧
      Claims.answered (s.mb x.t) s t x 0 (leBytes 8 s.tb.count) := by
  have hact : (match counterUnit (s.take x).fuses (x.f 9 1) (x.f 0xA 2) with
      | none => (s.take x).answer x stMalformed []
      | some u => countersSelectAct x u (s.take x)) = countersSelectAct x u (s.take x) := by
    rw [show (s.take x).fuses = s.fuses from rfl, hu]
  have he : exec (.countersSelect x) s = .next (countersSelectAct x u (s.take x)) :=
    congrArg Host.Outcome.next (((if_neg (by simp [h1, selectWaits_of_mayApply hu hmay])).trans
      (State.withSlip_accepted hacc (fun _ => ht))).trans hact)
  rw [countersSelectAct_selects (s := s.take x) hn hk hl] at he
  refine ⟨_, he, Only.ofExec (only_execCountersSelect x s) he, ?_⟩
  clear he hact
  have hsel := regF_selectCounter (s.take x) (x.f 0x10 4) hn
  have hval := reg_selectCounter (s.take x) u (x.f 0xC 1) (x.f 0x10 4)
  have hset := only_State_selectCounter (Ps := []) (Ks := [.ctrSel, .ctrVal]) (s.take x) u (x.f 0xC 1) (x.f 0x10 4)
    (Only.refl _) (by decide)
  rw [Nat.mod_eq_of_lt (event_lt hk)] at hsel
  generalize (s.take x).selectCounter u (x.f 0xC 1) (x.f 0x10 4) = v at hsel hval hset ⊢
  have hans := only_State_answer (Ps := [.mbox, .progress, .watchdogs]) (Ks := []) v x stOk (leBytes 8 (s.take x).tb.count)
    (Only.refl v) (by decide)
  exact ⟨(hans.regF_eq _ 0 16).trans hsel, (hans.reg_eq _).trans hval, answered_after_take stOk _ (hset.part .mbox (by decide))⟩

theorem ctrSel_written (unit : CtrUnit) (n : Fin 16) (value : Word) (s : State) (hn : n.val < unitCtrs (ctrUnitNo unit))
    (hu : s.unitAnswers (ctrUnitNo unit) = true) : ∃ t, exec (.ctrSelWrite unit n value) s = .next t ∧
      Only [] [.ctrSel, .ctrVal] s t ∧ t.regF (.ctrSel (ctrUnitNo unit) n.val) 0 16 = value.toNat % 65536 ∧
      t.reg (.ctrVal (ctrUnitNo unit) n.val) = 0 := by
  have he : exec (.ctrSelWrite unit n value) s = .next (s.selectCounter (ctrUnitNo unit) n.val (value.toNat % 65536)) :=
    congrArg Host.Outcome.next (if_pos (by simp [hn, hu]))
  exact ⟨_, he, Only.ofExec (only_execCtrSelWrite unit n value s) he,
    (regF_selectCounter s _ hn).trans (Nat.mod_mod _ _), reg_selectCounter s _ _ _⟩

/-- Settles O21. -/
theorem countersAreReadAndSelected : Obligations.CountersAreReadAndSelected := by
  unfold Obligations.CountersAreReadAndSelected
  exact ⟨counters_read, counters_select, ctrSel_written⟩

end Sys2Proof.Machine
end

section
/-! Which registers an access to memory can touch: a frame over single registers, finer than one over their kinds. -/

namespace Sys2Proof.Machine

/-! ### The frame -/

/-- From `s` to `t` only registers of `A` changed. -/
structure RegsBut (A : Reg → Prop) (s t : State) : Prop where
  make : t.fuses = s.fuses
  reg : ∀ q : Reg, (∀ r, A r → q.off ≠ r.off) → t.reg q = s.reg q

namespace RegsBut

variable {A : Reg → Prop} {s t u : State}

theorem refl (s : State) : RegsBut A s s := ⟨rfl, fun _ _ => rfl⟩

theorem trans (h : RegsBut A s t) (k : RegsBut A t u) : RegsBut A s u :=
  ⟨k.make.trans h.make, fun q hq => (k.reg q hq).trans (h.reg q hq)⟩

/-- What leaves every register leaves these. -/
theorem of_only {Ps : List Piece} (h : RegsBut A s t) (k : Only Ps [] t u) : RegsBut A s u :=
  h.trans ⟨k.make, fun q _ => k.reg_eq q⟩

theorem of_regs (h : RegsBut A s t) (hr : u.regs = t.regs) (hf : u.fuses = t.fuses) : RegsBut A s u :=
  h.trans ⟨hf, fun q _ => congrFun (State.reg_congr hr hf) q⟩

theorem setReg (h : RegsBut A s t) {r : Reg} (hr : A r) (v : DWord) : RegsBut A s (t.setReg r v) :=
  h.trans ⟨rfl, fun q hq => t.reg_setReg_ne r q v (hq r hr)⟩

theorem setF (h : RegsBut A s t) {r : Reg} (hr : A r) (lo w x : Nat) : RegsBut A s (t.setF r lo w x) := h.setReg hr _

theorem setBit (h : RegsBut A s t) {r : Reg} (hr : A r) (b : Nat) : RegsBut A s (t.setBit r b) := h.setReg hr _

theorem clrBit (h : RegsBut A s t) {r : Reg} (hr : A r) (b : Nat) : RegsBut A s (t.clrBit r b) := h.setReg hr _

theorem countF (h : RegsBut A s t) {r : Reg} (hr : A r) (lo w n : Nat) : RegsBut A s (t.countF r lo w n) := h.setReg hr _

theorem log (h : RegsBut A s t) (code sev die node tenant d0 d1 : Nat) :
    RegsBut A s (t.log code sev die node tenant d0 d1) := h.of_only (only_log t ..)

theorem raise (h : RegsBut A s t) (n : Nat) : RegsBut A s (t.raise n) := h.of_only (only_raise t n)

theorem fold {α : Type} (f : State → α → State) (l : List α) (h : RegsBut A s t)
    (hf : ∀ x a, a ∈ l → RegsBut A s x → RegsBut A s (f x a)) : RegsBut A s (l.foldl f t) :=
  foldl_keeps (RegsBut A s) f l t h hf

theorem mono {B : Reg → Prop} (h : RegsBut A s t) (hAB : ∀ r, A r → B r) : RegsBut B s t :=
  ⟨h.make, fun q hq => h.reg q fun r hr => hq r (hAB r hr)⟩

/-- R417: only counts of the unit change, and of a unit only those it has. -/
theorem ctr (h : RegsBut A s t) (u code n : Nat) (hA : ∀ i, i < unitCtrs u → A (.ctrVal u i)) :
    RegsBut A s (t.ctr u code n) := by
  unfold State.ctr
  refine h.fold _ _ fun x i hi hx => ?_
  split
  · exact hx.setReg (hA i (List.mem_range.1 hi)) _
  · exact hx

end RegsBut

/-! ### Accesses to memory -/

/-- The registers of an access to memory: the counters and states of controllers, beds and crossbars. -/
def memoryTouches : Reg → Prop
  | .ctrVal u n => n < unitCtrs u
  | .memChstat _ c | .memChce _ c | .memChue _ c | .memChpoison _ c => c < 16
  | .memStat _ | .memInject _ | .bedCe _ | .bedUe _ | .bedLastue _ | .fabStat _ | .fabDiscard _ => True
  | _ => False

/-- The channel of a place in external memory is one of the stack's. -/
def Loc.chanOk : Loc → Prop
  | .ext _ c _ => c < 16
  | _ => True

theorem chan_lt_of_chanList {s : State} {n c : Nat} (h : (n, c) ∈ s.chanList) : c < 16 := by
  simp only [State.chanList, List.mem_flatMap, List.mem_map, List.mem_range, Prod.mk.injEq] at h
  obtain ⟨c', hc, _, _, _, rfl⟩ := h
  exact hc

theorem extLoc_chanOk (s : State) (a : Nat) : (s.extLoc a).chanOk := by
  unfold State.extLoc
  dsimp only
  split
  · split
    · next n c hget =>
      have hc : c < 16 := chan_lt_of_chanList (List.mem_of_getElem? hget)
      split
      · trivial
      · exact hc
    · trivial
  · trivial

theorem locate_chanOk (s : State) (a : Nat) : (s.locate a).chanOk := by
  unfold State.locate
  dsimp only
  split_ifs
  · exact extLoc_chanOk s _
  all_goals trivial

section
variable {s0 : State}

theorem touched_reportChannel (s : State) (n c : Nat) (h : RegsBut memoryTouches s0 s) :
    RegsBut memoryTouches s0 (s.reportChannel n c) :=
  h.of_only (only_State_reportChannel (Ps := [.mbox]) s n c (Only.refl s) (by decide))

theorem touched_channelFail (s : State) (n c trigger : Nat) (hc : c < 16) (h : RegsBut memoryTouches s0 s) :
    RegsBut memoryTouches s0 (s.channelFail n c trigger) := by
  have upd : ∀ x p, RegsBut memoryTouches s0 x → RegsBut memoryTouches s0 { x with chanPoisoned := p, fpDirty := true } :=
    fun x p hx => hx.of_regs rfl rfl
  unfold State.channelFail
  split
  · exact h
  · refine touched_reportChannel _ n c (upd _ _ ((((h.setF ?_ _ _ _).setBit ?_ _).raise _).log ..))
    · exact hc
    · trivial

theorem touched_countBad (s : State) (n c sector : Nat) (address : Bool) (hc : c < 16) (h : RegsBut memoryTouches s0 s) :
    RegsBut memoryTouches s0 (s.countBad n c sector address) := by
  have hset : ∀ x, RegsBut memoryTouches s0 (s.setStack n x) := fun x => h.of_regs rfl rfl
  unfold State.countBad
  dsimp only
  split_ifs
  · exact touched_channelFail _ n c 1 hc (hset _)
  · exact touched_channelFail _ n c 2 hc (hset _)
  · exact hset _

theorem touched_countOutcome (s : State) (l : Loc) (o : SectorOutcome) (hl : l.chanOk) (h : RegsBut memoryTouches s0 s) :
    RegsBut memoryTouches s0 (s.countOutcome l o) := by
  unfold State.countOutcome
  split
  · exact (h.countF (by exact hl) _ _ _).ctr _ _ _ fun i hi => hi
  · exact (h.countF (by exact hl) _ _ _).setBit (by trivial) _
  · exact ((h.countF (by exact hl) _ _ _).setF (by exact hl) _ _ _).setBit (by trivial) _
  · exact ((h.countF (by exact hl) _ _ _).setF (by exact hl) _ _ _).setBit (by trivial) _
  · exact h.countF (by trivial) _ _ _
  · exact h.countF (by trivial) _ _ _
  · exact (h.countF (by trivial) _ _ _).setReg (by trivial) _
  · exact (h.countF (by trivial) _ _ _).setReg (by trivial) _
  · exact h

theorem touched_countToward (s : State) (l : Loc) (o : SectorOutcome) (hl : l.chanOk) (h : RegsBut memoryTouches s0 s) :
    RegsBut memoryTouches s0 (s.countToward l o) := by
  unfold State.countToward
  split
  · exact touched_countBad s _ _ _ true hl h
  · exact touched_countBad s _ _ _ false hl h
  · exact h

theorem touched_storePoison (s : State) (l : Loc) (a : Nat) (h : RegsBut memoryTouches s0 s) :
    RegsBut memoryTouches s0 (s.storePoison l a) := h.of_regs rfl rfl

theorem touched_storeClean (s : State) (l : Loc) (a : Nat) (data : List Byte) (hl : l.chanOk)
    (h : RegsBut memoryTouches s0 s) : RegsBut memoryTouches s0 (s.storeClean l a data) := by
  have hplain : RegsBut memoryTouches s0 { s with mem := wrBytes s.mem a data, checks := removeKey (a / 64) s.checks } :=
    h.of_regs rfl rfl
  have hinj : ∀ n, RegsBut memoryTouches s0 (s.clrBit (.memInject n) 63) := fun n => h.clrBit (by trivial) _
  have hraw : ∀ (x : State) d k, RegsBut memoryTouches s0 x → RegsBut memoryTouches s0 (x.storeRaw l a d k) :=
    fun x d k hx => hx.of_regs rfl rfl
  unfold State.storeClean
  dsimp only
  split
  · split_ifs
    · exact h.countF (by exact hl) _ _ _
    · split
      · exact hraw _ _ _ (hinj _)
      · exact hraw _ _ _ (hinj _)
      · exact hraw _ _ _ (hinj _)
      · exact hraw _ _ _ (hinj _)
      · exact touched_storePoison _ _ _ (hinj _)
      · exact hplain.clrBit (by trivial) _
    · exact hplain.ctr _ _ _ fun i hi => hi
  · exact hplain
  · exact h

theorem touched_mergeSector (s : State) (l : Loc) (a o : Nat) (bs : List Byte) (tenant : Nat) (hl : l.chanOk)
    (h : RegsBut memoryTouches s0 s) : RegsBut memoryTouches s0 (s.mergeSector l a o bs tenant) := by
  have upd : ∀ x m k, RegsBut memoryTouches s0 x → RegsBut memoryTouches s0 { x with mem := m, checks := k } :=
    fun x m k hx => hx.of_regs rfl rfl
  have hcount := touched_countOutcome s l (s.decodeAt l a).outcome hl h
  unfold State.mergeSector
  dsimp only
  split_ifs
  · split
    · exact h.countF (by exact hl) _ _ _
    · exact h
  · exact touched_countToward _ l _ hl ((touched_storePoison _ l a hcount).log ..)
  · exact upd _ _ _ hcount

theorem touched_writeRaw (s : State) (a tenant : Nat) (bs : List Byte) (fuel : Nat) (h : RegsBut memoryTouches s0 s) :
    RegsBut memoryTouches s0 (s.writeRaw a tenant bs fuel) := by
  induction fuel generalizing s a bs with
  | zero => exact h
  | succ fuel ih =>
    unfold State.writeRaw
    split
    · exact h
    · dsimp only
      refine ih _ _ _ ?_
      split
      · exact touched_storeClean s _ _ _ (locate_chanOk s _) h
      · exact touched_mergeSector s _ _ _ _ tenant (locate_chanOk s _) h

theorem touched_accessError (s : State) (kind node tenant addr : Nat) (h : RegsBut memoryTouches s0 s) :
    RegsBut memoryTouches s0 (s.accessError kind node tenant addr) := h.log ..

theorem touched_discard (s : State) (reason src target tenant addr : Nat) (h : RegsBut memoryTouches s0 s) :
    RegsBut memoryTouches s0 (s.discard reason src target tenant addr) := by
  have hcount : ∀ d, RegsBut memoryTouches s0 ((s.countF (.fabDiscard d) 0 32 1).setBit (.fabStat d) 0) :=
    fun d => (h.countF (by trivial) _ _ _).setBit (by trivial) _
  unfold State.discard
  dsimp only
  split
  · exact ((hcount _).log ..).raise _
  · exact (hcount _).log ..

theorem touched_writeMem (s : State) (a tenant node : Nat) (bs : List Byte) (h : RegsBut memoryTouches s0 s) :
    RegsBut memoryTouches s0 (s.writeMem a tenant node bs).1 := by
  unfold State.writeMem
  split
  · exact touched_writeRaw s a tenant bs _ h
  · exact touched_accessError s _ _ _ _ h
  · exact touched_discard s _ _ _ _ _ h

theorem touched_readSector (s : State) (a tenant : Nat) (h : RegsBut memoryTouches s0 s) :
    RegsBut memoryTouches s0 (s.readSector a tenant).1 := by
  have hcount := touched_countOutcome s (s.locate a) (s.decodeAt (s.locate a) a).outcome (locate_chanOk s a) h
  unfold State.readSector
  dsimp only
  split
  · exact touched_countToward _ _ _ (locate_chanOk s a) (hcount.log ..)
  · exact hcount

theorem touched_readRaw (s : State) (a n tenant : Nat) (h : RegsBut memoryTouches s0 s) :
    RegsBut memoryTouches s0 (s.readRaw a n tenant).s :=
  foldl_keeps (fun x : State × Bool × List Byte => RegsBut memoryTouches s0 x.1) _ (sectorsOf a n) (s, false, []) h
    fun x q _ hx => touched_readSector x.1 q tenant hx

theorem touched_readMem (s : State) (a n tenant node : Nat) (h : RegsBut memoryTouches s0 s) :
    RegsBut memoryTouches s0 (s.readMem a n tenant node).s := by
  unfold State.readMem
  split
  · exact touched_readRaw s a n tenant h
  · exact touched_accessError s _ _ _ _ h
  · exact h

end

/-! ### Registers out of their reach -/

theorem Reg.memChstat_off (n c : Nat) : (Reg.memChstat n c).off = blk n + 0x300100 + c * 16 := rfl
theorem Reg.memChce_off (n c : Nat) : (Reg.memChce n c).off = blk n + 0x300104 + c * 16 := rfl
theorem Reg.memChue_off (n c : Nat) : (Reg.memChue n c).off = blk n + 0x300108 + c * 16 := rfl
theorem Reg.memChpoison_off (n c : Nat) : (Reg.memChpoison n c).off = blk n + 0x30010C + c * 16 := rfl
theorem Reg.memStat_off (n : Nat) : (Reg.memStat n).off = blk n + 0x300000 := rfl
theorem Reg.memInject_off (n : Nat) : (Reg.memInject n).off = blk n + 0x300020 := rfl
theorem Reg.fabStat_off (d : Nat) : (Reg.fabStat d).off = blk d + 0x200000 := rfl
theorem Reg.fabDiscard_off (d : Nat) : (Reg.fabDiscard d).off = blk d + 0x200008 := rfl
theorem Reg.bedCe_off (k : Nat) : (Reg.bedCe k).off = coreBlk k + 0x104C := rfl
theorem Reg.bedUe_off (k : Nat) : (Reg.bedUe k).off = coreBlk k + 0x1050 := rfl
theorem Reg.bedLastue_off (k : Nat) : (Reg.bedLastue k).off = coreBlk k + 0x1054 := rfl

/-- Every count of a unit lies past the first MiB of its die's block. -/
theorem ctrVal_off_high {u n : Nat} (h : n < unitCtrs u) : 0x100000 ≤ (Reg.ctrVal u n).off % 0x400000 := by
  rw [Reg.ctrVal_off]
  unfold unitVals coreBlk portBlk blk
  unfold unitCtrs at h
  split_ifs at h ⊢ <;> omega

/-- So do the registers that an access to memory can touch. -/
theorem memoryTouches_high {r : Reg} (h : memoryTouches r) : 0x100000 ≤ r.off % 0x400000 := by
  cases r with
  | ctrVal u n => exact ctrVal_off_high h
  | memChstat n c => rw [Reg.memChstat_off, blk]; change c < 16 at h; omega
  | memChce n c => rw [Reg.memChce_off, blk]; change c < 16 at h; omega
  | memChue n c => rw [Reg.memChue_off, blk]; change c < 16 at h; omega
  | memChpoison n c => rw [Reg.memChpoison_off, blk]; change c < 16 at h; omega
  | memStat n => rw [Reg.memStat_off, blk]; omega
  | memInject n => rw [Reg.memInject_off, blk]; omega
  | fabStat d => rw [Reg.fabStat_off, blk]; omega
  | fabDiscard d => rw [Reg.fabDiscard_off, blk]; omega
  | bedCe k => rw [Reg.bedCe_off, coreBlk, blk]; omega
  | bedUe k => rw [Reg.bedUe_off, coreBlk, blk]; omega
  | bedLastue k => rw [Reg.bedLastue_off, coreBlk, blk]; omega
  | _ => exact h.elim

/-- Registers in the first MiB of a die's block are out of reach of an access to memory. -/
theorem RegsBut.reg_low {s t : State} (h : RegsBut memoryTouches s t) {q : Reg} (hq : q.off % 0x400000 < 0x100000) :
    t.reg q = s.reg q :=
  h.reg q fun r hr he => absurd (memoryTouches_high hr) (by omega)

end Sys2Proof.Machine
end

section
/-! Trace (R420 to R422). -/

namespace Sys2Proof.Machine

theorem Reg.trcWr_off (t : Nat) : (Reg.trcWr t).off = blk t + 0xC00 := rfl
theorem Reg.trcRd_off (t : Nat) : (Reg.trcRd t).off = blk t + 0xC04 := rfl
theorem Reg.trcDrop_off (t : Nat) : (Reg.trcDrop t).off = blk t + 0xC08 := rfl
theorem Reg.trcClass_off (t : Nat) : (Reg.trcClass t).off = blk t + 0xC10 := rfl

/-- The ring registers of tower `w`. -/
inductive OfRing (w : Nat) : Reg → Prop where
  | wr : OfRing w (.trcWr w)
  | rd : OfRing w (.trcRd w)
  | drop : OfRing w (.trcDrop w)
  | cls : OfRing w (.trcClass w)

theorem OfRing.bounds {w : Nat} {q : Reg} (h : OfRing w q) : blk w + 0xC00 ≤ q.off ∧ q.off ≤ blk w + 0xC10 := by
  cases h
  · rw [Reg.trcWr_off]; omega
  · rw [Reg.trcRd_off]; omega
  · rw [Reg.trcDrop_off]; omega
  · rw [Reg.trcClass_off]; omega

theorem OfRing.low {w : Nat} {q : Reg} (h : OfRing w q) : q.off % 0x400000 < 0x100000 := by
  have := h.bounds
  unfold blk at this
  omega

theorem OfRing.off_ne {v w : Nat} {q r : Reg} (hq : OfRing w q) (hr : OfRing v r) (h : w ≠ v) : q.off ≠ r.off := by
  have h1 := hq.bounds
  have h2 := hr.bounds
  unfold blk at h1 h2
  omega

/-- Whatever happens between other towers' steps, tower `w`'s turn comes once: `P` is what it finds, `Q` what it leaves. -/
theorem foldl_turn {σ α : Type} (P Q : σ → Prop) (f : σ → α → σ) (l : List α) (init : σ) (a : α) (ha : a ∈ l) (hn : l.Nodup)
    (hP : ∀ x b, b ≠ a → P x → P (f x b)) (hPQ : ∀ x, P x → Q (f x a)) (hQ : ∀ x b, b ≠ a → Q x → Q (f x b)) (h : P init) :
    Q (l.foldl f init) := by
  induction l generalizing init with
  | nil => exact (List.not_mem_nil ha).elim
  | cons b l ih =>
    obtain ⟨hb, hn⟩ := List.nodup_cons.1 hn
    rw [List.foldl_cons]
    rcases List.mem_cons.1 ha with rfl | ha
    · exact foldl_keeps Q f l _ (hPQ init h) fun x c hc => hQ x c fun e => hb (e ▸ hc)
    · exact ih _ ha hn (hP init b (fun e => hb (e ▸ ha)) h)

/-! ### The drops of a tower -/

theorem State.drops_setDrops (s : State) (t : Nat) (l : List Nat) (w : Nat) :
    (s.setDrops t l).drops w = if w = t then l else s.drops w := look_put _ _ _ _ _

theorem State.drops_congr {s t : State} (h : t.traceDrops = s.traceDrops) : t.drops = s.drops := by
  funext w
  rw [State.drops, State.drops, h]

theorem State.drops_setReg (s : State) (r : Reg) (v : DWord) : (s.setReg r v).drops = s.drops := State.drops_congr rfl

theorem State.drops_countF (s : State) (r : Reg) (lo w n : Nat) : (s.countF r lo w n).drops = s.drops := State.drops_congr rfl

theorem State.reg_setDrops (s : State) (t : Nat) (l : List Nat) : (s.setDrops t l).reg = s.reg := State.reg_congr rfl rfl

/-! ### Storing and dropping a record -/

theorem regF_traceStore (s : State) (t : Nat) (bs : List Byte) :
    (s.traceStore t bs).regF (.trcWr t) 0 21 = (s.regF (.trcWr t) 0 21 + 1) % 2097152 := by
  rw [State.traceStore, State.regF_setF_same _ _ _ _ _ (by decide)]
  exact Nat.mod_mod _ _

theorem reg_traceStore_ne (s : State) (t : Nat) (bs : List Byte) {q : Reg} (hlow : q.off % 0x400000 < 0x100000)
    (hne : q.off ≠ (Reg.trcWr t).off) : (s.traceStore t bs).reg q = s.reg q := by
  rw [State.traceStore, State.reg_setF_ne _ _ _ _ _ _ hne]
  exact (touched_writeMem s _ _ _ bs (.refl s)).reg_low hlow

theorem drops_traceStore (s : State) (t : Nat) (bs : List Byte) : (s.traceStore t bs).drops = s.drops :=
  State.drops_congr ((only_State_traceStore (Ps := [.mem, .checks, .fpDirty, .chanPoisoned, .hbm, .ic, .flog0, .flog1, .mbox])
    (Ks := RegKind.all) s t bs (Only.refl s) (List.Subset.refl _) fun k _ => RegKind.mem_all k).part .traceDrops (by decide))

theorem reg_traceDrop_ne (s : State) (t : Nat) {q : Reg} (hne : q.off ≠ (Reg.trcDrop t).off) :
    (s.traceDrop t).reg q = s.reg q := by
  rw [State.traceDrop, State.reg_setDrops]
  exact s.reg_setF_ne _ _ _ _ _ hne

theorem regF_traceDrop (s : State) (t : Nat) :
    (s.traceDrop t).regF (.trcDrop t) 0 32 = min 0xFFFFFFFF (s.regF (.trcDrop t) 0 32 + 1) := by
  rw [State.traceDrop, State.regF_congr (congrFun (State.reg_setDrops _ _ _) _) 0 32, State.regF_countF _ _ _ _ _ (by decide)]
  rfl

theorem drops_traceDrop_ne (s : State) (t : Nat) {w : Nat} (h : w ≠ t) : (s.traceDrop t).drops w = s.drops w := by
  rw [State.traceDrop, State.drops_setDrops, if_neg h, State.drops_countF]

theorem drops_traceDrop_first (s : State) (t : Nat) (h : s.drops t = []) :
    (s.traceDrop t).drops t = [s.tb.count, s.tb.count, 1] := by
  rw [State.traceDrop, State.drops_setDrops, if_pos rfl, h]

theorem traceLoss_none (s : State) (t : Nat) (h : s.drops t = []) : s.traceLoss t = s := by
  rw [State.traceLoss, h]

/-- What another tower's step leaves of ring `w`. -/
structure RingKept (w : Nat) (s u : State) : Prop where
  reg : ∀ q, OfRing w q → u.reg q = s.reg q
  drops : u.drops w = s.drops w

theorem RingKept.refl (w : Nat) (s : State) : RingKept w s s := ⟨fun _ _ => rfl, rfl⟩

theorem RingKept.trans {w : Nat} {s u v : State} (h : RingKept w s u) (k : RingKept w u v) : RingKept w s v :=
  ⟨fun q hq => (k.reg q hq).trans (h.reg q hq), k.drops.trans h.drops⟩

theorem ringKept_lossRecords (w : Nat) (s : State) (n : Nat) : RingKept w s { s with lossRecords := n } :=
  ⟨fun q _ => congrFun (State.reg_congr rfl rfl) q, rfl⟩

theorem ringKept_traceStore (s : State) (t : Nat) (bs : List Byte) {w : Nat} (h : w ≠ t) : RingKept w s (s.traceStore t bs) :=
  ⟨fun _ hq => reg_traceStore_ne s t bs hq.low (hq.off_ne .wr h), congrFun (drops_traceStore s t bs) w⟩

theorem ringKept_traceDrop (s : State) (t : Nat) {w : Nat} (h : w ≠ t) : RingKept w s (s.traceDrop t) :=
  ⟨fun _ hq => reg_traceDrop_ne s t (hq.off_ne .drop h), drops_traceDrop_ne s t h⟩

theorem ringKept_traceLoss (s : State) (t : Nat) {w : Nat} (h : w ≠ t) : RingKept w s (s.traceLoss t) := by
  unfold State.traceLoss
  split
  · refine ((ringKept_traceStore s t _ h).trans ⟨fun q _ => congrFun (State.reg_setDrops _ _ _) q, ?_⟩).trans
      (ringKept_lossRecords _ _ _)
    rw [State.drops_setDrops, if_neg h]
  · exact .refl w s

theorem ringKept_traceWrite (s : State) (t : Nat) (bs : List Byte) {w : Nat} (h : w ≠ t) : RingKept w s (s.traceWrite t bs) := by
  unfold State.traceWrite
  dsimp only
  split_ifs
  · exact ringKept_traceDrop s t h
  · exact (ringKept_traceLoss s t h).trans (ringKept_traceStore _ t bs h)
  · exact (ringKept_traceLoss s t h).trans (ringKept_traceDrop _ t h)

theorem traceWrite_full (s : State) (t : Nat) (bs : List Byte)
    (h : (s.regF (.trcWr t) 0 21 + 1) % 2097152 = s.regF (.trcRd t) 0 21) : s.traceWrite t bs = s.traceDrop t :=
  if_pos (by simp [State.traceRoom, traceRecords, h])

theorem traceWrite_room (s : State) (t : Nat) (bs : List Byte)
    (h : (s.regF (.trcWr t) 0 21 + 1) % 2097152 ≠ s.regF (.trcRd t) 0 21) (hd : s.drops t = []) :
    s.traceWrite t bs = s.traceStore t bs := by
  have hr : s.traceRoom t = true := decide_eq_true h
  rw [State.traceWrite, if_neg (by rw [hr]; decide), traceLoss_none s t hd]
  exact if_pos hr

/-! ### TRACE_RECORD -/

theorem traceRecord_enabled (t : Nat) (r : TraceBody) (s : State) (hon : (s.dom t).state = .on)
    (hc : s.regBit (.trcClass t) r.cls.toNat = true) : traceRecord t r s = s.traceWrite t
      (traceBytes s.tb.count r.kind.toNat r.unit.toNat r.cls.toNat r.tenant.toNat r.a.toNat r.b.toNat) :=
  if_pos (by rw [hon, hc]; rfl)

theorem only_traceDrop (s : State) (t : Nat) : Only [.traceDrops] [.trcDrop] s (s.traceDrop t) :=
  only_State_traceDrop s t (Only.refl s) (List.Subset.refl _) (List.Subset.refl _)

theorem traceRecord_clauses (tower : Fin 8) (r : TraceBody) (s : State) :
    ((s.dom tower.val).state ≠ .on ∨ s.regBit (.trcClass tower.val) r.cls.toNat = false →
      exec (.traceRecord tower r) s = .next s) ∧
    ((s.dom tower.val).state = .on → s.regBit (.trcClass tower.val) r.cls.toNat = true →
      (s.regF (.trcWr tower.val) 0 21 + 1) % 2097152 = s.regF (.trcRd tower.val) 0 21 → s.drops tower.val = [] →
      ∃ t, exec (.traceRecord tower r) s = .next t ∧ Only [.traceDrops] [.trcDrop] s t ∧
        t.drops tower.val = [s.tb.count, s.tb.count, 1] ∧
        t.regF (.trcDrop tower.val) 0 32 = min 0xFFFFFFFF (s.regF (.trcDrop tower.val) 0 32 + 1)) ∧
    ((s.dom tower.val).state = .on → s.regBit (.trcClass tower.val) r.cls.toNat = true →
      (s.regF (.trcWr tower.val) 0 21 + 1) % 2097152 ≠ s.regF (.trcRd tower.val) 0 21 → s.drops tower.val = [] →
      ∃ t, exec (.traceRecord tower r) s = .next t ∧
        t.regF (.trcWr tower.val) 0 21 = (s.regF (.trcWr tower.val) 0 21 + 1) % 2097152 ∧
        t.drops tower.val = [] ∧ ∀ w, w ≠ tower.val → t.reg (.trcWr w) = s.reg (.trcWr w)) := by
  have hexec : exec (.traceRecord tower r) s = .next (traceRecord tower.val r s) := rfl
  refine ⟨fun h => ?_, fun hon hc hfull hd => ?_, fun hon hc hroom hd => ?_⟩
  · rw [hexec, traceRecord, if_neg]
    rcases h with h | h <;> simp [h]
  · rw [traceRecord_enabled _ r s hon hc, traceWrite_full s _ _ hfull] at hexec
    exact ⟨_, hexec, only_traceDrop s _, drops_traceDrop_first s _ hd, regF_traceDrop s _⟩
  · rw [traceRecord_enabled _ r s hon hc, traceWrite_room s _ _ hroom hd] at hexec
    exact ⟨_, hexec, regF_traceStore s _ _, (congrFun (drops_traceStore s _ _) _).trans hd,
      fun w hw => (ringKept_traceStore s _ _ hw).reg _ .wr⟩

/-! ### The towers of a TRACE slip -/

theorem mem_traceTowers (s : State) (x : Slip) (w : Nat) :
    w ∈ s.traceTowers x ↔ w < 8 ∧ nbit (x.f 9 1) w = true ∧ (s.dom w).state = .on := by
  simp [State.traceTowers]

theorem nodup_traceTowers (s : State) (x : Slip) : (s.traceTowers x).Nodup := List.nodup_range.filter _

/-! ### TRACE_START -/

/-- An empty ring, and the classes that go to it. -/
def armRing (classes : Nat) (s : State) (t : Nat) : State :=
  ((((s.setReg (.trcWr t) 0).setReg (.trcRd t) 0).setReg (.trcDrop t) 0).setReg (.trcClass t)
    (BitVec.ofNat 64 classes)).setDrops t []

theorem reg_armRing (classes : Nat) (s : State) (t : Nat) (q : Reg) : (armRing classes s t).reg q =
    if q.off = blk t + 0xC10 then BitVec.ofNat 64 classes else if q.off = blk t + 0xC08 then 0
    else if q.off = blk t + 0xC04 then 0 else if q.off = blk t + 0xC00 then 0 else s.reg q := by
  rw [armRing, State.reg_setDrops, State.reg_setReg, State.reg_setReg, State.reg_setReg, State.reg_setReg, Reg.trcWr_off,
    Reg.trcRd_off, Reg.trcDrop_off, Reg.trcClass_off]

/-- The ring of tower `w` is empty and takes the classes. -/
def ringArmed (classes w : Nat) (s : State) : Prop :=
  s.reg (.trcWr w) = 0 ∧ s.reg (.trcRd w) = 0 ∧ s.reg (.trcDrop w) = 0 ∧ s.reg (.trcClass w) = BitVec.ofNat 64 classes

theorem ringArmed_armRing (classes : Nat) (s : State) (t : Nat) : ringArmed classes t (armRing classes s t) := by
  simp [ringArmed, reg_armRing, Reg.trcWr_off, Reg.trcRd_off, Reg.trcDrop_off, Reg.trcClass_off]

theorem ringKept_armRing (classes : Nat) (s : State) (t : Nat) {w : Nat} (h : w ≠ t) : RingKept w s (armRing classes s t) := by
  constructor
  · intro q hq
    rw [armRing, State.reg_setDrops, State.reg_setReg_ne _ _ _ _ (hq.off_ne .cls h),
      State.reg_setReg_ne _ _ _ _ (hq.off_ne .drop h), State.reg_setReg_ne _ _ _ _ (hq.off_ne .rd h),
      State.reg_setReg_ne _ _ _ _ (hq.off_ne .wr h)]
  · rw [armRing, State.drops_setDrops, if_neg h]
    simp only [State.drops_setReg]

theorem RingKept.armed {classes w : Nat} {s u : State} (k : RingKept w s u) (h : ringArmed classes w s) :
    ringArmed classes w u := by
  obtain ⟨h1, h2, h3, h4⟩ := h
  exact ⟨(k.reg _ .wr).trans h1, (k.reg _ .rd).trans h2, (k.reg _ .drop).trans h3, (k.reg _ .cls).trans h4⟩

/-- A fold over towers leaves the rings of the others. -/
theorem ringKept_foldl (f : State → Nat → State) (hf : ∀ x t w, w ≠ t → RingKept w x (f x t)) (l : List Nat) (s : State) {w : Nat}
    (hw : w ∉ l) : RingKept w s (l.foldl f s) :=
  foldl_keeps (RingKept w s) f l s (.refl w s) fun x t ht h => h.trans (hf x t w fun e => hw (e ▸ ht))

theorem ringKept_of_only {Ps : List Piece} {s u : State} (h : Only Ps [] s u) (hd : u.traceDrops = s.traceDrops) (w : Nat) :
    RingKept w s u := ⟨fun q _ => h.reg_eq q, congrFun (State.drops_congr hd) w⟩

/-- The state that TRACE_START answers in. -/
def traceArmed (x : Slip) (s : State) : State :=
  { (s.traceTowers x).foldl (armRing (x.f 0x10 8)) (s.setSeg 0 15 s.traceSeg) with lossRecords := 0 }

theorem traceStartAct_fresh {x : Slip} {s : State} (hc : x.f 0x10 8 < 1024) (hseg : s.seg? 0 15 = none) :
    traceStartAct x s = (traceArmed x s).answer x stOk (leBytes 8 0) := by
  unfold traceStartAct
  rw [hseg]
  exact (if_neg (by omega)).trans (if_neg Bool.false_ne_true)

theorem exec_traceStart {x : Slip} {s : State} (h : Claims.accepted s x 0xC traceFields = true) (h1 : x.f 8 1 = 1)
    (ht : x.t = 0) : exec (.traceStart x) s = .next (traceStartAct x (s.take x)) :=
  congrArg Host.Outcome.next ((if_neg (not_not_intro h1)).trans (State.withSlip_accepted h fun _ => ht))

theorem exec_traceStop {x : Slip} {s : State} (h : Claims.accepted s x 0xC traceFields = true) (h0 : x.f 8 1 = 0)
    (ht : x.t = 0) : exec (.traceStop x) s = .next (traceStopAct x (s.take x)) :=
  congrArg Host.Outcome.next ((if_neg (by simp [h0])).trans (State.withSlip_accepted h fun _ => ht))

theorem exec_traceFlush {x : Slip} {s : State} (h : Claims.accepted s x 0xC traceFields = true) (h2 : x.f 8 1 = 2)
    (ht : x.t = 0) : exec (.traceFlush x) s = .next (traceFlushAct x (s.take x)) :=
  congrArg Host.Outcome.next ((if_neg (not_not_intro h2)).trans (State.withSlip_accepted h fun _ => ht))

theorem only_foldl_armRing (classes : Nat) (l : List Nat) (s : State) :
    Only [.traceDrops] [.trcWr, .trcRd, .trcDrop, .trcClass] s (l.foldl (armRing classes) s) :=
  have k : ∀ {r : Reg}, r.kind ∈ [RegKind.trcWr, .trcRd, .trcDrop, .trcClass] → ∀ {x : State} v,
      Only [.traceDrops] [.trcWr, .trcRd, .trcDrop, .trcClass] s x →
      Only [.traceDrops] [.trcWr, .trcRd, .trcDrop, .trcClass] s (x.setReg r v) := fun hr _ v h => only_State_setReg _ _ v hr h
  foldl_keeps _ _ l s (Only.refl s) fun x t _ h => only_State_setDrops _ t []
    (k (List.elem_iff.mp rfl) _ (k (List.elem_iff.mp rfl) _ (k (List.elem_iff.mp rfl) _ (k (List.elem_iff.mp rfl) _ h)))) (by decide)

/-- What TRACE_START leaves in the rings, in the segment table and in the mailbox. -/
theorem traceArmed_facts (x : Slip) (s : State) :
    let t := traceArmed x s
    t.mbox = s.mbox ∧ t.seg? 0 15 = some s.traceSeg ∧ t.lossRecords = 0 ∧
      ∀ w, (w ∈ s.traceTowers x → ringArmed (x.f 0x10 8) w t) ∧ (w ∉ s.traceTowers x → RingKept w s t) := by
  intro t
  have hfold := only_foldl_armRing (x.f 0x10 8) (s.traceTowers x) (s.setSeg 0 15 s.traceSeg)
  have hset := only_State_setSeg (Ps := [.segs]) (Ks := []) s 0 15 s.traceSeg (Only.refl s) (by decide)
  have hring : ∀ w, (w ∈ s.traceTowers x → ringArmed (x.f 0x10 8) w
        ((s.traceTowers x).foldl (armRing (x.f 0x10 8)) (s.setSeg 0 15 s.traceSeg))) ∧
      (w ∉ s.traceTowers x → RingKept w s ((s.traceTowers x).foldl (armRing (x.f 0x10 8)) (s.setSeg 0 15 s.traceSeg))) := by
    refine fun w => ⟨fun hw => ?_, fun hw => ?_⟩
    · exact foldl_turn (fun _ => True) (ringArmed (x.f 0x10 8) w) _ _ _ w hw (nodup_traceTowers s x)
        (fun _ _ _ _ => trivial) (fun y _ => ringArmed_armRing _ y w) (fun y b hb h => (ringKept_armRing _ y b hb.symm).armed h)
        trivial
    · exact (ringKept_of_only hset (hset.part .traceDrops (by decide)) w).trans
        (ringKept_foldl _ (fun y b v hv => ringKept_armRing _ y b hv) _ _ hw)
  refine ⟨hfold.part .mbox (by decide), ?_, rfl, fun w => ⟨fun hw => ?_, fun hw => ?_⟩⟩
  · exact (congrFun (congrFun (State.seg_congr (hfold.part .segs (by decide))) 0) 15).trans (s.seg?_setSeg_same 0 15 _)
  · exact (ringKept_lossRecords w _ 0).armed ((hring w).1 hw)
  · exact ((hring w).2 hw).trans (ringKept_lossRecords w _ 0)

/-- What the answer to a slip leaves of a ring. -/
theorem ringKept_answer (s : State) (x : Slip) (status : Nat) (body : List Byte) (w : Nat) :
    RingKept w s (s.answer x status body) := by
  have h := only_State_answer (Ps := [.mbox, .progress, .watchdogs]) (Ks := []) s x status body (Only.refl s) (by decide)
  exact ringKept_of_only h (h.part .traceDrops (by decide)) w

theorem ringKept_take (s : State) (x : Slip) (w : Nat) : RingKept w s (s.take x) :=
  ringKept_of_only (only_take s x) rfl w

theorem traceTowers_take (s : State) (x : Slip) : (s.take x).traceTowers x = s.traceTowers x := rfl

theorem trace_starts (x : Slip) (s : State) (hacc : Claims.accepted s x 0xC traceFields = true) (ht : x.t = 0)
    (hc : x.f 0x10 8 < 1024) (h1 : x.f 8 1 = 1) (hseg : s.seg? 0 15 = none) : ∃ t, exec (.traceStart x) s = .next t ∧
      Only [.mbox, .segs, .progress, .watchdogs, .traceDrops, .lossRecords] [.trcWr, .trcRd, .trcDrop, .trcClass] s t ∧
      t.seg? 0 15 = some s.traceSeg ∧ t.lossRecords = 0 ∧ Claims.answered (s.mb x.t) s t x 0 (leBytes 8 0) ∧
      ∀ w, (w ∈ s.traceTowers x → ringArmed (x.f 0x10 8) w t) ∧ (w ∉ s.traceTowers x → RingKept w s t) := by
  have he := exec_traceStart hacc h1 ht
  rw [traceStartAct_fresh (s := s.take x) hc hseg] at he
  refine ⟨_, he, Only.ofExec (only_execTraceStart x s) he, ?_⟩
  clear he
  obtain ⟨hmb, hsg, hloss, hring⟩ := traceArmed_facts x (s.take x)
  rw [traceTowers_take] at hring
  generalize traceArmed x (s.take x) = u at hmb hsg hloss hring ⊢
  have hk := only_State_answer (Ps := [.mbox, .progress, .watchdogs]) (Ks := []) u x stOk (leBytes 8 0) (Only.refl u) (by decide)
  have ha := ringKept_answer u x stOk (leBytes 8 0)
  exact ⟨(congrFun (congrFun (State.seg_congr (hk.part .segs (by decide))) 0) 15).trans hsg,
    (hk.part .lossRecords (by decide)).trans hloss, answered_after_take stOk _ hmb,
    fun w => ⟨fun hw => (ha w).armed ((hring w).1 hw), fun hw => ((ringKept_take s x w).trans ((hring w).2 hw)).trans (ha w)⟩⟩

/-! ### TRACE_STOP -/

theorem traceStopAct_eq {x : Slip} (s : State) (h0 : x.f 8 1 = 0) (hc : x.f 0x10 8 < 1024) :
    let u := (s.traceTowers x).foldl (fun s t => s.setReg (.trcClass t) 0) s
    traceStopAct x s = u.answer x stOk (leBytes 8 u.lossRecords) :=
  if_neg (by simp [h0, hc])

theorem only_foldl_stop (l : List Nat) (s : State) :
    Only [] [.trcClass] s (l.foldl (fun s t => s.setReg (.trcClass t) 0) s) :=
  foldl_keeps (Only [] [.trcClass] s) _ l s (Only.refl s) fun _ _ _ h => only_State_setReg _ _ 0 (List.elem_iff.mp rfl) h

theorem reg_foldl_stop (l : List Nat) (hl : l.Nodup) (s : State) (w : Nat) :
    (l.foldl (fun s t => s.setReg (.trcClass t) 0) s).reg (.trcClass w) = if w ∈ l then 0 else s.reg (.trcClass w) := by
  have apart : ∀ (x : State) b, b ≠ w → (x.setReg (.trcClass b) 0).reg (.trcClass w) = x.reg (.trcClass w) :=
    fun x b hb => x.reg_setReg_ne _ _ _ (OfRing.cls.off_ne .cls hb.symm)
  split
  · next hw =>
    exact foldl_turn (fun _ => True) (fun x => x.reg (.trcClass w) = 0) _ l s w hw hl (fun _ _ _ _ => trivial)
      (fun x _ => x.reg_setReg_same _ _) (fun x b hb h => (apart x b hb).trans h) trivial
  · next hw => exact foldl_reading (fun x => x.reg (.trcClass w)) _ l s fun x b hb => apart x b fun e => hw (e ▸ hb)

theorem trace_stops (x : Slip) (s : State) (hacc : Claims.accepted s x 0xC traceFields = true) (ht : x.t = 0)
    (hc : x.f 0x10 8 < 1024) (h0 : x.f 8 1 = 0) : ∃ t, exec (.traceStop x) s = .next t ∧
      Only [.mbox, .progress, .watchdogs] [.trcClass] s t ∧ Claims.answered (s.mb x.t) s t x 0 (leBytes 8 s.lossRecords) ∧
      ∀ w, t.reg (.trcClass w) = if w ∈ s.traceTowers x then 0 else s.reg (.trcClass w) := by
  have he := exec_traceStop hacc h0 ht
  rw [traceStopAct_eq (s.take x) h0 hc] at he
  refine ⟨_, he, Only.ofExec (only_execTraceStop x s) he, ?_⟩
  clear he
  have hfold := only_foldl_stop ((s.take x).traceTowers x) (s.take x)
  have hreg := reg_foldl_stop ((s.take x).traceTowers x) (nodup_traceTowers _ _) (s.take x)
  generalize ((s.take x).traceTowers x).foldl (fun s t => s.setReg (.trcClass t) 0) (s.take x) = u at hfold hreg ⊢
  have hloss : u.lossRecords = s.lossRecords := hfold.part .lossRecords (by decide)
  rw [hloss]
  refine ⟨answered_after_take stOk _ (hfold.part .mbox (by decide)), fun w => ?_⟩
  rw [(ringKept_answer u x stOk _ w).reg _ .cls, hreg w, (ringKept_take s x w).reg _ .cls]
  rfl

/-! ### TRACE_FLUSH -/

theorem traceFlushAct_eq {x : Slip} (s : State) (hc : x.f 0x10 8 < 1024) :
    let u := (s.traceTowers x).foldl (fun s t => s.traceFlush t) s
    traceFlushAct x s = u.answer x stOk (leBytes 8 u.lossRecords) :=
  if_neg (by omega)

theorem ringKept_bumpFree (s : State) (w : Nat) : RingKept w s s.bumpFree :=
  ⟨fun q _ => congrFun (State.reg_congr rfl rfl) q, rfl⟩

theorem ringKept_traceFlush (s : State) (t : Nat) {w : Nat} (h : w ≠ t) : RingKept w s (s.traceFlush t) :=
  (ringKept_bumpFree s w).trans (ringKept_traceWrite _ t _ h)

/-- The next place of a ring: the same while the ring is full. -/
def advanced (wr rd : Nat) : Nat := if (wr + 1) % 2097152 = rd then wr else (wr + 1) % 2097152

theorem regF_traceWrite (s : State) (t : Nat) (bs : List Byte) (hd : s.drops t = []) : (s.traceWrite t bs).regF (.trcWr t) 0 21 =
    advanced (s.regF (.trcWr t) 0 21) (s.regF (.trcRd t) 0 21) := by
  unfold advanced
  split
  · next h =>
    rw [traceWrite_full s t bs h]
    exact State.regF_congr (reg_traceDrop_ne s t (by rw [Reg.trcWr_off, Reg.trcDrop_off]; omega)) 0 21
  · next h =>
    rw [traceWrite_room s t bs h hd]
    exact regF_traceStore s t bs

theorem RingKept.regF {w : Nat} {s u : State} (k : RingKept w s u) {q : Reg} (hq : OfRing w q) (lo n : Nat) :
    u.regF q lo n = s.regF q lo n := State.regF_congr (k.reg q hq) lo n

theorem regF_traceFlush (s : State) (t : Nat) (hd : s.drops t = []) : (s.traceFlush t).regF (.trcWr t) 0 21 =
    advanced (s.regF (.trcWr t) 0 21) (s.regF (.trcRd t) 0 21) := by
  have k := ringKept_bumpFree s t
  rw [State.traceFlush, regF_traceWrite _ t _ (k.drops.trans hd), k.regF .wr, k.regF .rd]

theorem regF_foldl_traceFlush (l : List Nat) (hl : l.Nodup) (s : State) (w : Nat) (hw : w ∈ l) (hd : s.drops w = []) :
    (l.foldl (fun s t => s.traceFlush t) s).regF (.trcWr w) 0 21 =
      advanced (s.regF (.trcWr w) 0 21) (s.regF (.trcRd w) 0 21) :=
  foldl_turn (fun x => RingKept w s x) (fun x => x.regF (.trcWr w) 0 21 =
      advanced (s.regF (.trcWr w) 0 21) (s.regF (.trcRd w) 0 21)) _ l s w hw hl
    (fun x b hb h => h.trans (ringKept_traceFlush x b hb.symm))
    (fun x h => by rw [regF_traceFlush x w (h.drops.trans hd), h.regF .wr, h.regF .rd])
    (fun x b hb h => ((ringKept_traceFlush x b hb.symm).regF .wr 0 21).trans h) (.refl w s)

theorem trace_flushes_none (x : Slip) (s : State) (hacc : Claims.accepted s x 0xC traceFields = true) (ht : x.t = 0)
    (hc : x.f 0x10 8 < 1024) (h2 : x.f 8 1 = 2) (hn : s.traceTowers x = []) : ∃ t, exec (.traceFlush x) s = .next t ∧
      Only [.mbox, .progress, .watchdogs] [] s t ∧ Claims.answered (s.mb x.t) s t x 0 (leBytes 8 s.lossRecords) := by
  have he := exec_traceFlush hacc h2 ht
  rw [traceFlushAct_eq (s.take x) hc, traceTowers_take, hn] at he
  exact ⟨_, he, only_take_answer s x stOk _, answered_take_answer s x stOk _⟩

theorem trace_flushes (x : Slip) (s : State) (hacc : Claims.accepted s x 0xC traceFields = true) (ht : x.t = 0)
    (hc : x.f 0x10 8 < 1024) (h2 : x.f 8 1 = 2) : ∃ t, exec (.traceFlush x) s = .next t ∧
      ∀ w, w ∈ s.traceTowers x → s.drops w = [] → t.regF (.trcWr w) 0 21 =
        advanced (s.regF (.trcWr w) 0 21) (s.regF (.trcRd w) 0 21) := by
  have he := exec_traceFlush hacc h2 ht
  rw [traceFlushAct_eq (s.take x) hc, traceTowers_take] at he
  refine ⟨_, he, fun w hw hd => ?_⟩
  have k := ringKept_take s x w
  rw [(ringKept_answer _ x stOk _ w).regF .wr, regF_foldl_traceFlush _ (nodup_traceTowers s x) _ w hw (k.drops.trans hd),
    k.regF .wr, k.regF .rd]

/-- Settles O22: by the rings of the named towers that are ON, one at a time. -/
theorem traceStartsStopsAndDrops : Obligations.TraceStartsStopsAndDrops := by
  unfold Obligations.TraceStartsStopsAndDrops
  refine ⟨fun x s hacc ht hc => ?_, traceRecord_clauses⟩
  intro ring
  have hmem : ∀ w, w < 8 → (w ∈ s.traceTowers x ↔ ring w) := fun w hw => by
    rw [mem_traceTowers]
    exact and_iff_right hw
  have hx : s.mb 0 = s.mb x.t := by rw [ht]
  rw [hx]
  refine ⟨fun h1 hseg => ?_, fun h0 => ?_, fun h2 hno => ?_, fun h2 => ?_⟩
  · obtain ⟨t, he, honly, hsg, hloss, hans, hring⟩ := trace_starts x s hacc ht hc h1 hseg
    refine ⟨t, he, honly, hsg, hloss, hans, fun w hw => ⟨fun hr => (hring w).1 ((hmem w hw).2 hr), fun hr => ?_⟩⟩
    have k := (hring w).2 fun h => hr ((hmem w hw).1 h)
    exact ⟨k.reg _ .wr, k.reg _ .rd, k.reg _ .drop, k.reg _ .cls⟩
  · obtain ⟨t, he, honly, hans, hcls⟩ := trace_stops x s hacc ht hc h0
    exact ⟨t, he, honly, hans, fun w hw => ⟨fun hr => (hcls w).trans (if_pos ((hmem w hw).2 hr)),
      fun hr => (hcls w).trans (if_neg fun h => hr ((hmem w hw).1 h))⟩⟩
  · refine trace_flushes_none x s hacc ht hc h2 (List.eq_nil_iff_forall_not_mem.2 fun w hw => ?_)
    have hw8 := ((mem_traceTowers s x w).1 hw).1
    exact hno w hw8 ((hmem w hw8).1 hw)
  · obtain ⟨t, he, hring⟩ := trace_flushes x s hacc ht hc h2
    exact ⟨t, he, fun w hw hr hd => hring w ((hmem w hw).2 hr) hd⟩

end Sys2Proof.Machine
end

section
/-! The boot window's command protocol (R388 to R391). -/

namespace Sys2Proof.Machine

/-! ### Fields of the boot window -/

theorem State.bw_setBwF (s : State) (o lo w x p : Nat) :
    (s.setBwF o lo w x).bw p = if p = o then putF (s.bw o) lo w x else s.bw p := s.bw_setBw o p _

theorem State.bw_setBwF_ne (s : State) {o p : Nat} (lo w x : Nat) (h : p ≠ o) : (s.setBwF o lo w x).bw p = s.bw p := by
  rw [State.bw_setBwF, if_neg h]

theorem State.bwF_setBwF_same (s : State) (o lo w x : Nat) (h : lo + w ≤ 64) : (s.setBwF o lo w x).bwF o lo w = x % 2 ^ w := by
  rw [State.bwF, State.bw_setBwF, if_pos rfl, getF_putF_same _ _ _ _ h]

theorem State.bwF_setBwF_apart (s : State) (o lo w x lo' w' : Nat) (h : lo + w ≤ 64) (ha : lo' + w' ≤ lo ∨ lo + w ≤ lo') :
    (s.setBwF o lo w x).bwF o lo' w' = s.bwF o lo' w' := by
  rw [State.bwF, State.bw_setBwF, if_pos rfl, getF_putF_apart _ _ _ _ _ _ h ha, State.bwF]

theorem State.bwF_setBwF_ne (s : State) {o p : Nat} (lo w x lo' w' : Nat) (h : p ≠ o) :
    (s.setBwF o lo w x).bwF p lo' w' = s.bwF p lo' w' := by
  rw [State.bwF, State.bw_setBwF_ne _ _ _ _ h, State.bwF]

theorem State.bw_congr {s t : State} (h : t.boot = s.boot) : t.bw = s.bw := by
  funext o
  rw [State.bw, State.bw, h]

theorem State.bwF_congr {s t : State} {o : Nat} (h : t.bw o = s.bw o) (lo w : Nat) : t.bwF o lo w = s.bwF o lo w := by
  rw [State.bwF, State.bwF, h]

theorem State.bootState_congr {s t : State} (h : t.bw BW.state = s.bw BW.state) : t.bootState = s.bootState :=
  State.bwF_congr h 28 4

theorem State.bootStep_congr {s t : State} (h : t.bw BW.state = s.bw BW.state) : t.bootStep = s.bootStep :=
  State.bwF_congr h 24 4

theorem State.fired_congr {s t : State} (h : t.bw BW.state = s.bw BW.state) : t.fired = s.fired := by
  rw [State.fired, State.fired, State.bootState_congr h]

/-! ### The end of a step (R390, R391) -/

/-- The report of a step that ends, before the part advances. -/
def bootReported (s : State) (code detail since : Nat) : State :=
  { (((s.setBwF BW.status 0 8 code).setBwF BW.detail 0 32 detail).setBwF BW.elapsed 0 32 ((s.now - since) / 200000)) with
      bootRun := none }.setBwF BW.status 31 1 0

theorem bootEnd_eq (s : State) (cmd code detail since : Nat) :
    s.bootEnd cmd code detail since = (bootReported s code detail since).bootAdvance cmd code := rfl

theorem State.bw_noRun (s : State) : { s with bootRun := none }.bw = s.bw := State.bw_congr rfl

theorem bw_bootReported_ne (s : State) (code detail since : Nat) {p : Nat} (h1 : p ≠ BW.status) (h2 : p ≠ BW.detail)
    (h3 : p ≠ BW.elapsed) : (bootReported s code detail since).bw p = s.bw p := by
  rw [bootReported, State.bw_setBwF_ne _ _ _ _ h1, State.bw_noRun, State.bw_setBwF_ne _ _ _ _ h3,
    State.bw_setBwF_ne _ _ _ _ h2, State.bw_setBwF_ne _ _ _ _ h1]

theorem bwF_noRun (s : State) (o lo w : Nat) : { s with bootRun := none }.bwF o lo w = s.bwF o lo w :=
  State.bwF_congr (congrFun (State.bw_noRun s) o) lo w

theorem code_bootReported (s : State) (code detail since : Nat) :
    (bootReported s code detail since).bwF BW.status 0 8 = code % 256 := by
  rw [bootReported, State.bwF_setBwF_apart _ _ _ _ _ _ _ (by decide) (.inl (by decide)), bwF_noRun,
    State.bwF_setBwF_ne _ _ _ _ _ _ (by decide), State.bwF_setBwF_ne _ _ _ _ _ _ (by decide),
    State.bwF_setBwF_same _ _ _ _ _ (by decide)]
  rfl

theorem cmd_bootReported (s : State) (code detail since : Nat) :
    (bootReported s code detail since).bwF BW.status 8 8 = s.bwF BW.status 8 8 := by
  rw [bootReported, State.bwF_setBwF_apart _ _ _ _ _ _ _ (by decide) (.inl (by decide)), bwF_noRun,
    State.bwF_setBwF_ne _ _ _ _ _ _ (by decide), State.bwF_setBwF_ne _ _ _ _ _ _ (by decide),
    State.bwF_setBwF_apart _ _ _ _ _ _ _ (by decide) (.inr (by decide))]

theorem busy_bootReported (s : State) (code detail since : Nat) :
    (bootReported s code detail since).bwF BW.status 31 1 = 0 := by
  rw [bootReported, State.bwF_setBwF_same _ _ _ _ _ (by decide)]
  rfl

theorem detail_bootReported (s : State) (code detail since : Nat) :
    (bootReported s code detail since).bwF BW.detail 0 32 = detail % 2 ^ 32 := by
  rw [bootReported, State.bwF_setBwF_ne _ _ _ _ _ _ (by decide), bwF_noRun,
    State.bwF_setBwF_ne _ _ _ _ _ _ (by decide), State.bwF_setBwF_same _ _ _ _ _ (by decide)]

theorem elapsed_bootReported (s : State) (code detail since : Nat) :
    (bootReported s code detail since).bwF BW.elapsed 0 32 = (s.now - since) / 200000 % 2 ^ 32 := by
  rw [bootReported, State.bwF_setBwF_ne _ _ _ _ _ _ (by decide), bwF_noRun,
    State.bwF_setBwF_same _ _ _ _ _ (by decide)]

theorem state_bootReported (s : State) (code detail since : Nat) :
    (bootReported s code detail since).bw BW.state = s.bw BW.state :=
  bw_bootReported_ne s code detail since (by decide) (by decide) (by decide)

/-- R391: only BW_STATE advances. -/
theorem bw_bootAdvance_ne (s : State) (cmd code : Nat) {p : Nat} (h : p ≠ BW.state) : (s.bootAdvance cmd code).bw p = s.bw p := by
  unfold State.bootAdvance
  split_ifs
  · rw [State.bw_setBwF_ne _ _ _ _ h]
  · rfl
  · rfl
  · rw [State.bw_setBwF_ne _ _ _ _ h, State.bw_setBwF_ne _ _ _ _ h]
  · rw [State.bw_setBwF_ne _ _ _ _ h, State.bw_setBwF_ne _ _ _ _ h]
  · rw [State.bw_setBwF_ne _ _ _ _ h]

theorem bwF_bootAdvance_ne (s : State) (cmd code : Nat) {p : Nat} (h : p ≠ BW.state) (lo w : Nat) :
    (s.bootAdvance cmd code).bwF p lo w = s.bwF p lo w := State.bwF_congr (bw_bootAdvance_ne s cmd code h) lo w

theorem bootRun_bootAdvance (s : State) (cmd code : Nat) : (s.bootAdvance cmd code).bootRun = s.bootRun :=
  (only_State_bootAdvance (Ps := [.boot]) (Ks := []) s cmd code (Only.refl s) (by decide)).part .bootRun (by decide)

theorem bootAdvance_fatal (s : State) (cmd : Nat) {code : Nat} (h : rcFatal code = true) :
    (s.bootAdvance cmd code).bootState = 4 ∧ (s.bootAdvance cmd code).bootStep = s.bootStep := by
  rw [State.bootAdvance, if_pos h]
  exact ⟨State.bwF_setBwF_same _ _ _ _ _ (by decide), State.bwF_setBwF_apart _ _ _ _ _ _ _ (by decide) (.inl (by decide))⟩

theorem bootAdvance_stays (s : State) (cmd : Nat) {code : Nat} (h : rcFatal code = false) (hd : rcDone code = false ∨ s.fired = true) :
    s.bootAdvance cmd code = s := by
  rw [State.bootAdvance, if_neg (by rw [h]; decide)]
  rcases hd with hd | hd
  · rw [if_pos (by rw [hd]; rfl)]
  · rw [if_pos hd, ite_self]

theorem bootAdvance_done (s : State) (cmd : Nat) {code : Nat} (h : rcFatal code = false) (hd : rcDone code = true)
    (hf : s.fired = false) :
    (s.bootAdvance cmd code).bootState = (if cmd = 7 then 2 else if cmd = 8 then 3 else s.bootState) ∧
      (s.bootAdvance cmd code).bootStep = (if cmd = 7 then 7 else if cmd = 8 then 8 else max s.bootStep cmd % 16) := by
  rw [State.bootAdvance, if_neg (by rw [h]; decide), if_neg (by rw [hd]; decide), if_neg (by rw [hf]; decide),
    show cmdFirmware = 7 from rfl, show cmdPublish = 8 from rfl]
  by_cases h7 : cmd = 7
  · rw [if_pos h7, if_pos h7, if_pos h7]
    exact ⟨(State.bwF_setBwF_apart _ _ _ _ _ _ _ (by decide) (.inr (by decide))).trans
      (State.bwF_setBwF_same _ _ _ _ _ (by decide)), State.bwF_setBwF_same _ _ _ _ _ (by decide)⟩
  · rw [if_neg h7, if_neg h7, if_neg h7]
    by_cases h8 : cmd = 8
    · rw [if_pos h8, if_pos h8, if_pos h8]
      exact ⟨(State.bwF_setBwF_apart _ _ _ _ _ _ _ (by decide) (.inr (by decide))).trans
        (State.bwF_setBwF_same _ _ _ _ _ (by decide)), State.bwF_setBwF_same _ _ _ _ _ (by decide)⟩
    · rw [if_neg h8, if_neg h8, if_neg h8]
      exact ⟨State.bwF_setBwF_apart _ _ _ _ _ _ _ (by decide) (.inr (by decide)),
        State.bwF_setBwF_same _ _ _ _ _ (by decide)⟩

/-- What the end of a step reports. -/
theorem bootEnd_reports (s : State) (cmd code detail since : Nat) :
    let t := s.bootEnd cmd code detail since
    t.bootRun = none ∧ t.bwF BW.status 0 8 = code % 256 ∧ t.bwF BW.status 8 8 = s.bwF BW.status 8 8 ∧
      t.bwF BW.status 31 1 = 0 ∧ t.bwF BW.detail 0 32 = detail % 2 ^ 32 ∧
      t.bwF BW.elapsed 0 32 = (s.now - since) / 200000 % 2 ^ 32 := by
  intro t
  have ht : t = (bootReported s code detail since).bootAdvance cmd code := bootEnd_eq s cmd code detail since
  have field : ∀ {p : Nat}, p ≠ BW.state → ∀ lo w, t.bwF p lo w = (bootReported s code detail since).bwF p lo w :=
    fun h lo w => by rw [ht, bwF_bootAdvance_ne _ _ _ h]
  refine ⟨by rw [ht, bootRun_bootAdvance]; rfl, ?_, ?_, ?_, ?_, ?_⟩
  · rw [field (by decide), code_bootReported]
  · rw [field (by decide), cmd_bootReported]
  · rw [field (by decide), busy_bootReported]
  · rw [field (by decide), detail_bootReported]
  · rw [field (by decide), elapsed_bootReported]

theorem rcFatal_iff (code : Nat) : rcFatal code = true ↔ code ∈ [3, 4, 7, 9, 0x11, 0x12] := by
  rw [rcFatal, List.contains_iff_mem]
  rfl

theorem rcDone_iff (code : Nat) : rcDone code = true ↔ code ∈ [0, 5, 8, 0xD, 0xF] := by
  rw [rcDone, List.contains_iff_mem]
  rfl

/-- R391: how the end of a step advances the part. -/
theorem bootEnd_advances (s : State) (cmd code detail since : Nat) :
    let t := s.bootEnd cmd code detail since
    if code ∈ [3, 4, 7, 9, 0x11, 0x12] then t.bootState = 4 ∧ t.bootStep = s.bootStep
    else if code ∈ [0, 5, 8, 0xD, 0xF] ∧ s.fired = false then
      t.bootState = (if cmd = 7 then 2 else if cmd = 8 then 3 else s.bootState) ∧
      t.bootStep = (if cmd = 7 then 7 else if cmd = 8 then 8 else max s.bootStep cmd % 16)
    else t.bootState = s.bootState ∧ t.bootStep = s.bootStep := by
  intro t
  have ht : t = (bootReported s code detail since).bootAdvance cmd code := bootEnd_eq s cmd code detail since
  have hstate := State.bootState_congr (state_bootReported s code detail since)
  have hstep := State.bootStep_congr (state_bootReported s code detail since)
  have hfired := State.fired_congr (state_bootReported s code detail since)
  generalize bootReported s code detail since = u at ht hstate hstep hfired
  rw [ht, ← hstate, ← hstep, ← hfired]
  split
  · next h => exact bootAdvance_fatal u cmd ((rcFatal_iff code).2 h)
  · next h =>
    have hf : rcFatal code = false := Bool.not_eq_true _ ▸ mt (rcFatal_iff code).1 h
    split
    · next hd => exact bootAdvance_done u cmd hf ((rcDone_iff code).2 hd.1) hd.2
    · next hd =>
      rw [bootAdvance_stays u cmd hf]
      · exact ⟨rfl, rfl⟩
      · by_cases hc : code ∈ [0, 5, 8, 0xD, 0xF]
        · exact .inr (Bool.not_eq_false _ ▸ fun h => hd ⟨hc, h⟩)
        · exact .inl (Bool.not_eq_true _ ▸ mt (rcDone_iff code).1 hc)

theorem bootEnd_fails (s : State) (cmd detail since : Nat) {code : Nat} (h : code ∈ [3, 4, 7, 9, 0x11, 0x12]) :
    (s.bootEnd cmd code detail since).bootState = 4 := by
  have := bootEnd_advances s cmd code detail since
  rw [if_pos h] at this
  exact this.1

theorem bootEnd_stays (s : State) (cmd detail since : Nat) {code : Nat} (h : code ∉ [3, 4, 7, 9, 0x11, 0x12])
    (hd : code ∉ [0, 5, 8, 0xD, 0xF]) : (s.bootEnd cmd code detail since).bootState = s.bootState ∧
      (s.bootEnd cmd code detail since).bootStep = s.bootStep := by
  have := bootEnd_advances s cmd code detail since
  rw [if_neg h, if_neg fun h => hd h.1] at this
  exact this

/-! ### Commands (R388, R389) -/

/-- How a command that does not start ends at once: its code and detail. -/
def bootRefusal (s : State) (cmd : Nat) : Nat × Nat :=
  if nbit s.straps 11 then (3, 0)
  else if cmd ∈ [2, 3, 4, 5, 6, 7, 8, 0x10] ∧ s.bootAllows cmd = false then (1, (s.bw BW.state).toNat / 2 ^ 24)
  else (2, 0)

theorem bootRefusal_test {s : State} (cmd : Nat) (h : nbit s.straps 11 = true) : bootRefusal s cmd = (3, 0) := if_pos h

theorem bootRefusal_order {s : State} {cmd : Nat} (ht : ¬ nbit s.straps 11 = true)
    (h : cmd ∈ [2, 3, 4, 5, 6, 7, 8, 0x10] ∧ s.bootAllows cmd = false) :
    bootRefusal s cmd = (1, (s.bw BW.state).toNat / 2 ^ 24) := (if_neg ht).trans (if_pos h)

theorem bootRefusal_arg {s : State} {cmd : Nat} (ht : ¬ nbit s.straps 11 = true)
    (h : ¬ (cmd ∈ [2, 3, 4, 5, 6, 7, 8, 0x10] ∧ s.bootAllows cmd = false)) : bootRefusal s cmd = (2, 0) :=
  (if_neg ht).trans (if_neg h)

theorem bootAllows_unknown (s : State) {cmd : Nat} (h : cmd ∉ [2, 3, 4, 5, 6, 7, 8, 0x10]) : s.bootAllows cmd = false := by
  simp only [List.mem_cons, List.not_mem_nil, or_false, not_or] at h
  obtain ⟨h2, h3, h4, h5, h6, h7, h8, h16⟩ := h
  exact (if_neg h2).trans ((if_neg h3).trans ((if_neg h4).trans ((if_neg h5).trans ((if_neg h6).trans
    ((if_neg h7).trans ((if_neg h8).trans (if_neg h16)))))))

theorem bootCommand_busy {s : State} (cmd : Nat) (work : State → BootWork) (hb : s.bar0Up = true) (hr : s.bootRun ≠ none) :
    s.bootCommand cmd work = s.setBwF BW.status 30 1 1 :=
  (if_neg (by rw [hb]; decide)).trans (if_pos (Option.isSome_iff_ne_none.2 hr))

theorem bootCommand_refused {s : State} {cmd : Nat} (work : State → BootWork) (hc : cmd ∈ [2, 3, 4, 5, 6, 7, 8, 0x10])
    (hb : s.bar0Up = true) (hr : s.bootRun = none) (hs : Claims.bootStarts s cmd = false) : s.bootCommand cmd work =
      (s.setBwF BW.status 8 8 cmd).bootEnd cmd (bootRefusal s cmd).1 (bootRefusal s cmd).2 s.now := by
  rw [State.bootCommand, if_neg (by rw [hb]; decide), if_neg (by rw [hr]; decide)]
  dsimp only
  by_cases ht : nbit s.straps 11 = true
  · rw [if_pos ht, bootRefusal_test cmd ht]
    rfl
  · rw [if_neg ht]
    cases ha : s.bootAllows cmd with
    | false =>
      rw [if_pos (by rfl), bootRefusal_order ht ⟨hc, ha⟩]
      rfl
    | true =>
      have hargs : s.bootArgsOk cmd = false := by
        simpa [Claims.bootStarts, hb, hr, ht, ha] using hs
      rw [if_neg (by decide), hargs, if_pos (by rfl), bootRefusal_arg ht (by rw [ha]; exact fun h => nomatch h.2)]
      rfl

theorem bootCommand_starts {s : State} {cmd : Nat} (work : State → BootWork) (hs : Claims.bootStarts s cmd = true) :
    (s.bootCommand cmd work).bootRun.map (fun r => (r.cmd, r.since)) = some (cmd, s.now) := by
  simp only [Claims.bootStarts, Bool.and_eq_true, Bool.not_eq_true', Option.isNone_iff_eq_none] at hs
  obtain ⟨⟨⟨⟨hb, hr⟩, ht⟩, ha⟩, hargs⟩ := hs
  rw [State.bootCommand, if_neg (by rw [hb]; decide), if_neg (by rw [hr]; decide)]
  dsimp only
  rw [if_neg (by rw [ht]; decide), if_neg (by rw [ha]; decide), if_neg (by rw [hargs]; decide)]
  rfl

/-- A code of no row. -/
def bootReserved (s : State) (cmd : Nat) : State :=
  if s.bootRun.isSome then s.setBwF BW.status 30 1 1
  else (s.setBwF BW.status 8 8 cmd).bootEnd cmd (if nbit s.straps 11 then rcTestRefused else rcBadArg) 0 s.now

theorem exec_reservedBootCommand {s : State} {code : Byte} (hc : code.toNat ∉ [2, 3, 4, 5, 6, 7, 8, 0x10])
    (hb : s.bar0Up = true) : exec (.reservedBootCommand code) s = .next (bootReserved s code.toNat) := by
  refine congrArg Host.Outcome.next (if_neg ?_)
  rw [hb, Bool.not_true, Bool.or_false, List.contains_iff_mem]
  exact hc

/-- A boot command is one of the table's rows, or a code of none. -/
theorem exec_bootRow {c : Instr} {cmd : Nat} {s : State} (h : Claims.bootRow c = some cmd) (hb : s.bar0Up = true) :
    (cmd ∈ [2, 3, 4, 5, 6, 7, 8, 0x10] ∧ ∃ work, exec c s = .next (s.bootCommand cmd work)) ∨
      cmd ∉ [2, 3, 4, 5, 6, 7, 8, 0x10] ∧ exec c s = .next (bootReserved s cmd) := by
  unfold Claims.bootRow at h
  split at h
  case h_9 code =>
    split at h
    · cases h
    · next hc =>
      obtain rfl := Option.some.inj h
      rw [List.contains_iff_mem] at hc
      exact .inr ⟨hc, exec_reservedBootCommand hc hb⟩
  case h_10 => cases h
  all_goals
    obtain rfl := Option.some.inj h
    exact .inl ⟨by decide, _, rfl⟩

theorem boot_busy {c : Instr} {cmd : Nat} {s : State} (h : Claims.bootRow c = some cmd) (hb : s.bar0Up = true)
    (hr : s.bootRun ≠ none) : exec c s = .next (s.setBwF BW.status 30 1 1) := by
  rcases exec_bootRow h hb with ⟨_, work, he⟩ | ⟨_, he⟩
  · rw [he, bootCommand_busy cmd work hb hr]
  · rw [he, bootReserved, if_pos (Option.isSome_iff_ne_none.2 hr)]

theorem boot_refused {c : Instr} {cmd : Nat} {s : State} (h : Claims.bootRow c = some cmd) (hb : s.bar0Up = true)
    (hr : s.bootRun = none) (hs : Claims.bootStarts s cmd = false) :
    exec c s = .next ((s.setBwF BW.status 8 8 cmd).bootEnd cmd (bootRefusal s cmd).1 (bootRefusal s cmd).2 s.now) := by
  rcases exec_bootRow h hb with ⟨hc, work, he⟩ | ⟨hc, he⟩
  · rw [he, bootCommand_refused work hc hb hr hs]
  · rw [he, bootReserved, if_neg (by rw [hr]; decide), bootRefusal]
    split
    · rfl
    · rw [if_neg fun h => hc h.1]
      rfl

theorem refusal_reports (s : State) (cmd : Nat) :
    let t := (s.setBwF BW.status 8 8 cmd).bootEnd cmd (bootRefusal s cmd).1 (bootRefusal s cmd).2 s.now
    t.bootRun = none ∧ t.bwF BW.status 8 8 = cmd % 256 ∧ t.bwF BW.status 31 1 = 0 ∧
      (nbit s.straps 11 = true → t.bwF BW.status 0 8 = 3 ∧ t.bootState = 4) ∧
      (nbit s.straps 11 = false → t.bwF BW.state 28 4 = s.bwF BW.state 28 4 ∧ t.bootStep = s.bootStep ∧
        if cmd ∈ [2, 3, 4, 5, 6, 7, 8, 0x10] ∧ s.bootAllows cmd = false then
          t.bwF BW.status 0 8 = 1 ∧ t.bwF BW.detail 0 32 = (s.bw BW.state).toNat / 2 ^ 24 % 2 ^ 32
        else t.bwF BW.status 0 8 = 2) := by
  intro t
  have hstate : (s.setBwF BW.status 8 8 cmd).bw BW.state = s.bw BW.state := s.bw_setBwF_ne 8 8 cmd (by decide)
  obtain ⟨hrun, hcode, hcmd, hbusy, hdetail, _⟩ :=
    bootEnd_reports (s.setBwF BW.status 8 8 cmd) cmd (bootRefusal s cmd).1 (bootRefusal s cmd).2 s.now
  refine ⟨hrun, hcmd.trans (s.bwF_setBwF_same _ _ _ _ (by decide)), hbusy, fun ht => ?_, fun ht => ?_⟩
  · have hrc := bootRefusal_test cmd ht
    exact ⟨hcode.trans (by simp [hrc]), bootEnd_fails _ _ _ _ (by rw [hrc]; decide)⟩
  · have ht' : ¬ nbit s.straps 11 = true := by rw [ht]; decide
    have stays : ∀ {p : Nat × Nat}, bootRefusal s cmd = p → p.1 ∉ [3, 4, 7, 9, 0x11, 0x12] → p.1 ∉ [0, 5, 8, 0xD, 0xF] →
        t.bwF BW.state 28 4 = s.bwF BW.state 28 4 ∧ t.bootStep = s.bootStep := fun e h hd => by
      obtain ⟨h1, h2⟩ := bootEnd_stays (s.setBwF BW.status 8 8 cmd) cmd (bootRefusal s cmd).2 s.now (e ▸ h) (e ▸ hd)
      exact ⟨h1.trans (State.bootState_congr hstate), h2.trans (State.bootStep_congr hstate)⟩
    by_cases h : cmd ∈ [2, 3, 4, 5, 6, 7, 8, 0x10] ∧ s.bootAllows cmd = false
    · have hrc := bootRefusal_order ht' h
      obtain ⟨h1, h2⟩ := stays hrc (by dsimp only; decide) (by dsimp only; decide)
      rw [if_pos h]
      exact ⟨h1, h2, hcode.trans (by simp [hrc]), hdetail.trans (by simp only [hrc])⟩
    · have hrc := bootRefusal_arg ht' h
      obtain ⟨h1, h2⟩ := stays hrc (by dsimp only; decide) (by dsimp only; decide)
      rw [if_neg h]
      exact ⟨h1, h2, hcode.trans (by simp [hrc])⟩

/-- Settles O24: a command is refused while a step runs, ends at once, or starts its step. -/
theorem bootCommandsFollowTheProtocol : Obligations.BootCommandsFollowTheProtocol := by
  unfold Obligations.BootCommandsFollowTheProtocol
  refine fun c cmd s hrow hb => ⟨fun hr => ?_, fun hr hs => ?_, fun hs => ?_⟩
  · have he := boot_busy hrow hb hr
    refine ⟨_, he, only_State_setBwF s _ _ _ _ (Only.refl s) (by decide), s.bwF_setBwF_same _ _ _ _ (by decide),
      s.bwF_setBwF_apart _ _ _ _ _ _ (by decide) (.inl (by decide)),
      s.bwF_setBwF_apart _ _ _ _ _ _ (by decide) (.inr (by decide)), fun o ho => s.bw_setBwF_ne _ _ _ ho⟩
  · have he := boot_refused hrow hb hr hs
    exact ⟨_, he, only_State_bootEnd _ _ _ _ _ (only_State_setBwF s _ _ _ _ (Only.refl s) (by decide)) (by decide),
      refusal_reports s cmd⟩
  · have hc : cmd ∈ [2, 3, 4, 5, 6, 7, 8, 0x10] := by
      by_contra h
      simp [Claims.bootStarts, bootAllows_unknown s h] at hs
    rcases exec_bootRow hrow hb with ⟨_, work, he⟩ | ⟨h, _⟩
    · exact ⟨hc, _, he, bootCommand_starts work hs⟩
    · exact absurd hc h

/-! ### The end of a step (R390) and FW_START_TIMEOUT -/

theorem bootStepComplete_ready {s : State} {r : BootRun} (h : s.bootRun = some r) (hr : r.ready = true) :
    bootStepComplete s = s.bootEnd r.cmd r.code r.detail r.since := by
  rw [bootStepComplete, h]
  exact if_pos hr

theorem bootStepComplete_firmware {s : State} {r : BootRun} (h : s.bootRun = some r) (hr : r.ready = false)
    (hc : r.cmd = 7 ∧ s.now < r.since + 1000000000) :
    bootStepComplete s = s.firmwareUp.bootEnd r.cmd r.code r.detail r.since := by
  rw [bootStepComplete, h]
  exact (if_neg (by rw [hr]; decide)).trans (if_pos (by rw [hc.1]; simp [cmdFirmware, hc.2]))

theorem firmwareUp_serves (s : State) : s.firmwareUp.alive = true ∧ s.firmwareUp.hbActive = some s.now := by
  refine foldl_keeps (fun x : State => x.alive = true ∧ x.hbActive = some s.now) _ _ _ ⟨rfl, rfl⟩ fun x t _ h => ?_
  have hg := only_State_grantMailbox (Ps := [.freeCtr, .leases]) (Ks := []) x t 0x800 (Only.refl x) (by decide)
  exact ⟨(hg.part .alive (by decide)).trans h.1, (hg.part .hbActive (by decide)).trans h.2⟩

theorem only_bootEnd (s : State) (cmd code detail since : Nat) : Only [.boot, .bootRun] [] s (s.bootEnd cmd code detail since) :=
  only_State_bootEnd s cmd code detail since (Only.refl s) (by decide)

/-- What a step's end reports, from the state in which its work began to end. -/
theorem bootEnd_settles (s u : State) (r : BootRun) (hb : u.boot = s.boot) (hn : u.now = s.now) :
    let t := u.bootEnd r.cmd r.code r.detail r.since
    t.bootRun = none ∧ t.bwF BW.status 0 8 = r.code % 256 ∧ t.bwF BW.status 31 1 = 0 ∧
      t.bwF BW.detail 0 32 = r.detail % 2 ^ 32 ∧ t.bwF BW.elapsed 0 32 = (s.now - r.since) / 200000 % 2 ^ 32 ∧
      if r.code ∈ [3, 4, 7, 9, 0x11, 0x12] then t.bootState = 4 ∧ t.bootStep = s.bootStep
      else if r.code ∈ [0, 5, 8, 0xD, 0xF] ∧ s.fired = false then
        t.bootState = (if r.cmd = 7 then 2 else if r.cmd = 8 then 3 else s.bootState) ∧
        t.bootStep = (if r.cmd = 7 then 7 else if r.cmd = 8 then 8 else max s.bootStep r.cmd % 16)
      else t.bootState = s.bootState ∧ t.bootStep = s.bootStep := by
  intro t
  obtain ⟨hrun, hcode, _, hbusy, hdetail, helapsed⟩ := bootEnd_reports u r.cmd r.code r.detail r.since
  have hadv := bootEnd_advances u r.cmd r.code r.detail r.since
  have hbw := congrFun (State.bw_congr hb) BW.state
  rw [State.bootState_congr hbw, State.bootStep_congr hbw, State.fired_congr hbw] at hadv
  rw [hn] at helapsed
  exact ⟨hrun, hcode, hbusy, hdetail, helapsed, hadv⟩

theorem boot_step_completes (s : State) (r : BootRun) (h : s.bootRun = some r)
    (hr : r.ready = true ∨ (r.cmd = 7 ∧ s.now < r.since + 1000000000)) : ∃ u t : State, exec .bootStepComplete s = .next t ∧
      t = u.bootEnd r.cmd r.code r.detail r.since ∧ u.boot = s.boot ∧ u.now = s.now ∧
      (r.ready = false → t.alive = true ∧ t.hbActive = some s.now) := by
  have hexec : exec .bootStepComplete s = .next (bootStepComplete s) := rfl
  cases hready : r.ready with
  | true => exact ⟨s, _, hexec.trans (by rw [bootStepComplete_ready h hready]), rfl, rfl, rfl, fun h => nomatch h⟩
  | false =>
    have hc := hr.resolve_left (by rw [hready]; decide)
    have hup := only_State_firmwareUp (Ps := [.freeCtr, .alive, .hbActive, .fwDead, .leases]) (Ks := []) s (Only.refl s)
      (by decide)
    have hend := only_bootEnd s.firmwareUp r.cmd r.code r.detail r.since
    exact ⟨s.firmwareUp, _, hexec.trans (by rw [bootStepComplete_firmware h hready hc]), rfl, hup.part .boot (by decide),
      hup.part .now (by decide), fun _ => ⟨(hend.part .alive (by decide)).trans (firmwareUp_serves s).1,
        (hend.part .hbActive (by decide)).trans (firmwareUp_serves s).2⟩⟩

theorem fwStartTimeout_ends {s : State} {r : BootRun} (h : s.bootRun = some r) (hc : r.cmd = 7) (hr : r.ready = false)
    (hn : r.since + 1000000000 ≤ s.now) :
    exec .fwStartTimeout s = .next ({ s with fwBuild := 0 }.bootEnd r.cmd rcFwStart 0 r.since) := by
  refine congrArg Host.Outcome.next ?_
  rw [fwStartTimeout, h]
  exact if_pos (by rw [hc, hr]; simp [cmdFirmware, hn])

/-- Settles O25: the end of a step reports and advances; a firmware that is late ends without advancing. -/
theorem bootStepsReportAndAdvance : Obligations.BootStepsReportAndAdvance := by
  unfold Obligations.BootStepsReportAndAdvance
  refine ⟨fun s r h hr => ?_, fun s r h hc hr hn => ?_⟩
  · obtain ⟨u, t, he, rfl, hb, hnow, halive⟩ := boot_step_completes s r h hr
    obtain ⟨h1, h2, h3, h4, h5, h6⟩ := bootEnd_settles s u r hb hnow
    exact ⟨_, he, Only.ofExec (only_execBootStepComplete s) he, h1, h2, h3, h4, h5, halive, h6⟩
  · have he := fwStartTimeout_ends h hc hr hn
    refine ⟨_, he, Only.ofExec (only_execFwStartTimeout s) he, ?_⟩
    clear he
    have hstate : { s with fwBuild := 0 }.bootState = s.bootState := State.bootState_congr (congrFun (State.bw_congr rfl) _)
    have hlive : { s with fwBuild := 0 }.alive = s.alive := rfl
    generalize { s with fwBuild := 0 } = u at hstate hlive ⊢
    obtain ⟨hrun, hcode, _, hbusy, _⟩ := bootEnd_reports u r.cmd rcFwStart 0 r.since
    exact ⟨hrun, hcode, hbusy, (bootEnd_stays u r.cmd 0 r.since (by decide) (by decide)).1.trans hstate,
      ((only_bootEnd u r.cmd rcFwStart 0 r.since).part .alive (by decide)).trans hlive⟩

end Sys2Proof.Machine
end

section
/-! Work lists and their operations: reading them after an update, and what issue does (R255 to R262). -/

namespace Sys2Proof.Machine

/-! ### Reading a list after an update -/

theorem State.list?_id {s : State} {id : Nat} {l : WorkList} (h : s.list? id = some l) : l.id = id := by
  have := List.find?_some h
  simpa using this

theorem find?_setList (ls : List WorkList) (l : WorkList) (j : Nat) :
    (ls.map fun y => if y.id = l.id then l else y).find? (fun y => y.id = j) =
      if j = l.id then (ls.find? fun y => y.id = j).map fun _ => l else ls.find? fun y => y.id = j := by
  induction ls with
  | nil => split <;> rfl
  | cons k ks ih =>
    rw [List.map_cons, List.find?_cons, List.find?_cons]
    by_cases hk : k.id = l.id
    · rw [if_pos hk]
      by_cases hj : j = l.id
      · simp [hj, hk]
      · rw [if_neg hj] at ih ⊢
        simp [Ne.symm hj, hk, ih]
    · rw [if_neg hk, ih]
      by_cases hj : j = l.id
      · subst hj
        simp [hk]
      · rw [if_neg hj, if_neg hj]

theorem State.list?_setList_same {s : State} {l k : WorkList} (h : s.list? l.id = some k) :
    (s.setList l).list? l.id = some l := by
  refine (find?_setList s.lists l l.id).trans ?_
  rw [if_pos rfl]
  exact congrArg (Option.map fun _ => l) h

theorem State.list?_setList_ne (s : State) (l : WorkList) {j : Nat} (h : j ≠ l.id) : (s.setList l).list? j = s.list? j :=
  (find?_setList s.lists l j).trans (if_neg h)

theorem only_setList (s : State) (l : WorkList) : Only [.lists] [] s (s.setList l) :=
  only_State_setList s l (Only.refl s) (by decide)

/-! ### Reading an operation after an update -/

theorem WorkList.op?_offset {l : WorkList} {off : Nat} {o : Op} (h : l.op? off = some o) : o.offset = off := by
  have := List.find?_some h
  simpa using this

theorem find?_setOp (os : List Op) (o : Op) (off : Nat) :
    (os.map fun y => if y.offset = o.offset then o else y).find? (fun y => y.offset = off) =
      if off = o.offset then (os.find? fun y => y.offset = off).map fun _ => o else os.find? fun y => y.offset = off := by
  induction os with
  | nil => split <;> rfl
  | cons p ps ih =>
    rw [List.map_cons, List.find?_cons, List.find?_cons]
    by_cases hp : p.offset = o.offset
    · rw [if_pos hp]
      by_cases hoff : off = o.offset
      · simp [hoff, hp]
      · rw [if_neg hoff] at ih ⊢
        simp [Ne.symm hoff, hp, ih]
    · rw [if_neg hp, ih]
      by_cases hoff : off = o.offset
      · subst hoff
        simp [hp]
      · rw [if_neg hoff, if_neg hoff]

theorem WorkList.op?_setOp_same {l : WorkList} {o p : Op} (h : l.op? o.offset = some p) : (l.setOp o).op? o.offset = some o := by
  refine (find?_setOp l.ops o o.offset).trans ?_
  rw [if_pos rfl]
  exact congrArg (Option.map fun _ => o) h

theorem WorkList.op?_setOp_ne (l : WorkList) (o : Op) {off : Nat} (h : off ≠ o.offset) : (l.setOp o).op? off = l.op? off :=
  (find?_setOp l.ops o off).trans (if_neg h)

theorem State.op?_of_list {s : State} {id off : Nat} {l : WorkList} (h : s.list? id = some l) : s.op? id off = l.op? off := by
  rw [State.op?, h]

theorem State.op?_congr {s t : State} (h : t.lists = s.lists) (id off : Nat) : t.op? id off = s.op? id off := by
  rw [State.op?, State.op?, State.list_congr h]

theorem State.setOp_of_list {s : State} {id : Nat} {l : WorkList} (o : Op) (h : s.list? id = some l) :
    s.setOp id o = s.setList (l.setOp o) := by
  rw [State.setOp, h]

theorem State.list?_setOp {s : State} {id : Nat} {l : WorkList} (o : Op) (h : s.list? id = some l) :
    (s.setOp id o).list? id = some (l.setOp o) := by
  rw [State.setOp_of_list o h]
  have hid : (l.setOp o).id = id := (State.list?_id h : l.id = id)
  rw [← hid]
  exact State.list?_setList_same (k := l) (hid.symm ▸ h)

theorem State.op?_setOp_same {s : State} {id : Nat} {o p : Op} (h : s.op? id o.offset = some p) :
    (s.setOp id o).op? id o.offset = some o := by
  cases hl : s.list? id with
  | none => rw [State.op?, hl] at h; cases h
  | some l =>
    rw [State.op?_of_list hl] at h
    rw [State.op?_of_list (State.list?_setOp o hl), WorkList.op?_setOp_same h]

/-! ### An operation ends -/

/-- The operation at the end of its work. -/
def Op.ended (o : Op) (status detail : Nat) : Op := { o with stage := .finished, status := status, detail := detail }

/-- The list once one of its operations has ended. -/
def WorkList.ended (l : WorkList) (o : Op) (off status detail : Nat) : WorkList :=
  if status = osOk || l.stopStatus.isSome then l.setOp (o.ended status detail)
  else (l.setOp (o.ended status detail)).fail off status

theorem State.finishOp_of_op {s : State} {id off : Nat} {l : WorkList} {o : Op} (status detail : Nat) (h : s.list? id = some l)
    (ho : l.op? off = some o) (hs : o.stage ≠ .finished) :
    s.finishOp id off status detail = s.setList (l.ended o off status detail) := by
  unfold State.finishOp
  rw [h]
  dsimp only
  rw [ho]
  dsimp only
  rw [if_neg hs, WorkList.ended]
  rfl

theorem WorkList.id_fail (l : WorkList) (off status : Nat) : (l.fail off status).id = l.id := by
  unfold WorkList.fail
  split
  · split <;> rfl
  · rfl

theorem WorkList.ops_fail (l : WorkList) (off status : Nat) : (l.fail off status).ops = l.ops := by
  unfold WorkList.fail
  split
  · split <;> rfl
  · rfl

theorem WorkList.fail_first {l : WorkList} (off status : Nat) (h : l.failed = none) :
    l.fail off status = { l with failed := some (off, status) } := by
  rw [WorkList.fail, h]

theorem WorkList.id_ended (l : WorkList) (o : Op) (off status detail : Nat) : (l.ended o off status detail).id = l.id := by
  unfold WorkList.ended
  split
  · rfl
  · exact WorkList.id_fail _ _ _

theorem WorkList.op?_ended {l : WorkList} {o : Op} {off : Nat} (status detail : Nat) (h : l.op? off = some o) :
    (l.ended o off status detail).op? off = some (o.ended status detail) := by
  obtain rfl := WorkList.op?_offset h
  have hset : (l.setOp (o.ended status detail)).op? o.offset = some (o.ended status detail) :=
    WorkList.op?_setOp_same (o := o.ended status detail) h
  unfold WorkList.ended
  split
  · exact hset
  · rw [WorkList.op?, WorkList.ops_fail]
    exact hset

theorem State.list?_finishOp {s : State} {id off : Nat} {l : WorkList} {o : Op} (status detail : Nat) (h : s.list? id = some l)
    (ho : l.op? off = some o) (hs : o.stage ≠ .finished) :
    (s.finishOp id off status detail).list? id = some (l.ended o off status detail) := by
  rw [State.finishOp_of_op status detail h ho hs]
  have hid : (l.ended o off status detail).id = id := (l.id_ended o off status detail).trans (State.list?_id h)
  rw [← hid]
  exact State.list?_setList_same (k := l) (hid.symm ▸ h)

theorem State.op?_finishOp {s : State} {id off : Nat} {o : Op} (status detail : Nat) (h : s.op? id off = some o)
    (hs : o.stage ≠ .finished) : (s.finishOp id off status detail).op? id off = some (o.ended status detail) := by
  cases hl : s.list? id with
  | none => rw [State.op?, hl] at h; cases h
  | some l =>
    rw [State.op?_of_list hl] at h
    rw [State.op?_of_list (State.list?_finishOp status detail hl h hs), WorkList.op?_ended status detail h]

theorem only_finishOp (s : State) (id off status detail : Nat) : Only [.lists] [] s (s.finishOp id off status detail) :=
  only_State_finishOp s id off status detail (Only.refl s) (by decide)

/-! ### An operation starts -/

/-- The operation as it starts (R275). -/
def Op.begun (o : Op) (s : State) : Op :=
  let cs := if opHasCore o.opcode then s.counters o.core else []
  { o with stage := .started, start := if o.resumes = 0 then s.tb.count else o.start,
           ctrStart := if o.resumes = 0 then cs else o.ctrStart, ctrBase := if o.resumes = 0 then cs else o.ctrBase }

theorem State.startOp_of_op {s : State} {id off : Nat} {o : Op} (h : s.op? id off = some o) (hq : o.stage = .queued) :
    s.startOp id off = s.setOp id (o.begun s) := by
  rw [State.startOp, h]
  exact if_pos hq

theorem State.op?_startOp {s : State} {id off : Nat} {o : Op} (h : s.op? id off = some o) (hq : o.stage = .queued) :
    (s.startOp id off).op? id off = some (o.begun s) := by
  rw [State.startOp_of_op h hq]
  have hoff : (o.begun s).offset = off := by
    cases hl : s.list? id with
    | none => rw [State.op?, hl] at h; cases h
    | some l => rw [State.op?_of_list hl] at h; exact (WorkList.op?_offset h : o.offset = off)
  rw [← hoff]
  exact State.op?_setOp_same (p := o) (hoff.symm ▸ h)

theorem only_startOp (s : State) (id off : Nat) : Only [.lists] [] s (s.startOp id off) :=
  only_State_startOp s id off (Only.refl s) (by decide)

/-! ### An operation is appended at issue -/

theorem find?_offset_append {os : List Op} {o : Op} (h : os.find? (fun y => y.offset = o.offset) = none) :
    (os ++ [o]).find? (fun y => y.offset = o.offset) = some o := by
  rw [List.find?_append, h]
  simp

theorem map_setOp_append {os : List Op} {o p : Op} (h : os.find? (fun y => y.offset = o.offset) = none)
    (hp : p.offset = o.offset) : ((os ++ [o]).map fun y => if y.offset = p.offset then p else y) = os ++ [p] := by
  rw [List.map_append, hp]
  congr 1
  · rw [List.find?_eq_none] at h
    exact (List.map_congr_left fun y hy => if_neg (by simpa using h y hy)).trans (List.map_id os)
  · simp

end Sys2Proof.Machine
end

section
/-! Issue: the checks of an operation in their order (R255 to R261). -/

namespace Sys2Proof.Machine

/-- R261: the first check that an operation fails. -/
def issueErr (s : State) (l : WorkList) (o : Op) (rules : State → WorkList → Op → OpErr) : OpErr :=
  if l.units < l.next + max 1 (opUnits o.opcode) then malformed 0
  else match wordCheck o.bytes with
    | some d => malformed d
    | none => orErr (s.coreCheck l o) (orErr (rules s l o) (s.listExtents l o))

/-- The list once it has issued `o`, of any length. -/
def WorkList.issuing (l : WorkList) (o : Op) : WorkList :=
  { l with next := l.next + max 1 (opUnits o.opcode), ops := l.ops ++ [o], endIssued := o.opcode = 0x1F }

/-- The state in which an operation has been issued, before its checks tell what becomes of it. -/
def State.issuing (s : State) (l : WorkList) (o : Op) : State :=
  { s with issueOrder := s.issueOrder + 1 }.setList (l.issuing o)

/-- What an issued operation's unit is given. -/
def State.recorded (s : State) (l : WorkList) (o : Op) : State :=
  let s1 := s.issuing l o
  let s2 := if o.wantsRecord then s1.writeRecord (l.issuing o) o [0xFF] else s1
  if opHasCore o.opcode then s2.ctr o.core 0x50 1 else s2

section
variable {s : State} {id : Nat} {early : Option (List Byte)} {opc : Nat} {rules : State → WorkList → Op → OpErr}
  {run : State → WorkList → Op → State} {l : WorkList}

theorem issueOp_noList (h : s.list? id = none) : s.issueOp id early opc rules run = s := by
  rw [State.issueOp, h]

theorem issueOp_idle (h : s.list? id = some l) (hc : s.canIssue l = false) : s.issueOp id early opc rules run = s := by
  rw [State.issueOp, h]
  exact if_pos (by rw [hc]; rfl)

/-- Issue of an operation whose bytes read cleanly. -/
theorem issueOp_clean (h : s.list? id = some l) (hc : s.canIssue l = true) (hacc : (s.fetchOp l early).acc = .ok)
    (hs : (s.fetchOp l early).s = s) :
    let o := Claims.newOp s l (s.fetchOp l early).data
    s.issueOp id early opc rules run =
      if !(o.opcode = opc || opUnits o.opcode = 0) then s
      else if o.fenceBefore && !l.ops.isEmpty then s
      else match issueErr s l o rules with
        | some e => (s.issuing l o).finishOp id l.next e.1 e.2
        | none => run (s.recorded l o) (l.issuing o) o := by
  intro o
  unfold State.issueOp
  rw [h]
  dsimp only
  rw [if_neg (by rw [hc]; decide), hacc, hs]
  have ho : ∀ b : Bool, (decide (Acc.ok = Acc.ok) && b) = b := fun b => by simp
  rw [ho, ho]
  refine if_congr Iff.rfl rfl (if_congr Iff.rfl rfl ?_)
  rw [if_neg (not_not_intro rfl)] <;> rfl

theorem issueOp_other (h : s.list? id = some l) (hc : s.canIssue l = true) (hacc : (s.fetchOp l early).acc = .ok)
    (hs : (s.fetchOp l early).s = s) (hop : (Claims.newOp s l (s.fetchOp l early).data).opcode ≠ opc)
    (hu : opUnits (Claims.newOp s l (s.fetchOp l early).data).opcode ≠ 0) : s.issueOp id early opc rules run = s := by
  rw [issueOp_clean h hc hacc hs]
  exact if_pos (by simp [hop, hu])

theorem issueOp_fenced (h : s.list? id = some l) (hc : s.canIssue l = true) (hacc : (s.fetchOp l early).acc = .ok)
    (hs : (s.fetchOp l early).s = s) (hf : (Claims.newOp s l (s.fetchOp l early).data).fenceBefore = true) (hne : l.ops ≠ []) :
    s.issueOp id early opc rules run = s := by
  rw [issueOp_clean h hc hacc hs]
  split
  · rfl
  · exact if_pos (by simp [hf, hne])

/-- The operation comes to its checks. -/
theorem issueOp_checked (h : s.list? id = some l) (hc : s.canIssue l = true) (hacc : (s.fetchOp l early).acc = .ok)
    (hs : (s.fetchOp l early).s = s)
    (hop : (Claims.newOp s l (s.fetchOp l early).data).opcode = opc ∨
      opUnits (Claims.newOp s l (s.fetchOp l early).data).opcode = 0)
    (hf : (Claims.newOp s l (s.fetchOp l early).data).fenceBefore = false ∨ l.ops = []) :
    let o := Claims.newOp s l (s.fetchOp l early).data
    s.issueOp id early opc rules run =
      match issueErr s l o rules with
      | some e => (s.issuing l o).finishOp id l.next e.1 e.2
      | none => run (s.recorded l o) (l.issuing o) o := by
  rw [issueOp_clean h hc hacc hs]
  exact (if_neg (by rcases hop with hop | hop <;> simp [hop])).trans (if_neg (by rcases hf with hf | hf <;> simp [hf]))

end

/-! ### A failing check -/

theorem list?_issuing {s : State} {id : Nat} {l : WorkList} (o : Op) (h : s.list? id = some l) :
    (s.issuing l o).list? id = some (l.issuing o) := by
  have hid : (l.issuing o).id = id := (State.list?_id h : l.id = id)
  rw [← hid]
  exact State.list?_setList_same (s := { s with issueOrder := s.issueOrder + 1 }) (k := l) (hid.symm ▸ h)

theorem op?_issuing {l : WorkList} {o : Op} (ho : o.offset = l.next) (hn : l.op? l.next = none) :
    (l.issuing o).op? l.next = some o := by
  have h : l.ops.find? (fun y => y.offset = o.offset) = none := by rw [ho]; exact hn
  rw [← ho]
  exact find?_offset_append h

theorem only_issuing (s : State) (l : WorkList) (o : Op) : Only [.lists, .issueOrder] [] s (s.issuing l o) :=
  only_State_setList _ (l.issuing o) ((Only.refl s).upd_issueOrder (by decide)) (by decide)

/-- The list after an operation that failed its checks. -/
def WorkList.malformed (l : WorkList) (o : Op) (d : Nat) : WorkList :=
  { l.issuing o with ops := l.ops ++ [{ o with stage := .finished, status := osMalformed, detail := d }],
                     failed := some (l.next, osMalformed) }

theorem ended_issuing {l : WorkList} {o : Op} (d : Nat) (ho : o.offset = l.next) (hn : l.op? l.next = none)
    (hfail : l.failed = none) (hstop : l.stopStatus = none) :
    (l.issuing o).ended o l.next osMalformed d = l.malformed o d := by
  have h : l.ops.find? (fun y => y.offset = o.offset) = none := by rw [ho]; exact hn
  have hset : (l.issuing o).setOp (o.ended osMalformed d) =
      { l.issuing o with ops := l.ops ++ [o.ended osMalformed d] } := by
    rw [WorkList.setOp]
    exact congrArg (fun os => { l.issuing o with ops := os }) (map_setOp_append (p := o.ended osMalformed d) h rfl)
  rw [WorkList.ended, if_neg (by rw [show (l.issuing o).stopStatus = l.stopStatus from rfl, hstop]; decide), hset]
  exact WorkList.fail_first _ _ hfail

theorem running_of_canIssue {s : State} {l : WorkList} (h : s.canIssue l = true) : l.failed = none ∧ l.stopStatus = none := by
  simp only [State.canIssue, Bool.and_eq_true, Option.isNone_iff_eq_none] at h
  exact ⟨h.1.1.1.1.1.1.2, h.1.1.1.1.1.2⟩

theorem malformed_issue {s : State} {id : Nat} {l : WorkList} {o : Op} (d : Nat) (h : s.list? id = some l)
    (hc : s.canIssue l = true) (ho : o.offset = l.next) (hq : o.stage = .queued) (hn : l.op? l.next = none) :
    let t := (s.issuing l o).finishOp id l.next osMalformed d
    Only [.lists, .issueOrder] [] s t ∧ t.list? id = some (l.malformed o d) ∧ ∀ j, j ≠ id → t.list? j = s.list? j := by
  obtain ⟨hfail, hstop⟩ := running_of_canIssue hc
  have hl := list?_issuing o h
  have hop := op?_issuing ho hn
  have hstage : o.stage ≠ .finished := by rw [hq]; decide
  intro t
  refine ⟨only_State_finishOp _ _ _ _ _ (only_issuing s l o) (by decide), ?_, fun j hj => ?_⟩
  · rw [← ended_issuing d ho hn hfail hstop]
    exact State.list?_finishOp osMalformed d hl hop hstage
  · have ht : t = (s.issuing l o).setList ((l.issuing o).ended o l.next osMalformed d) :=
      State.finishOp_of_op osMalformed d hl hop hstage
    have hid : ((l.issuing o).ended o l.next osMalformed d).id = id :=
      ((l.issuing o).id_ended o l.next osMalformed d).trans (State.list?_id h : l.id = id)
    rw [ht, State.list?_setList_ne _ _ (by rw [hid]; exact hj)]
    exact State.list?_setList_ne _ _ (by rw [show (l.issuing o).id = id from (State.list?_id h : l.id = id)]; exact hj)

/-! ### The rows -/

theorem exec_opRow {c : Instr} {id : Nat} {early : Option (List Byte)} {opc : Nat} (s : State)
    (h : Claims.opRow c = some (id, early, opc)) :
    ∃ rules run, exec c s = .next (s.issueOp id early opc rules run) := by
  unfold Claims.opRow at h
  split at h
  case h_18 => cases h
  all_goals
    cases h
    exact ⟨_, _, rfl⟩

theorem issueErr_past {s : State} {l : WorkList} {o : Op} {rules : State → WorkList → Op → OpErr}
    (h : l.units < l.next + max 1 (opUnits o.opcode)) : issueErr s l o rules = malformed 0 := if_pos h

theorem issueErr_word {s : State} {l : WorkList} {o : Op} {rules : State → WorkList → Op → OpErr} {d : Nat}
    (h : l.next + max 1 (opUnits o.opcode) ≤ l.units) (hw : wordCheck o.bytes = some d) :
    issueErr s l o rules = malformed d := by
  rw [issueErr, if_neg (by omega), hw]

theorem coreCheck_malformed {s : State} {l : WorkList} {o : Op} (h : s.coreCheck l o ≠ none) :
    s.coreCheck l o = malformed 3 := by
  unfold State.coreCheck need at h ⊢
  split_ifs at h ⊢ <;> first | rfl | exact absurd rfl h

theorem issueErr_core {s : State} {l : WorkList} {o : Op} {rules : State → WorkList → Op → OpErr}
    (h : l.next + max 1 (opUnits o.opcode) ≤ l.units) (hw : wordCheck o.bytes = none) (hc : s.coreCheck l o ≠ none) :
    issueErr s l o rules = malformed 3 := by
  rw [issueErr, if_neg (by omega), hw, coreCheck_malformed hc]
  rfl

/-- Settles O37: a row acts on the next operation of a list that can issue, and a failing check ends it. -/
theorem operationsAreCheckedAtIssue : Obligations.OperationsAreCheckedAtIssue := by
  unfold Obligations.OperationsAreCheckedAtIssue
  intro c id early opc s hrow
  obtain ⟨rules, run, he⟩ := exec_opRow s hrow
  rw [he]
  refine ⟨fun h => by rw [issueOp_noList h], fun l h => ⟨fun hc => by rw [issueOp_idle h hc], fun hc hacc hs => ?_⟩⟩
  intro bs o n bad
  refine ⟨fun hop hu => by rw [issueOp_other h hc hacc hs hop hu], fun hop =>
    ⟨fun hf hne => by rw [issueOp_fenced h hc hacc hs hf hne], fun hf hn => ?_⟩⟩
  have fails : ∀ d, issueErr s l o rules = malformed d → bad d := fun d hd => by
    have ht : s.issueOp id early opc rules run = (s.issuing l o).finishOp id l.next osMalformed d := by
      rw [issueOp_checked h hc hacc hs hop hf, show issueErr s l (Claims.newOp s l (s.fetchOp l early).data) rules = malformed d from hd]
      rfl
    obtain ⟨honly, hlist, hother⟩ := malformed_issue (o := o) d h hc rfl rfl hn
    exact ⟨_, congrArg _ ht, honly, hlist, hother⟩
  exact ⟨fun hp => fails 0 (issueErr_past hp), fun hu d hw => fails d (issueErr_word hu hw),
    fun hu hw hcore => fails 3 (issueErr_core hu hw hcore)⟩

end Sys2Proof.Machine
end

section
/-! Accesses to populated memory that holds clean codewords (R189 to R195): the bytes read, the bytes stored, and nothing
else but event counts. -/

namespace Sys2Proof.Machine

/-! ### Bytes of a map -/

theorem length_rdBytes (m : List (Nat × Byte)) (a n : Nat) : (rdBytes m a n).length = n := by simp [rdBytes]

theorem getElem?_rdBytes (m : List (Nat × Byte)) (a n i : Nat) (h : i < n) : (rdBytes m a n)[i]? = some (rdB m (a + i)) := by
  simp [rdBytes, h]

theorem getD_rdBytes (m : List (Nat × Byte)) (a n i : Nat) (h : i < n) : (rdBytes m a n).getD i 0 = rdB m (a + i) := by
  rw [List.getD_eq_getElem?_getD, getElem?_rdBytes m a n i h]
  rfl

theorem rdBytes_append (m : List (Nat × Byte)) (a i j : Nat) : rdBytes m a i ++ rdBytes m (a + i) j = rdBytes m a (i + j) := by
  simp [rdBytes, List.range_add, Nat.add_assoc]

theorem drop_rdBytes (m : List (Nat × Byte)) (a n i : Nat) : (rdBytes m a n).drop i = rdBytes m (a + i) (n - i) := by
  apply List.ext_getElem?
  intro k
  by_cases hk : k < n - i
  · rw [List.getElem?_drop, getElem?_rdBytes m a n _ (by omega), getElem?_rdBytes m (a + i) _ k hk, Nat.add_assoc]
  · rw [List.getElem?_eq_none (by simp [length_rdBytes]; omega), List.getElem?_eq_none (by simp [length_rdBytes]; omega)]

theorem take_rdBytes (m : List (Nat × Byte)) (a n i : Nat) (h : i ≤ n) : (rdBytes m a n).take i = rdBytes m a i := by
  apply List.ext_getElem?
  intro k
  by_cases hk : k < i
  · rw [List.getElem?_take_of_lt hk, getElem?_rdBytes m a n k (by omega), getElem?_rdBytes m a i k hk]
  · rw [List.getElem?_eq_none (by simp [length_rdBytes]; omega), List.getElem?_eq_none (by simp [length_rdBytes]; omega)]

theorem rdB_wrBytes (m : List (Nat × Byte)) (a : Nat) (bs : List Byte) (b : Nat) :
    rdB (wrBytes m a bs) b = if a ≤ b ∧ b < a + bs.length then bs.getD (b - a) 0 else rdB m b := by
  split
  · next h =>
    obtain ⟨i, rfl⟩ : ∃ i, b = a + i := ⟨b - a, by omega⟩
    have hi : i < bs.length := by omega
    rw [rdB_wrBytes_inside bs m a i hi, Nat.add_sub_cancel_left, List.getD_eq_getElem?_getD, List.getElem?_eq_getElem hi]
    rfl
  · next h => exact rdB_wrBytes_outside bs m a b (by omega)

/-! ### The sectors of a range -/

theorem mem_sectorsOf {a n q : Nat} : q ∈ sectorsOf a n ↔ ∃ b, a ≤ b ∧ b < a + n ∧ q = b / 64 * 64 := by
  unfold sectorsOf
  split
  · next h =>
    simp only [List.not_mem_nil, false_iff, not_exists]
    omega
  · next h =>
    simp only [List.mem_map, List.mem_range]
    constructor
    · rintro ⟨i, hi, rfl⟩
      refine ⟨max a ((a / 64 + i) * 64), by omega, by omega, by omega⟩
    · rintro ⟨b, h1, h2, rfl⟩
      exact ⟨b / 64 - a / 64, by omega, by omega⟩

/-- A place that holds bytes. -/
def Loc.stores : Loc → Bool
  | .ext .. | .bed .. => true
  | _ => false

/-- A sector of populated memory that holds a clean codeword, on no poisoned channel. -/
structure SectorOk (s : State) (q : Nat) : Prop where
  stores : (s.locate q).stores = true
  clean : ∀ c, c ∈ s.checks → c.1 ≠ q / 64
  live : ∀ n c i, s.locate q = .ext n c i → s.poisoned n c = false

theorem rangeAcc_ok_iff (s : State) (a n : Nat) :
    s.rangeAcc a n = .ok ↔ a + n ≤ 2 ^ 48 ∧ ∀ q ∈ sectorsOf a n, (s.locate q).stores = true := by
  unfold State.rangeAcc
  dsimp only
  constructor
  · intro h
    split at h
    · cases h
    · next h1 =>
      split at h
      · cases h
      · next h2 =>
        simp only [Bool.or_eq_true, decide_eq_true_eq, not_or, List.any_map, List.any_eq_true, not_exists, not_and,
          Function.comp] at h1 h2
        refine ⟨by omega, fun q hq => ?_⟩
        have e1 := h1.2 q hq
        have e2 := h2 q hq
        cases hl : s.locate q <;> rw [hl] at e1 e2 <;> first | rfl | exact absurd rfl e1 | exact absurd rfl e2
  · rintro ⟨hn, hq⟩
    rw [if_neg, if_neg]
    · simp only [List.any_map, List.any_eq_true, Function.comp, not_exists, not_and]
      intro q hm
      have := hq q hm
      cases hl : s.locate q <;> rw [hl] at this <;> first | exact Bool.false_ne_true | cases this
    · simp only [Bool.or_eq_true, decide_eq_true_eq, not_or, List.any_map, List.any_eq_true, Function.comp, not_exists, not_and]
      refine ⟨by omega, fun q hm => ?_⟩
      have := hq q hm
      cases hl : s.locate q <;> rw [hl] at this <;> first | exact Bool.false_ne_true | cases this

theorem sound_iff (s : State) (a n : Nat) :
    Claims.sound s a n = true ↔ a + n ≤ 2 ^ 48 ∧ ∀ q ∈ sectorsOf a n, SectorOk s q := by
  rw [Claims.sound, Bool.and_eq_true, decide_eq_true_eq, rangeAcc_ok_iff, List.all_eq_true]
  have hsec : ∀ q, ((s.checks.all (fun c => decide (c.1 ≠ q / 64)) && !(match s.locate q with
      | .ext n c _ => s.poisoned n c
      | _ => false)) = true ↔ (∀ c, c ∈ s.checks → c.1 ≠ q / 64) ∧ ∀ n c i, s.locate q = .ext n c i → s.poisoned n c = false) := by
    intro q
    rw [Bool.and_eq_true, List.all_eq_true]
    refine and_congr (by simp only [decide_eq_true_eq]) ?_
    cases hl : s.locate q <;> simp
  constructor
  · rintro ⟨⟨hn, hs⟩, h⟩
    exact ⟨hn, fun q hq => ⟨hs q hq, ((hsec q).1 (h q hq)).1, ((hsec q).1 (h q hq)).2⟩⟩
  · rintro ⟨hn, h⟩
    exact ⟨⟨hn, fun q hq => (h q hq).stores⟩, fun q hq => (hsec q).2 ⟨(h q hq).clean, (h q hq).live⟩⟩

theorem sectorOk_of_sound {s : State} {a n b : Nat} (h : Claims.sound s a n = true) (h1 : a ≤ b) (h2 : b < a + n) :
    SectorOk s (b / 64 * 64) := ((sound_iff s a n).1 h).2 _ (mem_sectorsOf.2 ⟨b, h1, h2, rfl⟩)

/-- Part of a sound range is sound. -/
theorem sound_within {s : State} {a n b k : Nat} (h : Claims.sound s a n = true) (h1 : a ≤ b) (h2 : b + k ≤ a + n) :
    Claims.sound s b k = true := by
  obtain ⟨hn, hq⟩ := (sound_iff s a n).1 h
  refine (sound_iff s b k).2 ⟨by omega, fun q hm => hq q ?_⟩
  obtain ⟨c, hc1, hc2, rfl⟩ := mem_sectorsOf.1 hm
  exact mem_sectorsOf.2 ⟨c, by omega, by omega, rfl⟩

/-! ### Reading -/

theorem decodeAt_sectorOk {s : State} {q : Nat} (h : SectorOk s q) :
    s.decodeAt (s.locate q) q = ⟨.clean, rdBytes s.mem q 64⟩ := by
  have hfind : s.checks.find? (fun x => x.1 = q / 64) = none := by
    rw [List.find?_eq_none]
    exact fun c hc => by simpa using h.clean c hc
  unfold State.decodeAt
  dsimp only
  rw [hfind]
  refine if_neg fun hbad => ?_
  split at hbad
  · next n c i hl => rw [h.live n c i hl] at hbad; cases hbad
  · cases hbad

theorem countOutcome_clean (s : State) (l : Loc) : s.countOutcome l .clean = s := by
  unfold State.countOutcome
  split <;> first | rfl | contradiction

theorem readSector_sectorOk {s : State} {q : Nat} (tenant : Nat) (h : SectorOk s q) :
    s.readSector q tenant = (s, ⟨.clean, rdBytes s.mem q 64⟩) := by
  unfold State.readSector
  dsimp only
  rw [decodeAt_sectorOk h, countOutcome_clean]
  rfl

theorem rdBytes_sectors (m : List (Nat × Byte)) (k n : Nat) :
    ((List.range n).map fun i => (k + i) * 64).flatMap (fun q => rdBytes m q 64) = rdBytes m (k * 64) (n * 64) := by
  induction n with
  | zero => rfl
  | succ n ih =>
    rw [List.range_succ, List.map_append, List.flatMap_append, ih]
    simp only [List.map_cons, List.map_nil, List.flatMap_cons, List.flatMap_nil, List.append_nil]
    rw [show (k + n) * 64 = k * 64 + n * 64 by omega, rdBytes_append, show n * 64 + 64 = (n + 1) * 64 by omega]

/-- The bytes of a range, cut out of its sectors. -/
theorem rdBytes_of_sectors (m : List (Nat × Byte)) (a n : Nat) :
    (((sectorsOf a n).flatMap fun q => rdBytes m q 64).drop (a % 64)).take n = rdBytes m a n := by
  unfold sectorsOf
  split
  · next h => subst h; simp [rdBytes]
  · next h =>
    rw [rdBytes_sectors, drop_rdBytes, take_rdBytes _ _ _ _ (by omega), show a / 64 * 64 + a % 64 = a by omega]

theorem foldl_readSector (s : State) (tenant : Nat) (qs : List Nat) (bad : Bool) (data : List Byte)
    (h : ∀ q ∈ qs, SectorOk s q) :
    qs.foldl (fun (x : State × Bool × List Byte) q =>
      let y := x.1.readSector q tenant
      (y.1, x.2.1 || y.2.outcome.isBad, x.2.2 ++ (if y.2.outcome.isBad then List.replicate 64 0 else y.2.data)))
      (s, bad, data) = (s, bad, data ++ qs.flatMap fun q => rdBytes s.mem q 64) := by
  induction qs generalizing data with
  | nil => simp
  | cons q qs ih =>
    rw [List.foldl_cons]
    dsimp only
    rw [readSector_sectorOk tenant (h q (List.mem_cons_self ..))]
    have hclean : SectorOutcome.clean.isBad = false := rfl
    dsimp only
    rw [hclean, Bool.or_false, if_neg Bool.false_ne_true, ih _ fun p hp => h p (List.mem_cons_of_mem _ hp), List.flatMap_cons,
      List.append_assoc]

/-- R191: a read of a sound range delivers its bytes and changes nothing. -/
theorem readMem_sound {s : State} {a n : Nat} (tenant node : Nat) (h : Claims.sound s a n = true) :
    s.readMem a n tenant node = ⟨s, .ok, rdBytes s.mem a n⟩ := by
  have hacc : s.rangeAcc a n = .ok := of_decide_eq_true (Bool.and_eq_true_iff.1 h).1
  rw [State.readMem, hacc]
  dsimp only
  rw [State.readRaw]
  dsimp only
  rw [foldl_readSector s tenant _ false [] ((sound_iff s a n).1 h).2]
  dsimp only
  rw [List.nil_append, rdBytes_of_sectors, if_neg Bool.false_ne_true]

/-! ### Writing -/

/-- The counts of every unit. -/
def isCount : Reg → Prop
  | .ctrVal u n => n < unitCtrs u
  | _ => False

/-- From `s` to `t` bytes were stored in clean codewords: nothing else changed but event counts. -/
structure Stored (s t : State) : Prop where
  only : Only [.mem, .checks, .stores] [.ctrVal] s t
  counts : RegsBut isCount s t
  checks : ∀ c, c ∈ t.checks → c ∈ s.checks

theorem Stored.refl (s : State) : Stored s s := ⟨Only.refl s, .refl s, fun _ h => h⟩

theorem Stored.trans {s t u : State} (h : Stored s t) (k : Stored t u) : Stored s u :=
  ⟨h.only.trans k.only, h.counts.trans k.counts, fun c hc => h.checks c (k.checks c hc)⟩

theorem isCount_high {r : Reg} (h : isCount r) : ∃ u n, n < unitCtrs u ∧ r = .ctrVal u n := by
  cases r with
  | ctrVal u n => exact ⟨u, n, h, rfl⟩
  | _ => exact h.elim

/-- What lies apart from every count is as before. -/
theorem Stored.reg_eq {s t : State} (h : Stored s t) {q : Reg} (hq : ∀ u n, n < unitCtrs u → q.off ≠ (Reg.ctrVal u n).off) :
    t.reg q = s.reg q :=
  h.counts.reg q fun r hr => by
    obtain ⟨u, n, hn, rfl⟩ := isCount_high hr
    exact hq u n hn

theorem memChstat_off_ne_ctrVal {n c u i : Nat} (hc : c < 16) (hi : i < unitCtrs u) :
    (Reg.memChstat n c).off ≠ (Reg.ctrVal u i).off := by
  rw [Reg.memChstat_off, Reg.ctrVal_off]
  unfold unitVals coreBlk portBlk blk
  unfold unitCtrs at hi
  split_ifs at hi ⊢ <;> omega

theorem memInject_off_ne_ctrVal {n u i : Nat} (hi : i < unitCtrs u) : (Reg.memInject n).off ≠ (Reg.ctrVal u i).off := by
  rw [Reg.memInject_off, Reg.ctrVal_off]
  unfold unitVals coreBlk portBlk blk
  unfold unitCtrs at hi
  split_ifs at hi ⊢ <;> omega

theorem State.locate_congr {s t : State} (hf : t.fuses = s.fuses) (hm : t.chanMapped = s.chanMapped)
    (hd : t.domains = s.domains) (hc : t.coreState = s.coreState) (hb : t.bankRetired = s.bankRetired) :
    t.locate = s.locate := by
  have hlist : t.chanList = s.chanList := by
    unfold State.chanList State.mapped
    rw [hf, hm]
  have hlost : t.dieLost = s.dieLost := by
    funext d
    rw [State.dieLost, State.dieLost, State.dom_congr hd]
  funext a
  unfold State.locate State.extLoc State.extTop State.coreEnabled State.retired
  rw [hlist, hlost, hc, hb]

theorem Stored.locate {s t : State} (h : Stored s t) : t.locate = s.locate :=
  State.locate_congr h.only.make (h.only.part .chanMapped (by decide)) (h.only.part .domains (by decide))
    (h.only.part .coreState (by decide)) (h.only.part .bankRetired (by decide))

theorem Stored.sectorOk {s t : State} (h : Stored s t) {q : Nat} (k : SectorOk s q) : SectorOk t q := by
  refine ⟨by rw [h.locate]; exact k.stores, fun c hc => k.clean c (h.checks c hc), fun n c i hl => ?_⟩
  rw [h.locate] at hl
  have hc : (Loc.ext n c i).chanOk := hl ▸ locate_chanOk s q
  have hreg := h.reg_eq (q := .memChstat n c) fun u j hj => memChstat_off_ne_ctrVal hc hj
  rw [State.poisoned, State.regF_congr hreg 30 2]
  exact k.live n c i hl

theorem Stored.sound {s t : State} (h : Stored s t) {a n : Nat} (k : Claims.sound s a n = true) : Claims.sound t a n = true := by
  obtain ⟨hn, hq⟩ := (sound_iff s a n).1 k
  exact (sound_iff t a n).2 ⟨hn, fun q hm => h.sectorOk (hq q hm)⟩

theorem Stored.quiet {s t : State} (h : Stored s t) (k : Claims.quiet s = true) : Claims.quiet t = true := by
  unfold Claims.quiet at k ⊢
  rw [List.all_eq_true] at k ⊢
  intro n hn
  have hreg := h.reg_eq (q := .memInject n) fun u j hj => memInject_off_ne_ctrVal hj
  rw [State.regBit_congr hreg 63]
  exact k n hn

theorem stored_ctr (s : State) (u code n : Nat) : Stored s (s.ctr u code n) :=
  ⟨only_State_ctr s u code n (Only.refl s) (by decide), (RegsBut.refl s).ctr u code n fun _ hi => hi, fun c hc => by
    have hk : (s.ctr u code n).checks = s.checks :=
      (only_State_ctr (Ps := []) (Ks := [.ctrVal]) s u code n (Only.refl s) (by decide)).part .checks (by decide)
    exact hk ▸ hc⟩

theorem mem_of_mem_removeKey {α : Type} {k : Nat} {m : List (Nat × α)} {e : Nat × α} (h : e ∈ removeKey k m) : e ∈ m := by
  induction m with
  | nil => exact h
  | cons c m ih =>
    rw [removeKey] at h
    split at h
    · exact List.mem_cons_of_mem _ (ih h)
    · rcases List.mem_cons.1 h with rfl | h
      · exact List.mem_cons_self ..
      · exact List.mem_cons_of_mem _ (ih h)

/-- A clean codeword at a sector. -/
def State.cleanAt (s : State) (q : Nat) (bs : List Byte) : State :=
  { s with mem := wrBytes s.mem q bs, checks := removeKey (q / 64) s.checks }

theorem stored_cleanAt (s : State) (q : Nat) (bs : List Byte) : Stored s (s.cleanAt q bs) :=
  ⟨(Only.refl s).upd_mem_checks (by decide) (by decide), (RegsBut.refl s).of_regs rfl rfl, fun _ h => mem_of_mem_removeKey h⟩

theorem stack_lt_of_chanList {s : State} {n c : Nat} (h : (n, c) ∈ s.chanList) : n < 12 := by
  simp only [State.chanList, List.mem_flatMap, List.mem_map, List.mem_filter, List.mem_range, Prod.mk.injEq] at h
  obtain ⟨_, _, _, ⟨hn, _⟩, rfl, _⟩ := h
  exact hn

theorem stack_lt_of_locate {s : State} {a n c i : Nat} (h : s.locate a = .ext n c i) : n < 12 := by
  have hext : ∀ low, s.extLoc low = .ext n c i → n < 12 := by
    intro low hl
    unfold State.extLoc at hl
    dsimp only at hl
    split at hl
    · split at hl
      · next n' c' hget =>
        split at hl
        · cases hl
        · cases hl
          exact stack_lt_of_chanList (List.mem_of_getElem? hget)
      · cases hl
    · cases hl
  unfold State.locate at h
  dsimp only at h
  split_ifs at h
  exact hext _ h

theorem not_injected {s : State} {a n c i : Nat} (hq : Claims.quiet s = true) (h : s.locate a = .ext n c i) :
    s.regBit (.memInject n) 63 = false := by
  rw [Claims.quiet, List.all_eq_true] at hq
  simpa using hq n (List.mem_range.2 (stack_lt_of_locate h))

/-- A write here meets no injected error: none is armed, or the place lies above external memory. -/
def Unarmed (s : State) (a : Nat) : Prop := Claims.quiet s = true ∨ 2 ^ 44 ≤ a

theorem locate_above_ext {s : State} {a n c i : Nat} (h : 2 ^ 44 ≤ a) (h' : a < 2 ^ 48) : s.locate a ≠ .ext n c i := by
  intro hl
  unfold State.locate at hl
  dsimp only at hl
  rw [if_neg (by omega)] at hl
  split_ifs at hl

theorem storeClean_sound {s : State} {q : Nat} (data : List Byte) (h : SectorOk s q)
    (hq : ∀ n c i, s.locate q = .ext n c i → s.regBit (.memInject n) 63 = false) :
    Stored s (s.storeClean (s.locate q) q data) ∧ (s.storeClean (s.locate q) q data).mem = wrBytes s.mem q data := by
  have hs := h.stores
  unfold State.storeClean
  dsimp only
  split
  · next n c i hl =>
    rw [if_neg (by rw [h.live n c i hl]; decide), if_neg (by rw [hq n c i hl]; simp)]
    have hctr := stored_ctr (s.cleanAt q data) (unitChan n c) 0x1002 1
    refine ⟨(stored_cleanAt s q data).trans hctr, ?_⟩
    exact (only_State_ctr (Ps := []) (Ks := [.ctrVal]) (s.cleanAt q data) (unitChan n c) 0x1002 1 (Only.refl _)
      (by decide)).part .mem (by decide)
  · exact ⟨stored_cleanAt s q data, rfl⟩
  · next h1 h2 =>
    cases hl : s.locate q with
    | ext n c i => exact (h1 n c i hl).elim
    | bed k b i => exact (h2 k b i hl).elim
    | _ => rw [hl] at hs; cases hs

theorem mergeSector_sound {s : State} {q : Nat} (o : Nat) (bs : List Byte) (tenant : Nat) (h : SectorOk s q) :
    s.mergeSector (s.locate q) q o bs tenant =
      s.cleanAt q ((rdBytes s.mem q 64).take o ++ bs ++ (rdBytes s.mem q 64).drop (o + bs.length)) := by
  unfold State.mergeSector
  dsimp only
  rw [if_neg, decodeAt_sectorOk h, countOutcome_clean]
  · rfl
  · intro hbad
    split at hbad
    · next n c i hl => rw [h.live n c i hl] at hbad; cases hbad
    · cases hbad

/-- Bytes from `a` upward became `bs`; the others stay. -/
def Holds (m m' : List (Nat × Byte)) (a : Nat) (bs : List Byte) : Prop :=
  ∀ b, rdB m' b = if a ≤ b ∧ b < a + bs.length then bs.getD (b - a) 0 else rdB m b

theorem holds_wrBytes (m : List (Nat × Byte)) (a : Nat) (bs : List Byte) : Holds m (wrBytes m a bs) a bs := rdB_wrBytes m a bs

/-- Merging bytes into a sector stores them and leaves the rest of it. -/
theorem holds_merge (m : List (Nat × Byte)) (q o : Nat) (bs : List Byte) (h : o + bs.length ≤ 64) :
    Holds m (wrBytes m q ((rdBytes m q 64).take o ++ bs ++ (rdBytes m q 64).drop (o + bs.length))) (q + o) bs := by
  intro b
  have hlen : ((rdBytes m q 64).take o ++ bs ++ (rdBytes m q 64).drop (o + bs.length)).length = 64 := by
    simp [length_rdBytes]; omega
  rw [rdB_wrBytes, hlen, take_rdBytes _ _ _ _ (by omega), drop_rdBytes]
  by_cases hin : q ≤ b ∧ b < q + 64
  · rw [if_pos hin, List.getD_eq_getElem?_getD]
    by_cases h1 : b < q + o
    · rw [if_neg (by omega), List.append_assoc, List.getElem?_append_left (by rw [length_rdBytes]; omega),
        getElem?_rdBytes _ _ _ _ (by omega), show q + (b - q) = b by omega]
      rfl
    · by_cases h2 : b < q + o + bs.length
      · rw [if_pos (by omega), List.append_assoc, List.getElem?_append_right (by rw [length_rdBytes]; omega), length_rdBytes,
          List.getElem?_append_left (by omega), List.getD_eq_getElem?_getD, show b - q - o = b - (q + o) by omega]
      · rw [if_neg (by omega), List.getElem?_append_right (by simp [length_rdBytes]; omega),
          getElem?_rdBytes _ _ _ _ (by simp [length_rdBytes]; omega)]
        simp only [List.length_append, length_rdBytes, Option.getD_some]
        congr 1
        omega
  · rw [if_neg hin, if_neg (by omega)]

theorem Holds.append {m m' m'' : List (Nat × Byte)} {a : Nat} {x y : List Byte} (h : Holds m m' a x)
    (k : Holds m' m'' (a + x.length) y) : Holds m m'' a (x ++ y) := by
  intro b
  rw [k b, h b, List.length_append]
  by_cases h1 : a + x.length ≤ b ∧ b < a + x.length + y.length
  · rw [if_pos h1, if_pos (by omega), List.getD_eq_getElem?_getD, List.getD_eq_getElem?_getD,
      List.getElem?_append_right (by omega), Nat.sub_sub]
  · rw [if_neg h1]
    by_cases h2 : a ≤ b ∧ b < a + x.length
    · rw [if_pos h2, if_pos (by omega), List.getD_eq_getElem?_getD, List.getD_eq_getElem?_getD,
        List.getElem?_append_left (by omega)]
    · rw [if_neg h2, if_neg (by omega)]

theorem writeRaw_sound (fuel : Nat) (s : State) (a tenant : Nat) (bs : List Byte) (h : Claims.sound s a bs.length = true)
    (hq : Unarmed s a) (hf : bs.length = 0 ∨ a % 64 + bs.length ≤ 64 * fuel) :
    Stored s (s.writeRaw a tenant bs fuel) ∧ Holds s.mem (s.writeRaw a tenant bs fuel).mem a bs := by
  induction fuel generalizing s a bs with
  | zero =>
    obtain rfl : bs = [] := List.length_eq_zero_iff.1 (by omega)
    exact ⟨Stored.refl s, holds_wrBytes s.mem a []⟩
  | succ fuel ih =>
    unfold State.writeRaw
    split
    · exact ⟨Stored.refl s, holds_wrBytes s.mem a []⟩
    next hne =>
    have hpos : 0 < bs.length := List.length_pos_iff.2 hne
    have hsec : SectorOk s (a - a % 64) := by
      have := sectorOk_of_sound h (Nat.le_refl a) (by omega)
      rwa [show a / 64 * 64 = a - a % 64 by omega] at this
    dsimp only
    have hinj : ∀ n c i, s.locate (a - a % 64) = .ext n c i → s.regBit (.memInject n) 63 = false := fun n c i hl => by
      rcases hq with hq | hq
      · exact not_injected hq hl
      · obtain ⟨htop, -⟩ := (sound_iff s a bs.length).1 h
        exact absurd hl (locate_above_ext (by omega) (by omega))
    have hpiece : (bs.take (64 - a % 64)).length = min (64 - a % 64) bs.length := List.length_take
    have hstep : ∀ t, t = (if (bs.take (64 - a % 64)).length = 64 then
          s.storeClean (s.locate (a - a % 64)) (a - a % 64) (bs.take (64 - a % 64))
        else s.mergeSector (s.locate (a - a % 64)) (a - a % 64) (a % 64) (bs.take (64 - a % 64)) tenant) →
        Stored s t ∧ Holds s.mem t.mem a (bs.take (64 - a % 64)) := by
      rintro _ rfl
      split
      · next hfull =>
        obtain ⟨h1, h2⟩ := storeClean_sound (bs.take (64 - a % 64)) hsec hinj
        refine ⟨h1, ?_⟩
        rw [h2, show a - a % 64 = a by omega]
        exact holds_wrBytes _ _ _
      · rw [mergeSector_sound _ _ tenant hsec]
        refine ⟨stored_cleanAt s _ _, ?_⟩
        have := holds_merge s.mem (a - a % 64) (a % 64) (bs.take (64 - a % 64)) (by omega)
        rwa [show a - a % 64 + a % 64 = a by omega] at this
    obtain ⟨hst, hholds⟩ := hstep _ rfl
    obtain ⟨hrest, hrest'⟩ := ih _ (a + (bs.take (64 - a % 64)).length) (bs.drop (64 - a % 64))
      (hst.sound (sound_within h (by omega) (by rw [List.length_drop]; omega))) (hq.imp hst.quiet fun hq => by omega)
      (by rw [List.length_drop, hpiece]; rcases Nat.le_total (64 - a % 64) bs.length with hle | hle <;> omega)
    exact ⟨hst.trans hrest, by simpa using hholds.append hrest'⟩

/-- R193: a write of a sound range, with no error injected, stores its bytes and nothing else. -/
theorem writeMem_unarmed {s : State} {a : Nat} (tenant node : Nat) (bs : List Byte) (h : Claims.sound s a bs.length = true)
    (hq : Unarmed s a) : (s.writeMem a tenant node bs).2 = .ok ∧ Stored s (s.writeMem a tenant node bs).1 ∧
      Holds s.mem (s.writeMem a tenant node bs).1.mem a bs := by
  have hacc : s.rangeAcc a bs.length = .ok := of_decide_eq_true (Bool.and_eq_true_iff.1 h).1
  obtain ⟨h1, h2⟩ := writeRaw_sound (bs.length / 64 + 2) s a tenant bs h hq (.inr (by omega))
  rw [State.writeMem, hacc]
  exact ⟨rfl, h1, h2⟩

theorem writeMem_sound {s : State} {a : Nat} (tenant node : Nat) (bs : List Byte) (h : Claims.sound s a bs.length = true)
    (hq : Claims.quiet s = true) : (s.writeMem a tenant node bs).2 = .ok ∧ Stored s (s.writeMem a tenant node bs).1 ∧
      Holds s.mem (s.writeMem a tenant node bs).1.mem a bs :=
  writeMem_unarmed tenant node bs h (.inl hq)

theorem stored_of_holds {s t : State} {a : Nat} {bs : List Byte} (h : Holds s.mem t.mem a bs) : Claims.stored s t a bs := h

theorem mem_ctr (s : State) (u code n : Nat) : (s.ctr u code n).mem = s.mem :=
  (only_State_ctr (Ps := []) (Ks := [.ctrVal]) s u code n (Only.refl s) (by decide)).part .mem (by decide)

/-- An operand in memory is written and its sectors counted. -/
theorem opWrite_sound {s : State} {k tenant a : Nat} {g : Seg} (bs : List Byte) (h : Claims.sound s a bs.length = true)
    (hq : Claims.quiet s = true) : (s.opWrite k tenant (.dev a g) bs).2 = .ok ∧ Stored s (s.opWrite k tenant (.dev a g) bs).1 ∧
      Holds s.mem (s.opWrite k tenant (.dev a g) bs).1.mem a bs := by
  obtain ⟨h1, h2, h3⟩ := writeMem_sound tenant k bs h hq
  refine ⟨h1, h2.trans (stored_ctr _ _ _ _), ?_⟩
  rw [State.opWrite, mem_ctr]
  exact h3

/-- An operand in memory is read and its sectors counted. -/
theorem opRead_sound {s : State} {k tenant a n : Nat} {g : Seg} (h : Claims.sound s a n = true) :
    (s.opRead k tenant (.dev a g) n).acc = .ok ∧ (s.opRead k tenant (.dev a g) n).data = rdBytes s.mem a n ∧
      ∃ code, (s.opRead k tenant (.dev a g) n).s = s.ctr k code (ceilDiv n 64) := by
  rw [State.opRead, readMem_sound tenant k h]
  split
  · exact ⟨rfl, rfl, _, rfl⟩
  · exact ⟨rfl, rfl, _, rfl⟩

end Sys2Proof.Machine
end

section
/-! Which registers sending a frame, writing an operand and firing a semaphore can touch. -/

namespace Sys2Proof.Machine

theorem RegsBut.emit {A : Reg → Prop} {s t : State} (h : RegsBut A s t) (o : Output) : RegsBut A s (t.emit o) :=
  h.of_regs rfl rfl

theorem RegsBut.setSpan {A : Reg → Prop} {s t : State} (h : RegsBut A s t) (p : Nat) (x : Span) : RegsBut A s (t.setSpan p x) :=
  h.of_regs rfl rfl

section
variable {A : Reg → Prop} {s0 : State}

/-- A frame counts at its port alone. -/
theorem counts_sendFrame (hA : ∀ u n, n < unitCtrs u → A (.ctrVal u n)) (s : State) (p : Nat) (nack : Bool) (msgs : List Msg)
    (h : RegsBut A s0 s) : RegsBut A s0 (s.sendFrame p nack msgs) := by
  unfold State.sendFrame
  exact ((h.setSpan p _).emit _).ctr _ _ _ (hA _)

theorem counts_pump (hA : ∀ u n, n < unitCtrs u → A (.ctrVal u n)) (s : State) (p fuel : Nat) (h : RegsBut A s0 s) :
    RegsBut A s0 (s.pump p fuel) := by
  induction fuel generalizing s with
  | zero => exact h
  | succ fuel ih =>
    unfold State.pump
    dsimp only
    split_ifs
    · exact h
    · exact ih _ (counts_sendFrame hA _ p false _ (h.setSpan p _))
    · exact h

theorem counts_sendControl (hA : ∀ u n, n < unitCtrs u → A (.ctrVal u n)) (s : State) (p : Nat) (nack : Bool)
    (h : RegsBut A s0 s) : RegsBut A s0 (s.sendControl p nack) := by
  unfold State.sendControl
  split
  · exact counts_sendFrame hA s p nack [] h
  · exact h

theorem counts_sendOut (hA : ∀ u n, n < unitCtrs u → A (.ctrVal u n)) (s : State) (die : Nat) (m : Msg) (h : RegsBut A s0 s) :
    RegsBut A s0 (s.sendOut die m).1 := by
  unfold State.sendOut
  split
  · exact h
  · dsimp only
    split
    · exact counts_pump hA _ _ 64 (h.setSpan _ _)
    · exact h

end

section
variable {s0 : State}

theorem touched_ctr (s : State) (u code n : Nat) (h : RegsBut memoryTouches s0 s) : RegsBut memoryTouches s0 (s.ctr u code n) :=
  h.ctr u code n fun _ hi => hi

theorem touched_opWrite (s : State) (k tenant : Nat) (p : Place) (bs : List Byte) (h : RegsBut memoryTouches s0 s) :
    RegsBut memoryTouches s0 (s.opWrite k tenant p bs).1 := by
  unfold State.opWrite
  split
  · exact touched_ctr _ _ _ _ (touched_writeMem s _ _ _ bs h)
  · exact h.of_regs rfl rfl
  · exact h.of_regs rfl rfl

theorem touched_writeRecord (s : State) (l : WorkList) (o : Op) (bs : List Byte) (h : RegsBut memoryTouches s0 s) :
    RegsBut memoryTouches s0 (s.writeRecord l o bs) := by
  unfold State.writeRecord
  split
  · exact touched_opWrite s _ _ _ bs h
  · exact h

theorem touched_atomicMem (s : State) (a tenant node v : Nat) (h : RegsBut memoryTouches s0 s) :
    RegsBut memoryTouches s0 (s.atomicMem a tenant node v).1 := by
  have hread := touched_readMem s a 8 tenant node h
  unfold State.atomicMem
  dsimp only
  split
  · exact touched_writeMem _ _ _ _ _ hread
  · exact hread

theorem touched_finishOp (s : State) (id off status detail : Nat) (h : RegsBut memoryTouches s0 s) :
    RegsBut memoryTouches s0 (s.finishOp id off status detail) := h.of_only (only_finishOp s id off status detail)

theorem touched_startOp (s : State) (id off : Nat) (h : RegsBut memoryTouches s0 s) :
    RegsBut memoryTouches s0 (s.startOp id off) := h.of_only (only_startOp s id off)

theorem only_listEvent (s : State) (l : WorkList) (off : Nat) : Only [.ic, .mbox] [] s (s.listEvent l off) :=
  only_State_listEvent s l off (Only.refl s) (by decide)

theorem touched_fireSignal (s : State) (l : WorkList) (o : Op) (h : RegsBut memoryTouches s0 s) :
    RegsBut memoryTouches s0 (s.fireSignal l o) := by
  have hstart := touched_startOp s l.id o.offset h
  have reqs : ∀ u r, RegsBut memoryTouches s0 u → RegsBut memoryTouches s0 { u with reqs := r } := fun u r hu => hu.of_regs rfl rfl
  unfold State.fireSignal
  generalize s.startOp l.id o.offset = u at hstart ⊢
  dsimp only
  split
  · have hq : RegsBut memoryTouches s0 (u.request (0x40 + l.home) (refOff (o.f 8 8)) l.tenant (some (l.id, o.offset))).1 :=
      hstart.of_only (only_State_request (Ps := [.reqs, .tagCtr]) u _ _ _ _ (Only.refl u) (by decide))
    have hsend := counts_sendOut (A := memoryTouches) (fun u n hn => hn) _ l.home
      ((u.request (0x40 + l.home) (refOff (o.f 8 8)) l.tenant (some (l.id, o.offset))).1.mkMsg (o.f 0x19 1) (0x40 + l.home) 2 1
        l.tenant (u.request (0x40 + l.home) (refOff (o.f 8 8)) l.tenant (some (l.id, o.offset))).2 1 (remoteAddr (o.f 8 8))
        (leBytes 8 (o.f 0x10 8))) hq
    split
    · exact hsend
    · exact touched_finishOp _ _ _ _ _ (reqs _ _ hsend)
  · split
    · next a g _ =>
      have hend := touched_finishOp _ l.id o.offset (u.atomicMem a l.tenant (0x40 + l.home) (o.f 0x10 8)).2.1.status 0
        (touched_atomicMem u a l.tenant (0x40 + l.home) (o.f 0x10 8) hstart)
      split
      · exact hend.of_only (only_listEvent _ l o.offset)
      · exact hend
    · exact touched_finishOp _ _ _ _ _ hstart

theorem touched_advance (s : State) (id : Nat) (h : RegsBut memoryTouches s0 s) : RegsBut memoryTouches s0 (s.advance id) := by
  unfold State.advance
  split
  · exact h
  split
  · exact h
  split_ifs
  · exact h
  · exact touched_finishOp _ _ _ _ _ (touched_startOp s _ _ h)
  · exact h
  · exact touched_fireSignal s _ _ h
  · exact touched_finishOp _ _ _ _ _ (touched_startOp s _ _ h)
  · exact touched_finishOp _ _ _ _ _ (touched_startOp s _ _ h)
  · exact h

end

end Sys2Proof.Machine
end

section
/-! OPERATION_COMPLETE (R259, R262, R273, R275, R382). -/

namespace Sys2Proof.Machine

/-! ### Facts about every operation in flight -/

/-- Every operation of every list satisfies `P`. -/
def State.allOps (s : State) (P : Op → Prop) : Prop := ∀ l, l ∈ s.lists → ∀ o, o ∈ l.ops → P o

section
variable {P : Op → Prop} {s t : State}

theorem State.allOps_congr (h : t.lists = s.lists) (k : s.allOps P) : t.allOps P := by
  unfold State.allOps
  rw [h]
  exact k

theorem State.allOps_setList (k : s.allOps P) {l : WorkList} (hl : ∀ o, o ∈ l.ops → P o) : (s.setList l).allOps P := by
  intro x hx
  obtain ⟨y, hy, rfl⟩ := List.mem_map.1 hx
  split
  · exact hl
  · exact k y hy

theorem State.mem_of_list? {id : Nat} {l : WorkList} (h : s.list? id = some l) : l ∈ s.lists := List.mem_of_find?_eq_some h

theorem WorkList.mem_of_op? {l : WorkList} {off : Nat} {o : Op} (h : l.op? off = some o) : o ∈ l.ops := List.mem_of_find?_eq_some h

theorem State.allOps_setOp (k : s.allOps P) (id : Nat) {o : Op} (ho : P o) : (s.setOp id o).allOps P := by
  unfold State.setOp
  split
  · next l hl =>
    refine State.allOps_setList k fun x hx => ?_
    obtain ⟨y, hy, rfl⟩ := List.mem_map.1 hx
    split
    · exact ho
    · exact k l (State.mem_of_list? hl) y hy
  · exact k

theorem State.allOps_finishOp (k : s.allOps P) (hP : ∀ (o : Op) status detail, P (o.ended status detail)) (id off status detail : Nat) :
    (s.finishOp id off status detail).allOps P := by
  cases hl : s.list? id with
  | none => rw [State.finishOp, hl]; exact k
  | some l =>
    cases ho : l.op? off with
    | none => rw [State.finishOp, hl]; dsimp only; rw [ho]; exact k
    | some o =>
      by_cases hs : o.stage = .finished
      · rw [State.finishOp, hl]
        dsimp only
        rw [ho]
        dsimp only
        rw [if_pos hs]
        exact k
      · rw [State.finishOp_of_op status detail hl ho hs]
        refine State.allOps_setList k fun x hx => ?_
        have hx' : x ∈ (l.setOp (o.ended status detail)).ops := by
          unfold WorkList.ended at hx
          split at hx
          · exact hx
          · rwa [WorkList.ops_fail] at hx
        obtain ⟨y, hy, rfl⟩ := List.mem_map.1 hx'
        split
        · exact hP o status detail
        · exact k l (State.mem_of_list? hl) y hy

theorem State.allOps_startOp (k : s.allOps P) (id off : Nat) (hP : ∀ o, s.op? id off = some o → P (o.begun s)) :
    (s.startOp id off).allOps P := by
  cases ho : s.op? id off with
  | none => rw [State.startOp, ho]; exact k
  | some o =>
    by_cases hq : o.stage = .queued
    · rw [State.startOp_of_op ho hq]
      exact State.allOps_setOp k id (hP o ho)
    · rw [State.startOp, ho]
      dsimp only
      rw [if_neg hq]
      exact k

end

/-- A BANK_ATTEND under way. -/
def Op.attends (o : Op) : Prop := o.opcode = 6 ∧ o.stage = .started

theorem noBankAttend_iff (s : State) : Claims.noBankAttend s ↔ s.allOps fun o => ¬ o.attends := Iff.rfl

theorem not_attends_ended (o : Op) (status detail : Nat) : ¬ (o.ended status detail).attends := fun h => nomatch h.2

theorem not_attends_begun {o : Op} (s : State) (h : o.opcode ≠ 6) : ¬ (o.begun s).attends := fun k => h k.1

/-- Without a BANK_ATTEND under way nothing waits at the banks. -/
theorem pumpBanks_idle {s : State} (h : s.allOps fun o => ¬ o.attends) : s.pumpBanks = s := by
  have hnil : (s.lists.flatMap fun l => (l.ops.filter fun o => o.opcode = 6 && o.stage = .started).map
      fun o => (l.id, o.offset, o.order)) = [] := by
    rw [List.flatMap_eq_nil_iff]
    intro l hl
    rw [List.map_eq_nil_iff, List.filter_eq_nil_iff]
    intro o ho hb
    simp only [Bool.and_eq_true, decide_eq_true_eq] at hb
    exact h l hl o ho hb
  rw [State.pumpBanks, hnil]
  rfl

/-! ### An operation that has left does not come back -/

theorem State.op?_none_setList {s : State} {l : WorkList} {id off : Nat} (h : s.op? id off = none)
    (hl : l.id = id → l.op? off = none) : (s.setList l).op? id off = none := by
  by_cases hid : id = l.id
  · cases hs : s.list? l.id with
    | none =>
      have hn : (s.setList l).list? id = none := by
        rw [hid]
        refine (find?_setList s.lists l l.id).trans ?_
        rw [if_pos rfl]
        exact congrArg (Option.map fun _ => l) hs
      rw [State.op?, hn]
    | some k =>
      rw [State.op?_of_list (hid ▸ State.list?_setList_same hs)]
      exact hl hid.symm
  · rw [State.op?, State.list?_setList_ne s l hid]
    exact h

theorem WorkList.op?_none_setOp {l : WorkList} (o : Op) {off : Nat} (h : l.op? off = none) : (l.setOp o).op? off = none := by
  refine (find?_setOp l.ops o off).trans ?_
  split
  · exact congrArg (Option.map fun _ => o) h
  · exact h

theorem State.op?_none_setOp {s : State} {id off : Nat} (j : Nat) (o : Op) (h : s.op? id off = none) :
    (s.setOp j o).op? id off = none := by
  unfold State.setOp
  split
  · next l hl =>
    refine State.op?_none_setList h fun hid => WorkList.op?_none_setOp o ?_
    have hj : j = id := (State.list?_id hl).symm.trans hid
    rw [← State.op?_of_list (hj ▸ hl)]
    exact h
  · exact h

theorem State.op?_none_finishOp {s : State} {id off : Nat} (j at_ status detail : Nat) (h : s.op? id off = none) :
    (s.finishOp j at_ status detail).op? id off = none := by
  unfold State.finishOp
  split
  · exact h
  next l hl =>
  split
  · exact h
  next o ho =>
  split
  · exact h
  refine State.op?_none_setList h fun hid => ?_
  have hj : j = id := by
    have h1 := State.list?_id hl
    split at hid
    · exact h1.symm.trans hid
    · exact h1.symm.trans ((WorkList.id_fail (l.setOp _) _ _).symm.trans hid)
  have hnone : (l.setOp (o.ended status detail)).op? off = none :=
    WorkList.op?_none_setOp _ (by rw [← State.op?_of_list (hj ▸ hl)]; exact h)
  split
  · exact hnone
  · rw [WorkList.op?, WorkList.ops_fail]
    exact hnone

theorem State.op?_none_startOp {s : State} {id off : Nat} (j at_ : Nat) (h : s.op? id off = none) :
    (s.startOp j at_).op? id off = none := by
  unfold State.startOp
  split
  · split
    · exact State.op?_none_setOp j _ h
    · exact h
  · exact h

/-! ### Firing a signal and advancing a list -/

/-- What an update of lists keeps: no BANK_ATTEND under way, and the operation that has left. -/
structure Quiet (id off : Nat) (s : State) : Prop where
  idle : s.allOps fun o => ¬ o.attends
  gone : s.op? id off = none

namespace Quiet

variable {id off : Nat} {s t : State}

theorem congr (h : Quiet id off s) (k : t.lists = s.lists) : Quiet id off t :=
  ⟨State.allOps_congr k h.idle, (State.op?_congr k id off).trans h.gone⟩

theorem of_only {Ps : List Piece} {Ks : List RegKind} (h : Quiet id off s) (k : Only Ps Ks s t) (hp : Piece.lists ∉ Ps) :
    Quiet id off t := h.congr (k.part .lists hp)

theorem finishOp (h : Quiet id off s) (j at_ status detail : Nat) : Quiet id off (s.finishOp j at_ status detail) :=
  ⟨State.allOps_finishOp h.idle not_attends_ended j at_ status detail, State.op?_none_finishOp j at_ status detail h.gone⟩

theorem startOp (h : Quiet id off s) (j at_ : Nat) (hop : ∀ o, s.op? j at_ = some o → o.opcode ≠ 6) :
    Quiet id off (s.startOp j at_) :=
  ⟨State.allOps_startOp h.idle j at_ fun o ho => not_attends_begun s (hop o ho), State.op?_none_startOp j at_ h.gone⟩

theorem withReqs (h : Quiet id off s) (r : List Req) : Quiet id off { s with reqs := r } := h.congr rfl

end Quiet

theorem op?_head {s : State} {id : Nat} {l : WorkList} {o : Op} {os : List Op} (hl : s.list? id = some l) (ho : l.ops = o :: os) :
    s.op? id o.offset = some o := by
  rw [State.op?_of_list hl, WorkList.op?, ho, List.find?_cons_of_pos (by simp)]

theorem only_request (s : State) (node addr tenant : Nat) (op : Option (Nat × Nat)) :
    Only [.reqs, .tagCtr] [] s (s.request node addr tenant op).1 :=
  only_State_request s node addr tenant op (Only.refl s) (by decide)

theorem only_sendOut (s : State) (die : Nat) (m : Msg) : Only [.out, .ports] [.ctrVal] s (s.sendOut die m).1 :=
  only_State_sendOut s die m (Only.refl s) (by decide) (by decide)

theorem lists_atomicMem (s : State) (a tenant node v : Nat) : (s.atomicMem a tenant node v).1.lists = s.lists :=
  (only_State_atomicMem (Ps := [.mem, .checks, .fpDirty, .chanPoisoned, .hbm, .ic, .flog0, .flog1, .mbox]) (Ks := RegKind.all)
    s a tenant node v (Only.refl s) (List.Subset.refl _) fun k _ => RegKind.mem_all k).part .lists (by decide)

theorem quiet_fireSignal {id off : Nat} (s : State) (l : WorkList) (o : Op) (h : Quiet id off s)
    (hop : ∀ p, s.op? l.id o.offset = some p → p.opcode ≠ 6) : Quiet id off (s.fireSignal l o) := by
  have hstart := h.startOp l.id o.offset hop
  unfold State.fireSignal
  generalize s.startOp l.id o.offset = u at hstart ⊢
  dsimp only
  split
  · have hsend : ∀ m, Quiet id off ((u.request (0x40 + l.home) (refOff (o.f 8 8)) l.tenant (some (l.id, o.offset))).1.sendOut
        l.home m).1 := fun m => (hstart.of_only (only_request u _ _ _ _) (by decide)).of_only (only_sendOut _ _ _) (by decide)
    split
    · exact hsend _
    · exact ((hsend _).withReqs _).finishOp _ _ _ _
  · split
    · next a g _ =>
      have hend := (hstart.congr (lists_atomicMem u a l.tenant (0x40 + l.home) (o.f 0x10 8))).finishOp l.id o.offset
        (u.atomicMem a l.tenant (0x40 + l.home) (o.f 0x10 8)).2.1.status 0
      split
      · exact hend.of_only (only_listEvent _ l o.offset) (by decide)
      · exact hend
    · exact hstart.finishOp _ _ _ _

theorem quiet_advance {id off : Nat} (s : State) (j : Nat) (h : Quiet id off s) : Quiet id off (s.advance j) := by
  unfold State.advance
  split
  · exact h
  next l hl =>
  split
  · exact h
  next o os ho =>
  have hhead := op?_head hl ho
  have hid := State.list?_id hl
  have starts : ∀ c, o.opcode = c → c ≠ 6 → Quiet id off (s.startOp j o.offset) := fun c hc h6 =>
    h.startOp j o.offset fun p hp => by
      obtain rfl := Option.some.inj (hhead.symm.trans hp)
      rw [hc]
      exact h6
  split_ifs with h1 h2 h3 h4 h5
  · exact h
  · exact (starts _ h2 (by decide)).finishOp _ _ _ _
  · exact h
  · refine quiet_fireSignal s l o h fun p hp => ?_
    rw [hid] at hp
    obtain rfl := Option.some.inj (hhead.symm.trans hp)
    rw [h4]
    decide
  · exact (starts _ h5 (by decide)).finishOp _ _ _ _
  · exact (starts _ h5 (by decide)).finishOp _ _ _ _
  · exact h

/-! ### A list ends (R302) -/

/-- The slip status, the status and the offset that a list's SUBMIT reports. -/
def WorkList.outcome (l : WorkList) : Nat × Nat × Nat :=
  match l.failed with
  | some (off, st) => (stListFailed, st, off)
  | none => (stOk, osOk, 0)

theorem completeList_open (s : State) (l : WorkList) (h : l.stopStatus = none) : s.completeList l =
    l.cancelTags.foldl (fun s c => s.complete l.tenant 0x07 c.1 stOk (leBytes 1 1))
      ((s.listGone l).complete l.tenant 0x06 l.tag l.outcome.1 (submitBody (s.listGone l) l l.outcome.2.1 l.outcome.2.2)) := by
  rw [State.completeList, h, WorkList.outcome]
  cases l.failed with
  | none => rfl
  | some e => rfl

theorem only_complete (s : State) (t op tag status : Nat) (body : List Byte) :
    Only [.mbox, .progress, .watchdogs] [] s (s.complete t op tag status body) :=
  only_State_complete s t op tag status body (Only.refl s) (by decide)

theorem only_completes (s : State) (t op status : Nat) (body : List Byte) (cs : List (Nat × Bool)) :
    Only [.mbox, .progress, .watchdogs] [] s (cs.foldl (fun s c => s.complete t op c.1 status body) s) :=
  Only.fold _ _ _ (Only.refl s) fun _ _ h => only_State_complete _ _ _ _ _ _ h (by decide)

theorem lists_completeList (s : State) (l : WorkList) : (s.completeList l).lists = s.lists.filter fun x => x.id ≠ l.id := by
  cases h : l.stopStatus with
  | none =>
    rw [completeList_open s l h, ((only_complete _ _ _ _ _ _).trans (only_completes _ _ _ _ _ _)).part .lists (by decide)]
    exact lists_listGone s l
  | some st =>
    by_cases hst : st = osTenantReset
    · have : s.completeList l = s.listGone l := by
        rw [State.completeList, h]
        exact if_pos hst
      rw [this]
      exact lists_listGone s l
    · have : s.completeList l = l.cancelTags.foldl (fun s c => s.complete l.tenant 0x07 c.1 stOk (leBytes 1 0))
          ((s.listGone l).complete l.tenant 0x06 l.tag stCancelled (submitBody (s.listGone l) l osCancelled 0)) := by
        rw [State.completeList, h]
        exact if_neg hst
      rw [this, ((only_complete _ _ _ _ _ _).trans (only_completes _ _ _ _ _ _)).part .lists (by decide)]
      exact lists_listGone s l

theorem list?_completeList (s : State) (l : WorkList) : (s.completeList l).list? l.id = none := by
  rw [State.list?, lists_completeList, List.find?_eq_none]
  intro x hx
  simpa using (List.mem_filter.1 hx).2

/-- A list that no CANCEL names reports its outcome. -/
theorem reported_completeList {s u : State} {l : WorkList} (h : l.stopStatus = none) (hmb : u.mb l.tenant = s.mb l.tenant)
    (htb : u.tb = s.tb) : Claims.reported s (u.completeList l) l l.outcome.1 l.outcome.2.1 l.outcome.2.2 := by
  refine ⟨list?_completeList u l, fun x hx hc => ?_⟩
  rw [completeList_open u l h, hc, List.foldl_nil]
  have hgone := only_listGone u l
  have hbody : submitBody (u.listGone l) l l.outcome.2.1 l.outcome.2.2 = Claims.submitted s l l.outcome.2.1 l.outcome.2.2 := by
    rw [submitBody, hgone.part .tb (by decide), htb]
    rfl
  have hm : (u.listGone l).mb l.tenant = s.mb l.tenant :=
    (congrFun (State.mb_congr (hgone.part .mbox (by decide))) l.tenant).trans hmb
  obtain ⟨_, htail, hcq⟩ := mb_complete (u.listGone l) l.tenant 0x06 l.tag l.outcome.1
    (Claims.submitted s l l.outcome.2.1 l.outcome.2.2) x (hm ▸ hx)
  rw [hbody, htail, hcq, hm]
  exact ⟨rfl, rdBytes_wrBytes_completion _ _ _ _ _ _ _⟩

/-! ### A tenant makes progress (R423) -/

theorem only_setMb (s : State) (t : Nat) (x : Mailbox) : Only [.mbox] [] s (s.setMb t x) :=
  only_State_setMb s t x (Only.refl s) (by decide)

theorem only_advance (s : State) (id : Nat) : Only [.out, .mem, .checks, .fpDirty, .chanPoisoned, .hbm, .ports, .reqs, .ic,
    .flog0, .flog1, .mbox, .lists, .tagCtr] (Claims.listRegs ++ [.memInject]) s (s.advance id) :=
  only_State_advance s id (Only.refl s) (by decide) (by decide)

/-- The tenant's watchdog starts again at tick `n`, which is now. -/
structure Fresh (tenant n : Nat) (s : State) : Prop where
  now : s.now = n
  progress : num s.progress tenant = n
  watchdog : num s.watchdogs tenant = 0

theorem Fresh.of_only {tenant n : Nat} {s t : State} {Ps : List Piece} {Ks : List RegKind} (h : Fresh tenant n s)
    (k : Only Ps Ks s t) (h1 : Piece.now ∉ Ps) (h2 : Piece.progress ∉ Ps) (h3 : Piece.watchdogs ∉ Ps) : Fresh tenant n t :=
  ⟨(k.part .now h1).trans h.now, by rw [k.part .progress h2]; exact h.progress, by rw [k.part .watchdogs h3]; exact h.watchdog⟩

theorem fresh_progressed (s : State) (tenant : Nat) : Fresh tenant s.now (s.progressed tenant) :=
  ⟨rfl, by rw [State.progressed, num_setNum, if_pos rfl], by rw [State.progressed, num_setNum, if_pos rfl]⟩

theorem Fresh.progressed {tenant n : Nat} {s : State} (h : Fresh tenant n s) (other : Nat) : Fresh tenant n (s.progressed other) := by
  refine ⟨h.now, ?_, ?_⟩
  · rw [State.progressed, num_setNum]
    split
    · exact h.now
    · exact h.progress
  · rw [State.progressed, num_setNum]
    split
    · rfl
    · exact h.watchdog

theorem Fresh.complete {tenant n : Nat} {s : State} (h : Fresh tenant n s) (other op tag status : Nat) (body : List Byte) :
    Fresh tenant n (s.complete other op tag status body) := by
  unfold State.complete
  dsimp only
  split
  · exact h
  · refine Fresh.progressed ?_ other
    exact h.of_only (only_setMb s other _) (by decide) (by decide) (by decide)

theorem Fresh.completeList {tenant n : Nat} {s : State} (l : WorkList) (h : Fresh tenant n s) : Fresh tenant n (s.completeList l) := by
  have hgone := h.of_only (only_listGone s l) (by decide) (by decide) (by decide)
  have hfold : ∀ (u : State) body, Fresh tenant n u →
      Fresh tenant n (l.cancelTags.foldl (fun s c => s.complete l.tenant 0x07 c.1 stOk body) u) := fun u body hu =>
    foldl_keeps (Fresh tenant n) _ _ _ hu fun x c _ hx => hx.complete _ _ _ _ _
  cases hs : l.stopStatus with
  | none =>
    rw [completeList_open s l hs]
    exact hfold _ _ (hgone.complete _ _ _ _ _)
  | some st =>
    by_cases hst : st = osTenantReset
    · have : s.completeList l = s.listGone l := by
        rw [State.completeList, hs]
        exact if_pos hst
      rw [this]
      exact hgone
    · have : s.completeList l = l.cancelTags.foldl (fun s c => s.complete l.tenant 0x07 c.1 stOk (leBytes 1 0))
          ((s.listGone l).complete l.tenant 0x06 l.tag stCancelled (submitBody (s.listGone l) l osCancelled 0)) := by
        rw [State.completeList, hs]
        exact if_neg hst
      rw [this]
      exact hfold _ _ (hgone.complete _ _ _ _ _)

/-! ### A list settles (R262) -/

/-- The list after the operations that a failure or a stop has made inert have left. -/
def WorkList.settled (l : WorkList) : WorkList :=
  if l.failed.isSome || l.stopStatus.isSome then
    { l with ops := l.ops.filter fun o => !o.inert && !(decide (l.state = .stopping) && o.dropped) } else l

theorem WorkList.settled_id (l : WorkList) : l.settled.id = l.id := by unfold WorkList.settled; split <;> rfl
theorem WorkList.settled_tenant (l : WorkList) : l.settled.tenant = l.tenant := by unfold WorkList.settled; split <;> rfl

theorem WorkList.mem_of_settled {l : WorkList} {o : Op} (h : o ∈ l.settled.ops) : o ∈ l.ops := by
  unfold WorkList.settled at h
  split at h
  · exact (List.mem_filter.1 h).1
  · exact h

theorem WorkList.settled_of_empty {l : WorkList} (h : l.ops = []) : l.settled = l := by
  cases l
  obtain rfl := h
  unfold WorkList.settled
  split <;> rfl

theorem settleList_of {s : State} {id : Nat} {l : WorkList} (ended : Bool) (hl : s.list? id = some l) : s.settleList id ended =
    if decide (l.state = .waiting) || decide (l.state = .preempted) then s
    else if l.settled.over ended then (s.setList l.settled).completeList l.settled else s.setList l.settled := by
  rw [State.settleList, hl]
  rfl

theorem only_settleList (s : State) (id : Nat) (ended : Bool) :
    Only [.thermal, .mbox, .lists, .progress, .watchdogs] [.vgov] s (s.settleList id ended) :=
  only_State_settleList s id ended (Only.refl s) (by decide) (by decide)

theorem quiet_settleList {id off : Nat} {s : State} (ended : Bool) (h : Quiet id off s) : Quiet id off (s.settleList id ended) := by
  cases hl : s.list? id with
  | none => rw [State.settleList, hl]; exact h
  | some l =>
    have hid := State.list?_id hl
    have hops : ∀ o, o ∈ l.settled.ops → ¬ o.attends := fun o ho => h.idle l (State.mem_of_list? hl) o (WorkList.mem_of_settled ho)
    have hset : Quiet id off (s.setList l.settled) := by
      refine ⟨State.allOps_setList h.idle hops, State.op?_none_setList h.gone fun _ => ?_⟩
      have hnone := (State.op?_of_list hl (off := off)).symm.trans h.gone
      rw [WorkList.op?, List.find?_eq_none] at hnone ⊢
      exact fun o ho => hnone o (WorkList.mem_of_settled ho)
    rw [settleList_of ended hl]
    split_ifs
    · exact h
    · refine ⟨fun x hx o ho => ?_, ?_⟩
      · rw [lists_completeList] at hx
        exact hset.idle x (List.mem_filter.1 hx).1 o ho
      · rw [State.op?, ← hid, ← WorkList.settled_id l, list?_completeList]
    · exact hset

theorem Fresh.settleList {tenant n : Nat} {s : State} (id : Nat) (ended : Bool) (h : Fresh tenant n s) :
    Fresh tenant n (s.settleList id ended) := by
  cases hl : s.list? id with
  | none => rw [State.settleList, hl]; exact h
  | some l =>
    have hset : Fresh tenant n (s.setList l.settled) := h.of_only (only_setList s _) (by decide) (by decide) (by decide)
    rw [settleList_of ended hl]
    split_ifs
    · exact h
    · exact hset.completeList _
    · exact hset

theorem Fresh.advance {tenant n : Nat} {s : State} (id : Nat) (h : Fresh tenant n s) : Fresh tenant n (s.advance id) :=
  h.of_only (only_advance s id) (by decide) (by decide) (by decide)

/-! ### OPERATION_COMPLETE -/

/-- The list without a completed operation; with its last unit reached and no END it has failed (R273). -/
def WorkList.without (l : WorkList) (off : Nat) : WorkList :=
  let l1 := { l with ops := l.ops.filter fun x => x.offset ≠ off }
  if l1.next ≥ l1.units && !l1.endIssued && l1.failed.isNone && l1.ops.isEmpty then l1.fail l1.units osMalformed else l1

/-- A completed operation writes its record. -/
def State.recordEnd (s : State) (l : WorkList) (o : Op) : State :=
  if o.wantsRecord && !l.stopStatus.isSome then s.writeRecord l o (s.recordBytes o) else s

/-- It counts a result that is not determined. -/
def State.countNondet (s : State) (l : WorkList) (o : Op) : State :=
  if o.nondet then s.countF (.detNondet l.tenant) 0 32 1 else s

/-- What the completion of an operation writes, counts and raises before the operation leaves. -/
def State.completing (s : State) (l : WorkList) (o : Op) : State :=
  let s2 := (s.recordEnd l o).countNondet l o
  if o.notifies && !l.stopStatus.isSome then s2.listEvent l o.offset else s2

theorem WorkList.without_cases (l : WorkList) (off : Nat) :
    l.without off = { l with ops := l.ops.filter fun x => x.offset ≠ off } ∨
    l.without off = ({ l with ops := l.ops.filter fun x => x.offset ≠ off } : WorkList).fail l.units osMalformed := by
  unfold WorkList.without
  dsimp only
  split
  · exact .inr rfl
  · exact .inl rfl

theorem WorkList.tenant_fail (l : WorkList) (off status : Nat) : (l.fail off status).tenant = l.tenant := by
  unfold WorkList.fail
  repeat' split
  all_goals rfl

theorem WorkList.without_id (l : WorkList) (off : Nat) : (l.without off).id = l.id := by
  obtain h | h := l.without_cases off <;> rw [h]
  exact WorkList.id_fail _ _ _

theorem WorkList.without_tenant (l : WorkList) (off : Nat) : (l.without off).tenant = l.tenant := by
  obtain h | h := l.without_cases off <;> rw [h]
  exact WorkList.tenant_fail _ _ _

theorem WorkList.without_ops (l : WorkList) (off : Nat) : (l.without off).ops = l.ops.filter fun x => x.offset ≠ off := by
  obtain h | h := l.without_cases off <;> rw [h]
  exact WorkList.ops_fail _ _ _

theorem operationComplete_stays {s : State} {id off : Nat} {l : WorkList} {o : Op} (hl : s.list? id = some l)
    (ho : l.op? off = some o) (h : o.stage ≠ .finished ∨ l.state = .preempted) : operationComplete id off s = s := by
  rw [operationComplete, hl]
  dsimp only
  rw [ho]
  exact if_pos (by simpa using h)

theorem operationComplete_of {s : State} {id off : Nat} {l : WorkList} {o : Op} (hl : s.list? id = some l)
    (ho : l.op? off = some o) (h1 : o.stage = .finished) (h2 : l.state ≠ .preempted) : operationComplete id off s =
      (((((s.completing l o).setList (l.without off)).progressed l.tenant).advance id).settleList id (o.opcode = 0x1F)) := by
  rw [operationComplete, hl]
  dsimp only
  rw [ho]
  exact if_neg (by simp [h1, h2])

theorem only_recordEnd (s : State) (l : WorkList) (o : Op) :
    Only [.mem, .checks, .stores, .fpDirty, .chanPoisoned, .hbm, .ic, .flog0, .flog1, .mbox] Claims.listRegs s (s.recordEnd l o) := by
  unfold State.recordEnd
  split
  · exact only_State_writeRecord s l o _ (Only.refl s) (by decide) (by decide)
  · exact Only.refl s

theorem only_countNondet (s : State) (l : WorkList) (o : Op) : Only [] [.detNondet] s (s.countNondet l o) := by
  unfold State.countNondet
  split
  · exact only_State_countF s _ _ _ _ (Only.refl s) (List.elem_iff.mp rfl)
  · exact Only.refl s

theorem only_afterRecord (s : State) (l : WorkList) (o : Op) :
    Only [.ic, .mbox] [.detNondet] (s.recordEnd l o) (s.completing l o) := by
  have h := only_countNondet (s.recordEnd l o) l o
  unfold State.completing
  generalize (s.recordEnd l o).countNondet l o = v at h ⊢
  dsimp only
  split
  · exact (h.mono (by decide) (by decide)).trans ((only_listEvent v l o.offset).mono (by decide) (by decide))
  · exact h.mono (by decide) (by decide)

/-- An operation that does not ask for an event is recorded and counted alone. -/
theorem completing_silent {s : State} {l : WorkList} {o : Op} (h : o.notifies = false) :
    s.completing l o = (s.recordEnd l o).countNondet l o := by
  rw [State.completing, h, Bool.false_and]
  exact if_neg Bool.false_ne_true

theorem lists_completing (s : State) (l : WorkList) (o : Op) : (s.completing l o).lists = s.lists :=
  ((only_afterRecord s l o).part .lists (by decide)).trans ((only_recordEnd s l o).part .lists (by decide))

/-! ### The count of operations with a NONDET result (R382) -/

theorem Reg.detNondet_off (n : Nat) : (Reg.detNondet n).off = blk 8 + 0x163000 + 4 * n := rfl

theorem memoryTouches_nondet {r : Reg} (h : memoryTouches r) {n : Nat} (hn : n ≤ 64) : r.off ≠ (Reg.detNondet n).off := by
  rw [Reg.detNondet_off, blk]
  cases r with
  | ctrVal u i =>
    change i < unitCtrs u at h
    rw [Reg.ctrVal_off]
    unfold unitVals coreBlk portBlk blk
    unfold unitCtrs at h
    split_ifs at h ⊢ <;> omega
  | memChstat n c => rw [Reg.memChstat_off, blk]; change c < 16 at h; omega
  | memChce n c => rw [Reg.memChce_off, blk]; change c < 16 at h; omega
  | memChue n c => rw [Reg.memChue_off, blk]; change c < 16 at h; omega
  | memChpoison n c => rw [Reg.memChpoison_off, blk]; change c < 16 at h; omega
  | memStat n => rw [Reg.memStat_off, blk]; omega
  | memInject n => rw [Reg.memInject_off, blk]; omega
  | fabStat d => rw [Reg.fabStat_off, blk]; omega
  | fabDiscard d => rw [Reg.fabDiscard_off, blk]; omega
  | bedCe k => rw [Reg.bedCe_off, coreBlk, blk]; omega
  | bedUe k => rw [Reg.bedUe_off, coreBlk, blk]; omega
  | bedLastue k => rw [Reg.bedLastue_off, coreBlk, blk]; omega
  | _ => exact h.elim

theorem reg_nondet_touched {s t : State} (h : RegsBut memoryTouches s t) {n : Nat} (hn : n ≤ 64) :
    t.reg (.detNondet n) = s.reg (.detNondet n) := h.reg _ fun _ hr => (memoryTouches_nondet hr hn).symm

theorem reg_nondet_settled {s t : State} {Ps : List Piece} (h : Only Ps [.vgov] s t) {n : Nat} (hn : n ≤ 64) :
    t.reg (.detNondet n) = s.reg (.detNondet n) :=
  h.reg_apart _ fun r hr => by
    obtain ⟨w, rfl⟩ := Reg.eq_vgov_of_kind (List.mem_singleton.1 hr)
    rw [Reg.vgov_off, Reg.detNondet_off, blk, blk]
    omega

theorem regF_completing (s : State) (l : WorkList) (o : Op) (ht : l.tenant ≤ 64) :
    (s.completing l o).regF (.detNondet l.tenant) 0 32 =
      if o.nondet then min 0xFFFFFFFF (s.regF (.detNondet l.tenant) 0 32 + 1) else s.regF (.detNondet l.tenant) 0 32 := by
  have h1 : (s.recordEnd l o).reg (.detNondet l.tenant) = s.reg (.detNondet l.tenant) := by
    unfold State.recordEnd
    split
    · exact reg_nondet_touched (touched_writeRecord s l o _ (.refl s)) ht
    · rfl
  have h2 : ((s.recordEnd l o).countNondet l o).regF (.detNondet l.tenant) 0 32 =
      if o.nondet then min 0xFFFFFFFF (s.regF (.detNondet l.tenant) 0 32 + 1) else s.regF (.detNondet l.tenant) 0 32 := by
    unfold State.countNondet
    split
    · exact (State.regF_countF _ _ 0 32 1 (by decide)).trans (by rw [State.regF_congr h1]; norm_num)
    · exact State.regF_congr h1 0 32
  unfold State.completing
  generalize (s.recordEnd l o).countNondet l o = v at h2 ⊢
  dsimp only
  split
  · exact (State.regF_congr ((only_listEvent v l o.offset).reg_eq _) 0 32).trans h2
  · exact h2

/-! ### The bytes of a record -/

theorem length_recordBytes (s : State) (o : Op) : (s.recordBytes o).length = 0x180 := by
  simp only [State.recordBytes, List.length_append, length_leBytes, List.length_replicate, List.length_take,
    Nat.min_eq_left (Nat.le_add_left _ _)]

/-- The record of an operation with a sound place is stored, and nothing else changes but counts. -/
theorem recordEnd_stores {s : State} {l : WorkList} {o : Op} {a : Nat} {g : Seg} (hw : o.wantsRecord = true)
    (hs : l.stopStatus = none) (hp : s.recordPlace l o = some (.dev a g)) (hsound : Claims.sound s a 0x180 = true)
    (hq : Claims.quiet s = true) : Stored s (s.recordEnd l o) ∧ Holds s.mem (s.recordEnd l o).mem a (s.recordBytes o) := by
  rw [← length_recordBytes s o] at hsound
  obtain ⟨-, hst, hh⟩ := opWrite_sound (k := o.core) (tenant := l.tenant) (g := g) (s.recordBytes o) hsound hq
  have hrec : s.recordEnd l o = (s.opWrite o.core l.tenant (.dev a g) (s.recordBytes o)).1 := by
    rw [State.recordEnd, hw, hs, State.writeRecord, hp]
    rfl
  rw [hrec]
  exact ⟨hst, hh⟩

theorem recordEnd_none {s : State} {l : WorkList} {o : Op} (h : o.wantsRecord = false ∨ l.stopStatus ≠ none) :
    s.recordEnd l o = s := by
  rw [State.recordEnd, if_neg]
  rintro hb
  rw [Bool.and_eq_true, Bool.not_eq_true', Option.isSome_eq_false_iff, Option.isNone_iff_eq_none] at hb
  obtain ⟨hw, hs⟩ := hb
  exact h.elim (fun k => Bool.false_ne_true (k.symm.trans hw)) fun k => k hs

/-! ### From the record to the end of the list -/

/-- The state in which the list has lost its operation and the tenant's watchdog has started again. -/
def State.leaving (s : State) (l : WorkList) (o : Op) (off : Nat) : State :=
  ((s.completing l o).setList (l.without off)).progressed l.tenant

section
variable {s : State} {id off : Nat} {l : WorkList} {o : Op}

theorem only_leaving (s : State) (l : WorkList) (o : Op) (off : Nat) :
    Only [.lists, .progress, .watchdogs] [] (s.completing l o) (s.leaving l o off) :=
  ((only_setList (s.completing l o) (l.without off)).mono (by decide) (by decide)).trans
    (only_State_progressed _ _ (Only.refl _) (by decide))

theorem list?_leaving (hl : s.list? id = some l) : (s.leaving l o off).list? id = some (l.without off) := by
  have h : ((s.completing l o).setList (l.without off)).list? id = some (l.without off) := by
    have hid : (l.without off).id = id := (l.without_id off).trans (State.list?_id hl)
    rw [← hid]
    refine State.list?_setList_same (k := l) ?_
    rw [hid, State.list_congr (lists_completing s l o)]
    exact hl
  exact h

theorem op?_without (l : WorkList) (off : Nat) : (l.without off).op? off = none := by
  rw [WorkList.op?, WorkList.without_ops, List.find?_eq_none]
  intro x hx
  simpa using (List.mem_filter.1 hx).2

theorem quiet_leaving (hl : s.list? id = some l) (h : Claims.noBankAttend s) : Quiet id off (s.leaving l o off) := by
  refine ⟨?_, (State.op?_of_list (list?_leaving hl)).trans (op?_without l off)⟩
  have hset : ((s.completing l o).setList (l.without off)).allOps fun o => ¬ o.attends := by
    refine State.allOps_setList (State.allOps_congr (lists_completing s l o) ((noBankAttend_iff s).1 h)) fun x hx => ?_
    rw [WorkList.without_ops] at hx
    exact h l (State.mem_of_list? hl) x (List.mem_filter.1 hx).1
  exact hset

theorem fresh_leaving (s : State) (l : WorkList) (o : Op) (off : Nat) : Fresh l.tenant s.now (s.leaving l o off) := by
  have h := fresh_progressed ((s.completing l o).setList (l.without off)) l.tenant
  have hnow : ((s.completing l o).setList (l.without off)).now = s.now :=
    ((only_recordEnd s l o).part .now (by decide) ▸ (only_afterRecord s l o).part .now (by decide) :
      (s.completing l o).now = s.now)
  rw [hnow] at h
  exact h

theorem ops_without_alone (h : ∀ q, q ∈ l.ops → q.offset = off) : l.ops.filter (fun x => x.offset ≠ off) = [] := by
  rw [List.filter_eq_nil_iff]
  intro q hq
  simpa using h q hq

/-- With the operation gone alone, nothing is left to go on. -/
theorem advance_leaving_alone (hl : s.list? id = some l) (h : ∀ q, q ∈ l.ops → q.offset = off) :
    (s.leaving l o off).advance id = s.leaving l o off := by
  rw [State.advance, list?_leaving hl]
  dsimp only
  rw [WorkList.without_ops, ops_without_alone h]

/-- The list settles at once. -/
theorem settleList_leaving_alone (hl : s.list? id = some l) (h : ∀ q, q ∈ l.ops → q.offset = off) (ended : Bool) :
    (s.leaving l o off).settleList id ended =
      if decide ((l.without off).state = .waiting) || decide ((l.without off).state = .preempted) then s.leaving l o off
      else if (l.without off).over ended then ((s.leaving l o off).setList (l.without off)).completeList (l.without off)
      else (s.leaving l o off).setList (l.without off) := by
  rw [settleList_of ended (list?_leaving hl), WorkList.settled_of_empty ((l.without_ops off).trans (ops_without_alone h))]

theorem mem_leaving (s : State) (l : WorkList) (o : Op) (off : Nat) : (s.leaving l o off).mem = (s.recordEnd l o).mem :=
  ((only_leaving s l o off).part .mem (by decide)).trans ((only_afterRecord s l o).part .mem (by decide))

theorem stores_leaving (s : State) (l : WorkList) (o : Op) (off : Nat) : (s.leaving l o off).stores = (s.recordEnd l o).stores :=
  ((only_leaving s l o off).part .stores (by decide)).trans ((only_afterRecord s l o).part .stores (by decide))

/-- A list whose last operation left without failing: it is as before but for its operations. -/
theorem without_open (h : ∀ q, q ∈ l.ops → q.offset = off) (hu : l.failed ≠ none ∨ l.next < l.units ∨ l.endIssued = true) :
    l.without off = { l with ops := [] } := by
  rw [WorkList.without, ops_without_alone h]
  refine if_neg fun hb => ?_
  simp only [Bool.and_eq_true, decide_eq_true_eq, Bool.not_eq_true', Option.isNone_iff_eq_none] at hb
  obtain ⟨⟨⟨hnext, hend⟩, hfail⟩, -⟩ := hb
  obtain k | k | k := hu
  · exact k hfail
  · omega
  · exact Bool.false_ne_true (hend.symm.trans k)

/-- A list that ends without END fails at its length (R273). -/
theorem without_unended (h : ∀ q, q ∈ l.ops → q.offset = off) (hf : l.failed = none) (hu : l.units ≤ l.next)
    (he : l.endIssued = false) : l.without off = { l with ops := [], failed := some (l.units, osMalformed) } := by
  rw [WorkList.without, ops_without_alone h, if_pos (by simp [hf, hu, he]), WorkList.fail, hf]

end

section
variable {s t : State} {id off : Nat} {l : WorkList} {o : Op}

/-- The mailbox that a silent completion leaves: the list's own. -/
theorem mb_leaving (hs : l.stopStatus = none) (hn : o.notifies = false)
    (hrec : o.wantsRecord = true →
      ∃ a g, s.recordPlace l o = some (.dev a g) ∧ Claims.sound s a 0x180 = true ∧ Claims.quiet s = true) :
    (s.leaving l o off).mb l.tenant = s.mb l.tenant ∧ (s.leaving l o off).tb = s.tb := by
  have hrecord : (s.recordEnd l o).mbox = s.mbox ∧ (s.recordEnd l o).tb = s.tb := by
    cases hw : o.wantsRecord with
    | false => rw [recordEnd_none (.inl hw)]; exact ⟨rfl, rfl⟩
    | true =>
      obtain ⟨a, g, hp, hsound, hq⟩ := hrec hw
      obtain ⟨hst, -⟩ := recordEnd_stores hw hs hp hsound hq
      exact ⟨hst.only.part .mbox (by decide), hst.only.part .tb (by decide)⟩
  have hcount := only_countNondet (s.recordEnd l o) l o
  rw [← completing_silent hn] at hcount
  have hleave := only_leaving s l o off
  have hmb : (s.leaving l o off).mbox = s.mbox :=
    (hleave.part .mbox (by decide)).trans ((hcount.part .mbox (by decide)).trans hrecord.1)
  exact ⟨congrFun (State.mb_congr hmb) l.tenant,
    (hleave.part .tb (by decide)).trans ((hcount.part .tb (by decide)).trans hrecord.2)⟩

/-- The state in which OPERATION_COMPLETE leaves a list whose only operation has left. -/
theorem reported_leaving {m : WorkList} (hl : s.list? id = some l) (h : ∀ q, q ∈ l.ops → q.offset = off)
    (hm : l.without off = m) (ended : Bool) (hw : m.state ≠ .waiting) (hp : m.state ≠ .preempted) (hover : m.over ended = true)
    (hs : m.stopStatus = none) (hmb : (s.leaving l o off).mb l.tenant = s.mb l.tenant) (htb : (s.leaving l o off).tb = s.tb) :
    Claims.reported s ((s.leaving l o off).settleList id ended) m m.outcome.1 m.outcome.2.1 m.outcome.2.2 := by
  rw [settleList_leaving_alone hl h, hm, if_neg (by simp [hw, hp]), if_pos hover]
  have hset := only_setList (s.leaving l o off) m
  refine reported_completeList hs ?_ ((hset.part .tb (by decide)).trans htb)
  rw [← hm, WorkList.without_tenant, hm]
  exact (congrFun (State.mb_congr (hset.part .mbox (by decide))) l.tenant).trans hmb

theorem list?_setList_of {k m : WorkList} (hid : m.id = id) (h : s.list? id = some k) : (s.setList m).list? id = some m := by
  subst hid
  exact State.list?_setList_same h

/-- A completed operation that was alone in its list: its record, and the end of the list. -/
theorem leaving_alone_ends (hl : s.list? id = some l) (hp : l.state ≠ .preempted)
    (h : ∀ q, q ∈ l.ops → q.offset = off) (ht : t = (s.leaving l o off).settleList id (o.opcode = 0x1F)) :
    (o.wantsRecord = true → l.stopStatus = none → ∀ a g, s.recordPlace l o = some (.dev a g) →
      Claims.sound s a 0x180 = true → Claims.quiet s = true → Claims.stored s t a (s.recordBytes o)) ∧
    (o.wantsRecord = false ∨ l.stopStatus ≠ none → Claims.noBytes s t) ∧
    (l.state ≠ .waiting → l.stopStatus = none → o.notifies = false →
      (o.wantsRecord = true → ∃ a g, s.recordPlace l o = some (.dev a g) ∧ Claims.sound s a 0x180 = true ∧ Claims.quiet s = true) →
      (l.failed = none → o.opcode = 0x1F → l.endIssued = true → Claims.reported s t l stOk osOk 0) ∧
      (∀ at_ st, l.failed = some (at_, st) → Claims.reported s t l stListFailed st at_) ∧
      (l.failed = none → l.units ≤ l.next → l.endIssued = false → o.opcode ≠ 0x1F →
        Claims.reported s t l stListFailed osMalformed l.units) ∧
      (l.failed = none → l.next < l.units → o.opcode ≠ 0x1F → t.list? id = some { l with ops := [] })) := by
  have hmem : t.mem = (s.recordEnd l o).mem :=
    ht ▸ ((only_settleList _ _ _).part .mem (by decide)).trans (mem_leaving s l o off)
  refine ⟨fun hw hs a g hplace hsound hq => ?_, fun hno => ?_, fun hwait hs hn hrec => ?_⟩
  · obtain ⟨-, hh⟩ := recordEnd_stores hw hs hplace hsound hq
    rw [← hmem] at hh
    exact stored_of_holds hh
  · have hstores : t.stores = (s.recordEnd l o).stores :=
      ht ▸ ((only_settleList _ _ _).part .stores (by decide)).trans (stores_leaving s l o off)
    rw [Claims.noBytes, hmem, hstores, recordEnd_none hno]
    exact ⟨rfl, rfl⟩
  · obtain ⟨hmb, htb⟩ := mb_leaving (off := off) hs hn hrec
    refine ⟨fun hf hend hi => ?_, fun at_ st hf => ?_, fun hf hu hi hop => ?_, fun hf hu hop => ?_⟩
    · have := reported_leaving (o := o) hl h (without_open h (.inr (.inr hi))) (o.opcode = 0x1F) hwait hp
        (by simp [WorkList.over, hend]) hs hmb htb
      rw [WorkList.outcome, hf] at this
      exact ht ▸ this
    · have := reported_leaving (o := o) hl h (without_open h (.inl (by simp [hf]))) (o.opcode = 0x1F) hwait hp
        (by simp [WorkList.over, hf]) hs hmb htb
      rw [WorkList.outcome, hf] at this
      exact ht ▸ this
    · have := reported_leaving (o := o) hl h (without_unended h hf hu hi) (o.opcode = 0x1F) hwait hp
        (by simp [WorkList.over]) hs hmb htb
      exact ht ▸ this
    · have hopen := without_open h (.inr (.inl hu))
      rw [ht, settleList_leaving_alone hl h, hopen, if_neg (by simp [hwait, hp]),
        if_neg (by simp [WorkList.over, hf, hs, hop])]
      exact list?_setList_of (State.list?_id hl :) (list?_leaving hl)

/-- OPERATION_COMPLETE of an operation whose work has ended. -/
theorem exec_operationComplete (hb : Claims.noBankAttend s) (hl : s.list? id = some l) (ho : l.op? off = some o)
    (hs : o.stage = .finished) (hp : l.state ≠ .preempted) : ∃ t, exec (.operationComplete id off) s = .next t ∧
      t = ((s.leaving l o off).advance id).settleList id (o.opcode = 0x1F) ∧ Quiet id off t := by
  have hq : Quiet id off (((s.leaving l o off).advance id).settleList id (o.opcode = 0x1F)) :=
    quiet_settleList _ (quiet_advance _ _ (quiet_leaving hl hb))
  refine ⟨_, ?_, rfl, hq⟩
  have he : exec (.operationComplete id off) s = .next (operationComplete id off s).pumpBanks := rfl
  have hc : operationComplete id off s = ((s.leaving l o off).advance id).settleList id (o.opcode = 0x1F) :=
    operationComplete_of hl ho hs hp
  rw [he, hc, pumpBanks_idle hq.idle]

end

/-- Settles O39. -/
theorem operationsCompleteInTheirList : Obligations.OperationsCompleteInTheirList := by
  intro id off l o s hb hl ho
  refine ⟨fun h => ?_, fun hs hp => ?_⟩
  · have he : exec (.operationComplete id off) s = .next (operationComplete id off s).pumpBanks := rfl
    rw [he, operationComplete_stays hl ho h, pumpBanks_idle hb]
  · obtain ⟨t, he, ht, hq⟩ := exec_operationComplete hb hl ho hs hp
    have hfresh : Fresh l.tenant s.now t := ht ▸ ((fresh_leaving s l o off).advance id).settleList id _
    refine ⟨t, he, (Only.ofExec (only_execOperationComplete id off s) he).mono (by decide) (by decide), hq.gone, hfresh.progress,
      hfresh.watchdog, fun htenant _ => ?_, fun halone => ?_⟩
    · have hreg : t.reg (.detNondet l.tenant) = (s.completing l o).reg (.detNondet l.tenant) := by
        rw [ht, reg_nondet_settled (only_settleList _ _ _) htenant, reg_nondet_touched (touched_advance _ id (.refl _)) htenant]
        exact (only_leaving s l o off).reg_eq _
      exact (State.regF_congr hreg 0 32).trans (regF_completing s l o htenant)
    · rw [advance_leaving_alone hl halone] at ht
      exact leaving_alone_ends hl hp halone ht

end Sys2Proof.Machine
end

section
/-! FENCE, SIGNAL, END, LAUNCH_AT, BANK_FENCE and WAIT (R260, R270 to R273). -/

namespace Sys2Proof.Machine

/-! ### Updates of the lists alone -/

/-- The state with other lists. -/
def State.withLists (s : State) (ls : List WorkList) : State := { s with lists := ls }

section
variable (s : State) (ls : List WorkList)

theorem sound_withLists (a n : Nat) : Claims.sound (s.withLists ls) a n = Claims.sound s a n := rfl
theorem quiet_withLists : Claims.quiet (s.withLists ls) = Claims.quiet s := rfl
theorem resolve_withLists (t ref : Nat) (r : Rows) (right : Nat) (weights : Bool) :
    (s.withLists ls).resolve t ref r right weights = s.resolve t ref r right weights := rfl
theorem mem_withLists : (s.withLists ls).mem = s.mem := rfl
theorem noBytes_withLists : Claims.noBytes s (s.withLists ls) := ⟨rfl, rfl⟩

end

theorem setOp_withLists (s : State) (id : Nat) (o : Op) : ∃ ls, s.setOp id o = s.withLists ls := by
  unfold State.setOp
  split
  · exact ⟨_, rfl⟩
  · exact ⟨s.lists, rfl⟩

theorem startOp_withLists (s : State) (id off : Nat) : ∃ ls, s.startOp id off = s.withLists ls := by
  unfold State.startOp
  split
  · split
    · exact setOp_withLists s id _
    · exact ⟨s.lists, rfl⟩
  · exact ⟨s.lists, rfl⟩

theorem finishOp_withLists (s : State) (id off status detail : Nat) : ∃ ls, s.finishOp id off status detail = s.withLists ls := by
  unfold State.finishOp
  split
  · exact ⟨s.lists, rfl⟩
  split
  · exact ⟨s.lists, rfl⟩
  split
  · exact ⟨s.lists, rfl⟩
  · exact ⟨_, rfl⟩

theorem mem_finishOp (s : State) (id off status detail : Nat) : (s.finishOp id off status detail).mem = s.mem :=
  (only_finishOp s id off status detail).part .mem (by decide)

theorem noBytes_of_only {s t : State} {Ps : List Piece} {Ks : List RegKind} (h : Only Ps Ks s t) (h1 : Piece.mem ∉ Ps)
    (h2 : Piece.stores ∉ Ps) : Claims.noBytes s t := ⟨h.part .mem h1, h.part .stores h2⟩

/-! ### An operation other than the one that ends -/

section
variable {s : State} {id off : Nat}

theorem State.op?_setOp_ne (j : Nat) (o : Op) (h : off ≠ o.offset) : (s.setOp j o).op? id off = s.op? id off := by
  cases hl : s.list? j with
  | none => rw [State.setOp, hl]
  | some l =>
    by_cases hj : id = j
    · subst hj
      rw [State.op?_of_list (State.list?_setOp o hl), State.op?_of_list hl, WorkList.op?_setOp_ne l o h]
    · have hid : (l.setOp o).id = j := (State.list?_id hl : l.id = j)
      rw [State.setOp_of_list o hl, State.op?, State.op?, State.list?_setList_ne _ _ (hid.symm ▸ hj)]

theorem State.op?_startOp_ne (j at_ : Nat) (h : off ≠ at_) : (s.startOp j at_).op? id off = s.op? id off := by
  cases ho : s.op? j at_ with
  | none => rw [State.startOp, ho]
  | some o =>
    by_cases hq : o.stage = .queued
    · rw [State.startOp_of_op ho hq]
      refine State.op?_setOp_ne j _ ?_
      have hoff : o.offset = at_ := by
        cases hl : s.list? j with
        | none => rw [State.op?, hl] at ho; cases ho
        | some l => rw [State.op?_of_list hl] at ho; exact WorkList.op?_offset ho
      exact hoff.symm ▸ h
    · rw [State.startOp, ho]
      exact congrFun (congrFun (congrArg State.op? (if_neg hq)) id) off

theorem State.op?_finishOp_ne (j at_ status detail : Nat) (h : off ≠ at_) :
    (s.finishOp j at_ status detail).op? id off = s.op? id off := by
  cases hl : s.list? j with
  | none => rw [State.finishOp, hl]
  | some l =>
    cases ho : l.op? at_ with
    | none => rw [State.finishOp, hl]; dsimp only; rw [ho]
    | some o =>
      by_cases hs : o.stage = .finished
      · rw [State.finishOp, hl]
        dsimp only
        rw [ho]
        dsimp only
        rw [if_pos hs]
      · rw [State.finishOp_of_op status detail hl ho hs]
        by_cases hj : id = j
        · subst hj
          have hset := State.list?_finishOp status detail hl ho hs
          rw [State.finishOp_of_op status detail hl ho hs] at hset
          rw [State.op?_of_list hset, State.op?_of_list hl]
          have hne : (l.setOp (o.ended status detail)).op? off = l.op? off :=
            WorkList.op?_setOp_ne l _ ((WorkList.op?_offset ho).symm ▸ h)
          unfold WorkList.ended
          split
          · exact hne
          · rw [WorkList.op?, WorkList.ops_fail]
            exact hne
        · rw [State.op?, State.op?, State.list?_setList_ne _ _ (by rw [WorkList.id_ended, State.list?_id hl]; exact hj)]

theorem State.op?_fireSignal_ne (s : State) (l : WorkList) (o : Op) (h : off ≠ o.offset) :
    (s.fireSignal l o).op? id off = s.op? id off := by
  have hstart := s.op?_startOp_ne (id := id) l.id o.offset h
  unfold State.fireSignal
  generalize s.startOp l.id o.offset = u at hstart ⊢
  rw [← hstart]
  dsimp only
  split
  · have hsend : ∀ m, ((u.request (0x40 + l.home) (refOff (o.f 8 8)) l.tenant (some (l.id, o.offset))).1.sendOut
        l.home m).1.lists = u.lists := fun m =>
      ((only_sendOut _ _ _).part .lists (by decide)).trans ((only_request u _ _ _ _).part .lists (by decide))
    split
    · exact State.op?_congr (hsend _) _ _
    · rw [State.op?_finishOp_ne _ _ _ _ h]
      exact State.op?_congr (hsend _) _ _
  · split
    · next a g _ =>
      have hend : ((u.atomicMem a l.tenant (0x40 + l.home) (o.f 0x10 8)).1.finishOp l.id o.offset
          (u.atomicMem a l.tenant (0x40 + l.home) (o.f 0x10 8)).2.1.status 0).op? id off = u.op? id off := by
        rw [State.op?_finishOp_ne _ _ _ _ h]
        exact State.op?_congr (lists_atomicMem _ _ _ _ _) _ _
      split
      · exact (State.op?_congr ((only_listEvent _ l o.offset).part .lists (by decide)) _ _).trans hend
      · exact hend
    · exact State.op?_finishOp_ne _ _ _ _ h

/-- Advancing a list leaves every operation but its first. -/
theorem op?_advance_ne {m : WorkList} {p : Op} {os : List Op} (hl : s.list? id = some m) (ho : m.ops = p :: os)
    (h : off ≠ p.offset) : (s.advance id).op? id off = s.op? id off := by
  rw [State.advance, hl]
  dsimp only
  rw [ho]
  dsimp only
  split_ifs
  · rfl
  · rw [State.op?_finishOp_ne _ _ _ _ h, State.op?_startOp_ne _ _ h]
  · rfl
  · exact State.op?_fireSignal_ne s m p h
  · rw [State.op?_finishOp_ne _ _ _ _ h, State.op?_startOp_ne _ _ h]
  · rw [State.op?_finishOp_ne _ _ _ _ h, State.op?_startOp_ne _ _ h]
  · rfl

end

/-! ### The first operation of a list that runs (R260) -/

section
variable {s : State} {id : Nat} {m : WorkList} {o : Op} {os : List Op}

theorem advance_fence (hl : s.list? id = some m) (ho : m.ops = o :: os) (hq : o.stage = .queued) (hr : m.state = .running)
    (hc : o.opcode = 0x10) : s.advance id = (s.startOp id o.offset).finishOp id o.offset osOk 0 := by
  rw [State.advance, hl]
  dsimp only
  rw [ho]
  exact (if_neg (by simp [hq, hr])).trans (if_pos hc)

theorem advance_signal (hl : s.list? id = some m) (ho : m.ops = o :: os) (hq : o.stage = .queued) (hr : m.state = .running)
    (hf : m.failed = none) (hs : m.stopStatus = none) (hc : o.opcode = 0x11) : s.advance id = s.fireSignal m o := by
  rw [State.advance, hl]
  dsimp only
  rw [ho]
  exact (if_neg (by simp [hq, hr])).trans ((if_neg (by rw [hc]; decide)).trans ((if_neg (by simp [hf, hs])).trans (if_pos hc)))

theorem advance_end (hl : s.list? id = some m) (ho : m.ops = o :: os) (hq : o.stage = .queued) (hr : m.state = .running)
    (hf : m.failed = none) (hs : m.stopStatus = none) (hc : o.opcode = 0x1F) :
    s.advance id = (s.startOp id o.offset).finishOp id o.offset (if m.next = m.units then osOk else osMalformed) 0 := by
  rw [State.advance, hl]
  dsimp only
  rw [ho]
  exact (if_neg (by simp [hq, hr])).trans ((if_neg (by rw [hc]; decide)).trans ((if_neg (by simp [hf, hs])).trans
    ((if_neg (by rw [hc]; decide)).trans (if_pos hc))))

end

/-! ### An operation that passed its checks -/

section
variable {s : State} {id opc : Nat} {early : Option (List Byte)} {rules : State → WorkList → Op → OpErr} {l : WorkList} {o : Op}

theorem opUnits_max {c : Nat} (h : 0 < opUnits c) : max 1 (opUnits c) = opUnits c := by omega

theorem issuing_listWith (l : WorkList) {o : Op} (h : 0 < opUnits o.opcode) : l.issuing o = Claims.listWith l o := by
  rw [WorkList.issuing, opUnits_max h]
  rfl

theorem recorded_issued (s : State) (l : WorkList) {o : Op} (h : 0 < opUnits o.opcode) : s.recorded l o = Claims.issued s l o := by
  rw [State.recorded, State.issuing, issuing_listWith l h]
  rfl

/-- It is issued and its unit takes it over. -/
theorem issueOp_passes (h : Claims.passes s id early opc rules l o) (hu : 0 < opUnits opc) (run : State → WorkList → Op → State) :
    s.issueOp id early opc rules run = run (Claims.issued s l o) (Claims.listWith l o) o := by
  obtain ⟨hl, hc, -, hacc, hs, ho, hop, hf, hfit, hw, hcore, hrules, hext⟩ := h
  have hu' : 0 < opUnits o.opcode := hop.symm ▸ hu
  have herr : issueErr s l o rules = none := by
    rw [issueErr, if_neg (by rw [opUnits_max hu', hop]; omega), hw, hcore, hrules, hext]
    rfl
  rw [ho] at hop hf herr hu'
  rw [issueOp_checked hl hc hacc hs (.inl hop) hf, herr, recorded_issued _ _ hu', issuing_listWith _ hu', ho]

theorem only_issued (s : State) (l : WorkList) (o : Op) : Only Claims.listParts Claims.listRegs s (Claims.issued s l o) := by
  unfold Claims.issued
  have h1 : Only Claims.listParts Claims.listRegs s ({ s with issueOrder := s.issueOrder + 1 }.setList (Claims.listWith l o)) :=
    only_State_setList _ _ ((Only.refl s).upd_issueOrder (by decide)) (by decide)
  generalize { s with issueOrder := s.issueOrder + 1 }.setList (Claims.listWith l o) = u at h1 ⊢
  dsimp only
  have h2 : Only Claims.listParts Claims.listRegs s (if o.wantsRecord then u.writeRecord (Claims.listWith l o) o [0xFF] else u) := by
    split
    · exact only_State_writeRecord _ _ _ _ h1 (by decide) (by decide)
    · exact h1
  generalize (if o.wantsRecord then u.writeRecord (Claims.listWith l o) o [0xFF] else u) = v at h2 ⊢
  split
  · exact only_State_ctr v _ _ _ h2 (by decide)
  · exact h2

theorem lists_issued (s : State) (l : WorkList) (o : Op) : (Claims.issued s l o).lists = (s.setList (Claims.listWith l o)).lists := by
  unfold Claims.issued
  dsimp only
  have h2 : (if o.wantsRecord then ({ s with issueOrder := s.issueOrder + 1 }.setList (Claims.listWith l o)).writeRecord
      (Claims.listWith l o) o [0xFF] else { s with issueOrder := s.issueOrder + 1 }.setList (Claims.listWith l o)).lists =
      (s.setList (Claims.listWith l o)).lists := by
    split
    · exact (only_State_writeRecord (Ps := [.mem, .checks, .stores, .fpDirty, .chanPoisoned, .hbm, .ic, .flog0, .flog1, .mbox])
        (Ks := Claims.listRegs) _ _ _ _ (Only.refl _) (by decide) (by decide)).part .lists (by decide)
    · rfl
  generalize (if o.wantsRecord then ({ s with issueOrder := s.issueOrder + 1 }.setList (Claims.listWith l o)).writeRecord
      (Claims.listWith l o) o [0xFF] else { s with issueOrder := s.issueOrder + 1 }.setList (Claims.listWith l o)) = v at h2 ⊢
  split
  · exact ((only_State_ctr (Ps := []) (Ks := [.ctrVal]) v _ _ _ (Only.refl v) (by decide)).part .lists (by decide)).trans h2
  · exact h2

theorem list?_issued (hl : s.list? id = some l) : (Claims.issued s l o).list? id = some (Claims.listWith l o) := by
  rw [State.list_congr (lists_issued s l o)]
  exact list?_setList_of (State.list?_id hl :) hl

/-- What an operation that passed its checks meets in its unit. -/
structure Issued (s : State) (id : Nat) (l : WorkList) (o : Op) : Prop where
  id_eq : l.id = id
  list : (Claims.issued s l o).list? id = some (Claims.listWith l o)
  op : (Claims.issued s l o).op? id l.next = some o
  offset : o.offset = l.next
  queued : o.stage = .queued
  status : o.status = osRunning
  early : o.late = false
  fresh : l.op? l.next = none
  running : l.state = .running
  unfailed : l.failed = none
  unstopped : l.stopStatus = none

theorem issued_of_passes (h : Claims.passes s id early opc rules l o) : Issued s id l o := by
  obtain ⟨hl, hc, hn, -, -, ho, -⟩ := h
  obtain ⟨hfail, hstop⟩ := running_of_canIssue hc
  have hoff : o.offset = l.next := by rw [ho]; rfl
  have hop : (Claims.listWith l o).op? l.next = some o := by
    have hnone : l.ops.find? (fun y => y.offset = o.offset) = none := by rw [hoff]; exact hn
    rw [← hoff]
    exact find?_offset_append hnone
  refine ⟨State.list?_id hl, list?_issued hl, (State.op?_of_list (list?_issued hl)).trans hop, hoff, by rw [ho]; rfl, by rw [ho]; rfl,
    by rw [ho]; rfl, hn, ?_, hfail, hstop⟩
  simp only [State.canIssue, Bool.and_eq_true, decide_eq_true_eq] at hc
  exact hc.1.1.1.1.1.1.1

theorem sound_issuing (s : State) (n : Nat) (m : WorkList) (a k : Nat) :
    Claims.sound ({ s with issueOrder := n }.setList m) a k = Claims.sound s a k := rfl

theorem quiet_issuing (s : State) (n : Nat) (m : WorkList) :
    Claims.quiet ({ s with issueOrder := n }.setList m) = Claims.quiet s := rfl

theorem recordPlace_issuing (s : State) (n : Nat) (m k : WorkList) (o : Op) :
    ({ s with issueOrder := n }.setList m).recordPlace k o = s.recordPlace k o := rfl

/-- Status RUNNING stands in the record of an issued operation. -/
theorem issued_records {a : Nat} {g : Seg} (hw : o.wantsRecord = true)
    (hp : s.recordPlace (Claims.listWith l o) o = some (.dev a g)) (hs : Claims.sound s a 1 = true) (hq : Claims.quiet s = true) :
    rdB (Claims.issued s l o).mem a = 0xFF := by
  have hv : ∀ v : State, rdB v.mem a = 0xFF → rdB (if opHasCore o.opcode then v.ctr o.core 0x50 1 else v).mem a = 0xFF := fun v hv => by
    split
    · rwa [mem_ctr]
    · exact hv
  refine hv _ ?_
  rw [← sound_issuing s (s.issueOrder + 1) (Claims.listWith l o)] at hs
  rw [← quiet_issuing s (s.issueOrder + 1) (Claims.listWith l o)] at hq
  rw [← recordPlace_issuing s (s.issueOrder + 1) (Claims.listWith l o)] at hp
  generalize { s with issueOrder := s.issueOrder + 1 }.setList (Claims.listWith l o) = u at hs hq hp ⊢
  obtain ⟨-, -, hh⟩ := opWrite_sound (k := o.core) (tenant := (Claims.listWith l o).tenant) (g := g) [0xFF] hs hq
  rw [if_pos hw, State.writeRecord, hp]
  exact (hh a).trans (by simp)

namespace Issued

variable (h : Issued s id l o)
include h

omit h in
theorem ops_first (hl : l.ops = []) : (Claims.listWith l o).ops = o :: [] := by
  rw [Claims.listWith, hl]
  rfl

/-- It starts and ends at once. -/
theorem ends (status : Nat) : Claims.opAt (((Claims.issued s l o).startOp id l.next).finishOp id l.next status 0) id l.next .finished status := by
  rw [Claims.opAt, State.op?_finishOp status 0 (State.op?_startOp h.op h.queued) (fun h => nomatch h)]
  rfl

/-- While others are in flight before it, it stays queued. -/
theorem waits (hl : l.ops ≠ []) : Claims.opAt ((Claims.issued s l o).advance id) id l.next .queued osRunning := by
  obtain ⟨p, ps, hps⟩ := List.exists_cons_of_ne_nil hl
  have hne : l.next ≠ p.offset := fun hp => by
    have := h.fresh
    rw [WorkList.op?, hps, List.find?_cons_of_pos (by simp [hp])] at this
    cases this
  have hops : (Claims.listWith l o).ops = p :: (ps ++ [o]) := by
    rw [Claims.listWith, hps]
    rfl
  rw [Claims.opAt, op?_advance_ne h.list hops hne, h.op, Option.map_some, h.queued, h.status]

theorem advance_alone_fence (hl : l.ops = []) (hc : o.opcode = 0x10) :
    (Claims.issued s l o).advance id = ((Claims.issued s l o).startOp id l.next).finishOp id l.next osOk 0 := by
  rw [advance_fence h.list (ops_first hl) h.queued h.running hc, h.offset]

theorem advance_alone_end (hl : l.ops = []) (hc : o.opcode = 0x1F) :
    (Claims.issued s l o).advance id = ((Claims.issued s l o).startOp id l.next).finishOp id l.next
      (if l.next + 1 = l.units then osOk else osMalformed) 0 := by
  have hnext : (Claims.listWith l o).next = l.next + 1 := by
    rw [Claims.listWith, hc]
    rfl
  rw [advance_end h.list (ops_first hl) h.queued h.running h.unfailed h.unstopped hc, h.offset, hnext]
  rfl

theorem advance_alone_signal (hl : l.ops = []) (hc : o.opcode = 0x11) :
    (Claims.issued s l o).advance id = (Claims.issued s l o).fireSignal (Claims.listWith l o) o :=
  advance_signal h.list (ops_first hl) h.queued h.running h.unfailed h.unstopped hc

end Issued

theorem noBytes_startOp_finishOp (u : State) (id off at_ status detail : Nat) :
    Claims.noBytes u ((u.startOp id off).finishOp id at_ status detail) :=
  noBytes_of_only ((only_startOp u id off).trans (only_finishOp _ id at_ status detail)) (by decide) (by decide)

/-- FENCE. -/
theorem fence_issued (h : Claims.passes s id early 0x10 Claims.noRules l o) : ∃ t, exec (.fence id early) s = .next t ∧
    Only (Claims.listParts ++ Claims.sendParts) Claims.listRegs s t ∧
    (l.ops = [] → Claims.noBytes (Claims.issued s l o) t ∧ Claims.opAt t id l.next .finished osOk) ∧
    (l.ops ≠ [] → Claims.opAt t id l.next .queued osRunning) := by
  have hi := issued_of_passes h
  have hop : o.opcode = 0x10 := h.2.2.2.2.2.2.1
  have he : exec (.fence id early) s = .next ((Claims.issued s l o).advance id) := by
    refine (?_ : _ = .next ((Claims.issued s l o).advance l.id)).trans (by rw [hi.id_eq])
    exact congrArg _ (issueOp_passes h (by decide) fun s l _ => s.advance l.id)
  refine ⟨_, he, (Only.ofExec (only_execFence id early s) he).mono (by decide) (by decide), fun hl => ?_, hi.waits⟩
  rw [hi.advance_alone_fence hl hop]
  exact ⟨noBytes_startOp_finishOp _ _ _ _ _ _, hi.ends osOk⟩

/-- END. -/
theorem end_issued (h : Claims.passes s id early 0x1F Claims.noRules l o) : ∃ t, exec (.endOp id early) s = .next t ∧
    Only (Claims.listParts ++ Claims.sendParts) Claims.listRegs s t ∧
    (l.ops = [] → Claims.noBytes (Claims.issued s l o) t ∧
      Claims.opAt t id l.next .finished (if l.next + 1 = l.units then osOk else osMalformed)) ∧
    (l.ops ≠ [] → Claims.opAt t id l.next .queued osRunning) := by
  have hi := issued_of_passes h
  have hop : o.opcode = 0x1F := h.2.2.2.2.2.2.1
  have he : exec (.endOp id early) s = .next ((Claims.issued s l o).advance id) := by
    refine (?_ : _ = .next ((Claims.issued s l o).advance l.id)).trans (by rw [hi.id_eq])
    exact congrArg _ (issueOp_passes h (by decide) fun s l _ => s.advance l.id)
  refine ⟨_, he, (Only.ofExec (only_execEndOp id early s) he).mono (by decide) (by decide), fun hl => ?_, hi.waits⟩
  rw [hi.advance_alone_end hl hop]
  exact ⟨noBytes_startOp_finishOp _ _ _ _ _ _, hi.ends _⟩

end

/-! ### SIGNAL (R270) -/

/-- An addition to a semaphore in sound memory is one step. -/
theorem atomicMem_sound {w : State} {a : Nat} (tenant node v : Nat) (hs : Claims.sound w a 8 = true) (hq : Claims.quiet w = true) :
    (w.atomicMem a tenant node v).2.1 = .ok ∧
      Claims.stored w (w.atomicMem a tenant node v).1 a (leBytes 8 ((leNat (rdBytes w.mem a 8) + v) % 2 ^ 64)) := by
  obtain ⟨hacc, -, hh⟩ := writeMem_sound tenant node (leBytes 8 ((leNat (rdBytes w.mem a 8) + v) % 2 ^ 64))
    (by rwa [length_leBytes]) hq
  have he : w.atomicMem a tenant node v =
      ((w.writeMem a tenant node (leBytes 8 ((leNat (rdBytes w.mem a 8) + v) % 2 ^ 64))).1,
        (w.writeMem a tenant node (leBytes 8 ((leNat (rdBytes w.mem a 8) + v) % 2 ^ 64))).2, leNat (rdBytes w.mem a 8)) := by
    rw [State.atomicMem, readMem_sound tenant node hs]
    exact if_pos rfl
  rw [he]
  exact ⟨hacc, stored_of_holds hh⟩

section
variable {u : State} {m : WorkList} {o : Op}

/-- A SIGNAL to a semaphore of this package adds its value and completes. -/
theorem fireSignal_local {a : Nat} {g : Seg} (ho : u.op? m.id o.offset = some o) (hq : o.stage = .queued)
    (hlocal : nbit (o.f 0x18 1) 0 = false ∨ o.f 0x19 1 = u.pkgId)
    (hres : u.resolve m.tenant (o.f 8 8) (plain 8) (rRead + rWrite) = some (.dev a g)) (hs : Claims.sound u a 8 = true)
    (hquiet : Claims.quiet u = true) :
    Claims.stored u (u.fireSignal m o) a (leBytes 8 ((leNat (rdBytes u.mem a 8) + o.f 0x10 8) % 2 ^ 64)) ∧
      Claims.opAt (u.fireSignal m o) m.id o.offset .finished osOk := by
  have hop := State.op?_startOp ho hq
  obtain ⟨ls, hls⟩ := startOp_withLists u m.id o.offset
  rw [State.fireSignal]
  rw [hls] at hop ⊢
  have hpkg : (u.withLists ls).pkgId = u.pkgId := rfl
  rw [← resolve_withLists u ls] at hres
  obtain ⟨hacc, hst⟩ := atomicMem_sound (w := u.withLists ls) m.tenant (0x40 + m.home) (o.f 0x10 8) hs hquiet
  have hlists := lists_atomicMem (u.withLists ls) a m.tenant (0x40 + m.home) (o.f 0x10 8)
  dsimp only
  rw [if_neg (by rw [hpkg]; rcases hlocal with h | h <;> simp [h]), hres]
  dsimp only
  rw [hacc]
  generalize ((u.withLists ls).atomicMem a m.tenant (0x40 + m.home) (o.f 0x10 8)).1 = w at hst hlists ⊢
  have hfin : Claims.opAt (w.finishOp m.id o.offset osOk 0) m.id o.offset .finished osOk := by
    rw [Claims.opAt, State.op?_finishOp osOk 0 ((State.op?_congr hlists _ _).trans hop) (fun h => nomatch h)]
    rfl
  have hmem : Claims.stored u (w.finishOp m.id o.offset osOk 0) a
      (leBytes 8 ((leNat (rdBytes u.mem a 8) + o.f 0x10 8) % 2 ^ 64)) := by
    rw [Claims.stored, mem_finishOp]
    exact hst
  change Claims.stored u (if _ then (w.finishOp m.id o.offset osOk 0).listEvent m o.offset else w.finishOp m.id o.offset osOk 0) _ _ ∧
    Claims.opAt (if _ then (w.finishOp m.id o.offset osOk 0).listEvent m o.offset else w.finishOp m.id o.offset osOk 0) _ _ _ _
  generalize w.finishOp m.id o.offset osOk 0 = x at hfin hmem ⊢
  have hev := only_listEvent x m o.offset
  split
  · refine ⟨?_, ?_⟩
    · rw [Claims.stored, hev.part .mem (by decide)]
      exact hmem
    · rw [Claims.opAt, State.op?_congr (hev.part .lists (by decide))]
      exact hfin
  · exact ⟨hmem, hfin⟩

/-- A SIGNAL to another package asks it, or ends where no port leads there. -/
theorem fireSignal_remote (ho : u.op? m.id o.offset = some o) (hq : o.stage = .queued) (hst : o.status = osRunning)
    (hfar : nbit (o.f 0x18 1) 0 = true) (hpkg : o.f 0x19 1 ≠ u.pkgId) : Claims.noBytes u (u.fireSignal m o) ∧
      (Claims.opAt (u.fireSignal m o) m.id o.offset .finished osNodeLost ∨
        (Claims.opAt (u.fireSignal m o) m.id o.offset .started osRunning ∧ (u.fireSignal m o).reqs.length = u.reqs.length + 1)) := by
  have hop := State.op?_startOp ho hq
  have hreqs : (u.startOp m.id o.offset).reqs = u.reqs := (only_startOp u _ _).part .reqs (by decide)
  have hbytes := noBytes_of_only (only_startOp u m.id o.offset) (by decide) (by decide)
  have hsame : (u.startOp m.id o.offset).pkgId = u.pkgId := by
    obtain ⟨ls, hls⟩ := startOp_withLists u m.id o.offset
    rw [hls]
    rfl
  rw [State.fireSignal]
  generalize u.startOp m.id o.offset = w at hop hreqs hbytes hsame ⊢
  dsimp only
  rw [if_pos (by simp [hfar, hsame, hpkg])]
  have hq1 := only_request w (0x40 + m.home) (refOff (o.f 8 8)) m.tenant (some (m.id, o.offset))
  have hlen : (w.request (0x40 + m.home) (refOff (o.f 8 8)) m.tenant (some (m.id, o.offset))).1.reqs.length = u.reqs.length + 1 := by
    rw [State.request, ← hreqs]
    exact List.length_append
  generalize w.request (0x40 + m.home) (refOff (o.f 8 8)) m.tenant (some (m.id, o.offset)) = q at hq1 hlen ⊢
  have hr := only_sendOut q.1 m.home (w.mkMsg (o.f 0x19 1) (0x40 + m.home) 2 1 m.tenant q.2 1 (remoteAddr (o.f 8 8))
    (leBytes 8 (o.f 0x10 8)))
  generalize q.1.sendOut m.home (w.mkMsg (o.f 0x19 1) (0x40 + m.home) 2 1 m.tenant q.2 1 (remoteAddr (o.f 8 8))
    (leBytes 8 (o.f 0x10 8))) = r at hr ⊢
  have hlists : r.1.lists = w.lists := (hr.part .lists (by decide)).trans (hq1.part .lists (by decide))
  have hsent : Claims.noBytes u r.1 :=
    ⟨((hr.part .mem (by decide)).trans (hq1.part .mem (by decide))).trans hbytes.1,
      ((hr.part .stores (by decide)).trans (hq1.part .stores (by decide))).trans hbytes.2⟩
  split
  · refine ⟨hsent, .inr ⟨?_, ?_⟩⟩
    · rw [Claims.opAt, State.op?_congr hlists, hop, Option.map_some]
      exact congrArg (fun x => some (OpStage.started, x)) hst
    · rw [hr.part .reqs (by decide), hlen]
  · have hback : ∀ v : State, v.lists = w.lists → Claims.noBytes u v → Claims.noBytes u (v.finishOp m.id o.offset osNodeLost 0) ∧
        Claims.opAt (v.finishOp m.id o.offset osNodeLost 0) m.id o.offset .finished osNodeLost := fun v hv hn => by
      have hf := only_finishOp v m.id o.offset osNodeLost 0
      refine ⟨⟨(hf.part .mem (by decide)).trans hn.1, (hf.part .stores (by decide)).trans hn.2⟩, ?_⟩
      rw [Claims.opAt, State.op?_finishOp osNodeLost 0 ((State.op?_congr hv _ _).trans hop) (fun h => nomatch h)]
      rfl
    obtain ⟨h1, h2⟩ := hback { r.1 with reqs := w.reqs } hlists hsent
    exact ⟨h1, .inl h2⟩

end

section
variable {s : State} {id opc : Nat} {early : Option (List Byte)} {rules : State → WorkList → Op → OpErr} {l : WorkList} {o : Op}

theorem pkgId_issued (s : State) (l : WorkList) (o : Op) : (Claims.issued s l o).pkgId = s.pkgId := by
  rw [State.pkgId, (only_issued s l o).part .straps (by decide)]
  rfl

/-- SIGNAL. -/
theorem signal_issued (h : Claims.passes s id early 0x11 Claims.signalRules l o) :
    let u := Claims.issued s l o
    ∃ t, exec (.signal id early) s = .next t ∧ Only (Claims.listParts ++ Claims.sendParts) Claims.listRegs s t ∧
      (l.ops ≠ [] → Claims.opAt t id l.next .queued osRunning) ∧
      (l.ops = [] → nbit (o.f 0x18 1) 0 = false ∨ o.f 0x19 1 = s.pkgId →
        (∀ a g, u.resolve l.tenant (o.f 8 8) (plain 8) (rRead + rWrite) = some (.dev a g) → Claims.sound u a 8 = true →
          Claims.quiet u = true → Claims.stored u t a (leBytes 8 ((leNat (rdBytes u.mem a 8) + o.f 0x10 8) % 2 ^ 64)) ∧
          Claims.opAt t id l.next .finished osOk)) ∧
      (l.ops = [] → nbit (o.f 0x18 1) 0 = true → o.f 0x19 1 ≠ s.pkgId → Claims.noBytes u t ∧
        (Claims.opAt t id l.next .finished osNodeLost ∨
          (Claims.opAt t id l.next .started osRunning ∧ t.reqs.length = s.reqs.length + 1))) := by
  intro u
  have hi := issued_of_passes h
  have hop : o.opcode = 0x11 := h.2.2.2.2.2.2.1
  have he : exec (.signal id early) s = .next (u.advance id) := by
    refine (?_ : _ = .next (u.advance l.id)).trans (by rw [hi.id_eq])
    exact congrArg _ (issueOp_passes h (by decide) fun s l _ => s.advance l.id)
  have ho : u.op? (Claims.listWith l o).id o.offset = some o := by
    rw [hi.offset, show (Claims.listWith l o).id = id from hi.id_eq]
    exact hi.op
  have hpkg : u.pkgId = s.pkgId := pkgId_issued s l o
  have hreqs : u.reqs = s.reqs := (only_issued s l o).part .reqs (by decide)
  refine ⟨_, he, (Only.ofExec (only_execSignal id early s) he).mono (by decide) (by decide), hi.waits,
    fun hl hlocal a g hres hs hq => ?_, fun hl hfar hne => ?_⟩
  · have := fireSignal_local ho hi.queued (hpkg.symm ▸ hlocal) hres hs hq
    rw [show (Claims.listWith l o).id = id from hi.id_eq, hi.offset] at this
    rwa [show u.advance id = _ from hi.advance_alone_signal hl hop]
  · have := fireSignal_remote ho hi.queued hi.status hfar (hpkg.symm ▸ hne)
    rw [show (Claims.listWith l o).id = id from hi.id_eq, hi.offset, hreqs] at this
    rwa [show u.advance id = _ from hi.advance_alone_signal hl hop]

/-! ### LAUNCH_AT and BANK_FENCE (R272, R139) -/

/-- What LAUNCH_AT does once issued. -/
def State.launch (s : State) (l : WorkList) (o : Op) : State :=
  let s1 := s.startOp l.id o.offset
  if o.f 8 8 < s.tb.count then
    (match s1.op? l.id o.offset with
     | some q => (s1.setOp l.id { q with late := true }).finishOp l.id o.offset osOk 0
     | none => s1)
  else if o.f 8 8 = s.tb.count then s1.finishOp l.id o.offset osOk 0
  else s1

theorem launch_op {u : State} {m : WorkList} (ho : u.op? m.id o.offset = some o) (hq : o.stage = .queued)
    (hst : o.status = osRunning) (hlate : o.late = false) : Claims.noBytes u (u.launch m o) ∧
      ((u.launch m o).op? m.id o.offset).map (fun q => (q.stage, q.status, q.late)) =
        some (if o.f 8 8 ≤ u.tb.count then (.finished, osOk, decide (o.f 8 8 < u.tb.count)) else (.started, osRunning, false)) := by
  have hop := State.op?_startOp ho hq
  have hstart := only_startOp u m.id o.offset
  have hbytes := noBytes_of_only hstart (by decide) (by decide)
  unfold State.launch
  generalize u.startOp m.id o.offset = w at hop hbytes hstart ⊢
  have hend : ∀ v : State, Claims.noBytes u v → Claims.noBytes u (v.finishOp m.id o.offset osOk 0) := fun v hv =>
    ⟨(mem_finishOp v _ _ _ _).trans hv.1, ((only_finishOp v _ _ _ _).part .stores (by decide)).trans hv.2⟩
  dsimp only
  split_ifs with h1 h2 h3 h4
  · rw [hop]
    dsimp only
    have hset : (w.setOp m.id { o.begun u with late := true }).op? m.id o.offset = some { o.begun u with late := true } :=
      State.op?_setOp_same (o := { o.begun u with late := true }) (p := o.begun u) hop
    have hkeep : Claims.noBytes u (w.setOp m.id { o.begun u with late := true }) := by
      obtain ⟨ls, hls⟩ := setOp_withLists w m.id { o.begun u with late := true }
      rw [hls]
      exact hbytes
    refine ⟨hend _ hkeep, ?_⟩
    rw [State.op?_finishOp osOk 0 hset (fun h => nomatch h), Option.map_some, decide_eq_true h1]
    rfl
  · omega
  · refine ⟨hend _ hbytes, ?_⟩
    rw [State.op?_finishOp osOk 0 hop (fun h => nomatch h), Option.map_some, decide_eq_false (by omega), ← hlate]
    rfl
  · omega
  · omega
  · refine ⟨hbytes, ?_⟩
    rw [hop, Option.map_some, ← hst, ← hlate]
    rfl

theorem launchAt_issued (h : Claims.passes s id early 0x15 Claims.noRules l o) : ∃ t, exec (.launchAt id early) s = .next t ∧
    Only Claims.listParts Claims.listRegs s t ∧ Claims.noBytes (Claims.issued s l o) t ∧
    (t.op? id l.next).map (fun q => (q.stage, q.status, q.late)) =
      some (if o.f 8 8 ≤ s.tb.count then (.finished, osOk, decide (o.f 8 8 < s.tb.count)) else (.started, osRunning, false)) := by
  have hi := issued_of_passes h
  have he : exec (.launchAt id early) s = .next ((Claims.issued s l o).launch (Claims.listWith l o) o) :=
    congrArg _ (issueOp_passes h (by decide) State.launch)
  have hid : (Claims.listWith l o).id = id := hi.id_eq
  have ho : (Claims.issued s l o).op? (Claims.listWith l o).id o.offset = some o := by
    rw [hi.offset, hid]
    exact hi.op
  obtain ⟨h1, h2⟩ := launch_op ho hi.queued hi.status hi.early
  rw [hid, hi.offset, (only_issued s l o).part .tb (by decide)] at h2
  exact ⟨_, he, Only.ofExec (only_execLaunchAt id early s) he, h1, h2⟩

/-- What BANK_FENCE does once issued. -/
def State.bankFenced (s : State) (l : WorkList) (o : Op) : State :=
  let s1 := s.startOp l.id o.offset
  let lost := (List.range 64).any fun k => nbit (o.f 8 8) k && num s.coreState k = 3
  s1.finishOp l.id o.offset (if lost then osNodeLost else osOk) 0

theorem bankFence_issued (h : Claims.passes s id early 0x0A Claims.bankFenceRules l o) : ∃ t,
    exec (.bankFence id early) s = .next t ∧ Only Claims.listParts Claims.listRegs s t ∧ Claims.noBytes (Claims.issued s l o) t ∧
    Claims.opAt t id l.next .finished
      (if (List.range 64).any (fun k => nbit (o.f 8 8) k && num s.coreState k = 3) then osNodeLost else osOk) := by
  have hi := issued_of_passes h
  have he : exec (.bankFence id early) s = .next ((Claims.issued s l o).bankFenced (Claims.listWith l o) o) :=
    congrArg _ (issueOp_passes h (by decide) State.bankFenced)
  have hid : (Claims.listWith l o).id = id := hi.id_eq
  refine ⟨_, he, Only.ofExec (only_execBankFence id early s) he, noBytes_startOp_finishOp _ _ _ _ _ _, ?_⟩
  rw [← (only_issued s l o).part .coreState (by decide), State.bankFenced, hid, hi.offset]
  exact hi.ends _

/-! ### WAIT (R270, R271) -/

/-- A read of a WAIT's semaphore in sound memory. -/
theorem pollWait_op {u : State} {m : WorkList} {p : Op} {a : Nat} {g : Seg} (ho : u.op? m.id o.offset = some p)
    (hres : u.resolve m.tenant (o.f 8 8) (plain 8) (rRead + rWrite) = some (.dev a g)) (hs : Claims.sound u a 8 = true) :
    Claims.noBytes u (u.pollWait m o) ∧
      if o.f 0x10 8 ≤ leNat (rdBytes u.mem a 8) then Claims.opAt (u.pollWait m o) m.id o.offset .finished osOk
      else (u.pollWait m o).op? m.id o.offset = some { o with stage := .started, lastPoll := u.now } := by
  have hset : (u.setOp m.id { o with stage := .started, lastPoll := u.now }).op? m.id o.offset =
      some { o with stage := .started, lastPoll := u.now } :=
    State.op?_setOp_same (o := { o with stage := .started, lastPoll := u.now }) (p := p) ho
  have hbytes : Claims.noBytes u (u.setOp m.id { o with stage := .started, lastPoll := u.now }) := by
    obtain ⟨ls, hls⟩ := setOp_withLists u m.id { o with stage := .started, lastPoll := u.now }
    rw [hls]
    exact noBytes_withLists u ls
  rw [State.pollWait, hres]
  dsimp only
  rw [readMem_sound _ _ hs]
  dsimp only
  rw [if_neg (by simp)]
  generalize u.setOp m.id { o with stage := .started, lastPoll := u.now } = w at hset hbytes ⊢
  split_ifs with hv
  · refine ⟨⟨(mem_finishOp w _ _ _ _).trans hbytes.1, ((only_finishOp w _ _ _ _).part .stores (by decide)).trans hbytes.2⟩, ?_⟩
    rw [Claims.opAt, State.op?_finishOp osOk 0 hset (fun h => nomatch h)]
    rfl
  · exact ⟨hbytes, hset⟩

/-- What WAIT does once issued. -/
def State.waited (s : State) (l : WorkList) (o : Op) : State :=
  (s.startOp l.id o.offset).pollWait l { o with stage := .started, start := s.tb.count }

theorem wait_issued {a : Nat} {g : Seg} (h : Claims.passes s id early 0x12 (fun s l o => semRules s l (o.f 8 8) false) l o)
    (hres : (Claims.issued s l o).resolve l.tenant (o.f 8 8) (plain 8) (rRead + rWrite) = some (.dev a g))
    (hs : Claims.sound (Claims.issued s l o) a 8 = true) : ∃ t, exec (.wait id early) s = .next t ∧
      Only Claims.listParts Claims.listRegs s t ∧ Claims.noBytes (Claims.issued s l o) t ∧
      if o.f 0x10 8 ≤ leNat (rdBytes (Claims.issued s l o).mem a 8) then Claims.opAt t id l.next .finished osOk
      else Claims.opAt t id l.next .started osRunning ∧ (t.op? id l.next).map (·.lastPoll) = some s.now := by
  have hi := issued_of_passes h
  have he : exec (.wait id early) s = .next ((Claims.issued s l o).waited (Claims.listWith l o) o) :=
    congrArg _ (issueOp_passes h (by decide) State.waited)
  refine ⟨_, he, Only.ofExec (only_execWait id early s) he, ?_⟩
  have hid : (Claims.listWith l o).id = id := hi.id_eq
  have hnow : (Claims.issued s l o).now = s.now := (only_issued s l o).part .now (by decide)
  have ho := hi.op
  have hq := hi.queued
  have hst := hi.status
  have hoff := hi.offset
  clear he h hi
  generalize Claims.issued s l o = u at *
  rw [← hoff] at ho ⊢
  have hop := State.op?_startOp ho hq
  obtain ⟨ls, hls⟩ := startOp_withLists u id o.offset
  have hw : u.waited (Claims.listWith l o) o =
      (u.withLists ls).pollWait (Claims.listWith l o) { o with stage := .started, start := u.tb.count } := by
    rw [State.waited, hid, hls]
  rw [hls] at hop
  rw [hw]
  obtain ⟨h1, h2⟩ := pollWait_op (u := u.withLists ls) (m := Claims.listWith l o) (p := o.begun u)
    (o := { o with stage := .started, start := u.tb.count }) (a := a) (g := g) (by rw [hid]; exact hop) hres hs
  rw [hid] at h2
  refine ⟨h1, ?_⟩
  by_cases hv : o.f 0x10 8 ≤ leNat (rdBytes u.mem a 8)
  · rw [if_pos hv]
    exact ((if_pos hv).mp h2 :)
  · have h3 : ((u.withLists ls).pollWait (Claims.listWith l o) { o with stage := .started, start := u.tb.count }).op? id o.offset =
        some { o with stage := .started, start := u.tb.count, lastPoll := u.now } := ((if_neg hv).mp h2 :)
    rw [if_neg hv, Claims.opAt, h3]
    exact ⟨congrArg (fun x => some (OpStage.started, x)) hst, congrArg some hnow⟩

end

section
variable {s : State} {id : Nat} {l : WorkList} {o : Op}

theorem startedOp_some {opc : Nat} (h : s.startedOp id opc = some (l, o)) : o.stage = .started := by
  unfold State.startedOp at h
  split at h
  · cases h
  next k _ =>
  obtain ⟨p, hp, hk⟩ := Option.map_eq_some_iff.1 h
  obtain ⟨rfl, rfl⟩ := Prod.mk.inj hk
  have := List.find?_some hp
  simp only [Bool.and_eq_true, decide_eq_true_eq] at this
  exact this.2

theorem exec_waitPoll (h : s.startedOp id 0x12 = some (l, o)) : exec (.waitPoll id) s =
    .next (if o.lastPoll + 64 ≤ s.now && s.towerRuns l.home then s.pollWait l o else s) := by
  have he : exec (.waitPoll id) s = execWaitPoll id s := rfl
  rw [he, execWaitPoll, h]

theorem exec_waitTimeout (h : s.startedOp id 0x12 = some (l, o)) : exec (.waitTimeout id) s =
    .next (if o.f 0x18 4 ≠ 0 && o.issuedAt + o.f 0x18 4 ≤ s.now then s.finishOp l.id o.offset osWaitTimeout 0 else s) := by
  have he : exec (.waitTimeout id) s = execWaitTimeout id s := rfl
  rw [he, execWaitTimeout, h]

theorem exec_launchAtRelease (h : s.startedOp id 0x15 = some (l, o)) : exec (.launchAtRelease id) s =
    .next (if o.f 8 8 ≤ s.tb.count then s.finishOp l.id o.offset osOk 0 else s) := by
  have he : exec (.launchAtRelease id) s = execLaunchAtRelease id s := rfl
  rw [he, execLaunchAtRelease, h]

/-- WAIT_POLL at its time. -/
theorem waitPoll_reads {a : Nat} {g : Seg} (h : s.startedOp id 0x12 = some (l, o)) (hl : s.list? id = some l)
    (ho : l.op? o.offset = some o) (hdue : o.lastPoll + 64 ≤ s.now) (hrun : s.towerRuns l.home = true)
    (hres : s.resolve l.tenant (o.f 8 8) (plain 8) (rRead + rWrite) = some (.dev a g)) (hs : Claims.sound s a 8 = true) :
    ∃ t, exec (.waitPoll id) s = .next t ∧
      Only [.fpDirty, .chanPoisoned, .hbm, .ic, .flog0, .flog1, .mbox, .lists] Claims.listRegs s t ∧
      if o.f 0x10 8 ≤ leNat (rdBytes s.mem a 8) then Claims.opAt t id o.offset .finished osOk
      else t.op? id o.offset = some { o with lastPoll := s.now } := by
  have he := exec_waitPoll h
  rw [if_pos (by simp [hdue, hrun])] at he
  have hid : l.id = id := State.list?_id hl
  have hop : s.op? l.id o.offset = some o := by rw [hid, State.op?_of_list hl, ho]
  obtain ⟨-, h2⟩ := pollWait_op hop hres hs
  have hst : ({ o with stage := .started, lastPoll := s.now } : Op) = { o with lastPoll := s.now } :=
    congrArg (fun x => ({ o with stage := x, lastPoll := s.now } : Op)) (startedOp_some h).symm
  rw [hst, hid] at h2
  exact ⟨_, he, (Only.ofExec (only_execWaitPoll id s) he).mono (by decide) (by decide), h2⟩

/-- WAIT_TIMEOUT at its time. -/
theorem waitTimeout_fails (h : s.startedOp id 0x12 = some (l, o)) (hl : s.list? id = some l) (ho : l.op? o.offset = some o)
    (hset : o.f 0x18 4 ≠ 0) (hdue : o.issuedAt + o.f 0x18 4 ≤ s.now) : ∃ t, exec (.waitTimeout id) s = .next t ∧
      Only [.lists] [] s t ∧ Claims.opAt t id o.offset .finished osWaitTimeout ∧
      (l.failed = none → l.stopStatus = none → (t.list? id).map (·.failed) = some (some (o.offset, osWaitTimeout))) := by
  have he := exec_waitTimeout h
  rw [if_pos (by simp [hset, hdue]), State.list?_id hl] at he
  have hst : o.stage ≠ .finished := by rw [startedOp_some h]; decide
  refine ⟨_, he, only_finishOp _ _ _ _ _, ?_, fun hf hs => ?_⟩
  · rw [Claims.opAt, State.op?_finishOp osWaitTimeout 0 ((State.op?_of_list hl).trans ho) hst]
    rfl
  · rw [State.list?_finishOp osWaitTimeout 0 hl ho hst, WorkList.ended, if_neg (by rw [hs]; decide), WorkList.fail_first (l := l.setOp _) _ _ hf]
    rfl

/-- LAUNCH_AT_RELEASE at its count. -/
theorem launchAtRelease_ends (h : s.startedOp id 0x15 = some (l, o)) (hl : s.list? id = some l) (ho : l.op? o.offset = some o)
    (hdue : o.f 8 8 ≤ s.tb.count) : ∃ t, exec (.launchAtRelease id) s = .next t ∧ Only [.lists] [] s t ∧
      Claims.opAt t id o.offset .finished osOk ∧ (t.op? id o.offset).map (·.late) = some o.late := by
  have he := exec_launchAtRelease h
  rw [if_pos hdue, State.list?_id hl] at he
  have hst : o.stage ≠ .finished := by rw [startedOp_some h]; decide
  have hop := State.op?_finishOp osOk 0 ((State.op?_of_list hl).trans ho) hst
  refine ⟨_, he, only_finishOp _ _ _ _ _, ?_, ?_⟩
  · rw [Claims.opAt, hop]
    rfl
  · rw [hop]
    rfl

end

/-- Settles O38. -/
theorem synchronisationOperationsRun : Obligations.SynchronisationOperationsRun := by
  refine ⟨fun id early l o s => ?_, fun id early l o a g s => ?_, fun id l o s h hl ho => ?_, fun id l o s h hl ho => ?_⟩
  · exact ⟨fun opc rules a g _ => issued_records, fence_issued, signal_issued, end_issued, launchAt_issued, bankFence_issued⟩
  · exact wait_issued
  · refine ⟨fun hdue hrun a g => waitPoll_reads h hl ho hdue hrun, fun hn => ?_, waitTimeout_fails h hl ho, fun hn => ?_⟩
    · rw [exec_waitPoll h, if_neg]
      simp only [Bool.and_eq_true, decide_eq_true_eq, not_and_or]
      exact .inl (by omega)
    · rw [exec_waitTimeout h, if_neg]
      simp only [Bool.and_eq_true, decide_eq_true_eq, not_and_or, not_not, not_le, ne_eq, decide_not, Bool.not_eq_true',
        decide_eq_false_iff_not]
      exact hn
  · exact ⟨launchAtRelease_ends h hl ho, fun hn => by rw [exec_launchAtRelease h, if_neg (by omega)]⟩

end Sys2Proof.Machine
end

section
/-! Span ports: what sending, showing lanes and going down leave of a port (R240 to R245). -/

namespace Sys2Proof.Machine

/-! ### The registers of a port -/

theorem Reg.spnCtl_off (p : Nat) : (Reg.spnCtl p).off = portBlk p := rfl
theorem Reg.spnStat_off (p : Nat) : (Reg.spnStat p).off = portBlk p + 0x004 := rfl
theorem Reg.spnRxmap_off (p : Nat) : (Reg.spnRxmap p).off = portBlk p + 0x008 := rfl
theorem Reg.spnTxmap_off (p : Nat) : (Reg.spnTxmap p).off = portBlk p + 0x00C := rfl
theorem Reg.spnLanest_off (p : Nat) : (Reg.spnLanest p).off = portBlk p + 0x010 := rfl
theorem Reg.spnLaneloss_off (p : Nat) : (Reg.spnLaneloss p).off = portBlk p + 0x02C := rfl
theorem Reg.spnDiscard_off (p : Nat) : (Reg.spnDiscard p).off = portBlk p + 0x030 := rfl

/-- The registers that a message's way out and its answer may touch. -/
def answerTouches : Reg → Prop
  | .ctrVal u n => n < unitCtrs u
  | .fabStat _ | .fabDiscard _ => True
  | _ => False

/-- A port's own registers are out of their reach. -/
theorem answerTouches_port {r : Reg} (h : answerTouches r) {p k : Nat} (hk : k < 0x40) : portBlk p + k ≠ r.off := by
  unfold portBlk blk
  cases r with
  | ctrVal u n =>
    change n < unitCtrs u at h
    rw [Reg.ctrVal_off]
    unfold unitVals coreBlk portBlk blk
    unfold unitCtrs at h
    split_ifs at h ⊢ <;> omega
  | fabStat d => rw [Reg.fabStat_off, blk]; omega
  | fabDiscard d => rw [Reg.fabDiscard_off, blk]; omega
  | _ => exact h.elim

/-- The registers that show a port's lanes and state. -/
def lanesShown (p : Nat) (r : Reg) : Prop := r = .spnRxmap p ∨ r = .spnTxmap p ∨ r = .spnLanest p ∨ r = .spnStat p

/-- What a port touches as it goes down, and what its messages touch. -/
def downTouches (p : Nat) (r : Reg) : Prop := answerTouches r ∨ lanesShown p r ∨ r = .spnDiscard p

section
variable {s t : State} {p : Nat}

theorem lanesShown_off {r : Reg} (h : lanesShown p r) : ∃ k, r.off = portBlk p + k ∧ 4 ≤ k ∧ k ≤ 0x10 := by
  obtain rfl | rfl | rfl | rfl := h
  · exact ⟨_, Reg.spnRxmap_off p, by decide, by decide⟩
  · exact ⟨_, Reg.spnTxmap_off p, by decide, by decide⟩
  · exact ⟨_, Reg.spnLanest_off p, by decide, by decide⟩
  · exact ⟨_, Reg.spnStat_off p, by decide, by decide⟩

/-- A register of the port that going down leaves. -/
theorem RegsBut.reg_other (h : RegsBut (downTouches p) s t) {q : Reg} {k : Nat} (hq : q.off = portBlk p + k) (hk : k < 0x30)
    (hk' : k < 4 ∨ 0x10 < k) : t.reg q = s.reg q := by
  refine h.reg q fun r hr => ?_
  rw [hq]
  obtain hr | hr | rfl := hr
  · exact answerTouches_port hr (by omega)
  · obtain ⟨j, hj, h1, h2⟩ := lanesShown_off hr
    omega
  · rw [Reg.spnDiscard_off]
    omega

theorem RegsBut.reg_spnCtl (h : RegsBut (downTouches p) s t) : t.reg (.spnCtl p) = s.reg (.spnCtl p) :=
  h.reg_other ((Reg.spnCtl_off p).trans (Nat.add_zero _).symm) (by decide) (by decide)

theorem RegsBut.reg_spnLaneloss (h : RegsBut (downTouches p) s t) : t.reg (.spnLaneloss p) = s.reg (.spnLaneloss p) :=
  h.reg_other (Reg.spnLaneloss_off p) (by decide) (by decide)

/-- Messages and answers leave a port's own registers. -/
theorem RegsBut.reg_port (h : RegsBut answerTouches s t) {q : Reg} {k : Nat} (hq : q.off = portBlk p + k) (hk : k < 0x40) :
    t.reg q = s.reg q := h.reg q fun r hr => by
  rw [hq]
  exact answerTouches_port hr hk

theorem RegsBut.reg_spnStat (h : RegsBut answerTouches s t) : t.reg (.spnStat p) = s.reg (.spnStat p) :=
  h.reg_port (Reg.spnStat_off p) (by decide)

theorem State.spanState_congr (h : t.reg (.spnStat p) = s.reg (.spnStat p)) : t.spanState p = s.spanState p :=
  State.regF_congr h 29 3

theorem State.spanWorks_congr (h : t.reg (.spnStat p) = s.reg (.spnStat p)) : t.spanWorks p = s.spanWorks p := by
  rw [State.spanWorks, State.spanWorks, State.spanState_congr h]

end

/-! ### Sending -/

/-- A frame leaves a port's lanes and holds. -/
def Span.lanes (x : Span) : Option Nat × Option Nat × Option Nat × Bool × List Nat × List Nat × Option Nat :=
  (x.rxHold, x.txHold, x.remapReq, x.narrowReq, x.lostRx, x.lostTx, x.trainingSince)

theorem lanes_takeMsgs (x : Span) (fuel room : Nat) :
    (x.takeMsgs fuel room).1.lanes = x.lanes ∧ (x.takeMsgs fuel room).1.nackSent = x.nackSent := by
  induction fuel generalizing x room with
  | zero => exact ⟨rfl, rfl⟩
  | succ fuel ih =>
    unfold Span.takeMsgs
    repeat' split
    · exact ⟨rfl, rfl⟩
    · exact ⟨rfl, rfl⟩
    · exact ⟨rfl, rfl⟩
    · exact ih _ _

theorem ports_ctr (s : State) (u code n : Nat) : (s.ctr u code n).ports = s.ports :=
  (only_State_ctr (Ps := []) (Ks := [.ctrVal]) s u code n (Only.refl s) (by decide)).part .ports (by decide)

theorem span_ctr (s : State) (u code n p : Nat) : (s.ctr u code n).span p = s.span p :=
  congrFun (State.span_congr (ports_ctr s u code n)) p

/-- The port once it has sent a frame with these messages. -/
def Span.framed (x : Span) (msgs : List Msg) : Span :=
  { x with unacked := x.unacked ++ [⟨x.txSeq, msgs⟩], txSeq := (x.txSeq + 1) % 65536, pool := (x.pool + 1) % 8 }

theorem sendFrame_eq (s : State) (p : Nat) (nack : Bool) (msgs : List Msg) : s.sendFrame p nack msgs =
    ((s.setSpan p ((s.span p).framed msgs)).emit ((s.span p).output p (s.span p).txSeq nack msgs)).ctr (unitPort p) 0x2001 1 := rfl

/-- What a frame of port `p` leaves of the ports: its lanes and holds, and every other port. -/
structure PortSends (p : Nat) (s t : State) : Prop where
  lanes : (t.span p).lanes = (s.span p).lanes
  nack : (t.span p).nackSent = (s.span p).nackSent
  other : ∀ q, q ≠ p → t.span q = s.span q

namespace PortSends

variable {p : Nat} {s t u : State}

theorem refl (s : State) : PortSends p s s := ⟨rfl, rfl, fun _ _ => rfl⟩

theorem trans (h : PortSends p s t) (k : PortSends p t u) : PortSends p s u :=
  ⟨k.lanes.trans h.lanes, k.nack.trans h.nack, fun q hq => (k.other q hq).trans (h.other q hq)⟩

theorem setSpan (s : State) {x : Span} (h1 : x.lanes = (s.span p).lanes) (h2 : x.nackSent = (s.span p).nackSent) :
    PortSends p s (s.setSpan p x) := by
  refine ⟨?_, ?_, fun q hq => ?_⟩
  · rw [State.span_setSpan, if_pos rfl, h1]
  · rw [State.span_setSpan, if_pos rfl, h2]
  · rw [State.span_setSpan, if_neg hq]

theorem sendFrame (s : State) (nack : Bool) (msgs : List Msg) : PortSends p s (s.sendFrame p nack msgs) := by
  have h := setSpan (p := p) (x := (s.span p).framed msgs) s rfl rfl
  rw [sendFrame_eq]
  generalize s.setSpan p ((s.span p).framed msgs) = v at h ⊢
  have hs : ∀ q, ((v.emit ((s.span p).output p (s.span p).txSeq nack msgs)).ctr (unitPort p) 0x2001 1).span q = v.span q :=
    fun q => (span_ctr _ _ _ _ q).trans rfl
  exact ⟨by rw [hs]; exact h.lanes, by rw [hs]; exact h.nack, fun q hq => by rw [hs]; exact h.other q hq⟩

theorem sendControl (s : State) (nack : Bool) : PortSends p s (s.sendControl p nack) := by
  unfold State.sendControl
  split
  · exact sendFrame s nack []
  · exact refl s

theorem pump (s : State) (fuel : Nat) : PortSends p s (s.pump p fuel) := by
  induction fuel generalizing s with
  | zero => exact refl s
  | succ fuel ih =>
    unfold State.pump
    dsimp only
    split_ifs
    · exact refl s
    · obtain ⟨h1, h2⟩ := lanes_takeMsgs (s.span p) 400 (s.frameRoom p)
      exact ((setSpan s h1 h2).trans (sendFrame _ false _)).trans (ih _)
    · exact refl s

end PortSends

/-- No message leaves by a port that does not work. -/
theorem span_sendOut (s : State) (die : Nat) (m : Msg) {p : Nat} (h : s.spanWorks p = false) :
    (s.sendOut die m).1.span p = s.span p := by
  unfold State.sendOut
  split
  · rfl
  next q _ =>
  dsimp only
  split
  · next hq =>
    have hne : p ≠ q := fun hp => Bool.false_ne_true (h.symm.trans (hp ▸ hq))
    rw [(PortSends.pump _ 64).other p hne, State.span_setSpan, if_neg hne]
  · rfl

theorem answers_sendOut {s0 : State} (s : State) (die : Nat) (m : Msg) (h : RegsBut answerTouches s0 s) :
    RegsBut answerTouches s0 (s.sendOut die m).1 := counts_sendOut (fun _ _ hn => hn) s die m h

theorem answers_deliverRsp {s0 : State} (s : State) (m : Msg) (h : RegsBut answerTouches s0 s) :
    RegsBut answerTouches s0 (s.deliverRsp m) := by
  unfold State.deliverRsp
  split
  · exact h.emit _
  next r _ =>
  split
  · unfold State.lateRsp
    dsimp only
    have h1 : RegsBut answerTouches s0 { s with reqs := s.reqs.filter fun (x : Req) => !(x.node = r.node && x.tag = r.tag) } :=
      h.of_regs rfl rfl
    generalize { s with reqs := s.reqs.filter fun (x : Req) => !(x.node = r.node && x.tag = r.tag) } = u at h1 ⊢
    have h2 := ((h1.countF (r := .fabDiscard ((nodeDie r.node).getD 8)) (by trivial) 0 32 1).setBit
      (r := .fabStat ((nodeDie r.node).getD 8)) (by trivial) 0).log 0x0042 2 ((nodeDie r.node).getD 8) r.node r.tenant 3 r.addr
    split
    · exact h2.raise _
    · exact h2
  · exact h.of_only (only_State_endRequest (Ps := [.reqs, .ic, .mbox, .lists]) s r _ (Only.refl s) (by decide))

/-- What an answer leaves: the registers out of its reach, and a port that does not work. -/
theorem answers_answerLost {s0 : State} (s : State) (die node : Nat) (m : Msg) (h : RegsBut answerTouches s0 s) :
    RegsBut answerTouches s0 (s.answerLost die node m) := by
  unfold State.answerLost State.respond
  split
  · exact answers_deliverRsp s _ h
  · exact answers_sendOut s _ _ h

theorem span_answerLost (s : State) (die node : Nat) (m : Msg) {p : Nat} (h : s.spanWorks p = false) :
    (s.answerLost die node m).span p = s.span p := by
  unfold State.answerLost State.respond
  split
  · exact congrFun (State.span_congr ((only_State_deliverRsp (Ps := [.out, .reqs, .ic, .flog0, .flog1, .mbox, .lists])
      (Ks := [.fabStat, .fabDiscard]) s _ (Only.refl s) (by decide) (by decide)).part .ports (by decide))) p
  · exact span_sendOut s _ _ h

/-- Answering every message of a port that is down. -/
theorem answersLost_down (s : State) (ask : List Msg) (die node : Nat) {p : Nat} (h : s.spanWorks p = false) :
    let t := ask.foldl (fun s m => s.answerLost die node m) s
    RegsBut answerTouches s t ∧ t.span p = s.span p := by
  refine foldl_keeps (fun t => RegsBut answerTouches s t ∧ t.span p = s.span p) _ ask s ⟨.refl s, rfl⟩ fun x m _ hx => ?_
  obtain ⟨hr, hs⟩ := hx
  exact ⟨answers_answerLost x die node m hr,
    (span_answerLost x die node m ((State.spanWorks_congr hr.reg_spnStat).trans h)).trans hs⟩

/-! ### Showing lanes and state -/

theorem span_of_only {s t : State} {Ps : List Piece} {Ks : List RegKind} (h : Only Ps Ks s t) (hp : Piece.ports ∉ Ps) (p : Nat) :
    t.span p = s.span p := congrFun (State.span_congr (h.part .ports hp)) p

theorem spnRxmap_ne_spnStat (p : Nat) : (Reg.spnRxmap p).off ≠ (Reg.spnStat p).off := by
  rw [Reg.spnRxmap_off, Reg.spnStat_off]; omega

theorem spnTxmap_ne_spnStat (p : Nat) : (Reg.spnTxmap p).off ≠ (Reg.spnStat p).off := by
  rw [Reg.spnTxmap_off, Reg.spnStat_off]; omega

/-- Both maps and the lane states are written. -/
def State.setMaps (s : State) (p : Nat) (rx tx lanes : DWord) : State :=
  ((s.setReg (.spnRxmap p) rx).setReg (.spnTxmap p) tx).setReg (.spnLanest p) lanes

theorem setMaps_rxmap (s : State) (p : Nat) (rx tx lanes : DWord) : (s.setMaps p rx tx lanes).reg (.spnRxmap p) = rx := by
  rw [State.setMaps, State.reg_setReg_ne _ _ _ _ (by rw [Reg.spnRxmap_off, Reg.spnLanest_off]; omega),
    State.reg_setReg_ne _ _ _ _ (by rw [Reg.spnRxmap_off, Reg.spnTxmap_off]; omega), State.reg_setReg_same]

theorem setMaps_txmap (s : State) (p : Nat) (rx tx lanes : DWord) : (s.setMaps p rx tx lanes).reg (.spnTxmap p) = tx := by
  rw [State.setMaps, State.reg_setReg_ne _ _ _ _ (by rw [Reg.spnTxmap_off, Reg.spnLanest_off]; omega), State.reg_setReg_same]

theorem setMaps_spnStat (s : State) (p : Nat) (rx tx lanes : DWord) : (s.setMaps p rx tx lanes).reg (.spnStat p) = s.reg (.spnStat p) := by
  rw [State.setMaps, State.reg_setReg_ne _ _ _ _ (by rw [Reg.spnStat_off, Reg.spnLanest_off]; omega),
    State.reg_setReg_ne _ _ _ _ (spnTxmap_ne_spnStat p).symm, State.reg_setReg_ne _ _ _ _ (spnRxmap_ne_spnStat p).symm]

section
variable {s0 s : State} {p : Nat}

theorem RegsBut.setMaps {A : Reg → Prop} (h : RegsBut A s0 s) (hA : ∀ r, lanesShown p r → A r) (rx tx lanes : DWord) :
    RegsBut A s0 (s.setMaps p rx tx lanes) :=
  ((h.setReg (hA _ (.inl rfl)) rx).setReg (hA _ (.inr (.inl rfl))) tx).setReg (hA _ (.inr (.inr (.inl rfl)))) lanes

theorem RegsBut.setStat {A : Reg → Prop} (h : RegsBut A s0 s) (hA : ∀ r, lanesShown p r → A r) (lo w x : Nat) :
    RegsBut A s0 (s.setF (.spnStat p) lo w x) := h.setF (hA _ (.inr (.inr (.inr rfl)))) lo w x

end

/-- What showing a port's maps and state leaves and establishes. -/
structure Shows (p rx tx : Nat) (s t : State) : Prop where
  only : Only [] [.spnStat, .spnRxmap, .spnTxmap, .spnLanest] s t
  regs : RegsBut (lanesShown p) s t
  rxmap : t.reg (.spnRxmap p) = BitVec.ofNat 64 rx
  txmap : t.reg (.spnTxmap p) = BitVec.ofNat 64 tx

namespace Shows

variable {p rx tx : Nat} {s t u : State}

/-- A write of SPN_STAT after the maps. -/
theorem setStat (h : Shows p rx tx s t) (lo w x : Nat) : Shows p rx tx s (t.setF (.spnStat p) lo w x) where
  only := only_State_setF t _ lo w x h.only (List.elem_iff.mp rfl)
  regs := h.regs.setStat (fun _ hr => hr) lo w x
  rxmap := by rw [State.setF, State.reg_setReg_ne _ _ _ _ (spnRxmap_ne_spnStat p), h.rxmap]
  txmap := by rw [State.setF, State.reg_setReg_ne _ _ _ _ (spnTxmap_ne_spnStat p), h.txmap]

theorem span (h : Shows p rx tx s t) (q : Nat) : t.span q = s.span q := span_of_only h.only (by decide) q

end Shows

theorem only_setMaps (s : State) (p : Nat) (rx tx lanes : DWord) :
    Only [] [.spnStat, .spnRxmap, .spnTxmap, .spnLanest] s (s.setMaps p rx tx lanes) :=
  only_State_setReg _ _ _ (List.elem_iff.mp rfl) (only_State_setReg _ _ _ (List.elem_iff.mp rfl) (only_State_setReg _ _ _
    (List.elem_iff.mp rfl) (Only.refl s)))

theorem shows_setMaps (s : State) (p rx tx : Nat) (lanes : DWord) :
    Shows p rx tx s (s.setMaps p (BitVec.ofNat 64 rx) (BitVec.ofNat 64 tx) lanes) :=
  ⟨only_setMaps s p _ _ lanes, (RegsBut.refl s).setMaps (fun _ hr => hr) _ _ _, setMaps_rxmap s p _ _ _, setMaps_txmap s p _ _ _⟩

theorem showLanes_shows (s : State) (p rx tx : Nat) : Shows p rx tx s (s.showLanes p rx tx) :=
  ((((shows_setMaps s p rx tx _).setStat 17 1 _).setStat 16 1 _).setStat 15 1 _).setStat 14 1 _

/-- Fields of SPN_STAT that a lane map does not show. -/
theorem regF_showLanes (s : State) (p rx tx lo w : Nat) (h : lo + w ≤ 14 ∨ 18 ≤ lo) :
    (s.showLanes p rx tx).regF (.spnStat p) lo w = s.regF (.spnStat p) lo w := by
  have hmaps : ∀ lanes, (s.setMaps p (BitVec.ofNat 64 rx) (BitVec.ofNat 64 tx) lanes).regF (.spnStat p) lo w = s.regF (.spnStat p) lo w :=
    fun lanes => State.regF_congr (setMaps_spnStat s p _ _ lanes) lo w
  unfold State.showLanes
  dsimp only
  rw [State.regF_setF_apart _ _ _ _ _ _ _ (by decide) (by omega), State.regF_setF_apart _ _ _ _ _ _ _ (by decide) (by omega),
    State.regF_setF_apart _ _ _ _ _ _ _ (by decide) (by omega), State.regF_setF_apart _ _ _ _ _ _ _ (by decide) (by omega)]
  exact hmaps _

theorem blankPort_shows (s : State) (p state lane : Nat) : Shows p noMap noMap s (s.blankPort p state lane) :=
  ((shows_setMaps s p noMap noMap _).setStat 14 4 0).setStat 29 3 state

theorem spanState_blankPort (s : State) (p state lane : Nat) : (s.blankPort p state lane).spanState p = state % 8 :=
  State.regF_setF_same _ _ 29 3 state (by decide)

theorem regF_blankPort (s : State) (p state lane lo w : Nat) (h : lo + w ≤ 14 ∨ 18 ≤ lo ∧ lo + w ≤ 29) :
    (s.blankPort p state lane).regF (.spnStat p) lo w = s.regF (.spnStat p) lo w := by
  have hmaps : ∀ lanes, (s.setMaps p (BitVec.ofNat 64 noMap) (BitVec.ofNat 64 noMap) lanes).regF (.spnStat p) lo w =
      s.regF (.spnStat p) lo w := fun lanes => State.regF_congr (setMaps_spnStat s p _ _ lanes) lo w
  unfold State.blankPort
  dsimp only
  rw [State.regF_setF_apart _ _ _ _ _ _ _ (by decide) (by omega), State.regF_setF_apart _ _ _ _ _ _ _ (by decide) (by omega)]
  exact hmaps _

/-- SPN_STAT shows whether either direction holds, and its other fields stay. -/
theorem showHold_shows {s t : State} {p rx tx : Nat} (h : Shows p rx tx s t) : Shows p rx tx s (t.showHold p) := h.setStat 29 3 _

theorem spanState_showHold (s : State) (p : Nat) :
    (s.showHold p).spanState p = if (s.span p).rxHold.isSome || (s.span p).txHold.isSome then 3 else 2 := by
  have h := State.regF_setF_same s (.spnStat p) 29 3 (if (s.span p).rxHold.isSome || (s.span p).txHold.isSome then 3 else 2) (by decide)
  refine h.trans ?_
  split <;> rfl

theorem spanWorks_of_state {s : State} {p : Nat} (h : s.spanState p = 2 ∨ s.spanState p = 3) : s.spanWorks p = true := by
  rw [State.spanWorks]
  simpa using h

/-! ### Going down -/

/-- A port goes down: it carries nothing and shows the cause. -/
def State.downed (s : State) (p cause : Nat) : State := ((s.setSpan p {}).blankPort p 4 0).setF (.spnStat p) 11 3 cause

/-- The state of a port that is down. -/
structure IsDown (p cause : Nat) (s : State) : Prop where
  state : s.spanState p = 4
  cause : s.regF (.spnStat p) 11 3 = cause
  span : s.span p = {}

theorem IsDown.idle {p cause : Nat} {s : State} (h : IsDown p cause s) : s.spanWorks p = false := by
  rw [State.spanWorks, h.state]
  rfl

theorem IsDown.congr {p cause : Nat} {s t : State} (h : IsDown p cause s) (hr : t.reg (.spnStat p) = s.reg (.spnStat p))
    (hs : t.span p = s.span p) : IsDown p cause t :=
  ⟨(State.spanState_congr hr).trans h.state, (State.regF_congr hr 11 3).trans h.cause, hs.trans h.span⟩

section
variable (s : State) (p cause : Nat)

theorem shows_downed : Shows p noMap noMap (s.setSpan p {}) (s.downed p cause) := (blankPort_shows (s.setSpan p {}) p 4 0).setStat 11 3 cause

theorem isDown_downed (hc : cause < 8) : IsDown p cause (s.downed p cause) where
  state := by
    have h := State.regF_setF_apart ((s.setSpan p {}).blankPort p 4 0) (.spnStat p) 11 3 cause 29 3 (by decide) (by decide)
    exact h.trans (spanState_blankPort (s.setSpan p {}) p 4 0)
  cause := by
    have h := State.regF_setF_same ((s.setSpan p {}).blankPort p 4 0) (.spnStat p) 11 3 cause (by decide)
    exact h.trans (Nat.mod_eq_of_lt hc)
  span := by
    rw [(shows_downed s p cause).span, State.span_setSpan, if_pos rfl]

theorem span_downed_ne {q : Nat} (h : q ≠ p) : (s.downed p cause).span q = s.span q := by
  rw [(shows_downed s p cause).span, State.span_setSpan, if_neg h]

/-- Fields of SPN_STAT that going down leaves. -/
theorem regF_downed (lo w : Nat) (h : lo + w ≤ 11 ∨ 18 ≤ lo ∧ lo + w ≤ 29) :
    (s.downed p cause).regF (.spnStat p) lo w = s.regF (.spnStat p) lo w := by
  have h1 := State.regF_setF_apart ((s.setSpan p {}).blankPort p 4 0) (.spnStat p) 11 3 cause lo w (by decide) (by omega)
  exact h1.trans (regF_blankPort (s.setSpan p {}) p 4 0 lo w (by omega))

theorem only_downed : Only [.ports] [.spnStat, .spnRxmap, .spnTxmap, .spnLanest] s (s.downed p cause) :=
  (only_State_setSpan s p {} (Only.refl s) (by decide)).trans ((shows_downed s p cause).only.mono (by decide) (by decide))

end

/-- What PORT_DOWN leaves of the state, and how the port stands. -/
structure Downed (p cause : Nat) (s t : State) : Prop where
  down : IsDown p cause t
  regs : RegsBut (downTouches p) s t
  dirty : t.fpDirty = true
  lost : nbit t.spanLost p = true

theorem regF_setBit_zero (s : State) (r : Reg) (lo w : Nat) (h : 1 ≤ lo) : (s.setBit r 0).regF r lo w = s.regF r lo w :=
  State.regF_setF_apart s r 0 1 1 lo w (by decide) (by omega)

/-- A port that is down counts what it discarded and shows an error. -/
def State.discarded (s : State) (p n : Nat) : State :=
  let s2 := s.countF (.spnDiscard p) 0 32 n
  if n = 0 then s2 else s2.setBit (.spnStat p) 0

theorem isDown_discarded {s : State} {p cause : Nat} (n : Nat) (h : IsDown p cause s) : IsDown p cause (s.discarded p n) := by
  have hcount : IsDown p cause (s.countF (.spnDiscard p) 0 32 n) := by
    refine h.congr ?_ (span_of_only (only_State_countF (Ps := []) (Ks := [.spnDiscard]) s _ _ _ _ (Only.refl s)
      (List.elem_iff.mp rfl)) (by decide) p)
    rw [State.countF, State.setF, State.reg_setReg_ne _ _ _ _ (by rw [Reg.spnStat_off, Reg.spnDiscard_off]; omega)]
  unfold State.discarded
  generalize s.countF (.spnDiscard p) 0 32 n = u at hcount ⊢
  dsimp only
  split
  · exact hcount
  · exact ⟨(regF_setBit_zero u _ 29 3 (by decide)).trans hcount.state, (regF_setBit_zero u _ 11 3 (by decide)).trans hcount.cause,
      (span_of_only (only_State_setBit (Ps := []) (Ks := [.spnStat]) u _ _ (Only.refl u) (List.elem_iff.mp rfl)) (by decide) p).trans
        hcount.span⟩

theorem regs_discarded {s0 s : State} {p : Nat} (n : Nat) (h : RegsBut (downTouches p) s0 s) :
    RegsBut (downTouches p) s0 (s.discarded p n) := by
  unfold State.discarded
  dsimp only
  have h1 := h.countF (r := .spnDiscard p) (.inr (.inr rfl)) 0 32 n
  split
  · exact h1
  · exact h1.setBit (.inr (.inl (.inr (.inr (.inr rfl))))) 0

theorem portDown_eq (s : State) (p cause : Nat) :
    let x := s.span p
    let gone := x.all.filter fun m => m.posted || m.isRsp
    let s5 := (x.all.filter fun m => m.nonPosted).foldl (fun s m => s.answerLost (8 + p / 6) (0x70 + p / 6) m)
      ((((s.downed p cause).discarded p gone.length).logDown p cause gone).raise (srcPort p))
    s.portDown p cause = { s5 with fpDirty := true, spanLost := Nat.lor s5.spanLost (2 ^ p) } := by
  have h : ∀ (u : State) (g : List Msg), (if g.isEmpty then u.countF (.spnDiscard p) 0 32 g.length
      else (u.countF (.spnDiscard p) 0 32 g.length).setBit (.spnStat p) 0) = u.discarded p g.length := fun u g => by
    cases g <;> rfl
  intro x gone s5
  unfold State.portDown
  dsimp only
  rw [show ((s.setSpan p {}).blankPort p 4 0).setF (.spnStat p) 11 3 cause = s.downed p cause from rfl, h]

theorem downed_portDown (s : State) (p cause : Nat) (hc : cause < 8) : Downed p cause s (s.portDown p cause) := by
  rw [portDown_eq]
  have h1 : RegsBut (downTouches p) s (s.downed p cause) :=
    (RegsBut.of_regs (.refl s) rfl rfl : RegsBut (downTouches p) s (s.setSpan p {})).trans
      ((shows_downed s p cause).regs.mono fun _ hr => .inr (.inl hr))
  have h2 := isDown_discarded ((s.span p).all.filter fun m => m.posted || m.isRsp).length (isDown_downed s p cause hc)
  have h3 := regs_discarded ((s.span p).all.filter fun m => m.posted || m.isRsp).length h1
  generalize (s.downed p cause).discarded p ((s.span p).all.filter fun m => m.posted || m.isRsp).length = u at h2 h3 ⊢
  have hlog : Only [.flog0, .flog1, .ic] [] u ((u.logDown p cause ((s.span p).all.filter fun m => m.posted || m.isRsp)).raise (srcPort p)) :=
    ((only_State_logDown (Ps := [.flog0, .flog1]) (Ks := []) u p cause _ (Only.refl u) (by decide)).mono (by decide) (by decide)).trans
      ((only_raise _ _).mono (by decide) (by decide))
  have h4 := h2.congr (hlog.reg_eq _) (span_of_only hlog (by decide) p)
  have h5 := h3.of_only hlog
  generalize (u.logDown p cause ((s.span p).all.filter fun m => m.posted || m.isRsp)).raise (srcPort p) = v at h4 h5 ⊢
  obtain ⟨h6, h7⟩ := answersLost_down v ((s.span p).all.filter fun m => m.nonPosted) (8 + p / 6) (0x70 + p / 6) h4.idle
  generalize ((s.span p).all.filter fun m => m.nonPosted).foldl (fun s m => s.answerLost (8 + p / 6) (0x70 + p / 6) m) v = w at h6 h7 ⊢
  have h8 := h4.congr h6.reg_spnStat h7
  refine ⟨h8.congr (congrFun (State.reg_congr rfl rfl) _) (congrFun (State.span_congr rfl) _), (h5.trans (h6.mono fun _ hr => .inl hr)).of_regs rfl rfl, rfl, ?_⟩
  rw [nbit_lor, nbit_two_pow, decide_eq_true rfl, Bool.or_true]

end Sys2Proof.Machine
end

section
/-! Span ports: retraining, SPN_CTL.enable and the routes that a port leaves (R245, R248, R250). -/

namespace Sys2Proof.Machine

/-! ### Retraining -/

/-- A port starts training. -/
def State.training (s : State) (p : Nat) : State := (s.setSpan p { trainingSince := some s.now }).blankPort p 1 1

/-- A port that works goes down before it retrains. -/
def State.stoodDown (s : State) (p : Nat) : State := if s.spanWorks p then (s.portDown p (s.freeNat 3)).bumpFree else s

theorem retrain_eq (s : State) (p : Nat) : s.retrain p =
    if portPresent s.fuses p && (s.stoodDown p).regBit (.spnCtl p) 29 then
      ((s.stoodDown p).setSpan p { trainingSince := some s.now }).blankPort p 1 1
    else s.stoodDown p := rfl

section
variable {s : State} {p : Nat}

theorem freeNat_lt (s : State) (w : Nat) : s.freeNat w < 2 ^ w := (Config.freeBits w s.freeCtr).isLt

/-- A port that worked is down, with a free cause. -/
theorem stoodDown_works (h : s.spanWorks p = true) : ∃ cause, Downed p cause s (s.stoodDown p) := by
  rw [State.stoodDown, if_pos h]
  obtain ⟨hd, hr, hf, hl⟩ := downed_portDown s p (s.freeNat 3) (freeNat_lt s 3)
  generalize s.portDown p (s.freeNat 3) = u at hd hr hf hl
  exact ⟨_, hd.congr (congrFun (State.reg_congr rfl rfl) _) (congrFun (State.span_congr rfl) _), hr.of_regs rfl rfl, hf, hl⟩

theorem stoodDown_rests (h : s.spanWorks p = false) : s.stoodDown p = s := by
  rw [State.stoodDown, h]
  exact if_neg Bool.false_ne_true

theorem reg_spnCtl_stoodDown (s : State) (p : Nat) : (s.stoodDown p).reg (.spnCtl p) = s.reg (.spnCtl p) := by
  cases h : s.spanWorks p with
  | false => rw [stoodDown_rests h]
  | true =>
    obtain ⟨_, hd⟩ := stoodDown_works h
    exact hd.regs.reg_spnCtl

theorem regBit_spnCtl_stoodDown (s : State) (p b : Nat) : (s.stoodDown p).regBit (.spnCtl p) b = s.regBit (.spnCtl p) b :=
  State.regBit_congr (reg_spnCtl_stoodDown s p) b

/-- How a port that starts training stands. -/
structure InTraining (p since : Nat) (t : State) : Prop where
  state : t.spanState p = 1
  span : t.span p = { trainingSince := some since }
  rxmap : t.reg (.spnRxmap p) = 0xFFFFFFFF
  txmap : t.reg (.spnTxmap p) = 0xFFFFFFFF

theorem trains_blankPort (s : State) (p since : Nat) :
    InTraining p since ((s.setSpan p { trainingSince := some since }).blankPort p 1 1) := by
  have h := blankPort_shows (s.setSpan p { trainingSince := some since }) p 1 1
  refine ⟨spanState_blankPort _ p 1 1, ?_, h.rxmap, h.txmap⟩
  rw [h.span, State.span_setSpan, if_pos rfl]

theorem only_train (s : State) (p since : Nat) : Only [.ports] [.spnStat, .spnRxmap, .spnTxmap, .spnLanest] s
    ((s.setSpan p { trainingSince := some since }).blankPort p 1 1) :=
  (only_State_setSpan s p _ (Only.refl s) (by decide)).trans ((blankPort_shows _ p 1 1).only.mono (by decide) (by decide))

theorem retrain_enabled (hp : portPresent s.fuses p = true) (he : s.regBit (.spnCtl p) 29 = true) :
    s.retrain p = ((s.stoodDown p).setSpan p { trainingSince := some s.now }).blankPort p 1 1 := by
  rw [retrain_eq, hp, regBit_spnCtl_stoodDown, he]
  rfl

theorem retrain_disabled (he : s.regBit (.spnCtl p) 29 = false) : s.retrain p = s.stoodDown p := by
  rw [retrain_eq, regBit_spnCtl_stoodDown, he, Bool.and_false]
  rfl

/-- The loss of a port that worked is remembered through a retrain. -/
theorem retrain_lost (s : State) (h : s.spanWorks p = true) : nbit (s.retrain p).spanLost p = true ∧ (s.retrain p).fpDirty = true := by
  obtain ⟨_, hd⟩ := stoodDown_works h
  have hk := only_train (s.stoodDown p) p s.now
  rw [retrain_eq]
  generalize ((s.stoodDown p).setSpan p { trainingSince := some s.now }).blankPort p 1 1 = v at hk ⊢
  generalize s.stoodDown p = u at hd hk ⊢
  split
  · rw [hk.part .spanLost (by decide), hk.part .fpDirty (by decide)]
    exact ⟨hd.lost, hd.dirty⟩
  · exact ⟨hd.lost, hd.dirty⟩

theorem retrain_rests (h : s.spanWorks p = false) :
    Only [.ports] [.spnStat, .spnRxmap, .spnTxmap, .spnLanest] s (s.retrain p) := by
  have hk := only_train s p s.now
  rw [retrain_eq, stoodDown_rests h]
  split
  · exact hk
  · exact Only.refl s

end

theorem retrains (port : Fin 24) (s : State) (hp : portPresent s.fuses port.val = true) :
    let p := port.val
    ∃ t, exec (.retrain port) s = .next t ∧
      Only [.out, .freeCtr, .fpDirty, .ports, .reqs, .spanLost, .ic, .flog0, .flog1, .mbox, .lists]
        [.fabStat, .fabDiscard, .spnStat, .spnRxmap, .spnTxmap, .spnLanest, .spnDiscard, .ctrVal] s t ∧
      (s.regBit (.spnCtl p) 29 = true → t.spanState p = 1 ∧ t.span p = { trainingSince := some s.now } ∧
        t.reg (.spnRxmap p) = 0xFFFFFFFF ∧ t.reg (.spnTxmap p) = 0xFFFFFFFF) ∧
      (s.regBit (.spnCtl p) 29 = false → s.spanWorks p = true → t.spanState p = 4 ∧ t.span p = {}) ∧
      (s.spanWorks p = true → nbit t.spanLost p = true ∧ t.fpDirty = true) ∧
      (s.spanWorks p = false → Only [.ports] [.spnStat, .spnRxmap, .spnTxmap, .spnLanest] s t) := by
  intro p
  have he : exec (.retrain port) s = .next (s.retrain p) := by
    have h : exec (.retrain port) s = .next (if portPresent s.fuses port.val then s.retrain port.val else s) := rfl
    rw [h, if_pos hp]
  refine ⟨_, he, Only.ofExec (only_execRetrain port s) he, fun hen => ?_, fun hen hw => ?_, retrain_lost s, retrain_rests⟩
  · rw [retrain_enabled hp hen]
    obtain ⟨h1, h2, h3, h4⟩ := trains_blankPort (s.stoodDown p) p s.now
    exact ⟨h1, h2, h3, h4⟩
  · rw [retrain_disabled hen]
    obtain ⟨_, hd⟩ := stoodDown_works hw
    exact ⟨hd.down.state, hd.down.span⟩

/-! ### A write of SPN_CTL (R250) -/

theorem getF_bit (v : DWord) (b : Nat) : getF v b 1 = if v.toNat.testBit b then 1 else 0 := by
  rw [getF, Nat.testBit_eq_decide_div_mod_eq]
  have := Nat.mod_two_eq_zero_or_one (v.toNat / 2 ^ b)
  rcases this with h | h <;> simp [h]

/-- A field of the value that a register keeps: of the written word where its mask has every bit. -/
theorem getF_masked (old w : DWord) (m lo k : Nat) (hm : ∀ i, i < k → (BitVec.ofNat 64 m).toNat.testBit (lo + i) = true) :
    getF ((old &&& ~~~(BitVec.ofNat 64 m)) ||| (w &&& BitVec.ofNat 64 m)) lo k = getF w lo k := by
  refine Nat.eq_of_testBit_eq fun i => ?_
  rw [getF, getF, Nat.testBit_mod_two_pow, Nat.testBit_mod_two_pow, Nat.testBit_div_two_pow, Nat.testBit_div_two_pow]
  by_cases hi : i < k
  · have hbit := hm i hi
    rw [Nat.add_comm i lo, BitVec.testBit_toNat, BitVec.testBit_toNat] at *
    rw [BitVec.getLsbD_or, BitVec.getLsbD_and, BitVec.getLsbD_and, BitVec.getLsbD_not, hbit]
    simp
  · simp [hi]

/-- What the register keeps of a written word before its rate is checked. -/
def ctlKept (old w : DWord) : DWord := (old &&& ~~~(BitVec.ofNat 64 0x6000000F)) ||| (w &&& BitVec.ofNat 64 0x6000000F)

theorem written_spnCtl (f : Fuses) (p : Nat) (old w : DWord) : (Reg.spnCtl p).written f old w =
    if 3 ≤ getF w 0 4 ∧ getF w 0 4 ≤ 12 then ctlKept old w else putF (ctlKept old w) 0 4 (getF old 0 4) := by
  have hclear : ∀ v : DWord, v &&& ~~~(w &&& BitVec.ofNat 64 0) = v := fun v => by
    rw [BitVec.and_zero, BitVec.not_zero, BitVec.and_allOnes]
  have h : (Reg.spnCtl p).written f old w =
      if (3 ≤ getF w 0 4 && getF w 0 4 ≤ 12) then ctlKept old w &&& ~~~(w &&& BitVec.ofNat 64 0)
      else putF (ctlKept old w &&& ~~~(w &&& BitVec.ofNat 64 0)) 0 4 (getF old 0 4) := rfl
  rw [h, hclear]
  simp only [Bool.and_eq_true, decide_eq_true_eq]

theorem ctlKept_bit (old w : DWord) {b : Nat} (hb : b = 29 ∨ b = 30) : getF (ctlKept old w) b 1 = getF w b 1 := by
  refine getF_masked old w _ b 1 fun i hi => ?_
  obtain rfl : i = 0 := by omega
  obtain rfl | rfl := hb <;> decide

theorem ctlKept_rate (old w : DWord) : getF (ctlKept old w) 0 4 = getF w 0 4 := by
  refine getF_masked old w _ 0 4 fun i hi => ?_
  have : i = 0 ∨ i = 1 ∨ i = 2 ∨ i = 3 := by omega
  obtain rfl | rfl | rfl | rfl := this <;> decide

theorem written_spnCtl_bit (f : Fuses) (p : Nat) (old w : DWord) {b : Nat} (hb : b = 29 ∨ b = 30) :
    getF ((Reg.spnCtl p).written f old w) b 1 = getF w b 1 := by
  rw [written_spnCtl]
  split
  · exact ctlKept_bit old w hb
  · rw [getF_putF_apart _ _ _ _ _ _ (by decide) (by omega), ctlKept_bit old w hb]

theorem written_spnCtl_rate (f : Fuses) (p : Nat) (old w : DWord) : getF ((Reg.spnCtl p).written f old w) 0 4 =
    if 3 ≤ getF w 0 4 ∧ getF w 0 4 ≤ 12 then getF w 0 4 else getF old 0 4 := by
  rw [written_spnCtl]
  split
  · exact ctlKept_rate old w
  · rw [getF_putF_same _ _ _ _ (by decide), Nat.mod_eq_of_lt (getF_lt old 0 4)]

/-- The state in which SPN_CTL has taken a word. -/
def State.ctlWritten (s : State) (p v : Nat) : State := s.plainWrite (.spnCtl p) (BitVec.ofNat 64 v)

section
variable (s : State) (p v : Nat)

theorem only_ctlWritten : Only [] [.spnCtl] s (s.ctlWritten p v) := only_State_setReg s _ _ (List.elem_iff.mp rfl) (Only.refl s)

theorem reg_ctlWritten : (s.ctlWritten p v).reg (.spnCtl p) =
    (Reg.spnCtl p).written s.fuses (s.reg (.spnCtl p)) (BitVec.ofNat 64 v) := State.reg_setReg_same s _ _

theorem regBit_ctlWritten {b : Nat} (hb : b = 29 ∨ b = 30) : (s.ctlWritten p v).regBit (.spnCtl p) b = nbit v b := by
  have hw : getF (BitVec.ofNat 64 v) b 1 = v / 2 ^ b % 2 := by
    have h := getF_bit (BitVec.ofNat 64 v) b
    rw [h, BitVec.toNat_ofNat, Nat.testBit_mod_two_pow, decide_eq_true (by omega : b < 64), Bool.true_and,
      Nat.testBit_eq_decide_div_mod_eq]
    have := Nat.mod_two_eq_zero_or_one (v / 2 ^ b)
    rcases this with h | h <;> simp [h]
  rw [State.regBit, State.regF, reg_ctlWritten, written_spnCtl_bit _ _ _ _ hb, hw]
  rfl

theorem regF_ctlWritten : (s.ctlWritten p v).regF (.spnCtl p) 0 4 =
    if 3 ≤ v % 16 ∧ v % 16 ≤ 12 then v % 16 else s.regF (.spnCtl p) 0 4 := by
  have hw : getF (BitVec.ofNat 64 v) 0 4 = v % 16 := by
    rw [getF, BitVec.toNat_ofNat]
    omega
  rw [State.regF, reg_ctlWritten, written_spnCtl_rate, hw]
  rfl

/-- With enable cleared the port is held down. -/
def State.heldDown (s : State) (p : Nat) : State := if s.spanWorks p then s.portDown p dcDisabled else s.downed p dcDisabled

/-- The enable bit of the written word has acted. -/
def State.enableTaken (s : State) (p v : Nat) : State :=
  if s.regBit (.spnCtl p) 29 && !nbit v 29 then (s.ctlWritten p v).heldDown p else s.ctlWritten p v

theorem spnCtlWrite_eq : spnCtlWrite p v s = if nbit v 31 then (s.enableTaken p v).retrain p else s.enableTaken p v := by
  rw [State.enableTaken, ← regBit_ctlWritten s p v (.inl rfl)]
  rfl

theorem enableTaken_disables (h1 : s.regBit (.spnCtl p) 29 = true) (h2 : nbit v 29 = false) :
    s.enableTaken p v = (s.ctlWritten p v).heldDown p := by
  rw [State.enableTaken, if_pos (by rw [h1, h2]; rfl)]

theorem enableTaken_enabled (h : nbit v 29 = true) : s.enableTaken p v = s.ctlWritten p v := by
  rw [State.enableTaken, if_neg (by rw [h, Bool.not_true, Bool.and_false]; exact Bool.false_ne_true)]

end

section
variable {s : State} {p : Nat}

theorem heldDown_down (s : State) (p : Nat) : IsDown p dcDisabled (s.heldDown p) ∧ RegsBut (downTouches p) s (s.heldDown p) := by
  unfold State.heldDown
  split
  · have h := downed_portDown s p dcDisabled (by decide)
    exact ⟨h.down, h.regs⟩
  · exact ⟨isDown_downed s p dcDisabled (by decide), (RegsBut.of_regs (.refl s) rfl rfl : RegsBut (downTouches p) s (s.setSpan p {})).trans
      ((shows_downed s p dcDisabled).regs.mono fun _ hr => .inr (.inl hr))⟩

/-- A register of the port's control stays through the retrain. -/
theorem reg_spnCtl_retrain (s : State) (p : Nat) : (s.retrain p).reg (.spnCtl p) = s.reg (.spnCtl p) := by
  rw [retrain_eq]
  have h1 := reg_spnCtl_stoodDown s p
  generalize s.stoodDown p = u at h1 ⊢
  split
  · have h2 : RegsBut (downTouches p) u ((u.setSpan p { trainingSince := some s.now }).blankPort p 1 1) :=
      (RegsBut.of_regs (.refl u) rfl rfl : RegsBut (downTouches p) u (u.setSpan p { trainingSince := some s.now })).trans
        ((blankPort_shows _ p 1 1).regs.mono fun _ hr => .inr (.inl hr))
    exact h2.reg_spnCtl.trans h1
  · exact h1

theorem reg_spnCtl_spnCtlWrite (s : State) (p v : Nat) : (spnCtlWrite p v s).reg (.spnCtl p) = (s.ctlWritten p v).reg (.spnCtl p) := by
  rw [spnCtlWrite_eq]
  have h1 : (s.enableTaken p v).reg (.spnCtl p) = (s.ctlWritten p v).reg (.spnCtl p) := by
    unfold State.enableTaken
    split
    · exact (heldDown_down _ p).2.reg_spnCtl
    · rfl
  generalize s.enableTaken p v = u at h1 ⊢
  split
  · exact (reg_spnCtl_retrain u p).trans h1
  · exact h1

/-- Clearing enable holds the port down, whether or not a retrain was asked for. -/
theorem spnCtlWrite_disables {v : Nat} (h1 : s.regBit (.spnCtl p) 29 = true) (h2 : nbit v 29 = false) :
    spnCtlWrite p v s = (s.ctlWritten p v).heldDown p := by
  obtain ⟨hd, hr⟩ := heldDown_down (s.ctlWritten p v) p
  have hen : ((s.ctlWritten p v).heldDown p).regBit (.spnCtl p) 29 = false := by
    rw [State.regBit_congr hr.reg_spnCtl, regBit_ctlWritten s p v (.inl rfl), h2]
  have hsame : ((s.ctlWritten p v).heldDown p).retrain p = (s.ctlWritten p v).heldDown p := by
    rw [retrain_disabled hen, stoodDown_rests hd.idle]
  rw [spnCtlWrite_eq, enableTaken_disables s p v h1 h2, hsame, ite_self]

theorem spnCtlWrite_enabled {v : Nat} (h : nbit v 29 = true) :
    spnCtlWrite p v s = if nbit v 31 then (s.ctlWritten p v).retrain p else s.ctlWritten p v := by
  rw [spnCtlWrite_eq, enableTaken_enabled s p v h]

end

theorem spnCtl_written (port : Fin 24) (value : Word) (s : State) (hp : portPresent s.fuses port.val = true) :
    let p := port.val
    ∃ t, exec (.spnCtlEnable port value) s = .next t ∧
      Only [.out, .freeCtr, .fpDirty, .ports, .reqs, .spanLost, .ic, .flog0, .flog1, .mbox, .lists]
        [.fabStat, .fabDiscard, .spnCtl, .spnStat, .spnRxmap, .spnTxmap, .spnLanest, .spnDiscard, .ctrVal] s t ∧
      t.regBit (.spnCtl p) 29 = nbit value.toNat 29 ∧ t.regBit (.spnCtl p) 30 = nbit value.toNat 30 ∧
      t.regF (.spnCtl p) 0 4 = (if 3 ≤ value.toNat % 16 ∧ value.toNat % 16 ≤ 12 then value.toNat % 16
        else s.regF (.spnCtl p) 0 4) ∧
      (s.regBit (.spnCtl p) 29 = true → nbit value.toNat 29 = false →
        t.spanState p = 4 ∧ t.regF (.spnStat p) 11 3 = 7 ∧ t.span p = {}) ∧
      (nbit value.toNat 29 = true → nbit value.toNat 31 = true → t.spanState p = 1 ∧
        t.span p = { trainingSince := some s.now }) ∧
      (nbit value.toNat 29 = true → nbit value.toNat 31 = false → Only [] [.spnCtl] s t) := by
  intro p
  have he : exec (.spnCtlEnable port value) s = .next (spnCtlWrite p value.toNat s) := by
    have h : exec (.spnCtlEnable port value) s =
        .next (if portPresent s.fuses port.val then spnCtlWrite port.val value.toNat s else s) := rfl
    rw [h, if_pos hp]
  have hreg := reg_spnCtl_spnCtlWrite s p value.toNat
  refine ⟨_, he, Only.ofExec (only_execSpnCtlEnable port value s) he, ?_, ?_, ?_, fun h1 h2 => ?_, fun h1 h2 => ?_, fun h1 h2 => ?_⟩
  · rw [State.regBit_congr hreg, regBit_ctlWritten _ _ _ (.inl rfl)]
  · rw [State.regBit_congr hreg, regBit_ctlWritten _ _ _ (.inr rfl)]
  · rw [State.regF_congr hreg, regF_ctlWritten]
  · rw [spnCtlWrite_disables h1 h2]
    obtain ⟨hd, -⟩ := heldDown_down (s.ctlWritten p value.toNat) p
    exact ⟨hd.state, hd.cause, hd.span⟩
  · have hw := only_ctlWritten s p value.toNat
    have hen := (regBit_ctlWritten s p value.toNat (.inl rfl)).trans h1
    rw [spnCtlWrite_enabled h1, if_pos h2]
    generalize s.ctlWritten p value.toNat = u at hw hen ⊢
    rw [retrain_enabled (hw.make.symm ▸ hp) hen, hw.part .now (by decide)]
    obtain ⟨k1, k2, -, -⟩ := trains_blankPort (u.stoodDown p) p s.now
    exact ⟨k1, k2⟩
  · rw [spnCtlWrite_enabled h1, h2]
    exact only_ctlWritten s p value.toNat

/-! ### Leaving the routes (R245, R248) -/

theorem Reg.spnPrt_off (d n : Nat) : (Reg.spnPrt d n).off = blk d + 0x202000 + n * 4 := rfl

theorem spnPrt_off_ne {d e n m : Nat} (hn : n < 64) (hm : m < 64) (h : d ≠ e ∨ n ≠ m) : (Reg.spnPrt d n).off ≠ (Reg.spnPrt e m).off := by
  rw [Reg.spnPrt_off, Reg.spnPrt_off, blk, blk]
  omega

/-- The port leaves one route entry. -/
def State.leaveRoute (s : State) (p d n : Nat) : State := if s.regBit (.spnPrt d n) p then s.clrBit (.spnPrt d n) p else s

theorem reg_leaveRoute_ne (s : State) (p : Nat) {d e n m : Nat} (hn : n < 64) (hm : m < 64) (h : d ≠ e ∨ n ≠ m) :
    (s.leaveRoute p e m).reg (.spnPrt d n) = s.reg (.spnPrt d n) := by
  unfold State.leaveRoute
  split
  · exact State.reg_setReg_ne _ _ _ _ (spnPrt_off_ne hn hm h)
  · rfl

theorem regBit_leaveRoute (s : State) (p d n b : Nat) (hp : p < 64) (hb : b < 64) :
    (s.leaveRoute p d n).regBit (.spnPrt d n) b = (decide (b ≠ p) && s.regBit (.spnPrt d n) b) := by
  unfold State.leaveRoute
  split
  · exact s.regBit_clrBit _ p b hb hp
  · next h =>
    by_cases hbp : b = p
    · subst hbp
      simpa using h
    · simp [hbp]

/-- The port leaves every route entry of a crossbar. -/
def State.leaveRoutes (s : State) (p d : Nat) : State := (List.range 64).foldl (fun s n => s.leaveRoute p d n) s

theorem reg_leaveRoutes_ne (s : State) (p : Nat) {d e n : Nat} (hn : n < 64) (h : d ≠ e) :
    (s.leaveRoutes p e).reg (.spnPrt d n) = s.reg (.spnPrt d n) :=
  foldl_reading (fun x : State => x.reg (.spnPrt d n)) _ _ _ fun x _ hm =>
    reg_leaveRoute_ne x p hn (List.mem_range.1 hm) (.inl h)

theorem regBit_leaveRoutes (s : State) (p d n b : Nat) (hn : n < 64) (hp : p < 64) (hb : b < 64) :
    (s.leaveRoutes p d).regBit (.spnPrt d n) b = (decide (b ≠ p) && s.regBit (.spnPrt d n) b) := by
  have key : ∀ (l : List Nat) (x : State), (∀ m, m ∈ l → m < 64) → n ∈ l → l.Nodup →
      (l.foldl (fun s n => s.leaveRoute p d n) x).regBit (.spnPrt d n) b = (decide (b ≠ p) && x.regBit (.spnPrt d n) b) := by
    intro l
    induction l with
    | nil => exact fun _ _ h => (List.not_mem_nil h).elim
    | cons m l ih =>
      intro x hl hmem hnd
      obtain ⟨hm, hnd⟩ := List.nodup_cons.1 hnd
      rw [List.foldl_cons]
      by_cases hnm : n = m
      · subst hnm
        have hrest : (l.foldl (fun s n => s.leaveRoute p d n) (x.leaveRoute p d n)).reg (.spnPrt d n) =
            (x.leaveRoute p d n).reg (.spnPrt d n) :=
          foldl_reading (fun x : State => x.reg (.spnPrt d n)) _ _ _ fun y k hk =>
            reg_leaveRoute_ne y p hn (hl k (List.mem_cons_of_mem _ hk)) (.inr fun e => hm (e ▸ hk))
        rw [State.regBit_congr hrest, regBit_leaveRoute x p d n b hp hb]
      · rw [ih _ (fun k hk => hl k (List.mem_cons_of_mem _ hk)) ((List.mem_cons.1 hmem).resolve_left hnm) hnd,
          State.regBit_congr (reg_leaveRoute_ne x p hn (hl m (List.mem_cons_self ..)) (.inr hnm))]
  exact key _ s (fun m hm => List.mem_range.1 hm) (List.mem_range.2 hn) List.nodup_range

theorem regBit_leaveAll (s : State) (p c d n b : Nat) (hd : d < c) (hn : n < 64) (hp : p < 64) (hb : b < 64) :
    ((List.range c).foldl (fun s d => s.leaveRoutes p d) s).regBit (.spnPrt d n) b = (decide (b ≠ p) && s.regBit (.spnPrt d n) b) := by
  refine foldl_turn (fun x : State => x.reg (.spnPrt d n) = s.reg (.spnPrt d n))
    (fun x : State => x.regBit (.spnPrt d n) b = (decide (b ≠ p) && s.regBit (.spnPrt d n) b)) _ _ s d (List.mem_range.2 hd)
    List.nodup_range (fun x e he hx => ?_) (fun x hx => ?_) (fun x e he hx => ?_) rfl
  · exact (reg_leaveRoutes_ne x p hn (Ne.symm he)).trans hx
  · rw [regBit_leaveRoutes x p d n b hn hp hb, State.regBit_congr hx]
  · rw [State.regBit_congr (reg_leaveRoutes_ne x p hn (Ne.symm he)), hx]

theorem spanRouteRemoval_eq (p : Nat) (s : State) (ha : s.alive = true) (hs : s.spanState p = 4) :
    spanRouteRemoval p s = (List.range (8 + s.fuses.assembly.ioDies)).foldl (fun s d => s.leaveRoutes p d) s := by
  rw [spanRouteRemoval, if_pos (by simp [ha, hs])]
  rfl

/-- Settles O50. -/
theorem spanPortsRetrainAndLeaveRoutes : Obligations.SpanPortsRetrainAndLeaveRoutes := by
  refine ⟨retrains, spnCtl_written, fun port s ha hs => ?_⟩
  have he : exec (.spanRouteRemoval port) s = .next (spanRouteRemoval port.val s) := rfl
  refine ⟨_, he, Only.ofExec (only_execSpanRouteRemoval port s) he, fun d n hd hn b hb => ?_⟩
  rw [spanRouteRemoval_eq _ _ ha hs]
  exact regBit_leaveAll s port.val _ d n b hd hn (by omega) hb

end Sys2Proof.Machine
end

section
/-! Span ports: losing lanes, holding, narrowing and training (R240 to R245). -/

namespace Sys2Proof.Machine

/-! ### The receive direction narrows (R244) -/

theorem only_sendControl (s : State) (p : Nat) (nack : Bool) : Only [.out, .ports] [.ctrVal] s (s.sendControl p nack) :=
  only_State_sendControl s p nack (Only.refl s) (by decide) (by decide)

/-- What a control frame leaves of a port that shows its lanes. -/
structure Controls (p : Nat) (s t : State) : Prop where
  sends : PortSends p s t
  regs : RegsBut answerTouches s t
  only : Only [.out, .ports] [.ctrVal] s t

namespace Controls

variable {p : Nat} {s t u : State}

theorem sendControl (s : State) (nack : Bool) : Controls p s (s.sendControl p nack) :=
  ⟨.sendControl s nack, counts_sendControl (fun _ _ hn => hn) s p nack (.refl s), only_sendControl s p nack⟩

theorem pump (s : State) (fuel : Nat) : Controls p s (s.pump p fuel) :=
  ⟨.pump s fuel, counts_pump (fun _ _ hn => hn) s p fuel (.refl s), only_State_pump s p fuel (Only.refl s) (by decide) (by decide)⟩

theorem trans (h : Controls p s t) (k : Controls p t u) : Controls p s u :=
  ⟨h.sends.trans k.sends, h.regs.trans k.regs, h.only.trans k.only⟩

theorem spanState (h : Controls p s t) : t.spanState p = s.spanState p := State.spanState_congr h.regs.reg_spnStat

theorem rxmap (h : Controls p s t) : t.reg (.spnRxmap p) = s.reg (.spnRxmap p) := h.regs.reg_port (Reg.spnRxmap_off p) (by decide)

end Controls

/-- A port that holds frames shows it. -/
theorem spanWorks_showHold (s : State) (p : Nat) : (s.showHold p).spanWorks p = true := by
  refine spanWorks_of_state ?_
  rw [spanState_showHold]
  split
  · exact .inr rfl
  · exact .inl rfl

/-- The state in which a port shows a lane map and its holds, before its control frame. -/
def State.showing (s : State) (p : Nat) (x : Span) (rx : Nat) : State :=
  (((s.setSpan p x).showLanes p rx ((s.setSpan p x).reg (.spnTxmap p)).toNat).showHold p)

theorem showing_shows (s : State) (p : Nat) (x : Span) (rx : Nat) :
    Shows p rx ((s.setSpan p x).reg (.spnTxmap p)).toNat (s.setSpan p x) (s.showing p x rx) := showHold_shows (showLanes_shows _ p rx _)

theorem span_showing (s : State) (p : Nat) (x : Span) (rx q : Nat) : (s.showing p x rx).span q = if q = p then x else s.span q := by
  rw [(showing_shows s p x rx).span, State.span_setSpan]

theorem spanState_showing (s : State) (p : Nat) (x : Span) (rx : Nat) :
    (s.showing p x rx).spanState p = if x.rxHold.isSome || x.txHold.isSome then 3 else 2 := by
  have hx : ((s.setSpan p x).showLanes p rx ((s.setSpan p x).reg (.spnTxmap p)).toNat).span p = x := by
    rw [(showLanes_shows _ p rx _).span, State.span_setSpan, if_pos rfl]
  have h := spanState_showHold ((s.setSpan p x).showLanes p rx ((s.setSpan p x).reg (.spnTxmap p)).toNat) p
  rw [hx] at h
  exact h

theorem regs_showing (s : State) (p : Nat) (x : Span) (rx : Nat) : RegsBut (lanesShown p) s (s.showing p x rx) :=
  (RegsBut.of_regs (.refl s) rfl rfl : RegsBut (lanesShown p) s (s.setSpan p x)).trans (showing_shows s p x rx).regs

/-- How a port of map `map` stands that holds its receive direction. -/
structure Holding (p map : Nat) (x : Span) (t : State) : Prop where
  lanes : (t.span p).lanes = x.lanes
  state : t.spanState p = if x.rxHold.isSome || x.txHold.isSome then 3 else 2
  rxmap : t.reg (.spnRxmap p) = BitVec.ofNat 64 map

theorem Holding.works {p map : Nat} {x : Span} {t : State} (h : Holding p map x t) : t.spanWorks p = true := by
  refine spanWorks_of_state ?_
  rw [h.state]
  split
  · exact .inr rfl
  · exact .inl rfl

theorem holding_showing (s : State) (p : Nat) (x : Span) (rx : Nat) : Holding p rx x (s.showing p x rx) where
  lanes := by rw [span_showing, if_pos rfl]
  state := spanState_showing s p x rx
  rxmap := (showing_shows s p x rx).rxmap

theorem Holding.controls {p map : Nat} {x : Span} {s t : State} (h : Holding p map x s) (k : Controls p s t) : Holding p map x t :=
  ⟨k.sends.lanes.trans h.lanes, k.spanState.trans h.state, k.rxmap.trans h.rxmap⟩

/-- The floor-plan record has to be published again. -/
def State.dirtied (s : State) : State := { s with fpDirty := true }

theorem Holding.dirty {p map : Nat} {x : Span} {s : State} (h : Holding p map x s) : Holding p map x s.dirtied :=
  ⟨(congrArg Span.lanes (congrFun (State.span_congr rfl) p)).trans h.lanes,
    (State.spanState_congr (congrFun (State.reg_congr rfl rfl) _)).trans h.state, (congrFun (State.reg_congr rfl rfl) _).trans h.rxmap⟩

/-- A port that shows its lanes and then sends control frames. -/
structure Announced (p : Nat) (u t : State) : Prop where
  holding : ∀ {map x}, Holding p map x u → Holding p map x t
  dirty : t.fpDirty = true
  regs : RegsBut answerTouches u t
  nack : (t.span p).nackSent = (u.span p).nackSent
  other : ∀ q, q ≠ p → t.span q = u.span q

theorem Controls.announced {p : Nat} {u t : State} (hk : Controls p u.dirtied t) : Announced p u t := by
  have hspan : ∀ q, u.dirtied.span q = u.span q := fun q => congrFun (State.span_congr rfl) q
  refine ⟨fun h => h.dirty.controls hk, hk.only.part .fpDirty (by decide), ?_, ?_, fun q hq => ?_⟩
  · exact (RegsBut.of_regs (.refl u) rfl rfl : RegsBut answerTouches u u.dirtied).trans hk.regs
  · rw [hk.sends.nack, hspan]
  · rw [hk.sends.other q hq, hspan]

theorem lanes_fields {x y : Span} (h : x.lanes = y.lanes) : x.rxHold = y.rxHold ∧ x.txHold = y.txHold ∧ x.remapReq = y.remapReq ∧
    x.narrowReq = y.narrowReq ∧ x.lostRx = y.lostRx := by
  simp only [Span.lanes, Prod.mk.injEq] at h
  obtain ⟨h1, h2, h3, h4, h5, -⟩ := h
  exact ⟨h1, h2, h3, h4, h5⟩

/-- The port as it asks its peer to narrow. -/
def Span.narrowing (x : Span) (now : Nat) : Span := { x with remapReq := none, narrowReq := true, rxHold := some now }

/-- The port as it asks for a lane in place of logical lane `i`. -/
def Span.asking (x : Span) (i now : Nat) : Span := { x with remapReq := some i, rxHold := some now }

section
variable {s0 s : State} {p : Nat}

theorem regs_showing_down (s : State) (p : Nat) (x : Span) (rx : Nat) : RegsBut (downTouches p) s (s.showing p x rx) :=
  (regs_showing s p x rx).mono fun _ hr => .inr (.inl hr)

theorem narrowRx_eq (h : 4 ≤ (workingLanes (s.span p).lostRx).length) : s.narrowRx p =
    (s.showing p ((s.span p).narrowing s.now) (mapOf ((workingLanes (s.span p).lostRx).take 4))).dirtied.sendControl p false := by
  unfold State.narrowRx
  exact if_neg (by omega)

/-- A port with four working lanes narrows to them and holds. -/
theorem narrowRx_narrows (h : 4 ≤ (workingLanes (s.span p).lostRx).length) :
    Holding p (mapOf ((workingLanes (s.span p).lostRx).take 4)) ((s.span p).narrowing s.now) (s.narrowRx p) ∧
      (s.narrowRx p).fpDirty = true ∧ RegsBut (downTouches p) s (s.narrowRx p) := by
  rw [narrowRx_eq h]
  have hk := (Controls.sendControl (p := p)
    (s.showing p ((s.span p).narrowing s.now) (mapOf ((workingLanes (s.span p).lostRx).take 4))).dirtied false).announced
  exact ⟨hk.holding (holding_showing s p _ _), hk.dirty, (regs_showing_down s p _ _).trans (hk.regs.mono fun _ hr => Or.inl hr)⟩

/-- The port asks for a lane in place of one it has lost, and holds. -/
def State.askLane (s : State) (p i map now : Nat) : State := (s.showing p ((s.span p).asking i now) map).sendControl p false

theorem askLane_asks (s : State) (p i map now : Nat) :
    Holding p map ((s.span p).asking i now) (s.askLane p i map now) ∧ RegsBut (downTouches p) s (s.askLane p i map now) := by
  have hk := Controls.sendControl (p := p) (s.showing p ((s.span p).asking i now) map) false
  have h1 := holding_showing s p ((s.span p).asking i now) map
  have h2 := regs_showing_down s p ((s.span p).asking i now) map
  rw [State.askLane]
  generalize s.showing p ((s.span p).asking i now) map = u at hk h1 h2 ⊢
  have h4 : RegsBut (downTouches p) u (u.sendControl p false) := hk.regs.mono fun _ hr => Or.inl hr
  exact ⟨h1.controls hk, h2.trans h4⟩

end

/-! ### A lane is lost (R242 to R244) -/

theorem reg_setSpan (s : State) (p : Nat) (x : Span) (q : Reg) : (s.setSpan p x).reg q = s.reg q := rfl

/-- The port has counted the lane that it lost. -/
def State.laneLost (s : State) (p lane : Nat) : State :=
  ((s.countF (.spnLaneloss p) 0 32 1).setBit (.spnStat p) 0).setSpan p { s.span p with lostRx := (s.span p).lostRx ++ [lane] }

section
variable {s : State} {p lane : Nat}

theorem only_laneLost (s : State) (p lane : Nat) : Only [.ports] [.spnLaneloss, .spnStat] s (s.laneLost p lane) :=
  only_State_setSpan _ _ _ (only_State_setBit _ _ _ (only_State_countF s _ _ _ _ (Only.refl s) (List.elem_iff.mp rfl))
    (List.elem_iff.mp rfl)) (by decide)

theorem span_laneLost (s : State) (p lane : Nat) :
    (s.laneLost p lane).span p = { s.span p with lostRx := (s.span p).lostRx ++ [lane] } := by
  rw [State.laneLost, State.span_setSpan, if_pos rfl]

theorem reg_laneLost (s : State) (p lane : Nat) {q : Reg} (h1 : q.off ≠ (Reg.spnLaneloss p).off) (h2 : q.off ≠ (Reg.spnStat p).off) :
    (s.laneLost p lane).reg q = s.reg q := by
  have h : ((s.countF (.spnLaneloss p) 0 32 1).setBit (.spnStat p) 0).reg q = s.reg q := by
    rw [State.setBit, State.setF, State.reg_setReg_ne _ _ _ _ h2, State.countF, State.setF, State.reg_setReg_ne _ _ _ _ h1]
  rw [State.laneLost, reg_setSpan, h]

theorem rxmap_laneLost (s : State) (p lane : Nat) : (s.laneLost p lane).reg (.spnRxmap p) = s.reg (.spnRxmap p) :=
  reg_laneLost s p lane (by rw [Reg.spnRxmap_off, Reg.spnLaneloss_off]; omega) (spnRxmap_ne_spnStat p)

theorem regF_laneLost (s : State) (p lane : Nat) :
    (s.laneLost p lane).regF (.spnLaneloss p) 0 32 = min 0xFFFFFFFF (s.regF (.spnLaneloss p) 0 32 + 1) := by
  have h : ((s.countF (.spnLaneloss p) 0 32 1).setBit (.spnStat p) 0).regF (.spnLaneloss p) 0 32 =
      min 0xFFFFFFFF (s.regF (.spnLaneloss p) 0 32 + 1) := by
    rw [State.setBit, State.regF_setF_ne _ _ _ _ _ _ _ _ (by rw [Reg.spnLaneloss_off, Reg.spnStat_off]; omega),
      State.regF_countF _ _ 0 32 1 (by decide)]
    norm_num
  rw [State.laneLost, State.regF_congr (reg_setSpan _ _ _ _), h]

theorem spanWorks_laneLost (s : State) (p lane : Nat) : (s.laneLost p lane).spanWorks p = s.spanWorks p := by
  have h1 : (s.countF (.spnLaneloss p) 0 32 1).spanState p = s.spanState p :=
    State.spanState_congr (State.reg_setReg_ne _ _ _ _ (by rw [Reg.spnStat_off, Reg.spnLaneloss_off]; omega))
  have h2 := (regF_setBit_zero (s.countF (.spnLaneloss p) 0 32 1) (.spnStat p) 29 3 (by decide)).trans h1
  have h3 : (s.laneLost p lane).spanState p = s.spanState p :=
    (State.regF_congr (reg_setSpan _ _ _ _) 29 3).trans h2
  rw [State.spanWorks, State.spanWorks, h3]

/-- What becomes of the port depends on the lane it has lost. -/
theorem laneLoss_eq (hw : s.spanWorks p = true) (hl : lane ∉ (s.span p).lostRx) : laneLoss p lane s =
    let map := (s.reg (.spnRxmap p)).toNat
    let w := workingLanes ((s.span p).lostRx ++ [lane])
    let u := s.laneLost p lane
    match logicalOf map lane with
    | none => if w.length < 4 then u.portDown p dcLanes else u.showLanes p map (u.reg (.spnTxmap p)).toNat
    | some i =>
      if w.length < 4 then u.portDown p dcLanes
      else if mapNarrow map then
        match w.find? fun q => (logicalOf map q).isNone with
        | none => u.narrowRx p
        | some q => u.askLane p i (mapSet map i q) s.now
      else if (s.span p).lostRx.isEmpty && (s.span p).remapReq.isNone then u.askLane p i map s.now
      else u.narrowRx p := by
  have hgo : (!s.spanWorks p || (s.span p).lostRx.contains lane) = false := by
    simp [hw, hl]
  unfold laneLoss
  exact if_neg (by rw [hgo]; exact Bool.false_ne_true)

/-- Too few lanes are left. -/
theorem laneLoss_down (hw : s.spanWorks p = true) (hl : lane ∉ (s.span p).lostRx)
    (hn : (workingLanes ((s.span p).lostRx ++ [lane])).length < 4) : laneLoss p lane s = (s.laneLost p lane).portDown p dcLanes := by
  rw [laneLoss_eq hw hl]
  dsimp only
  split
  · exact if_pos hn
  · exact if_pos hn

section
variable (hw : s.spanWorks p = true) (hl : lane ∉ (s.span p).lostRx) (hn : 4 ≤ (workingLanes ((s.span p).lostRx ++ [lane])).length)
include hw hl hn

/-- The lane carried nothing. -/
theorem laneLoss_standby (hi : logicalOf (s.reg (.spnRxmap p)).toNat lane = none) : laneLoss p lane s =
    (s.laneLost p lane).showLanes p (s.reg (.spnRxmap p)).toNat ((s.laneLost p lane).reg (.spnTxmap p)).toNat := by
  rw [laneLoss_eq hw hl]
  dsimp only
  rw [hi]
  exact if_neg (by omega)

/-- The spare is asked for. -/
theorem laneLoss_spare {i : Nat} (hi : logicalOf (s.reg (.spnRxmap p)).toNat lane = some i)
    (hnarrow : mapNarrow (s.reg (.spnRxmap p)).toNat = false) (h1 : (s.span p).lostRx = []) (h2 : (s.span p).remapReq = none) :
    laneLoss p lane s = (s.laneLost p lane).askLane p i (s.reg (.spnRxmap p)).toNat s.now := by
  rw [laneLoss_eq hw hl]
  dsimp only
  rw [hi]
  dsimp only
  rw [if_neg (by omega), hnarrow, if_neg Bool.false_ne_true, if_pos (by rw [h1, h2]; rfl)]

/-- The port narrows. -/
theorem laneLoss_narrows {i : Nat} (hi : logicalOf (s.reg (.spnRxmap p)).toNat lane = some i)
    (hnarrow : mapNarrow (s.reg (.spnRxmap p)).toNat = false) (h : (s.span p).lostRx ≠ [] ∨ (s.span p).remapReq ≠ none) :
    laneLoss p lane s = (s.laneLost p lane).narrowRx p := by
  rw [laneLoss_eq hw hl]
  dsimp only
  rw [hi]
  dsimp only
  rw [if_neg (by omega), hnarrow, if_neg Bool.false_ne_true, if_neg]
  simp only [Bool.and_eq_true, List.isEmpty_iff, Option.isNone_iff_eq_none, not_and_or]
  exact h

/-- A narrowed port takes its next working lane. -/
theorem laneLoss_next {i q : Nat} (hi : logicalOf (s.reg (.spnRxmap p)).toNat lane = some i)
    (hnarrow : mapNarrow (s.reg (.spnRxmap p)).toNat = true)
    (hq : ((workingLanes ((s.span p).lostRx ++ [lane])).find? fun q => (logicalOf (s.reg (.spnRxmap p)).toNat q).isNone) = some q) :
    laneLoss p lane s = (s.laneLost p lane).askLane p i (mapSet (s.reg (.spnRxmap p)).toNat i q) s.now := by
  rw [laneLoss_eq hw hl]
  dsimp only
  rw [hi]
  dsimp only
  rw [if_neg (by omega), hnarrow, if_pos rfl, hq]

/-- A narrowed port whose lanes all carry narrows again. -/
theorem laneLoss_again {i : Nat} (hi : logicalOf (s.reg (.spnRxmap p)).toNat lane = some i)
    (hnarrow : mapNarrow (s.reg (.spnRxmap p)).toNat = true)
    (hq : ((workingLanes ((s.span p).lostRx ++ [lane])).find? fun q => (logicalOf (s.reg (.spnRxmap p)).toNat q).isNone) = none) :
    laneLoss p lane s = (s.laneLost p lane).narrowRx p := by
  rw [laneLoss_eq hw hl]
  dsimp only
  rw [hi]
  dsimp only
  rw [if_neg (by omega), hnarrow, if_pos rfl, hq]

end

end

section
variable {s t : State} {p lane : Nat}

/-- A port that keeps four working lanes after a loss, and holds to replace a lane that carried data. -/
structure Repairs (p lane : Nat) (s t : State) : Prop where
  lost : (t.span p).lostRx = (s.span p).lostRx ++ [lane]
  works : t.spanWorks p = true
  holds : ∀ i, logicalOf (s.reg (.spnRxmap p)).toNat lane = some i → (t.span p).rxHold = some s.now ∧ t.spanState p = 3

theorem state_holding {map : Nat} {x : Span} (h : Holding p map x t) {n : Nat} (hx : x.rxHold = some n) : t.spanState p = 3 := by
  rw [h.state, hx]
  rfl

theorem now_laneLost (s : State) (p lane : Nat) : (s.laneLost p lane).now = s.now := (only_laneLost s p lane).part .now (by decide)

/-- The counted state after the repair, whatever it is. -/
theorem laneloss_kept (h : RegsBut (downTouches p) (s.laneLost p lane) t) :
    t.regF (.spnLaneloss p) 0 32 = min 0xFFFFFFFF (s.regF (.spnLaneloss p) 0 32 + 1) :=
  (State.regF_congr h.reg_spnLaneloss 0 32).trans (regF_laneLost s p lane)

theorem rxmap_ofNat (s : State) (p : Nat) : BitVec.ofNat 64 (s.reg (.spnRxmap p)).toNat = s.reg (.spnRxmap p) := by simp

/-- The port narrows to its lowest four working lanes. -/
theorem narrows_after_loss (hn : 4 ≤ (workingLanes ((s.span p).lostRx ++ [lane])).length) (ht : t = (s.laneLost p lane).narrowRx p) :
    RegsBut (downTouches p) (s.laneLost p lane) t ∧ Repairs p lane s t ∧ (t.span p).remapReq = none ∧ (t.span p).narrowReq = true ∧
      t.reg (.spnRxmap p) = BitVec.ofNat 64 (mapOf ((workingLanes ((s.span p).lostRx ++ [lane])).take 4)) ∧ t.fpDirty = true := by
  have hlost : ((s.laneLost p lane).span p).lostRx = (s.span p).lostRx ++ [lane] := by rw [span_laneLost]
  obtain ⟨hh, hd, hr⟩ := narrowRx_narrows (s := s.laneLost p lane) (p := p) (by rw [hlost]; exact hn)
  rw [← ht] at hh hd hr
  obtain ⟨h1, -, h3, h4, h5⟩ := lanes_fields hh.lanes
  rw [hlost] at hh
  refine ⟨hr, ⟨h5.trans hlost, hh.works, fun _ _ => ⟨h1.trans (congrArg some (now_laneLost s p lane)), state_holding hh rfl⟩⟩, h3, h4,
    hh.rxmap, hd⟩

/-- The port asks for another lane. -/
theorem asks_after_loss {i map : Nat} (ht : t = (s.laneLost p lane).askLane p i map s.now) :
    RegsBut (downTouches p) (s.laneLost p lane) t ∧ Repairs p lane s t ∧ (t.span p).remapReq = some i ∧
      t.reg (.spnRxmap p) = BitVec.ofNat 64 map := by
  have hlost : ((s.laneLost p lane).span p).lostRx = (s.span p).lostRx ++ [lane] := by rw [span_laneLost]
  obtain ⟨hh, hr⟩ := askLane_asks (s.laneLost p lane) p i map s.now
  rw [← ht] at hh hr
  obtain ⟨h1, -, h3, -, h5⟩ := lanes_fields hh.lanes
  exact ⟨hr, ⟨h5.trans hlost, hh.works, fun _ _ => ⟨h1, state_holding hh rfl⟩⟩, h3, hh.rxmap⟩

/-- A standby lane only leaves the repairs that are left. -/
theorem standby_after_loss (hw : s.spanWorks p = true) (hi : logicalOf (s.reg (.spnRxmap p)).toNat lane = none)
    (ht : t = (s.laneLost p lane).showLanes p (s.reg (.spnRxmap p)).toNat ((s.laneLost p lane).reg (.spnTxmap p)).toNat) :
    RegsBut (downTouches p) (s.laneLost p lane) t ∧ Repairs p lane s t ∧ t.reg (.spnRxmap p) = s.reg (.spnRxmap p) ∧
      t.span p = { s.span p with lostRx := (s.span p).lostRx ++ [lane] } := by
  have hs := showLanes_shows (s.laneLost p lane) p (s.reg (.spnRxmap p)).toNat ((s.laneLost p lane).reg (.spnTxmap p)).toNat
  have hstate := regF_showLanes (s.laneLost p lane) p (s.reg (.spnRxmap p)).toNat ((s.laneLost p lane).reg (.spnTxmap p)).toNat 29 3
    (.inr (by decide))
  have hworks := spanWorks_laneLost s p lane
  have hspan := span_laneLost s p lane
  rw [← ht] at hs hstate
  generalize s.laneLost p lane = u at hs hstate hworks hspan ⊢
  have hsp : t.span p = { s.span p with lostRx := (s.span p).lostRx ++ [lane] } := (hs.span p).trans hspan
  refine ⟨hs.regs.mono fun _ hr => Or.inr (Or.inl hr), ⟨by rw [hsp], ?_, fun i hsome => ?_⟩, hs.rxmap.trans (rxmap_ofNat s p), hsp⟩
  · rw [← hw, ← hworks, State.spanWorks, State.spanWorks, State.spanState, hstate]
    rfl
  · rw [hi] at hsome
    cases hsome

/-- A lane that carried data is replaced, or the port narrows (R243, R244). -/
theorem carrier_after_loss {i : Nat} (hw : s.spanWorks p = true) (hl : lane ∉ (s.span p).lostRx)
    (hn : 4 ≤ (workingLanes ((s.span p).lostRx ++ [lane])).length)
    (hi : logicalOf (s.reg (.spnRxmap p)).toNat lane = some i) (ht : t = laneLoss p lane s) :
    let x := s.span p
    let map := (s.reg (.spnRxmap p)).toNat
    let w := workingLanes (x.lostRx ++ [lane])
    RegsBut (downTouches p) (s.laneLost p lane) t ∧ Repairs p lane s t ∧
      (mapNarrow map = false → x.lostRx = [] → x.remapReq = none →
        (t.span p).remapReq = some i ∧ t.reg (.spnRxmap p) = s.reg (.spnRxmap p)) ∧
      (mapNarrow map = false → x.lostRx ≠ [] ∨ x.remapReq ≠ none → (t.span p).remapReq = none ∧
        (t.span p).narrowReq = true ∧ t.reg (.spnRxmap p) = BitVec.ofNat 64 (mapOf (w.take 4)) ∧ t.fpDirty = true) ∧
      (mapNarrow map = true → ∀ q, (w.find? fun q => (logicalOf map q).isNone) = some q →
        (t.span p).remapReq = some i ∧ t.reg (.spnRxmap p) = BitVec.ofNat 64 (mapSet map i q)) := by
  intro x map w
  cases hm : mapNarrow map with
  | false =>
    by_cases hspare : x.lostRx = [] ∧ x.remapReq = none
    · obtain ⟨h1, h2⟩ := hspare
      rw [laneLoss_spare hw hl hn hi hm h1 h2] at ht
      obtain ⟨hr, hrep, h3, h4⟩ := asks_after_loss ht
      exact ⟨hr, hrep, fun _ _ _ => ⟨h3, h4.trans (rxmap_ofNat s p)⟩, fun _ h => (h.elim (absurd h1) (absurd h2)), fun h => (nomatch h)⟩
    · have hno : x.lostRx ≠ [] ∨ x.remapReq ≠ none := not_and_or.1 hspare
      rw [laneLoss_narrows hw hl hn hi hm hno] at ht
      obtain ⟨hr, hrep, h3, h4, h5, h6⟩ := narrows_after_loss hn ht
      exact ⟨hr, hrep, fun _ h1 h2 => absurd ⟨h1, h2⟩ hspare, fun _ _ => ⟨h3, h4, h5, h6⟩, fun h => (nomatch h)⟩
  | true =>
    cases hq : w.find? fun q => (logicalOf map q).isNone with
    | none =>
      rw [laneLoss_again hw hl hn hi hm hq] at ht
      obtain ⟨hr, hrep, -⟩ := narrows_after_loss hn ht
      exact ⟨hr, hrep, fun h => (nomatch h), fun h => (nomatch h), fun _ q h => (nomatch h)⟩
    | some q =>
      rw [laneLoss_next hw hl hn hi hm hq] at ht
      obtain ⟨hr, hrep, h3, h4⟩ := asks_after_loss ht
      refine ⟨hr, hrep, fun h => (nomatch h), fun h => (nomatch h), fun _ r h => ?_⟩
      obtain rfl := Option.some.inj h
      exact ⟨h3, h4⟩

/-- What LANE_LOSS leaves of a port that works (R242 to R244). -/
theorem laneLoss_spec (hw : s.spanWorks p = true) (hl : lane ∉ (s.span p).lostRx) (ht : t = laneLoss p lane s) :
    let x := s.span p
    let map := (s.reg (.spnRxmap p)).toNat
    let w := workingLanes (x.lostRx ++ [lane])
    t.regF (.spnLaneloss p) 0 32 = min 0xFFFFFFFF (s.regF (.spnLaneloss p) 0 32 + 1) ∧
    (w.length < 4 → t.spanState p = 4 ∧ t.regF (.spnStat p) 11 3 = 3 ∧ t.span p = {} ∧ t.fpDirty = true ∧
      nbit t.spanLost p = true) ∧
    (4 ≤ w.length → (t.span p).lostRx = x.lostRx ++ [lane] ∧ t.spanWorks p = true ∧
      (logicalOf map lane = none → t.reg (.spnRxmap p) = s.reg (.spnRxmap p) ∧
        t.span p = { x with lostRx := x.lostRx ++ [lane] }) ∧
      (∀ i, logicalOf map lane = some i →
        (t.span p).rxHold = some s.now ∧ t.spanState p = 3 ∧
        (mapNarrow map = false → x.lostRx = [] → x.remapReq = none →
          (t.span p).remapReq = some i ∧ t.reg (.spnRxmap p) = s.reg (.spnRxmap p)) ∧
        (mapNarrow map = false → x.lostRx ≠ [] ∨ x.remapReq ≠ none → (t.span p).remapReq = none ∧
          (t.span p).narrowReq = true ∧ t.reg (.spnRxmap p) = BitVec.ofNat 64 (mapOf (w.take 4)) ∧ t.fpDirty = true) ∧
        (mapNarrow map = true → ∀ q, (w.find? fun q => (logicalOf map q).isNone) = some q →
          (t.span p).remapReq = some i ∧ t.reg (.spnRxmap p) = BitVec.ofNat 64 (mapSet map i q)))) := by
  intro x map w
  by_cases hn : w.length < 4
  · rw [laneLoss_down hw hl hn] at ht
    obtain ⟨hd, hr, hf, hlost⟩ := downed_portDown (s.laneLost p lane) p dcLanes (by decide)
    rw [← ht] at hd hr hf hlost
    exact ⟨laneloss_kept hr, fun _ => ⟨hd.state, hd.cause, hd.span, hf, hlost⟩, fun h => absurd h (by omega)⟩
  have hn' : 4 ≤ w.length := by omega
  cases hi : logicalOf map lane with
  | none =>
    rw [laneLoss_standby hw hl hn' hi] at ht
    obtain ⟨hr, hrep, h1, h2⟩ := standby_after_loss hw hi ht
    exact ⟨laneloss_kept hr, fun h => absurd h hn, fun _ => ⟨hrep.lost, hrep.works, fun _ => ⟨h1, h2⟩, fun i h => nomatch h⟩⟩
  | some i =>
    obtain ⟨hr, hrep, hcases⟩ := carrier_after_loss hw hl hn' hi ht
    refine ⟨laneloss_kept hr, fun h => absurd h hn, fun _ => ⟨hrep.lost, hrep.works, fun h => (nomatch h), fun j hj => ?_⟩⟩
    obtain rfl := Option.some.inj hj
    obtain ⟨h1, h2⟩ := hrep.holds i hi
    exact ⟨h1, h2, hcases⟩

end

/-! ### The end of a hold (R243, R244, R245) -/

/-- The port once its receiver locks the lane brought in. -/
def Span.locked (x : Span) : Span := { x with remapReq := none, narrowReq := false, rxHold := none, nackSent := true }

/-- The receive map with the spare in the lost lane's place. -/
def spareMap (map : Nat) : Option Nat → Nat
  | some i => if mapNarrow map then map else mapSet map i 8
  | none => map

theorem spareLaneLock_eq {s : State} {p : Nat} (hw : s.spanWorks p = true) (hh : (s.span p).rxHold.isSome = true) :
    spareLaneLock p s = ((s.showing p (s.span p).locked (spareMap (s.reg (.spnRxmap p)).toNat
      (s.span p).remapReq)).dirtied.sendControl p true).pump p 64 := by
  have hgo : (!s.spanWorks p || (s.span p).rxHold.isNone) = false := by
    rw [hw, Option.isNone_eq_false_iff.2 hh]
    rfl
  unfold spareLaneLock
  exact if_neg (by rw [hgo]; exact Bool.false_ne_true)

theorem spareMap_wide {map i : Nat} (h : mapNarrow map = false) : spareMap map (some i) = mapSet map i 8 := by
  rw [spareMap, h, if_neg Bool.false_ne_true]

theorem spareMap_same {map : Nat} {r : Option Nat} (h : r = none ∨ mapNarrow map = true) : spareMap map r = map := by
  cases r with
  | none => rfl
  | some i => rw [spareMap, if_pos (h.resolve_left fun h => (nomatch h))]

/-- The port after its receiver locked. -/
theorem spareLaneLock_spec {s : State} {p : Nat} (hw : s.spanWorks p = true) (hh : (s.span p).rxHold.isSome = true) :
    Holding p (spareMap (s.reg (.spnRxmap p)).toNat (s.span p).remapReq) (s.span p).locked (spareLaneLock p s) ∧
    (spareLaneLock p s).fpDirty = true ∧ ((spareLaneLock p s).span p).nackSent = true ∧
    ∀ q, q ≠ p → (spareLaneLock p s).span q = s.span q := by
  rw [spareLaneLock_eq hw hh]
  have hspan := span_showing s p (s.span p).locked (spareMap (s.reg (.spnRxmap p)).toNat (s.span p).remapReq)
  have hk := ((Controls.sendControl (p := p) (s.showing p (s.span p).locked (spareMap (s.reg (.spnRxmap p)).toNat
    (s.span p).remapReq)).dirtied true).trans (Controls.pump _ 64)).announced
  refine ⟨hk.holding (holding_showing s p _ _), hk.dirty, ?_, fun q hq => ?_⟩
  · rw [hk.nack, hspan, if_pos rfl]
    rfl
  · rw [hk.other q hq, hspan, if_neg hq]

theorem spareLaneLock_locks (port : Fin 24) (s : State) (hw : s.spanWorks port.val = true)
    (hh : (s.span port.val).rxHold.isSome = true) :
    let p := port.val
    let map := (s.reg (.spnRxmap p)).toNat
    ∃ t, exec (.spareLaneLock port) s = .next t ∧
      Only [.out, .fpDirty, .ports] [.spnStat, .spnRxmap, .spnTxmap, .spnLanest, .ctrVal] s t ∧
      (t.span p).rxHold = none ∧ (t.span p).remapReq = none ∧ (t.span p).narrowReq = false ∧ (t.span p).nackSent = true ∧
      t.spanState p = (if (s.span p).txHold.isSome then 3 else 2) ∧ t.fpDirty = true ∧
      (∀ i, (s.span p).remapReq = some i → mapNarrow map = false →
        t.reg (.spnRxmap p) = BitVec.ofNat 64 (mapSet map i 8)) ∧
      ((s.span p).remapReq = none ∨ mapNarrow map = true → t.reg (.spnRxmap p) = s.reg (.spnRxmap p)) ∧
      ∀ q, q ≠ p → t.span q = s.span q := by
  have he : exec (.spareLaneLock port) s = .next (spareLaneLock port.val s) := rfl
  obtain ⟨hh, hd, hn, ho⟩ := spareLaneLock_spec hw hh
  obtain ⟨k1, -, k3, k4, -⟩ := lanes_fields hh.lanes
  refine ⟨_, he, Only.ofExec (only_execSpareLaneLock port s) he, k1, k3, k4, hn, hh.state, hd, fun i hi hm => ?_, fun hno => ?_, ho⟩
  · rw [hh.rxmap, hi, spareMap_wide hm]
  · rw [hh.rxmap, spareMap_same hno, rxmap_ofNat]

theorem holdTimeout_eq {s : State} {p h : Nat} (hw : s.spanWorks p = true) (hh : (s.span p).rxHold = some h) (hd : h + 400 ≤ s.now) :
    holdTimeout p s = if (s.span p).narrowReq || mapNarrow (s.reg (.spnRxmap p)).toNat then s.portDown p dcHold else s.narrowRx p := by
  unfold holdTimeout
  exact (if_neg (by rw [hw]; exact Bool.false_ne_true)).trans (if_pos (by rw [hh]; exact decide_eq_true hd))

theorem holdTimeout_ends (port : Fin 24) (h : Nat) (s : State) (hw : s.spanWorks port.val = true)
    (hh : (s.span port.val).rxHold = some h) (hd : h + 400 ≤ s.now) :
    let p := port.val
    let w := workingLanes (s.span p).lostRx
    let narrow := (s.span p).narrowReq || mapNarrow (s.reg (.spnRxmap p)).toNat
    ∃ t, exec (.holdTimeout port) s = .next t ∧
      Only [.out, .fpDirty, .ports, .reqs, .spanLost, .ic, .flog0, .flog1, .mbox, .lists]
        [.fabStat, .fabDiscard, .spnStat, .spnRxmap, .spnTxmap, .spnLanest, .spnDiscard, .ctrVal] s t ∧
      (narrow = true → t.spanState p = 4 ∧ t.regF (.spnStat p) 11 3 = 4 ∧ t.span p = {}) ∧
      (narrow = false → 4 ≤ w.length → t.spanState p = 3 ∧ (t.span p).narrowReq = true ∧ (t.span p).remapReq = none ∧
        (t.span p).rxHold = some s.now ∧ t.reg (.spnRxmap p) = BitVec.ofNat 64 (mapOf (w.take 4))) := by
  intro p w narrow
  have he : exec (.holdTimeout port) s = .next (holdTimeout p s) := rfl
  refine ⟨_, he, Only.ofExec (only_execHoldTimeout port s) he, fun hn => ?_, fun hn hl => ?_⟩
  · rw [holdTimeout_eq hw hh hd, if_pos hn]
    obtain ⟨hdown, -⟩ := downed_portDown s p dcHold (by decide)
    exact ⟨hdown.state, hdown.cause, hdown.span⟩
  · rw [holdTimeout_eq hw hh hd, if_neg (by rw [show ((s.span p).narrowReq || _) = false from hn]; exact Bool.false_ne_true)]
    obtain ⟨hhold, -, -⟩ := narrowRx_narrows hl
    obtain ⟨k1, -, k3, k4, -⟩ := lanes_fields hhold.lanes
    exact ⟨state_holding hhold rfl, k4, k3, k1, hhold.rxmap⟩

/-! ### The end of training (R240, R241) -/

theorem spanNoPeer_ends (port : Fin 24) (since : Nat) (s : State) (ht : (s.span port.val).trainingSince = some since)
    (hs : s.spanState port.val = 1) (hd : since + 20000000 ≤ s.now) :
    ∃ t, exec (.spanNoPeer port) s = .next t ∧ Only [.ports] [.spnStat, .spnRxmap, .spnTxmap, .spnLanest] s t ∧
      t.spanState port.val = 4 ∧ t.regF (.spnStat port.val) 11 3 = 1 ∧ t.span port.val = {} ∧
      t.reg (.spnRxmap port.val) = 0xFFFFFFFF ∧ ∀ q, q ≠ port.val → t.span q = s.span q := by
  have he : exec (.spanNoPeer port) s = .next (s.downed port.val dcNoPeer) := by
    have h : exec (.spanNoPeer port) s = .next (spanNoPeer port.val s) := rfl
    have h' : spanNoPeer port.val s = s.downed port.val dcNoPeer := by
      rw [spanNoPeer, ht]
      exact if_pos (by simp [hs, hd])
    rw [h, h']
  have hdown := isDown_downed s port.val dcNoPeer (by decide)
  exact ⟨_, he, only_downed s _ _, hdown.state, hdown.cause, hdown.span, (shows_downed s _ dcNoPeer).rxmap,
    fun q hq => span_downed_ne s _ _ hq⟩

theorem lanesOf_nodup (m : Nat) : (lanesOf m).Nodup := List.nodup_range.filter _

theorem lanesOf_lt {m i : Nat} (h : i ∈ lanesOf m) : i < 9 := List.mem_range.1 (List.mem_filter.1 h).1

/-- Of nine lanes those that are not lost work. -/
theorem length_workingLanes {lost : List Nat} (hn : lost.Nodup) (hl : ∀ i, i ∈ lost → i < 9) :
    (workingLanes lost).length + lost.length = 9 := by
  have hperm : ((List.range 9).filter fun p => lost.contains p).Perm lost := by
    refine (List.perm_ext_iff_of_nodup (List.nodup_range.filter _) hn).2 fun i => ?_
    rw [List.mem_filter, List.mem_range, List.contains_iff_mem]
    exact ⟨fun h => h.2, fun h => ⟨hl i h, h⟩⟩
  have hsum := List.length_eq_length_filter_add (l := List.range 9) fun p => lost.contains p
  rw [hperm.length_eq, List.length_range] at hsum
  unfold workingLanes
  omega

theorem trainedMap_none {lost : List Nat} (hn : lost.Nodup) (hl : ∀ i, i ∈ lost → i < 9) (h : 5 < lost.length) :
    trainedMap lost = none := by
  have := length_workingLanes hn hl
  rw [trainedMap, if_neg (by omega), if_neg (by omega), if_neg (by omega)]

theorem trainedMap_some {lost : List Nat} (hn : lost.Nodup) (hl : ∀ i, i ∈ lost → i < 9) (h : lost.length ≤ 5) :
    ∃ a, trainedMap lost = some a ∧ (lost = [] → a = 0x76543210) ∧ (lost = [8] → a = 0x76543210) ∧
      (∀ i, i < 8 → lost = [i] → a = mapSet 0x76543210 i 8) ∧ (2 ≤ lost.length → a = mapOf ((workingLanes lost).take 4)) := by
  have hlen := length_workingLanes hn hl
  rw [trainedMap]
  by_cases h0 : lost.length = 0
  · obtain rfl := List.length_eq_zero_iff.1 h0
    exact ⟨_, if_pos hlen, fun _ => by decide, (nomatch ·), fun i _ hi => (nomatch hi), (absurd · (by decide))⟩
  by_cases h1 : lost.length = 1
  · obtain ⟨i, rfl⟩ := List.length_eq_one_iff.1 h1
    have hi := hl i (List.mem_singleton_self i)
    refine ⟨_, (if_neg (by omega)).trans (if_pos (by omega)), (nomatch ·), fun h => ?_, fun j hj h => ?_, (absurd · (by omega))⟩
    · obtain rfl := (List.cons.inj h).1
      decide
    · obtain rfl := (List.cons.inj h).1
      have : i = 0 ∨ i = 1 ∨ i = 2 ∨ i = 3 ∨ i = 4 ∨ i = 5 ∨ i = 6 ∨ i = 7 := by omega
      obtain rfl | rfl | rfl | rfl | rfl | rfl | rfl | rfl := this <;> decide
  · refine ⟨_, (if_neg (by omega)).trans ((if_neg (by omega)).trans (if_pos (by omega))), fun h => ?_, fun h => ?_, fun i _ h => ?_,
      fun _ => rfl⟩
    all_goals
      rw [h] at h0 h1
      simp at h0 h1

/-- The part has noted the peer that a port found. -/
def State.peered (s : State) (p : Nat) (f : PortTraining) : State := (s.setF (.spnStat p) 23 6 f.peerPkg.toNat).setF (.spnStat p) 18 5 f.peerPort.toNat

theorem peered_fields (s : State) (p : Nat) (f : PortTraining) : (s.peered p f).regF (.spnStat p) 23 6 = f.peerPkg.toNat ∧
    (s.peered p f).regF (.spnStat p) 18 5 = f.peerPort.toNat := by
  constructor
  · have h := State.regF_setF_apart (s.setF (.spnStat p) 23 6 f.peerPkg.toNat) (.spnStat p) 18 5 f.peerPort.toNat 23 6 (by decide) (by decide)
    rw [State.peered, h, State.regF_setF_same _ _ 23 6 _ (by decide), Nat.mod_eq_of_lt f.peerPkg.isLt]
  · have h := State.regF_setF_same (s.setF (.spnStat p) 23 6 f.peerPkg.toNat) (.spnStat p) 18 5 f.peerPort.toNat (by decide)
    rw [State.peered, h, Nat.mod_eq_of_lt f.peerPort.isLt]

theorem only_peered (s : State) (p : Nat) (f : PortTraining) : Only [] [.spnStat] s (s.peered p f) :=
  only_State_setF _ _ _ _ _ (only_State_setF s _ _ _ _ (Only.refl s) (List.elem_iff.mp rfl)) (List.elem_iff.mp rfl)

theorem peered_downed (s : State) (p cause : Nat) (f : PortTraining) :
    ((s.peered p f).downed p cause).regF (.spnStat p) 23 6 = f.peerPkg.toNat ∧
    ((s.peered p f).downed p cause).regF (.spnStat p) 18 5 = f.peerPort.toNat := by
  rw [regF_downed _ p cause 23 6 (by decide), regF_downed _ p cause 18 5 (by decide)]
  exact peered_fields s p f

/-- The port comes up on the lanes that passed. -/
def State.cameUp (s : State) (p : Nat) (rx tx : List Nat) (a b : Nat) : State :=
  ((s.setSpan p { lostRx := rx, lostTx := tx }).showLanes p a b).setF (.spnStat p) 29 3 2

theorem cameUp_up (s : State) (p : Nat) (rx tx : List Nat) (a b : Nat) :
    (s.cameUp p rx tx a b).spanState p = 2 ∧ (∀ q, (s.cameUp p rx tx a b).span q = if q = p then { lostRx := rx, lostTx := tx } else s.span q) ∧
    (s.cameUp p rx tx a b).reg (.spnRxmap p) = BitVec.ofNat 64 a ∧ (s.cameUp p rx tx a b).reg (.spnTxmap p) = BitVec.ofNat 64 b ∧
    ∀ lo w, 18 ≤ lo → lo + w ≤ 29 → (s.cameUp p rx tx a b).regF (.spnStat p) lo w = s.regF (.spnStat p) lo w := by
  have hs := (showLanes_shows (s.setSpan p { lostRx := rx, lostTx := tx }) p a b).setStat 29 3 2
  refine ⟨?_, fun q => ?_, hs.rxmap, hs.txmap, fun lo w h1 h2 => ?_⟩
  · exact State.regF_setF_same ((s.setSpan p { lostRx := rx, lostTx := tx }).showLanes p a b) (.spnStat p) 29 3 2 (by decide)
  · exact (hs.span q).trans (State.span_setSpan _ _ _ _)
  · have h := State.regF_setF_apart ((s.setSpan p { lostRx := rx, lostTx := tx }).showLanes p a b) (.spnStat p) 29 3 2 lo w (by decide) (by omega)
    exact h.trans ((regF_showLanes _ p a b lo w (.inr h1)).trans (State.regF_congr (reg_setSpan _ _ _ _) lo w))

section
variable (s : State) (p : Nat) (f : PortTraining)

theorem portTrained_alone (h : f.peer = false) : s.portTrained p f = s.downed p dcNoPeer := by
  rw [State.portTrained, h]
  rfl

theorem portTrained_twin (h : f.peer = true) (hp : f.peerPkg.toNat = s.pkgId) : s.portTrained p f = (s.peered p f).downed p dcDupId := by
  rw [State.portTrained, h]
  exact if_pos hp

theorem portTrained_short (h : f.peer = true) (hp : f.peerPkg.toNat ≠ s.pkgId)
    (hl : trainedMap (lanesOf f.rxBad.toNat) = none ∨ trainedMap (lanesOf f.txBad.toNat) = none) :
    s.portTrained p f = (s.peered p f).downed p dcLanes := by
  rw [State.portTrained, h]
  refine (if_neg hp).trans ?_
  rcases hl with hl | hl
  · rw [hl]
    rfl
  · rw [hl]
    split
    · next h => cases h
    · rfl

theorem portTrained_up {a b : Nat} (h : f.peer = true) (hp : f.peerPkg.toNat ≠ s.pkgId)
    (ha : trainedMap (lanesOf f.rxBad.toNat) = some a) (hb : trainedMap (lanesOf f.txBad.toNat) = some b) :
    s.portTrained p f = (s.peered p f).cameUp p (lanesOf f.rxBad.toNat) (lanesOf f.txBad.toNat) a b := by
  rw [State.portTrained, h]
  refine (if_neg hp).trans ?_
  rw [ha, hb]
  rfl

end

/-- SPAN_PORT_TRAINED of a port in training (R240, R241). -/
theorem portTrained_spec (s : State) (p : Nat) (f : PortTraining) :
    let rx := lanesOf f.rxBad.toNat
    let tx := lanesOf f.txBad.toNat
    let t := s.portTrained p f
    (∀ q, q ≠ p → t.span q = s.span q) ∧
    if f.peer = false then t.spanState p = 4 ∧ t.regF (.spnStat p) 11 3 = 1
    else t.regF (.spnStat p) 23 6 = f.peerPkg.toNat ∧ t.regF (.spnStat p) 18 5 = f.peerPort.toNat ∧
      if f.peerPkg.toNat = s.pkgId then t.spanState p = 4 ∧ t.regF (.spnStat p) 11 3 = 2
      else if 5 < rx.length ∨ 5 < tx.length then t.spanState p = 4 ∧ t.regF (.spnStat p) 11 3 = 3
      else t.spanState p = 2 ∧ t.span p = { lostRx := rx, lostTx := tx } ∧
        (rx = [] → t.reg (.spnRxmap p) = 0x76543210) ∧ (tx = [] → t.reg (.spnTxmap p) = 0x76543210) ∧
        (rx = [8] → t.reg (.spnRxmap p) = 0x76543210) ∧
        (∀ i, i < 8 → rx = [i] → t.reg (.spnRxmap p) = BitVec.ofNat 64 (mapSet 0x76543210 i 8)) ∧
        (2 ≤ rx.length → t.reg (.spnRxmap p) = BitVec.ofNat 64 (mapOf ((workingLanes rx).take 4))) := by
  intro rx tx t
  have hpeer : ∀ q, (s.peered p f).span q = s.span q := span_of_only (only_peered s p f) (by decide)
  cases h : f.peer with
  | false =>
    have ht : t = s.downed p dcNoPeer := portTrained_alone s p f h
    have hd := isDown_downed s p dcNoPeer (by decide)
    rw [if_pos rfl, ht]
    exact ⟨fun q hq => span_downed_ne s p _ hq, hd.state, hd.cause⟩
  | true =>
    rw [if_neg (by decide)]
    by_cases hp : f.peerPkg.toNat = s.pkgId
    · have ht : t = (s.peered p f).downed p dcDupId := portTrained_twin s p f h hp
      obtain ⟨h1, h2⟩ := peered_downed s p dcDupId f
      have hd := isDown_downed (s.peered p f) p dcDupId (by decide)
      rw [if_pos hp, ht]
      exact ⟨fun q hq => (span_downed_ne _ p _ hq).trans (hpeer q), h1, h2, hd.state, hd.cause⟩
    · rw [if_neg hp]
      by_cases hfew : 5 < rx.length ∨ 5 < tx.length
      · have ht : t = (s.peered p f).downed p dcLanes := portTrained_short s p f h hp
          (hfew.imp (trainedMap_none (lanesOf_nodup _) fun _ => lanesOf_lt) (trainedMap_none (lanesOf_nodup _) fun _ => lanesOf_lt))
        obtain ⟨h1, h2⟩ := peered_downed s p dcLanes f
        have hd := isDown_downed (s.peered p f) p dcLanes (by decide)
        rw [if_pos hfew, ht]
        exact ⟨fun q hq => (span_downed_ne _ p _ hq).trans (hpeer q), h1, h2, hd.state, hd.cause⟩
      · rw [if_neg hfew]
        rw [not_or, not_lt, not_lt] at hfew
        obtain ⟨a, ha, ha0, ha8, hai, han⟩ := trainedMap_some (lanesOf_nodup f.rxBad.toNat) (fun _ => lanesOf_lt) hfew.1
        obtain ⟨b, hb, hb0, -⟩ := trainedMap_some (lanesOf_nodup f.txBad.toNat) (fun _ => lanesOf_lt) hfew.2
        have ht : t = (s.peered p f).cameUp p rx tx a b := portTrained_up s p f h hp ha hb
        obtain ⟨h1, h2⟩ := peered_fields s p f
        obtain ⟨k1, k2, k3, k4, k5⟩ := cameUp_up (s.peered p f) p rx tx a b
        rw [ht]
        refine ⟨fun q hq => ?_, (k5 23 6 (by decide) (by decide)).trans h1, (k5 18 5 (by decide) (by decide)).trans h2, k1, ?_,
          fun hr => ?_, fun hr => ?_, fun hr => ?_, fun i hi hr => ?_, fun hr => ?_⟩
        · rw [k2, if_neg hq, hpeer]
        · rw [k2, if_pos rfl]
        · rw [k3, ha0 hr]
          rfl
        · rw [k4, hb0 hr]
          rfl
        · rw [k3, ha8 hr]
          rfl
        · rw [k3, hai i hi hr]
        · rw [k3, han hr]

/-- Settles O49. -/
theorem spanPortsHoldNarrowAndTrain : Obligations.SpanPortsHoldNarrowAndTrain := by
  refine ⟨fun port lane s hw hl => ?_, spareLaneLock_locks, holdTimeout_ends, spanNoPeer_ends, fun port f s hs => ?_⟩
  · have he : exec (.laneLoss port lane) s = .next (laneLoss port.val lane.val s) := rfl
    exact ⟨_, he, Only.ofExec (only_execLaneLoss port lane s) he, laneLoss_spec hw hl rfl⟩
  · have he : exec (.spanPortTrained port f) s = .next (s.portTrained port.val f) := by
      have h : exec (.spanPortTrained port f) s = .next (if s.spanState port.val = 1 then s.portTrained port.val f else s) := rfl
      rw [h, if_pos hs]
    exact ⟨_, he, Only.ofExec (only_execSpanPortTrained port f s) he, portTrained_spec s port.val f⟩

end Sys2Proof.Machine
end

section
/-! The mesh: CRC errors, detours around lost dies, and QUIESCE (R213, R223, R225, R411). -/

namespace Sys2Proof.Machine

/-! ### CRC errors (R213) -/

theorem Reg.fabReplay_off (d : Nat) : (Reg.fabReplay d).off = blk d + 0x200004 := rfl

theorem fabReplay_ne_fabStat (d : Nat) : (Reg.fabReplay d).off ≠ (Reg.fabStat d).off := by
  rw [Reg.fabReplay_off, Reg.fabStat_off]; omega

/-- A replay is counted, shown as an error and asked for. -/
def State.replayAsked (s : State) (d port sub : Nat) : State :=
  ((s.countF (.fabReplay d) 0 32 1).setBit (.fabStat d) 0).emit (.replay d port sub)

theorem reg_emit (s : State) (o : Output) (q : Reg) : (s.emit o).reg q = s.reg q := rfl

theorem regF_fabReplay_setBit (s : State) (d b lo w : Nat) :
    (s.setBit (.fabStat d) b).regF (.fabReplay d) lo w = s.regF (.fabReplay d) lo w :=
  State.regF_setF_ne s _ _ b 1 1 lo w (fabReplay_ne_fabStat d)

section
variable (s : State) (d port sub : Nat)

theorem only_replayAsked : Only [.out] [.fabStat, .fabReplay] s (s.replayAsked d port sub) :=
  only_State_emit _ _ (only_State_setBit _ _ _ (only_State_countF s _ _ _ _ (Only.refl s) (List.elem_iff.mp rfl)) (List.elem_iff.mp rfl))
    (by decide)

theorem regF_replayAsked : (s.replayAsked d port sub).regF (.fabReplay d) 0 32 = min 0xFFFFFFFF (s.regF (.fabReplay d) 0 32 + 1) := by
  have h : ((s.countF (.fabReplay d) 0 32 1).setBit (.fabStat d) 0).regF (.fabReplay d) 0 32 =
      min 0xFFFFFFFF (s.regF (.fabReplay d) 0 32 + 1) := by
    rw [regF_fabReplay_setBit, State.regF_countF _ _ 0 32 1 (by decide)]
    norm_num
  rw [State.replayAsked, State.regF_congr (reg_emit _ _ _), h]

theorem regBit_replayAsked : (s.replayAsked d port sub).regBit (.fabStat d) 0 = true := by
  rw [State.replayAsked, State.regBit_congr (reg_emit _ _ _), State.regBit_setBit _ _ 0 0 (by decide) (by decide)]
  rfl

/-- The other fields of FAB_STAT stay. -/
theorem regF_fabStat_replayAsked : (s.replayAsked d port sub).regF (.fabStat d) 8 8 = s.regF (.fabStat d) 8 8 := by
  have h1 := regF_setBit_zero (s.countF (.fabReplay d) 0 32 1) (.fabStat d) 8 8 (by decide)
  have h2 : (s.countF (.fabReplay d) 0 32 1).regF (.fabStat d) 8 8 = s.regF (.fabStat d) 8 8 :=
    State.regF_setF_ne s _ _ 0 32 _ 8 8 (fabReplay_ne_fabStat d).symm
  rw [State.replayAsked, State.regF_congr (reg_emit _ _ _), h1, h2]

theorem out_emit (u : State) (o : Output) : (u.emit o).out = o :: u.out := rfl

theorem out_replayAsked : (s.replayAsked d port sub).out = .replay d port sub :: s.out := by
  have h : ((s.countF (.fabReplay d) 0 32 1).setBit (.fabStat d) 0).out = s.out :=
    (only_State_setBit (Ps := []) (Ks := [.fabStat, .fabReplay]) _ _ _ (only_State_countF s _ _ _ _ (Only.refl s) (List.elem_iff.mp rfl))
      (List.elem_iff.mp rfl)).part .out (by decide)
  rw [State.replayAsked, out_emit, h]

end

/-- A sub-channel is retired: counted, shown as an error. -/
def State.subRetired (s : State) (d port sub : Nat) : State :=
  ({ s with retiredSubs := s.retiredSubs ++ [subKey d port sub] }.countF (.fabStat d) 8 8 1).setBit (.fabStat d) 0

theorem retireSub_eq {s : State} {d port sub : Nat} (h : subKey d port sub ∉ s.retiredSubs) :
    s.retireSub d port sub = (s.subRetired d port sub).log 0x0040 1 d (domNode d) noTenant (2 ^ (3 - port) + 256 * sub) 0 := by
  rw [State.retireSub]
  exact if_neg (by simpa using h)

section
variable (s : State) (d port sub : Nat)

theorem only_subRetired : Only [.retiredSubs] [.fabStat] s (s.subRetired d port sub) :=
  only_State_setBit _ _ _ (only_State_countF _ _ _ _ _ ((Only.refl s).upd_retiredSubs (by decide)) (List.elem_iff.mp rfl))
    (List.elem_iff.mp rfl)

theorem regF_subRetired : (s.subRetired d port sub).regF (.fabStat d) 8 8 = min 255 (s.regF (.fabStat d) 8 8 + 1) := by
  have hk : ∀ x : List Nat, ({ s with retiredSubs := x }.countF (.fabStat d) 8 8 1).regF (.fabStat d) 8 8 =
      min 255 (s.regF (.fabStat d) 8 8 + 1) := fun x => by
    have hr : ({ s with retiredSubs := x } : State).regF (.fabStat d) 8 8 = s.regF (.fabStat d) 8 8 :=
      State.regF_congr (congrFun (State.reg_congr rfl rfl) _) 8 8
    rw [State.regF_countF _ _ 8 8 1 (by decide), hr]
    norm_num
  rw [State.subRetired, regF_setBit_zero _ _ 8 8 (by decide), hk]

theorem regBit_subRetired : (s.subRetired d port sub).regBit (.fabStat d) 0 = true := by
  rw [State.subRetired, State.regBit_setBit _ _ 0 0 (by decide) (by decide)]
  rfl

theorem retiredSubs_subRetired : (s.subRetired d port sub).retiredSubs = s.retiredSubs ++ [subKey d port sub] := by
  have hk : ∀ u : State, ((u.countF (.fabStat d) 8 8 1).setBit (.fabStat d) 0).retiredSubs = u.retiredSubs := fun u =>
    (only_State_setBit (Ps := []) (Ks := [.fabStat]) _ _ _ (only_State_countF u _ _ _ _ (Only.refl u) (List.elem_iff.mp rfl))
      (List.elem_iff.mp rfl)).part .retiredSubs (by decide)
  exact hk _

end

/-- The sixteenth replay in a row retires its sub-channel. -/
def State.sixteenth (s : State) (d port sub : Nat) : State :=
  if d < 8 then (s.retireSub d port sub).raise (srcTower d 4) else s.retireSub d port sub

theorem sixteenth_retires {s : State} {d port sub : Nat} (h : subKey d port sub ∉ s.retiredSubs) :
    Only [.ic] [] ((s.subRetired d port sub).log 0x0040 1 d (domNode d) noTenant (2 ^ (3 - port) + 256 * sub) 0) (s.sixteenth d port sub) := by
  rw [State.sixteenth, retireSub_eq h]
  split
  · exact only_raise _ _
  · exact Only.refl _

theorem crcError_eq {d port sub e : Nat} {s : State} (last : Bool) (hn : neighbour s.fuses d (port + 1) = some e) (hr : s.running = true)
    (hd : s.dieLost d = false) (he : s.dieLost e = false) (hsub : sub < linkWidth d e) (hret : subKey d port sub ∉ s.retiredSubs) :
    crcError d port sub last s = if last then (s.replayAsked d port sub).sixteenth d port sub else s.replayAsked d port sub := by
  unfold crcError
  rw [hn]
  refine (if_neg ?_).trans ?_
  · simp [hr, hd, he, hsub, hret]
  · cases last <;> rfl

theorem crcError_spec {d port sub e : Nat} {s : State} (last : Bool) (hn : neighbour s.fuses d (port + 1) = some e)
    (hr : s.running = true) (hd : s.dieLost d = false) (he : s.dieLost e = false) (hsub : sub < linkWidth d e)
    (hret : subKey d port sub ∉ s.retiredSubs) :
    let t := crcError d port sub last s
    t.regF (.fabReplay d) 0 32 = min 0xFFFFFFFF (s.regF (.fabReplay d) 0 32 + 1) ∧ t.regBit (.fabStat d) 0 = true ∧
    t.out = .replay d port sub :: s.out ∧
    if last then t.retiredSubs = s.retiredSubs ++ [subKey d port sub] ∧
      t.regF (.fabStat d) 8 8 = min 255 (s.regF (.fabStat d) 8 8 + 1) ∧ Claims.logs s t (Claims.entry s 0x40 1
        (dieField d) (if d < 8 then 0x40 + d else 0x70 + (d - 8)) 0xFFFF (2 ^ (3 - port) + 256 * sub) 0)
    else t.retiredSubs = s.retiredSubs ∧ t.flog0 = s.flog0 ∧ t.flog1 = s.flog1 ∧ t.ic = s.ic := by
  intro t
  have ht : t = if last then (s.replayAsked d port sub).sixteenth d port sub else s.replayAsked d port sub :=
    crcError_eq last hn hr hd he hsub hret
  have hu := only_replayAsked s d port sub
  have h1 := regF_replayAsked s d port sub
  have h2 := regBit_replayAsked s d port sub
  have h3 := out_replayAsked s d port sub
  have h4 := regF_fabStat_replayAsked s d port sub
  rw [ht]
  cases last with
  | false =>
    exact ⟨h1, h2, h3, hu.part .retiredSubs (by decide), hu.part .flog0 (by decide), hu.part .flog1 (by decide),
      hu.part .ic (by decide)⟩
  | true =>
    rw [if_pos rfl, if_pos rfl]
    generalize s.replayAsked d port sub = u at hu h1 h2 h3 h4 ⊢
    have hret' : subKey d port sub ∉ u.retiredSubs := by rwa [hu.part .retiredSubs (by decide)]
    have hv := only_subRetired u d port sub
    have hlog := only_log (u.subRetired d port sub) 0x0040 1 d (domNode d) noTenant (2 ^ (3 - port) + 256 * sub) 0
    have hw := sixteenth_retires hret'
    have hfab : ∀ q : Reg, (u.sixteenth d port sub).reg q = (u.subRetired d port sub).reg q := fun q =>
      (hw.reg_eq q).trans (hlog.reg_eq q)
    refine ⟨?_, ?_, ?_, ?_, ?_, ?_⟩
    · rw [State.regF_congr (hfab _), State.regF_congr (hv.reg_apart _ ?_), h1]
      intro r hr
      have hkind : r.kind = .fabStat := List.mem_singleton.1 hr
      obtain ⟨x, rfl⟩ : ∃ x, r = .fabStat x := by
        cases r <;> cases hkind
        exact ⟨_, rfl⟩
      rw [Reg.fabStat_off, Reg.fabReplay_off, blk, blk]
      omega
    · rw [State.regBit_congr (hfab _), regBit_subRetired]
    · rw [hw.part .out (by decide), hlog.part .out (by decide), hv.part .out (by decide), h3]
    · rw [hw.part .retiredSubs (by decide), hlog.part .retiredSubs (by decide), retiredSubs_subRetired, hu.part .retiredSubs (by decide)]
    · rw [State.regF_congr (hfab _), regF_subRetired, h4]
    · have htb := (hv.part .tb (by decide)).trans (hu.part .tb (by decide))
      have hf0 := (hv.part .flog0 (by decide)).trans (hu.part .flog0 (by decide))
      have hf1 := (hv.part .flog1 (by decide)).trans (hu.part .flog1 (by decide))
      exact logs_after htb hf0 hf1 (hw.part .flog0 (by decide)) (hw.part .flog1 (by decide))

theorem voylaCrcError_spec (die : Fin 12) (port : Fin 4) (sub : BitVec 5) (last : Bool) (e : Nat) (s : State)
    (hn : neighbour s.fuses die.val (port.val + 1) = some e) (hr : s.running = true) (hd : s.dieLost die.val = false)
    (he : s.dieLost e = false) (hsub : sub.toNat < linkWidth die.val e)
    (hret : subKey die.val port.val sub.toNat ∉ s.retiredSubs) :
    let d := die.val
    ∃ t, exec (.voylaCrcError die port sub last) s = .next t ∧
      Only [.out, .retiredSubs, .ic, .flog0, .flog1] [.fabStat, .fabReplay] s t ∧
      t.regF (.fabReplay d) 0 32 = min 0xFFFFFFFF (s.regF (.fabReplay d) 0 32 + 1) ∧ t.regBit (.fabStat d) 0 = true ∧
      t.out = .replay d port.val sub.toNat :: s.out ∧
      if last then t.retiredSubs = s.retiredSubs ++ [subKey d port.val sub.toNat] ∧
        t.regF (.fabStat d) 8 8 = min 255 (s.regF (.fabStat d) 8 8 + 1) ∧ Claims.logs s t (Claims.entry s 0x40 1
          (dieField d) (if d < 8 then 0x40 + d else 0x70 + (d - 8)) 0xFFFF (2 ^ (3 - port.val) + 256 * sub.toNat) 0)
      else t.retiredSubs = s.retiredSubs ∧ t.flog0 = s.flog0 ∧ t.flog1 = s.flog1 ∧ t.ic = s.ic := by
  have hx : exec (.voylaCrcError die port sub last) s = .next (crcError die.val port.val sub.toNat last s) := rfl
  exact ⟨_, hx, Only.ofExec (only_execVoylaCrcError die port sub last s) hx, crcError_spec last hn hr hd he hsub hret⟩

/-! ### QUIESCE (R411) -/

theorem quiesce_spec (node : BitVec 8) (addr : BitVec 48) (tenant : BitVec 10) (s : State)
    (hn : (0x40 ≤ node.toNat ∧ node.toNat < 0x48) ∨ (0x50 ≤ node.toNat ∧ node.toNat < 0x70)) :
    let who := if nbit addr.toNat 2 then none else some tenant.toNat
    ∃ t, exec (.quiesce node addr tenant) s = .next t ∧ Only [.quiesced] [] s t ∧
      (addr.toNat % 4 = 1 → ∀ q, q ∈ t.quiesced ↔ q ∈ s.quiesced ∨ q = (node.toNat, who)) ∧
      (addr.toNat % 4 = 2 → ∀ q, q ∈ t.quiesced ↔ q ∈ s.quiesced ∧ ¬ (q.1 = node.toNat ∧ (who = none ∨ q.2 = who))) ∧
      (addr.toNat % 4 ≠ 1 → addr.toNat % 4 ≠ 2 → t.quiesced = s.quiesced) := by
  intro who
  have hx : exec (.quiesce node addr tenant) s = .next (quiesceNode node.toNat addr.toNat tenant.toNat s) := rfl
  have hgo : quiesceNode node.toNat addr.toNat tenant.toNat s =
      if addr.toNat % 4 = 1 then
        if s.quiesced.contains (node.toNat, who) then s else { s with quiesced := s.quiesced ++ [(node.toNat, who)] }
      else if addr.toNat % 4 = 2 then
        { s with quiesced := s.quiesced.filter fun q => !(q.1 = node.toNat && (who = none || q.2 = who)) }
      else s := by
    unfold quiesceNode
    exact if_neg (by simp; omega)
  refine ⟨_, hx, Only.ofExec (only_execQuiesce node addr tenant s) hx, fun h1 q => ?_, fun h2 q => ?_, fun h1 h2 => ?_⟩
  · rw [hgo, if_pos h1]
    split
    · next hc =>
      refine ⟨.inl, fun h => h.elim id fun hq => ?_⟩
      rw [hq]
      exact List.contains_iff_mem.1 hc
    · exact List.mem_append.trans (or_congr Iff.rfl List.mem_singleton)
  · rw [hgo, if_neg (by omega), if_pos h2]
    refine List.mem_filter.trans (and_congr Iff.rfl ?_)
    rw [Bool.not_eq_true', ← Bool.not_eq_true, Bool.and_eq_true, Bool.or_eq_true]
    simp only [decide_eq_true_eq]
  · rw [hgo, if_neg h1, if_neg h2]

/-! ### Paths around lost dies (R223, R225) -/

theorem neighbour_unreachable (f : Fuses) (d : Nat) : neighbour f d portUnreachable = none := rfl

theorem dimOrder_here {d n : Nat} (h : nodeDie n = some d) : dimOrder d n = portLocal := by
  rw [dimOrder, h]
  simp

theorem neighbour_local (f : Fuses) (d : Nat) : neighbour f d portLocal = none := rfl

theorem dimOrder_lt (d n : Nat) : dimOrder d n < 8 := by
  unfold dimOrder
  repeat' split
  all_goals decide

theorem crossPort_lt (d : Nat) : crossPort d < 8 := by
  unfold crossPort
  split <;> decide

section
variable (s : State) (n : Nat)

/-- A straight path starts at a die that is not lost. -/
theorem straight_live {fuel d : Nat} (h : s.straight n fuel d = true) : s.dieLost d = false := by
  cases fuel with
  | zero => cases h
  | succ fuel =>
    rw [State.straight] at h
    split at h
    · cases h
    · next hd => simpa using hd

/-- The next die of a straight path is not lost. -/
theorem straight_next {fuel d e : Nat} (h : s.straight n fuel d = true) (hn : neighbour s.fuses d (dimOrder d n) = some e) :
    s.dieLost e = false := by
  cases fuel with
  | zero => cases h
  | succ fuel =>
    rw [State.straight] at h
    split at h
    · cases h
    split at h
    · next he =>
      rw [dimOrder_here he, neighbour_local] at hn
      cases hn
    · rw [hn] at h
      exact straight_live s n h

/-- No straight path ends at a lost die. -/
theorem straight_lost (hl : ∀ e, nodeDie n = some e → s.dieLost e = true) (fuel d : Nat) : s.straight n fuel d = false := by
  induction fuel generalizing d with
  | zero => rfl
  | succ fuel ih =>
    rw [State.straight]
    split
    · rfl
    · next hd =>
      split
      · next he => exact absurd (hl d he) hd
      · split
        · exact ih _
        · rfl

/-- The other row leads straight to the node. -/
def State.crosses (s : State) (n d : Nat) : Bool :=
  match neighbour s.fuses d (crossPort d) with
  | some e => s.straight n 12 e
  | none => false

/-- A step along the row toward the node, from which a detour leads on. -/
def State.rowStep (s : State) (n fuel d : Nat) : Option Nat :=
  match neighbour s.fuses d (dimOrder d n) with
  | some e =>
    if (dimOrder d n = portEast || dimOrder d n = portWest) && !s.dieLost e && (s.detour n fuel e).isSome
    then some (dimOrder d n) else none
  | none => none

theorem detour_succ (fuel d : Nat) : s.detour n (fuel + 1) d =
    if s.straight n 12 d then some (dimOrder d n) else if s.crosses n d then some (crossPort d) else s.rowStep n fuel d := rfl

/-- No detour ends there either. -/
theorem detour_lost (hl : ∀ e, nodeDie n = some e → s.dieLost e = true) (fuel d : Nat) : s.detour n fuel d = none := by
  induction fuel generalizing d with
  | zero => rfl
  | succ fuel ih =>
    have hcross : s.crosses n d = false := by
      unfold State.crosses
      split
      · exact straight_lost s n hl _ _
      · rfl
    rw [detour_succ, straight_lost s n hl, hcross, if_neg Bool.false_ne_true, if_neg Bool.false_ne_true, State.rowStep]
    split
    · rw [ih, if_neg]
      simp
    · rfl

/-- The port of a detour is one of a route entry's, and leads to no lost die. -/
theorem detour_safe {fuel d p : Nat} (h : s.detour n fuel d = some p) :
    p < 8 ∧ ∀ e, neighbour s.fuses d p = some e → s.dieLost e = false := by
  cases fuel with
  | zero => cases h
  | succ fuel =>
    rw [detour_succ] at h
    split_ifs at h with hs hc
    · obtain rfl := Option.some.inj h
      exact ⟨dimOrder_lt d n, fun e he => straight_next s n hs he⟩
    · obtain rfl := Option.some.inj h
      refine ⟨crossPort_lt d, fun e he => ?_⟩
      rw [State.crosses, he] at hc
      exact straight_live s n hc
    · unfold State.rowStep at h
      split at h
      · next e he =>
        split_ifs at h with hrow
        obtain rfl := Option.some.inj h
        refine ⟨dimOrder_lt d n, fun x hx => ?_⟩
        obtain rfl := Option.some.inj (he.symm.trans hx)
        simp only [Bool.and_eq_true, Bool.not_eq_true'] at hrow
        exact hrow.1.2
      · cases h

/-- What a route entry's port field says. -/
theorem detourEntry_field (d : Nat) : getF (BitVec.ofNat 64 (s.detourEntry d n)) 0 3 = (s.detour n 12 d).getD portUnreachable := by
  have hmod : ∀ v, getF (BitVec.ofNat 64 v) 0 3 = v % 8 := fun v => by
    rw [getF, BitVec.toNat_ofNat]
    omega
  rw [hmod, State.detourEntry]
  cases h : s.detour n 12 d with
  | none => rfl
  | some p =>
    obtain ⟨hp, -⟩ := detour_safe s n h
    dsimp only [Option.getD_some]
    split <;> omega

end

/-! ### Where no die is lost -/

/-- The present dies' paths in dimension order: a straight path where nothing is lost. -/
def clearPath (f : Fuses) (n : Nat) : Nat → Nat → Bool
  | 0, _ => false
  | fuel + 1, d =>
    if nodeDie n = some d then true
    else
      match neighbour f d (dimOrder d n) with
      | some e => clearPath f n fuel e
      | none => false

theorem neighbour_lt {f : Fuses} {d p e : Nat} (h : neighbour f d p = some e) : e < 12 := by
  have hpres : diePresent f e = true := by
    unfold neighbour at h
    dsimp only at h
    repeat' split at h
    all_goals cases h
    all_goals assumption
  have hio : f.assembly.ioDies ≤ 4 := by cases f.assembly <;> decide
  have := of_decide_eq_true hpres
  omega

theorem straight_clear {s : State} (n : Nat) (hl : ∀ e, e < 12 → s.dieLost e = false) (fuel d : Nat) (hd : d < 12) :
    s.straight n fuel d = clearPath s.fuses n fuel d := by
  induction fuel generalizing d with
  | zero => rfl
  | succ fuel ih =>
    rw [State.straight, clearPath, hl d hd, if_neg Bool.false_ne_true]
    split
    · rfl
    · cases h : neighbour s.fuses d (dimOrder d n) with
      | none => rfl
      | some e => exact ih e (neighbour_lt h)

/-- A node of each die. -/
def dieNode (e : Nat) : Nat := if e < 8 then 0x40 + e else 0x68 + e

theorem clearPath_congr {f g : Fuses} {n m : Nat} (hf : f.assembly = g.assembly) (hn : nodeDie n = nodeDie m) (fuel d : Nat) :
    clearPath f n fuel d = clearPath g m fuel d := by
  induction fuel generalizing d with
  | zero => rfl
  | succ fuel ih =>
    have hdim : dimOrder d n = dimOrder d m := by rw [dimOrder, dimOrder, hn]
    have hnb : ∀ p, neighbour f d p = neighbour g d p := fun p => by
      unfold neighbour diePresent
      rw [hf]
    rw [clearPath, clearPath, hn, hdim, hnb]
    split
    · rfl
    · split
      · exact ih _
      · rfl

/-- Every present die reaches every present die in dimension order, in every assembly. -/
theorem clearPath_reaches (a : Assembly) : ∀ e, e < 12 → ∀ d, d < 12 → diePresent { assembly := a } e = true →
    diePresent { assembly := a } d = true → clearPath { assembly := a } (dieNode e) 12 d = true := by
  cases a <;> decide

theorem nodeDie_dieNode {e : Nat} (h : e < 12) : nodeDie (dieNode e) = some e := by
  have : e = 0 ∨ e = 1 ∨ e = 2 ∨ e = 3 ∨ e = 4 ∨ e = 5 ∨ e = 6 ∨ e = 7 ∨ e = 8 ∨ e = 9 ∨ e = 10 ∨ e = 11 := by omega
  rcases this with rfl | rfl | rfl | rfl | rfl | rfl | rfl | rfl | rfl | rfl | rfl | rfl <;> rfl

theorem nodeDie_lt {n e : Nat} (h : nodeDie n = some e) : e < 12 := by
  unfold nodeDie at h
  split_ifs at h <;> injection h <;> omega

/-- Without lost dies the detour is the dimension order. -/
theorem detour_clear {s : State} {n d e : Nat} (hl : ∀ e, e < 12 → s.dieLost e = false) (hd : d < 12)
    (hdp : diePresent s.fuses d = true) (hn : nodeDie n = some e) (hep : diePresent s.fuses e = true) :
    s.detour n 12 d = some (dimOrder d n) := by
  have he := nodeDie_lt hn
  have hs : s.straight n 12 d = true := by
    rw [straight_clear n hl 12 d hd, clearPath_congr (f := s.fuses) (g := { assembly := s.fuses.assembly }) (m := dieNode e) rfl
      (hn.trans (nodeDie_dieNode he).symm)]
    exact clearPath_reaches s.fuses.assembly e he d hd hep hdp
  rw [detour_succ, hs, if_pos rfl]

/-! ### ROUTE_DETOUR -/

theorem Reg.fabRt_off (d n : Nat) : (Reg.fabRt d n).off = blk d + 0x201000 + n * 4 := rfl

theorem fabRt_off_ne {d e n m : Nat} (hn : n < 0x7A) (hm : m < 0x7A) (h : d ≠ e ∨ n ≠ m) : (Reg.fabRt d n).off ≠ (Reg.fabRt e m).off := by
  rw [Reg.fabRt_off, Reg.fabRt_off, blk, blk]
  omega

/-- What the detours depend on is the same. -/
structure SameMesh (s t : State) : Prop where
  fuses : t.fuses = s.fuses
  lost : t.dieLost = s.dieLost

theorem SameMesh.trans {s t u : State} (h : SameMesh s t) (k : SameMesh t u) : SameMesh s u :=
  ⟨k.fuses.trans h.fuses, k.lost.trans h.lost⟩

section
variable {s t : State} (h : SameMesh s t)
include h

theorem straight_congr (n fuel d : Nat) : t.straight n fuel d = s.straight n fuel d := by
  induction fuel generalizing d with
  | zero => rfl
  | succ fuel ih =>
    rw [State.straight, State.straight, h.fuses, h.lost]
    simp only [ih]

theorem detour_congr (n fuel d : Nat) : t.detour n fuel d = s.detour n fuel d := by
  induction fuel generalizing d with
  | zero => rfl
  | succ fuel ih =>
    rw [detour_succ, detour_succ, State.crosses, State.crosses, State.rowStep, State.rowStep, h.fuses, h.lost]
    simp only [ih, straight_congr h]

theorem detourPath_congr (n fuel d : Nat) : t.detourPath n fuel d = s.detourPath n fuel d := by
  induction fuel generalizing d with
  | zero => rfl
  | succ fuel ih =>
    rw [State.detourPath, State.detourPath, h.fuses]
    simp only [ih, detour_congr h]

theorem detourEntry_congr (d n : Nat) : t.detourEntry d n = s.detourEntry d n := by
  rw [State.detourEntry, State.detourEntry, detour_congr h, detourPath_congr h]

end

/-- One route entry is written. -/
def State.detourRoute (s : State) (d n : Nat) : State := s.setReg (.fabRt d n) (BitVec.ofNat 64 (s.detourEntry d n))

theorem sameMesh_setReg (s : State) (r : Reg) (v : DWord) : SameMesh s (s.setReg r v) := ⟨rfl, rfl⟩

theorem sameMesh_detourRoute (s : State) (d n : Nat) : SameMesh s (s.detourRoute d n) := sameMesh_setReg s _ _

theorem reg_detourRoute_ne (s : State) {d e n m : Nat} (hn : n < 0x7A) (hm : m < 0x7A) (h : d ≠ e ∨ n ≠ m) :
    (s.detourRoute e m).reg (.fabRt d n) = s.reg (.fabRt d n) := State.reg_setReg_ne _ _ _ _ (fabRt_off_ne hn hm h)

/-- A crossbar's entries for the listed nodes are written. -/
def State.detourRoutes (s : State) (nodes : List Nat) (d : Nat) : State := nodes.foldl (fun s n => s.detourRoute d n) s

theorem sameMesh_detourRoutes (s : State) (nodes : List Nat) (d : Nat) : SameMesh s (s.detourRoutes nodes d) :=
  foldl_keeps (SameMesh s) _ _ _ ⟨rfl, rfl⟩ fun x n _ hx => hx.trans (sameMesh_detourRoute x d n)

theorem reg_detourRoutes_ne (s : State) {nodes : List Nat} (hnodes : ∀ m, m ∈ nodes → m < 0x7A) {d e n : Nat} (hn : n < 0x7A)
    (h : d ≠ e ∨ n ∉ nodes) : (s.detourRoutes nodes e).reg (.fabRt d n) = s.reg (.fabRt d n) :=
  foldl_reading (fun x : State => x.reg (.fabRt d n)) _ _ _ fun x _ hm =>
    reg_detourRoute_ne x hn (hnodes _ hm) (h.imp id fun hno hk => hno (hk ▸ hm))

theorem reg_detourRoutes (s : State) {nodes : List Nat} (hnodes : ∀ m, m ∈ nodes → m < 0x7A) (hnd : nodes.Nodup) {d n : Nat}
    (hn : n ∈ nodes) : (s.detourRoutes nodes d).reg (.fabRt d n) = BitVec.ofNat 64 (s.detourEntry d n) := by
  refine foldl_turn (SameMesh s) (fun x : State => x.reg (.fabRt d n) = BitVec.ofNat 64 (s.detourEntry d n)) _ _ s n hn hnd
    (fun x m _ hx => hx.trans (sameMesh_detourRoute x d m)) (fun x hx => ?_) (fun x m hm hx => ?_) ⟨rfl, rfl⟩
  · rw [State.detourRoute, State.reg_setReg_same, detourEntry_congr hx]
  · by_cases hlt : m < 0x7A
    · exact (reg_detourRoute_ne x (hnodes n hn) hlt (.inr (Ne.symm hm))).trans hx
    · rw [State.detourRoute, State.reg_setReg_ne, hx]
      have := hnodes n hn
      rw [Reg.fabRt_off, Reg.fabRt_off, blk]
      omega

/-- The nodes of present dies. -/
def State.meshNodes (s : State) : List Nat :=
  (List.range 0x7A).filter fun n => match nodeDie n with
    | some e => diePresent s.fuses e
    | none => false

/-- The crossbars that live. -/
def State.liveDies (s : State) : List Nat := (List.range 12).filter fun d => diePresent s.fuses d && !s.dieLost d

theorem routeDetour_eq {s : State} (h : s.alive = true) :
    routeDetour s = s.liveDies.foldl (fun x d => x.detourRoutes s.meshNodes d) s := by
  unfold routeDetour
  exact if_neg (by rw [h]; exact Bool.false_ne_true)

theorem meshNodes_lt {s : State} {m : Nat} (h : m ∈ s.meshNodes) : m < 0x7A := List.mem_range.1 (List.mem_filter.1 h).1

/-- A live crossbar's entry for a node of a present die holds its detour. -/
theorem reg_routeDetour {s : State} (ha : s.alive = true) {d n : Nat} (hd : d ∈ s.liveDies) (hn : n ∈ s.meshNodes) :
    (routeDetour s).reg (.fabRt d n) = BitVec.ofNat 64 (s.detourEntry d n) := by
  have hnd : s.meshNodes.Nodup := List.nodup_range.filter _
  rw [routeDetour_eq ha]
  refine foldl_turn (SameMesh s) (fun x : State => x.reg (.fabRt d n) = BitVec.ofNat 64 (s.detourEntry d n)) _ _ s d hd
    (List.nodup_range.filter _) (fun x e _ hx => hx.trans (sameMesh_detourRoutes x _ e)) (fun x hx => ?_) (fun x e he hx => ?_) ⟨rfl, rfl⟩
  · rw [reg_detourRoutes x (fun _ => meshNodes_lt) hnd hn, detourEntry_congr hx]
  · exact (reg_detourRoutes_ne x (fun _ => meshNodes_lt) (meshNodes_lt hn) (.inl (Ne.symm he))).trans hx

/-- Every other entry stays. -/
theorem reg_routeDetour_ne {s : State} (ha : s.alive = true) {d n : Nat} (hn : n < 0x7A) (h : d ∉ s.liveDies ∨ n ∉ s.meshNodes) :
    (routeDetour s).reg (.fabRt d n) = s.reg (.fabRt d n) := by
  rw [routeDetour_eq ha]
  exact foldl_reading (fun x : State => x.reg (.fabRt d n)) _ _ _ fun x e he =>
    reg_detourRoutes_ne x (fun _ => meshNodes_lt) hn (h.imp (fun hno hk => hno (hk ▸ he)) id)

theorem ite_of_bool {b : Bool} {A B : Prop} (h1 : b = true → A) (h2 : b = false → B) : if b then A else B := by
  cases b
  · exact h2 rfl
  · exact h1 rfl

theorem routeDetour_spec (s : State) (ha : s.alive = true) : ∃ t, exec .routeDetour s = .next t ∧ Only [] [.fabRt] s t ∧
    ∀ d n, d < 12 → n < 0x7A →
      if diePresent s.fuses d && !s.dieLost d && (match nodeDie n with
          | some e => diePresent s.fuses e
          | none => false) then
        ((∀ e, e < 12 → s.dieLost e = false) → t.regF (.fabRt d n) 0 3 = dimOrder d n) ∧
        (s.dieLost ((nodeDie n).getD 0) = true → t.regF (.fabRt d n) 0 3 = 7) ∧
        ∀ e, neighbour s.fuses d (t.regF (.fabRt d n) 0 3) = some e → s.dieLost e = false
      else t.reg (.fabRt d n) = s.reg (.fabRt d n) := by
  have hx : exec .routeDetour s = .next (routeDetour s) := rfl
  refine ⟨_, hx, Only.ofExec (only_execRouteDetour s) hx, fun d n hd hn => ?_⟩
  have hlive : d ∈ s.liveDies ↔ (diePresent s.fuses d && !s.dieLost d) = true := by
    rw [State.liveDies, List.mem_filter, List.mem_range]
    exact and_iff_right hd
  have hnode : n ∈ s.meshNodes ↔ (match nodeDie n with
      | some e => diePresent s.fuses e
      | none => false) = true := by
    rw [State.meshNodes, List.mem_filter, List.mem_range]
    exact and_iff_right hn
  refine ite_of_bool (fun hc => ?_) fun hc => ?_
  · obtain ⟨hc1, hc2⟩ := Bool.and_eq_true_iff.1 hc
    have hf : (routeDetour s).regF (.fabRt d n) 0 3 = (s.detour n 12 d).getD portUnreachable := by
      rw [State.regF, reg_routeDetour ha (hlive.2 hc1) (hnode.2 hc2), detourEntry_field]
    rw [hf]
    obtain ⟨e, he⟩ : ∃ e, nodeDie n = some e := by
      cases h : nodeDie n with
      | none => rw [h] at hc2; cases hc2
      | some e => exact ⟨e, rfl⟩
    rw [he] at hc2
    refine ⟨fun hl => ?_, fun hl => ?_, fun x hx => ?_⟩
    · rw [detour_clear hl hd (Bool.and_eq_true_iff.1 hc1).1 he hc2]
      rfl
    · rw [detour_lost s n (fun y hy => by rw [hy] at hl; exact hl)]
      rfl
    · cases hp : s.detour n 12 d with
      | none =>
        rw [hp] at hx
        cases hx
      | some p =>
        rw [hp] at hx
        exact (detour_safe s n hp).2 x hx
  · refine reg_routeDetour_ne ha hn ?_
    rw [hlive, hnode]
    by_cases h1 : (diePresent s.fuses d && !s.dieLost d) = true
    · exact .inr fun h2 => Bool.false_ne_true (hc.symm.trans (Bool.and_eq_true_iff.2 ⟨h1, h2⟩))
    · exact .inl h1

/-- Settles O53. -/
theorem replaysDetoursAndQuiesce : Obligations.ReplaysDetoursAndQuiesce := ⟨voylaCrcError_spec, routeDetour_spec, quiesce_spec⟩

end Sys2Proof.Machine
end

section
/-! Heartbeats and failover (R282, R283, R364). -/

namespace Sys2Proof.Machine

/-! ### A fatal bit -/

/-- R288: a risen bit joins the others of MB_FATAL. -/
theorem nbit_fatal_setFatal (s : State) (b i : Nat) : nbit (s.setFatal b).fatal i = (nbit s.fatal i || i = b) := by
  by_cases h : nbit s.fatal b = true
  · rw [State.setFatal, if_pos h]
    by_cases hi : i = b
    · rw [hi, h]; rfl
    · simp [hi]
  · rw [State.setFatal, if_neg h]
    exact nbit_add_two_pow _ _ _ (Bool.not_eq_true _ ▸ h)

theorem only_setFatal (s : State) (b : Nat) : Only [.fatal, .mbox] [] s (s.setFatal b) :=
  only_State_setFatal s b (Only.refl s) (List.Subset.refl _)

theorem logs_setFatal (s : State) (b code sev die node tenant d0 d1 : Nat) :
    Claims.logs s ((s.setFatal b).log code sev die node tenant d0 d1) (Claims.entry s code sev (dieField die) node tenant d0 d1) :=
  have h := only_setFatal s b
  logs_after (h.part .tb (by decide)) (h.part .flog0 (by decide)) (h.part .flog1 (by decide)) rfl rfl

theorem fatal_log_setFatal (s : State) (b code sev die node tenant d0 d1 i : Nat) :
    nbit ((s.setFatal b).log code sev die node tenant d0 d1).fatal i = (nbit s.fatal i || i = b) :=
  (congrArg (nbit · i) ((only_log (s.setFatal b) code sev die node tenant d0 d1).part .fatal (by decide))).trans
    (nbit_fatal_setFatal s b i)

/-! ### The controller's switch (R364) -/

/-- A source that is active on a target of the lost complex becomes pending. -/
def Src.handedOver (x : Src) : Src :=
  match x.mode with
  | .active t => if t < 4 then { x with mode := .pending } else x
  | _ => x

theorem Src.handedOver_active {x : Src} {a : Nat} (h : x.mode = .active a) :
    x.handedOver.mode = if a < 4 then .pending else .active a := by
  rw [Src.handedOver, h]
  dsimp only
  split
  · rfl
  · exact h

theorem IC.srcs_failover (c : IC) : c.failover.srcs = c.srcs.map fun x => (x.1, x.2.handedOver) := by
  change c.srcs.map _ = _
  refine List.map_congr_left fun x _ => ?_
  obtain ⟨n, x⟩ := x
  cases h : x.mode with
  | active t => by_cases ht : t < 4 <;> simp [Src.handedOver, h, ht]
  | _ => simp [Src.handedOver, h]

/-- A value that is not the default is read through a change of every entry. -/
theorem look_map_of_ne {α : Type} (d : Nat → α) (f : α → α) (m : List (Nat × α)) (k : Nat) (h : look d m k ≠ d k) :
    look d (m.map fun x => (x.1, f x.2)) k = f (look d m k) := by
  induction m with
  | nil => exact absurd rfl h
  | cons c m ih =>
    obtain ⟨k', v'⟩ := c
    by_cases hk : k = k'
    · simp [look, hk]
    · simp only [look, List.map_cons, if_neg hk] at h ⊢
      exact ih h

theorem IC.src_failover {c : IC} {n a : Nat} (h : (c.src n).mode = .active a) :
    (c.failover.src n).mode = if a < 4 then .pending else .active a := by
  rw [IC.src, IC.srcs_failover, look_map_of_ne]
  · exact Src.handedOver_active h
  · intro he
    rw [IC.src, he] at h
    cases h

theorem IC.tgtEn_failover (c : IC) {b : Nat} (hb : b < 8) : nbit c.failover.tgtEn b = decide (4 ≤ b) := by
  have h : c.failover.tgtEn = Nat.lor (c.tgtEn / 2 ^ 4 * 2 ^ 4 % 2 ^ 8) 0xF0 := rfl
  rw [h, nbit_lor, nbit_mod, nbit_testBit (_ * _), nbit_testBit 0xF0, Nat.testBit_mul_two_pow]
  by_cases h4 : 4 ≤ b
  · obtain rfl | rfl | rfl | rfl : b = 4 ∨ b = 5 ∨ b = 6 ∨ b = 7 := by omega
    all_goals simp [Nat.testBit]
  · obtain rfl | rfl | rfl | rfl : b = 0 ∨ b = 1 ∨ b = 2 ∨ b = 3 := by omega
    all_goals simp [Nat.testBit]

/-! ### Mailboxes pass to the standby complex (R324) -/

theorem mem_put {α : Type} [DecidableEq α] {d : Nat → α} {m : List (Nat × α)} {k : Nat} {v : α} {x : Nat × α}
    (h : x ∈ put d m k v) : x = (k, v) ∨ x ∈ m := by
  unfold put at h
  split at h
  · exact Or.inr (mem_of_mem_removeKey h)
  · exact mem_insertKey k v m x h

/-- No held lease of a segment or job is a processor's. -/
def LeasesOfTenants (s : State) : Prop := ∀ y, y ∈ s.leases → y.2.held = true → y.1 < 18432 → y.2.owner < 0x800

/-- A mailbox's lease is held by the first processor of the standby complex. -/
def ServedByStandby (s : State) (n : Nat) : Prop := (s.leaseAt n).held = true ∧ (s.leaseAt n).owner = 0x804

/-- The step that passes mailbox lease `n` from processor `o` to the standby complex. -/
def State.passMailbox (o : Nat) (s : State) (n : Nat) : State :=
  (s.revokeLease n).setLease n { (s.revokeLease n).leaseAt n with held := true, owner := takeOver true o }

theorem LeasesOfTenants.setLease {s : State} (h : LeasesOfTenants s) {n : Nat} (hn : 18432 ≤ n) (x : Lease) :
    LeasesOfTenants (s.setLease n x) := fun y hy hh hk => by
  rcases mem_put (show y ∈ put (fun _ => {}) s.leases n x from hy) with e | hm
  · exact absurd hk (by rw [e]; exact Nat.not_lt.2 hn)
  · exact h y hm hh hk

theorem LeasesOfTenants.passMailbox {s : State} (h : LeasesOfTenants s) {n : Nat} (hn : 18432 ≤ n) (o : Nat) :
    LeasesOfTenants (State.passMailbox o s n) :=
  (LeasesOfTenants.setLease h hn _).setLease hn _

theorem leaseAt_passMailbox_ne (s : State) (o : Nat) {n m : Nat} (h : m ≠ n) :
    (s.passMailbox o n).leaseAt m = s.leaseAt m := by
  rw [State.passMailbox, State.leaseAt_setLease, if_neg h, State.revokeLease, State.leaseAt_setLease, if_neg h]

theorem served_passMailbox (s : State) {o : Nat} (ho : o < 0x804) (n : Nat) : ServedByStandby (s.passMailbox o n) n := by
  rw [ServedByStandby, State.passMailbox, State.leaseAt_setLease, if_pos rfl]
  exact ⟨rfl, if_neg (show ¬ o = 0x804 by omega)⟩

theorem mem_heldBy {s : State} {o n : Nat} : n ∈ s.heldBy o ↔ ∃ x, (n, x) ∈ s.leases ∧ x.held = true ∧ x.owner = o := by
  rw [State.heldBy, List.mem_map]
  constructor
  · rintro ⟨⟨m, x⟩, hx, rfl⟩
    obtain ⟨hm, hb⟩ := List.mem_filter.1 hx
    exact ⟨x, hm, by simpa using hb⟩
  · rintro ⟨x, hm, hh, ho⟩
    exact ⟨(n, x), List.mem_filter.2 ⟨hm, by simp [hh, ho]⟩, rfl⟩

theorem mem_heldBy_of_leaseAt {s : State} {o n : Nat} (hh : (s.leaseAt n).held = true) (ho : (s.leaseAt n).owner = o) :
    n ∈ s.heldBy o := by
  refine mem_heldBy.2 ⟨s.leaseAt n, (look_mem_or _ s.leases n).resolve_left fun he => ?_, hh, ho⟩
  rw [State.leaseAt, he] at hh
  cases hh

/-- A fold whose steps agree with others on its elements. -/
theorem foldl_congr_mem {σ α : Type} {f g : σ → α → σ} {l : List α} (init : σ) (h : ∀ x a, a ∈ l → f x a = g x a) :
    l.foldl f init = l.foldl g init := by
  induction l generalizing init with
  | nil => rfl
  | cons a l ih =>
    rw [List.foldl_cons, List.foldl_cons, h _ _ (List.mem_cons_self ..)]
    exact ih _ fun x b hb => h x b (List.mem_cons_of_mem _ hb)

/-- A processor that holds no segment's and no job's lease loses its mailboxes alone. -/
theorem revokeAll_mailboxes {s : State} (h : LeasesOfTenants s) {o : Nat} (ho : 0x800 ≤ o) :
    (∀ n, n ∈ s.heldBy o → 18432 ≤ n) ∧ s.revokeAll o true false = (s.heldBy o).foldl (State.passMailbox o) s := by
  have hn : ∀ n, n ∈ s.heldBy o → 18432 ≤ n := fun n hn => by
    obtain ⟨x, hm, hh, hx⟩ := mem_heldBy.1 hn
    have := h _ hm hh
    simp only [hx] at this
    omega
  refine ⟨hn, foldl_congr_mem s fun x n hm => ?_⟩
  have hl := hn n hm
  rw [if_neg (show ¬ n < 16384 by omega), if_neg (show ¬ n < 18432 by omega)]
  rfl

theorem leases_revokeAll {s : State} (h : LeasesOfTenants s) {o : Nat} (ho : 0x800 ≤ o) (ho4 : o < 0x804) :
    LeasesOfTenants (s.revokeAll o true false) ∧
    (∀ n, ServedByStandby (s.revokeAll o true false) n ∨ (s.revokeAll o true false).leaseAt n = s.leaseAt n) ∧
    ∀ n, (s.leaseAt n).held = true → (s.leaseAt n).owner = o → ServedByStandby (s.revokeAll o true false) n := by
  obtain ⟨hn, he⟩ := revokeAll_mailboxes h ho
  have hkeep : ∀ (x : State) (a b : Nat), ServedByStandby x a → ServedByStandby (x.passMailbox o b) a := fun x a b hx => by
    by_cases hab : a = b
    · exact hab ▸ served_passMailbox x ho4 a
    · rw [ServedByStandby, leaseAt_passMailbox_ne x o hab]
      exact hx
  rw [he]
  refine ⟨foldl_keeps LeasesOfTenants _ _ s h fun x n hm hx => LeasesOfTenants.passMailbox hx (hn n hm) o, fun n => ?_,
    fun n hh hx => foldl_establishes (fun n x => ServedByStandby x n) _ _ s (fun x n _ => served_passMailbox x ho4 n)
      (fun x a b _ _ hx => hkeep x a b hx) n (mem_heldBy_of_leaseAt hh hx)⟩
  refine foldl_keeps (fun x => ServedByStandby x n ∨ x.leaseAt n = s.leaseAt n) _ _ s (Or.inr rfl) fun x b _ hx => ?_
  by_cases hb : n = b
  · exact Or.inl (hb ▸ served_passMailbox x ho4 n)
  · exact hx.imp (hkeep x n b) (leaseAt_passMailbox_ne x o hb).trans

/-- The mailboxes of the first `k` processors of the lost complex have passed. -/
theorem leases_revokeProcessors {s : State} (h : LeasesOfTenants s) {k : Nat} (hk : k ≤ 4) :
    LeasesOfTenants ((List.range k).foldl (fun s i => s.revokeAll (0x800 + i) true false) s) ∧
    (∀ n, ServedByStandby ((List.range k).foldl (fun s i => s.revokeAll (0x800 + i) true false) s) n ∨
      ((List.range k).foldl (fun s i => s.revokeAll (0x800 + i) true false) s).leaseAt n = s.leaseAt n) ∧
    ∀ n, (s.leaseAt n).held = true → 0x800 ≤ (s.leaseAt n).owner → (s.leaseAt n).owner < 0x800 + k →
      ServedByStandby ((List.range k).foldl (fun s i => s.revokeAll (0x800 + i) true false) s) n := by
  induction k with
  | zero => exact ⟨h, fun n => Or.inr rfl, fun n _ h1 h2 => absurd h2 (by omega)⟩
  | succ k ih =>
    rw [List.range_succ, List.foldl_append]
    obtain ⟨hl, hor, hs⟩ := ih (by omega)
    generalize (List.range k).foldl (fun s i => s.revokeAll (0x800 + i) true false) s = u at hl hor hs ⊢
    obtain ⟨hl', hor', hs'⟩ := leases_revokeAll hl (o := 0x800 + k) (by omega) (by omega)
    have hserved : ∀ n, ServedByStandby u n → ServedByStandby (u.revokeAll (0x800 + k) true false) n := fun n hu =>
      (hor' n).elim id fun he => by rw [ServedByStandby, he]; exact hu
    refine ⟨hl', fun n => (hor n).elim (fun hu => Or.inl (hserved n hu)) fun he => (hor' n).imp_right (·.trans he),
      fun n hh h1 h2 => ?_⟩
    by_cases hlast : (s.leaseAt n).owner = 0x800 + k
    · refine (hor n).elim (hserved n) fun he => hs' n (he ▸ hh) (he ▸ hlast)
    · exact hserved n (hs n hh h1 (by omega))

/-! ### The commands -/

theorem silent_some {now t0 : Nat} {h : Option Nat} (hb : h = some t0) (ht : t0 + 2000000 ≤ now) : silent now h = true := by
  rw [hb]
  exact decide_eq_true ht

theorem not_silent_none {now : Nat} {h : Option Nat} (hb : h = none) : ¬ silent now h = true := by
  rw [hb]
  exact Bool.false_ne_true

theorem not_silent_some {now t0 : Nat} {h : Option Nat} (hb : h = some t0) (ht : now < t0 + 2000000) : ¬ silent now h = true := by
  rw [hb]
  exact fun h => absurd (of_decide_eq_true h) (Nat.not_le.2 ht)

theorem heartbeatReload_spec (s : State) (ha : s.alive = true) : ∃ t, exec .heartbeatReload s = .next t ∧
    Only [.hbActive, .hbStandby] [] s t ∧ t.hbStandby = (if s.standby then some s.now else s.hbStandby) ∧
    t.hbActive = (if s.standby then s.hbActive else some s.now) := by
  have he : exec .heartbeatReload s = .next (heartbeatReload s) := rfl
  refine ⟨_, he, Only.ofExec (only_execHeartbeatReload s) he, ?_⟩
  rw [heartbeatReload, if_neg (by simp [ha])]
  cases s.standby
  · exact ⟨rfl, rfl⟩
  · exact ⟨rfl, rfl⟩

/-- The fatal vector has been asked for and the loss of the active complex is logged. -/
def State.primaryLost (s : State) : State := (s.setFatal fatPrimary).log 0x0080 4 8 0x70 noTenant 1 0

theorem exec_heartbeatTimeout (s : State) (h : silent s.now s.hbActive = true) :
    exec .heartbeatTimeout s = .next { s.primaryLost with
      ic := s.primaryLost.ic.failover, alive := false, hbActive := none, hbStandby := some s.now } :=
  congrArg Host.Outcome.next (if_pos h)

theorem heartbeatTimeout_spec (s : State) (t0 : Nat) (hb : s.hbActive = some t0) (ht : t0 + 2000000 ≤ s.now) :
    ∃ t, exec .heartbeatTimeout s = .next t ∧
      Only [.ic, .flog0, .flog1, .fatal, .mbox, .alive, .hbActive, .hbStandby] [] s t ∧ t.alive = false ∧ t.hbActive = none ∧
      t.hbStandby = some s.now ∧ (∀ b, nbit t.fatal b = (nbit s.fatal b || b = fatPrimary)) ∧
      Claims.logs s t (Claims.entry s 0x80 4 0x10 0x70 0xFFFF 1 0) ∧
      (∀ b, b < 8 → nbit t.ic.tgtEn b = decide (4 ≤ b)) ∧
      ∀ n a, (s.ic.src n).mode = .active a → (t.ic.src n).mode = (if a < 4 then .pending else .active a) := by
  have he := exec_heartbeatTimeout s (silent_some hb ht)
  have hic : s.primaryLost.ic = s.ic := ((only_log (s.setFatal fatPrimary) 0x0080 4 8 0x70 noTenant 1 0).part .ic (by decide)).trans
    ((only_setFatal s fatPrimary).part .ic (by decide))
  refine ⟨_, he, Only.ofExec (only_execHeartbeatTimeout s) he, rfl, rfl, rfl, fatal_log_setFatal s fatPrimary 0x0080 4 8 0x70 noTenant 1 0,
    logs_setFatal s fatPrimary 0x0080 4 8 0x70 noTenant 1 0, fun b hbit => IC.tgtEn_failover _ hbit, fun n a hm => IC.src_failover ?_⟩
  rw [hic]
  exact hm

theorem standbyHeartbeatTimeout_spec (s : State) (t0 : Nat) (hb : s.hbStandby = some t0) (ht : t0 + 2000000 ≤ s.now) :
    ∃ t, exec .standbyHeartbeatTimeout s = .next t ∧
      Only [.flog0, .flog1, .fatal, .mbox, .alive, .hbStandby, .fwDead] [] s t ∧ t.alive = false ∧ t.fwDead = true ∧
      t.hbStandby = none ∧ (∀ b, nbit t.fatal b = (nbit s.fatal b || b = fatFirmware)) ∧
      Claims.logs s t (Claims.entry s 0x80 4 0x11 0x71 0xFFFF 2 0) := by
  have he : exec .standbyHeartbeatTimeout s = .next { (s.setFatal fatFirmware).log 0x0080 4 9 0x71 noTenant 2 0 with
      alive := false, hbStandby := none, fwDead := true } := congrArg Host.Outcome.next (if_pos (silent_some hb ht))
  exact ⟨_, he, Only.ofExec (only_execStandbyHeartbeatTimeout s) he, rfl, rfl, rfl,
    fatal_log_setFatal s fatFirmware 0x0080 4 9 0x71 noTenant 2 0,
    logs_setFatal s fatFirmware 0x0080 4 9 0x71 noTenant 2 0⟩

/-- The standby complex serves, and counts the failover. -/
def State.standbyServing (s : State) : State :=
  { s with alive := true, standby := true, hbStandby := some s.now, failovers := satAdd 0xFF s.failovers 1 }

/-- The standby complex has taken over the lost complex's mailboxes. -/
def State.tookOver (s : State) : State :=
  (List.range 4).foldl (fun s i => s.revokeAll (0x800 + i) true false) s.standbyServing

/-- The standby complex publishes the record again if there was one. -/
def State.republished (s : State) : State := if s.published then s.publishRecord else s

theorem only_republished (s : State) : Only [.fplan, .fpDirty, .published, .mbox] [] s s.republished := by
  unfold State.republished
  split
  · exact only_State_publishRecord s (Only.refl s) (List.Subset.refl _)
  · exact (Only.refl s).mono (List.nil_subset _) (List.nil_subset _)

theorem only_notifyAll (s : State) (kind tag subject : Nat) (detail : List Byte) :
    Only [.mbox] [] s (s.notifyAll kind tag subject detail) :=
  only_State_notifyAll s kind tag subject detail (Only.refl s) (List.Subset.refl _)

theorem only_tookOver (s : State) : Only [.mbox, .segs, .keys, .leases, .engines, .xfers, .zeroing, .progress, .watchdogs] []
    s.standbyServing s.tookOver :=
  Only.fold _ _ _ (Only.refl _) fun x i hx => only_State_revokeAll x (0x800 + i) true false hx (by decide)

theorem failover_spec (s : State) (ha : s.alive = false) (hf : s.fwDead = false) (hb : s.hbStandby ≠ none)
    (hd : (s.dom 9).state = .on) : ∃ t, exec .failover s = .next t ∧
      Only [.fplan, .fpDirty, .published, .mbox, .alive, .standby, .hbStandby, .failovers, .segs, .keys, .leases, .engines, .xfers,
        .zeroing, .progress, .watchdogs] [] s t ∧
      t.alive = true ∧ t.standby = true ∧ t.hbStandby = some s.now ∧ t.failovers = min 0xFF (s.failovers + 1) ∧
      ((∀ y, y ∈ s.leases → y.2.held = true → y.1 < 18432 → y.2.owner < 0x800) → ∀ n, 18432 ≤ n → (s.leaseAt n).held = true →
        0x800 ≤ (s.leaseAt n).owner → (s.leaseAt n).owner < 0x804 →
        (t.leaseAt n).held = true ∧ (t.leaseAt n).owner = 0x804) := by
  have he : exec .failover s = .next (s.tookOver.republished.notifyAll noticeFailover 0 s.tookOver.republished.failovers []) :=
    congrArg Host.Outcome.next (if_neg (by simp [ha, hf, hd, Option.isNone_iff_eq_none, hb]))
  have hx := Only.ofExec (only_execFailover s) he
  have h1 := only_tookOver s
  have h2 := only_republished s.tookOver
  have h3 := only_notifyAll s.tookOver.republished noticeFailover 0 s.tookOver.republished.failovers []
  generalize s.tookOver.republished.notifyAll noticeFailover 0 s.tookOver.republished.failovers [] = t at he hx h3
  refine ⟨t, he, hx, (h3.part .alive (by decide)).trans ((h2.part .alive (by decide)).trans (h1.part .alive (by decide))),
    (h3.part .standby (by decide)).trans ((h2.part .standby (by decide)).trans (h1.part .standby (by decide))),
    (h3.part .hbStandby (by decide)).trans ((h2.part .hbStandby (by decide)).trans (h1.part .hbStandby (by decide))),
    (h3.part .failovers (by decide)).trans ((h2.part .failovers (by decide)).trans (h1.part .failovers (by decide))),
    fun hl n _ hh h0 h4 => ?_⟩
  have hleases : t.leases = s.tookOver.leases := (h3.part .leases (by decide)).trans (h2.part .leases (by decide))
  rw [State.leaseAt, hleases]
  exact (leases_revokeProcessors (s := s.standbyServing) hl (Nat.le_refl 4)).2.2 n hh h0 h4

theorem failover_idle (s : State) (h : s.alive = true ∨ s.fwDead = true ∨ s.hbStandby = none ∨ (s.dom 9).state ≠ .on) :
    exec .failover s = .next s := by
  refine congrArg Host.Outcome.next (if_pos ?_)
  rcases h with h | h | h | h
  all_goals simp [h]

/-- Settles O56. -/
theorem heartbeatsAndFailover : Obligations.HeartbeatsAndFailover := fun s =>
  ⟨fun ha => congrArg Host.Outcome.next (if_pos (by simp [ha])), heartbeatReload_spec s, heartbeatTimeout_spec s,
    fun hb => congrArg Host.Outcome.next (if_neg (not_silent_none hb)),
    fun _ hb ht => congrArg Host.Outcome.next (if_neg (not_silent_some hb ht)), failover_idle s, failover_spec s,
    standbyHeartbeatTimeout_spec s, fun hb => congrArg Host.Outcome.next (if_neg (not_silent_none hb))⟩

end Sys2Proof.Machine
end

section
/-! Bed control, mode, limits, fences and refresh (R48, R49, R139 to R147, R150, R358). -/

namespace Sys2Proof.Machine

/-! ### What a plain write leaves in a register -/

/-- The bits of a written word that a mask lets through, and the others as before. -/
def keptBits (m : Nat) (old w : DWord) : DWord := (old &&& ~~~(BitVec.ofNat 64 m)) ||| (w &&& BitVec.ofNat 64 m)

theorem getF_keptBits (old w : DWord) {m lo k : Nat} (hm : ∀ i, i < k → (BitVec.ofNat 64 m).toNat.testBit (lo + i) = true) :
    getF (keptBits m old w) lo k = getF w lo k := getF_masked old w m lo k hm

theorem getF_keptBits_outside (old w : DWord) {m lo k : Nat} (h64 : lo + k ≤ 64)
    (hm : ∀ i, i < k → (BitVec.ofNat 64 m).toNat.testBit (lo + i) = false) :
    getF (keptBits m old w) lo k = getF old lo k := by
  refine Nat.eq_of_testBit_eq fun i => ?_
  rw [getF, getF, Nat.testBit_mod_two_pow, Nat.testBit_mod_two_pow, Nat.testBit_div_two_pow, Nat.testBit_div_two_pow]
  by_cases hi : i < k
  · have hbit := hm i hi
    rw [Nat.add_comm i lo, BitVec.testBit_toNat, BitVec.testBit_toNat, keptBits] at *
    rw [BitVec.getLsbD_or, BitVec.getLsbD_and, BitVec.getLsbD_and, BitVec.getLsbD_not, hbit]
    simp [show lo + i < 64 by omega]
  · simp [hi]

theorem written_plain {f : Fuses} {r : Reg} (hc : r.w1cMask = 0) (old w : DWord) : r.written f old w =
    (r.legal f).foldl (fun v x => if x.2.2 (getF w x.1 x.2.1) then v else putF v x.1 x.2.1 (getF old x.1 x.2.1))
      (keptBits r.rwMask old w) := by
  rw [Reg.written, hc, BitVec.and_zero, BitVec.not_zero, BitVec.and_allOnes]
  rfl

/-- R10: the one field with reserved encodings takes a legal value and keeps its own at another. -/
theorem written_field {f : Fuses} {r : Reg} {lo k : Nat} {ok : Nat → Bool} (hc : r.w1cMask = 0) (hl : r.legal f = [(lo, k, ok)])
    (h64 : lo + k ≤ 64) (hm : ∀ i, i < k → (BitVec.ofNat 64 r.rwMask).toNat.testBit (lo + i) = true) (old w : DWord) :
    getF (r.written f old w) lo k = if ok (getF w lo k) then getF w lo k else getF old lo k := by
  rw [written_plain hc, hl, List.foldl_cons, List.foldl_nil]
  dsimp only
  split
  · exact getF_keptBits old w hm
  · rw [getF_putF_same _ _ _ _ h64, Nat.mod_eq_of_lt (getF_lt old lo k)]

theorem getF_setWidth (value : Word) {lo k : Nat} (_h : lo + k ≤ 32) :
    getF (value.setWidth 64) lo k = value.toNat / 2 ^ lo % 2 ^ k := by
  rw [getF, BitVec.toNat_setWidth, Nat.mod_eq_of_lt (Nat.lt_trans value.isLt (by decide))]

theorem testBit_low {m k : Nat} (hk : ∀ i, i < k → m.testBit i = true) (h64 : m < 2 ^ 64) :
    ∀ i, i < k → (BitVec.ofNat 64 m).toNat.testBit (0 + i) = true := fun i hi => by
  rw [BitVec.toNat_ofNat, Nat.mod_eq_of_lt h64, Nat.zero_add]
  exact hk i hi

/-! ### The mode register -/

theorem written_bedMode (f : Fuses) (k : Nat) (old w : DWord) : getF ((Reg.bedMode k).written f old w) 0 2 =
    if getF w 0 2 ≠ 3 then getF w 0 2 else getF old 0 2 := by
  have h := written_field (r := .bedMode k) (f := f) (lo := 0) (k := 2) (ok := fun v => v ≠ 3) rfl rfl (by decide)
    (testBit_low (m := 3) (by decide) (by decide)) old w
  rw [h]
  simp only [decide_eq_true_eq]

theorem written_bedMode_rest (f : Fuses) (k : Nat) (old w : DWord) :
    getF ((Reg.bedMode k).written f old w) 2 62 = getF old 2 62 := by
  have hm : ∀ i, i < 62 → (BitVec.ofNat 64 (Reg.bedMode k).rwMask).toNat.testBit (2 + i) = false := fun i _ => by
    rw [show (BitVec.ofNat 64 (Reg.bedMode k).rwMask).toNat = 3 from rfl]
    exact Nat.testBit_lt_two_pow (Nat.lt_of_lt_of_le (by decide : 3 < 2 ^ 2) (Nat.pow_le_pow_right (by decide) (by omega)))
  have hl : (Reg.bedMode k).legal f = [(0, 2, fun v : Nat => decide (v ≠ 3))] := rfl
  rw [written_plain (r := .bedMode k) rfl, hl, List.foldl_cons, List.foldl_nil]
  dsimp only
  split
  · exact getF_keptBits_outside old w (by decide) hm
  · rw [getF_putF_apart _ _ _ _ _ _ (by decide) (by decide)]
    exact getF_keptBits_outside old w (by decide) hm

theorem eq_of_getF {v w : DWord} (h : getF v 0 2 = getF w 0 2) (hr : getF v 2 62 = getF w 2 62) : v = w := by
  refine BitVec.eq_of_toNat_eq ?_
  simp only [getF] at h hr
  have := v.isLt
  have := w.isLt
  omega

/-- A write of the mode in force, or of the reserved code, leaves the register as it is. -/
theorem written_bedMode_same (f : Fuses) (k : Nat) (old w : DWord) (h : getF w 0 2 = getF old 0 2 ∨ getF w 0 2 = 3) :
    (Reg.bedMode k).written f old w = old := by
  refine eq_of_getF ?_ (written_bedMode_rest f k old w)
  rw [written_bedMode]
  split
  · next hn => exact h.resolve_right hn
  · rfl

/-- The mode register after the word was written. -/
def State.modeWritten (s : State) (k : Nat) (v : DWord) : State := s.plainWrite (.bedMode k) v

section
variable (s : State) (k : Nat) (v : DWord)

theorem only_modeWritten : Only [] [.bedMode] s (s.modeWritten k v) :=
  only_State_setReg s _ _ (List.elem_iff.mp rfl) (Only.refl s)

theorem reg_modeWritten : (s.modeWritten k v).reg (.bedMode k) = (Reg.bedMode k).written s.fuses (s.reg (.bedMode k)) v :=
  State.reg_setReg_same s _ _

theorem regF_modeWritten : (s.modeWritten k v).regF (.bedMode k) 0 2 =
    if getF v 0 2 ≠ 3 then getF v 0 2 else s.regF (.bedMode k) 0 2 := by
  rw [State.regF, reg_modeWritten, written_bedMode]
  rfl

end

/-- The bed once its mode field changes from `was` to `new`. -/
def Bed.modeTurned (b : Bed) (was new : Nat) : Bed :=
  if new = 0 then { b with oldMode := some (if b.oldMode.getD was = 0 then was else b.oldMode.getD was),
                           busy := b.busy.map fun c => { c with pending := false } }
  else { b with oldMode := some (b.oldMode.getD was) }

theorem bedModeWrite_eq (s : State) (k : Nat) (v : DWord) : s.bedModeWrite k v =
    if (s.modeWritten k v).regF (.bedMode k) 0 2 = s.regF (.bedMode k) 0 2 then s.modeWritten k v
    else ((s.modeWritten k v).setBed k ((s.bed k).modeTurned (s.regF (.bedMode k) 0 2)
      ((s.modeWritten k v).regF (.bedMode k) 0 2))).setBit (.bedMode k) 8 := rfl

/-- What a change of the mode field sets. -/
theorem modeTurned_facts (u s : State) (k : Nat) {was new : Nat} (hf : u.regF (.bedMode k) 0 2 = new) (hbed : u.bed = s.bed) :
    (∀ j, j ≠ k → ((u.setBed k ((s.bed k).modeTurned was new)).setBit (.bedMode k) 8).bed j = s.bed j) ∧
    ((u.setBed k ((s.bed k).modeTurned was new)).setBit (.bedMode k) 8).regF (.bedMode k) 0 2 = new ∧
    ((u.setBed k ((s.bed k).modeTurned was new)).setBit (.bedMode k) 8).regBit (.bedMode k) 8 = true ∧
    ((s.bed k).oldMode = none →
      (((u.setBed k ((s.bed k).modeTurned was new)).setBit (.bedMode k) 8).bed k).oldMode = some was) ∧
    (new ≠ 0 → (((u.setBed k ((s.bed k).modeTurned was new)).setBit (.bedMode k) 8).bed k).busy = (s.bed k).busy) := by
  refine ⟨fun j hj => ?_, ?_, ?_, fun hn => ?_, fun hn => ?_⟩
  · rw [State.setBit, State.bed_setF, State.bed_setBed, if_neg hj, hbed]
  · rw [State.setBit, State.regF_setF_apart _ _ _ _ _ _ _ (by decide) (by decide)]
    exact hf
  · rw [State.regBit_setBit _ _ _ _ (by decide) (by decide)]
    simp
  · rw [State.setBit, State.bed_setF, State.bed_setBed, if_pos rfl, Bed.modeTurned, hn, Option.getD_none, ite_self]
    split <;> rfl
  · rw [State.setBit, State.bed_setF, State.bed_setBed, if_pos rfl, Bed.modeTurned, if_neg hn]

theorem exec_bedModeWrite (core : Fin 64) (value : Word) (s : State) (hl : s.dieLost (core.val / 8) = false) :
    exec (.bedModeWrite core value) s = .next (s.bedModeWrite core.val (value.setWidth 64)) := by
  have h : exec (.bedModeWrite core value) s =
    .next (if !s.dieLost (core.val / 8) then s.bedModeWrite core.val (value.setWidth 64) else s) := rfl
  rw [h, hl, Bool.not_false, if_pos rfl]

theorem bedModeWrite_facts (s : State) (k : Nat) (v : DWord) :
    (∀ j, j ≠ k → (s.bedModeWrite k v).bed j = s.bed j) ∧
    if getF v 0 2 = s.regF (.bedMode k) 0 2 ∨ getF v 0 2 = 3 then
      (s.bedModeWrite k v).reg (.bedMode k) = s.reg (.bedMode k) ∧ (s.bedModeWrite k v).beds = s.beds
    else (s.bedModeWrite k v).regF (.bedMode k) 0 2 = getF v 0 2 ∧ (s.bedModeWrite k v).regBit (.bedMode k) 8 = true ∧
      ((s.bed k).oldMode = none → ((s.bedModeWrite k v).bed k).oldMode = some (s.regF (.bedMode k) 0 2)) ∧
      (getF v 0 2 ≠ 0 → ((s.bedModeWrite k v).bed k).busy = (s.bed k).busy) := by
  have hf := regF_modeWritten s k v
  have ho := only_modeWritten s k v
  have hbed := State.bed_congr (ho.part .beds (by decide))
  rw [bedModeWrite_eq]
  by_cases h : getF v 0 2 = s.regF (.bedMode k) 0 2 ∨ getF v 0 2 = 3
  · have hsame : (s.modeWritten k v).reg (.bedMode k) = s.reg (.bedMode k) :=
      (reg_modeWritten s k v).trans (written_bedMode_same _ _ _ _ h)
    rw [if_pos (State.regF_congr hsame 0 2), if_pos h]
    exact ⟨fun j _ => congrFun hbed j, hsame, ho.part .beds (by decide)⟩
  · obtain ⟨hw, h3⟩ := not_or.1 h
    rw [if_pos h3] at hf
    rw [hf, if_neg hw, if_neg h]
    exact modeTurned_facts _ s k hf hbed

theorem bedMode_write (core : Fin 64) (value : Word) (s : State) :
    let k := core.val
    let was := s.regF (.bedMode k) 0 2
    let new := value.toNat % 4
    s.dieLost (k / 8) = false → ∃ t, exec (.bedModeWrite core value) s = .next t ∧ Only [.beds] [.bedMode] s t ∧
      (∀ j, j ≠ k → t.bed j = s.bed j) ∧
      if new = was ∨ new = 3 then t.reg (.bedMode k) = s.reg (.bedMode k) ∧ t.beds = s.beds
      else t.regF (.bedMode k) 0 2 = new ∧ t.regBit (.bedMode k) 8 = true ∧
        ((s.bed k).oldMode = none → (t.bed k).oldMode = some was) ∧
        (new ≠ 0 → (t.bed k).busy = (s.bed k).busy) := by
  intro k was new hl
  have he := exec_bedModeWrite core value s hl
  have hv : getF (value.setWidth 64) 0 2 = new :=
    (getF_setWidth value (lo := 0) (k := 2) (by decide)).trans (congrArg (· % 4) (Nat.div_one _))
  have hf := bedModeWrite_facts s k (value.setWidth 64)
  rw [hv] at hf
  exact ⟨_, he, Only.ofExec (only_execBedModeWrite core value s) he, hf⟩

/-! ### The end of a mode change -/

theorem exec_bedModeChangeComplete (core : Fin 64) (s : State) :
    exec (.bedModeChangeComplete core) s = .next (bedModeChangeComplete core.val s) := rfl

theorem bedModeChangeComplete_ends {s : State} {k m : Nat} (hm : (s.bed k).oldMode = some m)
    (h : m = 0 ∨ ∀ c, c ∈ (s.bed k).busy → c.pending = true) : bedModeChangeComplete k s =
      (s.setBed k { s.bed k with oldMode := none,
                                 busy := (s.bed k).busy.map fun c => { c with pending := false } }).clrBit (.bedMode k) 8 := by
  rw [bedModeChangeComplete, hm]
  exact if_pos (by simpa using h)

theorem bedModeChangeComplete_waits {s : State} {k m : Nat} (hm : (s.bed k).oldMode = some m) (h0 : m ≠ 0)
    (h : ∃ c, c ∈ (s.bed k).busy ∧ c.pending = false) : bedModeChangeComplete k s = s := by
  rw [bedModeChangeComplete, hm]
  exact if_neg (by simpa [h0] using h)

theorem modeChange_complete (core : Fin 64) (m : Nat) (s : State) :
    let k := core.val
    let b := s.bed k
    b.oldMode = some m →
    (m = 0 ∨ (∀ c, c ∈ b.busy → c.pending = true) → ∃ t, exec (.bedModeChangeComplete core) s = .next t ∧
      Only [.beds] [.bedMode] s t ∧ t.bed k = { b with oldMode := none, busy := b.busy.map fun c => { c with pending := false } } ∧
      t.regBit (.bedMode k) 8 = false ∧ t.regF (.bedMode k) 0 2 = s.regF (.bedMode k) 0 2) ∧
    (m ≠ 0 → (∃ c, c ∈ b.busy ∧ c.pending = false) → exec (.bedModeChangeComplete core) s = .next s) := by
  intro k b hm
  refine ⟨fun h => ?_, fun h0 h => congrArg Host.Outcome.next (bedModeChangeComplete_waits hm h0 h)⟩
  have he := (exec_bedModeChangeComplete core s).trans (congrArg Host.Outcome.next (bedModeChangeComplete_ends hm h))
  refine ⟨_, he, Only.ofExec (only_execBedModeChangeComplete core s) he, ?_, ?_, ?_⟩
  · rw [State.clrBit, State.bed_setF, State.bed_setBed, if_pos rfl]
  · rw [State.regBit_clrBit _ _ _ _ (by decide) (by decide)]
    simp
  · rw [State.clrBit, State.regF_setF_apart _ _ _ _ _ _ _ (by decide) (by decide)]
    exact State.regF_congr (congrFun (State.reg_setBed ..) _) 0 2

/-! ### The limits (R150, R358) -/

theorem Reg.bedQuota_off (k : Nat) : (Reg.bedQuota k).off = coreBlk k + 0x1004 := rfl
theorem Reg.bedTiming0_off (k : Nat) : (Reg.bedTiming0 k).off = coreBlk k + 0x1008 := rfl
theorem Reg.bedTiming1_off (k : Nat) : (Reg.bedTiming1 k).off = coreBlk k + 0x100C := rfl

theorem written_bedQuota (f : Fuses) (k : Nat) (old w : DWord) : getF ((Reg.bedQuota k).written f old w) 0 8 =
    if 1 ≤ getF w 0 8 ∧ getF w 0 8 ≤ 128 then getF w 0 8 else getF old 0 8 := by
  have h := written_field (r := .bedQuota k) (f := f) (lo := 0) (k := 8) (ok := fun v => 1 ≤ v && v ≤ 128) rfl rfl (by decide)
    (testBit_low (m := 0xFF) (by decide) (by decide)) old w
  rw [h]
  simp only [Bool.and_eq_true, decide_eq_true_eq]

theorem written_bedTiming0 (f : Fuses) (k : Nat) (old w : DWord) : getF ((Reg.bedTiming0 k).written f old w) 0 5 =
    if getF w 0 5 ≠ 0 then getF w 0 5 else getF old 0 5 := by
  have h := written_field (r := .bedTiming0 k) (f := f) (lo := 0) (k := 5) (ok := fun v => decide (v ≠ 0)) rfl rfl (by decide)
    (testBit_low (m := 0x1F) (by decide) (by decide)) old w
  rw [h]
  simp only [decide_eq_true_eq]

theorem written_bedTiming1 (f : Fuses) (k : Nat) (old w : DWord) :
    getF ((Reg.bedTiming1 k).written f old w) 16 16 = (if getF w 16 16 ≠ 0 then getF w 16 16 else getF old 16 16) ∧
    getF ((Reg.bedTiming1 k).written f old w) 0 10 =
      (if 10 ≤ getF w 0 10 ∧ getF w 0 10 ≤ 1000 then getF w 0 10 else getF old 0 10) := by
  have hl : (Reg.bedTiming1 k).legal f =
    [(16, 16, fun v : Nat => decide (v ≠ 0)), (0, 10, fun v : Nat => decide (10 ≤ v) && decide (v ≤ 1000))] := rfl
  have hhi : getF (keptBits (Reg.bedTiming1 k).rwMask old w) 16 16 = getF w 16 16 := by
    refine getF_keptBits old w fun i hi => ?_
    have hall : ∀ i : Fin 16, (BitVec.ofNat 64 0xFFFF03FF).toNat.testBit (16 + i.val) = true := by decide
    exact hall ⟨i, hi⟩
  have hlo : getF (keptBits (Reg.bedTiming1 k).rwMask old w) 0 10 = getF w 0 10 := by
    refine getF_keptBits old w fun i hi => ?_
    have hall : ∀ i : Fin 10, (BitVec.ofNat 64 0xFFFF03FF).toNat.testBit (0 + i.val) = true := by decide
    exact hall ⟨i, hi⟩
  rw [written_plain (r := .bedTiming1 k) rfl, hl, List.foldl_cons, List.foldl_cons, List.foldl_nil]
  generalize keptBits (Reg.bedTiming1 k).rwMask old w = v at hhi hlo
  have hold16 := getF_lt old 16 16
  have hold10 := getF_lt old 0 10
  simp only [Bool.and_eq_true, decide_eq_true_eq]
  by_cases h1 : getF w 16 16 ≠ 0
  · by_cases h2 : 10 ≤ getF w 0 10 ∧ getF w 0 10 ≤ 1000
    · rw [if_pos h1, if_pos h1, if_pos h2, if_pos h2]
      exact ⟨hhi, hlo⟩
    · rw [if_pos h1, if_pos h1, if_neg h2, if_neg h2, getF_putF_apart _ _ _ _ _ _ (by decide) (by decide),
        getF_putF_same _ _ _ _ (by decide), Nat.mod_eq_of_lt hold10]
      exact ⟨hhi, rfl⟩
  · by_cases h2 : 10 ≤ getF w 0 10 ∧ getF w 0 10 ≤ 1000
    · rw [if_neg h1, if_neg h1, if_pos h2, if_pos h2, getF_putF_same _ _ _ _ (by decide), Nat.mod_eq_of_lt hold16,
        getF_putF_apart _ _ _ _ _ _ (by decide) (by decide)]
      exact ⟨rfl, hlo⟩
    · rw [if_neg h1, if_neg h1, if_neg h2, if_neg h2, getF_putF_apart _ _ _ _ _ _ (by decide) (by decide),
        getF_putF_same _ _ _ _ (by decide), Nat.mod_eq_of_lt hold16, getF_putF_same _ _ _ _ (by decide), Nat.mod_eq_of_lt hold10]
      exact ⟨rfl, rfl⟩

theorem regF_plainWrite (s : State) (r : Reg) (w : DWord) (lo k : Nat) :
    (s.plainWrite r w).regF r lo k = getF (r.written s.fuses (s.reg r) w) lo k := by
  rw [State.regF, State.plainWrite, State.reg_setReg_same]

theorem regF_plainWrite_ne (s : State) {r q : Reg} (w : DWord) (lo k : Nat) (h : q.off ≠ r.off) :
    (s.plainWrite r w).regF q lo k = s.regF q lo k :=
  State.regF_congr (State.reg_setReg_ne _ _ _ _ h) lo k

theorem limits_apart (k : Nat) : (Reg.bedQuota k).off ≠ (Reg.bedTiming0 k).off ∧ (Reg.bedQuota k).off ≠ (Reg.bedTiming1 k).off ∧
    (Reg.bedTiming0 k).off ≠ (Reg.bedTiming1 k).off := by
  simp only [Reg.bedQuota_off, Reg.bedTiming0_off, Reg.bedTiming1_off]
  omega

theorem limits_bedQuota (s : State) (k : Nat) (w : DWord) :
    (s.plainWrite (.bedQuota k) w).regF (.bedQuota k) 0 8 =
      (if 1 ≤ getF w 0 8 ∧ getF w 0 8 ≤ 128 then getF w 0 8 else s.regF (.bedQuota k) 0 8) ∧
    (s.plainWrite (.bedQuota k) w).regF (.bedTiming0 k) 0 5 = s.regF (.bedTiming0 k) 0 5 ∧
    (s.plainWrite (.bedQuota k) w).regF (.bedTiming1 k) 16 16 = s.regF (.bedTiming1 k) 16 16 ∧
    (s.plainWrite (.bedQuota k) w).regF (.bedTiming1 k) 0 10 = s.regF (.bedTiming1 k) 0 10 := by
  obtain ⟨h0, h1, -⟩ := limits_apart k
  exact ⟨(regF_plainWrite ..).trans (written_bedQuota ..), regF_plainWrite_ne s w 0 5 h0.symm,
    regF_plainWrite_ne s w 16 16 h1.symm, regF_plainWrite_ne s w 0 10 h1.symm⟩

theorem limits_bedTiming0 (s : State) (k : Nat) (w : DWord) :
    (s.plainWrite (.bedTiming0 k) w).regF (.bedQuota k) 0 8 = s.regF (.bedQuota k) 0 8 ∧
    (s.plainWrite (.bedTiming0 k) w).regF (.bedTiming0 k) 0 5 =
      (if getF w 0 5 ≠ 0 then getF w 0 5 else s.regF (.bedTiming0 k) 0 5) ∧
    (s.plainWrite (.bedTiming0 k) w).regF (.bedTiming1 k) 16 16 = s.regF (.bedTiming1 k) 16 16 ∧
    (s.plainWrite (.bedTiming0 k) w).regF (.bedTiming1 k) 0 10 = s.regF (.bedTiming1 k) 0 10 := by
  obtain ⟨h0, -, h1⟩ := limits_apart k
  exact ⟨regF_plainWrite_ne s w 0 8 h0, (regF_plainWrite ..).trans (written_bedTiming0 ..),
    regF_plainWrite_ne s w 16 16 h1.symm, regF_plainWrite_ne s w 0 10 h1.symm⟩

theorem limits_bedTiming1 (s : State) (k : Nat) (w : DWord) :
    (s.plainWrite (.bedTiming1 k) w).regF (.bedQuota k) 0 8 = s.regF (.bedQuota k) 0 8 ∧
    (s.plainWrite (.bedTiming1 k) w).regF (.bedTiming0 k) 0 5 = s.regF (.bedTiming0 k) 0 5 ∧
    (s.plainWrite (.bedTiming1 k) w).regF (.bedTiming1 k) 16 16 =
      (if getF w 16 16 ≠ 0 then getF w 16 16 else s.regF (.bedTiming1 k) 16 16) ∧
    (s.plainWrite (.bedTiming1 k) w).regF (.bedTiming1 k) 0 10 =
      (if 10 ≤ getF w 0 10 ∧ getF w 0 10 ≤ 1000 then getF w 0 10 else s.regF (.bedTiming1 k) 0 10) := by
  obtain ⟨-, h0, h1⟩ := limits_apart k
  obtain ⟨hhi, hlo⟩ := written_bedTiming1 s.fuses k (s.reg (.bedTiming1 k)) w
  exact ⟨regF_plainWrite_ne s w 0 8 h0, regF_plainWrite_ne s w 0 5 h1, (regF_plainWrite ..).trans hhi,
    (regF_plainWrite ..).trans hlo⟩

theorem getF_setWidth_low (value : Word) {k : Nat} (h : k ≤ 32) : getF (value.setWidth 64) 0 k = value.toNat % 2 ^ k := by
  rw [getF_setWidth value (by omega), Nat.pow_zero, Nat.div_one]

theorem exec_bedLimitWrite (core : Fin 64) (which : Fin 3) (value : Word) (s : State) (hl : s.dieLost (core.val / 8) = false) :
    exec (.bedLimitWrite core which value) s = .next (s.plainWrite (if which.val = 0 then .bedQuota core.val
      else if which.val = 1 then .bedTiming0 core.val else .bedTiming1 core.val) (value.setWidth 64)) := by
  have h : exec (.bedLimitWrite core which value) s = .next (if !s.dieLost (core.val / 8) then
    s.plainWrite (if which.val = 0 then .bedQuota core.val
      else if which.val = 1 then .bedTiming0 core.val else .bedTiming1 core.val) (value.setWidth 64) else s) := rfl
  rw [h, hl, Bool.not_false, if_pos rfl]

theorem bedLimit_write (core : Fin 64) (which : Fin 3) (value : Word) (s : State) :
    let k := core.val
    let v := value.toNat
    s.dieLost (k / 8) = false → ∃ t, exec (.bedLimitWrite core which value) s = .next t ∧
      Only [] [.bedQuota, .bedTiming0, .bedTiming1] s t ∧
      t.regF (.bedQuota k) 0 8 = (if which.val = 0 ∧ 1 ≤ v % 256 ∧ v % 256 ≤ 128 then v % 256 else s.regF (.bedQuota k) 0 8) ∧
      t.regF (.bedTiming0 k) 0 5 = (if which.val = 1 ∧ v % 32 ≠ 0 then v % 32 else s.regF (.bedTiming0 k) 0 5) ∧
      t.regF (.bedTiming1 k) 16 16 = (if which.val = 2 ∧ v / 65536 ≠ 0 then v / 65536 else s.regF (.bedTiming1 k) 16 16) ∧
      t.regF (.bedTiming1 k) 0 10 = (if which.val = 2 ∧ 10 ≤ v % 1024 ∧ v % 1024 ≤ 1000 then v % 1024
        else s.regF (.bedTiming1 k) 0 10) := by
  intro k v hl
  have he := exec_bedLimitWrite core which value s hl
  refine ⟨_, he, Only.ofExec (only_execBedLimitWrite core which value s) he, ?_⟩
  have hw : which.val = 0 ∨ which.val = 1 ∨ which.val = 2 := by omega
  have hq := getF_setWidth_low value (k := 8) (by decide)
  have h0 := getF_setWidth_low value (k := 5) (by decide)
  have h2 := getF_setWidth_low value (k := 10) (by decide)
  have h1 : getF (value.setWidth 64) 16 16 = value.toNat / 65536 := by
    have := value.isLt
    rw [getF_setWidth value (by decide)]
    exact Nat.mod_eq_of_lt (by omega)
  rcases hw with hw | hw | hw
  · obtain ⟨h, h', h'', h'''⟩ := limits_bedQuota s core.val (value.setWidth 64)
    rw [hq] at h
    simp only [hw, if_true, true_and]
    exact ⟨h, h', h'', h'''⟩
  · obtain ⟨h, h', h'', h'''⟩ := limits_bedTiming0 s core.val (value.setWidth 64)
    rw [h0] at h'
    simp only [hw, if_true, true_and]
    exact ⟨h, h', h'', h'''⟩
  · obtain ⟨h, h', h'', h'''⟩ := limits_bedTiming1 s core.val (value.setWidth 64)
    rw [h1] at h''
    rw [h2] at h'''
    simp only [hw, true_and]
    exact ⟨h, h', h'', h'''⟩

theorem bankLimit_bounds (hw committed beds : Nat) : 32 ≤ bankLimit hw committed beds ∧ bankLimit hw committed beds ≤ 128 := by
  rw [bankLimit]
  split
  · exact ⟨Nat.le_refl _, by decide⟩
  · exact ⟨Nat.le_min.2 ⟨by decide, Nat.le_add_right _ _⟩, Nat.min_le_left _ _⟩

/-- R358: the bed's limit was updated now. -/
def State.limitTimed (s : State) (k : Nat) : State := s.setBed k { s.bed k with lastLimit := s.now }

/-- The limit that the tower's headroom allows. -/
def State.headroomLimit (s : State) (k : Nat) : Nat :=
  bankLimit (s.regF (.env (k / 8)) 0 16) (s.committed (k / 8)) (s.computeBeds (k / 8))

/-- The limit registers are written for the mode. -/
def State.limitWritten (u : State) (k mode n : Nat) : State :=
  if mode = 1 then u.plainWrite (.bedQuota k) (BitVec.ofNat 64 n)
  else (u.plainWrite (.bedTiming0 k) 20).plainWrite (.bedTiming1 k) (BitVec.ofNat 64 (n * 125 / 4 * 65536 + 200))

theorem bankLimitUpdate_due {s : State} {k : Nat} (ha : s.alive = true) (hc : s.coreEnabled k = true)
    (ht : (s.bed k).lastLimit = 0 ∨ (s.bed k).lastLimit + 200000 ≤ s.now) (hm : s.regF (.bedMode k) 0 2 ≠ 0) :
    bankLimitUpdate k s = (s.limitTimed k).limitWritten k (s.regF (.bedMode k) 0 2) (s.headroomLimit k) := by
  have hg : (!(s.alive && s.coreEnabled k) || s.regF (.bedMode k) 0 2 = 0 ||
      ((s.bed k).lastLimit ≠ 0 && s.now < (s.bed k).lastLimit + 200000)) = false := by
    rcases ht with ht | ht
    · simp [ha, hc, hm, ht]
    · simp [ha, hc, hm, Nat.not_lt.2 ht]
  exact if_neg (by rw [hg]; exact Bool.false_ne_true)

theorem bed_limitWritten (u : State) (k mode n : Nat) : (u.limitWritten k mode n).bed = u.bed := by
  rw [State.limitWritten]
  split
  · rw [State.plainWrite, State.bed_setReg]
  · rw [State.plainWrite, State.bed_setReg, State.plainWrite, State.bed_setReg]

theorem limitWritten_quota (u : State) (k : Nat) {n : Nat} (hn : 32 ≤ n ∧ n ≤ 128) :
    (u.limitWritten k 1 n).regF (.bedQuota k) 0 8 = n := by
  have hg : getF (BitVec.ofNat 64 n) 0 8 = n := by
    rw [getF, BitVec.toNat_ofNat]
    omega
  rw [State.limitWritten, if_pos rfl, (limits_bedQuota _ _ _).1, hg, if_pos ⟨by omega, hn.2⟩]

theorem limitWritten_timing (u : State) (k : Nat) {n : Nat} (hn : 32 ≤ n ∧ n ≤ 128) :
    (u.limitWritten k 2 n).regF (.bedTiming0 k) 0 5 = 20 ∧ (u.limitWritten k 2 n).regF (.bedTiming1 k) 0 10 = 200 ∧
    (u.limitWritten k 2 n).regF (.bedTiming1 k) 16 16 = n * 125 / 4 := by
  have h0 : getF 20 0 5 = 20 := by decide
  have hhi : getF (BitVec.ofNat 64 (n * 125 / 4 * 65536 + 200)) 16 16 = n * 125 / 4 := by
    rw [getF, BitVec.toNat_ofNat]
    omega
  have hlo : getF (BitVec.ofNat 64 (n * 125 / 4 * 65536 + 200)) 0 10 = 200 := by
    rw [getF, BitVec.toNat_ofNat]
    omega
  obtain ⟨-, h1, h2, h3⟩ := limits_bedTiming1 (u.plainWrite (.bedTiming0 k) 20) k (BitVec.ofNat 64 (n * 125 / 4 * 65536 + 200))
  rw [hhi, if_pos (by omega)] at h2
  rw [hlo, if_pos (by omega)] at h3
  rw [(limits_bedTiming0 u k 20).2.1, h0, if_pos (by omega)] at h1
  rw [State.limitWritten, if_neg (by decide)]
  exact ⟨h1, h3, h2⟩

theorem bankLimit_update (core : Fin 64) (s : State) :
    let k := core.val
    let b := s.bed k
    let n := bankLimit (s.regF (.env (k / 8)) 0 16) (s.committed (k / 8)) (s.computeBeds (k / 8))
    s.alive = true → s.coreEnabled k = true → b.lastLimit = 0 ∨ b.lastLimit + 200000 ≤ s.now →
    (s.regF (.bedMode k) 0 2 = 1 → ∃ t, exec (.bankLimitUpdate core) s = .next t ∧
      Only [.beds] [.bedQuota, .bedTiming0, .bedTiming1] s t ∧ t.bed k = { b with lastLimit := s.now } ∧ 32 ≤ n ∧ n ≤ 128 ∧
      t.regF (.bedQuota k) 0 8 = n) ∧
    (s.regF (.bedMode k) 0 2 = 2 → ∃ t, exec (.bankLimitUpdate core) s = .next t ∧
      Only [.beds] [.bedQuota, .bedTiming0, .bedTiming1] s t ∧ t.bed k = { b with lastLimit := s.now } ∧
      t.regF (.bedTiming0 k) 0 5 = 20 ∧ t.regF (.bedTiming1 k) 0 10 = 200 ∧ t.regF (.bedTiming1 k) 16 16 = n * 125 / 4) := by
  intro k b n ha hc ht
  have hn := bankLimit_bounds (s.regF (.env (k / 8)) 0 16) (s.committed (k / 8)) (s.computeBeds (k / 8))
  have hx : exec (.bankLimitUpdate core) s = .next (bankLimitUpdate core.val s) := rfl
  have hbed : ∀ mode n, ((s.limitTimed k).limitWritten k mode n).bed k = { s.bed k with lastLimit := s.now } := fun mode n => by
    rw [bed_limitWritten, State.limitTimed, State.bed_setBed, if_pos rfl]
  refine ⟨fun hm => ?_, fun hm => ?_⟩
  · have he := hx.trans (congrArg Host.Outcome.next (bankLimitUpdate_due ha hc ht (by rw [hm]; decide)))
    rw [hm] at he
    exact ⟨_, he, Only.ofExec (only_execBankLimitUpdate core s) he, hbed _ _, hn.1, hn.2, limitWritten_quota _ _ hn⟩
  · have he := hx.trans (congrArg Host.Outcome.next (bankLimitUpdate_due ha hc ht (by rw [hm]; decide)))
    rw [hm] at he
    exact ⟨_, he, Only.ofExec (only_execBankLimitUpdate core s) he, hbed _ _, limitWritten_timing _ _ hn⟩

/-! ### The fence word (R139) -/

theorem reqOf_reply {s : State} {m : Msg} (h : Claims.unasked s m = true) (own node op status len : Nat) (payload : List Byte) :
    s.reqOf (m.reply own node op status len payload) = none := by
  rw [State.reqOf, List.find?_eq_none]
  intro r hr
  have hu := List.all_eq_true.1 h r hr
  have ha : (m.reply own node op status len payload).addr.toNat % 256 = m.srcNode.toNat := by
    have := m.srcNode.isLt
    rw [Msg.reply, BitVec.toNat_setWidth]
    omega
  rw [ha]
  have ht : (m.reply own node op status len payload).tag = m.tag := rfl
  intro hb
  rw [ht] at hb
  rw [hb] at hu
  cases hu

theorem answerMsg_unasked {s : State} {m : Msg} (hs : m.srcPkg.toNat = s.pkgId) (h : Claims.unasked s m = true)
    (node op status len : Nat) (payload : List Byte) :
    s.answerMsg m node op status len payload = s.emit (.rsp (m.reply s.pkgId node op status len payload)) := by
  have hd : (m.reply s.pkgId node op status len payload).dstPkg.toNat = s.pkgId := hs
  rw [State.answerMsg, State.respond, if_pos hd, State.deliverRsp, reqOf_reply h]

theorem bed_fence (core : Fin 64) (m : Msg) (s : State) (hl : s.dieLost (core.val / 8) = false) (hc : s.coreEnabled core.val = true)
    (hs : m.srcPkg.toNat = s.pkgId) (hu : Claims.unasked s m = true) : ∃ t, exec (.bedFence core m) s = .next t ∧
    Only [.out] [] s t ∧ t.out = .rsp (m.reply s.pkgId core.val 1 0 0 []) :: s.out := by
  have hn : num s.coreState core.val = 0 := of_decide_eq_true (Bool.and_eq_true_iff.1 hc).2
  have hx : exec (.bedFence core m) s = .next (bedFence core.val m s) := rfl
  have he : bedFence core.val m s = s.emit (.rsp (m.reply s.pkgId core.val 1 0 0 [])) := by
    rw [bedFence, if_neg (by simp [hl, hn]), if_neg (by simp [hc])]
    exact answerMsg_unasked hs hu _ _ _ _ _
  exact ⟨_, hx.trans (congrArg Host.Outcome.next he), only_State_emit s _ (Only.refl s) (List.Subset.refl _), out_emit ..⟩

/-! ### Refresh (R48, R49) -/

theorem mem_removeKey {α : Type} {k : Nat} {m : List (Nat × α)} {e : Nat × α} : e ∈ removeKey k m ↔ e ∈ m ∧ e.1 ≠ k := by
  induction m with
  | nil => simp [removeKey]
  | cons c m ih =>
    obtain ⟨k', v'⟩ := c
    unfold removeKey
    split
    · next hk =>
      rw [ih, List.mem_cons]
      exact ⟨fun ⟨h, hn⟩ => ⟨Or.inr h, hn⟩, fun ⟨h, hn⟩ => ⟨h.resolve_left fun he => hn (by rw [he, hk]), hn⟩⟩
    · next hk =>
      rw [List.mem_cons, ih, List.mem_cons]
      constructor
      · rintro (rfl | ⟨h, hn⟩)
        · exact ⟨Or.inl rfl, Ne.symm hk⟩
        · exact ⟨Or.inr h, hn⟩
      · rintro ⟨rfl | h, hn⟩
        · exact Or.inl rfl
        · exact Or.inr ⟨h, hn⟩

theorem bank_refresh (core : Fin 64) (bank : Fin 128) (s : State) :
    let x := s.bed core.val
    ((s.dom (core.val / 8)).state = .on → s.now % 390 = 390 * bank.val / 128 → (∀ r, r ∈ x.refreshing → r.1 ≠ bank.val) →
      ∃ t, exec (.bankRefresh core bank) s = .next t ∧ Only [.beds] [] s t ∧
        (t.bed core.val).refreshing.find? (fun r => r.1 = bank.val) = some (bank.val, s.now) ∧
        t.bed core.val = { x with refreshing := (t.bed core.val).refreshing } ∧ ∀ j, j ≠ core.val → t.bed j = s.bed j) ∧
    (s.now % 390 ≠ 390 * bank.val / 128 → exec (.bankRefresh core bank) s = .next s) ∧
    (∀ since, x.refreshing.find? (fun r => r.1 = bank.val) = some (bank.val, since) →
      if since + 18 ≤ s.now then ∃ t, exec (.refreshComplete core bank) s = .next t ∧ Only [.beds] [] s t ∧
        (∀ r, r ∈ (t.bed core.val).refreshing ↔ r ∈ x.refreshing ∧ r.1 ≠ bank.val) ∧
        t.bed core.val = { x with refreshing := (t.bed core.val).refreshing }
      else exec (.refreshComplete core bank) s = .next s) := by
  intro x
  refine ⟨fun hd hn hr => ?_, fun hn => congrArg Host.Outcome.next (if_neg (by simp [refreshTicks, hn])), fun since hf => ?_⟩
  · have he : exec (.bankRefresh core bank) s =
        .next (s.setBed core.val { s.bed core.val with refreshing := insertKey bank.val s.now (s.bed core.val).refreshing }) :=
      congrArg Host.Outcome.next (if_pos (by
        simp only [hd, refreshTicks, hn, decide_true, Bool.true_and, Bool.not_eq_true', List.any_eq_false, decide_eq_true_eq]
        exact hr))
    refine ⟨_, he, Only.ofExec (only_execBankRefresh core bank s) he, ?_, ?_, fun j hj => ?_⟩
    · rw [State.bed_setBed, if_pos rfl, find?_insertKey, if_pos rfl]
    · rw [State.bed_setBed, if_pos rfl]
    · rw [State.bed_setBed, if_neg hj]
  · have hx : exec (.refreshComplete core bank) s = .next (if since + refreshBusy ≤ s.now then
        s.setBed core.val { s.bed core.val with refreshing := removeKey bank.val (s.bed core.val).refreshing } else s) := by
      have h : exec (.refreshComplete core bank) s = .next (refreshComplete core.val bank.val s) := rfl
      rw [h, refreshComplete, hf]
    split
    · next ht =>
      rw [if_pos (show since + refreshBusy ≤ s.now from ht)] at hx
      refine ⟨_, hx, Only.ofExec (only_execRefreshComplete core bank s) hx, fun r => ?_, ?_⟩
      · rw [State.bed_setBed, if_pos rfl]
        exact mem_removeKey
      · rw [State.bed_setBed, if_pos rfl]
    · next ht => rw [hx, if_neg (show ¬ since + refreshBusy ≤ s.now from ht)]

/-! ### Commands that end (R136, R141, R142) -/

theorem Reg.bedDonecnt_off (k : Nat) : (Reg.bedDonecnt k).off = coreBlk k + 0x101C := rfl
theorem Reg.bedStatus_off (k : Nat) : (Reg.bedStatus k).off = coreBlk k + 0x1010 := rfl
theorem Reg.bedCtl_off (k : Nat) : (Reg.bedCtl k).off = coreBlk k + 0x1014 := rfl

theorem Reg.bedDonecnt_off_ne (k : Nat) : (Reg.bedDonecnt k).off ≠ (Reg.bedStatus k).off := by
  rw [Reg.bedDonecnt_off, Reg.bedStatus_off]
  omega

/-- The command is counted, and a fault noted. -/
def State.bedCounted (s : State) (k : Nat) (fault : Bool) : State :=
  if fault then (s.setReg (.bedDonecnt k) (BitVec.ofNat 64 (((s.reg (.bedDonecnt k)).toNat + 1) % 2 ^ 32))).setBit (.bedStatus k) 30
  else s.setReg (.bedDonecnt k) (BitVec.ofNat 64 (((s.reg (.bedDonecnt k)).toNat + 1) % 2 ^ 32))

theorem reg_bedCounted (s : State) (k : Nat) (fault : Bool) : (s.bedCounted k fault).reg (.bedDonecnt k) =
    BitVec.ofNat 64 (((s.reg (.bedDonecnt k)).toNat + 1) % 2 ^ 32) := by
  rw [State.bedCounted]
  split
  · rw [State.setBit, State.setF, State.reg_setReg_ne _ _ _ _ (Reg.bedDonecnt_off_ne k), State.reg_setReg_same]
  · exact State.reg_setReg_same ..

theorem regBit_bedCounted (s : State) (k : Nat) : (s.bedCounted k true).regBit (.bedStatus k) 30 = true := by
  rw [State.bedCounted, if_pos rfl, State.regBit_setBit _ _ _ _ (by decide) (by decide)]
  simp

theorem bedFinish_cases (s : State) (k : Nat) (fault notify ready : Bool) :
    s.bedFinish k fault notify ready = s.bedCounted k fault ∨
    s.bedFinish k fault notify ready = (s.bedCounted k fault).raise (srcCore k 3) := by
  have h : s.bedFinish k fault notify ready = if (ready && (s.bedCounted k fault).regBit (.bedCtl k) 0) ||
    (fault && (s.bedCounted k fault).regBit (.bedCtl k) 1) || notify then (s.bedCounted k fault).raise (srcCore k 3)
    else s.bedCounted k fault := rfl
  rw [h]
  split
  · exact Or.inr rfl
  · exact Or.inl rfl

theorem reg_bedFinish (s : State) (k : Nat) (fault notify ready : Bool) (r : Reg) :
    (s.bedFinish k fault notify ready).reg r = (s.bedCounted k fault).reg r := by
  rcases bedFinish_cases s k fault notify ready with h | h
  · rw [h]
  · rw [h, (only_raise _ _).reg_eq]

theorem only_bedFinish (s : State) (k : Nat) (fault notify ready : Bool) :
    Only [.ic] [.bedStatus, .bedDonecnt] s (s.bedFinish k fault notify ready) :=
  only_State_bedFinish s k fault notify ready (Only.refl s) (List.Subset.refl _) (List.Subset.refl _)

/-- The bed without the command in a slot. -/
def Bed.without (b : Bed) (slot : Nat) : Bed := { b with busy := b.busy.filter fun x => x.slot ≠ slot }

/-- What the end of a command leaves: its bed has one command fewer, its header is written, and it is counted. -/
structure BankEnded (s t : State) (k : Nat) (c : BankCmd) (st count : Nat) : Prop where
  bed : t.bed k = (s.bed k).without c.slot
  beds : ∀ j, j ≠ k → t.bed j = s.bed j
  mem : t.mem = wrBytes s.mem (windowBase k + resultOff c.slot) (headerBytes c.seq st count)
  done : t.reg (.bedDonecnt k) = BitVec.ofNat 64 (((s.reg (.bedDonecnt k)).toNat + 1) % 2 ^ 32)
  fault : st = slotFault → t.regBit (.bedStatus k) 30 = true

theorem bankEnded (s : State) (k : Nat) (c : BankCmd) (st count : Nat) : BankEnded s (s.bankEnd k c st count) k c st count := by
  have he : s.bankEnd k c st count = ((s.setBed k ((s.bed k).without c.slot)).setWin k (resultOff c.slot)
    (headerBytes c.seq st count)).bedFinish k (st = slotFault) (cmdNotify c.words) ((s.bed k).without c.slot).busy.isEmpty := rfl
  have hreg : ((s.setBed k ((s.bed k).without c.slot)).setWin k (resultOff c.slot) (headerBytes c.seq st count)).reg
      (.bedDonecnt k) = s.reg (.bedDonecnt k) := congrFun (State.reg_congr rfl rfl) _
  have hbed : ∀ j, ((s.setBed k ((s.bed k).without c.slot)).setWin k (resultOff c.slot) (headerBytes c.seq st count)).bed j =
      if j = k then (s.bed k).without c.slot else s.bed j := State.bed_setBed _ _ _
  have hmem : ((s.setBed k ((s.bed k).without c.slot)).setWin k (resultOff c.slot) (headerBytes c.seq st count)).mem =
      wrBytes s.mem (windowBase k + resultOff c.slot) (headerBytes c.seq st count) := rfl
  rw [he]
  generalize (s.setBed k ((s.bed k).without c.slot)).setWin k (resultOff c.slot) (headerBytes c.seq st count) = u at hreg hbed hmem
  have ho := only_bedFinish u k (st = slotFault) (cmdNotify c.words) ((s.bed k).without c.slot).busy.isEmpty
  have hb := State.bed_congr (ho.part .beds (by decide))
  refine ⟨?_, fun j hj => ?_, (ho.part .mem (by decide)).trans hmem, ?_, fun hst => ?_⟩
  · rw [hb, hbed, if_pos rfl]
  · rw [hb, hbed, if_neg hj]
  · rw [reg_bedFinish, reg_bedCounted, hreg]
  · rw [State.regBit_congr (reg_bedFinish u k _ _ _ _), hst, decide_eq_true rfl]
    exact regBit_bedCounted u k

theorem length_headerBytes (seq st count : Nat) : (headerBytes seq st count).length = 8 := by
  simp [headerBytes, length_leBytes]

theorem BankEnded.header {s t : State} {k st count : Nat} {c : BankCmd} (h : BankEnded s t k c st count) :
    Claims.header t k c.slot = headerBytes c.seq st count := by
  have hw := rdBytes_wrBytes_same s.mem (windowBase k + resultOff c.slot) (headerBytes c.seq st count)
  rw [length_headerBytes] at hw
  rw [Claims.header, h.mem, hw]

theorem BankEnded.header_ne {s t : State} {k st count n : Nat} {c : BankCmd} (h : BankEnded s t k c st count) (hn : n ≠ c.slot) :
    Claims.header t k n = Claims.header s k n := by
  rw [Claims.header, h.mem, rdBytes_wrBytes_apart]
  · rfl
  · rw [length_headerBytes, resultOff, resultOff]
    omega

/-- A byte outside the core's window is as before. -/
theorem BankEnded.outside {s t : State} {k st count a : Nat} {c : BankCmd} (h : BankEnded s t k c st count) (hs : c.slot < 256)
    (ha : a < windowBase k ∨ windowBase k + 2 ^ 32 ≤ a) : rdB t.mem a = rdB s.mem a := by
  rw [h.mem, rdB_wrBytes_outside]
  rw [length_headerBytes, resultOff]
  omega

/-! ### Cancellation (R143, R144) -/

/-- Every command of a list ends in FAULT CANCELLED. -/
def State.cancelAll (s : State) (k : Nat) (l : List BankCmd) : State :=
  l.foldl (fun s c => s.bankEnd k c slotFault faultCancelled) s

section
variable (s : State) (k : Nat) (l : List BankCmd)

theorem bed_cancelAll : ((s.cancelAll k l).bed k).busy = (s.bed k).busy.filter fun x => decide (∀ c, c ∈ l → x.slot ≠ c.slot) := by
  induction l generalizing s with
  | nil => simp [State.cancelAll]
  | cons c l ih =>
    have h := bankEnded s k c slotFault faultCancelled
    rw [State.cancelAll, List.foldl_cons]
    refine (ih _).trans ?_
    rw [h.bed, Bed.without, List.filter_filter]
    refine List.filter_congr fun x _ => ?_
    rw [← Bool.decide_and]
    exact decide_eq_decide.2 (by rw [List.forall_mem_cons, And.comm])

theorem bed_cancelAll_ne {j : Nat} (hj : j ≠ k) : (s.cancelAll k l).bed j = s.bed j :=
  foldl_reading (fun x : State => x.bed j) _ l s fun x c _ => (bankEnded x k c _ _).beds j hj

theorem outside_cancelAll (hs : ∀ c, c ∈ l → c.slot < 256) {a : Nat} (ha : a < windowBase k ∨ windowBase k + 2 ^ 32 ≤ a) :
    rdB (s.cancelAll k l).mem a = rdB s.mem a :=
  foldl_reading (fun x : State => rdB x.mem a) _ l s fun x c hc => (bankEnded x k c _ _).outside (hs c hc) ha

theorem done_cancelAll (hl : l ≠ []) : (s.cancelAll k l).reg (.bedDonecnt k) =
    BitVec.ofNat 64 (((s.reg (.bedDonecnt k)).toNat + l.length) % 2 ^ 32) ∧
    (s.cancelAll k l).regBit (.bedStatus k) 30 = true := by
  induction l using List.reverseRecOn with
  | nil => exact absurd rfl hl
  | append_singleton l c ih =>
    have h := bankEnded (s.cancelAll k l) k c slotFault faultCancelled
    have he : s.cancelAll k (l ++ [c]) = (s.cancelAll k l).bankEnd k c slotFault faultCancelled := by
      rw [State.cancelAll, List.foldl_append]
      rfl
    rw [he]
    refine ⟨?_, h.fault rfl⟩
    rw [h.done, List.length_append, List.length_singleton]
    by_cases hn : l = []
    · rw [hn]; rfl
    · rw [(ih hn).1, BitVec.toNat_ofNat]
      congr 1
      omega

theorem headers_cancelAll (hd : (l.map (·.slot)).Nodup) :
    ∀ c, c ∈ l → Claims.header (s.cancelAll k l) k c.slot = headerBytes c.seq 3 3 := by
  refine foldl_establishes (fun (c : BankCmd) (x : State) => Claims.header x k c.slot = headerBytes c.seq 3 3) _ l s
    (fun x c _ => (bankEnded x k c slotFault faultCancelled).header) fun x c b hc hb hx => ?_
  have h := bankEnded x k b slotFault faultCancelled
  by_cases hcb : c.slot = b.slot
  · rw [List.inj_on_of_nodup_map hd hc hb hcb]
    exact h.header
  · exact (h.header_ne hcb).trans hx

end

theorem bedCancel_empty (s : State) (k : Nat) : ((s.bedCancel k).bed k).busy = [] := by
  refine (bed_cancelAll s k (s.bed k).busy).trans (List.filter_eq_nil_iff.2 fun x hx => ?_)
  rw [decide_eq_true_eq]
  exact fun h => h x hx rfl

/-- BED_CTL has taken the word. -/
def State.bedCtlTaken (s : State) (k : Nat) (v : DWord) : State := s.plainWrite (.bedCtl k) v

section
variable (s : State) (k : Nat) (v : DWord)

theorem only_bedCtlTaken : Only [] [.bedCtl] s (s.bedCtlTaken k v) :=
  only_State_setReg s _ _ (List.elem_iff.mp rfl) (Only.refl s)

theorem bed_bedCtlTaken : (s.bedCtlTaken k v).bed = s.bed := State.bed_setReg ..

theorem done_bedCtlTaken : (s.bedCtlTaken k v).reg (.bedDonecnt k) = s.reg (.bedDonecnt k) :=
  State.reg_setReg_ne _ _ _ _ (by rw [Reg.bedDonecnt_off, Reg.bedCtl_off]; omega)

theorem bedCtlWrite_cancel (h31 : nbit v.toNat 31 = true) (h30 : nbit v.toNat 30 = false) :
    s.bedCtlWrite k v = (s.bedCtlTaken k v).cancelAll k (s.bed k).busy := by
  have h : s.bedCtlWrite k v = if nbit v.toNat 30 then
    (if nbit v.toNat 31 then (s.bedCtlTaken k v).bedCancel k else s.bedCtlTaken k v).bedClear k
    else if nbit v.toNat 31 then (s.bedCtlTaken k v).bedCancel k else s.bedCtlTaken k v := rfl
  rw [h, if_neg (by rw [h30]; exact Bool.false_ne_true), if_pos h31, State.bedCancel, bed_bedCtlTaken]
  rfl

/-- The state that a clear cancels once more. -/
def State.clearing : State := if nbit v.toNat 31 then (s.bedCtlTaken k v).bedCancel k else s.bedCtlTaken k v

theorem bedCtlWrite_clear (h30 : nbit v.toNat 30 = true) : s.bedCtlWrite k v = (s.clearing k v).bedClear k := if_pos h30

theorem clearing_facts (hs : ∀ c, c ∈ (s.bed k).busy → c.slot < 256) :
    (∀ c, c ∈ ((s.clearing k v).bed k).busy → c.slot < 256) ∧ (∀ j, j ≠ k → (s.clearing k v).bed j = s.bed j) ∧
    ∀ a, a < windowBase k ∨ windowBase k + 2 ^ 32 ≤ a → rdB (s.clearing k v).mem a = rdB s.mem a := by
  have hb := bed_bedCtlTaken s k v
  have hm : (s.bedCtlTaken k v).mem = s.mem := (only_bedCtlTaken s k v).part .mem (by decide)
  rw [State.clearing]
  split
  · refine ⟨fun c hc => ?_, fun j hj => ?_, fun a ha => ?_⟩
    · rw [bedCancel_empty] at hc
      exact absurd hc List.not_mem_nil
    · exact (bed_cancelAll_ne _ _ _ hj).trans (congrFun hb j)
    · exact (outside_cancelAll _ _ _ (fun c hc => hs c (by rwa [hb] at hc)) ha).trans (by rw [hm])
  · exact ⟨fun c hc => hs c (by rwa [hb] at hc), fun j _ => congrFun hb j, fun a _ => by rw [hm]⟩

end

theorem bedClear_facts (s : State) (k : Nat) (hs : ∀ c, c ∈ (s.bed k).busy → c.slot < 256) :
    ((s.bedClear k).bed k).busy = [] ∧ (∀ j, j ≠ k → (s.bedClear k).bed j = s.bed j) ∧
    ∀ a, rdB (s.bedClear k).mem a = if windowBase k ≤ a ∧ a < windowBase k + 2 ^ 32 then 0 else rdB s.mem a := by
  refine ⟨bedCancel_empty s k, fun j hj => bed_cancelAll_ne s k _ hj, fun a => ?_⟩
  have h : rdB (s.bedClear k).mem a = if windowBase k ≤ a ∧ a < windowBase k + 2 ^ 32 then 0
    else rdB (s.cancelAll k (s.bed k).busy).mem a := rdB_zeroRange ..
  rw [h]
  by_cases hin : windowBase k ≤ a ∧ a < windowBase k + 2 ^ 32
  · rw [if_pos hin, if_pos hin]
  · rw [if_neg hin, if_neg hin, outside_cancelAll s k _ hs (by omega)]

theorem nbit_setWidth (value : Word) (b : Nat) : nbit (value.setWidth 64).toNat b = nbit value.toNat b := by
  rw [BitVec.toNat_setWidth, Nat.mod_eq_of_lt (Nat.lt_trans value.isLt (by decide))]

theorem bed_control (core : Fin 64) (value : Word) (s : State) :
    let k := core.val
    let b := s.bed k
    s.dieLost (k / 8) = false → (∀ c, c ∈ b.busy → c.slot < 256) → (b.busy.map (·.slot)).Nodup →
    (nbit value.toNat 31 = true → nbit value.toNat 30 = false → ∃ t, exec (.bedCtlCancel core value) s = .next t ∧
      Only [.mem, .beds, .ic] [.bedStatus, .bedCtl, .bedDonecnt] s t ∧ (t.bed k).busy = [] ∧
      (∀ c, c ∈ b.busy → Claims.header t k c.slot = headerBytes c.seq 3 3) ∧
      (b.busy ≠ [] → t.reg (.bedDonecnt k) = BitVec.ofNat 64 (((s.reg (.bedDonecnt k)).toNat + b.busy.length) % 2 ^ 32) ∧
        t.regBit (.bedStatus k) 30 = true)) ∧
    (nbit value.toNat 30 = true → ∃ t, exec (.bedCtlClear core value) s = .next t ∧
      Only [.mem, .beds, .ic] [.bedStatus, .bedCtl, .bedDonecnt] s t ∧ (t.bed k).busy = [] ∧
      (∀ j, j ≠ k → t.bed j = s.bed j) ∧
      ∀ a, rdB t.mem a = if windowBase k ≤ a ∧ a < windowBase k + 2 ^ 32 then 0 else rdB s.mem a) := by
  intro k b hl hs hd
  refine ⟨fun h31 h30 => ?_, fun h30 => ?_⟩
  · have hx : exec (.bedCtlCancel core value) s = .next (if !s.dieLost (core.val / 8) && nbit value.toNat 31 then
      s.bedCtlWrite core.val (value.setWidth 64) else s) := rfl
    have he := hx.trans (congrArg Host.Outcome.next ((if_pos (by simp only [k] at hl; simp [hl, h31])).trans
      (bedCtlWrite_cancel s core.val (value.setWidth 64) (by rwa [nbit_setWidth]) (by rwa [nbit_setWidth]))))
    have hb := congrFun (bed_bedCtlTaken s core.val (value.setWidth 64)) core.val
    refine ⟨_, he, Only.ofExec (only_execBedCtlCancel core value s) he, ?_, headers_cancelAll _ _ _ hd, fun hn => ?_⟩
    · refine (bed_cancelAll ..).trans (List.filter_eq_nil_iff.2 fun x hx => ?_)
      rw [hb] at hx
      rw [decide_eq_true_eq]
      exact fun h => h x hx rfl
    · have h := done_cancelAll (s.bedCtlTaken core.val (value.setWidth 64)) core.val _ hn
      rwa [done_bedCtlTaken] at h
  · have hx : exec (.bedCtlClear core value) s = .next (if !s.dieLost (core.val / 8) && nbit value.toNat 30 then
      s.bedCtlWrite core.val (value.setWidth 64) else s) := rfl
    have he := hx.trans (congrArg Host.Outcome.next ((if_pos (by simp only [k] at hl; simp [hl, h30])).trans
      (bedCtlWrite_clear s core.val (value.setWidth 64) (by rwa [nbit_setWidth]))))
    obtain ⟨hc, hj, hm⟩ := clearing_facts s core.val (value.setWidth 64) hs
    obtain ⟨h1, h2, h3⟩ := bedClear_facts _ core.val hc
    refine ⟨_, he, Only.ofExec (only_execBedCtlClear core value s) he, h1, fun j hn => (h2 j hn).trans (hj j hn), fun a => ?_⟩
    rw [h3]
    by_cases hin : windowBase core.val ≤ a ∧ a < windowBase core.val + 2 ^ 32
    · rw [if_pos hin, if_pos hin]
    · rw [if_neg hin, if_neg hin, hm a (by omega)]

/-- Settles O47. -/
theorem bedsAreControlledAndRefreshed : Obligations.BedsAreControlledAndRefreshed :=
  ⟨bed_control, bedMode_write, modeChange_complete, bedLimit_write, bankLimit_update, bed_fence, bank_refresh⟩

end Sys2Proof.Machine
end

section
/-! Bank commands from their issue to their end (R132 to R138, R145 to R151). -/

namespace Sys2Proof.Machine

/-! ### Bed registers out of memory's reach -/

theorem memoryTouches_bed {r : Reg} (h : memoryTouches r) {k o : Nat} (h0 : 0x1000 ≤ o) (h1 : o < 0x104C) :
    r.off ≠ coreBlk k + o := by
  rw [coreBlk, blk]
  cases r with
  | ctrVal u i =>
    change i < unitCtrs u at h
    rw [Reg.ctrVal_off]
    unfold unitVals coreBlk portBlk blk
    unfold unitCtrs at h
    split_ifs at h ⊢ <;> omega
  | memChstat n c => rw [Reg.memChstat_off, blk]; change c < 16 at h; omega
  | memChce n c => rw [Reg.memChce_off, blk]; change c < 16 at h; omega
  | memChue n c => rw [Reg.memChue_off, blk]; change c < 16 at h; omega
  | memChpoison n c => rw [Reg.memChpoison_off, blk]; change c < 16 at h; omega
  | memStat n => rw [Reg.memStat_off, blk]; omega
  | memInject n => rw [Reg.memInject_off, blk]; omega
  | fabStat d => rw [Reg.fabStat_off, blk]; omega
  | fabDiscard d => rw [Reg.fabDiscard_off, blk]; omega
  | bedCe j => rw [Reg.bedCe_off, coreBlk, blk]; omega
  | bedUe j => rw [Reg.bedUe_off, coreBlk, blk]; omega
  | bedLastue j => rw [Reg.bedLastue_off, coreBlk, blk]; omega
  | _ => cases h

theorem RegsBut.reg_bed {s t : State} (h : RegsBut memoryTouches s t) {q : Reg} {k o : Nat} (hq : q.off = coreBlk k + o)
    (h0 : 0x1000 ≤ o) (h1 : o < 0x104C) : t.reg q = s.reg q := h.reg q fun _ hr => hq ▸ (memoryTouches_bed hr h0 h1).symm

/-! ### Issue (R132 to R136) -/

/-- The command is stored in its slot and counted. -/
def State.slotStored (s : State) (k slot : Nat) (w0 : List Byte) : State := (s.setWin k (commandOff slot) w0).ctr k 0x30 1

section
variable (s : State) (k slot : Nat) (w0 : List Byte)

theorem only_slotStored : Only [.mem] [.ctrVal] s (s.slotStored k slot w0) :=
  only_State_ctr _ _ _ _ (only_State_setWin s k _ w0 (Only.refl s) (List.Subset.refl _)) (List.Subset.refl _)

theorem mem_slotStored : (s.slotStored k slot w0).mem = wrBytes s.mem (windowBase k + commandOff slot) w0 := mem_ctr ..

theorem touched_slotStored : RegsBut memoryTouches s (s.slotStored k slot w0) :=
  touched_ctr _ _ _ _ ((RegsBut.refl s).of_regs rfl rfl)

end

theorem rdBytes_prefix (m : Memory) (a n : Nat) (bs : List Byte) :
    rdBytes (wrBytes m a bs) a (bs.length + n) = bs ++ rdBytes m (a + bs.length) n := by
  rw [← rdBytes_append, rdBytes_wrBytes_same, rdBytes_wrBytes_apart _ _ _ _ _ (Or.inr (Nat.le_refl _))]

theorem winBytes_slotStored (s : State) (k slot : Nat) (w0 : DWord) :
    (s.slotStored k slot (leBytes 8 w0.toNat)).winBytes k (commandOff slot) 64 = Claims.slotWords s k slot w0 := by
  have h := rdBytes_prefix s.mem (windowBase k + commandOff slot) 56 (leBytes 8 w0.toNat)
  rw [length_leBytes] at h
  rw [State.winBytes, mem_slotStored]
  exact h

/-- The query buffers lie below the command slots. -/
theorem query_slotStored (s : State) (k slot n q : Nat) (w0 : List Byte) (hq : queryOff q + n ≤ 0x400000) :
    (s.slotStored k slot w0).winBytes k (queryOff q) n = rdBytes s.mem (windowBase k + queryOff q) n := by
  rw [State.winBytes, mem_slotStored, rdBytes_wrBytes_apart]
  rw [commandOff]
  omega

/-- A command that is not started: its slot shows a fault, and it counts as finished. -/
def State.commandFaulted (u : State) (k slot seq code : Nat) (notify : Bool) : State :=
  (u.setWin k (resultOff slot) (headerBytes seq slotFault code)).bedFinish k true notify false

theorem commandFaulted_facts (u : State) (k slot seq code : Nat) (notify : Bool) :
    (u.commandFaulted k slot seq code notify).beds = u.beds ∧
    Claims.header (u.commandFaulted k slot seq code notify) k slot = headerBytes seq 3 code ∧
    (u.commandFaulted k slot seq code notify).reg (.bedDonecnt k) = BitVec.ofNat 64 (((u.reg (.bedDonecnt k)).toNat + 1) % 2 ^ 32) ∧
    (u.commandFaulted k slot seq code notify).regBit (.bedStatus k) 30 = true := by
  have hbeds : (u.setWin k (resultOff slot) (headerBytes seq slotFault code)).beds = u.beds := rfl
  have hmem : (u.setWin k (resultOff slot) (headerBytes seq slotFault code)).mem =
    wrBytes u.mem (windowBase k + resultOff slot) (headerBytes seq slotFault code) := rfl
  have hreg : (u.setWin k (resultOff slot) (headerBytes seq slotFault code)).reg (.bedDonecnt k) = u.reg (.bedDonecnt k) :=
    congrFun (State.reg_congr rfl rfl) _
  rw [State.commandFaulted]
  generalize u.setWin k (resultOff slot) (headerBytes seq slotFault code) = v at hbeds hmem hreg
  have ho := only_bedFinish v k true notify false
  have hw := rdBytes_wrBytes_same u.mem (windowBase k + resultOff slot) (headerBytes seq slotFault code)
  rw [length_headerBytes] at hw
  refine ⟨(ho.part .beds (by decide)).trans hbeds, ?_, ?_, ?_⟩
  · rw [Claims.header, ho.part .mem (by decide), hmem, hw]
    rfl
  · rw [reg_bedFinish, reg_bedCounted, hreg]
  · rw [State.regBit_congr (reg_bedFinish v k _ _ _ _)]
    exact regBit_bedCounted v k

/-- A command that is taken: its slot shows BUSY, and its words and queries are copied. -/
def State.commandTaken (u : State) (k slot : Nat) (b : Bed) (ws q : List Byte) (owner : Option (Nat × Nat)) (tenant : Nat) : State :=
  (u.setWin k (resultOff slot) (headerBytes (cmdF ws 0 4) slotBusy 0)).setBed k
    { b with busy := b.busy ++ [{ slot := slot, seq := cmdF ws 0 4, words := ws, query := q, pending := b.oldMode.isSome,
                                  owner := owner, tenant := tenant }] }

theorem header_commandTaken (u : State) (k slot : Nat) (b : Bed) (ws q : List Byte) (owner : Option (Nat × Nat)) (tenant : Nat) :
    Claims.header (u.commandTaken k slot b ws q owner tenant) k slot = headerBytes (cmdF ws 0 4) 1 0 := by
  have hw := rdBytes_wrBytes_same u.mem (windowBase k + resultOff slot) (headerBytes (cmdF ws 0 4) slotBusy 0)
  rw [length_headerBytes] at hw
  exact hw

theorem only_commandFaulted (u : State) (k slot seq code : Nat) (notify : Bool) :
    Only [.mem, .ic] [.bedStatus, .bedDonecnt] u (u.commandFaulted k slot seq code notify) :=
  only_State_bedFinish _ _ _ _ _ (only_State_setWin u k _ _ (Only.refl u) (by decide)) (by decide) (List.Subset.refl _)

theorem only_commandTaken (u : State) (k slot : Nat) (b : Bed) (ws q : List Byte) (owner : Option (Nat × Nat)) (tenant : Nat) :
    Only [.mem, .beds] [] u (u.commandTaken k slot b ws q owner tenant) :=
  only_State_setBed _ _ _ (only_State_setWin u k _ _ (Only.refl u) (by decide)) (by decide)

theorem bed_commandTaken (u : State) (k slot : Nat) (b : Bed) (ws q : List Byte) (owner : Option (Nat × Nat)) (tenant j : Nat) :
    (u.commandTaken k slot b ws q owner tenant).bed j = if j = k then
      { b with busy := b.busy ++ [{ slot := slot, seq := cmdF ws 0 4, words := ws, query := q, pending := b.oldMode.isSome,
                                    owner := owner, tenant := tenant }] } else u.bed j :=
  State.bed_setBed _ _ _ _

/-- A fault in a state whose beds and counts are as before. -/
theorem faulted_after {s u : State} {k : Nat} (hbeds : u.beds = s.beds) (hdone : u.reg (.bedDonecnt k) = s.reg (.bedDonecnt k))
    (slot seq code : Nat) (notify : Bool) :
    (u.commandFaulted k slot seq code notify).beds = s.beds ∧
    Claims.header (u.commandFaulted k slot seq code notify) k slot = headerBytes seq 3 code ∧
    (u.commandFaulted k slot seq code notify).reg (.bedDonecnt k) = BitVec.ofNat 64 (((s.reg (.bedDonecnt k)).toNat + 1) % 2 ^ 32) ∧
    (u.commandFaulted k slot seq code notify).regBit (.bedStatus k) 30 = true := by
  obtain ⟨h1, h2, h3, h4⟩ := commandFaulted_facts u k slot seq code notify
  exact ⟨h1.trans hbeds, h2, by rw [h3, hdone], h4⟩

section
variable (s : State) (k slot : Nat) (w0 : List Byte) (owner : Option (Nat × Nat)) (tenant node : Nat)

theorem issueBank_busy (h : ∃ c, c ∈ (s.bed k).busy ∧ c.slot = slot) : s.issueBank k slot w0 owner tenant node =
    (s.setBit (.bedStatus k) 29).accessError 5 node tenant (windowBase k + commandOff slot) :=
  if_pos (by simpa using h)

theorem issueBank_free (h : ∀ c, c ∈ (s.bed k).busy → c.slot ≠ slot) : s.issueBank k slot w0 owner tenant node =
    if s.regF (.bedMode k) 0 2 = 0 then
      (s.slotStored k slot w0).commandFaulted k slot (cmdF ((s.slotStored k slot w0).winBytes k (commandOff slot) 64) 0 4)
        faultNotCompute (cmdNotify ((s.slotStored k slot w0).winBytes k (commandOff slot) 64))
    else if cmdOk ((s.slotStored k slot w0).winBytes k (commandOff slot) 64) = false then
      (s.slotStored k slot w0).commandFaulted k slot (cmdF ((s.slotStored k slot w0).winBytes k (commandOff slot) 64) 0 4)
        faultBadCommand (cmdNotify ((s.slotStored k slot w0).winBytes k (commandOff slot) 64))
    else (s.slotStored k slot w0).commandTaken k slot (s.bed k) ((s.slotStored k slot w0).winBytes k (commandOff slot) 64)
      ((s.slotStored k slot w0).winBytes k (queryOff (cmdF ((s.slotStored k slot w0).winBytes k (commandOff slot) 64) 6 1))
        (cmdGq ((s.slotStored k slot w0).winBytes k (commandOff slot) 64) * 0x200)) owner tenant := by
  have hnone : ¬ ((s.bed k).busy.any fun c => c.slot = slot) = true := by simpa using h
  rw [State.issueBank, if_neg hnone]
  by_cases h0 : s.regF (.bedMode k) 0 2 = 0
  · simp only [h0, if_true]
    rfl
  · cases hok : cmdOk ((s.slotStored k slot w0).winBytes k (commandOff slot) 64) with
    | false =>
      have hok' : cmdOk (((s.setWin k (commandOff slot) w0).ctr k 0x30 1).winBytes k (commandOff slot) 64) = false := hok
      simp only [h0, if_false, hok', Bool.not_false, if_true]
      rfl
    | true =>
      have hok' : cmdOk (((s.setWin k (commandOff slot) w0).ctr k 0x30 1).winBytes k (commandOff slot) 64) = true := hok
      simp only [h0, if_false, hok', Bool.not_true, Bool.false_eq_true, Bool.true_eq_false]
      rfl

end

theorem exec_partialCmd (core : Fin 64) (bank : Fin 128) (slot : Fin 2) (w0 : DWord) (s : State)
    (hl : s.dieLost (core.val / 8) = false) : exec (.partialCmd core bank slot w0) s = .next
      (if !s.coreEnabled core.val || s.retired core.val bank.val then
        s.accessError 1 0x70 noTenant (windowBase core.val + commandOff (2 * bank.val + slot.val))
      else s.issueBank core.val (2 * bank.val + slot.val) (leBytes 8 w0.toNat) none noTenant 0x70) := by
  have h : exec (.partialCmd core bank slot w0) s = .next (partialCmd core.val bank.val slot.val w0 s) := rfl
  rw [h, partialCmd, if_neg (by rw [hl]; exact Bool.false_ne_true)]

theorem exec_partialCmd_issues {core : Fin 64} {bank : Fin 128} (slot : Fin 2) (w0 : DWord) {s : State}
    (hl : s.dieLost (core.val / 8) = false) (hc : s.coreEnabled core.val = true) (hr : s.retired core.val bank.val = false) :
    exec (.partialCmd core bank slot w0) s = .next
      (s.issueBank core.val (2 * bank.val + slot.val) (leBytes 8 w0.toNat) none noTenant 0x70) := by
  rw [exec_partialCmd core bank slot w0 s hl, if_neg (by simp [hc, hr])]

/-- R133: what a command that passes its checks says of its queries. -/
theorem query_of_cmdOk {ws : List Byte} (h : cmdOk ws = true) : cmdF ws 6 1 < 16 ∧ cmdGq ws ≤ 8 := by
  simp only [cmdOk, Bool.and_eq_true, decide_eq_true_eq] at h
  omega

theorem partialCmd_busy (core : Fin 64) (bank : Fin 128) (slot : Fin 2) (w0 : DWord) (s : State)
    (hl : s.dieLost (core.val / 8) = false) (hc : s.coreEnabled core.val = true) (hr : s.retired core.val bank.val = false)
    (hb : ∃ c, c ∈ (s.bed core.val).busy ∧ c.slot = 2 * bank.val + slot.val) :
    ∃ t, exec (.partialCmd core bank slot w0) s = .next t ∧ Only [.flog0, .flog1] [.bedStatus] s t ∧
      t.regBit (.bedStatus core.val) 29 = true ∧
      Claims.logs s t (Claims.entry s 1 0 0x10 0x70 0xFFFF 5 (windowBase core.val + commandOff (2 * bank.val + slot.val))) := by
  have he := (exec_partialCmd_issues slot w0 hl hc hr).trans (congrArg Host.Outcome.next (issueBank_busy s _ _ _ _ _ _ hb))
  have hset : Only [] [.bedStatus] s (s.setBit (.bedStatus core.val) 29) :=
    only_State_setBit s _ _ (Only.refl s) (List.elem_iff.mp rfl)
  have hbit : (s.setBit (.bedStatus core.val) 29).regBit (.bedStatus core.val) 29 = true := by
    rw [State.regBit_setBit _ _ _ _ (by decide) (by decide)]
    simp
  have hlog := logs_after (s := s) (u := s.setBit (.bedStatus core.val) 29) (code := 1) (sev := 0) (die := 8) (node := 0x70)
    (tenant := noTenant) (d0 := 5) (d1 := windowBase core.val + commandOff (2 * bank.val + slot.val))
    (hset.part .tb (by decide)) (hset.part .flog0 (by decide)) (hset.part .flog1 (by decide)) rfl rfl
  have hsub := only_log (s.setBit (.bedStatus core.val) 29) 1 0 8 0x70 noTenant 5
    (windowBase core.val + commandOff (2 * bank.val + slot.val))
  refine ⟨_, he, (hset.mono (by decide) (by decide)).trans (hsub.mono (by decide) (by decide)),
    (State.regBit_congr (hsub.reg_eq _) 29).trans hbit, hlog⟩

theorem partialCmd_issues (core : Fin 64) (bank : Fin 128) (slot : Fin 2) (w0 : DWord) (s : State)
    (hl : s.dieLost (core.val / 8) = false) (hc : s.coreEnabled core.val = true) (hr : s.retired core.val bank.val = false)
    (hb : ∀ c, c ∈ (s.bed core.val).busy → c.slot ≠ 2 * bank.val + slot.val) :
    let k := core.val
    let n := 2 * bank.val + slot.val
    let ws := Claims.slotWords s k n w0
    let b := s.bed k
    ∃ t, exec (.partialCmd core bank slot w0) s = .next t ∧ Only [.mem, .beds, .ic] [.bedStatus, .bedDonecnt, .ctrVal] s t ∧
      if s.regF (.bedMode k) 0 2 = 0 then t.beds = s.beds ∧ Claims.header t k n = headerBytes (fieldAt ws 0 4) 3 1 ∧
        t.reg (.bedDonecnt k) = BitVec.ofNat 64 (((s.reg (.bedDonecnt k)).toNat + 1) % 2 ^ 32) ∧
        t.regBit (.bedStatus k) 30 = true
      else if cmdOk ws = false then t.beds = s.beds ∧ Claims.header t k n = headerBytes (fieldAt ws 0 4) 3 2 ∧
        t.reg (.bedDonecnt k) = BitVec.ofNat 64 (((s.reg (.bedDonecnt k)).toNat + 1) % 2 ^ 32) ∧
        t.regBit (.bedStatus k) 30 = true
      else Claims.header t k n = headerBytes (fieldAt ws 0 4) 1 0 ∧ t.reg (.bedDonecnt k) = s.reg (.bedDonecnt k) ∧
        (∀ j, j ≠ k → t.bed j = s.bed j) ∧
        let q := rdBytes s.mem (windowBase k + queryOff (fieldAt ws 6 1)) (fieldAt ws 7 1 * 0x200)
        let c : BankCmd := { slot := n, seq := fieldAt ws 0 4, words := ws, query := q, pending := b.oldMode.isSome }
        t.bed k = { b with busy := b.busy ++ [c] } := by
  intro k n ws b
  have he := (exec_partialCmd_issues slot w0 hl hc hr).trans (congrArg Host.Outcome.next (issueBank_free s k n _ none noTenant 0x70 hb))
  have hws := winBytes_slotStored s k n w0
  rw [hws] at he
  have hq := fun m q h => query_slotStored s k n m q (leBytes 8 w0.toNat) h
  have ho := only_slotStored s k n (leBytes 8 w0.toNat)
  have hdone : (s.slotStored k n (leBytes 8 w0.toNat)).reg (.bedDonecnt k) = s.reg (.bedDonecnt k) :=
    (touched_slotStored s k n _).reg_bed (Reg.bedDonecnt_off k) (by decide) (by decide)
  refine ⟨_, he, ?_, ?_⟩
  · refine (ho.mono (by decide) (by decide)).trans ?_
    split
    · exact (only_commandFaulted ..).mono (by decide) (by decide)
    · split
      · exact (only_commandFaulted ..).mono (by decide) (by decide)
      · exact (only_commandTaken ..).mono (by decide) (by decide)
  · by_cases h0 : s.regF (.bedMode k) 0 2 = 0
    · rw [if_pos h0, if_pos h0]
      exact faulted_after (ho.part .beds (by decide)) hdone ..
    · rw [if_neg h0, if_neg h0]
      by_cases hok : cmdOk ws = false
      · rw [if_pos hok, if_pos hok]
        exact faulted_after (ho.part .beds (by decide)) hdone ..
      · rw [if_neg hok, if_neg hok]
        obtain ⟨h6, h8⟩ := query_of_cmdOk (ws := ws) (by simpa using hok)
        have hq := query_slotStored s k n (cmdGq ws * 0x200) (cmdF ws 6 1) (leBytes 8 w0.toNat) (by rw [queryOff]; omega)
        rw [hq]
        refine ⟨header_commandTaken .., ?_, fun j hj => ?_, ?_⟩
        · exact ((only_commandTaken ..).reg_eq _).trans hdone
        · rw [bed_commandTaken, if_neg hj]
          exact congrFun (State.bed_congr (ho.part .beds (by decide))) j
        · rw [bed_commandTaken, if_pos rfl]
          rfl

/-- Settles O45. -/
theorem bankCommandsAreChecked : Obligations.BankCommandsAreChecked := by
  intro core bank slot w0 s k n ws b hl
  refine ⟨fun h => ?_, fun hc hr hb => partialCmd_busy core bank slot w0 s hl hc hr hb,
    fun hc hr hb => partialCmd_issues core bank slot w0 s hl hc hr hb⟩
  rw [exec_partialCmd core bank slot w0 s hl, if_pos]
  rcases h with h | h
  · rw [h]; rfl
  · rw [h, Bool.or_true]

end Sys2Proof.Machine
end

section
/-! Bank commands run: start, activations, pause, resume and end (R136, R138, R145 to R151). -/

namespace Sys2Proof.Machine

/-! ### Sorting by a key -/

theorem mem_insertBy_iff {α : Type} {key : α → Nat} {x : α} {l : List α} {y : α} : y ∈ insertBy key x l ↔ y = x ∨ y ∈ l := by
  refine ⟨mem_insertBy key x l y, fun h => ?_⟩
  induction l with
  | nil => simpa [insertBy] using h
  | cons a l ih =>
    unfold insertBy
    split
    · exact List.mem_cons.2 h
    · rcases h with h | h
      · exact List.mem_cons_of_mem _ (ih (Or.inl h))
      · rcases List.mem_cons.1 h with h | h
        · exact List.mem_cons.2 (Or.inl h)
        · exact List.mem_cons_of_mem _ (ih (Or.inr h))

theorem mem_sortBy_iff {α : Type} {key : α → Nat} {l : List α} {y : α} : y ∈ sortBy key l ↔ y ∈ l := by
  induction l with
  | nil => exact Iff.rfl
  | cons a l ih =>
    have h : sortBy key (a :: l) = insertBy key a (sortBy key l) := rfl
    rw [h, mem_insertBy_iff, ih, List.mem_cons]

theorem sorted_insertBy {α : Type} {key : α → Nat} {x : α} {l : List α} (h : l.Pairwise fun a b => key a ≤ key b) :
    (insertBy key x l).Pairwise fun a b => key a ≤ key b := by
  induction l with
  | nil => exact List.pairwise_singleton ..
  | cons a l ih =>
    obtain ⟨ha, hl⟩ := List.pairwise_cons.1 h
    unfold insertBy
    split
    · next hx =>
      refine List.pairwise_cons.2 ⟨fun b hb => ?_, h⟩
      rcases List.mem_cons.1 hb with rfl | hb
      · exact hx
      · exact Nat.le_trans hx (ha b hb)
    · next hx =>
      refine List.pairwise_cons.2 ⟨fun b hb => ?_, ih hl⟩
      rcases mem_insertBy_iff.1 hb with rfl | hb
      · omega
      · exact ha b hb

theorem sorted_sortBy {α : Type} (key : α → Nat) (l : List α) : (sortBy key l).Pairwise fun a b => key a ≤ key b := by
  induction l with
  | nil => exact List.Pairwise.nil
  | cons a l ih => exact sorted_insertBy ih

/-- The last of a sorted list is the one element above all others. -/
theorem getLast?_sortBy {α : Type} {key : α → Nat} {l : List α} {c : α} (hc : c ∈ l) (h : ∀ x, x ∈ l → x = c ∨ key x < key c) :
    (sortBy key l).getLast? = some c := by
  have hm := mem_sortBy_iff (key := key).2 hc
  cases hl : (sortBy key l).getLast? with
  | none => exact absurd (List.getLast?_eq_none_iff.1 hl ▸ hm) List.not_mem_nil
  | some y =>
    obtain ⟨ys, hy⟩ := List.getLast?_eq_some_iff.1 hl
    have hs := hy ▸ sorted_sortBy key l
    rw [hy] at hm
    have hyl : y ∈ l := mem_sortBy_iff (key := key).1 (by rw [hy]; simp)
    rcases h y hyl with rfl | hlt
    · rfl
    · rcases List.mem_append.1 hm with hm | hm
      · have := (List.pairwise_append.1 hs).2.2 c hm y (List.mem_singleton.2 rfl)
        omega
      · rw [List.mem_singleton.1 hm]

/-- The first of a sorted list is the one element below all others. -/
theorem sortBy_head {α : Type} {key : α → Nat} {l : List α} {c : α} (hc : c ∈ l) (h : ∀ x, x ∈ l → x = c ∨ key c < key x) :
    ∃ rest, sortBy key l = c :: rest := by
  have hm := mem_sortBy_iff (key := key).2 hc
  cases hl : sortBy key l with
  | nil => exact absurd (hl ▸ hm) List.not_mem_nil
  | cons y ys =>
    have hs := hl ▸ sorted_sortBy key l
    rw [hl] at hm
    rcases h y (mem_sortBy_iff (key := key).1 (by rw [hl]; simp)) with rfl | hlt
    · exact ⟨ys, rfl⟩
    · rcases List.mem_cons.1 hm with rfl | hm
      · exact ⟨ys, rfl⟩
      · have := (List.pairwise_cons.1 hs).1 c hm
        omega

/-! ### Pause and resume (R148, R150) -/

theorem bankPause_pauses {s : State} {k : Nat} {c : BankCmd} (hm : s.bedModeNow k = 1)
    (hq : s.regF (.bedQuota k) 0 8 < (s.bed k).runningCount) (hc : c ∈ (s.bed k).busy) (hr : c.state = .running)
    (hlast : ∀ x, x ∈ (s.bed k).busy → x.state = .running → x = c ∨ x.order < c.order) :
    bankPause k s = s.setBed k ((s.bed k).setCmd { c with state := .paused }) := by
  have h := getLast?_sortBy (key := fun c : BankCmd => c.order) (l := (s.bed k).busy.filter fun c => c.state = .running) (c := c)
    (List.mem_filter.2 ⟨hc, decide_eq_true hr⟩) fun x hx =>
      hlast x (List.mem_filter.1 hx).1 (of_decide_eq_true (List.mem_filter.1 hx).2)
  rw [bankPause, if_pos (by simp [hm, hq]), h]

theorem bankResume_resumes {s : State} {k : Nat} {c : BankCmd} (hq : (s.bed k).runningCount < s.regF (.bedQuota k) 0 8)
    (hc : c ∈ (s.bed k).busy) (hr : c.state = .paused)
    (hfirst : ∀ x, x ∈ (s.bed k).busy → x.state = .paused → x = c ∨ c.order < x.order) :
    bankResume k s = s.setBed k ((s.bed k).setCmd { c with state := .running }) := by
  obtain ⟨rest, h⟩ := sortBy_head (key := fun c : BankCmd => c.order) (l := (s.bed k).busy.filter fun c => c.state = .paused) (c := c)
    (List.mem_filter.2 ⟨hc, decide_eq_true hr⟩) fun x hx =>
      hfirst x (List.mem_filter.1 hx).1 (of_decide_eq_true (List.mem_filter.1 hx).2)
  rw [bankResume, if_pos hq, h]

theorem exec_bankPause (core : Fin 64) (s : State) : exec (.bankPause core) s = .next (bankPause core.val s) := rfl
theorem exec_bankResume (core : Fin 64) (s : State) : exec (.bankResume core) s = .next (bankResume core.val s) := rfl

theorem bed_setBed_both (s : State) (k : Nat) (b : Bed) : (s.setBed k b).bed k = b ∧ ∀ j, j ≠ k → (s.setBed k b).bed j = s.bed j :=
  ⟨by rw [State.bed_setBed, if_pos rfl], fun j hj => by rw [State.bed_setBed, if_neg hj]⟩

theorem banks_pause_resume (core : Fin 64) (c : BankCmd) (s : State) :
    let k := core.val
    let b := s.bed k
    (s.bedModeNow k = 1 → s.regF (.bedQuota k) 0 8 < b.runningCount → c ∈ b.busy → c.state = .running →
      (∀ x, x ∈ b.busy → x.state = .running → x = c ∨ x.order < c.order) →
      ∃ t, exec (.bankPause core) s = .next t ∧ Only [.beds] [] s t ∧ t.bed k = b.setCmd { c with state := .paused } ∧
        ∀ j, j ≠ k → t.bed j = s.bed j) ∧
    (s.bedModeNow k ≠ 1 ∨ b.runningCount ≤ s.regF (.bedQuota k) 0 8 → exec (.bankPause core) s = .next s) ∧
    (b.runningCount < s.regF (.bedQuota k) 0 8 → c ∈ b.busy → c.state = .paused →
      (∀ x, x ∈ b.busy → x.state = .paused → x = c ∨ c.order < x.order) →
      ∃ t, exec (.bankResume core) s = .next t ∧ Only [.beds] [] s t ∧ t.bed k = b.setCmd { c with state := .running } ∧
        ∀ j, j ≠ k → t.bed j = s.bed j) ∧
    (s.regF (.bedQuota k) 0 8 ≤ b.runningCount → exec (.bankResume core) s = .next s) := by
  intro k b
  refine ⟨fun hm hq hc hr hl => ?_, fun h => ?_, fun hq hc hr hl => ?_, fun h => ?_⟩
  · have he := (exec_bankPause core s).trans (congrArg Host.Outcome.next (bankPause_pauses hm hq hc hr hl))
    exact ⟨_, he, Only.ofExec (only_execBankPause core s) he, bed_setBed_both ..⟩
  · refine congrArg Host.Outcome.next (if_neg ?_)
    rcases h with h | h
    · simp [show s.bedModeNow core.val ≠ 1 from h]
    · exact fun hb => absurd (of_decide_eq_true (Bool.and_eq_true_iff.1 hb).2) (Nat.not_lt.2 h)
  · have he := (exec_bankResume core s).trans (congrArg Host.Outcome.next (bankResume_resumes hq hc hr hl))
    exact ⟨_, he, Only.ofExec (only_execBankResume core s) he, bed_setBed_both ..⟩
  · exact congrArg Host.Outcome.next (if_neg (Nat.not_lt.2 h))

/-! ### Activations (R149) -/

theorem compute_activation (core : Fin 64) (s : State) :
    let k := core.val
    let b := s.bed k
    (∀ c rest, b.held = c :: rest → s.bedModeNow k = 2 → s.timingAllows k = true → s.towerRuns (k / 8) = true →
      ∃ t, exec (.computeActivation core) s = .next t ∧ Only [.beds] [] s t ∧ (t.bed k).rrBank = c.slot / 2 ∧
        (t.bed k).busy = b.busy.map (fun x => if x.slot = c.slot then { c with rows := c.rows + 1 } else x) ∧
        (t.bed k).acts = s.now :: b.acts.filter (fun a => s.now < a + 1000) ∧ ∀ j, j ≠ k → t.bed j = s.bed j) ∧
    (b.held = [] ∨ s.bedModeNow k ≠ 2 ∨ s.timingAllows k = false → exec (.computeActivation core) s = .next s) := by
  intro k b
  have hx : exec (.computeActivation core) s = .next (computeActivation core.val s) := rfl
  refine ⟨fun c rest hh hm ht hr => ?_, fun h => ?_⟩
  · have he : computeActivation core.val s = s.setBed core.val
        { (s.bed core.val).setCmd { c with rows := c.rows + 1 } with
          rrBank := c.slot / 2, acts := s.now :: (s.bed core.val).acts.filter fun a => s.now < a + 1000 } := by
      rw [computeActivation, hh]
      exact if_pos (by simp only [k] at hm ht hr; simp [hm, ht, hr])
    have hn := hx.trans (congrArg Host.Outcome.next he)
    refine ⟨_, hn, Only.ofExec (only_execComputeActivation core s) hn, ?_⟩
    obtain ⟨h1, h2⟩ := bed_setBed_both s core.val { (s.bed core.val).setCmd { c with rows := c.rows + 1 } with
      rrBank := c.slot / 2, acts := s.now :: (s.bed core.val).acts.filter fun a => s.now < a + 1000 }
    rw [h1]
    exact ⟨rfl, rfl, rfl, h2⟩
  · rw [hx, computeActivation]
    cases hh : (s.bed core.val).held with
    | nil => rfl
    | cons c rest =>
      refine congrArg Host.Outcome.next (if_neg ?_)
      rcases h with h | h | h
      · exact absurd (hh.symm.trans h) (List.cons_ne_nil _ _)
      · simp [show s.bedModeNow core.val ≠ 2 from h]
      · simp [show s.timingAllows core.val = false from h]

/-! ### Start (R122, R148) -/

section
variable {s0 : State}

theorem touched_rowJoin (x : State × Bool × List Byte) (r : State × Decoded) (h : RegsBut memoryTouches s0 r.1) :
    RegsBut memoryTouches s0 (rowJoin x r).1 := h

theorem touched_first {β : Type} (x : State × β) : RegsBut memoryTouches s0 (firstState x) ↔ RegsBut memoryTouches s0 x.1 :=
  Iff.rfl

theorem touched_rowSector (k b tenant : Nat) (x : State × Bool × List Byte) (i : Nat) (h : RegsBut memoryTouches s0 x.1) :
    RegsBut memoryTouches s0 (rowSector k b tenant x i).1 := by
  unfold rowSector
  exact touched_rowJoin x _ (touched_readSector x.1 (bedAddr k b i) tenant h)

theorem touched_readRow (s : State) (k b row n tenant : Nat) (h : RegsBut memoryTouches s0 s) :
    RegsBut memoryTouches s0 (s.readRow k b row n tenant).1 := by
  unfold State.readRow
  refine (touched_first _).1 (foldl_keeps (fun x => RegsBut memoryTouches s0 (firstState x)) _ _ (s, false, [])
    ((touched_first _).2 h) fun x i _ hx => ?_)
  exact (touched_first _).2 (touched_rowSector k b tenant x i ((touched_first x).1 hx))

theorem touched_next (x : BlocksRead) (k b tenant : Nat) (ws : List Byte) (i : Nat) (h : RegsBut memoryTouches s0 x.s) :
    RegsBut memoryTouches s0 (x.next k b tenant ws i).s := touched_readRow _ _ _ _ _ _ (touched_readRow _ _ _ _ _ _ h)

end

/-- The blocks of a command as its bank reads them. -/
def State.commandRead (s : State) (k : Nat) (c : BankCmd) : BlocksRead :=
  (List.range (cmdBlocks c.words)).foldl (fun (x : BlocksRead) i => x.next k (c.slot / 2) c.tenant c.words i) ⟨s, false, []⟩

theorem touched_commandRead (s : State) (k : Nat) (c : BankCmd) : RegsBut memoryTouches s (s.commandRead k c).s :=
  foldl_keeps (fun x : BlocksRead => RegsBut memoryTouches s x.s) _ _ ⟨s, false, []⟩ (.refl s) fun x i _ hx =>
    touched_next x k (c.slot / 2) c.tenant c.words i hx

theorem only_commandRead (s : State) (k : Nat) (c : BankCmd) : Only [.fpDirty, .chanPoisoned, .hbm, .ic, .flog0, .flog1, .mbox]
    [.bedCe, .bedUe, .bedLastue, .memStat, .memChstat, .memChce, .memChue, .memChpoison, .ctrVal] s (s.commandRead k c).s :=
  foldl_keeps (fun x : BlocksRead => Only _ _ s x.s) _ _ ⟨s, false, []⟩ (Only.refl s) fun x i _ hx =>
    only_BlocksRead_next x k (c.slot / 2) c.tenant c.words i hx (List.Subset.refl _) (List.Subset.refl _)

/-- The partials of a command's blocks; none where a row was bad. -/
def BlocksRead.parts (r : BlocksRead) (c : BankCmd) : List Part := if r.bad then [] else cmdParts c r.blocks

/-- A command that runs, with what its rows give. -/
def BankCmd.started (c : BankCmd) (order : Nat) (r : BlocksRead) : BankCmd :=
  { c with state := .running, order := order, payload := payloadOf (r.parts c), bad := r.bad,
           sats := ((r.parts c).map Part.sats).sum }

theorem startBank_eq (s : State) (k : Nat) (c : BankCmd) (order : Nat) : s.startBank k c order =
    (s.commandRead k c).s.setBed k (((s.commandRead k c).s.bed k).setCmd (c.started order (s.commandRead k c))) := rfl

theorem bed_startBank (s : State) (k : Nat) (c : BankCmd) (order j : Nat) : (s.startBank k c order).bed j =
    if j = k then (s.bed k).setCmd (c.started order (s.commandRead k c)) else s.bed j := by
  rw [startBank_eq, State.bed_setBed, State.bed_congr ((only_commandRead s k c).part .beds (by decide))]

theorem slots_setCmd (b : Bed) (c : BankCmd) : (b.setCmd c).busy.map (·.slot) = b.busy.map (·.slot) := by
  rw [Bed.setCmd, List.map_map]
  refine List.map_congr_left fun x _ => ?_
  by_cases h : x.slot = c.slot
  · simp [h]
  · simp [h]

theorem find?_setCmd {b : Bed} {c x : BankCmd} (h : b.busy.find? (fun y => y.slot = c.slot) = some x) :
    (b.setCmd c).busy.find? (fun y => y.slot = c.slot) = some c := by
  rw [Bed.setCmd]
  generalize b.busy = l at h ⊢
  induction l with
  | nil => cases h
  | cons a l ih =>
    by_cases ha : a.slot = c.slot
    · simp [ha]
    · rw [List.find?_cons_of_neg (by simpa using ha)] at h
      rw [List.map_cons, if_neg ha, List.find?_cons_of_neg (by simpa using ha)]
      exact ih h

theorem bankCommandStart_starts {s : State} {k n : Nat} {c : BankCmd} (hf : (s.bed k).busy.find? (fun c => c.slot = n) = some c)
    (hm : s.mayStart k c = true) : bankCommandStart k n s =
      (s.setBed k { s.bed k with startOrder := (s.bed k).startOrder + 1 }).startBank k c (s.bed k).startOrder := by
  rw [bankCommandStart, hf]
  exact if_pos hm

theorem not_mayStart {s : State} {k : Nat} {c : BankCmd} (h : c.state ≠ .waiting ∨ c.pending = true ∨ s.bedModeNow k = 0 ∨
    s.towerRuns (k / 8) = false ∨ (s.bedModeNow k = 1 ∧ c.follows = false ∧ s.regF (.bedQuota k) 0 8 ≤ (s.bed k).runningCount)) :
    ¬ s.mayStart k c = true := by
  intro hm
  simp only [State.mayStart, Bool.and_eq_true, Bool.or_eq_true, decide_eq_true_eq, Bool.not_eq_true'] at hm
  obtain ⟨⟨⟨⟨⟨h1, h2⟩, h3⟩, h4⟩, -⟩, h5⟩ := hm
  rcases h with h | h | h | h | ⟨h, hf, hq⟩
  · exact h h2
  · rw [h] at h3; cases h3
  · exact h4 h
  · rw [h] at h1; cases h1
  · rcases h5 with (h5 | h5) | ⟨⟨h5, -⟩, -⟩
    · rw [hf] at h5; cases h5
    · omega
    · omega

theorem command_start (core : Fin 64) (bank : Fin 128) (slot : Fin 2) (c : BankCmd) (s : State) :
    let k := core.val
    let n := 2 * bank.val + slot.val
    (s.bed k).busy.find? (fun c => c.slot = n) = some c →
    (s.mayStart k c = true → ∃ t, exec (.bankCommandStart core bank slot) s = .next t ∧
      Only [.fpDirty, .chanPoisoned, .beds, .hbm, .ic, .flog0, .flog1, .mbox] [.bedCe, .bedUe, .bedLastue, .memStat, .memChstat,
        .memChce, .memChue, .memChpoison, .ctrVal] s t ∧
      (t.bed k).startOrder = (s.bed k).startOrder + 1 ∧ (t.bed k).busy.map (·.slot) = (s.bed k).busy.map (·.slot) ∧
      ((t.bed k).busy.find? (fun c => c.slot = n)).map (fun y => (y.state, y.order, y.seq, y.words)) =
        some (.running, (s.bed k).startOrder, c.seq, c.words) ∧ ∀ j, j ≠ k → t.bed j = s.bed j) ∧
    (c.state ≠ .waiting ∨ c.pending = true ∨ s.bedModeNow k = 0 ∨ s.towerRuns (k / 8) = false ∨
      (s.bedModeNow k = 1 ∧ c.follows = false ∧ s.regF (.bedQuota k) 0 8 ≤ (s.bed k).runningCount) →
      exec (.bankCommandStart core bank slot) s = .next s) := by
  intro k n hf
  have hx : exec (.bankCommandStart core bank slot) s = .next (bankCommandStart core.val (2 * bank.val + slot.val) s) := rfl
  refine ⟨fun hm => ?_, fun h => ?_⟩
  · have he := hx.trans (congrArg Host.Outcome.next (bankCommandStart_starts hf hm))
    obtain ⟨hb, hj⟩ := bed_setBed_both s k { s.bed k with startOrder := (s.bed k).startOrder + 1 }
    refine ⟨_, he, Only.ofExec (only_execBankCommandStart core bank slot s) he, ?_, ?_, ?_, fun j hn => ?_⟩
    · rw [bed_startBank, if_pos rfl, hb]
      rfl
    · rw [bed_startBank, if_pos rfl, hb, slots_setCmd]
    · have hn : n = c.slot := (of_decide_eq_true (List.find?_some hf :)).symm
      rw [bed_startBank, if_pos rfl, hb, hn]
      rw [hn] at hf
      exact congrArg (Option.map _) (find?_setCmd (c := c.started _ _) hf)
    · rw [bed_startBank, if_neg hn, hj j hn]
  · refine hx.trans (congrArg Host.Outcome.next ?_)
    rw [bankCommandStart, hf]
    exact if_neg (not_mayStart h)

/-! ### The end of a command (R136, R138, R145, R146) -/

theorem Reg.bedSatcnt_off (k : Nat) : (Reg.bedSatcnt k).off = coreBlk k + 0x1030 := rfl

/-- The rows and saturations of a finished command are counted. -/
def State.commandCounted (s : State) (k : Nat) (c : BankCmd) : State :=
  (s.ctr k 0x31 (cmdRows c.words)).countF (.bedSatcnt k) 0 32 c.sats

theorem only_commandCounted (s : State) (k : Nat) (c : BankCmd) : Only [] [.ctrVal, .bedSatcnt] s (s.commandCounted k c) :=
  only_State_countF _ _ _ _ _ (only_State_ctr s _ _ _ (Only.refl s) (by decide)) (List.elem_iff.mp rfl)

theorem reg_countF_ne (s : State) {r q : Reg} (lo w n : Nat) (h : q.off ≠ r.off) : (s.countF r lo w n).reg q = s.reg q :=
  State.reg_setReg_ne _ _ _ _ h

theorem commandCounted_regs (s : State) (k : Nat) (c : BankCmd) :
    (s.commandCounted k c).reg (.bedDonecnt k) = s.reg (.bedDonecnt k) ∧
    (s.commandCounted k c).regF (.bedSatcnt k) 0 32 = min 0xFFFFFFFF (s.regF (.bedSatcnt k) 0 32 + c.sats) := by
  have h := touched_ctr s k 0x31 (cmdRows c.words) (.refl s)
  have hd := h.reg_bed (Reg.bedDonecnt_off k) (by decide) (by decide)
  have hs := h.reg_bed (Reg.bedSatcnt_off k) (by decide) (by decide)
  rw [State.commandCounted]
  generalize s.ctr k 0x31 (cmdRows c.words) = u at hd hs
  refine ⟨(reg_countF_ne u _ _ _ ?_).trans hd, ?_⟩
  · rw [Reg.bedDonecnt_off, Reg.bedSatcnt_off]
    omega
  · rw [State.regF_countF _ _ _ _ _ (by decide), State.regF_congr hs]
    rfl

/-- The payload of a finished command stands in its result slot. -/
def State.payloadWritten (u : State) (k : Nat) (c : BankCmd) : State :=
  { u with mem := zeroRange u.mem (windowBase k + resultOff c.slot + 8) 0x1FF8 }.setWin k (resultOff c.slot + 8) c.payload

/-- The command has ended, before its bank goes on. -/
def State.commandEnded (u : State) (k : Nat) (c : BankCmd) : State :=
  if c.bad then u.bankEnd k c slotFault faultUncorrectable
  else (u.payloadWritten k c).bankEnd k c slotDone (cmdTokens c.words)

theorem bankDone_eq (s : State) (k : Nat) (c : BankCmd) :
    s.bankDone k c = ((s.commandCounted k c).commandEnded k c).followOn k (c.slot / 2) c.order := rfl

/-- The payload stands behind the header. -/
theorem BankEnded.payload {u t : State} {k st count : Nat} {c : BankCmd} (h : BankEnded (u.payloadWritten k c) t k c st count) :
    rdBytes t.mem (windowBase k + resultOff c.slot + 8) c.payload.length = c.payload := by
  have hm : (u.payloadWritten k c).mem = wrBytes (zeroRange u.mem (windowBase k + resultOff c.slot + 8) 0x1FF8)
    (windowBase k + resultOff c.slot + 8) c.payload := rfl
  rw [h.mem, rdBytes_wrBytes_apart, hm, rdBytes_wrBytes_same]
  rw [length_headerBytes]
  omega

/-- What a finished command leaves in its bed and slot. -/
structure CommandEnded (u t : State) (k : Nat) (c : BankCmd) : Prop where
  bed : t.bed k = (u.bed k).without c.slot
  done : t.reg (.bedDonecnt k) = BitVec.ofNat 64 (((u.reg (.bedDonecnt k)).toNat + 1) % 2 ^ 32)
  faulted : c.bad = true → Claims.header t k c.slot = headerBytes c.seq 3 4 ∧ t.regBit (.bedStatus k) 30 = true
  written : c.bad = false → Claims.header t k c.slot = headerBytes c.seq 2 (cmdTokens c.words) ∧
    rdBytes t.mem (windowBase k + resultOff c.slot + 8) c.payload.length = c.payload

theorem commandEnded_facts (u : State) (k : Nat) (c : BankCmd) : CommandEnded u (u.commandEnded k c) k c := by
  rw [State.commandEnded]
  by_cases hb : c.bad = true
  · rw [if_pos hb]
    have h := bankEnded u k c slotFault faultUncorrectable
    exact ⟨h.bed, h.done, fun _ => ⟨h.header, h.fault rfl⟩, fun hn => absurd (hb.symm.trans hn) (by decide)⟩
  · rw [if_neg hb]
    have h := bankEnded (u.payloadWritten k c) k c slotDone (cmdTokens c.words)
    have hreg : (u.payloadWritten k c).reg = u.reg := State.reg_congr rfl rfl
    refine ⟨h.bed, ?_, fun hn => absurd hn hb, fun _ => ⟨h.header, h.payload⟩⟩
    rw [h.done, hreg]

theorem only_commandEnded (u : State) (k : Nat) (c : BankCmd) :
    Only [.mem, .beds, .ic] [.bedStatus, .bedDonecnt] u (u.commandEnded k c) := by
  have hp : Only [.mem] [] u (u.payloadWritten k c) := (Only.refl u).upd_mem (by decide)
  rw [State.commandEnded]
  split
  · exact only_State_bankEnd u _ _ _ _ (Only.refl u) (List.Subset.refl _) (List.Subset.refl _)
  · exact only_State_bankEnd _ _ _ _ _ (hp.mono (by decide) (by decide)) (List.Subset.refl _) (List.Subset.refl _)

theorem reg_bedCounted_ne (s : State) (k : Nat) (fault : Bool) {q : Reg} (hd : q.off ≠ (Reg.bedDonecnt k).off)
    (hs : q.off ≠ (Reg.bedStatus k).off) : (s.bedCounted k fault).reg q = s.reg q := by
  rw [State.bedCounted]
  split
  · rw [State.setBit, State.setF, State.reg_setReg_ne _ _ _ _ hs, State.reg_setReg_ne _ _ _ _ hd]
  · exact State.reg_setReg_ne _ _ _ _ hd

theorem reg_bankEnd_ne (s : State) (k : Nat) (c : BankCmd) (st count : Nat) {q : Reg} (hd : q.off ≠ (Reg.bedDonecnt k).off)
    (hs : q.off ≠ (Reg.bedStatus k).off) : (s.bankEnd k c st count).reg q = s.reg q := by
  have he : s.bankEnd k c st count = ((s.setBed k ((s.bed k).without c.slot)).setWin k (resultOff c.slot)
    (headerBytes c.seq st count)).bedFinish k (st = slotFault) (cmdNotify c.words) ((s.bed k).without c.slot).busy.isEmpty := rfl
  rw [he, reg_bedFinish, reg_bedCounted_ne _ _ _ hd hs]
  exact congrFun (State.reg_congr rfl rfl) q

theorem reg_commandEnded (u : State) (k : Nat) (c : BankCmd) {q : Reg} (hd : q.off ≠ (Reg.bedDonecnt k).off)
    (hs : q.off ≠ (Reg.bedStatus k).off) : (u.commandEnded k c).reg q = u.reg q := by
  rw [State.commandEnded]
  split
  · exact reg_bankEnd_ne u k c _ _ hd hs
  · exact (reg_bankEnd_ne _ k c _ _ hd hs).trans (congrFun (State.reg_congr rfl rfl) q)

theorem followOn_empty {s : State} {k bank : Nat} (order : Nat) (h : ∀ x, x ∈ (s.bed k).busy → x.slot / 2 ≠ bank) :
    s.followOn k bank order = s := by
  have hn : (s.bed k).headOf bank = none := by
    rw [Bed.headOf, List.find?_eq_none]
    exact fun x hx => by simpa using h x hx
  rw [State.followOn, hn]

theorem touched_startBank (s : State) (k : Nat) (c : BankCmd) (order : Nat) :
    RegsBut memoryTouches s (s.startBank k c order) := by
  rw [startBank_eq]
  exact (touched_commandRead s k c).of_regs rfl rfl

theorem touched_followOn (s : State) (k bank order : Nat) : RegsBut memoryTouches s (s.followOn k bank order) := by
  unfold State.followOn
  split
  · split
    · exact (RegsBut.refl s).of_regs rfl rfl
    · exact touched_startBank s k _ order
  · exact .refl s

theorem only_followOn (s : State) (k bank order : Nat) :
    Only [.fpDirty, .chanPoisoned, .beds, .hbm, .ic, .flog0, .flog1, .mbox] [.bedCe, .bedUe, .bedLastue, .memStat, .memChstat,
      .memChce, .memChue, .memChpoison, .ctrVal] s (s.followOn k bank order) :=
  only_State_followOn s k bank order (Only.refl s) (List.Subset.refl _) (List.Subset.refl _)

theorem bankCommandDone_ends {s : State} {k n : Nat} {c : BankCmd} (hf : (s.bed k).busy.find? (fun c => c.slot = n) = some c)
    (hr : c.state = .running) (ht : s.towerRuns (k / 8) = true) (hm : s.bedModeNow k ≠ 2 ∨ cmdRows c.words ≤ c.rows) :
    bankCommandDone k n s = s.bankDone k c := by
  rw [bankCommandDone, hf]
  refine if_pos ?_
  rcases hm with hm | hm
  · simp [hr, ht, hm]
  · simp [hr, ht, hm]

theorem noBankAttend_of_lists {s t : State} (h : Claims.noBankAttend s) (hl : t.lists = s.lists) : Claims.noBankAttend t := by
  intro l hm
  exact h l (hl ▸ hm)

theorem only_bankDone (s : State) (k : Nat) (c : BankCmd) :
    Only [.mem, .fpDirty, .chanPoisoned, .beds, .hbm, .ic, .flog0, .flog1, .mbox] [.bedStatus, .bedDonecnt, .bedSatcnt, .bedCe,
      .bedUe, .bedLastue, .memStat, .memChstat, .memChce, .memChue, .memChpoison, .ctrVal] s (s.bankDone k c) :=
  only_State_bankDone s k c (Only.refl s) (List.Subset.refl _) (List.Subset.refl _)

theorem bankDone_facts (s : State) (k : Nat) (c : BankCmd) :
    (s.bankDone k c).reg (.bedDonecnt k) = BitVec.ofNat 64 (((s.reg (.bedDonecnt k)).toNat + 1) % 2 ^ 32) ∧
    (s.bankDone k c).regF (.bedSatcnt k) 0 32 = min 0xFFFFFFFF (s.regF (.bedSatcnt k) 0 32 + c.sats) ∧
    (c.bad = true → Claims.header (s.bankDone k c) k c.slot = headerBytes c.seq 3 4 ∧
      (s.bankDone k c).regBit (.bedStatus k) 30 = true) ∧
    (c.bad = false → Claims.header (s.bankDone k c) k c.slot = headerBytes c.seq 2 (cmdTokens c.words) ∧
      rdBytes (s.bankDone k c).mem (windowBase k + resultOff c.slot + 8) c.payload.length = c.payload) ∧
    ((∀ x, x ∈ (s.bed k).busy → x.slot ≠ c.slot → x.slot / 2 ≠ c.slot / 2) →
      ((s.bankDone k c).bed k).busy = (s.bed k).busy.filter fun x => x.slot ≠ c.slot) := by
  obtain ⟨hdone, hsat⟩ := commandCounted_regs s k c
  have hbed := State.bed_congr ((only_commandCounted s k c).part .beds (by decide))
  have h := commandEnded_facts (s.commandCounted k c) k c
  have hends : ((s.commandCounted k c).commandEnded k c).regF (.bedSatcnt k) 0 32 = (s.commandCounted k c).regF (.bedSatcnt k) 0 32 :=
    State.regF_congr (reg_commandEnded _ k c (by rw [Reg.bedSatcnt_off, Reg.bedDonecnt_off]; omega)
      (by rw [Reg.bedSatcnt_off, Reg.bedStatus_off]; omega)) 0 32
  rw [bankDone_eq]
  generalize (s.commandCounted k c).commandEnded k c = u at h hends
  have hf := touched_followOn u k (c.slot / 2) c.order
  have hmem : (u.followOn k (c.slot / 2) c.order).mem = u.mem := (only_followOn u _ _ _).part .mem (by decide)
  refine ⟨?_, ?_, fun hb => ?_, fun hb => ?_, fun hx => ?_⟩
  · rw [hf.reg_bed (Reg.bedDonecnt_off k) (by decide) (by decide), h.done, hdone]
  · exact (State.regF_congr (hf.reg_bed (Reg.bedSatcnt_off k) (by decide) (by decide)) 0 32).trans (hends.trans hsat)
  · obtain ⟨h1, h2⟩ := h.faulted hb
    refine ⟨?_, (State.regBit_congr (hf.reg_bed (Reg.bedStatus_off k) (by decide) (by decide)) 30).trans h2⟩
    rw [Claims.header, hmem]
    exact h1
  · obtain ⟨h1, h2⟩ := h.written hb
    rw [Claims.header, hmem]
    exact ⟨h1, h2⟩
  · have hrest : (u.bed k).busy = (s.bed k).busy.filter fun x => x.slot ≠ c.slot := by
      rw [h.bed, hbed]
      rfl
    rw [followOn_empty c.order fun x hm => ?_, hrest]
    rw [hrest] at hm
    obtain ⟨hm, hn⟩ := List.mem_filter.1 hm
    exact hx x hm (of_decide_eq_true hn)

theorem command_done (core : Fin 64) (bank : Fin 128) (slot : Fin 2) (c : BankCmd) (s : State) :
    let k := core.val
    let n := 2 * bank.val + slot.val
    Claims.noBankAttend s → (s.bed k).busy.find? (fun c => c.slot = n) = some c → c.state = .running →
    s.towerRuns (k / 8) = true → (s.bedModeNow k ≠ 2 ∨ cmdRows c.words ≤ c.rows) → c.payload.length ≤ 0x1FF8 →
    ∃ t, exec (.bankCommandDone core bank slot) s = .next t ∧
      Only [.freeCtr, .mem, .fpDirty, .chanPoisoned, .beds, .hbm, .ic, .flog0, .flog1, .mbox, .lists] [.bedStatus, .bedDonecnt,
        .bedSatcnt, .bedCe, .bedUe, .bedLastue, .memStat, .memChstat, .memChce, .memChue, .memChpoison, .ctrVal] s t ∧
      t.lists = s.lists ∧ t.reg (.bedDonecnt k) = BitVec.ofNat 64 (((s.reg (.bedDonecnt k)).toNat + 1) % 2 ^ 32) ∧
      t.regF (.bedSatcnt k) 0 32 = min 0xFFFFFFFF (s.regF (.bedSatcnt k) 0 32 + c.sats) ∧
      (c.bad = true → Claims.header t k n = headerBytes c.seq 3 4 ∧ t.regBit (.bedStatus k) 30 = true) ∧
      (c.bad = false → Claims.header t k n = headerBytes c.seq 2 (cmdTokens c.words) ∧
        rdBytes t.mem (windowBase k + resultOff n + 8) c.payload.length = c.payload) ∧
      ((∀ x, x ∈ (s.bed k).busy → x.slot ≠ n → x.slot / 2 ≠ bank.val) →
        (t.bed k).busy = (s.bed k).busy.filter (fun x => x.slot ≠ n)) := by
  intro k n hna hf hr ht hm _
  have hn : c.slot = n := of_decide_eq_true (List.find?_some hf :)
  have hx : exec (.bankCommandDone core bank slot) s = .next (bankCommandDone k n s).pumpBanks := rfl
  have ho := only_bankDone s k c
  have hl : (s.bankDone k c).lists = s.lists := ho.part .lists (by decide)
  have hp : (s.bankDone k c).pumpBanks = s.bankDone k c := pumpBanks_idle ((noBankAttend_iff _).1 (noBankAttend_of_lists hna hl))
  have he : exec (.bankCommandDone core bank slot) s = .next (s.bankDone k c) := by
    rw [hx, bankCommandDone_ends hf hr ht hm, hp]
  obtain ⟨h1, h2, h3, h4, h5⟩ := bankDone_facts s k c
  refine ⟨_, he, ho.mono (by decide) (by decide), hl, h1, h2, ?_, ?_, fun h => ?_⟩
  · rw [← hn]
    exact h3
  · rw [← hn]
    exact h4
  · rw [← hn]
    refine h5 fun x hx hne => ?_
    have := h x hx (hn ▸ hne)
    omega

/-- Settles O46. -/
theorem bankCommandsRunToTheirEnd : Obligations.BankCommandsRunToTheirEnd :=
  ⟨command_start, compute_activation, command_done, banks_pause_resume, fun _ _ s => ⟨s, rfl, rfl⟩⟩

end Sys2Proof.Machine
end

section
/-! Failing channels, scrubbing and stack temperature (R197 to R205). -/

namespace Sys2Proof.Machine

/-! ### Failing channels (R200, R201) -/

theorem memChstat_off_ne_memStat {n m c : Nat} : (Reg.memChstat n c).off ≠ (Reg.memStat m).off ∨ 16 ≤ c := by
  rw [Reg.memChstat_off, Reg.memStat_off, blk, blk]
  omega

/-- The channel and its stack show the failure. -/
def State.channelMarked (s : State) (n c : Nat) : State := (s.setF (.memChstat n c) 30 2 1).setBit (.memStat n) 1

/-- The failure is raised and logged. -/
def State.channelReported (u : State) (n c trigger : Nat) : State :=
  (u.raise (srcStack n 1)).log 0x0032 3 n (if n < 8 then 0x48 + n else 0x74 + (n - 8)) noTenant trigger (n * 16 + c)

/-- The channel is poisoned. -/
def State.channelPoisoned (u : State) (n c : Nat) : State :=
  { u with chanPoisoned := setNum u.chanPoisoned n (Nat.lor (num u.chanPoisoned n) (2 ^ c)), fpDirty := true }

theorem channelFail_eq {s : State} {n c : Nat} (trigger : Nat) (h : s.regF (.memChstat n c) 30 2 = 0) :
    s.channelFail n c trigger = (((s.channelMarked n c).channelReported n c trigger).channelPoisoned n c).reportChannel n c := by
  have hn : ¬ s.regF (.memChstat n c) 30 2 ≠ 0 := fun hn => hn h
  exact if_neg hn

theorem only_channelMarked (s : State) (n c : Nat) : Only [] [.memStat, .memChstat] s (s.channelMarked n c) :=
  only_State_setBit _ _ _ (only_State_setF s _ _ _ _ (Only.refl s) (List.elem_iff.mp rfl)) (List.elem_iff.mp rfl)

theorem channelMarked_regs (s : State) (n : Nat) {c : Nat} (hc : c < 16) :
    (s.channelMarked n c).regF (.memChstat n c) 30 2 = 1 ∧ (s.channelMarked n c).regBit (.memStat n) 1 = true := by
  have hoff : (Reg.memChstat n c).off ≠ (Reg.memStat n).off := memChstat_off_ne_memStat.resolve_right (by omega)
  constructor
  · rw [State.channelMarked, State.setBit, State.regF_congr (State.reg_setF_ne _ _ _ _ _ _ hoff)]
    exact s.regF_setF_same (.memChstat n c) 30 2 1 (by decide)
  · rw [State.channelMarked, State.regBit_setBit _ _ _ _ (by decide) (by decide)]
    simp

theorem only_channelReported (u : State) (n c trigger : Nat) : Only [.ic, .flog0, .flog1] [] u (u.channelReported n c trigger) :=
  ((only_raise u _).mono (by decide) (by decide)).trans ((only_log _ _ _ _ _ _ _ _).mono (by decide) (by decide))

theorem channelPoisoned_facts (u : State) (n c : Nat) : (u.channelPoisoned n c).fpDirty = true ∧
    Only [.chanPoisoned, .fpDirty] [] u (u.channelPoisoned n c) ∧
    ∀ b, nbit (num (u.channelPoisoned n c).chanPoisoned n) b = (nbit (num u.chanPoisoned n) b || b = c) := by
  refine ⟨rfl, (Only.refl u).upd_chanPoisoned_fpDirty (by decide) (by decide), fun b => ?_⟩
  have h : num (u.channelPoisoned n c).chanPoisoned n = Nat.lor (num u.chanPoisoned n) (2 ^ c) :=
    (num_setNum ..).trans (if_pos rfl)
  rw [h, nbit_lor, nbit_two_pow]

theorem only_reportChannel (s : State) (n c : Nat) : Only [.mbox] [] s (s.reportChannel n c) :=
  only_State_reportChannel s n c (Only.refl s) (List.Subset.refl _)

theorem srcExists_stack {n o : Nat} (hn : n < 12) (ho : o < 3) : srcExists (0x280 + 8 * n + o) = true := by
  have h : ∀ n : Fin 12, ∀ o : Fin 3, srcExists (0x280 + 8 * n.val + o.val) = true := by decide
  exact h ⟨n, hn⟩ ⟨o, ho⟩

theorem channelFail_facts {s : State} {n c : Nat} (hn : n < 12) (hc : c < 16) (trigger : Nat)
    (h : s.regF (.memChstat n c) 30 2 = 0) :
    Only [.fpDirty, .chanPoisoned, .ic, .flog0, .flog1, .mbox] [.memStat, .memChstat] s (s.channelFail n c trigger) ∧
    (s.channelFail n c trigger).regF (.memChstat n c) 30 2 = 1 ∧ (s.channelFail n c trigger).regBit (.memStat n) 1 = true ∧
    (s.channelFail n c trigger).fpDirty = true ∧
    (∀ b, nbit (num (s.channelFail n c trigger).chanPoisoned n) b = (nbit (num s.chanPoisoned n) b || b = c)) ∧
    Claims.raises s (s.channelFail n c trigger) (0x280 + 8 * n + 1) ∧
    Claims.logs s (s.channelFail n c trigger) (Claims.entry s 0x32 3 (if n < 8 then n else n + 8)
      (if n < 8 then 0x48 + n else 0x74 + (n - 8)) 0xFFFF trigger (n * 16 + c)) := by
  obtain ⟨hst, hbit⟩ := channelMarked_regs s n hc
  have ho1 := only_channelMarked s n c
  have ho2 := only_channelReported (s.channelMarked n c) n c trigger
  obtain ⟨hd, ho3, hp⟩ := channelPoisoned_facts ((s.channelMarked n c).channelReported n c trigger) n c
  have ho4 := only_reportChannel (((s.channelMarked n c).channelReported n c trigger).channelPoisoned n c) n c
  have hall : Only [.chanPoisoned, .fpDirty, .mbox] [] ((s.channelMarked n c).channelReported n c trigger) (s.channelFail n c trigger) := by
    rw [channelFail_eq trigger h]
    exact (ho3.mono (by decide) (by decide)).trans (ho4.mono (by decide) (by decide))
  have hreg : ∀ r, (s.channelFail n c trigger).reg r = (s.channelMarked n c).reg r := fun r =>
    (hall.reg_eq r).trans (ho2.reg_eq r)
  refine ⟨only_State_channelFail s n c trigger (Only.refl s) (List.Subset.refl _) (List.Subset.refl _),
    (State.regF_congr (hreg _) 30 2).trans hst, (State.regBit_congr (hreg _) 1).trans hbit, ?_, fun b => ?_, ?_, ?_⟩
  · rw [channelFail_eq trigger h]
    exact (ho4.part .fpDirty (by decide)).trans hd
  · have hc1 : ((s.channelMarked n c).channelReported n c trigger).chanPoisoned = s.chanPoisoned :=
      (ho2.part .chanPoisoned (by decide)).trans (ho1.part .chanPoisoned (by decide))
    rw [channelFail_eq trigger h, ho4.part .chanPoisoned (by decide), hp, hc1]
  · refine raises_after (u := s.channelMarked n c) (srcExists_stack hn (by decide)) ho1 (fun _ _ => List.not_mem_nil) ?_
    exact (hall.part .ic (by decide)).trans ((only_log ((s.channelMarked n c).raise (srcStack n 1)) 0x0032 3 n
      (if n < 8 then 0x48 + n else 0x74 + (n - 8)) noTenant trigger (n * 16 + c)).part .ic (by decide))
  · have hr := only_raise (s.channelMarked n c) (srcStack n 1)
    have hl := logs_after (s := s) (t := s.channelFail n c trigger) (u := (s.channelMarked n c).raise (srcStack n 1)) (code := 0x32) (sev := 3) (die := n)
      (node := if n < 8 then 0x48 + n else 0x74 + (n - 8)) (tenant := noTenant) (d0 := trigger) (d1 := n * 16 + c)
      ((hr.part .tb (by decide)).trans (ho1.part .tb (by decide))) ((hr.part .flog0 (by decide)).trans (ho1.part .flog0 (by decide)))
      ((hr.part .flog1 (by decide)).trans (ho1.part .flog1 (by decide))) (hall.part .flog0 (by decide)) (hall.part .flog1 (by decide))
    rwa [show dieField n = if n < 8 then n else n + 8 by rw [dieField]; split <;> omega] at hl

theorem stack_fails (stack : Fin 12) (channel : Fin 16) (s : State) :
    let n := stack.val
    let c := channel.val
    let fails := fun (cmd : Instr) (trigger : Nat) => ∃ t, exec cmd s = .next t ∧
      Only [.fpDirty, .chanPoisoned, .ic, .flog0, .flog1, .mbox] [.memStat, .memChstat] s t ∧
      t.regF (.memChstat n c) 30 2 = 1 ∧ t.regBit (.memStat n) 1 = true ∧ t.fpDirty = true ∧
      (∀ b, nbit (num t.chanPoisoned n) b = (nbit (num s.chanPoisoned n) b || b = c)) ∧ Claims.raises s t (0x280 + 8 * n + 1) ∧
      Claims.logs s t (Claims.entry s 0x32 3 (if n < 8 then n else n + 8) (if n < 8 then 0x48 + n else 0x74 + (n - 8)) 0xFFFF trigger
        (n * 16 + c))
    (s.stackOn n = true → s.regF (.memChstat n c) 30 2 = 0 →
      fails (.stackChannelFailureReport stack channel) 3 ∧ fails (.channelPhyTimeout stack channel) 4) ∧
    (s.stackOn n = false ∨ s.regF (.memChstat n c) 30 2 ≠ 0 →
      exec (.stackChannelFailureReport stack channel) s = .next s ∧ exec (.channelPhyTimeout stack channel) s = .next s) := by
  intro n c fails
  have h3 : exec (.stackChannelFailureReport stack channel) s = .next (if s.stackOn n then s.channelFail n c 3 else s) := rfl
  have h4 : exec (.channelPhyTimeout stack channel) s = .next (if s.stackOn n then s.channelFail n c 4 else s) := rfl
  refine ⟨fun hon h0 => ?_, fun h => ?_⟩
  · rw [if_pos hon] at h3 h4
    exact ⟨⟨_, h3, channelFail_facts stack.isLt channel.isLt 3 h0⟩, ⟨_, h4, channelFail_facts stack.isLt channel.isLt 4 h0⟩⟩
  · rcases h with h | h
    · rw [if_neg (by rw [h]; exact Bool.false_ne_true)] at h3 h4
      exact ⟨h3, h4⟩
    · have hf : ∀ trigger, s.channelFail n c trigger = s := fun trigger => if_pos h
      rw [hf, ite_self] at h3 h4
      exact ⟨h3, h4⟩

/-! ### A scrubber's place -/

@[simp] theorem Stack.channel_setChannel (x : Stack) (c : Nat) (v : Channel) (d : Nat) :
    (x.setChannel c v).channel d = if d = c then v else x.channel d := look_put ..

@[simp] theorem Bed.bank_setBank (x : Bed) (b : Nat) (v : Channel) (d : Nat) :
    (x.setBank b v).bank d = if d = b then v else x.bank d := look_put ..

theorem scrubbed_setScrubbed (s : State) (u v : ScrubUnit) (x : Channel) :
    (s.setScrubbed u x).scrubbed v = if v = u then x else s.scrubbed v := by
  cases u with
  | channel n c =>
    cases v with
    | channel n' c' =>
      have h : (s.setScrubbed (.channel n c) x).scrubbed (.channel n' c') =
        ((s.setStack n.val ((s.stack n.val).setChannel c.val x)).stack n'.val).channel c'.val := rfl
      rw [h, State.stack_setStack]
      by_cases hn : n' = n
      · subst hn
        rw [if_pos rfl, Stack.channel_setChannel]
        by_cases hc : c' = c
        · simp [hc]
        · simp [hc, Fin.val_ne_of_ne hc]
          rfl
      · rw [if_neg (Fin.val_ne_of_ne hn), if_neg fun he => hn (ScrubUnit.channel.inj he).1]
        rfl
    | bank k b => rw [if_neg (fun he => nomatch he)]; rfl
  | bank k b =>
    cases v with
    | channel n c => rw [if_neg (fun he => nomatch he)]; rfl
    | bank k' b' =>
      have h : (s.setScrubbed (.bank k b) x).scrubbed (.bank k' b') =
        ((s.setBed k.val ((s.bed k.val).setBank b.val x)).bed k'.val).bank b'.val := rfl
      rw [h, State.bed_setBed]
      by_cases hn : k' = k
      · subst hn
        rw [if_pos rfl, Bed.bank_setBank]
        by_cases hc : b' = b
        · simp [hc]
        · simp [hc, Fin.val_ne_of_ne hc]
          rfl
      · rw [if_neg (Fin.val_ne_of_ne hn), if_neg fun he => hn (ScrubUnit.bank.inj he).1]
        rfl

/-- What tells how far a scrubber is. -/
def Channel.place (x : Channel) : Nat × Nat × Bool := (x.scrubPos, x.lastScrub, x.scrubDone)

theorem scrubbed_congr {s t : State} (hb : t.beds = s.beds) (hh : t.hbm = s.hbm) (u : ScrubUnit) : t.scrubbed u = s.scrubbed u := by
  cases u with
  | channel n c => exact congrArg (fun f => Stack.channel (f n.val) c.val) (State.stack_congr hh)
  | bank k b => exact congrArg (fun f => Bed.bank (f k.val) b.val) (State.bed_congr hb)

/-- Another record of bad sectors leaves every scrubber where it is. -/
theorem place_setRecent (s : State) (n c : Nat) (recent : List BadSector) (u : ScrubUnit) :
    ((s.setStack n ((s.stack n).setChannel c { (s.stack n).channel c with recent := recent })).scrubbed u).place =
      (s.scrubbed u).place := by
  cases u with
  | channel m d =>
    have h : ∀ t : State, t.scrubbed (.channel m d) = (t.stack m.val).channel d.val := fun _ => rfl
    rw [h, h, State.stack_setStack]
    by_cases hm : m.val = n
    · rw [if_pos hm, Stack.channel_setChannel, hm]
      by_cases hd : d.val = c
      · rw [if_pos hd, hd]
        rfl
      · rw [if_neg hd]
    · rw [if_neg hm]
  | bank k b => rfl

theorem place_channelFail (s : State) (n c trigger : Nat) (u : ScrubUnit) :
    ((s.channelFail n c trigger).scrubbed u).place = (s.scrubbed u).place := by
  have h := only_State_channelFail s n c trigger (Only.refl s) (List.Subset.refl _) (List.Subset.refl _)
  rw [scrubbed_congr (h.part .beds (by decide)) (h.part .hbm (by decide))]

theorem place_countBad (s : State) (n c sector : Nat) (address : Bool) (u : ScrubUnit) :
    ((s.countBad n c sector address).scrubbed u).place = (s.scrubbed u).place := by
  unfold State.countBad
  dsimp only
  split
  · rw [place_channelFail, place_setRecent]
  · split
    · rw [place_channelFail, place_setRecent]
    · exact place_setRecent ..

theorem place_countToward (s : State) (l : Loc) (o : SectorOutcome) (u : ScrubUnit) :
    ((s.countToward l o).scrubbed u).place = (s.scrubbed u).place := by
  unfold State.countToward
  split
  · exact place_countBad ..
  · exact place_countBad ..
  · rfl

theorem place_of_only {Ps : List Piece} {Ks : List RegKind} {s t : State} (h : Only Ps Ks s t)
    (hp : Piece.beds ∉ Ps ∧ Piece.hbm ∉ Ps) (u : ScrubUnit) : (t.scrubbed u).place = (s.scrubbed u).place := by
  rw [scrubbed_congr (h.part .beds hp.1) (h.part .hbm hp.2)]

theorem only_countOutcome (s : State) (l : Loc) (o : SectorOutcome) : Only [] [.bedCe, .bedUe, .bedLastue, .memStat, .memChstat,
    .memChce, .memChue, .memChpoison, .ctrVal] s (s.countOutcome l o) :=
  only_State_countOutcome s l o (Only.refl s) (List.Subset.refl _)

theorem place_readSector (s : State) (a tenant : Nat) (u : ScrubUnit) :
    ((s.readSector a tenant).1.scrubbed u).place = (s.scrubbed u).place := by
  have hc := place_of_only (only_countOutcome s (s.locate a) (s.decodeAt (s.locate a) a).outcome) (by decide) u
  unfold State.readSector
  dsimp only
  split
  · rw [place_countToward, place_of_only (only_log _ _ _ _ _ _ _ _) (by decide), hc]
  · exact hc

/-! ### What a scrubber reads (R198) -/

/-- The management function or the owners learn of a bad sector. -/
def State.lossTold (u s : State) (a : Nat) : State :=
  if s.owned a then u.dataLoss a else u.notify 0 noticeDataLoss 0 0xFFFFFFFF (leBytes 8 (a / 4096 * 4096))

theorem only_lossTold (u s : State) (a : Nat) : Only [.mbox] [] u (u.lossTold s a) := by
  rw [State.lossTold]
  split
  · exact only_State_dataLoss u a (Only.refl u) (List.Subset.refl _)
  · exact only_State_notify u _ _ _ _ _ (Only.refl u) (List.Subset.refl _)

/-- R198: the sector is made POISON and its owners learn of it. -/
def State.scrubBad (s : State) (a : Nat) : State := ((s.readSector a noTenant).1.storePoison (s.locate a) a).lossTold s a

/-- R198: the corrected sector is stored clean. -/
def State.scrubCorrected (s : State) (a : Nat) : State :=
  (s.countOutcome (s.locate a) .corrected).storeRaw (s.locate a) a (s.decodeAt (s.locate a) a).data
    (cleanChecks (locCode (s.locate a)) (s.decodeAt (s.locate a) a).data)

section
variable {s : State} {a : Nat}

theorem scrubSector_clean (h : (s.decodeAt (s.locate a) a).outcome = .clean) : s.scrubSector a = s := by
  rw [State.scrubSector, h]

theorem scrubSector_poison (h : (s.decodeAt (s.locate a) a).outcome = .poison) :
    s.scrubSector a = s.countOutcome (s.locate a) .poison := by
  rw [State.scrubSector, h]

theorem scrubSector_corrected (h : (s.decodeAt (s.locate a) a).outcome = .corrected) : s.scrubSector a = s.scrubCorrected a := by
  rw [State.scrubSector, h]
  rfl

theorem scrubSector_bad (h : (s.decodeAt (s.locate a) a).outcome = .uncorrectable ∨ (s.decodeAt (s.locate a) a).outcome = .address) :
    s.scrubSector a = s.scrubBad a := by
  rcases h with h | h
  · rw [State.scrubSector, h]
    rfl
  · rw [State.scrubSector, h]
    rfl

end

theorem outcome_cases (o : SectorOutcome) : o = .clean ∨ o = .poison ∨ o = .corrected ∨ (o = .uncorrectable ∨ o = .address) := by
  cases o with
  | clean => exact Or.inl rfl
  | poison => exact Or.inr (Or.inl rfl)
  | corrected => exact Or.inr (Or.inr (Or.inl rfl))
  | uncorrectable => exact Or.inr (Or.inr (Or.inr (Or.inl rfl)))
  | address => exact Or.inr (Or.inr (Or.inr (Or.inr rfl)))

/-- No reading of a sector moves a scrubber. -/
theorem place_scrubSector (s : State) (a : Nat) (u : ScrubUnit) : ((s.scrubSector a).scrubbed u).place = (s.scrubbed u).place := by
  rcases outcome_cases (s.decodeAt (s.locate a) a).outcome with h | h | h | h
  · rw [scrubSector_clean h]
  · rw [scrubSector_poison h]
    exact place_of_only (only_countOutcome s _ _) (by decide) u
  · rw [scrubSector_corrected h]
    exact place_of_only (only_State_storeRaw (Ps := [.mem, .checks]) _ _ _ _ _ ((only_countOutcome s _ _).mono (by decide) (List.Subset.refl _))
      (List.Subset.refl _)) (by decide) u
  · rw [scrubSector_bad h, State.scrubBad, place_of_only (only_lossTold _ s a) (by decide),
      place_of_only (only_State_storePoison (Ps := [.mem, .checks]) (Ks := []) _ _ _ (Only.refl _) (List.Subset.refl _)) (by decide),
      place_readSector]

/-! ### What a scrubber leaves in memory -/

theorem length_applyErrors (data : List Byte) (es : List SymError) : (applyErrors data es).length = data.length := by
  refine foldl_reading List.length _ es data fun d e _ => ?_
  split
  · rfl
  · exact List.length_mapIdx

theorem length_decodeSector (loc : Nat) (data : List Byte) (chk : Word) : (decodeSector loc data chk).data.length = data.length := by
  unfold decodeSector
  split
  · split
    · rfl
    · split
      · rfl
      · split
        · exact length_applyErrors ..
        · split
          · rfl
          · rfl
  · rfl

/-- A sector as its controller sees it, from what is stored. -/
def decodeStored (bad : Bool) (o : Option (Nat × Word)) (loc : Nat) (data : List Byte) : Decoded :=
  if bad then ⟨.poison, List.replicate 64 0⟩
  else match o with
    | none => ⟨.clean, data⟩
    | some x => decodeSector loc data x.2

theorem length_decodeStored (bad : Bool) (o : Option (Nat × Word)) (loc : Nat) {data : List Byte} (hd : data.length = 64) :
    (decodeStored bad o loc data).data.length = 64 := by
  unfold decodeStored
  split
  · exact List.length_replicate
  · split
    · exact hd
    · rw [length_decodeSector, hd]

/-- The channel of a place is poisoned. -/
def State.poisonedAt (s : State) : Loc → Bool
  | .ext n c _ => s.poisoned n c
  | _ => false

theorem decodeAt_eq (s : State) (l : Loc) (a : Nat) : s.decodeAt l a =
    decodeStored (s.poisonedAt l) (s.checks.find? fun x => x.1 = a / 64) (locCode l) (rdBytes s.mem a 64) := by
  cases l with
  | ext n c i => rfl
  | _ => rfl

theorem length_decodeAt (s : State) (l : Loc) (a : Nat) : (s.decodeAt l a).data.length = 64 := by
  rw [decodeAt_eq]
  exact length_decodeStored _ _ _ (length_rdBytes ..)

theorem mem_scrubSector_kept {s : State} {a : Nat}
    (h : (s.decodeAt (s.locate a) a).outcome = .clean ∨ (s.decodeAt (s.locate a) a).outcome = .poison) :
    (s.scrubSector a).mem = s.mem ∧ (s.scrubSector a).checks = s.checks := by
  rcases h with h | h
  · rw [scrubSector_clean h]
    exact ⟨rfl, rfl⟩
  · rw [scrubSector_poison h]
    exact ⟨(only_countOutcome ..).part .mem (by decide), (only_countOutcome ..).part .checks (by decide)⟩

theorem checks_setChecks (u : State) (l : Loc) (a : Nat) (chk : Word) : (u.setChecks l a chk).checks =
    if chk = cleanChecks (locCode l) (rdBytes u.mem a 64) then removeKey (a / 64) u.checks else insertKey (a / 64) chk u.checks := rfl

/-- Data stored with its own check symbols is a clean codeword. -/
theorem storeRaw_clean (u : State) (l : Loc) (a : Nat) (data : List Byte) (hd : data.length = 64) :
    (u.storeRaw l a data (cleanChecks (locCode l) data)).mem = wrBytes u.mem a data ∧
    (u.storeRaw l a data (cleanChecks (locCode l) data)).checks = removeKey (a / 64) u.checks := by
  have h : rdBytes (wrBytes u.mem a data) a 64 = data := hd ▸ rdBytes_wrBytes_same u.mem a data
  refine ⟨rfl, ?_⟩
  rw [State.storeRaw, checks_setChecks, h, if_pos rfl]

theorem mem_scrubCorrected {s : State} {a : Nat} (h : (s.decodeAt (s.locate a) a).outcome = .corrected) :
    rdBytes (s.scrubSector a).mem a 64 = (s.decodeAt (s.locate a) a).data ∧
    (∀ y, y ∈ (s.scrubSector a).checks → y.1 ≠ a / 64) ∧
    ∀ b, b < a ∨ a + 64 ≤ b → rdB (s.scrubSector a).mem b = rdB s.mem b := by
  have hlen := length_decodeAt s (s.locate a) a
  obtain ⟨hm, hc⟩ := storeRaw_clean (s.countOutcome (s.locate a) .corrected) (s.locate a) a _ hlen
  rw [scrubSector_corrected h, State.scrubCorrected, hm, hc, (only_countOutcome s (s.locate a) .corrected).part .mem (by decide)]
  refine ⟨?_, fun y hy => (mem_removeKey.1 hy).2, fun b hb => rdB_wrBytes_outside _ _ _ _ (by rwa [hlen])⟩
  have := rdBytes_wrBytes_same s.mem a (s.decodeAt (s.locate a) a).data
  rwa [hlen] at this

theorem rdBytes_zeroRange (m : Memory) (a n : Nat) : rdBytes (zeroRange m a n) a n = List.replicate n 0 := by
  refine List.eq_replicate_iff.2 ⟨length_rdBytes .., fun b hb => ?_⟩
  obtain ⟨i, hi, rfl⟩ := List.mem_map.1 hb
  rw [rdB_zeroRange, if_pos ⟨Nat.le_add_right _ _, by have := List.mem_range.1 hi; omega⟩]

theorem storePoison_facts (u : State) (l : Loc) (a : Nat) :
    (u.storePoison l a).mem = zeroRange u.mem a 64 ∧
    (poisonChecks (locCode l) ≠ cleanChecks (locCode l) (List.replicate 64 0) →
      (u.storePoison l a).checks.find? (fun y => y.1 = a / 64) = some (a / 64, poisonChecks (locCode l))) := by
  refine ⟨rfl, fun hne => ?_⟩
  have hz := rdBytes_zeroRange u.mem a 64
  rw [State.storePoison, checks_setChecks, hz, if_neg hne, find?_insertKey, if_pos rfl]

theorem mem_scrubBad {s : State} {a : Nat}
    (h : (s.decodeAt (s.locate a) a).outcome = .uncorrectable ∨ (s.decodeAt (s.locate a) a).outcome = .address) :
    rdBytes (s.scrubSector a).mem a 64 = List.replicate 64 0 ∧
    (∀ b, b < a ∨ a + 64 ≤ b → rdB (s.scrubSector a).mem b = rdB s.mem b) ∧
    (poisonChecks (locCode (s.locate a)) ≠ cleanChecks (locCode (s.locate a)) (List.replicate 64 0) →
      ((s.scrubSector a).checks.find? fun y => y.1 = a / 64) = some (a / 64, poisonChecks (locCode (s.locate a)))) := by
  obtain ⟨hm, hc⟩ := storePoison_facts (s.readSector a noTenant).1 (s.locate a) a
  have ho := only_lossTold ((s.readSector a noTenant).1.storePoison (s.locate a) a) s a
  have hr : (s.readSector a noTenant).1.mem = s.mem :=
    (only_State_readSector (Ps := [.fpDirty, .chanPoisoned, .hbm, .ic, .flog0, .flog1, .mbox]) s a noTenant (Only.refl s)
      (List.Subset.refl _) (List.Subset.refl _)).part .mem (by decide)
  rw [scrubSector_bad h, State.scrubBad, ho.part .mem (by decide), ho.part .checks (by decide), hm, hr]
  refine ⟨rdBytes_zeroRange .., fun b hb => ?_, hc⟩
  rw [rdB_zeroRange, if_neg (by omega)]

theorem decodeAt_congr {s t : State} (hm : t.mem = s.mem) (hc : t.checks = s.checks)
    (hp : ∀ n c, c < 16 → t.reg (.memChstat n c) = s.reg (.memChstat n c)) {l : Loc} (hl : l.chanOk) (a : Nat) :
    t.decodeAt l a = s.decodeAt l a := by
  have hpois : t.poisonedAt l = s.poisonedAt l := by
    cases l with
    | ext n c i =>
      change t.poisoned n c = s.poisoned n c
      rw [State.poisoned, State.poisoned, State.regF_congr (hp n c hl)]
    | _ => rfl
  rw [decodeAt_eq, decodeAt_eq, hm, hc, hpois]

/-! ### SCRUB_READ (R197) -/

/-- The scrubber has gone one sector on. -/
def State.scrubMoved (s : State) (u : ScrubUnit) : State :=
  s.setScrubbed u { s.scrubbed u with scrubPos := (s.scrubbed u).scrubPos + 1, lastScrub := s.now,
                                      scrubDone := decide (scrubSize u ≤ (s.scrubbed u).scrubPos + 1) }

/-- A channel counts the sector that its scrubber reads. -/
def State.scrubCounted (s : State) : ScrubUnit → State
  | .channel n c => s.ctr (unitChan n.val c.val) 0x1004 1
  | .bank _ _ => s

theorem scrubRead_eq (u : ScrubUnit) (s : State) : scrubRead u s =
    if !(s.memTested && s.scrubs u && s.regBit (scrubCtl u) 31 && !(s.scrubbed u).scrubDone) then s
    else if s.now < (s.scrubbed u).lastScrub + 10 * s.regF (scrubCtl u) 16 8 then s
    else if s.busySector u (s.scrubbed u).scrubPos then s.scrubMoved u
    else ((s.scrubMoved u).scrubCounted u).scrubSector (s.scrubAddr u (s.scrubbed u).scrubPos) := by
  cases u with
  | channel n c => rfl
  | bank k b => rfl

theorem stored_scrubCounted (s : State) (u : ScrubUnit) : Stored s (s.scrubCounted u) := by
  cases u with
  | channel n c => exact stored_ctr ..
  | bank k b => exact .refl s

theorem beds_ctr (s : State) (u code n : Nat) : (s.ctr u code n).beds = s.beds ∧ (s.ctr u code n).hbm = s.hbm ∧
    (s.ctr u code n).mem = s.mem ∧ (s.ctr u code n).checks = s.checks := by
  have h := only_State_ctr (Ps := []) (Ks := [.ctrVal]) s u code n (Only.refl s) (by decide)
  exact ⟨h.part .beds (by decide), h.part .hbm (by decide), h.part .mem (by decide), h.part .checks (by decide)⟩

theorem scrubCounted_parts (s : State) (u : ScrubUnit) : (s.scrubCounted u).beds = s.beds ∧ (s.scrubCounted u).hbm = s.hbm ∧
    (s.scrubCounted u).mem = s.mem ∧ (s.scrubCounted u).checks = s.checks := by
  cases u with
  | channel n c => exact beds_ctr ..
  | bank k b => exact ⟨rfl, rfl, rfl, rfl⟩

theorem only_scrubMoved (s : State) (u : ScrubUnit) : Only [.beds, .hbm] [] s (s.scrubMoved u) :=
  only_State_setScrubbed s u _ (Only.refl s) (List.Subset.refl _)

/-- What a scrubber reads is as it was before it moved on. -/
theorem scrubMoved_reads (s : State) (u : ScrubUnit) :
    ((s.scrubMoved u).scrubCounted u).locate = s.locate ∧
    ((s.scrubMoved u).scrubCounted u).mem = s.mem ∧ ((s.scrubMoved u).scrubCounted u).checks = s.checks ∧
    ∀ a, ((s.scrubMoved u).scrubCounted u).decodeAt (s.locate a) a = s.decodeAt (s.locate a) a := by
  have hm := only_scrubMoved s u
  obtain ⟨-, -, hmem, hchk⟩ := scrubCounted_parts (s.scrubMoved u) u
  have hs := stored_scrubCounted (s.scrubMoved u) u
  have hmem' := hmem.trans (hm.part .mem (by decide))
  have hchk' := hchk.trans (hm.part .checks (by decide))
  refine ⟨hs.locate.trans (State.locate_congr hm.make (hm.part .chanMapped (by decide)) (hm.part .domains (by decide))
    (hm.part .coreState (by decide)) (hm.part .bankRetired (by decide))), hmem', hchk', fun a => ?_⟩
  exact decodeAt_congr hmem' hchk' (fun n c hc => (hs.reg_eq fun u j hj => memChstat_off_ne_ctrVal hc hj).trans (hm.reg_eq _))
    (locate_chanOk s a) a

theorem place_scrubRead (s : State) (u : ScrubUnit) (a : Nat) :
    ((((s.scrubMoved u).scrubCounted u).scrubSector a).scrubbed u).place =
      ((s.scrubbed u).scrubPos + 1, s.now, decide (scrubSize u ≤ (s.scrubbed u).scrubPos + 1)) ∧
    ((s.scrubMoved u).scrubbed u).place =
      ((s.scrubbed u).scrubPos + 1, s.now, decide (scrubSize u ≤ (s.scrubbed u).scrubPos + 1)) := by
  obtain ⟨hb, hh, -, -⟩ := scrubCounted_parts (s.scrubMoved u) u
  have h : ((s.scrubMoved u).scrubbed u).place =
      ((s.scrubbed u).scrubPos + 1, s.now, decide (scrubSize u ≤ (s.scrubbed u).scrubPos + 1)) := by
    rw [State.scrubMoved, scrubbed_setScrubbed, if_pos rfl]
    rfl
  refine ⟨?_, h⟩
  rw [place_scrubSector, scrubbed_congr hb hh]
  exact h

theorem scrub_read (unit : ScrubUnit) (s : State) :
    let x := s.scrubbed unit
    let a := s.scrubAddr unit x.scrubPos
    let d := s.decodeAt (s.locate a) a
    let go := s.memTested = true ∧ s.scrubs unit = true ∧ s.regBit (scrubCtl unit) 31 = true ∧ x.scrubDone = false ∧
      x.lastScrub + 10 * s.regF (scrubCtl unit) 16 8 ≤ s.now
    (¬ go → exec (.scrubRead unit) s = .next s) ∧
    (go → ∃ t, exec (.scrubRead unit) s = .next t ∧
      Only [.mem, .checks, .fpDirty, .chanPoisoned, .beds, .hbm, .ic, .flog0, .flog1, .mbox] [.bedCe, .bedUe, .bedLastue, .memStat,
        .memChstat, .memChce, .memChue, .memChpoison, .ctrVal] s t ∧
      (t.scrubbed unit).scrubPos = x.scrubPos + 1 ∧ (t.scrubbed unit).lastScrub = s.now ∧
      (t.scrubbed unit).scrubDone = decide (scrubSize unit ≤ x.scrubPos + 1) ∧
      (s.busySector unit x.scrubPos = true ∨ d.outcome = .clean ∨ d.outcome = .poison → t.mem = s.mem ∧ t.checks = s.checks) ∧
      (s.busySector unit x.scrubPos = false → d.outcome = .corrected → rdBytes t.mem a 64 = d.data ∧
        (∀ y, y ∈ t.checks → y.1 ≠ a / 64) ∧ ∀ b, b < a ∨ a + 64 ≤ b → rdB t.mem b = rdB s.mem b) ∧
      (s.busySector unit x.scrubPos = false → d.outcome = .uncorrectable ∨ d.outcome = .address →
        rdBytes t.mem a 64 = List.replicate 64 0 ∧ (∀ b, b < a ∨ a + 64 ≤ b → rdB t.mem b = rdB s.mem b) ∧
        (poisonChecks (locCode (s.locate a)) ≠ cleanChecks (locCode (s.locate a)) (List.replicate 64 0) →
          (t.checks.find? fun y => y.1 = a / 64) = some (a / 64, poisonChecks (locCode (s.locate a)))))) := by
  intro x a d go
  have hx : exec (.scrubRead unit) s = .next (scrubRead unit s) := rfl
  refine ⟨fun hn => ?_, fun ⟨h1, h2, h3, h4, h5⟩ => ?_⟩
  · rw [hx, scrubRead_eq]
    split
    · rfl
    · next hg =>
      split
      · rfl
      · next ht =>
        simp only [Bool.not_eq_true', Bool.not_eq_false, Bool.and_eq_true] at hg
        obtain ⟨⟨⟨h1, h2⟩, h3⟩, h4⟩ := hg
        exact absurd ⟨h1, h2, h3, h4, Nat.not_lt.1 ht⟩ hn
  · have he : scrubRead unit s = if s.busySector unit x.scrubPos then s.scrubMoved unit
        else ((s.scrubMoved unit).scrubCounted unit).scrubSector a := by
      rw [scrubRead_eq, if_neg (by simp [h1, h2, h3, show (s.scrubbed unit).scrubDone = false from h4]), if_neg (Nat.not_lt.2 h5)]
    rw [he] at hx
    have ho := Only.ofExec (only_execScrubRead unit s) hx
    obtain ⟨hloc, hmem, hchk, hdec⟩ := scrubMoved_reads s unit
    obtain ⟨hp1, hp2⟩ := place_scrubRead s unit a
    have hd : ((s.scrubMoved unit).scrubCounted unit).decodeAt (((s.scrubMoved unit).scrubCounted unit).locate a) a = d := by
      rw [hloc]
      exact hdec a
    have hm := only_scrubMoved s unit
    by_cases hb : s.busySector unit x.scrubPos = true
    · rw [if_pos hb] at hx ho
      refine ⟨_, hx, ho, congrArg Prod.fst hp2, congrArg (·.2.1) hp2, congrArg (·.2.2) hp2,
        fun _ => ⟨hm.part .mem (by decide), hm.part .checks (by decide)⟩, fun hn => absurd (hb.symm.trans hn) (by decide),
        fun hn => absurd (hb.symm.trans hn) (by decide)⟩
    · rw [if_neg hb] at hx ho
      refine ⟨_, hx, ho, congrArg Prod.fst hp1, congrArg (·.2.1) hp1, congrArg (·.2.2) hp1, fun h => ?_, fun _ h => ?_, fun _ h => ?_⟩
      · obtain ⟨k1, k2⟩ := mem_scrubSector_kept (s := (s.scrubMoved unit).scrubCounted unit) (a := a)
          (by rw [hd]; exact h.resolve_left hb)
        exact ⟨k1.trans hmem, k2.trans hchk⟩
      · obtain ⟨k1, k2, k3⟩ := mem_scrubCorrected (s := (s.scrubMoved unit).scrubCounted unit) (a := a) (by rw [hd]; exact h)
        rw [hd] at k1
        exact ⟨k1, k2, fun b hb => (k3 b hb).trans (by rw [hmem])⟩
      · obtain ⟨k1, k2, k3⟩ := mem_scrubBad (s := (s.scrubMoved unit).scrubCounted unit) (a := a) (by rw [hd]; exact h)
        rw [hloc] at k3
        exact ⟨k1, fun b hb => (k2 b hb).trans (by rw [hmem]), k3⟩

/-! ### Laps (R199) -/

/-- The registers of a scrubbed memory: its last lap, its lap now, and its control. -/
def lapReg : ScrubMem → Reg
  | .stack n => .memScrubLap n.val
  | .bed k => .bedScrubLap k.val

def curReg : ScrubMem → Reg
  | .stack n => .memScrubCur n.val
  | .bed k => .bedScrubCur k.val

theorem lap_setLap (s : State) (m : ScrubMem) (x : ScrubLap) : (s.setLap m x).lap m = x := by
  cases m with
  | stack n =>
    change ((s.setStack n.val { s.stack n.val with lap := x }).stack n.val).lap = x
    rw [State.stack_setStack, if_pos rfl]
  | bed k =>
    change ((s.setBed k.val { s.bed k.val with lap := x }).bed k.val).lap = x
    rw [State.bed_setBed, if_pos rfl]

theorem scrubbed_setLap (s : State) (m : ScrubMem) (x : ScrubLap) (u : ScrubUnit) : (s.setLap m x).scrubbed u = s.scrubbed u := by
  cases m with
  | stack n =>
    cases u with
    | channel n' c =>
      change ((s.setStack n.val { s.stack n.val with lap := x }).stack n'.val).channel c.val = (s.stack n'.val).channel c.val
      rw [State.stack_setStack]
      by_cases h : n'.val = n.val
      · rw [if_pos h, h]
        rfl
      · rw [if_neg h]
    | bank k b => rfl
  | bed k =>
    cases u with
    | channel n c => rfl
    | bank k' b =>
      change ((s.setBed k.val { s.bed k.val with lap := x }).bed k'.val).bank b.val = (s.bed k'.val).bank b.val
      rw [State.bed_setBed]
      by_cases h : k'.val = k.val
      · rw [if_pos h, h]
        rfl
      · rw [if_neg h]

theorem lap_congr {s t : State} (hb : t.beds = s.beds) (hh : t.hbm = s.hbm) (m : ScrubMem) : t.lap m = s.lap m := by
  cases m with
  | stack n => exact congrArg (fun f => Stack.lap (f n.val)) (State.stack_congr hh)
  | bed k => exact congrArg (fun f => Bed.lap (f k.val)) (State.bed_congr hb)

theorem reg_setLap (s : State) (m : ScrubMem) (x : ScrubLap) (r : Reg) : (s.setLap m x).reg r = s.reg r := by
  cases m with
  | stack n => exact congrFun (State.reg_setStack ..) r
  | bed k => exact congrFun (State.reg_setBed ..) r

/-- A scrubber at the start of a lap. -/
def State.scrubRestarted (s : State) (u : ScrubUnit) : State :=
  s.setScrubbed u { s.scrubbed u with scrubPos := 0, scrubDone := false }

/-- Every unit of the memory starts again. -/
def State.lapRestarted (s : State) (m : ScrubMem) : State := (s.lapUnits m).foldl State.scrubRestarted s

theorem scrubLapEnd_eq (m : ScrubMem) (s : State) : scrubLapEnd m s =
    if (s.lapUnits m).isEmpty || (s.lapUnits m).any (fun u => !(s.scrubbed u).scrubDone) then s
    else ((s.lapRestarted m).setReg (lapReg m) (BitVec.ofNat 64 (secondsSince s.now (s.lap m).start % 2 ^ 32))).setLap m
      { start := s.now } := by
  cases m with
  | stack n => rfl
  | bed k => rfl

theorem lapRestarted_facts (s : State) (m : ScrubMem) : ∀ u, u ∈ s.lapUnits m →
    ((s.lapRestarted m).scrubbed u).scrubPos = 0 ∧ ((s.lapRestarted m).scrubbed u).scrubDone = false := by
  refine foldl_establishes (fun u (t : State) => (t.scrubbed u).scrubPos = 0 ∧ (t.scrubbed u).scrubDone = false) _ _ s
    (fun t u _ => ?_) fun t u v _ _ h => ?_
  · rw [State.scrubRestarted, scrubbed_setScrubbed, if_pos rfl]
    exact ⟨rfl, rfl⟩
  · rw [State.scrubRestarted, scrubbed_setScrubbed]
    by_cases huv : u = v
    · rw [if_pos huv]
      exact ⟨rfl, rfl⟩
    · rw [if_neg huv]
      exact h

theorem lap_end (m : ScrubMem) (s : State) :
    (¬ (s.lapUnits m ≠ [] ∧ ∀ u, u ∈ s.lapUnits m → (s.scrubbed u).scrubDone = true) → exec (.scrubLapEnd m) s = .next s) ∧
    (s.lapUnits m ≠ [] ∧ (∀ u, u ∈ s.lapUnits m → (s.scrubbed u).scrubDone = true) → ∃ t, exec (.scrubLapEnd m) s = .next t ∧
      Only [.beds, .hbm] [.bedScrubLap, .memScrubLap] s t ∧
      t.reg (lapReg m) = BitVec.ofNat 64 ((s.now - (s.lap m).start) / 200000000 % 2 ^ 32) ∧ t.lap m = { start := s.now } ∧
      ∀ u, u ∈ s.lapUnits m → (t.scrubbed u).scrubPos = 0 ∧ (t.scrubbed u).scrubDone = false) := by
  have hx : exec (.scrubLapEnd m) s = .next (scrubLapEnd m s) := rfl
  rw [scrubLapEnd_eq] at hx
  have hiff : ((s.lapUnits m).isEmpty || (s.lapUnits m).any (fun u => !(s.scrubbed u).scrubDone)) = true ↔
      ¬ (s.lapUnits m ≠ [] ∧ ∀ u, u ∈ s.lapUnits m → (s.scrubbed u).scrubDone = true) := by
    simp only [Bool.or_eq_true, List.isEmpty_iff, List.any_eq_true, Bool.not_eq_true', not_and_or, not_not, not_forall,
      exists_prop, Bool.not_eq_true]
  refine ⟨fun h => ?_, fun h => ?_⟩
  · rw [hx, if_pos (hiff.2 h)]
  · rw [if_neg (fun hb => hiff.1 hb h)] at hx
    have hreg := (s.lapRestarted m).reg_setReg_same (lapReg m)
      (BitVec.ofNat 64 (secondsSince s.now (s.lap m).start % 2 ^ 32))
    refine ⟨_, hx, Only.ofExec (only_execScrubLapEnd m s) hx, (reg_setLap ..).trans hreg, lap_setLap .., fun u hu => ?_⟩
    rw [scrubbed_setLap]
    exact lapRestarted_facts s m u hu

/-- The lap that is late is shown, once. -/
def State.lateShown (s : State) (m : ScrubMem) : State := (s.setBit (curReg m) 31).setLap m { s.lap m with lateLogged := true }

/-- The event and the log entry of a late lap. -/
def State.lateReported (u : State) (secs : Nat) : ScrubMem → State
  | .stack n => (u.raise (srcStack n.val 2)).log 0x0033 0 n.val (if n.val < 8 then 0x48 + n.val else 0x74 + (n.val - 8)) noTenant
      secs n.val
  | .bed k => (u.raise (srcCore k.val 4)).log 0x0033 0 (k.val / 8) k.val noTenant secs (0x100 + k.val)

theorem scrubLate_eq (m : ScrubMem) (s : State) : scrubLate m s =
    if !s.memTested || (s.lapUnits m).isEmpty || (s.lap m).lateLogged ||
      decide (s.now ≤ (s.lap m).start + scrubLimit s m * 3600 * 200000000) then s
    else (s.lateShown m).lateReported (secondsSince s.now (s.lap m).start) m := by
  cases m with
  | stack n => rfl
  | bed k => rfl

theorem only_lateReported (u : State) (secs : Nat) (m : ScrubMem) : Only [.ic, .flog0, .flog1] [] u (u.lateReported secs m) := by
  cases m with
  | stack n => exact ((only_raise u _).mono (by decide) (by decide)).trans ((only_log _ _ _ _ _ _ _ _).mono (by decide) (by decide))
  | bed k => exact ((only_raise u _).mono (by decide) (by decide)).trans ((only_log _ _ _ _ _ _ _ _).mono (by decide) (by decide))

theorem only_setLap (s : State) (m : ScrubMem) (x : ScrubLap) : Only [.beds, .hbm] [] s (s.setLap m x) := by
  cases m with
  | stack n => exact only_State_setStack s _ _ (Only.refl s) (by decide)
  | bed k => exact only_State_setBed s _ _ (Only.refl s) (by decide)

theorem only_lateShown (s : State) (m : ScrubMem) : Only [.beds, .hbm] [.bedScrubCur, .memScrubCur] s (s.lateShown m) := by
  have h : (curReg m).kind ∈ [RegKind.bedScrubCur, .memScrubCur] := by
    cases m with
    | stack n => exact List.elem_iff.mp rfl
    | bed k => exact List.elem_iff.mp rfl
  have hb : Only [.beds, .hbm] [.bedScrubCur, .memScrubCur] s (s.setBit (curReg m) 31) := only_State_setBit s _ _ (Only.refl s) h
  exact hb.trans ((only_setLap _ m _).mono (List.Subset.refl _) (by decide))

theorem lateShown_facts (s : State) (m : ScrubMem) :
    (s.lateShown m).regBit (curReg m) 31 = true ∧ (s.lateShown m).lap m = { s.lap m with lateLogged := true } := by
  refine ⟨?_, lap_setLap ..⟩
  rw [State.lateShown, State.regBit_congr (reg_setLap ..), State.regBit_setBit _ _ _ _ (by decide) (by decide)]
  simp

theorem srcExists_core4 {k : Nat} (hk : k < 64) : srcExists (8 * k + 4) = true := by
  rw [srcExists, if_pos (by omega)]
  exact decide_eq_true (by omega)

/-- What a late lap raises and logs. -/
def State.lateTold (s t : State) (secs : Nat) : ScrubMem → Prop
  | .stack n => Claims.raises s t (0x280 + 8 * n.val + 2) ∧ Claims.logs s t (Claims.entry s 0x33 0
      (if n.val < 8 then n.val else n.val + 8) (if n.val < 8 then 0x48 + n.val else 0x74 + (n.val - 8)) 0xFFFF secs n.val)
  | .bed k => Claims.raises s t (8 * k.val + 4) ∧
      Claims.logs s t (Claims.entry s 0x33 0 (k.val / 8) k.val 0xFFFF secs (0x100 + k.val))

theorem dieField_of_stack (n : Nat) : dieField n = if n < 8 then n else n + 8 := by
  rw [dieField]
  split <;> omega

/-- An event and an entry, in a state whose logs, clock and controller are as before. -/
theorem told_after {s u : State} {Ps : List Piece} {Ks : List RegKind} {src : Nat} (he : srcExists src = true)
    (h : Only Ps Ks s u) (hp : ∀ p, p ∈ [Piece.x0Lost, .domains, .sampling, .quiesced, .ic, .tb, .flog0, .flog1] → p ∉ Ps)
    (code sev die node tenant d0 d1 : Nat) :
    Claims.raises s ((u.raise src).log code sev die node tenant d0 d1) src ∧
    Claims.logs s ((u.raise src).log code sev die node tenant d0 d1)
      (Claims.entry s code sev (dieField die) node tenant d0 d1) := by
  have hr := only_raise u src
  refine ⟨raises_after he h (fun p hm => hp p (by
      simp only [List.mem_cons, List.not_mem_nil, or_false] at hm ⊢
      tauto)) ((only_log (u.raise src) code sev die node tenant d0 d1).part .ic (by decide)), ?_⟩
  exact logs_after ((hr.part .tb (by decide)).trans (h.part .tb (hp _ (by simp))))
    ((hr.part .flog0 (by decide)).trans (h.part .flog0 (hp _ (by simp))))
    ((hr.part .flog1 (by decide)).trans (h.part .flog1 (hp _ (by simp)))) rfl rfl

theorem lateTold_lateReported (s : State) (m : ScrubMem) (secs : Nat) :
    s.lateTold ((s.lateShown m).lateReported secs m) secs m := by
  have ho := only_lateShown s m
  cases m with
  | stack n =>
    obtain ⟨h1, h2⟩ := told_after (srcExists_stack n.isLt (by decide : 2 < 3)) ho (by decide) 0x33 0 n.val
      (if n.val < 8 then 0x48 + n.val else 0x74 + (n.val - 8)) noTenant secs n.val
    rw [dieField_of_stack] at h2
    exact ⟨h1, h2⟩
  | bed k =>
    obtain ⟨h1, h2⟩ := told_after (srcExists_core4 k.isLt) ho (by decide) 0x33 0 (k.val / 8) k.val noTenant secs (0x100 + k.val)
    rw [dieField, if_pos (show k.val / 8 < 8 by omega)] at h2
    exact ⟨h1, h2⟩

theorem scrub_late (m : ScrubMem) (s : State) :
    (¬ (s.memTested = true ∧ s.lapUnits m ≠ [] ∧ (s.lap m).lateLogged = false ∧
      (s.lap m).start + scrubLimit s m * 3600 * 200000000 < s.now) → exec (.scrubLate m) s = .next s) ∧
    (s.memTested = true ∧ s.lapUnits m ≠ [] ∧ (s.lap m).lateLogged = false ∧
      (s.lap m).start + scrubLimit s m * 3600 * 200000000 < s.now → ∃ t, exec (.scrubLate m) s = .next t ∧
      Only [.beds, .hbm, .ic, .flog0, .flog1] [.bedScrubCur, .memScrubCur] s t ∧
      t.regBit (curReg m) 31 = true ∧ t.lap m = { s.lap m with lateLogged := true } ∧
      s.lateTold t ((s.now - (s.lap m).start) / 200000000) m) := by
  have hx : exec (.scrubLate m) s = .next (scrubLate m s) := rfl
  rw [scrubLate_eq] at hx
  have hiff : (!s.memTested || (s.lapUnits m).isEmpty || (s.lap m).lateLogged ||
      decide (s.now ≤ (s.lap m).start + scrubLimit s m * 3600 * 200000000)) = true ↔
      ¬ (s.memTested = true ∧ s.lapUnits m ≠ [] ∧ (s.lap m).lateLogged = false ∧
        (s.lap m).start + scrubLimit s m * 3600 * 200000000 < s.now) := by
    generalize (s.lap m).start + scrubLimit s m * 3600 * 200000000 = w
    simp only [Bool.or_eq_true, List.isEmpty_iff, Bool.not_eq_true', decide_eq_true_eq, not_and_or, not_not, Bool.not_eq_true,
      Bool.not_eq_false, Nat.not_lt, ne_eq, or_assoc]
  refine ⟨fun h => ?_, fun h => ?_⟩
  · rw [hx, if_pos (hiff.2 h)]
  · rw [if_neg (fun hb => hiff.1 hb h)] at hx
    obtain ⟨hbit, hlap⟩ := lateShown_facts s m
    have ho := only_lateReported (s.lateShown m) (secondsSince s.now (s.lap m).start) m
    refine ⟨_, hx, Only.ofExec (only_execScrubLate m s) hx, (State.regBit_congr (ho.reg_eq _) 31).trans hbit,
      (lap_congr (ho.part .beds (by decide)) (ho.part .hbm (by decide)) m).trans hlap, lateTold_lateReported s m _⟩

/-! ### Stack temperature (R204, R205) -/

theorem allowOf_lt (temp : Nat) : allowOf temp < 256 := by
  rw [allowOf]
  omega

/-- The temperature and the fraction of R204 are shown. -/
def State.tempShown (s : State) (n temp : Nat) : State :=
  (s.setF (.memStat n) 24 8 temp).setF (.memStat n) 16 8 (allowOf temp)

/-- When the stack was last found cool. -/
def coolAt (x : Stack) (temp now : Nat) : Option Nat := if temp < 83 then some (x.coolSince.getD now) else none

/-- The temperature has been taken: a stack that turns hot raises its event. -/
def State.tempTaken (s : State) (n temp : Nat) : State :=
  if !s.regBit (.memStat n) 2 && decide (85 ≤ temp) then
    (((s.tempShown n temp).setBit (.memStat n) 2).setStack n
      { s.stack n with hotSince := s.now, coolSince := none }).raise (srcStack n 0)
  else (s.tempShown n temp).setStack n { s.stack n with coolSince := coolAt (s.stack n) temp s.now }

theorem stackTempRead_on {s : State} {n : Nat} (temp : Nat) (critical : Bool) (h : s.stackOn n = true) :
    stackTempRead n temp critical s =
      if critical then ((s.tempTaken n temp).setBit (.memStat n) 3).enterHardpan 3 n (2 * temp) else s.tempTaken n temp := by
  have hcool : (if temp < 83 then (match (s.stack n).coolSince with
      | some t => some t
      | none => some s.now) else none) = coolAt (s.stack n) temp s.now := by
    rw [coolAt]
    cases (s.stack n).coolSince <;> rfl
  have hoff : ¬ (!s.stackOn n) = true := by rw [h]; exact Bool.false_ne_true
  have hr : stackTempRead n temp critical s = if critical then ((if !s.regBit (.memStat n) 2 && decide (85 ≤ temp) then
      (((s.tempShown n temp).setBit (.memStat n) 2).setStack n
        { s.stack n with hotSince := s.now, coolSince := none }).raise (srcStack n 0)
      else (s.tempShown n temp).setStack n { s.stack n with coolSince := if temp < 83 then (match (s.stack n).coolSince with
        | some t => some t
        | none => some s.now) else none }).setBit (.memStat n) 3).enterHardpan 3 n (2 * temp)
      else if !s.regBit (.memStat n) 2 && decide (85 ≤ temp) then
      (((s.tempShown n temp).setBit (.memStat n) 2).setStack n
        { s.stack n with hotSince := s.now, coolSince := none }).raise (srcStack n 0)
      else (s.tempShown n temp).setStack n { s.stack n with coolSince := if temp < 83 then (match (s.stack n).coolSince with
        | some t => some t
        | none => some s.now) else none } := if_neg hoff
  rw [hr, hcool]
  rfl

theorem only_tempShown (s : State) (n temp : Nat) : Only [] [.memStat] s (s.tempShown n temp) :=
  only_State_setF _ _ _ _ _ (only_State_setF s _ _ _ _ (Only.refl s) (List.elem_iff.mp rfl)) (List.elem_iff.mp rfl)

theorem tempShown_facts (s : State) (n : Nat) {temp : Nat} (ht : temp < 256) :
    (s.tempShown n temp).regF (.memStat n) 24 8 = temp ∧ (s.tempShown n temp).regF (.memStat n) 16 8 = allowOf temp ∧
    (s.tempShown n temp).regBit (.memStat n) 2 = s.regBit (.memStat n) 2 := by
  refine ⟨?_, ?_, ?_⟩
  · rw [State.tempShown, State.regF_setF_apart _ _ _ _ _ _ _ (by decide) (by decide), State.regF_setF_same _ _ _ _ _ (by decide)]
    exact Nat.mod_eq_of_lt ht
  · rw [State.tempShown, State.regF_setF_same _ _ _ _ _ (by decide)]
    exact Nat.mod_eq_of_lt (allowOf_lt temp)
  · rw [State.tempShown, State.regBit_setF_apart _ _ _ _ _ _ (by decide) (by decide),
      State.regBit_setF_apart _ _ _ _ _ _ (by decide) (by decide)]

theorem only_tempTaken (s : State) (n temp : Nat) : Only [.hbm, .ic] [.memStat] s (s.tempTaken n temp) := by
  have h : Only [.hbm, .ic] [.memStat] s (s.tempShown n temp) := (only_tempShown s n temp).mono (by decide) (by decide)
  rw [State.tempTaken]
  split
  · exact only_State_raise _ _ (only_State_setStack _ _ _ (only_State_setBit _ _ _ h (List.elem_iff.mp rfl)) (by decide)) (by decide)
  · exact only_State_setStack _ _ _ h (by decide)

/-- A stack that turns hot. -/
theorem turnsHot_facts (u : State) (n now : Nat) (x : Stack) :
    ((u.setBit (.memStat n) 2).setStack n { x with hotSince := now, coolSince := none }).stack n =
      { x with hotSince := now, coolSince := none } ∧
    (∀ lo w, 3 ≤ lo → ((u.setBit (.memStat n) 2).setStack n { x with hotSince := now, coolSince := none }).regF (.memStat n) lo w =
      u.regF (.memStat n) lo w) ∧
    ((u.setBit (.memStat n) 2).setStack n { x with hotSince := now, coolSince := none }).regBit (.memStat n) 2 = true := by
  refine ⟨?_, fun lo w h => ?_, ?_⟩
  · rw [State.stack_setStack, if_pos rfl]
  · exact (State.regF_congr (congrFun (State.reg_setStack ..) _) lo w).trans (State.regF_setF_apart _ _ _ _ _ _ _ (by decide) (by omega))
  · rw [State.regBit_congr (congrFun (State.reg_setStack ..) _), State.regBit_setBit _ _ _ _ (by decide) (by decide)]
    simp

theorem tempTaken_facts (s : State) {n temp : Nat} (hn : n < 12) (ht : temp < 256) :
    (s.tempTaken n temp).regF (.memStat n) 24 8 = temp ∧ (s.tempTaken n temp).regF (.memStat n) 16 8 = allowOf temp ∧
    (s.tempTaken n temp).regBit (.memStat n) 2 = (s.regBit (.memStat n) 2 || decide (85 ≤ temp)) ∧
    (s.regBit (.memStat n) 2 = false → 85 ≤ temp → ((s.tempTaken n temp).stack n).hotSince = s.now ∧
      Claims.raises s (s.tempTaken n temp) (0x280 + 8 * n)) ∧
    ((s.stack n).coolSince = none → temp < 83 → ((s.tempTaken n temp).stack n).coolSince = some s.now) ∧
    (83 ≤ temp → ((s.tempTaken n temp).stack n).coolSince = none) := by
  obtain ⟨h24, h16, h2⟩ := tempShown_facts s n ht
  have hshown := only_tempShown s n temp
  rw [State.tempTaken]
  by_cases hot : (!s.regBit (.memStat n) 2 && decide (85 ≤ temp)) = true
  · obtain ⟨hold, h85⟩ := Bool.and_eq_true_iff.1 hot
    have h85 := of_decide_eq_true h85
    rw [if_pos hot]
    have hu : Only [.hbm] [.memStat] s (((s.tempShown n temp).setBit (.memStat n) 2).setStack n
        { s.stack n with hotSince := s.now, coolSince := none }) :=
      only_State_setStack _ _ _ (only_State_setBit _ _ _ (hshown.mono (by decide) (List.Subset.refl _)) (List.elem_iff.mp rfl)) (by decide)
    obtain ⟨hs, hf, hb⟩ := turnsHot_facts (s.tempShown n temp) n s.now (s.stack n)
    generalize ((s.tempShown n temp).setBit (.memStat n) 2).setStack n { s.stack n with hotSince := s.now, coolSince := none } = u
      at hu hs hf hb ⊢
    have hr := only_raise u (srcStack n 0)
    have hst : (u.raise (srcStack n 0)).stack n = _ := (congrFun (State.stack_congr (hr.part .hbm (by decide))) n).trans hs
    refine ⟨(State.regF_congr (hr.reg_eq _) 24 8).trans ((hf 24 8 (by decide)).trans h24),
      (State.regF_congr (hr.reg_eq _) 16 8).trans ((hf 16 8 (by decide)).trans h16),
      (State.regBit_congr (hr.reg_eq _) 2).trans (hb.trans (by simp [h85])), fun _ _ => ⟨by rw [hst], ?_⟩,
      fun _ hlt => absurd hlt (by omega), fun _ => by rw [hst]⟩
    exact raises_after (srcExists_stack hn (by decide : 0 < 3)) hu (by decide) rfl
  · rw [if_neg hot]
    have hreg : ∀ r, ((s.tempShown n temp).setStack n { s.stack n with coolSince := coolAt (s.stack n) temp s.now }).reg r =
      (s.tempShown n temp).reg r := fun r => congrFun (State.reg_setStack ..) r
    have hst : ((s.tempShown n temp).setStack n { s.stack n with coolSince := coolAt (s.stack n) temp s.now }).stack n =
        { s.stack n with coolSince := coolAt (s.stack n) temp s.now } := by
      rw [State.stack_setStack, if_pos rfl]
    refine ⟨(State.regF_congr (hreg _) 24 8).trans h24, (State.regF_congr (hreg _) 16 8).trans h16,
      (State.regBit_congr (hreg _) 2).trans (h2.trans ?_), fun hf h85 => absurd (by simp [hf, h85]) hot, fun hc hlt => ?_, fun h83 => ?_⟩
    · cases hb : s.regBit (.memStat n) 2 with
      | true => rfl
      | false =>
        rw [hb] at hot
        simpa using hot
    · rw [hst, coolAt, if_pos hlt, hc]
      rfl
    · rw [hst, coolAt, if_neg (Nat.not_lt.2 h83)]

/-! ### Hardpan (R346) -/

/-- The cause is latched and logged, and the host will learn of it. -/
def State.hardpanLatched (s : State) (v : Nat) : State :=
  ((s.setReg .pkgHardpan (BitVec.ofNat 64 v)).log 0x0061 4 8 0x70 noTenant v 0).setFatal fatHardpan

theorem hardpanLatched_facts (s : State) (v : Nat) : (s.hardpanLatched v).reg .pkgHardpan = BitVec.ofNat 64 v ∧
    ∀ b, nbit (s.hardpanLatched v).fatal b = (nbit s.fatal b || b = fatHardpan) := by
  have hset := s.reg_setReg_same .pkgHardpan (BitVec.ofNat 64 v)
  have hl := only_log (s.setReg .pkgHardpan (BitVec.ofNat 64 v)) 0x0061 4 8 0x70 noTenant v 0
  have hf0 : (s.setReg .pkgHardpan (BitVec.ofNat 64 v)).fatal = s.fatal := rfl
  rw [State.hardpanLatched]
  generalize s.setReg .pkgHardpan (BitVec.ofNat 64 v) = u at hset hl hf0
  have hf : (u.log 0x0061 4 8 0x70 noTenant v 0).fatal = u.fatal := hl.part .fatal (by decide)
  refine ⟨((only_setFatal _ fatHardpan).reg_eq _).trans ((hl.reg_eq _).trans hset), fun b => ?_⟩
  rw [nbit_fatal_setFatal, hf, hf0]

/-- The part ends in hardpan; a running boot step with it. -/
def State.hardpanShown (u : State) : State :=
  if (u.setBwF BW.state 28 4 stHardpan).bootRun.isSome then
    ({ u.setBwF BW.state 28 4 stHardpan with bootRun := none }.setBwF BW.status 31 1 0).setBwF BW.status 0 8 0x11
  else u.setBwF BW.state 28 4 stHardpan

theorem bootState_hardpanShown (u : State) : u.hardpanShown.bootState = 15 := by
  have h : (u.setBwF BW.state 28 4 stHardpan).bwF BW.state 28 4 = 15 := State.bwF_setBwF_same _ _ _ _ _ (by decide)
  have hne : BW.state ≠ BW.status := by decide
  rw [State.hardpanShown]
  split
  · rw [State.bootState, State.bwF_setBwF_ne _ _ _ _ _ _ hne, State.bwF_setBwF_ne _ _ _ _ _ _ hne, bwF_noRun]
    exact h
  · exact h

theorem only_hardpanShown (u : State) : Only [.boot, .bootRun] [] u u.hardpanShown := by
  have h : Only [.boot, .bootRun] [] u (u.setBwF BW.state 28 4 stHardpan) := only_State_setBwF _ _ _ _ _ (Only.refl u) (by decide)
  rw [State.hardpanShown]
  split
  · exact only_State_setBwF _ _ _ _ _ (only_State_setBwF _ _ _ _ _ (h.upd_bootRun (by decide)) (by decide)) (by decide)
  · exact h

theorem enterHardpan_eq {s : State} (cause source value : Nat) (h : s.inHardpan = false) : s.enterHardpan cause source value =
    ((s.hardpanLatched (2 ^ 31 + cause * 2 ^ 28 + source * 2 ^ 16 + value % 65536)).allOff .dead).hardpanShown :=
  if_neg (by rw [h]; exact Bool.false_ne_true)

theorem Reg.eq_memStat_of_kind {r : Reg} (h : r.kind = .memStat) : ∃ m, r = .memStat m := by
  cases r with
  | memStat m => exact ⟨m, rfl⟩
  | _ => cases h

theorem pkgHardpan_apart (d : Nat) : Reg.pkgHardpan.off ≠ (Reg.vregCtl d).off ∧ Reg.pkgHardpan.off ≠ (Reg.vstat d).off := by
  rw [Reg.pkgHardpan_off, Reg.vregCtl_off, Reg.vstat_off, blk, blk]
  omega

theorem enterHardpan_facts {s : State} (cause source value : Nat) (h : s.inHardpan = false) :
    (s.enterHardpan cause source value).bootState = 15 ∧ (s.enterHardpan cause source value).alive = false ∧
    (s.enterHardpan cause source value).lists = [] ∧
    (s.enterHardpan cause source value).reg .pkgHardpan =
      BitVec.ofNat 64 (2 ^ 31 + cause * 2 ^ 28 + source * 2 ^ 16 + value % 65536) ∧
    (∀ b, nbit (s.enterHardpan cause source value).fatal b = (nbit s.fatal b || b = fatHardpan)) ∧
    ∀ d, d < 12 → ((s.enterHardpan cause source value).dom d).state = .dead ∨
      (((s.enterHardpan cause source value).dom d).state = .discharge ∧ ((s.enterHardpan cause source value).dom d).after = .dead) := by
  rw [enterHardpan_eq cause source value h]
  obtain ⟨hreg, hfatal⟩ := hardpanLatched_facts s (2 ^ 31 + cause * 2 ^ 28 + source * 2 ^ 16 + value % 65536)
  generalize s.hardpanLatched (2 ^ 31 + cause * 2 ^ 28 + source * 2 ^ 16 + value % 65536) = u at hreg hfatal ⊢
  obtain ⟨ha, hl⟩ := gone_allOff u .dead
  have hoff := reg_allOff_apart u .dead .pkgHardpan (fun d => (pkgHardpan_apart d).1) fun d => (pkgHardpan_apart d).2
  have hdom := dom_allOff u .dead
  have hf : (u.allOff .dead).fatal = u.fatal :=
    (only_State_allOff u .dead (Only.refl u) (List.Subset.refl _) (List.Subset.refl _)).part .fatal (by decide)
  have ho := only_hardpanShown (u.allOff .dead)
  refine ⟨bootState_hardpanShown _, (ho.part .alive (by decide)).trans ha, (ho.part .lists (by decide)).trans hl,
    (ho.reg_eq _).trans (hoff.trans hreg), fun b => ?_, fun d hd => ?_⟩
  · rw [ho.part .fatal (by decide), hf]
    exact hfatal b
  · rw [State.dom_congr (ho.part .domains (by decide)), hdom d hd]
    exact Domain.turnOff_dead _ _

theorem stack_critical {s : State} {n temp : Nat} (hn : n < 12) (ht : temp < 256) (hr : s.running = true) :
    (((s.tempTaken n temp).setBit (.memStat n) 3).enterHardpan 3 n (2 * temp)).inHardpan = true ∧
    (((s.tempTaken n temp).setBit (.memStat n) 3).enterHardpan 3 n (2 * temp)).bootState = 15 ∧
    (((s.tempTaken n temp).setBit (.memStat n) 3).enterHardpan 3 n (2 * temp)).alive = false ∧
    (((s.tempTaken n temp).setBit (.memStat n) 3).enterHardpan 3 n (2 * temp)).lists = [] ∧
    (((s.tempTaken n temp).setBit (.memStat n) 3).enterHardpan 3 n (2 * temp)).reg .pkgHardpan =
      BitVec.ofNat 64 (2 ^ 31 + 3 * 2 ^ 28 + n * 2 ^ 16 + 2 * temp) ∧
    (∀ b, nbit (((s.tempTaken n temp).setBit (.memStat n) 3).enterHardpan 3 n (2 * temp)).fatal b =
      (nbit s.fatal b || b = fatHardpan)) ∧
    ∀ d, d < 12 → ((((s.tempTaken n temp).setBit (.memStat n) 3).enterHardpan 3 n (2 * temp)).dom d).state = .dead ∨
      (((((s.tempTaken n temp).setBit (.memStat n) 3).enterHardpan 3 n (2 * temp)).dom d).state = .discharge ∧
        ((((s.tempTaken n temp).setBit (.memStat n) 3).enterHardpan 3 n (2 * temp)).dom d).after = .dead) := by
  have ho : Only [.hbm, .ic] [.memStat] s ((s.tempTaken n temp).setBit (.memStat n) 3) :=
    only_State_setBit _ _ _ (only_tempTaken s n temp) (List.elem_iff.mp rfl)
  have hpan : ((s.tempTaken n temp).setBit (.memStat n) 3).reg .pkgHardpan = s.reg .pkgHardpan := ho.reg_apart _ fun r hk => by
    obtain ⟨m, rfl⟩ := Reg.eq_memStat_of_kind (List.mem_singleton.1 hk)
    rw [Reg.pkgHardpan_off, Reg.memStat_off, blk, blk]
    omega
  have hout : ((s.tempTaken n temp).setBit (.memStat n) 3).inHardpan = false := by
    have h1 : s.inHardpan = false := by
      simp only [State.running, Bool.and_eq_true, Bool.not_eq_true'] at hr
      exact hr.2
    exact (State.regBit_congr hpan 31).trans h1
  have hfatal : ((s.tempTaken n temp).setBit (.memStat n) 3).fatal = s.fatal := ho.part .fatal (by decide)
  obtain ⟨h1, h2, h3, h4, h5, h6⟩ := enterHardpan_facts (s := (s.tempTaken n temp).setBit (.memStat n) 3) 3 n (2 * temp) hout
  rw [hfatal] at h5
  rw [Nat.mod_eq_of_lt (show 2 * temp < 65536 by omega)] at h4
  refine ⟨?_, h1, h2, h3, h4, h5, h6⟩
  rw [State.inHardpan, State.regBit, State.regF, h4, getF, BitVec.toNat_ofNat]
  exact decide_eq_true (by omega)

theorem stack_cools {s : State} {n since : Nat} (hb : s.regBit (.memStat n) 2 = true) (hc : (s.stack n).coolSince = some since)
    (ht : since + 2000000 ≤ s.now) (hh : (s.stack n).hotSince + 2000000 ≤ s.now) :
    stackHotClear n s = s.clrBit (.memStat n) 2 := by
  rw [stackHotClear, hc]
  exact if_pos (by simp [hb, ht, hh])

theorem stack_stays {s : State} {n : Nat} (h : s.regBit (.memStat n) 2 = false ∨ (s.stack n).coolSince = none ∨
    s.now < (s.stack n).hotSince + 2000000) : stackHotClear n s = s := by
  rw [stackHotClear]
  refine if_neg ?_
  rcases h with h | h | h
  · simp [h]
  · simp [h]
  · simp [Nat.not_le.2 h]

theorem stack_temperature (stack : Fin 12) (temp : Byte) (critical : Bool) (s : State) :
    let n := stack.val
    let v := temp.toNat
    (s.stackOn n = false → exec (.stackTempRead stack temp critical) s = .next s) ∧
    (s.stackOn n = true → critical = false → ∃ t, exec (.stackTempRead stack temp critical) s = .next t ∧
      Only [.hbm, .ic] [.memStat] s t ∧ t.regF (.memStat n) 24 8 = v ∧
      t.regF (.memStat n) 16 8 = max 64 ((2560 - 128 * (v - 85)) / 10) - 1 ∧
      t.regBit (.memStat n) 2 = (s.regBit (.memStat n) 2 || decide (85 ≤ v)) ∧
      (s.regBit (.memStat n) 2 = false → 85 ≤ v → (t.stack n).hotSince = s.now ∧ Claims.raises s t (0x280 + 8 * n)) ∧
      ((s.stack n).coolSince = none → v < 83 → (t.stack n).coolSince = some s.now) ∧ (83 ≤ v → (t.stack n).coolSince = none)) ∧
    (s.stackOn n = true → critical = true → s.running = true → ∃ t, exec (.stackTempRead stack temp critical) s = .next t ∧
      t.inHardpan = true ∧ t.bootState = 15 ∧ t.alive = false ∧ t.lists = [] ∧
      t.reg .pkgHardpan = BitVec.ofNat 64 (2 ^ 31 + 3 * 2 ^ 28 + n * 2 ^ 16 + 2 * v) ∧
      (∀ b, nbit t.fatal b = (nbit s.fatal b || b = fatHardpan)) ∧
      ∀ d, d < 12 → (t.dom d).state = .dead ∨ ((t.dom d).state = .discharge ∧ (t.dom d).after = .dead)) ∧
    (∀ since, s.regBit (.memStat n) 2 = true → (s.stack n).coolSince = some since → since + 2000000 ≤ s.now →
      (s.stack n).hotSince + 2000000 ≤ s.now → ∃ t, exec (.stackHotClear stack) s = .next t ∧ Only [] [.memStat] s t ∧
        ∀ b, b < 64 → t.regBit (.memStat n) b = (decide (b ≠ 2) && s.regBit (.memStat n) b)) ∧
    (s.regBit (.memStat n) 2 = false ∨ (s.stack n).coolSince = none ∨ s.now < (s.stack n).hotSince + 2000000 →
      exec (.stackHotClear stack) s = .next s) := by
  intro n v
  have hx : exec (.stackTempRead stack temp critical) s = .next (stackTempRead n v critical s) := rfl
  have hy : exec (.stackHotClear stack) s = .next (stackHotClear n s) := rfl
  refine ⟨fun hoff => ?_, fun hon hc => ?_, fun hon hc hr => ?_, fun since hb hc ht hh => ?_, fun h => ?_⟩
  · refine hx.trans (congrArg Host.Outcome.next (if_pos ?_))
    rw [hoff]
    rfl
  · rw [stackTempRead_on v critical hon, if_neg (by rw [hc]; exact Bool.false_ne_true)] at hx
    exact ⟨_, hx, only_tempTaken s n v, tempTaken_facts s stack.isLt temp.isLt⟩
  · rw [stackTempRead_on v critical hon, if_pos hc] at hx
    exact ⟨_, hx, stack_critical stack.isLt temp.isLt hr⟩
  · have he := hy.trans (congrArg Host.Outcome.next (stack_cools hb hc ht hh))
    exact ⟨_, he, Only.ofExec (only_execStackHotClear stack s) he, fun b hb => s.regBit_clrBit (.memStat n) 2 b hb (by decide)⟩
  · exact hy.trans (congrArg Host.Outcome.next (stack_stays h))

theorem scrub_laps (m : ScrubMem) (s : State) :
    let lapReg := match m with
      | .stack n => Reg.memScrubLap n.val
      | .bed k => Reg.bedScrubLap k.val
    let curReg := match m with
      | .stack n => Reg.memScrubCur n.val
      | .bed k => Reg.bedScrubCur k.val
    let secs := (s.now - (s.lap m).start) / 200000000
    let ended := s.lapUnits m ≠ [] ∧ ∀ u, u ∈ s.lapUnits m → (s.scrubbed u).scrubDone = true
    let late := s.memTested = true ∧ s.lapUnits m ≠ [] ∧ (s.lap m).lateLogged = false ∧
      (s.lap m).start + scrubLimit s m * 3600 * 200000000 < s.now
    (¬ ended → exec (.scrubLapEnd m) s = .next s) ∧
    (ended → ∃ t, exec (.scrubLapEnd m) s = .next t ∧ Only [.beds, .hbm] [.bedScrubLap, .memScrubLap] s t ∧
      t.reg lapReg = BitVec.ofNat 64 (secs % 2 ^ 32) ∧ t.lap m = { start := s.now } ∧
      ∀ u, u ∈ s.lapUnits m → (t.scrubbed u).scrubPos = 0 ∧ (t.scrubbed u).scrubDone = false) ∧
    (¬ late → exec (.scrubLate m) s = .next s) ∧
    (late → ∃ t, exec (.scrubLate m) s = .next t ∧ Only [.beds, .hbm, .ic, .flog0, .flog1] [.bedScrubCur, .memScrubCur] s t ∧
      t.regBit curReg 31 = true ∧ t.lap m = { s.lap m with lateLogged := true } ∧
      match m with
      | .stack n => Claims.raises s t (0x280 + 8 * n.val + 2) ∧ Claims.logs s t (Claims.entry s 0x33 0
          (if n.val < 8 then n.val else n.val + 8) (if n.val < 8 then 0x48 + n.val else 0x74 + (n.val - 8)) 0xFFFF secs n.val)
      | .bed k => Claims.raises s t (8 * k.val + 4) ∧
          Claims.logs s t (Claims.entry s 0x33 0 (k.val / 8) k.val 0xFFFF secs (0x100 + k.val))) := by
  intro lapReg curReg secs ended late
  obtain ⟨h1, h2⟩ := lap_end m s
  obtain ⟨h3, h4⟩ := scrub_late m s
  cases m with
  | stack n => exact ⟨h1, h2, h3, h4⟩
  | bed k => exact ⟨h1, h2, h3, h4⟩

/-- Settles O48. -/
theorem stacksAreWatchedAndScrubbed : Obligations.StacksAreWatchedAndScrubbed := by
  refine ⟨stack_fails, scrub_read, fun m s => ?_, stack_temperature⟩
  cases m with
  | stack n => exact scrub_laps (.stack n) s
  | bed k => exact scrub_laps (.bed k) s

end Sys2Proof.Machine
end

section
/-! Tenant resets (R310 to R312, R325, R326), function-level resets and a change of NumVFs: what a reset of a tenant with no
lists leaves, and the resets of the tenants that stop existing. -/

namespace Sys2Proof.Machine

/-! ### A reset leaves the mailboxes of others -/

theorem mbox_revokeAll_reset (s : State) (o : Nat) (standby : Bool) : (s.revokeAll o standby true).mbox = s.mbox := by
  unfold State.revokeAll
  refine foldl_reading State.mbox _ _ s fun u n _ => ?_
  have hlease : (u.revokeLease n).mbox = u.mbox :=
    (only_State_revokeLease (Ps := [.leases]) (Ks := []) u n (Only.refl u) (by decide)).part .mbox (by decide)
  split
  · split
    · exact (only_State_removeShared (Ps := [.segs, .keys, .leases, .zeroing]) (Ks := []) u _ _ _ false (Only.refl u)
        (by decide)).part .mbox (by decide)
    · exact hlease
  · split
    · split
      · exact (only_State_dropJob (Ps := [.leases, .engines]) (Ks := []) u _ _ true (Only.refl u) (by decide)).part .mbox (by decide)
      · exact hlease
    · exact ((only_State_setLease (Ps := [.leases]) (Ks := []) (u.revokeLease n) n _ (Only.refl _) (by decide)).part .mbox
        (by decide)).trans hlease

theorem mbox_revokeTenant (s : State) (t : Nat) : (s.revokeTenant t).mbox = s.mbox := by
  unfold State.revokeTenant
  dsimp only
  have hlog := fun u : State => fun n : Nat => (only_State_log (Ps := [.flog0, .flog1]) (Ks := []) u 0x0081 0 8 0x70 noTenant t n
    (Only.refl u) (by decide)).part .mbox (by decide)
  refine (hlog _ _).trans ?_
  split
  · have hset := fun u : State => (only_State_setBit (Ps := []) (Ks := [.lseStat]) (u.setF .lseStat 0 12 t) .lseStat 30
      (only_State_setF u .lseStat 0 12 t (Only.refl u) (List.elem_iff.mp rfl)) (List.elem_iff.mp rfl)).part .mbox (by decide)
    exact (hset _).trans (mbox_revokeAll_reset s t s.standby)
  · exact mbox_revokeAll_reset s t s.standby

/-- Steps 1 and 2 of the reset of a tenant with no lists. -/
theorem beginReset_idle (s : State) (t : Nat) (h : s.listsOf t = []) :
    s.beginReset t = (s.setMb t { s.mb t with resetting := true }).revokeTenant t := by
  have hl : (s.setMb t { s.mb t with resetting := true }).listsOf t = [] := h
  unfold State.beginReset
  dsimp only
  rw [hl]
  rfl

theorem only_beginReset_idle (s : State) (t : Nat) (h : s.listsOf t = []) :
    Only [.flog0, .flog1, .mbox, .segs, .keys, .leases, .engines, .xfers, .zeroing, .progress, .watchdogs] [.lseStat] s
      (s.beginReset t) := by
  rw [beginReset_idle s t h]
  exact only_State_revokeTenant _ t (only_State_setMb s t _ (Only.refl s) (by decide)) (by decide) (by decide)

theorem mb_beginReset_idle (s : State) (t v : Nat) (h : s.listsOf t = []) :
    (s.beginReset t).mb v = if v = t then { s.mb t with resetting := true } else s.mb v := by
  rw [beginReset_idle s t h, State.mb_congr (mbox_revokeTenant _ t), State.mb_setMb]

/-! ### Steps 4 to 7 -/

theorem mbox_segmentRemoval_dead (t slot : Nat) (s : State) (h : (s.mb t).live = []) :
    (segmentRemoval t slot s).mbox = s.mbox := by
  cases hw : s.removalWaits t slot with
  | none => rw [segmentRemoval, hw]
  | some g =>
    have hlive : ((s.removalEnded t slot g).mb t).live = [] := h
    rw [segmentRemoval_eq t slot s g hw, hlive]
    rfl

/-- The last removals of a tenant whose slips are gone complete no slip. -/
theorem mbox_endRemovals (t : Nat) (es : List Nat) (s : State) (h : (s.mb t).live = []) :
    (es.foldl (fun s e => segmentRemoval t (e % 16) s) s).mbox = s.mbox :=
  foldl_keeps (fun u => u.mbox = s.mbox) _ es s rfl fun u e _ hu =>
    (mbox_segmentRemoval_dead t (e % 16) u (by rw [State.mb_congr hu]; exact h)).trans hu

theorem dropEntries_step_none (s : State) (t i : Nat) (u : State)
    (hu : u = match s.seg? t i with
      | none => s
      | some g => if g.kind = .attached then s.clearSeg t i else (s.clearSeg t i).queueZero g true) :
    u.seg? t i = none ∧ ∀ k, s.seg? t k = none → u.seg? t k = none := by
  have hclear : ∀ k, (s.clearSeg t i).seg? t k = if t * 16 + k = t * 16 + i then none else s.seg? t k :=
    fun k => State.seg?_clearSeg s t i t k
  have hkeep : ∀ k, s.seg? t k = none → (s.clearSeg t i).seg? t k = none := fun k hk => by
    rw [hclear]
    split
    · rfl
    · exact hk
  have hgone : (s.clearSeg t i).seg? t i = none := by rw [hclear, if_pos rfl]
  cases hg : s.seg? t i with
  | none =>
    rw [hg] at hu
    exact hu ▸ ⟨hg, fun _ hk => hk⟩
  | some g =>
    rw [hg] at hu
    dsimp only at hu
    split at hu
    · exact hu ▸ ⟨hgone, hkeep⟩
    · exact hu ▸ ⟨hgone, hkeep⟩

/-- Table 13-5, step 6: no entry of the tenant is left. -/
theorem seg?_dropEntries (s : State) (t i : Nat) (hi : i < 16) : (s.dropEntries t).seg? t i = none :=
  foldl_establishes (fun i (u : State) => u.seg? t i = none) _ (List.range 16) s
    (fun u j _ => (dropEntries_step_none u t j _ rfl).1)
    (fun u j k _ _ hj => (dropEntries_step_none u t k _ rfl).2 j hj) i (List.mem_range.2 hi)

/-- The state once the tenant's removals have ended and its entries are gone. -/
def State.emptiedTenant (s : State) (t : Nat) : State :=
  let s1 := s.setMb t { s.mb t with live := [] }
  (((s1.removing.filter fun e => e.1 / 16 = t).map (·.1)).foldl (fun s e => segmentRemoval t (e % 16) s) s1).dropEntries t

theorem mbox_emptiedTenant (s : State) (t : Nat) :
    (s.emptiedTenant t).mbox = (s.setMb t { s.mb t with live := [] }).mbox := by
  have hdead : ((s.setMb t { s.mb t with live := [] }).mb t).live = [] := by rw [State.mb_setMb, if_pos rfl]
  exact ((only_State_dropEntries (Ps := [.segs, .zeroing]) (Ks := []) _ t (Only.refl _) (by decide)).part .mbox (by decide)).trans
    (mbox_endRemovals t _ _ hdead)

/-- Steps 5 to 7: the cores' state, the keys, the counts, and the page. -/
def State.clearedTenant (s4 : State) (t : Nat) : State :=
  let s5 : State := { s4 with keys := s4.keys.filter fun (k : ShareKey) => k.owner ≠ t,
                              vFloor := s4.vFloor.filter fun (x : Nat × Nat) => x.1 / 8 ≠ t,
                              clamps := s4.clamps.filter fun (x : Nat × Nat) => x.1 / 8 ≠ t,
                              progress := setNum s4.progress t 0, watchdogs := setNum s4.watchdogs t 0 }
  (List.range 8).foldl (fun s w => s.govern w) ((s5.setReg (.detNondet t) 0).setMb t (s5.mb t).zeroed)

def State.clearedCores (s3 : State) (t : Nat) : State :=
  ((s3.cores.filter fun x => x.2.tenant = some t).map (·.1)).foldl (fun s k => (s.clearCore k).dropSelections k) s3

theorem endReset_eq (s : State) (t : Nat) : s.endReset t = ((s.emptiedTenant t).clearedCores t).clearedTenant t := rfl

theorem only_clearedCores (s : State) (t : Nat) : Only [.mem, .stores, .cores, .beds, .ic] [.qsctl, .qswin, .qselem, .qstot,
    .qsstat, .bedStatus, .bedDonecnt, .ctrSel] s (s.clearedCores t) := by
  refine Only.fold _ _ s (Only.refl s) fun u k hu => ?_
  exact only_State_dropSelections _ k (only_State_clearCore u k hu (by decide) (by decide)) (by decide)

theorem mb_clearedTenant (s : State) (t v : Nat) :
    (s.clearedTenant t).mb v = if v = t then (s.mb t).zeroed else s.mb v := by
  have hgov := fun u : State => (Only.fold (Ps := []) (Ks := [.vgov]) (fun s w => State.govern s w) (List.range 8) u (Only.refl u)
    fun x w hx => only_State_govern x w hx (by decide)).part .mbox (by decide)
  unfold State.clearedTenant
  dsimp only
  rw [State.mb_congr (hgov _), State.mb_setMb]
  rfl

theorem segs_clearedTenant (s : State) (t : Nat) : (s.clearedTenant t).segs = s.segs := by
  unfold State.clearedTenant
  dsimp only
  refine ((Only.fold (Ps := [.mbox]) (Ks := [.vgov, .detNondet]) (fun s w => State.govern s w) (List.range 8) _
    (only_State_setMb _ t _ (only_State_setReg _ (.detNondet t) 0 (List.elem_iff.mp rfl) (Only.refl _)) (by decide))
    fun x w hx => only_State_govern x w hx (by decide)).part .segs (by decide)).trans rfl

theorem mb_endReset (s : State) (t v : Nat) :
    (s.endReset t).mb v = if v = t then (s.mb t).zeroed else s.mb v := by
  rw [endReset_eq, mb_clearedTenant, State.mb_congr ((only_clearedCores _ t).part .mbox (by decide)),
    State.mb_congr (mbox_emptiedTenant s t)]
  simp only [State.mb_setMb, if_pos]
  split <;> rfl

theorem seg?_endReset (s : State) (t i : Nat) (hi : i < 16) : (s.endReset t).seg? t i = none := by
  rw [endReset_eq, State.seg_congr (segs_clearedTenant _ t), State.seg_congr ((only_clearedCores _ t).part .segs (by decide))]
  exact seg?_dropEntries _ t i hi

/-! ### A whole reset -/

/-- The state in which the reset of a tenant with no lists ends, its TENANT_RESETs still to be answered. -/
def State.resetDone (s : State) (j : ResetJob) : State :=
  let s2 := (s.beginReset j.tenant).endReset j.tenant
  let s3 := if j.vanish then (s2.setMb j.tenant {}).release (mboxLease j.tenant) else s2
  { s3 with resets := s3.resets.filter fun (x : ResetJob) => x.tenant ≠ j.tenant }

theorem settleReset_idle (s : State) (j : ResetJob) (hb : j.begun = false) (h : s.listsOf j.tenant = []) :
    s.settleReset j = (s.resetDone j).answerResets j := by
  have hl : (s.beginReset j.tenant).listsOf j.tenant = [] := by
    rw [State.listsOf, (only_beginReset_idle s j.tenant h).part .lists (by decide)]
    exact h
  unfold State.settleReset
  rw [hb]
  refine if_pos ?_
  show ((s.beginReset j.tenant).listsOf j.tenant).isEmpty = true
  rw [hl]
  rfl

/-- What a reset changes before its list of resets: nothing of the lists, the time and the pending change. -/
theorem only_resetEnd (s : State) (t : Nat) (h : s.listsOf t = []) :
    Only [.mem, .stores, .cores, .beds, .ic, .flog0, .flog1, .mbox, .segs, .removing, .keys, .leases, .engines, .xfers, .zeroing,
      .vFloor, .clamps, .progress, .watchdogs] [.qsctl, .qswin, .qselem, .qstot, .qsstat, .bedStatus, .bedDonecnt, .vgov,
      .detNondet, .lseStat, .ctrSel] s ((s.beginReset t).endReset t) :=
  only_State_endReset _ t ((only_beginReset_idle s t h).mono (by decide) (by decide)) (by decide) (by decide)

theorem only_vanish (s : State) (t : Nat) (v : Bool) :
    Only [.mbox, .leases] [] s (if v then (s.setMb t {}).release (mboxLease t) else s) := by
  cases v with
  | true => exact only_State_release _ _ (only_State_setMb s t {} (Only.refl s) (by decide)) (by decide)
  | false => exact (Only.refl s).mono (List.nil_subset _) (List.Subset.refl _)

theorem only_resetDone (s : State) (j : ResetJob) (h : s.listsOf j.tenant = []) :
    Only [.mem, .stores, .cores, .beds, .ic, .flog0, .flog1, .mbox, .resets, .segs, .removing, .keys, .leases, .engines, .xfers,
      .zeroing, .vFloor, .clamps, .progress, .watchdogs] [.qsctl, .qswin, .qselem, .qstot, .qsstat, .bedStatus, .bedDonecnt,
      .vgov, .detNondet, .lseStat, .ctrSel] s (s.resetDone j) := by
  have hend := only_resetEnd s j.tenant h
  have hv := hend.trans ((only_vanish _ j.tenant j.vanish).mono (by decide) (List.nil_subset _))
  exact Only.upd_resets (hv.mono (by decide) (List.Subset.refl _)) (by decide)

theorem resets_resetDone (s : State) (j : ResetJob) (h : s.listsOf j.tenant = []) :
    (s.resetDone j).resets = s.resets.filter fun x => x.tenant ≠ j.tenant := by
  have hend := (only_resetEnd s j.tenant h).part .resets (by decide)
  have hv := (only_vanish ((s.beginReset j.tenant).endReset j.tenant) j.tenant j.vanish).part .resets (by decide)
  exact congrArg (List.filter _) (hv.trans hend)

theorem mb_resetDone (s : State) (j : ResetJob) (v : Nat) (h : s.listsOf j.tenant = []) : (s.resetDone j).mb v =
    if v = j.tenant then (if j.vanish then {} else (s.mb j.tenant).zeroed) else s.mb v := by
  have hend : ((s.beginReset j.tenant).endReset j.tenant).mb v = if v = j.tenant then (s.mb j.tenant).zeroed else s.mb v := by
    rw [mb_endReset]
    split
    · rw [mb_beginReset_idle s _ _ h, if_pos rfl]
      rfl
    · next hv => rw [mb_beginReset_idle s _ _ h, if_neg hv]
  show (if j.vanish then (((s.beginReset j.tenant).endReset j.tenant).setMb j.tenant {}).release (mboxLease j.tenant)
    else (s.beginReset j.tenant).endReset j.tenant).mb v = _
  cases j.vanish with
  | false => exact hend
  | true =>
    have hr := fun u : State => (only_State_release (Ps := [.leases]) (Ks := []) u (mboxLease j.tenant) (Only.refl u) (by decide)).part
      .mbox (by decide)
    refine (congrFun (State.mb_congr (hr _)) v).trans ?_
    rw [State.mb_setMb, hend]
    split <;> rfl

theorem seg?_resetDone (s : State) (j : ResetJob) (i : Nat) (hi : i < 16) : (s.resetDone j).seg? j.tenant i = none := by
  have hv := (only_vanish ((s.beginReset j.tenant).endReset j.tenant) j.tenant j.vanish).part .segs (by decide)
  exact (congrFun (congrFun (State.seg_congr hv) j.tenant) i).trans (seg?_endReset _ j.tenant i hi)

/-! ### Function-level resets -/

theorem emptied_zeroed (m : Mailbox) :
    m.zeroed = { badDoorbell := m.badDoorbell, vec0 := m.zeroed.vec0, vec1 := m.zeroed.vec1 } := rfl

theorem settleVfs_none (s : State) (h : s.vfPending = none) : s.settleVfs = s := by
  rw [State.settleVfs, h]

/-- R326: a reset that nothing joins and that waits for no list ends at once. -/
theorem askReset_idle (s : State) (t : Nat) (tag : Option Nat) (ha : s.alive = true) (hr : s.resets = []) (hl : s.listsOf t = []) :
    s.askReset t tag false = ((({ s with resets := [{ tenant := t, tags := tag.toList }] } : State).resetDone
      { tenant := t, tags := tag.toList }).answerResets { tenant := t, tags := tag.toList }).settleVfs := by
  have hone : s.askReset t tag false =
      (State.settleReset { s with resets := [{ tenant := t, tags := tag.toList }] } { tenant := t, tags := tag.toList }).settleVfs := by
    unfold State.askReset
    rw [hr]
    refine (if_neg Bool.false_ne_true).trans ?_
    exact if_pos ha
  rw [hone, settleReset_idle _ _ rfl hl]

/-- R310: the tenant's page, lists, entries and reset after a reset that waits for no list and answers no slip. -/
theorem reset_idle {s t : State} {u : Nat} {tag : Option Nat}
    (ht : t = ({ s with resets := [{ tenant := u, tags := tag.toList }] } : State).resetDone { tenant := u, tags := tag.toList })
    (hl : s.listsOf u = []) : t.mb u = (s.mb u).zeroed ∧ (∀ v, v ≠ u → t.mb v = s.mb v) ∧ t.listsOf u = [] ∧
      (∀ i, i < 16 → t.seg? u i = none) ∧ (∀ j, j ∈ t.resets → j.tenant ≠ u) ∧ t.vfPending = s.vfPending ∧ t.tb = s.tb := by
  have honly := only_resetDone { s with resets := [{ tenant := u, tags := tag.toList }] } { tenant := u, tags := tag.toList } hl
  have hmb := fun v => mb_resetDone { s with resets := [{ tenant := u, tags := tag.toList }] } { tenant := u, tags := tag.toList } v hl
  have hres := resets_resetDone { s with resets := [{ tenant := u, tags := tag.toList }] } { tenant := u, tags := tag.toList } hl
  have hseg := seg?_resetDone { s with resets := [{ tenant := u, tags := tag.toList }] } { tenant := u, tags := tag.toList }
  rw [← ht] at honly hmb hres hseg
  refine ⟨(hmb u).trans (if_pos rfl), fun v hv => (hmb v).trans (if_neg hv), ?_, hseg, fun j hj => ?_,
    honly.part .vfPending (by decide), honly.part .tb (by decide)⟩
  · rw [State.listsOf, honly.part .lists (by decide)]
    exact hl
  · rw [hres] at hj
    exact of_decide_eq_true (List.mem_filter.1 hj).2

theorem exec_functionLevelReset (tenant : BitVec 10) (s : State) :
    exec (.functionLevelReset tenant) s = .next (functionLevelReset tenant.toNat s) := rfl

theorem functionLevelReset_eq (s : State) (t : Nat) (hf : s.fnExists t = true) : functionLevelReset t s =
    if t = 0 then (List.range 8).foldl (fun s w => s.govern w)
      ({ s with clamps := s.clamps.filter fun (x : Nat × Nat) => x.1 / 8 ≠ 0,
                vFloor := s.vFloor.filter fun (x : Nat × Nat) => x.1 / 8 ≠ 0 }.setMb 0 (s.mb 0).zeroed)
    else if s.bootStep < 7 then s.setMb t (s.mb t).zeroed else s.askReset t none false :=
  if_neg (by rw [hf]; decide)

/-- R310: the physical function's page and session alone. -/
theorem flr_physical (s : State) : ((functionLevelReset 0 s).mb 0 = (s.mb 0).zeroed) ∧
    (∀ v, v ≠ 0 → (functionLevelReset 0 s).mb v = s.mb v) ∧ (functionLevelReset 0 s).segs = s.segs ∧
    (functionLevelReset 0 s).lists = s.lists := by
  rw [functionLevelReset_eq s 0 rfl, if_pos rfl]
  have hgov := fun u : State => Only.fold (Ps := []) (Ks := [.vgov]) (fun s w => State.govern s w) (List.range 8) u (Only.refl u)
    fun x w hx => only_State_govern x w hx (by decide)
  have hmb := fun u : State => State.mb_congr ((hgov u).part .mbox (by decide))
  refine ⟨?_, fun v hv => ?_, ((hgov _).part .segs (by decide)).trans rfl, ((hgov _).part .lists (by decide)).trans rfl⟩
  · rw [hmb, State.mb_setMb, if_pos rfl]
  · rw [hmb, State.mb_setMb, if_neg hv]
    rfl

/-- The reset of a virtual function, before and after firmware runs. -/
theorem flr_virtual {s : State} {u : Nat} (hu : u ≠ 0) (hf : s.fnExists u = true) (hb : s.bootStep < 7) :
    functionLevelReset u s = s.setMb u (s.mb u).zeroed := by
  rw [functionLevelReset_eq s u hf, if_neg hu, if_pos hb]

theorem flr_reset {s : State} {u : Nat} (hu : u ≠ 0) (hf : s.fnExists u = true) (hb : 7 ≤ s.bootStep) (ha : s.alive = true)
    (hr : s.resets = []) (hv : s.vfPending = none) (hl : s.listsOf u = []) :
    (functionLevelReset u s).mb u = (s.mb u).zeroed ∧ (functionLevelReset u s).listsOf u = [] ∧
      (∀ i, i < 16 → (functionLevelReset u s).seg? u i = none) ∧ ∀ j, j ∈ (functionLevelReset u s).resets → j.tenant ≠ u := by
  obtain ⟨hmb, -, hlists, hseg, hres, hvf, -⟩ := reset_idle (tag := none) rfl hl
  have he : functionLevelReset u s =
      ({ s with resets := [{ tenant := u, tags := [] }] } : State).resetDone { tenant := u, tags := [] } := by
    rw [functionLevelReset_eq s u hf, if_neg hu, if_neg (Nat.not_lt.2 hb), askReset_idle s u none ha hr hl]
    exact settleVfs_none _ (hvf.trans hv)
  rw [he]
  exact ⟨hmb, hlists, hseg, hres⟩

/-! ### TENANT_RESET -/

/-- R310: the last completion of a reset in the physical function's ring. -/
theorem mb_complete_ne (s : State) (t op tag status : Nat) (body : List Byte) (v : Nat) (hv : v ≠ t) :
    (s.complete t op tag status body).mb v = s.mb v := by
  unfold State.complete
  dsimp only
  split
  · rfl
  · show (State.setMb s t _).mb v = _
    rw [State.mb_setMb, if_neg hv]

theorem find?_taking (m : Mailbox) (x : Slip) :
    ∃ l, (m.taking x).live.find? (fun l => l.opcode = x.opcode && l.tag = x.tag) = some l := by
  refine Option.isSome_iff_exists.1 (List.find?_isSome.2
    ⟨{ opcode := x.opcode, tag := x.tag, quiet := x.quiet }, List.mem_append_right _ (List.mem_singleton_self _), ?_⟩)
  simp

theorem alive_of_accepted {s : State} {x : Slip} {op : Nat} {fields : List (Nat × Nat)}
    (h : Claims.accepted s x op fields = true) : s.alive = true := by
  simp only [Claims.accepted, Claims.taken, Bool.and_eq_true] at h
  exact (s.canTakeSlip_room x.t h.1.1.1.1).1

theorem tenantResetAct_asks {s : State} {x : Slip} (h1 : 1 ≤ x.f 8 2) (h2 : x.f 8 2 < 1024)
    (hf : s.fnExists (x.f 8 2) = true) : tenantResetAct x (s.take x) = (s.take x).askReset (x.f 8 2) (some x.tag) false := by
  have hf' : (s.take x).fnExists (x.f 8 2) = true := hf
  unfold tenantResetAct
  dsimp only
  rw [hf']
  refine if_neg ?_
  simp
  omega

/-- What TENANT_RESET leaves: the reset's end with its completion. -/
theorem tenantReset_facts {s : State} {x : Slip} (hop : x.opcode = 0x0F) (hx : x.t = 0) (ha : s.alive = true) (h1 : 1 ≤ x.f 8 2)
    (h2 : x.f 8 2 < 1024) (hf : s.fnExists (x.f 8 2) = true) (hr : s.resets = []) (hv : s.vfPending = none)
    (hl : s.listsOf (x.f 8 2) = []) (t : State) (ht : t = tenantResetAct x (s.take x)) :
    t.mb (x.f 8 2) = (s.mb (x.f 8 2)).zeroed ∧ t.listsOf (x.f 8 2) = [] ∧ (∀ i, i < 16 → t.seg? (x.f 8 2) i = none) ∧
      (∀ j, j ∈ t.resets → j.tenant ≠ x.f 8 2) ∧ (t.mb 0).cqTail = ((s.mb 0).cqTail + 1) % 2 ^ 32 ∧
      rdBytes (t.mb 0).cq ((s.mb 0).cqTail % 32 * 64) 64 =
        Claims.completion (s.mb 0) 0x0F x.tag stOk (leBytes 8 s.tb.count) := by
  obtain ⟨r, hrd⟩ : ∃ r, r = ({ s.take x with resets := [{ tenant := x.f 8 2, tags := (some x.tag).toList }] } : State).resetDone
    { tenant := x.f 8 2, tags := (some x.tag).toList } := ⟨_, rfl⟩
  obtain ⟨hmb, hothers, hlists, hseg, hres, hvf, htb⟩ := reset_idle hrd (s := s.take x) hl
  have hne : x.f 8 2 ≠ x.t := by rw [hx]; omega
  have hc := only_State_complete (Ps := [.mbox, .progress, .watchdogs]) (Ks := []) r 0 0x0F x.tag stOk (leBytes 8 r.tb.count)
    (Only.refl r) (by decide)
  have he : t = r.complete 0 0x0F x.tag stOk (leBytes 8 r.tb.count) := by
    rw [ht, tenantResetAct_asks h1 h2 hf, askReset_idle (s.take x) (x.f 8 2) (some x.tag) ha hr hl, ← hrd]
    exact settleVfs_none _ ((hc.part .vfPending (by decide)).trans (hvf.trans hv))
  rw [← he] at hc
  have hr0 : r.mb 0 = (s.mb 0).taking x := by
    rw [hothers 0 (by omega), ← hx, s.mb_take_same]
  obtain ⟨l, hfind⟩ := find?_taking (s.mb 0) x
  rw [hop, ← hr0] at hfind
  obtain ⟨-, htail, hcq⟩ := mb_complete r 0 0x0F x.tag stOk (leBytes 8 r.tb.count) l hfind
  rw [← he, hr0] at htail hcq
  refine ⟨?_, ?_, fun i hi => ?_, ?_, htail, ?_⟩
  · rw [he, mb_complete_ne _ _ _ _ _ _ _ (by omega), hmb, s.mb_take_ne x _ hne]
  · rw [State.listsOf, hc.part .lists (by decide)]
    exact hlists
  · rw [State.seg_congr (hc.part .segs (by decide))]
    exact hseg i hi
  · rw [hc.part .resets (by decide)]
    exact hres
  · rw [hcq, htb]
    exact rdBytes_wrBytes_completion _ _ _ _ _ _ _

/-! ### NUMVFS_CHANGE -/

theorem look_filter_outside {α : Type} (d : Nat → α) (p : Nat → Bool) (m : List (Nat × α)) (k : Nat) (h : p k = false) :
    look d (m.filter fun e => p e.1) k = d k := by
  induction m with
  | nil => rfl
  | cons e m ih =>
    obtain ⟨k', v⟩ := e
    rw [List.filter_cons]
    split
    · next hp =>
      refine (if_neg fun hk => ?_).trans ih
      rw [hk] at h
      exact absurd hp (by rw [h]; decide)
    · exact ih

/-- R312, R323: the change, and a processor for every new function. -/
def State.vfChanged (s : State) (n : Nat) (e : Bool) : State :=
  let s1 := { s with numVfs := n, vfEnable := e, vfPending := none }
  if s1.alive && e then
    ((List.range n).filter fun i => (if s.vfEnable then s.numVfs else 0) ≤ i).foldl
      (fun s i => s.grantMailbox (i + 1) (if s.standby then 0x804 else 0x800)) s1
  else s1

/-- R312: the change takes effect once no reset of a vanishing tenant is left. -/
theorem settleVfs_change (s : State) (n : Nat) (e : Bool) (hr : s.resets = []) (hv : s.vfPending = some (n, e)) :
    s.settleVfs = s.vfChanged n e := by
  unfold State.settleVfs
  rw [hv]
  exact if_neg (by rw [hr]; exact Bool.false_ne_true)

theorem only_vfChanged (s : State) (n : Nat) (e : Bool) :
    Only [.freeCtr, .leases] [] { s with numVfs := n, vfEnable := e, vfPending := none } (s.vfChanged n e) := by
  unfold State.vfChanged
  dsimp only
  split
  · exact Only.fold _ _ _ ((Only.refl _).mono (List.nil_subset _) (List.Subset.refl _)) fun x i hx =>
      only_State_grantMailbox x (i + 1) _ hx (by decide)
  · exact (Only.refl _).mono (List.nil_subset _) (List.Subset.refl _)

theorem vfChanged_facts (s : State) (n : Nat) (e : Bool) : (s.vfChanged n e).numVfs = n ∧ (s.vfChanged n e).vfEnable = e ∧
    (s.vfChanged n e).vfPending = none ∧ (s.vfChanged n e).resets = s.resets ∧ (s.vfChanged n e).mbox = s.mbox :=
  ⟨(only_vfChanged s n e).part .numVfs (by decide), (only_vfChanged s n e).part .vfEnable (by decide),
    (only_vfChanged s n e).part .vfPending (by decide), (only_vfChanged s n e).part .resets (by decide),
    (only_vfChanged s n e).part .mbox (by decide)⟩

/-- The tenants that stop existing, each with its reset. -/
def vanishing (was now : Nat) : List ResetJob :=
  (((List.range was).map (· + 1)).filter fun t => decide (now < t)).map fun t => { tenant := t, vanish := true }

theorem mem_vanishing {was now : Nat} {j : ResetJob} :
    j ∈ vanishing was now ↔ ∃ t, now < t ∧ t ≤ was ∧ 1 ≤ t ∧ j = { tenant := t, vanish := true } := by
  simp only [vanishing, List.mem_map, List.mem_filter, List.mem_range, decide_eq_true_eq]
  constructor
  · rintro ⟨t, ⟨⟨i, hi, rfl⟩, ht⟩, rfl⟩
    exact ⟨i + 1, ht, by omega, by omega, rfl⟩
  · rintro ⟨t, h1, h2, h3, rfl⟩
    exact ⟨t, ⟨⟨t - 1, by omega, by omega⟩, h1⟩, rfl⟩

/-- R312: the resets of vanishing tenants without lists, one after the other. -/
theorem settle_vanishing (s : State) (js : List ResetJob) (hj : ∀ j, j ∈ js → j.begun = false ∧ j.tags = [] ∧ j.vanish = true)
    (hl : ∀ j, j ∈ js → s.listsOf j.tenant = []) (hr : s.resets = js) (t : State)
    (ht : t = js.foldl (fun s j => s.settleReset j) s) :
    t.resets = [] ∧ t.vfPending = s.vfPending ∧ ∀ j, j ∈ js → t.mb j.tenant = {} := by
  have hstep : ∀ (u : State) (j : ResetJob), j ∈ js → u.lists = s.lists → u.settleReset j = u.resetDone j ∧ u.listsOf j.tenant = [] :=
    fun u j hm hu => by
      obtain ⟨hb, htags, -⟩ := hj j hm
      have hlu : u.listsOf j.tenant = [] := by
        rw [State.listsOf, hu]
        exact hl j hm
      refine ⟨?_, hlu⟩
      rw [settleReset_idle u j hb hlu, State.answerResets, htags]
      rfl
  have hkeep : ∀ l : List ResetJob, (∀ j, j ∈ l → j ∈ js) → ∀ u : State, u.lists = s.lists →
      (l.foldl (fun s j => s.settleReset j) u).vfPending = u.vfPending ∧
      (∀ j, j ∈ (l.foldl (fun s j => s.settleReset j) u).resets → j ∈ u.resets ∧ ∀ k, k ∈ l → j.tenant ≠ k.tenant) ∧
      (∀ v, (l.foldl (fun s j => s.settleReset j) u).mb v = {} ∨
        (l.foldl (fun s j => s.settleReset j) u).mb v = u.mb v ∧ ∀ k, k ∈ l → v ≠ k.tenant) := by
    intro l
    induction l with
    | nil => exact fun _ u _ => ⟨rfl, fun j hm => ⟨hm, fun k hk => absurd hk List.not_mem_nil⟩,
        fun v => Or.inr ⟨rfl, fun k hk => absurd hk List.not_mem_nil⟩⟩
    | cons k l ih =>
      intro hsub u hu
      obtain ⟨he, hlk⟩ := hstep u k (hsub k (List.mem_cons_self ..)) hu
      have honly := only_resetDone u k hlk
      have hvan : k.vanish = true := (hj k (hsub k (List.mem_cons_self ..))).2.2
      rw [List.foldl_cons, he]
      obtain ⟨hvf, hres, hmb⟩ := ih (fun j hm => hsub j (List.mem_cons_of_mem _ hm)) (u.resetDone k)
        ((honly.part .lists (by decide)).trans hu)
      refine ⟨hvf.trans (honly.part .vfPending (by decide)), fun j hm => ?_, fun v => ?_⟩
      · obtain ⟨hin, hother⟩ := hres j hm
        rw [resets_resetDone u k hlk] at hin
        obtain ⟨hin, hne⟩ := List.mem_filter.1 hin
        exact ⟨hin, fun i hi => (List.mem_cons.1 hi).elim (fun h => h ▸ of_decide_eq_true hne) (hother i)⟩
      · rcases hmb v with h | ⟨h, hv⟩
        · exact Or.inl h
        · rw [mb_resetDone u k v hlk, hvan] at h
          by_cases hk : v = k.tenant
          · exact Or.inl (h.trans (if_pos hk))
          · exact Or.inr ⟨h.trans (if_neg hk), fun i hi => (List.mem_cons.1 hi).elim (fun e => e ▸ hk) (hv i)⟩
  obtain ⟨hvf, hres, hmb⟩ := hkeep js (fun _ h => h) s rfl
  rw [← ht] at hvf hres hmb
  refine ⟨List.eq_nil_iff_forall_not_mem.2 fun j hm => ?_, hvf, fun j hm => (hmb j.tenant).elim id fun h => absurd rfl (h.2 j hm)⟩
  obtain ⟨hin, hne⟩ := hres j hm
  exact hne j (hr ▸ hin) rfl

theorem numvfsChange_refused (n : Nat) (e : Bool) (s : State) (h : 1023 < n ∨ s.bar0Up = false) : numvfsChange n e s = s := by
  refine if_pos ?_
  rcases h with h | h
  · rw [decide_eq_true h]; rfl
  · rw [h]; exact Bool.or_true _

/-- R312: before firmware runs there is nothing of a tenant but its page. -/
theorem numvfsChange_early (n : Nat) (e : Bool) (s : State) (hn : n ≤ 1023) (hb : s.bar0Up = true) (h7 : s.bootStep < 7) :
    numvfsChange n e s = ({ s with vfPending := some (n, e), mbox := s.mbox.filter fun m => decide (m.1 ≤ if e then n else 0) } : State).settleVfs := by
  refine (if_neg ?_).trans (if_pos h7)
  rw [hb, decide_eq_false (by omega)]
  decide

theorem numvfsChange_late (n : Nat) (e : Bool) (s : State) (hn : n ≤ 1023) (hb : s.bar0Up = true) (h7 : ¬ s.bootStep < 7)
    (hr : s.resets = []) (ha : s.alive = true) :
    numvfsChange n e s = ((vanishing (if s.vfEnable then s.numVfs else 0) (if e then n else 0)).foldl (fun s j => State.settleReset s j)
      { s with vfPending := some (n, e), resets := vanishing (if s.vfEnable then s.numVfs else 0) (if e then n else 0) }).settleVfs := by
  have hall : ∀ l : List Nat, l.filter (fun _ => !false) = l := fun l => List.filter_eq_self.2 fun _ _ => rfl
  refine (if_neg ?_).trans ((if_neg h7).trans ?_)
  · rw [hb, decide_eq_false (by omega)]
    decide
  · dsimp only
    rw [hr]
    simp only [List.map_nil, List.nil_append, List.any_nil, hall]
    exact if_pos ha

theorem exec_numvfsChange (numVfs : BitVec 16) (e : Bool) (s : State) :
    exec (.numvfsChange numVfs e) s = .next (numvfsChange numVfs.toNat e s) := rfl

/-- R312: the change of NumVFs and the pages of the tenants that are gone. -/
theorem numvfsChange_facts (s : State) (n : Nat) (e : Bool) (was now : Nat) (hwas : was = if s.vfEnable then s.numVfs else 0)
    (hnow : now = if e then n else 0) (hn : n ≤ 1023) (hb : s.bar0Up = true) (hr : s.resets = [])
    (hok : s.bootStep < 7 ∨ (s.alive = true ∧ ∀ l, l ∈ s.lists → l.tenant ≤ now ∨ was < l.tenant)) (t : State)
    (ht : t = numvfsChange n e s) : t.numVfs = n ∧ t.vfEnable = e ∧ t.vfPending = none ∧ t.resets = [] ∧
      ∀ u, now < u → u ≤ was → t.mb u = {} := by
  by_cases h7 : s.bootStep < 7
  · replace ht := ht.trans ((numvfsChange_early n e s hn hb h7).trans (settleVfs_change _ n e (by exact hr) rfl))
    obtain ⟨hnum, hen, hpend, hres, hmb⟩ := vfChanged_facts
      { s with vfPending := some (n, e), mbox := s.mbox.filter fun m => decide (m.1 ≤ if e then n else 0) } n e
    rw [← ht] at hnum hen hpend hres hmb
    refine ⟨hnum, hen, hpend, hres.trans hr, fun u hu _ => ?_⟩
    rw [State.mb_congr hmb]
    exact look_filter_outside (fun _ => {}) (fun k => decide (k ≤ if e then n else 0)) s.mbox u (decide_eq_false (by omega))
  · obtain ⟨ha, hlists⟩ := hok.resolve_left h7
    have hvan : ∀ j, j ∈ vanishing was now → j.begun = false ∧ j.tags = [] ∧ j.vanish = true := fun j hj => by
      obtain ⟨u, -, -, -, rfl⟩ := mem_vanishing.1 hj
      exact ⟨rfl, rfl, rfl⟩
    have hidle : ∀ j, j ∈ vanishing was now → s.listsOf j.tenant = [] := fun j hj => by
      obtain ⟨u, h1, h2, -, rfl⟩ := mem_vanishing.1 hj
      refine List.filter_eq_nil_iff.2 fun l hl => ?_
      have := hlists l hl
      simp only [decide_eq_true_eq]
      omega
    rw [numvfsChange_late n e s hn hb h7 hr ha, ← hwas, ← hnow] at ht
    obtain ⟨hres, hpend, hmb⟩ := settle_vanishing { s with vfPending := some (n, e), resets := vanishing was now } _ hvan hidle rfl _ rfl
    rw [settleVfs_change _ n e hres hpend] at ht
    obtain ⟨hnum, hen, hpend', hres', hmb'⟩ := vfChanged_facts ((vanishing was now).foldl (fun s j => State.settleReset s j)
      { s with vfPending := some (n, e), resets := vanishing was now }) n e
    rw [← ht] at hnum hen hpend' hres' hmb'
    refine ⟨hnum, hen, hpend', hres'.trans hres, fun u hu hu' => ?_⟩
    rw [State.mb_congr hmb']
    exact hmb { tenant := u, vanish := true } (mem_vanishing.2 ⟨u, hu, hu', by omega, rfl⟩)

end Sys2Proof.Machine
end

section
/-! The tenant watchdog (R271, R423, R424): the wait-for graph does not depend on the counts and the interrupts that the
watchdog changes first, so the cycles it breaks are those of the state it began with. -/

namespace Sys2Proof.Machine

/-! ### States that differ in what the watchdog changes first -/

/-- The state with other counts of progress and other interrupts. -/
def State.watched (s : State) (p w : SMap Nat) (c : IC) : State := { s with progress := p, watchdogs := w, ic := c }

/-- Two states that differ in their counts of progress and their interrupts alone. -/
def Twin (s t : State) : Prop := ∃ p w c, t = s.watched p w c

theorem Twin.ite {s t x y : State} {a b : Prop} [Decidable a] [Decidable b] (hab : a ↔ b) (h : Twin s t) (h' : Twin x y) :
    Twin (if a then s else x) (if b then t else y) := by
  by_cases ha : a
  · rw [if_pos ha, if_pos (hab.1 ha)]
    exact h
  · rw [if_neg ha, if_neg fun hb => ha (hab.2 hb)]
    exact h'

theorem Twin.fold {α : Type} {f : State → α → State} (hf : ∀ s t a, Twin s t → Twin (f s a) (f t a)) (l : List α) {s t : State}
    (h : Twin s t) : Twin (l.foldl f s) (l.foldl f t) := by
  induction l generalizing s t with
  | nil => exact h
  | cons a l ih => exact ih (hf s t a h)

section
variable {s t : State} (h : Twin s t)
include h

theorem Twin.setReg (r : Reg) (v : DWord) : Twin (s.setReg r v) (t.setReg r v) := by
  obtain ⟨p, w, c, rfl⟩ := h
  exact ⟨p, w, c, rfl⟩

theorem Twin.setF (r : Reg) (lo w x : Nat) : Twin (s.setF r lo w x) (t.setF r lo w x) := by
  obtain ⟨p, w', c, rfl⟩ := h
  exact ⟨p, w', c, rfl⟩

theorem Twin.setBit (r : Reg) (i : Nat) : Twin (s.setBit r i) (t.setBit r i) := by
  obtain ⟨p, w, c, rfl⟩ := h
  exact ⟨p, w, c, rfl⟩

theorem Twin.countF (r : Reg) (lo w n : Nat) : Twin (s.countF r lo w n) (t.countF r lo w n) := by
  obtain ⟨p, w', c, rfl⟩ := h
  exact ⟨p, w', c, rfl⟩

theorem Twin.log (code sev die node tenant d0 d1 : Nat) :
    Twin (s.log code sev die node tenant d0 d1) (t.log code sev die node tenant d0 d1) := by
  obtain ⟨p, w, c, rfl⟩ := h
  exact ⟨p, w, c, rfl⟩

theorem Twin.setStack (n : Nat) (x : Stack) : Twin (s.setStack n x) (t.setStack n x) := by
  obtain ⟨p, w, c, rfl⟩ := h
  exact ⟨p, w, c, rfl⟩

theorem Twin.notify (u kind tag subject : Nat) (detail : List Byte) :
    Twin (s.notify u kind tag subject detail) (t.notify u kind tag subject detail) := by
  obtain ⟨p, w, c, rfl⟩ := h
  refine Twin.ite Iff.rfl ⟨p, w, c, rfl⟩ ⟨p, w, c, rfl⟩

theorem Twin.ctr (u code n : Nat) : Twin (s.ctr u code n) (t.ctr u code n) := by
  refine Twin.fold (fun x y i hxy => ?_) _ h
  obtain ⟨p, w, c, rfl⟩ := hxy
  exact Twin.ite Iff.rfl ⟨p, w, c, rfl⟩ ⟨p, w, c, rfl⟩

end

theorem raise_ic (s : State) (n : Nat) : ∃ c, s.raise n = { s with ic := c } := by
  unfold State.raise State.icEvent
  dsimp only
  repeat' split
  all_goals exact ⟨_, rfl⟩

theorem Twin.raise {s t : State} (h : Twin s t) (n : Nat) : Twin (s.raise n) (t.raise n) := by
  obtain ⟨p, w, c, rfl⟩ := h
  obtain ⟨c1, h1⟩ := raise_ic s n
  obtain ⟨c2, h2⟩ := raise_ic (s.watched p w c) n
  rw [h1, h2]
  exact ⟨p, w, c2, rfl⟩

/-- R201: the tenants that own a segment, and the notice to one of them. -/
def State.ownerTenants (s : State) : List Nat :=
  (List.range 1024).filter fun t => s.segs.any fun e => e.1 / 16 = t && e.2.kind ≠ .attached

def State.channelNotice (s : State) (n c i t : Nat) : State :=
  match (s.ownedSegs.filter fun e => e.1 = t).filterMap fun e => s.firstOn e.2 i with
  | [] => s
  | a :: as => s.notify t noticeDataLoss 0 (n * 16 + c) (leBytes 8 (as.foldl min a))

theorem reportChannel_eq (s : State) (n c : Nat) :
    s.reportChannel n c = s.ownerTenants.foldl (fun x t => x.channelNotice n c (s.chanIndex n c) t) s := rfl

theorem Twin.channelNotice {s t : State} (h : Twin s t) (n c i u : Nat) :
    Twin (s.channelNotice n c i u) (t.channelNotice n c i u) := by
  have hl : ((t.ownedSegs.filter fun e => e.1 = u).filterMap fun e => t.firstOn e.2 i) =
      (s.ownedSegs.filter fun e => e.1 = u).filterMap fun e => s.firstOn e.2 i := by
    obtain ⟨_, _, _, rfl⟩ := h
    rfl
  unfold State.channelNotice
  rw [hl]
  cases (s.ownedSegs.filter fun e => e.1 = u).filterMap fun e => s.firstOn e.2 i with
  | nil => exact h
  | cons a as => exact h.notify u _ _ _ _

theorem Twin.reportChannel {s t : State} (h : Twin s t) (n c : Nat) : Twin (s.reportChannel n c) (t.reportChannel n c) := by
  have hsegs : t.segs = s.segs := by
    obtain ⟨_, _, _, rfl⟩ := h
    rfl
  have hi : t.chanIndex n c = s.chanIndex n c := by
    obtain ⟨_, _, _, rfl⟩ := h
    rfl
  rw [reportChannel_eq, reportChannel_eq, hi, State.ownerTenants, State.ownerTenants, hsegs]
  exact Twin.fold (fun x y u hxy => hxy.channelNotice n c _ u) _ h

theorem Twin.channelFail {s t : State} (h : Twin s t) (n c trigger : Nat) :
    Twin (s.channelFail n c trigger) (t.channelFail n c trigger) := by
  have hreg : t.regF (.memChstat n c) 30 2 = s.regF (.memChstat n c) 30 2 := by
    obtain ⟨_, _, _, rfl⟩ := h
    rfl
  have hpois : ∀ {x y : State}, Twin x y → Twin (x.channelPoisoned n c) (y.channelPoisoned n c) := fun hxy => by
    obtain ⟨p, w, k, rfl⟩ := hxy
    exact ⟨p, w, k, rfl⟩
  by_cases h0 : s.regF (.memChstat n c) 30 2 = 0
  · rw [channelFail_eq trigger h0, channelFail_eq trigger (hreg.trans h0)]
    exact (hpois ((((h.setF _ _ _ _).setBit _ _).raise _).log _ _ _ _ _ _ _)).reportChannel n c
  · rw [State.channelFail, State.channelFail, if_pos h0, if_pos (by rw [hreg]; exact h0)]
    exact h

/-! ### Reads of twins -/

theorem Twin.countBad {s t : State} (h : Twin s t) (n c sector : Nat) (address : Bool) :
    Twin (s.countBad n c sector address) (t.countBad n c sector address) := by
  obtain ⟨p, w, k, rfl⟩ := h
  have hs := Twin.setStack (s := s) ⟨p, w, k, rfl⟩ n
  unfold State.countBad
  refine Twin.ite Iff.rfl ((hs _).channelFail n c 1) (Twin.ite Iff.rfl ((hs _).channelFail n c 2) (hs _))

theorem Twin.countToward {s t : State} (h : Twin s t) (l : Loc) (o : SectorOutcome) :
    Twin (s.countToward l o) (t.countToward l o) := by
  cases l with
  | ext n c i =>
    cases o with
    | address => exact h.countBad n c i true
    | uncorrectable => exact h.countBad n c i false
    | _ => exact h
  | _ => exact h

theorem Twin.countOutcome {s t : State} (h : Twin s t) (l : Loc) (o : SectorOutcome) :
    Twin (s.countOutcome l o) (t.countOutcome l o) := by
  cases l with
  | ext n c i =>
    cases o with
    | clean => exact h
    | corrected => exact (h.countF _ _ _ _).ctr _ _ _
    | poison => exact (h.countF _ _ _ _).setBit _ _
    | address => exact ((h.countF _ _ _ _).setF _ _ _ _).setBit _ _
    | uncorrectable => exact ((h.countF _ _ _ _).setF _ _ _ _).setBit _ _
  | bed k b i =>
    cases o with
    | clean => exact h
    | corrected => exact h.countF _ _ _ _
    | poison => exact h.countF _ _ _ _
    | address => exact (h.countF _ _ _ _).setReg _ _
    | uncorrectable => exact (h.countF _ _ _ _).setReg _ _
  | _ => exact h

theorem readSector_bad {s : State} {a : Nat} (tenant : Nat) (h : (s.decodeAt (s.locate a) a).outcome.isBad = true) :
    s.readSector a tenant = ((((s.countOutcome (s.locate a) (s.decodeAt (s.locate a) a).outcome).log 0x0030 3
      ((nodeDie (locNode (s.locate a))).getD 8) (locNode (s.locate a)) tenant (s.decodeAt (s.locate a) a).outcome.code
      (locCode (s.locate a))).countToward (s.locate a) (s.decodeAt (s.locate a) a).outcome), s.decodeAt (s.locate a) a) := if_pos h

theorem readSector_good {s : State} {a : Nat} (tenant : Nat) (h : (s.decodeAt (s.locate a) a).outcome.isBad = false) :
    s.readSector a tenant = (s.countOutcome (s.locate a) (s.decodeAt (s.locate a) a).outcome, s.decodeAt (s.locate a) a) :=
  if_neg (by rw [h]; exact Bool.false_ne_true)

theorem Twin.readSector {s t : State} (h : Twin s t) (a tenant : Nat) :
    Twin (s.readSector a tenant).1 (t.readSector a tenant).1 ∧ (t.readSector a tenant).2 = (s.readSector a tenant).2 := by
  have hl : t.locate a = s.locate a := by
    obtain ⟨_, _, _, rfl⟩ := h
    rfl
  have hd : ∀ l, t.decodeAt l a = s.decodeAt l a := fun l => by
    obtain ⟨_, _, _, rfl⟩ := h
    rfl
  have ho := h.countOutcome (s.locate a) (s.decodeAt (s.locate a) a).outcome
  cases hb : (s.decodeAt (s.locate a) a).outcome.isBad with
  | true =>
    rw [readSector_bad tenant hb, readSector_bad tenant (by rw [hl, hd]; exact hb), hl, hd]
    exact ⟨(ho.log _ _ _ _ _ _ _).countToward _ _, rfl⟩
  | false =>
    rw [readSector_good tenant hb, readSector_good tenant (by rw [hl, hd]; exact hb), hl, hd]
    exact ⟨ho, rfl⟩

theorem Twin.readRaw {s t : State} (h : Twin s t) (a n tenant : Nat) :
    (t.readRaw a n tenant).acc = (s.readRaw a n tenant).acc ∧ (t.readRaw a n tenant).data = (s.readRaw a n tenant).data := by
  have hfold : ∀ (l : List Nat) (x y : State × Bool × List Byte), Twin x.1 y.1 → y.2 = x.2 →
      (l.foldl (fun (x : State × Bool × List Byte) q =>
        let y := x.1.readSector q tenant
        (y.1, x.2.1 || y.2.outcome.isBad, x.2.2 ++ (if y.2.outcome.isBad then List.replicate 64 0 else y.2.data))) y).2 =
      (l.foldl (fun (x : State × Bool × List Byte) q =>
        let y := x.1.readSector q tenant
        (y.1, x.2.1 || y.2.outcome.isBad, x.2.2 ++ (if y.2.outcome.isBad then List.replicate 64 0 else y.2.data))) x).2 := by
    intro l
    induction l with
    | nil => exact fun _ _ _ h2 => h2
    | cons q l ih =>
      intro x y h1 h2
      obtain ⟨hs, hd⟩ := h1.readSector q tenant
      refine ih _ _ hs ?_
      dsimp only
      rw [hd, h2]
  have hr := hfold (sectorsOf a n) (s, false, []) (t, false, []) h rfl
  unfold State.readRaw
  dsimp only
  rw [hr]
  exact ⟨rfl, rfl⟩

theorem Twin.readMem {s t : State} (h : Twin s t) (a n tenant node : Nat) :
    (t.readMem a n tenant node).acc = (s.readMem a n tenant node).acc ∧
      (t.readMem a n tenant node).data = (s.readMem a n tenant node).data := by
  have hacc : t.rangeAcc a n = s.rangeAcc a n := by
    obtain ⟨_, _, _, rfl⟩ := h
    rfl
  unfold State.readMem
  rw [hacc]
  cases s.rangeAcc a n with
  | ok => exact h.readRaw a n tenant
  | _ => exact ⟨rfl, rfl⟩

theorem Twin.peek {s t : State} (h : Twin s t) (u ref n : Nat) : t.peek u ref n = s.peek u ref n := by
  have hres : t.resolve u ref (plain n) rRead = s.resolve u ref (plain n) rRead := by
    obtain ⟨_, _, _, rfl⟩ := h
    rfl
  unfold State.peek
  rw [hres]
  cases s.resolve u ref (plain n) rRead with
  | none => rfl
  | some x =>
    cases x with
    | dev a g =>
      obtain ⟨ha, hd⟩ := h.readMem a n u 0x70
      dsimp only
      rw [ha, hd]
    | _ => rfl

theorem Twin.headerOf {s t : State} (h : Twin s t) (l : WorkList) : t.headerOf l = s.headerOf l := by
  have hpeek := h.peek
  unfold State.headerOf State.readHeader
  dsimp only
  rw [hpeek, hpeek]
  obtain ⟨_, _, _, rfl⟩ := h
  rfl

/-! ### The graph of twins -/

theorem Twin.admissionNode {s t : State} (h : Twin s t) (l : WorkList) : t.admissionNode l = s.admissionNode l := by
  unfold State.admissionNode
  rw [h.headerOf]
  obtain ⟨_, _, _, rfl⟩ := h
  rfl

theorem Twin.signals {s t : State} (h : Twin s t) (l : WorkList) : t.signals l = s.signals l := by
  unfold State.signals
  rw [h.headerOf]
  obtain ⟨_, _, _, rfl⟩ := h
  rfl

theorem Twin.addList {s t : State} (h : Twin s t) (g : WaitGraph) (l : WorkList) : g.addList t l = g.addList s l := by
  unfold WaitGraph.addList
  rw [h.admissionNode]
  obtain ⟨_, _, _, rfl⟩ := h
  rfl

theorem Twin.waitGraph {s t : State} (h : Twin s t) (u : Option Nat) : t.waitGraph u = s.waitGraph u := by
  have hadd : (fun (g : WaitGraph) l => g.addList t l) = fun g l => g.addList s l := by
    funext g l
    exact h.addList g l
  have hsig : t.signals = s.signals := funext h.signals
  have hlists : t.lists = s.lists := by
    obtain ⟨_, _, _, rfl⟩ := h
    rfl
  unfold State.waitGraph WaitGraph.close
  dsimp only
  rw [hadd, hsig, hlists]

/-! ### Operations that end together -/

/-- An operation that has not ended, or has ended with a status. -/
def Doomed (st : Nat) (s : State) (id off : Nat) : Prop :=
  ∃ o, s.op? id off = some o ∧ (o.stage ≠ .finished ∨ (o.stage = .finished ∧ o.status = st))

theorem list?_finishOp_ne (s : State) {j id : Nat} (at_ status detail : Nat) (h : id ≠ j) :
    (s.finishOp j at_ status detail).list? id = s.list? id := by
  cases hl : s.list? j with
  | none => rw [State.finishOp, hl]
  | some l =>
    cases ho : l.op? at_ with
    | none => rw [State.finishOp, hl]; dsimp only; rw [ho]
    | some o =>
      by_cases hs : o.stage = .finished
      · rw [State.finishOp, hl]; dsimp only; rw [ho]; dsimp only; rw [if_pos hs]
      · rw [State.finishOp_of_op status detail hl ho hs]
        exact State.list?_setList_ne _ _ (by rw [WorkList.id_ended, State.list?_id hl]; exact h)

theorem finishOp_finished {s : State} {id off : Nat} {o : Op} (status detail : Nat) (h : s.op? id off = some o)
    (hs : o.stage = .finished) : s.finishOp id off status detail = s := by
  cases hl : s.list? id with
  | none => rw [State.op?, hl] at h; cases h
  | some l =>
    rw [State.op?_of_list hl] at h
    rw [State.finishOp, hl]; dsimp only; rw [h]; dsimp only; rw [if_pos hs]

theorem op?_finishOp_other (s : State) {j id : Nat} {at_ off : Nat} (status detail : Nat) (h : ¬ (id = j ∧ off = at_)) :
    (s.finishOp j at_ status detail).op? id off = s.op? id off := by
  by_cases hoff : off = at_
  · rw [State.op?, State.op?, list?_finishOp_ne s at_ status detail fun hid => h ⟨hid, hoff⟩]
  · exact State.op?_finishOp_ne j at_ status detail hoff

theorem opAt_finishOp {s : State} {id off : Nat} {st : Nat} (h : Doomed st s id off) (detail : Nat) :
    Claims.opAt (s.finishOp id off st detail) id off .finished st := by
  obtain ⟨o, ho, hs⟩ := h
  by_cases hf : o.stage = .finished
  · rw [Claims.opAt, finishOp_finished st detail ho hf, ho]
    exact congrArg some (Prod.ext hf (hs.resolve_left fun hn => hn hf).2)
  · rw [Claims.opAt, State.op?_finishOp st detail ho hf]
    rfl

theorem opAt_finishOp_keeps {s : State} {id off j at_ : Nat} {st : Nat} (h : Claims.opAt s id off .finished st) (status detail : Nat) :
    Claims.opAt (s.finishOp j at_ status detail) id off .finished st := by
  by_cases hsame : id = j ∧ off = at_
  · obtain ⟨rfl, rfl⟩ := hsame
    obtain ⟨o, ho, hos⟩ := Option.map_eq_some_iff.1 h
    rw [finishOp_finished status detail ho (congrArg Prod.fst hos)]
    exact h
  · rw [Claims.opAt, op?_finishOp_other s status detail hsame]
    exact h

/-- A fold that ends one operation after the other ends each of them with its status. -/
theorem opAt_fold {α : Type} {f : State → α → State} {id off : α → Nat} {st : Nat}
    (hf : ∀ x a, (f x a).lists = (x.finishOp (id a) (off a) st 0).lists) (as : List α) (s : State) (i o : Nat) :
    (Claims.opAt s i o .finished st → Claims.opAt (as.foldl f s) i o .finished st) ∧
    (Doomed st s i o → (∃ a, a ∈ as ∧ id a = i ∧ off a = o) → Claims.opAt (as.foldl f s) i o .finished st) := by
  have hop : ∀ x a, (f x a).op? = (x.finishOp (id a) (off a) st 0).op? := fun x a => State.op_congr (hf x a)
  induction as generalizing s with
  | nil => exact ⟨fun h => h, fun _ ⟨_, h, _⟩ => absurd h List.not_mem_nil⟩
  | cons a as ih =>
    obtain ⟨hkeep, hend⟩ := ih (f s a)
    refine ⟨fun h => hkeep ?_, fun hd ⟨b, hb, hbi, hbo⟩ => ?_⟩
    · rw [Claims.opAt, hop]
      exact opAt_finishOp_keeps h st 0
    · by_cases ha : i = id a ∧ o = off a
      · obtain ⟨rfl, rfl⟩ := ha
        refine hkeep ?_
        rw [Claims.opAt, hop]
        exact opAt_finishOp hd 0
      · refine hend ?_ ⟨b, (List.mem_cons.1 hb).resolve_left fun h => ha ⟨h ▸ hbi.symm, h ▸ hbo.symm⟩, hbi, hbo⟩
        obtain ⟨x, hx, hs⟩ := hd
        exact ⟨x, by rw [hop, op?_finishOp_other s st 0 ha]; exact hx, hs⟩

/-! ### The cycles -/

theorem waitsAt_started {l : WorkList} {o : Op} (h : l.waitsAt = some o) : o.stage = .started := by
  have := List.find?_some h
  simp only [Bool.and_eq_true, decide_eq_true_eq] at this
  exact this.2

theorem waitsAt_youngest {g : WaitGraph} {c : List Nat} {w : WorkList × Op} (h : g.youngest c = some w) :
    w.1.waitsAt = some w.2 := by
  refine foldl_keeps (fun best : Option (WorkList × Op) => ∀ w, best = some w → w.1.waitsAt = some w.2) _ _ none
    (fun _ h => nomatch h) (fun best l _ hb w hw => ?_) w h
  cases hl : l.1.waitsAt with
  | none =>
    simp only [hl] at hw
    exact hb w hw
  | some o =>
    cases best with
    | none =>
      simp only [hl] at hw
      cases hw
      exact hl
    | some b =>
      simp only [hl] at hw
      split at hw
      · cases hw
        exact hl
      · exact hb w hw

theorem started_of_cycles {g : WaitGraph} {fuel : Nat} {c : List Nat × WorkList × Op} (h : c ∈ g.cycles fuel) :
    c.2.2.stage = .started := by
  induction fuel generalizing g with
  | zero => exact absurd h List.not_mem_nil
  | succ fuel ih =>
    unfold WaitGraph.cycles at h
    split at h
    · exact absurd h List.not_mem_nil
    · split at h
      · exact absurd h List.not_mem_nil
      · next hy =>
        rcases List.mem_cons.1 h with rfl | h
        · exact waitsAt_started (waitsAt_youngest hy)
        · exact ih h

/-! ### The commands -/

theorem doomed_of_started {s : State} {l : WorkList} {o : Op} (st : Nat) (hl : s.list? l.id = some l)
    (ho : l.op? o.offset = some o) (hs : o.stage = .started) : Doomed st s l.id o.offset :=
  ⟨o, by rw [State.op?_of_list hl]; exact ho, Or.inl (by rw [hs]; decide)⟩

theorem breakCycles_ends {s : State} {cs : List (List Nat × WorkList × Op)} {c : List Nat × WorkList × Op} (hc : c ∈ cs)
    (hs : c.2.2.stage = .started) (hl : s.list? c.2.1.id = some c.2.1) (ho : c.2.1.op? c.2.2.offset = some c.2.2) :
    Claims.opAt (s.breakCycles cs) c.2.1.id c.2.2.offset .finished osDeadlock :=
  (opAt_fold (id := fun c : List Nat × WorkList × Op => c.2.1.id) (off := fun c => c.2.2.offset) (fun x a =>
    (only_log _ _ _ _ _ _ _ _).part .lists (by decide)) cs s _ _).2 (doomed_of_started _ hl ho hs) ⟨c, hc, rfl, rfl⟩

theorem only_breakCycles (s : State) (cs : List (List Nat × WorkList × Op)) :
    Only [.flog0, .flog1, .lists] [] s (s.breakCycles cs) :=
  Only.fold _ _ s (Only.refl s) fun x c hx => only_State_log _ _ _ _ _ _ _ _
    (only_State_finishOp x _ _ _ _ hx (by decide)) (by decide)

/-- R423: a second without progress is counted. -/
def State.secondCounted (s : State) (t : Nat) : State :=
  { s with progress := setNum s.progress t s.now, watchdogs := setNum s.watchdogs t (num s.watchdogs t + 1) }

theorem tenantWatchdog_idle {s : State} {t : Nat}
    (h : s.oldestOf t = none ∨ s.alive = false ∨ s.now < num s.progress t + 200000000) : tenantWatchdog t s = s := by
  unfold tenantWatchdog
  cases ho : s.oldestOf t with
  | none => rfl
  | some l =>
    refine if_pos ?_
    rcases h with h | h | h
    · rw [ho] at h
      cases h
    · rw [h]; rfl
    · rw [decide_eq_true h, Bool.or_true]

theorem tenantWatchdog_due {s : State} {t : Nat} {l : WorkList} (ho : s.oldestOf t = some l) (ha : s.alive = true)
    (hd : num s.progress t + 200000000 ≤ s.now) : tenantWatchdog t s =
      ((s.secondCounted t).raise (srcTower l.home 6)).breakCycles (s.waitGraph none).found := by
  have htwin : Twin s ((s.secondCounted t).raise (srcTower l.home 6)) := by
    obtain ⟨c, hc⟩ := raise_ic (s.secondCounted t) (srcTower l.home 6)
    rw [hc]
    exact ⟨_, _, c, rfl⟩
  have he : tenantWatchdog t s = ((s.secondCounted t).raise (srcTower l.home 6)).breakCycles
      (((s.secondCounted t).raise (srcTower l.home 6)).waitGraph none).found := by
    unfold tenantWatchdog
    rw [ho]
    refine if_neg ?_
    rw [ha, decide_eq_false (Nat.not_lt.2 hd)]
    exact Bool.false_ne_true
  rw [he, htwin.waitGraph]

theorem srcExists_tower {h o : Nat} (hh : h < 8) (ho : o < 7) : srcExists (0x200 + 16 * h + o) = true := by
  have hall : ∀ h : Fin 8, ∀ o : Fin 7, srcExists (0x200 + 16 * h.val + o.val) = true := by decide
  exact hall ⟨h, hh⟩ ⟨o, ho⟩

theorem exec_tenantWatchdog (tenant : BitVec 10) (s : State) :
    exec (.tenantWatchdog tenant) s = .next (tenantWatchdog tenant.toNat s) := rfl

/-- R423: what the watchdog of a tenant without progress for a second does. -/
theorem tenantWatchdog_facts {s t : State} {u : Nat} {l : WorkList} (ho : s.oldestOf u = some l) (ha : s.alive = true)
    (hd : num s.progress u + 200000000 ≤ s.now) (ht : t = tenantWatchdog u s) :
    num t.progress u = s.now ∧ num t.watchdogs u = num s.watchdogs u + 1 ∧ (l.home < 8 → Claims.raises s t (0x200 + 16 * l.home + 6)) ∧
      ((s.waitGraph none).found = [] → t.lists = s.lists) ∧
      ∀ c, c ∈ (s.waitGraph none).found → s.list? c.2.1.id = some c.2.1 → c.2.1.op? c.2.2.offset = some c.2.2 →
        Claims.opAt t c.2.1.id c.2.2.offset .finished osDeadlock := by
  have hc : Only [.progress, .watchdogs] [] s (s.secondCounted u) :=
    Only.upd_progress_watchdogs (Only.refl s) (by decide) (by decide)
  have hr := only_raise (s.secondCounted u) (srcTower l.home 6)
  have hb := only_breakCycles ((s.secondCounted u).raise (srcTower l.home 6)) (s.waitGraph none).found
  have hlists : ((s.secondCounted u).raise (srcTower l.home 6)).lists = s.lists := hr.part .lists (by decide)
  rw [tenantWatchdog_due ho ha hd] at ht
  rw [← ht] at hb
  refine ⟨?_, ?_, fun hh => ?_, fun hf => ?_, fun c hm hl hop => ?_⟩
  · rw [hb.part .progress (by decide), hr.part .progress (by decide), State.secondCounted, num_setNum, if_pos rfl]
  · rw [hb.part .watchdogs (by decide), hr.part .watchdogs (by decide), State.secondCounted, num_setNum, if_pos rfl]
  · exact raises_after (srcExists_tower hh (by decide)) hc (by decide) (hb.part .ic (by decide))
  · rw [ht, hf]
    exact hlists
  · rw [ht]
    exact breakCycles_ends hm (started_of_cycles hm) (by rw [State.list_congr hlists]; exact hl) hop

theorem exec_watchdogWaitEnd (tenant : BitVec 10) (s : State) :
    exec (.watchdogWaitEnd tenant) s = .next (watchdogWaitEnd tenant.toNat s) := rfl

/-- R424: the WAITs without a timeout of a tenant. -/
def State.endlessWaits (s : State) (t : Nat) : List (WorkList × Op) :=
  (s.lists.filter fun l => l.tenant = t).flatMap fun l =>
    (l.ops.filter fun o => decide (o.opcode = 0x12) && decide (o.stage = .started) && decide (o.f 0x18 4 = 0)).map fun o => (l, o)

theorem mem_endlessWaits {s : State} {t : Nat} {l : WorkList} {o : Op} (hl : l ∈ s.lists) (ht : l.tenant = t) (ho : o ∈ l.ops)
    (h12 : o.opcode = 0x12) (hs : o.stage = .started) (h0 : o.f 0x18 4 = 0) : (l, o) ∈ s.endlessWaits t :=
  List.mem_flatMap.2 ⟨l, List.mem_filter.2 ⟨hl, by simpa using ht⟩,
    List.mem_map.2 ⟨o, List.mem_filter.2 ⟨ho, by simp [h12, hs, h0]⟩, rfl⟩⟩

theorem watchdogWaitEnd_idle {s : State} {t : Nat} (h : s.alive = false ∨ num s.watchdogs t < 10) : watchdogWaitEnd t s = s := by
  refine if_pos ?_
  rcases h with h | h
  · rw [h]; rfl
  · rw [decide_eq_true h, Bool.or_true]

/-- R424: one WAIT ends for want of progress. -/
def State.waitTimedOut (s : State) (t : Nat) (w : WorkList × Op) : State :=
  (s.finishOp w.1.id w.2.offset osWaitTimeout 0).log 0x0091 2 w.1.home (0x40 + w.1.home) t w.1.tag w.2.offset

theorem watchdogWaitEnd_due {s : State} {t : Nat} (ha : s.alive = true) (hw : 10 ≤ num s.watchdogs t) : watchdogWaitEnd t s =
    (s.endlessWaits t).foldl (fun s w => s.waitTimedOut t w) { s with watchdogs := setNum s.watchdogs t 0 } := by
  refine if_neg ?_
  rw [ha, decide_eq_false (Nat.not_lt.2 hw)]
  exact Bool.false_ne_true

theorem watchdogWaitEnd_facts {s t : State} {u : Nat} (ha : s.alive = true) (hw : 10 ≤ num s.watchdogs u)
    (ht : t = watchdogWaitEnd u s) : num t.watchdogs u = 0 ∧
      ∀ l o, l ∈ s.lists → l.tenant = u → s.list? l.id = some l → o ∈ l.ops → l.op? o.offset = some o → o.opcode = 0x12 →
        o.stage = .started → o.f 0x18 4 = 0 → Claims.opAt t l.id o.offset .finished osWaitTimeout := by
  rw [watchdogWaitEnd_due ha hw] at ht
  have hstep : ∀ (x : State) (w : WorkList × Op), Only [.flog0, .flog1, .lists] [] x (x.waitTimedOut u w) := fun x w =>
    only_State_log _ _ _ _ _ _ _ _ (only_State_finishOp x _ _ _ _ (Only.refl x) (by decide)) (by decide)
  constructor
  · have hnum := foldl_reading State.watchdogs (fun s w => s.waitTimedOut u w) (s.endlessWaits u)
      { s with watchdogs := setNum s.watchdogs u 0 } fun x w _ => (hstep x w).part .watchdogs (by decide)
    rw [ht, hnum, num_setNum, if_pos rfl]
  · intro l o hl hten hlist ho hop h12 hs h0
    rw [ht]
    exact (opAt_fold (id := fun w : WorkList × Op => w.1.id) (off := fun w => w.2.offset) (fun x a =>
      (only_log _ _ _ _ _ _ _ _).part .lists (by decide)) (s.endlessWaits u) _ _ _).2
      (doomed_of_started _ hlist hop hs) ⟨(l, o), mem_endlessWaits hl hten ho h12 hs h0, rfl, rfl⟩

/-! ### The obligation -/

/-- Settles O57: resets by the tenant's page, entries and lists, NumVFs by the resets of what vanishes, and the watchdog by
the cycles of the graph it finds. -/
theorem tenantsAreResetAndWatched : Obligations.TenantsAreResetAndWatched := by
  unfold Obligations.TenantsAreResetAndWatched
  refine ⟨fun tenant s => ⟨fun hf => ?absent, fun hu => ?physical, fun hu hf hb => ?early, fun hu hf hb ha hr hv hl => ?reset⟩,
    fun x s hacc hx h1 h2 hf hr hv hl _ _ => ?tenantReset, fun numVfs e s => ⟨fun h => ?refused, fun hn hb hr hok => ?change⟩,
    fun tenant s => ⟨fun h => ?quiet, fun l ho ha hd => ?watch, fun h => ?early10, fun ha hw => ?waits⟩⟩
  case absent =>
    refine congrArg Host.Outcome.next (if_pos ?_)
    show (!s.fnExists tenant.toNat) = true
    rw [hf]
    rfl
  case physical =>
    have he := exec_functionLevelReset tenant s
    rw [hu] at he
    obtain ⟨hmb, hothers, hsegs, hlists⟩ := flr_physical s
    refine ⟨_, he, Only.ofExec (only_execFunctionLevelReset tenant s) he, ?_, hothers, hsegs, hlists⟩
    rw [hmb]
    exact emptied_zeroed _
  case early =>
    have he := exec_functionLevelReset tenant s
    have hspec := flr_virtual hu hf hb
    refine ⟨_, he, Only.ofExec (only_execFunctionLevelReset tenant s) he, ?_, fun v hv => ?_⟩
    · rw [hspec, State.mb_setMb, if_pos rfl]
      exact emptied_zeroed _
    · rw [hspec, State.mb_setMb, if_neg hv]
  case reset =>
    have he := exec_functionLevelReset tenant s
    obtain ⟨hmb, hgone⟩ := flr_reset hu hf hb ha hr hv hl
    refine ⟨_, he, Only.ofExec (only_execFunctionLevelReset tenant s) he, ?_, hgone⟩
    rw [hmb]
    exact emptied_zeroed _
  case tenantReset =>
    have he : exec (.tenantReset x) s = .next (tenantResetAct x (s.take x)) :=
      congrArg Host.Outcome.next (State.withSlip_accepted hacc fun _ => hx)
    obtain ⟨hmb, hlists, hsegs, hres, htail, hcq⟩ := tenantReset_facts (opcode_of_accepted hacc) hx (alive_of_accepted hacc) h1 h2
      hf hr hv hl _ rfl
    refine ⟨_, he, Only.ofExec (only_execTenantReset x s) he, ?_, ⟨hlists, hsegs, hres⟩, htail, hcq⟩
    rw [hmb]
    exact emptied_zeroed _
  case refused => exact (exec_numvfsChange numVfs e s).trans (congrArg Host.Outcome.next (numvfsChange_refused _ e s h))
  case change =>
    have he := exec_numvfsChange numVfs e s
    exact ⟨_, he, Only.ofExec (only_execNumvfsChange numVfs e s) he,
      numvfsChange_facts s numVfs.toNat e _ _ rfl rfl hn hb hr hok _ rfl⟩
  case quiet => exact (exec_tenantWatchdog tenant s).trans (congrArg Host.Outcome.next (tenantWatchdog_idle h))
  case watch =>
    have he := exec_tenantWatchdog tenant s
    exact ⟨_, he, Only.ofExec (only_execTenantWatchdog tenant s) he, tenantWatchdog_facts ho ha hd rfl⟩
  case early10 => exact (exec_watchdogWaitEnd tenant s).trans (congrArg Host.Outcome.next (watchdogWaitEnd_idle h))
  case waits =>
    have he := exec_watchdogWaitEnd tenant s
    exact ⟨_, he, Only.ofExec (only_execWatchdogWaitEnd tenant s) he, watchdogWaitEnd_facts ha hw rfl⟩

end Sys2Proof.Machine
end

section
/-! Scheduling (R252, R302, R354 to R359): what preemption of several lists leaves, admission of one list, the victims of a
tower short of power, and the pauses of stack idle time. -/

namespace Sys2Proof.Machine

/-! ### Preempting several lists -/

theorem list?_of_nodup {s : State} (hn : (s.lists.map (·.id)).Nodup) {l : WorkList} (hl : l ∈ s.lists) : s.list? l.id = some l := by
  refine (List.find?_eq_some_iff_append.2 ?_)
  obtain ⟨as, bs, hab⟩ := List.append_of_mem hl
  refine ⟨decide_eq_true rfl, as, bs, hab, fun a ha => ?_⟩
  rw [hab, List.map_append, List.nodup_append] at hn
  have hne := hn.2.2 a.id (List.mem_map_of_mem ha) l.id (List.mem_map_of_mem (List.mem_cons_self ..))
  simpa using hne

/-- R277: a list as its preemption leaves it. -/
def WorkList.preempted (l : WorkList) : WorkList :=
  if l.preemptible then { l with state := .stopping, ops := l.ops.map Op.withdrawn } else l

theorem preempted_of {l : WorkList} (h : l.preemptible = true) :
    l.preempted = { l with state := .stopping, ops := l.ops.map Op.withdrawn } := if_pos h

theorem preempted_not {l : WorkList} (h : l.preemptible = false) : l.preempted = l := if_neg (by rw [h]; exact Bool.false_ne_true)

theorem list?_preempt (s : State) (i j : Nat) :
    (s.preempt i).list? j = if j = i then (s.list? j).map WorkList.preempted else s.list? j := by
  cases hl : s.list? i with
  | none =>
    have : s.preempt i = s := by rw [State.preempt, hl]
    rw [this]
    split
    · next h => rw [h, hl]; rfl
    · rfl
  | some l =>
    have hid : l.id = i := State.list?_id hl
    cases hp : l.preemptible with
    | false =>
      have : s.preempt i = s := by
        rw [State.preempt, hl]
        exact if_neg (by rw [hp]; exact Bool.false_ne_true)
      rw [this]
      split
      · next h => rw [h, hl, Option.map_some, preempted_not hp]
      · rfl
    | true =>
      have : s.preempt i = (s.dropQueued l).setList l.preempted := by
        rw [preempted_of hp, State.preempt, hl]
        exact if_pos hp
      have hpid : l.preempted.id = i := by rw [preempted_of hp]; exact hid
      have hlists : (s.dropQueued l).list? = s.list? :=
        State.list_congr ((only_State_dropQueued (Ps := [.cores]) (Ks := []) s l (Only.refl s) (by decide)).part .lists (by decide))
      rw [this]
      split
      · next h =>
        rw [h, hl]
        have hset := State.list?_setList_same (s := s.dropQueued l) (l := l.preempted) (k := l) (by rw [hlists, hpid, hl])
        rw [hpid] at hset
        exact hset
      · next h =>
        rw [State.list?_setList_ne _ _ (by rw [hpid]; exact h), hlists]

theorem only_preempt (s : State) (i : Nat) : Only [.cores, .lists] [] s (s.preempt i) :=
  only_State_preempt s i (Only.refl s) (by decide)

theorem only_preempts (s : State) (ids : List Nat) : Only [.cores, .lists] [] s (ids.foldl (fun s i => s.preempt i) s) :=
  Only.fold _ ids s (Only.refl s) fun x i hx => only_State_preempt x i hx (by decide)

/-- R277: a list that is not preemptible, or not named, stays; one that is named and preemptible stops. -/
theorem list?_preempts (ids : List Nat) (s : State) {l : WorkList} {i : Nat} (h : s.list? i = some l) :
    (ids.foldl (fun s i => s.preempt i) s).list? i = some (if i ∈ ids then l.preempted else l) := by
  induction ids generalizing s l with
  | nil => simpa using h
  | cons a ids ih =>
    have hidem : l.preempted.preempted = l.preempted := by
      cases hp : l.preemptible with
      | false => rw [preempted_not hp, preempted_not hp]
      | true =>
        refine preempted_not ?_
        rw [preempted_of hp]
        rfl
    rw [List.foldl_cons]
    by_cases ha : i = a
    · have h1 : (s.preempt a).list? i = some l.preempted := by rw [list?_preempt, if_pos ha, h]; rfl
      rw [ih (s.preempt a) h1, hidem, ite_self, if_pos (List.mem_cons.2 (Or.inl ha))]
    · have h1 : (s.preempt a).list? i = some l := by rw [list?_preempt, if_neg ha, h]
      rw [ih (s.preempt a) h1]
      by_cases hm : i ∈ ids
      · rw [if_pos hm, if_pos (List.mem_cons_of_mem _ hm)]
      · rw [if_neg hm, if_neg fun hc => (List.mem_cons.1 hc).elim ha hm]

/-- The lists that are named and preemptible stop, every other list stays. -/
def Stops (s t : State) (ids : List Nat) : Prop := ∀ l, l ∈ s.lists →
  if l.id ∈ ids ∧ l.preemptible = true then (t.list? l.id).map (·.state) = some .stopping else t.list? l.id = some l

theorem stops_preempts {s x t : State} (hn : (s.lists.map (·.id)).Nodup) (ids : List Nat) (hx : x.lists = s.lists)
    (ht : t.lists = (ids.foldl (fun s i => s.preempt i) x).lists) : Stops s t ids := fun l hl => by
  have hlist : t.list? l.id = some (if l.id ∈ ids then l.preempted else l) := by
    rw [State.list_congr ht]
    exact list?_preempts ids x (by rw [State.list_congr hx]; exact list?_of_nodup hn hl)
  rw [hlist]
  split
  · next h =>
    rw [if_pos h.1, preempted_of h.2]
    rfl
  · next h =>
    split
    · next hm =>
      refine congrArg some (preempted_not ?_)
      cases hp : l.preemptible with
      | false => rfl
      | true => exact absurd ⟨hm, hp⟩ h
    · rfl

/-! ### Preemption for power (R357) -/

/-- R357: a list that has waited PREEMPT_WAIT and does not fit. -/
def State.starved (s : State) (l : WorkList) : Bool :=
  decide (l.waitingSince + s.preemptWait * 200 ≤ s.now) && (match s.headerOf l with
    | .ok h => !s.fits h [] []
    | .error _ => false)

theorem preemptForList_none {s : State} (h : s.waitingLists = []) : s.preemptForList = s := by
  rw [State.preemptForList, h]
  rfl

theorem preemptForList_some {s : State} {l : WorkList} {h : Header} {ids : List Nat} (hl : s.waitingLists.find? s.starved = some l)
    (hh : s.headerOf l = .ok h)
    (hv : s.victims h ((s.lists.filter fun x => x.state = .stopping).map fun x => x.id) (victimOrder (s.lists.filter fun x =>
      x.resumable && decide (x.priority < l.priority) &&
        (s.lacking h ((s.lists.filter fun x => x.state = .stopping).map fun x => x.id)).any fun t =>
          x.home = t || x.power.getD t 0 ≠ 0)) = some ids) :
    s.preemptForList = ids.foldl (fun s i => s.preempt i) s := by
  have he : s.preemptForList = match s.waitingLists.find? s.starved with
    | none => s
    | some l =>
      match s.headerOf l with
      | .error _ => s
      | .ok h =>
        match s.victims h ((s.lists.filter fun x => x.state = .stopping).map fun x => x.id) (victimOrder (s.lists.filter fun x =>
          x.resumable && decide (x.priority < l.priority) &&
            (s.lacking h ((s.lists.filter fun x => x.state = .stopping).map fun x => x.id)).any fun t =>
              x.home = t || x.power.getD t 0 ≠ 0)) with
        | some ids => ids.foldl (fun s i => s.preempt i) s
        | none => s := rfl
  rw [he, hl]
  dsimp only
  rw [hh]
  dsimp only
  rw [hv]

/-- R357: a tower that has not been short of power for 10 ms. -/
def QuietTower (s : State) (w : Nat) : Prop :=
  (s.therm w).shortSince = none ∨ ∃ x, (s.therm w).shortSince = some x ∧ s.now < x + 2000000

theorem preemptForTower_quiet {s : State} {w : Nat} (h : QuietTower s w) : s.preemptForTower w = s := by
  unfold State.preemptForTower
  rcases h with h | ⟨x, h, hx⟩
  · rw [h]
  · rw [h]
    exact if_pos hx

theorem preemptForTower_short {s : State} {w x : Nat} {l : WorkList} {rest : List WorkList} (h : (s.therm w).shortSince = some x)
    (hx : x + 2000000 ≤ s.now) (hv : victimOrder (s.lists.filter fun l => l.home = w && l.resumable) = l :: rest) :
    s.preemptForTower w = (s.preempt l.id).setTherm w { s.therm w with shortSince := some s.now } := by
  unfold State.preemptForTower
  rw [h]
  refine (if_neg (Nat.not_lt.2 hx)).trans ?_
  rw [hv]

theorem fold_quiet {s : State} (ws : List Nat) (h : ∀ w, w ∈ ws → QuietTower s w) :
    ws.foldl (fun s t => s.preemptForTower t) s = s := by
  induction ws with
  | nil => rfl
  | cons w ws ih =>
    rw [List.foldl_cons, preemptForTower_quiet (h w (List.mem_cons_self ..))]
    exact ih fun v hv => h v (List.mem_cons_of_mem _ hv)

/-- Of eight towers one alone is short of power: its first victim stops. -/
theorem fold_short {s : State} {w x : Nat} {l : WorkList} {rest : List WorkList} (hw : w < 8)
    (hq : ∀ v, v < 8 → v ≠ w → QuietTower s v) (h : (s.therm w).shortSince = some x) (hx : x + 2000000 ≤ s.now)
    (hv : victimOrder (s.lists.filter fun l => l.home = w && l.resumable) = l :: rest) :
    (List.range 8).foldl (fun s t => s.preemptForTower t) s =
      (s.preempt l.id).setTherm w { s.therm w with shortSince := some s.now } := by
  obtain ⟨as, bs, hab⟩ := List.append_of_mem (List.mem_range.2 hw)
  have hnd : (as ++ w :: bs).Nodup := hab ▸ List.nodup_range
  have hmem : ∀ v, v ∈ as ++ w :: bs → v < 8 := fun v hm => List.mem_range.1 (hab ▸ hm)
  rw [List.nodup_append] at hnd
  obtain ⟨-, hnd2, hdis⟩ := hnd
  have hpre := only_preempt s l.id
  have hnow : ((s.preempt l.id).setTherm w { s.therm w with shortSince := some s.now }).now = s.now := hpre.part .now (by decide)
  rw [hab, List.foldl_append, fold_quiet as fun v hm => hq v (hmem v (List.mem_append_left _ hm))
    fun he => hdis v hm w (List.mem_cons_self ..) he, List.foldl_cons, preemptForTower_short h hx hv]
  refine fold_quiet bs fun v hm => ?_
  have hvw : v ≠ w := fun he => (List.nodup_cons.1 hnd2).1 (he ▸ hm)
  have hth : ((s.preempt l.id).setTherm w { s.therm w with shortSince := some s.now }).therm v = s.therm v := by
    rw [State.therm_setTherm, if_neg hvw, State.therm_congr (hpre.part .thermal (by decide))]
  have := hq v (hmem v (List.mem_append_right _ (List.mem_cons_of_mem _ hm))) hvw
  rw [QuietTower, hth, hnow]
  exact this

theorem exec_powerPreemption (s : State) : exec .powerPreemption s = .next (powerPreemption s) := rfl

theorem powerPreemption_on {s : State} (ha : s.alive = true) (hf : s.fired = true) :
    powerPreemption s = (List.range 8).foldl (fun s t => s.preemptForTower t) s.preemptForList :=
  if_pos (by rw [ha, hf]; rfl)

theorem powerPreemption_off {s : State} (h : s.alive = false ∨ s.fired = false) : powerPreemption s = s := by
  refine if_neg ?_
  rcases h with h | h <;> simp [h]

/-- R357: a tower short of power for 10 ms. -/
theorem powerPreemption_tower {s : State} (hn : (s.lists.map (·.id)).Nodup) {w x : Nat} {l : WorkList} {rest : List WorkList}
    (ha : s.alive = true) (hf : s.fired = true) (hwait : s.waitingLists = []) (hw : w < 8)
    (hq : ∀ v, v < 8 → v ≠ w → QuietTower s v) (h : (s.therm w).shortSince = some x) (hx : x + 2000000 ≤ s.now)
    (hv : victimOrder (s.lists.filter fun l => l.home = w && l.resumable) = l :: rest) (t : State) (ht : t = powerPreemption s) :
    Stops s t [l.id] ∧ (t.therm w).shortSince = some s.now := by
  rw [powerPreemption_on ha hf, preemptForList_none hwait, fold_short hw hq h hx hv] at ht
  refine ⟨stops_preempts hn [l.id] rfl (by rw [ht]; rfl), ?_⟩
  rw [ht, State.therm_setTherm, if_pos rfl]

/-- R357: a list that has waited PREEMPT_WAIT. -/
theorem powerPreemption_list {s : State} (hn : (s.lists.map (·.id)).Nodup) {l : WorkList} {h : Header} {ids : List Nat}
    (ha : s.alive = true) (hf : s.fired = true) (hq : ∀ v, v < 8 → QuietTower s v) (hl : s.waitingLists.find? s.starved = some l)
    (hh : s.headerOf l = .ok h)
    (hv : s.victims h ((s.lists.filter fun x => x.state = .stopping).map fun x => x.id) (victimOrder (s.lists.filter fun x =>
      x.resumable && decide (x.priority < l.priority) &&
        (s.lacking h ((s.lists.filter fun x => x.state = .stopping).map fun x => x.id)).any fun t =>
          x.home = t || x.power.getD t 0 ≠ 0)) = some ids) : Stops s (powerPreemption s) ids := by
  have hp := only_preempts s ids
  have hquiet : ∀ v, v ∈ List.range 8 → QuietTower (ids.foldl (fun s i => s.preempt i) s) v := fun v hm => by
    rw [QuietTower, State.therm_congr (hp.part .thermal (by decide)), hp.part .now (by decide)]
    exact hq v (List.mem_range.1 hm)
  rw [powerPreemption_on ha hf, preemptForList_some hl hh hv, fold_quiet _ hquiet]
  exact stops_preempts hn ids rfl rfl

/-! ### Admission (R252, R302, R355, R356) -/

theorem exec_listAdmission (s : State) : exec .listAdmission s = .next (listAdmission s) := rfl

theorem listAdmission_none {s : State} (h : s.admits = false ∨ (s.badHeader = none ∧ s.bestList = none)) :
    listAdmission s = s := by
  unfold listAdmission
  cases ha : s.admits with
  | false => rfl
  | true =>
    obtain ⟨h1, h2⟩ := h.resolve_left (by rw [ha]; exact Bool.noConfusion)
    rw [h1, h2]
    rfl

theorem listAdmission_bad {s : State} {l : WorkList} {st : Nat} (ha : s.admits = true) (h : s.badHeader = some (l, st)) :
    listAdmission s = s.failHeader l st := by
  unfold listAdmission
  rw [ha, h]
  rfl

theorem listAdmission_best {s : State} {l : WorkList} {h : Header} (ha : s.admits = true) (hb : s.badHeader = none)
    (hl : s.bestList = some (l, h)) : listAdmission s = s.admitList l h := by
  unfold listAdmission
  rw [ha, hb, hl]
  rfl

/-- R252, R302: the completion of a list whose header fails. -/
theorem reported_failHeader (s : State) (l : WorkList) (st : Nat) (h : l.stopStatus = none) :
    Claims.reported s (s.failHeader l st) { l with admitted := s.tb.count } stListFailed st 0 :=
  reported_completeList (u := s.setList { l with admitted := s.tb.count, everAdmitted := true, failed := some (0, st) })
    (l := { l with admitted := s.tb.count, everAdmitted := true, failed := some (0, st) }) h rfl rfl

theorem mem_of_foldl_pick {α : Type} (p : α → α → Bool) (x : α) (xs : List α) :
    xs.foldl (fun a b => if p a b then b else a) x ∈ x :: xs := by
  induction xs generalizing x with
  | nil => exact List.mem_cons_self ..
  | cons y xs ih =>
    rw [List.foldl_cons]
    split
    · exact List.mem_cons_of_mem _ (ih y)
    · exact (List.mem_cons.1 (ih x)).elim (fun h => by rw [h]; exact List.mem_cons_self ..) fun h =>
        List.mem_cons_of_mem _ (List.mem_cons_of_mem _ h)

/-- R356: the best list is one that can be admitted now. -/
theorem bestList_admissible {s : State} {l : WorkList} {h : Header} (hb : s.bestList = some (l, h)) : (l, h) ∈ s.admissible := by
  unfold State.bestList at hb
  cases ha : s.admissible with
  | nil => rw [ha] at hb; cases hb
  | cons x xs =>
    rw [ha] at hb
    rw [← Option.some.inj hb]
    exact mem_of_foldl_pick (fun a b => lexLt (s.prefKey b.1 b.2) (s.prefKey a.1 a.2)) x xs

theorem admissible_facts {s : State} {l : WorkList} {h : Header} (hm : (l, h) ∈ s.admissible) :
    l ∈ s.lists ∧ s.fits h [] (s.keptFrom l) = true := by
  obtain ⟨k, hk, hc⟩ := List.mem_filterMap.1 hm
  split at hc
  · split at hc
    · next hf =>
      simp only [Option.some.injEq, Prod.mk.injEq] at hc
      obtain ⟨rfl, rfl⟩ := hc
      rw [Bool.and_eq_true] at hf
      exact ⟨(List.mem_filter.1 hk).1, hf.1⟩
    · cases hc
  · cases hc

/-- R144: a core is placed for the tenant; every other core keeps its tenant. -/
theorem tenant_placeOn (s : State) (u k j : Nat) :
    ((s.placeOn u k).coreUnit j).tenant = if j = k then some u else (s.coreUnit j).tenant := by
  have hclear : ∀ j, j ≠ k → ((s.clearCore k).coreUnit j) = s.coreUnit j := fun j hj => by
    have h1 := fun x : State => (only_State_bedClear (Ps := [.mem, .beds, .ic]) (Ks := [.bedStatus, .bedDonecnt]) x k (Only.refl x)
      (by decide) (by decide)).part .cores (by decide)
    have h2 := fun x : State => (only_State_qsClear (Ps := []) (Ks := [.qsctl, .qswin, .qselem, .qstot, .qsstat]) x k (Only.refl x)
      (by decide)).part .cores (by decide)
    unfold State.clearCore
    dsimp only
    rw [State.coreUnit_setCoreUnit, if_neg hj, State.coreUnit_congr (h2 _), State.coreUnit_congr (h1 _)]
    rfl
  unfold State.placeOn
  dsimp only
  rw [State.coreUnit_setCoreUnit]
  split
  · rfl
  · next hj =>
    split
    · split
      · rfl
      · rw [hclear j hj]
    · rfl

/-- A list as it is admitted. -/
def WorkList.admittedAs (l : WorkList) (h : Header) (s : State) : WorkList :=
  { l with
    state := if l.state = .preempted then .resuming else .running, home := h.home, units := h.units, resume := h.resume,
    records := h.records, annot := h.annot, power := h.power, energy := h.energy, meanPower := h.power.getD h.home 0,
    admitted := if l.everAdmitted then l.admitted else s.tb.count, everAdmitted := true, admitOrder := s.nextOrder,
    admittedAt := s.now }

/-- The state in which a list's cores are its tenant's. -/
def State.coresPlaced (s : State) (l : WorkList) (h : Header) : State :=
  ((s.listCores l h).foldl (fun s k => s.placeOn l.tenant k) s).watch l.tenant

theorem admitList_eq (s : State) (l : WorkList) (h : Header) :
    s.admitList l h = ((s.coresPlaced l h).setList (l.admittedAs h s)).govern h.home := rfl

theorem only_watch (s : State) (t : Nat) : Only [.progress, .watchdogs] [] s (s.watch t) :=
  only_State_watch s t (Only.refl s) (by decide)

theorem lists_coresPlaced (s : State) (l : WorkList) (h : Header) : (s.coresPlaced l h).lists = s.lists := by
  have hfold : ∀ ks : List Nat, Only [.mem, .stores, .cores, .beds, .ic] [.qsctl, .qswin, .qselem, .qstot, .qsstat, .bedStatus,
      .bedDonecnt] s (ks.foldl (fun s k => s.placeOn l.tenant k) s) := fun ks =>
    Only.fold _ ks s (Only.refl s) fun x k hx => only_State_placeOn x _ k hx (by decide) (by decide)
  exact ((only_watch _ _).part .lists (by decide)).trans ((hfold _).part .lists (by decide))

theorem tenant_coresPlaced (s : State) (l : WorkList) (h : Header) (k : Nat) (hk : k ∈ s.listCores l h) :
    ((s.coresPlaced l h).coreUnit k).tenant = some l.tenant := by
  have hw := (only_watch ((s.listCores l h).foldl (fun s k => s.placeOn l.tenant k) s) l.tenant).part .cores (by decide)
  rw [State.coresPlaced, State.coreUnit_congr hw]
  refine foldl_establishes (fun k (x : State) => (x.coreUnit k).tenant = some l.tenant) _ _ s (fun x a _ => ?_)
    (fun x a b _ _ ha => ?_) k hk
  · rw [tenant_placeOn, if_pos rfl]
  · rw [tenant_placeOn]
    split
    · rfl
    · exact ha

/-- R355: the list that is admitted, its cores and the other lists. -/
theorem admitList_facts {s : State} {l : WorkList} (h : Header) (hl : s.list? l.id = some l) :
    (s.admitList l h).list? l.id = some (l.admittedAs h s) ∧
      (∀ k, k ∈ s.listCores l h → ((s.admitList l h).coreUnit k).tenant = some l.tenant) ∧
      ∀ j, j ≠ l.id → (s.admitList l h).list? j = s.list? j := by
  have hg : Only [] [.vgov] ((s.coresPlaced l h).setList (l.admittedAs h s)) (s.admitList l h) :=
    only_State_govern _ h.home (Only.refl _) (List.Subset.refl _)
  have hlists := State.list_congr (lists_coresPlaced s l h)
  refine ⟨?_, fun k hk => ?_, fun j hj => ?_⟩
  · rw [State.list_congr (hg.part .lists (by decide))]
    exact State.list?_setList_same (l := l.admittedAs h s) (k := l) (by rw [hlists]; exact hl)
  · rw [State.coreUnit_congr (hg.part .cores (by decide)), State.coreUnit_congr ((only_setList _ _).part .cores (by decide))]
    exact tenant_coresPlaced s l h k hk
  · rw [State.list_congr (hg.part .lists (by decide)), State.list?_setList_ne _ (l.admittedAs h s) hj, hlists]

/-! ### Idle power and stack idle time (R354, R359) -/

theorem exec_idlePowerMeasurement (tower : Fin 8) (mean : BitVec 16) (s : State) : exec (.idlePowerMeasurement tower mean) s =
    .next (if s.alive && s.fired && s.towerLive tower.val && (s.listsOn tower.val).isEmpty &&
        decide ((s.therm tower.val).noListSince + 2000000 ≤ s.now)
      then s.setTherm tower.val { s.therm tower.val with idlePower := mean.toNat } else s) := rfl

theorem idlePower_spec (tower : Fin 8) (mean : BitVec 16) (s : State) (idle : Prop) (hi : idle ↔ s.alive = true ∧ s.fired = true ∧
    s.towerLive tower.val = true ∧ s.listsOn tower.val = [] ∧ (s.therm tower.val).noListSince + 2000000 ≤ s.now) :
    (idle → ∃ t, exec (.idlePowerMeasurement tower mean) s = .next t ∧ Only [.thermal] [] s t ∧
      t.therm tower.val = { s.therm tower.val with idlePower := mean.toNat } ∧ ∀ v, v ≠ tower.val → t.therm v = s.therm v) ∧
    (¬ idle → exec (.idlePowerMeasurement tower mean) s = .next s) := by
  have hc : (s.alive && s.fired && s.towerLive tower.val && (s.listsOn tower.val).isEmpty &&
      decide ((s.therm tower.val).noListSince + 2000000 ≤ s.now)) = true ↔ idle := by
    rw [hi]
    simp only [Bool.and_eq_true, decide_eq_true_eq, List.isEmpty_iff, and_assoc]
  rw [exec_idlePowerMeasurement]
  refine ⟨fun h => ⟨_, congrArg _ (if_pos (hc.2 h)), only_State_setTherm s _ _ (Only.refl s) (by decide), ?_, fun v hv => ?_⟩,
    fun h => congrArg _ (if_neg fun hn => h (hc.1 hn))⟩
  · rw [State.therm_setTherm, if_pos rfl]
  · rw [State.therm_setTherm, if_neg hv]

/-- R359: a pause is due: once a second of running. -/
def PauseDue (s : State) : Prop :=
  s.alive = true ∧ s.fired = true ∧ s.memTested = true ∧ ∀ x, s.lastPause = some x → x + 200000000 ≤ s.now

/-- R359: the last pause lies a second back. -/
def State.pauseOld (s : State) : Bool :=
  match s.lastPause with
  | some t => decide (t + 200000000 ≤ s.now)
  | none => true

theorem pauseDue_iff (s : State) : PauseDue s ↔ (!(s.alive && s.fired && s.memTested) || !s.pauseOld) = false := by
  unfold PauseDue State.pauseOld
  cases s.lastPause with
  | none => simp [and_assoc]
  | some x => simp [and_assoc]

theorem stackIdlePause_eq (s : State) : stackIdlePause s =
    if !(s.alive && s.fired && s.memTested) || !s.pauseOld then s
    else if !s.scrubBehind then { s with lastPause := none }
    else ((s.lists.filter WorkList.resumable).map fun l => l.id).foldl (fun s i => s.preempt i)
      { s with lastPause := some s.now, pauseUntil := s.now + s.stackIdle * 200000 } := rfl

theorem stackIdlePause_wait {s : State} (h : ¬ PauseDue s) : stackIdlePause s = s := by
  rw [stackIdlePause_eq]
  refine if_pos ?_
  rw [pauseDue_iff] at h
  exact Bool.not_eq_false _ ▸ h

theorem stackIdlePause_due {s : State} (h : PauseDue s) : stackIdlePause s =
    if !s.scrubBehind then { s with lastPause := none }
    else ((s.lists.filter WorkList.resumable).map fun l => l.id).foldl (fun s i => s.preempt i)
      { s with lastPause := some s.now, pauseUntil := s.now + s.stackIdle * 200000 } := by
  rw [stackIdlePause_eq]
  exact if_neg (by rw [(pauseDue_iff s).1 h]; exact Bool.false_ne_true)

theorem stackIdlePause_behind {s : State} (hn : (s.lists.map (·.id)).Nodup) (h : PauseDue s) (hb : s.scrubBehind = true) (t : State)
    (ht : t = stackIdlePause s) : t.lastPause = some s.now ∧ t.pauseUntil = s.now + s.stackIdle * 200000 ∧
      Stops s t ((s.lists.filter WorkList.resumable).map (·.id)) := by
  replace ht := ht.trans ((stackIdlePause_due h).trans (if_neg (by rw [hb]; exact Bool.false_ne_true)))
  have hp := only_preempts { s with lastPause := some s.now, pauseUntil := s.now + s.stackIdle * 200000 }
    ((s.lists.filter WorkList.resumable).map fun l => l.id)
  rw [ht]
  exact ⟨hp.part .lastPause (by decide), hp.part .pauseUntil (by decide), stops_preempts
    (x := { s with lastPause := some s.now, pauseUntil := s.now + s.stackIdle * 200000 }) hn _ rfl rfl⟩

theorem exec_stackIdlePause (s : State) : exec .stackIdlePause s = .next (stackIdlePause s) := rfl

/-- Settles O58: admission by the header that fails or the best list, preemption by a fold over lists of distinct ids. -/
theorem listsAreScheduled : Obligations.ListsAreScheduled := by
  unfold Obligations.ListsAreScheduled
  intro s hn
  refine ⟨fun h => ?none, fun l st ha hb hs => ?bad, fun l h ha hb hl => ?best, fun h => ?off, fun w l rest ha hf hw8 hw hq hx hv => ?tower,
    fun l h ids ha hf hq hl hh hv => ?list, fun tower mean => idlePower_spec tower mean s _ Iff.rfl, fun h => ?wait, fun h hb => ?ahead,
    fun h hb => ?behind⟩
  case none => rw [exec_listAdmission, listAdmission_none h]
  case bad =>
    have he := exec_listAdmission s
    refine ⟨_, he, (Only.ofExec (only_execListAdmission s) he).mono (by decide) (by decide), ?_⟩
    rw [listAdmission_bad ha hb]
    exact reported_failHeader s l st hs
  case best =>
    obtain ⟨hm, hfits⟩ := admissible_facts (bestList_admissible hl)
    have he := exec_listAdmission s
    refine ⟨hfits, _, he, (Only.ofExec (only_execListAdmission s) he).mono (by decide) (by decide), ?_⟩
    rw [listAdmission_best ha hb hl]
    obtain ⟨hlist, hcores, hothers⟩ := admitList_facts h (list?_of_nodup hn hm)
    exact ⟨by rw [hlist]; rfl, hcores, hothers⟩
  case off => rw [exec_powerPreemption, powerPreemption_off h]
  case tower =>
    obtain ⟨x, hx1, hx2⟩ := hx
    have he := exec_powerPreemption s
    exact ⟨_, he, Only.ofExec (only_execPowerPreemption s) he,
      powerPreemption_tower hn ha hf hw8 hw hq hx1 hx2 hv _ rfl⟩
  case list =>
    have he := exec_powerPreemption s
    exact ⟨_, he, Only.ofExec (only_execPowerPreemption s) he, powerPreemption_list hn ha hf hq hl hh hv⟩
  case wait => rw [exec_stackIdlePause, stackIdlePause_wait h]
  case ahead =>
    rw [exec_stackIdlePause, stackIdlePause_due h, hb]
    rfl
  case behind =>
    have he := exec_stackIdlePause s
    exact ⟨_, he, Only.ofExec (only_execStackIdlePause s) he, stackIdlePause_behind hn h hb _ rfl⟩

end Sys2Proof.Machine
end

section
/-! Guest links (R227 to R231): training, the exchange of structures, negotiation, enabling, credits and loss of the link. -/

namespace Sys2Proof.Machine

/-! ### Their registers -/

theorem Reg.voyGctl_off (g : Nat) : (Reg.voyGctl g).off = blk (guestDie g) + 0x240000 := rfl
theorem Reg.voyGstat_off (g : Nat) : (Reg.voyGstat g).off = blk (guestDie g) + 0x240004 := rfl
theorem Reg.voyLocal_off (g i : Nat) : (Reg.voyLocal g i).off = blk (guestDie g) + 0x240040 + 4 * i := rfl
theorem Reg.voyPeer_off (g i : Nat) : (Reg.voyPeer g i).off = blk (guestDie g) + 0x240060 + 4 * i := rfl

theorem voyGctl_ne_voyGstat (g : Nat) : (Reg.voyGctl g).off ≠ (Reg.voyGstat g).off := by
  rw [Reg.voyGctl_off, Reg.voyGstat_off]; omega

theorem voyGstat_ne_voyLocal (g i : Nat) : (Reg.voyGstat g).off ≠ (Reg.voyLocal g i).off := by
  rw [Reg.voyGstat_off, Reg.voyLocal_off]; omega

theorem voyGstat_ne_voyPeer (g i : Nat) : (Reg.voyGstat g).off ≠ (Reg.voyPeer g i).off := by
  rw [Reg.voyGstat_off, Reg.voyPeer_off]; omega

theorem voyGctl_ne_voyLocal (g i : Nat) : (Reg.voyGctl g).off ≠ (Reg.voyLocal g i).off := by
  rw [Reg.voyGctl_off, Reg.voyLocal_off]; omega

theorem voyGctl_ne_voyPeer (g i : Nat) : (Reg.voyGctl g).off ≠ (Reg.voyPeer g i).off := by
  rw [Reg.voyGctl_off, Reg.voyPeer_off]; omega

theorem voyLocal_inj {g i j : Nat} (h : i ≠ j) : (Reg.voyLocal g i).off ≠ (Reg.voyLocal g j).off := by
  rw [Reg.voyLocal_off, Reg.voyLocal_off]; omega

theorem voyPeer_inj {g i j : Nat} (h : i ≠ j) : (Reg.voyPeer g i).off ≠ (Reg.voyPeer g j).off := by
  rw [Reg.voyPeer_off, Reg.voyPeer_off]; omega

/-! ### A structure in eight registers (Table 9-9) -/

theorem reg_showCap (s : State) {r : Nat → Reg} (hr : ∀ i j, i ≠ j → (r i).off ≠ (r j).off) (bs : List Byte) (i : Nat) (hi : i < 8) :
    (s.showCap r bs).reg (r i) = BitVec.ofNat 64 (fieldAt bs (4 * i) 4) := by
  refine foldl_establishes (fun i (x : State) => x.reg (r i) = BitVec.ofNat 64 (fieldAt bs (4 * i) 4)) _ (List.range 8) s
    (fun x a _ => State.reg_setReg_same x (r a) _) (fun x a b _ _ h => ?_) i (List.mem_range.2 hi)
  by_cases hab : a = b
  · rw [hab, State.reg_setReg_same]
  · rw [State.reg_setReg_ne _ _ _ _ (hr a b hab), h]

theorem reg_showCap_ne (s : State) {r : Nat → Reg} {q : Reg} (hq : ∀ i, q.off ≠ (r i).off) (bs : List Byte) :
    (s.showCap r bs).reg q = s.reg q :=
  foldl_reading (fun x : State => x.reg q) _ (List.range 8) s fun x i _ => State.reg_setReg_ne x (r i) q _ (hq i)

theorem only_showCap (s : State) (r : Nat → Reg) (bs : List Byte) {Ks : List RegKind} (hK : ∀ i, (r i).kind ∈ Ks) :
    Only [] Ks s (s.showCap r bs) :=
  Only.fold _ _ s (Only.refl s) fun x i hx => only_State_setReg x (r i) _ (hK i) hx

/-! ### GUEST_LINK_UP -/

/-- Table 9-8: rate and width are shown. -/
def State.rateShown (s : State) (g rate : Nat) (x64 : Bool) : State :=
  (s.setF (.voyGstat g) 25 3 rate).setF (.voyGstat g) 24 1 (b2n x64)

theorem rateShown_fields (s : State) (g rate : Nat) (x64 : Bool) : (s.rateShown g rate x64).regF (.voyGstat g) 25 3 = rate % 8 ∧
    (s.rateShown g rate x64).regBit (.voyGstat g) 24 = x64 ∧ (s.rateShown g rate x64).guestState g = s.guestState g := by
  refine ⟨?_, ?_, ?_⟩
  · rw [State.rateShown, State.regF_setF_apart _ _ _ _ _ _ _ (by decide) (by decide), State.regF_setF_same _ _ _ _ _ (by decide)]
    rfl
  · rw [State.regBit, State.rateShown, State.regF_setF_same _ _ _ _ _ (by decide)]
    cases x64 <;> rfl
  · rw [State.guestState, State.rateShown, State.regF_setF_apart _ _ _ _ _ _ _ (by decide) (by decide),
      State.regF_setF_apart _ _ _ _ _ _ _ (by decide) (by decide), State.guestState]

theorem only_rateShown (s : State) (g rate : Nat) (x64 : Bool) : Only [] [.voyGstat] s (s.rateShown g rate x64) :=
  only_State_setF _ _ _ _ _ (only_State_setF s _ _ _ _ (Only.refl s) (List.elem_iff.mp rfl)) (List.elem_iff.mp rfl)

/-- The state with another count of free values used. -/
def State.freeAt (s : State) (n : Nat) : State := { s with freeCtr := n }

theorem only_setGuest (s : State) (g : Nat) (x : Guest) : Only [.guests] [] s (s.setGuest g x) :=
  only_State_setGuest s g x (Only.refl s) (by decide)

theorem only_freeAt (s : State) (n : Nat) : Only [.freeCtr] [] s (s.freeAt n) := Only.upd_freeCtr (Only.refl s) (by decide)

/-- The link up, with the structure sent. -/
def State.linkUp (s : State) (g rate : Nat) (x64 : Bool) (cap : List Byte) : State :=
  ((((s.rateShown g rate x64).freeAt (s.freeCtr + 3)).setGuest g { s.guest g with capSent := true }).showCap (Reg.voyLocal g) cap).emit
    (.capSent g cap)

theorem guestLinkUp_eq {g : Nat} (rate : Nat) (x64 : Bool) {s : State} (h1 : s.guestSite g = true) (h2 : s.guestState g = gsTraining)
    (h3 : (s.guest g).capSent = false) : guestLinkUp g rate x64 s = s.linkUp g rate x64 s.ownCap := if_pos (by rw [h1, h2, h3]; rfl)

theorem stat_linkUp (s : State) (g rate : Nat) (x64 : Bool) (cap : List Byte) :
    (s.linkUp g rate x64 cap).reg (.voyGstat g) = (s.rateShown g rate x64).reg (.voyGstat g) := by
  rw [State.linkUp, reg_emit, reg_showCap_ne _ (fun i => voyGstat_ne_voyLocal g i) cap]
  exact ((only_setGuest _ _ _).reg_eq _).trans ((only_freeAt (s.rateShown g rate x64) (s.freeCtr + 3)).reg_eq _)

theorem guest_linkUp (s : State) (g rate : Nat) (x64 : Bool) (cap : List Byte) :
    (s.linkUp g rate x64 cap).guest g = { s.guest g with capSent := true } := by
  have hshow := fun u : State => only_showCap u (Reg.voyLocal g) cap (Ks := [.voyLocal]) fun _ => List.mem_singleton.2 rfl
  rw [State.linkUp, State.guest_congr ((only_emit _ _).part .guests (by decide)), State.guest_congr ((hshow _).part .guests (by decide)),
    State.guest_setGuest, if_pos rfl]

theorem out_linkUp (s : State) (g rate : Nat) (x64 : Bool) (cap : List Byte) :
    (s.linkUp g rate x64 cap).out = .capSent g cap :: s.out := by
  have hshow := fun u : State => only_showCap u (Reg.voyLocal g) cap (Ks := [.voyLocal]) fun _ => List.mem_singleton.2 rfl
  have hfree := (only_freeAt (s.rateShown g rate x64) (s.freeCtr + 3)).part .out (by decide)
  rw [State.linkUp, out_emit]
  refine congrArg _ (((hshow _).part .out (by decide)).trans (Eq.trans ?_ (hfree.trans ((only_rateShown s g rate x64).part .out (by decide)))))
  exact (only_setGuest _ _ _).part .out (by decide)

theorem linkUp_facts (s : State) (g rate : Nat) (x64 : Bool) (cap : List Byte) (hr : rate < 8) (t : State)
    (ht : t = s.linkUp g rate x64 cap) : t.regF (.voyGstat g) 25 3 = rate ∧ t.regBit (.voyGstat g) 24 = x64 ∧
      t.guestState g = s.guestState g ∧ (t.guest g).capSent = true ∧ t.out = .capSent g cap :: s.out ∧
      ∀ i, i < 8 → t.reg (.voyLocal g i) = BitVec.ofNat 64 (fieldAt cap (4 * i) 4) := by
  obtain ⟨hrate, hwide, hstate⟩ := rateShown_fields s g rate x64
  have hstat : t.reg (.voyGstat g) = (s.rateShown g rate x64).reg (.voyGstat g) := ht ▸ stat_linkUp s g rate x64 cap
  refine ⟨?_, ?_, ?_, ?_, ht ▸ out_linkUp s g rate x64 cap, fun i hi => ?_⟩
  · rw [State.regF_congr hstat, hrate, Nat.mod_eq_of_lt hr]
  · rw [State.regBit_congr hstat, hwide]
  · rw [State.guestState, State.regF_congr hstat]
    exact hstate
  · rw [ht, guest_linkUp]
  · rw [ht, State.linkUp, reg_emit, reg_showCap _ (fun _ _ h => voyLocal_inj h) cap i hi]

theorem ownCap_facts (s : State) : s.ownCap.length = 32 ∧ fieldAt s.ownCap 0 2 = 0x5659 := by
  constructor
  · simp [State.ownCap]
  · unfold State.ownCap
    rw [List.append_assoc, List.append_assoc, List.append_assoc, List.append_assoc, List.append_assoc, List.append_assoc,
      fieldAt_append_left _ _ _ _ (by simp), fieldAt_leBytes]
    rfl

/-! ### GUEST_TRAINING_TIMEOUT -/

theorem guestState_setGuestState (s : State) (g v : Nat) : (s.setGuestState g v).guestState g = v % 16 :=
  State.regF_setF_same s _ _ _ v (by decide)

theorem guestTrainingTimeout_eq {g since : Nat} {s : State} (h1 : (s.guest g).trainingSince = some since)
    (h2 : s.guestState g = gsTraining) (h3 : (s.guest g).capSent = false) (h4 : since + 20000000 ≤ s.now) :
    guestTrainingTimeout g s = (s.setGuestState g gsNone).setGuest g { s.guest g with trainingSince := none } := by
  unfold guestTrainingTimeout
  rw [h1]
  exact if_pos (by rw [h2, h3, decide_eq_true h4]; rfl)

theorem Reg.eq_voyGstat_of_kind {r : Reg} (h : r.kind = .voyGstat) : ∃ g, r = .voyGstat g := by
  cases r <;> cases h; exact ⟨_, rfl⟩

/-- Registers at different places of two gateways' blocks. -/
theorem guestBlocks_apart {a b : Nat} (g h : Nat) (hab : a ≠ b) (hb : a < 0x240100 ∧ b < 0x240100) :
    blk (guestDie g) + a ≠ blk (guestDie h) + b := by
  unfold guestDie blk
  split <;> split <;> omega

/-! ### CAP -/

/-- R230: the link once its peer's structure has come. -/
def Guest.met (x : Guest) (c : List Byte) : Guest :=
  { x with peer := c, trainingSince := none, credits := (List.range 4).foldl (fun m q => setNum m q (capCredits c q)) [] }

/-- R230: the peer's structure is kept and shown. -/
def State.peerShown (s : State) (g : Nat) (c : List Byte) : State := (s.setGuest g ((s.guest g).met c)).showCap (Reg.voyPeer g) c

/-- R230: what the link has negotiated. -/
def State.negotiatedAs (u : State) (g payload : Nat) (c : List Byte) : State :=
  (((u.setF (.voyGstat g) 20 4 (fieldAt c 7 1)).setF (.voyGstat g) 16 4 (fieldAt c 6 1)).setF (.voyGstat g) 14 2 payload).setGuestState g
    gsNegotiated

theorem capArrives_eq {g : Nat} {c : List Byte} {s : State} (h1 : s.guestState g = gsTraining) (h2 : (s.guest g).capSent = true)
    (hc : c.length = 32) : ∃ payload, capArrives g c s = if capCompatible c then (s.peerShown g c).negotiatedAs g payload c
      else (s.peerShown g c).setGuestState g gsIncompatible := by
  have htake : (c ++ List.replicate 32 0).take 32 = c := by rw [List.take_append_of_le_length (by omega), List.take_of_length_le (by omega)]
  refine ⟨payloadCode (min (fieldAt ((List.range 8).flatMap fun i => leBytes 4 (s.reg (.voyLocal g i)).toNat) 0x10 2) (fieldAt c 0x10 2)), ?_⟩
  unfold capArrives
  rw [if_pos (by rw [h1, h2]; rfl), htake]
  rfl

theorem only_peerShown (s : State) (g : Nat) (c : List Byte) : Only [.guests] [.voyPeer] s (s.peerShown g c) :=
  ((only_setGuest s g _).mono (List.Subset.refl _) (List.nil_subset _)).trans
    ((only_showCap _ (Reg.voyPeer g) c (Ks := [.voyPeer]) fun _ => List.mem_singleton.2 rfl).mono (List.nil_subset _) (List.Subset.refl _))

theorem guest_peerShown (s : State) (g : Nat) (c : List Byte) : (s.peerShown g c).guest = (s.setGuest g ((s.guest g).met c)).guest :=
  State.guest_congr ((only_showCap _ (Reg.voyPeer g) c (Ks := [.voyPeer]) fun _ => List.mem_singleton.2 rfl).part .guests (by decide))

theorem reg_peerShown (s : State) (g : Nat) (c : List Byte) (i : Nat) (hi : i < 8) :
    (s.peerShown g c).reg (.voyPeer g i) = BitVec.ofNat 64 (fieldAt c (4 * i) 4) :=
  reg_showCap _ (fun _ _ h => voyPeer_inj h) c i hi

theorem only_setGuestState (s : State) (g v : Nat) : Only [] [.voyGstat] s (s.setGuestState g v) :=
  only_State_setF s _ _ _ v (Only.refl s) (List.elem_iff.mp rfl)

theorem only_negotiatedAs (u : State) (g payload : Nat) (c : List Byte) : Only [] [.voyGstat] u (u.negotiatedAs g payload c) :=
  only_State_setGuestState _ g _ (only_State_setF _ _ _ _ _ (only_State_setF _ _ _ _ _ (only_State_setF u _ _ _ _ (Only.refl u)
    (List.elem_iff.mp rfl)) (List.elem_iff.mp rfl)) (List.elem_iff.mp rfl)) (List.Subset.refl _)

theorem negotiatedAs_fields (u : State) (g payload : Nat) (c : List Byte) : (u.negotiatedAs g payload c).guestState g = gsNegotiated ∧
    (u.negotiatedAs g payload c).regF (.voyGstat g) 20 4 = fieldAt c 7 1 % 16 ∧
    (u.negotiatedAs g payload c).regF (.voyGstat g) 16 4 = fieldAt c 6 1 % 16 := by
  refine ⟨guestState_setGuestState _ g _, ?_, ?_⟩
  · rw [State.negotiatedAs, State.setGuestState, State.regF_setF_apart _ _ _ _ _ _ _ (by decide) (by decide),
      State.regF_setF_apart _ _ _ _ _ _ _ (by decide) (by decide), State.regF_setF_apart _ _ _ _ _ _ _ (by decide) (by decide),
      State.regF_setF_same _ _ _ _ _ (by decide)]
    rfl
  · rw [State.negotiatedAs, State.setGuestState, State.regF_setF_apart _ _ _ _ _ _ _ (by decide) (by decide),
      State.regF_setF_apart _ _ _ _ _ _ _ (by decide) (by decide), State.regF_setF_same _ _ _ _ _ (by decide)]
    rfl

theorem num_capCredits (c : List Byte) (q : Nat) (hq : q < 4) :
    num ((List.range 4).foldl (fun m q => setNum m q (capCredits c q)) []) q = fieldAt c (8 + 2 * q) 2 :=
  foldl_establishes (fun q (m : SMap Nat) => num m q = fieldAt c (8 + 2 * q) 2) _ (List.range 4) []
    (fun m a _ => by rw [num_setNum, if_pos rfl, capCredits])
    (fun m a b _ _ h => by
      rw [num_setNum]
      split
      · next hab => rw [hab, capCredits]
      · exact h) q (List.mem_range.2 hq)

/-- R230: what the peer's structure leaves, whether or not the link is compatible. -/
theorem capArrives_facts {g : Nat} {c : List Byte} {s : State} (h1 : s.guestState g = gsTraining) (h2 : (s.guest g).capSent = true)
    (hc : c.length = 32) (t : State) (ht : t = capArrives g c s) :
    (t.guest g).peer = c ∧ (t.guest g).trainingSince = none ∧ (∀ q, q < 4 → num (t.guest g).credits q = fieldAt c (8 + 2 * q) 2) ∧
      (∀ i, i < 8 → t.reg (.voyPeer g i) = BitVec.ofNat 64 (fieldAt c (4 * i) 4)) ∧ (∀ h, h ≠ g → t.guest h = s.guest h) ∧
      if capCompatible c then t.guestState g = gsNegotiated ∧ t.regF (.voyGstat g) 20 4 = fieldAt c 7 1 % 16 ∧
        t.regF (.voyGstat g) 16 4 = fieldAt c 6 1 % 16
      else t.guestState g = gsIncompatible := by
  obtain ⟨payload, he⟩ := capArrives_eq h1 h2 hc
  rw [he] at ht
  have hlast : Only [] [.voyGstat] (s.peerShown g c) t := by
    rw [ht]
    split
    · exact only_negotiatedAs _ _ _ _
    · exact only_setGuestState _ _ _
  have hguest : t.guest = (s.peerShown g c).guest := State.guest_congr (hlast.part .guests (by decide))
  have hself : t.guest g = (s.guest g).met c := by
    rw [hguest, guest_peerShown, State.guest_setGuest, if_pos rfl]
  refine ⟨by rw [hself]; rfl, by rw [hself]; rfl, fun q hq => ?_, fun i hi => ?_, fun h hh => ?_, ?_⟩
  · rw [hself]
    exact num_capCredits c q hq
  · rw [hlast.reg_apart (.voyPeer g i) fun r hr => ?_, reg_peerShown s g c i hi]
    obtain ⟨g', rfl⟩ := Reg.eq_voyGstat_of_kind (List.mem_singleton.1 hr)
    rw [Reg.voyGstat_off, Reg.voyPeer_off]
    rw [Nat.add_assoc]
    exact guestBlocks_apart g' g (by omega) (by omega)
  · rw [hguest, guest_peerShown, State.guest_setGuest, if_neg hh]
  · rw [ht]
    split
    · exact negotiatedAs_fields _ _ _ _
    · exact guestState_setGuestState _ _ _

/-! ### GUEST_ENABLE -/

theorem only_reportGuest (u : State) (g : Nat) : Only [.guestPresent, .fpDirty] [] u (u.reportGuest g) := by
  unfold State.reportGuest
  split
  · exact (Only.refl u).mono (List.nil_subset _) (List.Subset.refl _)
  · exact Only.upd_guestPresent_fpDirty (Only.refl u) (by decide) (by decide)

theorem reportGuest_present (u : State) (g : Nat) (h : (u.guest g).lost = false) : nbit (u.reportGuest g).guestPresent g = true := by
  unfold State.reportGuest
  rw [h, Bool.false_or]
  split
  · next hp => exact hp
  · next hp => rw [nbit_add_two_pow _ _ _ (Bool.not_eq_true _ ▸ hp), decide_eq_true rfl, Bool.or_true]

/-- R229: the link enabled for its tenant. -/
def State.enabledFor (s : State) (g v : Nat) : State :=
  (((s.setF (.voyGctl g) 0 10 v).setF (.voyGctl g) 31 1 (v / 2 ^ 31)).setGuestState g gsEnabled).reportGuest g

theorem gctlFields_up {s : State} {g v : Nat} (h : s.guestState g = gsNegotiated ∨ s.guestState g = gsEnabled)
    (hv : nbit v 31 = true) : s.gctlFields g v = s.enabledFor g v := by
  have hc : (decide (s.guestState g = gsNegotiated) || decide (s.guestState g = gsEnabled)) = true := by
    simpa using h
  exact (if_pos hc).trans (if_pos hv)

theorem gctlFields_idle {s : State} {g v : Nat} (h : ¬ (s.guestState g = gsNegotiated ∨ s.guestState g = gsEnabled)) :
    s.gctlFields g v = s.setF (.voyGctl g) 0 10 v := by
  refine if_neg fun hc => h ?_
  simpa using hc

theorem enabledFor_facts (s : State) (g v : Nat) (hv : v / 2 ^ 31 % 2 = 1) (t : State) (ht : t = s.enabledFor g v) :
    Only [.guestPresent, .fpDirty] [.voyGctl, .voyGstat] s t ∧ t.regF (.voyGctl g) 0 10 = v % 1024 ∧ t.guestState g = gsEnabled ∧
      t.regBit (.voyGctl g) 31 = true ∧ ((s.guest g).lost = false → nbit t.guestPresent g = true) := by
  have h1 : Only [] [.voyGctl, .voyGstat] s (((s.setF (.voyGctl g) 0 10 v).setF (.voyGctl g) 31 1 (v / 2 ^ 31)).setGuestState g gsEnabled) :=
    only_State_setGuestState _ g _ (only_State_setF _ _ _ _ _ (only_State_setF s _ _ _ _ (Only.refl s) (List.elem_iff.mp rfl))
      (List.elem_iff.mp rfl)) (by decide)
  have h2 := only_reportGuest (((s.setF (.voyGctl g) 0 10 v).setF (.voyGctl g) 31 1 (v / 2 ^ 31)).setGuestState g gsEnabled) g
  have hst : t.reg (.voyGstat g) = (((s.setF (.voyGctl g) 0 10 v).setF (.voyGctl g) 31 1 (v / 2 ^ 31)).setGuestState g gsEnabled).reg
      (.voyGstat g) := ht ▸ h2.reg_eq _
  have hctl : t.reg (.voyGctl g) = ((s.setF (.voyGctl g) 0 10 v).setF (.voyGctl g) 31 1 (v / 2 ^ 31)).reg (.voyGctl g) :=
    ht ▸ (h2.reg_eq _).trans (State.reg_setF_ne _ _ _ _ _ _ (voyGctl_ne_voyGstat g))
  refine ⟨?_, ?_, ?_, ?_, fun hl => ?_⟩
  · rw [ht]
    exact (h1.mono (List.nil_subset _) (List.Subset.refl _)).trans (h2.mono (List.Subset.refl _) (List.nil_subset _))
  · rw [State.regF_congr hctl, State.regF_setF_apart _ _ _ _ _ _ _ (by decide) (by decide), State.regF_setF_same _ _ _ _ _ (by decide)]
    rfl
  · rw [State.guestState, State.regF_congr hst]
    exact guestState_setGuestState _ g _
  · rw [State.regBit, State.regF_congr hctl, State.regF_setF_same _ _ _ _ _ (by decide)]
    simpa using hv
  · rw [ht]
    exact reportGuest_present _ g (by rw [State.guest_congr (h1.part .guests (by decide))]; exact hl)

theorem guestEnable_facts (s : State) (g n : Nat) (hn : n < 1024) (t : State) (ht : t = s.gctlFields g (2 ^ 31 + n)) :
    Only [.fpDirty, .guestPresent] [.voyGctl, .voyGstat] s t ∧ t.regF (.voyGctl g) 0 10 = n ∧
      if s.guestState g = gsNegotiated ∨ s.guestState g = gsEnabled then
        t.guestState g = gsEnabled ∧ t.regBit (.voyGctl g) 31 = true ∧ ((s.guest g).lost = false → nbit t.guestPresent g = true)
      else t.guestState g = s.guestState g ∧ t.regBit (.voyGctl g) 31 = s.regBit (.voyGctl g) 31 ∧ t.guestPresent = s.guestPresent := by
  by_cases h : s.guestState g = gsNegotiated ∨ s.guestState g = gsEnabled
  · rw [gctlFields_up h (decide_eq_true (by omega))] at ht
    obtain ⟨ho, hf, hrest⟩ := enabledFor_facts s g _ (by omega) t ht
    rw [if_pos h]
    exact ⟨ho.mono (by decide) (List.Subset.refl _), hf.trans (by omega), hrest⟩
  · rw [gctlFields_idle h] at ht
    have ho : Only [] [.voyGctl] s (s.setF (.voyGctl g) 0 10 (2 ^ 31 + n)) := only_State_setF s _ _ _ _ (Only.refl s) (List.elem_iff.mp rfl)
    rw [if_neg h, ht]
    refine ⟨ho.mono (List.nil_subset _) (by decide), ?_, ?_, ?_, ho.part .guestPresent (by decide)⟩
    · rw [State.regF_setF_same _ _ _ _ _ (by decide)]
      omega
    · exact State.regF_setF_ne _ _ _ _ _ _ _ _ (voyGctl_ne_voyGstat g).symm
    · exact State.regBit_setF_apart _ _ _ _ _ _ (by decide) (by decide)

/-! ### CREDIT -/

theorem only_guestPump (s : State) (g c fuel : Nat) : Only [.out, .guests] [] s (s.guestPump g c fuel) :=
  only_State_guestPump s g c fuel (Only.refl s) (List.Subset.refl _)

theorem guestPump_none {s : State} {g c : Nat} (fuel : Nat) (h : ∀ m, m ∈ (s.guest g).queue → m.cls.toNat ≠ c) :
    s.guestPump g c fuel = s := by
  have hf : (s.guest g).queue.find? (fun m => m.cls.toNat = c) = none := List.find?_eq_none.2 fun m hm => by
    simpa using h m hm
  cases fuel with
  | zero => rfl
  | succ fuel =>
    rw [State.guestPump, hf]

theorem guest_guestPump_ne (s : State) (g c fuel h : Nat) (hh : h ≠ g) : (s.guestPump g c fuel).guest h = s.guest h := by
  induction fuel generalizing s with
  | zero => rfl
  | succ fuel ih =>
    unfold State.guestPump
    dsimp only
    split
    · rfl
    · split
      · rfl
      · rw [ih]
        refine (congrFun (State.guest_congr ((only_emit _ _).part .guests (by decide))) h).trans ?_
        rw [State.guest_setGuest, if_neg hh]

/-- A link whose one message has credit. -/
def Guest.sent (x : Guest) (c : Nat) (m : Msg) : Guest :=
  { x with queue := dropClass c x.queue, credits := setNum x.credits c (num x.credits c - 1),
           asked := if m.nonPosted then x.asked ++ [m] else x.asked }

theorem guestPump_one {s : State} {g c : Nat} {m : Msg} (hq : (s.guest g).queue = [m]) (hm : m.cls.toNat = c)
    (hc : 0 < num (s.guest g).credits c) : s.guestPump g c 1 = (s.setGuest g ((s.guest g).sent c m)).emit (.guestMsg g m) := by
  have hf : (s.guest g).queue.find? (fun m => m.cls.toNat = c) = some m := by
    rw [hq, List.find?_cons_of_pos (by simpa using hm)]
  rw [State.guestPump, hf]
  dsimp only
  rw [if_neg (by omega)]
  rfl

/-- R230: the link with its credits returned. -/
def Guest.credited (x : Guest) (c n : Nat) : Guest := { x with credits := setNum x.credits c (num x.credits c + n) }

theorem creditReturn_eq {s : State} {g : Nat} (c n : Nat) (h : s.guestState g = gsNegotiated ∨ s.guestState g = gsEnabled) :
    creditReturn g c n s = (s.setGuest g ((s.guest g).credited c n)).guestPump g c (s.guest g).queue.length := by
  refine if_pos ?_
  rcases h with h | h
  · rw [h]; rfl
  · rw [State.guestUp, h]; rfl

theorem creditReturn_facts {s : State} {g : Nat} (c : BitVec 2) (n : Nat) (h : s.guestState g = gsNegotiated ∨ s.guestState g = gsEnabled)
    (t : State) (ht : t = creditReturn g c.toNat n s) : Only [.out, .guests] [] s t ∧ (∀ h, h ≠ g → t.guest h = s.guest h) ∧
      ((∀ m, m ∈ (s.guest g).queue → m.cls ≠ c) → t.out = s.out ∧ (t.guest g).queue = (s.guest g).queue ∧
        num (t.guest g).credits c.toNat = num (s.guest g).credits c.toNat + n) ∧
      (∀ m, (s.guest g).queue = [m] → m.cls = c → 0 < n → t.out = .guestMsg g m :: s.out ∧ (t.guest g).queue = [] ∧
        num (t.guest g).credits c.toNat + 1 = num (s.guest g).credits c.toNat + n ∧
        (t.guest g).asked = if m.nonPosted then (s.guest g).asked ++ [m] else (s.guest g).asked) := by
  rw [creditReturn_eq c.toNat n h] at ht
  have hself : (s.setGuest g ((s.guest g).credited c.toNat n)).guest g = (s.guest g).credited c.toNat n := by
    rw [State.guest_setGuest, if_pos rfl]
  have hnum : num ((s.guest g).credited c.toNat n).credits c.toNat = num (s.guest g).credits c.toNat + n := by
    rw [Guest.credited, num_setNum, if_pos rfl]
  refine ⟨?_, fun k hk => ?_, fun hq => ?_, fun m hq hm hn => ?_⟩
  · rw [ht]
    exact ((only_setGuest s g _).mono (by decide) (List.Subset.refl _)).trans (only_guestPump _ _ _ _)
  · rw [ht, guest_guestPump_ne _ _ _ _ _ hk, State.guest_setGuest, if_neg hk]
  · rw [guestPump_none _ (by rw [hself]; exact fun m hm hc => hq m hm (BitVec.eq_of_toNat_eq hc))] at ht
    rw [ht, hself]
    exact ⟨rfl, rfl, hnum⟩
  · rw [hq, List.length_singleton, guestPump_one (m := m) (by rw [hself]; exact hq) (by rw [hm]) (by rw [hself, hnum]; omega), hself] at ht
    have hg : t.guest g = ((s.guest g).credited c.toNat n).sent c.toNat m := by
      rw [ht]
      refine (congrFun (State.guest_congr ((only_emit _ _).part .guests (by decide))) g).trans ?_
      rw [State.guest_setGuest, if_pos rfl]
    refine ⟨by rw [ht, out_emit]; rfl, ?_, ?_, by rw [hg]; rfl⟩
    · rw [hg]
      show dropClass c.toNat (s.guest g).queue = []
      rw [hq, dropClass, if_pos (by rw [hm])]
    · rw [hg, Guest.sent, num_setNum, if_pos rfl, hnum]
      omega

/-! ### Loss of the link (R231) -/

/-- Registers of a gateway are out of reach of an answer. -/
theorem answerTouches_guest {r : Reg} (h : answerTouches r) (g a : Nat) (h1 : 0x240000 ≤ a) (h2 : a < 0x240100) :
    r.off ≠ blk (guestDie g) + a := by
  cases r with
  | fabStat d => rw [Reg.fabStat_off, blk, blk]; omega
  | fabDiscard d => rw [Reg.fabDiscard_off, blk, blk]; omega
  | ctrVal u n =>
    rw [Reg.ctrVal_off]
    unfold unitVals coreBlk portBlk blk
    change n < unitCtrs u at h
    unfold unitCtrs at h
    split_ifs at h ⊢ <;> omega
  | _ => exact h.elim

theorem answers_guestDrop {s0 : State} (s : State) (g : Nat) (m : Msg) (h : RegsBut answerTouches s0 s) :
    RegsBut answerTouches s0 (s.guestDrop g m) := by
  unfold State.guestDrop
  dsimp only
  split
  · exact answers_answerLost s _ _ m h
  · split
    · exact ((h.countF (r := .fabDiscard (guestDie g)) (by trivial) 0 32 1).setBit (r := .fabStat (guestDie g)) (by trivial) 0).log ..
    · exact h

/-- The link of gateway g cut: its own state is gone. -/
def State.linkCut (s : State) (g : Nat) : State :=
  (((s.setGuest g { lost := true }).clrBit (.voyGctl g) 31).setBit (.voyGstat g) 0).setGuestState g gsDown

/-- The messages that wait for the guest are answered or dropped. -/
def State.guestDropAll (s : State) (g : Nat) (ms : List Msg) : State := ms.foldl (fun s m => s.guestDrop g m) s

/-- The record no longer shows the guest. -/
def State.guestAbsent (s : State) (g : Nat) : State :=
  if nbit s.guestPresent g then { s with guestPresent := s.guestPresent - 2 ^ g, fpDirty := true } else s

theorem guestLost_eq (s : State) (g : Nat) : s.guestLost g =
    (((s.linkCut g).raise (srcIo (guestDie g - 8) 1)).guestDropAll g ((s.guest g).asked ++ (s.guest g).queue)).guestAbsent g := rfl

theorem linkCut_facts (s : State) (g : Nat) : (s.linkCut g).guestState g = gsDown ∧ (s.linkCut g).regBit (.voyGctl g) 31 = false ∧
    (s.linkCut g).regBit (.voyGstat g) 0 = true ∧ (s.linkCut g).guest g = { lost := true } := by
  have hregs : Only [] [.voyGctl, .voyGstat] (s.setGuest g { lost := true }) (s.linkCut g) :=
    only_State_setGuestState _ g _ (only_State_setBit _ _ _ (only_State_clrBit _ _ _ (Only.refl _) (List.elem_iff.mp rfl))
      (List.elem_iff.mp rfl)) (by decide)
  refine ⟨guestState_setGuestState _ g _, ?_, ?_, ?_⟩
  · rw [State.linkCut, State.setGuestState, State.regBit_setF_ne _ _ _ _ _ _ _ (voyGctl_ne_voyGstat g), State.setBit,
      State.regBit_setF_ne _ _ _ _ _ _ _ (voyGctl_ne_voyGstat g)]
    exact regBit_clrBit_self _ _ _ (by decide)
  · rw [State.linkCut, State.setGuestState, State.regBit_setF_apart _ _ _ _ _ _ (by decide) (by decide)]
    exact regBit_setBit_self _ _ _ (by decide)
  · rw [State.guest_congr (hregs.part .guests (by decide)), State.guest_setGuest, if_pos rfl]

theorem only_guestDropAll (s : State) (g : Nat) (ms : List Msg) : Only [.out, .ports, .reqs, .ic, .flog0, .flog1, .mbox, .lists]
    [.fabStat, .fabDiscard, .ctrVal] s (s.guestDropAll g ms) :=
  Only.fold _ ms s (Only.refl s) fun x m hx => only_State_guestDrop x g m hx (by decide) (by decide)

theorem answers_guestDropAll (s : State) (g : Nat) (ms : List Msg) : RegsBut answerTouches s (s.guestDropAll g ms) :=
  foldl_keeps (fun x => RegsBut answerTouches s x) _ ms s (RegsBut.refl s) fun x m _ hx => answers_guestDrop x g m hx

theorem only_guestAbsent (s : State) (g : Nat) : Only [.guestPresent, .fpDirty] [] s (s.guestAbsent g) := by
  unfold State.guestAbsent
  split
  · exact Only.upd_guestPresent_fpDirty (Only.refl s) (by decide) (by decide)
  · exact (Only.refl s).mono (List.nil_subset _) (List.Subset.refl _)

theorem guestAbsent_present {s : State} {g : Nat} (h : nbit s.guestPresent g = true) :
    nbit (s.guestAbsent g).guestPresent g = false ∧ (s.guestAbsent g).fpDirty = true := by
  rw [State.guestAbsent, if_pos h]
  refine ⟨?_, rfl⟩
  have hp : nbit (2 ^ g) g = true := by rw [nbit_two_pow, decide_eq_true rfl]
  have hle : 2 ^ g ≤ s.guestPresent := by
    rw [nbit_testBit] at h
    exact Nat.ge_two_pow_of_testBit h
  show nbit (s.guestPresent - 2 ^ g) g = false
  rw [nbit_sub _ _ _ hle fun j hj => by
    rw [nbit_two_pow] at hj
    rw [of_decide_eq_true hj]
    exact h, h, hp]
  rfl

/-- R231: what the loss of an enabled link leaves. -/
theorem guestLost_facts (s : State) (g : Nat) (t : State) (ht : t = s.guestLost g) :
    t.guestState g = gsDown ∧ t.regBit (.voyGctl g) 31 = false ∧ t.regBit (.voyGstat g) 0 = true ∧
      t.guest g = { lost := true } ∧ (nbit s.guestPresent g = true → nbit t.guestPresent g = false ∧ t.fpDirty = true) ∧
      ((s.guest g).asked = [] → (s.guest g).queue = [] → t.out = s.out ∧ t.flog0 = s.flog0) := by
  obtain ⟨hstate, hctl, hbit, hguest⟩ := linkCut_facts s g
  have hcut : Only [.guests] [.voyGctl, .voyGstat] s (s.linkCut g) :=
    only_State_setGuestState _ g _ (only_State_setBit _ _ _ (only_State_clrBit _ _ _ (only_State_setGuest s g _ (Only.refl s) (by decide))
      (List.elem_iff.mp rfl)) (List.elem_iff.mp rfl)) (by decide)
  have hraise := only_raise (s.linkCut g) (srcIo (guestDie g - 8) 1)
  have hdrop := only_guestDropAll ((s.linkCut g).raise (srcIo (guestDie g - 8) 1)) g ((s.guest g).asked ++ (s.guest g).queue)
  have hregs := answers_guestDropAll ((s.linkCut g).raise (srcIo (guestDie g - 8) 1)) g ((s.guest g).asked ++ (s.guest g).queue)
  have hlast := only_guestAbsent (((s.linkCut g).raise (srcIo (guestDie g - 8) 1)).guestDropAll g
    ((s.guest g).asked ++ (s.guest g).queue)) g
  rw [← guestLost_eq, ← ht] at hlast
  have hreg : ∀ q : Reg, ∀ a, q.off = blk (guestDie g) + a → 0x240000 ≤ a → a < 0x240100 → t.reg q = (s.linkCut g).reg q :=
    fun q a hq h1 h2 => (hlast.reg_eq q).trans ((hregs.reg q fun r hr => by rw [hq]; exact (answerTouches_guest hr g a h1 h2).symm).trans
      (hraise.reg_eq q))
  have hgstat := hreg _ _ (Reg.voyGstat_off g) (by decide) (by decide)
  have hgctl := hreg _ _ (Reg.voyGctl_off g) (by decide) (by decide)
  refine ⟨?_, ?_, ?_, ?_, fun hp => ?_, fun ha hq => ?_⟩
  · rw [State.guestState, State.regF_congr hgstat]
    exact hstate
  · rw [State.regBit_congr hgctl, hctl]
  · rw [State.regBit_congr hgstat, hbit]
  · rw [State.guest_congr (hlast.part .guests (by decide)), State.guest_congr (hdrop.part .guests (by decide)),
      State.guest_congr (hraise.part .guests (by decide)), hguest]
  · rw [ht, guestLost_eq]
    refine guestAbsent_present ?_
    rw [hdrop.part .guestPresent (by decide), hraise.part .guestPresent (by decide), hcut.part .guestPresent (by decide)]
    exact hp
  · rw [ha, hq] at hlast
    exact ⟨(hlast.part .out (by decide)).trans ((hraise.part .out (by decide)).trans (hcut.part .out (by decide))),
      (hlast.part .flog0 (by decide)).trans ((hraise.part .flog0 (by decide)).trans (hcut.part .flog0 (by decide)))⟩

/-! ### Retraining (Table 9-8, step 1) -/

/-- The gateway as training begins, its registers still to be cleared. -/
def State.trainingBegun (s : State) (g : Nat) : State :=
  (((s.setReg (.voyGstat g) (BitVec.ofNat 64 (gsTraining * 2 ^ 28 + s.regF (.voyGstat g) 0 14))).clrBit (.voyGctl g) 31).setGuest g
    { trainingSince := some s.now, lost := (s.guest g).lost })

/-- The registers of both structures cleared. -/
def State.capsCleared (s : State) (g : Nat) : State :=
  (List.range 8).foldl (fun s i => (s.setReg (.voyLocal g i) 0).setReg (.voyPeer g i) 0) s

theorem guestTrain_eq {s : State} {g : Nat} (h1 : diePresent s.fuses (guestDie g) = true) (h2 : s.dieLost (guestDie g) = false) :
    s.guestTrain g = (s.trainingBegun g).capsCleared g := if_pos (by rw [h1, h2]; rfl)

theorem only_capsCleared (s : State) (g : Nat) : Only [] [.voyLocal, .voyPeer] s (s.capsCleared g) :=
  Only.fold _ _ s (Only.refl s) fun x i hx => only_State_setReg _ (.voyPeer g i) 0 (List.elem_iff.mp rfl)
    (only_State_setReg x (.voyLocal g i) 0 (List.elem_iff.mp rfl) hx)

theorem reg_capsCleared_ne (s : State) (g : Nat) {q : Reg} (h1 : ∀ i, q.off ≠ (Reg.voyLocal g i).off)
    (h2 : ∀ i, q.off ≠ (Reg.voyPeer g i).off) : (s.capsCleared g).reg q = s.reg q :=
  foldl_reading (fun x : State => x.reg q) _ (List.range 8) s fun x i _ => by
    rw [State.reg_setReg_ne _ _ _ _ (h2 i), State.reg_setReg_ne _ _ _ _ (h1 i)]

theorem reg_setReg_zero {s : State} {q : Reg} (r : Reg) (h : s.reg q = 0) : (s.setReg r 0).reg q = 0 := by
  rw [State.reg_setReg]
  split
  · rfl
  · exact h

theorem reg_capsCleared (s : State) (g i : Nat) (hi : i < 8) :
    (s.capsCleared g).reg (.voyLocal g i) = 0 ∧ (s.capsCleared g).reg (.voyPeer g i) = 0 :=
  foldl_establishes (fun i (x : State) => x.reg (.voyLocal g i) = 0 ∧ x.reg (.voyPeer g i) = 0) _ (List.range 8) s
    (fun x _ _ => ⟨reg_setReg_zero _ (State.reg_setReg_same x _ _), State.reg_setReg_same _ _ _⟩)
    (fun _ _ _ _ _ h => ⟨reg_setReg_zero _ (reg_setReg_zero _ h.1), reg_setReg_zero _ (reg_setReg_zero _ h.2)⟩) i (List.mem_range.2 hi)

/-- A new VOY_GSTAT shows that the link trains. -/
theorem getF_training {r : Nat} (hr : r < 2 ^ 14) : getF (BitVec.ofNat 64 (gsTraining * 2 ^ 28 + r)) 28 4 = gsTraining := by
  unfold getF gsTraining
  rw [BitVec.toNat_ofNat, Nat.mod_eq_of_lt (by omega)]
  omega

theorem trainingBegun_facts (s : State) (g : Nat) : (s.trainingBegun g).guestState g = gsTraining ∧
    (s.trainingBegun g).regBit (.voyGctl g) 31 = false ∧
    (s.trainingBegun g).guest g = { trainingSince := some s.now, lost := (s.guest g).lost } := by
  refine ⟨?_, ?_, ?_⟩
  · rw [State.guestState, State.regF, State.trainingBegun, State.reg_setGuest, State.clrBit,
      State.reg_setF_ne _ _ _ _ _ _ (voyGctl_ne_voyGstat g).symm, State.reg_setReg_same]
    exact getF_training (State.regF_lt _ _ _ _)
  · rw [State.trainingBegun, State.regBit, State.regF, State.reg_setGuest]
    exact regBit_clrBit_self _ _ _ (by decide)
  · rw [State.trainingBegun, State.guest_setGuest, if_pos rfl]

theorem guestTrain_facts {s : State} {g : Nat} (h1 : diePresent s.fuses (guestDie g) = true) (h2 : s.dieLost (guestDie g) = false)
    (t : State) (ht : t = s.guestTrain g) : t.guestState g = gsTraining ∧ t.regBit (.voyGctl g) 31 = false ∧
      t.guest g = { trainingSince := some s.now, lost := (s.guest g).lost } ∧
      ∀ i, i < 8 → t.reg (.voyLocal g i) = 0 ∧ t.reg (.voyPeer g i) = 0 := by
  obtain ⟨hstate, hctl, hguest⟩ := trainingBegun_facts s g
  have ho := only_capsCleared (s.trainingBegun g) g
  rw [guestTrain_eq h1 h2] at ht
  rw [ht]
  refine ⟨?_, ?_, ?_, fun i hi => reg_capsCleared _ g i hi⟩
  · rw [State.guestState, State.regF_congr (reg_capsCleared_ne _ g (voyGstat_ne_voyLocal g) (voyGstat_ne_voyPeer g))]
    exact hstate
  · rw [State.regBit_congr (reg_capsCleared_ne _ g (voyGctl_ne_voyLocal g) (voyGctl_ne_voyPeer g)), hctl]
  · rw [State.guest_congr (ho.part .guests (by decide)), hguest]

theorem only_guestLost (s : State) (g : Nat) : Only [.out, .fpDirty, .guestPresent, .ports, .guests, .reqs, .ic, .flog0, .flog1,
    .mbox, .lists] [.fabStat, .fabDiscard, .voyGctl, .voyGstat, .ctrVal] s (s.guestLost g) :=
  only_State_guestLost s g (Only.refl s) (by decide) (by decide)

/-- RESET_LINK on a die that is there: an enabled link is lost first. -/
theorem resetLink_facts {s : State} {g : Nat} (h1 : diePresent s.fuses (guestDie g) = true) (h2 : s.dieLost (guestDie g) = false)
    (t : State) (ht : t = resetLink g s) : t.guestState g = gsTraining ∧ t.regBit (.voyGctl g) 31 = false ∧
      t.guest g = { trainingSince := some s.now, lost := decide (s.guestState g = gsEnabled) || (s.guest g).lost } ∧
      ∀ i, i < 8 → t.reg (.voyLocal g i) = 0 ∧ t.reg (.voyPeer g i) = 0 := by
  unfold resetLink at ht
  by_cases he : s.guestState g = gsEnabled
  · rw [if_pos (show s.guestUp g = true from decide_eq_true he)] at ht
    have ho := only_guestLost s g
    have hd : (s.guestLost g).dieLost (guestDie g) = false := by
      rw [State.dieLost, State.dom_congr (ho.part .domains (by decide))]
      exact h2
    obtain ⟨hstate, hctl, hguest, hregs⟩ := guestTrain_facts (s := s.guestLost g) (by rw [ho.make]; exact h1) hd t ht
    obtain ⟨-, -, -, hlost, -⟩ := guestLost_facts s g _ rfl
    refine ⟨hstate, hctl, ?_, hregs⟩
    rw [hguest, hlost, ho.part .now (by decide), decide_eq_true he]
    rfl
  · rw [if_neg (show ¬ s.guestUp g = true from fun h => he (of_decide_eq_true h))] at ht
    rw [decide_eq_false he]
    exact guestTrain_facts h1 h2 t ht

/-! ### The obligation -/

/-- Settles O55: each command by the fields of VOY_GSTAT and VOY_GCTL that it writes and the link it leaves. -/
theorem guestLinksNegotiateAndFail : Obligations.GuestLinksNegotiateAndFail := by
  unfold Obligations.GuestLinksNegotiateAndFail
  refine ⟨fun guest rate x64 s h1 h2 h3 => ?up, fun guest since s h1 h2 h3 h4 => ?timeout, fun guest c s h1 h2 hc => ?cap,
    fun guest tenant s => ?enable, fun guest cls count s h => ?credit, fun guest s h => ?down, fun guest s h1 h2 => ?reset⟩
  case up =>
    have he : exec (.guestLinkUp guest rate x64) s = .next (guestLinkUp guest.val rate.toNat x64 s) := rfl
    have hu := guestLinkUp_eq rate.toNat x64 h1 h2 h3
    obtain ⟨hrate, hwide, hstate, hsent, hout, hregs⟩ := linkUp_facts s guest.val rate.toNat x64 s.ownCap rate.isLt _ hu
    obtain ⟨hlen, hmagic⟩ := ownCap_facts s
    exact ⟨_, s.ownCap, he, Only.ofExec (only_execGuestLinkUp guest rate x64 s) he, hrate, hwide, hstate.trans h2, hsent, hout, hlen,
      hmagic, hregs⟩
  case timeout =>
    have he : exec (.guestTrainingTimeout guest) s = .next (guestTrainingTimeout guest.val s) := rfl
    rw [guestTrainingTimeout_eq h1 h2 h3 h4] at he
    have hs := only_setGuestState s guest.val gsNone
    refine ⟨_, he, Only.ofExec (only_execGuestTrainingTimeout guest s) he, ?_, ?_, fun h hh => ?_⟩
    · rw [State.guestState, State.regF, State.reg_setGuest]
      exact guestState_setGuestState s _ _
    · rw [State.guest_setGuest, if_pos rfl]
    · rw [State.guest_setGuest, if_neg hh, State.guest_congr (hs.part .guests (by decide))]
  case cap =>
    have he : exec (.cap guest c) s = .next (capArrives guest.val c s) := rfl
    exact ⟨_, he, Only.ofExec (only_execCap guest c s) he, capArrives_facts h1 h2 hc _ rfl⟩
  case enable =>
    have he : exec (.guestEnable guest tenant) s = .next (s.gctlFields guest.val (2 ^ 31 + tenant.toNat)) := rfl
    exact ⟨_, he, guestEnable_facts s guest.val tenant.toNat tenant.isLt _ rfl⟩
  case credit =>
    have he : exec (.credit guest cls count) s = .next (creditReturn guest.val cls.toNat count.toNat s) := rfl
    exact ⟨_, he, creditReturn_facts cls count.toNat h _ rfl⟩
  case down =>
    have he : exec (.guestLinkDown guest) s = .next (guestLinkDown guest.val s) := rfl
    rw [guestLinkDown, if_pos (show s.guestUp guest.val = true from decide_eq_true h)] at he
    exact ⟨_, he, only_guestLost s guest.val, guestLost_facts s guest.val _ rfl⟩
  case reset =>
    have he : exec (.resetLink guest) s = .next (resetLink guest.val s) := rfl
    exact ⟨_, he, Only.ofExec (only_execResetLink guest s) he, resetLink_facts h1 h2 _ rfl⟩

end Sys2Proof.Machine
end

section
/-! Messages to memory of their own package, their answers, responses and timeouts (R209 to R221). -/

namespace Sys2Proof.Machine

/-! ### A message comes to its target -/

/-- What `Claims.inside` says, with the die of the source. -/
theorem inside_die {s : State} {m : Msg} (h : Claims.inside s m = true) : s.running = true ∧ m.srcPkg.toNat = s.pkgId ∧
    m.dstPkg.toNat = s.pkgId ∧ guestOf m.srcNode.toNat = none ∧
    ∃ d, nodeDie m.srcNode.toNat = some d ∧ s.dieLost d = false := by
  simp only [Claims.inside, Bool.and_eq_true, decide_eq_true_eq] at h
  obtain ⟨⟨⟨⟨hrun, hsrc⟩, hdst⟩, hg⟩, hd⟩ := h
  refine ⟨hrun, hsrc, hdst, Option.isNone_iff_eq_none.1 hg, ?_⟩
  cases hn : nodeDie m.srcNode.toNat with
  | none => rw [hn] at hd; cases hd
  | some d =>
    rw [hn] at hd
    exact ⟨d, rfl, by simpa using hd⟩

theorem enter_inside {s : State} {m : Msg} (h : Claims.inside s m = true) :
    ∃ d, nodeDie m.srcNode.toNat = some d ∧ s.enter m = if m.isRsp then s.sink m else if m.cls = 3 then s else s.serve d m := by
  obtain ⟨hrun, hsrc, hdst, hg, d, hd, hl⟩ := inside_die h
  refine ⟨d, hd, ?_⟩
  have harr : s.enter m = s.arrive d m := by
    unfold State.enter
    rw [if_neg (by rw [hrun]; decide), if_neg (by simpa using hsrc), hg]
    dsimp only
    rw [hd]
    exact if_neg (by rw [hl]; exact Bool.false_ne_true)
  rw [harr, State.arrive, if_neg (by simpa using hdst)]

/-- R222: a request or write to memory that its source's crossbar reaches is performed. -/
theorem enter_memory {s : State} {m : Msg} (h : Claims.toMemory s m = true) (hc : m.cls = 1 ∨ m.cls = 2) :
    ∃ d, s.enter m = s.perform d m.addr.toNat m := by
  simp only [Claims.toMemory, Bool.and_eq_true, decide_eq_true_eq] at h
  obtain ⟨⟨⟨hin, hun⟩, h3f⟩, -⟩ := h
  obtain ⟨d, hd, he⟩ := enter_inside hin
  obtain ⟨-, hsrc, -, -, -⟩ := inside_die hin
  refine ⟨d, ?_⟩
  have hreach : s.unreached d m.addr.toNat = false := by
    rw [hd] at hun
    simpa using hun
  have h0 : m.isRsp = false := by
    unfold Msg.isRsp
    rcases hc with hc | hc <;> rw [hc] <;> decide
  have hn3 : ¬ m.cls = 3 := by
    rcases hc with hc | hc <;> rw [hc] <;> decide
  rw [he, h0, if_neg Bool.false_ne_true, if_neg hn3]
  unfold State.serve State.msgAddr
  rw [if_pos hsrc]
  dsimp only
  rw [if_neg (by simp only [Bool.and_eq_true, decide_eq_true_eq]; exact fun h => h3f h.1)]
  dsimp only
  rw [hreach, if_neg Bool.false_ne_true]

/-! ### Answers -/

/-- R218: an answer to a node of this package that waits for nothing under its tag leaves as an RSP. -/
theorem sendRsp_unasked {s u : State} {m r : Msg} (hsrc : m.srcPkg.toNat = s.pkgId) (hg : guestOf m.srcNode.toNat = none)
    (hu : Claims.unasked s m = true) (hreqs : u.reqs = s.reqs) (hstraps : u.straps = s.straps) (hpkg : r.dstPkg = m.srcPkg)
    (haddr : r.addr = m.srcNode.setWidth 48) (htag : r.tag = m.tag) (die : Nat) : u.sendRsp die r = u.emit (.rsp r) := by
  have hdst : r.dstPkg.toNat = u.pkgId := by
    rw [hpkg, hsrc, State.pkgId, State.pkgId, hstraps]
  have ha : r.addr.toNat % 256 = m.srcNode.toNat := by
    have := m.srcNode.isLt
    rw [haddr, BitVec.toNat_setWidth]
    omega
  have hnone : u.reqOf r = none := by
    rw [State.reqOf, hreqs, List.find?_eq_none]
    intro q hq
    have hun := List.all_eq_true.1 hu q hq
    rw [ha, htag]
    intro hc
    rw [hc] at hun
    exact absurd hun (by decide)
  rw [State.sendRsp, if_pos hdst, ha, hg]
  dsimp only
  rw [State.respond, if_pos hdst, State.deliverRsp, hnone]

theorem reply_unasked {s u : State} {m : Msg} (hsrc : m.srcPkg.toNat = s.pkgId) (hg : guestOf m.srcNode.toNat = none)
    (hu : Claims.unasked s m = true) (hreqs : u.reqs = s.reqs) (hstraps : u.straps = s.straps)
    (die node op status len : Nat) (payload : List Byte) : u.reply die node m op status len payload =
      u.emit (.rsp (m.reply s.pkgId node op status len payload)) := by
  have hp : u.pkgId = s.pkgId := by rw [State.pkgId, State.pkgId, hstraps]
  rw [State.reply, hp]
  exact sendRsp_unasked (r := m.reply s.pkgId node op status len payload) hsrc hg hu hreqs hstraps rfl rfl rfl die

/-! ### Accesses to memory -/

/-- A write that leaves the stores. -/
theorem Stored.memory {s t : State} {Ps : List Piece} {Ks : List RegKind} (h : Stored s t) (k : Only Ps Ks s t)
    (hs : .stores ∉ Ps) : Only [.mem, .checks] [.ctrVal] s t :=
  ⟨h.only.make, fun p hp => by
    by_cases hc : p = .stores
    · exact hc ▸ k.part .stores hs
    · refine h.only.part p fun hm => ?_
      simp only [List.mem_cons, List.not_mem_nil, or_false] at hm hp
      tauto, h.only.reg⟩

section
variable {s : State} {a : Nat} (h3f : a / 2 ^ 40 ≠ 0x3F) (h20 : a / 2 ^ 40 ≠ 0x20)
include h3f h20

theorem serveRead_memory (n node tenant : Nat) (h : Claims.sound s a n = true) :
    s.serveRead a n node tenant = ⟨s, rspOk, rdBytes s.mem a n⟩ := by
  rw [State.serveRead, if_neg h3f, if_neg h20, readMem_sound tenant node h]
  rfl

theorem serveWrite_memory (bs : List Byte) (node tenant : Nat) (posted : Bool) (h : Claims.sound s a bs.length = true)
    (hq : Claims.quiet s = true) : (s.serveWrite a bs node tenant posted).status = rspOk ∧
      Only [.mem, .checks] [.ctrVal] s (s.serveWrite a bs node tenant posted).s ∧ Claims.stored s (s.serveWrite a bs node tenant posted).s a bs := by
  cases bs with
  | nil =>
    refine ⟨rfl, (Only.refl s).mono (List.nil_subset _) (List.nil_subset _), fun b => ?_⟩
    rw [if_neg (by simp)]
    rfl
  | cons b bs =>
    obtain ⟨hok, hst, hold⟩ := writeMem_sound tenant node (b :: bs) h hq
    have he : s.serveWrite a (b :: bs) node tenant posted =
        ⟨(s.writeMem a tenant node (b :: bs)).1, (s.writeMem a tenant node (b :: bs)).2.rsp, []⟩ := by
      rw [State.serveWrite, if_neg (by simp), if_neg h3f, if_neg h20]
    rw [he, hok]
    exact ⟨rfl, hst.memory (only_State_writeMem s a tenant node (b :: bs) (Only.refl s) (List.Subset.refl _) (List.Subset.refl _))
      (by decide), stored_of_holds hold⟩

end

/-! ### The five requests -/

/-- What `Claims.toMemory` says of the address. -/
theorem toMemory_addr {s : State} {m : Msg} (h : Claims.toMemory s m = true) : Claims.inside s m = true ∧
    m.addr.toNat / 2 ^ 40 ≠ 0x3F ∧ m.addr.toNat / 2 ^ 40 ≠ 0x20 := by
  simp only [Claims.toMemory, Bool.and_eq_true, decide_eq_true_eq] at h
  exact ⟨h.1.1.1, h.1.2, h.2⟩

theorem enter_write {s : State} {m : Msg} (hm : Claims.toMemory s m = true) (h1 : m.cls = 1) (h0 : m.op = 0) (h : Claims.sound s m.addr.toNat m.data.length = true)
    (hq : Claims.quiet s = true) : Only [.mem, .checks] [.ctrVal] s (s.enter m) ∧ Claims.stored s (s.enter m) m.addr.toNat m.data := by
  obtain ⟨-, h3f, h20⟩ := toMemory_addr hm
  obtain ⟨d, he⟩ := enter_memory hm (Or.inl h1)
  obtain ⟨hok, ho, hs⟩ := serveWrite_memory h3f h20 m.data m.srcNode.toNat m.tenant.toNat m.posted h hq
  have hn : m.nonPosted = false := by rw [Msg.nonPosted, h1, h0]; rfl
  have : s.enter m = (s.serveWrite m.addr.toNat m.data m.srcNode.toNat m.tenant.toNat m.posted).s := by
    rw [he, State.perform]
    dsimp only
    rw [if_neg (by rw [h1]; decide), if_pos (by rw [h0]; rfl), if_neg (fun hc => hc hok), hn, if_neg Bool.false_ne_true]
  rw [this]
  exact ⟨ho, hs⟩

section
variable {s : State} {m : Msg} (hm : Claims.toMemory s m = true) (hu : Claims.unasked s m = true)
include hm hu

/-- R218: the answer of the message's target. -/
theorem reply_toMemory {u : State} (hreqs : u.reqs = s.reqs) (hstraps : u.straps = s.straps) (die node op status len : Nat)
    (payload : List Byte) : u.reply die node m op status len payload = u.emit (.rsp (m.reply s.pkgId node op status len payload)) := by
  obtain ⟨-, hsrc, -, hg, -⟩ := inside_die (toMemory_addr hm).1
  exact reply_unasked hsrc hg hu hreqs hstraps die node op status len payload

theorem enter_read (h2 : m.cls = 2) (h0 : m.op = 0) (h : Claims.sound s m.addr.toNat m.bytes = true) :
    s.enter m = s.emit (.rsp (m.reply s.pkgId (Claims.target s m.addr.toNat) 0 0 m.len.toNat
      (if m.len = 1 then pad64 m.addr.toNat (rdBytes s.mem m.addr.toNat m.bytes) else rdBytes s.mem m.addr.toNat m.bytes))) := by
  obtain ⟨-, h3f, h20⟩ := toMemory_addr hm
  obtain ⟨d, he⟩ := enter_memory hm (Or.inr h2)
  rw [he, State.perform]
  dsimp only
  rw [if_pos h2, if_pos h0, serveRead_memory h3f h20 _ _ _ h, if_pos rfl]
  exact reply_toMemory hm hu rfl rfl _ _ _ _ _ _

theorem enter_add (h2 : m.cls = 2) (h1 : m.op = 1) (h : Claims.sound s m.addr.toNat 8 = true) (hq : Claims.quiet s = true) :
    ∃ u, s.enter m = u.emit (.rsp { m.reply s.pkgId (Claims.target s m.addr.toNat) 1 0 1
        (pad64 m.addr.toNat (rdBytes s.mem m.addr.toNat 8)) with count := 7 }) ∧ Only [.mem, .checks] [.ctrVal] s u ∧
      Claims.stored s u m.addr.toNat (leBytes 8 ((rdLe s.mem m.addr.toNat 8 + leNat (m.data.take 8)) % 2 ^ 64)) := by
  obtain ⟨hin, h3f, h20⟩ := toMemory_addr hm
  obtain ⟨-, hsrc, -, hg, -⟩ := inside_die hin
  obtain ⟨d, he⟩ := enter_memory hm (Or.inr h2)
  obtain ⟨hok, ho, hs⟩ := serveWrite_memory h3f h20 (leBytes 8 ((rdLe s.mem m.addr.toNat 8 + leNat (m.data.take 8)) % 2 ^ 64))
    m.srcNode.toNat m.tenant.toNat false (by rw [length_leBytes]; exact h) hq
  have hadd : s.serveAdd m.addr.toNat (leNat (m.data.take 8)) m.srcNode.toNat m.tenant.toNat =
      { s.serveWrite m.addr.toNat (leBytes 8 ((rdLe s.mem m.addr.toNat 8 + leNat (m.data.take 8)) % 2 ^ 64)) m.srcNode.toNat
          m.tenant.toNat false with data := rdBytes s.mem m.addr.toNat 8 } := by
    rw [State.serveAdd, serveRead_memory h3f h20 _ _ _ h]
    rfl
  refine ⟨_, ?_, ho, hs⟩
  rw [he, State.perform]
  dsimp only
  rw [if_pos h2, if_neg (by rw [h1]; decide), if_pos h1, hadd, if_pos hok]
  exact sendRsp_unasked (r := { m.reply s.pkgId (Claims.target s m.addr.toNat) 1 0 1
    (pad64 m.addr.toNat (rdBytes s.mem m.addr.toNat 8)) with count := 7 }) hsrc hg hu (ho.part .reqs (by decide))
    (ho.part .straps (by decide)) rfl rfl rfl d

theorem enter_writeNp (h1 : m.cls = 1) (h0 : m.op = 1) (h : Claims.sound s m.addr.toNat m.data.length = true)
    (hq : Claims.quiet s = true) : ∃ u, s.enter m = u.emit (.rsp (m.reply s.pkgId (Claims.target s m.addr.toNat) 1 0 0 [])) ∧
      Only [.mem, .checks] [.ctrVal] s u ∧ Claims.stored s u m.addr.toNat m.data := by
  obtain ⟨-, h3f, h20⟩ := toMemory_addr hm
  obtain ⟨d, he⟩ := enter_memory hm (Or.inl h1)
  obtain ⟨hok, ho, hs⟩ := serveWrite_memory h3f h20 m.data m.srcNode.toNat m.tenant.toNat m.posted h hq
  have hn : m.nonPosted = true := by rw [Msg.nonPosted, h1, h0]; rfl
  refine ⟨_, ?_, ho, hs⟩
  rw [he, State.perform]
  dsimp only
  rw [if_neg (by rw [h1]; decide), if_pos (by rw [h0]; rfl), if_neg (fun hc => hc hok), hn, if_pos rfl]
  exact reply_toMemory hm hu (ho.part .reqs (by decide)) (ho.part .straps (by decide)) _ _ _ _ _ _

theorem enter_fence (h1 : m.cls = 1) (h0 : m.op = 2) (h : (s.targetNode m.addr.toNat).isSome = true) :
    s.enter m = s.emit (.rsp (m.reply s.pkgId (Claims.target s m.addr.toNat) 1 0 0 [])) := by
  obtain ⟨d, he⟩ := enter_memory hm (Or.inl h1)
  rw [he, State.perform]
  dsimp only
  rw [if_neg (by rw [h1]; decide), if_neg (by rw [h0]; decide), if_pos h0, if_pos h]
  exact reply_toMemory hm hu rfl rfl _ _ _ _ _ _

end

theorem exec_msg (m : Msg) (s : State) :
    (m.cls = 2 → m.op = 0 → exec (.read (.msg m)) s = .next (s.enter m)) ∧
    (m.cls = 2 → m.op = 1 → exec (.atomicAdd m) s = .next (s.enter m)) ∧
    (m.cls = 1 → m.op = 0 → exec (.write m) s = .next (s.enter m)) ∧
    (m.cls = 1 → m.op = 1 → exec (.writeNp m) s = .next (s.enter m)) ∧
    (m.cls = 1 → m.op = 2 → exec (.fabricFence m) s = .next (s.enter m)) := by
  refine ⟨?_, ?_, ?_, ?_, ?_⟩ <;> exact fun h1 h2 => congrArg Host.Outcome.next (if_pos (by rw [h1, h2]; rfl))

/-! ### Responses (R218, R221) -/

theorem exec_rsp {m : Msg} {c : Instr} (s : State) (h : Claims.rspRow m = some c) : m.cls = 0 ∧ exec c s = .next (s.enter m) := by
  unfold Claims.rspRow at h
  split at h
  · cases h
  next hc =>
  have h0 : m.cls = 0 := not_not.1 hc
  refine ⟨h0, ?_⟩
  split at h
  next ho =>
    obtain rfl := Option.some.inj h
    exact congrArg Host.Outcome.next (if_pos (by rw [h0, ho]; rfl))
  next =>
    split at h
    next ho =>
      obtain rfl := Option.some.inj h
      exact congrArg Host.Outcome.next (if_pos (by rw [h0, ho]; rfl))
    next =>
      split at h
      next ho =>
        obtain rfl := Option.some.inj h
        exact congrArg Host.Outcome.next (if_pos (by rw [h0, ho]; rfl))
      next => cases h

/-- A response for a node of this package comes to the request it answers. -/
theorem enter_rsp {s : State} {m : Msg} {r : Req} (hin : Claims.inside s m = true) (h0 : m.cls = 0)
    (hg : guestOf (m.addr.toNat % 256) = none) (hr : s.reqOf m = some r) :
    s.enter m = if r.timedOut then s.lateRsp r else s.endRequest r m.status.toNat := by
  obtain ⟨d, -, he⟩ := enter_inside hin
  rw [he, if_pos (show m.isRsp = true from decide_eq_true h0), State.sink, hg]
  dsimp only
  rw [State.deliverRsp, hr]

/-- R218: the response space of a request is free. -/
def State.requestGone (s : State) (r : Req) : State :=
  { s with reqs := s.reqs.filter fun (x : Req) => !(x.node = r.node && x.tag = r.tag) }

/-- R221: a late response is counted and logged. -/
def State.lateCounted (u : State) (r : Req) : State :=
  ((u.countF (.fabDiscard ((nodeDie r.node).getD 8)) 0 32 1).setBit (.fabStat ((nodeDie r.node).getD 8)) 0)

theorem lateRsp_eq (s : State) (r : Req) : s.lateRsp r =
    if (nodeDie r.node).getD 8 < 8 then (((s.requestGone r).lateCounted r).log 0x0042 2 ((nodeDie r.node).getD 8) r.node r.tenant 3
      r.addr).raise (srcTower ((nodeDie r.node).getD 8) 4)
    else ((s.requestGone r).lateCounted r).log 0x0042 2 ((nodeDie r.node).getD 8) r.node r.tenant 3 r.addr := rfl

theorem only_raiseIf (u : State) (p : Prop) [Decidable p] (n : Nat) : Only [.ic] [] u (if p then u.raise n else u) := by
  split
  · exact only_raise u n
  · exact (Only.refl u).mono (List.nil_subset _) (List.Subset.refl _)

theorem lateRsp_facts (s : State) (r : Req) (t : State) (ht : t = s.lateRsp r) :
    t.reqs = s.reqs.filter (fun x => !(x.node = r.node && x.tag = r.tag)) ∧
    Only [.reqs, .ic, .flog0, .flog1] [.fabStat, .fabDiscard] s t ∧
    t.regF (.fabDiscard ((nodeDie r.node).getD 8)) 0 32 =
      min 0xFFFFFFFF (s.regF (.fabDiscard ((nodeDie r.node).getD 8)) 0 32 + 1) ∧
    Claims.logs s t (Claims.entry s 0x42 2 (dieField ((nodeDie r.node).getD 8)) r.node r.tenant 3 r.addr) := by
  have hgone : Only [.reqs] [] s (s.requestGone r) := Only.upd_reqs (Only.refl s) (by decide)
  have hcount : Only [] [.fabStat, .fabDiscard] (s.requestGone r) ((s.requestGone r).lateCounted r) :=
    only_State_setBit _ _ _ (only_State_countF _ _ _ _ _ (Only.refl _) (List.elem_iff.mp rfl)) (List.elem_iff.mp rfl)
  have hlog := only_log ((s.requestGone r).lateCounted r) 0x0042 2 ((nodeDie r.node).getD 8) r.node r.tenant 3 r.addr
  have hraise := only_raiseIf (((s.requestGone r).lateCounted r).log 0x0042 2 ((nodeDie r.node).getD 8) r.node r.tenant 3 r.addr)
    ((nodeDie r.node).getD 8 < 8) (srcTower ((nodeDie r.node).getD 8) 4)
  have ho : Only [.reqs, .ic, .flog0, .flog1] [.fabStat, .fabDiscard] s t :=
    ht ▸ only_State_lateRsp s r (Only.refl s) (List.Subset.refl _) (List.Subset.refl _)
  rw [← lateRsp_eq, ← ht] at hraise
  refine ⟨?_, ho, ?_, ?_⟩
  · rw [hraise.part .reqs (by decide), hlog.part .reqs (by decide), hcount.part .reqs (by decide)]
    rfl
  · have hd : (Reg.fabDiscard ((nodeDie r.node).getD 8)).off ≠ (Reg.fabStat ((nodeDie r.node).getD 8)).off := by
      rw [Reg.fabDiscard_off, Reg.fabStat_off]
      omega
    rw [State.regF_congr (hraise.reg_eq _), State.regF_congr (hlog.reg_eq _), State.lateCounted, State.setBit,
      State.regF_setF_ne _ _ _ _ _ _ _ _ hd, State.regF_countF _ _ _ _ _ (by decide), State.regF_congr (hgone.reg_eq _)]
    rfl
  · exact logs_after ((hcount.part .tb (by decide)).trans (hgone.part .tb (by decide)))
      ((hcount.part .flog0 (by decide)).trans (hgone.part .flog0 (by decide)))
      ((hcount.part .flog1 (by decide)).trans (hgone.part .flog1 (by decide)))
      (hraise.part .flog0 (by decide)) (hraise.part .flog1 (by decide))

theorem endRequest_none {r : Req} (s : State) (st : Nat) (h : r.op = none) : s.endRequest r st = s.requestGone r := by
  rw [State.endRequest, h]
  rfl

theorem endRequest_of_op {s : State} {r : Req} {id off : Nat} {l : WorkList} {o : Op} (st : Nat) (h : r.op = some (id, off))
    (hl : s.list? id = some l) (ho : s.op? id off = some o) (hs : o.stage ≠ .finished) : s.endRequest r st =
      if st ≠ 0 then (s.requestGone r).finishOp id off (rspToOp st) 0
      else if (s.requestGone r).reqs.any (fun x => x.op = some (id, off) && !x.timedOut) then s.requestGone r
      else if o.opcode = 0x11 && nbit (o.f 0x18 1) 1 then ((s.requestGone r).finishOp id off osOk 0).listEvent l off
      else (s.requestGone r).finishOp id off osOk 0 := by
  have hl1 : (s.requestGone r).list? id = some l := hl
  have ho1 : (s.requestGone r).op? id off = some o := ho
  unfold State.requestGone at hl1 ho1
  rw [State.endRequest, h]
  dsimp only
  rw [hl1, ho1]
  dsimp only
  rw [if_neg hs]
  rfl

/-- An answer to an operation that is gone, or that has ended, frees the space alone. -/
theorem endRequest_ended {s : State} {r : Req} {id off : Nat} (st : Nat) (h : r.op = some (id, off))
    (hs : ∀ o, s.op? id off = some o → o.stage = .finished) : s.endRequest r st = s.requestGone r := by
  have hop : (s.requestGone r).op? id off = s.op? id off := rfl
  unfold State.requestGone at hop
  rw [State.endRequest, h]
  dsimp only
  rw [hop]
  split
  next l o hl ho =>
    rw [if_pos (hs o ho)]
    rfl
  next => rfl

theorem endRequest_keeps (s : State) (r : Req) (st : Nat) :
    Only [.lists, .ic, .mbox] [] (s.requestGone r) (s.endRequest r st) := by
  have hgone : Only [.lists, .ic, .mbox] [] (s.requestGone r) (s.requestGone r) :=
    (Only.refl _).mono (List.nil_subset _) (List.Subset.refl _)
  cases h : r.op with
  | none => rw [endRequest_none s st h]; exact hgone
  | some p =>
    obtain ⟨id, off⟩ := p
    by_cases hs : ∀ o, s.op? id off = some o → o.stage = .finished
    · rw [endRequest_ended st h hs]
      exact hgone
    · simp only [not_forall] at hs
      obtain ⟨o, ho, hs⟩ := hs
      cases hl : s.list? id with
      | none => rw [State.op?, hl] at ho; cases ho
      | some l =>
        rw [endRequest_of_op st h hl ho hs]
        have hfin : ∀ status, Only [.lists, .ic, .mbox] [] (s.requestGone r) ((s.requestGone r).finishOp id off status 0) :=
          fun status => (only_finishOp _ id off status 0).mono (by decide) (List.Subset.refl _)
        split
        · exact hfin _
        · split
          · exact hgone
          · split
            · exact (hfin _).trans ((only_listEvent _ l off).mono (by decide) (List.Subset.refl _))
            · exact hfin _

/-- R218: an error status ends the operation, and the last good answer completes it. -/
theorem endRequest_op {s : State} {r : Req} {id off : Nat} {o : Op} {st : Nat} (h : r.op = some (id, off))
    (ho : s.op? id off = some o) (hs : o.stage ≠ .finished) :
    (st ≠ 0 → (s.endRequest r st).op? id off = some (o.ended (rspToOp st) 0)) ∧
    (st = 0 → (∀ x, x ∈ s.reqs → x.op = some (id, off) → x.timedOut = false → x.node = r.node ∧ x.tag = r.tag) →
      (s.endRequest r st).op? id off = some (o.ended osOk 0)) := by
  have hop : (s.requestGone r).op? id off = some o := ho
  cases hl : s.list? id with
  | none => rw [State.op?, hl] at ho; cases ho
  | some l =>
    rw [endRequest_of_op st h hl ho hs]
    refine ⟨fun hst => ?_, fun hst hlast => ?_⟩
    · rw [if_pos hst]
      exact State.op?_finishOp _ 0 hop hs
    · have hnone : (s.requestGone r).reqs.any (fun x => x.op = some (id, off) && !x.timedOut) = false := by
        rw [List.any_eq_false]
        intro x hx hc
        obtain ⟨hmem, hkeep⟩ := List.mem_filter.1 hx
        simp only [Bool.and_eq_true, decide_eq_true_eq, Bool.not_eq_true'] at hc
        obtain ⟨hn, htag⟩ := hlast x hmem hc.1 hc.2
        rw [hn, htag] at hkeep
        simp at hkeep
      rw [if_neg (not_not.2 hst), hnone, if_neg Bool.false_ne_true]
      have hdone := State.op?_finishOp osOk 0 hop hs
      split
      · rw [State.op?_congr ((only_listEvent _ l off).part .lists (by decide)), hdone]
      · exact hdone

/-! ### Timeouts (R221) -/

/-- The space of a request whose time is up stays reserved. -/
def State.requestLate (s : State) (node tag : Nat) : State :=
  { s with reqs := s.reqs.map fun (x : Req) => if x.node = node && x.tag = tag then { x with timedOut := true } else x }

/-- R221: a timeout is logged and told. -/
def State.timeoutTold (s : State) (node tag : Nat) (r : Req) : State :=
  let die := (nodeDie node).getD 8
  let u := (s.requestLate node tag).log 0x0041 2 die node r.tenant tag r.addr
  if die < 8 then u.raise (srcTower die 4) else u

theorem fabricTimeout_eq {s : State} {node tag : Nat} {r : Req}
    (hf : s.reqs.find? (fun r => r.node = node && r.tag = tag) = some r) (ht : r.timedOut = false)
    (hnow : r.since + 2000000 ≤ s.now) : fabricTimeout node tag s =
      match r.op with
      | some (id, off) => (s.timeoutTold node tag r).finishOp id off osFabricTimeout 0
      | none => s.timeoutTold node tag r := by
  rw [fabricTimeout, hf]
  dsimp only
  rw [if_neg (by rw [ht]; simp [hnow])]
  rfl

theorem timeoutTold_facts (s : State) (node tag : Nat) (r : Req) :
    (s.timeoutTold node tag r).reqs =
      s.reqs.map (fun x => if x.node = node && x.tag = tag then { x with timedOut := true } else x) ∧
    (s.timeoutTold node tag r).lists = s.lists ∧
    Claims.logs s (s.timeoutTold node tag r)
      (Claims.entry s 0x41 2 (dieField ((nodeDie node).getD 8)) node r.tenant tag r.addr) := by
  have hlate : Only [.reqs] [] s (s.requestLate node tag) := Only.upd_reqs (Only.refl s) (by decide)
  have hlog := only_log (s.requestLate node tag) 0x0041 2 ((nodeDie node).getD 8) node r.tenant tag r.addr
  have hraise := only_raiseIf ((s.requestLate node tag).log 0x0041 2 ((nodeDie node).getD 8) node r.tenant tag r.addr)
    ((nodeDie node).getD 8 < 8) (srcTower ((nodeDie node).getD 8) 4)
  unfold State.timeoutTold
  dsimp only
  refine ⟨?_, ?_, ?_⟩
  · rw [hraise.part .reqs (by decide), hlog.part .reqs (by decide)]
    rfl
  · rw [hraise.part .lists (by decide), hlog.part .lists (by decide), hlate.part .lists (by decide)]
  · exact logs_after (hlate.part .tb (by decide)) (hlate.part .flog0 (by decide)) (hlate.part .flog1 (by decide))
      (hraise.part .flog0 (by decide)) (hraise.part .flog1 (by decide))

theorem fabricTimeout_facts {s : State} {node tag : Nat} {r : Req} (t : State) (he : t = fabricTimeout node tag s)
    (hf : s.reqs.find? (fun r => r.node = node && r.tag = tag) = some r) (ht : r.timedOut = false)
    (hnow : r.since + 2000000 ≤ s.now) :
    t.reqs = s.reqs.map (fun x => if x.node = node && x.tag = tag then { x with timedOut := true } else x) ∧
    Claims.logs s t (Claims.entry s 0x41 2 (dieField ((nodeDie node).getD 8)) node r.tenant tag r.addr) ∧
    (r.op = none → t.lists = s.lists) ∧
    ∀ id off o, r.op = some (id, off) → s.op? id off = some o → o.stage ≠ .finished →
      t.op? id off = some (o.ended osFabricTimeout 0) := by
  rw [fabricTimeout_eq hf ht hnow] at he
  obtain ⟨hreqs, hlists, hl0, hl1⟩ := timeoutTold_facts s node tag r
  cases h : r.op with
  | none =>
    rw [h] at he
    subst he
    exact ⟨hreqs, ⟨hl0, hl1⟩, fun _ => hlists, fun _ _ _ hc => absurd hc (by simp)⟩
  | some p =>
    obtain ⟨id, off⟩ := p
    rw [h] at he
    have hfin := only_finishOp (s.timeoutTold node tag r) id off osFabricTimeout 0
    dsimp only at he
    rw [← he] at hfin
    refine ⟨(hfin.part .reqs (by decide)).trans hreqs, ⟨?_, ?_⟩, fun hc => absurd hc (by simp), ?_⟩
    · rw [hfin.part .flog0 (by decide)]
      exact hl0
    · rw [hfin.part .flog1 (by decide)]
      exact hl1
    · intro id' off' o hc ho hs
      obtain ⟨rfl, rfl⟩ := Prod.mk.inj (Option.some.inj hc)
      rw [he]
      exact State.op?_finishOp _ 0 ((State.op?_congr hlists _ _).trans ho) hs

/-! ### The obligation -/

/-- Settles O51: a message to memory is answered by its target, and a response or a timeout comes to the request it is for. -/
theorem messagesAreAnswered : Obligations.MessagesAreAnswered := by
  unfold Obligations.MessagesAreAnswered
  refine ⟨fun m s hm hu hq => ?_, fun m c r s hin hrow hg hr => ?_, fun node tag r s hf ht hnow => ?_⟩
  · obtain ⟨hread, hadd, hwrite, hnp, hfence⟩ := exec_msg m s
    refine ⟨fun h2 h0 hs => ?_, fun h2 h1 hs => ?_, fun h1 h0 hs => ?_, fun h1 h0 hs => ?_, fun h1 h0 hn => ?_⟩
    · refine ⟨_, (hread h2 h0).trans (congrArg _ (enter_read hm hu h2 h0 hs)), only_emit s _, out_emit s _⟩
    · obtain ⟨u, he, ho, hst⟩ := enter_add hm hu h2 h1 hs hq
      refine ⟨_, (hadd h2 h1).trans (congrArg _ he), (ho.mono (by decide) (List.Subset.refl _)).trans
        ((only_emit u _).mono (by decide) (List.nil_subset _)), hst, ?_⟩
      rw [out_emit, ho.part .out (by decide)]
    · obtain ⟨ho, hst⟩ := enter_write hm h1 h0 hs hq
      exact ⟨_, hwrite h1 h0, ho, hst⟩
    · obtain ⟨u, he, ho, hst⟩ := enter_writeNp hm hu h1 h0 hs hq
      refine ⟨_, (hnp h1 h0).trans (congrArg _ he), (ho.mono (by decide) (List.Subset.refl _)).trans
        ((only_emit u _).mono (by decide) (List.nil_subset _)), hst, ?_⟩
      rw [out_emit, ho.part .out (by decide)]
    · exact ⟨_, (hfence h1 h0).trans (congrArg _ (enter_fence hm hu h1 h0 hn)), only_emit s _, out_emit s _⟩
  · obtain ⟨h0, he⟩ := exec_rsp s hrow
    refine ⟨_, he, ?_⟩
    have henter := enter_rsp hin h0 hg hr
    cases htm : r.timedOut with
    | true =>
      rw [htm, if_pos rfl] at henter
      obtain ⟨hreqs, hrest⟩ := lateRsp_facts s r _ henter
      exact ⟨hreqs, hrest⟩
    | false =>
      rw [htm, if_neg Bool.false_ne_true] at henter
      have hgone : Only [.reqs] [] s (s.requestGone r) := Only.upd_reqs (Only.refl s) (by decide)
      have hk := endRequest_keeps s r m.status.toNat
      rw [henter]
      refine ⟨hk.part .reqs (by decide), ?_⟩
      rw [if_neg Bool.false_ne_true]
      cases hop : r.op with
      | none =>
        rw [endRequest_none s _ hop]
        exact hgone
      | some p =>
        obtain ⟨id, off⟩ := p
        refine ⟨(hgone.mono (by decide) (List.Subset.refl _)).trans (hk.mono (by decide) (List.Subset.refl _)), fun o ho hs => ?_⟩
        obtain ⟨herr, hok⟩ := endRequest_op (st := m.status.toNat) hop ho hs
        refine ⟨fun hst => ?_, fun hst hlast => ?_⟩
        · rw [herr fun hc => hst (BitVec.eq_of_toNat_eq hc)]
          rfl
        · rw [hok (by rw [hst]; rfl) hlast]
          rfl
  · obtain ⟨hreqs, hlog, hnone, hop⟩ := fabricTimeout_facts _ rfl hf ht hnow
    obtain ⟨t, he, ho⟩ := only_execFabricTimeout node tag s
    obtain rfl : fabricTimeout node.toNat tag.toNat s = t := Host.Outcome.next.inj he
    refine ⟨_, rfl, ho, hreqs, hlog, hnone, fun id off o h h' hs => ?_⟩
    rw [hop id off o h h' hs]
    rfl

end Sys2Proof.Machine
end

section
/-! Transfer engines: a granule is moved, a transfer fails or ends (R304, R321, R322). -/

namespace Sys2Proof.Machine

/-! ### A transfer's record -/

theorem xfer?_key {s : State} {t tag : Nat} {x : Xfer} (h : s.xfer? t tag = some x) : x.tenant = t ∧ x.tag = tag := by
  simpa using List.find?_some h

/-- Replacing the elements that meet `p` with `x`, which meets it, makes `x` the first to meet it. -/
theorem find?_map_replace {α : Type} {p : α → Bool} {x y : α} {l : List α} (hx : p x = true) (h : l.find? p = some y) :
    (l.map fun z => if p z then x else z).find? p = some x := by
  induction l with
  | nil => cases h
  | cons a l ih =>
    rw [List.map_cons]
    cases ha : p a with
    | true => rw [if_pos rfl]; exact List.find?_cons_of_pos hx
    | false =>
      rw [if_neg Bool.false_ne_true, List.find?_cons_of_neg (by rw [ha]; exact Bool.false_ne_true)]
      rw [List.find?_cons_of_neg (by rw [ha]; exact Bool.false_ne_true)] at h
      exact ih h

theorem xfer?_setXfer {s : State} {x y : Xfer} (h : s.xfer? x.tenant x.tag = some y) :
    (s.setXfer x).xfer? x.tenant x.tag = some x :=
  find?_map_replace (p := fun z : Xfer => z.tenant = x.tenant && z.tag = x.tag) (by simp) h

/-- R304: a transfer leaves. -/
def State.xferGone (s : State) (t tag : Nat) : State :=
  { s with xfers := s.xfers.filter fun y => !(y.tenant = t && y.tag = tag) }

theorem xfer?_xferGone (s : State) (t tag : Nat) : (s.xferGone t tag).xfer? t tag = none := by
  rw [State.xfer?, List.find?_eq_none]
  intro y hy
  have hout := (List.mem_filter.1 hy).2
  rw [Bool.not_eq_true'] at hout
  rw [hout]
  exact Bool.false_ne_true

theorem settleXfer_done {s : State} {t tag : Nat} {x : Xfer} (hx : s.xfer? t tag = some x) (hj : s.jobsOf t tag = []) :
    s.settleXfer t tag = x.cancelTags.foldl (fun s c => s.complete t 0x07 c.1 stOk (leBytes 1 (if x.status = stCancelled then 0 else 1)))
      ((s.xferGone t tag).complete t 0x08 tag x.status (leBytes 8 (x.lowest.getD 0xFFFFFFFFFFFFFFFF))) := by
  rw [State.settleXfer, hx]
  dsimp only
  rw [hj]
  rfl

/-- R304: a transfer without a job is over. -/
theorem xfer?_settleXfer {s : State} {t tag : Nat} (hj : s.jobsOf t tag = []) : (s.settleXfer t tag).xfer? t tag = none := by
  cases hx : s.xfer? t tag with
  | none =>
    rw [State.settleXfer, hx]
    exact hx
  | some x =>
    rw [settleXfer_done hx hj, State.xfer?, (only_completes _ _ _ _ _ _).part .xfers (by decide),
      (only_complete _ _ _ _ _ _).part .xfers (by decide)]
    exact xfer?_xferGone s t tag

theorem only_settleXfer (s : State) (t tag : Nat) : Only [.mbox, .xfers, .progress, .watchdogs] [] s (s.settleXfer t tag) :=
  only_State_settleXfer s t tag (Only.refl s) (List.Subset.refl _)

/-- R290: the kind and the status lead a completion. -/
theorem rdBytes_completion_two (q : Memory) (a : Nat) (m : Mailbox) (op tag status : Nat) (body : List Byte) :
    rdBytes (wrBytes q a (Claims.completion m op tag status body)) a 2 = leBytes 1 op ++ leBytes 1 status := by
  have h64 := rdBytes_wrBytes_completion q a m op tag status body
  rw [show 64 = 2 + 62 from rfl, ← rdBytes_append] at h64
  have h2 := congrArg (List.take 2) h64
  rw [List.take_left' (by simp [rdBytes])] at h2
  rw [h2]
  simp [Claims.completion, leBytes]

/-- R304: the slip of a transfer that is over completes with its status. -/
theorem completed_settleXfer {s : State} {t tag : Nat} {x : Xfer} {y : LiveSlip} (hx : s.xfer? t tag = some x)
    (hj : s.jobsOf t tag = []) (hc : x.cancelTags = []) (hy : (s.mb t).live.find? (fun y => y.opcode = 0x08 && y.tag = tag) = some y) :
    rdBytes ((s.settleXfer t tag).mb t).cq ((s.mb t).cqTail % 32 * 64) 2 = leBytes 1 0x08 ++ leBytes 1 x.status := by
  rw [settleXfer_done hx hj, hc, List.foldl_nil]
  obtain ⟨-, -, hcq⟩ := mb_complete (s.xferGone t tag) t 0x08 tag x.status (leBytes 8 (x.lowest.getD 0xFFFFFFFFFFFFFFFF)) y hy
  rw [hcq]
  exact rdBytes_completion_two _ _ _ _ _ _ _

/-! ### Jobs are dropped (R322) -/

theorem engine_dropJob (s : State) (e : Nat) (j : Job) (revoked : Bool) (d : Nat) : (s.dropJob e j revoked).engine d =
    if d = e then { s.engine e with jobs := (s.engine e).jobs.filter fun k => k.entry ≠ j.entry } else s.engine d := by
  unfold State.dropJob
  dsimp only
  split
  · rw [State.revokeLease, State.engine_setLease, State.engine_setEngine]
  · rw [State.release, State.engine_setLease, State.engine_setEngine]

theorem engines_dropJob_wf {s : State} (h : mapWf (fun _ => ({} : Engine)) s.engines = true) (e : Nat) (j : Job) (revoked : Bool) :
    mapWf (fun _ => ({} : Engine)) (s.dropJob e j revoked).engines = true := by
  unfold State.dropJob
  dsimp only
  split
  · exact mapWf_put _ _ _ _ h
  · exact mapWf_put _ _ _ _ h

/-- No job of the engine bears the entry. -/
def Dropped (e n : Nat) (s : State) : Prop := ∀ k, k ∈ (s.engine e).jobs → k.entry ≠ n

theorem jobs_dropJob_sub (s : State) (e : Nat) (j : Job) (revoked : Bool) (d : Nat) :
    ∀ k, k ∈ ((s.dropJob e j revoked).engine d).jobs → k ∈ (s.engine d).jobs := fun k hk => by
  rw [engine_dropJob] at hk
  split at hk
  next hd => exact hd ▸ (List.mem_filter.1 hk).1
  next => exact hk

theorem dropped_dropJob (s : State) (e : Nat) (j : Job) (revoked : Bool) : Dropped e j.entry (s.dropJob e j revoked) := fun k hk => by
  rw [engine_dropJob, if_pos rfl] at hk
  simpa using (List.mem_filter.1 hk).2

theorem Dropped.dropJob {s : State} {e n : Nat} (h : Dropped e n s) (d : Nat) (j : Job) (revoked : Bool) :
    Dropped e n (s.dropJob d j revoked) := fun k hk => h k (jobs_dropJob_sub s d j revoked e k hk)

/-- Every job of a transfer leaves its engine. -/
def State.dropJobs (s : State) (t tag : Nat) (revoked : Bool) : State :=
  s.engines.foldl (fun s e => (e.2.jobs.filter fun j => j.tenant = t && j.tag = tag).foldl (fun s j => s.dropJob e.1 j revoked) s) s

theorem only_dropJobs (s : State) (t tag : Nat) (revoked : Bool) : Only [.leases, .engines] [] s (s.dropJobs t tag revoked) :=
  Only.fold _ _ _ (Only.refl s) fun _ _ h => Only.fold _ _ _ h fun _ _ h => only_State_dropJob _ _ _ _ h (List.Subset.refl _)

theorem dropJobs_keeps {P : State → Prop} (s : State) (t tag : Nat) (revoked : Bool) (h : P s)
    (hd : ∀ u e j, P u → P (u.dropJob e j revoked)) : P (s.dropJobs t tag revoked) :=
  foldl_keeps P _ _ s h fun _ _ _ hx => foldl_keeps P _ _ _ hx fun _ _ _ hy => hd _ _ _ hy

theorem dropped_dropJobs {s : State} {t tag : Nat} (revoked : Bool) {e : Nat × Engine} (he : e ∈ s.engines) {j : Job}
    (hj : j ∈ e.2.jobs.filter fun j => j.tenant = t && j.tag = tag) : Dropped e.1 j.entry (s.dropJobs t tag revoked) := by
  refine foldl_establishes (fun (e : Nat × Engine) x => ∀ j, j ∈ e.2.jobs.filter (fun j => j.tenant = t && j.tag = tag) →
    Dropped e.1 j.entry x) _ _ s (fun x a _ => ?_) (fun x a b _ _ hx j hj => ?_) e he j hj
  · exact foldl_establishes (fun (j : Job) x => Dropped a.1 j.entry x) _ _ x (fun y j _ => dropped_dropJob y a.1 j revoked)
      fun y j k _ _ hy => hy.dropJob _ _ _
  · exact foldl_keeps (Dropped a.1 j.entry) _ _ x (hx j hj) fun y k _ hy => hy.dropJob _ _ _

theorem look_of_mem {α : Type} [DecidableEq α] {d : Nat → α} {m : List (Nat × α)} (h : mapWf d m = true) {e : Nat × α}
    (he : e ∈ m) : look d m e.1 = e.2 := by
  induction m with
  | nil => cases he
  | cons c m ih =>
    obtain ⟨k, v⟩ := c
    obtain ⟨-, habove, hm⟩ := (mapWf_cons d k v m).1 h
    rcases List.mem_cons.1 he with rfl | he
    · simp [look]
    · have : e.1 ≠ k := Nat.ne_of_gt (habove e he)
      rw [look, if_neg this]
      exact ih hm he

/-- With the engines in canonical form, none serves the transfer any more. -/
theorem jobsOf_dropJobs {s : State} (h : mapWf (fun _ => ({} : Engine)) s.engines = true) (t tag : Nat) (revoked : Bool) :
    (s.dropJobs t tag revoked).jobsOf t tag = [] := by
  have hwf : mapWf (fun _ => ({} : Engine)) (s.dropJobs t tag revoked).engines = true :=
    dropJobs_keeps (P := fun u => mapWf (fun _ => ({} : Engine)) u.engines = true) s t tag revoked h
      fun u e j hu => engines_dropJob_wf hu e j revoked
  have hsub : ∀ d k, k ∈ ((s.dropJobs t tag revoked).engine d).jobs → k ∈ (s.engine d).jobs := fun d k =>
    dropJobs_keeps (P := fun u => k ∈ (u.engine d).jobs → k ∈ (s.engine d).jobs) s t tag revoked id
      fun u e j hu hk => hu (jobs_dropJob_sub u e j revoked d k hk)
  rw [State.jobsOf, List.eq_nil_iff_forall_not_mem]
  intro j hj
  obtain ⟨e, he, hj⟩ := List.mem_flatMap.1 hj
  obtain ⟨hin, hkey⟩ := List.mem_filter.1 hj
  have hlook : (s.dropJobs t tag revoked).engine e.1 = e.2 := look_of_mem hwf he
  rw [← hlook] at hin
  have hold := hsub e.1 j hin
  have hmem : (e.1, s.engine e.1) ∈ s.engines := (look_mem_or _ s.engines e.1).resolve_left fun hd => by
    rw [State.engine, hd] at hold
    cases hold
  exact dropped_dropJobs revoked hmem (List.mem_filter.2 ⟨hold, hkey⟩) j hin rfl

/-! ### A transfer is stopped -/

theorem stopXfer_of {s : State} {t tag : Nat} {x : Xfer} (status : Nat) (revoked : Bool) (hx : s.xfer? t tag = some x)
    (hst : status ≠ 0) : ∃ low, s.stopXfer t tag status revoked =
      ((s.setXfer { x with status := status, lowest := low }).dropJobs t tag revoked).settleXfer t tag := by
  rw [State.stopXfer, hx]
  dsimp only
  rw [if_neg hst]
  exact ⟨_, rfl⟩

theorem stopXfer_ends {s : State} {t tag status : Nat} {x : Xfer} (revoked : Bool) (hx : s.xfer? t tag = some x) (hst : status ≠ 0)
    (hwf : mapWf (fun _ => ({} : Engine)) s.engines = true) : (s.stopXfer t tag status revoked).xfer? t tag = none ∧
      ∀ y, (s.mb t).live.find? (fun y => y.opcode = 0x08 && y.tag = tag) = some y → x.cancelTags = [] →
        rdBytes ((s.stopXfer t tag status revoked).mb t).cq ((s.mb t).cqTail % 32 * 64) 2 = leBytes 1 0x08 ++ leBytes 1 status := by
  obtain ⟨low, he⟩ := stopXfer_of status revoked hx hst
  obtain ⟨rfl, rfl⟩ := xfer?_key hx
  have hset : (s.setXfer { x with status := status, lowest := low }).xfer? x.tenant x.tag = some { x with status := status, lowest := low } :=
    xfer?_setXfer (x := { x with status := status, lowest := low }) hx
  have hk := only_dropJobs (s.setXfer { x with status := status, lowest := low }) x.tenant x.tag revoked
  have hset' : ((s.setXfer { x with status := status, lowest := low }).dropJobs x.tenant x.tag revoked).xfer? x.tenant x.tag =
      some { x with status := status, lowest := low } := by
    rw [State.xfer?, hk.part .xfers (by decide)]
    exact hset
  have hj := jobsOf_dropJobs (s := s.setXfer { x with status := status, lowest := low }) hwf x.tenant x.tag revoked
  have hmb : ((s.setXfer { x with status := status, lowest := low }).dropJobs x.tenant x.tag revoked).mb x.tenant = s.mb x.tenant :=
    congrFun (State.mb_congr (hk.part .mbox (by decide))) x.tenant
  rw [he]
  refine ⟨xfer?_settleXfer hj, fun y hy hc => ?_⟩
  have := completed_settleXfer hset' hj hc (hmb.symm ▸ hy)
  rw [hmb] at this
  exact this

/-- R322: a granule that cannot be moved ends its transfer. -/
def State.granuleFailed (s : State) (x : Xfer) (lo status : Nat) : State :=
  (s.setXfer { x with lowest := minOpt x.lowest lo }).stopXfer x.tenant x.tag status false

theorem only_granuleFailed (s : State) (x : Xfer) (lo status : Nat) :
    Only [.mbox, .leases, .engines, .xfers, .progress, .watchdogs] [] s (s.granuleFailed x lo status) :=
  only_State_stopXfer _ _ _ _ _ (only_State_setXfer s _ (Only.refl s) (by decide)) (List.Subset.refl _)

theorem granuleFailed_ends {s : State} {t tag status : Nat} {x : Xfer} (lo : Nat) (hx : s.xfer? t tag = some x) (hst : status ≠ 0)
    (hwf : mapWf (fun _ => ({} : Engine)) s.engines = true) : (s.granuleFailed x lo status).xfer? t tag = none ∧
      ∀ y, (s.mb t).live.find? (fun y => y.opcode = 0x08 && y.tag = tag) = some y → x.cancelTags = [] →
        rdBytes ((s.granuleFailed x lo status).mb t).cq ((s.mb t).cqTail % 32 * 64) 2 = leBytes 1 0x08 ++ leBytes 1 status := by
  obtain ⟨rfl, rfl⟩ := xfer?_key hx
  exact stopXfer_ends (s := s.setXfer { x with lowest := minOpt x.lowest lo })
    (x := { x with lowest := minOpt x.lowest lo }) false
    (xfer?_setXfer (x := { x with lowest := minOpt x.lowest lo }) hx) hst hwf

/-! ### A granule -/

/-- R321: the bytes of the granule that a job moves next: their offset in the transfer, and their number. -/
def State.granuleOf (s : State) (x : Xfer) (j : Job) : Nat × Nat := granuleRange (s.xferDst x) x.bytes (j.firstGranule + j.done)

theorem transferGranule_idle {s : State} {e : Nat} (host : List Byte) (ok : Bool) (h : s.nextJob e = none) :
    transferGranule e host ok s = s := by
  rw [transferGranule, h]

section
variable {s : State} {e : Nat} {j : Job} {x : Xfer} (hj : s.nextJob e = some j) (hx : s.xfer? j.tenant j.tag = some x)
include hj hx

theorem transferGranule_denied (host : List Byte) (ok : Bool)
    (h : ∀ g, s.seg? x.tenant x.slot = some g → s.segAllows g (x.off + (s.granuleOf x j).1)
      (plain (s.granuleOf x j).2) (if x.toHost then rRead else rWrite) false = false) :
    transferGranule e host ok s = s.granuleFailed x (s.granuleOf x j).1 stDenied := by
  obtain ⟨ht, htag⟩ := xfer?_key hx
  unfold State.granuleOf at *
  rw [transferGranule, hj]
  dsimp only
  rw [hx]
  dsimp only
  cases hg : s.seg? x.tenant x.slot with
  | none =>
    dsimp only
    rw [if_pos (by decide), State.granuleFailed, ht, htag]
  | some g =>
    dsimp only
    rw [if_pos (by rw [h g hg]; rfl), State.granuleFailed, ht, htag]

variable {g : Seg} (hg : s.seg? x.tenant x.slot = some g)
  (h : s.segAllows g (x.off + (s.granuleOf x j).1)
    (plain (s.granuleOf x j).2) (if x.toHost then rRead else rWrite) false = true)
include hg h

theorem transferGranule_hostFault (host : List Byte) : transferGranule e host false s =
    s.granuleFailed x (s.granuleOf x j).1 stHostFault := by
  obtain ⟨ht, htag⟩ := xfer?_key hx
  unfold State.granuleOf at *
  rw [transferGranule, hj]
  dsimp only
  rw [hx]
  dsimp only
  rw [hg]
  dsimp only
  rw [if_neg (by rw [h]; decide), if_pos (by decide), State.granuleFailed, ht, htag]

theorem transferGranule_toHost (host : List Byte) (hto : x.toHost = true)
    (hs : Claims.sound s (g.base + x.off + (s.granuleOf x j).1)
      (s.granuleOf x j).2 = true) : ∃ n,
    transferGranule e host true s = ((s.emit (.hostWrite x.tenant (x.host + (s.granuleOf x j).1)
      (rdBytes s.mem (g.base + x.off + (s.granuleOf x j).1)
        (s.granuleOf x j).2) false)).ctr (unitEngine e) 0x3003 n).jobStep e j j.tenant j.tag := by
  obtain ⟨ht, htag⟩ := xfer?_key hx
  unfold State.granuleOf at *
  rw [transferGranule, hj]
  dsimp only
  rw [hx]
  dsimp only
  rw [hg]
  dsimp only
  rw [if_neg (by rw [h]; decide), if_neg (by decide), if_pos hto, readMem_sound _ _ hs, ht, htag]
  exact ⟨_, rfl⟩

theorem transferGranule_toDevice (host : List Byte) (hto : x.toHost = false) (hq : Claims.quiet s = true)
    (hs : Claims.sound s (g.base + x.off + (s.granuleOf x j).1)
      (s.granuleOf x j).2 = true) : ∃ n u, Only [.mem, .checks] [.ctrVal] s u ∧
    RegsBut isCount s u ∧ Claims.stored s u (g.base + x.off + (s.granuleOf x j).1)
      ((host ++ List.replicate (s.granuleOf x j).2 0).take
        (s.granuleOf x j).2) ∧
    transferGranule e host true s = (u.ctr (unitEngine e) 0x3002 n).jobStep e j j.tenant j.tag := by
  obtain ⟨ht, htag⟩ := xfer?_key hx
  have hlen : ((host ++ List.replicate (s.granuleOf x j).2 0).take
        (s.granuleOf x j).2).length =
      (s.granuleOf x j).2 := by
    rw [List.length_take, List.length_append, List.length_replicate]
    omega
  obtain ⟨hok, hst, hold⟩ := writeMem_sound x.tenant (0x50 + e) _ (hlen.symm ▸ hs) hq
  refine ⟨ceilDiv (s.granuleOf x j).2 64, _, hst.memory (only_State_writeMem s _ x.tenant (0x50 + e) _ (Only.refl s) (List.Subset.refl _) (List.Subset.refl _))
    (by decide), hst.counts, stored_of_holds hold, ?_⟩
  unfold State.granuleOf at h hok ⊢
  rw [transferGranule, hj]
  dsimp only
  rw [hx]
  dsimp only
  rw [hg]
  dsimp only
  rw [if_neg (by rw [h]; decide), if_neg (by decide), if_neg (by rw [hto]; exact Bool.false_ne_true), hok, ht, htag]

end

/-! ### A job advances (R321) -/

theorem Reg.teGranules_off (e : Nat) : (Reg.teGranules e).off = blk (e / 4) + 0x180004 + e % 4 * 0x100 := rfl

/-- The granule count of an engine shares its place with no event count. -/
theorem teGranules_apart (e : Nat) {r : Reg} (hr : isCount r) : (Reg.teGranules e).off ≠ r.off := by
  cases r with
  | ctrVal u n =>
    change n < unitCtrs u at hr
    rw [Reg.teGranules_off, Reg.ctrVal_off]
    unfold unitVals
    unfold unitCtrs at hr
    split_ifs at hr ⊢ <;> simp only [coreBlk, portBlk, blk] <;> omega
  | _ => exact hr.elim

theorem regF_teGranules {s t : State} (e : Nat) (h : RegsBut isCount s t) :
    t.regF (.teGranules e) 0 32 = s.regF (.teGranules e) 0 32 :=
  State.regF_congr (h.reg (.teGranules e) fun _ hr => teGranules_apart e hr) 0 32

/-- A moved granule is counted. -/
def State.granuleCounted (s : State) (e : Nat) : State := (s.countF (.teGranules e) 0 32 1).ctr (unitEngine e) 0x3001 1

theorem only_granuleCounted (s : State) (e : Nat) : Only [] [.teGranules, .ctrVal] s (s.granuleCounted e) :=
  only_State_ctr _ _ _ _ (only_State_countF s _ _ _ _ (Only.refl s) (List.elem_iff.mp rfl)) (by decide)

theorem regF_granuleCounted (s : State) (e : Nat) :
    (s.granuleCounted e).regF (.teGranules e) 0 32 = min 0xFFFFFFFF (s.regF (.teGranules e) 0 32 + 1) := by
  rw [State.granuleCounted, regF_teGranules e ((RegsBut.refl _).ctr _ _ _ fun _ hi => hi), State.regF_countF _ _ _ _ _ (by decide)]
  rfl

/-- The engine's event at the end of a job. -/
def State.jobEnded (s : State) (e tenant : Nat) : State :=
  (s.setEngine e { s.engine e with lastTenant := tenant }).raise (srcEngine e)

theorem jobStep_more {s : State} {j : Job} (e t tag : Nat) (h : j.done + 1 < j.granules) : s.jobStep e j t tag =
    (s.granuleCounted e).setEngine e { jobs := ((s.granuleCounted e).engine e).jobs.map fun k =>
      if k.entry = j.entry then { j with done := j.done + 1 } else k, lastTenant := j.tenant } := by
  rw [State.jobStep]
  exact if_pos h

theorem jobStep_last {s : State} {j : Job} (e t tag : Nat) (h : j.granules ≤ j.done + 1) : s.jobStep e j t tag =
    (((s.granuleCounted e).dropJob e j false).jobEnded e j.tenant).settleXfer t tag := by
  rw [State.jobStep]
  exact if_neg (Nat.not_lt.2 h)

theorem only_jobEnded (s : State) (e tenant : Nat) : Only [.engines, .ic] [] s (s.jobEnded e tenant) :=
  only_State_raise _ _ (only_State_setEngine s _ _ (Only.refl s) (by decide)) (by decide)

theorem engine_jobEnded (s : State) (e tenant : Nat) : (s.jobEnded e tenant).engine e = { s.engine e with lastTenant := tenant } := by
  rw [State.jobEnded, State.engine_congr ((only_raise _ _).part .engines (by decide)), State.engine_setEngine, if_pos rfl]

theorem jobs_granuleCounted (s : State) (e : Nat) : ((s.granuleCounted e).engine e).jobs = (s.engine e).jobs := by
  rw [State.engine_congr ((only_granuleCounted s e).part .engines (by decide))]

/-- A job that has granules left. -/
theorem jobStep_more_facts {j : Job} (u : State) (e t tag : Nat) (h : j.done + 1 < j.granules) :
    Only [.engines] [.teGranules, .ctrVal] u (u.jobStep e j t tag) ∧
    (u.jobStep e j t tag).regF (.teGranules e) 0 32 = min 0xFFFFFFFF (u.regF (.teGranules e) 0 32 + 1) ∧
    ((u.jobStep e j t tag).engine e).lastTenant = j.tenant ∧
    ((u.jobStep e j t tag).engine e).jobs = (u.engine e).jobs.map fun k => if k.entry = j.entry then { j with done := j.done + 1 } else k := by
  rw [jobStep_more e t tag h]
  have hreg := regF_granuleCounted u e
  have ho := only_granuleCounted u e
  have hjobs := jobs_granuleCounted u e
  generalize u.granuleCounted e = v at hreg ho hjobs ⊢
  refine ⟨only_State_setEngine v _ _ (ho.mono (List.nil_subset _) (List.Subset.refl _)) (by decide), ?_, ?_, ?_⟩
  · exact hreg
  · rw [State.engine_setEngine, if_pos rfl]
  · rw [State.engine_setEngine, if_pos rfl, hjobs]

theorem only_jobEnd (v : State) (e t tag : Nat) (j : Job) :
    Only [.ic, .mbox, .leases, .engines, .xfers, .progress, .watchdogs] [] v (((v.dropJob e j false).jobEnded e j.tenant).settleXfer t tag) :=
  only_State_settleXfer _ t tag ((only_State_dropJob v e j false (Only.refl v) (by decide)).trans
    ((only_jobEnded _ _ _).mono (by decide) (List.Subset.refl _))) (by decide)

/-- The last granule of a job. -/
theorem jobEnd_facts (v : State) (e t tag : Nat) (j : Job) :
    ((((v.dropJob e j false).jobEnded e j.tenant).settleXfer t tag).engine e) =
      { jobs := (v.engine e).jobs.filter (fun k => k.entry ≠ j.entry), lastTenant := j.tenant } ∧
    ((((v.dropJob e j false).jobEnded e j.tenant).settleXfer t tag).leaseAt (jobLease e j.entry)).held = false ∧
    (∃ w, Only [.leases, .engines] [] v w ∧
      (((v.dropJob e j false).jobEnded e j.tenant).settleXfer t tag).ic = (w.raise (srcEngine e)).ic) ∧
    ((((v.dropJob e j false).jobEnded e j.tenant).settleXfer t tag).jobsOf t tag = [] →
      (((v.dropJob e j false).jobEnded e j.tenant).settleXfer t tag).xfer? t tag = none) := by
  have hs := only_settleXfer ((v.dropJob e j false).jobEnded e j.tenant) t tag
  have he := only_jobEnded (v.dropJob e j false) e j.tenant
  refine ⟨?_, ?_, ?_, fun hj => ?_⟩
  · rw [State.engine_congr (hs.part .engines (by decide)), engine_jobEnded, engine_dropJob, if_pos rfl]
  · rw [State.leaseAt_congr (hs.part .leases (by decide)), State.leaseAt_congr (he.part .leases (by decide)), State.dropJob,
      if_neg Bool.false_ne_true, State.release, State.leaseAt_setLease, if_pos rfl]
  · exact ⟨_, only_State_setEngine _ e { (v.dropJob e j false).engine e with lastTenant := j.tenant }
      (only_State_dropJob v e j false (Only.refl v) (List.Subset.refl _)) (by decide), hs.part .ic (by decide)⟩
  · refine xfer?_settleXfer ?_
    rw [← hj, State.jobsOf, State.jobsOf, hs.part .engines (by decide)]

/-! ### The two commands -/

theorem srcExists_engine {e : Nat} (he : e < 32) : srcExists (srcEngine e) = true := by
  have hall : ∀ e : Fin 32, srcExists (srcEngine e.val) = true := by decide
  exact hall ⟨e, he⟩

/-- What a moved granule does, from the state `u` in which its bytes have moved. -/
theorem granule_moved {s u t : State} {e : Nat} {j : Job} (he : e < 32) (hu : Only [.out, .mem, .checks] [.ctrVal] s u)
    (hc : RegsBut isCount s u) (ht : t = u.jobStep e j j.tenant j.tag) :
    t.regF (.teGranules e) 0 32 = min 0xFFFFFFFF (s.regF (.teGranules e) 0 32 + 1) ∧ (t.engine e).lastTenant = j.tenant ∧
    t.mem = u.mem ∧ t.out = u.out ∧
    (j.done + 1 < j.granules → t.xfers = s.xfers ∧
      (t.engine e).jobs = (s.engine e).jobs.map fun k => if k.entry = j.entry then { j with done := j.done + 1 } else k) ∧
    (j.granules ≤ j.done + 1 → (t.engine e).jobs = (s.engine e).jobs.filter (fun k => k.entry ≠ j.entry) ∧
      (t.leaseAt (jobLease e j.entry)).held = false ∧ Claims.raises s t (0x360 + e) ∧
      (t.jobsOf j.tenant j.tag = [] → t.xfer? j.tenant j.tag = none)) := by
  have hreg : u.regF (.teGranules e) 0 32 = s.regF (.teGranules e) 0 32 := regF_teGranules e hc
  have heng : u.engine e = s.engine e := congrFun (State.engine_congr (hu.part .engines (by decide))) e
  rcases Nat.lt_or_ge (j.done + 1) j.granules with h | h
  · obtain ⟨ho, hr, hl, hjobs⟩ := jobStep_more_facts u e j.tenant j.tag h
    rw [← ht] at ho hr hl hjobs
    refine ⟨by rw [hr, hreg], hl, ho.part .mem (by decide), ho.part .out (by decide), fun _ => ⟨?_, by rw [hjobs, heng]⟩,
      fun hc => absurd h (Nat.not_lt.2 hc)⟩
    exact (ho.part .xfers (by decide)).trans (hu.part .xfers (by decide))
  · rw [jobStep_last e _ _ h] at ht
    have hcount := only_granuleCounted u e
    have hr := regF_granuleCounted u e
    have hjobs := jobs_granuleCounted u e
    have ho := only_jobEnd (u.granuleCounted e) e j.tenant j.tag j
    obtain ⟨heq, hlease, ⟨w, hw, hic⟩, hdone⟩ := jobEnd_facts (u.granuleCounted e) e j.tenant j.tag j
    rw [← ht] at ho heq hlease hic hdone
    refine ⟨?_, by rw [heq], (ho.part .mem (by decide)).trans (hcount.part .mem (by decide)),
      (ho.part .out (by decide)).trans (hcount.part .out (by decide)), fun hc => absurd hc (Nat.not_lt.2 h),
      fun _ => ⟨?_, hlease, ?_, hdone⟩⟩
    · rw [State.regF_congr (ho.reg_eq _), hr, hreg]
    · rw [heq]
      dsimp only
      rw [hjobs, heng]
    · refine raises_after (Ps := [.out, .mem, .checks, .leases, .engines]) (Ks := [.ctrVal, .teGranules]) ?_ ?_ (by decide) hic
      · exact srcExists_engine he
      · exact ((hu.mono (by decide) (by decide)).trans (hcount.mono (by decide) (by decide))).trans
          (hw.mono (by decide) (by decide))

/-- A granule that fails: its transfer ends with the status, and no byte moves. -/
theorem granule_fails {s t : State} {j : Job} {x : Xfer} {lo status : Nat} (hx : s.xfer? j.tenant j.tag = some x) (hst : status ≠ 0)
    (ht : Only [.ic] [] (s.granuleFailed x lo status) t) :
    Only [.ic, .mbox, .leases, .engines, .xfers, .progress, .watchdogs] [] s t ∧
    (mapWf (fun _ => ({} : Engine)) s.engines = true → t.xfer? j.tenant j.tag = none ∧
      ∀ y, (s.mb j.tenant).live.find? (fun y => y.opcode = 0x08 && y.tag = j.tag) = some y → x.cancelTags = [] →
        rdBytes (t.mb j.tenant).cq ((s.mb j.tenant).cqTail % 32 * 64) 2 = leBytes 1 0x08 ++ leBytes 1 status) := by
  refine ⟨((only_granuleFailed s x lo status).mono (by decide) (List.Subset.refl _)).trans
    (ht.mono (by decide) (List.Subset.refl _)), fun hwf => ?_⟩
  obtain ⟨hgone, hcq⟩ := granuleFailed_ends lo hx hst hwf
  rw [State.xfer?, ht.part .xfers (by decide), State.mb_congr (ht.part .mbox (by decide))]
  exact ⟨hgone, hcq⟩

theorem exec_transferGranule (engine : Fin 32) (host : List Byte) (ok : Bool) (s : State) :
    exec (.transferGranule engine host ok) s = .next (transferGranule engine.val host ok s) := rfl

/-- R304: the engine's granule fails, and the error source of X0 rises. -/
theorem exec_pcieTimeout {engine : Fin 32} {s : State} {j : Job} (h : s.nextJob engine.val = some j) :
    exec (.pcieCompletionTimeout engine) s = .next ((transferGranule engine.val [] false s).raise (srcIo 0 2)) := by
  refine congrArg Host.Outcome.next ?_
  rw [h]

theorem exec_pcieTimeout_idle {engine : Fin 32} {s : State} (h : s.nextJob engine.val = none) :
    exec (.pcieCompletionTimeout engine) s = .next s := by
  refine congrArg Host.Outcome.next ?_
  rw [h]

theorem raises_pcieTimeout (s : State) (x : Xfer) (lo status : Nat) :
    Claims.raises s ((s.granuleFailed x lo status).raise (srcIo 0 2)) (0x380 + 2) :=
  raises_after (by decide) (only_granuleFailed s x lo status) (by decide) rfl

/-- The bytes of a granule move, and its job goes on from there. -/
theorem transferGranule_moves {s : State} {e : Nat} {j : Job} {x : Xfer} {g : Seg} (hj : s.nextJob e = some j)
    (hx : s.xfer? j.tenant j.tag = some x) (hg : s.seg? x.tenant x.slot = some g)
    (h : s.segAllows g (x.off + (s.granuleOf x j).1) (plain (s.granuleOf x j).2) (if x.toHost then rRead else rWrite) false = true)
    (hs : Claims.sound s (g.base + x.off + (s.granuleOf x j).1) (s.granuleOf x j).2 = true) (hq : Claims.quiet s = true)
    (host : List Byte) : ∃ u, Only [.out, .mem, .checks] [.ctrVal] s u ∧ RegsBut isCount s u ∧
      transferGranule e host true s = u.jobStep e j j.tenant j.tag ∧
      (x.toHost = true → u.mem = s.mem ∧ u.out = .hostWrite x.tenant (x.host + (s.granuleOf x j).1)
        (rdBytes s.mem (g.base + x.off + (s.granuleOf x j).1) (s.granuleOf x j).2) false :: s.out) ∧
      (x.toHost = false → u.out = s.out ∧ Claims.stored s u (g.base + x.off + (s.granuleOf x j).1)
        ((host ++ List.replicate (s.granuleOf x j).2 0).take (s.granuleOf x j).2)) := by
  have hctr : ∀ (u : State) code n, Only [] [.ctrVal] u (u.ctr (unitEngine e) code n) := fun u code n =>
    only_State_ctr u _ _ _ (Only.refl u) (List.Subset.refl _)
  cases hto : x.toHost with
  | true =>
    obtain ⟨n, he⟩ := transferGranule_toHost hj hx hg h host hto hs
    have hem := only_emit s (.hostWrite x.tenant (x.host + (s.granuleOf x j).1)
      (rdBytes s.mem (g.base + x.off + (s.granuleOf x j).1) (s.granuleOf x j).2) false)
    have hc := hctr (s.emit (.hostWrite x.tenant (x.host + (s.granuleOf x j).1)
      (rdBytes s.mem (g.base + x.off + (s.granuleOf x j).1) (s.granuleOf x j).2) false)) 0x3003 n
    exact ⟨_, (hem.mono (by decide) (List.nil_subset _)).trans (hc.mono (List.nil_subset _) (List.Subset.refl _)),
      ((RegsBut.refl s).of_only hem).ctr _ _ _ fun _ hi => hi, he,
      fun _ => ⟨(hc.part .mem (by decide)).trans (hem.part .mem (by decide)), (hc.part .out (by decide)).trans (out_emit s _)⟩,
      fun hf => Bool.noConfusion hf⟩
  | false =>
    obtain ⟨n, u, hu, hcount, hst, he⟩ := transferGranule_toDevice hj hx hg h host hto hq hs
    have hc := hctr u 0x3002 n
    refine ⟨_, (hu.mono (by decide) (List.Subset.refl _)).trans (hc.mono (List.nil_subset _) (List.Subset.refl _)),
      hcount.ctr _ _ _ fun _ hi => hi, he, fun hf => Bool.noConfusion hf,
      fun _ => ⟨(hc.part .out (by decide)).trans (hu.part .out (by decide)), fun b => ?_⟩⟩
    rw [mem_ctr]
    exact hst b

end Sys2Proof.Machine
end

section
/-! The revocation of leases (R324, R410). -/

namespace Sys2Proof.Machine

/-! ### Every lease of an owner is revoked -/

/-- R324: what the revocation of one held lease does. -/
def State.revokeOne (o : Nat) (standby reset : Bool) (s : State) (n : Nat) : State :=
  if n < 16384 then
    match s.seg? (n / 16) (n % 16) with
    | some g => s.removeShared (n / 16) (n % 16) g false
    | none => s.revokeLease n
  else if n < 18432 then
    match (s.engine ((n - 16384) / 64)).jobs.find? fun j => j.entry = (n - 16384) % 64 with
    | some j => if reset then s.dropJob ((n - 16384) / 64) j true else s.stopXfer j.tenant j.tag stCancelled true
    | none => s.revokeLease n
  else (s.revokeLease n).setLease n { (s.revokeLease n).leaseAt n with held := true, owner := takeOver standby o }

theorem revokeAll_eq (s : State) (o : Nat) (standby reset : Bool) :
    s.revokeAll o standby reset = (s.heldBy o).foldl (State.revokeOne o standby reset) s := rfl

/-- The entry of a slot is gone. -/
def NoSeg (t slot : Nat) (s : State) : Prop := s.seg? t slot = none

theorem NoSeg.of_segs {s u : State} {t slot : Nat} (h : NoSeg t slot s) (hs : u.segs = s.segs) : NoSeg t slot u := by
  rw [NoSeg, State.seg?, hs]
  exact h

theorem noSeg_iff {s : State} {t slot : Nat} : NoSeg t slot s ↔ ∀ e, e ∈ s.segs → e.1 ≠ t * 16 + slot := by
  rw [NoSeg, State.seg?, Option.map_eq_none_iff, List.find?_eq_none]
  simp

theorem segs_removeShared (s : State) (owner slot : Nat) (g : Seg) (done : Bool) :
    (s.removeShared owner slot g done).segs = s.segs.filter fun e : Nat × Seg =>
      !(e.1 = owner * 16 + slot) && !(e.2.kind = SegKind.attached && e.2.lease = g.lease) := rfl

theorem NoSeg.removeShared {s : State} {t slot : Nat} (h : NoSeg t slot s) (owner slot' : Nat) (g : Seg) (done : Bool) :
    NoSeg t slot (s.removeShared owner slot' g done) := by
  rw [noSeg_iff, segs_removeShared]
  exact fun e he => noSeg_iff.1 h e (List.mem_filter.1 he).1

theorem noSeg_removeShared (s : State) (owner slot : Nat) (g : Seg) (done : Bool) :
    NoSeg owner slot (s.removeShared owner slot g done) := by
  rw [noSeg_iff, segs_removeShared]
  intro e he hc
  have := (List.mem_filter.1 he).2
  simp [hc] at this

theorem NoSeg.revokeOne {s : State} {t slot : Nat} (h : NoSeg t slot s) (o : Nat) (standby : Bool) (n : Nat) :
    NoSeg t slot (s.revokeOne o standby false n) := by
  unfold State.revokeOne
  split
  · split
    · exact h.removeShared ..
    · exact h.of_segs rfl
  · split
    · split
      next j _ =>
        rw [if_neg Bool.false_ne_true]
        exact h.of_segs ((only_State_stopXfer (Ks := []) s j.tenant j.tag stCancelled true (Only.refl s) (List.Subset.refl _)).part .segs (by decide))
      next => exact h.of_segs rfl
    · exact h.of_segs rfl

/-- The lease of a segment, revoked, takes the segment with it. -/
theorem noSeg_revokeOne (s : State) (o : Nat) (standby : Bool) {n : Nat} (hn : n < 16384) :
    NoSeg (n / 16) (n % 16) (s.revokeOne o standby false n) := by
  rw [State.revokeOne, if_pos hn]
  cases h : s.seg? (n / 16) (n % 16) with
  | some g => exact noSeg_removeShared s _ _ g false
  | none => exact NoSeg.of_segs (s := s) h rfl

theorem noSeg_revokeAll {s : State} {o n : Nat} (standby : Bool) (hh : (s.leaseAt n).held = true) (ho : (s.leaseAt n).owner = o)
    (hn : n < 16384) : NoSeg (n / 16) (n % 16) (s.revokeAll o standby false) := by
  rw [revokeAll_eq]
  refine foldl_establishes (fun m x => m < 16384 → NoSeg (m / 16) (m % 16) x) _ _ s (fun x m _ hm => noSeg_revokeOne x o standby hm)
    (fun x a b _ _ hx ha => (hx ha).revokeOne o standby b) n (mem_heldBy_of_leaseAt hh ho) hn

/-- R324: an owner that holds mailboxes alone passes them to another processor. -/
theorem mailboxes_revokeAll {s : State} {o n : Nat} (standby : Bool)
    (hall : ∀ y, y ∈ s.leases → y.2.held = true → y.2.owner = o → 18432 ≤ y.1) (hh : (s.leaseAt n).held = true)
    (ho : (s.leaseAt n).owner = o) : ((s.revokeAll o standby false).leaseAt n).held = true ∧
      ((s.revokeAll o standby false).leaseAt n).owner = takeOver standby o := by
  have hone : ∀ (x : State) m, 18432 ≤ m → ∀ k, (x.revokeOne o standby false m).leaseAt k =
      if k = m then { (x.revokeLease m).leaseAt m with held := true, owner := takeOver standby o } else x.leaseAt k := fun x m hm k => by
    rw [State.revokeOne, if_neg (by omega), if_neg (by omega), State.leaseAt_setLease]
    split
    · rfl
    next hk => rw [State.revokeLease, State.leaseAt_setLease, if_neg hk]
  have hbig : ∀ m, m ∈ s.heldBy o → 18432 ≤ m := fun m hm => by
    obtain ⟨y, hy, hyh, hyo⟩ := mem_heldBy.1 hm
    exact hall _ hy hyh hyo
  rw [revokeAll_eq]
  refine foldl_establishes (fun m x => (State.leaseAt x m).held = true ∧ (State.leaseAt x m).owner = takeOver standby o) _ _ s
    (fun x m hm => ?_) (fun x a b _ hb hx => ?_) n (mem_heldBy_of_leaseAt hh ho)
  · rw [hone x m (hbig m hm), if_pos rfl]
    exact ⟨rfl, rfl⟩
  · rw [hone x b (hbig b hb)]
    split
    · exact ⟨rfl, rfl⟩
    · exact hx

theorem takeOver_ne (standby : Bool) (o : Nat) : takeOver standby o ≠ o := by
  unfold takeOver
  dsimp only
  split_ifs <;> omega

/-! ### LSE_REVOKE_WRITE -/

theorem exec_lseRevokeWrite (owner : BitVec 12) (writer : RevokeWriter) (s : State) :
    exec (.lseRevokeWrite owner writer) s = .next (lseRevokeWrite owner.toNat (decide (writer = .standby)) s) := rfl

theorem lseRevokeWrite_refused {s : State} {o : Nat} (standby : Bool) (h : s.revocation.isSome = true ∨ ownerKnown o = false) :
    lseRevokeWrite o standby s = s.setBit .lseStat 29 := by
  refine if_pos ?_
  rcases h with h | h
  · rw [h]; rfl
  · rw [h]; simp

/-- LSE_STAT of a revocation that starts. -/
def lseBusy (v : DWord) (o : Nat) : DWord := BitVec.ofNat 64 (2 ^ 31 + getF v 29 2 * 2 ^ 29 + o)

theorem lseBusy_fields (v : DWord) {o : Nat} (ho : o < 2 ^ 12) : getF (lseBusy v o) 0 12 = o ∧
    nbit (lseBusy v o).toNat 31 = true ∧ nbit (lseBusy v o).toNat 30 = nbit v.toNat 30 ∧
    nbit (lseBusy v o).toNat 29 = nbit v.toNat 29 := by
  simp only [getF, nbit, lseBusy, BitVec.toNat_ofNat, decide_eq_decide, decide_eq_true_eq]
  omega

/-- The nodes are told of a revocation. -/
def State.revokeTold (s : State) (nodes : List Nat) : State :=
  nodes.foldl (fun s v => s.emit (.msg (s.mkMsg (nf s.straps 0 6) 0x70 3 1 0 0 0 v []))) s

theorem only_revokeTold (s : State) (nodes : List Nat) : Only [.out] [] s (s.revokeTold nodes) :=
  Only.fold _ _ _ (Only.refl s) fun _ _ h => only_State_emit _ _ h (List.Subset.refl _)

/-- The part acts on a revocation and tells the nodes. -/
def State.revoking (s : State) (o : Nat) (standby : Bool) : State :=
  ((s.revokeAll o standby false).setReg .lseStat (lseBusy (s.reg .lseStat) o)).revokeTold (s.revokeNodes o)

theorem lseRevokeWrite_starts {s : State} {o : Nat} (standby : Bool) (hr : s.revocation = none) (ho : ownerKnown o = true) :
    lseRevokeWrite o standby s =
      { s.revoking o standby with revocation := some ⟨o, s.revokeNodes o, s.now, (s.heldBy o).length, false⟩ } := by
  refine if_neg ?_
  rw [hr, ho]
  decide

theorem reg_revoking (s : State) (o : Nat) (standby : Bool) : (s.revoking o standby).reg .lseStat = lseBusy (s.reg .lseStat) o := by
  rw [State.revoking, (only_revokeTold _ _).reg_eq, State.reg_setReg_same]

theorem only_revoking (s : State) (o : Nat) (standby : Bool) :
    Only [.out] [.lseStat] (s.revokeAll o standby false) (s.revoking o standby) :=
  (only_State_setReg _ .lseStat _ (List.elem_iff.mp rfl) ((Only.refl _).mono (List.nil_subset _) (List.nil_subset _))).trans
    ((only_revokeTold _ _).mono (List.Subset.refl _) (List.nil_subset _))

/-! ### REVOCATION_ACK_TIMEOUT (R410) -/

/-- The job leases that a node holds. -/
def State.jobLeasesOf (s : State) (v : Nat) : List Nat :=
  (s.leases.filter fun x => x.2.held && decide (16384 ≤ x.1) && decide (x.1 < 18432) && 0x50 + (x.1 - 16384) / 64 = v).map (·.1)

/-- The leases of a silent node are cleared. -/
def State.jobLeasesGone (s : State) (v : Nat) : State := (s.jobLeasesOf v).foldl (fun s n => s.revokeLease n) s

theorem held_revokeLease (s : State) (n m : Nat) :
    ((s.revokeLease n).leaseAt m).held = if m = n then false else (s.leaseAt m).held := by
  rw [State.revokeLease, State.leaseAt_setLease]
  split <;> rfl

theorem held_jobLeasesGone (s : State) {v n : Nat} (h1 : 16384 ≤ n) (h2 : n < 18432) (hv : 0x50 + (n - 16384) / 64 = v) :
    ((s.jobLeasesGone v).leaseAt n).held = false := by
  have hkeep : ∀ (x : State) a b, (x.leaseAt a).held = false → ((x.revokeLease b).leaseAt a).held = false := fun x a b hx => by
    rw [held_revokeLease, hx, ite_self]
  cases hh : (s.leaseAt n).held with
  | false => exact foldl_keeps (fun x : State => (x.leaseAt n).held = false) _ _ s hh fun x b _ hx => hkeep x n b hx
  | true =>
    have hmem : n ∈ s.jobLeasesOf v := by
      refine List.mem_map.2 ⟨(n, s.leaseAt n), List.mem_filter.2 ⟨(look_mem_or _ s.leases n).resolve_left fun he => ?_, ?_⟩, rfl⟩
      · rw [State.leaseAt, he] at hh
        cases hh
      · simp [hh, h1, h2, hv]
    exact foldl_establishes (fun a (x : State) => (x.leaseAt a).held = false) _ _ s
      (fun x a _ => by rw [held_revokeLease, if_pos rfl]) (fun x a b _ _ hx => hkeep x a b hx) n hmem

/-- No route leads to the node. -/
def State.routesGone (s : State) (v : Nat) : State := (List.range 12).foldl (fun s d => s.setF (.fabRt d v) 0 3 portUnreachable) s

theorem only_routesGone (s : State) (v : Nat) : Only [] [.fabRt] s (s.routesGone v) :=
  Only.fold _ _ _ (Only.refl s) fun _ _ h => only_State_setF _ _ _ _ _ h (List.elem_iff.mp rfl)

theorem regF_routesGone (s : State) {v d : Nat} (hd : d < 12) : (s.routesGone v).regF (.fabRt d v) 0 3 = portUnreachable := by
  refine foldl_establishes (fun d (x : State) => x.regF (.fabRt d v) 0 3 = portUnreachable) _ _ s
    (fun x a _ => x.regF_setF_same _ 0 3 portUnreachable (by decide)) (fun x a b _ _ hx => ?_) d (List.mem_range.2 hd)
  by_cases hab : a = b
  · subst hab
    exact x.regF_setF_same _ 0 3 portUnreachable (by decide)
  · rw [State.regF_setF_ne]
    · exact hx
    · rw [Reg.fabRt_off, Reg.fabRt_off, blk, blk]
      omega

/-- The revocation no longer waits for a node. -/
def State.notAwaited (s : State) (r : Revocation) (v : Nat) : State :=
  { s with revocation := some { r with waiting := r.waiting.filter fun w => w ≠ v } }

theorem exec_ackTimeout {node : BitVec 8} {s : State} {r : Revocation} (h : s.revocation = some r)
    (hw : node.toNat ∈ r.waiting) (hn : r.since + 2000000 ≤ s.now) : exec (.revocationAckTimeout node) s =
      .next ((((s.jobLeasesGone node.toNat).notAwaited r node.toNat).log 0x0043 2 8 0x70 noTenant
        ((s.jobLeasesOf node.toNat).headD 0) r.owner).routesGone node.toNat) := by
  refine congrArg Host.Outcome.next ?_
  rw [h]
  exact if_pos (by simp [hw, hn])

theorem exec_ackTimeout_early {node : BitVec 8} {s : State} {r : Revocation} (h : s.revocation = some r)
    (hw : node.toNat ∉ r.waiting ∨ s.now < r.since + 2000000) : exec (.revocationAckTimeout node) s = .next s := by
  refine congrArg Host.Outcome.next ?_
  rw [h]
  refine if_neg ?_
  rcases hw with hw | hw
  · simp [hw]
  · simp [hw]

theorem ackTimeout_facts {node : BitVec 8} {s : State} {r : Revocation} (h : s.revocation = some r)
    (hw : node.toNat ∈ r.waiting) (hn : r.since + 2000000 ≤ s.now) : ∃ t, exec (.revocationAckTimeout node) s = .next t ∧
      Only [.flog0, .flog1, .leases, .revocation] [.fabRt] s t ∧
      t.revocation = some { r with waiting := r.waiting.filter fun w => w ≠ node.toNat } ∧
      (∀ n, 16384 ≤ n → n < 18432 → 0x50 + (n - 16384) / 64 = node.toNat → (t.leaseAt n).held = false) ∧
      (node.toNat < 128 → ∀ d, d < 12 → t.regF (.fabRt d node.toNat) 0 3 = portUnreachable) := by
  have he := exec_ackTimeout h hw hn
  refine ⟨_, he, Only.ofExec (only_execRevocationAckTimeout node s) he, ?_⟩
  have hlog := only_log ((s.jobLeasesGone node.toNat).notAwaited r node.toNat) 0x0043 2 8 0x70 noTenant
    ((s.jobLeasesOf node.toNat).headD 0) r.owner
  generalize State.log ((s.jobLeasesGone node.toNat).notAwaited r node.toNat) 0x0043 2 8 0x70 noTenant
    ((s.jobLeasesOf node.toNat).headD 0) r.owner = u at hlog ⊢
  have hr := only_routesGone u node.toNat
  refine ⟨?_, fun n h1 h2 hv => ?_, fun _ d hd => regF_routesGone u hd⟩
  · rw [hr.part .revocation (by decide), hlog.part .revocation (by decide)]
    rfl
  · rw [State.leaseAt_congr (hr.part .leases (by decide)), State.leaseAt_congr (hlog.part .leases (by decide))]
    exact held_jobLeasesGone s h1 h2 hv

/-! ### LEASE_REVOKE and REVOCATION_COMPLETE -/

theorem exec_revocation_idle {s : State} (node : BitVec 8) (owner : BitVec 12) (h : s.revocation = none) :
    exec (.leaseRevoke node owner) s = .next s ∧ exec .revocationComplete s = .next s ∧ exec (.revocationAckTimeout node) s = .next s := by
  refine ⟨congrArg Host.Outcome.next ?_, congrArg Host.Outcome.next ?_, congrArg Host.Outcome.next ?_⟩ <;> rw [h]

theorem exec_leaseRevoke {s : State} {r : Revocation} (node : BitVec 8) (owner : BitVec 12) (h : s.revocation = some r) :
    exec (.leaseRevoke node owner) s = .next (if r.owner = owner.toNat then s.notAwaited r node.toNat else s) := by
  refine congrArg Host.Outcome.next ?_
  rw [h]
  rfl

/-- R324: what a revocation removed may be zeroed. -/
def State.revocationOver (s : State) : State :=
  { s with revocation := none, zeroing := s.zeroing.map fun (z : ZeroRange) => { z with removalDone := true } }

theorem exec_revocationComplete {s : State} {r : Revocation} (h : s.revocation = some r) :
    (r.waiting ≠ [] → exec .revocationComplete s = .next s) ∧
    (r.waiting = [] → exec .revocationComplete s = .next
      (((s.revocationOver.clrBit .lseStat 31).setBit .lseStat 30).log 0x0081 0 8 0x70 noTenant r.owner r.count)) := by
  refine ⟨fun hw => ?_, fun hw => ?_⟩
  all_goals
    refine congrArg Host.Outcome.next ?_
    rw [h]
  · exact if_neg (by simp [hw])
  · exact if_pos (by simp [hw])

theorem revocationComplete_facts {s : State} {r : Revocation} (h : s.revocation = some r) (hw : r.waiting = []) :
    ∃ t, exec .revocationComplete s = .next t ∧ Only [.flog0, .flog1, .revocation, .zeroing] [.lseStat] s t ∧
      t.revocation = none ∧ t.regBit .lseStat 31 = false ∧ t.regBit .lseStat 30 = true ∧
      t.zeroing = s.zeroing.map (fun z => { z with removalDone := true }) ∧
      Claims.logs s t (Claims.entry s 0x81 0 0x10 0x70 0xFFFF r.owner r.count) := by
  have he := (exec_revocationComplete h).2 hw
  refine ⟨_, he, Only.ofExec (only_execRevocationComplete s) he, ?_⟩
  have hstat : Only [] [.lseStat] s.revocationOver ((s.revocationOver.clrBit .lseStat 31).setBit .lseStat 30) :=
    only_State_setBit _ _ _ (only_State_clrBit _ _ _ (Only.refl _) (List.elem_iff.mp rfl)) (List.elem_iff.mp rfl)
  have hlog := only_log ((s.revocationOver.clrBit .lseStat 31).setBit .lseStat 30) 0x0081 0 8 0x70 noTenant r.owner r.count
  refine ⟨?_, ?_, ?_, ?_, ?_⟩
  · rw [hlog.part .revocation (by decide), hstat.part .revocation (by decide)]
    rfl
  · rw [hlog.regBit_eq, State.regBit_setBit _ _ _ _ (by decide) (by decide), regBit_clrBit_self _ _ _ (by decide)]
    rfl
  · rw [hlog.regBit_eq, regBit_setBit_self _ _ _ (by decide)]
  · rw [hlog.part .zeroing (by decide), hstat.part .zeroing (by decide)]
    rfl
  · exact logs_after (hstat.part .tb (by decide)) (hstat.part .flog0 (by decide)) (hstat.part .flog1 (by decide)) rfl rfl

/-! ### The obligation -/

/-- Settles O59: an engine's granule moves or fails, and a revocation starts, is acknowledged and ends. -/
theorem enginesAndLeasesWork : Obligations.EnginesAndLeasesWork := by
  unfold Obligations.EnginesAndLeasesWork
  intro parts regs
  refine ⟨fun engine host ok s => ?_, fun owner writer s => ?_, fun node owner s => ?_⟩
  · intro e
    refine ⟨fun h => ⟨?_, exec_pcieTimeout_idle h⟩, ?_⟩
    · rw [exec_transferGranule, transferGranule_idle host ok h]
    intro j x hj hx r fails
    have hfail : ∀ status, status ≠ 0 → transferGranule e host ok s = s.granuleFailed x r.1 status →
        fails (.transferGranule engine host ok) status := fun status hst he => by
      obtain ⟨ho, hend⟩ := granule_fails (t := s.granuleFailed x r.1 status) hx hst
        ((Only.refl _).mono (List.nil_subset _) (List.Subset.refl _))
      exact ⟨_, he ▸ exec_transferGranule engine host ok s, ho.mono (by decide) (by decide),
        ⟨ho.part .mem (by decide), ho.part .stores (by decide)⟩, ho.reg_eq _, hend, fun hc => Instr.noConfusion hc⟩
    refine ⟨fun h => hfail _ (by decide) (transferGranule_denied hj hx host ok h), fun g hg h => ⟨?_, fun hok => ?_, fun hok hs hq => ?_⟩⟩
    · have he : exec (.pcieCompletionTimeout engine) s = .next ((s.granuleFailed x r.1 stHostFault).raise (srcIo 0 2)) := by
        rw [exec_pcieTimeout hj, transferGranule_hostFault hj hx hg h []]
        rfl
      obtain ⟨ho, hend⟩ := granule_fails (status := stHostFault) hx (by decide) (only_raise (s.granuleFailed x r.1 stHostFault) (srcIo 0 2))
      exact ⟨_, he, ho.mono (by decide) (by decide), ⟨ho.part .mem (by decide), ho.part .stores (by decide)⟩, ho.reg_eq _, hend,
        fun _ => raises_pcieTimeout s x r.1 stHostFault⟩
    · subst hok
      exact hfail _ (by decide) (transferGranule_hostFault hj hx hg h host)
    · subst hok
      have he := exec_transferGranule engine host true s
      obtain ⟨u, hu, hc, hstep, hhost, hdev⟩ := transferGranule_moves hj hx hg h hs hq host
      obtain ⟨hreg, hlast, hmem, hout, hmore, hend⟩ := granule_moved engine.isLt hu hc hstep
      refine ⟨_, he, Only.ofExec (only_execTransferGranule engine host true s) he, hreg, hlast, fun hto => ?_, fun hto => ?_, hmore, hend⟩
      · obtain ⟨hm, ho⟩ := hhost hto
        exact ⟨hmem.trans hm, hout.trans ho⟩
      · obtain ⟨ho, hst⟩ := hdev hto
        refine ⟨hout.trans ho, fun b => ?_⟩
        rw [show (transferGranule engine.val host true s).mem = u.mem from hmem]
        exact hst b
  · intro o nodes
    have he := exec_lseRevokeWrite owner writer s
    refine ⟨fun h => ?_, fun hr ho => ?_⟩
    · rw [lseRevokeWrite_refused _ h] at he
      exact ⟨_, he, only_State_setBit s .lseStat 29 (Only.refl s) (List.elem_iff.mp rfl), 
        fun b hb => s.regBit_setBit .lseStat 29 b hb (by decide)⟩
    · have honly := Only.ofExec (only_execLseRevokeWrite owner writer s) he
      rw [lseRevokeWrite_starts _ hr ho] at he honly
      obtain ⟨hf, h31, h30, h29⟩ := lseBusy_fields (s.reg .lseStat) owner.isLt
      have hreg := reg_revoking s o (decide (writer = .standby))
      have hk := only_revoking s o (decide (writer = .standby))
      refine ⟨_, he, honly, rfl, ?_, ?_, ?_, ?_, fun n g hh hown hn _ => ?_, fun hall n hn hh hown => ?_⟩
      · exact (congrArg (getF · 0 12) hreg).trans hf
      · exact (congrArg (fun v : DWord => nbit v.toNat 31) hreg).trans h31
      · exact (congrArg (fun v : DWord => nbit v.toNat 30) hreg).trans h30
      · exact (congrArg (fun v : DWord => nbit v.toNat 29) hreg).trans h29
      · exact (noSeg_revokeAll _ hh hown hn).of_segs (hk.part .segs (by decide))
      · obtain ⟨h1, h2⟩ := mailboxes_revokeAll (decide (writer = .standby)) hall hh hown
        have hl := congrFun (State.leaseAt_congr (hk.part .leases (by decide))) n
        exact ⟨(congrArg Lease.held hl).trans h1, (congrArg Lease.owner hl).trans h2,
          fun hc => takeOver_ne _ o (h2.symm.trans ((congrArg Lease.owner hl).symm.trans hc))⟩
  · intro v
    refine ⟨exec_revocation_idle node owner, fun r h => ⟨fun hne => ?_, fun heq => ?_, (exec_revocationComplete h).1,
      revocationComplete_facts h, exec_ackTimeout_early h, ackTimeout_facts h⟩⟩
    · rw [exec_leaseRevoke node owner h, if_neg hne]
    · refine ⟨_, (exec_leaseRevoke node owner h).trans (congrArg _ (if_pos heq)), ?_, rfl⟩
      exact Only.upd_revocation (Only.refl s) (by decide)

end Sys2Proof.Machine
end

section
/-! The resume record (R278): what it keeps of a store whose map is not in canonical form. -/

namespace Sys2Proof.Machine

theorem rdB_of_rdBytes_eq {m m' : Memory} {a b n i : Nat} (h : rdBytes m a n = rdBytes m' b n) (hi : i < n) :
    rdB m (a + i) = rdB m' (b + i) := by
  have hg := congrArg (fun bs : List Byte => bs[i]?) h
  simpa [rdBytes, hi] using hg

theorem exec_resumeRecordWrite (id : Nat) (s : State) : exec (.resumeRecordWrite id) s = .next (resumeRecordWrite id s) := rfl

/-- A segment at the bottom of external memory. -/
def lowSegment : Seg := ⟨0, 0x10000000, .priv, false, 7, 0, 1, 0xFFFFFFFF⟩

/-- A resumable MATMUL of core 0 that has stopped. -/
def stoppedMatmul : Op := { offset := 1, bytes := leBytes 2 1 ++ [2], stage := .stopped }

/-- A stopping list of tower 0 that has stopped, with its resume area at the start of segment 0. -/
def stoppedList : WorkList :=
  { id := 4, tenant := 1, tag := 7, quiet := false, priority := 0, ref := 0, submitted := 0, state := .stopping, units := 20,
    resume := 2 ^ 61, records := 0, next := 1, admitted := 0, everAdmitted := true, ops := [stoppedMatmul] }

/-- A state whose stores list the first byte of core 0 twice: a read finds the entry in front. -/
def twiceStored : State :=
  { State.reset with segs := [(16, lowSegment)], lists := [stoppedList], stores := [(0, 1), (0, 2)] }

theorem sound_twiceStored : Claims.sound twiceStored 0 0x4840 = true := by decide +kernel

theorem quiet_twiceStored : Claims.quiet twiceStored = true := by decide +kernel

/-- The image takes the listed bytes in turn, so the later of two entries stays. -/
theorem image_twiceStored : rdB (resumeRecordWrite 4 twiceStored).mem 0x10000 = 2 := by decide +kernel

/-- Refutes O40: the statement asks for the store image in every state, and where a store map lists a byte twice, which no
run reaches (O3 and O4 keep the canonical form), the image holds the last entry while a read of the store finds the first. -/
theorem not_listsStopAndResume : ¬ Obligations.ListsStopAndResume := by
  unfold Obligations.ListsStopAndResume
  intro h
  obtain ⟨-, -, -, hrecord, -⟩ := h 4 stoppedList twiceStored rfl
  obtain ⟨t, he, -, -, -, -, himage⟩ := hrecord 0 lowSegment rfl rfl rfl rfl (by decide) rfl (by decide) rfl
    sound_twiceStored quiet_twiceStored
  obtain rfl : resumeRecordWrite 4 twiceStored = t := Host.Outcome.next.inj ((exec_resumeRecordWrite 4 twiceStored).symm.trans he)
  have hbyte : rdB (resumeRecordWrite 4 twiceStored).mem 0x10000 = rdB twiceStored.stores 0 := by
    simpa only [Nat.zero_mul, Nat.add_zero, Nat.zero_add, storeBase, stoppedList] using
      rdB_of_rdBytes_eq (himage 0 (by decide)) (show 0 < imageBytes by unfold imageBytes; omega)
  have hfirst : (2 : Byte) = 1 := image_twiceStored.symm.trans hbyte
  exact absurd hfirst (by decide)

end Sys2Proof.Machine
end

section
/-! Operations that read and write operands: what stays as it is while their bytes move (R254, R315, R259). -/

namespace Sys2Proof.Machine

/-! ### The registers of a core's reports -/

/-- Event counts, and what a chain reports. -/
def isReport : Reg → Prop
  | .ctrVal u n => n < unitCtrs u
  | .qswin _ n | .qselem _ n | .qstot _ n => n < 9
  | .vcstat _ | .vcsatcnt _ | .qsstat _ => True
  | _ => False

theorem isReport_of_isCount {r : Reg} (h : isCount r) : isReport r := by
  obtain ⟨u, n, hn, rfl⟩ := isCount_high h
  exact hn

theorem Reg.vcstat_off (k : Nat) : (Reg.vcstat k).off = coreBlk k + 0x200 := rfl
theorem Reg.vcsatcnt_off (k : Nat) : (Reg.vcsatcnt k).off = coreBlk k + 0x204 := rfl
theorem Reg.qsstat_off (k : Nat) : (Reg.qsstat k).off = coreBlk k + 0x390 := rfl

theorem coreBlk_low (k : Nat) {x : Nat} (h : x < 0x10000) : (coreBlk k + x) % 0x400000 < 0x200000 := by
  rw [coreBlk, blk]
  omega

theorem report_off {r : Reg} (h : isReport r) : (∃ u n, n < unitCtrs u ∧ r.off = (Reg.ctrVal u n).off) ∨ r.off % 0x400000 < 0x200000 := by
  cases r with
  | ctrVal u n => exact Or.inl ⟨u, n, h, rfl⟩
  | qswin k n =>
    change n < 9 at h
    rw [Reg.qswin_off, Nat.add_assoc]
    exact Or.inr (coreBlk_low k (by omega))
  | qselem k n =>
    change n < 9 at h
    rw [Reg.qselem_off, Nat.add_assoc]
    exact Or.inr (coreBlk_low k (by omega))
  | qstot k n =>
    change n < 9 at h
    rw [Reg.qstot_off, Nat.add_assoc]
    exact Or.inr (coreBlk_low k (by omega))
  | vcstat k =>
    rw [Reg.vcstat_off]
    exact Or.inr (coreBlk_low k (by omega))
  | vcsatcnt k =>
    rw [Reg.vcsatcnt_off]
    exact Or.inr (coreBlk_low k (by omega))
  | qsstat k =>
    rw [Reg.qsstat_off]
    exact Or.inr (coreBlk_low k (by omega))
  | _ => exact h.elim

theorem memChstat_off_ne_report {n c : Nat} (hc : c < 16) {r : Reg} (h : isReport r) : (Reg.memChstat n c).off ≠ r.off := by
  rcases report_off h with ⟨u, i, hi, he⟩ | hr
  · rw [he]
    exact memChstat_off_ne_ctrVal hc hi
  · rw [Reg.memChstat_off, blk]
    omega

theorem memInject_off_ne_report (n : Nat) {r : Reg} (h : isReport r) : (Reg.memInject n).off ≠ r.off := by
  rcases report_off h with ⟨u, i, hi, he⟩ | hr
  · rw [he]
    exact memInject_off_ne_ctrVal hi
  · rw [Reg.memInject_off, blk]
    omega

/-! ### While an operation works -/

/-- From `s` to `t` an operation worked: bytes moved in sound places, lists, units and reports went on. -/
structure Worked (s t : State) : Prop where
  only : Only [.mem, .checks, .stores, .lists, .freeCtr, .cores, .ic] (Claims.unitRegs ++ [.ctrVal]) s t
  checks : ∀ c, c ∈ t.checks → c ∈ s.checks
  reports : RegsBut isReport s t

namespace Worked

variable {s t u : State}

theorem refl (s : State) : Worked s s := ⟨Only.refl s, fun _ h => h, .refl s⟩

theorem trans (h : Worked s t) (k : Worked t u) : Worked s u :=
  ⟨h.only.trans k.only, fun c hc => h.checks c (k.checks c hc), h.reports.trans k.reports⟩

theorem of_stored (h : Stored s t) : Worked s t :=
  ⟨h.only.mono (by decide) (by decide), h.checks, h.counts.mono fun _ => isReport_of_isCount⟩

/-- A step that touches no register and neither memory nor its codewords. -/
theorem of_only {Ps : List Piece} (h : Only Ps [] s t) (hp : Ps ⊆ [.stores, .lists, .freeCtr, .cores, .ic]) : Worked s t :=
  ⟨h.mono (List.Subset.trans hp (by decide)) (List.nil_subset _),
    fun _ hc => h.part .checks (fun hm => absurd (hp hm) (by decide)) ▸ hc, (RegsBut.refl s).of_only h⟩

theorem ctr (s : State) (u code n : Nat) : Worked s (s.ctr u code n) := of_stored (stored_ctr s u code n)

theorem startOp (s : State) (id off : Nat) : Worked s (s.startOp id off) :=
  of_only (only_State_startOp (Ks := []) s id off (Only.refl s) (List.Subset.refl _)) (by decide)

theorem addSteps (s : State) (id off steps aux : Nat) : Worked s (s.addSteps id off steps aux) :=
  of_only (only_State_addSteps (Ks := []) s id off steps aux (Only.refl s) (List.Subset.refl _)) (by decide)

theorem finishOp (s : State) (id off status detail : Nat) : Worked s (s.finishOp id off status detail) :=
  of_only (only_finishOp s id off status detail) (by decide)

theorem bumpFree (s : State) : Worked s s.bumpFree :=
  of_only (only_State_bumpFree (Ks := []) s (Only.refl s) (List.Subset.refl _)) (by decide)

theorem locate (h : Worked s t) : t.locate = s.locate :=
  State.locate_congr h.only.make (h.only.part .chanMapped (by decide)) (h.only.part .domains (by decide))
    (h.only.part .coreState (by decide)) (h.only.part .bankRetired (by decide))

theorem sectorOk (h : Worked s t) {q : Nat} (k : SectorOk s q) : SectorOk t q := by
  refine ⟨by rw [h.locate]; exact k.stores, fun c hc => k.clean c (h.checks c hc), fun n c i hl => ?_⟩
  rw [h.locate] at hl
  have hc : (Loc.ext n c i).chanOk := hl ▸ locate_chanOk s q
  have hreg := h.reports.reg (.memChstat n c) fun r hr => memChstat_off_ne_report hc hr
  rw [State.poisoned, State.regF_congr hreg 30 2]
  exact k.live n c i hl

theorem sound (h : Worked s t) {a n : Nat} (k : Claims.sound s a n = true) : Claims.sound t a n = true := by
  obtain ⟨hn, hq⟩ := (sound_iff s a n).1 k
  exact (sound_iff t a n).2 ⟨hn, fun q hm => h.sectorOk (hq q hm)⟩

theorem usable (h : Worked s t) {p : Place} {n : Nat} (k : Claims.usable s p n = true) : Claims.usable t p n = true := by
  cases p with
  | dev a g => exact h.sound k
  | acc o => rfl
  | stage o => rfl

theorem quiet (h : Worked s t) (k : Claims.quiet s = true) : Claims.quiet t = true := by
  unfold Claims.quiet at k ⊢
  rw [List.all_eq_true] at k ⊢
  intro n hn
  rw [State.regBit_congr (h.reports.reg (.memInject n) fun r hr => memInject_off_ne_report n hr) 63]
  exact k n hn

theorem seg? (h : Worked s t) : t.seg? = s.seg? := by
  funext v slot
  rw [State.seg?, State.seg?, h.only.part .segs (by decide)]

theorem segAllows (h : Worked s t) : t.segAllows = s.segAllows := by
  funext g off r right weights
  unfold State.segAllows State.bankClear State.retired
  rw [h.only.part .bankRetired (by decide)]

theorem resolve (h : Worked s t) (v ref : Nat) (r : Rows) (right : Nat) (weights : Bool) :
    t.resolve v ref r right weights = s.resolve v ref r right weights := by
  unfold State.resolve
  rw [h.seg?, h.segAllows]

theorem resolveOff (h : Worked s t) : t.resolveOff = s.resolveOff := by
  funext v ref off n right
  unfold State.resolveOff
  rw [h.seg?, h.segAllows]

theorem startOf (h : Worked s t) : t.startOf = s.startOf := by
  funext v ref
  unfold State.startOf
  rw [h.seg?]

end Worked

/-! ### Operands -/

theorem bytesAt_congr {s t : State} (h : Claims.noBytes s t) (k : Nat) (p : Place) (n : Nat) :
    Claims.bytesAt t k p n = Claims.bytesAt s k p n := by
  obtain ⟨hm, hs⟩ := h
  cases p with
  | dev a g => exact congrArg (rdBytes · a n) hm
  | acc o => exact congrArg (rdBytes · _ n) hs
  | stage o => exact congrArg (rdBytes · _ n) hs

theorem length_bytesAt (s : State) (k : Nat) (p : Place) (n : Nat) : (Claims.bytesAt s k p n).length = n := by
  cases p <;> exact length_rdBytes _ _ _

theorem noBytes_trans {s t u : State} (h : Claims.noBytes s t) (k : Claims.noBytes t u) : Claims.noBytes s u :=
  ⟨k.1.trans h.1, k.2.trans h.2⟩

theorem noBytes_ctr (s : State) (u code n : Nat) : Claims.noBytes s (s.ctr u code n) :=
  noBytes_of_only (only_State_ctr (Ps := []) (Ks := [.ctrVal]) s u code n (Only.refl s) (by decide)) (by decide) (by decide)

theorem lists_ctr (s : State) (u code n : Nat) : (s.ctr u code n).lists = s.lists :=
  (only_State_ctr (Ps := []) (Ks := [.ctrVal]) s u code n (Only.refl s) (by decide)).part .lists (by decide)

/-- An operand that can be read. -/
theorem opRead_usable {s : State} {p : Place} {n : Nat} (k tenant : Nat) (h : Claims.usable s p n = true) :
    (s.opRead k tenant p n).acc = .ok ∧ (s.opRead k tenant p n).data = Claims.bytesAt s k p n ∧
    Worked s (s.opRead k tenant p n).s ∧ Claims.noBytes s (s.opRead k tenant p n).s ∧ (s.opRead k tenant p n).s.lists = s.lists := by
  cases p with
  | dev a g =>
    obtain ⟨hacc, hdata, code, hs⟩ := opRead_sound (k := k) (tenant := tenant) (g := g) h
    rw [hs]
    exact ⟨hacc, hdata, Worked.ctr s k code _, noBytes_ctr s k code _, lists_ctr s k code _⟩
  | acc o => exact ⟨rfl, rfl, Worked.refl s, ⟨rfl, rfl⟩, rfl⟩
  | stage o => exact ⟨rfl, rfl, Worked.refl s, ⟨rfl, rfl⟩, rfl⟩

/-- Bytes put in a store. -/
def State.storing (s : State) (a : Nat) (bs : List Byte) : State := { s with stores := wrBytes s.stores a bs }

theorem only_storing (s : State) (a : Nat) (bs : List Byte) : Only [.stores] [] s (s.storing a bs) :=
  (Only.refl s).upd_stores (by decide)

theorem opWrite_acc (s : State) (k tenant o : Nat) (bs : List Byte) :
    s.opWrite k tenant (.acc o) bs = (s.storing (storeBase k + o) bs, .ok) := rfl

theorem opWrite_stage (s : State) (k tenant o : Nat) (bs : List Byte) :
    s.opWrite k tenant (.stage o) bs = (s.storing (stageBase k + o) bs, .ok) := rfl

theorem rdBytes_of_holds {m m' : Memory} {a : Nat} {bs : List Byte} (h : Holds m m' a bs) : rdBytes m' a bs.length = bs := by
  refine List.ext_getElem? fun i => ?_
  rcases Nat.lt_or_ge i bs.length with hi | hi
  · rw [getElem?_rdBytes _ _ _ _ hi, h (a + i), if_pos (by omega), Nat.add_sub_cancel_left, List.getD_eq_getElem?_getD,
      List.getElem?_eq_getElem hi]
    rfl
  · rw [List.getElem?_eq_none (by rw [length_rdBytes]; exact hi), List.getElem?_eq_none hi]

theorem stores_opWrite_dev (s : State) (k tenant a : Nat) (g : Seg) (bs : List Byte) :
    (s.opWrite k tenant (.dev a g) bs).1.stores = s.stores := by
  have hw := only_State_writeMem (Ps := [.mem, .checks, .fpDirty, .chanPoisoned, .hbm, .ic, .flog0, .flog1, .mbox])
    (Ks := Claims.listRegs) s a tenant k bs (Only.refl s) (by decide) (by decide)
  rw [State.opWrite, (noBytes_ctr _ _ _ _).2]
  exact hw.part .stores (by decide)

/-- The map that holds a place's bytes, the map that does not, and the address of the place in the first. -/
def Place.map (s : State) : Place → Memory
  | .dev .. => s.mem
  | .acc _ | .stage _ => s.stores

def Place.rest (s : State) : Place → Memory
  | .dev .. => s.stores
  | .acc _ | .stage _ => s.mem

def Place.base (k : Nat) : Place → Nat
  | .dev a _ => a
  | .acc o => storeBase k + o
  | .stage o => stageBase k + o

theorem Place.map_plus (s : State) (p : Place) (i : Nat) : (p.plus i).map s = p.map s := by cases p <;> rfl

theorem Place.rest_plus (s : State) (p : Place) (i : Nat) : (p.plus i).rest s = p.rest s := by cases p <;> rfl

theorem Place.base_plus (k : Nat) (p : Place) (i : Nat) : (p.plus i).base k = p.base k + i := by
  cases p with
  | dev a g => rfl
  | acc o => exact (Nat.add_assoc _ _ _).symm
  | stage o => exact (Nat.add_assoc _ _ _).symm

theorem bytesAt_eq (s : State) (k : Nat) (p : Place) (n : Nat) : Claims.bytesAt s k p n = rdBytes (p.map s) (p.base k) n := by
  cases p <;> rfl

theorem onlyAt_iff {s t : State} {k : Nat} {p : Place} {r : Rows} : Claims.onlyAt s t k p r ↔ p.rest t = p.rest s ∧
    ∀ b, (∀ i, i < r.rows → b < p.base k + r.at i ∨ p.base k + r.at i + r.len ≤ b) → rdB (p.map t) b = rdB (p.map s) b := by
  cases p <;> exact Iff.rfl

theorem noBytes_maps {s t : State} (h : Claims.noBytes s t) (p : Place) : p.map t = p.map s ∧ p.rest t = p.rest s := by
  obtain ⟨hm, hs⟩ := h
  cases p with
  | dev a g => exact ⟨hm, hs⟩
  | acc o => exact ⟨hs, hm⟩
  | stage o => exact ⟨hs, hm⟩

/-- The bytes at a place, and no other, are set. -/
structure Placed (s t : State) (k : Nat) (p : Place) (bs : List Byte) : Prop where
  holds : Holds (p.map s) (p.map t) (p.base k) bs
  rest : p.rest t = p.rest s

theorem Placed.onlyAt {s t : State} {k : Nat} {p : Place} {bs : List Byte} (h : Placed s t k p bs) :
    Claims.onlyAt s t k p (plain bs.length) := by
  refine onlyAt_iff.2 ⟨h.rest, fun b hb => ?_⟩
  have h0 := hb 0 Nat.zero_lt_one
  simp only [plain, Rows.at, Nat.zero_mul, Nat.add_zero] at h0
  rw [h.holds b, if_neg (by omega)]

theorem Placed.bytesAt {s t : State} {k : Nat} {p : Place} {bs : List Byte} (h : Placed s t k p bs) :
    Claims.bytesAt t k p bs.length = bs := by
  rw [bytesAt_eq]
  exact rdBytes_of_holds h.holds

theorem Placed.after {s u t : State} {k : Nat} {p : Place} {bs : List Byte} (h : Placed u t k p bs) (hb : Claims.noBytes s u) :
    Placed s t k p bs := by
  obtain ⟨hm, hr⟩ := noBytes_maps hb p
  exact ⟨hm ▸ h.holds, h.rest.trans hr⟩

theorem Placed.before {s t u : State} {k : Nat} {p : Place} {bs : List Byte} (h : Placed s t k p bs) (hb : Claims.noBytes t u) :
    Placed s u k p bs := by
  obtain ⟨hm, hr⟩ := noBytes_maps hb p
  exact ⟨hm.symm ▸ h.holds, hr.trans h.rest⟩

/-- An operand that can be written. -/
theorem opWrite_usable {s : State} {p : Place} {bs : List Byte} (k tenant : Nat) (h : Claims.usable s p bs.length = true)
    (hq : Claims.quiet s = true) : (s.opWrite k tenant p bs).2 = .ok ∧ Worked s (s.opWrite k tenant p bs).1 ∧
      Placed s (s.opWrite k tenant p bs).1 k p bs ∧ (s.opWrite k tenant p bs).1.lists = s.lists := by
  have hstore : ∀ a, Worked s (s.storing a bs) := fun a => Worked.of_only (only_storing s a bs) (by decide)
  cases p with
  | dev a g =>
    obtain ⟨hok, hst, hold⟩ := opWrite_sound (k := k) (tenant := tenant) (g := g) bs h hq
    have honly := only_State_opWrite (Ps := [.mem, .checks, .fpDirty, .chanPoisoned, .hbm, .ic, .flog0, .flog1, .mbox, .stores])
      (Ks := Claims.listRegs) s k tenant (.dev a g) bs (Only.refl s) (by decide) (by decide)
    exact ⟨hok, Worked.of_stored hst, ⟨hold, stores_opWrite_dev s k tenant a g bs⟩, honly.part .lists (by decide)⟩
  | acc o =>
    rw [opWrite_acc]
    exact ⟨rfl, hstore _, ⟨holds_wrBytes _ _ _, rfl⟩, rfl⟩
  | stage o =>
    rw [opWrite_stage]
    exact ⟨rfl, hstore _, ⟨holds_wrBytes _ _ _, rfl⟩, rfl⟩

/-! ### The operation itself -/

theorem opAt_of_lists {s t : State} {id off : Nat} {st : OpStage} {status : Nat} (h : Claims.opAt s id off st status)
    (hl : t.lists = s.lists) : Claims.opAt t id off st status := by
  rw [Claims.opAt, State.op?_congr hl]
  exact h

theorem opAt_iff {s : State} {id off : Nat} {st : OpStage} {status : Nat} :
    Claims.opAt s id off st status ↔ ∃ o, s.op? id off = some o ∧ o.stage = st ∧ o.status = status := by
  rw [Claims.opAt, Option.map_eq_some_iff]
  simp only [Prod.mk.injEq]

theorem opAt_startOp {s : State} {id off status : Nat} (h : Claims.opAt s id off .queued status) :
    Claims.opAt (s.startOp id off) id off .started status := by
  obtain ⟨o, ho, hq, hs⟩ := opAt_iff.1 h
  exact opAt_iff.2 ⟨_, State.op?_startOp ho hq, rfl, hs⟩

theorem State.op?_at {s : State} {id off : Nat} {o : Op} (h : s.op? id off = some o) : o.offset = off := by
  cases hl : s.list? id with
  | none => rw [State.op?, hl] at h; cases h
  | some l => exact WorkList.op?_offset (State.op?_of_list hl ▸ h)

theorem opAt_addSteps {s : State} {id off status : Nat} {st : OpStage} (h : Claims.opAt s id off st status) (steps aux : Nat) :
    Claims.opAt (s.addSteps id off steps aux) id off st status := by
  obtain ⟨o, ho, hq, hs⟩ := opAt_iff.1 h
  obtain rfl := State.op?_at ho
  refine opAt_iff.2 ⟨{ o with steps := o.steps + steps, auxSteps := o.auxSteps + aux }, ?_, hq, hs⟩
  rw [State.addSteps, ho]
  exact State.op?_setOp_same (o := { o with steps := o.steps + steps, auxSteps := o.auxSteps + aux }) ho

theorem opAt_ended {s : State} {id off status : Nat} {st : OpStage} (h : Claims.opAt s id off st status) (hst : st ≠ .finished)
    (status' detail : Nat) : Claims.opAt (s.finishOp id off status' detail) id off .finished status' := by
  obtain ⟨o, ho, hq, -⟩ := opAt_iff.1 h
  exact opAt_iff.2 ⟨_, State.op?_finishOp status' detail ho (hq ▸ hst), rfl, rfl⟩

/-- From `u` to `v` the operation has started and worked, and no byte has changed yet. -/
structure Busy (id off : Nat) (u v : State) : Prop where
  worked : Worked u v
  bytes : Claims.noBytes u v
  op : Claims.opAt v id off .started osRunning

namespace Busy

variable {id off : Nat} {u v : State}

theorem start (h : Claims.opAt u id off .queued osRunning) : Busy id off u (u.startOp id off) :=
  ⟨Worked.startOp u id off, noBytes_of_only (only_State_startOp (Ks := []) u id off (Only.refl u) (List.Subset.refl _)) (by decide)
    (by decide), opAt_startOp h⟩

theorem ctr (h : Busy id off u v) (k code n : Nat) : Busy id off u (v.ctr k code n) :=
  ⟨h.worked.trans (Worked.ctr v k code n), noBytes_trans h.bytes (noBytes_ctr v k code n), opAt_of_lists h.op (lists_ctr v k code n)⟩

theorem addSteps (h : Busy id off u v) (steps aux : Nat) : Busy id off u (v.addSteps id off steps aux) :=
  ⟨h.worked.trans (Worked.addSteps v id off steps aux), noBytes_trans h.bytes
    (noBytes_of_only (only_State_addSteps (Ks := []) v id off steps aux (Only.refl v) (List.Subset.refl _)) (by decide) (by decide)),
    opAt_addSteps h.op steps aux⟩

theorem bumpFree (h : Busy id off u v) : Busy id off u v.bumpFree := ⟨h.worked.trans (Worked.bumpFree v), h.bytes, h.op⟩

/-- An operand is read as it stood at issue. -/
theorem read (h : Busy id off u v) {p : Place} {n : Nat} (k tenant : Nat) (hp : Claims.usable u p n = true) :
    (v.opRead k tenant p n).acc = .ok ∧ (v.opRead k tenant p n).data = Claims.bytesAt u k p n ∧
    Busy id off u (v.opRead k tenant p n).s := by
  obtain ⟨hacc, hdata, hw, hb, hl⟩ := opRead_usable k tenant (h.worked.usable hp)
  exact ⟨hacc, hdata.trans (bytesAt_congr h.bytes k p n), h.worked.trans hw, noBytes_trans h.bytes hb, opAt_of_lists h.op hl⟩

/-- The operation ends without its bytes. -/
theorem fails (h : Busy id off u v) (status detail : Nat) : Claims.noBytes u (v.finishOp id off status detail) ∧
    Claims.opAt (v.finishOp id off status detail) id off .finished status :=
  ⟨noBytes_trans h.bytes (noBytes_of_only (only_finishOp v id off status detail) (by decide) (by decide)),
    opAt_ended h.op (by decide) status detail⟩

/-- The operation writes its bytes and ends. -/
theorem write (h : Busy id off u v) {p : Place} {bs : List Byte} (k tenant : Nat) (hp : Claims.usable u p bs.length = true)
    (hq : Claims.quiet u = true) : (v.opWrite k tenant p bs).2 = .ok ∧
      Placed u ((v.opWrite k tenant p bs).1.finishOp id off osOk 0) k p bs ∧
      Claims.opAt ((v.opWrite k tenant p bs).1.finishOp id off osOk 0) id off .finished osOk := by
  obtain ⟨hok, -, hpl, hl⟩ := opWrite_usable k tenant (h.worked.usable hp) (h.worked.quiet hq)
  exact ⟨hok, (hpl.after h.bytes).before (noBytes_of_only (only_finishOp _ id off osOk 0) (by decide) (by decide)),
    opAt_ended (opAt_of_lists h.op hl) (by decide) osOk 0⟩

end Busy

end Sys2Proof.Machine
end

section
/-! The data mover (R267 to R269): COPY, GATHER, DIGEST and SAMPLE. -/

namespace Sys2Proof.Machine

/-! ### An operation that its unit takes over -/

theorem opAt_issued {s : State} {id : Nat} {l : WorkList} {o : Op} (h : Issued s id l o) :
    Claims.opAt (Claims.issued s l o) (Claims.listWith l o).id o.offset .queued osRunning := by
  have hid : (Claims.listWith l o).id = id := h.id_eq
  rw [hid, h.offset]
  exact opAt_iff.2 ⟨o, h.op, h.queued, h.status⟩

theorem segs_issued (s : State) (l : WorkList) (o : Op) : (Claims.issued s l o).segs = s.segs :=
  (only_issued s l o).part .segs (by decide)

theorem startOf_congr {s t : State} (h : t.segs = s.segs) : t.startOf = s.startOf := by
  funext v ref
  unfold State.startOf State.seg?
  rw [h]

/-! ### COPY -/

/-- A COPY whose bytes have been read writes them in its own package. -/
def State.copyWithin (v : State) (m : WorkList) (o : Op) (data : List Byte) : State :=
  match v.resolve m.tenant (o.f 0x10 8) (plain (cpBytes o)) rWrite with
  | none => v.finishOp m.id o.offset osSegment 0x10
  | some dst =>
    let a := v.startOf m.tenant (o.f 8 8)
    let b := v.startOf m.tenant (o.f 0x10 8)
    let bytes := if v.copyMeets m o then openBytes v.freeCtr 0 (fun i => meets (a.1, a.2 + i) 1 b (cpBytes o)) data else data
    let w := v.bumpFree.opWrite o.core m.tenant dst bytes
    w.1.finishOp m.id o.offset w.2.status 0

section
variable {u : State} {m : WorkList} {o : Op} {src : Place} (ho : Claims.opAt u m.id o.offset .queued osRunning)
  (hsrc : u.resolve m.tenant (o.f 8 8) (plain (cpBytes o)) rRead = some src) (hu : Claims.usable u src (cpBytes o) = true)
include ho hsrc hu

/-- The source has been read. -/
theorem runCopy_read : ∃ v, Busy m.id o.offset u v ∧ u.runCopy m o =
    if cpRemote o then (if cpPkg o = u.pkgId then v.copyHere m o (Claims.bytesAt u o.core src (cpBytes o))
      else v.copyAway m o (Claims.bytesAt u o.core src (cpBytes o)))
    else v.copyWithin m o (Claims.bytesAt u o.core src (cpBytes o)) := by
  have h0 := Busy.start ho
  obtain ⟨hacc, hdata, h1⟩ := h0.read o.core m.tenant hu
  refine ⟨_, (h1.addSteps (ceilDiv (cpBytes o) 64) 0).ctr o.core 0x40 (ceilDiv (cpBytes o) 64), ?_⟩
  rw [State.runCopy]
  dsimp only
  rw [h0.worked.resolve, hsrc]
  dsimp only
  rw [if_neg (not_not.2 hacc), hdata]
  rfl

theorem runCopy_local (hr : cpRemote o = false) {dst : Place} (hdst : u.resolve m.tenant (o.f 0x10 8) (plain (cpBytes o)) rWrite = some dst)
    (hw : Claims.usable u dst (cpBytes o) = true) (hq : Claims.quiet u = true) :
    Claims.opAt (u.runCopy m o) m.id o.offset .finished osOk ∧ Claims.onlyAt u (u.runCopy m o) o.core dst (plain (cpBytes o)) ∧
      (u.copyMeets m o = false → Claims.bytesAt (u.runCopy m o) o.core dst (cpBytes o) = Claims.bytesAt u o.core src (cpBytes o)) := by
  obtain ⟨v, hv, he⟩ := runCopy_read ho hsrc hu
  rw [if_neg (by rw [hr]; exact Bool.false_ne_true), State.copyWithin, hv.worked.resolve, hdst] at he
  have hmeets : v.copyMeets m o = u.copyMeets m o := by
    unfold State.copyMeets
    rw [hv.worked.startOf]
  dsimp only at he
  rw [hmeets] at he
  have hlen : ∀ c b isOpen, (openBytes c b isOpen (Claims.bytesAt u o.core src (cpBytes o))).length = cpBytes o := fun c b isOpen => by
    rw [openBytes, List.length_mapIdx, length_bytesAt]
  have hend : ∀ bs : List Byte, bs.length = cpBytes o →
      u.runCopy m o = (v.bumpFree.opWrite o.core m.tenant dst bs).1.finishOp m.id o.offset (v.bumpFree.opWrite o.core m.tenant dst bs).2.status 0 →
      Claims.opAt (u.runCopy m o) m.id o.offset .finished osOk ∧ Claims.onlyAt u (u.runCopy m o) o.core dst (plain (cpBytes o)) ∧
        Claims.bytesAt (u.runCopy m o) o.core dst (cpBytes o) = bs := fun bs hl hrun => by
    obtain ⟨hok, hp, hop⟩ := hv.bumpFree.write (bs := bs) o.core m.tenant (hl.symm ▸ hw) hq
    rw [hok] at hrun
    replace hrun : u.runCopy m o = (v.bumpFree.opWrite o.core m.tenant dst bs).1.finishOp m.id o.offset osOk 0 := hrun
    rw [hrun, ← hl]
    exact ⟨hop, hp.onlyAt, hp.bytesAt⟩
  cases hm : u.copyMeets m o with
  | true =>
    rw [hm, if_pos rfl] at he
    obtain ⟨h1, h2, -⟩ := hend _ (hlen _ _ _) he
    exact ⟨h1, h2, fun hc => Bool.noConfusion hc⟩
  | false =>
    rw [hm, if_neg Bool.false_ne_true] at he
    obtain ⟨h1, h2, h3⟩ := hend _ (length_bytesAt _ _ _ _) he
    exact ⟨h1, h2, fun _ => h3⟩

end

/-- Messages that leave change no list and no byte. -/
theorem copyAway_keeps (v : State) (m : WorkList) (o : Op) (data : List Byte) : ∃ w, Only [.out, .ports, .reqs, .tagCtr] [.ctrVal] v w ∧
    (v.copyAway m o data = w ∨ v.copyAway m o data = w.finishOp m.id o.offset osNodeLost 0) := by
  rw [State.copyAway]
  dsimp only
  have hk : ∀ ps : List (Nat × Nat), ∀ x : State × Bool, Only [.out, .ports, .reqs, .tagCtr] [.ctrVal] v x.1 →
      Only [.out, .ports, .reqs, .tagCtr] [.ctrVal] v (ps.foldl (fun (x : State × Bool) p =>
        if !x.2 then x
        else
          let q := x.1.request o.core (remoteAddr (o.f 0x10 8) + p.1) m.tenant (some (m.id, o.offset))
          let r := q.1.sendOut (o.core / 8) (v.mkMsg (cpPkg o) o.core 1 1 m.tenant q.2 1 (remoteAddr (o.f 0x10 8) + p.1)
            ((data.drop p.1).take p.2))
          if r.2 then (r.1, true) else ({ r.1 with reqs := x.1.reqs }, false)) x).1 := fun ps x hx =>
    foldl_keeps (fun x : State × Bool => Only [.out, .ports, .reqs, .tagCtr] [.ctrVal] v x.1) _ ps x hx fun x p _ hx => by
      dsimp only
      have hsent : ∀ msg, Only [.out, .ports, .reqs, .tagCtr] [.ctrVal] v ((x.1.request o.core (remoteAddr (o.f 0x10 8) + p.1) m.tenant
          (some (m.id, o.offset))).1.sendOut (o.core / 8) msg).1 := fun msg =>
        (hx.trans ((only_request x.1 _ _ _ _).mono (by decide) (List.nil_subset _))).trans
          ((only_sendOut _ _ msg).mono (by decide) (List.Subset.refl _))
      split
      · exact hx
      · split
        · exact hsent _
        · exact Only.upd_reqs (hsent _) (by decide)
  refine ⟨_, hk (sectorPieces (remoteAddr (o.f 0x10 8)) data.length) (v, true) ((Only.refl v).mono (List.nil_subset _) (List.nil_subset _)), ?_⟩
  split
  · exact Or.inl rfl
  · exact Or.inr rfl

theorem runCopy_remote {u : State} {m : WorkList} {o : Op} {src : Place} (ho : Claims.opAt u m.id o.offset .queued osRunning)
    (hsrc : u.resolve m.tenant (o.f 8 8) (plain (cpBytes o)) rRead = some src) (hu : Claims.usable u src (cpBytes o) = true)
    (hr : cpRemote o = true) (hp : cpPkg o ≠ u.pkgId) : Claims.noBytes u (u.runCopy m o) ∧
      (Claims.opAt (u.runCopy m o) m.id o.offset .finished osNodeLost ∨ Claims.opAt (u.runCopy m o) m.id o.offset .started osRunning) := by
  obtain ⟨v, hv, he⟩ := runCopy_read ho hsrc hu
  rw [if_pos hr, if_neg hp] at he
  obtain ⟨w, hw, hend⟩ := copyAway_keeps v m o (Claims.bytesAt u o.core src (cpBytes o))
  have hb : Claims.noBytes u w := noBytes_trans hv.bytes (noBytes_of_only hw (by decide) (by decide))
  have hop : Claims.opAt w m.id o.offset .started osRunning := opAt_of_lists hv.op (hw.part .lists (by decide))
  rw [he]
  rcases hend with hend | hend
  · rw [hend]
    exact ⟨hb, Or.inr hop⟩
  · rw [hend]
    exact ⟨noBytes_trans hb (noBytes_of_only (only_finishOp w _ _ _ _) (by decide) (by decide)),
      Or.inl (opAt_ended hop (by decide) osNodeLost 0)⟩

/-! ### DIGEST -/

theorem runDigest_noBytes (u : State) (m : WorkList) (o : Op) : Claims.noBytes u (u.runDigest m o) :=
  noBytes_of_only (only_State_runDigest (Ps := [.fpDirty, .chanPoisoned, .hbm, .ic, .flog0, .flog1, .mbox, .lists]) (Ks := Claims.listRegs)
    u m o (Only.refl u) (by decide) (by decide)) (by decide) (by decide)

theorem runDigest_digests {u : State} {m : WorkList} {o : Op} {p : Place} (ho : Claims.opAt u m.id o.offset .queued osRunning)
    (hp : u.resolve m.tenant (o.f 8 8) (plain (o.f 0x10 8)) rRead = some p) (hu : Claims.usable u p (o.f 0x10 8) = true) :
    ((u.runDigest m o).op? m.id o.offset).map (fun q => (q.stage, q.status, q.digest)) =
      some (.finished, osOk, crc64Final (crc64Feed crc64Init (Claims.bytesAt u o.core p (o.f 0x10 8)))) := by
  have h0 := Busy.start ho
  obtain ⟨hacc, hdata, h1⟩ := h0.read o.core m.tenant hu
  obtain ⟨q, hq, hst, -⟩ := opAt_iff.1 ((h1.addSteps (ceilDiv (o.f 0x10 8) 64) 0).ctr o.core 0x40 (ceilDiv (o.f 0x10 8) 64)).op
  rw [State.runDigest]
  dsimp only
  rw [h0.worked.resolve, hp]
  dsimp only
  rw [if_neg (not_not.2 hacc), hdata, hq]
  dsimp only
  have hoff := State.op?_at hq
  have hset : ∀ v : State, v.op? m.id o.offset = some q → ∀ d, ((v.setOp m.id { q with digest := d }).finishOp m.id o.offset osOk 0).op?
      m.id o.offset = some (({ q with digest := d } : Op).ended osOk 0) := fun v hv d => by
    refine State.op?_finishOp osOk 0 ?_ (by rw [hst]; decide)
    have h := State.op?_setOp_same (s := v) (id := m.id) (o := { q with digest := d }) (p := q) (by rw [← hv, ← hoff])
    rw [← hoff]
    exact h
  rw [hset _ hq]
  rfl

/-! ### Rows of a place -/

theorem rdBytes_eq_of {m : Memory} {a : Nat} {bs : List Byte} (h : ∀ j, j < bs.length → rdB m (a + j) = bs.getD j 0) :
    rdBytes m a bs.length = bs := by
  refine List.ext_getElem? fun j => ?_
  rcases Nat.lt_or_ge j bs.length with hj | hj
  · rw [getElem?_rdBytes _ _ _ _ hj, h j hj, List.getD_eq_getElem?_getD, List.getElem?_eq_getElem hj]
    rfl
  · rw [List.getElem?_eq_none (by rw [length_rdBytes]; exact hj), List.getElem?_eq_none hj]

theorem usable_plus {s : State} {p : Place} {n i len : Nat} (h : Claims.usable s p n = true) (hi : i + len ≤ n) :
    Claims.usable s (p.plus i) len = true := by
  cases p with
  | dev a g => exact sound_within h (Nat.le_add_right _ _) (by omega)
  | acc o => rfl
  | stage o => rfl

theorem row_in_span {c pitch n i : Nat} (hi : i < c) : i * pitch + n ≤ (⟨c, pitch, n⟩ : Rows).span := by
  have := Nat.mul_le_mul_right pitch (show i ≤ c - 1 by omega)
  show i * pitch + n ≤ (c - 1) * pitch + n
  omega

/-- The first `c` rows of a place, each of `n` bytes, are those of `g`, and no other byte changed. -/
structure RowsPlaced (s t : State) (k : Nat) (p : Place) (pitch n c : Nat) (g : Nat → List Byte) : Prop where
  rows : ∀ i j, i < c → j < n → rdB (p.map t) (p.base k + i * pitch + j) = (g i).getD j 0
  apart : ∀ b, (∀ i, i < c → b < p.base k + i * pitch ∨ p.base k + i * pitch + n ≤ b) → rdB (p.map t) b = rdB (p.map s) b
  rest : p.rest t = p.rest s

theorem RowsPlaced.step {s t u : State} {k pitch n c : Nat} {p : Place} {g : Nat → List Byte} (h : RowsPlaced s t k p pitch n c g)
    (hw : Placed t u k (p.plus (c * pitch)) (g c)) (hn : (g c).length = n) (hp : n ≤ pitch) : RowsPlaced s u k p pitch n (c + 1) g := by
  have hold : ∀ b, rdB (p.map u) b = if p.base k + c * pitch ≤ b ∧ b < p.base k + c * pitch + n then
      (g c).getD (b - (p.base k + c * pitch)) 0 else rdB (p.map t) b := fun b => by
    have hb := hw.holds b
    rw [Place.map_plus, Place.map_plus, Place.base_plus, hn] at hb
    exact hb
  refine ⟨fun i j hi hj => ?_, fun b hb => ?_, by rw [← Place.rest_plus u p (c * pitch), hw.rest, Place.rest_plus, h.rest]⟩
  · rw [hold]
    rcases Nat.lt_succ_iff_lt_or_eq.1 hi with hlt | rfl
    · have := Nat.mul_le_mul_right pitch (show i + 1 ≤ c by omega)
      rw [Nat.add_mul, Nat.one_mul] at this
      rw [if_neg (by omega)]
      exact h.rows i j hlt hj
    · rw [if_pos (by omega), Nat.add_sub_cancel_left]
  · rw [hold, if_neg (by have := hb c (Nat.lt_succ_self c); omega)]
    exact h.apart b fun i hi => hb i (Nat.lt_succ_of_lt hi)

theorem RowsPlaced.bytesAt {s t : State} {k pitch n c : Nat} {p : Place} {g : Nat → List Byte} (h : RowsPlaced s t k p pitch n c g)
    {i : Nat} (hi : i < c) (hn : (g i).length = n) : Claims.bytesAt t k (p.plus (i * pitch)) n = g i := by
  rw [bytesAt_eq, Place.map_plus, Place.base_plus, ← hn]
  exact rdBytes_eq_of fun j hj => h.rows i j hi (hn ▸ hj)

theorem RowsPlaced.onlyAt {s t : State} {k pitch n c : Nat} {p : Place} {g : Nat → List Byte} (h : RowsPlaced s t k p pitch n c g) :
    Claims.onlyAt s t k p ⟨c, pitch, n⟩ :=
  onlyAt_iff.2 ⟨h.rest, fun b hb => h.apart b hb⟩

theorem RowsPlaced.after {s u t : State} {k pitch n c : Nat} {p : Place} {g : Nat → List Byte} (h : RowsPlaced u t k p pitch n c g)
    (hb : Claims.noBytes s u) : RowsPlaced s t k p pitch n c g := by
  obtain ⟨hm, hr⟩ := noBytes_maps hb p
  exact ⟨h.rows, fun b ha => (h.apart b ha).trans (by rw [hm]), h.rest.trans hr⟩

theorem RowsPlaced.before {s t u : State} {k pitch n c : Nat} {p : Place} {g : Nat → List Byte} (h : RowsPlaced s t k p pitch n c g)
    (hb : Claims.noBytes t u) : RowsPlaced s u k p pitch n c g := by
  obtain ⟨hm, hr⟩ := noBytes_maps hb p
  exact ⟨fun i j hi hj => by rw [hm]; exact h.rows i j hi hj, fun b ha => by rw [hm]; exact h.apart b ha, hr.trans h.rest⟩

/-- Rows written in turn. -/
def State.putRows (s : State) (k tenant : Nat) (p : Place) (pitch c : Nat) (g : Nat → List Byte) : State × Acc :=
  (List.range c).foldl (fun x i =>
    let w := x.1.opWrite k tenant (p.plus (i * pitch)) (g i)
    (w.1, x.2.first w.2)) (s, .ok)

theorem putRows_usable {s : State} {k tenant pitch n c : Nat} {p : Place} {g : Nat → List Byte} (hn : ∀ i, i < c → (g i).length = n)
    (hp : n ≤ pitch) (hu : ∀ i, i < c → Claims.usable s (p.plus (i * pitch)) n = true) (hq : Claims.quiet s = true) :
    (s.putRows k tenant p pitch c g).2 = .ok ∧ Worked s (s.putRows k tenant p pitch c g).1 ∧
      RowsPlaced s (s.putRows k tenant p pitch c g).1 k p pitch n c g ∧ (s.putRows k tenant p pitch c g).1.lists = s.lists := by
  induction c with
  | zero => exact ⟨rfl, Worked.refl s, ⟨fun _ _ h => absurd h (Nat.not_lt_zero _), fun _ _ => rfl, rfl⟩, rfl⟩
  | succ c ih =>
    obtain ⟨hok, hw, hr, hl⟩ := ih (fun i hi => hn i (Nat.lt_succ_of_lt hi)) fun i hi => hu i (Nat.lt_succ_of_lt hi)
    have hlen := hn c (Nat.lt_succ_self c)
    have he : s.putRows k tenant p pitch (c + 1) g =
        (((s.putRows k tenant p pitch c g).1.opWrite k tenant (p.plus (c * pitch)) (g c)).1,
          (s.putRows k tenant p pitch c g).2.first ((s.putRows k tenant p pitch c g).1.opWrite k tenant (p.plus (c * pitch)) (g c)).2) := by
      rw [State.putRows, List.range_succ, List.foldl_append]
      rfl
    rw [he, hok]
    obtain ⟨hok', hw', hp', hl'⟩ := opWrite_usable k tenant (hw.usable (hlen.symm ▸ hu c (Nat.lt_succ_self c))) (hw.quiet hq)
    rw [hok']
    exact ⟨rfl, hw.trans hw', hr.step hp' hlen hp, hl'.trans hl⟩

/-! ### GATHER -/

/-- The rows of a GATHER are read. -/
def RowsRead.rest (x : RowsRead) (k tenant n : Nat) (ps : List Place) : RowsRead :=
  ps.foldl (fun (x : RowsRead) p =>
    let q := x.s.opRead k tenant p n
    { s := q.s, acc := x.acc.first q.acc, rows := x.rows ++ [q.data] }) x

theorem rest_usable {id off k tenant n : Nat} {u : State} {ps : List Place} (hps : ∀ p, p ∈ ps → Claims.usable u p n = true)
    {x : RowsRead} (hx : Busy id off u x.s) (hacc : x.acc = .ok) : Busy id off u (x.rest k tenant n ps).s ∧
      (x.rest k tenant n ps).acc = .ok ∧ (x.rest k tenant n ps).rows = x.rows ++ ps.map (Claims.bytesAt u k · n) := by
  induction ps generalizing x with
  | nil => exact ⟨hx, hacc, (List.append_nil _).symm⟩
  | cons p ps ih =>
    obtain ⟨hacc', hdata, hb⟩ := hx.read k tenant (hps p (List.mem_cons_self ..))
    obtain ⟨h1, h2, h3⟩ := ih (fun q hq => hps q (List.mem_cons_of_mem _ hq))
      (x := { s := (x.s.opRead k tenant p n).s, acc := x.acc.first (x.s.opRead k tenant p n).acc,
              rows := x.rows ++ [(x.s.opRead k tenant p n).data] }) hb (by rw [hacc, hacc']; rfl)
    refine ⟨h1, h2, h3.trans ?_⟩
    rw [hdata, List.map_cons, List.append_assoc]
    rfl

theorem openBytes_closed {c b : Nat} {isOpen : Nat → Bool} {bs : List Byte} (h : ∀ i, i < bs.length → isOpen i = false) :
    openBytes c b isOpen bs = bs := by
  refine List.ext_getElem? fun i => ?_
  rw [openBytes, List.getElem?_mapIdx]
  rcases Nat.lt_or_ge i bs.length with hi | hi
  · rw [List.getElem?_eq_getElem hi, Option.map_some, h i hi]
    rfl
  · rw [List.getElem?_eq_none hi]
    rfl

theorem inDst_byte {s : State} {m : WorkList} {o : Op} {x y n j : Nat} (h : s.inDst m o (x, y) n = false) (hj : j < n) :
    s.inDst m o (x, y + j) 1 = false := by
  unfold State.inDst at h ⊢
  rw [List.any_eq_false] at h ⊢
  intro i hi hc
  refine h i hi ?_
  simp only [meets, overlaps, Bool.and_eq_true, decide_eq_true_eq] at hc ⊢
  omega

/-- Indices beside their rows, numbered. -/
theorem zipIdx_zip_range {α β : Type} (c : Nat) (f : Nat → α) (h : Nat → β) :
    (List.zip ((List.range c).map f) ((List.range c).map h)).zipIdx = (List.range c).map fun i => ((f i, h i), i) := by
  refine List.ext_getElem (by simp) fun i h1 h2 => ?_
  simp

section
variable {u : State} {m : WorkList} {o : Op} {ix dst : Place} (ho : Claims.opAt u m.id o.offset .queued osRunning)
  (hix : u.resolve m.tenant (o.f 0x18 8) (plain (4 * gaCount o)) rRead = some ix)
  (hdst : u.resolve m.tenant (o.f 0x10 8) (gaDst o) rWrite = some dst) (hu : Claims.usable u ix (4 * gaCount o) = true)

/-- Row i's index. -/
def State.gaRow (u : State) (o : Op) (ix : Place) (i : Nat) : Nat := fieldAt (Claims.bytesAt u o.core ix (4 * gaCount o)) (4 * i) 4

/-- Where row i of a GATHER lies, before its extent is checked. -/
def State.gaAt (u : State) (m : WorkList) (o : Op) (ix : Place) (i : Nat) : Nat × Nat :=
  ((u.startOf m.tenant (o.f 8 8)).1, (u.startOf m.tenant (o.f 8 8)).2 + u.gaRow o ix i * gaSrcPitch o)

def State.gaSrc (u : State) (m : WorkList) (o : Op) (ix : Place) (i : Nat) : Option Place :=
  u.resolveOff m.tenant (o.f 8 8) (u.gaRow o ix i * gaSrcPitch o) (gaBytes o) rRead

/-- The rows are read and written. -/
def State.gather (v : State) (m : WorkList) (o : Op) (dst : Place) (idx : List Nat) (at_ : Nat → Nat × Nat) (ps : List Place) : State :=
  let r := ({ s := v } : RowsRead).rest o.core m.tenant (gaBytes o) ps
  let s1 := (r.s.addSteps m.id o.offset (gaCount o * ceilDiv (gaBytes o) 64) 0).ctr o.core 0x40 (gaCount o * ceilDiv (gaBytes o) 64)
  if r.acc ≠ .ok then (s1.spoil o.core m.tenant (some dst) (gaDst o) r.acc).finishOp m.id o.offset r.acc.status 0
  else
    let w := ((List.zip idx r.rows).zipIdx).foldl (fun (x : State × Acc) e =>
      let bytes := if o.nondet then openBytes s1.freeCtr (e.2 * gaBytes o) (fun j => s1.inDst m o ((at_ e.1.1).1, (at_ e.1.1).2 + j) 1) e.1.2
        else e.1.2
      let w := x.1.opWrite o.core m.tenant (dst.plus (e.2 * gaDstPitch o)) bytes
      (w.1, x.2.first w.2)) (s1.bumpFree, Acc.ok)
    w.1.finishOp m.id o.offset w.2.status 0

include ho hix hdst hu

/-- The indices of a GATHER have been read. -/
theorem runGather_read : ∃ v, Busy m.id o.offset u v ∧ u.runGather m o =
    if !o.nondet && ((List.range (gaCount o)).map (u.gaRow o ix)).any (fun i => u.inDst m o
      ((u.startOf m.tenant (o.f 8 8)).1, (u.startOf m.tenant (o.f 8 8)).2 + i * gaSrcPitch o) (gaBytes o)) then
      v.finishOp m.id o.offset osMalformed 2
    else if (((List.range (gaCount o)).map (u.gaRow o ix)).map fun i =>
      u.resolveOff m.tenant (o.f 8 8) (i * gaSrcPitch o) (gaBytes o) rRead).any Option.isNone then v.finishOp m.id o.offset osSegment 8
    else v.gather m o dst ((List.range (gaCount o)).map (u.gaRow o ix))
      (fun i => ((u.startOf m.tenant (o.f 8 8)).1, (u.startOf m.tenant (o.f 8 8)).2 + i * gaSrcPitch o))
      ((((List.range (gaCount o)).map (u.gaRow o ix)).map fun i =>
        u.resolveOff m.tenant (o.f 8 8) (i * gaSrcPitch o) (gaBytes o) rRead).filterMap id) := by
  have h0 := Busy.start ho
  obtain ⟨hacc, hdata, h1⟩ := h0.read o.core m.tenant hu
  refine ⟨_, h1, ?_⟩
  have hin : (u.startOp m.id o.offset).inDst m o = u.inDst m o := by
    funext a n
    unfold State.inDst
    rw [h0.worked.startOf]
  rw [State.runGather]
  dsimp only
  rw [h0.worked.resolve, h0.worked.resolve, hix, hdst]
  dsimp only
  rw [if_neg (not_not.2 hacc), hdata, hin, h0.worked.startOf, h0.worked.resolveOff]
  rfl

theorem runGather_overlap (hn : o.nondet = false)
    (h : ∃ i, i < gaCount o ∧ u.inDst m o (u.gaAt m o ix i) (gaBytes o) = true) :
    Claims.noBytes u (u.runGather m o) ∧ Claims.opAt (u.runGather m o) m.id o.offset .finished osMalformed := by
  obtain ⟨v, hv, he⟩ := runGather_read ho hix hdst hu
  obtain ⟨i, hi, hin⟩ := h
  rw [if_pos ?_] at he
  · rw [he]
    exact hv.fails osMalformed 2
  · rw [hn, Bool.not_false, Bool.true_and, List.any_map, List.any_eq_true]
    exact ⟨i, List.mem_range.2 hi, hin⟩

variable (hclear : ∀ i, i < gaCount o → u.inDst m o (u.gaAt m o ix i) (gaBytes o) = false)
include hclear

omit ho hix hdst hu in
theorem gather_clear : ¬ (!o.nondet && ((List.range (gaCount o)).map (u.gaRow o ix)).any (fun i => u.inDst m o
    ((u.startOf m.tenant (o.f 8 8)).1, (u.startOf m.tenant (o.f 8 8)).2 + i * gaSrcPitch o) (gaBytes o))) = true := by
  rw [List.any_map, Bool.and_eq_true, List.any_eq_true]
  rintro ⟨-, i, hi, hc⟩
  have := hclear i (List.mem_range.1 hi)
  exact absurd (this.symm.trans hc) Bool.false_ne_true

theorem runGather_missing (h : ∃ i, i < gaCount o ∧ u.gaSrc m o ix i = none) :
    Claims.noBytes u (u.runGather m o) ∧ Claims.opAt (u.runGather m o) m.id o.offset .finished osSegment := by
  obtain ⟨v, hv, he⟩ := runGather_read ho hix hdst hu
  obtain ⟨i, hi, hin⟩ := h
  rw [if_neg (gather_clear hclear), if_pos ?_] at he
  · rw [he]
    exact hv.fails osSegment 8
  · rw [List.map_map, List.any_map, List.any_eq_true]
    exact ⟨i, List.mem_range.2 hi, Option.isNone_iff_eq_none.2 hin⟩

theorem runGather_gathers (hp : gaBytes o ≤ gaDstPitch o) (hd : Claims.usable u dst (gaDst o).span = true)
    (hq : Claims.quiet u = true)
    (h : ∀ i, i < gaCount o → ∃ p, u.gaSrc m o ix i = some p ∧ Claims.usable u p (gaBytes o) = true) :
    Claims.opAt (u.runGather m o) m.id o.offset .finished osOk ∧ Claims.onlyAt u (u.runGather m o) o.core dst (gaDst o) ∧
      ∀ i p, i < gaCount o → u.gaSrc m o ix i = some p →
        Claims.bytesAt (u.runGather m o) o.core (dst.plus (i * gaDstPitch o)) (gaBytes o) = Claims.bytesAt u o.core p (gaBytes o) := by
  obtain ⟨v, hv, he⟩ := runGather_read ho hix hdst hu
  have hsrc : ∀ i, i < gaCount o → u.gaSrc m o ix i = some ((u.gaSrc m o ix i).getD (.acc 0)) ∧
      Claims.usable u ((u.gaSrc m o ix i).getD (.acc 0)) (gaBytes o) = true := fun i hi => by
    obtain ⟨p, hp, hup⟩ := h i hi
    rw [hp]
    exact ⟨rfl, hup⟩
  have hps : ((((List.range (gaCount o)).map (u.gaRow o ix)).map fun i =>
      u.resolveOff m.tenant (o.f 8 8) (i * gaSrcPitch o) (gaBytes o) rRead).filterMap id) =
      (List.range (gaCount o)).map fun i => (u.gaSrc m o ix i).getD (.acc 0) := by
    rw [List.map_map, List.filterMap_map, ← List.filterMap_eq_map]
    exact List.filterMap_congr fun i hi => (hsrc i (List.mem_range.1 hi)).1
  rw [if_neg (gather_clear hclear), if_neg ?_, hps] at he
  · obtain ⟨h1, hacc, hrows⟩ := rest_usable (k := o.core) (tenant := m.tenant) (n := gaBytes o)
      (ps := (List.range (gaCount o)).map fun i => (u.gaSrc m o ix i).getD (.acc 0)) (u := u) (fun p hp => by
        obtain ⟨i, hi, rfl⟩ := List.mem_map.1 hp
        exact (hsrc i (List.mem_range.1 hi)).2) (x := { s := v }) hv rfl
    rw [State.gather] at he
    dsimp only at he
    rw [if_neg (not_not.2 hacc), hrows, List.nil_append, List.map_map, zipIdx_zip_range, List.foldl_map] at he
    have h2 := (h1.addSteps (gaCount o * ceilDiv (gaBytes o) 64) 0).ctr o.core 0x40 (gaCount o * ceilDiv (gaBytes o) 64)
    generalize ((((({ s := v } : RowsRead).rest o.core m.tenant (gaBytes o)
      ((List.range (gaCount o)).map fun i => (u.gaSrc m o ix i).getD (.acc 0))).s).addSteps m.id o.offset
        (gaCount o * ceilDiv (gaBytes o) 64) 0).ctr o.core 0x40 (gaCount o * ceilDiv (gaBytes o) 64)) = w at h2 he
    have hin : w.inDst m o = u.inDst m o := by
      funext a n
      unfold State.inDst
      rw [h2.worked.startOf]
    have hfold : u.runGather m o = (w.bumpFree.putRows o.core m.tenant dst (gaDstPitch o) (gaCount o)
        (fun i => Claims.bytesAt u o.core ((u.gaSrc m o ix i).getD (.acc 0)) (gaBytes o))).1.finishOp m.id o.offset
        (w.bumpFree.putRows o.core m.tenant dst (gaDstPitch o) (gaCount o)
          (fun i => Claims.bytesAt u o.core ((u.gaSrc m o ix i).getD (.acc 0)) (gaBytes o))).2.status 0 := by
      have hcongr : ∀ (x : State × Acc) i, i ∈ List.range (gaCount o) → (fun (x : State × Acc) (i : Nat) =>
          let bytes := if o.nondet then openBytes w.freeCtr (i * gaBytes o) (fun j => w.inDst m o
            ((u.gaAt m o ix i).1, (u.gaAt m o ix i).2 + j) 1) (Claims.bytesAt u o.core ((u.gaSrc m o ix i).getD (.acc 0)) (gaBytes o))
            else Claims.bytesAt u o.core ((u.gaSrc m o ix i).getD (.acc 0)) (gaBytes o)
          let w := x.1.opWrite o.core m.tenant (dst.plus (i * gaDstPitch o)) bytes
          (w.1, x.2.first w.2)) x i = (fun (x : State × Acc) (i : Nat) =>
          let w := x.1.opWrite o.core m.tenant (dst.plus (i * gaDstPitch o))
            (Claims.bytesAt u o.core ((u.gaSrc m o ix i).getD (.acc 0)) (gaBytes o))
          (w.1, x.2.first w.2)) x i := fun x i hi => by
        dsimp only
        rw [openBytes_closed fun j hj => ?_, ite_self]
        rw [length_bytesAt] at hj
        rw [hin]
        exact inDst_byte (hclear i (List.mem_range.1 hi)) hj
      rw [he, State.putRows, ← foldl_congr_mem _ hcongr]
      rfl
    obtain ⟨hok, -, hr, hl⟩ := putRows_usable (s := w.bumpFree) (k := o.core) (tenant := m.tenant) (pitch := gaDstPitch o)
      (n := gaBytes o) (c := gaCount o) (p := dst)
      (g := fun i => Claims.bytesAt u o.core ((u.gaSrc m o ix i).getD (.acc 0)) (gaBytes o)) (fun i _ => length_bytesAt _ _ _ _) hp
      (fun i hi => h2.bumpFree.worked.usable (usable_plus hd (row_in_span hi))) (h2.bumpFree.worked.quiet hq)
    rw [hok] at hfold
    replace hr := (hr.after h2.bumpFree.bytes).before (noBytes_of_only (only_finishOp _ m.id o.offset Acc.ok.status 0) (by decide) (by decide))
    rw [← hfold] at hr
    refine ⟨?_, hr.onlyAt, fun i p hi hp => ?_⟩
    · rw [hfold]
      exact opAt_ended (opAt_of_lists h2.bumpFree.op hl) (by decide) osOk 0
    · have hb := hr.bytesAt hi (length_bytesAt _ _ _ _)
      rw [hb, hp]
      rfl
  · rw [List.map_map, List.any_map, List.any_eq_true]
    rintro ⟨i, hi, hc⟩
    have hsome := (hsrc i (List.mem_range.1 hi)).1
    rw [State.gaSrc] at hsome
    simp only [Function.comp_apply] at hc
    rw [hsome] at hc
    exact absurd hc (by simp)

end

/-! ### Operations that hold the chain (R90) -/

theorem isEmpty_sortBy {α : Type} (key : α → Nat) (l : List α) : (sortBy key l).isEmpty = l.isEmpty := by
  rw [Bool.eq_iff_iff, List.isEmpty_iff, List.isEmpty_iff, List.eq_nil_iff_forall_not_mem, List.eq_nil_iff_forall_not_mem]
  simp only [mem_sortBy_iff]

/-- What stands on a core's chain is told by its queues and by the fusion of the operations they name. -/
theorem chainFree_congr {s t : State} {k : Nat} (hc : t.coreUnit k = s.coreUnit k)
    (hop : ∀ id off, (t.op? id off).map Op.fused = (s.op? id off).map Op.fused) : t.chainFree k = s.chainFree k := by
  have hnone : ∀ id off, t.op? id off = none ↔ s.op? id off = none := fun id off => by
    rw [← Option.map_eq_none_iff (f := Op.fused), hop, Option.map_eq_none_iff]
  unfold State.chainFree State.chainWants
  dsimp only
  rw [isEmpty_sortBy, isEmpty_sortBy, hc, Bool.eq_iff_iff, List.isEmpty_iff, List.isEmpty_iff, List.append_eq_nil_iff,
    List.append_eq_nil_iff]
  simp only [List.filterMap_eq_nil_iff, Option.map_eq_none_iff, hnone]
  refine and_congr_left' (forall₂_congr fun e _ => ?_)
  have he := hop e.1 e.2
  cases hs : s.op? e.1 e.2 with
  | none =>
    rw [(hnone e.1 e.2).2 hs]
  | some o =>
    cases ht : t.op? e.1 e.2 with
    | none => rw [(hnone e.1 e.2).1 ht] at hs; cases hs
    | some p =>
      rw [hs, ht] at he
      have hf : p.fused = o.fused := Option.some.inj he
      simp [hf]

theorem list?_setOp_ne (s : State) {id j : Nat} (p : Op) (h : j ≠ id) : (s.setOp id p).list? j = s.list? j := by
  cases hl : s.list? id with
  | none => rw [State.setOp, hl]
  | some l =>
    have hid : (l.setOp p).id = id := (State.list?_id hl : l.id = id)
    rw [State.setOp_of_list p hl, State.list?_setList_ne _ _ (hid.symm ▸ h)]

theorem op?_setOp_fused (s : State) {id : Nat} {o p : Op} (ho : s.op? id p.offset = some o) (hf : p.fused = o.fused) (j off : Nat) :
    ((s.setOp id p).op? j off).map Op.fused = (s.op? j off).map Op.fused := by
  by_cases hj : j = id
  · subst hj
    by_cases hoff : off = p.offset
    · subst hoff
      rw [State.op?_setOp_same ho, ho, Option.map_some, Option.map_some, hf]
    · rw [State.op?_setOp_ne j p hoff]
  · rw [State.op?, State.op?, list?_setOp_ne s p hj]

/-! ### Reports of an internal configuration -/

theorem reports_qsCount {s0 s : State} (k : Nat) {n : Nat} (elems : List Nat) (hn : n < 9) (h : RegsBut isReport s0 s) :
    RegsBut isReport s0 (s.qsCount k n elems) := by
  unfold State.qsCount
  split
  · exact h
  · dsimp only
    refine RegsBut.fold _ _ (((RegsBut.setReg (RegsBut.setReg (h.setReg (r := .qswin k n) hn _) (r := .qselem k n) hn _)
      (r := .qstot k n) hn _)).ctr _ _ _ fun _ hi => hi) fun x _ _ hx => ?_
    exact ((hx.setF (r := .qsstat k) trivial _ _ _).countF (r := .qsstat k) trivial _ _ _).raise _

theorem reports_chainReport {s0 s : State} (k : Nat) (x : ChainFx) (hx : ∀ q, q ∈ x.qs → q.1 < 9) (h : RegsBut isReport s0 s) :
    RegsBut isReport s0 (s.chainReport k x) := by
  have h1 : ∀ a b c, RegsBut isReport s0 (((s.setF (.vcstat k) 0 8 a).setF (.vcstat k) 16 8 b).countF (.vcsatcnt k) 0 32 c) := fun a b c =>
    ((h.setF (r := .vcstat k) trivial _ _ _).setF (r := .vcstat k) trivial _ _ _).countF (r := .vcsatcnt k) trivial _ _ _
  unfold State.chainReport
  dsimp only
  refine RegsBut.fold _ _ ?_ fun y q hq hy => reports_qsCount k _ (hx q hq) hy
  split
  · refine RegsBut.raise ?_ _
    split
    · exact h1 _ _ _
    · exact (h1 _ _ _).setBit (r := .vcstat k) trivial _
  · split
    · exact h1 _ _ _
    · exact (h1 _ _ _).setBit (r := .vcstat k) trivial _

theorem worked_internalReport (s : State) (k sats made wr beats : Nat) : Worked s (s.internalReport k sats made wr beats) := by
  have honly : Only [.ic] (Claims.unitRegs ++ [.ctrVal]) s (s.internalReport k sats made wr beats) :=
    only_State_internalReport s k sats made wr beats (Only.refl s) (by decide) (by decide)
  refine ⟨honly.mono (by decide) (List.Subset.refl _), fun _ hc => honly.part .checks (by decide) ▸ hc, ?_⟩
  exact (reports_chainReport k _ (fun _ hq => absurd hq List.not_mem_nil) (.refl s)).ctr _ _ _ fun _ hi => hi

theorem worked_qsCount (s : State) (k : Nat) {n : Nat} (elems : List Nat) (hn : n < 9) : Worked s (s.qsCount k n elems) := by
  have honly : Only [.ic] (Claims.unitRegs ++ [.ctrVal]) s (s.qsCount k n elems) :=
    only_State_qsCount s k n elems (Only.refl s) (by decide) (by decide)
  exact ⟨honly.mono (by decide) (List.Subset.refl _), fun _ hc => honly.part .checks (by decide) ▸ hc, reports_qsCount k elems hn (.refl s)⟩

theorem Busy.report {id off : Nat} {u v : State} (h : Busy id off u v) (k sats made wr beats : Nat) :
    Busy id off u (v.internalReport k sats made wr beats) := by
  have honly : Only [.ic] (Claims.unitRegs ++ [.ctrVal]) v (v.internalReport k sats made wr beats) :=
    only_State_internalReport v k sats made wr beats (Only.refl v) (by decide) (by decide)
  exact ⟨h.worked.trans (worked_internalReport v k sats made wr beats),
    noBytes_trans h.bytes (noBytes_of_only honly (by decide) (by decide)), opAt_of_lists h.op (honly.part .lists (by decide))⟩

theorem Busy.qsCount {id off : Nat} {u v : State} (h : Busy id off u v) (k : Nat) {n : Nat} (elems : List Nat) (hn : n < 9) :
    Busy id off u (v.qsCount k n elems) := by
  have honly : Only [.ic] (Claims.unitRegs ++ [.ctrVal]) v (v.qsCount k n elems) :=
    only_State_qsCount v k n elems (Only.refl v) (by decide) (by decide)
  exact ⟨h.worked.trans (worked_qsCount v k elems hn), noBytes_trans h.bytes (noBytes_of_only honly (by decide) (by decide)),
    opAt_of_lists h.op (honly.part .lists (by decide))⟩

/-- The operation writes its bytes and ends with its steps. -/
theorem Busy.writeWith {u v : State} {m : WorkList} {o : Op} (h : Busy m.id o.offset u v) {p : Place} {bs : List Byte} (k tenant : Nat)
    (hp : Claims.usable u p bs.length = true) (hq : Claims.quiet u = true) (steps aux : Nat) : (v.opWrite k tenant p bs).2 = .ok ∧
      Placed u ((v.opWrite k tenant p bs).1.endWith m o steps aux osOk 0) k p bs ∧
      Claims.opAt ((v.opWrite k tenant p bs).1.endWith m o steps aux osOk 0) m.id o.offset .finished osOk := by
  obtain ⟨hok, hw, hpl, hl⟩ := opWrite_usable k tenant (h.worked.usable hp) (h.worked.quiet hq)
  have hk : Only [.lists] [] (v.opWrite k tenant p bs).1 ((v.opWrite k tenant p bs).1.endWith m o steps aux osOk 0) :=
    only_State_finishOp _ _ _ _ _ (only_State_addSteps _ _ _ _ _ (Only.refl _) (List.Subset.refl _)) (List.Subset.refl _)
  exact ⟨hok, (hpl.after h.bytes).before (noBytes_of_only hk (by decide) (by decide)),
    opAt_ended (opAt_addSteps (opAt_of_lists h.op hl) steps aux) (by decide) osOk 0⟩

/-- The job of a whole operation that waits for the chain. -/
def waitingJob (id off : Nat) : ChainJob := { list := id, op := off, row0 := 0, col0 := 0, rows := 1, cols := 1, fused := false }

/-- R90: an operation that finds the chain in use waits. -/
theorem runOnChain_waits {u : State} {m : WorkList} {o : Op} (run : State → WorkList → Op → State) (h : u.chainFree o.core = false)
    (ho : Claims.opAt u m.id o.offset .queued osRunning) : Claims.noBytes u (u.runOnChain m o run) ∧
      Claims.opAt (u.runOnChain m o run) m.id o.offset .queued osRunning ∧
      ((u.runOnChain m o run).coreUnit o.core).chainQ = (u.coreUnit o.core).chainQ ++ [waitingJob m.id o.offset] := by
  rw [State.runOnChain, if_neg (by rw [h]; exact Bool.false_ne_true)]
  refine ⟨⟨rfl, rfl⟩, opAt_of_lists ho rfl, ?_⟩
  rw [State.coreUnit_setCoreUnit, if_pos rfl]
  rfl

theorem runOnChain_free {u : State} {m : WorkList} {o : Op} (run : State → WorkList → Op → State) (h : u.chainFree o.core = true) :
    u.runOnChain m o run = run u m o := by
  rw [State.runOnChain, if_pos h]

/-! ### SAMPLE -/

theorem segAllows_empty {s : State} {g : Seg} {off right : Nat} {r : Rows} (h : s.segAllows g off r right false = true) :
    s.segAllows g off (plain 0) right false = true := by
  simp only [State.segAllows, Bool.and_eq_true, decide_eq_true_eq] at h ⊢
  obtain ⟨⟨hoff, hright⟩, -⟩ := h
  refine ⟨⟨Nat.le_trans (Nat.add_le_add_left (Nat.zero_le _) off) hoff, hright⟩, ?_⟩
  simp [State.bankClear, plain]

/-- A reference that covers rows has a start. -/
theorem resolve_empty {s : State} {v ref right : Nat} {r : Rows} {p : Place} (h : s.resolve v ref r right = some p) :
    s.resolve v ref (plain 0) right = some p := by
  have hspan : ∀ n, n + (plain 0).span ≤ n + r.span := fun n => Nat.add_le_add_left (Nat.zero_le _) n
  unfold State.resolve at h ⊢
  split at h
  · cases hg : s.seg? v (refSegNo ref) with
    | none => rw [hg] at h; cases h
    | some g =>
      rw [hg] at h
      dsimp only at h ⊢
      split at h
      · next ha => rw [if_pos (segAllows_empty ha)]; exact h
      · cases h
  · split at h
    · rw [if_pos (Nat.le_trans (hspan _) (by assumption))]; exact h
    · cases h
  · split at h
    · rw [if_pos (Nat.le_trans (hspan _) (by assumption))]; exact h
    · cases h
  · cases h

theorem length_sampleSums (ws : List Word) : (sampleSums ws).1.length = ws.length := by
  have h : ∀ (l : List Word) (x : Word × List Word × Nat), (l.foldl (fun (x : Word × List Word × Nat) w =>
      let y := fadd x.1 w
      (y.bits, y.bits :: x.2.1, x.2.2 + b2n y.sat)) x).2.1.length = l.length + x.2.1.length := fun l => by
    induction l with
    | nil => exact fun x => (Nat.zero_add _).symm
    | cons w l ih =>
      intro x
      rw [List.foldl_cons, ih, List.length_cons, List.length_cons]
      omega
  rw [sampleSums]
  dsimp only
  rw [List.length_reverse, h, List.length_nil, Nat.add_zero]

/-- A row's choice fits its four bytes. -/
theorem samplePick_lt {ws : List Word} (x : Word) (h : ws.length < 2 ^ 32) : (samplePick ws x).1 < 2 ^ 32 := by
  rw [samplePick]
  dsimp only
  split
  · decide
  · split
    · next c hc =>
      obtain ⟨hlt, -⟩ := List.findIdx?_eq_some_iff_getElem.1 hc
      rw [length_sampleSums, List.length_map] at hlt
      exact Nat.lt_trans hlt h
    · decide

/-- The choices of a SAMPLE's rows. -/
def samplePicks (o : Op) (data : List Byte) (seed i : Nat) : Nat × Nat :=
  samplePick (wordsOf (data.drop (4 * i * saCols o)) (saCols o)) (philoxU seed (o.f 0x20 4) ((o.f 0x28 8 + i) % 2 ^ 64))

theorem runSample_samples {u : State} {m : WorkList} {o : Op} {src dst : Place} (ho : Claims.opAt u m.id o.offset .queued osRunning)
    (hsrc : u.resolve m.tenant (o.f 8 8) (plain (4 * saRows o * saCols o)) rRead = some src)
    (hdst : u.resolve m.tenant (o.f 0x10 8) (plain (4 * saRows o)) rWrite = some dst)
    (hs : Claims.usable u src (4 * saRows o * saCols o) = true) (hd : Claims.usable u dst (4 * saRows o) = true)
    (hq : Claims.quiet u = true) : Claims.opAt (u.runSample m o) m.id o.offset .finished osOk ∧
      Placed u (u.runSample m o) o.core dst ((List.range (saRows o)).flatMap fun i => leBytes 4
        (samplePicks o (Claims.bytesAt u o.core src (4 * saRows o * saCols o)) (fieldAt o.aux 0 8) i).1) := by
  have h0 := Busy.start ho
  obtain ⟨hacc, hdata, h1⟩ := h0.read o.core m.tenant hs
  rw [State.runSample]
  dsimp only
  rw [h0.worked.resolve, h0.worked.resolve, resolve_empty hsrc, resolve_empty hdst]
  dsimp only
  rw [if_neg (not_not.2 hacc), hdata, List.flatMap_map]
  have h2 := h1.report o.core (((List.range (saRows o)).map fun i => samplePicks o
    (Claims.bytesAt u o.core src (4 * saRows o * saCols o)) (fieldAt o.aux 0 8) i).map (·.2)).sum 0 0
    (saRows o * 2 * ceilDiv (saCols o) 512)
  obtain ⟨hok, hp, hop⟩ := h2.writeWith (p := dst) (bs := (List.range (saRows o)).flatMap fun i => leBytes 4
    (samplePicks o (Claims.bytesAt u o.core src (4 * saRows o * saCols o)) (fieldAt o.aux 0 8) i).1) o.core m.tenant
    (by rw [length_flatMap_leBytes]; exact hd) hq (saRows o * 2 * ceilDiv (saCols o) 512 + 96) 0
  have hend : ∀ (w : State × Acc), w.2 = .ok → w.1.endWith m o (saRows o * 2 * ceilDiv (saCols o) 512 + 96) 0 w.2.status 0 =
      w.1.endWith m o (saRows o * 2 * ceilDiv (saCols o) 512 + 96) 0 osOk 0 := fun w hw => by rw [hw]; rfl
  rw [← hend _ hok] at hp hop
  exact ⟨hop, hp⟩

/-- R383: the operation keeps its tenant's seed. -/
def Op.seeded (o : Op) (x : Nat) : Op := { o with aux := leBytes 8 x }

theorem only_setOp (s : State) (id : Nat) (p : Op) : Only [.lists] [] s (s.setOp id p) :=
  only_State_setOp s id p (Only.refl s) (List.Subset.refl _)

theorem opAt_seeded {u : State} {id : Nat} {o : Op} (h : u.op? id o.offset = some o) {st : OpStage} {status : Nat}
    (ho : o.stage = st ∧ o.status = status) (x : Nat) : Claims.opAt (u.setOp id (o.seeded x)) id o.offset st status :=
  opAt_iff.2 ⟨o.seeded x, State.op?_setOp_same (o := o.seeded x) (p := o) h, ho⟩

theorem chainFree_seeded {u : State} {id : Nat} {o : Op} (h : u.op? id o.offset = some o) (x k : Nat) :
    (u.setOp id (o.seeded x)).chainFree k = u.chainFree k :=
  chainFree_congr (congrFun (State.coreUnit_congr ((only_setOp u id _).part .cores (by decide))) k)
    (op?_setOp_fused u (p := o.seeded x) h rfl)

/-! ### The obligation -/

theorem orErr_none {a b : OpErr} : orErr a b = none ↔ a = none ∧ b = none := by
  cases a with
  | none => exact ⟨fun h => ⟨rfl, h⟩, fun h => h.2⟩
  | some x => exact ⟨fun h => (Option.some_ne_none x h).elim, fun h => (Option.some_ne_none x h.1).elim⟩

theorem need_none {c : Bool} {e : Nat × Nat} : need c (some e) = none ↔ c = true := by
  cases c <;> simp [need]

section
variable {s : State} {id : Nat} {early : Option (List Byte)} {l : WorkList} {o : Op}

theorem gatherRules_pitch (h : gatherRules s l o = none) : gaBytes o ≤ gaDstPitch o := by
  simp only [gatherRules, malformed, orErr_none, need_none, decide_eq_true_eq] at h
  exact h.2.2.2.2.2.1

theorem sampleRules_cols (h : sampleRules s l o = none) : saCols o ≤ 1048576 := by
  simp only [sampleRules, malformed, orErr_none, need_none, Bool.and_eq_true, decide_eq_true_eq] at h
  exact h.2.2.2.1.2

theorem rules_of_passes {opc : Nat} {rules : State → WorkList → Op → OpErr} (h : Claims.passes s id early opc rules l o) :
    rules s l o = none := by
  obtain ⟨-, -, -, -, -, -, -, -, -, -, -, hrules, -⟩ := h
  exact hrules

/-- What `issueOp` hands to the unit. -/
theorem op?_issued {rules : State → WorkList → Op → OpErr} {opc : Nat} (h : Claims.passes s id early opc rules l o) :
    (Claims.issued s l o).op? (Claims.listWith l o).id o.offset = some o := by
  have i := issued_of_passes h
  rw [show (Claims.listWith l o).id = id from i.id_eq, i.offset]
  exact i.op

/-- COPY. -/
theorem copy_issued (h : Claims.passes s id early 0x08 copyRules l o) :
    let u := Claims.issued s l o
    ∃ t, exec (.copy id early) s = .next t ∧ Only (Claims.listParts ++ [.freeCtr] ++ Claims.sendParts) Claims.listRegs s t ∧
      (cpRemote o = false → ∀ src dst, u.resolve l.tenant (o.f 8 8) (plain (cpBytes o)) rRead = some src →
        u.resolve l.tenant (o.f 0x10 8) (plain (cpBytes o)) rWrite = some dst → Claims.usable u src (cpBytes o) = true →
        Claims.usable u dst (cpBytes o) = true → Claims.quiet u = true →
        Claims.opAt t id l.next .finished osOk ∧ Claims.onlyAt u t o.core dst (plain (cpBytes o)) ∧
        (s.copyMeets l o = false → Claims.bytesAt t o.core dst (cpBytes o) = Claims.bytesAt u o.core src (cpBytes o))) ∧
      (cpRemote o = true → cpPkg o ≠ s.pkgId → ∀ src, u.resolve l.tenant (o.f 8 8) (plain (cpBytes o)) rRead = some src →
        Claims.usable u src (cpBytes o) = true → Claims.noBytes u t ∧
          (Claims.opAt t id l.next .finished osNodeLost ∨ Claims.opAt t id l.next .started osRunning)) := by
  intro u
  have i := issued_of_passes h
  have hid : (Claims.listWith l o).id = id := i.id_eq
  obtain ⟨t, ht, honly⟩ := only_execCopy id early s
  have hrun : t = u.runCopy (Claims.listWith l o) o :=
    (Host.Outcome.next.inj ht).symm.trans (issueOp_passes h (by decide) _)
  have hmeets : s.copyMeets l o = u.copyMeets (Claims.listWith l o) o := by
    unfold State.copyMeets
    rw [startOf_congr (segs_issued s l o)]
    rfl
  refine ⟨t, ht, honly.mono (by decide) (by decide), fun hr src dst hsrc hdst hu hw hq => ?_, fun hr hp src hsrc hu => ?_⟩
  · rw [hrun, hmeets, ← hid, ← i.offset]
    exact runCopy_local (opAt_issued i) hsrc hu hr hdst hw hq
  · rw [hrun, ← hid, ← i.offset]
    exact runCopy_remote (opAt_issued i) hsrc hu hr (by rw [pkgId_issued]; exact hp)

/-- GATHER. -/
theorem gather_issued (h : Claims.passes s id early 0x09 gatherRules l o) :
    let u := Claims.issued s l o
    ∃ t, exec (.gather id early) s = .next t ∧ Only (Claims.listParts ++ [.freeCtr]) Claims.listRegs s t ∧
      ∀ ix dst, u.resolve l.tenant (o.f 0x18 8) (plain (4 * gaCount o)) rRead = some ix →
        u.resolve l.tenant (o.f 0x10 8) (gaDst o) rWrite = some dst → Claims.usable u ix (4 * gaCount o) = true →
        Claims.usable u dst (gaDst o).span = true → Claims.quiet u = true →
        let m := Claims.listWith l o
        (o.nondet = false → (∃ i, i < gaCount o ∧ u.inDst m o (u.gaAt m o ix i) (gaBytes o) = true) →
          Claims.noBytes u t ∧ Claims.opAt t id l.next .finished osMalformed) ∧
        ((∀ i, i < gaCount o → u.inDst m o (u.gaAt m o ix i) (gaBytes o) = false) →
          ((∃ i, i < gaCount o ∧ u.gaSrc m o ix i = none) → Claims.noBytes u t ∧ Claims.opAt t id l.next .finished osSegment) ∧
          ((∀ i, i < gaCount o → ∃ p, u.gaSrc m o ix i = some p ∧ Claims.usable u p (gaBytes o) = true) →
            Claims.opAt t id l.next .finished osOk ∧ Claims.onlyAt u t o.core dst (gaDst o) ∧
            ∀ i p, i < gaCount o → u.gaSrc m o ix i = some p →
              Claims.bytesAt t o.core (dst.plus (i * gaDstPitch o)) (gaBytes o) = Claims.bytesAt u o.core p (gaBytes o))) := by
  intro u
  have i := issued_of_passes h
  have hid : (Claims.listWith l o).id = id := i.id_eq
  obtain ⟨t, ht, honly⟩ := only_execGather id early s
  have hrun : t = u.runGather (Claims.listWith l o) o :=
    (Host.Outcome.next.inj ht).symm.trans (issueOp_passes h (by decide) _)
  refine ⟨t, ht, honly.mono (by decide) (by decide), fun ix dst hix hdst hu hd hq => ?_⟩
  rw [hrun, ← hid, ← i.offset]
  exact ⟨runGather_overlap (opAt_issued i) hix hdst hu, fun hclear => ⟨runGather_missing (opAt_issued i) hix hdst hu hclear,
    runGather_gathers (opAt_issued i) hix hdst hu hclear (gatherRules_pitch (rules_of_passes h)) hd hq⟩⟩

/-- DIGEST. -/
theorem digest_issued (h : Claims.passes s id early 0x13 digestRules l o) :
    let u := Claims.issued s l o
    ∃ t, exec (.digestOp id early) s = .next t ∧ Only Claims.listParts Claims.listRegs s t ∧ Claims.noBytes u t ∧
      ∀ p, u.resolve l.tenant (o.f 8 8) (plain (o.f 0x10 8)) rRead = some p → Claims.usable u p (o.f 0x10 8) = true →
        (t.op? id l.next).map (fun q => (q.stage, q.status, q.digest)) =
          some (.finished, osOk, crc64Final (crc64Feed crc64Init (Claims.bytesAt u o.core p (o.f 0x10 8)))) := by
  intro u
  have i := issued_of_passes h
  have hid : (Claims.listWith l o).id = id := i.id_eq
  obtain ⟨t, ht, honly⟩ := only_execDigestOp id early s
  have hrun : t = u.runDigest (Claims.listWith l o) o :=
    (Host.Outcome.next.inj ht).symm.trans (issueOp_passes h (by decide) _)
  refine ⟨t, ht, honly.mono (by decide) (by decide), ?_, fun p hp hu => ?_⟩
  · rw [hrun]
    exact runDigest_noBytes u _ o
  · rw [hrun, ← hid, ← i.offset]
    exact runDigest_digests (opAt_issued i) hp hu

/-- SAMPLE. -/
theorem sample_issued (h : Claims.passes s id early 0x14 sampleRules l o) :
    let u := Claims.issued s l o
    ∃ t, exec (.sample id early) s = .next t ∧
      Only (Claims.listParts ++ [.freeCtr] ++ [.cores]) (Claims.listRegs ++ Claims.unitRegs) s t ∧
      (u.chainFree o.core = false → Claims.noBytes u t ∧ Claims.opAt t id l.next .queued osRunning ∧
        (t.coreUnit o.core).chainQ = (s.coreUnit o.core).chainQ ++ [waitingJob id l.next]) ∧
      (u.chainFree o.core = true → ∀ src dst, u.resolve l.tenant (o.f 8 8) (plain (4 * saRows o * saCols o)) rRead = some src →
        u.resolve l.tenant (o.f 0x10 8) (plain (4 * saRows o)) rWrite = some dst →
        Claims.usable u src (4 * saRows o * saCols o) = true → Claims.usable u dst (4 * saRows o) = true → Claims.quiet u = true →
        Claims.opAt t id l.next .finished osOk ∧ Claims.onlyAt u t o.core dst (plain (4 * saRows o)) ∧
        ∀ i, i < saRows o → fieldAt (Claims.bytesAt t o.core dst (4 * saRows o)) (4 * i) 4 =
          (samplePicks o (Claims.bytesAt u o.core src (4 * saRows o * saCols o)) (u.reg (.rngSeed l.tenant)).toNat i).1) := by
  intro u
  have i := issued_of_passes h
  have hid : (Claims.listWith l o).id = id := i.id_eq
  obtain ⟨t, ht, honly⟩ := only_execSample id early s
  have hop := op?_issued h
  have hset := only_setOp u (Claims.listWith l o).id (o.seeded (u.reg (.rngSeed l.tenant)).toNat)
  have hw := Worked.of_only hset (by decide)
  have hb : Claims.noBytes u (u.setOp (Claims.listWith l o).id (o.seeded (u.reg (.rngSeed l.tenant)).toNat)) :=
    noBytes_of_only hset (by decide) (by decide)
  have hat := opAt_seeded hop ⟨i.queued, i.status⟩ (u.reg (.rngSeed l.tenant)).toNat
  have hfree := chainFree_seeded hop (u.reg (.rngSeed l.tenant)).toNat o.core
  have hcu : ∀ k, (u.setOp (Claims.listWith l o).id (o.seeded (u.reg (.rngSeed l.tenant)).toNat)).coreUnit k = s.coreUnit k := fun k =>
    congrFun (State.coreUnit_congr ((hset.part .cores (by decide)).trans ((only_issued s l o).part .cores (by decide)))) k
  have hrun : t = (u.setOp (Claims.listWith l o).id (o.seeded (u.reg (.rngSeed l.tenant)).toNat)).runOnChain (Claims.listWith l o)
      (o.seeded (u.reg (.rngSeed l.tenant)).toNat) State.runSample :=
    (Host.Outcome.next.inj ht).symm.trans (issueOp_passes h (by decide) _)
  generalize hseed : (u.reg (.rngSeed l.tenant)).toNat = seed at hset hw hb hat hfree hcu hrun ⊢
  have hlt : seed < 2 ^ 64 := hseed ▸ BitVec.isLt _
  generalize u.setOp (Claims.listWith l o).id (o.seeded seed) = v at hset hw hb hat hfree hcu hrun
  refine ⟨t, ht, honly.mono (by decide) (by decide), fun hc => ?_, fun hc src dst hsrc hdst hs hd hq => ?_⟩
  · obtain ⟨h1, h2, h3⟩ := runOnChain_waits (m := Claims.listWith l o) (o := o.seeded seed) State.runSample (hfree.trans hc) hat
    rw [hrun, ← hid, ← i.offset, ← hcu o.core]
    exact ⟨noBytes_trans hb h1, h2, h3⟩
  · rw [runOnChain_free (m := Claims.listWith l o) (o := o.seeded seed) _ (hfree.trans hc)] at hrun
    obtain ⟨h1, h2⟩ := runSample_samples (u := v) (m := Claims.listWith l o) (o := o.seeded seed) hat
      ((hw.resolve _ _ _ _ _).trans hsrc) ((hw.resolve _ _ _ _ _).trans hdst) (hw.usable hs) (hw.usable hd) (hw.quiet hq)
    rw [← hrun, hid] at h1
    rw [← hrun] at h2
    replace h2 := h2.after hb
    have hbytes := h2.bytesAt
    have honly' := h2.onlyAt
    rw [length_flatMap_leBytes] at hbytes honly'
    refine ⟨i.offset ▸ h1, honly', fun j hj => ?_⟩
    refine (congrArg (fieldAt · (4 * j) 4) hbytes).trans ((fieldAt_table _ 4 j _ hj).trans ?_)
    have hcols := sampleRules_cols (rules_of_passes h)
    have hself : fieldAt (o.seeded seed).aux 0 8 = seed := (fieldAt_leBytes 8 seed).trans (Nat.mod_eq_of_lt hlt)
    rw [hself, bytesAt_congr hb, Nat.mod_eq_of_lt]
    · rfl
    · refine samplePick_lt _ ?_
      rw [wordsOf, List.length_map, List.length_range]
      exact Nat.lt_of_le_of_lt hcols (by decide)

end

/-- Settles O42: each operation starts, reads its operands, and writes rows that its field rules keep apart. -/
theorem theDataMoverMoves : Obligations.TheDataMoverMoves := by
  intro id early l o s
  exact ⟨copy_issued, gather_issued, digest_issued, sample_issued⟩

end Sys2Proof.Machine
end

section
/-! KV_APPEND (R109, R110, R155 to R160). -/

namespace Sys2Proof.Machine

/-! ### Sizes of rows and quantised vectors -/

theorem flatten_chunks {α : Type} {n : Nat} (hn : 0 < n) (fuel : Nat) (xs : List α) (h : xs.length < fuel) :
    (chunks n fuel xs).flatten = xs := by
  induction fuel generalizing xs with
  | zero => exact absurd h (Nat.not_lt_zero _)
  | succ fuel ih =>
    cases xs with
    | nil => rfl
    | cons x xs =>
      rw [chunks, List.flatten_cons, ih _ (by rw [List.length_drop, List.length_cons] at *; omega), List.take_append_drop]

theorem length_chunks {α : Type} {n : Nat} (hn : 0 < n) (fuel m : Nat) (xs : List α) (h : xs.length < fuel) (hm : xs.length = n * m) :
    (chunks n fuel xs).length = m := by
  induction fuel generalizing xs m with
  | zero => exact absurd h (Nat.not_lt_zero _)
  | succ fuel ih =>
    cases xs with
    | nil =>
      rcases Nat.mul_eq_zero.1 hm.symm with h0 | h0
      · omega
      · exact h0.symm
    | cons x xs =>
      cases m with
      | zero => cases hm
      | succ m =>
        rw [Nat.mul_succ] at hm
        rw [chunks, List.length_cons, ih m _ (by rw [List.length_drop, List.length_cons] at *; omega)
          (by rw [List.length_drop, hm, Nat.add_sub_cancel])]

theorem packElems_int4 (x y : Nat) (xs : List Nat) :
    packElems 0 (x :: y :: xs) = leBytes 1 (x % 16 + 16 * (y % 16)) ++ packElems 0 xs := rfl

theorem packElems_int4_one (x : Nat) : packElems 0 [x] = leBytes 1 (x % 16) := rfl

theorem packElems_cons {fmt : Nat} (h : fmt ≠ 0) (x : Nat) (xs : List Nat) :
    packElems fmt (x :: xs) = leBytes (fmtBits fmt / 8) x ++ packElems fmt xs := by
  cases xs <;> exact if_neg h

theorem length_packElems_int4 : ∀ xs : List Nat, (packElems 0 xs).length = rowBytes 0 xs.length
  | [] => rfl
  | [x] => by simp [packElems_int4_one, rowBytes, ceilDiv, fmtBits]
  | x :: y :: xs => by
    rw [packElems_int4, List.length_append, length_leBytes, length_packElems_int4 xs]
    simp only [rowBytes, ceilDiv, fmtBits, List.length_cons]
    omega

theorem fmtBits_bytes {fmt : Nat} (h : fmt ≠ 0) : fmtBits fmt % 8 = 0 := by
  unfold fmtBits
  split
  · exact absurd rfl h
  all_goals rfl

theorem length_packElems (fmt : Nat) (xs : List Nat) : (packElems fmt xs).length = rowBytes fmt xs.length := by
  by_cases h : fmt = 0
  · subst h
    exact length_packElems_int4 xs
  · have hb := fmtBits_bytes h
    have hrow : ∀ n, rowBytes fmt n = n * (fmtBits fmt / 8) := fun n => by
      obtain ⟨k, hk⟩ := Nat.dvd_of_mod_eq_zero hb
      rw [rowBytes, ceilDiv, hk, Nat.mul_div_cancel_left k (by decide), Nat.mul_left_comm]
      omega
    rw [hrow]
    induction xs with
    | nil => exact (Nat.zero_mul _).symm
    | cons x xs ih => rw [packElems_cons h, List.length_append, length_leBytes, ih, List.length_cons, Nat.succ_mul, Nat.add_comm]

theorem length_quantGroup (w : Nat) (xs : List Word) : (quantGroup w xs).codes.length = xs.length := by
  rw [quantGroup]
  dsimp only
  generalize (if w = 4 then 7 else 127) = q
  split
  · exact List.length_map _
  · split
    · exact List.length_map _
    · rw [List.length_map, List.length_map]

theorem length_flatMap_const {α β : Type} {n : Nat} (f : α → List β) (xs : List α) (h : ∀ x, x ∈ xs → (f x).length = n) :
    (xs.flatMap f).length = n * xs.length := by
  rw [List.length_flatMap, List.map_congr_left h, List.map_const', List.sum_replicate_nat, Nat.mul_comm]

/-- Table 7-2. -/
theorem length_quantVec {d w : Nat} (hw : w = 4 ∨ w = 8) (hd : d % 32 = 0) (xs : List Word) (hx : xs.length = d) :
    (quantVec w xs).bytes.length = vecBytes d w := by
  have hcodes : ((chunks 32 (xs.length + 1) xs).map (quantGroup w)).flatMap (fun g => g.codes) =
      (chunks 32 (xs.length + 1) xs).flatMap fun c => (quantGroup w c).codes := List.flatMap_map ..
  have hlen : ((chunks 32 (xs.length + 1) xs).flatMap fun c => (quantGroup w c).codes).length = d := by
    rw [List.length_flatMap, List.map_congr_left fun c _ => length_quantGroup w c, ← List.length_flatten,
      flatten_chunks (by decide) _ _ (Nat.lt_succ_self _), hx]
  have hgroups : (chunks 32 (xs.length + 1) xs).length = d / 32 :=
    length_chunks (by decide) _ _ _ (Nat.lt_succ_self _) (by omega)
  rw [quantVec]
  dsimp only
  rw [List.length_append, length_packElems, List.length_map, hcodes, hlen,
    length_flatMap_const (n := 2) _ _ (fun g _ => length_leBytes _ _), List.length_map, hgroups, vecBytes]
  rcases hw with rfl | rfl
  · simp only [if_pos, rowBytes, ceilDiv, fmtBits]
    omega
  · simp only [rowBytes, ceilDiv, fmtBits]
    simp
    omega

/-! ### Reading a context map -/

theorem resolve_of_segs {s t : State} (hs : t.segs = s.segs) (hb : t.bankRetired = s.bankRetired) (v ref : Nat) (r : Rows) (right : Nat)
    (weights : Bool) : t.resolve v ref r right weights = s.resolve v ref r right weights := by
  unfold State.resolve State.segAllows State.bankClear State.retired State.seg?
  rw [hs, hb]

theorem only_readMap (s : State) (k t ref right detail : Nat) : Only [.fpDirty, .chanPoisoned, .hbm, .ic, .flog0, .flog1, .mbox]
    [.bedCe, .bedUe, .bedLastue, .memStat, .memChstat, .memChce, .memChue, .memChpoison, .ctrVal] s (s.readMap k t ref right detail).s :=
  only_State_readMap s k t ref right detail (Only.refl s) (List.Subset.refl _) (List.Subset.refl _)

theorem checks_none {a b c : Bool} {x y z w : Nat × Nat} {p : Prop} [Decidable p] (h : (if p then some x else if a then some y
    else if !b then some z else if c then some w else none) = none) : b = true := by
  cases b with
  | true => rfl
  | false =>
    split at h
    · cases h
    · split at h
      · cases h
      · cases h

/-- A map that is read without a failure has been checked. -/
theorem readMap_checked {s : State} {k t ref right detail : Nat} {r : MapRead} (hr : r = s.readMap k t ref right detail)
    (h : r.err = none) : s.mapOk r.map = true := by
  subst hr
  revert h
  unfold State.readMap
  dsimp only
  split
  · exact fun h => nomatch h
  · split
    · exact fun h => nomatch h
    · split
      · exact fun h => nomatch h
      · split
        · exact fun h => nomatch h
        · split
          · exact fun h => nomatch h
          · exact checks_none

/-- Table 7-1: a checked map's channels are whole groups, and its codes have four bits or eight. -/
theorem CtxMap.groups {s : State} {m : CtxMap} (h : s.mapOk m = true) : m.d % 32 = 0 := by
  simp only [State.mapOk, Bool.and_eq_true, decide_eq_true_eq] at h
  simp only [and_assoc] at h
  exact h.1

theorem codeBits_cases (b : Bool) : codeBits b = 4 ∨ codeBits b = 8 := by cases b <;> simp [codeBits]

theorem Busy.of_started {id off : Nat} {u : State} (h : Claims.opAt u id off .started osRunning) : Busy id off u u :=
  ⟨Worked.refl u, ⟨rfl, rfl⟩, h⟩

/-- A map has been read while the operation works. -/
theorem Busy.readMap {id off : Nat} {u v : State} (h : Busy id off u v) (k t ref right detail : Nat) :
    Busy id off (v.readMap k t ref right detail).s (v.readMap k t ref right detail).s :=
  Busy.of_started (opAt_of_lists h.op ((only_readMap v k t ref right detail).part .lists (by decide)))

theorem Busy.noBytes_readMap {id off : Nat} {u v : State} (h : Busy id off u v) (k t ref right detail : Nat) :
    Claims.noBytes u (v.readMap k t ref right detail).s :=
  noBytes_trans h.bytes (noBytes_of_only (only_readMap v k t ref right detail) (by decide) (by decide))

theorem resolve_readMap (v : State) (k t ref right detail a b : Nat) (c : Rows) (d : Nat) (e : Bool) :
    (v.readMap k t ref right detail).s.resolve a b c d e = v.resolve a b c d e :=
  resolve_of_segs ((only_readMap v k t ref right detail).part .segs (by decide))
    ((only_readMap v k t ref right detail).part .bankRetired (by decide)) a b c d e

/-! ### KV_APPEND -/

/-- The quantised key and value of vector i of an append. -/
def kvVector (m : CtxMap) (keys values : List Byte) (i : Nat) : List Byte :=
  (quantVec m.wk (wordsOf (keys.drop (i * m.d * 4)) m.d)).bytes ++ (quantVec m.wv (wordsOf (values.drop (i * m.d * 4)) m.d)).bytes

theorem length_kvVector {m : CtxMap} (hd : m.d % 32 = 0) (keys values : List Byte) (i : Nat) :
    (kvVector m keys values i).length = vecBytes m.d m.wk + vecBytes m.d m.wv := by
  have hw : ∀ bs, (wordsOf bs m.d).length = m.d := fun bs => by rw [wordsOf, List.length_map, List.length_range]
  rw [kvVector, List.length_append, length_quantVec (w := m.wk) (codeBits_cases _) hd _ (hw _),
    length_quantVec (w := m.wv) (codeBits_cases _) hd _ (hw _)]

section
variable {u : State} {m : WorkList} {o : Op} (ho : Claims.opAt u m.id o.offset .queued osRunning)
include ho

theorem runKvAppend_appends {r : MapRead} (hr : r = (u.startOp m.id o.offset).readMap o.core m.tenant (o.f 8 8) 0 8) (herr : r.err = none)
    {pk pv out : Place} {n size : Nat} (hn : n = kaTokens o * r.map.heads)
    (hsize : size = n * (vecBytes r.map.d r.map.wk + vecBytes r.map.d r.map.wv))
    (hk : (u.startOp m.id o.offset).resolve m.tenant (o.f 0x10 8) (plain (n * r.map.d * 4)) rRead = some pk)
    (hv : (u.startOp m.id o.offset).resolve m.tenant (o.f 0x18 8) (plain (n * r.map.d * 4)) rRead = some pv)
    (hout : (u.startOp m.id o.offset).resolve m.tenant (o.f 0x20 8) (plain size) rWrite = some out)
    (huk : Claims.usable r.s pk (n * r.map.d * 4) = true) (huv : Claims.usable r.s pv (n * r.map.d * 4) = true)
    (huo : Claims.usable r.s out size = true) (hq : Claims.quiet r.s = true) :
    Claims.opAt (u.runKvAppend m o) m.id o.offset .finished osOk ∧ Placed u (u.runKvAppend m o) o.core out
      ((List.range n).flatMap (kvVector r.map (Claims.bytesAt u o.core pk (n * r.map.d * 4)) (Claims.bytesAt u o.core pv (n * r.map.d * 4)))) ∧
      ((List.range n).flatMap (kvVector r.map (Claims.bytesAt u o.core pk (n * r.map.d * 4))
        (Claims.bytesAt u o.core pv (n * r.map.d * 4)))).length = size := by
  have h0 := Busy.start ho
  have hb := h0.noBytes_readMap o.core m.tenant (o.f 8 8) 0 8
  have h1 := h0.readMap o.core m.tenant (o.f 8 8) 0 8
  have hres := resolve_readMap (u.startOp m.id o.offset) o.core m.tenant (o.f 8 8) 0 8
  have hd := CtxMap.groups (readMap_checked hr herr)
  rw [← hr] at hb h1 hres
  have hlen : ∀ keys values, ((List.range n).flatMap (kvVector r.map keys values)).length = size := fun keys values => by
    rw [length_flatMap_const _ _ fun i _ => length_kvVector hd keys values i, List.length_range, hsize, Nat.mul_comm]
  obtain ⟨-, hkd, h2⟩ := h1.read o.core m.tenant huk
  obtain ⟨-, hvd, h3⟩ := h2.read o.core m.tenant huv
  rw [State.runKvAppend]
  dsimp only
  rw [← hr, herr]
  dsimp only
  rw [hres, hres, hres, resolve_empty hk, resolve_empty hv, resolve_empty hout]
  dsimp only
  rw [← hn, hkd, hvd, bytesAt_congr hb, bytesAt_congr hb]
  generalize Claims.bytesAt u o.core pk (n * r.map.d * 4) = keys
  generalize Claims.bytesAt u o.core pv (n * r.map.d * 4) = values
  have hbytes : (((List.range n).flatMap fun i => [quantVec r.map.wk (wordsOf (keys.drop (i * r.map.d * 4)) r.map.d),
      quantVec r.map.wv (wordsOf (values.drop (i * r.map.d * 4)) r.map.d)]).flatMap fun q => q.bytes) =
      (List.range n).flatMap (kvVector r.map keys values) := by
    rw [List.flatMap_assoc]
    congr 1
    funext i
    rw [List.flatMap_cons, List.flatMap_cons, List.flatMap_nil, List.append_nil]
    rfl
  rw [hbytes]
  generalize List.flatMap (fun q : KvQuant => q.sats) _ = sats
  have h4 := h3.qsCount o.core (n := 8) sats (by decide)
  generalize ((r.s.opRead o.core m.tenant pk (n * r.map.d * 4)).s.opRead o.core m.tenant pv (n * r.map.d * 4)).s.qsCount o.core 8 sats = w at h4 ⊢
  obtain ⟨hok, hw, hp, hl⟩ := opWrite_usable (bs := (List.range n).flatMap (kvVector r.map keys values)) o.core m.tenant
    (h4.worked.usable ((hlen keys values).symm ▸ huo)) (h4.worked.quiet hq)
  rw [hok]
  generalize (w.opWrite o.core m.tenant out ((List.range n).flatMap (kvVector r.map keys values))).1 = x at hw hp hl
  have hfin : ∀ c st d a, Only [.lists] [.ctrVal] x ((x.ctr o.core 0x10 c).endWith m o st a osOk d) := fun c st d a =>
    only_State_finishOp _ _ _ _ _ (only_State_addSteps _ _ _ _ _ (only_State_ctr x _ _ _ (Only.refl x) (by decide)) (by decide)) (by decide)
  refine ⟨opAt_ended (opAt_addSteps (opAt_of_lists (opAt_of_lists h4.op hl) (lists_ctr x _ _ _)) _ _) (by decide) osOk 0, ?_, hlen _ _⟩
  exact ((hp.after h4.bytes).before (noBytes_of_only (hfin _ _ _ _) (by decide) (by decide))).after hb

end

/-! ### Operations that wait for the chain -/

theorem waits_issued {s : State} {id : Nat} {l : WorkList} {o : Op} (i : Issued s id l o) (run : State → WorkList → Op → State)
    (h : (Claims.issued s l o).chainFree o.core = false) :
    Claims.noBytes (Claims.issued s l o) ((Claims.issued s l o).runOnChain (Claims.listWith l o) o run) ∧
      Claims.opAt ((Claims.issued s l o).runOnChain (Claims.listWith l o) o run) id l.next .queued osRunning ∧
      (((Claims.issued s l o).runOnChain (Claims.listWith l o) o run).coreUnit o.core).chainQ =
        (s.coreUnit o.core).chainQ ++ [waitingJob id l.next] := by
  obtain ⟨h1, h2, h3⟩ := runOnChain_waits (m := Claims.listWith l o) run h (opAt_issued i)
  have hc : (Claims.issued s l o).coreUnit o.core = s.coreUnit o.core :=
    congrFun (State.coreUnit_congr ((only_issued s l o).part .cores (by decide))) _
  have hid : (Claims.listWith l o).id = id := i.id_eq
  rw [hid, i.offset] at h2 h3
  exact ⟨h1, h2, hc ▸ h3⟩

section
variable {s : State} {id : Nat} {early : Option (List Byte)} {l : WorkList} {o : Op}

/-- KV_APPEND. -/
theorem kvAppend_issued (h : Claims.passes s id early 0x04 kvAppendRules l o) :
    let u := Claims.issued s l o
    let v := u.startOp id l.next
    ∃ t, exec (.kvAppend id early) s = .next t ∧ Only (Claims.listParts ++ [.cores]) (Claims.listRegs ++ Claims.unitRegs) s t ∧
      (u.chainFree o.core = false → Claims.noBytes u t ∧ Claims.opAt t id l.next .queued osRunning ∧
        (t.coreUnit o.core).chainQ = (s.coreUnit o.core).chainQ ++ [waitingJob id l.next]) ∧
      (u.chainFree o.core = true →
        let r := v.readMap o.core l.tenant (o.f 8 8) 0 8
        let m := r.map
        let n := kaTokens o * m.heads
        let size := n * (vecBytes m.d m.wk + vecBytes m.d m.wv)
        r.err = none → ∀ pk pv out, v.resolve l.tenant (o.f 0x10 8) (plain (n * m.d * 4)) rRead = some pk →
          v.resolve l.tenant (o.f 0x18 8) (plain (n * m.d * 4)) rRead = some pv →
          v.resolve l.tenant (o.f 0x20 8) (plain size) rWrite = some out →
          Claims.usable r.s pk (n * m.d * 4) = true → Claims.usable r.s pv (n * m.d * 4) = true →
          Claims.usable r.s out size = true → Claims.quiet r.s = true →
          Claims.opAt t id l.next .finished osOk ∧ Claims.onlyAt u t o.core out (plain size) ∧
          Claims.bytesAt t o.core out size = (List.range n).flatMap (kvVector m (Claims.bytesAt u o.core pk (n * m.d * 4))
            (Claims.bytesAt u o.core pv (n * m.d * 4)))) := by
  intro u v
  have i := issued_of_passes h
  have hid : (Claims.listWith l o).id = id := i.id_eq
  obtain ⟨t, ht, honly⟩ := only_execKvAppend id early s
  have hrun : t = u.runOnChain (Claims.listWith l o) o State.runKvAppend :=
    (Host.Outcome.next.inj ht).symm.trans (issueOp_passes h (by decide) _)
  refine ⟨t, ht, honly.mono (by decide) (by decide), fun hc => ?_, fun hc => ?_⟩
  · rw [hrun]
    exact waits_issued i State.runKvAppend hc
  · intro r m n size herr pk pv out hk hv hout huk huv huo hq
    rw [runOnChain_free _ hc] at hrun
    have hr : r = (u.startOp (Claims.listWith l o).id o.offset).readMap o.core l.tenant (o.f 8 8) 0 8 := by rw [hid, i.offset]
    rw [show v = u.startOp (Claims.listWith l o).id o.offset by rw [hid, i.offset]] at hk hv hout
    obtain ⟨h1, h2, h3⟩ := runKvAppend_appends (opAt_issued i) hr herr (n := n) rfl (size := size) rfl hk hv hout huk huv huo hq
    rw [← hrun] at h1 h2
    rw [hid, i.offset] at h1
    have honly' := h2.onlyAt
    have hbytes := h2.bytesAt
    rw [h3] at honly' hbytes
    exact ⟨h1, honly', hbytes⟩

end

end Sys2Proof.Machine
end

section
/-! MERGE (R179, R180). -/

namespace Sys2Proof.Machine

/-! ### Sizes of partial sets -/

/-- The partials of gq queries of d values each. -/
def PartsFit (gq d : Nat) (ps : List Part) : Prop := ps.length = gq ∧ ∀ p, p ∈ ps → p.o.length = d

theorem partsFit_start (gq d : Nat) : PartsFit gq d ((List.range gq).map fun _ => Part.start d) := by
  refine ⟨by rw [List.length_map, List.length_range], fun p hp => ?_⟩
  obtain ⟨-, -, rfl⟩ := List.mem_map.1 hp
  exact List.length_replicate ..

theorem partsFit_setParts (gq d : Nat) (bs : List Byte) : PartsFit gq d (setParts gq d bs) := by
  refine ⟨by rw [setParts, partsWith, List.length_map, List.length_range], fun p hp => ?_⟩
  obtain ⟨j, -, rfl⟩ := List.mem_map.1 hp
  dsimp only
  rw [List.length_map, List.length_range]

theorem Part.length_fold {r p : Part} {d : Nat} (hr : r.o.length = d) (hp : p.o.length = d) : (r.fold p).o.length = d := by
  rw [Part.fold]
  split
  · exact hr
  · split
    · exact hp
    · dsimp only
      rw [List.length_map, List.length_zipWith, hr, hp, Nat.min_self]

theorem PartsFit.fold {gq d : Nat} {rs ps : List Part} (hr : PartsFit gq d rs) (hp : PartsFit gq d ps) : PartsFit gq d (foldParts rs ps) := by
  obtain ⟨hrl, hro⟩ := hr
  obtain ⟨hpl, hpo⟩ := hp
  refine ⟨by rw [foldParts, List.length_zipWith, hrl, hpl, Nat.min_self], fun x hx => ?_⟩
  rw [foldParts, List.zipWith_eq_zipWith_take_min] at hx
  obtain ⟨i, hi, rfl⟩ := List.mem_iff_getElem.1 hx
  rw [List.getElem_zipWith]
  exact Part.length_fold (hro _ (List.mem_of_mem_take (List.getElem_mem _))) (hpo _ (List.mem_of_mem_take (List.getElem_mem _)))

/-- The partials of every set, folded in order. -/
def mergedParts (gq d : Nat) (sets : List (List Byte)) : List Part :=
  sets.foldl (fun acc b => foldParts acc (setParts gq d (b.drop 8))) ((List.range gq).map fun _ => Part.start d)

theorem partsFit_merged (gq d : Nat) (sets : List (List Byte)) : PartsFit gq d (mergedParts gq d sets) :=
  foldl_keeps (PartsFit gq d) _ sets _ (partsFit_start gq d) fun _ _ _ h => h.fold (partsFit_setParts gq d _)

theorem length_payloadWith {gq d : Nat} {ps : List Part} (h : PartsFit gq d ps) : (payloadWith (8 * gq) ps).length = 8 * gq + 4 * d * gq := by
  obtain ⟨hl, ho⟩ := h
  rw [payloadWith]
  rw [List.length_append, List.length_append, length_flatMap_const (n := 8) _ _ fun p _ => by rw [List.length_append, length_leBytes, length_leBytes],
    length_flatMap_const (n := 4 * d) _ _ fun p hp => by rw [length_flatMap_const (n := 4) _ _ fun _ _ => length_leBytes _ _, ho p hp],
    List.length_replicate, hl, Nat.sub_self, Nat.add_zero]

theorem setSize_room (gq d : Nat) : 8 + (8 * gq + 4 * d * gq) ≤ setSize gq d := by
  rw [setSize, ceilDiv, Nat.mul_right_comm 4 gq d]
  omega

theorem length_setPayload {gq d : Nat} {ps : List Part} (h : PartsFit gq d ps) : (setPayload gq d ps).length = setSize gq d - 8 := by
  have hroom := setSize_room gq d
  rw [setPayload]
  rw [List.length_append, List.length_replicate, length_payloadWith h]
  omega

/-- A final MERGE's elements. -/
def mergedElems (fmt : Nat) (ps : List Part) : List Byte :=
  packElems fmt ((ps.flatMap Part.finalise).map fun f => (elemFrom32 fmt f.bits).1)

theorem length_mergedElems {gq d : Nat} {ps : List Part} (fmt : Nat) (h : PartsFit gq d ps) :
    (mergedElems fmt ps).length = rowBytes fmt (gq * d) := by
  obtain ⟨hl, ho⟩ := h
  rw [mergedElems, length_packElems, List.length_map, length_flatMap_const (n := d) _ _ fun p hp => ?_, hl, Nat.mul_comm]
  rw [Part.finalise, List.length_map, ho p hp]

/-! ### Two writes side by side -/

theorem Placed.prepend {s u t : State} {k : Nat} {p : Place} {a b : List Byte} (hb : Placed s u k (p.plus a.length) b)
    (ha : Placed u t k p a) : Placed s t k p (a ++ b) := by
  obtain ⟨hhb, hrb⟩ := hb
  obtain ⟨hha, hra⟩ := ha
  rw [Place.rest_plus, Place.rest_plus] at hrb
  refine ⟨fun x => ?_, hra.trans hrb⟩
  have h2 := hhb x
  rw [Place.map_plus, Place.map_plus, Place.base_plus] at h2
  rw [hha x, h2, List.length_append]
  by_cases h1 : p.base k ≤ x ∧ x < p.base k + a.length
  · rw [if_pos h1, if_pos (by omega), List.getD_eq_getElem?_getD, List.getD_eq_getElem?_getD, List.getElem?_append_left (by omega)]
  · rw [if_neg h1]
    by_cases h3 : p.base k + a.length ≤ x ∧ x < p.base k + a.length + b.length
    · rw [if_pos h3, if_pos (by omega), List.getD_eq_getElem?_getD, List.getD_eq_getElem?_getD, List.getElem?_append_right (by omega),
        Nat.sub_sub]
    · rw [if_neg h3, if_neg (by omega)]

/-! ### Reading the sets -/

/-- Sets are read in turn. -/
def SetsRead.upTo (x : SetsRead) (k tenant size : Nat) (src : Nat → Place) (n : Nat) : SetsRead :=
  (List.range n).foldl (fun (x : SetsRead) i =>
    let q := x.s.opRead k tenant (src i) size
    { s := q.s, acc := x.acc.first q.acc, sets := x.sets ++ [q.data] }) x

theorem upTo_usable {id off k tenant size n : Nat} {u v : State} {src : Nat → Place} (h : Busy id off u v)
    (hs : ∀ i, i < n → Claims.usable u (src i) size = true) :
    Busy id off u (({ s := v } : SetsRead).upTo k tenant size src n).s ∧ (({ s := v } : SetsRead).upTo k tenant size src n).acc = .ok ∧
      (({ s := v } : SetsRead).upTo k tenant size src n).sets = (List.range n).map fun i => Claims.bytesAt u k (src i) size := by
  induction n with
  | zero => exact ⟨h, rfl, rfl⟩
  | succ n ih =>
    obtain ⟨h1, h2, h3⟩ := ih fun i hi => hs i (Nat.lt_succ_of_lt hi)
    obtain ⟨hacc, hdata, hb⟩ := h1.read k tenant (hs n (Nat.lt_succ_self n))
    have he : ({ s := v } : SetsRead).upTo k tenant size src (n + 1) =
        { s := ((({ s := v } : SetsRead).upTo k tenant size src n).s.opRead k tenant (src n) size).s,
          acc := (({ s := v } : SetsRead).upTo k tenant size src n).acc.first
            ((({ s := v } : SetsRead).upTo k tenant size src n).s.opRead k tenant (src n) size).acc,
          sets := (({ s := v } : SetsRead).upTo k tenant size src n).sets ++
            [((({ s := v } : SetsRead).upTo k tenant size src n).s.opRead k tenant (src n) size).data] } := by
      rw [SetsRead.upTo, List.range_succ, List.foldl_append]
      rfl
    rw [he]
    refine ⟨hb, by dsimp only; rw [h2, hacc]; rfl, ?_⟩
    dsimp only
    rw [h3, hdata, List.range_succ, List.map_append]
    rfl

/-! ### The operation -/

/-- How an operation that works ends, with its detail. -/
theorem Busy.endWith {u v : State} {m : WorkList} {o : Op} (h : Busy m.id o.offset u v) (steps aux status detail : Nat) :
    Claims.noBytes u (v.endWith m o steps aux status detail) ∧ ((v.endWith m o steps aux status detail).op? m.id o.offset).map
      (fun q => (q.stage, q.status, q.detail)) = some (.finished, status, detail) := by
  have h1 := h.addSteps steps aux
  obtain ⟨hb, -⟩ := h1.fails status detail
  obtain ⟨q, hq, hst, -⟩ := opAt_iff.1 h1.op
  refine ⟨hb, ?_⟩
  rw [State.endWith, State.op?_finishOp status detail hq (by rw [hst]; decide)]
  rfl

/-- The bytes that a MERGE writes. -/
def mergeBytes (o : Op) (sets : List (List Byte)) : List Byte :=
  if mgFinal o then mergedElems (mgFmt o) (mergedParts (mgGq o) (mgD o) sets)
  else headerBytes (fieldAt (sets.headD []) 0 4) slotDone (min 0xFFFFFF (sets.map fun b => fieldAt b 5 3).sum) ++
    setPayload (mgGq o) (mgD o) (mergedParts (mgGq o) (mgD o) sets)

def mergeOut (o : Op) : Nat := if mgFinal o then rowBytes (mgFmt o) (mgGq o * mgD o) else setSize (mgGq o) (mgD o)

theorem length_mergeBytes (o : Op) (sets : List (List Byte)) : (mergeBytes o sets).length = mergeOut o := by
  have hroom := setSize_room (mgGq o) (mgD o)
  have hfit := partsFit_merged (mgGq o) (mgD o) sets
  rw [mergeBytes, mergeOut]
  split
  · exact length_mergedElems _ hfit
  · rw [List.length_append, length_headerBytes, length_setPayload hfit]
    omega

/-- Header and payload of a set are written. -/
theorem Busy.writeSet {u v : State} {m : WorkList} {o : Op} (h : Busy m.id o.offset u v) {p : Place} {head pay : List Byte} (k tenant : Nat)
    (hp : Claims.usable u p (head.length + pay.length) = true) (hq : Claims.quiet u = true) (steps aux : Nat) :
    let a := v.opWrite k tenant (p.plus head.length) pay
    let b := a.1.opWrite k tenant p head
    let t := b.1.endWith m o steps aux (a.2.first b.2).status 0
    Placed u t k p (head ++ pay) ∧ Claims.opAt t m.id o.offset .finished osOk := by
  intro a b t
  obtain ⟨hok, hw, hpl, hl⟩ := opWrite_usable (bs := pay) k tenant
    (h.worked.usable (usable_plus hp (i := head.length) (Nat.le_refl _))) (h.worked.quiet hq)
  have hhead : Claims.usable u p head.length = true := by
    have := usable_plus hp (i := 0) (len := head.length) (by omega)
    cases p <;> exact this
  obtain ⟨hok', -, hpl', hl'⟩ := opWrite_usable (bs := head) k tenant ((h.worked.trans hw).usable hhead) ((h.worked.trans hw).quiet hq)
  have hk : Only [.lists] [] b.1 t :=
    only_State_finishOp _ _ _ _ _ (only_State_addSteps _ _ _ _ _ (Only.refl _) (List.Subset.refl _)) (List.Subset.refl _)
  have hstatus : (a.2.first b.2).status = osOk := by rw [hok, hok']; rfl
  refine ⟨((hpl.prepend hpl').after h.bytes).before (noBytes_of_only hk (by decide) (by decide)), ?_⟩
  have hop := opAt_ended (opAt_addSteps (opAt_of_lists (opAt_of_lists h.op hl) hl') steps aux) (by decide) (a.2.first b.2).status 0
  rw [hstatus] at hop
  have ht : t = b.1.endWith m o steps aux osOk 0 := congrArg (b.1.endWith m o steps aux · 0) hstatus
  rw [ht]
  exact hop

section
variable {u : State} {m : WorkList} {o : Op} (ho : Claims.opAt u m.id o.offset .queued osRunning) {src dst : Place}
  (hsrc : u.resolve m.tenant (o.f 8 8) ⟨mgN o, mgStride o, setSize (mgGq o) (mgD o)⟩ rRead = some src)
  (hdst : u.resolve m.tenant (o.f 0x10 8) (plain (mergeOut o)) rWrite = some dst)
  (hs : ∀ i, i < mgN o → Claims.usable u (src.plus (i * mgStride o)) (setSize (mgGq o) (mgD o)) = true)

/-- The sets that a MERGE reads. -/
def State.mergeSets (u : State) (o : Op) (src : Place) : List (List Byte) :=
  (List.range (mgN o)).map fun i => Claims.bytesAt u o.core (src.plus (i * mgStride o)) (setSize (mgGq o) (mgD o))

/-- What a MERGE does with its sets. -/
def State.merge (v : State) (m : WorkList) (o : Op) (dst : Place) (sets : List (List Byte)) : State :=
  let steps := mgN o * mgGq o + (if mgFinal o then mgGq o else 0) + 96
  match sets.findIdx? fun b => fieldAt b 4 1 ≠ slotDone with
  | some i => v.endWith m o steps 0 osMergeInput i
  | none =>
    let ps := mergedParts (mgGq o) (mgD o) sets
    let count := min 0xFFFFFF ((sets.map fun b => fieldAt b 5 3).sum)
    let beats := mgN o * mgGq o + (if mgFinal o then mgGq o else 0)
    if mgFinal o then
      let fs := ps.flatMap Part.finalise
      let es := fs.map fun f => elemFrom32 (mgFmt o) f.bits
      let s1 := v.internalReport o.core ((ps.map Part.sats).sum + (fs.filter FRes.sat).length)
        ((ps.map Part.made).sum + (fs.filter FRes.made).length) (es.filter (·.2)).length beats
      let w := s1.opWrite o.core m.tenant dst (packElems (mgFmt o) (es.map (·.1)))
      w.1.endWith m o steps 0 w.2.status 0
    else
      let s1 := v.internalReport o.core (ps.map Part.sats).sum (ps.map Part.made).sum 0 beats
      let a := s1.opWrite o.core m.tenant (dst.plus 8) (setPayload (mgGq o) (mgD o) ps)
      let b := a.1.opWrite o.core m.tenant dst (headerBytes (fieldAt (sets.headD []) 0 4) slotDone count)
      b.1.endWith m o steps 0 (a.2.first b.2).status 0

include ho hsrc hdst hs

/-- Its sets have been read. -/
theorem runMerge_read : ∃ v, Busy m.id o.offset u v ∧ u.runMerge m o = v.merge m o dst (u.mergeSets o src) := by
  have h0 := Busy.start ho
  obtain ⟨h1, hacc, hsets⟩ := upTo_usable (k := o.core) (tenant := m.tenant) h0 hs
  refine ⟨_, h1, ?_⟩
  rw [State.runMerge]
  dsimp only
  rw [h0.worked.resolve, h0.worked.resolve, resolve_empty hsrc, resolve_empty hdst]
  dsimp only
  rw [SetsRead.upTo] at hacc hsets
  rw [if_neg (not_not.2 hacc), hsets]
  rfl

theorem runMerge_fails {i : Nat} (h : (u.mergeSets o src).findIdx? (fun b => fieldAt b 4 1 ≠ slotDone) = some i) :
    Claims.noBytes u (u.runMerge m o) ∧
      ((u.runMerge m o).op? m.id o.offset).map (fun q => (q.stage, q.status, q.detail)) = some (.finished, osMergeInput, i) := by
  obtain ⟨v, hv, he⟩ := runMerge_read ho hsrc hdst hs
  rw [he, State.merge]
  dsimp only
  rw [h]
  exact hv.endWith _ _ _ _

theorem runMerge_merges (h : ∀ b, b ∈ u.mergeSets o src → fieldAt b 4 1 = slotDone) (hd : Claims.usable u dst (mergeOut o) = true)
    (hq : Claims.quiet u = true) : Claims.opAt (u.runMerge m o) m.id o.offset .finished osOk ∧
      Placed u (u.runMerge m o) o.core dst (mergeBytes o (u.mergeSets o src)) := by
  obtain ⟨v, hv, he⟩ := runMerge_read ho hsrc hdst hs
  have hnone : (u.mergeSets o src).findIdx? (fun b => decide (fieldAt b 4 1 ≠ slotDone)) = none :=
    List.findIdx?_eq_none_iff.2 fun b hb => by rw [decide_eq_false (not_not.2 (h b hb))]
  have hlen := length_mergeBytes o (u.mergeSets o src)
  rw [State.merge] at he
  dsimp only at he
  rw [hnone] at he
  dsimp only at he
  rw [mergeBytes] at hlen ⊢
  cases hf : mgFinal o with
  | true =>
    rw [hf, if_pos rfl, if_pos rfl, List.map_map] at he
    rw [hf, if_pos rfl] at hlen
    rw [if_pos rfl]
    generalize mergedParts (mgGq o) (mgD o) (u.mergeSets o src) = ps at he hlen ⊢
    have h2 := hv.report o.core ((ps.map Part.sats).sum + ((ps.flatMap Part.finalise).filter FRes.sat).length)
      ((ps.map Part.made).sum + ((ps.flatMap Part.finalise).filter FRes.made).length)
      (((ps.flatMap Part.finalise).map fun f => elemFrom32 (mgFmt o) f.bits).filter (·.2)).length (mgN o * mgGq o + mgGq o)
    obtain ⟨hok, hp, hop⟩ := h2.writeWith (bs := mergedElems (mgFmt o) ps) o.core m.tenant (hlen.symm ▸ hd) hq
      (mgN o * mgGq o + mgGq o + 96) 0
    have hend : ∀ w : State × Acc, w.2 = .ok → w.1.endWith m o (mgN o * mgGq o + mgGq o + 96) 0 w.2.status 0 =
        w.1.endWith m o (mgN o * mgGq o + mgGq o + 96) 0 osOk 0 := fun w hw => by rw [hw]; rfl
    rw [← hend _ hok] at hp hop
    rw [he]
    exact ⟨hop, hp⟩
  | false =>
    rw [hf, if_neg Bool.false_ne_true, if_neg Bool.false_ne_true] at he
    rw [hf, if_neg Bool.false_ne_true] at hlen
    rw [if_neg Bool.false_ne_true]
    generalize mergedParts (mgGq o) (mgD o) (u.mergeSets o src) = ps at he hlen ⊢
    have h2 := hv.report o.core (ps.map Part.sats).sum (ps.map Part.made).sum 0 (mgN o * mgGq o + 0)
    obtain ⟨hp, hop⟩ := h2.writeSet (p := dst) (head := headerBytes (fieldAt ((u.mergeSets o src).headD []) 0 4) slotDone
      (min 0xFFFFFF ((u.mergeSets o src).map fun b => fieldAt b 5 3).sum)) (pay := setPayload (mgGq o) (mgD o) ps) o.core m.tenant
      (by rw [← List.length_append, hlen]; exact hd) hq (mgN o * mgGq o + 0 + 96) 0
    rw [length_headerBytes] at hp hop
    rw [he]
    exact ⟨hop, hp⟩

end

section
variable {s : State} {id : Nat} {early : Option (List Byte)} {l : WorkList} {o : Op}

/-- MERGE. -/
theorem merge_issued (h : Claims.passes s id early 0x07 mergeRules l o) :
    let u := Claims.issued s l o
    let v := u.startOp id l.next
    ∃ t, exec (.merge id early) s = .next t ∧ Only (Claims.listParts ++ [.freeCtr, .cores]) (Claims.listRegs ++ Claims.unitRegs) s t ∧
      (u.chainFree o.core = false → Claims.noBytes u t ∧ Claims.opAt t id l.next .queued osRunning ∧
        (t.coreUnit o.core).chainQ = (s.coreUnit o.core).chainQ ++ [waitingJob id l.next]) ∧
      (u.chainFree o.core = true →
        let size := setSize (mgGq o) (mgD o)
        ∀ src dst, v.resolve l.tenant (o.f 8 8) ⟨mgN o, mgStride o, size⟩ rRead = some src →
          v.resolve l.tenant (o.f 0x10 8) (plain (mergeOut o)) rWrite = some dst →
          (∀ i, i < mgN o → Claims.usable u (src.plus (i * mgStride o)) size = true) →
          Claims.usable u dst (mergeOut o) = true → Claims.quiet u = true →
          (∀ i, (u.mergeSets o src).findIdx? (fun b => fieldAt b 4 1 ≠ slotDone) = some i → Claims.noBytes u t ∧
            (t.op? id l.next).map (fun q => (q.stage, q.status, q.detail)) = some (.finished, osMergeInput, i)) ∧
          ((∀ b, b ∈ u.mergeSets o src → fieldAt b 4 1 = slotDone) → Claims.opAt t id l.next .finished osOk ∧
            Claims.onlyAt u t o.core dst (plain (mergeOut o)) ∧
            Claims.bytesAt t o.core dst (mergeOut o) = mergeBytes o (u.mergeSets o src))) := by
  intro u v
  have i := issued_of_passes h
  have hid : (Claims.listWith l o).id = id := i.id_eq
  obtain ⟨t, ht, honly⟩ := only_execMerge id early s
  have hrun : t = u.runOnChain (Claims.listWith l o) o State.runMerge :=
    (Host.Outcome.next.inj ht).symm.trans (issueOp_passes h (by decide) _)
  refine ⟨t, ht, honly.mono (by decide) (by decide), fun hc => ?_, fun hc => ?_⟩
  · rw [hrun]
    exact waits_issued i State.runMerge hc
  · intro size src dst hsrc hdst hs hd hq
    rw [(Worked.startOp u id l.next).resolve] at hsrc hdst
    rw [runOnChain_free _ hc] at hrun
    refine ⟨fun j hj => ?_, fun hall => ?_⟩
    · rw [hrun, ← hid, ← i.offset]
      exact runMerge_fails (opAt_issued i) hsrc hdst hs hj
    · obtain ⟨h1, h2⟩ := runMerge_merges (opAt_issued i) hsrc hdst hs hall hd hq
      rw [← hrun] at h1 h2
      rw [hid, i.offset] at h1
      have honly' := h2.onlyAt
      have hbytes := h2.bytesAt
      rw [length_mergeBytes] at honly' hbytes
      exact ⟨h1, honly', hbytes⟩

end

end Sys2Proof.Machine
end

section
/-! KV_SCATTER (R117, R154, R161 to R163), and the family of cache operations. -/

namespace Sys2Proof.Machine

/-! ### Bytes written in turn -/

/-- The byte at an address after bytes were written in turn. -/
def pokeAll (xs : List (Nat × Byte)) (a : Nat) (d : Byte) : Byte := xs.foldl (fun v x => if x.1 = a then x.2 else v) d

theorem pokeAll_append (xs ys : List (Nat × Byte)) (a : Nat) (d : Byte) : pokeAll (xs ++ ys) a d = pokeAll ys a (pokeAll xs a d) :=
  List.foldl_append

/-- The last byte written at an address stays. -/
theorem pokeAll_last (xs : List (Nat × Byte)) (a : Nat) (d : Byte) :
    pokeAll xs a d = ((xs.reverse.find? fun x => x.1 = a).map (·.2)).getD d := by
  rw [pokeAll, List.foldl_eq_foldr_reverse]
  induction xs.reverse with
  | nil => rfl
  | cons x ys ih =>
    rw [List.foldr_cons, List.find?_cons, ih]
    by_cases hx : x.1 = a
    · rw [if_pos hx, decide_eq_true hx]
      rfl
    · rw [if_neg hx, decide_eq_false hx]

theorem pokeAll_row (bs : List Byte) (a b : Nat) (d : Byte) :
    pokeAll (bs.mapIdx fun i x => (a + i, x)) b d = if a ≤ b ∧ b < a + bs.length then bs.getD (b - a) 0 else d := by
  induction bs generalizing a d with
  | nil => rw [if_neg (by rw [List.length_nil]; omega)]; rfl
  | cons x bs ih =>
    have hshift : (fun i y => (a + (i + 1), y) : Nat → Byte → Nat × Byte) = fun i y => (a + 1 + i, y) := by
      funext i y
      rw [Nat.add_assoc, Nat.add_comm 1 i]
    rw [List.mapIdx_cons, hshift, pokeAll, List.foldl_cons, ← pokeAll, ih, List.length_cons]
    by_cases h1 : a + 1 ≤ b ∧ b < a + 1 + bs.length
    · rw [if_pos h1, if_pos (by omega), show b - a = b - (a + 1) + 1 by omega]
      rfl
    · rw [if_neg h1]
      by_cases h2 : a = b
      · subst h2
        rw [if_pos (by rfl), if_pos (by omega), Nat.sub_self]
        rfl
      · rw [if_neg (by exact h2), if_neg (by omega)]

/-- From `m` to `m'` bytes were written in turn. -/
def Poked (m m' : Memory) (xs : List (Nat × Byte)) : Prop := ∀ a, rdB m' a = pokeAll xs a (rdB m a)

theorem Poked.append {m m' m'' : Memory} {xs ys : List (Nat × Byte)} (h : Poked m m' xs) (k : Poked m' m'' ys) : Poked m m'' (xs ++ ys) :=
  fun a => by rw [k a, h a, pokeAll_append]

theorem Poked.of_holds {m m' : Memory} {a : Nat} {bs : List Byte} (h : Holds m m' a bs) : Poked m m' (bs.mapIdx fun i x => (a + i, x)) :=
  fun b => by rw [h b, pokeAll_row]

/-! ### Soundness, byte by byte -/

theorem sound_of_bytes {s : State} {a n : Nat} (hn : 0 < n) (h : ∀ j, j < n → Claims.sound s (a + j) 1 = true) :
    Claims.sound s a n = true := by
  obtain ⟨htop, -⟩ := (sound_iff s _ 1).1 (h (n - 1) (by omega))
  refine (sound_iff s a n).2 ⟨by omega, fun q hq => ?_⟩
  obtain ⟨b, h1, h2, rfl⟩ := mem_sectorsOf.1 hq
  have hb := h (b - a) (by omega)
  rw [show a + (b - a) = b by omega] at hb
  exact sectorOk_of_sound (a := b) (n := 1) (b := b) hb (Nat.le_refl b) (by omega)

/-! ### Writes through a bed port -/

theorem bedOffset_add {b a j : Nat} (h : a % 512 + j < 512) : bedOffset b (a + j) = bedOffset b a + j := by
  rw [bedOffset, bedOffset]
  omega

/-- Bytes of a bank, in device addresses. -/
def bankBytes (k b a : Nat) (bs : List Byte) : List (Nat × Byte) := bs.mapIdx fun i x => (bedBase k + bedOffset b (a + i), x)

theorem bankBytes_append (k b a : Nat) (xs ys : List Byte) :
    bankBytes k b a (xs ++ ys) = bankBytes k b a xs ++ bankBytes k b (a + xs.length) ys := by
  have hshift : (fun i x => (bedBase k + bedOffset b (a + (i + xs.length)), x) : Nat → Byte → Nat × Byte) =
      fun i x => (bedBase k + bedOffset b (a + xs.length + i), x) := by
    funext i x
    rw [Nat.add_comm i, Nat.add_assoc]
  rw [bankBytes, bankBytes, bankBytes, List.mapIdx_append, hshift]

/-- Within one piece the bytes of a bank are neighbours. -/
theorem bankBytes_piece {k b a : Nat} {bs : List Byte} (h : a % 512 + bs.length ≤ 512) :
    bankBytes k b a bs = bs.mapIdx fun i x => (bedBase k + bedOffset b a + i, x) := by
  rw [bankBytes, List.mapIdx_eq_mapIdx_iff]
  intro i hi
  rw [bedOffset_add (by omega), Nat.add_assoc]

/-- Every byte lies in sound memory. -/
def SoundAll (s : State) (xs : List (Nat × Byte)) : Prop := ∀ x, x ∈ xs → Claims.sound s x.1 1 = true

theorem SoundAll.stored {s t : State} {xs : List (Nat × Byte)} (h : SoundAll s xs) (k : Stored s t) : SoundAll t xs :=
  fun x hx => k.sound (h x hx)

theorem SoundAll.left {s : State} {xs ys : List (Nat × Byte)} (h : SoundAll s (xs ++ ys)) : SoundAll s xs :=
  fun x hx => h x (List.mem_append_left _ hx)

theorem SoundAll.right {s : State} {xs ys : List (Nat × Byte)} (h : SoundAll s (xs ++ ys)) : SoundAll s ys :=
  fun x hx => h x (List.mem_append_right _ hx)

/-- A state wrote the bytes, and nothing else. -/
structure Wrote (s t : State) (xs : List (Nat × Byte)) : Prop where
  stored : Stored s t
  bytes : Poked s.mem t.mem xs

theorem Wrote.refl (s : State) : Wrote s s [] := ⟨Stored.refl s, fun _ => rfl⟩

theorem Wrote.append {s t u : State} {xs ys : List (Nat × Byte)} (h : Wrote s t xs) (k : Wrote t u ys) : Wrote s u (xs ++ ys) :=
  ⟨h.stored.trans k.stored, h.bytes.append k.bytes⟩

theorem Wrote.ctr {s t : State} {xs : List (Nat × Byte)} (h : Wrote s t xs) (u code n : Nat) : Wrote s (t.ctr u code n) xs :=
  ⟨h.stored.trans (stored_ctr t u code n), fun a => by rw [mem_ctr]; exact h.bytes a⟩

/-- One piece of a bank is written. -/
theorem writeMem_piece {s : State} {k b a : Nat} {bs : List Byte} (tenant node : Nat) (hlen : a % 512 + bs.length ≤ 512) (hn : bs ≠ [])
    (h : SoundAll s (bankBytes k b a bs)) : (s.writeMem (bedBase k + bedOffset b a) tenant node bs).2 = .ok ∧
      Wrote s (s.writeMem (bedBase k + bedOffset b a) tenant node bs).1 (bankBytes k b a bs) := by
  rw [bankBytes_piece hlen] at h ⊢
  have hs : Claims.sound s (bedBase k + bedOffset b a) bs.length = true :=
    sound_of_bytes (List.length_pos_iff.2 hn) fun j hj => h (_, bs[j]) (List.mem_mapIdx.2 ⟨j, hj, rfl⟩)
  obtain ⟨hok, hst, hh⟩ := writeMem_unarmed tenant node bs hs (.inr (by rw [bedBase]; omega))
  exact ⟨hok, hst, Poked.of_holds hh⟩

/-- Pieces of a bank are written in turn. -/
def writePieces (from_ tenant k : Nat) (x : State × Acc × List Byte) (p : Nat × Nat) : State × Acc × List Byte :=
  let w := x.1.writeMem (bedBase k + p.1) tenant from_ (x.2.2.take p.2)
  (w.1.ctr from_ (if k = from_ then 0x21 else 0x22) 1, x.2.1.first w.2, x.2.2.drop p.2)

theorem writePieces_wrote (from_ tenant k b fuel : Nat) {s : State} {a : Nat} {bs : List Byte}
    (hf : bs = [] ∨ a % 512 + bs.length ≤ 512 * fuel) (h : SoundAll s (bankBytes k b a bs)) :
    ((bankPieces b fuel a bs.length).foldl (writePieces from_ tenant k) (s, .ok, bs)).2.1 = .ok ∧
      Wrote s ((bankPieces b fuel a bs.length).foldl (writePieces from_ tenant k) (s, .ok, bs)).1 (bankBytes k b a bs) := by
  induction fuel generalizing s a bs with
  | zero =>
    have hnil : bs = [] := hf.elim id fun h => List.length_eq_zero_iff.1 (by omega)
    subst hnil
    exact ⟨rfl, Wrote.refl s⟩
  | succ fuel ih =>
    rw [bankPieces]
    split
    · next hz =>
      obtain rfl := List.length_eq_zero_iff.1 hz
      exact ⟨rfl, Wrote.refl s⟩
    · next hz =>
      have hne : bs ≠ [] := fun hnil => hz (hnil ▸ rfl)
      dsimp only
      rw [List.foldl_cons]
      generalize hcut : min bs.length (512 - a % 512) = cut
      have htake : (bs.take cut).length = cut := by rw [List.length_take]; omega
      have hsplit := bankBytes_append k b a (bs.take cut) (bs.drop cut)
      rw [List.take_append_drop, htake] at hsplit
      rw [hsplit] at h ⊢
      obtain ⟨hok, hw⟩ := writeMem_piece tenant from_ (by omega) (fun hnil => by rw [hnil] at htake; change 0 = cut at htake; omega) h.left
      have hw' := hw.ctr from_ (if k = from_ then 0x21 else 0x22) 1
      have hrest : (bs.drop cut).length = bs.length - cut := List.length_drop
      have hfuel : bs.drop cut = [] ∨ (a + cut) % 512 + (bs.drop cut).length ≤ 512 * fuel := by
        rcases Nat.lt_or_ge cut bs.length with hlt | hge
        · have hfit := hf.resolve_left hne
          exact Or.inr (by omega)
        · exact Or.inl (List.length_eq_zero_iff.1 (by omega))
      obtain ⟨hok'', hw''⟩ := ih hfuel (h.right.stored hw'.stored)
      rw [hrest] at hok'' hw''
      have hstep : writePieces from_ tenant k (s, .ok, bs) (bedOffset b a, cut) =
          ((s.writeMem (bedBase k + bedOffset b a) tenant from_ (bs.take cut)).1.ctr from_ (if k = from_ then 0x21 else 0x22) 1, .ok,
            bs.drop cut) := by
        rw [writePieces]
        dsimp only
        rw [hok]
        rfl
      rw [hstep]
      exact ⟨hok'', hw'.append hw''⟩

theorem bankWrite_wrote {s : State} {k b a : Nat} {bs : List Byte} (from_ tenant : Nat) (hlen : bs.length ≤ 512)
    (h : SoundAll s (bankBytes k b a bs)) :
    (s.bankWrite from_ tenant k b a bs).2 = .ok ∧ Wrote s (s.bankWrite from_ tenant k b a bs).1 (bankBytes k b a bs) :=
  writePieces_wrote from_ tenant k b 8 (.inr (by omega)) h

/-! ### One token and head -/

/-- The bytes of pieces of a bank. -/
def pieceBytes (k b : Nat) (ps : List (Nat × List Byte)) : List (Nat × Byte) := ps.flatMap fun p => bankBytes k b p.1 p.2

theorem scatter_pieces (l : WorkList) (o : Op) (k b : Nat) (ps : List (Nat × List Byte)) (hlen : ∀ p, p ∈ ps → p.2.length ≤ 512)
    {x : ScatterRun} (hacc : x.acc = .ok) (h : SoundAll x.s (pieceBytes k b ps)) :
    (ps.foldl (fun (x : ScatterRun) p =>
      let w := x.s.bankWrite o.core l.tenant k b p.1 p.2
      ⟨w.1, x.acc.first w.2, x.steps + ceilDiv p.2.length 64⟩) x).acc = .ok ∧
    Wrote x.s (ps.foldl (fun (x : ScatterRun) p =>
      let w := x.s.bankWrite o.core l.tenant k b p.1 p.2
      ⟨w.1, x.acc.first w.2, x.steps + ceilDiv p.2.length 64⟩) x).s (pieceBytes k b ps) := by
  induction ps generalizing x with
  | nil => exact ⟨hacc, Wrote.refl x.s⟩
  | cons p ps ih =>
    rw [pieceBytes, List.flatMap_cons] at h ⊢
    obtain ⟨hok, hw⟩ := bankWrite_wrote o.core l.tenant (hlen p (List.mem_cons_self ..)) h.left
    obtain ⟨hok', hw'⟩ := ih (fun q hq => hlen q (List.mem_cons_of_mem _ hq))
      (x := ⟨(x.s.bankWrite o.core l.tenant k b p.1 p.2).1, x.acc.first (x.s.bankWrite o.core l.tenant k b p.1 p.2).2,
        x.steps + ceilDiv p.2.length 64⟩) (by rw [hacc, hok]; rfl) (h.right.stored hw.stored)
    exact ⟨hok', hw.append hw'⟩

/-- A piece is shorter than a row of a bank. -/
theorem length_kvPieces {m : CtxMap} (hd : m.d ≤ 256) (row slot : Nat) (vec : List Byte) :
    ∀ p, p ∈ kvPieces m row slot vec → p.2.length ≤ 512 := by
  have hcode : ∀ w, w = 4 ∨ w = 8 → m.d * w / 8 ≤ 512 := fun w hw => by rcases hw with rfl | rfl <;> omega
  have hk := hcode m.wk (codeBits_cases _)
  have hv := hcode m.wv (codeBits_cases _)
  have hcut : ∀ n (bs : List Byte), n ≤ 512 → (bs.take n).length ≤ 512 := fun n bs hn => Nat.le_trans (List.length_take_le n bs) hn
  intro p hp
  simp only [kvPieces, List.mem_cons, List.not_mem_nil, or_false] at hp
  rcases hp with rfl | rfl | rfl | rfl
  · exact hcut _ _ hk
  · exact hcut _ _ (by omega)
  · exact hcut _ _ hv
  · exact hcut _ _ (by omega)

theorem slot_wrote {m : CtxMap} (hd : m.d ≤ 256) (l : WorkList) (o : Op) (pos head : Nat) (vec : List Byte) {x : ScatterRun}
    (hacc : x.acc = .ok) (h : SoundAll x.s (Claims.cacheBytes m (ksLayer o * m.heads + head) pos vec)) :
    (x.slot l o m pos head vec).acc = .ok ∧
      Wrote x.s (x.slot l o m pos head vec).s (Claims.cacheBytes m (ksLayer o * m.heads + head) pos vec) :=
  scatter_pieces l o _ _ _ (length_kvPieces hd _ _ vec) hacc h

/-- Tokens and heads are written in turn. -/
theorem slots_wrote {m : CtxMap} (hd : m.d ≤ 256) (l : WorkList) (o : Op) (pos head : Nat → Nat) (vec : Nat → List Byte) (is : List Nat)
    {x : ScatterRun} (hacc : x.acc = .ok)
    (h : SoundAll x.s (is.flatMap fun i => Claims.cacheBytes m (ksLayer o * m.heads + head i) (pos i) (vec i))) :
    (is.foldl (fun (x : ScatterRun) i => x.slot l o m (pos i) (head i) (vec i)) x).acc = .ok ∧
      Wrote x.s (is.foldl (fun (x : ScatterRun) i => x.slot l o m (pos i) (head i) (vec i)) x).s
        (is.flatMap fun i => Claims.cacheBytes m (ksLayer o * m.heads + head i) (pos i) (vec i)) := by
  induction is generalizing x with
  | nil => exact ⟨hacc, Wrote.refl x.s⟩
  | cons i is ih =>
    rw [List.flatMap_cons] at h ⊢
    obtain ⟨hok, hw⟩ := slot_wrote hd l o (pos i) (head i) (vec i) hacc h.left
    obtain ⟨hok', hw'⟩ := ih hok (h.right.stored hw.stored)
    exact ⟨hok', hw.append hw'⟩

/-! ### The operation -/

/-- Table 7-1: a checked map has at most 256 channels. -/
theorem CtxMap.channels {s : State} {m : CtxMap} (h : s.mapOk m = true) : m.d ≤ 256 := by
  simp only [State.mapOk, Bool.and_eq_true, decide_eq_true_eq] at h
  simp only [and_assoc] at h
  obtain ⟨-, -, hd, -⟩ := h
  exact hd

/-- Bytes of one token and head in an append buffer. -/
def CtxMap.kvSize (m : CtxMap) : Nat := vecBytes m.d m.wk + vecBytes m.d m.wv

/-- Position of token i, where the positions stand. -/
def State.ksPos (u : State) (o : Op) (pp : Place) (i : Nat) : Nat := fieldAt (Claims.bytesAt u o.core pp (4 * ksTokens o)) (4 * i) 4

/-- The bytes that a KV_SCATTER writes, in turn. -/
def State.scattered (u : State) (o : Op) (m : CtxMap) (buf pp : Place) : List (Nat × Byte) :=
  (List.range (ksTokens o * m.heads)).flatMap fun i => Claims.cacheBytes m (ksLayer o * m.heads + i % m.heads) (u.ksPos o pp (i / m.heads))
    (((Claims.bytesAt u o.core buf (ksTokens o * m.heads * m.kvSize)).drop (i * m.kvSize)).take m.kvSize)

/-- A KV_SCATTER whose operands have been read. -/
def State.scatter (v : State) (l : WorkList) (o : Op) (m : CtxMap) (pos : List Nat) (data : List Byte) : State :=
  let x := (List.range (ksTokens o * m.heads)).foldl (fun (x : ScatterRun) i =>
    x.slot l o m (pos.getD (i / m.heads) 0) (i % m.heads) ((data.drop (i * m.kvSize)).take m.kvSize)) ⟨v, .ok, 0⟩
  (x.s.ctr o.core 0x40 x.steps).endWith l o x.steps 0 (if x.acc = .lost then osTowerLost else x.acc.status) 0

section
variable {u : State} {l : WorkList} {o : Op} (ho : Claims.opAt u l.id o.offset .queued osRunning) {r : MapRead}
  (hr : r = (u.startOp l.id o.offset).readMap o.core l.tenant (o.f 8 8) rWrite 8) (herr : r.err = none) {buf pp : Place}
  (hbuf : (u.startOp l.id o.offset).resolve l.tenant (o.f 0x10 8) (plain (ksTokens o * r.map.heads * r.map.kvSize)) rRead = some buf)
  (hpp : (u.startOp l.id o.offset).resolve l.tenant (o.f 0x18 8) (plain (4 * ksTokens o)) rRead = some pp)
  (hub : Claims.usable r.s buf (ksTokens o * r.map.heads * r.map.kvSize) = true) (hup : Claims.usable r.s pp (4 * ksTokens o) = true)
include ho hr herr hbuf hpp hub hup

/-- Map, positions and vectors have been read. -/
theorem runKvScatter_read : ∃ v w, Busy l.id o.offset r.s v ∧ Busy l.id o.offset r.s w ∧ Claims.noBytes u r.s ∧ u.runKvScatter l o =
    if ((List.range (ksTokens o)).map (u.ksPos o pp)).any (fun p => p < r.map.posBase || r.map.posBase + 64 * r.map.blocks ≤ p) then
      v.finishOp l.id o.offset osMalformed 0x18
    else w.scatter l o r.map ((List.range (ksTokens o)).map (u.ksPos o pp))
      (Claims.bytesAt u o.core buf (ksTokens o * r.map.heads * r.map.kvSize)) := by
  have h0 := Busy.start ho
  have hb := h0.noBytes_readMap o.core l.tenant (o.f 8 8) rWrite 8
  have h1 := h0.readMap o.core l.tenant (o.f 8 8) rWrite 8
  have hres := resolve_readMap (u.startOp l.id o.offset) o.core l.tenant (o.f 8 8) rWrite 8
  rw [← hr] at hb h1 hres
  obtain ⟨hpa, hpd, h2⟩ := h1.read o.core l.tenant hup
  obtain ⟨hba, hbd, h3⟩ := h2.read o.core l.tenant hub
  refine ⟨_, _, h2, h3, hb, ?_⟩
  rw [State.runKvScatter]
  dsimp only
  rw [← hr, herr, hres, hres, resolve_empty hbuf, resolve_empty hpp]
  dsimp only
  rw [CtxMap.kvSize] at hba hbd
  rw [if_neg (not_not.2 hpa), if_neg (not_not.2 hba), hpd, hbd, bytesAt_congr hb, bytesAt_congr hb]
  rfl

theorem runKvScatter_malformed (h : ∃ i, i < ksTokens o ∧
      (u.ksPos o pp i < r.map.posBase ∨ r.map.posBase + 64 * r.map.blocks ≤ u.ksPos o pp i)) :
    Claims.noBytes u (u.runKvScatter l o) ∧ Claims.opAt (u.runKvScatter l o) l.id o.offset .finished osMalformed := by
  obtain ⟨v, w, hv, -, hb, he⟩ := runKvScatter_read ho hr herr hbuf hpp hub hup
  obtain ⟨i, hi, hout⟩ := h
  rw [if_pos ?_] at he
  · rw [he]
    obtain ⟨h1, h2⟩ := hv.fails osMalformed 0x18
    exact ⟨noBytes_trans hb h1, h2⟩
  · rw [List.any_map, List.any_eq_true]
    refine ⟨i, List.mem_range.2 hi, ?_⟩
    simpa using hout

theorem runKvScatter_scatters (h : ∀ i, i < ksTokens o →
      r.map.posBase ≤ u.ksPos o pp i ∧ u.ksPos o pp i < r.map.posBase + 64 * r.map.blocks)
    (hall : SoundAll r.s (u.scattered o r.map buf pp)) : Claims.opAt (u.runKvScatter l o) l.id o.offset .finished osOk ∧
      Poked u.mem (u.runKvScatter l o).mem (u.scattered o r.map buf pp) := by
  obtain ⟨v, w, -, hw, hb, he⟩ := runKvScatter_read ho hr herr hbuf hpp hub hup
  have hd := CtxMap.channels (readMap_checked hr herr)
  rw [if_neg ?_] at he
  · have hpos : u.scattered o r.map buf pp = (List.range (ksTokens o * r.map.heads)).flatMap fun i =>
        Claims.cacheBytes r.map (ksLayer o * r.map.heads + i % r.map.heads)
          (((List.range (ksTokens o)).map (u.ksPos o pp)).getD (i / r.map.heads) 0)
          (((Claims.bytesAt u o.core buf (ksTokens o * r.map.heads * r.map.kvSize)).drop (i * r.map.kvSize)).take r.map.kvSize) := by
      refine List.flatMap_congr fun i hi => ?_
      have hlt : i / r.map.heads < ksTokens o := Nat.div_lt_of_lt_mul (Nat.mul_comm _ _ ▸ List.mem_range.1 hi)
      rw [List.getD_eq_getElem?_getD, List.getElem?_map, List.getElem?_range hlt]
      rfl
    have hsound : SoundAll w (u.scattered o r.map buf pp) := fun x hx => hw.worked.sound (hall x hx)
    rw [hpos] at hsound ⊢
    obtain ⟨hok, hwr⟩ := slots_wrote hd l o (fun i => ((List.range (ksTokens o)).map (u.ksPos o pp)).getD (i / r.map.heads) 0)
      (fun i => i % r.map.heads) (fun i => ((Claims.bytesAt u o.core buf (ksTokens o * r.map.heads * r.map.kvSize)).drop
        (i * r.map.kvSize)).take r.map.kvSize) (List.range (ksTokens o * r.map.heads)) (x := ⟨w, .ok, 0⟩) rfl hsound
    have hmem : w.mem = u.mem := hw.bytes.1.trans hb.1
    have hpk := hwr.bytes
    dsimp only at hpk
    rw [hmem] at hpk
    rw [he, State.scatter, hok]
    generalize (List.range (ksTokens o * r.map.heads)).foldl _ _ = y at hwr hpk ⊢
    have hop : Claims.opAt (y.s.ctr o.core 0x40 y.steps) l.id o.offset .started osRunning :=
      opAt_of_lists (opAt_of_lists hw.op (hwr.stored.only.part .lists (by decide))) (lists_ctr _ _ _ _)
    have hend : ∀ st, Only [.lists] [.ctrVal] y.s ((y.s.ctr o.core 0x40 y.steps).endWith l o y.steps 0 st 0) := fun st =>
      only_State_finishOp _ _ _ _ _ (only_State_addSteps _ _ _ _ _ (only_State_ctr y.s _ _ _ (Only.refl _) (by decide)) (by decide))
        (by decide)
    refine ⟨opAt_ended (opAt_addSteps hop _ _) (by decide) _ 0, fun a => ?_⟩
    rw [(hend _).part .mem (by decide)]
    exact hpk a
  · rw [List.any_map, List.any_eq_true]
    rintro ⟨i, hi, hc⟩
    obtain ⟨h1, h2⟩ := h i (List.mem_range.1 hi)
    simp only [Function.comp_apply, Bool.or_eq_true, decide_eq_true_eq] at hc
    omega

end

theorem only_runKvScatter (s : State) (l : WorkList) (o : Op) :
    Only [.mem, .checks, .fpDirty, .chanPoisoned, .hbm, .ic, .flog0, .flog1, .mbox, .lists] Claims.listRegs s (s.runKvScatter l o) :=
  only_State_runKvScatter s l o (Only.refl s) (by decide) (by decide)

section
variable {s : State} {id : Nat} {early : Option (List Byte)} {l : WorkList} {o : Op}

/-- KV_SCATTER. -/
theorem kvScatter_issued (h : Claims.passes s id early 0x05 kvScatterRules l o) :
    let u := Claims.issued s l o
    let v := u.startOp id l.next
    ∃ t, exec (.kvScatter id early) s = .next t ∧ Only Claims.listParts Claims.listRegs s t ∧
      (let r := v.readMap o.core l.tenant (o.f 8 8) rWrite 8
       let m := r.map
       r.err = none → ∀ buf pp, v.resolve l.tenant (o.f 0x10 8) (plain (ksTokens o * m.heads * m.kvSize)) rRead = some buf →
         v.resolve l.tenant (o.f 0x18 8) (plain (4 * ksTokens o)) rRead = some pp →
         Claims.usable r.s buf (ksTokens o * m.heads * m.kvSize) = true → Claims.usable r.s pp (4 * ksTokens o) = true →
         ((∃ i, i < ksTokens o ∧ (u.ksPos o pp i < m.posBase ∨ m.posBase + 64 * m.blocks ≤ u.ksPos o pp i)) →
           Claims.noBytes u t ∧ Claims.opAt t id l.next .finished osMalformed) ∧
         ((∀ i, i < ksTokens o → m.posBase ≤ u.ksPos o pp i ∧ u.ksPos o pp i < m.posBase + 64 * m.blocks) →
           (∀ x, x ∈ u.scattered o m buf pp → Claims.sound r.s x.1 1 = true) → Claims.opAt t id l.next .finished osOk ∧
             t.stores = u.stores ∧ ∀ a, rdB t.mem a =
               (((u.scattered o m buf pp).reverse.find? fun x => x.1 = a).map (·.2)).getD (rdB u.mem a))) := by
  intro u v
  have i := issued_of_passes h
  have hid : (Claims.listWith l o).id = id := i.id_eq
  have hv : v = u.startOp (Claims.listWith l o).id o.offset := by rw [hid, i.offset]
  obtain ⟨t, ht, honly⟩ := only_execKvScatter id early s
  have hrun : t = u.runKvScatter (Claims.listWith l o) o :=
    (Host.Outcome.next.inj ht).symm.trans (issueOp_passes h (by decide) _)
  refine ⟨t, ht, honly.mono (by decide) (by decide), ?_⟩
  intro r m herr buf pp hbuf hpp hub hup
  have hr : r = (u.startOp (Claims.listWith l o).id o.offset).readMap o.core l.tenant (o.f 8 8) rWrite 8 := by rw [← hv]
  rw [hv] at hbuf hpp
  refine ⟨fun hout => ?_, fun hin hall => ?_⟩
  · rw [hrun, ← hid, ← i.offset]
    exact runKvScatter_malformed (opAt_issued i) hr herr hbuf hpp hub hup hout
  · obtain ⟨h1, h2⟩ := runKvScatter_scatters (opAt_issued i) hr herr hbuf hpp hub hup hin hall
    rw [← hrun] at h1 h2
    rw [hid, i.offset] at h1
    refine ⟨h1, ?_, fun a => ?_⟩
    · rw [hrun]
      exact (only_runKvScatter u _ o).part .stores (by decide)
    · rw [h2 a, pokeAll_last]

end

/-- Settles O43: each operation reads its operands as they stood at issue, and writes rows whose sizes its map or its fields give. -/
theorem theCacheIsWrittenAndMerged : Obligations.TheCacheIsWrittenAndMerged := by
  intro id early l o s
  exact ⟨kvAppend_issued, kvScatter_issued, merge_issued⟩

end Sys2Proof.Machine
end

section
/-! ATTEND (R166): what an empty context gives where an earlier entry's output lies over a bad sector. -/

namespace Sys2Proof.Machine

/-! ### A batch of two empty contexts -/

/-- A context map of one layer and head, one block of 32 channels in bank 0 of core 0, in segment 1. -/
def oneBlockMap : List Byte :=
  leBytes 2 32 ++ [0, 1] ++ leBytes 2 1 ++ [1, 0] ++ leBytes 4 0 ++ leBytes 4 1 ++ List.replicate 16 0 ++ (1 :: List.replicate 31 0) ++
    leBytes 4 0x100

/-- A batch entry of an empty context with one query row, whose output stands at an offset of segment 0. -/
def emptyEntry (out : Nat) : List Byte :=
  List.replicate 8 0 ++ leBytes 4 1 ++ List.replicate 12 0 ++ leBytes 8 (2 ^ 61 + 0x80) ++ leBytes 8 (3 * 2 ^ 61) ++
    leBytes 8 (2 ^ 61 + out) ++ List.replicate 16 0

/-- A softmax descriptor: a maximum and a linked sum, both carried and emitted. -/
def softmaxStages : List Byte :=
  List.replicate 16 0 ++ leBytes 8 0x3100500000000000 ++ List.replicate 16 0 ++ leBytes 8 0x3000700000000000 ++ List.replicate 16 0

/-- An ATTEND of core 0 over a batch of two entries. -/
def attendBytes : List Byte :=
  [3, 2, 0, 0, 0, 0, 0, 0] ++ leBytes 8 (2 ^ 61) ++ leBytes 8 (2 ^ 61 + 0x100) ++ leBytes 8 0 ++ leBytes 8 (2 * 2 ^ 61) ++
    leBytes 8 (3 * 2 ^ 61) ++ leBytes 2 2 ++ leBytes 2 0 ++ [1, 0, 0, 0] ++ List.replicate 8 0

/-- The nonzero bytes of a list, from an address. -/
def mapAt (a : Nat) (bs : List Byte) : Memory := (bs.zipIdx.filter fun x => x.1 ≠ 0).map fun x => (a + x.2, x.1)

def keySegment : Seg := ⟨bedBase 0, 0x80000, .priv, true, 7, 0, 1, 0xFFFFFFFF⟩

/-- A running list of tower 0. -/
def attendList : WorkList :=
  { id := 4, tenant := 1, tag := 7, quiet := false, priority := 0, ref := 0, submitted := 0, state := .running, units := 20,
    resume := 2 ^ 61, records := 0, next := 1, admitted := 0, everAdmitted := true, ops := [] }

/-- The first output's sector, 8, holds the check symbols of another sector's data, and its channel has met such a sector a
moment before. The second output's sector is sound and holds a byte. -/
def failingState : State :=
  { State.reset with
    segs := [(16, lowSegment), (17, keySegment)],
    lists := [attendList],
    mem := mapAt 0 (emptyEntry 0x200 ++ emptyEntry 0x240 ++ oneBlockMap) ++ mapAt 0x100 softmaxStages ++ [(0x240, 5)],
    checks := [(8, cleanChecks (locCode (.ext 0 0 9)) (List.replicate 64 0))],
    hbm := [(0, { channels := [(0, { recent := [⟨5, 0, true⟩] })] })] }

def attendOp : Op := Claims.newOp failingState attendList attendBytes

/-- The state in which the ATTEND has started. -/
def startedState : State := (Claims.issued failingState attendList attendOp).startOp 4 1

def descPlace : Place := .dev 0x100 lowSegment

def batchEntry (i out : Nat) : EntryMaps := ⟨i, ⟨emptyEntry out⟩, none, ⟨oneBlockMap⟩⟩

/-! ### The ATTEND is issued and runs -/

theorem rules_attendOp : attendRules failingState attendList attendOp = none := by decide +kernel

theorem passes_attendOp : Claims.passes failingState 4 (some attendBytes) 0x03 attendRules attendList attendOp :=
  ⟨rfl, by decide +kernel, rfl, rfl, rfl, rfl, by decide +kernel, Or.inr rfl, by decide +kernel, by decide +kernel, by decide +kernel,
    rules_attendOp, by decide +kernel⟩

theorem chainFree_attendOp : (Claims.issued failingState attendList attendOp).chainFree attendOp.core = true := by decide +kernel

theorem readBatch_attendOp : (startedState.readBatch 1 attendOp rRead atFields).err = none ∧
    (startedState.readBatch 1 attendOp rRead atFields).entries = [batchEntry 0 0x200, batchEntry 1 0x240] := by decide +kernel

theorem resolve_attendOp : startedState.resolve 1 (atDesc attendOp) (plain 64) rRead = some descPlace := by decide +kernel

theorem quiet_startedState : Claims.quiet startedState = true := by decide +kernel

theorem sound_startedState : Claims.sound startedState 0x240 16 = true := by decide +kernel

theorem output_attendOp : startedState.resolve 1 (batchEntry 1 0x240).entry.output (plain 0) rWrite = some (.dev 0x240 lowSegment) := by
  decide +kernel

/-- Merging the first output's zeros into its sector finds the sector bad, and the channel fails: the second output's zeros
are not stored. -/
theorem attended_attendOp : (Claims.attended startedState attendList attendOp descPlace).acc = .ok ∧
    rdB (Claims.attended startedState attendList attendOp descPlace).s.mem 0x240 = 5 := by decide +kernel

theorem sieveClass_zero : sieveClass 0 = 0 := rfl

/-- What the obligation says of an ATTEND that runs on empty contexts alone. -/
theorem attended_zeros (h : Obligations.AttentionRunsOnItsUnits) {id : Nat} {early : Option (List Byte)} {l : WorkList} {o : Op}
    {s v : State} {p : Place} {x : AtRun} (hv : v = (Claims.issued s l o).startOp id l.next) (hx : x = Claims.attended v l o p)
    (hpass : Claims.passes s id early 0x03 attendRules l o) (hfree : (Claims.issued s l o).chainFree o.core = true)
    (hq : (s.coreUnit o.core).arrayQ = []) (herr : (v.readBatch l.tenant o rRead atFields).err = none)
    (hp : v.resolve l.tenant (atDesc o) (plain 64) rRead = some p) (hacc : x.acc = .ok)
    (hn : ∀ e, e ∈ (v.readBatch l.tenant o rRead atFields).entries → e.entry.n = 0) (hquiet : Claims.quiet v = true) {e : EntryMaps}
    {a n : Nat} {g : Seg} (he : e ∈ (v.readBatch l.tenant o rRead atFields).entries)
    (hsize : n = rowBytes (atFmt o) (e.entry.qRows * e.own.heads * baGq o * e.own.d))
    (hout : v.resolve l.tenant e.entry.output (plain 0) rWrite = some (.dev a g)) (hsound : Claims.sound v a n = true) :
    rdBytes x.s.mem a n = List.replicate n 0 := by
  subst hv hx
  unfold Obligations.AttentionRunsOnItsUnits at h
  obtain ⟨hissue, -⟩ := h
  obtain ⟨hattend, -⟩ := hissue id early l o s
  obtain ⟨t, -, -, -, hrun⟩ := hattend hpass
  obtain ⟨-, hok, hzero⟩ := hrun hfree hq herr p hp
  obtain ⟨-, hmem, -⟩ := hok hacc
  rw [← hmem fun e he => by rw [hn e he, sieveClass_zero]; decide]
  exact hzero hn hacc hquiet e a g n he hsize hout hsound

theorem rdB_of_zeros {m : Memory} {a n : Nat} (h : rdBytes m a n = List.replicate n 0) (hn : 0 < n) : rdB m a = 0 := by
  have hg := congrArg (fun bs : List Byte => bs[0]?) h
  simpa [rdBytes, hn] using hg

/-- Refutes O44: an ATTEND of two empty contexts whose first output lies over a bad sector fails the channel (R200, R201), so
that the zeros of the second output, which was sound at the start, are lost. -/
theorem not_attentionRunsOnItsUnits : ¬ Obligations.AttentionRunsOnItsUnits := by
  intro h
  obtain ⟨herr, hentries⟩ := readBatch_attendOp
  obtain ⟨hacc, hbyte⟩ := attended_attendOp
  have hempty : ∀ e, e ∈ [batchEntry 0 0x200, batchEntry 1 0x240] → e.entry.n = 0 := by decide +kernel
  have hzeros := attended_zeros h (v := startedState) rfl rfl passes_attendOp chainFree_attendOp rfl herr resolve_attendOp hacc
    (fun e he => hempty e (hentries ▸ he)) quiet_startedState (e := batchEntry 1 0x240) (n := 16)
    (hentries ▸ List.mem_cons_of_mem _ (List.mem_cons_self ..)) (by decide +kernel) output_attendOp sound_startedState
  have hfirst : (5 : Byte) = 0 := hbyte.symm.trans (rdB_of_zeros hzeros (by decide))
  exact absurd hfirst (by decide)

end Sys2Proof.Machine
end

section
/-! MATMUL and VCHAIN enter their units (R76, R80, R258, R263, R264); SHADOW_LOAD (R61, R62, R118). -/

namespace Sys2Proof.Machine

/-! ### Descriptors kept with an operation -/

/-- The parts that reading an operand may touch. -/
abbrev readParts : List Piece := [.fpDirty, .chanPoisoned, .hbm, .ic, .flog0, .flog1, .mbox]
abbrev readRegs : List RegKind := [.bedCe, .bedUe, .bedLastue, .memStat, .memChstat, .memChce, .memChue, .memChpoison, .ctrVal]

theorem only_opRead (s : State) (k t : Nat) (p : Place) (n : Nat) : Only readParts readRegs s (s.opRead k t p n).s :=
  only_State_opRead s k t p n (Only.refl s) (List.Subset.refl _) (List.Subset.refl _)

theorem noBytes_opRead (s : State) (k t : Nat) (p : Place) (n : Nat) : Claims.noBytes s (s.opRead k t p n).s :=
  noBytes_of_only (only_opRead s k t p n) (by decide) (by decide)

/-- From `v` to `w` the operation `o` of a list stays queued, now as `p`: no byte moves and the units stay. -/
structure Kept (v w : State) (id : Nat) (o p : Op) : Prop where
  bytes : Claims.noBytes v w
  cores : w.cores = v.cores
  op : w.op? id o.offset = some p
  offset : p.offset = o.offset
  core : p.core = o.core
  word : p.bytes = o.bytes
  stage : p.stage = o.stage
  status : p.status = o.status

section
variable {v : State} {m : WorkList} {o : Op} (ho : v.op? m.id o.offset = some o) (bs : List Byte)
include ho

theorem keepDesc_kept : Kept v (v.keepDesc m o bs).1 m.id o (v.keepDesc m o bs).2 := by
  rw [State.keepDesc]
  split
  · next p hp =>
    have honly := only_opRead v o.core m.tenant p 64
    generalize hr : v.opRead o.core m.tenant p 64 = r at honly ⊢
    have hop : r.s.op? m.id o.offset = some o := (State.op?_congr (honly.part .lists (by decide)) _ _).trans ho
    have hset := fun q : Op => only_setOp r.s m.id q
    refine ⟨noBytes_trans (noBytes_of_only honly (by decide) (by decide)) (noBytes_of_only (hset _) (by decide) (by decide)),
      ((hset _).part .cores (by decide)).trans (honly.part .cores (by decide)), ?_, rfl, rfl, rfl, rfl, rfl⟩
    exact State.op?_setOp_same (o := { o with aux := bs ++ r.data, digest := if (stagesOf r.data).any Stage.isDigest then crc64Init else 0 })
      (p := o) hop
  · exact ⟨⟨rfl, rfl⟩, rfl, ho, rfl, rfl, rfl, rfl, rfl⟩

omit ho in
theorem keepDesc_aux {p : Place} (hp : v.resolve m.tenant (fieldAt bs 0 8) (plain 64) rRead = some p)
    (hu : Claims.usable v p 64 = true) : (v.keepDesc m o bs).2.aux = bs ++ Claims.bytesAt v o.core p 64 := by
  obtain ⟨-, hdata, -⟩ := opRead_usable o.core m.tenant hu
  rw [State.keepDesc, hp]
  dsimp only
  rw [hdata]

end

theorem Kept.opAt {v w : State} {id : Nat} {o p : Op} (h : Kept v w id o p) {st : OpStage} {status : Nat} (hst : o.stage = st)
    (hs : o.status = status) : Claims.opAt w id o.offset st status :=
  opAt_iff.2 ⟨p, h.op, h.stage.trans hst, h.status.trans hs⟩

/-! ### MATMUL -/

section
variable {u : State} {m : WorkList} {o : Op}

theorem queueMatmul_fields (w : State) (m : WorkList) (o : Op) : Claims.noBytes w (w.queueMatmul m o) ∧
    (w.queueMatmul m o).lists = w.lists ∧
    ((w.queueMatmul m o).coreUnit o.core).arrayQ = (w.coreUnit o.core).arrayQ ++ [(m.id, o.offset)] := by
  refine ⟨⟨rfl, rfl⟩, rfl, ?_⟩
  rw [State.queueMatmul]
  rw [State.coreUnit_setCoreUnit, if_pos rfl]

/-- A MATMUL in its unit, with its binding and descriptor where it is fused. -/
def State.enterArray (s : State) (m : WorkList) (o : Op) : State :=
  if mmBinding o = 0 then s.queueMatmul m o
  else
    let b := s.mmBindingRead m o
    let r := b.s.keepDesc m o b.data
    r.1.queueMatmul m r.2

theorem mmBindingRead_only (u : State) (m : WorkList) (o : Op) : Only readParts readRegs u (u.mmBindingRead m o).s :=
  only_State_mmBindingRead u m o (Only.refl u) (List.Subset.refl _) (List.Subset.refl _)

theorem mmBindingRead_usable {pb : Place} (hpb : u.resolve m.tenant (mmBinding o) (plain 64) rRead = some pb)
    (hub : Claims.usable u pb 64 = true) :
    (u.mmBindingRead m o).data = Claims.bytesAt u o.core pb 64 ∧ Worked u (u.mmBindingRead m o).s ∧
      Claims.noBytes u (u.mmBindingRead m o).s := by
  obtain ⟨-, hdata, hw, hb, -⟩ := opRead_usable o.core m.tenant hub
  rw [State.mmBindingRead, hpb]
  exact ⟨hdata, hw, hb⟩

theorem enterArray_enters (ho : u.op? m.id o.offset = some o) (hst : o.stage = .queued) (hs : o.status = osRunning) :
    Claims.noBytes u (u.enterArray m o) ∧ Claims.opAt (u.enterArray m o) m.id o.offset .queued osRunning ∧
      ((u.enterArray m o).coreUnit o.core).arrayQ = (u.coreUnit o.core).arrayQ ++ [(m.id, o.offset)] := by
  rw [State.enterArray]
  split
  · obtain ⟨hb, hl, hq⟩ := queueMatmul_fields u m o
    exact ⟨hb, opAt_of_lists (opAt_iff.2 ⟨o, ho, hst, hs⟩) hl, hq⟩
  · dsimp only
    have honly := mmBindingRead_only u m o
    generalize (u.mmBindingRead m o).data = bs
    generalize (u.mmBindingRead m o).s = v at honly ⊢
    have hk := keepDesc_kept (v := v) (m := m) ((State.op?_congr (honly.part .lists (by decide)) _ _).trans ho) bs
    generalize v.keepDesc m o bs = r at hk ⊢
    obtain ⟨hb, hl, hq⟩ := queueMatmul_fields r.1 m r.2
    rw [hk.core, hk.offset] at hq
    refine ⟨noBytes_trans (noBytes_trans (noBytes_of_only honly (by decide) (by decide)) hk.bytes) hb,
      opAt_of_lists (hk.opAt hst hs) hl, hq.trans ?_⟩
    rw [State.coreUnit_congr (hk.cores.trans (honly.part .cores (by decide)))]

theorem enterArray_aux (ho : u.op? m.id o.offset = some o) (hn : mmBinding o ≠ 0) {pb pd : Place}
    (hpb : u.resolve m.tenant (mmBinding o) (plain 64) rRead = some pb) (hub : Claims.usable u pb 64 = true)
    (hpd : u.resolve m.tenant (fieldAt (Claims.bytesAt u o.core pb 64) 0 8) (plain 64) rRead = some pd)
    (hud : Claims.usable u pd 64 = true) : ((u.enterArray m o).op? m.id o.offset).map (·.aux) =
      some (Claims.bytesAt u o.core pb 64 ++ Claims.bytesAt u o.core pd 64) := by
  obtain ⟨hdata, hw, hb⟩ := mmBindingRead_usable hpb hub
  have honly := mmBindingRead_only u m o
  rw [State.enterArray, if_neg hn]
  dsimp only
  rw [hdata]
  generalize (u.mmBindingRead m o).s = v at hw hb honly ⊢
  have hk := keepDesc_kept (v := v) (m := m) ((State.op?_congr (honly.part .lists (by decide)) _ _).trans ho) (Claims.bytesAt u o.core pb 64)
  have haux := keepDesc_aux (v := v) (m := m) (o := o) (Claims.bytesAt u o.core pb 64) ((hw.resolve _ _ _ _ _).trans hpd) (hw.usable hud)
  generalize v.keepDesc m o (Claims.bytesAt u o.core pb 64) = r at hk haux ⊢
  obtain ⟨-, hl, -⟩ := queueMatmul_fields r.1 m r.2
  rw [State.op?_congr hl, hk.op, Option.map_some, haux, bytesAt_congr hb]

end

/-! ### VCHAIN -/

section
variable {u : State} {m : WorkList} {o : Op}

/-- The job of a VCHAIN that has just entered its chain's queue. -/
def vchainJob (id off : Nat) (o : Op) : ChainJob :=
  { list := id, op := off, row0 := 0, col0 := 0, rows := vcRows o, cols := vcCols o, fused := false }

theorem queueVchain_fields (w : State) (m : WorkList) {o p : Op} (ht : p.tile = 0) (hb : p.bytes = o.bytes) :
    Claims.noBytes w (w.queueVchain m p) ∧ (w.queueVchain m p).lists = w.lists ∧
      ((w.queueVchain m p).coreUnit p.core).chainQ = (w.coreUnit p.core).chainQ ++ [vchainJob m.id p.offset o] := by
  refine ⟨⟨rfl, rfl⟩, rfl, ?_⟩
  have hr : vcRows p = vcRows o := by rw [vcRows, vcRows, Op.f, Op.f, hb]
  have hc : vcCols p = vcCols o := by rw [vcCols, vcCols, Op.f, Op.f, hb]
  rw [State.queueVchain]
  rw [State.coreUnit_setCoreUnit, if_pos rfl, ht, hr, hc]
  rfl

/-- A VCHAIN in its unit, with its descriptor. -/
def State.enterChain (s : State) (m : WorkList) (o : Op) : State :=
  let r := s.keepDesc m o (vcBinding o).bytes
  r.1.queueVchain m r.2

theorem keepDesc_tile (v : State) (m : WorkList) (o : Op) (bs : List Byte) : (v.keepDesc m o bs).2.tile = o.tile := by
  rw [State.keepDesc]
  split <;> rfl

theorem enterChain_enters (ho : u.op? m.id o.offset = some o) (hst : o.stage = .queued) (hs : o.status = osRunning) (ht : o.tile = 0) :
    Claims.noBytes u (u.enterChain m o) ∧ Claims.opAt (u.enterChain m o) m.id o.offset .queued osRunning ∧
      ((u.enterChain m o).coreUnit o.core).chainQ = (u.coreUnit o.core).chainQ ++ [vchainJob m.id o.offset o] ∧
      ∀ pd, u.resolve m.tenant (vcBinding o).desc (plain 64) rRead = some pd → Claims.usable u pd 64 = true →
        ((u.enterChain m o).op? m.id o.offset).map (·.aux) = some ((vcBinding o).bytes ++ Claims.bytesAt u o.core pd 64) := by
  rw [State.enterChain]
  have hk := keepDesc_kept ho (vcBinding o).bytes
  have htile := keepDesc_tile u m o (vcBinding o).bytes
  have haux : ∀ pd, u.resolve m.tenant (vcBinding o).desc (plain 64) rRead = some pd → Claims.usable u pd 64 = true →
      (u.keepDesc m o (vcBinding o).bytes).2.aux = (vcBinding o).bytes ++ Claims.bytesAt u o.core pd 64 :=
    fun pd hpd hud => keepDesc_aux _ hpd hud
  generalize u.keepDesc m o (vcBinding o).bytes = r at hk htile haux ⊢
  obtain ⟨hb, hl, hq⟩ := queueVchain_fields r.1 m (htile.trans ht) hk.word
  rw [hk.core, hk.offset] at hq
  refine ⟨noBytes_trans hk.bytes hb, opAt_of_lists (hk.opAt hst hs) hl, hq.trans ?_, fun pd hpd hud => ?_⟩
  · rw [State.coreUnit_congr hk.cores]
  · rw [State.op?_congr hl, hk.op, Option.map_some, haux pd hpd hud]

end

section
variable {s : State} {id : Nat} {early : Option (List Byte)} {l : WorkList} {o : Op}

theorem tile_of_passes {opc : Nat} {rules : State → WorkList → Op → OpErr} (h : Claims.passes s id early opc rules l o) : o.tile = 0 := by
  obtain ⟨-, -, -, -, -, ho, -⟩ := h
  rw [ho]
  rfl

theorem coreUnit_issued (s : State) (l : WorkList) (o : Op) : (Claims.issued s l o).coreUnit = s.coreUnit :=
  State.coreUnit_congr ((only_issued s l o).part .cores (by decide))

/-- MATMUL. -/
theorem matmul_issued (h : Claims.passes s id early 0x01 matmulRules l o) :
    let u := Claims.issued s l o
    ∃ t, exec (.matmul id early) s = .next t ∧ Only (Claims.listParts ++ [.cores]) Claims.listRegs s t ∧ Claims.noBytes u t ∧
      Claims.opAt t id l.next .queued osRunning ∧
      (t.coreUnit o.core).arrayQ = (s.coreUnit o.core).arrayQ ++ [(id, l.next)] ∧
      ∀ pb pd, mmBinding o ≠ 0 → u.resolve l.tenant (mmBinding o) (plain 64) rRead = some pb → Claims.usable u pb 64 = true →
        u.resolve l.tenant (fieldAt (Claims.bytesAt u o.core pb 64) 0 8) (plain 64) rRead = some pd → Claims.usable u pd 64 = true →
        (t.op? id l.next).map (·.aux) = some (Claims.bytesAt u o.core pb 64 ++ Claims.bytesAt u o.core pd 64) := by
  intro u
  have i := issued_of_passes h
  have hid : (Claims.listWith l o).id = id := i.id_eq
  have hop := op?_issued h
  obtain ⟨t, ht, honly⟩ := only_execMatmul id early s
  have hrun : t = u.enterArray (Claims.listWith l o) o :=
    (Host.Outcome.next.inj ht).symm.trans (issueOp_passes h (by decide) _)
  obtain ⟨hb, hat, hq⟩ := enterArray_enters hop i.queued i.status
  rw [coreUnit_issued] at hq
  rw [← hrun] at hb hat hq
  rw [hid, i.offset] at hat hq
  refine ⟨t, ht, honly.mono (by decide) (by decide), hb, hat, hq, fun pb pd hn hpb hub hpd hud => ?_⟩
  have haux := enterArray_aux hop hn hpb hub hpd hud
  rw [← hrun, hid, i.offset] at haux
  exact haux

/-- VCHAIN. -/
theorem vchain_issued (h : Claims.passes s id early 0x02 vchainRules l o) :
    let u := Claims.issued s l o
    ∃ t, exec (.vchain id early) s = .next t ∧ Only (Claims.listParts ++ [.cores]) Claims.listRegs s t ∧ Claims.noBytes u t ∧
      Claims.opAt t id l.next .queued osRunning ∧
      (t.coreUnit o.core).chainQ = (s.coreUnit o.core).chainQ ++ [vchainJob id l.next o] ∧
      ∀ pd, u.resolve l.tenant (vcBinding o).desc (plain 64) rRead = some pd → Claims.usable u pd 64 = true →
        (t.op? id l.next).map (·.aux) = some ((vcBinding o).bytes ++ Claims.bytesAt u o.core pd 64) := by
  intro u
  have i := issued_of_passes h
  have hid : (Claims.listWith l o).id = id := i.id_eq
  obtain ⟨t, ht, honly⟩ := only_execVchain id early s
  have hrun : t = u.enterChain (Claims.listWith l o) o :=
    (Host.Outcome.next.inj ht).symm.trans (issueOp_passes h (by decide) _)
  obtain ⟨hb, hat, hq, haux⟩ := enterChain_enters (op?_issued h) i.queued i.status (tile_of_passes h)
  rw [coreUnit_issued] at hq
  rw [← hrun] at hb hat hq haux
  rw [hid, i.offset] at hat hq haux
  exact ⟨t, ht, honly.mono (by decide) (by decide), hb, hat, hq, haux⟩

end

/-! ### The MATMUL that a unit works on -/

theorem firstFree_mem {wanted : Op → Bool} {before : List Op} {es : List (Nat × Op)} {e : Nat × Op} (h : firstFree wanted before es = some e) :
    e ∈ es ∧ wanted e.2 = true := by
  induction es generalizing before with
  | nil => cases h
  | cons x es ih =>
    obtain ⟨id, o⟩ := x
    rw [firstFree] at h
    split at h
    · next hw =>
      obtain rfl := Option.some.inj h
      exact ⟨List.mem_cons_self .., (Bool.and_eq_true_iff.1 hw).1⟩
    · obtain ⟨hm, hw⟩ := ih h
      exact ⟨List.mem_cons_of_mem _ hm, hw⟩

/-- The operation that the array works on stands in its list. -/
theorem op?_mmNow {s : State} {k id : Nat} {quad : Option Nat} {o : Op} (h : s.mmNow k quad = some (id, o)) : s.op? id o.offset = some o := by
  rw [State.mmNow] at h
  obtain ⟨hm, -⟩ := firstFree_mem h
  obtain ⟨e, -, he⟩ := List.mem_filterMap.1 hm
  obtain ⟨p, hp, hep⟩ := Option.map_eq_some_iff.1 he
  obtain ⟨rfl, rfl⟩ := Prod.mk.inj hep
  rw [State.op?_at hp]
  exact hp

/-! ### SHADOW_LOAD -/

theorem rdB_toMap_from (bs : List Byte) (n i : Nat) :
    rdB (((bs.zipIdx n).filter fun x => x.1 ≠ 0).map fun x => (x.2, x.1)) i = if n ≤ i then bs.getD (i - n) 0 else 0 := by
  induction bs generalizing n with
  | nil => exact (ite_self _).symm
  | cons b bs ih =>
    rw [List.zipIdx_cons, List.filter_cons]
    by_cases hb : b ≠ 0
    · rw [if_pos (decide_eq_true hb), List.map_cons, rdB, look, ← rdB, ih]
      by_cases hi : i = n
      · rw [if_pos hi, if_pos (by omega), hi, Nat.sub_self]
        rfl
      · rw [if_neg hi]
        by_cases hn : n + 1 ≤ i
        · rw [if_pos hn, if_pos (by omega), show i - n = i - (n + 1) + 1 by omega]
          rfl
        · rw [if_neg hn, if_neg (by omega)]
    · rw [if_neg (by simpa using hb), ih]
      by_cases hi : i = n
      · rw [if_neg (by omega), if_pos (by omega), hi, Nat.sub_self]
        exact (not_not.1 hb).symm
      · by_cases hn : n + 1 ≤ i
        · rw [if_pos hn, if_pos (by omega), show i - n = i - (n + 1) + 1 by omega]
          rfl
        · rw [if_neg hn, if_neg (by omega)]

theorem rdBytes_toMap (bs : List Byte) : rdBytes (toMap bs) 0 bs.length = bs :=
  rdBytes_eq_of fun j _ => (rdB_toMap_from bs 0 (0 + j)).trans (by rw [if_pos (Nat.zero_le _), Nat.zero_add, Nat.sub_zero])

theorem readSet_weights {s : State} {l : WorkList} {o : Op} {i : Nat} {r : WRead} (h : s.readSet l o i = some r) {p : Place}
    (hp : s.resolve l.tenant (mmWeights o) (plain ((mmTile o i).weightIx o * mmTileBytes o + mmTileBytes o)) rRead true = some p) :
    r.set.weights = toMap (s.weightRead o.core l.tenant (p.plus ((mmTile o i).weightIx o * mmTileBytes o)) (mmTileBytes o)).data := by
  rw [State.readSet] at h
  dsimp only at h
  rw [hp] at h
  dsimp only [Option.map_some] at h
  split at h
  · split at h
    · cases h
    · obtain rfl := Option.some.inj h
      rfl
  · obtain rfl := Option.some.inj h
    rfl

theorem weightRead_unretired {s : State} {k : Nat} (h : num s.bankRetired k = 0) (t : Nat) (p : Place) (n : Nat) :
    s.weightRead k t p n = s.opRead k t p n := by
  cases p with
  | dev a g => exact if_pos h
  | acc o => rfl
  | stage o => rfl

theorem readSet_bytes {s : State} {l : WorkList} {o : Op} {i : Nat} {r : WRead} (h : s.readSet l o i = some r) {p : Place}
    (hp : s.resolve l.tenant (mmWeights o) (plain ((mmTile o i).weightIx o * mmTileBytes o + mmTileBytes o)) rRead true = some p)
    (hb : num s.bankRetired o.core = 0) (hu : Claims.usable s (p.plus ((mmTile o i).weightIx o * mmTileBytes o)) (mmTileBytes o) = true) :
    rdBytes r.set.weights 0 (mmTileBytes o) =
      Claims.bytesAt s o.core (p.plus ((mmTile o i).weightIx o * mmTileBytes o)) (mmTileBytes o) := by
  obtain ⟨-, hdata, -⟩ := opRead_usable o.core l.tenant hu
  rw [readSet_weights h hp, weightRead_unretired hb, hdata]
  have hlen := rdBytes_toMap (Claims.bytesAt s o.core (p.plus ((mmTile o i).weightIx o * mmTileBytes o)) (mmTileBytes o))
  rw [length_bytesAt] at hlen
  exact hlen

theorem only_readSet {s : State} {l : WorkList} {o : Op} {i : Nat} {r : WRead} (h : s.readSet l o i = some r) :
    Only readParts readRegs s r.s :=
  only_State_readSet s l o i (Only.refl s) r h (List.Subset.refl _) (List.Subset.refl _)

section
variable {s : State} {k q id : Nat} {l : WorkList} {o : Op} {r : WRead}

theorem shadowLoad_idle (h : s.towerRuns (k / 8) = false ∨ ((s.coreUnit k).shadow.any fun x => x.1 = q) = true ∨
    s.mmNow k (some q) = none) : shadowLoad k q s = s := by
  rw [shadowLoad]
  by_cases hc : (!s.towerRuns (k / 8) || ((s.coreUnit k).shadow.any fun x => x.1 = q)) = true
  · rw [if_pos hc]
  · have hnow : s.mmNow k (some q) = none := by
      rcases h with h | h | h
      · exact absurd (by rw [h]; rfl) hc
      · exact absurd (by rw [h, Bool.or_true]) hc
      · exact h
    rw [if_neg hc, hnow]

/-- The state after a weight set has been read into a shadow. -/
def State.shadowed (s : State) (k q : Nat) (w : WSet) : State :=
  s.setCoreUnit k { s.coreUnit k with shadow := insertKey q w (s.coreUnit k).shadow }

theorem shadowLoad_loads (hrun : s.towerRuns (k / 8) = true) (hfree : ((s.coreUnit k).shadow.any fun x => x.1 = q) = false)
    (hnow : s.mmNow k (some q) = some (id, o)) (hl : s.list? id = some l) (hr : (s.startOp id o.offset).readSet l o o.tile = some r)
    (hok : r.acc = .ok) : shadowLoad k q s = r.s.shadowed k q r.set := by
  rw [shadowLoad, if_neg (by rw [hrun, hfree]; decide), hnow]
  dsimp only
  rw [hl]
  dsimp only
  rw [hr]
  dsimp only
  rw [if_neg (not_not.2 hok)]
  rfl

theorem shadowed_fields (hnow : s.mmNow k (some q) = some (id, o)) (hr : (s.startOp id o.offset).readSet l o o.tile = some r) :
    Claims.noBytes s (r.s.shadowed k q r.set) ∧
      (r.s.shadowed k q r.set).coreUnit k = { s.coreUnit k with shadow := insertKey q r.set (s.coreUnit k).shadow } ∧
      (o.stage = .queued → Claims.opAt (r.s.shadowed k q r.set) id o.offset .started o.status) ∧
      ∀ p, s.resolve l.tenant (mmWeights o) (plain ((mmTile o o.tile).weightIx o * mmTileBytes o + mmTileBytes o)) rRead true = some p →
        num s.bankRetired o.core = 0 →
        Claims.usable s (p.plus ((mmTile o o.tile).weightIx o * mmTileBytes o)) (mmTileBytes o) = true →
        rdBytes r.set.weights 0 (mmTileBytes o) =
          Claims.bytesAt s o.core (p.plus ((mmTile o o.tile).weightIx o * mmTileBytes o)) (mmTileBytes o) := by
  have hstart := only_startOp s id o.offset
  have hread := only_readSet hr
  have hw := Worked.startOp s id o.offset
  have hb : Claims.noBytes s (s.startOp id o.offset) := noBytes_of_only hstart (by decide) (by decide)
  have hcore : r.s.coreUnit = s.coreUnit := State.coreUnit_congr ((hread.part .cores (by decide)).trans (hstart.part .cores (by decide)))
  have hb' : Claims.noBytes (s.startOp id o.offset) r.s := noBytes_of_only hread (by decide) (by decide)
  refine ⟨noBytes_trans hb hb', ?_, fun hst => ?_, fun p hp hret hu => ?_⟩
  · rw [State.shadowed, State.coreUnit_setCoreUnit, if_pos rfl, hcore]
  · have hat := opAt_startOp (opAt_iff.2 ⟨o, op?_mmNow hnow, hst, rfl⟩)
    exact opAt_of_lists hat (hread.part .lists (by decide))
  · rw [readSet_bytes hr ((hw.resolve _ _ _ _ _).trans hp) ((congrArg (num · o.core) (hstart.part .bankRetired (by decide))).trans hret)
      (hw.usable hu), bytesAt_congr hb]

end

/-- SHADOW_LOAD. -/
theorem shadowLoad_exec (core : Fin 64) (quad : Fin 4) (s : State) :
    (s.towerRuns (core.val / 8) = false ∨ (s.coreUnit core.val).shadow.any (fun x => x.1 = quad.val) = true ∨
      s.mmNow core.val (some quad.val) = none → exec (.shadowLoad core quad) s = .next s) ∧
    ∀ id o l r, s.towerRuns (core.val / 8) = true → (s.coreUnit core.val).shadow.any (fun x => x.1 = quad.val) = false →
      s.mmNow core.val (some quad.val) = some (id, o) → s.list? id = some l →
      (s.startOp id o.offset).readSet l o o.tile = some r → r.acc = .ok →
      ∃ t, exec (.shadowLoad core quad) s = .next t ∧
        Only (Claims.listParts ++ [.freeCtr, .cores]) Claims.listRegs s t ∧ Claims.noBytes s t ∧
        t.coreUnit core.val = { s.coreUnit core.val with shadow := insertKey quad.val r.set (s.coreUnit core.val).shadow } ∧
        (o.stage = .queued → Claims.opAt t id o.offset .started o.status) ∧
        ∀ p, s.resolve l.tenant (mmWeights o) (plain ((mmTile o o.tile).weightIx o * mmTileBytes o + mmTileBytes o)) rRead true =
          some p → num s.bankRetired o.core = 0 →
          Claims.usable s (p.plus ((mmTile o o.tile).weightIx o * mmTileBytes o)) (mmTileBytes o) = true →
          rdBytes r.set.weights 0 (mmTileBytes o) =
            Claims.bytesAt s o.core (p.plus ((mmTile o o.tile).weightIx o * mmTileBytes o)) (mmTileBytes o) := by
  refine ⟨fun h => congrArg Host.Outcome.next (shadowLoad_idle h), fun id o l r hrun hfree hnow hl hr hok => ?_⟩
  obtain ⟨t, ht, honly⟩ := only_execShadowLoad core quad s
  have hload : t = r.s.shadowed core.val quad.val r.set :=
    (Host.Outcome.next.inj ht).symm.trans (shadowLoad_loads hrun hfree hnow hl hr hok)
  refine ⟨t, ht, honly.mono (by decide) (by decide), ?_⟩
  rw [hload]
  exact shadowed_fields hnow hr

end Sys2Proof.Machine
end

section
/-! Reads that find no bad sector (R191, R194, R195): they count, and what later reads find stays. -/

namespace Sys2Proof.Machine

/-! ### While no sector reads as bad -/

/-- Counts of corrected sectors, event counts, and what an array reports. -/
def isCalm : Reg → Prop
  | .ctrVal u n => n < unitCtrs u
  | .memChce _ _ | .bedCe _ | .mxstat _ | .mxsatcnt _ => True
  | _ => False

theorem isCalm_of_isCount {r : Reg} (h : isCount r) : isCalm r := by
  obtain ⟨u, n, hn, rfl⟩ := isCount_high h
  exact hn

theorem Reg.mxstat_off (k : Nat) : (Reg.mxstat k).off = coreBlk k + 0x100 := rfl
theorem Reg.mxsatcnt_off (k : Nat) : (Reg.mxsatcnt k).off = coreBlk k + 0x104 := rfl

theorem memChstat_off_ne_calm {n c : Nat} (hc : c < 16) {r : Reg} (h : isCalm r) : (Reg.memChstat n c).off ≠ r.off := by
  cases r with
  | ctrVal u i => exact memChstat_off_ne_ctrVal hc h
  | memChce m d =>
    rw [Reg.memChstat_off, Reg.memChce_off, blk, blk]
    omega
  | bedCe k =>
    have hk := coreBlk_low k (show 0x104C < 0x10000 by decide)
    rw [Reg.memChstat_off, Reg.bedCe_off, blk]
    omega
  | mxstat k =>
    have hk := coreBlk_low k (show 0x100 < 0x10000 by decide)
    rw [Reg.memChstat_off, Reg.mxstat_off, blk]
    omega
  | mxsatcnt k =>
    have hk := coreBlk_low k (show 0x104 < 0x10000 by decide)
    rw [Reg.memChstat_off, Reg.mxsatcnt_off, blk]
    omega
  | _ => exact h.elim

/-- From `s` to `t` lists, units, stores and counts may have moved on; memory holds what it held, as reliably. -/
structure Calm (s t : State) : Prop where
  only : Only [.stores, .lists, .freeCtr, .cores, .ic] (readRegs ++ Claims.unitRegs) s t
  counts : RegsBut isCalm s t

namespace Calm

variable {s t u : State}

theorem refl (s : State) : Calm s s := ⟨Only.refl s, .refl s⟩

theorem trans (h : Calm s t) (k : Calm t u) : Calm s u := ⟨h.only.trans k.only, h.counts.trans k.counts⟩

/-- A step that touches no register. -/
theorem of_only {Ps : List Piece} (h : Only Ps [] s t) (hp : Ps ⊆ [.stores, .lists, .freeCtr, .cores, .ic]) : Calm s t :=
  ⟨h.mono hp (List.nil_subset _), (RegsBut.refl s).of_only h⟩

theorem ctr (s : State) (u code n : Nat) : Calm s (s.ctr u code n) :=
  ⟨only_State_ctr s u code n (Only.refl s) (by decide), (RegsBut.refl s).ctr u code n fun _ hi => hi⟩

theorem locate (h : Calm s t) : t.locate = s.locate :=
  State.locate_congr h.only.make (h.only.part .chanMapped (by decide)) (h.only.part .domains (by decide))
    (h.only.part .coreState (by decide)) (h.only.part .bankRetired (by decide))

theorem resolve (h : Calm s t) (v ref : Nat) (r : Rows) (right : Nat) (weights : Bool) :
    t.resolve v ref r right weights = s.resolve v ref r right weights :=
  resolve_of_segs (h.only.part .segs (by decide)) (h.only.part .bankRetired (by decide)) v ref r right weights

theorem mem (h : Calm s t) : t.mem = s.mem := h.only.part .mem (by decide)

/-- A sector decodes as it did. -/
theorem decodeAt (h : Calm s t) (q : Nat) : t.decodeAt (s.locate q) q = s.decodeAt (s.locate q) q := by
  have hbad : ∀ n c i, s.locate q = .ext n c i → t.poisoned n c = s.poisoned n c := fun n c i hl => by
    have hc : (Loc.ext n c i).chanOk := hl ▸ locate_chanOk s q
    rw [State.poisoned, State.poisoned, State.regF_congr (h.counts.reg (.memChstat n c) fun r hr => memChstat_off_ne_calm hc hr) 30 2]
  unfold State.decodeAt
  rw [h.mem, h.only.part .checks (by decide)]
  dsimp only
  split
  · next n c i hl =>
    by_cases hp : s.poisoned n c = true
    · rw [if_pos hp, if_pos ((hbad n c i hl).trans hp)]
    · rw [if_neg hp, if_neg (by rw [hbad n c i hl]; exact hp)]
  · rfl

end Calm

theorem calm_countOutcome (s : State) (l : Loc) {o : SectorOutcome} (h : o.isBad = false) : Calm s (s.countOutcome l o) := by
  have honly : Only [] readRegs s (s.countOutcome l o) := only_State_countOutcome s l o (Only.refl s) (List.Subset.refl _)
  refine ⟨honly.mono (List.nil_subset _) (by decide), ?_⟩
  cases o with
  | clean => cases l <;> exact .refl s
  | corrected =>
    cases l with
    | ext n c i => exact (RegsBut.countF (r := .memChce n c) (.refl s) trivial _ _ _).ctr _ _ _ fun _ hi => hi
    | bed k b i => exact RegsBut.countF (r := .bedCe k) (.refl s) trivial _ _ _
    | _ => exact .refl s
  | _ => cases h

/-! ### Reads -/

/-- A sector that reads as good or corrected. -/
def ReadsWell (s : State) (q : Nat) : Prop := (s.decodeAt (s.locate q) q).outcome.isBad = false

theorem readSector_calm {s t : State} {q : Nat} (h : Calm s t) (hq : ReadsWell s q) (tenant : Nat) :
    (t.readSector q tenant).2 = s.decodeAt (s.locate q) q ∧ Calm s (t.readSector q tenant).1 := by
  rw [State.readSector, h.locate, h.decodeAt, if_neg (by rw [hq]; exact Bool.false_ne_true)]
  exact ⟨rfl, h.trans (calm_countOutcome t _ hq)⟩

theorem readSector_decoded {s t : State} (h : Calm s t) (q tenant : Nat) : (t.readSector q tenant).2 = s.decodeAt (s.locate q) q := by
  rw [State.readSector, h.locate, h.decodeAt]
  split <;> rfl

/-- One sector joins a read. -/
def readStep (tenant : Nat) (x : State × Bool × List Byte) (q : Nat) : State × Bool × List Byte :=
  let y := x.1.readSector q tenant
  (y.1, x.2.1 || y.2.outcome.isBad, x.2.2 ++ (if y.2.outcome.isBad then List.replicate 64 0 else y.2.data))

theorem readSteps_bad (tenant : Nat) (qs : List Nat) {x : State × Bool × List Byte} (h : x.2.1 = true) :
    (qs.foldl (readStep tenant) x).2.1 = true :=
  foldl_keeps (fun x : State × Bool × List Byte => x.2.1 = true) _ qs x h fun x q _ hx => by
    rw [readStep]
    dsimp only
    rw [hx]
    rfl

/-- Sectors read well are read as they stand, and counted. -/
theorem readSteps_calm {s : State} (tenant : Nat) {qs : List Nat} (hqs : ∀ q, q ∈ qs → ReadsWell s q) {t : State} (h : Calm s t)
    (d : List Byte) : Calm s (qs.foldl (readStep tenant) (t, false, d)).1 ∧ (qs.foldl (readStep tenant) (t, false, d)).2.1 = false ∧
      (qs.foldl (readStep tenant) (t, false, d)).2.2 = d ++ qs.flatMap fun q => (s.decodeAt (s.locate q) q).data := by
  induction qs generalizing t d with
  | nil => exact ⟨h, rfl, (List.append_nil d).symm⟩
  | cons q qs ih =>
    have hq := hqs q (List.mem_cons_self ..)
    obtain ⟨hd, hc⟩ := readSector_calm h hq tenant
    have hstep : readStep tenant (t, false, d) q = ((t.readSector q tenant).1, false, d ++ (s.decodeAt (s.locate q) q).data) := by
      rw [readStep]
      dsimp only
      rw [hd, hq]
      rfl
    rw [List.foldl_cons, hstep, List.flatMap_cons, ← List.append_assoc]
    exact ih (fun p hp => hqs p (List.mem_cons_of_mem _ hp)) hc _

theorem readSteps_well {s : State} (tenant : Nat) {qs : List Nat} {t : State} (h : Calm s t) (d : List Byte)
    (hf : (qs.foldl (readStep tenant) (t, false, d)).2.1 = false) : ∀ q, q ∈ qs → ReadsWell s q := by
  induction qs generalizing t d with
  | nil => exact fun _ hq => absurd hq List.not_mem_nil
  | cons q qs ih =>
    have hdec := readSector_decoded h q tenant
    rw [List.foldl_cons] at hf
    cases hb : (s.decodeAt (s.locate q) q).outcome.isBad with
    | true =>
      rw [readSteps_bad tenant qs (by rw [readStep]; dsimp only; rw [hdec, hb]; rfl)] at hf
      cases hf
    | false =>
      obtain ⟨-, hc⟩ := readSector_calm h hb tenant
      have hstep : readStep tenant (t, false, d) q = ((t.readSector q tenant).1, false, d ++ (s.decodeAt (s.locate q) q).data) := by
        rw [readStep]
        dsimp only
        rw [hdec, hb]
        rfl
      rw [hstep] at hf
      exact fun p hp => (List.mem_cons.1 hp).elim (fun he => he ▸ hb) (ih hc _ hf p)

theorem readRaw_eq (s : State) (a n tenant : Nat) : s.readRaw a n tenant =
    ⟨((sectorsOf a n).foldl (readStep tenant) (s, false, [])).1,
      if ((sectorsOf a n).foldl (readStep tenant) (s, false, [])).2.1 then .bad else .ok,
      (((sectorsOf a n).foldl (readStep tenant) (s, false, [])).2.2.drop (a % 64)).take n⟩ := rfl

/-- A read that goes well goes well wherever memory is as it was, with the same bytes. -/
theorem readMem_calm {s t : State} {a n tenant node : Nat} (h : Calm s t) (hok : (s.readMem a n tenant node).acc = .ok) :
    (t.readMem a n tenant node).acc = .ok ∧ (t.readMem a n tenant node).data = (s.readMem a n tenant node).data ∧
      Calm s (t.readMem a n tenant node).s := by
  have hr : t.rangeAcc a n = s.rangeAcc a n := by
    unfold State.rangeAcc
    rw [h.locate]
  rw [State.readMem] at hok
  cases hacc : s.rangeAcc a n with
  | ok =>
    rw [hacc] at hok
    dsimp only at hok
    rw [readRaw_eq] at hok
    dsimp only at hok
    have hwell : ∀ q, q ∈ sectorsOf a n → ReadsWell s q := by
      refine readSteps_well tenant (Calm.refl s) [] ?_
      by_contra hb
      rw [Bool.not_eq_false] at hb
      rw [hb] at hok
      cases hok
    obtain ⟨-, hf, hd⟩ := readSteps_calm tenant hwell (Calm.refl s) []
    obtain ⟨hc', hf', hd'⟩ := readSteps_calm tenant hwell h []
    rw [State.readMem, State.readMem, hr, hacc]
    dsimp only
    rw [readRaw_eq, readRaw_eq]
    dsimp only
    rw [hf', hd', hd]
    exact ⟨rfl, rfl, hc'⟩
  | _ =>
    rw [hacc] at hok
    cases hok

theorem readMem_self {s : State} {a n tenant node : Nat} (hok : (s.readMem a n tenant node).acc = .ok) :
    Calm s (s.readMem a n tenant node).s := (readMem_calm (Calm.refl s) hok).2.2

/-- An operand in memory that reads well. -/
theorem opRead_dev_calm {s t : State} {k tenant a n : Nat} {g : Seg} (h : Calm s t) (hok : (s.opRead k tenant (.dev a g) n).acc = .ok) :
    (t.opRead k tenant (.dev a g) n).acc = .ok ∧ (t.opRead k tenant (.dev a g) n).data = (s.opRead k tenant (.dev a g) n).data ∧
      Calm s (t.opRead k tenant (.dev a g) n).s := by
  have hs : ∀ v : State, (v.opRead k tenant (.dev a g) n).acc = (v.readMem a n tenant k).acc ∧
      (v.opRead k tenant (.dev a g) n).data = (v.readMem a n tenant k).data ∧
      ∃ code, (v.opRead k tenant (.dev a g) n).s = (v.readMem a n tenant k).s.ctr k code (ceilDiv n 64) := fun v => by
    rw [State.opRead]
    split
    · exact ⟨rfl, rfl, _, rfl⟩
    · exact ⟨rfl, rfl, _, rfl⟩
  obtain ⟨hsa, hsd, -⟩ := hs s
  obtain ⟨hta, htd, code, hts⟩ := hs t
  obtain ⟨h1, h2, h3⟩ := readMem_calm h (hsa ▸ hok)
  rw [hta, htd, hts, hsd]
  exact ⟨h1, h2, h3.trans (Calm.ctr _ _ _ _)⟩

theorem opRead_calm {s : State} {k tenant n : Nat} {p : Place} (hok : (s.opRead k tenant p n).acc = .ok) :
    Calm s (s.opRead k tenant p n).s := by
  cases p with
  | dev a g => exact (opRead_dev_calm (Calm.refl s) hok).2.2
  | acc o => exact Calm.refl s
  | stage o => exact Calm.refl s

/-! ### Weights that read well -/

/-- One sector of weights joins a read. -/
def weightStep (k tenant : Nat) (x : MemRead) (q : Nat) : MemRead :=
  if x.s.retired k (bedBank (q - bedBase k)) then { x with data := x.data ++ List.replicate 64 0 }
  else
    let y := x.s.readMem q 64 tenant k
    ⟨y.s, if x.acc = .ok then y.acc else x.acc, x.data ++ (y.data ++ List.replicate 64 0).take 64⟩

theorem weightStep_calm {s : State} {k tenant q : Nat} {x : MemRead} (hx : x.acc = .ok → Calm s x.s)
    (hok : (weightStep k tenant x q).acc = .ok) : Calm s (weightStep k tenant x q).s := by
  rw [weightStep] at hok ⊢
  split at hok
  · next hret =>
    rw [if_pos hret]
    exact hx hok
  · next hret =>
    rw [if_neg hret]
    generalize hy : x.s.readMem q 64 tenant k = y at hok ⊢
    by_cases hxok : x.acc = .ok
    · have hyok : y.acc = .ok := (if_pos hxok).symm.trans hok
      subst hy
      exact (hx hxok).trans (readMem_self hyok)
    · exact absurd ((if_neg hxok).symm.trans hok) hxok

theorem weightRead_retired {s : State} {k : Nat} (h : num s.bankRetired k ≠ 0) (tenant a n : Nat) (g : Seg) :
    s.weightRead k tenant (.dev a g) n =
      { (sectorsOf a n).foldl (weightStep k tenant) ⟨s, .ok, []⟩ with
        data := (((sectorsOf a n).foldl (weightStep k tenant) ⟨s, .ok, []⟩).data.drop (a % 64)).take n } := if_neg h

theorem weightRead_calm {s : State} {k tenant n : Nat} {p : Place} (hok : (s.weightRead k tenant p n).acc = .ok) :
    Calm s (s.weightRead k tenant p n).s := by
  by_cases hret : num s.bankRetired k = 0
  · rw [weightRead_unretired hret] at hok ⊢
    exact opRead_calm hok
  · cases p with
    | dev a g =>
      rw [weightRead_retired hret] at hok ⊢
      exact foldl_keeps (fun x : MemRead => x.acc = .ok → Calm s x.s) (weightStep k tenant) (sectorsOf a n) ⟨s, .ok, []⟩
        (fun _ => Calm.refl s) (fun x q _ hx => weightStep_calm hx) hok
    | acc o => exact Calm.refl s
    | stage o => exact Calm.refl s

theorem first_ok {a b : Acc} : a.first b = .ok ↔ a = .ok ∧ b = .ok := by
  rw [Acc.first]
  split
  · next h => exact ⟨fun hb => ⟨h, hb⟩, fun hb => hb.2⟩
  · next h => exact ⟨fun ha => absurd ha h, fun ha => absurd ha.1 h⟩

theorem readSet_calm {s : State} {l : WorkList} {o : Op} {i : Nat} {r : WRead} (h : s.readSet l o i = some r) (hok : r.acc = .ok) :
    Calm s r.s ∧ r.set.list = l.id ∧ r.set.op = o.offset ∧ r.set.tile = i := by
  rw [State.readSet] at h
  dsimp only at h
  split at h
  · cases h
  · next x hx =>
    obtain ⟨p, -, rfl⟩ := Option.map_eq_some_iff.1 hx
    split at h
    · split at h
      · cases h
      · next y hy =>
        obtain ⟨q, -, rfl⟩ := Option.map_eq_some_iff.1 hy
        obtain rfl := Option.some.inj h
        obtain ⟨h1, h2⟩ := first_ok.1 hok
        exact ⟨(weightRead_calm h1).trans (weightRead_calm h2), rfl, rfl, rfl⟩
    · obtain rfl := Option.some.inj h
      exact ⟨weightRead_calm hok, rfl, rfl, rfl⟩

end Sys2Proof.Machine
end

section
/-! The rows of a tile stream through the array (R54 to R57, R60). -/

namespace Sys2Proof.Machine

/-! ### Zero points and saturation counts -/

theorem calm_mxSat (s : State) (k : Nat) (m : MxSat) : Calm s (s.mxSat k m) := by
  refine ⟨only_State_mxSat s k m (Only.refl s) (by decide) (by decide), ?_⟩
  rw [State.mxSat]
  split
  · exact .refl s
  · dsimp only
    have h1 := RegsBut.countF (r := .mxsatcnt k) (.refl s) (show isCalm _ from trivial) 0 32 (m.ints + m.fps)
    have h2 : ∀ {x : State} (c : Prop) [Decidable c] (b : Nat), RegsBut isCalm s x →
        RegsBut isCalm s (if c then x else x.setBit (.mxstat k) b) := fun c _ b hx => by
      split
      · exact hx
      · exact hx.setBit (r := .mxstat k) trivial b
    have h3 := h2 (m.fps = 0) 1 (h2 (m.ints = 0) 0 h1)
    split
    · exact h3.raise _
    · exact h3

/-- The bytes of core k's staging store are the same. -/
def SameStage (s t : State) (k : Nat) : Prop := ∀ i, i < stageSize → rdB t.stores (stageBase k + i) = rdB s.stores (stageBase k + i)

theorem rdBytes_congr {m m' : Memory} {a n : Nat} (h : ∀ i, i < n → rdB m' (a + i) = rdB m (a + i)) : rdBytes m' a n = rdBytes m a n :=
  List.map_congr_left fun i hi => h i (List.mem_range.1 hi)

theorem rdLe_congr {m m' : Memory} {a n : Nat} (h : ∀ i, i < n → rdB m' (a + i) = rdB m (a + i)) : rdLe m' a n = rdLe m a n :=
  congrArg leNat (rdBytes_congr h)

theorem resolve_stage {s : State} {v ref off n right : Nat} (h : s.resolve v ref (plain n) right = some (.stage off)) :
    off + n ≤ stageSize := by
  rw [State.resolve] at h
  split at h
  · split at h
    · split at h <;> cases h
    · cases h
  · split at h <;> cases h
  · split at h
    · next hfit =>
      obtain rfl := Place.stage.inj (Option.some.inj h)
      rw [Rows.span, plain, Nat.mul_zero, Nat.zero_add] at hfit
      exact hfit
    · cases h
  · cases h

theorem resolve_acc {s : State} {v ref off right : Nat} {r : Rows} (h : s.resolve v ref r right = some (.acc off)) : refSpace ref = 2 := by
  rw [State.resolve] at h
  split at h
  · split at h
    · split at h <;> cases h
    · cases h
  · next hs => exact hs
  · split at h <;> cases h
  · cases h

theorem mmZero_calm {s x : State} {l : WorkList} {o : Op} {row : Nat} (h : Calm s x) (hst : SameStage s x o.core)
    (hsp : refSpace (mmZp o) ≠ 2) (hok : (s.mmZero l o row).acc = .ok) :
    (x.mmZero l o row).acc = .ok ∧ (x.mmZero l o row).data = (s.mmZero l o row).data ∧ Calm s (x.mmZero l o row).s := by
  rw [State.mmZero] at hok
  rw [State.mmZero, State.mmZero]
  by_cases hz : mmZp o = 0
  · rw [if_pos hz, if_pos hz]
    exact ⟨rfl, rfl, h⟩
  · rw [if_neg hz] at hok
    rw [if_neg hz, if_neg hz, h.resolve]
    cases hp : s.resolve l.tenant (mmZp o) (plain (row + 1)) rRead with
    | none =>
      rw [hp] at hok
      cases hok
    | some p =>
      rw [hp] at hok
      dsimp only at hok ⊢
      cases p with
      | dev a g => exact opRead_dev_calm h hok
      | acc i => exact absurd (resolve_acc hp) hsp
      | stage i =>
        have hfit := resolve_stage hp
        refine ⟨rfl, rdBytes_congr fun i' hi' => ?_, h⟩
        rw [Nat.add_assoc]
        exact hst _ (by omega)

theorem stores_mmZero (s : State) (l : WorkList) (o : Op) (row : Nat) : (s.mmZero l o row).s.stores = s.stores :=
  (only_State_mmZero (Ps := readParts) (Ks := readRegs) s l o row (Only.refl s) (List.Subset.refl _) (List.Subset.refl _)).part .stores
    (by decide)

/-! ### One row -/

/-- Where a row of a tile leaves its results. -/
def rowOut (o : Op) (t : Tile) (row : Nat) : Nat := storeBase o.core + refOff (mmAcc o) + row * mmAccPitch o + t.col0 * 4

/-- Where a row of a tile finds its activations. -/
def rowIn (o : Op) (t : Tile) (row : Nat) : Nat :=
  stageBase o.core + refOff (mmActs o) + row * mmActPitch o + t.k * mmKd o * mmActSize o

/-- The raw activations of a row. -/
def rowActs (m : Memory) (o : Op) (t : Tile) (row : Nat) : List Nat :=
  (List.range t.depth).map fun k => rdLe m (rowIn o t row + k * mmActSize o) (mmActSize o)

/-- What the running sum of a column starts from. -/
def rowStart (m : Memory) (o : Op) (t : Tile) (row n : Nat) : Word :=
  if t.k = 0 && !mmOpt o 3 then 0 else BitVec.ofNat 32 (rdLe m (rowOut o t row + 4 * n) 4)

/-- The result of one column of a row. -/
def rowSum (m : Memory) (z : List Byte) (o : Op) (w : WSet) (t : Tile) (row n : Nat) : Summed :=
  mmColumn o w (rowActs m o t row) (toSigned 8 (leNat z)) (rowStart m o t row n) n

/-- A row's results as bytes. -/
def rowBytes4 (f : Nat → Summed) (n : Nat) : List Byte := (List.range n).flatMap fun i => leBytes 4 (f i).bits.toNat

theorem fieldAt_rdBytes (m : Memory) (a i n len : Nat) (h : i + n ≤ len) : fieldAt (rdBytes m a len) i n = rdLe m (a + i) n := by
  rw [fieldAt, drop_rdBytes, rdLe]
  refine congrArg leNat ?_
  rw [show len - i = n + (len - i - n) by omega, ← rdBytes_append, List.take_left' (length_rdBytes ..)]

theorem rowActs_raw (m : Memory) (o : Op) (t : Tile) (row : Nat) : ((List.range t.depth).map fun k =>
    fieldAt (rdBytes m (rowIn o t row) (t.depth * mmActSize o)) (k * mmActSize o) (mmActSize o)) = rowActs m o t row := by
  refine List.map_congr_left fun k hk => fieldAt_rdBytes _ _ _ _ _ ?_
  rw [← Nat.succ_mul]
  exact Nat.mul_le_mul_right _ (List.mem_range.1 hk)

/-- A state with other stores. -/
def State.withStores (s : State) (m : Memory) : State := { s with stores := m }

theorem calm_withStores (s : State) (m : Memory) : Calm s (s.withStores m) :=
  Calm.of_only (Only.upd_stores (Ps := [.stores]) (Ks := []) (Only.refl s) (by decide)) (by decide)

theorem row_ok {x : TileRun} {l : WorkList} {o : Op} {w : WSet} {t : Tile} {r : Nat} (hx : x.acc = .ok)
    (hz : (x.s.mmZero l o (t.row0 + r)).acc = .ok) :
    (x.row l o w t r).acc = .ok ∧ (x.row l o w t r).s = (x.s.mmZero l o (t.row0 + r)).s.withStores
      (wrBytes x.s.stores (rowOut o t (t.row0 + r)) (rowBytes4
        (rowSum x.s.stores (x.s.mmZero l o (t.row0 + r)).data o w t (t.row0 + r)) t.cols)) := by
  have hst := stores_mmZero x.s l o (t.row0 + r)
  have hact := rowActs_raw x.s.stores o t (t.row0 + r)
  rw [TileRun.row, if_neg (not_not.2 hx)]
  dsimp only
  rw [if_neg (not_not.2 hz), hst]
  refine ⟨rfl, ?_⟩
  rw [List.flatMap_map]
  rw [rowIn] at hact
  rw [hact]
  rfl

/-! ### Rows of one strip of columns -/

theorem row_le_last {o : Op} {row : Nat} (hr : row < mmM o) (p : Nat) : row * p ≤ (mmM o - 1) * p :=
  Nat.mul_le_mul_right p (by omega)

/-- A strip of a MATMUL: the columns and the depth of a tile over all rows. -/
structure Strip (o : Op) (t : Tile) : Prop where
  cols : t.col0 + t.cols ≤ mmN o
  pitch : mmN o * 4 ≤ mmAccPitch o
  out : refOff (mmAcc o) + (mmM o - 1) * mmAccPitch o + mmN o * 4 ≤ accSize
  depth : (t.k * mmKd o + t.depth) * mmActSize o ≤ mmActRow o
  acts : refOff (mmActs o) + (mmM o - 1) * mmActPitch o + mmActRow o ≤ stageSize

/-- From `s` to `x` the rows `lo` to `hi − 1` of a strip have been streamed, and no other byte of a store has changed. -/
structure Streams (s : State) (l : WorkList) (o : Op) (w : WSet) (t : Tile) (lo hi : Nat) (x : State) : Prop where
  calm : Calm s x
  rows : ∀ row, lo ≤ row → row < hi → ∀ n, n < t.cols →
    rdLe x.stores (rowOut o t row + 4 * n) 4 = (rowSum s.stores (s.mmZero l o row).data o w t row n).bits.toNat
  rest : ∀ b, (∀ row, lo ≤ row → row < hi → b < rowOut o t row ∨ rowOut o t row + 4 * t.cols ≤ b) → rdB x.stores b = rdB s.stores b

namespace Strip

variable {o : Op} {t : Tile} (h : Strip o t)
include h

/-- A row's results lie in the accumulator store. -/
theorem out_lt {row : Nat} (hr : row < mmM o) : rowOut o t row + 4 * t.cols ≤ stageBase o.core := by
  obtain ⟨hc, hp, ho, hd, ha⟩ := h
  have hm := row_le_last hr (mmAccPitch o)
  rw [rowOut, storeBase, stageBase]
  rw [accSize] at ho
  omega

/-- Rows leave their results apart from each other. -/
theorem out_apart {row row' : Nat} (hlt : row < row') : rowOut o t row + 4 * t.cols ≤ rowOut o t row' := by
  obtain ⟨hc, hp, ho, hd, ha⟩ := h
  have hm : (row + 1) * mmAccPitch o ≤ row' * mmAccPitch o := Nat.mul_le_mul_right _ hlt
  rw [Nat.succ_mul] at hm
  rw [rowOut, rowOut]
  omega

/-- A row's activations lie in the staging store. -/
theorem in_le {row : Nat} (hr : row < mmM o) {k : Nat} (hk : k < t.depth) :
    stageBase o.core ≤ rowIn o t row + k * mmActSize o ∧
      rowIn o t row + k * mmActSize o + mmActSize o ≤ stageBase o.core + stageSize := by
  obtain ⟨hc, hp, ho, hd, ha⟩ := h
  have hm := row_le_last hr (mmActPitch o)
  have hk' : (t.k * mmKd o + k + 1) * mmActSize o ≤ (t.k * mmKd o + t.depth) * mmActSize o := Nat.mul_le_mul_right _ (by omega)
  rw [Nat.succ_mul, Nat.add_mul] at hk'
  rw [rowIn]
  omega

end Strip

section
variable {s : State} {l : WorkList} {o : Op} {w : WSet} {t : Tile} {lo hi : Nat} {x : State}

theorem Streams.start (h : Calm s x) (hst : x.stores = s.stores) (lo : Nat) : Streams s l o w t lo lo x :=
  ⟨h, fun _ h1 h2 => absurd h2 (Nat.not_lt.2 h1), fun _ _ => by rw [hst]⟩

/-- The rows that come leave what the rows before found. -/
theorem Streams.step_calm (h : Streams s l o w t lo hi x) {y : State} (hc : Calm x y) (hst : y.stores = x.stores) :
    Streams s l o w t lo hi y :=
  ⟨h.calm.trans hc, fun row h1 h2 n hn => by rw [hst]; exact h.rows row h1 h2 n hn, fun b hb => by rw [hst]; exact h.rest b hb⟩

theorem Streams.sameStage (h : Streams s l o w t lo hi x) (hs : Strip o t) (hM : hi ≤ mmM o) : SameStage s x o.core := fun i _ =>
  h.rest _ fun row _ h2 => Or.inr (by have := hs.out_lt (row := row) (by omega); omega)

theorem rowActs_congr {m m' : Memory} (hs : Strip o t) {row : Nat} (hr : row < mmM o)
    (h : ∀ i, i < stageSize → rdB m' (stageBase o.core + i) = rdB m (stageBase o.core + i)) : rowActs m' o t row = rowActs m o t row := by
  refine List.map_congr_left fun k hk => rdLe_congr fun i hi => ?_
  obtain ⟨h1, h2⟩ := hs.in_le hr (List.mem_range.1 hk)
  have := h (rowIn o t row + k * mmActSize o + i - stageBase o.core) (by omega)
  rwa [show stageBase o.core + (rowIn o t row + k * mmActSize o + i - stageBase o.core) = rowIn o t row + k * mmActSize o + i by omega] at this

theorem rowSum_congr {m m' : Memory} (hs : Strip o t) {row : Nat} (hr : row < mmM o)
    (h : ∀ i, i < stageSize → rdB m' (stageBase o.core + i) = rdB m (stageBase o.core + i)) {n : Nat}
    (ho : ∀ i, i < 4 → rdB m' (rowOut o t row + 4 * n + i) = rdB m (rowOut o t row + 4 * n + i)) (z : List Byte) :
    rowSum m' z o w t row n = rowSum m z o w t row n := by
  rw [rowSum, rowSum, rowActs_congr hs hr h, rowStart, rowStart, rdLe_congr ho]

theorem length_rowBytes4 (f : Nat → Summed) (n : Nat) : (rowBytes4 f n).length = 4 * n := length_flatMap_leBytes n 4 _

theorem rdLe_wrBytes_within (m : Memory) (a : Nat) (bs : List Byte) (i n : Nat) (h : i + n ≤ bs.length) :
    rdLe (wrBytes m a bs) (a + i) n = fieldAt bs i n := by
  rw [← fieldAt_rdBytes _ _ _ _ _ h, rdBytes_wrBytes_same]

theorem rdLe_rowBytes4 (m : Memory) (a : Nat) (f : Nat → Summed) {i n : Nat} (h : i < n) :
    rdLe (wrBytes m a (rowBytes4 f n)) (a + 4 * i) 4 = (f i).bits.toNat := by
  rw [rdLe_wrBytes_within _ _ _ _ _ (by rw [length_rowBytes4]; omega), rowBytes4, fieldAt_table n 4 i _ h]
  exact Nat.mod_eq_of_lt (f i).bits.isLt

theorem rowBytes4_congr {f g : Nat → Summed} {n : Nat} (h : ∀ i, i < n → f i = g i) : rowBytes4 f n = rowBytes4 g n := by
  rw [rowBytes4, rowBytes4, List.flatMap_def, List.flatMap_def]
  exact congrArg _ (List.map_congr_left fun i hi => by rw [h i (List.mem_range.1 hi)])

/-- Writing the results of row `hi` streams it. -/
theorem Streams.next (h : Streams s l o w t lo hi x) (hs : Strip o t) (hlo : lo ≤ hi) {y : State} (hc : Calm s y)
    (hy : y.stores = wrBytes x.stores (rowOut o t hi) (rowBytes4 (rowSum s.stores (s.mmZero l o hi).data o w t hi) t.cols)) :
    Streams s l o w t lo (hi + 1) y := by
  have hlen := length_rowBytes4 (rowSum s.stores (s.mmZero l o hi).data o w t hi) t.cols
  refine ⟨hc, fun row h1 h2 n hn => ?_, fun b hb => ?_⟩
  · by_cases he : row = hi
    · rw [he, hy, rdLe_rowBytes4 _ _ _ hn]
    · rw [← h.rows row h1 (by omega) n hn, hy]
      have := hs.out_apart (show row < hi by omega)
      exact rdLe_congr fun i hi' => rdB_wrBytes_outside _ _ _ _ (Or.inl (by omega))
  · rw [hy, rdB_wrBytes_outside _ _ _ _ (by rw [hlen]; exact hb hi hlo (Nat.lt_succ_self hi))]
    exact h.rest b fun row h1 h2 => hb row h1 (by omega)

/-- R54, R60: a row streams through the array. -/
theorem Streams.row {x : TileRun} (h : Streams s l o w t lo hi x.s) (hs : Strip o t) (hlo : lo ≤ hi) (hM : hi < mmM o)
    (hx : x.acc = .ok) (hsp : refSpace (mmZp o) ≠ 2) (hz : (s.mmZero l o hi).acc = .ok) {r : Nat} (hr : t.row0 + r = hi) :
    (x.row l o w t r).acc = .ok ∧ Streams s l o w t lo (hi + 1) (x.row l o w t r).s := by
  have hstage := h.sameStage hs hM.le
  obtain ⟨hzok, hzd, hzc⟩ := mmZero_calm h.calm hstage hsp hz
  subst hr
  obtain ⟨hok, hrow⟩ := row_ok (w := w) hx hzok
  refine ⟨hok, ?_⟩
  rw [hrow]
  generalize (x.s.mmZero l o (t.row0 + r)).s = v at hzc
  refine h.next hs hlo (y := v.withStores _) (hzc.trans (calm_withStores v _)) ?_
  rw [hzd]
  refine congrArg _ (rowBytes4_congr fun n hn => rowSum_congr hs hM hstage (fun i hi => ?_) _)
  exact h.rest _ fun row h1 h2 => Or.inr (by have := hs.out_apart h2; omega)

end

end Sys2Proof.Machine
end

section
/-! The tiles of a weight set (R54 to R57, R60, R65, R90). -/

namespace Sys2Proof.Machine

/-! ### Which rows, columns and depth a tile has (R263) -/

theorem mul_lt_of_lt_ceilDiv {a b c : Nat} (hb : 0 < b) (h : c < ceilDiv a b) : c * b < a := by
  rw [ceilDiv, Nat.lt_iff_add_one_le, Nat.le_div_iff_mul_le hb, Nat.succ_mul] at h
  omega

theorem le_ceilDiv_mul {a b : Nat} (hb : 0 < b) : a ≤ ceilDiv a b * b := by
  by_contra h
  have hd := Nat.div_add_mod (a + b - 1) b
  have hm := Nat.mod_lt (a + b - 1) hb
  rw [ceilDiv, Nat.mul_comm] at h
  omega

theorem ceilDiv_pos {a b : Nat} (ha : 1 ≤ a) (hb : 0 < b) : 0 < ceilDiv a b := Nat.div_pos (by omega) hb

theorem mmKd_pos (o : Op) : 0 < mmKd o := by rw [mmKd]; split <;> decide

theorem mmNw_pos (o : Op) : 0 < mmNw o := by
  have hb : 0 < (if mmQuadMode o then 128 else 256) / 2 := by split <;> decide
  rw [mmNw]
  split <;> omega

theorem mmCap_pos (o : Op) : 0 < mmCap o := by rw [mmCap]; split <;> decide

/-- Two tiles of the same columns and depth. -/
structure SameStrip (t t' : Tile) : Prop where
  k : t'.k = t.k
  col0 : t'.col0 = t.col0
  cols : t'.cols = t.cols
  depth : t'.depth = t.depth

theorem SameStrip.streams {s : State} {l : WorkList} {o : Op} {w : WSet} {t t' : Tile} {lo hi : Nat} {x : State} (h : SameStrip t t') :
    Streams s l o w t' lo hi x ↔ Streams s l o w t lo hi x := by
  obtain ⟨hk, hc0, hc, hd⟩ := h
  have hout : rowOut o t' = rowOut o t := by
    funext row
    rw [rowOut, rowOut, hc0]
  have hsum : ∀ m z row, rowSum m z o w t' row = rowSum m z o w t row := fun m z row => by
    funext n
    rw [rowSum, rowSum, rowActs, rowActs, rowStart, rowStart, hout, hk, hd, rowIn, rowIn, hk]
  constructor
  · rintro ⟨h1, h2, h3⟩
    rw [hc] at h2 h3
    exact ⟨h1, by simpa only [hout, hsum] using h2, by simpa only [hout] using h3⟩
  · rintro ⟨h1, h2, h3⟩
    refine ⟨h1, ?_, ?_⟩
    · simpa only [hout, hsum, hc] using h2
    · simpa only [hout, hc] using h3

theorem SameStrip.strip {o : Op} {t t' : Tile} (h : SameStrip t t') (hs : Strip o t) : Strip o t' := by
  obtain ⟨hk, hc0, hc, hd⟩ := h
  obtain ⟨h1, h2, h3, h4, h5⟩ := hs
  exact ⟨by rw [hc0, hc]; exact h1, h2, h3, by rw [hk, hd]; exact h4, h5⟩

section
variable {s : State} {l : WorkList} {o : Op} {i : Nat}

theorem strip_mmTile (h : Claims.mmSound s l o) (hi : i < mmTiles o) : Strip o (mmTile o i) := by
  obtain ⟨hM, hK, hN, -, hpitch, -, hacc, hact, -⟩ := h
  have hn : i / (mmChunks o * mmKt o) * mmNw o < mmN o := by
    refine mul_lt_of_lt_ceilDiv (mmNw_pos o) (Nat.div_lt_of_lt_mul ?_)
    rw [mmTiles, Nat.mul_assoc, Nat.mul_comm] at hi
    exact hi
  have hk : i % mmKt o * mmKd o < mmK o :=
    mul_lt_of_lt_ceilDiv (mmKd_pos o) (Nat.mod_lt _ (ceilDiv_pos hK (mmKd_pos o)))
  refine ⟨?_, hpitch, hacc, ?_, hact⟩
  · rw [mmTile]
    dsimp only
    omega
  · rw [mmTile]
    dsimp only
    exact Nat.mul_le_mul_right _ (by omega)

/-- R65: the tiles that stream over one weight set are consecutive chunks of one strip. -/
theorem group_mmTile (h : Claims.mmSound s l o) {n : Nat} (hn : i + n < mmGroupEnd o i) :
    SameStrip (mmTile o i) (mmTile o (i + n)) ∧ (mmTile o (i + n)).row0 = ((mmTile o i).c + n) * mmCap o ∧
      (mmTile o (i + n)).row0 < mmM o ∧ (mmTile o (i + n)).rows = min (mmCap o) (mmM o - (mmTile o (i + n)).row0) := by
  obtain ⟨hM, hK, -⟩ := h
  have hch : 0 < mmChunks o := ceilDiv_pos hM (mmCap_pos o)
  have hlt : ∀ j, (mmTile o j).row0 < mmM o := fun j => mul_lt_of_lt_ceilDiv (mmCap_pos o) (Nat.mod_lt _ hch)
  rw [mmGroupEnd] at hn
  split at hn
  · next hkt =>
    have hdiv : (i + n) / mmChunks o = i / mmChunks o := by
      refine Nat.div_eq_of_lt_le ?_ hn
      exact (Nat.div_mul_le_self i _).trans (Nat.le_add_right i n)
    have hmod : (i + n) % mmChunks o = i % mmChunks o + n := by
      have h1 := Nat.div_add_mod (i + n) (mmChunks o)
      have h2 := Nat.div_add_mod i (mmChunks o)
      rw [hdiv] at h1
      omega
    refine ⟨?_, ?_, hlt _, rfl⟩
    · constructor <;> (dsimp only [mmTile]; rw [hkt])
      · rw [Nat.mod_one, Nat.mod_one]
      · rw [Nat.mul_one, hdiv]
      · rw [Nat.mul_one, hdiv]
      · rw [Nat.mod_one, Nat.mod_one]
    · dsimp only [mmTile]
      rw [hkt, Nat.div_one, Nat.div_one, hmod]
  · obtain rfl : n = 0 := by omega
    exact ⟨⟨rfl, rfl, rfl, rfl⟩, rfl, hlt _, rfl⟩

theorem le_mmGroupEnd (h : Claims.mmSound s l o) : i < mmGroupEnd o i := by
  obtain ⟨hM, -⟩ := h
  rw [mmGroupEnd]
  split
  · exact Nat.lt_div_mul_add (ceilDiv_pos hM (mmCap_pos o)) |>.trans_eq (Nat.succ_mul ..).symm
  · exact Nat.lt_succ_self i

end

/-! ### One tile -/

theorem foldl_range_succ {α : Type} (f : α → Nat → α) (x : α) (n : Nat) :
    (List.range (n + 1)).foldl f x = f ((List.range n).foldl f x) n := by
  rw [List.range_succ, List.foldl_append]
  rfl

section
variable {s v : State} {l : WorkList} {o : Op} {w : WSet} {t : Tile} {lo : Nat}

theorem rows_stream (hv : Streams s l o w t lo t.row0 v) (hs : Strip o t) (hlo : lo ≤ t.row0) (hsp : refSpace (mmZp o) ≠ 2)
    (hz : ∀ row, row < mmM o → (s.mmZero l o row).acc = .ok) (n : Nat) (hn : t.row0 + n ≤ mmM o) :
    let x := (List.range n).foldl (fun (x : TileRun) i => x.row l o w t i) ⟨v, .ok, {}⟩
    x.acc = .ok ∧ Streams s l o w t lo (t.row0 + n) x.s := by
  induction n with
  | zero => exact ⟨rfl, hv⟩
  | succ n ih =>
    obtain ⟨hok, hst⟩ := ih (by omega)
    dsimp only
    rw [foldl_range_succ]
    exact hst.row hs (by omega) (by omega) hok hsp (hz _ (by omega)) rfl

theorem runTile_only (v : State) (l : WorkList) (o : Op) (w : WSet) (t : Tile) : (v.runTile l o w t).s.lists = v.lists ∧
    (v.runTile l o w t).s.cores = v.cores := by
  have h := only_State_runTile (Ps := .stores :: readParts) (Ks := .mxstat :: .mxsatcnt :: readRegs) v l o w t (Only.refl v) (by decide)
    (by decide)
  exact ⟨h.part .lists (by decide), h.part .cores (by decide)⟩

theorem runTile_streams (hv : Streams s l o w t lo t.row0 v) (hs : Strip o t) (hlo : lo ≤ t.row0) (hsp : refSpace (mmZp o) ≠ 2)
    (hz : ∀ row, row < mmM o → (s.mmZero l o row).acc = .ok) (hn : t.row0 + t.rows ≤ mmM o) :
    (v.runTile l o w t).acc = .ok ∧ Streams s l o w t lo (t.row0 + t.rows) (v.runTile l o w t).s := by
  obtain ⟨hok, hst⟩ := rows_stream hv hs hlo hsp hz t.rows hn
  rw [State.runTile]
  dsimp only
  generalize (List.range t.rows).foldl (fun (x : TileRun) i => x.row l o w t i) ⟨v, .ok, {}⟩ = x at hok hst ⊢
  refine ⟨hok, hst.step_calm ((calm_mxSat _ _ _).trans (Calm.ctr _ _ _ _)) ?_⟩
  rw [(only_State_ctr (Ps := []) (Ks := [.ctrVal]) _ _ _ _ (Only.refl _) (by decide)).part .stores (by decide)]
  exact (only_State_mxSat (Ps := [.ic]) (Ks := [.mxstat, .mxsatcnt]) _ _ _ (Only.refl _) (by decide) (by decide)).part .stores (by decide)

end

/-! ### The tiles of a weight set -/

/-- The block of a tile as a job of the chain. -/
def Tile.job (t : Tile) (l : WorkList) (o : Op) : ChainJob :=
  { list := l.id, op := o.offset, row0 := t.row0, col0 := t.col0, rows := t.rows, cols := t.cols, fused := true }

/-- R90: the finished blocks of the first n tiles from i. -/
def handed (l : WorkList) (o : Op) (i n : Nat) : List ChainJob :=
  if mmBinding o = 0 then []
  else (((List.range n).map fun n => mmTile o (i + n)).filter fun x => x.k + 1 = mmKt o).map fun x => x.job l o

theorem handed_succ (l : WorkList) (o : Op) (i n : Nat) : handed l o i (n + 1) = handed l o i n ++
    (if mmBinding o ≠ 0 && (mmTile o (i + n)).k + 1 = mmKt o then [(mmTile o (i + n)).job l o] else []) := by
  rw [handed, handed]
  by_cases hb : mmBinding o = 0
  · rw [if_pos hb, if_pos hb, if_neg (by simp [hb])]
    rfl
  · rw [if_neg hb, if_neg hb, List.range_succ, List.map_append, List.filter_append, List.map_append]
    refine congrArg _ ?_
    by_cases hk : (mmTile o (i + n)).k + 1 = mmKt o
    · rw [if_pos (by simp [hb, hk])]
      simp [hk]
    · rw [if_neg (by simp [hk])]
      simp [hk]

/-- What a core's units hold once jobs have joined its chain. -/
def CoreUnit.joined (c : CoreUnit) (js : List ChainJob) : CoreUnit := { c with chainQ := c.chainQ ++ js }

theorem coreUnit_handOver (v : State) (l : WorkList) (o : Op) (t : Tile) : (v.handOver l o t).coreUnit o.core =
    (v.coreUnit o.core).joined (if mmBinding o ≠ 0 && t.k + 1 = mmKt o then [t.job l o] else []) := by
  rw [State.handOver]
  split
  · dsimp only
    rw [State.coreUnit_setCoreUnit, if_pos rfl]
    rfl
  · rw [CoreUnit.joined, List.append_nil]

theorem only_handOver (v : State) (l : WorkList) (o : Op) (t : Tile) : Only [.cores] [] v (v.handOver l o t) :=
  only_State_handOver v l o t (Only.refl v) (by decide)

/-- One tile of a weight set. -/
def tileStep (l : WorkList) (o : Op) (w : WSet) (i : Nat) (x : TileRun) (n : Nat) : TileRun :=
  if x.acc ≠ .ok then x
  else
    let t := mmTile o (i + n)
    let r := x.s.runTile l o w t
    if r.acc = .ok then { r with s := r.s.handOver l o t } else r

theorem runTiles_eq (v : State) (l : WorkList) (o : Op) (w : WSet) (i j : Nat) :
    v.runTiles l o w i j = (List.range (j - i)).foldl (tileStep l o w i) ⟨v, .ok, {}⟩ := rfl

/-- From `s` by way of `v`, n tiles of a weight set have been streamed. -/
structure Tiled (s v : State) (l : WorkList) (o : Op) (w : WSet) (i n : Nat) (x : TileRun) : Prop where
  ok : x.acc = .ok
  rows : Streams s l o w (mmTile o i) (mmTile o i).row0 (min (((mmTile o i).c + n) * mmCap o) (mmM o)) x.s
  lists : x.s.lists = v.lists
  core : x.s.coreUnit o.core = (v.coreUnit o.core).joined (handed l o i n)

section
variable {s v : State} {l : WorkList} {o : Op} {w : WSet} {i : Nat}

theorem Tiled.step (hs : Claims.mmSound s l o) (hi : i < mmTiles o) {n : Nat} (hn : i + n < mmGroupEnd o i) {x : TileRun}
    (h : Tiled s v l o w i n x) : Tiled s v l o w i (n + 1) (tileStep l o w i x n) := by
  obtain ⟨hok, hrows, hlists, hcore⟩ := h
  obtain ⟨hsame, hrow0, hlt, hr⟩ := group_mmTile hs hn
  have hstrip := strip_mmTile hs hi
  obtain ⟨-, -, -, -, -, hsp, -, -, -, -, hz⟩ := hs
  have hhi : min (((mmTile o i).c + n) * mmCap o) (mmM o) = (mmTile o (i + n)).row0 := by omega
  have hnext : min (((mmTile o i).c + (n + 1)) * mmCap o) (mmM o) = (mmTile o (i + n)).row0 + (mmTile o (i + n)).rows := by
    rw [← Nat.add_assoc, Nat.succ_mul]
    omega
  have hlo : (mmTile o i).row0 ≤ (mmTile o (i + n)).row0 := hrow0 ▸ Nat.mul_le_mul_right _ (Nat.le_add_right _ n)
  rw [hhi] at hrows
  obtain ⟨hacc, hst⟩ := runTile_streams (hsame.streams.2 hrows) (hsame.strip hstrip) hlo hsp (fun row hrow => (hz row hrow).1) (by omega)
  obtain ⟨hl, hc⟩ := runTile_only x.s l o w (mmTile o (i + n))
  rw [tileStep, if_neg (not_not.2 hok)]
  dsimp only
  rw [if_pos hacc]
  generalize x.s.runTile l o w (mmTile o (i + n)) = r at hacc hst hl hc
  have honly := only_handOver r.s l o (mmTile o (i + n))
  refine ⟨hacc, ?_, (honly.part .lists (by decide)).trans (hl.trans hlists), ?_⟩
  · rw [hnext]
    exact (hsame.streams.1 hst).step_calm (Calm.of_only honly (by decide)) (honly.part .stores (by decide))
  · rw [coreUnit_handOver, State.coreUnit_congr hc, hcore, handed_succ, CoreUnit.joined, CoreUnit.joined, CoreUnit.joined,
      List.append_assoc]

theorem tiles_run (hs : Claims.mmSound s l o) (hi : i < mmTiles o) (hv : Calm s v) (hst : v.stores = s.stores) (n : Nat)
    (hn : i + n ≤ mmGroupEnd o i) : Tiled s v l o w i n ((List.range n).foldl (tileStep l o w i) ⟨v, .ok, {}⟩) := by
  induction n with
  | zero =>
    obtain ⟨-, -, hlt, -⟩ := group_mmTile (n := 0) hs (le_mmGroupEnd hs)
    have hmin : min (((mmTile o i).c + 0) * mmCap o) (mmM o) = (mmTile o i).row0 := Nat.min_eq_left hlt.le
    refine ⟨rfl, ?_, rfl, ?_⟩
    · rw [hmin]
      exact Streams.start hv hst _
    · have hnil : handed l o i 0 = [] := ite_self []
      rw [hnil, CoreUnit.joined, List.append_nil]
      rfl
  | succ n ih =>
    rw [foldl_range_succ]
    exact (ih (by omega)).step hs hi (by omega)

end

end Sys2Proof.Machine
end

section
/-! SWAP and ROW_BROADCAST (R61 to R65, R90). -/

namespace Sys2Proof.Machine

/-! ### After the tiles of a weight set -/

/-- How far an operation of a list has come. -/
def State.opProgress (s : State) (id off : Nat) : Option (Nat × Nat) := (s.op? id off).map fun q => (q.tile, q.steps)

theorem progress_finishOp {v : State} {id off : Nat} {q : Op} (hp : v.op? id off = some q) (status detail : Nat) : (v.finishOp id off status detail).opProgress id off = v.opProgress id off := by
  by_cases hq : q.stage = .finished
  · rw [finishOp_finished status detail hp hq]
  · rw [State.opProgress, State.opProgress, State.op?_finishOp status detail hp hq, hp]
    rfl

theorem progress_endFused (v : State) (id off : Nat) : (v.endFused id off).opProgress id off = v.opProgress id off := by
  rw [State.endFused]
  split
  · next q hq =>
    dsimp only
    split
    · exact progress_finishOp hq _ _
    · rfl
  · rfl

theorem only_endFused (v : State) (id off : Nat) : Only [.lists] [] v (v.endFused id off) :=
  only_State_endFused v id off (Only.refl v) (by decide)

/-- A MATMUL's place in the queue of its core's array is given up. -/
def State.leaveArray (s : State) (l : WorkList) (o : Op) : State :=
  s.setCoreUnit o.core { s.coreUnit o.core with arrayQ := (s.coreUnit o.core).arrayQ.filter fun e => e ≠ (l.id, o.offset) }

/-- A MATMUL has come to tile j. -/
def State.atTile (s : State) (l : WorkList) (o p : Op) (j : Nat) : State :=
  ((s.setOp l.id { p with tile := j, steps := mmStepsTo o j }).ctr o.core 0x01 (mmStepsTo o j - mmStepsTo o o.tile)).ctr o.core 0x03 1

theorem afterTiles_eq {s : State} {l : WorkList} {o p : Op} (hp : s.op? l.id o.offset = some p) (j : Nat) : s.afterTiles l o j =
    if j < mmTiles o then s.atTile l o p j
    else if mmBinding o = 0 then ((s.atTile l o p j).leaveArray l o).finishOp l.id o.offset osOk 0
    else ((s.atTile l o p j).leaveArray l o).endFused l.id o.offset := by
  rw [State.afterTiles, hp]
  rfl

section
variable {s : State} {l : WorkList} {o p : Op} (hp : s.op? l.id o.offset = some p) (j : Nat)
include hp

theorem op?_atTile : (s.atTile l o p j).op? l.id o.offset = some { p with tile := j, steps := mmStepsTo o j } := by
  have hoff : p.offset = o.offset := State.op?_at hp
  rw [State.atTile, State.op?_congr (lists_ctr _ _ _ _), State.op?_congr (lists_ctr _ _ _ _)]
  rw [← hoff] at hp ⊢
  exact State.op?_setOp_same (o := { p with tile := j, steps := mmStepsTo o j }) hp

omit hp in
theorem only_atTile : Only [.lists] [.ctrVal] s (s.atTile l o p j) :=
  only_State_ctr _ _ _ _ (only_State_ctr _ _ _ _ ((only_setOp s l.id _).mono (List.Subset.refl _) (List.nil_subset _)) (by decide)) (by decide)

omit hp in
theorem only_leaveArray (s : State) (l : WorkList) (o : Op) : Only [.cores] [] s (s.leaveArray l o) :=
  only_State_setCoreUnit s _ _ (Only.refl s) (by decide)

/-- What a core's units hold when an operation has left its array. -/
def CoreUnit.without (c : CoreUnit) (id off : Nat) : CoreUnit := { c with arrayQ := c.arrayQ.filter fun e => e ≠ (id, off) }

theorem afterTiles_done (hf : p.stage ≠ .finished) :
    Only [.lists, .cores] [.ctrVal] s (s.afterTiles l o j) ∧
      (s.afterTiles l o j).opProgress l.id o.offset = some (j, mmStepsTo o j) ∧
      (s.afterTiles l o j).coreUnit o.core =
        (if j < mmTiles o then s.coreUnit o.core else (s.coreUnit o.core).without l.id o.offset) ∧
      (mmBinding o = 0 → mmTiles o ≤ j → Claims.opAt (s.afterTiles l o j) l.id o.offset .finished osOk) := by
  have hop := op?_atTile hp j
  have honly := only_atTile (s := s) (l := l) (o := o) (p := p) j
  have hprog : (s.atTile l o p j).opProgress l.id o.offset = some (j, mmStepsTo o j) := by rw [State.opProgress, hop]; rfl
  have hcore : (s.atTile l o p j).coreUnit o.core = s.coreUnit o.core := by rw [State.coreUnit_congr (honly.part .cores (by decide))]
  rw [afterTiles_eq hp]
  generalize s.atTile l o p j = v at hop honly hprog hcore ⊢
  have hleave := only_leaveArray v l o
  have hlists := hleave.part .lists (by decide)
  have hleft : (v.leaveArray l o).coreUnit o.core = (s.coreUnit o.core).without l.id o.offset := by
    rw [State.leaveArray, State.coreUnit_setCoreUnit, if_pos rfl, hcore]
    rfl
  have hop' := (State.op?_congr hlists l.id o.offset).trans hop
  have hprog' : (v.leaveArray l o).opProgress l.id o.offset = some (j, mmStepsTo o j) := by rw [State.opProgress, hop']; rfl
  have honly' : Only [.lists, .cores] [.ctrVal] s (v.leaveArray l o) :=
    (honly.mono (by decide) (by decide)).trans (hleave.mono (by decide) (List.nil_subset _))
  generalize v.leaveArray l o = u at hleave hlists hleft hop' hprog' honly' ⊢
  by_cases hj : j < mmTiles o
  · rw [if_pos hj, if_pos hj]
    exact ⟨honly.mono (by decide) (by decide), hprog, hcore, fun _ h => absurd hj (Nat.not_lt.2 h)⟩
  · rw [if_neg hj, if_neg hj]
    by_cases hb : mmBinding o = 0
    · rw [if_pos hb]
      have hfin := only_finishOp u l.id o.offset osOk 0
      refine ⟨honly'.trans (hfin.mono (by decide) (List.nil_subset _)), (progress_finishOp hop' _ _).trans hprog', ?_, fun _ _ => ?_⟩
      · rw [State.coreUnit_congr (hfin.part .cores (by decide)), hleft]
      · exact opAt_iff.2 ⟨_, State.op?_finishOp osOk 0 hop' hf, rfl, rfl⟩
    · rw [if_neg hb]
      have hfin := only_endFused u l.id o.offset
      refine ⟨honly'.trans (hfin.mono (by decide) (List.nil_subset _)), (progress_endFused ..).trans hprog', ?_, fun h => absurd h hb⟩
      rw [State.coreUnit_congr (hfin.part .cores (by decide)), hleft]

end

/-! ### Streaming a weight set -/

section
variable {s v : State} {l : WorkList} {o p : Op} {w : WSet}

/-- What remains of a core's units when a weight set has been streamed. -/
def CoreUnit.streamed (c : CoreUnit) (l : WorkList) (o : Op) (i : Nat) : CoreUnit :=
  let c1 := c.joined (handed l o i (mmGroupEnd o i - i))
  if mmGroupEnd o i < mmTiles o then c1 else c1.without l.id o.offset

theorem streamed_of_streams {x : State} (hs : Claims.mmSound s l o) (hi : w.tile < mmTiles o)
    (h : Streams s l o w (mmTile o w.tile) (mmTile o w.tile).row0
      (min (((mmTile o w.tile).c + (mmGroupEnd o w.tile - w.tile)) * mmCap o) (mmM o)) x) : Claims.streamed s x l o w := by
  refine ⟨h.calm.mem, fun n r c hwn hn hr hc => ?_, fun b hb => h.rest b fun row _ h2 => ?_⟩
  · obtain ⟨d, rfl⟩ : ∃ d, n = w.tile + d := ⟨n - w.tile, by omega⟩
    obtain ⟨hsame, hrow0, -, hrows⟩ := group_mmTile hs hn
    have hx := hsame.streams.2 h
    have hcap : ((mmTile o w.tile).c + d + 1) * mmCap o ≤ ((mmTile o w.tile).c + (mmGroupEnd o w.tile - w.tile)) * mmCap o :=
      Nat.mul_le_mul_right _ (by omega)
    rw [Nat.succ_mul] at hcap
    have hlo : (mmTile o w.tile).row0 ≤ ((mmTile o w.tile).c + d) * mmCap o := Nat.mul_le_mul_right _ (Nat.le_add_right _ d)
    have hrow := hx.rows ((mmTile o (w.tile + d)).row0 + r) (by omega) (by omega) c hc
    have hout : ∀ (t : Tile) (row c : Nat), rowOut o t row + 4 * c =
        storeBase o.core + refOff (mmAcc o) + row * mmAccPitch o + (t.col0 + c) * 4 := fun t row c => by rw [rowOut]; omega
    have hin : ∀ (t : Tile) (row k : Nat), rowIn o t row + k * mmActSize o =
        stageBase o.core + refOff (mmActs o) + row * mmActPitch o + (t.k * mmKd o + k) * mmActSize o := fun t row k => by
      rw [rowIn, Nat.add_mul, Nat.add_assoc]
    rw [rowSum, rowStart, rowActs] at hrow
    simp only [hout, hin] at hrow
    exact hrow
  · have hstrip := strip_mmTile hs hi
    have hcols := hstrip.cols
    have := hb row (by omega)
    rw [rowOut]
    omega

theorem streamed_of_noBytes {x y : State} (h : Claims.streamed s x l o w) (hm : y.mem = x.mem) (hst : y.stores = x.stores) :
    Claims.streamed s y l o w := by
  obtain ⟨h1, h2, h3⟩ := h
  rw [← hst] at h2 h3
  exact ⟨hm.trans h1, h2, h3⟩

theorem streamSet_streams (hs : Claims.mmSound s l o) (hi : w.tile < mmTiles o) (hv : Calm s v) (hst : v.stores = s.stores)
    (hp : v.op? l.id o.offset = some p) (hf : p.stage ≠ .finished) :
    Claims.streamed s (v.streamSet l o w) l o w ∧
      (v.streamSet l o w).opProgress l.id o.offset = some (mmGroupEnd o w.tile, mmStepsTo o (mmGroupEnd o w.tile)) ∧
      (v.streamSet l o w).coreUnit o.core = (v.coreUnit o.core).streamed l o w.tile ∧
      (mmBinding o = 0 → mmTiles o ≤ mmGroupEnd o w.tile → Claims.opAt (v.streamSet l o w) l.id o.offset .finished osOk) := by
  have hle : w.tile ≤ mmGroupEnd o w.tile := (le_mmGroupEnd hs).le
  obtain ⟨hok, hrows, hlists, hcore⟩ := tiles_run hs hi hv hst (mmGroupEnd o w.tile - w.tile) (by omega)
  rw [← runTiles_eq] at hok hrows hlists hcore
  rw [State.streamSet, if_neg (not_not.2 hok)]
  generalize v.runTiles l o w w.tile (mmGroupEnd o w.tile) = r at hok hrows hlists hcore ⊢
  obtain ⟨honly, hprog, hunit, hend⟩ := afterTiles_done ((State.op?_congr hlists _ _).trans hp) (mmGroupEnd o w.tile) hf
  refine ⟨streamed_of_noBytes (streamed_of_streams hs hi hrows) (honly.part .mem (by decide)) (honly.part .stores (by decide)), hprog, ?_, hend⟩
  rw [hunit, hcore]
  rfl

theorem streamed_units (c : CoreUnit) (l : WorkList) (o : Op) (i : Nat) : (c.streamed l o i).shadow = c.shadow ∧
    (c.streamed l o i).active = c.active ∧ (c.streamed l o i).whole = c.whole ∧
    (c.streamed l o i).chainQ = c.chainQ ++ handed l o i (mmGroupEnd o i - i) ∧
    (mmTiles o ≤ mmGroupEnd o i → (l.id, o.offset) ∉ (c.streamed l o i).arrayQ) := by
  rw [CoreUnit.streamed]
  split
  · next hlt => exact ⟨rfl, rfl, rfl, rfl, fun h => absurd hlt (Nat.not_lt.2 h)⟩
  · refine ⟨rfl, rfl, rfl, rfl, fun _ hm => ?_⟩
    exact absurd (List.mem_filter.1 hm).2 (by simp)

/-- R61 to R65: what streaming a weight set leaves, from a state whose core waits with the same chain. -/
theorem streamSet_done (hs : Claims.mmSound s l o) (hi : w.tile < mmTiles o) (hv : Calm s v) (hst : v.stores = s.stores)
    (hp : v.op? l.id o.offset = some p) (hf : p.stage ≠ .finished) (hq : (v.coreUnit o.core).chainQ = (s.coreUnit o.core).chainQ) :
    Claims.streamed s (v.streamSet l o w) l o w ∧ Claims.tilesDone s (v.streamSet l o w) l o w ∧
      ((v.streamSet l o w).coreUnit o.core).shadow = (v.coreUnit o.core).shadow ∧
      ((v.streamSet l o w).coreUnit o.core).active = (v.coreUnit o.core).active ∧
      ((v.streamSet l o w).coreUnit o.core).whole = (v.coreUnit o.core).whole := by
  obtain ⟨hstream, hprog, hcore, hend⟩ := streamSet_streams hs hi hv hst hp hf
  obtain ⟨hsh, hac, hwh, hch, har⟩ := streamed_units (v.coreUnit o.core) l o w.tile
  rw [← hcore] at hsh hac hwh hch har
  rw [hq] at hch
  refine ⟨hstream, ⟨hprog, fun hb => ⟨?_, hend hb⟩, har, fun hb => ?_⟩, hsh, hac, hwh⟩
  · rw [hch, handed, if_pos hb, List.append_nil]
  · rw [hch, handed, if_neg hb]
    rfl

end

/-! ### SWAP -/

section
variable {s : State} {k q : Nat} {l : WorkList} {o : Op} {w : WSet}

/-- A loaded shadow set has become active. -/
def State.swapped (s : State) (k q : Nat) (w : WSet) : State :=
  s.setCoreUnit k { s.coreUnit k with shadow := removeKey q (s.coreUnit k).shadow, active := insertKey q w (s.coreUnit k).active }

theorem swap_empty (h : (s.coreUnit k).shadow.find? (fun x => x.1 = q) = none) : swap k q s = s := by
  rw [swap, h]

theorem swap_loaded (h : (s.coreUnit k).shadow.find? (fun x => x.1 = q) = some (q, w)) (hl : s.list? w.list = some l)
    (ho : s.op? w.list w.op = some o) : swap k q s =
      if !s.towerRuns (k / 8) || !s.clearAhead o w.tile then s else (s.swapped k q w).streamSet l o w := by
  rw [swap, h]
  dsimp only
  rw [hl, ho]
  rfl

theorem swapped_fields (s : State) (k q : Nat) (w : WSet) : Only [.cores] [] s (s.swapped k q w) ∧
    ((s.swapped k q w).coreUnit k).shadow = removeKey q (s.coreUnit k).shadow ∧
    ((s.swapped k q w).coreUnit k).active = insertKey q w (s.coreUnit k).active ∧
    ((s.swapped k q w).coreUnit k).chainQ = (s.coreUnit k).chainQ := by
  have hcore : (s.swapped k q w).coreUnit k =
      { s.coreUnit k with shadow := removeKey q (s.coreUnit k).shadow, active := insertKey q w (s.coreUnit k).active } := by
    rw [State.swapped, State.coreUnit_setCoreUnit, if_pos rfl]
  rw [hcore]
  exact ⟨only_State_setCoreUnit s _ _ (Only.refl s) (by decide), rfl, rfl, rfl⟩

theorem swapped_streams (hl : s.list? w.list = some l) (ho : s.op? w.list w.op = some o) (hk : o.core = k) (ht : w.tile = o.tile)
    (hs : Claims.mmSound s l o) :
    let t := (s.swapped k q w).streamSet l o w
    (t.coreUnit k).shadow = removeKey q (s.coreUnit k).shadow ∧ (t.coreUnit k).active = insertKey q w (s.coreUnit k).active ∧
      Claims.streamed s t l o w ∧ Claims.tilesDone s t l o w := by
  intro t
  subst hk
  have hsound := hs
  obtain ⟨-, -, -, -, -, -, -, -, htile, hstage, -⟩ := hs
  obtain ⟨honly, hsh, hac, hch⟩ := swapped_fields s o.core q w
  have hop : s.op? l.id o.offset = some o := by rw [State.list?_id hl, State.op?_at ho]; exact ho
  obtain ⟨h1, h2, h3, h4, -⟩ := streamSet_done hsound (ht ▸ htile) (Calm.of_only honly (by decide)) (honly.part .stores (by decide))
    ((State.op?_congr (honly.part .lists (by decide)) _ _).trans hop) hstage hch
  exact ⟨h3.trans hsh, h4.trans hac, h1, h2⟩

end

/-- SWAP. -/
theorem swap_exec (core : Fin 64) (quad : Fin 4) (s : State) :
    (∀ w l o, (s.coreUnit core.val).shadow.find? (fun x => x.1 = quad.val) = some (quad.val, w) → s.list? w.list = some l →
      s.op? w.list w.op = some o →
      (s.towerRuns (core.val / 8) = false ∨ s.clearAhead o w.tile = false → exec (.swap core quad) s = .next s) ∧
      (s.towerRuns (core.val / 8) = true → s.clearAhead o w.tile = true → o.core = core.val → w.tile = o.tile → Claims.mmSound s l o →
        ∃ t, exec (.swap core quad) s = .next t ∧
          Only (Claims.listParts ++ [.freeCtr, .cores]) (Claims.listRegs ++ [.mxstat, .mxsatcnt]) s t ∧
          (t.coreUnit core.val).shadow = removeKey quad.val (s.coreUnit core.val).shadow ∧
          (t.coreUnit core.val).active = insertKey quad.val w (s.coreUnit core.val).active ∧
          Claims.streamed s t l o w ∧ Claims.tilesDone s t l o w)) ∧
    ((s.coreUnit core.val).shadow.find? (fun x => x.1 = quad.val) = none → exec (.swap core quad) s = .next s) := by
  refine ⟨fun w l o hw hl ho => ⟨fun h => ?_, fun hrun hclear hk ht hs => ?_⟩, fun h => congrArg Host.Outcome.next (swap_empty h)⟩
  · refine congrArg Host.Outcome.next ((swap_loaded hw hl ho).trans (if_pos ?_))
    rcases h with h | h
    · rw [h]
      rfl
    · rw [h]
      exact Bool.or_true _
  · obtain ⟨t, ht', honly⟩ := only_execSwap core quad s
    have hswap : t = (s.swapped core.val quad.val w).streamSet l o w :=
      (Host.Outcome.next.inj ht').symm.trans ((swap_loaded hw hl ho).trans (if_neg (by rw [hrun, hclear]; decide)))
    refine ⟨t, ht', honly.mono (by decide) (by decide), ?_⟩
    rw [hswap]
    exact swapped_streams hl ho hk ht hs

/-! ### ROW_BROADCAST -/

section
variable {s : State} {k id : Nat} {l : WorkList} {o : Op} {r : WRead}

/-- A weight set has been taken into all cells. -/
def State.broadcast (s : State) (k : Nat) (w : WSet) : State := s.setCoreUnit k { s.coreUnit k with whole := some w }

theorem broadcast_fields (s : State) (k : Nat) (w : WSet) : Only [.cores] [] s (s.broadcast k w) ∧
    ((s.broadcast k w).coreUnit k).whole = some w ∧ ((s.broadcast k w).coreUnit k).chainQ = (s.coreUnit k).chainQ := by
  have hcore : (s.broadcast k w).coreUnit k = { s.coreUnit k with whole := some w } := by
    rw [State.broadcast, State.coreUnit_setCoreUnit, if_pos rfl]
  rw [hcore]
  exact ⟨only_State_setCoreUnit s _ _ (Only.refl s) (by decide), rfl, rfl⟩

theorem rowBroadcast_waits (hnow : s.mmNow k none = some (id, o)) (hl : s.list? id = some l)
    (h : s.towerRuns (k / 8) = false ∨ s.clearAhead o o.tile = false) : rowBroadcast k s = s := by
  rw [rowBroadcast, hnow]
  dsimp only
  rw [hl]
  refine if_pos ?_
  rcases h with h | h
  · rw [h]
    rfl
  · rw [h]
    exact Bool.or_true _

theorem rowBroadcast_reads (hnow : s.mmNow k none = some (id, o)) (hl : s.list? id = some l) (hrun : s.towerRuns (k / 8) = true)
    (hclear : s.clearAhead o o.tile = true) (hr : (s.startOp id o.offset).readSet l o o.tile = some r) (hok : r.acc = .ok) :
    rowBroadcast k s = (r.s.broadcast k r.set).streamSet l o r.set := by
  rw [rowBroadcast, hnow]
  dsimp only
  rw [hl]
  dsimp only
  rw [if_neg (by rw [hrun, hclear]; decide), hr]
  exact if_neg (not_not.2 hok)

theorem op?_startOp_unfinished (ho : s.op? id o.offset = some o) (hf : o.stage ≠ .finished) :
    ∃ p, (s.startOp id o.offset).op? id o.offset = some p ∧ p.stage ≠ .finished := by
  by_cases hq : o.stage = .queued
  · exact ⟨_, State.op?_startOp ho hq, fun h => OpStage.noConfusion h⟩
  · refine ⟨o, ?_, hf⟩
    rw [State.startOp, ho]
    dsimp only
    rw [if_neg hq]
    exact ho

theorem broadcast_streams (hnow : s.mmNow k none = some (id, o)) (hl : s.list? id = some l) (hk : o.core = k)
    (hs : Claims.mmSound s l o) (hr : (s.startOp id o.offset).readSet l o o.tile = some r) (hok : r.acc = .ok) :
    let t := (r.s.broadcast k r.set).streamSet l o r.set
    (t.coreUnit k).whole = some r.set ∧ Claims.streamed s t l o r.set ∧ Claims.tilesDone s t l o r.set := by
  intro t
  subst hk
  have hsound := hs
  obtain ⟨-, -, -, -, -, -, -, -, htile, hstage, -⟩ := hs
  obtain ⟨honly, hwh, hch⟩ := broadcast_fields r.s o.core r.set
  have hstart := only_startOp s id o.offset
  have hread := only_readSet hr
  obtain ⟨hcalm, -, -, hset⟩ := readSet_calm hr hok
  obtain ⟨p, hp, hf⟩ := op?_startOp_unfinished (op?_mmNow hnow) hstage
  have hid : l.id = id := State.list?_id hl
  have hstores : r.s.stores = s.stores := (hread.part .stores (by decide)).trans (hstart.part .stores (by decide))
  have hcores : r.s.coreUnit = s.coreUnit := State.coreUnit_congr ((hread.part .cores (by decide)).trans (hstart.part .cores (by decide)))
  obtain ⟨h1, h2, -, -, h5⟩ := streamSet_done (v := r.s.broadcast o.core r.set) (w := r.set) (p := p) hsound (hset ▸ htile)
    (((Calm.of_only hstart (by decide)).trans hcalm).trans (Calm.of_only honly (by decide))) ((honly.part .stores (by decide)).trans hstores)
    (by rw [State.op?_congr (honly.part .lists (by decide)), State.op?_congr (hread.part .lists (by decide)), hid]; exact hp) hf
    (by rw [hch, hcores])
  exact ⟨h5.trans hwh, h1, h2⟩

end

/-- ROW_BROADCAST. -/
theorem rowBroadcast_exec (core : Fin 64) (id : Nat) (l : WorkList) (o : Op) (s : State) (hnow : s.mmNow core.val none = some (id, o))
    (hl : s.list? id = some l) :
    (s.towerRuns (core.val / 8) = false ∨ s.clearAhead o o.tile = false → exec (.rowBroadcast core) s = .next s) ∧
    (∀ r, s.towerRuns (core.val / 8) = true → s.clearAhead o o.tile = true → o.core = core.val → Claims.mmSound s l o →
      (s.startOp id o.offset).readSet l o o.tile = some r → r.acc = .ok → ∃ t, exec (.rowBroadcast core) s = .next t ∧
        Only (Claims.listParts ++ [.freeCtr, .cores]) (Claims.listRegs ++ [.mxstat, .mxsatcnt]) s t ∧
        (t.coreUnit core.val).whole = some r.set ∧ Claims.streamed s t l o r.set ∧ Claims.tilesDone s t l o r.set) := by
  refine ⟨fun h => congrArg Host.Outcome.next (rowBroadcast_waits hnow hl h), fun r hrun hclear hk hs hr hok => ?_⟩
  obtain ⟨t, ht, honly⟩ := only_execRowBroadcast core s
  have hrow : t = (r.s.broadcast core.val r.set).streamSet l o r.set :=
    (Host.Outcome.next.inj ht).symm.trans (rowBroadcast_reads hnow hl hrun hclear hr hok)
  refine ⟨t, ht, honly.mono (by decide) (by decide), ?_⟩
  rw [hrow]
  exact broadcast_streams hnow hl hk hs hr hok

end Sys2Proof.Machine
end

section
/-! VCHAIN_BEAT (R72 to R75, R90). -/

namespace Sys2Proof.Machine

/-! ### Which job a beat belongs to -/

theorem nextJobOf_mem {s : State} {k : Nat} {j : ChainJob} (h : s.nextJobOf k = some j) : j ∈ (s.coreUnit k).chainQ := by
  rw [State.nextJobOf] at h
  split at h
  · next i hi =>
    obtain rfl := Option.some.inj h
    exact List.mem_of_find?_eq_some hi
  · split at h
    · exact List.mem_of_find?_eq_some h
    · cases h

theorem same_self (j : ChainJob) : j.same j = true := by
  rw [ChainJob.same]
  simp

theorem mem_setJob {c : CoreUnit} {j new : ChainJob} (h : j ∈ c.chainQ) : new ∈ (c.setJob j (some new)).chainQ := by
  refine List.mem_flatMap.2 ⟨j, h, ?_⟩
  rw [if_pos (same_self j)]
  exact List.mem_singleton_self new

theorem setJob_none {c : CoreUnit} {j y : ChainJob} (h : y ∈ (c.setJob j none).chainQ) : y.same j = false := by
  obtain ⟨x, -, hx⟩ := List.mem_flatMap.1 h
  split at hx
  · exact absurd hx List.not_mem_nil
  · next hs =>
    obtain rfl := List.mem_singleton.1 hx
    exact Bool.eq_false_iff.2 hs

section
variable {s : State} {k : Nat} {j : ChainJob} {l : WorkList} {o : Op}

theorem chainTurn_idle (h : s.towerRuns (k / 8) = false ∨ s.nextJobOf k = none) : chainTurn k s = s := by
  rw [chainTurn]
  cases hj : s.nextJobOf k with
  | none => rfl
  | some j =>
    have hrun : s.towerRuns (k / 8) = false := h.resolve_right (by rw [hj]; exact Option.some_ne_none j)
    have hbeat : vchainBeat k s = s := by rw [vchainBeat, if_pos (by rw [hrun]; rfl)]
    dsimp only
    split
    · split
      · rw [if_neg (by rw [hrun]; exact Bool.false_ne_true)]
      · exact hbeat
    · exact hbeat

theorem chainTurn_internal (hrun : s.towerRuns (k / 8) = true) (hj : s.nextJobOf k = some j) (hl : s.list? j.list = some l)
    (ho : s.op? j.list j.op = some o) (hint : internalOp o.opcode = true) (hturn : s.arrayTurn l o = true) :
    chainTurn k s = (s.dropOp l.id o.offset).runInternal l o := by
  rw [chainTurn, hj]
  dsimp only
  rw [hl, ho]
  dsimp only
  rw [if_pos hint, if_pos (by rw [hrun, hturn]; rfl)]

/-- Where the operands of a job lie. -/
def State.ioOf (s : State) (l : WorkList) (o : Op) (j : ChainJob) : Option JobIo := if j.fused then s.fusedIo l o j else s.vchainIo l o

/-- A beat is reported and its operation's digest kept. -/
def BeatRun.recorded (r : BeatRun) (k : Nat) (j : ChainJob) : State :=
  let s1 := (r.s.chainReport k r.fx).ctr k 0x10 1
  match s1.op? j.list j.op with
  | some o => s1.setOp j.list { o with digest := r.digest }
  | none => s1

/-- A beat that could not be carried out ends its operation. -/
def BeatRun.failed (r : BeatRun) (k t : Nat) (j : ChainJob) (io : JobIo) : State :=
  (r.s.spoil k t (some io.out) ⟨j.rows, io.outPitch, rowBytes io.binding.outFmt j.cols⟩ r.acc).failOp j.list j.op r.acc.status

theorem chainTurn_beat (hj : s.nextJobOf k = some j) (hl : s.list? j.list = some l)
    (ho : s.op? j.list j.op = some o) (hint : internalOp o.opcode = false) : chainTurn k s = vchainBeat k s := by
  rw [chainTurn, hj]
  dsimp only
  rw [hl, ho]
  dsimp only
  rw [if_neg (by rw [hint]; exact Bool.false_ne_true)]

theorem vchainBeat_lost (hrun : s.towerRuns (k / 8) = true) (hj : s.nextJobOf k = some j) (hl : s.list? j.list = some l)
    (ho : s.op? j.list j.op = some o) (hio : (s.startOp j.list j.op).ioOf l o j = none) :
    vchainBeat k s = (s.startOp j.list j.op).failOp j.list j.op osSegment := by
  rw [State.ioOf] at hio
  rw [vchainBeat, if_neg (by rw [hrun]; decide), hj]
  dsimp only
  rw [hl, ho]
  dsimp only
  rw [hio]

theorem vchainBeat_runs (hrun : s.towerRuns (k / 8) = true) (hj : s.nextJobOf k = some j) (hl : s.list? j.list = some l)
    (ho : s.op? j.list j.op = some o) {io : JobIo} (hio : (s.startOp j.list j.op).ioOf l o j = some io) :
    vchainBeat k s = if (Claims.beatOf s k l o j io).acc ≠ .ok then (Claims.beatOf s k l o j io).failed k l.tenant j io
      else ((Claims.beatOf s k l o j io).recorded k j).afterBeat k j (Claims.beatOf s k l o j io).red := by
  rw [State.ioOf] at hio
  rw [vchainBeat, if_neg (by rw [hrun]; decide), hj]
  dsimp only
  rw [hl, ho]
  dsimp only
  rw [hio]
  rfl

end

/-! ### What a beat leaves to its operation -/

section
variable {s : State} {k : Nat} {j : ChainJob} {l : WorkList} {o : Op}

/-- An operation that has not ended stands in its list. -/
def State.unfinished (s : State) (id off : Nat) : Prop := ∃ p, s.op? id off = some p ∧ p.stage ≠ .finished

theorem unfinished_congr {s t : State} {id off : Nat} (h : s.unfinished id off) (hl : t.lists = s.lists) : t.unfinished id off := by
  obtain ⟨p, hp, hf⟩ := h
  exact ⟨p, (State.op?_congr hl _ _).trans hp, hf⟩

theorem unfinished_setOp {s : State} {id off : Nat} {p : Op} (h : s.op? id off = some p) {q : Op} (hq : q.offset = p.offset)
    (hf : q.stage ≠ .finished) : (s.setOp id q).unfinished id off := by
  have hoff : q.offset = off := hq.trans (State.op?_at h)
  subst hoff
  exact ⟨q, State.op?_setOp_same h, hf⟩

theorem unfinished_startOp (ho : s.op? j.list j.op = some o) (hf : o.stage ≠ .finished) : (s.startOp j.list j.op).unfinished j.list j.op := by
  have hoff : o.offset = j.op := State.op?_at ho
  rw [← hoff] at ho ⊢
  exact op?_startOp_unfinished ho hf

theorem opAt_failOp {id off : Nat} (h : s.unfinished id off) (status : Nat) :
    Claims.opAt (s.failOp id off status) id off .finished status := by
  have hdrop := only_State_dropOp (Ps := [.cores]) (Ks := []) s id off (Only.refl s) (by decide)
  obtain ⟨p, hp, hf⟩ := unfinished_congr h (hdrop.part .lists (by decide))
  rw [State.failOp]
  exact opAt_iff.2 ⟨_, State.op?_finishOp status 0 hp hf, rfl, rfl⟩

/-- The parts that a beat's reads and writes may touch. -/
abbrev beatParts : List Piece := [.mem, .checks, .stores, .fpDirty, .chanPoisoned, .hbm, .ic, .flog0, .flog1, .mbox]

theorem only_beatOf (s : State) (k : Nat) (l : WorkList) (o : Op) (j : ChainJob) (io : JobIo) :
    Only beatParts Claims.listRegs (s.startOp j.list j.op) (Claims.beatOf s k l o j io).s :=
  Only.foldOn BeatRun.s (fun (x : BeatRun) (g : Seg1) => x.segment k l.tenant j.cols io g) _ _ (Only.refl _) fun x g hx =>
    only_BeatRun_segment x k l.tenant j.cols io g hx (by decide) (by decide)

theorem unfinished_beatOf (ho : s.op? j.list j.op = some o) (hf : o.stage ≠ .finished) (io : JobIo) :
    (Claims.beatOf s k l o j io).s.unfinished j.list j.op :=
  unfinished_congr (unfinished_startOp ho hf) ((only_beatOf s k l o j io).part .lists (by decide))

theorem coreUnit_beatOf (s : State) (k : Nat) (l : WorkList) (o : Op) (j : ChainJob) (io : JobIo) :
    (Claims.beatOf s k l o j io).s.coreUnit = s.coreUnit :=
  State.coreUnit_congr (((only_beatOf s k l o j io).part .cores (by decide)).trans ((only_startOp s j.list j.op).part .cores (by decide)))

theorem opAt_failed {r : BeatRun} (h : r.s.unfinished j.list j.op) (t : Nat) (io : JobIo) :
    Claims.opAt (r.failed k t j io) j.list j.op .finished r.acc.status := by
  have hspoil := only_State_spoil (Ps := .freeCtr :: beatParts) (Ks := Claims.listRegs) r.s k t (some io.out)
    ⟨j.rows, io.outPitch, rowBytes io.binding.outFmt j.cols⟩ r.acc (Only.refl _) (by decide) (by decide)
  exact opAt_failOp (unfinished_congr h (hspoil.part .lists (by decide))) _

/-- A beat's report moves no byte and no unit. -/
theorem only_recorded (r : BeatRun) (k : Nat) (j : ChainJob) :
    Only [.ic, .lists] [.vcstat, .vcsatcnt, .qswin, .qselem, .qstot, .qsstat, .ctrVal] r.s (r.recorded k j) := by
  have h := only_State_ctr _ k 0x10 1 (only_State_chainReport (Ps := [.ic, .lists])
    (Ks := [.vcstat, .vcsatcnt, .qswin, .qselem, .qstot, .qsstat, .ctrVal]) r.s k r.fx (Only.refl _) (by decide) (by decide)) (by decide)
  rw [BeatRun.recorded]
  generalize (r.s.chainReport k r.fx).ctr k 0x10 1 = u at h ⊢
  split
  · exact h.trans ((only_setOp u j.list _).mono (by decide) (List.nil_subset _))
  · exact h

theorem unfinished_recorded {r : BeatRun} (h : r.s.unfinished j.list j.op) : (r.recorded k j).unfinished j.list j.op := by
  have hc := only_State_ctr _ k 0x10 1 (only_State_chainReport (Ps := [.ic])
    (Ks := [.vcstat, .vcsatcnt, .qswin, .qselem, .qstot, .qsstat, .ctrVal]) r.s k r.fx (Only.refl _) (by decide) (by decide)) (by decide)
  obtain ⟨p, hp, hf⟩ := unfinished_congr h (hc.part .lists (by decide))
  rw [BeatRun.recorded]
  generalize (r.s.chainReport k r.fx).ctr k 0x10 1 = u at hp ⊢
  rw [hp]
  exact unfinished_setOp hp rfl hf

end

/-! ### The job after a beat -/

section
variable {u : State} {k : Nat} {j : ChainJob} (red : List Nat)

theorem only_afterBeat (u : State) (k : Nat) (j : ChainJob) (red : List Nat) : Only [.cores, .lists] [] u (u.afterBeat k j red) :=
  only_State_afterBeat u k j red (Only.refl u) (by decide)

/-- The chain's queue with a job replaced or removed. -/
def State.jobSet (u : State) (k : Nat) (j : ChainJob) (new : Option ChainJob) : State := u.setCoreUnit k ((u.coreUnit k).setJob j new)

theorem coreUnit_jobSet (u : State) (k : Nat) (j : ChainJob) (new : Option ChainJob) :
    (u.jobSet k j new).coreUnit k = (u.coreUnit k).setJob j new := by
  rw [State.jobSet, State.coreUnit_setCoreUnit, if_pos rfl]

/-- The job after a beat that is not its last. -/
def ChainJob.moved (j : ChainJob) (red : List Nat) : ChainJob :=
  { j with row := (nextBeat j.cols j.row j.beat).1, beat := (nextBeat j.cols j.row j.beat).2, red := red }

theorem afterBeat_going (h : (nextBeat j.cols j.row j.beat).1 < j.rows) :
    (u.afterBeat k j red).cores = (u.jobSet k j (some (j.moved red))).cores := by
  rw [State.afterBeat]
  dsimp only
  rw [if_pos h]
  split
  · rfl
  · split
    · exact (only_setOp _ j.list _).part .cores (by decide)
    · rfl

/-- A fused job has ended: its steps count, and its quadrant has had its turn. -/
def State.servedQuad (v : State) (k : Nat) (j : ChainJob) : State :=
  (v.addSteps j.list j.op 0 (beatCount j.rows j.cols + 95)).setCoreUnit k
    { (v.coreUnit k) with lastQuad := ((v.op? j.list j.op).map Op.quad).getD 3 }

theorem chainQ_servedQuad (v : State) (k : Nat) (j : ChainJob) : ((v.servedQuad k j).coreUnit k).chainQ = (v.coreUnit k).chainQ := by
  rw [State.servedQuad, State.coreUnit_setCoreUnit, if_pos rfl]

theorem only_sealDigest (v : State) (id off : Nat) : Only [.lists] [] v (v.sealDigest id off) :=
  only_State_sealDigest v id off (Only.refl v) (by decide)

theorem cores_sealIf (b : Bool) (v : State) (id off : Nat) : (if b then v.sealDigest id off else v).cores = v.cores := by
  split
  · exact (only_sealDigest v id off).part .cores (by decide)
  · rfl

theorem unfinished_sealDigest {v : State} {id off : Nat} (h : v.unfinished id off) : (v.sealDigest id off).unfinished id off := by
  obtain ⟨p, hp, hf⟩ := h
  rw [State.sealDigest, hp]
  dsimp only
  split
  · exact unfinished_setOp hp rfl hf
  · exact ⟨p, hp, hf⟩

theorem unfinished_setSteps {v : State} {id off : Nat} (h : v.unfinished id off) (n : Nat) : (v.setSteps id off n).unfinished id off := by
  obtain ⟨p, hp, hf⟩ := h
  rw [State.setSteps, hp]
  exact unfinished_setOp hp rfl hf

/-- A job of a VCHAIN ends the operation. -/
def State.endChain (v : State) (j : ChainJob) : State :=
  ((v.sealDigest j.list j.op).setSteps j.list j.op (beatCount j.rows j.cols + 95)).finishOp j.list j.op osOk 0

theorem only_endChain (v : State) (j : ChainJob) : Only [.lists] [] v (v.endChain j) :=
  only_State_finishOp _ _ _ _ _ (only_State_setSteps _ _ _ _ (only_sealDigest v j.list j.op) (by decide)) (by decide)

theorem opAt_endChain {v : State} (h : v.unfinished j.list j.op) : Claims.opAt (v.endChain j) j.list j.op .finished osOk := by
  obtain ⟨p, hp, hf⟩ := unfinished_setSteps (unfinished_sealDigest h) (beatCount j.rows j.cols + 95)
  exact opAt_iff.2 ⟨_, State.op?_finishOp osOk 0 hp hf, rfl, rfl⟩

theorem afterBeat_plain (h : ¬ (nextBeat j.cols j.row j.beat).1 < j.rows) (hf : j.fused = false) :
    u.afterBeat k j red = (u.jobSet k j none).endChain j := by
  rw [State.afterBeat]
  dsimp only
  rw [if_neg h, if_neg (by rw [hf]; exact Bool.false_ne_true)]
  rfl

theorem afterBeat_fused (h : ¬ (nextBeat j.cols j.row j.beat).1 < j.rows) (hf : j.fused = true) :
    (u.afterBeat k j red).cores = ((u.jobSet k j none).servedQuad k j).cores := by
  rw [State.afterBeat]
  dsimp only
  rw [if_neg h, if_pos hf]
  rw [(only_endFused _ j.list j.op).part .cores (by decide)]
  exact (cores_sealIf _ _ _ _).trans rfl

theorem afterBeat_job (hj : j ∈ (u.coreUnit k).chainQ) (hu : u.unfinished j.list j.op) :
    ((nextBeat j.cols j.row j.beat).1 < j.rows → j.moved red ∈ ((u.afterBeat k j red).coreUnit k).chainQ) ∧
      (j.rows ≤ (nextBeat j.cols j.row j.beat).1 →
        (∀ y, y ∈ ((u.afterBeat k j red).coreUnit k).chainQ → y.same j = false) ∧
          (j.fused = false → Claims.opAt (u.afterBeat k j red) j.list j.op .finished osOk)) := by
  refine ⟨fun h => ?_, fun h => ⟨fun y hy => ?_, fun hf => ?_⟩⟩
  · rw [State.coreUnit_congr (afterBeat_going red h), coreUnit_jobSet]
    exact mem_setJob hj
  · have hq : ((u.afterBeat k j red).coreUnit k).chainQ = ((u.coreUnit k).setJob j none).chainQ := by
      cases hf : j.fused with
      | false =>
        rw [afterBeat_plain red (Nat.not_lt.2 h) hf, State.coreUnit_congr ((only_endChain _ j).part .cores (by decide)), coreUnit_jobSet]
      | true => rw [State.coreUnit_congr (afterBeat_fused red (Nat.not_lt.2 h) hf), chainQ_servedQuad, coreUnit_jobSet]
    rw [hq] at hy
    exact setJob_none hy
  · rw [afterBeat_plain red (Nat.not_lt.2 h) hf]
    exact opAt_endChain (unfinished_congr hu ((only_State_setCoreUnit (Ps := [.cores]) (Ks := []) u k _ (Only.refl u) (by decide)).part
      .lists (by decide)))

end

/-- VCHAIN_BEAT. -/
theorem vchainBeat_exec (core : Fin 64) (s : State) :
    (s.towerRuns (core.val / 8) = false ∨ s.nextJobOf core.val = none → exec (.vchainBeat core) s = .next s) ∧
    ∀ j l o, s.towerRuns (core.val / 8) = true → s.nextJobOf core.val = some j → s.list? j.list = some l →
      s.op? j.list j.op = some o → o.stage ≠ .finished →
      let io := (s.startOp j.list j.op).ioOf l o j
      let frame := Only (Claims.listParts ++ [.freeCtr, .cores]) (Claims.listRegs ++ Claims.unitRegs) s
      (internalOp o.opcode = true → s.arrayTurn l o = true →
        exec (.vchainBeat core) s = .next ((s.dropOp l.id o.offset).runInternal l o)) ∧
      (internalOp o.opcode = false → io = none → ∃ t, exec (.vchainBeat core) s = .next t ∧ frame t ∧ Claims.noBytes s t ∧
        Claims.opAt t j.list j.op .finished osSegment) ∧
      (∀ x, internalOp o.opcode = false → io = some x → (Claims.beatOf s core.val l o j x).acc ≠ .ok →
        ∃ t, exec (.vchainBeat core) s = .next t ∧ frame t ∧
          Claims.opAt t j.list j.op .finished (Claims.beatOf s core.val l o j x).acc.status) ∧
      (∀ x, internalOp o.opcode = false → io = some x → (Claims.beatOf s core.val l o j x).acc = .ok →
        ∃ t, exec (.vchainBeat core) s = .next t ∧ frame t ∧ Claims.noBytes (Claims.beatOf s core.val l o j x).s t ∧
          ((nextBeat j.cols j.row j.beat).1 < j.rows →
            j.moved (Claims.beatOf s core.val l o j x).red ∈ (t.coreUnit core.val).chainQ) ∧
          (j.rows ≤ (nextBeat j.cols j.row j.beat).1 → (∀ y, y ∈ (t.coreUnit core.val).chainQ → y.same j = false) ∧
            (j.fused = false → Claims.opAt t j.list j.op .finished osOk))) := by
  obtain ⟨t, ht, honly⟩ := only_execVchainBeat core s
  have hframe : Only (Claims.listParts ++ [.freeCtr, .cores]) (Claims.listRegs ++ Claims.unitRegs) s t := honly.mono (by decide) (by decide)
  have htt : t = chainTurn core.val s := (Host.Outcome.next.inj ht).symm
  refine ⟨fun h => congrArg Host.Outcome.next (chainTurn_idle h), fun j l o hrun hj hl ho hf => ?_⟩
  have hbeat := fun hint => htt.trans (chainTurn_beat hj hl ho hint)
  refine ⟨fun hint hturn => congrArg Host.Outcome.next (chainTurn_internal hrun hj hl ho hint hturn), fun hint hio => ?_,
    fun x hint hio hbad => ?_, fun x hint hio hok => ?_⟩
  · have hfail := (hbeat hint).trans (vchainBeat_lost hrun hj hl ho hio)
    have hstart := only_startOp s j.list j.op
    refine ⟨t, ht, hframe, ?_, ?_⟩
    · rw [hfail]
      exact noBytes_of_only (only_State_failOp (Ps := [.cores, .lists]) (Ks := []) _ _ _ _ (hstart.mono (by decide) (List.Subset.refl _))
        (by decide)) (by decide) (by decide)
    · rw [hfail]
      exact opAt_failOp (unfinished_startOp ho hf) _
  · refine ⟨t, ht, hframe, ?_⟩
    rw [hbeat hint, vchainBeat_runs hrun hj hl ho hio, if_pos hbad]
    exact opAt_failed (unfinished_beatOf ho hf x) _ _
  · have hrun' := (hbeat hint).trans ((vchainBeat_runs hrun hj hl ho hio).trans (if_neg (not_not.2 hok)))
    have hcore := coreUnit_beatOf s core.val l o j x
    have hunf := unfinished_beatOf (k := core.val) (l := l) ho hf x
    generalize Claims.beatOf s core.val l o j x = r at hrun' hcore hunf ⊢
    have hrec := only_recorded r core.val j
    refine ⟨t, ht, hframe, ?_, ?_⟩
    · rw [hrun']
      exact noBytes_trans (noBytes_of_only hrec (by decide) (by decide)) (noBytes_of_only (only_afterBeat _ _ _ _) (by decide) (by decide))
    · rw [hrun']
      refine afterBeat_job r.red ?_ (unfinished_recorded hunf)
      rw [State.coreUnit_congr (hrec.part .cores (by decide)), hcore]
      exact nextJobOf_mem hj

/-- Settles O41: an operation enters its unit as issue leaves it, a weight set streams its rows apart from each other, and a
beat ends with its job's place in the chain's queue. -/
theorem arrayAndChainWork : Obligations.ArrayAndChainWork := by
  unfold Obligations.ArrayAndChainWork
  refine ⟨fun id early l o s => ⟨matmul_issued, vchain_issued⟩, fun core quad s => ?_, fun core id l o s => rowBroadcast_exec core id l o s,
    fun core s => vchainBeat_exec core s⟩
  obtain ⟨hidle, hloads⟩ := shadowLoad_exec core quad s
  obtain ⟨hswap, hempty⟩ := swap_exec core quad s
  exact ⟨hidle, hloads, hswap, hempty⟩

end Sys2Proof.Machine
end
